-- ==== Sys2Proof/Types.lean ====
section
/-! DEFINITION. Types.lean: the operand types of the commands. -/
namespace Sys2Proof

/-- The path a register access takes (R710, R717): the owner's BAR0, the descriptor path of a tenant, the debugger
(two-wire port and monitor together) and the management processor. -/
inductive Path where
  | bar0
  | descriptor (tenant : BitVec 8)
  | debugger
  | management
  deriving DecidableEq, Repr

/-- The header of an accepted descriptor (R563, R565): its tenant, the SQ that carried it, the SQ entry it occupied, its
tag, the no_irq flag, whether a byte that R570 does not list (a reserved field) is nonzero, whether a host address in
it is misaligned (R565), and whether a read of a buffer it names fails (R556). -/
structure Desc where
  tenant : BitVec 8
  ring : BitVec 6 := 0
  entry : BitVec 16 := 0
  tag : BitVec 16 := 0
  noIrq : Bool := false
  rsvSet : Bool := false
  badAddr : Bool := false
  readFail : Bool := false
  deriving DecidableEq, Repr

/-- The settings of a STREAM_START (R571): kind, byte 5 (`flags`), trigger, sector, lane mask, flush_us, ring_quires,
post_quires, the five event DQ words and the ribbon DQ word, and the LSB from acceptance to each member's first unit
boundary (R292). -/
structure StartArgs where
  kind : BitVec 8
  flags : BitVec 8
  trigger : BitVec 8
  sector : BitVec 8
  mask : Word
  flushUs : BitVec 16
  ring : BitVec 16
  post : BitVec 16
  dqs : List Word
  bounds : List Nat
  deriving DecidableEq, Repr

/-- A NoC packet as it arrives (R540), its opcode being the command's: header fields, data flits, and the cycles each probe
saw it wait for credit (R552). -/
structure PktArg where
  dst : BitVec 10
  src : BitVec 10
  vc : BitVec 2
  length : BitVec 3
  tenant : BitVec 8
  tag : BitVec 16
  status : BitVec 4
  zero : BitVec 4
  addr : BitVec 64
  data : List (BitVec 512)
  waits : List Nat
  deriving DecidableEq, Repr

/-- A flit as a Brynust port receives it (R582): the port, its seq and ack, and what the check of it finds: 0 good, 1 a CRC
failure or a reserved kind, 2 a failed tag of an encrypted group (R451). -/
structure FlitArg where
  port : BitVec 2
  seq : BitVec 12
  ack : BitVec 12
  check : BitVec 2
  deriving DecidableEq, Repr

/-- A read of host memory by the device (R556): an SQ fetch, the buffer of a descriptor, or the tail of a collator session's
ring. -/
inductive HostRead where
  | fetch (tenant : BitVec 8) (ring : BitVec 6)
  | buffer (d : Desc)
  | tail (session : BitVec 5)
  deriving DecidableEq, Repr

/-- A command on the two-wire debug port (R643): direction, tag, the data of a write, the CRC-4 and CRC-8 received, and
whether its access has not ended when its response phase begins (R645). -/
structure PortCmd where
  write : Bool
  tag : Bool
  data : Word
  crc : BitVec 4
  dataCrc : BitVec 8
  pending : Bool
  deriving DecidableEq, Repr

/-! ## Fabric (spec/05, spec/06). The configuration block is not published (R154), so what a load writes and what the
routing brings to an element at a clock edge are operands. -/

/-- A logic cell's settings (R120 to R124): mode 0 LOGIC, 1 ARITH, 2 SHIFT; its truth table; D from DX instead of O; DX
from the cell before (R123); SR asynchronous; the value SR loads; the initial value; the falling edge; its regional
clock; the initial storage bits; the carry input (0 zero, 1 one, 2 I3, 3 the chain). -/
structure CellCfg where
  mode : BitVec 2 := 0
  lut : BitVec 16 := 0
  viaDx : Bool := false
  link : Bool := false
  srAsync : Bool := false
  srValue : Bool := false
  init : Bool := false
  falling : Bool := false
  clock : BitVec 4 := 0
  bits : BitVec 16 := 0
  carry : BitVec 2 := 0
  deriving DecidableEq, Repr

/-- A logic cell's inputs at an edge. -/
structure CellIn where
  i : BitVec 4
  dx : Bool
  ce : Bool
  sr : Bool
  cin : Bool
  deriving DecidableEq, Repr

/-- An arithmetic slice's settings (R131 to R136): mode 0 MAC, 1 MACSUB, 2 ADD, 3 CASCADE_MAC, 4 ACS; rounding 0 TRUNCATE,
1 HALF_UP, 2 HALF_EVEN. -/
structure SliceCfg where
  mode : BitVec 3 := 0
  aSigned : Bool := false
  bSigned : Bool := false
  saturate : Bool := false
  shift : BitVec 5 := 0
  round : BitVec 2 := 0
  clamp : Bool := false
  max : Bool := false
  clock : BitVec 4 := 0
  deriving DecidableEq, Repr

/-- A slice's inputs at an edge (R131). -/
structure SliceIn where
  a : BitVec 16
  b : BitVec 16
  c : BitVec 40
  op : BitVec 2
  ce : Bool
  rst : Bool
  deriving DecidableEq, Repr

/-- What a load writes into one section: the settings of its cells and slices, the write modes of its memories' ports A
and B (0 WRITE_FIRST, 1 READ_FIRST, 2 NO_CHANGE), its regional clocks and the words its image initialises. -/
structure SectImage where
  sect : BitVec 8
  cells : List (BitVec 16 × CellCfg)
  slices : List (BitVec 5 × SliceCfg)
  ports : List (BitVec 7 × BitVec 2 × BitVec 2)
  rclk : List (BitVec 4 × Word)
  words : List (BitVec 7 × BitVec 15 × BitVec 40)
  deriving DecidableEq, Repr

/-- A write of a block memory or deep bank by a user port (R138 to R143, R149). `meet` is what else acts on the word: 0
nothing; on the same clock and edge, 1 the other port writes `other`, 2 the other port reads; on different clocks less
than 200 ps apart, 3 the other port reads, 4 the other port writes `other`. `scrub` is a scrubber between its read and
write-back, `inject` an injection at the same edge. -/
structure MemWrite where
  sect : BitVec 8
  mem : BitVec 7
  portB : Bool
  addr : BitVec 15
  data : BitVec 40
  meet : BitVec 3
  other : BitVec 40
  scrub : Bool
  inject : Bool
  deriving DecidableEq, Repr

/-! ## Start (spec/04) -/

/-- What a start step finds of one DDR channel (S12) or CXL port (S13): whether it is there, the hash of its DIMMs' serial
numbers, its DIMMs, speed code and logical ranks, the leaves it holds (R391), whether it is persistent, its link's width
and rate codes. -/
structure UnitInfo where
  present : Bool
  hash : BitVec 64
  dimms : BitVec 2
  speed : BitVec 2
  ranks : BitVec 6
  leaves : BitVec 48
  persistent : Bool
  width : BitVec 2
  rate : Bool
  deriving DecidableEq, Repr

/-- The end of a start step (R92, R96): its duration in µs, the cause of a failure it met (0 none), and what its work
gave: S01 the hold-up capacitance in µF; S03 the link's rate, width and FLIT mode; S08 the cause of R106 for the slots
GOLDEN, firmware A and B, fabric A and B (0 passes), at S11 the lanes remapped in each stack (R422); S09 what the image writes; S11 to S14 the units whose stored values
failed, those whose full training failed, and what it found of each unit; S16 the leaves used of each quire found OPEN
(R310), and the seal slots that cannot be read, with whether each was rebuilt (R607). -/
structure StepResult where
  micros : Word := 0
  cause : BitVec 8 := 0
  holdup : Word := 0
  rate : BitVec 4 := 0
  width : BitVec 7 := 0
  flit : Bool := false
  slots : List (BitVec 8) := []
  images : List SectImage := []
  stored : BitVec 512 := 0
  failed : BitVec 512 := 0
  units : List UnitInfo := []
  quires : List (BitVec 19 × BitVec 15) := []
  badSeals : List (BitVec 19 × Bool) := []
  deriving DecidableEq, Repr

end Sys2Proof
end

