-- ==== Sys2Proof/Syntax.lean ====
section
/-! DEFINITION. Syntax.lean: the commands a TM5140 takes, one constructor for each row of spec/opcode_table.json, in the
table's order, with the row's operands. What the outside world decides (a level at a pin, the outcome of a measurement, the
result of a calibration) is an operand. Each meaning stands in Machine/, where its docstring explains its operands. -/
namespace Sys2Proof

/-- The commands. -/
inductive Instr where
  /-- START_CONDITION_MET (R38). -/
  | startConditionMet
  /-- VIN_RISING (R39). -/
  | vinRising
  /-- VIN_UNDERVOLTAGE (R39). -/
  | vinUndervoltage
  /-- VIN_OVERVOLTAGE (R39). -/
  | vinOvervoltage
  /-- PWRFAIL_N_LOW (R39). -/
  | pwrfailNLow
  /-- COLOPHON_COMMIT_DONE (R612). -/
  | colophonCommitDone
  /-- GPF_DONE (R417). -/
  | gpfDone (phases : BitVec 6)
  /-- POWER_LOSS_SEQUENCE_END (R612). -/
  | powerLossSequenceEnd
  /-- VAUX_LOSS (R40). -/
  | vauxLoss
  /-- VAUX_RESTORED (R40). -/
  | vauxRestored
  /-- RAIL_PHASE_FAILURE (R42). -/
  | railPhaseFailure (rail : BitVec 5) (load : BitVec 7)
  /-- THERMAL_TRIP (R50). -/
  | thermalTrip
  /-- TEMP_SAMPLE (R694). -/
  | tempSample (l : List (BitVec 16 × BitVec 16))
  /-- SENSOR_ELEMENT_FAILURE (R694). -/
  | sensorElementFailure (sensor : BitVec 6) (element : Bool)
  /-- QUAL_GATE_END (R55). -/
  | qualGateEnd (n : BitVec 2) (edges : Bool) (offset : BitVec 16)
  /-- CANDIDATE_EDGE_TIMEOUT (R55). -/
  | candidateEdgeTimeout (n : BitVec 2)
  /-- MEMS_FAILED (R56). -/
  | memsFailed
  /-- MEMS_RECOVERED (R56). -/
  | memsRecovered
  /-- ACTIVE_SOURCE_LOST (R60). -/
  | activeSourceLost
  /-- FALLBACK_CHOSEN (R60). -/
  | fallbackChosen
  /-- REF_SWITCH (R61). -/
  | refSwitch (p : Path) (v : Word)
  /-- ROOT_LOCK_REACHED (R58). -/
  | rootLockReached
  /-- AUTO_REVERT (R62). -/
  | autoRevert
  /-- CAND_WRITE (R54). -/
  | candWrite (p : Path) (n : BitVec 2) (v : Word)
  /-- GLOBAL_DIV_WRITE (R65). -/
  | globalDivWrite (p : Path) (n : BitVec 5) (v : Word)
  /-- OUT_CTRL_WRITE (R68). -/
  | outCtrlWrite (p : Path) (n : Nat) (v : Word)
  /-- FREQ_ADJ_WRITE (R75). -/
  | freqAdjWrite (p : Path) (v : Word)
  /-- TIME_SET (R72). -/
  | timeSet (p : Path) (at' : Bool)
  /-- TIME_STEP (R72). -/
  | timeStep (p : Path) (at' : Bool)
  /-- TIME_CANCEL (R72). -/
  | timeCancel (p : Path)
  /-- TIME_CMD_APPLY (R72). -/
  | timeCmdApply
  /-- PPS_EDGE (R75). -/
  | ppsEdge (pin : Nat)
  /-- RESET_PIN (R88). -/
  | resetPin
  /-- OWNER_RESTART (R90). -/
  | ownerRestart (p : Path) (key : BitVec 16)
  /-- STEP_TIMEOUT (R92). -/
  | stepTimeout (step : BitVec 5)
  /-- MGMT_WATCHDOG_EXPIRY (R88). -/
  | mgmtWatchdogExpiry
  /-- START_STEP_DONE (R92). -/
  | startStepDone (step : BitVec 5) (r : StepResult)
  /-- PERST_N_ASSERT (R91). -/
  | perstNAssert
  /-- PERST_N_RELEASE (R91). -/
  | perstNRelease
  /-- LINK_TIMEOUT (R92). -/
  | linkTimeout
  /-- LINK_TRAIN_RETRY (R92). -/
  | linkTrainRetry (up : Bool) (rate : BitVec 4) (width : BitVec 7) (flit : Bool)
  /-- COMMIT_ROLLBACK (R109). -/
  | commitRollback (p : Path)
  /-- CLEAR_LEARNED (R100). -/
  | clearLearned (p : Path)
  /-- IMAGE_SEL_WRITE (R116). -/
  | imageSelWrite (p : Path) (v : Word)
  /-- FABRIC_MEM_READ (R141). -/
  | fabricMemRead (sec : BitVec 8) (mem : BitVec 7) (portB : Bool) (addr : BitVec 15) (strike : BitVec 47)
  /-- MEM_SCRUB_VISIT (R142). -/
  | memScrubVisit (sec : BitVec 8) (strikes : List (BitVec 7 × BitVec 47)) (dropped : List (BitVec 7))
  /-- MEM_INJECT (R149). -/
  | memInject (p : Path) (sec : BitVec 8) (v : Word) (lost : Bool)
  /-- FABRIC_LOAD (R155). -/
  | fabricLoad (d : Desc) (length : Word) (row col : BitVec 8) (auto : Bool) (map : BitVec 256)
  /-- SECTION_CLEAR_DONE (R156). -/
  | sectionClearDone (sec : BitVec 8)
  /-- FABRIC_LOAD_ENGINE_START (R155). -/
  | fabricLoadEngineStart
  /-- FABRIC_LOAD_DONE (R155). -/
  | fabricLoadDone (cause : BitVec 8) (image : List SectImage)
  /-- FABRIC_RELEASE (R157). -/
  | fabricRelease (d : Desc) (sec : BitVec 8)
  /-- FABRIC_RELEASE_DONE (R157). -/
  | fabricReleaseDone (sec : BitVec 8)
  /-- FABRIC_STOP (R158). -/
  | fabricStop (d : Desc) (sec : BitVec 8)
  /-- FABRIC_STOP_DONE (R158). -/
  | fabricStopDone (sec : BitVec 8)
  /-- FABRIC_CLEAR (R152). -/
  | fabricClear (d : Desc) (sec : BitVec 8)
  /-- RCLK_CTRL_WRITE (R167). -/
  | rclkCtrlWrite (p : Path) (sec : BitVec 8) (k : BitVec 4) (v : Word)
  /-- RCLK_SEL_CHANGE (R167). -/
  | rclkSelChange (sec : BitVec 8) (k : BitVec 4) (level : Bool)
  /-- RCLK_CHANGE_DONE (R162). -/
  | rclkChangeDone (sec : BitVec 8) (k : BitVec 4)
  /-- LANE_ENABLE (R186). -/
  | laneEnable (p : Path) (lane : BitVec 9) (v : Word)
  /-- LANE_DISABLE (R186). -/
  | laneDisable (p : Path) (lane : BitVec 9) (v : Word)
  /-- OCTET_RETUNE_DONE (R171). -/
  | octetRetuneDone (o : BitVec 6)
  /-- OCTET_PLL_FAILURE (R172). -/
  | octetPllFailure (o : BitVec 6)
  /-- OCTET_SWITCH_COMPLETE (R172). -/
  | octetSwitchComplete (o : BitVec 6)
  /-- SPARE_PLL_FAILURE (R172). -/
  | sparePllFailure (o : BitVec 6)
  /-- TX_FIR_WRITE (R175). -/
  | txFirWrite (p : Path) (lane : BitVec 9) (v : Word)
  /-- TX_FIR_APPLY (R175). -/
  | txFirApply (lane : BitVec 9)
  /-- RX_COEF_WRITE (R179). -/
  | rxCoefWrite (p : Path) (lane : BitVec 9) (v : Word)
  /-- RX_EQ_MODE_WRITE (R179). -/
  | rxEqModeWrite (p : Path) (lane : BitVec 9) (v : Word)
  /-- SIGNAL_DETECTED (R181). -/
  | signalDetected (lane : BitVec 9)
  /-- CDR_LOCK_ACQUIRED (R181). -/
  | cdrLockAcquired (lane : BitVec 9)
  /-- CODING_LOCK_GAINED (R182). -/
  | codingLockGained (lane : BitVec 9) (history : BitVec 58)
  /-- CODING_LOCK_LOST (R182). -/
  | codingLockLost (lane : BitVec 9)
  /-- CDR_LOCK_LOST (R181). -/
  | cdrLockLost (lane : BitVec 9)
  /-- SIGNAL_LOSS (R181). -/
  | signalLoss (lane : BitVec 9)
  /-- LANE_ANALOGUE_FAULT (R188). -/
  | laneAnalogueFault (lane : BitVec 9) (cause : Nat)
  /-- DIG_ACQUIRE (R206). -/
  | digAcquire (src : Desc ⊕ Path) (lane : BitVec 16) (tap : BitVec 8) (cfg span count : Word)
  /-- DIG_TRIGGER (R201). -/
  | digTrigger (lane : BitVec 9) (tap : Bool) (t ref : BitVec 64) (sample : BitVec 14)
  /-- DIG_ABORT (R205). -/
  | digAbort (p : Path) (lane : BitVec 9) (tap : Bool) (v : Word)
  /-- DIG_ACQUISITION_END (R205). -/
  | digAcquisitionEnd (lane : BitVec 9) (tap : Bool)
  /-- PROBE (R209). -/
  | probe (src : Desc ⊕ Path) (lane : BitVec 16) (ctrl : Word)
  /-- PROBE_ABORT (R217). -/
  | probeAbort (p : Path) (lane : BitVec 9) (v : Word)
  /-- PROBE_END (R209). -/
  | probeEnd (lane : BitVec 9) (timedOut : Bool) (received : BitVec 8) (data : List Word) (legN legP : Fin 3)
  /-- INTAKE_UNIT (R220). -/
  | intakeUnit (lane : BitVec 9) (u : BitVec 257) (t : BitVec 64) (bad k : Bool) (staged : BitVec 23)
      (most : BitVec 10)
  /-- RUN_PIECE_TIMEOUT (R239). -/
  | runPieceTimeout (n : BitVec 10) (m : BitVec 4)
  /-- GAP_PIECE_TIMEOUT (R233). -/
  | gapPieceTimeout (n : BitVec 10) (m : BitVec 4) (t : BitVec 64)
  /-- FEC_CODEWORD_DONE (R240). -/
  | fecCodewordDone (n : BitVec 10) (m : BitVec 4) (t : BitVec 64) (corr : BitVec 4) (uncorr b : Bool)
      (entries : BitVec 300) (ago : BitVec 16)
  /-- DESKEW_ROUND (R241). -/
  | deskewRound (sect b : BitVec 4) (t : BitVec 64) (offs : List (Option Nat))
  /-- SLICE_CHECKPOINT (R245). -/
  | sliceCheckpoint (sect : BitVec 4)
  /-- SLICE_FAILURE (R245). -/
  | sliceFailure (sect : BitVec 4) (k : Nat)
  /-- SLICE_FAILOVER_DONE (R245). -/
  | sliceFailoverDone (sect : BitVec 4)
  /-- LANE_CFG_WRITE (R224). -/
  | laneCfgWrite (p : Path) (which : Nat) (sect : BitVec 4) (j : BitVec 5) (v : Word)
  /-- SLOT_EVALUATION (R259). -/
  | slotEvaluation (sect : BitVec 4) (slot : BitVec 64)
  /-- TRIGGER_TOKEN_POST (R263). -/
  | triggerTokenPost
  /-- LINE_EVENT (R269). -/
  | lineEvent (line : BitVec 5)
  /-- SEQ_ARM (R266). -/
  | seqArm (p : Path) (sect : BitVec 4) (q : BitVec 2) (v : Word)
  /-- SEQ_DISARM (R266). -/
  | seqDisarm (p : Path) (sect : BitVec 4) (q : BitVec 2) (v : Word)
  /-- SW_COND (R260). -/
  | swCond (p : Path) (sect : BitVec 4) (q : BitVec 2) (v : Word)
  /-- TLINE_PULSE (R269). -/
  | tlinePulse (p : Path) (n : BitVec 5)
  /-- TRIG_PIN_EDGE (R270). -/
  | trigPinEdge (pin : Nat) (rising : Bool) (t : BitVec 64)
  /-- TAP_BEAT (R271). -/
  | tapBeat (sect : BitVec 4) (tap : BitVec 2) (data : BitVec 128) (nbits : BitVec 8) (t : BitVec 64) (gap : Bool)
  /-- INJ_EVENT (R272). -/
  | injEvent (sect : BitVec 4) (n : BitVec 3) (t : BitVec 64)
  /-- RIBBON (R275). -/
  | ribbon (d : Desc) (n : BitVec 16) (code : Word) (at' : BitVec 64) (data : BitVec 256)
  /-- RIBBON_AT_TIME (R275). -/
  | ribbonAtTime
  /-- GRAPH_RIBBON_TOKEN (R276). -/
  | graphRibbonToken (n : BitVec 10)
  /-- STREAM_START (R571). -/
  | streamStart (d : Desc) (a : StartArgs)
  /-- STREAM_STOP (R292). -/
  | streamStop (d : Desc) (n : BitVec 16)
  /-- STREAM_CLOSED (R292). -/
  | streamClosed (n : BitVec 10)
  /-- CAPTURE_RELEASE (R297). -/
  | captureRelease (d : Desc) (n : BitVec 16)
  /-- QUIRE_FREED (R297). -/
  | quireFreed (q : BitVec 19)
  /-- LEAF_FLUSH_TIMEOUT (R295). -/
  | leafFlushTimeout (n : BitVec 10)
  /-- QUIRE_ALLOCATED (R300). -/
  | quireAllocated
  /-- ROW_WAIT_TIMEOUT (R299). -/
  | rowWaitTimeout (q : BitVec 19)
  /-- SEAL_SLOT_WRITE (R296). -/
  | sealSlotWrite (q : BitVec 19)
  /-- DRAIN_TAKE (R305). -/
  | drainTake (balanced : BitVec 3)
  /-- DRAIN_COPY_DONE (R305). -/
  | drainCopyDone (q : BitVec 19)
  /-- DRAIN_WRITE_FAILURE (R306). -/
  | drainWriteFailure (q : BitVec 19)
  /-- DRAIN_CFG_WRITE (R306). -/
  | drainCfgWrite (p : Path) (v : Word)
  /-- QUOTA_WRITE (R316). -/
  | quotaWrite (p : Path) (deep : Bool) (t : BitVec 8) (v : Word)
  /-- QUIRE_VERIFY (R298). -/
  | quireVerify (d : Desc) (q : Word) (buffer : BitVec 64) (good : Bool)
  /-- LEAF_READ (R324). -/
  | leafRead (d : Desc) (n : BitVec 16) (q : Word) (leaf : BitVec 16) (buffer : BitVec 64) (tagBad : Bool)
  /-- LEAF_READ_RAW (R325). -/
  | leafReadRaw (d : Desc) (n : BitVec 16) (q : Word) (leaf : BitVec 16) (buffer : BitVec 64)
  /-- COLLATE_OPEN (R327). -/
  | collateOpen (d : Desc) (count flags : BitVec 8) (mask : BitVec 16) (start stop : BitVec 64) (ids : List
      (BitVec 16)) (ring : BitVec 64) (slots : Word) (unit : BitVec 16)
  /-- COLLATE_CLOSE (R332). -/
  | collateClose (d : Desc) (n : BitVec 8)
  /-- COLLATE_RECORD (R335). -/
  | collateRecord (n : BitVec 5) (badLeaves : List (BitVec 64)) (badQuires : List Word)
  /-- HOST_TAIL_POLL (R570). -/
  | hostTailPoll (n : BitVec 5) (tail : BitVec 64) (fail : Bool)
  /-- SEEK_TIME (R333). -/
  | seekTime (d : Desc) (n : BitVec 16) (t : BitVec 64)
  /-- RIBBON_FIND (R334). -/
  | ribbonFind (d : Desc) (n : BitVec 16) (limit : BitVec 16) (code mask : Word) (start stop : BitVec 64)
      (buffer : BitVec 64) (badLeaves : List (BitVec 64)) (badQuires : List Word)
  /-- PRESS_LOAD (R347). -/
  | pressLoad (d : Desc) (lane : BitVec 16) (entry : BitVec 16) (program : List (BitVec 64)) (stream : BitVec 16)
      (pressDq notifyDq : BitVec 32)
  /-- PRESS_START (R364). -/
  | pressStart (d : Desc) (lane : BitVec 16) (atTime : BitVec 64)
  /-- PRESS_START_TIME (R364). -/
  | pressStartTime (lane : BitVec 9)
  /-- PRESS_STOP (R364). -/
  | pressStop (d : Desc) (lane : BitVec 16)
  /-- PRESS_FREEZE (R366). -/
  | pressFreeze (d : Desc) (lane : BitVec 16)
  /-- PRESS_UNFREEZE (R366). -/
  | pressUnfreeze (d : Desc) (lane : BitVec 16)
  /-- PRESS_EVENT (R351). -/
  | pressEvent (d : Desc) (lane : BitVec 16) (value : BitVec 32)
  /-- PRESS_EVQ_ARRIVAL (R351). -/
  | pressEvqArrival (lane : BitVec 9) (graph : Bool)
  /-- PRESS_UNIT_SEND (R349). -/
  | pressUnitSend (lane : BitVec 9) (t : BitVec 64) (k : Bool)
  /-- PREFETCH_READ_DONE (R354). -/
  | prefetchReadDone (lane : BitVec 9) (leaf : BitVec 33) (authentic : Bool) (frame : Option (BitVec 16))
  /-- HALT (R348). -/
  | halt (lane : BitVec 9)
  /-- SEND (R348). -/
  | send (lane : BitVec 9)
  /-- SENDK (R348). -/
  | sendk (lane : BitVec 9)
  /-- IDLE (R348). -/
  | idle (lane : BitVec 9)
  /-- SETP (R348). -/
  | setp (lane : BitVec 9)
  /-- ADDP (R348). -/
  | addp (lane : BitVec 9)
  /-- SETK (R348). -/
  | setk (lane : BitVec 9)
  /-- LOOP (R348). -/
  | loop (lane : BitVec 9)
  /-- JUMP (R348). -/
  | jump (lane : BitVec 9)
  /-- MARKT (R348). -/
  | markt (lane : BitVec 9)
  /-- ADDT (R348). -/
  | addt (lane : BitVec 9)
  /-- WAIT_TIME (R350). -/
  | waitTime (lane : BitVec 9)
  /-- WAIT_TIME_RELEASE (R350). -/
  | waitTimeRelease (lane : BitVec 9)
  /-- WAIT_EVENT (R352). -/
  | waitEvent (lane : BitVec 9)
  /-- WAIT_EVENT_TAKEN (R352). -/
  | waitEventTaken (lane : BitVec 9)
  /-- WAIT_EVENT_TIMEOUT (R352). -/
  | waitEventTimeout (lane : BitVec 9)
  /-- BRANCH_EV (R348). -/
  | branchEv (lane : BitVec 9)
  /-- SEND_EV (R348). -/
  | sendEv (lane : BitVec 9)
  /-- PRIME (R356). -/
  | prime (lane : BitVec 9)
  /-- INJECT (R358). -/
  | inject (lane : BitVec 9)
  /-- SIGNAL (R353). -/
  | signal (lane : BitVec 9)
  /-- PASS (R348). -/
  | pass (lane : BitVec 9)
  /-- DROP (R359). -/
  | drop (lane : BitVec 9)
  /-- PASS_UNTIL (R360). -/
  | passUntil (lane : BitVec 9)
  /-- RELAY_UNIT_IN (R359). -/
  | relayUnitIn (lane : BitVec 9) (u : BitVec 257)
  /-- CACHE_LINES_WRITE (R354). -/
  | cacheLinesWrite (p : Path) (lane : BitVec 9) (v : Word)
  /-- FRAME_CONFIG (R384). -/
  | frameConfig (d : Desc) (f : BitVec 16) (cfg target list : Word) (addr : BitVec 64) (frameDq notifyDq : BitVec 32)
      (pattern : BitVec 16)
  /-- FRAME_START (R384). -/
  | frameStart (d : Desc) (f : BitVec 16) (atTime : BitVec 64)
  /-- FRAME_START_TIME (R384). -/
  | frameStartTime (f : BitVec 16)
  /-- FRAME_STOP (R384). -/
  | frameStop (d : Desc) (f : BitVec 16)
  /-- SHAPER_SET (R378). -/
  | shaperSet (d : Desc) (f : BitVec 16) (setRate setBurst clear : Bool) (rate burst : BitVec 32)
  /-- CLEAR_DEBT (R378). -/
  | clearDebt (p : Path) (v : Word)
  /-- SHAPER_SLOT (R378). -/
  | shaperSlot (sect : BitVec 4)
  /-- MULTICAST_TIMEOUT (R380). -/
  | multicastTimeout (f : BitVec 16)
  /-- FRAME_BOUNDARY (R375). -/
  | frameBoundary (lane : BitVec 9) (t : BitVec 64)
  /-- FRAME_DQ_TOKEN (R373). -/
  | frameDqToken (f : BitVec 16)
  /-- HBM_READ_ERROR (R397). -/
  | hbmReadError (q : BitVec 19) (leaf : BitVec 14) (still noSpare : Bool) (second : BitVec 4)
  /-- HBM_STACK_FAILURE (R400). -/
  | hbmStackFailure (stack : BitVec 4) (cause : BitVec 4)
  /-- HBM_REFRESH (R395). -/
  | hbmRefresh (stack : BitVec 4) (hot : Bool)
  /-- DDR_REFRESH (R405). -/
  | ddrRefresh (c : BitVec 4) (rank : BitVec 5)
  /-- DDR_REFRESH_RATE_POLL (R405). -/
  | ddrRefreshRatePoll (c : BitVec 4) (rank : BitVec 5) (double : Bool)
  /-- PARITY_SCRUB_ROW (R399). -/
  | parityScrubRow (q : BitVec 19) (leaf : BitVec 14) (differs : Bool) (settle : BitVec 2) (late : Bool)
      (corrected : BitVec 12)
  /-- DDR_UE_BURST (R403). -/
  | ddrUeBurst (q : BitVec 19) (leaf : BitVec 14) (second : Bool) (leaves : Word)
  /-- DDR_RANK_RETIRE (R408). -/
  | ddrRankRetire (c : BitVec 4) (rank : BitVec 5) (reason : BitVec 2) (leaves : Word)
  /-- DDR_MIGRATE_DONE (R409). -/
  | ddrMigrateDone (c : BitVec 4)
  /-- DDR_REHOME_DONE (R410). -/
  | ddrRehomeDone (second : Bool)
  /-- CXL_READ_FAILOVER (R415). -/
  | cxlReadFailover (q : BitVec 19) (leaf : BitVec 14) (late : Bool)
  /-- CXL_EXPANDER_FAILURE (R416). -/
  | cxlExpanderFailure (port : BitVec 2) (cause : BitVec 4)
  /-- CXL_RESILVER_DONE (R416). -/
  | cxlResilverDone (port : BitVec 2)
  /-- KEY_GENERATE (R430). -/
  | keyGenerate (d : Desc)
  /-- KEY_IMPORT (R430). -/
  | keyImport (d : Desc) (blob : BitVec 320) (bad : Bool)
  /-- KEY_IMPORT_STAGED (R447). -/
  | keyImportStaged (d : Desc) (blob : BitVec 320) (bad : Bool)
  /-- KEY_EXPORT (R430). -/
  | keyExport (d : Desc) (buffer : BitVec 64)
  /-- KEY_REKEY (R443). -/
  | keyRekey (d : Desc) (buffer : BitVec 64)
  /-- KEY_ZEROISE (R432). -/
  | keyZeroise (d : Desc)
  /-- DRBG_HEALTH_FAILURE (R427). -/
  | drbgHealthFailure
  /-- REKEY_ENGINE_TAKE (R443). -/
  | rekeyEngineTake
  /-- REKEY_ADVANCE (R445). -/
  | rekeyAdvance
  /-- PATTERN_WRITE (R441). -/
  | patternWrite (d : Desc) (n : BitVec 16) (off : BitVec 64) (data : List (BitVec 8)) (bad : Bool)
  /-- SEC_LOCK (R709). -/
  | secLock (p : Path) (v : Word)
  /-- LINK_SESSION_ROLLOVER (R451). -/
  | linkSessionRollover (port : BitVec 2)
  /-- POOL_CFG_WRITE (R460). -/
  | poolCfgWrite (p : Path) (v : Word)
  /-- DQ_CONFIG (R463). -/
  | dqConfig (d : Desc) (q depth : Word) (consumer : BitVec 8)
  /-- DQ_RELEASE (R463). -/
  | dqRelease (d : Desc) (q : Word)
  /-- OP_DEFINE (R466). -/
  | opDefine (d : Desc) (o : Word) (r : BitVec 368)
  /-- OP_ENABLE (R467). -/
  | opEnable (d : Desc) (o : Word)
  /-- OP_STOP (R467). -/
  | opStop (d : Desc) (o : Word)
  /-- OP_FREE (R467). -/
  | opFree (d : Desc) (o : Word)
  /-- OP_MIGRATE_LIVE (R476). -/
  | opMigrateLive (d : Desc) (o : Word) (cls prio : BitVec 8) (set : BitVec 2)
  /-- OP_MIGRATE_DRAIN (R476). -/
  | opMigrateDrain (d : Desc) (o : Word) (cls prio : BitVec 8) (set : BitVec 2)
  /-- TOKEN_PUT (R465). -/
  | tokenPut (d : Desc) (q : Word) (tokens : List (BitVec 512))
  /-- TOKEN_GET (R570). -/
  | tokenGet (d : Desc) (q : Word) (buffer : BitVec 64) (max : BitVec 16)
  /-- TOKEN_ARRIVAL (R464). -/
  | tokenArrival (q : BitVec 20) (token : BitVec 512) (source : BitVec 16)
  /-- QUEUE_FETCH_DONE (R462). -/
  | queueFetchDone (q : BitVec 20)
  /-- DECISION (R469). -/
  | decision (engine : BitVec 2) (t : BitVec 8)
  /-- TASK_GRANT (R471). -/
  | taskGrant (pool : BitVec 12)
  /-- TASK_COMMIT (R474). -/
  | taskCommit (slot : BitVec 16)
  /-- TASK_FETCH (R472). -/
  | taskFetch (d : Desc) (cls : BitVec 8) (buffer : BitVec 64) (waitMs taskMs : Word)
  /-- TASK_FETCH_TIMEOUT (R570). -/
  | taskFetchTimeout (tenant : BitVec 8) (ring : BitVec 6) (entry : BitVec 16)
  /-- TASK_DONE (R474). -/
  | taskDone (d : Desc) (handle : Word) (status : BitVec 8) (counts : Word) (tokens : List (BitVec 512))
  /-- HOST_TASK_TIMEOUT (R475). -/
  | hostTaskTimeout (slot : BitVec 16)
  /-- TASK_HANDBACK (R477). -/
  | taskHandback (slot : BitVec 16)
  /-- DISPATCH_REQUEST (R473). -/
  | dispatchRequest (sec : BitVec 8) (port : BitVec 2) (cls : BitVec 4)
  /-- DISPATCH_OUTPUT (R473). -/
  | dispatchOutput (sec : BitVec 8) (port index : BitVec 2) (token : BitVec 512)
  /-- DISPATCH_DONE (R473). -/
  | dispatchDone (sec : BitVec 8) (port status : BitVec 2)
  /-- CORE_LOAD (R489). -/
  | coreLoad (d : Desc) (c : BitVec 8) (data : Bool) (first : BitVec 16) (items : List Word)
  /-- CORE_START (R501). -/
  | coreStart (d : Desc) (c : BitVec 8) (entry : BitVec 16)
  /-- CORE_STOP (R501). -/
  | coreStop (d : Desc) (c : BitVec 8)
  /-- CORE_SIGNAL (R504). -/
  | coreSignal (d : Desc) (c : BitVec 8)
  /-- NOP (R521). -/
  | nop (c : BitVec 8) (fe : Bool)
  /-- TRAP (R521). -/
  | trap (c : BitVec 8) (fe : Bool)
  /-- RETE (R505). -/
  | rete (c : BitVec 8) (fe : Bool)
  /-- BR (R521). -/
  | br (c : BitVec 8) (fe : Bool)
  /-- JMP (R521). -/
  | jmp (c : BitVec 8) (fe : Bool)
  /-- JMPR (R521). -/
  | jmpr (c : BitVec 8) (fe : Bool)
  /-- CALL (R521). -/
  | call (c : BitVec 8) (fe : Bool)
  /-- RET (R521). -/
  | ret (c : BitVec 8) (fe : Bool)
  /-- LOOPI (R528). -/
  | loopi (c : BitVec 8) (fe : Bool)
  /-- LOOPR (R528). -/
  | loopr (c : BitVec 8) (fe : Bool)
  /-- REPI (R531). -/
  | repi (c : BitVec 8) (fe : Bool)
  /-- REPR (R531). -/
  | repr (c : BitVec 8) (fe : Bool)
  /-- TWAIT (R502). -/
  | twait (c : BitVec 8) (fe : Bool)
  /-- TPUT (R503). -/
  | tput (c : BitVec 8) (fe : Bool)
  /-- TDONE (R503). -/
  | tdone (c : BitVec 8) (fe : Bool)
  /-- DMAS (R496). -/
  | dmas (c : BitVec 8) (fe : Bool)
  /-- MOVS (R522). -/
  | movs (c : BitVec 8) (fe : Bool)
  /-- MOVTS (R522). -/
  | movts (c : BitVec 8) (fe : Bool)
  /-- RDTIME (R521). -/
  | rdtime (c : BitVec 8) (fe : Bool)
  /-- ADD (R523). -/
  | add (c : BitVec 8) (fe : Bool)
  /-- ADDS (R523). -/
  | adds (c : BitVec 8) (fe : Bool)
  /-- SUB (R523). -/
  | sub (c : BitVec 8) (fe : Bool)
  /-- SUBS (R523). -/
  | subs (c : BitVec 8) (fe : Bool)
  /-- AND (R523). -/
  | and (c : BitVec 8) (fe : Bool)
  /-- OR (R523). -/
  | or (c : BitVec 8) (fe : Bool)
  /-- XOR (R523). -/
  | xor (c : BitVec 8) (fe : Bool)
  /-- MIN (R523). -/
  | min (c : BitVec 8) (fe : Bool)
  /-- MAX (R523). -/
  | max (c : BitVec 8) (fe : Bool)
  /-- ABS (R523). -/
  | abs (c : BitVec 8) (fe : Bool)
  /-- NEG (R523). -/
  | neg (c : BitVec 8) (fe : Bool)
  /-- CMP (R523). -/
  | cmp (c : BitVec 8) (fe : Bool)
  /-- SHL (R523). -/
  | shl (c : BitVec 8) (fe : Bool)
  /-- SHR (R523). -/
  | shr (c : BitVec 8) (fe : Bool)
  /-- SAR (R523). -/
  | sar (c : BitVec 8) (fe : Bool)
  /-- SHLI (R523). -/
  | shli (c : BitVec 8) (fe : Bool)
  /-- SHRI (R523). -/
  | shri (c : BitVec 8) (fe : Bool)
  /-- SARI (R523). -/
  | sari (c : BitVec 8) (fe : Bool)
  /-- BTST (R523). -/
  | btst (c : BitVec 8) (fe : Bool)
  /-- CLZ (R523). -/
  | clz (c : BitVec 8) (fe : Bool)
  /-- MOVI (R523). -/
  | movi (c : BitVec 8) (fe : Bool)
  /-- ADDI (R523). -/
  | addi (c : BitVec 8) (fe : Bool)
  /-- ANDI (R523). -/
  | andi (c : BitVec 8) (fe : Bool)
  /-- CMPI (R523). -/
  | cmpi (c : BitVec 8) (fe : Bool)
  /-- MOV (R523). -/
  | mov (c : BitVec 8) (fe : Bool)
  /-- MOVDA (R523). -/
  | movda (c : BitVec 8) (fe : Bool)
  /-- MOVAD (R523). -/
  | movad (c : BitVec 8) (fe : Bool)
  /-- MOVMD (R523). -/
  | movmd (c : BitVec 8) (fe : Bool)
  /-- ADDA (R523). -/
  | adda (c : BitVec 8) (fe : Bool)
  /-- SEL (R523). -/
  | sel (c : BitVec 8) (fe : Bool)
  /-- LD (R524). -/
  | ld (c : BitVec 8) (fe : Bool) (err : BitVec 2)
  /-- ST (R524). -/
  | st (c : BitVec 8) (fe : Bool)
  /-- LDO (R524). -/
  | ldo (c : BitVec 8) (fe : Bool) (err : BitVec 2)
  /-- STO (R524). -/
  | sto (c : BitVec 8) (fe : Bool)
  /-- LDXY (R524). -/
  | ldxy (c : BitVec 8) (fe : Bool) (err : BitVec 2)
  /-- LDST (R524). -/
  | ldst (c : BitVec 8) (fe : Bool) (err : BitVec 2)
  /-- MAC (R525). -/
  | mac (c : BitVec 8) (fe : Bool)
  /-- MACSU (R525). -/
  | macsu (c : BitVec 8) (fe : Bool)
  /-- MACUU (R525). -/
  | macuu (c : BitVec 8) (fe : Bool)
  /-- MSU (R525). -/
  | msu (c : BitVec 8) (fe : Bool)
  /-- MUL (R525). -/
  | mul (c : BitVec 8) (fe : Bool)
  /-- MACL (R525). -/
  | macl (c : BitVec 8) (fe : Bool) (err : BitVec 2)
  /-- MSUL (R525). -/
  | msul (c : BitVec 8) (fe : Bool) (err : BitVec 2)
  /-- MACS (R525). -/
  | macs (c : BitVec 8) (fe : Bool)
  /-- ACCR (R526). -/
  | accr (c : BitVec 8) (fe : Bool)
  /-- ACCX (R526). -/
  | accx (c : BitVec 8) (fe : Bool)
  /-- ACCLD (R525). -/
  | accld (c : BitVec 8) (fe : Bool)
  /-- ACCCLR (R525). -/
  | accclr (c : BitVec 8) (fe : Bool)
  /-- ACCADD (R525). -/
  | accadd (c : BitVec 8) (fe : Bool)
  /-- ACS (R527). -/
  | acs (c : BitVec 8) (fe : Bool)
  /-- DECBIT (R527). -/
  | decbit (c : BitVec 8) (fe : Bool)
  /-- INTERRUPT_ENTRY (R506). -/
  | interruptEntry (c : BitVec 8)
  /-- TIMER_MATCH (R504). -/
  | timerMatch (c : BitVec 8)
  /-- DMA_LEAF (R497). -/
  | dmaLeaf (c : BitVec 8) (tagBad : Bool) (waits : Word)
  /-- DMA_RAW_LEAF (R497). -/
  | dmaRawLeaf (c : BitVec 8) (waits : Word)
  /-- DMA_SECTION_READ (R497). -/
  | dmaSectionRead (c : BitVec 8) (data : List Word) (rsp : BitVec 4) (waits : Word)
  /-- DMA_SECTION_WRITE (R497). -/
  | dmaSectionWrite (c : BitVec 8) (ue : Bool) (rsp : BitVec 4) (waits : Word)
  /-- DMA_CORE_COPY (R497). -/
  | dmaCoreCopy (c : BitVec 8) (ue : Bool) (waits : Word)
  /-- DMA_TOKEN_WRITE (R497). -/
  | dmaTokenWrite (c : BitVec 8) (ue : Bool) (waits : Word)
  /-- DMA_COMPLETE (R498). -/
  | dmaComplete (c : BitVec 8)
  /-- CORE_FAILURE (R508). -/
  | coreFailure (c : BitVec 8) (datapath : Bool)
  /-- CORE_NO_PROGRESS_TIMEOUT (R508). -/
  | coreNoProgressTimeout (c : BitVec 8)
  /-- NOC_READ (R540). -/
  | nocRead (p : PktArg)
  /-- NOC_WRITE (R540). -/
  | nocWrite (p : PktArg)
  /-- NOC_TOKEN (R540). -/
  | nocToken (p : PktArg) (source : BitVec 16)
  /-- NOC_READ_RSP (R540). -/
  | nocReadRsp (p : PktArg)
  /-- NOC_WRITE_ACK (R540). -/
  | nocWriteAck (p : PktArg)
  /-- NOC_MGT_READ (R540). -/
  | nocMgtRead (p : PktArg)
  /-- NOC_MGT_WRITE (R540). -/
  | nocMgtWrite (p : PktArg)
  /-- NOC_FLIT_REPLAY (R545). -/
  | nocFlitReplay
  /-- NOC_RING_FAILURE (R545). -/
  | nocRingFailure (ring : BitVec 3) (cause : BitVec 2) (segment : BitVec 6)
  /-- NOC_REROUTE_DONE (R546). -/
  | nocRerouteDone (pair : BitVec 2)
  /-- PROBE_CFG_WRITE (R550). -/
  | probeCfgWrite (p : Path) (which : BitVec 2) (q : BitVec 5) (v : Word)
  /-- SQ_TAIL_DOORBELL (R560). -/
  | sqTailDoorbell (tenant : BitVec 8) (ring : BitVec 6) (v : Word)
  /-- CQ_HEAD_DOORBELL (R560). -/
  | cqHeadDoorbell (tenant : BitVec 8) (ring : BitVec 6) (v : Word)
  /-- SETUP_RING0 (R559). -/
  | setupRing0 (tenant : BitVec 8) (v : Word)
  /-- DESCRIPTOR_ACCEPT (R561). -/
  | descriptorAccept (tenant : BitVec 8) (ring : BitVec 6) (header : Word) (readFail : Bool)
  /-- HOST_READ_FAILURE (R556). -/
  | hostReadFailure (r : HostRead)
  /-- MSIX_COALESCE_TIMEOUT (R564). -/
  | msixCoalesceTimeout (tenant : BitVec 8) (cq : BitVec 6)
  /-- NOP_DESCRIPTOR (R569). -/
  | nopDescriptor (d : Desc)
  /-- RING_CREATE (R570). -/
  | ringCreate (d : Desc) (ring : BitVec 8) (isCq : Bool) (log2 bound : BitVec 8) (base : BitVec 64)
      (n tau : BitVec 8)
  /-- RING_DELETE (R570). -/
  | ringDelete (d : Desc) (ring : BitVec 8) (isCq : Bool)
  /-- GRANT (R572). -/
  | grant (d : Desc) (ty tenant : BitVec 8) (first count : Word)
  /-- REVOKE (R572). -/
  | revoke (d : Desc) (ty tenant : BitVec 8) (first count : Word)
  /-- TENANT_SET (R569). -/
  | tenantSet (d : Desc) (tenant : BitVec 8) (mask : BitVec 5) (w0 w1 w2 w3 w4 : Word)
  /-- QUERY (R569). -/
  | query (d : Desc) (kind : BitVec 8) (index : Word) (buffer : BitVec 64)
  /-- IMAGE_WRITE (R109). -/
  | imageWrite (d : Desc) (slot : BitVec 8) (first last : Bool) (offset length : Word) (cause : BitVec 8)
      (rollback : BitVec 7) (map : BitVec 256)
  /-- REG_WRITE (R573). -/
  | regWrite (d : Desc) (entries : List (Word × Word))
  /-- REG_READ (R573). -/
  | regRead (d : Desc) (buffer : BitVec 64) (offsets : List Word)
  /-- FLR_VF (R574). -/
  | flrVf (tenant : BitVec 8)
  /-- FLR_QUIRE_RELEASE (R574). -/
  | flrQuireRelease (tenant : BitVec 8)
  /-- VF_ENABLE (R557). -/
  | vfEnable (n : BitVec 8)
  /-- VF_DISABLE (R557). -/
  | vfDisable (n : BitVec 8)
  /-- FLR_PF0 (R575). -/
  | flrPf0
  /-- LINK_LOSS_TIMEOUT (R575). -/
  | linkLossTimeout
  /-- BRY_PORT_TRAINED (R581). -/
  | bryPortTrained (port : BitVec 2) (ringId : BitVec 16) (size : BitVec 4) (number : BitVec 3) (bad : BitVec 8)
      (encrypted : Bool) (far : BitVec 3) (reach : BitVec 8)
  /-- BRY_NO_PARTNER_RETRY (R581). -/
  | bryNoPartnerRetry (port : BitVec 2)
  /-- BRY_PORT_DOWN (R585). -/
  | bryPortDown (port : BitVec 2) (here : Bool) (far : BitVec 3) (reach : BitVec 8)
  /-- FLIT_IDLE (R582). -/
  | flitIdle (f : FlitArg)
  /-- FLIT_NOC (R582). -/
  | flitNoc (f : FlitArg) (origin dest : BitVec 3) (vc : BitVec 2) (data : BitVec 512) (source : BitVec 16)
  /-- FLIT_NAK (R583). -/
  | flitNak (f : FlitArg) (from' : BitVec 12)
  /-- FLIT_TIME (R587). -/
  | flitTime (f : FlitArg) (t1 t2 t3 t4 : BitVec 64) (d : BitVec 16)
  /-- FLIT_LINE (R590). -/
  | flitLine (f : FlitArg) (origin : BitVec 3) (number : Word) (line : BitVec 5) (e : BitVec 64)
  /-- FLIT_BCAST (R589). -/
  | flitBcast (f : FlitArg) (origin : BitVec 3) (number : Word) (op : BitVec 2) (value t : BitVec 64)
  /-- FLIT_TUNNEL (R593). -/
  | flitTunnel (f : FlitArg) (origin dest : BitVec 3) (write : Bool) (addr : BitVec 64) (length : BitVec 16)
      (bytes : List (BitVec 8))
  /-- FLIT_TRAIN (R581). -/
  | flitTrain (f : FlitArg)
  /-- BRY_RETRAIN_DONE (R583). -/
  | bryRetrainDone (port : BitVec 2)
  /-- BRY_TIME_EXCHANGE (R587). -/
  | bryTimeExchange
  /-- RMT_ACCESS (R593). -/
  | rmtAccess (p : Path) (v : Word)
  /-- RMT_ACCESS_END (R598). -/
  | rmtAccessEnd (result : BitVec 2) (data : Word)
  /-- MGMT_MISMATCH (R603). -/
  | mgmtMismatch
  /-- MGMT_SELFTEST_DONE (R603). -/
  | mgmtSelftestDone (aPass bPass : Bool)
  /-- MGMT_SINGLE_FAILURE (R601). -/
  | mgmtSingleFailure
  /-- LOG_WRITE (R611). -/
  | logWrite
  /-- LOG_WINDOW_CLOSE (R611). -/
  | logWindowClose (code unit : BitVec 16)
  /-- POWER_VOTE (R621). -/
  | powerVote (src : Desc ⊕ (Path × Word)) (kind : BitVec 8) (index : BitVec 16) (state : BitVec 8) (overCap : Bool)
  /-- VOTE_WITHDRAWAL (R620). -/
  | voteWithdrawal (t : BitVec 8) (n : BitVec 9)
  /-- DOMAIN_FENCE_END (R623). -/
  | domainFenceEnd (n : BitVec 9)
  /-- DOMAIN_STATE_REACHED (R618). -/
  | domainStateReached (n : BitVec 9)
  /-- DEFERRED_LOWERING (R621). -/
  | deferredLowering (n : BitVec 9)
  /-- CLOCK_GATE (R631). -/
  | clockGate (n : BitVec 9)
  /-- IDLE_ENTRY (R629). -/
  | idleEntry
  /-- IDLE_EXIT (R629). -/
  | idleExit
  /-- SLEEP_REQUEST (R630). -/
  | sleepRequest (src : Desc ⊕ (Path × Word))
  /-- DEEP_SLEEP_REQUEST (R630). -/
  | deepSleepRequest (src : Desc ⊕ (Path × Word))
  /-- OFF_REQUEST (R630). -/
  | offRequest (src : Desc ⊕ (Path × Word))
  /-- ENTRY_COMMIT_POINT (R632). -/
  | entryCommitPoint (phases : BitVec 6)
  /-- DEVICE_STATE_REACHED (R632). -/
  | deviceStateReached
  /-- WAKE_N_LOW (R633). -/
  | wakeNLow
  /-- GIO_WAKE_EDGE (R633). -/
  | gioWakeEdge (pin : BitVec 3) (rising : Bool)
  /-- SMBUS_ADDRESS_MATCH (R634). -/
  | smbusAddressMatch (addr : BitVec 7)
  /-- HOST_WAKE (R633). -/
  | hostWake
  /-- TIMER_WAKE (R633). -/
  | timerWake
  /-- EXIT_COMPLETE (R628). -/
  | exitComplete
  /-- DBG_PORT_ID (R644). -/
  | dbgPortId (c : PortCmd) (reserved : BitVec 4)
  /-- DBG_PORT_STAT (R644). -/
  | dbgPortStat (c : PortCmd)
  /-- DBG_SPACE_WRITE (R644). -/
  | dbgSpaceWrite (c : PortCmd)
  /-- DBG_ADDR_WRITE (R644). -/
  | dbgAddrWrite (c : PortCmd)
  /-- DBG_DATA (R646). -/
  | dbgData (c : PortCmd)
  /-- DBG_DATA_INC (R646). -/
  | dbgDataInc (c : PortCmd)
  /-- DBG_ACCESS_DONE (R645). -/
  | dbgAccessDone (monitor : Bool)
  /-- DBG_RESYNC (R643). -/
  | dbgResync
  /-- MONITOR_REQUEST (R647). -/
  | monitorRequest (reg : BitVec 4) (write tag pending : Bool) (data : Word)
  /-- AUTH_OPEN (R648). -/
  | authOpen (monitor : Bool) (v : Word)
  /-- AUTH_RESPOND (R648). -/
  | authRespond (monitor : Bool) (v : Word)
  /-- AUTH_CLOSE (R650). -/
  | authClose (monitor : Bool) (v : Word)
  /-- SESSION_TIMEOUT (R650). -/
  | sessionTimeout
  /-- AUTH_LOCKOUT_END (R649). -/
  | authLockoutEnd (monitor : Bool)
  /-- HALT_STOP (R651). -/
  | haltStop (v : Word)
  /-- HALT_RESUME (R654). -/
  | haltResume (v : Word)
  /-- HALT_JOIN (R654). -/
  | haltJoin (v : Word)
  /-- HALT_LEAVE (R654). -/
  | haltLeave (v : Word)
  /-- HALT_EVENT (R654). -/
  | haltEvent (group : BitVec 3)
  /-- DBG_BRK (R654). -/
  | dbgBrk (n : BitVec 8)
  /-- HALT_TAKES_EFFECT (R653). -/
  | haltTakesEffect (kind : BitVec 2) (index : BitVec 10)
  /-- POWER_HOLD_WRITE (R657). -/
  | powerHoldWrite (n : BitVec 4) (v : Word)
  /-- FOLIATION_SCHEDULE (R666). -/
  | foliationSchedule (p : Path) (ring : Bool)
  /-- FOLIATION_CANCEL (R666). -/
  | foliationCancel (p : Path)
  /-- FOLIATION_COPY (R667). -/
  | foliationCopy
  /-- FOLIATION_WRITTEN (R670). -/
  | foliationWritten
  /-- SHADOW_READ (R672). -/
  | shadowRead (p : Path)
  /-- LATCHING_READ (R710). -/
  | latchingRead (p : Path) (page : Option (BitVec 8)) (off : Word) (be : BitVec 4)
  /-- RC_READ (R707). -/
  | rcRead (p : Path) (page : Option (BitVec 8)) (off : Word) (be : BitVec 4)
  /-- BANK_CFG_WRITE (R681). -/
  | bankCfgWrite (p : Path) (bank : BitVec 3) (v : Word)
  /-- BANK_CHANGE_DONE (R681). -/
  | bankChangeDone (bank : BitVec 3)
  /-- PIN_CFG_WRITE (R683). -/
  | pinCfgWrite (p : Path) (pin : BitVec 8) (v : Word)
  /-- CONTENTION_DETECT (R687). -/
  | contentionDetect (pin : BitVec 8)
  /-- LOAD_TEST_START (R689). -/
  | loadTestStart (p : Path) (v : Word)
  /-- LOAD_TEST_DONE (R689). -/
  | loadTestDone (src snk : List (BitVec 14))
  /-- ADC_CONVERSION (R693). -/
  | adcConversion (codes : List (BitVec 14))
  /-- SMB_READ_IDENTITY (R691). -/
  | smbReadIdentity
  /-- SMB_READ_STATE (R691). -/
  | smbReadState
  /-- SMB_READ_TEMP_MAX (R691). -/
  | smbReadTempMax
  /-- SMB_SELECT_SENSOR (R691). -/
  | smbSelectSensor (n : BitVec 8) (pecOk : Bool)
  /-- SMB_READ_SENSOR (R691). -/
  | smbReadSensor
  /-- SMB_SET_OFFSET (R691). -/
  | smbSetOffset (off : Word) (pecOk : Bool)
  /-- SMB_READ_REGISTER (R691). -/
  | smbReadRegister
  /-- SMB_UNLISTED_COMMAND (R691). -/
  | smbUnlistedCommand (cmd : BitVec 8)
  /-- SMB_BUS_TIMEOUT (R691). -/
  | smbBusTimeout
  /-- REGISTER_WRITE (R706). -/
  | registerWrite (p : Path) (page : Option (BitVec 8)) (off v : Word) (be : BitVec 4)
  /-- BAR0_BAD_REQUEST (R704). -/
  | bar0BadRequest (off : Word)
  /-- HOST_LINK_LOSS (R575). -/
  | hostLinkLoss
  /-- HOST_LINK_UP (R578). -/
  | hostLinkUp (rate : BitVec 4) (width : BitVec 7) (flit : Bool)
  /-- BUS_MASTER_ENABLE_CHANGE (R556). -/
  | busMasterEnableChange (tenant : BitVec 8) (on : Bool)
  /-- SMB_CLK_STRETCH_TIMEOUT (R634). -/
  | smbClkStretchTimeout
  /-- FABRIC_CLOCK_EDGE (R122). -/
  | fabricClockEdge (sec : BitVec 8) (clock : BitVec 4) (falling : Bool) (cells : List (BitVec 16 × CellIn))
      (slices : List (BitVec 5 × SliceIn))
  /-- BLOCK_MEMORY_WRITE (R139). -/
  | blockMemoryWrite (w : MemWrite)
  deriving DecidableEq, Repr

end Sys2Proof
end

