-- ==== Sys2Proof/Config.lean ====
section
/-! DEFINITION. Config.lean: what one TM5140 fixes (its identity, the counts of its units) and the free values, the
values the spec leaves open. A free value is an opaque function without a body: nothing can be proved of what it is. -/
namespace Sys2Proof

/-- The identity word of stepping A0 (R1). -/
def Config.identity : Word := 0x15140E0B#32

/-- A fresh number wherever the spec leaves a value open and the machine goes on: applied to the counter `State.free`,
which each use advances. No body: every statement holds for every value of it (log entry 3). -/
opaque Config.freeValue : Nat → Nat

/-- The bytes a key operation yields: key blobs, key check values, nonces, authentication tags. The ciphers of R425 to
R434 are fixed functions of keys this model does not hold as numbers; the argument names the operation and its inputs
(log entry 4). -/
opaque Config.keyValue : Nat → Nat → Nat

/-- The 64 bytes of an event token (R20), whose byte places the spec does not give: from the event kind, the stream, the
sequence number, the event timestamp and the number that packs the kind's own items (log entry 8). -/
opaque Config.eventToken : Nat → Nat → Nat → Nat → Nat → Nat

/-- The check of a KROVVIA response (R648): from the bytes of the response and of the message signed, whether the key's
hash is the fused debug key hash, not zero and not revoked, and the signature verifies. The fuses are the device's own. -/
opaque Config.krovvia : List Nat → List Nat → Bool

/-- Where the layout of the CORE space lists two things at one offset (R646, 0x2_0180 to 0x2_01AF), whether the accumulators
and the resume point lie there and not the A and M registers (log entry 31). -/
opaque Config.coreWindow : Bool

end Sys2Proof
end

