-- ==== Sys2Proof/Machine/Bits.lean ====
section
/-! DEFINITION. Machine/Bits.lean: bit fields, sign extension and byte order, the helpers every file uses. -/
namespace Sys2Proof.Machine

/-- Bits `hi` to `lo` of a number. -/
def bits (v hi lo : Nat) : Nat := (v >>> lo) % 2 ^ (hi + 1 - lo)

/-- Bit `i` of a number, as a truth value. -/
def bit (v i : Nat) : Bool := v.testBit i

/-- 1 for true, 0 for false. -/
def b2n (b : Bool) : Nat := if b then 1 else 0

/-- The number `v` read as two's complement of `w` bits. -/
def sext (w v : Nat) : Int :=
  let u := v % 2 ^ w
  if u < 2 ^ (w - 1) then (u : Int) else (u : Int) - (2 ^ w : Nat)

/-- An integer wrapped to `w` bits. -/
def wrapInt (w : Nat) (x : Int) : Nat := (x % ((2 ^ w : Nat) : Int)).toNat

/-- An integer clipped to the two's complement range of `w` bits. -/
def satInt (w : Nat) (x : Int) : Int :=
  let m : Int := ((2 ^ (w - 1) : Nat) : Int)
  if x < -m then -m else if x > m - 1 then m - 1 else x

/-- A number clipped to `w` bits. -/
def satNat (w v : Nat) : Nat := if v < 2 ^ w then v else 2 ^ w - 1

/-- The `n` bytes of a number, least significant first. -/
def leBytes : Nat → Nat → List Byte
  | 0, _ => []
  | n + 1, v => BitVec.ofNat 8 v :: leBytes n (v / 256)

/-- The number a list of bytes spells, least significant first. -/
def leNat : List Byte → Nat
  | [] => 0
  | b :: r => b.toNat + 256 * leNat r

/-- The `n` bytes of a number as numbers, least significant first. -/
def natBytes : Nat → Nat → List Nat
  | 0, _ => []
  | n + 1, v => v % 256 :: natBytes n (v / 256)

/-- The number a list of byte values spells, least significant first. -/
def natOf : List Nat → Nat
  | [] => 0
  | b :: r => b + 256 * natOf r

/-- One byte of the reflected CRC-32 of R104 (polynomial 0xEDB8_8320 reflected), eight steps. -/
def crcByte : Nat → Nat → Nat
  | 0, c => c
  | n + 1, c => crcByte n (if c % 2 = 1 then (c / 2) ^^^ 0xEDB88320 else c / 2)

/-- The CRC-32 of R104 over bytes. -/
def crc32 (bs : List Byte) : Nat :=
  (bs.foldl (fun c b => crcByte 8 (c ^^^ b.toNat)) 0xFFFFFFFF) ^^^ 0xFFFFFFFF

/-- Replace element `i` of a list. -/
def listSet {α : Type} : List α → Nat → α → List α
  | [], _, _ => []
  | _ :: r, 0, x => x :: r
  | y :: r, n + 1, x => y :: listSet r n x

/-- The numbers `0` to `n - 1`. -/
def upTo (n : Nat) : List Nat := List.range n

/-- The first number from `i` on that satisfies a test, among `n`. -/
def findFrom (f : Nat → Bool) : Nat → Nat → Option Nat
  | 0, _ => none
  | n + 1, i => if f i then some i else findFrom f n (i + 1)

/-- Whether every number of a list is below a bound. -/
def allBelow (n : Nat) (l : List Nat) : Bool := l.all (fun x => decide (x < n))

/-- The number of set bits of a mask below bit `n`. -/
def popCount (n m : Nat) : Nat := ((upTo n).filter (fun i => m.testBit i)).length

/-- The places of the set bits of a mask below bit `n`, ascending. -/
def bitsOf (n m : Nat) : List Nat := (upTo n).filter (fun i => m.testBit i)

/-- The mean of a sum over `2^k` values, rounded half-even. -/
def roundHalfEven (sum k : Nat) : Nat :=
  let q := sum >>> k
  let r := sum % 2 ^ k
  if 2 * r < 2 ^ k then q else if 2 * r > 2 ^ k then q + 1 else q + q % 2

end Sys2Proof.Machine
end

