-- ==== Sys2Proof/Machine/Regs.lean ====
section
/-! DEFINITION. Machine/Regs.lean: the BAR0 register table of spec/28_register_map.md (R702, R703, R718) with every
field table of the chapters: one `RegDef` per register (its address, its instances, its reset word R708, the access
type of each bit R707 and the reserved encodings of its fields), one `Fld` per field, and one number per named value of
an enumerated field. Laid out by a script from the spec's own tables. -/
namespace Sys2Proof.Machine

/-- One register of R718. `base` is the BAR0 byte offset of instance 0; an instance is named by up to three indices
(R703), each with its count and stride. `reset i j k` is the reset word of an instance (R708). The masks give the
access type of each bit (R707); a bit in none of `rw`, `ro`, `wo`, `w1c`, `w1s`, `rc`, `rwl` is reserved (RSV).
`res` lists the reserved encodings of writable fields as (hi, lo, first value, last value) (R706, check 4). -/
structure RegDef where
  id : Nat
  base : Nat
  c1 : Nat := 1
  s1 : Nat := 0
  c2 : Nat := 1
  s2 : Nat := 0
  c3 : Nat := 1
  s3 : Nat := 0
  reset : Nat → Nat → Nat → Word := fun _ _ _ => 0#32
  rw : Nat := 0
  ro : Nat := 0
  wo : Nat := 0
  w1c : Nat := 0
  w1s : Nat := 0
  rc : Nat := 0
  rwl : Nat := 0
  res : List (Nat × Nat × Nat × Nat) := []

/-- The BAR0 byte offset of an instance (R703). No instance lies beyond the counts: a larger index, which no well-formed
command has, counts modulo them, so that every register keeps to its own offsets. -/
def RegDef.addr (r : RegDef) (i : Nat := 0) (j : Nat := 0) (k : Nat := 0) : Nat :=
  r.base + r.s1 * (i % r.c1) + r.s2 * (j % r.c2) + r.s3 * (k % r.c3)

/-- A field of a register: bits `hi` to `lo`. -/
structure Fld where
  r : RegDef
  hi : Nat
  lo : Nat

/-- The width of a field in bits. -/
def Fld.width (f : Fld) : Nat := f.hi + 1 - f.lo


/-- GLB.ID (R714). -/
def Reg.GLB_ID : RegDef where
  id := 0
  base := 0x0
  reset := fun _ _ _ => 0x15140E0B#32
  ro := 0xFFFFFFFF

/-- GLB.STATE (R715). -/
def Reg.GLB_STATE : RegDef where
  id := 1
  base := 0x4
  ro := 0xFE007FFF

/-- GLB.ERR_STATUS (R716). -/
def Reg.GLB_ERR_STATUS : RegDef where
  id := 2
  base := 0x8
  w1c := 0x0000003F

/-- GLB.ERR_INFO (R717). -/
def Reg.GLB_ERR_INFO : RegDef where
  id := 3
  base := 0xC
  ro := 0xEFFFFFFF

/-- GLB.RSV_WRITES (R713). -/
def Reg.GLB_RSV_WRITES : RegDef where
  id := 4
  base := 0x10
  rc := 0xFFFFFFFF

/-- GLB.UNMAPPED_WRITES (R713). -/
def Reg.GLB_UNMAPPED_WRITES : RegDef where
  id := 5
  base := 0x14
  rc := 0xFFFFFFFF

/-- GLB.LOST_WRITES (R713). -/
def Reg.GLB_LOST_WRITES : RegDef where
  id := 6
  base := 0x18
  rc := 0xFFFFFFFF

/-- GLB.SCRATCH (R713). -/
def Reg.GLB_SCRATCH : RegDef where
  id := 7
  base := 0x20
  c1 := 4
  s1 := 0x4
  rw := 0xFFFFFFFF

/-- CLK.STATUS (R78). -/
def Reg.CLK_STATUS : RegDef where
  id := 8
  base := 0x1000
  reset := fun _ _ _ => 0x00008000#32
  ro := 0x0000FFFF

/-- CLK.REF_CTRL (R81). -/
def Reg.CLK_REF_CTRL : RegDef where
  id := 9
  base := 0x1004
  reset := fun _ _ _ => 0x00020000#32
  rw := 0x0003C7FF
  w1s := 0x00001000
  res := [(15, 14, 2, 2), (15, 14, 3, 3)]

/-- CLK.REF_EVENTS (R79). -/
def Reg.CLK_REF_EVENTS : RegDef where
  id := 10
  base := 0x1008
  ro := 0x0000F000
  w1c := 0x000000FF

/-- CLK.QUAL_CFG (R82). -/
def Reg.CLK_QUAL_CFG : RegDef where
  id := 11
  base := 0x100C
  reset := fun _ _ _ => 0x00008C64#32
  rw := 0x0000FFFF
  res := [(13, 10, 0, 0), (9, 0, 0, 0), (9, 0, 1001, 1023)]

/-- CLK.FREQ_ADJ (R84). -/
def Reg.CLK_FREQ_ADJ : RegDef where
  id := 12
  base := 0x1010
  rw := 0x00FFFFFF

/-- CLK.CAND (R83). -/
def Reg.CLK_CAND : RegDef where
  id := 13
  base := 0x1020
  c1 := 4
  s1 := 0x4
  rw := 0x800007FF

/-- CLK.CAND_STATUS (R80). -/
def Reg.CLK_CAND_STATUS : RegDef where
  id := 14
  base := 0x1030
  c1 := 4
  s1 := 0x4
  ro := 0xC0FFFFFF

/-- CLK.TIME_LO (R77). -/
def Reg.CLK_TIME_LO : RegDef where
  id := 15
  base := 0x1040
  ro := 0xFFFFFFFF

/-- CLK.TIME_HI (R77). -/
def Reg.CLK_TIME_HI : RegDef where
  id := 16
  base := 0x1044
  ro := 0xFFFFFFFF

/-- CLK.TIME_SET_LO (R77). -/
def Reg.CLK_TIME_SET_LO : RegDef where
  id := 17
  base := 0x1048
  rw := 0xFFFFFFFF

/-- CLK.TIME_SET_HI (R77). -/
def Reg.CLK_TIME_SET_HI : RegDef where
  id := 18
  base := 0x104C
  rw := 0xFFFFFFFF

/-- CLK.TIME_AT_LO (R77). -/
def Reg.CLK_TIME_AT_LO : RegDef where
  id := 19
  base := 0x1050
  rw := 0xFFFFFFFF

/-- CLK.TIME_AT_HI (R77). -/
def Reg.CLK_TIME_AT_HI : RegDef where
  id := 20
  base := 0x1054
  rw := 0xFFFFFFFF

/-- CLK.TIME_CMD (R85). -/
def Reg.CLK_TIME_CMD : RegDef where
  id := 21
  base := 0x1058
  rw := 0x00000038
  ro := 0x0000F002
  w1s := 0x00000001
  res := [(5, 4, 3, 3)]

/-- CLK.PPS_CAP_LO (R77). -/
def Reg.CLK_PPS_CAP_LO : RegDef where
  id := 22
  base := 0x1060
  ro := 0xFFFFFFFF

/-- CLK.PPS_CAP_HI (R77). -/
def Reg.CLK_PPS_CAP_HI : RegDef where
  id := 23
  base := 0x1064
  ro := 0xFFFFFFFF

/-- CLK.PPS_COUNT (R77). -/
def Reg.CLK_PPS_COUNT : RegDef where
  id := 24
  base := 0x1068
  ro := 0xFFFFFFFF

/-- CLK.OUT_CTRL (R86). -/
def Reg.CLK_OUT_CTRL : RegDef where
  id := 25
  base := 0x1080
  c1 := 7
  s1 := 0x4
  reset := fun _ _ _ => 0x000186A0#32
  rw := 0xF003FFFF
  res := [(30, 29, 3, 3)]

/-- CLK.XING_ERR (R77). -/
def Reg.CLK_XING_ERR : RegDef where
  id := 26
  base := 0x10A0
  rc := 0xFFFFFFFF

/-- CLK.GLOBAL_DIV (R87). -/
def Reg.CLK_GLOBAL_DIV : RegDef where
  id := 27
  base := 0x1100
  c1 := 32
  s1 := 0x4
  reset := fun i _ _ => if i = 0 then 0x80010008#32 else 0x00010008#32
  rw := 0x8001FFFF
  res := [(15, 0, 0, 7)]

/-- PWR.DEV_STATUS (R637). -/
def Reg.PWR_DEV_STATUS : RegDef where
  id := 28
  base := 0x2000
  ro := 0xFFE00000

/-- PWR.DEV_CTRL (R638). -/
def Reg.PWR_DEV_CTRL : RegDef where
  id := 29
  base := 0x2004
  rw := 0x60000000
  ro := 0x0F000000
  wo := 0x0000FFFF
  w1s := 0x80000000
  res := [(30, 29, 3, 3)]

/-- PWR.EVENTS (R642). -/
def Reg.PWR_EVENTS : RegDef where
  id := 30
  base := 0x2008
  w1c := 0x0000001F

/-- PWR.WAKE_CFG (R639). -/
def Reg.PWR_WAKE_CFG : RegDef where
  id := 31
  base := 0x200C
  reset := fun _ _ _ => 0xE0000000#32
  rw := 0xF0FFFF00

/-- PWR.WAKE_AT_LO (R636). -/
def Reg.PWR_WAKE_AT_LO : RegDef where
  id := 32
  base := 0x2010
  reset := fun _ _ _ => 0xFFFFFFFF#32
  rw := 0xFFFFFFFF

/-- PWR.WAKE_AT_HI (R636). -/
def Reg.PWR_WAKE_AT_HI : RegDef where
  id := 33
  base := 0x2014
  reset := fun _ _ _ => 0xFFFFFFFF#32
  rw := 0xFFFFFFFF

/-- PWR.IDLE_CFG (R640). -/
def Reg.PWR_IDLE_CFG : RegDef where
  id := 34
  base := 0x2018
  reset := fun _ _ _ => 0x80000064#32
  rw := 0x8000FFFF
  res := [(15, 0, 0, 0)]

/-- PWR.VOTE_CMD (R640). -/
def Reg.PWR_VOTE_CMD : RegDef where
  id := 35
  base := 0x2020
  rw := 0x0C0001FF
  ro := 0x00F00000
  w1s := 0x80000000
  res := [(27, 26, 3, 3), (8, 0, 471, 511)]

/-- PWR.DOMAIN_STATUS (R641). -/
def Reg.PWR_DOMAIN_STATUS : RegDef where
  id := 36
  base := 0x2800
  c1 := 471
  s1 := 0x4
  reset := fun _ _ _ => 0x50000002#32
  ro := 0xFFFFFF07

/-- PWR.SUPPLY_STATUS (R51). -/
def Reg.PWR_SUPPLY_STATUS : RegDef where
  id := 37
  base := 0x3000
  reset := fun _ _ _ => 0x0000001C#32
  ro := 0x00000A1C
  w1c := 0x000005E0

/-- PWR.RAIL_STATUS (R52). -/
def Reg.PWR_RAIL_STATUS : RegDef where
  id := 38
  base := 0x3100
  c1 := 17
  s1 := 0x4
  reset := fun i _ _ => 0x00000000#32 ||| BitVec.ofNat 32 (([17, 9, 5, 7, 7, 9, 5, 3, 3, 2, 2, 2, 2, 2, 2, 2, 2].getD i 0) <<< 8)
  ro := 0x00FFFFFD
  w1c := 0x00000002

/-- BOOT.START_STATUS (R113). -/
def Reg.BOOT_START_STATUS : RegDef where
  id := 39
  base := 0x4000
  reset := fun _ _ _ => 0x00000100#32
  ro := 0x0F1FFFFE

/-- BOOT.CTRL (R114). -/
def Reg.BOOT_CTRL : RegDef where
  id := 40
  base := 0x4004
  wo := 0xFFFF0000
  w1s := 0x000000C8

/-- BOOT.EVENTS (R115). -/
def Reg.BOOT_EVENTS : RegDef where
  id := 41
  base := 0x4008
  w1c := 0x0000001F

/-- BOOT.IMAGE_SEL (R116). -/
def Reg.BOOT_IMAGE_SEL : RegDef where
  id := 42
  base := 0x400C
  reset := fun _ _ _ => 0x00000008#32
  rw := 0x0000003F
  res := [(5, 4, 2, 2), (5, 4, 3, 3), (3, 2, 3, 3), (1, 0, 3, 3)]

/-- BOOT.SLOT_STATUS (R117). -/
def Reg.BOOT_SLOT_STATUS : RegDef where
  id := 43
  base := 0x4010
  ro := 0x000FFFFF

/-- BOOT.ROLLBACK_MIN (R112). -/
def Reg.BOOT_ROLLBACK_MIN : RegDef where
  id := 44
  base := 0x4014
  ro := 0x0000007F

/-- BOOT.OUT_OF_SERVICE (R119). -/
def Reg.BOOT_OUT_OF_SERVICE : RegDef where
  id := 45
  base := 0x4018
  ro := 0xFFFFFFFF

/-- BOOT.EARLY_WRITES (R112). -/
def Reg.BOOT_EARLY_WRITES : RegDef where
  id := 46
  base := 0x401C
  rc := 0xFFFFFFFF

/-- BOOT.STEP_STATUS (R118). -/
def Reg.BOOT_STEP_STATUS : RegDef where
  id := 47
  base := 0x4020
  c1 := 16
  s1 := 0x4
  ro := 0xFFFFFF00

/-- BOOT.STEP_TIME (R112). -/
def Reg.BOOT_STEP_TIME : RegDef where
  id := 48
  base := 0x4060
  c1 := 16
  s1 := 0x4
  ro := 0xFFFFFFFF

/-- RAS.STATUS (R616). -/
def Reg.RAS_STATUS : RegDef where
  id := 49
  base := 0x5000
  ro := 0xFFFF0000

/-- RAS.EVENTS (R617). -/
def Reg.RAS_EVENTS : RegDef where
  id := 50
  base := 0x5004
  w1c := 0x000000FF

/-- RAS.LOG_LOST (R615). -/
def Reg.RAS_LOG_LOST : RegDef where
  id := 51
  base := 0x5008
  rc := 0xFFFFFFFF

/-- RAS.COPY_DIFFERS (R615). -/
def Reg.RAS_COPY_DIFFERS : RegDef where
  id := 52
  base := 0x500C
  rc := 0xFFFFFFFF

/-- RAS.LOG_NEWEST_LO (R615). -/
def Reg.RAS_LOG_NEWEST_LO : RegDef where
  id := 53
  base := 0x5010
  reset := fun _ _ _ => 0xFFFFFFFF#32
  ro := 0xFFFFFFFF

/-- RAS.LOG_NEWEST_HI (R615). -/
def Reg.RAS_LOG_NEWEST_HI : RegDef where
  id := 54
  base := 0x5014
  reset := fun _ _ _ => 0xFFFFFFFF#32
  ro := 0xFFFFFFFF

/-- RAS.LOG_INDEX_LO (R615). -/
def Reg.RAS_LOG_INDEX_LO : RegDef where
  id := 55
  base := 0x5018
  rw := 0xFFFFFFFF

/-- RAS.LOG_INDEX_HI (R615). -/
def Reg.RAS_LOG_INDEX_HI : RegDef where
  id := 56
  base := 0x501C
  rw := 0xFFFFFFFF

/-- RAS.FAULT_COUNT (R615). -/
def Reg.RAS_FAULT_COUNT : RegDef where
  id := 57
  base := 0x5020
  c1 := 10
  s1 := 0x4
  rc := 0xFFFFFFFF

/-- RAS.LOG_DATA (R615). -/
def Reg.RAS_LOG_DATA : RegDef where
  id := 58
  base := 0x5080
  c1 := 16
  s1 := 0x4
  ro := 0xFFFFFFFF

/-- OBS.STATUS (R678). -/
def Reg.OBS_STATUS : RegDef where
  id := 59
  base := 0x6000
  ro := 0xFC000000

/-- OBS.EVENTS (R678). -/
def Reg.OBS_EVENTS : RegDef where
  id := 60
  base := 0x6004
  w1c := 0x0000007F

/-- OBS.FOL_CFG (R679). -/
def Reg.OBS_FOL_CFG : RegDef where
  id := 61
  base := 0x6008
  rw := 0x000003FF

/-- OBS.FOL_CMD (R679). -/
def Reg.OBS_FOL_CMD : RegDef where
  id := 62
  base := 0x600C
  rw := 0x60000000
  ro := 0x00F00000
  w1s := 0x80000000

/-- OBS.FOL_AT_LO (R677). -/
def Reg.OBS_FOL_AT_LO : RegDef where
  id := 63
  base := 0x6010
  rw := 0xFFFFFFFF

/-- OBS.FOL_AT_HI (R677). -/
def Reg.OBS_FOL_AT_HI : RegDef where
  id := 64
  base := 0x6014
  rw := 0xFFFFFFFF

/-- OBS.FOL_TAKEN_LO (R677). -/
def Reg.OBS_FOL_TAKEN_LO : RegDef where
  id := 65
  base := 0x6018
  ro := 0xFFFFFFFF

/-- OBS.FOL_TAKEN_HI (R677). -/
def Reg.OBS_FOL_TAKEN_HI : RegDef where
  id := 66
  base := 0x601C
  ro := 0xFFFFFFFF

/-- OBS.FOL_NUMBER (R677). -/
def Reg.OBS_FOL_NUMBER : RegDef where
  id := 67
  base := 0x6020
  ro := 0xFFFFFFFF

/-- OBS.FOL_ENTRIES (R677). -/
def Reg.OBS_FOL_ENTRIES : RegDef where
  id := 68
  base := 0x6024
  ro := 0xFFFFFFFF

/-- OBS.RIBBON_CFG (R679). -/
def Reg.OBS_RIBBON_CFG : RegDef where
  id := 69
  base := 0x6028
  rw := 0x83FFFFFF

/-- OBS.SHD_INDEX (R677). -/
def Reg.OBS_SHD_INDEX : RegDef where
  id := 70
  base := 0x6030
  rw := 0x000FFFFF

/-- OBS.SHD_OFFSET (R677). -/
def Reg.OBS_SHD_OFFSET : RegDef where
  id := 71
  base := 0x6034
  ro := 0xFFFFFFFF

/-- OBS.SHD_VALUE_LO (R677). -/
def Reg.OBS_SHD_VALUE_LO : RegDef where
  id := 72
  base := 0x6038
  ro := 0xFFFFFFFF

/-- OBS.SHD_VALUE_HI (R677). -/
def Reg.OBS_SHD_VALUE_HI : RegDef where
  id := 73
  base := 0x603C
  ro := 0xFFFFFFFF

/-- OBS.RIBBONS_LOST (R677). -/
def Reg.OBS_RIBBONS_LOST : RegDef where
  id := 74
  base := 0x6040
  rc := 0xFFFFFFFF

/-- GIO.STATUS (R700). -/
def Reg.GIO_STATUS : RegDef where
  id := 75
  base := 0x8000
  ro := 0x800000FF

/-- GIO.EVENTS (R700). -/
def Reg.GIO_EVENTS : RegDef where
  id := 76
  base := 0x8004
  w1c := 0x0000007F

/-- GIO.SMB_CFG (R697). -/
def Reg.GIO_SMB_CFG : RegDef where
  id := 77
  base := 0x8008
  reset := fun _ _ _ => 0x00000052#32
  rw := 0x8000007F
  res := [(6, 0, 0, 7), (6, 0, 120, 127)]

/-- GIO.ADC_CTRL (R697). -/
def Reg.GIO_ADC_CTRL : RegDef where
  id := 78
  base := 0x800C
  rw := 0xF01F0000
  res := [(30, 28, 7, 7)]

/-- GIO.LOAD_CMD (R699). -/
def Reg.GIO_LOAD_CMD : RegDef where
  id := 79
  base := 0x8010
  reset := fun _ _ _ => 0x23200000#32
  rw := 0x6FF000FF
  w1s := 0x80000000
  res := [(30, 29, 3, 3), (27, 20, 0, 0), (7, 0, 192, 255)]

/-- GIO.LOAD_RESULT (R699). -/
def Reg.GIO_LOAD_RESULT : RegDef where
  id := 80
  base := 0x8014
  ro := 0xEFFFFFFF

/-- GIO.TEMP_MAX (R698). -/
def Reg.GIO_TEMP_MAX : RegDef where
  id := 81
  base := 0x8018
  ro := 0xFC00FFFF

/-- GIO.TEMP_ALERT (R698). -/
def Reg.GIO_TEMP_ALERT : RegDef where
  id := 82
  base := 0x801C
  reset := fun _ _ _ => 0x000005A0#32
  rw := 0x8000FFFF

/-- GIO.BANK_CFG (R697). -/
def Reg.GIO_BANK_CFG : RegDef where
  id := 83
  base := 0x8020
  c1 := 6
  s1 := 0x4
  reset := fun _ _ _ => 0x00000002#32
  rw := 0x00000007
  res := [(2, 0, 5, 7)]

/-- GIO.IN (R695). -/
def Reg.GIO_IN : RegDef where
  id := 84
  base := 0x8040
  c1 := 6
  s1 := 0x4
  ro := 0xFFFFFFFF

/-- GIO.OUT (R695). -/
def Reg.GIO_OUT : RegDef where
  id := 85
  base := 0x8060
  c1 := 6
  s1 := 0x4
  rw := 0xFFFFFFFF

/-- GIO.ADC_LIST (R695). -/
def Reg.GIO_ADC_LIST : RegDef where
  id := 86
  base := 0x8100
  c1 := 32
  s1 := 0x4
  rw := 0x000000FF
  res := [(7, 0, 19, 63)]

/-- GIO.ADC_RESULT (R698). -/
def Reg.GIO_ADC_RESULT : RegDef where
  id := 87
  base := 0x8200
  c1 := 256
  s1 := 0x4
  ro := 0xC0003FFF

/-- GIO.TEMP (R698). -/
def Reg.GIO_TEMP : RegDef where
  id := 88
  base := 0x8600
  c1 := 64
  s1 := 0x4
  ro := 0xC000FFFF

/-- GIO.PIN_CFG (R696). -/
def Reg.GIO_PIN_CFG : RegDef where
  id := 89
  base := 0x8800
  c1 := 192
  s1 := 0x4
  reset := fun i _ _ => if i = 32 then 0x20408000#32 else 0x00408000#32
  rw := 0xFFFFFF00
  res := [(31, 28, 8, 15), (15, 8, 0, 0)]

/-- GIO.TRIG_PIN (R288). -/
def Reg.GIO_TRIG_PIN : RegDef where
  id := 90
  base := 0x9000
  c1 := 192
  s1 := 0x4
  reset := fun _ _ _ => 0x00000100#32
  rw := 0xFF80FFFF
  res := [(29, 28, 3, 3), (15, 8, 0, 0)]

/-- GIO.TLINE (R288). -/
def Reg.GIO_TLINE : RegDef where
  id := 91
  base := 0x9400
  c1 := 32
  s1 := 0x4
  ro := 0x00FFFFFF
  w1s := 0x80000000

/-- GIO.TLINE_MERGES (R288). -/
def Reg.GIO_TLINE_MERGES : RegDef where
  id := 92
  base := 0x9480
  rc := 0xFFFFFFFF

/-- DBG.STATUS (R660). -/
def Reg.DBG_STATUS : RegDef where
  id := 93
  base := 0xA000
  ro := 0xFFF80000

/-- DBG.CTRL (R660). -/
def Reg.DBG_CTRL : RegDef where
  id := 94
  base := 0xA004
  reset := fun _ _ _ => 0x000003E8#32
  rw := 0x0000FFFF
  rwl := 0xE0000000
  res := [(15, 0, 0, 0)]

/-- DBG.EVENTS (R663). -/
def Reg.DBG_EVENTS : RegDef where
  id := 95
  base := 0xA008
  ro := 0x00001F00
  w1c := 0x0000000F

/-- DBG.AUTH_CMD (R661). -/
def Reg.DBG_AUTH_CMD : RegDef where
  id := 96
  base := 0xA00C
  rw := 0xFFFC0000
  ro := 0x0003C000
  res := [(31, 29, 4, 7)]

/-- DBG.HALT_CMD (R661). -/
def Reg.DBG_HALT_CMD : RegDef where
  id := 97
  base := 0xA010
  rw := 0x7F8003FF
  ro := 0x00780000
  w1s := 0x80000000

/-- DBG.AUTH_FAILS (R659). -/
def Reg.DBG_AUTH_FAILS : RegDef where
  id := 98
  base := 0xA014
  rc := 0xFFFFFFFF

/-- DBG.GROUP_CFG (R662). -/
def Reg.DBG_GROUP_CFG : RegDef where
  id := 99
  base := 0xA040
  c1 := 8
  s1 := 0x4
  rw := 0xFFF00000

/-- DBG.POWER_HOLD (R659). -/
def Reg.DBG_POWER_HOLD : RegDef where
  id := 100
  base := 0xA080
  c1 := 16
  s1 := 0x4
  rw := 0x800001FF

/-- DBG.COMP_CFG (R662). -/
def Reg.DBG_COMP_CFG : RegDef where
  id := 101
  base := 0xA100
  c1 := 32
  s1 := 0x10
  rw := 0xFFFFFFFF
  res := [(30, 28, 5, 7), (27, 26, 3, 3), (25, 24, 3, 3)]

/-- DBG.COMP_RANGE (R659). -/
def Reg.DBG_COMP_RANGE : RegDef where
  id := 102
  base := 0xA104
  c1 := 32
  s1 := 0x10
  rw := 0xFFFFFFFF

/-- DBG.COMP_VALUE (R659). -/
def Reg.DBG_COMP_VALUE : RegDef where
  id := 103
  base := 0xA108
  c1 := 32
  s1 := 0x10
  rw := 0xFFFFFFFF

/-- DBG.COMP_CTX (R662). -/
def Reg.DBG_COMP_CTX : RegDef where
  id := 104
  base := 0xA10C
  c1 := 32
  s1 := 0x10
  rw := 0xFE03FFFF

/-- DBG.AUTH_DATA (R659). -/
def Reg.DBG_AUTH_DATA : RegDef where
  id := 105
  base := 0xA400
  c1 := 64
  s1 := 0x4
  rw := 0xFFFFFFFF

/-- DBG.PWD_TENANT (R659). -/
def Reg.DBG_PWD_TENANT : RegDef where
  id := 106
  base := 0xA800
  c1 := 16
  s1 := 0x24
  rw := 0x800000FF

/-- DBG.PWD_DIGEST (R659). -/
def Reg.DBG_PWD_DIGEST : RegDef where
  id := 107
  base := 0xA804
  c1 := 16
  s1 := 0x24
  c2 := 8
  s2 := 0x4
  wo := 0xFFFFFFFF

/-- SEC.CTRL (R454). -/
def Reg.SEC_CTRL : RegDef where
  id := 108
  base := 0xB000
  w1s := 0x80000000
  rwl := 0x00000001

/-- SEC.STATUS (R455). -/
def Reg.SEC_STATUS : RegDef where
  id := 109
  base := 0xB004
  ro := 0xE001FFFF

/-- SEC.EVENTS (R456). -/
def Reg.SEC_EVENTS : RegDef where
  id := 110
  base := 0xB008
  w1c := 0x0000007F

/-- SEC.SPENT_QUIRES (R453). -/
def Reg.SEC_SPENT_QUIRES : RegDef where
  id := 111
  base := 0xB00C
  ro := 0x000FFFFF

/-- SEC.BLOCKED_COUNT (R453). -/
def Reg.SEC_BLOCKED_COUNT : RegDef where
  id := 112
  base := 0xB010
  rc := 0xFFFFFFFF

/-- SEC.PARTIAL_REWRITES (R453). -/
def Reg.SEC_PARTIAL_REWRITES : RegDef where
  id := 113
  base := 0xB014
  rc := 0xFFFFFFFF

/-- SEC.RING_KEY (R453). -/
def Reg.SEC_RING_KEY : RegDef where
  id := 114
  base := 0xB020
  c1 := 8
  s1 := 0x4
  wo := 0xFFFFFFFF

/-- SEC.LINK_CTRL (R454). -/
def Reg.SEC_LINK_CTRL : RegDef where
  id := 115
  base := 0xB040
  rwl := 0x0000000F

/-- SEC.LINK_STATUS (R457). -/
def Reg.SEC_LINK_STATUS : RegDef where
  id := 116
  base := 0xB050
  c1 := 4
  s1 := 0x4
  ro := 0xFFFFFFFF

/-- SEC.LINK_TAG_FAIL (R453). -/
def Reg.SEC_LINK_TAG_FAIL : RegDef where
  id := 117
  base := 0xB060
  c1 := 4
  s1 := 0x4
  rc := 0xFFFFFFFF

/-- SEC.ACTIVE_KEY_BOUNDARY_LO (R453). -/
def Reg.SEC_ACTIVE_KEY_BOUNDARY_LO : RegDef where
  id := 118
  base := 0xB088
  ro := 0xFFFFFFFF

/-- SEC.ACTIVE_KEY_BOUNDARY_HI (R453). -/
def Reg.SEC_ACTIVE_KEY_BOUNDARY_HI : RegDef where
  id := 119
  base := 0xB08C
  ro := 0x00000001

/-- SEC.REKEY_LEFT (R453). -/
def Reg.SEC_REKEY_LEFT : RegDef where
  id := 120
  base := 0xB090
  ro := 0x0007FFFF

/-- SEC.KEY_STATUS (R458). -/
def Reg.SEC_KEY_STATUS : RegDef where
  id := 121
  base := 0xB400
  c1 := 256
  s1 := 0x4
  ro := 0xFEFFFFFF

/-- HIF.LINK_STATUS (R577). -/
def Reg.HIF_LINK_STATUS : RegDef where
  id := 122
  base := 0x10000
  ro := 0xFFFFFFFF

/-- HIF.EVENTS (R578). -/
def Reg.HIF_EVENTS : RegDef where
  id := 123
  base := 0x10004
  w1c := 0x0000001F

/-- HIF.DMA_ERRORS (R576). -/
def Reg.HIF_DMA_ERRORS : RegDef where
  id := 124
  base := 0x10008
  rc := 0xFFFFFFFF

/-- HIF.TENANT_STATUS (R579). -/
def Reg.HIF_TENANT_STATUS : RegDef where
  id := 125
  base := 0x11000
  c1 := 256
  s1 := 0x4
  ro := 0xFC001FFF
  w1c := 0x03000000

/-- SWF.STATUS (R484). -/
def Reg.SWF_STATUS : RegDef where
  id := 126
  base := 0x20000
  ro := 0x8001FFFF

/-- SWF.POOL_CFG (R484). -/
def Reg.SWF_POOL_CFG : RegDef where
  id := 127
  base := 0x20004
  rw := 0x000003FF
  res := [(9, 0, 513, 1023)]

/-- SWF.EVENTS (R484). -/
def Reg.SWF_EVENTS : RegDef where
  id := 128
  base := 0x20008
  w1c := 0x0000003F

/-- SWF.TRACE_CFG (R485). -/
def Reg.SWF_TRACE_CFG : RegDef where
  id := 129
  base := 0x2000C
  rw := 0x83FFFFFF

/-- SWF.TRACE_TENANT (R482). -/
def Reg.SWF_TRACE_TENANT : RegDef where
  id := 130
  base := 0x20010
  c1 := 8
  s1 := 0x4
  rw := 0xFFFFFFFF

/-- SWF.DECISIONS_LO (R482). -/
def Reg.SWF_DECISIONS_LO : RegDef where
  id := 131
  base := 0x20030
  ro := 0xFFFFFFFF

/-- SWF.DECISIONS_HI (R482). -/
def Reg.SWF_DECISIONS_HI : RegDef where
  id := 132
  base := 0x20034
  ro := 0xFFFFFFFF

/-- SWF.FIRINGS_LO (R482). -/
def Reg.SWF_FIRINGS_LO : RegDef where
  id := 133
  base := 0x20038
  ro := 0xFFFFFFFF

/-- SWF.FIRINGS_HI (R482). -/
def Reg.SWF_FIRINGS_HI : RegDef where
  id := 134
  base := 0x2003C
  ro := 0xFFFFFFFF

/-- SWF.CACHE_MISSES (R482). -/
def Reg.SWF_CACHE_MISSES : RegDef where
  id := 135
  base := 0x20040
  rc := 0xFFFFFFFF

/-- SWF.TRACE_LOST (R482). -/
def Reg.SWF_TRACE_LOST : RegDef where
  id := 136
  base := 0x20044
  rc := 0xFFFFFFFF

/-- SWF.STALE_RESULTS (R482). -/
def Reg.SWF_STALE_RESULTS : RegDef where
  id := 137
  base := 0x20048
  rc := 0xFFFFFFFF

/-- SWF.REDISPATCHES (R482). -/
def Reg.SWF_REDISPATCHES : RegDef where
  id := 138
  base := 0x2004C
  rc := 0xFFFFFFFF

/-- SWF.EXCESS_OUTPUTS (R482). -/
def Reg.SWF_EXCESS_OUTPUTS : RegDef where
  id := 139
  base := 0x20050
  rc := 0xFFFFFFFF

/-- SWF.OP_INDEX (R482). -/
def Reg.SWF_OP_INDEX : RegDef where
  id := 140
  base := 0x20060
  rw := 0x0003FFFF

/-- SWF.DQ_INDEX (R482). -/
def Reg.SWF_DQ_INDEX : RegDef where
  id := 141
  base := 0x20064
  rw := 0x000FFFFF

/-- SWF.OP_DATA (R482). -/
def Reg.SWF_OP_DATA : RegDef where
  id := 142
  base := 0x20080
  c1 := 16
  s1 := 0x4
  ro := 0xFFFFFFFF

/-- SWF.DQ_DATA (R482). -/
def Reg.SWF_DQ_DATA : RegDef where
  id := 143
  base := 0x200C0
  c1 := 8
  s1 := 0x4
  ro := 0xFFFFFFFF

/-- SWF.TENANT_CFG (R486). -/
def Reg.SWF_TENANT_CFG : RegDef where
  id := 144
  base := 0x21000
  c1 := 256
  s1 := 0x10
  reset := fun _ _ _ => 0x01010000#32
  rw := 0xFF01FFFF
  res := [(31, 24, 0, 0), (16, 0, 65537, 131071)]

/-- SWF.TENANT_TOKQ (R486). -/
def Reg.SWF_TENANT_TOKQ : RegDef where
  id := 145
  base := 0x21004
  c1 := 256
  s1 := 0x10
  rw := 0x00003FFF
  res := [(13, 0, 8193, 16383)]

/-- SWF.TENANT_CACHE (R486). -/
def Reg.SWF_TENANT_CACHE : RegDef where
  id := 146
  base := 0x21008
  c1 := 256
  s1 := 0x10
  rw := 0x000001FF
  res := [(8, 0, 257, 511)]

/-- SWF.TENANT_STATUS (R486). -/
def Reg.SWF_TENANT_STATUS : RegDef where
  id := 147
  base := 0x2100C
  c1 := 256
  s1 := 0x10
  ro := 0x0001FFFF

/-- SWF.POOL_READY (R482). -/
def Reg.SWF_POOL_READY : RegDef where
  id := 148
  base := 0x24000
  c1 := 4096
  s1 := 0x4
  ro := 0x0001FFFF

/-- NOC.STATUS (R551). -/
def Reg.NOC_STATUS : RegDef where
  id := 149
  base := 0x40000
  reset := fun _ _ _ => 0x000000FF#32
  ro := 0x000000FF

/-- NOC.EVENTS (R551). -/
def Reg.NOC_EVENTS : RegDef where
  id := 150
  base := 0x40004
  w1c := 0x0000001F

/-- NOC.RING_STATUS (R551). -/
def Reg.NOC_RING_STATUS : RegDef where
  id := 151
  base := 0x40010
  c1 := 8
  s1 := 0x4
  ro := 0xFF00003F

/-- NOC.LINK_RETRIES (R550). -/
def Reg.NOC_LINK_RETRIES : RegDef where
  id := 152
  base := 0x40030
  rc := 0xFFFFFFFF

/-- NOC.BAD_PACKETS (R550). -/
def Reg.NOC_BAD_PACKETS : RegDef where
  id := 153
  base := 0x40034
  rc := 0xFFFFFFFF

/-- NOC.TENANT_REJECTS (R550). -/
def Reg.NOC_TENANT_REJECTS : RegDef where
  id := 154
  base := 0x40038
  rc := 0xFFFFFFFF

/-- NOC.TRACE_CFG (R552). -/
def Reg.NOC_TRACE_CFG : RegDef where
  id := 155
  base := 0x40040
  rw := 0x800003FF

/-- NOC.TRACE_LOST (R550). -/
def Reg.NOC_TRACE_LOST : RegDef where
  id := 156
  base := 0x40044
  rc := 0xFFFFFFFF

/-- NOC.PROBE_CFG (R552). -/
def Reg.NOC_PROBE_CFG : RegDef where
  id := 157
  base := 0x40100
  c1 := 32
  s1 := 0x20
  rw := 0xF700003F
  res := [(5, 0, 52, 63)]

/-- NOC.PROBE_FILTER (R552). -/
def Reg.NOC_PROBE_FILTER : RegDef where
  id := 158
  base := 0x40104
  c1 := 32
  s1 := 0x20
  reset := fun _ _ _ => 0xF0000000#32
  rw := 0xFFF8FF00

/-- NOC.PROBE_SRC (R552). -/
def Reg.NOC_PROBE_SRC : RegDef where
  id := 159
  base := 0x40108
  c1 := 32
  s1 := 0x20
  reset := fun _ _ _ => 0x01130000#32
  rw := 0x03FF03FF
  res := [(25, 16, 276, 1023)]

/-- NOC.PROBE_DST (R552). -/
def Reg.NOC_PROBE_DST : RegDef where
  id := 160
  base := 0x4010C
  c1 := 32
  s1 := 0x20
  reset := fun _ _ _ => 0x01130000#32
  rw := 0x03FF03FF
  res := [(25, 16, 276, 1023)]

/-- NOC.PROBE_COUNT_LO (R550). -/
def Reg.NOC_PROBE_COUNT_LO : RegDef where
  id := 161
  base := 0x40110
  c1 := 32
  s1 := 0x20
  ro := 0xFFFFFFFF

/-- NOC.PROBE_COUNT_HI (R550). -/
def Reg.NOC_PROBE_COUNT_HI : RegDef where
  id := 162
  base := 0x40114
  c1 := 32
  s1 := 0x20
  ro := 0xFFFFFFFF

/-- BRY.PORT_STATUS (R595). -/
def Reg.BRY_PORT_STATUS : RegDef where
  id := 163
  base := 0x80000
  c1 := 4
  s1 := 0x100
  ro := 0xFFF80000

/-- BRY.PORT_EVENTS (R595). -/
def Reg.BRY_PORT_EVENTS : RegDef where
  id := 164
  base := 0x80004
  c1 := 4
  s1 := 0x100
  w1c := 0x00000007

/-- BRY.PORT_ASYM (R594). -/
def Reg.BRY_PORT_ASYM : RegDef where
  id := 165
  base := 0x80008
  c1 := 4
  s1 := 0x100
  rw := 0x0000FFFF

/-- BRY.DELAY (R594). -/
def Reg.BRY_DELAY : RegDef where
  id := 166
  base := 0x8000C
  c1 := 4
  s1 := 0x100
  ro := 0x0000FFFF

/-- BRY.CRC_ERRORS (R594). -/
def Reg.BRY_CRC_ERRORS : RegDef where
  id := 167
  base := 0x80010
  c1 := 4
  s1 := 0x100
  rc := 0xFFFFFFFF

/-- BRY.REPLAYS (R594). -/
def Reg.BRY_REPLAYS : RegDef where
  id := 168
  base := 0x80014
  c1 := 4
  s1 := 0x100
  rc := 0xFFFFFFFF

/-- BRY.RING_CFG (R596). -/
def Reg.BRY_RING_CFG : RegDef where
  id := 169
  base := 0x81000
  reset := fun _ _ _ => 0x02000000#32
  rw := 0xFFE0FFFF
  res := [(31, 30, 3, 3), (27, 24, 0, 1), (27, 24, 9, 15)]

/-- BRY.RING_STATUS (R597). -/
def Reg.BRY_RING_STATUS : RegDef where
  id := 170
  base := 0x81004
  ro := 0xFFFC00FF

/-- BRY.RING_EVENTS (R597). -/
def Reg.BRY_RING_EVENTS : RegDef where
  id := 171
  base := 0x81008
  w1c := 0x0000003F

/-- BRY.SYNC_STATUS (R597). -/
def Reg.BRY_SYNC_STATUS : RegDef where
  id := 172
  base := 0x8100C
  ro := 0xF000FFFF

/-- BRY.OFFSET (R594). -/
def Reg.BRY_OFFSET : RegDef where
  id := 173
  base := 0x81010
  ro := 0xFFFFFFFF

/-- BRY.LINE_SPAN (R594). -/
def Reg.BRY_LINE_SPAN : RegDef where
  id := 174
  base := 0x81014
  rw := 0xFFFFFFFF

/-- BRY.LINE_DELAY (R594). -/
def Reg.BRY_LINE_DELAY : RegDef where
  id := 175
  base := 0x81018
  reset := fun _ _ _ => 0x00000400#32
  rw := 0x0000FFFF

/-- BRY.LINE_LATE (R594). -/
def Reg.BRY_LINE_LATE : RegDef where
  id := 176
  base := 0x8101C
  rc := 0xFFFFFFFF

/-- BRY.TENANT_LINK (R594). -/
def Reg.BRY_TENANT_LINK : RegDef where
  id := 177
  base := 0x81020
  c1 := 8
  s1 := 0x4
  rw := 0xFFFFFFFF

/-- BRY.RMT_CTRL (R598). -/
def Reg.BRY_RMT_CTRL : RegDef where
  id := 178
  base := 0x81040
  rw := 0x7C000000
  ro := 0x03000000
  w1s := 0x80000000

/-- BRY.RMT_ADDR (R594). -/
def Reg.BRY_RMT_ADDR : RegDef where
  id := 179
  base := 0x81044
  rw := 0x0FFFFFFF

/-- BRY.RMT_DATA (R594). -/
def Reg.BRY_RMT_DATA : RegDef where
  id := 180
  base := 0x81048
  rw := 0xFFFFFFFF

/-- MEM.FRONT_STATUS (R419). -/
def Reg.MEM_FRONT_STATUS : RegDef where
  id := 181
  base := 0x1C0000
  ro := 0xF000FFFF

/-- MEM.EVENTS (R420). -/
def Reg.MEM_EVENTS : RegDef where
  id := 182
  base := 0x1C0004
  w1c := 0x000003FE

/-- MEM.REG_CFG (R421). -/
def Reg.MEM_REG_CFG : RegDef where
  id := 183
  base := 0x1C0008
  reset := fun _ _ _ => 0x00000002#32
  rw := 0x0000000F
  res := [(3, 0, 6, 15)]

/-- MEM.CXL_MODE (R421). -/
def Reg.MEM_CXL_MODE : RegDef where
  id := 184
  base := 0x1C000C
  rw := 0x00000003
  ro := 0x0000000C

/-- MEM.SCRUB_CFG (R421). -/
def Reg.MEM_SCRUB_CFG : RegDef where
  id := 185
  base := 0x1C0010
  reset := fun _ _ _ => 0x80000002#32
  rw := 0x8000000F
  res := [(3, 0, 4, 15)]

/-- MEM.FRONT_RECON (R418). -/
def Reg.MEM_FRONT_RECON : RegDef where
  id := 186
  base := 0x1C0014
  rc := 0xFFFFFFFF

/-- MEM.DOUBLE_FAULTS (R418). -/
def Reg.MEM_DOUBLE_FAULTS : RegDef where
  id := 187
  base := 0x1C0018
  rc := 0xFFFFFFFF

/-- MEM.PARITY_FIXED (R418). -/
def Reg.MEM_PARITY_FIXED : RegDef where
  id := 188
  base := 0x1C001C
  rc := 0xFFFFFFFF

/-- MEM.HBM_STATUS (R422). -/
def Reg.MEM_HBM_STATUS : RegDef where
  id := 189
  base := 0x100000
  c1 := 12
  s1 := 0x10000
  ro := 0xFF000000

/-- MEM.HBM_CE_COUNT (R418). -/
def Reg.MEM_HBM_CE_COUNT : RegDef where
  id := 190
  base := 0x100004
  c1 := 12
  s1 := 0x10000
  rc := 0xFFFFFFFF

/-- MEM.HBM_UE_COUNT (R418). -/
def Reg.MEM_HBM_UE_COUNT : RegDef where
  id := 191
  base := 0x100008
  c1 := 12
  s1 := 0x10000
  rc := 0xFFFFFFFF

/-- MEM.HBM_REPAIRS (R422). -/
def Reg.MEM_HBM_REPAIRS : RegDef where
  id := 192
  base := 0x10000C
  c1 := 12
  s1 := 0x10000
  ro := 0xFFFFFFFF

/-- MEM.DDR_STATUS (R423). -/
def Reg.MEM_DDR_STATUS : RegDef where
  id := 193
  base := 0x200000
  c1 := 16
  s1 := 0x10000
  ro := 0xFFFFFFF0

/-- MEM.DDR_CFG (R423). -/
def Reg.MEM_DDR_CFG : RegDef where
  id := 194
  base := 0x200004
  c1 := 16
  s1 := 0x10000
  rw := 0x8000001F

/-- MEM.DDR_CE_COUNT (R418). -/
def Reg.MEM_DDR_CE_COUNT : RegDef where
  id := 195
  base := 0x200008
  c1 := 16
  s1 := 0x10000
  rc := 0xFFFFFFFF

/-- MEM.DDR_UE_COUNT (R418). -/
def Reg.MEM_DDR_UE_COUNT : RegDef where
  id := 196
  base := 0x20000C
  c1 := 16
  s1 := 0x10000
  rc := 0xFFFFFFFF

/-- MEM.DDR_MIGRATE (R418). -/
def Reg.MEM_DDR_MIGRATE : RegDef where
  id := 197
  base := 0x200010
  c1 := 16
  s1 := 0x10000
  ro := 0xFFFFFFFF

/-- MEM.CXL_STATUS (R424). -/
def Reg.MEM_CXL_STATUS : RegDef where
  id := 198
  base := 0x300000
  c1 := 3
  s1 := 0x10000
  ro := 0xFFFF0000

/-- MEM.CXL_POISON_COUNT (R418). -/
def Reg.MEM_CXL_POISON_COUNT : RegDef where
  id := 199
  base := 0x300004
  c1 := 3
  s1 := 0x10000
  rc := 0xFFFFFFFF

/-- MEM.CXL_TIMEOUT_COUNT (R418). -/
def Reg.MEM_CXL_TIMEOUT_COUNT : RegDef where
  id := 200
  base := 0x300008
  c1 := 3
  s1 := 0x10000
  rc := 0xFFFFFFFF

/-- CAP.STATUS (R313). -/
def Reg.CAP_STATUS : RegDef where
  id := 201
  base := 0x400000
  reset := fun _ _ _ => 0x21000000#32
  ro := 0x3FFF07FF

/-- CAP.EVENTS (R314). -/
def Reg.CAP_EVENTS : RegDef where
  id := 202
  base := 0x400004
  w1c := 0x0000003F

/-- CAP.DRAIN_CFG (R315). -/
def Reg.CAP_DRAIN_CFG : RegDef where
  id := 203
  base := 0x400008
  reset := fun _ _ _ => 0x80000000#32
  rw := 0x80000003
  res := [(1, 0, 3, 3)]

/-- CAP.DRAIN_PENDING (R311). -/
def Reg.CAP_DRAIN_PENDING : RegDef where
  id := 204
  base := 0x40000C
  ro := 0x0007FFFF

/-- CAP.QT_INDEX (R311). -/
def Reg.CAP_QT_INDEX : RegDef where
  id := 205
  base := 0x400010
  rw := 0x0007FFFF

/-- CAP.LOST_QUIRES (R311). -/
def Reg.CAP_LOST_QUIRES : RegDef where
  id := 206
  base := 0x400014
  rc := 0xFFFFFFFF

/-- CAP.QT_DATA (R311). -/
def Reg.CAP_QT_DATA : RegDef where
  id := 207
  base := 0x400040
  c1 := 16
  s1 := 0x4
  ro := 0xFFFFFFFF

/-- CAP.TARGET_CAP (R311). -/
def Reg.CAP_TARGET_CAP : RegDef where
  id := 208
  base := 0x400100
  c1 := 7
  s1 := 0x8
  ro := 0x0007FFFF

/-- CAP.TARGET_USED (R311). -/
def Reg.CAP_TARGET_USED : RegDef where
  id := 209
  base := 0x400104
  c1 := 7
  s1 := 0x8
  ro := 0x0007FFFF

/-- CAP.QUOTA_FRONT (R316). -/
def Reg.CAP_QUOTA_FRONT : RegDef where
  id := 210
  base := 0x401000
  c1 := 256
  s1 := 0x10
  rw := 0x00003FFF
  res := [(13, 0, 8449, 16383)]

/-- CAP.QUOTA_DEEP (R316). -/
def Reg.CAP_QUOTA_DEEP : RegDef where
  id := 211
  base := 0x401004
  c1 := 256
  s1 := 0x10
  rw := 0x0007FFFF

/-- CAP.USE_FRONT (R311). -/
def Reg.CAP_USE_FRONT : RegDef where
  id := 212
  base := 0x401008
  c1 := 256
  s1 := 0x10
  ro := 0x00003FFF

/-- CAP.USE_DEEP (R311). -/
def Reg.CAP_USE_DEEP : RegDef where
  id := 213
  base := 0x40100C
  c1 := 256
  s1 := 0x10
  ro := 0x0007FFFF

/-- CAP.STREAM_STATUS (R317). -/
def Reg.CAP_STREAM_STATUS : RegDef where
  id := 214
  base := 0x410000
  c1 := 1024
  s1 := 0x80
  ro := 0xFFFFFF00

/-- CAP.STREAM_CFG (R318). -/
def Reg.CAP_STREAM_CFG : RegDef where
  id := 215
  base := 0x410004
  c1 := 1024
  s1 := 0x80
  reset := fun _ _ _ => 0x03E80000#32
  ro := 0xFFFF1FFF

/-- CAP.STREAM_FIRST_QUIRE (R319). -/
def Reg.CAP_STREAM_FIRST_QUIRE : RegDef where
  id := 216
  base := 0x410008
  c1 := 1024
  s1 := 0x80
  ro := 0x8007FFFF

/-- CAP.STREAM_LAST_QUIRE (R319). -/
def Reg.CAP_STREAM_LAST_QUIRE : RegDef where
  id := 217
  base := 0x41000C
  c1 := 1024
  s1 := 0x80
  ro := 0x8007FFFF

/-- CAP.STREAM_START_LO (R312). -/
def Reg.CAP_STREAM_START_LO : RegDef where
  id := 218
  base := 0x410010
  c1 := 1024
  s1 := 0x80
  ro := 0xFFFFFFFF

/-- CAP.STREAM_START_HI (R312). -/
def Reg.CAP_STREAM_START_HI : RegDef where
  id := 219
  base := 0x410014
  c1 := 1024
  s1 := 0x80
  ro := 0xFFFFFFFF

/-- CAP.STREAM_STOP_LO (R312). -/
def Reg.CAP_STREAM_STOP_LO : RegDef where
  id := 220
  base := 0x410018
  c1 := 1024
  s1 := 0x80
  ro := 0xFFFFFFFF

/-- CAP.STREAM_STOP_HI (R312). -/
def Reg.CAP_STREAM_STOP_HI : RegDef where
  id := 221
  base := 0x41001C
  c1 := 1024
  s1 := 0x80
  ro := 0xFFFFFFFF

/-- CAP.STREAM_TRIG_LO (R312). -/
def Reg.CAP_STREAM_TRIG_LO : RegDef where
  id := 222
  base := 0x410020
  c1 := 1024
  s1 := 0x80
  ro := 0xFFFFFFFF

/-- CAP.STREAM_TRIG_HI (R312). -/
def Reg.CAP_STREAM_TRIG_HI : RegDef where
  id := 223
  base := 0x410024
  c1 := 1024
  s1 := 0x80
  ro := 0xFFFFFFFF

/-- CAP.STREAM_STORED_LO (R312). -/
def Reg.CAP_STREAM_STORED_LO : RegDef where
  id := 224
  base := 0x410028
  c1 := 1024
  s1 := 0x80
  ro := 0xFFFFFFFF

/-- CAP.STREAM_STORED_HI (R312). -/
def Reg.CAP_STREAM_STORED_HI : RegDef where
  id := 225
  base := 0x41002C
  c1 := 1024
  s1 := 0x80
  ro := 0xFFFFFFFF

/-- CAP.STREAM_GAP_LO (R312). -/
def Reg.CAP_STREAM_GAP_LO : RegDef where
  id := 226
  base := 0x410030
  c1 := 1024
  s1 := 0x80
  ro := 0xFFFFFFFF

/-- CAP.STREAM_GAP_HI (R312). -/
def Reg.CAP_STREAM_GAP_HI : RegDef where
  id := 227
  base := 0x410034
  c1 := 1024
  s1 := 0x80
  ro := 0xFFFFFFFF

/-- CAP.STREAM_LOST_REC (R312). -/
def Reg.CAP_STREAM_LOST_REC : RegDef where
  id := 228
  base := 0x410038
  c1 := 1024
  s1 := 0x80
  rc := 0xFFFFFFFF

/-- CAP.STREAM_LOST_EVT0 (R320). -/
def Reg.CAP_STREAM_LOST_EVT0 : RegDef where
  id := 229
  base := 0x41003C
  c1 := 1024
  s1 := 0x80
  rc := 0xFFFFFFFF

/-- CAP.STREAM_LOST_EVT1 (R320). -/
def Reg.CAP_STREAM_LOST_EVT1 : RegDef where
  id := 230
  base := 0x410040
  c1 := 1024
  s1 := 0x80
  rc := 0xFFFFFFFF

/-- CAP.STREAM_LOST_EVT2 (R320). -/
def Reg.CAP_STREAM_LOST_EVT2 : RegDef where
  id := 231
  base := 0x410044
  c1 := 1024
  s1 := 0x80
  rc := 0x0000FFFF

/-- CAP.STREAM_POST (R318). -/
def Reg.CAP_STREAM_POST : RegDef where
  id := 232
  base := 0x410048
  c1 := 1024
  s1 := 0x80
  ro := 0x0000FFFF

/-- CAP.COLL_CFG (R340). -/
def Reg.CAP_COLL_CFG : RegDef where
  id := 233
  base := 0x480000
  rw := 0x0000000F
  res := [(3, 0, 6, 15)]

/-- CAP.COLL_STATUS (R341). -/
def Reg.CAP_COLL_STATUS : RegDef where
  id := 234
  base := 0x480004
  ro := 0x00003FFF

/-- CAP.COLL_EVENTS (R342). -/
def Reg.CAP_COLL_EVENTS : RegDef where
  id := 235
  base := 0x480008
  w1c := 0x00000007

/-- CAP.SESS_STATUS (R343). -/
def Reg.CAP_SESS_STATUS : RegDef where
  id := 236
  base := 0x481000
  c1 := 32
  s1 := 0x20
  ro := 0xFFFFFF00

/-- CAP.SESS_HORIZON_LO (R339). -/
def Reg.CAP_SESS_HORIZON_LO : RegDef where
  id := 237
  base := 0x481008
  c1 := 32
  s1 := 0x20
  ro := 0xFFFFFFFF

/-- CAP.SESS_HORIZON_HI (R339). -/
def Reg.CAP_SESS_HORIZON_HI : RegDef where
  id := 238
  base := 0x48100C
  c1 := 32
  s1 := 0x20
  ro := 0xFFFFFFFF

/-- CAP.SESS_RECORDS_LO (R339). -/
def Reg.CAP_SESS_RECORDS_LO : RegDef where
  id := 239
  base := 0x481010
  c1 := 32
  s1 := 0x20
  ro := 0xFFFFFFFF

/-- CAP.SESS_RECORDS_HI (R339). -/
def Reg.CAP_SESS_RECORDS_HI : RegDef where
  id := 240
  base := 0x481014
  c1 := 32
  s1 := 0x20
  ro := 0xFFFFFFFF

/-- CAP.SESS_SKIPPED (R339). -/
def Reg.CAP_SESS_SKIPPED : RegDef where
  id := 241
  base := 0x481018
  c1 := 32
  s1 := 0x20
  rc := 0xFFFFFFFF

/-- PRS.LANE_STATUS (R368). -/
def Reg.PRS_LANE_STATUS : RegDef where
  id := 242
  base := 0x500000
  c1 := 512
  s1 := 0x400
  ro := 0xFFFF01FF

/-- PRS.LANE_CFG (R369). -/
def Reg.PRS_LANE_CFG : RegDef where
  id := 243
  base := 0x500004
  c1 := 512
  s1 := 0x400
  rw := 0xFFF00000
  res := [(29, 26, 9, 15)]

/-- PRS.EVENTS (R370). -/
def Reg.PRS_EVENTS : RegDef where
  id := 244
  base := 0x500008
  c1 := 512
  s1 := 0x400
  w1c := 0x00000FFE

/-- PRS.RELAY_CFG (R371). -/
def Reg.PRS_RELAY_CFG : RegDef where
  id := 245
  base := 0x50000C
  c1 := 512
  s1 := 0x400
  rw := 0x0000001F

/-- PRS.RELAY_STATUS (R371). -/
def Reg.PRS_RELAY_STATUS : RegDef where
  id := 246
  base := 0x500010
  c1 := 512
  s1 := 0x400
  ro := 0x0001FFFF

/-- PRS.CACHE_LINES (R371). -/
def Reg.PRS_CACHE_LINES : RegDef where
  id := 247
  base := 0x500014
  c1 := 512
  s1 := 0x400
  reset := fun _ _ _ => 0x00000020#32
  rw := 0x000007FF
  res := [(10, 0, 0, 0), (10, 0, 1, 1), (10, 0, 1025, 2047)]

/-- PRS.IDLE_CFG (R371). -/
def Reg.PRS_IDLE_CFG : RegDef where
  id := 248
  base := 0x500018
  c1 := 512
  s1 := 0x400
  reset := fun _ _ _ => 0x00000001#32
  rw := 0x000007FF

/-- PRS.EVQ_DQ (R367). -/
def Reg.PRS_EVQ_DQ : RegDef where
  id := 249
  base := 0x500020
  c1 := 512
  s1 := 0x400
  ro := 0x000FFFFF

/-- PRS.NOTIFY_DQ (R367). -/
def Reg.PRS_NOTIFY_DQ : RegDef where
  id := 250
  base := 0x500024
  c1 := 512
  s1 := 0x400
  ro := 0x000FFFFF

/-- PRS.IDLE_PAT (R367). -/
def Reg.PRS_IDLE_PAT : RegDef where
  id := 251
  base := 0x500040
  c1 := 512
  s1 := 0x400
  c2 := 33
  s2 := 0x4
  rw := 0xFFFFFFFF

/-- PRS.RELAY_MATCH (R367). -/
def Reg.PRS_RELAY_MATCH : RegDef where
  id := 252
  base := 0x500180
  c1 := 512
  s1 := 0x400
  c2 := 4
  s2 := 0x10
  c3 := 4
  s3 := 0x4
  rw := 0xFFFFFFFF

/-- PRS.SUB_NO_PROGRAM (R367). -/
def Reg.PRS_SUB_NO_PROGRAM : RegDef where
  id := 253
  base := 0x500100
  c1 := 512
  s1 := 0x400
  rc := 0xFFFFFFFF

/-- PRS.SUB_MISS (R367). -/
def Reg.PRS_SUB_MISS : RegDef where
  id := 254
  base := 0x500104
  c1 := 512
  s1 := 0x400
  rc := 0xFFFFFFFF

/-- PRS.SUB_STARVED (R367). -/
def Reg.PRS_SUB_STARVED : RegDef where
  id := 255
  base := 0x500108
  c1 := 512
  s1 := 0x400
  rc := 0xFFFFFFFF

/-- PRS.SUB_FREEZE (R367). -/
def Reg.PRS_SUB_FREEZE : RegDef where
  id := 256
  base := 0x50010C
  c1 := 512
  s1 := 0x400
  rc := 0xFFFFFFFF

/-- PRS.SUB_PLL (R367). -/
def Reg.PRS_SUB_PLL : RegDef where
  id := 257
  base := 0x500110
  c1 := 512
  s1 := 0x400
  rc := 0xFFFFFFFF

/-- PRS.SUB_RELAY (R367). -/
def Reg.PRS_SUB_RELAY : RegDef where
  id := 258
  base := 0x500114
  c1 := 512
  s1 := 0x400
  rc := 0xFFFFFFFF

/-- PRS.SUB_SHAPER (R367). -/
def Reg.PRS_SUB_SHAPER : RegDef where
  id := 259
  base := 0x500118
  c1 := 512
  s1 := 0x400
  rc := 0xFFFFFFFF

/-- PRS.SUB_MCAST (R367). -/
def Reg.PRS_SUB_MCAST : RegDef where
  id := 260
  base := 0x50011C
  c1 := 512
  s1 := 0x400
  rc := 0xFFFFFFFF

/-- PRS.EVQ_DISCARDS (R367). -/
def Reg.PRS_EVQ_DISCARDS : RegDef where
  id := 261
  base := 0x500120
  c1 := 512
  s1 := 0x400
  rc := 0xFFFFFFFF

/-- PRS.RELAY_DISCARDS (R367). -/
def Reg.PRS_RELAY_DISCARDS : RegDef where
  id := 262
  base := 0x500124
  c1 := 512
  s1 := 0x400
  rc := 0xFFFFFFFF

/-- PRS.NOTIFY_DISCARDS (R367). -/
def Reg.PRS_NOTIFY_DISCARDS : RegDef where
  id := 263
  base := 0x500128
  c1 := 512
  s1 := 0x400
  rc := 0xFFFFFFFF

/-- PRS.RELAY_RESYNCS (R367). -/
def Reg.PRS_RELAY_RESYNCS : RegDef where
  id := 264
  base := 0x50012C
  c1 := 512
  s1 := 0x400
  rc := 0xFFFFFFFF

/-- PRS.SECT_CACHE (R371). -/
def Reg.PRS_SECT_CACHE : RegDef where
  id := 265
  base := 0x580000
  c1 := 16
  s1 := 0x400
  ro := 0x000007FF

/-- PRS.FRM_LANE_STATUS (R390). -/
def Reg.PRS_FRM_LANE_STATUS : RegDef where
  id := 266
  base := 0x5A0000
  c1 := 512
  s1 := 0x10
  reset := fun _ _ _ => 0x10000000#32
  ro := 0xF000FFFF

/-- PRS.FRM_EMPTY (R386). -/
def Reg.PRS_FRM_EMPTY : RegDef where
  id := 267
  base := 0x5A0004
  c1 := 512
  s1 := 0x10
  rc := 0xFFFFFFFF

/-- PRS.FRM_SKIPPED (R386). -/
def Reg.PRS_FRM_SKIPPED : RegDef where
  id := 268
  base := 0x5A0008
  c1 := 512
  s1 := 0x10
  rc := 0xFFFFFFFF

/-- PRS.FRM_FRAMES (R386). -/
def Reg.PRS_FRM_FRAMES : RegDef where
  id := 269
  base := 0x5A000C
  c1 := 512
  s1 := 0x10
  rc := 0xFFFFFFFF

/-- PRS.FRM_INDEX (R386). -/
def Reg.PRS_FRM_INDEX : RegDef where
  id := 270
  base := 0x5B0000
  rw := 0x0000FFFF

/-- PRS.FRM_STATUS (R387). -/
def Reg.PRS_FRM_STATUS : RegDef where
  id := 271
  base := 0x10000004
  c1 := 65536
  s1 := 0x100
  ro := 0xFFFF0000
  w1c := 0x00000007

/-- PRS.FRM_CFG (R388). -/
def Reg.PRS_FRM_CFG : RegDef where
  id := 272
  base := 0x10000008
  c1 := 65536
  s1 := 0x100
  rw := 0xFC00FFFF

/-- PRS.FRM_TARGET (R386). -/
def Reg.PRS_FRM_TARGET : RegDef where
  id := 273
  base := 0x1000000C
  c1 := 65536
  s1 := 0x100
  rw := 0xFFFFFFFF

/-- PRS.FRM_LIST (R389). -/
def Reg.PRS_FRM_LIST : RegDef where
  id := 274
  base := 0x10000010
  c1 := 65536
  s1 := 0x100
  rw := 0xFFFFFFFF

/-- PRS.FRM_LIST_ADDR_LO (R386). -/
def Reg.PRS_FRM_LIST_ADDR_LO : RegDef where
  id := 275
  base := 0x10000014
  c1 := 65536
  s1 := 0x100
  rw := 0xFFFFFFFF

/-- PRS.FRM_LIST_ADDR_HI (R386). -/
def Reg.PRS_FRM_LIST_ADDR_HI : RegDef where
  id := 276
  base := 0x10000018
  c1 := 65536
  s1 := 0x100
  rw := 0x0000FFFF

/-- PRS.SHP_RATE (R389). -/
def Reg.PRS_SHP_RATE : RegDef where
  id := 277
  base := 0x1000001C
  c1 := 65536
  s1 := 0x100
  rw := 0x07FFFFFF
  res := [(26, 0, 112500001, 134217727)]

/-- PRS.SHP_BURST (R389). -/
def Reg.PRS_SHP_BURST : RegDef where
  id := 278
  base := 0x10000020
  c1 := 65536
  s1 := 0x100
  reset := fun _ _ _ => 0x00000080#32
  rw := 0x000FFFFF
  w1s := 0x80000000
  res := [(19, 0, 0, 0)]

/-- PRS.SHP_LEVEL_LO (R386). -/
def Reg.PRS_SHP_LEVEL_LO : RegDef where
  id := 279
  base := 0x10000024
  c1 := 65536
  s1 := 0x100
  ro := 0xFFFFFFFF

/-- PRS.SHP_LEVEL_HI (R386). -/
def Reg.PRS_SHP_LEVEL_HI : RegDef where
  id := 280
  base := 0x10000028
  c1 := 65536
  s1 := 0x100
  ro := 0x000000FF

/-- PRS.FRM_DQ (R386). -/
def Reg.PRS_FRM_DQ : RegDef where
  id := 281
  base := 0x1000002C
  c1 := 65536
  s1 := 0x100
  ro := 0x000FFFFF

/-- PRS.FRM_NOTIFY_DQ (R386). -/
def Reg.PRS_FRM_NOTIFY_DQ : RegDef where
  id := 282
  base := 0x10000030
  c1 := 65536
  s1 := 0x100
  ro := 0x000FFFFF

/-- PRS.FRM_SENT_LO (R386). -/
def Reg.PRS_FRM_SENT_LO : RegDef where
  id := 283
  base := 0x10000034
  c1 := 65536
  s1 := 0x100
  ro := 0xFFFFFFFF

/-- PRS.FRM_SENT_HI (R386). -/
def Reg.PRS_FRM_SENT_HI : RegDef where
  id := 284
  base := 0x10000038
  c1 := 65536
  s1 := 0x100
  ro := 0xFFFFFFFF

/-- PRS.FRM_PARTIAL (R386). -/
def Reg.PRS_FRM_PARTIAL : RegDef where
  id := 285
  base := 0x1000003C
  c1 := 65536
  s1 := 0x100
  rc := 0xFFFFFFFF

/-- PRS.FRM_BAD (R386). -/
def Reg.PRS_FRM_BAD : RegDef where
  id := 286
  base := 0x10000040
  c1 := 65536
  s1 := 0x100
  rc := 0xFFFFFFFF

/-- PRS.FRM_NOTIFY_LOST (R386). -/
def Reg.PRS_FRM_NOTIFY_LOST : RegDef where
  id := 287
  base := 0x10000044
  c1 := 65536
  s1 := 0x100
  rc := 0xFFFFFFFF

/-- LANE.STATUS (R191). -/
def Reg.LANE_STATUS : RegDef where
  id := 288
  base := 0x800000
  c1 := 512
  s1 := 0x1000
  ro := 0xF0FFFF00

/-- LANE.CTRL (R192). -/
def Reg.LANE_CTRL : RegDef where
  id := 289
  base := 0x800004
  c1 := 512
  s1 := 0x1000
  rw := 0x8CC00000

/-- LANE.RATE (R193). -/
def Reg.LANE_RATE : RegDef where
  id := 290
  base := 0x800008
  c1 := 512
  s1 := 0x1000
  reset := fun _ _ _ => 0x40000000#32
  rw := 0xFE000000
  res := [(31, 30, 2, 2), (31, 30, 3, 3), (29, 27, 6, 6), (29, 27, 7, 7), (26, 25, 3, 3)]

/-- LANE.MULT (R194). -/
def Reg.LANE_MULT : RegDef where
  id := 291
  base := 0x80000C
  c1 := 512
  s1 := 0x1000
  reset := fun _ _ _ => 0x70800000#32
  rw := 0xFFFFFFFF

/-- LANE.TX_FIR (R195). -/
def Reg.LANE_TX_FIR : RegDef where
  id := 292
  base := 0x800010
  c1 := 512
  s1 := 0x1000
  reset := fun _ _ _ => 0x00803F00#32
  rw := 0x00FF3F0F

/-- LANE.RX_EQ (R196). -/
def Reg.LANE_RX_EQ : RegDef where
  id := 293
  base := 0x800014
  c1 := 512
  s1 := 0x1000
  rw := 0x00000003
  res := [(1, 0, 3, 3)]

/-- LANE.RX_COEF (R197). -/
def Reg.LANE_RX_COEF : RegDef where
  id := 294
  base := 0x800018
  c1 := 512
  s1 := 0x1000
  rw := 0xF800FFFF

/-- LANE.EVENTS (R198). -/
def Reg.LANE_EVENTS : RegDef where
  id := 295
  base := 0x80001C
  c1 := 512
  s1 := 0x1000
  ro := 0x00000F00
  w1c := 0x000000FE

/-- LANE.LOCK_LOSS_COUNT (R190). -/
def Reg.LANE_LOCK_LOSS_COUNT : RegDef where
  id := 296
  base := 0x800020
  c1 := 512
  s1 := 0x1000
  rc := 0xFFFFFFFF

/-- LANE.SIGNAL_LOSS_COUNT (R190). -/
def Reg.LANE_SIGNAL_LOSS_COUNT : RegDef where
  id := 297
  base := 0x800024
  c1 := 512
  s1 := 0x1000
  rc := 0xFFFFFFFF

/-- LANE.OCT_STATUS (R199). -/
def Reg.LANE_OCT_STATUS : RegDef where
  id := 298
  base := 0x800800
  c1 := 64
  s1 := 0x8000
  reset := fun _ _ _ => 0x80000000#32
  ro := 0xFF000000

/-- LANE.OCT_MULT (R190). -/
def Reg.LANE_OCT_MULT : RegDef where
  id := 299
  base := 0x800804
  c1 := 64
  s1 := 0x8000
  reset := fun _ _ _ => 0x70800000#32
  ro := 0xFFFFFFFF

/-- LANE.OCT_SWITCH_COUNT (R190). -/
def Reg.LANE_OCT_SWITCH_COUNT : RegDef where
  id := 300
  base := 0x800808
  c1 := 64
  s1 := 0x8000
  rc := 0xFFFFFFFF

/-- LANE.DIG_CFG (R213). -/
def Reg.LANE_DIG_CFG : RegDef where
  id := 301
  base := 0x800100
  c1 := 512
  s1 := 0x1000
  c2 := 2
  s2 := 0x10
  reset := fun _ _ _ => 0x04000000#32
  rw := 0x3F8F03FF
  w1s := 0xC0000000
  res := [(29, 28, 3, 3), (27, 26, 3, 3), (19, 16, 11, 15)]

/-- LANE.DIG_SPAN (R214). -/
def Reg.LANE_DIG_SPAN : RegDef where
  id := 302
  base := 0x800104
  c1 := 512
  s1 := 0x1000
  c2 := 2
  s2 := 0x10
  reset := fun _ _ _ => 0x00010000#32
  rw := 0xFFFFFFFF
  res := [(31, 16, 0, 0)]

/-- LANE.DIG_COUNT (R214). -/
def Reg.LANE_DIG_COUNT : RegDef where
  id := 303
  base := 0x800108
  c1 := 512
  s1 := 0x1000
  c2 := 2
  s2 := 0x10
  reset := fun _ _ _ => 0x00010000#32
  rw := 0xFFFFFFFF
  res := [(31, 16, 0, 0)]

/-- LANE.DIG_STATUS (R215). -/
def Reg.LANE_DIG_STATUS : RegDef where
  id := 304
  base := 0x80010C
  c1 := 512
  s1 := 0x1000
  c2 := 2
  s2 := 0x10
  ro := 0x8FFFFFFF

/-- LANE.TDR_RESULT (R216). -/
def Reg.LANE_TDR_RESULT : RegDef where
  id := 305
  base := 0x800140
  c1 := 512
  s1 := 0x1000
  ro := 0x80FFFFFF

/-- LANE.TDR_RHO (R216). -/
def Reg.LANE_TDR_RHO : RegDef where
  id := 306
  base := 0x800144
  c1 := 512
  s1 := 0x1000
  ro := 0x0000FFFF

/-- LANE.PROBE_CTRL (R217). -/
def Reg.LANE_PROBE_CTRL : RegDef where
  id := 307
  base := 0x800150
  c1 := 512
  s1 := 0x1000
  reset := fun _ _ _ => 0x000D0064#32
  rw := 0x30FF03FF
  w1s := 0xC0000000
  res := [(29, 28, 3, 3), (23, 16, 0, 0), (9, 0, 0, 0), (9, 0, 1001, 1023)]

/-- LANE.PROBE_STATUS (R218). -/
def Reg.LANE_PROBE_STATUS : RegDef where
  id := 308
  base := 0x800154
  c1 := 512
  s1 := 0x1000
  ro := 0x8F00FFF0

/-- LANE.PROBE_DATA (R212). -/
def Reg.LANE_PROBE_DATA : RegDef where
  id := 309
  base := 0x800160
  c1 := 512
  s1 := 0x1000
  c2 := 16
  s2 := 0x4
  rw := 0xFFFFFFFF

/-- SECT.INTAKE_STATUS (R253). -/
def Reg.SECT_INTAKE_STATUS : RegDef where
  id := 310
  base := 0xA00000
  c1 := 16
  s1 := 0x4000
  reset := fun _ _ _ => 0x80000688#32
  ro := 0xFC000FFF

/-- SECT.INTAKE_EVENTS (R254). -/
def Reg.SECT_INTAKE_EVENTS : RegDef where
  id := 311
  base := 0xA00004
  c1 := 16
  s1 := 0x4000
  w1c := 0x0000007F

/-- SECT.SLICE_SWITCH_COUNT (R247). -/
def Reg.SECT_SLICE_SWITCH_COUNT : RegDef where
  id := 312
  base := 0xA00008
  c1 := 16
  s1 := 0x4000
  rc := 0xFFFFFFFF

/-- SECT.LANE_CFG (R248). -/
def Reg.SECT_LANE_CFG : RegDef where
  id := 313
  base := 0xA00100
  c1 := 16
  s1 := 0x4000
  c2 := 32
  s2 := 0x20
  reset := fun _ _ _ => 0x00000100#32
  rw := 0xFF00FFFF
  res := [(15, 0, 0, 15)]

/-- SECT.COMMA_CFG (R249). -/
def Reg.SECT_COMMA_CFG : RegDef where
  id := 314
  base := 0xA00104
  c1 := 16
  s1 := 0x4000
  c2 := 32
  s2 := 0x20
  reset := fun _ _ _ => 0x400FFC00#32
  rw := 0xF00FFFFF

/-- SECT.DESKEW_CFG (R250). -/
def Reg.SECT_DESKEW_CFG : RegDef where
  id := 315
  base := 0xA00108
  c1 := 16
  s1 := 0x4000
  c2 := 32
  s2 := 0x20
  reset := fun _ _ _ => 0x80FF00BC#32
  rw := 0x80FF00FF

/-- SECT.ISTATUS (R251). -/
def Reg.SECT_ISTATUS : RegDef where
  id := 316
  base := 0xA0010C
  c1 := 16
  s1 := 0x4000
  c2 := 32
  s2 := 0x20
  reset := fun _ j _ => 0x00000000#32 ||| BitVec.ofNat 32 ((j / 8) <<< 16)
  ro := 0xFFFF03FF

/-- SECT.FEC_CORR_CW (R247). -/
def Reg.SECT_FEC_CORR_CW : RegDef where
  id := 317
  base := 0xA00110
  c1 := 16
  s1 := 0x4000
  c2 := 32
  s2 := 0x20
  rc := 0xFFFFFFFF

/-- SECT.FEC_UNCORR_CW (R247). -/
def Reg.SECT_FEC_UNCORR_CW : RegDef where
  id := 318
  base := 0xA00114
  c1 := 16
  s1 := 0x4000
  c2 := 32
  s2 := 0x20
  rc := 0xFFFFFFFF

/-- SECT.FEC_CORR_SYM (R247). -/
def Reg.SECT_FEC_CORR_SYM : RegDef where
  id := 319
  base := 0xA00118
  c1 := 16
  s1 := 0x4000
  c2 := 32
  s2 := 0x20
  rc := 0xFFFFFFFF

/-- SECT.INVALID_COUNT (R247). -/
def Reg.SECT_INVALID_COUNT : RegDef where
  id := 320
  base := 0xA0011C
  c1 := 16
  s1 := 0x4000
  c2 := 32
  s2 := 0x20
  rc := 0xFFFFFFFF

/-- SECT.BUNDLE_MEMBERS (R247). -/
def Reg.SECT_BUNDLE_MEMBERS : RegDef where
  id := 321
  base := 0xA00800
  c1 := 16
  s1 := 0x4000
  c2 := 16
  s2 := 0x8
  ro := 0xFFFFFFFF

/-- SECT.BUNDLE_STATUS (R252). -/
def Reg.SECT_BUNDLE_STATUS : RegDef where
  id := 322
  base := 0xA00804
  c1 := 16
  s1 := 0x4000
  c2 := 16
  s2 := 0x8
  ro := 0xC3FFF3FF

/-- SECT.MATCH_CFG (R278). -/
def Reg.SECT_MATCH_CFG : RegDef where
  id := 323
  base := 0xA01000
  c1 := 16
  s1 := 0x4000
  c2 := 32
  s2 := 0x40
  rw := 0xFF1F00FF

/-- SECT.MATCH_VALUE (R277). -/
def Reg.SECT_MATCH_VALUE : RegDef where
  id := 324
  base := 0xA01004
  c1 := 16
  s1 := 0x4000
  c2 := 32
  s2 := 0x40
  c3 := 4
  s3 := 0x4
  rw := 0xFFFFFFFF

/-- SECT.MATCH_MASK (R277). -/
def Reg.SECT_MATCH_MASK : RegDef where
  id := 325
  base := 0xA01014
  c1 := 16
  s1 := 0x4000
  c2 := 32
  s2 := 0x40
  c3 := 4
  s3 := 0x4
  rw := 0xFFFFFFFF

/-- SECT.MATCH_COUNT (R277). -/
def Reg.SECT_MATCH_COUNT : RegDef where
  id := 326
  base := 0xA01024
  c1 := 16
  s1 := 0x4000
  c2 := 32
  s2 := 0x40
  rc := 0xFFFFFFFF

/-- SECT.CNT_CFG (R279). -/
def Reg.SECT_CNT_CFG : RegDef where
  id := 327
  base := 0xA01800
  c1 := 16
  s1 := 0x4000
  c2 := 16
  s2 := 0x10
  reset := fun _ _ _ => 0x0000005D#32
  rw := 0xF000007F
  res := [(30, 29, 3, 3)]

/-- SECT.CNT_COMPARE (R277). -/
def Reg.SECT_CNT_COMPARE : RegDef where
  id := 328
  base := 0xA01804
  c1 := 16
  s1 := 0x4000
  c2 := 16
  s2 := 0x10
  reset := fun _ _ _ => 0xFFFFFFFF#32
  rw := 0xFFFFFFFF
  res := [(31, 0, 0, 0)]

/-- SECT.CNT_VALUE (R277). -/
def Reg.SECT_CNT_VALUE : RegDef where
  id := 329
  base := 0xA01808
  c1 := 16
  s1 := 0x4000
  c2 := 16
  s2 := 0x10
  rw := 0xFFFFFFFF

/-- SECT.TAP_CFG (R280). -/
def Reg.SECT_TAP_CFG : RegDef where
  id := 330
  base := 0xA01900
  c1 := 16
  s1 := 0x4000
  c2 := 4
  s2 := 0x4
  rw := 0xC000001F

/-- SECT.TRIG_EVENTS (R281). -/
def Reg.SECT_TRIG_EVENTS : RegDef where
  id := 331
  base := 0xA01920
  c1 := 16
  s1 := 0x4000
  w1c := 0x0000001F

/-- SECT.TRIG_LATE (R277). -/
def Reg.SECT_TRIG_LATE : RegDef where
  id := 332
  base := 0xA01924
  c1 := 16
  s1 := 0x4000
  rc := 0xFFFFFFFF

/-- SECT.TAP_DISCARDS (R277). -/
def Reg.SECT_TAP_DISCARDS : RegDef where
  id := 333
  base := 0xA01928
  c1 := 16
  s1 := 0x4000
  rc := 0xFFFFFFFF

/-- SECT.RIBBON_SUPPRESSED (R277). -/
def Reg.SECT_RIBBON_SUPPRESSED : RegDef where
  id := 334
  base := 0xA0192C
  c1 := 16
  s1 := 0x4000
  rc := 0xFFFFFFFF

/-- SECT.SEQ_CTRL (R282). -/
def Reg.SECT_SEQ_CTRL : RegDef where
  id := 335
  base := 0xA02000
  c1 := 16
  s1 := 0x4000
  c2 := 4
  s2 := 0x200
  rw := 0x00FF0000
  w1s := 0xE0000000

/-- SECT.SEQ_STATUS (R283). -/
def Reg.SECT_SEQ_STATUS : RegDef where
  id := 336
  base := 0xA02004
  c1 := 16
  s1 := 0x4000
  c2 := 4
  s2 := 0x200
  ro := 0x87F0FFFF

/-- SECT.SEQ_TARGET (R284). -/
def Reg.SECT_SEQ_TARGET : RegDef where
  id := 337
  base := 0xA02008
  c1 := 16
  s1 := 0x4000
  c2 := 4
  s2 := 0x200
  rw := 0x800003FF

/-- SECT.ARC_COND (R285). -/
def Reg.SECT_ARC_COND : RegDef where
  id := 338
  base := 0xA02100
  c1 := 16
  s1 := 0x4000
  c2 := 4
  s2 := 0x200
  c3 := 16
  s3 := 0x10
  reset := fun _ _ _ => 0x00005D5D#32
  rw := 0xFC00FFFF
  res := [(30, 29, 3, 3)]

/-- SECT.ARC_ACTION (R286). -/
def Reg.SECT_ARC_ACTION : RegDef where
  id := 339
  base := 0xA02104
  c1 := 16
  s1 := 0x4000
  c2 := 4
  s2 := 0x200
  c3 := 16
  s3 := 0x10
  rw := 0xFFFFFF80

/-- SECT.ARC_CODE (R277). -/
def Reg.SECT_ARC_CODE : RegDef where
  id := 340
  base := 0xA02108
  c1 := 16
  s1 := 0x4000
  c2 := 4
  s2 := 0x200
  c3 := 16
  s3 := 0x10
  rw := 0xFFFFFFFF

/-- SECT.ARC_ARG (R287). -/
def Reg.SECT_ARC_ARG : RegDef where
  id := 341
  base := 0xA0210C
  c1 := 16
  s1 := 0x4000
  c2 := 4
  s2 := 0x200
  c3 := 16
  s3 := 0x10
  rw := 0x00FFFFFF

/-- SGC.STATUS (R511). -/
def Reg.SGC_STATUS : RegDef where
  id := 342
  base := 0x2018000
  c1 := 256
  s1 := 0x20000
  ro := 0xFFFFFFFF

/-- SGC.EVENTS (R512). -/
def Reg.SGC_EVENTS : RegDef where
  id := 343
  base := 0x2018004
  c1 := 256
  s1 := 0x20000
  w1c := 0x0000000F

/-- SGC.TASK_CFG (R513). -/
def Reg.SGC_TASK_CFG : RegDef where
  id := 344
  base := 0x2018008
  c1 := 256
  s1 := 0x20000
  rw := 0x00007FFF

/-- SGC.COLL_CFG (R514). -/
def Reg.SGC_COLL_CFG : RegDef where
  id := 345
  base := 0x201800C
  c1 := 256
  s1 := 0x20000
  rw := 0xCFFFFFFF

/-- SGC.VECTOR (R513). -/
def Reg.SGC_VECTOR : RegDef where
  id := 346
  base := 0x2018010
  c1 := 256
  s1 := 0x20000
  rw := 0x00001FFF

/-- SGC.EXC_INFO (R515). -/
def Reg.SGC_EXC_INFO : RegDef where
  id := 347
  base := 0x2018014
  c1 := 256
  s1 := 0x20000
  ro := 0xFE001FFF

/-- SGC.BANK_STALLS (R510). -/
def Reg.SGC_BANK_STALLS : RegDef where
  id := 348
  base := 0x2018018
  c1 := 256
  s1 := 0x20000
  rc := 0xFFFFFFFF

/-- SGC.DMA_WAIT (R510). -/
def Reg.SGC_DMA_WAIT : RegDef where
  id := 349
  base := 0x201801C
  c1 := 256
  s1 := 0x20000
  rc := 0xFFFFFFFF

/-- SGC.TASKS_DONE (R510). -/
def Reg.SGC_TASKS_DONE : RegDef where
  id := 350
  base := 0x2018020
  c1 := 256
  s1 := 0x20000
  rc := 0xFFFFFFFF

/-- SGC.IMEM_CE (R510). -/
def Reg.SGC_IMEM_CE : RegDef where
  id := 351
  base := 0x2018024
  c1 := 256
  s1 := 0x20000
  rc := 0xFFFFFFFF

/-- SGC.DMEM_CE (R510). -/
def Reg.SGC_DMEM_CE : RegDef where
  id := 352
  base := 0x2018028
  c1 := 256
  s1 := 0x20000
  rc := 0xFFFFFFFF

/-- FAB.SECT_STATUS (R164). -/
def Reg.FAB_SECT_STATUS : RegDef where
  id := 353
  base := 0x4000000
  c1 := 256
  s1 := 0x10000
  reset := fun _ _ _ => 0x00000800#32
  ro := 0xFF0F0C0F

/-- FAB.SECT_CTRL (R165). -/
def Reg.FAB_SECT_CTRL : RegDef where
  id := 354
  base := 0x4000004
  c1 := 256
  s1 := 0x10000
  reset := fun _ _ _ => 0x00000001#32
  rw := 0x00000001

/-- FAB.SECT_EVENTS (R166). -/
def Reg.FAB_SECT_EVENTS : RegDef where
  id := 355
  base := 0x4000008
  c1 := 256
  s1 := 0x10000
  w1c := 0x0000003F

/-- FAB.ATTACH_DISCARDS (R163). -/
def Reg.FAB_ATTACH_DISCARDS : RegDef where
  id := 356
  base := 0x400000C
  c1 := 256
  s1 := 0x10000
  rc := 0xFFFFFFFF

/-- FAB.RCLK_CTRL (R167). -/
def Reg.FAB_RCLK_CTRL : RegDef where
  id := 357
  base := 0x4000040
  c1 := 256
  s1 := 0x10000
  c2 := 16
  s2 := 0x4
  rw := 0x8000F3FF
  res := [(15, 14, 3, 3)]

/-- FAB.RCLK_STATUS (R168). -/
def Reg.FAB_RCLK_STATUS : RegDef where
  id := 358
  base := 0x4000080
  c1 := 256
  s1 := 0x10000
  ro := 0xFFFFFFFF

/-- FAB.MEM_CTRL (R146). -/
def Reg.FAB_MEM_CTRL : RegDef where
  id := 359
  base := 0x4000800
  c1 := 256
  s1 := 0x10000
  reset := fun _ _ _ => 0x80010000#32
  rw := 0x800F0000
  res := [(19, 16, 5, 15)]

/-- FAB.MEM_STATUS (R147). -/
def Reg.FAB_MEM_STATUS : RegDef where
  id := 360
  base := 0x4000804
  c1 := 256
  s1 := 0x10000
  ro := 0x007FFFFF
  w1c := 0xF0000000

/-- FAB.MEM_CE_COUNT (R145). -/
def Reg.FAB_MEM_CE_COUNT : RegDef where
  id := 361
  base := 0x4000808
  c1 := 256
  s1 := 0x10000
  rc := 0xFFFFFFFF

/-- FAB.MEM_UE_COUNT (R145). -/
def Reg.FAB_MEM_UE_COUNT : RegDef where
  id := 362
  base := 0x400080C
  c1 := 256
  s1 := 0x10000
  rc := 0xFFFFFFFF

/-- FAB.MEM_INJECT (R148). -/
def Reg.FAB_MEM_INJECT : RegDef where
  id := 363
  base := 0x4000810
  c1 := 256
  s1 := 0x10000
  rw := 0x7FFE7FFF
  w1s := 0x80000000
  res := [(22, 17, 47, 63)]

/-- GLB.ID.stepping [31:28] RO (R714). -/
def F.GLB_ID_stepping : Fld := ⟨Reg.GLB_ID, 31, 28⟩

/-- GLB.ID.part [27:12] RO (R714). -/
def F.GLB_ID_part : Fld := ⟨Reg.GLB_ID, 27, 12⟩

/-- GLB.ID.vendor [11:0] RO (R714). -/
def F.GLB_ID_vendor : Fld := ⟨Reg.GLB_ID, 11, 0⟩

/-- GLB.STATE.state [31:28] RO (R715). -/
def F.GLB_STATE_state : Fld := ⟨Reg.GLB_STATE, 31, 28⟩

/-- GLB.STATE.dev_state [27:25] RO (R715). -/
def F.GLB_STATE_dev_state : Fld := ⟨Reg.GLB_STATE, 27, 25⟩

/-- GLB.STATE.attention [14:0] RO (R715). -/
def F.GLB_STATE_attention : Fld := ⟨Reg.GLB_STATE, 14, 0⟩

/-- GLB.ERR_STATUS.bad_access [5:5] W1C (R716). -/
def F.GLB_ERR_STATUS_bad_access : Fld := ⟨Reg.GLB_ERR_STATUS, 5, 5⟩

/-- GLB.ERR_STATUS.unmapped_write [4:4] W1C (R716). -/
def F.GLB_ERR_STATUS_unmapped_write : Fld := ⟨Reg.GLB_ERR_STATUS, 4, 4⟩

/-- GLB.ERR_STATUS.rsv_write [3:3] W1C (R716). -/
def F.GLB_ERR_STATUS_rsv_write : Fld := ⟨Reg.GLB_ERR_STATUS, 3, 3⟩

/-- GLB.ERR_STATUS.locked_write [2:2] W1C (R716). -/
def F.GLB_ERR_STATUS_locked_write : Fld := ⟨Reg.GLB_ERR_STATUS, 2, 2⟩

/-- GLB.ERR_STATUS.lost_write [1:1] W1C (R716). -/
def F.GLB_ERR_STATUS_lost_write : Fld := ⟨Reg.GLB_ERR_STATUS, 1, 1⟩

/-- GLB.ERR_STATUS.bad_encoding [0:0] W1C (R716). -/
def F.GLB_ERR_STATUS_bad_encoding : Fld := ⟨Reg.GLB_ERR_STATUS, 0, 0⟩

/-- GLB.ERR_INFO.kind [31:29] RO (R717). -/
def F.GLB_ERR_INFO_kind : Fld := ⟨Reg.GLB_ERR_INFO, 31, 29⟩

/-- GLB.ERR_INFO.offset [27:2] RO (R717). -/
def F.GLB_ERR_INFO_offset : Fld := ⟨Reg.GLB_ERR_INFO, 27, 2⟩

/-- GLB.ERR_INFO.path [1:0] RO (R717). -/
def F.GLB_ERR_INFO_path : Fld := ⟨Reg.GLB_ERR_INFO, 1, 0⟩

/-- GLB.RSV_WRITES.value [31:0] RC (R713). -/
def F.GLB_RSV_WRITES_value : Fld := ⟨Reg.GLB_RSV_WRITES, 31, 0⟩

/-- GLB.UNMAPPED_WRITES.value [31:0] RC (R713). -/
def F.GLB_UNMAPPED_WRITES_value : Fld := ⟨Reg.GLB_UNMAPPED_WRITES, 31, 0⟩

/-- GLB.LOST_WRITES.value [31:0] RC (R713). -/
def F.GLB_LOST_WRITES_value : Fld := ⟨Reg.GLB_LOST_WRITES, 31, 0⟩

/-- GLB.SCRATCH.value [31:0] RW (R713). -/
def F.GLB_SCRATCH_value : Fld := ⟨Reg.GLB_SCRATCH, 31, 0⟩

/-- CLK.STATUS.mems_ok [15:15] RO (R78). -/
def F.CLK_STATUS_mems_ok : Fld := ⟨Reg.CLK_STATUS, 15, 15⟩

/-- CLK.STATUS.root_state [14:12] RO (R78). -/
def F.CLK_STATUS_root_state : Fld := ⟨Reg.CLK_STATUS, 14, 12⟩

/-- CLK.STATUS.ring_member [11:11] RO (R78). -/
def F.CLK_STATUS_ring_member : Fld := ⟨Reg.CLK_STATUS, 11, 11⟩

/-- CLK.STATUS.active_source [10:0] RO (R78). -/
def F.CLK_STATUS_active_source : Fld := ⟨Reg.CLK_STATUS, 10, 0⟩

/-- CLK.REF_CTRL.slew [17:16] RW (R81). -/
def F.CLK_REF_CTRL_slew : Fld := ⟨Reg.CLK_REF_CTRL, 17, 16⟩

/-- CLK.REF_CTRL.revert [15:14] RW (R81). -/
def F.CLK_REF_CTRL_revert : Fld := ⟨Reg.CLK_REF_CTRL, 15, 14⟩

/-- CLK.REF_CTRL.switch [12:12] W1S (R81). -/
def F.CLK_REF_CTRL_switch : Fld := ⟨Reg.CLK_REF_CTRL, 12, 12⟩

/-- CLK.REF_CTRL.req_source [10:0] RW (R81). -/
def F.CLK_REF_CTRL_req_source : Fld := ⟨Reg.CLK_REF_CTRL, 10, 0⟩

/-- CLK.REF_EVENTS.refuse_cause [15:12] RO (R79). -/
def F.CLK_REF_EVENTS_refuse_cause : Fld := ⟨Reg.CLK_REF_EVENTS, 15, 12⟩

/-- CLK.REF_EVENTS.ready_lost [7:7] W1C (R79). -/
def F.CLK_REF_EVENTS_ready_lost : Fld := ⟨Reg.CLK_REF_EVENTS, 7, 7⟩

/-- CLK.REF_EVENTS.ready_gained [6:6] W1C (R79). -/
def F.CLK_REF_EVENTS_ready_gained : Fld := ⟨Reg.CLK_REF_EVENTS, 6, 6⟩

/-- CLK.REF_EVENTS.active_lost [5:5] W1C (R79). -/
def F.CLK_REF_EVENTS_active_lost : Fld := ⟨Reg.CLK_REF_EVENTS, 5, 5⟩

/-- CLK.REF_EVENTS.fallback_done [4:4] W1C (R79). -/
def F.CLK_REF_EVENTS_fallback_done : Fld := ⟨Reg.CLK_REF_EVENTS, 4, 4⟩

/-- CLK.REF_EVENTS.reverted [3:3] W1C (R79). -/
def F.CLK_REF_EVENTS_reverted : Fld := ⟨Reg.CLK_REF_EVENTS, 3, 3⟩

/-- CLK.REF_EVENTS.switch_done [2:2] W1C (R79). -/
def F.CLK_REF_EVENTS_switch_done : Fld := ⟨Reg.CLK_REF_EVENTS, 2, 2⟩

/-- CLK.REF_EVENTS.refused [1:1] W1C (R79). -/
def F.CLK_REF_EVENTS_refused : Fld := ⟨Reg.CLK_REF_EVENTS, 1, 1⟩

/-- CLK.REF_EVENTS.no_reference [0:0] W1C (R79). -/
def F.CLK_REF_EVENTS_no_reference : Fld := ⟨Reg.CLK_REF_EVENTS, 0, 0⟩

/-- CLK.QUAL_CFG.refclk_freq [15:14] RW (R82). -/
def F.CLK_QUAL_CFG_refclk_freq : Fld := ⟨Reg.CLK_QUAL_CFG, 15, 14⟩

/-- CLK.QUAL_CFG.qual_count [13:10] RW (R82). -/
def F.CLK_QUAL_CFG_qual_count : Fld := ⟨Reg.CLK_QUAL_CFG, 13, 10⟩

/-- CLK.QUAL_CFG.window_ppm [9:0] RW (R82). -/
def F.CLK_QUAL_CFG_window_ppm : Fld := ⟨Reg.CLK_QUAL_CFG, 9, 0⟩

/-- CLK.FREQ_ADJ.adj [23:0] RW (R84). -/
def F.CLK_FREQ_ADJ_adj : Fld := ⟨Reg.CLK_FREQ_ADJ, 23, 0⟩

/-- CLK.CAND.enable [31:31] RW (R83). -/
def F.CLK_CAND_enable : Fld := ⟨Reg.CLK_CAND, 31, 31⟩

/-- CLK.CAND.source [10:0] RW (R83). -/
def F.CLK_CAND_source : Fld := ⟨Reg.CLK_CAND, 10, 0⟩

/-- CLK.CAND_STATUS.ready [31:31] RO (R80). -/
def F.CLK_CAND_STATUS_ready : Fld := ⟨Reg.CLK_CAND_STATUS, 31, 31⟩

/-- CLK.CAND_STATUS.present [30:30] RO (R80). -/
def F.CLK_CAND_STATUS_present : Fld := ⟨Reg.CLK_CAND_STATUS, 30, 30⟩

/-- CLK.CAND_STATUS.pass_count [23:16] RO (R80). -/
def F.CLK_CAND_STATUS_pass_count : Fld := ⟨Reg.CLK_CAND_STATUS, 23, 16⟩

/-- CLK.CAND_STATUS.offset [15:0] RO (R80). -/
def F.CLK_CAND_STATUS_offset : Fld := ⟨Reg.CLK_CAND_STATUS, 15, 0⟩

/-- CLK.TIME_LO.value [31:0] RO (R77). -/
def F.CLK_TIME_LO_value : Fld := ⟨Reg.CLK_TIME_LO, 31, 0⟩

/-- CLK.TIME_HI.value [31:0] RO (R77). -/
def F.CLK_TIME_HI_value : Fld := ⟨Reg.CLK_TIME_HI, 31, 0⟩

/-- CLK.TIME_SET_LO.value [31:0] RW (R77). -/
def F.CLK_TIME_SET_LO_value : Fld := ⟨Reg.CLK_TIME_SET_LO, 31, 0⟩

/-- CLK.TIME_SET_HI.value [31:0] RW (R77). -/
def F.CLK_TIME_SET_HI_value : Fld := ⟨Reg.CLK_TIME_SET_HI, 31, 0⟩

/-- CLK.TIME_AT_LO.value [31:0] RW (R77). -/
def F.CLK_TIME_AT_LO_value : Fld := ⟨Reg.CLK_TIME_AT_LO, 31, 0⟩

/-- CLK.TIME_AT_HI.value [31:0] RW (R77). -/
def F.CLK_TIME_AT_HI_value : Fld := ⟨Reg.CLK_TIME_AT_HI, 31, 0⟩

/-- CLK.TIME_CMD.result [15:12] RO (R85). -/
def F.CLK_TIME_CMD_result : Fld := ⟨Reg.CLK_TIME_CMD, 15, 12⟩

/-- CLK.TIME_CMD.op [5:4] RW (R85). -/
def F.CLK_TIME_CMD_op : Fld := ⟨Reg.CLK_TIME_CMD, 5, 4⟩

/-- CLK.TIME_CMD.at_enable [3:3] RW (R85). -/
def F.CLK_TIME_CMD_at_enable : Fld := ⟨Reg.CLK_TIME_CMD, 3, 3⟩

/-- CLK.TIME_CMD.pending [1:1] RO (R85). -/
def F.CLK_TIME_CMD_pending : Fld := ⟨Reg.CLK_TIME_CMD, 1, 1⟩

/-- CLK.TIME_CMD.go [0:0] W1S (R85). -/
def F.CLK_TIME_CMD_go : Fld := ⟨Reg.CLK_TIME_CMD, 0, 0⟩

/-- CLK.PPS_CAP_LO.value [31:0] RO (R77). -/
def F.CLK_PPS_CAP_LO_value : Fld := ⟨Reg.CLK_PPS_CAP_LO, 31, 0⟩

/-- CLK.PPS_CAP_HI.value [31:0] RO (R77). -/
def F.CLK_PPS_CAP_HI_value : Fld := ⟨Reg.CLK_PPS_CAP_HI, 31, 0⟩

/-- CLK.PPS_COUNT.value [31:0] RO (R77). -/
def F.CLK_PPS_COUNT_value : Fld := ⟨Reg.CLK_PPS_COUNT, 31, 0⟩

/-- CLK.OUT_CTRL.enable [31:31] RW (R86). -/
def F.CLK_OUT_CTRL_enable : Fld := ⟨Reg.CLK_OUT_CTRL, 31, 31⟩

/-- CLK.OUT_CTRL.ssc [30:29] RW (R86). -/
def F.CLK_OUT_CTRL_ssc : Fld := ⟨Reg.CLK_OUT_CTRL, 30, 29⟩

/-- CLK.OUT_CTRL.pps [28:28] RW (R86). -/
def F.CLK_OUT_CTRL_pps : Fld := ⟨Reg.CLK_OUT_CTRL, 28, 28⟩

/-- CLK.OUT_CTRL.freq_khz [17:0] RW (R86). -/
def F.CLK_OUT_CTRL_freq_khz : Fld := ⟨Reg.CLK_OUT_CTRL, 17, 0⟩

/-- CLK.XING_ERR.value [31:0] RC (R77). -/
def F.CLK_XING_ERR_value : Fld := ⟨Reg.CLK_XING_ERR, 31, 0⟩

/-- CLK.GLOBAL_DIV.enable [31:31] RW (R87). -/
def F.CLK_GLOBAL_DIV_enable : Fld := ⟨Reg.CLK_GLOBAL_DIV, 31, 31⟩

/-- CLK.GLOBAL_DIV.align [16:16] RW (R87). -/
def F.CLK_GLOBAL_DIV_align : Fld := ⟨Reg.CLK_GLOBAL_DIV, 16, 16⟩

/-- CLK.GLOBAL_DIV.divisor [15:0] RW (R87). -/
def F.CLK_GLOBAL_DIV_divisor : Fld := ⟨Reg.CLK_GLOBAL_DIV, 15, 0⟩

/-- PWR.DEV_STATUS.state [31:29] RO (R637). -/
def F.PWR_DEV_STATUS_state : Fld := ⟨Reg.PWR_DEV_STATUS, 31, 29⟩

/-- PWR.DEV_STATUS.last_wake [28:26] RO (R637). -/
def F.PWR_DEV_STATUS_last_wake : Fld := ⟨Reg.PWR_DEV_STATUS, 28, 26⟩

/-- PWR.DEV_STATUS.wake_pin [25:23] RO (R637). -/
def F.PWR_DEV_STATUS_wake_pin : Fld := ⟨Reg.PWR_DEV_STATUS, 25, 23⟩

/-- PWR.DEV_STATUS.woke_after_commit [22:22] RO (R637). -/
def F.PWR_DEV_STATUS_woke_after_commit : Fld := ⟨Reg.PWR_DEV_STATUS, 22, 22⟩

/-- PWR.DEV_STATUS.from_off [21:21] RO (R637). -/
def F.PWR_DEV_STATUS_from_off : Fld := ⟨Reg.PWR_DEV_STATUS, 21, 21⟩

/-- PWR.DEV_CTRL.go [31:31] W1S (R638). -/
def F.PWR_DEV_CTRL_go : Fld := ⟨Reg.PWR_DEV_CTRL, 31, 31⟩

/-- PWR.DEV_CTRL.request [30:29] RW (R638). -/
def F.PWR_DEV_CTRL_request : Fld := ⟨Reg.PWR_DEV_CTRL, 30, 29⟩

/-- PWR.DEV_CTRL.result [27:24] RO (R638). -/
def F.PWR_DEV_CTRL_result : Fld := ⟨Reg.PWR_DEV_CTRL, 27, 24⟩

/-- PWR.DEV_CTRL.off_key [15:0] WO (R638). -/
def F.PWR_DEV_CTRL_off_key : Fld := ⟨Reg.PWR_DEV_CTRL, 15, 0⟩

/-- PWR.EVENTS.entry_cancelled [4:4] W1C (R642). -/
def F.PWR_EVENTS_entry_cancelled : Fld := ⟨Reg.PWR_EVENTS, 4, 4⟩

/-- PWR.EVENTS.woke [3:3] W1C (R642). -/
def F.PWR_EVENTS_woke : Fld := ⟨Reg.PWR_EVENTS, 3, 3⟩

/-- PWR.EVENTS.entry_refused [2:2] W1C (R642). -/
def F.PWR_EVENTS_entry_refused : Fld := ⟨Reg.PWR_EVENTS, 2, 2⟩

/-- PWR.EVENTS.vote_refused [1:1] W1C (R642). -/
def F.PWR_EVENTS_vote_refused : Fld := ⟨Reg.PWR_EVENTS, 1, 1⟩

/-- PWR.EVENTS.domain_changed [0:0] W1C (R642). -/
def F.PWR_EVENTS_domain_changed : Fld := ⟨Reg.PWR_EVENTS, 0, 0⟩

/-- PWR.WAKE_CFG.wake_n_en [31:31] RW (R639). -/
def F.PWR_WAKE_CFG_wake_n_en : Fld := ⟨Reg.PWR_WAKE_CFG, 31, 31⟩

/-- PWR.WAKE_CFG.smbus_en [30:30] RW (R639). -/
def F.PWR_WAKE_CFG_smbus_en : Fld := ⟨Reg.PWR_WAKE_CFG, 30, 30⟩

/-- PWR.WAKE_CFG.host_en [29:29] RW (R639). -/
def F.PWR_WAKE_CFG_host_en : Fld := ⟨Reg.PWR_WAKE_CFG, 29, 29⟩

/-- PWR.WAKE_CFG.timer_en [28:28] RW (R639). -/
def F.PWR_WAKE_CFG_timer_en : Fld := ⟨Reg.PWR_WAKE_CFG, 28, 28⟩

/-- PWR.WAKE_CFG.gio_en [23:16] RW (R639). -/
def F.PWR_WAKE_CFG_gio_en : Fld := ⟨Reg.PWR_WAKE_CFG, 23, 16⟩

/-- PWR.WAKE_CFG.gio_edge [15:8] RW (R639). -/
def F.PWR_WAKE_CFG_gio_edge : Fld := ⟨Reg.PWR_WAKE_CFG, 15, 8⟩

/-- PWR.WAKE_AT_LO.value [31:0] RW (R636). -/
def F.PWR_WAKE_AT_LO_value : Fld := ⟨Reg.PWR_WAKE_AT_LO, 31, 0⟩

/-- PWR.WAKE_AT_HI.value [31:0] RW (R636). -/
def F.PWR_WAKE_AT_HI_value : Fld := ⟨Reg.PWR_WAKE_AT_HI, 31, 0⟩

/-- PWR.IDLE_CFG.enable [31:31] RW (R640). -/
def F.PWR_IDLE_CFG_enable : Fld := ⟨Reg.PWR_IDLE_CFG, 31, 31⟩

/-- PWR.IDLE_CFG.idle_us [15:0] RW (R640). -/
def F.PWR_IDLE_CFG_idle_us : Fld := ⟨Reg.PWR_IDLE_CFG, 15, 0⟩

/-- PWR.VOTE_CMD.go [31:31] W1S (R640). -/
def F.PWR_VOTE_CMD_go : Fld := ⟨Reg.PWR_VOTE_CMD, 31, 31⟩

/-- PWR.VOTE_CMD.state [27:26] RW (R640). -/
def F.PWR_VOTE_CMD_state : Fld := ⟨Reg.PWR_VOTE_CMD, 27, 26⟩

/-- PWR.VOTE_CMD.result [23:20] RO (R640). -/
def F.PWR_VOTE_CMD_result : Fld := ⟨Reg.PWR_VOTE_CMD, 23, 20⟩

/-- PWR.VOTE_CMD.domain [8:0] RW (R640). -/
def F.PWR_VOTE_CMD_domain : Fld := ⟨Reg.PWR_VOTE_CMD, 8, 0⟩

/-- PWR.DOMAIN_STATUS.state [31:29] RO (R641). -/
def F.PWR_DOMAIN_STATUS_state : Fld := ⟨Reg.PWR_DOMAIN_STATUS, 31, 29⟩

/-- PWR.DOMAIN_STATUS.resolved [28:27] RO (R641). -/
def F.PWR_DOMAIN_STATUS_resolved : Fld := ⟨Reg.PWR_DOMAIN_STATUS, 28, 27⟩

/-- PWR.DOMAIN_STATUS.start_vote [26:26] RO (R641). -/
def F.PWR_DOMAIN_STATUS_start_vote : Fld := ⟨Reg.PWR_DOMAIN_STATUS, 26, 26⟩

/-- PWR.DOMAIN_STATUS.test_vote [25:25] RO (R641). -/
def F.PWR_DOMAIN_STATUS_test_vote : Fld := ⟨Reg.PWR_DOMAIN_STATUS, 25, 25⟩

/-- PWR.DOMAIN_STATUS.recovery_vote [24:24] RO (R641). -/
def F.PWR_DOMAIN_STATUS_recovery_vote : Fld := ⟨Reg.PWR_DOMAIN_STATUS, 24, 24⟩

/-- PWR.DOMAIN_STATUS.tenants_on [23:16] RO (R641). -/
def F.PWR_DOMAIN_STATUS_tenants_on : Fld := ⟨Reg.PWR_DOMAIN_STATUS, 23, 16⟩

/-- PWR.DOMAIN_STATUS.tenants_ret [15:8] RO (R641). -/
def F.PWR_DOMAIN_STATUS_tenants_ret : Fld := ⟨Reg.PWR_DOMAIN_STATUS, 15, 8⟩

/-- PWR.DOMAIN_STATUS.deferred [2:2] RO (R641). -/
def F.PWR_DOMAIN_STATUS_deferred : Fld := ⟨Reg.PWR_DOMAIN_STATUS, 2, 2⟩

/-- PWR.DOMAIN_STATUS.owner [1:0] RO (R641). -/
def F.PWR_DOMAIN_STATUS_owner : Fld := ⟨Reg.PWR_DOMAIN_STATUS, 1, 0⟩

/-- PWR.SUPPLY_STATUS.holdup_degraded [11:11] RO (R51). -/
def F.PWR_SUPPLY_STATUS_holdup_degraded : Fld := ⟨Reg.PWR_SUPPLY_STATUS, 11, 11⟩

/-- PWR.SUPPLY_STATUS.thermal_trip_last [10:10] W1C (R51). -/
def F.PWR_SUPPLY_STATUS_thermal_trip_last : Fld := ⟨Reg.PWR_SUPPLY_STATUS, 10, 10⟩

/-- PWR.SUPPLY_STATUS.thermal_warn [9:9] RO (R51). -/
def F.PWR_SUPPLY_STATUS_thermal_warn : Fld := ⟨Reg.PWR_SUPPLY_STATUS, 9, 9⟩

/-- PWR.SUPPLY_STATUS.thermal_warn_seen [8:8] W1C (R51). -/
def F.PWR_SUPPLY_STATUS_thermal_warn_seen : Fld := ⟨Reg.PWR_SUPPLY_STATUS, 8, 8⟩

/-- PWR.SUPPLY_STATUS.powerfail_last [7:7] W1C (R51). -/
def F.PWR_SUPPLY_STATUS_powerfail_last : Fld := ⟨Reg.PWR_SUPPLY_STATUS, 7, 7⟩

/-- PWR.SUPPLY_STATUS.vin_ov_seen [6:6] W1C (R51). -/
def F.PWR_SUPPLY_STATUS_vin_ov_seen : Fld := ⟨Reg.PWR_SUPPLY_STATUS, 6, 6⟩

/-- PWR.SUPPLY_STATUS.vin_uv_seen [5:5] W1C (R51). -/
def F.PWR_SUPPLY_STATUS_vin_uv_seen : Fld := ⟨Reg.PWR_SUPPLY_STATUS, 5, 5⟩

/-- PWR.SUPPLY_STATUS.pwrfail_n_level [4:4] RO (R51). -/
def F.PWR_SUPPLY_STATUS_pwrfail_n_level : Fld := ⟨Reg.PWR_SUPPLY_STATUS, 4, 4⟩

/-- PWR.SUPPLY_STATUS.vaux_ok [3:3] RO (R51). -/
def F.PWR_SUPPLY_STATUS_vaux_ok : Fld := ⟨Reg.PWR_SUPPLY_STATUS, 3, 3⟩

/-- PWR.SUPPLY_STATUS.vin_ok [2:2] RO (R51). -/
def F.PWR_SUPPLY_STATUS_vin_ok : Fld := ⟨Reg.PWR_SUPPLY_STATUS, 2, 2⟩

/-- PWR.RAIL_STATUS.load_pct [23:16] RO (R52). -/
def F.PWR_RAIL_STATUS_load_pct : Fld := ⟨Reg.PWR_RAIL_STATUS, 23, 16⟩

/-- PWR.RAIL_STATUS.phases_total [15:8] RO (R52). -/
def F.PWR_RAIL_STATUS_phases_total : Fld := ⟨Reg.PWR_RAIL_STATUS, 15, 8⟩

/-- PWR.RAIL_STATUS.phases_failed [7:4] RO (R52). -/
def F.PWR_RAIL_STATUS_phases_failed : Fld := ⟨Reg.PWR_RAIL_STATUS, 7, 4⟩

/-- PWR.RAIL_STATUS.current_capped [3:3] RO (R52). -/
def F.PWR_RAIL_STATUS_current_capped : Fld := ⟨Reg.PWR_RAIL_STATUS, 3, 3⟩

/-- PWR.RAIL_STATUS.spare_in_use [2:2] RO (R52). -/
def F.PWR_RAIL_STATUS_spare_in_use : Fld := ⟨Reg.PWR_RAIL_STATUS, 2, 2⟩

/-- PWR.RAIL_STATUS.fault_seen [1:1] W1C (R52). -/
def F.PWR_RAIL_STATUS_fault_seen : Fld := ⟨Reg.PWR_RAIL_STATUS, 1, 1⟩

/-- PWR.RAIL_STATUS.in_regulation [0:0] RO (R52). -/
def F.PWR_RAIL_STATUS_in_regulation : Fld := ⟨Reg.PWR_RAIL_STATUS, 0, 0⟩

/-- BOOT.START_STATUS.outcome [27:24] RO (R113). -/
def F.BOOT_START_STATUS_outcome : Fld := ⟨Reg.BOOT_START_STATUS, 27, 24⟩

/-- BOOT.START_STATUS.step [20:16] RO (R113). -/
def F.BOOT_START_STATUS_step : Fld := ⟨Reg.BOOT_START_STATUS, 20, 16⟩

/-- BOOT.START_STATUS.attempt [15:8] RO (R113). -/
def F.BOOT_START_STATUS_attempt : Fld := ⟨Reg.BOOT_START_STATUS, 15, 8⟩

/-- BOOT.START_STATUS.cause [7:4] RO (R113). -/
def F.BOOT_START_STATUS_cause : Fld := ⟨Reg.BOOT_START_STATUS, 7, 4⟩

/-- BOOT.START_STATUS.ref_fallback [3:3] RO (R113). -/
def F.BOOT_START_STATUS_ref_fallback : Fld := ⟨Reg.BOOT_START_STATUS, 3, 3⟩

/-- BOOT.START_STATUS.image_alt [2:2] RO (R113). -/
def F.BOOT_START_STATUS_image_alt : Fld := ⟨Reg.BOOT_START_STATUS, 2, 2⟩

/-- BOOT.START_STATUS.full_training [1:1] RO (R113). -/
def F.BOOT_START_STATUS_full_training : Fld := ⟨Reg.BOOT_START_STATUS, 1, 1⟩

/-- BOOT.CTRL.restart_key [31:16] WO (R114). -/
def F.BOOT_CTRL_restart_key : Fld := ⟨Reg.BOOT_CTRL, 31, 16⟩

/-- BOOT.CTRL.commit_rollback [7:7] W1S (R114). -/
def F.BOOT_CTRL_commit_rollback : Fld := ⟨Reg.BOOT_CTRL, 7, 7⟩

/-- BOOT.CTRL.clear_learned [6:6] W1S (R114). -/
def F.BOOT_CTRL_clear_learned : Fld := ⟨Reg.BOOT_CTRL, 6, 6⟩

/-- BOOT.CTRL.restart [3:3] W1S (R114). -/
def F.BOOT_CTRL_restart : Fld := ⟨Reg.BOOT_CTRL, 3, 3⟩

/-- BOOT.EVENTS.rollback_refused [4:4] W1C (R115). -/
def F.BOOT_EVENTS_rollback_refused : Fld := ⟨Reg.BOOT_EVENTS, 4, 4⟩

/-- BOOT.EVENTS.rollback_committed [3:3] W1C (R115). -/
def F.BOOT_EVENTS_rollback_committed : Fld := ⟨Reg.BOOT_EVENTS, 3, 3⟩

/-- BOOT.EVENTS.slot_written [2:2] W1C (R115). -/
def F.BOOT_EVENTS_slot_written : Fld := ⟨Reg.BOOT_EVENTS, 2, 2⟩

/-- BOOT.EVENTS.dir_repaired [1:1] W1C (R115). -/
def F.BOOT_EVENTS_dir_repaired : Fld := ⟨Reg.BOOT_EVENTS, 1, 1⟩

/-- BOOT.EVENTS.restart_refused [0:0] W1C (R115). -/
def F.BOOT_EVENTS_restart_refused : Fld := ⟨Reg.BOOT_EVENTS, 0, 0⟩

/-- BOOT.IMAGE_SEL.start_source [5:4] RW (R116). -/
def F.BOOT_IMAGE_SEL_start_source : Fld := ⟨Reg.BOOT_IMAGE_SEL, 5, 4⟩

/-- BOOT.IMAGE_SEL.fab_pref [3:2] RW (R116). -/
def F.BOOT_IMAGE_SEL_fab_pref : Fld := ⟨Reg.BOOT_IMAGE_SEL, 3, 2⟩

/-- BOOT.IMAGE_SEL.fw_pref [1:0] RW (R116). -/
def F.BOOT_IMAGE_SEL_fw_pref : Fld := ⟨Reg.BOOT_IMAGE_SEL, 1, 0⟩

/-- BOOT.SLOT_STATUS.fab_b [19:16] RO (R117). -/
def F.BOOT_SLOT_STATUS_fab_b : Fld := ⟨Reg.BOOT_SLOT_STATUS, 19, 16⟩

/-- BOOT.SLOT_STATUS.fab_a [15:12] RO (R117). -/
def F.BOOT_SLOT_STATUS_fab_a : Fld := ⟨Reg.BOOT_SLOT_STATUS, 15, 12⟩

/-- BOOT.SLOT_STATUS.fw_b [11:8] RO (R117). -/
def F.BOOT_SLOT_STATUS_fw_b : Fld := ⟨Reg.BOOT_SLOT_STATUS, 11, 8⟩

/-- BOOT.SLOT_STATUS.fw_a [7:4] RO (R117). -/
def F.BOOT_SLOT_STATUS_fw_a : Fld := ⟨Reg.BOOT_SLOT_STATUS, 7, 4⟩

/-- BOOT.SLOT_STATUS.fw_golden [3:0] RO (R117). -/
def F.BOOT_SLOT_STATUS_fw_golden : Fld := ⟨Reg.BOOT_SLOT_STATUS, 3, 0⟩

/-- BOOT.ROLLBACK_MIN.value [6:0] RO (R112). -/
def F.BOOT_ROLLBACK_MIN_value : Fld := ⟨Reg.BOOT_ROLLBACK_MIN, 6, 0⟩

/-- BOOT.OUT_OF_SERVICE.any_lane [31:31] RO (R119). -/
def F.BOOT_OUT_OF_SERVICE_any_lane : Fld := ⟨Reg.BOOT_OUT_OF_SERVICE, 31, 31⟩

/-- BOOT.OUT_OF_SERVICE.cxl [30:28] RO (R119). -/
def F.BOOT_OUT_OF_SERVICE_cxl : Fld := ⟨Reg.BOOT_OUT_OF_SERVICE, 30, 28⟩

/-- BOOT.OUT_OF_SERVICE.ddr [27:12] RO (R119). -/
def F.BOOT_OUT_OF_SERVICE_ddr : Fld := ⟨Reg.BOOT_OUT_OF_SERVICE, 27, 12⟩

/-- BOOT.OUT_OF_SERVICE.hbm [11:0] RO (R119). -/
def F.BOOT_OUT_OF_SERVICE_hbm : Fld := ⟨Reg.BOOT_OUT_OF_SERVICE, 11, 0⟩

/-- BOOT.EARLY_WRITES.value [31:0] RC (R112). -/
def F.BOOT_EARLY_WRITES_value : Fld := ⟨Reg.BOOT_EARLY_WRITES, 31, 0⟩

/-- BOOT.STEP_STATUS.outcome [31:24] RO (R118). -/
def F.BOOT_STEP_STATUS_outcome : Fld := ⟨Reg.BOOT_STEP_STATUS, 31, 24⟩

/-- BOOT.STEP_STATUS.cause [23:16] RO (R118). -/
def F.BOOT_STEP_STATUS_cause : Fld := ⟨Reg.BOOT_STEP_STATUS, 23, 16⟩

/-- BOOT.STEP_STATUS.method [15:8] RO (R118). -/
def F.BOOT_STEP_STATUS_method : Fld := ⟨Reg.BOOT_STEP_STATUS, 15, 8⟩

/-- BOOT.STEP_TIME.value [31:0] RO (R112). -/
def F.BOOT_STEP_TIME_value : Fld := ⟨Reg.BOOT_STEP_TIME, 31, 0⟩

/-- RAS.STATUS.mgmt_state [31:28] RO (R616). -/
def F.RAS_STATUS_mgmt_state : Fld := ⟨Reg.RAS_STATUS, 31, 28⟩

/-- RAS.STATUS.mgmt_core [27:27] RO (R616). -/
def F.RAS_STATUS_mgmt_core : Fld := ⟨Reg.RAS_STATUS, 27, 27⟩

/-- RAS.STATUS.commit_ok_last [26:26] RO (R616). -/
def F.RAS_STATUS_commit_ok_last : Fld := ⟨Reg.RAS_STATUS, 26, 26⟩

/-- RAS.STATUS.class_seen [25:16] RO (R616). -/
def F.RAS_STATUS_class_seen : Fld := ⟨Reg.RAS_STATUS, 25, 16⟩

/-- RAS.EVENTS.log_suppressed [7:7] W1C (R617). -/
def F.RAS_EVENTS_log_suppressed : Fld := ⟨Reg.RAS_EVENTS, 7, 7⟩

/-- RAS.EVENTS.log_lost [6:6] W1C (R617). -/
def F.RAS_EVENTS_log_lost : Fld := ⟨Reg.RAS_EVENTS, 6, 6⟩

/-- RAS.EVENTS.seal_rebuilt [5:5] W1C (R617). -/
def F.RAS_EVENTS_seal_rebuilt : Fld := ⟨Reg.RAS_EVENTS, 5, 5⟩

/-- RAS.EVENTS.copy_differ [4:4] W1C (R617). -/
def F.RAS_EVENTS_copy_differ : Fld := ⟨Reg.RAS_EVENTS, 4, 4⟩

/-- RAS.EVENTS.mgmt_failed [3:3] W1C (R617). -/
def F.RAS_EVENTS_mgmt_failed : Fld := ⟨Reg.RAS_EVENTS, 3, 3⟩

/-- RAS.EVENTS.mgmt_failover [2:2] W1C (R617). -/
def F.RAS_EVENTS_mgmt_failover : Fld := ⟨Reg.RAS_EVENTS, 2, 2⟩

/-- RAS.EVENTS.second_fault [1:1] W1C (R617). -/
def F.RAS_EVENTS_second_fault : Fld := ⟨Reg.RAS_EVENTS, 1, 1⟩

/-- RAS.EVENTS.fault [0:0] W1C (R617). -/
def F.RAS_EVENTS_fault : Fld := ⟨Reg.RAS_EVENTS, 0, 0⟩

/-- RAS.LOG_LOST.value [31:0] RC (R615). -/
def F.RAS_LOG_LOST_value : Fld := ⟨Reg.RAS_LOG_LOST, 31, 0⟩

/-- RAS.COPY_DIFFERS.value [31:0] RC (R615). -/
def F.RAS_COPY_DIFFERS_value : Fld := ⟨Reg.RAS_COPY_DIFFERS, 31, 0⟩

/-- RAS.LOG_NEWEST_LO.value [31:0] RO (R615). -/
def F.RAS_LOG_NEWEST_LO_value : Fld := ⟨Reg.RAS_LOG_NEWEST_LO, 31, 0⟩

/-- RAS.LOG_NEWEST_HI.value [31:0] RO (R615). -/
def F.RAS_LOG_NEWEST_HI_value : Fld := ⟨Reg.RAS_LOG_NEWEST_HI, 31, 0⟩

/-- RAS.LOG_INDEX_LO.value [31:0] RW (R615). -/
def F.RAS_LOG_INDEX_LO_value : Fld := ⟨Reg.RAS_LOG_INDEX_LO, 31, 0⟩

/-- RAS.LOG_INDEX_HI.value [31:0] RW (R615). -/
def F.RAS_LOG_INDEX_HI_value : Fld := ⟨Reg.RAS_LOG_INDEX_HI, 31, 0⟩

/-- RAS.FAULT_COUNT.value [31:0] RC (R615). -/
def F.RAS_FAULT_COUNT_value : Fld := ⟨Reg.RAS_FAULT_COUNT, 31, 0⟩

/-- RAS.LOG_DATA.value [31:0] RO (R615). -/
def F.RAS_LOG_DATA_value : Fld := ⟨Reg.RAS_LOG_DATA, 31, 0⟩

/-- OBS.STATUS.pending [31:31] RO (R678). -/
def F.OBS_STATUS_pending : Fld := ⟨Reg.OBS_STATUS, 31, 31⟩

/-- OBS.STATUS.writing [30:30] RO (R678). -/
def F.OBS_STATUS_writing : Fld := ⟨Reg.OBS_STATUS, 30, 30⟩

/-- OBS.STATUS.shadow_valid [29:29] RO (R678). -/
def F.OBS_STATUS_shadow_valid : Fld := ⟨Reg.OBS_STATUS, 29, 29⟩

/-- OBS.STATUS.last_late [28:28] RO (R678). -/
def F.OBS_STATUS_last_late : Fld := ⟨Reg.OBS_STATUS, 28, 28⟩

/-- OBS.STATUS.last_stepped [27:27] RO (R678). -/
def F.OBS_STATUS_last_stepped : Fld := ⟨Reg.OBS_STATUS, 27, 27⟩

/-- OBS.STATUS.last_ring [26:26] RO (R678). -/
def F.OBS_STATUS_last_ring : Fld := ⟨Reg.OBS_STATUS, 26, 26⟩

/-- OBS.EVENTS.ring_skipped [6:6] W1C (R678). -/
def F.OBS_EVENTS_ring_skipped : Fld := ⟨Reg.OBS_EVENTS, 6, 6⟩

/-- OBS.EVENTS.ribbon_lost [5:5] W1C (R678). -/
def F.OBS_EVENTS_ribbon_lost : Fld := ⟨Reg.OBS_EVENTS, 5, 5⟩

/-- OBS.EVENTS.wr_refused [4:4] W1C (R678). -/
def F.OBS_EVENTS_wr_refused : Fld := ⟨Reg.OBS_EVENTS, 4, 4⟩

/-- OBS.EVENTS.late [3:3] W1C (R678). -/
def F.OBS_EVENTS_late : Fld := ⟨Reg.OBS_EVENTS, 3, 3⟩

/-- OBS.EVENTS.not_written [2:2] W1C (R678). -/
def F.OBS_EVENTS_not_written : Fld := ⟨Reg.OBS_EVENTS, 2, 2⟩

/-- OBS.EVENTS.written [1:1] W1C (R678). -/
def F.OBS_EVENTS_written : Fld := ⟨Reg.OBS_EVENTS, 1, 1⟩

/-- OBS.EVENTS.taken [0:0] W1C (R678). -/
def F.OBS_EVENTS_taken : Fld := ⟨Reg.OBS_EVENTS, 0, 0⟩

/-- OBS.FOL_CFG.stream [9:0] RW (R679). -/
def F.OBS_FOL_CFG_stream : Fld := ⟨Reg.OBS_FOL_CFG, 9, 0⟩

/-- OBS.FOL_CMD.go [31:31] W1S (R679). -/
def F.OBS_FOL_CMD_go : Fld := ⟨Reg.OBS_FOL_CMD, 31, 31⟩

/-- OBS.FOL_CMD.op [30:30] RW (R679). -/
def F.OBS_FOL_CMD_op : Fld := ⟨Reg.OBS_FOL_CMD, 30, 30⟩

/-- OBS.FOL_CMD.ring [29:29] RW (R679). -/
def F.OBS_FOL_CMD_ring : Fld := ⟨Reg.OBS_FOL_CMD, 29, 29⟩

/-- OBS.FOL_CMD.result [23:20] RO (R679). -/
def F.OBS_FOL_CMD_result : Fld := ⟨Reg.OBS_FOL_CMD, 23, 20⟩

/-- OBS.FOL_AT_LO.value [31:0] RW (R677). -/
def F.OBS_FOL_AT_LO_value : Fld := ⟨Reg.OBS_FOL_AT_LO, 31, 0⟩

/-- OBS.FOL_AT_HI.value [31:0] RW (R677). -/
def F.OBS_FOL_AT_HI_value : Fld := ⟨Reg.OBS_FOL_AT_HI, 31, 0⟩

/-- OBS.FOL_TAKEN_LO.value [31:0] RO (R677). -/
def F.OBS_FOL_TAKEN_LO_value : Fld := ⟨Reg.OBS_FOL_TAKEN_LO, 31, 0⟩

/-- OBS.FOL_TAKEN_HI.value [31:0] RO (R677). -/
def F.OBS_FOL_TAKEN_HI_value : Fld := ⟨Reg.OBS_FOL_TAKEN_HI, 31, 0⟩

/-- OBS.FOL_NUMBER.value [31:0] RO (R677). -/
def F.OBS_FOL_NUMBER_value : Fld := ⟨Reg.OBS_FOL_NUMBER, 31, 0⟩

/-- OBS.FOL_ENTRIES.value [31:0] RO (R677). -/
def F.OBS_FOL_ENTRIES_value : Fld := ⟨Reg.OBS_FOL_ENTRIES, 31, 0⟩

/-- OBS.RIBBON_CFG.enable [31:31] RW (R679). -/
def F.OBS_RIBBON_CFG_enable : Fld := ⟨Reg.OBS_RIBBON_CFG, 31, 31⟩

/-- OBS.RIBBON_CFG.stream [25:16] RW (R679). -/
def F.OBS_RIBBON_CFG_stream : Fld := ⟨Reg.OBS_RIBBON_CFG, 25, 16⟩

/-- OBS.RIBBON_CFG.ribbon_groups [15:0] RW (R679). -/
def F.OBS_RIBBON_CFG_ribbon_groups : Fld := ⟨Reg.OBS_RIBBON_CFG, 15, 0⟩

/-- OBS.SHD_INDEX.entry [19:0] RW (R677). -/
def F.OBS_SHD_INDEX_entry : Fld := ⟨Reg.OBS_SHD_INDEX, 19, 0⟩

/-- OBS.SHD_OFFSET.value [31:0] RO (R677). -/
def F.OBS_SHD_OFFSET_value : Fld := ⟨Reg.OBS_SHD_OFFSET, 31, 0⟩

/-- OBS.SHD_VALUE_LO.value [31:0] RO (R677). -/
def F.OBS_SHD_VALUE_LO_value : Fld := ⟨Reg.OBS_SHD_VALUE_LO, 31, 0⟩

/-- OBS.SHD_VALUE_HI.value [31:0] RO (R677). -/
def F.OBS_SHD_VALUE_HI_value : Fld := ⟨Reg.OBS_SHD_VALUE_HI, 31, 0⟩

/-- OBS.RIBBONS_LOST.value [31:0] RC (R677). -/
def F.OBS_RIBBONS_LOST_value : Fld := ⟨Reg.OBS_RIBBONS_LOST, 31, 0⟩

/-- GIO.STATUS.adc_running [31:31] RO (R700). -/
def F.GIO_STATUS_adc_running : Fld := ⟨Reg.GIO_STATUS, 31, 31⟩

/-- GIO.STATUS.contention_pin [7:0] RO (R700). -/
def F.GIO_STATUS_contention_pin : Fld := ⟨Reg.GIO_STATUS, 7, 0⟩

/-- GIO.EVENTS.smb_error [6:6] W1C (R700). -/
def F.GIO_EVENTS_smb_error : Fld := ⟨Reg.GIO_EVENTS, 6, 6⟩

/-- GIO.EVENTS.sensor_failed [5:5] W1C (R700). -/
def F.GIO_EVENTS_sensor_failed : Fld := ⟨Reg.GIO_EVENTS, 5, 5⟩

/-- GIO.EVENTS.temp_alert [4:4] W1C (R700). -/
def F.GIO_EVENTS_temp_alert : Fld := ⟨Reg.GIO_EVENTS, 4, 4⟩

/-- GIO.EVENTS.adc_pass [3:3] W1C (R700). -/
def F.GIO_EVENTS_adc_pass : Fld := ⟨Reg.GIO_EVENTS, 3, 3⟩

/-- GIO.EVENTS.load_done [2:2] W1C (R700). -/
def F.GIO_EVENTS_load_done : Fld := ⟨Reg.GIO_EVENTS, 2, 2⟩

/-- GIO.EVENTS.contention [1:1] W1C (R700). -/
def F.GIO_EVENTS_contention : Fld := ⟨Reg.GIO_EVENTS, 1, 1⟩

/-- GIO.EVENTS.wr_refused [0:0] W1C (R700). -/
def F.GIO_EVENTS_wr_refused : Fld := ⟨Reg.GIO_EVENTS, 0, 0⟩

/-- GIO.SMB_CFG.pec_en [31:31] RW (R697). -/
def F.GIO_SMB_CFG_pec_en : Fld := ⟨Reg.GIO_SMB_CFG, 31, 31⟩

/-- GIO.SMB_CFG.address [6:0] RW (R697). -/
def F.GIO_SMB_CFG_address : Fld := ⟨Reg.GIO_SMB_CFG, 6, 0⟩

/-- GIO.ADC_CTRL.enable [31:31] RW (R697). -/
def F.GIO_ADC_CTRL_enable : Fld := ⟨Reg.GIO_ADC_CTRL, 31, 31⟩

/-- GIO.ADC_CTRL.avg [30:28] RW (R697). -/
def F.GIO_ADC_CTRL_avg : Fld := ⟨Reg.GIO_ADC_CTRL, 30, 28⟩

/-- GIO.ADC_CTRL.list_len_m1 [20:16] RW (R697). -/
def F.GIO_ADC_CTRL_list_len_m1 : Fld := ⟨Reg.GIO_ADC_CTRL, 20, 16⟩

/-- GIO.LOAD_CMD.go [31:31] W1S (R699). -/
def F.GIO_LOAD_CMD_go : Fld := ⟨Reg.GIO_LOAD_CMD, 31, 31⟩

/-- GIO.LOAD_CMD.current [30:29] RW (R699). -/
def F.GIO_LOAD_CMD_current : Fld := ⟨Reg.GIO_LOAD_CMD, 30, 29⟩

/-- GIO.LOAD_CMD.settle_us [27:20] RW (R699). -/
def F.GIO_LOAD_CMD_settle_us : Fld := ⟨Reg.GIO_LOAD_CMD, 27, 20⟩

/-- GIO.LOAD_CMD.pin [7:0] RW (R699). -/
def F.GIO_LOAD_CMD_pin : Fld := ⟨Reg.GIO_LOAD_CMD, 7, 0⟩

/-- GIO.LOAD_RESULT.running [31:31] RO (R699). -/
def F.GIO_LOAD_RESULT_running : Fld := ⟨Reg.GIO_LOAD_RESULT, 31, 31⟩

/-- GIO.LOAD_RESULT.result [30:29] RO (R699). -/
def F.GIO_LOAD_RESULT_result : Fld := ⟨Reg.GIO_LOAD_RESULT, 30, 29⟩

/-- GIO.LOAD_RESULT.v_src [27:14] RO (R699). -/
def F.GIO_LOAD_RESULT_v_src : Fld := ⟨Reg.GIO_LOAD_RESULT, 27, 14⟩

/-- GIO.LOAD_RESULT.v_snk [13:0] RO (R699). -/
def F.GIO_LOAD_RESULT_v_snk : Fld := ⟨Reg.GIO_LOAD_RESULT, 13, 0⟩

/-- GIO.TEMP_MAX.sensor [31:26] RO (R698). -/
def F.GIO_TEMP_MAX_sensor : Fld := ⟨Reg.GIO_TEMP_MAX, 31, 26⟩

/-- GIO.TEMP_MAX.value [15:0] RO (R698). -/
def F.GIO_TEMP_MAX_value : Fld := ⟨Reg.GIO_TEMP_MAX, 15, 0⟩

/-- GIO.TEMP_ALERT.enable [31:31] RW (R698). -/
def F.GIO_TEMP_ALERT_enable : Fld := ⟨Reg.GIO_TEMP_ALERT, 31, 31⟩

/-- GIO.TEMP_ALERT.threshold [15:0] RW (R698). -/
def F.GIO_TEMP_ALERT_threshold : Fld := ⟨Reg.GIO_TEMP_ALERT, 15, 0⟩

/-- GIO.BANK_CFG.voltage [2:0] RW (R697). -/
def F.GIO_BANK_CFG_voltage : Fld := ⟨Reg.GIO_BANK_CFG, 2, 0⟩

/-- GIO.IN.value [31:0] RO (R695). -/
def F.GIO_IN_value : Fld := ⟨Reg.GIO_IN, 31, 0⟩

/-- GIO.OUT.value [31:0] RW (R695). -/
def F.GIO_OUT_value : Fld := ⟨Reg.GIO_OUT, 31, 0⟩

/-- GIO.ADC_LIST.channel [7:0] RW (R695). -/
def F.GIO_ADC_LIST_channel : Fld := ⟨Reg.GIO_ADC_LIST, 7, 0⟩

/-- GIO.ADC_RESULT.valid [31:31] RO (R698). -/
def F.GIO_ADC_RESULT_valid : Fld := ⟨Reg.GIO_ADC_RESULT, 31, 31⟩

/-- GIO.ADC_RESULT.clipped [30:30] RO (R698). -/
def F.GIO_ADC_RESULT_clipped : Fld := ⟨Reg.GIO_ADC_RESULT, 30, 30⟩

/-- GIO.ADC_RESULT.code [13:0] RO (R698). -/
def F.GIO_ADC_RESULT_code : Fld := ⟨Reg.GIO_ADC_RESULT, 13, 0⟩

/-- GIO.TEMP.valid [31:31] RO (R698). -/
def F.GIO_TEMP_valid : Fld := ⟨Reg.GIO_TEMP, 31, 31⟩

/-- GIO.TEMP.degraded [30:30] RO (R698). -/
def F.GIO_TEMP_degraded : Fld := ⟨Reg.GIO_TEMP, 30, 30⟩

/-- GIO.TEMP.value [15:0] RO (R698). -/
def F.GIO_TEMP_value : Fld := ⟨Reg.GIO_TEMP, 15, 0⟩

/-- GIO.PIN_CFG.function [31:28] RW (R696). -/
def F.GIO_PIN_CFG_function : Fld := ⟨Reg.GIO_PIN_CFG, 31, 28⟩

/-- GIO.PIN_CFG.clk_index [27:26] RW (R696). -/
def F.GIO_PIN_CFG_clk_index : Fld := ⟨Reg.GIO_PIN_CFG, 27, 26⟩

/-- GIO.PIN_CFG.oe [25:25] RW (R696). -/
def F.GIO_PIN_CFG_oe : Fld := ⟨Reg.GIO_PIN_CFG, 25, 25⟩

/-- GIO.PIN_CFG.open_drain [24:24] RW (R696). -/
def F.GIO_PIN_CFG_open_drain : Fld := ⟨Reg.GIO_PIN_CFG, 24, 24⟩

/-- GIO.PIN_CFG.drive [23:22] RW (R696). -/
def F.GIO_PIN_CFG_drive : Fld := ⟨Reg.GIO_PIN_CFG, 23, 22⟩

/-- GIO.PIN_CFG.slew [21:21] RW (R696). -/
def F.GIO_PIN_CFG_slew : Fld := ⟨Reg.GIO_PIN_CFG, 21, 21⟩

/-- GIO.PIN_CFG.pull [20:19] RW (R696). -/
def F.GIO_PIN_CFG_pull : Fld := ⟨Reg.GIO_PIN_CFG, 20, 19⟩

/-- GIO.PIN_CFG.hyst [18:17] RW (R696). -/
def F.GIO_PIN_CFG_hyst : Fld := ⟨Reg.GIO_PIN_CFG, 18, 17⟩

/-- GIO.PIN_CFG.thr_mode [16:16] RW (R696). -/
def F.GIO_PIN_CFG_thr_mode : Fld := ⟨Reg.GIO_PIN_CFG, 16, 16⟩

/-- GIO.PIN_CFG.thr [15:8] RW (R696). -/
def F.GIO_PIN_CFG_thr : Fld := ⟨Reg.GIO_PIN_CFG, 15, 8⟩

/-- GIO.TRIG_PIN.enable [31:31] RW (R288). -/
def F.GIO_TRIG_PIN_enable : Fld := ⟨Reg.GIO_TRIG_PIN, 31, 31⟩

/-- GIO.TRIG_PIN.dir [30:30] RW (R288). -/
def F.GIO_TRIG_PIN_dir : Fld := ⟨Reg.GIO_TRIG_PIN, 30, 30⟩

/-- GIO.TRIG_PIN.edge [29:28] RW (R288). -/
def F.GIO_TRIG_PIN_edge : Fld := ⟨Reg.GIO_TRIG_PIN, 29, 28⟩

/-- GIO.TRIG_PIN.line [27:23] RW (R288). -/
def F.GIO_TRIG_PIN_line : Fld := ⟨Reg.GIO_TRIG_PIN, 27, 23⟩

/-- GIO.TRIG_PIN.width_ns [15:8] RW (R288). -/
def F.GIO_TRIG_PIN_width_ns : Fld := ⟨Reg.GIO_TRIG_PIN, 15, 8⟩

/-- GIO.TRIG_PIN.delay_ns [7:0] RW (R288). -/
def F.GIO_TRIG_PIN_delay_ns : Fld := ⟨Reg.GIO_TRIG_PIN, 7, 0⟩

/-- GIO.TLINE.pulse [31:31] W1S (R288). -/
def F.GIO_TLINE_pulse : Fld := ⟨Reg.GIO_TLINE, 31, 31⟩

/-- GIO.TLINE.holder [23:16] RO (R288). -/
def F.GIO_TLINE_holder : Fld := ⟨Reg.GIO_TLINE, 23, 16⟩

/-- GIO.TLINE.event_count [15:0] RO (R288). -/
def F.GIO_TLINE_event_count : Fld := ⟨Reg.GIO_TLINE, 15, 0⟩

/-- GIO.TLINE_MERGES.value [31:0] RC (R288). -/
def F.GIO_TLINE_MERGES_value : Fld := ⟨Reg.GIO_TLINE_MERGES, 31, 0⟩

/-- DBG.STATUS.session [31:30] RO (R660). -/
def F.DBG_STATUS_session : Fld := ⟨Reg.DBG_STATUS, 31, 30⟩

/-- DBG.STATUS.scope [29:28] RO (R660). -/
def F.DBG_STATUS_scope : Fld := ⟨Reg.DBG_STATUS, 29, 28⟩

/-- DBG.STATUS.tenant [27:20] RO (R660). -/
def F.DBG_STATUS_tenant : Fld := ⟨Reg.DBG_STATUS, 27, 20⟩

/-- DBG.STATUS.emulating [19:19] RO (R660). -/
def F.DBG_STATUS_emulating : Fld := ⟨Reg.DBG_STATUS, 19, 19⟩

/-- DBG.CTRL.debug_disable [31:31] RWL (R660). -/
def F.DBG_CTRL_debug_disable : Fld := ⟨Reg.DBG_CTRL, 31, 31⟩

/-- DBG.CTRL.pwd_disable [30:30] RWL (R660). -/
def F.DBG_CTRL_pwd_disable : Fld := ⟨Reg.DBG_CTRL, 30, 30⟩

/-- DBG.CTRL.sleep_emulate [29:29] RWL (R660). -/
def F.DBG_CTRL_sleep_emulate : Fld := ⟨Reg.DBG_CTRL, 29, 29⟩

/-- DBG.CTRL.session_timeout [15:0] RW (R660). -/
def F.DBG_CTRL_session_timeout : Fld := ⟨Reg.DBG_CTRL, 15, 0⟩

/-- DBG.EVENTS.comp [12:8] RO (R663). -/
def F.DBG_EVENTS_comp : Fld := ⟨Reg.DBG_EVENTS, 12, 8⟩

/-- DBG.EVENTS.lockout [3:3] W1C (R663). -/
def F.DBG_EVENTS_lockout : Fld := ⟨Reg.DBG_EVENTS, 3, 3⟩

/-- DBG.EVENTS.session_ended [2:2] W1C (R663). -/
def F.DBG_EVENTS_session_ended : Fld := ⟨Reg.DBG_EVENTS, 2, 2⟩

/-- DBG.EVENTS.halt_event [1:1] W1C (R663). -/
def F.DBG_EVENTS_halt_event : Fld := ⟨Reg.DBG_EVENTS, 1, 1⟩

/-- DBG.EVENTS.comp_match [0:0] W1C (R663). -/
def F.DBG_EVENTS_comp_match : Fld := ⟨Reg.DBG_EVENTS, 0, 0⟩

/-- DBG.AUTH_CMD.op [31:29] RW (R661). -/
def F.DBG_AUTH_CMD_op : Fld := ⟨Reg.DBG_AUTH_CMD, 31, 29⟩

/-- DBG.AUTH_CMD.method [28:28] RW (R661). -/
def F.DBG_AUTH_CMD_method : Fld := ⟨Reg.DBG_AUTH_CMD, 28, 28⟩

/-- DBG.AUTH_CMD.scope [27:26] RW (R661). -/
def F.DBG_AUTH_CMD_scope : Fld := ⟨Reg.DBG_AUTH_CMD, 27, 26⟩

/-- DBG.AUTH_CMD.tenant [25:18] RW (R661). -/
def F.DBG_AUTH_CMD_tenant : Fld := ⟨Reg.DBG_AUTH_CMD, 25, 18⟩

/-- DBG.AUTH_CMD.result [17:14] RO (R661). -/
def F.DBG_AUTH_CMD_result : Fld := ⟨Reg.DBG_AUTH_CMD, 17, 14⟩

/-- DBG.HALT_CMD.go [31:31] W1S (R661). -/
def F.DBG_HALT_CMD_go : Fld := ⟨Reg.DBG_HALT_CMD, 31, 31⟩

/-- DBG.HALT_CMD.action [30:29] RW (R661). -/
def F.DBG_HALT_CMD_action : Fld := ⟨Reg.DBG_HALT_CMD, 30, 29⟩

/-- DBG.HALT_CMD.group [28:28] RW (R661). -/
def F.DBG_HALT_CMD_group : Fld := ⟨Reg.DBG_HALT_CMD, 28, 28⟩

/-- DBG.HALT_CMD.kind [27:26] RW (R661). -/
def F.DBG_HALT_CMD_kind : Fld := ⟨Reg.DBG_HALT_CMD, 27, 26⟩

/-- DBG.HALT_CMD.join_group [25:23] RW (R661). -/
def F.DBG_HALT_CMD_join_group : Fld := ⟨Reg.DBG_HALT_CMD, 25, 23⟩

/-- DBG.HALT_CMD.result [22:20] RO (R661). -/
def F.DBG_HALT_CMD_result : Fld := ⟨Reg.DBG_HALT_CMD, 22, 20⟩

/-- DBG.HALT_CMD.stopped [19:19] RO (R661). -/
def F.DBG_HALT_CMD_stopped : Fld := ⟨Reg.DBG_HALT_CMD, 19, 19⟩

/-- DBG.HALT_CMD.index [9:0] RW (R661). -/
def F.DBG_HALT_CMD_index : Fld := ⟨Reg.DBG_HALT_CMD, 9, 0⟩

/-- DBG.AUTH_FAILS.value [31:0] RC (R659). -/
def F.DBG_AUTH_FAILS_value : Fld := ⟨Reg.DBG_AUTH_FAILS, 31, 0⟩

/-- DBG.GROUP_CFG.in_en [31:31] RW (R662). -/
def F.DBG_GROUP_CFG_in_en : Fld := ⟨Reg.DBG_GROUP_CFG, 31, 31⟩

/-- DBG.GROUP_CFG.in_line [30:26] RW (R662). -/
def F.DBG_GROUP_CFG_in_line : Fld := ⟨Reg.DBG_GROUP_CFG, 30, 26⟩

/-- DBG.GROUP_CFG.out_en [25:25] RW (R662). -/
def F.DBG_GROUP_CFG_out_en : Fld := ⟨Reg.DBG_GROUP_CFG, 25, 25⟩

/-- DBG.GROUP_CFG.out_line [24:20] RW (R662). -/
def F.DBG_GROUP_CFG_out_line : Fld := ⟨Reg.DBG_GROUP_CFG, 24, 20⟩

/-- DBG.POWER_HOLD.enable [31:31] RW (R659). -/
def F.DBG_POWER_HOLD_enable : Fld := ⟨Reg.DBG_POWER_HOLD, 31, 31⟩

/-- DBG.POWER_HOLD.domain [8:0] RW (R659). -/
def F.DBG_POWER_HOLD_domain : Fld := ⟨Reg.DBG_POWER_HOLD, 8, 0⟩

/-- DBG.COMP_CFG.enable [31:31] RW (R662). -/
def F.DBG_COMP_CFG_enable : Fld := ⟨Reg.DBG_COMP_CFG, 31, 31⟩

/-- DBG.COMP_CFG.kind [30:28] RW (R662). -/
def F.DBG_COMP_CFG_kind : Fld := ⟨Reg.DBG_COMP_CFG, 30, 28⟩

/-- DBG.COMP_CFG.action [27:26] RW (R662). -/
def F.DBG_COMP_CFG_action : Fld := ⟨Reg.DBG_COMP_CFG, 27, 26⟩

/-- DBG.COMP_CFG.link [25:24] RW (R662). -/
def F.DBG_COMP_CFG_link : Fld := ⟨Reg.DBG_COMP_CFG, 25, 24⟩

/-- DBG.COMP_CFG.cluster [23:20] RW (R662). -/
def F.DBG_COMP_CFG_cluster : Fld := ⟨Reg.DBG_COMP_CFG, 23, 20⟩

/-- DBG.COMP_CFG.count_m1 [19:16] RW (R662). -/
def F.DBG_COMP_CFG_count_m1 : Fld := ⟨Reg.DBG_COMP_CFG, 19, 16⟩

/-- DBG.COMP_CFG.cores [15:0] RW (R662). -/
def F.DBG_COMP_CFG_cores : Fld := ⟨Reg.DBG_COMP_CFG, 15, 0⟩

/-- DBG.COMP_RANGE.high [31:16] RW (R659). -/
def F.DBG_COMP_RANGE_high : Fld := ⟨Reg.DBG_COMP_RANGE, 31, 16⟩

/-- DBG.COMP_RANGE.low [15:0] RW (R659). -/
def F.DBG_COMP_RANGE_low : Fld := ⟨Reg.DBG_COMP_RANGE, 15, 0⟩

/-- DBG.COMP_VALUE.mask [31:16] RW (R659). -/
def F.DBG_COMP_VALUE_mask : Fld := ⟨Reg.DBG_COMP_VALUE, 31, 16⟩

/-- DBG.COMP_VALUE.value [15:0] RW (R659). -/
def F.DBG_COMP_VALUE_value : Fld := ⟨Reg.DBG_COMP_VALUE, 15, 0⟩

/-- DBG.COMP_CTX.tenant_en [31:31] RW (R662). -/
def F.DBG_COMP_CTX_tenant_en : Fld := ⟨Reg.DBG_COMP_CTX, 31, 31⟩

/-- DBG.COMP_CTX.op_en [30:30] RW (R662). -/
def F.DBG_COMP_CTX_op_en : Fld := ⟨Reg.DBG_COMP_CTX, 30, 30⟩

/-- DBG.COMP_CTX.class_en [29:29] RW (R662). -/
def F.DBG_COMP_CTX_class_en : Fld := ⟨Reg.DBG_COMP_CTX, 29, 29⟩

/-- DBG.COMP_CTX.class [28:25] RW (R662). -/
def F.DBG_COMP_CTX_class : Fld := ⟨Reg.DBG_COMP_CTX, 28, 25⟩

/-- DBG.COMP_CTX.op [17:0] RW (R662). -/
def F.DBG_COMP_CTX_op : Fld := ⟨Reg.DBG_COMP_CTX, 17, 0⟩

/-- DBG.AUTH_DATA.value [31:0] RW (R659). -/
def F.DBG_AUTH_DATA_value : Fld := ⟨Reg.DBG_AUTH_DATA, 31, 0⟩

/-- DBG.PWD_TENANT.enable [31:31] RW (R659). -/
def F.DBG_PWD_TENANT_enable : Fld := ⟨Reg.DBG_PWD_TENANT, 31, 31⟩

/-- DBG.PWD_TENANT.tenant [7:0] RW (R659). -/
def F.DBG_PWD_TENANT_tenant : Fld := ⟨Reg.DBG_PWD_TENANT, 7, 0⟩

/-- DBG.PWD_DIGEST.value [31:0] WO (R659). -/
def F.DBG_PWD_DIGEST_value : Fld := ⟨Reg.DBG_PWD_DIGEST, 31, 0⟩

/-- SEC.CTRL.lock [31:31] W1S (R454). -/
def F.SEC_CTRL_lock : Fld := ⟨Reg.SEC_CTRL, 31, 31⟩

/-- SEC.CTRL.tm3080_compat [0:0] RWL (R454). -/
def F.SEC_CTRL_tm3080_compat : Fld := ⟨Reg.SEC_CTRL, 0, 0⟩

/-- SEC.STATUS.locked [31:31] RO (R455). -/
def F.SEC_STATUS_locked : Fld := ⟨Reg.SEC_STATUS, 31, 31⟩

/-- SEC.STATUS.ring_key_set [30:30] RO (R455). -/
def F.SEC_STATUS_ring_key_set : Fld := ⟨Reg.SEC_STATUS, 30, 30⟩

/-- SEC.STATUS.drbg_ok [29:29] RO (R455). -/
def F.SEC_STATUS_drbg_ok : Fld := ⟨Reg.SEC_STATUS, 29, 29⟩

/-- SEC.STATUS.rekey_busy [16:16] RO (R455). -/
def F.SEC_STATUS_rekey_busy : Fld := ⟨Reg.SEC_STATUS, 16, 16⟩

/-- SEC.STATUS.rekey_tenant [15:8] RO (R455). -/
def F.SEC_STATUS_rekey_tenant : Fld := ⟨Reg.SEC_STATUS, 15, 8⟩

/-- SEC.STATUS.rekey_queued [7:0] RO (R455). -/
def F.SEC_STATUS_rekey_queued : Fld := ⟨Reg.SEC_STATUS, 7, 0⟩

/-- SEC.EVENTS.link_key_mismatch [6:6] W1C (R456). -/
def F.SEC_EVENTS_link_key_mismatch : Fld := ⟨Reg.SEC_EVENTS, 6, 6⟩

/-- SEC.EVENTS.blocked [5:5] W1C (R456). -/
def F.SEC_EVENTS_blocked : Fld := ⟨Reg.SEC_EVENTS, 5, 5⟩

/-- SEC.EVENTS.counter_warn [4:4] W1C (R456). -/
def F.SEC_EVENTS_counter_warn : Fld := ⟨Reg.SEC_EVENTS, 4, 4⟩

/-- SEC.EVENTS.key_exhausted [3:3] W1C (R456). -/
def F.SEC_EVENTS_key_exhausted : Fld := ⟨Reg.SEC_EVENTS, 3, 3⟩

/-- SEC.EVENTS.rekey_done [2:2] W1C (R456). -/
def F.SEC_EVENTS_rekey_done : Fld := ⟨Reg.SEC_EVENTS, 2, 2⟩

/-- SEC.EVENTS.zeroised [1:1] W1C (R456). -/
def F.SEC_EVENTS_zeroised : Fld := ⟨Reg.SEC_EVENTS, 1, 1⟩

/-- SEC.EVENTS.drbg_fail [0:0] W1C (R456). -/
def F.SEC_EVENTS_drbg_fail : Fld := ⟨Reg.SEC_EVENTS, 0, 0⟩

/-- SEC.SPENT_QUIRES.value [19:0] RO (R453). -/
def F.SEC_SPENT_QUIRES_value : Fld := ⟨Reg.SEC_SPENT_QUIRES, 19, 0⟩

/-- SEC.BLOCKED_COUNT.value [31:0] RC (R453). -/
def F.SEC_BLOCKED_COUNT_value : Fld := ⟨Reg.SEC_BLOCKED_COUNT, 31, 0⟩

/-- SEC.PARTIAL_REWRITES.value [31:0] RC (R453). -/
def F.SEC_PARTIAL_REWRITES_value : Fld := ⟨Reg.SEC_PARTIAL_REWRITES, 31, 0⟩

/-- SEC.RING_KEY.value [31:0] WO (R453). -/
def F.SEC_RING_KEY_value : Fld := ⟨Reg.SEC_RING_KEY, 31, 0⟩

/-- SEC.LINK_CTRL.encrypt [3:0] RWL (R454). -/
def F.SEC_LINK_CTRL_encrypt : Fld := ⟨Reg.SEC_LINK_CTRL, 3, 0⟩

/-- SEC.LINK_STATUS.state [31:28] RO (R457). -/
def F.SEC_LINK_STATUS_state : Fld := ⟨Reg.SEC_LINK_STATUS, 31, 28⟩

/-- SEC.LINK_STATUS.cause [27:24] RO (R457). -/
def F.SEC_LINK_STATUS_cause : Fld := ⟨Reg.SEC_LINK_STATUS, 27, 24⟩

/-- SEC.LINK_STATUS.sessions [23:0] RO (R457). -/
def F.SEC_LINK_STATUS_sessions : Fld := ⟨Reg.SEC_LINK_STATUS, 23, 0⟩

/-- SEC.LINK_TAG_FAIL.value [31:0] RC (R453). -/
def F.SEC_LINK_TAG_FAIL_value : Fld := ⟨Reg.SEC_LINK_TAG_FAIL, 31, 0⟩

/-- SEC.ACTIVE_KEY_BOUNDARY_LO.value [31:0] RO (R453). -/
def F.SEC_ACTIVE_KEY_BOUNDARY_LO_value : Fld := ⟨Reg.SEC_ACTIVE_KEY_BOUNDARY_LO, 31, 0⟩

/-- SEC.ACTIVE_KEY_BOUNDARY_HI.value [0:0] RO (R453). -/
def F.SEC_ACTIVE_KEY_BOUNDARY_HI_value : Fld := ⟨Reg.SEC_ACTIVE_KEY_BOUNDARY_HI, 0, 0⟩

/-- SEC.REKEY_LEFT.value [18:0] RO (R453). -/
def F.SEC_REKEY_LEFT_value : Fld := ⟨Reg.SEC_REKEY_LEFT, 18, 0⟩

/-- SEC.KEY_STATUS.state [31:28] RO (R458). -/
def F.SEC_KEY_STATUS_state : Fld := ⟨Reg.SEC_KEY_STATUS, 31, 28⟩

/-- SEC.KEY_STATUS.exhausted [27:27] RO (R458). -/
def F.SEC_KEY_STATUS_exhausted : Fld := ⟨Reg.SEC_KEY_STATUS, 27, 27⟩

/-- SEC.KEY_STATUS.staged [26:26] RO (R458). -/
def F.SEC_KEY_STATUS_staged : Fld := ⟨Reg.SEC_KEY_STATUS, 26, 26⟩

/-- SEC.KEY_STATUS.counter_warn [25:25] RO (R458). -/
def F.SEC_KEY_STATUS_counter_warn : Fld := ⟨Reg.SEC_KEY_STATUS, 25, 25⟩

/-- SEC.KEY_STATUS.kcv [23:0] RO (R458). -/
def F.SEC_KEY_STATUS_kcv : Fld := ⟨Reg.SEC_KEY_STATUS, 23, 0⟩

/-- HIF.LINK_STATUS.state [31:28] RO (R577). -/
def F.HIF_LINK_STATUS_state : Fld := ⟨Reg.HIF_LINK_STATUS, 31, 28⟩

/-- HIF.LINK_STATUS.rate [27:24] RO (R577). -/
def F.HIF_LINK_STATUS_rate : Fld := ⟨Reg.HIF_LINK_STATUS, 27, 24⟩

/-- HIF.LINK_STATUS.flit [23:23] RO (R577). -/
def F.HIF_LINK_STATUS_flit : Fld := ⟨Reg.HIF_LINK_STATUS, 23, 23⟩

/-- HIF.LINK_STATUS.width [22:16] RO (R577). -/
def F.HIF_LINK_STATUS_width : Fld := ⟨Reg.HIF_LINK_STATUS, 22, 16⟩

/-- HIF.LINK_STATUS.perst_n [15:15] RO (R577). -/
def F.HIF_LINK_STATUS_perst_n : Fld := ⟨Reg.HIF_LINK_STATUS, 15, 15⟩

/-- HIF.LINK_STATUS.vfs [14:8] RO (R577). -/
def F.HIF_LINK_STATUS_vfs : Fld := ⟨Reg.HIF_LINK_STATUS, 14, 8⟩

/-- HIF.LINK_STATUS.num_vfs [7:0] RO (R577). -/
def F.HIF_LINK_STATUS_num_vfs : Fld := ⟨Reg.HIF_LINK_STATUS, 7, 0⟩

/-- HIF.EVENTS.dma_error [4:4] W1C (R578). -/
def F.HIF_EVENTS_dma_error : Fld := ⟨Reg.HIF_EVENTS, 4, 4⟩

/-- HIF.EVENTS.flr_done [3:3] W1C (R578). -/
def F.HIF_EVENTS_flr_done : Fld := ⟨Reg.HIF_EVENTS, 3, 3⟩

/-- HIF.EVENTS.degraded [2:2] W1C (R578). -/
def F.HIF_EVENTS_degraded : Fld := ⟨Reg.HIF_EVENTS, 2, 2⟩

/-- HIF.EVENTS.link_down [1:1] W1C (R578). -/
def F.HIF_EVENTS_link_down : Fld := ⟨Reg.HIF_EVENTS, 1, 1⟩

/-- HIF.EVENTS.link_up [0:0] W1C (R578). -/
def F.HIF_EVENTS_link_up : Fld := ⟨Reg.HIF_EVENTS, 0, 0⟩

/-- HIF.DMA_ERRORS.value [31:0] RC (R576). -/
def F.HIF_DMA_ERRORS_value : Fld := ⟨Reg.HIF_DMA_ERRORS, 31, 0⟩

/-- HIF.TENANT_STATUS.state [31:28] RO (R579). -/
def F.HIF_TENANT_STATUS_state : Fld := ⟨Reg.HIF_TENANT_STATUS, 31, 28⟩

/-- HIF.TENANT_STATUS.service_ready [27:27] RO (R579). -/
def F.HIF_TENANT_STATUS_service_ready : Fld := ⟨Reg.HIF_TENANT_STATUS, 27, 27⟩

/-- HIF.TENANT_STATUS.ring0_up [26:26] RO (R579). -/
def F.HIF_TENANT_STATUS_ring0_up : Fld := ⟨Reg.HIF_TENANT_STATUS, 26, 26⟩

/-- HIF.TENANT_STATUS.setup_refused [25:25] W1C (R579). -/
def F.HIF_TENANT_STATUS_setup_refused : Fld := ⟨Reg.HIF_TENANT_STATUS, 25, 25⟩

/-- HIF.TENANT_STATUS.host_dma_error [24:24] W1C (R579). -/
def F.HIF_TENANT_STATUS_host_dma_error : Fld := ⟨Reg.HIF_TENANT_STATUS, 24, 24⟩

/-- HIF.TENANT_STATUS.outstanding [12:0] RO (R579). -/
def F.HIF_TENANT_STATUS_outstanding : Fld := ⟨Reg.HIF_TENANT_STATUS, 12, 0⟩

/-- SWF.STATUS.enabled [31:31] RO (R484). -/
def F.SWF_STATUS_enabled : Fld := ⟨Reg.SWF_STATUS, 31, 31⟩

/-- SWF.STATUS.in_flight [16:0] RO (R484). -/
def F.SWF_STATUS_in_flight : Fld := ⟨Reg.SWF_STATUS, 16, 0⟩

/-- SWF.POOL_CFG.pool_quires [9:0] RW (R484). -/
def F.SWF_POOL_CFG_pool_quires : Fld := ⟨Reg.SWF_POOL_CFG, 9, 0⟩

/-- SWF.EVENTS.wr_refused [5:5] W1C (R484). -/
def F.SWF_EVENTS_wr_refused : Fld := ⟨Reg.SWF_EVENTS, 5, 5⟩

/-- SWF.EVENTS.trace_lost [4:4] W1C (R484). -/
def F.SWF_EVENTS_trace_lost : Fld := ⟨Reg.SWF_EVENTS, 4, 4⟩

/-- SWF.EVENTS.stale_result [3:3] W1C (R484). -/
def F.SWF_EVENTS_stale_result : Fld := ⟨Reg.SWF_EVENTS, 3, 3⟩

/-- SWF.EVENTS.redispatch [2:2] W1C (R484). -/
def F.SWF_EVENTS_redispatch : Fld := ⟨Reg.SWF_EVENTS, 2, 2⟩

/-- SWF.EVENTS.excess_output [1:1] W1C (R484). -/
def F.SWF_EVENTS_excess_output : Fld := ⟨Reg.SWF_EVENTS, 1, 1⟩

/-- SWF.EVENTS.dq_discard [0:0] W1C (R484). -/
def F.SWF_EVENTS_dq_discard : Fld := ⟨Reg.SWF_EVENTS, 0, 0⟩

/-- SWF.TRACE_CFG.enable [31:31] RW (R485). -/
def F.SWF_TRACE_CFG_enable : Fld := ⟨Reg.SWF_TRACE_CFG, 31, 31⟩

/-- SWF.TRACE_CFG.stream [25:16] RW (R485). -/
def F.SWF_TRACE_CFG_stream : Fld := ⟨Reg.SWF_TRACE_CFG, 25, 16⟩

/-- SWF.TRACE_CFG.trace_kinds [15:0] RW (R485). -/
def F.SWF_TRACE_CFG_trace_kinds : Fld := ⟨Reg.SWF_TRACE_CFG, 15, 0⟩

/-- SWF.TRACE_TENANT.value [31:0] RW (R482). -/
def F.SWF_TRACE_TENANT_value : Fld := ⟨Reg.SWF_TRACE_TENANT, 31, 0⟩

/-- SWF.DECISIONS_LO.value [31:0] RO (R482). -/
def F.SWF_DECISIONS_LO_value : Fld := ⟨Reg.SWF_DECISIONS_LO, 31, 0⟩

/-- SWF.DECISIONS_HI.value [31:0] RO (R482). -/
def F.SWF_DECISIONS_HI_value : Fld := ⟨Reg.SWF_DECISIONS_HI, 31, 0⟩

/-- SWF.FIRINGS_LO.value [31:0] RO (R482). -/
def F.SWF_FIRINGS_LO_value : Fld := ⟨Reg.SWF_FIRINGS_LO, 31, 0⟩

/-- SWF.FIRINGS_HI.value [31:0] RO (R482). -/
def F.SWF_FIRINGS_HI_value : Fld := ⟨Reg.SWF_FIRINGS_HI, 31, 0⟩

/-- SWF.CACHE_MISSES.value [31:0] RC (R482). -/
def F.SWF_CACHE_MISSES_value : Fld := ⟨Reg.SWF_CACHE_MISSES, 31, 0⟩

/-- SWF.TRACE_LOST.value [31:0] RC (R482). -/
def F.SWF_TRACE_LOST_value : Fld := ⟨Reg.SWF_TRACE_LOST, 31, 0⟩

/-- SWF.STALE_RESULTS.value [31:0] RC (R482). -/
def F.SWF_STALE_RESULTS_value : Fld := ⟨Reg.SWF_STALE_RESULTS, 31, 0⟩

/-- SWF.REDISPATCHES.value [31:0] RC (R482). -/
def F.SWF_REDISPATCHES_value : Fld := ⟨Reg.SWF_REDISPATCHES, 31, 0⟩

/-- SWF.EXCESS_OUTPUTS.value [31:0] RC (R482). -/
def F.SWF_EXCESS_OUTPUTS_value : Fld := ⟨Reg.SWF_EXCESS_OUTPUTS, 31, 0⟩

/-- SWF.OP_INDEX.op [17:0] RW (R482). -/
def F.SWF_OP_INDEX_op : Fld := ⟨Reg.SWF_OP_INDEX, 17, 0⟩

/-- SWF.DQ_INDEX.dq [19:0] RW (R482). -/
def F.SWF_DQ_INDEX_dq : Fld := ⟨Reg.SWF_DQ_INDEX, 19, 0⟩

/-- SWF.OP_DATA.value [31:0] RO (R482). -/
def F.SWF_OP_DATA_value : Fld := ⟨Reg.SWF_OP_DATA, 31, 0⟩

/-- SWF.DQ_DATA.value [31:0] RO (R482). -/
def F.SWF_DQ_DATA_value : Fld := ⟨Reg.SWF_DQ_DATA, 31, 0⟩

/-- SWF.TENANT_CFG.weight [31:24] RW (R486). -/
def F.SWF_TENANT_CFG_weight : Fld := ⟨Reg.SWF_TENANT_CFG, 31, 24⟩

/-- SWF.TENANT_CFG.max_tasks [16:0] RW (R486). -/
def F.SWF_TENANT_CFG_max_tasks : Fld := ⟨Reg.SWF_TENANT_CFG, 16, 0⟩

/-- SWF.TENANT_TOKQ.token_quota [13:0] RW (R486). -/
def F.SWF_TENANT_TOKQ_token_quota : Fld := ⟨Reg.SWF_TENANT_TOKQ, 13, 0⟩

/-- SWF.TENANT_CACHE.cache_min [8:0] RW (R486). -/
def F.SWF_TENANT_CACHE_cache_min : Fld := ⟨Reg.SWF_TENANT_CACHE, 8, 0⟩

/-- SWF.TENANT_STATUS.in_flight [16:0] RO (R486). -/
def F.SWF_TENANT_STATUS_in_flight : Fld := ⟨Reg.SWF_TENANT_STATUS, 16, 0⟩

/-- SWF.POOL_READY.value [16:0] RO (R482). -/
def F.SWF_POOL_READY_value : Fld := ⟨Reg.SWF_POOL_READY, 16, 0⟩

/-- NOC.STATUS.rings_up [7:0] RO (R551). -/
def F.NOC_STATUS_rings_up : Fld := ⟨Reg.NOC_STATUS, 7, 0⟩

/-- NOC.EVENTS.probe_refused [4:4] W1C (R551). -/
def F.NOC_EVENTS_probe_refused : Fld := ⟨Reg.NOC_EVENTS, 4, 4⟩

/-- NOC.EVENTS.trace_lost [3:3] W1C (R551). -/
def F.NOC_EVENTS_trace_lost : Fld := ⟨Reg.NOC_EVENTS, 3, 3⟩

/-- NOC.EVENTS.tenant_reject [2:2] W1C (R551). -/
def F.NOC_EVENTS_tenant_reject : Fld := ⟨Reg.NOC_EVENTS, 2, 2⟩

/-- NOC.EVENTS.bad_packet [1:1] W1C (R551). -/
def F.NOC_EVENTS_bad_packet : Fld := ⟨Reg.NOC_EVENTS, 1, 1⟩

/-- NOC.EVENTS.ring_failed [0:0] W1C (R551). -/
def F.NOC_EVENTS_ring_failed : Fld := ⟨Reg.NOC_EVENTS, 0, 0⟩

/-- NOC.RING_STATUS.state [31:28] RO (R551). -/
def F.NOC_RING_STATUS_state : Fld := ⟨Reg.NOC_RING_STATUS, 31, 28⟩

/-- NOC.RING_STATUS.fail_cause [27:24] RO (R551). -/
def F.NOC_RING_STATUS_fail_cause : Fld := ⟨Reg.NOC_RING_STATUS, 27, 24⟩

/-- NOC.RING_STATUS.segment [5:0] RO (R551). -/
def F.NOC_RING_STATUS_segment : Fld := ⟨Reg.NOC_RING_STATUS, 5, 0⟩

/-- NOC.LINK_RETRIES.value [31:0] RC (R550). -/
def F.NOC_LINK_RETRIES_value : Fld := ⟨Reg.NOC_LINK_RETRIES, 31, 0⟩

/-- NOC.BAD_PACKETS.value [31:0] RC (R550). -/
def F.NOC_BAD_PACKETS_value : Fld := ⟨Reg.NOC_BAD_PACKETS, 31, 0⟩

/-- NOC.TENANT_REJECTS.value [31:0] RC (R550). -/
def F.NOC_TENANT_REJECTS_value : Fld := ⟨Reg.NOC_TENANT_REJECTS, 31, 0⟩

/-- NOC.TRACE_CFG.enable [31:31] RW (R552). -/
def F.NOC_TRACE_CFG_enable : Fld := ⟨Reg.NOC_TRACE_CFG, 31, 31⟩

/-- NOC.TRACE_CFG.stream [9:0] RW (R552). -/
def F.NOC_TRACE_CFG_stream : Fld := ⟨Reg.NOC_TRACE_CFG, 9, 0⟩

/-- NOC.TRACE_LOST.value [31:0] RC (R550). -/
def F.NOC_TRACE_LOST_value : Fld := ⟨Reg.NOC_TRACE_LOST, 31, 0⟩

/-- NOC.PROBE_CFG.enable [31:31] RW (R552). -/
def F.NOC_PROBE_CFG_enable : Fld := ⟨Reg.NOC_PROBE_CFG, 31, 31⟩

/-- NOC.PROBE_CFG.mode [30:29] RW (R552). -/
def F.NOC_PROBE_CFG_mode : Fld := ⟨Reg.NOC_PROBE_CFG, 30, 29⟩

/-- NOC.PROBE_CFG.point [28:28] RW (R552). -/
def F.NOC_PROBE_CFG_point : Fld := ⟨Reg.NOC_PROBE_CFG, 28, 28⟩

/-- NOC.PROBE_CFG.ring [26:24] RW (R552). -/
def F.NOC_PROBE_CFG_ring : Fld := ⟨Reg.NOC_PROBE_CFG, 26, 24⟩

/-- NOC.PROBE_CFG.stop [5:0] RW (R552). -/
def F.NOC_PROBE_CFG_stop : Fld := ⟨Reg.NOC_PROBE_CFG, 5, 0⟩

/-- NOC.PROBE_FILTER.vc_mask [31:28] RW (R552). -/
def F.NOC_PROBE_FILTER_vc_mask : Fld := ⟨Reg.NOC_PROBE_FILTER, 31, 28⟩

/-- NOC.PROBE_FILTER.op_en [27:27] RW (R552). -/
def F.NOC_PROBE_FILTER_op_en : Fld := ⟨Reg.NOC_PROBE_FILTER, 27, 27⟩

/-- NOC.PROBE_FILTER.opcode [26:20] RW (R552). -/
def F.NOC_PROBE_FILTER_opcode : Fld := ⟨Reg.NOC_PROBE_FILTER, 26, 20⟩

/-- NOC.PROBE_FILTER.tenant_en [19:19] RW (R552). -/
def F.NOC_PROBE_FILTER_tenant_en : Fld := ⟨Reg.NOC_PROBE_FILTER, 19, 19⟩

/-- NOC.PROBE_FILTER.tenant [15:8] RW (R552). -/
def F.NOC_PROBE_FILTER_tenant : Fld := ⟨Reg.NOC_PROBE_FILTER, 15, 8⟩

/-- NOC.PROBE_SRC.high [25:16] RW (R552). -/
def F.NOC_PROBE_SRC_high : Fld := ⟨Reg.NOC_PROBE_SRC, 25, 16⟩

/-- NOC.PROBE_SRC.low [9:0] RW (R552). -/
def F.NOC_PROBE_SRC_low : Fld := ⟨Reg.NOC_PROBE_SRC, 9, 0⟩

/-- NOC.PROBE_DST.high [25:16] RW (R552). -/
def F.NOC_PROBE_DST_high : Fld := ⟨Reg.NOC_PROBE_DST, 25, 16⟩

/-- NOC.PROBE_DST.low [9:0] RW (R552). -/
def F.NOC_PROBE_DST_low : Fld := ⟨Reg.NOC_PROBE_DST, 9, 0⟩

/-- NOC.PROBE_COUNT_LO.value [31:0] RO (R550). -/
def F.NOC_PROBE_COUNT_LO_value : Fld := ⟨Reg.NOC_PROBE_COUNT_LO, 31, 0⟩

/-- NOC.PROBE_COUNT_HI.value [31:0] RO (R550). -/
def F.NOC_PROBE_COUNT_HI_value : Fld := ⟨Reg.NOC_PROBE_COUNT_HI, 31, 0⟩

/-- BRY.PORT_STATUS.state [31:28] RO (R595). -/
def F.BRY_PORT_STATUS_state : Fld := ⟨Reg.BRY_PORT_STATUS, 31, 28⟩

/-- BRY.PORT_STATUS.cause [27:24] RO (R595). -/
def F.BRY_PORT_STATUS_cause : Fld := ⟨Reg.BRY_PORT_STATUS, 27, 24⟩

/-- BRY.PORT_STATUS.x4 [23:23] RO (R595). -/
def F.BRY_PORT_STATUS_x4 : Fld := ⟨Reg.BRY_PORT_STATUS, 23, 23⟩

/-- BRY.PORT_STATUS.partner_valid [22:22] RO (R595). -/
def F.BRY_PORT_STATUS_partner_valid : Fld := ⟨Reg.BRY_PORT_STATUS, 22, 22⟩

/-- BRY.PORT_STATUS.partner [21:19] RO (R595). -/
def F.BRY_PORT_STATUS_partner : Fld := ⟨Reg.BRY_PORT_STATUS, 21, 19⟩

/-- BRY.PORT_EVENTS.failed [2:2] W1C (R595). -/
def F.BRY_PORT_EVENTS_failed : Fld := ⟨Reg.BRY_PORT_EVENTS, 2, 2⟩

/-- BRY.PORT_EVENTS.retrained [1:1] W1C (R595). -/
def F.BRY_PORT_EVENTS_retrained : Fld := ⟨Reg.BRY_PORT_EVENTS, 1, 1⟩

/-- BRY.PORT_EVENTS.up [0:0] W1C (R595). -/
def F.BRY_PORT_EVENTS_up : Fld := ⟨Reg.BRY_PORT_EVENTS, 0, 0⟩

/-- BRY.PORT_ASYM.value [15:0] RW (R594). -/
def F.BRY_PORT_ASYM_value : Fld := ⟨Reg.BRY_PORT_ASYM, 15, 0⟩

/-- BRY.DELAY.value [15:0] RO (R594). -/
def F.BRY_DELAY_value : Fld := ⟨Reg.BRY_DELAY, 15, 0⟩

/-- BRY.CRC_ERRORS.value [31:0] RC (R594). -/
def F.BRY_CRC_ERRORS_value : Fld := ⟨Reg.BRY_CRC_ERRORS, 31, 0⟩

/-- BRY.REPLAYS.value [31:0] RC (R594). -/
def F.BRY_REPLAYS_value : Fld := ⟨Reg.BRY_REPLAYS, 31, 0⟩

/-- BRY.RING_CFG.role [31:30] RW (R596). -/
def F.BRY_RING_CFG_role : Fld := ⟨Reg.BRY_RING_CFG, 31, 30⟩

/-- BRY.RING_CFG.hosted [29:29] RW (R596). -/
def F.BRY_RING_CFG_hosted : Fld := ⟨Reg.BRY_RING_CFG, 29, 29⟩

/-- BRY.RING_CFG.ring_b [28:28] RW (R596). -/
def F.BRY_RING_CFG_ring_b : Fld := ⟨Reg.BRY_RING_CFG, 28, 28⟩

/-- BRY.RING_CFG.size [27:24] RW (R596). -/
def F.BRY_RING_CFG_size : Fld := ⟨Reg.BRY_RING_CFG, 27, 24⟩

/-- BRY.RING_CFG.device [23:21] RW (R596). -/
def F.BRY_RING_CFG_device : Fld := ⟨Reg.BRY_RING_CFG, 23, 21⟩

/-- BRY.RING_CFG.ring_id [15:0] RW (R596). -/
def F.BRY_RING_CFG_ring_id : Fld := ⟨Reg.BRY_RING_CFG, 15, 0⟩

/-- BRY.RING_STATUS.state [31:28] RO (R597). -/
def F.BRY_RING_STATUS_state : Fld := ⟨Reg.BRY_RING_STATUS, 31, 28⟩

/-- BRY.RING_STATUS.role [27:26] RO (R597). -/
def F.BRY_RING_STATUS_role : Fld := ⟨Reg.BRY_RING_STATUS, 27, 26⟩

/-- BRY.RING_STATUS.size [25:22] RO (R597). -/
def F.BRY_RING_STATUS_size : Fld := ⟨Reg.BRY_RING_STATUS, 25, 22⟩

/-- BRY.RING_STATUS.device [21:19] RO (R597). -/
def F.BRY_RING_STATUS_device : Fld := ⟨Reg.BRY_RING_STATUS, 21, 19⟩

/-- BRY.RING_STATUS.hosted [18:18] RO (R597). -/
def F.BRY_RING_STATUS_hosted : Fld := ⟨Reg.BRY_RING_STATUS, 18, 18⟩

/-- BRY.RING_STATUS.reachable [7:0] RO (R597). -/
def F.BRY_RING_STATUS_reachable : Fld := ⟨Reg.BRY_RING_STATUS, 7, 0⟩

/-- BRY.RING_EVENTS.rmt_done [5:5] W1C (R597). -/
def F.BRY_RING_EVENTS_rmt_done : Fld := ⟨Reg.BRY_RING_EVENTS, 5, 5⟩

/-- BRY.RING_EVENTS.ring_reject [4:4] W1C (R597). -/
def F.BRY_RING_EVENTS_ring_reject : Fld := ⟨Reg.BRY_RING_EVENTS, 4, 4⟩

/-- BRY.RING_EVENTS.line_late [3:3] W1C (R597). -/
def F.BRY_RING_EVENTS_line_late : Fld := ⟨Reg.BRY_RING_EVENTS, 3, 3⟩

/-- BRY.RING_EVENTS.align_lost [2:2] W1C (R597). -/
def F.BRY_RING_EVENTS_align_lost : Fld := ⟨Reg.BRY_RING_EVENTS, 2, 2⟩

/-- BRY.RING_EVENTS.broken [1:1] W1C (R597). -/
def F.BRY_RING_EVENTS_broken : Fld := ⟨Reg.BRY_RING_EVENTS, 1, 1⟩

/-- BRY.RING_EVENTS.formed [0:0] W1C (R597). -/
def F.BRY_RING_EVENTS_formed : Fld := ⟨Reg.BRY_RING_EVENTS, 0, 0⟩

/-- BRY.SYNC_STATUS.state [31:28] RO (R597). -/
def F.BRY_SYNC_STATUS_state : Fld := ⟨Reg.BRY_SYNC_STATUS, 31, 28⟩

/-- BRY.SYNC_STATUS.steer [15:0] RO (R597). -/
def F.BRY_SYNC_STATUS_steer : Fld := ⟨Reg.BRY_SYNC_STATUS, 15, 0⟩

/-- BRY.OFFSET.value [31:0] RO (R594). -/
def F.BRY_OFFSET_value : Fld := ⟨Reg.BRY_OFFSET, 31, 0⟩

/-- BRY.LINE_SPAN.value [31:0] RW (R594). -/
def F.BRY_LINE_SPAN_value : Fld := ⟨Reg.BRY_LINE_SPAN, 31, 0⟩

/-- BRY.LINE_DELAY.value [15:0] RW (R594). -/
def F.BRY_LINE_DELAY_value : Fld := ⟨Reg.BRY_LINE_DELAY, 15, 0⟩

/-- BRY.LINE_LATE.value [31:0] RC (R594). -/
def F.BRY_LINE_LATE_value : Fld := ⟨Reg.BRY_LINE_LATE, 31, 0⟩

/-- BRY.TENANT_LINK.value [31:0] RW (R594). -/
def F.BRY_TENANT_LINK_value : Fld := ⟨Reg.BRY_TENANT_LINK, 31, 0⟩

/-- BRY.RMT_CTRL.go [31:31] W1S (R598). -/
def F.BRY_RMT_CTRL_go : Fld := ⟨Reg.BRY_RMT_CTRL, 31, 31⟩

/-- BRY.RMT_CTRL.write [30:30] RW (R598). -/
def F.BRY_RMT_CTRL_write : Fld := ⟨Reg.BRY_RMT_CTRL, 30, 30⟩

/-- BRY.RMT_CTRL.space [29:29] RW (R598). -/
def F.BRY_RMT_CTRL_space : Fld := ⟨Reg.BRY_RMT_CTRL, 29, 29⟩

/-- BRY.RMT_CTRL.device [28:26] RW (R598). -/
def F.BRY_RMT_CTRL_device : Fld := ⟨Reg.BRY_RMT_CTRL, 28, 26⟩

/-- BRY.RMT_CTRL.result [25:24] RO (R598). -/
def F.BRY_RMT_CTRL_result : Fld := ⟨Reg.BRY_RMT_CTRL, 25, 24⟩

/-- BRY.RMT_ADDR.value [27:0] RW (R594). -/
def F.BRY_RMT_ADDR_value : Fld := ⟨Reg.BRY_RMT_ADDR, 27, 0⟩

/-- BRY.RMT_DATA.value [31:0] RW (R594). -/
def F.BRY_RMT_DATA_value : Fld := ⟨Reg.BRY_RMT_DATA, 31, 0⟩

/-- MEM.FRONT_STATUS.state [31:28] RO (R419). -/
def F.MEM_FRONT_STATUS_state : Fld := ⟨Reg.MEM_FRONT_STATUS, 31, 28⟩

/-- MEM.FRONT_STATUS.failed_stack [15:12] RO (R419). -/
def F.MEM_FRONT_STATUS_failed_stack : Fld := ⟨Reg.MEM_FRONT_STATUS, 15, 12⟩

/-- MEM.FRONT_STATUS.stacks_up [11:0] RO (R419). -/
def F.MEM_FRONT_STATUS_stacks_up : Fld := ⟨Reg.MEM_FRONT_STATUS, 11, 0⟩

/-- MEM.EVENTS.scrub_late [9:9] W1C (R420). -/
def F.MEM_EVENTS_scrub_late : Fld := ⟨Reg.MEM_EVENTS, 9, 9⟩

/-- MEM.EVENTS.parity_fixed [8:8] W1C (R420). -/
def F.MEM_EVENTS_parity_fixed : Fld := ⟨Reg.MEM_EVENTS, 8, 8⟩

/-- MEM.EVENTS.cxl_failed [7:7] W1C (R420). -/
def F.MEM_EVENTS_cxl_failed : Fld := ⟨Reg.MEM_EVENTS, 7, 7⟩

/-- MEM.EVENTS.ddr_rehome_done [6:6] W1C (R420). -/
def F.MEM_EVENTS_ddr_rehome_done : Fld := ⟨Reg.MEM_EVENTS, 6, 6⟩

/-- MEM.EVENTS.ddr_migrate_done [5:5] W1C (R420). -/
def F.MEM_EVENTS_ddr_migrate_done : Fld := ⟨Reg.MEM_EVENTS, 5, 5⟩

/-- MEM.EVENTS.ddr_rank_retired [4:4] W1C (R420). -/
def F.MEM_EVENTS_ddr_rank_retired : Fld := ⟨Reg.MEM_EVENTS, 4, 4⟩

/-- MEM.EVENTS.double_fault [3:3] W1C (R420). -/
def F.MEM_EVENTS_double_fault : Fld := ⟨Reg.MEM_EVENTS, 3, 3⟩

/-- MEM.EVENTS.hbm_repair [2:2] W1C (R420). -/
def F.MEM_EVENTS_hbm_repair : Fld := ⟨Reg.MEM_EVENTS, 2, 2⟩

/-- MEM.EVENTS.hbm_stack_failed [1:1] W1C (R420). -/
def F.MEM_EVENTS_hbm_stack_failed : Fld := ⟨Reg.MEM_EVENTS, 1, 1⟩

/-- MEM.REG_CFG.migrate_share [3:0] RW (R421). -/
def F.MEM_REG_CFG_migrate_share : Fld := ⟨Reg.MEM_REG_CFG, 3, 0⟩

/-- MEM.CXL_MODE.pair_active [3:2] RO (R421). -/
def F.MEM_CXL_MODE_pair_active : Fld := ⟨Reg.MEM_CXL_MODE, 3, 2⟩

/-- MEM.CXL_MODE.pair [1:0] RW (R421). -/
def F.MEM_CXL_MODE_pair : Fld := ⟨Reg.MEM_CXL_MODE, 1, 0⟩

/-- MEM.SCRUB_CFG.enable [31:31] RW (R421). -/
def F.MEM_SCRUB_CFG_enable : Fld := ⟨Reg.MEM_SCRUB_CFG, 31, 31⟩

/-- MEM.SCRUB_CFG.period [3:0] RW (R421). -/
def F.MEM_SCRUB_CFG_period : Fld := ⟨Reg.MEM_SCRUB_CFG, 3, 0⟩

/-- MEM.FRONT_RECON.value [31:0] RC (R418). -/
def F.MEM_FRONT_RECON_value : Fld := ⟨Reg.MEM_FRONT_RECON, 31, 0⟩

/-- MEM.DOUBLE_FAULTS.value [31:0] RC (R418). -/
def F.MEM_DOUBLE_FAULTS_value : Fld := ⟨Reg.MEM_DOUBLE_FAULTS, 31, 0⟩

/-- MEM.PARITY_FIXED.value [31:0] RC (R418). -/
def F.MEM_PARITY_FIXED_value : Fld := ⟨Reg.MEM_PARITY_FIXED, 31, 0⟩

/-- MEM.HBM_STATUS.state [31:28] RO (R422). -/
def F.MEM_HBM_STATUS_state : Fld := ⟨Reg.MEM_HBM_STATUS, 31, 28⟩

/-- MEM.HBM_STATUS.fail_cause [27:24] RO (R422). -/
def F.MEM_HBM_STATUS_fail_cause : Fld := ⟨Reg.MEM_HBM_STATUS, 27, 24⟩

/-- MEM.HBM_CE_COUNT.value [31:0] RC (R418). -/
def F.MEM_HBM_CE_COUNT_value : Fld := ⟨Reg.MEM_HBM_CE_COUNT, 31, 0⟩

/-- MEM.HBM_UE_COUNT.value [31:0] RC (R418). -/
def F.MEM_HBM_UE_COUNT_value : Fld := ⟨Reg.MEM_HBM_UE_COUNT, 31, 0⟩

/-- MEM.HBM_REPAIRS.lanes_repaired [31:26] RO (R422). -/
def F.MEM_HBM_REPAIRS_lanes_repaired : Fld := ⟨Reg.MEM_HBM_REPAIRS, 31, 26⟩

/-- MEM.HBM_REPAIRS.soft_repairs [25:13] RO (R422). -/
def F.MEM_HBM_REPAIRS_soft_repairs : Fld := ⟨Reg.MEM_HBM_REPAIRS, 25, 13⟩

/-- MEM.HBM_REPAIRS.degraded_rows [12:0] RO (R422). -/
def F.MEM_HBM_REPAIRS_degraded_rows : Fld := ⟨Reg.MEM_HBM_REPAIRS, 12, 0⟩

/-- MEM.DDR_STATUS.state [31:28] RO (R423). -/
def F.MEM_DDR_STATUS_state : Fld := ⟨Reg.MEM_DDR_STATUS, 31, 28⟩

/-- MEM.DDR_STATUS.dimms [27:26] RO (R423). -/
def F.MEM_DDR_STATUS_dimms : Fld := ⟨Reg.MEM_DDR_STATUS, 27, 26⟩

/-- MEM.DDR_STATUS.speed [25:24] RO (R423). -/
def F.MEM_DDR_STATUS_speed : Fld := ⟨Reg.MEM_DDR_STATUS, 25, 24⟩

/-- MEM.DDR_STATUS.ranks [23:18] RO (R423). -/
def F.MEM_DDR_STATUS_ranks : Fld := ⟨Reg.MEM_DDR_STATUS, 23, 18⟩

/-- MEM.DDR_STATUS.spare [17:13] RO (R423). -/
def F.MEM_DDR_STATUS_spare : Fld := ⟨Reg.MEM_DDR_STATUS, 17, 13⟩

/-- MEM.DDR_STATUS.spare_reserved [12:12] RO (R423). -/
def F.MEM_DDR_STATUS_spare_reserved : Fld := ⟨Reg.MEM_DDR_STATUS, 12, 12⟩

/-- MEM.DDR_STATUS.retired [11:7] RO (R423). -/
def F.MEM_DDR_STATUS_retired : Fld := ⟨Reg.MEM_DDR_STATUS, 11, 7⟩

/-- MEM.DDR_STATUS.rank_retired [6:6] RO (R423). -/
def F.MEM_DDR_STATUS_rank_retired : Fld := ⟨Reg.MEM_DDR_STATUS, 6, 6⟩

/-- MEM.DDR_STATUS.migrating [5:5] RO (R423). -/
def F.MEM_DDR_STATUS_migrating : Fld := ⟨Reg.MEM_DDR_STATUS, 5, 5⟩

/-- MEM.DDR_STATUS.rehoming [4:4] RO (R423). -/
def F.MEM_DDR_STATUS_rehoming : Fld := ⟨Reg.MEM_DDR_STATUS, 4, 4⟩

/-- MEM.DDR_CFG.spare_enable [31:31] RW (R423). -/
def F.MEM_DDR_CFG_spare_enable : Fld := ⟨Reg.MEM_DDR_CFG, 31, 31⟩

/-- MEM.DDR_CFG.spare_rank [4:0] RW (R423). -/
def F.MEM_DDR_CFG_spare_rank : Fld := ⟨Reg.MEM_DDR_CFG, 4, 0⟩

/-- MEM.DDR_CE_COUNT.value [31:0] RC (R418). -/
def F.MEM_DDR_CE_COUNT_value : Fld := ⟨Reg.MEM_DDR_CE_COUNT, 31, 0⟩

/-- MEM.DDR_UE_COUNT.value [31:0] RC (R418). -/
def F.MEM_DDR_UE_COUNT_value : Fld := ⟨Reg.MEM_DDR_UE_COUNT, 31, 0⟩

/-- MEM.DDR_MIGRATE.value [31:0] RO (R418). -/
def F.MEM_DDR_MIGRATE_value : Fld := ⟨Reg.MEM_DDR_MIGRATE, 31, 0⟩

/-- MEM.CXL_STATUS.state [31:28] RO (R424). -/
def F.MEM_CXL_STATUS_state : Fld := ⟨Reg.MEM_CXL_STATUS, 31, 28⟩

/-- MEM.CXL_STATUS.role [27:26] RO (R424). -/
def F.MEM_CXL_STATUS_role : Fld := ⟨Reg.MEM_CXL_STATUS, 27, 26⟩

/-- MEM.CXL_STATUS.persistent [25:25] RO (R424). -/
def F.MEM_CXL_STATUS_persistent : Fld := ⟨Reg.MEM_CXL_STATUS, 25, 25⟩

/-- MEM.CXL_STATUS.gpf_ok_last [24:24] RO (R424). -/
def F.MEM_CXL_STATUS_gpf_ok_last : Fld := ⟨Reg.MEM_CXL_STATUS, 24, 24⟩

/-- MEM.CXL_STATUS.width [23:22] RO (R424). -/
def F.MEM_CXL_STATUS_width : Fld := ⟨Reg.MEM_CXL_STATUS, 23, 22⟩

/-- MEM.CXL_STATUS.rate [21:21] RO (R424). -/
def F.MEM_CXL_STATUS_rate : Fld := ⟨Reg.MEM_CXL_STATUS, 21, 21⟩

/-- MEM.CXL_STATUS.resilvering [20:20] RO (R424). -/
def F.MEM_CXL_STATUS_resilvering : Fld := ⟨Reg.MEM_CXL_STATUS, 20, 20⟩

/-- MEM.CXL_STATUS.fail_cause [19:16] RO (R424). -/
def F.MEM_CXL_STATUS_fail_cause : Fld := ⟨Reg.MEM_CXL_STATUS, 19, 16⟩

/-- MEM.CXL_POISON_COUNT.value [31:0] RC (R418). -/
def F.MEM_CXL_POISON_COUNT_value : Fld := ⟨Reg.MEM_CXL_POISON_COUNT, 31, 0⟩

/-- MEM.CXL_TIMEOUT_COUNT.value [31:0] RC (R418). -/
def F.MEM_CXL_TIMEOUT_COUNT_value : Fld := ⟨Reg.MEM_CXL_TIMEOUT_COUNT, 31, 0⟩

/-- CAP.STATUS.front_free [29:16] RO (R313). -/
def F.CAP_STATUS_front_free : Fld := ⟨Reg.CAP_STATUS, 29, 16⟩

/-- CAP.STATUS.waiting [10:0] RO (R313). -/
def F.CAP_STATUS_waiting : Fld := ⟨Reg.CAP_STATUS, 10, 0⟩

/-- CAP.EVENTS.wr_refused [5:5] W1C (R314). -/
def F.CAP_EVENTS_wr_refused : Fld := ⟨Reg.CAP_EVENTS, 5, 5⟩

/-- CAP.EVENTS.quire_lost [4:4] W1C (R314). -/
def F.CAP_EVENTS_quire_lost : Fld := ⟨Reg.CAP_EVENTS, 4, 4⟩

/-- CAP.EVENTS.staging_full [3:3] W1C (R314). -/
def F.CAP_EVENTS_staging_full : Fld := ⟨Reg.CAP_EVENTS, 3, 3⟩

/-- CAP.EVENTS.tier_full [2:2] W1C (R314). -/
def F.CAP_EVENTS_tier_full : Fld := ⟨Reg.CAP_EVENTS, 2, 2⟩

/-- CAP.EVENTS.quota [1:1] W1C (R314). -/
def F.CAP_EVENTS_quota : Fld := ⟨Reg.CAP_EVENTS, 1, 1⟩

/-- CAP.EVENTS.drain_retry [0:0] W1C (R314). -/
def F.CAP_EVENTS_drain_retry : Fld := ⟨Reg.CAP_EVENTS, 0, 0⟩

/-- CAP.DRAIN_CFG.enable [31:31] RW (R315). -/
def F.CAP_DRAIN_CFG_enable : Fld := ⟨Reg.CAP_DRAIN_CFG, 31, 31⟩

/-- CAP.DRAIN_CFG.policy [1:0] RW (R315). -/
def F.CAP_DRAIN_CFG_policy : Fld := ⟨Reg.CAP_DRAIN_CFG, 1, 0⟩

/-- CAP.DRAIN_PENDING.value [18:0] RO (R311). -/
def F.CAP_DRAIN_PENDING_value : Fld := ⟨Reg.CAP_DRAIN_PENDING, 18, 0⟩

/-- CAP.QT_INDEX.quire [18:0] RW (R311). -/
def F.CAP_QT_INDEX_quire : Fld := ⟨Reg.CAP_QT_INDEX, 18, 0⟩

/-- CAP.LOST_QUIRES.value [31:0] RC (R311). -/
def F.CAP_LOST_QUIRES_value : Fld := ⟨Reg.CAP_LOST_QUIRES, 31, 0⟩

/-- CAP.QT_DATA.value [31:0] RO (R311). -/
def F.CAP_QT_DATA_value : Fld := ⟨Reg.CAP_QT_DATA, 31, 0⟩

/-- CAP.TARGET_CAP.value [18:0] RO (R311). -/
def F.CAP_TARGET_CAP_value : Fld := ⟨Reg.CAP_TARGET_CAP, 18, 0⟩

/-- CAP.TARGET_USED.value [18:0] RO (R311). -/
def F.CAP_TARGET_USED_value : Fld := ⟨Reg.CAP_TARGET_USED, 18, 0⟩

/-- CAP.QUOTA_FRONT.quires [13:0] RW (R316). -/
def F.CAP_QUOTA_FRONT_quires : Fld := ⟨Reg.CAP_QUOTA_FRONT, 13, 0⟩

/-- CAP.QUOTA_DEEP.quires [18:0] RW (R316). -/
def F.CAP_QUOTA_DEEP_quires : Fld := ⟨Reg.CAP_QUOTA_DEEP, 18, 0⟩

/-- CAP.USE_FRONT.value [13:0] RO (R311). -/
def F.CAP_USE_FRONT_value : Fld := ⟨Reg.CAP_USE_FRONT, 13, 0⟩

/-- CAP.USE_DEEP.value [18:0] RO (R311). -/
def F.CAP_USE_DEEP_value : Fld := ⟨Reg.CAP_USE_DEEP, 18, 0⟩

/-- CAP.STREAM_STATUS.state [31:28] RO (R317). -/
def F.CAP_STREAM_STATUS_state : Fld := ⟨Reg.CAP_STREAM_STATUS, 31, 28⟩

/-- CAP.STREAM_STATUS.end_cause [27:24] RO (R317). -/
def F.CAP_STREAM_STATUS_end_cause : Fld := ⟨Reg.CAP_STREAM_STATUS, 27, 24⟩

/-- CAP.STREAM_STATUS.holder [23:16] RO (R317). -/
def F.CAP_STREAM_STATUS_holder : Fld := ⟨Reg.CAP_STREAM_STATUS, 23, 16⟩

/-- CAP.STREAM_STATUS.kind [15:13] RO (R317). -/
def F.CAP_STREAM_STATUS_kind : Fld := ⟨Reg.CAP_STREAM_STATUS, 15, 13⟩

/-- CAP.STREAM_STATUS.mode [12:11] RO (R317). -/
def F.CAP_STREAM_STATUS_mode : Fld := ⟨Reg.CAP_STREAM_STATUS, 12, 11⟩

/-- CAP.STREAM_STATUS.tier [10:10] RO (R317). -/
def F.CAP_STREAM_STATUS_tier : Fld := ⟨Reg.CAP_STREAM_STATUS, 10, 10⟩

/-- CAP.STREAM_STATUS.triggered [9:9] RO (R317). -/
def F.CAP_STREAM_STATUS_triggered : Fld := ⟨Reg.CAP_STREAM_STATUS, 9, 9⟩

/-- CAP.STREAM_STATUS.filtering [8:8] RO (R317). -/
def F.CAP_STREAM_STATUS_filtering : Fld := ⟨Reg.CAP_STREAM_STATUS, 8, 8⟩

/-- CAP.STREAM_CFG.flush_us [31:16] RO (R318). -/
def F.CAP_STREAM_CFG_flush_us : Fld := ⟨Reg.CAP_STREAM_CFG, 31, 16⟩

/-- CAP.STREAM_CFG.ring_quires [12:0] RO (R318). -/
def F.CAP_STREAM_CFG_ring_quires : Fld := ⟨Reg.CAP_STREAM_CFG, 12, 0⟩

/-- CAP.STREAM_FIRST_QUIRE.valid [31:31] RO (R319). -/
def F.CAP_STREAM_FIRST_QUIRE_valid : Fld := ⟨Reg.CAP_STREAM_FIRST_QUIRE, 31, 31⟩

/-- CAP.STREAM_FIRST_QUIRE.quire [18:0] RO (R319). -/
def F.CAP_STREAM_FIRST_QUIRE_quire : Fld := ⟨Reg.CAP_STREAM_FIRST_QUIRE, 18, 0⟩

/-- CAP.STREAM_LAST_QUIRE.valid [31:31] RO (R319). -/
def F.CAP_STREAM_LAST_QUIRE_valid : Fld := ⟨Reg.CAP_STREAM_LAST_QUIRE, 31, 31⟩

/-- CAP.STREAM_LAST_QUIRE.quire [18:0] RO (R319). -/
def F.CAP_STREAM_LAST_QUIRE_quire : Fld := ⟨Reg.CAP_STREAM_LAST_QUIRE, 18, 0⟩

/-- CAP.STREAM_START_LO.value [31:0] RO (R312). -/
def F.CAP_STREAM_START_LO_value : Fld := ⟨Reg.CAP_STREAM_START_LO, 31, 0⟩

/-- CAP.STREAM_START_HI.value [31:0] RO (R312). -/
def F.CAP_STREAM_START_HI_value : Fld := ⟨Reg.CAP_STREAM_START_HI, 31, 0⟩

/-- CAP.STREAM_STOP_LO.value [31:0] RO (R312). -/
def F.CAP_STREAM_STOP_LO_value : Fld := ⟨Reg.CAP_STREAM_STOP_LO, 31, 0⟩

/-- CAP.STREAM_STOP_HI.value [31:0] RO (R312). -/
def F.CAP_STREAM_STOP_HI_value : Fld := ⟨Reg.CAP_STREAM_STOP_HI, 31, 0⟩

/-- CAP.STREAM_TRIG_LO.value [31:0] RO (R312). -/
def F.CAP_STREAM_TRIG_LO_value : Fld := ⟨Reg.CAP_STREAM_TRIG_LO, 31, 0⟩

/-- CAP.STREAM_TRIG_HI.value [31:0] RO (R312). -/
def F.CAP_STREAM_TRIG_HI_value : Fld := ⟨Reg.CAP_STREAM_TRIG_HI, 31, 0⟩

/-- CAP.STREAM_STORED_LO.value [31:0] RO (R312). -/
def F.CAP_STREAM_STORED_LO_value : Fld := ⟨Reg.CAP_STREAM_STORED_LO, 31, 0⟩

/-- CAP.STREAM_STORED_HI.value [31:0] RO (R312). -/
def F.CAP_STREAM_STORED_HI_value : Fld := ⟨Reg.CAP_STREAM_STORED_HI, 31, 0⟩

/-- CAP.STREAM_GAP_LO.value [31:0] RO (R312). -/
def F.CAP_STREAM_GAP_LO_value : Fld := ⟨Reg.CAP_STREAM_GAP_LO, 31, 0⟩

/-- CAP.STREAM_GAP_HI.value [31:0] RO (R312). -/
def F.CAP_STREAM_GAP_HI_value : Fld := ⟨Reg.CAP_STREAM_GAP_HI, 31, 0⟩

/-- CAP.STREAM_LOST_REC.value [31:0] RC (R312). -/
def F.CAP_STREAM_LOST_REC_value : Fld := ⟨Reg.CAP_STREAM_LOST_REC, 31, 0⟩

/-- CAP.STREAM_LOST_EVT0.ribbon [31:16] RC (R320). -/
def F.CAP_STREAM_LOST_EVT0_ribbon : Fld := ⟨Reg.CAP_STREAM_LOST_EVT0, 31, 16⟩

/-- CAP.STREAM_LOST_EVT0.trigger [15:0] RC (R320). -/
def F.CAP_STREAM_LOST_EVT0_trigger : Fld := ⟨Reg.CAP_STREAM_LOST_EVT0, 15, 0⟩

/-- CAP.STREAM_LOST_EVT1.quire_sealed [31:16] RC (R320). -/
def F.CAP_STREAM_LOST_EVT1_quire_sealed : Fld := ⟨Reg.CAP_STREAM_LOST_EVT1, 31, 16⟩

/-- CAP.STREAM_LOST_EVT1.wave_record [15:0] RC (R320). -/
def F.CAP_STREAM_LOST_EVT1_wave_record : Fld := ⟨Reg.CAP_STREAM_LOST_EVT1, 15, 0⟩

/-- CAP.STREAM_LOST_EVT2.gap [15:0] RC (R320). -/
def F.CAP_STREAM_LOST_EVT2_gap : Fld := ⟨Reg.CAP_STREAM_LOST_EVT2, 15, 0⟩

/-- CAP.STREAM_POST.post_quires [15:0] RO (R318). -/
def F.CAP_STREAM_POST_post_quires : Fld := ⟨Reg.CAP_STREAM_POST, 15, 0⟩

/-- CAP.COLL_CFG.deep_share [3:0] RW (R340). -/
def F.CAP_COLL_CFG_deep_share : Fld := ⟨Reg.CAP_COLL_CFG, 3, 0⟩

/-- CAP.COLL_STATUS.open [13:8] RO (R341). -/
def F.CAP_COLL_STATUS_open : Fld := ⟨Reg.CAP_COLL_STATUS, 13, 8⟩

/-- CAP.COLL_STATUS.busy [7:0] RO (R341). -/
def F.CAP_COLL_STATUS_busy : Fld := ⟨Reg.CAP_COLL_STATUS, 7, 0⟩

/-- CAP.COLL_EVENTS.overtaken [2:2] W1C (R342). -/
def F.CAP_COLL_EVENTS_overtaken : Fld := ⟨Reg.CAP_COLL_EVENTS, 2, 2⟩

/-- CAP.COLL_EVENTS.integrity [1:1] W1C (R342). -/
def F.CAP_COLL_EVENTS_integrity : Fld := ⟨Reg.CAP_COLL_EVENTS, 1, 1⟩

/-- CAP.COLL_EVENTS.skipped [0:0] W1C (R342). -/
def F.CAP_COLL_EVENTS_skipped : Fld := ⟨Reg.CAP_COLL_EVENTS, 0, 0⟩

/-- CAP.SESS_STATUS.state [31:30] RO (R343). -/
def F.CAP_SESS_STATUS_state : Fld := ⟨Reg.CAP_SESS_STATUS, 31, 30⟩

/-- CAP.SESS_STATUS.mode [29:29] RO (R343). -/
def F.CAP_SESS_STATUS_mode : Fld := ⟨Reg.CAP_SESS_STATUS, 29, 29⟩

/-- CAP.SESS_STATUS.on_integrity [28:28] RO (R343). -/
def F.CAP_SESS_STATUS_on_integrity : Fld := ⟨Reg.CAP_SESS_STATUS, 28, 28⟩

/-- CAP.SESS_STATUS.engine [27:25] RO (R343). -/
def F.CAP_SESS_STATUS_engine : Fld := ⟨Reg.CAP_SESS_STATUS, 27, 25⟩

/-- CAP.SESS_STATUS.dest [24:23] RO (R343). -/
def F.CAP_SESS_STATUS_dest : Fld := ⟨Reg.CAP_SESS_STATUS, 24, 23⟩

/-- CAP.SESS_STATUS.streams [22:16] RO (R343). -/
def F.CAP_SESS_STATUS_streams : Fld := ⟨Reg.CAP_SESS_STATUS, 22, 16⟩

/-- CAP.SESS_STATUS.holder [15:8] RO (R343). -/
def F.CAP_SESS_STATUS_holder : Fld := ⟨Reg.CAP_SESS_STATUS, 15, 8⟩

/-- CAP.SESS_HORIZON_LO.value [31:0] RO (R339). -/
def F.CAP_SESS_HORIZON_LO_value : Fld := ⟨Reg.CAP_SESS_HORIZON_LO, 31, 0⟩

/-- CAP.SESS_HORIZON_HI.value [31:0] RO (R339). -/
def F.CAP_SESS_HORIZON_HI_value : Fld := ⟨Reg.CAP_SESS_HORIZON_HI, 31, 0⟩

/-- CAP.SESS_RECORDS_LO.value [31:0] RO (R339). -/
def F.CAP_SESS_RECORDS_LO_value : Fld := ⟨Reg.CAP_SESS_RECORDS_LO, 31, 0⟩

/-- CAP.SESS_RECORDS_HI.value [31:0] RO (R339). -/
def F.CAP_SESS_RECORDS_HI_value : Fld := ⟨Reg.CAP_SESS_RECORDS_HI, 31, 0⟩

/-- CAP.SESS_SKIPPED.value [31:0] RC (R339). -/
def F.CAP_SESS_SKIPPED_value : Fld := ⟨Reg.CAP_SESS_SKIPPED, 31, 0⟩

/-- PRS.LANE_STATUS.state [31:28] RO (R368). -/
def F.PRS_LANE_STATUS_state : Fld := ⟨Reg.PRS_LANE_STATUS, 31, 28⟩

/-- PRS.LANE_STATUS.fault [27:24] RO (R368). -/
def F.PRS_LANE_STATUS_fault : Fld := ⟨Reg.PRS_LANE_STATUS, 27, 24⟩

/-- PRS.LANE_STATUS.holder [23:16] RO (R368). -/
def F.PRS_LANE_STATUS_holder : Fld := ⟨Reg.PRS_LANE_STATUS, 23, 16⟩

/-- PRS.LANE_STATUS.pc [8:0] RO (R368). -/
def F.PRS_LANE_STATUS_pc : Fld := ⟨Reg.PRS_LANE_STATUS, 8, 0⟩

/-- PRS.LANE_CFG.mode [31:30] RW (R369). -/
def F.PRS_LANE_CFG_mode : Fld := ⟨Reg.PRS_LANE_CFG, 31, 30⟩

/-- PRS.LANE_CFG.coding [29:26] RW (R369). -/
def F.PRS_LANE_CFG_coding : Fld := ⟨Reg.PRS_LANE_CFG, 29, 26⟩

/-- PRS.LANE_CFG.line_en [25:25] RW (R369). -/
def F.PRS_LANE_CFG_line_en : Fld := ⟨Reg.PRS_LANE_CFG, 25, 25⟩

/-- PRS.LANE_CFG.line [24:20] RW (R369). -/
def F.PRS_LANE_CFG_line : Fld := ⟨Reg.PRS_LANE_CFG, 24, 20⟩

/-- PRS.EVENTS.wr_refused [11:11] W1C (R370). -/
def F.PRS_EVENTS_wr_refused : Fld := ⟨Reg.PRS_EVENTS, 11, 11⟩

/-- PRS.EVENTS.fault [10:10] W1C (R370). -/
def F.PRS_EVENTS_fault : Fld := ⟨Reg.PRS_EVENTS, 10, 10⟩

/-- PRS.EVENTS.done [9:9] W1C (R370). -/
def F.PRS_EVENTS_done : Fld := ⟨Reg.PRS_EVENTS, 9, 9⟩

/-- PRS.EVENTS.evq_overflow [8:8] W1C (R370). -/
def F.PRS_EVENTS_evq_overflow : Fld := ⟨Reg.PRS_EVENTS, 8, 8⟩

/-- PRS.EVENTS.wait_late [7:7] W1C (R370). -/
def F.PRS_EVENTS_wait_late : Fld := ⟨Reg.PRS_EVENTS, 7, 7⟩

/-- PRS.EVENTS.miss [6:6] W1C (R370). -/
def F.PRS_EVENTS_miss : Fld := ⟨Reg.PRS_EVENTS, 6, 6⟩

/-- PRS.EVENTS.prime_short [5:5] W1C (R370). -/
def F.PRS_EVENTS_prime_short : Fld := ⟨Reg.PRS_EVENTS, 5, 5⟩

/-- PRS.EVENTS.inj_lost [4:4] W1C (R370). -/
def F.PRS_EVENTS_inj_lost : Fld := ⟨Reg.PRS_EVENTS, 4, 4⟩

/-- PRS.EVENTS.notify_lost [3:3] W1C (R370). -/
def F.PRS_EVENTS_notify_lost : Fld := ⟨Reg.PRS_EVENTS, 3, 3⟩

/-- PRS.EVENTS.relay_overflow [2:2] W1C (R370). -/
def F.PRS_EVENTS_relay_overflow : Fld := ⟨Reg.PRS_EVENTS, 2, 2⟩

/-- PRS.EVENTS.relay_resync [1:1] W1C (R370). -/
def F.PRS_EVENTS_relay_resync : Fld := ⟨Reg.PRS_EVENTS, 1, 1⟩

/-- PRS.RELAY_CFG.source [4:0] RW (R371). -/
def F.PRS_RELAY_CFG_source : Fld := ⟨Reg.PRS_RELAY_CFG, 4, 0⟩

/-- PRS.RELAY_STATUS.backlog_bits [16:0] RO (R371). -/
def F.PRS_RELAY_STATUS_backlog_bits : Fld := ⟨Reg.PRS_RELAY_STATUS, 16, 0⟩

/-- PRS.CACHE_LINES.lines [10:0] RW (R371). -/
def F.PRS_CACHE_LINES_lines : Fld := ⟨Reg.PRS_CACHE_LINES, 10, 0⟩

/-- PRS.IDLE_CFG.idle_units [10:0] RW (R371). -/
def F.PRS_IDLE_CFG_idle_units : Fld := ⟨Reg.PRS_IDLE_CFG, 10, 0⟩

/-- PRS.EVQ_DQ.value [19:0] RO (R367). -/
def F.PRS_EVQ_DQ_value : Fld := ⟨Reg.PRS_EVQ_DQ, 19, 0⟩

/-- PRS.NOTIFY_DQ.value [19:0] RO (R367). -/
def F.PRS_NOTIFY_DQ_value : Fld := ⟨Reg.PRS_NOTIFY_DQ, 19, 0⟩

/-- PRS.IDLE_PAT.value [31:0] RW (R367). -/
def F.PRS_IDLE_PAT_value : Fld := ⟨Reg.PRS_IDLE_PAT, 31, 0⟩

/-- PRS.RELAY_MATCH.value [31:0] RW (R367). -/
def F.PRS_RELAY_MATCH_value : Fld := ⟨Reg.PRS_RELAY_MATCH, 31, 0⟩

/-- PRS.SUB_NO_PROGRAM.value [31:0] RC (R367). -/
def F.PRS_SUB_NO_PROGRAM_value : Fld := ⟨Reg.PRS_SUB_NO_PROGRAM, 31, 0⟩

/-- PRS.SUB_MISS.value [31:0] RC (R367). -/
def F.PRS_SUB_MISS_value : Fld := ⟨Reg.PRS_SUB_MISS, 31, 0⟩

/-- PRS.SUB_STARVED.value [31:0] RC (R367). -/
def F.PRS_SUB_STARVED_value : Fld := ⟨Reg.PRS_SUB_STARVED, 31, 0⟩

/-- PRS.SUB_FREEZE.value [31:0] RC (R367). -/
def F.PRS_SUB_FREEZE_value : Fld := ⟨Reg.PRS_SUB_FREEZE, 31, 0⟩

/-- PRS.SUB_PLL.value [31:0] RC (R367). -/
def F.PRS_SUB_PLL_value : Fld := ⟨Reg.PRS_SUB_PLL, 31, 0⟩

/-- PRS.SUB_RELAY.value [31:0] RC (R367). -/
def F.PRS_SUB_RELAY_value : Fld := ⟨Reg.PRS_SUB_RELAY, 31, 0⟩

/-- PRS.SUB_SHAPER.value [31:0] RC (R367). -/
def F.PRS_SUB_SHAPER_value : Fld := ⟨Reg.PRS_SUB_SHAPER, 31, 0⟩

/-- PRS.SUB_MCAST.value [31:0] RC (R367). -/
def F.PRS_SUB_MCAST_value : Fld := ⟨Reg.PRS_SUB_MCAST, 31, 0⟩

/-- PRS.EVQ_DISCARDS.value [31:0] RC (R367). -/
def F.PRS_EVQ_DISCARDS_value : Fld := ⟨Reg.PRS_EVQ_DISCARDS, 31, 0⟩

/-- PRS.RELAY_DISCARDS.value [31:0] RC (R367). -/
def F.PRS_RELAY_DISCARDS_value : Fld := ⟨Reg.PRS_RELAY_DISCARDS, 31, 0⟩

/-- PRS.NOTIFY_DISCARDS.value [31:0] RC (R367). -/
def F.PRS_NOTIFY_DISCARDS_value : Fld := ⟨Reg.PRS_NOTIFY_DISCARDS, 31, 0⟩

/-- PRS.RELAY_RESYNCS.value [31:0] RC (R367). -/
def F.PRS_RELAY_RESYNCS_value : Fld := ⟨Reg.PRS_RELAY_RESYNCS, 31, 0⟩

/-- PRS.SECT_CACHE.lines_free [10:0] RO (R371). -/
def F.PRS_SECT_CACHE_lines_free : Fld := ⟨Reg.PRS_SECT_CACHE, 10, 0⟩

/-- PRS.FRM_LANE_STATUS.reserved_mc [31:31] RO (R390). -/
def F.PRS_FRM_LANE_STATUS_reserved_mc : Fld := ⟨Reg.PRS_FRM_LANE_STATUS, 31, 31⟩

/-- PRS.FRM_LANE_STATUS.cause [30:28] RO (R390). -/
def F.PRS_FRM_LANE_STATUS_cause : Fld := ⟨Reg.PRS_FRM_LANE_STATUS, 30, 28⟩

/-- PRS.FRM_LANE_STATUS.stream [15:0] RO (R390). -/
def F.PRS_FRM_LANE_STATUS_stream : Fld := ⟨Reg.PRS_FRM_LANE_STATUS, 15, 0⟩

/-- PRS.FRM_EMPTY.value [31:0] RC (R386). -/
def F.PRS_FRM_EMPTY_value : Fld := ⟨Reg.PRS_FRM_EMPTY, 31, 0⟩

/-- PRS.FRM_SKIPPED.value [31:0] RC (R386). -/
def F.PRS_FRM_SKIPPED_value : Fld := ⟨Reg.PRS_FRM_SKIPPED, 31, 0⟩

/-- PRS.FRM_FRAMES.value [31:0] RC (R386). -/
def F.PRS_FRM_FRAMES_value : Fld := ⟨Reg.PRS_FRM_FRAMES, 31, 0⟩

/-- PRS.FRM_INDEX.stream [15:0] RW (R386). -/
def F.PRS_FRM_INDEX_stream : Fld := ⟨Reg.PRS_FRM_INDEX, 15, 0⟩

/-- PRS.FRM_STATUS.state [31:28] RO (R387). -/
def F.PRS_FRM_STATUS_state : Fld := ⟨Reg.PRS_FRM_STATUS, 31, 28⟩

/-- PRS.FRM_STATUS.fault [27:24] RO (R387). -/
def F.PRS_FRM_STATUS_fault : Fld := ⟨Reg.PRS_FRM_STATUS, 27, 24⟩

/-- PRS.FRM_STATUS.holder [23:16] RO (R387). -/
def F.PRS_FRM_STATUS_holder : Fld := ⟨Reg.PRS_FRM_STATUS, 23, 16⟩

/-- PRS.FRM_STATUS.wr_refused [2:2] W1C (R387). -/
def F.PRS_FRM_STATUS_wr_refused : Fld := ⟨Reg.PRS_FRM_STATUS, 2, 2⟩

/-- PRS.FRM_STATUS.notify_lost [1:1] W1C (R387). -/
def F.PRS_FRM_STATUS_notify_lost : Fld := ⟨Reg.PRS_FRM_STATUS, 1, 1⟩

/-- PRS.FRM_STATUS.bad [0:0] W1C (R387). -/
def F.PRS_FRM_STATUS_bad : Fld := ⟨Reg.PRS_FRM_STATUS, 0, 0⟩

/-- PRS.FRM_CFG.source [31:31] RW (R388). -/
def F.PRS_FRM_CFG_source : Fld := ⟨Reg.PRS_FRM_CFG, 31, 31⟩

/-- PRS.FRM_CFG.policy [30:30] RW (R388). -/
def F.PRS_FRM_CFG_policy : Fld := ⟨Reg.PRS_FRM_CFG, 30, 30⟩

/-- PRS.FRM_CFG.priority [29:27] RW (R388). -/
def F.PRS_FRM_CFG_priority : Fld := ⟨Reg.PRS_FRM_CFG, 29, 27⟩

/-- PRS.FRM_CFG.notify_all [26:26] RW (R388). -/
def F.PRS_FRM_CFG_notify_all : Fld := ⟨Reg.PRS_FRM_CFG, 26, 26⟩

/-- PRS.FRM_CFG.mc_timeout_ns [15:0] RW (R388). -/
def F.PRS_FRM_CFG_mc_timeout_ns : Fld := ⟨Reg.PRS_FRM_CFG, 15, 0⟩

/-- PRS.FRM_TARGET.value [31:0] RW (R386). -/
def F.PRS_FRM_TARGET_value : Fld := ⟨Reg.PRS_FRM_TARGET, 31, 0⟩

/-- PRS.FRM_LIST.repeat [31:16] RW (R389). -/
def F.PRS_FRM_LIST_repeat : Fld := ⟨Reg.PRS_FRM_LIST, 31, 16⟩

/-- PRS.FRM_LIST.len_m1 [15:0] RW (R389). -/
def F.PRS_FRM_LIST_len_m1 : Fld := ⟨Reg.PRS_FRM_LIST, 15, 0⟩

/-- PRS.FRM_LIST_ADDR_LO.value [31:0] RW (R386). -/
def F.PRS_FRM_LIST_ADDR_LO_value : Fld := ⟨Reg.PRS_FRM_LIST_ADDR_LO, 31, 0⟩

/-- PRS.FRM_LIST_ADDR_HI.value [15:0] RW (R386). -/
def F.PRS_FRM_LIST_ADDR_HI_value : Fld := ⟨Reg.PRS_FRM_LIST_ADDR_HI, 15, 0⟩

/-- PRS.SHP_RATE.rate_kbps [26:0] RW (R389). -/
def F.PRS_SHP_RATE_rate_kbps : Fld := ⟨Reg.PRS_SHP_RATE, 26, 0⟩

/-- PRS.SHP_BURST.clear_debt [31:31] W1S (R389). -/
def F.PRS_SHP_BURST_clear_debt : Fld := ⟨Reg.PRS_SHP_BURST, 31, 31⟩

/-- PRS.SHP_BURST.burst [19:0] RW (R389). -/
def F.PRS_SHP_BURST_burst : Fld := ⟨Reg.PRS_SHP_BURST, 19, 0⟩

/-- PRS.SHP_LEVEL_LO.value [31:0] RO (R386). -/
def F.PRS_SHP_LEVEL_LO_value : Fld := ⟨Reg.PRS_SHP_LEVEL_LO, 31, 0⟩

/-- PRS.SHP_LEVEL_HI.value [7:0] RO (R386). -/
def F.PRS_SHP_LEVEL_HI_value : Fld := ⟨Reg.PRS_SHP_LEVEL_HI, 7, 0⟩

/-- PRS.FRM_DQ.value [19:0] RO (R386). -/
def F.PRS_FRM_DQ_value : Fld := ⟨Reg.PRS_FRM_DQ, 19, 0⟩

/-- PRS.FRM_NOTIFY_DQ.value [19:0] RO (R386). -/
def F.PRS_FRM_NOTIFY_DQ_value : Fld := ⟨Reg.PRS_FRM_NOTIFY_DQ, 19, 0⟩

/-- PRS.FRM_SENT_LO.value [31:0] RO (R386). -/
def F.PRS_FRM_SENT_LO_value : Fld := ⟨Reg.PRS_FRM_SENT_LO, 31, 0⟩

/-- PRS.FRM_SENT_HI.value [31:0] RO (R386). -/
def F.PRS_FRM_SENT_HI_value : Fld := ⟨Reg.PRS_FRM_SENT_HI, 31, 0⟩

/-- PRS.FRM_PARTIAL.value [31:0] RC (R386). -/
def F.PRS_FRM_PARTIAL_value : Fld := ⟨Reg.PRS_FRM_PARTIAL, 31, 0⟩

/-- PRS.FRM_BAD.value [31:0] RC (R386). -/
def F.PRS_FRM_BAD_value : Fld := ⟨Reg.PRS_FRM_BAD, 31, 0⟩

/-- PRS.FRM_NOTIFY_LOST.value [31:0] RC (R386). -/
def F.PRS_FRM_NOTIFY_LOST_value : Fld := ⟨Reg.PRS_FRM_NOTIFY_LOST, 31, 0⟩

/-- LANE.STATUS.state [31:28] RO (R191). -/
def F.LANE_STATUS_state : Fld := ⟨Reg.LANE_STATUS, 31, 28⟩

/-- LANE.STATUS.holder [23:16] RO (R191). -/
def F.LANE_STATUS_holder : Fld := ⟨Reg.LANE_STATUS, 23, 16⟩

/-- LANE.STATUS.fault_cause [15:12] RO (R191). -/
def F.LANE_STATUS_fault_cause : Fld := ⟨Reg.LANE_STATUS, 15, 12⟩

/-- LANE.STATUS.adapt_done [11:11] RO (R191). -/
def F.LANE_STATUS_adapt_done : Fld := ⟨Reg.LANE_STATUS, 11, 11⟩

/-- LANE.STATUS.signal_detect [10:10] RO (R191). -/
def F.LANE_STATUS_signal_detect : Fld := ⟨Reg.LANE_STATUS, 10, 10⟩

/-- LANE.STATUS.locked [9:9] RO (R191). -/
def F.LANE_STATUS_locked : Fld := ⟨Reg.LANE_STATUS, 9, 9⟩

/-- LANE.STATUS.octet_pll [8:8] RO (R191). -/
def F.LANE_STATUS_octet_pll : Fld := ⟨Reg.LANE_STATUS, 8, 8⟩

/-- LANE.CTRL.enable [31:31] RW (R192). -/
def F.LANE_CTRL_enable : Fld := ⟨Reg.LANE_CTRL, 31, 31⟩

/-- LANE.CTRL.loop [27:26] RW (R192). -/
def F.LANE_CTRL_loop : Fld := ⟨Reg.LANE_CTRL, 27, 26⟩

/-- LANE.CTRL.tx_invert [23:23] RW (R192). -/
def F.LANE_CTRL_tx_invert : Fld := ⟨Reg.LANE_CTRL, 23, 23⟩

/-- LANE.CTRL.rx_invert [22:22] RW (R192). -/
def F.LANE_CTRL_rx_invert : Fld := ⟨Reg.LANE_CTRL, 22, 22⟩

/-- LANE.RATE.modulation [31:30] RW (R193). -/
def F.LANE_RATE_modulation : Fld := ⟨Reg.LANE_RATE, 31, 30⟩

/-- LANE.RATE.div [29:27] RW (R193). -/
def F.LANE_RATE_div : Fld := ⟨Reg.LANE_RATE, 29, 27⟩

/-- LANE.RATE.ssc [26:25] RW (R193). -/
def F.LANE_RATE_ssc : Fld := ⟨Reg.LANE_RATE, 26, 25⟩

/-- LANE.MULT.mult_int [31:24] RW (R194). -/
def F.LANE_MULT_mult_int : Fld := ⟨Reg.LANE_MULT, 31, 24⟩

/-- LANE.MULT.mult_frac [23:0] RW (R194). -/
def F.LANE_MULT_mult_frac : Fld := ⟨Reg.LANE_MULT, 23, 0⟩

/-- LANE.TX_FIR.swing [23:21] RW (R195). -/
def F.LANE_TX_FIR_swing : Fld := ⟨Reg.LANE_TX_FIR, 23, 21⟩

/-- LANE.TX_FIR.post [20:16] RW (R195). -/
def F.LANE_TX_FIR_post : Fld := ⟨Reg.LANE_TX_FIR, 20, 16⟩

/-- LANE.TX_FIR.main [13:8] RW (R195). -/
def F.LANE_TX_FIR_main : Fld := ⟨Reg.LANE_TX_FIR, 13, 8⟩

/-- LANE.TX_FIR.pre [3:0] RW (R195). -/
def F.LANE_TX_FIR_pre : Fld := ⟨Reg.LANE_TX_FIR, 3, 0⟩

/-- LANE.RX_EQ.mode [1:0] RW (R196). -/
def F.LANE_RX_EQ_mode : Fld := ⟨Reg.LANE_RX_EQ, 1, 0⟩

/-- LANE.RX_COEF.sel [31:27] RW (R197). -/
def F.LANE_RX_COEF_sel : Fld := ⟨Reg.LANE_RX_COEF, 31, 27⟩

/-- LANE.RX_COEF.value [15:0] RW (R197). -/
def F.LANE_RX_COEF_value : Fld := ⟨Reg.LANE_RX_COEF, 15, 0⟩

/-- LANE.EVENTS.refuse_cause [11:8] RO (R198). -/
def F.LANE_EVENTS_refuse_cause : Fld := ⟨Reg.LANE_EVENTS, 11, 8⟩

/-- LANE.EVENTS.lock_gained [7:7] W1C (R198). -/
def F.LANE_EVENTS_lock_gained : Fld := ⟨Reg.LANE_EVENTS, 7, 7⟩

/-- LANE.EVENTS.lock_lost [6:6] W1C (R198). -/
def F.LANE_EVENTS_lock_lost : Fld := ⟨Reg.LANE_EVENTS, 6, 6⟩

/-- LANE.EVENTS.signal_lost [5:5] W1C (R198). -/
def F.LANE_EVENTS_signal_lost : Fld := ⟨Reg.LANE_EVENTS, 5, 5⟩

/-- LANE.EVENTS.unavailable [4:4] W1C (R198). -/
def F.LANE_EVENTS_unavailable : Fld := ⟨Reg.LANE_EVENTS, 4, 4⟩

/-- LANE.EVENTS.enable_refused [3:3] W1C (R198). -/
def F.LANE_EVENTS_enable_refused : Fld := ⟨Reg.LANE_EVENTS, 3, 3⟩

/-- LANE.EVENTS.wr_refused [2:2] W1C (R198). -/
def F.LANE_EVENTS_wr_refused : Fld := ⟨Reg.LANE_EVENTS, 2, 2⟩

/-- LANE.EVENTS.pll_switched [1:1] W1C (R198). -/
def F.LANE_EVENTS_pll_switched : Fld := ⟨Reg.LANE_EVENTS, 1, 1⟩

/-- LANE.LOCK_LOSS_COUNT.value [31:0] RC (R190). -/
def F.LANE_LOCK_LOSS_COUNT_value : Fld := ⟨Reg.LANE_LOCK_LOSS_COUNT, 31, 0⟩

/-- LANE.SIGNAL_LOSS_COUNT.value [31:0] RC (R190). -/
def F.LANE_SIGNAL_LOSS_COUNT_value : Fld := ⟨Reg.LANE_SIGNAL_LOSS_COUNT, 31, 0⟩

/-- LANE.OCT_STATUS.spare_ok [31:31] RO (R199). -/
def F.LANE_OCT_STATUS_spare_ok : Fld := ⟨Reg.LANE_OCT_STATUS, 31, 31⟩

/-- LANE.OCT_STATUS.running [30:30] RO (R199). -/
def F.LANE_OCT_STATUS_running : Fld := ⟨Reg.LANE_OCT_STATUS, 30, 30⟩

/-- LANE.OCT_STATUS.a_failed [29:29] RO (R199). -/
def F.LANE_OCT_STATUS_a_failed : Fld := ⟨Reg.LANE_OCT_STATUS, 29, 29⟩

/-- LANE.OCT_STATUS.b_failed [28:28] RO (R199). -/
def F.LANE_OCT_STATUS_b_failed : Fld := ⟨Reg.LANE_OCT_STATUS, 28, 28⟩

/-- LANE.OCT_STATUS.ssc [27:26] RO (R199). -/
def F.LANE_OCT_STATUS_ssc : Fld := ⟨Reg.LANE_OCT_STATUS, 27, 26⟩

/-- LANE.OCT_STATUS.in_use [25:25] RO (R199). -/
def F.LANE_OCT_STATUS_in_use : Fld := ⟨Reg.LANE_OCT_STATUS, 25, 25⟩

/-- LANE.OCT_STATUS.retuning [24:24] RO (R199). -/
def F.LANE_OCT_STATUS_retuning : Fld := ⟨Reg.LANE_OCT_STATUS, 24, 24⟩

/-- LANE.OCT_MULT.value [31:0] RO (R190). -/
def F.LANE_OCT_MULT_value : Fld := ⟨Reg.LANE_OCT_MULT, 31, 0⟩

/-- LANE.OCT_SWITCH_COUNT.value [31:0] RC (R190). -/
def F.LANE_OCT_SWITCH_COUNT_value : Fld := ⟨Reg.LANE_OCT_SWITCH_COUNT, 31, 0⟩

/-- LANE.DIG_CFG.go [31:31] W1S (R213). -/
def F.LANE_DIG_CFG_go : Fld := ⟨Reg.LANE_DIG_CFG, 31, 31⟩

/-- LANE.DIG_CFG.abort [30:30] W1S (R213). -/
def F.LANE_DIG_CFG_abort : Fld := ⟨Reg.LANE_DIG_CFG, 30, 30⟩

/-- LANE.DIG_CFG.mode [29:28] RW (R213). -/
def F.LANE_DIG_CFG_mode : Fld := ⟨Reg.LANE_DIG_CFG, 29, 28⟩

/-- LANE.DIG_CFG.range [27:26] RW (R213). -/
def F.LANE_DIG_CFG_range : Fld := ⟨Reg.LANE_DIG_CFG, 27, 26⟩

/-- LANE.DIG_CFG.avg [25:24] RW (R213). -/
def F.LANE_DIG_CFG_avg : Fld := ⟨Reg.LANE_DIG_CFG, 25, 24⟩

/-- LANE.DIG_CFG.trigger [23:23] RW (R213). -/
def F.LANE_DIG_CFG_trigger : Fld := ⟨Reg.LANE_DIG_CFG, 23, 23⟩

/-- LANE.DIG_CFG.hits [19:16] RW (R213). -/
def F.LANE_DIG_CFG_hits : Fld := ⟨Reg.LANE_DIG_CFG, 19, 16⟩

/-- LANE.DIG_CFG.stream [9:0] RW (R213). -/
def F.LANE_DIG_CFG_stream : Fld := ⟨Reg.LANE_DIG_CFG, 9, 0⟩

/-- LANE.DIG_SPAN.step [31:16] RW (R214). -/
def F.LANE_DIG_SPAN_step : Fld := ⟨Reg.LANE_DIG_SPAN, 31, 16⟩

/-- LANE.DIG_SPAN.start [15:0] RW (R214). -/
def F.LANE_DIG_SPAN_start : Fld := ⟨Reg.LANE_DIG_SPAN, 15, 0⟩

/-- LANE.DIG_COUNT.period [31:16] RW (R214). -/
def F.LANE_DIG_COUNT_period : Fld := ⟨Reg.LANE_DIG_COUNT, 31, 16⟩

/-- LANE.DIG_COUNT.points_m1 [15:0] RW (R214). -/
def F.LANE_DIG_COUNT_points_m1 : Fld := ⟨Reg.LANE_DIG_COUNT, 15, 0⟩

/-- LANE.DIG_STATUS.running [31:31] RO (R215). -/
def F.LANE_DIG_STATUS_running : Fld := ⟨Reg.LANE_DIG_STATUS, 31, 31⟩

/-- LANE.DIG_STATUS.result [27:24] RO (R215). -/
def F.LANE_DIG_STATUS_result : Fld := ⟨Reg.LANE_DIG_STATUS, 27, 24⟩

/-- LANE.DIG_STATUS.stored [23:0] RO (R215). -/
def F.LANE_DIG_STATUS_stored : Fld := ⟨Reg.LANE_DIG_STATUS, 23, 0⟩

/-- LANE.TDR_RESULT.found [31:31] RO (R216). -/
def F.LANE_TDR_RESULT_found : Fld := ⟨Reg.LANE_TDR_RESULT, 31, 31⟩

/-- LANE.TDR_RESULT.delay_qps [23:0] RO (R216). -/
def F.LANE_TDR_RESULT_delay_qps : Fld := ⟨Reg.LANE_TDR_RESULT, 23, 0⟩

/-- LANE.TDR_RHO.rho [15:0] RO (R216). -/
def F.LANE_TDR_RHO_rho : Fld := ⟨Reg.LANE_TDR_RHO, 15, 0⟩

/-- LANE.PROBE_CTRL.go [31:31] W1S (R217). -/
def F.LANE_PROBE_CTRL_go : Fld := ⟨Reg.LANE_PROBE_CTRL, 31, 31⟩

/-- LANE.PROBE_CTRL.abort [30:30] W1S (R217). -/
def F.LANE_PROBE_CTRL_abort : Fld := ⟨Reg.LANE_PROBE_CTRL, 30, 30⟩

/-- LANE.PROBE_CTRL.kind [29:28] RW (R217). -/
def F.LANE_PROBE_CTRL_kind : Fld := ⟨Reg.LANE_PROBE_CTRL, 29, 28⟩

/-- LANE.PROBE_CTRL.tdr_threshold [23:16] RW (R217). -/
def F.LANE_PROBE_CTRL_tdr_threshold : Fld := ⟨Reg.LANE_PROBE_CTRL, 23, 16⟩

/-- LANE.PROBE_CTRL.timeout_ms [9:0] RW (R217). -/
def F.LANE_PROBE_CTRL_timeout_ms : Fld := ⟨Reg.LANE_PROBE_CTRL, 9, 0⟩

/-- LANE.PROBE_STATUS.running [31:31] RO (R218). -/
def F.LANE_PROBE_STATUS_running : Fld := ⟨Reg.LANE_PROBE_STATUS, 31, 31⟩

/-- LANE.PROBE_STATUS.result [27:24] RO (R218). -/
def F.LANE_PROBE_STATUS_result : Fld := ⟨Reg.LANE_PROBE_STATUS, 27, 24⟩

/-- LANE.PROBE_STATUS.received [15:8] RO (R218). -/
def F.LANE_PROBE_STATUS_received : Fld := ⟨Reg.LANE_PROBE_STATUS, 15, 8⟩

/-- LANE.PROBE_STATUS.detect_n [7:6] RO (R218). -/
def F.LANE_PROBE_STATUS_detect_n : Fld := ⟨Reg.LANE_PROBE_STATUS, 7, 6⟩

/-- LANE.PROBE_STATUS.detect_p [5:4] RO (R218). -/
def F.LANE_PROBE_STATUS_detect_p : Fld := ⟨Reg.LANE_PROBE_STATUS, 5, 4⟩

/-- LANE.PROBE_DATA.value [31:0] RW (R212). -/
def F.LANE_PROBE_DATA_value : Fld := ⟨Reg.LANE_PROBE_DATA, 31, 0⟩

/-- SECT.INTAKE_STATUS.spare_ok [31:31] RO (R253). -/
def F.SECT_INTAKE_STATUS_spare_ok : Fld := ⟨Reg.SECT_INTAKE_STATUS, 31, 31⟩

/-- SECT.INTAKE_STATUS.failed [30:26] RO (R253). -/
def F.SECT_INTAKE_STATUS_failed : Fld := ⟨Reg.SECT_INTAKE_STATUS, 30, 26⟩

/-- SECT.INTAKE_STATUS.octet3_slice [11:9] RO (R253). -/
def F.SECT_INTAKE_STATUS_octet3_slice : Fld := ⟨Reg.SECT_INTAKE_STATUS, 11, 9⟩

/-- SECT.INTAKE_STATUS.octet2_slice [8:6] RO (R253). -/
def F.SECT_INTAKE_STATUS_octet2_slice : Fld := ⟨Reg.SECT_INTAKE_STATUS, 8, 6⟩

/-- SECT.INTAKE_STATUS.octet1_slice [5:3] RO (R253). -/
def F.SECT_INTAKE_STATUS_octet1_slice : Fld := ⟨Reg.SECT_INTAKE_STATUS, 5, 3⟩

/-- SECT.INTAKE_STATUS.octet0_slice [2:0] RO (R253). -/
def F.SECT_INTAKE_STATUS_octet0_slice : Fld := ⟨Reg.SECT_INTAKE_STATUS, 2, 0⟩

/-- SECT.INTAKE_EVENTS.wr_refused [6:6] W1C (R254). -/
def F.SECT_INTAKE_EVENTS_wr_refused : Fld := ⟨Reg.SECT_INTAKE_EVENTS, 6, 6⟩

/-- SECT.INTAKE_EVENTS.skew_range [5:5] W1C (R254). -/
def F.SECT_INTAKE_EVENTS_skew_range : Fld := ⟨Reg.SECT_INTAKE_EVENTS, 5, 5⟩

/-- SECT.INTAKE_EVENTS.deskew_lost [4:4] W1C (R254). -/
def F.SECT_INTAKE_EVENTS_deskew_lost : Fld := ⟨Reg.SECT_INTAKE_EVENTS, 4, 4⟩

/-- SECT.INTAKE_EVENTS.deskew_gained [3:3] W1C (R254). -/
def F.SECT_INTAKE_EVENTS_deskew_gained : Fld := ⟨Reg.SECT_INTAKE_EVENTS, 3, 3⟩

/-- SECT.INTAKE_EVENTS.fec_uncorrectable [2:2] W1C (R254). -/
def F.SECT_INTAKE_EVENTS_fec_uncorrectable : Fld := ⟨Reg.SECT_INTAKE_EVENTS, 2, 2⟩

/-- SECT.INTAKE_EVENTS.slice_failed [1:1] W1C (R254). -/
def F.SECT_INTAKE_EVENTS_slice_failed : Fld := ⟨Reg.SECT_INTAKE_EVENTS, 1, 1⟩

/-- SECT.INTAKE_EVENTS.slice_switched [0:0] W1C (R254). -/
def F.SECT_INTAKE_EVENTS_slice_switched : Fld := ⟨Reg.SECT_INTAKE_EVENTS, 0, 0⟩

/-- SECT.SLICE_SWITCH_COUNT.value [31:0] RC (R247). -/
def F.SECT_SLICE_SWITCH_COUNT_value : Fld := ⟨Reg.SECT_SLICE_SWITCH_COUNT, 31, 0⟩

/-- SECT.LANE_CFG.coding [31:28] RW (R248). -/
def F.SECT_LANE_CFG_coding : Fld := ⟨Reg.SECT_LANE_CFG, 31, 28⟩

/-- SECT.LANE_CFG.fec_annotate [27:27] RW (R248). -/
def F.SECT_LANE_CFG_fec_annotate : Fld := ⟨Reg.SECT_LANE_CFG, 27, 27⟩

/-- SECT.LANE_CFG.fec_interleave [26:26] RW (R248). -/
def F.SECT_LANE_CFG_fec_interleave : Fld := ⟨Reg.SECT_LANE_CFG, 26, 26⟩

/-- SECT.LANE_CFG.idle_suppress [25:25] RW (R248). -/
def F.SECT_LANE_CFG_idle_suppress : Fld := ⟨Reg.SECT_LANE_CFG, 25, 25⟩

/-- SECT.LANE_CFG.unaligned [24:24] RW (R248). -/
def F.SECT_LANE_CFG_unaligned : Fld := ⟨Reg.SECT_LANE_CFG, 24, 24⟩

/-- SECT.LANE_CFG.min_run [15:0] RW (R248). -/
def F.SECT_LANE_CFG_min_run : Fld := ⟨Reg.SECT_LANE_CFG, 15, 0⟩

/-- SECT.COMMA_CFG.k28_1 [31:31] RW (R249). -/
def F.SECT_COMMA_CFG_k28_1 : Fld := ⟨Reg.SECT_COMMA_CFG, 31, 31⟩

/-- SECT.COMMA_CFG.k28_5 [30:30] RW (R249). -/
def F.SECT_COMMA_CFG_k28_5 : Fld := ⟨Reg.SECT_COMMA_CFG, 30, 30⟩

/-- SECT.COMMA_CFG.k28_7 [29:29] RW (R249). -/
def F.SECT_COMMA_CFG_k28_7 : Fld := ⟨Reg.SECT_COMMA_CFG, 29, 29⟩

/-- SECT.COMMA_CFG.user [28:28] RW (R249). -/
def F.SECT_COMMA_CFG_user : Fld := ⟨Reg.SECT_COMMA_CFG, 28, 28⟩

/-- SECT.COMMA_CFG.user_mask [19:10] RW (R249). -/
def F.SECT_COMMA_CFG_user_mask : Fld := ⟨Reg.SECT_COMMA_CFG, 19, 10⟩

/-- SECT.COMMA_CFG.user_pattern [9:0] RW (R249). -/
def F.SECT_COMMA_CFG_user_pattern : Fld := ⟨Reg.SECT_COMMA_CFG, 9, 0⟩

/-- SECT.DESKEW_CFG.k_flag [31:31] RW (R250). -/
def F.SECT_DESKEW_CFG_k_flag : Fld := ⟨Reg.SECT_DESKEW_CFG, 31, 31⟩

/-- SECT.DESKEW_CFG.mask [23:16] RW (R250). -/
def F.SECT_DESKEW_CFG_mask : Fld := ⟨Reg.SECT_DESKEW_CFG, 23, 16⟩

/-- SECT.DESKEW_CFG.value [7:0] RW (R250). -/
def F.SECT_DESKEW_CFG_value : Fld := ⟨Reg.SECT_DESKEW_CFG, 7, 0⟩

/-- SECT.ISTATUS.aligned [31:31] RO (R251). -/
def F.SECT_ISTATUS_aligned : Fld := ⟨Reg.SECT_ISTATUS, 31, 31⟩

/-- SECT.ISTATUS.deskewed [30:30] RO (R251). -/
def F.SECT_ISTATUS_deskewed : Fld := ⟨Reg.SECT_ISTATUS, 30, 30⟩

/-- SECT.ISTATUS.in_run [29:29] RO (R251). -/
def F.SECT_ISTATUS_in_run : Fld := ⟨Reg.SECT_ISTATUS, 29, 29⟩

/-- SECT.ISTATUS.in_gap [28:28] RO (R251). -/
def F.SECT_ISTATUS_in_gap : Fld := ⟨Reg.SECT_ISTATUS, 28, 28⟩

/-- SECT.ISTATUS.member [27:24] RO (R251). -/
def F.SECT_ISTATUS_member : Fld := ⟨Reg.SECT_ISTATUS, 27, 24⟩

/-- SECT.ISTATUS.bundle [23:20] RO (R251). -/
def F.SECT_ISTATUS_bundle : Fld := ⟨Reg.SECT_ISTATUS, 23, 20⟩

/-- SECT.ISTATUS.bundled [19:19] RO (R251). -/
def F.SECT_ISTATUS_bundled : Fld := ⟨Reg.SECT_ISTATUS, 19, 19⟩

/-- SECT.ISTATUS.slice [18:16] RO (R251). -/
def F.SECT_ISTATUS_slice : Fld := ⟨Reg.SECT_ISTATUS, 18, 16⟩

/-- SECT.ISTATUS.deskew_ticks [9:0] RO (R251). -/
def F.SECT_ISTATUS_deskew_ticks : Fld := ⟨Reg.SECT_ISTATUS, 9, 0⟩

/-- SECT.FEC_CORR_CW.value [31:0] RC (R247). -/
def F.SECT_FEC_CORR_CW_value : Fld := ⟨Reg.SECT_FEC_CORR_CW, 31, 0⟩

/-- SECT.FEC_UNCORR_CW.value [31:0] RC (R247). -/
def F.SECT_FEC_UNCORR_CW_value : Fld := ⟨Reg.SECT_FEC_UNCORR_CW, 31, 0⟩

/-- SECT.FEC_CORR_SYM.value [31:0] RC (R247). -/
def F.SECT_FEC_CORR_SYM_value : Fld := ⟨Reg.SECT_FEC_CORR_SYM, 31, 0⟩

/-- SECT.INVALID_COUNT.value [31:0] RC (R247). -/
def F.SECT_INVALID_COUNT_value : Fld := ⟨Reg.SECT_INVALID_COUNT, 31, 0⟩

/-- SECT.BUNDLE_MEMBERS.value [31:0] RO (R247). -/
def F.SECT_BUNDLE_MEMBERS_value : Fld := ⟨Reg.SECT_BUNDLE_MEMBERS, 31, 0⟩

/-- SECT.BUNDLE_STATUS.active [31:31] RO (R252). -/
def F.SECT_BUNDLE_STATUS_active : Fld := ⟨Reg.SECT_BUNDLE_STATUS, 31, 31⟩

/-- SECT.BUNDLE_STATUS.deskewed [30:30] RO (R252). -/
def F.SECT_BUNDLE_STATUS_deskewed : Fld := ⟨Reg.SECT_BUNDLE_STATUS, 30, 30⟩

/-- SECT.BUNDLE_STATUS.stream [25:16] RO (R252). -/
def F.SECT_BUNDLE_STATUS_stream : Fld := ⟨Reg.SECT_BUNDLE_STATUS, 25, 16⟩

/-- SECT.BUNDLE_STATUS.size_m1 [15:12] RO (R252). -/
def F.SECT_BUNDLE_STATUS_size_m1 : Fld := ⟨Reg.SECT_BUNDLE_STATUS, 15, 12⟩

/-- SECT.BUNDLE_STATUS.skew_ticks [9:0] RO (R252). -/
def F.SECT_BUNDLE_STATUS_skew_ticks : Fld := ⟨Reg.SECT_BUNDLE_STATUS, 9, 0⟩

/-- SECT.MATCH_CFG.enable [31:31] RW (R278). -/
def F.SECT_MATCH_CFG_enable : Fld := ⟨Reg.SECT_MATCH_CFG, 31, 31⟩

/-- SECT.MATCH_CFG.src [30:30] RW (R278). -/
def F.SECT_MATCH_CFG_src : Fld := ⟨Reg.SECT_MATCH_CFG, 30, 30⟩

/-- SECT.MATCH_CFG.scope [29:29] RW (R278). -/
def F.SECT_MATCH_CFG_scope : Fld := ⟨Reg.SECT_MATCH_CFG, 29, 29⟩

/-- SECT.MATCH_CFG.invert [28:28] RW (R278). -/
def F.SECT_MATCH_CFG_invert : Fld := ⟨Reg.SECT_MATCH_CFG, 28, 28⟩

/-- SECT.MATCH_CFG.kind [27:24] RW (R278). -/
def F.SECT_MATCH_CFG_kind : Fld := ⟨Reg.SECT_MATCH_CFG, 27, 24⟩

/-- SECT.MATCH_CFG.lane [20:16] RW (R278). -/
def F.SECT_MATCH_CFG_lane : Fld := ⟨Reg.SECT_MATCH_CFG, 20, 16⟩

/-- SECT.MATCH_CFG.offset [7:0] RW (R278). -/
def F.SECT_MATCH_CFG_offset : Fld := ⟨Reg.SECT_MATCH_CFG, 7, 0⟩

/-- SECT.MATCH_VALUE.value [31:0] RW (R277). -/
def F.SECT_MATCH_VALUE_value : Fld := ⟨Reg.SECT_MATCH_VALUE, 31, 0⟩

/-- SECT.MATCH_MASK.value [31:0] RW (R277). -/
def F.SECT_MATCH_MASK_value : Fld := ⟨Reg.SECT_MATCH_MASK, 31, 0⟩

/-- SECT.MATCH_COUNT.value [31:0] RC (R277). -/
def F.SECT_MATCH_COUNT_value : Fld := ⟨Reg.SECT_MATCH_COUNT, 31, 0⟩

/-- SECT.CNT_CFG.enable [31:31] RW (R279). -/
def F.SECT_CNT_CFG_enable : Fld := ⟨Reg.SECT_CNT_CFG, 31, 31⟩

/-- SECT.CNT_CFG.mode [30:29] RW (R279). -/
def F.SECT_CNT_CFG_mode : Fld := ⟨Reg.SECT_CNT_CFG, 30, 29⟩

/-- SECT.CNT_CFG.auto_clear [28:28] RW (R279). -/
def F.SECT_CNT_CFG_auto_clear : Fld := ⟨Reg.SECT_CNT_CFG, 28, 28⟩

/-- SECT.CNT_CFG.source [6:0] RW (R279). -/
def F.SECT_CNT_CFG_source : Fld := ⟨Reg.SECT_CNT_CFG, 6, 0⟩

/-- SECT.CNT_COMPARE.value [31:0] RW (R277). -/
def F.SECT_CNT_COMPARE_value : Fld := ⟨Reg.SECT_CNT_COMPARE, 31, 0⟩

/-- SECT.CNT_VALUE.value [31:0] RWC (R277). -/
def F.SECT_CNT_VALUE_value : Fld := ⟨Reg.SECT_CNT_VALUE, 31, 0⟩

/-- SECT.TAP_CFG.enable [31:31] RW (R280). -/
def F.SECT_TAP_CFG_enable : Fld := ⟨Reg.SECT_TAP_CFG, 31, 31⟩

/-- SECT.TAP_CFG.src [30:30] RW (R280). -/
def F.SECT_TAP_CFG_src : Fld := ⟨Reg.SECT_TAP_CFG, 30, 30⟩

/-- SECT.TAP_CFG.tap_lane [4:0] RW (R280). -/
def F.SECT_TAP_CFG_tap_lane : Fld := ⟨Reg.SECT_TAP_CFG, 4, 0⟩

/-- SECT.TRIG_EVENTS.arm_refused [4:4] W1C (R281). -/
def F.SECT_TRIG_EVENTS_arm_refused : Fld := ⟨Reg.SECT_TRIG_EVENTS, 4, 4⟩

/-- SECT.TRIG_EVENTS.wr_refused [3:3] W1C (R281). -/
def F.SECT_TRIG_EVENTS_wr_refused : Fld := ⟨Reg.SECT_TRIG_EVENTS, 3, 3⟩

/-- SECT.TRIG_EVENTS.tap_discard [2:2] W1C (R281). -/
def F.SECT_TRIG_EVENTS_tap_discard : Fld := ⟨Reg.SECT_TRIG_EVENTS, 2, 2⟩

/-- SECT.TRIG_EVENTS.ribbon_suppressed [1:1] W1C (R281). -/
def F.SECT_TRIG_EVENTS_ribbon_suppressed : Fld := ⟨Reg.SECT_TRIG_EVENTS, 1, 1⟩

/-- SECT.TRIG_EVENTS.late [0:0] W1C (R281). -/
def F.SECT_TRIG_EVENTS_late : Fld := ⟨Reg.SECT_TRIG_EVENTS, 0, 0⟩

/-- SECT.TRIG_LATE.value [31:0] RC (R277). -/
def F.SECT_TRIG_LATE_value : Fld := ⟨Reg.SECT_TRIG_LATE, 31, 0⟩

/-- SECT.TAP_DISCARDS.value [31:0] RC (R277). -/
def F.SECT_TAP_DISCARDS_value : Fld := ⟨Reg.SECT_TAP_DISCARDS, 31, 0⟩

/-- SECT.RIBBON_SUPPRESSED.value [31:0] RC (R277). -/
def F.SECT_RIBBON_SUPPRESSED_value : Fld := ⟨Reg.SECT_RIBBON_SUPPRESSED, 31, 0⟩

/-- SECT.SEQ_CTRL.arm [31:31] W1S (R282). -/
def F.SECT_SEQ_CTRL_arm : Fld := ⟨Reg.SECT_SEQ_CTRL, 31, 31⟩

/-- SECT.SEQ_CTRL.disarm [30:30] W1S (R282). -/
def F.SECT_SEQ_CTRL_disarm : Fld := ⟨Reg.SECT_SEQ_CTRL, 30, 30⟩

/-- SECT.SEQ_CTRL.sw_cond [29:29] W1S (R282). -/
def F.SECT_SEQ_CTRL_sw_cond : Fld := ⟨Reg.SECT_SEQ_CTRL, 29, 29⟩

/-- SECT.SEQ_CTRL.final_mask [23:16] RW (R282). -/
def F.SECT_SEQ_CTRL_final_mask : Fld := ⟨Reg.SECT_SEQ_CTRL, 23, 16⟩

/-- SECT.SEQ_STATUS.armed [31:31] RO (R283). -/
def F.SECT_SEQ_STATUS_armed : Fld := ⟨Reg.SECT_SEQ_STATUS, 31, 31⟩

/-- SECT.SEQ_STATUS.state [26:24] RO (R283). -/
def F.SECT_SEQ_STATUS_state : Fld := ⟨Reg.SECT_SEQ_STATUS, 26, 24⟩

/-- SECT.SEQ_STATUS.refuse_cause [23:20] RO (R283). -/
def F.SECT_SEQ_STATUS_refuse_cause : Fld := ⟨Reg.SECT_SEQ_STATUS, 23, 20⟩

/-- SECT.SEQ_STATUS.fire_count [15:0] RO (R283). -/
def F.SECT_SEQ_STATUS_fire_count : Fld := ⟨Reg.SECT_SEQ_STATUS, 15, 0⟩

/-- SECT.SEQ_TARGET.all [31:31] RW (R284). -/
def F.SECT_SEQ_TARGET_all : Fld := ⟨Reg.SECT_SEQ_TARGET, 31, 31⟩

/-- SECT.SEQ_TARGET.stream [9:0] RW (R284). -/
def F.SECT_SEQ_TARGET_stream : Fld := ⟨Reg.SECT_SEQ_TARGET, 9, 0⟩

/-- SECT.ARC_COND.enable [31:31] RW (R285). -/
def F.SECT_ARC_COND_enable : Fld := ⟨Reg.SECT_ARC_COND, 31, 31⟩

/-- SECT.ARC_COND.op [30:29] RW (R285). -/
def F.SECT_ARC_COND_op : Fld := ⟨Reg.SECT_ARC_COND, 30, 29⟩

/-- SECT.ARC_COND.target [28:26] RW (R285). -/
def F.SECT_ARC_COND_target : Fld := ⟨Reg.SECT_ARC_COND, 28, 26⟩

/-- SECT.ARC_COND.neg_b [15:15] RW (R285). -/
def F.SECT_ARC_COND_neg_b : Fld := ⟨Reg.SECT_ARC_COND, 15, 15⟩

/-- SECT.ARC_COND.cond_b [14:8] RW (R285). -/
def F.SECT_ARC_COND_cond_b : Fld := ⟨Reg.SECT_ARC_COND, 14, 8⟩

/-- SECT.ARC_COND.neg_a [7:7] RW (R285). -/
def F.SECT_ARC_COND_neg_a : Fld := ⟨Reg.SECT_ARC_COND, 7, 7⟩

/-- SECT.ARC_COND.cond_a [6:0] RW (R285). -/
def F.SECT_ARC_COND_cond_a : Fld := ⟨Reg.SECT_ARC_COND, 6, 0⟩

/-- SECT.ARC_ACTION.ribbon [31:31] RW (R286). -/
def F.SECT_ARC_ACTION_ribbon : Fld := ⟨Reg.SECT_ARC_ACTION, 31, 31⟩

/-- SECT.ARC_ACTION.line_en [30:30] RW (R286). -/
def F.SECT_ARC_ACTION_line_en : Fld := ⟨Reg.SECT_ARC_ACTION, 30, 30⟩

/-- SECT.ARC_ACTION.line [29:25] RW (R286). -/
def F.SECT_ARC_ACTION_line : Fld := ⟨Reg.SECT_ARC_ACTION, 29, 25⟩

/-- SECT.ARC_ACTION.press_en [24:24] RW (R286). -/
def F.SECT_ARC_ACTION_press_en : Fld := ⟨Reg.SECT_ARC_ACTION, 24, 24⟩

/-- SECT.ARC_ACTION.press_lane [23:19] RW (R286). -/
def F.SECT_ARC_ACTION_press_lane : Fld := ⟨Reg.SECT_ARC_ACTION, 23, 19⟩

/-- SECT.ARC_ACTION.inc_en [18:18] RW (R286). -/
def F.SECT_ARC_ACTION_inc_en : Fld := ⟨Reg.SECT_ARC_ACTION, 18, 18⟩

/-- SECT.ARC_ACTION.inc_cnt [17:14] RW (R286). -/
def F.SECT_ARC_ACTION_inc_cnt : Fld := ⟨Reg.SECT_ARC_ACTION, 17, 14⟩

/-- SECT.ARC_ACTION.clr_en [13:13] RW (R286). -/
def F.SECT_ARC_ACTION_clr_en : Fld := ⟨Reg.SECT_ARC_ACTION, 13, 13⟩

/-- SECT.ARC_ACTION.clr_cnt [12:9] RW (R286). -/
def F.SECT_ARC_ACTION_clr_cnt : Fld := ⟨Reg.SECT_ARC_ACTION, 12, 9⟩

/-- SECT.ARC_ACTION.gate_open [8:8] RW (R286). -/
def F.SECT_ARC_ACTION_gate_open : Fld := ⟨Reg.SECT_ARC_ACTION, 8, 8⟩

/-- SECT.ARC_ACTION.gate_close [7:7] RW (R286). -/
def F.SECT_ARC_ACTION_gate_close : Fld := ⟨Reg.SECT_ARC_ACTION, 7, 7⟩

/-- SECT.ARC_CODE.value [31:0] RW (R277). -/
def F.SECT_ARC_CODE_value : Fld := ⟨Reg.SECT_ARC_CODE, 31, 0⟩

/-- SECT.ARC_ARG.ticks [23:0] RW (R287). -/
def F.SECT_ARC_ARG_ticks : Fld := ⟨Reg.SECT_ARC_ARG, 23, 0⟩

/-- SGC.STATUS.state [31:28] RO (R511). -/
def F.SGC_STATUS_state : Fld := ⟨Reg.SGC_STATUS, 31, 28⟩

/-- SGC.STATUS.fault_cause [27:24] RO (R511). -/
def F.SGC_STATUS_fault_cause : Fld := ⟨Reg.SGC_STATUS, 27, 24⟩

/-- SGC.STATUS.holder [23:16] RO (R511). -/
def F.SGC_STATUS_holder : Fld := ⟨Reg.SGC_STATUS, 23, 16⟩

/-- SGC.STATUS.ie [15:15] RO (R511). -/
def F.SGC_STATUS_ie : Fld := ⟨Reg.SGC_STATUS, 15, 15⟩

/-- SGC.STATUS.exl [14:14] RO (R511). -/
def F.SGC_STATUS_exl : Fld := ⟨Reg.SGC_STATUS, 14, 14⟩

/-- SGC.STATUS.task_held [13:13] RO (R511). -/
def F.SGC_STATUS_task_held : Fld := ⟨Reg.SGC_STATUS, 13, 13⟩

/-- SGC.STATUS.pc [12:0] RO (R511). -/
def F.SGC_STATUS_pc : Fld := ⟨Reg.SGC_STATUS, 12, 0⟩

/-- SGC.EVENTS.wr_refused [3:3] W1C (R512). -/
def F.SGC_EVENTS_wr_refused : Fld := ⟨Reg.SGC_EVENTS, 3, 3⟩

/-- SGC.EVENTS.core_failed [2:2] W1C (R512). -/
def F.SGC_EVENTS_core_failed : Fld := ⟨Reg.SGC_EVENTS, 2, 2⟩

/-- SGC.EVENTS.faulted [1:1] W1C (R512). -/
def F.SGC_EVENTS_faulted : Fld := ⟨Reg.SGC_EVENTS, 1, 1⟩

/-- SGC.EVENTS.dmem_ue [0:0] W1C (R512). -/
def F.SGC_EVENTS_dmem_ue : Fld := ⟨Reg.SGC_EVENTS, 0, 0⟩

/-- SGC.TASK_CFG.task_base [14:0] RW (R513). -/
def F.SGC_TASK_CFG_task_base : Fld := ⟨Reg.SGC_TASK_CFG, 14, 0⟩

/-- SGC.COLL_CFG.unpack [31:31] RW (R514). -/
def F.SGC_COLL_CFG_unpack : Fld := ⟨Reg.SGC_COLL_CFG, 31, 31⟩

/-- SGC.COLL_CFG.shift2 [30:30] RW (R514). -/
def F.SGC_COLL_CFG_shift2 : Fld := ⟨Reg.SGC_COLL_CFG, 30, 30⟩

/-- SGC.COLL_CFG.slots [27:15] RW (R514). -/
def F.SGC_COLL_CFG_slots : Fld := ⟨Reg.SGC_COLL_CFG, 27, 15⟩

/-- SGC.COLL_CFG.ring_base [14:0] RW (R514). -/
def F.SGC_COLL_CFG_ring_base : Fld := ⟨Reg.SGC_COLL_CFG, 14, 0⟩

/-- SGC.VECTOR.base [12:0] RW (R513). -/
def F.SGC_VECTOR_base : Fld := ⟨Reg.SGC_VECTOR, 12, 0⟩

/-- SGC.EXC_INFO.cause [31:28] RO (R515). -/
def F.SGC_EXC_INFO_cause : Fld := ⟨Reg.SGC_EXC_INFO, 31, 28⟩

/-- SGC.EXC_INFO.slot [27:26] RO (R515). -/
def F.SGC_EXC_INFO_slot : Fld := ⟨Reg.SGC_EXC_INFO, 27, 26⟩

/-- SGC.EXC_INFO.in_repeat [25:25] RO (R515). -/
def F.SGC_EXC_INFO_in_repeat : Fld := ⟨Reg.SGC_EXC_INFO, 25, 25⟩

/-- SGC.EXC_INFO.epc [12:0] RO (R515). -/
def F.SGC_EXC_INFO_epc : Fld := ⟨Reg.SGC_EXC_INFO, 12, 0⟩

/-- SGC.BANK_STALLS.value [31:0] RC (R510). -/
def F.SGC_BANK_STALLS_value : Fld := ⟨Reg.SGC_BANK_STALLS, 31, 0⟩

/-- SGC.DMA_WAIT.value [31:0] RC (R510). -/
def F.SGC_DMA_WAIT_value : Fld := ⟨Reg.SGC_DMA_WAIT, 31, 0⟩

/-- SGC.TASKS_DONE.value [31:0] RC (R510). -/
def F.SGC_TASKS_DONE_value : Fld := ⟨Reg.SGC_TASKS_DONE, 31, 0⟩

/-- SGC.IMEM_CE.value [31:0] RC (R510). -/
def F.SGC_IMEM_CE_value : Fld := ⟨Reg.SGC_IMEM_CE, 31, 0⟩

/-- SGC.DMEM_CE.value [31:0] RC (R510). -/
def F.SGC_DMEM_CE_value : Fld := ⟨Reg.SGC_DMEM_CE, 31, 0⟩

/-- FAB.SECT_STATUS.holder [31:24] RO (R164). -/
def F.FAB_SECT_STATUS_holder : Fld := ⟨Reg.FAB_SECT_STATUS, 31, 24⟩

/-- FAB.SECT_STATUS.ep_live [19:16] RO (R164). -/
def F.FAB_SECT_STATUS_ep_live : Fld := ⟨Reg.FAB_SECT_STATUS, 19, 16⟩

/-- FAB.SECT_STATUS.power [11:10] RO (R164). -/
def F.FAB_SECT_STATUS_power : Fld := ⟨Reg.FAB_SECT_STATUS, 11, 10⟩

/-- FAB.SECT_STATUS.state [3:0] RO (R164). -/
def F.FAB_SECT_STATUS_state : Fld := ⟨Reg.FAB_SECT_STATUS, 3, 0⟩

/-- FAB.SECT_CTRL.require_signed [0:0] RW (R165). -/
def F.FAB_SECT_CTRL_require_signed : Fld := ⟨Reg.FAB_SECT_CTRL, 0, 0⟩

/-- FAB.SECT_EVENTS.wr_refused [5:5] W1C (R166). -/
def F.FAB_SECT_EVENTS_wr_refused : Fld := ⟨Reg.FAB_SECT_EVENTS, 5, 5⟩

/-- FAB.SECT_EVENTS.attach_discard [4:4] W1C (R166). -/
def F.FAB_SECT_EVENTS_attach_discard : Fld := ⟨Reg.FAB_SECT_EVENTS, 4, 4⟩

/-- FAB.SECT_EVENTS.load_failed [3:3] W1C (R166). -/
def F.FAB_SECT_EVENTS_load_failed : Fld := ⟨Reg.FAB_SECT_EVENTS, 3, 3⟩

/-- FAB.SECT_EVENTS.loaded [2:2] W1C (R166). -/
def F.FAB_SECT_EVENTS_loaded : Fld := ⟨Reg.FAB_SECT_EVENTS, 2, 2⟩

/-- FAB.SECT_EVENTS.released [1:1] W1C (R166). -/
def F.FAB_SECT_EVENTS_released : Fld := ⟨Reg.FAB_SECT_EVENTS, 1, 1⟩

/-- FAB.SECT_EVENTS.stopped [0:0] W1C (R166). -/
def F.FAB_SECT_EVENTS_stopped : Fld := ⟨Reg.FAB_SECT_EVENTS, 0, 0⟩

/-- FAB.ATTACH_DISCARDS.value [31:0] RC (R163). -/
def F.FAB_ATTACH_DISCARDS_value : Fld := ⟨Reg.FAB_ATTACH_DISCARDS, 31, 0⟩

/-- FAB.RCLK_CTRL.enable [31:31] RW (R167). -/
def F.FAB_RCLK_CTRL_enable : Fld := ⟨Reg.FAB_RCLK_CTRL, 31, 31⟩

/-- FAB.RCLK_CTRL.use [15:14] RW (R167). -/
def F.FAB_RCLK_CTRL_use : Fld := ⟨Reg.FAB_RCLK_CTRL, 15, 14⟩

/-- FAB.RCLK_CTRL.div [13:12] RW (R167). -/
def F.FAB_RCLK_CTRL_div : Fld := ⟨Reg.FAB_RCLK_CTRL, 13, 12⟩

/-- FAB.RCLK_CTRL.sel_b [9:5] RW (R167). -/
def F.FAB_RCLK_CTRL_sel_b : Fld := ⟨Reg.FAB_RCLK_CTRL, 9, 5⟩

/-- FAB.RCLK_CTRL.sel_a [4:0] RW (R167). -/
def F.FAB_RCLK_CTRL_sel_a : Fld := ⟨Reg.FAB_RCLK_CTRL, 4, 0⟩

/-- FAB.RCLK_STATUS.pending [31:16] RO (R168). -/
def F.FAB_RCLK_STATUS_pending : Fld := ⟨Reg.FAB_RCLK_STATUS, 31, 16⟩

/-- FAB.RCLK_STATUS.running [15:0] RO (R168). -/
def F.FAB_RCLK_STATUS_running : Fld := ⟨Reg.FAB_RCLK_STATUS, 15, 0⟩

/-- FAB.MEM_CTRL.scrub_enable [31:31] RW (R146). -/
def F.FAB_MEM_CTRL_scrub_enable : Fld := ⟨Reg.FAB_MEM_CTRL, 31, 31⟩

/-- FAB.MEM_CTRL.scrub_period [19:16] RW (R146). -/
def F.FAB_MEM_CTRL_scrub_period : Fld := ⟨Reg.FAB_MEM_CTRL, 19, 16⟩

/-- FAB.MEM_STATUS.ue_seen [31:31] W1C (R147). -/
def F.FAB_MEM_STATUS_ue_seen : Fld := ⟨Reg.FAB_MEM_STATUS, 31, 31⟩

/-- FAB.MEM_STATUS.ce_seen [30:30] W1C (R147). -/
def F.FAB_MEM_STATUS_ce_seen : Fld := ⟨Reg.FAB_MEM_STATUS, 30, 30⟩

/-- FAB.MEM_STATUS.inject_lost [29:29] W1C (R147). -/
def F.FAB_MEM_STATUS_inject_lost : Fld := ⟨Reg.FAB_MEM_STATUS, 29, 29⟩

/-- FAB.MEM_STATUS.inject_refused [28:28] W1C (R147). -/
def F.FAB_MEM_STATUS_inject_refused : Fld := ⟨Reg.FAB_MEM_STATUS, 28, 28⟩

/-- FAB.MEM_STATUS.last_mem [22:16] RO (R147). -/
def F.FAB_MEM_STATUS_last_mem : Fld := ⟨Reg.FAB_MEM_STATUS, 22, 16⟩

/-- FAB.MEM_STATUS.last_by_scrub [15:15] RO (R147). -/
def F.FAB_MEM_STATUS_last_by_scrub : Fld := ⟨Reg.FAB_MEM_STATUS, 15, 15⟩

/-- FAB.MEM_STATUS.last_addr [14:0] RO (R147). -/
def F.FAB_MEM_STATUS_last_addr : Fld := ⟨Reg.FAB_MEM_STATUS, 14, 0⟩

/-- FAB.MEM_CE_COUNT.value [31:0] RC (R145). -/
def F.FAB_MEM_CE_COUNT_value : Fld := ⟨Reg.FAB_MEM_CE_COUNT, 31, 0⟩

/-- FAB.MEM_UE_COUNT.value [31:0] RC (R145). -/
def F.FAB_MEM_UE_COUNT_value : Fld := ⟨Reg.FAB_MEM_UE_COUNT, 31, 0⟩

/-- FAB.MEM_INJECT.go [31:31] W1S (R148). -/
def F.FAB_MEM_INJECT_go : Fld := ⟨Reg.FAB_MEM_INJECT, 31, 31⟩

/-- FAB.MEM_INJECT.double [30:30] RW (R148). -/
def F.FAB_MEM_INJECT_double : Fld := ⟨Reg.FAB_MEM_INJECT, 30, 30⟩

/-- FAB.MEM_INJECT.mem [29:23] RW (R148). -/
def F.FAB_MEM_INJECT_mem : Fld := ⟨Reg.FAB_MEM_INJECT, 29, 23⟩

/-- FAB.MEM_INJECT.bit [22:17] RW (R148). -/
def F.FAB_MEM_INJECT_bit : Fld := ⟨Reg.FAB_MEM_INJECT, 22, 17⟩

/-- FAB.MEM_INJECT.addr [14:0] RW (R148). -/
def F.FAB_MEM_INJECT_addr : Fld := ⟨Reg.FAB_MEM_INJECT, 14, 0⟩

/-! The named values of the enumerated fields, as the field tables give them. -/

abbrev V.GLB_STATE_state_CONFIGURING : Nat := 0
abbrev V.GLB_STATE_state_SERVICE : Nat := 1
abbrev V.GLB_STATE_state_SERVICE_DEGRADED : Nat := 2
abbrev V.GLB_STATE_state_HALTED : Nat := 3
abbrev V.GLB_ERR_INFO_kind_NONE : Nat := 0
abbrev V.GLB_ERR_INFO_kind_BAD_ENCODING : Nat := 1
abbrev V.GLB_ERR_INFO_kind_LOST_WRITE : Nat := 2
abbrev V.GLB_ERR_INFO_kind_LOCKED_WRITE : Nat := 3
abbrev V.GLB_ERR_INFO_kind_RSV_WRITE : Nat := 4
abbrev V.GLB_ERR_INFO_kind_UNMAPPED_WRITE : Nat := 5
abbrev V.GLB_ERR_INFO_kind_BAD_ACCESS : Nat := 6
abbrev V.GLB_ERR_INFO_path_BAR0 : Nat := 0
abbrev V.GLB_ERR_INFO_path_DESCRIPTOR : Nat := 1
abbrev V.GLB_ERR_INFO_path_DEBUGGER : Nat := 2
abbrev V.GLB_ERR_INFO_path_MANAGEMENT : Nat := 3
abbrev V.CLK_REF_CTRL_revert_MANUAL : Nat := 0
abbrev V.CLK_REF_CTRL_revert_AUTO : Nat := 1
abbrev V.CLK_REF_EVENTS_refuse_cause_NONE : Nat := 0
abbrev V.CLK_REF_EVENTS_refuse_cause_NOT_CANDIDATE : Nat := 1
abbrev V.CLK_REF_EVENTS_refuse_cause_NOT_READY : Nat := 2
abbrev V.CLK_REF_EVENTS_refuse_cause_RING_MEMBER : Nat := 3
abbrev V.CLK_REF_EVENTS_refuse_cause_ACTIVE_CANDIDATE : Nat := 4
abbrev V.CLK_REF_EVENTS_refuse_cause_LINK_UP : Nat := 5
abbrev V.CLK_REF_EVENTS_refuse_cause_DUPLICATE : Nat := 6
abbrev V.CLK_TIME_CMD_result_NONE : Nat := 0
abbrev V.CLK_TIME_CMD_result_DONE : Nat := 1
abbrev V.CLK_TIME_CMD_result_BACKWARD : Nat := 2
abbrev V.CLK_TIME_CMD_result_RING_MEMBER : Nat := 3
abbrev V.CLK_TIME_CMD_result_AT_PAST : Nat := 4
abbrev V.CLK_TIME_CMD_result_CANCELLED : Nat := 5
abbrev V.CLK_TIME_CMD_result_RANGE : Nat := 6
abbrev V.CLK_TIME_CMD_op_SET : Nat := 0
abbrev V.CLK_TIME_CMD_op_STEP : Nat := 1
abbrev V.CLK_TIME_CMD_op_CANCEL : Nat := 2
abbrev V.CLK_OUT_CTRL_ssc_OFF : Nat := 0
abbrev V.PWR_DEV_STATUS_state_RUN : Nat := 0
abbrev V.PWR_DEV_STATUS_state_IDLE : Nat := 1
abbrev V.PWR_DEV_STATUS_state_SLEEP : Nat := 2
abbrev V.PWR_DEV_STATUS_state_DEEP_SLEEP : Nat := 3
abbrev V.PWR_DEV_STATUS_state_ENTERING : Nat := 4
abbrev V.PWR_DEV_STATUS_state_EXITING : Nat := 5
abbrev V.PWR_DEV_STATUS_last_wake_NONE : Nat := 0
abbrev V.PWR_DEV_CTRL_request_SLEEP : Nat := 0
abbrev V.PWR_DEV_CTRL_request_DEEP_SLEEP : Nat := 1
abbrev V.PWR_DEV_CTRL_request_OFF : Nat := 2
abbrev V.PWR_DEV_CTRL_result_NONE : Nat := 0
abbrev V.PWR_DEV_CTRL_result_DONE : Nat := 1
abbrev V.PWR_DEV_CTRL_result_BUSY : Nat := 2
abbrev V.PWR_DEV_CTRL_result_CANCELLED : Nat := 3
abbrev V.PWR_DEV_CTRL_result_KEY : Nat := 4
abbrev V.PWR_VOTE_CMD_state_ON : Nat := 0
abbrev V.PWR_VOTE_CMD_state_RETENTION : Nat := 1
abbrev V.PWR_VOTE_CMD_state_OFF : Nat := 2
abbrev V.PWR_VOTE_CMD_result_NONE : Nat := 0
abbrev V.PWR_VOTE_CMD_result_DONE : Nat := 1
abbrev V.PWR_VOTE_CMD_result_BUSY : Nat := 2
abbrev V.PWR_VOTE_CMD_result_POWER : Nat := 3
abbrev V.PWR_VOTE_CMD_result_BAD : Nat := 4
abbrev V.PWR_DOMAIN_STATUS_state_ON : Nat := 0
abbrev V.PWR_DOMAIN_STATUS_state_RETENTION : Nat := 1
abbrev V.PWR_DOMAIN_STATUS_state_OFF : Nat := 2
abbrev V.PWR_DOMAIN_STATUS_state_FENCING : Nat := 3
abbrev V.PWR_DOMAIN_STATUS_state_ENTERING : Nat := 4
abbrev V.PWR_DOMAIN_STATUS_state_WAKING : Nat := 5
abbrev V.PWR_DOMAIN_STATUS_resolved_ON : Nat := 0
abbrev V.PWR_DOMAIN_STATUS_resolved_RETENTION : Nat := 1
abbrev V.PWR_DOMAIN_STATUS_resolved_OFF : Nat := 2
abbrev V.BOOT_START_STATUS_outcome_RUNNING : Nat := 0
abbrev V.BOOT_START_STATUS_outcome_READY : Nat := 1
abbrev V.BOOT_START_STATUS_outcome_READY_DEGRADED : Nat := 2
abbrev V.BOOT_START_STATUS_outcome_HALTED : Nat := 3
abbrev V.BOOT_IMAGE_SEL_start_source_REFCLK : Nat := 0
abbrev V.BOOT_IMAGE_SEL_start_source_MEMS : Nat := 1
abbrev V.BOOT_IMAGE_SEL_fab_pref_NONE : Nat := 2
abbrev V.BOOT_IMAGE_SEL_fw_pref_GOLDEN : Nat := 2
abbrev V.RAS_STATUS_mgmt_state_PAIRED : Nat := 0
abbrev V.RAS_STATUS_mgmt_state_FAILOVER : Nat := 1
abbrev V.RAS_STATUS_mgmt_state_SINGLE : Nat := 2
abbrev V.RAS_STATUS_mgmt_state_FAILED : Nat := 3
abbrev V.OBS_FOL_CMD_op_SCHEDULE : Nat := 0
abbrev V.OBS_FOL_CMD_op_CANCEL : Nat := 1
abbrev V.OBS_FOL_CMD_result_NONE : Nat := 0
abbrev V.OBS_FOL_CMD_result_DONE : Nat := 1
abbrev V.OBS_FOL_CMD_result_AT_PAST : Nat := 2
abbrev V.OBS_FOL_CMD_result_BUSY : Nat := 3
abbrev V.OBS_FOL_CMD_result_RING_MEMBER : Nat := 4
abbrev V.OBS_FOL_CMD_result_CANCELLED : Nat := 5
abbrev V.OBS_FOL_CMD_result_NO_STREAM : Nat := 6
abbrev V.GIO_LOAD_RESULT_result_NONE : Nat := 0
abbrev V.GIO_LOAD_RESULT_result_DONE : Nat := 1
abbrev V.GIO_LOAD_RESULT_result_REFUSED : Nat := 2
abbrev V.GIO_PIN_CFG_slew_SLOW : Nat := 0
abbrev V.GIO_PIN_CFG_slew_FAST : Nat := 1
abbrev V.GIO_PIN_CFG_pull_NONE : Nat := 0
abbrev V.GIO_PIN_CFG_pull_UP : Nat := 1
abbrev V.GIO_PIN_CFG_pull_DOWN : Nat := 2
abbrev V.GIO_PIN_CFG_pull_KEEPER : Nat := 3
abbrev V.GIO_PIN_CFG_thr_mode_BANK : Nat := 0
abbrev V.GIO_PIN_CFG_thr_mode_PROG : Nat := 1
abbrev V.GIO_TRIG_PIN_dir_IN : Nat := 0
abbrev V.GIO_TRIG_PIN_dir_OUT : Nat := 1
abbrev V.GIO_TRIG_PIN_edge_RISING : Nat := 0
abbrev V.GIO_TRIG_PIN_edge_FALLING : Nat := 1
abbrev V.GIO_TRIG_PIN_edge_BOTH : Nat := 2
abbrev V.DBG_STATUS_session_NONE : Nat := 0
abbrev V.DBG_STATUS_session_PORT : Nat := 1
abbrev V.DBG_STATUS_session_MONITOR : Nat := 2
abbrev V.DBG_STATUS_scope_DEVICE : Nat := 0
abbrev V.DBG_STATUS_scope_OWNER : Nat := 1
abbrev V.DBG_STATUS_scope_TENANT : Nat := 2
abbrev V.DBG_AUTH_CMD_op_NONE : Nat := 0
abbrev V.DBG_AUTH_CMD_op_OPEN : Nat := 1
abbrev V.DBG_AUTH_CMD_op_RESPOND : Nat := 2
abbrev V.DBG_AUTH_CMD_op_CLOSE : Nat := 3
abbrev V.DBG_AUTH_CMD_method_KROVVIA : Nat := 0
abbrev V.DBG_AUTH_CMD_method_PASSWORD : Nat := 1
abbrev V.DBG_AUTH_CMD_result_NONE : Nat := 0
abbrev V.DBG_AUTH_CMD_result_CHALLENGE : Nat := 1
abbrev V.DBG_AUTH_CMD_result_OPEN : Nat := 2
abbrev V.DBG_AUTH_CMD_result_FAILED : Nat := 3
abbrev V.DBG_AUTH_CMD_result_BUSY : Nat := 4
abbrev V.DBG_AUTH_CMD_result_LOCKED : Nat := 5
abbrev V.DBG_AUTH_CMD_result_DISABLED : Nat := 6
abbrev V.DBG_AUTH_CMD_result_CLOSED : Nat := 7
abbrev V.DBG_HALT_CMD_action_STOP : Nat := 0
abbrev V.DBG_HALT_CMD_action_RESUME : Nat := 1
abbrev V.DBG_HALT_CMD_action_JOIN : Nat := 2
abbrev V.DBG_HALT_CMD_action_LEAVE : Nat := 3
abbrev V.DBG_HALT_CMD_kind_CORE : Nat := 0
abbrev V.DBG_HALT_CMD_kind_SECTION : Nat := 1
abbrev V.DBG_HALT_CMD_kind_PRESS : Nat := 2
abbrev V.DBG_HALT_CMD_kind_SWF : Nat := 3
abbrev V.DBG_HALT_CMD_result_DONE : Nat := 0
abbrev V.DBG_HALT_CMD_result_SCOPE : Nat := 1
abbrev V.DBG_HALT_CMD_result_NOT_HALTABLE : Nat := 2
abbrev V.DBG_HALT_CMD_result_IN_GROUP : Nat := 3
abbrev V.DBG_COMP_CFG_kind_IADDR : Nat := 0
abbrev V.DBG_COMP_CFG_kind_DREAD : Nat := 1
abbrev V.DBG_COMP_CFG_kind_DWRITE : Nat := 2
abbrev V.DBG_COMP_CFG_kind_DACCESS : Nat := 3
abbrev V.DBG_COMP_CFG_kind_DVALUE : Nat := 4
abbrev V.DBG_COMP_CFG_action_EXCEPTION : Nat := 0
abbrev V.DBG_COMP_CFG_action_HALT : Nat := 1
abbrev V.DBG_COMP_CFG_action_GROUP : Nat := 2
abbrev V.DBG_COMP_CFG_link_NONE : Nat := 0
abbrev V.DBG_COMP_CFG_link_AND : Nat := 1
abbrev V.DBG_COMP_CFG_link_AFTER : Nat := 2
abbrev V.SEC_LINK_STATUS_state_DOWN : Nat := 0
abbrev V.SEC_LINK_STATUS_state_CLEAR : Nat := 1
abbrev V.SEC_LINK_STATUS_state_NEGOTIATING : Nat := 2
abbrev V.SEC_LINK_STATUS_state_ENCRYPTED : Nat := 3
abbrev V.SEC_LINK_STATUS_state_FAILED : Nat := 4
abbrev V.SEC_LINK_STATUS_cause_NONE : Nat := 0
abbrev V.SEC_LINK_STATUS_cause_NO_RING_KEY : Nat := 1
abbrev V.SEC_LINK_STATUS_cause_PEER_MISMATCH : Nat := 2
abbrev V.SEC_LINK_STATUS_cause_KEY_MISMATCH : Nat := 3
abbrev V.SEC_KEY_STATUS_state_EMPTY : Nat := 0
abbrev V.SEC_KEY_STATUS_state_ACTIVE : Nat := 1
abbrev V.SEC_KEY_STATUS_state_REKEYING : Nat := 2
abbrev V.SEC_KEY_STATUS_state_RESUME_WAIT : Nat := 3
abbrev V.HIF_LINK_STATUS_state_DOWN : Nat := 0
abbrev V.HIF_LINK_STATUS_state_TRAINING : Nat := 1
abbrev V.HIF_LINK_STATUS_state_UP : Nat := 2
abbrev V.HIF_LINK_STATUS_state_RECOVERY : Nat := 3
abbrev V.NOC_RING_STATUS_state_UP : Nat := 0
abbrev V.NOC_RING_STATUS_state_FAILED : Nat := 1
abbrev V.NOC_RING_STATUS_state_OFF : Nat := 2
abbrev V.NOC_RING_STATUS_fail_cause_NONE : Nat := 0
abbrev V.NOC_RING_STATUS_fail_cause_LINK_RETRY : Nat := 1
abbrev V.NOC_RING_STATUS_fail_cause_CREDIT_TIMEOUT : Nat := 2
abbrev V.NOC_RING_STATUS_fail_cause_STOP_PARITY : Nat := 3
abbrev V.NOC_PROBE_CFG_mode_PACKETS : Nat := 0
abbrev V.NOC_PROBE_CFG_mode_FLITS : Nat := 1
abbrev V.NOC_PROBE_CFG_mode_STALLS : Nat := 2
abbrev V.NOC_PROBE_CFG_mode_TRACE : Nat := 3
abbrev V.NOC_PROBE_CFG_point_LINK : Nat := 0
abbrev V.NOC_PROBE_CFG_point_EJECT : Nat := 1
abbrev V.BRY_PORT_STATUS_state_DOWN : Nat := 0
abbrev V.BRY_PORT_STATUS_state_TRAINING : Nat := 1
abbrev V.BRY_PORT_STATUS_state_UP : Nat := 2
abbrev V.BRY_PORT_STATUS_state_RETRAINING : Nat := 3
abbrev V.BRY_PORT_STATUS_state_FAILED : Nat := 4
abbrev V.BRY_PORT_STATUS_cause_NONE : Nat := 0
abbrev V.BRY_PORT_STATUS_cause_NO_PARTNER : Nat := 1
abbrev V.BRY_PORT_STATUS_cause_TOPOLOGY : Nat := 2
abbrev V.BRY_PORT_STATUS_cause_RETRY_LIMIT : Nat := 3
abbrev V.BRY_PORT_STATUS_cause_KEY : Nat := 4
abbrev V.BRY_PORT_STATUS_cause_LANES : Nat := 5
abbrev V.BRY_RING_CFG_role_STANDALONE : Nat := 0
abbrev V.BRY_RING_CFG_role_MASTER : Nat := 1
abbrev V.BRY_RING_CFG_role_MEMBER : Nat := 2
abbrev V.BRY_RING_STATUS_state_NONE : Nat := 0
abbrev V.BRY_RING_STATUS_state_FORMING : Nat := 1
abbrev V.BRY_RING_STATUS_state_RING : Nat := 2
abbrev V.BRY_RING_STATUS_state_CHAIN : Nat := 3
abbrev V.BRY_RING_STATUS_state_ISOLATED : Nat := 4
abbrev V.BRY_SYNC_STATUS_state_NONE : Nat := 0
abbrev V.BRY_SYNC_STATUS_state_ALIGNING : Nat := 1
abbrev V.BRY_SYNC_STATUS_state_ALIGNED : Nat := 2
abbrev V.BRY_SYNC_STATUS_state_HOLDOVER : Nat := 3
abbrev V.BRY_RMT_CTRL_space_BAR0 : Nat := 0
abbrev V.BRY_RMT_CTRL_space_T000 : Nat := 1
abbrev V.BRY_RMT_CTRL_result_OK : Nat := 0
abbrev V.BRY_RMT_CTRL_result_REFUSED : Nat := 1
abbrev V.BRY_RMT_CTRL_result_TIMEOUT : Nat := 2
abbrev V.MEM_FRONT_STATUS_state_REDUNDANT : Nat := 0
abbrev V.MEM_FRONT_STATUS_state_DEGRADED : Nat := 1
abbrev V.MEM_FRONT_STATUS_state_FAILED : Nat := 2
abbrev V.MEM_CXL_MODE_pair_NONE : Nat := 0
abbrev V.MEM_HBM_STATUS_state_OFF : Nat := 0
abbrev V.MEM_HBM_STATUS_state_TRAINING : Nat := 1
abbrev V.MEM_HBM_STATUS_state_IN_USE : Nat := 2
abbrev V.MEM_HBM_STATUS_state_FAILED : Nat := 3
abbrev V.MEM_HBM_STATUS_state_OUT_OF_SERVICE : Nat := 4
abbrev V.MEM_HBM_STATUS_fail_cause_NONE : Nat := 0
abbrev V.MEM_HBM_STATUS_fail_cause_UE_ROWS : Nat := 1
abbrev V.MEM_HBM_STATUS_fail_cause_DEGRADED_ROWS : Nat := 2
abbrev V.MEM_HBM_STATUS_fail_cause_LINK : Nat := 3
abbrev V.MEM_HBM_STATUS_fail_cause_SUPPLY_THERMAL : Nat := 4
abbrev V.MEM_HBM_STATUS_fail_cause_TIMEOUT : Nat := 5
abbrev V.MEM_DDR_STATUS_state_EMPTY : Nat := 0
abbrev V.MEM_DDR_STATUS_state_TRAINING : Nat := 1
abbrev V.MEM_DDR_STATUS_state_IN_USE : Nat := 2
abbrev V.MEM_DDR_STATUS_state_DEGRADED : Nat := 3
abbrev V.MEM_DDR_STATUS_state_OUT_OF_SERVICE : Nat := 4
abbrev V.MEM_DDR_STATUS_speed_DDR5 : Nat := 0
abbrev V.MEM_CXL_STATUS_state_ABSENT : Nat := 0
abbrev V.MEM_CXL_STATUS_state_TRAINING : Nat := 1
abbrev V.MEM_CXL_STATUS_state_IN_USE : Nat := 2
abbrev V.MEM_CXL_STATUS_state_FAILED : Nat := 3
abbrev V.MEM_CXL_STATUS_state_OUT_OF_SERVICE : Nat := 4
abbrev V.MEM_CXL_STATUS_role_PLAIN : Nat := 0
abbrev V.MEM_CXL_STATUS_role_MIRROR_MEMBER : Nat := 1
abbrev V.MEM_CXL_STATUS_role_MIRROR_ALONE : Nat := 2
abbrev V.MEM_CXL_STATUS_fail_cause_NONE : Nat := 0
abbrev V.MEM_CXL_STATUS_fail_cause_LINK : Nat := 1
abbrev V.MEM_CXL_STATUS_fail_cause_POISON : Nat := 2
abbrev V.MEM_CXL_STATUS_fail_cause_TIMEOUT : Nat := 3
abbrev V.MEM_CXL_STATUS_fail_cause_HEALTH : Nat := 4
abbrev V.CAP_DRAIN_CFG_policy_DDR_FIRST : Nat := 0
abbrev V.CAP_DRAIN_CFG_policy_CXL_FIRST : Nat := 1
abbrev V.CAP_DRAIN_CFG_policy_BALANCED : Nat := 2
abbrev V.CAP_STREAM_STATUS_end_cause_NONE : Nat := 0
abbrev V.CAP_STREAM_STATUS_end_cause_STOPPED : Nat := 1
abbrev V.CAP_STREAM_STATUS_end_cause_WINDOW_DONE : Nat := 2
abbrev V.CAP_STREAM_STATUS_end_cause_FLR : Nat := 3
abbrev V.CAP_STREAM_STATUS_end_cause_RESTART : Nat := 4
abbrev V.CAP_STREAM_STATUS_end_cause_POWER_LOSS : Nat := 5
abbrev V.CAP_STREAM_STATUS_end_cause_KEY_EXHAUSTED : Nat := 6
abbrev V.CAP_STREAM_STATUS_mode_CONTINUOUS : Nat := 0
abbrev V.CAP_STREAM_STATUS_mode_WRAP : Nat := 1
abbrev V.CAP_STREAM_STATUS_mode_WINDOW : Nat := 2
abbrev V.CAP_STREAM_STATUS_tier_FRONT : Nat := 0
abbrev V.CAP_STREAM_STATUS_tier_FRONT_DEEP : Nat := 1
abbrev V.CAP_SESS_STATUS_state_FREE : Nat := 0
abbrev V.CAP_SESS_STATUS_state_RUNNING : Nat := 1
abbrev V.CAP_SESS_STATUS_state_WAITING : Nat := 2
abbrev V.CAP_SESS_STATUS_mode_ONESHOT : Nat := 0
abbrev V.CAP_SESS_STATUS_mode_FOLLOW : Nat := 1
abbrev V.CAP_SESS_STATUS_on_integrity_STOP : Nat := 0
abbrev V.CAP_SESS_STATUS_on_integrity_MARK : Nat := 1
abbrev V.CAP_SESS_STATUS_dest_HOST : Nat := 0
abbrev V.CAP_SESS_STATUS_dest_CORE : Nat := 1
abbrev V.CAP_SESS_STATUS_dest_SECTION : Nat := 2
abbrev V.PRS_LANE_STATUS_state_IDLE : Nat := 0
abbrev V.PRS_LANE_STATUS_state_LOADED : Nat := 1
abbrev V.PRS_LANE_STATUS_state_ARMED : Nat := 2
abbrev V.PRS_LANE_STATUS_state_RUNNING : Nat := 3
abbrev V.PRS_LANE_STATUS_state_WAITING : Nat := 4
abbrev V.PRS_LANE_STATUS_state_FROZEN : Nat := 5
abbrev V.PRS_LANE_STATUS_state_DONE : Nat := 6
abbrev V.PRS_LANE_STATUS_state_FAULT : Nat := 7
abbrev V.PRS_LANE_STATUS_fault_NONE : Nat := 0
abbrev V.PRS_LANE_STATUS_fault_PATTERN_END : Nat := 1
abbrev V.PRS_LANE_STATUS_fault_INTEGRITY : Nat := 2
abbrev V.PRS_LANE_STATUS_fault_LANE_LOST : Nat := 3
abbrev V.PRS_FRM_LANE_STATUS_cause_FRAME : Nat := 0
abbrev V.PRS_FRM_LANE_STATUS_cause_EMPTY : Nat := 1
abbrev V.PRS_FRM_LANE_STATUS_cause_SHAPER : Nat := 2
abbrev V.PRS_FRM_LANE_STATUS_cause_MULTICAST : Nat := 3
abbrev V.PRS_FRM_LANE_STATUS_cause_OTHER : Nat := 4
abbrev V.PRS_FRM_STATUS_state_IDLE : Nat := 0
abbrev V.PRS_FRM_STATUS_state_LOADED : Nat := 1
abbrev V.PRS_FRM_STATUS_state_ARMED : Nat := 2
abbrev V.PRS_FRM_STATUS_state_RUNNING : Nat := 3
abbrev V.PRS_FRM_STATUS_state_DONE : Nat := 4
abbrev V.PRS_FRM_STATUS_state_FAULT : Nat := 5
abbrev V.PRS_FRM_STATUS_fault_NONE : Nat := 0
abbrev V.PRS_FRM_STATUS_fault_INTEGRITY : Nat := 1
abbrev V.PRS_FRM_CFG_source_LIST : Nat := 0
abbrev V.PRS_FRM_CFG_source_DQ : Nat := 1
abbrev V.PRS_FRM_CFG_policy_ALIGNED : Nat := 0
abbrev V.PRS_FRM_CFG_policy_INDEPENDENT : Nat := 1
abbrev V.LANE_STATUS_fault_cause_NONE : Nat := 0
abbrev V.LANE_STATUS_fault_cause_CAL_FAIL : Nat := 1
abbrev V.LANE_STATUS_fault_cause_TERMINATION : Nat := 2
abbrev V.LANE_STATUS_fault_cause_DRIVER_CURRENT : Nat := 3
abbrev V.LANE_STATUS_fault_cause_OFFSET_RANGE : Nat := 4
abbrev V.LANE_STATUS_fault_cause_CDR_SELFTEST : Nat := 5
abbrev V.LANE_STATUS_fault_cause_OCTET_PLL : Nat := 6
abbrev V.LANE_RATE_modulation_NRZ : Nat := 0
abbrev V.LANE_RATE_modulation_PAM4 : Nat := 1
abbrev V.LANE_RATE_ssc_OFF : Nat := 0
abbrev V.LANE_RX_EQ_mode_ADAPT : Nat := 0
abbrev V.LANE_RX_EQ_mode_FREEZE : Nat := 1
abbrev V.LANE_RX_EQ_mode_FIXED : Nat := 2
abbrev V.LANE_EVENTS_refuse_cause_NONE : Nat := 0
abbrev V.LANE_DIG_CFG_mode_WAVE : Nat := 0
abbrev V.LANE_DIG_CFG_mode_EYE : Nat := 1
abbrev V.LANE_DIG_CFG_mode_TDR : Nat := 2
abbrev V.LANE_DIG_CFG_trigger_PATTERN : Nat := 0
abbrev V.LANE_DIG_CFG_trigger_TIMEBASE : Nat := 1
abbrev V.LANE_DIG_STATUS_result_NONE : Nat := 0
abbrev V.LANE_DIG_STATUS_result_DONE : Nat := 1
abbrev V.LANE_DIG_STATUS_result_QUOTA : Nat := 2
abbrev V.LANE_DIG_STATUS_result_ABORTED : Nat := 3
abbrev V.LANE_DIG_STATUS_result_LOST_LOCK : Nat := 4
abbrev V.LANE_DIG_STATUS_result_UNAVAILABLE : Nat := 5
abbrev V.LANE_DIG_STATUS_result_REFUSED : Nat := 6
abbrev V.LANE_PROBE_CTRL_kind_RX_DETECT : Nat := 0
abbrev V.LANE_PROBE_CTRL_kind_PCIE_TS : Nat := 1
abbrev V.LANE_PROBE_CTRL_kind_ETH_AN : Nat := 2
abbrev V.LANE_PROBE_STATUS_result_NONE : Nat := 0
abbrev V.LANE_PROBE_STATUS_result_RESPONSE : Nat := 1
abbrev V.LANE_PROBE_STATUS_result_NO_RESPONSE : Nat := 2
abbrev V.LANE_PROBE_STATUS_result_ABORTED : Nat := 3
abbrev V.LANE_PROBE_STATUS_result_REFUSED : Nat := 4
abbrev V.LANE_PROBE_STATUS_detect_n_ABSENT : Nat := 0
abbrev V.LANE_PROBE_STATUS_detect_n_PRESENT : Nat := 1
abbrev V.LANE_PROBE_STATUS_detect_n_INDETERMINATE : Nat := 2
abbrev V.SECT_LANE_CFG_unaligned_GAP : Nat := 0
abbrev V.SECT_LANE_CFG_unaligned_RAW : Nat := 1
abbrev V.SECT_MATCH_CFG_src_RX : Nat := 0
abbrev V.SECT_MATCH_CFG_src_TX : Nat := 1
abbrev V.SECT_MATCH_CFG_scope_LANE : Nat := 0
abbrev V.SECT_MATCH_CFG_scope_BUNDLE : Nat := 1
abbrev V.SECT_CNT_CFG_mode_EVENTS : Nat := 0
abbrev V.SECT_CNT_CFG_mode_SLOTS : Nat := 1
abbrev V.SECT_CNT_CFG_mode_TICKS : Nat := 2
abbrev V.SECT_TAP_CFG_src_RX : Nat := 0
abbrev V.SECT_TAP_CFG_src_TX : Nat := 1
abbrev V.SECT_ARC_COND_op_A_AND_B : Nat := 1
abbrev V.SECT_ARC_COND_op_A_OR_B : Nat := 2
abbrev V.SGC_STATUS_fault_cause_NONE : Nat := 0
abbrev V.SGC_STATUS_fault_cause_NESTED : Nat := 1
abbrev V.SGC_STATUS_fault_cause_IMEM_UE : Nat := 2
abbrev V.SGC_STATUS_fault_cause_DATAPATH : Nat := 3
abbrev V.SGC_STATUS_fault_cause_NO_PROGRESS : Nat := 4
abbrev V.FAB_SECT_STATUS_power_ON : Nat := 0
abbrev V.FAB_SECT_STATUS_power_RETENTION : Nat := 1
abbrev V.FAB_SECT_STATUS_power_OFF : Nat := 2
abbrev V.FAB_RCLK_CTRL_use_FABRIC : Nat := 2

/-- Part 0 of the register table. -/
def Reg.part0 : List RegDef :=
  [Reg.GLB_ID, Reg.GLB_STATE, Reg.GLB_ERR_STATUS, Reg.GLB_ERR_INFO, Reg.GLB_RSV_WRITES, Reg.GLB_UNMAPPED_WRITES, Reg.GLB_LOST_WRITES, Reg.GLB_SCRATCH, Reg.CLK_STATUS, Reg.CLK_REF_CTRL, Reg.CLK_REF_EVENTS, Reg.CLK_QUAL_CFG, Reg.CLK_FREQ_ADJ, Reg.CLK_CAND, Reg.CLK_CAND_STATUS, Reg.CLK_TIME_LO, Reg.CLK_TIME_HI, Reg.CLK_TIME_SET_LO, Reg.CLK_TIME_SET_HI, Reg.CLK_TIME_AT_LO, Reg.CLK_TIME_AT_HI, Reg.CLK_TIME_CMD, Reg.CLK_PPS_CAP_LO, Reg.CLK_PPS_CAP_HI]

/-- Part 1 of the register table. -/
def Reg.part1 : List RegDef :=
  [Reg.CLK_PPS_COUNT, Reg.CLK_OUT_CTRL, Reg.CLK_XING_ERR, Reg.CLK_GLOBAL_DIV, Reg.PWR_DEV_STATUS, Reg.PWR_DEV_CTRL, Reg.PWR_EVENTS, Reg.PWR_WAKE_CFG, Reg.PWR_WAKE_AT_LO, Reg.PWR_WAKE_AT_HI, Reg.PWR_IDLE_CFG, Reg.PWR_VOTE_CMD, Reg.PWR_DOMAIN_STATUS, Reg.PWR_SUPPLY_STATUS, Reg.PWR_RAIL_STATUS, Reg.BOOT_START_STATUS, Reg.BOOT_CTRL, Reg.BOOT_EVENTS, Reg.BOOT_IMAGE_SEL, Reg.BOOT_SLOT_STATUS, Reg.BOOT_ROLLBACK_MIN, Reg.BOOT_OUT_OF_SERVICE, Reg.BOOT_EARLY_WRITES, Reg.BOOT_STEP_STATUS]

/-- Part 2 of the register table. -/
def Reg.part2 : List RegDef :=
  [Reg.BOOT_STEP_TIME, Reg.RAS_STATUS, Reg.RAS_EVENTS, Reg.RAS_LOG_LOST, Reg.RAS_COPY_DIFFERS, Reg.RAS_LOG_NEWEST_LO, Reg.RAS_LOG_NEWEST_HI, Reg.RAS_LOG_INDEX_LO, Reg.RAS_LOG_INDEX_HI, Reg.RAS_FAULT_COUNT, Reg.RAS_LOG_DATA, Reg.OBS_STATUS, Reg.OBS_EVENTS, Reg.OBS_FOL_CFG, Reg.OBS_FOL_CMD, Reg.OBS_FOL_AT_LO, Reg.OBS_FOL_AT_HI, Reg.OBS_FOL_TAKEN_LO, Reg.OBS_FOL_TAKEN_HI, Reg.OBS_FOL_NUMBER, Reg.OBS_FOL_ENTRIES, Reg.OBS_RIBBON_CFG, Reg.OBS_SHD_INDEX, Reg.OBS_SHD_OFFSET]

/-- Part 3 of the register table. -/
def Reg.part3 : List RegDef :=
  [Reg.OBS_SHD_VALUE_LO, Reg.OBS_SHD_VALUE_HI, Reg.OBS_RIBBONS_LOST, Reg.GIO_STATUS, Reg.GIO_EVENTS, Reg.GIO_SMB_CFG, Reg.GIO_ADC_CTRL, Reg.GIO_LOAD_CMD, Reg.GIO_LOAD_RESULT, Reg.GIO_TEMP_MAX, Reg.GIO_TEMP_ALERT, Reg.GIO_BANK_CFG, Reg.GIO_IN, Reg.GIO_OUT, Reg.GIO_ADC_LIST, Reg.GIO_ADC_RESULT, Reg.GIO_TEMP, Reg.GIO_PIN_CFG, Reg.GIO_TRIG_PIN, Reg.GIO_TLINE, Reg.GIO_TLINE_MERGES, Reg.DBG_STATUS, Reg.DBG_CTRL, Reg.DBG_EVENTS]

/-- Part 4 of the register table. -/
def Reg.part4 : List RegDef :=
  [Reg.DBG_AUTH_CMD, Reg.DBG_HALT_CMD, Reg.DBG_AUTH_FAILS, Reg.DBG_GROUP_CFG, Reg.DBG_POWER_HOLD, Reg.DBG_COMP_CFG, Reg.DBG_COMP_RANGE, Reg.DBG_COMP_VALUE, Reg.DBG_COMP_CTX, Reg.DBG_AUTH_DATA, Reg.DBG_PWD_TENANT, Reg.DBG_PWD_DIGEST, Reg.SEC_CTRL, Reg.SEC_STATUS, Reg.SEC_EVENTS, Reg.SEC_SPENT_QUIRES, Reg.SEC_BLOCKED_COUNT, Reg.SEC_PARTIAL_REWRITES, Reg.SEC_RING_KEY, Reg.SEC_LINK_CTRL, Reg.SEC_LINK_STATUS, Reg.SEC_LINK_TAG_FAIL, Reg.SEC_ACTIVE_KEY_BOUNDARY_LO, Reg.SEC_ACTIVE_KEY_BOUNDARY_HI]

/-- Part 5 of the register table. -/
def Reg.part5 : List RegDef :=
  [Reg.SEC_REKEY_LEFT, Reg.SEC_KEY_STATUS, Reg.HIF_LINK_STATUS, Reg.HIF_EVENTS, Reg.HIF_DMA_ERRORS, Reg.HIF_TENANT_STATUS, Reg.SWF_STATUS, Reg.SWF_POOL_CFG, Reg.SWF_EVENTS, Reg.SWF_TRACE_CFG, Reg.SWF_TRACE_TENANT, Reg.SWF_DECISIONS_LO, Reg.SWF_DECISIONS_HI, Reg.SWF_FIRINGS_LO, Reg.SWF_FIRINGS_HI, Reg.SWF_CACHE_MISSES, Reg.SWF_TRACE_LOST, Reg.SWF_STALE_RESULTS, Reg.SWF_REDISPATCHES, Reg.SWF_EXCESS_OUTPUTS, Reg.SWF_OP_INDEX, Reg.SWF_DQ_INDEX, Reg.SWF_OP_DATA, Reg.SWF_DQ_DATA]

/-- Part 6 of the register table. -/
def Reg.part6 : List RegDef :=
  [Reg.SWF_TENANT_CFG, Reg.SWF_TENANT_TOKQ, Reg.SWF_TENANT_CACHE, Reg.SWF_TENANT_STATUS, Reg.SWF_POOL_READY, Reg.NOC_STATUS, Reg.NOC_EVENTS, Reg.NOC_RING_STATUS, Reg.NOC_LINK_RETRIES, Reg.NOC_BAD_PACKETS, Reg.NOC_TENANT_REJECTS, Reg.NOC_TRACE_CFG, Reg.NOC_TRACE_LOST, Reg.NOC_PROBE_CFG, Reg.NOC_PROBE_FILTER, Reg.NOC_PROBE_SRC, Reg.NOC_PROBE_DST, Reg.NOC_PROBE_COUNT_LO, Reg.NOC_PROBE_COUNT_HI, Reg.BRY_PORT_STATUS, Reg.BRY_PORT_EVENTS, Reg.BRY_PORT_ASYM, Reg.BRY_DELAY, Reg.BRY_CRC_ERRORS]

/-- Part 7 of the register table. -/
def Reg.part7 : List RegDef :=
  [Reg.BRY_REPLAYS, Reg.BRY_RING_CFG, Reg.BRY_RING_STATUS, Reg.BRY_RING_EVENTS, Reg.BRY_SYNC_STATUS, Reg.BRY_OFFSET, Reg.BRY_LINE_SPAN, Reg.BRY_LINE_DELAY, Reg.BRY_LINE_LATE, Reg.BRY_TENANT_LINK, Reg.BRY_RMT_CTRL, Reg.BRY_RMT_ADDR, Reg.BRY_RMT_DATA, Reg.MEM_FRONT_STATUS, Reg.MEM_EVENTS, Reg.MEM_REG_CFG, Reg.MEM_CXL_MODE, Reg.MEM_SCRUB_CFG, Reg.MEM_FRONT_RECON, Reg.MEM_DOUBLE_FAULTS, Reg.MEM_PARITY_FIXED, Reg.MEM_HBM_STATUS, Reg.MEM_HBM_CE_COUNT, Reg.MEM_HBM_UE_COUNT]

/-- Part 8 of the register table. -/
def Reg.part8 : List RegDef :=
  [Reg.MEM_HBM_REPAIRS, Reg.MEM_DDR_STATUS, Reg.MEM_DDR_CFG, Reg.MEM_DDR_CE_COUNT, Reg.MEM_DDR_UE_COUNT, Reg.MEM_DDR_MIGRATE, Reg.MEM_CXL_STATUS, Reg.MEM_CXL_POISON_COUNT, Reg.MEM_CXL_TIMEOUT_COUNT, Reg.CAP_STATUS, Reg.CAP_EVENTS, Reg.CAP_DRAIN_CFG, Reg.CAP_DRAIN_PENDING, Reg.CAP_QT_INDEX, Reg.CAP_LOST_QUIRES, Reg.CAP_QT_DATA, Reg.CAP_TARGET_CAP, Reg.CAP_TARGET_USED, Reg.CAP_QUOTA_FRONT, Reg.CAP_QUOTA_DEEP, Reg.CAP_USE_FRONT, Reg.CAP_USE_DEEP, Reg.CAP_STREAM_STATUS, Reg.CAP_STREAM_CFG]

/-- Part 9 of the register table. -/
def Reg.part9 : List RegDef :=
  [Reg.CAP_STREAM_FIRST_QUIRE, Reg.CAP_STREAM_LAST_QUIRE, Reg.CAP_STREAM_START_LO, Reg.CAP_STREAM_START_HI, Reg.CAP_STREAM_STOP_LO, Reg.CAP_STREAM_STOP_HI, Reg.CAP_STREAM_TRIG_LO, Reg.CAP_STREAM_TRIG_HI, Reg.CAP_STREAM_STORED_LO, Reg.CAP_STREAM_STORED_HI, Reg.CAP_STREAM_GAP_LO, Reg.CAP_STREAM_GAP_HI, Reg.CAP_STREAM_LOST_REC, Reg.CAP_STREAM_LOST_EVT0, Reg.CAP_STREAM_LOST_EVT1, Reg.CAP_STREAM_LOST_EVT2, Reg.CAP_STREAM_POST, Reg.CAP_COLL_CFG, Reg.CAP_COLL_STATUS, Reg.CAP_COLL_EVENTS, Reg.CAP_SESS_STATUS, Reg.CAP_SESS_HORIZON_LO, Reg.CAP_SESS_HORIZON_HI, Reg.CAP_SESS_RECORDS_LO]

/-- Part 10 of the register table. -/
def Reg.part10 : List RegDef :=
  [Reg.CAP_SESS_RECORDS_HI, Reg.CAP_SESS_SKIPPED, Reg.PRS_LANE_STATUS, Reg.PRS_LANE_CFG, Reg.PRS_EVENTS, Reg.PRS_RELAY_CFG, Reg.PRS_RELAY_STATUS, Reg.PRS_CACHE_LINES, Reg.PRS_IDLE_CFG, Reg.PRS_EVQ_DQ, Reg.PRS_NOTIFY_DQ, Reg.PRS_IDLE_PAT, Reg.PRS_RELAY_MATCH, Reg.PRS_SUB_NO_PROGRAM, Reg.PRS_SUB_MISS, Reg.PRS_SUB_STARVED, Reg.PRS_SUB_FREEZE, Reg.PRS_SUB_PLL, Reg.PRS_SUB_RELAY, Reg.PRS_SUB_SHAPER, Reg.PRS_SUB_MCAST, Reg.PRS_EVQ_DISCARDS, Reg.PRS_RELAY_DISCARDS, Reg.PRS_NOTIFY_DISCARDS]

/-- Part 11 of the register table. -/
def Reg.part11 : List RegDef :=
  [Reg.PRS_RELAY_RESYNCS, Reg.PRS_SECT_CACHE, Reg.PRS_FRM_LANE_STATUS, Reg.PRS_FRM_EMPTY, Reg.PRS_FRM_SKIPPED, Reg.PRS_FRM_FRAMES, Reg.PRS_FRM_INDEX, Reg.PRS_FRM_STATUS, Reg.PRS_FRM_CFG, Reg.PRS_FRM_TARGET, Reg.PRS_FRM_LIST, Reg.PRS_FRM_LIST_ADDR_LO, Reg.PRS_FRM_LIST_ADDR_HI, Reg.PRS_SHP_RATE, Reg.PRS_SHP_BURST, Reg.PRS_SHP_LEVEL_LO, Reg.PRS_SHP_LEVEL_HI, Reg.PRS_FRM_DQ, Reg.PRS_FRM_NOTIFY_DQ, Reg.PRS_FRM_SENT_LO, Reg.PRS_FRM_SENT_HI, Reg.PRS_FRM_PARTIAL, Reg.PRS_FRM_BAD, Reg.PRS_FRM_NOTIFY_LOST]

/-- Part 12 of the register table. -/
def Reg.part12 : List RegDef :=
  [Reg.LANE_STATUS, Reg.LANE_CTRL, Reg.LANE_RATE, Reg.LANE_MULT, Reg.LANE_TX_FIR, Reg.LANE_RX_EQ, Reg.LANE_RX_COEF, Reg.LANE_EVENTS, Reg.LANE_LOCK_LOSS_COUNT, Reg.LANE_SIGNAL_LOSS_COUNT, Reg.LANE_OCT_STATUS, Reg.LANE_OCT_MULT, Reg.LANE_OCT_SWITCH_COUNT, Reg.LANE_DIG_CFG, Reg.LANE_DIG_SPAN, Reg.LANE_DIG_COUNT, Reg.LANE_DIG_STATUS, Reg.LANE_TDR_RESULT, Reg.LANE_TDR_RHO, Reg.LANE_PROBE_CTRL, Reg.LANE_PROBE_STATUS, Reg.LANE_PROBE_DATA, Reg.SECT_INTAKE_STATUS, Reg.SECT_INTAKE_EVENTS]

/-- Part 13 of the register table. -/
def Reg.part13 : List RegDef :=
  [Reg.SECT_SLICE_SWITCH_COUNT, Reg.SECT_LANE_CFG, Reg.SECT_COMMA_CFG, Reg.SECT_DESKEW_CFG, Reg.SECT_ISTATUS, Reg.SECT_FEC_CORR_CW, Reg.SECT_FEC_UNCORR_CW, Reg.SECT_FEC_CORR_SYM, Reg.SECT_INVALID_COUNT, Reg.SECT_BUNDLE_MEMBERS, Reg.SECT_BUNDLE_STATUS, Reg.SECT_MATCH_CFG, Reg.SECT_MATCH_VALUE, Reg.SECT_MATCH_MASK, Reg.SECT_MATCH_COUNT, Reg.SECT_CNT_CFG, Reg.SECT_CNT_COMPARE, Reg.SECT_CNT_VALUE, Reg.SECT_TAP_CFG, Reg.SECT_TRIG_EVENTS, Reg.SECT_TRIG_LATE, Reg.SECT_TAP_DISCARDS, Reg.SECT_RIBBON_SUPPRESSED, Reg.SECT_SEQ_CTRL]

/-- Part 14 of the register table. -/
def Reg.part14 : List RegDef :=
  [Reg.SECT_SEQ_STATUS, Reg.SECT_SEQ_TARGET, Reg.SECT_ARC_COND, Reg.SECT_ARC_ACTION, Reg.SECT_ARC_CODE, Reg.SECT_ARC_ARG, Reg.SGC_STATUS, Reg.SGC_EVENTS, Reg.SGC_TASK_CFG, Reg.SGC_COLL_CFG, Reg.SGC_VECTOR, Reg.SGC_EXC_INFO, Reg.SGC_BANK_STALLS, Reg.SGC_DMA_WAIT, Reg.SGC_TASKS_DONE, Reg.SGC_IMEM_CE, Reg.SGC_DMEM_CE, Reg.FAB_SECT_STATUS, Reg.FAB_SECT_CTRL, Reg.FAB_SECT_EVENTS, Reg.FAB_ATTACH_DISCARDS, Reg.FAB_RCLK_CTRL, Reg.FAB_RCLK_STATUS, Reg.FAB_MEM_CTRL]

/-- Part 15 of the register table. -/
def Reg.part15 : List RegDef :=
  [Reg.FAB_MEM_STATUS, Reg.FAB_MEM_CE_COUNT, Reg.FAB_MEM_UE_COUNT, Reg.FAB_MEM_INJECT]

/-- Every register of the device (R718). -/
def Reg.all : List RegDef :=
  Reg.part0 ++ Reg.part1 ++ Reg.part2 ++ Reg.part3 ++ Reg.part4 ++ Reg.part5 ++ Reg.part6 ++ Reg.part7 ++ Reg.part8 ++ Reg.part9 ++ Reg.part10 ++ Reg.part11 ++ Reg.part12 ++ Reg.part13 ++ Reg.part14 ++ Reg.part15

end Sys2Proof.Machine
end

