-- ==== Sys2Proof/Machine/Tbl.lean ====
section
/-! DEFINITION. Machine/Tbl.lean: sparse tables, the one form in which State holds anything indexed by a unit number: a
list of (index, value) pairs with rising indices and no entry equal to what an unlisted index reads as. -/
namespace Sys2Proof.Machine

/-- A sparse table. -/
abbrev Tbl (α : Type) := List (Nat × α)

/-- The value at index `i`; `d` is what an unlisted index reads as. -/
def Tbl.get {α : Type} (d : α) : Tbl α → Nat → α
  | [], _ => d
  | (k, v) :: r, i => if k = i then v else Tbl.get d r i

/-- Insert in order, replacing an entry of the same index. -/
def Tbl.ins {α : Type} (i : Nat) (x : α) : Tbl α → Tbl α
  | [] => [(i, x)]
  | (k, v) :: r =>
    if i < k then (i, x) :: (k, v) :: r
    else if i = k then (i, x) :: r
    else (k, v) :: Tbl.ins i x r

/-- Remove an index. -/
def Tbl.del {α : Type} (i : Nat) : Tbl α → Tbl α
  | [] => []
  | (k, v) :: r => if k = i then Tbl.del i r else (k, v) :: Tbl.del i r

/-- Write a value, keeping the canonical form. -/
def Tbl.set {α : Type} [DecidableEq α] (d : α) (i : Nat) (x : α) (t : Tbl α) : Tbl α :=
  if x = d then Tbl.del i t else Tbl.ins i x t

/-- Every index listed is at least `n`, and indices rise strictly. -/
def Tbl.sortedFrom {α : Type} : Nat → Tbl α → Bool
  | _, [] => true
  | n, (k, _) :: r => decide (n ≤ k) && Tbl.sortedFrom (k + 1) r

/-- The canonical form. -/
def Tbl.wf {α : Type} [DecidableEq α] (d : α) (t : Tbl α) : Bool :=
  Tbl.sortedFrom 0 t && t.all (fun p => decide (p.2 ≠ d))

/-- Apply a function to the value at an index. -/
def Tbl.upd {α : Type} [DecidableEq α] (d : α) (i : Nat) (f : α → α) (t : Tbl α) : Tbl α :=
  Tbl.set d i (f (Tbl.get d t i)) t

end Sys2Proof.Machine
end

