-- ==== Sys2Proof/Machine/Units.lean ====
section
/-! DEFINITION. Machine/Units.lean: the state of the units that is not a BAR0 register: rings, the event log, votes,
clocks, the start, the colophon store. Registers are in `State.regs`. -/
namespace Sys2Proof.Machine

/-! ## Host interface (spec/21) -/

/-- A submission ring (R559, R560): `outstanding` lists the SQ entries accepted and not completed, `twos` those of them for
which a second completion is reserved (R561). -/
structure Sq where
  present : Bool := false
  base : BitVec 64 := 0
  log2 : Nat := 0
  cq : Nat := 0
  head : Nat := 0
  tail : Nat := 0
  error : Bool := false
  outstanding : List Nat := []
  twos : List Nat := []
  deriving DecidableEq, Repr

/-- A completion ring (R559 to R564): `phase` is the phase bit of the present pass, `reserved` the entries reserved by
accepted descriptors (R561), `since` the completions counted towards n since the last message. -/
structure Cq where
  present : Bool := false
  base : BitVec 64 := 0
  log2 : Nat := 0
  vector : Nat := 0
  n : Nat := 0
  tau : Nat := 0
  head : Nat := 0
  tail : Nat := 0
  phase : Bool := true
  reserved : Nat := 0
  since : Nat := 0
  deriving DecidableEq, Repr

/-- A completion entry (R563). -/
structure CqEntry where
  tag : Nat
  status : Nat
  phase : Bool
  more : Bool
  sq : Nat
  sqEntry : Nat
  sqHead : Nat
  result : Nat
  deriving DecidableEq, Repr

/-- A NoC packet (R540, spec/20). -/
structure Packet where
  op : Nat
  src : Nat
  dst : Nat
  tenant : Nat
  tag : Nat := 0
  addr : Nat := 0
  count : Nat := 0
  status : Nat := 0
  data : List Nat := []
  deriving DecidableEq, Repr

/-- What the device sends out of itself. The list `State.out` holds it, newest first (log entry 5). -/
inductive Out where
  /-- The value a register read returned on a path. -/
  | data (p : Path) (off : Nat) (value : Nat)
  /-- A read of a tenant's function page. -/
  | pageData (tenant off value : Nat)
  /-- A BAR0 request completed with Completer Abort (R704). -/
  | completerAbort
  /-- A write of descriptor data to host memory (R555). -/
  | hostWrite (tenant addr : Nat) (bytes : List Nat)
  /-- A read of host memory issued for a hosted member (R593). -/
  | hostRead (tenant addr length : Nat)
  /-- A completion entry written at an index of a CQ (R563). -/
  | completion (tenant cq index : Nat) (e : CqEntry)
  /-- An MSI-X message of a vector (R564). -/
  | msix (tenant vector : Nat)
  /-- A unit sent by a lane's press, with the cause of idle (R349, R357). -/
  | tx (lane unit cause : Nat)
  /-- A level driven on a general I/O pin. -/
  | pin (pin : Nat) (level : Bool)
  /-- A general I/O pin no longer driven. -/
  | pinOff (pin : Nat)
  /-- A NoC packet sent. -/
  | noc (p : Packet)
  /-- A NoC packet handed to a unit whose inside the spec does not give: a sects logic, a requester (R540). -/
  | deliver (p : Packet)
  /-- A Brynust flit sent on a port: kind, origin, sequence, payload. -/
  | flit (port kind origin seq : Nat) (payload : List Nat)
  /-- A beat of a tap delivered to its tap section (R271): sector, tap, data, bits, time, gap. -/
  | tapBeat (sector tap data nbits time : Nat) (gap : Bool)
  /-- A task granted to a fabric dispatch port: its source number, the 64-byte header, the input tokens (R472, R473). -/
  | dispatch (source header : Nat) (tokens : List Nat)
  /-- A reply on the two-wire debug port: acknowledge and data (R644). -/
  | dbg (ack data : Nat)
  /-- Bytes answered on the SMBus. -/
  | smb (bytes : List Nat)
  /-- A NACK on the SMBus. -/
  | smbNack
  /-- SMB_CLK released after a stretch (R634). -/
  | smbRelease
  /-- A one-word message from the monitor (R647). -/
  | monitor (text : List Nat)
  deriving DecidableEq, Repr

/-- A tenant (R557 to R564): its rings, its MSI-X table and pending bits, the set-up registers of its function page, and
the host writes withheld while Bus Master Enable is 0 (R556), oldest first. `resetting` counts the steps of R574 begun.
-/
structure Tenant where
  bme : Bool := false
  vfEnabled : Bool := false
  resetStep : Nat := 0
  sq : Tbl Sq := []
  cq : Tbl Cq := []
  setupSq : BitVec 64 := 0
  setupCq : BitVec 64 := 0
  setupCtrl : Word := 0
  ringErr : BitVec 64 := 0
  doorbellErrors : Word := 0
  msix : Tbl Word := []
  pba : BitVec 64 := 0
  withheld : List Out := []
  deriving DecidableEq, Repr

/-! ## Event log (spec/23) -/

/-- An event-log entry (R609); `detail` holds the 4-byte words of bytes 32 to 59. -/
structure LogEntry where
  severity : Nat := 0
  code : Nat := 0
  seq : Nat := 0
  time : BitVec 64 := 0
  startSeq : Nat := 0
  unit : Nat := 0
  detail : List Nat := []
  deriving DecidableEq, Repr

/-- An open window of one code and unit (R611). -/
structure LogWindow where
  code : Nat
  unit : Nat
  written : Nat
  suppressed : Nat
  deriving DecidableEq, Repr

/-- The log writer and the log (R608, R611): the buffer of posted entries, oldest first, and the committed entries of
the colophon store by slot. `lost` counts the entries lost and not yet reported. -/
structure RasSt where
  nextSeq : Nat := 0
  buffer : List LogEntry := []
  store : Tbl LogEntry := []
  count : Nat := 0
  windows : List LogWindow := []
  lost : Nat := 0
  coreAFailed : Bool := false
  coreBFailed : Bool := false
  deriving DecidableEq, Repr

/-! ## Supplies and power (spec/02, spec/24) -/

/-- Causes of the power-loss sequence, as POWER_FAIL reports them (R610). -/
inductive LossCause where
  | vinUv
  | vinOv
  | pwrfailN
  | thermal
  deriving DecidableEq, Repr

/-- The supplies (R38 to R50). `loss` is the cause of the power-loss sequence in progress (R45, R612); the two flags
after it are its steps done. `capMw` is the input cap of R46. -/
structure SupSt where
  loss : Option LossCause := none
  committed : Bool := false
  gpfDone : Bool := false
  sealsWritten : Nat := 0
  logsWritten : Nat := 0
  holdupIsolated : Bool := false
  capMw : Option Nat := none
  suppliesLost : Bool := false
  deriving DecidableEq, Repr

/-- A descriptor or register vote that waits for its domain (R622). -/
structure VoteWait where
  domain : Nat
  desc : Option Desc
  deriving DecidableEq, Repr

/-- A request for a device state (R630 to R632). `target` 0 SLEEP, 1 DEEP_SLEEP, 2 OFF. -/
structure DevRequest where
  target : Nat
  desc : Option Desc
  committed : Bool := false
  deriving DecidableEq, Repr

/-- A lowering vote held while its domain is raised (R624). -/
structure HeldVote where
  domain : Nat
  tenant : Nat
  vote : Nat
  desc : Option Desc
  deriving DecidableEq, Repr

/-- Power (R618 to R635). `votes` holds the tenants' votes by 256 x domain + tenant: 0 no vote, 1 ON, 2 RETENTION, 3
OFF. `target` is the state a changing domain goes to, 0 none, 1 ON, 2 RETENTION, 3 OFF, `origin` the state it left (0 ON,
1 RETENTION, 2 OFF); `held` the lowering votes held during a raise (R624). `wake` is the wake latched on the way down
(cause and pin); `off` the device state OFF, `deep` a stay in DEEP_SLEEP;
`stretch` the SMB_CLK stretch of R634; `gated` the domains whose clocks are
gated (R631). -/
structure PwrSt where
  votes : Tbl Nat := []
  target : Tbl Nat := []
  origin : Tbl Nat := []
  held : List HeldVote := []
  waits : List VoteWait := []
  request : Option DevRequest := none
  wake : Option (Nat × Nat) := none
  off : Bool := false
  stretch : Bool := false
  deep : Bool := false
  gated : List Nat := []
  deriving DecidableEq, Repr

/-! ## Clocks (spec/03) -/

/-- A pending SET or STEP (R72): the operation (false SET, true STEP), the value and the tick it applies in. -/
structure TimeReq where
  step : Bool
  value : BitVec 64
  at? : Option (BitVec 64)
  deriving DecidableEq, Repr

/-- The clocks (R53 to R76): the timebase (R69), the source being slewed to, the lost source and the offset held for it
(R57), whether a switch was requested (R61), the gates a revert target has been ready (R62), the good MEMS gates since a failure (R56), the frequency offset
in force (R75), the pending time command (R72), and the source to return to after DEEP_SLEEP (R632). In DEEP_SLEEP
the MEMS counter keeps the timebase (R70). -/
structure ClkSt where
  timebase : BitVec 64 := 0
  target : Nat := 0
  lost : Option Nat := none
  reverting : Bool := false
  revertGates : Nat := 0
  memsGood : Nat := 0
  adj : Int := 0
  pending : Option TimeReq := none
  userSwitch : Bool := false
  back : Option Nat := none
  deriving DecidableEq, Repr

/-! ## Start and colophon store (spec/04) -/

/-- A start record (R95); `steps` holds method, outcome, cause and duration of S01 to S16. -/
structure StartRecord where
  seq : Nat := 0
  cause : Nat := 0
  attempt : Nat := 1
  outcome : Nat := 0
  fwSlot : Nat := 0
  fabSlot : Nat := 0
  startMems : Bool := false
  holdupUf : Nat := 0
  steps : Tbl (Nat × Nat × Nat × Nat) := []
  oosHbm : Nat := 0
  oosDdr : Nat := 0
  oosCxl : Nat := 0
  refFallback : Nat := 0
  imageSel : Nat := 8
  lanesOut : Nat := 0
  spd : Tbl Nat := []
  deriving DecidableEq, Repr

/-- An image slot (R103, R117): state 0 EMPTY, 1 WRITING, 2 VALID, 3 INVALID, 4 RUNNING. -/
structure Slot where
  state : Nat := 0
  rollback : Nat := 0
  sectionMap : Nat := 0
  deriving DecidableEq, Repr

/-- The colophon store (R94): the two directory generations (R97), the ring of start records (R98), the slots (0
GOLDEN, 1 firmware A, 2 firmware B, 3 fabric A, 4 fabric B), by step 11 to 14 the units with stored training values and those
whose stored values failed last (R100), the pair members to resilver (R416), the fuses of R105,
and the settings kept for the next start (BRY.RING_CFG R580, GIO.BANK_CFG R680 as voltage + 1, MEM.CXL_MODE.pair R421). `gpfOk` marks
the CXL ports whose last flush completed (R417). `rekey` is the last REKEY_PROGRESS entry
of a rekey not ended: tenant, boundary, kcv of the current and of the staged key (R447). -/
structure ColoSt where
  dirGen0 : Nat := 0
  dirGen1 : Nat := 0
  records : Tbl (Option StartRecord) := []
  slots : Tbl Slot := [(0, { state := 2 })]
  trained : Tbl Nat := []
  retrain : Tbl Nat := []
  cxlLost : Nat := 0
  fuseRollback : Nat := 0
  ringCfg : Option Word := none
  bankCfg : Tbl Nat := []
  cxlPair : Nat := 0
  gpfOk : Nat := 0
  rekey : Option (Nat × Nat × Nat × Nat) := none
  deriving DecidableEq, Repr

/-- The start in progress or last done (R88 to R111): its cause and the steps running; the AUTO_RESTARTs and the attempt
since POWER_ON or WAKE (R99, R95); the record, once opened, and its ring slot; the methods planned, the start source, the
slots that passed S08; the hold-up capacitance of the last S01; the masks of units trained in full, the leaves of each
deep unit; whether S03 and S07 have ended, whether S16 has passed, whether the start halted;
BRY.RING_CFG as it stood at S06; the slot an image write is filling; the DOMAINs that hold START votes. -/
structure BootSt where
  cause : Nat := 0
  active : List Nat := [2]
  plan : Tbl Nat := []
  autoRestarts : Nat := 0
  attempt : Nat := 1
  record : StartRecord := {}
  opened : Bool := false
  slotIx : Nat := 0
  mems : Bool := false
  fwRunning : Nat := 0
  fabRunning : Nat := 0
  passed : List Nat := []
  holdupUf : Nat := 0
  full : Tbl Nat := []
  leaves : Tbl Nat := []
  persistent : Nat := 0
  endedS03 : Bool := false
  endedS07 : Bool := false
  ready : Bool := false
  halted : Bool := false
  ringAtStart : Option Word := none
  writing : Option Nat := none
  startVotes : List Nat := []
  deriving DecidableEq, Repr

end Sys2Proof.Machine
end

