-- ==== Sys2Proof/Machine/UnitsCapture.lean ====
section
/-! DEFINITION. Machine/UnitsCapture.lean: the state of the capture side that is not a BAR0 register: strips, leaves,
quires, streams, lane intake, triggers, and the dataflow queues and ops of the sewing frame. -/
namespace Sys2Proof.Machine

/-! ## Sewing frame (spec/17) -/

/-- A dataflow queue (R463, R464, R483). A token is its 64 bytes as one little-endian number. `consumer` 0 NONE, 1 OP, 2
HOST, 3 PRESS, 4 CAPTURE; `unit` is the consuming op, lane or stream. -/
structure Dq where
  alloc : Bool := false
  consumer : Nat := 0
  unit : Nat := 0
  depth : Nat := 0
  tokens : List Nat := []
  reserved : Nat := 0
  discards : Nat := 0
  deriving DecidableEq, Repr

/-- An op (R466, R467): `state` as R467 encodes it; inputs as (DQ, count), outputs as (DQ, out_max); `seq` the next task
number; `commit` the sequence place that commits next when ordered. `migrate` holds a DRAIN migration's new class and
priority, `passed` the sequence places of tasks that ended before their turn (R475). -/
structure Op where
  state : Nat := 0
  ordered : Bool := false
  fireAny : Bool := false
  err : Option Nat := none
  cls : Nat := 0
  prio : Nat := 0
  maxInflight : Nat := 0
  ins : List (Nat × Nat) := []
  outs : List (Nat × Nat) := []
  arg : Nat := 0
  seq : Nat := 0
  commit : Nat := 0
  migrate : Option (Nat × Nat) := none
  passed : List Nat := []
  deriving DecidableEq, Repr

/-- A task slot (R468, R472): `phase` 0 free, 1 ready, 2 granted, 3 completed and waiting for its turn. `exec` is the
executor's source number, `ring` the host descriptor's ring entry, `order` the firing order in its pool, `held` the
output tokens returned as (output, token), oldest first; `limit` the host task limit in ms; `lost` the
cause of R480 once the executor can no longer complete the task (R477). -/
structure Task where
  phase : Nat := 0
  gen : Nat := 0
  op : Nat := 0
  seq : Nat := 0
  fired : Nat := 0
  cls : Nat := 0
  prio : Nat := 0
  taken : List Nat := []
  places : List Nat := []
  tokens : List Nat := []
  redispatched : Bool := false
  order : Int := 0
  exec : Nat := 0
  held : List (Nat × Nat) := []
  limit : Nat := 0
  lost : Option Nat := none
  deriving DecidableEq, Repr

/-- An executor asking for a task (R471, R472): its source number, its pool and, for the host, its descriptor, buffer
and limits. -/
structure Ask where
  source : Nat
  pool : Nat
  host : Option (Desc × Nat × Nat × Nat) := none
  deriving DecidableEq, Repr

/-- The sewing frame (R459 to R480). `pend` lists the pending ops in the order they became pending (R469), `used` the
decisions each (engine, tenant) took in this round (R470), `cache` the cached DQs, least recently used first (R462),
`fetching` the fetches under way with the op that started each, `asks` the executors asking, oldest first, `fired` the
firings so far, `trace` the trace records not yet written. -/
structure SwfSt where
  dq : Tbl Dq := []
  ops : Tbl Op := []
  tasks : Tbl Task := []
  dqHolder : Tbl Nat := []
  opHolder : Tbl Nat := []
  pend : List Nat := []
  used : Tbl Nat := []
  cache : List Nat := []
  fetching : List (Nat × Nat) := []
  asks : List Ask := []
  fired : Nat := 0
  trace : List (List Nat) := []
  deriving DecidableEq, Repr

/-! ## Capture store (spec/11) -/

/-- A strip (R225): type, lane-in-bundle, delta, the field [3:0], and the 60 payload bytes as one little-endian number.
-/
structure Strip where
  type : Nat
  lane : Nat := 0
  delta : Nat := 0
  flags : Nat := 0
  payload : Nat := 0
  deriving DecidableEq, Repr

/-- A leaf (R293, R294): its header fields, its record strips oldest first (a PATTERN leaf has its pattern bytes in
`pat` instead), and the GCM tag. `next` is bits [32:0] of the catchword. -/
structure Leaf where
  ltype : Nat := 1
  flags : Nat := 0
  stream : Nat := 0
  tenant : Nat := 0
  seq : Nat := 0
  base : Nat := 0
  next : Nat := 0
  last : Bool := false
  counter : Nat := 0
  ribbons : Nat := 0
  gaps : Nat := 0
  tag : Nat := 0
  staged : Bool := false
  strips : List Strip := []
  pat : Tbl Nat := []
  deriving DecidableEq, Repr

/-- A quire record (R296) with its sealed leaves. `written` counts the leaves written to the front tier (R299);
`copy` the target and slot of a drain copy (R305). -/
structure Quire where
  state : Nat := 0
  flags : Nat := 0
  stream : Nat := 0
  tenant : Nat := 0
  ltype : Nat := 0
  counter : Nat := 0
  prev : Option Nat := none
  next : Option Nat := none
  target : Nat := 15
  slot : Nat := 0
  first : Nat := 0
  last : Nat := 0
  used : Nat := 0
  gaps : Nat := 0
  ribbons : Nat := 0
  digest : Nat := 0
  written : Nat := 0
  copy : Option (Nat × Nat) := none
  leaves : Tbl Leaf := []
  deriving DecidableEq, Repr

/-- The leaf a stream is filling (R295): its quire and index, the reference of R225, its strips oldest first; of a PATTERN
leaf its bytes, and the mask of those written (R441). -/
structure OpenLeaf where
  index : Nat
  base : Nat := 0
  ref : Nat := 0
  lastTime : Nat := 0
  flags : Nat := 0
  ribbons : Nat := 0
  gaps : Nat := 0
  strips : List Strip := []
  pat : Tbl Nat := []
  filled : Nat := 0
  deriving DecidableEq, Repr

/-- A strip on its way into a leaf: its header time in LSB and its fields. -/
structure Item where
  time : Nat
  type : Nat
  lane : Nat := 0
  flags : Nat := 0
  payload : Nat := 0
  key : Nat := 0
  /-- The symbol periods stored or missing that CAP.STREAM_STORED and STREAM_GAP count (R309). -/
  stored : Nat := 0
  missing : Nat := 0
  /-- The event token the placing produces (R20): kind and the token bytes after the common ones. -/
  token : Option (Nat × Nat) := none
  /-- The RIBBON descriptor that completes when the ribbon is placed (R275). -/
  desc : Option Desc := none
  deriving DecidableEq, Repr

/-- A gap open on a member (R233): its cause, its first missing symbol, where its present piece starts. -/
structure Gap where
  cause : Nat
  first : Nat
  pos : Nat := 0
  deriving DecidableEq, Repr

/-- A suppressed run (R239): the P units with which the present FILL_RUN piece begins, that piece's first time and
position, and the units counted in it. -/
structure Run where
  units : List Nat
  start : Nat
  pos : Nat
  count : Nat
  deriving DecidableEq, Repr

/-- The intake of one member of a stream (R228 to R243): the DATA strip being filled (bits, count, first bit's time,
and the unit boundary among them), the units held back for suppression, the run, the gap and its causes, the position
of the next unit since deskew, the end time of the last unit. -/
structure Member where
  lane : Nat := 0
  bits : Nat := 0
  nbits : Nat := 0
  start : Nat := 0
  spos : Nat := 0
  held : List (Nat × Nat × Bool) := []
  run : Option Run := none
  gap : Option Gap := none
  causes : List Nat := []
  ended : Nat := 0
  pos : Nat := 0
  unit : Nat := 0
  unitTime : Nat := 0
  store : Option Gap := none
  storeDone : List Item := []
  deriving DecidableEq, Repr

/-- A stream's state beside its CAP registers (R289 to R310): members, bundle index, trigger, event DQs (R571), event
sequence numbers (R20), the open leaf, the current quire and the next one, the quires of the capture oldest first, the
leaf sequence, whether the first leaf was sealed, the ring state (R304), the quires still to allocate after the trigger,
the gate's stored intervals (R268), units held for the gate, items waiting for their place (R227, R241), the codeword
sequence, the writer the DEVICE stream is bound to (R675: 1 sewing frame, 2 NoC probes, 3 foliation, 4 ribbons). -/
structure Stream where
  members : List Member := []
  sector : Nat := 0
  coding : Nat := 0
  bundle : Option Nat := none
  trigger : Option (Bool × Nat) := none
  dqs : List (Option Nat) := []
  ribbonDq : Option Nat := none
  evSeq : List Nat := [0, 0, 0, 0, 0]
  leaf : Option OpenLeaf := none
  cur : Option Nat := none
  index : Nat := 0
  next : Option Nat := none
  quires : List Nat := []
  seq : Nat := 0
  resumed : Bool := false
  ringStopped : Bool := false
  trigMark : Option Nat := none
  asked : Bool := false
  stopAt : Option Nat := none
  stopDesc : Option Desc := none
  gates : List (Nat × Option Nat) := []
  delay : List (Nat × Nat × Nat × Bool) := []
  wait : List Item := []
  notes : List Item := []
  wasWaiting : Bool := false
  fecSeq : Nat := 0
  deskewed : Bool := false
  ltype : Nat := 1
  spare : List Nat := []
  post : Nat := 0
  staging : Bool := false
  bound : Nat := 0
  deriving DecidableEq, Repr

/-- The capture store (R289 to R310): streams, quires, the seal slots of the colophon store, the wait list (R300), the
drain queue (R305), the ribbons scheduled for a timestamp (R275), the tokens due (R263). -/
structure CapSt where
  streams : Tbl Stream := []
  quires : Tbl Quire := []
  seals : Tbl Quire := []
  sealPending : List Nat := []
  frontUsed : Tbl Nat := []
  deepUsed : Tbl Nat := []
  waitList : List Nat := []
  drain : List Nat := []
  ribbons : List (Nat × Nat × Nat × Nat × Desc) := []
  tokens : List (Nat × Nat × Nat) := []
  deriving DecidableEq, Repr

/-! ## Collator (spec/12) -/

/-- A stream of a session (R327): the sequence of the first leaf the session reads of it, the first and last time it was
overtaken in and has not yet reported (R337), a release not yet reported (R338), whether it has ended. -/
structure SessStream where
  id : Nat
  base : Nat := 0
  overrun : Option (Nat × Nat) := none
  releasing : Bool := false
  released : Bool := false
  ended : Bool := false
  deriving DecidableEq, Repr

/-- A session (R327): its descriptor, modes (R331), destination 0 HOST, 1 CORE, 2 SECTION with its core or section, the
ring's base, slots, head and the tail last read, type mask, start and end, the key of the last record returned, the
integrity failures handled (leaf number, or 2^33 + quire), whether it ends PARTIAL. -/
structure Session where
  desc : Desc
  follow : Bool := false
  mark : Bool := false
  dest : Nat := 0
  unit : Nat := 0
  ring : Nat := 0
  slots : Nat := 0
  head : Nat := 0
  tail : Nat := 0
  mask : Nat := 0
  start : Nat := 0
  stop : Nat := 0
  streams : List SessStream := []
  last : List Nat := []
  seen : List Nat := []
  partly : Bool := false
  deriving DecidableEq, Repr

/-- The collator: its open sessions by number, the engine the next one gets (R335). -/
structure CollSt where
  sessions : List (Nat × Session) := []
  engine : Nat := 0
  deriving DecidableEq, Repr

/-! ## Lanes (spec/07, spec/08) -/

/-- A digitizer acquisition running on a tap (R201 to R208): whether the reference edge is the trigger itself, the
descriptor that waits, the record number, the point and the samples summed for it, the values of the strip being filled
with its first trigger time, the values stored, the record's first leaf, whether the descriptor strip is written; for
TDR the launch plateau's sum and count and the first discontinuity (delay, value). -/
structure DigRun where
  unlocked : Bool
  desc : Option Desc := none
  number : Nat := 0
  point : Nat := 0
  sum : Int := 0
  count : Nat := 0
  values : List Int := []
  time : Nat := 0
  stored : Nat := 0
  leaf : Nat := 0
  begun : Bool := false
  plateau : Int := 0
  plateauN : Nat := 0
  found : Option (Nat × Int) := none
  deriving DecidableEq, Repr

/-- A lane beside its registers: the 20 receiver coefficients (R178), the descrambler (R219), received bits for the
match units (newest at bit 511) and how many are valid (R257), the acquisitions of the taps, their record numbers, the
descriptor of a running probe, an enable waiting for an RX_DETECT, FIR settings waiting for their symbol boundary (R175). -/
structure LaneSt where
  coef : Tbl Int := []
  scramble : BitVec 58 := 0
  rx : Nat := 0
  rxCount : Nat := 0
  tx : Nat := 0
  txCount : Nat := 0
  dig0 : Option DigRun := none
  dig1 : Option DigRun := none
  rec0 : Nat := 0
  rec1 : Nat := 0
  probe : Option (Nat × Option Desc) := none
  fir : Word := 0x00803F00#32
  pendingEnable : Bool := false
  tdrProgram : Bool := false
  deriving DecidableEq, Repr

/-- A slice failover in progress in a sector (R245): the failed slice and its octet. -/
structure SectorSt where
  checkpoint : Nat := 0
  failover : Option (Nat × Nat) := none
  offsets : Tbl (List Nat) := []
  bad : Tbl Nat := []
  deriving DecidableEq, Repr

/-! ## Triggers (spec/10) -/

/-- An event at a sector's trigger logic (R259): the sector, the condition, the event time, and the sequencer of a
SOFTWARE condition. -/
structure TrigEvent where
  sector : Nat
  cond : Nat
  time : Nat
  seq : Nat := 0
  word : Nat := 0
  deriving DecidableEq, Repr

/-- The trigger logic beside its registers: events not yet evaluated, the last slot evaluated in each sector, the INC
and CLR actions for the next slot (sector x 16 + counter), the time of each sequencer's last ribbon, line events due,
the counters that auto_clear starts at 0 in the next slot. -/
structure TrigSt where
  events : List TrigEvent := []
  slot : Tbl Nat := []
  incs : Tbl Nat := []
  clrs : List Nat := []
  lastRibbon : Tbl Nat := []
  lines : List (Nat × Nat) := []
  autoClr : List Nat := []
  deriving DecidableEq, Repr

end Sys2Proof.Machine
end

