-- ==== Sys2Proof/Machine/UnitsPress.lean ====
section
/-! DEFINITION. Machine/UnitsPress.lean: the state of the press and of the FRAME streams that is not a BAR0 register
(spec/13, spec/14). -/
namespace Sys2Proof.Machine

/-- The output instruction or relay edit at the wire position, with the units still to do (R348, R359). -/
inductive Seg where
  /-- SEND or SENDK: units from a bit address of the pattern stream. -/
  | pattern (ptr addr n : Nat)
  /-- IDLE. -/
  | idle (n : Nat)
  /-- SEND_EV: the payload units of the last event taken. -/
  | payload (bits n : Nat)
  /-- PASS. -/
  | pass (n : Nat)
  /-- DROP: units still to delete as they arrive. -/
  | drop (n : Nat)
  /-- PASS_UNTIL a matcher. -/
  | passUntil (m : Nat)
  deriving DecidableEq, Repr

/-- A press event (R351): source 0 SEQUENCER, 1 LINE, 2 SOFTWARE, 3 GRAPH; its value, its event time and, for GRAPH, its
payload units and bits. -/
structure PressEvent where
  source : Nat
  value : Nat
  time : Nat
  units : Nat := 0
  payload : Nat := 0
  deriving DecidableEq, Repr

/-- A lane's press (R347 to R366). `cur` is the instruction on the wire; `due` the events on their way to the queue, `evq`
the queue; `wait` the sources, deadline flag and timeout target of a WAIT_EVENT; `timeWait` a WAIT_TIME; `inj` an armed
injection (len, pos, units to go) and `carry` its bits still to invert; `lines` the leaves in the cache, oldest first,
`pins` the pinned leaves of each pointer; `backlog` the received units not yet sent, oldest first; `resync` the source
lost; `before` the state before a freeze; `wire` the time of the next wire position; `idleIx` the next idle unit. -/
structure PressSt where
  loaded : Bool := false
  program : List Nat := []
  entry : Nat := 0
  stream : Nat := 0
  pressDq : Nat := 0
  notifyDq : Nat := 0
  ptr : List Nat := [0, 0, 0, 0]
  k : List Nat := [0, 0, 0, 0]
  t : Nat := 0
  ev : Nat := 0
  payload : Nat × Nat := (0, 0)
  pc : Nat := 0
  cur : Option Seg := none
  evq : List PressEvent := []
  due : List PressEvent := []
  wait : Option (Nat × Bool × Nat) := none
  timeWait : Bool := false
  inj : Option (Nat × Nat × Nat) := none
  carry : Nat := 0
  startAt : Nat := 0
  before : Nat := 0
  resumeAt : Nat := 0
  wire : Nat := 0
  idleIx : Nat := 0
  lines : List Nat := []
  pins : Tbl (List Nat) := []
  backlog : List Nat := []
  resync : Bool := false
  scramble : BitVec 58 := 0
  tdrPos : Nat := 0
  deriving DecidableEq, Repr

/-- A frame entry (R373). -/
structure FrameEntry where
  addr : Nat := 0
  n : Nat := 0
  gap : Nat := 0
  notify : Bool := false
  inline : Bool := false
  tag : Nat := 0
  bits : Nat := 0
  deriving DecidableEq, Repr

/-- A frame not yet delivered (R381, R382): its sequence, entry, the lanes that started and skipped it with the skip
causes, the earliest start, and whether it was debited. -/
structure FrameRec where
  seq : Nat
  entry : FrameEntry
  started : Nat := 0
  skipped : Nat := 0
  causes : Nat := 0
  first : Nat := 0
  debited : Bool := false
  deriving DecidableEq, Repr

/-- An ALIGNED grant (R380): its time, the lanes reserved, those of them at a frame boundary, and the start time T. -/
structure Grant where
  time : Nat
  reserved : Nat
  atBoundary : Nat := 0
  start : Option Nat := none
  deriving DecidableEq, Repr

/-- A FRAME stream (R372 to R384): the shaper's level in 2^-16 bit and the rate in force; the frames in progress, oldest
first, the last of them the head; the next list entry and the repeats left; an ALIGNED grant; the time of a
pending start. -/
structure FrameSt where
  level : Option Int := none
  rate : Nat := 0
  pattern : Nat := 0
  frames : List FrameRec := []
  head : Option FrameEntry := none
  seq : Nat := 0
  listIx : Nat := 0
  repeats : Nat := 0
  overrun : Bool := false
  grant : Option Grant := none
  startAt : Nat := 0
  deriving DecidableEq, Repr

/-- A lane in FRAME mode (R375): the frame it sends (its stream, bit address or inline bits, units left, gap left), the
sequence of the next frame of each INDEPENDENT stream, the stream it last served. -/
structure FrameLane where
  stream : Nat := 0
  entry : Option FrameEntry := none
  sent : Nat := 0
  lastServed : Nat := 0
  nextSeq : Tbl Nat := []
  deriving DecidableEq, Repr

end Sys2Proof.Machine
end

