-- ==== Sys2Proof/Machine/UnitsSystem.lean ====
section
/-! DEFINITION. Machine/UnitsSystem.lean: the state, beside its registers, of the Brynust ports, debug, the collator, the
keys, the memory controllers, the signal cores, the fabric, the NoC, foliation and the general I/O. -/
namespace Sys2Proof.Machine

/-! ## Brynust (spec/22) -/

/-- A Brynust port: the next seq to send, the last seq received in order (R582), the sequenced flits sent and not
acknowledged (seq, kind, origin, payload), oldest first (R583), the times of its last retrains, the t1 of the TIME flit
it last sent, the seq of the last NAK, the NAKs of it in a row and the failed sessions in a row (R451, R583), and the
packets being received, by 64 x origin + 8 x destination + vc. -/
structure BryPort where
  seq : Nat := 1
  ack : Nat := 0
  replay : List (Nat × Nat × Nat × List Nat) := []
  retrains : List Nat := []
  naks : Nat := 0
  t1 : Nat := 0
  lastNak : Option Nat := none
  sessFails : Nat := 0
  asm : Tbl (List Nat) := []
  deriving DecidableEq, Repr

/-- The ring: the ports, the numbers given to this device's own ring-wide flits, the ring-wide flits already acted on
(origin, number, payload), the offsets of R587 (last 1,024), a remote access under way, the upstream port, the ring-A links
not UP beyond this device's own, whether the offset of formation is still to be applied (R588). -/
structure BrySt where
  ports : Tbl BryPort := []
  number : Nat := 0
  seen : List (Nat × Nat × List Nat) := []
  offsets : List Int := []
  rmt : Bool := false
  upstream : Nat := 1
  farDown : Nat := 0
  settle : Bool := false
  deriving DecidableEq, Repr

/-! ## NoC (spec/20) -/

/-- The NoC beside its registers: the pairs whose flows are held while moved flits are delivered (R546), the pairs powered
down (R547). -/
structure NocSt where
  held : List Nat := []
  off : List Nat := []
  deriving DecidableEq, Repr

/-! ## Signal cores (spec/18, spec/19) -/

/-- A register write in the pipeline (R491): the issue cycles it still waits, what it writes (0 D, 1 A, 2 M, 3 ACC, 4 a
decision bit into DEC, 5 special register, 6 flags under `mask`), which one, and the value. -/
structure CWrite where
  left : Nat
  kind : Nat
  ix : Nat := 0
  value : Nat := 0
  mask : Nat := 0
  deriving DecidableEq, Repr

/-- A signal core (R488): its registers (numbers of their width), memories, the pipeline's pending writes in issue
order, the delay slots left with their target, the repetitions left, what RETE resumes (R505), whether SR is restored at
the next issue, whether the boundary before it takes no interrupt (R506), the interrupt sources set, the state before a
halt, and the queue of DMA command blocks with the status of the one served. -/
structure CoreSt where
  d : Tbl Nat := []
  a : Tbl Nat := []
  m : Tbl Nat := []
  acc : Tbl Nat := []
  dec : Nat := 0
  rrb : Nat := 0
  ls0 : Nat := 0
  le0 : Nat := 0
  lc0 : Nat := 0
  ls1 : Nat := 0
  le1 : Nat := 0
  lc1 : Nat := 0
  rot0 : Bool := false
  rot1 : Bool := false
  sr : Nat := 0
  pc : Nat := 0
  th : Nat := 0
  epc : Nat := 0
  ebt : Nat := 0
  eslot : Nat := 0
  erc : Nat := 0
  ecause : Nat := 0
  esr : Nat := 0
  tcmp : Nat := 18446744073709551615
  imem : Tbl Nat := []
  dmem : Tbl Nat := []
  pipe : List CWrite := []
  slots : Nat := 0
  target : Nat := 0
  rep : Nat := 0
  rete : Option (Nat × Nat × Nat) := none
  restore : Bool := false
  hold : Bool := false
  src : Nat := 0
  before : Nat := 0
  ringHead : Nat := 0
  dma : List Nat := []
  dmaStatus : Option Nat := none
  deriving DecidableEq, Repr

/-! ## Memory controllers (spec/15) -/

/-- The memory controllers beside their registers: the degraded rows (stack, row address) of R397; the recent
uncorrectable reads (address, time) by stack x 64 + pseudo-channel (R400), by channel x 32 + rank (R408) and by CXL port
(R416); the leaves that cannot be rebuilt (leaf number, quire counter); the retired ranks not replaced (channel x 32 +
rank); the stacks and ranks refreshed at the double rate (R395, R405); the time of each rank's last refresh. -/
structure MemSt where
  degraded : List (Nat × Nat) := []
  hbmUe : Tbl (List (Nat × Nat)) := []
  ddrUe : Tbl (List (Nat × Nat)) := []
  cxlUe : Tbl (List (Nat × Nat)) := []
  broken : List (Nat × Nat) := []
  retired : List Nat := []
  hotStacks : List Nat := []
  hotRanks : List Nat := []
  refreshed : Tbl Nat := []
  deriving DecidableEq, Repr

/-! ## Observability (spec/26) -/

/-- A foliation (R666 to R674): its time T, whether a ring foliation and its ring number, LATE, STEPPED, and the time of
the copy. -/
structure Foliation where
  t : Nat
  ring : Bool := false
  number : Nat := 0xFFFFFFFF
  late : Bool := false
  stepped : Bool := false
  copy : Nat := 0
  deriving DecidableEq, Repr

/-- Foliation: the pending one, the one whose shadows are being written, the registers as they stood at the last copy
(the stored differences of `State.regs`). -/
structure ObsSt where
  fol : Option Foliation := none
  writing : Option Foliation := none
  shadow : Tbl Word := []
  deriving DecidableEq, Repr

/-! ## Fabric (spec/05, spec/06) -/

/-- A slice's registers (R131 to R137): the operands registered, the product stage, the accumulator, T, DEC, OVF and P of
ACS mode. -/
structure SliceSt where
  a : Nat := 0
  b : Nat := 0
  c : Nat := 0
  op : Nat := 0
  ce : Bool := false
  x : Int := 0
  cx : Nat := 0
  acc : Int := 0
  t : Nat := 0
  dec : Bool := false
  ovf : Bool := false
  deriving DecidableEq, Repr

/-- A load accepted and not ended (R155): its descriptor, its sections, whether it releases them, whether it has the
engine. -/
structure FabLoad where
  desc : Desc
  sections : List Nat
  auto : Bool
  engine : Bool := false
  deriving DecidableEq, Repr

/-- Sections on their way to another holder, once cleared (R153, R572, R574). -/
structure SectMove where
  desc : Option Desc
  holder : Nat
  first : Nat
  count : Nat
  deriving DecidableEq, Repr

/-- The fabric beside its registers. Cells and slices are keyed by 65,536 x section + cell and 32 x section + slice; a
memory word by 32,768 x (66 x section + memory) + address, its 40 data bits below the 47 flipped bits of R149; read data
by 2 x (66 x section + memory) + port, with SERR, DERR and COLL above its 40 bits; `scrub` the scrubber's place in a
section; `waits` the descriptors that a sects next state completes; `sel` the level of RCLK_SEL by 16 x
section + clock; `low` the clocks held low by a change of input. -/
structure FabSt where
  cells : Tbl CellCfg := []
  ff : Tbl Bool := []
  shift : Tbl Nat := []
  slices : Tbl SliceCfg := []
  slice : Tbl SliceSt := []
  ports : Tbl (Nat × Nat) := []
  mem : Tbl Nat := []
  rdata : Tbl Nat := []
  scrub : Tbl Nat := []
  loads : List FabLoad := []
  moves : List SectMove := []
  waits : Tbl (Option Desc) := []
  sel : Tbl Bool := []
  low : List Nat := []
  deriving DecidableEq, Repr

/-! ## Encryption (spec/16) -/

/-- The tenant key slots (R425): the current and the staged key of each (none while absent), each slot's boundary (R445),
the slots queued for the rekey engine (R443), and the words of the ring key written since the start (R455). -/
structure SecSt where
  keys : Tbl (Option Nat) := []
  staged : Tbl (Option Nat) := []
  bounds : Tbl Nat := []
  queue : List Nat := []
  ringWords : Nat := 0
  deriving DecidableEq, Repr

/-! ## General I/O (spec/27) -/

/-- General I/O beside its registers: the banks changing voltage, the GPIO pins found in contention, the pin under load test,
the ADC pass under way (channels still to convert, avg), the failed elements of each sensor, the SMBus sensor index and
register offset (R691), and whether the port acknowledges no further bytes (R634). -/
structure GioSt where
  changing : List Nat := []
  contend : List Nat := []
  load : Option Nat := none
  pass : Option (List Nat × Nat) := none
  elems : Tbl Nat := []
  smbSensor : Nat := 0
  smbOffset : Nat := 0
  smbMute : Bool := false
  deriving DecidableEq, Repr

/-! ## Debug (spec/25) -/

/-- The debug port's registers (R644, R645): SPACE and ADDR, the sticky error with its cause, the last command carried out
(register, write, tag, data) and its result (response, data), none while its access runs. -/
structure PortSt where
  space : Nat := 0
  addr : Nat := 0
  errSeen : Bool := false
  cause : Nat := 0
  last : Option (Nat × Bool × Bool × Nat) := none
  res : Option (Nat × Nat) := none
  deriving DecidableEq, Repr

/-- Debug: the group of each unit in one (kind, index, group); the units asked to halt and not yet stopped, and those stopped,
with what stopped them (kind, index, the group or 8) (R651 to R654); the comparators' match counts and those armed by the one
before (R656); the halt events due (group, time); the debug port; the challenge issued and not answered (path, method,
scope, tenant); by path (1 port, 2 monitor) the failures in a row, the length and the end of a lockout (R649); the
time of the session's last port transaction (R650). -/
structure DbgSt where
  groups : List (Nat × Nat × Nat) := []
  asked : List (Nat × Nat × Nat) := []
  stopped : List (Nat × Nat × Nat) := []
  compCount : Tbl Nat := []
  compArmed : List Nat := []
  halts : List (Nat × Nat) := []
  port : PortSt := {}
  nonce : Option (Nat × Nat × Nat × Nat) := none
  fails : Tbl Nat := []
  lockLen : Tbl Nat := []
  lock : Tbl Nat := []
  lastPort : Nat := 0
  deriving DecidableEq, Repr

end Sys2Proof.Machine
end

