-- ==== Sys2Proof/Machine/State.lean ====
section
/-! DEFINITION. Machine/State.lean: the whole state of a TM5140, as plain data, the ways a command can stop, and the
state right after reset. -/
namespace Sys2Proof.Machine

/-- The ways a command stops with a fault. -/
inductive Fault where
  /-- A command names a unit that the spec says does not exist: an index outside its Count column (R703). Raised by the
  commands whose operand is a plain number. Safe: the machine stops where the hardware has no such unit. -/
  | noSuchUnit
  deriving DecidableEq, Repr

/-- The ways a command is refused. -/
inductive Refusal where
  /-- The command has no meaning in this model. Raised by its arm in exec. Safe: the machine stops. -/
  | notModelled (mnemonic : String)
  deriving DecidableEq, Repr

/-- The state. `regs` holds every BAR0 register by its byte offset, as its difference from the reset word; `latch` the
latched words of R710 by 512 x offset + path latch; `tenants` the rings and function pages; `out` what the device has
sent, newest first; `free` counts the free values used; `pending` the commands waiting, first in, first out. -/
structure State where
  regs : Tbl Word := []
  latch : Tbl (List Word) := []
  tenants : Tbl Tenant := []
  ras : RasSt := {}
  sup : SupSt := {}
  pwr : PwrSt := {}
  clk : ClkSt := {}
  boot : BootSt := {}
  colo : ColoSt := {}
  trigPinHolder : Tbl Nat := []
  swf : SwfSt := {}
  cap : CapSt := {}
  coll : CollSt := {}
  lanes : Tbl LaneSt := []
  sectors : Tbl SectorSt := []
  trig : TrigSt := {}
  press : Tbl PressSt := []
  frames : Tbl FrameSt := []
  frameLanes : Tbl FrameLane := []
  noc : NocSt := {}
  bry : BrySt := {}
  cores : Tbl CoreSt := []
  dbg : DbgSt := {}
  mem : MemSt := {}
  obs : ObsSt := {}
  fab : FabSt := {}
  sec : SecSt := {}
  gio : GioSt := {}
  out : List Out := []
  free : Nat := 0
  pending : List Instr := []
  deriving DecidableEq, Repr

/-- The machine right after reset: every register at its reset value (R708), a start running at S02 with nothing else
done (R88), the queue of commands empty. -/
def State.reset : State := {}

end Sys2Proof.Machine
end

