-- ==== Sys2Proof/Machine/Ops.lean ====
section
/-! DEFINITION. Machine/Ops.lean: the named operations every command shares: register fields, counters, the error report
of R716, what the device sends, free values, the event log, fault declarations, completions and power domains. -/
namespace Sys2Proof.Machine

/-! ## Registers and fields (R702, R703, R707) -/

/-- The word of a register instance: the stored difference from its reset word (R708). -/
def State.word (s : State) (r : RegDef) (i : Nat := 0) (j : Nat := 0) (k : Nat := 0) : Word :=
  Tbl.get 0#32 s.regs (r.addr i j k) ^^^ r.reset i j k

/-- Write the word of a register instance. -/
def State.setWord (s : State) (r : RegDef) (v : Word) (i : Nat := 0) (j : Nat := 0) (k : Nat := 0) : State :=
  { s with regs := Tbl.set 0#32 (r.addr i j k) (v ^^^ r.reset i j k) s.regs }

/-- A number with bits `hi` to `lo` replaced by `v`. -/
def putBits (w hi lo v : Nat) : Nat :=
  (w >>> (hi + 1)) * 2 ^ (hi + 1) + (v % 2 ^ (hi + 1 - lo)) * 2 ^ lo + w % 2 ^ lo

/-- The value of a field. -/
def State.get (s : State) (f : Fld) (i : Nat := 0) (j : Nat := 0) (k : Nat := 0) : Nat :=
  bits (s.word f.r i j k).toNat f.hi f.lo

/-- Write a field (its low bits), leaving the register's other bits. -/
def State.put (s : State) (f : Fld) (v : Nat) (i : Nat := 0) (j : Nat := 0) (k : Nat := 0) : State :=
  s.setWord f.r (BitVec.ofNat 32 (putBits (s.word f.r i j k).toNat f.hi f.lo v)) i j k

/-- Whether a one-bit field is set. -/
def State.on (s : State) (f : Fld) (i : Nat := 0) (j : Nat := 0) (k : Nat := 0) : Bool := s.get f i j k == 1

/-- Set a one-bit field: an event flag or a status bit. -/
def State.ev (s : State) (f : Fld) (i : Nat := 0) (j : Nat := 0) (k : Nat := 0) : State := s.put f 1 i j k

/-- Clear a field. -/
def State.clr (s : State) (f : Fld) (i : Nat := 0) (j : Nat := 0) (k : Nat := 0) : State := s.put f 0 i j k

/-- Add to a saturating counter (RC and RW counters, R664). -/
def State.cnt (s : State) (f : Fld) (n : Nat := 1) (i : Nat := 0) (j : Nat := 0) (k : Nat := 0) : State :=
  s.put f (satNat f.width (s.get f i j k + n)) i j k

/-- Add to a counting field that wraps at its width (R664). -/
def State.cntWrap (s : State) (f : Fld) (n : Nat := 1) (i : Nat := 0) (j : Nat := 0) (k : Nat := 0) : State :=
  s.put f (s.get f i j k + n) i j k

/-- The value of a _LO and _HI pair. -/
def State.pair (s : State) (lo hi : RegDef) (i : Nat := 0) : Nat :=
  (s.word lo i).toNat + (s.word hi i).toNat * 2 ^ 32

/-- Write a _LO and _HI pair (wrapping at 64 bits). -/
def State.setPair (s : State) (lo hi : RegDef) (v : Nat) (i : Nat := 0) : State :=
  (s.setWord lo (BitVec.ofNat 32 v) i).setWord hi (BitVec.ofNat 32 (v >>> 32)) i

/-- Add to a 64-bit counter pair, wrapping (R664). -/
def State.addPair (s : State) (lo hi : RegDef) (n : Nat) (i : Nat := 0) : State :=
  s.setPair lo hi (s.pair lo hi i + n) i

/-- Apply a function when a condition holds. -/
def State.when (s : State) (c : Bool) (f : State → State) : State := if c then f s else s

/-- Apply an operation for each element of a list, in order. -/
def State.each {α : Type} (s : State) (l : List α) (f : State → α → State) : State := l.foldl f s

/-! ## Error report (R716, R717) -/

/-- The path code of R717. -/
def pathCode : Path → Nat
  | .bar0 => 0
  | .descriptor _ => 1
  | .debugger => 2
  | .management => 3

/-- The tenant a path writes as (R706, check 3): T000 for BAR0. -/
def pathTenant : Path → Nat
  | .descriptor t => t.toNat
  | _ => 0

/-- The latch number of a path (R710). -/
def pathLatch : Path → Nat
  | .bar0 => 0
  | .management => 1
  | .debugger => 2
  | .descriptor t => 3 + t.toNat

/-- Record an event of GLB.ERR_STATUS with GLB.ERR_INFO (R716, R717); `kind` is the code of R717. -/
def State.err (s : State) (kind off : Nat) (p : Path) : State :=
  let s := s.setWord Reg.GLB_ERR_STATUS
    (s.word Reg.GLB_ERR_STATUS ||| BitVec.ofNat 32 (2 ^ (kind - 1)))
  ((s.put F.GLB_ERR_INFO_kind kind).put F.GLB_ERR_INFO_offset (off / 4)).put F.GLB_ERR_INFO_path (pathCode p)

/-- A reserved encoding: the write is discarded whole (R706, check 4). -/
def State.badEncoding (s : State) (off : Nat) (p : Path) : State := s.err V.GLB_ERR_INFO_kind_BAD_ENCODING off p

/-- A lost write (R711, R712 and the rules that name it). -/
def State.lostWrite (s : State) (off : Nat) (p : Path) : State :=
  (s.err V.GLB_ERR_INFO_kind_LOST_WRITE off p).cnt F.GLB_LOST_WRITES_value

/-! ## Time, free values and what the device sends -/

/-- The present timestamp (R69). -/
def State.now (s : State) : Nat := s.clk.timebase.toNat

/-- Let time pass to a timestamp ahead, at the root cycle that reaches it (R69, log entry 6): the commands that stand for a
scheduled time use it. -/
def State.advanceTo (s : State) (t : Nat) : State :=
  if s.now < t then { s with clk := { s.clk with timebase := BitVec.ofNat 64 ((t + 7) / 8 * 8) } } else s

/-- A fresh free value: a number nothing constrains (log entry 3). -/
def State.fresh (s : State) : Nat × State := (Config.freeValue s.free, { s with free := s.free + 1 })

/-- Send something out of the device. -/
def State.send (s : State) (o : Out) : State := { s with out := o :: s.out }

/-- Send a host request of a tenant: withheld while the function's Bus Master Enable is 0 (R556). -/
def State.sendHost (s : State) (t : Nat) (o : Out) : State :=
  let x := Tbl.get {} s.tenants t
  if x.bme then s.send o
  else { s with tenants := Tbl.set {} t { x with withheld := x.withheld ++ [o] } s.tenants }

/-- Write descriptor data to host memory (R555). -/
def State.hostWrite (s : State) (t addr : Nat) (bytes : List Nat) : State := s.sendHost t (.hostWrite t addr bytes)

/-- A tenant. -/
def State.ten (s : State) (t : Nat) : Tenant := Tbl.get {} s.tenants t

/-- Replace a tenant. -/
def State.setTen (s : State) (t : Nat) (x : Tenant) : State := { s with tenants := Tbl.set {} t x s.tenants }

/-! ## Event log (R608 to R611) -/

/-- Post a log entry to the writer's buffer (R611): suppressed beyond 64 in a window, lost when the buffer of 256 is
full. -/
def State.log (s : State) (code severity unit : Nat) (detail : List Nat) : State :=
  let win := s.ras.windows.find? (fun w => w.code == code && w.unit == unit)
  let written := match win with | some w => w.written | none => 0
  if win.isSome && 64 ≤ written then
    { s with ras := { s.ras with windows := s.ras.windows.map (fun (w : LogWindow) =>
        if w.code == code && w.unit == unit then { w with suppressed := w.suppressed + 1 } else w) } }
  else
    let ws := match win with
      | some _ => s.ras.windows.map (fun (w : LogWindow) =>
          if w.code == code && w.unit == unit then { w with written := w.written + 1 } else w)
      | none => s.ras.windows ++ [{ code := code, unit := unit, written := 1, suppressed := 0 }]
    if 256 ≤ s.ras.buffer.length then
      (({ s with ras := { s.ras with windows := ws, lost := s.ras.lost + 1 } }).cnt F.RAS_LOG_LOST_value).ev
        F.RAS_EVENTS_log_lost
    else
      let e : LogEntry :=
        { severity := severity, code := code, seq := s.ras.nextSeq, time := s.clk.timebase,
          startSeq := s.boot.record.seq, unit := unit, detail := detail }
      { s with ras := { s.ras with windows := ws, nextSeq := s.ras.nextSeq + 1, buffer := s.ras.buffer ++ [e] } }

/-- Declare a fault of class F`k` (R600); `second` when its spare or redundancy was already in use (R601). -/
def State.fault (s : State) (k : Nat) (second : Bool) : State :=
  let s := s.put F.RAS_STATUS_class_seen (s.get F.RAS_STATUS_class_seen ||| 2 ^ (k - 1))
  let s := s.cnt F.RAS_FAULT_COUNT_value 1 (k - 1)
  let s := s.ev F.RAS_EVENTS_fault
  s.when second (fun s => s.ev F.RAS_EVENTS_second_fault)

/-- Whether the power-loss sequence runs or the device is OFF: descriptors, BAR0, debug port and pins are ignored (R612).
-/
def State.dead (s : State) : Bool := s.sup.loss.isSome || s.pwr.off

/-! ## Completions (R561 to R566) -/

namespace St
/-! The status codes of R566. -/
abbrev OK : Nat := 0x00
abbrev PARTIAL : Nat := 0x01
abbrev REFUSED_NOT_OWNER : Nat := 0x02
abbrev REFUSED_BUSY : Nat := 0x03
abbrev REFUSED_NOT_READY : Nat := 0x04
abbrev REFUSED_POWER : Nat := 0x05
abbrev ABORTED_POWER : Nat := 0x06
abbrev ABORTED_FAULT : Nat := 0x07
abbrev QUOTA : Nat := 0x08
abbrev KEY_EXHAUSTED : Nat := 0x09
abbrev INTEGRITY : Nat := 0x0A
abbrev OPCODE_UNSUPPORTED : Nat := 0x0B
abbrev RESERVED_FIELD_SET : Nat := 0x0C
abbrev BAD_ARGUMENT : Nat := 0x0D
abbrev TIMEOUT : Nat := 0x0E
abbrev MODE_CONFLICT : Nat := 0x0F
end St

/-- Word `w` of a tenant's MSI-X table; a vector-control word is masked after reset, as PCIe defines. -/
def Tenant.msixWord (x : Tenant) (w : Nat) : Word := Tbl.get (if w % 4 = 3 then 1#32 else 0#32) x.msix w

/-- Send a vector's message, or set its pending bit while it is masked (R564). -/
def State.msix (s : State) (t v : Nat) : State :=
  let x := s.ten t
  if bit (x.msixWord (4 * v + 3)).toNat 0 then
    s.setTen t { x with pba := x.pba ||| BitVec.ofNat 64 (2 ^ v) }
  else s.sendHost t (.msix t v)

/-- Record TENANT_STATUS.outstanding (R579). -/
def State.countOutstanding (s : State) (t : Nat) : State :=
  s.put F.HIF_TENANT_STATUS_outstanding
    (((s.ten t).sq.map (fun p => p.2.outstanding.length)).foldl (· + ·) 0) t

/-- Write a completion of a descriptor (R555, R563, R564). With `more` the descriptor stays outstanding. Nothing is
written where the SQ no longer exists (R574, step 1). -/
def State.complete (s : State) (d : Desc) (status result : Nat) (more : Bool := false) : State :=
  let t := d.tenant.toNat
  let x := s.ten t
  let q := Tbl.get {} x.sq d.ring.toNat
  if !q.present then s
  else
    let c := Tbl.get {} x.cq q.cq
    let size := 2 ^ c.log2
    let e : CqEntry := { tag := d.tag.toNat, status := status, phase := c.phase, more := more, sq := d.ring.toNat,
                         sqEntry := d.entry.toNat, sqHead := q.head, result := result % 2 ^ 64 }
    let tail' := (c.tail + 1) % size
    let since' := if d.noIrq then c.since else c.since + 1
    let fire := !d.noIrq && (c.n == 0 || c.n ≤ since')
    let c' := { c with tail := tail', phase := if tail' = 0 then !c.phase else c.phase,
                       reserved := c.reserved - (1 + b2n (!more && q.twos.contains d.entry.toNat)),
                       since := if fire then 0 else since' }
    let q := { q with twos := q.twos.erase d.entry.toNat }
    let q' := if more then q else { q with outstanding := q.outstanding.erase d.entry.toNat }
    let s := s.setTen t { x with sq := Tbl.set {} d.ring.toNat q' x.sq, cq := Tbl.set {} q.cq c' x.cq }
    let s := s.sendHost t (.completion t q.cq c.tail e)
    let s := s.when fire (fun s => s.msix t c.vector)
    s.countOutstanding t

/-- Complete with OK. -/
def State.ok (s : State) (d : Desc) (result : Nat := 0) : State := s.complete d St.OK result

/-- Complete with a refusal: no other effect (R566). -/
def State.refuse (s : State) (d : Desc) (status : Nat) (result : Nat := 0) : State := s.complete d status result

/-- The checks of a list in order: the first condition that holds gives the status (R29). -/
def firstFailing : List (Bool × Nat) → Option Nat
  | [] => none
  | (c, st) :: r => if c then some st else firstFailing r

/-- The checks of a descriptor with that of its host addresses (R565) among the arguments (R29). -/
def withAddress (bad : Bool) (checks : List (Bool × Nat)) : List (Bool × Nat) :=
  let early := fun (c : Bool × Nat) => c.2 == St.REFUSED_NOT_OWNER || c.2 == St.RESERVED_FIELD_SET
  checks.takeWhile early ++ (bad, St.BAD_ARGUMENT) :: checks.dropWhile early

/-- A failed read of host memory for a tenant (R556). -/
def State.dmaError (s : State) (t : Nat) : State :=
  ((s.cnt F.HIF_DMA_ERRORS_value).ev F.HIF_EVENTS_dma_error).ev F.HIF_TENANT_STATUS_host_dma_error t

/-- A descriptor's buffer read fails (R556, R570). -/
def State.readFailed (s : State) (d : Desc) : State := (s.dmaError d.tenant.toNat).refuse d St.ABORTED_FAULT

/-- Run an accepted descriptor (R29, R93, R567, R604): refused before S16, owner-only opcodes for T000 alone, the five
management opcodes aborted while management is FAILED, then the opcode's own checks, then its effect. -/
def State.descriptor (s : State) (d : Desc) (ownerOnly : Bool) (mgmt : Bool) (checks : List (Bool × Nat))
    (effect : State → State) : State :=
  if s.dead then s
  else if !s.boot.ready then s.refuse d St.REFUSED_NOT_READY
  else if d.rsvSet then s.refuse d St.RESERVED_FIELD_SET
  else if ownerOnly && d.tenant != 0 then s.refuse d St.REFUSED_NOT_OWNER
  else if mgmt && s.get F.RAS_STATUS_mgmt_state == V.RAS_STATUS_mgmt_state_FAILED then s.refuse d St.ABORTED_FAULT
  else match firstFailing (withAddress d.badAddr checks) with
    | some st => s.refuse d st
    | none => effect s

/-! ## Power domains (R618 to R621) -/

/-! Domain numbers by kind (R618). -/
def domSector (i : Nat) : Nat := i
def domSection (i : Nat) : Nat := 16 + i
def domCluster (i : Nat) : Nat := 272 + i
def domHbm (i : Nat) : Nat := 288 + i
def domDdr (i : Nat) : Nat := 300 + i
def domCxl (i : Nat) : Nat := 316 + i
def domBry (i : Nat) : Nat := 319 + i
def domPair (i : Nat) : Nat := 323 + i
def domStaging (i : Nat) : Nat := 327 + i
def domPress (i : Nat) : Nat := 391 + i
def domQsc (i : Nat) : Nat := 455 + i

/-- The domain is ON. -/
def State.domOn (s : State) (n : Nat) : Bool := s.get F.PWR_DOMAIN_STATUS_state n == V.PWR_DOMAIN_STATUS_state_ON

/-- The resolved vote of a domain (R619): 0 ON, 1 RETENTION, 2 OFF, the highest vote held. -/
def State.resolvedVote (s : State) (n : Nat) : Nat :=
  let owner := s.get F.PWR_DOMAIN_STATUS_owner n
  if owner = 0 ∨ s.on F.PWR_DOMAIN_STATUS_start_vote n ∨ s.on F.PWR_DOMAIN_STATUS_test_vote n ∨
     s.on F.PWR_DOMAIN_STATUS_recovery_vote n ∨ 0 < s.get F.PWR_DOMAIN_STATUS_tenants_on n then 0
  else if owner = 1 ∨ 0 < s.get F.PWR_DOMAIN_STATUS_tenants_ret n then 1
  else 2

/-- Record the tenants' votes of a domain and its resolved vote in PWR.DOMAIN_STATUS (R641). -/
def State.resolve (s : State) (n : Nat) : State :=
  let mine := s.pwr.votes.filter (fun p => p.1 / 256 == n)
  let s := s.put F.PWR_DOMAIN_STATUS_tenants_on (satNat 8 (mine.filter (fun p => p.2 == 1)).length) n
  let s := s.put F.PWR_DOMAIN_STATUS_tenants_ret (satNat 8 (mine.filter (fun p => p.2 == 2)).length) n
  s.put F.PWR_DOMAIN_STATUS_resolved (s.resolvedVote n) n

/-- A domain reaches a state at once: 0 ON, 1 RETENTION, 2 OFF (R642 domain_changed). -/
def State.domReach (s : State) (n st : Nat) : State :=
  (s.put F.PWR_DOMAIN_STATUS_state st n).ev F.PWR_EVENTS_domain_changed

/-- A debugger has stopped a unit (R651): kind 0 CORE, 1 SECTION, 2 PRESS, 3 SWF. -/
def State.haltedBy (s : State) (kind ix : Nat) : Bool := s.dbg.stopped.any (fun h => h.1 == kind && h.2.1 == ix)

/-- The device runs: RUN or IDLE (R628). -/
def State.running (s : State) : Bool :=
  let st := s.get F.PWR_DEV_STATUS_state
  st == V.PWR_DEV_STATUS_state_RUN || st == V.PWR_DEV_STATUS_state_IDLE

end Sys2Proof.Machine
end

