-- ==== Sys2Proof/Machine/BryLink.lean ====
section
/-! DEFINITION. Machine/BryLink.lean: sending flits on the Brynust ports (spec/22, R582 to R585). -/
namespace Sys2Proof.Machine

/-! Flit kinds (R582). -/
abbrev Flit.IDLE : Nat := 0
abbrev Flit.NOC : Nat := 1
abbrev Flit.NAK : Nat := 2
abbrev Flit.TIME : Nat := 3
abbrev Flit.LINE : Nat := 4
abbrev Flit.BCAST : Nat := 5
abbrev Flit.TUNNEL : Nat := 6
abbrev Flit.TRAIN : Nat := 7

/-- A Brynust port beside its registers. -/
def State.bryPort (s : State) (p : Nat) : BryPort := Tbl.get {} s.bry.ports p

/-- Replace it. -/
def State.setBryPort (s : State) (p : Nat) (x : BryPort) : State :=
  { s with bry := { s.bry with ports := Tbl.set {} p x s.bry.ports } }

/-- A port is UP. -/
def State.portUp (s : State) (p : Nat) : Bool := s.get F.BRY_PORT_STATUS_state p == V.BRY_PORT_STATUS_state_UP

/-- Ring B is in force: BRY.RING_CFG as it stood at the start (R580, R596). -/
def State.ringB (s : State) : Bool := bit ((s.boot.ringAtStart.getD 0#32).toNat) 28

/-- This device's number on its ring. -/
def State.device (s : State) : Nat := s.get F.BRY_RING_STATUS_device

/-- Send a flit on a port: sequenced kinds take the port's next seq and wait in its replay buffer until acknowledged (R583). -/
def State.sendFlit (s : State) (p kind origin : Nat) (payload : List Nat) : State :=
  let x := s.bryPort p
  if kind = 0 ∨ kind = 2 ∨ kind = 7 then s.send (.flit p kind origin 0 payload)
  else
    let s := s.setBryPort p { x with seq := (x.seq + 1) % 4096, replay := x.replay ++ [(x.seq, kind, origin, payload)] }
    s.send (.flit p kind origin x.seq payload)

/-- Send a ring-wide flit of this device (R585): both ways round ring A, under one number. -/
def State.sendRing (s : State) (kind : Nat) (payload : List Nat) : State :=
  let n := s.bry.number
  let s := { s with bry := { s.bry with number := n + 1 } }
  s.each [0, 1] (fun s p => if s.portUp p then s.sendFlit p kind s.device (n :: payload) else s)

end Sys2Proof.Machine
end

