-- ==== Sys2Proof/Machine/RegAccess.lean ====
section
/-! DEFINITION. Machine/RegAccess.lean: finding the register at a BAR0 offset (R702, R703) and the checks every register
write passes (R706 to R709, R93, R705, R719). -/
namespace Sys2Proof.Machine

/-- The instance index and the rest of a relative offset, for one dimension. -/
def splitIx (c s rel : Nat) : Option (Nat × Nat) :=
  if s = 0 then some (0, rel) else if rel / s < c then some (rel / s, rel % s) else none

/-- The instance of a register at an offset, if the offset is one of its instances (R703). -/
def RegDef.locate (r : RegDef) (off : Nat) : Option (Nat × Nat × Nat) :=
  if off < r.base then none
  else match splitIx r.c1 r.s1 (off - r.base) with
    | none => none
    | some (i, a) => match splitIx r.c2 r.s2 a with
      | none => none
      | some (j, b) => match splitIx r.c3 r.s3 b with
        | none => none
        | some (k, c) => if c = 0 then some (i, j, k) else none

/-- A FRAME stream register of BAR0 (R386) names the stream in PRS.FRM_INDEX; the model keeps one copy per stream above
the 256 MiB of BAR0. -/
def State.translate (s : State) (off : Nat) : Nat :=
  if 0x5B0004 ≤ off ∧ off < 0x5B0048 then
    0x10000000 + 0x100 * s.get F.PRS_FRM_INDEX_stream + (off - 0x5B0000)
  else off

/-- The register at a BAR0 offset with its instance (R702): none in a hole. -/
def findReg (off : Nat) : Option (RegDef × Nat × Nat × Nat) :=
  if off % 4 ≠ 0 then none
  else match Reg.all.find? (fun r => (r.locate off).isSome) with
    | none => none
    | some r => (r.locate off).map (fun x => (r, x))

/-- The bits of a register that no field uses (RSV, R707). -/
def RegDef.rsvMask (r : RegDef) : Nat :=
  0xFFFFFFFF ^^^ (r.rw ||| r.ro ||| r.wo ||| r.w1c ||| r.w1s ||| r.rc ||| r.rwl)

/-- A field of the value written holds a reserved encoding of its table (R706, check 4). -/
def RegDef.badValue (r : RegDef) (v : Nat) : Bool :=
  r.res.any (fun (hi, lo, a, b) => decide (a ≤ bits v hi lo) && decide (bits v hi lo ≤ b))

/-- The blocks a BAR0 access reaches before S16 (R93). -/
def State.openBlock (s : State) (off : Nat) : Bool :=
  s.boot.ready || decide (off < 0x1000) || (decide (0x2000 ≤ off) && decide (off < 0x6000)) ||
    (s.boot.endedS07 && decide (0x1000 ≤ off) && decide (off < 0x2000))

/-- The holder of the unit a register acts on (R706, check 3; R22, R185, R255, R367, R510, R163). -/
def State.unitHolder (s : State) (off i j : Nat) : Nat :=
  if 0x800000 ≤ off ∧ off < 0xA00000 then s.get F.LANE_STATUS_holder ((off - 0x800000) / 0x1000)
  else if 0xA00000 ≤ off ∧ off < 0xA40000 then
    let rel := (off - 0xA00000) % 0x4000
    if 0x100 ≤ rel ∧ rel < 0x500 then s.get F.LANE_STATUS_holder (32 * i + j)
    else if 0x1000 ≤ rel ∧ rel < 0x1800 then s.get F.LANE_STATUS_holder (32 * i + j)
    else if 0x1800 ≤ rel ∧ rel < 0x1900 then s.get F.LANE_STATUS_holder (32 * i + 2 * j)
    else if (0x1900 ≤ rel ∧ rel < 0x1920) ∨ 0x2000 ≤ rel then s.get F.LANE_STATUS_holder (32 * i + 8 * j)
    else 0
  else if 0x500000 ≤ off ∧ off < 0x580000 then s.get F.LANE_STATUS_holder ((off - 0x500000) / 0x400)
  else if 0x2000000 ≤ off ∧ off < 0x4000000 then s.get F.SGC_STATUS_holder ((off - 0x2000000) / 0x20000)
  else if 0x4000000 ≤ off ∧ off < 0x5000000 then s.get F.FAB_SECT_STATUS_holder ((off - 0x4000000) / 0x10000)
  else if 0x9000 ≤ off ∧ off < 0x9300 then Tbl.get 0 s.trigPinHolder i
  else if 0x9400 ≤ off ∧ off < 0x9480 then s.get F.GIO_TLINE_holder i
  else if 0x10000000 ≤ off then s.get F.PRS_FRM_STATUS_holder i
  else 0

/-- Report a BAR0 write to a unit held by another tenant in the wr_refused field its chapter names (R706, check 3). -/
def State.wrRefused (s : State) (off : Nat) : State :=
  if 0x800000 ≤ off ∧ off < 0xA00000 then s.ev F.LANE_EVENTS_wr_refused ((off - 0x800000) / 0x1000)
  else if 0xA00000 ≤ off ∧ off < 0xA40000 then
    let n := (off - 0xA00000) / 0x4000
    if (off - 0xA00000) % 0x4000 < 0x1000 then s.ev F.SECT_INTAKE_EVENTS_wr_refused n
    else s.ev F.SECT_TRIG_EVENTS_wr_refused n
  else if 0x500000 ≤ off ∧ off < 0x580000 then s.ev F.PRS_EVENTS_wr_refused ((off - 0x500000) / 0x400)
  else if 0x2000000 ≤ off ∧ off < 0x4000000 then s.ev F.SGC_EVENTS_wr_refused ((off - 0x2000000) / 0x20000)
  else if 0x4000000 ≤ off ∧ off < 0x5000000 then s.ev F.FAB_SECT_EVENTS_wr_refused ((off - 0x4000000) / 0x10000)
  else if 0x400000 ≤ off ∧ off < 0x500000 then s.ev F.CAP_EVENTS_wr_refused
  else if 0x6000 ≤ off ∧ off < 0x8000 then s.ev F.OBS_EVENTS_wr_refused
  else if 0x8000 ≤ off ∧ off < 0x9000 then s.ev F.GIO_EVENTS_wr_refused
  else if 0x20000 ≤ off ∧ off < 0x30000 then s.ev F.SWF_EVENTS_wr_refused
  else if 0x10000000 ≤ off then s.ev F.PRS_FRM_STATUS_wr_refused ((off - 0x10000000) / 0x100)
  else s

/-- The power domain the unit of a register lies in (R618, R719); none for the always-on blocks. -/
def regDomain (off : Nat) : Option Nat :=
  if 0x800000 ≤ off ∧ off < 0xA00000 then some (domSector ((off - 0x800000) / 0x20000))
  else if 0xA00000 ≤ off ∧ off < 0xA40000 then some (domSector ((off - 0xA00000) / 0x4000))
  else if 0x500000 ≤ off ∧ off < 0x580000 then some (domSector ((off - 0x500000) / 0x8000))
  else if 0x2000000 ≤ off ∧ off < 0x4000000 then some (domCluster ((off - 0x2000000) / 0x200000))
  else if 0x4000000 ≤ off ∧ off < 0x5000000 then some (domSection ((off - 0x4000000) / 0x10000))
  else if 0x100000 ≤ off ∧ off < 0x1C0000 then some (domHbm ((off - 0x100000) / 0x10000))
  else if 0x200000 ≤ off ∧ off < 0x300000 then some (domDdr ((off - 0x200000) / 0x10000))
  else if 0x300000 ≤ off ∧ off < 0x330000 then some (domCxl ((off - 0x300000) / 0x10000))
  else if 0x80000 ≤ off ∧ off < 0x80400 then some (domBry ((off - 0x80000) / 0x100))
  else none

/-- The unit of a register takes writes (R719). -/
def State.regPowered (s : State) (off : Nat) : Bool :=
  match regDomain off with
  | some n => s.domOn n
  | none => true

/-- A refusal a BAR0 write reports by an event and a descriptor by its status (R573). -/
def refuseWrite (s : State) (p : Path) (st : Nat) (event : State → State) : State × Nat :=
  match p with
  | .descriptor _ => (s, st)
  | _ => (event s, st)

/-- Apply a write field by field (R707, R709): RW and WO stored, W1C cleared where written 1, W1S set where written 1,
RWL as RW while the lock is open, everything else ignored. -/
def State.applyWrite (s : State) (p : Path) (r : RegDef) (i j k : Nat) (v : Word) : State :=
  let old := (s.word r i j k).toNat
  let locked := s.on F.SEC_STATUS_locked
  let m := r.rw ||| r.wo ||| (if locked then 0 else r.rwl)
  let new := ((old &&& (0xFFFFFFFF ^^^ m)) ||| (v.toNat &&& m))
  let new := new &&& (0xFFFFFFFF ^^^ (v.toNat &&& r.w1c))
  let new := new ||| (v.toNat &&& r.w1s)
  let s := s.setWord r (BitVec.ofNat 32 new) i j k
  s.when (locked && r.rwl != 0) (fun s => s.err V.GLB_ERR_INFO_kind_LOCKED_WRITE (r.addr i j k) p)

/-- The registers of a held unit that the owner's BAR0 writes all the same: those of a sects FAB block other than
SECT_CTRL and RCLK_CTRL (R163, R149). -/
def ownerOpen (off : Nat) : Bool :=
  decide (0x4000000 ≤ off) && decide (off < 0x5000000) &&
    !(off % 0x10000 == 4 || (decide (0x40 ≤ off % 0x10000) && decide (off % 0x10000 < 0x80)))

/-- A write comes from another tenant than the holder of the unit its register acts on (R706, check 3): the management
processor and a debugger of the DEVICE scope write every unit, and a debugger its own block (R646). -/
def State.foreignWrite (s : State) (p : Path) (off i j : Nat) : Bool :=
  let holder := s.unitHolder off i j
  match p with
  | .management => false
  | .bar0 => holder != 0 && !ownerOpen off
  | .descriptor t => holder != t.toNat
  | .debugger =>
    let t := s.get F.DBG_STATUS_tenant
    !(decide (0xA000 ≤ off) && decide (off < 0xB000)) && (s.get F.DBG_STATUS_session == V.DBG_STATUS_session_NONE ||
      (s.get F.DBG_STATUS_scope != V.DBG_STATUS_scope_DEVICE && holder != t && !(t == 0 && ownerOpen off)))

/-- The checks of R706 in their order, then the chapter's own rule `h`, which answers the state and the status a
descriptor write would get. `bad` is the chapter's further reserved encodings. -/
def State.guardWrite (s : State) (p : Path) (r : RegDef) (i j k : Nat) (v : Word) (bad : Bool)
    (h : State → State × Nat) : State × Nat :=
  let off := r.addr i j k
  let deep := s.get F.PWR_DEV_STATUS_state == V.PWR_DEV_STATUS_state_DEEP_SLEEP
  if s.dead then (s, St.ABORTED_FAULT)
  else if deep && p == .bar0 && !s.on F.PWR_WAKE_CFG_host_en && off != Reg.PWR_WAKE_CFG.base then
    (s.lostWrite off p, St.REFUSED_POWER)
  else if !s.openBlock off then (s.cnt F.BOOT_EARLY_WRITES_value, St.REFUSED_NOT_READY)
  else if s.foreignWrite p off i j then
    match p with
    | .descriptor _ => (s, St.REFUSED_NOT_OWNER)
    | _ => (s.wrRefused off, St.REFUSED_NOT_OWNER)
  else
    let rsv := v.toNat &&& r.rsvMask != 0
    let (s, st) :=
      if r.badValue v.toNat || bad then (s.badEncoding off p, St.BAD_ARGUMENT)
      else if !s.regPowered off then (s.lostWrite off p, St.REFUSED_POWER)
      else h s
    ((s.when rsv (fun s => (s.err V.GLB_ERR_INFO_kind_RSV_WRITE off p).cnt F.GLB_RSV_WRITES_value)), st)

/-- A register whose chapter adds no rule: the checks, then the fields (R706, R707). -/
def State.plainWrite (s : State) (p : Path) (r : RegDef) (i j k : Nat) (v : Word) : State × Nat :=
  s.guardWrite p r i j k v false (fun s => (s.applyWrite p r i j k v, St.OK))

end Sys2Proof.Machine
end

