-- ==== Sys2Proof/Machine/Clock.lean ====
section
/-! DEFINITION. Machine/Clock.lean: reference sources, the root PLL and the clock registers (spec/03, R53 to R87). -/
namespace Sys2Proof.Machine

/-! root_state (R57). -/
abbrev Root.START : Nat := 0
abbrev Root.LOCKED : Nat := 1
abbrev Root.HOLDOVER : Nat := 2
abbrev Root.SWITCHING : Nat := 3
abbrev Root.NO_REFERENCE : Nat := 4

/-- The source code of the MEMS oscillator (R53). -/
abbrev srcMems : Nat := 0

/-- The kind of a source code (R53): 0 MEMS, 1 LANE, 2 BRYNUST, 3 REFCLK. -/
def srcKind (c : Nat) : Nat := c / 512

/-- The index of a source code. -/
def srcIndex (c : Nat) : Nat := c % 512

/-- A legal source code (R53). -/
def srcLegal (c : Nat) : Bool :=
  match srcKind c with
  | 0 => srcIndex c == 0
  | 1 => true
  | 2 => decide (srcIndex c < 4)
  | _ => srcIndex c == 0

/-- The first enabled candidate naming a source. -/
def State.candOf (s : State) (src : Nat) : Option Nat :=
  (upTo 4).find? (fun n => s.on F.CLK_CAND_enable n && s.get F.CLK_CAND_source n == src)

/-- A source is ready: a ready candidate, or the MEMS oscillator with mems_ok (R61). -/
def State.srcReady (s : State) (src : Nat) : Bool :=
  if src = srcMems then s.on F.CLK_STATUS_mems_ok
  else match s.candOf src with
    | some n => s.on F.CLK_CAND_STATUS_ready n
    | none => false

/-- The fallback of R60: the first enabled, ready candidate that is not the lost source, else MEMS with mems_ok. -/
def State.fallback (s : State) : Option Nat :=
  match (upTo 4).find? (fun n => s.on F.CLK_CAND_enable n && s.on F.CLK_CAND_STATUS_ready n &&
      s.clk.lost != some (s.get F.CLK_CAND_source n)) with
  | some n => some (s.get F.CLK_CAND_source n)
  | none => if s.on F.CLK_STATUS_mems_ok then some srcMems else none

/-- Begin slewing to a source (R58). -/
def State.slewTo (s : State) (src : Nat) (user : Bool) : State :=
  let s := s.put F.CLK_STATUS_root_state Root.SWITCHING
  { s with clk := { s.clk with target := src, userSwitch := user } }

/-- Leave NO_REFERENCE when a source is ready again (R58). -/
def State.leaveNoReference (s : State) : State :=
  if s.get F.CLK_STATUS_root_state = Root.NO_REFERENCE then
    match s.fallback with
    | some src => s.slewTo src false
    | none => s
  else s

/-- Clear a candidate's ready flag and its passing gates (R55), reporting ready_lost. -/
def State.dropReady (s : State) (n : Nat) : State :=
  let was := s.on F.CLK_CAND_STATUS_ready n
  let s := (s.clr F.CLK_CAND_STATUS_ready n).clr F.CLK_CAND_STATUS_pass_count n
  s.when was (fun s => s.ev F.CLK_REF_EVENTS_ready_lost)

/-- A source that was active before DEEP_SLEEP is ready again: the device switches back to it (R632). -/
def State.goBack (s : State) (src : Nat) : State :=
  if s.clk.back = some src ∧ s.get F.CLK_STATUS_root_state = Root.LOCKED then
    let s := s.slewTo src false
    { s with clk := { s.clk with back := none } }
  else s

/-- QUAL_GATE_END (R55, R62): a gate of candidate `n` ends; `edges` says that edges came throughout, `offset` is the
offset from nominal in 0.1 ppm. Frozen while mems_ok is 0 (R56). -/
def execQualGateEnd (n : BitVec 2) (edges : Bool) (offset : BitVec 16) (s : State) :
    Host.Outcome State Fault Refusal :=
  let n := n.toNat
  if !s.on F.CLK_CAND_enable n || !s.on F.CLK_STATUS_mems_ok then .next s
  else
    let pass := edges && decide (offset.toInt.natAbs ≤ 10 * s.get F.CLK_QUAL_CFG_window_ppm)
    let src := s.get F.CLK_CAND_source n
    let s := (s.put F.CLK_CAND_STATUS_offset offset.toNat n).put F.CLK_CAND_STATUS_present (b2n edges) n
    let s :=
      if pass then
        let s := s.cnt F.CLK_CAND_STATUS_pass_count 1 n
        if !s.on F.CLK_CAND_STATUS_ready n &&
            decide (s.get F.CLK_QUAL_CFG_qual_count ≤ s.get F.CLK_CAND_STATUS_pass_count n) then
          (((s.ev F.CLK_CAND_STATUS_ready n).ev F.CLK_REF_EVENTS_ready_gained).leaveNoReference).goBack src
        else s
      else s.dropReady n
    let gates := if src = s.get F.CLK_REF_CTRL_req_source then
        (if s.on F.CLK_CAND_STATUS_ready n then s.clk.revertGates + 1 else 0) else s.clk.revertGates
    .next { s with clk := { s.clk with revertGates := gates } }

/-- CANDIDATE_EDGE_TIMEOUT (R55): no edge for 2 µs, or lock or training lost, or the source ceased to exist. -/
def execCandidateEdgeTimeout (n : BitVec 2) (s : State) : Host.Outcome State Fault Refusal :=
  let n := n.toNat
  if !s.on F.CLK_CAND_enable n then .next s
  else
    let s := s.clr F.CLK_CAND_STATUS_present n
    if !s.on F.CLK_STATUS_mems_ok then .next s
    else
      let s := s.dropReady n
      .next (if s.get F.CLK_CAND_source n = s.get F.CLK_REF_CTRL_req_source then
        { s with clk := { s.clk with revertGates := 0 } } else s)

/-- MEMS_FAILED (R56, R58). -/
def execMemsFailed (s : State) : Host.Outcome State Fault Refusal :=
  let s := s.clr F.CLK_STATUS_mems_ok
  let s := { s with clk := { s.clk with memsGood := 0 } }
  .next (if s.get F.CLK_STATUS_active_source = srcMems ∧ s.get F.CLK_STATUS_root_state ≠ Root.START then
    (s.put F.CLK_STATUS_root_state Root.NO_REFERENCE).ev F.CLK_REF_EVENTS_no_reference
  else s)

/-- MEMS_RECOVERED (R56, R58): ten good gates have passed. -/
def execMemsRecovered (s : State) : Host.Outcome State Fault Refusal :=
  let s := s.ev F.CLK_STATUS_mems_ok
  .next ({ s with clk := { s.clk with memsGood := 10 } }).leaveNoReference

/-- The active source, or the source being slewed to, is lost (R58, R60): the root enters HOLDOVER. -/
def State.activeLost (s : State) : State :=
  let st := s.get F.CLK_STATUS_root_state
  let leave := fun (src : Nat) =>
    let s := s.put F.CLK_STATUS_root_state Root.HOLDOVER
    let s := match s.candOf src with
      | some n => if s.on F.CLK_STATUS_mems_ok then s.dropReady n else s
      | none => s
    { s with clk := { s.clk with lost := some src } }
  if st = Root.LOCKED ∧ s.get F.CLK_STATUS_active_source ≠ srcMems then
    (leave (s.get F.CLK_STATUS_active_source)).ev F.CLK_REF_EVENTS_active_lost
  else if st = Root.SWITCHING ∧ s.clk.target ≠ srcMems then leave s.clk.target
  else s

/-- ACTIVE_SOURCE_LOST (R58, R60). -/
def execActiveSourceLost (s : State) : Host.Outcome State Fault Refusal := .next s.activeLost

/-- A source ceases to exist or to be locked (R55): its candidate is neither present nor ready. -/
def State.sourceGone (s : State) (src : Nat) : State :=
  match s.candOf src with
  | some n =>
    let s := s.clr F.CLK_CAND_STATUS_present n
    if s.on F.CLK_STATUS_mems_ok then s.dropReady n else s
  | none => s

/-- FALLBACK_CHOSEN (R60, R600 class F9, R610 REF_EVENT): in HOLDOVER the fallback is chosen and slewing begins, or
NO_REFERENCE is entered. -/
def execFallbackChosen (s : State) : Host.Outcome State Fault Refusal :=
  if s.get F.CLK_STATUS_root_state = Root.HOLDOVER then
    let lost := s.clk.lost.getD srcMems
    match s.fallback with
    | some src =>
      let s := (s.slewTo src false).ev F.CLK_REF_EVENTS_fallback_done
      let s := { s with clk := { s.clk with reverting := true, revertGates := 0 } }
      .next ((s.fault 9 false).log 0x80 2 lost [src, Root.SWITCHING])
    | none =>
      let s := (s.put F.CLK_STATUS_root_state Root.NO_REFERENCE).ev F.CLK_REF_EVENTS_no_reference
      .next ((s.fault 9 true).log 0x80 2 lost [lost, Root.NO_REFERENCE])
  else .next s

/-- A refused clock command (R79). -/
def State.clkRefuse (s : State) (p : Path) (cause : Nat) : State × Nat :=
  refuseWrite s p St.REFUSED_BUSY (fun s =>
    (s.ev F.CLK_REF_EVENTS_refused).put F.CLK_REF_EVENTS_refuse_cause cause)

/-- A write of CLK.REF_CTRL (R61, R81). -/
def State.writeRefCtrl (s : State) (p : Path) (v : Word) : State × Nat :=
  let src := bits v.toNat 10 0
  s.guardWrite p Reg.CLK_REF_CTRL 0 0 0 v (!srcLegal src) (fun s =>
    if !bit v.toNat 12 then (s.applyWrite p Reg.CLK_REF_CTRL 0 0 0 v, St.OK)
    else if src ≠ srcMems ∧ (s.candOf src).isNone then
      s.clkRefuse p V.CLK_REF_EVENTS_refuse_cause_NOT_CANDIDATE
    else if !s.srcReady src then s.clkRefuse p V.CLK_REF_EVENTS_refuse_cause_NOT_READY
    else if s.on F.CLK_STATUS_ring_member then s.clkRefuse p V.CLK_REF_EVENTS_refuse_cause_RING_MEMBER
    else
      let s := (s.applyWrite p Reg.CLK_REF_CTRL 0 0 0 v).clr F.CLK_REF_CTRL_switch
      let st := s.get F.CLK_STATUS_root_state
      if st = Root.LOCKED ∧ src = s.get F.CLK_STATUS_active_source then (s.ev F.CLK_REF_EVENTS_switch_done, St.OK)
      else if st = Root.LOCKED ∨ st = Root.SWITCHING then
        let s := s.slewTo src true
        ({ s with clk := { s.clk with reverting := false } }, St.OK)
      else (s, St.OK))

/-- REF_SWITCH (R61): a write of CLK.REF_CTRL with switch set. -/
def execRefSwitch (p : Path) (v : Word) (s : State) : Host.Outcome State Fault Refusal :=
  .next (s.writeRefCtrl p (v ||| 0x1000#32)).1

/-- The state of SYNC_STATUS; leaving ALIGNED is reported (R588, R597). -/
def State.setSync (s : State) (st : Nat) : State :=
  let was := s.get F.BRY_SYNC_STATUS_state == V.BRY_SYNC_STATUS_state_ALIGNED
  let s := s.put F.BRY_SYNC_STATUS_state st
  s.when (was && st != V.BRY_SYNC_STATUS_state_ALIGNED) (fun s => s.ev F.BRY_RING_EVENTS_align_lost)

/-- A ring member's root has settled on a source (R586): a ring port becomes the upstream port; any other source ends
the following. -/
def State.followRing (s : State) (src : Nat) : State :=
  if s.get F.BRY_RING_STATUS_role ≠ V.BRY_RING_CFG_role_MEMBER then s.put F.CLK_STATUS_ring_member 0
  else if srcKind src = 2 then
    ({ s with bry := { s.bry with upstream := srcIndex src } }).put F.CLK_STATUS_ring_member 1
  else
    let was := s.on F.CLK_STATUS_ring_member
    (s.put F.CLK_STATUS_ring_member 0).when was (fun s => s.setSync V.BRY_SYNC_STATUS_state_HOLDOVER)

/-- ROOT_LOCK_REACHED (R58, R61): SWITCHING enters LOCKED on the new source (R586 on a
ring member). -/
def execRootLockReached (s : State) : Host.Outcome State Fault Refusal :=
  if s.get F.CLK_STATUS_root_state = Root.SWITCHING then
    let src := s.clk.target
    let s := (s.put F.CLK_STATUS_root_state Root.LOCKED).put F.CLK_STATUS_active_source src
    let s := s.followRing src
    let s := s.when s.clk.userSwitch (fun s => s.ev F.CLK_REF_EVENTS_switch_done)
    .next { s with clk := { s.clk with userSwitch := false } }
  else .next s

/-- AUTO_REVERT (R62): after a fallback, req_source has been ready for 1,000 consecutive gates. -/
def execAutoRevert (s : State) : Host.Outcome State Fault Refusal :=
  let src := s.get F.CLK_REF_CTRL_req_source
  if s.get F.CLK_REF_CTRL_revert = V.CLK_REF_CTRL_revert_AUTO ∧ s.clk.reverting ∧ 1000 ≤ s.clk.revertGates ∧
      s.srcReady src ∧ s.get F.CLK_STATUS_root_state = Root.LOCKED then
    let s := (s.slewTo src false).ev F.CLK_REF_EVENTS_reverted
    .next { s with clk := { s.clk with reverting := false } }
  else .next s

/-- A write of CLK.CANDn (R54, R83). -/
def State.writeCand (s : State) (p : Path) (n : Nat) (v : Word) : State × Nat :=
  let src := bits v.toNat 10 0
  let en := bit v.toNat 31
  s.guardWrite p Reg.CLK_CAND n 0 0 v (!srcLegal src || srcKind src == 0) (fun s =>
    let old := s.get F.CLK_CAND_source n
    let oldEn := s.on F.CLK_CAND_enable n
    if en && (upTo 4).any (fun m => m != n && s.on F.CLK_CAND_enable m && s.get F.CLK_CAND_source m == src) then
      s.clkRefuse p V.CLK_REF_EVENTS_refuse_cause_DUPLICATE
    else if oldEn && old == s.get F.CLK_STATUS_active_source && (old != src || !en) then
      s.clkRefuse p V.CLK_REF_EVENTS_refuse_cause_ACTIVE_CANDIDATE
    else
      let s := s.applyWrite p Reg.CLK_CAND n 0 0 v
      (s.when (old != src || oldEn != en) (fun s => (s.dropReady n).clr F.CLK_CAND_STATUS_present n), St.OK))

/-- CAND_WRITE (R54). -/
def execCandWrite (p : Path) (n : BitVec 2) (v : Word) (s : State) : Host.Outcome State Fault Refusal :=
  .next (s.writeCand p n.toNat v).1

/-- GLOBAL_DIV_WRITE (R65): a divisor of 0 to 7 is a reserved encoding; the new setting is in force from the first edge
common to the old and new periods. -/
def execGlobalDivWrite (p : Path) (n : BitVec 5) (v : Word) (s : State) : Host.Outcome State Fault Refusal :=
  .next (s.plainWrite p Reg.CLK_GLOBAL_DIV n.toNat 0 0 v).1

/-- A write of CLK.OUT_CTRLn (R67, R68, R86). -/
def State.writeOutCtrl (s : State) (p : Path) (n : Nat) (v : Word) : State × Nat :=
  let ssc := bits v.toNat 30 29
  let f := bits v.toNat 17 0
  let bad := if n < 3 then false
    else (bit v.toNat 28 && ssc != 0) || decide (f < 1000) || decide (250000 < f)
  s.guardWrite p Reg.CLK_OUT_CTRL n 0 0 v bad (fun s =>
    if n < 3 then
      if ssc ≠ s.get F.CLK_OUT_CTRL_ssc n ∧ s.get F.MEM_CXL_STATUS_state n = V.MEM_CXL_STATUS_state_IN_USE then
        s.clkRefuse p V.CLK_REF_EVENTS_refuse_cause_LINK_UP
      else ((s.put F.CLK_OUT_CTRL_enable (bits v.toNat 31 31) n).put F.CLK_OUT_CTRL_ssc ssc n, St.OK)
    else (s.applyWrite p Reg.CLK_OUT_CTRL n 0 0 v, St.OK))

/-- OUT_CTRL_WRITE (R68) of output `n`, 0 to 6. -/
def execOutCtrlWrite (p : Path) (n : Nat) (v : Word) (s : State) : Host.Outcome State Fault Refusal :=
  if n < 7 then .next (s.writeOutCtrl p n v).1 else .fault .noSuchUnit

/-- A write of CLK.FREQ_ADJ (R75, R73). -/
def State.writeFreqAdj (s : State) (p : Path) (v : Word) : State × Nat :=
  s.guardWrite p Reg.CLK_FREQ_ADJ 0 0 0 v false (fun s =>
    if s.on F.CLK_STATUS_ring_member then s.clkRefuse p V.CLK_REF_EVENTS_refuse_cause_RING_MEMBER
    else
      let s := s.applyWrite p Reg.CLK_FREQ_ADJ 0 0 0 v
      ({ s with clk := { s.clk with adj := sext 24 v.toNat } }, St.OK))

/-- FREQ_ADJ_WRITE (R75). -/
def execFreqAdjWrite (p : Path) (v : Word) (s : State) : Host.Outcome State Fault Refusal :=
  .next (s.writeFreqAdj p v).1

/-- PPS_EDGE (R75): a rising edge on a pin set to TIME_PPS_IN. -/
def execPpsEdge (pin : Nat) (s : State) : Host.Outcome State Fault Refusal :=
  if 192 ≤ pin then .fault .noSuchUnit
  else if s.get F.GIO_PIN_CFG_function pin = 4 then
    .next ((s.setPair Reg.CLK_PPS_CAP_LO Reg.CLK_PPS_CAP_HI s.now).cntWrap F.CLK_PPS_COUNT_value)
  else .next s

end Sys2Proof.Machine
end

