-- ==== Sys2Proof/Machine/Dq.lean ====
section
/-! DEFINITION. Machine/Dq.lean: dataflow queues and trace records, the part of the sewing frame that the capture side,
the press and the cores use (R463 to R465, R479). -/
namespace Sys2Proof.Machine

/-- A DQ. -/
def State.dq (s : State) (q : Nat) : Dq := Tbl.get {} s.swf.dq q

/-- Replace a DQ. -/
def State.setDq (s : State) (q : Nat) (d : Dq) : State := { s with swf := { s.swf with dq := Tbl.set {} q d s.swf.dq } }

/-- An op. -/
def State.op (s : State) (o : Nat) : Op := Tbl.get {} s.swf.ops o

/-- Replace an op. -/
def State.setOp (s : State) (o : Nat) (x : Op) : State := { s with swf := { s.swf with ops := Tbl.set {} o x s.swf.ops } }

/-- A task slot. -/
def State.task (s : State) (k : Nat) : Task := Tbl.get {} s.swf.tasks k

/-- Replace a task slot. -/
def State.setTask (s : State) (k : Nat) (x : Task) : State :=
  { s with swf := { s.swf with tasks := Tbl.set {} k x s.swf.tasks } }

/-- The holder of a DQ (R22). -/
def State.dqHolder (s : State) (q : Nat) : Nat := Tbl.get 0 s.swf.dqHolder q

/-- The holder of an op (R22). -/
def State.opHolder (s : State) (o : Nat) : Nat := Tbl.get 0 s.swf.opHolder o

/-- The places free in a DQ (R464). -/
def Dq.free (d : Dq) : Nat := d.depth - d.tokens.length - d.reserved

/-- An op becomes pending on its engine (R469), once. -/
def State.pend (s : State) (o : Nat) : State :=
  if (s.op o).state = 2 ∧ !s.swf.pend.contains o then { s with swf := { s.swf with pend := s.swf.pend ++ [o] } } else s

/-! Trace kinds (R480). -/
abbrev Trace.FIRE : Nat := 0
abbrev Trace.GRANT : Nat := 1
abbrev Trace.COMPLETE : Nat := 2
abbrev Trace.COMMIT : Nat := 3
abbrev Trace.HANDBACK : Nat := 4
abbrev Trace.DISCARD : Nat := 5
abbrev Trace.END : Nat := 6
abbrev Trace.MIGRATE : Nat := 7
abbrev Trace.SPILL : Nat := 8
abbrev Trace.FILL : Nat := 9
abbrev Trace.DQ_DROP : Nat := 10

/-- Make a trace record (R479): kind, tenant, time, op, handle, DQ or source, detail. It is written by
`State.flushTrace`. -/
def State.swfTrace (s : State) (kind tenant op handle dq detail : Nat) : State :=
  if s.on F.SWF_TRACE_CFG_enable && bit (s.get F.SWF_TRACE_CFG_trace_kinds) kind &&
      bit (s.word Reg.SWF_TRACE_TENANT (tenant / 32)).toNat (tenant % 32) then
    { s with swf := { s.swf with trace := s.swf.trace ++ [[kind, tenant, s.now, op, handle, dq, detail % 2 ^ 32]] } }
  else s

/-- The cached DQs a tenant has. -/
def State.cachedOf (s : State) (t : Nat) : Nat := (s.swf.cache.filter (fun q => s.dqHolder q == t)).length

/-- The DQs the queue state cache holds: 4,096 for each bank ON (R626). -/
def State.cacheRoom (s : State) : Nat := 4096 * ((upTo 16).filter (fun k => s.domOn (domQsc k))).length

/-- The DQ the cache evicts (R462): the least recently used one of a tenant above its cache_min. -/
def State.cacheVictim (s : State) : Option Nat :=
  match s.swf.cache.find? (fun q =>
      decide (256 * s.get F.SWF_TENANT_CACHE_cache_min (s.dqHolder q) < s.cachedOf (s.dqHolder q))) with
  | some q => some q
  | none => s.swf.cache.head?

/-- One DQ leaves the cache for the token pool (R462). -/
def State.spill (s : State) : State :=
  match s.cacheVictim with
  | some v => ({ s with swf := { s.swf with cache := s.swf.cache.erase v } }).swfTrace Trace.SPILL (s.dqHolder v) 0 0 v
      (s.dq v).tokens.length
  | none => s

/-- A DQ enters the queue state cache as the most recently used (R462). -/
def State.cacheDq (s : State) (q : Nat) : State :=
  if s.swf.cache.contains q then { s with swf := { s.swf with cache := s.swf.cache.erase q ++ [q] } }
  else
    if s.cacheRoom = 0 then s
    else
      let s := if s.swf.cache.length < s.cacheRoom then s else s.spill
      { s with swf := { s.swf with cache := s.swf.cache ++ [q] } }

/-- A cached DQ is used, or its fetch is started for op `o` (R462); `o` 262,144 for an arrival. -/
def State.useDq (s : State) (q o : Nat) : State :=
  if s.swf.cache.contains q then s.cacheDq q
  else
    let s := if s.swf.fetching.any (fun f => f.1 == q) then s else s.cnt F.SWF_CACHE_MISSES_value
    { s with swf := { s.swf with fetching := s.swf.fetching ++ [(q, o)] } }

/-- A token is appended: the consuming op becomes pending (R469). -/
def State.dqAppend (s : State) (q tok : Nat) : State :=
  let d := s.dq q
  let s := (s.setDq q { d with tokens := d.tokens ++ [tok] }).useDq q 262144
  if d.consumer = 1 then s.pend d.unit else s

/-- An unreserved arrival at a DQ (R464 step 3, R465): appended while a place is free, else discarded and recorded. A DQ
that is not allocated records nothing. Answers whether the token was taken. -/
def State.dqPost (s : State) (q tok source : Nat) : State × Bool :=
  let d := s.dq q
  if !d.alloc then (s, false)
  else if 0 < d.free then (s.dqAppend q tok, true)
  else
    let s := (s.setDq q { d with discards := satNat 32 (d.discards + 1) }).ev F.SWF_EVENTS_dq_discard
    (s.swfTrace Trace.DQ_DROP (s.dqHolder q) 0 0 q source, false)

/-- A place frees in a DQ (R469): every op that has it among its outputs becomes pending. -/
def State.dqFreed (s : State) (q : Nat) : State :=
  s.each (s.swf.ops.filter (fun p => p.2.outs.any (fun x => x.1 == q))) (fun s p => s.pend p.1)

/-- Remove the first `n` tokens of a DQ (R464 step 4). -/
def State.dqTake (s : State) (q n : Nat) : State :=
  let d := s.dq q
  (s.setDq q { d with tokens := d.tokens.drop n }).dqFreed q

/-- Little-endian fields packed into one number: (byte offset, value). -/
def pack (l : List (Nat × Nat)) : Nat := l.foldl (fun a (o, v) => a + v * 2 ^ (8 * o)) 0

end Sys2Proof.Machine
end

