-- ==== Sys2Proof/Machine/Capture.lean ====
section
/-! DEFINITION. Machine/Capture.lean: streams, leaves and quires (spec/11, R289 to R306): placing strips, closing leaves,
sealing and allocating quires, store gaps, event tokens. -/
namespace Sys2Proof.Machine

/-! ## Access -/

/-- A stream. -/
def State.strm (s : State) (n : Nat) : Stream := Tbl.get {} s.cap.streams n

/-- Replace a stream. -/
def State.setStrm (s : State) (n : Nat) (x : Stream) : State :=
  { s with cap := { s.cap with streams := Tbl.set {} n x s.cap.streams } }

/-- A quire record. -/
def State.quire (s : State) (q : Nat) : Quire := Tbl.get {} s.cap.quires q

/-- Replace a quire record without a change that the seal slot copies. -/
def State.setQuireLive (s : State) (q : Nat) (x : Quire) : State :=
  { s with cap := { s.cap with quires := Tbl.set {} q x s.cap.quires } }

/-- Change a quire record: its seal slot is written within 10 µs (R296), by SEAL_SLOT_WRITE. -/
def State.setQuire (s : State) (q : Nat) (x : Quire) : State :=
  let s := s.setQuireLive q x
  if s.cap.sealPending.contains q then s
  else { s with cap := { s.cap with sealPending := s.cap.sealPending ++ [q] } }

/-- Replace a member of a stream. -/
def Stream.setMember (x : Stream) (m : Nat) (y : Member) : Stream := { x with members := listSet x.members m y }

/-- A member of a stream. -/
def Stream.member (x : Stream) (m : Nat) : Member := (x.members[m]?).getD {}

/-! Stream states (R290), quire states (R297), kinds (R289). -/
abbrev Strm.IDLE : Nat := 0
abbrev Strm.ACTIVE : Nat := 1
abbrev Strm.WAITING : Nat := 2
abbrev Strm.STOPPING : Nat := 3
abbrev Strm.CLOSED : Nat := 4
abbrev Qr.FREE : Nat := 0
abbrev Qr.OPEN : Nat := 1
abbrev Qr.SEALED : Nat := 2
abbrev Qr.DRAINING : Nat := 3
abbrev Qr.LOST : Nat := 4
abbrev Qr.RELEASING : Nat := 5
abbrev Kind.CAPTURE : Nat := 0
abbrev Kind.TX_MONITOR : Nat := 1
abbrev Kind.DIGITIZER : Nat := 2
abbrev Kind.PATTERN : Nat := 3
abbrev Kind.DEVICE : Nat := 4

/-- The state of a stream (R290). -/
def State.strmState (s : State) (n : Nat) : Nat := s.get F.CAP_STREAM_STATUS_state n

/-- The holder of a stream. -/
def State.strmHolder (s : State) (n : Nat) : Nat := s.get F.CAP_STREAM_STATUS_holder n

/-- The kind of a stream. -/
def State.strmKind (s : State) (n : Nat) : Nat := s.get F.CAP_STREAM_STATUS_kind n

/-- A stream stores: ACTIVE or WAITING (R290). -/
def State.strmActive (s : State) (n : Nat) : Bool := s.strmState n == Strm.ACTIVE || s.strmState n == Strm.WAITING

/-- Set a stream's state, keeping CAP.STATUS.waiting (R313). -/
def State.setStrmState (s : State) (n v : Nat) : State :=
  let old := s.strmState n
  let s := s.put F.CAP_STREAM_STATUS_state v n
  let w := s.get F.CAP_STATUS_waiting
  if old ≠ Strm.WAITING ∧ v = Strm.WAITING then s.put F.CAP_STATUS_waiting (w + 1)
  else if old = Strm.WAITING ∧ v ≠ Strm.WAITING then s.put F.CAP_STATUS_waiting (w - 1)
  else s

/-! ## Event tokens (R20, R21) -/

/-- Count a lost event token (R21, R320); kinds 0 RIBBON, 1 TRIGGER, 2 QUIRE_SEALED, 3 WAVE_RECORD, 4 GAP. -/
def State.lostEvent (s : State) (n kind : Nat) : State :=
  match kind with
  | 0 => s.cnt F.CAP_STREAM_LOST_EVT0_ribbon 1 n
  | 1 => s.cnt F.CAP_STREAM_LOST_EVT0_trigger 1 n
  | 2 => s.cnt F.CAP_STREAM_LOST_EVT1_quire_sealed 1 n
  | 3 => s.cnt F.CAP_STREAM_LOST_EVT1_wave_record 1 n
  | _ => s.cnt F.CAP_STREAM_LOST_EVT2_gap 1 n

/-- An event of a stream (R20, R21): it takes the next sequence number, and its token goes to the DQ routed for its
kind, from the capture engine of the stream's sector. -/
def State.event (s : State) (n kind time extra : Nat) : State :=
  let x := s.strm n
  let sq := (x.evSeq[kind]?).getD 0
  let s := s.setStrm n { x with evSeq := listSet x.evSeq kind ((sq + 1) % 2 ^ 32) }
  match (x.dqs[kind]?).getD none with
  | none => s
  | some q =>
    let (s, ok) := s.dqPost q (Config.eventToken kind n sq time extra % 2 ^ 512) (0x500 + x.sector)
    if ok then s else s.lostEvent n kind

/-! ## Allocation (R299, R300, R437 to R440) -/

/-- Record the front slots free (R313). -/
def State.frontFree (s : State) : Nat := s.get F.CAP_STATUS_front_free

/-- The lowest FREE quire number whose counter is not spent (R300, R440). -/
def State.freeQuire (s : State) : Option Nat :=
  findFrom (fun q => (s.quire q).state == Qr.FREE && decide ((s.quire q).counter < 0xFFFFFFFF)) 524288 0

/-- A free front slot. Which one is taken the spec leaves open: a free value chooses among the free slots. -/
def State.freeSlot (s : State) : Option Nat × State :=
  let (v, s) := s.fresh
  ((findFrom (fun f => Tbl.get 0 s.cap.frontUsed (f % 8448) == 0) 8448 (v % 8448)).map (· % 8448), s)

/-- A quire's counter rises at its entry to OPEN (R297) and warns the first time it reaches 0xFFFF_0000 (R438). -/
def State.countUp (s : State) (q t : Nat) : State :=
  let x := s.quire q
  let s := s.setQuire q { x with counter := x.counter + 1 }
  s.when (x.counter + 1 == 0xFFFF0000) (fun s =>
    ((s.ev F.SEC_EVENTS_counter_warn).ev F.SEC_KEY_STATUS_counter_warn t).log 0xE1 0 t [q])

/-- Allocate a quire to a stream when the holder's quota and the front tier allow it (R300). -/
def State.allocQuire (s : State) (n : Nat) : Option Nat × State :=
  let t := s.strmHolder n
  if s.get F.CAP_USE_FRONT_value t < s.get F.CAP_QUOTA_FRONT_quires t ∧ 0 < s.frontFree then
    match s.freeQuire, s.freeSlot with
    | some q, (some f, s) =>
      let c := (s.quire q).counter
      let ltype := (s.strm n).ltype
      let s := s.setQuire q
        { state := Qr.OPEN, stream := n, tenant := t, ltype := ltype, counter := c, target := 0, slot := f }
      let s := s.countUp q t
      let s := { s with cap := { s.cap with frontUsed := Tbl.set 0 f (q + 1) s.cap.frontUsed } }
      let s := (s.cnt F.CAP_USE_FRONT_value 1 t).put F.CAP_STATUS_front_free (s.frontFree - 1)
      (some q, s)
    | _, _ => (none, s)
  else (none, s)

/-- Free a front slot (R297, R305); a FAILED front tier has none (R401). -/
def State.freeFront (s : State) (f : Nat) : State :=
  let s := { s with cap := { s.cap with frontUsed := Tbl.set 0 f 0 s.cap.frontUsed } }
  if s.get F.MEM_FRONT_STATUS_state == V.MEM_FRONT_STATUS_state_FAILED then s
  else s.put F.CAP_STATUS_front_free (s.frontFree + 1)

/-- Link a quire behind the last quire of a capture (R296). -/
def State.linkQuire (s : State) (prev : Option Nat) (q : Nat) : State :=
  let s := s.setQuire q { s.quire q with prev := prev, next := none }
  match prev with
  | none => s
  | some p => s.setQuire p { s.quire p with next := some q }

/-- Record the first and last quire of a capture in the spine root (R307, R319). -/
def State.root (s : State) (n : Nat) : State :=
  let x := s.strm n
  let s := match x.quires.head? with
    | some q => (s.put F.CAP_STREAM_FIRST_QUIRE_valid 1 n).put F.CAP_STREAM_FIRST_QUIRE_quire q n
    | none => (s.put F.CAP_STREAM_FIRST_QUIRE_valid 0 n).put F.CAP_STREAM_FIRST_QUIRE_quire 0 n
  match x.quires.getLast? with
  | some q => (s.put F.CAP_STREAM_LAST_QUIRE_valid 1 n).put F.CAP_STREAM_LAST_QUIRE_quire q n
  | none => (s.put F.CAP_STREAM_LAST_QUIRE_valid 0 n).put F.CAP_STREAM_LAST_QUIRE_quire 0 n

/-- The stream's ring turns: WRAP, or WINDOW before its trigger point (R304). -/
def State.turning (s : State) (n : Nat) : Bool :=
  s.get F.CAP_STREAM_STATUS_mode n != V.CAP_STREAM_STATUS_mode_CONTINUOUS && !(s.strm n).ringStopped

/-- Ask for the stream's next quire (R300): at once, or by joining the wait list. A WINDOW whose ring has stopped asks
for its post quires alone; a turning ring asks for none. -/
def State.askQuire (s : State) (n : Nat) : State :=
  let x := s.strm n
  if s.turning n || x.next.isSome || (x.ringStopped && x.post == 0) then s
  else match s.allocQuire n with
    | (some q, s) =>
      let x := s.strm n
      let s := s.setStrm n { x with next := some q, post := x.post - 1, asked := true }
      s.linkQuire x.cur q
    | (none, s) =>
      let s := s.setStrm n { s.strm n with asked := true }
      if s.cap.waitList.contains n then s
      else { s with cap := { s.cap with waitList := s.cap.waitList ++ [n] } }

/-- The pending ribbons of a stream that stops complete with REFUSED_NOT_READY (R275). -/
def State.dropRibbons (s : State) (n : Nat) : State :=
  let go := s.cap.ribbons.filter (fun r => r.1 == n)
  let s := { s with cap := { s.cap with ribbons := s.cap.ribbons.filter (fun r => r.1 != n) } }
  s.each go (fun s r => s.complete r.2.2.2.2 St.REFUSED_NOT_READY 0)

/-- Stop a stream by itself or by a rule (R292, R304): it enters STOPPING; STREAM_CLOSED writes its last leaf. -/
def State.beginStop (s : State) (n cause at' : Nat) (d : Option Desc := none) : State :=
  let s := s.setStrm n
    { s.strm n with stopAt := some at', stopDesc := d, wasWaiting := s.strmState n == Strm.WAITING }
  let s := { s with cap := { s.cap with waitList := s.cap.waitList.erase n } }
  let s := s.setPair Reg.CAP_STREAM_STOP_LO Reg.CAP_STREAM_STOP_HI at' n
  ((s.setStrmState n Strm.STOPPING).put F.CAP_STREAM_STATUS_end_cause cause n).dropRibbons n

/-- The tenant's key is exhausted (R439): its ACTIVE and WAITING streams stop. -/
def State.keyExhaust (s : State) (t q : Nat) : State :=
  let s := ((s.ev F.SEC_KEY_STATUS_exhausted t).ev F.SEC_EVENTS_key_exhausted).log 0xE2 2 t [q]
  s.each (s.cap.streams.filter (fun p => s.strmActive p.1 && s.strmHolder p.1 == t)) (fun s p =>
    s.beginStop p.1 V.CAP_STREAM_STATUS_end_cause_KEY_EXHAUSTED s.now)

/-! ## Sealing (R293 to R299) -/

/-- In a PATTERN quire that is sealed, every leaf is current under the quire counter (R442). -/
def State.reseal (s : State) (q : Nat) : State :=
  let y := s.quire q
  if y.ltype ≠ 2 then s
  else s.setQuireLive q { y with leaves := y.leaves.map (fun p =>
    (p.1, if p.2.counter < y.counter then
        { p.2 with counter := y.counter, tag := Config.keyValue 2 (q * 16384 + p.1) % 2 ^ 64 } else p.2)) }

/-- A quire is sealed (R298): its leaves are all written, its digest is computed, QUIRE_SEALED is posted, and it joins
the drain queue (R305). -/
def State.sealQuire (s : State) (q : Nat) : State :=
  let s := s.reseal q
  let x := s.quire q
  let n := x.stream
  let s := s.setQuire q { x with state := Qr.SEALED, written := x.used, digest := Config.keyValue 1 q % 2 ^ 64 }
  let s := s.event n 2 s.now (pack [(0, q), (4, x.first), (12, x.last)])
  let deep := s.get F.CAP_STREAM_STATUS_tier n == V.CAP_STREAM_STATUS_tier_FRONT_DEEP
  if deep && !s.turning n then { s with cap := { s.cap with drain := s.cap.drain ++ [q] } } else s

/-! ## Reading strips (R225, R329, R337) -/

/-- The sub-tick value a strip carries (R229). -/
def Strip.sub (x : Strip) : Nat := if x.type = 1 ∨ x.type = 2 ∨ x.type = 3 ∨ x.type = 6 then x.flags % 8 else 0

/-- The strips of a leaf with their index and header time (R225); a TIME anchor's is its own timestamp. -/
def timeStrips : Nat → Nat → List Strip → List (Nat × Nat × Strip)
  | _, _, [] => []
  | ref, i, x :: r =>
    if x.type = 5 then (i, x.payload % 2 ^ 64, x) :: timeStrips (x.payload % 2 ^ 64) (i + 1) r
    else (i, ref + 8 * x.delta + x.sub, x) :: timeStrips ref (i + 1) r

/-- The record strips of a leaf, timed. -/
def Leaf.timed (l : Leaf) : List (Nat × Nat × Strip) := timeStrips l.base 1 l.strips

/-- Whether a key comes before another (R329). -/
def keyLt : List Nat → List Nat → Bool
  | [], [] => false
  | [], _ => true
  | _, [] => false
  | a :: r, b :: q => decide (a < b) || (a == b && keyLt r q)

/-- The key of a strip of a session's stream (R329). -/
def SessStream.key (x : SessStream) (time seq idx : Nat) : List Nat := [time, x.id, (seq + 2 ^ 32 - x.base) % 2 ^ 32, idx]

/-- A session admits a strip it has not yet returned: its type, its range (the end time is exclusive), its place. -/
def Session.wants (z : Session) (x : SessStream) (l : Leaf) (i time : Nat) (st : Strip) : Bool :=
  decide (1 ≤ st.type) && decide (st.type ≤ 8) && bit z.mask st.type && decide (z.start ≤ time) &&
    (z.stop == 0 || decide (time < z.stop)) && keyLt z.last (x.key time l.seq i)

/-- A ring reopens a quire (R337): each session that has not read its leaves notes the times it will not read. -/
def State.overtake (s : State) (n q : Nat) : State :=
  let y := s.quire q
  let note := fun (z : Session) (x : SessStream) =>
    if x.id ≠ n ∨ x.released then x
    else
      let ts := y.leaves.flatMap (fun p => if p.2.counter == y.counter then
        (p.2.timed.filter (fun r => z.wants x p.2 r.1 r.2.1 r.2.2)).map (fun r => r.2.1) else [])
      match ts with
      | [] => x
      | t :: r =>
        let lo := r.foldl Nat.min t
        let hi := r.foldl Nat.max t
        { x with overrun := match x.overrun with
            | some (a, b) => some (Nat.min a lo, Nat.max b hi)
            | none => some (lo, hi) }
  { s with coll := { s.coll with sessions := s.coll.sessions.map (fun (p : Nat × Session) =>
      (p.1, { p.2 with streams := p.2.streams.map (note p.2) })) } }

/-- The quire a turning ring goes to next: one of the ring not used yet, else its oldest. -/
def Stream.ringNext (x : Stream) : Option Nat := match x.spare with
  | q :: _ => some q
  | [] => x.quires.head?

/-- The stream moves on after leaf 16,383 of its quire was sealed (R304): a ring reopens its oldest quire, any other
stream goes to the quire it holds next. -/
def State.advance (s : State) (n : Nat) : State :=
  let x := s.strm n
  if s.turning n then
    match x.spare with
    | q :: r =>
      let s := s.linkQuire x.cur q
      (s.setStrm n { x with cur := some q, index := 0, asked := false, spare := r, quires := x.quires ++ [q] }).root n
    | [] => match x.quires with
      | q :: r =>
        let s := s.overtake n q
        let y := s.quire q
        let s := s.setQuire q { y with state := Qr.OPEN, used := 0, written := 0, first := 0, last := 0, gaps := 0,
                                       ribbons := 0, digest := 0, flags := (y.flags &&& 0x10) ||| 0x10 }
        let s := s.countUp q y.tenant
        let s := s.linkQuire r.getLast? q
        let s := match r.head? with
          | some f => s.setQuire f { s.quire f with prev := none }
          | none => s
        let s := s.setStrm n { x with cur := some q, index := 0, asked := false, quires := r ++ [q] }
        s.root n
      | [] => s
  else
    let qs := match x.next with | some q => x.quires ++ [q] | none => x.quires
    (s.setStrm n { x with cur := x.next, next := none, index := 0, asked := false, quires := qs }).root n

/-- Close and seal the open leaf of a stream (R293 to R295, R299): header, catchword, tag; a full leaf waits for its
row, a leaf closed before it is full does not. -/
def State.closeLeaf (s : State) (n : Nat) (closing last : Bool) : State :=
  let x := s.strm n
  match x.leaf, x.cur with
  | some l, some q =>
    let y := s.quire q
    let full := x.ltype == 2 || l.strips.length == 63
    let nextLeaf := if last then 0 else if l.index < 16383 then q * 16384 + l.index + 1
      else ((if s.turning n then x.ringNext else x.next).getD 0) * 16384
    let leaf : Leaf :=
      { ltype := x.ltype, stream := n, tenant := y.tenant, seq := x.seq,
        flags := b2n (x.seq == 0) + 2 * b2n x.resumed + 4 * b2n (!full) + 8 * b2n closing + l.flags
        base := if x.ltype == 2 then s.now / 8 * 8 else l.base
        next := nextLeaf, last := last, counter := y.counter, ribbons := l.ribbons, gaps := l.gaps,
        tag := Config.keyValue 2 (q * 16384 + l.index) % 2 ^ 64, strips := l.strips, pat := l.pat,
        staged := s.get F.SEC_KEY_STATUS_state y.tenant == V.SEC_KEY_STATUS_state_REKEYING &&
          decide (q * 16384 + l.index < Tbl.get 0 s.sec.bounds y.tenant) }
    let d := 16384 * y.slot + l.index
    let rowDone := !full || d % 11 == 10 || l.index == 16383
    let used := Nat.max y.used (l.index + 1)
    let s := s.setQuire q { y with
      leaves := Tbl.set {} l.index leaf y.leaves, used := used, written := if rowDone then used else y.written,
      first := if l.index == 0 then leaf.base else y.first,
      last := Nat.max y.last l.lastTime, gaps := satNat 16 (y.gaps + l.gaps), ribbons := y.ribbons + l.ribbons,
      flags := y.flags ||| b2n (x.seq == 0) ||| (2 * b2n last) ||| (l.flags / 16 * 8) }
    let s := s.setStrm n
      { x with leaf := none, index := l.index + 1, seq := (x.seq + 1) % 2 ^ 32, resumed := false }
    let s := s.when (l.index == 8192) (fun s => s.askQuire n)
    if last then s.sealQuire q
    else if l.index == 16383 then (s.sealQuire q).advance n
    else s
  | _, _ => s

/-- Why a stream that needs its next quire cannot store (R301): TIER_FULL 2 or QUOTA 1. -/
def State.storeCause (s : State) (n : Nat) : Nat :=
  let t := s.strmHolder n
  let quotaOut := decide (s.get F.CAP_QUOTA_FRONT_quires t ≤ s.get F.CAP_USE_FRONT_value t)
  let deepRoom := decide (s.get F.CAP_USE_DEEP_value t < s.get F.CAP_QUOTA_DEEP_quires t)
  let leaving := s.cap.quires.any (fun p => p.2.state == Qr.DRAINING && p.2.tenant == t) ||
    (deepRoom && s.cap.drain.any (fun q => (s.quire q).tenant == t))
  if s.frontFree = 0 || (quotaOut && leaving) then 2 else 1

/-- Open a leaf where the stream has none (R295, R301): leaf 16,383 only once the next quire is held. A stream that
cannot enters WAITING; a WINDOW that has filled its last post quire ends (R304); a ring whose next quire's counter is
exhausted stops (R439). -/
def State.ensureLeaf (s : State) (n : Nat) (final : Bool) : State :=
  let x := s.strm n
  if x.leaf.isSome then s
  else match x.cur with
    | none => if s.strmState n = Strm.ACTIVE then (s.setStrmState n Strm.WAITING).askQuire n else s
    | some _ =>
      if final || x.index < 16383 then s.setStrm n { x with leaf := some { index := x.index } }
      else if s.turning n then
        match x.ringNext with
        | some q => if (s.quire q).counter < 0xFFFFFFFF then s.setStrm n { x with leaf := some { index := x.index } }
          else s.keyExhaust (s.strmHolder n) q
        | none => s
      else if x.next.isSome then s.setStrm n { x with leaf := some { index := x.index } }
      else if x.ringStopped && x.post == 0 then
        s.beginStop n V.CAP_STREAM_STATUS_end_cause_WINDOW_DONE s.now
      else (s.setStrmState n Strm.WAITING).askQuire n

/-! ## Placing strips (R225 to R227, R301 to R303, R309) -/

/-- Put a strip into the open leaf: its delta from the reference (R225); a leaf that holds 63 record strips closes. -/
def State.putStrip (s : State) (n : Nat) (it : Item) : State :=
  let x := s.strm n
  match x.leaf, x.cur with
  | some l, some q =>
    let first := l.strips.isEmpty
    let base := if first then it.time / 8 * 8 else l.base
    let ref := if first then base else l.ref
    let anchor := it.type == 5
    let number := (x.evSeq[0]?).getD 0
    let payload := if it.type = 3 then it.payload + number * 2 ^ 64 else it.payload
    let st : Strip := { type := it.type, lane := it.lane, flags := it.flags, payload := payload,
                        delta := if anchor then 0 else (it.time - ref) / 8 % 2 ^ 20 }
    let mark := match x.trigMark with | some t => decide (t ≤ it.time) && !anchor | none => false
    let l := { l with base := base, ref := if anchor then it.time / 8 * 8 else ref, strips := l.strips ++ [st],
                      lastTime := it.time, ribbons := l.ribbons + b2n (it.type == 3),
                      gaps := l.gaps + b2n (it.type == 4), flags := if mark then l.flags ||| 16 else l.flags }
    let s := s.setStrm n { x with leaf := some l, trigMark := if mark then none else x.trigMark }
    let s := s.addPair Reg.CAP_STREAM_STORED_LO Reg.CAP_STREAM_STORED_HI it.stored n
    let s := s.addPair Reg.CAP_STREAM_GAP_LO Reg.CAP_STREAM_GAP_HI it.missing n
    let s := match it.token with
      | some (k, e) => s.event n k it.time (if k == 0 then e + (q * 16384 + l.index) * 2 ^ 32 else e)
      | none => s
    let s := match it.desc with | some d => s.ok d number | none => s
    if l.strips.length = 63 then s.closeLeaf n false false else s
  | _, _ => s

/-- Place a strip in a leaf, with a TIME anchor of cause OVERFLOW where its delta would not fit (R226). -/
def State.placeNow (s : State) (n : Nat) (it : Item) (final : Bool) : State :=
  let s := s.ensureLeaf n final
  match (s.strm n).leaf with
  | none => s
  | some l =>
    if !l.strips.isEmpty && it.type != 5 && (decide (it.time < l.ref) || decide (2 ^ 20 ≤ (it.time - l.ref) / 8)) then
      let s := s.putStrip n { time := it.time / 8 * 8, type := 5, flags := 0, payload := it.time / 8 * 8 }
      (s.ensureLeaf n final).putStrip n it
    else s.putStrip n it

/-- The GAP strip of an interval [first, last + 1 period) of a lane (R233); `count` its missing symbols. -/
def gapItem (m lane cause first lastT count : Nat) (more : Bool) : Item :=
  { time := first / 8 * 8, type := 4, lane := m, flags := 8 * b2n more, missing := count,
    payload := pack [(0, lane), (2, cause), (4, first), (12, lastT), (20, count)],
    token := some (4, pack [(0, lane), (2, first), (10, lastT), (18, cause)]) }

/-- A lane's symbol period in units of 1/MULT LSB: 128 x 2^24 x div, over the octet setting's mult (R169). -/
def State.symNum (s : State) (lane : Nat) : Nat := 128 * 2 ^ 24 * 2 ^ s.get F.LANE_RATE_div lane

/-- The time from one symbol to the `k`-th after it, in LSB. -/
def State.symTime (s : State) (lane k : Nat) : Nat :=
  k * s.symNum lane / (s.word Reg.LANE_MULT lane).toNat

/-- The symbols in an interval of LSB, to the nearest. -/
def State.symCount (s : State) (lane d : Nat) : Nat :=
  let m := (s.word Reg.LANE_MULT lane).toNat
  (2 * d * m + s.symNum lane) / (2 * s.symNum lane)

/-- The GAP item of a member from `first` up to the boundary `till`. -/
def State.gapOf (s : State) (m lane cause first till : Nat) (more : Bool) : Item :=
  gapItem m lane cause first (till - s.symTime lane 1) (s.symCount lane (till - first)) more

/-- A strip of a stream that cannot store (R301, R302): line data opens the member's store gap, a gap of higher
precedence keeps its own strip (R303), other strips are counted, and their tokens are still posted. -/
def State.discardItem (s : State) (n cause : Nat) (it : Item) : State :=
  let x := s.strm n
  let y := x.member it.lane
  if it.type = 1 ∨ it.type = 2 ∨ it.type = 4 then
    let gc := (it.payload / 2 ^ 16) % 256
    if it.type = 4 ∧ (gc = 0x0B ∨ gc = 0x09 ∨ gc = 0x0A) then
      let done := match y.store with
        | some g => y.storeDone ++ [s.gapOf it.lane y.lane g.cause g.first it.time false]
        | none => y.storeDone
      s.setStrm n (x.setMember it.lane { y with store := none, storeDone := done ++ [it] })
    else
      let opened := fun (s : State) (z : Member) =>
        let s := s.setStrm n (x.setMember it.lane { z with store := some { cause := cause, first := it.time } })
        if cause = 1 then s.ev F.CAP_EVENTS_quota
        else if cause = 2 then s.ev F.CAP_EVENTS_tier_full else s.ev F.CAP_EVENTS_staging_full
      match y.store with
      | some g =>
        if g.cause = cause then s
        else opened s { y with storeDone := y.storeDone ++ [s.gapOf it.lane y.lane g.cause g.first it.time false] }
      | none => opened s y
  else if it.type = 5 then s
  else
    let s := s.cnt F.CAP_STREAM_LOST_REC_value 1 n
    let s := match it.desc with | some d => s.ok d ((x.evSeq[0]?).getD 0) | none => s
    match it.token with
    | some (k, e) => s.event n k it.time e
    | none => s

/-- Place a strip of a stream, or discard it where the stream cannot store. -/
def State.place (s : State) (n : Nat) (it : Item) : State :=
  let st := s.strmState n
  if st = Strm.WAITING then s.discardItem n (s.storeCause n) it
  else if (s.strm n).staging then s.discardItem n 3 it
  else if st = Strm.ACTIVE then
    let s := s.ensureLeaf n false
    if s.strmState n = Strm.WAITING then s.discardItem n (s.storeCause n) it
    else if s.strmState n = Strm.ACTIVE then s.placeNow n it false
    else s
  else if st = Strm.STOPPING then
    if (s.strm n).wasWaiting then s.discardItem n (s.storeCause n) it else s.placeNow n it true
  else s

/-- Storage resumes (R301): each member's GAP strips are written, the last one up to its next unit boundary. -/
def State.resumeStore (s : State) (n : Nat) (final : Bool) : State :=
  let s := s.setStrm n { s.strm n with resumed := true, staging := false }
  s.each (upTo (s.strm n).members.length) (fun s m =>
    let x := s.strm n
    let y := x.member m
    let items := y.storeDone ++ (match y.store with
      | some g => [s.gapOf m y.lane g.cause g.first y.ended false]
      | none => [])
    let y' := if y.store.isSome then { y with bits := 0, nbits := 0 } else y
    let s := s.setStrm n (x.setMember m { y' with store := none, storeDone := [], start := y.ended })
    s.each items (fun s it => s.placeNow n it final))

/-- QUIRE_ALLOCATED (R300, R301): the first stream of the wait list that quota and tier allow receives its next quire; a
WAITING stream resumes. -/
def execQuireAllocated (s : State) : Host.Outcome State Fault Refusal :=
  let may := fun (n : Nat) =>
    let t := s.strmHolder n
    decide (s.get F.CAP_USE_FRONT_value t < s.get F.CAP_QUOTA_FRONT_quires t) && decide (0 < s.frontFree)
  match s.cap.waitList.find? may with
  | none => .next s
  | some n =>
    match s.allocQuire n with
    | (none, s) => .next s
    | (some q, s) =>
      let s := { s with cap := { s.cap with waitList := s.cap.waitList.erase n } }
      let x := s.strm n
      let s := match x.cur with
        | some _ => (s.setStrm n { x with next := some q, post := x.post - 1 }).linkQuire x.cur q
        | none =>
          ((s.setStrm n { x with cur := some q, index := 0, quires := x.quires ++ [q] }).linkQuire
            x.quires.getLast? q).root n
      .next (if s.strmState n = Strm.WAITING then (s.setStrmState n Strm.ACTIVE).resumeStore n false else s)

/-- LEAF_FLUSH_TIMEOUT (R295): flush_us has passed since the open leaf's first record strip; a PATTERN leaf is held. -/
def execLeafFlushTimeout (n : BitVec 10) (s : State) : Host.Outcome State Fault Refusal :=
  let n := n.toNat
  match (s.strm n).leaf with
  | some l => .next (if !l.strips.isEmpty && s.strmActive n then s.closeLeaf n false false else s)
  | none => .next s

/-- ROW_WAIT_TIMEOUT (R299): the leaves of a quire that wait for their row are written with partial parity. -/
def execRowWaitTimeout (q : BitVec 19) (s : State) : Host.Outcome State Fault Refusal :=
  let x := s.quire q.toNat
  .next (if x.state = Qr.OPEN then s.setQuireLive q.toNat { x with written := x.used } else s)

/-- SEAL_SLOT_WRITE (R296): a changed quire record is written to its seal slot. -/
def execSealSlotWrite (q : BitVec 19) (s : State) : Host.Outcome State Fault Refusal :=
  let q := q.toNat
  if s.cap.sealPending.contains q then
    .next { s with cap := { s.cap with
      seals := Tbl.set {} q { s.quire q with leaves := [] } s.cap.seals,
      sealPending := s.cap.sealPending.erase q } }
  else .next s

/-! ## Drain (R305, R306) -/

/-- The targets in the order a policy tries them (R305): codes 1, 2 DDR, 3 to 5 CXL ports, 6 the mirrored pair. -/
def drainOrder (policy : Nat) : List Nat := if policy = 1 then [3, 4, 5, 6, 1, 2] else [1, 2, 3, 4, 5, 6]

/-- The copies in progress to a target. -/
def State.copies (s : State) (g : Nat) : Nat :=
  (s.cap.quires.filter (fun p => p.2.copy.any (fun c => c.1 == g))).length

/-- A DDR group has lost its redundancy (R410): it takes no new quires. -/
def State.groupDegraded (s : State) (g : Nat) : Bool :=
  (decide (g = 1) || decide (g = 2)) && (upTo 8).any (fun i =>
    s.get F.MEM_DDR_STATUS_state (8 * (g - 1) + i) == V.MEM_DDR_STATUS_state_DEGRADED)

/-- A target can take a copy (R305): a free slot and fewer than four copies. -/
def State.targetOk (s : State) (g : Nat) : Bool :=
  decide (s.get F.CAP_TARGET_USED_value g < s.get F.CAP_TARGET_CAP_value g) && decide (s.copies g < 4) &&
    !s.groupDegraded g

/-- The first oldest-sealed quire of the queue that its holder's deep quota lets go. -/
def State.drainPick (s : State) : Option Nat :=
  s.cap.drain.find? (fun q =>
    let t := (s.quire q).tenant
    decide (s.get F.CAP_USE_DEEP_value t < s.get F.CAP_QUOTA_DEEP_quires t) && (s.quire q).state == Qr.SEALED)

/-- The free slot of a deep target that a copy takes, which the spec leaves open. -/
def State.deepSlot (s : State) (g : Nat) : Option Nat × State :=
  let (v, s) := s.fresh
  let n := s.get F.CAP_TARGET_CAP_value g
  ((findFrom (fun f => Tbl.get 0 s.cap.deepUsed (g * 2 ^ 20 + f % n) == 0) n (v % n)).map (· % n), s)

/-- Start the copy of a quire to a target. -/
def State.startCopy (s : State) (q g : Nat) : State :=
  match s.deepSlot g with
  | (none, s) => s
  | (some f, s) =>
    let s := s.setQuire q { s.quire q with state := Qr.DRAINING, copy := some (g, f) }
    let s := { s with cap := { s.cap with deepUsed := Tbl.set 0 (g * 2 ^ 20 + f) (q + 1) s.cap.deepUsed,
                                          drain := s.cap.drain.erase q } }
    let s := s.cnt F.CAP_TARGET_USED_value 1 g
    s.cnt F.CAP_USE_DEEP_value 1 (s.quire q).tenant

/-- Record the drain queue's length (R311). -/
def State.drainCount (s : State) : State := s.put F.CAP_DRAIN_PENDING_value s.cap.drain.length

/-- DRAIN_TAKE (R305, R306): a drain engine takes the oldest eligible quire; under BALANCED, `balanced` is the target
with the fewest bytes pending per unit of delivered bandwidth. -/
def execDrainTake (balanced : BitVec 3) (s : State) : Host.Outcome State Fault Refusal :=
  if !s.on F.CAP_DRAIN_CFG_enable then .next s
  else
    let policy := s.get F.CAP_DRAIN_CFG_policy
    let order := if policy = V.CAP_DRAIN_CFG_policy_BALANCED then [balanced.toNat] else drainOrder policy
    match s.drainPick, order.find? (fun g => decide (1 ≤ g) && decide (g ≤ 6) && s.targetOk g) with
    | some q, some g => .next (s.startCopy q g).drainCount
    | _, _ => .next s

/-- DRAIN_COPY_DONE (R305): the copy is verified; one update moves the quire and both counts. The front slot becomes
free at once: a read is one command here, so none is in flight (log entry 12). -/
def execDrainCopyDone (q : BitVec 19) (s : State) : Host.Outcome State Fault Refusal :=
  let q := q.toNat
  let x := s.quire q
  match x.copy with
  | some (g, f) =>
    if x.state = Qr.DRAINING then
      let s := s.setQuire q { x with state := Qr.SEALED, target := g, slot := f, copy := none }
      let s := s.put F.CAP_USE_FRONT_value (s.get F.CAP_USE_FRONT_value x.tenant - 1) x.tenant
      .next (s.freeFront x.slot)
    else .next s
  | none => .next s

/-- Abandon a drain copy: its deep slot is freed (R306). -/
def State.abandonCopy (s : State) (q : Nat) : State :=
  let x := s.quire q
  match x.copy with
  | some (g, f) =>
    let s := s.setQuire q { x with copy := none }
    let s := { s with cap := { s.cap with deepUsed := Tbl.set 0 (g * 2 ^ 20 + f) 0 s.cap.deepUsed } }
    let s := s.put F.CAP_TARGET_USED_value (s.get F.CAP_TARGET_USED_value g - 1) g
    s.put F.CAP_USE_DEEP_value (s.get F.CAP_USE_DEEP_value x.tenant - 1) x.tenant
  | none => s

/-- A copy whose target fails it is retried on the next target under the policy (R306), and sets drain_retry. -/
def State.retryCopy (s : State) (q : Nat) : State :=
  match (s.quire q).copy with
  | some (g, _) =>
    let s := (s.abandonCopy q).ev F.CAP_EVENTS_drain_retry
    let order := drainOrder (s.get F.CAP_DRAIN_CFG_policy)
    let later := (order.dropWhile (fun x => x != g)).drop 1 ++ order.takeWhile (fun x => x != g)
    match later.find? (fun g => s.targetOk g) with
    | some g' => s.startCopy q g'
    | none =>
      let s := s.setQuire q { s.quire q with state := Qr.SEALED }
      ({ s with cap := { s.cap with drain := q :: s.cap.drain } }).drainCount
  | none => s

/-- DRAIN_WRITE_FAILURE (R306): the drain retries on the next target under the policy and sets drain_retry. -/
def execDrainWriteFailure (q : BitVec 19) (s : State) : Host.Outcome State Fault Refusal := .next (s.retryCopy q.toNat)

/-- A write of CAP.DRAIN_CFG (R306, R315). -/
def State.writeDrainCfg (s : State) (p : Path) (v : Word) : State × Nat := s.plainWrite p Reg.CAP_DRAIN_CFG 0 0 0 v

/-- DRAIN_CFG_WRITE (R306). -/
def execDrainCfgWrite (p : Path) (v : Word) (s : State) : Host.Outcome State Fault Refusal :=
  .next (s.writeDrainCfg p v).1

/-- QUOTA_WRITE (R316): CAP.QUOTA_FRONT, or QUOTA_DEEP with `deep`, of a tenant. -/
def execQuotaWrite (p : Path) (deep : Bool) (t : BitVec 8) (v : Word) (s : State) : Host.Outcome State Fault Refusal :=
  .next (s.plainWrite p (if deep then Reg.CAP_QUOTA_DEEP else Reg.CAP_QUOTA_FRONT) t.toNat 0 0 v).1

/-! ## Release (R297) -/

/-- A quire enters RELEASING: a copy in progress is abandoned (R306), and it leaves the drain queue. -/
def State.releaseQuire (s : State) (q : Nat) : State :=
  let s := s.abandonCopy q
  let s := { s with cap := { s.cap with drain := s.cap.drain.erase q } }
  (s.setQuire q { s.quire q with state := Qr.RELEASING }).drainCount

/-- A quire becomes FREE (R297): its slot and its place in the holder's use are given up; its counter stays (R437); a
counter at its end makes the quire spent (R440). -/
def State.dropQuire (s : State) (q : Nat) : State :=
  let x := s.quire q
  let s := if x.target = 0 then
      (s.freeFront x.slot).put F.CAP_USE_FRONT_value (s.get F.CAP_USE_FRONT_value x.tenant - 1) x.tenant
    else if x.target < 7 then
      let s := { s with cap := { s.cap with deepUsed := Tbl.set 0 (x.target * 2 ^ 20 + x.slot) 0 s.cap.deepUsed } }
      let s := s.put F.CAP_TARGET_USED_value (s.get F.CAP_TARGET_USED_value x.target - 1) x.target
      s.put F.CAP_USE_DEEP_value (s.get F.CAP_USE_DEEP_value x.tenant - 1) x.tenant
    else s
  let s := s.setQuire q { counter := x.counter }
  s.when (x.counter == 0xFFFFFFFF) (fun s => s.cnt F.SEC_SPENT_QUIRES_value)

/-- A quire is LOST (R297, R310); `cause` as R610 QUIRE_LOST: 0 STORAGE, 1 POWER, 2 SEAL. -/
def State.loseQuire (s : State) (q cause : Nat) : State :=
  let x := s.quire q
  let s := s.log 0xD0 3 x.target [q, x.stream, x.tenant, cause]
  let s := s.abandonCopy q
  let s := { s with cap := { s.cap with drain := s.cap.drain.erase q } }
  let s := s.setQuire q { s.quire q with state := Qr.LOST }
  ((s.cnt F.CAP_LOST_QUIRES_value).ev F.CAP_EVENTS_quire_lost).drainCount

/-- A leaf of the front tier that cannot be rebuilt (R397, item 5): its authentication fails. -/
def State.leafBroken (s : State) (q i : Nat) : Bool := s.mem.broken.contains (q * 16384 + i, (s.quire q).counter)

/-- The numbers of the leaves that cannot be rebuilt. -/
def State.brokenLeaves (s : State) : List Nat :=
  (s.mem.broken.filter (fun (p : Nat × Nat) => p.2 == (s.quire (p.1 / 16384)).counter)).map (fun p => p.1)

/-- A writer places a strip in a DEVICE stream (R675): it must be ACTIVE, and bound to no other writer. Answers whether it
was written. -/
def State.deviceWrite (s : State) (n writer : Nat) (it : Item) : State × Bool :=
  let x := s.strm n
  if s.strmState n = Strm.ACTIVE ∧ s.strmKind n = Kind.DEVICE ∧ (x.bound = 0 ∨ x.bound = writer) then
    ((s.setStrm n { x with bound := writer }).place n it, true)
  else (s, false)

/-- Write the trace records made by the sewing frame (R479) into the DEVICE stream SWF.TRACE_CFG names, three to a
strip; records without an ACTIVE stream are counted lost. -/
def State.flushTrace (s : State) : State :=
  let recs := s.swf.trace
  let s := { s with swf := { s.swf with trace := [] } }
  let n := s.get F.SWF_TRACE_CFG_stream
  s.each recs (fun s r =>
    match r with
    | [kind, tenant, time, op, handle, dq, detail] =>
      let it : Item := { time := time, type := 1, flags := 1,
                         payload := pack [(0, kind), (1, tenant), (4, op), (8, handle), (12, dq), (16, detail)] }
      let (s, ok) := s.deviceWrite n 1 it
      if ok then s else (s.cnt F.SWF_TRACE_LOST_value).ev F.SWF_EVENTS_trace_lost
    | _ => s)

end Sys2Proof.Machine
end

