-- ==== Sys2Proof/Machine/Intake.lean ====
section
/-! DEFINITION. Machine/Intake.lean: the lane intake (spec/09, R219 to R254): units, suppression, gaps, bundles, FEC,
slices, and the match events of R257 and R258. -/
namespace Sys2Proof.Machine

/-! ## Codings (R219, R220, R345) -/

/-- The bits of a unit of a coding; `pam4` matters for RAW. -/
def unitWidth (coding : Nat) (pam4 : Bool) : Nat :=
  match coding with
  | 0 => if pam4 then 2 else 1
  | 1 => 10
  | 2 => 66
  | 3 => 66
  | 4 => 130
  | 5 => 257
  | 6 => 10
  | 7 => 10
  | _ => 8

/-- The unit periods a suppressed run of a coding may have (R219). -/
def idlePeriods (coding : Nat) : List Nat :=
  match coding with
  | 0 => []
  | 1 => [1, 2, 4]
  | 6 => [1, 2, 4]
  | 7 => [1, 2, 4]
  | 8 => [1, 2, 4, 8, 16]
  | _ => [1]

/-- A unit may begin an idle pattern (R219, R738): `k` says that an 8b/10b code group is a K code group. -/
def mayBegin (coding u : Nat) (k : Bool) : Bool :=
  match coding with
  | 0 => false
  | 1 => k
  | 2 => u % 4 == 1
  | 3 => u % 4 == 1
  | 4 => u % 4 == 2
  | 5 => u % 2 == 0
  | _ => true

/-- A unit that is invalid (R182, R220, R222): sync headers and 256b/257b blocks by their bits, code groups and RS
symbols as the decoder finds (`bad`). -/
def unitInvalid (coding u : Nat) (bad : Bool) : Bool :=
  match coding with
  | 2 => u % 4 == 0 || u % 4 == 3
  | 3 => u % 4 == 0 || u % 4 == 3
  | 4 => u % 4 == 0 || u % 4 == 3
  | 5 => u % 2 == 0 && (u / 2) % 16 == 15
  | 0 => false
  | _ => bad

/-- A lane runs PAM4. -/
def State.pam4 (s : State) (lane : Nat) : Bool := s.get F.LANE_RATE_modulation lane == V.LANE_RATE_modulation_PAM4

/-- Bits per symbol of a lane. -/
def State.bps (s : State) (lane : Nat) : Nat := if s.pam4 lane then 2 else 1

/-- The receive coding of a lane (R219). -/
def State.coding (s : State) (lane : Nat) : Nat := s.get F.SECT_LANE_CFG_coding (lane / 32) (lane % 32)

/-- Apply to the CAPTURE (tx false) or TX_MONITOR (tx true) streams that store a lane: (stream, member). -/
def State.laneMembers (s : State) (lane : Nat) (tx : Bool) : List (Nat × Nat) :=
  (s.cap.streams.filter (fun p => s.strmActive p.1 &&
      s.strmKind p.1 == (if tx then Kind.TX_MONITOR else Kind.CAPTURE))).flatMap (fun p =>
    ((upTo p.2.members.length).filter (fun m => (p.2.member m).lane == lane)).map (fun m => (p.1, m)))

/-- The position of a lane's member of a stream. -/
def State.eachMember (s : State) (lane : Nat) (f : State → Nat → Nat → State) : State :=
  s.each (s.laneMembers lane false ++ s.laneMembers lane true) (fun s p => f s p.1 p.2)

/-- Record in_run and in_gap of a lane (R251). -/
def State.istat (s : State) (n m : Nat) : State :=
  let y := (s.strm n).member m
  if s.strmKind n ≠ Kind.CAPTURE then s
  else (s.put F.SECT_ISTATUS_in_run (b2n y.run.isSome) (y.lane / 32) (y.lane % 32)).put F.SECT_ISTATUS_in_gap
    (b2n y.gap.isSome) (y.lane / 32) (y.lane % 32)

/-! ## Match events (R257 to R259) -/

/-- An event reaches the trigger logic of a sector. -/
def State.trigEvent (s : State) (e : TrigEvent) : State :=
  { s with trig := { s.trig with events := s.trig.events ++ [e] } }

/-- A match unit's event: counted, and an event of its condition. -/
def State.matched (s : State) (sect m time word : Nat) : State :=
  (s.cnt F.SECT_MATCH_COUNT_value 1 sect m).trigEvent { sector := sect, cond := m, time := time, word := word }

/-- Two lanes of a sector are members of one deskewed bundle. -/
def State.sameBundle (s : State) (sect a b : Nat) : Bool :=
  s.on F.SECT_ISTATUS_bundled sect a && s.on F.SECT_ISTATUS_bundled sect b &&
    s.get F.SECT_ISTATUS_bundle sect a == s.get F.SECT_ISTATUS_bundle sect b && s.on F.SECT_ISTATUS_deskewed sect a

/-- The events of a kind other than PATTERN on a lane (R258). -/
def State.laneMatch (s : State) (lane : Nat) (tx : Bool) (kind time : Nat) : State :=
  let sect := lane / 32
  s.each ((upTo 32).filter (fun m => s.on F.SECT_MATCH_CFG_enable sect m &&
      s.get F.SECT_MATCH_CFG_kind sect m == kind &&
      (s.get F.SECT_MATCH_CFG_lane sect m == lane % 32 ||
        (s.get F.SECT_MATCH_CFG_scope sect m == V.SECT_MATCH_CFG_scope_BUNDLE && decide (kind ≤ 3) &&
          s.sameBundle sect (lane % 32) (s.get F.SECT_MATCH_CFG_lane sect m))) &&
      (kind == 4 || kind == 5 || s.get F.SECT_MATCH_CFG_src sect m == b2n tx)))
    (fun s m => s.matched sect m time 0)

/-- The 128-bit value of four registers. -/
def State.wide (s : State) (r : RegDef) (i j : Nat) : Nat :=
  (upTo 4).foldl (fun a k => a + (s.word r i j k).toNat * 2 ^ (32 * k)) 0

/-- A PATTERN match unit tests a word. -/
def State.matchWord (s : State) (sect m w : Nat) : Bool :=
  let hit := ((w ^^^ s.wide Reg.SECT_MATCH_VALUE sect m) &&& s.wide Reg.SECT_MATCH_MASK sect m) == 0
  hit != s.on F.SECT_MATCH_CFG_invert sect m

/-- The PATTERN match units of a lane with scope LANE test the word that each unit completes (R257). `hist` holds the
last 512 bits, the newest at bit 511, of which `n` are valid; `t` is the time of the unit's first bit. -/
def State.patternMatch (s : State) (lane : Nat) (tx : Bool) (coding hist n t w : Nat) : State :=
  let sect := lane / 32
  s.each ((upTo 32).filter (fun m => s.on F.SECT_MATCH_CFG_enable sect m && s.get F.SECT_MATCH_CFG_kind sect m == 0 &&
      s.get F.SECT_MATCH_CFG_lane sect m == lane % 32 && s.get F.SECT_MATCH_CFG_src sect m == b2n tx &&
      s.get F.SECT_MATCH_CFG_scope sect m == V.SECT_MATCH_CFG_scope_LANE))
    (fun s m =>
      let off := if coding = 0 then 0 else s.get F.SECT_MATCH_CFG_offset sect m
      let word := hist / 2 ^ (384 - off) % 2 ^ 128
      if 128 + off ≤ n && s.matchWord sect m word then
        let back := s.symTime lane ((128 + off) / s.bps lane)
        s.matched sect m (t + s.symTime lane (w / s.bps lane) - back) word
      else s)

/-- The lane beside its registers. -/
def State.lane (s : State) (l : Nat) : LaneSt := Tbl.get {} s.lanes l

/-- Replace it. -/
def State.setLane (s : State) (l : Nat) (x : LaneSt) : State := { s with lanes := Tbl.set {} l x s.lanes }

/-- The match units of a lane watch a unit sent or received (R257). -/
def State.watchUnit (s : State) (lane : Nat) (tx : Bool) (coding u t w : Nat) : State :=
  let x := s.lane lane
  let old := if tx then x.tx else x.rx
  let h := (old + (u % 2 ^ w) * 2 ^ 512) / 2 ^ w % 2 ^ 512
  let n := Nat.min 512 ((if tx then x.txCount else x.rxCount) + w)
  let s := s.setLane lane (if tx then { x with tx := h, txCount := n } else { x with rx := h, rxCount := n })
  s.patternMatch lane tx coding h n t w

/-- A BUNDLE match unit tests the word of one deskewed unit position (R257). -/
def State.bundleMatch (s : State) (n : Nat) : State :=
  let x := s.strm n
  let ms := x.members
  let p := (x.member 0).pos
  if !x.deskewed || ms.any (fun y => y.pos != p) then s
  else
    let w := unitWidth x.coding (s.pam4 (x.member 0).lane)
    let word := (upTo ms.length).foldl (fun a i => a + (x.member i).unit * 2 ^ (w * i)) 0 % 2 ^ 128
    let sect := x.sector
    s.each ((upTo 32).filter (fun m => s.on F.SECT_MATCH_CFG_enable sect m &&
        s.get F.SECT_MATCH_CFG_scope sect m == V.SECT_MATCH_CFG_scope_BUNDLE &&
        s.get F.SECT_MATCH_CFG_kind sect m == 0 && s.get F.SECT_MATCH_CFG_src sect m == 0 &&
        ms.any (fun y => y.lane == 32 * sect + s.get F.SECT_MATCH_CFG_lane sect m)))
      (fun s m => if s.matchWord sect m word then s.matched sect m (x.member 0).unitTime word else s)

/-! ## Order of strips (R227, R241) -/

/-- The earliest position of a member that no strip holds yet. -/
def Member.mark (y : Member) : Nat :=
  let a := match y.gap with | some g => g.pos | none => y.pos
  let b := match y.run with | some r => r.pos | none => a
  let c := if 0 < y.nbits then y.spos else b
  let d := if y.held.isEmpty then c else Nat.min c (y.pos - y.held.length)
  Nat.min a (Nat.min b d)

/-- Place the waiting strips of a deskewed bundle whose round is complete (R241), all of them with `all`. -/
def State.flushWait (s : State) (n : Nat) (all : Bool) : State :=
  let x := s.strm n
  let low := (upTo x.members.length).map (fun m => (x.member m).mark * 16 + m)
  let ok := fun (it : Item) => all || low.all (fun k => decide (it.key ≤ k))
  let go := x.wait.takeWhile ok
  let s := s.setStrm n { x with wait := x.wait.dropWhile ok }
  s.each go (fun s it => s.place n it)

/-- Insert an item by its key. -/
def insertItem (it : Item) : List Item → List Item
  | [] => [it]
  | h :: r => if it.key < h.key then it :: h :: r else h :: insertItem it r

/-- A completed line strip: in its round for a deskewed bundle, else at once. -/
def State.offer (s : State) (n : Nat) (it : Item) : State :=
  let x := s.strm n
  if x.deskewed then s.setStrm n { x with wait := insertItem it x.wait } else s.place n it

/-- The time of the first symbol of a member that no strip holds yet: none when all are stored. -/
def State.openTime (s : State) (n m : Nat) : Option Nat :=
  let x := s.strm n
  let y := x.member m
  let l := (if 0 < y.nbits then [y.start] else []) ++ (y.run.toList.map (fun r => r.start)) ++
    (y.held.map (fun h => h.2.1)) ++ ((x.delay.filter (fun d => d.1 == m)).map (fun d => d.2.2.1)) ++
    ((x.wait.filter (fun i => i.lane == m)).map (fun i => i.time))
  l.min?

/-- Place the ribbons, notes and events whose symbol lies in a placed strip (R227), all of them with `all`. -/
def State.flushNotes (s : State) (n : Nat) (all : Bool) : State :=
  let x := s.strm n
  let ok := fun (it : Item) => all || (match s.openTime n it.lane with | some t => decide (it.time < t) | none => true)
  let s := s.setStrm n { x with notes := x.notes.filter (fun i => !ok i) }
  s.each (x.notes.filter ok) (fun s it => s.place n it)

/-- A RIBBON, FEC_NOTE or EVENT strip (R227): it waits for the strip that holds its symbol; `key` orders equal times
(R274). -/
def State.note (s : State) (n : Nat) (it : Item) : State :=
  let x := s.strm n
  let l := x.notes.takeWhile (fun i => decide (i.time < it.time) || (i.time == it.time && decide (i.key ≤ it.key)))
  let s := s.setStrm n { x with notes := l ++ it :: x.notes.drop l.length }
  s.flushNotes n false

/-! ## DATA and FILL_RUN (R230 to R232, R239) -/

/-- The position key of a strip (R241). -/
def stripKey (pos m : Nat) : Nat := pos * 16 + m

/-- A DATA strip of `k` bits from the front of a member's bits. -/
def State.emitData (s : State) (n m k : Nat) : State :=
  let x := s.strm n
  let y := x.member m
  let part := decide (k < 480)
  let b := y.bits % 2 ^ k
  let next := y.start + s.symTime y.lane (k / s.bps y.lane)
  let s := s.setStrm n (x.setMember m
    { y with bits := y.bits / 2 ^ k, nbits := y.nbits - k, start := next, spos := y.pos })
  s.offer n { time := y.start, type := 1, lane := m, flags := 8 * b2n part + y.start % 8,
              payload := if part then b + k * 2 ^ 464 else b, key := stripKey y.spos m, stored := k / s.bps y.lane }

/-- End a stretch of DATA at a unit boundary (R230): the tail is a PARTIAL strip, or two where 465 to 479 bits are left.
`w` is the unit width. -/
def State.endData (s : State) (n m w : Nat) : State :=
  let y := (s.strm n).member m
  if y.nbits = 0 then s
  else if y.nbits ≤ 464 then s.emitData n m y.nbits
  else
    let k := y.nbits - ((y.nbits - 464 + w - 1) / w) * w
    let s := s.emitData n m k
    s.emitData n m ((s.strm n).member m).nbits

/-- Store one unit as DATA. -/
def State.dataUnit (s : State) (n m u t w pos : Nat) : State :=
  let x := s.strm n
  let y := x.member m
  let y := if y.nbits = 0 then { y with start := t, spos := pos } else y
  let y := { y with bits := y.bits + (u % 2 ^ w) * 2 ^ y.nbits, nbits := y.nbits + w }
  let s := s.setStrm n (x.setMember m y)
  if 480 ≤ y.nbits then s.emitData n m 480 else s

/-- Write the FILL_RUN piece of a run (R232). With `more` the run goes on in the next piece. -/
def State.emitRun (s : State) (n m w : Nat) (more : Bool) : State :=
  let x := s.strm n
  let y := x.member m
  match y.run with
  | none => s
  | some r =>
    let p := r.units.length
    let k := r.count % p
    let span := s.symTime y.lane (r.count * w / s.bps y.lane)
    let r' : Run := { units := r.units.drop k ++ r.units.take k, start := r.start + span, pos := r.pos + r.count,
                      count := 0 }
    let s := s.setStrm n (x.setMember m { y with run := if more then some r' else none })
    let pat := (upTo p).foldl (fun a i => a + ((r.units[i]?).getD 0) * 2 ^ (w * i)) 0
    s.offer n { time := r.start, type := 2, lane := m, flags := 8 * b2n more + r.start % 8,
                payload := pack [(0, r.count), (8, p), (12, pat)], key := stripKey r.pos m,
                stored := r.count * w / s.bps y.lane }

/-- End a run (R239). -/
def State.endRun (s : State) (n m w : Nat) : State :=
  match ((s.strm n).member m).run with
  | some r => if 0 < r.count then s.emitRun n m w false
    else s.setStrm n ((s.strm n).setMember m { (s.strm n).member m with run := none })
  | none => s

/-- The units held back repeat with period `p` from the first one on. -/
def repeats (l : List Nat) (p : Nat) : Bool := (l.zip (l.drop p)).all (fun x => x.1 == x.2)

/-- Decide the units held back (R239): the first of them begins a run when it and those behind it repeat with an
allowed period for min_run units; a unit that cannot begin a run is DATA. With `all` everything held is DATA. -/
def State.settle (s : State) (n m w minRun : Nat) (all : Bool) : Nat → State
  | 0 => s
  | fuel + 1 =>
    let x := s.strm n
    let y := x.member m
    match y.held with
    | [] => s
    | (u, t, k) :: r =>
      let us := y.held.map (fun h => h.1)
      let alive := if mayBegin x.coding u k && !all then (idlePeriods x.coding).filter (fun p => repeats us p) else []
      match alive with
      | [] =>
        let pos := y.pos - y.held.length
        let s := s.setStrm n (x.setMember m { y with held := r })
        (s.dataUnit n m u t w pos).settle n m w minRun all fuel
      | p :: _ =>
        if minRun ≤ us.length ∧ p < us.length then
          let s := s.endData n m w
          let x := s.strm n
          let y := x.member m
          let r : Run := { units := us.take p, start := t, pos := y.pos - us.length, count := us.length }
          s.setStrm n (x.setMember m { y with held := [], run := some r })
        else s

/-- Everything held back and collected is written (R239, R230): before a gap, a loss of alignment, a stop. -/
def State.endStretch (s : State) (n m : Nat) : State :=
  let x := s.strm n
  let y := x.member m
  let w := unitWidth x.coding (s.pam4 y.lane)
  let s := s.settle n m w 0 true (y.held.length + 1)
  (s.endRun n m w).endData n m w

/-! ## Gaps (R233, R234, R303) -/

/-- The cause recorded where several hold (R303). -/
def topCause (l : List Nat) : Option Nat :=
  if l.contains 0x0B then some 0x0B else if l.contains 0x09 then some 0x09 else if l.contains 0x0A then some 0x0A
  else l.head?

/-- Open, change or leave a member's gap for its causes at a time. -/
def State.regap (s : State) (n m t : Nat) : State :=
  let x := s.strm n
  let y := x.member m
  match topCause y.causes with
  | none => s
  | some c =>
    match y.gap with
    | none =>
      let s := s.endStretch n m
      let x := s.strm n
      let y := x.member m
      let g : Gap := { cause := c, first := y.ended, pos := y.pos }
      let s := s.setStrm n (x.setMember m { y with gap := some g })
      (s.laneMatch y.lane (s.strmKind n == Kind.TX_MONITOR) 6 y.ended).istat n m
    | some g =>
      if g.cause = c then s
      else
        let g' : Gap := { cause := c, first := t, pos := g.pos }
        let s := s.setStrm n (x.setMember m { y with gap := some g' })
        s.offer n { s.gapOf m y.lane g.cause g.first t false with key := stripKey g.pos m }

/-- A cause of missing symbols begins on a member; a lane-side cause takes the place of another. -/
def State.addCause (s : State) (n m c t : Nat) : State :=
  let x := s.strm n
  let y := x.member m
  let special := fun (c : Nat) => c == 0x0B || c == 0x09 || c == 0x0A
  let cs := if special c then y.causes.filter (fun d => d != c) else y.causes.filter special
  (s.setStrm n (x.setMember m { y with causes := cs ++ [c] })).regap n m t

/-- A cause ends; without another the gap stays open until the next unit is stored. -/
def State.dropCause (s : State) (n m c t : Nat) : State :=
  let x := s.strm n
  let y := x.member m
  (s.setStrm n (x.setMember m { y with causes := y.causes.filter (fun d => d != c) })).regap n m t

/-- The gap ends at a time: its GAP strip is written (R233). -/
def State.closeGap (s : State) (n m t : Nat) : State :=
  let x := s.strm n
  let y := x.member m
  match y.gap with
  | none => s
  | some g =>
    let s := s.setStrm n (x.setMember m { y with gap := none })
    let s := if g.first < t then s.offer n { s.gapOf m y.lane g.cause g.first t false with key := stripKey g.pos m }
      else s
    s.istat n m

/-! ## Units -/

/-- A unit of a member with idle suppression (R239): it extends the open run, ends it, or is held back. -/
def State.heldUnit (s : State) (n m u t w minRun : Nat) (k : Bool) (y : Member) : State :=
  match y.run with
  | some r =>
    if (r.units[r.count % r.units.length]?).getD 0 = u then
      let due := (s.strm n).notes.any (fun i => i.lane == m && decide (i.time < t)) && decide (0 < r.count)
      let s := s.when due (fun s => s.emitRun n m w true)
      let x := s.strm n
      let y := x.member m
      match y.run with
      | some r => s.setStrm n (x.setMember m { y with run := some { r with count := r.count + 1 } })
      | none => s
    else
      let s := s.endRun n m w
      let x := s.strm n
      let y := x.member m
      (s.setStrm n (x.setMember m { y with held := [(u, t, k)] })).settle n m w minRun false 2
  | none =>
    let l := y.held ++ [(u, t, k)]
    (s.setStrm n ((s.strm n).setMember m { y with held := l })).settle n m w minRun false (l.length + 1)

/-- A unit of a member is stored, suppressed, or falls in a gap (R220, R228, R239). -/
def State.takeUnit (s : State) (n m u t : Nat) (k : Bool) : State :=
  let x := s.strm n
  let y := x.member m
  let w := unitWidth x.coding (s.pam4 y.lane)
  let dur := s.symTime y.lane (w / s.bps y.lane)
  if !y.causes.isEmpty then
    s.setStrm n (x.setMember m { y with ended := t + dur, pos := y.pos + 1, unit := u, unitTime := t })
  else
    let s := s.closeGap n m t
    let x := s.strm n
    let y := { x.member m with ended := t + dur, pos := (x.member m).pos + 1, unit := u, unitTime := t }
    let sup := s.on F.SECT_LANE_CFG_idle_suppress (y.lane / 32) (y.lane % 32)
    let minRun := s.get F.SECT_LANE_CFG_min_run (y.lane / 32) (y.lane % 32)
    let s := s.setStrm n (x.setMember m y)
    (if sup then s.heldUnit n m u t w minRun k y else s.dataUnit n m u t w (y.pos - 1)).istat n m

/-- A unit past the gate's delay (R268): stored inside a stored interval, else FILTERED. -/
def State.gateUnit (s : State) (n m u t : Nat) (k : Bool) : State :=
  let x := s.strm n
  let y := x.member m
  let w := unitWidth x.coding (s.pam4 y.lane)
  let dur := s.symTime y.lane (w / s.bps y.lane)
  let inside := x.gates.any (fun g => decide (g.1 < t + dur) && (match g.2 with | none => true | some e => decide (t < e)))
  let s := if inside then s.dropCause n m 0x0B t else if y.causes.contains 0x0B then s else s.addCause n m 0x0B t
  s.takeUnit n m u t k

/-- The staging SRAM holds the units of a filtered stream 2.304 µs (147,456 LSB) before committing them (R268). -/
def State.commitDelay (s : State) (n t : Nat) (all : Bool) : State :=
  let x := s.strm n
  let ok := fun (d : Nat × Nat × Nat × Bool) => all || decide (d.2.2.1 + 147456 ≤ t)
  let s := s.setStrm n { x with delay := x.delay.dropWhile ok }
  s.each (x.delay.takeWhile ok) (fun s d => s.gateUnit n d.1 d.2.1 d.2.2.1 d.2.2.2)

/-- A unit reaches a stream; one before the stream's start (R292) is none of its. -/
def State.streamUnit (s : State) (n m u t : Nat) (k : Bool) : State :=
  let x := s.strm n
  if t < s.pair Reg.CAP_STREAM_START_LO Reg.CAP_STREAM_START_HI n then s else
  let s :=
    if s.on F.CAP_STREAM_STATUS_filtering n then
      (s.setStrm n { x with delay := x.delay ++ [(m, u, t, k)] }).commitDelay n t false
    else s.takeUnit n m u t k
  ((s.flushWait n false).flushNotes n false).bundleMatch n

/-- One bit of the self-synchronous descrambler x^58 + x^39 + 1 (R219): bit 0 of the register is the newest. -/
def descramble : Nat → BitVec 58 → Nat → Nat → Nat × BitVec 58
  | 0, r, _, acc => (acc, r)
  | k + 1, r, u, acc =>
    let i := 64 - (k + 1)
    let b := u.testBit (2 + i)
    let o := (b != r.getLsbD 57) != r.getLsbD 38
    descramble k (r <<< 1 ||| (if b then 1 else 0)) u (acc + b2n o * 2 ^ (2 + i))

/-- Staging of a sector (R302): above 3.5 MiB the strips of the stream with the most staged bytes are discarded, until
the staging falls below 3 MiB. -/
def State.staging (s : State) (sect bytes most : Nat) : State :=
  if 3670016 < bytes ∧ s.strmActive most then
    let x := s.strm most
    if s.strmKind most = Kind.DIGITIZER ∨ x.staging then s else s.setStrm most { x with staging := true }
  else if bytes < 3145728 then
    s.each (s.cap.streams.filter (fun p => p.2.sector == sect && p.2.staging)) (fun s p => s.resumeStore p.1 false)
  else s

/-- A lane in loop FE echoes its receiver (R183, R184): match units and a transmit monitor see the unit 64 UI + 4 ns
later. -/
def State.echoUnit (s : State) (lane u t w : Nat) (k : Bool) : State :=
  let s := (s.watchUnit lane true (s.coding lane) u t w).send (.tx lane u 0)
  s.each (s.laneMembers lane true) (fun s p => s.streamUnit p.1 p.2 u t k)

/-- INTAKE_UNIT (R220, R16, R257, R302): a unit reaches the intake of a lane; `t` is the time its first bit crossed the
ball, `bad` and `k` what the decoder finds of a code group or RS symbol, `staged` the bytes then waiting in the sector's
staging and `most` the stream with the most of them. -/
def execIntakeUnit (lane : BitVec 9) (u : BitVec 257) (t : BitVec 64) (bad k : Bool) (staged : BitVec 23)
    (most : BitVec 10) (s : State) : Host.Outcome State Fault Refusal :=
  let l := lane.toNat
  let c := s.coding l
  let st := s.get F.LANE_STATUS_state l
  let rawWhileSearching := st == 3 && c != 0 && s.on F.SECT_LANE_CFG_unaligned (l / 32) (l % 32)
  if st = 4 ∨ (st = 3 ∧ c = 0) then
    let w := unitWidth c (s.pam4 l)
    let v := u.toNat % 2 ^ w
    let (v, s) := if c = 3 then
        let (d, r) := descramble 64 (s.lane l).scramble v (v % 4)
        (d, s.setLane l { s.lane l with scramble := r })
      else (v, s)
    let inv := unitInvalid c v bad
    let s := s.when inv (fun s => (s.cnt F.SECT_INVALID_COUNT_value 1 (l / 32) (l % 32)).laneMatch l false 1 t.toNat)
    let s := s.watchUnit l false c v t.toNat w
    let s := s.each (s.laneMembers l false) (fun s p => s.streamUnit p.1 p.2 v t.toNat k)
    let s := if s.get F.LANE_CTRL_loop l = 3 then s.echoUnit l v (t.toNat + s.symTime l 64 + 256) w k else s
    .next (s.staging (l / 32) staged.toNat most.toNat)
  else if rawWhileSearching then
    let v := u.toNat % 2 ^ s.bps l
    .next (s.each (s.laneMembers l false) (fun s p =>
      let s := s.closeGap p.1 p.2 t.toNat
      let s := s.dataUnit p.1 p.2 v t.toNat (s.bps l) ((s.strm p.1).member p.2).pos
      let x := s.strm p.1
      s.setStrm p.1 (x.setMember p.2 { x.member p.2 with ended := t.toNat + s.symTime l 1 })))
  else .next s

/-- RUN_PIECE_TIMEOUT (R239): an ongoing run has reached 100 µs. -/
def execRunPieceTimeout (n : BitVec 10) (m : BitVec 4) (s : State) : Host.Outcome State Fault Refusal :=
  let x := s.strm n.toNat
  let y := x.member m.toNat
  match y.run with
  | some r => .next (if 0 < r.count ∧ s.strmActive n.toNat then
      s.emitRun n.toNat m.toNat (unitWidth x.coding (s.pam4 y.lane)) true else s)
  | none => .next s

/-- GAP_PIECE_TIMEOUT (R233): an ongoing gap has reached 100 µs; the piece ends at `t`. -/
def execGapPieceTimeout (n : BitVec 10) (m : BitVec 4) (t : BitVec 64) (s : State) :
    Host.Outcome State Fault Refusal :=
  let n := n.toNat
  let m := m.toNat
  let x := s.strm n
  let y := x.member m
  match y.gap with
  | some g =>
    if s.strmActive n ∧ g.first < t.toNat then
      let s := s.setStrm n (x.setMember m { y with gap := some { g with first := t.toNat } })
      .next (s.offer n { s.gapOf m y.lane g.cause g.first t.toNat true with key := stripKey g.pos m })
    else .next s
  | none => .next s

/-! ## Events on a lane (R238, R243) -/

/-- An EVENT strip (R238). -/
def State.eventStrip (s : State) (n m code t detail : Nat) : State :=
  let lane := ((s.strm n).member m).lane
  s.note n { time := t, type := 8, lane := m, payload := pack [(0, code), (2, lane), (4, t), (12, detail)], key := 0 }

/-! Event codes. -/
abbrev Evt.STREAM_START : Nat := 1
abbrev Evt.STREAM_STOP : Nat := 2
abbrev Evt.LOCK_GAINED : Nat := 3
abbrev Evt.LOCK_LOST : Nat := 4
abbrev Evt.DESKEW_GAINED : Nat := 5
abbrev Evt.DESKEW_LOST : Nat := 6
abbrev Evt.SKEW_RANGE : Nat := 7
abbrev Evt.PLL_SWITCH : Nat := 8
abbrev Evt.SLICE_SWITCH : Nat := 9
abbrev Evt.UNAVAILABLE : Nat := 10

/-- Deskew of a stream's bundle is lost (R242): its waiting strips are placed, every member's stretch ends. -/
def State.loseDeskew (s : State) (n t : Nat) : State :=
  let x := s.strm n
  if !x.deskewed then s
  else
    let s := s.each (upTo x.members.length) (fun s m => s.endStretch n m)
    let s := s.flushWait n true
    let s := s.setStrm n { s.strm n with deskewed := false }
    let sect := x.sector
    let s := s.ev F.SECT_INTAKE_EVENTS_deskew_lost sect
    let s := s.put F.SECT_BUNDLE_STATUS_deskewed 0 sect (x.bundle.getD 0)
    s.each (upTo x.members.length) (fun s m =>
      (s.put F.SECT_ISTATUS_deskewed 0 sect ((x.member m).lane % 32)).eventStrip n m Evt.DESKEW_LOST t 0)

/-- A lane leaves ALIGNED (R243): the stretch ends, LOCK_LOST, a gap until lock returns, or unaligned bits. -/
def State.laneLost (s : State) (lane t cause : Nat) : State :=
  let un := s.on F.SECT_LANE_CFG_unaligned (lane / 32) (lane % 32)
  s.each (s.laneMembers lane false) (fun s p =>
    let s := s.loseDeskew p.1 t
    let s := s.endStretch p.1 p.2
    let s := s.eventStrip p.1 p.2 Evt.LOCK_LOST t (b2n un)
    if cause = 4 ∧ un then s else s.addCause p.1 p.2 cause t)

/-- FEC_CODEWORD_DONE (R237, R240): the decode result of a codeword; `corr` symbols corrected or `uncorr`, `entries` the
20-bit index and error pairs packed, `b` codeword B of an interleaved pair, `ago` the units the member has received
since the codeword began, `t` the time of its first symbol. A run ends at the start of a codeword that is not clean. -/
def execFecCodewordDone (n : BitVec 10) (m : BitVec 4) (t : BitVec 64) (corr : BitVec 4) (uncorr b : Bool)
    (entries : BitVec 300) (ago : BitVec 16) (s : State) : Host.Outcome State Fault Refusal :=
  let n := n.toNat
  let m := m.toNat
  let x := s.strm n
  let y := x.member m
  let sect := y.lane / 32
  let j := y.lane % 32
  if !s.strmActive n || x.members.length ≤ m || (x.coding != 6 && x.coding != 7) ||
      !s.on F.SECT_LANE_CFG_fec_annotate sect j || (decide (1 < x.members.length) && !x.deskewed) then .next s
  else
    let fs := x.fecSeq
    let s := s.setStrm n { x with fecSeq := (fs + 1) % 2 ^ 32 }
    let c := if uncorr then 0 else corr.toNat
    if !uncorr && c == 0 then .next s
    else
      let w := unitWidth x.coding false
      let s := match y.run with
        | some r =>
          let back := Nat.min ago.toNat r.count
          let keep := r.count - back
          let tail := (upTo back).map (fun i => (r.units[(keep + i) % r.units.length]?).getD 0)
          let s := s.setStrm n ((s.strm n).setMember m { y with run := some { r with count := keep } })
          let s := s.endRun n m w
          s.each ((upTo back).zip tail) (fun s u =>
            s.dataUnit n m u.2 (r.start + s.symTime y.lane ((keep + u.1) * w / s.bps y.lane)) w (r.pos + keep + u.1))
        | none => s
      let s := if uncorr then
          ((s.cnt F.SECT_FEC_UNCORR_CW_value 1 sect j).ev F.SECT_INTAKE_EVENTS_fec_uncorrectable sect).laneMatch y.lane
            false 3 t.toNat
        else ((s.cnt F.SECT_FEC_CORR_CW_value 1 sect j).cnt F.SECT_FEC_CORR_SYM_value c sect j).laneMatch y.lane
            false 2 t.toNat
      let ent := if uncorr then 0 else entries.toNat % 2 ^ (20 * c)
      .next (s.note n { time := t.toNat, type := 6, lane := m, flags := 8 * b2n uncorr + t.toNat % 8, key := 0,
                        payload := pack [(0, fs), (4, c + 16 * b2n b), (8, ent)] })

/-- DESKEW_ROUND (R241, R242): a round of markers of a bundle; `offs` is each member's offset from the earliest marker in
LSB, none where its marker is absent; `t` the earliest marker's time. -/
def execDeskewRound (sect b : BitVec 4) (t : BitVec 64) (offs : List (Option Nat)) (s : State) :
    Host.Outcome State Fault Refusal :=
  let sect := sect.toNat
  let b := b.toNat
  let n := s.get F.SECT_BUNDLE_STATUS_stream sect b
  let x := s.strm n
  if !s.on F.SECT_BUNDLE_STATUS_active sect b || offs.length != x.members.length then .next s
  else
    let z := Tbl.get {} s.sectors sect
    let got := offs.filterMap id
    let big := got.any (fun o => decide (4096 < o))
    let all := decide (got.length = offs.length)
    let ui := s.symTime (x.member 0).lane 1
    let last := Tbl.get [] z.offsets b
    let near := all && decide (last.length = got.length) &&
      (got.zip last).all (fun p => decide (p.1 ≤ p.2 + 2 * ui) && decide (p.2 ≤ p.1 + 2 * ui))
    let worst := got.foldl Nat.max 0
    let s := s.put F.SECT_BUNDLE_STATUS_skew_ticks (satNat 10 (worst / 8)) sect b
    let s := s.when big (fun s => (s.ev F.SECT_INTAKE_EVENTS_skew_range sect).eventStrip n 0 Evt.SKEW_RANGE s.now t.toNat)
    if x.deskewed then
      let bad := if near && !big then 0 else Tbl.get 0 z.bad b + 1
      let z' : SectorSt :=
        { z with bad := Tbl.set 0 b (bad % 4) z.bad
                 offsets := if bad = 4 then Tbl.set [] b [] z.offsets else z.offsets }
      let s := { s with sectors := Tbl.set {} sect z' s.sectors }
      .next (if bad = 4 then s.loseDeskew n t.toNat else s)
    else if all && !big && near then
      let delay := got.map (fun o => worst - o)
      let s := { s with sectors := Tbl.set {} sect { z with bad := Tbl.set 0 b 0 z.bad } s.sectors }
      let s := s.each (upTo x.members.length) (fun s m =>
        let s := s.endStretch n m
        let x := s.strm n
        let s := s.setStrm n (x.setMember m { x.member m with pos := 0 })
        let j := (x.member m).lane % 32
        (s.put F.SECT_ISTATUS_deskewed 1 sect j).put F.SECT_ISTATUS_deskew_ticks (((delay[m]?).getD 0) / 8) sect j)
      let s := s.setStrm n { s.strm n with deskewed := true }
      let s := (s.ev F.SECT_INTAKE_EVENTS_deskew_gained sect).put F.SECT_BUNDLE_STATUS_deskewed 1 sect b
      let det := (upTo delay.length).foldl (fun a i => a + (((delay[i]?).getD 0) / 8) * 2 ^ (16 * i)) 0
      .next (s.eventStrip n 0 Evt.DESKEW_GAINED t.toNat det)
    else
      .next { s with sectors := Tbl.set {} sect { z with
        offsets := Tbl.set [] b (if all && !big then got else []) z.offsets } s.sectors }

/-! ## Slices (R245, R246) -/

/-- SLICE_CHECKPOINT (R245): the active slices of a sector write their checkpoint. -/
def execSliceCheckpoint (sect : BitVec 4) (s : State) : Host.Outcome State Fault Refusal :=
  let i := sect.toNat
  .next { s with sectors := Tbl.set {} i { Tbl.get {} s.sectors i with checkpoint := s.now } s.sectors }

/-- The octet a slice of a sector serves. -/
def State.sliceOctet (s : State) (i k : Nat) : Option Nat :=
  let f := [s.get F.SECT_INTAKE_STATUS_octet0_slice i, s.get F.SECT_INTAKE_STATUS_octet1_slice i,
            s.get F.SECT_INTAKE_STATUS_octet2_slice i, s.get F.SECT_INTAKE_STATUS_octet3_slice i]
  (upTo 4).find? (fun o => (f[o]?).getD 0 == k)

/-- Set the slice serving an octet of a sector (R251, R253). -/
def State.serveOctet (s : State) (i o k : Nat) : State :=
  let s := match o with
    | 0 => s.put F.SECT_INTAKE_STATUS_octet0_slice k i
    | 1 => s.put F.SECT_INTAKE_STATUS_octet1_slice k i
    | 2 => s.put F.SECT_INTAKE_STATUS_octet2_slice k i
    | _ => s.put F.SECT_INTAKE_STATUS_octet3_slice k i
  s.each (upTo 8) (fun s j => s.put F.SECT_ISTATUS_slice k i (8 * o + j))

/-- What a failed slice had not handed to staging is lost (R245): the gap begins at its first symbol. -/
def State.dropStretch (s : State) (n m : Nat) : State :=
  let x := s.strm n
  let y := x.member m
  let first := (s.openTime n m).getD y.ended
  s.setStrm n (x.setMember m { y with bits := 0, nbits := 0, held := [], run := none, ended := first })

/-- The octet of a failed slice goes to the spare, or its lanes get no gathering (R245): from the failure on their symbols are
missing. -/
def State.sliceOut (s : State) (i k o : Nat) (spare : Bool) : State :=
  let s := (s.fault 10 (!spare)).log 0x90 2 i [k, o]
  let s := s.when (!spare) (fun s => s.log 0x91 3 i [o])
  let s := s.each (upTo 8) (fun s j => s.eachMember (32 * i + 8 * o + j) (fun s n m =>
    (s.dropStretch n m).addCause n m (if spare then 0x09 else 0x0A) s.now))
  s.when spare (fun s =>
    { s with sectors := Tbl.set {} i { Tbl.get {} s.sectors i with failover := some (k, o) } s.sectors })

/-- SLICE_FAILURE (R245, R246, R600 class F10): slice `k` of a sector fails. -/
def execSliceFailure (sect : BitVec 4) (k : Nat) (s : State) : Host.Outcome State Fault Refusal :=
  let i := sect.toNat
  if 5 ≤ k then .fault .noSuchUnit
  else if bit (s.get F.SECT_INTAKE_STATUS_failed i) k then .next s
  else
    let spare := s.on F.SECT_INTAKE_STATUS_spare_ok i
    let s := (s.put F.SECT_INTAKE_STATUS_failed (s.get F.SECT_INTAKE_STATUS_failed i ||| 2 ^ k) i).ev
      F.SECT_INTAKE_EVENTS_slice_failed i
    match s.sliceOctet i k with
    | none => .next (((s.put F.SECT_INTAKE_STATUS_spare_ok 0 i).fault 10 false).log 0x90 2 i [k, 4])
    | some o => .next (s.sliceOut i k o spare)

/-- SLICE_FAILOVER_DONE (R245): the spare stores. -/
def execSliceFailoverDone (sect : BitVec 4) (s : State) : Host.Outcome State Fault Refusal :=
  let i := sect.toNat
  let z := Tbl.get {} s.sectors i
  match z.failover with
  | none => .next s
  | some (k, o) =>
    let s := { s with sectors := Tbl.set {} i { z with failover := none } s.sectors }
    let s := (s.serveOctet i o 4).put F.SECT_INTAKE_STATUS_spare_ok 0 i
    let s := (s.cnt F.SECT_SLICE_SWITCH_COUNT_value 1 i).ev F.SECT_INTAKE_EVENTS_slice_switched i
    .next (s.each (upTo 8) (fun s j => s.eachMember (32 * i + 8 * o + j) (fun s n m =>
      (s.dropCause n m 0x09 s.now).eventStrip n m Evt.SLICE_SWITCH s.now (k + 4 * 256))))

/-! ## Configuration (R224, R248 to R250) -/

/-- A stream is active on a lane (R224). -/
def State.laneStreamed (s : State) (lane : Nat) : Bool :=
  !(s.laneMembers lane false).isEmpty || !(s.laneMembers lane true).isEmpty

/-- Loss of coding lock under R181 by a change of coding or comma set (R224). -/
def State.relock (s : State) (lane : Nat) : State :=
  if s.get F.LANE_STATUS_state lane = 4 then
    let s := (s.put F.LANE_STATUS_state 3 lane).put F.SECT_ISTATUS_aligned 0 (lane / 32) (lane % 32)
    let s := (s.put F.LANE_STATUS_locked (b2n (s.coding lane == 0)) lane).ev F.LANE_EVENTS_lock_lost lane
    ((s.cnt F.LANE_LOCK_LOSS_COUNT_value 1 lane).laneMatch lane false 4 s.now).setLane lane
      { s.lane lane with rxCount := 0 }
  else s

/-- A write of SECT.LANE_CFG (`which` 0), COMMA_CFG (1) or DESKEW_CFG (2) of lane `j` of a sector. -/
def State.writeIntake (s : State) (p : Path) (which i j : Nat) (v : Word) : State × Nat :=
  let r := if which = 0 then Reg.SECT_LANE_CFG else if which = 1 then Reg.SECT_COMMA_CFG else Reg.SECT_DESKEW_CFG
  let bad := which == 1 && bits v.toNat 31 28 == 0
  s.guardWrite p r i j 0 v bad (fun s =>
    let lane := 32 * i + j
    if s.laneStreamed lane then
      refuseWrite s p St.REFUSED_BUSY (fun s => s.ev F.SECT_INTAKE_EVENTS_wr_refused i)
    else
      let old := s.word r i j
      let s' := s.applyWrite p r i j 0 v
      let new := s'.word r i j
      let change := (which == 0 && bits old.toNat 31 28 != bits new.toNat 31 28) || (which == 1 && old != new)
      (if change then s'.relock lane else s', St.OK))

/-- LANE_CFG_WRITE (R224, R223). -/
def execLaneCfgWrite (p : Path) (which : Nat) (sect : BitVec 4) (j : BitVec 5) (v : Word) (s : State) :
    Host.Outcome State Fault Refusal :=
  if which < 3 then .next (s.writeIntake p which sect.toNat j.toNat v).1 else .fault .noSuchUnit

end Sys2Proof.Machine
end

