-- ==== Sys2Proof/Machine/Press.lean ====
section
/-! DEFINITION. Machine/Press.lean: pattern programs, press events, the press cache and relay (spec/13, R344 to R371).
PRESS_UNIT_SEND is in PressWire.lean, behind the FRAME streams. -/
namespace Sys2Proof.Machine

/-- A lane's press. -/
def State.prs (s : State) (l : Nat) : PressSt := Tbl.get {} s.press l

/-- Replace it. -/
def State.setPrs (s : State) (l : Nat) (x : PressSt) : State := { s with press := Tbl.set {} l x s.press }

/-! Press states (R368) and modes (R344). -/
abbrev Prs.IDLE : Nat := 0
abbrev Prs.LOADED : Nat := 1
abbrev Prs.ARMED : Nat := 2
abbrev Prs.RUNNING : Nat := 3
abbrev Prs.WAITING : Nat := 4
abbrev Prs.FROZEN : Nat := 5
abbrev Prs.DONE : Nat := 6
abbrev Prs.FAULT : Nat := 7
abbrev Mode.PROGRAM : Nat := 0
abbrev Mode.RELAY_TRANSPARENT : Nat := 1
abbrev Mode.RELAY_UNIT : Nat := 2
abbrev Mode.FRAME : Nat := 3

/-- The state of a lane's press. -/
def State.prsState (s : State) (l : Nat) : Nat := s.get F.PRS_LANE_STATUS_state l

/-- Set it. -/
def State.setPrsState (s : State) (l v : Nat) : State := s.put F.PRS_LANE_STATUS_state v l

/-- The press mode of a lane (R344). -/
def State.prsMode (s : State) (l : Nat) : Nat := s.get F.PRS_LANE_CFG_mode l

/-- The press coding of a lane (R345). -/
def State.prsCoding (s : State) (l : Nat) : Nat := s.get F.PRS_LANE_CFG_coding l

/-- The bits of a press unit of a lane (R345). -/
def State.prsWidth (s : State) (l : Nat) : Nat := unitWidth (s.prsCoding l) (s.pam4 l)

/-- ARMED, RUNNING, WAITING or FROZEN (R364). -/
def State.prsBusy (s : State) (l : Nat) : Bool := decide (2 ≤ s.prsState l) && decide (s.prsState l ≤ 5)

/-- The lane's octet is within a PLL switch (R172): one PLL has failed and the spare is not yet given up. -/
def State.octetSwitching (s : State) (l : Nat) : Bool :=
  let o := l / 8
  (s.on F.LANE_OCT_STATUS_a_failed o || s.on F.LANE_OCT_STATUS_b_failed o) && s.on F.LANE_OCT_STATUS_spare_ok o

/-! ## Pattern data (R346) -/

/-- The leaves of a pattern stream. -/
def State.patLeaves (s : State) (n : Nat) : Nat := (s.strm n).seq

/-- The length L of a pattern stream in bits. -/
def State.patLength (s : State) (n : Nat) : Nat := 32256 * s.patLeaves n

/-- One bit of a pattern stream. -/
def State.patBit (s : State) (n a : Nat) : Bool :=
  let j := a / 32256
  match (s.strm n).quires[j / 16384]? with
  | none => false
  | some q =>
    let leaf := Tbl.get {} (s.quire q).leaves (j % 16384)
    (Tbl.get 0 leaf.pat (a % 32256 / 8)).testBit (a % 8)

/-- `w` bits of a pattern stream from a bit address. -/
def State.patBits (s : State) (n a w : Nat) : Nat :=
  (upTo w).foldl (fun v i => v + b2n (s.patBit n (a + i)) * 2 ^ i) 0

/-! ## Programs (R347, R348) -/

/-- The fields of a press instruction: op [63:56], a [55:52], b [51:48], imm [47:0]. -/
structure PressInstr where
  op : Nat
  a : Nat
  b : Nat
  imm : Nat
  deriving DecidableEq, Repr

/-- Take a 64-bit word apart. -/
def pressInstr (w : Nat) : PressInstr :=
  { op := bits w 63 56, a := bits w 55 52, b := bits w 51 48, imm := bits w 47 0 }

/-- An instruction a load accepts (R347, R348, R358): its opcode is listed, the fields its row does not use are zero, no
value is reserved, and its target lies below the program's length. -/
def pressInstrOk (len w : Nat) (word : Nat) : Bool :=
  let i := pressInstr word
  let ptr := decide (i.a < 4)
  let n24 := i.imm / 2 ^ 24 == 0
  let pos := i.imm % 2 ^ 24 != 0
  let tgt := decide (i.imm % 512 < len)
  match i.op with
  | 0x00 => i.a == 0 && i.b == 0 && i.imm == 0
  | 0x01 => ptr && i.b == 0 && n24 && pos
  | 0x02 => ptr && decide (i.b < 4) && i.imm == 0
  | 0x03 => i.a == 0 && i.b == 0 && n24 && pos
  | 0x04 => ptr && i.b == 0
  | 0x05 => ptr && i.b == 0
  | 0x06 => ptr && i.b == 0 && i.imm / 2 ^ 32 == 0
  | 0x07 => ptr && i.b == 0 && i.imm / 512 == 0 && tgt
  | 0x08 => i.a == 0 && i.b == 0 && i.imm / 512 == 0 && tgt
  | 0x09 => i.a == 0 && i.b == 0
  | 0x0A => i.a == 0 && i.b == 0
  | 0x0B => i.a == 0 && i.b == 0 && i.imm == 0
  | 0x0C => i.a != 0 && decide (i.b < 2) && i.imm / 512 == 0 && (i.b == 0 && i.imm == 0 || i.b == 1 && tgt)
  | 0x0D => i.a == 0 && i.b == 0 && (i.imm / 512) % 128 == 0 && tgt
  | 0x0E => i.a == 0 && i.b == 0 && i.imm == 0
  | 0x0F => ptr && i.b == 0 && n24
  | 0x10 => i.a == 0 && i.b == 0 && decide (1 ≤ bits i.imm 47 40) && decide (bits i.imm 47 40 ≤ 64) &&
      decide (bits i.imm 39 31 < w) && bits i.imm 30 24 == 0
  | 0x11 => i.a == 0 && i.b == 0 && i.imm / 2 ^ 32 == 0
  | 0x20 => i.a == 0 && i.b == 0 && n24 && pos
  | 0x21 => i.a == 0 && i.b == 0 && n24 && pos
  | 0x22 => ptr && i.b == 0 && i.imm == 0
  | _ => false

/-- The instruction the lane's press is at: HALT at and beyond the program's length (R347). -/
def State.prsAt (s : State) (l : Nat) : PressInstr :=
  let x := s.prs l
  match x.program[x.pc]? with
  | some w => pressInstr w
  | none => { op := 0, a := 0, b := 0, imm := 0 }

/-- Run the instruction the press is at: only in RUNNING, with no output instruction on the wire and no resynchronisation
pending, and only when it is the named opcode. The effect answers the new press state; the pc has moved to the next
instruction before it. -/
def State.prsStep (s : State) (l op : Nat) (f : State → PressInstr → PressSt → State) : State :=
  let x := s.prs l
  let i := s.prsAt l
  if s.prsState l = Prs.RUNNING ∧ x.cur.isNone ∧ !x.resync ∧ i.op = op then
    let s := s.put F.PRS_LANE_STATUS_pc x.pc l
    let x := { x with pc := x.pc + 1 }
    f (s.setPrs l x) i x
  else s

/-- The lane's program enters FAULT (R365) at an address. -/
def State.pressFault (s : State) (l code at' : Nat) : State :=
  if s.prsState l = Prs.RUNNING ∨ s.prsState l = Prs.WAITING then
    let s := (s.setPrsState l Prs.FAULT).put F.PRS_LANE_STATUS_fault code l
    let s := (s.put F.PRS_LANE_STATUS_pc at' l).ev F.PRS_EVENTS_fault l
    s.setPrs l { s.prs l with cur := none, wait := none, timeWait := false }
  else s

/-- The lane's press returns to IDLE (R363): its DQ link is cleared (R463) and its registers take their reset values
(R367). -/
def State.pressReset (s : State) (l : Nat) : State :=
  let x := s.prs l
  let s := if x.loaded then
      let d := s.dq x.pressDq
      if d.consumer = 3 ∧ d.unit = l then s.setDq x.pressDq { d with consumer := 0, unit := 0 } else s
    else s
  let s := s.setPrs l {}
  let s := s.each [Reg.PRS_LANE_CFG, Reg.PRS_RELAY_CFG, Reg.PRS_CACHE_LINES, Reg.PRS_IDLE_CFG]
    (fun s r => s.setWord r (r.reset l 0 0) l)
  let s := s.each (upTo 33) (fun s j => s.setWord Reg.PRS_IDLE_PAT 0 l j)
  let s := s.each (upTo 4) (fun s j => s.each (upTo 4) (fun s k => s.setWord Reg.PRS_RELAY_MATCH 0 l j k))
  let s := (s.setPrsState l Prs.IDLE).put F.PRS_LANE_STATUS_fault 0 l
  (s.put F.PRS_EVQ_DQ_value 0 l).put F.PRS_NOTIFY_DQ_value 0 l

/-! ## Load, start, stop, freeze (R363 to R366) -/

/-- The relay source lane of a lane (R359). -/
def State.relaySource (s : State) (l : Nat) : Nat := 32 * (l / 32) + s.get F.PRS_RELAY_CFG_source l

/-- The relay settings of a lane conflict (R359, R362): rate, modulation and coding, or only the coding and not RAW. -/
def State.relayMismatch (s : State) (l : Nat) : Bool :=
  let src := s.relaySource l
  let rate := s.word Reg.LANE_MULT l != s.word Reg.LANE_MULT src ||
    s.get F.LANE_RATE_div l != s.get F.LANE_RATE_div src
  match s.prsMode l with
  | 1 => rate || s.get F.LANE_RATE_modulation l != s.get F.LANE_RATE_modulation src || s.prsCoding l != s.coding src
  | 2 => s.prsCoding l != s.coding src || s.prsCoding l == 0
  | _ => false

/-- The mode is a relay mode. -/
def isRelay (m : Nat) : Bool := m == Mode.RELAY_TRANSPARENT || m == Mode.RELAY_UNIT

/-- The lane runs a digitizer TDR or a probe that uses the press (R207, R209). -/
def State.prsTaken (s : State) (l : Nat) : Bool :=
  (s.lane l).tdrProgram || (match (s.lane l).probe with | some (k, _) => k == 1 || k == 2 | none => false)

/-- The checks every press descriptor passes on its lane (R364), in the order of R29. -/
def State.prsChecks (s : State) (d : Desc) (l : Nat) : List (Bool × Nat) :=
  [(s.get F.LANE_STATUS_holder l != d.tenant.toNat, St.REFUSED_NOT_OWNER)]

/-- PRESS_LOAD (R347, R363, R364, R463): the program's words, the entry, the pattern stream, the press DQ and the notify
DQ. The result of BAD_ARGUMENT is the first failing address. -/
def execPressLoad (d : Desc) (lane : BitVec 16) (entry : BitVec 16) (program : List (BitVec 64)) (stream : BitVec 16)
    (pressDq notifyDq : BitVec 32) (s : State) : Host.Outcome State Fault Refusal :=
  let l := lane.toNat
  let t := d.tenant.toNat
  let words := program.map (fun w => w.toNat)
  let w := s.prsWidth l
  let len := words.length
  let pq := pressDq.toNat
  let nq := notifyDq.toNat
  let firstBad := (upTo len).find? (fun i => !pressInstrOk len w ((words[i]?).getD 0))
  let relayOp := words.any (fun i => decide (0x20 ≤ (pressInstr i).op))
  let n := stream.toNat
  let cons := s.dq pq
  let badName := decide (512 ≤ l) || decide (1024 ≤ n) || decide (2 ^ 20 ≤ pq) || decide (2 ^ 20 ≤ nq)
  let badProg := !d.readFail && (firstBad.isSome || len == 0 || decide (512 < len) || decide (len ≤ entry.toNat))
  let checks : List (Bool × Nat) :=
    [(decide (l < 512) && s.get F.LANE_STATUS_holder l != t, St.REFUSED_NOT_OWNER),
     (decide (n < 1024) && (s.strmState n == Strm.IDLE || s.strmHolder n != t), St.REFUSED_NOT_OWNER),
     (decide (pq < 2 ^ 20) && s.dqHolder pq != t, St.REFUSED_NOT_OWNER),
     (decide (nq < 2 ^ 20) && s.dqHolder nq != t, St.REFUSED_NOT_OWNER),
     (isRelay (s.prsMode l) && s.get F.LANE_STATUS_holder (s.relaySource l) != t, St.REFUSED_NOT_OWNER),
     (badName || badProg, St.BAD_ARGUMENT),
     (s.get F.LANE_CTRL_loop l == 3, St.MODE_CONFLICT),
     (relayOp && s.prsMode l == Mode.PROGRAM, St.MODE_CONFLICT),
     (s.relayMismatch l, St.MODE_CONFLICT),
     (s.strmKind n != Kind.PATTERN, St.MODE_CONFLICT),
     (cons.consumer != 0 && !(cons.consumer == 3 && cons.unit == l), St.MODE_CONFLICT),
     (!s.domOn (domSector (l / 32)), St.REFUSED_POWER),
     (s.strmState n != Strm.CLOSED, St.REFUSED_NOT_READY),
     (!cons.alloc || !(s.dq nq).alloc, St.REFUSED_NOT_READY),
     (s.prsBusy l || s.prsTaken l, St.REFUSED_BUSY)]
  let failing := if !s.dead && s.boot.ready && !d.rsvSet then firstFailing checks else none
  if failing = some St.BAD_ARGUMENT then .next (s.refuse d St.BAD_ARGUMENT (firstBad.getD entry.toNat))
  else .next (s.descriptor d false false checks (fun s =>
    if d.readFail then s.readFailed d else
    let x := s.prs l
    let s := if x.loaded ∧ x.pressDq ≠ pq ∧ (s.dq x.pressDq).consumer = 3 ∧ (s.dq x.pressDq).unit = l then
        s.setDq x.pressDq { s.dq x.pressDq with consumer := 0, unit := 0 } else s
    let s := s.setDq pq { s.dq pq with consumer := 3, unit := l }
    let y : PressSt :=
      { loaded := true, program := words, entry := entry.toNat, stream := n, pressDq := pq, notifyDq := nq,
        pc := entry.toNat, evq := x.evq, due := x.due, backlog := x.backlog, wire := x.wire, lines := [],
        scramble := x.scramble, idleIx := x.idleIx }
    let s := (s.setPrs l y).setPrsState l Prs.LOADED
    let s := (s.put F.PRS_LANE_STATUS_fault 0 l).put F.PRS_LANE_STATUS_pc entry.toNat l
    ((s.put F.PRS_EVQ_DQ_value pq l).put F.PRS_NOTIFY_DQ_value nq l).ok d))

/-- The start time of PRESS_START and FRAME_START is out of range (R364): neither 0 nor 10 µs to 1 s ahead. -/
def State.badStartTime (s : State) (t : Nat) : Bool :=
  t != 0 && (decide (t < s.now + 640000) || decide (s.now + 64000000000 < t))

/-- PRESS_START (R363, R364). -/
def execPressStart (d : Desc) (lane : BitVec 16) (atTime : BitVec 64) (s : State) :
    Host.Outcome State Fault Refusal :=
  let l := lane.toNat
  let t := d.tenant.toNat
  let x := s.prs l
  let relayOp := x.program.any (fun i => decide (0x20 ≤ (pressInstr i).op))
  .next (s.descriptor d false false
    [(decide (l < 512) && s.get F.LANE_STATUS_holder l != t, St.REFUSED_NOT_OWNER),
     (x.loaded && s.strmHolder x.stream != t, St.REFUSED_NOT_OWNER),
     (x.loaded && (s.dqHolder x.pressDq != t || s.dqHolder x.notifyDq != t), St.REFUSED_NOT_OWNER),
     (isRelay (s.prsMode l) && s.get F.LANE_STATUS_holder (s.relaySource l) != t, St.REFUSED_NOT_OWNER),
     (decide (512 ≤ l) || s.badStartTime atTime.toNat, St.BAD_ARGUMENT),
     (s.get F.LANE_CTRL_loop l == 3, St.MODE_CONFLICT),
     (relayOp && s.prsMode l == Mode.PROGRAM, St.MODE_CONFLICT),
     (s.relayMismatch l, St.MODE_CONFLICT),
     (!s.domOn (domSector (l / 32)), St.REFUSED_POWER),
     (!x.loaded, St.REFUSED_NOT_READY),
     (s.get F.LANE_STATUS_state l == 0 || s.get F.LANE_STATUS_state l == 5, St.REFUSED_NOT_READY),
     (s.strmState x.stream != Strm.CLOSED, St.REFUSED_NOT_READY),
     (!(s.dq x.pressDq).alloc || !(s.dq x.notifyDq).alloc, St.REFUSED_NOT_READY),
     (s.prsBusy l || s.prsTaken l, St.REFUSED_BUSY)]
    (fun s =>
      let at' := if atTime = 0 then s.now + 640000 else atTime.toNat
      let s := s.setPrs l { x with startAt := at', cur := none, wait := none, timeWait := false, pc := x.entry }
      ((s.setPrsState l Prs.ARMED).put F.PRS_LANE_STATUS_fault 0 l).ok d))

/-- PRESS_START_TIME (R363, R364): the first boundary at or after the start time. -/
def execPressStartTime (lane : BitVec 9) (s : State) : Host.Outcome State Fault Refusal :=
  let l := lane.toNat
  if s.prsState l = Prs.ARMED then
    let x := s.prs l
    let s := s.advanceTo x.startAt
    let s := s.setPrs l { x with wire := Nat.max x.wire x.startAt, pc := x.entry }
    .next ((s.setPrsState l Prs.RUNNING).put F.PRS_LANE_STATUS_pc x.entry l)
  else .next s

/-- PRESS_STOP (R363, R364, R356): the press returns to LOADED; units not yet sent are not sent; pins are released. -/
def execPressStop (d : Desc) (lane : BitVec 16) (s : State) : Host.Outcome State Fault Refusal :=
  let l := lane.toNat
  .next (s.descriptor d false false
    [(decide (l < 512) && s.get F.LANE_STATUS_holder l != d.tenant.toNat, St.REFUSED_NOT_OWNER),
     (decide (512 ≤ l), St.BAD_ARGUMENT),
     (!s.domOn (domSector (l / 32)), St.REFUSED_POWER),
     (!(s.prs l).loaded, St.REFUSED_NOT_READY)]
    (fun s =>
      let s := if s.prsBusy l then
          let x := s.prs l
          (s.setPrs l { x with cur := none, wait := none, timeWait := false, pins := [], pc := x.entry }).setPrsState l
            Prs.LOADED
        else s
      s.ok d))

/-- A press freezes at the next unit boundary (R366). -/
def State.pressFreeze (s : State) (l : Nat) : State :=
  let st := s.prsState l
  if st = Prs.ARMED ∨ st = Prs.RUNNING ∨ st = Prs.WAITING then
    (s.setPrs l { s.prs l with before := st }).setPrsState l Prs.FROZEN
  else s

/-- The freeze ends (R366): the program goes on at the first boundary at or after 64 ns later; a relay resumes with an
empty backlog. -/
def State.pressUnfreeze (s : State) (l : Nat) : State :=
  if s.prsState l = Prs.FROZEN then
    let x := s.prs l
    let late := x.timeWait && decide (x.t ≤ s.now)
    let s := s.setPrs l { x with resumeAt := s.now + 4096, backlog := if isRelay (s.prsMode l) then [] else x.backlog,
                                 timeWait := x.timeWait && !late }
    let s := s.setPrsState l (if late then Prs.RUNNING else x.before)
    s.when late (fun s => s.ev F.PRS_EVENTS_wait_late l)
  else s

/-- PRESS_FREEZE (R366): a PRESS_FREEZE descriptor with freeze 1. -/
def execPressFreeze (d : Desc) (lane : BitVec 16) (s : State) : Host.Outcome State Fault Refusal :=
  let l := lane.toNat
  .next (s.descriptor d false false
    [(decide (l < 512) && s.get F.LANE_STATUS_holder l != d.tenant.toNat, St.REFUSED_NOT_OWNER),
     (decide (512 ≤ l), St.BAD_ARGUMENT),
     (!s.domOn (domSector (l / 32)), St.REFUSED_POWER),
     (!(s.prs l).loaded, St.REFUSED_NOT_READY)]
    (fun s => (s.pressFreeze l).ok d))

/-- PRESS_UNFREEZE (R366): a PRESS_FREEZE descriptor with freeze 0. -/
def execPressUnfreeze (d : Desc) (lane : BitVec 16) (s : State) : Host.Outcome State Fault Refusal :=
  let l := lane.toNat
  .next (s.descriptor d false false
    [(decide (l < 512) && s.get F.LANE_STATUS_holder l != d.tenant.toNat, St.REFUSED_NOT_OWNER),
     (decide (512 ≤ l), St.BAD_ARGUMENT),
     (!s.domOn (domSector (l / 32)), St.REFUSED_POWER),
     (!(s.prs l).loaded, St.REFUSED_NOT_READY)]
    (fun s => (s.pressUnfreeze l).ok d))

/-! ## Events (R351, R352) -/

/-- The order of R351: event time, then source, then arrival. -/
def insertEvent (e : PressEvent) : List PressEvent → List PressEvent
  | [] => [e]
  | h :: r =>
    if e.time < h.time ∨ (e.time = h.time ∧ e.source < h.source) then e :: h :: r else h :: insertEvent e r

/-- An event reaches a lane's event queue of 16, or is discarded (R351). -/
def State.pressQueue (s : State) (l : Nat) (e : PressEvent) : State :=
  let x := s.prs l
  if 16 ≤ x.evq.length then (s.cnt F.PRS_EVQ_DISCARDS_value 1 l).ev F.PRS_EVENTS_evq_overflow l
  else s.setPrs l { x with evq := insertEvent e x.evq }

/-- PRESS_EVENT (R351): a SOFTWARE event of the lane's holder, with E = acceptance + 160 ns. -/
def execPressEvent (d : Desc) (lane : BitVec 16) (value : BitVec 32) (s : State) : Host.Outcome State Fault Refusal :=
  let l := lane.toNat
  .next (s.descriptor d false false
    [(decide (l < 512) && s.get F.LANE_STATUS_holder l != d.tenant.toNat, St.REFUSED_NOT_OWNER),
     (decide (512 ≤ l), St.BAD_ARGUMENT),
     (!s.domOn (domSector (l / 32)), St.REFUSED_POWER)]
    (fun s => (s.pressQueue l { source := 2, value := value.toNat, time := s.now + 10240 }).ok d))

/-- The event a token of a press DQ makes (R351): its value, its payload of m units; none when it breaks the rules. -/
def pressToken (tok w now : Nat) : Option PressEvent :=
  let m := (tok / 2 ^ 32) % 2 ^ 16
  if (tok / 2 ^ 48) % 2 ^ 80 ≠ 0 ∨ 384 < m * w then none
  else some { source := 3, value := tok % 2 ^ 32, time := now + 4096, units := m, payload := (tok / 2 ^ 128) % 2 ^ 384 }

/-- PRESS_EVQ_ARRIVAL (R351): an event reaches a lane's queue: with `graph` the token at the head of its press DQ, else
the oldest SEQUENCER or LINE event on its way. -/
def execPressEvqArrival (lane : BitVec 9) (graph : Bool) (s : State) : Host.Outcome State Fault Refusal :=
  let l := lane.toNat
  let x := s.prs l
  if graph then
    match (s.dq x.pressDq).tokens with
    | [] => .next s
    | tok :: _ =>
      if !x.loaded ∨ (s.dq x.pressDq).consumer ≠ 3 ∨ (s.dq x.pressDq).unit ≠ l then .next s
      else
        let s := s.dqTake x.pressDq 1
        match pressToken tok (s.prsWidth l) s.now with
        | some e => .next (s.pressQueue l e)
        | none => .next ((s.cnt F.PRS_EVQ_DISCARDS_value 1 l).ev F.PRS_EVENTS_evq_overflow l)
  else
    match x.due with
    | [] => .next s
    | e :: r => .next ((s.setPrs l { x with due := r }).pressQueue l e)

/-! ## Cache (R354 to R356) -/

/-- The leaves a lane has pinned. -/
def PressSt.pinned (x : PressSt) : List Nat := x.pins.flatMap (fun p => p.2)

/-- PREFETCH_READ_DONE (R354, R365): a pattern leaf reaches the lane's partition; the oldest line that is not pinned
gives way. A leaf that fails authentication faults the program, or the FRAME stream that reads it (R374). -/
def execPrefetchReadDone (lane : BitVec 9) (leaf : BitVec 33) (authentic : Bool) (frame : Option (BitVec 16))
    (s : State) : Host.Outcome State Fault Refusal :=
  let l := lane.toNat
  let x := s.prs l
  if authentic then
    let cap := s.get F.PRS_CACHE_LINES_lines l
    let ls := (x.lines.filter (fun i => i != leaf.toNat)) ++ [leaf.toNat]
    let victim := ls.find? (fun i => !x.pinned.contains i)
    let ls := if cap < ls.length then (match victim with | some v => ls.erase v | none => ls.dropLast) else ls
    .next (s.setPrs l { x with lines := ls })
  else match frame with
    | some f =>
      let f := f.toNat
      if s.get F.PRS_FRM_STATUS_state f = 3 then
        .next ((s.put F.PRS_FRM_STATUS_state 5 f).put F.PRS_FRM_STATUS_fault V.PRS_FRM_STATUS_fault_INTEGRITY f)
      else .next s
    | none => .next (s.pressFault l V.PRS_LANE_STATUS_fault_INTEGRITY (s.get F.PRS_LANE_STATUS_pc l))

/-- The partitions of a sector with one lane's replaced. -/
def State.linesTotal (s : State) (l v : Nat) : Nat :=
  (upTo 32).foldl (fun a j =>
    let k := 32 * (l / 32) + j
    a + (if k = l then v else s.get F.PRS_CACHE_LINES_lines k)) 0

/-- The sector total of the lines: 256 for each press cache bank ON (R626). -/
def State.linesCap (s : State) (i : Nat) : Nat := 256 * ((upTo 4).filter (fun b => s.domOn (domPress (4 * i + b)))).length

/-- A write of PRS.CACHE_LINES (R354). -/
def State.writeCacheLines (s : State) (p : Path) (l : Nat) (v : Word) : State × Nat :=
  s.guardWrite p Reg.PRS_CACHE_LINES l 0 0 v false (fun s =>
    let n := bits v.toNat 10 0
    if s.linesCap (l / 32) < s.linesTotal l n ∨ 2 ≤ s.prsState l then
      refuseWrite s p St.REFUSED_BUSY (fun s => s.ev F.PRS_EVENTS_wr_refused l)
    else
      let s := s.applyWrite p Reg.PRS_CACHE_LINES l 0 0 v
      (s.put F.PRS_SECT_CACHE_lines_free (s.linesCap (l / 32) - s.linesTotal l n) (l / 32), St.OK))

/-- CACHE_LINES_WRITE (R354). -/
def execCacheLinesWrite (p : Path) (lane : BitVec 9) (v : Word) (s : State) : Host.Outcome State Fault Refusal :=
  .next (s.writeCacheLines p lane.toNat v).1

/-- A write of the other press configuration registers (R367): refused unless the state is IDLE or LOADED; LANE_CFG
refused while an ARMED or RUNNING FRAME stream targets the lane (R384). -/
def State.writePress (s : State) (p : Path) (r : RegDef) (l j k : Nat) (v : Word) : State × Nat :=
  let cfg := r.id == Reg.PRS_LANE_CFG.id
  let bad := (cfg && decide (8 < bits v.toNat 29 26)) ||
    (r.id == Reg.PRS_IDLE_CFG.id && (bits v.toNat 10 0 == 0 || decide (1056 / s.prsWidth l < bits v.toNat 10 0)))
  s.guardWrite p r l j k v bad (fun s =>
    let framed := cfg && s.frames.any (fun f => f.1 / 4096 == l / 32 &&
      (s.get F.PRS_FRM_STATUS_state f.1 == 2 || s.get F.PRS_FRM_STATUS_state f.1 == 3) &&
      bit (s.word Reg.PRS_FRM_TARGET f.1).toNat (l % 32))
    if 2 ≤ s.prsState l ∨ framed then
      refuseWrite s p St.REFUSED_BUSY (fun s => s.ev F.PRS_EVENTS_wr_refused l)
    else (s.applyWrite p r l j k v, St.OK))

/-! ## Instructions (R348) -/

/-- HALT (R348, R356): state DONE, pins released. -/
def execHalt (lane : BitVec 9) (s : State) : Host.Outcome State Fault Refusal :=
  let l := lane.toNat
  .next (s.prsStep l 0x00 (fun s _ x =>
    ((s.setPrs l { x with pins := [], pc := x.pc - 1 }).setPrsState l Prs.DONE).ev F.PRS_EVENTS_done l))

/-- The pointer, or counter, `i` of a press. -/
def nth4 (l : List Nat) (i : Nat) : Nat := (l[i]?).getD 0

/-- SEND (R348): n units from P[a] go onto the wire. -/
def execSend (lane : BitVec 9) (s : State) : Host.Outcome State Fault Refusal :=
  let l := lane.toNat
  .next (s.prsStep l 0x01 (fun s i x =>
    s.setPrs l { x with cur := some (.pattern i.a (nth4 x.ptr i.a) (i.imm % 2 ^ 24)) }))

/-- SENDK (R348): K[b] units from P[a]; nothing when K[b] = 0. -/
def execSendk (lane : BitVec 9) (s : State) : Host.Outcome State Fault Refusal :=
  let l := lane.toNat
  .next (s.prsStep l 0x02 (fun s i x =>
    let n := nth4 x.k i.b
    if n = 0 then s else s.setPrs l { x with cur := some (.pattern i.a (nth4 x.ptr i.a) n) }))

/-- IDLE (R348): n units of program idle. -/
def execIdle (lane : BitVec 9) (s : State) : Host.Outcome State Fault Refusal :=
  let l := lane.toNat
  .next (s.prsStep l 0x03 (fun s i x => s.setPrs l { x with cur := some (.idle (i.imm % 2 ^ 24)) }))

/-- SETP (R348). -/
def execSetp (lane : BitVec 9) (s : State) : Host.Outcome State Fault Refusal :=
  let l := lane.toNat
  .next (s.prsStep l 0x04 (fun s i x => s.setPrs l { x with ptr := listSet x.ptr i.a i.imm }))

/-- ADDP (R348): P[a] + signed imm, 48 bits. -/
def execAddp (lane : BitVec 9) (s : State) : Host.Outcome State Fault Refusal :=
  let l := lane.toNat
  .next (s.prsStep l 0x05 (fun s i x =>
    s.setPrs l { x with ptr := listSet x.ptr i.a ((nth4 x.ptr i.a + i.imm) % 2 ^ 48) }))

/-- SETK (R348). -/
def execSetk (lane : BitVec 9) (s : State) : Host.Outcome State Fault Refusal :=
  let l := lane.toNat
  .next (s.prsStep l 0x06 (fun s i x => s.setPrs l { x with k := listSet x.k i.a (i.imm % 2 ^ 32) }))

/-- LOOP (R348): while K[a] ≠ 0 decrement and jump. -/
def execLoop (lane : BitVec 9) (s : State) : Host.Outcome State Fault Refusal :=
  let l := lane.toNat
  .next (s.prsStep l 0x07 (fun s i x =>
    let n := nth4 x.k i.a
    if n = 0 then s else s.setPrs l { x with k := listSet x.k i.a (n - 1), pc := i.imm % 512 }))

/-- JUMP (R348). -/
def execJump (lane : BitVec 9) (s : State) : Host.Outcome State Fault Refusal :=
  let l := lane.toNat
  .next (s.prsStep l 0x08 (fun s i x => s.setPrs l { x with pc := i.imm % 512 }))

/-- MARKT (R348): T is the time of the next unit boundary plus signed imm. -/
def execMarkt (lane : BitVec 9) (s : State) : Host.Outcome State Fault Refusal :=
  let l := lane.toNat
  .next (s.prsStep l 0x09 (fun s i x => s.setPrs l { x with t := wrapInt 64 ((x.wire : Int) + sext 48 i.imm) }))

/-- ADDT (R348). -/
def execAddt (lane : BitVec 9) (s : State) : Host.Outcome State Fault Refusal :=
  let l := lane.toNat
  .next (s.prsStep l 0x0A (fun s i x => s.setPrs l { x with t := wrapInt 64 ((x.t : Int) + sext 48 i.imm) }))

/-- WAIT_TIME (R350): waits for the first boundary at or after T; wait_late when it is at or behind the wire. -/
def execWaitTime (lane : BitVec 9) (s : State) : Host.Outcome State Fault Refusal :=
  let l := lane.toNat
  .next (s.prsStep l 0x0B (fun s _ x =>
    if x.t ≤ x.wire then s.ev F.PRS_EVENTS_wait_late l
    else (s.setPrs l { x with timeWait := true }).setPrsState l Prs.WAITING))

/-- WAIT_TIME_RELEASE (R350): the wire position has reached T. -/
def execWaitTimeRelease (lane : BitVec 9) (s : State) : Host.Outcome State Fault Refusal :=
  let l := lane.toNat
  let x := s.prs l
  .next (if s.prsState l = Prs.WAITING ∧ x.timeWait ∧ x.t ≤ x.wire then
    (s.setPrs l { x with timeWait := false }).setPrsState l Prs.RUNNING else s)

/-- WAIT_EVENT (R352). -/
def execWaitEvent (lane : BitVec 9) (s : State) : Host.Outcome State Fault Refusal :=
  let l := lane.toNat
  .next (s.prsStep l 0x0C (fun s i x =>
    (s.setPrs l { x with wait := some (i.a, i.b == 1, i.imm % 512) }).setPrsState l Prs.WAITING))

/-- The queued event a wait takes (R352): the first of its sources, with E ≤ T under a deadline. -/
def PressSt.waited (x : PressSt) (mask : Nat) (limit : Bool) : Option PressEvent :=
  x.evq.find? (fun e => bit mask e.source && (!limit || decide (e.time ≤ x.t)))

/-- WAIT_EVENT_TAKEN (R352): a queued event is taken once the wire position has reached its E. -/
def execWaitEventTaken (lane : BitVec 9) (s : State) : Host.Outcome State Fault Refusal :=
  let l := lane.toNat
  let x := s.prs l
  match x.wait with
  | some (mask, limit, _) =>
    match x.waited mask limit with
    | some e =>
      if s.prsState l = Prs.WAITING ∧ e.time ≤ x.wire then
        .next ((s.setPrs l { x with evq := x.evq.erase e, ev := e.value, payload := (e.units, e.payload),
                                    wait := none }).setPrsState l Prs.RUNNING)
      else .next s
    | none => .next s
  | none => .next s

/-- WAIT_EVENT_TIMEOUT (R352): the wire has reached the deadline T and no event with E ≤ T is queued. -/
def execWaitEventTimeout (lane : BitVec 9) (s : State) : Host.Outcome State Fault Refusal :=
  let l := lane.toNat
  let x := s.prs l
  match x.wait with
  | some (mask, true, target) =>
    .next (if s.prsState l = Prs.WAITING ∧ x.t ≤ x.wire ∧ (x.waited mask true).isNone then
      (s.setPrs l { x with wait := none, pc := target }).setPrsState l Prs.RUNNING else s)
  | _ => .next s

/-- BRANCH_EV (R348). -/
def execBranchEv (lane : BitVec 9) (s : State) : Host.Outcome State Fault Refusal :=
  let l := lane.toNat
  .next (s.prsStep l 0x0D (fun s i x =>
    if (x.ev % 2 ^ 16) &&& bits i.imm 47 32 = bits i.imm 31 16 then s.setPrs l { x with pc := i.imm % 512 } else s))

/-- SEND_EV (R348): the payload units of the last event taken; none if it has none. -/
def execSendEv (lane : BitVec 9) (s : State) : Host.Outcome State Fault Refusal :=
  let l := lane.toNat
  .next (s.prsStep l 0x0E (fun s _ x =>
    if x.payload.1 = 0 then s else s.setPrs l { x with cur := some (.payload x.payload.2 x.payload.1) }))

/-- PRIME (R356): pin the leaves that cover n units from P[a], as many as the partition takes; n = 0 releases. -/
def execPrime (lane : BitVec 9) (s : State) : Host.Outcome State Fault Refusal :=
  let l := lane.toNat
  .next (s.prsStep l 0x0F (fun s i x =>
    let n := i.imm % 2 ^ 24
    let a := nth4 x.ptr i.a
    let lo := a / 32256
    let hi := (a + n * s.prsWidth l - 1) / 32256
    let want := if n = 0 then [] else (upTo (hi + 1 - lo)).map (fun j => lo + j)
    let others := (Tbl.set [] i.a [] x.pins)
    let used := (others.flatMap (fun p => p.2)).length
    let room := s.get F.PRS_CACHE_LINES_lines l - used
    let s := s.setPrs l { x with pins := Tbl.set [] i.a (want.take room) others }
    s.when (decide (room < want.length)) (fun s => s.ev F.PRS_EVENTS_prime_short l)))

/-- INJECT (R358): arm one injection, replacing another. -/
def execInject (lane : BitVec 9) (s : State) : Host.Outcome State Fault Refusal :=
  let l := lane.toNat
  .next (s.prsStep l 0x10 (fun s i x =>
    s.setPrs l { x with inj := some (bits i.imm 47 40, bits i.imm 39 31, i.imm % 2 ^ 24) }))

/-- SIGNAL (R353): a token to the notify DQ, from the press of the sector. -/
def execSignal (lane : BitVec 9) (s : State) : Host.Outcome State Fault Refusal :=
  let l := lane.toNat
  .next (s.prsStep l 0x11 (fun s i x =>
    let (s, ok) := s.dqPost x.notifyDq (pack [(0, i.imm % 2 ^ 32), (4, l), (8, x.wire)]) (0x510 + l / 32)
    if ok then s else (s.cnt F.PRS_NOTIFY_DISCARDS_value 1 l).ev F.PRS_EVENTS_notify_lost l)).flushTrace

/-- PASS (R348, R359): forward n received units. -/
def execPass (lane : BitVec 9) (s : State) : Host.Outcome State Fault Refusal :=
  let l := lane.toNat
  .next (s.prsStep l 0x20 (fun s i x => s.setPrs l { x with cur := some (.pass (i.imm % 2 ^ 24)) }))

/-- The backlog in bits (R371). -/
def State.backlogBits (s : State) (l : Nat) : State :=
  s.put F.PRS_RELAY_STATUS_backlog_bits ((s.prs l).backlog.length * s.prsWidth l) l

/-- DROP (R359): delete n received units, from the backlog first; the rest as they arrive. -/
def execDrop (lane : BitVec 9) (s : State) : Host.Outcome State Fault Refusal :=
  let l := lane.toNat
  .next (s.prsStep l 0x21 (fun s i x =>
    let n := i.imm % 2 ^ 24
    let rest := n - x.backlog.length
    (s.setPrs l { x with backlog := x.backlog.drop n, cur := if rest = 0 then none else some (.drop rest) }).backlogBits
      l))

/-- A matcher of R360 accepts the first 64 bits of a received unit. -/
def State.relayMatch (s : State) (l m : Nat) (units : List Nat) : Bool :=
  let w := s.prsWidth l
  let need := if s.prsCoding l = 0 then (64 + w - 1) / w else 1
  let us := units.take need
  let v := ((upTo us.length).foldl (fun a i => a + ((us[i]?).getD 0) * 2 ^ (w * i)) 0) % 2 ^ 64
  let word := fun k => (s.word Reg.PRS_RELAY_MATCH l m k).toNat
  let val := word 0 + word 1 * 2 ^ 32
  let mask := word 2 + word 3 * 2 ^ 32
  decide (us.length = need) && (v ^^^ val) &&& mask == 0

/-- A PASS_UNTIL whose next unit matches is finished (R360). -/
def State.passCheck (s : State) (l : Nat) : State :=
  let x := s.prs l
  match x.cur with
  | some (.passUntil m) => if s.relayMatch l m x.backlog then s.setPrs l { x with cur := none } else s
  | _ => s

/-- PASS_UNTIL (R360). -/
def execPassUntil (lane : BitVec 9) (s : State) : Host.Outcome State Fault Refusal :=
  let l := lane.toNat
  .next ((s.prsStep l 0x22 (fun s i x => s.setPrs l { x with cur := some (.passUntil i.a) })).passCheck l)

/-! ## Relay (R359 to R362) -/

/-- The relay source is ready: ALIGNED, or CDR_LOCKED for RAW (R360). -/
def State.relayReady (s : State) (l : Nat) : Bool :=
  let st := s.get F.LANE_STATUS_state (s.relaySource l)
  st == 4 || (st == 3 && s.coding (s.relaySource l) == 0)

/-- RELAY_UNIT_IN (R359, R366): a received unit of the relay source of a lane enters the backlog; DROP deletes it, a
freeze or a full backlog discards it. -/
def execRelayUnitIn (lane : BitVec 9) (u : BitVec 257) (s : State) : Host.Outcome State Fault Refusal :=
  let l := lane.toNat
  let x := s.prs l
  let w := s.prsWidth l
  if !isRelay (s.prsMode l) || !s.relayReady l then .next s
  else if s.prsState l = Prs.FROZEN then .next (s.cnt F.PRS_RELAY_DISCARDS_value 1 l)
  else match x.cur with
    | some (.drop n) => .next (s.setPrs l { x with cur := if n ≤ 1 then none else some (.drop (n - 1)) })
    | _ =>
      if 65536 < (x.backlog.length + 1) * w then
        .next ((s.cnt F.PRS_RELAY_DISCARDS_value 1 l).ev F.PRS_EVENTS_relay_overflow l)
      else .next (((s.setPrs l { x with backlog := x.backlog ++ [u.toNat % 2 ^ w] }).passCheck l).backlogBits l)

/-- The lanes whose relay takes a source lane. -/
def State.relayTargets (s : State) (src : Nat) : List Nat :=
  (upTo 32).map (fun j => 32 * (src / 32) + j) |>.filter (fun l => isRelay (s.prsMode l) && s.relaySource l == src)

/-- A relay source leaves its aligned state (R361): the backlogs are discarded and the programs are held. -/
def State.relayLost (s : State) (src : Nat) : State :=
  s.each (s.relayTargets src) (fun s l =>
    (s.setPrs l { s.prs l with backlog := [], cur := none, resync := true }).backlogBits l)

/-- A relay source regains it (R361): each program restarts at its entry address with B = 0. -/
def State.relayGained (s : State) (src : Nat) : State :=
  s.each (s.relayTargets src) (fun s l =>
    let x := s.prs l
    if !x.resync then s
    else
      let run := s.prsState l == Prs.RUNNING || s.prsState l == Prs.WAITING
      let s := s.setPrs l { x with resync := false, pc := x.entry, cur := none, wait := none, timeWait := false }
      let s := if run then s.setPrsState l Prs.RUNNING else s
      (s.cnt F.PRS_RELAY_RESYNCS_value 1 l).ev F.PRS_EVENTS_relay_resync l)

end Sys2Proof.Machine
end

