-- ==== Sys2Proof/Machine/Shaping.lean ====
section
/-! DEFINITION. Machine/Shaping.lean: FRAME streams, shapers and multicast (spec/14, R372 to R390). -/
namespace Sys2Proof.Machine

/-- A FRAME stream. -/
def State.frm (s : State) (f : Nat) : FrameSt := Tbl.get {} s.frames f

/-- Replace it. -/
def State.setFrm (s : State) (f : Nat) (x : FrameSt) : State := { s with frames := Tbl.set {} f x s.frames }

/-- Some FRAME stream whose status word is not the reset word satisfies a test. -/
def State.someFrame (s : State) (f : Nat → Bool) : Bool :=
  s.regs.any (fun p => decide (0x10000004 ≤ p.1) && (p.1 - 0x10000004) % 256 == 0 && f ((p.1 - 0x10000004) / 256))

/-- A FRAME stream is ARMED or RUNNING (R384). -/
def State.frameBusy (s : State) (f : Nat) : Bool :=
  s.get F.PRS_FRM_STATUS_state f == V.PRS_FRM_STATUS_state_ARMED || s.get F.PRS_FRM_STATUS_state f == V.PRS_FRM_STATUS_state_RUNNING

/-- A lane's frame state; index 512 + sector holds the sector arbiter's last grant. -/
def State.frmLane (s : State) (l : Nat) : FrameLane := Tbl.get {} s.frameLanes l

/-- Replace it. -/
def State.setFrmLane (s : State) (l : Nat) (x : FrameLane) : State :=
  { s with frameLanes := Tbl.set {} l x s.frameLanes }

/-- The state of a FRAME stream (R387). -/
def State.frmState (s : State) (f : Nat) : Nat := s.get F.PRS_FRM_STATUS_state f

/-- The lane set of a stream (R379). -/
def State.frmTarget (s : State) (f : Nat) : Nat := (s.word Reg.PRS_FRM_TARGET f).toNat

/-- The lanes of a mask in the stream's sector. -/
def frmLanes (f mask : Nat) : List Nat := (bitsOf 32 mask).map (fun j => 32 * (f / 4096) + j)

/-- The unit width of a stream's lanes. -/
def State.frmWidth (s : State) (f : Nat) : Nat := match frmLanes f (s.frmTarget f) with
  | l :: _ => s.prsWidth l
  | [] => 1

/-- A stream whose lanes are arbitrated one by one (R375 step 2): INDEPENDENT, or of a single lane. -/
def State.frmIndep (s : State) (f : Nat) : Bool :=
  s.get F.PRS_FRM_CFG_policy f == V.PRS_FRM_CFG_policy_INDEPENDENT || popCount 32 (s.frmTarget f) == 1

/-- A target lane is ready (R379). -/
def State.frmReady (s : State) (l : Nat) : Bool :=
  let st := s.get F.LANE_STATUS_state l
  st != 0 && st != 5 && s.prsMode l == Mode.FRAME && s.prsState l != Prs.FROZEN && !s.octetSwitching l

/-- The level of a shaper in 2^-16 bit (R377): full at reset. -/
def State.frmLevel (s : State) (f : Nat) : Int := (s.frm f).level.getD ((s.get F.PRS_SHP_BURST_burst f * 64 * 2 ^ 16 : Nat) : Int)

/-- Set a level, bounded below (R377), and the registers that show it (R386). -/
def State.setLevel (s : State) (f : Nat) (v : Int) : State :=
  let low : Int := -((2 ^ 55 : Nat) : Int)
  let v := if v < low then low else v
  let w := wrapInt 40 (v.fdiv ((2 ^ 16 : Nat) : Int))
  let s := s.setFrm f { s.frm f with level := some v }
  (s.put F.PRS_SHP_LEVEL_LO_value w f).put F.PRS_SHP_LEVEL_HI_value (w / 2 ^ 32) f

/-! ## Frame entries (R373, R374) -/

/-- The entry a 128-bit number spells, with the inline bits behind it. -/
def frameEntry (v : Nat) : FrameEntry :=
  { addr := v % 2 ^ 48, n := (v / 2 ^ 48) % 2 ^ 24, gap := (v / 2 ^ 72) % 2 ^ 16, notify := v.testBit 88,
    inline := v.testBit 89, tag := (v / 2 ^ 96) % 2 ^ 32, bits := (v / 2 ^ 128) % 2 ^ 384 }

/-- An entry is bad (R374). -/
def State.badEntry (s : State) (f : Nat) (v : Nat) (list : Bool) : Bool :=
  let e := frameEntry v
  let w := s.frmWidth f
  e.n == 0 || (v / 2 ^ 90) % 2 ^ 6 != 0 || (e.inline && list) || (e.inline && decide (384 < e.n * w)) ||
    (!e.inline && decide (s.patLength (s.frm f).pattern < e.addr + e.n * w))

/-- Count a bad entry. -/
def State.countBad (s : State) (f : Nat) : State := (s.cnt F.PRS_FRM_BAD_value 1 f).ev F.PRS_FRM_STATUS_bad f

/-- Read the next LIST entry as the head frame (R373); a bad entry is counted and passed. After the last repeat the list
is over. -/
def State.listNext (s : State) (f : Nat) : Nat → State
  | 0 => s
  | fuel + 1 =>
    let x := s.frm f
    if x.head.isSome || x.overrun || s.get F.PRS_FRM_CFG_source f != V.PRS_FRM_CFG_source_LIST then s
    else
      let len := s.get F.PRS_FRM_LIST_len_m1 f + 1
      let base := (s.word Reg.PRS_FRM_LIST_ADDR_LO f).toNat + s.get F.PRS_FRM_LIST_ADDR_HI_value f * 2 ^ 32
      let v := s.patBits x.pattern (base + 128 * x.listIx) 128
      let wrap := x.listIx + 1 == len
      let rep := s.get F.PRS_FRM_LIST_repeat f
      let overrun := wrap && rep != 0 && x.repeats ≤ 1
      let x' := { x with listIx := if wrap then 0 else x.listIx + 1, overrun := overrun,
                         repeats := if wrap then x.repeats - 1 else x.repeats }
      if s.badEntry f v true then ((s.setFrm f x').countBad f).listNext f fuel
      else s.setFrm f { x' with head := some (frameEntry v) }

/-- FRAME_DQ_TOKEN (R373, R374): a token of the frame DQ becomes the stream's head frame. -/
def execFrameDqToken (f : BitVec 16) (s : State) : Host.Outcome State Fault Refusal :=
  let f := f.toNat
  let x := s.frm f
  let q := s.get F.PRS_FRM_DQ_value f
  if s.frmState f = 3 ∧ s.get F.PRS_FRM_CFG_source f = V.PRS_FRM_CFG_source_DQ ∧ x.head.isNone then
    match (s.dq q).tokens with
    | [] => .next s
    | tok :: _ =>
      let s := s.dqTake q 1
      let bad := s.badEntry f tok false || ((frameEntry tok).inline && (frameEntry tok).addr != 0) ||
        (!(frameEntry tok).inline && (frameEntry tok).bits != 0)
      .next (if bad then s.countBad f else s.setFrm f { s.frm f with head := some (frameEntry tok) })
  else .next s

/-! ## Delivery (R379 to R382) -/

/-- Post a delivery token where the stream asks for one (R382). -/
def State.deliver (s : State) (f : Nat) (r : FrameRec) : State :=
  let s := s.when (r.started != 0 && r.skipped != 0) (fun s => s.cnt F.PRS_FRM_PARTIAL_value 1 f)
  if s.on F.PRS_FRM_CFG_notify_all f || r.entry.notify then
    let tok := pack [(0, r.entry.tag), (4, f), (8, r.started), (12, r.skipped), (16, r.first), (24, r.seq % 2 ^ 64),
                     (32, r.causes)]
    let (s, ok) := s.dqPost (s.get F.PRS_FRM_NOTIFY_DQ_value f) tok (0x510 + f / 4096)
    if ok then s else (s.cnt F.PRS_FRM_NOTIFY_LOST_value 1 f).ev F.PRS_FRM_STATUS_notify_lost f
  else s

/-- Replace a frame record; a frame that every target lane has started or skipped is delivered (R382). A LIST stream
whose last frame is delivered is DONE (R384). -/
def State.putFrame (s : State) (f : Nat) (r : FrameRec) : State :=
  let x := s.frm f
  let others := x.frames.filter (fun y => y.seq != r.seq)
  if (r.started ||| r.skipped) &&& s.frmTarget f = s.frmTarget f then
    let s := (s.setFrm f { x with frames := others }).deliver f r
    let x := s.frm f
    if x.overrun && x.head.isNone && x.frames.isEmpty && s.frmState f == 3 then s.put F.PRS_FRM_STATUS_state 4 f else s
  else s.setFrm f { x with frames := others ++ [r] }

/-- A lane skips a frame (R379) with a cause: 1 NOT_READY, 2 TIMEOUT, 3 LAG. -/
def State.skipLane (s : State) (f seq l cause : Nat) : State :=
  match (s.frm f).frames.find? (fun y => y.seq == seq) with
  | none => s
  | some r =>
    let j := l % 32
    if bit r.skipped j || bit r.started j then s
    else
      let s := s.cnt F.PRS_FRM_SKIPPED_value 1 l
      s.putFrame f { r with skipped := r.skipped + 2 ^ j, causes := r.causes + cause * 2 ^ (2 * j) }

/-- A lane starts a frame at a time (R375, R377): the first lane debits the shaper. -/
def State.startLane (s : State) (f seq l t : Nat) : State :=
  match (s.frm f).frames.find? (fun y => y.seq == seq) with
  | none => s
  | some r =>
    let s := if r.debited then s else
        let cost : Int := (((r.entry.n + r.entry.gap) * s.frmWidth f * 2 ^ 16 : Nat) : Int)
        let s := s.setLevel f (s.frmLevel f - cost)
        s.addPair Reg.PRS_FRM_SENT_LO Reg.PRS_FRM_SENT_HI 1 f
    let y := s.frmLane l
    let s := s.setFrmLane l { y with stream := f, entry := some r.entry, sent := 0, lastServed := f,
                                     nextSeq := Tbl.set 0 f (seq + 1) y.nextSeq }
    let s := s.cnt F.PRS_FRM_FRAMES_value 1 l
    let s := (s.put F.PRS_FRM_LANE_STATUS_stream f l).put F.PRS_FRM_LANE_STATUS_cause V.PRS_FRM_LANE_STATUS_cause_FRAME l
    s.putFrame f { r with started := r.started + 2 ^ (l % 32), debited := true,
                          first := if r.debited then Nat.min r.first t else t }

/-- Take the head frame of a stream as a frame in progress. -/
def State.takeHead (s : State) (f : Nat) : State :=
  let x := s.frm f
  match x.head with
  | none => s
  | some e => (s.setFrm f { x with head := none, seq := x.seq + 1, frames := x.frames ++ [{ seq := x.seq, entry := e }] }).listNext
      f 64

/-- The lanes an INDEPENDENT stream leaves eight frames behind skip (R381). -/
def State.lag (s : State) (f k : Nat) : State :=
  if k < 8 then s
  else s.each (frmLanes f (s.frmTarget f)) (fun s l =>
    let s := s.skipLane f (k - 8) l (if s.frmReady l then 3 else 1)
    let y := s.frmLane l
    if Tbl.get 0 y.nextSeq f ≤ k - 8 then s.setFrmLane l { y with nextSeq := Tbl.set 0 f (k - 7) y.nextSeq } else s)

/-- Round-robin order after `last`, then ascending: streams of a list by priority (R375). -/
def State.pickStream (s : State) (last : Nat) (l : List Nat) : Option Nat :=
  let best := (upTo 8).find? (fun p => l.any (fun f => s.get F.PRS_FRM_CFG_priority f == p))
  match best with
  | none => none
  | some p =>
    let c := l.filter (fun f => s.get F.PRS_FRM_CFG_priority f == p)
    match c.find? (fun f => decide (last < f)) with
    | some f => some f
    | none => c.head?

/-- The RUNNING streams of a sector, ascending. -/
def State.frmRunning (s : State) (sect : Nat) : List Nat :=
  ((s.frames.map (fun p => p.1)).filter (fun f => f / 4096 == sect && s.frmState f == 3))

/-- A lane is reserved by a grant, with the stream that holds it (R380). -/
def State.reservedBy (s : State) (l : Nat) : Option Nat :=
  (s.frmRunning (l / 32)).find? (fun f => match (s.frm f).grant with
    | some g => bit g.reserved (l % 32)
    | none => false)

/-- Close a grant when no reserved lane is left (R380). -/
def State.setGrant (s : State) (f : Nat) (g : Grant) : State :=
  s.setFrm f { s.frm f with grant := if g.reserved = 0 then none else some g }

/-- Release a lane from a grant. -/
def State.releaseLane (s : State) (f l : Nat) : State :=
  match (s.frm f).grant with
  | none => s
  | some g =>
    let m := 2 ^ (l % 32)
    let drop := fun (v : Nat) => if bit v (l % 32) then v - m else v
    let s := s.setGrant f { g with reserved := drop g.reserved, atBoundary := drop g.atBoundary }
    s.put F.PRS_FRM_LANE_STATUS_reserved_mc 0 l

/-- The sequence of the frame a grant is for. -/
def State.grantSeq (s : State) (f : Nat) : Nat := (s.frm f).seq - 1

/-- The common start of a multicast grant with the lanes `at'` at a boundary (R380): the first multiple of 64 LSB from the
grant and the last boundary on. -/
def Grant.startFrom (g : Grant) (at' t : Nat) : Option Nat :=
  match g.start with
  | some x => some x
  | none => if at' &&& g.reserved = g.reserved then some ((Nat.max t g.time + 63) / 64 * 64) else none

/-- FRAME_BOUNDARY (R375, R380, R381): a lane reaches a frame boundary at time `t` and starts a frame, waits for its
ALIGNED start, or goes on in idle. -/
def execFrameBoundary (lane : BitVec 9) (t : BitVec 64) (s : State) : Host.Outcome State Fault Refusal :=
  let l := lane.toNat
  let t := t.toNat
  let y := s.frmLane l
  let busy := match y.entry with | some e => decide (y.sent < e.n + e.gap) | none => false
  if s.prsMode l != Mode.FRAME || busy || !s.frmReady l then .next s
  else
    let s := s.setFrmLane l { y with entry := none }
    match s.reservedBy l with
    | some f =>
      match (s.frm f).grant with
      | none => .next s
      | some g =>
        let at' := if bit g.atBoundary (l % 32) then g.atBoundary else g.atBoundary + 2 ^ (l % 32)
        let s := s.setGrant f { g with atBoundary := at', start := g.startFrom at' t }
        match g.startFrom at' t with
        | some x =>
          if x ≤ t then .next ((s.startLane f (s.grantSeq f) l t).releaseLane f l)
          else .next (s.put F.PRS_FRM_LANE_STATUS_cause V.PRS_FRM_LANE_STATUS_cause_MULTICAST l)
        | none => .next (s.put F.PRS_FRM_LANE_STATUS_cause V.PRS_FRM_LANE_STATUS_cause_MULTICAST l)
    | none =>
      let mine := (s.frmRunning (l / 32)).filter (fun f => bit (s.frmTarget f) (l % 32))
      let ready := mine.filter (fun f =>
        let n := Tbl.get 0 (s.frmLane l).nextSeq f
        s.frmIndep f && ((s.frm f).frames.any (fun r => r.seq == n && r.debited) ||
          (n == (s.frm f).seq && (s.frm f).head.isSome && decide (0 ≤ s.frmLevel f))))
      match s.pickStream (s.frmLane l).lastServed ready with
      | some f =>
        let n := Tbl.get 0 (s.frmLane l).nextSeq f
        let s := if n = (s.frm f).seq then (s.takeHead f).lag f n else s
        .next (s.startLane f n l t).flushTrace
      | none =>
        let held := mine.any (fun f => (s.frm f).head.isSome && decide (s.frmLevel f < 0))
        .next (s.put F.PRS_FRM_LANE_STATUS_cause (if held then V.PRS_FRM_LANE_STATUS_cause_SHAPER
          else V.PRS_FRM_LANE_STATUS_cause_EMPTY) l)

/-- MULTICAST_TIMEOUT (R380): the reserved lanes of a stream that have not reached a frame boundary by grant +
mc_timeout_ns are released and skipped. -/
def execMulticastTimeout (f : BitVec 16) (s : State) : Host.Outcome State Fault Refusal :=
  let f := f.toNat
  match (s.frm f).grant with
  | none => .next s
  | some g =>
    let ns := s.get F.PRS_FRM_CFG_mc_timeout_ns f
    if ns = 0 ∨ s.now < g.time + 64 * ns ∨ g.start.isSome then .next s
    else
      let late := (frmLanes f g.reserved).filter (fun l => !bit g.atBoundary (l % 32))
      let s := s.each late (fun s l => (s.releaseLane f l).skipLane f (s.grantSeq f) l 2)
      match (s.frm f).grant with
      | none => .next s.flushTrace
      | some g => .next (s.setGrant f { g with start := some ((s.now + 63) / 64 * 64) }).flushTrace

/-! ## Shapers (R377, R378) -/

/-- One slot of a shaper (R378 steps 1 to 4). -/
def State.shaperSlot (s : State) (f : Nat) : State :=
  let x := s.frm f
  let lv := s.frmLevel f + ((x.rate * 65536 / 1000000 : Nat) : Int)
  let s := s.setFrm f { x with rate := s.get F.PRS_SHP_RATE_rate_kbps f }
  let lv := if s.on F.PRS_SHP_BURST_clear_debt f && decide (lv < 0) then 0 else lv
  let s := s.clr F.PRS_SHP_BURST_clear_debt f
  let cap : Int := ((s.get F.PRS_SHP_BURST_burst f * 64 * 2 ^ 16 : Nat) : Int)
  s.setLevel f (if cap < lv then cap else lv)

/-- SHAPER_SLOT (R378 to R380): a slot of a sector: each shaper accrues, and the multicast arbiter makes at most one
grant. -/
def execShaperSlot (sect : BitVec 4) (s : State) : Host.Outcome State Fault Refusal :=
  let i := sect.toNat
  let s := s.each ((s.frames.map (fun p => p.1)).filter (fun f => f / 4096 == i)) (fun s f => s.shaperSlot f)
  let gone := (s.frmRunning i).filter (fun f => (s.frm f).grant.isSome)
  let s := s.each gone (fun s f => match (s.frm f).grant with
    | some g => s.each ((frmLanes f g.reserved).filter (fun l => !s.frmReady l)) (fun s l =>
        (s.releaseLane f l).skipLane f (s.grantSeq f) l 1)
    | none => s)
  let cand := (s.frmRunning i).filter (fun f =>
    !s.frmIndep f && (s.frm f).head.isSome && decide (0 ≤ s.frmLevel f) && (s.frm f).grant.isNone &&
      (frmLanes f (s.frmTarget f)).all (fun l => !s.frmReady l || (s.reservedBy l).isNone))
  match s.pickStream (s.frmLane (512 + i)).lastServed cand with
  | none => .next s.flushTrace
  | some f =>
    let s := s.setFrmLane (512 + i) { s.frmLane (512 + i) with lastServed := f }
    let lanes := frmLanes f (s.frmTarget f)
    let ready := lanes.filter (fun l => s.frmReady l)
    let s := s.takeHead f
    let s := s.setGrant f { time := s.now, reserved := (ready.map (fun l => 2 ^ (l % 32))).foldl (· + ·) 0 }
    let s := s.each ready (fun s l => s.put F.PRS_FRM_LANE_STATUS_reserved_mc 1 l)
    let seq := s.grantSeq f
    .next (s.each (lanes.filter (fun l => !s.frmReady l)) (fun s l => s.skipLane f seq l 1)).flushTrace

/-- A stream or shaper takes part in the slots from now on. -/
def State.frmTouch (s : State) (f : Nat) : State :=
  if (s.frm f).level.isSome then s else s.setLevel f (s.frmLevel f)

/-- SHAPER_SET (R378): rate, burst or clear_debt of a shaper, taking effect in step 2 of a slot. -/
def execShaperSet (d : Desc) (f : BitVec 16) (setRate setBurst clear : Bool) (rate burst : BitVec 32) (s : State) :
    Host.Outcome State Fault Refusal :=
  let f := f.toNat
  .next (s.descriptor d false false
    [(s.get F.PRS_FRM_STATUS_holder f != d.tenant.toNat, St.REFUSED_NOT_OWNER),
     (setRate && decide (112500000 < rate.toNat), St.BAD_ARGUMENT),
     (setBurst && (decide (burst.toNat = 0) || decide (1048575 < burst.toNat)), St.BAD_ARGUMENT),
     (!s.domOn (domSector (f / 4096)), St.REFUSED_POWER)]
    (fun s =>
      let s := s.frmTouch f
      let s := s.when setRate (fun s => s.put F.PRS_SHP_RATE_rate_kbps rate.toNat f)
      let s := s.when setBurst (fun s => s.put F.PRS_SHP_BURST_burst burst.toNat f)
      (s.when clear (fun s => s.ev F.PRS_SHP_BURST_clear_debt f)).ok d))

/-- A write of a FRAME stream's registers (R386): refused while the stream is ARMED or RUNNING, for the registers R386
names. -/
def State.writeFrame (s : State) (p : Path) (r : RegDef) (f : Nat) (v : Word) : State × Nat :=
  let guarded := r.id == Reg.PRS_FRM_CFG.id || r.id == Reg.PRS_FRM_TARGET.id || r.id == Reg.PRS_FRM_LIST.id ||
    r.id == Reg.PRS_FRM_LIST_ADDR_LO.id || r.id == Reg.PRS_FRM_LIST_ADDR_HI.id
  let bad := r.id == Reg.PRS_FRM_LIST_ADDR_LO.id && v.toNat % 128 != 0
  s.guardWrite p r f 0 0 v bad (fun s =>
    if guarded ∧ (s.frmState f = 2 ∨ s.frmState f = 3) then
      refuseWrite s p St.REFUSED_BUSY (fun s => s.ev F.PRS_FRM_STATUS_wr_refused f)
    else ((s.frmTouch f).applyWrite p r f 0 0 v, St.OK))

/-- CLEAR_DEBT (R378): a write of PRS.SHP_BURST with clear_debt for the stream PRS.FRM_INDEX names; the level follows in
the next slot. -/
def execClearDebt (p : Path) (v : Word) (s : State) : Host.Outcome State Fault Refusal :=
  .next (s.writeFrame p Reg.PRS_SHP_BURST (s.get F.PRS_FRM_INDEX_stream) (v ||| 0x80000000#32)).1

/-! ## Configuration, start and stop (R384) -/

/-- The lanes of a stream differ in rate, modulation or coding, or one is not in mode FRAME. -/
def State.frmLaneConflict (s : State) (ls : List Nat) : Bool :=
  match ls with
  | [] => false
  | a :: _ => ls.any (fun l => s.prsMode l != Mode.FRAME || s.word Reg.LANE_MULT l != s.word Reg.LANE_MULT a ||
      s.get F.LANE_RATE_div l != s.get F.LANE_RATE_div a ||
      s.get F.LANE_RATE_modulation l != s.get F.LANE_RATE_modulation a || s.prsCoding l != s.prsCoding a)

/-- FRAME_CONFIG (R384): the register images of CFG, TARGET and LIST, the list address, the frame DQ, the notify DQ and
the pattern stream. -/
def execFrameConfig (d : Desc) (f : BitVec 16) (cfg target list : Word) (addr : BitVec 64)
    (frameDq notifyDq : BitVec 32) (pattern : BitVec 16) (s : State) : Host.Outcome State Fault Refusal :=
  let f := f.toNat
  let t := d.tenant.toNat
  let lanes := frmLanes f target.toNat
  let n := pattern.toNat
  let fromDq := bit cfg.toNat 31
  let fq := frameDq.toNat
  let nq := notifyDq.toNat
  .next (s.descriptor d false false
    [(s.get F.PRS_FRM_STATUS_holder f != t, St.REFUSED_NOT_OWNER),
     (lanes.any (fun l => s.get F.LANE_STATUS_holder l != t), St.REFUSED_NOT_OWNER),
     (decide (n < 1024) && (s.strmState n == Strm.IDLE || s.strmHolder n != t), St.REFUSED_NOT_OWNER),
     (decide (fq < 2 ^ 20) && s.dqHolder fq != t, St.REFUSED_NOT_OWNER),
     (decide (nq < 2 ^ 20) && s.dqHolder nq != t, St.REFUSED_NOT_OWNER),
     (decide (1024 ≤ n) || decide (2 ^ 20 ≤ fq) || decide (2 ^ 20 ≤ nq) || target == 0, St.BAD_ARGUMENT),
     (addr.toNat % 128 != 0 || decide (2 ^ 48 ≤ addr.toNat), St.BAD_ARGUMENT),
     (s.frmLaneConflict lanes || s.strmKind n != Kind.PATTERN, St.MODE_CONFLICT),
     (!s.domOn (domSector (f / 4096)), St.REFUSED_POWER),
     (!fromDq && s.strmState n != Strm.CLOSED, St.REFUSED_NOT_READY),
     (!(s.dq fq).alloc || !(s.dq nq).alloc, St.REFUSED_NOT_READY),
     (s.frmState f == 2 || s.frmState f == 3, St.REFUSED_BUSY)]
    (fun s =>
      let s := s.frmTouch f
      let s := s.setWord Reg.PRS_FRM_CFG (cfg &&& BitVec.ofNat 32 Reg.PRS_FRM_CFG.rw) f
      let s := (s.setWord Reg.PRS_FRM_TARGET target f).setWord Reg.PRS_FRM_LIST list f
      let s := s.setWord Reg.PRS_FRM_LIST_ADDR_LO (BitVec.ofNat 32 addr.toNat) f
      let s := s.put F.PRS_FRM_LIST_ADDR_HI_value (addr.toNat / 2 ^ 32) f
      let s := (s.put F.PRS_FRM_DQ_value fq f).put F.PRS_FRM_NOTIFY_DQ_value nq f
      let s := s.setFrm f { s.frm f with pattern := n, frames := [], head := none, grant := none, overrun := false }
      ((s.put F.PRS_FRM_STATUS_state 1 f).put F.PRS_FRM_STATUS_fault 0 f).ok d))

/-- FRAME_START (R384). -/
def execFrameStart (d : Desc) (f : BitVec 16) (atTime : BitVec 64) (s : State) : Host.Outcome State Fault Refusal :=
  let f := f.toNat
  let t := d.tenant.toNat
  let x := s.frm f
  let lanes := frmLanes f (s.frmTarget f)
  let st := s.frmState f
  .next (s.descriptor d false false
    [(s.get F.PRS_FRM_STATUS_holder f != t || lanes.any (fun l => s.get F.LANE_STATUS_holder l != t),
      St.REFUSED_NOT_OWNER),
     (s.badStartTime atTime.toNat, St.BAD_ARGUMENT),
     (s.frmLaneConflict lanes, St.MODE_CONFLICT),
     (!s.domOn (domSector (f / 4096)), St.REFUSED_POWER),
     (st == 0, St.REFUSED_NOT_READY),
     (s.get F.PRS_FRM_CFG_source f == V.PRS_FRM_CFG_source_LIST && s.strmState x.pattern != Strm.CLOSED,
      St.REFUSED_NOT_READY),
     (st == 2 || st == 3, St.REFUSED_BUSY)]
    (fun s =>
      let at' := if atTime = 0 then s.now + 640000 else atTime.toNat
      let s := s.setFrm f { x with startAt := at', frames := [], head := none, grant := none, overrun := false, seq := 0,
                                   listIx := 0, repeats := s.get F.PRS_FRM_LIST_repeat f }
      let s := s.each lanes (fun s l =>
        s.setFrmLane l { s.frmLane l with nextSeq := Tbl.set 0 f 0 (s.frmLane l).nextSeq })
      let s := s.setPair Reg.PRS_FRM_SENT_LO Reg.PRS_FRM_SENT_HI 0 f
      ((s.put F.PRS_FRM_STATUS_state 2 f).put F.PRS_FRM_STATUS_fault 0 f).ok d))

/-- FRAME_START_TIME (R384). -/
def execFrameStartTime (f : BitVec 16) (s : State) : Host.Outcome State Fault Refusal :=
  let f := f.toNat
  if s.frmState f = 2 then
    .next (((s.advanceTo (s.frm f).startAt).put F.PRS_FRM_STATUS_state 3 f).listNext f 64)
  else .next s

/-- End a FRAME stream's grants and frames not started. -/
def State.frmEnd (s : State) (f st : Nat) : State :=
  let s := match (s.frm f).grant with
    | some g => s.each (frmLanes f g.reserved) (fun s l => s.put F.PRS_FRM_LANE_STATUS_reserved_mc 0 l)
    | none => s
  (s.setFrm f { s.frm f with grant := none, frames := [], head := none }).put F.PRS_FRM_STATUS_state st f

/-- FRAME_STOP (R384): ARMED or RUNNING goes to LOADED; frames already started finish, frames not started are not sent. -/
def execFrameStop (d : Desc) (f : BitVec 16) (s : State) : Host.Outcome State Fault Refusal :=
  let f := f.toNat
  .next (s.descriptor d false false
    [(s.get F.PRS_FRM_STATUS_holder f != d.tenant.toNat, St.REFUSED_NOT_OWNER),
     (!s.domOn (domSector (f / 4096)), St.REFUSED_POWER)]
    (fun s =>
      let st := s.frmState f
      (if st = 2 ∨ st = 3 then s.frmEnd f 1 else s).ok d))

end Sys2Proof.Machine
end

