-- ==== Sys2Proof/Machine/PressWire.lean ====
section
/-! DEFINITION. Machine/PressWire.lean: what a lane's press sends at a wire position (R349, R355, R357, R358, R359, R375,
R376). -/
namespace Sys2Proof.Machine

/-! What a unit on the wire is: data, program idle, or an idle substitution with its cause (R357, R376). -/
abbrev Tx.DATA : Nat := 0
abbrev Tx.PROGRAM : Nat := 1
abbrev Tx.NO_PROGRAM : Nat := 2
abbrev Tx.MISS : Nat := 3
abbrev Tx.STARVED : Nat := 4
abbrev Tx.FREEZE : Nat := 5
abbrev Tx.PLL : Nat := 6
abbrev Tx.RELAY : Nat := 7
abbrev Tx.SHAPER : Nat := 8
abbrev Tx.MULTICAST : Nat := 9
abbrev Tx.EMPTY : Nat := 10

/-- Count a substitution (R357, R376). -/
def State.countIdle (s : State) (l cause : Nat) : State :=
  match cause with
  | 2 => s.cnt F.PRS_SUB_NO_PROGRAM_value 1 l
  | 3 => (s.cnt F.PRS_SUB_MISS_value 1 l).ev F.PRS_EVENTS_miss l
  | 4 => s.cnt F.PRS_SUB_STARVED_value 1 l
  | 5 => s.cnt F.PRS_SUB_FREEZE_value 1 l
  | 6 => s.cnt F.PRS_SUB_PLL_value 1 l
  | 7 => s.cnt F.PRS_SUB_RELAY_value 1 l
  | 8 => s.cnt F.PRS_SUB_SHAPER_value 1 l
  | 9 => s.cnt F.PRS_SUB_MCAST_value 1 l
  | 10 => s.cnt F.PRS_FRM_EMPTY_value 1 l
  | _ => s

/-- Unit `i` of a lane's idle pattern (R357). -/
def State.idleUnit (s : State) (l i : Nat) : Nat :=
  let w := s.prsWidth l
  let n := Nat.max 1 (s.get F.PRS_IDLE_CFG_idle_units l)
  let p := (upTo 33).foldl (fun a k => a + (s.word Reg.PRS_IDLE_PAT l k).toNat * 2 ^ (32 * k)) 0
  p / 2 ^ (w * (i % n)) % 2 ^ w

/-- The self-synchronous scrambler x^58 + x^39 + 1 over the 64 payload bits (R345): bit 0 of the register is the newest
sent bit. -/
def scrambleBits : Nat → BitVec 58 → Nat → Nat → Nat × BitVec 58
  | 0, r, _, acc => (acc, r)
  | k + 1, r, u, acc =>
    let i := 64 - (k + 1)
    let b := (u.testBit (2 + i) != r.getLsbD 57) != r.getLsbD 38
    scrambleBits k (r <<< 1 ||| (if b then 1 else 0)) u (acc + b2n b * 2 ^ (2 + i))

/-- A unit goes onto the wire of a lane at time `t` (R345, R358, R385): scrambled, injected, counted, watched by match
units and captured by a transmit monitor. `k` says that it is a K code group. -/
def State.wireOut (s : State) (l unit cause t : Nat) (k : Bool) : State :=
  let c := s.prsCoding l
  let w := s.prsWidth l
  let x := s.prs l
  let (u, sc) := if c = 3 && !isRelay (s.prsMode l) then scrambleBits 64 x.scramble unit (unit % 4) else (unit, x.scramble)
  let sub := decide (2 ≤ cause)
  let hit := match x.inj with | some (_, _, off) => off == 0 | none => false
  let (len, pos) := match x.inj with | some (a, b, _) => (a, b) | none => (0, 0)
  let fire := hit && !sub
  let m := (if fire then (2 ^ len - 1) * 2 ^ pos else 0) ^^^ (2 ^ x.carry - 1)
  let carry := (if fire then pos + len - w else 0) |>.max (x.carry - w)
  let u := (u ^^^ m) % 2 ^ w
  let inj := match x.inj with
    | some (a, b, off) => if off = 0 then none else some (a, b, off - 1)
    | none => none
  let idle := decide (1 ≤ cause)
  let dur := s.symTime l (w / s.bps l)
  let s := s.setPrs l { x with scramble := sc, inj := inj, carry := carry, wire := t + dur,
                               idleIx := if idle then x.idleIx + 1 else 0 }
  let s := s.when (hit && sub) (fun s => s.ev F.PRS_EVENTS_inj_lost l)
  let s := (s.countIdle l cause).send (.tx l u cause)
  let s := s.watchUnit l true c u t w
  s.each (s.laneMembers l true) (fun s p => s.streamUnit p.1 p.2 u t k)

/-- Idle with a cause. -/
def State.wireIdle (s : State) (l cause t : Nat) (k : Bool) : State :=
  s.wireOut l (s.idleUnit l (s.prs l).idleIx) cause t k

/-- The leaves a unit at a bit address needs are in a lane's partition (R355). -/
def PressSt.has (x : PressSt) (a w : Nat) : Bool :=
  x.lines.contains (a / 32256) && x.lines.contains ((a + w - 1) / 32256)

/-- The unit an insertion instruction sends next, with its cause, and the press after it: none when the pattern ends
there (R365). -/
def State.segUnit (s : State) (l : Nat) (g : Seg) : Option (Nat × Nat × PressSt) :=
  let x := s.prs l
  let w := s.prsWidth l
  match g with
  | .pattern p a n =>
    if s.patLength x.stream < a + w then none
    else
      let next := if n ≤ 1 then none else some (Seg.pattern p (a + w) (n - 1))
      let x' := { x with cur := next, ptr := listSet x.ptr p ((a + w) % 2 ^ 48) }
      let done := (nth4 x'.ptr p) / 32256
      let x' := { x' with pins := Tbl.set [] p ((Tbl.get [] x.pins p).filter (fun j => decide (done ≤ j))) x.pins }
      if x.has a w then some (s.patBits x.stream a w, Tx.DATA, x') else some (0, Tx.MISS, x')
  | .idle n => some (0, Tx.PROGRAM, { x with cur := if n ≤ 1 then none else some (.idle (n - 1)) })
  | .payload b n =>
    some (b % 2 ^ w, Tx.DATA, { x with cur := if n ≤ 1 then none else some (.payload (b / 2 ^ w) (n - 1)) })
  | _ => some (0, Tx.STARVED, x)

/-- A program sends at the wire position (R349, R355, R357, R365). -/
def State.sendProgram (s : State) (l t : Nat) (k : Bool) : State :=
  let x := s.prs l
  let pll := s.octetSwitching l
  if t < x.resumeAt then s.wireIdle l Tx.FREEZE t k
  else match x.cur with
  | some g =>
    match s.segUnit l g with
    | none =>
      let s := s.pressFault l V.PRS_LANE_STATUS_fault_PATTERN_END (x.pc - 1)
      s.wireIdle l (if pll then Tx.PLL else Tx.NO_PROGRAM) t k
    | some (u, cause, x') =>
      let s := s.setPrs l x'
      if pll then s.wireIdle l Tx.PLL t k
      else if cause = Tx.DATA then s.wireOut l u Tx.DATA t k
      else s.wireIdle l cause t k
  | none =>
    let st := s.prsState l
    let cause := if pll then Tx.PLL else if st = Prs.WAITING then Tx.PROGRAM
      else if st = Prs.RUNNING then Tx.STARVED else Tx.NO_PROGRAM
    s.wireIdle l cause t k

/-- The head of the backlog is forwarded (R359); idle with cause RELAY when there is none. -/
def State.forward (s : State) (l t : Nat) (k : Bool) (cur : Option Seg) : State :=
  let x := s.prs l
  match x.backlog with
  | [] => s.wireIdle l Tx.RELAY t k
  | u :: r =>
    if s.octetSwitching l then (s.setPrs l { x with backlog := r, cur := cur }).wireIdle l Tx.PLL t k
    else (((s.setPrs l { x with backlog := r, cur := cur }).wireOut l u Tx.DATA t k).passCheck l).backlogBits l

/-- A relay sends at the wire position (R359 to R362). -/
def State.sendRelay (s : State) (l t : Nat) (k : Bool) : State :=
  let x := s.prs l
  if s.prsState l = Prs.FROZEN then s.wireIdle l Tx.FREEZE t k
  else if !s.relayReady l || x.resync then s.wireIdle l Tx.RELAY t k
  else match x.cur with
    | some (.pass n) => s.forward l t k (if n ≤ 1 then none else some (.pass (n - 1)))
    | some (.passUntil m) => s.forward l t k (some (.passUntil m))
    | some (.drop _) => s.wireIdle l Tx.RELAY t k
    | some _ => s.sendProgram l t k
    | none => s.forward l t k none

/-- A FRAME lane sends at the wire position (R374, R376, R383). -/
def State.sendFrame (s : State) (l t : Nat) (k : Bool) : State :=
  let y := s.frmLane l
  let w := s.prsWidth l
  let other := fun (s : State) => s.put F.PRS_FRM_LANE_STATUS_cause V.PRS_FRM_LANE_STATUS_cause_OTHER l
  let busy := match y.entry with | some e => decide (y.sent < e.n + e.gap) | none => false
  match y.entry, busy with
  | some e, true =>
    let s := s.setFrmLane l { y with sent := y.sent + 1 }
    let x := s.frm y.stream
    if s.octetSwitching l then (other s).wireIdle l Tx.PLL t k
    else if s.frmState y.stream = 5 then (other s).wireIdle l Tx.NO_PROGRAM t k
    else if e.n ≤ y.sent then s.wireIdle l Tx.PROGRAM t k
    else if e.inline then s.wireOut l (e.bits / 2 ^ (w * y.sent) % 2 ^ w) Tx.DATA t k
    else
      let a := e.addr + y.sent * w
      let low := match frmLanes y.stream (s.frmTarget y.stream) with | m :: _ => m | [] => l
      if (s.prs low).has a w || (s.prs l).has a w then s.wireOut l (s.patBits x.pattern a w) Tx.DATA t k
      else s.wireIdle l Tx.MISS t k
  | _, _ =>
    if s.octetSwitching l then (other s).wireIdle l Tx.PLL t k
    else if s.prsState l = Prs.FROZEN then (other s).wireIdle l Tx.FREEZE t k
    else
      let c := s.get F.PRS_FRM_LANE_STATUS_cause l
      let c := if s.on F.PRS_FRM_LANE_STATUS_reserved_mc l then V.PRS_FRM_LANE_STATUS_cause_MULTICAST else c
      s.wireIdle l (if c = V.PRS_FRM_LANE_STATUS_cause_SHAPER then Tx.SHAPER
        else if c = V.PRS_FRM_LANE_STATUS_cause_MULTICAST then Tx.MULTICAST else Tx.EMPTY) t k

/-- A digitizer TDR or an exchange probe drives the lane (R207, R209): the step of TDR, or the probe's ordered sets and
pages, whose line bits the spec leaves to IEEE 802.3 and PCIe. -/
def State.sendDevice (s : State) (l t : Nat) (k : Bool) : State :=
  if (s.lane l).tdrProgram then
    let x := s.prs l
    let n := s.prsWidth l / s.bps l
    let period := s.get F.LANE_DIG_COUNT_period l 1
    let sym := fun i => if (x.tdrPos + i) % period < period / 2 then 2 ^ s.bps l - 1 else 0
    let u := (upTo n).foldl (fun a i => a + sym i * 2 ^ (s.bps l * i)) 0
    (s.setPrs l { x with tdrPos := x.tdrPos + n }).wireOut l u Tx.DATA t k
  else
    let (v, s) := s.fresh
    s.wireOut l (v % 2 ^ s.prsWidth l) Tx.DATA t k

/-- PRESS_UNIT_SEND (R349, R357): the press of a lane sends the unit at the next wire position, whose first UI leaves the
ball at `t`. A lane that drives no symbols (R176) or echoes its receiver (R184) sends none. -/
def execPressUnitSend (lane : BitVec 9) (t : BitVec 64) (k : Bool) (s : State) : Host.Outcome State Fault Refusal :=
  let l := lane.toNat
  let st := s.get F.LANE_STATUS_state l
  if st = 0 ∨ st = 5 ∨ s.get F.LANE_CTRL_loop l = 3 ∨ s.prsWidth l = 0 then .next s
  else if s.prsTaken l then .next (s.sendDevice l t.toNat k)
  else match s.prsMode l with
    | 0 => .next (if s.prsState l = Prs.FROZEN then s.wireIdle l Tx.FREEZE t.toNat k else s.sendProgram l t.toNat k)
    | 3 => .next (s.sendFrame l t.toNat k)
    | _ => .next (s.sendRelay l t.toNat k)

end Sys2Proof.Machine
end

