-- ==== Sys2Proof/Machine/Lanes.lean ====
section
/-! DEFINITION. Machine/Lanes.lean: test lanes (spec/07, R169 to R199) and their digitizers and probes (spec/08, R200 to
R218). -/
namespace Sys2Proof.Machine

/-! Lane states (R180). -/
abbrev Ln.DISABLED : Nat := 0
abbrev Ln.SIGNAL_WAIT : Nat := 1
abbrev Ln.ACQUIRING : Nat := 2
abbrev Ln.CDR_LOCKED : Nat := 3
abbrev Ln.ALIGNED : Nat := 4
abbrev Ln.UNAVAILABLE : Nat := 5

/-- The state of a lane. -/
def State.laneState (s : State) (l : Nat) : Nat := s.get F.LANE_STATUS_state l

/-- The lane is locked (R181): ALIGNED, or CDR_LOCKED for RAW. -/
def State.laneLocked (s : State) (l : Nat) : Bool :=
  s.laneState l == Ln.ALIGNED || (s.laneState l == Ln.CDR_LOCKED && s.coding l == 0)

/-! ## Acquisitions (R203 to R208) -/

/-- The acquisition of a tap. -/
def LaneSt.dig (x : LaneSt) (tap : Nat) : Option DigRun := if tap = 0 then x.dig0 else x.dig1

/-- Replace it. -/
def LaneSt.setDig (x : LaneSt) (tap : Nat) (r : Option DigRun) : LaneSt :=
  if tap = 0 then { x with dig0 := r } else { x with dig1 := r }

/-- The stream of a tap's record. -/
def State.digStream (s : State) (l tap : Nat) : Nat := s.get F.LANE_DIG_CFG_stream l tap

/-- A WAVE strip (R204): the tap, the values from the strip's first trigger on, LAST and CLIPPED. -/
def State.waveStrip (s : State) (l tap : Nat) (vals : List Int) (time : Nat) (last : Bool) : State :=
  let clip := vals.any (fun v => v == 8191 || v == -8191)
  let all := vals ++ (upTo (34 - vals.length)).map (fun _ => (-8192 : Int))
  let p := (upTo 34).foldl (fun a i => a + wrapInt 14 ((all[i]?).getD 0) * 2 ^ (14 * i)) 0
  s.place (s.digStream l tap)
    { time := time / 8 * 8, type := 7, flags := 4 * b2n last + 2 * b2n clip + tap, payload := p }

/-- The values an acquisition asks for (R202). -/
def State.digWanted (s : State) (l tap : Nat) : Nat :=
  let n := s.get F.LANE_DIG_COUNT_points_m1 l tap + 1
  if s.get F.LANE_DIG_CFG_mode l tap = V.LANE_DIG_CFG_mode_EYE then n * 2 ^ s.get F.LANE_DIG_CFG_hits l tap else n

/-- Write TDR_RESULT and TDR_RHO (R208, R216) at the end of a TDR record. -/
def State.tdrResult (s : State) (l : Nat) (r : DigRun) : State :=
  match r.found with
  | some (dp, v) =>
    let qps := dp * s.symNum l * 125 / (256 * (s.word Reg.LANE_MULT l).toNat)
    let n : Int := (r.plateauN : Int)
    let rho := if r.plateau = 0 then 0 else ((v * n - r.plateau) * 16384).tdiv r.plateau
    ((s.put F.LANE_TDR_RESULT_found 1 l).put F.LANE_TDR_RESULT_delay_qps (satNat 24 qps) l).put F.LANE_TDR_RHO_rho
      (wrapInt 16 (satInt 16 rho)) l
  | none => s.put F.LANE_TDR_RESULT_found 0 l

/-- An acquisition ends with a result (R205): the last strip carries LAST, the WAVE_RECORD event is produced, and the
descriptor completes with its status. -/
def State.digEnd (s : State) (l tap result status : Nat) : State :=
  let x := s.lane l
  match x.dig tap with
  | none => s
  | some r =>
    let s := s.when (r.begun && !r.values.isEmpty) (fun s => s.waveStrip l tap r.values r.time true)
    let x := x.setDig tap none
    let x := if tap = 0 then { x with rec0 := r.number + 1 } else { x with rec1 := r.number + 1, tdrProgram := false }
    let s := s.setLane l x
    let s := (s.put F.LANE_DIG_STATUS_running 0 l tap).put F.LANE_DIG_STATUS_result result l tap
    let s := (s.put F.LANE_DIG_STATUS_stored r.stored l tap).clr F.LANE_DIG_CFG_go l tap
    let s := s.when (result == V.LANE_DIG_STATUS_result_DONE &&
      s.get F.LANE_DIG_CFG_mode l tap == V.LANE_DIG_CFG_mode_TDR) (fun s => s.tdrResult l r)
    let s := s.when r.begun (fun s =>
      s.event (s.digStream l tap) 3 s.now (pack [(0, l), (2, r.leaf), (8, r.stored)]))
    match r.desc with
    | some d => s.complete d status r.stored
    | none => s

/-- The acquisitions of a lane that a lock loss or PLL switch ends (R205). -/
def State.digLostLock (s : State) (l : Nat) (pll : Bool) : State :=
  s.each [0, 1] (fun s tap => match (s.lane l).dig tap with
    | some r => if pll || (tap == 0 && !r.unlocked) then
        s.digEnd l tap V.LANE_DIG_STATUS_result_LOST_LOCK St.PARTIAL else s
    | none => s)

/-! ## Lane state changes (R181, R243) -/

/-- The lane-side GAP cause of a state (R234): 0 where symbols are stored. -/
def State.stateCause (s : State) (l : Nat) : Nat :=
  match s.laneState l with
  | 0 => 0x0C
  | 1 => 0x05
  | 2 => 0x06
  | 3 => if s.coding l = 0 ∨ s.on F.SECT_LANE_CFG_unaligned (l / 32) (l % 32) then 0 else 0x04
  | 5 => 0x08
  | _ => 0

/-- Remove the last 100 ns of a RAW member's collected bits (R172). -/
def State.trimBack (s : State) (n m : Nat) : State :=
  let x := s.strm n
  let y := x.member m
  let k := Nat.min y.nbits (s.symCount y.lane 6400 * s.bps y.lane)
  let keep := y.nbits - k
  s.setStrm n (x.setMember m { y with nbits := keep, bits := y.bits % 2 ^ keep,
                                      ended := y.ended - s.symTime y.lane (k / s.bps y.lane) })

/-- Move a lane to a state: the lock and its counters and events (R181), candidate sources (R55), relays of it (R361),
acquisitions (R205), match events (R258), and what its streams record (R243). -/
def State.toLaneState (s : State) (l st : Nat) : State :=
  let old := s.laneState l
  let wasLocked := s.laneLocked l
  let t := s.now
  let s := s.when (old == Ln.ALIGNED && st != Ln.ALIGNED) (fun s => s.laneMatch l false 4 t)
  let s := s.put F.LANE_STATUS_state st l
  let locked := s.laneLocked l
  let s := s.put F.LANE_STATUS_locked (b2n locked) l
  let s := s.put F.SECT_ISTATUS_aligned (b2n (st == Ln.ALIGNED)) (l / 32) (l % 32)
  let s := s.when (wasLocked && !locked) (fun s =>
    ((s.ev F.LANE_EVENTS_lock_lost l).cnt F.LANE_LOCK_LOSS_COUNT_value 1 l).relayLost l)
  let s := s.when (!wasLocked && locked) (fun s => (s.ev F.LANE_EVENTS_lock_gained l).relayGained l)
  let s := s.when (st == Ln.SIGNAL_WAIT && 2 ≤ old && old ≤ 4) (fun s => s.cnt F.LANE_SIGNAL_LOSS_COUNT_value 1 l)
  let s := s.when (decide (3 ≤ old) && decide (old ≤ 4) && (st < 3 || st == 5)) (fun s =>
    (s.sourceGone (512 + l)).digLostLock l false)
  let s := s.setLane l { s.lane l with rxCount := 0 }
  let c := s.stateCause l
  if old = Ln.ALIGNED ∧ st ≠ Ln.ALIGNED then
    let s := s.laneLost l t (if st = Ln.CDR_LOCKED then 4 else c)
    if st = Ln.UNAVAILABLE then s.each (s.laneMembers l false) (fun s p =>
      s.eventStrip p.1 p.2 Evt.UNAVAILABLE t (s.get F.LANE_STATUS_fault_cause l)) else s
  else
    s.each (s.laneMembers l false) (fun s p =>
      let s := s.when (st == Ln.UNAVAILABLE) (fun s =>
        s.eventStrip p.1 p.2 Evt.UNAVAILABLE t (s.get F.LANE_STATUS_fault_cause l))
      if c ≠ 0 then s.addCause p.1 p.2 c t
      else
        let s := s.each [4, 5, 6, 8, 0x0C] (fun s k => s.dropCause p.1 p.2 k t)
        if st = Ln.ALIGNED then
          let s := (s.endStretch p.1 p.2).closeGap p.1 p.2 t
          s.eventStrip p.1 p.2 Evt.LOCK_GAINED t 1
        else s)

/-- The transmit side of a lane stops or starts driving symbols (R176, R234 cause DISABLED of a TX_MONITOR stream). -/
def State.txDriving (s : State) (l : Nat) (on : Bool) : State :=
  let s := s.setLane l { s.lane l with txCount := 0 }
  s.each (s.laneMembers l true) (fun s p =>
    if on then s.dropCause p.1 p.2 0x0C s.now else s.addCause p.1 p.2 0x0C s.now)

/-- The pad of a lane drives symbols (R176, R184). -/
def State.drives (s : State) (l : Nat) : Bool :=
  let st := s.laneState l
  st != 0 && st != 5 && (s.get F.LANE_CTRL_loop l != 3 || decide (3 ≤ st))

/-- Move a lane to a state, with its transmit side. -/
def State.laneTo (s : State) (l st : Nat) : State :=
  let a := s.drives l
  let s := s.toLaneState l st
  let b := s.drives l
  if a = b then s else s.txDriving l b

/-- Any lane of an octet is enabled. -/
def State.octetUsed (s : State) (o : Nat) : Bool := (upTo 8).any (fun j => s.on F.LANE_CTRL_enable (8 * o + j))

/-- Record in_use of an octet (R199). -/
def State.octetInUse (s : State) (o : Nat) : State := s.put F.LANE_OCT_STATUS_in_use (b2n (s.octetUsed o)) o

/-! ## Enable and disable (R171, R185 to R187) -/

/-- The symbol rate of a lane is in range (R170). -/
def State.rateOk (s : State) (l : Nat) : Bool :=
  let m := (s.word Reg.LANE_MULT l).toNat
  let d := 2 ^ s.get F.LANE_RATE_div l
  let low := if s.pam4 l then 25 * 2 ^ 24 * d else 5 * 2 ^ 23 * d
  decide (low ≤ m) && decide (2 * m ≤ 225 * 2 ^ 24 * d)

/-- An enable's mult or ssc conflicts with the octet setting (R171). -/
def State.octetConflict (s : State) (l : Nat) : Bool :=
  let o := l / 8
  (s.octetUsed o || s.on F.LANE_OCT_STATUS_retuning o) &&
    (s.word Reg.LANE_MULT l != s.word Reg.LANE_OCT_MULT o || s.get F.LANE_RATE_ssc l != s.get F.LANE_OCT_STATUS_ssc o)

/-- Load the octet setting from a lane while no lane of the octet is enabled (R171): the PLL retunes where it differs. -/
def State.loadOctet (s : State) (l : Nat) : State :=
  let o := l / 8
  if s.octetUsed o || s.on F.LANE_OCT_STATUS_retuning o then s
  else if s.word Reg.LANE_MULT l = s.word Reg.LANE_OCT_MULT o ∧ s.get F.LANE_RATE_ssc l = s.get F.LANE_OCT_STATUS_ssc o then s
  else
    let s := s.setWord Reg.LANE_OCT_MULT (s.word Reg.LANE_MULT l) o
    (s.put F.LANE_OCT_STATUS_ssc (s.get F.LANE_RATE_ssc l) o).ev F.LANE_OCT_STATUS_retuning o

/-- A lane goes to its first state after an accepted enable (R181). -/
def State.enterLane (s : State) (l : Nat) : State :=
  let o := l / 8
  let loop := s.get F.LANE_CTRL_loop l
  let tuned := !s.on F.LANE_OCT_STATUS_retuning o
  let s := s.put F.LANE_STATUS_octet_pll (s.get F.LANE_OCT_STATUS_running o) l
  let s := s.put F.LANE_STATUS_signal_detect (b2n (tuned && (loop == 1 || loop == 2))) l
  let s := s.clr F.LANE_STATUS_adapt_done l
  s.laneTo l (if loop = 2 ∧ tuned then Ln.CDR_LOCKED else Ln.SIGNAL_WAIT)

/-- Disable a lane (R181, R205, R365). -/
def State.disableLane (s : State) (l : Nat) : State :=
  let s := s.put F.LANE_CTRL_enable 0 l
  let s := s.each [0, 1] (fun s tap => s.digEnd l tap V.LANE_DIG_STATUS_result_ABORTED St.PARTIAL)
  let s := s.pressFault l V.PRS_LANE_STATUS_fault_LANE_LOST (s.get F.PRS_LANE_STATUS_pc l)
  let s := s.setLane l { s.lane l with pendingEnable := false }
  let s := if s.laneState l = Ln.UNAVAILABLE then s else
    ((s.laneTo l Ln.DISABLED).clr F.LANE_STATUS_signal_detect l).clr F.LANE_STATUS_adapt_done l
  s.octetInUse (l / 8)

/-- A refused lane write (R186). -/
def State.laneRefuse (s : State) (p : Path) (l cause st : Nat) : State × Nat :=
  refuseWrite s p st (fun s => (s.ev F.LANE_EVENTS_enable_refused l).put F.LANE_EVENTS_refuse_cause cause l)

/-- A write of LANE.CTRL (R186, R187, R192). -/
def State.writeLaneCtrl (s : State) (p : Path) (l : Nat) (v : Word) : State × Nat :=
  s.guardWrite p Reg.LANE_CTRL l 0 0 v false (fun s =>
    let en := bit v.toNat 31
    let was := s.on F.LANE_CTRL_enable l
    let old := s.word Reg.LANE_CTRL l
    let change := bits v.toNat 27 26 != bits old.toNat 27 26 || bits v.toNat 23 22 != bits old.toNat 23 22
    if was && en && change then s.laneRefuse p l 5 St.REFUSED_BUSY
    else if was && en then (s, St.OK)
    else if was then
      if s.get F.CLK_STATUS_active_source = 512 + l then s.laneRefuse p l 6 St.REFUSED_BUSY
      else ((s.disableLane l).applyWrite p Reg.LANE_CTRL l 0 0 v, St.OK)
    else if !en then (s.applyWrite p Reg.LANE_CTRL l 0 0 v, St.OK)
    else if !s.rateOk l then s.laneRefuse p l 1 St.BAD_ARGUMENT
    else if s.octetConflict l then s.laneRefuse p l 2 St.MODE_CONFLICT
    else if s.laneState l = Ln.UNAVAILABLE then s.laneRefuse p l 4 St.REFUSED_NOT_READY
    else
      let s := (s.loadOctet l).applyWrite p Reg.LANE_CTRL l 0 0 v
      let s := s.octetInUse (l / 8)
      let probing := match (s.lane l).probe with | some (k, _) => k == 0 | none => false
      (if probing then s.setLane l { s.lane l with pendingEnable := true } else s.enterLane l, St.OK))

/-- LANE_ENABLE (R186): a write of LANE.CTRL with enable set. -/
def execLaneEnable (p : Path) (lane : BitVec 9) (v : Word) (s : State) : Host.Outcome State Fault Refusal :=
  .next (s.writeLaneCtrl p lane.toNat (v ||| 0x80000000#32)).1

/-- LANE_DISABLE (R186): a write of LANE.CTRL with enable clear. -/
def execLaneDisable (p : Path) (lane : BitVec 9) (v : Word) (s : State) : Host.Outcome State Fault Refusal :=
  .next (s.writeLaneCtrl p lane.toNat (v &&& 0x7FFFFFFF#32)).1

/-- A write of LANE.RATE or LANE.MULT (R186 cause ENABLED, R194). -/
def State.writeLaneRate (s : State) (p : Path) (r : RegDef) (l : Nat) (v : Word) : State × Nat :=
  let bad := r.id == Reg.LANE_MULT.id && (decide (v.toNat < 0x38400000) || decide (0x70800000 < v.toNat))
  s.guardWrite p r l 0 0 v bad (fun s =>
    if s.on F.LANE_CTRL_enable l ∧ (v &&& BitVec.ofNat 32 r.rw) ≠ s.word r l then s.laneRefuse p l 5 St.REFUSED_BUSY
    else (s.applyWrite p r l 0 0 v, St.OK))

/-- OCTET_RETUNE_DONE (R171, R181). -/
def execOctetRetuneDone (o : BitVec 6) (s : State) : Host.Outcome State Fault Refusal :=
  let o := o.toNat
  if !s.on F.LANE_OCT_STATUS_retuning o then .next s
  else
    let s := s.clr F.LANE_OCT_STATUS_retuning o
    .next (s.each (upTo 8) (fun s j =>
      let l := 8 * o + j
      let loop := s.get F.LANE_CTRL_loop l
      if s.laneState l != Ln.SIGNAL_WAIT then s
      else
        let s := s.put F.LANE_STATUS_signal_detect (b2n (loop == 1 || loop == 2)) l
        if loop = 2 then s.laneTo l Ln.CDR_LOCKED else s))

/-! ## Octet PLLs and faults (R172, R173, R188) -/

/-- A lane becomes UNAVAILABLE (R188, R60, R187). -/
def State.laneUnavailable (s : State) (l cause : Nat) : State :=
  if s.laneState l = Ln.UNAVAILABLE then s
  else
    let s := s.put F.LANE_STATUS_fault_cause cause l
    let s := s.each [0, 1] (fun s tap => s.digEnd l tap V.LANE_DIG_STATUS_result_UNAVAILABLE St.ABORTED_FAULT)
    let s := s.pressFault l V.PRS_LANE_STATUS_fault_LANE_LOST (s.get F.PRS_LANE_STATUS_pc l)
    let s := (s.clr F.LANE_CTRL_enable l).laneTo l Ln.UNAVAILABLE
    let s := (s.clr F.LANE_STATUS_signal_detect l).clr F.LANE_STATUS_adapt_done l
    let s := s.sourceGone (512 + l)
    let s := s.when (s.get F.CLK_STATUS_active_source == 512 + l) (fun s => s.activeLost)
    ((s.ev F.LANE_EVENTS_unavailable l).log 0xA0 3 l [cause]).octetInUse (l / 8)

/-- OCTET_PLL_FAILURE (R172, R173, R600 class F4): the octet moves to the spare, or its lanes become UNAVAILABLE. -/
def execOctetPllFailure (o : BitVec 6) (s : State) : Host.Outcome State Fault Refusal :=
  let o := o.toNat
  let run := s.get F.LANE_OCT_STATUS_running o
  let failed := if run = 0 then F.LANE_OCT_STATUS_a_failed else F.LANE_OCT_STATUS_b_failed
  if s.on F.LANE_OCT_STATUS_spare_ok o && !(s.on F.LANE_OCT_STATUS_a_failed o || s.on F.LANE_OCT_STATUS_b_failed o) then
    let s := (s.ev failed o).put F.LANE_OCT_STATUS_running (1 - run) o
    let s := (s.cnt F.LANE_OCT_SWITCH_COUNT_value 1 o).clr F.LANE_OCT_STATUS_retuning o
    let s := (s.fault 4 false).log 0x30 2 o [run]
    .next (s.each (upTo 8) (fun s j =>
      let l := 8 * o + j
      let s := s.put F.LANE_STATUS_octet_pll (1 - run) l
      if !s.on F.LANE_CTRL_enable l then s
      else
        let s := (s.ev F.LANE_EVENTS_pll_switched l).digLostLock l true
        s.each (s.laneMembers l false) (fun s p =>
          let s := if s.coding l = 0 then (s.trimBack p.1 p.2).addCause p.1 p.2 7 s.now else s
          s.eventStrip p.1 p.2 Evt.PLL_SWITCH s.now (1 - run))))
  else
    let s := (s.ev failed o).put F.LANE_OCT_STATUS_spare_ok 0 o
    let s := (s.fault 4 true).log 0x32 3 o [run]
    .next (s.each (upTo 8) (fun s j => s.laneUnavailable (8 * o + j) V.LANE_STATUS_fault_cause_OCTET_PLL))

/-- OCTET_SWITCH_COMPLETE (R172): the failed PLL is powered down; RAW lanes store again. -/
def execOctetSwitchComplete (o : BitVec 6) (s : State) : Host.Outcome State Fault Refusal :=
  let o := o.toNat
  if s.octetSwitching (8 * o) then
    let s := s.clr F.LANE_OCT_STATUS_spare_ok o
    .next (s.each (upTo 8) (fun s j =>
      s.each (s.laneMembers (8 * o + j) false) (fun s p => s.dropCause p.1 p.2 7 s.now)))
  else .next s

/-- SPARE_PLL_FAILURE (R172): the spare fails while not running. -/
def execSparePllFailure (o : BitVec 6) (s : State) : Host.Outcome State Fault Refusal :=
  let o := o.toNat
  if s.on F.LANE_OCT_STATUS_spare_ok o ∧ !s.octetSwitching (8 * o) then
    let spare := 1 - s.get F.LANE_OCT_STATUS_running o
    let s := s.ev (if spare = 0 then F.LANE_OCT_STATUS_a_failed else F.LANE_OCT_STATUS_b_failed) o
    .next ((s.clr F.LANE_OCT_STATUS_spare_ok o).log 0x31 2 o [spare])
  else .next s

/-- LANE_ANALOGUE_FAULT (R188): cause 2 to 5 of fault_cause. -/
def execLaneAnalogueFault (lane : BitVec 9) (cause : Nat) (s : State) : Host.Outcome State Fault Refusal :=
  if 2 ≤ cause ∧ cause ≤ 5 then
    let s' := s.laneUnavailable lane.toNat cause
    .next (if s.on F.LANE_CTRL_enable lane.toNat ∨ s.laneState lane.toNat ≠ Ln.UNAVAILABLE then s' else s)
  else .fault .noSuchUnit

/-! ## Transmitter and receiver settings (R174, R175, R178, R179) -/

/-- A write of LANE.TX_FIR (R174, R175): queued for a symbol boundary on an enabled lane, at once otherwise. -/
def State.writeTxFir (s : State) (p : Path) (l : Nat) (v : Word) : State × Nat :=
  let bad := decide (63 < bits v.toNat 3 0 + bits v.toNat 13 8 + bits v.toNat 20 16)
  s.guardWrite p Reg.LANE_TX_FIR l 0 0 v bad (fun s =>
    let s := s.applyWrite p Reg.LANE_TX_FIR l 0 0 v
    (if s.on F.LANE_CTRL_enable l then s else s.setLane l { s.lane l with fir := s.word Reg.LANE_TX_FIR l }, St.OK))

/-- TX_FIR_WRITE (R175). -/
def execTxFirWrite (p : Path) (lane : BitVec 9) (v : Word) (s : State) : Host.Outcome State Fault Refusal :=
  .next (s.writeTxFir p lane.toNat v).1

/-- TX_FIR_APPLY (R175): the written taps take effect at a symbol boundary. -/
def execTxFirApply (lane : BitVec 9) (s : State) : Host.Outcome State Fault Refusal :=
  .next (s.setLane lane.toNat { s.lane lane.toNat with fir := s.word Reg.LANE_TX_FIR lane.toNat })

/-- The range of a coefficient (R178): none for a reserved index. -/
def coefRange (sel : Nat) : Option (Int × Int) :=
  if sel = 0 then some (0, 20)
  else if sel = 3 then some (0, 255)
  else if sel ≤ 7 then some (-256, 255)
  else if sel ≤ 19 then some (-128, 127)
  else none

/-- A coefficient the receiver adapts to: a free value within its range (R178, R179). -/
def State.freeCoef (s : State) (sel : Nat) : Int × State :=
  let (v, s) := s.fresh
  match coefRange sel with
  | some (a, b) => (a + ((v : Int) % (b - a + 1)), s)
  | none => (0, s)

/-- Every coefficient takes its present value as adaptation stops (R179). -/
def State.holdCoefs (s : State) (l : Nat) : State :=
  s.each (upTo 20) (fun s i =>
    let (v, s) := s.freeCoef i
    s.setLane l { s.lane l with coef := Tbl.set 0 i v (s.lane l).coef })

/-- A write of LANE.RX_COEF (R178, R179). -/
def State.writeRxCoef (s : State) (p : Path) (l : Nat) (v : Word) : State × Nat :=
  let sel := bits v.toNat 31 27
  let val := sext 16 v.toNat
  let bad := match coefRange sel with | some (a, b) => decide (val < a) || decide (b < val) | none => true
  s.guardWrite p Reg.LANE_RX_COEF l 0 0 v bad (fun s =>
    let s := s.put F.LANE_RX_COEF_sel sel l
    if s.get F.LANE_RX_EQ_mode l = V.LANE_RX_EQ_mode_FIXED then
      let s := s.put F.LANE_RX_COEF_value v.toNat l
      (s.setLane l { s.lane l with coef := Tbl.set 0 sel val (s.lane l).coef }, St.OK)
    else (s.lostWrite (Reg.LANE_RX_COEF.addr l 0 0) p, St.OK))

/-- RX_COEF_WRITE (R179). -/
def execRxCoefWrite (p : Path) (lane : BitVec 9) (v : Word) (s : State) : Host.Outcome State Fault Refusal :=
  .next (s.writeRxCoef p lane.toNat v).1

/-- A write of LANE.RX_EQ (R179): a change of mode keeps the present coefficients. -/
def State.writeRxEq (s : State) (p : Path) (l : Nat) (v : Word) : State × Nat :=
  s.guardWrite p Reg.LANE_RX_EQ l 0 0 v false (fun s =>
    let old := s.get F.LANE_RX_EQ_mode l
    let s := s.applyWrite p Reg.LANE_RX_EQ l 0 0 v
    let new := s.get F.LANE_RX_EQ_mode l
    (if old = V.LANE_RX_EQ_mode_ADAPT ∧ new ≠ V.LANE_RX_EQ_mode_ADAPT then s.holdCoefs l else s, St.OK))

/-- RX_EQ_MODE_WRITE (R179). -/
def execRxEqModeWrite (p : Path) (lane : BitVec 9) (v : Word) (s : State) : Host.Outcome State Fault Refusal :=
  .next (s.writeRxEq p lane.toNat v).1

/-! ## Lock (R181, R182) -/

/-- SIGNAL_DETECTED (R181): after any retune, signal detect has held for 1 µs. -/
def execSignalDetected (lane : BitVec 9) (s : State) : Host.Outcome State Fault Refusal :=
  let l := lane.toNat
  if s.laneState l = Ln.SIGNAL_WAIT ∧ !s.on F.LANE_OCT_STATUS_retuning (l / 8) then
    .next ((s.ev F.LANE_STATUS_signal_detect l).laneTo l Ln.ACQUIRING)
  else .next s

/-- CDR_LOCK_ACQUIRED (R181). -/
def execCdrLockAcquired (lane : BitVec 9) (s : State) : Host.Outcome State Fault Refusal :=
  let l := lane.toNat
  if s.laneState l = Ln.ACQUIRING then .next ((s.ev F.LANE_STATUS_adapt_done l).laneTo l Ln.CDR_LOCKED) else .next s

/-- CODING_LOCK_GAINED (R181, R182, R221): `history` is the 58 received payload bits before the first block stored, which
synchronise the descrambler. -/
def execCodingLockGained (lane : BitVec 9) (history : BitVec 58) (s : State) : Host.Outcome State Fault Refusal :=
  let l := lane.toNat
  if s.laneState l = Ln.CDR_LOCKED ∧ s.coding l ≠ 0 then
    let s := s.laneTo l Ln.ALIGNED
    let s := s.setLane l { s.lane l with scramble := history }
    .next (s.laneMatch l false 5 s.now)
  else .next s

/-- CODING_LOCK_LOST (R181, R182): the aligner searches again. -/
def execCodingLockLost (lane : BitVec 9) (s : State) : Host.Outcome State Fault Refusal :=
  let l := lane.toNat
  if s.laneState l = Ln.ALIGNED then .next (s.laneTo l Ln.CDR_LOCKED) else .next s

/-- CDR_LOCK_LOST (R181). -/
def execCdrLockLost (lane : BitVec 9) (s : State) : Host.Outcome State Fault Refusal :=
  let l := lane.toNat
  if s.laneState l = Ln.CDR_LOCKED ∨ s.laneState l = Ln.ALIGNED then .next (s.laneTo l Ln.ACQUIRING) else .next s

/-- SIGNAL_LOSS (R181): signal detect absent for 1 µs, not in NES or NEP. -/
def execSignalLoss (lane : BitVec 9) (s : State) : Host.Outcome State Fault Refusal :=
  let l := lane.toNat
  let st := s.laneState l
  let loop := s.get F.LANE_CTRL_loop l
  if 2 ≤ st ∧ st ≤ 4 ∧ loop ≠ 1 ∧ loop ≠ 2 then
    .next (((s.clr F.LANE_STATUS_signal_detect l).ev F.LANE_EVENTS_signal_lost l).laneTo l Ln.SIGNAL_WAIT)
  else .next s

/-! ## Digitizers (R200 to R208) -/

/-- A refused acquisition start (R206). -/
def State.digRefuse (s : State) (p : Path) (l tap st : Nat) : State × Nat :=
  let s := (s.put F.LANE_DIG_STATUS_result V.LANE_DIG_STATUS_result_REFUSED l tap).clr F.LANE_DIG_CFG_go l tap
  match p with
  | .descriptor _ => (s, st)
  | _ => (s, st)

/-- Start an acquisition from the registers of a tap (R206), or refuse it. -/
def State.digStart (s : State) (p : Path) (l tap : Nat) (d : Option Desc) : State × Nat :=
  let n := s.digStream l tap
  let mode := s.get F.LANE_DIG_CFG_mode l tap
  let tdr := mode == V.LANE_DIG_CFG_mode_TDR
  let period := s.get F.LANE_DIG_COUNT_period l tap
  let st := s.laneState l
  let locked := st == Ln.CDR_LOCKED || st == Ln.ALIGNED
  let patternTrig := s.get F.LANE_DIG_CFG_trigger l tap == V.LANE_DIG_CFG_trigger_PATTERN
  let holder := s.get F.LANE_STATUS_holder l
  let sst := s.strmState n
  let pst := s.prsState l
  let running := pst == 2 || pst == 3 || pst == 4 || pst == 5 || isRelay (s.prsMode l)
  let checks : List (Bool × Nat) :=
    [(sst == Strm.IDLE || s.strmHolder n != holder, St.REFUSED_NOT_OWNER),
     (decide (16777215 < s.digWanted l tap), St.BAD_ARGUMENT),
     (tdr && period % 2 == 1, St.BAD_ARGUMENT),
     (s.strmKind n != Kind.DIGITIZER, St.MODE_CONFLICT),
     (tdr && (running || s.get F.LANE_CTRL_loop l != 0), St.MODE_CONFLICT),
     (!s.domOn (domSector (l / 32)), St.REFUSED_POWER),
     (!s.strmActive n, St.REFUSED_NOT_READY),
     (st == Ln.DISABLED || st == Ln.UNAVAILABLE, St.REFUSED_NOT_READY),
     (tap == 0 && patternTrig && !locked, St.REFUSED_NOT_READY),
     (((s.lane l).dig tap).isSome, St.REFUSED_BUSY),
     (tap == 1 && (s.lane l).probe.isSome, St.REFUSED_BUSY)]
  match firstFailing checks with
  | some c => s.digRefuse p l tap c
  | none =>
    let x := s.lane l
    let r : DigRun := { unlocked := tap == 0 && !locked, desc := d, number := if tap = 0 then x.rec0 else x.rec1 }
    let s := s.setLane l { x.setDig tap (some r) with tdrProgram := x.tdrProgram || tdr }
    let s := (s.ev F.LANE_DIG_STATUS_running l tap).put F.LANE_DIG_STATUS_result 0 l tap
    ((s.put F.LANE_DIG_STATUS_stored 0 l tap).ev F.LANE_DIG_CFG_go l tap, St.OK)

/-- End the running acquisition of a tap by its abort bit (R205). -/
def State.digAbort (s : State) (l tap : Nat) : State :=
  (s.digEnd l tap V.LANE_DIG_STATUS_result_ABORTED St.PARTIAL).clr F.LANE_DIG_CFG_abort l tap

/-- A write of LANE.DIG_CFG (R206, R213): go starts, abort ends. -/
def State.writeDigCfg (s : State) (p : Path) (l tap : Nat) (v : Word) : State × Nat :=
  let bad := tap == 0 && bits v.toNat 29 28 == V.LANE_DIG_CFG_mode_TDR
  s.guardWrite p Reg.LANE_DIG_CFG l tap 0 v bad (fun s =>
    let v' := v &&& 0x3FFFFFFF#32
    let s := if ((s.lane l).dig tap).isSome then s else s.applyWrite p Reg.LANE_DIG_CFG l tap 0 v'
    if bit v.toNat 30 then (s.digAbort l tap, St.OK)
    else if bit v.toNat 31 then s.digStart p l tap none
    else (s, St.OK))

/-- DIG_ACQUIRE (R206): by a descriptor with the images of DIG_CFG, DIG_SPAN and DIG_COUNT, or by go in a write of
LANE.DIG_CFG on a path. -/
def execDigAcquire (src : Desc ⊕ Path) (lane : BitVec 16) (tap : BitVec 8) (cfg span count : Word) (s : State) :
    Host.Outcome State Fault Refusal :=
  let l := lane.toNat
  let t := tap.toNat
  match src with
  | .inr p => if l < 512 ∧ t < 2 then .next (s.writeDigCfg p l t (cfg ||| 0x80000000#32)).1 else .fault .noSuchUnit
  | .inl d =>
    let bad := decide (512 ≤ l) || decide (1 < t) || Reg.LANE_DIG_CFG.badValue cfg.toNat ||
      Reg.LANE_DIG_SPAN.badValue span.toNat || Reg.LANE_DIG_COUNT.badValue count.toNat ||
      (t == 0 && bits cfg.toNat 29 28 == V.LANE_DIG_CFG_mode_TDR)
    .next (s.descriptor d false false
      [(decide (l < 512) && s.get F.LANE_STATUS_holder l != d.tenant.toNat, St.REFUSED_NOT_OWNER),
       (bad, St.BAD_ARGUMENT)]
      (fun s =>
        let s' := s.setWord Reg.LANE_DIG_CFG (cfg &&& BitVec.ofNat 32 Reg.LANE_DIG_CFG.rw) l t
        let s' := (s'.setWord Reg.LANE_DIG_SPAN span l t).setWord Reg.LANE_DIG_COUNT count l t
        let busy := ((s.lane l).dig t).isSome
        let (r, st) := (if busy then s else s').digStart (.descriptor d.tenant) l t (some d)
        if st = St.OK then r
        else ((s.put F.LANE_DIG_STATUS_result V.LANE_DIG_STATUS_result_REFUSED l t).refuse d st)))

/-- A point's value is stored (R202, R204, R208). -/
def State.digStore (s : State) (l tap : Nat) (v : Int) (t : Nat) : State :=
  let x := s.lane l
  match x.dig tap with
  | none => s
  | some r =>
    let full := decide (r.values.length = 34)
    let s := s.when full (fun s => s.waveStrip l tap r.values r.time false)
    let dp := s.get F.LANE_DIG_SPAN_start l tap + r.point * s.get F.LANE_DIG_SPAN_step l tap
    let tdr := s.get F.LANE_DIG_CFG_mode l tap == V.LANE_DIG_CFG_mode_TDR
    let inPlateau := tdr && decide (256 ≤ dp) && decide (dp ≤ 1024)
    let thr : Int := (s.get F.LANE_PROBE_CTRL_tdr_threshold l : Int)
    let n : Int := (r.plateauN : Int)
    let off := tdr && decide (1024 < dp) && decide (thr * (r.plateau.natAbs : Int) < ((v * n - r.plateau).natAbs : Int) * 256)
    let r' : DigRun :=
      { r with values := if full then [v] else r.values ++ [v], time := if full || r.values.isEmpty then t else r.time,
               stored := r.stored + 1, sum := 0, count := 0
               plateau := if inPlateau then r.plateau + v else r.plateau
               plateauN := if inPlateau then r.plateauN + 1 else r.plateauN
               found := if off && r.found.isNone then some (dp, v) else r.found }
    (s.setLane l ((s.lane l).setDig tap (some r'))).put F.LANE_DIG_STATUS_stored (r.stored + 1) l tap

/-- The descriptor strip of a record (R204), written at its first trigger. -/
def State.digHeader (s : State) (l tap t : Nat) : State :=
  let n := s.digStream l tap
  match (s.lane l).dig tap with
  | none => s
  | some r =>
    let s := match (s.strm n).leaf with
      | some lf => if lf.strips.isEmpty then s else s.closeLeaf n false false
      | none => s
    let s := s.ensureLeaf n false
    let x := s.strm n
    let leaf := match x.leaf, x.cur with | some lf, some q => q * 16384 + lf.index | _, _ => 0
    let cfg := (s.word Reg.LANE_DIG_CFG l tap).toNat
    let b6 := bits cfg 29 28 + 4 * tap + 8 * bits cfg 27 26 + 32 * bits cfg 25 24 + 128 * bits cfg 23 23
    let kbd := 500000 * (s.word Reg.LANE_MULT l).toNat / (2 ^ 24 * 2 ^ s.get F.LANE_RATE_div l)
    let p := pack [(0, r.number % 2 ^ 32), (4, l), (6, b6), (7, bits cfg 19 16),
      (8, s.get F.LANE_DIG_SPAN_start l tap), (10, s.get F.LANE_DIG_SPAN_step l tap),
      (12, s.get F.LANE_DIG_COUNT_points_m1 l tap + 1), (16, s.get F.LANE_DIG_COUNT_period l tap),
      (20, s.digWanted l tap), (24, t), (32, kbd), (36, b2n r.unlocked)]
    let s := s.setLane l ((s.lane l).setDig tap (some { r with begun := true, leaf := leaf }))
    s.place n { time := t / 8 * 8, type := 7, flags := 8 + tap, payload := p }

/-- DIG_TRIGGER (R201 to R204): a trigger takes one sample at the present point's delay; `t` is the trigger's time,
`ref` the reference edge's, and `sample` what the converter gives, with -8,192 never a sample. A stream that waits under
TIER_FULL holds the point (R303). -/
def execDigTrigger (lane : BitVec 9) (tap : Bool) (t ref : BitVec 64) (sample : BitVec 14) (s : State) :
    Host.Outcome State Fault Refusal :=
  let l := lane.toNat
  let k := b2n tap
  match (s.lane l).dig k with
  | none => .next s
  | some r =>
    if s.digWanted l k ≤ r.stored ∨ s.strmState (s.digStream l k) ≠ Strm.ACTIVE then .next s
    else
      let v := if sample.toInt = -8192 then -8191 else sample.toInt
      let s := if r.begun then s else s.digHeader l k ref.toNat
      match (s.lane l).dig k with
      | none => .next s
      | some r =>
        let eye := s.get F.LANE_DIG_CFG_mode l k == V.LANE_DIG_CFG_mode_EYE
        let kk := if eye then 0 else 2 * s.get F.LANE_DIG_CFG_avg l k
        let sum := r.sum + v
        let cnt := r.count + 1
        let r := { r with sum := sum, count := cnt }
        let s := s.setLane l ((s.lane l).setDig k (some r))
        if cnt < 2 ^ kk then .next s
        else
          let mean : Int := if 0 ≤ sum then (roundHalfEven sum.toNat kk : Int) else -(roundHalfEven (-sum).toNat kk : Int)
          let s := s.digStore l k mean t.toNat
          match (s.lane l).dig k with
          | none => .next s
          | some r =>
            let hits := if eye then 2 ^ s.get F.LANE_DIG_CFG_hits l k else 1
            .next (if r.stored % hits = 0 then
              s.setLane l ((s.lane l).setDig k (some { r with point := r.point + 1 })) else s)

/-- DIG_ABORT (R205): abort in a write of LANE.DIG_CFG. -/
def execDigAbort (p : Path) (lane : BitVec 9) (tap : Bool) (v : Word) (s : State) :
    Host.Outcome State Fault Refusal :=
  .next (s.writeDigCfg p lane.toNat (b2n tap) (v ||| 0x40000000#32)).1

/-- DIG_ACQUISITION_END (R205): every value is stored, or the holder's quota is exhausted. -/
def execDigAcquisitionEnd (lane : BitVec 9) (tap : Bool) (s : State) : Host.Outcome State Fault Refusal :=
  let l := lane.toNat
  let k := b2n tap
  match (s.lane l).dig k with
  | none => .next s
  | some r =>
    let n := s.digStream l k
    if s.digWanted l k ≤ r.stored then .next (s.digEnd l k V.LANE_DIG_STATUS_result_DONE St.OK)
    else if s.strmState n = Strm.WAITING ∧ s.storeCause n = 1 then
      .next (s.digEnd l k V.LANE_DIG_STATUS_result_QUOTA St.QUOTA)
    else .next s

/-! ## Probes (R209 to R211) -/

/-- A symbol rate of `num` x 1.25 GBd on NRZ (R209). -/
def State.rateIs (s : State) (l num : Nat) : Bool :=
  !s.pam4 l && 2 * (s.word Reg.LANE_MULT l).toNat == num * 5 * 2 ^ 24 * 2 ^ s.get F.LANE_RATE_div l

/-- Start a probe of the kind in LANE.PROBE_CTRL (R209), or refuse it. -/
def State.probeStart (s : State) (l : Nat) (d : Option Desc) : State × Nat :=
  let kind := s.get F.LANE_PROBE_CTRL_kind l
  let st := s.laneState l
  let en := s.on F.LANE_CTRL_enable l
  let loop := s.get F.LANE_CTRL_loop l
  let pcie := s.rateIs l 2 && s.coding l == 1 && s.on F.SECT_COMMA_CFG_k28_5 (l / 32) (l % 32) && loop == 0
  let eth := s.rateIs l 1 && s.coding l == 0 && loop == 0
  let running := s.prsBusy l || isRelay (s.prsMode l)
  let checks : List (Bool × Nat) :=
    [(kind == 1 && en && !pcie, St.MODE_CONFLICT),
     (kind == 2 && en && !eth, St.MODE_CONFLICT),
     (!s.domOn (domSector (l / 32)), St.REFUSED_POWER),
     (st == Ln.UNAVAILABLE, St.REFUSED_NOT_READY),
     (kind == 0 && en, St.REFUSED_NOT_READY),
     (kind != 0 && !en, St.REFUSED_NOT_READY),
     ((s.lane l).dig1.isSome || (s.lane l).probe.isSome, St.REFUSED_BUSY),
     (kind != 0 && running, St.REFUSED_BUSY)]
  match firstFailing checks with
  | some c =>
    let s := if (s.lane l).probe.isSome then s else
      (s.put F.LANE_PROBE_STATUS_result V.LANE_PROBE_STATUS_result_REFUSED l).clr F.LANE_PROBE_CTRL_go l
    (s, c)
  | none =>
    let s := s.setLane l { s.lane l with probe := some (kind, d) }
    let s := (s.ev F.LANE_PROBE_STATUS_running l).put F.LANE_PROBE_STATUS_result 0 l
    (s.ev F.LANE_PROBE_CTRL_go l, St.OK)

/-- A probe ends: its result, the descriptor's completion, and an enable that waited for a detect (R209, R210). -/
def State.probeEnd (s : State) (l result status : Nat) : State :=
  let x := s.lane l
  match x.probe with
  | none => s
  | some (_, d) =>
    let s := s.setLane l { x with probe := none, pendingEnable := false }
    let s := (s.clr F.LANE_PROBE_STATUS_running l).put F.LANE_PROBE_STATUS_result result l
    let s := (s.clr F.LANE_PROBE_CTRL_go l).clr F.LANE_PROBE_CTRL_abort l
    let s := match d with
      | some d => s.complete d status (s.word Reg.LANE_PROBE_STATUS l).toNat
      | none => s
    if x.pendingEnable then s.enterLane l else s

/-- A write of LANE.PROBE_CTRL (R209, R217). -/
def State.writeProbeCtrl (s : State) (p : Path) (l : Nat) (v : Word) : State × Nat :=
  s.guardWrite p Reg.LANE_PROBE_CTRL l 0 0 v false (fun s =>
    let s' := s.applyWrite p Reg.LANE_PROBE_CTRL l 0 0 (v &&& 0x3FFFFFFF#32)
    if bit v.toNat 30 then (s.probeEnd l V.LANE_PROBE_STATUS_result_ABORTED St.PARTIAL, St.OK)
    else if bit v.toNat 31 then (if (s.lane l).probe.isSome then s else s').probeStart l none
    else (s', St.OK))

/-- PROBE (R209): by a descriptor with the image of PROBE_CTRL, or by go in a write of it. -/
def execProbe (src : Desc ⊕ Path) (lane : BitVec 16) (ctrl : Word) (s : State) : Host.Outcome State Fault Refusal :=
  let l := lane.toNat
  match src with
  | .inr p => if l < 512 then .next (s.writeProbeCtrl p l (ctrl ||| 0x80000000#32)).1 else .fault .noSuchUnit
  | .inl d =>
    .next (s.descriptor d false false
      [(decide (l < 512) && s.get F.LANE_STATUS_holder l != d.tenant.toNat, St.REFUSED_NOT_OWNER),
       (decide (512 ≤ l) || Reg.LANE_PROBE_CTRL.badValue ctrl.toNat, St.BAD_ARGUMENT)]
      (fun s =>
        let busy := (s.lane l).probe.isSome
        let s' := s.setWord Reg.LANE_PROBE_CTRL (ctrl &&& BitVec.ofNat 32 Reg.LANE_PROBE_CTRL.rw) l
        let (r, st) := (if busy then s else s').probeStart l (some d)
        if st = St.OK then r else s.refuse d st (s.word Reg.LANE_PROBE_STATUS l).toNat))

/-- PROBE_ABORT (R217). -/
def execProbeAbort (p : Path) (lane : BitVec 9) (v : Word) (s : State) : Host.Outcome State Fault Refusal :=
  .next (s.writeProbeCtrl p lane.toNat (v ||| 0x40000000#32)).1

/-- PROBE_END (R209, R210): a probe ends on its recorded response, its 2 µs detect or, with `timedOut`, its timeout; the
words recorded, their sets or pages, and for a detect what each leg showed (0 absent, 1 present, 2 indeterminate). -/
def execProbeEnd (lane : BitVec 9) (timedOut : Bool) (received : BitVec 8) (data : List Word) (legN legP : Fin 3)
    (s : State) : Host.Outcome State Fault Refusal :=
  let l := lane.toNat
  match (s.lane l).probe with
  | none => .next s
  | some (kind, _) =>
    let s := if kind = 0 then
        (s.put F.LANE_PROBE_STATUS_detect_n legN.val l).put F.LANE_PROBE_STATUS_detect_p legP.val l
      else if timedOut then s.put F.LANE_PROBE_STATUS_received 0 l
      else
        let n := if kind = 1 then 8 else Nat.min 16 (2 * received.toNat)
        let s := s.each (upTo 16) (fun s i =>
          if kind = 1 ∨ i < n then s.setWord Reg.LANE_PROBE_DATA (if i < n then (data[i]?).getD 0 else 0) l i else s)
        s.put F.LANE_PROBE_STATUS_received received.toNat l
    .next (if kind ≠ 0 ∧ timedOut then s.probeEnd l V.LANE_PROBE_STATUS_result_NO_RESPONSE St.TIMEOUT
      else s.probeEnd l V.LANE_PROBE_STATUS_result_RESPONSE St.OK)

/-- A write of LANE.PROBE_DATAn (R211): without effect while a probe runs. -/
def State.writeProbeData (s : State) (p : Path) (l n : Nat) (v : Word) : State × Nat :=
  s.guardWrite p Reg.LANE_PROBE_DATA l n 0 v false (fun s =>
    if (s.lane l).probe.isSome then (s.lostWrite (Reg.LANE_PROBE_DATA.addr l n 0) p, St.OK)
    else (s.applyWrite p Reg.LANE_PROBE_DATA l n 0 v, St.OK))

/-- A lane returns to T000, or is put into its reset condition (R185, R224, R367, R572): disabled first, its registers at
their reset values, its press IDLE. -/
def State.laneReset (s : State) (l : Nat) : State :=
  let s := (s.probeEnd l V.LANE_PROBE_STATUS_result_ABORTED St.ABORTED_FAULT).disableLane l
  let s := s.each [Reg.LANE_CTRL, Reg.LANE_RATE, Reg.LANE_MULT, Reg.LANE_TX_FIR, Reg.LANE_RX_EQ, Reg.LANE_RX_COEF]
    (fun s r => s.setWord r (r.reset l 0 0) l)
  let s := s.each [Reg.SECT_LANE_CFG, Reg.SECT_COMMA_CFG, Reg.SECT_DESKEW_CFG]
    (fun s r => s.setWord r (r.reset (l / 32) (l % 32) 0) (l / 32) (l % 32))
  let s := s.setLane l { s.lane l with fir := Reg.LANE_TX_FIR.reset l 0 0, coef := [] }
  s.pressReset l

end Sys2Proof.Machine
end

