-- ==== Sys2Proof/Machine/Streams.lean ====
section
/-! DEFINITION. Machine/Streams.lean: the start, stop and release of streams, and QUIRE_VERIFY (spec/11, R289 to R298,
R304; R30, R571). -/
namespace Sys2Proof
open Machine

/-- The capture mode: 0 CONTINUOUS, 1 WRAP, 2 WINDOW. -/
def StartArgs.mode (a : StartArgs) : Nat := bits a.flags.toNat 1 0

/-- FRONT_DEEP. -/
def StartArgs.deep (a : StartArgs) : Bool := bit a.flags.toNat 2

/-- The member lanes, ascending. -/
def StartArgs.lanes (a : StartArgs) : List Nat := (bitsOf 32 a.mask.toNat).map (fun j => 32 * a.sector.toNat + j)

/-- The DQs named, those with bit 31 set. -/
def StartArgs.named (a : StartArgs) : List Nat :=
  (a.dqs.filter (fun w => bit w.toNat 31)).map (fun w => bits w.toNat 19 0)

/-- The event DQ or ribbon DQ at a place. -/
def StartArgs.dqAt (a : StartArgs) (i : Nat) : Option Nat :=
  match a.dqs[i]? with
  | some w => if bit w.toNat 31 then some (bits w.toNat 19 0) else none
  | none => none

/-- A reserved field of STREAM_START is set (R571). -/
def StartArgs.reserved (a : StartArgs) : Bool :=
  decide (64 ≤ a.flags.toNat) || a.dqs.any (fun w => bits w.toNat 30 20 != 0) ||
    (decide (a.mode < 2) && (bits a.flags.toNat 5 4 != 0 || a.trigger != 0))

end Sys2Proof

namespace Sys2Proof.Machine

/-- A tenant's key slot lets it seal (R428): 0 yes, else the status. -/
def State.sealCheck (s : State) (t : Nat) : Nat :=
  let st := s.get F.SEC_KEY_STATUS_state t
  if st = V.SEC_KEY_STATUS_state_ACTIVE ∨ st = V.SEC_KEY_STATUS_state_REKEYING then 0 else St.REFUSED_NOT_READY

/-- The front tier is not available (R101, R401). -/
def State.frontGone (s : State) : Bool := s.get F.MEM_FRONT_STATUS_state == V.MEM_FRONT_STATUS_state_FAILED

/-- The coding a start takes for a lane (R239, R571). -/
def State.startCoding (s : State) (a : StartArgs) (l : Nat) : Nat :=
  if a.kind.toNat = Kind.TX_MONITOR then s.prsCoding l else s.coding l

/-- The mode combinations refused (R30, R291). -/
def State.startConflict (s : State) (a : StartArgs) : Bool :=
  let ls := a.lanes
  let k := a.kind.toNat
  let cs := ls.map (fun l => s.startCoding a l)
  let same := fun (f : Nat → Nat) => ls.all (fun l => f l == f ((ls.head?).getD 0))
  let opt := fun (f : Fld) => ls.any (fun l => s.on f (l / 32) (l % 32))
  (decide (2 ≤ k) && a.mode != 0) || (k == Kind.PATTERN && a.deep) || (a.mode == 1 && a.deep) ||
  (a.mode == 2 && !bit a.flags.toNat 5) || (a.dqAt 5).any (fun q => (s.dq q).consumer != 0) ||
  (decide (1 < ls.length) && (cs.contains 0 || !same (fun l => s.startCoding a l) ||
    !same (fun l => s.get F.LANE_RATE_modulation l) || !same (fun l => s.get F.LANE_RATE_div l) ||
    !same (fun l => (s.word Reg.LANE_MULT l).toNat))) ||
  (k == Kind.CAPTURE && opt F.SECT_LANE_CFG_fec_annotate && !cs.all (fun c => c == 6 || c == 7)) ||
  (opt F.SECT_LANE_CFG_idle_suppress && cs.contains 0)

/-- A lane is in an active stream of a kind (R291); a stream still STOPPING holds its lanes. -/
def State.laneIn (s : State) (l kind : Nat) : Bool :=
  s.cap.streams.any (fun p => (s.strmActive p.1 || s.strmState p.1 == Strm.STOPPING) && s.strmKind p.1 == kind &&
    p.2.members.any (fun y => y.lane == l))

/-- The octet of a lane has no slice (R246). -/
def State.octetDown (s : State) (l : Nat) : Bool :=
  let i := l / 32
  let o := (l % 32) / 8
  let k := [s.get F.SECT_INTAKE_STATUS_octet0_slice i, s.get F.SECT_INTAKE_STATUS_octet1_slice i,
            s.get F.SECT_INTAKE_STATUS_octet2_slice i, s.get F.SECT_INTAKE_STATUS_octet3_slice i]
  bit (s.get F.SECT_INTAKE_STATUS_failed i) ((k[o]?).getD 0) && !s.on F.SECT_INTAKE_STATUS_spare_ok i

/-- The lowest IDLE stream (R289). -/
def State.idleStream (s : State) : Option Nat := findFrom (fun n => s.strmState n == Strm.IDLE) 1024 0

/-- The checks of STREAM_START in the order of R29 (R30, R246, R291, R428, R463, R571, R626). -/
def State.startChecks (s : State) (d : Desc) (a : StartArgs) : List (Bool × Nat) :=
  let t := d.tenant.toNat
  let k := a.kind.toNat
  let ls := a.lanes
  let sect := a.sector.toNat
  let trg := a.trigger.toNat
  let win := a.mode == 2 && bit a.flags.toNat 5
  let seq := win && !bit a.flags.toNat 4
  let ring := a.mode == 1 || a.mode == 2
  let front := s.get F.CAP_QUOTA_FRONT_quires t
  let room := Nat.min (front - s.get F.CAP_USE_FRONT_value t) s.frontFree
  [(a.reserved, St.RESERVED_FIELD_SET),
   ((k == Kind.DEVICE && t != 0) || (decide (sect < 16) && ls.any (fun l => s.get F.LANE_STATUS_holder l != t)) ||
      a.named.any (fun q => s.dqHolder q != t) ||
      (seq && decide (trg < 64) && s.get F.LANE_STATUS_holder (32 * (trg / 4) + 8 * (trg % 4)) != t),
    St.REFUSED_NOT_OWNER),
   (decide (4 < k) || decide (15 < sect) || a.mode == 3 || a.flushUs == 0 ||
      (ring && (decide (a.ring.toNat < 2) || decide (4096 < a.ring.toNat))) || (a.mode == 2 && a.post == 0) ||
      (k == Kind.CAPTURE && (ls.isEmpty || decide (16 < ls.length))) ||
      (k == Kind.TX_MONITOR && ls.length != 1) || (decide (2 ≤ k) && a.mask != 0) ||
      (win && (if bit a.flags.toNat 4 then decide (31 < trg) else trg / 4 != sect)), St.BAD_ARGUMENT),
   (s.startConflict a, St.MODE_CONFLICT),
   (!s.running || (decide (k ≤ 1) && (!s.domOn (domSector sect) ||
      (upTo 4).any (fun b => !s.domOn (domStaging (4 * sect + b))))), St.REFUSED_POWER),
   (s.frontGone || a.named.any (fun q => !(s.dq q).alloc) ||
      (k == Kind.CAPTURE && ls.any (fun l => (s.coding l != 0 && !s.laneLocked l) || s.octetDown l)) ||
      (k != Kind.DEVICE && s.sealCheck t != 0), St.REFUSED_NOT_READY),
   ((decide (k ≤ 1) && ls.any (fun l => s.laneIn l k)) || s.idleStream.isNone, St.REFUSED_BUSY),
   (k != Kind.DEVICE && s.on F.SEC_KEY_STATUS_exhausted t, St.KEY_EXHAUSTED),
   (front == 0 || (a.deep && s.get F.CAP_QUOTA_DEEP_quires t == 0) || (ring && decide (room < a.ring.toNat)), St.QUOTA)]

/-- Clear a stream's counters and record its settings (R312, R317 to R320). -/
def State.startRegs (s : State) (n t : Nat) (a : StartArgs) : State :=
  let s := s.each [Reg.CAP_STREAM_STOP_LO, Reg.CAP_STREAM_STOP_HI, Reg.CAP_STREAM_TRIG_LO, Reg.CAP_STREAM_TRIG_HI,
    Reg.CAP_STREAM_STORED_LO, Reg.CAP_STREAM_STORED_HI, Reg.CAP_STREAM_GAP_LO, Reg.CAP_STREAM_GAP_HI,
    Reg.CAP_STREAM_LOST_REC, Reg.CAP_STREAM_LOST_EVT0, Reg.CAP_STREAM_LOST_EVT1, Reg.CAP_STREAM_LOST_EVT2,
    Reg.CAP_STREAM_FIRST_QUIRE, Reg.CAP_STREAM_LAST_QUIRE, Reg.CAP_STREAM_STATUS] (fun s r => s.setWord r 0 n)
  let s := s.setPair Reg.CAP_STREAM_START_LO Reg.CAP_STREAM_START_HI s.now n
  let s := (s.put F.CAP_STREAM_CFG_flush_us a.flushUs.toNat n).put F.CAP_STREAM_CFG_ring_quires
    (if a.mode = 0 then 0 else a.ring.toNat) n
  let s := s.put F.CAP_STREAM_POST_post_quires (if a.mode = 2 then a.post.toNat else 0) n
  let s := (s.put F.CAP_STREAM_STATUS_holder t n).put F.CAP_STREAM_STATUS_kind a.kind.toNat n
  let s := (s.put F.CAP_STREAM_STATUS_mode a.mode n).put F.CAP_STREAM_STATUS_tier (b2n a.deep) n
  s.put F.CAP_STREAM_STATUS_filtering (bits a.flags.toNat 3 3) n

/-- Form the bundle of a CAPTURE stream of two members or more (R241, R251, R252). -/
def State.formBundle (s : State) (n sect : Nat) (ls : List Nat) : State :=
  if ls.length < 2 then s
  else
    let b := (findFrom (fun b => !s.on F.SECT_BUNDLE_STATUS_active sect b) 16 0).getD 0
    let s := s.setWord Reg.SECT_BUNDLE_MEMBERS
      (BitVec.ofNat 32 (ls.foldl (fun a l => a + 2 ^ (l % 32)) 0)) sect b
    let s := (s.setWord Reg.SECT_BUNDLE_STATUS 0 sect b).put F.SECT_BUNDLE_STATUS_active 1 sect b
    let s := (s.put F.SECT_BUNDLE_STATUS_stream n sect b).put F.SECT_BUNDLE_STATUS_size_m1 (ls.length - 1) sect b
    let s := s.each ((upTo ls.length).zip ls) (fun s p =>
      let j := p.2 % 32
      (((s.put F.SECT_ISTATUS_bundled 1 sect j).put F.SECT_ISTATUS_bundle b sect j).put F.SECT_ISTATUS_member p.1
        sect j).put F.SECT_ISTATUS_deskewed 0 sect j)
    { s with sectors := Tbl.upd {} sect (fun z => { z with
        offsets := Tbl.set [] b [] z.offsets, bad := Tbl.set 0 b 0 z.bad }) s.sectors }

/-- Dissolve it. -/
def State.dropBundle (s : State) (n : Nat) : State :=
  let x := s.strm n
  match x.bundle with
  | none => s
  | some b =>
    let sect := x.sector
    let s := (s.setWord Reg.SECT_BUNDLE_MEMBERS 0 sect b).setWord Reg.SECT_BUNDLE_STATUS 0 sect b
    s.each x.members (fun s y =>
      let j := y.lane % 32
      ((((s.put F.SECT_ISTATUS_bundled 0 sect j).put F.SECT_ISTATUS_bundle 0 sect j).put F.SECT_ISTATUS_member 0
        sect j).put F.SECT_ISTATUS_deskewed 0 sect j).put F.SECT_ISTATUS_deskew_ticks 0 sect j)

/-- Allocate a starting stream's first quire, or its ring (R300, R304); without one it waits. -/
def State.startQuires (s : State) (n : Nat) (count : Nat) : State :=
  s.each (upTo count) (fun s i =>
    match s.allocQuire n with
    | (some q, s) =>
      let x := s.strm n
      if i = 0 then ((s.setStrm n { x with cur := some q, quires := [q] }).linkQuire none q).root n
      else s.setStrm n { x with spare := x.spare ++ [q] }
    | (none, s) =>
      let s := if i = 0 then s.setStrmState n Strm.WAITING else s
      if s.cap.waitList.contains n then s
      else { s with cap := { s.cap with waitList := s.cap.waitList ++ [n] } })

/-- The effect of an accepted STREAM_START (R289, R292). -/
def State.startStream (s : State) (d : Desc) (a : StartArgs) : State :=
  match s.idleStream with
  | none => s.refuse d St.REFUSED_BUSY
  | some n =>
    let t := d.tenant.toNat
    let k := a.kind.toNat
    let ls := a.lanes
    let sect := a.sector.toNat
    let s := s.startRegs n t a
    let bundle := if k = Kind.CAPTURE ∧ 2 ≤ ls.length then
      some ((findFrom (fun b => !s.on F.SECT_BUNDLE_STATUS_active sect b) 16 0).getD 0) else none
    let s := if k = Kind.CAPTURE then s.formBundle n sect ls else s
    let start := fun (i : Nat) => s.now + (a.bounds[i]?).getD 0
    let ms := ((upTo ls.length).zip ls).map (fun p => ({ lane := p.2, ended := start p.1 } : Member))
    let x : Stream :=
      { members := ms, sector := sect, coding := s.startCoding a ((ls.head?).getD 0), bundle := bundle,
        trigger := if a.mode = 2 then some (bit a.flags.toNat 4, a.trigger.toNat) else none,
        dqs := (upTo 5).map a.dqAt, ribbonDq := a.dqAt 5,
        ltype := match k with | 2 => 3 | 3 => 2 | 4 => 4 | _ => 1 }
    let s := (s.setStrm n x).setStrmState n Strm.ACTIVE
    let s := match a.dqAt 5 with | some q => s.setDq q { s.dq q with consumer := 4, unit := n } | none => s
    let s := s.startQuires n (if a.mode = 0 then 1 else a.ring.toNat)
    let s := s.each ((upTo ls.length).zip ls) (fun s p =>
      let at' := start p.1
      let cfg := (s.word Reg.SECT_LANE_CFG sect (p.2 % 32)).toNat
      let s := s.eventStrip n p.1 Evt.STREAM_START at' (cfg + ls.length * 2 ^ 32)
      let c := if k = Kind.TX_MONITOR then (if s.drives p.2 then 0 else 0x0C) else s.stateCause p.2
      let s := if c = 0 then s else s.addCause n p.1 c at'
      if bit a.flags.toNat 3 then s.addCause n p.1 0x0B at' else s)
    s.ok d n

/-- STREAM_START (R571, R291): the descriptor is checked and the lowest IDLE stream becomes ACTIVE. -/
def execStreamStart (d : Desc) (a : StartArgs) (s : State) : Host.Outcome State Fault Refusal :=
  .next (s.descriptor d false false (s.startChecks d a) (fun s => s.startStream d a))

/-- The checks of a descriptor that names a stream of the submitter. -/
def State.strmChecks (s : State) (d : Desc) (n : Nat) : List (Bool × Nat) :=
  [(decide (n < 1024) && (s.strmState n == Strm.IDLE || s.strmHolder n != d.tenant.toNat), St.REFUSED_NOT_OWNER),
   (decide (1024 ≤ n), St.BAD_ARGUMENT)]

/-- STREAM_STOP (R292): each member ends at the last unit boundary at or before acceptance; the descriptor completes at
CLOSED. -/
def execStreamStop (d : Desc) (n : BitVec 16) (s : State) : Host.Outcome State Fault Refusal :=
  let n := n.toNat
  .next (s.descriptor d false false
    (s.strmChecks d n ++ [(!s.strmActive n, St.REFUSED_NOT_READY)])
    (fun s => s.beginStop n V.CAP_STREAM_STATUS_end_cause_STOPPED s.now (some d)))

/-- Everything the intake still holds of a stream is written up to its stop (R228, R292, R301). -/
def State.finishMembers (s : State) (n t : Nat) : State :=
  let s := s.commitDelay n t true
  let ms := upTo (s.strm n).members.length
  let s := s.each ms (fun s m => (s.endStretch n m).closeGap n m t)
  let s := (s.flushWait n true).flushNotes n true
  let s := if (s.strm n).wasWaiting then
      let s := s.resumeStore n true
      s.setStrm n { s.strm n with wasWaiting := false }
    else if (s.strm n).staging then s.resumeStore n true
    else s
  (s.each ms (fun s m => s.eventStrip n m Evt.STREAM_STOP t 0)).flushNotes n true

/-- The last leaf and quire of a stopping capture are sealed (R294, R298): LAST, with CLOSING where the closing leaf is
used (R301). A capture with nothing to hold returns its quire. -/
def State.finishQuire (s : State) (n t : Nat) : State :=
  let x := s.strm n
  match x.cur with
  | none => s
  | some q =>
    let s := s.setQuire q { s.quire q with next := none }
    if x.leaf.isNone && x.seq == 0 then
      let s := s.setStrm n { x with cur := none, quires := [] }
      (s.dropQuire q).root n
    else
      let s := if x.leaf.isSome then s
        else s.setStrm n { x with leaf := some { index := x.index, base := t / 8 * 8, ref := t / 8 * 8, lastTime := t } }
      let closing := match (s.strm n).leaf with | some l => l.index == 16383 | none => false
      s.closeLeaf n closing true

/-- The quires a stopping stream holds but has not begun go back (log entry 14). -/
def State.freeUnused (s : State) (n : Nat) : State :=
  let x := s.strm n
  let s := s.setStrm n { x with spare := [], next := none }
  s.each (x.spare ++ x.next.toList) (fun s q => s.dropQuire q)

/-- Close a STOPPING stream (R292): its final leaf and quire are sealed, and a STREAM_STOP completes with the stop
timestamp. -/
def State.closeStream (s : State) (n : Nat) : State :=
  let t := (s.strm n).stopAt.getD s.now
  let s := s.finishMembers n t
  let s := (s.finishQuire n t).freeUnused n
  let s := s.dropBundle n
  let s := match (s.strm n).ribbonDq with
    | some q => if (s.dq q).consumer = 4 ∧ (s.dq q).unit = n then s.setDq q { s.dq q with consumer := 0, unit := 0 } else s
    | none => s
  let s := (s.setStrm n { s.strm n with bound := 0 }).setStrmState n Strm.CLOSED
  let s := s.each (s.strm n).members (fun s y =>
    (s.put F.SECT_ISTATUS_in_run 0 (y.lane / 32) (y.lane % 32)).put F.SECT_ISTATUS_in_gap 0 (y.lane / 32) (y.lane % 32))
  match (s.strm n).stopDesc with
  | some d => (s.setStrm n { s.strm n with stopDesc := none }).ok d t
  | none => s

/-- STREAM_CLOSED (R292): within 20 µs of the stop. -/
def execStreamClosed (n : BitVec 10) (s : State) : Host.Outcome State Fault Refusal :=
  .next (if s.dead then s else if s.strmState n.toNat = Strm.STOPPING then s.closeStream n.toNat else s)

/-! ## Release (R290, R297) -/

/-- The quires a stream's capture holds. -/
def State.captureQuires (s : State) (n : Nat) : List Nat :=
  (s.cap.quires.filter (fun p => p.2.stream == n && p.2.state != Qr.FREE)).map (fun p => p.1)

/-- A CLOSED stream whose capture has been released and holds no quire any more is IDLE (R290). -/
def State.retire (s : State) (n : Nat) : State :=
  if s.strmState n = Strm.CLOSED ∧ (s.captureQuires n).isEmpty ∧ (s.strm n).quires.isEmpty then
    let s := s.setWord Reg.CAP_STREAM_STATUS 0 n
    let s := (s.setWord Reg.CAP_STREAM_FIRST_QUIRE 0 n).setWord Reg.CAP_STREAM_LAST_QUIRE 0 n
    s.setStrm n {}
  else s

/-- Release a closed capture (R297): its quires enter RELEASING; answers how many. -/
def State.releaseCapture (s : State) (n : Nat) : State × Nat :=
  let qs := (s.captureQuires n).filter (fun q =>
    let st := (s.quire q).state
    st == Qr.SEALED || st == Qr.DRAINING || st == Qr.LOST)
  let s := s.each qs (fun s q => s.releaseQuire q)
  let s := (s.setStrm n { s.strm n with quires := [] }).root n
  (s.retire n, qs.length)

/-- A RELEASING quire is free (R297): its capture may be the last thing its stream held. -/
def State.quireFreed (s : State) (q : Nat) : State :=
  let x := s.quire q
  if x.state = Qr.RELEASING then (s.dropQuire q).retire x.stream else s

/-- QUIRE_FREED (R297): every read that translated a RELEASING quire has completed (log entry 12). -/
def execQuireFreed (q : BitVec 19) (s : State) : Host.Outcome State Fault Refusal := .next (s.quireFreed q.toNat)

/-! ## Quire records (R296, R298) -/

/-- The 64 bytes of a quire record (R296). -/
def quireBytes (x : Quire) : List Nat :=
  let opt := fun (q : Option Nat) => q.getD 0xFFFFFFFF
  let n := pack [(0, 0x5153), (2, x.state), (3, x.flags), (4, x.stream), (6, x.tenant), (7, x.ltype), (8, x.counter),
    (12, opt x.prev), (16, opt x.next), (20, x.target * 2 ^ 28 + x.slot), (24, x.first), (32, x.last), (40, x.used),
    (42, x.gaps), (44, x.ribbons), (48, x.digest)]
  (leBytes 64 (n + Config.keyValue 3 n % 2 ^ 64 * 2 ^ 448)).map BitVec.toNat

/-- QUIRE_VERIFY (R298): the record is written to the buffer; `good` says that both tags check. -/
def execQuireVerify (d : Desc) (q : Word) (buffer : BitVec 64) (good : Bool) (s : State) :
    Host.Outcome State Fault Refusal :=
  let q := q.toNat
  let x := s.quire q
  .next (s.descriptor d false false
    [(decide (q < 524288) && (x.state == Qr.FREE || x.tenant != d.tenant.toNat), St.REFUSED_NOT_OWNER),
     (decide (524288 ≤ q), St.BAD_ARGUMENT)]
    (fun s =>
      let s := if buffer = 0 then s else s.hostWrite d.tenant.toNat buffer.toNat (quireBytes x)
      s.complete d (if good then St.OK else St.INTEGRITY) x.state))

end Sys2Proof.Machine
end

