-- ==== Sys2Proof/Machine/Triggers.lean ====
section
/-! DEFINITION. Machine/Triggers.lean: slots, counters, sequencers, gates, global lines, trigger pins, taps and ribbons
(spec/10, R255 to R288). -/
namespace Sys2Proof.Machine

/-- The trigger latency of 160 ns (R267) in LSB. -/
abbrev triggerLatency : Nat := 10240

/-! ## Named units and holders (R255, R256, R266) -/

/-- A condition index that exists (R260). -/
def condLegal (c : Nat) : Bool := decide (c ≤ 0x5D)

/-- The condition indices an arc evaluates. -/
def State.arcConds (s : State) (i q k : Nat) : List Nat :=
  let a := s.get F.SECT_ARC_COND_cond_a i q k
  if s.get F.SECT_ARC_COND_op i q k = 0 then [a] else [a, s.get F.SECT_ARC_COND_cond_b i q k]

/-- The enabled arcs of a sequencer. -/
def State.arcs (s : State) (i q : Nat) : List Nat := (upTo 16).filter (fun k => s.on F.SECT_ARC_COND_enable i q k)

/-- The match units (as 0x00 on) and counters (as 0x20 on) that a sequencer names, with the sources of those counters
(R256), and the other conditions of its arcs. -/
def State.seqNames (s : State) (i q : Nat) : List Nat :=
  let ks := s.arcs i q
  let conds := ks.flatMap (fun k => s.arcConds i q k)
  let acts := ks.flatMap (fun k =>
    (if s.on F.SECT_ARC_ACTION_inc_en i q k then [0x20 + s.get F.SECT_ARC_ACTION_inc_cnt i q k] else []) ++
    (if s.on F.SECT_ARC_ACTION_clr_en i q k then [0x20 + s.get F.SECT_ARC_ACTION_clr_cnt i q k] else []))
  let l := conds ++ acts
  let srcs := (l.filter (fun c => decide (0x20 ≤ c) && decide (c < 0x30))).flatMap (fun c =>
    if s.get F.SECT_CNT_CFG_mode i (c - 0x20) = V.SECT_CNT_CFG_mode_TICKS then []
    else [s.get F.SECT_CNT_CFG_source i (c - 0x20)])
  l ++ srcs

/-- A sequencer is armed. -/
def State.armed (s : State) (i q : Nat) : Bool := s.on F.SECT_SEQ_STATUS_armed i q

/-- A unit is in use (R256): an armed sequencer of its sector names it. -/
def State.trigInUse (s : State) (i c : Nat) : Bool :=
  (upTo 4).any (fun q => s.armed i q && (s.seqNames i q).contains c)

/-- The holder of a condition's unit in a sector, none for one that nobody need hold. -/
def State.condHolder (s : State) (i c : Nat) : Option Nat :=
  if c < 0x20 then some (s.get F.LANE_STATUS_holder (32 * i + c))
  else if c < 0x30 then some (s.get F.LANE_STATUS_holder (32 * i + 2 * (c - 0x20)))
  else if c < 0x50 then none
  else if c < 0x54 then some (s.get F.LANE_STATUS_holder (32 * i + 8 * (c - 0x50)))
  else if c < 0x5C then some (s.get F.FAB_SECT_STATUS_holder (16 * i))
  else none

/-- The holder of a sequencer. -/
def State.seqHolder (s : State) (i q : Nat) : Nat := s.get F.LANE_STATUS_holder (32 * i + 8 * q)

/-- The holder of a stream, if it has one. -/
def State.strmOwner (s : State) (n : Nat) : Option Nat :=
  if s.strmState n = Strm.IDLE then none else some (s.strmHolder n)

/-- The first check of R266: something named is not held by the sequencer's holder. -/
def State.armNotOwner (s : State) (i q : Nat) : Bool :=
  let h := s.seqHolder i q
  let ks := s.arcs i q
  (s.seqNames i q).any (fun c => match s.condHolder i c with | some x => x != h | none => false) ||
  ks.any (fun k => s.on F.SECT_ARC_ACTION_press_en i q k &&
    s.get F.LANE_STATUS_holder (32 * i + s.get F.SECT_ARC_ACTION_press_lane i q k) != h) ||
  ks.any (fun k => s.on F.SECT_ARC_ACTION_line_en i q k &&
    s.get F.GIO_TLINE_holder (s.get F.SECT_ARC_ACTION_line i q k) != h) ||
  (!s.on F.SECT_SEQ_TARGET_all i q &&
    ks.any (fun k => s.on F.SECT_ARC_ACTION_ribbon i q k || s.on F.SECT_ARC_ACTION_gate_open i q k ||
      s.on F.SECT_ARC_ACTION_gate_close i q k) &&
    s.strmOwner (s.get F.SECT_SEQ_TARGET_stream i q) != some h)

/-- The coding that a match unit's lane has for its src. -/
def State.matchCoding (s : State) (i m : Nat) : Nat :=
  let l := 32 * i + s.get F.SECT_MATCH_CFG_lane i m
  if s.on F.SECT_MATCH_CFG_src i m then s.prsCoding l else s.coding l

/-- The second check of R266. -/
def State.armMode (s : State) (i q : Nat) : Bool :=
  ((s.seqNames i q).filter (fun c => decide (c < 0x20))).any (fun m =>
    (s.on F.SECT_MATCH_CFG_scope i m && !s.on F.SECT_ISTATUS_bundled i (s.get F.SECT_MATCH_CFG_lane i m)) ||
    (s.get F.SECT_MATCH_CFG_offset i m != 0 && s.matchCoding i m == 0)) ||
  (s.arcs i q).any (fun k => s.on F.SECT_ARC_ACTION_gate_open i q k && decide (16384 < s.get F.SECT_ARC_ARG_ticks i q k))

/-- The refusal of an arm (R266): 0 none, 1 NOT_OWNER, 2 MODE, 3 POWER. -/
def State.armCause (s : State) (i q : Nat) : Nat :=
  if s.armNotOwner i q then 1 else if s.armMode i q then 2 else if !s.domOn (domSector i) then 3 else 0

/-- The descriptor status of a refused arm (R266). -/
def armStatus (c : Nat) : Nat := if c = 1 then St.REFUSED_NOT_OWNER else if c = 2 then St.MODE_CONFLICT else St.REFUSED_POWER

/-- Arm a sequencer in state 0, or refuse it (R262, R266). -/
def State.arm (s : State) (i q : Nat) : State × Nat :=
  if s.armed i q then (s, St.OK)
  else
    let c := s.armCause i q
    let s := s.put F.SECT_SEQ_STATUS_refuse_cause c i q
    if c = 0 then ((s.put F.SECT_SEQ_STATUS_armed 1 i q).put F.SECT_SEQ_STATUS_state 0 i q, St.OK)
    else (s.ev F.SECT_TRIG_EVENTS_arm_refused i, armStatus c)

/-- A write of SECT.SEQ_CTRL (R282, R266, R260): disarm acts before arm. -/
def State.writeSeqCtrl (s : State) (p : Path) (i q : Nat) (v : Word) : State × Nat :=
  let (s, st) := s.guardWrite p Reg.SECT_SEQ_CTRL i q 0 v false (fun s =>
    let s := s.put F.SECT_SEQ_CTRL_final_mask (bits v.toNat 23 16) i q
    let s := s.when (bit v.toNat 30) (fun s => s.put F.SECT_SEQ_STATUS_armed 0 i q)
    let (s, st) := if bit v.toNat 31 then s.arm i q else (s, St.OK)
    let s := s.when (bit v.toNat 29) (fun s =>
      s.trigEvent { sector := i, cond := 0x5C, time := s.now + triggerLatency, seq := q })
    (s, st))
  if st = St.REFUSED_POWER ∧ bit v.toNat 31 then
    ((s.put F.SECT_SEQ_STATUS_refuse_cause 3 i q).ev F.SECT_TRIG_EVENTS_arm_refused i, st)
  else (s, st)

/-- SEQ_ARM (R266): a write of SEQ_CTRL with arm set. -/
def execSeqArm (p : Path) (sect : BitVec 4) (q : BitVec 2) (v : Word) (s : State) : Host.Outcome State Fault Refusal :=
  .next (s.writeSeqCtrl p sect.toNat q.toNat (v ||| 0x80000000#32)).1

/-- SEQ_DISARM (R266): a write of SEQ_CTRL with disarm set. -/
def execSeqDisarm (p : Path) (sect : BitVec 4) (q : BitVec 2) (v : Word) (s : State) :
    Host.Outcome State Fault Refusal :=
  .next (s.writeSeqCtrl p sect.toNat q.toNat (v ||| 0x40000000#32)).1

/-- SW_COND (R260): a write of SEQ_CTRL with sw_cond set. -/
def execSwCond (p : Path) (sect : BitVec 4) (q : BitVec 2) (v : Word) (s : State) : Host.Outcome State Fault Refusal :=
  .next (s.writeSeqCtrl p sect.toNat q.toNat (v ||| 0x20000000#32)).1

/-- A write of a match unit's registers (R256, R258): `which` 0 MATCH_CFG, 1 MATCH_VALUE, 2 MATCH_MASK. -/
def State.writeMatch (s : State) (p : Path) (which i m k : Nat) (v : Word) : State × Nat :=
  let r := if which = 0 then Reg.SECT_MATCH_CFG else if which = 1 then Reg.SECT_MATCH_VALUE else Reg.SECT_MATCH_MASK
  s.guardWrite p r i m k v (which == 0 && decide (7 ≤ bits v.toNat 27 24)) (fun s =>
    if s.trigInUse i m then refuseWrite s p St.REFUSED_BUSY (fun s => s.ev F.SECT_TRIG_EVENTS_wr_refused i)
    else (s.applyWrite p r i m k v, St.OK))

/-- A write of CNT_CFG, or CNT_COMPARE with `compare` (R256, R279). -/
def State.writeCnt (s : State) (p : Path) (compare : Bool) (i c : Nat) (v : Word) : State × Nat :=
  let r := if compare then Reg.SECT_CNT_COMPARE else Reg.SECT_CNT_CFG
  let bad := if compare then v == 0 else bits v.toNat 6 0 == 0x5C || !condLegal (bits v.toNat 6 0)
  s.guardWrite p r i c 0 v bad (fun s =>
    if s.trigInUse i (0x20 + c) then refuseWrite s p St.REFUSED_BUSY (fun s => s.ev F.SECT_TRIG_EVENTS_wr_refused i)
    else (s.applyWrite p r i c 0 v, St.OK))

/-- A write of an arc or of SEQ_TARGET (R256, R284 to R287): `which` 0 ARC_COND, 1 ARC_ACTION, 2 ARC_CODE, 3 ARC_ARG, 4
SEQ_TARGET. -/
def State.writeArc (s : State) (p : Path) (which i q k : Nat) (v : Word) : State × Nat :=
  let r := match which with
    | 0 => Reg.SECT_ARC_COND
    | 1 => Reg.SECT_ARC_ACTION
    | 2 => Reg.SECT_ARC_CODE
    | 3 => Reg.SECT_ARC_ARG
    | _ => Reg.SECT_SEQ_TARGET
  let n := v.toNat
  let bad := match which with
    | 0 => !condLegal (bits n 6 0) || !condLegal (bits n 14 8) || bits n 30 29 == 3
    | 1 => bit n 8 && bit n 7
    | 2 => decide (0xFFFF0000 ≤ n)
    | _ => false
  s.guardWrite p r i q k v bad (fun s =>
    if s.armed i q then refuseWrite s p St.REFUSED_BUSY (fun s => s.ev F.SECT_TRIG_EVENTS_wr_refused i)
    else (s.applyWrite p r i q k v, St.OK))

/-! ## Ribbons (R273 to R276) -/

/-- The RIBBON strip of a stream (R236): `src` the source kind, `idx` its index, `mark` the time of its bytes 12 to 19. -/
def ribbonItem (code src idx t mark data lane : Nat) (d : Option Desc) : Item :=
  { time := t, type := 3, lane := lane, flags := t % 8,
    payload := pack [(0, code), (4, src), (6, idx), (12, mark), (20, data)],
    key := src * 2 ^ 16 + (if src = 0 then idx else 0), token := some (0, code), desc := d }

/-- Write a ribbon in a stream that is active (R273). -/
def State.ribbon (s : State) (n : Nat) (it : Item) : State := if s.strmActive n then s.note n it else s

/-- RIBBON (R275): a software ribbon, marked now or scheduled. -/
def execRibbon (d : Desc) (n : BitVec 16) (code : Word) (at' : BitVec 64) (data : BitVec 256) (s : State) :
    Host.Outcome State Fault Refusal :=
  let n := n.toNat
  let t := at'.toNat
  let badTime := fun (s : State) => t != 0 && (decide (t < s.now) || decide (s.now + 64000000000 < t))
  .next (s.descriptor d false false
    (s.strmChecks d n ++ [(decide (0xFFFF0000 ≤ code.toNat) || badTime s, St.BAD_ARGUMENT),
                          (!s.strmActive n, St.REFUSED_NOT_READY)])
    (fun s =>
      if t = 0 then s.ribbon n (ribbonItem code.toNat 1 d.ring.toNat s.now s.now data.toNat 0 (some d))
      else
        let l := s.cap.ribbons.takeWhile (fun r => decide (r.2.1 ≤ t))
        { s with cap := { s.cap with
          ribbons := l ++ (n, t, code.toNat, data.toNat, d) :: s.cap.ribbons.drop l.length } }))

/-- RIBBON_AT_TIME (R275): the earliest scheduled software ribbon's time is reached. -/
def execRibbonAtTime (s : State) : Host.Outcome State Fault Refusal :=
  match s.cap.ribbons with
  | [] => .next s
  | (n, t, code, data, d) :: r =>
    let s := ({ s with cap := { s.cap with ribbons := r } }).advanceTo t
    .next (s.ribbon n (ribbonItem code 1 d.ring.toNat t t data 0 (some d)))

/-- GRAPH_RIBBON_TOKEN (R276): the capture engine takes the token at the head of a stream's ribbon DQ. -/
def execGraphRibbonToken (n : BitVec 10) (s : State) : Host.Outcome State Fault Refusal :=
  let n := n.toNat
  let x := s.strm n
  match x.ribbonDq with
  | none => .next s
  | some q =>
    match (s.dq q).tokens with
    | [] => .next s
    | tok :: _ =>
      if (s.dq q).consumer ≠ 4 ∨ (s.dq q).unit ≠ n then .next s
      else
        let s := s.dqTake q 1
        let code := tok % 2 ^ 32
        let mark := (tok / 2 ^ 32) % 2 ^ 64
        let data := q + (tok / 2 ^ 96) % 2 ^ 224 * 2 ^ 32
        .next (if 0xFFFF0000 ≤ code then
            (s.cnt F.SECT_RIBBON_SUPPRESSED_value 1 x.sector).ev F.SECT_TRIG_EVENTS_ribbon_suppressed x.sector
          else s.ribbon n (ribbonItem code 2 (q % 65536) s.now (if mark = 0 then s.now else mark) data 0 none))

/-! ## Global lines (R269, R590) -/

/-- Schedule a line event for its time; events of one line in one slot merge at the earliest time (R269). -/
def State.lineAt (s : State) (line t : Nat) : State :=
  if s.trig.lines.any (fun e => e.1 == line && e.2 / 64 == t / 64) then
    let l := s.trig.lines.map (fun e => if e.1 = line ∧ e.2 / 64 = t / 64 then (line, Nat.min e.2 t) else e)
    ({ s with trig := { s.trig with lines := l } }).cnt F.GIO_TLINE_MERGES_value
  else { s with trig := { s.trig with lines := s.trig.lines ++ [(line, t)] } }

/-- A line is a ring line (R590). -/
def State.ringLine (s : State) (line : Nat) : Bool := bit (s.word Reg.BRY_LINE_SPAN).toNat line

/-- A local driver makes an event on a line with time E (R269): on a ring line it takes effect line_delay later and is
sent to the other devices (R590). -/
def State.lineDrive (s : State) (line e : Nat) : State :=
  if s.ringLine line then
    (s.sendRing Flit.LINE [line, e]).lineAt line (e + 64 * s.get F.BRY_LINE_DELAY_value)
  else s.lineAt line e

/-- A write of GIO.TLINEn (R269, R288). -/
def State.writeTline (s : State) (p : Path) (n : Nat) (v : Word) : State × Nat :=
  s.guardWrite p Reg.GIO_TLINE n 0 0 v false (fun s =>
    (s.when (bit v.toNat 31) (fun s => s.lineDrive n (s.now + triggerLatency)), St.OK))

/-- TLINE_PULSE (R269): a write of GIO.TLINEn with pulse set. -/
def execTlinePulse (p : Path) (n : BitVec 5) (s : State) : Host.Outcome State Fault Refusal :=
  .next (s.writeTline p n.toNat 0x80000000#32).1

/-- TRIG_PIN_EDGE (R270): an edge at a pin, time-stamped to one tick. The pin drives its line where its holder holds the
line (R269). -/
def execTrigPinEdge (pin : Nat) (rising : Bool) (t : BitVec 64) (s : State) : Host.Outcome State Fault Refusal :=
  if 192 ≤ pin then .fault .noSuchUnit
  else
    let e := s.get F.GIO_TRIG_PIN_edge pin
    let line := s.get F.GIO_TRIG_PIN_line pin
    if s.get F.GIO_PIN_CFG_function pin = 1 ∧ s.on F.GIO_TRIG_PIN_enable pin ∧
        s.get F.GIO_TRIG_PIN_dir pin = V.GIO_TRIG_PIN_dir_IN ∧ (e = 2 ∨ (e = 0) = rising) ∧
        Tbl.get 0 s.trigPinHolder pin = s.get F.GIO_TLINE_holder line then
      .next (s.lineDrive line (t.toNat / 8 * 8))
    else .next s

/-! ## Trigger points and gates (R263, R268, R304) -/

/-- The first trigger point of a WINDOW stream (R304): the ring stops turning, its sealed quires may drain, and
post_quires further quires are asked for. -/
def State.windowTrigger (s : State) (n t : Nat) : State :=
  if !s.strmActive n || s.get F.CAP_STREAM_STATUS_mode n != V.CAP_STREAM_STATUS_mode_WINDOW ||
      s.on F.CAP_STREAM_STATUS_triggered n then s
  else
    let s := (s.ev F.CAP_STREAM_STATUS_triggered n).setPair Reg.CAP_STREAM_TRIG_LO Reg.CAP_STREAM_TRIG_HI t n
    let x := s.strm n
    let s := s.setStrm n { x with trigMark := some t, ringStopped := true, next := none,
                                  post := s.get F.CAP_STREAM_POST_post_quires n }
    let deep := s.get F.CAP_STREAM_STATUS_tier n == V.CAP_STREAM_STATUS_tier_FRONT_DEEP
    let go := x.quires.filter (fun q => (s.quire q).state == Qr.SEALED)
    let s := if deep then
      ({ s with cap := { s.cap with drain := s.cap.drain ++ go } }).drainCount else s
    if 8192 < x.index then s.askQuire n else s

/-- GATE_OPEN of a stream (R268): the stored interval begins `pre` before the transition. -/
def State.gateOpen (s : State) (n t pre : Nat) : State :=
  if !s.strmActive n || !s.on F.CAP_STREAM_STATUS_filtering n then s
  else
    let x := s.strm n
    match x.gates.getLast? with
    | some (_, none) => s
    | some (b, some e) =>
      if t < e then s.setStrm n { x with gates := x.gates.dropLast ++ [(b, none)] }
      else s.setStrm n { x with gates := x.gates.filter (fun g => match g.2 with
        | some e => decide (t < e + 300000) | none => true) ++ [(t - pre, none)] }
    | none => s.setStrm n { x with gates := [(t - pre, none)] }

/-- GATE_CLOSE of a stream (R268): the stored interval ends `post` after the transition. -/
def State.gateClose (s : State) (n t post : Nat) : State :=
  let x := s.strm n
  match x.gates.getLast? with
  | some (b, none) => s.setStrm n { x with gates := x.gates.dropLast ++ [(b, some (t + post))] }
  | _ => s

/-- The target streams of a sequencer (R265). -/
def State.seqTargets (s : State) (i q : Nat) : List Nat :=
  if s.on F.SECT_SEQ_TARGET_all i q then
    (s.cap.streams.filter (fun p => s.strmActive p.1 && s.strmHolder p.1 == s.seqHolder i q &&
      p.2.members.any (fun y => y.lane / 32 == i))).map (fun p => p.1)
  else (if s.strmActive (s.get F.SECT_SEQ_TARGET_stream i q) then [s.get F.SECT_SEQ_TARGET_stream i q] else [])

/-- The active WINDOW streams that name a trigger: a sequencer, or a global line with `line`. -/
def State.windowsOf (s : State) (line : Bool) (u : Nat) : List Nat :=
  (s.cap.streams.filter (fun p => s.strmActive p.1 && p.2.trigger == some (line, u))).map (fun p => p.1)

/-! ## Slot evaluation (R259 to R266) -/

/-- The earliest time of a condition in a slot, for sequencer `q`: its events among those of the slot. -/
def condTime (evs : List TrigEvent) (slot q c : Nat) (neg : Bool) : Option Nat :=
  let ts := if c = 0x5D then [slot]
    else (evs.filter (fun e => e.cond == c && (if c == 0x5C then e.seq == q else e.seq == 0))).map (fun e => e.time)
  if neg then (if ts.isEmpty then some slot else none) else ts.min?

/-- The transition time of an arc and the condition that gave it (R262). -/
def State.arcTime (s : State) (evs : List TrigEvent) (slot i q k : Nat) : Option (Nat × Nat) :=
  let ca := s.get F.SECT_ARC_COND_cond_a i q k
  let cb := s.get F.SECT_ARC_COND_cond_b i q k
  let a := condTime evs slot q ca (s.on F.SECT_ARC_COND_neg_a i q k)
  let b := condTime evs slot q cb (s.on F.SECT_ARC_COND_neg_b i q k)
  match s.get F.SECT_ARC_COND_op i q k, a, b with
  | 0, some t, _ => some (t, ca)
  | 1, some t, some u => some (if t < u then (u, cb) else (t, ca))
  | 2, some t, some u => some (if u < t then (u, cb) else (t, ca))
  | 2, some t, none => some (t, ca)
  | 2, none, some u => some (u, cb)
  | _, _, _ => none

/-- One counter's update in a slot (R261): the events of the slot with those of counters reached, and the state. -/
def State.counterSlot (s : State) (evs : List TrigEvent) (slot i c : Nat) : State × List TrigEvent :=
  if !s.on F.SECT_CNT_CFG_enable i c then (s, evs)
  else
    let v := s.get F.SECT_CNT_VALUE_value i c
    let base := if s.trig.clrs.contains (16 * i + c) then 0 else v
    let src := s.get F.SECT_CNT_CFG_source i c
    let n := if src = 0x5D then 1 else (evs.filter (fun e => e.cond == src && (e.seq == 0 || e.seq == c + 1))).length
    let add := match s.get F.SECT_CNT_CFG_mode i c with
      | 0 => n
      | 1 => Nat.min n 1
      | _ => 1
    let new := satNat 32 (base + add + Tbl.get 0 s.trig.incs (16 * i + c))
    let s := s.put F.SECT_CNT_VALUE_value new i c
    let cmp := s.get F.SECT_CNT_COMPARE_value i c
    if base < cmp ∧ cmp ≤ new then
      let up := (upTo (c + 1)).filter (fun d => s.on F.SECT_CNT_CFG_enable i d &&
        s.get F.SECT_CNT_CFG_source i d == 0x20 + c)
      let s := s.each up (fun s d => s.trigEvent { sector := i, cond := 0x20 + c, time := slot + 64, seq := d + 1 })
      let s := { s with trig := { s.trig with
        autoClr := if s.on F.SECT_CNT_CFG_auto_clear i c then s.trig.autoClr ++ [16 * i + c] else s.trig.autoClr } }
      (s, evs ++ [{ sector := i, cond := 0x20 + c, time := slot }])
    else (s, evs)

/-- The lane-in-bundle of the member of a stream that a condition's match unit watches. -/
def State.condMember (s : State) (n i c : Nat) : Nat :=
  if c < 0x20 then
    let l := 32 * i + s.get F.SECT_MATCH_CFG_lane i c
    ((upTo 16).find? (fun m => decide (m < (s.strm n).members.length) && ((s.strm n).member m).lane == l)).getD 0
  else 0

/-- The RIBBON action (R264, R273, R274). -/
def State.ribbonAction (s : State) (i q k from' to' t c word : Nat) : State :=
  let u := 4 * i + q
  let last := Tbl.get 0 s.trig.lastRibbon u
  if 0 < last ∧ t < last - 1 + 1024 then
    (s.cnt F.SECT_RIBBON_SUPPRESSED_value 1 i).ev F.SECT_TRIG_EVENTS_ribbon_suppressed i
  else
    let s := { s with trig := { s.trig with lastRibbon := Tbl.set 0 u (t + 1) s.trig.lastRibbon } }
    let data := pack [(0, from'), (1, to'), (2, k % 2), (3, c), (4, word)]
    s.each (s.seqTargets i q) (fun s n =>
      s.ribbon n (ribbonItem (s.word Reg.SECT_ARC_CODE i q k).toNat 0 u t t data (s.condMember n i c) none))

/-- A final state is entered (R263). -/
def State.enterFinal (s : State) (i q st t : Nat) : State :=
  let u := 4 * i + q
  let s := s.cntWrap F.SECT_SEQ_STATUS_fire_count 1 i q
  let s := s.trigEvent { sector := i, cond := 0x50 + q, time := t + triggerLatency }
  let wins := s.windowsOf false u
  let tgt := s.seqTargets i q
  let tokens := (tgt ++ wins.filter (fun n => !tgt.contains n)).map (fun n => (n, t, u + 256 * st))
  let s := { s with cap := { s.cap with tokens := s.cap.tokens ++ tokens } }
  s.each wins (fun s n => s.windowTrigger n t)

/-- A sequencer takes arc `k` (R262 to R264): all but its gate actions, which R265 orders. -/
def State.takeArc (s : State) (evs : List TrigEvent) (i q k t c : Nat) : State :=
  let from' := s.get F.SECT_SEQ_STATUS_state i q
  let to' := s.get F.SECT_ARC_COND_target i q k
  let word := if c < 0x20 ∧ s.get F.SECT_MATCH_CFG_kind i c = 0 then
      match evs.find? (fun e => e.cond == c && e.time == t) with | some e => e.word | none => 0
    else 0
  let s := s.put F.SECT_SEQ_STATUS_state to' i q
  let s := s.when (s.on F.SECT_ARC_ACTION_ribbon i q k) (fun s => s.ribbonAction i q k from' to' t c word)
  let s := s.when (s.on F.SECT_ARC_ACTION_line_en i q k) (fun s =>
    s.lineDrive (s.get F.SECT_ARC_ACTION_line i q k) (t + triggerLatency))
  let s := s.when (s.on F.SECT_ARC_ACTION_press_en i q k) (fun s =>
    let l := 32 * i + s.get F.SECT_ARC_ACTION_press_lane i q k
    let e : PressEvent := { source := 0, value := 4 * i + q, time := t + triggerLatency }
    s.setPrs l { s.prs l with due := insertEvent e (s.prs l).due })
  let s := s.when (s.on F.SECT_ARC_ACTION_inc_en i q k) (fun s =>
    let u := 16 * i + s.get F.SECT_ARC_ACTION_inc_cnt i q k
    { s with trig := { s.trig with incs := Tbl.upd 0 u (· + 1) s.trig.incs } })
  let s := s.when (s.on F.SECT_ARC_ACTION_clr_en i q k) (fun s =>
    { s with trig := { s.trig with clrs := s.trig.clrs ++ [16 * i + s.get F.SECT_ARC_ACTION_clr_cnt i q k] } })
  if bit (s.get F.SECT_SEQ_CTRL_final_mask i q) to' then s.enterFinal i q to' t else s

/-- SLOT_EVALUATION (R259, R261, R262, R265): the slot of a sector that begins at a multiple of 64 LSB, evaluated 129 ns
later: its counters in ascending order, then its armed sequencers. -/
def execSlotEvaluation (sect : BitVec 4) (slot : BitVec 64) (s : State) : Host.Outcome State Fault Refusal :=
  let i := sect.toNat
  let t0 := slot.toNat / 64 * 64
  if t0 < Tbl.get 0 s.trig.slot i then .next s
  else
    let s := s.advanceTo (t0 + 8256)
    let mine := s.trig.events.filter (fun e => e.sector == i && decide (e.time < t0 + 64))
    let s := { s with trig := { s.trig with
      events := s.trig.events.filter (fun e => !(e.sector == i && decide (e.time < t0 + 64))),
      slot := Tbl.set 0 i (t0 + 64) s.trig.slot } }
    let late := (mine.filter (fun e => decide (e.time < t0))).length
    let s := s.when (decide (0 < late)) (fun s =>
      (s.cnt F.SECT_TRIG_LATE_value late i).ev F.SECT_TRIG_EVENTS_late i)
    let evs := mine.map (fun (e : TrigEvent) => if e.time < t0 then { e with time := t0 } else e)
    let (s, evs) := (upTo 16).foldl (fun (a : State × List TrigEvent) c => a.1.counterSlot a.2 t0 i c) (s, evs)
    let own := fun (u : Nat) => u / 16 == i
    let s := { s with trig := { s.trig with
      incs := s.trig.incs.filter (fun p => !own p.1),
      clrs := s.trig.clrs.filter (fun u => !own u) ++ s.trig.autoClr.filter own,
      autoClr := s.trig.autoClr.filter (fun u => !own u) } }
    let taken := (upTo 4).filterMap (fun q =>
      if !s.armed i q then none
      else
        let st := s.get F.SECT_SEQ_STATUS_state i q
        (upTo 2).findSome? (fun a =>
          let k := 2 * st + a
          if s.on F.SECT_ARC_COND_enable i q k then (s.arcTime evs t0 i q k).map (fun r => (q, k, r)) else none))
    let s := s.each taken (fun s (q, k, t, c) => s.takeArc evs i q k t c)
    let s := s.each taken (fun s (q, k, t, _) =>
      s.when (s.on F.SECT_ARC_ACTION_gate_close i q k) (fun s =>
        s.each (s.seqTargets i q) (fun s n => s.gateClose n t (8 * s.get F.SECT_ARC_ARG_ticks i q k))))
    .next (s.each taken (fun s (q, k, t, _) =>
      s.when (s.on F.SECT_ARC_ACTION_gate_open i q k) (fun s =>
        s.each (s.seqTargets i q) (fun s n => s.gateOpen n t (8 * s.get F.SECT_ARC_ARG_ticks i q k)))))

/-- TRIGGER_TOKEN_POST (R263, R20): the oldest TRIGGER event due posts its token. -/
def execTriggerTokenPost (s : State) : Host.Outcome State Fault Refusal :=
  match s.cap.tokens with
  | [] => .next s
  | (n, t, u) :: r => .next (({ s with cap := { s.cap with tokens := r } }).event n 1 t u)

/-- LINE_EVENT (R269, R270, R351, R654): the earliest event due on a line takes effect at its time: every sector's
sequencers, the presses that take the line, the WINDOW streams it triggers, output pins, and halt groups 20 ns later. -/
def execLineEvent (line : BitVec 5) (s : State) : Host.Outcome State Fault Refusal :=
  let g := line.toNat
  match ((s.trig.lines.filter (fun e => e.1 == g)).map (fun e => e.2)).min? with
  | none => .next s
  | some t =>
    let s := ({ s with trig := { s.trig with lines := s.trig.lines.erase (g, t) } }).advanceTo t
    let s := s.cntWrap F.GIO_TLINE_event_count 1 g
    let s := s.each (upTo 16) (fun s i => s.trigEvent { sector := i, cond := 0x30 + g, time := t })
    let ls := (upTo 512).filter (fun l => s.on F.PRS_LANE_CFG_line_en l && s.get F.PRS_LANE_CFG_line l == g)
    let s := s.each ls (fun s l => s.pressQueue l { source := 1, value := g, time := t })
    let s := s.each (s.windowsOf true g) (fun s n => s.windowTrigger n t)
    let ps := (upTo 192).filter (fun p => s.get F.GIO_PIN_CFG_function p == 1 && s.on F.GIO_TRIG_PIN_enable p &&
      s.get F.GIO_TRIG_PIN_dir p == V.GIO_TRIG_PIN_dir_OUT && s.get F.GIO_TRIG_PIN_line p == g)
    let s := s.each ps (fun s p => (s.send (.pin p true)).send (.pin p false))
    let gs := (upTo 8).filter (fun k => s.on F.DBG_GROUP_CFG_in_en k && s.get F.DBG_GROUP_CFG_in_line k == g)
    .next { s with dbg := { s.dbg with halts := s.dbg.halts ++ gs.map (fun k => (k, t + 1280)) } }

/-! ## Taps and injected conditions (R271, R272) -/

/-- The state RUNNING of a section (R151). -/
abbrev Sec.RUNNING : Nat := 5

/-- TAP_BEAT (R271): a tap delivers one beat of `nbits` bits, or discards it. -/
def execTapBeat (sect : BitVec 4) (tap : BitVec 2) (data : BitVec 128) (nbits : BitVec 8) (t : BitVec 64) (gap : Bool)
    (s : State) : Host.Outcome State Fault Refusal :=
  let i := sect.toNat
  let k := tap.toNat
  if !s.on F.SECT_TAP_CFG_enable i k then .next s
  else if s.get F.FAB_SECT_STATUS_state (16 * i) = Sec.RUNNING ∧
      s.get F.FAB_SECT_STATUS_holder (16 * i) = s.seqHolder i k then
    .next (s.send (.tapBeat i k (data.toNat % 2 ^ nbits.toNat) nbits.toNat t.toNat gap))
  else .next ((s.cnt F.SECT_TAP_DISCARDS_value 1 i).ev F.SECT_TRIG_EVENTS_tap_discard i)

/-- INJ_EVENT (R272): a pulse on INJn with a timestamp; one in the future is replaced and counted as late. -/
def execInjEvent (sect : BitVec 4) (n : BitVec 3) (t : BitVec 64) (s : State) : Host.Outcome State Fault Refusal :=
  let i := sect.toNat
  if s.get F.FAB_SECT_STATUS_state (16 * i) ≠ Sec.RUNNING then .next s
  else if s.now < t.toNat then
    let s := (s.cnt F.SECT_TRIG_LATE_value 1 i).ev F.SECT_TRIG_EVENTS_late i
    .next (s.trigEvent { sector := i, cond := 0x54 + n.toNat, time := s.now })
  else .next (s.trigEvent { sector := i, cond := 0x54 + n.toNat, time := t.toNat })

end Sys2Proof.Machine
end

