-- ==== Sys2Proof/Machine/Sewing.lean ====
section
/-! DEFINITION. Machine/Sewing.lean: the sewing frame: pool, queues, ops, decisions, tasks (spec/17, R459 to R486). -/
namespace Sys2Proof.Machine

/-! Op states (R467) and task phases. -/
abbrev OpSt.FREE : Nat := 0
abbrev OpSt.STOPPED : Nat := 1
abbrev OpSt.RUNNING : Nat := 2
abbrev OpSt.QUIESCING : Nat := 3
abbrev OpSt.MIGRATING : Nat := 4
abbrev Phase.FREE : Nat := 0
abbrev Phase.READY : Nat := 1
abbrev Phase.GRANTED : Nat := 2
abbrev Phase.DONE : Nat := 3

/-- A command of the sewing frame ends: its trace records are written (R479). -/
def swfNext (s : State) : Host.Outcome State Fault Refusal := .next s.flushTrace

/-- The sewing frame is enabled (R459). -/
def State.swfOn (s : State) : Bool := decide (0 < s.get F.SWF_POOL_CFG_pool_quires)

/-- The token places of the pool (R459). -/
def State.poolPlaces (s : State) : Nat :=
  let n := s.get F.SWF_POOL_CFG_pool_quires
  if n = 0 then 0 else 262144 + (n - 1) * 1048576

/-- The depth reserved by the DQs of a tenant. -/
def State.reservedDepth (s : State) (t : Nat) : Nat :=
  ((s.swf.dq.filter (fun p => p.2.alloc && s.dqHolder p.1 == t)).map (fun p => p.2.depth)).sum

/-- The depth reserved by every DQ. -/
def State.allDepth (s : State) : Nat := ((s.swf.dq.filter (fun p => p.2.alloc)).map (fun p => p.2.depth)).sum

/-- The tasks in flight of an op. -/
def State.opTasks (s : State) (o : Nat) : Nat := (s.swf.tasks.filter (fun p => p.2.phase != 0 && p.2.op == o)).length

/-! ## Registers (R460, R482 to R486) -/

/-- The mark of a front slot held by the token pool in `frontUsed`. -/
abbrev poolMark : Nat := 1048576

/-- Take front slots for the pool. -/
def State.takePool (s : State) (n : Nat) : State :=
  let s := s.each (upTo n) (fun s _ => match s.freeSlot with
    | (some f, s) => { s with cap := { s.cap with frontUsed := Tbl.set 0 f poolMark s.cap.frontUsed } }
    | (none, s) => s)
  s.put F.CAP_STATUS_front_free (s.frontFree - n)

/-- Return front slots of the pool. -/
def State.returnPool (s : State) (n : Nat) : State :=
  let fs := ((s.cap.frontUsed.filter (fun p => p.2 == poolMark)).map (fun p => p.1)).take n
  s.each fs (fun s f => s.freeFront f)

/-- A write of SWF.POOL_CFG (R460). -/
def State.writePoolCfg (s : State) (p : Path) (v : Word) : State × Nat :=
  s.guardWrite p Reg.SWF_POOL_CFG 0 0 0 v (decide (512 < bits v.toNat 9 0)) (fun s =>
    let old := s.get F.SWF_POOL_CFG_pool_quires
    let new := bits v.toNat 9 0
    if s.swf.ops.any (fun p => p.2.state != 0) || s.swf.dq.any (fun p => p.2.alloc) ||
        decide (s.frontFree + old < new) then
      refuseWrite s p St.REFUSED_BUSY (fun s => s.ev F.SWF_EVENTS_wr_refused)
    else
      let s := if old < new then s.takePool (new - old) else s.returnPool (old - new)
      ((s.put F.SWF_POOL_CFG_pool_quires new).put F.SWF_STATUS_enabled (b2n (decide (0 < new))), St.OK))

/-- POOL_CFG_WRITE (R460). -/
def execPoolCfgWrite (p : Path) (v : Word) (s : State) : Host.Outcome State Fault Refusal := .next (s.writePoolCfg p v).1

/-- A write of SWF.TENANT_TOKQ, or TENANT_CACHE with `cache` (R486). -/
def State.writeTenantSwf (s : State) (p : Path) (cache : Bool) (t : Nat) (v : Word) : State × Nat :=
  let r := if cache then Reg.SWF_TENANT_CACHE else Reg.SWF_TENANT_TOKQ
  let n := if cache then bits v.toNat 8 0 else bits v.toNat 13 0
  s.guardWrite p r t 0 0 v (decide ((if cache then 256 else 8192) < n)) (fun s =>
    let bad := if cache then
        decide (256 < (((upTo 256).filter (fun u => u != t)).map (fun u => s.get F.SWF_TENANT_CACHE_cache_min u)).sum + n)
      else decide (n * 65536 < s.reservedDepth t)
    if bad then refuseWrite s p St.REFUSED_BUSY (fun s => s.ev F.SWF_EVENTS_wr_refused)
    else (s.applyWrite p r t 0 0 v, St.OK))

/-- A write of SWF.TRACE_CFG: mask bits 12 to 15 are reserved encodings (R480, R485). -/
def State.writeTraceCfg (s : State) (p : Path) (v : Word) : State × Nat :=
  s.guardWrite p Reg.SWF_TRACE_CFG 0 0 0 v (bits v.toNat 15 12 != 0) (fun s =>
    (s.applyWrite p Reg.SWF_TRACE_CFG 0 0 0 v, St.OK))

/-- The 32 bytes of a DQ record (R483). -/
def State.dqBytes (s : State) (q : Nat) : List Nat :=
  let d := s.dq q
  (leBytes 32 (pack [(0, b2n d.alloc), (1, s.dqHolder q), (2, d.consumer), (3, b2n (s.swf.cache.contains q)),
    (4, if d.consumer = 1 then d.unit else 0), (8, d.depth), (12, d.tokens.length), (16, d.reserved),
    (20, d.discards)])).map BitVec.toNat

/-- The 64 bytes of an op record (R466). -/
def State.opBytes (s : State) (o : Nat) : List Nat :=
  let x := s.op o
  let ent := fun (l : List (Nat × Nat)) (base : Nat) =>
    (upTo l.length).map (fun i => let e := (l[i]?).getD (0, 0); (base + 4 * i, e.1 + e.2 * 2 ^ 20))
  (leBytes 64 (pack ([(0, x.state), (1, s.opHolder o),
    (2, b2n x.ordered + 2 * b2n x.fireAny + 4 * b2n x.err.isSome), (3, x.cls * 16 + x.prio), (4, x.maxInflight),
    (5, x.ins.length), (6, x.outs.length), (40, x.err.getD 0), (44, x.arg), (48, x.seq)] ++
    ent x.ins 8 ++ ent x.outs 24))).map BitVec.toNat

/-! ## Queues (R463, R570) -/

/-- The checks of a descriptor that names a DQ. -/
def State.dqChecks (s : State) (d : Desc) (q : Nat) (more : Bool) : List (Bool × Nat) :=
  [(decide (q < 1048576) && s.dqHolder q != d.tenant.toNat, St.REFUSED_NOT_OWNER),
   (decide (1048576 ≤ q) || more, St.BAD_ARGUMENT)]

/-- A DQ is held back from a DQ_CONFIG (R463). -/
def State.dqBusy (s : State) (q : Nat) : Bool :=
  let x := s.dq q
  x.alloc && (!x.tokens.isEmpty || x.reserved != 0 || (x.consumer == 1 && (s.op x.unit).state != OpSt.STOPPED))

/-- DQ_CONFIG (R463) without release: `consumer` 0 NONE, 2 HOST. -/
def execDqConfig (d : Desc) (q depth : Word) (consumer : BitVec 8) (s : State) : Host.Outcome State Fault Refusal :=
  let q := q.toNat
  let n := depth.toNat
  let t := d.tenant.toNat
  let x := s.dq q
  let old := if x.alloc then x.depth else 0
  swfNext (s.descriptor d false false
    (s.dqChecks d q (n == 0 || decide (65536 < n) || (consumer != 0 && consumer != 2)) ++
     [(consumer == 2 && x.consumer != 0 && x.consumer != 2, St.MODE_CONFLICT),
      (!s.swfOn, St.REFUSED_NOT_READY), (s.dqBusy q, St.REFUSED_BUSY),
      (decide (s.get F.SWF_TENANT_TOKQ_token_quota t * 65536 < s.reservedDepth t - old + n) ||
        decide (s.poolPlaces < s.allDepth - old + n), St.QUOTA)])
    (fun s =>
      let c := if consumer = 2 then 2 else if x.consumer = 2 then 0 else x.consumer
      let s := s.setDq q { x with alloc := true, depth := n, consumer := c }
      let s := if x.alloc then s else s.cacheDq q
      s.ok d))

/-- DQ_RELEASE (R463): DQ_CONFIG with release = 1. -/
def execDqRelease (d : Desc) (q : Word) (s : State) : Host.Outcome State Fault Refusal :=
  let q := q.toNat
  swfNext (s.descriptor d false false
    (s.dqChecks d q false ++ [(!s.swfOn, St.REFUSED_NOT_READY), (s.dqBusy q, St.REFUSED_BUSY)])
    (fun s =>
      let s := (s.setDq q {})
      ({ s with swf := { s.swf with cache := s.swf.cache.erase q } }).ok d))

/-- TOKEN_PUT (R465, R570): tokens read from the host are appended in order while places are free. -/
def execTokenPut (d : Desc) (q : Word) (tokens : List (BitVec 512)) (s : State) : Host.Outcome State Fault Refusal :=
  let q := q.toNat
  let n := tokens.length
  let free := (s.dq q).free
  swfNext (s.descriptor d false false
    (s.dqChecks d q (!d.readFail && (n == 0 || decide (64 < n))) ++
     [(!s.swfOn || !(s.dq q).alloc, St.REFUSED_NOT_READY), (free == 0, St.REFUSED_BUSY)])
    (fun s =>
      if d.readFail then s.readFailed d else
      let s := s.each (tokens.take free) (fun s k => s.dqAppend q k.toNat)
      if n ≤ free then s.ok d n else s.complete d St.PARTIAL free))

/-- TOKEN_GET (R570): up to `max` tokens of a HOST-consumed DQ go to the buffer. -/
def execTokenGet (d : Desc) (q : Word) (buffer : BitVec 64) (max : BitVec 16) (s : State) :
    Host.Outcome State Fault Refusal :=
  let q := q.toNat
  let m := max.toNat
  let x := s.dq q
  swfNext (s.descriptor d false false
    (s.dqChecks d q (m == 0 || decide (64 < m)) ++
     [(x.alloc && x.consumer != 2, St.MODE_CONFLICT), (!s.swfOn || !x.alloc, St.REFUSED_NOT_READY)])
    (fun s =>
      let got := x.tokens.take m
      let bytes := got.flatMap (fun k => (leBytes 64 k).map BitVec.toNat)
      let s := if got.isEmpty then s else s.hostWrite d.tenant.toNat buffer.toNat bytes
      (s.dqTake q got.length).ok d got.length))

/-- TOKEN_ARRIVAL (R464, R465): an unreserved token of a source arrives at a DQ. -/
def execTokenArrival (q : BitVec 20) (token : BitVec 512) (source : BitVec 16) (s : State) :
    Host.Outcome State Fault Refusal :=
  swfNext (s.dqPost q.toNat token.toNat source.toNat).1

/-- QUEUE_FETCH_DONE (R462, R469): the fetch of a DQ completes; the ops that started it become pending. -/
def execQueueFetchDone (q : BitVec 20) (s : State) : Host.Outcome State Fault Refusal :=
  let q := q.toNat
  let mine := s.swf.fetching.filter (fun f => f.1 == q)
  if mine.isEmpty then .next s
  else
    let s := { s with swf := { s.swf with fetching := s.swf.fetching.filter (fun f => f.1 != q) } }
    let s := if (s.dq q).alloc then
      (s.cacheDq q).swfTrace Trace.FILL (s.dqHolder q) 0 0 q (Nat.min 8 (s.dq q).tokens.length) else s
    swfNext (s.each mine (fun s f => s.pend f.2))

/-! ## Ops (R466, R467, R476) -/

/-- Byte `i` of the op record a descriptor carries (bytes 2 to 47). -/
def recByte (r : BitVec 368) (i : Nat) : Nat := (r.toNat >>> (8 * (i - 2))) % 256

/-- The 4-byte entry at byte `i`. -/
def recWord (r : BitVec 368) (i : Nat) : Nat := (r.toNat >>> (8 * (i - 2))) % 2 ^ 32

/-- The entries of a list of four: (DQ, count). -/
def recEntries (r : BitVec 368) (base n : Nat) : List (Nat × Nat) :=
  (upTo n).map (fun i => let w := recWord r (base + 4 * i); (bits w 19 0, bits w 24 20))

/-- A field of the record that must be zero is not (R466). -/
def recReserved (r : BitVec 368) : Bool :=
  bits (recByte r 2) 7 3 != 0 || bit (recByte r 3) 3 || recByte r 7 != 0 ||
    (upTo 8).any (fun i => bits (recWord r (8 + 4 * i)) 31 25 != 0) || bits (recWord r 40) 31 20 != 0

/-- A value of the record is out of range (R466). -/
def recBad (r : BitVec 368) : Bool :=
  let ni := recByte r 5
  let no := recByte r 6
  let ins := recEntries r 8 ni
  let outs := recEntries r 24 no
  let f := recByte r 4
  f == 0 || decide (64 < f) || ni == 0 || decide (4 < ni) || decide (4 < no) ||
    ins.any (fun e => e.2 == 0 || decide (16 < e.2)) || outs.any (fun e => decide (16 < e.2)) ||
    decide (16 < (ins.map (fun e => e.2)).sum) || decide (16 < (outs.map (fun e => e.2)).sum) ||
    (upTo 4).any (fun i => decide (ni ≤ i) && recWord r (8 + 4 * i) != 0) ||
    (upTo 4).any (fun i => decide (no ≤ i) && recWord r (24 + 4 * i) != 0) ||
    !(ins.map (fun e => e.1)).Nodup

/-- The DQs a record names. -/
def recDqs (r : BitVec 368) : List Nat :=
  (recEntries r 8 (Nat.min 4 (recByte r 5)) ++ recEntries r 24 (Nat.min 4 (recByte r 6))).map (fun e => e.1) ++
    (if bit (recByte r 2) 2 then [bits (recWord r 40) 19 0] else [])

/-- The checks of a descriptor that names an op. -/
def State.opChecks (s : State) (d : Desc) (o : Nat) (more : Bool) : List (Bool × Nat) :=
  [(decide (o < 262144) && s.opHolder o != d.tenant.toNat, St.REFUSED_NOT_OWNER),
   (decide (262144 ≤ o) || more, St.BAD_ARGUMENT), (!s.swfOn, St.REFUSED_NOT_READY)]

/-- An op is in use (R467). -/
def Op.inUse (x : Op) : Bool := x.state == OpSt.RUNNING || x.state == OpSt.QUIESCING || x.state == OpSt.MIGRATING

/-- Clear the consumer links of an op's inputs. -/
def State.unlinkOp (s : State) (o : Nat) : State :=
  s.each (s.op o).ins (fun s e =>
    let x := s.dq e.1
    if x.consumer = 1 ∧ x.unit = o then s.setDq e.1 { x with consumer := 0, unit := 0 } else s)

/-- OP_DEFINE (R466): bytes 2 to 47 of the record. -/
def execOpDefine (d : Desc) (o : Word) (r : BitVec 368) (s : State) : Host.Outcome State Fault Refusal :=
  let o := o.toNat
  let t := d.tenant.toNat
  let ins := recEntries r 8 (Nat.min 4 (recByte r 5))
  let dqs := recDqs r
  swfNext (s.descriptor d false false
    [(recReserved r, St.RESERVED_FIELD_SET),
     ((decide (o < 262144) && s.opHolder o != t) || dqs.any (fun q => s.dqHolder q != t), St.REFUSED_NOT_OWNER),
     (decide (262144 ≤ o) || recBad r, St.BAD_ARGUMENT),
     (ins.any (fun e => (s.dq e.1).consumer != 0 && !((s.dq e.1).consumer == 1 && (s.dq e.1).unit == o)),
      St.MODE_CONFLICT),
     (!s.swfOn || dqs.any (fun q => !(s.dq q).alloc), St.REFUSED_NOT_READY), ((s.op o).inUse, St.REFUSED_BUSY)]
    (fun s =>
      let s := s.unlinkOp o
      let x : Op :=
        { state := OpSt.STOPPED, ordered := bit (recByte r 2) 0, fireAny := bit (recByte r 2) 1,
          err := if bit (recByte r 2) 2 then some (bits (recWord r 40) 19 0) else none, cls := recByte r 3 / 16,
          prio := recByte r 3 % 8, maxInflight := recByte r 4, ins := ins,
          outs := recEntries r 24 (recByte r 6), arg := recWord r 44 }
      let s := s.setOp o x
      (s.each ins (fun s e => s.setDq e.1 { s.dq e.1 with consumer := 1, unit := o })).ok d))

/-- OP_ENABLE (R467). -/
def execOpEnable (d : Desc) (o : Word) (s : State) : Host.Outcome State Fault Refusal :=
  let o := o.toNat
  swfNext (s.descriptor d false false
    (s.opChecks d o false ++ [((s.op o).state == OpSt.FREE, St.REFUSED_NOT_READY), ((s.op o).inUse, St.REFUSED_BUSY)])
    (fun s =>
      ((s.setOp o { s.op o with state := OpSt.RUNNING, seq := 0, commit := 0, passed := [] }).pend o).ok d))

/-- The state of an op without tasks in flight moves on (R467). -/
def State.opQuiesce (s : State) (o : Nat) : State :=
  let x := s.op o
  if s.opTasks o ≠ 0 then s
  else if x.state = OpSt.QUIESCING then s.setOp o { x with state := OpSt.STOPPED }
  else if x.state = OpSt.MIGRATING then
    let (c, p) := x.migrate.getD (x.cls, x.prio)
    (s.setOp o { x with state := OpSt.RUNNING, cls := c, prio := p, migrate := none }).pend o
  else s

/-- OP_STOP (R467). -/
def execOpStop (d : Desc) (o : Word) (s : State) : Host.Outcome State Fault Refusal :=
  let o := o.toNat
  swfNext (s.descriptor d false false
    (s.opChecks d o false ++ [((s.op o).state != OpSt.RUNNING, St.REFUSED_NOT_READY)])
    (fun s => ((s.setOp o { s.op o with state := OpSt.QUIESCING }).opQuiesce o).ok d))

/-- OP_FREE (R467). -/
def execOpFree (d : Desc) (o : Word) (s : State) : Host.Outcome State Fault Refusal :=
  let o := o.toNat
  swfNext (s.descriptor d false false
    (s.opChecks d o false ++ [((s.op o).state == OpSt.FREE, St.REFUSED_NOT_READY), ((s.op o).inUse, St.REFUSED_BUSY)])
    (fun s => ((s.unlinkOp o).setOp o {}).ok d))

/-- Record the ready tasks of a pool (R482). -/
def State.countReady (s : State) (pool : Nat) : State :=
  s.put F.SWF_POOL_READY_value (s.swf.tasks.filter (fun p =>
    p.2.phase == Phase.READY && 16 * s.opHolder p.2.op + p.2.cls == pool)).length pool

/-- The new class and priority of an OP_MIGRATE: `set` bit 0 sets the class, bit 1 the priority. -/
def Op.newSettings (x : Op) (cls prio : Nat) (set : Nat) : Nat × Nat :=
  (if bit set 0 then cls else x.cls, if bit set 1 then prio else x.prio)

/-- The checks of OP_MIGRATE (R476, R481). -/
def State.migrateChecks (s : State) (d : Desc) (o cls prio set : Nat) : List (Bool × Nat) :=
  s.opChecks d o ((bit set 0 && decide (15 < cls)) || (bit set 1 && decide (7 < prio))) ++
    [((s.op o).state != OpSt.RUNNING, St.REFUSED_NOT_READY)]

/-- OP_MIGRATE_LIVE (R476): the change takes effect at acceptance; ready tasks move. -/
def execOpMigrateLive (d : Desc) (o : Word) (cls prio : BitVec 8) (set : BitVec 2) (s : State) :
    Host.Outcome State Fault Refusal :=
  let o := o.toNat
  swfNext (s.descriptor d false false (s.migrateChecks d o cls.toNat prio.toNat set.toNat)
    (fun s =>
      let x := s.op o
      let (c, p) := x.newSettings cls.toNat prio.toNat set.toNat
      let s := s.setOp o { x with cls := c, prio := p }
      let s := { s with swf := { s.swf with tasks := s.swf.tasks.map (fun (k : Nat × Task) =>
        if k.2.phase == Phase.READY && k.2.op == o then (k.1, { k.2 with cls := c, prio := p }) else k) } }
      let t := s.opHolder o
      let s := (s.countReady (16 * t + x.cls)).countReady (16 * t + c)
      (s.swfTrace Trace.MIGRATE t o 0 0 (c + 16 * p)).ok d))

/-- OP_MIGRATE_DRAIN (R476): the op enters MIGRATING until no task is in flight. -/
def execOpMigrateDrain (d : Desc) (o : Word) (cls prio : BitVec 8) (set : BitVec 2) (s : State) :
    Host.Outcome State Fault Refusal :=
  let o := o.toNat
  swfNext (s.descriptor d false false (s.migrateChecks d o cls.toNat prio.toNat set.toNat)
    (fun s =>
      let x := s.op o
      let (c, p) := x.newSettings cls.toNat prio.toNat set.toNat
      let s := s.setOp o { x with state := OpSt.MIGRATING, migrate := some (c, p) }
      let s := s.swfTrace Trace.MIGRATE (s.opHolder o) o 0 0 (c + 16 * p + 256)
      (s.opQuiesce o).ok d))

/-! ## Decisions and firing (R468 to R470) -/

/-- The inputs an op would take from in a firing (R468): none when it is not fireable for want of tokens. -/
def State.takes (s : State) (x : Op) : Option (List Nat) :=
  let has := x.ins.map (fun e => decide (e.2 ≤ (s.dq e.1).tokens.length))
  let ok := if x.fireAny then has.any id else has.all id
  if ok then some ((has.zip x.ins).map (fun p => if p.1 then p.2.2 else 0)) else none

/-- A free task slot, which the spec leaves open. -/
def State.taskSlot (s : State) : Option Nat × State :=
  let (v, s) := s.fresh
  ((findFrom (fun k => (s.task (k % 65536)).phase == 0) 65536 (v % 65536)).map (· % 65536), s)

/-- An op is fireable (R468), its tenant not halted (R651). -/
def State.fireable (s : State) (o : Nat) : Bool :=
  let x := s.op o
  let t := s.opHolder o
  x.state == OpSt.RUNNING && (s.takes x).isSome && x.outs.all (fun e => decide (e.2 ≤ (s.dq e.1).free)) &&
    decide (s.opTasks o < x.maxInflight) &&
    decide (s.get F.SWF_TENANT_STATUS_in_flight t < s.get F.SWF_TENANT_CFG_max_tasks t) &&
    decide (s.get F.SWF_STATUS_in_flight < 65536) && !s.haltedBy 3 t

/-- Change the counts of tasks in flight. -/
def State.inFlight (s : State) (t : Nat) (up : Bool) : State :=
  let f := fun (n : Nat) => if up then n + 1 else n - 1
  (s.put F.SWF_STATUS_in_flight (f (s.get F.SWF_STATUS_in_flight))).put F.SWF_TENANT_STATUS_in_flight
    (f (s.get F.SWF_TENANT_STATUS_in_flight t)) t

/-- The handle of a task (R472). -/
def Task.handle (k : Task) (slot : Nat) : Nat := k.gen * 65536 + slot

/-- Fire an op (R468). -/
def State.fire (s : State) (o : Nat) : State :=
  let x := s.op o
  let t := s.opHolder o
  match s.takes x, s.taskSlot with
  | some ns, (some slot, s) =>
    let toks := (x.ins.zip ns).flatMap (fun p => (s.dq p.1.1).tokens.take p.2)
    let s := s.each x.outs (fun s e => s.setDq e.1 { s.dq e.1 with reserved := (s.dq e.1).reserved + e.2 })
    let s := s.each (x.ins.zip ns) (fun s p => if p.2 = 0 then s else s.dqTake p.1.1 p.2)
    let k : Task :=
      { phase := Phase.READY, gen := (s.task slot).gen, op := o, seq := x.seq, fired := s.now / 8 * 8, cls := x.cls,
        prio := x.prio, taken := ns, places := x.outs.map (fun e => e.2), tokens := toks, order := (s.swf.fired : Int) }
    let s := (s.setTask slot k).setOp o { x with seq := (x.seq + 1) % 2 ^ 64 }
    let s := { s with swf := { s.swf with fired := s.swf.fired + 1 } }
    let s := (s.addPair Reg.SWF_FIRINGS_LO Reg.SWF_FIRINGS_HI 1).inFlight t true
    let s := s.countReady (16 * t + x.cls)
    s.swfTrace Trace.FIRE t o (k.handle slot) 0 k.seq
  | _, _ => s

/-- The first pending op of a tenant on an engine. -/
def State.firstPending (s : State) (e t : Nat) : Option Nat :=
  s.swf.pend.find? (fun o => o % 4 == e && s.opHolder o == t)

/-- The decisions a tenant has left in the round of an engine (R470); a round ends when no tenant with pending ops has
one left. -/
def State.roundUsed (s : State) (e t : Nat) : Nat := Tbl.get 0 s.swf.used (256 * e + t)

/-- Begin a new round of an engine when every tenant with pending ops has used its weight. -/
def State.newRound (s : State) (e : Nat) : State :=
  let ts := (s.swf.pend.filter (fun o => o % 4 == e)).map (fun o => s.opHolder o)
  if ts.any (fun t => decide (s.roundUsed e t < s.get F.SWF_TENANT_CFG_weight t)) then s
  else { s with swf := { s.swf with used := s.swf.used.filter (fun p => p.1 / 256 != e) } }

/-- DECISION (R469, R470): an engine takes the first pending op of a tenant that has decisions left in its round; the
order of the tenants within a round is the command's. -/
def execDecision (engine : BitVec 2) (t : BitVec 8) (s : State) : Host.Outcome State Fault Refusal :=
  let e := engine.toNat
  let t := t.toNat
  let s := s.newRound e
  match s.firstPending e t with
  | none => .next s
  | some o =>
    if s.get F.SWF_TENANT_CFG_weight t ≤ s.roundUsed e t then .next s
    else
      let s := { s with swf := { s.swf with pend := s.swf.pend.erase o,
                                            used := Tbl.upd 0 (256 * e + t) (· + 1) s.swf.used } }
      let s := s.addPair Reg.SWF_DECISIONS_LO Reg.SWF_DECISIONS_HI 1
      let x := s.op o
      if x.state ≠ OpSt.RUNNING then .next s
      else
        let cold := ((x.ins ++ x.outs).map (fun p => p.1)).filter (fun q => !s.swf.cache.contains q)
        if cold.isEmpty then
          let s := s.each (x.ins ++ x.outs) (fun s p => s.useDq p.1 o)
          if s.fireable o then
            let s := s.fire o
            swfNext (if s.fireable o then s.pend o else s)
          else swfNext s
        else swfNext (s.each cold (fun s q => s.useDq q o))

/-! ## Tasks (R471 to R477) -/

/-- A task's header (R472), as one number. -/
def State.taskHeader (s : State) (slot : Nat) : Nat :=
  let k := s.task slot
  let l := fun (base : Nat) (ns : List Nat) => (upTo ns.length).map (fun i => (base + i, (ns[i]?).getD 0))
  pack ([(0, k.handle slot), (4, k.op), (8, k.seq), (16, k.fired), (24, (s.op k.op).arg), (36, k.cls), (37, k.prio),
    (38, s.opHolder k.op), (39, b2n k.redispatched)] ++ l 28 k.taken ++ l 32 k.places)

/-- The ready task a pool grants next (R471): lowest priority number, then firing order. -/
def State.nextReady (s : State) (pool : Nat) : Option Nat :=
  (s.swf.tasks.foldl (fun (a : Option (Nat × Task)) p =>
    if p.2.phase == Phase.READY && 16 * s.opHolder p.2.op + p.2.cls == pool then
      match a with
      | none => some p
      | some b => if p.2.prio < b.2.prio ∨ (p.2.prio = b.2.prio ∧ p.2.order < b.2.order) then some p else a
    else a) none).map (fun p => p.1)

/-- A task leaves its slot: the slot's next task has another generation. -/
def State.freeTask (s : State) (slot : Nat) : State :=
  let k := s.task slot
  let t := s.opHolder k.op
  let s := s.setTask slot { gen := (k.gen + 1) % 65536 }
  ((s.inFlight t false).pend k.op).opQuiesce k.op

/-- Release the places a task reserved (R474). -/
def State.releasePlaces (s : State) (k : Task) : State :=
  s.each ((s.op k.op).outs.zip k.places) (fun s p =>
    (s.setDq p.1.1 { s.dq p.1.1 with reserved := (s.dq p.1.1).reserved - p.2 }).dqFreed p.1.1)

/-- Pass the sequence places of ended tasks whose turn has come (R475). -/
def passPlaces : Nat → Op → Op
  | 0, x => x
  | n + 1, x => if x.passed.contains x.commit then
      passPlaces n { x with commit := x.commit + 1, passed := x.passed.erase x.commit } else x

/-- A task ends (R475): 1 FAULT, 2 TIMEOUT. -/
def State.endTask (s : State) (slot status : Nat) : State :=
  let k := s.task slot
  if k.phase = 0 then s
  else
    let x := s.op k.op
    let t := s.opHolder k.op
    let hdr := s.taskHeader slot
    let s := s.releasePlaces k
    let s := s.setTask slot { k with held := [] }
    let s := s.swfTrace Trace.END t k.op (k.handle slot) 0 status
    let s := match x.err with
      | some q => (s.dqPost q (hdr % 2 ^ 320 + status * 2 ^ 320) 0x520).1
      | none => s
    let x := s.op k.op
    let s := if x.ordered then s.setOp k.op (passPlaces (x.passed.length + 1) { x with passed := x.passed ++ [k.seq] })
      else s
    s.freeTask slot

/-- An executor returns an output token of its task (R474): beyond out_max it is discarded and counted. -/
def State.taskOutput (s : State) (slot o tok : Nat) : State :=
  let k := s.task slot
  let n := (k.held.filter (fun h => h.1 == o)).length
  if n < (k.places[o]?).getD 0 then s.setTask slot { k with held := k.held ++ [(o, tok)] }
  else
    let s := (s.cnt F.SWF_EXCESS_OUTPUTS_value).ev F.SWF_EVENTS_excess_output
    s.swfTrace Trace.DISCARD (s.opHolder k.op) k.op (k.handle slot) 0 1

/-- An executor completes its task (R474, R475): 0 OK, else FAULT. -/
def State.taskDone (s : State) (slot status : Nat) : State :=
  let k := s.task slot
  let s := s.swfTrace Trace.COMPLETE (s.opHolder k.op) k.op (k.handle slot) 0 status
  if status = 0 then s.setTask slot { k with phase := Phase.DONE } else s.endTask slot 1

/-- TASK_COMMIT (R474): a completed task commits when its turn has come. -/
def execTaskCommit (slot : BitVec 16) (s : State) : Host.Outcome State Fault Refusal :=
  let i := slot.toNat
  let k := s.task i
  let x := s.op k.op
  if k.phase ≠ Phase.DONE ∨ (x.ordered ∧ x.commit ≠ k.seq) then .next s
  else
    let outs := (upTo x.outs.length).flatMap (fun o => k.held.filter (fun h => h.1 == o))
    let s := s.releasePlaces k
    let s := s.each outs (fun s h => match x.outs[h.1]? with | some e => s.dqAppend e.1 h.2 | none => s)
    let s := if x.ordered then
        let y := s.op k.op
        s.setOp k.op (passPlaces (y.passed.length + 1) { y with commit := y.commit + 1 })
      else s
    let s := s.swfTrace Trace.COMMIT (s.opHolder k.op) k.op (k.handle i) 0 outs.length
    swfNext (s.freeTask i)

/-- The source number of a host ring (R465). -/
def hostSource (d : Desc) : Nat := 0x1000 + 64 * d.tenant.toNat + d.ring.toNat

/-- TASK_FETCH (R472): it stays outstanding until a grant, its timeout or its ring's reset. -/
def execTaskFetch (d : Desc) (cls : BitVec 8) (buffer : BitVec 64) (waitMs taskMs : Word) (s : State) :
    Host.Outcome State Fault Refusal :=
  swfNext (s.descriptor d false false
    [(decide (15 < cls.toNat) || taskMs == 0 || decide (60000 < taskMs.toNat), St.BAD_ARGUMENT),
     (!s.swfOn, St.REFUSED_NOT_READY)]
    (fun s =>
      let a : Ask := { source := hostSource d, pool := 16 * d.tenant.toNat + cls.toNat,
                       host := some (d, buffer.toNat, waitMs.toNat, taskMs.toNat) }
      { s with swf := { s.swf with asks := s.swf.asks ++ [a] } }))

/-- TASK_FETCH_TIMEOUT (R570): no grant came within the wait limit of a TASK_FETCH, named by its ring entry. -/
def execTaskFetchTimeout (tenant : BitVec 8) (ring : BitVec 6) (entry : BitVec 16) (s : State) :
    Host.Outcome State Fault Refusal :=
  let mine := fun (a : Ask) => match a.host with
    | some (d, _, w, _) => d.tenant == tenant && d.ring == ring && d.entry == entry && w != 0
    | none => false
  match s.swf.asks.find? mine with
  | some a =>
    let s := { s with swf := { s.swf with asks := s.swf.asks.filter (fun a => !mine a) } }
    match a.host with
    | some (d, _, _, _) => .next (s.complete d St.TIMEOUT 0)
    | none => .next s
  | none => .next s

/-- TASK_DONE (R474, R570): `counts` is the tokens per output, one byte each, `tokens` the tokens in output order. -/
def execTaskDone (d : Desc) (handle : Word) (status : BitVec 8) (counts : Word) (tokens : List (BitVec 512)) (s : State) :
    Host.Outcome State Fault Refusal :=
  let i := handle.toNat % 65536
  let k := s.task i
  let t := d.tenant.toNat
  let stale := k.phase != Phase.GRANTED || k.gen != handle.toNat / 65536 || decide (k.exec < 0x1000)
  let outs := (upTo 4).flatMap (fun o => List.replicate (bits counts.toNat (8 * o + 7) (8 * o)) o)
  if s.dead ∨ !s.boot.ready ∨ d.rsvSet then swfNext (s.descriptor d false false [] (fun s => s))
  else if !stale && s.opHolder k.op != t then swfNext (s.refuse d St.REFUSED_NOT_OWNER)
  else if 1 < status.toNat then swfNext (s.refuse d St.BAD_ARGUMENT)
  else if stale then
    let s := (s.cnt F.SWF_STALE_RESULTS_value (tokens.length + 1)).ev F.SWF_EVENTS_stale_result
    let s := s.swfTrace Trace.DISCARD t 0 handle.toNat 0 0
    swfNext (s.refuse d St.REFUSED_NOT_READY)
  else if d.readFail then swfNext (s.readFailed d)
  else
    let s := s.each (outs.zip tokens) (fun s p => s.taskOutput i p.1 p.2.toNat)
    let n := (s.task i).held.length
    let s := s.taskDone i status.toNat
    swfNext (s.ok d (if status = 0 then n else 0))

/-- HOST_TASK_TIMEOUT (R475): a granted host task got no TASK_DONE within its limit. -/
def execHostTaskTimeout (slot : BitVec 16) (s : State) : Host.Outcome State Fault Refusal :=
  let k := s.task slot.toNat
  if k.phase = Phase.GRANTED ∧ 0x1000 ≤ k.exec then swfNext (s.endTask slot.toNat 2) else .next s

/-- Mark the tasks an executor holds as lost to it (R477); the hand-back follows within 50 µs. -/
def State.loseTasks (s : State) (source cause : Nat) : State :=
  { s with swf := { s.swf with
      asks := s.swf.asks.filter (fun a => a.source != source),
      tasks := s.swf.tasks.map (fun p =>
        if p.2.phase == Phase.GRANTED && p.2.exec == source then (p.1, { p.2 with lost := some cause }) else p) } }

/-- Hand a task back (R477): to the head of its priority level in its op's present pool. -/
def State.handBack (s : State) (i : Nat) : State :=
  let k := s.task i
  match k.lost with
  | none => s
  | some cause =>
    let x := s.op k.op
    let t := s.opHolder k.op
    let low := s.swf.tasks.foldl (fun (a : Int) p => if p.2.phase == Phase.READY && p.2.order ≤ a then p.2.order else a)
      k.order
    let s := s.setTask i { k with
      phase := Phase.READY, gen := (k.gen + 1) % 65536, redispatched := true, held := [], order := low - 1,
      cls := x.cls, prio := x.prio, exec := 0, limit := 0, lost := none }
    let s := (s.cnt F.SWF_REDISPATCHES_value).ev F.SWF_EVENTS_redispatch
    let s := s.swfTrace Trace.HANDBACK t k.op (k.handle i) 0 cause
    s.countReady (16 * t + x.cls)

/-- TASK_HANDBACK (R477): a task whose executor can no longer complete it returns to its pool. -/
def execTaskHandback (slot : BitVec 16) (s : State) : Host.Outcome State Fault Refusal := swfNext (s.handBack slot.toNat)

/-! ## Dispatch ports (R473) -/

/-- The source number of a dispatch port (R465). -/
def portSource (sec port : Nat) : Nat := 0x100 + 4 * sec + port

/-- The task an executor holds. -/
def State.heldTask (s : State) (source : Nat) : Option Nat :=
  (s.swf.tasks.find? (fun p => p.2.phase == Phase.GRANTED && p.2.exec == source)).map (fun p => p.1)

/-- DISPATCH_REQUEST (R473): req_valid for a class; ignored while the port asks or holds a task. -/
def execDispatchRequest (sec : BitVec 8) (port : BitVec 2) (cls : BitVec 4) (s : State) :
    Host.Outcome State Fault Refusal :=
  let src := portSource sec.toNat port.toNat
  if !s.swfOn || s.get F.FAB_SECT_STATUS_state sec.toNat != Sec.RUNNING || (s.heldTask src).isSome ||
      s.swf.asks.any (fun a => a.source == src) then .next s
  else
    let a : Ask := { source := src, pool := 16 * s.get F.FAB_SECT_STATUS_holder sec.toNat + cls.toNat }
    .next { s with swf := { s.swf with asks := s.swf.asks ++ [a] } }

/-- DISPATCH_OUTPUT (R473): one output token of the task the port holds. -/
def execDispatchOutput (sec : BitVec 8) (port index : BitVec 2) (token : BitVec 512) (s : State) :
    Host.Outcome State Fault Refusal :=
  match s.heldTask (portSource sec.toNat port.toNat) with
  | some i => swfNext (s.taskOutput i index.toNat token.toNat)
  | none => .next s

/-- DISPATCH_DONE (R473): done with a status; 0 OK, every other value FAULT. -/
def execDispatchDone (sec : BitVec 8) (port status : BitVec 2) (s : State) : Host.Outcome State Fault Refusal :=
  match s.heldTask (portSource sec.toNat port.toNat) with
  | some i => swfNext (s.taskDone i status.toNat)
  | none => .next s

end Sys2Proof.Machine
end

