-- ==== Sys2Proof/Machine/CorePipe.lean ====
section
/-! DEFINITION. Machine/CorePipe.lean: the signal core's pipeline: register access, pending writes, exceptions, loops,
repeats, breaks, and the issue of one instruction (spec/18, R487 to R508; spec/19, R516 to R537). -/
namespace Sys2Proof.Machine

/-! Core states (R501). -/
abbrev Core.OFF : Nat := 0
abbrev Core.STOPPED : Nat := 1
abbrev Core.RUNNING : Nat := 2
abbrev Core.WAITING : Nat := 3
abbrev Core.HALTED : Nat := 4
abbrev Core.FAULTED : Nat := 5
abbrev Core.FAILED : Nat := 6

/-- A core. -/
def State.core (s : State) (c : Nat) : CoreSt := Tbl.get {} s.cores c

/-- Replace a core, with what SGC.STATUS shows of it (R511). -/
def State.setCore (s : State) (c : Nat) (x : CoreSt) : State :=
  let s := { s with cores := Tbl.set {} c x s.cores }
  let s := (s.put F.SGC_STATUS_ie (x.sr / 2 ^ 15) c).put F.SGC_STATUS_exl (x.sr / 2 ^ 14) c
  (s.put F.SGC_STATUS_task_held (b2n (x.th != 0)) c).put F.SGC_STATUS_pc x.pc c

/-- The state of a core (R501). -/
def State.coreState (s : State) (c : Nat) : Nat := s.get F.SGC_STATUS_state c

/-- The holder of a core. -/
def State.coreHolder (s : State) (c : Nat) : Nat := s.get F.SGC_STATUS_holder c

/-- Set a core's state. -/
def State.setCoreState (s : State) (c v : Nat) : State := s.put F.SGC_STATUS_state v c

/-! ## Registers -/

/-- The physical register a name Dn maps to (R533). -/
def CoreSt.phys (x : CoreSt) (n : Nat) : Nat := if n < 16 then n else 16 + (n - 16 + x.rrb) % 16

/-- D[n]. -/
def CoreSt.D (x : CoreSt) (n : Nat) : Nat := Tbl.get 0 x.d (x.phys n)

/-- A[n], 16 bits. -/
def CoreSt.A (x : CoreSt) (n : Nat) : Nat := Tbl.get 0 x.a n

/-- M[n]. -/
def CoreSt.M (x : CoreSt) (n : Nat) : Nat := Tbl.get 0 x.m n

/-- ACCn, 40 bits. -/
def CoreSt.ACC (x : CoreSt) (n : Nat) : Nat := Tbl.get 0 x.acc n

/-- The accumulator a MAC accumulates into, as the last MAC issued left it (R491). -/
def CoreSt.accNew (x : CoreSt) (n : Nat) : Nat :=
  match (x.pipe.filter (fun w => w.kind == 3 && w.ix == n)).getLast? with
  | some w => w.value
  | none => x.ACC n

/-- A word of data memory. -/
def CoreSt.word (x : CoreSt) (w : Nat) : Nat := Tbl.get 0 x.dmem (w % 32768)

/-- Write a word of data memory. -/
def CoreSt.setWord (x : CoreSt) (w v : Nat) : CoreSt := { x with dmem := Tbl.set 0 (w % 32768) (v % 65536) x.dmem }

/-- Write words from an address on, wrapping. -/
def CoreSt.setWords (x : CoreSt) (w : Nat) (vs : List Nat) : CoreSt :=
  ((upTo vs.length).zip vs).foldl (fun x p => x.setWord (w + p.1) p.2) x

/-- A special register (R522). -/
def CoreSt.special (x : CoreSt) (n : Nat) : Nat :=
  match n with
  | 0 => x.sr
  | 1 => x.rrb
  | 2 => x.ls0
  | 3 => x.le0
  | 4 => x.lc0
  | 5 => x.ls1
  | 6 => x.le1
  | 7 => x.lc1
  | 8 => x.dec % 65536
  | 9 => x.dec / 65536
  | 10 => x.th % 65536
  | 11 => x.th / 65536
  | 12 => x.tcmp % 65536
  | 13 => x.tcmp / 2 ^ 16 % 65536
  | 14 => x.tcmp / 2 ^ 32 % 65536
  | 15 => x.tcmp / 2 ^ 48 % 65536
  | 16 => x.epc
  | 17 => x.ebt
  | 18 => x.eslot
  | 19 => x.erc
  | 20 => x.ecause
  | 21 => x.esr
  | _ => 0

/-- Write a special register; bits beyond its width are ignored (R522). -/
def CoreSt.setSpecial (x : CoreSt) (n v : Nat) : CoreSt :=
  let v := v % 65536
  let part := fun (i : Nat) => putBits x.tcmp (16 * i + 15) (16 * i) v
  match n with
  | 0 => { x with sr := v }
  | 1 => { x with rrb := v % 32 }
  | 2 => { x with ls0 := v % 8192 }
  | 3 => { x with le0 := v % 8192 }
  | 4 => { x with lc0 := v }
  | 5 => { x with ls1 := v % 8192 }
  | 6 => { x with le1 := v % 8192 }
  | 7 => { x with lc1 := v }
  | 8 => { x with dec := putBits x.dec 15 0 v }
  | 9 => { x with dec := putBits x.dec 31 16 v }
  | 12 => { x with tcmp := part 0 }
  | 13 => { x with tcmp := part 1 }
  | 14 => { x with tcmp := part 2 }
  | 15 => { x with tcmp := part 3 }
  | 16 => { x with epc := v % 8192 }
  | 17 => { x with ebt := v % 8192 }
  | 18 => { x with eslot := v % 4 }
  | 19 => { x with erc := v }
  | 20 => { x with ecause := v % 16 }
  | 21 => { x with esr := v }
  | _ => x

/-! ## Pending writes (R491, R492, R535) -/

/-- Make a write. -/
def CoreSt.apply (x : CoreSt) (w : CWrite) : CoreSt :=
  match w.kind with
  | 0 => { x with d := Tbl.set 0 w.ix (w.value % 65536) x.d }
  | 1 => { x with a := Tbl.set 0 w.ix (w.value % 65536) x.a }
  | 2 => { x with m := Tbl.set 0 w.ix (w.value % 65536) x.m }
  | 3 => { x with acc := Tbl.set 0 w.ix (w.value % 2 ^ 40) x.acc }
  | 4 => { x with dec := (x.dec * 2 + w.value) % 2 ^ 32 }
  | 5 => x.setSpecial w.ix w.value
  | _ => { x with sr := (x.sr &&& (0xFFFF ^^^ w.mask)) ||| (w.value &&& w.mask) }

/-- The writes that end in this cycle, in issue order; a decision bit is lost where a MOVTS to DEC ends with it (R535). -/
def dueWrites (l : List CWrite) : List CWrite :=
  let due := l.filter (fun w => w.left == 0)
  if due.any (fun w => w.kind == 5 && (w.ix == 8 || w.ix == 9)) then due.filter (fun w => w.kind != 4) else due

/-- An issue cycle ends. -/
def CoreSt.tick (x : CoreSt) : CoreSt :=
  let y := (dueWrites x.pipe).foldl CoreSt.apply x
  { y with pipe := (x.pipe.filter (fun w => w.left != 0)).map (fun w => { w with left := w.left - 1 }) }

/-- Issue cycles pass in which nothing issues. -/
def CoreSt.ticks : Nat → CoreSt → CoreSt
  | 0, x => x
  | n + 1, x => CoreSt.ticks n x.tick

/-- Every instruction issued completes its writes: no write waits more than two cycles. -/
def CoreSt.drain (x : CoreSt) : CoreSt := CoreSt.ticks 3 x

/-! ## Exceptions (R504 to R507) -/

/-- Enter the handler of a cause (R504, R505): the return point, SR and the vector. -/
def CoreSt.enter (x : CoreSt) (cause pc base : Nat) : CoreSt :=
  let x := x.drain
  { x with epc := pc, ebt := x.target, eslot := x.slots, erc := x.rep, ecause := cause, esr := x.sr,
           sr := (x.sr &&& 0x3FFF) ||| 0x4000, pc := (base + 8 * cause) % 8192, slots := 0, rep := 0, rete := none,
           restore := false, hold := false }

/-- Record an entry in SGC.EXC_INFO (R515). -/
def State.excInfo (s : State) (c cause slot rep epc : Nat) : State :=
  let s := (s.put F.SGC_EXC_INFO_cause cause c).put F.SGC_EXC_INFO_slot slot c
  (s.put F.SGC_EXC_INFO_in_repeat (b2n (rep != 0)) c).put F.SGC_EXC_INFO_epc epc c

/-- An exception of the instruction about to issue (R504): its handler is entered, or with exl = 1 the core is FAULTED
and its task ends with FAULT. -/
def State.coreExc (s : State) (c cause : Nat) : State :=
  let x := s.core c
  let x := if x.restore then { x with sr := x.esr, restore := false } else x
  let s := s.excInfo c cause x.slots x.rep x.pc
  if bit x.sr 14 then
    let s := s.setCore c x.drain
    let s := ((s.setCoreState c Core.FAULTED).put F.SGC_STATUS_fault_cause V.SGC_STATUS_fault_cause_NESTED c).ev
      F.SGC_EVENTS_faulted c
    if x.th = 0 then s
    else
      let s := s.setCore c { s.core c with th := 0 }
      match s.heldTask c with
      | some k => s.endTask k 1
      | none => s
  else s.setCore c (x.enter cause x.pc (s.get F.SGC_VECTOR_base c))

/-! ## Encodings (R516 to R518) -/

/-- A defined major opcode (R518). -/
def opDefined (op : Nat) : Bool :=
  decide (op ≤ 0x0B) || (decide (0x10 ≤ op) && decide (op ≤ 0x16)) || (decide (0x20 ≤ op) && decide (op ≤ 0x2B)) ||
  (decide (0x30 ≤ op) && decide (op ≤ 0x37)) || (decide (0x40 ≤ op) && decide (op ≤ 0x49)) ||
  (decide (0x50 ≤ op) && decide (op ≤ 0x55)) || (decide (0x60 ≤ op) && decide (op ≤ 0x67)) ||
  (decide (0x70 ≤ op) && decide (op ≤ 0x74)) || op == 0x80 || op == 0x81

/-- The bits of an opcode's word that its layout marks zero (R516, R521 to R527). -/
def zeroMask (op : Nat) : Nat :=
  match op with
  | 0x00 | 0x02 | 0x07 => 0xFFFFFF
  | 0x01 => 0xFFFF00
  | 0x03 => 0x0FE000
  | 0x04 | 0x06 => 0xFFE000
  | 0x05 | 0x0B => 0xF83FFF
  | 0x08 => 0
  | 0x09 => 0x0001E0
  | 0x0A => 0xFF0000
  | 0x10 => 0xFFFFF0
  | 0x11 => 0x07FFFF
  | 0x12 => 0x7FFFFF
  | 0x13 => 0x1FFFFF
  | 0x14 | 0x15 => 0x003FFF
  | 0x16 => 0x07FFFF
  | 0x29 | 0x2A | 0x37 | 0x44 => 0x003FFF
  | 0x2B => 0xF801FF
  | 0x36 => 0xF821FF
  | 0x40 | 0x41 | 0x42 | 0x43 => 0x070000
  | 0x45 => 0x00FFFF
  | 0x46 | 0x47 => 0x183FFF
  | 0x48 => 0x1F0000
  | 0x50 | 0x51 => 0x003FFF
  | 0x52 | 0x53 => 0
  | 0x54 | 0x55 => 0x00000F
  | 0x65 | 0x66 => 0x000003
  | 0x60 | 0x61 | 0x62 | 0x63 | 0x64 | 0x67 => 0x000FFF
  | 0x70 => 0x0000FF
  | 0x71 => 0x007FFF
  | 0x72 => 0x3801FF
  | 0x73 => 0x3FFFFF
  | 0x74 => 0x0FFFFF
  | 0x80 => 0x000003
  | 0x81 => 0x07FFE0
  | _ => 0x0001FF

/-- A value the chapter marks reserved (R516, R521, R522, R524 to R526, R528) in the word at `pc`. -/
def reservedValue (op w pc : Nat) : Bool :=
  match op with
  | 0x03 => bits w 23 20 == 15
  | 0x08 | 0x09 => decide (bits w 21 9 < pc + 2)
  | 0x14 => decide (22 ≤ bits w 18 14)
  | 0x15 => decide (22 ≤ bits w 23 19) || bits w 23 19 == 10 || bits w 23 19 == 11
  | 0x16 => bits w 20 19 != 0
  | 0x33 | 0x34 | 0x35 => bit w 13
  | 0x54 | 0x55 => bits w 13 11 == bits w 8 6
  | 0x70 => decide (24 < bits w 16 12) || bits w 11 10 == 3
  | 0x71 => bits w 16 15 == 3
  | 0x72 => decide (24 < bits w 13 9)
  | _ => false

/-- A control transfer (R493). -/
def isControl (op : Nat) : Bool := decide (2 ≤ op) && decide (op ≤ 7)

/-- LOOPI, LOOPR, REPI, REPR. -/
def isLoop (op : Nat) : Bool := decide (8 ≤ op) && decide (op ≤ 11)

/-- The address is LE of an active level or one of the two before it. -/
def CoreSt.nearEnd (x : CoreSt) (pc : Nat) : Bool :=
  (x.lc0 != 0 && decide (pc ≤ x.le0) && decide (x.le0 ≤ pc + 2)) ||
    (x.lc1 != 0 && decide (pc ≤ x.le1) && decide (x.le1 ≤ pc + 2))

/-- The placements that raise SLOT (R493, R530). -/
def CoreSt.badSlot (x : CoreSt) (op pc : Nat) : Bool :=
  let task := op == 0x10 || op == 0x12
  (x.slots != 0 && (isControl op || isLoop op || task)) ||
    ((isControl op || isLoop op || task) && x.nearEnd pc) ||
    (x.rep != 0 && (isControl op || isLoop op || task || op == 1 || op == 0x11))

/-- The exception the check at issue raises (R517). -/
def CoreSt.issueExc (x : CoreSt) (w pc : Nat) : Option Nat :=
  let op := w / 2 ^ 24
  if !opDefined op then some 0
  else if w &&& zeroMask op != 0 || reservedValue op w pc || (op == 0x10 && x.th != 0) ||
      ((op == 0x11 || op == 0x12) && x.th == 0) then some 1
  else if x.badSlot op pc then some 2
  else if op == 1 then some 4
  else none

/-! ## What an instruction does -/

/-- The effect of an instruction: its register writes, stores, data accesses (word, store, value), a control transfer's
target, RETE's resume point, the repetitions or the place a loop sets up, cycles without an issue, whether the boundary
after it is held for setting ie, an X and Y conflict, and whether the word it loads is open. -/
structure CoreRes where
  writes : List CWrite := []
  stores : List (Nat × Nat) := []
  access : List (Nat × Bool × Nat) := []
  jump : Option Nat := none
  rete : Option (Nat × Nat × Nat) := none
  rot : Option (Nat × Bool) := none
  next : Option Nat := none
  rep : Nat := 0
  idle : Nat := 0
  setsIe : Bool := false
  stall : Bool := false
  openD : Bool := false

/-! ## Breaks and watches (R655, R656) -/

/-- A comparator's kind and range match an instruction at `pc` with its data accesses (R655). -/
def State.compHit (s : State) (n c pc : Nat) (acc : List (Nat × Bool × Nat)) : Bool :=
  let lo := s.get F.DBG_COMP_RANGE_low n
  let hi := s.get F.DBG_COMP_RANGE_high n
  let inR := fun (a : Nat) => decide (lo ≤ a) && decide (a ≤ hi)
  let kind := s.get F.DBG_COMP_CFG_kind n
  let here := s.on F.DBG_COMP_CFG_enable n && s.get F.DBG_COMP_CFG_cluster n == c / 16 &&
    bit (s.get F.DBG_COMP_CFG_cores n) (c % 16)
  let m := s.get F.DBG_COMP_VALUE_mask n
  let hit := match kind with
    | 0 => inR pc
    | 1 => acc.any (fun a => !a.2.1 && inR a.1)
    | 2 => acc.any (fun a => a.2.1 && inR a.1)
    | 3 => acc.any (fun a => inR a.1)
    | _ => acc.any (fun a => inR a.1 && ((a.2.2 ^^^ s.get F.DBG_COMP_VALUE_value n) &&& m) == 0)
  let k := s.task ((s.core c).th % 65536)
  let held := (s.core c).th != 0
  let tenant := if s.get F.DBG_STATUS_scope = V.DBG_STATUS_scope_DEVICE
    then s.get F.DBG_AUTH_DATA_value 63 % 256 else s.get F.DBG_STATUS_tenant
  here && hit && (!s.on F.DBG_COMP_CTX_tenant_en n || s.coreHolder c == tenant) &&
    (!s.on F.DBG_COMP_CTX_op_en n || (held && k.op == s.get F.DBG_COMP_CTX_op n)) &&
    (!s.on F.DBG_COMP_CTX_class_en n || (held && k.cls == s.get F.DBG_COMP_CTX_class n))

/-- A comparator matches, with its link (R656). -/
def State.compMatch (s : State) (n c pc : Nat) (acc : List (Nat × Bool × Nat)) : Bool :=
  let link := s.get F.DBG_COMP_CFG_link n
  s.compHit n c pc acc &&
    (if link = V.DBG_COMP_CFG_link_AND then s.compHit (n - 1) c pc acc
     else if link = V.DBG_COMP_CFG_link_AFTER then s.dbg.compArmed.contains n else true)

/-- Count a comparator's match; at its k-th it acts (R656): answers whether it acts. -/
def State.compCount (s : State) (n : Nat) : State × Bool :=
  let k := Tbl.get 0 s.dbg.compCount n + 1
  let s := if s.get F.DBG_COMP_CFG_link (n + 1) = V.DBG_COMP_CFG_link_AFTER ∧ n < 31 ∧ !s.dbg.compArmed.contains (n + 1) then
    { s with dbg := { s.dbg with compArmed := s.dbg.compArmed ++ [n + 1] } } else s
  if s.get F.DBG_COMP_CFG_count_m1 n < k then
    ({ s with dbg := { s.dbg with compCount := Tbl.set 0 n 0 s.dbg.compCount,
                                  compArmed := s.dbg.compArmed.erase n } }, true)
  else ({ s with dbg := { s.dbg with compCount := Tbl.set 0 n k s.dbg.compCount } }, false)

/-- The comparators test an instruction (R656): the strongest action of those that act, as GROUP 2, HALT 1, EXCEPTION 0;
DBG.EVENTS records the lowest. -/
def State.watch (s : State) (c pc : Nat) (acc : List (Nat × Bool × Nat)) : State × Option Nat :=
  let hits := (upTo 32).filter (fun n => s.compMatch n c pc acc)
  let (s, act) := hits.foldl (fun (r : State × List Nat) n =>
    let (s, go) := r.1.compCount n
    (s, if go then r.2 ++ [n] else r.2)) (s, [])
  match act with
  | [] => (s, none)
  | n :: _ =>
    let s := (s.ev F.DBG_EVENTS_comp_match).put F.DBG_EVENTS_comp n
    let rank := fun (n : Nat) => match s.get F.DBG_COMP_CFG_action n with
      | 2 => 2
      | 1 => 1
      | _ => 0
    (s, some ((act.map rank).foldl Nat.max 0))

/-- The group of a unit (R654). -/
def State.groupOf (s : State) (kind ix : Nat) : Option Nat :=
  (s.dbg.groups.find? (fun g => g.1 == kind && g.2.1 == ix)).map (fun g => g.2.2)

/-- Record that a unit is stopped by a group, or by 8: on its own (R654). -/
def State.markHalt (s : State) (kind ix by' : Nat) : State :=
  let x := s.dbg
  let other := fun (h : Nat × Nat × Nat) => !(h.1 == kind && h.2.1 == ix)
  { s with dbg := { x with asked := x.asked.filter other, stopped := x.stopped.filter other ++ [(kind, ix, by')] } }

/-- A core halts before the instruction at its pc (R653). -/
def State.haltCore (s : State) (c by' : Nat) : State :=
  let x := s.core c
  let s := s.setCore c { x.drain with before := s.coreState c }
  (s.setCoreState c Core.HALTED).markHalt 0 c by'

/-! ## Issue of one instruction -/

/-- The loop hardware at the issue of the instruction at `pc` (R528, R529): the core with its counts, the address to go
to, the decrements of RRB. -/
def CoreSt.loopEnd (x : CoreSt) (pc : Nat) : CoreSt × Option Nat × Nat :=
  let lvl0 := fun (x : CoreSt) (r : Nat) =>
    if x.lc0 ≠ 0 ∧ x.le0 = pc then
      let r := r + b2n x.rot0
      if 1 < x.lc0 then ({ x with lc0 := x.lc0 - 1 }, some x.ls0, r) else ({ x with lc0 := 0 }, none, r)
    else (x, none, r)
  if x.lc1 ≠ 0 ∧ x.le1 = pc then
    let r := b2n x.rot1
    if 1 < x.lc1 then ({ x with lc1 := x.lc1 - 1 }, some x.ls1, r) else lvl0 { x with lc1 := 0 } r
  else lvl0 x 0

/-- Complete the issue of an instruction with effect `r`. -/
def CoreSt.retire (x : CoreSt) (r : CoreRes) : CoreSt :=
  let pc := x.pc
  let rep' := x.rep - 1
  let again := decide (1 < x.rep)
  let (y, back, dec) := if again then (x, none, 0) else x.loopEnd pc
  let y := r.stores.foldl (fun (y : CoreSt) p => y.setWord p.1 p.2) y
  let y := match r.rot with
    | some (0, b) => { y with rot0 := b }
    | some (_, b) => { y with rot1 := b }
    | none => y
  let y := CoreSt.ticks (1 + r.idle) { y with pipe := y.pipe ++ r.writes }
  let y := { y with rrb := (y.rrb + 32 - dec) % 32 }
  if again then { y with rep := rep', hold := true }
  else
    let last := x.slots == 1
    let to' := match r.next with
      | some n => n
      | none => match back with
        | some n => n
        | none => pc + 1
    let y := { y with rep := r.rep, slots := x.slots - 1, pc := (if last then x.target else to') % 8192,
                      hold := decide (0 < x.slots) || decide (0 < r.rep) || r.setsIe }
    let y := if last then match x.rete with
        | some (slots, ebt, erc) => { y with rete := none, slots := slots, target := ebt, rep := erc, restore := true }
        | none => y
      else y
    match r.jump with
    | some t => { y with slots := 2, target := t % 8192, rete := r.rete, hold := true }
    | none => y

/-- A core issues the instruction with major opcode `op` at its pc: the checks of R517, the breaks of R656, the effect,
the loop hardware. Nothing happens unless the core is RUNNING with that opcode, or an undefined one, at its pc. `fe` is a
single-bit error of the fetch (R489); `err` what the data memory finds in the words read (R490): 1 a single-bit, 2 a
double-bit error, 3 more bits, where the word read is open. -/
def State.issue (s : State) (c op : Nat) (fe : Bool) (err : Nat) (body : CoreSt → Nat → CoreRes)
    (post : State → State) : State :=
  let x := s.core c
  let w := Tbl.get 0 x.imem x.pc
  if s.coreState c ≠ Core.RUNNING ∨ (w / 2 ^ 24 ≠ op ∧ opDefined (w / 2 ^ 24)) then s
  else
    let s := s.when fe (fun s => s.cnt F.SGC_IMEM_CE_value 1 c)
    let x := if x.restore then { x with sr := x.esr, restore := false, hold := true } else x
    let s := s.setCore c x
    let r := match x.issueExc w x.pc with
      | some _ => {}
      | none => body x w
    let reads := r.access.any (fun a => !a.2.1)
    let (s, act) := s.watch c x.pc r.access
    match act with
    | some 0 => s.coreExc c 5
    | some k =>
      match k, s.groupOf 0 c with
      | 2, some g =>
        let s := s.haltCore c g
        { s with dbg := { s.dbg with halts := s.dbg.halts ++ [(g, s.now)] } }
      | _, _ => s.haltCore c 8
    | none =>
      match x.issueExc w x.pc with
      | some e => s.coreExc c e
      | none =>
        if reads && err == 2 then (s.ev F.SGC_EVENTS_dmem_ue c).coreExc c 3
        else
          let s := s.when (reads && err == 1) (fun s => s.cnt F.SGC_DMEM_CE_value 1 c)
          let (s, r) := if (reads && err == 3) || r.openD then
              let (v, s) := s.fresh
              (s, { r with writes := r.writes.map (fun (w : CWrite) =>
                if w.kind == 0 && w.left == 2 then { w with value := v % 65536 } else w) })
            else (s, r)
          let s := s.when r.stall (fun s => s.cnt F.SGC_BANK_STALLS_value 1 c)
          post (s.setCore c (x.retire r))

end Sys2Proof.Machine
end

