-- ==== Sys2Proof/Machine/CoreIsa.lean ====
section
/-! DEFINITION. Machine/CoreIsa.lean: the signal core's instructions (spec/19, R518 to R534). The command carries the core
and what the memories find; the word is the one at the core's pc. -/
namespace Sys2Proof.Machine

/-! ## Operand fields (R516) -/

/-- Register field [23:19]. -/
def fD (w : Nat) : Nat := bits w 23 19

/-- Register field [18:14]. -/
def fS (w : Nat) : Nat := bits w 18 14

/-- Register field [13:9]. -/
def fT (w : Nat) : Nat := bits w 13 9

/-- The immediate of the layouts I and MO. -/
def fImm (w : Nat) : Nat := bits w 15 0

/-- The target of the layouts B and J. -/
def fTarget (w : Nat) : Nat := bits w 12 0

/-! ## Writes -/

/-- A write of D[n], by the physical register it names at issue (R533). -/
def CoreSt.wD (x : CoreSt) (left n v : Nat) : CWrite := { left := left, kind := 0, ix := x.phys n, value := v }

/-- A write of A[n] at the end of the issue cycle. -/
def wA (n v : Nat) : CWrite := { left := 0, kind := 1, ix := n, value := v }

/-- A write of special register `n` at the end of the issue cycle (R522). -/
def wS (n v : Nat) : CWrite := { left := 0, kind := 5, ix := n, value := v }

/-- A write of flags: the bits of `mask`. -/
def wF (left v mask : Nat) : CWrite := { left := left, kind := 6, value := v, mask := mask }

/-- Z and N of a 16-bit result (R519). -/
def zn (v : Nat) : Nat := b2n (v % 65536 == 0) + 2 * b2n (bit v 15)

/-- The result of an ALU instruction and its flags: Z, N, then C and V. -/
structure AluRes where
  value : Nat
  c : Bool := false
  v : Bool := false
  sat : Bool := false

/-- An ALU result with the flags Z N C V, and SV when clamped. -/
def AluRes.flags (r : AluRes) : CWrite :=
  wF 0 (zn r.value + 4 * b2n r.c + 8 * b2n r.v + 16 * b2n r.sat) (15 + 16 * b2n r.sat)

/-- s + t (R523). -/
def aluAdd (a b : Nat) : AluRes :=
  let i := sext 16 a + sext 16 b
  { value := (a + b) % 65536, c := decide (65536 ≤ a + b), v := satInt 16 i != i }

/-- s − t (R519, R523): C is 1 when no borrow occurred. -/
def aluSub (a b : Nat) : AluRes :=
  let i := sext 16 a - sext 16 b
  { value := wrapInt 16 ((a : Int) - (b : Int)), c := decide (b ≤ a), v := satInt 16 i != i }

/-- The clamped forms. -/
def AluRes.clamp (r : AluRes) (i : Int) : AluRes :=
  if r.v then { r with value := wrapInt 16 (satInt 16 i), sat := true } else r

/-- D[d] takes a 16-bit result with the flags Z N. -/
def CoreSt.result (x : CoreSt) (d v : Nat) : CoreRes := { writes := [x.wD 0 d v, wF 0 (zn v) 3] }

/-- |s| or −s: −32,768 gives 32,767 with V and SV. -/
def CoreSt.negate (x : CoreSt) (d : Nat) (i : Int) : CoreRes :=
  let c := decide (i = 32768)
  let v := wrapInt 16 (satInt 16 i)
  { writes := [x.wD 0 d v, wF 0 (zn v + 24 * b2n c) (11 + 16 * b2n c)] }

/-- The kinds of shift. -/
inductive Shift where
  | left
  | right
  | arith
  deriving DecidableEq, Repr

/-- A shift by `k` (R523): C is the last bit out, 0 for a shift of 0. -/
def shiftBy (m : Shift) (a k : Nat) : Nat × Bool :=
  match m with
  | .left => (a * 2 ^ k % 65536, decide (k ≠ 0) && bit (a * 2 ^ k) 16)
  | .right => (a / 2 ^ k, decide (k ≠ 0) && bit (2 * a / 2 ^ k) 0)
  | .arith => (wrapInt 16 (sext 16 a / ((2 ^ k : Nat) : Int)),
      decide (k ≠ 0) && bit (wrapInt 16 (2 * sext 16 a / ((2 ^ k : Nat) : Int))) 0)

/-- A shift into D[d] with Z N C. -/
def CoreSt.shift (x : CoreSt) (m : Shift) (w k : Nat) : CoreRes :=
  let (v, c) := shiftBy m (x.D (fS w)) k
  { writes := [x.wD 0 (fD w) v, wF 0 (zn v + 4 * b2n c) 7] }

/-- The leading zero bits of 16 bits. -/
def clz16 (v : Nat) : Nat := ((upTo 17).find? (fun k => decide (2 ^ (15 - k) ≤ v) || k == 16)).getD 16

/-- A condition of R520. -/
def CoreSt.cond (x : CoreSt) (n : Nat) : Bool :=
  let z := bit x.sr 0
  let neg := bit x.sr 1
  let c := bit x.sr 2
  let v := bit x.sr 3
  let t := bit x.sr 9
  match n with
  | 0 => z
  | 1 => !z
  | 2 => neg != v
  | 3 => neg == v
  | 4 => z || neg != v
  | 5 => !z && neg == v
  | 6 => !c
  | 7 => c
  | 8 => neg
  | 9 => !neg
  | 10 => v
  | 11 => !v
  | 12 => t
  | 13 => !t
  | _ => true

/-! ## Address modification (R524) -/

/-- The address after the post-modification `p`. -/
def CoreSt.modified (x : CoreSt) (a p : Nat) : Nat :=
  let u := x.A a % 32768
  let next := match p with
    | 1 => u + 1
    | 2 => wrapInt 15 ((u : Int) + sext 16 (x.M a))
    | 3 =>
      let l := if x.M a = 0 ∨ 32768 < x.M a then 32768 else x.M a
      let n := 2 ^ ((upTo 16).find? (fun k => decide (l ≤ 2 ^ k))).getD 15
      let base := u / n * n
      base + (u - base + 1) % l
    | _ => u
  x.A a / 32768 * 32768 + next % 32768

/-- The post-modification as a write. -/
def CoreSt.post (x : CoreSt) (a p : Nat) : List CWrite := if p = 0 then [] else [wA a (x.modified a p)]

/-- The word address in A[a]. -/
def CoreSt.addr (x : CoreSt) (a : Nat) : Nat := x.A a % 32768

/-- The word address (A[a] + imm) mod 32,768. -/
def CoreSt.offsetAddr (x : CoreSt) (a imm : Nat) : Nat := wrapInt 15 ((x.A a : Int) + sext 16 imm)

/-- A load of D[r] from a word. -/
def CoreSt.load (x : CoreSt) (r addr : Nat) (post : List CWrite) : CoreRes :=
  { writes := x.wD 2 r (x.word addr) :: post, access := [(addr, false, x.word addr)] }

/-- A store of D[r] to a word. -/
def CoreSt.store (x : CoreSt) (r addr : Nat) (post : List CWrite) : CoreRes :=
  { writes := post, stores := [(addr, x.D r)], access := [(addr, true, x.D r)] }

/-! ## Accumulators (R525, R526) -/

/-- The accumulator's value as a signed number. -/
def accInt (v : Nat) : Int := sext 40 v

/-- A write of an accumulator at MAC latency with its flags: `r` the exact result, clamped when `sat`. -/
def accWrite (acc : Nat) (r : Int) (sat : Bool) : List CWrite :=
  let overrun := satInt 40 r != r
  let v := wrapInt 40 (if sat then satInt 40 r else r)
  [{ left := 2, kind := 3, ix := acc, value := v },
   wF 2 (32 * b2n (v == 0) + 64 * b2n (bit v 39) + 384 * b2n overrun) (0xE0 + 256 * b2n overrun)]

/-- The signed product of D[s] and D[t] of the layouts MAC and MACL. -/
def CoreSt.product (x : CoreSt) (w : Nat) : Int := sext 16 (x.D (bits w 21 17)) * sext 16 (x.D (bits w 16 12))

/-- acc + `p`. -/
def CoreSt.accumulate (x : CoreSt) (w : Nat) (p : Int) (sat : Bool) : List CWrite :=
  accWrite (bits w 23 22) (accInt (x.accNew (bits w 23 22)) + p) sat

/-- The load of MACL and MSUL. -/
def CoreSt.macLoad (x : CoreSt) (w : Nat) (ws : List CWrite) : CoreRes :=
  let r := x.load (bits w 11 7) (x.addr (bits w 6 4)) (x.post (bits w 6 4) (bits w 3 2))
  { r with writes := ws ++ r.writes }

/-- An accumulator shifted right and rounded (R135): 0 TRUNCATE, 1 HALF_UP, 2 HALF_EVEN. -/
def roundAcc (v : Int) (sh rnd : Nat) : Int :=
  let d : Int := ((2 ^ sh : Nat) : Int)
  let q := v / d
  let r := 2 * (v % d)
  match rnd with
  | 1 => if d ≤ r then q + 1 else q
  | 2 => if d < r ∨ (d = r ∧ q % 2 = 1) then q + 1 else q
  | _ => q

/-- ACCR's result and whether it was clamped. -/
def accRead (v : Int) (w : Nat) : Nat × Bool :=
  let q := roundAcc v (bits w 16 12) (bits w 11 10)
  if !bit w 9 then (wrapInt 16 q, false)
  else if bit w 8 then
    let c := if q < 0 then 0 else if 65535 < q then 65535 else q
    (wrapInt 16 c, c != q)
  else (wrapInt 16 (satInt 16 q), satInt 16 q != q)

/-! ## Control, loops and repeats -/

/-- A loop of R528 with a count. -/
def CoreSt.loopRes (x : CoreSt) (w count : Nat) : CoreRes :=
  let k := b2n (bit w 23)
  let b := 2 + 3 * k
  let r : CoreRes := { writes := [wS b (x.pc + 1), wS (b + 1) (bits w 21 9), wS (b + 2) count], rot := some (k, bit w 22) }
  if count = 0 then { r with next := some (bits w 21 9 + 1), idle := 2 } else r

/-- A repeat of R531 with a count. -/
def CoreSt.repRes (x : CoreSt) (count : Nat) : CoreRes :=
  if count = 0 then { next := some (x.pc + 2), idle := 1 } else { rep := count }

/-- The word at the core's pc. -/
def CoreSt.fetched (x : CoreSt) : Nat := Tbl.get 0 x.imem x.pc

/-! ## Control, task and system opcodes (R521, R522) -/

/-- NOP (R521): nothing. -/
def execNop (c : BitVec 8) (fe : Bool) (s : State) : Host.Outcome State Fault Refusal :=
  .next (s.issue c.toNat 0x00 fe 0 (fun _ _ => {}) id)

/-- TRAP (R521): raises TRAP; the exception is that of `CoreSt.issueExc`. -/
def execTrap (c : BitVec 8) (fe : Bool) (s : State) : Host.Outcome State Fault Refusal :=
  .next (s.issue c.toNat 0x01 fe 0 (fun _ _ => {}) id)

/-- RETE (R505, R521): resumes at EPC; SR is restored when the resumed instruction issues. -/
def execRete (c : BitVec 8) (fe : Bool) (s : State) : Host.Outcome State Fault Refusal :=
  .next (s.issue c.toNat 0x02 fe 0
    (fun x _ => { jump := some x.epc, rete := some (x.eslot, x.ebt, x.erc) }) id)

/-- BR (R520, R521): to the target when the condition holds. The two delay slots issue either way (R534). -/
def execBr (c : BitVec 8) (fe : Bool) (s : State) : Host.Outcome State Fault Refusal :=
  .next (s.issue c.toNat 0x03 fe 0
    (fun x w => { jump := some (if x.cond (bits w 23 20) then fTarget w else x.pc + 3) }) id)

/-- JMP (R521). -/
def execJmp (c : BitVec 8) (fe : Bool) (s : State) : Host.Outcome State Fault Refusal :=
  .next (s.issue c.toNat 0x04 fe 0 (fun _ w => { jump := some (fTarget w) }) id)

/-- JMPR (R521): to D[s][12:0]. -/
def execJmpr (c : BitVec 8) (fe : Bool) (s : State) : Host.Outcome State Fault Refusal :=
  .next (s.issue c.toNat 0x05 fe 0 (fun x w => { jump := some (x.D (fS w)) }) id)

/-- CALL (R521): A7 takes the address of the CALL + 3. -/
def execCall (c : BitVec 8) (fe : Bool) (s : State) : Host.Outcome State Fault Refusal :=
  .next (s.issue c.toNat 0x06 fe 0
    (fun x w => { writes := [wA 7 ((x.pc + 3) % 8192)], jump := some (fTarget w) }) id)

/-- RET (R521): to A7[12:0]. -/
def execRet (c : BitVec 8) (fe : Bool) (s : State) : Host.Outcome State Fault Refusal :=
  .next (s.issue c.toNat 0x07 fe 0 (fun x _ => { jump := some (x.A 7) }) id)

/-- LOOPI (R528). -/
def execLoopi (c : BitVec 8) (fe : Bool) (s : State) : Host.Outcome State Fault Refusal :=
  .next (s.issue c.toNat 0x08 fe 0 (fun x w => x.loopRes w (bits w 8 0)) id)

/-- LOOPR (R528): the count is D[s]. -/
def execLoopr (c : BitVec 8) (fe : Bool) (s : State) : Host.Outcome State Fault Refusal :=
  .next (s.issue c.toNat 0x09 fe 0 (fun x w => x.loopRes w (x.D (bits w 4 0))) id)

/-- REPI (R531). -/
def execRepi (c : BitVec 8) (fe : Bool) (s : State) : Host.Outcome State Fault Refusal :=
  .next (s.issue c.toNat 0x0A fe 0 (fun x w => x.repRes (fImm w)) id)

/-- REPR (R531): the count is D[s]. -/
def execRepr (c : BitVec 8) (fe : Bool) (s : State) : Host.Outcome State Fault Refusal :=
  .next (s.issue c.toNat 0x0B fe 0 (fun x w => x.repRes (x.D (fS w))) id)

/-- TWAIT (R502): asks for pool 16 × holder + class and waits. -/
def execTwait (c : BitVec 8) (fe : Bool) (s : State) : Host.Outcome State Fault Refusal :=
  let w := (s.core c.toNat).fetched
  .next (s.issue c.toNat 0x10 fe 0 (fun _ _ => {}) (fun s =>
    let s := s.setCore c.toNat (s.core c.toNat).drain
    let a : Ask := { source := c.toNat, pool := 16 * s.coreHolder c.toNat + bits w 3 0 }
    ({ s with swf := { s.swf with asks := s.swf.asks ++ [a] } }).setCoreState c.toNat Core.WAITING))

/-- TPUT (R503, R521): the 32 words from A[a] are a token of output o of the held task. -/
def execTput (c : BitVec 8) (fe : Bool) (s : State) : Host.Outcome State Fault Refusal :=
  let x := s.core c.toNat
  let w := x.fetched
  let a := x.addr (bits w 21 19)
  let tok := pack ((upTo 32).map (fun i => (2 * i, x.word (a + i))))
  .next (s.issue c.toNat 0x11 fe 0 (fun _ _ => {}) (fun s =>
    match s.heldTask c.toNat with
    | some k => (s.taskOutput k (bits w 23 22) tok).flushTrace
    | none => s))

/-- TDONE (R503): ends the task, clears TH, counts it. -/
def execTdone (c : BitVec 8) (fe : Bool) (s : State) : Host.Outcome State Fault Refusal :=
  let w := (s.core c.toNat).fetched
  .next (s.issue c.toNat 0x12 fe 0 (fun _ _ => {}) (fun s =>
    let s := match s.heldTask c.toNat with
      | some k => (s.taskDone k (b2n (bit w 23))).flushTrace
      | none => s
    (s.setCore c.toNat { s.core c.toNat with th := 0 }).cnt F.SGC_TASKS_DONE_value 1 c.toNat))

/-- DMAS (R496, R521): queues the command block at A[a]. While the queue of 4 is full the core stalls: nothing issues. -/
def execDmas (c : BitVec 8) (fe : Bool) (s : State) : Host.Outcome State Fault Refusal :=
  let x := s.core c.toNat
  if 4 ≤ x.dma.length ∧ x.fetched / 2 ^ 24 = 0x13 then .next s
  else
    let a := x.addr (bits x.fetched 23 21)
    .next (s.issue c.toNat 0x13 fe 0 (fun _ _ => {}) (fun s =>
      let y := s.core c.toNat
      s.setCore c.toNat { y with dma := y.dma ++ [a] }))

/-- MOVS (R522). -/
def execMovs (c : BitVec 8) (fe : Bool) (s : State) : Host.Outcome State Fault Refusal :=
  .next (s.issue c.toNat 0x14 fe 0 (fun x w => { writes := [x.wD 0 (fD w) (x.special (fS w))] }) id)

/-- MOVTS (R522). -/
def execMovts (c : BitVec 8) (fe : Bool) (s : State) : Host.Outcome State Fault Refusal :=
  .next (s.issue c.toNat 0x15 fe 0 (fun x w =>
    { writes := [wS (fD w) (x.D (fS w))], setsIe := fD w == 0 && bit (x.D (fS w)) 15 }) id)

/-- RDTIME (R521): the timebase at issue, bits [2:0] zero, into four registers. -/
def execRdtime (c : BitVec 8) (fe : Bool) (s : State) : Host.Outcome State Fault Refusal :=
  let t := s.now / 8 * 8
  .next (s.issue c.toNat 0x16 fe 0 (fun x w =>
    { writes := (upTo 4).map (fun i => x.wD 0 (fD w + i) (bits t (16 * i + 15) (16 * i))) }) id)

/-! ## Arithmetic, logic and moves (R523) -/

/-- ADD (R523). -/
def execAdd (c : BitVec 8) (fe : Bool) (s : State) : Host.Outcome State Fault Refusal :=
  .next (s.issue c.toNat 0x20 fe 0 (fun x w =>
    let r := aluAdd (x.D (fS w)) (x.D (fT w))
    { writes := [x.wD 0 (fD w) r.value, r.flags] }) id)

/-- ADDS (R523): clamped. -/
def execAdds (c : BitVec 8) (fe : Bool) (s : State) : Host.Outcome State Fault Refusal :=
  .next (s.issue c.toNat 0x21 fe 0 (fun x w =>
    let r := (aluAdd (x.D (fS w)) (x.D (fT w))).clamp (sext 16 (x.D (fS w)) + sext 16 (x.D (fT w)))
    { writes := [x.wD 0 (fD w) r.value, r.flags] }) id)

/-- SUB (R523). -/
def execSub (c : BitVec 8) (fe : Bool) (s : State) : Host.Outcome State Fault Refusal :=
  .next (s.issue c.toNat 0x22 fe 0 (fun x w =>
    let r := aluSub (x.D (fS w)) (x.D (fT w))
    { writes := [x.wD 0 (fD w) r.value, r.flags] }) id)

/-- SUBS (R523): clamped. -/
def execSubs (c : BitVec 8) (fe : Bool) (s : State) : Host.Outcome State Fault Refusal :=
  .next (s.issue c.toNat 0x23 fe 0 (fun x w =>
    let r := (aluSub (x.D (fS w)) (x.D (fT w))).clamp (sext 16 (x.D (fS w)) - sext 16 (x.D (fT w)))
    { writes := [x.wD 0 (fD w) r.value, r.flags] }) id)

/-- AND (R523). -/
def execAnd (c : BitVec 8) (fe : Bool) (s : State) : Host.Outcome State Fault Refusal :=
  .next (s.issue c.toNat 0x24 fe 0 (fun x w => x.result (fD w) (x.D (fS w) &&& x.D (fT w))) id)

/-- OR (R523). -/
def execOr (c : BitVec 8) (fe : Bool) (s : State) : Host.Outcome State Fault Refusal :=
  .next (s.issue c.toNat 0x25 fe 0 (fun x w => x.result (fD w) (x.D (fS w) ||| x.D (fT w))) id)

/-- XOR (R523). -/
def execXor (c : BitVec 8) (fe : Bool) (s : State) : Host.Outcome State Fault Refusal :=
  .next (s.issue c.toNat 0x26 fe 0 (fun x w => x.result (fD w) (x.D (fS w) ^^^ x.D (fT w))) id)

/-- MIN (R523), signed. -/
def execMin (c : BitVec 8) (fe : Bool) (s : State) : Host.Outcome State Fault Refusal :=
  .next (s.issue c.toNat 0x27 fe 0 (fun x w =>
    x.result (fD w) (if sext 16 (x.D (fS w)) ≤ sext 16 (x.D (fT w)) then x.D (fS w) else x.D (fT w))) id)

/-- MAX (R523), signed. -/
def execMax (c : BitVec 8) (fe : Bool) (s : State) : Host.Outcome State Fault Refusal :=
  .next (s.issue c.toNat 0x28 fe 0 (fun x w =>
    x.result (fD w) (if sext 16 (x.D (fS w)) ≤ sext 16 (x.D (fT w)) then x.D (fT w) else x.D (fS w))) id)

/-- ABS (R523): −32,768 gives 32,767. -/
def execAbs (c : BitVec 8) (fe : Bool) (s : State) : Host.Outcome State Fault Refusal :=
  .next (s.issue c.toNat 0x29 fe 0 (fun x w =>
    x.negate (fD w) (if bit (x.D (fS w)) 15 then -(sext 16 (x.D (fS w))) else sext 16 (x.D (fS w)))) id)

/-- NEG (R523): −32,768 gives 32,767. -/
def execNeg (c : BitVec 8) (fe : Bool) (s : State) : Host.Outcome State Fault Refusal :=
  .next (s.issue c.toNat 0x2A fe 0 (fun x w => x.negate (fD w) (-(sext 16 (x.D (fS w))))) id)

/-- CMP (R523): the flags of s − t. -/
def execCmp (c : BitVec 8) (fe : Bool) (s : State) : Host.Outcome State Fault Refusal :=
  .next (s.issue c.toNat 0x2B fe 0 (fun x w => { writes := [(aluSub (x.D (fS w)) (x.D (fT w))).flags] }) id)

/-- SHL (R523): by D[t][4:0]. -/
def execShl (c : BitVec 8) (fe : Bool) (s : State) : Host.Outcome State Fault Refusal :=
  .next (s.issue c.toNat 0x30 fe 0 (fun x w => x.shift .left w (x.D (fT w) % 32)) id)

/-- SHR (R523). -/
def execShr (c : BitVec 8) (fe : Bool) (s : State) : Host.Outcome State Fault Refusal :=
  .next (s.issue c.toNat 0x31 fe 0 (fun x w => x.shift .right w (x.D (fT w) % 32)) id)

/-- SAR (R523). -/
def execSar (c : BitVec 8) (fe : Bool) (s : State) : Host.Outcome State Fault Refusal :=
  .next (s.issue c.toNat 0x32 fe 0 (fun x w => x.shift .arith w (x.D (fT w) % 32)) id)

/-- SHLI (R523): by k. -/
def execShli (c : BitVec 8) (fe : Bool) (s : State) : Host.Outcome State Fault Refusal :=
  .next (s.issue c.toNat 0x33 fe 0 (fun x w => x.shift .left w (fT w)) id)

/-- SHRI (R523). -/
def execShri (c : BitVec 8) (fe : Bool) (s : State) : Host.Outcome State Fault Refusal :=
  .next (s.issue c.toNat 0x34 fe 0 (fun x w => x.shift .right w (fT w)) id)

/-- SARI (R523). -/
def execSari (c : BitVec 8) (fe : Bool) (s : State) : Host.Outcome State Fault Refusal :=
  .next (s.issue c.toNat 0x35 fe 0 (fun x w => x.shift .arith w (fT w)) id)

/-- BTST (R523): T takes a bit of s. -/
def execBtst (c : BitVec 8) (fe : Bool) (s : State) : Host.Outcome State Fault Refusal :=
  .next (s.issue c.toNat 0x36 fe 0 (fun x w =>
    { writes := [wF 0 (512 * b2n (bit (x.D (fS w)) (bits w 12 9))) 512] }) id)

/-- CLZ (R523). -/
def execClz (c : BitVec 8) (fe : Bool) (s : State) : Host.Outcome State Fault Refusal :=
  .next (s.issue c.toNat 0x37 fe 0 (fun x w => x.result (fD w) (clz16 (x.D (fS w)))) id)

/-- MOVI (R523). -/
def execMovi (c : BitVec 8) (fe : Bool) (s : State) : Host.Outcome State Fault Refusal :=
  .next (s.issue c.toNat 0x40 fe 0 (fun x w => { writes := [x.wD 0 (fD w) (fImm w)] }) id)

/-- ADDI (R523). -/
def execAddi (c : BitVec 8) (fe : Bool) (s : State) : Host.Outcome State Fault Refusal :=
  .next (s.issue c.toNat 0x41 fe 0 (fun x w =>
    let r := aluAdd (x.D (fD w)) (fImm w)
    { writes := [x.wD 0 (fD w) r.value, r.flags] }) id)

/-- ANDI (R523). -/
def execAndi (c : BitVec 8) (fe : Bool) (s : State) : Host.Outcome State Fault Refusal :=
  .next (s.issue c.toNat 0x42 fe 0 (fun x w => x.result (fD w) (x.D (fD w) &&& fImm w)) id)

/-- CMPI (R523): the flags of d − imm. -/
def execCmpi (c : BitVec 8) (fe : Bool) (s : State) : Host.Outcome State Fault Refusal :=
  .next (s.issue c.toNat 0x43 fe 0 (fun x w => { writes := [(aluSub (x.D (fD w)) (fImm w)).flags] }) id)

/-- MOV (R523). -/
def execMov (c : BitVec 8) (fe : Bool) (s : State) : Host.Outcome State Fault Refusal :=
  .next (s.issue c.toNat 0x44 fe 0 (fun x w => { writes := [x.wD 0 (fD w) (x.D (fS w))] }) id)

/-- MOVDA (R523): D[d] takes A[a]. -/
def execMovda (c : BitVec 8) (fe : Bool) (s : State) : Host.Outcome State Fault Refusal :=
  .next (s.issue c.toNat 0x45 fe 0 (fun x w => { writes := [x.wD 0 (fD w) (x.A (bits w 18 16))] }) id)

/-- MOVAD (R523): A[a] takes D[s]. -/
def execMovad (c : BitVec 8) (fe : Bool) (s : State) : Host.Outcome State Fault Refusal :=
  .next (s.issue c.toNat 0x46 fe 0 (fun x w => { writes := [wA (bits w 23 21) (x.D (fS w))] }) id)

/-- MOVMD (R523): M[m] takes D[s]. -/
def execMovmd (c : BitVec 8) (fe : Bool) (s : State) : Host.Outcome State Fault Refusal :=
  .next (s.issue c.toNat 0x47 fe 0 (fun x w =>
    { writes := [{ left := 0, kind := 2, ix := bits w 23 21, value := x.D (fS w) }] }) id)

/-- ADDA (R523): A[a][14:0] plus imm; bit 15 unchanged. -/
def execAdda (c : BitVec 8) (fe : Bool) (s : State) : Host.Outcome State Fault Refusal :=
  .next (s.issue c.toNat 0x48 fe 0 (fun x w =>
    let a := bits w 23 21
    { writes := [wA a (x.A a / 32768 * 32768 + x.offsetAddr a (fImm w))] }) id)

/-- SEL (R523): s when T = 1, else t. -/
def execSel (c : BitVec 8) (fe : Bool) (s : State) : Host.Outcome State Fault Refusal :=
  .next (s.issue c.toNat 0x49 fe 0 (fun x w =>
    { writes := [x.wD 0 (fD w) (if bit x.sr 9 then x.D (fS w) else x.D (fT w))] }) id)

/-! ## Data memory (R524) -/

/-- LD (R524). `err` is what the memory finds in the word (R490). -/
def execLd (c : BitVec 8) (fe : Bool) (err : BitVec 2) (s : State) : Host.Outcome State Fault Refusal :=
  .next (s.issue c.toNat 0x50 fe err.toNat (fun x w =>
    let a := bits w 18 16
    x.load (fD w) (x.addr a) (x.post a (bits w 15 14))) id)

/-- ST (R524). -/
def execSt (c : BitVec 8) (fe : Bool) (s : State) : Host.Outcome State Fault Refusal :=
  .next (s.issue c.toNat 0x51 fe 0 (fun x w =>
    let a := bits w 18 16
    x.store (fD w) (x.addr a) (x.post a (bits w 15 14))) id)

/-- LDO (R524): at A[a] + imm. -/
def execLdo (c : BitVec 8) (fe : Bool) (err : BitVec 2) (s : State) : Host.Outcome State Fault Refusal :=
  .next (s.issue c.toNat 0x52 fe err.toNat (fun x w => x.load (fD w) (x.offsetAddr (bits w 18 16) (fImm w)) []) id)

/-- STO (R524). -/
def execSto (c : BitVec 8) (fe : Bool) (s : State) : Host.Outcome State Fault Refusal :=
  .next (s.issue c.toNat 0x53 fe 0 (fun x w => x.store (fD w) (x.offsetAddr (bits w 18 16) (fImm w)) []) id)

/-- LDXY (R524): two loads. Where both name one register the spec does not say which value it keeps: a free value. -/
def execLdxy (c : BitVec 8) (fe : Bool) (err : BitVec 2) (s : State) : Host.Outcome State Fault Refusal :=
  .next (s.issue c.toNat 0x54 fe err.toNat (fun x w =>
    let ax := bits w 13 11
    let ay := bits w 8 6
    let p := x.load (fD w) (x.addr ax) (x.post ax (bits w 10 9))
    let q := x.load (fS w) (x.addr ay) (x.post ay (bits w 5 4))
    { writes := p.writes ++ q.writes, access := p.access ++ q.access, openD := fD w == fS w,
      stall := x.addr ax % 16 == x.addr ay % 16 }) id)

/-- LDST (R524): the X load before the Y store. -/
def execLdst (c : BitVec 8) (fe : Bool) (err : BitVec 2) (s : State) : Host.Outcome State Fault Refusal :=
  .next (s.issue c.toNat 0x55 fe err.toNat (fun x w =>
    let ax := bits w 13 11
    let ay := bits w 8 6
    let p := x.load (fD w) (x.addr ax) (x.post ax (bits w 10 9))
    let q := x.store (fS w) (x.addr ay) (x.post ay (bits w 5 4))
    { writes := p.writes ++ q.writes, stores := q.stores, access := p.access ++ q.access,
      stall := x.addr ax % 16 == x.addr ay % 16 }) id)

/-! ## Multiply-accumulate (R525, R526) -/

/-- MAC (R525): signed × signed. -/
def execMac (c : BitVec 8) (fe : Bool) (s : State) : Host.Outcome State Fault Refusal :=
  .next (s.issue c.toNat 0x60 fe 0 (fun x w => { writes := x.accumulate w (x.product w) false }) id)

/-- MACSU (R525): signed × unsigned. -/
def execMacsu (c : BitVec 8) (fe : Bool) (s : State) : Host.Outcome State Fault Refusal :=
  .next (s.issue c.toNat 0x61 fe 0 (fun x w =>
    { writes := x.accumulate w (sext 16 (x.D (bits w 21 17)) * (x.D (bits w 16 12) : Int)) false }) id)

/-- MACUU (R525): unsigned × unsigned. -/
def execMacuu (c : BitVec 8) (fe : Bool) (s : State) : Host.Outcome State Fault Refusal :=
  .next (s.issue c.toNat 0x62 fe 0 (fun x w =>
    { writes := x.accumulate w ((x.D (bits w 21 17) : Int) * (x.D (bits w 16 12) : Int)) false }) id)

/-- MSU (R525). -/
def execMsu (c : BitVec 8) (fe : Bool) (s : State) : Host.Outcome State Fault Refusal :=
  .next (s.issue c.toNat 0x63 fe 0 (fun x w => { writes := x.accumulate w (-(x.product w)) false }) id)

/-- MUL (R525). -/
def execMul (c : BitVec 8) (fe : Bool) (s : State) : Host.Outcome State Fault Refusal :=
  .next (s.issue c.toNat 0x64 fe 0 (fun x w => { writes := accWrite (bits w 23 22) (x.product w) false }) id)

/-- MACL (R525): MAC with a load. -/
def execMacl (c : BitVec 8) (fe : Bool) (err : BitVec 2) (s : State) : Host.Outcome State Fault Refusal :=
  .next (s.issue c.toNat 0x65 fe err.toNat (fun x w => x.macLoad w (x.accumulate w (x.product w) false)) id)

/-- MSUL (R525): MSU with a load. -/
def execMsul (c : BitVec 8) (fe : Bool) (err : BitVec 2) (s : State) : Host.Outcome State Fault Refusal :=
  .next (s.issue c.toNat 0x66 fe err.toNat (fun x w => x.macLoad w (x.accumulate w (-(x.product w)) false)) id)

/-- MACS (R525): clamped. -/
def execMacs (c : BitVec 8) (fe : Bool) (s : State) : Host.Outcome State Fault Refusal :=
  .next (s.issue c.toNat 0x67 fe 0 (fun x w => { writes := x.accumulate w (x.product w) true }) id)

/-- ACCR (R526): reads an accumulator, shifted, rounded and limited. -/
def execAccr (c : BitVec 8) (fe : Bool) (s : State) : Host.Outcome State Fault Refusal :=
  .next (s.issue c.toNat 0x70 fe 0 (fun x w =>
    let (v, sat) := accRead (accInt (x.ACC (bits w 18 17))) w
    { writes := [x.wD 2 (fD w) v, wF 2 (zn v + 24 * b2n sat) (11 + 16 * b2n sat)] }) id)

/-- ACCX (R526): reads a part of an accumulator. -/
def execAccx (c : BitVec 8) (fe : Bool) (s : State) : Host.Outcome State Fault Refusal :=
  .next (s.issue c.toNat 0x71 fe 0 (fun x w =>
    let v := x.ACC (bits w 18 17)
    let r := match bits w 16 15 with
      | 0 => v % 65536
      | 1 => v / 2 ^ 16 % 65536
      | _ => wrapInt 16 (sext 8 (v / 2 ^ 32))
    { writes := [x.wD 2 (fD w) r] }) id)

/-- ACCLD (R525). -/
def execAccld (c : BitVec 8) (fe : Bool) (s : State) : Host.Outcome State Fault Refusal :=
  .next (s.issue c.toNat 0x72 fe 0 (fun x w =>
    { writes := accWrite (bits w 23 22) (sext 16 (x.D (fS w)) * ((2 ^ fT w : Nat) : Int)) false }) id)

/-- ACCCLR (R525). -/
def execAccclr (c : BitVec 8) (fe : Bool) (s : State) : Host.Outcome State Fault Refusal :=
  .next (s.issue c.toNat 0x73 fe 0 (fun _ w => { writes := accWrite (bits w 23 22) 0 false }) id)

/-- ACCADD (R525). -/
def execAccadd (c : BitVec 8) (fe : Bool) (s : State) : Host.Outcome State Fault Refusal :=
  .next (s.issue c.toNat 0x74 fe 0 (fun x w =>
    { writes := x.accumulate w (accInt (x.ACC (bits w 21 20))) false }) id)

/-! ## Add-compare-select (R527) -/

/-- ACS (R527). -/
def execAcs (c : BitVec 8) (fe : Bool) (s : State) : Host.Outcome State Fault Refusal :=
  .next (s.issue c.toNat 0x80 fe 0 (fun x w =>
    let m := x.D (bits w 8 4)
    let s0 := (x.D (fS w) + m) % 65536
    let s1 := if bit w 2 then wrapInt 16 ((x.D (fT w) : Int) - (m : Int)) else (x.D (fT w) + m) % 65536
    let diff := sext 16 (wrapInt 16 ((s1 : Int) - (s0 : Int)))
    let one := if bit w 3 then decide (0 < diff) else decide (diff < 0)
    { writes := [x.wD 2 (fD w) (if one then s1 else s0), { left := 2, kind := 4, value := b2n one }] }) id)

/-- DECBIT (R527): bit n of DEC. -/
def execDecbit (c : BitVec 8) (fe : Bool) (s : State) : Host.Outcome State Fault Refusal :=
  .next (s.issue c.toNat 0x81 fe 0 (fun x w => { writes := [x.wD 0 (fD w) (b2n (bit x.dec (bits w 4 0)))] }) id)

end Sys2Proof.Machine
end

