-- ==== Sys2Proof/Machine/Cores.lean ====
section
/-! DEFINITION. Machine/Cores.lean: the core descriptors, interrupts, grants, failure and registers of the signal cores
(spec/17, R471; spec/18, R489, R501 to R515; spec/21, R569). -/
namespace Sys2Proof.Machine

/-! Interrupt sources of `CoreSt.src` (R506). -/
abbrev Src.DMA_DONE : Nat := 0
abbrev Src.TIMER : Nat := 1
abbrev Src.MAILBOX : Nat := 2
abbrev Src.COLL_RING : Nat := 3

/-- Set an interrupt source of a core. -/
def State.raiseCore (s : State) (c b : Nat) : State :=
  let x := s.core c
  s.setCore c { x with src := x.src ||| 2 ^ b }

/-- The checks every core descriptor shares (R29): the core is held. -/
def State.coreChecks (s : State) (d : Desc) (c : Nat) : List (Bool × Nat) :=
  [(s.coreHolder c != d.tenant.toNat, St.REFUSED_NOT_OWNER)]

/-- CORE_LOAD (R489, R501, R569): `data` false writes instructions from `first`, true words. -/
def execCoreLoad (d : Desc) (c : BitVec 8) (data : Bool) (first : BitVec 16) (items : List Word) (s : State) : Host.Outcome State Fault Refusal :=
  let n := c.toNat
  let size := if data then 32768 else 8192
  .next (s.descriptor d false false
    (s.coreChecks d n ++
     [(decide (size < first.toNat + items.length), St.BAD_ARGUMENT),
      (!s.domOn (domCluster (n / 16)), St.REFUSED_POWER),
      (s.coreState n != Core.STOPPED, St.REFUSED_BUSY)])
    (fun s =>
      if d.readFail then s.readFailed d
      else
        let x := s.core n
        let vs := items.map (fun (w : Word) => w.toNat)
        let y := if data then x.setWords first.toNat vs
          else
            let m := ((upTo vs.length).zip vs).foldl (fun (m : Tbl Nat) p => Tbl.set 0 (first.toNat + p.1) p.2 m) x.imem
            { x with imem := m }
        (s.setCore n y).ok d))

/-- The state CORE_START and a power-up set (R488): the memories, the sources and the queued commands stay. -/
def CoreSt.started (x : CoreSt) (entry : Nat) : CoreSt :=
  { imem := x.imem, dmem := x.dmem, src := x.src, dma := x.dma, dmaStatus := x.dmaStatus, ringHead := x.ringHead,
    pc := entry }

/-- CORE_START (R488, R501). -/
def execCoreStart (d : Desc) (c : BitVec 8) (entry : BitVec 16) (s : State) : Host.Outcome State Fault Refusal :=
  let n := c.toNat
  .next (s.descriptor d false false
    (s.coreChecks d n ++
     [(decide (8192 ≤ entry.toNat), St.BAD_ARGUMENT),
      (!s.domOn (domCluster (n / 16)), St.REFUSED_POWER),
      (s.coreState n != Core.STOPPED && s.coreState n != Core.FAULTED, St.REFUSED_NOT_READY)])
    (fun s =>
      let s := s.setCore n ((s.core n).started entry.toNat)
      ((s.setCoreState n Core.RUNNING).clr F.SGC_STATUS_fault_cause n).ok d))

/-- A core gives its task back and its ask up (R477); `cause` as R480. -/
def State.dropTask (s : State) (n cause : Nat) : State :=
  let s := s.loseTasks n cause
  s.setCore n { (s.core n).drain with th := 0 }

/-- A core stops (R501). -/
def State.stopCore (s : State) (n cause : Nat) : State := (s.dropTask n cause).setCoreState n Core.STOPPED

/-- CORE_STOP (R501): a core that is not RUNNING or WAITING has no transition; the descriptor completes OK. -/
def execCoreStop (d : Desc) (c : BitVec 8) (s : State) : Host.Outcome State Fault Refusal :=
  let n := c.toNat
  .next (s.descriptor d false false
    (s.coreChecks d n ++ [(!s.domOn (domCluster (n / 16)), St.REFUSED_POWER)])
    (fun s =>
      let s := s.when (s.coreState n == Core.RUNNING || s.coreState n == Core.WAITING) (fun s => s.stopCore n 2)
      s.ok d))

/-- CORE_SIGNAL (R504, R569): raises MAILBOX. -/
def execCoreSignal (d : Desc) (c : BitVec 8) (s : State) : Host.Outcome State Fault Refusal :=
  let n := c.toNat
  .next (s.descriptor d false false
    (s.coreChecks d n ++ [(!s.domOn (domCluster (n / 16)), St.REFUSED_POWER)])
    (fun s => (s.raiseCore n Src.MAILBOX).ok d))

/-! ## Interrupts (R504 to R507) -/

/-- The sources set, TIMER by its level. -/
def State.coreSources (s : State) (c : Nat) : Nat :=
  let x := s.core c
  x.src ||| (if x.tcmp ≤ s.now then 2 ^ Src.TIMER else 0)

/-- The lowest pending cause the core's imask lets through (R506), as 0 to 3. -/
def State.coreIrq (s : State) (c : Nat) : Option Nat :=
  (upTo 4).find? (fun b => bit (s.coreSources c) b && bit (s.core c).sr (10 + b))

/-- INTERRUPT_ENTRY (R502, R505 to R507): at a takeable boundary, the lowest pending cause is taken. A waiting core
withdraws its ask and returns to its TWAIT. -/
def execInterruptEntry (c : BitVec 8) (s : State) : Host.Outcome State Fault Refusal :=
  let n := c.toNat
  let x := s.core n
  let waiting := s.coreState n == Core.WAITING
  match s.coreIrq n with
  | none => .next s
  | some b =>
    if !bit x.sr 15 || !(waiting || (s.coreState n == Core.RUNNING && !x.hold && x.slots == 0 && x.rep == 0)) then .next s
    else
      let pc := if waiting then (x.pc + 8191) % 8192 else x.pc
      let s := s.when waiting (fun s =>
        { s with swf := { s.swf with asks := s.swf.asks.filter (fun a => a.source != n) } })
      let s := s.excInfo n (8 + b) x.slots x.rep pc
      let y := x.enter (8 + b) pc (s.get F.SGC_VECTOR_base n)
      let s := s.setCore n { y with src := x.src &&& (15 ^^^ 2 ^ b) }
      .next (s.setCoreState n Core.RUNNING)

/-- TIMER_MATCH (R504): the timebase reaches TCMP; TIMER is pending from then on. 2^64 − 1 stands for no compare, since
the timebase counts in steps of 8. -/
def execTimerMatch (c : BitVec 8) (s : State) : Host.Outcome State Fault Refusal :=
  let t := (s.core c.toNat).tcmp
  .next (if t + 7 < 2 ^ 64 then s.advanceTo ((t + 7) / 8 * 8) else s)

/-! ## Grants (R471, R472, R502) -/

/-- The 32 words of a 64-byte block. -/
def words32 (v : Nat) : List Nat := (upTo 32).map (fun i => v / 2 ^ (16 * i) % 65536)

/-- A task is delivered to a core (R502). A halted core stays HALTED and is RUNNING when it resumes. -/
def State.deliverCore (s : State) (c slot : Nat) : State :=
  let k := s.task slot
  let base := s.get F.SGC_TASK_CFG_task_base c
  let x := (s.core c).setWords base (words32 (s.taskHeader slot))
  let x := ((upTo k.tokens.length).zip k.tokens).foldl
    (fun (x : CoreSt) p => x.setWords (base + 32 + 32 * p.1) (words32 p.2)) x
  let x := { x with th := k.handle slot }
  if s.coreState c = Core.HALTED then s.setCore c { x with before := Core.RUNNING }
  else (s.setCore c x).setCoreState c Core.RUNNING

/-- TASK_GRANT (R471, R472, R502): the next ready task of a pool goes to the executor that asked first. -/
def execTaskGrant (pool : BitVec 12) (s : State) : Host.Outcome State Fault Refusal :=
  match s.swf.asks.find? (fun a => a.pool == pool.toNat), s.nextReady pool.toNat with
  | some a, some slot =>
    let k := s.task slot
    let limit := match a.host with | some (_, _, _, t) => t | none => 0
    let s := { s with swf := { s.swf with asks := s.swf.asks.erase a } }
    let s := s.setTask slot { k with phase := Phase.GRANTED, exec := a.source, limit := limit }
    let s := s.countReady pool.toNat
    let s := s.swfTrace Trace.GRANT (s.opHolder k.op) k.op (k.handle slot) a.source pool.toNat
    let hdr := s.taskHeader slot
    let s := match a.host with
      | some (d, buffer, _, _) =>
        let bytes := natBytes 64 hdr ++ k.tokens.flatMap (fun t => natBytes 64 t)
        (s.hostWrite d.tenant.toNat buffer bytes).ok d (k.handle slot)
      | none => if a.source < 256 then s.deliverCore a.source slot else s.send (.dispatch a.source hdr k.tokens)
    swfNext s
  | _, _ => .next s

/-! ## Failure (R508, F7) -/

/-- The commands of a failed core that have not started end with ABORTED_FAULT. -/
def CoreSt.abortDma (x : CoreSt) : CoreSt :=
  let keep := if x.dmaStatus.isSome then 1 else 0
  let x := (x.dma.drop keep).foldl (fun (x : CoreSt) a => x.setWord (a + 1) (256 + St.ABORTED_FAULT)) x
  { x with dma := x.dma.take keep }

/-- A core is declared failed (R508). -/
def State.failCore (s : State) (n cause : Nat) : State :=
  if s.coreState n = Core.OFF ∨ s.coreState n = Core.FAILED then s
  else
    let th := (s.core n).th
    let more := (upTo 256).any (fun m => s.coreState m == Core.FAILED)
    let s := s.dropTask n 0
    let s := s.setCore n (s.core n).abortDma
    let s := (s.setCoreState n Core.FAILED).put F.SGC_STATUS_fault_cause cause n
    ((s.ev F.SGC_EVENTS_core_failed n).fault 7 more).log 0x60 2 n [cause, th]

/-- CORE_FAILURE (R489, R508): an uncorrectable fetch, or with `datapath` a parity failure. -/
def execCoreFailure (c : BitVec 8) (datapath : Bool) (s : State) : Host.Outcome State Fault Refusal :=
  .next (s.failCore c.toNat (if datapath then V.SGC_STATUS_fault_cause_DATAPATH else V.SGC_STATUS_fault_cause_IMEM_UE))

/-- CORE_NO_PROGRESS_TIMEOUT (R508): RUNNING, it issued nothing for 10 µs; a stall on a full DMA queue does not count. -/
def execCoreNoProgressTimeout (c : BitVec 8) (s : State) : Host.Outcome State Fault Refusal :=
  let x := s.core c.toNat
  if s.coreState c.toNat ≠ Core.RUNNING ∨ (4 ≤ x.dma.length ∧ x.fetched / 2 ^ 24 = 0x13) then .next s
  else .next (s.failCore c.toNat V.SGC_STATUS_fault_cause_NO_PROGRESS)

end Sys2Proof.Machine
end

