-- ==== Sys2Proof/Machine/Reading.lean ====
section
/-! DEFINITION. Machine/Reading.lean: leaf reads, the collator, the searches (spec/12, R321 to R343), a core's ring (R499,
R500), and CAPTURE_RELEASE (R297, R338). -/
namespace Sys2Proof.Machine

/-! ## The bytes of a leaf (R225, R293, R294) -/

/-- A strip's 64 bytes. -/
def Strip.bytes (x : Strip) : List Nat :=
  natBytes 64 (x.type * 2 ^ 28 + x.lane % 16 * 2 ^ 24 + x.delta % 2 ^ 20 * 16 + x.flags % 16 + x.payload % 2 ^ 480 * 2 ^ 32)

/-- The header strip of a leaf of quire `q`. -/
def Leaf.header (l : Leaf) (q : Nat) : List Nat :=
  natBytes 64 (pack [(0, 0x4C46), (2, l.ltype), (3, l.flags), (4, l.stream), (6, l.tenant), (8, q), (12, l.seq), (16, l.base),
    (24, l.next + 2 ^ 63 * b2n l.last), (32, l.counter), (36, l.ribbons % 65536), (38, l.gaps % 65536), (40, l.tag)])

/-- Strips 1 to 63 in clear. -/
def Leaf.body (l : Leaf) : List Nat :=
  if l.ltype = 2 then (upTo 4032).map (fun i => Tbl.get 0 l.pat i)
  else
    let b := l.strips.flatMap Strip.bytes
    b ++ List.replicate (4032 - b.length) 0

/-- Strips 1 to 63 as stored: ciphertext under the leaf's key (log entry 4). -/
def Leaf.cipher (l : Leaf) (q : Nat) : List Nat := natBytes 4032 (Config.keyValue 5 (natOf (l.header q ++ l.body)))

/-- A leaf of a quire, when it has been sealed (R295). -/
def Quire.leaf? (y : Quire) (i : Nat) : Option Leaf := (y.leaves.find? (fun p => p.1 == i)).map (fun p => p.2)

/-- A leaf is current (R322): its counter equals its quire's. -/
def Quire.fresh (y : Quire) (l : Leaf) : Bool := l.counter == y.counter

/-! ## Leaf reads (R321 to R326, R449) -/

/-- A raw read by a master of tenant `t` is blocked (R449). -/
def State.rawBlocked (s : State) (t q : Nat) : Bool :=
  let y := s.quire q
  s.on F.SEC_CTRL_tm3080_compat && (y.tenant != t || y.ltype == 4 || y.ltype == 5)

/-- A blocked raw read is counted (R449). -/
def State.blockRaw (s : State) : State := (s.cnt F.SEC_BLOCKED_COUNT_value).ev F.SEC_EVENTS_blocked

/-- The quire's state lets a leaf be read (R324). -/
def Quire.readable (y : Quire) : Bool := y.state == Qr.OPEN || y.state == Qr.SEALED || y.state == Qr.DRAINING

/-- Why a leaf read by tenant `t` is refused (R29, R324, R325, R428): 0 for none. -/
def State.leafStatus (s : State) (raw : Bool) (t n q i : Nat) : Nat :=
  let y := s.quire q
  let any := raw && t == 0
  let mine := decide (n < 1024) && (s.strmState n == Strm.IDLE || (s.strmHolder n != t && !any))
  let theirs := decide (q < 524288) && (y.state == Qr.FREE || (y.tenant != t && !any))
  let leaf := y.leaf? i
  (firstFailing
    [(mine || theirs, St.REFUSED_NOT_OWNER),
     (raw && decide (n < 1024) && decide (q < 524288) && s.rawBlocked t q, St.REFUSED_NOT_OWNER),
     (decide (1024 ≤ n) || decide (524288 ≤ q) || y.stream != n || decide (y.used ≤ i), St.BAD_ARGUMENT),
     (!y.readable || leaf.isNone || (!raw && leaf.any (fun l => !y.fresh l)), St.REFUSED_NOT_READY),
     (!raw && y.tenant != 0 && s.sealCheck y.tenant != 0, St.REFUSED_NOT_READY)]).getD 0

/-- LEAF_READ (R324): `tagBad` is a failed authentication. -/
def execLeafRead (d : Desc) (n : BitVec 16) (q : Word) (leaf : BitVec 16) (buffer : BitVec 64) (tagBad : Bool) (s : State) :
    Host.Outcome State Fault Refusal :=
  let st := s.leafStatus false d.tenant.toNat n.toNat q.toNat leaf.toNat
  .next (s.descriptor d false false [(st != 0, st)] (fun s =>
    match (s.quire q.toNat).leaf? leaf.toNat with
    | some l =>
      let tagBad := tagBad || s.leafBroken q.toNat leaf.toNat
      let body := if tagBad then List.replicate 4032 0 else l.body
      let s := s.hostWrite d.tenant.toNat buffer.toNat (l.header q.toNat ++ body)
      if tagBad then s.complete d St.INTEGRITY 0 else s.ok d
    | none => s))

/-- LEAF_READ_RAW (R325, R326, R449). -/
def execLeafReadRaw (d : Desc) (n : BitVec 16) (q : Word) (leaf : BitVec 16) (buffer : BitVec 64) (s : State) :
    Host.Outcome State Fault Refusal :=
  let st := s.leafStatus true d.tenant.toNat n.toNat q.toNat leaf.toNat
  let asked := !s.dead && s.boot.ready && !d.rsvSet && decide (q.toNat < 524288) && (s.quire q.toNat).state != Qr.FREE
  let s := s.when (asked && st == St.REFUSED_NOT_OWNER && s.rawBlocked d.tenant.toNat q.toNat &&
    (d.tenant == 0 || s.strmHolder n.toNat == d.tenant.toNat)) State.blockRaw
  .next (s.descriptor d false false [(st != 0, st)] (fun s =>
    let y := s.quire q.toNat
    match y.leaf? leaf.toNat with
    | some l =>
      let s := s.hostWrite d.tenant.toNat buffer.toNat (l.header q.toNat ++ l.cipher q.toNat)
      s.ok d (y.counter + 2 ^ 63 * b2n (!y.fresh l))
    | none => s))

/-! ## The retained leaves of a stream -/

/-- The sealed, current leaves of a quire, in order. -/
def Quire.current (y : Quire) : List (Nat × Leaf) :=
  if y.readable then y.leaves.filter (fun p => y.fresh p.2 && decide (p.1 < y.used)) else []

/-- The quires of a stream's capture, oldest first. -/
def State.chain (s : State) (n : Nat) : List Nat := (s.strm n).quires

/-- Every retained leaf of a stream, oldest first: quire, index, leaf. -/
def State.retained (s : State) (n : Nat) : List (Nat × Nat × Leaf) :=
  (s.chain n).flatMap (fun q => ((s.quire q).current).map (fun p => (q, p.1, p.2)))

/-- The leaf a time search finds (R333), and whether `t` lies before the first one. -/
def State.seek (s : State) (n t : Nat) : Option ((Nat × Nat × Leaf) × Bool) :=
  let ls := s.retained n
  match (ls.filter (fun r => decide (r.2.2.base ≤ t))).getLast? with
  | some r => some (r, false)
  | none => ls.head?.map (fun r => (r, true))

/-- The time below which nothing of an active stream is unsealed, staged or unplaced (R336). -/
def State.horizon (s : State) (n : Nat) : Option Nat :=
  let st := s.strmState n
  if st = Strm.CLOSED ∨ st = Strm.IDLE then none
  else
    let x := s.strm n
    let open' := match x.leaf with
      | some l => (timeStrips l.base 1 l.strips).map (fun r => r.2.1)
      | none => []
    let held := (x.wait ++ x.notes).map (fun (i : Item) => i.time)
    let ms := x.members.flatMap (fun (y : Member) =>
      [y.ended] ++ (if y.nbits = 0 then [] else [y.start]) ++ (match y.run with | some r => [r.start] | none => []) ++
        (match y.gap with | some g => [g.first] | none => []) ++ (match y.store with | some g => [g.first] | none => []) ++
        y.storeDone.map (fun i => i.time))
    some ((open' ++ held ++ ms).foldl Nat.min s.now)

/-- A session's horizon, none where all its streams are closed. -/
def State.sessHorizon (s : State) (z : Session) : Option Nat :=
  (z.streams.filterMap (fun x => if x.released then none else s.horizon x.id)).foldl
    (fun (a : Option Nat) h => match a with | some b => some (Nat.min b h) | none => some h) none

/-! ## Sessions (R327 to R332) -/

/-- An open session. -/
def State.sess (s : State) (n : Nat) : Option Session := (s.coll.sessions.find? (fun p => p.1 == n)).map (fun p => p.2)

/-- Show the sessions in CAP.COLL_STATUS and a session's own status (R341, R343). -/
def State.showSess (s : State) (n : Nat) (waiting : Bool) : State :=
  let s := s.put F.CAP_COLL_STATUS_open s.coll.sessions.length
  let s := match s.sess n with
    | some _ => s.put F.CAP_SESS_STATUS_state (if waiting then 2 else 1) n
    | none => s.setWord Reg.CAP_SESS_STATUS 0 n
  let busy := (upTo 32).foldl (fun b k =>
    if s.get F.CAP_SESS_STATUS_state k = 1 then b ||| 2 ^ s.get F.CAP_SESS_STATUS_engine k else b) 0
  s.put F.CAP_COLL_STATUS_busy busy

/-- Replace a session. -/
def State.setSess (s : State) (n : Nat) (z : Session) : State :=
  let l := s.coll.sessions.map (fun (p : Nat × Session) => if p.1 == n then (n, z) else p)
  { s with coll := { s.coll with sessions := l } }

/-- A session ends (R330, R332): its final completion holds the last key time returned. -/
def State.endSess (s : State) (n st : Nat) : State :=
  match s.sess n with
  | none => s
  | some z =>
    let s := { s with coll := { s.coll with sessions := s.coll.sessions.filter (fun p => p.1 != n) } }
    (s.showSess n false).complete z.desc st ((z.last.head?).getD 0)

/-- End every session of a tenant (R332, R432). -/
def State.endTenantSess (s : State) (t st : Nat) : State :=
  s.each (s.coll.sessions.filter (fun p => p.2.desc.tenant.toNat == t)) (fun s p => s.endSess p.1 st)

/-- COLLATE_OPEN (R327, R500, R569): `ids` are the streams read from the buffer, `ring` the HOST ring or the SECTION
window offset, `unit` the core or section. -/
def execCollateOpen (d : Desc) (count flags : BitVec 8) (mask : BitVec 16) (start stop : BitVec 64) (ids : List (BitVec 16))
    (ring : BitVec 64) (slots : Word) (unit : BitVec 16) (s : State) : Host.Outcome State Fault Refusal :=
  let t := d.tenant.toNat
  let f := flags.toNat
  let dest := bits f 3 2
  let u := unit.toNat
  let ns := ((ids.map BitVec.toNat).take count.toNat).eraseDups
  let free := findFrom (fun k => (s.sess k).isNone) 32 0
  let core := dest == 1
  let sec := dest == 2
  .next (s.descriptor d false false
    [(f / 16 != 0, St.RESERVED_FIELD_SET),
     (!d.readFail && ns.any (fun n => decide (n < 1024) && s.strmState n != Strm.IDLE && s.strmHolder n != t),
       St.REFUSED_NOT_OWNER),
     ((core && decide (u < 256) && s.coreHolder u != t) ||
       (sec && decide (u < 256) && s.get F.FAB_SECT_STATUS_holder u != t), St.REFUSED_NOT_OWNER),
     (count == 0 || decide (64 < count.toNat) || dest == 3 || (!core && slots == 0) || (dest != 0 && decide (256 ≤ u)) ||
       (!d.readFail && ns.any (fun n => decide (1024 ≤ n))) || (dest == 0 && ring.toNat % 64 != 0) ||
       (stop != 0 && decide (stop.toNat < start.toNat)), St.BAD_ARGUMENT),
     (!d.readFail && ns.any (fun n => s.strmKind n == Kind.PATTERN), St.MODE_CONFLICT),
     ((core && !s.domOn (domCluster (u / 16))) || (sec && s.get F.FAB_SECT_STATUS_state u != Sec.RUNNING), St.REFUSED_POWER),
     (!d.readFail && ns.any (fun n => s.strmState n == Strm.IDLE), St.REFUSED_NOT_READY),
     (!d.readFail && ns.any (fun n => s.strmKind n != Kind.DEVICE) && s.sealCheck t != 0, St.REFUSED_NOT_READY),
     (core && s.get F.SGC_COLL_CFG_slots u == 0, St.REFUSED_NOT_READY),
     (free.isNone || (core && s.coll.sessions.any (fun p => p.2.dest == 1 && p.2.unit == u)), St.REFUSED_BUSY)]
    (fun s =>
      if d.readFail then s.readFailed d
      else match free with
        | none => s.refuse d St.REFUSED_BUSY
        | some k =>
          let first := fun (n : Nat) => match s.seek n (start.toNat - 256000) with
            | some (r, _) => r.2.2.seq
            | none => (s.strm n).seq
          let z : Session :=
            { desc := d, follow := bit f 0, mark := bit f 1, dest := dest, unit := u, ring := ring.toNat, mask := mask.toNat,
              slots := if core then s.get F.SGC_COLL_CFG_slots u else slots.toNat, start := start.toNat,
              stop := stop.toNat, streams := ns.map (fun n => { id := n, base := first n }) }
          let e := s.coll.engine
          let s := { s with coll := { sessions := s.coll.sessions ++ [(k, z)], engine := (e + 1) % 8 } }
          let s := (s.setWord Reg.CAP_SESS_STATUS 0 k).put F.CAP_SESS_STATUS_mode (b2n z.follow) k
          let s := (s.put F.CAP_SESS_STATUS_on_integrity (b2n z.mark) k).put F.CAP_SESS_STATUS_engine e k
          let s := (s.put F.CAP_SESS_STATUS_dest dest k).put F.CAP_SESS_STATUS_streams ns.length k
          let s := (s.put F.CAP_SESS_STATUS_holder t k).put F.CAP_SESS_SKIPPED_value 0 k
          let s := s.setPair Reg.CAP_SESS_RECORDS_LO Reg.CAP_SESS_RECORDS_HI 0 k
          (s.showSess k false).complete d St.OK k true))

/-- COLLATE_CLOSE (R332). -/
def execCollateClose (d : Desc) (n : BitVec 8) (s : State) : Host.Outcome State Fault Refusal :=
  .next (s.descriptor d false false
    [((s.sess n.toNat).any (fun z => z.desc.tenant != d.tenant), St.REFUSED_NOT_OWNER),
     ((s.sess n.toNat).isNone, St.BAD_ARGUMENT)]
    (fun s => (s.endSess n.toNat St.OK).ok d))

/-! ## Records (R328, R329, R331, R337, R338) -/

/-- A record a session can return next: its order, its kind, the 80 bytes, what it marks as seen. -/
structure Cand where
  key : List Nat
  kind : Nat
  time : Nat
  stream : Nat
  idx : Nat := 0
  seq : Nat := 0
  body : List Nat := []
  mark : Option Nat := none
  wave : Bool := false

/-- The bytes of a record. -/
def Cand.bytes (c : Cand) : List Nat :=
  let b := natBytes 8 c.time ++ natBytes 2 c.stream ++ [c.kind, c.idx] ++ natBytes 4 c.seq ++ c.body
  b ++ List.replicate (80 - b.length) 0

/-- Bytes 16 onward of QUIRE_FAIL and QUIRE_LOST. -/
def quireBody (q : Nat) (y : Quire) : List Nat := natBytes 16 (pack [(0, q), (4, y.used % 65536), (8, y.last)])

/-- A leaf is one the session reads: at or after the first one, and before the end time. -/
def Session.reads (z : Session) (x : SessStream) (l : Leaf) : Bool :=
  decide ((l.seq + 2 ^ 32 - x.base) % 2 ^ 32 < 2 ^ 31) && (z.stop == 0 || decide (l.base < z.stop))

/-- The order of a failure's record: its quire's first timestamp, but not before what was returned. -/
def Session.failKey (z : Session) (x : SessStream) (y : Quire) (seq : Nat) : List Nat :=
  x.key (Nat.max y.first (Nat.max z.start ((z.last.head?).getD 0))) seq 0

/-- The candidates of one stream, below the session's horizon `h`. `badLeaves` and `badQuires` are those whose tags fail.
-/
def State.streamCands (s : State) (z : Session) (x : SessStream) (h : Option Nat) (badLeaves badQuires : List Nat) :
    List Cand :=
  let below := fun (t : Nat) => match h with | some b => decide (t < b) | none => true
  let fromQuire := fun (q : Nat) =>
    let y := s.quire q
    let seq := match y.leaf? 0 with | some l => l.seq | none => 0
    let inRange := decide (z.start ≤ y.last) && (z.stop == 0 || decide (y.first < z.stop)) && below y.first &&
      !z.seen.contains (2 ^ 33 + q)
    if y.state = Qr.LOST then
      if inRange then [{ key := z.failKey x y seq, kind := 3, time := y.first, stream := x.id, seq := seq,
                         body := quireBody q y, mark := some (2 ^ 33 + q) : Cand }] else []
    else if badQuires.contains q && y.readable then
      if inRange then [{ key := z.failKey x y seq, kind := 2, time := y.first, stream := x.id, seq := seq,
                         body := quireBody q y, mark := some (2 ^ 33 + q) : Cand }] else []
    else y.current.flatMap (fun p =>
      let l := p.2
      let num := q * 16384 + p.1
      if !z.reads x l then []
      else if badLeaves.contains num then
        if z.seen.contains num || !below l.base then []
        else [{ key := z.failKey x y l.seq, kind := 1, time := y.first, stream := x.id, seq := l.seq,
                body := natBytes 6 (pack [(0, q), (4, p.1)]), mark := some num : Cand }]
      else (l.timed.filter (fun r => z.wants x l r.1 r.2.1 r.2.2 && below r.2.1)).map (fun r =>
        { key := x.key r.2.1 l.seq r.1, kind := 0, time := r.2.1, stream := x.id, idx := r.1, seq := l.seq,
          body := r.2.2.bytes, wave := r.2.2.type == 7 && !bit r.2.2.flags 3 : Cand }))
  if x.released || x.ended then []
  else
    let overrun : List Cand := match x.overrun with
      | some (a, b) => [{ key := x.key a x.base 0, kind := 4, time := a, stream := x.id, body := natBytes 8 b : Cand }]
      | none => []
    let recs : List Cand := (s.chain x.id).flatMap fromQuire
    let t := s.pair Reg.CAP_STREAM_STOP_LO Reg.CAP_STREAM_STOP_HI x.id
    let fin : List Cand := if s.strmState x.id = Strm.CLOSED ∧ overrun.isEmpty ∧ recs.isEmpty ∧ below t ∧ (z.stop = 0 ∨ t < z.stop) then
        [{ key := [Nat.max t ((z.last.head?).getD 0), x.id, 2 ^ 32, 0], kind := 6, time := t, stream := x.id,
           body := [s.get F.CAP_STREAM_STATUS_end_cause x.id] : Cand }]
      else []
    overrun ++ recs ++ fin

/-- The next record of a session: a release first (R338), else the least key (R329). -/
def State.nextCand (s : State) (z : Session) (badLeaves badQuires : List Nat) : Option Cand :=
  let reached := Nat.max z.start ((z.last.head?).getD 0)
  match z.streams.find? (fun x => x.releasing) with
  | some x => some { key := z.last, kind := 5, time := reached, stream := x.id }
  | none =>
    let h := s.sessHorizon z
    (z.streams.flatMap (fun x => s.streamCands z x h badLeaves badQuires)).foldl
      (fun (a : Option Cand) c => match a with
        | some b => if keyLt c.key b.key then some c else some b
        | none => some c) none

/-- The words of a WAVE strip unpacked (R499): header, 34 values of 14 bits extended or shifted, zero. -/
def unpackWave (strip : List Nat) (shift2 : Bool) : List Nat :=
  let v := natOf strip
  let vals := (upTo 34).map (fun i =>
    let x := v / 2 ^ (32 + 14 * i) % 2 ^ 14
    if shift2 then x * 4 % 65536 else wrapInt 16 (sext 14 x))
  [v % 65536, v / 65536 % 65536] ++ vals ++ [0, 0, 0, 0]

/-- Bytes as 16-bit words. -/
def toWords : List Nat → List Nat
  | a :: b :: r => (a + 256 * b) :: toWords r
  | [a] => [a]
  | [] => []

/-- The words a record takes in a core's ring (R500). -/
def Cand.words (c : Cand) (unpack shift2 : Bool) : List Nat :=
  let b := c.bytes
  if !unpack then toWords b
  else if c.kind = 0 && c.wave then toWords (b.take 16) ++ unpackWave (b.drop 16) shift2
  else toWords b ++ List.replicate 8 0

/-- The count of records the reader has consumed. -/
def State.sessTail (s : State) (z : Session) : Nat :=
  if z.dest = 1 then
    let x := s.core z.unit
    let b := s.get F.SGC_COLL_CFG_ring_base z.unit
    x.word (b + 2) + 65536 * x.word (b + 3)
  else z.tail

/-- The destination has room for a record (R332, R500). -/
def State.sessRoom (s : State) (z : Session) : Bool :=
  if z.dest = 1 then decide ((z.head % 2 ^ 32 + 2 ^ 32 - s.sessTail z) % 2 ^ 32 < z.slots)
  else decide (z.head - s.sessTail z < z.slots)

/-- Pieces of at most 256 bytes. -/
def pieces : Nat → List Nat → List (List Nat)
  | 0, _ => []
  | n + 1, l => if l.isEmpty then [] else l.take 256 :: pieces n (l.drop 256)

/-- WRITE packets from an endpoint to a sects window (R538 to R540), four data flits at most each. -/
def State.windowWrite (s : State) (src sec addr : Nat) (bytes : List Nat) : State :=
  let ps := pieces bytes.length bytes
  s.each ((upTo ps.length).zip ps) (fun s p =>
    s.send (.noc { op := 1, src := src, dst := sec, tenant := s.get F.FAB_SECT_STATUS_holder sec, addr := addr + 256 * p.1,
                   count := (p.2.length + 63) / 64, data := p.2 }))

/-- A record reaches the destination, then head (R500, R570). -/
def State.deliverRec (s : State) (z : Session) (c : Cand) : State :=
  let k := z.head + 1
  match z.dest with
  | 0 =>
    let t := z.desc.tenant.toNat
    (s.hostWrite t (z.ring + 64 + 80 * (z.head % z.slots)) c.bytes).hostWrite t z.ring (natBytes 8 k)
  | 1 =>
    let u := z.unit
    let b := s.get F.SGC_COLL_CFG_ring_base u
    let unpack := s.on F.SGC_COLL_CFG_unpack u
    let n := if unpack then 48 else 40
    let x := (s.core u).setWords (b + 8 + n * (z.head % z.slots)) (c.words unpack (s.on F.SGC_COLL_CFG_shift2 u))
    let x := x.setWords b [k % 65536, k / 65536 % 65536]
    let s := s.setCore u x
    s.when (bit x.sr 13) (fun s => s.raiseCore u Src.COLL_RING)
  | _ =>
    (s.windowWrite 274 z.unit (z.ring + 64 + 80 * (z.head % z.slots)) c.bytes).windowWrite 274 z.unit z.ring (natBytes 8 k)

/-- The session after a record. -/
def Session.after (z : Session) (c : Cand) : Session :=
  let upd := fun (x : SessStream) =>
    if x.id ≠ c.stream then x
    else if c.kind = 4 then { x with overrun := none }
    else if c.kind = 5 then { x with releasing := false, released := true, overrun := none }
    else if c.kind = 6 then { x with ended := true }
    else x
  { z with head := z.head + 1, streams := z.streams.map upd,
           last := if c.kind = 5 then (if z.last.isEmpty then [c.time] else z.last) else c.key,
           seen := z.seen ++ c.mark.toList, partly := z.partly || c.kind == 1 || c.kind == 2 || c.kind == 5 }

/-- The strips a session passes over for a reserved type or code (R322) on its way to a key. -/
def State.passedOver (s : State) (z : Session) (upto : List Nat) : Nat :=
  (z.streams.flatMap (fun x => (s.retained x.id).flatMap (fun r =>
    r.2.2.timed.filter (fun q =>
      let st := q.2.2
      let code := st.payload % 256
      let gap := st.payload / 2 ^ 16 % 256
      let odd := decide (8 < st.type) || (st.type == 8 && (code == 0 || decide (0x0A < code))) ||
        (st.type == 5 && decide (2 < st.flags)) || (st.type == 4 && (gap == 0 || decide (0x0C < gap)))
      let key := x.key q.2.1 r.2.2.seq q.1
      odd && keyLt z.last key && keyLt key upto)))).length

/-- COLLATE_RECORD (R328 to R332, R335 to R338): an engine returns the next record of a session, ends it, or waits for
room. The operands name the leaves and quires whose tags fail. -/
def execCollateRecord (n : BitVec 5) (badLeaves : List (BitVec 64)) (badQuires : List Word) (s : State) :
    Host.Outcome State Fault Refusal :=
  let k := n.toNat
  match s.sess k with
  | none => .next s
  | some z =>
    let fin := if z.partly then St.PARTIAL else St.OK
    match s.nextCand z (badLeaves.map BitVec.toNat ++ s.brokenLeaves) (badQuires.map BitVec.toNat) with
    | none =>
      if !z.follow || z.streams.all (fun x => x.released || x.ended) then .next (s.endSess k fin)
      else .next s
    | some c =>
      if (c.kind = 1 ∨ c.kind = 2) ∧ !z.mark then .next ((s.ev F.CAP_COLL_EVENTS_integrity).endSess k St.INTEGRITY)
      else if !s.sessRoom z then .next (s.showSess k true)
      else
        let skip := if c.kind = 5 then 0 else s.passedOver z c.key
        let s := (s.cnt F.CAP_SESS_SKIPPED_value skip k).when (decide (0 < skip)) (fun s => s.ev F.CAP_COLL_EVENTS_skipped)
        let s := s.when (c.kind == 1 || c.kind == 2) (fun s => s.ev F.CAP_COLL_EVENTS_integrity)
        let s := s.when (c.kind == 4) (fun s => s.ev F.CAP_COLL_EVENTS_overtaken)
        let s := (s.deliverRec z c).addPair Reg.CAP_SESS_RECORDS_LO Reg.CAP_SESS_RECORDS_HI 1 k
        let z := z.after c
        let s := (s.setSess k z).showSess k false
        .next (if z.streams.all (fun x => x.released || x.ended) then s.endSess k (if z.partly then St.PARTIAL else St.OK)
          else s)

/-- HOST_TAIL_POLL (R332, R570): a waiting session reads its ring's tail; `fail` is a failed read (R556). -/
def execHostTailPoll (n : BitVec 5) (tail : BitVec 64) (fail : Bool) (s : State) : Host.Outcome State Fault Refusal :=
  let k := n.toNat
  match s.sess k with
  | none => .next s
  | some z =>
    if z.dest = 1 ∨ s.get F.CAP_SESS_STATUS_state k ≠ 2 then .next s
    else if fail then
      let s := if z.dest = 0 then s.dmaError z.desc.tenant.toNat else s
      .next (s.endSess k St.ABORTED_FAULT)
    else
      let z := { z with tail := tail.toNat }
      let s := s.setSess k z
      .next (s.showSess k (!s.sessRoom z))

/-! ## Searches (R333, R334) -/

/-- SEEK_TIME (R333). -/
def execSeekTime (d : Desc) (n : BitVec 16) (t : BitVec 64) (s : State) : Host.Outcome State Fault Refusal :=
  let m := n.toNat
  .next (s.descriptor d false false
    (s.strmChecks d m ++ [((s.retained m).isEmpty, St.REFUSED_NOT_READY)])
    (fun s => match s.seek m t.toNat with
      | some (r, before) => s.ok d (r.1 + r.2.1 * 2 ^ 20 + 2 ^ 63 * b2n before)
      | none => s.refuse d St.REFUSED_NOT_READY))

/-- A hit of RIBBON_FIND (R236, R334). -/
def hitBytes (q i idx : Nat) (x : Strip) : List Nat :=
  let p := x.payload
  natBytes 32 (pack [(0, p / 2 ^ 96 % 2 ^ 64), (8, p / 2 ^ 64 % 2 ^ 32), (12, q), (16, i), (18, idx), (19, p % 2 ^ 32)])

/-- Insert a hit in the order of R329. -/
def insHit (h : List Nat × List Nat) : List (List Nat × List Nat) → List (List Nat × List Nat)
  | [] => [h]
  | a :: r => if keyLt h.1 a.1 then h :: a :: r else a :: insHit h r

/-- Hits in the order of R329. -/
def sortHits (l : List (List Nat × List Nat)) : List (List Nat × List Nat) := l.foldr insHit []

/-- RIBBON_FIND (R334): `badLeaves` and `badQuires` are those whose tags fail, met under STOP (R331). -/
def execRibbonFind (d : Desc) (n : BitVec 16) (limit : BitVec 16) (code mask : Word) (start stop : BitVec 64)
    (buffer : BitVec 64) (badLeaves : List (BitVec 64)) (badQuires : List Word) (s : State) :
    Host.Outcome State Fault Refusal :=
  let m := n.toNat
  .next (s.descriptor d false false
    (s.strmChecks d m ++
     [(limit == 0 || decide (256 < limit.toNat) || (stop != 0 && decide (stop.toNat < start.toNat)), St.BAD_ARGUMENT),
      (s.strmKind m == Kind.PATTERN, St.MODE_CONFLICT),
      (s.strmKind m != Kind.DEVICE && s.sealCheck d.tenant.toNat != 0, St.REFUSED_NOT_READY)])
    (fun s =>
      let inside := fun (t : Nat) => decide (start.toNat ≤ t) && (stop == 0 || decide (t < stop.toNat))
      let wanted := (s.retained m).filter (fun r => decide (0 < (s.quire r.1).ribbons) && decide (0 < r.2.2.ribbons) &&
        (stop == 0 || decide (r.2.2.base < stop.toNat)))
      let bad := fun (r : Nat × Nat × Leaf) => (badQuires.map BitVec.toNat).contains r.1 ||
        (badLeaves.map BitVec.toNat).contains (r.1 * 16384 + r.2.1) || s.leafBroken r.1 r.2.1
      let good := wanted.takeWhile (fun r => !bad r)
      let base := match wanted.head? with | some r => r.2.2.seq | none => 0
      let x : SessStream := { id := m, base := base }
      let hits := good.flatMap (fun r => (r.2.2.timed.filter (fun q => q.2.2.type == 3 && inside q.2.1 &&
        (q.2.2.payload % 2 ^ 32 &&& mask.toNat) == (code.toNat &&& mask.toNat))).map (fun q =>
          (x.key q.2.1 r.2.2.seq q.1, hitBytes r.1 r.2.1 q.1 q.2.2)))
      let sorted := sortHits hits
      let out := sorted.take limit.toNat
      let s := if out.isEmpty then s else s.hostWrite d.tenant.toNat buffer.toNat (out.flatMap (fun h => h.2))
      let st := if out.length < sorted.length then St.PARTIAL
        else if wanted.any bad then St.INTEGRITY else St.OK
      let s := s.when (st == St.INTEGRITY) (fun s => s.ev F.CAP_COLL_EVENTS_integrity)
      s.complete d st out.length))

/-! ## Release (R297, R338, R346) -/

/-- CAPTURE_RELEASE: a session that names the stream writes RELEASED at the key it has reached. -/
def execCaptureRelease (d : Desc) (n : BitVec 16) (s : State) : Host.Outcome State Fault Refusal :=
  let m := n.toNat
  .next (s.descriptor d false false
    (s.strmChecks d m ++
     [(s.strmState m != Strm.CLOSED ||
        (s.strmKind m == Kind.PATTERN && s.press.any (fun p => p.2.loaded && p.2.stream == m)), St.REFUSED_BUSY)])
    (fun s =>
      let mark := fun (z : Session) => { z with streams := z.streams.map (fun (x : SessStream) =>
        if x.id == m && !x.released then { x with releasing := true } else x) }
      let l := s.coll.sessions.map (fun (p : Nat × Session) => (p.1, mark p.2))
      let s := { s with coll := { s.coll with sessions := l } }
      let (s, k) := s.releaseCapture m
      s.ok d k))

/-! ## SGC registers (R510, R513, R514) -/

/-- A write of SGC.TASK_CFG, VECTOR or COLL_CFG (`which` 0 to 2): only while the core is STOPPED, COLL_CFG only while no
session uses the ring. -/
def State.writeSgc (s : State) (p : Path) (which : Nat) (c : Nat) (v : Word) : State × Nat :=
  let x := v.toNat
  let r := match which with | 0 => Reg.SGC_TASK_CFG | 1 => Reg.SGC_VECTOR | _ => Reg.SGC_COLL_CFG
  let slots := bits x 27 15
  let words := 8 + slots * (if bit x 31 then 48 else 40)
  let bad := match which with
    | 0 => bits x 14 0 % 32 != 0 || decide (32224 < bits x 14 0)
    | 1 => bits x 12 0 % 128 != 0
    | _ => bits x 14 0 % 8 != 0 || decide (8191 < slots) || (slots != 0 && decide (32768 < bits x 14 0 + words))
  s.guardWrite p r c 0 0 v bad (fun s =>
    if s.coreState c ≠ Core.STOPPED ∨ (which = 2 ∧ s.coll.sessions.any (fun z => z.2.dest == 1 && z.2.unit == c)) then
      refuseWrite s p St.REFUSED_BUSY (fun s => s.ev F.SGC_EVENTS_wr_refused c)
    else (s.applyWrite p r c 0 0 v, St.OK))

end Sys2Proof.Machine
end

