-- ==== Sys2Proof/Machine/Memory.lean ====
section
/-! DEFINITION. Machine/Memory.lean: the HBM, DDR5 and CXL memories behind the capture store (spec/15, R391 to R424, and
R605, R606): reads that fail, rows that are repaired, the loss of a stack, a rank or an expander, scrub and refresh. -/
namespace Sys2Proof.Machine

/-! ## Layout (R299, R398, R404) -/

/-- The row and the HBM stack of a data leaf of a front slot (R299). -/
def frontPlace (slot leaf : Nat) : Nat × Nat :=
  let d := 16384 * slot + leaf
  let row := d / 11
  (row, if d % 11 < row % 12 then d % 11 else d % 11 + 1)

/-- The data index that a stack holds of a row (R299): none where it holds the parity. -/
def frontData (row stack : Nat) : Option Nat :=
  if stack = row % 12 then none else some (11 * row + (if stack < row % 12 then stack else stack - 1))

/-- The leaf that lies at a data index of the front tier: its quire and index. -/
def State.frontLeafAt (s : State) (d : Nat) : Option (Nat × Nat) :=
  match Tbl.get 0 s.cap.frontUsed (d / 16384) with
  | 0 => none
  | q + 1 => some (q, d % 16384)

/-- The row (a leaf address) and the channel of a data leaf of a DDR group's slot (R398); `g` is the target code. -/
def ddrPlace (g slot leaf : Nat) : Nat × Nat :=
  let i := 16384 * slot + leaf
  let row := i / 7
  (row, 8 * (g - 1) + (if i % 7 < row % 8 then i % 7 else i % 7 + 1))

/-- The logical rank of a leaf address of a channel (R404): the spare takes no part. -/
def State.ddrRank (s : State) (c a : Nat) : Nat :=
  let spare := s.get F.MEM_DDR_STATUS_spare c
  let has := s.on F.MEM_DDR_STATUS_spare_reserved c
  let n := s.get F.MEM_DDR_STATUS_ranks c - b2n has
  let k := (a / 64) % n
  if has && decide (spare ≤ k) then k + 1 else k

/-- The unreadable positions of a row of a DDR group: its channels whose rank there is retired (R408). -/
def State.ddrHoles (s : State) (g row : Nat) : Nat :=
  ((upTo 8).filter (fun i =>
    let c := 8 * (g - 1) + i
    s.mem.retired.contains (32 * c + s.ddrRank c row))).length

/-- The quires with a data leaf in a row of a DDR group (R398): a row lies in at most two slots. -/
def State.ddrRowQuires (s : State) (g row : Nat) : List Nat :=
  let a := Tbl.get 0 s.cap.deepUsed (g * 2 ^ 20 + 7 * row / 16384)
  let b := Tbl.get 0 s.cap.deepUsed (g * 2 ^ 20 + (7 * row + 6) / 16384)
  let xs := if a = b then [a] else [a, b]
  (xs.filter (fun x => x != 0)).map (fun x => x - 1)

/-- A quire's contents are stored: OPEN, SEALED or DRAINING (R297). -/
def State.stored (s : State) (q : Nat) : Bool :=
  let st := (s.quire q).state
  st == Qr.OPEN || st == Qr.SEALED || st == Qr.DRAINING

/-- The quires located in a target whose contents are stored. -/
def State.quiresIn (s : State) (g : Nat) : List Nat :=
  ((s.cap.quires.filter (fun p => p.2.target == g)).map (fun p => p.1)).filter (fun q => s.stored q)

/-- The channels of a DDR group in use. -/
def State.groupChannels (s : State) (g : Nat) : List Nat :=
  ((upTo 8).map (fun i => 8 * (g - 1) + i)).filter (fun c =>
    s.get F.MEM_DDR_STATUS_state c == V.MEM_DDR_STATUS_state_IN_USE ||
    s.get F.MEM_DDR_STATUS_state c == V.MEM_DDR_STATUS_state_DEGRADED)

/-- The two ports of the mirrored pair in force (R415, R421), the lower first. -/
def State.cxlPair (s : State) : Option (Nat × Nat) :=
  match s.get F.MEM_CXL_MODE_pair_active with
  | 1 => some (0, 1)
  | 2 => some (0, 2)
  | 3 => some (1, 2)
  | _ => none

/-- The domains of a target (R618). -/
def State.targetDoms (s : State) (g : Nat) : List Nat :=
  if g = 0 then ((upTo 12).filter (fun k => s.get F.MEM_HBM_STATUS_state k == V.MEM_HBM_STATUS_state_IN_USE)).map domHbm
  else if g ≤ 2 then (s.groupChannels g).map domDdr
  else if g ≤ 5 then [domCxl (g - 3)]
  else match s.cxlPair with
    | some (a, b) => [domCxl a, domCxl b]
    | none => []

/-- The memory domains that a migration, a rehoming, a resilvering or a rekey uses (R619). -/
def State.recoveryDoms (s : State) : List Nat :=
  let ddr := (upTo 16).filter (fun c => s.on F.MEM_DDR_STATUS_migrating c || s.on F.MEM_DDR_STATUS_rehoming c)
  let cxl := if (upTo 3).any (fun p => s.on F.MEM_CXL_STATUS_resilvering p) then s.targetDoms 6 else []
  let t := s.get F.SEC_STATUS_rekey_tenant
  let gs := if s.on F.SEC_STATUS_rekey_busy then
      (s.cap.quires.filter (fun p => p.2.tenant == t && s.stored p.1)).map (fun p => p.2.target) else []
  ddr.map domDdr ++ cxl ++ gs.eraseDups.flatMap (fun g => s.targetDoms g)

/-- Cast or withdraw the RECOVERY votes (R619): a lowering that a withdrawal leaves is deferred (R621), and DEFERRED_LOWERING
begins it. -/
def State.recast (s : State) : State :=
  let use := s.recoveryDoms
  s.each ((upTo 31).map (fun i => 288 + i)) (fun s n =>
    let b := use.contains n
    if b = s.on F.PWR_DOMAIN_STATUS_recovery_vote n then s
    else
      let s := (s.put F.PWR_DOMAIN_STATUS_recovery_vote (b2n b) n).resolve n
      s.when (!b && decide (s.get F.PWR_DOMAIN_STATUS_state n < s.resolvedVote n)) (fun s =>
        s.ev F.PWR_DOMAIN_STATUS_deferred n))

/-- Quires are LOST through storage (R297). -/
def State.loseAll (s : State) (qs : List Nat) : State := s.each qs (fun s q => s.loseQuire q 0)

/-- Note an uncorrectable read in a list of (address, time), keeping those within `window` LSB. Answers the list. -/
def noteUe (now window a : Nat) (l : List (Nat × Nat)) : List (Nat × Nat) :=
  (a, now) :: l.filter (fun p => p.1 != a && decide (now < p.2 + window))

/-! ## The front tier (R394 to R401) -/

/-- The front tier fails (R401): every quire located in it is LOST, no slot is free, and every stream that stores waits. -/
def State.failFront (s : State) : State :=
  let s := s.put F.MEM_FRONT_STATUS_state V.MEM_FRONT_STATUS_state_FAILED
  let s := s.put F.CAP_STATUS_front_free 0
  let s := s.loseAll (s.quiresIn 0)
  s.each (s.cap.streams.map (fun p => p.1)) (fun s n =>
    if s.strmActive n && s.strmKind n != Kind.DIGITIZER then
      let s := s.setStrm n { s.strm n with cur := none, next := none, leaf := none }
      let s := s.setStrmState n Strm.WAITING
      if s.cap.waitList.contains n then s
      else { s with cap := { s.cap with waitList := s.cap.waitList ++ [n] } }
    else s)

/-- Declare a stack failed, fault class F1 (R400, R401, R601). -/
def State.failStack (s : State) (k cause : Nat) : State :=
  if s.get F.MEM_HBM_STATUS_state k ≠ V.MEM_HBM_STATUS_state_IN_USE then s
  else
    let front := s.get F.MEM_FRONT_STATUS_state
    let s := s.put F.MEM_HBM_STATUS_state V.MEM_HBM_STATUS_state_FAILED k
    let s := s.put F.MEM_HBM_STATUS_fail_cause cause k
    let s := (s.domReach (domHbm k) 2).ev F.MEM_EVENTS_hbm_stack_failed
    let up := s.get F.MEM_FRONT_STATUS_stacks_up
    let s := s.put F.MEM_FRONT_STATUS_stacks_up (up &&& (4095 - 2 ^ k))
    let s := (s.fault 1 (front != V.MEM_FRONT_STATUS_state_REDUNDANT)).log 0x01 2 k [cause]
    if front = V.MEM_FRONT_STATUS_state_REDUNDANT then
      (s.put F.MEM_FRONT_STATUS_state V.MEM_FRONT_STATUS_state_DEGRADED).put F.MEM_FRONT_STATUS_failed_stack k
    else if front = V.MEM_FRONT_STATUS_state_DEGRADED then s.failFront
    else s

/-- A leaf of a stack at a row address cannot be rebuilt (R397, item 5). -/
def State.breakLeaf (s : State) (row stack : Nat) : State :=
  match (frontData row stack).bind s.frontLeafAt with
  | some (q, i) =>
    { s with mem := { s.mem with broken := (q * 16384 + i, (s.quire q).counter) :: s.mem.broken } }
  | none => s

/-- HBM_READ_ERROR (R397, R400): a read of a leaf of the front tier is uncorrectable. `still` is a read-back that fails,
`noSpare` a bank without a spare row left, `second` the stack of another unreadable leaf of the row (12 to 15 none; the
failed stack of a DEGRADED tier and a degraded row address count without being named). A read of a degraded row address
or of the failed stack is rebuilt. -/
def execHbmReadError (q : BitVec 19) (leaf : BitVec 14) (still noSpare : Bool) (second : BitVec 4) (s : State) :
    Host.Outcome State Fault Refusal :=
  let x := s.quire q.toNat
  if x.target ≠ 0 ∨ !s.stored q.toNat then .next s
  else
    let (row, k) := frontPlace x.slot leaf.toNat
    let failed := s.get F.MEM_HBM_STATUS_state k == V.MEM_HBM_STATUS_state_FAILED ||
      s.get F.MEM_HBM_STATUS_state k == V.MEM_HBM_STATUS_state_OUT_OF_SERVICE
    let degraded := s.mem.degraded.contains (k, row)
    let hole := (upTo 12).find? (fun j => j != k &&
      (decide (j = second.toNat) || s.mem.degraded.contains (j, row) ||
       (s.get F.MEM_FRONT_STATUS_state == V.MEM_FRONT_STATUS_state_DEGRADED &&
        s.get F.MEM_FRONT_STATUS_failed_stack == j)))
    let s := s.when (!failed && !degraded) (fun s => s.cnt F.MEM_HBM_UE_COUNT_value 1 k)
    let s := match hole with
      | some j =>
        let s := ((s.breakLeaf row k).breakLeaf row j).cnt F.MEM_DOUBLE_FAULTS_value
        (s.ev F.MEM_EVENTS_double_fault).log 0x03 3 0 [q.toNat, leaf.toNat]
      | none =>
        let s := s.cnt F.MEM_FRONT_RECON_value
        if failed || degraded || !still then s
        else if noSpare then
          let s := { s with mem := { s.mem with degraded := (k, row) :: s.mem.degraded } }
          let n := s.get F.MEM_HBM_REPAIRS_degraded_rows k + 1
          let s := s.put F.MEM_HBM_REPAIRS_degraded_rows n k
          s.when (decide (n > 4096)) (fun s => s.failStack k V.MEM_HBM_STATUS_fail_cause_DEGRADED_ROWS)
        else
          ((s.cnt F.MEM_HBM_REPAIRS_soft_repairs 1 k).ev F.MEM_EVENTS_hbm_repair).log 0x02 1 k [row]
    if failed || degraded then .next s
    else
      let at' := 64 * k + row % 64
      let l := noteUe s.now 64000000 row (Tbl.get [] s.mem.hbmUe at')
      let s := { s with mem := { s.mem with hbmUe := Tbl.set [] at' l s.mem.hbmUe } }
      .next (if 64 ≤ l.length then s.failStack k V.MEM_HBM_STATUS_fail_cause_UE_ROWS else s)

/-- HBM_STACK_FAILURE (R400, R401): a stack is declared failed for a cause of R422. -/
def execHbmStackFailure (stack : BitVec 4) (cause : BitVec 4) (s : State) : Host.Outcome State Fault Refusal :=
  .next (if stack.toNat < 12 ∧ 1 ≤ cause.toNat ∧ cause.toNat ≤ 5 then s.failStack stack.toNat cause.toNat else s)

/-- HBM_REFRESH (R395): a per-bank refresh, hidden in the bank rotation; above 85 °C (`hot`) the stack's rate is doubled.
-/
def execHbmRefresh (stack : BitVec 4) (hot : Bool) (s : State) : Host.Outcome State Fault Refusal :=
  let rest := s.mem.hotStacks.filter (fun k => k != stack.toNat)
  .next (if stack.toNat < 12 then
    { s with mem := { s.mem with hotStacks := if hot then stack.toNat :: rest else rest } } else s)

/-! ## Scrub (R398, R399, R605, R606) -/

/-- A copy that differs from its twin is settled (R605). -/
def State.copyDiffer (s : State) (kind a b : Nat) : State :=
  ((s.cnt F.RAS_COPY_DIFFERS_value).ev F.RAS_EVENTS_copy_differ).log 0xD1 1 kind [a, b]

/-- PARITY_SCRUB_ROW (R399, R606): the scrub checks the row of a leaf in the target of its quire: a parity that differs
is rewritten from the data. On the mirrored pair it compares the two copies; `settle` says how a difference ends: 0 one
copy authenticates and is kept, 1 both do and one reproduces the record's digest, 2 or 3 neither reproduces it. `late`
is a pass that runs past its period; `corrected` the stacks, or the channels of the group, whose leaf of the row came with
a correction (R397, R403). -/
def execParityScrubRow (q : BitVec 19) (leaf : BitVec 14) (differs : Bool) (settle : BitVec 2) (late : Bool)
    (corrected : BitVec 12) (s : State) : Host.Outcome State Fault Refusal :=
  let x := s.quire q.toNat
  if !s.on F.MEM_SCRUB_CFG_enable || !s.stored q.toNat then .next s
  else
    let s := s.when late (fun s => s.ev F.MEM_EVENTS_scrub_late)
    let s := s.each (bitsOf 12 corrected.toNat) (fun s k =>
      if x.target = 0 then s.cnt F.MEM_HBM_CE_COUNT_value 1 k
      else if x.target ≤ 2 ∧ k < 8 then s.cnt F.MEM_DDR_CE_COUNT_value 1 (8 * (x.target - 1) + k)
      else s)
    if !differs then .next s
    else if x.target ≤ 2 then
      let s := (s.cnt F.MEM_PARITY_FIXED_value).ev F.MEM_EVENTS_parity_fixed
      .next (s.copyDiffer 4 q.toNat leaf.toNat)
    else if x.target = 6 then
      if settle.toNat = 0 then .next s
      else if settle.toNat = 1 then .next (s.copyDiffer 2 q.toNat leaf.toNat)
      else .next (s.log 0x03 3 6 [q.toNat, leaf.toNat])
    else .next s

/-! ## DDR5 channels (R402 to R412) -/

/-- DDR_REFRESH (R405): a rank's all-bank refresh; ZQ calibration and oscillator tracking run inside it. -/
def execDdrRefresh (c : BitVec 4) (rank : BitVec 5) (s : State) : Host.Outcome State Fault Refusal :=
  .next { s with mem := { s.mem with refreshed := Tbl.set 0 (32 * c.toNat + rank.toNat) s.now s.mem.refreshed } }

/-- DDR_REFRESH_RATE_POLL (R405): a rank's interval is halved while one of its devices asks for double-rate refresh. -/
def execDdrRefreshRatePoll (c : BitVec 4) (rank : BitVec 5) (double : Bool) (s : State) :
    Host.Outcome State Fault Refusal :=
  let k := 32 * c.toNat + rank.toNat
  let rest := s.mem.hotRanks.filter (fun r => r != k)
  .next { s with mem := { s.mem with hotRanks := if double then k :: rest else rest } }

/-- A quire of a DDR group has a data leaf in a row with two unreadable positions (R411). -/
def State.ddrLost (s : State) (g q : Nat) : Bool :=
  let slot := (s.quire q).slot
  let first := 16384 * slot / 7
  (upTo ((16384 * slot + 16383) / 7 + 1 - first)).any (fun i => decide (2 ≤ s.ddrHoles g (first + i)))

/-- Retire a logical rank, fault class F2 (R408 to R411, R601). `leaves` is the number of leaves the rank holds. -/
def State.retireRank (s : State) (c rank reason leaves : Nat) : State :=
  let st := s.get F.MEM_DDR_STATUS_state c
  let key := 32 * c + rank
  if (st ≠ V.MEM_DDR_STATUS_state_IN_USE ∧ st ≠ V.MEM_DDR_STATUS_state_DEGRADED) ∨
      s.get F.MEM_DDR_STATUS_ranks c ≤ rank ∨ s.mem.retired.contains key then s
  else
    let g := 1 + c / 8
    let spare := s.on F.MEM_DDR_STATUS_spare_reserved c && !s.on F.MEM_DDR_STATUS_rank_retired c &&
      s.get F.MEM_DDR_STATUS_spare c != rank
    let s := { s with mem := { s.mem with retired := s.mem.retired ++ [key] } }
    let s := (s.put F.MEM_DDR_STATUS_retired rank c).put F.MEM_DDR_STATUS_rank_retired 1 c
    let lost := if 2 ≤ s.mem.retired.length then (s.quiresIn g).filter (fun q => s.ddrLost g q) else []
    let s := ((s.ev F.MEM_EVENTS_ddr_rank_retired).fault 2 (!spare || !lost.isEmpty)).log 0x10 2 c [rank, reason]
    let s := s.loseAll lost
    if spare then ((s.put F.MEM_DDR_STATUS_migrating 1 c).put F.MEM_DDR_MIGRATE_value leaves c).recast
    else (s.each (s.groupChannels g) (fun s i =>
      (s.put F.MEM_DDR_STATUS_state V.MEM_DDR_STATUS_state_DEGRADED i).put F.MEM_DDR_STATUS_rehoming 1 i)).recast

/-- DDR_UE_BURST (R403, R408, R411): an uncorrectable burst in a leaf of a DDR group: the leaf is rebuilt from its row, or
the row has two unreadable positions (`second`, or a retired rank of another channel) and its quires are LOST. The 16th
leaf address of a rank within 1 s retires the rank, which holds `leaves` leaves. -/
def execDdrUeBurst (q : BitVec 19) (leaf : BitVec 14) (second : Bool) (leaves : Word) (s : State) :
    Host.Outcome State Fault Refusal :=
  let x := s.quire q.toNat
  if (x.target ≠ 1 ∧ x.target ≠ 2) ∨ !s.stored q.toNat then .next s
  else
    let (row, c) := ddrPlace x.target x.slot leaf.toNat
    let rank := s.ddrRank c row
    let holes := s.ddrHoles x.target row - b2n (s.mem.retired.contains (32 * c + rank))
    let s := s.cnt F.MEM_DDR_UE_COUNT_value 1 c
    let s := s.when (second || decide (0 < holes)) (fun s =>
      (s.ev F.RAS_EVENTS_second_fault).loseAll ((s.ddrRowQuires x.target row).filter (fun q => s.stored q)))
    let l := noteUe s.now 64000000000 row (Tbl.get [] s.mem.ddrUe (32 * c + rank))
    let s := { s with mem := { s.mem with ddrUe := Tbl.set [] (32 * c + rank) l s.mem.ddrUe } }
    .next (if 16 ≤ l.length then s.retireRank c rank 0 leaves.toNat else s)

/-- DDR_RANK_RETIRE (R408): a rank is retired for a reason of R610: 0 UE, 1 DEVICE, 2 PARITY, 3 TIMEOUT. -/
def execDdrRankRetire (c : BitVec 4) (rank : BitVec 5) (reason : BitVec 2) (leaves : Word) (s : State) :
    Host.Outcome State Fault Refusal :=
  .next (s.retireRank c.toNat rank.toNat reason.toNat leaves.toNat)

/-- DDR_MIGRATE_DONE (R409): the spare takes the retired rank's place. -/
def execDdrMigrateDone (c : BitVec 4) (s : State) : Host.Outcome State Fault Refusal :=
  let c := c.toNat
  if !s.on F.MEM_DDR_STATUS_migrating c then .next s
  else
    let rank := s.get F.MEM_DDR_STATUS_retired c
    let s := { s with mem := { s.mem with retired := s.mem.retired.filter (fun r => r != 32 * c + rank) } }
    let s := (s.clr F.MEM_DDR_STATUS_migrating c).put F.MEM_DDR_MIGRATE_value 0 c
    .next ((s.ev F.MEM_EVENTS_ddr_migrate_done).log 0x11 0 c [rank]).recast

/-- A quire moves from a deep target to another with a free slot (R410): one update of its location. Answers whether it
moved. -/
def State.rehome (s : State) (q g : Nat) : State × Bool :=
  let x := s.quire q
  let free := fun (h : Nat) => h != g && decide (s.get F.CAP_TARGET_USED_value h < s.get F.CAP_TARGET_CAP_value h) &&
    !s.groupDegraded h
  match (drainOrder (s.get F.CAP_DRAIN_CFG_policy)).find? free with
  | none => (s, false)
  | some h =>
    match s.deepSlot h with
    | (none, s) => (s, false)
    | (some f, s) =>
      let s := s.setQuire q { x with target := h, slot := f }
      let used := Tbl.set 0 (g * 2 ^ 20 + x.slot) 0 (Tbl.set 0 (h * 2 ^ 20 + f) (q + 1) s.cap.deepUsed)
      let s := { s with cap := { s.cap with deepUsed := used } }
      let s := s.put F.CAP_TARGET_USED_value (s.get F.CAP_TARGET_USED_value g - 1) g
      (s.cnt F.CAP_TARGET_USED_value 1 h, true)

/-- Quires in order of their last timestamp, the order they were sealed in. -/
def State.bySeal (s : State) (qs : List Nat) : List Nat :=
  qs.foldl (fun acc q =>
    acc.takeWhile (fun r => decide ((s.quire r).last ≤ (s.quire q).last)) ++
      q :: acc.dropWhile (fun r => decide ((s.quire r).last ≤ (s.quire q).last))) []

/-- DDR_REHOME_DONE (R410): every quire of a degraded group has been copied to another deep target, oldest sealed first,
or stays for want of a slot. `second` names DDR_G1. -/
def execDdrRehomeDone (second : Bool) (s : State) : Host.Outcome State Fault Refusal :=
  let g := 1 + b2n second
  let chans := (s.groupChannels g).filter (fun c => s.on F.MEM_DDR_STATUS_rehoming c)
  if chans.isEmpty then .next s
  else
    let qs := s.bySeal (s.quiresIn g)
    let start : State × Nat := (s, 0)
    let (s, moved) := qs.foldl (fun (a : State × Nat) q =>
      let (s, ok) := a.1.rehome q g
      (s, a.2 + b2n ok)) start
    let left := (s.quiresIn g).length
    let s := s.each chans (fun s c => s.clr F.MEM_DDR_STATUS_rehoming c)
    let s := s.log 0x12 0 (g - 1) [moved, left]
    .next (if left = 0 then (s.ev F.MEM_EVENTS_ddr_rehome_done).put F.CAP_TARGET_CAP_value 0 g else s).recast

/-! ## CXL expanders (R413 to R417) -/

/-- The target of a port: the pair's, or its own as a plain target (R391). -/
def State.cxlTarget (s : State) (p : Nat) : Nat :=
  match s.cxlPair with
  | some (a, b) => if p = a ∨ p = b then 6 else 3 + p
  | none => 3 + p

/-- Declare an expander failed, fault class F3 (R416, R601). A pair whose survivor fails, or that fails before its
returned member is resilvered, loses its quires. -/
def State.failExpander (s : State) (p cause : Nat) : State :=
  if s.get F.MEM_CXL_STATUS_state p ≠ V.MEM_CXL_STATUS_state_IN_USE then s
  else
    let g := s.cxlTarget p
    let role := s.get F.MEM_CXL_STATUS_role p
    let other := match s.cxlPair with | some (a, b) => if p = a then b else a | none => p
    let s := s.put F.MEM_CXL_STATUS_state V.MEM_CXL_STATUS_state_FAILED p
    let s := (s.put F.MEM_CXL_STATUS_fail_cause cause p).ev F.MEM_EVENTS_cxl_failed
    let whole := s.get F.MEM_CXL_STATUS_state other == V.MEM_CXL_STATUS_state_IN_USE &&
      !s.on F.MEM_CXL_STATUS_resilvering other
    if g = 6 && role == V.MEM_CXL_STATUS_role_MIRROR_MEMBER && whole then
      let s := s.put F.MEM_CXL_STATUS_role V.MEM_CXL_STATUS_role_MIRROR_ALONE other
      let s := (s.clr F.MEM_CXL_STATUS_resilvering p).recast
      (s.fault 3 false).log 0x20 2 p [cause, 0]
    else
      let qs := s.quiresIn g
      let moving := (s.cap.quires.filter (fun x => x.2.copy.any (fun c => c.1 == g))).map (fun x => x.1)
      let s := (s.fault 3 (g == 6)).log 0x20 3 p [cause, qs.length]
      let s := s.put F.CAP_TARGET_CAP_value 0 g
      let s := s.loseAll qs
      (s.each moving (fun s q => s.retryCopy q)).recast

/-- CXL_READ_FAILOVER (R415, R416): a read of a mirrored leaf returns poison or an error, or does not complete within 50
µs (`late`); the other member serves it and the bad copy is rewritten. A read that does not complete, or the 16th bad
address within 1 s, declares the port failed. -/
def execCxlReadFailover (q : BitVec 19) (leaf : BitVec 14) (late : Bool) (s : State) : Host.Outcome State Fault Refusal :=
  match s.cxlPair with
  | none => .next s
  | some (a, b) =>
    let x := s.quire q.toNat
    if x.target ≠ 6 ∨ !s.stored q.toNat then .next s
    else
      let p := if leaf.toNat % 2 = 0 then a else b
      if s.get F.MEM_CXL_STATUS_role p ≠ V.MEM_CXL_STATUS_role_MIRROR_MEMBER then .next s
      else if late then
        .next ((s.cnt F.MEM_CXL_TIMEOUT_COUNT_value 1 p).failExpander p V.MEM_CXL_STATUS_fail_cause_TIMEOUT)
      else
        let s := s.cnt F.MEM_CXL_POISON_COUNT_value 1 p
        let l := noteUe s.now 64000000000 (x.slot * 16384 + leaf.toNat) (Tbl.get [] s.mem.cxlUe p)
        let s := { s with mem := { s.mem with cxlUe := Tbl.set [] p l s.mem.cxlUe } }
        .next (if 16 ≤ l.length then s.failExpander p V.MEM_CXL_STATUS_fail_cause_POISON else s)

/-- CXL_EXPANDER_FAILURE (R416): a port's expander is declared failed for a cause of R424. -/
def execCxlExpanderFailure (port : BitVec 2) (cause : BitVec 4) (s : State) : Host.Outcome State Fault Refusal :=
  .next (if port.toNat < 3 ∧ 1 ≤ cause.toNat ∧ cause.toNat ≤ 4 then s.failExpander port.toNat cause.toNat else s)

/-- CXL_RESILVER_DONE (R416): every quire of the pair has been copied to the returned member. -/
def execCxlResilverDone (port : BitVec 2) (s : State) : Host.Outcome State Fault Refusal :=
  let p := port.toNat
  if 3 ≤ p || !s.on F.MEM_CXL_STATUS_resilvering p then .next s
  else .next ((s.clr F.MEM_CXL_STATUS_resilvering p).log 0x21 0 p [(s.quiresIn 6).length]).recast

/-! ## Registers (R421) -/

/-- A write of MEM.CXL_MODE: the pair takes effect at the next S13 and is kept in the colophon store (R421). -/
def State.writeCxlMode (s : State) (p : Path) (v : Word) : State × Nat :=
  s.guardWrite p Reg.MEM_CXL_MODE 0 0 0 v false (fun s =>
    let s := s.applyWrite p Reg.MEM_CXL_MODE 0 0 0 v
    ({ s with colo := { s.colo with cxlPair := s.get F.MEM_CXL_MODE_pair } }, St.OK))

end Sys2Proof.Machine
end

