-- ==== Sys2Proof/Machine/Dma.lean ====
section
/-! DEFINITION. Machine/Dma.lean: the cluster DMA's commands (spec/18, R494 to R499). The command block at the head of a
core's queue is read when the DMA serves it; its data moves, and DMA_COMPLETE writes its status. -/
namespace Sys2Proof.Machine

/-- A command block (R496). -/
structure DmaBlock where
  kind : Nat
  flags : Nat
  zeros : Bool
  localAt : Nat
  length : Nat
  remote : Nat
  name : Nat
  name2 : Nat
  leaf : Nat
  deriving DecidableEq, Repr

/-- Read the block at a word address. -/
def CoreSt.block (x : CoreSt) (a : Nat) : DmaBlock :=
  let w := fun (i : Nat) => x.word (a + i)
  let q := fun (i : Nat) => w i + 65536 * w (i + 1)
  { kind := w 0 % 256, flags := w 0 / 256, zeros := decide (w 0 / 2048 ≠ 0) || decide (w 1 / 512 ≠ 0) || decide (w 13 ≠ 0) ||
      decide (w 14 ≠ 0) || decide (w 15 ≠ 0),
    localAt := w 2, length := w 3, remote := q 4 + 2 ^ 32 * q 6, name := q 8, name2 := q 10, leaf := w 12 }

/-- The block being served, with its core's queue head: none while another one waits for its completion. -/
def State.served (s : State) (c kind : Nat) : Option DmaBlock :=
  let x := s.core c
  match x.dma with
  | a :: _ =>
    let b := x.block a
    if x.dmaStatus.isNone && b.kind == kind && s.coreState c != Core.FAILED && s.coreState c != Core.OFF then some b
    else none
  | [] => none

/-- The command's outcome waits for DMA_COMPLETE; the cycles its words waited for a bank are counted (R494). -/
def State.dmaEnd (s : State) (c st waits : Nat) : State :=
  (s.setCore c { s.core c with dmaStatus := some st }).cnt F.SGC_DMA_WAIT_value waits c

/-- Check a command in the order of R29 and run it. -/
def State.dmaRun (s : State) (c waits : Nat) (checks : List (Bool × Nat)) (effect : State → State × Nat) : State :=
  match firstFailing checks with
  | some st => s.dmaEnd c st waits
  | none =>
    let (s, st) := effect s
    s.dmaEnd c st waits

/-- The checks of a leaf command: `raw` as stored. -/
def State.dmaLeafChecks (s : State) (c : Nat) (b : DmaBlock) (raw : Bool) : List (Bool × Nat) :=
  let t := s.coreHolder c
  let q := b.name2
  let st := s.leafStatus raw t b.name q b.leaf
  let unpack := bit b.flags 1
  let n := if unpack && !raw then 2552 else 2048
  let ltype := match (s.quire q).leaf? b.leaf with | some l => l.ltype | none => 0
  [(b.zeros || decide (1023 < b.name) || decide (524287 < q), St.RESERVED_FIELD_SET),
   (st == St.REFUSED_NOT_OWNER, St.REFUSED_NOT_OWNER),
   (decide (16383 < b.leaf) || decide (32768 < b.localAt + n) || st == St.BAD_ARGUMENT, St.BAD_ARGUMENT),
   (unpack && (raw || ltype != 3), St.MODE_CONFLICT),
   (st != 0, st)]

/-- The words of an unpacked leaf (R499): the header, then 40 words for each strip. -/
def Leaf.unpacked (l : Leaf) (q : Nat) (shift2 : Bool) : List Nat :=
  let strips := l.strips ++ List.replicate (63 - l.strips.length) { type := 0 }
  toWords (l.header q) ++ strips.flatMap (fun x =>
    if x.type = 7 ∧ bit x.flags 3 = false then unpackWave x.bytes shift2 else toWords x.bytes ++ List.replicate 8 0)

/-- DMA_LEAF (R324, R497 to R499): `tagBad` is a failed tag check. -/
def execDmaLeaf (c : BitVec 8) (tagBad : Bool) (waits : Word) (s : State) : Host.Outcome State Fault Refusal :=
  let n := c.toNat
  match s.served n 0 with
  | none => .next s
  | some b => .next (s.dmaRun n waits.toNat (s.dmaLeafChecks n b false) (fun s =>
      match (s.quire b.name2).leaf? b.leaf with
      | some l =>
        let unpack := bit b.flags 1
        let l' := if tagBad then { l with strips := [], pat := [] } else l
        let zero := List.replicate (if unpack then 2520 else 2016) 0
        let ws := if tagBad then toWords (l.header b.name2) ++ zero
          else if unpack then l'.unpacked b.name2 (bit b.flags 2)
          else toWords (l'.header b.name2 ++ l'.body)
        (s.setCore n ((s.core n).setWords b.localAt ws), if tagBad then St.INTEGRITY else St.OK)
      | none => (s, St.REFUSED_NOT_READY)))

/-- DMA_RAW_LEAF (R325, R448, R497): a read blocked under R449 is counted. -/
def execDmaRawLeaf (c : BitVec 8) (waits : Word) (s : State) : Host.Outcome State Fault Refusal :=
  let n := c.toNat
  match s.served n 1 with
  | none => .next s
  | some b =>
    let t := s.coreHolder n
    let blocked := !b.zeros && decide (b.name < 1024) && decide (b.name2 < 524288) &&
      (t == 0 || s.strmHolder b.name == t) && (s.quire b.name2).state != Qr.FREE && s.rawBlocked t b.name2
    let s := s.when blocked State.blockRaw
    .next (s.dmaRun n waits.toNat (s.dmaLeafChecks n b true) (fun s =>
      match (s.quire b.name2).leaf? b.leaf with
      | some l => (s.setCore n ((s.core n).setWords b.localAt (toWords (l.header b.name2 ++ l.cipher b.name2))), St.OK)
      | none => (s, St.REFUSED_NOT_READY)))

/-- The checks of a command with a length. -/
def DmaBlock.lengthBad (b : DmaBlock) (n : Nat) : Bool :=
  b.length == 0 || decide (4096 < b.length) || decide (32768 < b.localAt + n)

/-- The checks of a section command (R497, R498). -/
def State.dmaSectionChecks (s : State) (c : Nat) (b : DmaBlock) : List (Bool × Nat) :=
  let sec := b.name2
  [(b.zeros || b.name != 0 || decide (255 < sec), St.RESERVED_FIELD_SET),
   (s.get F.FAB_SECT_STATUS_holder sec != s.coreHolder c, St.REFUSED_NOT_OWNER),
   (b.lengthBad b.length, St.BAD_ARGUMENT),
   (bit b.flags 1, St.MODE_CONFLICT),
   (!s.domOn (domSection sec), St.REFUSED_POWER),
   (s.get F.FAB_SECT_STATUS_state sec != Sec.RUNNING, St.REFUSED_NOT_READY)]

/-- The status a NoC response gives a command (R158, R498, R540): 0 OK, 1 NOT_READY, 2 NOT_OWNER, else ERROR. -/
def rspStatus (rsp : Nat) : Nat :=
  match rsp with
  | 0 => St.OK
  | 1 => St.REFUSED_NOT_READY
  | 2 => St.REFUSED_NOT_OWNER
  | _ => St.ABORTED_FAULT

/-- Every ring has failed or is off (R546). -/
def State.nocDown (s : State) : Bool := s.get F.NOC_STATUS_rings_up == 0

/-- DMA_SECTION_READ (R497): READ packets to the sects window; `data` and `rsp` are what it answers. -/
def execDmaSectionRead (c : BitVec 8) (data : List Word) (rsp : BitVec 4) (waits : Word) (s : State) :
    Host.Outcome State Fault Refusal :=
  let n := c.toNat
  match s.served n 2 with
  | none => .next s
  | some b => .next (s.dmaRun n waits.toNat (s.dmaSectionChecks n b) (fun s =>
      if s.nocDown then (s, St.ABORTED_FAULT)
      else
        let s := s.send (.noc { op := 0, src := 256 + n / 16, dst := b.name2, tenant := s.coreHolder n, addr := b.remote,
                                count := b.length })
        if rsp = 0 then
          let ws := (data.map (fun (w : Word) => w.toNat % 65536)).take b.length
          (s.setCore n ((s.core n).setWords b.localAt ws), St.OK)
        else (s, rspStatus rsp.toNat)))

/-- The words a command reads from its core's memory. -/
def CoreSt.wordsAt (x : CoreSt) (a n : Nat) : List Nat := (upTo n).map (fun i => x.word (a + i))

/-- Words as bytes. -/
def wordBytes (ws : List Nat) : List Nat := ws.flatMap (fun w => [w % 256, w / 256])

/-- DMA_SECTION_WRITE (R497): `ue` is a double-bit error in the words read (R490), `rsp` the sects answer. -/
def execDmaSectionWrite (c : BitVec 8) (ue : Bool) (rsp : BitVec 4) (waits : Word) (s : State) :
    Host.Outcome State Fault Refusal :=
  let n := c.toNat
  match s.served n 3 with
  | none => .next s
  | some b => .next (s.dmaRun n waits.toNat (s.dmaSectionChecks n b) (fun s =>
      if ue then (s.ev F.SGC_EVENTS_dmem_ue n, St.ABORTED_FAULT)
      else if s.nocDown then (s, St.ABORTED_FAULT)
      else
        let s := s.windowWrite (256 + n / 16) b.name2 b.remote (wordBytes ((s.core n).wordsAt b.localAt b.length))
        (s, rspStatus rsp.toNat)))

/-- DMA_CORE_COPY (R497): words to a core of the same cluster and holder. -/
def execDmaCoreCopy (c : BitVec 8) (ue : Bool) (waits : Word) (s : State) : Host.Outcome State Fault Refusal :=
  let n := c.toNat
  match s.served n 4 with
  | none => .next s
  | some b =>
    let m := b.name
    let st := s.coreState m
    .next (s.dmaRun n waits.toNat
      [(b.zeros || decide (255 < m) || b.name2 != 0, St.RESERVED_FIELD_SET),
       (s.coreHolder m != s.coreHolder n, St.REFUSED_NOT_OWNER),
       (b.lengthBad b.length || decide (32768 < b.remote + b.length) || m / 16 != n / 16, St.BAD_ARGUMENT),
       (bit b.flags 1, St.MODE_CONFLICT),
       (st != Core.STOPPED && st != Core.RUNNING && st != Core.WAITING, St.REFUSED_NOT_READY)]
      (fun s =>
        if ue then (s.ev F.SGC_EVENTS_dmem_ue n, St.ABORTED_FAULT)
        else (s.setCore m ((s.core m).setWords b.remote ((s.core n).wordsAt b.localAt b.length)), St.OK)))

/-- DMA_TOKEN_WRITE (R464, R497): 32 words as an unreserved arrival of source c. -/
def execDmaTokenWrite (c : BitVec 8) (ue : Bool) (waits : Word) (s : State) : Host.Outcome State Fault Refusal :=
  let n := c.toNat
  match s.served n 5 with
  | none => .next s
  | some b =>
    let q := b.name
    .next ((s.dmaRun n waits.toNat
      [(b.zeros || decide (1048575 < q) || b.name2 != 0, St.RESERVED_FIELD_SET),
       (s.dqHolder q != s.coreHolder n, St.REFUSED_NOT_OWNER),
       (b.lengthBad 32, St.BAD_ARGUMENT),
       (bit b.flags 1, St.MODE_CONFLICT),
       ((s.dq q).free == 0, St.REFUSED_BUSY)]
      (fun s =>
        if ue then (s.ev F.SGC_EVENTS_dmem_ue n, St.ABORTED_FAULT)
        else ((s.dqPost q (natOf (wordBytes ((s.core n).wordsAt b.localAt 32))) n).1, St.OK))).flushTrace)

/-- The status a DMA command at the front has ended with, if it has (R496, R498). -/
def CoreSt.dmaEnd (x : CoreSt) (b : DmaBlock) : Option Nat :=
  match x.dmaStatus with
  | some v => some v
  | none => if 5 < b.kind then some St.OPCODE_UNSUPPORTED else none

/-- DMA_COMPLETE (R496, R498): status, then done, then the interrupt; a reserved kind ends OPCODE_UNSUPPORTED. A
CORE_COPY that succeeded raises MAILBOX in its target instead. -/
def execDmaComplete (c : BitVec 8) (s : State) : Host.Outcome State Fault Refusal :=
  let n := c.toNat
  let x := s.core n
  match x.dma with
  | [] => .next s
  | a :: r =>
    let b := x.block a
    match x.dmaEnd b with
    | none => .next s
    | some v =>
      let y := x.setWord (a + 1) (v + 256)
      let s := s.setCore n { y with dma := r, dmaStatus := none }
      .next (if bit b.flags 0 then
          if b.kind = 4 ∧ v = St.OK then s.raiseCore b.name Src.MAILBOX else s.raiseCore n Src.DMA_DONE
        else s)

end Sys2Proof.Machine
end

