-- ==== Sys2Proof/Machine/Noc.lean ====
section
/-! DEFINITION. Machine/Noc.lean: the on-chip rings: routes, the checks at a destination, probes, ring faults (spec/20, R538 to
R552). -/
namespace Sys2Proof.Machine

/-! NoC opcodes (R540). -/
abbrev NocOp.READ : Nat := 0
abbrev NocOp.WRITE : Nat := 1
abbrev NocOp.TOKEN : Nat := 2
abbrev NocOp.READ_RSP : Nat := 3
abbrev NocOp.WRITE_ACK : Nat := 4
abbrev NocOp.MGT_READ : Nat := 5
abbrev NocOp.MGT_WRITE : Nat := 6

/-! ## Routes (R538, R539, R546) -/

/-- The stop of an endpoint. -/
def stopOf (e : Nat) : Nat :=
  if e < 256 then e / 8 else if e < 272 then 32 + (e - 256) else 48 + (e - 272)

/-- A ring works and is powered. -/
def State.ringUp (s : State) (r : Nat) : Bool := bit (s.get F.NOC_STATUS_rings_up) r

/-- The pair a packet travels on: the next working one, wrapping, where both rings of its own are gone. -/
def State.pairOf (s : State) (src dst : Nat) : Option Nat :=
  let p := (src ^^^ dst) % 4
  ((upTo 4).map (fun i => (p + i) % 4)).find? (fun q => s.ringUp (2 * q) || s.ringUp (2 * q + 1))

/-- The ring a packet takes and the stops whose outgoing segments it crosses, in order. -/
def State.path (s : State) (src dst : Nat) : Option (Nat × List Nat) :=
  match s.pairOf src dst with
  | none => none
  | some p =>
    let a := stopOf src
    let b := stopOf dst
    let h := (b + 52 - a) % 52
    let cw := if !s.ringUp (2 * p) then false else if !s.ringUp (2 * p + 1) then true else decide (h ≤ 52 - h) || h == 0
    if cw then some (2 * p, (upTo h).map (fun i => (a + i) % 52))
    else some (2 * p + 1, (upTo ((52 - h) % 52)).map (fun i => (a + 52 - i) % 52))

/-! ## Probes (R548, R549) -/

/-- The header word of a packet (R540). -/
def headerOf (op : Nat) (p : PktArg) : Nat :=
  p.dst.toNat + p.src.toNat * 2 ^ 10 + p.vc.toNat * 2 ^ 20 + p.length.toNat * 2 ^ 22 + op * 2 ^ 25 + p.tenant.toNat * 2 ^ 32 +
    p.tag.toNat * 2 ^ 40 + p.status.toNat * 2 ^ 56 + p.zero.toNat * 2 ^ 60 + p.addr.toNat * 2 ^ 64

/-- A probe's filter passes a packet (R548). -/
def State.probePass (s : State) (q op : Nat) (p : PktArg) : Bool :=
  let within := fun (lo hi e : Nat) => decide (lo ≤ e) && decide (e ≤ hi)
  bit (s.get F.NOC_PROBE_FILTER_vc_mask q) p.vc.toNat &&
    (!s.on F.NOC_PROBE_FILTER_op_en q || s.get F.NOC_PROBE_FILTER_opcode q == op) &&
    (!s.on F.NOC_PROBE_FILTER_tenant_en q || s.get F.NOC_PROBE_FILTER_tenant q == p.tenant.toNat) &&
    within (s.get F.NOC_PROBE_SRC_low q) (s.get F.NOC_PROBE_SRC_high q) p.src.toNat &&
    within (s.get F.NOC_PROBE_DST_low q) (s.get F.NOC_PROBE_DST_high q) p.dst.toNat

/-- The packet passes the probe's point. -/
def State.probeSees (s : State) (q : Nat) (p : PktArg) (path : Nat × List Nat) : Bool :=
  let stop := s.get F.NOC_PROBE_CFG_stop q
  if s.on F.NOC_PROBE_CFG_point q then stopOf p.dst.toNat == stop
  else path.1 == s.get F.NOC_PROBE_CFG_ring q && path.2.contains stop

/-- A record of a probe in mode TRACE (R549). -/
def State.traceProbe (s : State) (q op : Nat) (p : PktArg) : State :=
  if !s.on F.NOC_TRACE_CFG_enable then s
  else
    let it : Item := { time := s.now, type := 1, flags := 1,
                       payload := pack [(0, q), (1, p.tenant.toNat), (4, headerOf op p)] }
    let (s, ok) := s.deviceWrite (s.get F.NOC_TRACE_CFG_stream) 2 it
    if ok then s else (s.cnt F.NOC_TRACE_LOST_value).ev F.NOC_EVENTS_trace_lost

/-- Every probe that sees the packet counts or traces it (R548, R549, R552). -/
def State.probe (s : State) (op : Nat) (p : PktArg) : State :=
  match s.path p.src.toNat p.dst.toNat with
  | none => s
  | some path =>
    let qs := (upTo 32).filter (fun q => s.on F.NOC_PROBE_CFG_enable q && s.probeSees q p path && s.probePass q op p)
    s.each qs (fun s q =>
      let add := fun (s : State) (n : Nat) => s.addPair Reg.NOC_PROBE_COUNT_LO Reg.NOC_PROBE_COUNT_HI n q
      match s.get F.NOC_PROBE_CFG_mode q with
      | 0 => add s 1
      | 1 => add s (1 + p.length.toNat)
      | 2 => add s ((p.waits[q]?).getD 0)
      | _ => (add s 1).traceProbe q op p)

/-! ## At the destination (R540, R541) -/

/-- The packet as plain data. -/
def Pkt.of (op : Nat) (p : PktArg) : Packet :=
  { op := op, src := p.src.toNat, dst := p.dst.toNat, tenant := p.tenant.toNat, tag := p.tag.toNat, addr := p.addr.toNat,
    count := p.length.toNat, status := p.status.toNat, data := p.data.map BitVec.toNat }

/-- Answer a READ or WRITE. -/
def State.respond (s : State) (p : Packet) (status : Nat) (data : List Nat := []) : State :=
  if p.op = NocOp.READ ∨ p.op = NocOp.WRITE then
    s.send (.noc { op := p.op + 3, src := p.dst, dst := p.src, tenant := p.tenant, tag := p.tag, addr := p.addr,
                   count := data.length, status := status, data := data })
  else s

/-- A packet whose tenant does not hold the resource (R541). -/
def State.rejectPkt (s : State) (p : Packet) : State :=
  ((s.cnt F.NOC_TENANT_REJECTS_value).ev F.NOC_EVENTS_tenant_reject).respond p 2

/-- A bad packet (R540). -/
def State.badPkt (s : State) (p : Packet) : State :=
  ((s.cnt F.NOC_BAD_PACKETS_value).ev F.NOC_EVENTS_bad_packet).respond p 3

/-- Delivery at a sects attach point (R158, R541, R652). -/
def State.atSection (s : State) (p : Packet) : State :=
  let sec := p.dst
  let running := s.get F.FAB_SECT_STATUS_state sec == Sec.RUNNING && !s.haltedBy 1 sec
  if p.op = NocOp.READ_RSP ∨ p.op = NocOp.WRITE_ACK then
    let st := s.get F.FAB_SECT_STATUS_state sec
    if st = Sec.RUNNING ∨ st = 6 then s.send (.deliver p)
    else (s.cnt F.FAB_ATTACH_DISCARDS_value 1 sec).ev F.FAB_SECT_EVENTS_attach_discard sec
  else if p.tenant ≠ s.get F.FAB_SECT_STATUS_holder sec then s.rejectPkt p
  else if !running then s.respond p 1
  else s.send (.deliver p)

/-- The raw window on tier memory (R448, R449): leaf n lies at byte 4,096 n (log entry 20); nobody writes it. -/
def State.atTier (s : State) (p : Packet) : State :=
  let n := p.addr / 4096
  let q := n / 16384
  let y := s.quire q
  if p.op ≠ NocOp.READ then s.respond p 3
  else if 524288 ≤ q ∨ y.state = Qr.FREE ∨ !y.readable then s.respond p 1
  else if y.tenant ≠ p.tenant ∧ p.tenant ≠ 0 then s.rejectPkt p
  else if s.rawBlocked p.tenant q then s.blockRaw.respond p 2
  else match y.leaf? (n % 16384) with
    | none => s.respond p 1
    | some l =>
      let bytes := ((l.header q ++ l.cipher q).drop (p.addr % 4096)).take (64 * p.count)
      s.respond p 0 ((pieces bytes.length bytes).map natOf)

/-- A token for the sewing frame names its DQ in its address (log entry 20) and arrives unreserved (R464, R465). -/
def State.tokenAt (s : State) (p : Packet) (source : Nat) : State :=
  let q := p.addr % 2 ^ 20
  if s.dqHolder q ≠ p.tenant then s.rejectPkt p
  else (s.dqPost q ((p.data.head?).getD 0) source).1

/-- What the addressed unit does (R538, R540, R541). -/
def State.atEndpoint (s : State) (p : Packet) (source : Nat) : State :=
  if p.dst < 256 then s.atSection p
  else if p.dst = 273 ∧ p.op = NocOp.TOKEN then s.tokenAt p source
  else if p.dst = 274 ∧ p.op < 3 then s.atTier p
  else s.send (.deliver p)

/-! ## Ring packets on their way out (R585, R591, R592) -/

/-- The hops east to a device. -/
def State.eastHops (s : State) (dev : Nat) : Nat :=
  let n := Nat.max 1 (s.get F.BRY_RING_STATUS_size)
  (dev + n - s.device) % n

/-- The port of a flow to a device (R585): the shorter way round its ring, another way while that link is not UP. -/
def State.flowPort (s : State) (src dev : Nat) : Option Nat :=
  let n := Nat.max 1 (s.get F.BRY_RING_STATUS_size)
  let e := s.eastHops dev
  let east := decide (e ≤ n - e)
  let b := if s.ringB && (src + dev) % 2 == 1 then 2 else 0
  let first := b + (if east then 0 else 1)
  let second := b + (if east then 1 else 0)
  let other := if s.ringB then [2 - b + (if east then 0 else 1), 2 - b + (if east then 1 else 0)] else []
  ([first, second] ++ other).find? (fun p => s.portUp p)

/-- The flits of a packet: its head and its data. -/
def Pkt.flits (op : Nat) (p : PktArg) : List Nat := headerOf op p :: p.data.map BitVec.toNat

/-- Send a packet's flits on a port: each shows its destination device and whether it is the head (log entry 24). -/
def State.sendPacket (s : State) (port origin dev : Nat) (flits : List Nat) : State :=
  match flits with
  | [] => s
  | h :: r =>
    let s := s.sendFlit port Flit.NOC origin [dev, 1, h]
    s.each r (fun s f => s.sendFlit port Flit.NOC origin [dev, 0, f])

/-- A ring packet leaves (R591, R592): discarded where its address is bad, answered NOT_OWNER where the tenant is not
linked, ERROR where the device cannot be reached. -/
def State.ringOut (s : State) (op : Nat) (p : PktArg) : State :=
  let k := Pkt.of op p
  let a := p.addr.toNat
  let dev := bits a 59 57
  if bits a 62 60 ≠ 0 ∨ dev = s.device ∨ s.get F.BRY_RING_STATUS_size ≤ dev ∨ 274 < bits a 56 47 then
    s.cnt F.NOC_BAD_PACKETS_value
  else if !bit (s.word Reg.BRY_TENANT_LINK (k.tenant / 32)).toNat (k.tenant % 32) then
    (s.ev F.BRY_RING_EVENTS_ring_reject).respond k 2
  else match s.flowPort k.src dev with
    | none => s.respond k 3
    | some port => s.sendPacket port s.device dev (Pkt.flits op p)

/-- A packet arrives (R538 to R541, R546, R548). -/
def State.nocArrive (s : State) (op : Nat) (p : PktArg) (source : Nat) : State :=
  let k := Pkt.of op p
  if 276 ≤ k.dst then s.cnt F.NOC_BAD_PACKETS_value
  else if (s.path k.src k.dst).isNone then s
  else
    let s := s.probe op p
    if 4 < p.length.toNat ∨ 3 < p.status.toNat ∨ p.zero ≠ 0 then s.badPkt k
    else if k.dst = 275 ∧ bit k.addr 63 then s.ringOut op p
    else s.atEndpoint k source

/-- NOC_READ (R540, R541). -/
def execNocRead (p : PktArg) (s : State) : Host.Outcome State Fault Refusal := .next (s.nocArrive NocOp.READ p 0)

/-- NOC_WRITE (R540, R541). -/
def execNocWrite (p : PktArg) (s : State) : Host.Outcome State Fault Refusal := .next (s.nocArrive NocOp.WRITE p 0)

/-- NOC_TOKEN (R540, R541): `source` is the producer's source number (R465). -/
def execNocToken (p : PktArg) (source : BitVec 16) (s : State) : Host.Outcome State Fault Refusal :=
  .next (s.nocArrive NocOp.TOKEN p source.toNat).flushTrace

/-- NOC_READ_RSP (R540): the response reaches its requester. -/
def execNocReadRsp (p : PktArg) (s : State) : Host.Outcome State Fault Refusal := .next (s.nocArrive NocOp.READ_RSP p 0)

/-- NOC_WRITE_ACK (R540). -/
def execNocWriteAck (p : PktArg) (s : State) : Host.Outcome State Fault Refusal := .next (s.nocArrive NocOp.WRITE_ACK p 0)

/-- NOC_MGT_READ (R540): a management access; what it addresses the spec does not give. -/
def execNocMgtRead (p : PktArg) (s : State) : Host.Outcome State Fault Refusal := .next (s.nocArrive NocOp.MGT_READ p 0)

/-- NOC_MGT_WRITE (R540). -/
def execNocMgtWrite (p : PktArg) (s : State) : Host.Outcome State Fault Refusal := .next (s.nocArrive NocOp.MGT_WRITE p 0)

/-! ## Rings (R545 to R547, R551) -/

/-- NOC_FLIT_REPLAY (R545): a flit that fails its CRC is replayed. -/
def execNocFlitReplay (s : State) : Host.Outcome State Fault Refusal := .next (s.cnt F.NOC_LINK_RETRIES_value)

/-- NOC_RING_FAILURE (R545, R546, class F5): cause 1 LINK_RETRY, 2 CREDIT_TIMEOUT, 3 STOP_PARITY at a stop's segment. The
flows of the pair are held until the moved flits are delivered. -/
def execNocRingFailure (ring : BitVec 3) (cause : BitVec 2) (segment : BitVec 6) (s : State) :
    Host.Outcome State Fault Refusal :=
  let r := ring.toNat
  if s.get F.NOC_RING_STATUS_state r ≠ V.NOC_RING_STATUS_state_UP ∨ cause = 0 ∨ 51 < segment.toNat then .next s
  else
    let other := if r % 2 = 0 then r + 1 else r - 1
    let second := !s.ringUp other
    let s := (s.put F.NOC_RING_STATUS_state V.NOC_RING_STATUS_state_FAILED r).put F.NOC_RING_STATUS_fail_cause cause.toNat r
    let s := s.put F.NOC_RING_STATUS_segment segment.toNat r
    let s := s.put F.NOC_STATUS_rings_up (s.get F.NOC_STATUS_rings_up &&& (0xFF ^^^ 2 ^ r))
    let s := { s with noc := { s.noc with held := s.noc.held.erase (r / 2) ++ [r / 2] } }
    .next (((s.ev F.NOC_EVENTS_ring_failed).fault 5 second).log 0x40 2 r [cause.toNat, segment.toNat])

/-- NOC_REROUTE_DONE (R546): the moved flits of a pair are delivered, and its held flows resume. -/
def execNocRerouteDone (pair : BitVec 2) (s : State) : Host.Outcome State Fault Refusal :=
  .next { s with noc := { s.noc with held := s.noc.held.erase pair.toNat } }

/-! ## Probe registers (R550, R552) -/

/-- A write of NOC.PROBE_CFG, PROBE_FILTER, PROBE_SRC or PROBE_DST (`which` 0 to 3) of probe `q`. -/
def State.writeProbe (s : State) (p : Path) (which q : Nat) (v : Word) : State × Nat :=
  let x := v.toNat
  let r := match which with
    | 0 => Reg.NOC_PROBE_CFG
    | 1 => Reg.NOC_PROBE_FILTER
    | 2 => Reg.NOC_PROBE_SRC
    | _ => Reg.NOC_PROBE_DST
  let bad := match which with
    | 0 => decide (51 < bits x 5 0)
    | 1 => false
    | _ => decide (275 < bits x 25 16)
  s.guardWrite p r q 0 0 v bad (fun s =>
    let old := (s.word Reg.NOC_PROBE_CFG q).toNat
    let was := bit old 31
    let m := 0x7700003F
    if was && (which != 0 || (old &&& m) != (x &&& m)) then
      (s.ev F.NOC_EVENTS_probe_refused, St.OK)
    else
      let s := s.applyWrite p r q 0 0 v
      (s.when (which == 0 && !was && bit x 31)
        (fun s => s.setPair Reg.NOC_PROBE_COUNT_LO Reg.NOC_PROBE_COUNT_HI 0 q), St.OK))

/-- PROBE_CFG_WRITE (R550) of a probe register. -/
def execProbeCfgWrite (p : Path) (which : BitVec 2) (q : BitVec 5) (v : Word) (s : State) :
    Host.Outcome State Fault Refusal :=
  .next (s.writeProbe p which.toNat q.toNat v).1

end Sys2Proof.Machine
end

