-- ==== Sys2Proof/Machine/Timebase.lean ====
section
/-! DEFINITION. Machine/Timebase.lean: the timebase commands (spec/03, R72 to R74; R589). -/
namespace Sys2Proof.Machine

/-- Any stream is active (R73). -/
def State.anyActive (s : State) : Bool := s.cap.streams.any (fun p => s.strmActive p.1)

/-- An action is scheduled against a future timestamp (R73). -/
def State.scheduled (s : State) : Bool :=
  s.obs.fol.isSome || !s.cap.ribbons.isEmpty || !s.trig.lines.isEmpty ||
    s.press.any (fun p => s.prsState p.1 == V.PRS_LANE_STATUS_state_ARMED || p.2.timeWait) ||
    s.someFrame (fun f => s.get F.PRS_FRM_STATUS_state f == V.PRS_FRM_STATUS_state_ARMED)

/-- Set the timebase, whose bits 2 to 0 stay zero (R69), with a TIME anchor of a cause (1 SET, 2 STEP) in every active
stream on a forward move (R74, R235). -/
def State.setTime (s : State) (t cause : Nat) : State :=
  let old := s.now
  let s := { s with clk := { s.clk with timebase := BitVec.ofNat 64 (t / 8 * 8) } }
  if t ≤ old then s
  else s.each ((s.cap.streams.map (fun p => p.1)).filter (fun n => s.strmActive n)) (fun s n =>
    s.place n { time := t, type := 5, flags := cause, payload := pack [(0, t), (8, old)] })

/-- The device is the master of a ring of two or more (R589). -/
def State.ringMaster (s : State) : Bool :=
  s.get F.BRY_RING_STATUS_role == V.BRY_RING_CFG_role_MASTER && decide (2 ≤ s.get F.BRY_RING_STATUS_size)

/-- The timestamp an operation gives at `t`: none when a STEP leaves the range (R72). -/
def TimeReq.target (r : TimeReq) (t : Nat) : Option Nat :=
  if r.step then
    let x : Int := (t : Int) + r.value.toInt
    if x < 0 ∨ (2 ^ 64 : Int) ≤ x then none else some (x.toNat / 8 * 8)
  else some (r.value.toNat / 8 * 8)

/-- Report the result of a timebase command. -/
def State.timeResult (s : State) (code : Nat) : State := s.put F.CLK_TIME_CMD_result code

/-- Abandon the pending command. -/
def State.timeIdle (s : State) : State :=
  ({ s with clk := { s.clk with pending := none } }).put F.CLK_TIME_CMD_pending 0

/-- Accept or refuse a SET or STEP (R72, R73); on a ring master it applies 20 µs ahead at the earliest and is sent to the
members when it moves the timebase forward (R589). -/
def State.timeRequest (s : State) (step : Bool) (at' : Bool) : State :=
  let value := BitVec.ofNat 64 (s.pair Reg.CLK_TIME_SET_LO Reg.CLK_TIME_SET_HI / 8 * 8)
  let t := s.pair Reg.CLK_TIME_AT_LO Reg.CLK_TIME_AT_HI / 8 * 8
  if at' && decide (t < s.now + 64000) then s.timeResult V.CLK_TIME_CMD_result_AT_PAST
  else if s.on F.CLK_STATUS_ring_member then s.timeResult V.CLK_TIME_CMD_result_RING_MEMBER
  else
    let when' := if s.ringMaster then some (Nat.max (if at' then t else 0) ((s.now + 1280000) / 8 * 8))
      else if at' then some t else none
    let r : TimeReq := { step := step, value := value, at? := when'.map (fun t => BitVec.ofNat 64 t) }
    let s := ({ s with clk := { s.clk with pending := some r } }).put F.CLK_TIME_CMD_pending 1
    match s.ringMaster, when' with
    | true, some t =>
      match r.target t with
      | some x => if t ≤ x then s.sendRing Flit.BCAST [if step then 1 else 0, value.toNat, t] else s
      | none => s
    | _, _ => s

/-- A write of CLK.TIME_CMD (R72, R85). -/
def State.writeTimeCmd (s : State) (p : Path) (v : Word) : State × Nat :=
  s.guardWrite p Reg.CLK_TIME_CMD 0 0 0 v false (fun s =>
    let s := s.applyWrite p Reg.CLK_TIME_CMD 0 0 0 v
    if !s.on F.CLK_TIME_CMD_go then (s, St.OK)
    else
      let s := s.put F.CLK_TIME_CMD_go 0
      let op := s.get F.CLK_TIME_CMD_op
      if op = V.CLK_TIME_CMD_op_CANCEL then
        if s.clk.pending.isSome then (s.timeIdle.timeResult V.CLK_TIME_CMD_result_CANCELLED, St.OK)
        else (s.timeResult V.CLK_TIME_CMD_result_NONE, St.OK)
      else (s.timeRequest (op == V.CLK_TIME_CMD_op_STEP) (s.on F.CLK_TIME_CMD_at_enable), St.OK))

/-- TIME_SET (R72): a write of CLK.TIME_CMD with go and op SET. -/
def execTimeSet (p : Path) (at' : Bool) (s : State) : Host.Outcome State Fault Refusal :=
  .next (s.writeTimeCmd p (BitVec.ofNat 32 (1 + 8 * b2n at'))).1

/-- TIME_STEP (R72): a write of CLK.TIME_CMD with go and op STEP. -/
def execTimeStep (p : Path) (at' : Bool) (s : State) : Host.Outcome State Fault Refusal :=
  .next (s.writeTimeCmd p (BitVec.ofNat 32 (1 + 8 * b2n at' + 16))).1

/-- TIME_CANCEL (R72): a write of CLK.TIME_CMD with go and op CANCEL. -/
def execTimeCancel (p : Path) (s : State) : Host.Outcome State Fault Refusal := .next (s.writeTimeCmd p 33#32).1

/-- TIME_CMD_APPLY (R72 to R74, R589): the pending SET or STEP reaches its tick. -/
def execTimeCmdApply (s : State) : Host.Outcome State Fault Refusal :=
  match s.clk.pending with
  | none => .next s
  | some r =>
    let s := match r.at? with | some t => s.advanceTo t.toNat | none => s
    let t := s.now
    let s := s.timeIdle
    match r.target t with
    | none => .next (s.timeResult V.CLK_TIME_CMD_result_RANGE)
    | some x =>
      if x < t ∧ (s.anyActive ∨ s.scheduled ∨ s.ringMaster) then .next (s.timeResult V.CLK_TIME_CMD_result_BACKWARD)
      else .next ((s.setTime x (if r.step then 2 else 1)).timeResult V.CLK_TIME_CMD_result_DONE)

end Sys2Proof.Machine
end

