-- ==== Sys2Proof/Machine/Obs.lean ====
section
/-! DEFINITION. Machine/Obs.lean: foliation and the DEVICE ribbons (spec/26, R664 to R679). -/
namespace Sys2Proof.Machine

/-! ## The foliation set (R664, R665) -/

/-- The registers that count without being RC: the low registers of the 64-bit pairs. -/
def folPairs : List RegDef :=
  [Reg.SWF_DECISIONS_LO, Reg.SWF_FIRINGS_LO, Reg.NOC_PROBE_COUNT_LO, Reg.CAP_STREAM_STORED_LO, Reg.CAP_STREAM_GAP_LO,
   Reg.CAP_SESS_RECORDS_LO, Reg.PRS_FRM_SENT_LO]

/-- The RW counters and the registers with a counting field. -/
def folPlain : List RegDef :=
  [Reg.SECT_CNT_VALUE, Reg.SECT_SEQ_STATUS, Reg.GIO_TLINE, Reg.CLK_PPS_COUNT, Reg.OBS_FOL_NUMBER]

/-- A register is of a list. -/
def RegDef.isIn (r : RegDef) (l : List RegDef) : Bool := l.any (fun x => x.id == r.id)

/-- A register has an entry in the foliation set. -/
def RegDef.counts (r : RegDef) : Bool := r.rc != 0 || r.isIn folPairs || r.isIn folPlain

/-- The number of entries (R665); BAR0 shows the registers of one FRAME stream at a time (R386). -/
def folCount : Nat :=
  ((Reg.all.filter (fun r => r.counts)).map (fun r => if 0x10000000 ≤ r.base then 1 else r.c1 * r.c2 * r.c3)).sum

/-- The register an offset names, BAR0's FRAME window following PRS.FRM_INDEX. -/
def State.regAt (s : State) (off : Nat) : Option (RegDef × Nat × Nat × Nat) := findReg (s.translate off)

/-- The offsets of the entries, ascending. -/
def State.folOffsets (s : State) : List Nat :=
  ((upTo (2 ^ 26)).map (fun i => 4 * i)).filter (fun off =>
    match s.regAt off with
    | some (r, _) => r.counts
    | none => false)

/-- The 12 bytes of the entry of an offset in a state (R671), as its two parts: bytes 0 to 3 and the value. -/
def State.folEntry (s : State) (off : Nat) : Nat × Nat :=
  match s.regAt off with
  | none => (0, 0)
  | some (r, i, j, k) =>
    let w := (s.word r i j k).toNat
    let isPair := r.isIn folPairs
    let hi := match s.regAt (off + 4) with
      | some (q, a, b, c) => (s.word q a b c).toNat
      | none => 0
    let dom := (regDomain off).map (fun n => s.get F.PWR_DOMAIN_STATUS_state n)
    let off' := dom == some V.PWR_DOMAIN_STATUS_state_OFF
    let notOn := dom.isSome && dom != some V.PWR_DOMAIN_STATUS_state_ON
    let sat := (r.rc != 0 && w &&& r.rc == r.rc) || (r.isIn [Reg.SECT_CNT_VALUE] && w == 0xFFFFFFFF)
    let v := if isPair then w + hi * 2 ^ 32 else w
    (off + b2n sat * 2 ^ 29 + b2n notOn * 2 ^ 30 + b2n isPair * 2 ^ 31, if off' then 0 else v)

/-- The state whose registers are the shadows. -/
def State.shadowed (s : State) : State := { s with regs := s.obs.shadow }

/-! ## Scheduling (R666, R674) -/

/-- Report a result of OBS.FOL_CMD. -/
def State.folResult (s : State) (code : Nat) : State := s.put F.OBS_FOL_CMD_result code

/-- The ring is formed (R581). -/
def State.ringFormed (s : State) : Bool := s.get F.BRY_RING_STATUS_state == V.BRY_RING_STATUS_state_RING

/-- Schedule a foliation, or refuse it (R666). A ring foliation is sent with the number it will take. -/
def State.folSchedule (s : State) : State :=
  let t := s.pair Reg.OBS_FOL_AT_LO Reg.OBS_FOL_AT_HI / 8 * 8
  let ring := s.on F.OBS_FOL_CMD_ring
  if s.obs.fol.isSome ∨ s.obs.writing.isSome then s.folResult V.OBS_FOL_CMD_result_BUSY
  else if t < s.now + (if ring then 1280000 else 128000) then s.folResult V.OBS_FOL_CMD_result_AT_PAST
  else if ring ∧ (!s.ringMaster ∨ !s.ringFormed) then s.folResult V.OBS_FOL_CMD_result_RING_MEMBER
  else
    let n := (s.get F.OBS_FOL_NUMBER_value + 1) % 2 ^ 32
    let f : Foliation := { t := t, ring := ring, number := if ring then n else 0xFFFFFFFF }
    let s := ({ s with obs := { s.obs with fol := some f } }).put F.OBS_STATUS_pending 1
    let s := s.folResult V.OBS_FOL_CMD_result_NONE
    if ring then s.sendRing Flit.BCAST [2, t, n] else s

/-- Abandon a pending foliation (R666). -/
def State.folCancel (s : State) : State :=
  if s.obs.fol.isSome then
    (({ s with obs := { s.obs with fol := none } }).put F.OBS_STATUS_pending 0).folResult V.OBS_FOL_CMD_result_CANCELLED
  else s

/-- A write of OBS.FOL_CMD (R666, R679). -/
def State.writeFolCmd (s : State) (p : Path) (v : Word) : State × Nat :=
  s.guardWrite p Reg.OBS_FOL_CMD 0 0 0 v false (fun s =>
    let s := s.applyWrite p Reg.OBS_FOL_CMD 0 0 0 v
    if !s.on F.OBS_FOL_CMD_go then (s, St.OK)
    else
      let s := s.put F.OBS_FOL_CMD_go 0
      (if s.get F.OBS_FOL_CMD_op = V.OBS_FOL_CMD_op_CANCEL then s.folCancel else s.folSchedule, St.OK))

/-- A write of OBS.FOL_CFG (R677): refused while a foliation is pending or being written. -/
def State.writeFolCfg (s : State) (p : Path) (v : Word) : State × Nat :=
  s.guardWrite p Reg.OBS_FOL_CFG 0 0 0 v false (fun s =>
    if s.obs.fol.isSome ∨ s.obs.writing.isSome then refuseWrite s p St.REFUSED_BUSY (fun s => s.ev F.OBS_EVENTS_wr_refused)
    else (s.applyWrite p Reg.OBS_FOL_CFG 0 0 0 v, St.OK))

/-- FOLIATION_SCHEDULE (R666): OBS.FOL_CMD written with go and op SCHEDULE, for the time in OBS.FOL_AT. -/
def execFoliationSchedule (p : Path) (ring : Bool) (s : State) : Host.Outcome State Fault Refusal :=
  .next (s.writeFolCmd p (BitVec.ofNat 32 (2 ^ 31 + b2n ring * 2 ^ 29))).1

/-- FOLIATION_CANCEL (R666): OBS.FOL_CMD written with go and op CANCEL. -/
def execFoliationCancel (p : Path) (s : State) : Host.Outcome State Fault Refusal :=
  .next (s.writeFolCmd p 0xC0000000#32).1

/-! ## DEVICE ribbons (R673, R675) -/

/-- A DEVICE ribbon in a capture stream: discarded and counted where the stream waits. -/
def State.deviceRibbon (s : State) (n : Nat) (it : Item) : State :=
  if s.strmState n = Strm.WAITING then
    ((s.ribbon n it).cnt F.OBS_RIBBONS_LOST_value).ev F.OBS_EVENTS_ribbon_lost
  else s.ribbon n it

/-- A DEVICE ribbon in the ribbon stream of OBS.RIBBON_CFG, a DEVICE stream bound to no other writer (R675). -/
def State.ribbonStream (s : State) (it : Item) : State :=
  let n := s.get F.OBS_RIBBON_CFG_stream
  if s.strmState n = Strm.WAITING ∧ s.strmKind n = Kind.DEVICE then s.deviceRibbon n it
  else
    let (s, ok) := s.deviceWrite n 4 it
    if ok then s else (s.cnt F.OBS_RIBBONS_LOST_value).ev F.OBS_EVENTS_ribbon_lost

/-- The active CAPTURE and TX_MONITOR streams with a member lane that satisfies a test. -/
def State.lineStreams (s : State) (f : Nat → Bool) : List Nat :=
  (s.cap.streams.filter (fun p => s.strmActive p.1 && decide (s.strmKind p.1 ≤ 1) &&
    p.2.members.any (fun y => f y.lane))).map (fun p => p.1)

/-- The ribbon of an event-log entry that was written (R673). `lo` to `hi` are its entry bytes 32 to 51. -/
def State.logRibbon (s : State) (e : LogEntry) (seq : Nat) : State :=
  if !bit (s.get F.OBS_RIBBON_CFG_ribbon_groups) (e.code / 16) || !s.on F.OBS_RIBBON_CFG_enable then s
  else
    let detail := pack (((upTo 5).zip (e.detail.take 5)).map (fun p => (4 * p.1, p.2)))
    let data := pack [(0, seq), (8, e.code), (12, detail)]
    let it := ribbonItem (0xFFFF0000 + e.code) 3 e.unit s.now e.time.toNat data 0 none
    let s := s.ribbonStream it
    let ns := match e.code with
      | 0x30 | 0x31 | 0x32 => s.lineStreams (fun l => l / 8 == e.unit)
      | 0x90 | 0x91 => s.lineStreams (fun l => l / 32 == e.unit)
      | 0xA0 => s.lineStreams (fun l => l == e.unit)
      | 0x80 => s.lineStreams (fun _ => true)
      | _ => []
    s.each ns (fun s n => s.deviceRibbon n it)

/-! ## Taking and writing (R667 to R672) -/

/-- The flags of header byte 25 (R671). -/
def Foliation.flags (f : Foliation) : Nat := b2n f.late + 2 * b2n f.stepped + 4 * b2n f.ring

/-- Take a foliation now (R667 to R670, R673). -/
def State.folTake (s : State) (f : Foliation) : State :=
  let now := s.now
  let f := { f with copy := now }
  let s := { s with obs := { s.obs with shadow := s.regs, fol := none } }
  let s := (s.put F.OBS_STATUS_pending 0).put F.OBS_STATUS_shadow_valid 1
  let s := ((s.put F.OBS_STATUS_last_late (b2n f.late)).put F.OBS_STATUS_last_stepped (b2n f.stepped)).put
    F.OBS_STATUS_last_ring (b2n f.ring)
  let s := (s.cntWrap F.OBS_FOL_NUMBER_value).setPair Reg.OBS_FOL_TAKEN_LO Reg.OBS_FOL_TAKEN_HI now
  let s := s.ev F.OBS_EVENTS_taken
  let n := s.get F.OBS_FOL_NUMBER_value
  let it := ribbonItem 0xFFFF1000 3 (n % 65536) now now (pack [(0, n), (4, f.number), (8, f.flags)]) 0 none
  let s := s.ribbonStream it
  let s := s.each (s.lineStreams (fun _ => true)) (fun s n => s.deviceRibbon n it)
  let m := s.get F.OBS_FOL_CFG_stream
  let x := s.strm m
  if s.strmState m = Strm.ACTIVE ∧ s.strmKind m = Kind.DEVICE ∧ (x.bound = 0 ∨ x.bound = 3) then
    ({ s with obs := { s.obs with writing := some f } }).put F.OBS_STATUS_writing 1
  else (s.folResult V.OBS_FOL_CMD_result_NO_STREAM).ev F.OBS_EVENTS_not_written

/-- FOLIATION_COPY (R667 to R669): T is reached, or was passed by a step. -/
def execFoliationCopy (s : State) : Host.Outcome State Fault Refusal :=
  match s.obs.fol with
  | none => .next s
  | some f =>
    let stepped := decide (f.t < s.now)
    .next ((s.advanceTo f.t).folTake { f with stepped := stepped })

/-- The header strip of a foliation (R671). -/
def State.folHeader (s : State) (f : Foliation) : Nat :=
  pack [(0, s.get F.OBS_FOL_NUMBER_value), (4, f.number), (8, f.t), (16, f.copy), (24, s.device), (25, f.flags),
    (28, s.get F.OBS_FOL_ENTRIES_value), (32, Config.identity.toNat)]

/-- Cut a list into pieces of five. -/
def fives {α : Type} : Nat → List α → List (List α)
  | 0, _ => []
  | n + 1, l => if l.isEmpty then [] else l.take 5 :: fives n (l.drop 5)

/-- The payload of an entry strip (R671). -/
def folStrip (es : List (Nat × Nat)) : Nat :=
  pack (((upTo es.length).zip es).flatMap (fun p => [(12 * p.1, p.2.1), (12 * p.1 + 4, p.2.2)]))

/-- The COUNTERS stream of a foliation: its leaves are of that type. -/
def State.countersStream (s : State) (n : Nat) : State :=
  let x := s.strm n
  let s := s.setStrm n { x with ltype := 5 }
  s.each (x.quires ++ x.next.toList) (fun s q => s.setQuire q { s.quire q with ltype := 5 })

/-- FOLIATION_WRITTEN (R670): the shadows are written to the stream as COUNTERS leaves. -/
def execFoliationWritten (s : State) : Host.Outcome State Fault Refusal :=
  match s.obs.writing with
  | none => .next s
  | some f =>
    let n := s.get F.OBS_FOL_CFG_stream
    let s := ({ s with obs := { s.obs with writing := none } }).put F.OBS_STATUS_writing 0
    if s.strmState n ≠ Strm.ACTIVE then
      .next ((s.folResult V.OBS_FOL_CMD_result_NO_STREAM).ev F.OBS_EVENTS_not_written)
    else
      let z := s.shadowed
      let es := z.folOffsets.map (fun off => z.folEntry off)
      let s := s.countersStream n
      let s := if (s.strm n).leaf.isSome then s.closeLeaf n false false else s
      let strip := fun (count payload : Nat) =>
        ({ time := f.copy, type := 1, flags := count, payload := payload } : Item)
      let s := (s.deviceWrite n 3 (strip 0 (s.folHeader f))).1
      let s := s.each (fives (es.length + 1) es) (fun s p => (s.deviceWrite n 3 (strip p.length (folStrip p))).1)
      let s := if (s.strm n).leaf.isSome then s.closeLeaf n false false else s
      .next ((s.folResult V.OBS_FOL_CMD_result_DONE).ev F.OBS_EVENTS_written)

/-- A read of OBS.SHD_OFFSET on a path (R672, R710): bytes 0 to 3 of the entry, its value latched for the path. -/
def State.readShadow (s : State) (p : Path) : State × Word :=
  let i := s.get F.OBS_SHD_INDEX_entry
  let z := s.shadowed
  let (a, v) := if s.on F.OBS_STATUS_shadow_valid then
      match z.folOffsets[i]? with | some off => z.folEntry off | none => (0, 0)
    else (0, 0)
  let key := 512 * Reg.OBS_SHD_OFFSET.base + pathLatch p
  ({ s with latch := Tbl.set [] key [BitVec.ofNat 32 v, BitVec.ofNat 32 (v / 2 ^ 32)] s.latch }, BitVec.ofNat 32 a)

/-- SHADOW_READ (R672): the owner reads OBS.SHD_OFFSET. -/
def execShadowRead (p : Path) (s : State) : Host.Outcome State Fault Refusal :=
  let (s, v) := s.readShadow p
  .next (s.send (.data p Reg.OBS_SHD_OFFSET.base v.toNat))

/-- A foliation of the ring master reaches a member (R674). -/
def State.folReceive (s : State) (t n : Nat) : State :=
  if s.obs.fol.isSome ∨ s.obs.writing.isSome then s.ev F.OBS_EVENTS_ring_skipped
  else
    let f : Foliation := { t := t, ring := true, number := n }
    if t < s.now then (s.ev F.OBS_EVENTS_late).folTake { f with late := true }
    else ({ s with obs := { s.obs with fol := some f } }).put F.OBS_STATUS_pending 1

end Sys2Proof.Machine
end

