-- ==== Sys2Proof/Machine/Brynust.lean ====
section
/-! DEFINITION. Machine/Brynust.lean: the Brynust ports, the ring, its flits, timebase alignment and remote access
(spec/22, R580 to R598; R451, R452). -/
namespace Sys2Proof.Machine

/-! Port states and causes (R595). -/
abbrev Bry.DOWN : Nat := 0
abbrev Bry.TRAINING : Nat := 1
abbrev Bry.UP : Nat := 2
abbrev Bry.RETRAINING : Nat := 3
abbrev Bry.FAILED : Nat := 4

/-! Ring states (R597). -/
abbrev Ring.NONE : Nat := 0
abbrev Ring.FORMING : Nat := 1
abbrev Ring.RING : Nat := 2
abbrev Ring.CHAIN : Nat := 3
abbrev Ring.ISOLATED : Nat := 4

/-! ## Ports and the ring (R580, R581, R586) -/

/-- The role in force (R597). -/
def State.role (s : State) : Nat := s.get F.BRY_RING_STATUS_role

/-- The ring size in force. -/
def State.ringSize (s : State) : Nat := Nat.max 1 (s.get F.BRY_RING_STATUS_size)

/-- The device a port's cable leads to: east for ports 0 and 2, west for 1 and 3 (R580). -/
def State.neighbour (s : State) (p : Nat) : Nat :=
  if p % 2 = 0 then (s.device + 1) % s.ringSize else (s.device + s.ringSize - 1) % s.ringSize

/-- The other port of a port's ring. -/
def across (p : Nat) : Nat := if p % 2 = 0 then p + 1 else p - 1

/-- The port belongs to a ring in force: ring A, or ring B where it is enabled (R580). -/
def State.portUsed (s : State) (p : Nat) : Bool := s.role != V.BRY_RING_CFG_role_STANDALONE && (decide (p < 2) || s.ringB)

/-- Put a port in a state with a cause. -/
def State.setPort (s : State) (p st cause : Nat) : State :=
  let s := (s.put F.BRY_PORT_STATUS_state st p).put F.BRY_PORT_STATUS_cause cause p
  s.when (st == Bry.FAILED) (fun s => s.ev F.BRY_PORT_EVENTS_failed p)

/-- Put a link's encryption in a state with a cause (R457). -/
def State.setSession (s : State) (p st cause : Nat) : State :=
  (s.put F.SEC_LINK_STATUS_state st p).put F.SEC_LINK_STATUS_cause cause p

/-- The port is set to encrypt (R454). -/
def State.encrypts (s : State) (p : Nat) : Bool := bit (s.get F.SEC_LINK_CTRL_encrypt) p

/-- The ring forms (R581, R586): members switch their root to the upstream port, ring_member is set, and the offset of
formation is to be applied (R588). -/
def State.ringForms (s : State) : State :=
  let s := s.ev F.BRY_RING_EVENTS_formed
  if s.role ≠ V.BRY_RING_CFG_role_MEMBER then s
  else
    let s := { s with bry := { s.bry with upstream := 1, settle := true, offsets := [] } }
    let s := (s.put F.CLK_STATUS_ring_member 1).setSync V.BRY_SYNC_STATUS_state_ALIGNING
    let src := 1024 + 1
    if s.get F.CLK_STATUS_active_source = src ∧ s.get F.CLK_STATUS_root_state = Root.LOCKED then s else s.slewTo src false

/-- The ring's state after a change (R581): `far` is the number of ring-A links not UP beyond this device's own,
`reach` the devices reachable. -/
def State.ringState (s : State) (far reach : Nat) : State :=
  if s.role = V.BRY_RING_CFG_role_STANDALONE then s
  else
    let own := b2n (!s.portUp 0) + b2n (!s.portUp 1)
    let was := s.get F.BRY_RING_STATUS_state
    let st := if own = 2 then Ring.ISOLATED else if own + far = 0 then Ring.RING else if own + far = 1 then Ring.CHAIN
      else Ring.FORMING
    let s := { s with bry := { s.bry with farDown := far } }
    let s := (s.put F.BRY_RING_STATUS_state st).put F.BRY_RING_STATUS_reachable reach
    let s := s.when (was == Ring.RING && (st == Ring.CHAIN || st == Ring.ISOLATED)) (fun s => s.ev F.BRY_RING_EVENTS_broken)
    s.when (st == Ring.RING && was != Ring.RING) State.ringForms

/-! ## Packets of the ring (R584, R585, R591, R592) -/

/-- The packet that a head flit and its data flits spell (R540). -/
def packetOf (flits : List Nat) : Packet :=
  let h := (flits.head?).getD 0
  { op := bits h 31 25, src := bits h 19 10, dst := bits h 9 0, tenant := bits h 39 32, tag := bits h 55 40,
    addr := bits h 127 64, count := bits h 24 22, status := bits h 59 56, data := flits.drop 1 }

/-- The flits of a response (R540): vc RSP. -/
def Packet.toFlits (p : Packet) : List Nat :=
  (p.dst + p.src * 2 ^ 10 + 2 ^ 20 + p.count * 2 ^ 22 + p.op * 2 ^ 25 + p.tenant * 2 ^ 32 + p.tag * 2 ^ 40 +
    p.status * 2 ^ 56 + p.addr * 2 ^ 64) :: p.data

/-- Run an operation and send the responses it gave back to a device through a port, along the reverse of the request's
path (R591). -/
def State.answerThrough (s : State) (port dev : Nat) (f : State → State) : State :=
  let kept := s.out
  let s := f { s with out := [] }
  let mine := s.out
  let isRsp := fun (o : Out) => match o with
    | .noc p => p.op == NocOp.READ_RSP || p.op == NocOp.WRITE_ACK
    | _ => false
  let s := { s with out := mine.filter (fun o => !isRsp o) ++ kept }
  s.each (mine.reverse) (fun s o => match o with
    | .noc p => if isRsp o then s.sendPacket port s.device dev p.toFlits else s
    | _ => s)

/-- A packet from another device is complete at its destination (R591, R592). -/
def State.ringDeliver (s : State) (port origin source : Nat) (flits : List Nat) : State :=
  let k := packetOf flits
  if k.op = NocOp.READ_RSP ∨ k.op = NocOp.WRITE_ACK then s.atEndpoint k 0
  else
    let e := bits k.addr 56 47
    let k' := { k with dst := e, addr := bits k.addr 46 0 }
    s.answerThrough port origin (fun s =>
      if bits k.addr 62 60 ≠ 0 ∨ 274 < e ∨ 4 < k.count ∨ 6 < k.op ∨ 3 < k.status then s.badPkt k
      else if !bit (s.word Reg.BRY_TENANT_LINK (k.tenant / 32)).toNat (k.tenant % 32) then
        (s.ev F.BRY_RING_EVENTS_ring_reject).respond k 2
      else s.atEndpoint k' source)

/-- A port leaves UP (R585): the NoC requests its replay buffer holds are answered ERROR, those of this device here, the
others along the reverse of their path. What was being received on it is abandoned. -/
def State.bryDown (s : State) (p : Nat) : State :=
  let x := s.bryPort p
  let held := x.replay.filter (fun e => e.2.1 == Flit.NOC && (e.2.2.2[1]?).getD 0 == 1)
  let s := s.setBryPort p {}
  s.each held (fun s e =>
    let k := packetOf [(e.2.2.2[2]?).getD 0]
    let origin := e.2.2.1
    if origin = s.device then s.respond k 3
    else s.answerThrough (across p) origin (fun s => s.respond k 3))

/-- A port goes DOWN (R581, R585, R586). -/
def State.portDown (s : State) (p cause : Nat) : State :=
  let s := ((s.bryDown p).setPort p Bry.DOWN cause).setSession p V.SEC_LINK_STATUS_state_DOWN V.SEC_LINK_STATUS_cause_NONE
  let src := 1024 + p
  let active := s.get F.CLK_STATUS_active_source == src ||
    (s.get F.CLK_STATUS_root_state == Root.SWITCHING && s.clk.target == src)
  (s.sourceGone src).when active State.activeLost

/-- BRY_PORT_TRAINED (R581, R451, R452): training of a port ends with what the partner told: its ring ID, size and number,
and whether it encrypts; `bad` marks the failed lanes. -/
def execBryPortTrained (port : BitVec 2) (ringId : BitVec 16) (size : BitVec 4) (number : BitVec 3) (bad : BitVec 8)
    (encrypted : Bool) (far : BitVec 3) (reach : BitVec 8) (s : State) : Host.Outcome State Fault Refusal :=
  let p := port.toNat
  let st := s.get F.BRY_PORT_STATUS_state p
  if !s.portUsed p || !s.domOn (domBry p) || (st != Bry.DOWN && st != Bry.TRAINING) then .next s
  else
    let enc := s.encrypts p
    let key := fun (s : State) (c : Nat) =>
      (s.setPort p Bry.FAILED V.BRY_PORT_STATUS_cause_KEY).setSession p V.SEC_LINK_STATUS_state_FAILED c
    let partner := fun (s : State) => (s.put F.BRY_PORT_STATUS_partner number.toNat p).ev F.BRY_PORT_STATUS_partner_valid p
    let own := s.boot.ringAtStart.getD 0#32
    let s :=
      if enc && !s.on F.SEC_STATUS_ring_key_set then key s V.SEC_LINK_STATUS_cause_NO_RING_KEY
      else
        let s := partner s
        if ringId.toNat ≠ bits own.toNat 15 0 ∨ size.toNat ≠ s.ringSize ∨ number.toNat ≠ s.neighbour p then
          s.setPort p Bry.FAILED V.BRY_PORT_STATUS_cause_TOPOLOGY
        else if enc != encrypted then key s V.SEC_LINK_STATUS_cause_PEER_MISMATCH
        else if bad.toNat % 16 ≠ 0 ∧ bad.toNat / 16 ≠ 0 then s.setPort p Bry.FAILED V.BRY_PORT_STATUS_cause_LANES
        else
          let s := (s.setBryPort p {}).put F.BRY_PORT_STATUS_x4 (b2n (bad != 0)) p
          let s := (s.setPort p Bry.UP V.BRY_PORT_STATUS_cause_NONE).ev F.BRY_PORT_EVENTS_up p
          if enc then
            (s.setSession p V.SEC_LINK_STATUS_state_ENCRYPTED 0).cnt F.SEC_LINK_STATUS_sessions 1 p
          else s.setSession p V.SEC_LINK_STATUS_state_CLEAR 0
    .next (s.ringState far.toNat reach.toNat)

/-- BRY_NO_PARTNER_RETRY (R581): no partner answered within 100 ms; training is tried again. -/
def execBryNoPartnerRetry (port : BitVec 2) (s : State) : Host.Outcome State Fault Refusal :=
  let p := port.toNat
  let st := s.get F.BRY_PORT_STATUS_state p
  if !s.portUsed p || !s.domOn (domBry p) || (st != Bry.DOWN && st != Bry.TRAINING) then .next s
  else .next ((s.setPort p Bry.DOWN V.BRY_PORT_STATUS_cause_NO_PARTNER).ringState s.bry.farDown
    (s.get F.BRY_RING_STATUS_reachable))

/-- BRY_PORT_DOWN (R585, R586): a ring link leaves UP, here or, with `far` and `reach` alone, beyond. -/
def execBryPortDown (port : BitVec 2) (here : Bool) (far : BitVec 3) (reach : BitVec 8) (s : State) :
    Host.Outcome State Fault Refusal :=
  let p := port.toNat
  let st := s.get F.BRY_PORT_STATUS_state p
  let s := if here && (st == Bry.UP || st == Bry.RETRAINING) then s.portDown p V.BRY_PORT_STATUS_cause_NONE else s
  .next (s.ringState far.toNat reach.toNat)

/-! ## Receiving (R582, R583, R451) -/

/-- The partner's acknowledgement frees the replay buffer up to a seq. -/
def BryPort.acked (x : BryPort) (a : Nat) : BryPort :=
  if x.replay.any (fun e => e.1 == a) then
    { x with replay := (x.replay.dropWhile (fun e => e.1 != a)).drop 1, naks := 0, lastNak := none, sessFails := 0 }
  else x

/-- A port begins to retrain (R583, R451). -/
def State.retrain (s : State) (p : Nat) : State :=
  let x := s.bryPort p
  let enc := s.get F.SEC_LINK_STATUS_state p == V.SEC_LINK_STATUS_state_ENCRYPTED
  let s := s.setBryPort p { x with retrains := x.retrains ++ [s.now], naks := 0, lastNak := none }
  let s := s.when enc (fun s => s.setSession p V.SEC_LINK_STATUS_state_NEGOTIATING 0)
  s.setPort p Bry.RETRAINING V.BRY_PORT_STATUS_cause_NONE

/-- A flit fails its check (R583, R451): it is counted and discarded, and NAK names the seq to replay from. -/
def State.flitBad (s : State) (f : FlitArg) : State :=
  let p := f.port.toNat
  let s := s.cnt F.BRY_CRC_ERRORS_value 1 p
  let s := s.when (f.check == 2) (fun s => s.cnt F.SEC_LINK_TAG_FAIL_value 1 p)
  s.sendFlit p Flit.NAK s.device [((s.bryPort p).ack + 1) % 4096]

/-- Receive a flit: a port that is not UP takes none; a bad one is discarded; a sequenced one acts where its seq is the
next in order (R582, R583). -/
def State.rxFlit (s : State) (f : FlitArg) (sequenced : Bool) (effect : State → State) : State :=
  let p := f.port.toNat
  if s.dead || !s.portUp p then s
  else if f.check ≠ 0 then s.flitBad f
  else
    let x := (s.bryPort p).acked f.ack.toNat
    if !sequenced then effect (s.setBryPort p x)
    else if f.seq.toNat = (x.ack + 1) % 4096 then effect (s.setBryPort p { x with ack := f.seq.toNat })
    else s.setBryPort p x

/-- FLIT_IDLE (R582): nothing but its acknowledgement. -/
def execFlitIdle (f : FlitArg) (s : State) : Host.Outcome State Fault Refusal := .next (s.rxFlit f false id)

/-- FLIT_NOC (R582, R584, R591, R592): one NoC flit of a packet from device `origin` to device `dest`; `source` is a
token's source number on its device. A flit for another device passes to the opposite port; where that is not UP, a
request is answered ERROR (R585). -/
def execFlitNoc (f : FlitArg) (origin dest : BitVec 3) (vc : BitVec 2) (data : BitVec 512) (source : BitVec 16) (s : State) :
    Host.Outcome State Fault Refusal :=
  let p := f.port.toNat
  .next (s.rxFlit f true (fun s =>
    let x := s.bryPort p
    let key := 64 * origin.toNat + 8 * dest.toNat + vc.toNat
    let l := Tbl.get [] x.asm key ++ [data.toNat]
    let whole := decide ((packetOf l).count + 1 ≤ l.length)
    let s := s.setBryPort p { x with asm := Tbl.set [] key (if whole then [] else l) x.asm }
    if dest.toNat ≠ s.device then
      if s.portUp (across p) then
        s.sendFlit (across p) Flit.NOC origin.toNat [dest.toNat, b2n (l.length == 1), data.toNat]
      else if whole then s.answerThrough p origin.toNat (fun s => s.respond (packetOf l) 3)
      else s
    else if whole then s.ringDeliver p origin.toNat source.toNat l
    else s)).flushTrace

/-- FLIT_NAK (R583, R451): the sender replays from `from'`; a flit or group that fails again and again makes the port
retrain, and the third failed session in a row ends the link. -/
def execFlitNak (f : FlitArg) (from' : BitVec 12) (s : State) : Host.Outcome State Fault Refusal :=
  let p := f.port.toNat
  .next (s.rxFlit f false (fun s =>
    let x := s.bryPort p
    let enc := s.get F.SEC_LINK_STATUS_state p == V.SEC_LINK_STATUS_state_ENCRYPTED
    let n := if x.lastNak = some from'.toNat then x.naks + 1 else 1
    let s := s.setBryPort p { x with lastNak := some from'.toNat, naks := n }
    if (if enc then 3 else 4) ≤ n then
      let fails := x.sessFails + 1
      let s := s.when enc (fun s => s.setBryPort p { s.bryPort p with sessFails := fails })
      if enc && decide (3 ≤ fails) then
        let s := (s.bryDown p).setPort p Bry.FAILED V.BRY_PORT_STATUS_cause_KEY
        let s := (s.setSession p V.SEC_LINK_STATUS_state_FAILED V.SEC_LINK_STATUS_cause_KEY_MISMATCH).ev
          F.SEC_EVENTS_link_key_mismatch
        s.ringState s.bry.farDown (s.get F.BRY_RING_STATUS_reachable)
      else (s.retrain p).ringState s.bry.farDown (s.get F.BRY_RING_STATUS_reachable)
    else
      let s := s.cnt F.BRY_REPLAYS_value 1 p
      s.each (x.replay.dropWhile (fun e => e.1 != from'.toNat)) (fun s e => s.send (.flit p e.2.1 e.2.2.1 e.1 e.2.2.2))))

/-- FLIT_TRAIN (R581, R582): the partner trains: a port that is DOWN begins training, one that is UP retrains with it. -/
def execFlitTrain (f : FlitArg) (s : State) : Host.Outcome State Fault Refusal :=
  let p := f.port.toNat
  let st := s.get F.BRY_PORT_STATUS_state p
  let again := fun (s : State) => s.ringState s.bry.farDown (s.get F.BRY_RING_STATUS_reachable)
  if s.dead || !s.portUsed p || !s.domOn (domBry p) then .next s
  else if f.check ≠ 0 then .next (if st = Bry.UP then s.flitBad f else s)
  else if st = Bry.DOWN then .next (again (s.setPort p Bry.TRAINING V.BRY_PORT_STATUS_cause_NONE))
  else if st = Bry.UP then .next (again (s.retrain p))
  else .next s

/-- BRY_RETRAIN_DONE (R583, R451): the port is UP again, in a new session where it encrypts, and replays what is not
acknowledged; three retrains within 1 ms leave it FAILED. -/
def execBryRetrainDone (port : BitVec 2) (s : State) : Host.Outcome State Fault Refusal :=
  let p := port.toNat
  if s.get F.BRY_PORT_STATUS_state p ≠ Bry.RETRAINING then .next s
  else
    let x := s.bryPort p
    let recent := x.retrains.filter (fun t => decide (s.now < t + 64000000))
    let s := s.setBryPort p { x with retrains := recent }
    let s :=
      if 3 ≤ recent.length then
        ((s.bryDown p).setPort p Bry.FAILED V.BRY_PORT_STATUS_cause_RETRY_LIMIT).setSession p V.SEC_LINK_STATUS_state_DOWN 0
      else
        let s := ((s.setPort p Bry.UP 0).ev F.BRY_PORT_EVENTS_up p).ev F.BRY_PORT_EVENTS_retrained p
        let s := s.when (s.encrypts p) (fun s =>
          (s.setSession p V.SEC_LINK_STATUS_state_ENCRYPTED 0).cnt F.SEC_LINK_STATUS_sessions 1 p)
        s.each x.replay (fun s e => s.send (.flit p e.2.1 e.2.2.1 e.1 e.2.2.2))
    .next (s.ringState s.bry.farDown (s.get F.BRY_RING_STATUS_reachable))

/-- LINK_SESSION_ROLLOVER (R451): after 2^32 groups the link retrains into a new session. -/
def execLinkSessionRollover (port : BitVec 2) (s : State) : Host.Outcome State Fault Refusal :=
  let p := port.toNat
  if s.portUp p ∧ s.get F.SEC_LINK_STATUS_state p = V.SEC_LINK_STATUS_state_ENCRYPTED then
    .next ((s.retrain p).ringState s.bry.farDown (s.get F.BRY_RING_STATUS_reachable))
  else .next s

/-! ## Timebase alignment (R587, R588) -/

/-- A quotient of integers: where it is not whole, which neighbour of it is taken the spec leaves open (log entry 3). -/
def State.quot (s : State) (a b : Int) : Int × State :=
  if a % b = 0 then (a / b, s)
  else
    let (f, s) := s.fresh
    (a / b + (f % 2 : Nat), s)

/-- BRY_TIME_EXCHANGE (R587): every 10 µs the east end of each link sends a TIME flit with t1. -/
def execBryTimeExchange (s : State) : Host.Outcome State Fault Refusal :=
  .next (s.each [0, 2] (fun s p =>
    if s.portUp p then
      (s.setBryPort p { s.bryPort p with t1 := s.now }).sendFlit p Flit.TIME s.device [s.now]
    else s))

/-- The state of alignment from the mean offset (R588): ALIGNED within one tick, steering at 50 ppm until it is within
1 LSB. -/
def State.steer (s : State) (o : Int) : State :=
  let s := s.setSync (if o.natAbs ≤ 8 then V.BRY_SYNC_STATUS_state_ALIGNED else V.BRY_SYNC_STATUS_state_ALIGNING)
  let v : Int := if o.natAbs ≤ 1 then 0 else if o < 0 then 5000 else -5000
  s.put F.BRY_SYNC_STATUS_steer (wrapInt 16 v)

/-- An offset of this device from its upstream neighbour (R587, R588): the mean of the last 1,024; at formation, a member
with nothing active or scheduled sets its timebase at once. -/
def State.offset (s : State) (o : Int) : State :=
  let l := s.bry.offsets ++ [o]
  let l := l.drop (l.length - 1024)
  let (mean, s) := s.quot (l.foldl (· + ·) 0) (l.length : Int)
  let s := ({ s with bry := { s.bry with offsets := l } }).put F.BRY_OFFSET_value (wrapInt 32 (satInt 32 mean))
  if s.bry.settle && decide (8 < mean.natAbs) && !s.anyActive && !s.scheduled then
    let t : Int := (s.now : Int) - mean
    let s := { s with bry := { s.bry with settle := false, offsets := [] } }
    ((s.setTime (t.toNat % 2 ^ 64 / 8 * 8) 1).setSync V.BRY_SYNC_STATUS_state_ALIGNING)
  else ({ s with bry := { s.bry with settle := false } }).steer mean

/-- FLIT_TIME (R587, R588): at the west end of a link (ports 1 and 3) t1 arrives at t2 and the reply leaves at t3, `d` being
the link's delay as its east end finds it; at the east end t2 and t3 arrive at t4 and give the delay. -/
def execFlitTime (f : FlitArg) (t1 t2 t3 t4 : BitVec 64) (d : BitVec 16) (s : State) : Host.Outcome State Fault Refusal :=
  let p := f.port.toNat
  .next (s.rxFlit f true (fun s =>
    let up := s.role == V.BRY_RING_CFG_role_MEMBER && s.on F.CLK_STATUS_ring_member && s.bry.upstream == p
    let i := fun (x : BitVec 64) => (x.toNat : Int)
    if p % 2 = 1 then
      let s := s.sendFlit p Flit.TIME s.device [t2.toNat, t3.toNat]
      let s := s.put F.BRY_DELAY_value d.toNat p
      s.when up (fun s => s.offset (i t2 - i t1 - d.toInt))
    else
      let a : Int := ((s.bryPort p).t1 : Int)
      let (h, s) := s.quot ((i t4 - a) - (i t3 - i t2)) 2
      let dd := h + sext 16 (s.get F.BRY_PORT_ASYM_value p)
      let s := s.put F.BRY_DELAY_value (wrapInt 16 dd) p
      s.when up (fun s => s.offset (a + dd - i t2))))

/-! ## Ring-wide flits (R585, R589, R590, R674) -/

/-- A copy of a ring-wide flit arrives: it goes on round the ring until it would return to its origin; the first copy of
an origin and number acts, a second that differs is a copy that differs (R585, R605). -/
def State.ringFlit (s : State) (p kind origin number : Nat) (payload : List Nat) (act : State → State) : State :=
  if origin = s.device then s
  else
    let q := across p
    let s := s.when (s.portUp q && s.neighbour q != origin) (fun s => s.sendFlit q kind origin (number :: payload))
    match s.bry.seen.find? (fun e => e.1 == origin && e.2.1 == number) with
    | some e => if e.2.2 = payload then s else s.copyDiffer 5 origin number
    | none => act { s with bry := { s.bry with seen := s.bry.seen ++ [(origin, number, payload)] } }

/-- FLIT_LINE (R590): an event with time `e` on a ring line takes effect at e + line_delay, or on arrival when that is past;
one for a line not in LINE_SPAN is discarded. -/
def execFlitLine (f : FlitArg) (origin : BitVec 3) (number : Word) (line : BitVec 5) (e : BitVec 64) (s : State) :
    Host.Outcome State Fault Refusal :=
  .next (s.rxFlit f true (fun s =>
    s.ringFlit f.port.toNat Flit.LINE origin.toNat number.toNat [line.toNat, e.toNat] (fun s =>
      let late := fun (s : State) => (s.cnt F.BRY_LINE_LATE_value).ev F.BRY_RING_EVENTS_line_late
      let t := e.toNat + 64 * s.get F.BRY_LINE_DELAY_value
      if !s.ringLine line.toNat then late s
      else if t < s.now then (late s).lineAt line.toNat s.now
      else s.lineAt line.toNat t)))

/-- A timebase operation of the master reaches a member (R589): it waits for its tick, or applies on receipt when that is
past. -/
def State.timeReceive (s : State) (step : Bool) (value : BitVec 64) (t : Nat) : State :=
  let r : TimeReq := { step := step, value := value, at? := some (BitVec.ofNat 64 t) }
  if s.now ≤ t then { s with clk := { s.clk with pending := some r } }
  else match r.target s.now with
    | none => s
    | some x => (s.setTime x (if step then 2 else 1)).setSync V.BRY_SYNC_STATUS_state_ALIGNING

/-- FLIT_BCAST (R582, R589, R674): a ring-wide command: 0 SET, 1 STEP with its tick, 2 a foliation of time `t` and number
`value`. -/
def execFlitBcast (f : FlitArg) (origin : BitVec 3) (number : Word) (op : BitVec 2) (value t : BitVec 64) (s : State) :
    Host.Outcome State Fault Refusal :=
  let payload := if op = 2 then [2, t.toNat, value.toNat] else [op.toNat, value.toNat, t.toNat]
  .next (s.rxFlit f true (fun s =>
    s.ringFlit f.port.toNat Flit.BCAST origin.toNat number.toNat payload (fun s =>
      if op.toNat < 2 then s.timeReceive (op == 1) value t.toNat
      else if op = 2 then s.folReceive t.toNat value.toNat
      else s)))

/-! ## Hosted members (R593, R598) -/

/-- FLIT_TUNNEL (R593): host traffic of a hosted member on its way to the master, which issues it unchanged under PF0's
requester ID: a write of `bytes` (an MSI-X message is one too) or a read of `length` bytes. What travels to the member is
the answer to its own request. -/
def execFlitTunnel (f : FlitArg) (origin dest : BitVec 3) (write : Bool) (addr : BitVec 64) (length : BitVec 16)
    (bytes : List (BitVec 8)) (s : State) : Host.Outcome State Fault Refusal :=
  let p := f.port.toNat
  .next (s.rxFlit f true (fun s =>
    let l := bytes.map BitVec.toNat
    if dest.toNat ≠ s.device then
      s.when (s.portUp (across p)) (fun s =>
        s.sendFlit (across p) Flit.TUNNEL origin.toNat (dest.toNat :: b2n write :: addr.toNat :: length.toNat :: l))
    else if s.role ≠ V.BRY_RING_CFG_role_MASTER then s
    else if write then s.hostWrite 0 addr.toNat l
    else s.sendHost 0 (.hostRead 0 addr.toNat length.toNat)))

/-- A remote access ends (R593, R598). -/
def State.rmtEnd (s : State) (result : Nat) : State :=
  let s := { s with bry := { s.bry with rmt := false } }
  ((s.put F.BRY_RMT_CTRL_go 0).put F.BRY_RMT_CTRL_result result).ev F.BRY_RING_EVENTS_rmt_done

/-- A remote access that cannot be made (R593): by a device that is no master, or to one that is not reachable. -/
def State.rmtRefused (s : State) (dev : Nat) : Bool :=
  s.role != V.BRY_RING_CFG_role_MASTER || dev == s.device || !bit (s.get F.BRY_RING_STATUS_reachable) dev

/-- A write of BRY.RMT_CTRL (R593, R598): refused at once on a device that is no master, or for a device that is not
reachable. -/
def State.writeRmtCtrl (s : State) (p : Path) (v : Word) : State × Nat :=
  s.guardWrite p Reg.BRY_RMT_CTRL 0 0 0 v false (fun s =>
    if s.bry.rmt && bit v.toNat 31 then (s, St.OK)
    else
      let s := s.applyWrite p Reg.BRY_RMT_CTRL 0 0 0 v
      if !s.on F.BRY_RMT_CTRL_go || s.bry.rmt then (s, St.OK)
      else
        let s := { s with bry := { s.bry with rmt := true } }
        (s.when (s.rmtRefused (s.get F.BRY_RMT_CTRL_device)) (fun s => s.rmtEnd V.BRY_RMT_CTRL_result_REFUSED), St.OK))

/-- RMT_ACCESS (R593): a write of BRY.RMT_CTRL with go set. -/
def execRmtAccess (p : Path) (v : Word) (s : State) : Host.Outcome State Fault Refusal :=
  .next (s.writeRmtCtrl p (v ||| 0x80000000#32)).1

/-- RMT_ACCESS_END (R598): the access under way ends OK with the data read, REFUSED (the device is not hosted), or TIMEOUT.
-/
def execRmtAccessEnd (result : BitVec 2) (data : Word) (s : State) : Host.Outcome State Fault Refusal :=
  if !s.bry.rmt || result == 3 then .next s
  else
    let s := s.when (result == 0 && !s.on F.BRY_RMT_CTRL_write) (fun s => s.setWord Reg.BRY_RMT_DATA data)
    .next (s.rmtEnd result.toNat)

/-- A write of BRY.RING_CFG (R580, R596): kept in the colophon store for the next start. -/
def State.writeRingCfg (s : State) (p : Path) (v : Word) : State × Nat :=
  let x := v.toNat
  let role := bits x 31 30
  let size := bits x 27 24
  let dev := bits x 23 21
  let bad := (bit x 29 && role != 2) || decide (size < 2) || decide (8 < size) || (role == 1 && dev != 0) ||
    (role == 2 && (dev == 0 || decide (size ≤ dev)))
  s.guardWrite p Reg.BRY_RING_CFG 0 0 0 v bad (fun s =>
    let s := s.applyWrite p Reg.BRY_RING_CFG 0 0 0 v
    ({ s with colo := { s.colo with ringCfg := some (s.word Reg.BRY_RING_CFG) } }, St.OK))

end Sys2Proof.Machine
end

