-- ==== Sys2Proof/Machine/Fabric.lean ====
section
/-! DEFINITION. Machine/Fabric.lean: the fabric's cells, slices and memories (spec/05, R120 to R149), its sections,
their loading, release and stop, the endpaper cells and the regional clocks (spec/06, R150 to R168). -/
namespace Sys2Proof.Machine

abbrev Sec.EMPTY : Nat := 0
abbrev Sec.CLEARING : Nat := 1
abbrev Sec.LOADING : Nat := 2
abbrev Sec.LOADED : Nat := 3
abbrev Sec.RELEASING : Nat := 4
abbrev Sec.STOPPING : Nat := 6

/-- The state of a section (R151). -/
def State.sect (s : State) (n : Nat) : Nat := s.get F.FAB_SECT_STATUS_state n

/-- The holder of a section. -/
def State.sectHolder (s : State) (n : Nat) : Nat := s.get F.FAB_SECT_STATUS_holder n

/-! ## Endpaper cells (R150, R159) -/

/-- The neighbour of a section on a side (0 north, 1 east, 2 south, 3 west). -/
def beside (n side : Nat) : Option Nat :=
  match side with
  | 0 => if 16 ≤ n then some (n - 16) else none
  | 1 => if n % 16 < 15 then some (n + 1) else none
  | 2 => if n < 240 then some (n + 16) else none
  | _ => if 0 < n % 16 then some (n - 1) else none

/-- The endpaper cells of a side are in PASS (R159). -/
def State.pass (s : State) (n side : Nat) : Bool :=
  match beside n side with
  | none => false
  | some m => s.sect n == Sec.RUNNING && s.sect m == Sec.RUNNING && s.sectHolder n == s.sectHolder m &&
      s.domOn (domSection n) && s.domOn (domSection m)

/-- Set the sides of a section and of its neighbours as R159 has them. -/
def State.endpaper (s : State) (n : Nat) : State :=
  s.each (n :: (upTo 4).filterMap (fun k => beside n k)) (fun s m =>
    s.put F.FAB_SECT_STATUS_ep_live (((upTo 4).map (fun k => b2n (s.pass m k) * 2 ^ k)).sum) m)

/-- Set a sects state. -/
def State.setSect (s : State) (n st : Nat) : State := (s.put F.FAB_SECT_STATUS_state st n).endpaper n

/-- A descriptor waits for a section. -/
def State.sectWait (s : State) (n : Nat) (d : Option Desc) : State :=
  { s with fab := { s.fab with waits := Tbl.set none n d s.fab.waits } }

/-- The descriptor that waits for a section completes. -/
def State.sectWake (s : State) (n status : Nat) : State :=
  match Tbl.get none s.fab.waits n with
  | some d => (s.sectWait n none).complete d status 0
  | none => s

/-! ## Contents of a section -/

/-- The entries of a table outside a section, whose keys are `k` to a section. -/
def outside {α : Type} (k n : Nat) (t : Tbl α) : Tbl α := t.filter (fun p => p.1 / k != n)

/-- The entries inside it. -/
def inside {α : Type} (k n : Nat) (t : Tbl α) : Tbl α := t.filter (fun p => p.1 / k == n)

/-- Put a sects flip-flops, storage bits and slices at their initial values (R151, R160). -/
def State.sectInit (s : State) (n : Nat) : State :=
  let cells := inside 65536 n s.fab.cells
  { s with fab := { s.fab with
      ff := cells.foldl (fun a p => Tbl.set false p.1 p.2.init a) (outside 65536 n s.fab.ff),
      shift := cells.foldl (fun a p => Tbl.set 0 p.1 p.2.bits.toNat a) (outside 65536 n s.fab.shift),
      slice := outside 32 n s.fab.slice } }

/-- Put the flip-flops and slices of a section into reset, keeping its storage bits and memories (R158). -/
def State.sectReset (s : State) (n : Nat) : State :=
  let cells := inside 65536 n s.fab.cells
  { s with fab := { s.fab with
      ff := cells.foldl (fun a p => Tbl.set false p.1 p.2.init a) (outside 65536 n s.fab.ff),
      slice := outside 32 n s.fab.slice } }

/-- Blank a section (R156). -/
def State.sectBlank (s : State) (n : Nat) : State :=
  { s with fab := { s.fab with
      cells := outside 65536 n s.fab.cells, ff := outside 65536 n s.fab.ff, shift := outside 65536 n s.fab.shift,
      slices := outside 32 n s.fab.slices, slice := outside 32 n s.fab.slice, ports := outside 66 n s.fab.ports,
      mem := outside (66 * 32768) n s.fab.mem, rdata := outside 132 n s.fab.rdata } }

/-- Write what an image holds for a section (R154, R155). -/
def State.sectWrite (s : State) (g : SectImage) : State :=
  let n := g.sect.toNat
  let f := s.fab
  let s := { s with fab := { f with
    cells := g.cells.foldl (fun (a : Tbl CellCfg) (p : BitVec 16 × CellCfg) => Tbl.set {} (65536 * n + p.1.toNat) p.2 a) f.cells,
    slices := g.slices.foldl (fun (a : Tbl SliceCfg) (p : BitVec 5 × SliceCfg) => Tbl.set {} (32 * n + p.1.toNat) p.2 a) f.slices,
    ports := g.ports.foldl (fun (a : Tbl (Nat × Nat)) (p : BitVec 7 × BitVec 2 × BitVec 2) => Tbl.set (0, 0) (66 * n + p.1.toNat) (p.2.1.toNat, p.2.2.toNat) a) f.ports,
    mem := g.words.foldl (fun (a : Tbl Nat) (p : BitVec 7 × BitVec 15 × BitVec 40) => Tbl.set 0 (32768 * (66 * n + p.1.toNat) + p.2.1.toNat) p.2.2.toNat a) f.mem } }
  let s := s.each g.rclk (fun s p => s.setWord Reg.FAB_RCLK_CTRL p.2 n p.1.toNat)
  s.sectInit n

/-- A section begins to be cleared (R156): its ports close, its borders clamp, its tasks are handed back (R477). -/
def State.sectClear (s : State) (n : Nat) : State :=
  let s := s.each (upTo 4) (fun s k => s.loseTasks (portSource n k) 1)
  s.setSect n Sec.CLEARING

/-- Sections change holder once all are clear (R153, R163). -/
def State.sectMoved (s : State) (m : SectMove) : State :=
  let ns := (upTo m.count).map (fun i => m.first + i)
  let s := s.each ns (fun s n =>
    let s := s.put F.FAB_SECT_STATUS_holder m.holder n
    let s := s.setWord Reg.FAB_SECT_CTRL (Reg.FAB_SECT_CTRL.reset n 0 0) n
    let s := s.each (upTo 16) (fun s k => s.setWord Reg.FAB_RCLK_CTRL (Reg.FAB_RCLK_CTRL.reset n k 0) n k)
    s.endpaper n)
  match m.desc with
  | some d => s.ok d m.count
  | none => s

/-- Finish every move whose sections are all EMPTY. -/
def State.sectMoves (s : State) : State :=
  let ready := fun (m : SectMove) => (upTo m.count).all (fun i => s.sect (m.first + i) == Sec.EMPTY)
  let go := s.fab.moves.filter ready
  let s := { s with fab := { s.fab with moves := s.fab.moves.filter (fun m => !ready m) } }
  s.each go (fun s m => s.sectMoved m)

/-! ## Loading (R152 to R156) -/

/-- The checks of a descriptor that names a section of the submitter. -/
def State.sectChecks (s : State) (d : Desc) (n : Nat) : List (Bool × Nat) :=
  [(s.sectHolder n != d.tenant.toNat, St.REFUSED_NOT_OWNER), (!s.domOn (domSection n), St.REFUSED_POWER)]

/-- The section an index of a section_map names after relocation: none off the grid (R150). -/
def relocate (row col : Int) (n : Nat) : Option Nat :=
  let r := (n / 16 : Int) + row
  let c := (n % 16 : Int) + col
  if 0 ≤ r ∧ r < 16 ∧ 0 ≤ c ∧ c < 16 then some (16 * r.toNat + c.toNat) else none

/-- FABRIC_LOAD (R153, R155): `map` is the section_map of the image's header. -/
def execFabricLoad (d : Desc) (length : Word) (row col : BitVec 8) (auto : Bool) (map : BitVec 256) (s : State) :
    Host.Outcome State Fault Refusal :=
  let r := sext 8 row.toNat
  let c := sext 8 col.toNat
  let all := (bitsOf 256 map.toNat).map (relocate r c)
  let ns := all.filterMap id
  .next (s.descriptor d false false
    [(ns.any (fun n => s.sectHolder n != d.tenant.toNat), St.REFUSED_NOT_OWNER),
     (decide (r < -15) || decide (15 < r) || decide (c < -15) || decide (15 < c) || length == 0 ||
       all.any (fun x => x.isNone), St.BAD_ARGUMENT),
     (ns.any (fun n => !s.domOn (domSection n)), St.REFUSED_POWER),
     (ns.any (fun n => s.sect n != Sec.EMPTY && s.sect n != Sec.LOADED), St.REFUSED_BUSY)]
    (fun s =>
      if d.readFail then s.readFailed d
      else
        let s := s.each ns (fun s n => s.sectClear n)
        let l : FabLoad := { desc := d, sections := ns, auto := auto }
        { s with fab := { s.fab with loads := s.fab.loads ++ [l] } }))

/-- FABRIC_LOAD_ENGINE_START (R155): the configuration engine, free, takes the first load accepted. -/
def execFabricLoadEngineStart (s : State) : Host.Outcome State Fault Refusal :=
  match s.fab.loads with
  | [] => .next s
  | l :: r => .next { s with fab := { s.fab with loads := { l with engine := true } :: r } }

/-- A load's outcome: 0 passes. A cause of R96 that a check not made would give (R155, step 2) is none. -/
def State.loadCause (s : State) (l : FabLoad) (cause : Nat) : Nat :=
  let signed := l.sections.any (fun n => s.on F.FAB_SECT_CTRL_require_signed n)
  if cause = 0x11 ∨ (!signed ∧ (cause = 0x0E ∨ cause = 0x0F)) then 0 else cause

/-- A section begins its staged release (R157). -/
def State.sectRelease (s : State) (n : Nat) : State := (s.sectInit n).setSect n Sec.RELEASING

/-- FABRIC_LOAD_DONE (R152, R155): the load that has the engine ends with a cause of R96 (0 passed); `image` is what it
wrote. -/
def execFabricLoadDone (cause : BitVec 8) (image : List SectImage) (s : State) : Host.Outcome State Fault Refusal :=
  match s.fab.loads with
  | [] => .next s
  | l :: r =>
    if !l.engine || l.sections.any (fun n => s.sect n != Sec.LOADING) then .next s
    else
      let c := s.loadCause l cause.toNat
      let s := { s with fab := { s.fab with loads := r } }
      if c = 0 then
        let s := s.each (image.filter (fun g => l.sections.contains g.sect.toNat)) (fun s g => s.sectWrite g)
        let s := s.each l.sections (fun s n =>
          let s := (s.setSect n Sec.LOADED).ev F.FAB_SECT_EVENTS_loaded n
          if l.auto then s.sectRelease n else s)
        .next (s.ok l.desc)
      else
        let s := s.each l.sections (fun s n => (s.sectClear n).ev F.FAB_SECT_EVENTS_load_failed n)
        .next (s.complete l.desc (if c = 0x12 then St.ABORTED_FAULT else St.INTEGRITY) c)

/-- FABRIC_RELEASE (R153, R157): it completes when the section is RUNNING. -/
def execFabricRelease (d : Desc) (sec : BitVec 8) (s : State) : Host.Outcome State Fault Refusal :=
  let n := sec.toNat
  .next (s.descriptor d false false
    (s.sectChecks d n ++ [(s.sect n != Sec.LOADED, St.REFUSED_NOT_READY)])
    (fun s => (s.sectRelease n).sectWait n (some d)))

/-- FABRIC_RELEASE_DONE (R157, R159): cycle 192 of the staged release. -/
def execFabricReleaseDone (sec : BitVec 8) (s : State) : Host.Outcome State Fault Refusal :=
  let n := sec.toNat
  if s.sect n ≠ Sec.RELEASING then .next s
  else .next (((s.setSect n Sec.RUNNING).ev F.FAB_SECT_EVENTS_released n).sectWake n St.OK)

/-- A section stops (R158): its ports close to new work and its borders clamp. -/
def State.sectStop (s : State) (n : Nat) : State :=
  let s := { s with swf := { s.swf with asks := s.swf.asks.filter (fun a =>
    !(decide (portSource n 0 ≤ a.source) && decide (a.source ≤ portSource n 3))) } }
  s.setSect n Sec.STOPPING

/-- FABRIC_STOP (R153, R158): it completes when the section is LOADED. -/
def execFabricStop (d : Desc) (sec : BitVec 8) (s : State) : Host.Outcome State Fault Refusal :=
  let n := sec.toNat
  .next (s.descriptor d false false
    (s.sectChecks d n ++ [(s.sect n != Sec.RUNNING, St.REFUSED_NOT_READY)])
    (fun s => (s.sectStop n).sectWait n (some d)))

/-- The wait of a stop ends (R158): tasks still held are handed back, writes are blocked, the logic goes into reset. -/
def State.sectStopped (s : State) (n : Nat) : State :=
  let s := s.each (upTo 4) (fun s k => s.loseTasks (portSource n k) 1)
  let s := (s.sectReset n).setSect n Sec.LOADED
  (s.ev F.FAB_SECT_EVENTS_stopped n).sectWake n St.OK

/-- FABRIC_STOP_DONE (R158). -/
def execFabricStopDone (sec : BitVec 8) (s : State) : Host.Outcome State Fault Refusal :=
  .next (if s.sect sec.toNat = Sec.STOPPING then s.sectStopped sec.toNat else s)

/-- FABRIC_CLEAR (R152, R153): it completes when the section is EMPTY. -/
def execFabricClear (d : Desc) (sec : BitVec 8) (s : State) : Host.Outcome State Fault Refusal :=
  let n := sec.toNat
  .next (s.descriptor d false false
    (s.sectChecks d n ++
     [(s.sect n != Sec.LOADED && s.sect n != Sec.EMPTY, St.REFUSED_BUSY)])
    (fun s => if s.sect n = Sec.EMPTY then s.ok d else (s.sectClear n).sectWait n (some d)))

/-! ## Logic cells and slices (R120 to R137) -/

/-- The carry into a cell (R124). -/
def cellCin (g : CellCfg) (x : CellIn) : Bool :=
  match g.carry.toNat with
  | 0 => false
  | 1 => true
  | 2 => x.i.getLsbD 3
  | _ => x.cin

/-- The O output of a cell (R121, R123, R124), its storage bits before the edge. -/
def cellOut (g : CellCfg) (bits : Nat) (x : CellIn) : Bool :=
  match g.mode.toNat with
  | 1 => (g.lut.getLsbD (8 + x.i.toNat % 8)) != cellCin g x
  | 2 => bits.testBit x.i.toNat
  | _ => g.lut.getLsbD x.i.toNat

/-- The flip-flop after an edge, or under an asynchronous SR (R122). -/
def cellNext (g : CellCfg) (q : Bool) (bits : Nat) (dx : Bool) (x : CellIn) : Bool :=
  if x.sr then g.srValue
  else if !x.ce then q
  else if g.viaDx then dx else cellOut g bits x

/-- The result of a slice's accumulator (R134): the value kept and whether the range was left. -/
def accLimit (saturate : Bool) (v : Int) : Int × Bool :=
  let overrun := decide (v < -(2 ^ 39)) || decide (2 ^ 39 - 1 < v)
  (if saturate then satInt 40 v else sext 40 (wrapInt 40 v), overrun)

/-- T of an accumulator (R135). -/
def sliceTrunc (g : SliceCfg) (acc : Int) : Nat :=
  let k := g.shift.toNat
  let q := acc / (2 ^ k : Int)
  let r := acc % (2 ^ k : Int)
  let half := (2 ^ k : Int)
  let up := match g.round.toNat with
    | 1 => decide (half ≤ 2 * r) && decide (0 < k)
    | 2 => decide (0 < k) && (decide (half < 2 * r) || (decide (half = 2 * r) && q % 2 == 1))
    | _ => false
  let v := if up then q + 1 else q
  if !g.clamp then wrapInt 16 v
  else if !g.aSigned && !g.bSigned then (if v < 0 then 0 else if 65535 < v then 65535 else v.toNat)
  else wrapInt 16 (satInt 16 v)

/-- An operand of a slice, signed or not. -/
def sliceOperand (signed : Bool) (v : Nat) : Int := if signed then sext 16 v else ((v % 65536 : Nat) : Int)

/-- A slice after an edge (R131 to R137): `ci` is the accumulator of the slice before it, before the edge. -/
def sliceNext (g : SliceCfg) (z : SliceSt) (ci : Int) (x : SliceIn) : SliceSt :=
  let regs : SliceSt := { z with a := x.a.toNat, b := x.b.toNat, c := x.c.toNat, op := x.op.toNat, ce := x.ce }
  if g.mode.toNat = 4 then
    if x.rst then { regs with acc := 0, ovf := false }
    else if !z.ce then regs
    else
      let s0 := (z.a + z.c) % 65536
      let s1 := (z.b + z.c / 65536) % 65536
      let diff := sext 16 (s1 + 65536 - s0)
      let one := if g.max then decide (0 < diff) else decide (diff < 0)
      { regs with t := if one then s1 else s0, dec := one, acc := ((if one then s0 else s1 : Nat) : Int) }
  else
    let prod := sliceOperand g.aSigned z.a * sliceOperand g.bSigned z.b
    let c := sext 40 z.c
    let stage : SliceSt := { regs with x := if g.mode.toNat = 2 then c else prod, cx := z.c }
    if x.rst then { stage with acc := 0, ovf := false }
    else if !z.ce then stage
    else
      let xx := match g.mode.toNat with
        | 1 => -z.x
        | 3 => z.x + ci
        | _ => z.x
      let target := match z.op with
        | 0 => some (z.acc + xx)
        | 1 => some (if g.mode.toNat = 2 then xx else sext 40 z.cx + xx)
        | 2 => none
        | _ => some xx
      match target with
      | none => stage
      | some v =>
        let (acc, overrun) := accLimit g.saturate v
        { stage with acc := acc, ovf := z.ovf || overrun, t := sliceTrunc g acc }

/-- The logic of a section runs: RUNNING or STOPPING, its domain ON, not halted (R151, R158). -/
def State.sectRuns (s : State) (n : Nat) : Bool :=
  (s.sect n == Sec.RUNNING || s.sect n == Sec.STOPPING) && s.domOn (domSection n) && !s.haltedBy 1 n

/-- FABRIC_CLOCK_EDGE (R120 to R124, R131 to R137): an active edge of a regional clock of a section, with the inputs that
reach the cells and slices it clocks. A cell linked to the one before takes its DX from that cell's bit 15. An asynchronous
SR acts on every cell named, whatever its clock (R122). -/
def execFabricClockEdge (sec : BitVec 8) (clock : BitVec 4) (falling : Bool) (cells : List (BitVec 16 × CellIn))
    (slices : List (BitVec 5 × SliceIn)) (s : State) : Host.Outcome State Fault Refusal :=
  let n := sec.toNat
  if !s.sectRuns n then .next s
  else
    let runs := s.on F.FAB_RCLK_CTRL_enable n clock.toNat
    let f := s.fab
    let f1 := cells.foldl (fun (a : FabSt) p =>
      let k := 65536 * n + p.1.toNat
      let g := Tbl.get {} f.cells k
      let edge := runs && g.clock == clock && g.falling == falling
      if !edge && !(g.srAsync && p.2.sr) then a
      else
        let bits := Tbl.get 0 f.shift k
        let dx := if g.link then (Tbl.get 0 f.shift (k - 1)).testBit 15 else p.2.dx
        let shifted := if edge && g.mode == 2 && p.2.ce then (2 * bits + b2n dx) % 65536 else bits
        { a with ff := Tbl.set false k (cellNext g (Tbl.get false f.ff k) bits dx p.2) a.ff,
                 shift := Tbl.set 0 k shifted a.shift }) f
    let f2 := slices.foldl (fun (a : FabSt) p =>
      let k := 32 * n + p.1.toNat
      let g := Tbl.get {} f.slices k
      if !runs || g.clock != clock then a
      else
        let ci := if p.1.toNat = 0 then 0 else (Tbl.get {} f.slice (k - 1)).acc
        { a with slice := Tbl.set {} k (sliceNext g (Tbl.get {} f.slice k) ci p.2) a.slice }) f1
    .next { s with fab := f2 }

/-! ## Block memories and deep banks (R138 to R149) -/

/-- The key of a memory word, and whether the word exists. -/
def memKey (n m a : Nat) : Nat := 32768 * (66 * n + m) + a

/-- The memory index and address name a word (R145, R148). -/
def memWord (m a : Nat) : Bool := decide (m < 64) && decide (a < 1024) || (m == 64 || m == 65)

/-- A memory's data bits and flipped bits at a word. -/
def State.memAt (s : State) (k : Nat) : Nat × Nat :=
  let v := Tbl.get 0 s.fab.mem k
  (v % 2 ^ 40, v / 2 ^ 40)

/-- Store a memory word: data and flipped bits. -/
def State.setMem (s : State) (k data flips : Nat) : State :=
  { s with fab := { s.fab with mem := Tbl.set 0 k (data % 2 ^ 40 + flips % 2 ^ 47 * 2 ^ 40) s.fab.mem } }

/-- Show read data at a port, with SERR, DERR and COLL. -/
def State.setRead (s : State) (n m port data flags : Nat) : State :=
  { s with fab := { s.fab with
      rdata := Tbl.set 0 (2 * (66 * n + m) + port) (data % 2 ^ 40 + flags * 2 ^ 40) s.fab.rdata } }

/-- What SECDED finds in a word (R141): 0 clean, 1 a single error, 2 a double error; for three or more flipped bits a free
value chooses. -/
def State.secded (s : State) (flips : Nat) : Nat × State :=
  let c := popCount 47 flips
  if c ≤ 2 then (c, s)
  else
    let (v, s) := s.fresh
    (v % 3, s)

/-- Count a corrected word (R141, R142). -/
def State.memCe (s : State) (n : Nat) : State :=
  (s.cnt F.FAB_MEM_CE_COUNT_value 1 n).ev F.FAB_MEM_STATUS_ce_seen n

/-- Report a double-bit error (R141, R147). -/
def State.memUe (s : State) (n m a : Nat) (byScrub : Bool) : State :=
  let s := (s.cnt F.FAB_MEM_UE_COUNT_value 1 n).ev F.FAB_MEM_STATUS_ue_seen n
  let s := (s.put F.FAB_MEM_STATUS_last_mem m n).put F.FAB_MEM_STATUS_last_by_scrub (b2n byScrub) n
  (s.put F.FAB_MEM_STATUS_last_addr a n).log 0xB0 3 n [m, a]

/-- FABRIC_MEM_READ (R138, R141): a read at a port; `strike` are the stored bits that particles have flipped. A miscorrected
word is delivered as a free value. -/
def execFabricMemRead (sec : BitVec 8) (mem : BitVec 7) (portB : Bool) (addr : BitVec 15) (strike : BitVec 47) (s : State) :
    Host.Outcome State Fault Refusal :=
  let n := sec.toNat
  let m := mem.toNat
  let a := addr.toNat
  if !s.sectRuns n || !memWord m a then .next s
  else
    let (data, old) := s.memAt (memKey n m a)
    let flips := old ^^^ strike.toNat
    let s := s.setMem (memKey n m a) data flips
    let raw := data ^^^ (flips % 2 ^ 40)
    let (kind, s) := s.secded flips
    let many := decide (2 < popCount 47 flips)
    let port := b2n portB
    match kind with
    | 0 => .next (s.setRead n m port raw 0)
    | 1 =>
      let (v, s) := if many then s.fresh else (data, s)
      .next ((s.memCe n).setRead n m port v 1)
    | _ => .next ((s.memUe n m a false).setRead n m port raw 2)

/-- BLOCK_MEMORY_WRITE (R138 to R140, R143, R149): a word is written with fresh check bits. -/
def execBlockMemoryWrite (w : MemWrite) (s : State) : Host.Outcome State Fault Refusal :=
  let n := w.sect.toNat
  let m := w.mem.toNat
  let a := w.addr.toNat
  if !s.sectRuns n || !memWord m a then .next s
  else
    let k := memKey n m a
    let (data, flips) := s.memAt k
    let old := data ^^^ (flips % 2 ^ 40)
    let deep := decide (64 ≤ m)
    let port := b2n w.portB
    let (wins, s) :=
      if !deep && w.meet == 1 then (if w.portB then w.other.toNat else w.data.toNat, s)
      else if !deep && w.meet == 4 then
        let (v, s) := s.fresh
        (if v % 2 = 0 then w.data.toNat else w.other.toNat, s)
      else (w.data.toNat, s)
    let s := s.setMem k wins 0
    let s := s.when w.inject (fun s => (s.ev F.FAB_MEM_STATUS_inject_lost n).put F.FAB_MEM_INJECT_go 0 n)
    let coll := if !deep && w.meet == 1 then 4 else 0
    let mode := if w.portB then (Tbl.get (0, 0) s.fab.ports (66 * n + m)).2 else (Tbl.get (0, 0) s.fab.ports (66 * n + m)).1
    let prev := Tbl.get 0 s.fab.rdata (2 * (66 * n + m) + port) % 2 ^ 40
    let s := if deep then s else s.setRead n m port (match mode with | 0 => wins | 1 => old | _ => prev) coll
    let other := 1 - port
    if w.meet == 2 || (deep && w.meet == 3) then .next (s.setRead n m (if deep then port else other) old 0)
    else if w.meet == 3 then
      let (v, s) := s.fresh
      .next (s.setRead n m other (if v % 2 = 0 then old else wins) 0)
    else if coll = 4 then
      .next (s.setRead n m other (Tbl.get 0 s.fab.rdata (2 * (66 * n + m) + other) % 2 ^ 40) 4)
    else .next s

/-- MEM_SCRUB_VISIT (R142 to R144): the scrubber reads one word of every memory of a section; `strikes` are bits flipped by
particles, `dropped` the memories whose write-back a user write of the word abandons. -/
def execMemScrubVisit (sec : BitVec 8) (strikes : List (BitVec 7 × BitVec 47)) (dropped : List (BitVec 7)) (s : State) :
    Host.Outcome State Fault Refusal :=
  let n := sec.toNat
  let st := s.sect n
  if !s.on F.FAB_MEM_CTRL_scrub_enable n || !s.domOn (domSection n) || decide (st < Sec.LOADED) || decide (Sec.STOPPING < st)
  then .next s
  else
    let at' := Tbl.get 0 s.fab.scrub n
    let s := s.each (upTo 66) (fun s m =>
      let a := if m < 64 then at' % 1024 else at'
      let k := memKey n m a
      let (data, old) := s.memAt k
      let hit := match strikes.find? (fun p => p.1.toNat == m) with | some p => p.2.toNat | none => 0
      let flips := old ^^^ hit
      let s := s.setMem k data flips
      let (kind, s) := s.secded flips
      match kind with
      | 0 => s
      | 1 =>
        if dropped.any (fun x => x.toNat == m) then s
        else
          let (v, s) := if 2 < popCount 47 flips then s.fresh else (data, s)
          (s.setMem k v 0).memCe n
      | _ => s.memUe n m a true)
    .next { s with fab := { s.fab with scrub := Tbl.set 0 n ((at' + 1) % 32768) s.fab.scrub } }

/-- A write of FAB.MEM_INJECT (R148, R149); `lost` is a user write of the word at the same edge. -/
def State.writeMemInject (s : State) (p : Path) (n : Nat) (v : Word) (lost : Bool) : State × Nat :=
  let m := bits v.toNat 29 23
  let a := bits v.toNat 14 0
  let b := bits v.toNat 22 17
  s.guardWrite p Reg.FAB_MEM_INJECT n 0 0 v (!memWord m a || decide (46 < b)) (fun s =>
    let s := s.applyWrite p Reg.FAB_MEM_INJECT n 0 0 v
    if !s.on F.FAB_MEM_INJECT_go n then (s, St.OK)
    else
      let s := s.put F.FAB_MEM_INJECT_go 0 n
      if s.sectHolder n ≠ 0 then (s.ev F.FAB_MEM_STATUS_inject_refused n, St.OK)
      else if lost then (s.ev F.FAB_MEM_STATUS_inject_lost n, St.OK)
      else
        let k := memKey n m a
        let (data, flips) := s.memAt k
        let mask := 2 ^ b + (if s.on F.FAB_MEM_INJECT_double n then 2 ^ ((b + 1) % 47) else 0)
        (s.setMem k data (flips ^^^ mask), St.OK))

/-- MEM_INJECT (R149): a write of FAB.MEM_INJECT. -/
def execMemInject (p : Path) (sec : BitVec 8) (v : Word) (lost : Bool) (s : State) : Host.Outcome State Fault Refusal :=
  .next (s.writeMemInject p sec.toNat v lost).1

/-! ## Regional clocks (R161 to R168) -/

/-- The input a regional clock is set to (R161). -/
def State.rclkInput (s : State) (n k : Nat) : Nat :=
  let b := match s.get F.FAB_RCLK_CTRL_use n k with
    | 0 => false
    | 1 => true
    | _ => Tbl.get false s.fab.sel (16 * n + k)
  if b then s.get F.FAB_RCLK_CTRL_sel_b n k else s.get F.FAB_RCLK_CTRL_sel_a n k

/-- A change of the input in use, or of the divider, begins (R162): the output is low until an input change is done. -/
def State.rclkChange (s : State) (n k was div : Nat) : State :=
  let now := s.rclkInput n k
  let key := 16 * n + k
  if now = was ∧ s.get F.FAB_RCLK_CTRL_div n k = div then s
  else
    let s := s.put F.FAB_RCLK_STATUS_pending (s.get F.FAB_RCLK_STATUS_pending n ||| 2 ^ k) n
    if now = was ∨ s.fab.low.contains key then s
    else { s with fab := { s.fab with low := key :: s.fab.low } }

/-- A write of FAB.RCLK_CTRLn (R167); RCLK_SEL is sampled under the new setting. -/
def State.writeRclk (s : State) (p : Path) (n k : Nat) (v : Word) : State × Nat :=
  let was := s.rclkInput n k
  let div := s.get F.FAB_RCLK_CTRL_div n k
  s.guardWrite p Reg.FAB_RCLK_CTRL n k 0 v false (fun s =>
    ((s.applyWrite p Reg.FAB_RCLK_CTRL n k 0 v).rclkChange n k was div, St.OK))

/-- RCLK_CTRL_WRITE (R163, R167). -/
def execRclkCtrlWrite (p : Path) (sec : BitVec 8) (k : BitVec 4) (v : Word) (s : State) :
    Host.Outcome State Fault Refusal := .next (s.writeRclk p sec.toNat k.toNat v).1

/-- RCLK_SEL_CHANGE (R161, R167): the fabric signal RCLK_SEL[n] takes a level. -/
def execRclkSelChange (sec : BitVec 8) (k : BitVec 4) (level : Bool) (s : State) : Host.Outcome State Fault Refusal :=
  let n := sec.toNat
  if !s.sectRuns n then .next s
  else
    let was := s.rclkInput n k.toNat
    let div := s.get F.FAB_RCLK_CTRL_div n k.toNat
    let s := { s with fab := { s.fab with sel := Tbl.set false (16 * n + k.toNat) level s.fab.sel } }
    .next (s.rclkChange n k.toNat was div)

/-- RCLK_CHANGE_DONE (R162): a change ends at the new input's falling edge; an input held low ends none. -/
def execRclkChangeDone (sec : BitVec 8) (k : BitVec 4) (s : State) : Host.Outcome State Fault Refusal :=
  let n := sec.toNat
  let p := s.get F.FAB_RCLK_STATUS_pending n
  if !bit p k.toNat || !s.on F.CLK_GLOBAL_DIV_enable (s.rclkInput n k.toNat) then .next s
  else
    let key := 16 * n + k.toNat
    let s := s.put F.FAB_RCLK_STATUS_pending (p - 2 ^ k.toNat) n
    .next { s with fab := { s.fab with low := s.fab.low.filter (fun x => x != key) } }

/-- The regional clocks that toggle (R168). -/
def State.rclkRunning (s : State) (n : Nat) : Nat :=
  ((upTo 16).map (fun k =>
    if s.on F.FAB_RCLK_CTRL_enable n k && !s.haltedBy 1 n && !s.fab.low.contains (16 * n + k) &&
      s.on F.CLK_GLOBAL_DIV_enable (s.rclkInput n k) && s.domOn (domSection n) then 2 ^ k else 0)).sum

/-- A write of FAB.SECT_CTRL (R163, R165). -/
def State.writeSectCtrl (s : State) (p : Path) (n : Nat) (v : Word) : State × Nat :=
  s.plainWrite p Reg.FAB_SECT_CTRL n 0 0 v

end Sys2Proof.Machine
end

