-- ==== Sys2Proof/Machine/Ras.lean ====
section
/-! DEFINITION. Machine/Ras.lean: the management pair and the event log (spec/23, R603, R604, R608 to R611, R615). -/
namespace Sys2Proof.Machine

/-! ## The management pair (R603, R604) -/

/-- Management is FAILED (R601, R604). -/
def State.mgmtFails (s : State) : State :=
  let s := (s.put F.RAS_STATUS_mgmt_state V.RAS_STATUS_mgmt_state_FAILED).ev F.RAS_EVENTS_mgmt_failed
  (s.fault 8 true).log 0x71 4 0 []

/-- MGMT_MISMATCH (R603): the comparator of the pair finds a difference, and both cores stop. -/
def execMgmtMismatch (s : State) : Host.Outcome State Fault Refusal :=
  if s.get F.RAS_STATUS_mgmt_state ≠ V.RAS_STATUS_mgmt_state_PAIRED then .next s
  else .next (((s.put F.RAS_STATUS_mgmt_state V.RAS_STATUS_mgmt_state_FAILOVER).ev F.RAS_EVENTS_mgmt_failover).fault 8 false)

/-- MGMT_SELFTEST_DONE (R603): the self-tests have ended and what passed resumes from the last checkpoint. -/
def execMgmtSelftestDone (aPass bPass : Bool) (s : State) : Host.Outcome State Fault Refusal :=
  if s.get F.RAS_STATUS_mgmt_state ≠ V.RAS_STATUS_mgmt_state_FAILOVER then .next s
  else if aPass && bPass then
    .next ((s.put F.RAS_STATUS_mgmt_state V.RAS_STATUS_mgmt_state_PAIRED).log 0x70 1 0 [2])
  else if !aPass && !bPass then
    .next ({ s with ras := { s.ras with coreAFailed := true, coreBFailed := true } }).mgmtFails
  else
    let s := { s with ras := { s.ras with coreAFailed := !aPass, coreBFailed := !bPass } }
    let s := s.put F.RAS_STATUS_mgmt_state V.RAS_STATUS_mgmt_state_SINGLE
    .next ((s.put F.RAS_STATUS_mgmt_core (b2n bPass)).log 0x70 2 0 [b2n (!bPass)])

/-- MGMT_SINGLE_FAILURE (R601, R603): the one running core fails a check of its own. -/
def execMgmtSingleFailure (s : State) : Host.Outcome State Fault Refusal :=
  .next (if s.get F.RAS_STATUS_mgmt_state = V.RAS_STATUS_mgmt_state_SINGLE then s.mgmtFails else s)

/-! ## The log writer (R608, R611, R615) -/

/-- Put an entry into its slot of the colophon store (R608). -/
def State.storeEntry (s : State) (e : LogEntry) : State :=
  let s := { s with ras := { s.ras with store := Tbl.set {} (e.seq % 2 ^ 20) e s.ras.store, count := s.ras.count + 1 } }
  s.setPair Reg.RAS_LOG_NEWEST_LO Reg.RAS_LOG_NEWEST_HI e.seq

/-- Write the oldest entry of the buffer (R611), with its DEVICE ribbons (R673); the room it leaves takes the entry that
reports lost ones. -/
def State.writeLog (s : State) : State :=
  match s.ras.buffer with
  | [] => s
  | e :: r =>
    let s := ({ s with ras := { s.ras with buffer := r } }).storeEntry e
    let n := s.ras.lost
    let s := s.when (decide (0 < n)) (fun s => ({ s with ras := { s.ras with lost := 0 } }).log 0xF1 0 0 [n])
    s.logRibbon e e.seq

/-- LOG_WRITE (R611). -/
def execLogWrite (s : State) : Host.Outcome State Fault Refusal := .next s.writeLog

/-- LOG_WINDOW_CLOSE (R611): the window of a code and unit closes, 1 ms after it opened. -/
def execLogWindowClose (code unit : BitVec 16) (s : State) : Host.Outcome State Fault Refusal :=
  let mine := fun (w : LogWindow) => w.code == code.toNat && w.unit == unit.toNat
  match s.ras.windows.find? mine with
  | none => .next s
  | some w =>
    let s := { s with ras := { s.ras with windows := s.ras.windows.filter (fun w => !mine w) } }
    .next (s.when (decide (0 < w.suppressed)) (fun s =>
      (s.log 0xF0 0 w.unit [w.code, w.suppressed]).ev F.RAS_EVENTS_log_suppressed))

/-- Commit every entry of the buffer without its ribbons: in the power-loss sequence and on the way to OFF (R612, R632).
-/
def State.commitLog (s : State) : State :=
  let l := s.ras.buffer
  let s := s.each l (fun s e => s.storeEntry e)
  { s with ras := { s.ras with buffer := [] } }

/-- Commit every pending seal-slot write (R296, R612). -/
def State.commitSeals (s : State) : State :=
  let s := s.each s.cap.sealPending (fun s q =>
    { s with cap := { s.cap with seals := Tbl.set {} q { s.quire q with leaves := [] } s.cap.seals } })
  { s with cap := { s.cap with sealPending := [] } }

/-- Commit one entry posted by the sequencer itself (R610, R612). -/
def State.commitEntry (s : State) (code severity unit : Nat) (detail : List Nat) : State :=
  let e : LogEntry := { severity := severity, code := code, seq := s.ras.nextSeq, time := s.clk.timebase,
                        startSeq := s.boot.record.seq, unit := unit, detail := detail }
  ({ s with ras := { s.ras with nextSeq := s.ras.nextSeq + 1 } }).storeEntry e

/-- The bytes of a log entry (R609), as sixteen words. -/
def LogEntry.words (e : LogEntry) : List Nat :=
  let w := [0x4556 + 2 ^ 16 + e.severity * 2 ^ 24, e.code, e.seq % 2 ^ 32, e.seq / 2 ^ 32, e.time.toNat % 2 ^ 32,
    e.time.toNat / 2 ^ 32, e.startSeq % 2 ^ 32, e.unit] ++ (upTo 7).map (fun i => (e.detail[i]?).getD 0)
  w ++ [crc32 (w.flatMap (fun x => leBytes 4 x))]

/-- The log entry of a sequence number that the log holds (R608, R615). -/
def State.logAt (s : State) (q : Nat) : Option LogEntry :=
  match s.ras.store.find? (fun p => p.1 == q % 2 ^ 20) with
  | some (_, e) => if e.seq = q then some e else none
  | none => none

/-- A read of RAS.LOG_DATA0 on a path latches the entry named by LOG_INDEX for LOG_DATA1 to 15 (R615). -/
def State.readLogData (s : State) (p : Path) : State × Word :=
  let ws := match s.logAt (s.pair Reg.RAS_LOG_INDEX_LO Reg.RAS_LOG_INDEX_HI) with
    | some e => e.words
    | none => (upTo 16).map (fun _ => 0)
  let key := 512 * Reg.RAS_LOG_DATA.base + pathLatch p
  ({ s with latch := Tbl.set [] key ((ws.drop 1).map (BitVec.ofNat 32)) s.latch }, BitVec.ofNat 32 ((ws.head?).getD 0))

end Sys2Proof.Machine
end

