-- ==== Sys2Proof/Machine/Security.lean ====
section
/-! DEFINITION. Machine/Security.lean: the tenant keys, the rekey engine, pattern writes and the lock (spec/16, R425 to
R449). A key is a number; the ciphers' values are free values of their inputs (log entry 4). -/
namespace Sys2Proof.Machine

/-! ## Keys (R425 to R433) -/

/-- The check value of a key (R429). -/
def keyCheck (key : Nat) : Nat := Config.keyValue 10 key % 2 ^ 24

/-- The 40 bytes of the blob of a key under the wrap key of a slot (R430). -/
def keyBlob (t key : Nat) : List Nat := (leBytes 40 (Config.keyValue 11 (key * 256 + t))).map BitVec.toNat

/-- The key a blob unwraps to in a slot (R430). -/
def keyUnwrap (t : Nat) (blob : BitVec 320) : Nat := Config.keyValue 12 (blob.toNat * 256 + t) % 2 ^ 256

/-- The current key of a slot. -/
def State.key (s : State) (t : Nat) : Option Nat := Tbl.get none s.sec.keys t

/-- The staged key of a slot. -/
def State.stagedKey (s : State) (t : Nat) : Option Nat := Tbl.get none s.sec.staged t

/-- Replace the current key of a slot, showing its check value (R458). -/
def State.setKey (s : State) (t : Nat) (k : Option Nat) : State :=
  let s := { s with sec := { s.sec with keys := Tbl.set none t k s.sec.keys } }
  s.put F.SEC_KEY_STATUS_kcv (match k with | some k => keyCheck k | none => 0) t

/-- Replace the staged key of a slot. -/
def State.setStaged (s : State) (t : Nat) (k : Option Nat) : State :=
  let s := { s with sec := { s.sec with staged := Tbl.set none t k s.sec.staged } }
  s.put F.SEC_KEY_STATUS_staged (b2n k.isSome) t

/-- The state of a key slot (R428). -/
def State.slot (s : State) (t : Nat) : Nat := s.get F.SEC_KEY_STATUS_state t

/-- Show the engine's queue (R455). -/
def State.rekeyQueue (s : State) (q : List Nat) : State :=
  ({ s with sec := { s.sec with queue := q } }).put F.SEC_STATUS_rekey_queued (satNat 8 q.length)

/-- A slot's boundary (R445), shown while the engine works on the slot. -/
def State.setBoundary (s : State) (t b : Nat) : State :=
  let s := { s with sec := { s.sec with bounds := Tbl.set 0 t b s.sec.bounds } }
  if s.on F.SEC_STATUS_rekey_busy && s.get F.SEC_STATUS_rekey_tenant == t then
    s.setPair Reg.SEC_ACTIVE_KEY_BOUNDARY_LO Reg.SEC_ACTIVE_KEY_BOUNDARY_HI b
  else s

/-- The engine leaves a slot, and shows no work. -/
def State.rekeyIdle (s : State) (t : Nat) : State :=
  let s := s.setBoundary t 0
  if s.on F.SEC_STATUS_rekey_busy && s.get F.SEC_STATUS_rekey_tenant == t then
    ((s.put F.SEC_STATUS_rekey_busy 0).put F.SEC_REKEY_LEFT_value 0).recast
  else s

/-- A key operation that needs the random generator fails once its health tests have (R427). -/
def State.drbg (s : State) (d : Desc) (f : State → State) : State :=
  if s.on F.SEC_STATUS_drbg_ok then f s else s.refuse d St.ABORTED_FAULT

/-- KEY_GENERATE (R430, R431). -/
def execKeyGenerate (d : Desc) (s : State) : Host.Outcome State Fault Refusal :=
  let t := d.tenant.toNat
  .next (s.descriptor d false false [(s.slot t != V.SEC_KEY_STATUS_state_EMPTY, St.REFUSED_BUSY)] (fun s =>
    s.drbg d (fun s =>
      let (k, s) := s.fresh
      let k := k % 2 ^ 256
      ((s.setKey t (some k)).put F.SEC_KEY_STATUS_state V.SEC_KEY_STATUS_state_ACTIVE t).ok d (keyCheck k))))

/-- The kcv the last REKEY_PROGRESS entry recorded for a slot's current and staged key (R447). -/
def State.progress (s : State) (t : Nat) : Option (Nat × Nat × Nat) :=
  match s.colo.rekey with
  | some (u, b, c, g) => if u = t then some (b, c, g) else none
  | none => none

/-- KEY_IMPORT with staged = 0 (R430, R431, R447); `bad` is a blob that fails its integrity check. -/
def execKeyImport (d : Desc) (blob : BitVec 320) (bad : Bool) (s : State) : Host.Outcome State Fault Refusal :=
  let t := d.tenant.toNat
  let waits := s.slot t == V.SEC_KEY_STATUS_state_RESUME_WAIT && (s.key t).isNone
  let k := keyUnwrap t blob
  let wrong := waits && (match s.progress t with | some (_, c, _) => c != keyCheck k | none => false)
  .next (s.descriptor d false false
    [(s.slot t != V.SEC_KEY_STATUS_state_EMPTY && !waits, St.REFUSED_BUSY), (bad || wrong, St.INTEGRITY)] (fun s =>
      let s := s.setKey t (some k)
      let s := if waits then s else s.put F.SEC_KEY_STATUS_state V.SEC_KEY_STATUS_state_ACTIVE t
      s.ok d (keyCheck k)))

/-- KEY_IMPORT_STAGED: KEY_IMPORT with staged = 1 (R431, R447): with both keys in place the rekey takes its place in the
engine's order and resumes from the logged boundary. -/
def execKeyImportStaged (d : Desc) (blob : BitVec 320) (bad : Bool) (s : State) : Host.Outcome State Fault Refusal :=
  let t := d.tenant.toNat
  let k := keyUnwrap t blob
  let wrong := match s.progress t with | some (_, _, g) => g != keyCheck k | none => false
  .next (s.descriptor d false false
    [(s.slot t != V.SEC_KEY_STATUS_state_RESUME_WAIT || (s.key t).isNone, St.REFUSED_NOT_READY),
     ((s.stagedKey t).isSome, St.REFUSED_BUSY), (bad || wrong, St.INTEGRITY)] (fun s =>
      let s := s.setStaged t (some k)
      let s := s.put F.SEC_KEY_STATUS_state V.SEC_KEY_STATUS_state_REKEYING t
      let s := match s.progress t with | some (b, _, _) => s.setBoundary t b | none => s
      (s.rekeyQueue (s.sec.queue ++ [t])).ok d (keyCheck k)))

/-- The state a key must have to be exported or rekeyed (R431). -/
def State.keyChecks (s : State) (t : Nat) : List (Bool × Nat) :=
  [(s.slot t == V.SEC_KEY_STATUS_state_EMPTY, St.REFUSED_NOT_READY),
   (s.slot t != V.SEC_KEY_STATUS_state_ACTIVE, St.REFUSED_BUSY)]

/-- KEY_EXPORT (R430). -/
def execKeyExport (d : Desc) (buffer : BitVec 64) (s : State) : Host.Outcome State Fault Refusal :=
  let t := d.tenant.toNat
  .next (s.descriptor d false false (s.keyChecks t) (fun s =>
    let k := (s.key t).getD 0
    (s.hostWrite t buffer.toNat (keyBlob t k)).ok d (keyCheck k)))

/-- KEY_REKEY (R430, R443): a staged key is made, its blob written, and the rekey queued. A slot that holds a staged key
already waits for the engine and takes no second one (R425). -/
def execKeyRekey (d : Desc) (buffer : BitVec 64) (s : State) : Host.Outcome State Fault Refusal :=
  let t := d.tenant.toNat
  .next (s.descriptor d false false (s.keyChecks t ++ [((s.stagedKey t).isSome, St.REFUSED_BUSY)]) (fun s =>
    s.drbg d (fun s =>
      let (k, s) := s.fresh
      let k := k % 2 ^ 256
      let s := (s.setStaged t (some k)).hostWrite t buffer.toNat (keyBlob t k)
      (s.rekeyQueue (s.sec.queue ++ [t])).ok d (keyCheck k))))

/-- Every quire a tenant holds enters RELEASING (R432, R574): with it the captures of its closed streams. -/
def State.releaseTenant (s : State) (t : Nat) : State :=
  let ns := (s.cap.streams.map (fun p => p.1)).filter (fun n =>
    s.strmState n == Strm.CLOSED && s.strmHolder n == t)
  let s := s.each ns (fun s n => (s.releaseCapture n).1)
  let qs := (s.cap.quires.filter (fun p => p.2.tenant == t &&
    (p.2.state == Qr.SEALED || p.2.state == Qr.DRAINING || p.2.state == Qr.LOST))).map (fun p => p.1)
  s.each qs (fun s q => s.releaseQuire q)

/-- Zeroise a slot (R432): its keys, its rekey and flags are gone; the tenant's quires are released and its sessions end.
-/
def State.zeroise (s : State) (t : Nat) : State :=
  let s := ((s.setKey t none).setStaged t none).rekeyIdle t
  let s := s.rekeyQueue (s.sec.queue.filter (fun u => u != t))
  let s := s.when ((s.progress t).isSome) (fun s => { s with colo := { s.colo with rekey := none } })
  let s := (s.put F.SEC_KEY_STATUS_exhausted 0 t).put F.SEC_KEY_STATUS_counter_warn 0 t
  let s := s.put F.SEC_KEY_STATUS_state V.SEC_KEY_STATUS_state_EMPTY t
  ((s.releaseTenant t).endTenantSess t St.ABORTED_FAULT).ev F.SEC_EVENTS_zeroised

/-- The tenant's uses that hold a zeroisation back (R431). -/
def State.keyInUse (s : State) (t : Nat) : Bool :=
  s.cap.streams.any (fun p => s.strmHolder p.1 == t && (s.strmActive p.1 || s.strmState p.1 == Strm.STOPPING)) ||
    (upTo 512).any (fun l => s.get F.LANE_STATUS_holder l == t && s.prsBusy l) ||
    s.frames.any (fun p => s.get F.PRS_FRM_STATUS_holder p.1 == t &&
      (s.get F.PRS_FRM_STATUS_state p.1 == V.PRS_FRM_STATUS_state_ARMED ||
       s.get F.PRS_FRM_STATUS_state p.1 == V.PRS_FRM_STATUS_state_RUNNING))

/-- KEY_ZEROISE (R431, R432). -/
def execKeyZeroise (d : Desc) (s : State) : Host.Outcome State Fault Refusal :=
  let t := d.tenant.toNat
  .next (s.descriptor d false false
    [(s.slot t == V.SEC_KEY_STATUS_state_EMPTY, St.REFUSED_NOT_READY), (s.keyInUse t, St.REFUSED_BUSY)]
    (fun s => (s.zeroise t).ok d))

/-- DRBG_HEALTH_FAILURE (R427). -/
def execDrbgHealthFailure (s : State) : Host.Outcome State Fault Refusal :=
  .next (((s.put F.SEC_STATUS_drbg_ok 0).ev F.SEC_EVENTS_drbg_fail).log 0xE3 2 0 [])

/-! ## The rekey engine (R443 to R447) -/

/-- The leaves of a tenant that the engine rewrites, from a leaf number on: those of its OPEN, SEALED and DRAINING quires
(R444). Leaves under the device key are no tenant's. -/
def State.rekeyLeaves (s : State) (t b : Nat) : List Nat :=
  (s.cap.quires.filter (fun p => p.2.tenant == t && s.stored p.1 && decide (p.2.ltype < 4))).flatMap (fun p =>
    (p.2.leaves.map (fun x => p.1 * 16384 + x.1)).filter (fun n => decide (b ≤ n)))

/-- The quires of a list of leaf numbers. -/
def quiresOf (ns : List Nat) : List Nat := (ns.map (fun n => n / 16384)).eraseDups

/-- REKEY_ENGINE_TAKE (R443, R445): the engine, idle, takes the first slot queued, which is REKEYING. -/
def execRekeyEngineTake (s : State) : Host.Outcome State Fault Refusal :=
  match s.sec.queue with
  | [] => .next s
  | t :: q =>
    if s.on F.SEC_STATUS_rekey_busy then .next s
    else
      let s := (s.rekeyQueue q).put F.SEC_STATUS_rekey_busy 1
      let s := s.put F.SEC_STATUS_rekey_tenant t
      let s := s.put F.SEC_KEY_STATUS_state V.SEC_KEY_STATUS_state_REKEYING t
      let b := Tbl.get 0 s.sec.bounds t
      let s := s.setBoundary t b
      .next (s.put F.SEC_REKEY_LEFT_value (quiresOf (s.rekeyLeaves t b)).length).recast

/-- The rekey of a slot ends (R445): the staged key becomes current. -/
def State.rekeyDone (s : State) (t : Nat) : State :=
  let s := ((s.setKey t (s.stagedKey t)).setStaged t none).rekeyIdle t
  let s := { s with cap := { s.cap with quires := s.cap.quires.map (fun (p : Nat × Quire) =>
    if p.2.tenant = t then
      (p.1, { p.2 with leaves := p.2.leaves.map (fun (x : Nat × Leaf) => (x.1, { x.2 with staged := false })) })
    else p) } }
  let s := (s.put F.SEC_KEY_STATUS_exhausted 0 t).put F.SEC_KEY_STATUS_counter_warn 0 t
  let s := s.put F.SEC_KEY_STATUS_state V.SEC_KEY_STATUS_state_ACTIVE t
  let s := s.when ((s.progress t).isSome) (fun s => { s with colo := { s.colo with rekey := none } })
  s.ev F.SEC_EVENTS_rekey_done

/-- Rewrite a leaf in place under the staged key: the same header and counter, a new tag (R444). -/
def State.rekeyLeaf (s : State) (n : Nat) : State :=
  let q := n / 16384
  let y := s.quire q
  s.setQuireLive q { y with leaves := Tbl.upd {} (n % 16384) (fun l =>
    { l with staged := true, tag := Config.keyValue 5 (n * 2 ^ 32 + y.counter) % 2 ^ 64 }) y.leaves }

/-- REKEY_ADVANCE (R444, R445, R447): the engine rewrites the next leaf and advances the boundary past it and over every
leaf it need not rewrite; a quire passed is logged with its new digest; at 2^33 the rekey ends. It waits while the next
quire is DRAINING. -/
def execRekeyAdvance (s : State) : Host.Outcome State Fault Refusal :=
  if !s.on F.SEC_STATUS_rekey_busy then .next s
  else
    let t := s.get F.SEC_STATUS_rekey_tenant
    match s.rekeyLeaves t (Tbl.get 0 s.sec.bounds t) with
    | [] => .next (s.rekeyDone t)
    | n :: rest =>
      let q := n / 16384
      if (s.quire q).state = Qr.DRAINING then .next s
      else
        let s := s.rekeyLeaf n
        let passed := match rest with | m :: _ => m / 16384 != q | [] => true
        let b := match rest with | m :: _ => m | [] => 2 ^ 33
        let s := s.setBoundary t b
        let s := s.when passed (fun s =>
          let x := s.quire q
          let s := if x.state = Qr.OPEN then s else s.setQuire q { x with digest := Config.keyValue 6 q % 2 ^ 64 }
          let c := keyCheck ((s.key t).getD 0)
          let g := keyCheck ((s.stagedKey t).getD 0)
          let s := { s with colo := { s.colo with rekey := some (t, b, c, g) } }
          (s.put F.SEC_REKEY_LEFT_value (quiresOf rest).length).log 0xE0 0 t [b % 2 ^ 32, b / 2 ^ 32, c, g])
        .next (if rest.isEmpty then s.rekeyDone t else s)

/-! ## Pattern writes (R346, R441, R442) -/

/-- A host write of `data` at byte `off` cut at leaf ends: the leaf's sequence number, the place in it, the bytes. `n`
bounds the pieces. -/
def patChunks : Nat → Nat → List (BitVec 8) → List (Nat × Nat × List (BitVec 8))
  | 0, _, _ => []
  | n + 1, off, data =>
    if data.isEmpty then []
    else (off / 4032, off % 4032, data.take (4032 - off % 4032)) ::
      patChunks n (off + (4032 - off % 4032)) (data.drop (4032 - off % 4032))

/-- Write bytes at a place of a pattern payload. -/
def mergeBytes (pat : Tbl Nat) (p : Nat) (bs : List (BitVec 8)) : Tbl Nat :=
  ((upTo bs.length).zip bs).foldl (fun a x => Tbl.set 0 (p + x.1) x.2.toNat a) pat

/-- A pattern stream seals the leaf it holds, whatever of it was written (R441). -/
def State.sealHeld (s : State) (n : Nat) : State :=
  if (s.strm n).leaf.isSome then s.closeLeaf n false false else s

/-- Open the next pattern leaf; the flag says whether the stream has one. -/
def State.openPat (s : State) (n : Nat) : State × Bool :=
  let s := if s.strmState n = Strm.ACTIVE then s.ensureLeaf n false else s
  (s, (s.strm n).leaf.isSome)

/-- Seal leaves of zeros up to leaf sequence `a` (log entry 22). -/
def State.padPat (s : State) (n a : Nat) : State × Bool :=
  (upTo (a - (s.strm n).seq)).foldl (fun (r : State × Bool) _ =>
    if r.2 then
      let (s, ok) := r.1.openPat n
      if ok then (s.sealHeld n, true) else (s, false)
    else r) (s, true)

/-- Write a piece into the newest leaf or a new one: the leaf is sealed once every byte of it is written. -/
def State.patNew (s : State) (n p : Nat) (bs : List (BitVec 8)) : State × Bool :=
  let (s, ok) := s.openPat n
  let x := s.strm n
  match x.leaf with
  | none => (s, false)
  | some l =>
    if !ok then (s, false)
    else
      let filled := l.filled ||| ((2 ^ bs.length - 1) * 2 ^ p)
      let s := s.setStrm n { x with leaf := some { l with
        pat := mergeBytes l.pat p bs, filled := filled, lastTime := s.now } }
      (if filled = 2 ^ 4032 - 1 then s.closeLeaf n false false else s, true)

/-- Write a piece into a sealed leaf of the OPEN quire (R441): read, merged, resealed under a new counter; with the counter
at its end the key is exhausted instead (R439). Answers the status that ends the write. -/
def State.patOld (s : State) (q i p : Nat) (bs : List (BitVec 8)) (bad : Bool) : State × Option Nat :=
  let part := decide (bs.length < 4032)
  let y := s.quire q
  if part && (bad || s.leafBroken q i) then (s, some St.INTEGRITY)
  else if y.counter = 0xFFFFFFFF then (s.keyExhaust y.tenant q, some St.KEY_EXHAUSTED)
  else
    let s := s.countUp q y.tenant
    let y := s.quire q
    let s := s.setQuireLive q { y with leaves := Tbl.upd {} i (fun l =>
      { l with pat := mergeBytes l.pat p bs, counter := y.counter,
               tag := Config.keyValue 2 (q * 16384 + i) % 2 ^ 64,
               staged := s.slot y.tenant == V.SEC_KEY_STATUS_state_REKEYING &&
                 decide (q * 16384 + i < Tbl.get 0 s.sec.bounds y.tenant) }) y.leaves }
    (if part then s.cnt F.SEC_PARTIAL_REWRITES_value else s, none)

/-- The quire and index of a sealed leaf of a PATTERN stream, by its sequence number. -/
def State.patLeaf (s : State) (n a : Nat) : Nat × Nat := (((s.strm n).quires[a / 16384]?).getD 0, a % 16384)

/-- One piece of a pattern write: the state and the status that ends the write, if any. -/
def State.patPiece (s : State) (n : Nat) (bad : Bool) (c : Nat × Nat × List (BitVec 8)) : State × Option Nat :=
  let (a, p, bs) := c
  let x := s.strm n
  if a < x.seq then
    let s := s.sealHeld n
    let (q, i) := s.patLeaf n a
    s.patOld q i p bs bad
  else
    let s := if x.seq < a then s.sealHeld n else s
    let (s, ok) := s.padPat n a
    if !ok then (s, some St.PARTIAL)
    else
      let (s, ok) := s.patNew n p bs
      (s, if ok then none else some St.PARTIAL)

/-- PATTERN_WRITE (R346, R441, R569): `data` are the bytes of the buffer, `bad` a sealed leaf that fails authentication. A
write with a byte in a SEALED quire is refused; one that the stream cannot hold whole completes with PARTIAL. -/
def execPatternWrite (d : Desc) (n : BitVec 16) (off : BitVec 64) (data : List (BitVec 8)) (bad : Bool) (s : State) :
    Host.Outcome State Fault Refusal :=
  let m := n.toNat
  let t := d.tenant.toNat
  let cs := patChunks (data.length + 1) off.toNat data
  let shut := cs.any (fun c => decide (c.1 < (s.strm m).seq) && (s.quire (s.patLeaf m c.1).1).state != Qr.OPEN)
  .next (s.descriptor d false false
    (s.strmChecks d m ++
     [(data.isEmpty || decide (1048576 < data.length), St.BAD_ARGUMENT),
      (s.strmKind m != Kind.PATTERN, St.MODE_CONFLICT),
      (s.strmState m != Strm.ACTIVE || s.sealCheck t != 0, St.REFUSED_NOT_READY),
      (shut, St.REFUSED_BUSY),
      (s.on F.SEC_KEY_STATUS_exhausted t, St.KEY_EXHAUSTED)])
    (fun s =>
      if d.readFail then s.readFailed d
      else
        let start : State × Option Nat × Nat := (s, none, 0)
        let (s, st, count) := cs.foldl (fun (r : State × Option Nat × Nat) c =>
          match r.2.1 with
          | some _ => r
          | none =>
            let (s, st) := r.1.patPiece m bad c
            (s, st, if st.isNone then r.2.2 + c.2.2.length else r.2.2)) start
        s.complete d (st.getD St.OK) count))

/-! ## Registers (R453 to R455, R709) -/

/-- A write of SEC.CTRL: the lock closes after the RWL field of the same write is applied (R709). -/
def State.writeSecCtrl (s : State) (p : Path) (v : Word) : State × Nat :=
  s.guardWrite p Reg.SEC_CTRL 0 0 0 v false (fun s =>
    let s := s.applyWrite p Reg.SEC_CTRL 0 0 0 v
    (s.put F.SEC_STATUS_locked (s.get F.SEC_CTRL_lock), St.OK))

/-- A write of a word of the ring key (R450, R453): ignored while the lock is set. -/
def State.writeRingKey (s : State) (p : Path) (i : Nat) (v : Word) : State × Nat :=
  s.guardWrite p Reg.SEC_RING_KEY i 0 0 v false (fun s =>
    if s.on F.SEC_STATUS_locked then (s.err V.GLB_ERR_INFO_kind_LOCKED_WRITE (Reg.SEC_RING_KEY.addr i 0 0) p, St.OK)
    else
      let s := s.setWord Reg.SEC_RING_KEY v i
      let m := s.sec.ringWords ||| 2 ^ i
      (({ s with sec := { s.sec with ringWords := m } }).put F.SEC_STATUS_ring_key_set (b2n (m == 255)), St.OK))

/-- SEC_LOCK (R453, R709): a write of SEC.CTRL. -/
def execSecLock (p : Path) (v : Word) (s : State) : Host.Outcome State Fault Refusal := .next (s.writeSecCtrl p v).1

end Sys2Proof.Machine
end

