-- ==== Sys2Proof/Machine/Power.lean ====
section
/-! DEFINITION. Machine/Power.lean: power domains, votes, device states and wakes (spec/24, R618 to R642). -/
namespace Sys2Proof.Machine

/-- Where a request comes from: a descriptor, or a register write with its path and word. -/
abbrev Source := Desc ⊕ (Path × Word)

/-! ## Domains (R618) -/

/-- The domains of each kind. -/
abbrev domCounts : List Nat := [16, 256, 16, 12, 16, 3, 4, 4, 64, 64, 16]

/-- The kind and the index of a domain number, counting down the kinds. -/
def domFind : List Nat → Nat → Nat → Nat × Nat
  | [], k, n => (k, n)
  | c :: r, k, n => if n < c then (k, n) else domFind r (k + 1) (n - c)

/-- The kind and the index of a domain. -/
def domKind (n : Nat) : Nat × Nat := domFind domCounts 0 n

/-- The domain of a kind and an index. -/
def domainOf (k i : Nat) : Option Nat :=
  match domCounts[k]? with
  | some c => if i < c then some ((domCounts.take k).sum + i) else none
  | none => none

/-- The power state of a domain (R641). -/
def State.dom (s : State) (n : Nat) : Nat := s.get F.PWR_DOMAIN_STATUS_state n

/-- The state a domain is in, or is going to: 0 ON, 1 RETENTION, 2 OFF. -/
def State.domGoal (s : State) (n : Nat) : Nat :=
  if s.dom n ≤ 2 then s.dom n else Tbl.get 1 s.pwr.target n - 1

/-- The state a bank sees of its parent (R626): a parent going down counts as down, one going up as it was. -/
def State.parent (s : State) (n : Nat) : Nat :=
  if s.dom n = V.PWR_DOMAIN_STATUS_state_WAKING then Tbl.get 0 s.pwr.origin n else s.domGoal n

/-- The state a domain is to have: its resolved vote, and for a bank of a sector the lower of that and its sector's
(R619, R626). -/
def State.wanted (s : State) (n : Nat) : Nat :=
  let (k, i) := domKind n
  if k = 8 ∨ k = 9 then Nat.max (s.resolvedVote n) (s.parent (domSector (i / 4))) else s.resolvedVote n

/-- A tenant holds something in a domain (R619, R620). -/
def State.holdsIn (s : State) (t n : Nat) : Bool :=
  let (k, i) := domKind n
  t == 0 || match k with
    | 0 => (upTo 32).any (fun j => s.get F.LANE_STATUS_holder (32 * i + j) == t) ||
        s.someFrame (fun f => f / 4096 == i && s.get F.PRS_FRM_STATUS_holder f == t)
    | 1 => s.sectHolder i == t
    | 2 => (upTo 16).any (fun j => s.get F.SGC_STATUS_holder (16 * i + j) == t)
    | _ => false

/-- The domains in which a tenant may hold something. -/
abbrev tenantDoms : List Nat := upTo 288

/-! ## In-use rules (R27, R63, R160, R256, R393, R509, R547, R626) -/

/-- A target holds a quire, or takes a copy of one. -/
def State.targetUsed (s : State) (g : Nat) : Bool :=
  s.cap.quires.any (fun p => (p.2.state != Qr.FREE && p.2.target == g) || p.2.copy.any (fun c => c.1 == g))

/-- A domain is in use against a lowering to a state. -/
def State.inUse (s : State) (n to' : Nat) : Bool :=
  let (k, i) := domKind n
  let active := s.get F.CLK_STATUS_active_source
  match k with
  | 0 => (upTo 32).any (fun j => s.laneStreamed (32 * i + j) || s.prsBusy (32 * i + j)) ||
      s.someFrame (fun f => f / 4096 == i && s.frameBusy f) ||
      (srcKind active == 1 && srcIndex active / 32 == i) || (upTo 4).any (fun q => s.armed i q)
  | 1 => to' == 1 && s.sect i != Sec.EMPTY && s.sect i != Sec.LOADED
  | 2 => (upTo 16).any (fun j =>
      let st := s.coreState (16 * i + j)
      st == Core.RUNNING || st == Core.WAITING || st == Core.HALTED || !(s.core (16 * i + j)).dma.isEmpty)
  | 3 => !s.cap.frontUsed.isEmpty
  | 4 => s.targetUsed (1 + i / 8)
  | 5 => s.targetUsed (s.cxlTarget i)
  | 6 => active == 1024 + i
  | 7 => !(upTo 4).any (fun q => q != i && (s.ringUp (2 * q) || s.ringUp (2 * q + 1)))
  | 8 => (upTo 32).any (fun j => s.laneStreamed (32 * (i / 4) + j))
  | 9 => (upTo 32).any (fun j => s.prsBusy (32 * (i / 4) + j)) || s.someFrame (fun f => f / 4096 == i / 4 && s.frameBusy f) ||
      decide (s.get F.PRS_SECT_CACHE_lines_free (i / 4) < 256)
  | _ =>
    let on := ((upTo 16).filter (fun b => b != i && s.domOn (domQsc b))).length
    decide (16 * on < ((upTo 256).map (fun t => s.get F.SWF_TENANT_CACHE_cache_min t)).sum)

/-! ## What a change does to its units (R623, R618) -/

/-- The fence of a section begins (R623): a running one, on its way to OFF, is stopped. -/
def State.fenceBegin (s : State) (n to' : Nat) : State :=
  let (k, i) := domKind n
  if k = 1 ∧ to' = 2 ∧ s.sect i = Sec.RUNNING then s.sectStop i else s

/-- A load is abandoned for power (R155, R623): its other sections are cleared. -/
def State.abandonLoads (s : State) (i : Nat) : State :=
  let go := s.fab.loads.filter (fun l => l.sections.contains i)
  let s := { s with fab := { s.fab with loads := s.fab.loads.filter (fun l => !l.sections.contains i) } }
  s.each go (fun s l =>
    (s.each (l.sections.filter (fun m => m != i)) (fun s m => s.sectClear m)).complete l.desc St.ABORTED_POWER 0)

/-- The fence ends (R623): work inside it ends, and power is removed. -/
def State.fenceEnd (s : State) (n : Nat) : State :=
  let (k, i) := domKind n
  let to' := s.domGoal n
  match k with
  | 0 => s.each (upTo 32) (fun s j =>
      let l := 32 * i + j
      let s := s.probeEnd l V.LANE_PROBE_STATUS_result_ABORTED St.ABORTED_POWER
      if s.on F.LANE_CTRL_enable l then s.disableLane l else s)
  | 1 =>
    if to' = 2 then
      let s := if s.sect i = Sec.RELEASING then
          (((s.setSect i Sec.RUNNING).ev F.FAB_SECT_EVENTS_released i).sectWake i St.OK).sectStop i else s
      let s := if s.sect i = Sec.STOPPING then s.sectStopped i else s
      if s.sect i = Sec.LOADING ∨ s.sect i = Sec.CLEARING then (s.abandonLoads i).sectWake i St.ABORTED_POWER else s
    else s
  | 6 => (s.portDown i V.BRY_PORT_STATUS_cause_NONE).ringState s.bry.farDown (s.get F.BRY_RING_STATUS_reachable)
  | 7 =>
    let s := { s with noc := { s.noc with off := i :: s.noc.off } }
    s.each [2 * i, 2 * i + 1] (fun s r =>
      if s.ringUp r then
        (s.put F.NOC_RING_STATUS_state V.NOC_RING_STATUS_state_OFF r).put F.NOC_STATUS_rings_up
          (s.get F.NOC_STATUS_rings_up &&& (0xFF ^^^ 2 ^ r))
      else s)
  | 10 => s.each (upTo (s.swf.cache.length - s.cacheRoom)) (fun s _ => s.spill)
  | _ => s

/-- The registers of a sector's lanes, intake, triggers and presses are lost (R618), all but who holds them and which
lanes are unavailable. -/
def State.sectorLost (s : State) (i : Nat) : State :=
  let s := s.each (upTo 32) (fun s j => s.laneReset (32 * i + j))
  let held := (upTo 32).map (fun j => (32 * i + j, s.word Reg.LANE_STATUS (32 * i + j), s.get F.PRS_LANE_STATUS_holder (32 * i + j)))
  let mine := fun (off : Nat) => regDomain off == some (domSector i)
  let s := { s with regs := s.regs.filter (fun p => !mine p.1),
                    lanes := s.lanes.filter (fun p => p.1 / 32 != i), sectors := Tbl.set {} i {} s.sectors }
  s.each held (fun s h => (s.setWord Reg.LANE_STATUS h.2.1 h.1).put F.PRS_LANE_STATUS_holder h.2.2 h.1)

/-- A cluster's cores at power-up (R501, R509): as CORE_START sets them, their memories kept in RETENTION and lost in OFF. -/
def State.clusterUp (s : State) (i : Nat) (lost : Bool) : State :=
  s.each (upTo 16) (fun s j =>
    let c := 16 * i + j
    if s.coreState c ≠ Core.OFF then s
    else
      let x := (s.core c).started 0
      (s.setCore c (if lost then { x with imem := [], dmem := [] } else x)).setCoreState c Core.STOPPED)

/-- The units of a domain as it reaches a state from another (R618): 0 ON, 1 RETENTION, 2 OFF. -/
def State.domEffect (s : State) (n from' to' : Nat) : State :=
  let (k, i) := domKind n
  match k with
  | 0 => s.when (to' == 2) (fun s => s.sectorLost i)
  | 1 =>
    let s := (s.put F.FAB_SECT_STATUS_power to' i).endpaper i
    if to' = 2 then (s.sectBlank i).sectClear i
    else if to' = 0 ∧ from' = 2 then s.sectClear i
    else if to' = 0 then s.sectInit i
    else s
  | 2 =>
    if to' = 0 then s.clusterUp i (from' == 2)
    else s.each (upTo 16) (fun s j =>
      let c := 16 * i + j
      if s.coreState c = Core.FAILED then s else s.setCoreState c Core.OFF)
  | 3 =>
    let st := s.get F.MEM_HBM_STATUS_state i
    if to' = 2 ∧ st = V.MEM_HBM_STATUS_state_IN_USE then s.put F.MEM_HBM_STATUS_state V.MEM_HBM_STATUS_state_OFF i
    else if to' = 0 ∧ st = V.MEM_HBM_STATUS_state_OFF then s.put F.MEM_HBM_STATUS_state V.MEM_HBM_STATUS_state_IN_USE i
    else s
  | 6 => s.when (to' == 0 && s.portUsed i && s.boot.ready) (fun s => s.setPort i Bry.TRAINING V.BRY_PORT_STATUS_cause_NONE)
  | 7 =>
    if to' = 0 then
      let s := { s with noc := { s.noc with off := s.noc.off.filter (fun q => q != i) } }
      s.each [2 * i, 2 * i + 1] (fun s r =>
        if s.get F.NOC_RING_STATUS_state r = V.NOC_RING_STATUS_state_OFF then
          (s.put F.NOC_RING_STATUS_state V.NOC_RING_STATUS_state_UP r).put F.NOC_STATUS_rings_up
            (s.get F.NOC_STATUS_rings_up ||| 2 ^ r)
        else s)
    else s
  | 9 => s.put F.PRS_SECT_CACHE_lines_free (s.linesCap (i / 4) - s.linesTotal (32 * (i / 4)) (s.get F.PRS_CACHE_LINES_lines (32 * (i / 4))))
      (i / 4)
  | _ => s

/-! ## Driving a domain to what is wanted (R622 to R624) -/

/-- The register path's vote ends (R640). -/
def State.voteCmd (s : State) (result : Nat) : State := (s.put F.PWR_VOTE_CMD_result result).put F.PWR_VOTE_CMD_go 0

/-- A vote ends well: its result is the domain's state (R622). -/
def State.voteDone (s : State) (d : Option Desc) (st : Nat) : State :=
  match d with
  | some d => s.ok d st
  | none => s.voteCmd V.PWR_VOTE_CMD_result_DONE

/-- Every vote waiting for a domain completes. -/
def State.votesDone (s : State) (n : Nat) : State :=
  let go := s.pwr.waits.filter (fun w => w.domain == n)
  let s := { s with pwr := { s.pwr with waits := s.pwr.waits.filter (fun w => w.domain != n) } }
  s.each go (fun s w => s.voteDone w.desc (s.dom n))

/-- Begin a change of a domain in a settled state: 3 FENCING or 5 WAKING. -/
def State.domChange (s : State) (n st to' : Nat) : State :=
  let p := s.pwr
  let s := { s with pwr := { p with target := Tbl.set 0 n (to' + 1) p.target, origin := Tbl.set 0 n (s.dom n) p.origin } }
  let s := (s.put F.PWR_DOMAIN_STATUS_state st n).clr F.PWR_DOMAIN_STATUS_deferred n
  s.when (st == V.PWR_DOMAIN_STATUS_state_FENCING) (fun s => s.fenceBegin n to')

/-- A domain in a settled state moves towards what is wanted, or its votes complete. -/
def State.domMove (s : State) (n : Nat) : State :=
  let want := s.wanted n
  let st := s.dom n
  if want = st then (s.clr F.PWR_DOMAIN_STATUS_deferred n).votesDone n
  else if want < st then s.domChange n V.PWR_DOMAIN_STATUS_state_WAKING want
  else s.domChange n V.PWR_DOMAIN_STATUS_state_FENCING want

/-- Drive a domain: a raise during its fence cancels the lowering (R624); a domain past its fence or waking goes on, and
is driven again when it settles. -/
def State.drive (s : State) (n : Nat) : State :=
  let st := s.dom n
  if st ≤ 2 then s.domMove n
  else if st = V.PWR_DOMAIN_STATUS_state_FENCING then
    let want := s.wanted n
    let was := Tbl.get 0 s.pwr.origin n
    if want < s.domGoal n then
      let s := { s with pwr := { s.pwr with target := Tbl.set 0 n 0 s.pwr.target } }
      (s.put F.PWR_DOMAIN_STATUS_state was n).domMove n
    else { s with pwr := { s.pwr with target := Tbl.set 0 n (want + 1) s.pwr.target } }
  else s

/-- Record a vote: T000's in owner, a tenant's beside it (R619, R641). -/
def State.setVote (s : State) (n t v : Nat) : State :=
  let s := if t = 0 then s.put F.PWR_DOMAIN_STATUS_owner v n
    else { s with pwr := { s.pwr with votes := Tbl.set 0 (256 * n + t) (v + 1) s.pwr.votes } }
  s.resolve n

/-- A vote is refused (R621, R622). -/
def State.voteRefused (s : State) (d : Option Desc) (st : Nat) : State :=
  let s := s.ev F.PWR_EVENTS_vote_refused
  match d with
  | some d => s.refuse d st
  | none => s.voteCmd (if st = St.REFUSED_BUSY then V.PWR_VOTE_CMD_result_BUSY else V.PWR_VOTE_CMD_result_POWER)

/-- Cast a vote on a domain (R621, R622, R624); `overCap` says that raising the domain would push a rail over its cap. -/
def State.castVote (s : State) (n t v : Nat) (overCap : Bool) (d : Option Desc) : State :=
  let goal := s.domGoal n
  let s' := s.setVote n t v
  let want := s'.wanted n
  if s.dom n = V.PWR_DOMAIN_STATUS_state_WAKING ∧ goal < want then
    { s with pwr := { s.pwr with held := s.pwr.held ++ [{ domain := n, tenant := t, vote := v, desc := d }] } }
  else if want < goal && overCap then s.voteRefused d St.REFUSED_POWER
  else if decide (goal < want) && s.inUse n want then s.voteRefused d St.REFUSED_BUSY
  else
    let w : VoteWait := { domain := n, desc := d }
    ({ s' with pwr := { s'.pwr with waits := s'.pwr.waits ++ [w] } }).drive n

/-- A vote is withdrawn, or a TEST vote ends (R621): a lowering that is in use is deferred. -/
def State.voteEnds (s : State) (n : Nat) : State :=
  let s := s.resolve n
  let want := s.wanted n
  if decide (s.domGoal n < want) && s.inUse n want then s.ev F.PWR_DOMAIN_STATUS_deferred n else s.drive n

/-- A tenant's vote comes into being with its first resource in a domain (R620): it takes the domain's state. -/
def State.voteBorn (s : State) (t n : Nat) : State :=
  if t = 0 ∨ Tbl.get 0 s.pwr.votes (256 * n + t) ≠ 0 then s else s.setVote n t (s.domGoal n)

/-- A tenant that holds nothing in a domain any more votes no longer (R620). -/
def State.voteGone (s : State) (t n : Nat) : State :=
  if t = 0 ∨ Tbl.get 0 s.pwr.votes (256 * n + t) = 0 ∨ s.holdsIn t n then s
  else ({ s with pwr := { s.pwr with votes := Tbl.set 0 (256 * n + t) 0 s.pwr.votes } }).voteEnds n

/-- The banks of a sector follow it (R626). -/
def State.banksFollow (s : State) (n : Nat) : State :=
  if n < 16 then s.each ((upTo 4).flatMap (fun b => [domStaging (4 * n + b), domPress (4 * n + b)])) (fun s m => s.drive m)
  else s

/-- A domain settles in a state (R618, R622, R624, R642). -/
def State.domSettle (s : State) (n to' : Nat) : State :=
  let was := Tbl.get 0 s.pwr.origin n
  let s := { s with pwr := { s.pwr with target := Tbl.set 0 n 0 s.pwr.target } }
  let s := ((s.domReach n to').domEffect n was to').banksFollow n
  let held := s.pwr.held.filter (fun h => h.domain == n)
  let s := { s with pwr := { s.pwr with held := s.pwr.held.filter (fun h => h.domain != n) } }
  let s := s.domMove n
  s.each held (fun s h => s.castVote n h.tenant h.vote false h.desc)

/-! ## Commands on domains -/

/-- DOMAIN_FENCE_END (R623): power is removed from the domain. -/
def execDomainFenceEnd (n : BitVec 9) (s : State) : Host.Outcome State Fault Refusal :=
  let n := n.toNat
  if 471 ≤ n ∨ s.dom n ≠ V.PWR_DOMAIN_STATUS_state_FENCING then .next s
  else .next ((s.fenceEnd n).put F.PWR_DOMAIN_STATUS_state V.PWR_DOMAIN_STATUS_state_ENTERING n)

/-- DOMAIN_STATE_REACHED (R618, R622): a changing domain reaches its state, and the votes waiting for it complete. -/
def execDomainStateReached (n : BitVec 9) (s : State) : Host.Outcome State Fault Refusal :=
  let n := n.toNat
  let st := s.dom n
  if 471 ≤ n ∨ (st ≠ V.PWR_DOMAIN_STATUS_state_ENTERING ∧ st ≠ V.PWR_DOMAIN_STATUS_state_WAKING) then .next s
  else .next (s.domSettle n (s.domGoal n))

/-- VOTE_WITHDRAWAL (R620): a tenant that holds nothing in a domain any more votes no longer. -/
def execVoteWithdrawal (t : BitVec 8) (n : BitVec 9) (s : State) : Host.Outcome State Fault Refusal :=
  if 471 ≤ n.toNat then .next s else .next (s.voteGone t.toNat n.toNat)

/-- DEFERRED_LOWERING (R621): the use that deferred a lowering has ended. -/
def execDeferredLowering (n : BitVec 9) (s : State) : Host.Outcome State Fault Refusal :=
  let n := n.toNat
  if decide (471 ≤ n) || !s.on F.PWR_DOMAIN_STATUS_deferred n || s.inUse n (s.wanted n) then .next s
  else .next ((s.clr F.PWR_DOMAIN_STATUS_deferred n).drive n)

/-- CLOCK_GATE (R631): a domain that is ON has had no activity for 1 µs. -/
def execClockGate (n : BitVec 9) (s : State) : Host.Outcome State Fault Refusal :=
  let n := n.toNat
  if 471 ≤ n ∨ !s.domOn n ∨ s.pwr.gated.contains n then .next s
  else .next { s with pwr := { s.pwr with gated := s.pwr.gated ++ [n] } }

/-! ## Device states (R628 to R632) -/

/-- The device state (R637). -/
def State.devState (s : State) : Nat := s.get F.PWR_DEV_STATUS_state

/-- Put the device in a state. -/
def State.setDev (s : State) (st : Nat) : State := s.put F.PWR_DEV_STATUS_state st

/-- A descriptor is outstanding, other than one. -/
def State.outstanding (s : State) (but : Option Desc) : Bool :=
  s.tenants.any (fun (p : Nat × Tenant) => p.2.sq.any (fun (q : Nat × Sq) => q.2.outstanding.any (fun (e : Nat) =>
    match but with
    | some d => !(d.tenant.toNat == p.1 && d.ring.toNat == q.1 && d.entry.toNat == e)
    | none => true)))

/-- The conditions of R629 but the last, with the descriptor of a request left out of those outstanding. -/
def State.idleNow (s : State) (but : Option Desc) : Bool :=
  !s.anyActive && !s.press.any (fun p => s.prsBusy p.1) && !s.someFrame (fun f => s.frameBusy f) &&
    s.get F.SWF_STATUS_in_flight == 0 && s.coll.sessions.isEmpty && !s.outstanding but

/-- A RECOVERY vote is held. -/
def State.recovering (s : State) : Bool := (upTo 471).any (fun n => s.on F.PWR_DOMAIN_STATUS_recovery_vote n)

/-- IDLE_ENTRY (R629): the conditions have held for idle_us. -/
def execIdleEntry (s : State) : Host.Outcome State Fault Refusal :=
  if s.dead || s.devState != V.PWR_DEV_STATUS_state_RUN || !s.on F.PWR_IDLE_CFG_enable || !s.idleNow none || s.recovering then
    .next s
  else .next (s.setDev V.PWR_DEV_STATUS_state_IDLE)

/-- IDLE_EXIT (R629): a condition has ended, a doorbell was written or the owner accessed BAR0. -/
def execIdleExit (s : State) : Host.Outcome State Fault Refusal :=
  if s.devState = V.PWR_DEV_STATUS_state_IDLE then
    .next (({ s with pwr := { s.pwr with gated := [] } }).setDev V.PWR_DEV_STATUS_state_RUN)
  else .next s

/-- A lane is enabled. -/
def State.someLane (s : State) (f : Nat → Bool) : Bool := (upTo 512).any (fun l => f l && s.on F.LANE_CTRL_enable l)

/-- A request that a debugger's sleep emulation serves (R658): never OFF. -/
def State.emulates (s : State) (target : Nat) : Bool :=
  target != 2 && s.on F.DBG_CTRL_sleep_emulate && s.get F.DBG_STATUS_session != V.DBG_STATUS_session_NONE

/-- The refusals of R630 for a request: 0 SLEEP, 1 DEEP_SLEEP, 2 OFF. -/
def State.devBusy (s : State) (target : Nat) (d : Option Desc) : Bool :=
  let src := s.get F.CLK_STATUS_active_source
  !s.idleNow d ||
    (upTo 256).any (fun n => s.sect n != Sec.EMPTY && s.sect n != Sec.LOADED) ||
    (upTo 256).any (fun c => s.coreState c == Core.RUNNING || s.coreState c == Core.WAITING || s.coreState c == Core.HALTED) ||
    (upTo 16).any (fun i => (upTo 4).any (fun q => s.armed i q)) ||
    s.lanes.any (fun p => p.2.dig0.isSome || p.2.dig1.isSome || p.2.probe.isSome) ||
    (upTo 471).any (fun n => s.on F.PWR_DOMAIN_STATUS_recovery_vote n ||
      (s.on F.PWR_DOMAIN_STATUS_test_vote n && !s.emulates target)) ||
    s.boot.writing.isSome || srcKind src == 1 || (target != 0 && srcKind src == 2) ||
    (target == 1 && (s.on F.BRY_RING_STATUS_hosted || s.someLane (fun _ => true))) || s.pwr.request.isSome || !s.running

/-- The state a domain has in SLEEP or DEEP_SLEEP (R631). -/
def State.asleep (s : State) (deep : Bool) (n : Nat) : Nat :=
  let (k, i) := domKind n
  let st := s.dom n
  let keep := if st = 0 then 1 else st
  match k with
  | 0 => if st = 0 ∧ s.someLane (fun l => l / 32 == i) then 0 else keep
  | 1 | 2 | 10 => keep
  | 8 | 9 => if st = 0 ∧ s.someLane (fun l => l / 32 == i / 4) then 0 else keep
  | 6 => if deep then 2 else st
  | 7 => if deep || i != 0 then 2 else st
  | _ => st

/-- The domains that an entry lowers, with the states it gives them. -/
def State.lowered (s : State) (target : Nat) : List (Nat × Nat) :=
  if target = 2 then []
  else ((upTo 471).map (fun n => (n, s.asleep (target == 1) n))).filter (fun p =>
    decide (s.dom p.1 ≤ 2) && decide (s.dom p.1 < p.2) && !s.on F.PWR_DOMAIN_STATUS_test_vote p.1)

/-- A device request ends on its path: the descriptor's status, or the result of PWR.DEV_CTRL (R635, R638). -/
def State.devResult (s : State) (d : Option Desc) (status result : Nat) (value : Nat := 0) : State :=
  match d with
  | some d => s.complete d status value
  | none => (s.put F.PWR_DEV_CTRL_result result).put F.PWR_DEV_CTRL_go 0

/-- Ask for a device state (R630, R632): the domains to be lowered are fenced. -/
def State.devRequest (s : State) (target : Nat) (d : Option Desc) : State :=
  if s.devBusy target d then
    (s.ev F.PWR_EVENTS_entry_refused).devResult d St.REFUSED_BUSY V.PWR_DEV_CTRL_result_BUSY
  else
    let low := s.lowered target
    let r : DevRequest := { target := target, desc := d }
    let s := { s with pwr := { s.pwr with request := some r, wake := none } }
    let s := (s.setDev V.PWR_DEV_STATUS_state_ENTERING).put F.PWR_DEV_STATUS_last_wake V.PWR_DEV_STATUS_last_wake_NONE
    let s := s.put F.PWR_DEV_STATUS_woke_after_commit 0
    let s := s.when (s.emulates target) (fun s => s.ev F.DBG_STATUS_emulating)
    s.each low (fun s p => s.domChange p.1 V.PWR_DOMAIN_STATUS_state_FENCING p.2)

/-- A write of PWR.DEV_CTRL (R630, R638): OFF needs its key. -/
def State.writeDevCtrl (s : State) (p : Path) (v : Word) : State × Nat :=
  s.guardWrite p Reg.PWR_DEV_CTRL 0 0 0 v false (fun s =>
    let busy := s.pwr.request.any (fun r => r.desc.isNone && !r.committed)
    let s := (s.applyWrite p Reg.PWR_DEV_CTRL 0 0 0 v).put F.PWR_DEV_CTRL_off_key 0
    if !bit v.toNat 31 then (s, St.OK)
    else if busy then ((s.ev F.PWR_EVENTS_entry_refused), St.OK)
    else if bits v.toNat 30 29 = 2 ∧ bits v.toNat 15 0 ≠ 0x5140 then
      ((s.ev F.PWR_EVENTS_entry_refused).devResult none St.REFUSED_BUSY V.PWR_DEV_CTRL_result_KEY, St.OK)
    else (s.devRequest (bits v.toNat 30 29) none, St.OK))

/-- A request for a device state by descriptor, kind DEVICE (R622, R630). -/
def State.devDescriptor (s : State) (d : Desc) (target : Nat) : State :=
  s.descriptor d true true [(decide (2 < target), St.BAD_ARGUMENT)] (fun s => s.devRequest target (some d))

/-- A request by either path; the word of the register path gets its go bit and request. -/
def State.devAsk (s : State) (src : Source) (target : Nat) : State :=
  match src with
  | .inl d => s.devDescriptor d target
  | .inr (p, v) => (s.writeDevCtrl p (BitVec.ofNat 32 (putBits (v.toNat ||| 2 ^ 31) 30 29 target))).1

/-- SLEEP_REQUEST (R630). -/
def execSleepRequest (src : Desc ⊕ (Path × Word)) (s : State) : Host.Outcome State Fault Refusal := .next (s.devAsk src 0)

/-- DEEP_SLEEP_REQUEST (R630). -/
def execDeepSleepRequest (src : Desc ⊕ (Path × Word)) (s : State) : Host.Outcome State Fault Refusal := .next (s.devAsk src 1)

/-- OFF_REQUEST (R630): by register, with off_key in the same write. -/
def execOffRequest (src : Desc ⊕ (Path × Word)) (s : State) : Host.Outcome State Fault Refusal := .next (s.devAsk src 2)

/-- A write of PWR.VOTE_CMD (R640): T000's vote. -/
def State.writeVoteCmd (s : State) (p : Path) (v : Word) (overCap : Bool) : State × Nat :=
  s.guardWrite p Reg.PWR_VOTE_CMD 0 0 0 v (decide (470 < bits v.toNat 8 0)) (fun s =>
    let s := s.applyWrite p Reg.PWR_VOTE_CMD 0 0 0 v
    let n := s.get F.PWR_VOTE_CMD_domain
    let st := s.get F.PWR_VOTE_CMD_state
    if !bit v.toNat 31 then (s, St.OK)
    else if (domKind n).1 = 7 ∧ st = 1 then ((s.ev F.PWR_EVENTS_vote_refused).voteCmd V.PWR_VOTE_CMD_result_BAD, St.OK)
    else (s.castVote n 0 st overCap none, St.OK))

/-- POWER_VOTE (R621, R622, R640): a vote by descriptor on the domain of a kind and index, or on the device, or T000's by
PWR.VOTE_CMD. -/
def execPowerVote (src : Desc ⊕ (Path × Word)) (kind : BitVec 8) (index : BitVec 16) (state : BitVec 8) (overCap : Bool)
    (s : State) : Host.Outcome State Fault Refusal :=
  match src with
  | .inr (p, v) => .next (s.writeVoteCmd p (v ||| 0x80000000#32) overCap).1
  | .inl d =>
    let t := d.tenant.toNat
    if kind = 0xF then
      .next (s.descriptor d true true [(index != 0 || decide (2 < state.toNat), St.BAD_ARGUMENT)]
        (fun s => s.devRequest state.toNat (some d)))
    else
      let n := domainOf kind.toNat index.toNat
      .next (s.descriptor d false true
        [(n.any (fun n => !s.holdsIn t n), St.REFUSED_NOT_OWNER),
         (n.isNone || decide (2 < state.toNat) || (kind == 7 && state == 1), St.BAD_ARGUMENT)]
        (fun s => match n with
          | some n => s.castVote n t state.toNat overCap (some d)
          | none => s))

/-- Domains return to their resolved votes (R631). -/
def State.domsReturn (s : State) : State :=
  s.each (upTo 471) (fun s n =>
    let want := s.wanted n
    if s.dom n = want then s
    else
      let was := if s.dom n ≤ 2 then s.dom n else Tbl.get 0 s.pwr.origin n
      ({ s with pwr := { s.pwr with origin := Tbl.set 0 n was s.pwr.origin } }).domSettle n want)

/-- The global persistent flush of the CXL ports whose link is up (R417, R610, R612): `phases` holds the last phase each
completed, two bits to a port; then COMMIT_END. -/
def State.flush (s : State) (phases seals logs : Nat) : State :=
  let s := s.each ((upTo 3).filter (fun p => s.get F.MEM_CXL_STATUS_state p == V.MEM_CXL_STATUS_state_IN_USE)) (fun s p =>
    let ph := Nat.min 2 (phases / 4 ^ p % 4)
    let ok := ph == 2
    let s := { s with colo := { s.colo with gpfOk := (s.colo.gpfOk &&& (7 ^^^ 2 ^ p)) ||| b2n ok * 2 ^ p } }
    s.commitEntry 0x22 (if ok then 0 else 3) p [ph, b2n ok])
  s.commitEntry 0xC2 0 0 [seals, logs]

/-- The colophon commit and the flush on the way to OFF (R632), with the tenant keys cleared (R426). -/
def State.offCommit (s : State) (phases : Nat) : State :=
  let seals := s.cap.sealPending.length
  let logs := s.ras.buffer.length
  ({ s with sec := {} }).commitSeals.commitLog.flush phases seals logs

/-- The device is OFF: every rail but VDD_AUX is off (R45, R632). -/
def State.goOff (s : State) : State :=
  let s := s.each (upTo 16) (fun s r => (s.put F.PWR_RAIL_STATUS_in_regulation 0 r).put F.PWR_RAIL_STATUS_load_pct 0 r)
  { s with pwr := { s.pwr with off := true, request := none } }

/-- ENTRY_COMMIT_POINT (R632): the request completes OK; on the way to OFF the commit and the flush have run. -/
def execEntryCommitPoint (phases : BitVec 6) (s : State) : Host.Outcome State Fault Refusal :=
  match s.pwr.request with
  | none => .next s
  | some r =>
    if r.committed then .next s
    else
      let s := { s with pwr := { s.pwr with request := some { r with committed := true } } }
      let s := if r.target = 2 then s.offCommit phases.toNat else
        s.each (upTo 471) (fun s n => if s.dom n = V.PWR_DOMAIN_STATUS_state_FENCING then
          (s.fenceEnd n).put F.PWR_DOMAIN_STATUS_state V.PWR_DOMAIN_STATUS_state_ENTERING n else s)
      .next (s.devResult r.desc St.OK V.PWR_DEV_CTRL_result_DONE)

/-- Exit from SLEEP or DEEP_SLEEP begins (R635). -/
def State.exitBegin (s : State) : State := s.setDev V.PWR_DEV_STATUS_state_EXITING

/-- EXIT_COMPLETE (R628, R631, R632): the device is in RUN, its domains at their resolved votes; after DEEP_SLEEP the root
is locked to the MEMS oscillator and returns to REFCLK when that was its source. -/
def execExitComplete (s : State) : Host.Outcome State Fault Refusal :=
  if s.devState ≠ V.PWR_DEV_STATUS_state_EXITING then .next s
  else
    let s := s.domsReturn
    let src := s.get F.CLK_STATUS_active_source
    let s := if s.pwr.deep && src != srcMems then
        let s := { s with clk := { s.clk with back := if srcKind src = 3 then some src else none } }
        let s := s.put F.CLK_STATUS_active_source srcMems
        if s.srcReady src then s.goBack src else s
      else s
    let s := s.when s.pwr.stretch (fun s => s.send .smbRelease)
    let s := { s with pwr := { s.pwr with wake := none, stretch := false, deep := false, gated := [] } }
    .next (((s.setDev V.PWR_DEV_STATUS_state_RUN).clr F.DBG_STATUS_emulating).ev F.PWR_EVENTS_woke)

/-! ## Wake (R633 to R635) -/

/-- A wake of a cause acts (R635) on a device that is not OFF: it cancels an entry before its commit point, is latched
after it, or begins exit. -/
def State.wakeUp (s : State) (cause pin : Nat) : State :=
  let mark := fun (s : State) (after : Bool) =>
    let first := s.get F.PWR_DEV_STATUS_last_wake == V.PWR_DEV_STATUS_last_wake_NONE
    let s := s.when first (fun s => (s.put F.PWR_DEV_STATUS_last_wake cause).put F.PWR_DEV_STATUS_wake_pin pin)
    s.when after (fun s => s.ev F.PWR_DEV_STATUS_woke_after_commit)
  let st := s.devState
  if st = V.PWR_DEV_STATUS_state_SLEEP ∨ st = V.PWR_DEV_STATUS_state_DEEP_SLEEP then (mark s false).exitBegin
  else match s.pwr.request with
    | none => s
    | some r =>
      if r.committed then
        let s := mark s true
        if s.pwr.wake.isSome then s else { s with pwr := { s.pwr with wake := some (cause, pin) } }
      else
        let s := mark s false
        let s := { s with pwr := { s.pwr with request := none } }
        let s := s.each (upTo 471) (fun s n => if s.dom n = V.PWR_DOMAIN_STATUS_state_FENCING then s.drive n else s)
        let s := ((s.setDev V.PWR_DEV_STATUS_state_RUN).clr F.DBG_STATUS_emulating).ev F.PWR_EVENTS_entry_cancelled
        s.devResult r.desc St.ABORTED_POWER V.PWR_DEV_CTRL_result_CANCELLED cause

end Sys2Proof.Machine
end

