-- ==== Sys2Proof/Machine/Boot.lean ====
section
/-! DEFINITION. Machine/Boot.lean: starts, their steps, the start record and the rebuild of the quire table (spec/04, R88 to
R119; R310, R607, R613). -/
namespace Sys2Proof.Machine

/-! Causes of a start (R88). -/
abbrev Start.POWER_ON : Nat := 0
abbrev Start.RESET_PIN : Nat := 1
abbrev Start.OWNER_RESTART : Nat := 2
abbrev Start.AUTO_RESTART : Nat := 3
abbrev Start.WAKE : Nat := 4

/-! Step outcomes (R96). -/
abbrev Done.DONE : Nat := 1
abbrev Done.ALTERNATE : Nat := 2
abbrev Done.DEGRADED : Nat := 3
abbrev Done.SKIPPED : Nat := 4
abbrev Done.FAILED : Nat := 5
abbrev Done.INTERRUPTED : Nat := 6
abbrev Done.RUNNING : Nat := 7

/-! ## Beginning a start (R88, R89, R708) -/

/-- The registers a start keeps (R708): those on VDD_AUX (R40, R635, R680, R689), the supply status, the newest log entry,
clear_learned (R114), what the stream registers held, which R310 rebuilds at S16, and, for a start from S02, the rails. -/
def keptReg (first off : Nat) : Bool :=
  off == Reg.PWR_WAKE_CFG.base || off == Reg.PWR_SUPPLY_STATUS.base || off == Reg.GIO_BANK_CFG.base ||
    off == Reg.GIO_SMB_CFG.base || (decide (Reg.GIO_PIN_CFG.base ≤ off) && decide (off < Reg.GIO_PIN_CFG.base + 32)) ||
    off == Reg.RAS_LOG_NEWEST_LO.base || off == Reg.RAS_LOG_NEWEST_HI.base ||
    off == Reg.HIF_LINK_STATUS.base ||
    (decide (0x410000 ≤ off) && decide (off < 0x430000)) ||
    (first == 2 && (decide (Reg.PWR_RAIL_STATUS.base ≤ off) && decide (off < Reg.PWR_RAIL_STATUS.base + 4 * 17)))

/-- Show the start in BOOT.START_STATUS (R113). -/
def State.showStart (s : State) : State :=
  let step := (s.boot.active.filter (fun n => n != 3)).head?
  let s := match step with
    | some n => s.put F.BOOT_START_STATUS_step n
    | none => s
  (s.put F.BOOT_START_STATUS_attempt s.boot.attempt).put F.BOOT_START_STATUS_cause s.boot.cause

/-- A start begins at S01 or S02 (R88, R89): everything takes its reset value but the colophon store, the log writer, the
supplies, and what keptReg names. -/
def State.start (s : State) (first cause : Nat) : State :=
  let fresh := cause == Start.POWER_ON || cause == Start.WAKE
  let lost := (upTo 3).foldl (fun a p => if s.get F.MEM_CXL_STATUS_state p = V.MEM_CXL_STATUS_state_FAILED then a ||| 2 ^ p else a)
    s.colo.cxlLost
  let learn := s.on F.BOOT_CTRL_clear_learned
  let stretch := s.pwr.stretch
  let b : BootSt :=
    { cause := cause, active := [first], holdupUf := s.boot.holdupUf,
      autoRestarts := if fresh then 0 else if cause = Start.AUTO_RESTART then s.boot.autoRestarts + 1 else s.boot.autoRestarts,
      attempt := if fresh then 1 else if cause = Start.AUTO_RESTART then s.boot.attempt + 1 else s.boot.attempt }
  let dev := s.word Reg.PWR_DEV_STATUS
  let perst := s.get F.HIF_LINK_STATUS_perst_n
  let t : State :=
    { regs := s.regs.filter (fun p => keptReg first p.1), out := s.out, free := s.free, pending := s.pending, colo :=
        { s.colo with cxlLost := lost },
      sup := { s.sup with loss := none, committed := false, gpfDone := false, holdupIsolated := false, suppliesLost := false },
      ras := { s.ras with coreAFailed := false, coreBFailed := false }, boot := b,
      pwr := { stretch := stretch },
      cap := { streams := s.cap.streams, quires := s.cap.quires, seals := s.cap.seals, sealPending := s.cap.sealPending } }
  let t := (t.setWord Reg.HIF_LINK_STATUS 0).put F.HIF_LINK_STATUS_perst_n perst
  let t := t.when learn (fun t => t.ev F.BOOT_CTRL_clear_learned)
  let t := ((t.setWord Reg.PWR_DEV_STATUS dev).setDev V.PWR_DEV_STATUS_state_RUN).put F.PWR_DEV_STATUS_from_off
    (b2n (cause == Start.WAKE))
  t.showStart

/-- Write the open start record into its ring slot (R98). -/
def State.putRecord (s : State) : State :=
  if s.boot.opened then
    { s with colo := { s.colo with records := Tbl.set none s.boot.slotIx (some s.boot.record) s.colo.records } }
  else s

/-- Change the start record. -/
def State.record (s : State) (f : StartRecord → StartRecord) : State :=
  ({ s with boot := { s.boot with record := f s.boot.record } }).putRecord

/-- Record a step's method, outcome, cause and time (R95, R118). -/
def State.setStep (s : State) (n method outcome cause micros : Nat) : State :=
  let k := n - 1
  let s := (s.put F.BOOT_STEP_STATUS_outcome outcome k).put F.BOOT_STEP_STATUS_cause cause k
  let s := (s.put F.BOOT_STEP_STATUS_method method k).put F.BOOT_STEP_TIME_value micros k
  s.record (fun r => { r with steps := Tbl.set (0, 0, 0, 0) n (method, outcome, cause, micros) r.steps })

/-- A step begins (R98). -/
def State.beginStep (s : State) (n : Nat) : State :=
  let s := s.setStep n (Tbl.get 0 s.boot.plan n) Done.RUNNING 0 0
  ({ s with boot := { s.boot with active := s.boot.active ++ [n] } }).showStart

/-- A step ends: no longer running. -/
def State.stepOut (s : State) (n : Nat) : State := { s with boot := { s.boot with active := s.boot.active.erase n } }

/-- The start halts at a step (R96, R99, R113). -/
def State.halt (s : State) (n : Nat) : State :=
  let keep := s.boot.active.filter (fun k => k == 3)
  let s := { s with boot := { s.boot with halted := true, active := keep } }
  let s := (s.put F.BOOT_START_STATUS_outcome V.BOOT_START_STATUS_outcome_HALTED).put F.BOOT_START_STATUS_step n
  s.record (fun r => { r with outcome := 3 })

/-- The step ends with a failure and the start halts. -/
def State.haltAt (s : State) (n cause micros : Nat) : State :=
  ((s.setStep n (Tbl.get 0 s.boot.plan n) Done.FAILED cause micros).stepOut n).halt n

/-- AUTO_RESTART (R99): at most three follow a POWER_ON or WAKE; then the start halts. -/
def State.autoRestart (s : State) (n : Nat) : State :=
  if 3 ≤ s.boot.autoRestarts then s.halt n else s.start 2 Start.AUTO_RESTART

/-! ## The first steps (R36, R46, R50, R97, R613) -/

/-- S01 (R36, R37, R46): the rails are on, and the hold-up capacitance measured. -/
def State.step01 (s : State) (r : StepResult) : State :=
  if r.cause = 1 ∨ r.cause = 2 then s.haltAt 1 r.cause.toNat r.micros.toNat
  else
    let uf := r.holdup.toNat
    let s := s.each (upTo 17) (fun s i => s.put F.PWR_RAIL_STATUS_in_regulation 1 i)
    let low := decide (uf < 800)
    let s := s.put F.PWR_SUPPLY_STATUS_holdup_degraded (b2n low)
    let s := { s with sup := { s.sup with capMw := if low then some (uf * 1282432 / 1000) else none },
                      boot := { s.boot with holdupUf := uf } }
    let s := s.when low (fun s => s.each (upTo 16) (fun s i =>
      let (c, s) := s.fresh
      (s.ev F.PWR_RAIL_STATUS_current_capped i).log 0x51 2 i [c % 101]))
    ((s.setStep 1 0 Done.DONE 0 r.micros.toNat).stepOut 1).beginStep 2

/-- The newest start record (R98). -/
def State.newest (s : State) : Option (Nat × StartRecord) :=
  s.colo.records.foldl (fun (a : Option (Nat × StartRecord)) p =>
    match a, p.2 with
    | some b, some r => if b.2.seq ≤ r.seq then some (p.1, r) else some b
    | none, some r => some (p.1, r)
    | x, none => x) none

/-- What the log says of the previous stop (R613): the POWER_FAIL of the last start record, and whether a COMMIT_END
follows it. -/
def State.lastStop (s : State) : Option (Nat × Bool) :=
  match s.newest with
  | none => none
  | some (_, r) =>
    let mine := (s.ras.store.map (fun p => p.2)).filter (fun e => e.startSeq == r.seq)
    match (mine.filter (fun e => e.code == 0xC1)).foldl (fun (a : Option LogEntry) e =>
        match a with
        | some b => if b.seq ≤ e.seq then some e else some b
        | none => some e) none with
    | none => none
    | some e => some ((e.detail.head?).getD 0, mine.any (fun c => c.code == 0xC2 && decide (e.seq < c.seq)))

/-- S02 (R50, R92, R613): the management pair runs; the cause of the previous stop is shown. -/
def State.step02 (s : State) (r : StepResult) : State :=
  if r.cause = 4 then s.haltAt 2 4 r.micros.toNat
  else if r.cause = 3 then (s.haltAt 2 3 r.micros.toNat).goOff
  else
    let s := match s.lastStop with
      | some (c, ok) =>
        if s.boot.cause = Start.POWER_ON ∨ s.boot.cause = Start.WAKE then
          let s := if c = 3 then s.ev F.PWR_SUPPLY_STATUS_thermal_trip_last else s.ev F.PWR_SUPPLY_STATUS_powerfail_last
          s.put F.RAS_STATUS_commit_ok_last (b2n ok)
        else s
      | none => s
    let s := s.when s.pwr.stretch (fun s => ({ s with pwr := { s.pwr with stretch := false } }).send .smbRelease)
    let s := (s.setStep 2 0 Done.DONE 0 r.micros.toNat).stepOut 2
    let s := s.beginStep 3
    s.beginStep 4

/-- The host link comes up (R553, R577, R578): T000 is READY. -/
def State.linkUp (s : State) (rate width : Nat) (flit : Bool) : State :=
  let s := (s.put F.HIF_LINK_STATUS_state V.HIF_LINK_STATUS_state_UP).put F.HIF_LINK_STATUS_rate rate
  let s := (s.put F.HIF_LINK_STATUS_width width).put F.HIF_LINK_STATUS_flit (b2n flit)
  let s := (s.ev F.HIF_EVENTS_link_up).when (decide (width < 16) || decide (rate < 6)) (fun s => s.ev F.HIF_EVENTS_degraded)
  if (s.ten 0).resetStep = 0 then s.put F.HIF_TENANT_STATUS_state 1 0 else s

/-- This device has no PCIe link of its own (R593). -/
def State.hostless (s : State) : Bool := bit ((s.colo.ringCfg.getD 0#32).toNat) 29

/-- S03 (R92, R593): the host link is up; a ring-hosted member has none. -/
def State.step03 (s : State) (r : StepResult) : State :=
  let s := (s.setStep 3 0 Done.DONE 0 r.micros.toNat).stepOut 3
  let s := { s with boot := { s.boot with endedS03 := true } }
  if s.hostless then s.put F.HIF_TENANT_STATUS_state 1 0 else s.linkUp r.rate.toNat r.width.toNat r.flit

/-- S04 (R105, R112, R427): fuses read, the rollback minimum loaded, the random generator's health tests passed. -/
def State.step04 (s : State) (r : StepResult) : State :=
  if r.cause = 6 then s.haltAt 4 6 r.micros.toNat
  else
    let s := (s.put F.BOOT_ROLLBACK_MIN_value s.colo.fuseRollback).put F.SEC_STATUS_drbg_ok 1
    ((s.setStep 4 0 Done.DONE 0 r.micros.toNat).stepOut 4).beginStep 5

/-- Show the image slots in BOOT.SLOT_STATUS (R117). -/
def State.showSlots (s : State) : State :=
  let st := fun (k : Nat) => if s.boot.fwRunning = k + 1 ∨ (3 ≤ k ∧ s.boot.fabRunning + 2 = k) then 4 else
    (Tbl.get {} s.colo.slots k).state
  s.each [(F.BOOT_SLOT_STATUS_fw_golden, 0), (F.BOOT_SLOT_STATUS_fw_a, 1), (F.BOOT_SLOT_STATUS_fw_b, 2),
    (F.BOOT_SLOT_STATUS_fab_a, 3), (F.BOOT_SLOT_STATUS_fab_b, 4)] (fun s p => s.put p.1 (st p.2))

/-- S05 (R97, R109): the directory is read; what differs is repaired, and a directory with no valid copy is rebuilt empty,
which empties the training store and the event log. -/
def State.step05 (s : State) (r : StepResult) : State :=
  let c := s.colo
  let g := Nat.max c.dirGen0 c.dirGen1
  let bad := r.cause == 8
  let slots := c.slots.map (fun (p : Nat × Slot) => if p.2.state = 1 then (p.1, { p.2 with state := 3 }) else p)
  let s := { s with colo := { c with dirGen0 := g, dirGen1 := g, slots := slots, trained := if bad then [] else c.trained } }
  let s := s.when bad (fun s =>
    ({ s with ras := { s.ras with store := [], count := 0 } }).setPair Reg.RAS_LOG_NEWEST_LO Reg.RAS_LOG_NEWEST_HI (2 ^ 64 - 1))
  let s := s.when (r.cause == 7 || decide (c.dirGen0 ≠ c.dirGen1)) (fun s => s.ev F.BOOT_EVENTS_dir_repaired)
  let s := s.showSlots
  ((s.setStep 5 0 Done.DONE r.cause.toNat r.micros.toNat).stepOut 5).beginStep 6

/-! ## The plan (R98, R100, R102) -/

/-- How a step of a record reads at the next start (R98): what was RUNNING was interrupted by a loss of power or the reset
pin, else it timed out. -/
def State.readStep (s : State) (r : StartRecord) (n : Nat) : Nat × Nat :=
  let (_, o, c, _) := Tbl.get (0, 0, 0, 0) r.steps n
  if o = Done.RUNNING then
    if (s.boot.cause = Start.POWER_ON ∧ s.on F.PWR_SUPPLY_STATUS_powerfail_last) ∨ s.boot.cause = Start.RESET_PIN then
      (Done.INTERRUPTED, 0)
    else (Done.FAILED, 0x16)
  else (o, c)

/-- Of a record, a firmware slot (1 A, 2 B) failed in S08 to S10: passed over in S08, or used in a start that failed there. -/
def State.fwFailed (s : State) (r : StartRecord) (slot : Nat) : Bool :=
  let o := fun (n : Nat) => (s.readStep r n).1
  ((o 8 == Done.ALTERNATE || o 8 == Done.FAILED) && r.fwSlot != slot) ||
    (r.fwSlot == slot && ([8, 9, 10].any (fun n => o n == Done.FAILED)))

/-- Of a record, a fabric slot (1 A, 2 B) failed in S09 or S10. -/
def State.fabFailed (s : State) (r : StartRecord) (slot : Nat) : Bool :=
  let o := fun (n : Nat) => (s.readStep r n).1
  [9, 10].any (fun n => (o n == Done.ALTERNATE && r.fabSlot != slot) ||
    (o n == Done.FAILED && (r.fabSlot == slot || r.fabSlot == 0)))

/-- A step of a record timed out (R99). -/
def State.timedOut (s : State) (r : Option StartRecord) (n : Nat) : Bool :=
  match r with
  | some r => s.readStep r n == (Done.FAILED, 0x16)
  | none => false

/-- Put the preferred slots' methods and the start source into the plan (R100). -/
def State.makePlan (s : State) (prev prev2 : Option StartRecord) (learn : Bool) : State :=
  let fw := s.get F.BOOT_IMAGE_SEL_fw_pref
  let fab := s.get F.BOOT_IMAGE_SEL_fab_pref
  let hist := fun (f : StartRecord → Bool) => !learn && prev.any f
  let hist2 := fun (f : StartRecord → Bool) => prev.any f || prev2.any f
  let m8 := decide (fw < 2) && (hist (fun r => s.fwFailed r (fw + 1)) || s.timedOut prev 8)
  let m9 := if fab = V.BOOT_IMAGE_SEL_fab_pref_NONE ∨
        (hist2 (fun r => s.fabFailed r 1) ∧ hist2 (fun r => s.fabFailed r 2)) then 2
      else b2n (prev.any (fun r => s.fabFailed r (fab + 1)) || s.timedOut prev 9 || s.timedOut prev 10)
  let full := fun (n : Nat) => b2n (learn || s.timedOut prev n)
  let plan : Tbl Nat := [8, 9, 10, 11, 12, 13, 14].foldl (fun a n =>
    Tbl.set 0 n (if n = 8 then b2n m8 else if n < 11 then m9 else full n) a) []
  let mems := (!learn && prev.any (fun r => decide (3 ≤ r.refFallback))) ||
    s.get F.BOOT_IMAGE_SEL_start_source == V.BOOT_IMAGE_SEL_start_source_MEMS
  { s with boot := { s.boot with plan := plan, mems := mems } }

/-- The BRY settings of the start (R580, R597). -/
def State.loadRing (s : State) : State :=
  match s.colo.ringCfg with
  | none => { s with boot := { s.boot with ringAtStart := some (s.word Reg.BRY_RING_CFG) } }
  | some w =>
    let s := s.setWord Reg.BRY_RING_CFG w
    let s := { s with boot := { s.boot with ringAtStart := some w } }
    let role := s.get F.BRY_RING_CFG_role
    let s := s.put F.BRY_RING_STATUS_role role
    if role = V.BRY_RING_CFG_role_STANDALONE then s
    else
      let s := (s.put F.BRY_RING_STATUS_size (s.get F.BRY_RING_CFG_size)).put F.BRY_RING_STATUS_device (s.get F.BRY_RING_CFG_device)
      let s := s.put F.BRY_RING_STATUS_hosted (s.get F.BRY_RING_CFG_hosted)
      let s := s.put F.BRY_RING_STATUS_state Ring.FORMING
      if role = V.BRY_RING_CFG_role_MEMBER then s.setSync V.BRY_SYNC_STATUS_state_ALIGNING else s

/-- S06 (R95, R98, R100, R102, R116): the previous record is read, the plan made, a new record opened; the settings kept in
the colophon store are loaded. -/
def State.step06 (s : State) (r : StepResult) : State :=
  let prev := s.newest
  let prevR := prev.map (fun p => p.2)
  let prev2 := match prevR with
    | some q => ((s.colo.records.filterMap (fun p => p.2)).find? (fun x => x.seq + 1 == q.seq))
    | none => none
  let learn := s.on F.BOOT_CTRL_clear_learned
  let s := s.clr F.BOOT_CTRL_clear_learned
  let (first, s) := if prev.isNone then s.fresh else (0, s)
  let seq := match prevR with | some q => q.seq + 1 | none => first % 2 ^ 32
  let s := match prevR with
    | some q => s.setWord Reg.BOOT_IMAGE_SEL (BitVec.ofNat 32 q.imageSel)
    | none => s
  let s := s.makePlan prevR prev2 learn
  let s := s.when (s.boot.mems && !learn) (fun s => s.put F.BOOT_IMAGE_SEL_start_source V.BOOT_IMAGE_SEL_start_source_MEMS)
  let steps := (upTo 6).foldl (fun (a : Tbl (Nat × Nat × Nat × Nat)) k =>
    Tbl.set (0, 0, 0, 0) (k + 1) (s.get F.BOOT_STEP_STATUS_method k, s.get F.BOOT_STEP_STATUS_outcome k,
      s.get F.BOOT_STEP_STATUS_cause k, s.get F.BOOT_STEP_TIME_value k) a) []
  let rec' : StartRecord :=
    { seq := seq, cause := s.boot.cause, attempt := s.boot.attempt, startMems := s.boot.mems, holdupUf := s.boot.holdupUf,
      steps := steps, refFallback := (prevR.map (fun q => q.refFallback)).getD 0,
      imageSel := bits (s.word Reg.BOOT_IMAGE_SEL).toNat 5 0,
      oosHbm := if learn then 0 else (prevR.map (fun q => q.oosHbm)).getD 0,
      oosDdr := if learn then 0 else (prevR.map (fun q => q.oosDdr)).getD 0,
      oosCxl := if learn then 0 else (prevR.map (fun q => q.oosCxl)).getD 0,
      lanesOut := if learn then 0 else (prevR.map (fun q => q.lanesOut)).getD 0,
      spd := (prevR.map (fun q => q.spd)).getD [] }
  let slot := match prev with | some (k, _) => (k + 1) % 64 | none => 0
  let s := { s with boot := { s.boot with record := rec', opened := true, slotIx := slot } }
  let s := s.setStep 6 0 Done.DONE (if prev.isNone then 9 else 0) r.micros.toNat
  let s := s.loadRing
  let s := s.put F.MEM_CXL_MODE_pair s.colo.cxlPair
  let s := s.each s.colo.bankCfg (fun s p => s.put F.GIO_BANK_CFG_voltage (p.2 - 1) p.1)
  let s := match s.colo.rekey with
    | some (t, b, _, _) =>
      let s := { s with sec := { s.sec with bounds := Tbl.set 0 t b s.sec.bounds } }
      let s := s.setPair Reg.SEC_ACTIVE_KEY_BOUNDARY_LO Reg.SEC_ACTIVE_KEY_BOUNDARY_HI b
      s.put F.SEC_KEY_STATUS_state V.SEC_KEY_STATUS_state_RESUME_WAIT t
    | none => s
  (s.stepOut 6).beginStep 7

/-- S07 (R76): the root locks to the start source, or falls back to the MEMS oscillator; the timebase begins at zero. -/
def State.step07 (s : State) (r : StepResult) : State :=
  let fell := !s.boot.mems && r.cause == 0x0A
  let onMems := s.boot.mems || fell
  let s := (s.put F.CLK_STATUS_root_state Root.LOCKED).put F.CLK_STATUS_active_source (if onMems then srcMems else 1536)
  let s := (s.put F.CLK_STATUS_mems_ok 1).put F.BOOT_START_STATUS_ref_fallback (b2n onMems)
  let s := { s with clk := { s.clk with timebase := 0 }, boot := { s.boot with endedS07 := true } }
  let s := s.record (fun x => { x with refFallback := if fell then Nat.min 255 (x.refFallback + 1) else 0 })
  let s := s.setStep 7 0 Done.DONE (if fell then 0x0A else 0) r.micros.toNat
  (s.stepOut 7).beginStep 8

/-! ## Images (R106 to R108) -/

/-- The first slot of an order that passes, with the cause of the first that did not. -/
def firstPass (causes : Nat → Nat) : List Nat → Nat → Option Nat × Nat
  | [], c => (none, c)
  | k :: r, c => if causes k = 0 then (some k, c) else firstPass causes r (if c = 0 then causes k else c)

/-- S08 (R100, R106, R107): firmware is taken from the first slot of its order that passes, GOLDEN last; the boot fabric
image from the planned slot, then the other. Slots are numbered as in ColoSt; an EMPTY or INVALID one fails its CRC when
no other cause is given. -/
def State.step08 (s : State) (r : StepResult) : State :=
  let cause := fun (k : Nat) =>
    let c := (r.slots[k]?).getD 0
    if c.toNat ≠ 0 then c.toNat else if (Tbl.get {} s.colo.slots k).state = 2 then 0 else 0x0B
  let pref := s.get F.BOOT_IMAGE_SEL_fw_pref
  let ab := if pref = 1 then [2, 1] else [1, 2]
  let order := if pref = V.BOOT_IMAGE_SEL_fw_pref_GOLDEN then [0] else
    (if Tbl.get 0 s.boot.plan 8 = 1 then ab.reverse else ab) ++ [0]
  let fp := s.get F.BOOT_IMAGE_SEL_fab_pref
  let fo := if fp = 1 then [4, 3] else [3, 4]
  let fo := if Tbl.get 0 s.boot.plan 9 = 2 then [] else if Tbl.get 0 s.boot.plan 9 = 1 then fo.reverse else fo
  let m := Tbl.get 0 s.boot.plan 8
  match firstPass cause order 0 with
  | (none, _) => ((s.setStep 8 m Done.FAILED 0x17 r.micros.toNat).stepOut 8).halt 8
  | (some fw, c) =>
    let fab := fo.filter (fun k => cause k == 0)
    let alt := decide (order.head? ≠ some fw)
    let c' := if c = 0 then (firstPass cause fo 0).2 else c
    let s := { s with boot := { s.boot with fwRunning := fw + 1, fabRunning := (fab.head?.map (fun k => k - 2)).getD 0, passed := fab } }
    let s := s.put F.BOOT_START_STATUS_image_alt (b2n alt)
    let s := s.record (fun x => { x with fwSlot := fw, fabSlot := s.boot.fabRunning })
    let s := s.showSlots
    let down := alt || (!fo.isEmpty && fab.head? != fo.head?)
    ((s.setStep 8 m (if down then Done.ALTERNATE else Done.DONE) c' r.micros.toNat).stepOut 8).beginStep 9

/-- Cast a START vote: the domain is ON at once (R110). -/
def State.startVote (s : State) (n : Nat) : State :=
  let s := ((s.ev F.PWR_DOMAIN_STATUS_start_vote n).domReach n 0).resolve n
  { s with boot := { s.boot with startVotes := s.boot.startVotes ++ [n] } }

/-- The sections of the boot fabric image that is being loaded. -/
def State.bootSections (s : State) : List Nat :=
  if s.boot.fabRunning = 0 then [] else bitsOf 256 (Tbl.get {} s.colo.slots (s.boot.fabRunning + 2)).sectionMap

/-- The boot fabric image fails in S09 or S10 (R96, R107, R108): its sections are cleared, and the other slot that passed
S08 is tried, or none is loaded. -/
def State.fabricFails (s : State) (n cause micros : Nat) : State :=
  let s := s.each s.bootSections (fun s k => (s.sectBlank k).setSect k Sec.EMPTY)
  let left := s.boot.passed.drop 1
  let next := (left.head?.map (fun k => k - 2)).getD 0
  let s := { s with boot := { s.boot with fabRunning := next, passed := left } }
  let s := (s.record (fun x => { x with fabSlot := next })).showSlots
  let m := Tbl.get 0 s.boot.plan n
  if next = 0 then
    let s := (s.setStep n m Done.FAILED cause micros).stepOut n
    let s := if n = 9 then s.setStep 10 m Done.SKIPPED 0 0 else s
    s.each [11, 12, 13, 14] (fun s k => s.beginStep k)
  else
    let s := (s.setStep n m Done.ALTERNATE cause micros).stepOut n
    { s with boot := { s.boot with active := s.boot.active ++ [9] } }

/-- The outcome of S09 or S10 when it completes: what an earlier try of this start left stays. -/
def State.fabricDone (s : State) (n micros : Nat) : State :=
  let m := Tbl.get 0 s.boot.plan n
  let was := s.get F.BOOT_STEP_STATUS_outcome (n - 1)
  let c := s.get F.BOOT_STEP_STATUS_cause (n - 1)
  if s.boot.fabRunning = 0 then s.setStep n m Done.SKIPPED 0 0
  else if was = Done.ALTERNATE then s.setStep n m Done.ALTERNATE c micros
  else s.setStep n m Done.DONE 0 micros

/-- S09 (R92, R154): the boot fabric image is loaded into its sections. -/
def State.step09 (s : State) (r : StepResult) : State :=
  if r.cause = 0x12 ∧ s.boot.fabRunning ≠ 0 then s.fabricFails 9 0x12 r.micros.toNat
  else
    let ns := s.bootSections
    let s := s.each ns (fun s n => (s.startVote (domSection n)).put F.FAB_SECT_STATUS_power 0 n)
    let s := s.each (r.images.filter (fun g => ns.contains g.sect.toNat)) (fun s g => s.sectWrite g)
    let s := s.each ns (fun s n => s.setSect n Sec.LOADED)
    let s := (s.fabricDone 9 r.micros.toNat).stepOut 9
    s.beginStep 10

/-- S10 (R108): the configuration read back agrees with the image. -/
def State.step10 (s : State) (r : StepResult) : State :=
  if r.cause = 0x13 ∧ s.boot.fabRunning ≠ 0 then s.fabricFails 10 0x13 r.micros.toNat
  else
    let s := (s.fabricDone 10 r.micros.toNat).stepOut 10
    s.each [11, 12, 13, 14] (fun s k => s.beginStep k)

/-! ## Training (R100, R101, R404 to R407, R414, R188) -/

/-- What training of `count` units gives (R96, R100): the mask of units out of service, with the step's cause and outcome.
`out` are those left out by plan; units without stored values, or whose stored values failed last, are trained in full.
-/
def State.train (s : State) (n count out here : Nat) (r : StepResult) : Nat × State :=
  let all := 2 ^ count - 1
  let stored := Tbl.get 0 s.colo.trained n
  let again := Tbl.get 0 s.colo.retrain n
  let planned := if Tbl.get 0 s.boot.plan n = 1 then all else ((all ^^^ (stored &&& all)) ||| again) &&& all
  let run := here &&& (all ^^^ (out &&& all))
  let fell := r.stored.toNat &&& run &&& (all ^^^ (planned &&& all))
  let full := (planned &&& run) ||| fell
  let bad := r.failed.toNat &&& full
  let gone := (out &&& here &&& all) ||| bad
  let s := { s with
    colo := { s.colo with trained := Tbl.set 0 n ((stored ||| run) &&& (all ^^^ bad)) s.colo.trained,
                          retrain := Tbl.set 0 n fell s.colo.retrain },
    boot := { s.boot with full := Tbl.set 0 n full s.boot.full } }
  let s := s.when (full != 0) (fun s => s.ev F.BOOT_START_STATUS_full_training)
  let cause := if fell ≠ 0 then 0x14 else if bad ≠ 0 then 0x15 else 0
  (gone, s.setStep n (Tbl.get 0 s.boot.plan n) (if gone = 0 then Done.DONE else Done.DEGRADED) cause r.micros.toNat)

/-- S11 (R101, R419, R422). -/
def State.step11 (s : State) (r : StepResult) : State :=
  let (gone, s) := s.train 11 12 s.boot.record.oosHbm 4095 r
  let s := s.record (fun x => { x with oosHbm := gone })
  let up := (upTo 12).filter (fun k => !bit gone k)
  let s := s.each up (fun s k => (s.startVote (domHbm k)).put F.MEM_HBM_STATUS_state V.MEM_HBM_STATUS_state_IN_USE k)
  let s := s.each up (fun s k => s.put F.MEM_HBM_REPAIRS_lanes_repaired ((r.slots[k]?).getD 0).toNat k)
  let s := s.each (bitsOf 12 gone) (fun s k => s.put F.MEM_HBM_STATUS_state V.MEM_HBM_STATUS_state_OUT_OF_SERVICE k)
  let s := s.put F.MEM_FRONT_STATUS_stacks_up ((up.map (fun k => 2 ^ k)).sum)
  let s := s.put F.BOOT_OUT_OF_SERVICE_hbm gone
  match bitsOf 12 gone with
  | [] => s
  | [k] => (s.put F.MEM_FRONT_STATUS_state V.MEM_FRONT_STATUS_state_DEGRADED).put F.MEM_FRONT_STATUS_failed_stack k
  | _ => (s.put F.MEM_FRONT_STATUS_state V.MEM_FRONT_STATUS_state_FAILED).put F.CAP_STATUS_front_free 0

/-- The units of a step that are there, as a mask. -/
def hereMask (r : StepResult) : Nat :=
  (((upTo r.units.length).zip r.units).map (fun p => b2n p.2.present * 2 ^ p.1)).sum

/-- S12 (R100, R406, R407): channels, their DIMMs and spare ranks. A channel whose DIMMs changed leaves its out-of-service
state. -/
def State.step12 (s : State) (r : StepResult) : State :=
  let changed := (upTo 16).filter (fun c => match r.units[c]? with
    | some u => u.hash.toNat != Tbl.get 0 s.boot.record.spd c
    | none => false)
  let mask := (changed.map (fun c => 2 ^ c)).sum
  let out := s.boot.record.oosDdr &&& (65535 ^^^ mask)
  let s := { s with colo := { s.colo with retrain := Tbl.set 0 12 (Tbl.get 0 s.colo.retrain 12 ||| mask) s.colo.retrain } }
  let (gone, s) := s.train 12 16 out (hereMask r) r
  let note := fun (a : Tbl Nat) (c : Nat) => match r.units[c]? with
    | some u => Tbl.set 0 c u.hash.toNat a
    | none => a
  let s := s.record (fun x => { x with oosDdr := gone, spd := (upTo 16).foldl note x.spd })
  let s := s.each (upTo 16) (fun s c => match r.units[c]? with
    | none => s
    | some u =>
      if !u.present then s
      else
        let s := (s.put F.MEM_DDR_STATUS_dimms u.dimms.toNat c).put F.MEM_DDR_STATUS_speed u.speed.toNat c
        let rank := s.get F.MEM_DDR_CFG_spare_rank c
        let spare := s.on F.MEM_DDR_CFG_spare_enable c && decide (rank < u.ranks.toNat) && decide (1 < u.ranks.toNat)
        let s := (s.put F.MEM_DDR_STATUS_ranks u.ranks.toNat c).put F.MEM_DDR_STATUS_spare_reserved (b2n spare) c
        let s := s.put F.MEM_DDR_STATUS_spare (if spare then rank else 0) c
        if bit gone c then s.put F.MEM_DDR_STATUS_state V.MEM_DDR_STATUS_state_OUT_OF_SERVICE c
        else
          let s := { s with boot := { s.boot with leaves := Tbl.set 0 c u.leaves.toNat s.boot.leaves } }
          (s.startVote (domDdr c)).put F.MEM_DDR_STATUS_state V.MEM_DDR_STATUS_state_IN_USE c)
  let s := s.each [1, 2] (fun s g =>
    if (upTo 8).any (fun i => bit gone (8 * (g - 1) + i)) then
      s.each (s.groupChannels g) (fun s c => s.put F.MEM_DDR_STATUS_state V.MEM_DDR_STATUS_state_DEGRADED c)
    else s)
  s.put F.BOOT_OUT_OF_SERVICE_ddr gone

/-- S13 (R101, R414 to R416, R421, R424): ports, the mirrored pair and the member to resilver. -/
def State.step13 (s : State) (r : StepResult) : State :=
  let (gone, s) := s.train 13 3 s.boot.record.oosCxl (hereMask r) r
  let was := s.boot.record.oosCxl ||| s.colo.cxlLost
  let s := s.record (fun x => { x with oosCxl := gone })
  let pair := s.get F.MEM_CXL_MODE_pair
  let s := s.put F.MEM_CXL_MODE_pair_active pair
  let s := s.each (upTo 3) (fun s p => match r.units[p]? with
    | none => s
    | some u =>
      if !u.present then s
      else if bit gone p then s.put F.MEM_CXL_STATUS_state V.MEM_CXL_STATUS_state_OUT_OF_SERVICE p
      else
        let s := ((s.startVote (domCxl p)).put F.MEM_CXL_STATUS_state V.MEM_CXL_STATUS_state_IN_USE p).put
          F.MEM_CXL_STATUS_persistent (b2n u.persistent) p
        let s := (s.put F.MEM_CXL_STATUS_width u.width.toNat p).put F.MEM_CXL_STATUS_rate (b2n u.rate) p
        let s := s.put F.MEM_CXL_STATUS_gpf_ok_last (b2n (bit s.colo.gpfOk p)) p
        { s with boot := { s.boot with leaves := Tbl.set 0 (16 + p) u.leaves.toNat s.boot.leaves } })
  let s := match s.cxlPair with
    | none => s
    | some (a, b) =>
      let up := fun (p : Nat) => s.get F.MEM_CXL_STATUS_state p == V.MEM_CXL_STATUS_state_IN_USE
      let back := fun (p : Nat) => bit was p
      let s := if up a && up b then
          let s := (s.put F.MEM_CXL_STATUS_role V.MEM_CXL_STATUS_role_MIRROR_MEMBER a).put F.MEM_CXL_STATUS_role
            V.MEM_CXL_STATUS_role_MIRROR_MEMBER b
          let s := if back a != back b then s.ev F.MEM_CXL_STATUS_resilvering (if back a then a else b) else s
          { s with colo := { s.colo with cxlLost := 0 } }
        else if up a then s.put F.MEM_CXL_STATUS_role V.MEM_CXL_STATUS_role_MIRROR_ALONE a
        else if up b then s.put F.MEM_CXL_STATUS_role V.MEM_CXL_STATUS_role_MIRROR_ALONE b
        else s
      s
  s.put F.BOOT_OUT_OF_SERVICE_cxl gone

/-- S14 (R100, R188): lanes are calibrated; one that fails is UNAVAILABLE. -/
def State.step14 (s : State) (r : StepResult) : State :=
  let s := s.each (upTo 16) (fun s i => s.startVote (domSector i))
  let (gone, s) := s.train 14 512 s.boot.record.lanesOut (2 ^ 512 - 1) r
  let s := s.record (fun x => { x with lanesOut := gone })
  let s := s.each (bitsOf 512 gone) (fun s l => s.laneUnavailable l V.LANE_STATUS_fault_cause_CAL_FAIL)
  s.put F.BOOT_OUT_OF_SERVICE_any_lane (b2n (gone != 0))

/-- S15 (R110, R111): clusters, ring pairs and Brynust ports are ON, and the loaded sections run. -/
def State.step15 (s : State) (r : StepResult) : State :=
  let s := s.each ((upTo 16).map domCluster ++ (upTo 4).map domPair ++ (upTo 4).map domBry) (fun s n => s.startVote n)
  let s := s.each (upTo 16) (fun s i => s.clusterUp i true)
  let s := s.each (upTo 4) (fun s i => s.domEffect (domPair i) 2 0)
  let s := s.each (upTo 4) (fun s p => s.when (s.portUsed p) (fun s => s.setPort p Bry.TRAINING V.BRY_PORT_STATUS_cause_NONE))
  let s := s.each s.bootSections (fun s n => (s.sectInit n).setSect n Sec.RUNNING)
  ((s.setStep 15 0 Done.DONE 0 r.micros.toNat).stepOut 15).beginStep 16

/-! ## Service (R92, R110, R310, R392, R607) -/

/-- The slots of the deep targets (R391, R392). -/
def State.targetCaps (s : State) : State :=
  let s := s.each [1, 2] (fun s g =>
    let ls := (s.groupChannels g).map (fun c => Tbl.get 0 s.boot.leaves c)
    let m := ls.foldl Nat.min ((ls.head?).getD 0)
    s.put F.CAP_TARGET_CAP_value (Nat.min 57344 (7 * m / 16384)) g)
  let up := fun (p : Nat) => s.get F.MEM_CXL_STATUS_state p == V.MEM_CXL_STATUS_state_IN_USE
  let slots := fun (p : Nat) => if up p then Nat.min 131072 (Tbl.get 0 s.boot.leaves (16 + p) / 16384) else 0
  let pair := s.cxlPair
  let inPair := fun (p : Nat) => match pair with | some (a, b) => p == a || p == b | none => false
  let s := s.each (upTo 3) (fun s p => s.put F.CAP_TARGET_CAP_value (if inPair p then 0 else slots p) (3 + p))
  let both := match pair with
    | none => 0
    | some (a, b) => if up a && up b then Nat.min (slots a) (slots b) else Nat.max (slots a) (slots b)
  s.put F.CAP_TARGET_CAP_value both 6

/-- The contents of a quire found at a start are gone (R310, R417): in the front tier and DDR5 after POWER_ON or WAKE, on a
CXL target that is not persistent or did not complete its flush; after a start from S02, where two units of its parity
group were trained in full. -/
def State.quireGone (s : State) (cold : Bool) (x : Quire) : Bool :=
  let ports := if x.target = 6 then (match s.cxlPair with | some (a, b) => [a, b] | none => []) else [x.target - 3]
  let live := ports.filter (fun p => s.get F.MEM_CXL_STATUS_state p == V.MEM_CXL_STATUS_state_IN_USE)
  if cold then
    if x.target < 3 then true
    else live.isEmpty || x.state == Qr.OPEN || ports.any (fun p => !s.on F.MEM_CXL_STATUS_persistent p || !bit s.colo.gpfOk p)
  else
    let hbm := Tbl.get 0 s.boot.full 11 ||| s.boot.record.oosHbm
    let ddr := Tbl.get 0 s.boot.full 12 ||| s.boot.record.oosDdr
    if x.target = 0 then decide (2 ≤ popCount 12 hbm)
    else if x.target ≤ 2 then decide (2 ≤ popCount 8 (ddr / 2 ^ (8 * (x.target - 1))))
    else if x.target ≤ 6 then live.isEmpty
    else false

/-- A quire record found at a start takes its place (R297, R310): one that was OPEN is sealed with TRUNCATED, a copy in
progress is abandoned, and one whose release had begun is FREE. -/
def State.quireFound (s : State) (cold : Bool) (used : List (BitVec 19 × BitVec 15)) (q : Nat) (x : Quire) : State :=
  if x.state = Qr.FREE ∨ x.state = Qr.RELEASING then
    { s with cap := { s.cap with quires := Tbl.set {} q { counter := x.counter } s.cap.quires } }
  else
    let live := (s.quire q).leaves
    let leaves := if (s.quire q).counter = x.counter then live else []
    let n := match used.find? (fun p => p.1.toNat == q) with | some p => p.2.toNat | none => x.used
    let y : Quire := { x with copy := none, leaves := leaves }
    let y := if x.state = Qr.OPEN then
        { y with state := Qr.SEALED, flags := y.flags ||| 4, used := n, written := n,
                 leaves := leaves.filter (fun p => decide (p.1 < n)), digest := Config.keyValue 1 q % 2 ^ 64 }
      else if x.state = Qr.DRAINING then { y with state := Qr.SEALED } else y
    let s := s.setQuire q y
    let s := if y.target = 0 then
        let s := { s with cap := { s.cap with frontUsed := Tbl.set 0 y.slot (q + 1) s.cap.frontUsed } }
        let s := s.put F.CAP_STATUS_front_free (s.frontFree - 1)
        s.cnt F.CAP_USE_FRONT_value 1 y.tenant
      else if y.target < 7 then
        let s := { s with cap := { s.cap with deepUsed := Tbl.set 0 (y.target * 2 ^ 20 + y.slot) (q + 1) s.cap.deepUsed } }
        (s.cnt F.CAP_TARGET_USED_value 1 y.target).cnt F.CAP_USE_DEEP_value 1 y.tenant
      else s
    if y.state ≠ Qr.LOST ∧ s.quireGone cold x then s.loseQuire q (b2n cold) else s

/-- A seal slot that cannot be read (R607): rebuilt from the quire, or the quire is spent. -/
def State.sealBad (s : State) (q : Nat) (rebuilt : Bool) : State :=
  let x := Tbl.get {} s.cap.seals q
  if rebuilt then (s.ev F.RAS_EVENTS_seal_rebuilt).log 0xD2 1 x.target [q]
  else
    let s := { s with cap := { s.cap with seals := Tbl.set {} q { counter := 0xFFFFFFFF } s.cap.seals } }
    (s.log 0xD0 3 x.target [q, 0, 0, 2]).cnt F.SEC_SPENT_QUIRES_value

/-- Close the streams a stop or restart ended (R310). -/
def State.closeStreams (s : State) (cause : Nat) : State :=
  s.each (s.cap.streams.map (fun p => p.1)) (fun s n =>
    let x := s.strm n
    let st := s.strmState n
    let s := s.setStrm n { quires := x.quires, sector := x.sector, coding := x.coding, ltype := x.ltype,
                           ringStopped := x.ringStopped, index := x.index, seq := x.seq, post := x.post }
    if st = Strm.ACTIVE ∨ st = Strm.WAITING ∨ st = Strm.STOPPING then
      (s.setStrmState n Strm.CLOSED).put F.CAP_STREAM_STATUS_end_cause cause n
    else s)

/-- The front quires that join the drain queue again, in order of their last timestamps, ties by stream (R310). -/
def State.drainAgain (s : State) : State :=
  let ok := fun (x : Quire) => x.state == Qr.SEALED && x.target == 0 && decide (s.strmState x.stream = Strm.CLOSED) &&
    s.get F.CAP_STREAM_STATUS_tier x.stream == V.CAP_STREAM_STATUS_tier_FRONT_DEEP &&
    (s.get F.CAP_STREAM_STATUS_mode x.stream != V.CAP_STREAM_STATUS_mode_WINDOW || (s.strm x.stream).ringStopped)
  let qs := (s.cap.quires.filter (fun p => ok p.2)).map (fun p => p.1)
  let key := fun (q : Nat) => [(s.quire q).last, (s.quire q).stream]
  let sorted := qs.foldl (fun (acc : List Nat) q =>
    acc.takeWhile (fun r => !keyLt (key q) (key r)) ++ q :: acc.dropWhile (fun r => !keyLt (key q) (key r))) []
  ({ s with cap := { s.cap with drain := sorted } }).drainCount

/-- The quire table is rebuilt from the seal slots (R310, R605, R607). -/
def State.rebuild (s : State) (r : StepResult) : State :=
  let cold := s.boot.cause == Start.POWER_ON || s.boot.cause == Start.WAKE
  let s := if cold then s else s.each s.cap.sealPending (fun s q => s.copyDiffer 1 q 0)
  let s := { s with cap := { s.cap with sealPending := [], drain := [], waitList := [], frontUsed := [], deepUsed := [] } }
  let s := s.each r.badSeals (fun s p => s.sealBad p.1.toNat p.2)
  let s := s.closeStreams (if cold then V.CAP_STREAM_STATUS_end_cause_POWER_LOSS else V.CAP_STREAM_STATUS_end_cause_RESTART)
  let s := { s with cap := { s.cap with quires := s.cap.quires.filter (fun p => s.cap.seals.any (fun z => z.1 == p.1)) } }
  let s := s.each s.cap.seals (fun s p => s.quireFound cold r.quires p.1 p.2)
  s.drainAgain

/-- START votes become T000's (R110, R620). -/
def State.votesPass (s : State) : State :=
  let ns := s.boot.startVotes
  let s := s.each ns (fun s n => ((s.clr F.PWR_DOMAIN_STATUS_start_vote n).put F.PWR_DOMAIN_STATUS_owner 0 n).resolve n)
  { s with boot := { s.boot with startVotes := [] } }

/-- S16 (R92, R110, R310): the record is closed and the device is in service. -/
def State.step16 (s : State) (r : StepResult) : State :=
  let s := (s.targetCaps.rebuild r).votesPass
  let s := s.put F.OBS_FOL_ENTRIES_value folCount
  let bad := s.word Reg.BOOT_OUT_OF_SERVICE != 0
  let o := if bad then V.BOOT_START_STATUS_outcome_READY_DEGRADED else V.BOOT_START_STATUS_outcome_READY
  let s := (s.setStep 16 0 Done.DONE 0 r.micros.toNat).stepOut 16
  let s := (s.put F.BOOT_START_STATUS_outcome o).record (fun x => { x with outcome := o })
  ({ s with boot := { s.boot with ready := true } }).recast

/-- Once S11 to S14 have all ended, S15 begins (R92). -/
def State.afterTraining (s : State) (n : Nat) : State :=
  let s := s.stepOut n
  if [11, 12, 13, 14].any (fun k => s.boot.active.contains k) then s else s.beginStep 15

/-- START_STEP_DONE (R92): a step that is running ends with what its work gave. -/
def execStartStepDone (step : BitVec 5) (r : StepResult) (s : State) : Host.Outcome State Fault Refusal :=
  if s.dead || !s.boot.active.contains step.toNat then .next s
  else match step.toNat with
    | 1 => .next (s.step01 r)
    | 2 => .next (s.step02 r)
    | 3 => .next (if s.hostless || s.on F.HIF_LINK_STATUS_perst_n then s.step03 r else s)
    | 4 => .next (s.step04 r)
    | 5 => .next (s.step05 r)
    | 6 => .next (s.step06 r)
    | 7 => .next (s.step07 r)
    | 8 => .next (s.step08 r)
    | 9 => .next (s.step09 r)
    | 10 => .next (s.step10 r)
    | 11 => .next ((s.step11 r).afterTraining 11)
    | 12 => .next ((s.step12 r).afterTraining 12)
    | 13 => .next ((s.step13 r).afterTraining 13)
    | 14 => .next ((s.step14 r).afterTraining 14)
    | 15 => .next (s.step15 r)
    | _ => .next (s.step16 r)

/-! ## What begins and ends a start (R88 to R92, R99) -/

/-- STEP_TIMEOUT (R92, R96, R99): a step, other than S03, overruns its maximum time. -/
def execStepTimeout (step : BitVec 5) (s : State) : Host.Outcome State Fault Refusal :=
  let n := step.toNat
  if s.dead || n == 3 || !s.boot.active.contains n then .next s
  else .next ((s.setStep n (Tbl.get 0 s.boot.plan n) Done.FAILED 0x16 0).autoRestart n)

/-- MGMT_WATCHDOG_EXPIRY (R88, R99): the management firmware's watchdog expires before S16. -/
def execMgmtWatchdogExpiry (s : State) : Host.Outcome State Fault Refusal :=
  if s.dead || s.boot.ready || s.boot.halted then .next s
  else .next (s.autoRestart (s.get F.BOOT_START_STATUS_step))

/-- RESET_PIN (R88, R89): RESET_N is released after at least 1 µs low. It is ignored during the power-loss sequence (R612),
and in OFF, where no rail is on. -/
def execResetPin (s : State) : Host.Outcome State Fault Refusal :=
  .next (if s.dead then s else s.start 2 Start.RESET_PIN)

/-- LINK_TIMEOUT (R92): the host link is not up within 20 ms. -/
def execLinkTimeout (s : State) : Host.Outcome State Fault Refusal :=
  if s.dead || !s.boot.active.contains 3 || !s.on F.HIF_LINK_STATUS_perst_n then .next s
  else
    let s := (s.setStep 3 0 Done.FAILED 5 0).stepOut 3
    .next { s with boot := { s.boot with endedS03 := true } }

/-- LINK_TRAIN_RETRY (R92): training of a host link that is not up is tried again; `up` says that it came up. -/
def execLinkTrainRetry (up : Bool) (rate : BitVec 4) (width : BitVec 7) (flit : Bool) (s : State) :
    Host.Outcome State Fault Refusal :=
  if s.dead || s.hostless || !s.boot.endedS03 || !s.on F.HIF_LINK_STATUS_perst_n ||
      s.get F.HIF_LINK_STATUS_state == V.HIF_LINK_STATUS_state_UP then .next s
  else if up then .next (s.linkUp rate.toNat width.toNat flit)
  else .next (s.put F.HIF_LINK_STATUS_state V.HIF_LINK_STATUS_state_TRAINING)

/-! ## Start registers (R90, R102, R109, R114, R116) -/

/-- Raise the fused rollback minimum to the running firmware's version (R109). -/
def State.commitRollback (s : State) : State :=
  let slot := s.boot.fwRunning - 1
  let v := (Tbl.get {} s.colo.slots slot).rollback
  if slot = 0 then s.ev F.BOOT_EVENTS_rollback_refused
  else if v ≤ s.colo.fuseRollback then s
  else
    let s := { s with colo := { s.colo with fuseRollback := v } }
    (s.put F.BOOT_ROLLBACK_MIN_value v).ev F.BOOT_EVENTS_rollback_committed

/-- A write of BOOT.CTRL (R90, R100, R109, R114): one whose restart is refused has no other effect. -/
def State.writeBootCtrl (s : State) (p : Path) (v : Word) : State × Nat :=
  s.guardWrite p Reg.BOOT_CTRL 0 0 0 v false (fun s =>
    if bit v.toNat 3 && !(bits v.toNat 31 16 == 0x5140 && !s.someLane (fun _ => true)) then
      (s.ev F.BOOT_EVENTS_restart_refused, St.OK)
    else
      let s := s.when (bit v.toNat 6) (fun s => s.ev F.BOOT_CTRL_clear_learned)
      let s := s.when (bit v.toNat 7 && s.boot.ready) State.commitRollback
      (s.when (bit v.toNat 3) (fun s => s.start 2 Start.OWNER_RESTART), St.OK))

/-- OWNER_RESTART (R88, R90): a write of BOOT.CTRL with restart and a key. -/
def execOwnerRestart (p : Path) (key : BitVec 16) (s : State) : Host.Outcome State Fault Refusal :=
  .next (s.writeBootCtrl p (BitVec.ofNat 32 (key.toNat * 65536 + 8))).1

/-- COMMIT_ROLLBACK (R109): a write of BOOT.CTRL with commit_rollback. -/
def execCommitRollback (p : Path) (s : State) : Host.Outcome State Fault Refusal := .next (s.writeBootCtrl p 0x80#32).1

/-- CLEAR_LEARNED (R100, R114): a write of BOOT.CTRL with clear_learned. -/
def execClearLearned (p : Path) (s : State) : Host.Outcome State Fault Refusal := .next (s.writeBootCtrl p 0x40#32).1

/-- A write of BOOT.IMAGE_SEL (R116): also written into the present start's record. -/
def State.writeImageSel (s : State) (p : Path) (v : Word) : State × Nat :=
  s.guardWrite p Reg.BOOT_IMAGE_SEL 0 0 0 v false (fun s =>
    let s := s.applyWrite p Reg.BOOT_IMAGE_SEL 0 0 0 v
    (s.record (fun r => { r with imageSel := bits (s.word Reg.BOOT_IMAGE_SEL).toNat 5 0 }), St.OK))

/-- IMAGE_SEL_WRITE (R116). -/
def execImageSelWrite (p : Path) (v : Word) (s : State) : Host.Outcome State Fault Refusal := .next (s.writeImageSel p v).1

end Sys2Proof.Machine
end

