-- ==== Sys2Proof/Machine/Hash.lean ====
section
/-! DEFINITION. Machine/Hash.lean: SHA-256, which R648 names for the password slots, and the bit-serial checks of the
debug port (R643). -/
namespace Sys2Proof.Machine

/-- A remainder over bits taken in order, with the top bit of the register out first. -/
def crcBits (width poly : Nat) (bs : List Bool) : Nat :=
  bs.foldl (fun c b =>
    let out := bit c (width - 1) != b
    (c * 2 % 2 ^ width) ^^^ (if out then poly else 0)) 0

/-- The `n` low bits of a number, least significant first: the order in which the port sends a field (R643). -/
def sentBits (n v : Nat) : List Bool := (upTo n).map (fun i => bit v i)

/-- CRC-4 over bits [7:0] of a port command (R643). -/
def crc4 (v : Nat) : Nat := crcBits 4 3 (sentBits 8 v)

/-- CRC-8 over the 32 data bits (R643). -/
def crc8 (v : Nat) : Nat := crcBits 8 7 (sentBits 32 v)

/-! ## SHA-256 (FIPS 180-4) -/

/-- Rotate a 32-bit word right. -/
def rotr (n x : Nat) : Nat := (x >>> n) ||| (x * 2 ^ (32 - n) % 2 ^ 32)

/-- The round constants. -/
def shaK : List Nat :=
  [0x428a2f98, 0x71374491, 0xb5c0fbcf, 0xe9b5dba5, 0x3956c25b, 0x59f111f1, 0x923f82a4, 0xab1c5ed5,
   0xd807aa98, 0x12835b01, 0x243185be, 0x550c7dc3, 0x72be5d74, 0x80deb1fe, 0x9bdc06a7, 0xc19bf174,
   0xe49b69c1, 0xefbe4786, 0x0fc19dc6, 0x240ca1cc, 0x2de92c6f, 0x4a7484aa, 0x5cb0a9dc, 0x76f988da,
   0x983e5152, 0xa831c66d, 0xb00327c8, 0xbf597fc7, 0xc6e00bf3, 0xd5a79147, 0x06ca6351, 0x14292967] ++
  [0x27b70a85, 0x2e1b2138, 0x4d2c6dfc, 0x53380d13, 0x650a7354, 0x766a0abb, 0x81c2c92e, 0x92722c85,
   0xa2bfe8a1, 0xa81a664b, 0xc24b8b70, 0xc76c51a3, 0xd192e819, 0xd6990624, 0xf40e3585, 0x106aa070,
   0x19a4c116, 0x1e376c08, 0x2748774c, 0x34b0bcb5, 0x391c0cb3, 0x4ed8aa4a, 0x5b9cca4f, 0x682e6ff3,
   0x748f82ee, 0x78a5636f, 0x84c87814, 0x8cc70208, 0x90befffa, 0xa4506ceb, 0xbef9a3f7, 0xc67178f2]

/-- The message schedule, from the newest word back: `n` words still to come. -/
def shaSchedule : Nat → List Nat → List Nat
  | 0, w => w
  | n + 1, w =>
    let x := w.getD 1 0
    let y := w.getD 14 0
    let s1 := rotr 17 x ^^^ rotr 19 x ^^^ (x >>> 10)
    let s0 := rotr 7 y ^^^ rotr 18 y ^^^ (y >>> 3)
    shaSchedule n ((w.getD 15 0 + s0 + w.getD 6 0 + s1) % 2 ^ 32 :: w)

/-- The working variables a to h. -/
structure Sha where
  a : Nat
  b : Nat
  c : Nat
  d : Nat
  e : Nat
  f : Nat
  g : Nat
  h : Nat

/-- One round with its constant and its word. -/
def shaRound (v : Sha) (kw : Nat × Nat) : Sha :=
  let t1 := v.h + (rotr 6 v.e ^^^ rotr 11 v.e ^^^ rotr 25 v.e) + ((v.e &&& v.f) ^^^ ((v.e ^^^ 0xFFFFFFFF) &&& v.g)) + kw.1 + kw.2
  let t2 := (rotr 2 v.a ^^^ rotr 13 v.a ^^^ rotr 22 v.a) + ((v.a &&& v.b) ^^^ (v.a &&& v.c) ^^^ (v.b &&& v.c))
  { a := (t1 + t2) % 2 ^ 32, b := v.a, c := v.b, d := v.c, e := (v.d + t1) % 2 ^ 32, f := v.e, g := v.f, h := v.g }

/-- The 16 words of a block of 64 bytes, most significant byte first. -/
def shaWords (bs : List Nat) : List Nat :=
  (upTo 16).map (fun i => natOf ((bs.drop (4 * i)).take 4).reverse)

/-- One block. -/
def shaBlock (v : Sha) (bs : List Nat) : Sha :=
  let w := (shaSchedule 48 (shaWords bs).reverse).reverse
  let r := (shaK.zip w).foldl shaRound v
  { a := (v.a + r.a) % 2 ^ 32, b := (v.b + r.b) % 2 ^ 32, c := (v.c + r.c) % 2 ^ 32, d := (v.d + r.d) % 2 ^ 32,
    e := (v.e + r.e) % 2 ^ 32, f := (v.f + r.f) % 2 ^ 32, g := (v.g + r.g) % 2 ^ 32, h := (v.h + r.h) % 2 ^ 32 }

/-- `n` blocks. -/
def shaBlocks : Nat → Sha → List Nat → Sha
  | 0, v, _ => v
  | n + 1, v, bs => shaBlocks n (shaBlock v (bs.take 64)) (bs.drop 64)

/-- The 32 bytes of the SHA-256 of bytes. -/
def sha256 (bs : List Nat) : List Nat :=
  let n := bs.length
  let blocks := (n + 9 + 63) / 64
  let m := bs ++ 0x80 :: List.replicate (64 * blocks - 9 - n) 0 ++ (natBytes 8 (8 * n)).reverse
  let v := shaBlocks blocks
    { a := 0x6a09e667, b := 0xbb67ae85, c := 0x3c6ef372, d := 0xa54ff53a, e := 0x510e527f, f := 0x9b05688c,
      g := 0x1f83d9ab, h := 0x5be0cd19 } m
  [v.a, v.b, v.c, v.d, v.e, v.f, v.g, v.h].flatMap (fun w => (natBytes 4 w).reverse)

end Sys2Proof.Machine
end

