-- ==== Sys2Proof/Machine/DebugCtl.lean ====
section
/-! DEFINITION. Machine/DebugCtl.lean: sessions, halts, groups, comparators and power holds (spec/25, R648 to R663). -/
namespace Sys2Proof.Machine

/-! ## Sessions and scopes (R648, R651) -/

/-- The path of the open session: 0 none, 1 the two-wire port, 2 the monitor (R660). -/
def State.session (s : State) : Nat := s.get F.DBG_STATUS_session

/-- The session's scope is the device. -/
def State.scopeAll (s : State) : Bool := s.get F.DBG_STATUS_scope == V.DBG_STATUS_scope_DEVICE

/-- The tenant of the scope: T000 for OWNER (R648). -/
def State.scopeTenant (s : State) : Nat := s.get F.DBG_STATUS_tenant

/-- The holder of a controlled unit (R651): kind 0 CORE, 1 SECTION, 2 PRESS, 3 SWF. -/
def State.dbgHolder (s : State) (kind ix : Nat) : Nat :=
  match kind with
  | 0 => s.coreHolder ix
  | 1 => s.sectHolder ix
  | 2 => s.get F.LANE_STATUS_holder ix
  | _ => ix

/-- The session may act on a unit (R651). -/
def State.inScope (s : State) (kind ix : Nat) : Bool :=
  s.session != 0 && (s.scopeAll || s.dbgHolder kind ix == s.scopeTenant)

/-! ## Halts (R651 to R654) -/

/-- A unit can be halted: a core that runs or waits, a RUNNING section, a press with a program under way (R651, R653). -/
def State.haltable (s : State) (kind ix : Nat) : Bool :=
  match kind with
  | 0 => decide (ix < 256) && (s.coreState ix == Core.RUNNING || s.coreState ix == Core.WAITING || s.coreState ix == Core.HALTED)
  | 1 => decide (ix < 256) && s.sect ix == Sec.RUNNING
  | 2 => decide (ix < 512) && s.prsBusy ix
  | _ => decide (ix < 256)

/-- The session has stopped a unit. -/
def State.unitStopped (s : State) (kind ix : Nat) : Bool :=
  s.haltedBy kind ix &&
    (match kind with
     | 0 => s.coreState ix == Core.HALTED
     | 2 => s.prsState ix == Prs.FROZEN
     | _ => true)

/-- Ask a unit to halt, for a group or on its own (8): a core in WAITING halts at once (R651). -/
def State.askHalt (s : State) (kind ix by' : Nat) : State :=
  let frozen := (kind == 0 && s.coreState ix == Core.HALTED) || (kind == 2 && s.prsState ix == Prs.FROZEN)
  if !s.haltable kind ix || frozen || s.unitStopped kind ix then s
  else if kind == 0 && s.coreState ix == Core.WAITING then s.haltCore ix by'
  else if s.dbg.asked.any (fun a => a.1 == kind && a.2.1 == ix) then s
  else { s with dbg := { s.dbg with asked := s.dbg.asked ++ [(kind, ix, by')] } }

/-- A unit goes on (R653, R366): a core from its resume point, a press from the instruction at which it froze. -/
def State.releaseUnit (s : State) (kind ix : Nat) : State :=
  let was := s.unitStopped kind ix
  let other := fun (h : Nat × Nat × Nat) => !(h.1 == kind && h.2.1 == ix)
  let s := { s with dbg := { s.dbg with asked := s.dbg.asked.filter other, stopped := s.dbg.stopped.filter other } }
  if !was then s
  else match kind with
    | 0 => s.setCoreState ix (s.core ix).before
    | 2 => s.pressUnfreeze ix
    | _ => s

/-- HALT_TAKES_EFFECT (R651, R653): a unit asked to halt reaches its effect point: a core a takeable boundary, a sects
clocks their falling edges, a press a unit boundary, a tenant's ops the next decision. -/
def execHaltTakesEffect (kind : BitVec 2) (index : BitVec 10) (s : State) : Host.Outcome State Fault Refusal :=
  let k := kind.toNat
  let ix := index.toNat
  match s.dbg.asked.find? (fun a => a.1 == k && a.2.1 == ix) with
  | none => .next s
  | some (_, _, by') =>
    let drop := { s with dbg := { s.dbg with asked := s.dbg.asked.filter (fun a => !(a.1 == k && a.2.1 == ix)) } }
    let x := s.core ix
    if !s.haltable k ix then .next drop
    else match kind.toNat with
      | 0 => .next (if s.coreState ix = Core.WAITING ∨ (s.coreState ix = Core.RUNNING ∧ !x.hold ∧ x.slots = 0 ∧ x.rep = 0)
          then s.haltCore ix by' else s)
      | 2 => .next ((s.pressFreeze ix).markHalt 2 ix by')
      | _ => .next (s.markHalt k ix by')

/-- Raise a halt event in a group at a time (R654). -/
def State.raiseHalt (s : State) (g t : Nat) : State := { s with dbg := { s.dbg with halts := s.dbg.halts ++ [(g, t)] } }

/-- HALT_EVENT (R654): the earliest halt event of a group reaches its members, those of the same cycle with it; the output
line carries an event 160 ns later. -/
def execHaltEvent (group : BitVec 3) (s : State) : Host.Outcome State Fault Refusal :=
  let g := group.toNat
  match ((s.dbg.halts.filter (fun h => h.1 == g)).map (fun h => h.2)).min? with
  | none => .next s
  | some t =>
    let s := { s with dbg := { s.dbg with halts := s.dbg.halts.filter (fun h => !(h.1 == g && h.2 / 32 == t / 32)) } }
    let s := s.advanceTo t
    if s.session = 0 then .next s
    else
      let s := s.ev F.DBG_EVENTS_halt_event
      let s := s.each (s.dbg.groups.filter (fun m => m.2.2 == g && s.inScope m.1 m.2.1)) (fun s m => s.askHalt m.1 m.2.1 g)
      .next (s.when (s.on F.DBG_GROUP_CFG_out_en g)
        (fun s => s.lineDrive (s.get F.DBG_GROUP_CFG_out_line g) (t + triggerLatency)))

/-- DBG_BRK (R654): a running sects fabric output reaches the sects group. -/
def execDbgBrk (n : BitVec 8) (s : State) : Host.Outcome State Fault Refusal :=
  let i := n.toNat
  match s.groupOf 1 i with
  | some g => .next (if s.sect i = Sec.RUNNING then s.raiseHalt g s.now else s)
  | none => .next s

/-- Record the result of DBG.HALT_CMD (R661). -/
def State.haltResult (s : State) (r : Nat) : State := s.put F.DBG_HALT_CMD_result r

/-- An action of DBG.HALT_CMD on a unit: 0 STOP, 1 RESUME, 2 JOIN, 3 LEAVE (R651, R653, R654). -/
def State.haltUnit (s : State) (action kind ix join : Nat) : State :=
  if !s.inScope kind ix then s.haltResult V.DBG_HALT_CMD_result_SCOPE
  else match action with
    | 0 =>
      if !s.haltable kind ix then s.haltResult V.DBG_HALT_CMD_result_NOT_HALTABLE
      else (s.askHalt kind ix 8).haltResult V.DBG_HALT_CMD_result_DONE
    | 1 => (s.releaseUnit kind ix).haltResult V.DBG_HALT_CMD_result_DONE
    | 2 =>
      if (if kind = 2 then 512 else 256) ≤ ix then s.haltResult V.DBG_HALT_CMD_result_NOT_HALTABLE
      else if (s.groupOf kind ix).isSome then s.haltResult V.DBG_HALT_CMD_result_IN_GROUP
      else ({ s with dbg := { s.dbg with groups := s.dbg.groups ++ [(kind, ix, join)] } }).haltResult
        V.DBG_HALT_CMD_result_DONE
    | _ =>
      ({ s with dbg := { s.dbg with groups := s.dbg.groups.filter (fun m => !(m.1 == kind && m.2.1 == ix)) } }).haltResult
        V.DBG_HALT_CMD_result_DONE

/-- The members a group has asked or stopped go on (R654). -/
def State.resumeGroup (s : State) (g : Nat) : State :=
  let mine := (s.dbg.stopped ++ s.dbg.asked).filter (fun h => h.2.2 == g)
  s.each mine (fun s h => s.releaseUnit h.1 h.2.1)

/-- An action of DBG.HALT_CMD on a group (R654, R661): JOIN names no unit and does nothing, LEAVE empties it. -/
def State.haltGroup (s : State) (action g : Nat) : State :=
  let s := match action with
    | 0 => s.raiseHalt g s.now
    | 1 => s.resumeGroup g
    | 2 => s
    | _ => { s with dbg := { s.dbg with groups := s.dbg.groups.filter (fun m => m.2.2 != g) } }
  s.haltResult V.DBG_HALT_CMD_result_DONE

/-- A write of DBG.HALT_CMD (R661) by the session. -/
def State.writeHaltCmd (s : State) (v : Word) : State × Nat :=
  if s.session = 0 then (s, St.REFUSED_NOT_OWNER)
  else s.guardWrite .debugger Reg.DBG_HALT_CMD 0 0 0 v false (fun s =>
    let s := (s.applyWrite .debugger Reg.DBG_HALT_CMD 0 0 0 v).put F.DBG_HALT_CMD_go 0
    let x := v.toNat
    if !bit x 31 then (s, St.OK)
    else if bit x 28 then (s.haltGroup (bits x 30 29) (bits x 2 0), St.OK)
    else (s.haltUnit (bits x 30 29) (bits x 27 26) (bits x 9 0) (bits x 25 23), St.OK))

/-- A word of DBG.HALT_CMD with go set and an action. -/
def haltWord (v : Word) (action : Nat) : Word := BitVec.ofNat 32 (putBits (v.toNat ||| 2 ^ 31) 30 29 action)

/-- HALT_STOP (R651, R654): HALT_CMD with action STOP. -/
def execHaltStop (v : Word) (s : State) : Host.Outcome State Fault Refusal := .next (s.writeHaltCmd (haltWord v 0)).1

/-- HALT_RESUME (R653, R654): HALT_CMD with action RESUME. -/
def execHaltResume (v : Word) (s : State) : Host.Outcome State Fault Refusal := .next (s.writeHaltCmd (haltWord v 1)).1

/-- HALT_JOIN (R654): HALT_CMD with action JOIN. -/
def execHaltJoin (v : Word) (s : State) : Host.Outcome State Fault Refusal := .next (s.writeHaltCmd (haltWord v 2)).1

/-- HALT_LEAVE (R654): HALT_CMD with action LEAVE. -/
def execHaltLeave (v : Word) (s : State) : Host.Outcome State Fault Refusal := .next (s.writeHaltCmd (haltWord v 3)).1

/-! ## Power holds (R657) -/

/-- A domain that an entry of DBG.POWER_HOLD, or a write of one, no longer names loses its TEST vote, with lowering deferred
(R619, R621). -/
def State.testEnds (s : State) (n : Nat) : State :=
  if !s.on F.PWR_DOMAIN_STATUS_test_vote n ||
      (upTo 16).any (fun k => s.on F.DBG_POWER_HOLD_enable k && s.get F.DBG_POWER_HOLD_domain k == n) then s
  else (s.clr F.PWR_DOMAIN_STATUS_test_vote n).voteEnds n

/-- A write of DBG.POWER_HOLDn (R657): the TEST vote of its domain. -/
def State.writePowerHold (s : State) (k : Nat) (v : Word) : State × Nat :=
  if s.session = 0 then (s, St.REFUSED_NOT_OWNER)
  else s.guardWrite .debugger Reg.DBG_POWER_HOLD k 0 0 v (decide (470 < bits v.toNat 8 0)) (fun s =>
    let n := bits v.toNat 8 0
    let on := bit v.toNat 31
    if !s.scopeAll && !s.holdsIn s.scopeTenant n then (s.haltResult V.DBG_HALT_CMD_result_SCOPE, St.REFUSED_NOT_OWNER)
    else
      let old := s.get F.DBG_POWER_HOLD_domain k
      let s := (s.applyWrite .debugger Reg.DBG_POWER_HOLD k 0 0 v).testEnds old
      (s.when on (fun s => ((s.ev F.PWR_DOMAIN_STATUS_test_vote n).resolve n).drive n), St.OK))

/-- POWER_HOLD_WRITE (R657): a write of DBG.POWER_HOLDn. -/
def execPowerHoldWrite (n : BitVec 4) (v : Word) (s : State) : Host.Outcome State Fault Refusal :=
  .next (s.writePowerHold n.toNat v).1

/-! ## The end of a session (R650) -/

/-- A session ends: its halts, freezes and holds are released, its comparators disabled, its groups emptied, its TEST votes
withdrawn. -/
def State.endSession (s : State) : State :=
  if s.session = 0 then s
  else
    let s := s.each (s.dbg.stopped ++ s.dbg.asked) (fun s h => s.releaseUnit h.1 h.2.1)
    let s := { s with dbg := { s.dbg with groups := [], asked := [], stopped := [], halts := [], compCount := [], compArmed := [] } }
    let s := s.each (upTo 32) (fun s n => s.clr F.DBG_COMP_CFG_enable n)
    let held := ((upTo 16).filter (fun k => s.on F.DBG_POWER_HOLD_enable k)).map (fun k => s.get F.DBG_POWER_HOLD_domain k)
    let s := s.each (upTo 16) (fun s k => s.clr F.DBG_POWER_HOLD_enable k)
    let s := s.each held (fun s n => s.testEnds n)
    (s.setWord Reg.DBG_STATUS 0).ev F.DBG_EVENTS_session_ended

/-- SESSION_TIMEOUT (R650): session_timeout has passed since the last port transaction. -/
def execSessionTimeout (s : State) : Host.Outcome State Fault Refusal :=
  if s.session = 0 then .next s
  else .next (s.advanceTo (s.dbg.lastPort + 64000000 * s.get F.DBG_CTRL_session_timeout)).endSession

/-! ## Authorisation (R648, R649) -/

/-- Set DBG.AUTH_CMD.result (R661). -/
def State.authResult (s : State) (r : Nat) : State := s.put F.DBG_AUTH_CMD_result r

/-- The bytes of words `a` to `b - 1` of DBG.AUTH_DATA, each word's least significant byte first. -/
def State.authBytes (s : State) (a b : Nat) : List Nat :=
  ((upTo (b - a)).map (· + a)).flatMap (fun n => natBytes 4 (s.get F.DBG_AUTH_DATA_value n))

/-- The bytes of the identity word (R1). -/
abbrev identityBytes : List Nat := natBytes 4 Config.identity.toNat

/-- The digest of an enabled password slot that names a tenant equals a hash (R648, R659). -/
def State.slotMatches (s : State) (t : Nat) (h : List Nat) : Bool :=
  (upTo 16).any (fun k => s.on F.DBG_PWD_TENANT_enable k && s.get F.DBG_PWD_TENANT_tenant k == t &&
    (upTo 8).flatMap (fun i => natBytes 4 (s.get F.DBG_PWD_DIGEST_value k i)) == h)

/-- The check of a response (R648, R649): method 0 KROVVIA, 1 PASSWORD; scope 0 DEVICE, 1 OWNER, 2 TENANT. -/
def State.authGood (s : State) (method scope t : Nat) : Bool :=
  if method = 0 then
    let r := s.authBytes 8 57
    ((r.drop 97).take 3).all (fun b => b == 0) &&
      Config.krovvia r (identityBytes ++ s.authBytes 0 8 ++ [scope, t])
  else
    let n := s.get F.DBG_AUTH_DATA_value 8
    !s.on F.DBG_CTRL_pwd_disable && scope != 0 && decide (8 ≤ n) && decide (n ≤ 64) &&
      s.slotMatches t (sha256 (identityBytes ++ t :: (s.authBytes 9 25).take n))

/-- Op OPEN on a path (R648, R649). -/
def State.authOpen (s : State) (path method scope t : Nat) : State :=
  if s.on F.DBG_CTRL_debug_disable then s.authResult V.DBG_AUTH_CMD_result_DISABLED
  else if s.session ≠ 0 then s.authResult V.DBG_AUTH_CMD_result_BUSY
  else if s.now < Tbl.get 0 s.dbg.lock path then s.authResult V.DBG_AUTH_CMD_result_LOCKED
  else
    let s := s.each (upTo 8) (fun s n =>
      let (v, s) := s.fresh
      s.setWord Reg.DBG_AUTH_DATA (BitVec.ofNat 32 v) n)
    let t := if scope = 2 then t else 0
    ({ s with dbg := { s.dbg with nonce := some (path, method, scope, t) } }).authResult V.DBG_AUTH_CMD_result_CHALLENGE

/-- A response has failed on a path (R649). -/
def State.authFailed (s : State) (path : Nat) : State :=
  let s := (s.authResult V.DBG_AUTH_CMD_result_FAILED).cnt F.DBG_AUTH_FAILS_value
  let n := Tbl.get 0 s.dbg.fails path + 1
  let s := { s with dbg := { s.dbg with fails := Tbl.set 0 path n s.dbg.fails } }
  if n < 3 then s
  else
    let len := if n = 3 then 1 else Nat.min 64 (2 * Tbl.get 0 s.dbg.lockLen path)
    let e := s.now + len * 64000000000
    ({ s with dbg := { s.dbg with lockLen := Tbl.set 0 path len s.dbg.lockLen, lock := Tbl.set 0 path e s.dbg.lock } }).ev
      F.DBG_EVENTS_lockout

/-- Op RESPOND on a path (R648, R649): the nonce serves this one response. -/
def State.authRespond (s : State) (path : Nat) : State :=
  match s.dbg.nonce with
  | none => s.authFailed path
  | some (p, method, scope, t) =>
    if p ≠ path then s.authFailed path
    else
      let s := { s with dbg := { s.dbg with nonce := none } }
      if !s.authGood method scope t then s.authFailed path
      else
        let x := s.dbg
        let s := { s with dbg := { x with fails := Tbl.set 0 path 0 x.fails, lockLen := Tbl.set 0 path 0 x.lockLen,
                                          lastPort := s.now } }
        let s := ((s.put F.DBG_STATUS_session path).put F.DBG_STATUS_scope scope).put F.DBG_STATUS_tenant t
        s.authResult V.DBG_AUTH_CMD_result_OPEN

/-- A write of DBG.AUTH_CMD on a path (R648 to R650, R661). -/
def State.writeAuthCmd (s : State) (path : Nat) (v : Word) : State × Nat :=
  let x := v.toNat
  s.guardWrite .debugger Reg.DBG_AUTH_CMD 0 0 0 v (bits x 27 26 == 3) (fun s =>
    let s := s.applyWrite .debugger Reg.DBG_AUTH_CMD 0 0 0 v
    match bits x 31 29 with
    | 1 => (s.authOpen path (bits x 28 28) (bits x 27 26) (bits x 25 18), St.OK)
    | 2 => (s.authRespond path, St.OK)
    | 3 => (if s.session = path then s.endSession.authResult V.DBG_AUTH_CMD_result_CLOSED else s, St.OK)
    | _ => (s, St.OK))

/-- A word of DBG.AUTH_CMD with an op. -/
def authWord (v : Word) (op : Nat) : Word := BitVec.ofNat 32 (putBits v.toNat 31 29 op)

/-- The path code of a debugger: 1 the two-wire port, 2 the monitor (R660). -/
def dbgPath (monitor : Bool) : Nat := if monitor then 2 else 1

/-- AUTH_OPEN (R648, R649): AUTH_CMD with op OPEN. -/
def execAuthOpen (monitor : Bool) (v : Word) (s : State) : Host.Outcome State Fault Refusal :=
  .next (s.writeAuthCmd (dbgPath monitor) (authWord v 1)).1

/-- AUTH_RESPOND (R648, R649): AUTH_CMD with op RESPOND. -/
def execAuthRespond (monitor : Bool) (v : Word) (s : State) : Host.Outcome State Fault Refusal :=
  .next (s.writeAuthCmd (dbgPath monitor) (authWord v 2)).1

/-- AUTH_CLOSE (R650): AUTH_CMD with op CLOSE. -/
def execAuthClose (monitor : Bool) (v : Word) (s : State) : Host.Outcome State Fault Refusal :=
  .next (s.writeAuthCmd (dbgPath monitor) (authWord v 3)).1

/-- AUTH_LOCKOUT_END (R649): a path's lockout expires. -/
def execAuthLockoutEnd (monitor : Bool) (s : State) : Host.Outcome State Fault Refusal :=
  let p := dbgPath monitor
  let s := s.advanceTo (Tbl.get 0 s.dbg.lock p)
  .next { s with dbg := { s.dbg with lock := Tbl.set 0 p 0 s.dbg.lock } }

/-! ## The other debug registers (R659 to R662) -/

/-- A write of DBG.CTRL: bits [31:29] by the owner, session_timeout by the session (R659, R660). -/
def State.writeDbgCtrl (s : State) (p : Path) (v : Word) : State × Nat :=
  let m : Nat := if p = .debugger then 0x1FFFFFFF else 0xE0000000
  let old := (s.word Reg.DBG_CTRL).toNat
  let w : Nat := (v.toNat &&& m) ||| (old &&& (0xFFFFFFFF ^^^ m))
  s.guardWrite p Reg.DBG_CTRL 0 0 0 (BitVec.ofNat 32 w) false (fun s =>
    let locked := s.on F.SEC_STATUS_locked
    if p = .debugger then (s.put F.DBG_CTRL_session_timeout (bits w 15 0), St.OK)
    else if locked then (s.err V.GLB_ERR_INFO_kind_LOCKED_WRITE Reg.DBG_CTRL.base p, St.OK)
    else (s.setWord Reg.DBG_CTRL (BitVec.ofNat 32 (w &&& 0xE000FFFF)), St.OK))

/-- A write of DBG.COMP_CFGn by the session (R655, R662): its cores must all be held by the scope tenant. -/
def State.writeCompCfg (s : State) (n : Nat) (v : Word) : State × Nat :=
  let x := v.toNat
  s.guardWrite .debugger Reg.DBG_COMP_CFG n 0 0 v (n == 0 && bits x 25 24 != 0) (fun s =>
    if (bitsOf 16 (bits x 15 0)).any (fun j => !s.inScope 0 (16 * bits x 23 20 + j)) then (s, St.REFUSED_NOT_OWNER)
    else
      let s := s.applyWrite .debugger Reg.DBG_COMP_CFG n 0 0 v
      ({ s with dbg := { s.dbg with compCount := Tbl.set 0 n 0 s.dbg.compCount, compArmed := s.dbg.compArmed.erase n } }, St.OK))

/-- A write of DBG.GROUP_CFGg by the session (R654, R662): the output line is held by the scope tenant. -/
def State.writeGroupCfg (s : State) (g : Nat) (v : Word) : State × Nat :=
  s.guardWrite .debugger Reg.DBG_GROUP_CFG g 0 0 v false (fun s =>
    if bit v.toNat 25 && !s.scopeAll && s.get F.GIO_TLINE_holder (bits v.toNat 24 20) != s.scopeTenant then
      (s, St.REFUSED_NOT_OWNER)
    else (s.applyWrite .debugger Reg.DBG_GROUP_CFG g 0 0 v, St.OK))

/-- A write of a register of the DBG block (R659): through BAR0 DBG.CTRL [31:29] and the password slots, through the
debugger every other register; `path` is the debugger's. -/
def State.writeDbg (s : State) (p : Path) (path : Nat) (r : RegDef) (i j : Nat) (v : Word) : State × Nat :=
  let slot := r.id == Reg.DBG_PWD_TENANT.id || r.id == Reg.DBG_PWD_DIGEST.id
  if r.id = Reg.DBG_CTRL.id then s.writeDbgCtrl p v
  else if slot && p != .debugger then s.plainWrite p r i j 0 v
  else if slot || p != .debugger then (s, St.OK)
  else if r.id = Reg.DBG_AUTH_CMD.id then s.writeAuthCmd path v
  else if r.id = Reg.DBG_HALT_CMD.id then s.writeHaltCmd v
  else if r.id = Reg.DBG_POWER_HOLD.id then s.writePowerHold i v
  else if r.id = Reg.DBG_COMP_CFG.id then s.writeCompCfg i v
  else if r.id = Reg.DBG_GROUP_CFG.id then s.writeGroupCfg i v
  else s.plainWrite p r i j 0 v

end Sys2Proof.Machine
end

