-- ==== Sys2Proof/Machine/Supplies.lean ====
section
/-! DEFINITION. Machine/Supplies.lean: the supplies, the power-loss sequence and the wakes that can end OFF (spec/02 R38 to
R52, spec/23 R612 and R613, spec/24 R633 to R635). -/
namespace Sys2Proof.Machine

/-! ## The power-loss sequence (R45, R612) -/

/-- The units that are powered down within 2 µs of detection (R612) hold nothing any more; streams keep their registers
and quires for the rebuild of R310. -/
def State.unitsDown (s : State) : State :=
  let s := { s with regs := s.regs.filter (fun p => decide (p.1 < 0x500000)), latch := [], tenants := [], swf := {}, coll := {},
                    lanes := [], sectors := [], trig := {}, press := [], frames := [], frameLanes := [], noc := {}, bry := {},
                    cores := [], dbg := {}, obs := {}, fab := {}, sec := {},
                    cap := { s.cap with drain := [], waitList := [], ribbons := [], tokens := [] } }
  s.put F.HIF_LINK_STATUS_state V.HIF_LINK_STATUS_state_DOWN

/-- Power-fail detection (R45): the hold-up capacitance is isolated, streams end as under STREAM_STOP, unverified copies are
abandoned and the units are powered down. A detection during the sequence, or in OFF, has no effect of its own. -/
def State.powerFail (s : State) (c : LossCause) : State :=
  if s.dead then s
  else
    let s := s.each (s.cap.streams.filter (fun p => s.strmActive p.1)) (fun s p =>
      s.beginStop p.1 V.CAP_STREAM_STATUS_end_cause_POWER_LOSS s.now)
    let s := s.each (s.cap.quires.filter (fun p => p.2.copy.isSome)) (fun s p => s.abandonCopy p.1)
    let s := s.unitsDown
    { s with sup := { s.sup with loss := some c, committed := false, gpfDone := false, holdupIsolated := true },
             pwr := { s.pwr with request := none, wake := none } }

/-- The cause code of a POWER_FAIL entry (R610). -/
def LossCause.code : LossCause → Nat
  | .vinUv => 0
  | .vinOv => 1
  | .pwrfailN => 2
  | .thermal => 3

/-- The start condition of R38 no longer holds. -/
def State.supplyOut (s : State) : State := { s with sup := { s.sup with suppliesLost := true } }

/-- VIN_UNDERVOLTAGE (R39): VIN falls below 10.2 V. -/
def execVinUndervoltage (s : State) : Host.Outcome State Fault Refusal :=
  let s := (s.put F.PWR_SUPPLY_STATUS_vin_ok 0).when s.sup.loss.isNone (fun s => s.ev F.PWR_SUPPLY_STATUS_vin_uv_seen)
  .next (s.powerFail .vinUv).supplyOut

/-- VIN_OVERVOLTAGE (R39): VIN exceeds 13.8 V. -/
def execVinOvervoltage (s : State) : Host.Outcome State Fault Refusal :=
  let s := s.when s.sup.loss.isNone (fun s => s.ev F.PWR_SUPPLY_STATUS_vin_ov_seen)
  .next (s.powerFail .vinOv)

/-- PWRFAIL_N_LOW (R39): PWRFAIL_N is low for at least 100 ns. -/
def execPwrfailNLow (s : State) : Host.Outcome State Fault Refusal :=
  .next ((s.put F.PWR_SUPPLY_STATUS_pwrfail_n_level 0).powerFail .pwrfailN).supplyOut

/-- VIN_RISING (R39): VIN rises to 10.6 V or above. -/
def execVinRising (s : State) : Host.Outcome State Fault Refusal := .next (s.put F.PWR_SUPPLY_STATUS_vin_ok 1)

/-- THERMAL_TRIP (R50): a sensor reaches 110 °C. -/
def execThermalTrip (s : State) : Host.Outcome State Fault Refusal := .next (s.powerFail .thermal)

/-- COLOPHON_COMMIT_DONE (R612): pending seal-slot writes, then the log buffer, then POWER_FAIL. -/
def execColophonCommitDone (s : State) : Host.Outcome State Fault Refusal :=
  match s.sup.loss with
  | none => .next s
  | some c =>
    if s.sup.committed then .next s
    else
      let seals := s.cap.sealPending.length
      let logs := s.ras.buffer.length
      let s := s.commitSeals.commitLog.commitEntry 0xC1 4 0 [c.code, seals, logs]
      .next { s with sup := { s.sup with committed := true, sealsWritten := seals, logsWritten := logs } }

/-- GPF_DONE (R417, R612): the flush ends; `phases` holds the last phase each port completed, two bits to a port. -/
def execGpfDone (phases : BitVec 6) (s : State) : Host.Outcome State Fault Refusal :=
  if s.sup.loss.isNone || !s.sup.committed || s.sup.gpfDone then .next s
  else
    let s := s.flush phases.toNat s.sup.sealsWritten s.sup.logsWritten
    .next { s with sup := { s.sup with gpfDone := true } }

/-- POWER_LOSS_SEQUENCE_END (R45, R612): every rail except VDD_AUX is off. -/
def execPowerLossSequenceEnd (s : State) : Host.Outcome State Fault Refusal :=
  if s.sup.loss.isNone then .next s
  else
    let s := s.goOff.put F.PWR_DEV_STATUS_last_wake V.PWR_DEV_STATUS_last_wake_NONE
    let s := s.when (!s.on F.PWR_SUPPLY_STATUS_vaux_ok) State.supplyOut
    .next { s with sup := { s.sup with loss := none } }

/-! ## Starting, and the auxiliary supply (R38, R40) -/

/-- The device is in SLEEP, DEEP_SLEEP or OFF. -/
def State.asleepNow (s : State) : Bool :=
  s.pwr.off || s.devState == V.PWR_DEV_STATUS_state_SLEEP || s.devState == V.PWR_DEV_STATUS_state_DEEP_SLEEP

/-- START_CONDITION_MET (R38, R88): VIN, VAUX and PWRFAIL_N have held for 10 ms after the supplies were absent. -/
def execStartConditionMet (s : State) : Host.Outcome State Fault Refusal :=
  if s.sup.loss.isSome || !s.sup.suppliesLost || !s.asleepNow then .next s
  else
    let s := s.start 1 Start.POWER_ON
    let s := (s.put F.PWR_SUPPLY_STATUS_vin_ok 1).put F.PWR_SUPPLY_STATUS_vaux_ok 1
    .next (s.put F.PWR_SUPPLY_STATUS_pwrfail_n_level 1)

/-- The registers on VDD_AUX are lost (R635, R680, R688): PWR.DEV_STATUS, PWR.WAKE_CFG, bank 0, GIO000 to GIO007 and
GIO.SMB_CFG. -/
def auxReg (off : Nat) : Bool :=
  off == Reg.PWR_DEV_STATUS.base || off == Reg.PWR_WAKE_CFG.base || off == Reg.GIO_BANK_CFG.base ||
    off == Reg.GIO_SMB_CFG.base || (decide (Reg.GIO_PIN_CFG.base ≤ off) && decide (off < Reg.GIO_PIN_CFG.base + 32))

/-- VAUX_LOSS (R40): vaux_ok clears; in SLEEP, DEEP_SLEEP or OFF the device can no longer wake. -/
def execVauxLoss (s : State) : Host.Outcome State Fault Refusal :=
  let s := s.put F.PWR_SUPPLY_STATUS_vaux_ok 0
  if s.asleepNow then
    let s := s.supplyOut
    .next (if s.pwr.off then { s with regs := s.regs.filter (fun p => !auxReg p.1) } else s)
  else .next s

/-- VAUX_RESTORED (R40). -/
def execVauxRestored (s : State) : Host.Outcome State Fault Refusal := .next (s.put F.PWR_SUPPLY_STATUS_vaux_ok 1)

/-! ## Rails (R42, R43) -/

/-- RAIL_PHASE_FAILURE (R42, R43): a phase of a rail fails while the rail's load is `load` per cent of its maximum. The
first failure uses the spare; each later one caps the rail at the share of the phases left. The spec states no cause for
the POWER_FAIL entry of a rail over its cap: it is a free one of the four. -/
def execRailPhaseFailure (rail : BitVec 5) (load : BitVec 7) (s : State) : Host.Outcome State Fault Refusal :=
  let i := rail.toNat
  if decide (16 < i) || s.dead then .next s
  else
    let s := s.put F.PWR_RAIL_STATUS_load_pct load.toNat i
    let work := s.get F.PWR_RAIL_STATUS_phases_total i - 1
    let n := Nat.min (work + 1) (s.get F.PWR_RAIL_STATUS_phases_failed i + 1)
    let s := (s.put F.PWR_RAIL_STATUS_phases_failed n i).ev F.PWR_RAIL_STATUS_fault_seen i
    let s := (s.fault 6 (decide (1 < n))).log 0x50 2 i [n]
    if n = 1 then .next (s.ev F.PWR_RAIL_STATUS_spare_in_use i)
    else
      let left := work + 1 - n
      let (r, s) := s.fresh
      let up := if left * 100 % work = 0 then 0 else r % 2
      let s := (s.ev F.PWR_RAIL_STATUS_current_capped i).log 0x51 2 i [left * 100 / work + up]
      if left * 100 < load.toNat * work then
        let (c, s) := s.fresh
        .next (s.powerFail (([.vinUv, .vinOv, .pwrfailN, .thermal][c % 4]?).getD .vinUv))
      else .next s

/-! ## Wakes (R633 to R635) -/

/-- The device can wake from OFF. -/
def State.canWake (s : State) : Bool := !s.sup.suppliesLost && s.sup.loss.isNone

/-- A wake of a cause arrives (R633, R635): from OFF a start at S01 begins, for the causes that act there. -/
def State.wakeBy (s : State) (cause pin : Nat) (fromOff : Bool) : State :=
  if !s.canWake then s
  else if s.pwr.off then
    if fromOff then
      ((s.put F.PWR_DEV_STATUS_last_wake cause).put F.PWR_DEV_STATUS_wake_pin pin).start 1 Start.WAKE
    else s
  else if !fromOff && s.pwr.request.any (fun r => r.target == 2) then s
  else s.wakeUp cause pin

/-- WAKE_N_LOW (R633): WAKE_N is low for at least 1 µs. -/
def execWakeNLow (s : State) : Host.Outcome State Fault Refusal :=
  .next (if s.on F.PWR_WAKE_CFG_wake_n_en then s.wakeBy 1 0 true else s)

/-- GIO_WAKE_EDGE (R633, R639): an edge of GIO000 to GIO007, held for 1 µs, on a pin whose function is WAKE and whose wake
is enabled; gio_edge chooses the rising edge. -/
def execGioWakeEdge (pin : BitVec 3) (rising : Bool) (s : State) : Host.Outcome State Fault Refusal :=
  let n := pin.toNat
  if bit (s.get F.PWR_WAKE_CFG_gio_en) n && bit (s.get F.PWR_WAKE_CFG_gio_edge) n == rising &&
      s.get F.GIO_PIN_CFG_function n == 6 then .next (s.wakeBy 2 n true)
  else .next s

/-- SMBUS_ADDRESS_MATCH (R634): the comparator on VDD_AUX matches the address of GIO.SMB_CFG; from DEEP_SLEEP and OFF the
device holds SMB_CLK low after the ACK. -/
def execSmbusAddressMatch (addr : BitVec 7) (s : State) : Host.Outcome State Fault Refusal :=
  if s.get F.GIO_SMB_CFG_address ≠ addr.toNat ∨ !s.on F.PWR_WAKE_CFG_smbus_en ∨ !s.canWake then .next s
  else
    let hold := s.pwr.off || s.devState == V.PWR_DEV_STATUS_state_DEEP_SLEEP || s.pwr.deep ||
      s.pwr.request.any (fun r => r.committed && r.target != 0)
    let s := if hold then { s with pwr := { s.pwr with stretch := true } } else s
    .next (s.wakeBy 3 0 true)

/-- HOST_WAKE (R633): the host takes the link out of L1 or writes a doorbell; for a ring-hosted member, a remote access. -/
def execHostWake (s : State) : Host.Outcome State Fault Refusal :=
  .next (if s.on F.PWR_WAKE_CFG_host_en then s.wakeBy 4 0 false else s)

/-- TIMER_WAKE (R633, R636): the timebase, or the MEMS count, reaches PWR.WAKE_AT. -/
def execTimerWake (s : State) : Host.Outcome State Fault Refusal :=
  let t := s.pair Reg.PWR_WAKE_AT_LO Reg.PWR_WAKE_AT_HI / 8 * 8
  if !s.on F.PWR_WAKE_CFG_timer_en || s.dead then .next s
  else .next ((s.advanceTo t).wakeBy 5 0 false)

/-- DEVICE_STATE_REACHED (R628, R632, R635): the state asked for is reached; a wake latched after the commit point begins
exit at once. -/
def execDeviceStateReached (s : State) : Host.Outcome State Fault Refusal :=
  match s.pwr.request with
  | none => .next s
  | some r =>
    if !r.committed then .next s
    else
      let s := { s with pwr := { s.pwr with request := none } }
      if r.target = 2 then
        let w := s.pwr.wake
        let s := s.goOff
        .next (if w.isSome && s.canWake then s.start 1 Start.WAKE else s)
      else
        let s := { s with pwr := { s.pwr with deep := r.target == 1 && !s.on F.DBG_STATUS_emulating } }
        let s := s.when (r.target == 0 && !s.domOn (domPair 0)) (fun s => (s.domReach (domPair 0) 0).domEffect (domPair 0) 2 0)
        let s := s.each (upTo 471) (fun s n =>
          if s.dom n = V.PWR_DOMAIN_STATUS_state_ENTERING then
            let to' := s.domGoal n
            let was := Tbl.get 0 s.pwr.origin n
            let s := { s with pwr := { s.pwr with target := Tbl.set 0 n 0 s.pwr.target } }
            (s.domReach n to').domEffect n was to'
          else s)
        let s := s.setDev (if r.target = 1 then V.PWR_DEV_STATUS_state_DEEP_SLEEP else V.PWR_DEV_STATUS_state_SLEEP)
        .next (if s.pwr.wake.isSome then s.exitBegin else s)


end Sys2Proof.Machine
end

