-- ==== Sys2Proof/Machine/Gio.lean ====
section
/-! DEFINITION. Machine/Gio.lean: general I/O, the monitor ADC, the temperature sensors and the SMBus port (spec/27 R680 to
R700, spec/02 R49, spec/24 R634). -/
namespace Sys2Proof.Machine

/-! ## Pins (R680 to R687) -/

abbrev Pin.GPIO : Nat := 0
abbrev Pin.REFCLK : Nat := 2
abbrev Pin.CLKOUT : Nat := 3
abbrev Pin.PPS : Nat := 4
abbrev Pin.ANALOG : Nat := 5
abbrev Pin.WAKE : Nat := 6

/-- The function of a pin. -/
def State.pinFn (s : State) (n : Nat) : Nat := s.get F.GIO_PIN_CFG_function n

/-- What a GPIO pin drives (R682, R686): nothing while oe = 0, and only low with open_drain. -/
def State.pinDrive (s : State) (n : Nat) : Option Bool :=
  let level := bit (s.word Reg.GIO_OUT (n / 32)).toNat (n % 32)
  if s.pinFn n ≠ Pin.GPIO ∨ !s.on F.GIO_PIN_CFG_oe n then none
  else if s.on F.GIO_PIN_CFG_open_drain n && level then none
  else some level

/-- Show the change of what a pin drives. -/
def State.pinShow (was : State) (s : State) (n : Nat) : State :=
  if s.pinDrive n = was.pinDrive n then s
  else
    let s := { s with gio := { s.gio with contend := s.gio.contend.erase n } }
    match s.pinDrive n with
    | some v => s.send (.pin n v)
    | none => s.send (.pinOff n)

/-- A bank's inputs and drivers are idle (R681): every pin GPIO with oe = 0, or ANALOG. -/
def State.bankIdle (s : State) (k : Nat) : Bool :=
  (upTo 32).all (fun j =>
    let n := 32 * k + j
    (s.pinFn n == Pin.GPIO && !s.on F.GIO_PIN_CFG_oe n) || s.pinFn n == Pin.ANALOG)

/-- A write of GIO.BANK_CFG (R680, R681). -/
def State.writeBankCfg (s : State) (p : Path) (k : Nat) (v : Word) : State × Nat :=
  s.guardWrite p Reg.GIO_BANK_CFG k 0 0 v false (fun s =>
    let new := bits v.toNat 2 0
    if new = s.get F.GIO_BANK_CFG_voltage k then (s, St.OK)
    else if !s.bankIdle k then refuseWrite s p St.REFUSED_BUSY (fun s => s.ev F.GIO_EVENTS_wr_refused)
    else
      let s := s.applyWrite p Reg.GIO_BANK_CFG k 0 0 v
      ({ s with colo := { s.colo with bankCfg := Tbl.set 0 k (new + 1) s.colo.bankCfg },
                gio := { s.gio with changing := s.gio.changing ++ [k] } }, St.OK))

/-- BANK_CFG_WRITE (R681). -/
def execBankCfgWrite (p : Path) (bank : BitVec 3) (v : Word) (s : State) : Host.Outcome State Fault Refusal :=
  if 6 ≤ bank.toNat then .fault .noSuchUnit else .next (s.writeBankCfg p bank.toNat v).1

/-- BANK_CHANGE_DONE (R681): within 200 µs. -/
def execBankChangeDone (bank : BitVec 3) (s : State) : Host.Outcome State Fault Refusal :=
  .next { s with gio := { s.gio with changing := s.gio.changing.filter (fun k => k != bank.toNat) } }

/-- A function on a pin outside its Pins column is a reserved encoding (R682). -/
def pinFnBad (n f : Nat) : Bool :=
  (f == Pin.REFCLK && n != 32) || ((f == Pin.CLKOUT || f == Pin.PPS) && (decide (n < 32) || decide (39 < n))) ||
    (f == Pin.WAKE && decide (7 < n))

/-- A write of GIO.PIN_CFG (R682, R683, R685). -/
def State.writePinCfg (s : State) (p : Path) (n : Nat) (v : Word) : State × Nat :=
  let f := bits v.toNat 31 28
  s.guardWrite p Reg.GIO_PIN_CFG n 0 0 v (pinFnBad n f) (fun s =>
    let others := (upTo 192).filter (fun m => m != n)
    let second := (f == Pin.CLKOUT && others.any (fun m => s.pinFn m == Pin.CLKOUT &&
        s.get F.GIO_PIN_CFG_clk_index m == bits v.toNat 27 26)) ||
      (f == Pin.PPS && others.any (fun m => s.pinFn m == Pin.PPS))
    let ref := n == 32 && f != s.pinFn 32 && s.get F.CLK_STATUS_active_source == 1536
    if second || ref || Tbl.get 0 s.trigPinHolder n != 0 || s.gio.load == some n then
      refuseWrite s p St.REFUSED_BUSY (fun s => s.ev F.GIO_EVENTS_wr_refused)
    else (State.pinShow s (s.applyWrite p Reg.GIO_PIN_CFG n 0 0 v) n, St.OK))

/-- PIN_CFG_WRITE (R683, R685). -/
def execPinCfgWrite (p : Path) (pin : BitVec 8) (v : Word) (s : State) : Host.Outcome State Fault Refusal :=
  if 192 ≤ pin.toNat then .fault .noSuchUnit else .next (s.writePinCfg p pin.toNat v).1

/-- A write of GIO.OUT (R682, R695): the GPIO pins with oe = 1 drive it. -/
def State.writeGioOut (s : State) (p : Path) (k : Nat) (v : Word) : State × Nat :=
  s.guardWrite p Reg.GIO_OUT k 0 0 v false (fun s =>
    let t := s.applyWrite p Reg.GIO_OUT k 0 0 v
    (t.each ((upTo 32).map (· + 32 * k)) (fun t n => State.pinShow s t n), St.OK))

/-- CONTENTION_DETECT (R687): a driven GPIO pin has read the opposite level for 1 µs. -/
def execContentionDetect (pin : BitVec 8) (s : State) : Host.Outcome State Fault Refusal :=
  let n := pin.toNat
  if 192 ≤ n then .fault .noSuchUnit
  else if s.pinFn n ≠ Pin.GPIO ∨ !s.on F.GIO_PIN_CFG_oe n ∨ s.on F.GIO_PIN_CFG_open_drain n then .next s
  else
    let s := (s.ev F.GIO_EVENTS_contention).put F.GIO_STATUS_contention_pin n
    .next { s with gio := { s.gio with contend := n :: s.gio.contend.erase n } }

/-- The level a pin's input buffer reads (R681, R686, R687): 0 on an ANALOG pin and in a bank that changes; a driven pin
reads what it drives, or the opposite in contention; the level of any other pad is the board's, a free value. -/
def State.pinRead (s : State) (n : Nat) : Bool × State :=
  if s.pinFn n = Pin.ANALOG ∨ s.gio.changing.contains (n / 32) then (false, s)
  else match s.pinDrive n with
    | some v => (v != s.gio.contend.contains n, s)
    | none =>
      let (x, s) := s.fresh
      (x % 2 == 1, s)

/-- A read of GIO.IN. -/
def State.readGioIn (s : State) (k : Nat) : State × Nat :=
  (upTo 32).foldl (fun (a : State × Nat) j =>
    let (v, s) := a.1.pinRead (32 * k + j)
    (s, a.2 + b2n v * 2 ^ j)) (s, 0)

/-! ## Load test and monitor ADC (R689, R692, R693) -/

/-- A write of GIO.LOAD_CMD (R689, R699): go starts a test. -/
def State.writeLoadCmd (s : State) (p : Path) (v : Word) : State × Nat :=
  s.guardWrite p Reg.GIO_LOAD_CMD 0 0 0 v false (fun s =>
    let busy := s.gio.load.isSome
    let go := bit v.toNat 31
    let n := bits v.toNat 7 0
    let fit := Tbl.get 0 s.trigPinHolder n == 0 &&
      ((s.pinFn n == Pin.GPIO && !s.on F.GIO_PIN_CFG_oe n) || s.pinFn n == Pin.ANALOG)
    if busy then (s.when go (fun s => s.put F.GIO_LOAD_RESULT_result 2), St.OK)
    else
      let s := s.applyWrite p Reg.GIO_LOAD_CMD 0 0 0 v
      if !go then (s, St.OK)
      else if !fit then ((s.put F.GIO_LOAD_RESULT_result 2).clr F.GIO_LOAD_CMD_go, St.OK)
      else
        let s := (s.put F.GIO_LOAD_RESULT_result 0).put F.GIO_LOAD_RESULT_running 1
        ({ s with gio := { s.gio with load := some n } }, St.OK))

/-- LOAD_TEST_START (R689): a write of GIO.LOAD_CMD with go. -/
def execLoadTestStart (p : Path) (v : Word) (s : State) : Host.Outcome State Fault Refusal :=
  .next (s.writeLoadCmd p (v ||| 0x80000000#32)).1

/-- LOAD_TEST_DONE (R689): the 16 codes taken while sourcing and the 16 while sinking. -/
def execLoadTestDone (src snk : List (BitVec 14)) (s : State) : Host.Outcome State Fault Refusal :=
  match s.gio.load with
  | none => .next s
  | some _ =>
    let mean := fun (l : List (BitVec 14)) => roundHalfEven (l.map BitVec.toNat).sum 4
    let s := (s.put F.GIO_LOAD_RESULT_v_src (mean src)).put F.GIO_LOAD_RESULT_v_snk (mean snk)
    let s := ((s.put F.GIO_LOAD_RESULT_running 0).put F.GIO_LOAD_RESULT_result 1).clr F.GIO_LOAD_CMD_go
    .next (({ s with gio := { s.gio with load := none } }).ev F.GIO_EVENTS_load_done)

/-- The channels left of the pass that runs, with its avg, or of the pass that begins (R693). -/
def State.adcPass (s : State) : Option (List Nat × Nat) :=
  match s.gio.pass with
  | some x => some x
  | none =>
    if s.on F.GIO_ADC_CTRL_enable then
      some ((upTo (s.get F.GIO_ADC_CTRL_list_len_m1 + 1)).map (fun i => s.get F.GIO_ADC_LIST_channel i),
        s.get F.GIO_ADC_CTRL_avg)
    else none

/-- ADC_CONVERSION (R693): the next listed channel is converted; `codes` are its 2^avg codes. The first conversion of a pass
takes the list and avg as they stand. -/
def execAdcConversion (codes : List (BitVec 14)) (s : State) : Host.Outcome State Fault Refusal :=
  match s.adcPass with
  | none => .next s
  | some ([], _) => .next s
  | some (c :: r, avg) =>
    let ok := decide (c < 64) || s.pinFn (c - 64) == Pin.ANALOG
    let v := if ok then roundHalfEven (codes.map BitVec.toNat).sum avg else 0
    let s := ((s.put F.GIO_ADC_RESULT_code v c).put F.GIO_ADC_RESULT_valid (b2n ok) c).put F.GIO_ADC_RESULT_clipped
      (b2n (v == 16383)) c
    let s := { s with gio := { s.gio with pass := if r.isEmpty then none else some (r, avg) } }
    let s := s.put F.GIO_STATUS_adc_running (b2n (!r.isEmpty || s.on F.GIO_ADC_CTRL_enable))
    .next (s.when r.isEmpty (fun s => s.ev F.GIO_EVENTS_adc_pass))

/-! ## Temperature (R49, R694) -/

/-- The sensors read in a sample: number and reading, for those with a working element. -/
def State.tempReadings (s : State) (l : List (BitVec 16 × BitVec 16)) : List (Nat × Int) :=
  ((upTo 64).zip l).filterMap (fun p =>
    let e := Tbl.get 0 s.gio.elems p.1
    let a := sext 16 p.2.1.toNat
    let b := sext 16 p.2.2.toNat
    if e = 3 then none else some (p.1, if e = 1 then b else if e = 2 then a else if a ≤ b then b else a))

/-- TEMP_SAMPLE (R694, R49): every 10 µs each sensor takes the higher reading of its two elements, in 1/16 °C. The sensor
shown among equals, and the rounding of the log entry's tenths, are free. -/
def execTempSample (l : List (BitVec 16 × BitVec 16)) (s : State) : Host.Outcome State Fault Refusal :=
  if s.dead then .next s
  else
    let rs := s.tempReadings l
    let hot := rs.filter (fun (r : Nat × Int) => decide (1600 ≤ r.2))
    let was := fun (n : Nat) => s.on F.GIO_TEMP_valid n && decide (1600 ≤ sext 16 (s.get F.GIO_TEMP_value n))
    let new := hot.filter (fun (r : Nat × Int) => !was r.1)
    let s := s.each rs (fun s (r : Nat × Int) =>
      (s.put F.GIO_TEMP_value (wrapInt 16 r.2) r.1).put F.GIO_TEMP_valid 1 r.1)
    let top := rs.foldl (fun (a : Option Int) (r : Nat × Int) => match a with
      | some b => some (if b ≤ r.2 then r.2 else b)
      | none => some r.2) none
    let old := sext 16 (s.get F.GIO_TEMP_MAX_value)
    let s := match top with
      | none => s
      | some m =>
        let at' := rs.filter (fun (r : Nat × Int) => r.2 == m)
        let (k, s) := if at'.length = 1 then (0, s) else s.fresh
        let n := ((at'[k % at'.length]?).map (fun (r : Nat × Int) => r.1)).getD 0
        let s := (s.put F.GIO_TEMP_MAX_value (wrapInt 16 m)).put F.GIO_TEMP_MAX_sensor n
        let lim := sext 16 (s.get F.GIO_TEMP_ALERT_threshold)
        s.when (s.on F.GIO_TEMP_ALERT_enable && decide (old < lim) && decide (lim ≤ m)) (fun s => s.ev F.GIO_EVENTS_temp_alert)
    let rise := !hot.isEmpty && !s.on F.PWR_SUPPLY_STATUS_thermal_warn
    let s := s.put F.PWR_SUPPLY_STATUS_thermal_warn (b2n (!hot.isEmpty))
    let s := s.when rise (fun s => s.ev F.PWR_SUPPLY_STATUS_thermal_warn_seen)
    .next (s.each new (fun s (r : Nat × Int) =>
      let (k, s) := s.fresh
      let t := 10 * r.2.toNat
      s.log 0xC0 0 r.1 [t / 16 + (if t % 16 = 0 then 0 else k % 2)]))

/-- SENSOR_ELEMENT_FAILURE (R694): an element is dropped; without both the sensor is not valid. -/
def execSensorElementFailure (sensor : BitVec 6) (element : Bool) (s : State) : Host.Outcome State Fault Refusal :=
  let n := sensor.toNat
  let e := Tbl.get 0 s.gio.elems n ||| (if element then 2 else 1)
  let s := { s with gio := { s.gio with elems := Tbl.set 0 n e s.gio.elems } }
  let s := s.ev F.GIO_TEMP_degraded n
  .next (if e = 3 then (s.put F.GIO_TEMP_valid 0 n).ev F.GIO_EVENTS_sensor_failed else s)

/-! ## SMBus (R691, R634) -/

/-- The port answers commands: from S02 on, with the management processor running. -/
def State.smbUp (s : State) : Bool :=
  !s.dead && !s.gio.smbMute && !s.boot.active.contains 1 &&
    !(s.boot.halted && s.get F.BOOT_START_STATUS_step == 1) && s.devState != V.PWR_DEV_STATUS_state_DEEP_SLEEP

/-- A byte of the SMBus packet error code, CRC-8 of x^8 + x^2 + x + 1. -/
def pecByte : Nat → Nat → Nat
  | 0, c => c
  | n + 1, c => pecByte n (if 128 ≤ c then (c * 2 ^^^ 0x107) % 256 else c * 2)

/-- The packet error code of the bytes of a transfer. -/
def pec (bs : List Nat) : Nat := bs.foldl (fun c b => pecByte 8 (c ^^^ b)) 0

/-- Answer a read command: its bytes, with the PEC when pec_en is set. -/
def State.smbAnswer (s : State) (cmd : Nat) (bytes : List Nat) : State :=
  if !s.smbUp then s
  else
    let a := s.get F.GIO_SMB_CFG_address * 2
    s.send (.smb (if s.on F.GIO_SMB_CFG_pec_en then bytes ++ [pec ([a, cmd, a + 1] ++ bytes)] else bytes))

/-- Take a write command whose PEC, with pec_en set, must agree. -/
def State.smbTake (s : State) (pecOk bad : Bool) (f : State → State) : State :=
  if !s.smbUp then s
  else if bad || (s.on F.GIO_SMB_CFG_pec_en && !pecOk) then s.send .smbNack
  else f s

/-- SMB_READ_IDENTITY (R691): command 0x01. -/
def execSmbReadIdentity (s : State) : Host.Outcome State Fault Refusal :=
  .next (s.smbAnswer 1 (4 :: natBytes 4 Config.identity.toNat))

/-- SMB_READ_STATE (R691): command 0x02. -/
def execSmbReadState (s : State) : Host.Outcome State Fault Refusal :=
  .next (s.smbAnswer 2 [s.devState % 8 + 8 * (s.get F.BOOT_START_STATUS_outcome % 16) + 128 * b2n s.boot.ready])

/-- SMB_READ_TEMP_MAX (R691): command 0x03. -/
def execSmbReadTempMax (s : State) : Host.Outcome State Fault Refusal :=
  .next (s.smbAnswer 3 (natBytes 2 (s.get F.GIO_TEMP_MAX_value)))

/-- SMB_SELECT_SENSOR (R691): command 0x04; 64 to 255 are NACKed. -/
def execSmbSelectSensor (n : BitVec 8) (pecOk : Bool) (s : State) : Host.Outcome State Fault Refusal :=
  .next (s.smbTake pecOk (decide (63 < n.toNat)) (fun s => { s with gio := { s.gio with smbSensor := n.toNat } }))

/-- SMB_READ_SENSOR (R691): command 0x05. -/
def execSmbReadSensor (s : State) : Host.Outcome State Fault Refusal :=
  .next (s.smbAnswer 5 (natBytes 2 (s.get F.GIO_TEMP_value s.gio.smbSensor)))

/-- SMB_SET_OFFSET (R691): command 0x06. -/
def execSmbSetOffset (off : Word) (pecOk : Bool) (s : State) : Host.Outcome State Fault Refusal :=
  .next (s.smbTake pecOk false (fun s => { s with gio := { s.gio with smbOffset := off.toNat } }))

/-- SMB_UNLISTED_COMMAND (R691): NACKed at its command byte. -/
def execSmbUnlistedCommand (cmd : BitVec 8) (s : State) : Host.Outcome State Fault Refusal :=
  if !s.smbUp || (decide (1 ≤ cmd.toNat) && decide (cmd.toNat ≤ 7)) then .next s
  else .next ((s.ev F.GIO_EVENTS_smb_error).send .smbNack)

/-- SMB_BUS_TIMEOUT (R691): SMB_CLK low for more than 25 ms resets the interface; a stretch of its own ends. -/
def execSmbBusTimeout (s : State) : Host.Outcome State Fault Refusal :=
  .next (if s.pwr.stretch then ({ s with pwr := { s.pwr with stretch := false } }).send .smbRelease else s)

/-- SMB_CLK_STRETCH_TIMEOUT (R634): S01 or S02 has halted; 24 ms after the ACK the clock is released and no further byte is
acknowledged. -/
def execSmbClkStretchTimeout (s : State) : Host.Outcome State Fault Refusal :=
  if s.pwr.stretch && s.boot.halted && decide (s.get F.BOOT_START_STATUS_step ≤ 2) then
    .next (({ s with pwr := { s.pwr with stretch := false }, gio := { s.gio with smbMute := true } }).send .smbRelease)
  else .next s

end Sys2Proof.Machine
end

