-- ==== Sys2Proof/Machine/Hif.lean ====
section
/-! DEFINITION. Machine/Hif.lean: rings, doorbells, acceptance, function pages and the small descriptors (spec/21, R553 to
R571). -/
namespace Sys2Proof.Machine

/-! ## Doorbells and ring 0 (R559, R560, R562) -/

/-- A tenant's function is enabled (R557). -/
def State.funcOn (s : State) (t : Nat) : Bool := t == 0 || (s.ten t).vfEnabled

/-- A doorbell write is ignored and counted (R562). -/
def State.badDoorbell (s : State) (t : Nat) : State :=
  let x := s.ten t
  s.setTen t { x with doorbellErrors := BitVec.ofNat 32 (satNat 32 (x.doorbellErrors.toNat + 1)) }

/-- A write of SQ_TAIL (R562). -/
def State.sqTail (s : State) (t r v : Nat) : State :=
  let x := s.ten t
  let q := Tbl.get {} x.sq r
  if q.present && decide (v < 2 ^ q.log2) then s.setTen t { x with sq := Tbl.set {} r { q with tail := v } x.sq }
  else s.badDoorbell t

/-- A write of CQ_HEAD (R562): it may not pass the device's tail. -/
def State.cqHead (s : State) (t r v : Nat) : State :=
  let x := s.ten t
  let c := Tbl.get {} x.cq r
  let size := 2 ^ c.log2
  let ahead := fun (a : Nat) => (a + size - c.head) % size
  if c.present && decide (v < size) && decide (ahead v ≤ ahead c.tail) then
    s.setTen t { x with cq := Tbl.set {} r { c with head := v } x.cq }
  else s.badDoorbell t

/-- SQ_TAIL_DOORBELL (R560, R562). -/
def execSqTailDoorbell (tenant : BitVec 8) (ring : BitVec 6) (v : Word) (s : State) : Host.Outcome State Fault Refusal :=
  .next (if s.dead || !s.funcOn tenant.toNat then s else s.sqTail tenant.toNat ring.toNat v.toNat)

/-- CQ_HEAD_DOORBELL (R560, R562). -/
def execCqHeadDoorbell (tenant : BitVec 8) (ring : BitVec 6) (v : Word) (s : State) : Host.Outcome State Fault Refusal :=
  .next (if s.dead || !s.funcOn tenant.toNat then s else s.cqHead tenant.toNat ring.toNat v.toNat)

/-- Send the vector of CQ 0, if it exists (R564). -/
def State.cq0Message (s : State) (t : Nat) : State :=
  let c := Tbl.get {} (s.ten t).cq 0
  s.when c.present (fun s => s.msix t c.vector)

/-- Ring 0 exists (R579). -/
def State.showRing0 (s : State) (t : Nat) : State :=
  let x := s.ten t
  s.put F.HIF_TENANT_STATUS_ring0_up (b2n ((Tbl.get {} x.sq 0).present && (Tbl.get {} x.cq 0).present)) t

/-- A write of SETUP_CTRL (R559): go creates or recreates SQ 0 and CQ 0. -/
def State.setupRing0 (s : State) (t : Nat) (v : Word) : State :=
  let x := { s.ten t with setupCtrl := v &&& 0x001F1F3F#32 }
  let s := s.setTen t x
  if !bit v.toNat 31 then s
  else
    let k := bits v.toNat 20 16
    let c := bits v.toNat 12 8
    let ok := fun (n : Nat) => decide (6 ≤ n) && decide (n ≤ 16)
    let sq := Tbl.get {} x.sq 0
    if !ok k || !ok c || x.setupSq.toNat % 4096 != 0 || x.setupCq.toNat % 4096 != 0 || !sq.outstanding.isEmpty then
      (s.ev F.HIF_TENANT_STATUS_setup_refused t).cq0Message t
    else
      let q : Sq := { present := true, base := x.setupSq, log2 := k, cq := 0 }
      let z : Cq := { present := true, base := x.setupCq, log2 := c, vector := bits v.toNat 5 0,
                      reserved := (Tbl.get {} x.cq 0).reserved }
      let x := { x with sq := Tbl.set {} 0 q x.sq, cq := Tbl.set {} 0 z x.cq, ringErr := x.ringErr &&& 0xFFFFFFFFFFFFFFFE#64 }
      (s.setTen t x).showRing0 t

/-- SETUP_RING0 (R559): a write of SETUP_CTRL with go. -/
def execSetupRing0 (tenant : BitVec 8) (v : Word) (s : State) : Host.Outcome State Fault Refusal :=
  .next (if s.dead || !s.funcOn tenant.toNat then s else s.setupRing0 tenant.toNat (v ||| 0x80000000#32))

/-! ## Function pages (R558) -/

/-- A write of a word of a tenant's MSI-X table: a vector unmasked with its pending bit set sends its message (R564). -/
def State.msixWrite (s : State) (t w : Nat) (v : Word) : State :=
  let x := s.ten t
  let x := { x with msix := Tbl.set (if w % 4 = 3 then 1#32 else 0#32) w v x.msix }
  let n := w / 4
  let s := s.setTen t x
  if w % 4 = 3 ∧ !bit v.toNat 0 ∧ bit x.pba.toNat n then
    (s.setTen t { x with pba := x.pba &&& BitVec.ofNat 64 (2 ^ 64 - 1 - 2 ^ n) }).sendHost t (.msix t n)
  else s

/-- One half of a 64-bit register replaced. -/
def half (hi : Bool) (old : BitVec 64) (v : Word) : BitVec 64 :=
  if hi then BitVec.ofNat 64 (old.toNat % 2 ^ 32 + v.toNat * 2 ^ 32) else BitVec.ofNat 64 (old.toNat / 2 ^ 32 * 2 ^ 32 + v.toNat)

/-- A write of a tenant's function page (R558). -/
def State.writePage (s : State) (t off : Nat) (v : Word) : State :=
  let x := s.ten t
  if s.dead || !s.funcOn t || off % 4 != 0 then s
  else if off < 0x200 then (if off % 8 = 0 then s.sqTail t (off / 8) v.toNat else s.cqHead t (off / 8) v.toNat)
  else if off = 0x800 ∨ off = 0x804 then s.setTen t { x with setupSq := half (off == 0x804) x.setupSq v }
  else if off = 0x808 ∨ off = 0x80C then s.setTen t { x with setupCq := half (off == 0x80C) x.setupCq v }
  else if off = 0x810 then s.setupRing0 t v
  else if off = 0xC00 then
    let s := s.when (bit v.toNat 25) (fun s => s.clr F.HIF_TENANT_STATUS_setup_refused t)
    s.when (bit v.toNat 24) (fun s => s.clr F.HIF_TENANT_STATUS_host_dma_error t)
  else if off = 0xC04 ∨ off = 0xC08 then
    let m := half (off == 0xC08) 0 v
    s.setTen t { x with ringErr := x.ringErr &&& (m ^^^ 0xFFFFFFFFFFFFFFFF#64) }
  else if 0x8000 ≤ off ∧ off < 0x8400 then s.msixWrite t ((off - 0x8000) / 4) v
  else s

/-- A read of a tenant's function page (R558, R579): DOORBELL_ERRORS clears. -/
def State.readPage (s : State) (t off : Nat) : State × Nat :=
  let x := s.ten t
  let part := fun (hi : Bool) (v : BitVec 64) => if hi then v.toNat / 2 ^ 32 else v.toNat % 2 ^ 32
  if s.dead || !s.funcOn t || off % 4 != 0 then (s, 0)
  else if off < 0x200 then
    (s, if off % 8 = 0 then (Tbl.get {} x.sq (off / 8)).tail else (Tbl.get {} x.cq (off / 8)).head)
  else if off = 0x800 ∨ off = 0x804 then (s, part (off == 0x804) x.setupSq)
  else if off = 0x808 ∨ off = 0x80C then (s, part (off == 0x80C) x.setupCq)
  else if off = 0x810 then (s, x.setupCtrl.toNat)
  else if off = 0xC00 then
    (s, ((s.put F.HIF_TENANT_STATUS_service_ready (b2n s.boot.ready) t).word Reg.HIF_TENANT_STATUS t).toNat)
  else if off = 0xC04 ∨ off = 0xC08 then (s, part (off == 0xC08) x.ringErr)
  else if off = 0xC0C then (s.setTen t { x with doorbellErrors := 0 }, x.doorbellErrors.toNat)
  else if 0x8000 ≤ off ∧ off < 0x8400 then (s, (x.msixWord ((off - 0x8000) / 4)).toNat)
  else if off = 0xC000 ∨ off = 0xC004 then (s, part (off == 0xC004) x.pba)
  else (s, 0)

/-! ## Acceptance (R561, R565, R566) -/

/-- The opcodes of R569. -/
def opcodes : List Nat :=
  (upTo 0x09) ++ (upTo 4).map (· + 0x10) ++ (upTo 12).map (· + 0x20) ++ (upTo 4).map (· + 0x30) ++
    (upTo 9).map (· + 0x38) ++ (upTo 5).map (· + 0x48) ++ (upTo 10).map (· + 0x50) ++ (upTo 4).map (· + 0x60)

/-- An SQ fetch fails (R556, R562, R564). -/
def State.sqError (s : State) (t r : Nat) : State :=
  let x := s.ten t
  let q := Tbl.get {} x.sq r
  if !q.present then s
  else
    let x := { x with sq := Tbl.set {} r { q with error := true } x.sq, ringErr := x.ringErr ||| BitVec.ofNat 64 (2 ^ r) }
    ((s.setTen t x).dmaError t).cq0Message t

/-- DESCRIPTOR_ACCEPT (R561, R562, R565): the device fetches the entry at an SQ's head, whose first word is `header`, and
accepts it once its CQ can hold its completions. An opcode that R569 does not list completes here; every other descriptor
goes on in its own command. -/
def execDescriptorAccept (tenant : BitVec 8) (ring : BitVec 6) (header : Word) (readFail : Bool) (s : State) :
    Host.Outcome State Fault Refusal :=
  let t := tenant.toNat
  let r := ring.toNat
  let x := s.ten t
  let q := Tbl.get {} x.sq r
  let c := Tbl.get {} x.cq q.cq
  let op := bits header.toNat 7 0
  let need := if op = 0x27 then 2 else 1
  let size := 2 ^ c.log2
  let held := (c.tail + size - c.head) % size
  let all : Nat := (x.sq.map (fun (p : Nat × Sq) => p.2.outstanding.length)).sum
  if s.dead || !q.present || q.error || q.head == q.tail || !x.bme || decide (4096 ≤ all) then .next s
  else if readFail then .next (s.sqError t r)
  else if decide (size < 1 + held + c.reserved + need) || (bit header.toNat 8 && !q.outstanding.isEmpty) then .next s
  else
    let e := q.head
    let q := { q with head := (e + 1) % 2 ^ q.log2, outstanding := q.outstanding ++ [e],
                      twos := if need = 2 then q.twos ++ [e] else q.twos }
    let x := { x with sq := Tbl.set {} r q x.sq, cq := Tbl.set {} q.cq { c with reserved := c.reserved + need } x.cq }
    let s := (s.setTen t x).countOutstanding t
    if opcodes.contains op then .next s
    else
      let d : Desc := { tenant := tenant, ring := ring, entry := BitVec.ofNat 16 e, tag := BitVec.ofNat 16 (bits header.toNat 31 16),
                        noIrq := bit header.toNat 9 }
      .next (s.refuse d (if s.boot.ready then St.OPCODE_UNSUPPORTED else St.REFUSED_NOT_READY))

/-- HOST_READ_FAILURE (R556): a read of host memory fails. -/
def execHostReadFailure (r : HostRead) (s : State) : Host.Outcome State Fault Refusal :=
  match r with
  | .fetch t r => .next (s.sqError t.toNat r.toNat)
  | .buffer d => .next (s.readFailed d)
  | .tail n =>
    match s.sess n.toNat with
    | none => .next s
    | some z => .next (if z.dest = 0 then (s.dmaError z.desc.tenant.toNat).endSess n.toNat St.ABORTED_FAULT else s)

/-- MSIX_COALESCE_TIMEOUT (R564): τ has elapsed since the first completion after the last message. -/
def execMsixCoalesceTimeout (tenant : BitVec 8) (cq : BitVec 6) (s : State) : Host.Outcome State Fault Refusal :=
  let t := tenant.toNat
  let x := s.ten t
  let c := Tbl.get {} x.cq cq.toNat
  if !c.present || c.n == 0 || c.tau == 0 || c.since == 0 then .next s
  else .next ((s.setTen t { x with cq := Tbl.set {} cq.toNat { c with since := 0 } x.cq }).msix t c.vector)

/-- NOP_DESCRIPTOR (R569). -/
def execNopDescriptor (d : Desc) (s : State) : Host.Outcome State Fault Refusal :=
  .next (s.descriptor d false false [] (fun s => s.ok d))

/-- RING_CREATE (R559, R569, R570): `bound` is the CQ of an SQ or the vector of a CQ. -/
def execRingCreate (d : Desc) (ring : BitVec 8) (isCq : Bool) (log2 bound : BitVec 8) (base : BitVec 64) (n tau : BitVec 8)
    (s : State) : Host.Outcome State Fault Refusal :=
  let t := d.tenant.toNat
  let x := s.ten t
  let r := ring.toNat
  let k := log2.toNat
  let b := bound.toNat
  .next (s.descriptor d false false
    [(decide (r = 0) || decide (63 < r) || decide (k < 6) || decide (16 < k) || base.toNat % 4096 != 0 ||
        (if isCq then decide (63 < b) else !(Tbl.get {} x.cq b).present), St.BAD_ARGUMENT),
     (if isCq then (Tbl.get {} x.cq r).present else (Tbl.get {} x.sq r).present, St.REFUSED_BUSY)]
    (fun s =>
      let y := if isCq then
          let c : Cq := { present := true, base := base, log2 := k, vector := b, n := n.toNat, tau := tau.toNat }
          { x with cq := Tbl.set {} r c x.cq }
        else
          let q : Sq := { present := true, base := base, log2 := k, cq := b }
          { x with sq := Tbl.set {} r q x.sq }
      (s.setTen t y).ok d))

/-- RING_DELETE (R562, R570). -/
def execRingDelete (d : Desc) (ring : BitVec 8) (isCq : Bool) (s : State) : Host.Outcome State Fault Refusal :=
  let t := d.tenant.toNat
  let x := s.ten t
  let r := ring.toNat
  let q := Tbl.get {} x.sq r
  .next (s.descriptor d false false
    [(decide (r = 0) || decide (63 < r) || (!isCq && r == d.ring.toNat) ||
        !(if isCq then (Tbl.get {} x.cq r).present else q.present), St.BAD_ARGUMENT),
     (if isCq then x.sq.any (fun p => p.2.present && p.2.cq == r) else !q.outstanding.isEmpty, St.REFUSED_BUSY)]
    (fun s =>
      let y := if isCq then { x with cq := Tbl.set {} r {} x.cq }
        else { x with sq := Tbl.set {} r {} x.sq, ringErr := x.ringErr &&& BitVec.ofNat 64 (2 ^ 64 - 1 - 2 ^ r) }
      (s.setTen t y).ok d))

/-- BUS_MASTER_ENABLE_CHANGE (R556): while the bit is 0 no request of the tenant is issued; set, the withheld writes go
out in their order. -/
def execBusMasterEnableChange (tenant : BitVec 8) (on : Bool) (s : State) : Host.Outcome State Fault Refusal :=
  let t := tenant.toNat
  let x := s.ten t
  if s.dead || !s.funcOn t then .next s
  else if on then .next ((s.setTen t { x with bme := true, withheld := [] }).each x.withheld (fun s o => s.send o))
  else .next (s.setTen t { x with bme := false })

/-- VF_ENABLE (R557): the first `n` VFs are enabled, and a tenant whose VF is new becomes READY. -/
def execVfEnable (n : BitVec 8) (s : State) : Host.Outcome State Fault Refusal :=
  if s.dead then .next s
  else
    let new := ((upTo n.toNat).map (· + 1)).filter (fun t => !(s.ten t).vfEnabled)
    let s := s.each new (fun s t =>
      let s := s.setTen t { s.ten t with vfEnabled := true }
      s.when ((s.ten t).resetStep == 0) (fun s => s.put F.HIF_TENANT_STATUS_state 1 t))
    .next (s.put F.HIF_LINK_STATUS_num_vfs (Nat.max n.toNat (s.get F.HIF_LINK_STATUS_num_vfs)))

/-! ## TENANT_SET and QUERY (R568, R569) -/

/-- TENANT_SET (R569, R568): `mask` bit k writes word k of the five settings; one that its register refuses refuses the
descriptor. -/
def execTenantSet (d : Desc) (tenant : BitVec 8) (mask : BitVec 5) (w0 w1 w2 w3 w4 : Word) (s : State) :
    Host.Outcome State Fault Refusal :=
  let t := tenant.toNat
  .next (s.descriptor d true true [] (fun s =>
    let p : Path := .descriptor 0
    let write := fun (s : State) (k : Nat) =>
      if k = 0 then s.plainWrite p Reg.CAP_QUOTA_FRONT t 0 0 w0
      else if k = 1 then s.plainWrite p Reg.CAP_QUOTA_DEEP t 0 0 w1
      else if k = 2 then s.plainWrite p Reg.SWF_TENANT_CFG t 0 0 w2
      else if k = 3 then s.writeTenantSwf p false t w3
      else s.writeTenantSwf p true t w4
    let (s', st) := (bitsOf 5 mask.toNat).foldl (fun (a : State × Nat) k => if a.2 = 0 then write a.1 k else a) (s, 0)
    if st = 0 then s'.ok d else s.refuse d st))

/-- QUERY (R569): kind 0 STREAM, 1 QUIRE, 2 OP, 3 DQ, 4 KEY. -/
def execQuery (d : Desc) (kind : BitVec 8) (index : Word) (buffer : BitVec 64) (s : State) :
    Host.Outcome State Fault Refusal :=
  let t := d.tenant.toNat
  let k := kind.toNat
  let i := index.toNat
  let last := if k = 0 then 1024 else if k = 1 then 524288 else if k = 2 then 262144 else 1048576
  let mine := if k = 0 then decide (s.strmState i ≠ Strm.IDLE) && s.strmHolder i == t
    else if k = 1 then decide ((s.quire i).state ≠ Qr.FREE) && (s.quire i).tenant == t
    else if k = 2 then s.opHolder i == t
    else s.dqHolder i == t
  .next (s.descriptor d false false
    [(decide (k < 4) && decide (i < last) && !mine, St.REFUSED_NOT_OWNER),
     (decide (4 < k) || (decide (k < 4) && decide (last ≤ i)), St.BAD_ARGUMENT)]
    (fun s =>
      let bytes := if k = 0 then
          [Reg.CAP_STREAM_STATUS, Reg.CAP_STREAM_CFG, Reg.CAP_STREAM_FIRST_QUIRE, Reg.CAP_STREAM_LAST_QUIRE,
           Reg.CAP_STREAM_START_LO, Reg.CAP_STREAM_START_HI, Reg.CAP_STREAM_STOP_LO, Reg.CAP_STREAM_STOP_HI,
           Reg.CAP_STREAM_TRIG_LO, Reg.CAP_STREAM_TRIG_HI, Reg.CAP_STREAM_STORED_LO, Reg.CAP_STREAM_STORED_HI,
           Reg.CAP_STREAM_GAP_LO, Reg.CAP_STREAM_GAP_HI, Reg.CAP_STREAM_LOST_REC, Reg.CAP_STREAM_LOST_EVT0,
           Reg.CAP_STREAM_LOST_EVT1, Reg.CAP_STREAM_LOST_EVT2, Reg.CAP_STREAM_POST].flatMap
            (fun r => natBytes 4 (s.word r i).toNat)
        else if k = 1 then quireBytes (s.quire i)
        else if k = 2 then s.opBytes i
        else s.dqBytes i
      if k = 4 then s.ok d (s.word Reg.SEC_KEY_STATUS t).toNat
      else (s.hostWrite t buffer.toNat bytes).ok d bytes.length))

end Sys2Proof.Machine
end

