-- ==== Sys2Proof/Machine/Grants.lean ====
section
/-! DEFINITION. Machine/Grants.lean: grants, image writes, Function Level Reset and the host link (spec/21 R557, R572, R574,
R575, R578; spec/04 R91, R109; spec/06 R156). -/
namespace Sys2Proof.Machine

/-! ## Units that change holder (R22, R255, R572) -/

/-- The units of each resource type of R572. -/
def unitCount (ty : Nat) : Nat :=
  match ty with
  | 1 => 512
  | 2 => 256
  | 3 => 256
  | 4 => 1048576
  | 5 => 262144
  | 6 => 65536
  | 7 => 32
  | 8 => 192
  | _ => 0

/-- The holder of a unit. -/
def State.unitOwner (s : State) (ty i : Nat) : Nat :=
  match ty with
  | 1 => s.get F.LANE_STATUS_holder i
  | 2 => s.sectHolder i
  | 3 => s.get F.SGC_STATUS_holder i
  | 4 => s.dqHolder i
  | 5 => s.opHolder i
  | 6 => s.get F.PRS_FRM_STATUS_holder i
  | 7 => s.get F.GIO_TLINE_holder i
  | _ => Tbl.get 0 s.trigPinHolder i

/-- An armed sequencer acts on or waits for a global line. -/
def State.lineUsed (s : State) (n : Nat) : Bool :=
  (upTo 16).any (fun i => (upTo 4).any (fun q => s.armed i q && (s.arcs i q).any (fun k =>
    s.on F.SECT_ARC_ACTION_line_en i q k && s.get F.SECT_ARC_ACTION_line i q k == n)))

/-- A unit is in use (R24, R63, R256, R384). -/
def State.unitUsed (s : State) (ty i : Nat) : Bool :=
  match ty with
  | 1 =>
    let sect := i / 32
    let j := i % 32
    s.laneStreamed i || s.prsBusy i || s.get F.CLK_STATUS_active_source == 512 + i || s.trigInUse sect j ||
      (j % 2 == 0 && s.trigInUse sect (0x20 + j / 2)) || (j % 8 == 0 && s.armed sect (j / 8)) ||
      s.someFrame (fun f => s.frameBusy f && (frmLanes f (s.frmTarget f)).contains i)
  | 2 =>
    let st := s.sect i
    st == Sec.LOADING || st == Sec.RELEASING || st == Sec.RUNNING || st == Sec.STOPPING ||
      s.fab.loads.any (fun l => l.sections.contains i) ||
      (i % 16 == 0 && (upTo 8).any (fun k => s.trigInUse (i / 16) (0x54 + k)))
  | 3 =>
    let st := s.coreState i
    st == Core.RUNNING || st == Core.WAITING || st == Core.HALTED
  | 4 => s.dqBusy i
  | 5 => (s.op i).inUse
  | 6 => s.frameBusy i
  | 7 => s.lineUsed i
  | _ => false

/-- The trigger units that follow a lane take their reset values (R255). -/
def State.unitsFollow (s : State) (l : Nat) : State :=
  let i := l / 32
  let j := l % 32
  let back := fun (s : State) (r : RegDef) (a b : Nat) => s.setWord r (r.reset i a b) i a b
  let s := back (back s Reg.SECT_MATCH_CFG j 0) Reg.SECT_MATCH_COUNT j 0
  let s := s.each (upTo 4) (fun s k => back (back s Reg.SECT_MATCH_VALUE j k) Reg.SECT_MATCH_MASK j k)
  let s := if j % 2 = 0 then
      back (back (back s Reg.SECT_CNT_CFG (j / 2) 0) Reg.SECT_CNT_COMPARE (j / 2) 0) Reg.SECT_CNT_VALUE (j / 2) 0 else s
  if j % 8 = 0 then
    let q := j / 8
    let s := back (back (back (back s Reg.SECT_SEQ_CTRL q 0) Reg.SECT_SEQ_STATUS q 0) Reg.SECT_SEQ_TARGET q 0) Reg.SECT_TAP_CFG q 0
    s.each (upTo 16) (fun s k =>
      back (back (back (back s Reg.SECT_ARC_COND q k) Reg.SECT_ARC_ACTION q k) Reg.SECT_ARC_CODE q k) Reg.SECT_ARC_ARG q k)
  else s

/-- A unit other than a section is put into its reset condition (R572). -/
def State.unitReset (s : State) (ty i : Nat) : State :=
  match ty with
  | 1 => (s.laneReset i).unitsFollow i
  | 3 =>
    let st := s.coreState i
    if st = Core.RUNNING ∨ st = Core.WAITING ∨ st = Core.HALTED then s.stopCore i 2 else s
  | 4 => { s.setDq i {} with swf := { (s.setDq i {}).swf with cache := s.swf.cache.erase i } }
  | 5 => (s.unlinkOp i).setOp i {}
  | 6 =>
    let h := s.get F.PRS_FRM_STATUS_holder i
    let lo := 0x10000000 + 0x100 * i
    let s := { s with regs := s.regs.filter (fun p => decide (p.1 < lo) || decide (lo + 0x100 ≤ p.1)) }
    (s.setFrm i {}).put F.PRS_FRM_STATUS_holder h i
  | 8 => s.setWord Reg.GIO_TRIG_PIN (Reg.GIO_TRIG_PIN.reset i 0 0) i
  | _ => s

/-- A unit other than a section gets its holder. -/
def State.unitGive (s : State) (ty i t : Nat) : State :=
  match ty with
  | 1 => (s.put F.LANE_STATUS_holder t i).put F.PRS_LANE_STATUS_holder t i
  | 3 => s.put F.SGC_STATUS_holder t i
  | 4 => { s with swf := { s.swf with dqHolder := Tbl.set 0 i t s.swf.dqHolder } }
  | 5 => { s with swf := { s.swf with opHolder := Tbl.set 0 i t s.swf.opHolder } }
  | 6 => s.put F.PRS_FRM_STATUS_holder t i
  | 7 => s.put F.GIO_TLINE_holder t i
  | 8 => { s with trigPinHolder := Tbl.set 0 i t s.trigPinHolder }
  | _ => s

/-- The power domain in which a unit gives its holder a vote (R620). -/
def unitDom (ty i : Nat) : Option Nat :=
  match ty with
  | 1 => some (domSector (i / 32))
  | 2 => some (domSection i)
  | 3 => some (domCluster (i / 16))
  | 6 => some (domSector (i / 4096))
  | _ => none

/-- Votes follow the holdings of a domain (R620): a new holder's vote comes into being, those of tenants that hold nothing
there any more end. -/
def State.votesFollow (s : State) (n t : Nat) : State :=
  let s := s.voteBorn t n
  s.each ((s.pwr.votes.filter (fun p => p.1 / 256 == n)).map (fun p => p.1 % 256)) (fun s u => s.voteGone u n)

/-- The sections of every finished move change holder, and their votes follow. -/
def State.movesEnd (s : State) : State :=
  let go := s.fab.moves.filter (fun m => (upTo m.count).all (fun i => s.sect (m.first + i) == Sec.EMPTY))
  s.sectMoves.each go (fun s m => s.each (upTo m.count) (fun s i => s.votesFollow (domSection (m.first + i)) m.holder))

/-- Sections begin to move to a holder: each that is not EMPTY is cleared first (R572). -/
def State.sectGive (s : State) (d : Option Desc) (t first count : Nat) : State :=
  let s := s.each ((upTo count).map (· + first)) (fun s n => if s.sect n = Sec.LOADED then s.sectClear n else s)
  let m : SectMove := { desc := d, holder := t, first := first, count := count }
  ({ s with fab := { s.fab with moves := s.fab.moves ++ [m] } }).movesEnd

/-- A range of units moves to a holder (R572). -/
def State.moveUnits (s : State) (d : Desc) (ty first count t : Nat) : State :=
  if ty = 2 then s.sectGive (some d) t first count
  else
    let s := s.each ((upTo count).map (· + first)) (fun s i =>
      let s := (s.unitReset ty i).unitGive ty i t
      match unitDom ty i with
      | some n => s.votesFollow n t
      | none => s)
    s.ok d count

/-- The checks and the effect of GRANT and REVOKE (R572): the units go from one holder to another. -/
def State.grantUnits (s : State) (d : Desc) (ty t first count src dst : Nat) : State :=
  let n := unitCount ty
  let units := (upTo count).map (· + first)
  let range := decide (0 < count) && decide (first + count ≤ n)
  s.descriptor d true true
    [(range && units.any (fun i => s.unitOwner ty i != src), St.REFUSED_NOT_OWNER),
     (!range || t == 0, St.BAD_ARGUMENT),
     (dst != 0 && s.get F.HIF_TENANT_STATUS_state t != 1, St.REFUSED_NOT_READY),
     (units.any (fun i => s.unitUsed ty i), St.REFUSED_BUSY)]
    (fun s => s.moveUnits d ty first count dst)

/-- GRANT (R572). -/
def execGrant (d : Desc) (ty tenant : BitVec 8) (first count : Word) (s : State) : Host.Outcome State Fault Refusal :=
  .next (s.grantUnits d ty.toNat tenant.toNat first.toNat count.toNat 0 tenant.toNat)

/-- REVOKE (R572). -/
def execRevoke (d : Desc) (ty tenant : BitVec 8) (first count : Word) (s : State) : Host.Outcome State Fault Refusal :=
  .next (s.grantUnits d ty.toNat tenant.toNat first.toNat count.toNat tenant.toNat 0)

/-! ## Reset of a tenant (R574, R575) -/

/-- The FRAME streams of a tenant that have anything but reset values. -/
def State.framesOf (s : State) (t : Nat) : List Nat :=
  let fs := ((s.regs.filter (fun p => decide (0x10000000 ≤ p.1))).map (fun p => (p.1 - 0x10000000) / 256)) ++
    s.frames.map (fun p => p.1)
  (fs.filter (fun f => s.get F.PRS_FRM_STATUS_holder f == t)).eraseDups

/-- Descriptors of a tenant that wait anywhere write no completion (R574, step 1). -/
def State.dropDescs (s : State) (t : Nat) : State :=
  let mine := fun (d : Option Desc) => d.any (fun d => d.tenant.toNat == t)
  { s with
    pwr := { s.pwr with waits := s.pwr.waits.filter (fun w => !mine w.desc) },
    swf := { s.swf with asks := s.swf.asks.filter (fun a => !mine (a.host.map (fun h => h.1))) },
    fab := { s.fab with waits := s.fab.waits.filter (fun p => !mine p.2),
                        loads := s.fab.loads.filter (fun l => l.desc.tenant.toNat != t) },
    cap := { s.cap with streams := s.cap.streams.map (fun p => if mine p.2.stopDesc then (p.1, { p.2 with stopDesc := none }) else p) } }

/-- Steps 1 to 3 of R574; a debug session of the tenant's scope ends (R650). -/
def State.resetBegin (s : State) (t : Nat) : State :=
  let s := s.when (s.get F.DBG_STATUS_scope == V.DBG_STATUS_scope_TENANT && s.scopeTenant == t) State.endSession
  let s := s.setTen t { vfEnabled := (s.ten t).vfEnabled, resetStep := 1 }
  let s := ((s.setWord Reg.HIF_TENANT_STATUS 0 t).put F.HIF_TENANT_STATUS_state 2 t).dropDescs t
  let lanes := (upTo 512).filter (fun l => s.get F.LANE_STATUS_holder l == t)
  let s := s.each (upTo 16) (fun s i => s.each (upTo 4) (fun s q =>
    if s.seqHolder i q = t ∧ s.armed i q then s.clr F.SECT_SEQ_STATUS_armed i q else s))
  let s := s.each lanes (fun s l =>
    (((s.digAbort l 0).digAbort l 1).probeEnd l V.LANE_PROBE_STATUS_result_ABORTED St.ABORTED_FAULT).pressReset l)
  let s := s.each (s.framesOf t) (fun s f => s.frmEnd f 0)
  let s := s.each (s.cap.streams.filter (fun p => s.strmHolder p.1 == t && s.strmActive p.1)) (fun s p =>
    s.beginStop p.1 V.CAP_STREAM_STATUS_end_cause_FLR s.now)
  let s := s.endTenantSess t St.ABORTED_FAULT
  let s := s.each ((upTo 256).filter (fun c => s.get F.SGC_STATUS_holder c == t)) (fun s c => s.unitReset 3 c)
  let s := s.each ((upTo 256).filter (fun n => s.sectHolder n == t && (s.sect n == Sec.RUNNING || s.sect n == Sec.RELEASING)))
    (fun s n => s.sectStop n)
  let s := s.each (s.swf.tasks.filter (fun p => p.2.phase != 0 && s.opHolder p.2.op == t)) (fun s p =>
    (s.releasePlaces (s.task p.1)).freeTask p.1)
  let s := s.each (s.swf.ops.filter (fun p => s.opHolder p.1 == t)) (fun s p => s.unitReset 5 p.1)
  s.each (s.swf.dq.filter (fun p => s.dqHolder p.1 == t)) (fun s p => s.unitReset 4 p.1)

/-- A section of a tenant returns to T000 in a reset: where its domain is not ON it goes at once, to be cleared at the next
power-up. -/
def State.sectReturn (s : State) (n : Nat) : State :=
  let s := if s.sect n = Sec.STOPPING then s.sectStopped n else s
  if s.domOn (domSection n) then
    let s := if s.sect n = Sec.EMPTY ∨ s.sect n = Sec.CLEARING then s else s.sectClear n
    { s with fab := { s.fab with moves := s.fab.moves ++ [{ desc := none, holder := 0, first := n, count := 1 }] } }
  else ((s.sectBlank n).sectClear n).sectMoved { desc := none, holder := 0, first := n, count := 1 }

/-- The end of a reset (R574): the tenant is READY again or DISABLED. -/
def State.resetEnd (s : State) (t : Nat) : State :=
  let up := if t = 0 then s.hostless || s.get F.HIF_LINK_STATUS_state == V.HIF_LINK_STATUS_state_UP else (s.ten t).vfEnabled
  let s := s.setTen t { s.ten t with resetStep := 0 }
  (s.put F.HIF_TENANT_STATUS_state (b2n up) t).ev F.HIF_EVENTS_flr_done

/-- Every reset whose sections are back ends. -/
def State.resetsEnd (s : State) : State :=
  if s.fab.moves.any (fun m => m.holder == 0 && m.desc.isNone) then s
  else s.each (s.tenants.filter (fun p => p.2.resetStep == 2)) (fun s p => s.resetEnd p.1)

/-- Steps 4 and 5 of R574. -/
def State.resetRelease (s : State) (t : Nat) : State :=
  let s := s.zeroise t
  let s := (s.setWord Reg.CAP_QUOTA_FRONT 0 t).setWord Reg.CAP_QUOTA_DEEP 0 t
  let back := fun (ty : Nat) (ns : List Nat) (s : State) =>
    s.each (ns.filter (fun i => s.unitOwner ty i == t)) (fun s i => (s.unitReset ty i).unitGive ty i 0)
  let s := back 1 (upTo 512) s
  let s := back 3 (upTo 256) s
  let s := back 4 ((s.swf.dqHolder.map (fun p => p.1)) ++ s.swf.dq.map (fun p => p.1)) s
  let s := back 5 ((s.swf.opHolder.map (fun p => p.1)) ++ s.swf.ops.map (fun p => p.1)) s
  let s := back 6 (s.framesOf t) s
  let s := back 7 (upTo 32) s
  let s := back 8 (upTo 192) s
  let s := s.each ((upTo 256).filter (fun n => s.sectHolder n == t)) (fun s n => s.sectReturn n)
  let s := s.movesEnd
  let s := s.each tenantDoms (fun s n => s.voteGone t n)
  (s.setTen t { s.ten t with resetStep := 2 }).resetsEnd

/-- SECTION_CLEAR_DONE (R152, R156): a cleared section is EMPTY, or LOADING when a load waits for it. Where
its domain is OFF the clearing takes place at the next power-up. -/
def execSectionClearDone (sec : BitVec 8) (s : State) : Host.Outcome State Fault Refusal :=
  let n := sec.toNat
  if s.sect n ≠ Sec.CLEARING ∨ !s.domOn (domSection n) then .next s
  else
    let s := s.sectBlank n
    if s.fab.loads.any (fun l => l.sections.contains n) then .next (s.setSect n Sec.LOADING)
    else .next ((s.setSect n Sec.EMPTY).sectWake n St.OK).movesEnd.resetsEnd

/-- FLR_VF (R574): Function Level Reset of an enabled VF. -/
def execFlrVf (tenant : BitVec 8) (s : State) : Host.Outcome State Fault Refusal :=
  let t := tenant.toNat
  if s.dead || t == 0 || !s.funcOn t || (s.ten t).resetStep != 0 then .next s else .next (s.resetBegin t)

/-- FLR_QUIRE_RELEASE (R574, R575): every stream of the tenant is CLOSED, and for T000 every other reset has ended. -/
def execFlrQuireRelease (tenant : BitVec 8) (s : State) : Host.Outcome State Fault Refusal :=
  let t := tenant.toNat
  let open' := s.cap.streams.any (fun p => s.strmHolder p.1 == t && (s.strmActive p.1 || s.strmState p.1 == Strm.STOPPING))
  let others := t == 0 && s.tenants.any (fun p => p.1 != 0 && p.2.resetStep != 0)
  if s.dead || (s.ten t).resetStep != 1 || open' || others then .next s else .next (s.resetRelease t)

/-- VFs above a number are removed (R557): each is reset, and becomes DISABLED. -/
def State.vfsDown (s : State) (n : Nat) : State :=
  let go := (s.tenants.filter (fun p => p.2.vfEnabled && decide (n < p.1))).map (fun p => p.1)
  let s := s.each go (fun s t =>
    let s := s.setTen t { s.ten t with vfEnabled := false }
    if (s.ten t).resetStep = 0 then s.resetBegin t else s)
  s.put F.HIF_LINK_STATUS_num_vfs (Nat.min n (s.get F.HIF_LINK_STATUS_num_vfs))

/-- VF_DISABLE (R557): NumVFs is lowered to `n`, or VF Enable cleared. -/
def execVfDisable (n : BitVec 8) (s : State) : Host.Outcome State Fault Refusal :=
  .next (if s.dead then s else s.vfsDown n.toNat)

/-- The reset of PF0 (R575): every tenant is reset, then T000. -/
def State.resetPf0 (s : State) : State :=
  let s := s.vfsDown 0
  if (s.ten 0).resetStep = 0 then s.resetBegin 0 else s

/-- FLR_PF0 (R575). -/
def execFlrPf0 (s : State) : Host.Outcome State Fault Refusal := .next (if s.dead then s else s.resetPf0)

/-! ## The host link (R91, R92, R553, R557, R575, R578) -/

/-- The host link leaves UP. -/
def State.linkDown (s : State) : State :=
  let s := s.when (s.get F.HIF_LINK_STATUS_state == V.HIF_LINK_STATUS_state_UP) (fun s => s.ev F.HIF_EVENTS_link_down)
  let s := ((s.put F.HIF_LINK_STATUS_state V.HIF_LINK_STATUS_state_DOWN).put F.HIF_LINK_STATUS_rate 0).put F.HIF_LINK_STATUS_width 0
  s.put F.HIF_LINK_STATUS_flit 0

/-- PERST_N_ASSERT (R91, R575): the link is held down, and the reset of PF0 applies. -/
def execPerstNAssert (s : State) : Host.Outcome State Fault Refusal :=
  if s.dead then .next s
  else
    let s := s.linkDown.put F.HIF_LINK_STATUS_perst_n 0
    .next s.resetPf0

/-- PERST_N_RELEASE (R91, R92): S03 runs, or runs again. -/
def execPerstNRelease (s : State) : Host.Outcome State Fault Refusal :=
  if s.dead || s.on F.HIF_LINK_STATUS_perst_n then .next s
  else
    let s := s.put F.HIF_LINK_STATUS_perst_n 1
    if s.boot.endedS03 && !s.hostless then
      let s := s.put F.HIF_LINK_STATUS_state V.HIF_LINK_STATUS_state_TRAINING
      .next { s with boot := { s.boot with active := s.boot.active ++ [3] } }
    else .next s

/-- HOST_LINK_LOSS (R575, R578): the link leaves UP without PERST_N. -/
def execHostLinkLoss (s : State) : Host.Outcome State Fault Refusal :=
  if s.dead || s.get F.HIF_LINK_STATUS_state != V.HIF_LINK_STATUS_state_UP then .next s
  else .next (s.linkDown.put F.HIF_TENANT_STATUS_state 0 0)

/-- LINK_LOSS_TIMEOUT (R575): the link has been lost for 1 ms. -/
def execLinkLossTimeout (s : State) : Host.Outcome State Fault Refusal :=
  if s.dead || s.hostless || s.get F.HIF_LINK_STATUS_state == V.HIF_LINK_STATUS_state_UP || !s.on F.HIF_LINK_STATUS_perst_n then
    .next s
  else .next s.resetPf0

/-- HOST_LINK_UP (R578): the link trains and enters UP outside a start step. -/
def execHostLinkUp (rate : BitVec 4) (width : BitVec 7) (flit : Bool) (s : State) : Host.Outcome State Fault Refusal :=
  if s.dead || s.hostless || !s.on F.HIF_LINK_STATUS_perst_n || s.boot.active.contains 3 ||
      s.get F.HIF_LINK_STATUS_state == V.HIF_LINK_STATUS_state_UP then .next s
  else .next (s.linkUp rate.toNat width.toNat flit)

/-! ## Image writes (R109, R117) -/

/-- A start halted with NO_FIRMWARE, in which the mask ROM still takes image writes (R107). -/
def State.noFirmware (s : State) : Bool := s.boot.halted && s.get F.BOOT_STEP_STATUS_cause 7 == 0x17

/-- IMAGE_WRITE (R109, R117): `slot` 0 firmware A, 1 firmware B, 2 fabric A, 3 fabric B. At the last part the check of R106
without step 7 gives `cause` (0 passes) and the image its rollback version and section map. -/
def execImageWrite (d : Desc) (slot : BitVec 8) (first last : Bool) (offset length : Word) (cause : BitVec 8)
    (rollback : BitVec 7) (map : BitVec 256) (s : State) : Host.Outcome State Fault Refusal :=
  let k := slot.toNat + 1
  let room := if k ≤ 2 then 0x800000 else 0x6000000
  let running := s.boot.fwRunning == k + 1 || (decide (3 ≤ k) && s.boot.fabRunning + 2 == k)
  let off := offset.toNat
  let len := length.toNat
  let early := s.noFirmware
  let s0 := if early then { s with boot := { s.boot with ready := true } } else s
  let out := s0.descriptor d true true
    [(decide (4 < k) || off % 4 != 0 || len % 4 != 0 || len == 0 || decide (1048576 < len) || decide (room < off + len),
      St.BAD_ARGUMENT), (running, St.REFUSED_BUSY)]
    (fun s =>
      if d.readFail then s.readFailed d
      else
        let put := fun (s : State) (x : Slot) => { s with colo := { s.colo with slots := Tbl.set {} k x s.colo.slots } }
        let old := Tbl.get {} s.colo.slots k
        let s := if first || old.state ≠ 1 then put s { state := 1 } else s
        let s := { s with boot := { s.boot with writing := some k } }
        let s := if last then
            let x : Slot := if cause = 0 then { state := 2, rollback := rollback.toNat, sectionMap := map.toNat } else { state := 3 }
            let s := put s x
            ({ s with boot := { s.boot with writing := none } }).ev F.BOOT_EVENTS_slot_written
          else s
        let s := s.showSlots
        s.ok d (Tbl.get {} s.colo.slots k).state)
  .next (if early then { out with boot := { out.boot with ready := false } } else out)

end Sys2Proof.Machine
end

