-- ==== Sys2Proof/Machine/RegBus.lean ====
section
/-! DEFINITION. Machine/RegBus.lean: the one way to every register (spec/28, R702 to R719): reads with their latches, the
routing of a write to its chapter's rules, and the registers a tenant reaches (R573). -/
namespace Sys2Proof.Machine

/-- Two registers of the table are the same. -/
def RegDef.is (a b : RegDef) : Bool := a.id == b.id

/-! ## What a register shows -/

/-- The registers of GLB.STATE.attention, from bit 0 (R715). -/
def attentionRegs : List RegDef :=
  [Reg.CLK_REF_EVENTS, Reg.PWR_EVENTS, Reg.BOOT_EVENTS, Reg.RAS_EVENTS, Reg.OBS_EVENTS, Reg.GIO_EVENTS, Reg.DBG_EVENTS,
   Reg.SEC_EVENTS, Reg.HIF_EVENTS, Reg.SWF_EVENTS, Reg.NOC_EVENTS, Reg.BRY_RING_EVENTS, Reg.MEM_EVENTS, Reg.CAP_EVENTS,
   Reg.GLB_ERR_STATUS]

/-- GLB.STATE (R715). -/
def State.glbState (s : State) : Word :=
  let o := s.get F.BOOT_START_STATUS_outcome
  let lost := s.lanes.any (fun p => s.laneState p.1 == Ln.UNAVAILABLE) || (upTo 512).any (fun l => s.laneState l == Ln.UNAVAILABLE)
  let st := if o = V.BOOT_START_STATUS_outcome_HALTED then 3
    else if !s.boot.ready then 0
    else if o = V.BOOT_START_STATUS_outcome_READY_DEGRADED ∨ s.get F.RAS_STATUS_class_seen ≠ 0 ∨ lost then 2 else 1
  let att := ((upTo 15).zip attentionRegs).map (fun (q : Nat × RegDef) =>
    if (s.word q.2).toNat &&& q.2.w1c != 0 then 2 ^ q.1 else 0)
  BitVec.ofNat 32 (st * 2 ^ 28 + s.devState * 2 ^ 25 + att.sum)

/-- The status registers that report a unit whose domain is not ON (R719). -/
def reportsOff (r : RegDef) : Bool :=
  [Reg.LANE_STATUS, Reg.PRS_LANE_STATUS, Reg.SGC_STATUS, Reg.FAB_SECT_STATUS, Reg.MEM_HBM_STATUS, Reg.MEM_DDR_STATUS,
   Reg.MEM_CXL_STATUS, Reg.BRY_PORT_STATUS].any (fun x => x.is r)

/-- The word a read shows: the reset value in a domain that is OFF (R719), the fields that follow other state, zero for WO
bits (R707). -/
def State.shown (s : State) (r : RegDef) (i j k : Nat) : Word :=
  let off := match regDomain (r.addr i j k) with
    | some n => s.dom n == V.PWR_DOMAIN_STATUS_state_OFF && !reportsOff r
    | none => false
  if off then r.reset i j k
  else if r.is Reg.GLB_STATE then s.glbState
  else if r.is Reg.HIF_TENANT_STATUS then (s.put F.HIF_TENANT_STATUS_service_ready (b2n s.boot.ready) i).word r i
  else if r.is Reg.FAB_RCLK_STATUS then BitVec.ofNat 32 (s.rclkRunning i)
  else if r.is Reg.DBG_HALT_CMD then
    (s.put F.DBG_HALT_CMD_stopped (b2n (s.unitStopped (s.get F.DBG_HALT_CMD_kind) (s.get F.DBG_HALT_CMD_index)))).word r
  else s.word r i j k &&& BitVec.ofNat 32 (0xFFFFFFFF ^^^ r.wo)

/-! ## Latching reads (R71, R710) -/

/-- The read-only pairs: a read of LO latches HI for its path. -/
def latchPairs : List (RegDef × RegDef) :=
  [(Reg.CLK_TIME_LO, Reg.CLK_TIME_HI), (Reg.CLK_PPS_CAP_LO, Reg.CLK_PPS_CAP_HI),
   (Reg.RAS_LOG_NEWEST_LO, Reg.RAS_LOG_NEWEST_HI), (Reg.OBS_FOL_TAKEN_LO, Reg.OBS_FOL_TAKEN_HI),
   (Reg.SEC_ACTIVE_KEY_BOUNDARY_LO, Reg.SEC_ACTIVE_KEY_BOUNDARY_HI), (Reg.SWF_DECISIONS_LO, Reg.SWF_DECISIONS_HI),
   (Reg.SWF_FIRINGS_LO, Reg.SWF_FIRINGS_HI), (Reg.NOC_PROBE_COUNT_LO, Reg.NOC_PROBE_COUNT_HI),
   (Reg.CAP_STREAM_START_LO, Reg.CAP_STREAM_START_HI), (Reg.CAP_STREAM_STOP_LO, Reg.CAP_STREAM_STOP_HI),
   (Reg.CAP_STREAM_TRIG_LO, Reg.CAP_STREAM_TRIG_HI), (Reg.CAP_STREAM_STORED_LO, Reg.CAP_STREAM_STORED_HI),
   (Reg.CAP_STREAM_GAP_LO, Reg.CAP_STREAM_GAP_HI), (Reg.CAP_SESS_HORIZON_LO, Reg.CAP_SESS_HORIZON_HI),
   (Reg.CAP_SESS_RECORDS_LO, Reg.CAP_SESS_RECORDS_HI), (Reg.PRS_SHP_LEVEL_LO, Reg.PRS_SHP_LEVEL_HI),
   (Reg.PRS_FRM_SENT_LO, Reg.PRS_FRM_SENT_HI)]

/-- The latched words of a path under the register at `off`; zero before any latching read (R710). -/
def State.latched (s : State) (off : Nat) (p : Path) (n : Nat) : Word :=
  ((Tbl.get [] s.latch (512 * off + pathLatch p))[n]?).getD 0

/-- Latch words for a path. -/
def State.setLatch (s : State) (off : Nat) (p : Path) (ws : List Word) : State :=
  { s with latch := Tbl.set [] (512 * off + pathLatch p) ws s.latch }

/-- The 64-bit value of a read-only pair: the timebase, a session's horizon (R336), zero without one, or the pair's words. -/
def State.pairValue (s : State) (lo hi : RegDef) (i j k : Nat) : Nat :=
  if lo.is Reg.CLK_TIME_LO then s.now
  else if lo.is Reg.CAP_SESS_HORIZON_LO then
    match s.sess i with
    | some z => (s.sessHorizon z).getD 0
    | none => 0
  else (s.shown lo i j k).toNat + (s.shown hi i j k).toNat * 2 ^ 32

/-- The record that word 0 of a window latches (R296, R311, R482, R483). -/
def State.windowRecord (s : State) (r : RegDef) : List Nat :=
  if r.is Reg.CAP_QT_DATA then quireBytes (s.quire (s.get F.CAP_QT_INDEX_quire))
  else if r.is Reg.SWF_OP_DATA then s.opBytes (s.get F.SWF_OP_INDEX_op)
  else s.dqBytes (s.get F.SWF_DQ_INDEX_dq)

/-- The 32-bit words of bytes, least significant first. -/
def wordsOf (n : Nat) (bs : List Nat) : List Word := (upTo n).map (fun i => BitVec.ofNat 32 (natOf ((bs.drop (4 * i)).take 4)))

/-- A read of a register with its side effects (R707, R710); `clears` is off for the SMBus (R691). -/
def State.readAt (s : State) (p : Path) (r : RegDef) (i j k : Nat) (clears : Bool) : State × Word :=
  let off := r.addr i j k
  match latchPairs.find? (fun q => q.1.is r || q.2.is r) with
  | some (lo, hi) =>
    if lo.is r then
      let v := s.pairValue lo hi i j k
      (s.setLatch off p [BitVec.ofNat 32 (v / 2 ^ 32)], BitVec.ofNat 32 v)
    else (s, s.latched (lo.addr i j k) p 0)
  | none =>
    if r.is Reg.CAP_QT_DATA || r.is Reg.SWF_OP_DATA || r.is Reg.SWF_DQ_DATA then
      if i = 0 then
        let ws := wordsOf 16 (s.windowRecord r)
        (s.setLatch off p (ws.drop 1), (ws.head?).getD 0)
      else (s, s.latched r.base p (i - 1))
    else if r.is Reg.RAS_LOG_DATA then (if i = 0 then s.readLogData p else (s, s.latched r.base p (i - 1)))
    else if r.is Reg.OBS_SHD_OFFSET then s.readShadow p
    else if r.is Reg.OBS_SHD_VALUE_LO then (s, s.latched Reg.OBS_SHD_OFFSET.base p 0)
    else if r.is Reg.OBS_SHD_VALUE_HI then (s, s.latched Reg.OBS_SHD_OFFSET.base p 1)
    else if r.is Reg.GIO_IN then
      let (s, v) := s.readGioIn i
      (s, BitVec.ofNat 32 v)
    else
      let v := s.shown r i j k
      (if clears && r.rc != 0 then s.setWord r (s.word r i j k &&& BitVec.ofNat 32 (0xFFFFFFFF ^^^ r.rc)) i j k else s, v)

/-! ## The memory windows of a core (R510) -/

/-- The core and the offset within its block, for an offset of a memory window. -/
def coreWindowAt (off : Nat) : Option (Nat × Nat) :=
  if 0x2000000 ≤ off ∧ off < 0x4000000 ∧ (off - 0x2000000) % 0x20000 < 0x18000 ∧ off % 4 = 0 then
    some ((off - 0x2000000) / 0x20000, (off - 0x2000000) % 0x20000)
  else none

/-- The owner's windows of a core are open (R510). -/
def State.windowOpen (s : State) (c : Nat) : Bool := s.coreHolder c == 0 && s.coreState c == Core.STOPPED

/-- A 32-bit word of a core's windows: two data words, or an instruction. -/
def CoreSt.windowRead (x : CoreSt) (rel : Nat) : Nat :=
  if rel < 0x10000 then x.word (rel / 2) + x.word (rel / 2 + 1) * 65536 else Tbl.get 0 x.imem ((rel - 0x10000) / 4)

/-- Write a 32-bit word of a core's windows. -/
def CoreSt.windowWrite (x : CoreSt) (rel v : Nat) : CoreSt :=
  if rel < 0x10000 then (x.setWord (rel / 2) v).setWord (rel / 2 + 1) (v / 65536)
  else { x with imem := Tbl.set 0 ((rel - 0x10000) / 4) v x.imem }

/-! ## Reads and writes by offset (R702, R705, R706) -/

/-- In DEEP_SLEEP without host_en the always-on logic completes BAR0 accesses (R705). -/
def State.asleepFor (s : State) (p : Path) : Bool :=
  p == .bar0 && s.devState == V.PWR_DEV_STATUS_state_DEEP_SLEEP && !s.on F.PWR_WAKE_CFG_host_en

/-- A read of the register at a BAR0 offset (R702, R705, R93). -/
def State.readReg (s : State) (p : Path) (off : Nat) (clears : Bool := true) : State × Word :=
  let off := s.translate off
  let awake := [Reg.GLB_ID, Reg.PWR_DEV_STATUS, Reg.PWR_DEV_CTRL, Reg.PWR_WAKE_CFG].any (fun r => r.base == off)
  if s.dead || (s.asleepFor p && !awake) || !s.openBlock off then (s, 0)
  else match findReg off with
    | some (r, i, j, k) => s.readAt p r i j k clears
    | none =>
      match coreWindowAt off with
      | some (c, rel) => (s, if s.windowOpen c && p != .management then BitVec.ofNat 32 ((s.core c).windowRead rel) else 0)
      | none => (s, 0)

/-- A write of a register, routed to the rules of its chapter (R706); `path` is a debugger's path (R660). -/
def State.writeAt (s : State) (p : Path) (path : Nat) (r : RegDef) (i j k : Nat) (v : Word) : State × Nat :=
  let off := r.addr i j k
  if 0xA000 ≤ off ∧ off < 0xB000 then s.writeDbg p path r i j v
  else if r.is Reg.CLK_REF_CTRL then s.writeRefCtrl p v
  else if r.is Reg.CLK_CAND then s.writeCand p i v
  else if r.is Reg.CLK_OUT_CTRL then s.writeOutCtrl p i v
  else if r.is Reg.CLK_FREQ_ADJ then s.writeFreqAdj p v
  else if r.is Reg.CLK_TIME_CMD then s.writeTimeCmd p v
  else if r.is Reg.PWR_DEV_CTRL then s.writeDevCtrl p v
  else if r.is Reg.PWR_VOTE_CMD then s.writeVoteCmd p v false
  else if r.is Reg.BOOT_CTRL then s.writeBootCtrl p v
  else if r.is Reg.BOOT_IMAGE_SEL then s.writeImageSel p v
  else if r.is Reg.OBS_FOL_CMD then s.writeFolCmd p v
  else if r.is Reg.OBS_FOL_CFG then s.writeFolCfg p v
  else if r.is Reg.GIO_LOAD_CMD then s.writeLoadCmd p v
  else if r.is Reg.GIO_BANK_CFG then s.writeBankCfg p i v
  else if r.is Reg.GIO_OUT then s.writeGioOut p i v
  else if r.is Reg.GIO_PIN_CFG then s.writePinCfg p i v
  else if r.is Reg.GIO_TLINE then s.writeTline p i v
  else if r.is Reg.SEC_CTRL then s.writeSecCtrl p v
  else if r.is Reg.SEC_RING_KEY then s.writeRingKey p i v
  else if r.is Reg.HIF_TENANT_STATUS then s.guardWrite p r i 0 0 v false (fun s => (s, St.OK))
  else if r.is Reg.SWF_POOL_CFG then s.writePoolCfg p v
  else if r.is Reg.SWF_TENANT_TOKQ then s.writeTenantSwf p false i v
  else if r.is Reg.SWF_TENANT_CACHE then s.writeTenantSwf p true i v
  else if r.is Reg.SWF_TRACE_CFG then s.writeTraceCfg p v
  else if r.is Reg.NOC_PROBE_CFG then s.writeProbe p 0 i v
  else if r.is Reg.NOC_PROBE_FILTER then s.writeProbe p 1 i v
  else if r.is Reg.NOC_PROBE_SRC then s.writeProbe p 2 i v
  else if r.is Reg.NOC_PROBE_DST then s.writeProbe p 3 i v
  else if r.is Reg.BRY_RMT_CTRL then s.writeRmtCtrl p v
  else if r.is Reg.BRY_RING_CFG then s.writeRingCfg p v
  else if r.is Reg.MEM_CXL_MODE then s.writeCxlMode p v
  else if r.is Reg.CAP_DRAIN_CFG then s.writeDrainCfg p v
  else if 0x410000 ≤ off ∧ off < 0x430000 then
    s.guardWrite p r i j k v false (fun s => refuseWrite s p St.REFUSED_BUSY (fun s => s.ev F.CAP_EVENTS_wr_refused))
  else if r.is Reg.PRS_CACHE_LINES then s.writeCacheLines p i v
  else if r.is Reg.PRS_LANE_CFG || r.is Reg.PRS_RELAY_CFG || r.is Reg.PRS_RELAY_MATCH || r.is Reg.PRS_IDLE_CFG ||
      r.is Reg.PRS_IDLE_PAT then s.writePress p r i j k v
  else if 0x10000000 ≤ off then s.writeFrame p r i v
  else if r.is Reg.LANE_CTRL then s.writeLaneCtrl p i v
  else if r.is Reg.LANE_RATE || r.is Reg.LANE_MULT then s.writeLaneRate p r i v
  else if r.is Reg.LANE_TX_FIR then s.writeTxFir p i v
  else if r.is Reg.LANE_RX_EQ then s.writeRxEq p i v
  else if r.is Reg.LANE_RX_COEF then s.writeRxCoef p i v
  else if r.is Reg.LANE_DIG_CFG then s.writeDigCfg p i j v
  else if r.is Reg.LANE_PROBE_CTRL then s.writeProbeCtrl p i v
  else if r.is Reg.LANE_PROBE_DATA then s.writeProbeData p i j v
  else if r.is Reg.SECT_LANE_CFG then s.writeIntake p 0 i j v
  else if r.is Reg.SECT_COMMA_CFG then s.writeIntake p 1 i j v
  else if r.is Reg.SECT_DESKEW_CFG then s.writeIntake p 2 i j v
  else if r.is Reg.SECT_MATCH_CFG then s.writeMatch p 0 i j k v
  else if r.is Reg.SECT_MATCH_VALUE then s.writeMatch p 1 i j k v
  else if r.is Reg.SECT_MATCH_MASK then s.writeMatch p 2 i j k v
  else if r.is Reg.SECT_CNT_CFG then s.writeCnt p false i j v
  else if r.is Reg.SECT_CNT_COMPARE then s.writeCnt p true i j v
  else if r.is Reg.SECT_SEQ_CTRL then s.writeSeqCtrl p i j v
  else if r.is Reg.SECT_ARC_COND then s.writeArc p 0 i j k v
  else if r.is Reg.SECT_ARC_ACTION then s.writeArc p 1 i j k v
  else if r.is Reg.SECT_ARC_CODE then s.writeArc p 2 i j k v
  else if r.is Reg.SECT_ARC_ARG then s.writeArc p 3 i j k v
  else if r.is Reg.SECT_SEQ_TARGET then s.writeArc p 4 i j k v
  else if r.is Reg.SGC_TASK_CFG then s.writeSgc p 0 i v
  else if r.is Reg.SGC_VECTOR then s.writeSgc p 1 i v
  else if r.is Reg.SGC_COLL_CFG then s.writeSgc p 2 i v
  else if r.is Reg.FAB_SECT_CTRL then s.writeSectCtrl p i v
  else if r.is Reg.FAB_RCLK_CTRL then s.writeRclk p i j v
  else if r.is Reg.FAB_MEM_INJECT then s.writeMemInject p i v false
  else s.plainWrite p r i j k v

/-- A write of the word at a BAR0 offset (R702, R706): a hole reports it; a core's window takes it while it is open (R510). -/
def State.writeReg (s : State) (p : Path) (path : Nat) (off : Nat) (v : Word) : State × Nat :=
  let off := s.translate off
  if s.dead then (s, St.ABORTED_FAULT)
  else match findReg off with
    | some (r, i, j, k) => s.writeAt p path r i j k v
    | none =>
      match coreWindowAt off with
      | some (c, rel) =>
        if s.asleepFor p then (s.lostWrite off p, St.REFUSED_POWER)
        else if !s.openBlock off then (s.cnt F.BOOT_EARLY_WRITES_value, St.REFUSED_NOT_READY)
        else if s.windowOpen c then (s.setCore c ((s.core c).windowWrite rel v.toNat), St.OK)
        else refuseWrite s p St.REFUSED_BUSY (fun s => s.ev F.SGC_EVENTS_wr_refused c)
      | none =>
        ((s.err V.GLB_ERR_INFO_kind_UNMAPPED_WRITE off p).cnt F.GLB_UNMAPPED_WRITES_value, St.REFUSED_NOT_OWNER)

/-! ## The registers a tenant reaches (R573, R713) -/

/-- The registers a tenant writes, the W1C fields of its units' event registers among them. -/
def tenantWrites : List RegDef :=
  [Reg.LANE_CTRL, Reg.LANE_RATE, Reg.LANE_MULT, Reg.LANE_TX_FIR, Reg.LANE_RX_EQ, Reg.LANE_RX_COEF, Reg.LANE_PROBE_DATA,
   Reg.SECT_LANE_CFG, Reg.SECT_COMMA_CFG, Reg.SECT_DESKEW_CFG, Reg.SECT_MATCH_CFG, Reg.SECT_MATCH_VALUE, Reg.SECT_MATCH_MASK,
   Reg.SECT_CNT_CFG, Reg.SECT_CNT_COMPARE, Reg.SECT_CNT_VALUE, Reg.SECT_TAP_CFG, Reg.SECT_SEQ_CTRL, Reg.SECT_SEQ_TARGET] ++
  [Reg.SECT_ARC_COND, Reg.SECT_ARC_ACTION, Reg.SECT_ARC_CODE, Reg.SECT_ARC_ARG, Reg.GIO_TRIG_PIN, Reg.GIO_TLINE,
   Reg.PRS_LANE_CFG, Reg.PRS_RELAY_CFG, Reg.PRS_RELAY_MATCH, Reg.PRS_IDLE_CFG, Reg.PRS_IDLE_PAT, Reg.PRS_CACHE_LINES,
   Reg.SGC_TASK_CFG, Reg.SGC_COLL_CFG, Reg.SGC_VECTOR, Reg.FAB_RCLK_CTRL, Reg.LANE_EVENTS, Reg.PRS_EVENTS, Reg.SGC_EVENTS] ++
  [Reg.FAB_SECT_EVENTS, Reg.FAB_MEM_STATUS]

/-- The sector-wide registers, which only the owner reads and clears. -/
def sectorWide : List RegDef :=
  [Reg.SECT_INTAKE_STATUS, Reg.SECT_INTAKE_EVENTS, Reg.SECT_SLICE_SWITCH_COUNT, Reg.SECT_TRIG_EVENTS, Reg.SECT_TRIG_LATE,
   Reg.SECT_TAP_DISCARDS, Reg.SECT_RIBBON_SUPPRESSED]

/-- The register at an offset lies in an instance that tenant `t` holds. -/
def State.heldReg (s : State) (t off : Nat) (r : RegDef) (i j : Nat) : Bool :=
  if sectorWide.any (fun x => x.is r) then false
  else if r.is Reg.SECT_BUNDLE_MEMBERS || r.is Reg.SECT_BUNDLE_STATUS then
    (upTo 32).any (fun l => bit (s.get F.SECT_BUNDLE_MEMBERS_value i j) l && s.get F.LANE_STATUS_holder (32 * i + l) == t)
  else if 0x410000 ≤ off ∧ off < 0x430000 then s.strmState i != Strm.IDLE && s.strmHolder i == t
  else if r.is Reg.GIO_PIN_CFG then Tbl.get 0 s.trigPinHolder i == t
  else
    let unit := (decide (0x800000 ≤ off) && decide (off < 0xA40000)) || (decide (0x500000 ≤ off) && decide (off < 0x580000)) ||
      (decide (0x2000000 ≤ off) && decide (off < 0x5000000)) || r.is Reg.GIO_TRIG_PIN || r.is Reg.GIO_TLINE
    unit && s.unitHolder off i j == t

/-- A tenant may read or write the register at an offset. -/
def State.tenantMay (s : State) (t off : Nat) (write : Bool) : Bool :=
  match findReg off with
  | none => false
  | some (r, i, j, _) =>
    if write then tenantWrites.any (fun x => x.is r) && s.heldReg t off r i j
    else decide (off < 0x1000) || s.heldReg t off r i j

/-- Apply the entries of a REG_WRITE in order until one is refused: the state, the status and the number applied (R573). -/
def State.applyEntries (s : State) (p : Path) (n : Nat) : List (Word × Word) → State × Nat × Nat
  | [] => (s, St.OK, n)
  | e :: r =>
    let (s, st) := s.writeReg p 0 e.1.toNat e.2
    if st = St.OK then s.applyEntries p (n + 1) r else (s, st, n)

/-- REG_WRITE (R573): one to six entries of an offset and a value. -/
def execRegWrite (d : Desc) (entries : List (Word × Word)) (s : State) : Host.Outcome State Fault Refusal :=
  let t := d.tenant.toNat
  let n := entries.length
  .next (s.descriptor d false false
    [(entries.any (fun e => !s.tenantMay t e.1.toNat true), St.REFUSED_NOT_OWNER),
     (n == 0 || decide (6 < n), St.BAD_ARGUMENT)]
    (fun s =>
      let (s, st, k) := s.applyEntries (.descriptor d.tenant) 0 entries
      s.complete d st k))

/-- Read registers in order. -/
def State.readRegs (s : State) (p : Path) : List Word → State × List Nat
  | [] => (s, [])
  | o :: r =>
    let (s, v) := s.readReg p o.toNat
    let (s, vs) := s.readRegs p r
    (s, v.toNat :: vs)

/-- REG_READ (R573): one to twelve registers into a buffer. -/
def execRegRead (d : Desc) (buffer : BitVec 64) (offsets : List Word) (s : State) : Host.Outcome State Fault Refusal :=
  let t := d.tenant.toNat
  let n := offsets.length
  .next (s.descriptor d false false
    [(offsets.any (fun o => !s.tenantMay t o.toNat false), St.REFUSED_NOT_OWNER),
     (n == 0 || decide (12 < n), St.BAD_ARGUMENT)]
    (fun s =>
      let (s, vs) := s.readRegs (.descriptor d.tenant) offsets
      (s.hostWrite t buffer.toNat (vs.flatMap (natBytes 4))).ok d n))

/-! ## Accesses of the host and of the management processor (R704, R705) -/

/-- A host access to BAR0 wakes a device in DEEP_SLEEP with host_en = 1 and is answered after exit (R705). -/
def State.hostAccess (s : State) (p : Path) : State :=
  s.when (p == .bar0 && s.devState == V.PWR_DEV_STATUS_state_DEEP_SLEEP && s.on F.PWR_WAKE_CFG_host_en)
    (fun s => s.wakeBy 4 0 false)

/-- The session of a debugger reaches an offset of space REG (R646): all of BAR0, or what R573 opens to its tenant and the
DBG block. -/
def State.scopeReaches (s : State) (off : Nat) (write : Bool) : Bool :=
  s.get F.DBG_STATUS_scope != V.DBG_STATUS_scope_TENANT || (decide (0xA000 ≤ off) && decide (off < 0xB000)) ||
    s.tenantMay s.scopeTenant off write

/-- An access arrives: BAR0 goes with the host link (R705), a tenant reaches its registers (R573), a debugger those of its
session (R646). -/
def State.reaches (s : State) (p : Path) (off : Nat) (write : Bool) : Bool :=
  !s.dead && (match p with
    | .bar0 => s.get F.HIF_LINK_STATUS_state == V.HIF_LINK_STATUS_state_UP || s.role == V.BRY_RING_CFG_role_MEMBER
    | .management => true
    | .descriptor t => s.tenantMay t.toNat off write
    | .debugger => s.session != 0 && s.scopeReaches off write)

/-- One DW of a read (R704): byte enables `be`; some but not all set bad_access, none performs no access. `page` names a
tenant's function page in place of BAR0. -/
def State.busRead (s : State) (p : Path) (page : Option (BitVec 8)) (off : Word) (be : BitVec 4) : State :=
  match page with
  | some t =>
    let (s', v) := s.readPage t.toNat off.toNat
    if s.dead then s else s'.send (.pageData t.toNat off.toNat v)
  | none =>
    if !s.reaches p off.toNat false then s
    else if be = 0 then s.send (.data p off.toNat 0)
    else
      let s := s.hostAccess p
      let s := s.when (be != 15) (fun s => s.err V.GLB_ERR_INFO_kind_BAD_ACCESS off.toNat p)
      let (s, v) := s.readReg p off.toNat
      s.send (.data p off.toNat v.toNat)

/-- One DW of a write (R704). -/
def State.busWrite (s : State) (p : Path) (page : Option (BitVec 8)) (off v : Word) (be : BitVec 4) : State :=
  match page with
  | some t => if be = 15 then s.writePage t.toNat off.toNat v else s
  | none =>
    if !s.reaches p off.toNat true ∨ be = 0 then s
    else
      let s := s.hostAccess p
      if be = 15 then (s.writeReg p s.session off.toNat v).1
      else s.err V.GLB_ERR_INFO_kind_BAD_ACCESS off.toNat p

/-- LATCHING_READ (R710, R71): a read of a LO register or of word 0 of a window, or of what it latched. -/
def execLatchingRead (p : Path) (page : Option (BitVec 8)) (off : Word) (be : BitVec 4) (s : State) :
    Host.Outcome State Fault Refusal := .next (s.busRead p page off be)

/-- RC_READ (R707): a read returns an RC register's value, which it clears. -/
def execRcRead (p : Path) (page : Option (BitVec 8)) (off : Word) (be : BitVec 4) (s : State) :
    Host.Outcome State Fault Refusal := .next (s.busRead p page off be)

/-- REGISTER_WRITE (R702, R704 to R709): one DW written to a register. -/
def execRegisterWrite (p : Path) (page : Option (BitVec 8)) (off v : Word) (be : BitVec 4) (s : State) :
    Host.Outcome State Fault Refusal := .next (s.busWrite p page off v be)

/-- BAR0_BAD_REQUEST (R704): a request that crosses 64 bytes or exceeds 16 DW. -/
def execBar0BadRequest (off : Word) (s : State) : Host.Outcome State Fault Refusal :=
  if !s.reaches .bar0 off.toNat false then .next s
  else .next (((s.hostAccess .bar0).err V.GLB_ERR_INFO_kind_BAD_ACCESS off.toNat .bar0).send .completerAbort)

/-- SMB_READ_REGISTER (R691): command 0x07 reads the register at the offset set before, in GLB, PWR, BOOT, RAS or GIO,
without clearing it. -/
def execSmbReadRegister (s : State) : Host.Outcome State Fault Refusal :=
  let off := s.gio.smbOffset
  let ok := decide (off < 0x1000) || (decide (0x2000 ≤ off) && decide (off < 0x6000)) ||
    (decide (0x8000 ≤ off) && decide (off < 0xA000))
  if !s.smbUp then .next s
  else if ok then
    let r := s.readReg .management off false
    .next ({ s with free := r.1.free }.smbAnswer 7 (4 :: natBytes 4 r.2.toNat))
  else .next ((s.ev F.GIO_EVENTS_smb_error).smbAnswer 7 (4 :: natBytes 4 0xFFFFFFFF))

end Sys2Proof.Machine
end

