-- ==== Sys2Proof/Machine/DebugPort.lean ====
section
/-! DEFINITION. Machine/DebugPort.lean: the two-wire debug port, its spaces and the monitor path (spec/25, R643 to R647). -/
namespace Sys2Proof.Machine

/-! Responses of the port (R643) and causes of PORT_STAT (R644). -/
abbrev Dp.DONE : Nat := 3
abbrev Dp.PENDING : Nat := 5
abbrev Dp.ERROR : Nat := 9
abbrev Dp.CRC : Nat := 1
abbrev Dp.NOT_AUTH : Nat := 2
abbrev Dp.SCOPE : Nat := 3
abbrev Dp.BLOCKED : Nat := 4
abbrev Dp.NOT_HALTED : Nat := 5
abbrev Dp.ASLEEP : Nat := 6
abbrev Dp.BAD_ADDR : Nat := 7
abbrev Dp.REFUSED : Nat := 8

/-- Replace the port's registers. -/
def State.setPort0 (s : State) (x : PortSt) : State := { s with dbg := { s.dbg with port := x } }

/-- PORT_STAT records an error or an ignored command (R644). -/
def State.portError (s : State) (cause : Nat) : State := s.setPort0 { s.dbg.port with errSeen := true, cause := cause }

/-- PORT_STAT (R644). -/
def State.portStat (s : State) : Nat :=
  let x := s.dbg.port
  let tag := match x.last with | some (_, _, t, _) => b2n t | none => 0
  b2n x.errSeen * 2 ^ 31 + x.cause * 2 ^ 27 + tag * 2 ^ 26

/-- The end of an access: DONE with data, or ERROR with a cause (R645). -/
abbrev DbgRes := State × Except Nat Nat

/-- An access fails. -/
def State.accErr (s : State) (cause : Nat) : DbgRes := (s, .error cause)

/-! ## The spaces (R646) -/

/-- The registers of the DBG block that answer before a session (R645): the authentication registers. -/
def authReg (off : Nat) : Bool := off == 0xA00C || off == 0xA014 || (decide (0xA400 ≤ off) && decide (off < 0xA500))

/-- An access in space REG on a debugger's path. -/
def State.regSpace (s : State) (path : Nat) (write : Bool) (off : Nat) (v : Word) : DbgRes :=
  let dbg := decide (0xA000 ≤ off) && decide (off < 0xB000)
  if s.session ≠ path ∧ !authReg off then s.accErr Dp.NOT_AUTH
  else if s.devState = V.PWR_DEV_STATUS_state_DEEP_SLEEP ∧ !s.on F.DBG_STATUS_emulating ∧ !dbg then s.accErr Dp.ASLEEP
  else if 0x10000000 ≤ off then s.accErr Dp.BAD_ADDR
  else if !dbg && !s.scopeReaches off write then s.accErr Dp.SCOPE
  else if write then
    let (s, st) := s.writeReg .debugger path off v
    if st = St.OK then (s, .ok 0)
    else s.accErr (if dbg && st == St.REFUSED_NOT_OWNER then Dp.SCOPE else Dp.REFUSED)
  else
    let (s, w) := s.readReg .debugger off
    (s, .ok w.toNat)

/-- The leaf that lies at a leaf number of the tiers, with its quire: the leaves stored, by quire and index. -/
def State.leafAt (s : State) (n : Nat) : Option (Nat × Leaf) :=
  ((s.quire (n / 16384)).leaf? (n % 16384)).map (fun l => (n / 16384, l))

/-- An access in space TIER: bytes as stored, the header in clear and the rest ciphertext (R448), blocked in compatibility
mode as for the scope's tenant (R449). No debugger writes tier memory. -/
def State.tierSpace (s : State) (write : Bool) (addr : Nat) : DbgRes :=
  let n := addr / 4096
  if 2 ^ 33 ≤ n then s.accErr Dp.BAD_ADDR
  else if write then s.accErr Dp.REFUSED
  else if (s.quire (n / 16384)).state ≠ Qr.FREE ∧ s.rawBlocked s.scopeTenant (n / 16384) then s.blockRaw.accErr Dp.BLOCKED
  else match s.leafAt n with
    | some (q, l) => (s, .ok (natOf (((l.header q ++ l.cipher q).drop (addr % 4096)).take 4)))
    | none =>
      let (v, s) := s.fresh
      (s, .ok (v % 2 ^ 32))

/-- A 32-bit word of the registers of a halted core at an offset of space CORE: none beyond them. The table of R646 lists two
things from 0x2_0180 to 0x2_01AF; which is there is open (`Config.coreWindow`). -/
def CoreSt.dbgRead (x : CoreSt) (off : Nat) : Option Nat :=
  let o := off - 0x20000
  if o < 0x58 then some (x.special (o / 4))
  else if o < 0x100 then none
  else if o < 0x180 then some (Tbl.get 0 x.d ((o - 0x100) / 4))
  else if o < 0x1B0 ∧ Config.coreWindow then
    if o < 0x1A0 then
      let a := Tbl.get 0 x.acc ((o - 0x180) / 8)
      some (if o % 8 = 0 then a % 2 ^ 32 else a / 2 ^ 32)
    else some (match (o - 0x1A0) / 4 with | 0 => x.pc | 1 => x.target | 2 => x.slots | _ => x.rep)
  else if o < 0x1A0 then some (Tbl.get 0 x.a ((o - 0x180) / 4))
  else if o < 0x1C0 then some (Tbl.get 0 x.m ((o - 0x1A0) / 4))
  else none

/-- Write a 32-bit word of the registers of a halted core; TH is read only. -/
def CoreSt.dbgWrite (x : CoreSt) (off v : Nat) : CoreSt :=
  let o := off - 0x20000
  if o < 0x58 then (if o / 4 = 10 ∨ o / 4 = 11 then x else x.setSpecial (o / 4) v)
  else if o < 0x180 then { x with d := Tbl.set 0 ((o - 0x100) / 4) (v % 65536) x.d }
  else if o < 0x1B0 ∧ Config.coreWindow then
    if o < 0x1A0 then
      let k := (o - 0x180) / 8
      let a := Tbl.get 0 x.acc k
      { x with acc := Tbl.set 0 k (if o % 8 = 0 then a / 2 ^ 32 * 2 ^ 32 + v else a % 2 ^ 32 + v % 256 * 2 ^ 32) x.acc }
    else match (o - 0x1A0) / 4 with
      | 0 => { x with pc := v % 8192 }
      | 1 => { x with target := v % 8192 }
      | 2 => { x with slots := v % 4 }
      | _ => { x with rep := v % 65536 }
  else if o < 0x1A0 then { x with a := Tbl.set 0 ((o - 0x180) / 4) (v % 65536) x.a }
  else { x with m := Tbl.set 0 ((o - 0x1A0) / 4) (v % 65536) x.m }

/-- An access in space CORE (R646), in its state column. -/
def State.coreSpace (s : State) (write : Bool) (c off : Nat) (v : Word) : DbgRes :=
  let x := s.core c
  let st := s.coreState c
  let quiet := st == Core.STOPPED || st == Core.HALTED
  let live := st == Core.RUNNING || st == Core.WAITING
  if !s.inScope 0 c then s.accErr Dp.SCOPE
  else if off < 0x10000 ∨ (0x10000 ≤ off ∧ off < 0x18000) then
    if !quiet && !(decide (off < 0x10000) && !write && live) then s.accErr Dp.NOT_HALTED
    else if write then (s.setCore c (x.windowWrite off v.toNat), .ok 0)
    else (s, .ok (x.windowRead off))
  else if off < 0x20000 then s.accErr Dp.BAD_ADDR
  else match x.dbgRead off with
    | none => s.accErr Dp.BAD_ADDR
    | some w =>
      if st ≠ Core.HALTED then s.accErr Dp.NOT_HALTED
      else if write then (s.setCore c (x.dbgWrite off v.toNat), .ok 0)
      else (s, .ok w)

/-- An access at ADDR in the space selected (R645, R646). -/
def State.dbgAccess (s : State) (path : Nat) (write : Bool) (v : Word) : DbgRes :=
  let x := s.dbg.port
  let space := x.space / 2 ^ 30
  if space = 0 then s.regSpace path write x.addr v
  else if s.session ≠ path then s.accErr Dp.NOT_AUTH
  else if s.devState = V.PWR_DEV_STATUS_state_DEEP_SLEEP ∧ !s.on F.DBG_STATUS_emulating then s.accErr Dp.ASLEEP
  else if space = 1 then s.tierSpace write (x.space / 65536 % 8192 * 2 ^ 32 + x.addr)
  else if space = 2 then s.coreSpace write (x.space % 256) x.addr v
  else s.accErr Dp.BAD_ADDR

/-! ## Commands (R643 to R645) -/

/-- Carry out an access and record its result; `inc` advances ADDR. -/
def State.runAccess (s : State) (path : Nat) (write inc : Bool) (v : Word) : State :=
  let (s, r) := s.dbgAccess path write v
  let x := s.dbg.port
  let x := if inc then { x with addr := (x.addr + 4) % 2 ^ 32 } else x
  match r with
  | .ok w => s.setPort0 { x with res := some (Dp.DONE, w) }
  | .error e => s.setPort0 { x with res := some (Dp.ERROR, e), errSeen := true, cause := e }

/-- A command that is a new access of a port register (R644): it has its effect, and its result is recorded. With `pending`
an access at ADDR goes on past its response. -/
def State.newAccess (s : State) (path a : Nat) (write tag pending : Bool) (v : Word) : State :=
  let d : Nat := if write then v.toNat else 0
  let stat := s.portStat
  let s := s.setPort0 { s.dbg.port with last := some (a, write, tag, d), res := none }
  let x := s.dbg.port
  let done := fun (s : State) (w : Nat) => s.setPort0 { s.dbg.port with res := some (Dp.DONE, w) }
  match a with
  | 0 => done s (if write then 0 else Config.identity.toNat)
  | 1 =>
    if write then done (s.setPort0 (if bit v.toNat 31 then { x with errSeen := false, cause := 0 } else x)) 0
    else done s (stat / 2 ^ 27 * 2 ^ 27 + b2n tag * 2 ^ 26)
  | 2 => if write then done (s.setPort0 { x with space := v.toNat &&& 0xDFFF00FF }) 0 else done s x.space
  | 3 => if write then done (s.setPort0 { x with addr := v.toNat / 4 * 4 }) 0 else done s x.addr
  | _ => if pending then s else s.runAccess path write (a == 5) v

/-- The response to a command on a path and the state after it (R645): (response, data). -/
def State.portCommand (s : State) (path a : Nat) (write tag pending : Bool) (v : Word) : State × Nat × Nat :=
  let s := s.when (s.session == path) (fun s => { s with dbg := { s.dbg with lastPort := s.now } })
  let x := s.dbg.port
  let answer := fun (s : State) =>
    match s.dbg.port.res with
    | some r => (s, r)
    | none => (s, (Dp.PENDING, 0))
  let d : Nat := if write then v.toNat else 0
  if 6 ≤ a then (s.portError Dp.BAD_ADDR, Dp.ERROR, Dp.BAD_ADDR)
  else match x.last with
    | some (a', w', t', d') =>
      if a' = a ∧ w' = write ∧ t' = tag ∧ d' = d then answer s
      else if t' = tag then (s.portError Dp.REFUSED, Dp.ERROR, Dp.REFUSED)
      else if x.res.isNone then (s, Dp.PENDING, 0)
      else answer (s.newAccess path a write tag pending v)
    | none => answer (s.newAccess path a write tag pending v)

/-- The response on the wires: a read answered DONE carries its data and their CRC-8 (R643). -/
def State.portReply (s : State) (write : Bool) (r : Nat × Nat) : State :=
  s.send (.dbg r.1 (if r.1 = Dp.DONE ∧ !write then r.2 + crc8 r.2 * 2 ^ 32 else 0))

/-- A command on the two wires (R643, R644): a CRC-4 that fails leaves it without a response; a CRC-8 that fails discards the
data. In OFF the port does not answer (R645). -/
def State.portWire (s : State) (a : Nat) (c : PortCmd) : State :=
  let head := 1 + b2n (!c.write) * 4 + a * 8 + b2n c.tag * 128
  if s.dead then s
  else if c.crc.toNat ≠ crc4 head then s.portError Dp.CRC
  else if c.write ∧ c.dataCrc.toNat ≠ crc8 c.data.toNat then (s.portError Dp.CRC).portReply true (Dp.ERROR, 0)
  else
    let (s, r) := s.portCommand 1 a c.write c.tag c.pending c.data
    s.portReply c.write r

/-- DBG_PORT_ID (R644): a command on PORT_ID, or with `reserved` 6 to 15 on that reserved register. -/
def execDbgPortId (c : PortCmd) (reserved : BitVec 4) (s : State) : Host.Outcome State Fault Refusal :=
  .next (s.portWire (if 6 ≤ reserved.toNat then reserved.toNat else 0) c)

/-- DBG_PORT_STAT (R644): a command on PORT_STAT. -/
def execDbgPortStat (c : PortCmd) (s : State) : Host.Outcome State Fault Refusal := .next (s.portWire 1 c)

/-- DBG_SPACE_WRITE (R644): a command on SPACE. -/
def execDbgSpaceWrite (c : PortCmd) (s : State) : Host.Outcome State Fault Refusal := .next (s.portWire 2 c)

/-- DBG_ADDR_WRITE (R644): a command on ADDR. -/
def execDbgAddrWrite (c : PortCmd) (s : State) : Host.Outcome State Fault Refusal := .next (s.portWire 3 c)

/-- DBG_DATA (R645, R646): a command on DATA. -/
def execDbgData (c : PortCmd) (s : State) : Host.Outcome State Fault Refusal := .next (s.portWire 4 c)

/-- DBG_DATA_INC (R645, R646): a command on DATA_INC. -/
def execDbgDataInc (c : PortCmd) (s : State) : Host.Outcome State Fault Refusal := .next (s.portWire 5 c)

/-- DBG_ACCESS_DONE (R645): the access that was pending ends, and its result awaits a repeat. `monitor` is the path that
began it. -/
def execDbgAccessDone (monitor : Bool) (s : State) : Host.Outcome State Fault Refusal :=
  let x := s.dbg.port
  match x.last, x.res with
  | some (a, w, _, d), none => .next (if s.dead then s else s.runAccess (dbgPath monitor) w (a == 5) (BitVec.ofNat 32 d))
  | _, _ => .next s

/-- DBG_RESYNC (R643): the transaction in progress is abandoned; the session and an access under way go on. -/
def execDbgResync (s : State) : Host.Outcome State Fault Refusal := .next s

/-- MONITOR_REQUEST (R647): one access of a port register by a text line; the monitor answers with the response code and the
data. It reaches a unit only while management runs. -/
def execMonitorRequest (reg : BitVec 4) (write tag pending : Bool) (data : Word) (s : State) :
    Host.Outcome State Fault Refusal :=
  let m := s.get F.RAS_STATUS_mgmt_state
  if s.dead || !(m == V.RAS_STATUS_mgmt_state_PAIRED || m == V.RAS_STATUS_mgmt_state_SINGLE ||
      m == V.RAS_STATUS_mgmt_state_FAILOVER) then .next s
  else
    let (s, r) := s.portCommand 2 reg.toNat write tag pending data
    .next (s.send (.monitor [r.1, if r.1 = Dp.DONE ∧ !write then r.2 else 0]))

end Sys2Proof.Machine
end

