-- ==== Sys2Proof/Machine/Dispatch.lean ====
section
/-! DEFINITION. Machine/Dispatch.lean: one arm per command, each one direct call of the command's meaning. -/
namespace Sys2Proof.Machine

/-- The effect of a command on everything but the queue. -/
def exec (i : Instr) (s : State) : Host.Outcome State Fault Refusal :=
  match i with
  | .startConditionMet => Sys2Proof.Machine.execStartConditionMet s
  | .vinRising => Sys2Proof.Machine.execVinRising s
  | .vinUndervoltage => Sys2Proof.Machine.execVinUndervoltage s
  | .vinOvervoltage => Sys2Proof.Machine.execVinOvervoltage s
  | .pwrfailNLow => Sys2Proof.Machine.execPwrfailNLow s
  | .colophonCommitDone => Sys2Proof.Machine.execColophonCommitDone s
  | .gpfDone phases => Sys2Proof.Machine.execGpfDone phases s
  | .powerLossSequenceEnd => Sys2Proof.Machine.execPowerLossSequenceEnd s
  | .vauxLoss => Sys2Proof.Machine.execVauxLoss s
  | .vauxRestored => Sys2Proof.Machine.execVauxRestored s
  | .railPhaseFailure rail load => Sys2Proof.Machine.execRailPhaseFailure rail load s
  | .thermalTrip => Sys2Proof.Machine.execThermalTrip s
  | .tempSample l => Sys2Proof.Machine.execTempSample l s
  | .sensorElementFailure sensor element => Sys2Proof.Machine.execSensorElementFailure sensor element s
  | .qualGateEnd n edges offset => Sys2Proof.Machine.execQualGateEnd n edges offset s
  | .candidateEdgeTimeout n => Sys2Proof.Machine.execCandidateEdgeTimeout n s
  | .memsFailed => Sys2Proof.Machine.execMemsFailed s
  | .memsRecovered => Sys2Proof.Machine.execMemsRecovered s
  | .activeSourceLost => Sys2Proof.Machine.execActiveSourceLost s
  | .fallbackChosen => Sys2Proof.Machine.execFallbackChosen s
  | .refSwitch p v => Sys2Proof.Machine.execRefSwitch p v s
  | .rootLockReached => Sys2Proof.Machine.execRootLockReached s
  | .autoRevert => Sys2Proof.Machine.execAutoRevert s
  | .candWrite p n v => Sys2Proof.Machine.execCandWrite p n v s
  | .globalDivWrite p n v => Sys2Proof.Machine.execGlobalDivWrite p n v s
  | .outCtrlWrite p n v => Sys2Proof.Machine.execOutCtrlWrite p n v s
  | .freqAdjWrite p v => Sys2Proof.Machine.execFreqAdjWrite p v s
  | .timeSet p at' => Sys2Proof.Machine.execTimeSet p at' s
  | .timeStep p at' => Sys2Proof.Machine.execTimeStep p at' s
  | .timeCancel p => Sys2Proof.Machine.execTimeCancel p s
  | .timeCmdApply => Sys2Proof.Machine.execTimeCmdApply s
  | .ppsEdge pin => Sys2Proof.Machine.execPpsEdge pin s
  | .resetPin => Sys2Proof.Machine.execResetPin s
  | .ownerRestart p key => Sys2Proof.Machine.execOwnerRestart p key s
  | .stepTimeout step => Sys2Proof.Machine.execStepTimeout step s
  | .mgmtWatchdogExpiry => Sys2Proof.Machine.execMgmtWatchdogExpiry s
  | .startStepDone step r => Sys2Proof.Machine.execStartStepDone step r s
  | .perstNAssert => Sys2Proof.Machine.execPerstNAssert s
  | .perstNRelease => Sys2Proof.Machine.execPerstNRelease s
  | .linkTimeout => Sys2Proof.Machine.execLinkTimeout s
  | .linkTrainRetry up rate width flit => Sys2Proof.Machine.execLinkTrainRetry up rate width flit s
  | .commitRollback p => Sys2Proof.Machine.execCommitRollback p s
  | .clearLearned p => Sys2Proof.Machine.execClearLearned p s
  | .imageSelWrite p v => Sys2Proof.Machine.execImageSelWrite p v s
  | .fabricMemRead sec mem portB addr strike => Sys2Proof.Machine.execFabricMemRead sec mem portB addr strike s
  | .memScrubVisit sec strikes dropped => Sys2Proof.Machine.execMemScrubVisit sec strikes dropped s
  | .memInject p sec v lost => Sys2Proof.Machine.execMemInject p sec v lost s
  | .fabricLoad d length row col auto map => Sys2Proof.Machine.execFabricLoad d length row col auto map s
  | .sectionClearDone sec => Sys2Proof.Machine.execSectionClearDone sec s
  | .fabricLoadEngineStart => Sys2Proof.Machine.execFabricLoadEngineStart s
  | .fabricLoadDone cause image => Sys2Proof.Machine.execFabricLoadDone cause image s
  | .fabricRelease d sec => Sys2Proof.Machine.execFabricRelease d sec s
  | .fabricReleaseDone sec => Sys2Proof.Machine.execFabricReleaseDone sec s
  | .fabricStop d sec => Sys2Proof.Machine.execFabricStop d sec s
  | .fabricStopDone sec => Sys2Proof.Machine.execFabricStopDone sec s
  | .fabricClear d sec => Sys2Proof.Machine.execFabricClear d sec s
  | .rclkCtrlWrite p sec k v => Sys2Proof.Machine.execRclkCtrlWrite p sec k v s
  | .rclkSelChange sec k level => Sys2Proof.Machine.execRclkSelChange sec k level s
  | .rclkChangeDone sec k => Sys2Proof.Machine.execRclkChangeDone sec k s
  | .laneEnable p lane v => Sys2Proof.Machine.execLaneEnable p lane v s
  | .laneDisable p lane v => Sys2Proof.Machine.execLaneDisable p lane v s
  | .octetRetuneDone o => Sys2Proof.Machine.execOctetRetuneDone o s
  | .octetPllFailure o => Sys2Proof.Machine.execOctetPllFailure o s
  | .octetSwitchComplete o => Sys2Proof.Machine.execOctetSwitchComplete o s
  | .sparePllFailure o => Sys2Proof.Machine.execSparePllFailure o s
  | .txFirWrite p lane v => Sys2Proof.Machine.execTxFirWrite p lane v s
  | .txFirApply lane => Sys2Proof.Machine.execTxFirApply lane s
  | .rxCoefWrite p lane v => Sys2Proof.Machine.execRxCoefWrite p lane v s
  | .rxEqModeWrite p lane v => Sys2Proof.Machine.execRxEqModeWrite p lane v s
  | .signalDetected lane => Sys2Proof.Machine.execSignalDetected lane s
  | .cdrLockAcquired lane => Sys2Proof.Machine.execCdrLockAcquired lane s
  | .codingLockGained lane history => Sys2Proof.Machine.execCodingLockGained lane history s
  | .codingLockLost lane => Sys2Proof.Machine.execCodingLockLost lane s
  | .cdrLockLost lane => Sys2Proof.Machine.execCdrLockLost lane s
  | .signalLoss lane => Sys2Proof.Machine.execSignalLoss lane s
  | .laneAnalogueFault lane cause => Sys2Proof.Machine.execLaneAnalogueFault lane cause s
  | .digAcquire src lane tap cfg span count => Sys2Proof.Machine.execDigAcquire src lane tap cfg span count s
  | .digTrigger lane tap t ref sample => Sys2Proof.Machine.execDigTrigger lane tap t ref sample s
  | .digAbort p lane tap v => Sys2Proof.Machine.execDigAbort p lane tap v s
  | .digAcquisitionEnd lane tap => Sys2Proof.Machine.execDigAcquisitionEnd lane tap s
  | .probe src lane ctrl => Sys2Proof.Machine.execProbe src lane ctrl s
  | .probeAbort p lane v => Sys2Proof.Machine.execProbeAbort p lane v s
  | .probeEnd lane timedOut received data legN legP => Sys2Proof.Machine.execProbeEnd lane timedOut received data legN legP s
  | .intakeUnit lane u t bad k staged most => Sys2Proof.Machine.execIntakeUnit lane u t bad k staged most s
  | .runPieceTimeout n m => Sys2Proof.Machine.execRunPieceTimeout n m s
  | .gapPieceTimeout n m t => Sys2Proof.Machine.execGapPieceTimeout n m t s
  | .fecCodewordDone n m t corr uncorr b entries ago => Sys2Proof.Machine.execFecCodewordDone n m t corr uncorr b entries ago s
  | .deskewRound sect b t offs => Sys2Proof.Machine.execDeskewRound sect b t offs s
  | .sliceCheckpoint sect => Sys2Proof.Machine.execSliceCheckpoint sect s
  | .sliceFailure sect k => Sys2Proof.Machine.execSliceFailure sect k s
  | .sliceFailoverDone sect => Sys2Proof.Machine.execSliceFailoverDone sect s
  | .laneCfgWrite p which sect j v => Sys2Proof.Machine.execLaneCfgWrite p which sect j v s
  | .slotEvaluation sect slot => Sys2Proof.Machine.execSlotEvaluation sect slot s
  | .triggerTokenPost => Sys2Proof.Machine.execTriggerTokenPost s
  | .lineEvent line => Sys2Proof.Machine.execLineEvent line s
  | .seqArm p sect q v => Sys2Proof.Machine.execSeqArm p sect q v s
  | .seqDisarm p sect q v => Sys2Proof.Machine.execSeqDisarm p sect q v s
  | .swCond p sect q v => Sys2Proof.Machine.execSwCond p sect q v s
  | .tlinePulse p n => Sys2Proof.Machine.execTlinePulse p n s
  | .trigPinEdge pin rising t => Sys2Proof.Machine.execTrigPinEdge pin rising t s
  | .tapBeat sect tap data nbits t gap => Sys2Proof.Machine.execTapBeat sect tap data nbits t gap s
  | .injEvent sect n t => Sys2Proof.Machine.execInjEvent sect n t s
  | .ribbon d n code at' data => Sys2Proof.Machine.execRibbon d n code at' data s
  | .ribbonAtTime => Sys2Proof.Machine.execRibbonAtTime s
  | .graphRibbonToken n => Sys2Proof.Machine.execGraphRibbonToken n s
  | .streamStart d a => Sys2Proof.Machine.execStreamStart d a s
  | .streamStop d n => Sys2Proof.Machine.execStreamStop d n s
  | .streamClosed n => Sys2Proof.Machine.execStreamClosed n s
  | .captureRelease d n => Sys2Proof.Machine.execCaptureRelease d n s
  | .quireFreed q => Sys2Proof.Machine.execQuireFreed q s
  | .leafFlushTimeout n => Sys2Proof.Machine.execLeafFlushTimeout n s
  | .quireAllocated => Sys2Proof.Machine.execQuireAllocated s
  | .rowWaitTimeout q => Sys2Proof.Machine.execRowWaitTimeout q s
  | .sealSlotWrite q => Sys2Proof.Machine.execSealSlotWrite q s
  | .drainTake balanced => Sys2Proof.Machine.execDrainTake balanced s
  | .drainCopyDone q => Sys2Proof.Machine.execDrainCopyDone q s
  | .drainWriteFailure q => Sys2Proof.Machine.execDrainWriteFailure q s
  | .drainCfgWrite p v => Sys2Proof.Machine.execDrainCfgWrite p v s
  | .quotaWrite p deep t v => Sys2Proof.Machine.execQuotaWrite p deep t v s
  | .quireVerify d q buffer good => Sys2Proof.Machine.execQuireVerify d q buffer good s
  | .leafRead d n q leaf buffer tagBad => Sys2Proof.Machine.execLeafRead d n q leaf buffer tagBad s
  | .leafReadRaw d n q leaf buffer => Sys2Proof.Machine.execLeafReadRaw d n q leaf buffer s
  | .collateOpen d count flags mask start stop ids ring slots unit => Sys2Proof.Machine.execCollateOpen d count flags mask start stop ids ring slots unit s
  | .collateClose d n => Sys2Proof.Machine.execCollateClose d n s
  | .collateRecord n badLeaves badQuires => Sys2Proof.Machine.execCollateRecord n badLeaves badQuires s
  | .hostTailPoll n tail fail => Sys2Proof.Machine.execHostTailPoll n tail fail s
  | .seekTime d n t => Sys2Proof.Machine.execSeekTime d n t s
  | .ribbonFind d n limit code mask start stop buffer badLeaves badQuires => Sys2Proof.Machine.execRibbonFind d n limit code mask start stop buffer badLeaves badQuires s
  | .pressLoad d lane entry program stream pressDq notifyDq => Sys2Proof.Machine.execPressLoad d lane entry program stream pressDq notifyDq s
  | .pressStart d lane atTime => Sys2Proof.Machine.execPressStart d lane atTime s
  | .pressStartTime lane => Sys2Proof.Machine.execPressStartTime lane s
  | .pressStop d lane => Sys2Proof.Machine.execPressStop d lane s
  | .pressFreeze d lane => Sys2Proof.Machine.execPressFreeze d lane s
  | .pressUnfreeze d lane => Sys2Proof.Machine.execPressUnfreeze d lane s
  | .pressEvent d lane value => Sys2Proof.Machine.execPressEvent d lane value s
  | .pressEvqArrival lane graph => Sys2Proof.Machine.execPressEvqArrival lane graph s
  | .pressUnitSend lane t k => Sys2Proof.Machine.execPressUnitSend lane t k s
  | .prefetchReadDone lane leaf authentic frame => Sys2Proof.Machine.execPrefetchReadDone lane leaf authentic frame s
  | .halt lane => Sys2Proof.Machine.execHalt lane s
  | .send lane => Sys2Proof.Machine.execSend lane s
  | .sendk lane => Sys2Proof.Machine.execSendk lane s
  | .idle lane => Sys2Proof.Machine.execIdle lane s
  | .setp lane => Sys2Proof.Machine.execSetp lane s
  | .addp lane => Sys2Proof.Machine.execAddp lane s
  | .setk lane => Sys2Proof.Machine.execSetk lane s
  | .loop lane => Sys2Proof.Machine.execLoop lane s
  | .jump lane => Sys2Proof.Machine.execJump lane s
  | .markt lane => Sys2Proof.Machine.execMarkt lane s
  | .addt lane => Sys2Proof.Machine.execAddt lane s
  | .waitTime lane => Sys2Proof.Machine.execWaitTime lane s
  | .waitTimeRelease lane => Sys2Proof.Machine.execWaitTimeRelease lane s
  | .waitEvent lane => Sys2Proof.Machine.execWaitEvent lane s
  | .waitEventTaken lane => Sys2Proof.Machine.execWaitEventTaken lane s
  | .waitEventTimeout lane => Sys2Proof.Machine.execWaitEventTimeout lane s
  | .branchEv lane => Sys2Proof.Machine.execBranchEv lane s
  | .sendEv lane => Sys2Proof.Machine.execSendEv lane s
  | .prime lane => Sys2Proof.Machine.execPrime lane s
  | .inject lane => Sys2Proof.Machine.execInject lane s
  | .signal lane => Sys2Proof.Machine.execSignal lane s
  | .pass lane => Sys2Proof.Machine.execPass lane s
  | .drop lane => Sys2Proof.Machine.execDrop lane s
  | .passUntil lane => Sys2Proof.Machine.execPassUntil lane s
  | .relayUnitIn lane u => Sys2Proof.Machine.execRelayUnitIn lane u s
  | .cacheLinesWrite p lane v => Sys2Proof.Machine.execCacheLinesWrite p lane v s
  | .frameConfig d f cfg target list addr frameDq notifyDq pattern => Sys2Proof.Machine.execFrameConfig d f cfg target list addr frameDq notifyDq pattern s
  | .frameStart d f atTime => Sys2Proof.Machine.execFrameStart d f atTime s
  | .frameStartTime f => Sys2Proof.Machine.execFrameStartTime f s
  | .frameStop d f => Sys2Proof.Machine.execFrameStop d f s
  | .shaperSet d f setRate setBurst clear rate burst => Sys2Proof.Machine.execShaperSet d f setRate setBurst clear rate burst s
  | .clearDebt p v => Sys2Proof.Machine.execClearDebt p v s
  | .shaperSlot sect => Sys2Proof.Machine.execShaperSlot sect s
  | .multicastTimeout f => Sys2Proof.Machine.execMulticastTimeout f s
  | .frameBoundary lane t => Sys2Proof.Machine.execFrameBoundary lane t s
  | .frameDqToken f => Sys2Proof.Machine.execFrameDqToken f s
  | .hbmReadError q leaf still noSpare second => Sys2Proof.Machine.execHbmReadError q leaf still noSpare second s
  | .hbmStackFailure stack cause => Sys2Proof.Machine.execHbmStackFailure stack cause s
  | .hbmRefresh stack hot => Sys2Proof.Machine.execHbmRefresh stack hot s
  | .ddrRefresh c rank => Sys2Proof.Machine.execDdrRefresh c rank s
  | .ddrRefreshRatePoll c rank double => Sys2Proof.Machine.execDdrRefreshRatePoll c rank double s
  | .parityScrubRow q leaf differs settle late corrected => Sys2Proof.Machine.execParityScrubRow q leaf differs settle late corrected s
  | .ddrUeBurst q leaf second leaves => Sys2Proof.Machine.execDdrUeBurst q leaf second leaves s
  | .ddrRankRetire c rank reason leaves => Sys2Proof.Machine.execDdrRankRetire c rank reason leaves s
  | .ddrMigrateDone c => Sys2Proof.Machine.execDdrMigrateDone c s
  | .ddrRehomeDone second => Sys2Proof.Machine.execDdrRehomeDone second s
  | .cxlReadFailover q leaf late => Sys2Proof.Machine.execCxlReadFailover q leaf late s
  | .cxlExpanderFailure port cause => Sys2Proof.Machine.execCxlExpanderFailure port cause s
  | .cxlResilverDone port => Sys2Proof.Machine.execCxlResilverDone port s
  | .keyGenerate d => Sys2Proof.Machine.execKeyGenerate d s
  | .keyImport d blob bad => Sys2Proof.Machine.execKeyImport d blob bad s
  | .keyImportStaged d blob bad => Sys2Proof.Machine.execKeyImportStaged d blob bad s
  | .keyExport d buffer => Sys2Proof.Machine.execKeyExport d buffer s
  | .keyRekey d buffer => Sys2Proof.Machine.execKeyRekey d buffer s
  | .keyZeroise d => Sys2Proof.Machine.execKeyZeroise d s
  | .drbgHealthFailure => Sys2Proof.Machine.execDrbgHealthFailure s
  | .rekeyEngineTake => Sys2Proof.Machine.execRekeyEngineTake s
  | .rekeyAdvance => Sys2Proof.Machine.execRekeyAdvance s
  | .patternWrite d n off data bad => Sys2Proof.Machine.execPatternWrite d n off data bad s
  | .secLock p v => Sys2Proof.Machine.execSecLock p v s
  | .linkSessionRollover port => Sys2Proof.Machine.execLinkSessionRollover port s
  | .poolCfgWrite p v => Sys2Proof.Machine.execPoolCfgWrite p v s
  | .dqConfig d q depth consumer => Sys2Proof.Machine.execDqConfig d q depth consumer s
  | .dqRelease d q => Sys2Proof.Machine.execDqRelease d q s
  | .opDefine d o r => Sys2Proof.Machine.execOpDefine d o r s
  | .opEnable d o => Sys2Proof.Machine.execOpEnable d o s
  | .opStop d o => Sys2Proof.Machine.execOpStop d o s
  | .opFree d o => Sys2Proof.Machine.execOpFree d o s
  | .opMigrateLive d o cls prio set => Sys2Proof.Machine.execOpMigrateLive d o cls prio set s
  | .opMigrateDrain d o cls prio set => Sys2Proof.Machine.execOpMigrateDrain d o cls prio set s
  | .tokenPut d q tokens => Sys2Proof.Machine.execTokenPut d q tokens s
  | .tokenGet d q buffer max => Sys2Proof.Machine.execTokenGet d q buffer max s
  | .tokenArrival q token source => Sys2Proof.Machine.execTokenArrival q token source s
  | .queueFetchDone q => Sys2Proof.Machine.execQueueFetchDone q s
  | .decision engine t => Sys2Proof.Machine.execDecision engine t s
  | .taskGrant pool => Sys2Proof.Machine.execTaskGrant pool s
  | .taskCommit slot => Sys2Proof.Machine.execTaskCommit slot s
  | .taskFetch d cls buffer waitMs taskMs => Sys2Proof.Machine.execTaskFetch d cls buffer waitMs taskMs s
  | .taskFetchTimeout tenant ring entry => Sys2Proof.Machine.execTaskFetchTimeout tenant ring entry s
  | .taskDone d handle status counts tokens => Sys2Proof.Machine.execTaskDone d handle status counts tokens s
  | .hostTaskTimeout slot => Sys2Proof.Machine.execHostTaskTimeout slot s
  | .taskHandback slot => Sys2Proof.Machine.execTaskHandback slot s
  | .dispatchRequest sec port cls => Sys2Proof.Machine.execDispatchRequest sec port cls s
  | .dispatchOutput sec port index token => Sys2Proof.Machine.execDispatchOutput sec port index token s
  | .dispatchDone sec port status => Sys2Proof.Machine.execDispatchDone sec port status s
  | .coreLoad d c data first items => Sys2Proof.Machine.execCoreLoad d c data first items s
  | .coreStart d c entry => Sys2Proof.Machine.execCoreStart d c entry s
  | .coreStop d c => Sys2Proof.Machine.execCoreStop d c s
  | .coreSignal d c => Sys2Proof.Machine.execCoreSignal d c s
  | .nop c fe => Sys2Proof.Machine.execNop c fe s
  | .trap c fe => Sys2Proof.Machine.execTrap c fe s
  | .rete c fe => Sys2Proof.Machine.execRete c fe s
  | .br c fe => Sys2Proof.Machine.execBr c fe s
  | .jmp c fe => Sys2Proof.Machine.execJmp c fe s
  | .jmpr c fe => Sys2Proof.Machine.execJmpr c fe s
  | .call c fe => Sys2Proof.Machine.execCall c fe s
  | .ret c fe => Sys2Proof.Machine.execRet c fe s
  | .loopi c fe => Sys2Proof.Machine.execLoopi c fe s
  | .loopr c fe => Sys2Proof.Machine.execLoopr c fe s
  | .repi c fe => Sys2Proof.Machine.execRepi c fe s
  | .repr c fe => Sys2Proof.Machine.execRepr c fe s
  | .twait c fe => Sys2Proof.Machine.execTwait c fe s
  | .tput c fe => Sys2Proof.Machine.execTput c fe s
  | .tdone c fe => Sys2Proof.Machine.execTdone c fe s
  | .dmas c fe => Sys2Proof.Machine.execDmas c fe s
  | .movs c fe => Sys2Proof.Machine.execMovs c fe s
  | .movts c fe => Sys2Proof.Machine.execMovts c fe s
  | .rdtime c fe => Sys2Proof.Machine.execRdtime c fe s
  | .add c fe => Sys2Proof.Machine.execAdd c fe s
  | .adds c fe => Sys2Proof.Machine.execAdds c fe s
  | .sub c fe => Sys2Proof.Machine.execSub c fe s
  | .subs c fe => Sys2Proof.Machine.execSubs c fe s
  | .and c fe => Sys2Proof.Machine.execAnd c fe s
  | .or c fe => Sys2Proof.Machine.execOr c fe s
  | .xor c fe => Sys2Proof.Machine.execXor c fe s
  | .min c fe => Sys2Proof.Machine.execMin c fe s
  | .max c fe => Sys2Proof.Machine.execMax c fe s
  | .abs c fe => Sys2Proof.Machine.execAbs c fe s
  | .neg c fe => Sys2Proof.Machine.execNeg c fe s
  | .cmp c fe => Sys2Proof.Machine.execCmp c fe s
  | .shl c fe => Sys2Proof.Machine.execShl c fe s
  | .shr c fe => Sys2Proof.Machine.execShr c fe s
  | .sar c fe => Sys2Proof.Machine.execSar c fe s
  | .shli c fe => Sys2Proof.Machine.execShli c fe s
  | .shri c fe => Sys2Proof.Machine.execShri c fe s
  | .sari c fe => Sys2Proof.Machine.execSari c fe s
  | .btst c fe => Sys2Proof.Machine.execBtst c fe s
  | .clz c fe => Sys2Proof.Machine.execClz c fe s
  | .movi c fe => Sys2Proof.Machine.execMovi c fe s
  | .addi c fe => Sys2Proof.Machine.execAddi c fe s
  | .andi c fe => Sys2Proof.Machine.execAndi c fe s
  | .cmpi c fe => Sys2Proof.Machine.execCmpi c fe s
  | .mov c fe => Sys2Proof.Machine.execMov c fe s
  | .movda c fe => Sys2Proof.Machine.execMovda c fe s
  | .movad c fe => Sys2Proof.Machine.execMovad c fe s
  | .movmd c fe => Sys2Proof.Machine.execMovmd c fe s
  | .adda c fe => Sys2Proof.Machine.execAdda c fe s
  | .sel c fe => Sys2Proof.Machine.execSel c fe s
  | .ld c fe err => Sys2Proof.Machine.execLd c fe err s
  | .st c fe => Sys2Proof.Machine.execSt c fe s
  | .ldo c fe err => Sys2Proof.Machine.execLdo c fe err s
  | .sto c fe => Sys2Proof.Machine.execSto c fe s
  | .ldxy c fe err => Sys2Proof.Machine.execLdxy c fe err s
  | .ldst c fe err => Sys2Proof.Machine.execLdst c fe err s
  | .mac c fe => Sys2Proof.Machine.execMac c fe s
  | .macsu c fe => Sys2Proof.Machine.execMacsu c fe s
  | .macuu c fe => Sys2Proof.Machine.execMacuu c fe s
  | .msu c fe => Sys2Proof.Machine.execMsu c fe s
  | .mul c fe => Sys2Proof.Machine.execMul c fe s
  | .macl c fe err => Sys2Proof.Machine.execMacl c fe err s
  | .msul c fe err => Sys2Proof.Machine.execMsul c fe err s
  | .macs c fe => Sys2Proof.Machine.execMacs c fe s
  | .accr c fe => Sys2Proof.Machine.execAccr c fe s
  | .accx c fe => Sys2Proof.Machine.execAccx c fe s
  | .accld c fe => Sys2Proof.Machine.execAccld c fe s
  | .accclr c fe => Sys2Proof.Machine.execAccclr c fe s
  | .accadd c fe => Sys2Proof.Machine.execAccadd c fe s
  | .acs c fe => Sys2Proof.Machine.execAcs c fe s
  | .decbit c fe => Sys2Proof.Machine.execDecbit c fe s
  | .interruptEntry c => Sys2Proof.Machine.execInterruptEntry c s
  | .timerMatch c => Sys2Proof.Machine.execTimerMatch c s
  | .dmaLeaf c tagBad waits => Sys2Proof.Machine.execDmaLeaf c tagBad waits s
  | .dmaRawLeaf c waits => Sys2Proof.Machine.execDmaRawLeaf c waits s
  | .dmaSectionRead c data rsp waits => Sys2Proof.Machine.execDmaSectionRead c data rsp waits s
  | .dmaSectionWrite c ue rsp waits => Sys2Proof.Machine.execDmaSectionWrite c ue rsp waits s
  | .dmaCoreCopy c ue waits => Sys2Proof.Machine.execDmaCoreCopy c ue waits s
  | .dmaTokenWrite c ue waits => Sys2Proof.Machine.execDmaTokenWrite c ue waits s
  | .dmaComplete c => Sys2Proof.Machine.execDmaComplete c s
  | .coreFailure c datapath => Sys2Proof.Machine.execCoreFailure c datapath s
  | .coreNoProgressTimeout c => Sys2Proof.Machine.execCoreNoProgressTimeout c s
  | .nocRead p => Sys2Proof.Machine.execNocRead p s
  | .nocWrite p => Sys2Proof.Machine.execNocWrite p s
  | .nocToken p source => Sys2Proof.Machine.execNocToken p source s
  | .nocReadRsp p => Sys2Proof.Machine.execNocReadRsp p s
  | .nocWriteAck p => Sys2Proof.Machine.execNocWriteAck p s
  | .nocMgtRead p => Sys2Proof.Machine.execNocMgtRead p s
  | .nocMgtWrite p => Sys2Proof.Machine.execNocMgtWrite p s
  | .nocFlitReplay => Sys2Proof.Machine.execNocFlitReplay s
  | .nocRingFailure ring cause segment => Sys2Proof.Machine.execNocRingFailure ring cause segment s
  | .nocRerouteDone pair => Sys2Proof.Machine.execNocRerouteDone pair s
  | .probeCfgWrite p which q v => Sys2Proof.Machine.execProbeCfgWrite p which q v s
  | .sqTailDoorbell tenant ring v => Sys2Proof.Machine.execSqTailDoorbell tenant ring v s
  | .cqHeadDoorbell tenant ring v => Sys2Proof.Machine.execCqHeadDoorbell tenant ring v s
  | .setupRing0 tenant v => Sys2Proof.Machine.execSetupRing0 tenant v s
  | .descriptorAccept tenant ring header readFail => Sys2Proof.Machine.execDescriptorAccept tenant ring header readFail s
  | .hostReadFailure r => Sys2Proof.Machine.execHostReadFailure r s
  | .msixCoalesceTimeout tenant cq => Sys2Proof.Machine.execMsixCoalesceTimeout tenant cq s
  | .nopDescriptor d => Sys2Proof.Machine.execNopDescriptor d s
  | .ringCreate d ring isCq log2 bound base n tau => Sys2Proof.Machine.execRingCreate d ring isCq log2 bound base n tau s
  | .ringDelete d ring isCq => Sys2Proof.Machine.execRingDelete d ring isCq s
  | .grant d ty tenant first count => Sys2Proof.Machine.execGrant d ty tenant first count s
  | .revoke d ty tenant first count => Sys2Proof.Machine.execRevoke d ty tenant first count s
  | .tenantSet d tenant mask w0 w1 w2 w3 w4 => Sys2Proof.Machine.execTenantSet d tenant mask w0 w1 w2 w3 w4 s
  | .query d kind index buffer => Sys2Proof.Machine.execQuery d kind index buffer s
  | .imageWrite d slot first last offset length cause rollback map => Sys2Proof.Machine.execImageWrite d slot first last offset length cause rollback map s
  | .regWrite d entries => Sys2Proof.Machine.execRegWrite d entries s
  | .regRead d buffer offsets => Sys2Proof.Machine.execRegRead d buffer offsets s
  | .flrVf tenant => Sys2Proof.Machine.execFlrVf tenant s
  | .flrQuireRelease tenant => Sys2Proof.Machine.execFlrQuireRelease tenant s
  | .vfEnable n => Sys2Proof.Machine.execVfEnable n s
  | .vfDisable n => Sys2Proof.Machine.execVfDisable n s
  | .flrPf0 => Sys2Proof.Machine.execFlrPf0 s
  | .linkLossTimeout => Sys2Proof.Machine.execLinkLossTimeout s
  | .bryPortTrained port ringId size number bad encrypted far reach => Sys2Proof.Machine.execBryPortTrained port ringId size number bad encrypted far reach s
  | .bryNoPartnerRetry port => Sys2Proof.Machine.execBryNoPartnerRetry port s
  | .bryPortDown port here far reach => Sys2Proof.Machine.execBryPortDown port here far reach s
  | .flitIdle f => Sys2Proof.Machine.execFlitIdle f s
  | .flitNoc f origin dest vc data source => Sys2Proof.Machine.execFlitNoc f origin dest vc data source s
  | .flitNak f from' => Sys2Proof.Machine.execFlitNak f from' s
  | .flitTime f t1 t2 t3 t4 d => Sys2Proof.Machine.execFlitTime f t1 t2 t3 t4 d s
  | .flitLine f origin number line e => Sys2Proof.Machine.execFlitLine f origin number line e s
  | .flitBcast f origin number op value t => Sys2Proof.Machine.execFlitBcast f origin number op value t s
  | .flitTunnel f origin dest write addr length bytes => Sys2Proof.Machine.execFlitTunnel f origin dest write addr length bytes s
  | .flitTrain f => Sys2Proof.Machine.execFlitTrain f s
  | .bryRetrainDone port => Sys2Proof.Machine.execBryRetrainDone port s
  | .bryTimeExchange => Sys2Proof.Machine.execBryTimeExchange s
  | .rmtAccess p v => Sys2Proof.Machine.execRmtAccess p v s
  | .rmtAccessEnd result data => Sys2Proof.Machine.execRmtAccessEnd result data s
  | .mgmtMismatch => Sys2Proof.Machine.execMgmtMismatch s
  | .mgmtSelftestDone aPass bPass => Sys2Proof.Machine.execMgmtSelftestDone aPass bPass s
  | .mgmtSingleFailure => Sys2Proof.Machine.execMgmtSingleFailure s
  | .logWrite => Sys2Proof.Machine.execLogWrite s
  | .logWindowClose code unit => Sys2Proof.Machine.execLogWindowClose code unit s
  | .powerVote src kind index state overCap => Sys2Proof.Machine.execPowerVote src kind index state overCap s
  | .voteWithdrawal t n => Sys2Proof.Machine.execVoteWithdrawal t n s
  | .domainFenceEnd n => Sys2Proof.Machine.execDomainFenceEnd n s
  | .domainStateReached n => Sys2Proof.Machine.execDomainStateReached n s
  | .deferredLowering n => Sys2Proof.Machine.execDeferredLowering n s
  | .clockGate n => Sys2Proof.Machine.execClockGate n s
  | .idleEntry => Sys2Proof.Machine.execIdleEntry s
  | .idleExit => Sys2Proof.Machine.execIdleExit s
  | .sleepRequest src => Sys2Proof.Machine.execSleepRequest src s
  | .deepSleepRequest src => Sys2Proof.Machine.execDeepSleepRequest src s
  | .offRequest src => Sys2Proof.Machine.execOffRequest src s
  | .entryCommitPoint phases => Sys2Proof.Machine.execEntryCommitPoint phases s
  | .deviceStateReached => Sys2Proof.Machine.execDeviceStateReached s
  | .wakeNLow => Sys2Proof.Machine.execWakeNLow s
  | .gioWakeEdge pin rising => Sys2Proof.Machine.execGioWakeEdge pin rising s
  | .smbusAddressMatch addr => Sys2Proof.Machine.execSmbusAddressMatch addr s
  | .hostWake => Sys2Proof.Machine.execHostWake s
  | .timerWake => Sys2Proof.Machine.execTimerWake s
  | .exitComplete => Sys2Proof.Machine.execExitComplete s
  | .dbgPortId c reserved => Sys2Proof.Machine.execDbgPortId c reserved s
  | .dbgPortStat c => Sys2Proof.Machine.execDbgPortStat c s
  | .dbgSpaceWrite c => Sys2Proof.Machine.execDbgSpaceWrite c s
  | .dbgAddrWrite c => Sys2Proof.Machine.execDbgAddrWrite c s
  | .dbgData c => Sys2Proof.Machine.execDbgData c s
  | .dbgDataInc c => Sys2Proof.Machine.execDbgDataInc c s
  | .dbgAccessDone monitor => Sys2Proof.Machine.execDbgAccessDone monitor s
  | .dbgResync => Sys2Proof.Machine.execDbgResync s
  | .monitorRequest reg write tag pending data => Sys2Proof.Machine.execMonitorRequest reg write tag pending data s
  | .authOpen monitor v => Sys2Proof.Machine.execAuthOpen monitor v s
  | .authRespond monitor v => Sys2Proof.Machine.execAuthRespond monitor v s
  | .authClose monitor v => Sys2Proof.Machine.execAuthClose monitor v s
  | .sessionTimeout => Sys2Proof.Machine.execSessionTimeout s
  | .authLockoutEnd monitor => Sys2Proof.Machine.execAuthLockoutEnd monitor s
  | .haltStop v => Sys2Proof.Machine.execHaltStop v s
  | .haltResume v => Sys2Proof.Machine.execHaltResume v s
  | .haltJoin v => Sys2Proof.Machine.execHaltJoin v s
  | .haltLeave v => Sys2Proof.Machine.execHaltLeave v s
  | .haltEvent group => Sys2Proof.Machine.execHaltEvent group s
  | .dbgBrk n => Sys2Proof.Machine.execDbgBrk n s
  | .haltTakesEffect kind index => Sys2Proof.Machine.execHaltTakesEffect kind index s
  | .powerHoldWrite n v => Sys2Proof.Machine.execPowerHoldWrite n v s
  | .foliationSchedule p ring => Sys2Proof.Machine.execFoliationSchedule p ring s
  | .foliationCancel p => Sys2Proof.Machine.execFoliationCancel p s
  | .foliationCopy => Sys2Proof.Machine.execFoliationCopy s
  | .foliationWritten => Sys2Proof.Machine.execFoliationWritten s
  | .shadowRead p => Sys2Proof.Machine.execShadowRead p s
  | .latchingRead p page off be => Sys2Proof.Machine.execLatchingRead p page off be s
  | .rcRead p page off be => Sys2Proof.Machine.execRcRead p page off be s
  | .bankCfgWrite p bank v => Sys2Proof.Machine.execBankCfgWrite p bank v s
  | .bankChangeDone bank => Sys2Proof.Machine.execBankChangeDone bank s
  | .pinCfgWrite p pin v => Sys2Proof.Machine.execPinCfgWrite p pin v s
  | .contentionDetect pin => Sys2Proof.Machine.execContentionDetect pin s
  | .loadTestStart p v => Sys2Proof.Machine.execLoadTestStart p v s
  | .loadTestDone src snk => Sys2Proof.Machine.execLoadTestDone src snk s
  | .adcConversion codes => Sys2Proof.Machine.execAdcConversion codes s
  | .smbReadIdentity => Sys2Proof.Machine.execSmbReadIdentity s
  | .smbReadState => Sys2Proof.Machine.execSmbReadState s
  | .smbReadTempMax => Sys2Proof.Machine.execSmbReadTempMax s
  | .smbSelectSensor n pecOk => Sys2Proof.Machine.execSmbSelectSensor n pecOk s
  | .smbReadSensor => Sys2Proof.Machine.execSmbReadSensor s
  | .smbSetOffset off pecOk => Sys2Proof.Machine.execSmbSetOffset off pecOk s
  | .smbReadRegister => Sys2Proof.Machine.execSmbReadRegister s
  | .smbUnlistedCommand cmd => Sys2Proof.Machine.execSmbUnlistedCommand cmd s
  | .smbBusTimeout => Sys2Proof.Machine.execSmbBusTimeout s
  | .registerWrite p page off v be => Sys2Proof.Machine.execRegisterWrite p page off v be s
  | .bar0BadRequest off => Sys2Proof.Machine.execBar0BadRequest off s
  | .hostLinkLoss => Sys2Proof.Machine.execHostLinkLoss s
  | .hostLinkUp rate width flit => Sys2Proof.Machine.execHostLinkUp rate width flit s
  | .busMasterEnableChange tenant on => Sys2Proof.Machine.execBusMasterEnableChange tenant on s
  | .smbClkStretchTimeout => Sys2Proof.Machine.execSmbClkStretchTimeout s
  | .fabricClockEdge sec clock falling cells slices => Sys2Proof.Machine.execFabricClockEdge sec clock falling cells slices s
  | .blockMemoryWrite w => Sys2Proof.Machine.execBlockMemoryWrite w s

end Sys2Proof.Machine
end

