-- ==== Sys2Proof/Machine/Step.lean ====
section
/-! DEFINITION. Machine/Step.lean: one step of the device: the command at the front of the queue takes effect; with an empty
queue one root cycle passes. -/
namespace Sys2Proof.Machine

/-- A root cycle with no command waiting (R57, R69, log entry 7): the timebase adds 8, in every root_state but START,
before which the root has not locked in S07. Nothing else happens by time alone: the table's rows stand for what does. -/
def State.tick (s : State) : State :=
  if s.get F.CLK_STATUS_root_state = Root.START then s
  else { s with clk := { s.clk with timebase := s.clk.timebase + 8 } }

/-- One step: the command at the front of the queue, with the queue's rest; with an empty queue, a root cycle. -/
def step (s : State) : Host.Outcome State Fault Refusal :=
  match s.pending with
  | [] => .next s.tick
  | c :: rest => exec c { s with pending := rest }

/-- The state with the command a word spells put at the front of its queue; unchanged where the word spells none. -/
def State.withFetchWord (s : State) (nbits w : Nat) : State :=
  match decodeTableWord nbits w with
  | some c => { s with pending := c :: s.pending }
  | none => s

end Sys2Proof.Machine
end

