-- ==== Sys2Proof/WellFormed.lean ====
section
/-! DEFINITION. WellFormed.lean: which commands name units that exist and lists of the lengths their rows give (R703). -/
namespace Sys2Proof

/-- S01 to S16 (R92). -/
def startStep (n : Nat) : Bool := decide (1 ≤ n) && decide (n ≤ 16)

/-- The number of units of a halt kind (R651): 256 cores, 256 sections, 512 presses, 256 tenants of the sewing frame. -/
def haltUnits (kind : Nat) : Nat := if kind = 2 then 512 else 256

/-- The command names what the device has. An operand that a descriptor carries as a number is checked by the command
itself (R29), so it is well formed at every value. -/
def Instr.wf : Instr → Bool
  | .startConditionMet => true
  | .vinRising => true
  | .vinUndervoltage => true
  | .vinOvervoltage => true
  | .pwrfailNLow => true
  | .colophonCommitDone => true
  | .gpfDone _ => true
  | .powerLossSequenceEnd => true
  | .vauxLoss => true
  | .vauxRestored => true
  | .railPhaseFailure rail _ => decide (rail.toNat < 17)
  | .thermalTrip => true
  | .tempSample l => decide (l.length = 64)
  | .sensorElementFailure _ _ => true
  | .qualGateEnd _ _ _ => true
  | .candidateEdgeTimeout _ => true
  | .memsFailed => true
  | .memsRecovered => true
  | .activeSourceLost => true
  | .fallbackChosen => true
  | .refSwitch _ _ => true
  | .rootLockReached => true
  | .autoRevert => true
  | .candWrite _ _ _ => true
  | .globalDivWrite _ _ _ => true
  | .outCtrlWrite _ n _ => decide (n < 7)
  | .freqAdjWrite _ _ => true
  | .timeSet _ _ => true
  | .timeStep _ _ => true
  | .timeCancel _ => true
  | .timeCmdApply => true
  | .ppsEdge pin => decide (pin < 192)
  | .resetPin => true
  | .ownerRestart _ _ => true
  | .stepTimeout step => startStep step.toNat
  | .mgmtWatchdogExpiry => true
  | .startStepDone step r => startStep step.toNat && decide (r.slots.length ≤ 12) && decide (r.units.length ≤ 16)
  | .perstNAssert => true
  | .perstNRelease => true
  | .linkTimeout => true
  | .linkTrainRetry _ _ _ _ => true
  | .commitRollback _ => true
  | .clearLearned _ => true
  | .imageSelWrite _ _ => true
  | .fabricMemRead _ mem _ _ _ => decide (mem.toNat < 66)
  | .memScrubVisit _ strikes dropped => strikes.all (fun x => decide (x.1.toNat < 66)) && dropped.all (fun m => decide (m.toNat < 66))
  | .memInject _ _ _ _ => true
  | .fabricLoad _ _ _ _ _ _ => true
  | .sectionClearDone _ => true
  | .fabricLoadEngineStart => true
  | .fabricLoadDone _ image => image.all (fun x => decide (x.words.all (fun w => decide (w.1.toNat < 66))))
  | .fabricRelease _ _ => true
  | .fabricReleaseDone _ => true
  | .fabricStop _ _ => true
  | .fabricStopDone _ => true
  | .fabricClear _ _ => true
  | .rclkCtrlWrite _ _ _ _ => true
  | .rclkSelChange _ _ _ => true
  | .rclkChangeDone _ _ => true
  | .laneEnable _ _ _ => true
  | .laneDisable _ _ _ => true
  | .octetRetuneDone _ => true
  | .octetPllFailure _ => true
  | .octetSwitchComplete _ => true
  | .sparePllFailure _ => true
  | .txFirWrite _ _ _ => true
  | .txFirApply _ => true
  | .rxCoefWrite _ _ _ => true
  | .rxEqModeWrite _ _ _ => true
  | .signalDetected _ => true
  | .cdrLockAcquired _ => true
  | .codingLockGained _ _ => true
  | .codingLockLost _ => true
  | .cdrLockLost _ => true
  | .signalLoss _ => true
  | .laneAnalogueFault _ cause => decide (2 ≤ cause) && decide (cause ≤ 5)
  | .digAcquire src lane tap _ _ _ => (match src with | .inl _ => true | .inr _ => decide (lane.toNat < 512) && decide (tap.toNat < 2))
  | .digTrigger _ _ _ _ _ => true
  | .digAbort _ _ _ _ => true
  | .digAcquisitionEnd _ _ => true
  | .probe src lane _ => (match src with | .inl _ => true | .inr _ => decide (lane.toNat < 512))
  | .probeAbort _ _ _ => true
  | .probeEnd _ _ _ _ _ _ => true
  | .intakeUnit _ _ _ _ _ _ _ => true
  | .runPieceTimeout _ _ => true
  | .gapPieceTimeout _ _ _ => true
  | .fecCodewordDone _ _ _ _ _ _ _ _ => true
  | .deskewRound _ _ _ offs => decide (offs.length ≤ 32)
  | .sliceCheckpoint _ => true
  | .sliceFailure _ k => decide (k < 5)
  | .sliceFailoverDone _ => true
  | .laneCfgWrite _ which _ _ _ => decide (which < 3)
  | .slotEvaluation _ _ => true
  | .triggerTokenPost => true
  | .lineEvent _ => true
  | .seqArm _ _ _ _ => true
  | .seqDisarm _ _ _ _ => true
  | .swCond _ _ _ _ => true
  | .tlinePulse _ _ => true
  | .trigPinEdge pin _ _ => decide (pin < 192)
  | .tapBeat _ _ _ _ _ _ => true
  | .injEvent _ _ _ => true
  | .ribbon _ _ _ _ _ => true
  | .ribbonAtTime => true
  | .graphRibbonToken _ => true
  | .streamStart _ a => decide (a.dqs.length = 6) && decide (a.bounds.length ≤ 32)
  | .streamStop _ _ => true
  | .streamClosed _ => true
  | .captureRelease _ _ => true
  | .quireFreed _ => true
  | .leafFlushTimeout _ => true
  | .quireAllocated => true
  | .rowWaitTimeout _ => true
  | .sealSlotWrite _ => true
  | .drainTake _ => true
  | .drainCopyDone _ => true
  | .drainWriteFailure _ => true
  | .drainCfgWrite _ _ => true
  | .quotaWrite _ _ _ _ => true
  | .quireVerify _ _ _ _ => true
  | .leafRead _ _ _ _ _ _ => true
  | .leafReadRaw _ _ _ _ _ => true
  | .collateOpen _ _ _ _ _ _ _ _ _ _ => true
  | .collateClose _ _ => true
  | .collateRecord _ _ _ => true
  | .hostTailPoll _ _ _ => true
  | .seekTime _ _ _ => true
  | .ribbonFind _ _ _ _ _ _ _ _ _ _ => true
  | .pressLoad _ _ _ program _ _ _ => decide (program.length ≤ 512)
  | .pressStart _ _ _ => true
  | .pressStartTime _ => true
  | .pressStop _ _ => true
  | .pressFreeze _ _ => true
  | .pressUnfreeze _ _ => true
  | .pressEvent _ _ _ => true
  | .pressEvqArrival _ _ => true
  | .pressUnitSend _ _ _ => true
  | .prefetchReadDone _ _ _ _ => true
  | .halt _ => true
  | .send _ => true
  | .sendk _ => true
  | .idle _ => true
  | .setp _ => true
  | .addp _ => true
  | .setk _ => true
  | .loop _ => true
  | .jump _ => true
  | .markt _ => true
  | .addt _ => true
  | .waitTime _ => true
  | .waitTimeRelease _ => true
  | .waitEvent _ => true
  | .waitEventTaken _ => true
  | .waitEventTimeout _ => true
  | .branchEv _ => true
  | .sendEv _ => true
  | .prime _ => true
  | .inject _ => true
  | .signal _ => true
  | .pass _ => true
  | .drop _ => true
  | .passUntil _ => true
  | .relayUnitIn _ _ => true
  | .cacheLinesWrite _ _ _ => true
  | .frameConfig _ _ _ _ _ _ _ _ _ => true
  | .frameStart _ _ _ => true
  | .frameStartTime _ => true
  | .frameStop _ _ => true
  | .shaperSet _ _ _ _ _ _ _ => true
  | .clearDebt _ _ => true
  | .shaperSlot _ => true
  | .multicastTimeout _ => true
  | .frameBoundary _ _ => true
  | .frameDqToken _ => true
  | .hbmReadError _ _ _ _ _ => true
  | .hbmStackFailure stack _ => decide (stack.toNat < 12)
  | .hbmRefresh stack _ => decide (stack.toNat < 12)
  | .ddrRefresh _ _ => true
  | .ddrRefreshRatePoll _ _ _ => true
  | .parityScrubRow _ _ _ _ _ _ => true
  | .ddrUeBurst _ _ _ _ => true
  | .ddrRankRetire _ _ _ _ => true
  | .ddrMigrateDone _ => true
  | .ddrRehomeDone _ => true
  | .cxlReadFailover _ _ _ => true
  | .cxlExpanderFailure port _ => decide (port.toNat < 3)
  | .cxlResilverDone port => decide (port.toNat < 3)
  | .keyGenerate _ => true
  | .keyImport _ _ _ => true
  | .keyImportStaged _ _ _ => true
  | .keyExport _ _ => true
  | .keyRekey _ _ => true
  | .keyZeroise _ => true
  | .drbgHealthFailure => true
  | .rekeyEngineTake => true
  | .rekeyAdvance => true
  | .patternWrite _ _ _ _ _ => true
  | .secLock _ _ => true
  | .linkSessionRollover _ => true
  | .poolCfgWrite _ _ => true
  | .dqConfig _ _ _ _ => true
  | .dqRelease _ _ => true
  | .opDefine _ _ _ => true
  | .opEnable _ _ => true
  | .opStop _ _ => true
  | .opFree _ _ => true
  | .opMigrateLive _ _ _ _ _ => true
  | .opMigrateDrain _ _ _ _ _ => true
  | .tokenPut _ _ _ => true
  | .tokenGet _ _ _ _ => true
  | .tokenArrival _ _ _ => true
  | .queueFetchDone _ => true
  | .decision _ _ => true
  | .taskGrant _ => true
  | .taskCommit _ => true
  | .taskFetch _ _ _ _ _ => true
  | .taskFetchTimeout _ _ _ => true
  | .taskDone _ _ _ _ _ => true
  | .hostTaskTimeout _ => true
  | .taskHandback _ => true
  | .dispatchRequest _ _ _ => true
  | .dispatchOutput _ _ _ _ => true
  | .dispatchDone _ _ _ => true
  | .coreLoad _ _ _ _ _ => true
  | .coreStart _ _ _ => true
  | .coreStop _ _ => true
  | .coreSignal _ _ => true
  | .nop _ _ => true
  | .trap _ _ => true
  | .rete _ _ => true
  | .br _ _ => true
  | .jmp _ _ => true
  | .jmpr _ _ => true
  | .call _ _ => true
  | .ret _ _ => true
  | .loopi _ _ => true
  | .loopr _ _ => true
  | .repi _ _ => true
  | .repr _ _ => true
  | .twait _ _ => true
  | .tput _ _ => true
  | .tdone _ _ => true
  | .dmas _ _ => true
  | .movs _ _ => true
  | .movts _ _ => true
  | .rdtime _ _ => true
  | .add _ _ => true
  | .adds _ _ => true
  | .sub _ _ => true
  | .subs _ _ => true
  | .and _ _ => true
  | .or _ _ => true
  | .xor _ _ => true
  | .min _ _ => true
  | .max _ _ => true
  | .abs _ _ => true
  | .neg _ _ => true
  | .cmp _ _ => true
  | .shl _ _ => true
  | .shr _ _ => true
  | .sar _ _ => true
  | .shli _ _ => true
  | .shri _ _ => true
  | .sari _ _ => true
  | .btst _ _ => true
  | .clz _ _ => true
  | .movi _ _ => true
  | .addi _ _ => true
  | .andi _ _ => true
  | .cmpi _ _ => true
  | .mov _ _ => true
  | .movda _ _ => true
  | .movad _ _ => true
  | .movmd _ _ => true
  | .adda _ _ => true
  | .sel _ _ => true
  | .ld _ _ _ => true
  | .st _ _ => true
  | .ldo _ _ _ => true
  | .sto _ _ => true
  | .ldxy _ _ _ => true
  | .ldst _ _ _ => true
  | .mac _ _ => true
  | .macsu _ _ => true
  | .macuu _ _ => true
  | .msu _ _ => true
  | .mul _ _ => true
  | .macl _ _ _ => true
  | .msul _ _ _ => true
  | .macs _ _ => true
  | .accr _ _ => true
  | .accx _ _ => true
  | .accld _ _ => true
  | .accclr _ _ => true
  | .accadd _ _ => true
  | .acs _ _ => true
  | .decbit _ _ => true
  | .interruptEntry _ => true
  | .timerMatch _ => true
  | .dmaLeaf _ _ _ => true
  | .dmaRawLeaf _ _ => true
  | .dmaSectionRead _ _ _ _ => true
  | .dmaSectionWrite _ _ _ _ => true
  | .dmaCoreCopy _ _ _ => true
  | .dmaTokenWrite _ _ _ => true
  | .dmaComplete _ => true
  | .coreFailure _ _ => true
  | .coreNoProgressTimeout _ => true
  | .nocRead _ => true
  | .nocWrite _ => true
  | .nocToken _ _ => true
  | .nocReadRsp _ => true
  | .nocWriteAck _ => true
  | .nocMgtRead _ => true
  | .nocMgtWrite _ => true
  | .nocFlitReplay => true
  | .nocRingFailure _ cause segment => decide (1 ≤ cause.toNat) && decide (segment.toNat < 52)
  | .nocRerouteDone _ => true
  | .probeCfgWrite _ _ _ _ => true
  | .sqTailDoorbell _ _ _ => true
  | .cqHeadDoorbell _ _ _ => true
  | .setupRing0 _ _ => true
  | .descriptorAccept _ _ _ _ => true
  | .hostReadFailure _ => true
  | .msixCoalesceTimeout _ _ => true
  | .nopDescriptor _ => true
  | .ringCreate _ _ _ _ _ _ _ _ => true
  | .ringDelete _ _ _ => true
  | .grant _ _ _ _ _ => true
  | .revoke _ _ _ _ _ => true
  | .tenantSet _ _ _ _ _ _ _ _ => true
  | .query _ _ _ _ => true
  | .imageWrite _ _ _ _ _ _ _ _ _ => true
  | .regWrite _ entries => decide (1 ≤ entries.length) && decide (entries.length ≤ 6)
  | .regRead _ _ offsets => decide (1 ≤ offsets.length) && decide (offsets.length ≤ 12)
  | .flrVf _ => true
  | .flrQuireRelease _ => true
  | .vfEnable _ => true
  | .vfDisable _ => true
  | .flrPf0 => true
  | .linkLossTimeout => true
  | .bryPortTrained _ _ _ _ _ _ _ _ => true
  | .bryNoPartnerRetry _ => true
  | .bryPortDown _ _ _ _ => true
  | .flitIdle _ => true
  | .flitNoc _ _ _ _ _ _ => true
  | .flitNak _ _ => true
  | .flitTime _ _ _ _ _ _ => true
  | .flitLine _ _ _ _ _ => true
  | .flitBcast _ _ _ _ _ _ => true
  | .flitTunnel _ _ _ _ _ _ _ => true
  | .flitTrain _ => true
  | .bryRetrainDone _ => true
  | .bryTimeExchange => true
  | .rmtAccess _ _ => true
  | .rmtAccessEnd _ _ => true
  | .mgmtMismatch => true
  | .mgmtSelftestDone _ _ => true
  | .mgmtSingleFailure => true
  | .logWrite => true
  | .logWindowClose _ _ => true
  | .powerVote _ _ _ _ _ => true
  | .voteWithdrawal _ n => decide (n.toNat < 471)
  | .domainFenceEnd n => decide (n.toNat < 471)
  | .domainStateReached n => decide (n.toNat < 471)
  | .deferredLowering n => decide (n.toNat < 471)
  | .clockGate n => decide (n.toNat < 471)
  | .idleEntry => true
  | .idleExit => true
  | .sleepRequest _ => true
  | .deepSleepRequest _ => true
  | .offRequest _ => true
  | .entryCommitPoint _ => true
  | .deviceStateReached => true
  | .wakeNLow => true
  | .gioWakeEdge _ _ => true
  | .smbusAddressMatch _ => true
  | .hostWake => true
  | .timerWake => true
  | .exitComplete => true
  | .dbgPortId _ _ => true
  | .dbgPortStat _ => true
  | .dbgSpaceWrite _ => true
  | .dbgAddrWrite _ => true
  | .dbgData _ => true
  | .dbgDataInc _ => true
  | .dbgAccessDone _ => true
  | .dbgResync => true
  | .monitorRequest _ _ _ _ _ => true
  | .authOpen _ _ => true
  | .authRespond _ _ => true
  | .authClose _ _ => true
  | .sessionTimeout => true
  | .authLockoutEnd _ => true
  | .haltStop _ => true
  | .haltResume _ => true
  | .haltJoin _ => true
  | .haltLeave _ => true
  | .haltEvent _ => true
  | .dbgBrk _ => true
  | .haltTakesEffect kind index => decide (index.toNat < haltUnits kind.toNat)
  | .powerHoldWrite _ _ => true
  | .foliationSchedule _ _ => true
  | .foliationCancel _ => true
  | .foliationCopy => true
  | .foliationWritten => true
  | .shadowRead _ => true
  | .latchingRead _ _ _ _ => true
  | .rcRead _ _ _ _ => true
  | .bankCfgWrite _ bank _ => decide (bank.toNat < 6)
  | .bankChangeDone bank => decide (bank.toNat < 6)
  | .pinCfgWrite _ pin _ => decide (pin.toNat < 192)
  | .contentionDetect pin => decide (pin.toNat < 192)
  | .loadTestStart _ _ => true
  | .loadTestDone src snk => decide (src.length = 16) && decide (snk.length = 16)
  | .adcConversion _ => true
  | .smbReadIdentity => true
  | .smbReadState => true
  | .smbReadTempMax => true
  | .smbSelectSensor _ _ => true
  | .smbReadSensor => true
  | .smbSetOffset _ _ => true
  | .smbReadRegister => true
  | .smbUnlistedCommand _ => true
  | .smbBusTimeout => true
  | .registerWrite _ _ _ _ _ => true
  | .bar0BadRequest _ => true
  | .hostLinkLoss => true
  | .hostLinkUp _ _ _ => true
  | .busMasterEnableChange _ _ => true
  | .smbClkStretchTimeout => true
  | .fabricClockEdge _ _ _ _ _ => true
  | .blockMemoryWrite w => decide (w.mem.toNat < 66) && decide (w.meet.toNat ≤ 4)

end Sys2Proof
end

