-- ==== Sys2Proof/Safety.lean ====
section
/-! DEFINITION. Safety.lean: what a well-kept state is and what a safe step is. -/
namespace Sys2Proof.Machine

/-- The register store is in its canonical form: rising offsets, and no entry for a register that holds its reset word. -/
def State.regsWf (s : State) : Bool := Tbl.wf 0#32 s.regs

/-- A timestamp of the timebase has bits 2 to 0 zero (R69). -/
def State.timeAligned (s : State) : Bool := s.clk.timebase.toNat % 8 == 0

/-- What every step keeps. -/
def State.kept (s : State) : Bool := s.regsWf && s.timeAligned

/-- A step that answers a next state. -/
def Completes (o : Host.Outcome State Fault Refusal) : Prop := ∃ t, o = .next t

/-- Every command waiting in the queue is well formed. -/
def State.queueWf (s : State) : Bool := s.pending.all Instr.wf

/-- Command `c` in state `s` answers a next state, and `P` holds of it. -/
def Gives (c : Instr) (s : State) (P : State → Prop) : Prop := ∃ t, exec c s = .next t ∧ P t

/-- A write of `v` to a register passes the checks of R706: the device runs, the block is open, the unit is the writer's and
powered, and `v` holds no reserved bit and no reserved encoding. -/
def State.writable (s : State) (p : Path) (r : RegDef) (i j k : Nat) (v : Word) : Bool :=
  !s.dead && !(s.get F.PWR_DEV_STATUS_state == V.PWR_DEV_STATUS_state_DEEP_SLEEP) && s.openBlock (r.addr i j k) &&
    !s.foreignWrite p (r.addr i j k) i j && s.regPowered (r.addr i j k) && (v.toNat &&& r.rsvMask == 0) &&
    !r.badValue v.toNat

/-- A descriptor passes the checks that come before its opcode's own (R29, R93, R565, R567). -/
def State.admits (s : State) (d : Desc) : Bool := !s.dead && s.boot.ready && !d.rsvSet && !d.badAddr

/-- The management processor runs (R604). -/
def State.mgmtUp (s : State) : Bool := !(s.get F.RAS_STATUS_mgmt_state == V.RAS_STATUS_mgmt_state_FAILED)

/-- A lane's press is at an instruction of an opcode and runs it next: RUNNING, no output instruction on the wire, no
resynchronisation pending (R347, R348, R361). -/
def State.pressRuns (s : State) (l op : Nat) : Bool :=
  s.prsState l == Prs.RUNNING && (s.prs l).cur.isNone && !(s.prs l).resync && (s.prsAt l).op == op

/-- A core as the instruction at its pc issues: the first after a RETE takes SR back from ESR (R505). -/
def CoreSt.atIssue (x : CoreSt) : CoreSt := if x.restore then { x with sr := x.esr, restore := false, hold := true } else x

/-- A core issues the instruction of an opcode at its pc: RUNNING, the word's opcode, no comparator of the monitor enabled
(R501, R517, R656). -/
def State.coreAt (s : State) (c op : Nat) : Bool :=
  s.coreState c == Core.RUNNING && (s.core c).fetched / 2 ^ 24 == op && (upTo 32).all (fun n => !s.on F.DBG_COMP_CFG_enable n)

/-- It issues with no exception of the checks of R517. -/
def State.coreIssues (s : State) (c op : Nat) : Bool :=
  s.coreAt c op && ((s.core c).atIssue.issueExc (s.core c).fetched (s.core c).pc).isNone

/-- The state after a core's instruction with effect `r` has issued. -/
def State.coreRetires (s : State) (c : Nat) (x : CoreSt) (r : CoreRes) : State := (s.setCore c x).setCore c (x.retire r)

/-! ## What a command may change -/

/-- The parts of the state: a block of registers (R702; FRM the registers of the FRAME streams behind PRS.FRM_INDEX, R386),
or a component that no register shows. -/
inductive Part where
  | GLB
  | CLK
  | PWR
  | BOOT
  | RAS
  | OBS
  | GIO
  | DBG
  | SEC
  | HIF
  | SWF
  | NOC
  | BRY
  | MEM
  | CAP
  | PRS
  | LANE
  | SECT
  | SGC
  | FAB
  | FRM
  | latch
  | tenants
  | ras
  | sup
  | pwr
  | clk
  | boot
  | colo
  | trigPinHolder
  | swf
  | cap
  | coll
  | lanes
  | sectors
  | trig
  | press
  | frames
  | frameLanes
  | noc
  | bry
  | cores
  | dbg
  | mem
  | obs
  | fab
  | sec
  | gio
  | out
  | free
  deriving DecidableEq, Repr

/-- The blocks by the offset they end at, rising (R702); what lies beyond them is FRM. -/
def blockEnds : List (Nat × Part) :=
  [(0x1000, .GLB), (0x2000, .CLK), (0x4000, .PWR), (0x5000, .BOOT), (0x6000, .RAS), (0x8000, .OBS), (0xA000,
   .GIO), (0xB000, .DBG), (0x10000, .SEC), (0x20000, .HIF), (0x40000, .SWF), (0x80000, .NOC), (0x100000, .BRY),
   (0x400000, .MEM), (0x500000, .CAP), (0x800000, .PRS), (0xA00000, .LANE), (0x2000000, .SECT), (0x4000000,
   .SGC), (0x10000000, .FAB)]

/-- The first block of a list that ends beyond an offset. -/
def blockIn : List (Nat × Part) → Nat → Part
  | [], _ => .FRM
  | (e, p) :: r, off => if off < e then p else blockIn r off

/-- The block of registers an offset lies in (R702). -/
def blockOf (off : Nat) : Part := blockIn blockEnds off

/-- Two states agree on a part. -/
def Part.same (s t : State) : Part → Prop
  | .latch => t.latch = s.latch
  | .tenants => t.tenants = s.tenants
  | .ras => t.ras = s.ras
  | .sup => t.sup = s.sup
  | .pwr => t.pwr = s.pwr
  | .clk => t.clk = s.clk
  | .boot => t.boot = s.boot
  | .colo => t.colo = s.colo
  | .trigPinHolder => t.trigPinHolder = s.trigPinHolder
  | .swf => t.swf = s.swf
  | .cap => t.cap = s.cap
  | .coll => t.coll = s.coll
  | .lanes => t.lanes = s.lanes
  | .sectors => t.sectors = s.sectors
  | .trig => t.trig = s.trig
  | .press => t.press = s.press
  | .frames => t.frames = s.frames
  | .frameLanes => t.frameLanes = s.frameLanes
  | .noc => t.noc = s.noc
  | .bry => t.bry = s.bry
  | .cores => t.cores = s.cores
  | .dbg => t.dbg = s.dbg
  | .mem => t.mem = s.mem
  | .obs => t.obs = s.obs
  | .fab => t.fab = s.fab
  | .sec => t.sec = s.sec
  | .gio => t.gio = s.gio
  | .out => t.out = s.out
  | .free => t.free = s.free
  | b => ∀ off, blockOf off = b → Tbl.get 0#32 t.regs off = Tbl.get 0#32 s.regs off

/-- The parts outside a list are the same in both states. -/
def State.SameBut (may : List Part) (s t : State) : Prop := ∀ p, p ∉ may → Part.same s t p

/-- Every part. -/
def allParts : List Part :=
  [.GLB, .CLK, .PWR, .BOOT, .RAS, .OBS, .GIO, .DBG, .SEC, .HIF, .SWF, .NOC, .BRY, .MEM, .CAP, .PRS, .LANE, .SECT,
   .SGC, .FAB, .FRM, .latch, .tenants, .ras, .sup, .pwr, .clk, .boot, .colo, .trigPinHolder, .swf, .cap, .coll,
   .lanes, .sectors, .trig, .press, .frames, .frameLanes, .noc, .bry, .cores, .dbg, .mem, .obs, .fab, .sec, .gio,
   .out, .free]

end Sys2Proof.Machine

namespace Sys2Proof
open Machine

/-- The parts a command may change: all that its chapters let it act on, whatever its operands. -/
def Instr.parts : Instr → List Part
  | .startConditionMet | .vinUndervoltage | .vinOvervoltage | .pwrfailNLow | .vauxLoss | .railPhaseFailure _ _
  | .thermalTrip | .resetPin | .ownerRestart _ _ | .stepTimeout _ | .mgmtWatchdogExpiry | .startStepDone _ _
  | .perstNAssert | .commitRollback _ | .clearLearned _ | .grant _ _ _ _ _ | .revoke _ _ _ _ _
  | .imageWrite _ _ _ _ _ _ _ _ _ | .regWrite _ _ | .regRead _ _ _ | .flrVf _ | .flrQuireRelease _ | .vfDisable _
  | .flrPf0 | .linkLossTimeout | .domainStateReached _ | .deviceStateReached | .wakeNLow | .gioWakeEdge _ _
  | .smbusAddressMatch _ | .hostWake | .timerWake | .exitComplete | .dbgPortId _ _ | .dbgPortStat _
  | .dbgSpaceWrite _ | .dbgAddrWrite _ | .dbgData _ | .dbgDataInc _ | .dbgAccessDone _ | .monitorRequest _ _ _ _ _
  | .latchingRead _ _ _ _ | .rcRead _ _ _ _ | .smbReadRegister | .registerWrite _ _ _ _ _ | .bar0BadRequest _ =>
      allParts
  | .vinRising | .vauxRestored | .idleEntry => [.PWR]
  | .colophonCommitDone => [.RAS, .cap, .ras, .sup]
  | .gpfDone _ => [.RAS, .colo, .ras, .sup]
  | .powerLossSequenceEnd => [.PWR, .pwr, .sup]
  | .tempSample _ => [.GIO, .PWR, .RAS, .free, .ras]
  | .sensorElementFailure _ _ | .contentionDetect _ | .loadTestDone _ _ | .adcConversion _ => [.GIO, .gio]
  | .qualGateEnd _ _ _ | .candidateEdgeTimeout _ | .memsFailed | .memsRecovered | .activeSourceLost | .autoRevert =>
      [.CLK, .clk]
  | .fallbackChosen => [.CLK, .RAS, .clk, .ras]
  | .refSwitch _ _ | .freqAdjWrite _ _ =>
      [.BOOT, .CAP, .CLK, .FAB, .FRM, .GIO, .GLB, .LANE, .OBS, .PRS, .SECT, .SGC, .SWF, .clk]
  | .rootLockReached | .bryNoPartnerRetry _ => [.BRY, .CLK, .bry, .clk]
  | .candWrite _ _ _ | .globalDivWrite _ _ _ | .outCtrlWrite _ _ _ =>
      [.BOOT, .CAP, .CLK, .FAB, .FRM, .GIO, .GLB, .LANE, .OBS, .PRS, .SECT, .SGC, .SWF]
  | .timeSet _ _ | .timeStep _ _ | .timeCancel _ =>
      [.BOOT, .CAP, .CLK, .FAB, .FRM, .GIO, .GLB, .LANE, .OBS, .PRS, .SECT, .SGC, .SWF, .bry, .clk, .out]
  | .timeCmdApply => [.CAP, .CLK, .HIF, .RAS, .SEC, .SWF, .cap, .clk, .coll, .free, .out, .ras, .swf, .tenants]
  | .ppsEdge _ => [.CLK]
  | .perstNRelease => [.HIF, .boot]
  | .linkTimeout => [.BOOT, .boot, .colo]
  | .linkTrainRetry _ _ _ _ | .hostLinkLoss | .hostLinkUp _ _ _ => [.HIF]
  | .imageSelWrite _ _ => [.BOOT, .CAP, .FAB, .FRM, .GIO, .GLB, .LANE, .OBS, .PRS, .SECT, .SGC, .SWF, .boot, .colo]
  | .fabricMemRead _ _ _ _ _ | .memScrubVisit _ _ _ => [.FAB, .RAS, .fab, .free, .ras]
  | .memInject _ _ _ _ | .rclkCtrlWrite _ _ _ _ =>
      [.BOOT, .CAP, .FAB, .FRM, .GIO, .GLB, .LANE, .OBS, .PRS, .SECT, .SGC, .SWF, .fab]
  | .fabricLoad _ _ _ _ _ _ | .fabricLoadDone _ _ | .fabricStop _ _ | .fabricStopDone _ | .fabricClear _ _ =>
      [.FAB, .HIF, .fab, .out, .swf, .tenants]
  | .sectionClearDone _ => [.FAB, .HIF, .PWR, .fab, .out, .pwr, .swf, .tenants]
  | .fabricLoadEngineStart | .fabricClockEdge _ _ _ _ _ => [.fab]
  | .fabricRelease _ _ | .fabricReleaseDone _ => [.FAB, .HIF, .fab, .out, .tenants]
  | .rclkSelChange _ _ _ | .rclkChangeDone _ _ => [.FAB, .fab]
  | .laneEnable _ _ _ | .laneDisable _ _ _ | .probe _ _ _ | .probeAbort _ _ _ =>
      [.BOOT, .CAP, .CLK, .FAB, .FRM, .GIO, .GLB, .HIF, .LANE, .OBS, .PRS, .RAS, .SEC, .SECT, .SGC, .SWF, .cap,
       .coll, .free, .lanes, .out, .press, .ras, .swf, .tenants, .trig]
  | .octetRetuneDone _ | .signalDetected _ | .cdrLockAcquired _ | .codingLockGained _ _ | .codingLockLost _
  | .cdrLockLost _ | .signalLoss _ | .probeEnd _ _ _ _ _ _ =>
      [.CAP, .CLK, .HIF, .LANE, .PRS, .RAS, .SEC, .SECT, .SWF, .cap, .coll, .free, .lanes, .out, .press, .ras, .swf,
       .tenants, .trig]
  | .octetPllFailure _ | .laneAnalogueFault _ _ =>
      [.CAP, .CLK, .HIF, .LANE, .PRS, .RAS, .SEC, .SECT, .SWF, .cap, .clk, .coll, .free, .lanes, .out, .press, .ras,
       .swf, .tenants, .trig]
  | .octetSwitchComplete _ =>
      [.CAP, .HIF, .LANE, .RAS, .SEC, .SECT, .SWF, .cap, .coll, .free, .out, .ras, .swf, .tenants, .trig]
  | .sparePllFailure _ => [.LANE, .RAS, .ras]
  | .txFirWrite _ _ _ | .rxCoefWrite _ _ _ =>
      [.BOOT, .CAP, .FAB, .FRM, .GIO, .GLB, .LANE, .OBS, .PRS, .SECT, .SGC, .SWF, .lanes]
  | .txFirApply _ => [.lanes]
  | .rxEqModeWrite _ _ _ => [.BOOT, .CAP, .FAB, .FRM, .GIO, .GLB, .LANE, .OBS, .PRS, .SECT, .SGC, .SWF, .free, .lanes]
  | .digAcquire _ _ _ _ _ _ | .digAbort _ _ _ _ =>
      [.BOOT, .CAP, .FAB, .FRM, .GIO, .GLB, .HIF, .LANE, .OBS, .PRS, .RAS, .SEC, .SECT, .SGC, .SWF, .cap, .coll,
       .free, .lanes, .out, .ras, .swf, .tenants]
  | .digTrigger _ _ _ _ _ | .digAcquisitionEnd _ _ =>
      [.CAP, .HIF, .LANE, .RAS, .SEC, .SWF, .cap, .coll, .free, .lanes, .out, .ras, .swf, .tenants]
  | .intakeUnit _ _ _ _ _ _ _ =>
      [.CAP, .HIF, .RAS, .SEC, .SECT, .SWF, .cap, .coll, .free, .lanes, .out, .ras, .swf, .tenants, .trig]
  | .runPieceTimeout _ _ | .gapPieceTimeout _ _ _ | .ribbon _ _ _ _ _ | .quireAllocated | .patternWrite _ _ _ _ _
  | .dqConfig _ _ _ _ | .dqRelease _ _ | .opDefine _ _ _ | .opEnable _ _ | .opStop _ _ | .opFree _ _
  | .opMigrateLive _ _ _ _ _ | .opMigrateDrain _ _ _ _ _ | .tokenPut _ _ _ | .tokenGet _ _ _ _ | .tokenArrival _ _ _
  | .queueFetchDone _ | .decision _ _ | .taskCommit _ | .taskFetch _ _ _ _ _ | .taskDone _ _ _ _ _
  | .hostTaskTimeout _ | .taskHandback _ | .dispatchOutput _ _ _ _ | .dispatchDone _ _ _ =>
      [.CAP, .HIF, .RAS, .SEC, .SWF, .cap, .coll, .free, .out, .ras, .swf, .tenants]
  | .fecCodewordDone _ _ _ _ _ _ _ _ | .streamClosed _ =>
      [.CAP, .HIF, .RAS, .SEC, .SECT, .SWF, .cap, .coll, .free, .out, .ras, .swf, .tenants, .trig]
  | .deskewRound _ _ _ _ =>
      [.CAP, .HIF, .RAS, .SEC, .SECT, .SWF, .cap, .coll, .free, .out, .ras, .sectors, .swf, .tenants]
  | .sliceCheckpoint _ => [.sectors]
  | .sliceFailure _ _ | .sliceFailoverDone _ | .streamStart _ _ =>
      [.CAP, .HIF, .RAS, .SEC, .SECT, .SWF, .cap, .coll, .free, .out, .ras, .sectors, .swf, .tenants, .trig]
  | .laneCfgWrite _ _ _ _ _ =>
      [.BOOT, .CAP, .FAB, .FRM, .GIO, .GLB, .LANE, .OBS, .PRS, .SECT, .SGC, .SWF, .lanes, .trig]
  | .slotEvaluation _ _ =>
      [.CAP, .GIO, .HIF, .RAS, .SEC, .SECT, .SWF, .bry, .cap, .clk, .coll, .free, .out, .press, .ras, .swf, .tenants,
       .trig]
  | .triggerTokenPost => [.CAP, .SWF, .cap, .swf]
  | .lineEvent _ => [.CAP, .GIO, .PRS, .RAS, .SEC, .cap, .clk, .dbg, .free, .out, .press, .ras, .trig]
  | .seqArm _ _ _ _ | .seqDisarm _ _ _ _ | .swCond _ _ _ _ =>
      [.BOOT, .CAP, .FAB, .FRM, .GIO, .GLB, .LANE, .OBS, .PRS, .SECT, .SGC, .SWF, .trig]
  | .tlinePulse _ _ => [.BOOT, .CAP, .FAB, .FRM, .GIO, .GLB, .LANE, .OBS, .PRS, .SECT, .SGC, .SWF, .bry, .out, .trig]
  | .trigPinEdge _ _ _ => [.GIO, .bry, .out, .trig]
  | .tapBeat _ _ _ _ _ _ => [.SECT, .out]
  | .injEvent _ _ _ => [.SECT, .trig]
  | .ribbonAtTime => [.CAP, .HIF, .RAS, .SEC, .SWF, .cap, .clk, .coll, .free, .out, .ras, .swf, .tenants]
  | .graphRibbonToken _ => [.CAP, .HIF, .RAS, .SEC, .SECT, .SWF, .cap, .coll, .free, .out, .ras, .swf, .tenants]
  | .streamStop _ _ => [.CAP, .HIF, .cap, .out, .tenants]
  | .captureRelease _ _ => [.CAP, .HIF, .cap, .coll, .out, .tenants]
  | .quireFreed _ => [.CAP, .SEC, .cap]
  | .leafFlushTimeout _ => [.CAP, .RAS, .SEC, .SWF, .cap, .coll, .free, .ras, .swf]
  | .rowWaitTimeout _ | .sealSlotWrite _ => [.cap]
  | .drainTake _ | .drainWriteFailure _ => [.CAP, .cap, .free]
  | .drainCopyDone _ => [.CAP, .cap]
  | .drainCfgWrite _ _ | .quotaWrite _ _ _ _ | .cacheLinesWrite _ _ _ =>
      [.BOOT, .CAP, .FAB, .FRM, .GIO, .GLB, .LANE, .OBS, .PRS, .SECT, .SGC, .SWF]
  | .quireVerify _ _ _ _ | .leafRead _ _ _ _ _ _ | .seekTime _ _ _ | .keyExport _ _ | .setupRing0 _ _
  | .descriptorAccept _ _ _ _ | .nopDescriptor _ | .ringCreate _ _ _ _ _ _ _ _ | .ringDelete _ _ _ | .query _ _ _ _ =>
      [.HIF, .out, .tenants]
  | .leafReadRaw _ _ _ _ _ => [.HIF, .SEC, .out, .tenants]
  | .collateOpen _ _ _ _ _ _ _ _ _ _ | .collateClose _ _ | .hostTailPoll _ _ _ | .hostReadFailure _ =>
      [.CAP, .HIF, .coll, .out, .tenants]
  | .collateRecord _ _ _ => [.CAP, .HIF, .SGC, .coll, .cores, .out, .tenants]
  | .ribbonFind _ _ _ _ _ _ _ _ _ _ => [.CAP, .HIF, .out, .tenants]
  | .pressLoad _ _ _ _ _ _ _ => [.HIF, .PRS, .out, .press, .swf, .tenants]
  | .pressStart _ _ _ | .pressStop _ _ | .pressFreeze _ _ | .pressUnfreeze _ _ | .pressEvent _ _ _ =>
      [.HIF, .PRS, .out, .press, .tenants]
  | .pressStartTime _ => [.PRS, .clk, .press]
  | .pressEvqArrival _ _ => [.PRS, .press, .swf]
  | .pressUnitSend _ _ _ =>
      [.CAP, .HIF, .PRS, .RAS, .SEC, .SECT, .SWF, .cap, .coll, .frameLanes, .free, .lanes, .out, .press, .ras, .swf,
       .tenants, .trig]
  | .prefetchReadDone _ _ _ _ => [.FRM, .PRS, .press]
  | .halt _ | .send _ | .sendk _ | .idle _ | .setp _ | .addp _ | .setk _ | .loop _ | .jump _ | .markt _ | .addt _
  | .waitTime _ | .waitTimeRelease _ | .waitEvent _ | .waitEventTaken _ | .waitEventTimeout _ | .branchEv _
  | .sendEv _ | .prime _ | .inject _ | .pass _ | .drop _ | .passUntil _ | .relayUnitIn _ _ => [.PRS, .press]
  | .signal _ => [.CAP, .HIF, .PRS, .RAS, .SEC, .SWF, .cap, .coll, .free, .out, .press, .ras, .swf, .tenants]
  | .frameConfig _ _ _ _ _ _ _ _ _ | .shaperSet _ _ _ _ _ _ _ => [.FRM, .HIF, .frames, .out, .tenants]
  | .frameStart _ _ _ => [.FRM, .HIF, .frameLanes, .frames, .out, .tenants]
  | .frameStartTime _ => [.FRM, .clk, .frames]
  | .frameStop _ _ => [.FRM, .HIF, .PRS, .frames, .out, .tenants]
  | .clearDebt _ _ => [.BOOT, .CAP, .FAB, .FRM, .GIO, .GLB, .LANE, .OBS, .PRS, .SECT, .SGC, .SWF, .frames]
  | .shaperSlot _ | .frameBoundary _ _ =>
      [.CAP, .FRM, .HIF, .PRS, .RAS, .SEC, .SWF, .cap, .coll, .frameLanes, .frames, .free, .out, .ras, .swf, .tenants]
  | .multicastTimeout _ =>
      [.CAP, .FRM, .HIF, .PRS, .RAS, .SEC, .SWF, .cap, .coll, .frames, .free, .out, .ras, .swf, .tenants]
  | .frameDqToken _ => [.FRM, .frames, .swf]
  | .hbmReadError _ _ _ _ _ | .ddrUeBurst _ _ _ _ | .ddrRankRetire _ _ _ _ =>
      [.CAP, .MEM, .PWR, .RAS, .cap, .mem, .ras]
  | .hbmStackFailure _ _ => [.CAP, .MEM, .PWR, .RAS, .cap, .ras]
  | .hbmRefresh _ _ | .ddrRefresh _ _ | .ddrRefreshRatePoll _ _ _ => [.mem]
  | .parityScrubRow _ _ _ _ _ _ => [.MEM, .RAS, .ras]
  | .ddrMigrateDone _ => [.MEM, .PWR, .RAS, .mem, .ras]
  | .ddrRehomeDone _ | .cxlExpanderFailure _ _ => [.CAP, .MEM, .PWR, .RAS, .cap, .free, .ras]
  | .cxlReadFailover _ _ _ => [.CAP, .MEM, .PWR, .RAS, .cap, .free, .mem, .ras]
  | .cxlResilverDone _ => [.MEM, .PWR, .RAS, .ras]
  | .keyGenerate _ | .keyRekey _ _ => [.HIF, .SEC, .free, .out, .sec, .tenants]
  | .keyImport _ _ _ | .keyImportStaged _ _ _ => [.HIF, .SEC, .out, .sec, .tenants]
  | .keyZeroise _ => [.CAP, .HIF, .PWR, .SEC, .cap, .coll, .colo, .out, .sec, .tenants]
  | .drbgHealthFailure => [.RAS, .SEC, .ras]
  | .rekeyEngineTake => [.PWR, .SEC, .sec]
  | .rekeyAdvance => [.PWR, .RAS, .SEC, .cap, .colo, .ras, .sec]
  | .secLock _ _ => [.BOOT, .CAP, .FAB, .FRM, .GIO, .GLB, .LANE, .OBS, .PRS, .SEC, .SECT, .SGC, .SWF]
  | .linkSessionRollover _ | .bryPortTrained _ _ _ _ _ _ _ _ => [.BRY, .CLK, .SEC, .bry, .clk]
  | .poolCfgWrite _ _ => [.BOOT, .CAP, .FAB, .FRM, .GIO, .GLB, .LANE, .OBS, .PRS, .SECT, .SGC, .SWF, .cap, .free]
  | .taskGrant _ | .dmaTokenWrite _ _ _ =>
      [.CAP, .HIF, .RAS, .SEC, .SGC, .SWF, .cap, .coll, .cores, .free, .out, .ras, .swf, .tenants]
  | .taskFetchTimeout _ _ _ => [.HIF, .out, .swf, .tenants]
  | .dispatchRequest _ _ _ => [.swf]
  | .coreLoad _ _ _ _ _ | .coreStart _ _ _ | .coreSignal _ _ => [.HIF, .SGC, .cores, .out, .tenants]
  | .coreStop _ _ => [.HIF, .SGC, .cores, .out, .swf, .tenants]
  | .nop _ _ | .trap _ _ | .rete _ _ | .br _ _ | .jmp _ _ | .jmpr _ _ | .call _ _ | .ret _ _ | .loopi _ _
  | .loopr _ _ | .repi _ _ | .repr _ _ | .twait _ _ | .dmas _ _ | .movs _ _ | .movts _ _ | .rdtime _ _ | .add _ _
  | .adds _ _ | .sub _ _ | .subs _ _ | .and _ _ | .or _ _ | .xor _ _ | .min _ _ | .max _ _ | .abs _ _ | .neg _ _
  | .cmp _ _ | .shl _ _ | .shr _ _ | .sar _ _ | .shli _ _ | .shri _ _ | .sari _ _ | .btst _ _ | .clz _ _ | .movi _ _
  | .addi _ _ | .andi _ _ | .cmpi _ _ | .mov _ _ | .movda _ _ | .movad _ _ | .movmd _ _ | .adda _ _ | .sel _ _
  | .ld _ _ _ | .st _ _ | .ldo _ _ _ | .sto _ _ | .ldxy _ _ _ | .ldst _ _ _ | .mac _ _ | .macsu _ _ | .macuu _ _
  | .msu _ _ | .mul _ _ | .macl _ _ _ | .msul _ _ _ | .macs _ _ | .accr _ _ | .accx _ _ | .accld _ _ | .accclr _ _
  | .accadd _ _ | .acs _ _ | .decbit _ _ => [.DBG, .SGC, .SWF, .cores, .dbg, .free, .swf]
  | .tput _ _ | .tdone _ _ =>
      [.CAP, .DBG, .HIF, .RAS, .SEC, .SGC, .SWF, .cap, .coll, .cores, .dbg, .free, .out, .ras, .swf, .tenants]
  | .interruptEntry _ => [.SGC, .cores, .swf]
  | .timerMatch _ => [.clk]
  | .dmaLeaf _ _ _ | .dmaCoreCopy _ _ _ | .dmaComplete _ => [.SGC, .cores]
  | .dmaRawLeaf _ _ => [.SEC, .SGC, .cores]
  | .dmaSectionRead _ _ _ _ | .dmaSectionWrite _ _ _ _ => [.SGC, .cores, .out]
  | .coreFailure _ _ | .coreNoProgressTimeout _ => [.RAS, .SGC, .cores, .ras, .swf]
  | .nocRead _ | .nocWrite _ | .nocToken _ _ | .nocReadRsp _ | .nocWriteAck _ | .nocMgtRead _ | .nocMgtWrite _
  | .flitNoc _ _ _ _ _ _ =>
      [.BRY, .CAP, .FAB, .HIF, .NOC, .RAS, .SEC, .SWF, .bry, .cap, .coll, .free, .out, .ras, .swf, .tenants]
  | .nocFlitReplay => [.NOC]
  | .nocRingFailure _ _ _ => [.NOC, .RAS, .noc, .ras]
  | .nocRerouteDone _ => [.noc]
  | .probeCfgWrite _ _ _ _ => [.BOOT, .CAP, .FAB, .FRM, .GIO, .GLB, .LANE, .NOC, .OBS, .PRS, .SECT, .SGC, .SWF]
  | .sqTailDoorbell _ _ _ | .cqHeadDoorbell _ _ _ => [.tenants]
  | .msixCoalesceTimeout _ _ | .busMasterEnableChange _ _ => [.out, .tenants]
  | .tenantSet _ _ _ _ _ _ _ _ =>
      [.BOOT, .CAP, .FAB, .FRM, .GIO, .GLB, .HIF, .LANE, .OBS, .PRS, .SECT, .SGC, .SWF, .out, .tenants]
  | .vfEnable _ => [.HIF, .tenants]
  | .bryPortDown _ _ _ _ | .flitNak _ _ | .flitTrain _ | .bryRetrainDone _ => [.BRY, .CLK, .SEC, .bry, .clk, .out]
  | .flitIdle _ => [.BRY, .SEC, .bry, .out]
  | .flitTime _ _ _ _ _ _ =>
      [.BRY, .CAP, .HIF, .RAS, .SEC, .SWF, .bry, .cap, .clk, .coll, .free, .out, .ras, .swf, .tenants]
  | .flitLine _ _ _ _ _ => [.BRY, .GIO, .RAS, .SEC, .bry, .out, .ras, .trig]
  | .flitBcast _ _ _ _ _ _ =>
      [.BRY, .CAP, .HIF, .OBS, .RAS, .SEC, .SWF, .bry, .cap, .clk, .coll, .free, .obs, .out, .ras, .swf, .tenants]
  | .flitTunnel _ _ _ _ _ _ _ => [.BRY, .SEC, .bry, .out, .tenants]
  | .bryTimeExchange => [.bry, .out]
  | .rmtAccess _ _ => [.BOOT, .BRY, .CAP, .FAB, .FRM, .GIO, .GLB, .LANE, .OBS, .PRS, .SECT, .SGC, .SWF, .bry]
  | .rmtAccessEnd _ _ => [.BRY, .bry]
  | .mgmtMismatch => [.RAS]
  | .mgmtSelftestDone _ _ | .mgmtSingleFailure | .logWindowClose _ _ => [.RAS, .ras]
  | .logWrite => [.CAP, .HIF, .OBS, .RAS, .SEC, .SWF, .cap, .coll, .free, .out, .ras, .swf, .tenants]
  | .powerVote _ _ _ _ _ | .sleepRequest _ | .deepSleepRequest _ | .offRequest _ | .powerHoldWrite _ _ =>
      [.BOOT, .CAP, .DBG, .FAB, .FRM, .GIO, .GLB, .HIF, .LANE, .OBS, .PRS, .PWR, .SECT, .SGC, .SWF, .out, .pwr, .swf,
       .tenants]
  | .voteWithdrawal _ _ | .deferredLowering _ => [.FAB, .HIF, .PWR, .out, .pwr, .swf, .tenants]
  | .domainFenceEnd _ =>
      [.BRY, .CAP, .CLK, .FAB, .HIF, .LANE, .NOC, .PRS, .PWR, .RAS, .SEC, .SECT, .SWF, .bry, .cap, .clk, .coll, .fab,
       .free, .lanes, .noc, .out, .press, .ras, .swf, .tenants, .trig]
  | .clockGate _ => [.pwr]
  | .idleExit => [.PWR, .pwr]
  | .entryCommitPoint _ =>
      [.BRY, .CAP, .CLK, .FAB, .HIF, .LANE, .NOC, .PRS, .PWR, .RAS, .SEC, .SECT, .SWF, .bry, .cap, .clk, .coll,
       .colo, .fab, .free, .lanes, .noc, .out, .press, .pwr, .ras, .sec, .swf, .tenants, .trig]
  | .dbgResync => []
  | .authOpen _ _ | .authRespond _ _ | .authClose _ _ =>
      [.BOOT, .CAP, .DBG, .FAB, .FRM, .GIO, .GLB, .HIF, .LANE, .OBS, .PRS, .PWR, .SECT, .SGC, .SWF, .dbg, .free,
       .out, .press, .pwr, .swf, .tenants]
  | .sessionTimeout => [.DBG, .FAB, .HIF, .PRS, .PWR, .SGC, .clk, .dbg, .out, .press, .pwr, .swf, .tenants]
  | .authLockoutEnd _ => [.clk, .dbg]
  | .haltStop _ | .haltResume _ | .haltJoin _ | .haltLeave _ =>
      [.BOOT, .CAP, .DBG, .FAB, .FRM, .GIO, .GLB, .LANE, .OBS, .PRS, .SECT, .SGC, .SWF, .cores, .dbg, .press]
  | .haltEvent _ => [.DBG, .GIO, .SGC, .bry, .clk, .cores, .dbg, .out, .trig]
  | .dbgBrk _ => [.dbg]
  | .haltTakesEffect _ _ => [.PRS, .SGC, .cores, .dbg, .press]
  | .foliationSchedule _ _ | .foliationCancel _ =>
      [.BOOT, .CAP, .FAB, .FRM, .GIO, .GLB, .LANE, .OBS, .PRS, .SECT, .SGC, .SWF, .bry, .obs, .out]
  | .foliationCopy => [.CAP, .HIF, .OBS, .RAS, .SEC, .SWF, .cap, .clk, .coll, .free, .obs, .out, .ras, .swf, .tenants]
  | .foliationWritten => [.CAP, .HIF, .OBS, .RAS, .SEC, .SWF, .cap, .coll, .free, .obs, .out, .ras, .swf, .tenants]
  | .shadowRead _ => [.latch, .out]
  | .bankCfgWrite _ _ _ => [.BOOT, .CAP, .FAB, .FRM, .GIO, .GLB, .LANE, .OBS, .PRS, .SECT, .SGC, .SWF, .colo, .gio]
  | .bankChangeDone _ => [.gio]
  | .pinCfgWrite _ _ _ => [.BOOT, .CAP, .FAB, .FRM, .GIO, .GLB, .LANE, .OBS, .PRS, .SECT, .SGC, .SWF, .gio, .out]
  | .loadTestStart _ _ => [.BOOT, .CAP, .FAB, .FRM, .GIO, .GLB, .LANE, .OBS, .PRS, .SECT, .SGC, .SWF, .gio]
  | .smbReadIdentity | .smbReadState | .smbReadTempMax | .smbReadSensor => [.out]
  | .smbSelectSensor _ _ | .smbSetOffset _ _ => [.gio, .out]
  | .smbUnlistedCommand _ => [.GIO, .out]
  | .smbBusTimeout => [.out, .pwr]
  | .smbClkStretchTimeout => [.gio, .out, .pwr]
  | .blockMemoryWrite _ => [.FAB, .fab, .free]

/-- The descriptor that carries a command, where one does (R569). -/
def Instr.desc? : Instr → Option Desc
  | .fabricLoad d _ _ _ _ _ => some d
  | .fabricRelease d _ => some d
  | .fabricStop d _ => some d
  | .fabricClear d _ => some d
  | .digAcquire (.inl d) _ _ _ _ _ => some d
  | .probe (.inl d) _ _ => some d
  | .ribbon d _ _ _ _ => some d
  | .streamStart d _ => some d
  | .streamStop d _ => some d
  | .captureRelease d _ => some d
  | .quireVerify d _ _ _ => some d
  | .leafRead d _ _ _ _ _ => some d
  | .leafReadRaw d _ _ _ _ => some d
  | .collateOpen d _ _ _ _ _ _ _ _ _ => some d
  | .collateClose d _ => some d
  | .seekTime d _ _ => some d
  | .ribbonFind d _ _ _ _ _ _ _ _ _ => some d
  | .pressLoad d _ _ _ _ _ _ => some d
  | .pressStart d _ _ => some d
  | .pressStop d _ => some d
  | .pressFreeze d _ => some d
  | .pressUnfreeze d _ => some d
  | .pressEvent d _ _ => some d
  | .frameConfig d _ _ _ _ _ _ _ _ => some d
  | .frameStart d _ _ => some d
  | .frameStop d _ => some d
  | .shaperSet d _ _ _ _ _ _ => some d
  | .keyGenerate d => some d
  | .keyImport d _ _ => some d
  | .keyImportStaged d _ _ => some d
  | .keyExport d _ => some d
  | .keyRekey d _ => some d
  | .keyZeroise d => some d
  | .patternWrite d _ _ _ _ => some d
  | .dqConfig d _ _ _ => some d
  | .dqRelease d _ => some d
  | .opDefine d _ _ => some d
  | .opEnable d _ => some d
  | .opStop d _ => some d
  | .opFree d _ => some d
  | .opMigrateLive d _ _ _ _ => some d
  | .opMigrateDrain d _ _ _ _ => some d
  | .tokenPut d _ _ => some d
  | .tokenGet d _ _ _ => some d
  | .taskFetch d _ _ _ _ => some d
  | .taskDone d _ _ _ _ => some d
  | .coreLoad d _ _ _ _ => some d
  | .coreStart d _ _ => some d
  | .coreStop d _ => some d
  | .coreSignal d _ => some d
  | .nopDescriptor d => some d
  | .ringCreate d _ _ _ _ _ _ _ => some d
  | .ringDelete d _ _ => some d
  | .grant d _ _ _ _ => some d
  | .revoke d _ _ _ _ => some d
  | .tenantSet d _ _ _ _ _ _ _ => some d
  | .query d _ _ _ => some d
  | .imageWrite d _ _ _ _ _ _ _ _ => some d
  | .regWrite d _ => some d
  | .regRead d _ _ => some d
  | .powerVote (.inl d) _ _ _ _ => some d
  | .sleepRequest (.inl d) => some d
  | .deepSleepRequest (.inl d) => some d
  | .offRequest (.inl d) => some d
  | _ => none

end Sys2Proof
end

