-- ==== Sys2Proof/Certificates/Slice0/Obligations.lean ====
section
/-! DEFINITION. Certificates/Slice0/Obligations.lean: the statements. Most are about one family of commands: each clause
names a command, gives the conditions on the state and the operands under which it has its own effect, and says that it
answers a next state and what that state is. -/
open Sys2Proof Sys2Proof.Machine
set_option maxRecDepth 4000

/-- The command at the front of the queue is the one a step runs, with the rest of the queue behind it. -/
def Obligations.StepRunsTheFrontCommand : Prop :=
  ∀ (c : Instr) (rest : List Instr) (s : State),
    s.pending = c :: rest → step s = exec c { s with pending := rest }

/-- On an empty queue a root cycle passes: the timebase adds 8 (R69), unless the root has not yet locked. What an
  empty queue stands for is the model's choice (log entry 7). -/
def Obligations.IdleStepIsARootCycle : Prop :=
  ∀ (s : State), s.pending = [] →
    (s.get F.CLK_STATUS_root_state = Root.START → step s = .next s) ∧
    (s.get F.CLK_STATUS_root_state ≠ Root.START →
      step s = .next { s with clk := { s.clk with timebase := s.clk.timebase + 8 } })

/-- Reset leaves every register at the reset value of its field table, among them those of R714, R194, R165 and R87,
  the timebase at zero (R69), and the state well kept. -/
def Obligations.ResetLeavesTheSpecifiedValues : Prop :=
  (∀ (r : RegDef) (i j k : Nat), State.reset.word r i j k = r.reset i j k) ∧
  State.reset.word Reg.GLB_ID = 0x15140E0B#32 ∧
  (∀ l, l < 512 → State.reset.word Reg.LANE_MULT l = 0x70800000#32) ∧
  (∀ n, n < 256 → State.reset.get F.FAB_SECT_CTRL_require_signed n = 1) ∧
  (∀ n, State.reset.get F.CLK_GLOBAL_DIV_divisor n = 8) ∧
  State.reset.clk.timebase = 0 ∧ State.reset.pending = [] ∧ State.reset.kept = true

/-- Whatever command waits, a step keeps the register store in its canonical form and bits 2 to 0 of the timebase zero
  (R69). -/
def Obligations.EveryStepKeepsTheState : Prop :=
  ∀ (s t : State), s.kept = true → step s = .next t → t.kept = true

/-- What a command does, it does to the device: the commands waiting behind it stay as they are. -/
def Obligations.NoCommandTouchesTheQueue : Prop :=
  ∀ (c : Instr) (s t : State), exec c s = .next t → t.pending = s.pending

/-- The frame of every command: the registers of every block, and every component of the state, outside those that
  Instr.parts gives the command are unchanged. -/
def Obligations.CommandsChangeOnlyTheirParts : Prop :=
  ∀ (c : Instr) (s t : State), exec c s = .next t → State.SameBut c.parts s t

/-- No command that names units the device has ever stops the machine: a refused one answers a next state too (R29,
  R706). -/
def Obligations.EveryWellFormedCommandCompletes : Prop :=
  ∀ (c : Instr) (s : State), c.wf = true → Completes (exec c s)

/-- The supply losses, the thermal trip and the power-loss sequence take effect. The rules are among R31 to R52
  (spec/02) and R599 to R617 (spec/23). What the world around the device does stands in the operands (log entry 2). -/
def Obligations.SupplyLossCommandsComplete : Prop :=
  -- VIN_UNDERVOLTAGE
  (∀ (s : State),
    s.dead = false →
    Gives (.vinUndervoltage) s (fun t =>
      t = ((((s.put F.PWR_SUPPLY_STATUS_vin_ok 0).ev F.PWR_SUPPLY_STATUS_vin_uv_seen)).powerFail .vinUv).supplyOut)) ∧
  -- VIN_OVERVOLTAGE
  (∀ (s : State),
    s.dead = false →
    Gives (.vinOvervoltage) s (fun t =>
      t = (s.ev F.PWR_SUPPLY_STATUS_vin_ov_seen).powerFail .vinOv)) ∧
  -- PWRFAIL_N_LOW
  (∀ (s : State),
    s.dead = false →
    Gives (.pwrfailNLow) s (fun t =>
      t = ((s.put F.PWR_SUPPLY_STATUS_pwrfail_n_level 0).powerFail .pwrfailN).supplyOut)) ∧
  -- THERMAL_TRIP
  (∀ (s : State),
    s.dead = false →
    Gives (.thermalTrip) s (fun t =>
      t = s.powerFail .thermal ∧
      t.sup.loss = some .thermal)) ∧
  -- COLOPHON_COMMIT_DONE
  (∀ (s : State) (x : LossCause),
    s.sup.loss = some x ∧ s.sup.committed = false →
    Gives (.colophonCommitDone) s (fun t =>
      ∃ u : State, u = s.commitSeals.commitLog.commitEntry 0xC1 4 0 [x.code, s.cap.sealPending.length,
        s.ras.buffer.length] ∧ t =
          { u with sup := { u.sup with committed := true, sealsWritten := s.cap.sealPending.length, logsWritten := s.ras.buffer.length } }))
          ∧
  -- GPF_DONE
  (∀ (s : State) (phases : BitVec 6),
    s.sup.loss.isSome = true ∧ s.sup.committed = true ∧ s.sup.gpfDone = false →
    Gives (.gpfDone phases) s (fun t =>
      ∃ u : State, u = s.flush phases.toNat s.sup.sealsWritten s.sup.logsWritten ∧ t =
        { u with sup := { u.sup with gpfDone := true } })) ∧
  -- POWER_LOSS_SEQUENCE_END
  (∀ (s : State),
    s.sup.loss.isSome = true →
    Gives (.powerLossSequenceEnd) s (fun t =>
      t.sup.loss = none ∧
      t.pwr.off = true ∧
      t.get F.PWR_DEV_STATUS_last_wake = V.PWR_DEV_STATUS_last_wake_NONE))

/-- Rail events, the supplies returning and the wake sources take effect. The rules are among R31 to R52 (spec/02) and
  R618 to R642 (spec/24). What the world around the device does stands in the operands (log entry 2). -/
def Obligations.SupplyAndWakeCommandsComplete : Prop :=
  -- VIN_RISING
  (∀ (s : State),
    Gives (.vinRising) s (fun t =>
      t = s.put F.PWR_SUPPLY_STATUS_vin_ok 1)) ∧
  -- START_CONDITION_MET
  (∀ (s : State),
    s.sup.loss = none ∧ s.sup.suppliesLost = true ∧ s.asleepNow = true →
    Gives (.startConditionMet) s (fun t =>
      t = (((s.start 1 Start.POWER_ON).put F.PWR_SUPPLY_STATUS_vin_ok 1).put F.PWR_SUPPLY_STATUS_vaux_ok 1).put
        F.PWR_SUPPLY_STATUS_pwrfail_n_level 1)) ∧
  -- VAUX_LOSS
  (∀ (s : State) (u : State),
    u = s.put F.PWR_SUPPLY_STATUS_vaux_ok 0 →
    u.asleepNow = false →
    Gives (.vauxLoss) s (fun t =>
      t = u)) ∧
  -- VAUX_RESTORED
  (∀ (s : State),
    Gives (.vauxRestored) s (fun t =>
      t = s.put F.PWR_SUPPLY_STATUS_vaux_ok 1)) ∧
  -- RAIL_PHASE_FAILURE
  (∀ (s : State) (rail : BitVec 5) (load : BitVec 7),
    rail.toNat ≤ 16 ∧ s.dead = false →
    s.get F.PWR_RAIL_STATUS_phases_failed rail.toNat = 0 ∧ 1 ≤ s.get F.PWR_RAIL_STATUS_phases_total rail.toNat →
    Gives (.railPhaseFailure rail load) s (fun t =>
      t = (((((s.put F.PWR_RAIL_STATUS_load_pct load.toNat rail.toNat).put F.PWR_RAIL_STATUS_phases_failed 1
        rail.toNat).ev F.PWR_RAIL_STATUS_fault_seen rail.toNat).fault 6 false).log 0x50 2 rail.toNat [1]).ev
          F.PWR_RAIL_STATUS_spare_in_use rail.toNat)) ∧
  -- WAKE_N_LOW
  (∀ (s : State),
    s.on F.PWR_WAKE_CFG_wake_n_en = true →
    s.canWake = true ∧ s.pwr.off = false →
    Gives (.wakeNLow) s (fun t =>
      t = s.wakeUp 1 0)) ∧
  -- GIO_WAKE_EDGE
  (∀ (s : State) (pin : BitVec 3) (rising : Bool),
    bit (s.get F.PWR_WAKE_CFG_gio_en) pin.toNat = true ∧ bit (s.get F.PWR_WAKE_CFG_gio_edge) pin.toNat = rising →
    s.get F.GIO_PIN_CFG_function pin.toNat = 6 →
    s.canWake = true ∧ s.pwr.off = false →
    Gives (.gioWakeEdge pin rising) s (fun t =>
      t = s.wakeUp 2 pin.toNat)) ∧
  -- SMBUS_ADDRESS_MATCH
  (∀ (s : State) (addr : BitVec 7),
    s.get F.GIO_SMB_CFG_address = addr.toNat ∧ s.on F.PWR_WAKE_CFG_smbus_en = true →
    s.canWake = true ∧ s.pwr.off = false ∧ s.pwr.deep = false →
    s.devState = V.PWR_DEV_STATUS_state_SLEEP ∧ s.pwr.request = none →
    Gives (.smbusAddressMatch addr) s (fun t =>
      t = s.wakeUp 3 0)) ∧
  -- HOST_WAKE
  (∀ (s : State),
    s.on F.PWR_WAKE_CFG_host_en = true →
    s.canWake = true ∧ s.pwr.off = false ∧ s.pwr.request = none →
    Gives (.hostWake) s (fun t =>
      t = s.wakeUp 4 0)) ∧
  -- TIMER_WAKE
  (∀ (s : State) (u : State),
    s.on F.PWR_WAKE_CFG_timer_en = true ∧ s.dead = false →
    u = s.advanceTo (s.pair Reg.PWR_WAKE_AT_LO Reg.PWR_WAKE_AT_HI / 8 * 8) →
    u.canWake = true ∧ u.pwr.off = false ∧ u.pwr.request = none →
    Gives (.timerWake) s (fun t =>
      t = u.wakeUp 5 0)) ∧
  -- DEVICE_STATE_REACHED
  (∀ (s : State) (r : DevRequest),
    s.pwr.request = some r ∧ r.committed = true ∧ r.target = 2 →
    s.pwr.wake = none →
    Gives (.deviceStateReached) s (fun t =>
      t = ({ s with pwr := { s.pwr with request := none } }).goOff)) ∧
  (∀ (s : State) (r : DevRequest),
    s.pwr.request = some r ∧ r.committed = true ∧ r.target = 0 →
    s.pwr.wake = none →
    s.domOn (domPair 0) = true →
    ((upTo 471).all (fun n => s.dom n != V.PWR_DOMAIN_STATUS_state_ENTERING) = true) →
    Gives (.deviceStateReached) s (fun t =>
      t = ({ s with pwr := { s.pwr with request := none, deep := false } }).setDev V.PWR_DEV_STATUS_state_SLEEP))

/-- The start sequence, its timeouts and the image selection take effect. The rules are among R88 to R119 (spec/04).
  What the world around the device does stands in the operands (log entry 2). -/
def Obligations.StartCommandsComplete : Prop :=
  -- START_STEP_DONE
  (∀ (s : State) (r : StepResult),
    s.dead = false ∧ 4 ∈ s.boot.active →
    r.cause ≠ 6 →
    Gives (.startStepDone 4 r) s (fun t =>
      t = ((((s.put F.BOOT_ROLLBACK_MIN_value s.colo.fuseRollback).put F.SEC_STATUS_drbg_ok 1).setStep 4 0 Done.DONE 0
        r.micros.toNat).stepOut 4).beginStep 5)) ∧
  (∀ (s : State) (r : StepResult),
    s.dead = false ∧ 15 ∈ s.boot.active →
    Gives (.startStepDone 15 r) s (fun t =>
      ∃ u v : State, u = ((s.each ((upTo 16).map domCluster ++ (upTo 4).map domPair ++ (upTo 4).map domBry) (fun s n
        => s.startVote n)).each (upTo 16) (fun s i => s.clusterUp i true)).each (upTo 4) (fun s i => s.domEffect
          (domPair i) 2 0) ∧ v = u.each (upTo 4) (fun s p => s.when (s.portUsed p) (fun s => s.setPort p Bry.TRAINING
          V.BRY_PORT_STATUS_cause_NONE)) ∧ t = (((v.each v.bootSections (fun s n => (s.sectInit n).setSect n
          Sec.RUNNING)).setStep 15 0 Done.DONE 0 r.micros.toNat).stepOut 15).beginStep 16)) ∧
  (∀ (s : State) (r : StepResult),
    s.dead = false ∧ 16 ∈ s.boot.active →
    Gives (.startStepDone 16 r) s (fun t =>
      t = s.step16 r)) ∧
  -- STEP_TIMEOUT
  (∀ (s : State) (step : BitVec 5),
    s.dead = false ∧ step.toNat ≠ 3 ∧ step.toNat ∈ s.boot.active →
    Gives (.stepTimeout step) s (fun t =>
      t = (s.setStep step.toNat (Tbl.get 0 s.boot.plan step.toNat) Done.FAILED 0x16 0).autoRestart step.toNat)) ∧
  -- MGMT_WATCHDOG_EXPIRY
  (∀ (s : State),
    s.dead = false ∧ s.boot.ready = false ∧ s.boot.halted = false →
    Gives (.mgmtWatchdogExpiry) s (fun t =>
      t = s.autoRestart (s.get F.BOOT_START_STATUS_step))) ∧
  -- RESET_PIN
  (∀ (s : State),
    s.dead = false →
    Gives (.resetPin) s (fun t =>
      t = s.start 2 Start.RESET_PIN ∧
      t.boot.active = [2] ∧
      t.boot.cause = Start.RESET_PIN)) ∧
  -- LINK_TIMEOUT
  (∀ (s : State),
    s.dead = false ∧ 3 ∈ s.boot.active ∧ s.on F.HIF_LINK_STATUS_perst_n = true →
    Gives (.linkTimeout) s (fun t =>
      ∃ u : State, u = (s.setStep 3 0 Done.FAILED 5 0).stepOut 3 ∧ t =
        { u with boot := { u.boot with endedS03 := true } })) ∧
  -- LINK_TRAIN_RETRY
  (∀ (s : State) (rate : BitVec 4) (width : BitVec 7) (flit : Bool),
    s.dead = false ∧ s.hostless = false ∧ s.boot.endedS03 = true →
    s.on F.HIF_LINK_STATUS_perst_n = true →
    s.get F.HIF_LINK_STATUS_state ≠ V.HIF_LINK_STATUS_state_UP →
    Gives (.linkTrainRetry true rate width flit) s (fun t =>
      t = s.linkUp rate.toNat width.toNat flit)) ∧
  -- OWNER_RESTART
  (∀ (s : State) (p : Path),
    s.writable p Reg.BOOT_CTRL 0 0 0 0x51400008#32 = true →
    (s.someLane (fun _ => true) = false) →
    Gives (.ownerRestart p 0x5140) s (fun t =>
      t = s.start 2 Start.OWNER_RESTART)) ∧
  -- COMMIT_ROLLBACK
  (∀ (s : State) (p : Path),
    s.writable p Reg.BOOT_CTRL 0 0 0 0x80#32 = true →
    s.boot.ready = true ∧ 1 < s.boot.fwRunning →
    s.colo.fuseRollback < (Tbl.get {} s.colo.slots (s.boot.fwRunning - 1)).rollback →
    Gives (.commitRollback p) s (fun t =>
      t.colo = { s.colo with fuseRollback := (Tbl.get {} s.colo.slots (s.boot.fwRunning - 1)).rollback } ∧
      t.get F.BOOT_EVENTS_rollback_committed = 1)) ∧
  -- CLEAR_LEARNED
  (∀ (s : State) (p : Path),
    s.writable p Reg.BOOT_CTRL 0 0 0 0x40#32 = true →
    Gives (.clearLearned p) s (fun t =>
      t = s.ev F.BOOT_CTRL_clear_learned)) ∧
  -- IMAGE_SEL_WRITE
  (∀ (s : State) (p : Path) (v : Word),
    s.writable p Reg.BOOT_IMAGE_SEL 0 0 0 v = true →
    Gives (.imageSelWrite p v) s (fun t =>
      ∃ u : State, u = s.applyWrite p Reg.BOOT_IMAGE_SEL 0 0 0 v ∧ t = u.record (fun r =>
        { r with imageSel := bits (u.word Reg.BOOT_IMAGE_SEL).toNat 5 0 })))

/-- The reference candidates, the root and the clock outputs take effect. The rules are among R53 to R87 (spec/03).
  What the world around the device does stands in the operands (log entry 2). -/
def Obligations.ClockCommandsComplete : Prop :=
  -- QUAL_GATE_END
  (∀ (s : State) (n : BitVec 2) (offset : BitVec 16),
    s.on F.CLK_CAND_enable n.toNat = true →
    s.on F.CLK_STATUS_mems_ok = true →
    10 * s.get F.CLK_QUAL_CFG_window_ppm < offset.toInt.natAbs →
    Gives (.qualGateEnd n true offset) s (fun t =>
      t.get F.CLK_CAND_STATUS_present n.toNat = 1 ∧
      t.get F.CLK_CAND_STATUS_offset n.toNat = offset.toNat ∧
      t.get F.CLK_CAND_STATUS_ready n.toNat = 0 ∧
      t.get F.CLK_CAND_STATUS_pass_count n.toNat = 0)) ∧
  -- CANDIDATE_EDGE_TIMEOUT
  (∀ (s : State) (n : BitVec 2),
    s.on F.CLK_CAND_enable n.toNat = true →
    s.on F.CLK_STATUS_mems_ok = true →
    Gives (.candidateEdgeTimeout n) s (fun t =>
      t.get F.CLK_CAND_STATUS_present n.toNat = 0 ∧
      t.get F.CLK_CAND_STATUS_ready n.toNat = 0 ∧
      t.get F.CLK_CAND_STATUS_pass_count n.toNat = 0)) ∧
  -- MEMS_FAILED
  (∀ (s : State),
    s.get F.CLK_STATUS_active_source = srcMems →
    s.get F.CLK_STATUS_root_state ≠ Root.START →
    Gives (.memsFailed) s (fun t =>
      t.get F.CLK_STATUS_mems_ok = 0 ∧
      t.get F.CLK_STATUS_root_state = Root.NO_REFERENCE ∧
      t.get F.CLK_REF_EVENTS_no_reference = 1)) ∧
  -- MEMS_RECOVERED
  (∀ (s : State),
    s.get F.CLK_STATUS_root_state ≠ Root.NO_REFERENCE →
    Gives (.memsRecovered) s (fun t =>
      t = { s.put F.CLK_STATUS_mems_ok 1 with clk := { s.clk with memsGood := 10 } })) ∧
  -- ACTIVE_SOURCE_LOST
  (∀ (s : State),
    s.get F.CLK_STATUS_root_state = Root.LOCKED →
    s.get F.CLK_STATUS_active_source ≠ srcMems →
    Gives (.activeSourceLost) s (fun t =>
      t.get F.CLK_STATUS_root_state = Root.HOLDOVER ∧
      t.get F.CLK_REF_EVENTS_active_lost = 1 ∧
      t.clk = { s.clk with lost := some (s.get F.CLK_STATUS_active_source) })) ∧
  -- FALLBACK_CHOSEN
  (∀ (s : State) (src : Nat),
    s.get F.CLK_STATUS_root_state = Root.HOLDOVER →
    s.fallback = some src →
    Gives (.fallbackChosen) s (fun t =>
      t.get F.CLK_STATUS_root_state = Root.SWITCHING ∧
      t.get F.CLK_REF_EVENTS_fallback_done = 1 ∧
      t.clk = { s.clk with target := src, userSwitch := false, reverting := true, revertGates := 0 })) ∧
  -- REF_SWITCH
  (∀ (s : State) (p : Path) (v : Word),
    s.writable p Reg.CLK_REF_CTRL 0 0 0 (v ||| 0x1000#32) = true →
    bits v.toNat 10 0 = srcMems →
    s.on F.CLK_STATUS_mems_ok = true →
    s.on F.CLK_STATUS_ring_member = false →
    s.get F.CLK_STATUS_root_state = Root.LOCKED →
    s.get F.CLK_STATUS_active_source ≠ srcMems →
    Gives (.refSwitch p v) s (fun t =>
      t.get F.CLK_STATUS_root_state = Root.SWITCHING ∧
      t.clk = { s.clk with target := srcMems, userSwitch := true, reverting := false })) ∧
  -- ROOT_LOCK_REACHED
  (∀ (s : State),
    s.get F.CLK_STATUS_root_state = Root.SWITCHING →
    s.get F.BRY_RING_STATUS_role ≠ V.BRY_RING_CFG_role_MEMBER →
    s.clk.target < 2048 →
    Gives (.rootLockReached) s (fun t =>
      t.get F.CLK_STATUS_root_state = Root.LOCKED ∧
      t.get F.CLK_STATUS_active_source = s.clk.target ∧
      t.clk = { s.clk with userSwitch := false })) ∧
  -- AUTO_REVERT
  (∀ (s : State),
    s.get F.CLK_REF_CTRL_revert = V.CLK_REF_CTRL_revert_AUTO →
    s.clk.reverting = true →
    1000 ≤ s.clk.revertGates →
    s.srcReady (s.get F.CLK_REF_CTRL_req_source) = true →
    s.get F.CLK_STATUS_root_state = Root.LOCKED →
    Gives (.autoRevert) s (fun t =>
      t.get F.CLK_STATUS_root_state = Root.SWITCHING ∧
      t.get F.CLK_REF_EVENTS_reverted = 1 ∧
      t.clk = { s.clk with target := s.get F.CLK_REF_CTRL_req_source, userSwitch := false, reverting := false })) ∧
  -- CAND_WRITE
  (∀ (s : State) (p : Path) (n : BitVec 2) (v : Word),
    s.writable p Reg.CLK_CAND n.toNat 0 0 v = true →
    srcLegal (bits v.toNat 10 0) = true →
    srcKind (bits v.toNat 10 0) ≠ 0 →
    bit v.toNat 31 = false →
    s.on F.CLK_CAND_enable n.toNat = false →
    s.get F.CLK_CAND_source n.toNat = bits v.toNat 10 0 →
    Gives (.candWrite p n v) s (fun t =>
      t = s.applyWrite p Reg.CLK_CAND n.toNat 0 0 v)) ∧
  -- GLOBAL_DIV_WRITE
  (∀ (s : State) (p : Path) (n : BitVec 5) (v : Word),
    s.writable p Reg.CLK_GLOBAL_DIV n.toNat 0 0 v = true →
    Gives (.globalDivWrite p n v) s (fun t =>
      t = s.applyWrite p Reg.CLK_GLOBAL_DIV n.toNat 0 0 v)) ∧
  -- OUT_CTRL_WRITE
  (∀ (s : State) (p : Path) (n : Nat) (v : Word),
    3 ≤ n ∧ n < 7 →
    s.writable p Reg.CLK_OUT_CTRL n 0 0 v = true →
    1000 ≤ bits v.toNat 17 0 ∧ bits v.toNat 17 0 ≤ 250000 →
    bits v.toNat 30 29 = 0 →
    Gives (.outCtrlWrite p n v) s (fun t =>
      t = s.applyWrite p Reg.CLK_OUT_CTRL n 0 0 v)) ∧
  -- FREQ_ADJ_WRITE
  (∀ (s : State) (p : Path) (v : Word),
    s.writable p Reg.CLK_FREQ_ADJ 0 0 0 v = true →
    s.on F.CLK_STATUS_ring_member = false →
    Gives (.freqAdjWrite p v) s (fun t =>
      t =
        { s.applyWrite p Reg.CLK_FREQ_ADJ 0 0 0 v with clk := { (s.applyWrite p Reg.CLK_FREQ_ADJ 0 0 0 v).clk with adj := sext 24 v.toNat } }))
          ∧
  -- PPS_EDGE
  (∀ (s : State) (pin : Nat),
    pin < 192 →
    s.get F.GIO_PIN_CFG_function pin = 4 →
    Gives (.ppsEdge pin) s (fun t =>
      t.pair Reg.CLK_PPS_CAP_LO Reg.CLK_PPS_CAP_HI = s.now ∧
      t.get F.CLK_PPS_COUNT_value = (s.get F.CLK_PPS_COUNT_value + 1) % 2 ^ 32))

/-- The time commands set, step, cancel and apply the timebase. The rules are among R53 to R87 (spec/03). What the
  world around the device does stands in the operands (log entry 2). -/
def Obligations.TimebaseCommandsComplete : Prop :=
  -- TIME_SET
  (∀ (s : State) (p : Path),
    s.writable p Reg.CLK_TIME_CMD 0 0 0 1#32 = true →
    s.on F.CLK_STATUS_ring_member = false ∧ s.ringMaster = false →
    Gives (.timeSet p false) s (fun t =>
      t.clk =
        { s.clk with pending := some { step := false, value := BitVec.ofNat 64 (s.pair Reg.CLK_TIME_SET_LO Reg.CLK_TIME_SET_HI / 8 * 8), at? := none } }
          ∧
      t.get F.CLK_TIME_CMD_pending = 1 ∧
      t.get F.CLK_TIME_CMD_go = 0)) ∧
  -- TIME_STEP
  (∀ (s : State) (p : Path),
    s.writable p Reg.CLK_TIME_CMD 0 0 0 17#32 = true →
    s.on F.CLK_STATUS_ring_member = false ∧ s.ringMaster = false →
    Gives (.timeStep p false) s (fun t =>
      t.clk =
        { s.clk with pending := some { step := true, value := BitVec.ofNat 64 (s.pair Reg.CLK_TIME_SET_LO Reg.CLK_TIME_SET_HI / 8 * 8), at? := none } }
          ∧
      t.get F.CLK_TIME_CMD_pending = 1 ∧
      t.get F.CLK_TIME_CMD_go = 0)) ∧
  -- TIME_CANCEL
  (∀ (s : State) (p : Path),
    s.writable p Reg.CLK_TIME_CMD 0 0 0 33#32 = true →
    s.clk.pending.isSome = true →
    Gives (.timeCancel p) s (fun t =>
      t.clk = { s.clk with pending := none } ∧
      t.get F.CLK_TIME_CMD_pending = 0 ∧
      t.get F.CLK_TIME_CMD_result = V.CLK_TIME_CMD_result_CANCELLED)) ∧
  -- TIME_CMD_APPLY
  (∀ (s : State) (r : TimeReq) (x : Nat),
    s.clk.pending = some r →
    r.at? = none →
    r.target s.now = some x →
    s.now ≤ x →
    Gives (.timeCmdApply) s (fun t =>
      t = (s.timeIdle.setTime x (if r.step then 2 else 1)).timeResult V.CLK_TIME_CMD_result_DONE))

/-- Loading, releasing, stopping and clearing sections, and their clock edge, take effect. The rules are among R120 to
  R149 (spec/05) and R150 to R168 (spec/06). What the world around the device does stands in the operands (log entry
    2). -/
def Obligations.FabricCommandsComplete : Prop :=
  -- FABRIC_LOAD
  (∀ (s : State) (d : Desc) (length : Word) (row col : BitVec 8) (auto : Bool) (map : BitVec 256) (ns : List Nat),
    s.admits d = true ∧ d.readFail = false →
    (bitsOf 256 map.toNat).map (relocate (sext 8 row.toNat) (sext 8 col.toNat)) = ns.map some →
    -15 ≤ sext 8 row.toNat ∧ sext 8 row.toNat ≤ 15 ∧ -15 ≤ sext 8 col.toNat ∧ sext 8 col.toNat ≤ 15 ∧ length ≠ 0 →
    (∀ n ∈ ns, s.sectHolder n = d.tenant.toNat ∧ s.domOn (domSection n) = true ∧ (s.sect n = Sec.EMPTY ∨ s.sect n =
      Sec.LOADED)) →
    Gives (.fabricLoad d length row col auto map) s (fun t =>
      ∃ u : State, u = s.each ns (fun s n => s.sectClear n) ∧ t =
        { u with fab := { u.fab with loads := u.fab.loads ++ [{ desc := d, sections := ns, auto := auto }] } })) ∧
  -- FABRIC_LOAD_ENGINE_START
  (∀ (s : State) (l : FabLoad) (r : List FabLoad),
    s.fab.loads = l :: r →
    Gives (.fabricLoadEngineStart) s (fun t =>
      t = { s with fab := { s.fab with loads := { l with engine := true } :: r } })) ∧
  -- FABRIC_LOAD_DONE
  (∀ (s : State) (image : List SectImage) (l : FabLoad) (r : List FabLoad),
    s.fab.loads = l :: r ∧ l.engine = true →
    (∀ n ∈ l.sections, s.sect n = Sec.LOADING) →
    l.auto = false →
    Gives (.fabricLoadDone 0 image) s (fun t =>
      ∃ u : State, u = ({ s with fab := { s.fab with loads := r } }).each (image.filter (fun (g : SectImage) =>
        l.sections.contains g.sect.toNat)) (fun s g => s.sectWrite g) ∧ t = (u.each l.sections (fun s n => (s.setSect
          n Sec.LOADED).ev F.FAB_SECT_EVENTS_loaded n)).ok l.desc)) ∧
  -- FABRIC_RELEASE
  (∀ (s : State) (d : Desc) (sec : BitVec 8),
    s.admits d = true →
    s.sectHolder sec.toNat = d.tenant.toNat ∧ s.domOn (domSection sec.toNat) = true →
    s.sect sec.toNat = Sec.LOADED →
    Gives (.fabricRelease d sec) s (fun t =>
      t = (s.sectRelease sec.toNat).sectWait sec.toNat (some d))) ∧
  -- FABRIC_RELEASE_DONE
  (∀ (s : State) (sec : BitVec 8),
    s.sect sec.toNat = Sec.RELEASING →
    Gives (.fabricReleaseDone sec) s (fun t =>
      t = ((s.setSect sec.toNat Sec.RUNNING).ev F.FAB_SECT_EVENTS_released sec.toNat).sectWake sec.toNat St.OK)) ∧
  -- FABRIC_STOP
  (∀ (s : State) (d : Desc) (sec : BitVec 8),
    s.admits d = true →
    s.sectHolder sec.toNat = d.tenant.toNat ∧ s.domOn (domSection sec.toNat) = true →
    s.sect sec.toNat = Sec.RUNNING →
    Gives (.fabricStop d sec) s (fun t =>
      t = (s.sectStop sec.toNat).sectWait sec.toNat (some d))) ∧
  -- FABRIC_STOP_DONE
  (∀ (s : State) (sec : BitVec 8),
    s.sect sec.toNat = Sec.STOPPING →
    Gives (.fabricStopDone sec) s (fun t =>
      t = s.sectStopped sec.toNat)) ∧
  -- FABRIC_CLEAR
  (∀ (s : State) (d : Desc) (sec : BitVec 8),
    s.admits d = true →
    s.sectHolder sec.toNat = d.tenant.toNat ∧ s.domOn (domSection sec.toNat) = true →
    s.sect sec.toNat = Sec.LOADED →
    Gives (.fabricClear d sec) s (fun t =>
      t = (s.sectClear sec.toNat).sectWait sec.toNat (some d))) ∧
  -- FABRIC_CLOCK_EDGE
  (∀ (s : State) (sec : BitVec 8) (clock : BitVec 4) (cell : BitVec 16) (x : CellIn) (g : CellCfg),
    s.sectRuns sec.toNat = true ∧ s.on F.FAB_RCLK_CTRL_enable sec.toNat clock.toNat = true →
    g = Tbl.get {} s.fab.cells (65536 * sec.toNat + cell.toNat) →
    g.clock = clock ∧ g.falling = false ∧ g.link = false ∧ g.mode ≠ 2 →
    Gives (.fabricClockEdge sec clock false [(cell, x)] []) s (fun t =>
      t.fab.ff = Tbl.set false (65536 * sec.toNat + cell.toNat) (cellNext g (Tbl.get false s.fab.ff (65536 * sec.toNat
        + cell.toNat)) (Tbl.get 0 s.fab.shift (65536 * sec.toNat + cell.toNat)) x.dx x) s.fab.ff ∧
      t.fab.slice = s.fab.slice ∧
      t.fab.mem = s.fab.mem ∧
      t.regs = s.regs)) ∧
  (∀ (s : State) (sec : BitVec 8) (clock : BitVec 4) (falling : Bool) (sl : BitVec 5) (x : SliceIn) (g : SliceCfg),
    s.sectRuns sec.toNat = true ∧ s.on F.FAB_RCLK_CTRL_enable sec.toNat clock.toNat = true →
    g = Tbl.get {} s.fab.slices (32 * sec.toNat + sl.toNat) →
    g.clock = clock ∧ sl ≠ 0 →
    Gives (.fabricClockEdge sec clock falling [] [(sl, x)]) s (fun t =>
      t.fab.slice = Tbl.set {} (32 * sec.toNat + sl.toNat) (sliceNext g (Tbl.get {} s.fab.slice (32 * sec.toNat +
        sl.toNat)) (Tbl.get {} s.fab.slice (32 * sec.toNat + sl.toNat - 1)).acc x) s.fab.slice ∧
      t.fab.ff = s.fab.ff ∧
      t.regs = s.regs)) ∧
  -- FABRIC_MEM_READ
  (∀ (s : State) (sec : BitVec 8) (mem : BitVec 7) (portB : Bool) (addr : BitVec 15) (strike : BitVec 47),
    s.sectRuns sec.toNat = true ∧ memWord mem.toNat addr.toNat = true →
    popCount 47 ((s.memAt (memKey sec.toNat mem.toNat addr.toNat)).2 ^^^ strike.toNat) = 0 →
    Gives (.fabricMemRead sec mem portB addr strike) s (fun t =>
      ∃ x, x = s.memAt (memKey sec.toNat mem.toNat addr.toNat) ∧ t = (s.setMem (memKey sec.toNat mem.toNat addr.toNat)
        x.1 (x.2 ^^^ strike.toNat)).setRead sec.toNat mem.toNat (if portB then 1 else 0) (x.1 ^^^ (x.2 ^^^
          strike.toNat) % 2 ^ 40) 0)) ∧
  -- BLOCK_MEMORY_WRITE
  (∀ (s : State) (w : MemWrite),
    s.sectRuns w.sect.toNat = true ∧ w.mem.toNat < 64 ∧ w.addr.toNat < 1024 →
    w.meet = 0 ∧ w.inject = false →
    w.portB = false ∧ (Tbl.get (0, 0) s.fab.ports (66 * w.sect.toNat + w.mem.toNat)).1 = 0 →
    Gives (.blockMemoryWrite w) s (fun t =>
      t = (s.setMem (memKey w.sect.toNat w.mem.toNat w.addr.toNat) w.data.toNat 0).setRead w.sect.toNat w.mem.toNat 0
        w.data.toNat 0)) ∧
  (∀ (s : State) (w : MemWrite),
    s.sectRuns w.sect.toNat = true ∧ 64 ≤ w.mem.toNat ∧ w.mem.toNat < 66 →
    w.meet = 0 ∧ w.inject = false →
    Gives (.blockMemoryWrite w) s (fun t =>
      t = s.setMem (memKey w.sect.toNat w.mem.toNat w.addr.toNat) w.data.toNat 0)) ∧
  -- MEM_SCRUB_VISIT
  (∀ (s : State) (sec : BitVec 8),
    s.on F.FAB_MEM_CTRL_scrub_enable sec.toNat = true ∧ s.domOn (domSection sec.toNat) = true →
    Sec.LOADED ≤ s.sect sec.toNat ∧ s.sect sec.toNat ≤ Sec.STOPPING →
    (∀ p ∈ s.fab.mem, p.2 < 2 ^ 40) →
    Gives (.memScrubVisit sec [] []) s (fun t =>
      t.fab.scrub = Tbl.set 0 sec.toNat ((Tbl.get 0 s.fab.scrub sec.toNat + 1) % 32768) s.fab.scrub ∧
      t.regs = s.regs)) ∧
  -- MEM_INJECT
  (∀ (s : State) (p : Path) (sec : BitVec 8) (v : Word),
    s.writable p Reg.FAB_MEM_INJECT sec.toNat 0 0 v = true →
    memWord (bits v.toNat 29 23) (bits v.toNat 14 0) = true ∧ bits v.toNat 22 17 ≤ 46 →
    bit v.toNat 31 = true ∧ bit v.toNat 16 = false ∧ s.sectHolder sec.toNat = 0 →
    Gives (.memInject p sec v false) s (fun t =>
      ∃ k, k = memKey sec.toNat (bits v.toNat 29 23) (bits v.toNat 14 0) ∧ t.fab = (s.setMem k (s.memAt k).1 ((s.memAt
        k).2 ^^^ 2 ^ bits v.toNat 22 17)).fab)) ∧
  -- RCLK_CTRL_WRITE
  (∀ (s : State) (p : Path) (sec : BitVec 8) (k : BitVec 4) (v : Word),
    s.writable p Reg.FAB_RCLK_CTRL sec.toNat k.toNat 0 v = true →
    Gives (.rclkCtrlWrite p sec k v) s (fun t =>
      t = (s.applyWrite p Reg.FAB_RCLK_CTRL sec.toNat k.toNat 0 v).rclkChange sec.toNat k.toNat (s.rclkInput sec.toNat
        k.toNat) (s.get F.FAB_RCLK_CTRL_div sec.toNat k.toNat))) ∧
  -- RCLK_SEL_CHANGE
  (∀ (s : State) (sec : BitVec 8) (k : BitVec 4) (level : Bool),
    s.sectRuns sec.toNat = true →
    Gives (.rclkSelChange sec k level) s (fun t =>
      t =
        ({ s with fab := { s.fab with sel := Tbl.set false (16 * sec.toNat + k.toNat) level s.fab.sel } }).rclkChange
          sec.toNat k.toNat (s.rclkInput sec.toNat k.toNat) (s.get F.FAB_RCLK_CTRL_div sec.toNat k.toNat))) ∧
  -- RCLK_CHANGE_DONE
  (∀ (s : State) (sec : BitVec 8) (k : BitVec 4) (p : Nat),
    p = s.get F.FAB_RCLK_STATUS_pending sec.toNat →
    bit p k.toNat = true ∧ s.on F.CLK_GLOBAL_DIV_enable (s.rclkInput sec.toNat k.toNat) = true →
    Gives (.rclkChangeDone sec k) s (fun t =>
      t.get F.FAB_RCLK_STATUS_pending sec.toNat = p - 2 ^ k.toNat ∧
      t.fab = { s.fab with low := s.fab.low.filter (fun x => x != 16 * sec.toNat + k.toNat) }))

/-- Lane states, the analogue settings and the octet PLLs take effect. The rules are among R169 to R739 (spec/07).
  What the world around the device does stands in the operands (log entry 2). -/
def Obligations.LaneCommandsComplete : Prop :=
  -- LANE_ENABLE
  (∀ (s : State) (p : Path) (lane : BitVec 9) (v : Word) (l : Nat),
    l = lane.toNat →
    s.writable p Reg.LANE_CTRL l 0 0 (v ||| 0x80000000#32) = true →
    s.on F.LANE_CTRL_enable l = false →
    s.rateOk l = true →
    s.octetConflict l = false →
    s.laneState l = Ln.DISABLED →
    (s.lane l).probe = none →
    Gives (.laneEnable p lane v) s (fun t =>
      t = ((((s.loadOctet l).applyWrite p Reg.LANE_CTRL l 0 0 (v ||| 0x80000000#32)).octetInUse (l / 8)).enterLane
        l))) ∧
  -- LANE_DISABLE
  (∀ (s : State) (p : Path) (lane : BitVec 9) (v : Word) (l : Nat),
    l = lane.toNat →
    s.writable p Reg.LANE_CTRL l 0 0 (v &&& 0x7FFFFFFF#32) = true →
    s.on F.LANE_CTRL_enable l = true →
    s.get F.CLK_STATUS_active_source ≠ 512 + l →
    Gives (.laneDisable p lane v) s (fun t =>
      t = (s.disableLane l).applyWrite p Reg.LANE_CTRL l 0 0 (v &&& 0x7FFFFFFF#32))) ∧
  -- OCTET_RETUNE_DONE
  (∀ (s : State) (o : BitVec 6),
    s.on F.LANE_OCT_STATUS_retuning o.toNat = true →
    ((upTo 8).all (fun j => s.laneState (8 * o.toNat + j) != Ln.SIGNAL_WAIT) = true) →
    Gives (.octetRetuneDone o) s (fun t =>
      t = s.clr F.LANE_OCT_STATUS_retuning o.toNat)) ∧
  -- OCTET_PLL_FAILURE
  (∀ (s : State) (o : BitVec 6) (run : Nat),
    run = s.get F.LANE_OCT_STATUS_running o.toNat →
    s.on F.LANE_OCT_STATUS_spare_ok o.toNat = true →
    s.on F.LANE_OCT_STATUS_a_failed o.toNat = false ∧ s.on F.LANE_OCT_STATUS_b_failed o.toNat = false →
    ((upTo 8).any (fun j => s.on F.LANE_CTRL_enable (8 * o.toNat + j)) = false) →
    Gives (.octetPllFailure o) s (fun t =>
      t.get F.LANE_OCT_STATUS_running o.toNat = 1 - run ∧
      t.get F.LANE_OCT_SWITCH_COUNT_value o.toNat = satNat 32 (s.get F.LANE_OCT_SWITCH_COUNT_value o.toNat + 1) ∧
      t.get F.RAS_STATUS_class_seen = s.get F.RAS_STATUS_class_seen ||| 8)) ∧
  -- OCTET_SWITCH_COMPLETE
  (∀ (s : State) (o : BitVec 6),
    s.octetSwitching (8 * o.toNat) = true →
    ((upTo 8).all (fun j => (s.laneMembers (8 * o.toNat + j) false).isEmpty) = true) →
    Gives (.octetSwitchComplete o) s (fun t =>
      t = s.clr F.LANE_OCT_STATUS_spare_ok o.toNat)) ∧
  -- SPARE_PLL_FAILURE
  (∀ (s : State) (o : BitVec 6) (spare : Nat),
    spare = 1 - s.get F.LANE_OCT_STATUS_running o.toNat →
    s.on F.LANE_OCT_STATUS_spare_ok o.toNat = true →
    s.octetSwitching (8 * o.toNat) = false →
    Gives (.sparePllFailure o) s (fun t =>
      t = ((s.ev (if spare = 0 then F.LANE_OCT_STATUS_a_failed else F.LANE_OCT_STATUS_b_failed) o.toNat).clr
        F.LANE_OCT_STATUS_spare_ok o.toNat).log 0x31 2 o.toNat [spare])) ∧
  -- LANE_ANALOGUE_FAULT
  (∀ (s : State) (lane : BitVec 9) (cause : Nat),
    2 ≤ cause ∧ cause ≤ 5 →
    s.laneState lane.toNat ≠ Ln.UNAVAILABLE →
    Gives (.laneAnalogueFault lane cause) s (fun t =>
      t = s.laneUnavailable lane.toNat cause)) ∧
  -- TX_FIR_WRITE
  (∀ (s : State) (p : Path) (lane : BitVec 9) (v : Word),
    s.writable p Reg.LANE_TX_FIR lane.toNat 0 0 v = true →
    bits v.toNat 3 0 + bits v.toNat 13 8 + bits v.toNat 20 16 ≤ 63 →
    s.on F.LANE_CTRL_enable lane.toNat = true →
    Gives (.txFirWrite p lane v) s (fun t =>
      t = s.applyWrite p Reg.LANE_TX_FIR lane.toNat 0 0 v)) ∧
  -- TX_FIR_APPLY
  (∀ (s : State) (lane : BitVec 9),
    Gives (.txFirApply lane) s (fun t =>
      t = s.setLane lane.toNat { s.lane lane.toNat with fir := s.word Reg.LANE_TX_FIR lane.toNat })) ∧
  -- RX_COEF_WRITE
  (∀ (s : State) (p : Path) (lane : BitVec 9) (v : Word) (l sel : Nat) (lo hi : Int),
    l = lane.toNat →
    s.writable p Reg.LANE_RX_COEF l 0 0 v = true →
    sel = bits v.toNat 31 27 →
    coefRange sel = some (lo, hi) →
    lo ≤ sext 16 v.toNat ∧ sext 16 v.toNat ≤ hi →
    s.get F.LANE_RX_EQ_mode l = V.LANE_RX_EQ_mode_FIXED →
    Gives (.rxCoefWrite p lane v) s (fun t =>
      t.get F.LANE_RX_COEF_sel l = sel ∧
      t.get F.LANE_RX_COEF_value l = v.toNat % 2 ^ 16 ∧
      t.lanes = Tbl.set {} l { s.lane l with coef := Tbl.set 0 sel (sext 16 v.toNat) (s.lane l).coef } s.lanes)) ∧
  -- RX_EQ_MODE_WRITE
  (∀ (s : State) (p : Path) (lane : BitVec 9) (v : Word),
    s.writable p Reg.LANE_RX_EQ lane.toNat 0 0 v = true →
    s.get F.LANE_RX_EQ_mode lane.toNat ≠ V.LANE_RX_EQ_mode_ADAPT →
    Gives (.rxEqModeWrite p lane v) s (fun t =>
      t = s.applyWrite p Reg.LANE_RX_EQ lane.toNat 0 0 v)) ∧
  -- SIGNAL_DETECTED
  (∀ (s : State) (lane : BitVec 9),
    s.laneState lane.toNat = Ln.SIGNAL_WAIT →
    s.on F.LANE_OCT_STATUS_retuning (lane.toNat / 8) = false →
    Gives (.signalDetected lane) s (fun t =>
      t = (s.ev F.LANE_STATUS_signal_detect lane.toNat).laneTo lane.toNat Ln.ACQUIRING)) ∧
  -- CDR_LOCK_ACQUIRED
  (∀ (s : State) (lane : BitVec 9),
    s.laneState lane.toNat = Ln.ACQUIRING →
    Gives (.cdrLockAcquired lane) s (fun t =>
      t = (s.ev F.LANE_STATUS_adapt_done lane.toNat).laneTo lane.toNat Ln.CDR_LOCKED)) ∧
  -- CODING_LOCK_GAINED
  (∀ (s : State) (lane : BitVec 9) (history : BitVec 58),
    s.laneState lane.toNat = Ln.CDR_LOCKED →
    s.coding lane.toNat ≠ 0 →
    Gives (.codingLockGained lane history) s (fun t =>
      ∃ u : State, u = s.laneTo lane.toNat Ln.ALIGNED ∧ t = (u.setLane lane.toNat
        { u.lane lane.toNat with scramble := history }).laneMatch lane.toNat false 5 u.now)) ∧
  -- CODING_LOCK_LOST
  (∀ (s : State) (lane : BitVec 9),
    s.laneState lane.toNat = Ln.ALIGNED →
    Gives (.codingLockLost lane) s (fun t =>
      t = s.laneTo lane.toNat Ln.CDR_LOCKED)) ∧
  -- CDR_LOCK_LOST
  (∀ (s : State) (lane : BitVec 9),
    (s.laneState lane.toNat = Ln.CDR_LOCKED ∨ s.laneState lane.toNat = Ln.ALIGNED) →
    Gives (.cdrLockLost lane) s (fun t =>
      t = s.laneTo lane.toNat Ln.ACQUIRING)) ∧
  -- SIGNAL_LOSS
  (∀ (s : State) (lane : BitVec 9),
    2 ≤ s.laneState lane.toNat ∧ s.laneState lane.toNat ≤ 4 →
    s.get F.LANE_CTRL_loop lane.toNat ≠ 1 ∧ s.get F.LANE_CTRL_loop lane.toNat ≠ 2 →
    Gives (.signalLoss lane) s (fun t =>
      t = ((s.clr F.LANE_STATUS_signal_detect lane.toNat).ev F.LANE_EVENTS_signal_lost lane.toNat).laneTo lane.toNat
        Ln.SIGNAL_WAIT))

/-- The digitiser and the probe of a lane acquire, trigger, abort and end. The rules are among R200 to R218 (spec/08).
  What the world around the device does stands in the operands (log entry 2). -/
def Obligations.MeasurementCommandsComplete : Prop :=
  -- DIG_ACQUIRE
  (∀ (s : State) (d : Desc) (lane : BitVec 16) (tap : BitVec 8) (cfg span count : Word) (u r : State),
    s.admits d = true →
    lane.toNat < 512 ∧ tap.toNat ≤ 1 →
    s.get F.LANE_STATUS_holder lane.toNat = d.tenant.toNat →
    Reg.LANE_DIG_CFG.badValue cfg.toNat = false ∧ Reg.LANE_DIG_SPAN.badValue span.toNat = false ∧
      Reg.LANE_DIG_COUNT.badValue count.toNat = false →
    (¬ (tap.toNat = 0 ∧ bits cfg.toNat 29 28 = V.LANE_DIG_CFG_mode_TDR)) →
    ((s.lane lane.toNat).dig tap.toNat).isSome = false →
    u = ((s.setWord Reg.LANE_DIG_CFG (cfg &&& BitVec.ofNat 32 Reg.LANE_DIG_CFG.rw) lane.toNat tap.toNat).setWord
      Reg.LANE_DIG_SPAN span lane.toNat tap.toNat).setWord Reg.LANE_DIG_COUNT count lane.toNat tap.toNat →
    u.digStart (.descriptor d.tenant) lane.toNat tap.toNat (some d) = (r, St.OK) →
    Gives (.digAcquire (.inl d) lane tap cfg span count) s (fun t =>
      t = r)) ∧
  -- DIG_TRIGGER
  (∀ (s : State) (lane : BitVec 9) (tap : Bool) (tm ref : BitVec 64) (sample : BitVec 14) (l k : Nat) (r : DigRun),
    l = lane.toNat ∧ k = b2n tap →
    (s.lane l).dig k = some r →
    r.begun = true →
    r.stored < s.digWanted l k →
    s.strmState (s.digStream l k) = Strm.ACTIVE →
    (r.count + 1 < 2 ^ (if s.get F.LANE_DIG_CFG_mode l k == V.LANE_DIG_CFG_mode_EYE then 0 else 2 * s.get
      F.LANE_DIG_CFG_avg l k)) →
    Gives (.digTrigger lane tap tm ref sample) s (fun t =>
      t = s.setLane l ((s.lane l).setDig k (some
        { r with sum := r.sum + (if sample.toInt = -8192 then -8191 else sample.toInt), count := r.count + 1 })))) ∧
  -- DIG_ABORT
  (∀ (s : State) (p : Path) (lane : BitVec 9) (tap : Bool) (v : Word) (l k : Nat),
    l = lane.toNat ∧ k = b2n tap →
    s.writable p Reg.LANE_DIG_CFG l k 0 (v ||| 0x40000000#32) = true →
    (¬ (k = 0 ∧ bits (v ||| 0x40000000#32).toNat 29 28 = V.LANE_DIG_CFG_mode_TDR)) →
    ((s.lane l).dig k).isSome = true →
    Gives (.digAbort p lane tap v) s (fun t =>
      t = (s.digEnd l k V.LANE_DIG_STATUS_result_ABORTED St.PARTIAL).clr F.LANE_DIG_CFG_abort l k)) ∧
  -- DIG_ACQUISITION_END
  (∀ (s : State) (lane : BitVec 9) (tap : Bool) (r : DigRun),
    (s.lane lane.toNat).dig (b2n tap) = some r →
    s.digWanted lane.toNat (b2n tap) ≤ r.stored →
    Gives (.digAcquisitionEnd lane tap) s (fun t =>
      t = s.digEnd lane.toNat (b2n tap) V.LANE_DIG_STATUS_result_DONE St.OK)) ∧
  -- PROBE
  (∀ (s : State) (d : Desc) (lane : BitVec 16) (ctrl : Word) (u r : State),
    s.admits d = true →
    lane.toNat < 512 →
    s.get F.LANE_STATUS_holder lane.toNat = d.tenant.toNat →
    Reg.LANE_PROBE_CTRL.badValue ctrl.toNat = false →
    (s.lane lane.toNat).probe = none →
    u = s.setWord Reg.LANE_PROBE_CTRL (ctrl &&& BitVec.ofNat 32 Reg.LANE_PROBE_CTRL.rw) lane.toNat →
    u.probeStart lane.toNat (some d) = (r, St.OK) →
    Gives (.probe (.inl d) lane ctrl) s (fun t =>
      t = r)) ∧
  -- PROBE_ABORT
  (∀ (s : State) (p : Path) (lane : BitVec 9) (v : Word),
    s.writable p Reg.LANE_PROBE_CTRL lane.toNat 0 0 (v ||| 0x40000000#32) = true →
    Gives (.probeAbort p lane v) s (fun t =>
      t = s.probeEnd lane.toNat V.LANE_PROBE_STATUS_result_ABORTED St.PARTIAL)) ∧
  -- PROBE_END
  (∀ (s : State) (lane : BitVec 9) (received : BitVec 8) (data : List Word) (legN legP : Fin 3) (k : Nat) (d : Option
    Desc),
    (s.lane lane.toNat).probe = some (k, d) →
    k ≠ 0 →
    Gives (.probeEnd lane true received data legN legP) s (fun t =>
      t = (s.put F.LANE_PROBE_STATUS_received 0 lane.toNat).probeEnd lane.toNat V.LANE_PROBE_STATUS_result_NO_RESPONSE
        St.TIMEOUT)) ∧
  (∀ (s : State) (lane : BitVec 9) (received : BitVec 8) (data : List Word) (legN legP : Fin 3) (d : Option Desc),
    (s.lane lane.toNat).probe = some (0, d) →
    Gives (.probeEnd lane false received data legN legP) s (fun t =>
      t = ((s.put F.LANE_PROBE_STATUS_detect_n legN.val lane.toNat).put F.LANE_PROBE_STATUS_detect_p legP.val
        lane.toNat).probeEnd lane.toNat V.LANE_PROBE_STATUS_result_RESPONSE St.OK))

/-- The intake units, the FEC, the deskew and the slice checkpoints take effect. The rules are among R219 to R254
  (spec/09). What the world around the device does stands in the operands (log entry 2). -/
def Obligations.IntakeCommandsComplete : Prop :=
  -- INTAKE_UNIT
  (∀ (s : State) (lane : BitVec 9) (u : BitVec 257) (tm : BitVec 64) (staged : BitVec 23) (most : BitVec 10) (w :
    Nat),
    s.get F.LANE_STATUS_state lane.toNat = 4 →
    s.coding lane.toNat = 0 →
    s.get F.LANE_CTRL_loop lane.toNat ≠ 3 →
    w = unitWidth 0 (s.pam4 lane.toNat) →
    Gives (.intakeUnit lane u tm false false staged most) s (fun t =>
      ∃ r, r = s.watchUnit lane.toNat false 0 (u.toNat % 2 ^ w) tm.toNat w ∧ t = (r.each (r.laneMembers lane.toNat
        false) (fun s p => s.streamUnit p.1 p.2 (u.toNat % 2 ^ w) tm.toNat false)).staging (lane.toNat / 32)
          staged.toNat most.toNat)) ∧
  -- RUN_PIECE_TIMEOUT
  (∀ (s : State) (n : BitVec 10) (m : BitVec 4) (r : Run),
    ((s.strm n.toNat).member m.toNat).run = some r →
    0 < r.count →
    s.strmActive n.toNat = true →
    Gives (.runPieceTimeout n m) s (fun t =>
      t = s.emitRun n.toNat m.toNat (unitWidth (s.strm n.toNat).coding (s.pam4 ((s.strm n.toNat).member
        m.toNat).lane)) true)) ∧
  -- GAP_PIECE_TIMEOUT
  (∀ (s : State) (n : BitVec 10) (m : BitVec 4) (tm : BitVec 64) (a : Gap),
    ((s.strm n.toNat).member m.toNat).gap = some a →
    s.strmActive n.toNat = true →
    a.first < tm.toNat →
    m.toNat < (s.strm n.toNat).members.length →
    Gives (.gapPieceTimeout n m tm) s (fun t =>
      ∃ (u : State) (it : Item), t = u.offer n.toNat it ∧ ((u.strm n.toNat).member m.toNat).gap = some
        { a with first := tm.toNat } ∧ it.key = stripKey a.pos m.toNat)) ∧
  -- FEC_CODEWORD_DONE
  (∀ (s : State) (n : BitVec 10) (m : BitVec 4) (tm : BitVec 64) (b : Bool) (entries : BitVec 300) (ago : BitVec 16)
    (x : Stream),
    x = s.strm n.toNat →
    s.strmActive n.toNat = true →
    m.toNat < x.members.length →
    x.members.length = 1 →
    x.coding = 6 →
    s.on F.SECT_LANE_CFG_fec_annotate ((x.member m.toNat).lane / 32) ((x.member m.toNat).lane % 32) = true →
    Gives (.fecCodewordDone n m tm 0 false b entries ago) s (fun t =>
      t = s.setStrm n.toNat { x with fecSeq := (x.fecSeq + 1) % 2 ^ 32 })) ∧
  (∀ (s : State) (n : BitVec 10) (m : BitVec 4) (tm : BitVec 64) (b : Bool) (entries : BitVec 300) (ago : BitVec 16)
    (x : Stream),
    x = s.strm n.toNat →
    s.strmActive n.toNat = true →
    m.toNat < x.members.length →
    x.members.length = 1 →
    x.coding = 6 →
    (x.member m.toNat).run = none →
    s.on F.SECT_LANE_CFG_fec_annotate ((x.member m.toNat).lane / 32) ((x.member m.toNat).lane % 32) = true →
    Gives (.fecCodewordDone n m tm 0 true b entries ago) s (fun t =>
      ∃ u : State, t = u.note n.toNat
        { time := tm.toNat, type := 6, lane := m.toNat, flags := 8 + tm.toNat % 8, key := 0, payload := pack [(0, x.fecSeq), (4, 16 * b2n b), (8, 0)] }))
          ∧
  -- DESKEW_ROUND
  (∀ (s : State) (sect b : BitVec 4) (tm : BitVec 64) (xs : List Nat) (n : Nat),
    n = s.get F.SECT_BUNDLE_STATUS_stream sect.toNat b.toNat →
    s.on F.SECT_BUNDLE_STATUS_active sect.toNat b.toNat = true →
    (s.strm n).deskewed = false →
    xs.length = (s.strm n).members.length →
    (∀ o ∈ xs, o ≤ 4096) →
    Tbl.get [] (Tbl.get {} s.sectors sect.toNat).offsets b.toNat = xs →
    Gives (.deskewRound sect b tm (xs.map some)) s (fun t =>
      ∃ (u : State) (det : Nat), t = u.eventStrip n 0 Evt.DESKEW_GAINED tm.toNat det ∧ (u.strm n).deskewed = true ∧
        u.get F.SECT_BUNDLE_STATUS_deskewed sect.toNat b.toNat = 1)) ∧
  -- SLICE_CHECKPOINT
  (∀ (s : State) (sect : BitVec 4),
    Gives (.sliceCheckpoint sect) s (fun t =>
      (Tbl.get {} t.sectors sect.toNat).checkpoint = s.now)) ∧
  -- SLICE_FAILURE
  (∀ (s : State) (sect : BitVec 4) (k o : Nat),
    k < 5 →
    bit (s.get F.SECT_INTAKE_STATUS_failed sect.toNat) k = false →
    s.sliceOctet sect.toNat k = some o →
    Gives (.sliceFailure sect k) s (fun t =>
      ∃ u : State, t = u.sliceOut sect.toNat k o (s.on F.SECT_INTAKE_STATUS_spare_ok sect.toNat) ∧ u.get
        F.SECT_INTAKE_EVENTS_slice_failed sect.toNat = 1 ∧ u.get F.SECT_INTAKE_STATUS_failed sect.toNat = s.get
          F.SECT_INTAKE_STATUS_failed sect.toNat ||| 2 ^ k)) ∧
  -- SLICE_FAILOVER_DONE
  (∀ (s : State) (sect : BitVec 4) (k o : Nat),
    (Tbl.get {} s.sectors sect.toNat).failover = some (k, o) →
    ((upTo 8).all (fun j => (s.laneMembers (32 * sect.toNat + 8 * o + j) false).isEmpty && (s.laneMembers (32 *
      sect.toNat + 8 * o + j) true).isEmpty) = true) →
    Gives (.sliceFailoverDone sect) s (fun t =>
      (Tbl.get {} t.sectors sect.toNat).failover = none ∧
      t.get F.SECT_INTAKE_STATUS_spare_ok sect.toNat = 0 ∧
      t.get F.SECT_INTAKE_EVENTS_slice_switched sect.toNat = 1)) ∧
  -- LANE_CFG_WRITE
  (∀ (s : State) (p : Path) (sect : BitVec 4) (j : BitVec 5) (v : Word),
    s.writable p Reg.SECT_DESKEW_CFG sect.toNat j.toNat 0 v = true →
    s.laneStreamed (32 * sect.toNat + j.toNat) = false →
    Gives (.laneCfgWrite p 2 sect j v) s (fun t =>
      t = s.applyWrite p Reg.SECT_DESKEW_CFG sect.toNat j.toNat 0 v))

/-- The trigger units, the trigger lines and pins, the ribbons and the taps take effect. The rules are among R255 to
  R288 (spec/10). What the world around the device does stands in the operands (log entry 2). -/
def Obligations.TriggerCommandsComplete : Prop :=
  -- SEQ_ARM
  (∀ (s : State) (p : Path) (sect : BitVec 4) (q : BitVec 2) (v : Word),
    s.writable p Reg.SECT_SEQ_CTRL sect.toNat q.toNat 0 (v ||| 0x80000000#32) = true →
    bit v.toNat 30 = false ∧ bit v.toNat 29 = false →
    s.armed sect.toNat q.toNat = false →
    s.armCause sect.toNat q.toNat = 0 →
    Gives (.seqArm p sect q v) s (fun t =>
      t.get F.SECT_SEQ_STATUS_armed sect.toNat q.toNat = 1 ∧
      t.get F.SECT_SEQ_STATUS_state sect.toNat q.toNat = 0 ∧
      t.get F.SECT_SEQ_CTRL_final_mask sect.toNat q.toNat = bits v.toNat 23 16 ∧
      t.get F.SECT_SEQ_STATUS_refuse_cause sect.toNat q.toNat = 0)) ∧
  -- SEQ_DISARM
  (∀ (s : State) (p : Path) (sect : BitVec 4) (q : BitVec 2) (v : Word),
    s.writable p Reg.SECT_SEQ_CTRL sect.toNat q.toNat 0 (v ||| 0x40000000#32) = true →
    bit v.toNat 31 = false ∧ bit v.toNat 29 = false →
    Gives (.seqDisarm p sect q v) s (fun t =>
      t.get F.SECT_SEQ_STATUS_armed sect.toNat q.toNat = 0 ∧
      t.get F.SECT_SEQ_CTRL_final_mask sect.toNat q.toNat = bits v.toNat 23 16)) ∧
  -- SW_COND
  (∀ (s : State) (p : Path) (sect : BitVec 4) (q : BitVec 2) (v : Word),
    s.writable p Reg.SECT_SEQ_CTRL sect.toNat q.toNat 0 (v ||| 0x20000000#32) = true →
    bit v.toNat 31 = false ∧ bit v.toNat 30 = false →
    Gives (.swCond p sect q v) s (fun t =>
      t = (s.put F.SECT_SEQ_CTRL_final_mask (bits v.toNat 23 16) sect.toNat q.toNat).trigEvent
        { sector := sect.toNat, cond := 0x5C, time := s.now + triggerLatency, seq := q.toNat })) ∧
  -- RIBBON
  (∀ (s : State) (d : Desc) (n : BitVec 16) (code : Word) (data : BitVec 256),
    s.admits d = true →
    n.toNat < 1024 →
    s.strmActive n.toNat = true ∧ s.strmHolder n.toNat = d.tenant.toNat →
    code.toNat < 0xFFFF0000 →
    Gives (.ribbon d n code 0 data) s (fun t =>
      t = s.note n.toNat (ribbonItem code.toNat 1 d.ring.toNat s.now s.now data.toNat 0 (some d)))) ∧
  -- RIBBON_AT_TIME
  (∀ (s : State) (n tm code data : Nat) (d : Desc) (r : List (Nat × Nat × Nat × Nat × Desc)),
    s.cap.ribbons = (n, tm, code, data, d) :: r →
    s.strmActive n = true →
    Gives (.ribbonAtTime) s (fun t =>
      ∃ u : State, u = ({ s with cap := { s.cap with ribbons := r } }).advanceTo tm ∧ t = u.note n (ribbonItem code 1
        d.ring.toNat tm tm data 0 (some d)))) ∧
  -- GRAPH_RIBBON_TOKEN
  (∀ (s : State) (n : BitVec 10) (q tok : Nat) (r : List Nat),
    (s.strm n.toNat).ribbonDq = some q →
    (s.dq q).tokens = tok :: r →
    (s.dq q).consumer = 4 ∧ (s.dq q).unit = n.toNat →
    tok % 2 ^ 32 < 0xFFFF0000 →
    tok / 2 ^ 32 % 2 ^ 64 ≠ 0 →
    Gives (.graphRibbonToken n) s (fun t =>
      ∃ u : State, u = s.dqTake q 1 ∧ t = u.ribbon n.toNat (ribbonItem (tok % 2 ^ 32) 2 (q % 65536) u.now (tok / 2 ^
        32 % 2 ^ 64) (q + tok / 2 ^ 96 % 2 ^ 224 * 2 ^ 32) 0 none))) ∧
  -- TLINE_PULSE
  (∀ (s : State) (p : Path) (n : BitVec 5),
    s.writable p Reg.GIO_TLINE n.toNat 0 0 0x80000000#32 = true →
    Gives (.tlinePulse p n) s (fun t =>
      t = s.lineDrive n.toNat (s.now + triggerLatency))) ∧
  -- TRIG_PIN_EDGE
  (∀ (s : State) (pin : Nat) (rising : Bool) (tm : BitVec 64),
    pin < 192 →
    s.get F.GIO_PIN_CFG_function pin = 1 →
    s.on F.GIO_TRIG_PIN_enable pin = true →
    s.get F.GIO_TRIG_PIN_dir pin = V.GIO_TRIG_PIN_dir_IN →
    s.get F.GIO_TRIG_PIN_edge pin = 2 →
    Tbl.get 0 s.trigPinHolder pin = s.get F.GIO_TLINE_holder (s.get F.GIO_TRIG_PIN_line pin) →
    Gives (.trigPinEdge pin rising tm) s (fun t =>
      t = s.lineDrive (s.get F.GIO_TRIG_PIN_line pin) (tm.toNat / 8 * 8))) ∧
  -- SLOT_EVALUATION
  (∀ (s : State) (sect : BitVec 4) (slot : BitVec 64) (t0 : Nat),
    t0 = slot.toNat / 64 * 64 →
    Tbl.get 0 s.trig.slot sect.toNat ≤ t0 →
    s.trig.events = [] →
    ((upTo 16).all (fun c => !s.on F.SECT_CNT_CFG_enable sect.toNat c) = true) →
    ((upTo 4).all (fun q => !s.armed sect.toNat q) = true) →
    Gives (.slotEvaluation sect slot) s (fun t =>
      t =
        { s.advanceTo (t0 + 8256) with trig := { s.trig with slot := Tbl.set 0 sect.toNat (t0 + 64) s.trig.slot, incs := s.trig.incs.filter (fun p => !(p.1 / 16 == sect.toNat)), clrs := s.trig.clrs.filter (fun u => !(u / 16 == sect.toNat)) ++ s.trig.autoClr.filter (fun u => u / 16 == sect.toNat), autoClr := s.trig.autoClr.filter (fun u => !(u / 16 == sect.toNat)) } }))
          ∧
  -- TRIGGER_TOKEN_POST
  (∀ (s : State) (n tm u : Nat) (r : List (Nat × Nat × Nat)),
    s.cap.tokens = (n, tm, u) :: r →
    Gives (.triggerTokenPost) s (fun t =>
      t = ({ s with cap := { s.cap with tokens := r } }).event n 1 tm u)) ∧
  -- LINE_EVENT
  (∀ (s : State) (line : BitVec 5) (tm : Nat),
    s.trig.lines = [(line.toNat, tm)] →
    ((upTo 512).all (fun l => !(s.on F.PRS_LANE_CFG_line_en l && s.get F.PRS_LANE_CFG_line l == line.toNat)) = true) →
    s.cap.streams = [] →
    ((upTo 192).all (fun p => !(s.on F.GIO_TRIG_PIN_enable p)) = true) →
    Gives (.lineEvent line) s (fun t =>
      t.trig.lines = [] ∧
      t.get F.GIO_TLINE_event_count line.toNat = (s.get F.GIO_TLINE_event_count line.toNat + 1) % 2 ^ 8 ∧
      t.clk = (s.advanceTo tm).clk ∧
      t.dbg.halts = s.dbg.halts ++ ((upTo 8).filter (fun k => s.on F.DBG_GROUP_CFG_in_en k && s.get
        F.DBG_GROUP_CFG_in_line k == line.toNat)).map (fun k => (k, tm + 1280)))) ∧
  -- TAP_BEAT
  (∀ (s : State) (sect : BitVec 4) (tap : BitVec 2) (data : BitVec 128) (nbits : BitVec 8) (tm : BitVec 64) (gap :
    Bool),
    s.on F.SECT_TAP_CFG_enable sect.toNat tap.toNat = true →
    s.get F.FAB_SECT_STATUS_state (16 * sect.toNat) = Sec.RUNNING →
    s.get F.FAB_SECT_STATUS_holder (16 * sect.toNat) = s.seqHolder sect.toNat tap.toNat →
    Gives (.tapBeat sect tap data nbits tm gap) s (fun t =>
      t = s.send (.tapBeat sect.toNat tap.toNat (data.toNat % 2 ^ nbits.toNat) nbits.toNat tm.toNat gap))) ∧
  -- INJ_EVENT
  (∀ (s : State) (sect : BitVec 4) (n : BitVec 3) (tm : BitVec 64),
    s.get F.FAB_SECT_STATUS_state (16 * sect.toNat) = Sec.RUNNING →
    tm.toNat ≤ s.now →
    Gives (.injEvent sect n tm) s (fun t =>
      t = s.trigEvent { sector := sect.toNat, cond := 0x54 + n.toNat, time := tm.toNat }))

/-- Quires are allocated, flushed, sealed and drained. The rules are among R289 to R320 (spec/11). What the world
  around the device does stands in the operands (log entry 2). -/
def Obligations.CaptureCommandsComplete : Prop :=
  -- QUIRE_ALLOCATED
  (∀ (s : State) (n f : Nat),
    s.cap.waitList = [n] →
    s.get F.CAP_USE_FRONT_value (s.strmHolder n) < s.get F.CAP_QUOTA_FRONT_quires (s.strmHolder n) →
    0 < s.frontFree →
    (s.strm n).cur = some f →
    s.strmState n = Strm.ACTIVE →
    Gives (.quireAllocated) s (fun t =>
      ∀ q r, s.allocQuire n = (some q, r) → t.cap.waitList = [] ∧ (t.strm n).next = some q ∧ (t.strm n).cur = some f))
        ∧
  -- LEAF_FLUSH_TIMEOUT
  (∀ (s : State) (n : BitVec 10) (l : OpenLeaf),
    (s.strm n.toNat).leaf = some l →
    l.strips.isEmpty = false →
    s.strmActive n.toNat = true →
    Gives (.leafFlushTimeout n) s (fun t =>
      t = s.closeLeaf n.toNat false false)) ∧
  -- ROW_WAIT_TIMEOUT
  (∀ (s : State) (q : BitVec 19),
    (s.quire q.toNat).state = Qr.OPEN →
    Gives (.rowWaitTimeout q) s (fun t =>
      (t.quire q.toNat).written = (s.quire q.toNat).used ∧
      (t.quire q.toNat).state = Qr.OPEN)) ∧
  -- SEAL_SLOT_WRITE
  (∀ (s : State) (q : BitVec 19),
    s.cap.sealPending.contains q.toNat = true →
    Gives (.sealSlotWrite q) s (fun t =>
      Tbl.get {} t.cap.seals q.toNat = { s.quire q.toNat with leaves := [] } ∧
      t.cap.sealPending = s.cap.sealPending.erase q.toNat)) ∧
  -- DRAIN_TAKE
  (∀ (s : State) (b : BitVec 3) (q g : Nat),
    s.on F.CAP_DRAIN_CFG_enable = true →
    s.get F.CAP_DRAIN_CFG_policy = V.CAP_DRAIN_CFG_policy_BALANCED →
    s.drainPick = some q →
    b.toNat = g →
    1 ≤ g ∧ g ≤ 6 →
    s.targetOk g = true →
    Gives (.drainTake b) s (fun t =>
      t = (s.startCopy q g).drainCount)) ∧
  -- DRAIN_COPY_DONE
  (∀ (s : State) (q : BitVec 19) (g f : Nat),
    (s.quire q.toNat).copy = some (g, f) →
    (s.quire q.toNat).state = Qr.DRAINING →
    Gives (.drainCopyDone q) s (fun t =>
      t.quire q.toNat = { s.quire q.toNat with state := Qr.SEALED, target := g, slot := f, copy := none })) ∧
  -- DRAIN_WRITE_FAILURE
  (∀ (s : State) (q : BitVec 19),
    (s.quire q.toNat).copy.isSome = true →
    Gives (.drainWriteFailure q) s (fun t =>
      t = s.retryCopy q.toNat)) ∧
  -- DRAIN_CFG_WRITE
  (∀ (s : State) (p : Path) (v : Word),
    s.writable p Reg.CAP_DRAIN_CFG 0 0 0 v = true →
    Gives (.drainCfgWrite p v) s (fun t =>
      t = s.applyWrite p Reg.CAP_DRAIN_CFG 0 0 0 v)) ∧
  -- QUOTA_WRITE
  (∀ (s : State) (p : Path) (deep : Bool) (n : BitVec 8) (v : Word),
    (s.writable p (if deep then Reg.CAP_QUOTA_DEEP else Reg.CAP_QUOTA_FRONT) n.toNat 0 0 v = true) →
    Gives (.quotaWrite p deep n v) s (fun t =>
      t = s.applyWrite p (if deep then Reg.CAP_QUOTA_DEEP else Reg.CAP_QUOTA_FRONT) n.toNat 0 0 v))

/-- Capture streams start, stop and close, and quires are freed and verified. The rules are among R289 to R320
  (spec/11). What the world around the device does stands in the operands (log entry 2). -/
def Obligations.StreamCommandsComplete : Prop :=
  -- STREAM_START
  (∀ (s : State) (d : Desc) (a : StartArgs) (n : Nat),
    s.admits d = true →
    firstFailing (s.startChecks d a) = none →
    s.idleStream = some n →
    Gives (.streamStart d a) s (fun t =>
      t = s.startStream d a)) ∧
  -- STREAM_STOP
  (∀ (s : State) (d : Desc) (n : BitVec 16),
    s.admits d = true →
    n.toNat < 1024 →
    s.strmActive n.toNat = true ∧ s.strmHolder n.toNat = d.tenant.toNat →
    Gives (.streamStop d n) s (fun t =>
      t = s.beginStop n.toNat V.CAP_STREAM_STATUS_end_cause_STOPPED s.now (some d))) ∧
  -- STREAM_CLOSED
  (∀ (s : State) (n : BitVec 10),
    s.dead = false →
    s.strmState n.toNat = Strm.STOPPING →
    Gives (.streamClosed n) s (fun t =>
      t = s.closeStream n.toNat)) ∧
  -- QUIRE_FREED
  (∀ (s : State) (q : BitVec 19),
    (s.quire q.toNat).state = Qr.RELEASING →
    Gives (.quireFreed q) s (fun t =>
      t = (s.dropQuire q.toNat).retire (s.quire q.toNat).stream)) ∧
  -- QUIRE_VERIFY
  (∀ (s : State) (d : Desc) (q : Word) (good : Bool) (x : Quire),
    s.admits d = true →
    q.toNat < 524288 →
    x = s.quire q.toNat →
    x.state ≠ Qr.FREE ∧ x.tenant = d.tenant.toNat →
    Gives (.quireVerify d q 0 good) s (fun t =>
      t = s.complete d (if good then St.OK else St.INTEGRITY) x.state))

/-- Leaves are read, and collation sessions open, run and close. The rules are among R321 to R343 (spec/12). What the
  world around the device does stands in the operands (log entry 2). -/
def Obligations.ReadingCommandsComplete : Prop :=
  -- LEAF_READ
  (∀ (s : State) (d : Desc) (n : BitVec 16) (q : Word) (i : BitVec 16) (buffer : BitVec 64) (l : Leaf),
    s.admits d = true →
    s.leafStatus false d.tenant.toNat n.toNat q.toNat i.toNat = 0 →
    (s.quire q.toNat).leaf? i.toNat = some l →
    s.leafBroken q.toNat i.toNat = false →
    Gives (.leafRead d n q i buffer false) s (fun t =>
      t = (s.hostWrite d.tenant.toNat buffer.toNat (l.header q.toNat ++ l.body)).ok d)) ∧
  -- LEAF_READ_RAW
  (∀ (s : State) (d : Desc) (n : BitVec 16) (q : Word) (i : BitVec 16) (buffer : BitVec 64) (l : Leaf),
    s.admits d = true →
    s.leafStatus true d.tenant.toNat n.toNat q.toNat i.toNat = 0 →
    (s.quire q.toNat).leaf? i.toNat = some l →
    Gives (.leafReadRaw d n q i buffer) s (fun t =>
      t = (s.hostWrite d.tenant.toNat buffer.toNat (l.header q.toNat ++ l.cipher q.toNat)).ok d ((s.quire
        q.toNat).counter + 2 ^ 63 * b2n (!(s.quire q.toNat).fresh l)))) ∧
  -- COLLATE_OPEN
  (∀ (s : State) (d : Desc) (n : BitVec 16) (ring : BitVec 64) (slots : Word) (k : Nat),
    s.admits d = true →
    d.readFail = false →
    n.toNat < 1024 →
    s.strmState n.toNat ≠ Strm.IDLE ∧ s.strmHolder n.toNat = d.tenant.toNat ∧ s.strmKind n.toNat = Kind.DEVICE →
    slots ≠ 0 ∧ ring.toNat % 64 = 0 →
    (findFrom (fun k => (s.sess k).isNone) 32 0 = some k) →
    Gives (.collateOpen d 1 1 0xFFFF 0 0 [n] ring slots 0) s (fun t =>
      ∃ (u : State) (z : Session), t = u.complete d St.OK k true ∧ u.sess k = some z ∧ z.desc = d ∧ z.follow = true ∧
        z.ring = ring.toNat ∧ z.slots = slots.toNat ∧ z.head = 0 ∧ z.streams.map (fun x => x.id) = [n.toNat] ∧
          u.coll.engine = (s.coll.engine + 1) % 8)) ∧
  -- COLLATE_CLOSE
  (∀ (s : State) (d : Desc) (n : BitVec 8) (z : Session),
    s.admits d = true →
    s.sess n.toNat = some z →
    z.desc.tenant = d.tenant →
    Gives (.collateClose d n) s (fun t =>
      t = (s.endSess n.toNat St.OK).ok d)) ∧
  -- COLLATE_RECORD
  (∀ (s : State) (n : BitVec 5) (z : Session),
    s.sess n.toNat = some z →
    s.nextCand z s.brokenLeaves [] = none →
    z.follow = false →
    Gives (.collateRecord n [] []) s (fun t =>
      t = s.endSess n.toNat (if z.partly then St.PARTIAL else St.OK))) ∧
  -- HOST_TAIL_POLL
  (∀ (s : State) (n : BitVec 5) (tail : BitVec 64) (z : Session) (u : State),
    s.sess n.toNat = some z →
    z.dest ≠ 1 →
    s.get F.CAP_SESS_STATUS_state n.toNat = 2 →
    u = s.setSess n.toNat { z with tail := tail.toNat } →
    Gives (.hostTailPoll n tail false) s (fun t =>
      t = u.showSess n.toNat (!u.sessRoom { z with tail := tail.toNat }))) ∧
  -- SEEK_TIME
  (∀ (s : State) (d : Desc) (n : BitVec 16) (tm : BitVec 64) (q i : Nat) (l : Leaf) (b : Bool),
    s.admits d = true →
    n.toNat < 1024 →
    s.strmState n.toNat ≠ Strm.IDLE ∧ s.strmHolder n.toNat = d.tenant.toNat →
    s.retained n.toNat ≠ [] →
    s.seek n.toNat tm.toNat = some ((q, i, l), b) →
    Gives (.seekTime d n tm) s (fun t =>
      t = s.ok d (q + i * 2 ^ 20 + 2 ^ 63 * b2n b))) ∧
  -- RIBBON_FIND
  (∀ (s : State) (d : Desc) (n : BitVec 16) (limit : BitVec 16) (code mask : Word) (buffer : BitVec 64),
    s.admits d = true →
    n.toNat < 1024 →
    s.strmState n.toNat ≠ Strm.IDLE ∧ s.strmHolder n.toNat = d.tenant.toNat ∧ s.strmKind n.toNat = Kind.DEVICE →
    0 < limit.toNat ∧ limit.toNat ≤ 256 →
    ((s.retained n.toNat).all (fun r => (s.quire r.1).ribbons == 0) = true) →
    Gives (.ribbonFind d n limit code mask 0 0 buffer [] []) s (fun t =>
      t = s.ok d 0)) ∧
  -- CAPTURE_RELEASE
  (∀ (s : State) (d : Desc) (n : BitVec 16),
    s.admits d = true →
    n.toNat < 1024 →
    s.strmState n.toNat = Strm.CLOSED ∧ s.strmHolder n.toNat = d.tenant.toNat ∧ s.strmKind n.toNat ≠ Kind.PATTERN →
    s.coll.sessions = [] →
    Gives (.captureRelease d n) s (fun t =>
      t = (s.releaseCapture n.toNat).1.ok d (s.releaseCapture n.toNat).2))

/-- A press loads, starts, stops, freezes and takes its events. The rules are among R344 to R371 (spec/13). What the
  world around the device does stands in the operands (log entry 2). -/
def Obligations.PressControlCommandsComplete : Prop :=
  -- PRESS_LOAD
  (∀ (s : State) (d : Desc) (lane entry stream : BitVec 16) (program : List (BitVec 64)) (pq nq : BitVec 32) (l :
    Nat),
    s.admits d = true →
    d.readFail = false →
    l = lane.toNat →
    l < 512 ∧ stream.toNat < 1024 ∧ pq.toNat < 2 ^ 20 ∧ nq.toNat < 2 ^ 20 →
    s.get F.LANE_STATUS_holder l = d.tenant.toNat →
    s.strmState stream.toNat = Strm.CLOSED ∧ s.strmHolder stream.toNat = d.tenant.toNat ∧ s.strmKind stream.toNat =
      Kind.PATTERN →
    s.dqHolder pq.toNat = d.tenant.toNat ∧ s.dqHolder nq.toNat = d.tenant.toNat →
    (s.dq pq.toNat).alloc = true ∧ (s.dq nq.toNat).alloc = true ∧ (s.dq pq.toNat).consumer = 0 →
    isRelay (s.prsMode l) = false →
    (program.any (fun w => decide (0x20 ≤ (pressInstr w.toNat).op)) = false) →
    (program.all (fun w => pressInstrOk program.length (s.prsWidth l) w.toNat) = true) →
    entry.toNat < program.length ∧ program.length ≤ 512 →
    s.get F.LANE_CTRL_loop l ≠ 3 →
    s.domOn (domSector (l / 32)) = true →
    s.prsBusy l = false ∧ s.prsTaken l = false →
    Gives (.pressLoad d lane entry program stream pq nq) s (fun t =>
      s.prsMode l = Mode.PROGRAM → ∃ u : State, t = u.ok d ∧ u.prsState l = Prs.LOADED ∧ (u.prs l).program =
        program.map (fun w => w.toNat) ∧ (u.prs l).pc = entry.toNat ∧ (u.prs l).stream = stream.toNat ∧ (u.dq
          pq.toNat).consumer = 3 ∧ (u.dq pq.toNat).unit = l ∧ (u.prs l).ptr = [0, 0, 0, 0] ∧ (u.prs l).k = [0, 0, 0,
          0])) ∧
  -- PRESS_START
  (∀ (s : State) (d : Desc) (lane : BitVec 16) (at' : BitVec 64) (l : Nat) (x : PressSt),
    s.admits d = true →
    l = lane.toNat ∧ l < 512 →
    x = s.prs l →
    s.get F.LANE_STATUS_holder l = d.tenant.toNat →
    x.loaded = true ∧ s.strmHolder x.stream = d.tenant.toNat ∧ s.dqHolder x.pressDq = d.tenant.toNat ∧ s.dqHolder
      x.notifyDq = d.tenant.toNat →
    isRelay (s.prsMode l) = false →
    s.badStartTime at'.toNat = false →
    s.get F.LANE_CTRL_loop l ≠ 3 →
    (x.program.any (fun i => decide (0x20 ≤ (pressInstr i).op)) = false) →
    s.domOn (domSector (l / 32)) = true →
    s.get F.LANE_STATUS_state l ≠ 0 ∧ s.get F.LANE_STATUS_state l ≠ 5 →
    s.strmState x.stream = Strm.CLOSED →
    (s.dq x.pressDq).alloc = true ∧ (s.dq x.notifyDq).alloc = true →
    s.prsBusy l = false ∧ s.prsTaken l = false →
    Gives (.pressStart d lane at') s (fun t =>
      t = (((s.setPrs l
        { x with startAt := if at' = 0 then s.now + 640000 else at'.toNat, cur := none, wait := none, timeWait := false, pc := x.entry }).setPrsState
          l Prs.ARMED).put F.PRS_LANE_STATUS_fault 0 l).ok d)) ∧
  -- PRESS_START_TIME
  (∀ (s : State) (lane : BitVec 9) (x : PressSt),
    x = s.prs lane.toNat →
    s.prsState lane.toNat = Prs.ARMED →
    Gives (.pressStartTime lane) s (fun t =>
      t.prsState lane.toNat = Prs.RUNNING ∧
      t.get F.PRS_LANE_STATUS_pc lane.toNat = x.entry % 512 ∧
      t.prs lane.toNat = { x with wire := Nat.max x.wire x.startAt, pc := x.entry } ∧
      t.clk = (s.advanceTo x.startAt).clk)) ∧
  -- PRESS_STOP
  (∀ (s : State) (d : Desc) (lane : BitVec 16) (l : Nat) (x : PressSt),
    s.admits d = true →
    l = lane.toNat ∧ l < 512 →
    x = s.prs l →
    s.get F.LANE_STATUS_holder l = d.tenant.toNat →
    s.domOn (domSector (l / 32)) = true →
    x.loaded = true →
    s.prsBusy l = true →
    Gives (.pressStop d lane) s (fun t =>
      t = ((s.setPrs l { x with cur := none, wait := none, timeWait := false, pins := [], pc := x.entry }).setPrsState
        l Prs.LOADED).ok d)) ∧
  -- PRESS_FREEZE
  (∀ (s : State) (d : Desc) (lane : BitVec 16) (l : Nat),
    s.admits d = true →
    l = lane.toNat ∧ l < 512 →
    s.get F.LANE_STATUS_holder l = d.tenant.toNat →
    s.domOn (domSector (l / 32)) = true →
    (s.prs l).loaded = true →
    (s.prsState l = Prs.ARMED ∨ s.prsState l = Prs.RUNNING ∨ s.prsState l = Prs.WAITING) →
    Gives (.pressFreeze d lane) s (fun t =>
      t = ((s.setPrs l { s.prs l with before := s.prsState l }).setPrsState l Prs.FROZEN).ok d)) ∧
  -- PRESS_UNFREEZE
  (∀ (s : State) (d : Desc) (lane : BitVec 16) (l : Nat) (x : PressSt),
    s.admits d = true →
    l = lane.toNat ∧ l < 512 →
    x = s.prs l →
    s.get F.LANE_STATUS_holder l = d.tenant.toNat →
    s.domOn (domSector (l / 32)) = true →
    x.loaded = true →
    s.prsState l = Prs.FROZEN →
    x.timeWait = false →
    isRelay (s.prsMode l) = false →
    Gives (.pressUnfreeze d lane) s (fun t =>
      t = ((s.setPrs l { x with resumeAt := s.now + 4096, timeWait := false }).setPrsState l x.before).ok d)) ∧
  -- PRESS_EVENT
  (∀ (s : State) (d : Desc) (lane : BitVec 16) (value : BitVec 32) (l : Nat),
    s.admits d = true →
    l = lane.toNat ∧ l < 512 →
    s.get F.LANE_STATUS_holder l = d.tenant.toNat →
    s.domOn (domSector (l / 32)) = true →
    (s.prs l).evq.length < 16 →
    Gives (.pressEvent d lane value) s (fun t =>
      t = (s.setPrs l
        { s.prs l with evq := insertEvent { source := 2, value := value.toNat, time := s.now + 10240 } (s.prs l).evq }).ok
          d)) ∧
  -- PRESS_EVQ_ARRIVAL
  (∀ (s : State) (lane : BitVec 9) (e : PressEvent) (r : List PressEvent) (x : PressSt),
    x = s.prs lane.toNat →
    x.due = e :: r →
    x.evq.length < 16 →
    Gives (.pressEvqArrival lane false) s (fun t =>
      t = s.setPrs lane.toNat { x with due := r, evq := insertEvent e x.evq })) ∧
  -- PREFETCH_READ_DONE
  (∀ (s : State) (lane : BitVec 9) (leaf : BitVec 33) (x : PressSt),
    x = s.prs lane.toNat →
    x.lines.contains leaf.toNat = false →
    x.lines.length < s.get F.PRS_CACHE_LINES_lines lane.toNat →
    Gives (.prefetchReadDone lane leaf true none) s (fun t =>
      t = s.setPrs lane.toNat { x with lines := x.lines ++ [leaf.toNat] })) ∧
  -- CACHE_LINES_WRITE
  (∀ (s : State) (p : Path) (lane : BitVec 9) (v : Word) (l n : Nat),
    s.writable p Reg.PRS_CACHE_LINES lane.toNat 0 0 v = true →
    l = lane.toNat ∧ n = v.toNat % 2048 →
    s.linesTotal l n ≤ s.linesCap (l / 32) →
    s.prsState l < 2 →
    Gives (.cacheLinesWrite p lane v) s (fun t =>
      t = (s.applyWrite p Reg.PRS_CACHE_LINES l 0 0 v).put F.PRS_SECT_CACHE_lines_free ((s.applyWrite p
        Reg.PRS_CACHE_LINES l 0 0 v).linesCap (l / 32) - (s.applyWrite p Reg.PRS_CACHE_LINES l 0 0 v).linesTotal l n)
          (l / 32)))

/-- The press instructions that emit units, set registers, jump and wait for a time take effect. The rules are among
  R344 to R371 (spec/13). What the world around the device does stands in the operands (log entry 2). A press fetches
    its instruction itself: the command names the lane only. -/
def Obligations.PressOutputInstructionsComplete : Prop :=
  -- HALT
  (∀ (s : State) (lane : BitVec 9) (x : PressSt),
    x = s.prs lane.toNat →
    s.pressRuns lane.toNat 0x00 = true →
    Gives (.halt lane) s (fun t =>
      t.prsState lane.toNat = Prs.DONE ∧
      t.prs lane.toNat = { x with pins := [] } ∧
      t.get F.PRS_EVENTS_done lane.toNat = 1)) ∧
  -- SEND
  (∀ (s : State) (lane : BitVec 9) (x : PressSt) (i : PressInstr),
    x = s.prs lane.toNat →
    i = s.prsAt lane.toNat →
    s.pressRuns lane.toNat 0x01 = true →
    Gives (.send lane) s (fun t =>
      t.prs lane.toNat = { x with pc := x.pc + 1, cur := some (.pattern i.a (nth4 x.ptr i.a) (i.imm % 2 ^ 24)) })) ∧
  -- SENDK
  (∀ (s : State) (lane : BitVec 9) (x : PressSt) (i : PressInstr),
    x = s.prs lane.toNat →
    i = s.prsAt lane.toNat →
    s.pressRuns lane.toNat 0x02 = true →
    Gives (.sendk lane) s (fun t =>
      t.prs lane.toNat =
        { x with pc := x.pc + 1, cur := if nth4 x.k i.b = 0 then none else some (.pattern i.a (nth4 x.ptr i.a) (nth4 x.k i.b)) }))
          ∧
  -- IDLE
  (∀ (s : State) (lane : BitVec 9) (x : PressSt) (i : PressInstr),
    x = s.prs lane.toNat →
    i = s.prsAt lane.toNat →
    s.pressRuns lane.toNat 0x03 = true →
    Gives (.idle lane) s (fun t =>
      t.prs lane.toNat = { x with pc := x.pc + 1, cur := some (.idle (i.imm % 2 ^ 24)) })) ∧
  -- SETP
  (∀ (s : State) (lane : BitVec 9) (x : PressSt) (i : PressInstr),
    x = s.prs lane.toNat →
    i = s.prsAt lane.toNat →
    s.pressRuns lane.toNat 0x04 = true →
    Gives (.setp lane) s (fun t =>
      t.prs lane.toNat = { x with pc := x.pc + 1, ptr := listSet x.ptr i.a i.imm })) ∧
  -- ADDP
  (∀ (s : State) (lane : BitVec 9) (x : PressSt) (i : PressInstr),
    x = s.prs lane.toNat →
    i = s.prsAt lane.toNat →
    s.pressRuns lane.toNat 0x05 = true →
    Gives (.addp lane) s (fun t =>
      t.prs lane.toNat = { x with pc := x.pc + 1, ptr := listSet x.ptr i.a ((nth4 x.ptr i.a + i.imm) % 2 ^ 48) })) ∧
  -- SETK
  (∀ (s : State) (lane : BitVec 9) (x : PressSt) (i : PressInstr),
    x = s.prs lane.toNat →
    i = s.prsAt lane.toNat →
    s.pressRuns lane.toNat 0x06 = true →
    Gives (.setk lane) s (fun t =>
      t.prs lane.toNat = { x with pc := x.pc + 1, k := listSet x.k i.a (i.imm % 2 ^ 32) })) ∧
  -- LOOP
  (∀ (s : State) (lane : BitVec 9) (x : PressSt) (i : PressInstr),
    x = s.prs lane.toNat →
    i = s.prsAt lane.toNat →
    s.pressRuns lane.toNat 0x07 = true →
    Gives (.loop lane) s (fun t =>
      t.prs lane.toNat = if nth4 x.k i.a = 0 then { x with pc := x.pc + 1 } else
        { x with pc := i.imm % 512, k := listSet x.k i.a (nth4 x.k i.a - 1) })) ∧
  -- JUMP
  (∀ (s : State) (lane : BitVec 9) (x : PressSt) (i : PressInstr),
    x = s.prs lane.toNat →
    i = s.prsAt lane.toNat →
    s.pressRuns lane.toNat 0x08 = true →
    Gives (.jump lane) s (fun t =>
      t.prs lane.toNat = { x with pc := i.imm % 512 })) ∧
  -- MARKT
  (∀ (s : State) (lane : BitVec 9) (x : PressSt) (i : PressInstr),
    x = s.prs lane.toNat →
    i = s.prsAt lane.toNat →
    s.pressRuns lane.toNat 0x09 = true →
    Gives (.markt lane) s (fun t =>
      t.prs lane.toNat = { x with pc := x.pc + 1, t := wrapInt 64 ((x.wire : Int) + sext 48 i.imm) })) ∧
  -- ADDT
  (∀ (s : State) (lane : BitVec 9) (x : PressSt) (i : PressInstr),
    x = s.prs lane.toNat →
    i = s.prsAt lane.toNat →
    s.pressRuns lane.toNat 0x0A = true →
    Gives (.addt lane) s (fun t =>
      t.prs lane.toNat = { x with pc := x.pc + 1, t := wrapInt 64 ((x.t : Int) + sext 48 i.imm) })) ∧
  -- WAIT_TIME
  (∀ (s : State) (lane : BitVec 9) (x : PressSt),
    x = s.prs lane.toNat →
    s.pressRuns lane.toNat 0x0B = true →
    x.wire < x.t →
    Gives (.waitTime lane) s (fun t =>
      t.prs lane.toNat = { x with pc := x.pc + 1, timeWait := true } ∧
      t.prsState lane.toNat = Prs.WAITING)) ∧
  -- WAIT_TIME_RELEASE
  (∀ (s : State) (lane : BitVec 9) (x : PressSt),
    x = s.prs lane.toNat →
    s.prsState lane.toNat = Prs.WAITING →
    x.timeWait = true ∧ x.t ≤ x.wire →
    Gives (.waitTimeRelease lane) s (fun t =>
      t = (s.setPrs lane.toNat { x with timeWait := false }).setPrsState lane.toNat Prs.RUNNING))

/-- The press instructions that wait for, branch on and send events, and those of RELAY mode, take effect. The rules
  are among R344 to R371 (spec/13). What the world around the device does stands in the operands (log entry 2). -/
def Obligations.PressEventInstructionsComplete : Prop :=
  -- WAIT_EVENT
  (∀ (s : State) (lane : BitVec 9) (x : PressSt) (i : PressInstr),
    x = s.prs lane.toNat →
    i = s.prsAt lane.toNat →
    s.pressRuns lane.toNat 0x0C = true →
    Gives (.waitEvent lane) s (fun t =>
      t.prs lane.toNat = { x with pc := x.pc + 1, wait := some (i.a, i.b == 1, i.imm % 512) } ∧
      t.prsState lane.toNat = Prs.WAITING)) ∧
  -- WAIT_EVENT_TAKEN
  (∀ (s : State) (lane : BitVec 9) (x : PressSt) (e : PressEvent) (mask tgt : Nat) (limit : Bool),
    x = s.prs lane.toNat →
    x.wait = some (mask, limit, tgt) →
    x.waited mask limit = some e →
    s.prsState lane.toNat = Prs.WAITING ∧ e.time ≤ x.wire →
    Gives (.waitEventTaken lane) s (fun t =>
      t = (s.setPrs lane.toNat
        { x with evq := x.evq.erase e, ev := e.value, payload := (e.units, e.payload), wait := none }).setPrsState
          lane.toNat Prs.RUNNING)) ∧
  -- WAIT_EVENT_TIMEOUT
  (∀ (s : State) (lane : BitVec 9) (x : PressSt) (mask tgt : Nat),
    x = s.prs lane.toNat →
    x.wait = some (mask, true, tgt) →
    x.waited mask true = none →
    s.prsState lane.toNat = Prs.WAITING ∧ x.t ≤ x.wire →
    Gives (.waitEventTimeout lane) s (fun t =>
      t = (s.setPrs lane.toNat { x with wait := none, pc := tgt }).setPrsState lane.toNat Prs.RUNNING)) ∧
  -- BRANCH_EV
  (∀ (s : State) (lane : BitVec 9) (x : PressSt) (i : PressInstr),
    x = s.prs lane.toNat →
    i = s.prsAt lane.toNat →
    s.pressRuns lane.toNat 0x0D = true →
    Gives (.branchEv lane) s (fun t =>
      t.prs lane.toNat =
        { x with pc := if (x.ev % 2 ^ 16) &&& bits i.imm 47 32 = bits i.imm 31 16 then i.imm % 512 else x.pc + 1 })) ∧
  -- SEND_EV
  (∀ (s : State) (lane : BitVec 9) (x : PressSt),
    x = s.prs lane.toNat →
    s.pressRuns lane.toNat 0x0E = true →
    Gives (.sendEv lane) s (fun t =>
      t.prs lane.toNat =
        { x with pc := x.pc + 1, cur := if x.payload.1 = 0 then none else some (.payload x.payload.2 x.payload.1) }))
          ∧
  -- PRIME
  (∀ (s : State) (lane : BitVec 9) (x : PressSt) (i : PressInstr),
    x = s.prs lane.toNat →
    i = s.prsAt lane.toNat →
    i.imm % 2 ^ 24 = 0 →
    s.pressRuns lane.toNat 0x0F = true →
    Gives (.prime lane) s (fun t =>
      t.prs lane.toNat = { x with pc := x.pc + 1, pins := Tbl.set [] i.a [] x.pins })) ∧
  -- INJECT
  (∀ (s : State) (lane : BitVec 9) (x : PressSt) (i : PressInstr),
    x = s.prs lane.toNat →
    i = s.prsAt lane.toNat →
    s.pressRuns lane.toNat 0x10 = true →
    Gives (.inject lane) s (fun t =>
      t.prs lane.toNat = { x with pc := x.pc + 1, inj := some (bits i.imm 47 40, bits i.imm 39 31, i.imm % 2 ^ 24) }))
        ∧
  -- SIGNAL
  (∀ (s : State) (lane : BitVec 9) (x : PressSt) (i : PressInstr),
    x = s.prs lane.toNat →
    i = s.prsAt lane.toNat →
    s.pressRuns lane.toNat 0x11 = true →
    (s.dq x.notifyDq).alloc = false →
    Gives (.signal lane) s (fun t =>
      t.prs lane.toNat = { x with pc := x.pc + 1 })) ∧
  -- PASS
  (∀ (s : State) (lane : BitVec 9) (x : PressSt) (i : PressInstr),
    x = s.prs lane.toNat →
    i = s.prsAt lane.toNat →
    s.pressRuns lane.toNat 0x20 = true →
    Gives (.pass lane) s (fun t =>
      t.prs lane.toNat = { x with pc := x.pc + 1, cur := some (.pass (i.imm % 2 ^ 24)) })) ∧
  -- DROP
  (∀ (s : State) (lane : BitVec 9) (x : PressSt) (i : PressInstr) (n : Nat),
    x = s.prs lane.toNat →
    i = s.prsAt lane.toNat →
    n = i.imm % 2 ^ 24 →
    s.pressRuns lane.toNat 0x21 = true →
    Gives (.drop lane) s (fun t =>
      t.prs lane.toNat =
        { x with pc := x.pc + 1, backlog := x.backlog.drop n, cur := if n ≤ x.backlog.length then none else some (.drop (n - x.backlog.length)) }))
          ∧
  -- PASS_UNTIL
  (∀ (s : State) (lane : BitVec 9) (x : PressSt) (i : PressInstr),
    x = s.prs lane.toNat →
    i = s.prsAt lane.toNat →
    s.pressRuns lane.toNat 0x22 = true →
    s.relayMatch lane.toNat i.a x.backlog = false →
    Gives (.passUntil lane) s (fun t =>
      t.prs lane.toNat = { x with pc := x.pc + 1, cur := some (.passUntil i.a) })) ∧
  -- RELAY_UNIT_IN
  (∀ (s : State) (lane : BitVec 9) (u : BitVec 257) (x : PressSt) (w : Nat),
    x = s.prs lane.toNat →
    w = s.prsWidth lane.toNat →
    isRelay (s.prsMode lane.toNat) = true →
    s.relayReady lane.toNat = true →
    s.prsState lane.toNat ≠ Prs.FROZEN →
    x.cur = none →
    (x.backlog.length + 1) * w ≤ 65536 →
    Gives (.relayUnitIn lane u) s (fun t =>
      t = (s.setPrs lane.toNat { x with backlog := x.backlog ++ [u.toNat % 2 ^ w] }).backlogBits lane.toNat))

/-- A press puts the next unit on the wire. The rules are among R344 to R371 (spec/13). What the world around the
  device does stands in the operands (log entry 2). -/
def Obligations.PressUnitsAreSent : Prop :=
  -- PRESS_UNIT_SEND
  (∀ (s : State) (lane : BitVec 9) (tm : BitVec 64) (k : Bool),
    s.get F.LANE_STATUS_state lane.toNat ≠ 0 ∧ s.get F.LANE_STATUS_state lane.toNat ≠ 5 →
    s.get F.LANE_CTRL_loop lane.toNat ≠ 3 →
    s.prsWidth lane.toNat ≠ 0 →
    s.prsTaken lane.toNat = false →
    s.prsMode lane.toNat = Mode.PROGRAM →
    s.prsState lane.toNat ≠ Prs.FROZEN →
    Gives (.pressUnitSend lane tm k) s (fun t =>
      t = s.sendProgram lane.toNat tm.toNat k)) ∧
  (∀ (s : State) (lane : BitVec 9) (tm : BitVec 64) (k : Bool),
    s.get F.LANE_STATUS_state lane.toNat ≠ 0 ∧ s.get F.LANE_STATUS_state lane.toNat ≠ 5 →
    s.get F.LANE_CTRL_loop lane.toNat ≠ 3 →
    s.prsWidth lane.toNat ≠ 0 →
    s.prsTaken lane.toNat = false →
    s.prsMode lane.toNat = Mode.FRAME →
    Gives (.pressUnitSend lane tm k) s (fun t =>
      t = s.sendFrame lane.toNat tm.toNat k)) ∧
  (∀ (s : State) (lane : BitVec 9) (tm : BitVec 64) (k : Bool),
    s.get F.LANE_STATUS_state lane.toNat ≠ 0 ∧ s.get F.LANE_STATUS_state lane.toNat ≠ 5 →
    s.get F.LANE_CTRL_loop lane.toNat ≠ 3 →
    s.prsWidth lane.toNat ≠ 0 →
    s.prsTaken lane.toNat = false →
    isRelay (s.prsMode lane.toNat) = true →
    Gives (.pressUnitSend lane tm k) s (fun t =>
      t = s.sendRelay lane.toNat tm.toNat k))

/-- The shapers, FRAME and multicast commands take effect. The rules are among R372 to R390 (spec/14). What the world
  around the device does stands in the operands (log entry 2). -/
def Obligations.ShapingCommandsComplete : Prop :=
  -- FRAME_DQ_TOKEN
  (∀ (s : State) (f : BitVec 16) (q tok : Nat) (r : List Nat),
    s.frmState f.toNat = 3 →
    s.get F.PRS_FRM_CFG_source f.toNat = V.PRS_FRM_CFG_source_DQ →
    (s.frm f.toNat).head = none →
    q = s.get F.PRS_FRM_DQ_value f.toNat →
    (s.dq q).tokens = tok :: r →
    s.badEntry f.toNat tok false = false →
    (frameEntry tok).inline = false ∧ (frameEntry tok).bits = 0 →
    Gives (.frameDqToken f) s (fun t =>
      ∃ u : State, u = s.dqTake q 1 ∧ t = u.setFrm f.toNat { u.frm f.toNat with head := some (frameEntry tok) })) ∧
  -- FRAME_BOUNDARY
  (∀ (s : State) (lane : BitVec 9) (tm : BitVec 64) (l : Nat) (y : FrameLane),
    l = lane.toNat ∧ y = s.frmLane l →
    s.prsMode l = Mode.FRAME →
    y.entry = none →
    s.frmReady l = true →
    s.reservedBy l = none →
    ((s.frmRunning (l / 32)).any (fun f => bit (s.frmTarget f) (l % 32)) = false) →
    Gives (.frameBoundary lane tm) s (fun t =>
      t = (s.setFrmLane l y).put F.PRS_FRM_LANE_STATUS_cause V.PRS_FRM_LANE_STATUS_cause_EMPTY l)) ∧
  -- MULTICAST_TIMEOUT
  (∀ (s : State) (f : BitVec 16) (g : Grant),
    (s.frm f.toNat).grant = some g →
    s.get F.PRS_FRM_CFG_mc_timeout_ns f.toNat ≠ 0 →
    g.time + 64 * s.get F.PRS_FRM_CFG_mc_timeout_ns f.toNat ≤ s.now →
    g.start = none →
    g.atBoundary = g.reserved →
    Gives (.multicastTimeout f) s (fun t =>
      t = s.setGrant f.toNat { g with start := some ((s.now + 63) / 64 * 64) })) ∧
  -- SHAPER_SLOT
  (∀ (s : State) (sect : BitVec 4) (f : Nat) (x : FrameSt),
    f / 4096 = sect.toNat →
    s.frames = [(f, x)] →
    s.frmState f ≠ 3 →
    Gives (.shaperSlot sect) s (fun t =>
      t = s.shaperSlot f)) ∧
  -- SHAPER_SET
  (∀ (s : State) (d : Desc) (f : BitVec 16) (rate burst : BitVec 32),
    s.admits d = true →
    s.get F.PRS_FRM_STATUS_holder f.toNat = d.tenant.toNat →
    rate.toNat ≤ 112500000 →
    0 < burst.toNat ∧ burst.toNat ≤ 1048575 →
    s.domOn (domSector (f.toNat / 4096)) = true →
    Gives (.shaperSet d f true true true rate burst) s (fun t =>
      t = ((((s.frmTouch f.toNat).put F.PRS_SHP_RATE_rate_kbps rate.toNat f.toNat).put F.PRS_SHP_BURST_burst
        burst.toNat f.toNat).ev F.PRS_SHP_BURST_clear_debt f.toNat).ok d)) ∧
  -- CLEAR_DEBT
  (∀ (s : State) (p : Path) (v : Word) (f : Nat),
    f = s.get F.PRS_FRM_INDEX_stream →
    s.writable p Reg.PRS_SHP_BURST f 0 0 (v ||| 0x80000000#32) = true →
    Gives (.clearDebt p v) s (fun t =>
      t = (s.frmTouch f).applyWrite p Reg.PRS_SHP_BURST f 0 0 (v ||| 0x80000000#32))) ∧
  -- FRAME_CONFIG
  (∀ (s : State) (d : Desc) (f : BitVec 16) (cfg target list : Word) (addr : BitVec 64) (fq nq : BitVec 32) (pattern :
    BitVec 16),
    s.admits d = true →
    s.get F.PRS_FRM_STATUS_holder f.toNat = d.tenant.toNat →
    ((frmLanes f.toNat target.toNat).all (fun l => s.get F.LANE_STATUS_holder l == d.tenant.toNat) = true) →
    pattern.toNat < 1024 ∧ fq.toNat < 2 ^ 20 ∧ nq.toNat < 2 ^ 20 ∧ target ≠ 0 →
    s.strmState pattern.toNat = Strm.CLOSED ∧ s.strmHolder pattern.toNat = d.tenant.toNat ∧ s.strmKind pattern.toNat =
      Kind.PATTERN →
    s.dqHolder fq.toNat = d.tenant.toNat ∧ s.dqHolder nq.toNat = d.tenant.toNat →
    (s.dq fq.toNat).alloc = true ∧ (s.dq nq.toNat).alloc = true →
    addr.toNat % 128 = 0 ∧ addr.toNat < 2 ^ 48 →
    s.frmLaneConflict (frmLanes f.toNat target.toNat) = false →
    s.domOn (domSector (f.toNat / 4096)) = true →
    s.frmState f.toNat ≠ 2 ∧ s.frmState f.toNat ≠ 3 →
    Gives (.frameConfig d f cfg target list addr fq nq pattern) s (fun t =>
      ∃ u : State, t = u.ok d ∧ u.get F.PRS_FRM_STATUS_state f.toNat = 1 ∧ u.word Reg.PRS_FRM_TARGET f.toNat = target
        ∧ u.word Reg.PRS_FRM_LIST f.toNat = list ∧ u.word Reg.PRS_FRM_CFG f.toNat = cfg &&& BitVec.ofNat 32
          Reg.PRS_FRM_CFG.rw ∧ u.get F.PRS_FRM_DQ_value f.toNat = fq.toNat ∧ u.get F.PRS_FRM_NOTIFY_DQ_value f.toNat =
          nq.toNat ∧ (u.frm f.toNat).pattern = pattern.toNat)) ∧
  -- FRAME_START
  (∀ (s : State) (d : Desc) (f : BitVec 16) (at' : BitVec 64),
    s.admits d = true →
    s.get F.PRS_FRM_STATUS_holder f.toNat = d.tenant.toNat →
    ((frmLanes f.toNat (s.frmTarget f.toNat)).all (fun l => s.get F.LANE_STATUS_holder l == d.tenant.toNat) = true) →
    s.badStartTime at'.toNat = false →
    s.frmLaneConflict (frmLanes f.toNat (s.frmTarget f.toNat)) = false →
    s.domOn (domSector (f.toNat / 4096)) = true →
    s.frmState f.toNat = 1 →
    s.get F.PRS_FRM_CFG_source f.toNat = V.PRS_FRM_CFG_source_DQ →
    Gives (.frameStart d f at') s (fun t =>
      ∃ u : State, t = u.ok d ∧ u.get F.PRS_FRM_STATUS_state f.toNat = 2 ∧ u.get F.PRS_FRM_STATUS_fault f.toNat = 0 ∧
        (u.frm f.toNat).startAt = (if at' = 0 then s.now + 640000 else at'.toNat) ∧ (u.frm f.toNat).seq = 0 ∧ (u.frm
          f.toNat).frames = [])) ∧
  -- FRAME_START_TIME
  (∀ (s : State) (f : BitVec 16),
    s.frmState f.toNat = 2 →
    Gives (.frameStartTime f) s (fun t =>
      t = ((s.advanceTo (s.frm f.toNat).startAt).put F.PRS_FRM_STATUS_state 3 f.toNat).listNext f.toNat 64)) ∧
  -- FRAME_STOP
  (∀ (s : State) (d : Desc) (f : BitVec 16),
    s.admits d = true →
    s.get F.PRS_FRM_STATUS_holder f.toNat = d.tenant.toNat →
    s.domOn (domSector (f.toNat / 4096)) = true →
    (s.frmState f.toNat = 2 ∨ s.frmState f.toNat = 3) →
    (s.frm f.toNat).grant = none →
    Gives (.frameStop d f) s (fun t =>
      t = ((s.setFrm f.toNat { s.frm f.toNat with grant := none, frames := [], head := none }).put
        F.PRS_FRM_STATUS_state 1 f.toNat).ok d))

/-- The memory controllers scrub, refresh, retire and fail over. The rules are among R391 to R424 (spec/15). What the
  world around the device does stands in the operands (log entry 2). -/
def Obligations.MemoryCommandsComplete : Prop :=
  -- HBM_READ_ERROR
  (∀ (s : State) (q : BitVec 19) (leaf : BitVec 14) (row k : Nat) (l : List (Nat × Nat)) (u : State),
    (s.quire q.toNat).target = 0 ∧ s.stored q.toNat = true →
    frontPlace (s.quire q.toNat).slot leaf.toNat = (row, k) →
    s.get F.MEM_HBM_STATUS_state k = V.MEM_HBM_STATUS_state_IN_USE →
    s.get F.MEM_FRONT_STATUS_state = V.MEM_FRONT_STATUS_state_REDUNDANT →
    s.mem.degraded = [] →
    l = noteUe s.now 64000000 row (Tbl.get [] s.mem.hbmUe (64 * k + row % 64)) →
    l.length < 64 →
    u = ((((s.cnt F.MEM_HBM_UE_COUNT_value 1 k).cnt F.MEM_FRONT_RECON_value).cnt F.MEM_HBM_REPAIRS_soft_repairs 1
      k).ev F.MEM_EVENTS_hbm_repair).log 0x02 1 k [row] →
    Gives (.hbmReadError q leaf true false 15) s (fun t =>
      t = { u with mem := { u.mem with hbmUe := Tbl.set [] (64 * k + row % 64) l u.mem.hbmUe } })) ∧
  -- HBM_STACK_FAILURE
  (∀ (s : State) (stack cause : BitVec 4),
    stack.toNat < 12 ∧ 1 ≤ cause.toNat ∧ cause.toNat ≤ 5 →
    s.get F.MEM_HBM_STATUS_state stack.toNat = V.MEM_HBM_STATUS_state_IN_USE →
    Gives (.hbmStackFailure stack cause) s (fun t =>
      t = s.failStack stack.toNat cause.toNat)) ∧
  -- HBM_REFRESH
  (∀ (s : State) (stack : BitVec 4) (hot : Bool),
    stack.toNat < 12 →
    Gives (.hbmRefresh stack hot) s (fun t =>
      t =
        { s with mem := { s.mem with hotStacks := if hot then stack.toNat :: s.mem.hotStacks.filter (fun k => k != stack.toNat) else s.mem.hotStacks.filter (fun k => k != stack.toNat) } }))
          ∧
  -- PARITY_SCRUB_ROW
  (∀ (s : State) (q : BitVec 19) (leaf : BitVec 14),
    s.on F.MEM_SCRUB_CFG_enable = true →
    s.stored q.toNat = true →
    (s.quire q.toNat).target ≤ 2 →
    Gives (.parityScrubRow q leaf true 0 false 0) s (fun t =>
      t = ((s.cnt F.MEM_PARITY_FIXED_value).ev F.MEM_EVENTS_parity_fixed).copyDiffer 4 q.toNat leaf.toNat)) ∧
  -- DDR_REFRESH
  (∀ (s : State) (c : BitVec 4) (rank : BitVec 5),
    Gives (.ddrRefresh c rank) s (fun t =>
      t = { s with mem := { s.mem with refreshed := Tbl.set 0 (32 * c.toNat + rank.toNat) s.now s.mem.refreshed } }))
        ∧
  -- DDR_REFRESH_RATE_POLL
  (∀ (s : State) (c : BitVec 4) (rank : BitVec 5) (double : Bool) (k : Nat),
    k = 32 * c.toNat + rank.toNat →
    Gives (.ddrRefreshRatePoll c rank double) s (fun t =>
      t =
        { s with mem := { s.mem with hotRanks := if double then k :: s.mem.hotRanks.filter (fun r => r != k) else s.mem.hotRanks.filter (fun r => r != k) } }))
          ∧
  -- DDR_UE_BURST
  (∀ (s : State) (q : BitVec 19) (leaf : BitVec 14) (leaves : Word) (x : Quire) (row c rank : Nat) (l : List (Nat ×
    Nat)) (u : State),
    x = s.quire q.toNat →
    (x.target = 1 ∨ x.target = 2) →
    s.stored q.toNat = true →
    ddrPlace x.target x.slot leaf.toNat = (row, c) ∧ rank = s.ddrRank c row →
    s.ddrHoles x.target row = 0 →
    u = s.cnt F.MEM_DDR_UE_COUNT_value 1 c →
    l = noteUe u.now 64000000000 row (Tbl.get [] u.mem.ddrUe (32 * c + rank)) →
    l.length < 16 →
    Gives (.ddrUeBurst q leaf false leaves) s (fun t =>
      t = { u with mem := { u.mem with ddrUe := Tbl.set [] (32 * c + rank) l u.mem.ddrUe } })) ∧
  -- DDR_RANK_RETIRE
  (∀ (s : State) (c : BitVec 4) (rank : BitVec 5) (reason : BitVec 2) (leaves : Word),
    Gives (.ddrRankRetire c rank reason leaves) s (fun t =>
      t = s.retireRank c.toNat rank.toNat reason.toNat leaves.toNat)) ∧
  -- DDR_MIGRATE_DONE
  (∀ (s : State) (c : BitVec 4) (u : State),
    s.on F.MEM_DDR_STATUS_migrating c.toNat = true →
    (u =
      { s with mem := { s.mem with retired := s.mem.retired.filter (fun r => r != 32 * c.toNat + s.get F.MEM_DDR_STATUS_retired c.toNat) } })
        →
    Gives (.ddrMigrateDone c) s (fun t =>
      t = ((((u.clr F.MEM_DDR_STATUS_migrating c.toNat).put F.MEM_DDR_MIGRATE_value 0 c.toNat).ev
        F.MEM_EVENTS_ddr_migrate_done).log 0x11 0 c.toNat [s.get F.MEM_DDR_STATUS_retired c.toNat]).recast)) ∧
  -- DDR_REHOME_DONE
  (∀ (s : State) (second : Bool) (g : Nat) (chans : List Nat),
    g = 1 + b2n second →
    (chans = (s.groupChannels g).filter (fun c => s.on F.MEM_DDR_STATUS_rehoming c)) →
    chans ≠ [] →
    s.quiresIn g = [] →
    Gives (.ddrRehomeDone second) s (fun t =>
      ∃ u : State, u = (s.each chans (fun s c => s.clr F.MEM_DDR_STATUS_rehoming c)).log 0x12 0 (g - 1) [0, 0] ∧ t =
        ((u.ev F.MEM_EVENTS_ddr_rehome_done).put F.CAP_TARGET_CAP_value 0 g).recast)) ∧
  -- CXL_READ_FAILOVER
  (∀ (s : State) (q : BitVec 19) (leaf : BitVec 14) (a b p : Nat),
    s.cxlPair = some (a, b) →
    (s.quire q.toNat).target = 6 ∧ s.stored q.toNat = true →
    (p = if leaf.toNat % 2 = 0 then a else b) →
    s.get F.MEM_CXL_STATUS_role p = V.MEM_CXL_STATUS_role_MIRROR_MEMBER →
    Gives (.cxlReadFailover q leaf true) s (fun t =>
      t = (s.cnt F.MEM_CXL_TIMEOUT_COUNT_value 1 p).failExpander p V.MEM_CXL_STATUS_fail_cause_TIMEOUT)) ∧
  -- CXL_EXPANDER_FAILURE
  (∀ (s : State) (port : BitVec 2) (cause : BitVec 4),
    port.toNat < 3 ∧ 1 ≤ cause.toNat ∧ cause.toNat ≤ 4 →
    s.get F.MEM_CXL_STATUS_state port.toNat = V.MEM_CXL_STATUS_state_IN_USE →
    Gives (.cxlExpanderFailure port cause) s (fun t =>
      t = s.failExpander port.toNat cause.toNat)) ∧
  -- CXL_RESILVER_DONE
  (∀ (s : State) (port : BitVec 2),
    port.toNat < 3 →
    s.on F.MEM_CXL_STATUS_resilvering port.toNat = true →
    Gives (.cxlResilverDone port) s (fun t =>
      t = ((s.clr F.MEM_CXL_STATUS_resilvering port.toNat).log 0x21 0 port.toNat [((s.clr F.MEM_CXL_STATUS_resilvering
        port.toNat).quiresIn 6).length]).recast))

/-- Keys are generated, imported, exported, renewed and erased, and leaves renewed. The rules are among R425 to R458
  (spec/16). What the world around the device does stands in the operands (log entry 2). Key values are free (log
    entry 4). -/
def Obligations.KeyCommandsComplete : Prop :=
  -- KEY_GENERATE
  (∀ (s : State) (d : Desc),
    s.admits d = true →
    s.slot d.tenant.toNat = V.SEC_KEY_STATUS_state_EMPTY →
    s.on F.SEC_STATUS_drbg_ok = true →
    Gives (.keyGenerate d) s (fun t =>
      ∃ k, k = s.fresh.1 % 2 ^ 256 ∧ t = ((s.fresh.2.setKey d.tenant.toNat (some k)).put F.SEC_KEY_STATUS_state
        V.SEC_KEY_STATUS_state_ACTIVE d.tenant.toNat).ok d (keyCheck k))) ∧
  -- KEY_IMPORT
  (∀ (s : State) (d : Desc) (blob : BitVec 320),
    s.admits d = true →
    s.slot d.tenant.toNat = V.SEC_KEY_STATUS_state_EMPTY →
    Gives (.keyImport d blob false) s (fun t =>
      ∃ k, k = keyUnwrap d.tenant.toNat blob ∧ t = ((s.setKey d.tenant.toNat (some k)).put F.SEC_KEY_STATUS_state
        V.SEC_KEY_STATUS_state_ACTIVE d.tenant.toNat).ok d (keyCheck k))) ∧
  -- KEY_IMPORT_STAGED
  (∀ (s : State) (d : Desc) (blob : BitVec 320),
    s.admits d = true →
    s.slot d.tenant.toNat = V.SEC_KEY_STATUS_state_RESUME_WAIT ∧ (s.key d.tenant.toNat).isSome = true ∧ s.stagedKey
      d.tenant.toNat = none →
    s.progress d.tenant.toNat = none →
    Gives (.keyImportStaged d blob false) s (fun t =>
      ∃ (k : Nat) (u : State), k = keyUnwrap d.tenant.toNat blob ∧ u = (s.setStaged d.tenant.toNat (some k)).put
        F.SEC_KEY_STATUS_state V.SEC_KEY_STATUS_state_REKEYING d.tenant.toNat ∧ t = (u.rekeyQueue (s.sec.queue ++
          [d.tenant.toNat])).ok d (keyCheck k))) ∧
  -- KEY_EXPORT
  (∀ (s : State) (d : Desc) (buffer : BitVec 64),
    s.admits d = true →
    s.slot d.tenant.toNat = V.SEC_KEY_STATUS_state_ACTIVE →
    Gives (.keyExport d buffer) s (fun t =>
      t = (s.hostWrite d.tenant.toNat buffer.toNat (keyBlob d.tenant.toNat ((s.key d.tenant.toNat).getD 0))).ok d
        (keyCheck ((s.key d.tenant.toNat).getD 0)))) ∧
  -- KEY_REKEY
  (∀ (s : State) (d : Desc) (buffer : BitVec 64),
    s.admits d = true →
    s.slot d.tenant.toNat = V.SEC_KEY_STATUS_state_ACTIVE →
    s.stagedKey d.tenant.toNat = none →
    s.on F.SEC_STATUS_drbg_ok = true →
    Gives (.keyRekey d buffer) s (fun t =>
      ∃ (k : Nat) (u : State), k = s.fresh.1 % 2 ^ 256 ∧ u = (s.fresh.2.setStaged d.tenant.toNat (some k)).hostWrite
        d.tenant.toNat buffer.toNat (keyBlob d.tenant.toNat k) ∧ t = (u.rekeyQueue (u.sec.queue ++
          [d.tenant.toNat])).ok d (keyCheck k))) ∧
  -- KEY_ZEROISE
  (∀ (s : State) (d : Desc),
    s.admits d = true →
    s.slot d.tenant.toNat ≠ V.SEC_KEY_STATUS_state_EMPTY →
    s.keyInUse d.tenant.toNat = false →
    Gives (.keyZeroise d) s (fun t =>
      t = (s.zeroise d.tenant.toNat).ok d)) ∧
  -- DRBG_HEALTH_FAILURE
  (∀ (s : State),
    Gives (.drbgHealthFailure) s (fun t =>
      t.get F.SEC_STATUS_drbg_ok = 0 ∧
      t = ((s.put F.SEC_STATUS_drbg_ok 0).ev F.SEC_EVENTS_drbg_fail).log 0xE3 2 0 [])) ∧
  -- REKEY_ENGINE_TAKE
  (∀ (s : State) (n : Nat) (r : List Nat) (u : State),
    s.sec.queue = n :: r →
    s.on F.SEC_STATUS_rekey_busy = false →
    u = (((s.rekeyQueue r).put F.SEC_STATUS_rekey_busy 1).put F.SEC_STATUS_rekey_tenant n).put F.SEC_KEY_STATUS_state
      V.SEC_KEY_STATUS_state_REKEYING n →
    Gives (.rekeyEngineTake) s (fun t =>
      ∃ x : State, x = u.setBoundary n (Tbl.get 0 u.sec.bounds n) ∧ t = (x.put F.SEC_REKEY_LEFT_value (quiresOf
        (x.rekeyLeaves n (Tbl.get 0 u.sec.bounds n))).length).recast)) ∧
  -- REKEY_ADVANCE
  (∀ (s : State) (n m : Nat) (r : List Nat),
    s.on F.SEC_STATUS_rekey_busy = true →
    s.rekeyLeaves (s.get F.SEC_STATUS_rekey_tenant) (Tbl.get 0 s.sec.bounds (s.get F.SEC_STATUS_rekey_tenant)) = n ::
      m :: r →
    (s.quire (n / 16384)).state ≠ Qr.DRAINING →
    m / 16384 = n / 16384 →
    Gives (.rekeyAdvance) s (fun t =>
      t = (s.rekeyLeaf n).setBoundary (s.get F.SEC_STATUS_rekey_tenant) m)) ∧
  -- PATTERN_WRITE
  (∀ (s : State) (d : Desc) (n : BitVec 16) (off : BitVec 64) (data : List (BitVec 8)) (x : Stream) (l : OpenLeaf),
    s.admits d = true ∧ d.readFail = false →
    n.toNat < 1024 →
    s.strmState n.toNat = Strm.ACTIVE ∧ s.strmHolder n.toNat = d.tenant.toNat ∧ s.strmKind n.toNat = Kind.PATTERN →
    s.sealCheck d.tenant.toNat = 0 ∧ s.on F.SEC_KEY_STATUS_exhausted d.tenant.toNat = false →
    x = s.strm n.toNat ∧ x.leaf = some l →
    x.seq = off.toNat / 4032 →
    data ≠ [] ∧ off.toNat % 4032 + data.length ≤ 4032 →
    Gives (.patternWrite d n off data false) s (fun t =>
      ∃ (f : Nat) (u : State), f = l.filled ||| ((2 ^ data.length - 1) * 2 ^ (off.toNat % 4032)) ∧ u = s.setStrm
        n.toNat
          { x with leaf := some { l with pat := mergeBytes l.pat (off.toNat % 4032) data, filled := f, lastTime := s.now } }
          ∧ t = (if f = 2 ^ 4032 - 1 then u.closeLeaf n.toNat false false else u).ok d data.length)) ∧
  -- SEC_LOCK
  (∀ (s : State) (p : Path) (v : Word),
    s.writable p Reg.SEC_CTRL 0 0 0 v = true →
    Gives (.secLock p v) s (fun t =>
      t = (s.applyWrite p Reg.SEC_CTRL 0 0 0 v).put F.SEC_STATUS_locked ((s.applyWrite p Reg.SEC_CTRL 0 0 0 v).get
        F.SEC_CTRL_lock)))

/-- Token queues are configured, filled, emptied and released. The rules are among R459 to R486 (spec/17). What the
  world around the device does stands in the operands (log entry 2). -/
def Obligations.QueueCommandsComplete : Prop :=
  -- POOL_CFG_WRITE
  (∀ (s : State) (p : Path) (v : Word),
    s.writable p Reg.SWF_POOL_CFG 0 0 0 v = true →
    bits v.toNat 9 0 ≤ 512 →
    s.swf.ops = [] ∧ s.swf.dq = [] →
    s.get F.SWF_POOL_CFG_pool_quires = 0 →
    bits v.toNat 9 0 ≤ s.frontFree →
    Gives (.poolCfgWrite p v) s (fun t =>
      t = ((s.takePool (bits v.toNat 9 0)).put F.SWF_POOL_CFG_pool_quires (bits v.toNat 9 0)).put F.SWF_STATUS_enabled
        (b2n (decide (0 < bits v.toNat 9 0))))) ∧
  -- DQ_CONFIG
  (∀ (s : State) (d : Desc) (q depth : Word) (c : BitVec 8) (x : Dq),
    s.admits d = true →
    x = s.dq q.toNat →
    q.toNat < 1048576 ∧ s.dqHolder q.toNat = d.tenant.toNat →
    0 < depth.toNat ∧ depth.toNat ≤ 65536 →
    (c = 0 ∨ c = 2) →
    x.alloc = false ∧ x.consumer = 0 →
    s.swfOn = true →
    s.reservedDepth d.tenant.toNat + depth.toNat ≤ s.get F.SWF_TENANT_TOKQ_token_quota d.tenant.toNat * 65536 →
    s.allDepth + depth.toNat ≤ s.poolPlaces →
    Gives (.dqConfig d q depth c) s (fun t =>
      t = (((s.setDq q.toNat { x with alloc := true, depth := depth.toNat, consumer := c.toNat }).cacheDq q.toNat).ok
        d).flushTrace)) ∧
  -- DQ_RELEASE
  (∀ (s : State) (d : Desc) (q : Word),
    s.admits d = true →
    q.toNat < 1048576 ∧ s.dqHolder q.toNat = d.tenant.toNat →
    s.swfOn = true →
    s.dqBusy q.toNat = false →
    Gives (.dqRelease d q) s (fun t =>
      ∃ u : State, u = s.setDq q.toNat {} ∧ t =
        (({ u with swf := { u.swf with cache := u.swf.cache.erase q.toNat } }).ok d).flushTrace)) ∧
  -- TOKEN_PUT
  (∀ (s : State) (d : Desc) (q : Word) (tokens : List (BitVec 512)),
    s.admits d = true →
    d.readFail = false →
    q.toNat < 1048576 ∧ s.dqHolder q.toNat = d.tenant.toNat →
    0 < tokens.length ∧ tokens.length ≤ 64 →
    s.swfOn = true ∧ (s.dq q.toNat).alloc = true →
    tokens.length ≤ (s.dq q.toNat).free →
    Gives (.tokenPut d q tokens) s (fun t =>
      t = ((s.each tokens (fun s k => s.dqAppend q.toNat k.toNat)).ok d tokens.length).flushTrace)) ∧
  (∀ (s : State) (d : Desc) (q : Word) (tokens : List (BitVec 512)) (n : Nat),
    s.admits d = true →
    d.readFail = false →
    q.toNat < 1048576 ∧ s.dqHolder q.toNat = d.tenant.toNat →
    n = (s.dq q.toNat).free →
    0 < n ∧ n < tokens.length ∧ tokens.length ≤ 64 →
    s.swfOn = true ∧ (s.dq q.toNat).alloc = true →
    Gives (.tokenPut d q tokens) s (fun t =>
      t = ((s.each (tokens.take n) (fun s k => s.dqAppend q.toNat k.toNat)).complete d St.PARTIAL n).flushTrace)) ∧
  -- TOKEN_GET
  (∀ (s : State) (d : Desc) (q : Word) (buffer : BitVec 64) (max : BitVec 16) (got : List Nat),
    s.admits d = true →
    q.toNat < 1048576 ∧ s.dqHolder q.toNat = d.tenant.toNat →
    0 < max.toNat ∧ max.toNat ≤ 64 →
    s.swfOn = true ∧ (s.dq q.toNat).alloc = true ∧ (s.dq q.toNat).consumer = 2 →
    got = (s.dq q.toNat).tokens.take max.toNat →
    got ≠ [] →
    Gives (.tokenGet d q buffer max) s (fun t =>
      t = ((((s.hostWrite d.tenant.toNat buffer.toNat (got.flatMap (fun k => (leBytes 64 k).map BitVec.toNat))).dqTake
        q.toNat got.length)).ok d got.length).flushTrace)) ∧
  -- TOKEN_ARRIVAL
  (∀ (s : State) (q : BitVec 20) (token : BitVec 512) (source : BitVec 16),
    (s.dq q.toNat).alloc = true →
    0 < (s.dq q.toNat).free →
    Gives (.tokenArrival q token source) s (fun t =>
      t = (s.dqAppend q.toNat token.toNat).flushTrace)) ∧
  (∀ (s : State) (q : BitVec 20) (token : BitVec 512) (source : BitVec 16),
    (s.dq q.toNat).alloc = true →
    (s.dq q.toNat).free = 0 →
    Gives (.tokenArrival q token source) s (fun t =>
      t = (((s.setDq q.toNat { s.dq q.toNat with discards := satNat 32 ((s.dq q.toNat).discards + 1) }).ev
        F.SWF_EVENTS_dq_discard).swfTrace Trace.DQ_DROP (s.dqHolder q.toNat) 0 0 q.toNat source.toNat).flushTrace)) ∧
  -- QUEUE_FETCH_DONE
  (∀ (s : State) (q : BitVec 20) (o : Nat) (r : List (Nat × Nat)),
    s.swf.fetching = (q.toNat, o) :: r →
    (r.all (fun f => f.1 != q.toNat) = true) →
    (s.dq q.toNat).alloc = false →
    Gives (.queueFetchDone q) s (fun t =>
      t = (({ s with swf := { s.swf with fetching := r } }).pend o).flushTrace))

/-- Graph operations, tasks and dispatches take effect. The rules are among R459 to R486 (spec/17). What the world
  around the device does stands in the operands (log entry 2). -/
def Obligations.GraphCommandsComplete : Prop :=
  -- OP_DEFINE
  (∀ (s : State) (d : Desc) (o : Word) (r : BitVec 368),
    s.admits d = true →
    o.toNat < 262144 ∧ s.opHolder o.toNat = d.tenant.toNat →
    recReserved r = false ∧ recBad r = false →
    ((recDqs r).all (fun q => s.dqHolder q == d.tenant.toNat && (s.dq q).alloc) = true) →
    ((recEntries r 8 (recByte r 5)).all (fun e => (s.dq e.1).consumer == 0) = true) →
    s.swfOn = true →
    (s.op o.toNat).state = OpSt.FREE →
    Gives (.opDefine d o r) s (fun t =>
      ∃ u : State, t = (u.ok d).flushTrace ∧ (u.op o.toNat).state = OpSt.STOPPED ∧ (u.op o.toNat).ins = recEntries r 8
        (recByte r 5) ∧ (u.op o.toNat).outs = recEntries r 24 (recByte r 6) ∧ (u.op o.toNat).maxInflight = recByte r 4
          ∧ (u.op o.toNat).cls = recByte r 3 / 16 ∧ (u.op o.toNat).prio = recByte r 3 % 8 ∧ (u.op o.toNat).arg =
          recWord r 44 ∧ (u.op o.toNat).ordered = bit (recByte r 2) 0 ∧ (u.op o.toNat).fireAny = bit (recByte r 2) 1))
          ∧
  -- OP_ENABLE
  (∀ (s : State) (d : Desc) (o : Word),
    s.admits d = true →
    o.toNat < 262144 ∧ s.opHolder o.toNat = d.tenant.toNat →
    s.swfOn = true →
    (s.op o.toNat).state = OpSt.STOPPED →
    Gives (.opEnable d o) s (fun t =>
      t = (((s.setOp o.toNat { s.op o.toNat with state := OpSt.RUNNING, seq := 0, commit := 0, passed := [] }).pend
        o.toNat).ok d).flushTrace)) ∧
  -- OP_STOP
  (∀ (s : State) (d : Desc) (o : Word),
    s.admits d = true →
    o.toNat < 262144 ∧ s.opHolder o.toNat = d.tenant.toNat →
    s.swfOn = true →
    (s.op o.toNat).state = OpSt.RUNNING →
    s.opTasks o.toNat ≠ 0 →
    Gives (.opStop d o) s (fun t =>
      t = ((s.setOp o.toNat { s.op o.toNat with state := OpSt.QUIESCING }).ok d).flushTrace)) ∧
  -- OP_FREE
  (∀ (s : State) (d : Desc) (o : Word),
    s.admits d = true →
    o.toNat < 262144 ∧ s.opHolder o.toNat = d.tenant.toNat →
    s.swfOn = true →
    (s.op o.toNat).state = OpSt.STOPPED →
    Gives (.opFree d o) s (fun t =>
      t = (((s.unlinkOp o.toNat).setOp o.toNat {}).ok d).flushTrace)) ∧
  -- OP_MIGRATE_LIVE
  (∀ (s : State) (d : Desc) (o : Word) (cls prio : BitVec 8),
    s.admits d = true →
    o.toNat < 262144 ∧ s.opHolder o.toNat = d.tenant.toNat →
    s.swfOn = true →
    cls.toNat ≤ 15 ∧ prio.toNat ≤ 7 →
    (s.op o.toNat).state = OpSt.RUNNING →
    Gives (.opMigrateLive d o cls prio 3) s (fun t =>
      ∃ u : State, t = (u.ok d).flushTrace ∧ u.op o.toNat =
        { s.op o.toNat with cls := cls.toNat, prio := prio.toNat })) ∧
  -- OP_MIGRATE_DRAIN
  (∀ (s : State) (d : Desc) (o : Word) (cls prio : BitVec 8),
    s.admits d = true →
    o.toNat < 262144 ∧ s.opHolder o.toNat = d.tenant.toNat →
    s.swfOn = true →
    cls.toNat ≤ 15 ∧ prio.toNat ≤ 7 →
    (s.op o.toNat).state = OpSt.RUNNING →
    s.opTasks o.toNat ≠ 0 →
    Gives (.opMigrateDrain d o cls prio 3) s (fun t =>
      ∃ u : State, t = (u.ok d).flushTrace ∧ u.op o.toNat =
        { s.op o.toNat with state := OpSt.MIGRATING, migrate := some (cls.toNat, prio.toNat) })) ∧
  -- DECISION
  (∀ (s : State) (e : BitVec 2) (tn : BitVec 8) (u : State) (o : Nat),
    u = s.newRound e.toNat →
    u.firstPending e.toNat tn.toNat = some o →
    u.roundUsed e.toNat tn.toNat < u.get F.SWF_TENANT_CFG_weight tn.toNat →
    (u.op o).state ≠ OpSt.RUNNING →
    Gives (.decision e tn) s (fun t =>
      t =
        ({ u with swf := { u.swf with pend := u.swf.pend.erase o, used := Tbl.upd 0 (256 * e.toNat + tn.toNat) (· + 1) u.swf.used } }).addPair
          Reg.SWF_DECISIONS_LO Reg.SWF_DECISIONS_HI 1)) ∧
  -- TASK_COMMIT
  (∀ (s : State) (slot : BitVec 16) (k : Task),
    k = s.task slot.toNat →
    k.phase = Phase.DONE →
    (s.op k.op).ordered = false →
    k.held = [] →
    Gives (.taskCommit slot) s (fun t =>
      t = (((s.releasePlaces k).swfTrace Trace.COMMIT ((s.releasePlaces k).opHolder k.op) k.op (k.handle slot.toNat) 0
        0).freeTask slot.toNat).flushTrace)) ∧
  -- TASK_FETCH
  (∀ (s : State) (d : Desc) (cls : BitVec 8) (buffer : BitVec 64) (waitMs taskMs : Word),
    s.admits d = true →
    cls.toNat ≤ 15 ∧ 0 < taskMs.toNat ∧ taskMs.toNat ≤ 60000 →
    s.swfOn = true →
    Gives (.taskFetch d cls buffer waitMs taskMs) s (fun t =>
      t =
        ({ s with swf := { s.swf with asks := s.swf.asks ++ [({ source := hostSource d, pool := 16 * d.tenant.toNat + cls.toNat, host := some (d, buffer.toNat, waitMs.toNat, taskMs.toNat) } : Ask)] } }).flushTrace))
          ∧
  -- TASK_FETCH_TIMEOUT
  (∀ (s : State) (tn : BitVec 8) (ring : BitVec 6) (entry : BitVec 16) (d : Desc) (src pool buf wt lim : Nat) (r :
    List Ask),
    s.swf.asks = { source := src, pool := pool, host := some (d, buf, wt, lim) } :: r →
    d.tenant = tn ∧ d.ring = ring ∧ d.entry = entry ∧ wt ≠ 0 →
    (r.all (fun a => a.host == none) = true) →
    Gives (.taskFetchTimeout tn ring entry) s (fun t =>
      t = ({ s with swf := { s.swf with asks := r } }).complete d St.TIMEOUT 0)) ∧
  -- TASK_DONE
  (∀ (s : State) (d : Desc) (handle : Word) (i : Nat) (k : Task),
    s.admits d = true →
    d.readFail = false →
    i = handle.toNat % 65536 ∧ k = s.task i →
    k.phase = Phase.GRANTED ∧ k.gen = handle.toNat / 65536 ∧ 0x1000 ≤ k.exec →
    s.opHolder k.op = d.tenant.toNat →
    Gives (.taskDone d handle 0 0 []) s (fun t =>
      t = ((s.taskDone i 0).ok d k.held.length).flushTrace)) ∧
  -- HOST_TASK_TIMEOUT
  (∀ (s : State) (slot : BitVec 16),
    (s.task slot.toNat).phase = Phase.GRANTED →
    0x1000 ≤ (s.task slot.toNat).exec →
    Gives (.hostTaskTimeout slot) s (fun t =>
      t = (s.endTask slot.toNat 2).flushTrace)) ∧
  -- TASK_HANDBACK
  (∀ (s : State) (slot : BitVec 16) (cause : Nat),
    (s.task slot.toNat).lost = some cause →
    Gives (.taskHandback slot) s (fun t =>
      t = (s.handBack slot.toNat).flushTrace)) ∧
  -- DISPATCH_REQUEST
  (∀ (s : State) (sec : BitVec 8) (port : BitVec 2) (cls : BitVec 4) (src : Nat),
    src = portSource sec.toNat port.toNat →
    s.swfOn = true →
    s.get F.FAB_SECT_STATUS_state sec.toNat = Sec.RUNNING →
    s.heldTask src = none →
    (s.swf.asks.any (fun a => a.source == src) = false) →
    Gives (.dispatchRequest sec port cls) s (fun t =>
      t =
        { s with swf := { s.swf with asks := s.swf.asks ++ [({ source := src, pool := 16 * s.get F.FAB_SECT_STATUS_holder sec.toNat + cls.toNat } : Ask)] } }))
          ∧
  -- DISPATCH_OUTPUT
  (∀ (s : State) (sec : BitVec 8) (port index : BitVec 2) (token : BitVec 512) (i : Nat),
    s.heldTask (portSource sec.toNat port.toNat) = some i →
    Gives (.dispatchOutput sec port index token) s (fun t =>
      t = (s.taskOutput i index.toNat token.toNat).flushTrace)) ∧
  -- DISPATCH_DONE
  (∀ (s : State) (sec : BitVec 8) (port status : BitVec 2) (i : Nat),
    s.heldTask (portSource sec.toNat port.toNat) = some i →
    Gives (.dispatchDone sec port status) s (fun t =>
      t = (s.taskDone i status.toNat).flushTrace))

/-- Signal cores load, start, stop, take interrupts and tasks, and fail. The rules are among R487 to R515 (spec/18).
  What the world around the device does stands in the operands (log entry 2). -/
def Obligations.SignalCoreCommandsComplete : Prop :=
  -- CORE_LOAD
  (∀ (s : State) (d : Desc) (c : BitVec 8) (first : BitVec 16) (items : List Word),
    s.admits d = true →
    d.readFail = false →
    s.coreHolder c.toNat = d.tenant.toNat →
    first.toNat + items.length ≤ 32768 →
    s.domOn (domCluster (c.toNat / 16)) = true →
    s.coreState c.toNat = Core.STOPPED →
    Gives (.coreLoad d c true first items) s (fun t =>
      t = (s.setCore c.toNat ((s.core c.toNat).setWords first.toNat (items.map (fun (w : Word) => w.toNat)))).ok d)) ∧
  (∀ (s : State) (d : Desc) (c : BitVec 8) (first : BitVec 16) (w : Word),
    s.admits d = true →
    d.readFail = false →
    s.coreHolder c.toNat = d.tenant.toNat →
    first.toNat < 8192 →
    s.domOn (domCluster (c.toNat / 16)) = true →
    s.coreState c.toNat = Core.STOPPED →
    Gives (.coreLoad d c false first [w]) s (fun t =>
      t = (s.setCore c.toNat { s.core c.toNat with imem := Tbl.set 0 first.toNat w.toNat (s.core c.toNat).imem }).ok
        d)) ∧
  -- CORE_START
  (∀ (s : State) (d : Desc) (c : BitVec 8) (entry : BitVec 16),
    s.admits d = true →
    s.coreHolder c.toNat = d.tenant.toNat →
    entry.toNat < 8192 →
    s.domOn (domCluster (c.toNat / 16)) = true →
    (s.coreState c.toNat = Core.STOPPED ∨ s.coreState c.toNat = Core.FAULTED) →
    Gives (.coreStart d c entry) s (fun t =>
      t = (((s.setCore c.toNat ((s.core c.toNat).started entry.toNat)).setCoreState c.toNat Core.RUNNING).clr
        F.SGC_STATUS_fault_cause c.toNat).ok d)) ∧
  -- CORE_STOP
  (∀ (s : State) (d : Desc) (c : BitVec 8),
    s.admits d = true →
    s.coreHolder c.toNat = d.tenant.toNat →
    s.domOn (domCluster (c.toNat / 16)) = true →
    (s.coreState c.toNat = Core.RUNNING ∨ s.coreState c.toNat = Core.WAITING) →
    Gives (.coreStop d c) s (fun t =>
      t = (s.stopCore c.toNat 2).ok d)) ∧
  -- CORE_SIGNAL
  (∀ (s : State) (d : Desc) (c : BitVec 8),
    s.admits d = true →
    s.coreHolder c.toNat = d.tenant.toNat →
    s.domOn (domCluster (c.toNat / 16)) = true →
    Gives (.coreSignal d c) s (fun t =>
      t = (s.setCore c.toNat { s.core c.toNat with src := (s.core c.toNat).src ||| 4 }).ok d)) ∧
  -- INTERRUPT_ENTRY
  (∀ (s : State) (c : BitVec 8) (b : Nat) (x y : CoreSt),
    s.coreIrq c.toNat = some b →
    x = s.core c.toNat →
    bit x.sr 15 = true ∧ x.hold = false ∧ x.slots = 0 ∧ x.rep = 0 →
    s.coreState c.toNat = Core.RUNNING →
    y = x.enter (8 + b) x.pc (s.get F.SGC_VECTOR_base c.toNat) →
    Gives (.interruptEntry c) s (fun t =>
      t = ((s.excInfo c.toNat (8 + b) 0 0 x.pc).setCore c.toNat
        { y with src := x.src &&& (15 ^^^ 2 ^ b) }).setCoreState c.toNat Core.RUNNING)) ∧
  -- TIMER_MATCH
  (∀ (s : State) (c : BitVec 8) (m : Nat),
    m = (s.core c.toNat).tcmp →
    m + 7 < 2 ^ 64 →
    Gives (.timerMatch c) s (fun t =>
      t = s.advanceTo ((m + 7) / 8 * 8))) ∧
  -- TASK_GRANT
  (∀ (s : State) (pool : BitVec 12) (a : Ask) (slot : Nat),
    (s.swf.asks.find? (fun a => a.pool == pool.toNat) = some a) →
    s.nextReady pool.toNat = some slot →
    a.host = none ∧ a.source < 256 →
    Gives (.taskGrant pool) s (fun t =>
      ∃ u : State, t = (u.deliverCore a.source slot).flushTrace ∧ (u.task slot).phase = Phase.GRANTED ∧ (u.task
        slot).exec = a.source ∧ u.swf.asks = s.swf.asks.erase a)) ∧
  -- CORE_FAILURE
  (∀ (s : State) (c : BitVec 8) (b : Bool),
    s.coreState c.toNat ≠ Core.OFF ∧ s.coreState c.toNat ≠ Core.FAILED →
    Gives (.coreFailure c b) s (fun t =>
      t = s.failCore c.toNat (if b then V.SGC_STATUS_fault_cause_DATAPATH else V.SGC_STATUS_fault_cause_IMEM_UE) ∧
      t.coreState c.toNat = Core.FAILED)) ∧
  -- CORE_NO_PROGRESS_TIMEOUT
  (∀ (s : State) (c : BitVec 8),
    s.coreState c.toNat = Core.RUNNING →
    (s.core c.toNat).dma.length < 4 →
    Gives (.coreNoProgressTimeout c) s (fun t =>
      t = s.failCore c.toNat V.SGC_STATUS_fault_cause_NO_PROGRESS))

/-- The control-flow instructions of a signal core execute. The rules are among R516 to R537 (spec/19). What the world
  around the device does stands in the operands (log entry 2). The instruction is the word at the pc of the core the
    command names (log entry 16). -/
def Obligations.CoreControlInstructionsComplete : Prop :=
  -- NOP
  (∀ (s : State) (c : BitVec 8) (x : CoreSt) (w : Nat),
    x = (s.core c.toNat).atIssue →
    w = x.fetched →
    s.coreIssues c.toNat 0x00 = true →
    Gives (.nop c false) s (fun t =>
      t = s.coreRetires c.toNat x ({}))) ∧
  -- RETE
  (∀ (s : State) (c : BitVec 8) (x : CoreSt) (w : Nat),
    x = (s.core c.toNat).atIssue →
    w = x.fetched →
    s.coreIssues c.toNat 0x02 = true →
    Gives (.rete c false) s (fun t =>
      t = s.coreRetires c.toNat x ({ jump := some x.epc, rete := some (x.eslot, x.ebt, x.erc) }))) ∧
  -- BR
  (∀ (s : State) (c : BitVec 8) (x : CoreSt) (w : Nat),
    x = (s.core c.toNat).atIssue →
    w = x.fetched →
    s.coreIssues c.toNat 0x03 = true →
    Gives (.br c false) s (fun t =>
      t = s.coreRetires c.toNat x ({ jump := some (if x.cond (bits w 23 20) then fTarget w else x.pc + 3) }))) ∧
  -- JMP
  (∀ (s : State) (c : BitVec 8) (x : CoreSt) (w : Nat),
    x = (s.core c.toNat).atIssue →
    w = x.fetched →
    s.coreIssues c.toNat 0x04 = true →
    Gives (.jmp c false) s (fun t =>
      t = s.coreRetires c.toNat x ({ jump := some (fTarget w) }))) ∧
  -- JMPR
  (∀ (s : State) (c : BitVec 8) (x : CoreSt) (w : Nat),
    x = (s.core c.toNat).atIssue →
    w = x.fetched →
    s.coreIssues c.toNat 0x05 = true →
    Gives (.jmpr c false) s (fun t =>
      t = s.coreRetires c.toNat x ({ jump := some (x.D (fS w)) }))) ∧
  -- CALL
  (∀ (s : State) (c : BitVec 8) (x : CoreSt) (w : Nat),
    x = (s.core c.toNat).atIssue →
    w = x.fetched →
    s.coreIssues c.toNat 0x06 = true →
    Gives (.call c false) s (fun t =>
      t = s.coreRetires c.toNat x ({ writes := [wA 7 ((x.pc + 3) % 8192)], jump := some (fTarget w) }))) ∧
  -- RET
  (∀ (s : State) (c : BitVec 8) (x : CoreSt) (w : Nat),
    x = (s.core c.toNat).atIssue →
    w = x.fetched →
    s.coreIssues c.toNat 0x07 = true →
    Gives (.ret c false) s (fun t =>
      t = s.coreRetires c.toNat x ({ jump := some (x.A 7) }))) ∧
  -- LOOPI
  (∀ (s : State) (c : BitVec 8) (x : CoreSt) (w : Nat),
    x = (s.core c.toNat).atIssue →
    w = x.fetched →
    s.coreIssues c.toNat 0x08 = true →
    Gives (.loopi c false) s (fun t =>
      t = s.coreRetires c.toNat x (x.loopRes w (bits w 8 0)))) ∧
  -- LOOPR
  (∀ (s : State) (c : BitVec 8) (x : CoreSt) (w : Nat),
    x = (s.core c.toNat).atIssue →
    w = x.fetched →
    s.coreIssues c.toNat 0x09 = true →
    Gives (.loopr c false) s (fun t =>
      t = s.coreRetires c.toNat x (x.loopRes w (x.D (bits w 4 0))))) ∧
  -- REPI
  (∀ (s : State) (c : BitVec 8) (x : CoreSt) (w : Nat),
    x = (s.core c.toNat).atIssue →
    w = x.fetched →
    s.coreIssues c.toNat 0x0A = true →
    Gives (.repi c false) s (fun t =>
      t = s.coreRetires c.toNat x (x.repRes (fImm w)))) ∧
  -- REPR
  (∀ (s : State) (c : BitVec 8) (x : CoreSt) (w : Nat),
    x = (s.core c.toNat).atIssue →
    w = x.fetched →
    s.coreIssues c.toNat 0x0B = true →
    Gives (.repr c false) s (fun t =>
      t = s.coreRetires c.toNat x (x.repRes (x.D (fS w)))))

/-- The move instructions of a signal core execute. The rules are among R516 to R537 (spec/19). What the world around
  the device does stands in the operands (log entry 2). -/
def Obligations.CoreMoveInstructionsComplete : Prop :=
  -- MOVS
  (∀ (s : State) (c : BitVec 8) (x : CoreSt) (w : Nat),
    x = (s.core c.toNat).atIssue →
    w = x.fetched →
    s.coreIssues c.toNat 0x14 = true →
    Gives (.movs c false) s (fun t =>
      t = s.coreRetires c.toNat x ({ writes := [x.wD 0 (fD w) (x.special (fS w))] }))) ∧
  -- MOVTS
  (∀ (s : State) (c : BitVec 8) (x : CoreSt) (w : Nat),
    x = (s.core c.toNat).atIssue →
    w = x.fetched →
    s.coreIssues c.toNat 0x15 = true →
    Gives (.movts c false) s (fun t =>
      t = s.coreRetires c.toNat x
        ({ writes := [wS (fD w) (x.D (fS w))], setsIe := fD w == 0 && bit (x.D (fS w)) 15 }))) ∧
  -- MOVI
  (∀ (s : State) (c : BitVec 8) (x : CoreSt) (w : Nat),
    x = (s.core c.toNat).atIssue →
    w = x.fetched →
    s.coreIssues c.toNat 0x40 = true →
    Gives (.movi c false) s (fun t =>
      t = s.coreRetires c.toNat x ({ writes := [x.wD 0 (fD w) (fImm w)] }))) ∧
  -- MOVDA
  (∀ (s : State) (c : BitVec 8) (x : CoreSt) (w : Nat),
    x = (s.core c.toNat).atIssue →
    w = x.fetched →
    s.coreIssues c.toNat 0x45 = true →
    Gives (.movda c false) s (fun t =>
      t = s.coreRetires c.toNat x ({ writes := [x.wD 0 (fD w) (x.A (bits w 18 16))] }))) ∧
  -- MOVAD
  (∀ (s : State) (c : BitVec 8) (x : CoreSt) (w : Nat),
    x = (s.core c.toNat).atIssue →
    w = x.fetched →
    s.coreIssues c.toNat 0x46 = true →
    Gives (.movad c false) s (fun t =>
      t = s.coreRetires c.toNat x ({ writes := [wA (bits w 23 21) (x.D (fS w))] }))) ∧
  -- MOVMD
  (∀ (s : State) (c : BitVec 8) (x : CoreSt) (w : Nat),
    x = (s.core c.toNat).atIssue →
    w = x.fetched →
    s.coreIssues c.toNat 0x47 = true →
    Gives (.movmd c false) s (fun t =>
      t = s.coreRetires c.toNat x
        ({ writes := [{ left := 0, kind := 2, ix := bits w 23 21, value := x.D (fS w) }] })))

/-- The arithmetic, logic and shift instructions of a signal core execute. The rules are among R516 to R537 (spec/19).
  What the world around the device does stands in the operands (log entry 2). -/
def Obligations.CoreArithmeticInstructionsComplete : Prop :=
  -- ADD
  (∀ (s : State) (c : BitVec 8) (x : CoreSt) (w : Nat),
    x = (s.core c.toNat).atIssue →
    w = x.fetched →
    s.coreIssues c.toNat 0x20 = true →
    Gives (.add c false) s (fun t =>
      t = s.coreRetires c.toNat x (
        let r := aluAdd (x.D (fS w)) (x.D (fT w))
        { writes := [x.wD 0 (fD w) r.value, r.flags] }))) ∧
  -- ADDS
  (∀ (s : State) (c : BitVec 8) (x : CoreSt) (w : Nat),
    x = (s.core c.toNat).atIssue →
    w = x.fetched →
    s.coreIssues c.toNat 0x21 = true →
    Gives (.adds c false) s (fun t =>
      t = s.coreRetires c.toNat x (
        let r := (aluAdd (x.D (fS w)) (x.D (fT w))).clamp (sext 16 (x.D (fS w)) + sext 16 (x.D (fT w)))
        { writes := [x.wD 0 (fD w) r.value, r.flags] }))) ∧
  -- SUB
  (∀ (s : State) (c : BitVec 8) (x : CoreSt) (w : Nat),
    x = (s.core c.toNat).atIssue →
    w = x.fetched →
    s.coreIssues c.toNat 0x22 = true →
    Gives (.sub c false) s (fun t =>
      t = s.coreRetires c.toNat x (
        let r := aluSub (x.D (fS w)) (x.D (fT w))
        { writes := [x.wD 0 (fD w) r.value, r.flags] }))) ∧
  -- SUBS
  (∀ (s : State) (c : BitVec 8) (x : CoreSt) (w : Nat),
    x = (s.core c.toNat).atIssue →
    w = x.fetched →
    s.coreIssues c.toNat 0x23 = true →
    Gives (.subs c false) s (fun t =>
      t = s.coreRetires c.toNat x (
        let r := (aluSub (x.D (fS w)) (x.D (fT w))).clamp (sext 16 (x.D (fS w)) - sext 16 (x.D (fT w)))
        { writes := [x.wD 0 (fD w) r.value, r.flags] }))) ∧
  -- AND
  (∀ (s : State) (c : BitVec 8) (x : CoreSt) (w : Nat),
    x = (s.core c.toNat).atIssue →
    w = x.fetched →
    s.coreIssues c.toNat 0x24 = true →
    Gives (.and c false) s (fun t =>
      t = s.coreRetires c.toNat x (x.result (fD w) (x.D (fS w) &&& x.D (fT w))))) ∧
  -- OR
  (∀ (s : State) (c : BitVec 8) (x : CoreSt) (w : Nat),
    x = (s.core c.toNat).atIssue →
    w = x.fetched →
    s.coreIssues c.toNat 0x25 = true →
    Gives (.or c false) s (fun t =>
      t = s.coreRetires c.toNat x (x.result (fD w) (x.D (fS w) ||| x.D (fT w))))) ∧
  -- XOR
  (∀ (s : State) (c : BitVec 8) (x : CoreSt) (w : Nat),
    x = (s.core c.toNat).atIssue →
    w = x.fetched →
    s.coreIssues c.toNat 0x26 = true →
    Gives (.xor c false) s (fun t =>
      t = s.coreRetires c.toNat x (x.result (fD w) (x.D (fS w) ^^^ x.D (fT w))))) ∧
  -- MIN
  (∀ (s : State) (c : BitVec 8) (x : CoreSt) (w : Nat),
    x = (s.core c.toNat).atIssue →
    w = x.fetched →
    s.coreIssues c.toNat 0x27 = true →
    Gives (.min c false) s (fun t =>
      t = s.coreRetires c.toNat x (x.result (fD w) (if sext 16 (x.D (fS w)) ≤ sext 16 (x.D (fT w)) then x.D (fS w)
        else x.D (fT w))))) ∧
  -- MAX
  (∀ (s : State) (c : BitVec 8) (x : CoreSt) (w : Nat),
    x = (s.core c.toNat).atIssue →
    w = x.fetched →
    s.coreIssues c.toNat 0x28 = true →
    Gives (.max c false) s (fun t =>
      t = s.coreRetires c.toNat x (x.result (fD w) (if sext 16 (x.D (fS w)) ≤ sext 16 (x.D (fT w)) then x.D (fT w)
        else x.D (fS w))))) ∧
  -- ABS
  (∀ (s : State) (c : BitVec 8) (x : CoreSt) (w : Nat),
    x = (s.core c.toNat).atIssue →
    w = x.fetched →
    s.coreIssues c.toNat 0x29 = true →
    Gives (.abs c false) s (fun t =>
      t = s.coreRetires c.toNat x (x.negate (fD w) (if bit (x.D (fS w)) 15 then -(sext 16 (x.D (fS w))) else sext 16
        (x.D (fS w)))))) ∧
  -- NEG
  (∀ (s : State) (c : BitVec 8) (x : CoreSt) (w : Nat),
    x = (s.core c.toNat).atIssue →
    w = x.fetched →
    s.coreIssues c.toNat 0x2A = true →
    Gives (.neg c false) s (fun t =>
      t = s.coreRetires c.toNat x (x.negate (fD w) (-(sext 16 (x.D (fS w))))))) ∧
  -- CMP
  (∀ (s : State) (c : BitVec 8) (x : CoreSt) (w : Nat),
    x = (s.core c.toNat).atIssue →
    w = x.fetched →
    s.coreIssues c.toNat 0x2B = true →
    Gives (.cmp c false) s (fun t =>
      t = s.coreRetires c.toNat x ({ writes := [(aluSub (x.D (fS w)) (x.D (fT w))).flags] }))) ∧
  -- SHL
  (∀ (s : State) (c : BitVec 8) (x : CoreSt) (w : Nat),
    x = (s.core c.toNat).atIssue →
    w = x.fetched →
    s.coreIssues c.toNat 0x30 = true →
    Gives (.shl c false) s (fun t =>
      t = s.coreRetires c.toNat x (x.shift .left w (x.D (fT w) % 32)))) ∧
  -- SHR
  (∀ (s : State) (c : BitVec 8) (x : CoreSt) (w : Nat),
    x = (s.core c.toNat).atIssue →
    w = x.fetched →
    s.coreIssues c.toNat 0x31 = true →
    Gives (.shr c false) s (fun t =>
      t = s.coreRetires c.toNat x (x.shift .right w (x.D (fT w) % 32)))) ∧
  -- SAR
  (∀ (s : State) (c : BitVec 8) (x : CoreSt) (w : Nat),
    x = (s.core c.toNat).atIssue →
    w = x.fetched →
    s.coreIssues c.toNat 0x32 = true →
    Gives (.sar c false) s (fun t =>
      t = s.coreRetires c.toNat x (x.shift .arith w (x.D (fT w) % 32)))) ∧
  -- SHLI
  (∀ (s : State) (c : BitVec 8) (x : CoreSt) (w : Nat),
    x = (s.core c.toNat).atIssue →
    w = x.fetched →
    s.coreIssues c.toNat 0x33 = true →
    Gives (.shli c false) s (fun t =>
      t = s.coreRetires c.toNat x (x.shift .left w (fT w)))) ∧
  -- SHRI
  (∀ (s : State) (c : BitVec 8) (x : CoreSt) (w : Nat),
    x = (s.core c.toNat).atIssue →
    w = x.fetched →
    s.coreIssues c.toNat 0x34 = true →
    Gives (.shri c false) s (fun t =>
      t = s.coreRetires c.toNat x (x.shift .right w (fT w)))) ∧
  -- SARI
  (∀ (s : State) (c : BitVec 8) (x : CoreSt) (w : Nat),
    x = (s.core c.toNat).atIssue →
    w = x.fetched →
    s.coreIssues c.toNat 0x35 = true →
    Gives (.sari c false) s (fun t =>
      t = s.coreRetires c.toNat x (x.shift .arith w (fT w)))) ∧
  -- BTST
  (∀ (s : State) (c : BitVec 8) (x : CoreSt) (w : Nat),
    x = (s.core c.toNat).atIssue →
    w = x.fetched →
    s.coreIssues c.toNat 0x36 = true →
    Gives (.btst c false) s (fun t =>
      t = s.coreRetires c.toNat x ({ writes := [wF 0 (512 * b2n (bit (x.D (fS w)) (bits w 12 9))) 512] }))) ∧
  -- CLZ
  (∀ (s : State) (c : BitVec 8) (x : CoreSt) (w : Nat),
    x = (s.core c.toNat).atIssue →
    w = x.fetched →
    s.coreIssues c.toNat 0x37 = true →
    Gives (.clz c false) s (fun t =>
      t = s.coreRetires c.toNat x (x.result (fD w) (clz16 (x.D (fS w)))))) ∧
  -- ADDI
  (∀ (s : State) (c : BitVec 8) (x : CoreSt) (w : Nat),
    x = (s.core c.toNat).atIssue →
    w = x.fetched →
    s.coreIssues c.toNat 0x41 = true →
    Gives (.addi c false) s (fun t =>
      t = s.coreRetires c.toNat x (
        let r := aluAdd (x.D (fD w)) (fImm w)
        { writes := [x.wD 0 (fD w) r.value, r.flags] }))) ∧
  -- ANDI
  (∀ (s : State) (c : BitVec 8) (x : CoreSt) (w : Nat),
    x = (s.core c.toNat).atIssue →
    w = x.fetched →
    s.coreIssues c.toNat 0x42 = true →
    Gives (.andi c false) s (fun t =>
      t = s.coreRetires c.toNat x (x.result (fD w) (x.D (fD w) &&& fImm w)))) ∧
  -- CMPI
  (∀ (s : State) (c : BitVec 8) (x : CoreSt) (w : Nat),
    x = (s.core c.toNat).atIssue →
    w = x.fetched →
    s.coreIssues c.toNat 0x43 = true →
    Gives (.cmpi c false) s (fun t =>
      t = s.coreRetires c.toNat x ({ writes := [(aluSub (x.D (fD w)) (fImm w)).flags] }))) ∧
  -- MOV
  (∀ (s : State) (c : BitVec 8) (x : CoreSt) (w : Nat),
    x = (s.core c.toNat).atIssue →
    w = x.fetched →
    s.coreIssues c.toNat 0x44 = true →
    Gives (.mov c false) s (fun t =>
      t = s.coreRetires c.toNat x ({ writes := [x.wD 0 (fD w) (x.D (fS w))] }))) ∧
  -- ADDA
  (∀ (s : State) (c : BitVec 8) (x : CoreSt) (w : Nat),
    x = (s.core c.toNat).atIssue →
    w = x.fetched →
    s.coreIssues c.toNat 0x48 = true →
    Gives (.adda c false) s (fun t =>
      t = s.coreRetires c.toNat x (
        let a := bits w 23 21
        { writes := [wA a (x.A a / 32768 * 32768 + x.offsetAddr a (fImm w))] }))) ∧
  -- SEL
  (∀ (s : State) (c : BitVec 8) (x : CoreSt) (w : Nat),
    x = (s.core c.toNat).atIssue →
    w = x.fetched →
    s.coreIssues c.toNat 0x49 = true →
    Gives (.sel c false) s (fun t =>
      t = s.coreRetires c.toNat x ({ writes := [x.wD 0 (fD w) (if bit x.sr 9 then x.D (fS w) else x.D (fT w))] })))

/-- The loads and stores of a signal core execute. The rules are among R516 to R537 (spec/19). What the world around
  the device does stands in the operands (log entry 2). -/
def Obligations.CoreMemoryInstructionsComplete : Prop :=
  -- LD
  (∀ (s : State) (c : BitVec 8) (x : CoreSt) (w : Nat),
    x = (s.core c.toNat).atIssue →
    w = x.fetched →
    s.coreIssues c.toNat 0x50 = true →
    Gives (.ld c false 0) s (fun t =>
      t = s.coreRetires c.toNat x (
        let a := bits w 18 16
        x.load (fD w) (x.addr a) (x.post a (bits w 15 14))))) ∧
  -- ST
  (∀ (s : State) (c : BitVec 8) (x : CoreSt) (w : Nat),
    x = (s.core c.toNat).atIssue →
    w = x.fetched →
    s.coreIssues c.toNat 0x51 = true →
    Gives (.st c false) s (fun t =>
      t = s.coreRetires c.toNat x (
        let a := bits w 18 16
        x.store (fD w) (x.addr a) (x.post a (bits w 15 14))))) ∧
  -- LDO
  (∀ (s : State) (c : BitVec 8) (x : CoreSt) (w : Nat),
    x = (s.core c.toNat).atIssue →
    w = x.fetched →
    s.coreIssues c.toNat 0x52 = true →
    Gives (.ldo c false 0) s (fun t =>
      t = s.coreRetires c.toNat x (x.load (fD w) (x.offsetAddr (bits w 18 16) (fImm w)) []))) ∧
  -- STO
  (∀ (s : State) (c : BitVec 8) (x : CoreSt) (w : Nat),
    x = (s.core c.toNat).atIssue →
    w = x.fetched →
    s.coreIssues c.toNat 0x53 = true →
    Gives (.sto c false) s (fun t =>
      t = s.coreRetires c.toNat x (x.store (fD w) (x.offsetAddr (bits w 18 16) (fImm w)) []))) ∧
  -- LDXY
  (∀ (s : State) (c : BitVec 8) (x : CoreSt) (w : Nat),
    x = (s.core c.toNat).atIssue →
    w = x.fetched →
    s.coreIssues c.toNat 0x54 = true →
    fD w ≠ fS w →
    Gives (.ldxy c false 0) s (fun t =>
      t = s.coreRetires c.toNat x (
        let ax := bits w 13 11
        let ay := bits w 8 6
        let p := x.load (fD w) (x.addr ax) (x.post ax (bits w 10 9))
        let q := x.load (fS w) (x.addr ay) (x.post ay (bits w 5 4))
        { writes := p.writes ++ q.writes, access := p.access ++ q.access, openD := fD w == fS w, stall := x.addr ax % 16 == x.addr ay % 16 })))
          ∧
  -- LDST
  (∀ (s : State) (c : BitVec 8) (x : CoreSt) (w : Nat),
    x = (s.core c.toNat).atIssue →
    w = x.fetched →
    s.coreIssues c.toNat 0x55 = true →
    Gives (.ldst c false 0) s (fun t =>
      t = s.coreRetires c.toNat x (
        let ax := bits w 13 11
        let ay := bits w 8 6
        let p := x.load (fD w) (x.addr ax) (x.post ax (bits w 10 9))
        let q := x.store (fS w) (x.addr ay) (x.post ay (bits w 5 4))
        { writes := p.writes ++ q.writes, stores := q.stores, access := p.access ++ q.access, stall := x.addr ax % 16 == x.addr ay % 16 })))

/-- The multiply-accumulate and accumulator instructions of a signal core execute. The rules are among R516 to R537
  (spec/19). What the world around the device does stands in the operands (log entry 2). -/
def Obligations.CoreAccumulatorInstructionsComplete : Prop :=
  -- MAC
  (∀ (s : State) (c : BitVec 8) (x : CoreSt) (w : Nat),
    x = (s.core c.toNat).atIssue →
    w = x.fetched →
    s.coreIssues c.toNat 0x60 = true →
    Gives (.mac c false) s (fun t =>
      t = s.coreRetires c.toNat x ({ writes := x.accumulate w (x.product w) false }))) ∧
  -- MACSU
  (∀ (s : State) (c : BitVec 8) (x : CoreSt) (w : Nat),
    x = (s.core c.toNat).atIssue →
    w = x.fetched →
    s.coreIssues c.toNat 0x61 = true →
    Gives (.macsu c false) s (fun t =>
      t = s.coreRetires c.toNat x
        ({ writes := x.accumulate w (sext 16 (x.D (bits w 21 17)) * (x.D (bits w 16 12) : Int)) false }))) ∧
  -- MACUU
  (∀ (s : State) (c : BitVec 8) (x : CoreSt) (w : Nat),
    x = (s.core c.toNat).atIssue →
    w = x.fetched →
    s.coreIssues c.toNat 0x62 = true →
    Gives (.macuu c false) s (fun t =>
      t = s.coreRetires c.toNat x
        ({ writes := x.accumulate w ((x.D (bits w 21 17) : Int) * (x.D (bits w 16 12) : Int)) false }))) ∧
  -- MSU
  (∀ (s : State) (c : BitVec 8) (x : CoreSt) (w : Nat),
    x = (s.core c.toNat).atIssue →
    w = x.fetched →
    s.coreIssues c.toNat 0x63 = true →
    Gives (.msu c false) s (fun t =>
      t = s.coreRetires c.toNat x ({ writes := x.accumulate w (-(x.product w)) false }))) ∧
  -- MUL
  (∀ (s : State) (c : BitVec 8) (x : CoreSt) (w : Nat),
    x = (s.core c.toNat).atIssue →
    w = x.fetched →
    s.coreIssues c.toNat 0x64 = true →
    Gives (.mul c false) s (fun t =>
      t = s.coreRetires c.toNat x ({ writes := accWrite (bits w 23 22) (x.product w) false }))) ∧
  -- MACL
  (∀ (s : State) (c : BitVec 8) (x : CoreSt) (w : Nat),
    x = (s.core c.toNat).atIssue →
    w = x.fetched →
    s.coreIssues c.toNat 0x65 = true →
    Gives (.macl c false 0) s (fun t =>
      t = s.coreRetires c.toNat x (x.macLoad w (x.accumulate w (x.product w) false)))) ∧
  -- MSUL
  (∀ (s : State) (c : BitVec 8) (x : CoreSt) (w : Nat),
    x = (s.core c.toNat).atIssue →
    w = x.fetched →
    s.coreIssues c.toNat 0x66 = true →
    Gives (.msul c false 0) s (fun t =>
      t = s.coreRetires c.toNat x (x.macLoad w (x.accumulate w (-(x.product w)) false)))) ∧
  -- MACS
  (∀ (s : State) (c : BitVec 8) (x : CoreSt) (w : Nat),
    x = (s.core c.toNat).atIssue →
    w = x.fetched →
    s.coreIssues c.toNat 0x67 = true →
    Gives (.macs c false) s (fun t =>
      t = s.coreRetires c.toNat x ({ writes := x.accumulate w (x.product w) true }))) ∧
  -- ACCR
  (∀ (s : State) (c : BitVec 8) (x : CoreSt) (w : Nat),
    x = (s.core c.toNat).atIssue →
    w = x.fetched →
    s.coreIssues c.toNat 0x70 = true →
    Gives (.accr c false) s (fun t =>
      t = s.coreRetires c.toNat x (
        let (v, sat) := accRead (accInt (x.ACC (bits w 18 17))) w
        { writes := [x.wD 2 (fD w) v, wF 2 (zn v + 24 * b2n sat) (11 + 16 * b2n sat)] }))) ∧
  -- ACCX
  (∀ (s : State) (c : BitVec 8) (x : CoreSt) (w : Nat),
    x = (s.core c.toNat).atIssue →
    w = x.fetched →
    s.coreIssues c.toNat 0x71 = true →
    Gives (.accx c false) s (fun t =>
      t = s.coreRetires c.toNat x (
        let v := x.ACC (bits w 18 17)
        let r := match bits w 16 15 with | 0 => v % 65536 | 1 => v / 2 ^ 16 % 65536 | _ => wrapInt 16 (sext 8 (v / 2 ^ 32))
        { writes := [x.wD 2 (fD w) r] }))) ∧
  -- ACCLD
  (∀ (s : State) (c : BitVec 8) (x : CoreSt) (w : Nat),
    x = (s.core c.toNat).atIssue →
    w = x.fetched →
    s.coreIssues c.toNat 0x72 = true →
    Gives (.accld c false) s (fun t =>
      t = s.coreRetires c.toNat x
        ({ writes := accWrite (bits w 23 22) (sext 16 (x.D (fS w)) * ((2 ^ fT w : Nat) : Int)) false }))) ∧
  -- ACCCLR
  (∀ (s : State) (c : BitVec 8) (x : CoreSt) (w : Nat),
    x = (s.core c.toNat).atIssue →
    w = x.fetched →
    s.coreIssues c.toNat 0x73 = true →
    Gives (.accclr c false) s (fun t =>
      t = s.coreRetires c.toNat x ({ writes := accWrite (bits w 23 22) 0 false }))) ∧
  -- ACCADD
  (∀ (s : State) (c : BitVec 8) (x : CoreSt) (w : Nat),
    x = (s.core c.toNat).atIssue →
    w = x.fetched →
    s.coreIssues c.toNat 0x74 = true →
    Gives (.accadd c false) s (fun t =>
      t = s.coreRetires c.toNat x ({ writes := x.accumulate w (accInt (x.ACC (bits w 21 20))) false }))) ∧
  -- ACS
  (∀ (s : State) (c : BitVec 8) (x : CoreSt) (w : Nat),
    x = (s.core c.toNat).atIssue →
    w = x.fetched →
    s.coreIssues c.toNat 0x80 = true →
    Gives (.acs c false) s (fun t =>
      t = s.coreRetires c.toNat x (
        let m := x.D (bits w 8 4)
        let s0 := (x.D (fS w) + m) % 65536
        let s1 := if bit w 2 then wrapInt 16 ((x.D (fT w) : Int) - (m : Int)) else (x.D (fT w) + m) % 65536
        let diff := sext 16 (wrapInt 16 ((s1 : Int) - (s0 : Int)))
        let one := if bit w 3 then decide (0 < diff) else decide (diff < 0)
        { writes := [x.wD 2 (fD w) (if one then s1 else s0), { left := 2, kind := 4, value := b2n one }] }))) ∧
  -- DECBIT
  (∀ (s : State) (c : BitVec 8) (x : CoreSt) (w : Nat),
    x = (s.core c.toNat).atIssue →
    w = x.fetched →
    s.coreIssues c.toNat 0x81 = true →
    Gives (.decbit c false) s (fun t =>
      t = s.coreRetires c.toNat x ({ writes := [x.wD 0 (fD w) (b2n (bit x.dec (bits w 4 0)))] })))

/-- The time, trap, token and DMA instructions of a signal core execute. The rules are among R516 to R537 (spec/19).
  What the world around the device does stands in the operands (log entry 2). -/
def Obligations.CoreSystemInstructionsComplete : Prop :=
  -- RDTIME
  (∀ (s : State) (c : BitVec 8) (x : CoreSt) (w : Nat),
    x = (s.core c.toNat).atIssue →
    w = x.fetched →
    s.coreIssues c.toNat 0x16 = true →
    Gives (.rdtime c false) s (fun t =>
      t = s.coreRetires c.toNat x
        { writes := (upTo 4).map (fun i => x.wD 0 (fD w + i) (bits (s.now / 8 * 8) (16 * i + 15) (16 * i))) })) ∧
  -- TRAP
  (∀ (s : State) (c : BitVec 8) (x : CoreSt),
    x = (s.core c.toNat).atIssue →
    s.coreAt c.toNat 0x01 = true →
    x.issueExc x.fetched x.pc = some 4 →
    bit x.sr 14 = false →
    x.restore = false →
    Gives (.trap c false) s (fun t =>
      t = ((s.setCore c.toNat x).excInfo c.toNat 4 x.slots x.rep x.pc).setCore c.toNat (x.enter 4 x.pc (s.get
        F.SGC_VECTOR_base c.toNat)))) ∧
  -- TWAIT
  (∀ (s : State) (c : BitVec 8) (x : CoreSt) (u : State),
    x = (s.core c.toNat).atIssue →
    s.coreIssues c.toNat 0x10 = true →
    u = s.coreRetires c.toNat x {} →
    Gives (.twait c false) s (fun t =>
      t =
        ({ u.setCore c.toNat (u.core c.toNat).drain with swf := { u.swf with asks := u.swf.asks ++ [({ source := c.toNat, pool := 16 * s.coreHolder c.toNat + bits x.fetched 3 0 } : Ask)] } }).setCoreState
          c.toNat Core.WAITING)) ∧
  -- TPUT
  (∀ (s : State) (c : BitVec 8) (x : CoreSt) (u : State) (k a : Nat),
    x = (s.core c.toNat).atIssue →
    s.coreIssues c.toNat 0x11 = true →
    u = s.coreRetires c.toNat x {} →
    s.heldTask c.toNat = some k →
    a = x.addr (bits x.fetched 21 19) →
    Gives (.tput c false) s (fun t =>
      t = (u.taskOutput k (bits x.fetched 23 22) (pack ((upTo 32).map (fun i => (2 * i, x.word (a +
        i)))))).flushTrace)) ∧
  -- TDONE
  (∀ (s : State) (c : BitVec 8) (x : CoreSt) (k : Nat) (u : State),
    x = (s.core c.toNat).atIssue →
    s.coreIssues c.toNat 0x12 = true →
    s.heldTask c.toNat = some k →
    u = ((s.coreRetires c.toNat x {}).taskDone k (b2n (bit x.fetched 23))).flushTrace →
    Gives (.tdone c false) s (fun t =>
      t = (u.setCore c.toNat { u.core c.toNat with th := 0 }).cnt F.SGC_TASKS_DONE_value 1 c.toNat)) ∧
  -- DMAS
  (∀ (s : State) (c : BitVec 8) (x : CoreSt) (u : State),
    x = (s.core c.toNat).atIssue →
    s.coreIssues c.toNat 0x13 = true →
    x.dma.length < 4 →
    u = s.coreRetires c.toNat x {} →
    Gives (.dmas c false) s (fun t =>
      t = u.setCore c.toNat { u.core c.toNat with dma := (u.core c.toNat).dma ++ [x.addr (bits x.fetched 23 21)] }))

/-- NoC packets are carried out, and rings fail and reroute. The rules are among R538 to R552 (spec/20). What the
  world around the device does stands in the operands (log entry 2). -/
def Obligations.NocCommandsComplete : Prop :=
  -- NOC_READ
  (∀ (s : State) (p : PktArg) (q i : Nat) (l : Leaf),
    p.dst.toNat = 274 →
    (s.path p.src.toNat 274).isSome = true →
    ((upTo 32).all (fun q => !s.on F.NOC_PROBE_CFG_enable q) = true) →
    p.length.toNat ≤ 4 ∧ p.status.toNat ≤ 3 ∧ p.zero = 0 →
    q = p.addr.toNat / 4096 / 16384 ∧ q < 524288 ∧ i = p.addr.toNat / 4096 % 16384 →
    (s.quire q).readable = true →
    ((s.quire q).tenant = p.tenant.toNat ∨ p.tenant = 0) →
    s.rawBlocked p.tenant.toNat q = false →
    (s.quire q).leaf? i = some l →
    Gives (.nocRead p) s (fun t =>
      ∃ bytes, bytes = ((l.header q ++ l.cipher q).drop (p.addr.toNat % 4096)).take (64 * p.length.toNat) ∧ t =
        s.respond (Pkt.of NocOp.READ p) 0 ((pieces bytes.length bytes).map natOf))) ∧
  -- NOC_WRITE
  (∀ (s : State) (p : PktArg),
    p.dst.toNat < 256 →
    (s.path p.src.toNat p.dst.toNat).isSome = true →
    ((upTo 32).all (fun q => !s.on F.NOC_PROBE_CFG_enable q) = true) →
    p.length.toNat ≤ 4 ∧ p.status.toNat ≤ 3 ∧ p.zero = 0 →
    p.tenant.toNat = s.get F.FAB_SECT_STATUS_holder p.dst.toNat →
    s.get F.FAB_SECT_STATUS_state p.dst.toNat = Sec.RUNNING ∧ s.haltedBy 1 p.dst.toNat = false →
    Gives (.nocWrite p) s (fun t =>
      t = s.send (.deliver (Pkt.of NocOp.WRITE p)))) ∧
  -- NOC_TOKEN
  (∀ (s : State) (p : PktArg) (source : BitVec 16) (q : Nat),
    p.dst.toNat = 273 →
    (s.path p.src.toNat 273).isSome = true →
    ((upTo 32).all (fun q => !s.on F.NOC_PROBE_CFG_enable q) = true) →
    p.length.toNat ≤ 4 ∧ p.status.toNat ≤ 3 ∧ p.zero = 0 →
    q = p.addr.toNat % 2 ^ 20 →
    s.dqHolder q = p.tenant.toNat →
    Gives (.nocToken p source) s (fun t =>
      t = (s.dqPost q ((p.data.map BitVec.toNat).head?.getD 0) source.toNat).1.flushTrace)) ∧
  -- NOC_READ_RSP
  (∀ (s : State) (p : PktArg),
    p.dst.toNat < 256 →
    (s.path p.src.toNat p.dst.toNat).isSome = true →
    ((upTo 32).all (fun q => !s.on F.NOC_PROBE_CFG_enable q) = true) →
    p.length.toNat ≤ 4 ∧ p.status.toNat ≤ 3 ∧ p.zero = 0 →
    s.get F.FAB_SECT_STATUS_state p.dst.toNat = Sec.RUNNING →
    Gives (.nocReadRsp p) s (fun t =>
      t = s.send (.deliver (Pkt.of NocOp.READ_RSP p)))) ∧
  -- NOC_WRITE_ACK
  (∀ (s : State) (p : PktArg),
    p.dst.toNat < 256 →
    (s.path p.src.toNat p.dst.toNat).isSome = true →
    ((upTo 32).all (fun q => !s.on F.NOC_PROBE_CFG_enable q) = true) →
    p.length.toNat ≤ 4 ∧ p.status.toNat ≤ 3 ∧ p.zero = 0 →
    s.get F.FAB_SECT_STATUS_state p.dst.toNat = Sec.RUNNING →
    Gives (.nocWriteAck p) s (fun t =>
      t = s.send (.deliver (Pkt.of NocOp.WRITE_ACK p)))) ∧
  -- NOC_MGT_READ
  (∀ (s : State) (p : PktArg),
    256 ≤ p.dst.toNat ∧ p.dst.toNat < 276 →
    (¬ (p.dst.toNat = 275 ∧ bit p.addr.toNat 63 = true)) →
    (s.path p.src.toNat p.dst.toNat).isSome = true →
    ((upTo 32).all (fun q => !s.on F.NOC_PROBE_CFG_enable q) = true) →
    p.length.toNat ≤ 4 ∧ p.status.toNat ≤ 3 ∧ p.zero = 0 →
    Gives (.nocMgtRead p) s (fun t =>
      t = s.send (.deliver (Pkt.of NocOp.MGT_READ p)))) ∧
  -- NOC_MGT_WRITE
  (∀ (s : State) (p : PktArg),
    256 ≤ p.dst.toNat ∧ p.dst.toNat < 276 →
    (¬ (p.dst.toNat = 275 ∧ bit p.addr.toNat 63 = true)) →
    (s.path p.src.toNat p.dst.toNat).isSome = true →
    ((upTo 32).all (fun q => !s.on F.NOC_PROBE_CFG_enable q) = true) →
    p.length.toNat ≤ 4 ∧ p.status.toNat ≤ 3 ∧ p.zero = 0 →
    Gives (.nocMgtWrite p) s (fun t =>
      t = s.send (.deliver (Pkt.of NocOp.MGT_WRITE p)))) ∧
  -- NOC_FLIT_REPLAY
  (∀ (s : State),
    Gives (.nocFlitReplay) s (fun t =>
      t = s.cnt F.NOC_LINK_RETRIES_value)) ∧
  -- NOC_RING_FAILURE
  (∀ (s : State) (ring : BitVec 3) (cause : BitVec 2) (segment : BitVec 6),
    s.get F.NOC_RING_STATUS_state ring.toNat = V.NOC_RING_STATUS_state_UP →
    cause ≠ 0 ∧ segment.toNat ≤ 51 →
    Gives (.nocRingFailure ring cause segment) s (fun t =>
      t.get F.NOC_RING_STATUS_state ring.toNat = V.NOC_RING_STATUS_state_FAILED ∧
      t.get F.NOC_RING_STATUS_fail_cause ring.toNat = cause.toNat ∧
      t.get F.NOC_RING_STATUS_segment ring.toNat = segment.toNat ∧
      t.get F.NOC_STATUS_rings_up = s.get F.NOC_STATUS_rings_up &&& (0xFF ^^^ 2 ^ ring.toNat) ∧
      t.noc.held = s.noc.held.erase (ring.toNat / 2) ++ [ring.toNat / 2])) ∧
  -- NOC_REROUTE_DONE
  (∀ (s : State) (pair : BitVec 2),
    Gives (.nocRerouteDone pair) s (fun t =>
      t = { s with noc := { s.noc with held := s.noc.held.erase pair.toNat } })) ∧
  -- PROBE_CFG_WRITE
  (∀ (s : State) (p : Path) (q : BitVec 5) (v : Word),
    s.writable p Reg.NOC_PROBE_SRC q.toNat 0 0 v = true →
    bits v.toNat 25 16 ≤ 275 →
    s.on F.NOC_PROBE_CFG_enable q.toNat = false →
    Gives (.probeCfgWrite p 2 q v) s (fun t =>
      t = s.applyWrite p Reg.NOC_PROBE_SRC q.toNat 0 0 v))

/-- DMA operations read and write leaves, sections, cores and queues. The rules are among R538 to R552 (spec/20). What
  the world around the device does stands in the operands (log entry 2). -/
def Obligations.DmaCommandsComplete : Prop :=
  -- DMA_LEAF
  (∀ (s : State) (c : BitVec 8) (waits : Word) (b : DmaBlock) (l : Leaf),
    s.served c.toNat 0 = some b →
    firstFailing (s.dmaLeafChecks c.toNat b false) = none →
    (s.quire b.name2).leaf? b.leaf = some l →
    bit b.flags 1 = false →
    Gives (.dmaLeaf c false waits) s (fun t =>
      t = (s.setCore c.toNat ((s.core c.toNat).setWords b.localAt (toWords (l.header b.name2 ++ l.body)))).dmaEnd
        c.toNat St.OK waits.toNat)) ∧
  -- DMA_RAW_LEAF
  (∀ (s : State) (c : BitVec 8) (waits : Word) (b : DmaBlock) (l : Leaf),
    s.served c.toNat 1 = some b →
    firstFailing (s.dmaLeafChecks c.toNat b true) = none →
    s.rawBlocked (s.coreHolder c.toNat) b.name2 = false →
    (s.quire b.name2).leaf? b.leaf = some l →
    Gives (.dmaRawLeaf c waits) s (fun t =>
      t = (s.setCore c.toNat ((s.core c.toNat).setWords b.localAt (toWords (l.header b.name2 ++ l.cipher
        b.name2)))).dmaEnd c.toNat St.OK waits.toNat)) ∧
  -- DMA_SECTION_READ
  (∀ (s : State) (c : BitVec 8) (data : List Word) (waits : Word) (b : DmaBlock) (u : State),
    s.served c.toNat 2 = some b →
    firstFailing (s.dmaSectionChecks c.toNat b) = none →
    s.nocDown = false →
    u = s.send (.noc
      { op := 0, src := 256 + c.toNat / 16, dst := b.name2, tenant := s.coreHolder c.toNat, addr := b.remote, count := b.length })
        →
    Gives (.dmaSectionRead c data 0 waits) s (fun t =>
      t = (u.setCore c.toNat ((u.core c.toNat).setWords b.localAt ((data.map (fun (w : Word) => w.toNat % 65536)).take
        b.length))).dmaEnd c.toNat St.OK waits.toNat)) ∧
  -- DMA_SECTION_WRITE
  (∀ (s : State) (c : BitVec 8) (waits : Word) (b : DmaBlock),
    s.served c.toNat 3 = some b →
    firstFailing (s.dmaSectionChecks c.toNat b) = none →
    s.nocDown = false →
    Gives (.dmaSectionWrite c false 0 waits) s (fun t =>
      t = (s.windowWrite (256 + c.toNat / 16) b.name2 b.remote (wordBytes ((s.core c.toNat).wordsAt b.localAt
        b.length))).dmaEnd c.toNat (rspStatus 0) waits.toNat)) ∧
  -- DMA_CORE_COPY
  (∀ (s : State) (c : BitVec 8) (waits : Word) (b : DmaBlock) (m : Nat),
    s.served c.toNat 4 = some b →
    m = b.name ∧ m ≤ 255 ∧ m / 16 = c.toNat / 16 ∧ s.coreHolder m = s.coreHolder c.toNat →
    b.zeros = false ∧ b.name2 = 0 ∧ b.lengthBad b.length = false ∧ b.remote + b.length ≤ 32768 ∧ bit b.flags 1 = false
      →
    (s.coreState m = Core.STOPPED ∨ s.coreState m = Core.RUNNING ∨ s.coreState m = Core.WAITING) →
    Gives (.dmaCoreCopy c false waits) s (fun t =>
      t = (s.setCore m ((s.core m).setWords b.remote ((s.core c.toNat).wordsAt b.localAt b.length))).dmaEnd c.toNat
        St.OK waits.toNat)) ∧
  -- DMA_TOKEN_WRITE
  (∀ (s : State) (c : BitVec 8) (waits : Word) (b : DmaBlock),
    s.served c.toNat 5 = some b →
    b.zeros = false ∧ b.name < 1048576 ∧ b.name2 = 0 ∧ b.lengthBad 32 = false ∧ bit b.flags 1 = false →
    s.dqHolder b.name = s.coreHolder c.toNat →
    (s.dq b.name).free ≠ 0 →
    Gives (.dmaTokenWrite c false waits) s (fun t =>
      t = ((s.dqPost b.name (natOf (wordBytes ((s.core c.toNat).wordsAt b.localAt 32))) c.toNat).1.dmaEnd c.toNat
        St.OK waits.toNat).flushTrace)) ∧
  -- DMA_COMPLETE
  (∀ (s : State) (c : BitVec 8) (x : CoreSt) (a v : Nat) (r : List Nat),
    x = s.core c.toNat →
    x.dma = a :: r →
    x.dmaEnd (x.block a) = some v →
    bit (x.block a).flags 0 = false →
    Gives (.dmaComplete c) s (fun t =>
      t = s.setCore c.toNat { x.setWord (a + 1) (v + 256) with dma := r, dmaStatus := none }))

/-- Doorbells, ring setup, descriptors, interrupts and tenants take effect. The rules are among R553 to R579
  (spec/21). What the world around the device does stands in the operands (log entry 2). -/
def Obligations.HostCommandsComplete : Prop :=
  -- SQ_TAIL_DOORBELL
  (∀ (s : State) (tenant : BitVec 8) (ring : BitVec 6) (v : Word) (x : Tenant) (q : Sq),
    s.dead = false ∧ s.funcOn tenant.toNat = true →
    x = s.ten tenant.toNat ∧ q = Tbl.get {} x.sq ring.toNat →
    q.present = true ∧ v.toNat < 2 ^ q.log2 →
    Gives (.sqTailDoorbell tenant ring v) s (fun t =>
      t = s.setTen tenant.toNat { x with sq := Tbl.set {} ring.toNat { q with tail := v.toNat } x.sq })) ∧
  -- CQ_HEAD_DOORBELL
  (∀ (s : State) (tenant : BitVec 8) (ring : BitVec 6) (v : Word) (x : Tenant) (c : Cq),
    s.dead = false ∧ s.funcOn tenant.toNat = true →
    x = s.ten tenant.toNat ∧ c = Tbl.get {} x.cq ring.toNat →
    c.present = true ∧ v.toNat < 2 ^ c.log2 →
    (v.toNat + 2 ^ c.log2 - c.head) % 2 ^ c.log2 ≤ (c.tail + 2 ^ c.log2 - c.head) % 2 ^ c.log2 →
    Gives (.cqHeadDoorbell tenant ring v) s (fun t =>
      t = s.setTen tenant.toNat { x with cq := Tbl.set {} ring.toNat { c with head := v.toNat } x.cq })) ∧
  -- SETUP_RING0
  (∀ (s : State) (tenant : BitVec 8) (v : Word) (x : Tenant) (k : Nat),
    s.dead = false ∧ s.funcOn tenant.toNat = true →
    bit v.toNat 31 = true ∧ k = bits v.toNat 20 16 ∧ 6 ≤ k ∧ k ≤ 16 →
    6 ≤ bits v.toNat 12 8 ∧ bits v.toNat 12 8 ≤ 16 →
    x = { s.ten tenant.toNat with setupCtrl := v &&& 0x001F1F3F#32 } →
    x.setupSq.toNat % 4096 = 0 ∧ x.setupCq.toNat % 4096 = 0 →
    (Tbl.get {} x.sq 0).outstanding = [] →
    Gives (.setupRing0 tenant v) s (fun t =>
      t.get F.HIF_TENANT_STATUS_ring0_up tenant.toNat = 1 ∧
      (∃ u : Tenant, u =
        { x with sq := Tbl.set {} 0 { present := true, base := x.setupSq, log2 := k, cq := 0 } x.sq, cq := Tbl.set {} 0 { present := true, base := x.setupCq, log2 := bits v.toNat 12 8, vector := bits v.toNat 5 0, reserved := (Tbl.get {} x.cq 0).reserved } x.cq, ringErr := x.ringErr &&& 0xFFFFFFFFFFFFFFFE#64 }
          ∧ t = ((s.setTen tenant.toNat x).setTen tenant.toNat u).showRing0 tenant.toNat))) ∧
  -- DESCRIPTOR_ACCEPT
  (∀ (s : State) (tenant : BitVec 8) (ring : BitVec 6) (header : Word) (x : Tenant) (q : Sq) (c : Cq),
    s.dead = false ∧ x = s.ten tenant.toNat ∧ q = Tbl.get {} x.sq ring.toNat ∧ c = Tbl.get {} x.cq q.cq →
    q.present = true ∧ q.error = false ∧ q.head ≠ q.tail ∧ x.bme = true →
    ((x.sq.map (fun (p : Nat × Sq) => p.2.outstanding.length)).sum < 4096) →
    (c.tail + 2 ^ c.log2 - c.head) % 2 ^ c.log2 + c.reserved + 2 ≤ 2 ^ c.log2 →
    bit header.toNat 8 = false →
    bits header.toNat 7 0 ∈ opcodes ∧ bits header.toNat 7 0 ≠ 0x27 →
    Gives (.descriptorAccept tenant ring header false) s (fun t =>
      ∃ y : Tenant, y =
        { x with sq := Tbl.set {} ring.toNat { q with head := (q.head + 1) % 2 ^ q.log2, outstanding := q.outstanding ++ [q.head] } x.sq, cq := Tbl.set {} q.cq { c with reserved := c.reserved + 1 } x.cq }
          ∧ t = (s.setTen tenant.toNat y).countOutstanding tenant.toNat)) ∧
  -- HOST_READ_FAILURE
  (∀ (s : State) (tenant : BitVec 8) (ring : BitVec 6),
    (Tbl.get {} (s.ten tenant.toNat).sq ring.toNat).present = true →
    Gives (.hostReadFailure (.fetch tenant ring)) s (fun t =>
      t = s.sqError tenant.toNat ring.toNat)) ∧
  -- MSIX_COALESCE_TIMEOUT
  (∀ (s : State) (tenant : BitVec 8) (cq : BitVec 6) (x : Tenant) (c : Cq),
    x = s.ten tenant.toNat ∧ c = Tbl.get {} x.cq cq.toNat →
    c.present = true ∧ c.n ≠ 0 ∧ c.tau ≠ 0 ∧ c.since ≠ 0 →
    Gives (.msixCoalesceTimeout tenant cq) s (fun t =>
      t = (s.setTen tenant.toNat { x with cq := Tbl.set {} cq.toNat { c with since := 0 } x.cq }).msix tenant.toNat
        c.vector)) ∧
  -- NOP_DESCRIPTOR
  (∀ (s : State) (d : Desc),
    s.admits d = true →
    Gives (.nopDescriptor d) s (fun t =>
      t = s.ok d)) ∧
  -- RING_CREATE
  (∀ (s : State) (d : Desc) (ring log2 bound : BitVec 8) (base : BitVec 64) (n tau : BitVec 8) (x : Tenant),
    s.admits d = true →
    x = s.ten d.tenant.toNat →
    1 ≤ ring.toNat ∧ ring.toNat ≤ 63 ∧ 6 ≤ log2.toNat ∧ log2.toNat ≤ 16 ∧ base.toNat % 4096 = 0 →
    bound.toNat ≤ 63 ∧ (Tbl.get {} x.cq ring.toNat).present = false →
    Gives (.ringCreate d ring true log2 bound base n tau) s (fun t =>
      t = (s.setTen d.tenant.toNat
        { x with cq := Tbl.set {} ring.toNat { present := true, base := base, log2 := log2.toNat, vector := bound.toNat, n := n.toNat, tau := tau.toNat } x.cq }).ok
          d)) ∧
  (∀ (s : State) (d : Desc) (ring log2 bound : BitVec 8) (base : BitVec 64) (n tau : BitVec 8) (x : Tenant),
    s.admits d = true →
    x = s.ten d.tenant.toNat →
    1 ≤ ring.toNat ∧ ring.toNat ≤ 63 ∧ 6 ≤ log2.toNat ∧ log2.toNat ≤ 16 ∧ base.toNat % 4096 = 0 →
    (Tbl.get {} x.cq bound.toNat).present = true ∧ (Tbl.get {} x.sq ring.toNat).present = false →
    Gives (.ringCreate d ring false log2 bound base n tau) s (fun t =>
      t = (s.setTen d.tenant.toNat
        { x with sq := Tbl.set {} ring.toNat { present := true, base := base, log2 := log2.toNat, cq := bound.toNat } x.sq }).ok
          d)) ∧
  -- RING_DELETE
  (∀ (s : State) (d : Desc) (ring : BitVec 8) (x : Tenant),
    s.admits d = true →
    x = s.ten d.tenant.toNat →
    1 ≤ ring.toNat ∧ ring.toNat ≤ 63 ∧ (Tbl.get {} x.cq ring.toNat).present = true →
    (x.sq.any (fun p => p.2.present && p.2.cq == ring.toNat) = false) →
    Gives (.ringDelete d ring true) s (fun t =>
      t = (s.setTen d.tenant.toNat { x with cq := Tbl.set {} ring.toNat {} x.cq }).ok d)) ∧
  -- BUS_MASTER_ENABLE_CHANGE
  (∀ (s : State) (tenant : BitVec 8) (x : Tenant),
    s.dead = false ∧ s.funcOn tenant.toNat = true ∧ x = s.ten tenant.toNat →
    Gives (.busMasterEnableChange tenant true) s (fun t =>
      t = (s.setTen tenant.toNat { x with bme := true, withheld := [] }).each x.withheld (fun s o => s.send o))) ∧
  -- VF_ENABLE
  (∀ (s : State),
    s.dead = false ∧ (s.ten 1).vfEnabled = false ∧ (s.ten 1).resetStep = 0 →
    Gives (.vfEnable 1) s (fun t =>
      ∃ u : State, u = (s.setTen 1 { s.ten 1 with vfEnabled := true }).put F.HIF_TENANT_STATUS_state 1 1 ∧ t = u.put
        F.HIF_LINK_STATUS_num_vfs (Nat.max 1 (u.get F.HIF_LINK_STATUS_num_vfs)))) ∧
  -- TENANT_SET
  (∀ (s : State) (d : Desc) (tenant : BitVec 8) (w0 w1 w2 w3 w4 : Word),
    s.admits d = true ∧ s.mgmtUp = true ∧ d.tenant = 0 →
    s.writable (.descriptor 0) Reg.CAP_QUOTA_FRONT tenant.toNat 0 0 w0 = true →
    Gives (.tenantSet d tenant 1 w0 w1 w2 w3 w4) s (fun t =>
      t = (s.applyWrite (.descriptor 0) Reg.CAP_QUOTA_FRONT tenant.toNat 0 0 w0).ok d)) ∧
  -- QUERY
  (∀ (s : State) (d : Desc) (index : Word) (buffer : BitVec 64),
    s.admits d = true →
    index.toNat < 524288 ∧ (s.quire index.toNat).state ≠ Qr.FREE ∧ (s.quire index.toNat).tenant = d.tenant.toNat →
    Gives (.query d 1 index buffer) s (fun t =>
      t = (s.hostWrite d.tenant.toNat buffer.toNat (quireBytes (s.quire index.toNat))).ok d (quireBytes (s.quire
        index.toNat)).length))

/-- Grants, revokes, function resets and the host link take effect. The rules are among R553 to R579 (spec/21). What
  the world around the device does stands in the operands (log entry 2). -/
def Obligations.GrantAndResetCommandsComplete : Prop :=
  -- GRANT
  (∀ (s : State) (d : Desc) (ty tenant : BitVec 8) (first count : Word),
    s.admits d = true ∧ s.mgmtUp = true ∧ d.tenant = 0 →
    0 < count.toNat ∧ first.toNat + count.toNat ≤ unitCount ty.toNat ∧ tenant ≠ 0 →
    s.get F.HIF_TENANT_STATUS_state tenant.toNat = 1 →
    (((upTo count.toNat).map (· + first.toNat)).all (fun i => s.unitOwner ty.toNat i == 0 && !s.unitUsed ty.toNat i) =
      true) →
    Gives (.grant d ty tenant first count) s (fun t =>
      t = s.moveUnits d ty.toNat first.toNat count.toNat tenant.toNat)) ∧
  -- REVOKE
  (∀ (s : State) (d : Desc) (ty tenant : BitVec 8) (first count : Word),
    s.admits d = true ∧ s.mgmtUp = true ∧ d.tenant = 0 →
    0 < count.toNat ∧ first.toNat + count.toNat ≤ unitCount ty.toNat ∧ tenant ≠ 0 →
    (((upTo count.toNat).map (· + first.toNat)).all (fun i => s.unitOwner ty.toNat i == tenant.toNat && !s.unitUsed
      ty.toNat i) = true) →
    Gives (.revoke d ty tenant first count) s (fun t =>
      t = s.moveUnits d ty.toNat first.toNat count.toNat 0)) ∧
  -- SECTION_CLEAR_DONE
  (∀ (s : State) (sec : BitVec 8),
    s.sect sec.toNat = Sec.CLEARING ∧ s.domOn (domSection sec.toNat) = true →
    s.fab.loads = [] →
    Gives (.sectionClearDone sec) s (fun t =>
      t = (((s.sectBlank sec.toNat).setSect sec.toNat Sec.EMPTY).sectWake sec.toNat St.OK).movesEnd.resetsEnd)) ∧
  -- FLR_VF
  (∀ (s : State) (tenant : BitVec 8),
    s.dead = false ∧ tenant ≠ 0 ∧ (s.ten tenant.toNat).vfEnabled = true ∧ (s.ten tenant.toNat).resetStep = 0 →
    Gives (.flrVf tenant) s (fun t =>
      t = s.resetBegin tenant.toNat)) ∧
  -- FLR_QUIRE_RELEASE
  (∀ (s : State) (tenant : BitVec 8),
    s.dead = false ∧ tenant ≠ 0 ∧ (s.ten tenant.toNat).resetStep = 1 →
    (s.cap.streams.all (fun p => s.strmHolder p.1 != tenant.toNat || s.strmState p.1 == Strm.CLOSED) = true) →
    Gives (.flrQuireRelease tenant) s (fun t =>
      t = s.resetRelease tenant.toNat)) ∧
  -- VF_DISABLE
  (∀ (s : State) (n : BitVec 8),
    s.dead = false →
    Gives (.vfDisable n) s (fun t =>
      t = s.vfsDown n.toNat)) ∧
  -- FLR_PF0
  (∀ (s : State),
    s.dead = false →
    Gives (.flrPf0) s (fun t =>
      t = s.resetPf0)) ∧
  -- PERST_N_ASSERT
  (∀ (s : State),
    s.dead = false →
    Gives (.perstNAssert) s (fun t =>
      t = (s.linkDown.put F.HIF_LINK_STATUS_perst_n 0).resetPf0)) ∧
  -- PERST_N_RELEASE
  (∀ (s : State),
    s.dead = false ∧ s.on F.HIF_LINK_STATUS_perst_n = false →
    s.boot.endedS03 = true ∧ s.hostless = false →
    Gives (.perstNRelease) s (fun t =>
      ∃ u : State, u = (s.put F.HIF_LINK_STATUS_perst_n 1).put F.HIF_LINK_STATUS_state
        V.HIF_LINK_STATUS_state_TRAINING ∧ t = { u with boot := { u.boot with active := u.boot.active ++ [3] } })) ∧
  -- HOST_LINK_LOSS
  (∀ (s : State),
    s.dead = false ∧ s.get F.HIF_LINK_STATUS_state = V.HIF_LINK_STATUS_state_UP →
    Gives (.hostLinkLoss) s (fun t =>
      t = s.linkDown.put F.HIF_TENANT_STATUS_state 0 0)) ∧
  -- LINK_LOSS_TIMEOUT
  (∀ (s : State),
    s.dead = false ∧ s.hostless = false ∧ s.get F.HIF_LINK_STATUS_state ≠ V.HIF_LINK_STATUS_state_UP →
    s.on F.HIF_LINK_STATUS_perst_n = true →
    Gives (.linkLossTimeout) s (fun t =>
      t = s.resetPf0)) ∧
  -- HOST_LINK_UP
  (∀ (s : State) (rate : BitVec 4) (width : BitVec 7) (flit : Bool),
    s.dead = false ∧ s.hostless = false ∧ s.get F.HIF_LINK_STATUS_state ≠ V.HIF_LINK_STATUS_state_UP →
    s.on F.HIF_LINK_STATUS_perst_n = true ∧ 3 ∉ s.boot.active →
    Gives (.hostLinkUp rate width flit) s (fun t =>
      t = s.linkUp rate.toNat width.toNat flit)) ∧
  -- IMAGE_WRITE
  (∀ (s : State) (d : Desc) (slot : BitVec 8) (offset length : Word) (rollback : BitVec 7) (map : BitVec 256),
    s.admits d = true ∧ s.mgmtUp = true ∧ d.tenant = 0 ∧ d.readFail = false ∧ s.noFirmware = false →
    slot.toNat ≤ 3 ∧ offset.toNat % 4 = 0 ∧ length.toNat % 4 = 0 ∧ 0 < length.toNat ∧ length.toNat ≤ 1048576 →
    (offset.toNat + length.toNat ≤ (if slot.toNat ≤ 1 then 0x800000 else 0x6000000)) →
    (s.boot.fwRunning ≠ slot.toNat + 2 ∧ (slot.toNat ≤ 1 ∨ s.boot.fabRunning + 1 ≠ slot.toNat)) →
    Gives (.imageWrite d slot true true offset length 0 rollback map) s (fun t =>
      (Tbl.get {} t.colo.slots (slot.toNat + 1)) = { state := 2, rollback := rollback.toNat, sectionMap := map.toNat }
        ∧
      t.boot.writing = none ∧
      t.get F.BOOT_EVENTS_slot_written = 1))

/-- Brynust ports train and fail, and their flits and remote accesses take effect. The rules are among R580 to R598
  (spec/22). What the world around the device does stands in the operands (log entry 2). -/
def Obligations.BrynustCommandsComplete : Prop :=
  -- BRY_PORT_TRAINED
  (∀ (s : State) (port : BitVec 2) (ringId : BitVec 16) (size : BitVec 4) (number : BitVec 3) (bad : BitVec 8) (far :
    BitVec 3) (reach : BitVec 8) (u : State),
    s.portUsed port.toNat = true ∧ s.domOn (domBry port.toNat) = true →
    (s.get F.BRY_PORT_STATUS_state port.toNat = Bry.DOWN ∨ s.get F.BRY_PORT_STATUS_state port.toNat = Bry.TRAINING) →
    s.encrypts port.toNat = false →
    ringId.toNat = bits (s.boot.ringAtStart.getD 0#32).toNat 15 0 ∧ size.toNat = s.ringSize ∧ number.toNat =
      s.neighbour port.toNat →
    (bad.toNat % 16 = 0 ∨ bad.toNat / 16 = 0) →
    (u = (((s.put F.BRY_PORT_STATUS_partner number.toNat port.toNat).ev F.BRY_PORT_STATUS_partner_valid
      port.toNat).setBryPort port.toNat {}).put F.BRY_PORT_STATUS_x4 (if bad = 0 then 0 else 1) port.toNat) →
    Gives (.bryPortTrained port ringId size number bad false far reach) s (fun t =>
      t = (((u.setPort port.toNat Bry.UP V.BRY_PORT_STATUS_cause_NONE).ev F.BRY_PORT_EVENTS_up port.toNat).setSession
        port.toNat V.SEC_LINK_STATUS_state_CLEAR 0).ringState far.toNat reach.toNat)) ∧
  -- BRY_NO_PARTNER_RETRY
  (∀ (s : State) (port : BitVec 2),
    s.portUsed port.toNat = true ∧ s.domOn (domBry port.toNat) = true →
    (s.get F.BRY_PORT_STATUS_state port.toNat = Bry.DOWN ∨ s.get F.BRY_PORT_STATUS_state port.toNat = Bry.TRAINING) →
    Gives (.bryNoPartnerRetry port) s (fun t =>
      t = (s.setPort port.toNat Bry.DOWN V.BRY_PORT_STATUS_cause_NO_PARTNER).ringState s.bry.farDown (s.get
        F.BRY_RING_STATUS_reachable))) ∧
  -- BRY_PORT_DOWN
  (∀ (s : State) (port : BitVec 2) (far : BitVec 3) (reach : BitVec 8),
    (s.get F.BRY_PORT_STATUS_state port.toNat = Bry.UP ∨ s.get F.BRY_PORT_STATUS_state port.toNat = Bry.RETRAINING) →
    Gives (.bryPortDown port true far reach) s (fun t =>
      t = (s.portDown port.toNat V.BRY_PORT_STATUS_cause_NONE).ringState far.toNat reach.toNat)) ∧
  -- FLIT_IDLE
  (∀ (s : State) (f : FlitArg) (x : BryPort),
    (s.dead = false ∧ s.portUp f.port.toNat = true ∧ f.check = 0) →
    (x = (s.bryPort f.port.toNat).acked f.ack.toNat) →
    Gives (.flitIdle f) s (fun t =>
      t = s.setBryPort f.port.toNat x)) ∧
  -- FLIT_NOC
  (∀ (s : State) (f : FlitArg) (origin dest : BitVec 3) (vc : BitVec 2) (data : BitVec 512) (source : BitVec 16) (x :
    BryPort) (u : State),
    (s.dead = false ∧ s.portUp f.port.toNat = true ∧ f.check = 0) →
    (x = (s.bryPort f.port.toNat).acked f.ack.toNat) →
    (f.seq.toNat = (x.ack + 1) % 4096 ∧ u = s.setBryPort f.port.toNat { x with ack := f.seq.toNat }) →
    dest.toNat ≠ s.device ∧ s.portUp (across f.port.toNat) = true →
    u.bryPort f.port.toNat = { x with ack := f.seq.toNat } ∧ u.device = s.device ∧ u.portUp (across f.port.toNat) =
      true →
    Tbl.get [] x.asm (64 * origin.toNat + 8 * dest.toNat + vc.toNat) = [] ∧ 0 < bits data.toNat 24 22 →
    Gives (.flitNoc f origin dest vc data source) s (fun t =>
      t = ((u.setBryPort f.port.toNat
        { x with ack := f.seq.toNat, asm := Tbl.set [] (64 * origin.toNat + 8 * dest.toNat + vc.toNat) [data.toNat] x.asm }).sendFlit
          (across f.port.toNat) Flit.NOC origin.toNat [dest.toNat, 1, data.toNat]).flushTrace)) ∧
  -- FLIT_NAK
  (∀ (s : State) (f : FlitArg) (from' : BitVec 12) (x : BryPort),
    (s.dead = false ∧ s.portUp f.port.toNat = true ∧ f.check = 0) →
    (x = (s.bryPort f.port.toNat).acked f.ack.toNat) →
    s.get F.SEC_LINK_STATUS_state f.port.toNat ≠ V.SEC_LINK_STATUS_state_ENCRYPTED →
    x.lastNak ≠ some from'.toNat →
    Gives (.flitNak f from') s (fun t =>
      t = ((((s.setBryPort f.port.toNat x).setBryPort f.port.toNat
        { x with lastNak := some from'.toNat, naks := 1 }).cnt F.BRY_REPLAYS_value 1 f.port.toNat).each
          (x.replay.dropWhile (fun e => e.1 != from'.toNat)) (fun s e => s.send (.flit f.port.toNat e.2.1 e.2.2.1 e.1
          e.2.2.2))))) ∧
  -- FLIT_TIME
  (∀ (s : State) (f : FlitArg) (t1 t2 t3 t4 : BitVec 64) (d : BitVec 16) (x : BryPort) (u : State),
    (s.dead = false ∧ s.portUp f.port.toNat = true ∧ f.check = 0) →
    (x = (s.bryPort f.port.toNat).acked f.ack.toNat) →
    (f.seq.toNat = (x.ack + 1) % 4096 ∧ u = s.setBryPort f.port.toNat { x with ack := f.seq.toNat }) →
    f.port.toNat % 2 = 1 →
    u.role ≠ V.BRY_RING_CFG_role_MEMBER →
    Gives (.flitTime f t1 t2 t3 t4 d) s (fun t =>
      t = (u.sendFlit f.port.toNat Flit.TIME u.device [t2.toNat, t3.toNat]).put F.BRY_DELAY_value d.toNat
        f.port.toNat)) ∧
  -- FLIT_TRAIN
  (∀ (s : State) (f : FlitArg),
    s.dead = false ∧ s.portUsed f.port.toNat = true ∧ s.domOn (domBry f.port.toNat) = true →
    f.check = 0 →
    s.get F.BRY_PORT_STATUS_state f.port.toNat = Bry.DOWN →
    Gives (.flitTrain f) s (fun t =>
      t = (s.setPort f.port.toNat Bry.TRAINING V.BRY_PORT_STATUS_cause_NONE).ringState s.bry.farDown (s.get
        F.BRY_RING_STATUS_reachable))) ∧
  -- BRY_RETRAIN_DONE
  (∀ (s : State) (port : BitVec 2) (x : BryPort) (u : State),
    s.get F.BRY_PORT_STATUS_state port.toNat = Bry.RETRAINING →
    s.encrypts port.toNat = false →
    x = s.bryPort port.toNat →
    ((x.retrains.filter (fun t => decide (s.now < t + 64000000))).length < 3) →
    (u = s.setBryPort port.toNat { x with retrains := x.retrains.filter (fun t => decide (s.now < t + 64000000)) }) →
    u.encrypts port.toNat = false →
    Gives (.bryRetrainDone port) s (fun t =>
      ∃ y, y = (((u.setPort port.toNat Bry.UP 0).ev F.BRY_PORT_EVENTS_up port.toNat).ev F.BRY_PORT_EVENTS_retrained
        port.toNat).each x.replay (fun s e => s.send (.flit port.toNat e.2.1 e.2.2.1 e.1 e.2.2.2)) ∧ t = y.ringState
          y.bry.farDown (y.get F.BRY_RING_STATUS_reachable))) ∧
  -- LINK_SESSION_ROLLOVER
  (∀ (s : State) (port : BitVec 2),
    s.portUp port.toNat = true ∧ s.get F.SEC_LINK_STATUS_state port.toNat = V.SEC_LINK_STATUS_state_ENCRYPTED →
    Gives (.linkSessionRollover port) s (fun t =>
      t = (s.retrain port.toNat).ringState s.bry.farDown (s.get F.BRY_RING_STATUS_reachable))) ∧
  -- BRY_TIME_EXCHANGE
  (∀ (s : State),
    s.portUp 0 = true ∧ s.portUp 2 = false →
    ((s.setBryPort 0 { s.bryPort 0 with t1 := s.now }).sendFlit 0 Flit.TIME s.device [s.now]).portUp 2 = false →
    Gives (.bryTimeExchange) s (fun t =>
      t = (s.setBryPort 0 { s.bryPort 0 with t1 := s.now }).sendFlit 0 Flit.TIME s.device [s.now])) ∧
  -- FLIT_LINE
  (∀ (s : State) (f : FlitArg) (origin : BitVec 3) (number : Word) (line : BitVec 5) (e : BitVec 64) (x : BryPort) (u
    : State),
    (s.dead = false ∧ s.portUp f.port.toNat = true ∧ f.check = 0) →
    (x = (s.bryPort f.port.toNat).acked f.ack.toNat) →
    (f.seq.toNat = (x.ack + 1) % 4096 ∧ u = s.setBryPort f.port.toNat { x with ack := f.seq.toNat }) →
    origin.toNat ≠ u.device ∧ u.portUp (across f.port.toNat) = false →
    (u.bry.seen.find? (fun k => k.1 == origin.toNat && k.2.1 == number.toNat) = none) →
    u.ringLine line.toNat = true ∧ u.now ≤ e.toNat + 64 * u.get F.BRY_LINE_DELAY_value →
    Gives (.flitLine f origin number line e) s (fun t =>
      t =
        ({ u with bry := { u.bry with seen := u.bry.seen ++ [(origin.toNat, number.toNat, [line.toNat, e.toNat])] } }).lineAt
          line.toNat (e.toNat + 64 * u.get F.BRY_LINE_DELAY_value))) ∧
  -- FLIT_BCAST
  (∀ (s : State) (f : FlitArg) (origin : BitVec 3) (number : Word) (value e : BitVec 64) (x : BryPort) (u : State),
    (s.dead = false ∧ s.portUp f.port.toNat = true ∧ f.check = 0) →
    (x = (s.bryPort f.port.toNat).acked f.ack.toNat) →
    (f.seq.toNat = (x.ack + 1) % 4096 ∧ u = s.setBryPort f.port.toNat { x with ack := f.seq.toNat }) →
    origin.toNat ≠ u.device ∧ u.portUp (across f.port.toNat) = false →
    (u.bry.seen.find? (fun k => k.1 == origin.toNat && k.2.1 == number.toNat) = none) →
    u.now ≤ e.toNat →
    Gives (.flitBcast f origin number 1 value e) s (fun t =>
      t =
        { u with bry := { u.bry with seen := u.bry.seen ++ [(origin.toNat, number.toNat, [1, value.toNat, e.toNat])] }, clk := { u.clk with pending := some { step := true, value := value, at? := some e } } }))
          ∧
  -- FLIT_TUNNEL
  (∀ (s : State) (f : FlitArg) (origin dest : BitVec 3) (addr : BitVec 64) (length : BitVec 16) (bytes : List (BitVec
    8)) (x : BryPort) (u : State),
    (s.dead = false ∧ s.portUp f.port.toNat = true ∧ f.check = 0) →
    (x = (s.bryPort f.port.toNat).acked f.ack.toNat) →
    (f.seq.toNat = (x.ack + 1) % 4096 ∧ u = s.setBryPort f.port.toNat { x with ack := f.seq.toNat }) →
    dest.toNat = u.device ∧ u.role = V.BRY_RING_CFG_role_MASTER →
    Gives (.flitTunnel f origin dest true addr length bytes) s (fun t =>
      t = u.hostWrite 0 addr.toNat (bytes.map BitVec.toNat))) ∧
  -- RMT_ACCESS
  (∀ (s : State) (p : Path) (v : Word) (u : State),
    s.writable p Reg.BRY_RMT_CTRL 0 0 0 (v ||| 0x80000000#32) = true →
    s.bry.rmt = false →
    u = s.applyWrite p Reg.BRY_RMT_CTRL 0 0 0 (v ||| 0x80000000#32) →
    u.on F.BRY_RMT_CTRL_go = true ∧ u.bry.rmt = false →
    u.rmtRefused (u.get F.BRY_RMT_CTRL_device) = false →
    Gives (.rmtAccess p v) s (fun t =>
      t.bry = { s.bry with rmt := true } ∧
      t.regs = u.regs)) ∧
  -- RMT_ACCESS_END
  (∀ (s : State) (data : Word),
    s.bry.rmt = true ∧ s.on F.BRY_RMT_CTRL_write = false →
    Gives (.rmtAccessEnd 0 data) s (fun t =>
      t = (s.setWord Reg.BRY_RMT_DATA data).rmtEnd V.BRY_RMT_CTRL_result_OK))

/-- Management faults, log writes and log windows take effect. The rules are among R599 to R617 (spec/23). What the
  world around the device does stands in the operands (log entry 2). -/
def Obligations.FaultCommandsComplete : Prop :=
  -- MGMT_MISMATCH
  (∀ (s : State),
    s.get F.RAS_STATUS_mgmt_state = V.RAS_STATUS_mgmt_state_PAIRED →
    Gives (.mgmtMismatch) s (fun t =>
      t = ((s.put F.RAS_STATUS_mgmt_state V.RAS_STATUS_mgmt_state_FAILOVER).ev F.RAS_EVENTS_mgmt_failover).fault 8
        false)) ∧
  -- MGMT_SELFTEST_DONE
  (∀ (s : State),
    s.get F.RAS_STATUS_mgmt_state = V.RAS_STATUS_mgmt_state_FAILOVER →
    Gives (.mgmtSelftestDone true true) s (fun t =>
      t = (s.put F.RAS_STATUS_mgmt_state V.RAS_STATUS_mgmt_state_PAIRED).log 0x70 1 0 [2])) ∧
  -- MGMT_SINGLE_FAILURE
  (∀ (s : State),
    s.get F.RAS_STATUS_mgmt_state = V.RAS_STATUS_mgmt_state_SINGLE →
    Gives (.mgmtSingleFailure) s (fun t =>
      t.get F.RAS_STATUS_mgmt_state = V.RAS_STATUS_mgmt_state_FAILED ∧
      t = s.mgmtFails)) ∧
  -- LOG_WRITE
  (∀ (s : State) (e : LogEntry) (r : List LogEntry),
    s.ras.buffer = e :: r →
    s.ras.lost = 0 →
    Gives (.logWrite) s (fun t =>
      t = (({ s with ras := { s.ras with buffer := r } }).storeEntry e).logRibbon e e.seq)) ∧
  -- LOG_WINDOW_CLOSE
  (∀ (s : State) (code unit : BitVec 16) (w : LogWindow),
    (s.ras.windows.find? (fun w => w.code == code.toNat && w.unit == unit.toNat) = some w) →
    0 < w.suppressed →
    Gives (.logWindowClose code unit) s (fun t =>
      t =
        ((({ s with ras := { s.ras with windows := s.ras.windows.filter (fun w => !(w.code == code.toNat && w.unit == unit.toNat)) } }).log
          0xF0 0 w.unit [w.code, w.suppressed]).ev F.RAS_EVENTS_log_suppressed)))

/-- Power domains, votes, idle, sleep and off requests take effect. The rules are among R618 to R642 (spec/24). What
  the world around the device does stands in the operands (log entry 2). -/
def Obligations.PowerCommandsComplete : Prop :=
  -- DOMAIN_FENCE_END
  (∀ (s : State) (n : BitVec 9),
    n.toNat < 471 →
    s.dom n.toNat = V.PWR_DOMAIN_STATUS_state_FENCING →
    Gives (.domainFenceEnd n) s (fun t =>
      t = (s.fenceEnd n.toNat).put F.PWR_DOMAIN_STATUS_state V.PWR_DOMAIN_STATUS_state_ENTERING n.toNat)) ∧
  -- DOMAIN_STATE_REACHED
  (∀ (s : State) (n : BitVec 9),
    n.toNat < 471 →
    (s.dom n.toNat = V.PWR_DOMAIN_STATUS_state_ENTERING ∨ s.dom n.toNat = V.PWR_DOMAIN_STATUS_state_WAKING) →
    Gives (.domainStateReached n) s (fun t =>
      t = s.domSettle n.toNat (s.domGoal n.toNat))) ∧
  -- VOTE_WITHDRAWAL
  (∀ (s : State) (k : BitVec 8) (n : BitVec 9),
    n.toNat < 471 ∧ k ≠ 0 →
    Tbl.get 0 s.pwr.votes (256 * n.toNat + k.toNat) ≠ 0 ∧ s.holdsIn k.toNat n.toNat = false →
    Gives (.voteWithdrawal k n) s (fun t =>
      t = ({ s with pwr := { s.pwr with votes := Tbl.set 0 (256 * n.toNat + k.toNat) 0 s.pwr.votes } }).voteEnds
        n.toNat)) ∧
  -- DEFERRED_LOWERING
  (∀ (s : State) (n : BitVec 9),
    n.toNat < 471 ∧ s.on F.PWR_DOMAIN_STATUS_deferred n.toNat = true →
    s.inUse n.toNat (s.wanted n.toNat) = false →
    Gives (.deferredLowering n) s (fun t =>
      t = (s.clr F.PWR_DOMAIN_STATUS_deferred n.toNat).drive n.toNat)) ∧
  -- CLOCK_GATE
  (∀ (s : State) (n : BitVec 9),
    n.toNat < 471 ∧ s.domOn n.toNat = true ∧ n.toNat ∉ s.pwr.gated →
    Gives (.clockGate n) s (fun t =>
      t = { s with pwr := { s.pwr with gated := s.pwr.gated ++ [n.toNat] } })) ∧
  -- IDLE_ENTRY
  (∀ (s : State),
    s.dead = false ∧ s.devState = V.PWR_DEV_STATUS_state_RUN ∧ s.on F.PWR_IDLE_CFG_enable = true →
    s.idleNow none = true ∧ s.recovering = false →
    Gives (.idleEntry) s (fun t =>
      t = s.setDev V.PWR_DEV_STATUS_state_IDLE)) ∧
  -- IDLE_EXIT
  (∀ (s : State),
    s.devState = V.PWR_DEV_STATUS_state_IDLE →
    Gives (.idleExit) s (fun t =>
      t = ({ s with pwr := { s.pwr with gated := [] } }).setDev V.PWR_DEV_STATUS_state_RUN)) ∧
  -- SLEEP_REQUEST
  (∀ (s : State) (d : Desc),
    s.admits d = true ∧ s.mgmtUp = true ∧ d.tenant = 0 →
    s.devBusy 0 (some d) = false ∧ s.emulates 0 = false →
    Gives (.sleepRequest (.inl d)) s (fun t =>
      ∃ u : State, u =
        (((({ s with pwr := { s.pwr with request := some { target := 0, desc := some d }, wake := none } }).setDev
          V.PWR_DEV_STATUS_state_ENTERING).put F.PWR_DEV_STATUS_last_wake V.PWR_DEV_STATUS_last_wake_NONE).put
          F.PWR_DEV_STATUS_woke_after_commit 0) ∧ t = u.each (s.lowered 0) (fun s p => s.domChange p.1
          V.PWR_DOMAIN_STATUS_state_FENCING p.2))) ∧
  -- DEEP_SLEEP_REQUEST
  (∀ (s : State) (d : Desc),
    s.admits d = true ∧ s.mgmtUp = true ∧ d.tenant = 0 →
    s.devBusy 1 (some d) = false ∧ s.emulates 1 = false →
    Gives (.deepSleepRequest (.inl d)) s (fun t =>
      ∃ u : State, u =
        (((({ s with pwr := { s.pwr with request := some { target := 1, desc := some d }, wake := none } }).setDev
          V.PWR_DEV_STATUS_state_ENTERING).put F.PWR_DEV_STATUS_last_wake V.PWR_DEV_STATUS_last_wake_NONE).put
          F.PWR_DEV_STATUS_woke_after_commit 0) ∧ t = u.each (s.lowered 1) (fun s p => s.domChange p.1
          V.PWR_DOMAIN_STATUS_state_FENCING p.2))) ∧
  -- OFF_REQUEST
  (∀ (s : State) (d : Desc),
    s.admits d = true ∧ s.mgmtUp = true ∧ d.tenant = 0 →
    s.devBusy 2 (some d) = false →
    Gives (.offRequest (.inl d)) s (fun t =>
      t = (((({ s with pwr := { s.pwr with request := some { target := 2, desc := some d }, wake := none } }).setDev
        V.PWR_DEV_STATUS_state_ENTERING).put F.PWR_DEV_STATUS_last_wake V.PWR_DEV_STATUS_last_wake_NONE).put
          F.PWR_DEV_STATUS_woke_after_commit 0))) ∧
  -- POWER_VOTE
  (∀ (s : State) (d : Desc) (kind : BitVec 8) (index : BitVec 16) (v : BitVec 8) (n : Nat),
    s.admits d = true ∧ s.mgmtUp = true →
    kind ≠ 0xF ∧ domainOf kind.toNat index.toNat = some n →
    s.holdsIn d.tenant.toNat n = true →
    v.toNat ≤ 2 ∧ ¬ (kind = 7 ∧ v = 1) →
    s.dom n ≠ V.PWR_DOMAIN_STATUS_state_WAKING →
    s.inUse n ((s.setVote n d.tenant.toNat v.toNat).wanted n) = false →
    Gives (.powerVote (.inl d) kind index v false) s (fun t =>
      ∃ u : State, u = s.setVote n d.tenant.toNat v.toNat ∧ t =
        ({ u with pwr := { u.pwr with waits := u.pwr.waits ++ [({ domain := n, desc := some d } : VoteWait)] } }).drive
          n)) ∧
  -- ENTRY_COMMIT_POINT
  (∀ (s : State) (phases : BitVec 6) (r : DevRequest) (u : State),
    s.pwr.request = some r ∧ r.committed = false ∧ r.target ≠ 2 →
    u = { s with pwr := { s.pwr with request := some { r with committed := true } } } →
    Gives (.entryCommitPoint phases) s (fun t =>
      t = (u.each (upTo 471) (fun s n => if s.dom n = V.PWR_DOMAIN_STATUS_state_FENCING then (s.fenceEnd n).put
        F.PWR_DOMAIN_STATUS_state V.PWR_DOMAIN_STATUS_state_ENTERING n else s)).devResult r.desc St.OK
          V.PWR_DEV_CTRL_result_DONE)) ∧
  -- EXIT_COMPLETE
  (∀ (s : State),
    s.devState = V.PWR_DEV_STATUS_state_EXITING →
    Gives (.exitComplete) s (fun t =>
      t.devState = V.PWR_DEV_STATUS_state_RUN ∧
      t.pwr.wake = none ∧
      t.pwr.deep = false ∧
      t.pwr.gated = [] ∧
      (∃ u : State, u = s.domsReturn ∧ (u.pwr.deep = false → u.pwr.stretch = false → t =
        ((({ u with pwr := { u.pwr with wake := none, stretch := false, deep := false, gated := [] } }).setDev
          V.PWR_DEV_STATUS_state_RUN).clr F.DBG_STATUS_emulating).ev F.PWR_EVENTS_woke))))

/-- Halting, resuming, groups, authentication and power holds take effect. The rules are among R643 to R663 (spec/25).
  What the world around the device does stands in the operands (log entry 2). -/
def Obligations.DebugCommandsComplete : Prop :=
  -- HALT_TAKES_EFFECT
  (∀ (s : State) (index : BitVec 10) (k : Nat),
    (s.dbg.asked.find? (fun a => a.1 == 0 && a.2.1 == index.toNat) = some (0, index.toNat, k)) →
    s.haltable 0 index.toNat = true ∧ s.coreState index.toNat = Core.WAITING →
    Gives (.haltTakesEffect 0 index) s (fun t =>
      t = s.haltCore index.toNat k)) ∧
  (∀ (s : State) (index : BitVec 10) (k : Nat),
    (s.dbg.asked.find? (fun a => a.1 == 1 && a.2.1 == index.toNat) = some (1, index.toNat, k)) →
    s.haltable 1 index.toNat = true →
    Gives (.haltTakesEffect 1 index) s (fun t =>
      t = s.markHalt 1 index.toNat k)) ∧
  -- HALT_EVENT
  (∀ (s : State) (group : BitVec 3) (e : Nat) (u : State),
    (((s.dbg.halts.filter (fun h => h.1 == group.toNat)).map (fun h => h.2)).min? = some e) →
    (u =
      ({ s with dbg := { s.dbg with halts := s.dbg.halts.filter (fun h => !(h.1 == group.toNat && h.2 / 32 == e / 32)) } }).advanceTo
        e) →
    u.session ≠ 0 →
    Gives (.haltEvent group) s (fun t =>
      ∃ x, x = (u.ev F.DBG_EVENTS_halt_event).each (u.dbg.groups.filter (fun m => m.2.2 == group.toNat && (u.ev
        F.DBG_EVENTS_halt_event).inScope m.1 m.2.1)) (fun s m => s.askHalt m.1 m.2.1 group.toNat) ∧ t = if x.on
          F.DBG_GROUP_CFG_out_en group.toNat then x.lineDrive (x.get F.DBG_GROUP_CFG_out_line group.toNat) (e +
          triggerLatency) else x)) ∧
  -- DBG_BRK
  (∀ (s : State) (n : BitVec 8) (k : Nat),
    s.groupOf 1 n.toNat = some k →
    s.sect n.toNat = Sec.RUNNING →
    Gives (.dbgBrk n) s (fun t =>
      t = s.raiseHalt k s.now)) ∧
  -- HALT_STOP
  (∀ (s : State) (v x : Word) (u : State),
    x = haltWord v 0 ∧ bits x.toNat 31 28 = 8 →
    s.session ≠ 0 ∧ s.writable .debugger Reg.DBG_HALT_CMD 0 0 0 x = true →
    u = (s.applyWrite .debugger Reg.DBG_HALT_CMD 0 0 0 x).put F.DBG_HALT_CMD_go 0 →
    u.inScope (bits x.toNat 27 26) (bits x.toNat 9 0) = true ∧ u.haltable (bits x.toNat 27 26) (bits x.toNat 9 0) =
      true →
    Gives (.haltStop v) s (fun t =>
      t = (u.askHalt (bits x.toNat 27 26) (bits x.toNat 9 0) 8).haltResult V.DBG_HALT_CMD_result_DONE)) ∧
  -- HALT_RESUME
  (∀ (s : State) (v x : Word) (u : State),
    x = haltWord v 1 ∧ bits x.toNat 31 28 = 10 →
    s.session ≠ 0 ∧ s.writable .debugger Reg.DBG_HALT_CMD 0 0 0 x = true →
    u = (s.applyWrite .debugger Reg.DBG_HALT_CMD 0 0 0 x).put F.DBG_HALT_CMD_go 0 →
    u.inScope (bits x.toNat 27 26) (bits x.toNat 9 0) = true →
    Gives (.haltResume v) s (fun t =>
      t = (u.releaseUnit (bits x.toNat 27 26) (bits x.toNat 9 0)).haltResult V.DBG_HALT_CMD_result_DONE)) ∧
  -- HALT_JOIN
  (∀ (s : State) (v x : Word) (u : State),
    x = haltWord v 2 ∧ bits x.toNat 31 28 = 12 →
    s.session ≠ 0 ∧ s.writable .debugger Reg.DBG_HALT_CMD 0 0 0 x = true →
    u = (s.applyWrite .debugger Reg.DBG_HALT_CMD 0 0 0 x).put F.DBG_HALT_CMD_go 0 →
    u.inScope (bits x.toNat 27 26) (bits x.toNat 9 0) = true ∧ u.groupOf (bits x.toNat 27 26) (bits x.toNat 9 0) =
      none →
    bits x.toNat 9 0 < 256 →
    Gives (.haltJoin v) s (fun t =>
      t =
        ({ u with dbg := { u.dbg with groups := u.dbg.groups ++ [(bits x.toNat 27 26, bits x.toNat 9 0, bits x.toNat 25 23)] } }).haltResult
          V.DBG_HALT_CMD_result_DONE)) ∧
  -- HALT_LEAVE
  (∀ (s : State) (v x : Word) (u : State),
    x = haltWord v 3 ∧ bits x.toNat 31 28 = 14 →
    s.session ≠ 0 ∧ s.writable .debugger Reg.DBG_HALT_CMD 0 0 0 x = true →
    u = (s.applyWrite .debugger Reg.DBG_HALT_CMD 0 0 0 x).put F.DBG_HALT_CMD_go 0 →
    u.inScope (bits x.toNat 27 26) (bits x.toNat 9 0) = true →
    Gives (.haltLeave v) s (fun t =>
      t =
        ({ u with dbg := { u.dbg with groups := u.dbg.groups.filter (fun m => !(m.1 == bits x.toNat 27 26 && m.2.1 == bits x.toNat 9 0)) } }).haltResult
          V.DBG_HALT_CMD_result_DONE)) ∧
  -- POWER_HOLD_WRITE
  (∀ (s : State) (n : BitVec 4) (v : Word),
    s.session ≠ 0 ∧ s.writable .debugger Reg.DBG_POWER_HOLD n.toNat 0 0 v = true →
    bits v.toNat 8 0 ≤ 470 ∧ bit v.toNat 31 = true ∧ s.scopeAll = true →
    Gives (.powerHoldWrite n v) s (fun t =>
      ∃ u : State, u = (s.applyWrite .debugger Reg.DBG_POWER_HOLD n.toNat 0 0 v).testEnds (s.get
        F.DBG_POWER_HOLD_domain n.toNat) ∧ t = ((u.ev F.PWR_DOMAIN_STATUS_test_vote (bits v.toNat 8 0)).resolve (bits
          v.toNat 8 0)).drive (bits v.toNat 8 0))) ∧
  -- SESSION_TIMEOUT
  (∀ (s : State),
    s.session ≠ 0 →
    Gives (.sessionTimeout) s (fun t =>
      t = (s.advanceTo (s.dbg.lastPort + 64000000 * s.get F.DBG_CTRL_session_timeout)).endSession)) ∧
  -- AUTH_OPEN
  (∀ (s : State) (monitor : Bool) (v x : Word) (u : State),
    x = authWord v 1 ∧ bits x.toNat 31 29 = 1 ∧ bits x.toNat 27 26 < 3 →
    s.writable .debugger Reg.DBG_AUTH_CMD 0 0 0 x = true →
    u = s.applyWrite .debugger Reg.DBG_AUTH_CMD 0 0 0 x →
    u.on F.DBG_CTRL_debug_disable = false ∧ u.session = 0 →
    Tbl.get 0 u.dbg.lock (dbgPath monitor) ≤ u.now →
    Gives (.authOpen monitor v) s (fun t =>
      ∃ y, y = u.each (upTo 8) (fun s n => s.fresh.2.setWord Reg.DBG_AUTH_DATA (BitVec.ofNat 32 s.fresh.1) n) ∧ t =
        ({ y with dbg := { y.dbg with nonce := some (dbgPath monitor, bits x.toNat 28 28, bits x.toNat 27 26, if bits x.toNat 27 26 = 2 then bits x.toNat 25 18 else 0) } }).authResult
          V.DBG_AUTH_CMD_result_CHALLENGE)) ∧
  -- AUTH_RESPOND
  (∀ (s : State) (monitor : Bool) (v x : Word) (method scope k : Nat) (u : State),
    x = authWord v 2 ∧ bits x.toNat 31 29 = 2 ∧ bits x.toNat 27 26 < 3 →
    s.writable .debugger Reg.DBG_AUTH_CMD 0 0 0 x = true →
    u = s.applyWrite .debugger Reg.DBG_AUTH_CMD 0 0 0 x →
    u.dbg.nonce = some (dbgPath monitor, method, scope, k) →
    Gives (.authRespond monitor v) s (fun t =>
      ∃ y, y = { u with dbg := { u.dbg with nonce := none } } ∧ t = if y.authGood method scope k then
        (((({ y with dbg := { y.dbg with fails := Tbl.set 0 (dbgPath monitor) 0 y.dbg.fails, lockLen := Tbl.set 0 (dbgPath monitor) 0 y.dbg.lockLen, lastPort := y.now } }).put
          F.DBG_STATUS_session (dbgPath monitor)).put F.DBG_STATUS_scope scope).put F.DBG_STATUS_tenant k).authResult
          V.DBG_AUTH_CMD_result_OPEN else y.authFailed (dbgPath monitor))) ∧
  -- AUTH_CLOSE
  (∀ (s : State) (monitor : Bool) (v x : Word) (u : State),
    x = authWord v 3 ∧ bits x.toNat 31 29 = 3 ∧ bits x.toNat 27 26 < 3 →
    s.writable .debugger Reg.DBG_AUTH_CMD 0 0 0 x = true →
    u = s.applyWrite .debugger Reg.DBG_AUTH_CMD 0 0 0 x →
    u.session = dbgPath monitor →
    Gives (.authClose monitor v) s (fun t =>
      t = u.endSession.authResult V.DBG_AUTH_CMD_result_CLOSED)) ∧
  -- AUTH_LOCKOUT_END
  (∀ (s : State) (monitor : Bool) (u : State),
    u = s.advanceTo (Tbl.get 0 s.dbg.lock (dbgPath monitor)) →
    Gives (.authLockoutEnd monitor) s (fun t =>
      t = { u with dbg := { u.dbg with lock := Tbl.set 0 (dbgPath monitor) 0 u.dbg.lock } }))

/-- The debug port answers its requests and the monitor its own. The rules are among R643 to R663 (spec/25). What the
  world around the device does stands in the operands (log entry 2). -/
def Obligations.DebugPortCommandsComplete : Prop :=
  -- DBG_PORT_ID
  (∀ (s : State) (c : PortCmd),
    s.dead = false ∧ s.session ≠ 1 ∧ s.dbg.port.last = none →
    c.write = false ∧ c.crc.toNat = crc4 (5 + b2n c.tag * 128) →
    Gives (.dbgPortId c 0) s (fun t =>
      t = (s.setPort0
        { s.dbg.port with last := some (0, false, c.tag, 0), res := some (Dp.DONE, Config.identity.toNat) }).portReply
          false (Dp.DONE, Config.identity.toNat))) ∧
  -- DBG_PORT_STAT
  (∀ (s : State) (c : PortCmd),
    s.dead = false ∧ s.session ≠ 1 ∧ s.dbg.port.last = none →
    c.write = true ∧ c.crc.toNat = crc4 (9 + b2n c.tag * 128) ∧ c.dataCrc.toNat = crc8 c.data.toNat ∧ bit c.data.toNat
      31 = true →
    Gives (.dbgPortStat c) s (fun t =>
      t = (s.setPort0
        { s.dbg.port with last := some (1, true, c.tag, c.data.toNat), errSeen := false, cause := 0, res := some (Dp.DONE, 0) }).portReply
          true (Dp.DONE, 0))) ∧
  -- DBG_SPACE_WRITE
  (∀ (s : State) (c : PortCmd),
    s.dead = false ∧ s.session ≠ 1 ∧ s.dbg.port.last = none →
    c.write = true ∧ c.crc.toNat = crc4 (17 + b2n c.tag * 128) ∧ c.dataCrc.toNat = crc8 c.data.toNat →
    Gives (.dbgSpaceWrite c) s (fun t =>
      t = (s.setPort0
        { s.dbg.port with last := some (2, true, c.tag, c.data.toNat), space := c.data.toNat &&& 0xDFFF00FF, res := some (Dp.DONE, 0) }).portReply
          true (Dp.DONE, 0))) ∧
  -- DBG_ADDR_WRITE
  (∀ (s : State) (c : PortCmd),
    s.dead = false ∧ s.session ≠ 1 ∧ s.dbg.port.last = none →
    c.write = true ∧ c.crc.toNat = crc4 (25 + b2n c.tag * 128) ∧ c.dataCrc.toNat = crc8 c.data.toNat →
    Gives (.dbgAddrWrite c) s (fun t =>
      t = (s.setPort0
        { s.dbg.port with last := some (3, true, c.tag, c.data.toNat), addr := c.data.toNat / 4 * 4, res := some (Dp.DONE, 0) }).portReply
          true (Dp.DONE, 0))) ∧
  -- DBG_DATA
  (∀ (s : State) (c : PortCmd) (u y : State) (n : Nat),
    s.dead = false ∧ s.session ≠ 1 ∧ s.dbg.port.last = none →
    c.write = false ∧ c.crc.toNat = crc4 (37 + b2n c.tag * 128) ∧ c.pending = false →
    u = s.setPort0 { s.dbg.port with last := some (4, false, c.tag, 0), res := none } →
    (u.dbgAccess 1 false c.data).1 = y ∧ (u.dbgAccess 1 false c.data).2.toOption = some n →
    Gives (.dbgData c) s (fun t =>
      t = (y.setPort0 { y.dbg.port with res := some (Dp.DONE, n) }).portReply false (Dp.DONE, n))) ∧
  -- DBG_DATA_INC
  (∀ (s : State) (c : PortCmd) (u y : State) (n : Nat),
    s.dead = false ∧ s.session ≠ 1 ∧ s.dbg.port.last = none →
    c.write = false ∧ c.crc.toNat = crc4 (45 + b2n c.tag * 128) ∧ c.pending = false →
    u = s.setPort0 { s.dbg.port with last := some (5, false, c.tag, 0), res := none } →
    (u.dbgAccess 1 false c.data).1 = y ∧ (u.dbgAccess 1 false c.data).2.toOption = some n →
    Gives (.dbgDataInc c) s (fun t =>
      t = (y.setPort0 { y.dbg.port with addr := (y.dbg.port.addr + 4) % 2 ^ 32, res := some (Dp.DONE, n) }).portReply
        false (Dp.DONE, n))) ∧
  -- DBG_ACCESS_DONE
  (∀ (s : State) (monitor tag w : Bool) (d n : Nat) (y : State),
    s.dead = false ∧ s.dbg.port.last = some (4, w, tag, d) ∧ s.dbg.port.res = none →
    (s.dbgAccess (dbgPath monitor) w (BitVec.ofNat 32 d)).1 = y ∧ (s.dbgAccess (dbgPath monitor) w (BitVec.ofNat 32
      d)).2.toOption = some n →
    Gives (.dbgAccessDone monitor) s (fun t =>
      t = y.setPort0 { y.dbg.port with res := some (Dp.DONE, n) })) ∧
  -- DBG_RESYNC
  (∀ (s : State),
    Gives (.dbgResync) s (fun t =>
      t = s)) ∧
  -- MONITOR_REQUEST
  (∀ (s : State) (tag : Bool) (data : Word),
    s.dead = false ∧ s.session ≠ 2 ∧ s.dbg.port.last = none →
    s.get F.RAS_STATUS_mgmt_state = V.RAS_STATUS_mgmt_state_PAIRED →
    Gives (.monitorRequest 3 true tag false data) s (fun t =>
      t = (s.setPort0
        { s.dbg.port with last := some (3, true, tag, data.toNat), addr := data.toNat / 4 * 4, res := some (Dp.DONE, 0) }).send
          (.monitor [Dp.DONE, 0])))

/-- Foliations are scheduled, cancelled, copied and written, and shadows read. The rules are among R664 to R679
  (spec/26). What the world around the device does stands in the operands (log entry 2). -/
def Obligations.ObservabilityCommandsComplete : Prop :=
  -- FOLIATION_SCHEDULE
  (∀ (s : State) (p : Path) (ft : Nat),
    s.writable p Reg.OBS_FOL_CMD 0 0 0 0x80000000#32 = true →
    ft = s.pair Reg.OBS_FOL_AT_LO Reg.OBS_FOL_AT_HI / 8 * 8 →
    s.now + 128000 ≤ ft →
    s.obs.fol = none ∧ s.obs.writing = none →
    Gives (.foliationSchedule p false) s (fun t =>
      t.obs = { s.obs with fol := some { t := ft, ring := false, number := 0xFFFFFFFF } } ∧
      t.get F.OBS_STATUS_pending = 1)) ∧
  -- FOLIATION_CANCEL
  (∀ (s : State) (p : Path),
    s.writable p Reg.OBS_FOL_CMD 0 0 0 0xC0000000#32 = true →
    s.obs.fol.isSome = true →
    Gives (.foliationCancel p) s (fun t =>
      t.obs = { s.obs with fol := none } ∧
      t.get F.OBS_STATUS_pending = 0 ∧
      t.get F.OBS_FOL_CMD_result = V.OBS_FOL_CMD_result_CANCELLED)) ∧
  -- FOLIATION_COPY
  (∀ (s : State) (f : Foliation),
    s.obs.fol = some f →
    s.now ≤ f.t →
    Gives (.foliationCopy) s (fun t =>
      t = (s.advanceTo f.t).folTake { f with stepped := false } ∧
      t.obs.shadow = s.regs)) ∧
  -- FOLIATION_WRITTEN
  (∀ (s : State) (f : Foliation),
    s.obs.writing = some f →
    s.strmState (s.get F.OBS_FOL_CFG_stream) = Strm.ACTIVE →
    Gives (.foliationWritten) s (fun t =>
      t.get F.OBS_FOL_CMD_result = V.OBS_FOL_CMD_result_DONE ∧
      t.get F.OBS_EVENTS_written = 1 ∧
      t.obs.writing = none)) ∧
  -- SHADOW_READ
  (∀ (s u : State) (p : Path) (v : Word),
    s.readShadow p = (u, v) →
    Gives (.shadowRead p) s (fun t =>
      t = u.send (.data p Reg.OBS_SHD_OFFSET.base v.toNat)))

/-- GIO banks and pins, load tests, the ADC, sensors and the SMBus take effect. The rules are among R680 to R700
  (spec/27). What the world around the device does stands in the operands (log entry 2). -/
def Obligations.GeneralIoCommandsComplete : Prop :=
  -- BANK_CFG_WRITE
  (∀ (s : State) (p : Path) (bank : BitVec 3) (v : Word),
    bank.toNat < 6 →
    s.writable p Reg.GIO_BANK_CFG bank.toNat 0 0 v = true →
    bits v.toNat 2 0 ≠ s.get F.GIO_BANK_CFG_voltage bank.toNat ∧ s.bankIdle bank.toNat = true →
    Gives (.bankCfgWrite p bank v) s (fun t =>
      ∃ u : State, u = s.applyWrite p Reg.GIO_BANK_CFG bank.toNat 0 0 v ∧ t =
        { u with colo := { u.colo with bankCfg := Tbl.set 0 bank.toNat (bits v.toNat 2 0 + 1) u.colo.bankCfg }, gio := { u.gio with changing := u.gio.changing ++ [bank.toNat] } }))
          ∧
  -- BANK_CHANGE_DONE
  (∀ (s : State) (bank : BitVec 3),
    bank.toNat ∈ s.gio.changing →
    Gives (.bankChangeDone bank) s (fun t =>
      t = { s with gio := { s.gio with changing := s.gio.changing.filter (fun k => k != bank.toNat) } })) ∧
  -- PIN_CFG_WRITE
  (∀ (s : State) (p : Path) (pin : BitVec 8) (v : Word),
    pin.toNat < 192 →
    s.writable p Reg.GIO_PIN_CFG pin.toNat 0 0 v = true →
    bits v.toNat 31 28 = Pin.GPIO ∧ pin.toNat ≠ 32 →
    Tbl.get 0 s.trigPinHolder pin.toNat = 0 ∧ s.gio.load ≠ some pin.toNat →
    Gives (.pinCfgWrite p pin v) s (fun t =>
      t = State.pinShow s (s.applyWrite p Reg.GIO_PIN_CFG pin.toNat 0 0 v) pin.toNat)) ∧
  -- CONTENTION_DETECT
  (∀ (s : State) (pin : BitVec 8),
    pin.toNat < 192 →
    s.pinFn pin.toNat = Pin.GPIO ∧ s.on F.GIO_PIN_CFG_oe pin.toNat = true ∧ s.on F.GIO_PIN_CFG_open_drain pin.toNat =
      false →
    Gives (.contentionDetect pin) s (fun t =>
      t.get F.GIO_EVENTS_contention = 1 ∧
      t.get F.GIO_STATUS_contention_pin = pin.toNat ∧
      t.gio = { s.gio with contend := pin.toNat :: s.gio.contend.erase pin.toNat })) ∧
  -- LOAD_TEST_START
  (∀ (s : State) (p : Path) (v : Word) (u : State),
    s.writable p Reg.GIO_LOAD_CMD 0 0 0 (v ||| 0x80000000#32) = true →
    s.gio.load = none ∧ Tbl.get 0 s.trigPinHolder (bits v.toNat 7 0) = 0 →
    s.pinFn (bits v.toNat 7 0) = Pin.GPIO ∧ s.on F.GIO_PIN_CFG_oe (bits v.toNat 7 0) = false →
    u = s.applyWrite p Reg.GIO_LOAD_CMD 0 0 0 (v ||| 0x80000000#32) →
    Gives (.loadTestStart p v) s (fun t =>
      t.gio = { u.gio with load := some (bits v.toNat 7 0) } ∧
      t.get F.GIO_LOAD_RESULT_running = 1 ∧
      t.get F.GIO_LOAD_RESULT_result = 0)) ∧
  -- LOAD_TEST_DONE
  (∀ (s : State) (src snk : List (BitVec 14)) (n : Nat),
    s.gio.load = some n ∧ src.length = 16 ∧ snk.length = 16 →
    Gives (.loadTestDone src snk) s (fun t =>
      t.get F.GIO_LOAD_RESULT_v_src = roundHalfEven (src.map BitVec.toNat).sum 4 % 2 ^ 14 ∧
      t.get F.GIO_LOAD_RESULT_v_snk = roundHalfEven (snk.map BitVec.toNat).sum 4 % 2 ^ 14 ∧
      t.get F.GIO_LOAD_RESULT_running = 0 ∧
      t.gio = { s.gio with load := none } ∧
      t.get F.GIO_EVENTS_load_done = 1)) ∧
  -- ADC_CONVERSION
  (∀ (s : State) (codes : List (BitVec 14)) (k : Nat) (r : List Nat) (avg : Nat),
    s.adcPass = some (k :: r, avg) ∧ r ≠ [] →
    k < 64 →
    Gives (.adcConversion codes) s (fun t =>
      t.gio = { s.gio with pass := some (r, avg) } ∧
      t.get F.GIO_ADC_RESULT_code k = roundHalfEven (codes.map BitVec.toNat).sum avg % 2 ^ 14 ∧
      t.get F.GIO_ADC_RESULT_valid k = 1 ∧
      t.get F.GIO_STATUS_adc_running = 1)) ∧
  -- TEMP_SAMPLE
  (∀ (s : State) (l : List (BitVec 16 × BitVec 16)),
    s.dead = false ∧ s.tempReadings l ≠ [] →
    (∀ r ∈ s.tempReadings l, r.2 < 1600) →
    Gives (.tempSample l) s (fun t =>
      t.get F.PWR_SUPPLY_STATUS_thermal_warn = 0 ∧
      (∀ k v, (k, v) ∈ s.tempReadings l → t.get F.GIO_TEMP_valid k = 1 ∧ sext 16 (t.get F.GIO_TEMP_value k) = v))) ∧
  -- SENSOR_ELEMENT_FAILURE
  (∀ (s : State) (sensor : BitVec 6),
    Tbl.get 0 s.gio.elems sensor.toNat = 1 →
    Gives (.sensorElementFailure sensor true) s (fun t =>
      t.gio = { s.gio with elems := Tbl.set 0 sensor.toNat 3 s.gio.elems } ∧
      t.get F.GIO_TEMP_degraded sensor.toNat = 1 ∧
      t.get F.GIO_TEMP_valid sensor.toNat = 0 ∧
      t.get F.GIO_EVENTS_sensor_failed = 1)) ∧
  -- SMB_READ_IDENTITY
  (∀ (s : State),
    s.smbUp = true ∧ s.on F.GIO_SMB_CFG_pec_en = false →
    Gives (.smbReadIdentity) s (fun t =>
      t = s.send (.smb (4 :: natBytes 4 Config.identity.toNat)))) ∧
  -- SMB_READ_STATE
  (∀ (s : State),
    s.smbUp = true ∧ s.on F.GIO_SMB_CFG_pec_en = false →
    Gives (.smbReadState) s (fun t =>
      t = s.send (.smb [s.devState % 8 + 8 * (s.get F.BOOT_START_STATUS_outcome % 16) + 128 * b2n s.boot.ready]))) ∧
  -- SMB_READ_TEMP_MAX
  (∀ (s : State),
    s.smbUp = true ∧ s.on F.GIO_SMB_CFG_pec_en = false →
    Gives (.smbReadTempMax) s (fun t =>
      t = s.send (.smb (natBytes 2 (s.get F.GIO_TEMP_MAX_value))))) ∧
  -- SMB_SELECT_SENSOR
  (∀ (s : State) (n : BitVec 8),
    s.smbUp = true ∧ n.toNat ≤ 63 →
    Gives (.smbSelectSensor n true) s (fun t =>
      t = { s with gio := { s.gio with smbSensor := n.toNat } })) ∧
  -- SMB_READ_SENSOR
  (∀ (s : State),
    s.smbUp = true ∧ s.on F.GIO_SMB_CFG_pec_en = true →
    Gives (.smbReadSensor) s (fun t =>
      t = s.send (.smb (natBytes 2 (s.get F.GIO_TEMP_value s.gio.smbSensor) ++ [pec ([s.get F.GIO_SMB_CFG_address * 2,
        5, s.get F.GIO_SMB_CFG_address * 2 + 1] ++ natBytes 2 (s.get F.GIO_TEMP_value s.gio.smbSensor))])))) ∧
  -- SMB_SET_OFFSET
  (∀ (s : State) (off : Word),
    s.smbUp = true →
    Gives (.smbSetOffset off true) s (fun t =>
      t = { s with gio := { s.gio with smbOffset := off.toNat } })) ∧
  -- SMB_UNLISTED_COMMAND
  (∀ (s : State) (cmd : BitVec 8),
    (s.smbUp = true ∧ (cmd = 0 ∨ 7 < cmd.toNat)) →
    Gives (.smbUnlistedCommand cmd) s (fun t =>
      t = (s.ev F.GIO_EVENTS_smb_error).send .smbNack)) ∧
  -- SMB_BUS_TIMEOUT
  (∀ (s : State),
    s.pwr.stretch = true →
    Gives (.smbBusTimeout) s (fun t =>
      t = ({ s with pwr := { s.pwr with stretch := false } }).send .smbRelease)) ∧
  -- SMB_CLK_STRETCH_TIMEOUT
  (∀ (s : State),
    s.pwr.stretch = true ∧ s.boot.halted = true ∧ s.get F.BOOT_START_STATUS_step ≤ 2 →
    Gives (.smbClkStretchTimeout) s (fun t =>
      t = ({ s with pwr := { s.pwr with stretch := false }, gio := { s.gio with smbMute := true } }).send
        .smbRelease))

/-- Reads and writes of registers through BAR0 and the SMBus take effect. The rules are among R701 to R719 (spec/28).
  What the world around the device does stands in the operands (log entry 2). -/
def Obligations.RegisterAccessesComplete : Prop :=
  -- REG_WRITE
  (∀ (s : State) (d : Desc) (e : Word × Word) (u : State),
    s.admits d = true →
    s.tenantMay d.tenant.toNat e.1.toNat true = true →
    s.writeReg (.descriptor d.tenant) 0 e.1.toNat e.2 = (u, St.OK) →
    Gives (.regWrite d [e]) s (fun t =>
      t = u.ok d 1)) ∧
  -- REG_READ
  (∀ (s : State) (d : Desc) (buffer : BitVec 64) (o : Word),
    s.admits d = true →
    s.tenantMay d.tenant.toNat o.toNat false = true →
    Gives (.regRead d buffer [o]) s (fun t =>
      ∃ (u : State) (v : Word), (u, v) = s.readReg (.descriptor d.tenant) o.toNat ∧ t = (u.hostWrite d.tenant.toNat
        buffer.toNat (natBytes 4 v.toNat)).ok d 1)) ∧
  -- LATCHING_READ
  (∀ (s : State) (p : Path) (off : Word) (r hi : RegDef) (i j k : Nat),
    s.reaches p off.toNat false = true ∧ s.devState ≠ V.PWR_DEV_STATUS_state_DEEP_SLEEP →
    s.openBlock (s.translate off.toNat) = true →
    findReg (s.translate off.toNat) = some (r, i, j, k) →
    (latchPairs.find? (fun q => q.1.is r || q.2.is r) = some (r, hi)) →
    Gives (.latchingRead p none off 15) s (fun t =>
      t = (s.setLatch (r.addr i j k) p [BitVec.ofNat 32 (s.pairValue r hi i j k / 2 ^ 32)]).send (.data p off.toNat
        (BitVec.ofNat 32 (s.pairValue r hi i j k)).toNat))) ∧
  -- RC_READ
  (∀ (s : State) (p : Path) (off : Word) (r : RegDef) (i j k : Nat),
    s.reaches p off.toNat false = true ∧ s.devState ≠ V.PWR_DEV_STATUS_state_DEEP_SLEEP →
    s.openBlock (s.translate off.toNat) = true →
    findReg (s.translate off.toNat) = some (r, i, j, k) →
    (latchPairs.find? (fun q => q.1.is r || q.2.is r) = none) →
    ([Reg.CAP_QT_DATA, Reg.SWF_OP_DATA, Reg.SWF_DQ_DATA, Reg.RAS_LOG_DATA, Reg.OBS_SHD_OFFSET, Reg.OBS_SHD_VALUE_LO,
      Reg.OBS_SHD_VALUE_HI, Reg.GIO_IN].all (fun x => !r.is x) = true) →
    r.rc ≠ 0 →
    Gives (.rcRead p none off 15) s (fun t =>
      t = (s.setWord r (s.word r i j k &&& BitVec.ofNat 32 (0xFFFFFFFF ^^^ r.rc)) i j k).send (.data p off.toNat
        (s.shown r i j k).toNat))) ∧
  -- REGISTER_WRITE
  (∀ (s : State) (p : Path) (off v : Word) (r : RegDef) (i j k : Nat),
    s.reaches p off.toNat true = true ∧ s.devState ≠ V.PWR_DEV_STATUS_state_DEEP_SLEEP →
    findReg (s.translate off.toNat) = some (r, i, j, k) →
    Gives (.registerWrite p none off v 15) s (fun t =>
      t = (s.writeAt p s.session r i j k v).1)) ∧
  -- BAR0_BAD_REQUEST
  (∀ (s : State) (off : Word),
    s.reaches .bar0 off.toNat false = true ∧ s.devState ≠ V.PWR_DEV_STATUS_state_DEEP_SLEEP →
    Gives (.bar0BadRequest off) s (fun t =>
      t = (s.err V.GLB_ERR_INFO_kind_BAD_ACCESS off.toNat .bar0).send .completerAbort)) ∧
  -- SMB_READ_REGISTER
  (∀ (s : State),
    s.smbUp = true ∧ s.gio.smbOffset < 0x1000 →
    Gives (.smbReadRegister) s (fun t =>
      ∃ r, r = s.readReg .management s.gio.smbOffset false ∧ t = ({ s with free := r.1.free }).smbAnswer 7 (4 ::
        natBytes 4 r.2.toNat)))

/-- R714: the fields of GLB.ID, their reset values, and that they are read only. -/
def Obligations.IdentityReadsAndIsNeverWritten : Prop :=
  (∀ (p : Path), bits (State.reset.readReg p Reg.GLB_ID.base).2.toNat 31 28 = 0x1 ∧
    bits (State.reset.readReg p Reg.GLB_ID.base).2.toNat 27 12 = 0x5140 ∧
    bits (State.reset.readReg p Reg.GLB_ID.base).2.toNat 11 0 = 0xE0B) ∧
  (∀ (s : State) (p : Path) (v : Word) (be : BitVec 4),
    Gives (.registerWrite p none 0 v be) s (fun t => t.word Reg.GLB_ID = s.word Reg.GLB_ID))

/-- R71: the latch of the timestamp read, one for each access path. The clock registers answer where the device is on,
  S07 has ended or the start is done, and the path is not held off by DEEP_SLEEP (R93, R705). -/
def Obligations.TimeReadsLatchTheHighWord : Prop :=
  ∀ (s : State) (p q : Path), s.dead = false → s.openBlock Reg.CLK_TIME_LO.base = true →
    s.asleepFor p = false → s.asleepFor q = false →
    (∀ (t : State) (v : Word), s.readReg p Reg.CLK_TIME_LO.base = (t, v) →
      v.toNat = s.now % 2 ^ 32 ∧ (t.readReg p Reg.CLK_TIME_HI.base).2.toNat = s.now / 2 ^ 32 ∧
      (∀ (u : State), u.latch = t.latch → u.dead = false → u.openBlock Reg.CLK_TIME_LO.base = true →
        u.asleepFor p = false → (u.readReg p Reg.CLK_TIME_HI.base).2.toNat = s.now / 2 ^ 32) ∧
      (pathLatch q ≠ pathLatch p →
        (t.readReg q Reg.CLK_TIME_HI.base).2 = (s.readReg q Reg.CLK_TIME_HI.base).2)) ∧
    (∀ (t : State) (v : Word), s.readReg p Reg.CLK_PPS_CAP_LO.base = (t, v) →
      v = s.shown Reg.CLK_PPS_CAP_LO 0 0 0 ∧
      (t.readReg p Reg.CLK_PPS_CAP_HI.base).2 = s.shown Reg.CLK_PPS_CAP_HI 0 0 0 ∧
      (pathLatch q ≠ pathLatch p →
        (t.readReg q Reg.CLK_PPS_CAP_HI.base).2 = (s.readReg q Reg.CLK_PPS_CAP_HI.base).2))

/-- R567, with the order of the checks of R29: a reserved field is found before the owner. -/
def Obligations.OwnerOnlyAndNotReadyRefusals : Prop :=
  (∀ (s : State) (d : Desc) (c : Instr),
    (∃ ty k first count, c = .grant d ty k first count) ∨ (∃ ty k first count, c = .revoke d ty k first count) ∨
      (∃ k m w0 w1 w2 w3 w4, c = .tenantSet d k m w0 w1 w2 w3 w4) ∨
      (∃ k a b off len cause roll map, c = .imageWrite d k a b off len cause roll map) ∨
      (∃ i v cap, c = .powerVote (.inl d) 0xF i v cap) →
    s.dead = false → s.boot.ready = true → s.noFirmware = false → d.rsvSet = false → d.tenant ≠ 0 →
    exec c s = .next (s.refuse d St.REFUSED_NOT_OWNER)) ∧
  (∀ (s : State) (d : Desc) (c : Instr), c.desc? = some d → s.dead = false → s.boot.ready = false → s.noFirmware = false →
    exec c s = .next (s.refuse d St.REFUSED_NOT_READY) ∨
      exec c s = .next (s.refuse d St.REFUSED_NOT_READY).flushTrace) ∧
  (∀ (s t : State) (tenant : BitVec 8) (ring : BitVec 6) (header : Word),
    s.boot.ready = false → opcodes.contains (bits header.toNat 7 0) = false →
    exec (.descriptorAccept tenant ring header false) s = .next t →
    t = s ∨ ∃ (u : State) (d : Desc), d.tenant = tenant ∧ d.ring = ring ∧ t = u.refuse d St.REFUSED_NOT_READY)

/-- R460: when a write of the pool size is accepted, and what either outcome does. -/
def Obligations.PoolSizeIsAcceptedOnlyWhileIdle : Prop :=
  ∀ (s : State) (p : Path) (v : Word) (new old : Nat),
    s.writable p Reg.SWF_POOL_CFG 0 0 0 v = true → new = bits v.toNat 9 0 → new ≤ 512 →
    old = s.get F.SWF_POOL_CFG_pool_quires →
    ((∀ o ∈ s.swf.ops, o.2.state = 0) ∧ (∀ q ∈ s.swf.dq, q.2.alloc = false) ∧ new ≤ s.frontFree + old →
      Gives (.poolCfgWrite p v) s (fun t =>
        t.get F.SWF_POOL_CFG_pool_quires = new ∧ t.get F.SWF_STATUS_enabled = (if new = 0 then 0 else 1) ∧
        t.cap = (if old < new then s.takePool (new - old) else s.returnPool (old - new)).cap ∧
        t.frontFree = (if old < new then s.takePool (new - old) else s.returnPool (old - new)).frontFree)) ∧
    (¬ ((∀ o ∈ s.swf.ops, o.2.state = 0) ∧ (∀ q ∈ s.swf.dq, q.2.alloc = false) ∧ new ≤ s.frontFree + old) →
      Gives (.poolCfgWrite p v) s (fun t =>
        t = match p with | .descriptor _ => s | _ => s.ev F.SWF_EVENTS_wr_refused))

/-- R90, for every word written to BOOT.CTRL with restart set, and for OWNER_RESTART, the command that writes restart
  and a key alone. -/
def Obligations.RestartNeedsItsKeyAndNoLane : Prop :=
  (∀ (s : State) (p : Path) (v : Word), s.writable p Reg.BOOT_CTRL 0 0 0 v = true → bit v.toNat 3 = true →
    (bits v.toNat 31 16 ≠ 0x5140 ∨ s.someLane (fun _ => true) = true →
      (s.writeBootCtrl p v).1 = s.ev F.BOOT_EVENTS_restart_refused) ∧
    (bits v.toNat 31 16 = 0x5140 ∧ s.someLane (fun _ => true) = false →
      ∃ u : State, u.boot.active = s.boot.active ∧ (s.writeBootCtrl p v).1 = u.start 2 Start.OWNER_RESTART)) ∧
  (∀ (s : State) (p : Path) (key : BitVec 16),
    s.writable p Reg.BOOT_CTRL 0 0 0 (BitVec.ofNat 32 (key.toNat * 65536 + 8)) = true →
    Gives (.ownerRestart p key) s (fun t =>
      t = if key = 0x5140 ∧ s.someLane (fun _ => true) = false then s.start 2 Start.OWNER_RESTART
        else s.ev F.BOOT_EVENTS_restart_refused))

/-- R134, for the operations of R133 that give a result: ACCUMULATE (0), LOAD (1) and RESTART (3). -/
def Obligations.SliceAccumulatorWrapsOrHolds : Prop :=
  ∀ (g : SliceCfg) (z : SliceSt) (ci : Int) (x : SliceIn), g.mode.toNat ≠ 4 →
    (x.rst = true → (sliceNext g z ci x).ovf = false) ∧
    (x.rst = false → z.ovf = true → (sliceNext g z ci x).ovf = true) ∧
    (∀ (v xx : Int), x.rst = false → z.ce = true →
      xx = (if g.mode.toNat = 1 then -z.x else if g.mode.toNat = 3 then z.x + ci else z.x) →
      (z.op = 0 ∧ v = z.acc + xx) ∨ (z.op = 1 ∧ v = if g.mode.toNat = 2 then xx else sext 40 z.cx + xx) ∨
        (z.op = 3 ∧ v = xx) →
      let t := sliceNext g z ci x
      (t.ovf = true ↔ z.ovf = true ∨ v < -2 ^ 39 ∨ 2 ^ 39 - 1 < v) ∧
      -2 ^ 39 ≤ t.acc ∧ t.acc ≤ 2 ^ 39 - 1 ∧
      (-2 ^ 39 ≤ v ∧ v ≤ 2 ^ 39 - 1 → t.acc = v) ∧
      (g.saturate = true → (v < -2 ^ 39 → t.acc = -2 ^ 39) ∧ (2 ^ 39 - 1 < v → t.acc = 2 ^ 39 - 1)) ∧
      (g.saturate = false → ∃ k : Int, t.acc = v + k * 2 ^ 40))

/-- R138, R141 and R149: a read after a write, with the 47 stored bits checked. -/
def Obligations.MemoryReturnsTheWordWritten : Prop :=
  ∀ (s : State) (w : MemWrite) (portB : Bool) (strike : BitVec 47) (n m a : Nat),
    n = w.sect.toNat → m = w.mem.toNat → a = w.addr.toNat →
    s.sectRuns n = true → memWord m a = true → w.meet = 0 → w.inject = false →
    Gives (.blockMemoryWrite w) s (fun t =>
      (∀ k, k ≠ memKey n m a → t.memAt k = s.memAt k) ∧
      (popCount 47 strike.toNat ≤ 2 →
        Gives (.fabricMemRead w.sect w.mem portB w.addr strike) t (fun u =>
          Tbl.get 0 u.fab.rdata (2 * (66 * n + m) + b2n portB) =
            (if popCount 47 strike.toNat = 0 then w.data.toNat
             else if popCount 47 strike.toNat = 1 then w.data.toNat + 2 ^ 40
             else (w.data.toNat ^^^ (strike.toNat % 2 ^ 40)) + 2 * 2 ^ 40))))

/-- R519 and R523: the value and the flags of ADD, SUB and their clamped forms, from the exact signed and unsigned
  results. -/
def Obligations.CoreSumsAndDifferencesSetTheirFlags : Prop :=
  ∀ (a b : Nat), a < 65536 → b < 65536 →
    let p := sext 16 a + sext 16 b
    let m := sext 16 a - sext 16 b
    (aluAdd a b).value < 65536 ∧ (aluSub a b).value < 65536 ∧
    (a + b = (aluAdd a b).value + (if (aluAdd a b).c then 65536 else 0)) ∧
    (a + (if (aluSub a b).c then 0 else 65536) = b + (aluSub a b).value) ∧
    ((aluAdd a b).v = true ↔ p < -32768 ∨ 32767 < p) ∧ ((aluSub a b).v = true ↔ m < -32768 ∨ 32767 < m) ∧
    ((aluAdd a b).v = false → sext 16 (aluAdd a b).value = p) ∧
    ((aluSub a b).v = false → sext 16 (aluSub a b).value = m) ∧
    (sext 16 ((aluAdd a b).clamp p).value = max (-32768) (min 32767 p)) ∧
    (sext 16 ((aluSub a b).clamp m).value = max (-32768) (min 32767 m)) ∧
    ((aluAdd a b).clamp p).sat = (aluAdd a b).v ∧ ((aluSub a b).clamp m).sat = (aluSub a b).v

/-- R541: the destination checks the tenant field against the holder of the resource. -/
def Obligations.NocChecksTheTenantOfASection : Prop :=
  ∀ (s : State) (p : PktArg),
    p.dst.toNat < 256 → (s.path p.src.toNat p.dst.toNat).isSome = true →
    (upTo 32).all (fun q => !s.on F.NOC_PROBE_CFG_enable q) = true →
    p.length.toNat ≤ 4 ∧ p.status.toNat ≤ 3 ∧ p.zero = 0 →
    p.tenant.toNat ≠ s.get F.FAB_SECT_STATUS_holder p.dst.toNat →
    Gives (.nocWrite p) s (fun t =>
      t = s.rejectPkt (Pkt.of NocOp.WRITE p))

/-- R170. By R169 the symbol rate is 0.5 GBd times the multiplier, held in LANE.MULT in units of 2^−24, divided by 2
  to the power of LANE.RATE.div. -/
def Obligations.ALaneRateOutOfRangeIsRefused : Prop :=
  ∀ (s : State) (p : Path) (lane : BitVec 9) (v : Word) (mult div : Nat),
    s.writable p Reg.LANE_CTRL lane.toNat 0 0 (v ||| 0x80000000#32) = true →
    s.on F.LANE_CTRL_enable lane.toNat = false →
    mult = (s.word Reg.LANE_MULT lane.toNat).toNat → div = s.get F.LANE_RATE_div lane.toNat →
    (100 * mult < (if s.pam4 lane.toNat then 1250 else 125) * 2 ^ 25 * 2 ^ div ∨ 5625 * 2 ^ 25 * 2 ^ div < 100 * mult) →
    Gives (.laneEnable p lane v) s (fun t =>
      t = match p with
        | .descriptor _ => s
        | _ => (s.ev F.LANE_EVENTS_enable_refused lane.toNat).put F.LANE_EVENTS_refuse_cause 1 lane.toNat)
end

