-- ==== Sys2Proof/Laws/Tbl.lean ====
section
/-! SUPPORT. Laws/Tbl.lean: reading after writing a sparse table, and its canonical form. -/
namespace Sys2Proof.Machine

variable {α : Type}

theorem Tbl.get_ins (d : α) (i k : Nat) (x : α) (t : Tbl α) :
    Tbl.get d (Tbl.ins i x t) k = if i = k then x else Tbl.get d t k := by
  induction t with
  | nil => simp [Tbl.ins, Tbl.get]
  | cons p r ih =>
    obtain ⟨a, v⟩ := p
    simp only [Tbl.ins]
    split
    · simp [Tbl.get]
    · split
      · subst_vars; simp only [Tbl.get]; split <;> simp_all
      · simp only [Tbl.get, ih]; split <;> simp_all

theorem Tbl.get_del (d : α) (i k : Nat) (t : Tbl α) :
    Tbl.get d (Tbl.del i t) k = if i = k then d else Tbl.get d t k := by
  induction t with
  | nil => simp [Tbl.del, Tbl.get]
  | cons p r ih =>
    obtain ⟨a, v⟩ := p
    simp only [Tbl.del]
    by_cases h1 : a = i <;> by_cases h2 : a = k <;> by_cases h3 : i = k <;> simp_all [Tbl.get]

/-- A table reads what was last written at an index, and elsewhere what it read before. -/
theorem Tbl.get_set [DecidableEq α] (d : α) (i k : Nat) (x : α) (t : Tbl α) :
    Tbl.get d (Tbl.set d i x t) k = if i = k then x else Tbl.get d t k := by
  simp only [Tbl.set]
  split
  · rename_i h; rw [Tbl.get_del, h]
  · exact Tbl.get_ins d i k x t

@[simp] theorem Tbl.get_set_same [DecidableEq α] (d : α) (i : Nat) (x : α) (t : Tbl α) :
    Tbl.get d (Tbl.set d i x t) i = x := by simp [Tbl.get_set]

theorem Tbl.get_set_ne [DecidableEq α] {d : α} {i k : Nat} {x : α} {t : Tbl α} (h : i ≠ k) :
    Tbl.get d (Tbl.set d i x t) k = Tbl.get d t k := by simp [Tbl.get_set, h]

@[simp] theorem Tbl.get_nil (d : α) (i : Nat) : Tbl.get d [] i = d := rfl

theorem Tbl.sortedFrom_mono {n m : Nat} (h : n ≤ m) (t : Tbl α) (ht : Tbl.sortedFrom m t = true) :
    Tbl.sortedFrom n t = true := by
  cases t with
  | nil => rfl
  | cons p r =>
    simp only [Tbl.sortedFrom, Bool.and_eq_true, decide_eq_true_eq] at ht ⊢
    exact ⟨by omega, ht.2⟩

theorem Tbl.sortedFrom_ins {n i : Nat} (x : α) (hn : n ≤ i) (t : Tbl α) (ht : Tbl.sortedFrom n t = true) :
    Tbl.sortedFrom n (Tbl.ins i x t) = true := by
  induction t generalizing n with
  | nil => simp [Tbl.ins, Tbl.sortedFrom, hn]
  | cons p r ih =>
    simp only [Tbl.sortedFrom, Bool.and_eq_true, decide_eq_true_eq] at ht
    simp only [Tbl.ins]
    split
    · simp only [Tbl.sortedFrom, Bool.and_eq_true, decide_eq_true_eq]
      exact ⟨hn, by omega, ht.2⟩
    · split
      · subst_vars
        simp only [Tbl.sortedFrom, Bool.and_eq_true, decide_eq_true_eq]
        exact ⟨hn, ht.2⟩
      · simp only [Tbl.sortedFrom, Bool.and_eq_true, decide_eq_true_eq]
        exact ⟨ht.1, ih (by omega) ht.2⟩

theorem Tbl.sortedFrom_filter (f : Nat × α → Bool) {n : Nat} (t : Tbl α) (ht : Tbl.sortedFrom n t = true) :
    Tbl.sortedFrom n (t.filter f) = true := by
  induction t generalizing n with
  | nil => exact ht
  | cons p r ih =>
    simp only [Tbl.sortedFrom, Bool.and_eq_true, decide_eq_true_eq] at ht
    simp only [List.filter_cons]
    split
    · simp only [Tbl.sortedFrom, Bool.and_eq_true, decide_eq_true_eq]
      exact ⟨ht.1, ih ht.2⟩
    · exact Tbl.sortedFrom_mono (by omega) _ (ih ht.2)

theorem Tbl.del_eq_filter (i : Nat) (t : Tbl α) : Tbl.del i t = t.filter (fun p => decide (p.1 ≠ i)) := by
  induction t with
  | nil => rfl
  | cons p r ih =>
    simp only [Tbl.del, List.filter_cons, ih]
    split <;> simp_all

theorem Tbl.all_ins (f : Nat × α → Bool) (i : Nat) (x : α) (t : Tbl α) (hx : f (i, x) = true) (ht : t.all f = true) :
    (Tbl.ins i x t).all f = true := by
  induction t with
  | nil => simp [Tbl.ins, hx]
  | cons p r ih =>
    simp only [List.all_cons, Bool.and_eq_true] at ht
    simp only [Tbl.ins]
    split
    · simp [hx, ht]
    · split
      · simp [hx, ht]
      · simp [ht, ih]

/-- Part of a canonical table is canonical. -/
theorem Tbl.wf_filter [DecidableEq α] (d : α) (f : Nat × α → Bool) (t : Tbl α) (h : Tbl.wf d t = true) :
    Tbl.wf d (t.filter f) = true := by
  simp only [Tbl.wf, Bool.and_eq_true] at h ⊢
  refine ⟨Tbl.sortedFrom_filter f t h.1, ?_⟩
  have h2 := h.2
  simp only [List.all_eq_true, List.mem_filter] at h2 ⊢
  exact fun x hx => h2 x hx.1

/-- A write keeps the canonical form. -/
theorem Tbl.wf_set [DecidableEq α] (d : α) (i : Nat) (x : α) (t : Tbl α) (h : Tbl.wf d t = true) :
    Tbl.wf d (Tbl.set d i x t) = true := by
  simp only [Tbl.set]
  split
  · rw [Tbl.del_eq_filter]; exact Tbl.wf_filter d _ t h
  · rename_i hx
    simp only [Tbl.wf, Bool.and_eq_true] at h ⊢
    exact ⟨Tbl.sortedFrom_ins x (Nat.zero_le i) t h.1, Tbl.all_ins _ i x t (by simp [hx]) h.2⟩

end Sys2Proof.Machine
end

