-- ==== Sys2Proof/Laws/Regs.lean ====
section
/-! SUPPORT. Laws/Regs.lean: reading a register or a field after writing one. -/
namespace Sys2Proof.Machine

/-- A register reads the word last written to it; a register at another offset reads what it read before. -/
theorem State.word_setWord (s : State) (r q : RegDef) (v : Word) (i j k a b c : Nat) :
    (s.setWord r v i j k).word q a b c =
      if r.addr i j k = q.addr a b c then v ^^^ r.reset i j k ^^^ q.reset a b c else s.word q a b c := by
  simp only [State.word, State.setWord, Tbl.get_set]
  split <;> rfl

@[simp] theorem State.word_setWord_same (s : State) (r : RegDef) (v : Word) (i j k : Nat) :
    (s.setWord r v i j k).word r i j k = v := by
  simp [State.word_setWord, BitVec.xor_assoc]

theorem State.word_setWord_ne {s : State} {r q : RegDef} {v : Word} {i j k a b c : Nat}
    (h : r.addr i j k ≠ q.addr a b c) : (s.setWord r v i j k).word q a b c = s.word q a b c := by
  simp [State.word_setWord, h]

theorem bits_lt (v hi lo : Nat) : bits v hi lo < 2 ^ (hi + 1 - lo) := Nat.mod_lt _ (Nat.two_pow_pos _)

theorem testBit_bits (v hi lo n : Nat) :
    (bits v hi lo).testBit n = (decide (n < hi + 1 - lo) && v.testBit (n + lo)) := by
  simp [bits, Nat.testBit_mod_two_pow, Nat.testBit_shiftRight, Nat.add_comm]

theorem testBit_putBits {w hi lo v : Nat} (h : lo ≤ hi) (n : Nat) :
    (putBits w hi lo v).testBit n =
      if n < lo then w.testBit n else if n ≤ hi then v.testBit (n - lo) else w.testBit n := by
  have e : putBits w hi lo v =
      2 ^ lo * (2 ^ (hi + 1 - lo) * (w >>> (hi + 1)) + v % 2 ^ (hi + 1 - lo)) + w % 2 ^ lo := by
    have p : 2 ^ (hi + 1) = 2 ^ lo * 2 ^ (hi + 1 - lo) := by
      rw [← Nat.pow_add]; congr 1; omega
    simp only [putBits, p, Nat.mul_add, ← Nat.mul_assoc, Nat.mul_comm]
  rw [e]
  rw [Nat.testBit_two_pow_mul_add _ (Nat.mod_lt _ (Nat.two_pow_pos lo))]
  split
  · simp [Nat.testBit_mod_two_pow, *]
  · rw [Nat.testBit_two_pow_mul_add _ (Nat.mod_lt _ (Nat.two_pow_pos _))]
    by_cases g : n ≤ hi
    · have q : n - lo < hi + 1 - lo := by omega
      simp [g, Nat.testBit_mod_two_pow, q]
    · have q : ¬ n - lo < hi + 1 - lo := by omega
      rw [if_neg q, if_neg g, Nat.testBit_shiftRight]
      congr 1; omega

/-- What a field of a 32-bit register reads after a field of it is written. -/
theorem bits_putBits_same {w hi lo v : Nat} (h : lo ≤ hi) (h31 : hi < 32) :
    bits (BitVec.ofNat 32 (putBits w hi lo v)).toNat hi lo = v % 2 ^ (hi + 1 - lo) := by
  apply Nat.eq_of_testBit_eq
  intro n
  simp only [testBit_bits, BitVec.toNat_ofNat, Nat.testBit_mod_two_pow, testBit_putBits h]
  by_cases g : n < hi + 1 - lo
  · have a : n + lo < 32 := by omega
    have b : ¬ n + lo < lo := by omega
    have c : n + lo ≤ hi := by omega
    simp [g, a, b, c]
  · simp [g]

theorem bits_putBits_disjoint {w hi lo v hi' lo' : Nat} (h : lo ≤ hi) (h31 : hi' < 32)
    (hd : hi' < lo ∨ hi < lo') :
    bits (BitVec.ofNat 32 (putBits w hi lo v)).toNat hi' lo' = bits w hi' lo' := by
  apply Nat.eq_of_testBit_eq
  intro n
  simp only [testBit_bits, BitVec.toNat_ofNat, Nat.testBit_mod_two_pow, testBit_putBits h]
  by_cases g : n < hi' + 1 - lo'
  · have a : n + lo' < 32 := by omega
    simp only [g, a, decide_true, Bool.true_and]
    split
    · rfl
    · split
      · omega
      · rfl
  · simp [g]

/-- A field reads what was last written to it, cut to its width. -/
theorem State.get_put_same (s : State) (f : Fld) (v i j k : Nat) (h : f.lo ≤ f.hi) (h31 : f.hi < 32) :
    (s.put f v i j k).get f i j k = v % 2 ^ f.width := by
  simp only [State.get, State.put, Fld.width, State.word_setWord_same]
  exact bits_putBits_same h h31

/-- Writing a field leaves the fields of every register at another offset. -/
theorem State.get_put_ne {s : State} {f g : Fld} {v i j k a b c : Nat} (h : f.r.addr i j k ≠ g.r.addr a b c) :
    (s.put f v i j k).get g a b c = s.get g a b c := by
  simp [State.get, State.put, State.word_setWord_ne h]

/-- Writing a field leaves the other fields of its register. -/
theorem State.get_put_disjoint {s : State} {f g : Fld} {v i j k : Nat} (hr : g.r = f.r) (h : f.lo ≤ f.hi)
    (h31 : g.hi < 32) (hd : g.hi < f.lo ∨ f.hi < g.lo) : (s.put f v i j k).get g i j k = s.get g i j k := by
  simp only [State.get, State.put, hr, State.word_setWord_same]
  exact bits_putBits_disjoint h h31 hd

theorem State.get_lt (s : State) (f : Fld) (i j k : Nat) : s.get f i j k < 2 ^ f.width := bits_lt _ _ _

end Sys2Proof.Machine
end

