-- ==== Sys2Proof/Laws/State.lean ====
section
/-! SUPPORT. Laws/State.lean: what each update of State leaves, one lemma per field per update. -/
namespace Sys2Proof.Machine

@[simp] theorem State.setWord_latch (s : State) (r : RegDef) (v : Word) (i j k : Nat) : (s.setWord r v i j k).latch = s.latch := rfl
@[simp] theorem State.setWord_tenants (s : State) (r : RegDef) (v : Word) (i j k : Nat) : (s.setWord r v i j k).tenants = s.tenants := rfl
@[simp] theorem State.setWord_ras (s : State) (r : RegDef) (v : Word) (i j k : Nat) : (s.setWord r v i j k).ras = s.ras := rfl
@[simp] theorem State.setWord_sup (s : State) (r : RegDef) (v : Word) (i j k : Nat) : (s.setWord r v i j k).sup = s.sup := rfl
@[simp] theorem State.setWord_pwr (s : State) (r : RegDef) (v : Word) (i j k : Nat) : (s.setWord r v i j k).pwr = s.pwr := rfl
@[simp] theorem State.setWord_clk (s : State) (r : RegDef) (v : Word) (i j k : Nat) : (s.setWord r v i j k).clk = s.clk := rfl
@[simp] theorem State.setWord_boot (s : State) (r : RegDef) (v : Word) (i j k : Nat) : (s.setWord r v i j k).boot = s.boot := rfl
@[simp] theorem State.setWord_colo (s : State) (r : RegDef) (v : Word) (i j k : Nat) : (s.setWord r v i j k).colo = s.colo := rfl
@[simp] theorem State.setWord_trigPinHolder (s : State) (r : RegDef) (v : Word) (i j k : Nat) : (s.setWord r v i j k).trigPinHolder = s.trigPinHolder := rfl
@[simp] theorem State.setWord_swf (s : State) (r : RegDef) (v : Word) (i j k : Nat) : (s.setWord r v i j k).swf = s.swf := rfl
@[simp] theorem State.setWord_cap (s : State) (r : RegDef) (v : Word) (i j k : Nat) : (s.setWord r v i j k).cap = s.cap := rfl
@[simp] theorem State.setWord_coll (s : State) (r : RegDef) (v : Word) (i j k : Nat) : (s.setWord r v i j k).coll = s.coll := rfl
@[simp] theorem State.setWord_lanes (s : State) (r : RegDef) (v : Word) (i j k : Nat) : (s.setWord r v i j k).lanes = s.lanes := rfl
@[simp] theorem State.setWord_sectors (s : State) (r : RegDef) (v : Word) (i j k : Nat) : (s.setWord r v i j k).sectors = s.sectors := rfl
@[simp] theorem State.setWord_trig (s : State) (r : RegDef) (v : Word) (i j k : Nat) : (s.setWord r v i j k).trig = s.trig := rfl
@[simp] theorem State.setWord_press (s : State) (r : RegDef) (v : Word) (i j k : Nat) : (s.setWord r v i j k).press = s.press := rfl
@[simp] theorem State.setWord_frames (s : State) (r : RegDef) (v : Word) (i j k : Nat) : (s.setWord r v i j k).frames = s.frames := rfl
@[simp] theorem State.setWord_frameLanes (s : State) (r : RegDef) (v : Word) (i j k : Nat) : (s.setWord r v i j k).frameLanes = s.frameLanes := rfl
@[simp] theorem State.setWord_noc (s : State) (r : RegDef) (v : Word) (i j k : Nat) : (s.setWord r v i j k).noc = s.noc := rfl
@[simp] theorem State.setWord_bry (s : State) (r : RegDef) (v : Word) (i j k : Nat) : (s.setWord r v i j k).bry = s.bry := rfl
@[simp] theorem State.setWord_cores (s : State) (r : RegDef) (v : Word) (i j k : Nat) : (s.setWord r v i j k).cores = s.cores := rfl
@[simp] theorem State.setWord_dbg (s : State) (r : RegDef) (v : Word) (i j k : Nat) : (s.setWord r v i j k).dbg = s.dbg := rfl
@[simp] theorem State.setWord_mem (s : State) (r : RegDef) (v : Word) (i j k : Nat) : (s.setWord r v i j k).mem = s.mem := rfl
@[simp] theorem State.setWord_obs (s : State) (r : RegDef) (v : Word) (i j k : Nat) : (s.setWord r v i j k).obs = s.obs := rfl
@[simp] theorem State.setWord_fab (s : State) (r : RegDef) (v : Word) (i j k : Nat) : (s.setWord r v i j k).fab = s.fab := rfl
@[simp] theorem State.setWord_sec (s : State) (r : RegDef) (v : Word) (i j k : Nat) : (s.setWord r v i j k).sec = s.sec := rfl
@[simp] theorem State.setWord_gio (s : State) (r : RegDef) (v : Word) (i j k : Nat) : (s.setWord r v i j k).gio = s.gio := rfl
@[simp] theorem State.setWord_out (s : State) (r : RegDef) (v : Word) (i j k : Nat) : (s.setWord r v i j k).out = s.out := rfl
@[simp] theorem State.setWord_free (s : State) (r : RegDef) (v : Word) (i j k : Nat) : (s.setWord r v i j k).free = s.free := rfl
@[simp] theorem State.setWord_pending (s : State) (r : RegDef) (v : Word) (i j k : Nat) : (s.setWord r v i j k).pending = s.pending := rfl

@[simp] theorem State.put_latch (s : State) (f : Fld) (v i j k : Nat) : (s.put f v i j k).latch = s.latch := rfl
@[simp] theorem State.put_tenants (s : State) (f : Fld) (v i j k : Nat) : (s.put f v i j k).tenants = s.tenants := rfl
@[simp] theorem State.put_ras (s : State) (f : Fld) (v i j k : Nat) : (s.put f v i j k).ras = s.ras := rfl
@[simp] theorem State.put_sup (s : State) (f : Fld) (v i j k : Nat) : (s.put f v i j k).sup = s.sup := rfl
@[simp] theorem State.put_pwr (s : State) (f : Fld) (v i j k : Nat) : (s.put f v i j k).pwr = s.pwr := rfl
@[simp] theorem State.put_clk (s : State) (f : Fld) (v i j k : Nat) : (s.put f v i j k).clk = s.clk := rfl
@[simp] theorem State.put_boot (s : State) (f : Fld) (v i j k : Nat) : (s.put f v i j k).boot = s.boot := rfl
@[simp] theorem State.put_colo (s : State) (f : Fld) (v i j k : Nat) : (s.put f v i j k).colo = s.colo := rfl
@[simp] theorem State.put_trigPinHolder (s : State) (f : Fld) (v i j k : Nat) : (s.put f v i j k).trigPinHolder = s.trigPinHolder := rfl
@[simp] theorem State.put_swf (s : State) (f : Fld) (v i j k : Nat) : (s.put f v i j k).swf = s.swf := rfl
@[simp] theorem State.put_cap (s : State) (f : Fld) (v i j k : Nat) : (s.put f v i j k).cap = s.cap := rfl
@[simp] theorem State.put_coll (s : State) (f : Fld) (v i j k : Nat) : (s.put f v i j k).coll = s.coll := rfl
@[simp] theorem State.put_lanes (s : State) (f : Fld) (v i j k : Nat) : (s.put f v i j k).lanes = s.lanes := rfl
@[simp] theorem State.put_sectors (s : State) (f : Fld) (v i j k : Nat) : (s.put f v i j k).sectors = s.sectors := rfl
@[simp] theorem State.put_trig (s : State) (f : Fld) (v i j k : Nat) : (s.put f v i j k).trig = s.trig := rfl
@[simp] theorem State.put_press (s : State) (f : Fld) (v i j k : Nat) : (s.put f v i j k).press = s.press := rfl
@[simp] theorem State.put_frames (s : State) (f : Fld) (v i j k : Nat) : (s.put f v i j k).frames = s.frames := rfl
@[simp] theorem State.put_frameLanes (s : State) (f : Fld) (v i j k : Nat) : (s.put f v i j k).frameLanes = s.frameLanes := rfl
@[simp] theorem State.put_noc (s : State) (f : Fld) (v i j k : Nat) : (s.put f v i j k).noc = s.noc := rfl
@[simp] theorem State.put_bry (s : State) (f : Fld) (v i j k : Nat) : (s.put f v i j k).bry = s.bry := rfl
@[simp] theorem State.put_cores (s : State) (f : Fld) (v i j k : Nat) : (s.put f v i j k).cores = s.cores := rfl
@[simp] theorem State.put_dbg (s : State) (f : Fld) (v i j k : Nat) : (s.put f v i j k).dbg = s.dbg := rfl
@[simp] theorem State.put_mem (s : State) (f : Fld) (v i j k : Nat) : (s.put f v i j k).mem = s.mem := rfl
@[simp] theorem State.put_obs (s : State) (f : Fld) (v i j k : Nat) : (s.put f v i j k).obs = s.obs := rfl
@[simp] theorem State.put_fab (s : State) (f : Fld) (v i j k : Nat) : (s.put f v i j k).fab = s.fab := rfl
@[simp] theorem State.put_sec (s : State) (f : Fld) (v i j k : Nat) : (s.put f v i j k).sec = s.sec := rfl
@[simp] theorem State.put_gio (s : State) (f : Fld) (v i j k : Nat) : (s.put f v i j k).gio = s.gio := rfl
@[simp] theorem State.put_out (s : State) (f : Fld) (v i j k : Nat) : (s.put f v i j k).out = s.out := rfl
@[simp] theorem State.put_free (s : State) (f : Fld) (v i j k : Nat) : (s.put f v i j k).free = s.free := rfl
@[simp] theorem State.put_pending (s : State) (f : Fld) (v i j k : Nat) : (s.put f v i j k).pending = s.pending := rfl

@[simp] theorem State.send_regs (s : State) (o : Out) : (s.send o).regs = s.regs := rfl
@[simp] theorem State.send_latch (s : State) (o : Out) : (s.send o).latch = s.latch := rfl
@[simp] theorem State.send_tenants (s : State) (o : Out) : (s.send o).tenants = s.tenants := rfl
@[simp] theorem State.send_ras (s : State) (o : Out) : (s.send o).ras = s.ras := rfl
@[simp] theorem State.send_sup (s : State) (o : Out) : (s.send o).sup = s.sup := rfl
@[simp] theorem State.send_pwr (s : State) (o : Out) : (s.send o).pwr = s.pwr := rfl
@[simp] theorem State.send_clk (s : State) (o : Out) : (s.send o).clk = s.clk := rfl
@[simp] theorem State.send_boot (s : State) (o : Out) : (s.send o).boot = s.boot := rfl
@[simp] theorem State.send_colo (s : State) (o : Out) : (s.send o).colo = s.colo := rfl
@[simp] theorem State.send_trigPinHolder (s : State) (o : Out) : (s.send o).trigPinHolder = s.trigPinHolder := rfl
@[simp] theorem State.send_swf (s : State) (o : Out) : (s.send o).swf = s.swf := rfl
@[simp] theorem State.send_cap (s : State) (o : Out) : (s.send o).cap = s.cap := rfl
@[simp] theorem State.send_coll (s : State) (o : Out) : (s.send o).coll = s.coll := rfl
@[simp] theorem State.send_lanes (s : State) (o : Out) : (s.send o).lanes = s.lanes := rfl
@[simp] theorem State.send_sectors (s : State) (o : Out) : (s.send o).sectors = s.sectors := rfl
@[simp] theorem State.send_trig (s : State) (o : Out) : (s.send o).trig = s.trig := rfl
@[simp] theorem State.send_press (s : State) (o : Out) : (s.send o).press = s.press := rfl
@[simp] theorem State.send_frames (s : State) (o : Out) : (s.send o).frames = s.frames := rfl
@[simp] theorem State.send_frameLanes (s : State) (o : Out) : (s.send o).frameLanes = s.frameLanes := rfl
@[simp] theorem State.send_noc (s : State) (o : Out) : (s.send o).noc = s.noc := rfl
@[simp] theorem State.send_bry (s : State) (o : Out) : (s.send o).bry = s.bry := rfl
@[simp] theorem State.send_cores (s : State) (o : Out) : (s.send o).cores = s.cores := rfl
@[simp] theorem State.send_dbg (s : State) (o : Out) : (s.send o).dbg = s.dbg := rfl
@[simp] theorem State.send_mem (s : State) (o : Out) : (s.send o).mem = s.mem := rfl
@[simp] theorem State.send_obs (s : State) (o : Out) : (s.send o).obs = s.obs := rfl
@[simp] theorem State.send_fab (s : State) (o : Out) : (s.send o).fab = s.fab := rfl
@[simp] theorem State.send_sec (s : State) (o : Out) : (s.send o).sec = s.sec := rfl
@[simp] theorem State.send_gio (s : State) (o : Out) : (s.send o).gio = s.gio := rfl
@[simp] theorem State.send_free (s : State) (o : Out) : (s.send o).free = s.free := rfl
@[simp] theorem State.send_pending (s : State) (o : Out) : (s.send o).pending = s.pending := rfl

@[simp] theorem State.setTen_regs (s : State) (n : Nat) (x : Tenant) : (s.setTen n x).regs = s.regs := rfl
@[simp] theorem State.setTen_latch (s : State) (n : Nat) (x : Tenant) : (s.setTen n x).latch = s.latch := rfl
@[simp] theorem State.setTen_ras (s : State) (n : Nat) (x : Tenant) : (s.setTen n x).ras = s.ras := rfl
@[simp] theorem State.setTen_sup (s : State) (n : Nat) (x : Tenant) : (s.setTen n x).sup = s.sup := rfl
@[simp] theorem State.setTen_pwr (s : State) (n : Nat) (x : Tenant) : (s.setTen n x).pwr = s.pwr := rfl
@[simp] theorem State.setTen_clk (s : State) (n : Nat) (x : Tenant) : (s.setTen n x).clk = s.clk := rfl
@[simp] theorem State.setTen_boot (s : State) (n : Nat) (x : Tenant) : (s.setTen n x).boot = s.boot := rfl
@[simp] theorem State.setTen_colo (s : State) (n : Nat) (x : Tenant) : (s.setTen n x).colo = s.colo := rfl
@[simp] theorem State.setTen_trigPinHolder (s : State) (n : Nat) (x : Tenant) : (s.setTen n x).trigPinHolder = s.trigPinHolder := rfl
@[simp] theorem State.setTen_swf (s : State) (n : Nat) (x : Tenant) : (s.setTen n x).swf = s.swf := rfl
@[simp] theorem State.setTen_cap (s : State) (n : Nat) (x : Tenant) : (s.setTen n x).cap = s.cap := rfl
@[simp] theorem State.setTen_coll (s : State) (n : Nat) (x : Tenant) : (s.setTen n x).coll = s.coll := rfl
@[simp] theorem State.setTen_lanes (s : State) (n : Nat) (x : Tenant) : (s.setTen n x).lanes = s.lanes := rfl
@[simp] theorem State.setTen_sectors (s : State) (n : Nat) (x : Tenant) : (s.setTen n x).sectors = s.sectors := rfl
@[simp] theorem State.setTen_trig (s : State) (n : Nat) (x : Tenant) : (s.setTen n x).trig = s.trig := rfl
@[simp] theorem State.setTen_press (s : State) (n : Nat) (x : Tenant) : (s.setTen n x).press = s.press := rfl
@[simp] theorem State.setTen_frames (s : State) (n : Nat) (x : Tenant) : (s.setTen n x).frames = s.frames := rfl
@[simp] theorem State.setTen_frameLanes (s : State) (n : Nat) (x : Tenant) : (s.setTen n x).frameLanes = s.frameLanes := rfl
@[simp] theorem State.setTen_noc (s : State) (n : Nat) (x : Tenant) : (s.setTen n x).noc = s.noc := rfl
@[simp] theorem State.setTen_bry (s : State) (n : Nat) (x : Tenant) : (s.setTen n x).bry = s.bry := rfl
@[simp] theorem State.setTen_cores (s : State) (n : Nat) (x : Tenant) : (s.setTen n x).cores = s.cores := rfl
@[simp] theorem State.setTen_dbg (s : State) (n : Nat) (x : Tenant) : (s.setTen n x).dbg = s.dbg := rfl
@[simp] theorem State.setTen_mem (s : State) (n : Nat) (x : Tenant) : (s.setTen n x).mem = s.mem := rfl
@[simp] theorem State.setTen_obs (s : State) (n : Nat) (x : Tenant) : (s.setTen n x).obs = s.obs := rfl
@[simp] theorem State.setTen_fab (s : State) (n : Nat) (x : Tenant) : (s.setTen n x).fab = s.fab := rfl
@[simp] theorem State.setTen_sec (s : State) (n : Nat) (x : Tenant) : (s.setTen n x).sec = s.sec := rfl
@[simp] theorem State.setTen_gio (s : State) (n : Nat) (x : Tenant) : (s.setTen n x).gio = s.gio := rfl
@[simp] theorem State.setTen_out (s : State) (n : Nat) (x : Tenant) : (s.setTen n x).out = s.out := rfl
@[simp] theorem State.setTen_free (s : State) (n : Nat) (x : Tenant) : (s.setTen n x).free = s.free := rfl
@[simp] theorem State.setTen_pending (s : State) (n : Nat) (x : Tenant) : (s.setTen n x).pending = s.pending := rfl

/-! The other writes of a field are writes of that field. -/

@[simp] theorem State.ev_eq (s : State) (f : Fld) (i j k : Nat) : s.ev f i j k = s.put f 1 i j k := rfl
@[simp] theorem State.clr_eq (s : State) (f : Fld) (i j k : Nat) : s.clr f i j k = s.put f 0 i j k := rfl
@[simp] theorem State.cnt_eq (s : State) (f : Fld) (n i j k : Nat) :
    s.cnt f n i j k = s.put f (satNat f.width (s.get f i j k + n)) i j k := rfl
@[simp] theorem State.cntWrap_eq (s : State) (f : Fld) (n i j k : Nat) :
    s.cntWrap f n i j k = s.put f (s.get f i j k + n) i j k := rfl

/-! `when` and `each`. -/

@[simp] theorem State.when_true (s : State) (f : State → State) : s.when true f = f s := rfl
@[simp] theorem State.when_false (s : State) (f : State → State) : s.when false f = s := rfl

/-- What a function keeps, `when` keeps. -/
theorem State.when_keeps {α : Type} (p : State → α) (s : State) (c : Bool) (f : State → State) (h : ∀ s, p (f s) = p s) :
    p (s.when c f) = p s := by cases c <;> simp [h]

/-- What one turn keeps, `each` keeps. -/
theorem State.each_keeps {α β : Type} (p : State → β) (l : List α) (f : State → α → State)
    (h : ∀ s x, p (f s x) = p s) (s : State) : p (s.each l f) = p s := by
  simp only [State.each]
  induction l generalizing s with
  | nil => rfl
  | cons x r ih => rw [List.foldl_cons, ih, h]

/-- What one turn preserves, `each` preserves. -/
theorem State.each_preserves {α : Type} (P : State → Prop) (l : List α) (f : State → α → State)
    (h : ∀ s x, P s → P (f s x)) (s : State) (hs : P s) : P (s.each l f) := by
  simp only [State.each]
  induction l generalizing s with
  | nil => exact hs
  | cons x r ih => rw [List.foldl_cons]; exact ih _ (h s x hs)

/-! A register write leaves a register at another offset. -/

theorem State.word_put_ne {s : State} {f : Fld} {q : RegDef} {v i j k a b c : Nat}
    (h : f.r.addr i j k ≠ q.addr a b c) : (s.put f v i j k).word q a b c = s.word q a b c := by
  simp [State.put, State.word_setWord_ne h]

@[simp] theorem State.word_send (s : State) (o : Out) (q : RegDef) (a b c : Nat) :
    (s.send o).word q a b c = s.word q a b c := rfl

@[simp] theorem State.get_send (s : State) (o : Out) (g : Fld) (a b c : Nat) :
    (s.send o).get g a b c = s.get g a b c := rfl

@[simp] theorem State.get_setTen (s : State) (n : Nat) (x : Tenant) (g : Fld) (a b c : Nat) :
    (s.setTen n x).get g a b c = s.get g a b c := rfl

/-- The register store keeps its canonical form under a register write. -/
theorem State.regsWf_setWord (s : State) (r : RegDef) (v : Word) (i j k : Nat)
    (h : Tbl.wf 0#32 s.regs = true) : Tbl.wf 0#32 (s.setWord r v i j k).regs = true := Tbl.wf_set _ _ _ _ h

theorem State.regsWf_put (s : State) (f : Fld) (v i j k : Nat)
    (h : Tbl.wf 0#32 s.regs = true) : Tbl.wf 0#32 (s.put f v i j k).regs = true := State.regsWf_setWord _ _ _ _ _ _ h

end Sys2Proof.Machine
end

