-- ==== Sys2Proof/Laws/Checks.lean ====
section
/-! SUPPORT. Laws/Checks.lean: what the shared checks of register writes and descriptors do when they pass, and what a field
reads after the shared writes. -/
namespace Sys2Proof.Machine

/-- A write that passes the checks of R706 is left to its chapter's rule. -/
theorem State.guardWrite_writable {s : State} {p : Path} {r : RegDef} {i j k : Nat} {v : Word} {bad : Bool}
    {h : State → State × Nat} (hw : s.writable p r i j k v = true) (hb : bad = false) :
    s.guardWrite p r i j k v bad h = h s := by
  simp only [State.writable, Bool.and_eq_true, Bool.not_eq_true', beq_iff_eq] at hw
  obtain ⟨⟨⟨⟨⟨⟨h1, h2⟩, h3⟩, h4⟩, h5⟩, h6⟩, h7⟩ := hw
  simp [State.guardWrite, h1, h2, h3, h4, h5, h6, h7, hb]

/-- A register whose chapter adds no rule. -/
theorem State.plainWrite_writable {s : State} {p : Path} {r : RegDef} {i j k : Nat} {v : Word}
    (hw : s.writable p r i j k v = true) : (s.plainWrite p r i j k v) = (s.applyWrite p r i j k v, St.OK) :=
  State.guardWrite_writable hw rfl

/-- With no check failing, a list of checks names no status. -/
theorem firstFailing_none {l : List (Bool × Nat)} (h : ∀ c ∈ l, c.1 = false) : firstFailing l = none := by
  induction l with
  | nil => rfl
  | cons c r ih =>
    obtain ⟨b, st⟩ := c
    have hb : b = false := h (b, st) (List.mem_cons_self ..)
    subst hb
    simpa [firstFailing] using ih (fun c hc => h c (List.mem_cons_of_mem _ hc))

theorem withAddress_none {bad : Bool} {l : List (Bool × Nat)} (hb : bad = false) (h : ∀ c ∈ l, c.1 = false) :
    firstFailing (withAddress bad l) = none := by
  apply firstFailing_none
  intro c hc
  simp only [withAddress, List.mem_append, List.mem_cons] at hc
  rcases hc with hc | rfl | hc
  · exact h c (List.takeWhile_subset _ hc)
  · exact hb
  · exact h c (List.dropWhile_subset _ hc)

/-- A descriptor that passes every check has its effect. -/
theorem State.descriptor_admits {s : State} {d : Desc} {own mgmt : Bool} {checks : List (Bool × Nat)}
    {effect : State → State} (ht : s.admits d = true) (ho : own = true → d.tenant = 0)
    (hm : mgmt = true → s.mgmtUp = true) (hc : ∀ c ∈ checks, c.1 = false) :
    s.descriptor d own mgmt checks effect = effect s := by
  simp only [State.admits, Bool.and_eq_true, Bool.not_eq_true'] at ht
  obtain ⟨⟨⟨h1, h2⟩, h3⟩, h4⟩ := ht
  have e1 : (own && d.tenant != 0) = false := by
    cases own
    · rfl
    · simp [ho rfl]
  have e2 : (mgmt && s.get F.RAS_STATUS_mgmt_state == V.RAS_STATUS_mgmt_state_FAILED) = false := by
    cases mgmt
    · rfl
    · simpa [State.mgmtUp] using hm rfl
  simp only [State.descriptor, h1, h2, h3, e1, e2, withAddress_none h4 hc]
  rfl

/-! Registers that never share an offset, whatever their indices. -/

/-- The greatest common divisor of a register's strides. -/
def RegDef.step (r : RegDef) : Nat :=
  Nat.gcd (if r.c1 = 1 then 0 else r.s1) (Nat.gcd (if r.c2 = 1 then 0 else r.s2) (if r.c3 = 1 then 0 else r.s3))

/-- The offset of a register's last instance. -/
def RegDef.top (r : RegDef) : Nat := r.base + r.s1 * (r.c1 - 1) + r.s2 * (r.c2 - 1) + r.s3 * (r.c3 - 1)

/-- Two registers never share an offset: one ends before the other begins, or their offsets differ modulo the strides. -/
def RegDef.apart (r q : RegDef) : Bool :=
  decide (0 < r.c1 ∧ 0 < r.c2 ∧ 0 < r.c3 ∧ 0 < q.c1 ∧ 0 < q.c2 ∧ 0 < q.c3) &&
    (decide (r.top < q.base) || decide (q.top < r.base) ||
      decide (r.base % Nat.gcd r.step q.step ≠ q.base % Nat.gcd r.step q.step))

theorem RegDef.mod_part (c s i g : Nat) (h : g ∣ (if c = 1 then 0 else s)) : g ∣ s * (i % c) := by
  by_cases e : c = 1
  · simp [e, Nat.mod_one]
  · rw [if_neg e] at h; exact Nat.dvd_mul_right_of_dvd h _

theorem RegDef.addr_mod (r : RegDef) (i j k g : Nat) (h : g ∣ r.step) : r.addr i j k % g = r.base % g := by
  have h1 := RegDef.mod_part r.c1 r.s1 i g (Nat.dvd_trans h (Nat.gcd_dvd_left _ _))
  have h2 := RegDef.mod_part r.c2 r.s2 j g
    (Nat.dvd_trans h (Nat.dvd_trans (Nat.gcd_dvd_right _ _) (Nat.gcd_dvd_left _ _)))
  have h3 := RegDef.mod_part r.c3 r.s3 k g
    (Nat.dvd_trans h (Nat.dvd_trans (Nat.gcd_dvd_right _ _) (Nat.gcd_dvd_right _ _)))
  obtain ⟨a, ha⟩ := h1
  obtain ⟨b, hb⟩ := h2
  obtain ⟨c, hc⟩ := h3
  simp only [RegDef.addr, ha, hb, hc, Nat.add_mul_mod_self_left]

theorem RegDef.addr_le {r : RegDef} (h1 : 0 < r.c1) (h2 : 0 < r.c2) (h3 : 0 < r.c3) (i j k : Nat) :
    r.addr i j k ≤ r.top := by
  have a1 := Nat.mul_le_mul_left r.s1 (Nat.le_sub_one_of_lt (Nat.mod_lt i h1))
  have a2 := Nat.mul_le_mul_left r.s2 (Nat.le_sub_one_of_lt (Nat.mod_lt j h2))
  have a3 := Nat.mul_le_mul_left r.s3 (Nat.le_sub_one_of_lt (Nat.mod_lt k h3))
  simp only [RegDef.addr, RegDef.top]; omega

theorem RegDef.le_addr (r : RegDef) (i j k : Nat) : r.base ≤ r.addr i j k := by simp only [RegDef.addr]; omega

theorem RegDef.apart_ne {r q : RegDef} (h : r.apart q = true) (i j k a b c : Nat) : r.addr i j k ≠ q.addr a b c := by
  simp only [RegDef.apart, Bool.and_eq_true, Bool.or_eq_true, decide_eq_true_eq] at h
  obtain ⟨⟨h1, h2, h3, h4, h5, h6⟩, (h | h) | h⟩ := h
  · have := RegDef.addr_le h1 h2 h3 i j k
    have := q.le_addr a b c
    omega
  · have := RegDef.addr_le h4 h5 h6 a b c
    have := r.le_addr i j k
    omega
  · intro e
    apply h
    rw [← RegDef.addr_mod r i j k _ (Nat.gcd_dvd_left _ _), ← RegDef.addr_mod q a b c _ (Nat.gcd_dvd_right _ _), e]

/-- Writing a field leaves the fields of a register that shares no offset with it. -/
theorem State.get_put_apart {s : State} {f g : Fld} {v i j k a b c : Nat} (h : f.r.apart g.r = true) :
    (s.put f v i j k).get g a b c = s.get g a b c := State.get_put_ne (RegDef.apart_ne h i j k a b c)

theorem State.word_put_apart {s : State} {f : Fld} {q : RegDef} {v i j k a b c : Nat} (h : f.r.apart q = true) :
    (s.put f v i j k).word q a b c = s.word q a b c := State.word_put_ne (RegDef.apart_ne h i j k a b c)

theorem State.get_setWord_apart {s : State} {r : RegDef} {g : Fld} {v : Word} {i j k a b c : Nat}
    (h : r.apart g.r = true) : (s.setWord r v i j k).get g a b c = s.get g a b c := by
  simp [State.get, State.word_setWord_ne (RegDef.apart_ne h i j k a b c)]

theorem State.word_setWord_apart {s : State} {r q : RegDef} {v : Word} {i j k a b c : Nat}
    (h : r.apart q = true) : (s.setWord r v i j k).word q a b c = s.word q a b c :=
  State.word_setWord_ne (RegDef.apart_ne h i j k a b c)

/-! A register reads the same in a state that shares the register store. -/

@[simp] theorem State.word_mk (s : State) {latch' : Tbl (List Word)} {tenants' : Tbl Tenant} {ras' : RasSt} {sup' : SupSt} {pwr' : PwrSt} {clk' :
    ClkSt} {boot' : BootSt} {colo' : ColoSt} {trigPinHolder' : Tbl Nat} {swf' : SwfSt} {cap' : CapSt} {coll' :
    CollSt} {lanes' : Tbl LaneSt} {sectors' : Tbl SectorSt} {trig' : TrigSt} {press' : Tbl PressSt} {frames' :
    Tbl FrameSt} {frameLanes' : Tbl FrameLane} {noc' : NocSt} {bry' : BrySt} {cores' : Tbl CoreSt} {dbg' :
    DbgSt} {mem' : MemSt} {obs' : ObsSt} {fab' : FabSt} {sec' : SecSt} {gio' : GioSt} {out' : List Out} {free'
    : Nat} {pending' : List Instr}
    (r : RegDef) (i j k : Nat) :
    (State.mk s.regs latch' tenants' ras' sup' pwr' clk' boot' colo' trigPinHolder' swf' cap' coll' lanes' sectors'
    trig' press' frames' frameLanes' noc' bry' cores' dbg' mem' obs' fab' sec' gio' out' free' pending').word r i j k = s.word r i j k := rfl

@[simp] theorem State.get_mk (s : State) {latch' : Tbl (List Word)} {tenants' : Tbl Tenant} {ras' : RasSt} {sup' : SupSt} {pwr' : PwrSt} {clk' :
    ClkSt} {boot' : BootSt} {colo' : ColoSt} {trigPinHolder' : Tbl Nat} {swf' : SwfSt} {cap' : CapSt} {coll' :
    CollSt} {lanes' : Tbl LaneSt} {sectors' : Tbl SectorSt} {trig' : TrigSt} {press' : Tbl PressSt} {frames' :
    Tbl FrameSt} {frameLanes' : Tbl FrameLane} {noc' : NocSt} {bry' : BrySt} {cores' : Tbl CoreSt} {dbg' :
    DbgSt} {mem' : MemSt} {obs' : ObsSt} {fab' : FabSt} {sec' : SecSt} {gio' : GioSt} {out' : List Out} {free'
    : Nat} {pending' : List Instr}
    (f : Fld) (i j k : Nat) :
    (State.mk s.regs latch' tenants' ras' sup' pwr' clk' boot' colo' trigPinHolder' swf' cap' coll' lanes' sectors'
    trig' press' frames' frameLanes' noc' bry' cores' dbg' mem' obs' fab' sec' gio' out' free' pending').get f i j k = s.get f i j k := rfl

@[simp] theorem State.on_mk (s : State) {latch' : Tbl (List Word)} {tenants' : Tbl Tenant} {ras' : RasSt} {sup' : SupSt} {pwr' : PwrSt} {clk' :
    ClkSt} {boot' : BootSt} {colo' : ColoSt} {trigPinHolder' : Tbl Nat} {swf' : SwfSt} {cap' : CapSt} {coll' :
    CollSt} {lanes' : Tbl LaneSt} {sectors' : Tbl SectorSt} {trig' : TrigSt} {press' : Tbl PressSt} {frames' :
    Tbl FrameSt} {frameLanes' : Tbl FrameLane} {noc' : NocSt} {bry' : BrySt} {cores' : Tbl CoreSt} {dbg' :
    DbgSt} {mem' : MemSt} {obs' : ObsSt} {fab' : FabSt} {sec' : SecSt} {gio' : GioSt} {out' : List Out} {free'
    : Nat} {pending' : List Instr}
    (f : Fld) (i j k : Nat) :
    (State.mk s.regs latch' tenants' ras' sup' pwr' clk' boot' colo' trigPinHolder' swf' cap' coll' lanes' sectors'
    trig' press' frames' frameLanes' noc' bry' cores' dbg' mem' obs' fab' sec' gio' out' free' pending').on f i j k = s.on f i j k := rfl

/-- What a field reads after an operation that a condition guards. -/
theorem State.get_when (s : State) (c : Bool) (op : State → State) (f : Fld) (i j k : Nat) :
    (s.when c op).get f i j k = if c then (op s).get f i j k else s.get f i j k := by cases c <;> rfl

theorem State.clk_when (s : State) (c : Bool) (op : State → State) :
    (s.when c op).clk = if c then (op s).clk else s.clk := by cases c <;> rfl

/-- A one-bit field is set where it reads 1. -/
theorem State.on_eq (s : State) (f : Fld) (i j k : Nat) : s.on f i j k = decide (s.get f i j k = 1) := by
  rw [Bool.eq_iff_iff]; simp [State.on]

end Sys2Proof.Machine
end

