-- ==== Sys2Proof/Laws/Keeps.lean ====
section
/-! SUPPORT. Laws/Keeps.lean: what every operation keeps: the canonical register store, a timebase whose bits 2 to 0 are
zero, the queue, and every part of the state it does not name. One lemma per operation; each later file proves its
operations' lemmas from these, and Laws/Runs*.lean those of the meanings. -/
set_option Elab.async false  -- one proof at a time: the package as one text then needs less memory
namespace Sys2Proof.Machine

/-- What a run of operations is held to: the queue it leaves, the state it began in, and the parts it may change. -/
structure Kept where
  queue : List Instr
  start : State
  may : Part → Bool

/-- Every instance of a register lies in a part that may change. -/
structure Kept.Regs (k : Kept) (r : RegDef) : Prop where
  all : ∀ i j l, k.may (blockOf (r.addr i j l)) = true

/-- The parts of a list may change. -/
structure Kept.Allows (k : Kept) (l : List Part) : Prop where
  holds : ∀ p, l.contains p = true → k.may p = true

/-- Every part may change. -/
structure Kept.All (k : Kept) : Prop where
  one : ∀ p, k.may p = true

/-- Every instance of a register lies in block `p`. -/
def RegDef.inBlock (r : RegDef) (p : Part) : Bool :=
  let top := r.base + r.s1 * (r.c1 - 1) + r.s2 * (r.c2 - 1) + r.s3 * (r.c3 - 1)
  blockOf r.base == p && blockOf top == p && decide (0 < r.c1) && decide (0 < r.c2) && decide (0 < r.c3)

/-- The state `s` keeps what `k` says. -/
structure State.Keeps (k : Kept) (s : State) : Prop where
  wf : Tbl.wf 0#32 k.start.regs = true → Tbl.wf 0#32 s.regs = true
  time : k.start.clk.timebase.toNat % 8 = 0 → s.clk.timebase.toNat % 8 = 0
  queue : s.pending = k.queue
  regs : ∀ off, k.may (blockOf off) = false → Tbl.get 0#32 s.regs off = Tbl.get 0#32 k.start.regs off
  latch : k.may .latch = false → s.latch = k.start.latch
  tenants : k.may .tenants = false → s.tenants = k.start.tenants
  ras : k.may .ras = false → s.ras = k.start.ras
  sup : k.may .sup = false → s.sup = k.start.sup
  pwr : k.may .pwr = false → s.pwr = k.start.pwr
  clk : k.may .clk = false → s.clk = k.start.clk
  boot : k.may .boot = false → s.boot = k.start.boot
  colo : k.may .colo = false → s.colo = k.start.colo
  trigPinHolder : k.may .trigPinHolder = false → s.trigPinHolder = k.start.trigPinHolder
  swf : k.may .swf = false → s.swf = k.start.swf
  cap : k.may .cap = false → s.cap = k.start.cap
  coll : k.may .coll = false → s.coll = k.start.coll
  lanes : k.may .lanes = false → s.lanes = k.start.lanes
  sectors : k.may .sectors = false → s.sectors = k.start.sectors
  trig : k.may .trig = false → s.trig = k.start.trig
  press : k.may .press = false → s.press = k.start.press
  frames : k.may .frames = false → s.frames = k.start.frames
  frameLanes : k.may .frameLanes = false → s.frameLanes = k.start.frameLanes
  noc : k.may .noc = false → s.noc = k.start.noc
  bry : k.may .bry = false → s.bry = k.start.bry
  cores : k.may .cores = false → s.cores = k.start.cores
  dbg : k.may .dbg = false → s.dbg = k.start.dbg
  mem : k.may .mem = false → s.mem = k.start.mem
  obs : k.may .obs = false → s.obs = k.start.obs
  fab : k.may .fab = false → s.fab = k.start.fab
  sec : k.may .sec = false → s.sec = k.start.sec
  gio : k.may .gio = false → s.gio = k.start.gio
  out : k.may .out = false → s.out = k.start.out
  free : k.may .free = false → s.free = k.start.free

/-- The state of a pair keeps what is kept. -/
structure State.KeepsFst {α : Type} (k : Kept) (r : State × α) : Prop where
  fst : State.Keeps k r.1

/-- The state of a pair keeps what is kept. -/
structure State.KeepsSnd {α : Type} (k : Kept) (r : α × State) : Prop where
  snd : State.Keeps k r.2

/-- Where a command answers a next state, it keeps what is kept. -/
structure State.KeepsOut (k : Kept) (o : Host.Outcome State Fault Refusal) : Prop where
  out : ∀ t, o = .next t → State.Keeps k t

namespace Keeps

variable {k : Kept} {s : State}

theorem upd_latch {v : Tbl (List Word)} (m : k.may .latch = true) (h : State.Keeps k s) :
    State.Keeps k
      (State.mk s.regs v s.tenants s.ras s.sup s.pwr s.clk s.boot s.colo s.trigPinHolder s.swf s.cap s.coll s.lanes
        s.sectors s.trig s.press s.frames s.frameLanes s.noc s.bry s.cores s.dbg s.mem s.obs s.fab s.sec s.gio
        s.out s.free s.pending) :=
  { h with latch := fun e => absurd m (by simp [e]) }

theorem upd_tenants {v : Tbl Tenant} (m : k.may .tenants = true) (h : State.Keeps k s) :
    State.Keeps k
      (State.mk s.regs s.latch v s.ras s.sup s.pwr s.clk s.boot s.colo s.trigPinHolder s.swf s.cap s.coll s.lanes
        s.sectors s.trig s.press s.frames s.frameLanes s.noc s.bry s.cores s.dbg s.mem s.obs s.fab s.sec s.gio
        s.out s.free s.pending) :=
  { h with tenants := fun e => absurd m (by simp [e]) }

theorem upd_ras {v : RasSt} (m : k.may .ras = true) (h : State.Keeps k s) :
    State.Keeps k
      (State.mk s.regs s.latch s.tenants v s.sup s.pwr s.clk s.boot s.colo s.trigPinHolder s.swf s.cap s.coll s.lanes
        s.sectors s.trig s.press s.frames s.frameLanes s.noc s.bry s.cores s.dbg s.mem s.obs s.fab s.sec s.gio
        s.out s.free s.pending) :=
  { h with ras := fun e => absurd m (by simp [e]) }

theorem upd_sup {v : SupSt} (m : k.may .sup = true) (h : State.Keeps k s) :
    State.Keeps k
      (State.mk s.regs s.latch s.tenants s.ras v s.pwr s.clk s.boot s.colo s.trigPinHolder s.swf s.cap s.coll s.lanes
        s.sectors s.trig s.press s.frames s.frameLanes s.noc s.bry s.cores s.dbg s.mem s.obs s.fab s.sec s.gio
        s.out s.free s.pending) :=
  { h with sup := fun e => absurd m (by simp [e]) }

theorem upd_pwr {v : PwrSt} (m : k.may .pwr = true) (h : State.Keeps k s) :
    State.Keeps k
      (State.mk s.regs s.latch s.tenants s.ras s.sup v s.clk s.boot s.colo s.trigPinHolder s.swf s.cap s.coll s.lanes
        s.sectors s.trig s.press s.frames s.frameLanes s.noc s.bry s.cores s.dbg s.mem s.obs s.fab s.sec s.gio
        s.out s.free s.pending) :=
  { h with pwr := fun e => absurd m (by simp [e]) }

theorem upd_boot {v : BootSt} (m : k.may .boot = true) (h : State.Keeps k s) :
    State.Keeps k
      (State.mk s.regs s.latch s.tenants s.ras s.sup s.pwr s.clk v s.colo s.trigPinHolder s.swf s.cap s.coll s.lanes
        s.sectors s.trig s.press s.frames s.frameLanes s.noc s.bry s.cores s.dbg s.mem s.obs s.fab s.sec s.gio
        s.out s.free s.pending) :=
  { h with boot := fun e => absurd m (by simp [e]) }

theorem upd_colo {v : ColoSt} (m : k.may .colo = true) (h : State.Keeps k s) :
    State.Keeps k
      (State.mk s.regs s.latch s.tenants s.ras s.sup s.pwr s.clk s.boot v s.trigPinHolder s.swf s.cap s.coll s.lanes
        s.sectors s.trig s.press s.frames s.frameLanes s.noc s.bry s.cores s.dbg s.mem s.obs s.fab s.sec s.gio
        s.out s.free s.pending) :=
  { h with colo := fun e => absurd m (by simp [e]) }

theorem upd_trigPinHolder {v : Tbl Nat} (m : k.may .trigPinHolder = true) (h : State.Keeps k s) :
    State.Keeps k
      (State.mk s.regs s.latch s.tenants s.ras s.sup s.pwr s.clk s.boot s.colo v s.swf s.cap s.coll s.lanes s.sectors
        s.trig s.press s.frames s.frameLanes s.noc s.bry s.cores s.dbg s.mem s.obs s.fab s.sec s.gio s.out
        s.free s.pending) :=
  { h with trigPinHolder := fun e => absurd m (by simp [e]) }

theorem upd_swf {v : SwfSt} (m : k.may .swf = true) (h : State.Keeps k s) :
    State.Keeps k
      (State.mk s.regs s.latch s.tenants s.ras s.sup s.pwr s.clk s.boot s.colo s.trigPinHolder v s.cap s.coll s.lanes
        s.sectors s.trig s.press s.frames s.frameLanes s.noc s.bry s.cores s.dbg s.mem s.obs s.fab s.sec s.gio
        s.out s.free s.pending) :=
  { h with swf := fun e => absurd m (by simp [e]) }

theorem upd_cap {v : CapSt} (m : k.may .cap = true) (h : State.Keeps k s) :
    State.Keeps k
      (State.mk s.regs s.latch s.tenants s.ras s.sup s.pwr s.clk s.boot s.colo s.trigPinHolder s.swf v s.coll s.lanes
        s.sectors s.trig s.press s.frames s.frameLanes s.noc s.bry s.cores s.dbg s.mem s.obs s.fab s.sec s.gio
        s.out s.free s.pending) :=
  { h with cap := fun e => absurd m (by simp [e]) }

theorem upd_coll {v : CollSt} (m : k.may .coll = true) (h : State.Keeps k s) :
    State.Keeps k
      (State.mk s.regs s.latch s.tenants s.ras s.sup s.pwr s.clk s.boot s.colo s.trigPinHolder s.swf s.cap v s.lanes
        s.sectors s.trig s.press s.frames s.frameLanes s.noc s.bry s.cores s.dbg s.mem s.obs s.fab s.sec s.gio
        s.out s.free s.pending) :=
  { h with coll := fun e => absurd m (by simp [e]) }

theorem upd_lanes {v : Tbl LaneSt} (m : k.may .lanes = true) (h : State.Keeps k s) :
    State.Keeps k
      (State.mk s.regs s.latch s.tenants s.ras s.sup s.pwr s.clk s.boot s.colo s.trigPinHolder s.swf s.cap s.coll v
        s.sectors s.trig s.press s.frames s.frameLanes s.noc s.bry s.cores s.dbg s.mem s.obs s.fab s.sec s.gio
        s.out s.free s.pending) :=
  { h with lanes := fun e => absurd m (by simp [e]) }

theorem upd_sectors {v : Tbl SectorSt} (m : k.may .sectors = true) (h : State.Keeps k s) :
    State.Keeps k
      (State.mk s.regs s.latch s.tenants s.ras s.sup s.pwr s.clk s.boot s.colo s.trigPinHolder s.swf s.cap s.coll
        s.lanes v s.trig s.press s.frames s.frameLanes s.noc s.bry s.cores s.dbg s.mem s.obs s.fab s.sec s.gio
        s.out s.free s.pending) :=
  { h with sectors := fun e => absurd m (by simp [e]) }

theorem upd_trig {v : TrigSt} (m : k.may .trig = true) (h : State.Keeps k s) :
    State.Keeps k
      (State.mk s.regs s.latch s.tenants s.ras s.sup s.pwr s.clk s.boot s.colo s.trigPinHolder s.swf s.cap s.coll
        s.lanes s.sectors v s.press s.frames s.frameLanes s.noc s.bry s.cores s.dbg s.mem s.obs s.fab s.sec
        s.gio s.out s.free s.pending) :=
  { h with trig := fun e => absurd m (by simp [e]) }

theorem upd_press {v : Tbl PressSt} (m : k.may .press = true) (h : State.Keeps k s) :
    State.Keeps k
      (State.mk s.regs s.latch s.tenants s.ras s.sup s.pwr s.clk s.boot s.colo s.trigPinHolder s.swf s.cap s.coll
        s.lanes s.sectors s.trig v s.frames s.frameLanes s.noc s.bry s.cores s.dbg s.mem s.obs s.fab s.sec s.gio
        s.out s.free s.pending) :=
  { h with press := fun e => absurd m (by simp [e]) }

theorem upd_frames {v : Tbl FrameSt} (m : k.may .frames = true) (h : State.Keeps k s) :
    State.Keeps k
      (State.mk s.regs s.latch s.tenants s.ras s.sup s.pwr s.clk s.boot s.colo s.trigPinHolder s.swf s.cap s.coll
        s.lanes s.sectors s.trig s.press v s.frameLanes s.noc s.bry s.cores s.dbg s.mem s.obs s.fab s.sec s.gio
        s.out s.free s.pending) :=
  { h with frames := fun e => absurd m (by simp [e]) }

theorem upd_frameLanes {v : Tbl FrameLane} (m : k.may .frameLanes = true) (h : State.Keeps k s) :
    State.Keeps k
      (State.mk s.regs s.latch s.tenants s.ras s.sup s.pwr s.clk s.boot s.colo s.trigPinHolder s.swf s.cap s.coll
        s.lanes s.sectors s.trig s.press s.frames v s.noc s.bry s.cores s.dbg s.mem s.obs s.fab s.sec s.gio
        s.out s.free s.pending) :=
  { h with frameLanes := fun e => absurd m (by simp [e]) }

theorem upd_noc {v : NocSt} (m : k.may .noc = true) (h : State.Keeps k s) :
    State.Keeps k
      (State.mk s.regs s.latch s.tenants s.ras s.sup s.pwr s.clk s.boot s.colo s.trigPinHolder s.swf s.cap s.coll
        s.lanes s.sectors s.trig s.press s.frames s.frameLanes v s.bry s.cores s.dbg s.mem s.obs s.fab s.sec
        s.gio s.out s.free s.pending) :=
  { h with noc := fun e => absurd m (by simp [e]) }

theorem upd_bry {v : BrySt} (m : k.may .bry = true) (h : State.Keeps k s) :
    State.Keeps k
      (State.mk s.regs s.latch s.tenants s.ras s.sup s.pwr s.clk s.boot s.colo s.trigPinHolder s.swf s.cap s.coll
        s.lanes s.sectors s.trig s.press s.frames s.frameLanes s.noc v s.cores s.dbg s.mem s.obs s.fab s.sec
        s.gio s.out s.free s.pending) :=
  { h with bry := fun e => absurd m (by simp [e]) }

theorem upd_cores {v : Tbl CoreSt} (m : k.may .cores = true) (h : State.Keeps k s) :
    State.Keeps k
      (State.mk s.regs s.latch s.tenants s.ras s.sup s.pwr s.clk s.boot s.colo s.trigPinHolder s.swf s.cap s.coll
        s.lanes s.sectors s.trig s.press s.frames s.frameLanes s.noc s.bry v s.dbg s.mem s.obs s.fab s.sec s.gio
        s.out s.free s.pending) :=
  { h with cores := fun e => absurd m (by simp [e]) }

theorem upd_dbg {v : DbgSt} (m : k.may .dbg = true) (h : State.Keeps k s) :
    State.Keeps k
      (State.mk s.regs s.latch s.tenants s.ras s.sup s.pwr s.clk s.boot s.colo s.trigPinHolder s.swf s.cap s.coll
        s.lanes s.sectors s.trig s.press s.frames s.frameLanes s.noc s.bry s.cores v s.mem s.obs s.fab s.sec
        s.gio s.out s.free s.pending) :=
  { h with dbg := fun e => absurd m (by simp [e]) }

theorem upd_mem {v : MemSt} (m : k.may .mem = true) (h : State.Keeps k s) :
    State.Keeps k
      (State.mk s.regs s.latch s.tenants s.ras s.sup s.pwr s.clk s.boot s.colo s.trigPinHolder s.swf s.cap s.coll
        s.lanes s.sectors s.trig s.press s.frames s.frameLanes s.noc s.bry s.cores s.dbg v s.obs s.fab s.sec
        s.gio s.out s.free s.pending) :=
  { h with mem := fun e => absurd m (by simp [e]) }

theorem upd_obs {v : ObsSt} (m : k.may .obs = true) (h : State.Keeps k s) :
    State.Keeps k
      (State.mk s.regs s.latch s.tenants s.ras s.sup s.pwr s.clk s.boot s.colo s.trigPinHolder s.swf s.cap s.coll
        s.lanes s.sectors s.trig s.press s.frames s.frameLanes s.noc s.bry s.cores s.dbg s.mem v s.fab s.sec
        s.gio s.out s.free s.pending) :=
  { h with obs := fun e => absurd m (by simp [e]) }

theorem upd_fab {v : FabSt} (m : k.may .fab = true) (h : State.Keeps k s) :
    State.Keeps k
      (State.mk s.regs s.latch s.tenants s.ras s.sup s.pwr s.clk s.boot s.colo s.trigPinHolder s.swf s.cap s.coll
        s.lanes s.sectors s.trig s.press s.frames s.frameLanes s.noc s.bry s.cores s.dbg s.mem s.obs v s.sec
        s.gio s.out s.free s.pending) :=
  { h with fab := fun e => absurd m (by simp [e]) }

theorem upd_sec {v : SecSt} (m : k.may .sec = true) (h : State.Keeps k s) :
    State.Keeps k
      (State.mk s.regs s.latch s.tenants s.ras s.sup s.pwr s.clk s.boot s.colo s.trigPinHolder s.swf s.cap s.coll
        s.lanes s.sectors s.trig s.press s.frames s.frameLanes s.noc s.bry s.cores s.dbg s.mem s.obs s.fab v
        s.gio s.out s.free s.pending) :=
  { h with sec := fun e => absurd m (by simp [e]) }

theorem upd_gio {v : GioSt} (m : k.may .gio = true) (h : State.Keeps k s) :
    State.Keeps k
      (State.mk s.regs s.latch s.tenants s.ras s.sup s.pwr s.clk s.boot s.colo s.trigPinHolder s.swf s.cap s.coll
        s.lanes s.sectors s.trig s.press s.frames s.frameLanes s.noc s.bry s.cores s.dbg s.mem s.obs s.fab s.sec
        v s.out s.free s.pending) :=
  { h with gio := fun e => absurd m (by simp [e]) }

theorem upd_out {v : List Out} (m : k.may .out = true) (h : State.Keeps k s) :
    State.Keeps k
      (State.mk s.regs s.latch s.tenants s.ras s.sup s.pwr s.clk s.boot s.colo s.trigPinHolder s.swf s.cap s.coll
        s.lanes s.sectors s.trig s.press s.frames s.frameLanes s.noc s.bry s.cores s.dbg s.mem s.obs s.fab s.sec
        s.gio v s.free s.pending) :=
  { h with out := fun e => absurd m (by simp [e]) }

theorem upd_free {v : Nat} (m : k.may .free = true) (h : State.Keeps k s) :
    State.Keeps k
      (State.mk s.regs s.latch s.tenants s.ras s.sup s.pwr s.clk s.boot s.colo s.trigPinHolder s.swf s.cap s.coll
        s.lanes s.sectors s.trig s.press s.frames s.frameLanes s.noc s.bry s.cores s.dbg s.mem s.obs s.fab s.sec
        s.gio s.out v s.pending) :=
  { h with free := fun e => absurd m (by simp [e]) }

/-- An update of the clock that leaves the timebase. -/
theorem upd_clk {c1 : Nat} {c2 : Option Nat} {c3 : Bool} {c4 : Nat} {c5 : Nat} {c6 : Int} {c7 : Option TimeReq}
    {c8 : Bool} {c9 : Option Nat} (m : k.may .clk = true)
    (h : State.Keeps k s) :
    State.Keeps k
      (State.mk s.regs s.latch s.tenants s.ras s.sup s.pwr (ClkSt.mk s.clk.timebase c1 c2 c3 c4 c5 c6 c7 c8 c9) s.boot
        s.colo s.trigPinHolder s.swf s.cap s.coll s.lanes s.sectors s.trig s.press s.frames s.frameLanes s.noc
        s.bry s.cores s.dbg s.mem s.obs s.fab s.sec s.gio s.out s.free s.pending) :=
  { h with clk := fun e => absurd m (by simp [e]) }

/-- An update of several components. -/
theorem upd_any {latch' : Tbl (List Word)} {tenants' : Tbl Tenant} {ras' : RasSt} {sup' : SupSt} {pwr' : PwrSt} {boot' :
    BootSt} {colo' : ColoSt} {trigPinHolder' : Tbl Nat} {swf' : SwfSt} {cap' : CapSt} {coll' : CollSt}
    {lanes' : Tbl LaneSt} {sectors' : Tbl SectorSt} {trig' : TrigSt} {press' : Tbl PressSt} {frames' : Tbl
    FrameSt} {frameLanes' : Tbl FrameLane} {noc' : NocSt} {bry' : BrySt} {cores' : Tbl CoreSt} {dbg' :
    DbgSt} {mem' : MemSt} {obs' : ObsSt} {fab' : FabSt} {sec' : SecSt} {gio' : GioSt} {out' : List Out}
    {free' : Nat}
    {l : List Part} (hm : k.Allows l) (h : State.Keeps k s)
    (h_latch : latch' = s.latch ∨ l.contains Part.latch = true := by first | exact Or.inl rfl | exact Or.inr (by decide))
    (h_tenants : tenants' = s.tenants ∨ l.contains Part.tenants = true := by first | exact Or.inl rfl | exact Or.inr (by decide))
    (h_ras : ras' = s.ras ∨ l.contains Part.ras = true := by first | exact Or.inl rfl | exact Or.inr (by decide))
    (h_sup : sup' = s.sup ∨ l.contains Part.sup = true := by first | exact Or.inl rfl | exact Or.inr (by decide))
    (h_pwr : pwr' = s.pwr ∨ l.contains Part.pwr = true := by first | exact Or.inl rfl | exact Or.inr (by decide))
    (h_boot : boot' = s.boot ∨ l.contains Part.boot = true := by first | exact Or.inl rfl | exact Or.inr (by decide))
    (h_colo : colo' = s.colo ∨ l.contains Part.colo = true := by first | exact Or.inl rfl | exact Or.inr (by decide))
    (h_trigPinHolder : trigPinHolder' = s.trigPinHolder ∨ l.contains Part.trigPinHolder = true := by first | exact Or.inl rfl | exact Or.inr (by decide))
    (h_swf : swf' = s.swf ∨ l.contains Part.swf = true := by first | exact Or.inl rfl | exact Or.inr (by decide))
    (h_cap : cap' = s.cap ∨ l.contains Part.cap = true := by first | exact Or.inl rfl | exact Or.inr (by decide))
    (h_coll : coll' = s.coll ∨ l.contains Part.coll = true := by first | exact Or.inl rfl | exact Or.inr (by decide))
    (h_lanes : lanes' = s.lanes ∨ l.contains Part.lanes = true := by first | exact Or.inl rfl | exact Or.inr (by decide))
    (h_sectors : sectors' = s.sectors ∨ l.contains Part.sectors = true := by first | exact Or.inl rfl | exact Or.inr (by decide))
    (h_trig : trig' = s.trig ∨ l.contains Part.trig = true := by first | exact Or.inl rfl | exact Or.inr (by decide))
    (h_press : press' = s.press ∨ l.contains Part.press = true := by first | exact Or.inl rfl | exact Or.inr (by decide))
    (h_frames : frames' = s.frames ∨ l.contains Part.frames = true := by first | exact Or.inl rfl | exact Or.inr (by decide))
    (h_frameLanes : frameLanes' = s.frameLanes ∨ l.contains Part.frameLanes = true := by first | exact Or.inl rfl | exact Or.inr (by decide))
    (h_noc : noc' = s.noc ∨ l.contains Part.noc = true := by first | exact Or.inl rfl | exact Or.inr (by decide))
    (h_bry : bry' = s.bry ∨ l.contains Part.bry = true := by first | exact Or.inl rfl | exact Or.inr (by decide))
    (h_cores : cores' = s.cores ∨ l.contains Part.cores = true := by first | exact Or.inl rfl | exact Or.inr (by decide))
    (h_dbg : dbg' = s.dbg ∨ l.contains Part.dbg = true := by first | exact Or.inl rfl | exact Or.inr (by decide))
    (h_mem : mem' = s.mem ∨ l.contains Part.mem = true := by first | exact Or.inl rfl | exact Or.inr (by decide))
    (h_obs : obs' = s.obs ∨ l.contains Part.obs = true := by first | exact Or.inl rfl | exact Or.inr (by decide))
    (h_fab : fab' = s.fab ∨ l.contains Part.fab = true := by first | exact Or.inl rfl | exact Or.inr (by decide))
    (h_sec : sec' = s.sec ∨ l.contains Part.sec = true := by first | exact Or.inl rfl | exact Or.inr (by decide))
    (h_gio : gio' = s.gio ∨ l.contains Part.gio = true := by first | exact Or.inl rfl | exact Or.inr (by decide))
    (h_out : out' = s.out ∨ l.contains Part.out = true := by first | exact Or.inl rfl | exact Or.inr (by decide))
    (h_free : free' = s.free ∨ l.contains Part.free = true := by first | exact Or.inl rfl | exact Or.inr (by decide)) :
    State.Keeps k
      (State.mk s.regs latch' tenants' ras' sup' pwr' s.clk boot' colo' trigPinHolder' swf' cap' coll' lanes' sectors'
        trig' press' frames' frameLanes' noc' bry' cores' dbg' mem' obs' fab' sec' gio' out' free' s.pending) :=
  { h with
    latch := fun e => h_latch.elim (fun a => a.trans (h.latch e)) (fun a => absurd (hm.holds _ a) (by simp [e]))
    tenants := fun e => h_tenants.elim (fun a => a.trans (h.tenants e)) (fun a => absurd (hm.holds _ a) (by simp [e]))
    ras := fun e => h_ras.elim (fun a => a.trans (h.ras e)) (fun a => absurd (hm.holds _ a) (by simp [e]))
    sup := fun e => h_sup.elim (fun a => a.trans (h.sup e)) (fun a => absurd (hm.holds _ a) (by simp [e]))
    pwr := fun e => h_pwr.elim (fun a => a.trans (h.pwr e)) (fun a => absurd (hm.holds _ a) (by simp [e]))
    boot := fun e => h_boot.elim (fun a => a.trans (h.boot e)) (fun a => absurd (hm.holds _ a) (by simp [e]))
    colo := fun e => h_colo.elim (fun a => a.trans (h.colo e)) (fun a => absurd (hm.holds _ a) (by simp [e]))
    trigPinHolder := fun e => h_trigPinHolder.elim (fun a => a.trans (h.trigPinHolder e)) (fun a => absurd (hm.holds _ a) (by simp [e]))
    swf := fun e => h_swf.elim (fun a => a.trans (h.swf e)) (fun a => absurd (hm.holds _ a) (by simp [e]))
    cap := fun e => h_cap.elim (fun a => a.trans (h.cap e)) (fun a => absurd (hm.holds _ a) (by simp [e]))
    coll := fun e => h_coll.elim (fun a => a.trans (h.coll e)) (fun a => absurd (hm.holds _ a) (by simp [e]))
    lanes := fun e => h_lanes.elim (fun a => a.trans (h.lanes e)) (fun a => absurd (hm.holds _ a) (by simp [e]))
    sectors := fun e => h_sectors.elim (fun a => a.trans (h.sectors e)) (fun a => absurd (hm.holds _ a) (by simp [e]))
    trig := fun e => h_trig.elim (fun a => a.trans (h.trig e)) (fun a => absurd (hm.holds _ a) (by simp [e]))
    press := fun e => h_press.elim (fun a => a.trans (h.press e)) (fun a => absurd (hm.holds _ a) (by simp [e]))
    frames := fun e => h_frames.elim (fun a => a.trans (h.frames e)) (fun a => absurd (hm.holds _ a) (by simp [e]))
    frameLanes := fun e => h_frameLanes.elim (fun a => a.trans (h.frameLanes e)) (fun a => absurd (hm.holds _ a) (by simp [e]))
    noc := fun e => h_noc.elim (fun a => a.trans (h.noc e)) (fun a => absurd (hm.holds _ a) (by simp [e]))
    bry := fun e => h_bry.elim (fun a => a.trans (h.bry e)) (fun a => absurd (hm.holds _ a) (by simp [e]))
    cores := fun e => h_cores.elim (fun a => a.trans (h.cores e)) (fun a => absurd (hm.holds _ a) (by simp [e]))
    dbg := fun e => h_dbg.elim (fun a => a.trans (h.dbg e)) (fun a => absurd (hm.holds _ a) (by simp [e]))
    mem := fun e => h_mem.elim (fun a => a.trans (h.mem e)) (fun a => absurd (hm.holds _ a) (by simp [e]))
    obs := fun e => h_obs.elim (fun a => a.trans (h.obs e)) (fun a => absurd (hm.holds _ a) (by simp [e]))
    fab := fun e => h_fab.elim (fun a => a.trans (h.fab e)) (fun a => absurd (hm.holds _ a) (by simp [e]))
    sec := fun e => h_sec.elim (fun a => a.trans (h.sec e)) (fun a => absurd (hm.holds _ a) (by simp [e]))
    gio := fun e => h_gio.elim (fun a => a.trans (h.gio e)) (fun a => absurd (hm.holds _ a) (by simp [e]))
    out := fun e => h_out.elim (fun a => a.trans (h.out e)) (fun a => absurd (hm.holds _ a) (by simp [e]))
    free := fun e => h_free.elim (fun a => a.trans (h.free e)) (fun a => absurd (hm.holds _ a) (by simp [e])) }

/-- Any update, where every part may change: only the store's form, the timebase and the queue are kept. -/
theorem upd_all {t : State} (m : k.All)
    (hr : Tbl.wf 0#32 s.regs = true → Tbl.wf 0#32 t.regs = true)
    (hc : s.clk.timebase.toNat % 8 = 0 → t.clk.timebase.toNat % 8 = 0) (hq : t.pending = s.pending)
    (h : State.Keeps k s) : State.Keeps k t where
  wf e := hr (h.wf e)
  time e := hc (h.time e)
  queue := hq.trans h.queue
  regs _ e := by simp [m.one] at e
  latch e := by simp [m.one] at e
  tenants e := by simp [m.one] at e
  ras e := by simp [m.one] at e
  sup e := by simp [m.one] at e
  pwr e := by simp [m.one] at e
  clk e := by simp [m.one] at e
  boot e := by simp [m.one] at e
  colo e := by simp [m.one] at e
  trigPinHolder e := by simp [m.one] at e
  swf e := by simp [m.one] at e
  cap e := by simp [m.one] at e
  coll e := by simp [m.one] at e
  lanes e := by simp [m.one] at e
  sectors e := by simp [m.one] at e
  trig e := by simp [m.one] at e
  press e := by simp [m.one] at e
  frames e := by simp [m.one] at e
  frameLanes e := by simp [m.one] at e
  noc e := by simp [m.one] at e
  bry e := by simp [m.one] at e
  cores e := by simp [m.one] at e
  dbg e := by simp [m.one] at e
  mem e := by simp [m.one] at e
  obs e := by simp [m.one] at e
  fab e := by simp [m.one] at e
  sec e := by simp [m.one] at e
  gio e := by simp [m.one] at e
  out e := by simp [m.one] at e
  free e := by simp [m.one] at e

/-- An update that sets the timebase to zero. -/
theorem upd_zero {t : State} (m : k.All)
    (hr : Tbl.wf 0#32 s.regs = true → Tbl.wf 0#32 t.regs = true)
    (hc : t.clk.timebase = (0 : BitVec 64)) (hq : t.pending = s.pending) (h : State.Keeps k s) : State.Keeps k t :=
  upd_all m hr (fun _ => by rw [hc]; rfl) hq h


/-- An update of any components, where every part may change: registers and clock stay. -/
theorem all_plain {latch' : Tbl (List Word)} {tenants' : Tbl Tenant} {ras' : RasSt} {sup' : SupSt} {pwr' : PwrSt} {boot' :
    BootSt} {colo' : ColoSt} {trigPinHolder' : Tbl Nat} {swf' : SwfSt} {cap' : CapSt} {coll' : CollSt}
    {lanes' : Tbl LaneSt} {sectors' : Tbl SectorSt} {trig' : TrigSt} {press' : Tbl PressSt} {frames' : Tbl
    FrameSt} {frameLanes' : Tbl FrameLane} {noc' : NocSt} {bry' : BrySt} {cores' : Tbl CoreSt} {dbg' :
    DbgSt} {mem' : MemSt} {obs' : ObsSt} {fab' : FabSt} {sec' : SecSt} {gio' : GioSt} {out' : List Out}
    {free' : Nat}
    (m : k.All) (h : State.Keeps k s) :
    State.Keeps k
      (State.mk s.regs latch' tenants' ras' sup' pwr' s.clk boot' colo' trigPinHolder' swf' cap' coll' lanes' sectors'
        trig' press' frames' frameLanes' noc' bry' cores' dbg' mem' obs' fab' sec' gio' out' free' s.pending) :=
  upd_all (s := s) m id id rfl h

/-- An update of any components, where every part may change: some registers go back to their reset words. -/
theorem all_filter (fl : Nat × Word → Bool) {latch' : Tbl (List Word)} {tenants' : Tbl Tenant} {ras' : RasSt} {sup' : SupSt} {pwr' : PwrSt} {boot' :
    BootSt} {colo' : ColoSt} {trigPinHolder' : Tbl Nat} {swf' : SwfSt} {cap' : CapSt} {coll' : CollSt}
    {lanes' : Tbl LaneSt} {sectors' : Tbl SectorSt} {trig' : TrigSt} {press' : Tbl PressSt} {frames' : Tbl
    FrameSt} {frameLanes' : Tbl FrameLane} {noc' : NocSt} {bry' : BrySt} {cores' : Tbl CoreSt} {dbg' :
    DbgSt} {mem' : MemSt} {obs' : ObsSt} {fab' : FabSt} {sec' : SecSt} {gio' : GioSt} {out' : List Out}
    {free' : Nat}
    (m : k.All) (h : State.Keeps k s) :
    State.Keeps k
      (State.mk (s.regs.filter fl) latch' tenants' ras' sup' pwr' s.clk boot' colo' trigPinHolder' swf' cap' coll'
        lanes' sectors' trig' press' frames' frameLanes' noc' bry' cores' dbg' mem' obs' fab' sec' gio' out'
        free' s.pending) :=
  upd_all m (Tbl.wf_filter _ _ _) id rfl h

/-- An update of any components, where every part may change: the timebase becomes zero. -/
theorem all_zero {latch' : Tbl (List Word)} {tenants' : Tbl Tenant} {ras' : RasSt} {sup' : SupSt} {pwr' : PwrSt} {boot' :
    BootSt} {colo' : ColoSt} {trigPinHolder' : Tbl Nat} {swf' : SwfSt} {cap' : CapSt} {coll' : CollSt}
    {lanes' : Tbl LaneSt} {sectors' : Tbl SectorSt} {trig' : TrigSt} {press' : Tbl PressSt} {frames' : Tbl
    FrameSt} {frameLanes' : Tbl FrameLane} {noc' : NocSt} {bry' : BrySt} {cores' : Tbl CoreSt} {dbg' :
    DbgSt} {mem' : MemSt} {obs' : ObsSt} {fab' : FabSt} {sec' : SecSt} {gio' : GioSt} {out' : List Out}
    {free' : Nat}
    {c1 : Nat} {c2 : Option Nat} {c3 : Bool} {c4 : Nat} {c5 : Nat} {c6 : Int} {c7 : Option TimeReq}
    {c8 : Bool} {c9 : Option Nat}
    (m : k.All) (h : State.Keeps k s) :
    State.Keeps k
      (State.mk s.regs latch' tenants' ras' sup' pwr' (ClkSt.mk (0 : BitVec 64) c1 c2 c3 c4 c5 c6 c7 c8 c9) boot' colo'
        trigPinHolder' swf' cap' coll' lanes' sectors' trig' press' frames' frameLanes' noc' bry' cores' dbg'
        mem' obs' fab' sec' gio' out' free' s.pending) :=
  upd_zero (s := s) m id rfl rfl h

theorem pair {α : Type} {v : α} (h : State.Keeps k s) : State.KeepsFst k (s, v) := ⟨h⟩

theorem pair' {α : Type} {v : α} (h : State.Keeps k s) : State.KeepsSnd k (v, s) := ⟨h⟩

theorem ite_pair {α : Type} {c : Prop} [Decidable c] {a b : State × α} (ha : State.KeepsFst k a)
    (hb : State.KeepsFst k b) : State.KeepsFst k (if c then a else b) := by split <;> assumption

theorem next {t : State} (h : State.Keeps k t) : State.KeepsOut k (.next t) := ⟨fun _ e => by cases e; exact h⟩

theorem fault {r : Fault} : State.KeepsOut k (.fault r) := ⟨fun _ e => by cases e⟩

theorem of_fst {α : Type} {r : State × α} (h : State.KeepsFst k r) : State.Keeps k r.1 := h.fst

theorem of_snd {α : Type} {r : α × State} (h : State.KeepsSnd k r) : State.Keeps k r.2 := h.snd

theorem fst {α : Type} {r : State × α} {t : State} {v : α} (e : r = (t, v)) (h : State.KeepsFst k r) :
    State.Keeps k t := by subst e; exact h.fst

theorem snd {α : Type} {r : α × State} {t : State} {v : α} (e : r = (v, t)) (h : State.KeepsSnd k r) :
    State.Keeps k t := by subst e; exact h.snd

theorem foldl {α : Type} (l : List α) (f : State → α → State) (hf : ∀ s x, State.Keeps k s → State.Keeps k (f s x)) :
    ∀ s, State.Keeps k s → State.Keeps k (l.foldl f s) := by
  induction l with
  | nil => exact fun _ h => h
  | cons x r ih => exact fun s h => ih _ (hf s x h)

theorem foldl_fst {α β : Type} (l : List α) (f : State × β → α → State × β)
    (hf : ∀ r x, State.KeepsFst k r → State.KeepsFst k (f r x)) :
    ∀ r, State.KeepsFst k r → State.KeepsFst k (l.foldl f r) := by
  induction l with
  | nil => exact fun _ h => h
  | cons x r ih => exact fun s h => ih _ (hf s x h)

end Keeps

theorem blockIn_mem (l : List (Nat × Part)) (x : Nat) : blockIn l x ∈ l.map (fun q => q.2) ++ [.FRM] := by
  induction l with
  | nil => simp [blockIn]
  | cons q r ih =>
    simp only [blockIn, List.map_cons, List.cons_append, List.mem_cons]
    split
    · exact .inl rfl
    · exact .inr ih

theorem blockIn_between (l : List (Nat × Part)) (hl : (l.map (fun (q : Nat × Part) => q.2) ++ [Part.FRM]).Nodup) {p : Part} {a x b : Nat}
    (ha : blockIn l a = p) (hb : blockIn l b = p) (h1 : a ≤ x) (h2 : x ≤ b) : blockIn l x = p := by
  induction l with
  | nil => exact ha
  | cons q r ih =>
    simp only [List.map_cons, List.cons_append, List.nodup_cons] at hl
    simp only [blockIn] at ha hb ⊢
    split at hb
    · rw [if_pos (by omega)]; exact hb
    · split at ha
      · exact absurd (ha ▸ hb ▸ blockIn_mem r b) hl.1
      · rw [if_neg (by omega)]; exact ih hl.2 ha hb

theorem blockOf_between {p : Part} {a x b : Nat} (ha : blockOf a = p) (hb : blockOf b = p) (h1 : a ≤ x) (h2 : x ≤ b) :
    blockOf x = p := blockIn_between _ (by decide) ha hb h1 h2

theorem RegDef.inBlock_addr {r : RegDef} {p : Part} (h : r.inBlock p = true) (i j l : Nat) :
    blockOf (r.addr i j l) = p := by
  simp only [RegDef.inBlock, Bool.and_eq_true, beq_iff_eq, decide_eq_true_eq] at h
  obtain ⟨⟨⟨⟨ha, hb⟩, h1⟩, h2⟩, h3⟩ := h
  refine blockOf_between ha hb ?_ ?_
  · simp only [RegDef.addr]; omega
  · have a1 := Nat.mul_le_mul_left r.s1 (Nat.le_sub_one_of_lt (Nat.mod_lt i h1))
    have a2 := Nat.mul_le_mul_left r.s2 (Nat.le_sub_one_of_lt (Nat.mod_lt j h2))
    have a3 := Nat.mul_le_mul_left r.s3 (Nat.le_sub_one_of_lt (Nat.mod_lt l h3))
    simp only [RegDef.addr]; omega

namespace Kept.Allows

variable {k : Kept} {l : List Part}

theorem one (h : k.Allows l) {p : Part} (hp : l.contains p = true) : k.may p = true := h.holds p hp

theorem sub (h : k.Allows l) {l' : List Part} (hl : l'.all (fun p => l.contains p) = true) : k.Allows l' :=
  ⟨fun p hp => h.holds p (List.all_eq_true.mp hl p (by simpa using hp))⟩

/-- The registers of a block that may change. -/
theorem regs (h : k.Allows l) {r : RegDef} (hr : l.any (fun p => r.inBlock p) = true) : k.Regs r := by
  obtain ⟨p, hp, hr⟩ := List.any_eq_true.mp hr
  exact ⟨fun i j m => by rw [RegDef.inBlock_addr hr]; exact h.holds p (by simpa using hp)⟩

theorem regsList (h : k.Allows l) {rs : List RegDef} (hr : rs.all (fun r => l.any (fun p => r.inBlock p)) = true) :
    ∀ r ∈ rs, k.Regs r := fun r m => h.regs (List.all_eq_true.mp hr r m)

theorem fieldsList (h : k.Allows l) {fs : List Fld} (hr : fs.all (fun f => l.any (fun p => f.r.inBlock p)) = true) :
    ∀ f ∈ fs, k.Regs f.r := fun f m => h.regs (List.all_eq_true.mp hr f m)

end Kept.Allows

namespace Kept.All

variable {k : Kept}

theorem sub (h : k.All) {l : List Part} : k.Allows l := ⟨fun p _ => h.one p⟩

theorem regs (h : k.All) {r : RegDef} : k.Regs r := ⟨fun _ _ _ => h.one _⟩

theorem regsList (h : k.All) {rs : List RegDef} : ∀ r ∈ rs, k.Regs r := fun _ _ => h.regs

theorem fieldsList (h : k.All) {fs : List Fld} : ∀ f ∈ fs, k.Regs f.r := fun _ _ => h.regs

end Kept.All

theorem State.each_mem_kept {k : Kept} {α : Type} (P : α → Prop) (s : State) (l : List α) (f : State → α → State)
    (hk : State.Keeps k s) (hl : ∀ x ∈ l, P x) (hf : ∀ s x, P x → State.Keeps k s → State.Keeps k (f s x)) :
    State.Keeps k (s.each l f) := by
  simp only [State.each]
  induction l generalizing s with
  | nil => exact hk
  | cons x r ih =>
    exact ih _ (hf s x (hl x (List.mem_cons_self ..)) hk) (fun y hy => hl y (List.mem_cons_of_mem _ hy))

theorem State.eachReg_kept {k : Kept} (s : State) (l : List RegDef) (f : State → RegDef → State)
    (hk : State.Keeps k s) (hl : ∀ x ∈ l, k.Regs x) (hf : ∀ s x, k.Regs x → State.Keeps k s → State.Keeps k (f s x)) :
    State.Keeps k (s.each l f) := State.each_mem_kept _ s l f hk hl hf

theorem State.eachFld_kept {k : Kept} (s : State) (l : List Fld) (f : State → Fld → State)
    (hk : State.Keeps k s) (hl : ∀ x ∈ l, k.Regs x.r) (hf : ∀ s x, k.Regs x.r → State.Keeps k s → State.Keeps k (f s x)) :
    State.Keeps k (s.each l f) := State.each_mem_kept (fun x => k.Regs x.r) s l f hk hl hf

theorem State.setWord_kept {k : Kept} (s : State) (r : RegDef) (v : Word) (i j l : Nat) (hk : State.Keeps k s)
    (hr : k.Regs r) : State.Keeps k (State.setWord s r v i j l) :=
  { hk with
    wf := fun e => Tbl.wf_set _ _ _ _ (hk.wf e)
    regs := fun off e => by
      refine (Tbl.get_set_ne ?_).trans (hk.regs off e)
      rintro rfl
      simp [hr.all i j l] at e }

end Sys2Proof.Machine
end

