-- ==== Sys2Proof/Laws/Frame.lean ====
section
/-! SUPPORT. Laws/Frame.lean: from what Laws/Keeps.lean keeps to the frame of a command: the parts outside a list are the
same in both states (`State.SameBut`). -/
namespace Sys2Proof.Machine

/-- What a command that may change the parts of `l` is held to when it begins in `s`. -/
def Kept.of (l : List Part) (s : State) : Kept := { queue := s.pending, start := s, may := l.contains }

variable {l : List Part} {s t : State}

theorem Kept.of_keeps : State.Keeps (Kept.of l s) s := by constructor <;> intros <;> first | rfl | assumption

theorem Kept.of_allows : (Kept.of l s).Allows l := ⟨fun _ h => h⟩

theorem Kept.of_all : (Kept.of allParts s).All := ⟨fun p => by cases p <;> rfl⟩

theorem Kept.of_queue (h : State.Keeps (Kept.of l s) t) : t.pending = s.pending := h.queue

theorem Kept.of_kept (h : State.Keeps (Kept.of l s) t) (hs : s.kept = true) : t.kept = true := by
  simp only [State.kept, State.regsWf, State.timeAligned, Bool.and_eq_true, beq_iff_eq] at hs ⊢
  exact ⟨h.wf hs.1, h.time hs.2⟩

theorem Kept.of_sameBut (h : State.Keeps (Kept.of l s) t) : State.SameBut l s t := by
  intro p hp
  have may : (Kept.of l s).may p = false := by simpa [Kept.of] using hp
  cases p
  case latch => exact h.latch may
  case tenants => exact h.tenants may
  case ras => exact h.ras may
  case sup => exact h.sup may
  case pwr => exact h.pwr may
  case clk => exact h.clk may
  case boot => exact h.boot may
  case colo => exact h.colo may
  case trigPinHolder => exact h.trigPinHolder may
  case swf => exact h.swf may
  case cap => exact h.cap may
  case coll => exact h.coll may
  case lanes => exact h.lanes may
  case sectors => exact h.sectors may
  case trig => exact h.trig may
  case press => exact h.press may
  case frames => exact h.frames may
  case frameLanes => exact h.frameLanes may
  case noc => exact h.noc may
  case bry => exact h.bry may
  case cores => exact h.cores may
  case dbg => exact h.dbg may
  case mem => exact h.mem may
  case obs => exact h.obs may
  case fab => exact h.fab may
  case sec => exact h.sec may
  case gio => exact h.gio may
  case out => exact h.out may
  case free => exact h.free may
  all_goals exact fun off e => h.regs off (e ▸ may)

end Sys2Proof.Machine
end

