-- ==== Sys2Proof/Laws/KeepsOps.lean ====
section
/-! SUPPORT. Laws/KeepsOps.lean: the operations of Machine/Ops.lean keep what Laws/Keeps.lean says. -/
set_option Elab.async false  -- one proof at a time: the package as one text then needs less memory
namespace Sys2Proof.Machine

theorem State.put_kept {k : Kept} (s : State) (f : Fld) (v : Nat) (i : Nat) (j : Nat) (k_ : Nat) (hk :
    State.Keeps k s) (hr_f : k.Regs f.r) :
    State.Keeps k (State.put s f v i j k_) := by
  unfold State.put
  with_reducible repeat' first
    | exact hk | assumption | apply State.setWord_kept

theorem State.ev_kept {k : Kept} (s : State) (f : Fld) (i : Nat) (j : Nat) (k_ : Nat) (hk : State.Keeps k s)
    (hr_f : k.Regs f.r) :
    State.Keeps k (State.ev s f i j k_) := by
  unfold State.ev
  with_reducible repeat' first
    | exact hk | assumption | apply State.put_kept

theorem State.clr_kept {k : Kept} (s : State) (f : Fld) (i : Nat) (j : Nat) (k_ : Nat) (hk : State.Keeps k s)
    (hr_f : k.Regs f.r) :
    State.Keeps k (State.clr s f i j k_) := by
  unfold State.clr
  with_reducible repeat' first
    | exact hk | assumption | apply State.put_kept

theorem State.cnt_kept {k : Kept} (s : State) (f : Fld) (n : Nat) (i : Nat) (j : Nat) (k_ : Nat) (hk :
    State.Keeps k s) (hr_f : k.Regs f.r) :
    State.Keeps k (State.cnt s f n i j k_) := by
  unfold State.cnt
  with_reducible repeat' first
    | exact hk | assumption | apply State.put_kept

theorem State.cntWrap_kept {k : Kept} (s : State) (f : Fld) (n : Nat) (i : Nat) (j : Nat) (k_ : Nat) (hk :
    State.Keeps k s) (hr_f : k.Regs f.r) :
    State.Keeps k (State.cntWrap s f n i j k_) := by
  unfold State.cntWrap
  with_reducible repeat' first
    | exact hk | assumption | apply State.put_kept

theorem State.setPair_kept {k : Kept} (s : State) (lo hi : RegDef) (v : Nat) (i : Nat) (hk : State.Keeps k s)
    (hr_lo : k.Regs lo) (hr_hi : k.Regs hi) :
    State.Keeps k (State.setPair s lo hi v i) := by
  unfold State.setPair
  with_reducible repeat' first
    | exact hk | assumption | apply State.setWord_kept

theorem State.addPair_kept {k : Kept} (s : State) (lo hi : RegDef) (n : Nat) (i : Nat) (hk : State.Keeps k s)
    (hr_lo : k.Regs lo) (hr_hi : k.Regs hi) :
    State.Keeps k (State.addPair s lo hi n i) := by
  unfold State.addPair
  with_reducible repeat' first
    | exact hk | assumption | apply State.setPair_kept

theorem State.when_kept {k : Kept} (s : State) (c : Bool) (f : State → State) (hk : State.Keeps k s) (hk_f : ∀
    s, State.Keeps k s → State.Keeps k (f s)) :
    State.Keeps k (State.when s c f) := by
  unfold State.when
  with_reducible repeat' first
    | exact hk | assumption | apply hk_f | (intro _) | (dsimp -zeta only) | apply Keeps.of_fst |
      apply Keeps.of_snd | split | apply Keeps.pair | apply Keeps.pair'

theorem State.each_kept {k : Kept} {α : Type} (s : State) (l : List α) (f : State → α → State) (hk : State.Keeps
    k s) (hk_f : ∀ s x0, State.Keeps k s → State.Keeps k (f s x0)) :
    State.Keeps k (State.each s l f) := by
  unfold State.each
  with_reducible repeat' first
    | exact hk | assumption | apply hk_f | (intro _) | (dsimp -zeta only) | apply Keeps.of_fst |
      apply Keeps.of_snd | apply Keeps.foldl | apply Keeps.foldl_fst | apply Keeps.pair | apply Keeps.pair'

theorem State.err_kept {k : Kept} (s : State) (kind off : Nat) (p : Path) (hk : State.Keeps k s) (hm : k.Allows
    [.GLB]) :
    State.Keeps k (State.err s kind off p) := by
  unfold State.err
  with_reducible repeat' first
    | exact hk | assumption | exact hm.regs (by decide) | exact hm.sub (by decide) | exact hm.one (by decide) |
      apply State.setWord_kept | apply State.put_kept | extract_lets

theorem State.badEncoding_kept {k : Kept} (s : State) (off : Nat) (p : Path) (hk : State.Keeps k s) (hm :
    k.Allows [.GLB]) :
    State.Keeps k (State.badEncoding s off p) := by
  unfold State.badEncoding
  with_reducible repeat' first
    | exact hk | assumption | exact hm.regs (by decide) | exact hm.sub (by decide) | apply State.err_kept

theorem State.lostWrite_kept {k : Kept} (s : State) (off : Nat) (p : Path) (hk : State.Keeps k s) (hm : k.Allows
    [.GLB]) :
    State.Keeps k (State.lostWrite s off p) := by
  unfold State.lostWrite
  with_reducible repeat' first
    | exact hk | assumption | exact hm.regs (by decide) | exact hm.sub (by decide) | exact hm.one (by decide) |
      apply State.cnt_kept | apply State.err_kept

theorem State.advanceTo_kept {k : Kept} (s : State) (t : Nat) (hk : State.Keeps k s) (hm : k.Allows [.clk]) :
    State.Keeps k (State.advanceTo s t) := by
  unfold State.advanceTo
  split
  · refine { hk with time := fun _ => ?_, clk := fun e => ?_ }
    · simp only [BitVec.toNat_ofNat]; omega
    · simp [hm.one (p := .clk) (by decide)] at e
  · exact hk

theorem State.fresh_kept {k : Kept} (s : State) (hk : State.Keeps k s) (hm : k.Allows [.free]) :
    State.KeepsSnd k (State.fresh s) := by
  unfold State.fresh
  with_reducible repeat' first
    | exact hk | assumption | exact hm.regs (by decide) | exact hm.sub (by decide) | exact hm.one (by decide) |
      extract_lets | (dsimp -zeta only) | apply Keeps.of_fst | apply Keeps.of_snd | apply Keeps.pair |
      apply Keeps.pair' | apply Keeps.upd_free

theorem State.send_kept {k : Kept} (s : State) (o : Out) (hk : State.Keeps k s) (hm : k.Allows [.out]) :
    State.Keeps k (State.send s o) := by
  unfold State.send
  with_reducible repeat' first
    | exact hk | assumption | exact hm.regs (by decide) | exact hm.sub (by decide) | exact hm.one (by decide) |
      extract_lets | apply Keeps.upd_out

theorem State.sendHost_kept {k : Kept} (s : State) (t : Nat) (o : Out) (hk : State.Keeps k s) (hm : k.Allows
    [.out, .tenants]) :
    State.Keeps k (State.sendHost s t o) := by
  unfold State.sendHost
  with_reducible repeat' first
    | exact hk | assumption | exact hm.regs (by decide) | exact hm.sub (by decide) | exact hm.one (by decide) |
      apply State.send_kept | extract_lets | split | apply Keeps.upd_tenants

theorem State.hostWrite_kept {k : Kept} (s : State) (t addr : Nat) (bytes : List Nat) (hk : State.Keeps k s) (hm
    : k.Allows [.out, .tenants]) :
    State.Keeps k (State.hostWrite s t addr bytes) := by
  unfold State.hostWrite
  with_reducible repeat' first
    | exact hk | assumption | exact hm.regs (by decide) | exact hm.sub (by decide) | apply State.sendHost_kept

theorem State.setTen_kept {k : Kept} (s : State) (t : Nat) (x : Tenant) (hk : State.Keeps k s) (hm : k.Allows
    [.tenants]) :
    State.Keeps k (State.setTen s t x) := by
  unfold State.setTen
  with_reducible repeat' first
    | exact hk | assumption | exact hm.regs (by decide) | exact hm.sub (by decide) | exact hm.one (by decide) |
      extract_lets | apply Keeps.upd_tenants

theorem State.log_kept {k : Kept} (s : State) (code severity unit : Nat) (detail : List Nat) (hk : State.Keeps k
    s) (hm : k.Allows [.RAS, .ras]) :
    State.Keeps k (State.log s code severity unit detail) := by
  unfold State.log
  with_reducible repeat' first
    | exact hk | assumption | exact hm.regs (by decide) | exact hm.sub (by decide) | exact hm.one (by decide) |
      apply State.ev_kept | apply State.cnt_kept | (refine Keeps.fst (by assumption) ?_) |
      (refine Keeps.snd (by assumption) ?_) | (intro _) | extract_lets | (dsimp -zeta only) | apply Keeps.of_fst |
      apply Keeps.of_snd | split | apply Keeps.pair | apply Keeps.pair' | apply Keeps.upd_ras

theorem State.fault_kept {k : Kept} (s : State) (k_ : Nat) (second : Bool) (hk : State.Keeps k s) (hm : k.Allows
    [.RAS]) :
    State.Keeps k (State.fault s k_ second) := by
  unfold State.fault
  with_reducible repeat' first
    | exact hk | assumption | exact hm.regs (by decide) | exact hm.sub (by decide) | exact hm.one (by decide) |
      apply State.put_kept | apply State.ev_kept | apply State.cnt_kept | apply State.when_kept | (intro _) |
      extract_lets | (dsimp -zeta only) | apply Keeps.of_fst | apply Keeps.of_snd | apply Keeps.pair |
      apply Keeps.pair'

theorem State.msix_kept {k : Kept} (s : State) (t v : Nat) (hk : State.Keeps k s) (hm : k.Allows [.out,
    .tenants]) :
    State.Keeps k (State.msix s t v) := by
  unfold State.msix
  with_reducible repeat' first
    | exact hk | assumption | exact hm.regs (by decide) | exact hm.sub (by decide) | apply State.sendHost_kept |
      apply State.setTen_kept | extract_lets | split

theorem State.countOutstanding_kept {k : Kept} (s : State) (t : Nat) (hk : State.Keeps k s) (hm : k.Allows
    [.HIF]) :
    State.Keeps k (State.countOutstanding s t) := by
  unfold State.countOutstanding
  with_reducible repeat' first
    | exact hk | assumption | exact hm.regs (by decide) | exact hm.sub (by decide) | exact hm.one (by decide) |
      apply State.put_kept | (intro _) | (dsimp -zeta only) | apply Keeps.of_fst | apply Keeps.of_snd |
      apply Keeps.foldl | apply Keeps.foldl_fst | apply Keeps.pair | apply Keeps.pair'

theorem State.complete_kept {k : Kept} (s : State) (d : Desc) (status result : Nat) (more : Bool) (hk :
    State.Keeps k s) (hm : k.Allows [.HIF, .out, .tenants]) :
    State.Keeps k (State.complete s d status result more) := by
  unfold State.complete
  with_reducible repeat' first
    | exact hk | assumption | exact hm.regs (by decide) | exact hm.sub (by decide) | apply State.when_kept |
      apply State.sendHost_kept | apply State.setTen_kept | apply State.msix_kept |
      apply State.countOutstanding_kept | (intro _) | extract_lets | (dsimp -zeta only) | apply Keeps.of_fst |
      apply Keeps.of_snd | split | apply Keeps.pair | apply Keeps.pair'

theorem State.ok_kept {k : Kept} (s : State) (d : Desc) (result : Nat) (hk : State.Keeps k s) (hm : k.Allows
    [.HIF, .out, .tenants]) :
    State.Keeps k (State.ok s d result) := by
  unfold State.ok
  with_reducible repeat' first
    | exact hk | assumption | exact hm.regs (by decide) | exact hm.sub (by decide) | apply State.complete_kept

theorem State.refuse_kept {k : Kept} (s : State) (d : Desc) (status : Nat) (result : Nat) (hk : State.Keeps k s)
    (hm : k.Allows [.HIF, .out, .tenants]) :
    State.Keeps k (State.refuse s d status result) := by
  unfold State.refuse
  with_reducible repeat' first
    | exact hk | assumption | exact hm.regs (by decide) | exact hm.sub (by decide) | apply State.complete_kept

theorem State.dmaError_kept {k : Kept} (s : State) (t : Nat) (hk : State.Keeps k s) (hm : k.Allows [.HIF]) :
    State.Keeps k (State.dmaError s t) := by
  unfold State.dmaError
  with_reducible repeat' first
    | exact hk | assumption | exact hm.regs (by decide) | exact hm.sub (by decide) | exact hm.one (by decide) |
      apply State.ev_kept | apply State.cnt_kept

theorem State.readFailed_kept {k : Kept} (s : State) (d : Desc) (hk : State.Keeps k s) (hm : k.Allows [.HIF,
    .out, .tenants]) :
    State.Keeps k (State.readFailed s d) := by
  unfold State.readFailed
  with_reducible repeat' first
    | exact hk | assumption | exact hm.regs (by decide) | exact hm.sub (by decide) | apply State.refuse_kept |
      apply State.dmaError_kept

theorem State.descriptor_kept {k : Kept} (s : State) (d : Desc) (ownerOnly : Bool) (mgmt : Bool) (checks : List
    (Bool × Nat)) (effect : State → State) (hk : State.Keeps k s) (hk_effect : ∀ s, State.Keeps k s → State.Keeps k
    (effect s)) (hm : k.Allows [.HIF, .out, .tenants]) :
    State.Keeps k (State.descriptor s d ownerOnly mgmt checks effect) := by
  unfold State.descriptor
  with_reducible repeat' first
    | exact hk | assumption | exact hm.regs (by decide) | exact hm.sub (by decide) | apply State.refuse_kept |
      apply hk_effect | (refine Keeps.fst (by assumption) ?_) | (refine Keeps.snd (by assumption) ?_) |
      (intro _) | (dsimp -zeta only) | apply Keeps.of_fst | apply Keeps.of_snd | split | apply Keeps.pair |
      apply Keeps.pair'

theorem State.resolve_kept {k : Kept} (s : State) (n : Nat) (hk : State.Keeps k s) (hm : k.Allows [.PWR]) :
    State.Keeps k (State.resolve s n) := by
  unfold State.resolve
  with_reducible repeat' first
    | exact hk | assumption | exact hm.regs (by decide) | exact hm.sub (by decide) | exact hm.one (by decide) |
      apply State.put_kept | (intro _) | extract_lets | (dsimp -zeta only) | apply Keeps.of_fst |
      apply Keeps.of_snd | apply Keeps.pair | apply Keeps.pair'

theorem State.domReach_kept {k : Kept} (s : State) (n st : Nat) (hk : State.Keeps k s) (hm : k.Allows [.PWR]) :
    State.Keeps k (State.domReach s n st) := by
  unfold State.domReach
  with_reducible repeat' first
    | exact hk | assumption | exact hm.regs (by decide) | exact hm.sub (by decide) | exact hm.one (by decide) |
      apply State.put_kept | apply State.ev_kept

end Sys2Proof.Machine
end

