-- ==== Sys2Proof/Laws/KeepsBryLink.lean ====
section
/-! SUPPORT. Laws/KeepsBryLink.lean: the operations of Machine/BryLink.lean keep what Laws/Keeps.lean says. -/
set_option Elab.async false  -- one proof at a time: the package as one text then needs less memory
namespace Sys2Proof.Machine

theorem State.setBryPort_kept {k : Kept} (s : State) (p : Nat) (x : BryPort) (hk : State.Keeps k s) (hm :
    k.Allows [.bry]) :
    State.Keeps k (State.setBryPort s p x) := by
  unfold State.setBryPort
  with_reducible repeat' first
    | exact hk | assumption | exact hm.regs (by decide) | exact hm.sub (by decide) | exact hm.one (by decide) |
      extract_lets | apply Keeps.upd_bry

theorem State.sendFlit_kept {k : Kept} (s : State) (p kind origin : Nat) (payload : List Nat) (hk : State.Keeps
    k s) (hm : k.Allows [.bry, .out]) :
    State.Keeps k (State.sendFlit s p kind origin payload) := by
  unfold State.sendFlit
  with_reducible repeat' first
    | exact hk | assumption | exact hm.regs (by decide) | exact hm.sub (by decide) | apply State.setBryPort_kept |
      apply State.send_kept | extract_lets | split

theorem State.sendRing_kept {k : Kept} (s : State) (kind : Nat) (payload : List Nat) (hk : State.Keeps k s) (hm
    : k.Allows [.bry, .out]) :
    State.Keeps k (State.sendRing s kind payload) := by
  unfold State.sendRing
  with_reducible repeat' first
    | exact hk | assumption | exact hm.regs (by decide) | exact hm.sub (by decide) | exact hm.one (by decide) |
      apply State.sendFlit_kept | apply State.each_kept | (intro _) | extract_lets | (dsimp -zeta only) |
      apply Keeps.of_fst | apply Keeps.of_snd | split | apply Keeps.pair | apply Keeps.pair' |
      apply Keeps.upd_bry

end Sys2Proof.Machine
end

