-- ==== Sys2Proof/Laws/KeepsRegAccess.lean ====
section
/-! SUPPORT. Laws/KeepsRegAccess.lean: the operations of Machine/RegAccess.lean keep what Laws/Keeps.lean says. -/
set_option Elab.async false  -- one proof at a time: the package as one text then needs less memory
namespace Sys2Proof.Machine

set_option maxRecDepth 20000 in
theorem State.wrRefused_kept {k : Kept} (s : State) (off : Nat) (hk : State.Keeps k s) (hm : k.Allows [.CAP,
    .FAB, .FRM, .GIO, .LANE, .OBS, .PRS, .SECT, .SGC, .SWF]) :
    State.Keeps k (State.wrRefused s off) := by
  unfold State.wrRefused
  with_reducible repeat' first
    | split | exact hk | assumption | exact hm.regs (by decide) | exact hm.sub (by decide) |
      exact hm.one (by decide) | apply State.ev_kept | extract_lets

theorem refuseWrite_kept {k : Kept} (s : State) (p : Path) (st : Nat) (event : State → State) (hk : State.Keeps
    k s) (hk_event : ∀ s, State.Keeps k s → State.Keeps k (event s)) :
    State.KeepsFst k (refuseWrite s p st event) := by
  unfold refuseWrite
  with_reducible repeat' first
    | exact hk | assumption | apply State.descriptor_kept | apply hk_event |
      (refine Keeps.fst (by assumption) ?_) | (refine Keeps.snd (by assumption) ?_) | (intro _) |
      (dsimp -zeta only) | apply Keeps.of_fst | apply Keeps.of_snd | split | apply Keeps.pair |
      apply Keeps.pair'

theorem State.applyWrite_kept {k : Kept} (s : State) (p : Path) (r : RegDef) (i j k_ : Nat) (v : Word) (hk :
    State.Keeps k s) (hm : k.Allows [.GLB]) (hr_r : k.Regs r) :
    State.Keeps k (State.applyWrite s p r i j k_ v) := by
  unfold State.applyWrite
  with_reducible repeat' first
    | exact hk | assumption | exact hm.regs (by decide) | exact hm.sub (by decide) | apply State.setWord_kept |
      apply State.when_kept | apply State.err_kept | (intro _) | extract_lets | (dsimp -zeta only) |
      apply Keeps.of_fst | apply Keeps.of_snd | split | apply Keeps.pair | apply Keeps.pair'

theorem State.guardWrite_kept {k : Kept} (s : State) (p : Path) (r : RegDef) (i j k_ : Nat) (v : Word) (bad :
    Bool) (h : State → State × Nat) (hk : State.Keeps k s) (hk_h : ∀ s, State.Keeps k s → State.KeepsFst k (h s))
    (hm : k.Allows [.BOOT, .CAP, .FAB, .FRM, .GIO, .GLB, .LANE, .OBS, .PRS, .SECT, .SGC, .SWF]) (hr_r : k.Regs r) :
    State.KeepsFst k (State.guardWrite s p r i j k_ v bad h) := by
  unfold State.guardWrite
  with_reducible repeat' first
    | exact hk | assumption | exact hm.regs (by decide) | exact hm.sub (by decide) | exact hm.one (by decide) |
      apply State.cnt_kept | apply State.when_kept | apply State.err_kept | apply State.badEncoding_kept |
      apply State.lostWrite_kept | apply State.descriptor_kept | apply State.wrRefused_kept | apply hk_h |
      (refine Keeps.fst (by assumption) ?_) | (refine Keeps.snd (by assumption) ?_) | (intro _) | extract_lets |
      (dsimp -zeta only) | apply Keeps.of_fst | apply Keeps.of_snd | split | apply Keeps.pair |
      apply Keeps.pair'

theorem State.plainWrite_kept {k : Kept} (s : State) (p : Path) (r : RegDef) (i j k_ : Nat) (v : Word) (hk :
    State.Keeps k s) (hm : k.Allows [.BOOT, .CAP, .FAB, .FRM, .GIO, .GLB, .LANE, .OBS, .PRS, .SECT, .SGC, .SWF])
    (hr_r : k.Regs r) :
    State.KeepsFst k (State.plainWrite s p r i j k_ v) := by
  unfold State.plainWrite
  with_reducible repeat' first
    | exact hk | assumption | exact hm.regs (by decide) | exact hm.sub (by decide) | apply State.applyWrite_kept |
      apply State.guardWrite_kept | (intro _) | (dsimp -zeta only) | apply Keeps.of_fst | apply Keeps.of_snd |
      apply Keeps.pair | apply Keeps.pair'

end Sys2Proof.Machine
end

