-- ==== Sys2Proof/Laws/KeepsClock.lean ====
section
/-! SUPPORT. Laws/KeepsClock.lean: the operations of Machine/Clock.lean keep what Laws/Keeps.lean says. -/
set_option Elab.async false  -- one proof at a time: the package as one text then needs less memory
namespace Sys2Proof.Machine

theorem State.slewTo_kept {k : Kept} (s : State) (src : Nat) (user : Bool) (hk : State.Keeps k s) (hm : k.Allows
    [.CLK, .clk]) :
    State.Keeps k (State.slewTo s src user) := by
  unfold State.slewTo
  with_reducible repeat' first
    | exact hk | assumption | exact hm.regs (by decide) | exact hm.sub (by decide) | exact hm.one (by decide) |
      apply State.put_kept | extract_lets | apply Keeps.upd_clk

theorem State.leaveNoReference_kept {k : Kept} (s : State) (hk : State.Keeps k s) (hm : k.Allows [.CLK, .clk]) :
    State.Keeps k (State.leaveNoReference s) := by
  unfold State.leaveNoReference
  with_reducible repeat' first
    | exact hk | assumption | exact hm.regs (by decide) | exact hm.sub (by decide) | apply State.slewTo_kept |
      (refine Keeps.fst (by assumption) ?_) | (refine Keeps.snd (by assumption) ?_) | (dsimp -zeta only) |
      apply Keeps.of_fst | apply Keeps.of_snd | split | apply Keeps.pair | apply Keeps.pair'

theorem State.dropReady_kept {k : Kept} (s : State) (n : Nat) (hk : State.Keeps k s) (hm : k.Allows [.CLK]) :
    State.Keeps k (State.dropReady s n) := by
  unfold State.dropReady
  with_reducible repeat' first
    | exact hk | assumption | exact hm.regs (by decide) | exact hm.sub (by decide) | exact hm.one (by decide) |
      apply State.ev_kept | apply State.clr_kept | apply State.when_kept | (intro _) | extract_lets |
      (dsimp -zeta only) | apply Keeps.of_fst | apply Keeps.of_snd | apply Keeps.pair | apply Keeps.pair'

theorem State.goBack_kept {k : Kept} (s : State) (src : Nat) (hk : State.Keeps k s) (hm : k.Allows [.CLK, .clk])
    :
    State.Keeps k (State.goBack s src) := by
  unfold State.goBack
  with_reducible repeat' first
    | exact hk | assumption | exact hm.regs (by decide) | exact hm.sub (by decide) | exact hm.one (by decide) |
      apply State.slewTo_kept | extract_lets | split | apply Keeps.upd_clk

theorem State.activeLost_kept {k : Kept} (s : State) (hk : State.Keeps k s) (hm : k.Allows [.CLK, .clk]) :
    State.Keeps k (State.activeLost s) := by
  unfold State.activeLost
  with_reducible repeat' first
    | exact hk | assumption | exact hm.regs (by decide) | exact hm.sub (by decide) | exact hm.one (by decide) |
      apply State.dropReady_kept | apply State.put_kept | apply State.ev_kept |
      (refine Keeps.fst (by assumption) ?_) | (refine Keeps.snd (by assumption) ?_) | (intro _) | extract_lets |
      (dsimp -zeta only) | apply Keeps.of_fst | apply Keeps.of_snd | split | apply Keeps.pair |
      apply Keeps.pair' | apply Keeps.upd_clk

theorem State.sourceGone_kept {k : Kept} (s : State) (src : Nat) (hk : State.Keeps k s) (hm : k.Allows [.CLK]) :
    State.Keeps k (State.sourceGone s src) := by
  unfold State.sourceGone
  with_reducible repeat' first
    | exact hk | assumption | exact hm.regs (by decide) | exact hm.sub (by decide) | exact hm.one (by decide) |
      apply State.dropReady_kept | apply State.clr_kept | (refine Keeps.fst (by assumption) ?_) |
      (refine Keeps.snd (by assumption) ?_) | extract_lets | (dsimp -zeta only) | apply Keeps.of_fst |
      apply Keeps.of_snd | split | apply Keeps.pair | apply Keeps.pair'

theorem State.clkRefuse_kept {k : Kept} (s : State) (p : Path) (cause : Nat) (hk : State.Keeps k s) (hm :
    k.Allows [.CLK]) :
    State.KeepsFst k (State.clkRefuse s p cause) := by
  unfold State.clkRefuse
  with_reducible repeat' first
    | exact hk | assumption | exact hm.regs (by decide) | exact hm.sub (by decide) | exact hm.one (by decide) |
      apply State.put_kept | apply State.ev_kept | apply refuseWrite_kept | (intro _) | (dsimp -zeta only) |
      apply Keeps.of_fst | apply Keeps.of_snd | apply Keeps.pair | apply Keeps.pair'

theorem State.writeRefCtrl_kept {k : Kept} (s : State) (p : Path) (v : Word) (hk : State.Keeps k s) (hm :
    k.Allows [.BOOT, .CAP, .CLK, .FAB, .FRM, .GIO, .GLB, .LANE, .OBS, .PRS, .SECT, .SGC, .SWF, .clk]) :
    State.KeepsFst k (State.writeRefCtrl s p v) := by
  unfold State.writeRefCtrl
  with_reducible repeat' first
    | exact hk | assumption | exact hm.regs (by decide) | exact hm.sub (by decide) | exact hm.one (by decide) |
      apply State.slewTo_kept | apply State.clkRefuse_kept | apply State.ev_kept | apply State.clr_kept |
      apply State.applyWrite_kept | apply State.guardWrite_kept | (intro _) | extract_lets | (dsimp -zeta only) |
      apply Keeps.of_fst | apply Keeps.of_snd | split | apply Keeps.pair | apply Keeps.pair' |
      apply Keeps.upd_clk

theorem State.setSync_kept {k : Kept} (s : State) (st : Nat) (hk : State.Keeps k s) (hm : k.Allows [.BRY]) :
    State.Keeps k (State.setSync s st) := by
  unfold State.setSync
  with_reducible repeat' first
    | exact hk | assumption | exact hm.regs (by decide) | exact hm.sub (by decide) | exact hm.one (by decide) |
      apply State.put_kept | apply State.ev_kept | apply State.when_kept | (intro _) | extract_lets |
      (dsimp -zeta only) | apply Keeps.of_fst | apply Keeps.of_snd | apply Keeps.pair | apply Keeps.pair'

theorem State.followRing_kept {k : Kept} (s : State) (src : Nat) (hk : State.Keeps k s) (hm : k.Allows [.BRY,
    .CLK, .bry]) :
    State.Keeps k (State.followRing s src) := by
  unfold State.followRing
  with_reducible repeat' first
    | exact hk | assumption | exact hm.regs (by decide) | exact hm.sub (by decide) | exact hm.one (by decide) |
      apply State.setSync_kept | apply State.put_kept | apply State.when_kept | (intro _) | extract_lets |
      (dsimp -zeta only) | apply Keeps.of_fst | apply Keeps.of_snd | split | apply Keeps.pair |
      apply Keeps.pair' | apply Keeps.upd_bry

theorem State.writeCand_kept {k : Kept} (s : State) (p : Path) (n : Nat) (v : Word) (hk : State.Keeps k s) (hm :
    k.Allows [.BOOT, .CAP, .CLK, .FAB, .FRM, .GIO, .GLB, .LANE, .OBS, .PRS, .SECT, .SGC, .SWF]) :
    State.KeepsFst k (State.writeCand s p n v) := by
  unfold State.writeCand
  with_reducible repeat' first
    | exact hk | assumption | exact hm.regs (by decide) | exact hm.sub (by decide) | exact hm.one (by decide) |
      apply State.dropReady_kept | apply State.clkRefuse_kept | apply State.clr_kept | apply State.when_kept |
      apply State.applyWrite_kept | apply State.guardWrite_kept | (intro _) | extract_lets | (dsimp -zeta only) |
      apply Keeps.of_fst | apply Keeps.of_snd | split | apply Keeps.pair | apply Keeps.pair'

theorem State.writeOutCtrl_kept {k : Kept} (s : State) (p : Path) (n : Nat) (v : Word) (hk : State.Keeps k s)
    (hm : k.Allows [.BOOT, .CAP, .CLK, .FAB, .FRM, .GIO, .GLB, .LANE, .OBS, .PRS, .SECT, .SGC, .SWF]) :
    State.KeepsFst k (State.writeOutCtrl s p n v) := by
  unfold State.writeOutCtrl
  with_reducible repeat' first
    | exact hk | assumption | exact hm.regs (by decide) | exact hm.sub (by decide) | exact hm.one (by decide) |
      apply State.clkRefuse_kept | apply State.put_kept | apply State.applyWrite_kept |
      apply State.guardWrite_kept | (intro _) | extract_lets | (dsimp -zeta only) | apply Keeps.of_fst |
      apply Keeps.of_snd | split | apply Keeps.pair | apply Keeps.pair'

theorem State.writeFreqAdj_kept {k : Kept} (s : State) (p : Path) (v : Word) (hk : State.Keeps k s) (hm :
    k.Allows [.BOOT, .CAP, .CLK, .FAB, .FRM, .GIO, .GLB, .LANE, .OBS, .PRS, .SECT, .SGC, .SWF, .clk]) :
    State.KeepsFst k (State.writeFreqAdj s p v) := by
  unfold State.writeFreqAdj
  with_reducible repeat' first
    | exact hk | assumption | exact hm.regs (by decide) | exact hm.sub (by decide) | exact hm.one (by decide) |
      apply State.clkRefuse_kept | apply State.applyWrite_kept | apply State.guardWrite_kept | (intro _) |
      extract_lets | (dsimp -zeta only) | apply Keeps.of_fst | apply Keeps.of_snd | split | apply Keeps.pair |
      apply Keeps.pair' | apply Keeps.upd_clk

end Sys2Proof.Machine
end

