-- ==== Sys2Proof/Laws/KeepsDq.lean ====
section
/-! SUPPORT. Laws/KeepsDq.lean: the operations of Machine/Dq.lean keep what Laws/Keeps.lean says. -/
set_option Elab.async false  -- one proof at a time: the package as one text then needs less memory
namespace Sys2Proof.Machine

theorem State.setDq_kept {k : Kept} (s : State) (q : Nat) (d : Dq) (hk : State.Keeps k s) (hm : k.Allows [.swf])
    :
    State.Keeps k (State.setDq s q d) := by
  unfold State.setDq
  with_reducible repeat' first
    | exact hk | assumption | exact hm.regs (by decide) | exact hm.sub (by decide) | exact hm.one (by decide) |
      extract_lets | apply Keeps.upd_swf

theorem State.setOp_kept {k : Kept} (s : State) (o : Nat) (x : Op) (hk : State.Keeps k s) (hm : k.Allows [.swf])
    :
    State.Keeps k (State.setOp s o x) := by
  unfold State.setOp
  with_reducible repeat' first
    | exact hk | assumption | exact hm.regs (by decide) | exact hm.sub (by decide) | exact hm.one (by decide) |
      extract_lets | apply Keeps.upd_swf

theorem State.setTask_kept {k : Kept} (s : State) (k_ : Nat) (x : Task) (hk : State.Keeps k s) (hm : k.Allows
    [.swf]) :
    State.Keeps k (State.setTask s k_ x) := by
  unfold State.setTask
  with_reducible repeat' first
    | exact hk | assumption | exact hm.regs (by decide) | exact hm.sub (by decide) | exact hm.one (by decide) |
      extract_lets | apply Keeps.upd_swf

theorem State.pend_kept {k : Kept} (s : State) (o : Nat) (hk : State.Keeps k s) (hm : k.Allows [.swf]) :
    State.Keeps k (State.pend s o) := by
  unfold State.pend
  with_reducible repeat' first
    | exact hk | assumption | exact hm.regs (by decide) | exact hm.sub (by decide) | exact hm.one (by decide) |
      extract_lets | split | apply Keeps.upd_swf

theorem State.swfTrace_kept {k : Kept} (s : State) (kind tenant op handle dq detail : Nat) (hk : State.Keeps k
    s) (hm : k.Allows [.swf]) :
    State.Keeps k (State.swfTrace s kind tenant op handle dq detail) := by
  unfold State.swfTrace
  with_reducible repeat' first
    | exact hk | assumption | exact hm.regs (by decide) | exact hm.sub (by decide) | exact hm.one (by decide) |
      extract_lets | split | apply Keeps.upd_swf

theorem State.spill_kept {k : Kept} (s : State) (hk : State.Keeps k s) (hm : k.Allows [.swf]) :
    State.Keeps k (State.spill s) := by
  unfold State.spill
  with_reducible repeat' first
    | exact hk | assumption | exact hm.regs (by decide) | exact hm.sub (by decide) | exact hm.one (by decide) |
      apply State.swfTrace_kept | (refine Keeps.fst (by assumption) ?_) | (refine Keeps.snd (by assumption) ?_) |
      extract_lets | (dsimp -zeta only) | apply Keeps.of_fst | apply Keeps.of_snd | split | apply Keeps.pair |
      apply Keeps.pair' | apply Keeps.upd_swf

theorem State.cacheDq_kept {k : Kept} (s : State) (q : Nat) (hk : State.Keeps k s) (hm : k.Allows [.swf]) :
    State.Keeps k (State.cacheDq s q) := by
  unfold State.cacheDq
  with_reducible repeat' first
    | exact hk | assumption | exact hm.regs (by decide) | exact hm.sub (by decide) | exact hm.one (by decide) |
      apply State.spill_kept | extract_lets | split | apply Keeps.upd_swf

theorem State.useDq_kept {k : Kept} (s : State) (q o : Nat) (hk : State.Keeps k s) (hm : k.Allows [.SWF, .swf])
    :
    State.Keeps k (State.useDq s q o) := by
  unfold State.useDq
  with_reducible repeat' first
    | exact hk | assumption | exact hm.regs (by decide) | exact hm.sub (by decide) | exact hm.one (by decide) |
      apply State.cacheDq_kept | apply State.cnt_kept | (intro _) | extract_lets | (dsimp -zeta only) |
      apply Keeps.of_fst | apply Keeps.of_snd | split | apply Keeps.pair | apply Keeps.pair' |
      apply Keeps.upd_swf

theorem State.dqAppend_kept {k : Kept} (s : State) (q tok : Nat) (hk : State.Keeps k s) (hm : k.Allows [.SWF,
    .swf]) :
    State.Keeps k (State.dqAppend s q tok) := by
  unfold State.dqAppend
  with_reducible repeat' first
    | exact hk | assumption | exact hm.regs (by decide) | exact hm.sub (by decide) | apply State.setDq_kept |
      apply State.pend_kept | apply State.useDq_kept | extract_lets | split

theorem State.dqPost_kept {k : Kept} (s : State) (q tok source : Nat) (hk : State.Keeps k s) (hm : k.Allows
    [.SWF, .swf]) :
    State.KeepsFst k (State.dqPost s q tok source) := by
  unfold State.dqPost
  with_reducible repeat' first
    | exact hk | assumption | exact hm.regs (by decide) | exact hm.sub (by decide) | exact hm.one (by decide) |
      apply State.setDq_kept | apply State.swfTrace_kept | apply State.dqAppend_kept | apply State.ev_kept |
      extract_lets | (dsimp -zeta only) | apply Keeps.of_fst | apply Keeps.of_snd | split | apply Keeps.pair |
      apply Keeps.pair'

theorem State.dqFreed_kept {k : Kept} (s : State) (q : Nat) (hk : State.Keeps k s) (hm : k.Allows [.swf]) :
    State.Keeps k (State.dqFreed s q) := by
  unfold State.dqFreed
  with_reducible repeat' first
    | exact hk | assumption | exact hm.regs (by decide) | exact hm.sub (by decide) | apply State.pend_kept |
      apply State.each_kept | (intro _) | (dsimp -zeta only) | apply Keeps.of_fst | apply Keeps.of_snd |
      apply Keeps.pair | apply Keeps.pair'

theorem State.dqTake_kept {k : Kept} (s : State) (q n : Nat) (hk : State.Keeps k s) (hm : k.Allows [.swf]) :
    State.Keeps k (State.dqTake s q n) := by
  unfold State.dqTake
  with_reducible repeat' first
    | exact hk | assumption | exact hm.regs (by decide) | exact hm.sub (by decide) | apply State.setDq_kept |
      apply State.dqFreed_kept | extract_lets

end Sys2Proof.Machine
end

