-- ==== Sys2Proof/Laws/KeepsCapture.lean ====
section
/-! SUPPORT. Laws/KeepsCapture.lean: the operations of Machine/Capture.lean keep what Laws/Keeps.lean says. -/
set_option Elab.async false  -- one proof at a time: the package as one text then needs less memory
namespace Sys2Proof.Machine

theorem State.setStrm_kept {k : Kept} (s : State) (n : Nat) (x : Stream) (hk : State.Keeps k s) (hm : k.Allows
    [.cap]) :
    State.Keeps k (State.setStrm s n x) := by
  unfold State.setStrm
  with_reducible repeat' first
    | exact hk | assumption | exact hm.regs (by decide) | exact hm.sub (by decide) | exact hm.one (by decide) |
      extract_lets | apply Keeps.upd_cap

theorem State.setQuireLive_kept {k : Kept} (s : State) (q : Nat) (x : Quire) (hk : State.Keeps k s) (hm :
    k.Allows [.cap]) :
    State.Keeps k (State.setQuireLive s q x) := by
  unfold State.setQuireLive
  with_reducible repeat' first
    | exact hk | assumption | exact hm.regs (by decide) | exact hm.sub (by decide) | exact hm.one (by decide) |
      extract_lets | apply Keeps.upd_cap

theorem State.setQuire_kept {k : Kept} (s : State) (q : Nat) (x : Quire) (hk : State.Keeps k s) (hm : k.Allows
    [.cap]) :
    State.Keeps k (State.setQuire s q x) := by
  unfold State.setQuire
  with_reducible repeat' first
    | exact hk | assumption | exact hm.regs (by decide) | exact hm.sub (by decide) | exact hm.one (by decide) |
      apply State.setQuireLive_kept | extract_lets | split | apply Keeps.upd_cap

theorem State.setStrmState_kept {k : Kept} (s : State) (n v : Nat) (hk : State.Keeps k s) (hm : k.Allows [.CAP])
    :
    State.Keeps k (State.setStrmState s n v) := by
  unfold State.setStrmState
  with_reducible repeat' first
    | exact hk | assumption | exact hm.regs (by decide) | exact hm.sub (by decide) | exact hm.one (by decide) |
      apply State.put_kept | extract_lets | split

theorem State.lostEvent_kept {k : Kept} (s : State) (n kind : Nat) (hk : State.Keeps k s) (hm : k.Allows [.CAP])
    :
    State.Keeps k (State.lostEvent s n kind) := by
  unfold State.lostEvent
  with_reducible repeat' first
    | exact hk | assumption | exact hm.regs (by decide) | exact hm.sub (by decide) | exact hm.one (by decide) |
      apply State.cnt_kept | (refine Keeps.fst (by assumption) ?_) | (refine Keeps.snd (by assumption) ?_) |
      (dsimp -zeta only) | apply Keeps.of_fst | apply Keeps.of_snd | split | apply Keeps.pair |
      apply Keeps.pair'

theorem State.event_kept {k : Kept} (s : State) (n kind time extra : Nat) (hk : State.Keeps k s) (hm : k.Allows
    [.CAP, .SWF, .cap, .swf]) :
    State.Keeps k (State.event s n kind time extra) := by
  unfold State.event
  with_reducible repeat' first
    | exact hk | assumption | exact hm.regs (by decide) | exact hm.sub (by decide) | apply State.setStrm_kept |
      apply State.lostEvent_kept | apply State.dqPost_kept | apply State.ok_kept |
      (refine Keeps.fst (by assumption) ?_) | (refine Keeps.snd (by assumption) ?_) | extract_lets |
      (dsimp -zeta only) | apply Keeps.of_fst | apply Keeps.of_snd | split | apply Keeps.pair |
      apply Keeps.pair'

theorem State.freeSlot_kept {k : Kept} (s : State) (hk : State.Keeps k s) (hm : k.Allows [.free]) :
    State.KeepsSnd k (State.freeSlot s) := by
  unfold State.freeSlot
  with_reducible repeat' first
    | exact hk | assumption | exact hm.regs (by decide) | exact hm.sub (by decide) | apply State.fresh_kept |
      (refine Keeps.fst (by assumption) ?_) | (refine Keeps.snd (by assumption) ?_) | (intro _) | extract_lets |
      (dsimp -zeta only) | apply Keeps.of_fst | apply Keeps.of_snd | split | apply Keeps.pair |
      apply Keeps.pair'

theorem State.countUp_kept {k : Kept} (s : State) (q t : Nat) (hk : State.Keeps k s) (hm : k.Allows [.RAS, .SEC,
    .cap, .ras]) :
    State.Keeps k (State.countUp s q t) := by
  unfold State.countUp
  with_reducible repeat' first
    | exact hk | assumption | exact hm.regs (by decide) | exact hm.sub (by decide) | exact hm.one (by decide) |
      apply State.setQuire_kept | apply State.ev_kept | apply State.when_kept | apply State.log_kept | (intro _) |
      extract_lets | (dsimp -zeta only) | apply Keeps.of_fst | apply Keeps.of_snd | apply Keeps.pair |
      apply Keeps.pair'

theorem State.allocQuire_kept {k : Kept} (s : State) (n : Nat) (hk : State.Keeps k s) (hm : k.Allows [.CAP,
    .RAS, .SEC, .cap, .free, .ras]) :
    State.KeepsSnd k (State.allocQuire s n) := by
  unfold State.allocQuire
  with_reducible repeat' first
    | exact hk | assumption | exact hm.regs (by decide) | exact hm.sub (by decide) | exact hm.one (by decide) |
      apply State.setQuire_kept | apply State.freeSlot_kept | apply State.countUp_kept | apply State.put_kept |
      apply State.cnt_kept | (refine Keeps.fst (by assumption) ?_) | (refine Keeps.snd (by assumption) ?_) |
      extract_lets | (dsimp -zeta only) | apply Keeps.of_fst | apply Keeps.of_snd | split | apply Keeps.pair |
      apply Keeps.pair' | apply Keeps.upd_cap

theorem State.freeFront_kept {k : Kept} (s : State) (f : Nat) (hk : State.Keeps k s) (hm : k.Allows [.CAP,
    .cap]) :
    State.Keeps k (State.freeFront s f) := by
  unfold State.freeFront
  with_reducible repeat' first
    | exact hk | assumption | exact hm.regs (by decide) | exact hm.sub (by decide) | exact hm.one (by decide) |
      apply State.put_kept | extract_lets | split | apply Keeps.upd_cap

theorem State.linkQuire_kept {k : Kept} (s : State) (prev : Option Nat) (q : Nat) (hk : State.Keeps k s) (hm :
    k.Allows [.cap]) :
    State.Keeps k (State.linkQuire s prev q) := by
  unfold State.linkQuire
  with_reducible repeat' first
    | exact hk | assumption | exact hm.regs (by decide) | exact hm.sub (by decide) | apply State.setQuire_kept |
      (refine Keeps.fst (by assumption) ?_) | (refine Keeps.snd (by assumption) ?_) | extract_lets |
      (dsimp -zeta only) | apply Keeps.of_fst | apply Keeps.of_snd | split | apply Keeps.pair |
      apply Keeps.pair'

theorem State.root_kept {k : Kept} (s : State) (n : Nat) (hk : State.Keeps k s) (hm : k.Allows [.CAP]) :
    State.Keeps k (State.root s n) := by
  unfold State.root
  repeat' first
    | with_reducible exact hk
    | with_reducible assumption
    | with_reducible exact hm.regs (by decide)
    | with_reducible exact hm.sub (by decide)
    | with_reducible exact hm.one (by decide)
    | with_reducible apply State.put_kept
    | with_reducible refine Keeps.fst (by with_reducible assumption) ?_
    | with_reducible refine Keeps.snd (by with_reducible assumption) ?_
    | (intro _)
    | (dsimp only)
    | (simp -zeta only [id_eq])
    | with_reducible apply Keeps.of_fst
    | with_reducible apply Keeps.of_snd
    | with_reducible apply Keeps.foldl
    | with_reducible apply Keeps.foldl_fst
    | (split)
    | with_reducible apply Keeps.pair
    | with_reducible apply Keeps.pair'
    | with_reducible refine Keeps.upd_any hm ?_

theorem State.askQuire_kept {k : Kept} (s : State) (n : Nat) (hk : State.Keeps k s) (hm : k.Allows [.CAP, .RAS,
    .SEC, .cap, .free, .ras]) :
    State.Keeps k (State.askQuire s n) := by
  unfold State.askQuire
  with_reducible repeat' first
    | exact hk | assumption | exact hm.regs (by decide) | exact hm.sub (by decide) | exact hm.one (by decide) |
      apply State.setStrm_kept | apply State.allocQuire_kept | apply State.linkQuire_kept |
      (refine Keeps.fst (by assumption) ?_) | (refine Keeps.snd (by assumption) ?_) | extract_lets |
      (dsimp -zeta only) | apply Keeps.of_fst | apply Keeps.of_snd | split | apply Keeps.pair |
      apply Keeps.pair' | apply Keeps.upd_cap

theorem State.dropRibbons_kept {k : Kept} (s : State) (n : Nat) (hk : State.Keeps k s) (hm : k.Allows [.HIF,
    .cap, .out, .tenants]) :
    State.Keeps k (State.dropRibbons s n) := by
  unfold State.dropRibbons
  with_reducible repeat' first
    | exact hk | assumption | exact hm.regs (by decide) | exact hm.sub (by decide) | exact hm.one (by decide) |
      apply State.each_kept | apply State.complete_kept | (intro _) | extract_lets | (dsimp -zeta only) |
      apply Keeps.of_fst | apply Keeps.of_snd | apply Keeps.pair | apply Keeps.pair' | apply Keeps.upd_cap

theorem State.beginStop_kept {k : Kept} (s : State) (n cause at' : Nat) (d : Option Desc) (hk : State.Keeps k s)
    (hm : k.Allows [.CAP, .HIF, .cap, .out, .tenants]) :
    State.Keeps k (State.beginStop s n cause at' d) := by
  unfold State.beginStop
  with_reducible repeat' first
    | exact hk | assumption | exact hm.regs (by decide) | exact hm.sub (by decide) | exact hm.one (by decide) |
      apply State.setStrm_kept | apply State.setStrmState_kept | apply State.dropRibbons_kept |
      apply State.put_kept | apply State.setPair_kept | extract_lets | apply Keeps.upd_cap

theorem State.keyExhaust_kept {k : Kept} (s : State) (t q : Nat) (hk : State.Keeps k s) (hm : k.Allows [.CAP,
    .HIF, .RAS, .SEC, .cap, .out, .ras, .tenants]) :
    State.Keeps k (State.keyExhaust s t q) := by
  unfold State.keyExhaust
  with_reducible repeat' first
    | exact hk | assumption | exact hm.regs (by decide) | exact hm.sub (by decide) | exact hm.one (by decide) |
      apply State.beginStop_kept | apply State.ev_kept | apply State.each_kept | apply State.log_kept |
      (intro _) | extract_lets | (dsimp -zeta only) | apply Keeps.of_fst | apply Keeps.of_snd | apply Keeps.pair |
      apply Keeps.pair'

theorem State.reseal_kept {k : Kept} (s : State) (q : Nat) (hk : State.Keeps k s) (hm : k.Allows [.cap]) :
    State.Keeps k (State.reseal s q) := by
  unfold State.reseal
  with_reducible repeat' first
    | exact hk | assumption | exact hm.regs (by decide) | exact hm.sub (by decide) |
      apply State.setQuireLive_kept | (intro _) | extract_lets | (dsimp -zeta only) | apply Keeps.of_fst |
      apply Keeps.of_snd | split | apply Keeps.pair | apply Keeps.pair'

theorem State.sealQuire_kept {k : Kept} (s : State) (q : Nat) (hk : State.Keeps k s) (hm : k.Allows [.CAP, .SWF,
    .cap, .swf]) :
    State.Keeps k (State.sealQuire s q) := by
  unfold State.sealQuire
  with_reducible repeat' first
    | exact hk | assumption | exact hm.regs (by decide) | exact hm.sub (by decide) | exact hm.one (by decide) |
      apply State.setQuire_kept | apply State.event_kept | apply State.reseal_kept | extract_lets | split |
      apply Keeps.upd_cap

theorem State.overtake_kept {k : Kept} (s : State) (n q : Nat) (hk : State.Keeps k s) (hm : k.Allows [.coll]) :
    State.Keeps k (State.overtake s n q) := by
  unfold State.overtake
  with_reducible repeat' first
    | exact hk | assumption | exact hm.regs (by decide) | exact hm.sub (by decide) | exact hm.one (by decide) |
      (refine Keeps.fst (by assumption) ?_) | (refine Keeps.snd (by assumption) ?_) | (intro _) | extract_lets |
      (dsimp -zeta only) | apply Keeps.of_fst | apply Keeps.of_snd | apply Keeps.foldl | apply Keeps.foldl_fst |
      split | apply Keeps.pair | apply Keeps.pair' | apply Keeps.upd_coll

theorem State.advance_kept {k : Kept} (s : State) (n : Nat) (hk : State.Keeps k s) (hm : k.Allows [.CAP, .RAS,
    .SEC, .cap, .coll, .ras]) :
    State.Keeps k (State.advance s n) := by
  unfold State.advance
  with_reducible repeat' first
    | exact hk | assumption | exact hm.regs (by decide) | exact hm.sub (by decide) | apply State.setStrm_kept |
      apply State.setQuire_kept | apply State.countUp_kept | apply State.linkQuire_kept | apply State.root_kept |
      apply State.overtake_kept | (refine Keeps.fst (by assumption) ?_) | (refine Keeps.snd (by assumption) ?_) |
      extract_lets | (dsimp -zeta only) | apply Keeps.of_fst | apply Keeps.of_snd | split | apply Keeps.pair |
      apply Keeps.pair'

theorem State.closeLeaf_kept {k : Kept} (s : State) (n : Nat) (closing last : Bool) (hk : State.Keeps k s) (hm :
    k.Allows [.CAP, .RAS, .SEC, .SWF, .cap, .coll, .free, .ras, .swf]) :
    State.Keeps k (State.closeLeaf s n closing last) := by
  unfold State.closeLeaf
  with_reducible repeat' first
    | exact hk | assumption | exact hm.regs (by decide) | exact hm.sub (by decide) | apply State.setStrm_kept |
      apply State.setQuire_kept | apply State.askQuire_kept | apply State.sealQuire_kept |
      apply State.advance_kept | apply State.when_kept | (refine Keeps.fst (by assumption) ?_) |
      (refine Keeps.snd (by assumption) ?_) | (intro _) | extract_lets | (dsimp -zeta only) | apply Keeps.of_fst |
      apply Keeps.of_snd | split | apply Keeps.pair | apply Keeps.pair'

theorem State.ensureLeaf_kept {k : Kept} (s : State) (n : Nat) (final : Bool) (hk : State.Keeps k s) (hm :
    k.Allows [.CAP, .HIF, .RAS, .SEC, .cap, .free, .out, .ras, .tenants]) :
    State.Keeps k (State.ensureLeaf s n final) := by
  unfold State.ensureLeaf
  with_reducible repeat' first
    | exact hk | assumption | exact hm.regs (by decide) | exact hm.sub (by decide) | apply State.setStrm_kept |
      apply State.setStrmState_kept | apply State.askQuire_kept | apply State.beginStop_kept |
      apply State.keyExhaust_kept | (refine Keeps.fst (by assumption) ?_) |
      (refine Keeps.snd (by assumption) ?_) | extract_lets | (dsimp -zeta only) | apply Keeps.of_fst |
      apply Keeps.of_snd | split | apply Keeps.pair | apply Keeps.pair'

theorem State.putStrip_kept {k : Kept} (s : State) (n : Nat) (it : Item) (hk : State.Keeps k s) (hm : k.Allows
    [.CAP, .HIF, .RAS, .SEC, .SWF, .cap, .coll, .free, .out, .ras, .swf, .tenants]) :
    State.Keeps k (State.putStrip s n it) := by
  unfold State.putStrip
  repeat' first
    | with_reducible exact hk
    | with_reducible assumption
    | with_reducible exact hm.regs (by decide)
    | with_reducible exact hm.sub (by decide)
    | with_reducible exact hm.one (by decide)
    | with_reducible apply State.setStrm_kept
    | with_reducible apply State.event_kept
    | with_reducible apply State.closeLeaf_kept
    | with_reducible apply State.addPair_kept
    | with_reducible apply State.ok_kept
    | with_reducible refine Keeps.fst (by with_reducible assumption) ?_
    | with_reducible refine Keeps.snd (by with_reducible assumption) ?_
    | (intro _)
    | (dsimp only)
    | (simp -zeta only [id_eq])
    | with_reducible apply Keeps.of_fst
    | with_reducible apply Keeps.of_snd
    | with_reducible apply Keeps.foldl
    | with_reducible apply Keeps.foldl_fst
    | (split)
    | with_reducible apply Keeps.pair
    | with_reducible apply Keeps.pair'
    | with_reducible refine Keeps.upd_any hm ?_

theorem State.placeNow_kept {k : Kept} (s : State) (n : Nat) (it : Item) (final : Bool) (hk : State.Keeps k s)
    (hm : k.Allows [.CAP, .HIF, .RAS, .SEC, .SWF, .cap, .coll, .free, .out, .ras, .swf, .tenants]) :
    State.Keeps k (State.placeNow s n it final) := by
  unfold State.placeNow
  with_reducible repeat' first
    | exact hk | assumption | exact hm.regs (by decide) | exact hm.sub (by decide) | apply State.ensureLeaf_kept |
      apply State.putStrip_kept | (refine Keeps.fst (by assumption) ?_) | (refine Keeps.snd (by assumption) ?_) |
      extract_lets | (dsimp -zeta only) | apply Keeps.of_fst | apply Keeps.of_snd | split | apply Keeps.pair |
      apply Keeps.pair'

theorem State.discardItem_kept {k : Kept} (s : State) (n cause : Nat) (it : Item) (hk : State.Keeps k s) (hm :
    k.Allows [.CAP, .HIF, .SWF, .cap, .out, .swf, .tenants]) :
    State.Keeps k (State.discardItem s n cause it) := by
  unfold State.discardItem
  repeat' first
    | with_reducible exact hk
    | with_reducible assumption
    | with_reducible exact hm.regs (by decide)
    | with_reducible exact hm.sub (by decide)
    | with_reducible exact hm.one (by decide)
    | with_reducible apply State.setStrm_kept
    | with_reducible apply State.event_kept
    | with_reducible apply State.ev_kept
    | with_reducible apply State.cnt_kept
    | with_reducible apply State.ok_kept
    | with_reducible refine Keeps.fst (by with_reducible assumption) ?_
    | with_reducible refine Keeps.snd (by with_reducible assumption) ?_
    | (intro _)
    | (dsimp only)
    | (simp -zeta only [id_eq])
    | with_reducible apply Keeps.of_fst
    | with_reducible apply Keeps.of_snd
    | with_reducible apply Keeps.foldl
    | with_reducible apply Keeps.foldl_fst
    | (split)
    | with_reducible apply Keeps.pair
    | with_reducible apply Keeps.pair'
    | with_reducible refine Keeps.upd_any hm ?_

theorem State.place_kept {k : Kept} (s : State) (n : Nat) (it : Item) (hk : State.Keeps k s) (hm : k.Allows
    [.CAP, .HIF, .RAS, .SEC, .SWF, .cap, .coll, .free, .out, .ras, .swf, .tenants]) :
    State.Keeps k (State.place s n it) := by
  unfold State.place
  with_reducible repeat' first
    | exact hk | assumption | exact hm.regs (by decide) | exact hm.sub (by decide) | apply State.ensureLeaf_kept |
      apply State.placeNow_kept | apply State.discardItem_kept | extract_lets | split

theorem State.resumeStore_kept {k : Kept} (s : State) (n : Nat) (final : Bool) (hk : State.Keeps k s) (hm :
    k.Allows [.CAP, .HIF, .RAS, .SEC, .SWF, .cap, .coll, .free, .out, .ras, .swf, .tenants]) :
    State.Keeps k (State.resumeStore s n final) := by
  unfold State.resumeStore
  with_reducible repeat' first
    | exact hk | assumption | exact hm.regs (by decide) | exact hm.sub (by decide) | apply State.setStrm_kept |
      apply State.placeNow_kept | apply State.each_kept | (refine Keeps.fst (by assumption) ?_) |
      (refine Keeps.snd (by assumption) ?_) | (intro _) | extract_lets | (dsimp -zeta only) | apply Keeps.of_fst |
      apply Keeps.of_snd | split | apply Keeps.pair | apply Keeps.pair'

theorem State.deepSlot_kept {k : Kept} (s : State) (g : Nat) (hk : State.Keeps k s) (hm : k.Allows [.free]) :
    State.KeepsSnd k (State.deepSlot s g) := by
  unfold State.deepSlot
  with_reducible repeat' first
    | exact hk | assumption | exact hm.regs (by decide) | exact hm.sub (by decide) | apply State.fresh_kept |
      (refine Keeps.fst (by assumption) ?_) | (refine Keeps.snd (by assumption) ?_) | (intro _) | extract_lets |
      (dsimp -zeta only) | apply Keeps.of_fst | apply Keeps.of_snd | split | apply Keeps.pair |
      apply Keeps.pair'

theorem State.startCopy_kept {k : Kept} (s : State) (q g : Nat) (hk : State.Keeps k s) (hm : k.Allows [.CAP,
    .cap, .free]) :
    State.Keeps k (State.startCopy s q g) := by
  unfold State.startCopy
  with_reducible repeat' first
    | exact hk | assumption | exact hm.regs (by decide) | exact hm.sub (by decide) | exact hm.one (by decide) |
      apply State.setQuire_kept | apply State.deepSlot_kept | apply State.cnt_kept |
      (refine Keeps.fst (by assumption) ?_) | (refine Keeps.snd (by assumption) ?_) | extract_lets |
      (dsimp -zeta only) | apply Keeps.of_fst | apply Keeps.of_snd | split | apply Keeps.pair |
      apply Keeps.pair' | apply Keeps.upd_cap

theorem State.drainCount_kept {k : Kept} (s : State) (hk : State.Keeps k s) (hm : k.Allows [.CAP]) :
    State.Keeps k (State.drainCount s) := by
  unfold State.drainCount
  with_reducible repeat' first
    | exact hk | assumption | exact hm.regs (by decide) | exact hm.sub (by decide) | exact hm.one (by decide) |
      apply State.put_kept

theorem State.abandonCopy_kept {k : Kept} (s : State) (q : Nat) (hk : State.Keeps k s) (hm : k.Allows [.CAP,
    .cap]) :
    State.Keeps k (State.abandonCopy s q) := by
  unfold State.abandonCopy
  with_reducible repeat' first
    | exact hk | assumption | exact hm.regs (by decide) | exact hm.sub (by decide) | exact hm.one (by decide) |
      apply State.setQuire_kept | apply State.put_kept | (refine Keeps.fst (by assumption) ?_) |
      (refine Keeps.snd (by assumption) ?_) | extract_lets | (dsimp -zeta only) | apply Keeps.of_fst |
      apply Keeps.of_snd | split | apply Keeps.pair | apply Keeps.pair' | apply Keeps.upd_cap

theorem State.retryCopy_kept {k : Kept} (s : State) (q : Nat) (hk : State.Keeps k s) (hm : k.Allows [.CAP, .cap,
    .free]) :
    State.Keeps k (State.retryCopy s q) := by
  unfold State.retryCopy
  with_reducible repeat' first
    | exact hk | assumption | exact hm.regs (by decide) | exact hm.sub (by decide) | exact hm.one (by decide) |
      apply State.setQuire_kept | apply State.startCopy_kept | apply State.drainCount_kept |
      apply State.abandonCopy_kept | apply State.ev_kept | (refine Keeps.fst (by assumption) ?_) |
      (refine Keeps.snd (by assumption) ?_) | (intro _) | extract_lets | (dsimp -zeta only) | apply Keeps.of_fst |
      apply Keeps.of_snd | split | apply Keeps.pair | apply Keeps.pair' | apply Keeps.upd_cap

theorem State.writeDrainCfg_kept {k : Kept} (s : State) (p : Path) (v : Word) (hk : State.Keeps k s) (hm :
    k.Allows [.BOOT, .CAP, .FAB, .FRM, .GIO, .GLB, .LANE, .OBS, .PRS, .SECT, .SGC, .SWF]) :
    State.KeepsFst k (State.writeDrainCfg s p v) := by
  unfold State.writeDrainCfg
  with_reducible repeat' first
    | exact hk | assumption | exact hm.regs (by decide) | exact hm.sub (by decide) | exact hm.one (by decide) |
      apply State.plainWrite_kept | (dsimp -zeta only) | apply Keeps.of_fst | apply Keeps.of_snd |
      apply Keeps.pair | apply Keeps.pair'

theorem State.releaseQuire_kept {k : Kept} (s : State) (q : Nat) (hk : State.Keeps k s) (hm : k.Allows [.CAP,
    .cap]) :
    State.Keeps k (State.releaseQuire s q) := by
  unfold State.releaseQuire
  with_reducible repeat' first
    | exact hk | assumption | exact hm.regs (by decide) | exact hm.sub (by decide) | exact hm.one (by decide) |
      apply State.setQuire_kept | apply State.drainCount_kept | apply State.abandonCopy_kept | extract_lets |
      apply Keeps.upd_cap

theorem State.dropQuire_kept {k : Kept} (s : State) (q : Nat) (hk : State.Keeps k s) (hm : k.Allows [.CAP, .SEC,
    .cap]) :
    State.Keeps k (State.dropQuire s q) := by
  unfold State.dropQuire
  with_reducible repeat' first
    | exact hk | assumption | exact hm.regs (by decide) | exact hm.sub (by decide) | exact hm.one (by decide) |
      apply State.setQuire_kept | apply State.freeFront_kept | apply State.put_kept | apply State.cnt_kept |
      apply State.when_kept | (intro _) | extract_lets | (dsimp -zeta only) | apply Keeps.of_fst |
      apply Keeps.of_snd | split | apply Keeps.pair | apply Keeps.pair' | apply Keeps.upd_cap

theorem State.loseQuire_kept {k : Kept} (s : State) (q cause : Nat) (hk : State.Keeps k s) (hm : k.Allows [.CAP,
    .RAS, .cap, .ras]) :
    State.Keeps k (State.loseQuire s q cause) := by
  unfold State.loseQuire
  with_reducible repeat' first
    | exact hk | assumption | exact hm.regs (by decide) | exact hm.sub (by decide) | exact hm.one (by decide) |
      apply State.setQuire_kept | apply State.drainCount_kept | apply State.abandonCopy_kept |
      apply State.ev_kept | apply State.cnt_kept | apply State.log_kept | extract_lets | apply Keeps.upd_cap

theorem State.deviceWrite_kept {k : Kept} (s : State) (n writer : Nat) (it : Item) (hk : State.Keeps k s) (hm :
    k.Allows [.CAP, .HIF, .RAS, .SEC, .SWF, .cap, .coll, .free, .out, .ras, .swf, .tenants]) :
    State.KeepsFst k (State.deviceWrite s n writer it) := by
  unfold State.deviceWrite
  with_reducible repeat' first
    | exact hk | assumption | exact hm.regs (by decide) | exact hm.sub (by decide) | apply State.setStrm_kept |
      apply State.place_kept | extract_lets | (dsimp -zeta only) | apply Keeps.of_fst | apply Keeps.of_snd |
      split | apply Keeps.pair | apply Keeps.pair'

theorem State.flushTrace_kept {k : Kept} (s : State) (hk : State.Keeps k s) (hm : k.Allows [.CAP, .HIF, .RAS,
    .SEC, .SWF, .cap, .coll, .free, .out, .ras, .swf, .tenants]) :
    State.Keeps k (State.flushTrace s) := by
  unfold State.flushTrace
  with_reducible repeat' first
    | exact hk | assumption | exact hm.regs (by decide) | exact hm.sub (by decide) | exact hm.one (by decide) |
      apply State.deviceWrite_kept | apply State.ev_kept | apply State.cnt_kept | apply State.each_kept |
      apply State.ok_kept | (refine Keeps.fst (by assumption) ?_) | (refine Keeps.snd (by assumption) ?_) |
      (intro _) | extract_lets | (dsimp -zeta only) | apply Keeps.of_fst | apply Keeps.of_snd | split |
      apply Keeps.pair | apply Keeps.pair' | apply Keeps.upd_swf

end Sys2Proof.Machine
end

