-- ==== Sys2Proof/Laws/KeepsIntake.lean ====
section
/-! SUPPORT. Laws/KeepsIntake.lean: the operations of Machine/Intake.lean keep what Laws/Keeps.lean says. -/
set_option Elab.async false  -- one proof at a time: the package as one text then needs less memory
namespace Sys2Proof.Machine

theorem State.eachMember_kept {k : Kept} (s : State) (lane : Nat) (f : State → Nat → Nat → State) (hk :
    State.Keeps k s) (hk_f : ∀ s x0 x1, State.Keeps k s → State.Keeps k (f s x0 x1)) :
    State.Keeps k (State.eachMember s lane f) := by
  unfold State.eachMember
  with_reducible repeat' first
    | exact hk | assumption | apply State.each_kept | apply hk_f | (intro _) | (dsimp -zeta only) |
      apply Keeps.of_fst | apply Keeps.of_snd | apply Keeps.pair | apply Keeps.pair'

theorem State.istat_kept {k : Kept} (s : State) (n m : Nat) (hk : State.Keeps k s) (hm : k.Allows [.SECT]) :
    State.Keeps k (State.istat s n m) := by
  unfold State.istat
  with_reducible repeat' first
    | exact hk | assumption | exact hm.regs (by decide) | exact hm.sub (by decide) | exact hm.one (by decide) |
      apply State.put_kept | extract_lets | split

theorem State.trigEvent_kept {k : Kept} (s : State) (e : TrigEvent) (hk : State.Keeps k s) (hm : k.Allows
    [.trig]) :
    State.Keeps k (State.trigEvent s e) := by
  unfold State.trigEvent
  with_reducible repeat' first
    | exact hk | assumption | exact hm.regs (by decide) | exact hm.sub (by decide) | exact hm.one (by decide) |
      extract_lets | apply Keeps.upd_trig

theorem State.matched_kept {k : Kept} (s : State) (sect m time word : Nat) (hk : State.Keeps k s) (hm : k.Allows
    [.SECT, .trig]) :
    State.Keeps k (State.matched s sect m time word) := by
  unfold State.matched
  with_reducible repeat' first
    | exact hk | assumption | exact hm.regs (by decide) | exact hm.sub (by decide) | exact hm.one (by decide) |
      apply State.trigEvent_kept | apply State.cnt_kept | extract_lets

theorem State.laneMatch_kept {k : Kept} (s : State) (lane : Nat) (tx : Bool) (kind time : Nat) (hk : State.Keeps
    k s) (hm : k.Allows [.SECT, .trig]) :
    State.Keeps k (State.laneMatch s lane tx kind time) := by
  unfold State.laneMatch
  with_reducible repeat' first
    | exact hk | assumption | exact hm.regs (by decide) | exact hm.sub (by decide) | apply State.matched_kept |
      apply State.each_kept | (intro _) | extract_lets | (dsimp -zeta only) | apply Keeps.of_fst |
      apply Keeps.of_snd | apply Keeps.pair | apply Keeps.pair'

theorem State.patternMatch_kept {k : Kept} (s : State) (lane : Nat) (tx : Bool) (coding hist n t w : Nat) (hk :
    State.Keeps k s) (hm : k.Allows [.SECT, .trig]) :
    State.Keeps k (State.patternMatch s lane tx coding hist n t w) := by
  unfold State.patternMatch
  with_reducible repeat' first
    | exact hk | assumption | exact hm.regs (by decide) | exact hm.sub (by decide) | apply State.matched_kept |
      apply State.each_kept | (intro _) | extract_lets | (dsimp -zeta only) | apply Keeps.of_fst |
      apply Keeps.of_snd | split | apply Keeps.pair | apply Keeps.pair'

theorem State.setLane_kept {k : Kept} (s : State) (l : Nat) (x : LaneSt) (hk : State.Keeps k s) (hm : k.Allows
    [.lanes]) :
    State.Keeps k (State.setLane s l x) := by
  unfold State.setLane
  with_reducible repeat' first
    | exact hk | assumption | exact hm.regs (by decide) | exact hm.sub (by decide) | exact hm.one (by decide) |
      extract_lets | apply Keeps.upd_lanes

theorem State.watchUnit_kept {k : Kept} (s : State) (lane : Nat) (tx : Bool) (coding u t w : Nat) (hk :
    State.Keeps k s) (hm : k.Allows [.SECT, .lanes, .trig]) :
    State.Keeps k (State.watchUnit s lane tx coding u t w) := by
  unfold State.watchUnit
  with_reducible repeat' first
    | exact hk | assumption | exact hm.regs (by decide) | exact hm.sub (by decide) |
      apply State.patternMatch_kept | apply State.setLane_kept | extract_lets | split

theorem State.bundleMatch_kept {k : Kept} (s : State) (n : Nat) (hk : State.Keeps k s) (hm : k.Allows [.SECT,
    .trig]) :
    State.Keeps k (State.bundleMatch s n) := by
  unfold State.bundleMatch
  with_reducible repeat' first
    | exact hk | assumption | exact hm.regs (by decide) | exact hm.sub (by decide) | apply State.matched_kept |
      apply State.each_kept | (intro _) | extract_lets | (dsimp -zeta only) | apply Keeps.of_fst |
      apply Keeps.of_snd | apply Keeps.foldl | apply Keeps.foldl_fst | split | apply Keeps.pair |
      apply Keeps.pair'

theorem State.flushWait_kept {k : Kept} (s : State) (n : Nat) (all : Bool) (hk : State.Keeps k s) (hm : k.Allows
    [.CAP, .HIF, .RAS, .SEC, .SWF, .cap, .coll, .free, .out, .ras, .swf, .tenants]) :
    State.Keeps k (State.flushWait s n all) := by
  unfold State.flushWait
  with_reducible repeat' first
    | exact hk | assumption | exact hm.regs (by decide) | exact hm.sub (by decide) | apply State.setStrm_kept |
      apply State.place_kept | apply State.each_kept | apply State.ok_kept | (intro _) | extract_lets |
      (dsimp -zeta only) | apply Keeps.of_fst | apply Keeps.of_snd | apply Keeps.pair | apply Keeps.pair'

theorem State.offer_kept {k : Kept} (s : State) (n : Nat) (it : Item) (hk : State.Keeps k s) (hm : k.Allows
    [.CAP, .HIF, .RAS, .SEC, .SWF, .cap, .coll, .free, .out, .ras, .swf, .tenants]) :
    State.Keeps k (State.offer s n it) := by
  unfold State.offer
  with_reducible repeat' first
    | exact hk | assumption | exact hm.regs (by decide) | exact hm.sub (by decide) | apply State.setStrm_kept |
      apply State.place_kept | extract_lets | split

theorem State.flushNotes_kept {k : Kept} (s : State) (n : Nat) (all : Bool) (hk : State.Keeps k s) (hm :
    k.Allows [.CAP, .HIF, .RAS, .SEC, .SWF, .cap, .coll, .free, .out, .ras, .swf, .tenants]) :
    State.Keeps k (State.flushNotes s n all) := by
  unfold State.flushNotes
  with_reducible repeat' first
    | exact hk | assumption | exact hm.regs (by decide) | exact hm.sub (by decide) | apply State.setStrm_kept |
      apply State.place_kept | apply State.each_kept | apply State.ok_kept |
      (refine Keeps.fst (by assumption) ?_) | (refine Keeps.snd (by assumption) ?_) | (intro _) | extract_lets |
      (dsimp -zeta only) | apply Keeps.of_fst | apply Keeps.of_snd | split | apply Keeps.pair |
      apply Keeps.pair'

theorem State.note_kept {k : Kept} (s : State) (n : Nat) (it : Item) (hk : State.Keeps k s) (hm : k.Allows
    [.CAP, .HIF, .RAS, .SEC, .SWF, .cap, .coll, .free, .out, .ras, .swf, .tenants]) :
    State.Keeps k (State.note s n it) := by
  unfold State.note
  with_reducible repeat' first
    | exact hk | assumption | exact hm.regs (by decide) | exact hm.sub (by decide) | apply State.setStrm_kept |
      apply State.flushNotes_kept | (intro _) | extract_lets | (dsimp -zeta only) | apply Keeps.of_fst |
      apply Keeps.of_snd | apply Keeps.pair | apply Keeps.pair'

theorem State.emitData_kept {k : Kept} (s : State) (n m k_ : Nat) (hk : State.Keeps k s) (hm : k.Allows [.CAP,
    .HIF, .RAS, .SEC, .SWF, .cap, .coll, .free, .out, .ras, .swf, .tenants]) :
    State.Keeps k (State.emitData s n m k_) := by
  unfold State.emitData
  with_reducible repeat' first
    | exact hk | assumption | exact hm.regs (by decide) | exact hm.sub (by decide) | apply State.setStrm_kept |
      apply State.offer_kept | extract_lets | split

theorem State.endData_kept {k : Kept} (s : State) (n m w : Nat) (hk : State.Keeps k s) (hm : k.Allows [.CAP,
    .HIF, .RAS, .SEC, .SWF, .cap, .coll, .free, .out, .ras, .swf, .tenants]) :
    State.Keeps k (State.endData s n m w) := by
  unfold State.endData
  with_reducible repeat' first
    | exact hk | assumption | exact hm.regs (by decide) | exact hm.sub (by decide) | apply State.emitData_kept |
      extract_lets | split

theorem State.dataUnit_kept {k : Kept} (s : State) (n m u t w pos : Nat) (hk : State.Keeps k s) (hm : k.Allows
    [.CAP, .HIF, .RAS, .SEC, .SWF, .cap, .coll, .free, .out, .ras, .swf, .tenants]) :
    State.Keeps k (State.dataUnit s n m u t w pos) := by
  unfold State.dataUnit
  with_reducible repeat' first
    | exact hk | assumption | exact hm.regs (by decide) | exact hm.sub (by decide) | apply State.setStrm_kept |
      apply State.emitData_kept | extract_lets | split

theorem State.emitRun_kept {k : Kept} (s : State) (n m w : Nat) (more : Bool) (hk : State.Keeps k s) (hm :
    k.Allows [.CAP, .HIF, .RAS, .SEC, .SWF, .cap, .coll, .free, .out, .ras, .swf, .tenants]) :
    State.Keeps k (State.emitRun s n m w more) := by
  unfold State.emitRun
  with_reducible repeat' first
    | exact hk | assumption | exact hm.regs (by decide) | exact hm.sub (by decide) | apply State.setStrm_kept |
      apply State.offer_kept | (refine Keeps.fst (by assumption) ?_) | (refine Keeps.snd (by assumption) ?_) |
      (intro _) | extract_lets | (dsimp -zeta only) | apply Keeps.of_fst | apply Keeps.of_snd |
      apply Keeps.foldl | apply Keeps.foldl_fst | split | apply Keeps.pair | apply Keeps.pair'

theorem State.endRun_kept {k : Kept} (s : State) (n m w : Nat) (hk : State.Keeps k s) (hm : k.Allows [.CAP,
    .HIF, .RAS, .SEC, .SWF, .cap, .coll, .free, .out, .ras, .swf, .tenants]) :
    State.Keeps k (State.endRun s n m w) := by
  unfold State.endRun
  with_reducible repeat' first
    | exact hk | assumption | exact hm.regs (by decide) | exact hm.sub (by decide) | apply State.setStrm_kept |
      apply State.emitRun_kept | (refine Keeps.fst (by assumption) ?_) | (refine Keeps.snd (by assumption) ?_) |
      extract_lets | (dsimp -zeta only) | apply Keeps.of_fst | apply Keeps.of_snd | split | apply Keeps.pair |
      apply Keeps.pair'

theorem State.settle_kept {k : Kept} (n m w minRun : Nat) (all : Bool) (fuel : Nat) (s : State) (hk : State.Keeps k s)
    (hm : k.Allows [.CAP, .HIF, .RAS, .SEC, .SWF, .cap, .coll, .free, .out, .ras, .swf, .tenants]) :
    State.Keeps k (State.settle s n m w minRun all fuel) := by
  induction fuel generalizing s with
  | zero => exact hk
  | succ n' ih =>
    unfold State.settle
    try dsimp only
    with_reducible repeat' first
      | exact hk | assumption | exact hm.sub (by decide) | apply ih | apply State.setStrm_kept | apply State.dataUnit_kept | apply State.endData_kept |
        split

theorem State.endStretch_kept {k : Kept} (s : State) (n m : Nat) (hk : State.Keeps k s) (hm : k.Allows [.CAP,
    .HIF, .RAS, .SEC, .SWF, .cap, .coll, .free, .out, .ras, .swf, .tenants]) :
    State.Keeps k (State.endStretch s n m) := by
  unfold State.endStretch
  with_reducible repeat' first
    | exact hk | assumption | exact hm.regs (by decide) | exact hm.sub (by decide) | apply State.endData_kept |
      apply State.endRun_kept | apply State.settle_kept | extract_lets

theorem State.regap_kept {k : Kept} (s : State) (n m t : Nat) (hk : State.Keeps k s) (hm : k.Allows [.CAP, .HIF,
    .RAS, .SEC, .SECT, .SWF, .cap, .coll, .free, .out, .ras, .swf, .tenants, .trig]) :
    State.Keeps k (State.regap s n m t) := by
  unfold State.regap
  with_reducible repeat' first
    | exact hk | assumption | exact hm.regs (by decide) | exact hm.sub (by decide) | apply State.setStrm_kept |
      apply State.istat_kept | apply State.laneMatch_kept | apply State.offer_kept | apply State.endStretch_kept |
      (refine Keeps.fst (by assumption) ?_) | (refine Keeps.snd (by assumption) ?_) | extract_lets |
      (dsimp -zeta only) | apply Keeps.of_fst | apply Keeps.of_snd | split | apply Keeps.pair |
      apply Keeps.pair'

theorem State.addCause_kept {k : Kept} (s : State) (n m c t : Nat) (hk : State.Keeps k s) (hm : k.Allows [.CAP,
    .HIF, .RAS, .SEC, .SECT, .SWF, .cap, .coll, .free, .out, .ras, .swf, .tenants, .trig]) :
    State.Keeps k (State.addCause s n m c t) := by
  unfold State.addCause
  with_reducible repeat' first
    | exact hk | assumption | exact hm.regs (by decide) | exact hm.sub (by decide) | apply State.setStrm_kept |
      apply State.regap_kept | (intro _) | extract_lets | (dsimp -zeta only) | apply Keeps.of_fst |
      apply Keeps.of_snd | split | apply Keeps.pair | apply Keeps.pair'

theorem State.dropCause_kept {k : Kept} (s : State) (n m c t : Nat) (hk : State.Keeps k s) (hm : k.Allows [.CAP,
    .HIF, .RAS, .SEC, .SECT, .SWF, .cap, .coll, .free, .out, .ras, .swf, .tenants, .trig]) :
    State.Keeps k (State.dropCause s n m c t) := by
  unfold State.dropCause
  with_reducible repeat' first
    | exact hk | assumption | exact hm.regs (by decide) | exact hm.sub (by decide) | apply State.setStrm_kept |
      apply State.regap_kept | (intro _) | extract_lets | (dsimp -zeta only) | apply Keeps.of_fst |
      apply Keeps.of_snd | apply Keeps.pair | apply Keeps.pair'

theorem State.closeGap_kept {k : Kept} (s : State) (n m t : Nat) (hk : State.Keeps k s) (hm : k.Allows [.CAP,
    .HIF, .RAS, .SEC, .SECT, .SWF, .cap, .coll, .free, .out, .ras, .swf, .tenants]) :
    State.Keeps k (State.closeGap s n m t) := by
  unfold State.closeGap
  with_reducible repeat' first
    | exact hk | assumption | exact hm.regs (by decide) | exact hm.sub (by decide) | apply State.setStrm_kept |
      apply State.istat_kept | apply State.offer_kept | (refine Keeps.fst (by assumption) ?_) |
      (refine Keeps.snd (by assumption) ?_) | extract_lets | (dsimp -zeta only) | apply Keeps.of_fst |
      apply Keeps.of_snd | split | apply Keeps.pair | apply Keeps.pair'

theorem State.heldUnit_kept {k : Kept} (s : State) (n m u t w minRun : Nat) (k_ : Bool) (y : Member) (hk :
    State.Keeps k s) (hm : k.Allows [.CAP, .HIF, .RAS, .SEC, .SWF, .cap, .coll, .free, .out, .ras, .swf, .tenants])
    :
    State.Keeps k (State.heldUnit s n m u t w minRun k_ y) := by
  unfold State.heldUnit
  with_reducible repeat' first
    | exact hk | assumption | exact hm.regs (by decide) | exact hm.sub (by decide) | apply State.setStrm_kept |
      apply State.emitRun_kept | apply State.endRun_kept | apply State.when_kept | apply State.settle_kept |
      (refine Keeps.fst (by assumption) ?_) | (refine Keeps.snd (by assumption) ?_) | (intro _) | extract_lets |
      (dsimp -zeta only) | apply Keeps.of_fst | apply Keeps.of_snd | split | apply Keeps.pair |
      apply Keeps.pair'

theorem State.takeUnit_kept {k : Kept} (s : State) (n m u t : Nat) (k_ : Bool) (hk : State.Keeps k s) (hm :
    k.Allows [.CAP, .HIF, .RAS, .SEC, .SECT, .SWF, .cap, .coll, .free, .out, .ras, .swf, .tenants]) :
    State.Keeps k (State.takeUnit s n m u t k_) := by
  unfold State.takeUnit
  with_reducible repeat' first
    | exact hk | assumption | exact hm.regs (by decide) | exact hm.sub (by decide) | apply State.setStrm_kept |
      apply State.istat_kept | apply State.dataUnit_kept | apply State.closeGap_kept | apply State.heldUnit_kept |
      extract_lets | split

theorem State.gateUnit_kept {k : Kept} (s : State) (n m u t : Nat) (k_ : Bool) (hk : State.Keeps k s) (hm :
    k.Allows [.CAP, .HIF, .RAS, .SEC, .SECT, .SWF, .cap, .coll, .free, .out, .ras, .swf, .tenants, .trig]) :
    State.Keeps k (State.gateUnit s n m u t k_) := by
  unfold State.gateUnit
  with_reducible repeat' first
    | exact hk | assumption | exact hm.regs (by decide) | exact hm.sub (by decide) | apply State.addCause_kept |
      apply State.dropCause_kept | apply State.takeUnit_kept | (refine Keeps.fst (by assumption) ?_) |
      (refine Keeps.snd (by assumption) ?_) | (intro _) | extract_lets | (dsimp -zeta only) | apply Keeps.of_fst |
      apply Keeps.of_snd | split | apply Keeps.pair | apply Keeps.pair'

theorem State.commitDelay_kept {k : Kept} (s : State) (n t : Nat) (all : Bool) (hk : State.Keeps k s) (hm :
    k.Allows [.CAP, .HIF, .RAS, .SEC, .SECT, .SWF, .cap, .coll, .free, .out, .ras, .swf, .tenants, .trig]) :
    State.Keeps k (State.commitDelay s n t all) := by
  unfold State.commitDelay
  with_reducible repeat' first
    | exact hk | assumption | exact hm.regs (by decide) | exact hm.sub (by decide) | apply State.setStrm_kept |
      apply State.gateUnit_kept | apply State.each_kept | apply State.ok_kept | (intro _) | extract_lets |
      (dsimp -zeta only) | apply Keeps.of_fst | apply Keeps.of_snd | apply Keeps.pair | apply Keeps.pair'

theorem State.streamUnit_kept {k : Kept} (s : State) (n m u t : Nat) (k_ : Bool) (hk : State.Keeps k s) (hm :
    k.Allows [.CAP, .HIF, .RAS, .SEC, .SECT, .SWF, .cap, .coll, .free, .out, .ras, .swf, .tenants, .trig]) :
    State.Keeps k (State.streamUnit s n m u t k_) := by
  unfold State.streamUnit
  repeat' first
    | with_reducible exact hk
    | with_reducible assumption
    | with_reducible exact hm.regs (by decide)
    | with_reducible exact hm.sub (by decide)
    | with_reducible apply State.setStrm_kept
    | with_reducible apply State.bundleMatch_kept
    | with_reducible apply State.flushWait_kept
    | with_reducible apply State.flushNotes_kept
    | with_reducible apply State.takeUnit_kept
    | with_reducible apply State.commitDelay_kept
    | with_reducible refine Keeps.fst (by with_reducible assumption) ?_
    | with_reducible refine Keeps.snd (by with_reducible assumption) ?_
    | (intro _)
    | (dsimp only)
    | (simp -zeta only [id_eq])
    | with_reducible apply Keeps.of_fst
    | with_reducible apply Keeps.of_snd
    | with_reducible apply Keeps.foldl
    | with_reducible apply Keeps.foldl_fst
    | (split)
    | with_reducible apply Keeps.pair
    | with_reducible apply Keeps.pair'
    | with_reducible refine Keeps.upd_any hm ?_

theorem State.staging_kept {k : Kept} (s : State) (sect bytes most : Nat) (hk : State.Keeps k s) (hm : k.Allows
    [.CAP, .HIF, .RAS, .SEC, .SWF, .cap, .coll, .free, .out, .ras, .swf, .tenants]) :
    State.Keeps k (State.staging s sect bytes most) := by
  unfold State.staging
  with_reducible repeat' first
    | exact hk | assumption | exact hm.regs (by decide) | exact hm.sub (by decide) | apply State.setStrm_kept |
      apply State.resumeStore_kept | apply State.each_kept | (intro _) | extract_lets | (dsimp -zeta only) |
      apply Keeps.of_fst | apply Keeps.of_snd | split | apply Keeps.pair | apply Keeps.pair'

theorem State.echoUnit_kept {k : Kept} (s : State) (lane u t w : Nat) (k_ : Bool) (hk : State.Keeps k s) (hm :
    k.Allows [.CAP, .HIF, .RAS, .SEC, .SECT, .SWF, .cap, .coll, .free, .lanes, .out, .ras, .swf, .tenants, .trig]) :
    State.Keeps k (State.echoUnit s lane u t w k_) := by
  unfold State.echoUnit
  with_reducible repeat' first
    | exact hk | assumption | exact hm.regs (by decide) | exact hm.sub (by decide) | apply State.watchUnit_kept |
      apply State.streamUnit_kept | apply State.each_kept | apply State.send_kept | (intro _) | extract_lets |
      (dsimp -zeta only) | apply Keeps.of_fst | apply Keeps.of_snd | apply Keeps.pair | apply Keeps.pair'

theorem State.eventStrip_kept {k : Kept} (s : State) (n m code t detail : Nat) (hk : State.Keeps k s) (hm :
    k.Allows [.CAP, .HIF, .RAS, .SEC, .SWF, .cap, .coll, .free, .out, .ras, .swf, .tenants]) :
    State.Keeps k (State.eventStrip s n m code t detail) := by
  unfold State.eventStrip
  with_reducible repeat' first
    | exact hk | assumption | exact hm.regs (by decide) | exact hm.sub (by decide) | apply State.note_kept |
      extract_lets

theorem State.loseDeskew_kept {k : Kept} (s : State) (n t : Nat) (hk : State.Keeps k s) (hm : k.Allows [.CAP,
    .HIF, .RAS, .SEC, .SECT, .SWF, .cap, .coll, .free, .out, .ras, .swf, .tenants]) :
    State.Keeps k (State.loseDeskew s n t) := by
  unfold State.loseDeskew
  with_reducible repeat' first
    | exact hk | assumption | exact hm.regs (by decide) | exact hm.sub (by decide) | exact hm.one (by decide) |
      apply State.setStrm_kept | apply State.flushWait_kept | apply State.endStretch_kept |
      apply State.eventStrip_kept | apply State.put_kept | apply State.ev_kept | apply State.each_kept |
      (intro _) | extract_lets | (dsimp -zeta only) | apply Keeps.of_fst | apply Keeps.of_snd | split |
      apply Keeps.pair | apply Keeps.pair'

theorem State.laneLost_kept {k : Kept} (s : State) (lane t cause : Nat) (hk : State.Keeps k s) (hm : k.Allows
    [.CAP, .HIF, .RAS, .SEC, .SECT, .SWF, .cap, .coll, .free, .out, .ras, .swf, .tenants, .trig]) :
    State.Keeps k (State.laneLost s lane t cause) := by
  unfold State.laneLost
  with_reducible repeat' first
    | exact hk | assumption | exact hm.regs (by decide) | exact hm.sub (by decide) | apply State.endStretch_kept |
      apply State.addCause_kept | apply State.eventStrip_kept | apply State.loseDeskew_kept |
      apply State.each_kept | (intro _) | extract_lets | (dsimp -zeta only) | apply Keeps.of_fst |
      apply Keeps.of_snd | split | apply Keeps.pair | apply Keeps.pair'

theorem State.serveOctet_kept {k : Kept} (s : State) (i o k_ : Nat) (hk : State.Keeps k s) (hm : k.Allows
    [.SECT]) :
    State.Keeps k (State.serveOctet s i o k_) := by
  unfold State.serveOctet
  with_reducible repeat' first
    | exact hk | assumption | exact hm.regs (by decide) | exact hm.sub (by decide) | exact hm.one (by decide) |
      apply State.put_kept | apply State.each_kept | (refine Keeps.fst (by assumption) ?_) |
      (refine Keeps.snd (by assumption) ?_) | (intro _) | extract_lets | (dsimp -zeta only) | apply Keeps.of_fst |
      apply Keeps.of_snd | split | apply Keeps.pair | apply Keeps.pair'

theorem State.dropStretch_kept {k : Kept} (s : State) (n m : Nat) (hk : State.Keeps k s) (hm : k.Allows [.cap])
    :
    State.Keeps k (State.dropStretch s n m) := by
  unfold State.dropStretch
  with_reducible repeat' first
    | exact hk | assumption | exact hm.regs (by decide) | exact hm.sub (by decide) | apply State.setStrm_kept |
      extract_lets

theorem State.sliceOut_kept {k : Kept} (s : State) (i k_ o : Nat) (spare : Bool) (hk : State.Keeps k s) (hm :
    k.Allows [.CAP, .HIF, .RAS, .SEC, .SECT, .SWF, .cap, .coll, .free, .out, .ras, .sectors, .swf, .tenants, .trig])
    :
    State.Keeps k (State.sliceOut s i k_ o spare) := by
  unfold State.sliceOut
  with_reducible repeat' first
    | exact hk | assumption | exact hm.regs (by decide) | exact hm.sub (by decide) | exact hm.one (by decide) |
      apply State.eachMember_kept | apply State.addCause_kept | apply State.dropStretch_kept |
      apply State.when_kept | apply State.each_kept | apply State.log_kept | apply State.fault_kept | (intro _) |
      extract_lets | (dsimp -zeta only) | apply Keeps.of_fst | apply Keeps.of_snd | split | apply Keeps.pair |
      apply Keeps.pair' | apply Keeps.upd_sectors

theorem State.relock_kept {k : Kept} (s : State) (lane : Nat) (hk : State.Keeps k s) (hm : k.Allows [.LANE,
    .SECT, .lanes, .trig]) :
    State.Keeps k (State.relock s lane) := by
  unfold State.relock
  with_reducible repeat' first
    | exact hk | assumption | exact hm.regs (by decide) | exact hm.sub (by decide) | exact hm.one (by decide) |
      apply State.laneMatch_kept | apply State.setLane_kept | apply State.put_kept | apply State.ev_kept |
      apply State.cnt_kept | extract_lets | split

theorem State.writeIntake_kept {k : Kept} (s : State) (p : Path) (which i j : Nat) (v : Word) (hk : State.Keeps
    k s) (hm : k.Allows [.BOOT, .CAP, .FAB, .FRM, .GIO, .GLB, .LANE, .OBS, .PRS, .SECT, .SGC, .SWF, .lanes, .trig])
    :
    State.KeepsFst k (State.writeIntake s p which i j v) := by
  unfold State.writeIntake
  with_reducible repeat' first
    | exact hk | assumption | exact hm.regs (by decide) | exact hm.sub (by decide) | exact hm.one (by decide) |
      apply State.relock_kept | apply State.ev_kept | apply refuseWrite_kept | apply State.applyWrite_kept |
      apply State.guardWrite_kept | (intro _) | extract_lets | (dsimp -zeta only) | apply Keeps.of_fst |
      apply Keeps.of_snd | split | apply Keeps.pair | apply Keeps.pair'

end Sys2Proof.Machine
end

