-- ==== Sys2Proof/Laws/KeepsPress.lean ====
section
/-! SUPPORT. Laws/KeepsPress.lean: the operations of Machine/Press.lean keep what Laws/Keeps.lean says. -/
set_option Elab.async false  -- one proof at a time: the package as one text then needs less memory
namespace Sys2Proof.Machine

theorem State.setPrs_kept {k : Kept} (s : State) (l : Nat) (x : PressSt) (hk : State.Keeps k s) (hm : k.Allows
    [.press]) :
    State.Keeps k (State.setPrs s l x) := by
  unfold State.setPrs
  with_reducible repeat' first
    | exact hk | assumption | exact hm.regs (by decide) | exact hm.sub (by decide) | exact hm.one (by decide) |
      extract_lets | apply Keeps.upd_press

theorem State.setPrsState_kept {k : Kept} (s : State) (l v : Nat) (hk : State.Keeps k s) (hm : k.Allows [.PRS])
    :
    State.Keeps k (State.setPrsState s l v) := by
  unfold State.setPrsState
  with_reducible repeat' first
    | exact hk | assumption | exact hm.regs (by decide) | exact hm.sub (by decide) | exact hm.one (by decide) |
      apply State.put_kept

theorem State.prsStep_kept {k : Kept} (s : State) (l op : Nat) (f : State → PressInstr → PressSt → State) (hk :
    State.Keeps k s) (hk_f : ∀ s x0 x1, State.Keeps k s → State.Keeps k (f s x0 x1)) (hm : k.Allows [.PRS, .press])
    :
    State.Keeps k (State.prsStep s l op f) := by
  unfold State.prsStep
  with_reducible repeat' first
    | exact hk | assumption | exact hm.regs (by decide) | exact hm.sub (by decide) | exact hm.one (by decide) |
      apply State.put_kept | apply State.setPrs_kept | apply hk_f | (intro _) | extract_lets |
      (dsimp -zeta only) | apply Keeps.of_fst | apply Keeps.of_snd | split | apply Keeps.pair |
      apply Keeps.pair'

theorem State.pressFault_kept {k : Kept} (s : State) (l code at' : Nat) (hk : State.Keeps k s) (hm : k.Allows
    [.PRS, .press]) :
    State.Keeps k (State.pressFault s l code at') := by
  unfold State.pressFault
  with_reducible repeat' first
    | exact hk | assumption | exact hm.regs (by decide) | exact hm.sub (by decide) | exact hm.one (by decide) |
      apply State.put_kept | apply State.ev_kept | apply State.setPrs_kept | apply State.setPrsState_kept |
      extract_lets | split

theorem State.pressReset_kept {k : Kept} (s : State) (l : Nat) (hk : State.Keeps k s) (hm : k.Allows [.PRS,
    .press, .swf]) :
    State.Keeps k (State.pressReset s l) := by
  unfold State.pressReset
  with_reducible repeat' first
    | exact hk | assumption | exact hm.regs (by decide) | exact hm.sub (by decide) | exact hm.one (by decide) |
      apply State.eachReg_kept | apply State.eachFld_kept | exact hm.regsList (by decide) |
      exact hm.fieldsList (by decide) | apply State.setDq_kept | apply State.setWord_kept | apply State.put_kept |
      apply State.each_kept | apply State.setPrs_kept | apply State.setPrsState_kept | (intro _) | extract_lets |
      (dsimp -zeta only) | apply Keeps.of_fst | apply Keeps.of_snd | split | apply Keeps.pair |
      apply Keeps.pair'

theorem State.pressFreeze_kept {k : Kept} (s : State) (l : Nat) (hk : State.Keeps k s) (hm : k.Allows [.PRS,
    .press]) :
    State.Keeps k (State.pressFreeze s l) := by
  unfold State.pressFreeze
  with_reducible repeat' first
    | exact hk | assumption | exact hm.regs (by decide) | exact hm.sub (by decide) | apply State.setPrs_kept |
      apply State.setPrsState_kept | extract_lets | split

theorem State.pressUnfreeze_kept {k : Kept} (s : State) (l : Nat) (hk : State.Keeps k s) (hm : k.Allows [.PRS,
    .press]) :
    State.Keeps k (State.pressUnfreeze s l) := by
  unfold State.pressUnfreeze
  with_reducible repeat' first
    | exact hk | assumption | exact hm.regs (by decide) | exact hm.sub (by decide) | exact hm.one (by decide) |
      apply State.ev_kept | apply State.when_kept | apply State.setPrs_kept | apply State.setPrsState_kept |
      (intro _) | extract_lets | (dsimp -zeta only) | apply Keeps.of_fst | apply Keeps.of_snd | split |
      apply Keeps.pair | apply Keeps.pair'

theorem State.pressQueue_kept {k : Kept} (s : State) (l : Nat) (e : PressEvent) (hk : State.Keeps k s) (hm :
    k.Allows [.PRS, .press]) :
    State.Keeps k (State.pressQueue s l e) := by
  unfold State.pressQueue
  with_reducible repeat' first
    | exact hk | assumption | exact hm.regs (by decide) | exact hm.sub (by decide) | exact hm.one (by decide) |
      apply State.ev_kept | apply State.cnt_kept | apply State.setPrs_kept | extract_lets | split

theorem State.writeCacheLines_kept {k : Kept} (s : State) (p : Path) (l : Nat) (v : Word) (hk : State.Keeps k s)
    (hm : k.Allows [.BOOT, .CAP, .FAB, .FRM, .GIO, .GLB, .LANE, .OBS, .PRS, .SECT, .SGC, .SWF]) :
    State.KeepsFst k (State.writeCacheLines s p l v) := by
  unfold State.writeCacheLines
  with_reducible repeat' first
    | exact hk | assumption | exact hm.regs (by decide) | exact hm.sub (by decide) | exact hm.one (by decide) |
      apply State.put_kept | apply State.ev_kept | apply refuseWrite_kept | apply State.applyWrite_kept |
      apply State.guardWrite_kept | (intro _) | extract_lets | (dsimp -zeta only) | apply Keeps.of_fst |
      apply Keeps.of_snd | split | apply Keeps.pair | apply Keeps.pair'

theorem State.writePress_kept {k : Kept} (s : State) (p : Path) (r : RegDef) (l j k_ : Nat) (v : Word) (hk :
    State.Keeps k s) (hm : k.Allows [.BOOT, .CAP, .FAB, .FRM, .GIO, .GLB, .LANE, .OBS, .PRS, .SECT, .SGC, .SWF])
    (hr_r : k.Regs r) :
    State.KeepsFst k (State.writePress s p r l j k_ v) := by
  unfold State.writePress
  with_reducible repeat' first
    | exact hk | assumption | exact hm.regs (by decide) | exact hm.sub (by decide) | exact hm.one (by decide) |
      apply State.ev_kept | apply refuseWrite_kept | apply State.applyWrite_kept | apply State.guardWrite_kept |
      (intro _) | extract_lets | (dsimp -zeta only) | apply Keeps.of_fst | apply Keeps.of_snd | split |
      apply Keeps.pair | apply Keeps.pair'

theorem State.backlogBits_kept {k : Kept} (s : State) (l : Nat) (hk : State.Keeps k s) (hm : k.Allows [.PRS]) :
    State.Keeps k (State.backlogBits s l) := by
  unfold State.backlogBits
  with_reducible repeat' first
    | exact hk | assumption | exact hm.regs (by decide) | exact hm.sub (by decide) | exact hm.one (by decide) |
      apply State.put_kept

theorem State.passCheck_kept {k : Kept} (s : State) (l : Nat) (hk : State.Keeps k s) (hm : k.Allows [.press]) :
    State.Keeps k (State.passCheck s l) := by
  unfold State.passCheck
  with_reducible repeat' first
    | exact hk | assumption | exact hm.regs (by decide) | exact hm.sub (by decide) | apply State.setPrs_kept |
      (refine Keeps.fst (by assumption) ?_) | (refine Keeps.snd (by assumption) ?_) | extract_lets |
      (dsimp -zeta only) | apply Keeps.of_fst | apply Keeps.of_snd | split | apply Keeps.pair |
      apply Keeps.pair'

theorem State.relayLost_kept {k : Kept} (s : State) (src : Nat) (hk : State.Keeps k s) (hm : k.Allows [.PRS,
    .press]) :
    State.Keeps k (State.relayLost s src) := by
  unfold State.relayLost
  with_reducible repeat' first
    | exact hk | assumption | exact hm.regs (by decide) | exact hm.sub (by decide) | apply State.each_kept |
      apply State.setPrs_kept | apply State.backlogBits_kept | (intro _) | extract_lets | (dsimp -zeta only) |
      apply Keeps.of_fst | apply Keeps.of_snd | apply Keeps.pair | apply Keeps.pair'

theorem State.relayGained_kept {k : Kept} (s : State) (src : Nat) (hk : State.Keeps k s) (hm : k.Allows [.PRS,
    .press]) :
    State.Keeps k (State.relayGained s src) := by
  unfold State.relayGained
  repeat' first
    | with_reducible exact hk
    | with_reducible assumption
    | with_reducible exact hm.regs (by decide)
    | with_reducible exact hm.sub (by decide)
    | with_reducible exact hm.one (by decide)
    | with_reducible apply State.ev_kept
    | with_reducible apply State.cnt_kept
    | with_reducible apply State.each_kept
    | with_reducible apply State.setPrs_kept
    | with_reducible apply State.setPrsState_kept
    | with_reducible refine Keeps.fst (by with_reducible assumption) ?_
    | with_reducible refine Keeps.snd (by with_reducible assumption) ?_
    | (intro _)
    | (dsimp only)
    | (simp -zeta only [id_eq])
    | with_reducible apply Keeps.of_fst
    | with_reducible apply Keeps.of_snd
    | with_reducible apply Keeps.foldl
    | with_reducible apply Keeps.foldl_fst
    | (split)
    | with_reducible apply Keeps.pair
    | with_reducible apply Keeps.pair'
    | with_reducible refine Keeps.upd_any hm ?_

end Sys2Proof.Machine
end

