-- ==== Sys2Proof/Laws/KeepsShaping.lean ====
section
/-! SUPPORT. Laws/KeepsShaping.lean: the operations of Machine/Shaping.lean keep what Laws/Keeps.lean says. -/
set_option Elab.async false  -- one proof at a time: the package as one text then needs less memory
namespace Sys2Proof.Machine

theorem State.setFrm_kept {k : Kept} (s : State) (f : Nat) (x : FrameSt) (hk : State.Keeps k s) (hm : k.Allows
    [.frames]) :
    State.Keeps k (State.setFrm s f x) := by
  unfold State.setFrm
  with_reducible repeat' first
    | exact hk | assumption | exact hm.regs (by decide) | exact hm.sub (by decide) | exact hm.one (by decide) |
      extract_lets | apply Keeps.upd_frames

theorem State.setFrmLane_kept {k : Kept} (s : State) (l : Nat) (x : FrameLane) (hk : State.Keeps k s) (hm :
    k.Allows [.frameLanes]) :
    State.Keeps k (State.setFrmLane s l x) := by
  unfold State.setFrmLane
  with_reducible repeat' first
    | exact hk | assumption | exact hm.regs (by decide) | exact hm.sub (by decide) | exact hm.one (by decide) |
      extract_lets | apply Keeps.upd_frameLanes

theorem State.setLevel_kept {k : Kept} (s : State) (f : Nat) (v : Int) (hk : State.Keeps k s) (hm : k.Allows
    [.FRM, .frames]) :
    State.Keeps k (State.setLevel s f v) := by
  unfold State.setLevel
  with_reducible repeat' first
    | exact hk | assumption | exact hm.regs (by decide) | exact hm.sub (by decide) | exact hm.one (by decide) |
      apply State.put_kept | apply State.setFrm_kept | extract_lets | split

theorem State.countBad_kept {k : Kept} (s : State) (f : Nat) (hk : State.Keeps k s) (hm : k.Allows [.FRM]) :
    State.Keeps k (State.countBad s f) := by
  unfold State.countBad
  with_reducible repeat' first
    | exact hk | assumption | exact hm.regs (by decide) | exact hm.sub (by decide) | exact hm.one (by decide) |
      apply State.ev_kept | apply State.cnt_kept

theorem State.listNext_kept {k : Kept} (f fuel : Nat) (s : State) (hk : State.Keeps k s)
    (hm : k.Allows [.FRM, .frames]) :
    State.Keeps k (State.listNext s f fuel) := by
  induction fuel generalizing s with
  | zero => exact hk
  | succ n' ih =>
    unfold State.listNext
    try dsimp only
    with_reducible repeat' first
      | exact hk | assumption | exact hm.sub (by decide) | apply ih | apply State.setFrm_kept | apply State.countBad_kept | split

theorem State.deliver_kept {k : Kept} (s : State) (f : Nat) (r : FrameRec) (hk : State.Keeps k s) (hm : k.Allows
    [.FRM, .SWF, .swf]) :
    State.Keeps k (State.deliver s f r) := by
  unfold State.deliver
  with_reducible repeat' first
    | exact hk | assumption | exact hm.regs (by decide) | exact hm.sub (by decide) | exact hm.one (by decide) |
      apply State.dqPost_kept | apply State.ev_kept | apply State.cnt_kept | apply State.when_kept |
      apply State.ok_kept | (refine Keeps.fst (by assumption) ?_) | (refine Keeps.snd (by assumption) ?_) |
      (intro _) | extract_lets | (dsimp -zeta only) | apply Keeps.of_fst | apply Keeps.of_snd | split |
      apply Keeps.pair | apply Keeps.pair'

theorem State.putFrame_kept {k : Kept} (s : State) (f : Nat) (r : FrameRec) (hk : State.Keeps k s) (hm :
    k.Allows [.FRM, .SWF, .frames, .swf]) :
    State.Keeps k (State.putFrame s f r) := by
  unfold State.putFrame
  with_reducible repeat' first
    | exact hk | assumption | exact hm.regs (by decide) | exact hm.sub (by decide) | exact hm.one (by decide) |
      apply State.put_kept | apply State.setFrm_kept | apply State.deliver_kept | (intro _) | extract_lets |
      (dsimp -zeta only) | apply Keeps.of_fst | apply Keeps.of_snd | split | apply Keeps.pair |
      apply Keeps.pair' | apply Keeps.upd_frames

theorem State.skipLane_kept {k : Kept} (s : State) (f seq l cause : Nat) (hk : State.Keeps k s) (hm : k.Allows
    [.FRM, .PRS, .SWF, .frames, .swf]) :
    State.Keeps k (State.skipLane s f seq l cause) := by
  unfold State.skipLane
  with_reducible repeat' first
    | exact hk | assumption | exact hm.regs (by decide) | exact hm.sub (by decide) | exact hm.one (by decide) |
      apply State.cnt_kept | apply State.putFrame_kept | (refine Keeps.fst (by assumption) ?_) |
      (refine Keeps.snd (by assumption) ?_) | (intro _) | extract_lets | (dsimp -zeta only) | apply Keeps.of_fst |
      apply Keeps.of_snd | split | apply Keeps.pair | apply Keeps.pair'

theorem State.startLane_kept {k : Kept} (s : State) (f seq l t : Nat) (hk : State.Keeps k s) (hm : k.Allows
    [.FRM, .PRS, .SWF, .frameLanes, .frames, .swf]) :
    State.Keeps k (State.startLane s f seq l t) := by
  unfold State.startLane
  with_reducible repeat' first
    | exact hk | assumption | exact hm.regs (by decide) | exact hm.sub (by decide) | exact hm.one (by decide) |
      apply State.put_kept | apply State.cnt_kept | apply State.addPair_kept | apply State.setFrmLane_kept |
      apply State.setLevel_kept | apply State.putFrame_kept | (refine Keeps.fst (by assumption) ?_) |
      (refine Keeps.snd (by assumption) ?_) | (intro _) | extract_lets | (dsimp -zeta only) | apply Keeps.of_fst |
      apply Keeps.of_snd | split | apply Keeps.pair | apply Keeps.pair'

theorem State.takeHead_kept {k : Kept} (s : State) (f : Nat) (hk : State.Keeps k s) (hm : k.Allows [.FRM,
    .frames]) :
    State.Keeps k (State.takeHead s f) := by
  unfold State.takeHead
  with_reducible repeat' first
    | exact hk | assumption | exact hm.regs (by decide) | exact hm.sub (by decide) | exact hm.one (by decide) |
      apply State.setFrm_kept | apply State.listNext_kept | (refine Keeps.fst (by assumption) ?_) |
      (refine Keeps.snd (by assumption) ?_) | extract_lets | (dsimp -zeta only) | apply Keeps.of_fst |
      apply Keeps.of_snd | split | apply Keeps.pair | apply Keeps.pair' | apply Keeps.upd_frames |
      (refine Keeps.upd_any hm ?_)

theorem State.lag_kept {k : Kept} (s : State) (f k_ : Nat) (hk : State.Keeps k s) (hm : k.Allows [.FRM, .PRS,
    .SWF, .frameLanes, .frames, .swf]) :
    State.Keeps k (State.lag s f k_) := by
  unfold State.lag
  with_reducible repeat' first
    | exact hk | assumption | exact hm.regs (by decide) | exact hm.sub (by decide) | apply State.each_kept |
      apply State.setFrmLane_kept | apply State.skipLane_kept | (intro _) | extract_lets | (dsimp -zeta only) |
      apply Keeps.of_fst | apply Keeps.of_snd | split | apply Keeps.pair | apply Keeps.pair'

theorem State.setGrant_kept {k : Kept} (s : State) (f : Nat) (g : Grant) (hk : State.Keeps k s) (hm : k.Allows
    [.frames]) :
    State.Keeps k (State.setGrant s f g) := by
  unfold State.setGrant
  with_reducible repeat' first
    | exact hk | assumption | exact hm.regs (by decide) | exact hm.sub (by decide) | apply State.setFrm_kept |
      extract_lets | split

theorem State.releaseLane_kept {k : Kept} (s : State) (f l : Nat) (hk : State.Keeps k s) (hm : k.Allows [.PRS,
    .frames]) :
    State.Keeps k (State.releaseLane s f l) := by
  unfold State.releaseLane
  with_reducible repeat' first
    | exact hk | assumption | exact hm.regs (by decide) | exact hm.sub (by decide) | exact hm.one (by decide) |
      apply State.put_kept | apply State.setGrant_kept | (refine Keeps.fst (by assumption) ?_) |
      (refine Keeps.snd (by assumption) ?_) | (intro _) | extract_lets | (dsimp -zeta only) | apply Keeps.of_fst |
      apply Keeps.of_snd | split | apply Keeps.pair | apply Keeps.pair'

theorem State.shaperSlot_kept {k : Kept} (s : State) (f : Nat) (hk : State.Keeps k s) (hm : k.Allows [.FRM,
    .frames]) :
    State.Keeps k (State.shaperSlot s f) := by
  unfold State.shaperSlot
  with_reducible repeat' first
    | exact hk | assumption | exact hm.regs (by decide) | exact hm.sub (by decide) | exact hm.one (by decide) |
      apply State.clr_kept | apply State.setFrm_kept | apply State.setLevel_kept | extract_lets | split

theorem State.frmTouch_kept {k : Kept} (s : State) (f : Nat) (hk : State.Keeps k s) (hm : k.Allows [.FRM,
    .frames]) :
    State.Keeps k (State.frmTouch s f) := by
  unfold State.frmTouch
  with_reducible repeat' first
    | exact hk | assumption | exact hm.regs (by decide) | exact hm.sub (by decide) | apply State.setLevel_kept |
      split

theorem State.writeFrame_kept {k : Kept} (s : State) (p : Path) (r : RegDef) (f : Nat) (v : Word) (hk :
    State.Keeps k s) (hm : k.Allows [.BOOT, .CAP, .FAB, .FRM, .GIO, .GLB, .LANE, .OBS, .PRS, .SECT, .SGC, .SWF,
    .frames]) (hr_r : k.Regs r) :
    State.KeepsFst k (State.writeFrame s p r f v) := by
  unfold State.writeFrame
  with_reducible repeat' first
    | exact hk | assumption | exact hm.regs (by decide) | exact hm.sub (by decide) | exact hm.one (by decide) |
      apply State.ev_kept | apply refuseWrite_kept | apply State.applyWrite_kept | apply State.guardWrite_kept |
      apply State.frmTouch_kept | (intro _) | extract_lets | (dsimp -zeta only) | apply Keeps.of_fst |
      apply Keeps.of_snd | split | apply Keeps.pair | apply Keeps.pair'

theorem State.frmEnd_kept {k : Kept} (s : State) (f st : Nat) (hk : State.Keeps k s) (hm : k.Allows [.FRM, .PRS,
    .frames]) :
    State.Keeps k (State.frmEnd s f st) := by
  unfold State.frmEnd
  with_reducible repeat' first
    | exact hk | assumption | exact hm.regs (by decide) | exact hm.sub (by decide) | exact hm.one (by decide) |
      apply State.put_kept | apply State.each_kept | apply State.setFrm_kept |
      (refine Keeps.fst (by assumption) ?_) | (refine Keeps.snd (by assumption) ?_) | (intro _) | extract_lets |
      (dsimp -zeta only) | apply Keeps.of_fst | apply Keeps.of_snd | split | apply Keeps.pair |
      apply Keeps.pair' | apply Keeps.upd_frames

end Sys2Proof.Machine
end

