-- ==== Sys2Proof/Laws/KeepsPressWire.lean ====
section
/-! SUPPORT. Laws/KeepsPressWire.lean: the operations of Machine/PressWire.lean keep what Laws/Keeps.lean says. -/
set_option Elab.async false  -- one proof at a time: the package as one text then needs less memory
namespace Sys2Proof.Machine

theorem State.countIdle_kept {k : Kept} (s : State) (l cause : Nat) (hk : State.Keeps k s) (hm : k.Allows
    [.PRS]) :
    State.Keeps k (State.countIdle s l cause) := by
  unfold State.countIdle
  with_reducible repeat' first
    | exact hk | assumption | exact hm.regs (by decide) | exact hm.sub (by decide) | exact hm.one (by decide) |
      apply State.ev_kept | apply State.cnt_kept | (refine Keeps.fst (by assumption) ?_) |
      (refine Keeps.snd (by assumption) ?_) | (dsimp -zeta only) | apply Keeps.of_fst | apply Keeps.of_snd |
      split | apply Keeps.pair | apply Keeps.pair'

theorem State.wireOut_kept {k : Kept} (s : State) (l unit cause t : Nat) (k_ : Bool) (hk : State.Keeps k s) (hm
    : k.Allows [.CAP, .HIF, .PRS, .RAS, .SEC, .SECT, .SWF, .cap, .coll, .free, .lanes, .out, .press, .ras, .swf,
    .tenants, .trig]) :
    State.Keeps k (State.wireOut s l unit cause t k_) := by
  unfold State.wireOut
  with_reducible repeat' first
    | exact hk | assumption | exact hm.regs (by decide) | exact hm.sub (by decide) | exact hm.one (by decide) |
      apply State.watchUnit_kept | apply State.streamUnit_kept | apply State.ev_kept | apply State.when_kept |
      apply State.each_kept | apply State.send_kept | apply State.setPrs_kept | apply State.countIdle_kept |
      (refine Keeps.fst (by assumption) ?_) | (refine Keeps.snd (by assumption) ?_) | (intro _) | extract_lets |
      (dsimp -zeta only) | apply Keeps.of_fst | apply Keeps.of_snd | split | apply Keeps.pair |
      apply Keeps.pair'

theorem State.wireIdle_kept {k : Kept} (s : State) (l cause t : Nat) (k_ : Bool) (hk : State.Keeps k s) (hm :
    k.Allows [.CAP, .HIF, .PRS, .RAS, .SEC, .SECT, .SWF, .cap, .coll, .free, .lanes, .out, .press, .ras, .swf,
    .tenants, .trig]) :
    State.Keeps k (State.wireIdle s l cause t k_) := by
  unfold State.wireIdle
  with_reducible repeat' first
    | exact hk | assumption | exact hm.regs (by decide) | exact hm.sub (by decide) | apply State.wireOut_kept

theorem State.sendProgram_kept {k : Kept} (s : State) (l t : Nat) (k_ : Bool) (hk : State.Keeps k s) (hm :
    k.Allows [.CAP, .HIF, .PRS, .RAS, .SEC, .SECT, .SWF, .cap, .coll, .free, .lanes, .out, .press, .ras, .swf,
    .tenants, .trig]) :
    State.Keeps k (State.sendProgram s l t k_) := by
  unfold State.sendProgram
  with_reducible repeat' first
    | exact hk | assumption | exact hm.regs (by decide) | exact hm.sub (by decide) | apply State.setPrs_kept |
      apply State.pressFault_kept | apply State.wireOut_kept | apply State.wireIdle_kept |
      (refine Keeps.fst (by assumption) ?_) | (refine Keeps.snd (by assumption) ?_) | extract_lets |
      (dsimp -zeta only) | apply Keeps.of_fst | apply Keeps.of_snd | split | apply Keeps.pair |
      apply Keeps.pair'

theorem State.forward_kept {k : Kept} (s : State) (l t : Nat) (k_ : Bool) (cur : Option Seg) (hk : State.Keeps k
    s) (hm : k.Allows [.CAP, .HIF, .PRS, .RAS, .SEC, .SECT, .SWF, .cap, .coll, .free, .lanes, .out, .press, .ras,
    .swf, .tenants, .trig]) :
    State.Keeps k (State.forward s l t k_ cur) := by
  unfold State.forward
  with_reducible repeat' first
    | exact hk | assumption | exact hm.regs (by decide) | exact hm.sub (by decide) | apply State.setPrs_kept |
      apply State.backlogBits_kept | apply State.passCheck_kept | apply State.wireOut_kept |
      apply State.wireIdle_kept | (refine Keeps.fst (by assumption) ?_) | (refine Keeps.snd (by assumption) ?_) |
      extract_lets | (dsimp -zeta only) | apply Keeps.of_fst | apply Keeps.of_snd | split | apply Keeps.pair |
      apply Keeps.pair'

theorem State.sendRelay_kept {k : Kept} (s : State) (l t : Nat) (k_ : Bool) (hk : State.Keeps k s) (hm :
    k.Allows [.CAP, .HIF, .PRS, .RAS, .SEC, .SECT, .SWF, .cap, .coll, .free, .lanes, .out, .press, .ras, .swf,
    .tenants, .trig]) :
    State.Keeps k (State.sendRelay s l t k_) := by
  unfold State.sendRelay
  with_reducible repeat' first
    | exact hk | assumption | exact hm.regs (by decide) | exact hm.sub (by decide) | apply State.wireIdle_kept |
      apply State.sendProgram_kept | apply State.forward_kept | (refine Keeps.fst (by assumption) ?_) |
      (refine Keeps.snd (by assumption) ?_) | extract_lets | (dsimp -zeta only) | apply Keeps.of_fst |
      apply Keeps.of_snd | split | apply Keeps.pair | apply Keeps.pair'

theorem State.sendFrame_kept {k : Kept} (s : State) (l t : Nat) (k_ : Bool) (hk : State.Keeps k s) (hm :
    k.Allows [.CAP, .HIF, .PRS, .RAS, .SEC, .SECT, .SWF, .cap, .coll, .frameLanes, .free, .lanes, .out, .press,
    .ras, .swf, .tenants, .trig]) :
    State.Keeps k (State.sendFrame s l t k_) := by
  unfold State.sendFrame
  with_reducible repeat' first
    | exact hk | assumption | exact hm.regs (by decide) | exact hm.sub (by decide) | exact hm.one (by decide) |
      apply State.put_kept | apply State.wireOut_kept | apply State.wireIdle_kept | apply State.setFrmLane_kept |
      (refine Keeps.fst (by assumption) ?_) | (refine Keeps.snd (by assumption) ?_) | (intro _) | extract_lets |
      (dsimp -zeta only) | apply Keeps.of_fst | apply Keeps.of_snd | split | apply Keeps.pair |
      apply Keeps.pair'

theorem State.sendDevice_kept {k : Kept} (s : State) (l t : Nat) (k_ : Bool) (hk : State.Keeps k s) (hm :
    k.Allows [.CAP, .HIF, .PRS, .RAS, .SEC, .SECT, .SWF, .cap, .coll, .free, .lanes, .out, .press, .ras, .swf,
    .tenants, .trig]) :
    State.Keeps k (State.sendDevice s l t k_) := by
  unfold State.sendDevice
  with_reducible repeat' first
    | exact hk | assumption | exact hm.regs (by decide) | exact hm.sub (by decide) | apply State.fresh_kept |
      apply State.setPrs_kept | apply State.wireOut_kept | (refine Keeps.fst (by assumption) ?_) |
      (refine Keeps.snd (by assumption) ?_) | (intro _) | extract_lets | (dsimp -zeta only) | apply Keeps.of_fst |
      apply Keeps.of_snd | apply Keeps.foldl | apply Keeps.foldl_fst | split | apply Keeps.pair |
      apply Keeps.pair'

end Sys2Proof.Machine
end

