-- ==== Sys2Proof/Laws/KeepsLanes.lean ====
section
/-! SUPPORT. Laws/KeepsLanes.lean: the operations of Machine/Lanes.lean keep what Laws/Keeps.lean says. -/
set_option Elab.async false  -- one proof at a time: the package as one text then needs less memory
namespace Sys2Proof.Machine

theorem State.waveStrip_kept {k : Kept} (s : State) (l tap : Nat) (vals : List Int) (time : Nat) (last : Bool)
    (hk : State.Keeps k s) (hm : k.Allows [.CAP, .HIF, .RAS, .SEC, .SWF, .cap, .coll, .free, .out, .ras, .swf,
    .tenants]) :
    State.Keeps k (State.waveStrip s l tap vals time last) := by
  unfold State.waveStrip
  with_reducible repeat' first
    | exact hk | assumption | exact hm.regs (by decide) | exact hm.sub (by decide) | apply State.place_kept |
      (intro _) | extract_lets | (dsimp -zeta only) | apply Keeps.of_fst | apply Keeps.of_snd |
      apply Keeps.foldl | apply Keeps.foldl_fst | apply Keeps.pair | apply Keeps.pair'

theorem State.tdrResult_kept {k : Kept} (s : State) (l : Nat) (r : DigRun) (hk : State.Keeps k s) (hm : k.Allows
    [.LANE]) :
    State.Keeps k (State.tdrResult s l r) := by
  unfold State.tdrResult
  with_reducible repeat' first
    | exact hk | assumption | exact hm.regs (by decide) | exact hm.sub (by decide) | exact hm.one (by decide) |
      apply State.put_kept | (refine Keeps.fst (by assumption) ?_) | (refine Keeps.snd (by assumption) ?_) |
      extract_lets | (dsimp -zeta only) | apply Keeps.of_fst | apply Keeps.of_snd | split | apply Keeps.pair |
      apply Keeps.pair'

theorem State.digEnd_kept {k : Kept} (s : State) (l tap result status : Nat) (hk : State.Keeps k s) (hm :
    k.Allows [.CAP, .HIF, .LANE, .RAS, .SEC, .SWF, .cap, .coll, .free, .lanes, .out, .ras, .swf, .tenants]) :
    State.Keeps k (State.digEnd s l tap result status) := by
  unfold State.digEnd
  with_reducible repeat' first
    | exact hk | assumption | exact hm.regs (by decide) | exact hm.sub (by decide) | exact hm.one (by decide) |
      apply State.event_kept | apply State.setLane_kept | apply State.waveStrip_kept |
      apply State.tdrResult_kept | apply State.put_kept | apply State.clr_kept | apply State.when_kept |
      apply State.complete_kept | (refine Keeps.fst (by assumption) ?_) | (refine Keeps.snd (by assumption) ?_) |
      (intro _) | extract_lets | (dsimp -zeta only) | apply Keeps.of_fst | apply Keeps.of_snd | split |
      apply Keeps.pair | apply Keeps.pair'

theorem State.digLostLock_kept {k : Kept} (s : State) (l : Nat) (pll : Bool) (hk : State.Keeps k s) (hm :
    k.Allows [.CAP, .HIF, .LANE, .RAS, .SEC, .SWF, .cap, .coll, .free, .lanes, .out, .ras, .swf, .tenants]) :
    State.Keeps k (State.digLostLock s l pll) := by
  unfold State.digLostLock
  with_reducible repeat' first
    | exact hk | assumption | exact hm.regs (by decide) | exact hm.sub (by decide) | apply State.digEnd_kept |
      apply State.each_kept | (refine Keeps.fst (by assumption) ?_) | (refine Keeps.snd (by assumption) ?_) |
      (intro _) | (dsimp -zeta only) | apply Keeps.of_fst | apply Keeps.of_snd | split | apply Keeps.pair |
      apply Keeps.pair'

theorem State.trimBack_kept {k : Kept} (s : State) (n m : Nat) (hk : State.Keeps k s) (hm : k.Allows [.cap]) :
    State.Keeps k (State.trimBack s n m) := by
  unfold State.trimBack
  with_reducible repeat' first
    | exact hk | assumption | exact hm.regs (by decide) | exact hm.sub (by decide) | apply State.setStrm_kept |
      extract_lets

theorem State.toLaneState_kept {k : Kept} (s : State) (l st : Nat) (hk : State.Keeps k s) (hm : k.Allows [.CAP,
    .CLK, .HIF, .LANE, .PRS, .RAS, .SEC, .SECT, .SWF, .cap, .coll, .free, .lanes, .out, .press, .ras, .swf,
    .tenants, .trig]) :
    State.Keeps k (State.toLaneState s l st) := by
  unfold State.toLaneState
  with_reducible repeat' first
    | exact hk | assumption | exact hm.regs (by decide) | exact hm.sub (by decide) | exact hm.one (by decide) |
      apply State.sourceGone_kept | apply State.laneMatch_kept | apply State.setLane_kept |
      apply State.endStretch_kept | apply State.addCause_kept | apply State.dropCause_kept |
      apply State.closeGap_kept | apply State.eventStrip_kept | apply State.laneLost_kept |
      apply State.digLostLock_kept | apply State.put_kept | apply State.ev_kept | apply State.cnt_kept |
      apply State.when_kept | apply State.each_kept | apply State.relayLost_kept | apply State.relayGained_kept |
      (intro _) | extract_lets | (dsimp -zeta only) | apply Keeps.of_fst | apply Keeps.of_snd | split |
      apply Keeps.pair | apply Keeps.pair'

theorem State.txDriving_kept {k : Kept} (s : State) (l : Nat) (on : Bool) (hk : State.Keeps k s) (hm : k.Allows
    [.CAP, .HIF, .RAS, .SEC, .SECT, .SWF, .cap, .coll, .free, .lanes, .out, .ras, .swf, .tenants, .trig]) :
    State.Keeps k (State.txDriving s l on) := by
  unfold State.txDriving
  with_reducible repeat' first
    | exact hk | assumption | exact hm.regs (by decide) | exact hm.sub (by decide) | apply State.setLane_kept |
      apply State.addCause_kept | apply State.dropCause_kept | apply State.each_kept | (intro _) | extract_lets |
      (dsimp -zeta only) | apply Keeps.of_fst | apply Keeps.of_snd | split | apply Keeps.pair |
      apply Keeps.pair'

theorem State.laneTo_kept {k : Kept} (s : State) (l st : Nat) (hk : State.Keeps k s) (hm : k.Allows [.CAP, .CLK,
    .HIF, .LANE, .PRS, .RAS, .SEC, .SECT, .SWF, .cap, .coll, .free, .lanes, .out, .press, .ras, .swf, .tenants,
    .trig]) :
    State.Keeps k (State.laneTo s l st) := by
  unfold State.laneTo
  with_reducible repeat' first
    | exact hk | assumption | exact hm.regs (by decide) | exact hm.sub (by decide) |
      apply State.toLaneState_kept | apply State.txDriving_kept | extract_lets | split

theorem State.octetInUse_kept {k : Kept} (s : State) (o : Nat) (hk : State.Keeps k s) (hm : k.Allows [.LANE]) :
    State.Keeps k (State.octetInUse s o) := by
  unfold State.octetInUse
  with_reducible repeat' first
    | exact hk | assumption | exact hm.regs (by decide) | exact hm.sub (by decide) | exact hm.one (by decide) |
      apply State.put_kept

theorem State.loadOctet_kept {k : Kept} (s : State) (l : Nat) (hk : State.Keeps k s) (hm : k.Allows [.LANE]) :
    State.Keeps k (State.loadOctet s l) := by
  unfold State.loadOctet
  with_reducible repeat' first
    | exact hk | assumption | exact hm.regs (by decide) | exact hm.sub (by decide) | exact hm.one (by decide) |
      apply State.setWord_kept | apply State.put_kept | apply State.ev_kept | extract_lets | split

theorem State.enterLane_kept {k : Kept} (s : State) (l : Nat) (hk : State.Keeps k s) (hm : k.Allows [.CAP, .CLK,
    .HIF, .LANE, .PRS, .RAS, .SEC, .SECT, .SWF, .cap, .coll, .free, .lanes, .out, .press, .ras, .swf, .tenants,
    .trig]) :
    State.Keeps k (State.enterLane s l) := by
  unfold State.enterLane
  with_reducible repeat' first
    | exact hk | assumption | exact hm.regs (by decide) | exact hm.sub (by decide) | exact hm.one (by decide) |
      apply State.laneTo_kept | apply State.put_kept | apply State.clr_kept | extract_lets | split

theorem State.disableLane_kept {k : Kept} (s : State) (l : Nat) (hk : State.Keeps k s) (hm : k.Allows [.CAP,
    .CLK, .HIF, .LANE, .PRS, .RAS, .SEC, .SECT, .SWF, .cap, .coll, .free, .lanes, .out, .press, .ras, .swf,
    .tenants, .trig]) :
    State.Keeps k (State.disableLane s l) := by
  unfold State.disableLane
  with_reducible repeat' first
    | exact hk | assumption | exact hm.regs (by decide) | exact hm.sub (by decide) | exact hm.one (by decide) |
      apply State.setLane_kept | apply State.digEnd_kept | apply State.laneTo_kept | apply State.octetInUse_kept |
      apply State.put_kept | apply State.clr_kept | apply State.each_kept | apply State.pressFault_kept |
      (intro _) | extract_lets | (dsimp -zeta only) | apply Keeps.of_fst | apply Keeps.of_snd | split |
      apply Keeps.pair | apply Keeps.pair'

theorem State.laneRefuse_kept {k : Kept} (s : State) (p : Path) (l cause st : Nat) (hk : State.Keeps k s) (hm :
    k.Allows [.LANE]) :
    State.KeepsFst k (State.laneRefuse s p l cause st) := by
  unfold State.laneRefuse
  with_reducible repeat' first
    | exact hk | assumption | exact hm.regs (by decide) | exact hm.sub (by decide) | exact hm.one (by decide) |
      apply State.put_kept | apply State.ev_kept | apply refuseWrite_kept | (intro _) | (dsimp -zeta only) |
      apply Keeps.of_fst | apply Keeps.of_snd | apply Keeps.pair | apply Keeps.pair'

theorem State.writeLaneCtrl_kept {k : Kept} (s : State) (p : Path) (l : Nat) (v : Word) (hk : State.Keeps k s)
    (hm : k.Allows [.BOOT, .CAP, .CLK, .FAB, .FRM, .GIO, .GLB, .HIF, .LANE, .OBS, .PRS, .RAS, .SEC, .SECT, .SGC,
    .SWF, .cap, .coll, .free, .lanes, .out, .press, .ras, .swf, .tenants, .trig]) :
    State.KeepsFst k (State.writeLaneCtrl s p l v) := by
  unfold State.writeLaneCtrl
  with_reducible repeat' first
    | exact hk | assumption | exact hm.regs (by decide) | exact hm.sub (by decide) | exact hm.one (by decide) |
      apply State.setLane_kept | apply State.octetInUse_kept | apply State.loadOctet_kept |
      apply State.enterLane_kept | apply State.disableLane_kept | apply State.laneRefuse_kept |
      apply State.applyWrite_kept | apply State.guardWrite_kept | (refine Keeps.fst (by assumption) ?_) |
      (refine Keeps.snd (by assumption) ?_) | (intro _) | extract_lets | (dsimp -zeta only) | apply Keeps.of_fst |
      apply Keeps.of_snd | split | apply Keeps.pair | apply Keeps.pair'

theorem State.writeLaneRate_kept {k : Kept} (s : State) (p : Path) (r : RegDef) (l : Nat) (v : Word) (hk :
    State.Keeps k s) (hm : k.Allows [.BOOT, .CAP, .FAB, .FRM, .GIO, .GLB, .LANE, .OBS, .PRS, .SECT, .SGC, .SWF])
    (hr_r : k.Regs r) :
    State.KeepsFst k (State.writeLaneRate s p r l v) := by
  unfold State.writeLaneRate
  with_reducible repeat' first
    | exact hk | assumption | exact hm.regs (by decide) | exact hm.sub (by decide) | apply State.laneRefuse_kept |
      apply State.applyWrite_kept | apply State.guardWrite_kept | (intro _) | extract_lets | (dsimp -zeta only) |
      apply Keeps.of_fst | apply Keeps.of_snd | split | apply Keeps.pair | apply Keeps.pair'

theorem State.laneUnavailable_kept {k : Kept} (s : State) (l cause : Nat) (hk : State.Keeps k s) (hm : k.Allows
    [.CAP, .CLK, .HIF, .LANE, .PRS, .RAS, .SEC, .SECT, .SWF, .cap, .clk, .coll, .free, .lanes, .out, .press, .ras,
    .swf, .tenants, .trig]) :
    State.Keeps k (State.laneUnavailable s l cause) := by
  unfold State.laneUnavailable
  with_reducible repeat' first
    | exact hk | assumption | exact hm.regs (by decide) | exact hm.sub (by decide) | exact hm.one (by decide) |
      apply State.activeLost_kept | apply State.sourceGone_kept | apply State.digEnd_kept |
      apply State.laneTo_kept | apply State.octetInUse_kept | apply State.put_kept | apply State.ev_kept |
      apply State.clr_kept | apply State.when_kept | apply State.each_kept | apply State.log_kept |
      apply State.pressFault_kept | (intro _) | extract_lets | (dsimp -zeta only) | apply Keeps.of_fst |
      apply Keeps.of_snd | split | apply Keeps.pair | apply Keeps.pair'

theorem State.writeTxFir_kept {k : Kept} (s : State) (p : Path) (l : Nat) (v : Word) (hk : State.Keeps k s) (hm
    : k.Allows [.BOOT, .CAP, .FAB, .FRM, .GIO, .GLB, .LANE, .OBS, .PRS, .SECT, .SGC, .SWF, .lanes]) :
    State.KeepsFst k (State.writeTxFir s p l v) := by
  unfold State.writeTxFir
  with_reducible repeat' first
    | exact hk | assumption | exact hm.regs (by decide) | exact hm.sub (by decide) | exact hm.one (by decide) |
      apply State.setLane_kept | apply State.applyWrite_kept | apply State.guardWrite_kept | (intro _) |
      extract_lets | (dsimp -zeta only) | apply Keeps.of_fst | apply Keeps.of_snd | split | apply Keeps.pair |
      apply Keeps.pair'

theorem State.freeCoef_kept {k : Kept} (s : State) (sel : Nat) (hk : State.Keeps k s) (hm : k.Allows [.free]) :
    State.KeepsSnd k (State.freeCoef s sel) := by
  unfold State.freeCoef
  with_reducible repeat' first
    | exact hk | assumption | exact hm.regs (by decide) | exact hm.sub (by decide) | apply State.fresh_kept |
      (refine Keeps.fst (by assumption) ?_) | (refine Keeps.snd (by assumption) ?_) | extract_lets |
      (dsimp -zeta only) | apply Keeps.of_fst | apply Keeps.of_snd | split | apply Keeps.pair |
      apply Keeps.pair'

theorem State.holdCoefs_kept {k : Kept} (s : State) (l : Nat) (hk : State.Keeps k s) (hm : k.Allows [.free,
    .lanes]) :
    State.Keeps k (State.holdCoefs s l) := by
  unfold State.holdCoefs
  with_reducible repeat' first
    | exact hk | assumption | exact hm.regs (by decide) | exact hm.sub (by decide) | apply State.setLane_kept |
      apply State.freeCoef_kept | apply State.each_kept | (refine Keeps.fst (by assumption) ?_) |
      (refine Keeps.snd (by assumption) ?_) | (intro _) | extract_lets | (dsimp -zeta only) | apply Keeps.of_fst |
      apply Keeps.of_snd | split | apply Keeps.pair | apply Keeps.pair'

theorem State.writeRxCoef_kept {k : Kept} (s : State) (p : Path) (l : Nat) (v : Word) (hk : State.Keeps k s) (hm
    : k.Allows [.BOOT, .CAP, .FAB, .FRM, .GIO, .GLB, .LANE, .OBS, .PRS, .SECT, .SGC, .SWF, .lanes]) :
    State.KeepsFst k (State.writeRxCoef s p l v) := by
  unfold State.writeRxCoef
  with_reducible repeat' first
    | exact hk | assumption | exact hm.regs (by decide) | exact hm.sub (by decide) | exact hm.one (by decide) |
      apply State.setLane_kept | apply State.put_kept | apply State.lostWrite_kept | apply State.guardWrite_kept |
      (refine Keeps.fst (by assumption) ?_) | (refine Keeps.snd (by assumption) ?_) | (intro _) | extract_lets |
      (dsimp -zeta only) | apply Keeps.of_fst | apply Keeps.of_snd | split | apply Keeps.pair |
      apply Keeps.pair'

theorem State.writeRxEq_kept {k : Kept} (s : State) (p : Path) (l : Nat) (v : Word) (hk : State.Keeps k s) (hm :
    k.Allows [.BOOT, .CAP, .FAB, .FRM, .GIO, .GLB, .LANE, .OBS, .PRS, .SECT, .SGC, .SWF, .free, .lanes]) :
    State.KeepsFst k (State.writeRxEq s p l v) := by
  unfold State.writeRxEq
  with_reducible repeat' first
    | exact hk | assumption | exact hm.regs (by decide) | exact hm.sub (by decide) | exact hm.one (by decide) |
      apply State.holdCoefs_kept | apply State.applyWrite_kept | apply State.guardWrite_kept | (intro _) |
      extract_lets | (dsimp -zeta only) | apply Keeps.of_fst | apply Keeps.of_snd | split | apply Keeps.pair |
      apply Keeps.pair'

theorem State.digRefuse_kept {k : Kept} (s : State) (p : Path) (l tap st : Nat) (hk : State.Keeps k s) (hm :
    k.Allows [.LANE]) :
    State.KeepsFst k (State.digRefuse s p l tap st) := by
  unfold State.digRefuse
  with_reducible repeat' first
    | exact hk | assumption | exact hm.regs (by decide) | exact hm.sub (by decide) | exact hm.one (by decide) |
      apply State.put_kept | apply State.clr_kept | apply State.descriptor_kept |
      (refine Keeps.fst (by assumption) ?_) | (refine Keeps.snd (by assumption) ?_) | extract_lets |
      (dsimp -zeta only) | apply Keeps.of_fst | apply Keeps.of_snd | split | apply Keeps.pair |
      apply Keeps.pair'

theorem State.digStart_kept {k : Kept} (s : State) (p : Path) (l tap : Nat) (d : Option Desc) (hk : State.Keeps
    k s) (hm : k.Allows [.LANE, .lanes]) :
    State.KeepsFst k (State.digStart s p l tap d) := by
  unfold State.digStart
  with_reducible repeat' first
    | exact hk | assumption | exact hm.regs (by decide) | exact hm.sub (by decide) | exact hm.one (by decide) |
      apply State.setLane_kept | apply State.digRefuse_kept | apply State.put_kept | apply State.ev_kept |
      (refine Keeps.fst (by assumption) ?_) | (refine Keeps.snd (by assumption) ?_) | extract_lets |
      (dsimp -zeta only) | apply Keeps.of_fst | apply Keeps.of_snd | split | apply Keeps.pair |
      apply Keeps.pair'

theorem State.digAbort_kept {k : Kept} (s : State) (l tap : Nat) (hk : State.Keeps k s) (hm : k.Allows [.CAP,
    .HIF, .LANE, .RAS, .SEC, .SWF, .cap, .coll, .free, .lanes, .out, .ras, .swf, .tenants]) :
    State.Keeps k (State.digAbort s l tap) := by
  unfold State.digAbort
  with_reducible repeat' first
    | exact hk | assumption | exact hm.regs (by decide) | exact hm.sub (by decide) | exact hm.one (by decide) |
      apply State.digEnd_kept | apply State.clr_kept

theorem State.writeDigCfg_kept {k : Kept} (s : State) (p : Path) (l tap : Nat) (v : Word) (hk : State.Keeps k s)
    (hm : k.Allows [.BOOT, .CAP, .FAB, .FRM, .GIO, .GLB, .HIF, .LANE, .OBS, .PRS, .RAS, .SEC, .SECT, .SGC, .SWF,
    .cap, .coll, .free, .lanes, .out, .ras, .swf, .tenants]) :
    State.KeepsFst k (State.writeDigCfg s p l tap v) := by
  unfold State.writeDigCfg
  repeat' first
    | with_reducible exact hk
    | with_reducible assumption
    | with_reducible exact hm.regs (by decide)
    | with_reducible exact hm.sub (by decide)
    | with_reducible exact hm.one (by decide)
    | with_reducible apply State.digStart_kept
    | with_reducible apply State.digAbort_kept
    | with_reducible apply State.applyWrite_kept
    | with_reducible apply State.guardWrite_kept
    | with_reducible refine Keeps.fst (by with_reducible assumption) ?_
    | with_reducible refine Keeps.snd (by with_reducible assumption) ?_
    | (intro _)
    | (dsimp only)
    | (simp -zeta only [id_eq])
    | with_reducible apply Keeps.of_fst
    | with_reducible apply Keeps.of_snd
    | with_reducible apply Keeps.foldl
    | with_reducible apply Keeps.foldl_fst
    | (split)
    | with_reducible apply Keeps.pair
    | with_reducible apply Keeps.pair'
    | with_reducible refine Keeps.upd_any hm ?_

theorem State.digStore_kept {k : Kept} (s : State) (l tap : Nat) (v : Int) (t : Nat) (hk : State.Keeps k s) (hm
    : k.Allows [.CAP, .HIF, .LANE, .RAS, .SEC, .SWF, .cap, .coll, .free, .lanes, .out, .ras, .swf, .tenants]) :
    State.Keeps k (State.digStore s l tap v t) := by
  unfold State.digStore
  with_reducible repeat' first
    | exact hk | assumption | exact hm.regs (by decide) | exact hm.sub (by decide) | exact hm.one (by decide) |
      apply State.setLane_kept | apply State.waveStrip_kept | apply State.put_kept | apply State.when_kept |
      (refine Keeps.fst (by assumption) ?_) | (refine Keeps.snd (by assumption) ?_) | (intro _) | extract_lets |
      (dsimp -zeta only) | apply Keeps.of_fst | apply Keeps.of_snd | split | apply Keeps.pair |
      apply Keeps.pair'

theorem State.digHeader_kept {k : Kept} (s : State) (l tap t : Nat) (hk : State.Keeps k s) (hm : k.Allows [.CAP,
    .HIF, .RAS, .SEC, .SWF, .cap, .coll, .free, .lanes, .out, .ras, .swf, .tenants]) :
    State.Keeps k (State.digHeader s l tap t) := by
  unfold State.digHeader
  repeat' first
    | with_reducible exact hk
    | with_reducible assumption
    | with_reducible exact hm.regs (by decide)
    | with_reducible exact hm.sub (by decide)
    | with_reducible apply State.closeLeaf_kept
    | with_reducible apply State.ensureLeaf_kept
    | with_reducible apply State.place_kept
    | with_reducible apply State.setLane_kept
    | with_reducible refine Keeps.fst (by with_reducible assumption) ?_
    | with_reducible refine Keeps.snd (by with_reducible assumption) ?_
    | (intro _)
    | (dsimp only)
    | (simp -zeta only [id_eq])
    | with_reducible apply Keeps.of_fst
    | with_reducible apply Keeps.of_snd
    | with_reducible apply Keeps.foldl
    | with_reducible apply Keeps.foldl_fst
    | (split)
    | with_reducible apply Keeps.pair
    | with_reducible apply Keeps.pair'
    | with_reducible refine Keeps.upd_any hm ?_

theorem State.probeStart_kept {k : Kept} (s : State) (l : Nat) (d : Option Desc) (hk : State.Keeps k s) (hm :
    k.Allows [.LANE, .lanes]) :
    State.KeepsFst k (State.probeStart s l d) := by
  unfold State.probeStart
  repeat' first
    | with_reducible exact hk
    | with_reducible assumption
    | with_reducible exact hm.regs (by decide)
    | with_reducible exact hm.sub (by decide)
    | with_reducible exact hm.one (by decide)
    | with_reducible apply State.setLane_kept
    | with_reducible apply State.put_kept
    | with_reducible apply State.ev_kept
    | with_reducible apply State.clr_kept
    | with_reducible refine Keeps.fst (by with_reducible assumption) ?_
    | with_reducible refine Keeps.snd (by with_reducible assumption) ?_
    | (intro _)
    | (dsimp only)
    | (simp -zeta only [id_eq])
    | with_reducible apply Keeps.of_fst
    | with_reducible apply Keeps.of_snd
    | with_reducible apply Keeps.foldl
    | with_reducible apply Keeps.foldl_fst
    | (split)
    | with_reducible apply Keeps.pair
    | with_reducible apply Keeps.pair'
    | with_reducible refine Keeps.upd_any hm ?_

theorem State.probeEnd_kept {k : Kept} (s : State) (l result status : Nat) (hk : State.Keeps k s) (hm : k.Allows
    [.CAP, .CLK, .HIF, .LANE, .PRS, .RAS, .SEC, .SECT, .SWF, .cap, .coll, .free, .lanes, .out, .press, .ras, .swf,
    .tenants, .trig]) :
    State.Keeps k (State.probeEnd s l result status) := by
  unfold State.probeEnd
  repeat' first
    | with_reducible exact hk
    | with_reducible assumption
    | with_reducible exact hm.regs (by decide)
    | with_reducible exact hm.sub (by decide)
    | with_reducible exact hm.one (by decide)
    | with_reducible apply State.setLane_kept
    | with_reducible apply State.enterLane_kept
    | with_reducible apply State.put_kept
    | with_reducible apply State.clr_kept
    | with_reducible apply State.complete_kept
    | with_reducible refine Keeps.fst (by with_reducible assumption) ?_
    | with_reducible refine Keeps.snd (by with_reducible assumption) ?_
    | (intro _)
    | (dsimp only)
    | (simp -zeta only [id_eq])
    | with_reducible apply Keeps.of_fst
    | with_reducible apply Keeps.of_snd
    | with_reducible apply Keeps.foldl
    | with_reducible apply Keeps.foldl_fst
    | (split)
    | with_reducible apply Keeps.pair
    | with_reducible apply Keeps.pair'
    | with_reducible refine Keeps.upd_any hm ?_

theorem State.writeProbeCtrl_kept {k : Kept} (s : State) (p : Path) (l : Nat) (v : Word) (hk : State.Keeps k s)
    (hm : k.Allows [.BOOT, .CAP, .CLK, .FAB, .FRM, .GIO, .GLB, .HIF, .LANE, .OBS, .PRS, .RAS, .SEC, .SECT, .SGC,
    .SWF, .cap, .coll, .free, .lanes, .out, .press, .ras, .swf, .tenants, .trig]) :
    State.KeepsFst k (State.writeProbeCtrl s p l v) := by
  unfold State.writeProbeCtrl
  with_reducible repeat' first
    | exact hk | assumption | exact hm.regs (by decide) | exact hm.sub (by decide) | exact hm.one (by decide) |
      apply State.probeStart_kept | apply State.probeEnd_kept | apply State.applyWrite_kept |
      apply State.guardWrite_kept | (intro _) | extract_lets | (dsimp -zeta only) | apply Keeps.of_fst |
      apply Keeps.of_snd | split | apply Keeps.pair | apply Keeps.pair'

theorem State.writeProbeData_kept {k : Kept} (s : State) (p : Path) (l n : Nat) (v : Word) (hk : State.Keeps k
    s) (hm : k.Allows [.BOOT, .CAP, .FAB, .FRM, .GIO, .GLB, .LANE, .OBS, .PRS, .SECT, .SGC, .SWF]) :
    State.KeepsFst k (State.writeProbeData s p l n v) := by
  unfold State.writeProbeData
  with_reducible repeat' first
    | exact hk | assumption | exact hm.regs (by decide) | exact hm.sub (by decide) | exact hm.one (by decide) |
      apply State.lostWrite_kept | apply State.applyWrite_kept | apply State.guardWrite_kept | (intro _) |
      (dsimp -zeta only) | apply Keeps.of_fst | apply Keeps.of_snd | split | apply Keeps.pair |
      apply Keeps.pair'

theorem State.laneReset_kept {k : Kept} (s : State) (l : Nat) (hk : State.Keeps k s) (hm : k.Allows [.CAP, .CLK,
    .HIF, .LANE, .PRS, .RAS, .SEC, .SECT, .SWF, .cap, .coll, .free, .lanes, .out, .press, .ras, .swf, .tenants,
    .trig]) :
    State.Keeps k (State.laneReset s l) := by
  unfold State.laneReset
  with_reducible repeat' first
    | exact hk | assumption | exact hm.regs (by decide) | exact hm.sub (by decide) | exact hm.one (by decide) |
      apply State.eachReg_kept | apply State.eachFld_kept | exact hm.regsList (by decide) |
      exact hm.fieldsList (by decide) | apply State.setLane_kept | apply State.disableLane_kept |
      apply State.probeEnd_kept | apply State.setWord_kept | apply State.each_kept | apply State.pressReset_kept |
      (intro _) | extract_lets | (dsimp -zeta only) | apply Keeps.of_fst | apply Keeps.of_snd | apply Keeps.pair |
      apply Keeps.pair'

end Sys2Proof.Machine
end

