-- ==== Sys2Proof/Laws/KeepsStreams.lean ====
section
/-! SUPPORT. Laws/KeepsStreams.lean: the operations of Machine/Streams.lean keep what Laws/Keeps.lean says. -/
set_option Elab.async false  -- one proof at a time: the package as one text then needs less memory
namespace Sys2Proof.Machine

theorem State.startRegs_kept {k : Kept} (s : State) (n t : Nat) (a : StartArgs) (hk : State.Keeps k s) (hm :
    k.Allows [.CAP]) :
    State.Keeps k (State.startRegs s n t a) := by
  unfold State.startRegs
  with_reducible repeat' first
    | exact hk | assumption | exact hm.regs (by decide) | exact hm.sub (by decide) | exact hm.one (by decide) |
      apply State.eachReg_kept | apply State.eachFld_kept | exact hm.regsList (by decide) |
      exact hm.fieldsList (by decide) | apply State.setWord_kept | apply State.put_kept |
      apply State.setPair_kept | apply State.each_kept | (intro _) | extract_lets | (dsimp -zeta only) |
      apply Keeps.of_fst | apply Keeps.of_snd | split | apply Keeps.pair | apply Keeps.pair'

theorem State.formBundle_kept {k : Kept} (s : State) (n sect : Nat) (ls : List Nat) (hk : State.Keeps k s) (hm :
    k.Allows [.SECT, .sectors]) :
    State.Keeps k (State.formBundle s n sect ls) := by
  unfold State.formBundle
  with_reducible repeat' first
    | exact hk | assumption | exact hm.regs (by decide) | exact hm.sub (by decide) | exact hm.one (by decide) |
      apply State.setWord_kept | apply State.put_kept | apply State.each_kept | (intro _) | extract_lets |
      (dsimp -zeta only) | apply Keeps.of_fst | apply Keeps.of_snd | apply Keeps.foldl | apply Keeps.foldl_fst |
      split | apply Keeps.pair | apply Keeps.pair' | apply Keeps.upd_sectors

theorem State.dropBundle_kept {k : Kept} (s : State) (n : Nat) (hk : State.Keeps k s) (hm : k.Allows [.SECT]) :
    State.Keeps k (State.dropBundle s n) := by
  unfold State.dropBundle
  with_reducible repeat' first
    | exact hk | assumption | exact hm.regs (by decide) | exact hm.sub (by decide) | exact hm.one (by decide) |
      apply State.setWord_kept | apply State.put_kept | apply State.each_kept |
      (refine Keeps.fst (by assumption) ?_) | (refine Keeps.snd (by assumption) ?_) | (intro _) | extract_lets |
      (dsimp -zeta only) | apply Keeps.of_fst | apply Keeps.of_snd | split | apply Keeps.pair |
      apply Keeps.pair'

theorem State.startQuires_kept {k : Kept} (s : State) (n : Nat) (count : Nat) (hk : State.Keeps k s) (hm :
    k.Allows [.CAP, .RAS, .SEC, .cap, .free, .ras]) :
    State.Keeps k (State.startQuires s n count) := by
  unfold State.startQuires
  with_reducible repeat' first
    | exact hk | assumption | exact hm.regs (by decide) | exact hm.sub (by decide) | exact hm.one (by decide) |
      apply State.setStrm_kept | apply State.setStrmState_kept | apply State.allocQuire_kept |
      apply State.linkQuire_kept | apply State.root_kept | apply State.each_kept |
      (refine Keeps.fst (by assumption) ?_) | (refine Keeps.snd (by assumption) ?_) | (intro _) | extract_lets |
      (dsimp -zeta only) | apply Keeps.of_fst | apply Keeps.of_snd | split | apply Keeps.pair |
      apply Keeps.pair' | apply Keeps.upd_cap

theorem State.startStream_kept {k : Kept} (s : State) (d : Desc) (a : StartArgs) (hk : State.Keeps k s) (hm :
    k.Allows [.CAP, .HIF, .RAS, .SEC, .SECT, .SWF, .cap, .coll, .free, .out, .ras, .sectors, .swf, .tenants, .trig])
    :
    State.Keeps k (State.startStream s d a) := by
  unfold State.startStream
  repeat' first
    | with_reducible exact hk
    | with_reducible assumption
    | with_reducible exact hm.regs (by decide)
    | with_reducible exact hm.sub (by decide)
    | with_reducible apply State.setStrm_kept
    | with_reducible apply State.setStrmState_kept
    | with_reducible apply State.setDq_kept
    | with_reducible apply State.addCause_kept
    | with_reducible apply State.eventStrip_kept
    | with_reducible apply State.each_kept
    | with_reducible apply State.ok_kept
    | with_reducible apply State.refuse_kept
    | with_reducible apply State.startRegs_kept
    | with_reducible apply State.formBundle_kept
    | with_reducible apply State.startQuires_kept
    | with_reducible refine Keeps.fst (by with_reducible assumption) ?_
    | with_reducible refine Keeps.snd (by with_reducible assumption) ?_
    | (intro _)
    | (dsimp only)
    | (simp -zeta only [id_eq])
    | with_reducible apply Keeps.of_fst
    | with_reducible apply Keeps.of_snd
    | with_reducible apply Keeps.foldl
    | with_reducible apply Keeps.foldl_fst
    | (split)
    | with_reducible apply Keeps.pair
    | with_reducible apply Keeps.pair'
    | with_reducible refine Keeps.upd_any hm ?_

theorem State.finishMembers_kept {k : Kept} (s : State) (n t : Nat) (hk : State.Keeps k s) (hm : k.Allows [.CAP,
    .HIF, .RAS, .SEC, .SECT, .SWF, .cap, .coll, .free, .out, .ras, .swf, .tenants, .trig]) :
    State.Keeps k (State.finishMembers s n t) := by
  unfold State.finishMembers
  with_reducible repeat' first
    | exact hk | assumption | exact hm.regs (by decide) | exact hm.sub (by decide) | apply State.setStrm_kept |
      apply State.resumeStore_kept | apply State.flushWait_kept | apply State.flushNotes_kept |
      apply State.endStretch_kept | apply State.closeGap_kept | apply State.commitDelay_kept |
      apply State.staging_kept | apply State.eventStrip_kept | apply State.each_kept | (intro _) | extract_lets |
      (dsimp -zeta only) | apply Keeps.of_fst | apply Keeps.of_snd | split | apply Keeps.pair |
      apply Keeps.pair'

theorem State.finishQuire_kept {k : Kept} (s : State) (n t : Nat) (hk : State.Keeps k s) (hm : k.Allows [.CAP,
    .RAS, .SEC, .SWF, .cap, .coll, .free, .ras, .swf]) :
    State.Keeps k (State.finishQuire s n t) := by
  unfold State.finishQuire
  repeat' first
    | with_reducible exact hk
    | with_reducible assumption
    | with_reducible exact hm.regs (by decide)
    | with_reducible exact hm.sub (by decide)
    | with_reducible apply State.setStrm_kept
    | with_reducible apply State.setQuire_kept
    | with_reducible apply State.root_kept
    | with_reducible apply State.closeLeaf_kept
    | with_reducible apply State.dropQuire_kept
    | with_reducible refine Keeps.fst (by with_reducible assumption) ?_
    | with_reducible refine Keeps.snd (by with_reducible assumption) ?_
    | (intro _)
    | (dsimp only)
    | (simp -zeta only [id_eq])
    | with_reducible apply Keeps.of_fst
    | with_reducible apply Keeps.of_snd
    | with_reducible apply Keeps.foldl
    | with_reducible apply Keeps.foldl_fst
    | (split)
    | with_reducible apply Keeps.pair
    | with_reducible apply Keeps.pair'
    | with_reducible refine Keeps.upd_any hm ?_

theorem State.freeUnused_kept {k : Kept} (s : State) (n : Nat) (hk : State.Keeps k s) (hm : k.Allows [.CAP,
    .SEC, .cap]) :
    State.Keeps k (State.freeUnused s n) := by
  unfold State.freeUnused
  with_reducible repeat' first
    | exact hk | assumption | exact hm.regs (by decide) | exact hm.sub (by decide) | apply State.setStrm_kept |
      apply State.dropQuire_kept | apply State.each_kept | (intro _) | extract_lets | (dsimp -zeta only) |
      apply Keeps.of_fst | apply Keeps.of_snd | apply Keeps.pair | apply Keeps.pair'

theorem State.closeStream_kept {k : Kept} (s : State) (n : Nat) (hk : State.Keeps k s) (hm : k.Allows [.CAP,
    .HIF, .RAS, .SEC, .SECT, .SWF, .cap, .coll, .free, .out, .ras, .swf, .tenants, .trig]) :
    State.Keeps k (State.closeStream s n) := by
  unfold State.closeStream
  repeat' first
    | with_reducible exact hk
    | with_reducible assumption
    | with_reducible exact hm.regs (by decide)
    | with_reducible exact hm.sub (by decide)
    | with_reducible exact hm.one (by decide)
    | with_reducible apply State.setStrm_kept
    | with_reducible apply State.setStrmState_kept
    | with_reducible apply State.setDq_kept
    | with_reducible apply State.put_kept
    | with_reducible apply State.each_kept
    | with_reducible apply State.ok_kept
    | with_reducible apply State.dropBundle_kept
    | with_reducible apply State.finishMembers_kept
    | with_reducible apply State.finishQuire_kept
    | with_reducible apply State.freeUnused_kept
    | with_reducible refine Keeps.fst (by with_reducible assumption) ?_
    | with_reducible refine Keeps.snd (by with_reducible assumption) ?_
    | (intro _)
    | (dsimp only)
    | (simp -zeta only [id_eq])
    | with_reducible apply Keeps.of_fst
    | with_reducible apply Keeps.of_snd
    | with_reducible apply Keeps.foldl
    | with_reducible apply Keeps.foldl_fst
    | (split)
    | with_reducible apply Keeps.pair
    | with_reducible apply Keeps.pair'
    | with_reducible refine Keeps.upd_any hm ?_

theorem State.retire_kept {k : Kept} (s : State) (n : Nat) (hk : State.Keeps k s) (hm : k.Allows [.CAP, .cap]) :
    State.Keeps k (State.retire s n) := by
  unfold State.retire
  with_reducible repeat' first
    | exact hk | assumption | exact hm.regs (by decide) | exact hm.sub (by decide) | exact hm.one (by decide) |
      apply State.setStrm_kept | apply State.setWord_kept | extract_lets | split

theorem State.releaseCapture_kept {k : Kept} (s : State) (n : Nat) (hk : State.Keeps k s) (hm : k.Allows [.CAP,
    .cap]) :
    State.KeepsFst k (State.releaseCapture s n) := by
  unfold State.releaseCapture
  with_reducible repeat' first
    | exact hk | assumption | exact hm.regs (by decide) | exact hm.sub (by decide) | apply State.setStrm_kept |
      apply State.root_kept | apply State.releaseQuire_kept | apply State.each_kept | apply State.retire_kept |
      (intro _) | extract_lets | (dsimp -zeta only) | apply Keeps.of_fst | apply Keeps.of_snd | apply Keeps.pair |
      apply Keeps.pair'

theorem State.quireFreed_kept {k : Kept} (s : State) (q : Nat) (hk : State.Keeps k s) (hm : k.Allows [.CAP,
    .SEC, .cap]) :
    State.Keeps k (State.quireFreed s q) := by
  unfold State.quireFreed
  with_reducible repeat' first
    | exact hk | assumption | exact hm.regs (by decide) | exact hm.sub (by decide) | apply State.dropQuire_kept |
      apply State.retire_kept | extract_lets | split

end Sys2Proof.Machine
end

