-- ==== Sys2Proof/Laws/KeepsTriggers.lean ====
section
/-! SUPPORT. Laws/KeepsTriggers.lean: the operations of Machine/Triggers.lean keep what Laws/Keeps.lean says. -/
set_option Elab.async false  -- one proof at a time: the package as one text then needs less memory
namespace Sys2Proof.Machine

theorem State.arm_kept {k : Kept} (s : State) (i q : Nat) (hk : State.Keeps k s) (hm : k.Allows [.SECT]) :
    State.KeepsFst k (State.arm s i q) := by
  unfold State.arm
  with_reducible repeat' first
    | exact hk | assumption | exact hm.regs (by decide) | exact hm.sub (by decide) | exact hm.one (by decide) |
      apply State.put_kept | apply State.ev_kept | extract_lets | (dsimp -zeta only) | apply Keeps.of_fst |
      apply Keeps.of_snd | split | apply Keeps.pair | apply Keeps.pair'

theorem State.writeSeqCtrl_kept {k : Kept} (s : State) (p : Path) (i q : Nat) (v : Word) (hk : State.Keeps k s)
    (hm : k.Allows [.BOOT, .CAP, .FAB, .FRM, .GIO, .GLB, .LANE, .OBS, .PRS, .SECT, .SGC, .SWF, .trig]) :
    State.KeepsFst k (State.writeSeqCtrl s p i q v) := by
  unfold State.writeSeqCtrl
  with_reducible repeat' first
    | exact hk | assumption | exact hm.regs (by decide) | exact hm.sub (by decide) | exact hm.one (by decide) |
      apply State.trigEvent_kept | apply State.put_kept | apply State.ev_kept | apply State.when_kept |
      apply State.guardWrite_kept | apply State.arm_kept | (refine Keeps.fst (by assumption) ?_) |
      (refine Keeps.snd (by assumption) ?_) | (intro _) | extract_lets | (dsimp -zeta only) | apply Keeps.of_fst |
      apply Keeps.of_snd | split | apply Keeps.pair | apply Keeps.pair'

theorem State.writeMatch_kept {k : Kept} (s : State) (p : Path) (which i m k_ : Nat) (v : Word) (hk :
    State.Keeps k s) (hm : k.Allows [.BOOT, .CAP, .FAB, .FRM, .GIO, .GLB, .LANE, .OBS, .PRS, .SECT, .SGC, .SWF]) :
    State.KeepsFst k (State.writeMatch s p which i m k_ v) := by
  unfold State.writeMatch
  with_reducible repeat' first
    | exact hk | assumption | exact hm.regs (by decide) | exact hm.sub (by decide) | exact hm.one (by decide) |
      apply State.ev_kept | apply refuseWrite_kept | apply State.applyWrite_kept | apply State.guardWrite_kept |
      (intro _) | extract_lets | (dsimp -zeta only) | apply Keeps.of_fst | apply Keeps.of_snd | split |
      apply Keeps.pair | apply Keeps.pair'

theorem State.writeCnt_kept {k : Kept} (s : State) (p : Path) (compare : Bool) (i c : Nat) (v : Word) (hk :
    State.Keeps k s) (hm : k.Allows [.BOOT, .CAP, .FAB, .FRM, .GIO, .GLB, .LANE, .OBS, .PRS, .SECT, .SGC, .SWF]) :
    State.KeepsFst k (State.writeCnt s p compare i c v) := by
  unfold State.writeCnt
  with_reducible repeat' first
    | exact hk | assumption | exact hm.regs (by decide) | exact hm.sub (by decide) | exact hm.one (by decide) |
      apply State.ev_kept | apply refuseWrite_kept | apply State.applyWrite_kept | apply State.guardWrite_kept |
      (intro _) | extract_lets | (dsimp -zeta only) | apply Keeps.of_fst | apply Keeps.of_snd | split |
      apply Keeps.pair | apply Keeps.pair'

theorem State.writeArc_kept {k : Kept} (s : State) (p : Path) (which i q k_ : Nat) (v : Word) (hk : State.Keeps
    k s) (hm : k.Allows [.BOOT, .CAP, .FAB, .FRM, .GIO, .GLB, .LANE, .OBS, .PRS, .SECT, .SGC, .SWF]) :
    State.KeepsFst k (State.writeArc s p which i q k_ v) := by
  unfold State.writeArc
  with_reducible repeat' first
    | exact hk | assumption | exact hm.regs (by decide) | exact hm.sub (by decide) | exact hm.one (by decide) |
      apply State.ev_kept | apply refuseWrite_kept | apply State.applyWrite_kept | apply State.guardWrite_kept |
      (refine Keeps.fst (by assumption) ?_) | (refine Keeps.snd (by assumption) ?_) | (intro _) | extract_lets |
      (dsimp -zeta only) | apply Keeps.of_fst | apply Keeps.of_snd | split | apply Keeps.pair |
      apply Keeps.pair'

theorem State.ribbon_kept {k : Kept} (s : State) (n : Nat) (it : Item) (hk : State.Keeps k s) (hm : k.Allows
    [.CAP, .HIF, .RAS, .SEC, .SWF, .cap, .coll, .free, .out, .ras, .swf, .tenants]) :
    State.Keeps k (State.ribbon s n it) := by
  unfold State.ribbon
  with_reducible repeat' first
    | exact hk | assumption | exact hm.regs (by decide) | exact hm.sub (by decide) | apply State.note_kept |
      split

theorem State.lineAt_kept {k : Kept} (s : State) (line t : Nat) (hk : State.Keeps k s) (hm : k.Allows [.GIO,
    .trig]) :
    State.Keeps k (State.lineAt s line t) := by
  unfold State.lineAt
  with_reducible repeat' first
    | exact hk | assumption | exact hm.regs (by decide) | exact hm.sub (by decide) | exact hm.one (by decide) |
      apply State.cnt_kept | (intro _) | extract_lets | (dsimp -zeta only) | apply Keeps.of_fst |
      apply Keeps.of_snd | split | apply Keeps.pair | apply Keeps.pair' | apply Keeps.upd_trig

theorem State.lineDrive_kept {k : Kept} (s : State) (line e : Nat) (hk : State.Keeps k s) (hm : k.Allows [.GIO,
    .bry, .out, .trig]) :
    State.Keeps k (State.lineDrive s line e) := by
  unfold State.lineDrive
  with_reducible repeat' first
    | exact hk | assumption | exact hm.regs (by decide) | exact hm.sub (by decide) | apply State.sendRing_kept |
      apply State.lineAt_kept | split

theorem State.writeTline_kept {k : Kept} (s : State) (p : Path) (n : Nat) (v : Word) (hk : State.Keeps k s) (hm
    : k.Allows [.BOOT, .CAP, .FAB, .FRM, .GIO, .GLB, .LANE, .OBS, .PRS, .SECT, .SGC, .SWF, .bry, .out, .trig]) :
    State.KeepsFst k (State.writeTline s p n v) := by
  unfold State.writeTline
  with_reducible repeat' first
    | exact hk | assumption | exact hm.regs (by decide) | exact hm.sub (by decide) | exact hm.one (by decide) |
      apply State.when_kept | apply State.guardWrite_kept | apply State.lineDrive_kept | (intro _) |
      (dsimp -zeta only) | apply Keeps.of_fst | apply Keeps.of_snd | apply Keeps.pair | apply Keeps.pair'

theorem State.windowTrigger_kept {k : Kept} (s : State) (n t : Nat) (hk : State.Keeps k s) (hm : k.Allows [.CAP,
    .RAS, .SEC, .cap, .free, .ras]) :
    State.Keeps k (State.windowTrigger s n t) := by
  unfold State.windowTrigger
  with_reducible repeat' first
    | exact hk | assumption | exact hm.regs (by decide) | exact hm.sub (by decide) | exact hm.one (by decide) |
      apply State.setStrm_kept | apply State.askQuire_kept | apply State.drainCount_kept | apply State.ev_kept |
      apply State.setPair_kept | (intro _) | extract_lets | (dsimp -zeta only) | apply Keeps.of_fst |
      apply Keeps.of_snd | split | apply Keeps.pair | apply Keeps.pair' | apply Keeps.upd_cap

theorem State.gateOpen_kept {k : Kept} (s : State) (n t pre : Nat) (hk : State.Keeps k s) (hm : k.Allows [.cap])
    :
    State.Keeps k (State.gateOpen s n t pre) := by
  unfold State.gateOpen
  with_reducible repeat' first
    | exact hk | assumption | exact hm.regs (by decide) | exact hm.sub (by decide) | apply State.setStrm_kept |
      (refine Keeps.fst (by assumption) ?_) | (refine Keeps.snd (by assumption) ?_) | (intro _) | extract_lets |
      (dsimp -zeta only) | apply Keeps.of_fst | apply Keeps.of_snd | split | apply Keeps.pair |
      apply Keeps.pair'

theorem State.gateClose_kept {k : Kept} (s : State) (n t post : Nat) (hk : State.Keeps k s) (hm : k.Allows
    [.cap]) :
    State.Keeps k (State.gateClose s n t post) := by
  unfold State.gateClose
  with_reducible repeat' first
    | exact hk | assumption | exact hm.regs (by decide) | exact hm.sub (by decide) | apply State.setStrm_kept |
      (refine Keeps.fst (by assumption) ?_) | (refine Keeps.snd (by assumption) ?_) | extract_lets |
      (dsimp -zeta only) | apply Keeps.of_fst | apply Keeps.of_snd | split | apply Keeps.pair |
      apply Keeps.pair'

theorem State.counterSlot_kept {k : Kept} (s : State) (evs : List TrigEvent) (slot i c : Nat) (hk : State.Keeps
    k s) (hm : k.Allows [.SECT, .trig]) :
    State.KeepsFst k (State.counterSlot s evs slot i c) := by
  unfold State.counterSlot
  with_reducible repeat' first
    | exact hk | assumption | exact hm.regs (by decide) | exact hm.sub (by decide) | exact hm.one (by decide) |
      apply State.trigEvent_kept | apply State.put_kept | apply State.each_kept |
      (refine Keeps.fst (by assumption) ?_) | (refine Keeps.snd (by assumption) ?_) | (intro _) | extract_lets |
      (dsimp -zeta only) | apply Keeps.of_fst | apply Keeps.of_snd | split | apply Keeps.pair |
      apply Keeps.pair' | apply Keeps.upd_trig

theorem State.ribbonAction_kept {k : Kept} (s : State) (i q k_ from' to' t c word : Nat) (hk : State.Keeps k s)
    (hm : k.Allows [.CAP, .HIF, .RAS, .SEC, .SECT, .SWF, .cap, .coll, .free, .out, .ras, .swf, .tenants, .trig]) :
    State.Keeps k (State.ribbonAction s i q k_ from' to' t c word) := by
  unfold State.ribbonAction
  with_reducible repeat' first
    | exact hk | assumption | exact hm.regs (by decide) | exact hm.sub (by decide) | exact hm.one (by decide) |
      apply State.ev_kept | apply State.cnt_kept | apply State.each_kept | apply State.ribbon_kept | (intro _) |
      extract_lets | (dsimp -zeta only) | apply Keeps.of_fst | apply Keeps.of_snd | split | apply Keeps.pair |
      apply Keeps.pair' | apply Keeps.upd_trig

theorem State.enterFinal_kept {k : Kept} (s : State) (i q st t : Nat) (hk : State.Keeps k s) (hm : k.Allows
    [.CAP, .RAS, .SEC, .SECT, .cap, .free, .ras, .trig]) :
    State.Keeps k (State.enterFinal s i q st t) := by
  unfold State.enterFinal
  with_reducible repeat' first
    | exact hk | assumption | exact hm.regs (by decide) | exact hm.sub (by decide) | exact hm.one (by decide) |
      apply State.trigEvent_kept | apply State.cntWrap_kept | apply State.each_kept |
      apply State.windowTrigger_kept | (intro _) | extract_lets | (dsimp -zeta only) | apply Keeps.of_fst |
      apply Keeps.of_snd | apply Keeps.pair | apply Keeps.pair' | apply Keeps.upd_cap

theorem State.takeArc_kept {k : Kept} (s : State) (evs : List TrigEvent) (i q k_ t c : Nat) (hk : State.Keeps k
    s) (hm : k.Allows [.CAP, .GIO, .HIF, .RAS, .SEC, .SECT, .SWF, .bry, .cap, .coll, .free, .out, .press, .ras,
    .swf, .tenants, .trig]) :
    State.Keeps k (State.takeArc s evs i q k_ t c) := by
  unfold State.takeArc
  with_reducible repeat' first
    | exact hk | assumption | exact hm.regs (by decide) | exact hm.sub (by decide) | exact hm.one (by decide) |
      apply State.put_kept | apply State.when_kept | apply State.setPrs_kept | apply State.lineDrive_kept |
      apply State.ribbonAction_kept | apply State.enterFinal_kept | (refine Keeps.fst (by assumption) ?_) |
      (refine Keeps.snd (by assumption) ?_) | (intro _) | extract_lets | (dsimp -zeta only) | apply Keeps.of_fst |
      apply Keeps.of_snd | split | apply Keeps.pair | apply Keeps.pair' | apply Keeps.upd_trig

end Sys2Proof.Machine
end

