-- ==== Sys2Proof/Laws/KeepsSewing.lean ====
section
/-! SUPPORT. Laws/KeepsSewing.lean: the operations of Machine/Sewing.lean keep what Laws/Keeps.lean says. -/
set_option Elab.async false  -- one proof at a time: the package as one text then needs less memory
namespace Sys2Proof.Machine

theorem State.takePool_kept {k : Kept} (s : State) (n : Nat) (hk : State.Keeps k s) (hm : k.Allows [.CAP, .cap,
    .free]) :
    State.Keeps k (State.takePool s n) := by
  unfold State.takePool
  with_reducible repeat' first
    | exact hk | assumption | exact hm.regs (by decide) | exact hm.sub (by decide) | exact hm.one (by decide) |
      apply State.freeSlot_kept | apply State.put_kept | apply State.each_kept |
      (refine Keeps.fst (by assumption) ?_) | (refine Keeps.snd (by assumption) ?_) | (intro _) | extract_lets |
      (dsimp -zeta only) | apply Keeps.of_fst | apply Keeps.of_snd | split | apply Keeps.pair |
      apply Keeps.pair' | apply Keeps.upd_cap

theorem State.returnPool_kept {k : Kept} (s : State) (n : Nat) (hk : State.Keeps k s) (hm : k.Allows [.CAP,
    .cap]) :
    State.Keeps k (State.returnPool s n) := by
  unfold State.returnPool
  with_reducible repeat' first
    | exact hk | assumption | exact hm.regs (by decide) | exact hm.sub (by decide) | apply State.freeFront_kept |
      apply State.each_kept | (intro _) | extract_lets | (dsimp -zeta only) | apply Keeps.of_fst |
      apply Keeps.of_snd | apply Keeps.pair | apply Keeps.pair'

theorem State.writePoolCfg_kept {k : Kept} (s : State) (p : Path) (v : Word) (hk : State.Keeps k s) (hm :
    k.Allows [.BOOT, .CAP, .FAB, .FRM, .GIO, .GLB, .LANE, .OBS, .PRS, .SECT, .SGC, .SWF, .cap, .free]) :
    State.KeepsFst k (State.writePoolCfg s p v) := by
  unfold State.writePoolCfg
  repeat' first
    | with_reducible exact hk
    | with_reducible assumption
    | with_reducible exact hm.regs (by decide)
    | with_reducible exact hm.sub (by decide)
    | with_reducible exact hm.one (by decide)
    | with_reducible apply State.put_kept
    | with_reducible apply State.ev_kept
    | with_reducible apply refuseWrite_kept
    | with_reducible apply State.guardWrite_kept
    | with_reducible apply State.takePool_kept
    | with_reducible apply State.returnPool_kept
    | with_reducible refine Keeps.fst (by with_reducible assumption) ?_
    | with_reducible refine Keeps.snd (by with_reducible assumption) ?_
    | (intro _)
    | (dsimp only)
    | (simp -zeta only [id_eq])
    | with_reducible apply Keeps.of_fst
    | with_reducible apply Keeps.of_snd
    | with_reducible apply Keeps.foldl
    | with_reducible apply Keeps.foldl_fst
    | (split)
    | with_reducible apply Keeps.pair
    | with_reducible apply Keeps.pair'
    | with_reducible refine Keeps.upd_any hm ?_

theorem State.writeTenantSwf_kept {k : Kept} (s : State) (p : Path) (cache : Bool) (t : Nat) (v : Word) (hk :
    State.Keeps k s) (hm : k.Allows [.BOOT, .CAP, .FAB, .FRM, .GIO, .GLB, .LANE, .OBS, .PRS, .SECT, .SGC, .SWF]) :
    State.KeepsFst k (State.writeTenantSwf s p cache t v) := by
  unfold State.writeTenantSwf
  with_reducible repeat' first
    | exact hk | assumption | exact hm.regs (by decide) | exact hm.sub (by decide) | exact hm.one (by decide) |
      apply State.ev_kept | apply refuseWrite_kept | apply State.applyWrite_kept | apply State.guardWrite_kept |
      (intro _) | extract_lets | (dsimp -zeta only) | apply Keeps.of_fst | apply Keeps.of_snd | split |
      apply Keeps.pair | apply Keeps.pair'

theorem State.writeTraceCfg_kept {k : Kept} (s : State) (p : Path) (v : Word) (hk : State.Keeps k s) (hm :
    k.Allows [.BOOT, .CAP, .FAB, .FRM, .GIO, .GLB, .LANE, .OBS, .PRS, .SECT, .SGC, .SWF]) :
    State.KeepsFst k (State.writeTraceCfg s p v) := by
  unfold State.writeTraceCfg
  with_reducible repeat' first
    | exact hk | assumption | exact hm.regs (by decide) | exact hm.sub (by decide) | exact hm.one (by decide) |
      apply State.applyWrite_kept | apply State.guardWrite_kept | (intro _) | (dsimp -zeta only) |
      apply Keeps.of_fst | apply Keeps.of_snd | apply Keeps.pair | apply Keeps.pair'

theorem State.unlinkOp_kept {k : Kept} (s : State) (o : Nat) (hk : State.Keeps k s) (hm : k.Allows [.swf]) :
    State.Keeps k (State.unlinkOp s o) := by
  unfold State.unlinkOp
  with_reducible repeat' first
    | exact hk | assumption | exact hm.regs (by decide) | exact hm.sub (by decide) | apply State.setDq_kept |
      apply State.each_kept | (intro _) | extract_lets | (dsimp -zeta only) | apply Keeps.of_fst |
      apply Keeps.of_snd | split | apply Keeps.pair | apply Keeps.pair'

theorem State.opQuiesce_kept {k : Kept} (s : State) (o : Nat) (hk : State.Keeps k s) (hm : k.Allows [.swf]) :
    State.Keeps k (State.opQuiesce s o) := by
  unfold State.opQuiesce
  with_reducible repeat' first
    | exact hk | assumption | exact hm.regs (by decide) | exact hm.sub (by decide) | apply State.setOp_kept |
      apply State.pend_kept | (refine Keeps.fst (by assumption) ?_) | (refine Keeps.snd (by assumption) ?_) |
      extract_lets | (dsimp -zeta only) | apply Keeps.of_fst | apply Keeps.of_snd | split | apply Keeps.pair |
      apply Keeps.pair'

theorem State.countReady_kept {k : Kept} (s : State) (pool : Nat) (hk : State.Keeps k s) (hm : k.Allows [.SWF])
    :
    State.Keeps k (State.countReady s pool) := by
  unfold State.countReady
  with_reducible repeat' first
    | exact hk | assumption | exact hm.regs (by decide) | exact hm.sub (by decide) | exact hm.one (by decide) |
      apply State.put_kept | (intro _) | (dsimp -zeta only) | apply Keeps.of_fst | apply Keeps.of_snd |
      apply Keeps.pair | apply Keeps.pair'

theorem State.taskSlot_kept {k : Kept} (s : State) (hk : State.Keeps k s) (hm : k.Allows [.free]) :
    State.KeepsSnd k (State.taskSlot s) := by
  unfold State.taskSlot
  with_reducible repeat' first
    | exact hk | assumption | exact hm.regs (by decide) | exact hm.sub (by decide) | apply State.fresh_kept |
      (refine Keeps.fst (by assumption) ?_) | (refine Keeps.snd (by assumption) ?_) | (intro _) | extract_lets |
      (dsimp -zeta only) | apply Keeps.of_fst | apply Keeps.of_snd | split | apply Keeps.pair |
      apply Keeps.pair'

theorem State.inFlight_kept {k : Kept} (s : State) (t : Nat) (up : Bool) (hk : State.Keeps k s) (hm : k.Allows
    [.SWF]) :
    State.Keeps k (State.inFlight s t up) := by
  unfold State.inFlight
  with_reducible repeat' first
    | exact hk | assumption | exact hm.regs (by decide) | exact hm.sub (by decide) | exact hm.one (by decide) |
      apply State.put_kept | (intro _) | extract_lets | (dsimp -zeta only) | apply Keeps.of_fst |
      apply Keeps.of_snd | split | apply Keeps.pair | apply Keeps.pair'

theorem State.fire_kept {k : Kept} (s : State) (o : Nat) (hk : State.Keeps k s) (hm : k.Allows [.SWF, .free,
    .swf]) :
    State.Keeps k (State.fire s o) := by
  unfold State.fire
  with_reducible repeat' first
    | exact hk | assumption | exact hm.regs (by decide) | exact hm.sub (by decide) | exact hm.one (by decide) |
      apply State.setDq_kept | apply State.setOp_kept | apply State.setTask_kept | apply State.swfTrace_kept |
      apply State.dqTake_kept | apply State.addPair_kept | apply State.each_kept | apply State.countReady_kept |
      apply State.taskSlot_kept | apply State.inFlight_kept | (refine Keeps.fst (by assumption) ?_) |
      (refine Keeps.snd (by assumption) ?_) | (intro _) | extract_lets | (dsimp -zeta only) | apply Keeps.of_fst |
      apply Keeps.of_snd | split | apply Keeps.pair | apply Keeps.pair' | apply Keeps.upd_swf

theorem State.newRound_kept {k : Kept} (s : State) (e : Nat) (hk : State.Keeps k s) (hm : k.Allows [.swf]) :
    State.Keeps k (State.newRound s e) := by
  unfold State.newRound
  with_reducible repeat' first
    | exact hk | assumption | exact hm.regs (by decide) | exact hm.sub (by decide) | exact hm.one (by decide) |
      apply State.pend_kept | (intro _) | extract_lets | (dsimp -zeta only) | apply Keeps.of_fst |
      apply Keeps.of_snd | split | apply Keeps.pair | apply Keeps.pair' | apply Keeps.upd_swf

theorem State.freeTask_kept {k : Kept} (s : State) (slot : Nat) (hk : State.Keeps k s) (hm : k.Allows [.SWF,
    .swf]) :
    State.Keeps k (State.freeTask s slot) := by
  unfold State.freeTask
  with_reducible repeat' first
    | exact hk | assumption | exact hm.regs (by decide) | exact hm.sub (by decide) | apply State.setTask_kept |
      apply State.pend_kept | apply State.opQuiesce_kept | apply State.inFlight_kept | extract_lets

theorem State.releasePlaces_kept {k : Kept} (s : State) (k_ : Task) (hk : State.Keeps k s) (hm : k.Allows
    [.swf]) :
    State.Keeps k (State.releasePlaces s k_) := by
  unfold State.releasePlaces
  with_reducible repeat' first
    | exact hk | assumption | exact hm.regs (by decide) | exact hm.sub (by decide) | apply State.setDq_kept |
      apply State.dqFreed_kept | apply State.each_kept | (intro _) | extract_lets | (dsimp -zeta only) |
      apply Keeps.of_fst | apply Keeps.of_snd | apply Keeps.pair | apply Keeps.pair'

theorem State.endTask_kept {k : Kept} (s : State) (slot status : Nat) (hk : State.Keeps k s) (hm : k.Allows
    [.SWF, .swf]) :
    State.Keeps k (State.endTask s slot status) := by
  unfold State.endTask
  repeat' first
    | with_reducible exact hk
    | with_reducible assumption
    | with_reducible exact hm.regs (by decide)
    | with_reducible exact hm.sub (by decide)
    | with_reducible apply State.setOp_kept
    | with_reducible apply State.setTask_kept
    | with_reducible apply State.swfTrace_kept
    | with_reducible apply State.dqPost_kept
    | with_reducible apply State.err_kept
    | with_reducible apply State.freeTask_kept
    | with_reducible apply State.releasePlaces_kept
    | with_reducible refine Keeps.fst (by with_reducible assumption) ?_
    | with_reducible refine Keeps.snd (by with_reducible assumption) ?_
    | (intro _)
    | (dsimp only)
    | (simp -zeta only [id_eq])
    | with_reducible apply Keeps.of_fst
    | with_reducible apply Keeps.of_snd
    | with_reducible apply Keeps.foldl
    | with_reducible apply Keeps.foldl_fst
    | (split)
    | with_reducible apply Keeps.pair
    | with_reducible apply Keeps.pair'
    | with_reducible refine Keeps.upd_any hm ?_

theorem State.taskOutput_kept {k : Kept} (s : State) (slot o tok : Nat) (hk : State.Keeps k s) (hm : k.Allows
    [.SWF, .swf]) :
    State.Keeps k (State.taskOutput s slot o tok) := by
  unfold State.taskOutput
  with_reducible repeat' first
    | exact hk | assumption | exact hm.regs (by decide) | exact hm.sub (by decide) | exact hm.one (by decide) |
      apply State.setTask_kept | apply State.swfTrace_kept | apply State.ev_kept | apply State.cnt_kept |
      (intro _) | extract_lets | (dsimp -zeta only) | apply Keeps.of_fst | apply Keeps.of_snd | split |
      apply Keeps.pair | apply Keeps.pair'

theorem State.taskDone_kept {k : Kept} (s : State) (slot status : Nat) (hk : State.Keeps k s) (hm : k.Allows
    [.SWF, .swf]) :
    State.Keeps k (State.taskDone s slot status) := by
  unfold State.taskDone
  with_reducible repeat' first
    | exact hk | assumption | exact hm.regs (by decide) | exact hm.sub (by decide) | apply State.setTask_kept |
      apply State.swfTrace_kept | apply State.endTask_kept | extract_lets | split

theorem State.loseTasks_kept {k : Kept} (s : State) (source cause : Nat) (hk : State.Keeps k s) (hm : k.Allows
    [.swf]) :
    State.Keeps k (State.loseTasks s source cause) := by
  unfold State.loseTasks
  with_reducible repeat' first
    | exact hk | assumption | exact hm.regs (by decide) | exact hm.sub (by decide) | exact hm.one (by decide) |
      (intro _) | extract_lets | (dsimp -zeta only) | apply Keeps.of_fst | apply Keeps.of_snd | split |
      apply Keeps.pair | apply Keeps.pair' | apply Keeps.upd_swf

theorem State.handBack_kept {k : Kept} (s : State) (i : Nat) (hk : State.Keeps k s) (hm : k.Allows [.SWF, .swf])
    :
    State.Keeps k (State.handBack s i) := by
  unfold State.handBack
  with_reducible repeat' first
    | exact hk | assumption | exact hm.regs (by decide) | exact hm.sub (by decide) | exact hm.one (by decide) |
      apply State.setTask_kept | apply State.swfTrace_kept | apply State.ev_kept | apply State.cnt_kept |
      apply State.countReady_kept | (refine Keeps.fst (by assumption) ?_) |
      (refine Keeps.snd (by assumption) ?_) | (intro _) | extract_lets | (dsimp -zeta only) | apply Keeps.of_fst |
      apply Keeps.of_snd | apply Keeps.foldl | apply Keeps.foldl_fst | split | apply Keeps.pair |
      apply Keeps.pair'

end Sys2Proof.Machine
end

