-- ==== Sys2Proof/Laws/KeepsCorePipe.lean ====
section
/-! SUPPORT. Laws/KeepsCorePipe.lean: the operations of Machine/CorePipe.lean keep what Laws/Keeps.lean says. -/
set_option Elab.async false  -- one proof at a time: the package as one text then needs less memory
namespace Sys2Proof.Machine

theorem State.setCore_kept {k : Kept} (s : State) (c : Nat) (x : CoreSt) (hk : State.Keeps k s) (hm : k.Allows
    [.SGC, .cores]) :
    State.Keeps k (State.setCore s c x) := by
  unfold State.setCore
  with_reducible repeat' first
    | exact hk | assumption | exact hm.regs (by decide) | exact hm.sub (by decide) | exact hm.one (by decide) |
      apply State.put_kept | extract_lets | apply Keeps.upd_cores

theorem State.setCoreState_kept {k : Kept} (s : State) (c v : Nat) (hk : State.Keeps k s) (hm : k.Allows [.SGC])
    :
    State.Keeps k (State.setCoreState s c v) := by
  unfold State.setCoreState
  with_reducible repeat' first
    | exact hk | assumption | exact hm.regs (by decide) | exact hm.sub (by decide) | exact hm.one (by decide) |
      apply State.put_kept

theorem State.excInfo_kept {k : Kept} (s : State) (c cause slot rep epc : Nat) (hk : State.Keeps k s) (hm :
    k.Allows [.SGC]) :
    State.Keeps k (State.excInfo s c cause slot rep epc) := by
  unfold State.excInfo
  with_reducible repeat' first
    | exact hk | assumption | exact hm.regs (by decide) | exact hm.sub (by decide) | exact hm.one (by decide) |
      apply State.put_kept | extract_lets

theorem State.coreExc_kept {k : Kept} (s : State) (c cause : Nat) (hk : State.Keeps k s) (hm : k.Allows [.SGC,
    .SWF, .cores, .swf]) :
    State.Keeps k (State.coreExc s c cause) := by
  unfold State.coreExc
  with_reducible repeat' first
    | exact hk | assumption | exact hm.regs (by decide) | exact hm.sub (by decide) | exact hm.one (by decide) |
      apply State.setCore_kept | apply State.setCoreState_kept | apply State.excInfo_kept | apply State.put_kept |
      apply State.ev_kept | apply State.endTask_kept | (refine Keeps.fst (by assumption) ?_) |
      (refine Keeps.snd (by assumption) ?_) | extract_lets | (dsimp -zeta only) | apply Keeps.of_fst |
      apply Keeps.of_snd | split | apply Keeps.pair | apply Keeps.pair'

theorem State.compCount_kept {k : Kept} (s : State) (n : Nat) (hk : State.Keeps k s) (hm : k.Allows [.dbg]) :
    State.KeepsFst k (State.compCount s n) := by
  unfold State.compCount
  with_reducible repeat' first
    | exact hk | assumption | exact hm.regs (by decide) | exact hm.sub (by decide) | exact hm.one (by decide) |
      extract_lets | (dsimp -zeta only) | apply Keeps.of_fst | apply Keeps.of_snd | split | apply Keeps.pair |
      apply Keeps.pair' | apply Keeps.upd_dbg

theorem State.watch_kept {k : Kept} (s : State) (c pc : Nat) (acc : List (Nat × Bool × Nat)) (hk : State.Keeps k
    s) (hm : k.Allows [.DBG, .dbg]) :
    State.KeepsFst k (State.watch s c pc acc) := by
  unfold State.watch
  with_reducible repeat' first
    | exact hk | assumption | exact hm.regs (by decide) | exact hm.sub (by decide) | exact hm.one (by decide) |
      apply State.compCount_kept | apply State.put_kept | apply State.ev_kept |
      (refine Keeps.fst (by assumption) ?_) | (refine Keeps.snd (by assumption) ?_) | (intro _) | extract_lets |
      (dsimp -zeta only) | apply Keeps.of_fst | apply Keeps.of_snd | apply Keeps.foldl | apply Keeps.foldl_fst |
      split | apply Keeps.pair | apply Keeps.pair'

theorem State.markHalt_kept {k : Kept} (s : State) (kind ix by' : Nat) (hk : State.Keeps k s) (hm : k.Allows
    [.dbg]) :
    State.Keeps k (State.markHalt s kind ix by') := by
  unfold State.markHalt
  with_reducible repeat' first
    | exact hk | assumption | exact hm.regs (by decide) | exact hm.sub (by decide) | exact hm.one (by decide) |
      (intro _) | extract_lets | (dsimp -zeta only) | apply Keeps.of_fst | apply Keeps.of_snd | apply Keeps.pair |
      apply Keeps.pair' | apply Keeps.upd_dbg

theorem State.haltCore_kept {k : Kept} (s : State) (c by' : Nat) (hk : State.Keeps k s) (hm : k.Allows [.SGC,
    .cores, .dbg]) :
    State.Keeps k (State.haltCore s c by') := by
  unfold State.haltCore
  with_reducible repeat' first
    | exact hk | assumption | exact hm.regs (by decide) | exact hm.sub (by decide) | apply State.setCore_kept |
      apply State.setCoreState_kept | apply State.markHalt_kept | extract_lets

theorem State.issue_kept {k : Kept} (s : State) (c op : Nat) (fe : Bool) (err : Nat) (body : CoreSt → Nat →
    CoreRes) (post : State → State) (hk : State.Keeps k s) (hk_post : ∀ s, State.Keeps k s → State.Keeps k (post s))
    (hm : k.Allows [.DBG, .SGC, .SWF, .cores, .dbg, .free, .swf]) :
    State.Keeps k (State.issue s c op fe err body post) := by
  unfold State.issue
  with_reducible repeat' first
    | exact hk | assumption | exact hm.regs (by decide) | exact hm.sub (by decide) | exact hm.one (by decide) |
      apply State.setCore_kept | apply State.coreExc_kept | apply State.watch_kept | apply State.haltCore_kept |
      apply State.ev_kept | apply State.cnt_kept | apply State.when_kept | apply State.err_kept |
      apply State.fresh_kept | apply State.retire_kept | apply hk_post | (refine Keeps.fst (by assumption) ?_) |
      (refine Keeps.snd (by assumption) ?_) | (intro _) | extract_lets | (dsimp -zeta only) | apply Keeps.of_fst |
      apply Keeps.of_snd | split | apply Keeps.pair | apply Keeps.pair' | apply Keeps.upd_dbg

end Sys2Proof.Machine
end

