-- ==== Sys2Proof/Laws/KeepsCores.lean ====
section
/-! SUPPORT. Laws/KeepsCores.lean: the operations of Machine/Cores.lean keep what Laws/Keeps.lean says. -/
set_option Elab.async false  -- one proof at a time: the package as one text then needs less memory
namespace Sys2Proof.Machine

theorem State.raiseCore_kept {k : Kept} (s : State) (c b : Nat) (hk : State.Keeps k s) (hm : k.Allows [.SGC,
    .cores]) :
    State.Keeps k (State.raiseCore s c b) := by
  unfold State.raiseCore
  with_reducible repeat' first
    | exact hk | assumption | exact hm.regs (by decide) | exact hm.sub (by decide) | apply State.setCore_kept |
      extract_lets

theorem State.dropTask_kept {k : Kept} (s : State) (n cause : Nat) (hk : State.Keeps k s) (hm : k.Allows [.SGC,
    .cores, .swf]) :
    State.Keeps k (State.dropTask s n cause) := by
  unfold State.dropTask
  with_reducible repeat' first
    | exact hk | assumption | exact hm.regs (by decide) | exact hm.sub (by decide) | apply State.setCore_kept |
      apply State.loseTasks_kept | extract_lets

theorem State.stopCore_kept {k : Kept} (s : State) (n cause : Nat) (hk : State.Keeps k s) (hm : k.Allows [.SGC,
    .cores, .swf]) :
    State.Keeps k (State.stopCore s n cause) := by
  unfold State.stopCore
  with_reducible repeat' first
    | exact hk | assumption | exact hm.regs (by decide) | exact hm.sub (by decide) |
      apply State.setCoreState_kept | apply State.dropTask_kept

theorem State.deliverCore_kept {k : Kept} (s : State) (c slot : Nat) (hk : State.Keeps k s) (hm : k.Allows
    [.SGC, .cores]) :
    State.Keeps k (State.deliverCore s c slot) := by
  unfold State.deliverCore
  with_reducible repeat' first
    | exact hk | assumption | exact hm.regs (by decide) | exact hm.sub (by decide) | apply State.setCore_kept |
      apply State.setCoreState_kept | (intro _) | extract_lets | (dsimp -zeta only) | apply Keeps.of_fst |
      apply Keeps.of_snd | apply Keeps.foldl | apply Keeps.foldl_fst | split | apply Keeps.pair |
      apply Keeps.pair'

theorem State.failCore_kept {k : Kept} (s : State) (n cause : Nat) (hk : State.Keeps k s) (hm : k.Allows [.RAS,
    .SGC, .cores, .ras, .swf]) :
    State.Keeps k (State.failCore s n cause) := by
  unfold State.failCore
  with_reducible repeat' first
    | exact hk | assumption | exact hm.regs (by decide) | exact hm.sub (by decide) | exact hm.one (by decide) |
      apply State.setCore_kept | apply State.setCoreState_kept | apply State.dropTask_kept |
      apply State.put_kept | apply State.ev_kept | apply State.log_kept | apply State.fault_kept | (intro _) |
      extract_lets | (dsimp -zeta only) | apply Keeps.of_fst | apply Keeps.of_snd | split | apply Keeps.pair |
      apply Keeps.pair'

end Sys2Proof.Machine
end

