-- ==== Sys2Proof/Laws/KeepsReading.lean ====
section
/-! SUPPORT. Laws/KeepsReading.lean: the operations of Machine/Reading.lean keep what Laws/Keeps.lean says. -/
set_option Elab.async false  -- one proof at a time: the package as one text then needs less memory
namespace Sys2Proof.Machine

theorem State.blockRaw_kept {k : Kept} (s : State) (hk : State.Keeps k s) (hm : k.Allows [.SEC]) :
    State.Keeps k (State.blockRaw s) := by
  unfold State.blockRaw
  with_reducible repeat' first
    | exact hk | assumption | exact hm.regs (by decide) | exact hm.sub (by decide) | exact hm.one (by decide) |
      apply State.ev_kept | apply State.cnt_kept

theorem State.showSess_kept {k : Kept} (s : State) (n : Nat) (waiting : Bool) (hk : State.Keeps k s) (hm :
    k.Allows [.CAP]) :
    State.Keeps k (State.showSess s n waiting) := by
  unfold State.showSess
  with_reducible repeat' first
    | exact hk | assumption | exact hm.regs (by decide) | exact hm.sub (by decide) | exact hm.one (by decide) |
      apply State.setWord_kept | apply State.put_kept | (refine Keeps.fst (by assumption) ?_) |
      (refine Keeps.snd (by assumption) ?_) | (intro _) | extract_lets | (dsimp -zeta only) | apply Keeps.of_fst |
      apply Keeps.of_snd | apply Keeps.foldl | apply Keeps.foldl_fst | split | apply Keeps.pair |
      apply Keeps.pair'

theorem State.setSess_kept {k : Kept} (s : State) (n : Nat) (z : Session) (hk : State.Keeps k s) (hm : k.Allows
    [.coll]) :
    State.Keeps k (State.setSess s n z) := by
  unfold State.setSess
  with_reducible repeat' first
    | exact hk | assumption | exact hm.regs (by decide) | exact hm.sub (by decide) | exact hm.one (by decide) |
      (intro _) | extract_lets | (dsimp -zeta only) | apply Keeps.of_fst | apply Keeps.of_snd | split |
      apply Keeps.pair | apply Keeps.pair' | apply Keeps.upd_coll

theorem State.endSess_kept {k : Kept} (s : State) (n st : Nat) (hk : State.Keeps k s) (hm : k.Allows [.CAP,
    .HIF, .coll, .out, .tenants]) :
    State.Keeps k (State.endSess s n st) := by
  unfold State.endSess
  with_reducible repeat' first
    | exact hk | assumption | exact hm.regs (by decide) | exact hm.sub (by decide) | exact hm.one (by decide) |
      apply State.complete_kept | apply State.showSess_kept | (refine Keeps.fst (by assumption) ?_) |
      (refine Keeps.snd (by assumption) ?_) | (intro _) | extract_lets | (dsimp -zeta only) | apply Keeps.of_fst |
      apply Keeps.of_snd | split | apply Keeps.pair | apply Keeps.pair' | apply Keeps.upd_coll

theorem State.endTenantSess_kept {k : Kept} (s : State) (t st : Nat) (hk : State.Keeps k s) (hm : k.Allows
    [.CAP, .HIF, .coll, .out, .tenants]) :
    State.Keeps k (State.endTenantSess s t st) := by
  unfold State.endTenantSess
  with_reducible repeat' first
    | exact hk | assumption | exact hm.regs (by decide) | exact hm.sub (by decide) | apply State.each_kept |
      apply State.endSess_kept | (intro _) | (dsimp -zeta only) | apply Keeps.of_fst | apply Keeps.of_snd |
      apply Keeps.pair | apply Keeps.pair'

theorem State.windowWrite_kept {k : Kept} (s : State) (src sec addr : Nat) (bytes : List Nat) (hk : State.Keeps
    k s) (hm : k.Allows [.out]) :
    State.Keeps k (State.windowWrite s src sec addr bytes) := by
  unfold State.windowWrite
  with_reducible repeat' first
    | exact hk | assumption | exact hm.regs (by decide) | exact hm.sub (by decide) | apply State.each_kept |
      apply State.send_kept | (intro _) | extract_lets | (dsimp -zeta only) | apply Keeps.of_fst |
      apply Keeps.of_snd | apply Keeps.pair | apply Keeps.pair'

theorem State.deliverRec_kept {k : Kept} (s : State) (z : Session) (c : Cand) (hk : State.Keeps k s) (hm :
    k.Allows [.SGC, .cores, .out, .tenants]) :
    State.Keeps k (State.deliverRec s z c) := by
  unfold State.deliverRec
  with_reducible repeat' first
    | exact hk | assumption | exact hm.regs (by decide) | exact hm.sub (by decide) | apply State.setCore_kept |
      apply State.raiseCore_kept | apply State.when_kept | apply State.hostWrite_kept |
      apply State.windowWrite_kept | (refine Keeps.fst (by assumption) ?_) |
      (refine Keeps.snd (by assumption) ?_) | (intro _) | extract_lets | (dsimp -zeta only) | apply Keeps.of_fst |
      apply Keeps.of_snd | split | apply Keeps.pair | apply Keeps.pair'

theorem State.writeSgc_kept {k : Kept} (s : State) (p : Path) (which : Nat) (c : Nat) (v : Word) (hk :
    State.Keeps k s) (hm : k.Allows [.BOOT, .CAP, .FAB, .FRM, .GIO, .GLB, .LANE, .OBS, .PRS, .SECT, .SGC, .SWF]) :
    State.KeepsFst k (State.writeSgc s p which c v) := by
  unfold State.writeSgc
  with_reducible repeat' first
    | exact hk | assumption | exact hm.regs (by decide) | exact hm.sub (by decide) | exact hm.one (by decide) |
      apply State.ev_kept | apply refuseWrite_kept | apply State.applyWrite_kept | apply State.guardWrite_kept |
      (refine Keeps.fst (by assumption) ?_) | (refine Keeps.snd (by assumption) ?_) | (intro _) | extract_lets |
      (dsimp -zeta only) | apply Keeps.of_fst | apply Keeps.of_snd | split | apply Keeps.pair |
      apply Keeps.pair'

end Sys2Proof.Machine
end

