-- ==== Sys2Proof/Laws/KeepsMemory.lean ====
section
/-! SUPPORT. Laws/KeepsMemory.lean: the operations of Machine/Memory.lean keep what Laws/Keeps.lean says. -/
set_option Elab.async false  -- one proof at a time: the package as one text then needs less memory
namespace Sys2Proof.Machine

theorem State.recast_kept {k : Kept} (s : State) (hk : State.Keeps k s) (hm : k.Allows [.PWR]) :
    State.Keeps k (State.recast s) := by
  unfold State.recast
  with_reducible repeat' first
    | exact hk | assumption | exact hm.regs (by decide) | exact hm.sub (by decide) | exact hm.one (by decide) |
      apply State.put_kept | apply State.ev_kept | apply State.when_kept | apply State.each_kept |
      apply State.resolve_kept | (intro _) | extract_lets | (dsimp -zeta only) | apply Keeps.of_fst |
      apply Keeps.of_snd | split | apply Keeps.pair | apply Keeps.pair'

theorem State.loseAll_kept {k : Kept} (s : State) (qs : List Nat) (hk : State.Keeps k s) (hm : k.Allows [.CAP,
    .RAS, .cap, .ras]) :
    State.Keeps k (State.loseAll s qs) := by
  unfold State.loseAll
  with_reducible repeat' first
    | exact hk | assumption | exact hm.regs (by decide) | exact hm.sub (by decide) | apply State.loseQuire_kept |
      apply State.each_kept | (intro _) | (dsimp -zeta only) | apply Keeps.of_fst | apply Keeps.of_snd |
      apply Keeps.pair | apply Keeps.pair'

theorem State.failFront_kept {k : Kept} (s : State) (hk : State.Keeps k s) (hm : k.Allows [.CAP, .MEM, .RAS,
    .cap, .ras]) :
    State.Keeps k (State.failFront s) := by
  unfold State.failFront
  with_reducible repeat' first
    | exact hk | assumption | exact hm.regs (by decide) | exact hm.sub (by decide) | exact hm.one (by decide) |
      apply State.setStrm_kept | apply State.setStrmState_kept | apply State.loseAll_kept | apply State.put_kept |
      apply State.each_kept | (intro _) | extract_lets | (dsimp -zeta only) | apply Keeps.of_fst |
      apply Keeps.of_snd | split | apply Keeps.pair | apply Keeps.pair' | apply Keeps.upd_cap

theorem State.failStack_kept {k : Kept} (s : State) (k_ cause : Nat) (hk : State.Keeps k s) (hm : k.Allows
    [.CAP, .MEM, .PWR, .RAS, .cap, .ras]) :
    State.Keeps k (State.failStack s k_ cause) := by
  unfold State.failStack
  with_reducible repeat' first
    | exact hk | assumption | exact hm.regs (by decide) | exact hm.sub (by decide) | exact hm.one (by decide) |
      apply State.failFront_kept | apply State.put_kept | apply State.ev_kept | apply State.log_kept |
      apply State.fault_kept | apply State.domReach_kept | extract_lets | split

theorem State.breakLeaf_kept {k : Kept} (s : State) (row stack : Nat) (hk : State.Keeps k s) (hm : k.Allows
    [.mem]) :
    State.Keeps k (State.breakLeaf s row stack) := by
  unfold State.breakLeaf
  with_reducible repeat' first
    | exact hk | assumption | exact hm.regs (by decide) | exact hm.sub (by decide) | exact hm.one (by decide) |
      (refine Keeps.fst (by assumption) ?_) | (refine Keeps.snd (by assumption) ?_) | extract_lets |
      (dsimp -zeta only) | apply Keeps.of_fst | apply Keeps.of_snd | split | apply Keeps.pair |
      apply Keeps.pair' | apply Keeps.upd_mem

theorem State.copyDiffer_kept {k : Kept} (s : State) (kind a b : Nat) (hk : State.Keeps k s) (hm : k.Allows
    [.RAS, .ras]) :
    State.Keeps k (State.copyDiffer s kind a b) := by
  unfold State.copyDiffer
  with_reducible repeat' first
    | exact hk | assumption | exact hm.regs (by decide) | exact hm.sub (by decide) | exact hm.one (by decide) |
      apply State.ev_kept | apply State.cnt_kept | apply State.log_kept

theorem State.retireRank_kept {k : Kept} (s : State) (c rank reason leaves : Nat) (hk : State.Keeps k s) (hm :
    k.Allows [.CAP, .MEM, .PWR, .RAS, .cap, .mem, .ras]) :
    State.Keeps k (State.retireRank s c rank reason leaves) := by
  unfold State.retireRank
  with_reducible repeat' first
    | exact hk | assumption | exact hm.regs (by decide) | exact hm.sub (by decide) | exact hm.one (by decide) |
      apply State.recast_kept | apply State.loseAll_kept | apply State.put_kept | apply State.ev_kept |
      apply State.each_kept | apply State.log_kept | apply State.fault_kept | (intro _) | extract_lets |
      (dsimp -zeta only) | apply Keeps.of_fst | apply Keeps.of_snd | split | apply Keeps.pair |
      apply Keeps.pair' | apply Keeps.upd_mem

theorem State.rehome_kept {k : Kept} (s : State) (q g : Nat) (hk : State.Keeps k s) (hm : k.Allows [.CAP, .cap,
    .free]) :
    State.KeepsFst k (State.rehome s q g) := by
  unfold State.rehome
  with_reducible repeat' first
    | exact hk | assumption | exact hm.regs (by decide) | exact hm.sub (by decide) | exact hm.one (by decide) |
      apply State.setQuire_kept | apply State.deepSlot_kept | apply State.put_kept | apply State.cnt_kept |
      (refine Keeps.fst (by assumption) ?_) | (refine Keeps.snd (by assumption) ?_) | (intro _) | extract_lets |
      (dsimp -zeta only) | apply Keeps.of_fst | apply Keeps.of_snd | split | apply Keeps.pair |
      apply Keeps.pair' | apply Keeps.upd_cap

theorem State.failExpander_kept {k : Kept} (s : State) (p cause : Nat) (hk : State.Keeps k s) (hm : k.Allows
    [.CAP, .MEM, .PWR, .RAS, .cap, .free, .ras]) :
    State.Keeps k (State.failExpander s p cause) := by
  unfold State.failExpander
  with_reducible repeat' first
    | exact hk | assumption | exact hm.regs (by decide) | exact hm.sub (by decide) | exact hm.one (by decide) |
      apply State.retryCopy_kept | apply State.recast_kept | apply State.loseAll_kept | apply State.put_kept |
      apply State.ev_kept | apply State.clr_kept | apply State.each_kept | apply State.log_kept |
      apply State.fault_kept | (refine Keeps.fst (by assumption) ?_) | (refine Keeps.snd (by assumption) ?_) |
      (intro _) | extract_lets | (dsimp -zeta only) | apply Keeps.of_fst | apply Keeps.of_snd | split |
      apply Keeps.pair | apply Keeps.pair'

theorem State.writeCxlMode_kept {k : Kept} (s : State) (p : Path) (v : Word) (hk : State.Keeps k s) (hm :
    k.Allows [.BOOT, .CAP, .FAB, .FRM, .GIO, .GLB, .LANE, .MEM, .OBS, .PRS, .SECT, .SGC, .SWF, .colo]) :
    State.KeepsFst k (State.writeCxlMode s p v) := by
  unfold State.writeCxlMode
  repeat' first
    | with_reducible exact hk
    | with_reducible assumption
    | with_reducible exact hm.regs (by decide)
    | with_reducible exact hm.sub (by decide)
    | with_reducible exact hm.one (by decide)
    | with_reducible apply State.applyWrite_kept
    | with_reducible apply State.guardWrite_kept
    | with_reducible refine Keeps.fst (by with_reducible assumption) ?_
    | with_reducible refine Keeps.snd (by with_reducible assumption) ?_
    | (intro _)
    | (dsimp only)
    | (simp -zeta only [id_eq])
    | with_reducible apply Keeps.of_fst
    | with_reducible apply Keeps.of_snd
    | with_reducible apply Keeps.foldl
    | with_reducible apply Keeps.foldl_fst
    | (split)
    | with_reducible apply Keeps.pair
    | with_reducible apply Keeps.pair'
    | with_reducible apply Keeps.upd_colo
    | with_reducible refine Keeps.upd_any hm ?_

end Sys2Proof.Machine
end

