-- ==== Sys2Proof/Laws/KeepsDma.lean ====
section
/-! SUPPORT. Laws/KeepsDma.lean: the operations of Machine/Dma.lean keep what Laws/Keeps.lean says. -/
set_option Elab.async false  -- one proof at a time: the package as one text then needs less memory
namespace Sys2Proof.Machine

theorem State.dmaEnd_kept {k : Kept} (s : State) (c st waits : Nat) (hk : State.Keeps k s) (hm : k.Allows [.SGC,
    .cores]) :
    State.Keeps k (State.dmaEnd s c st waits) := by
  unfold State.dmaEnd
  with_reducible repeat' first
    | exact hk | assumption | exact hm.regs (by decide) | exact hm.sub (by decide) | exact hm.one (by decide) |
      apply State.setCore_kept | apply State.cnt_kept | extract_lets

theorem State.dmaRun_kept {k : Kept} (s : State) (c waits : Nat) (checks : List (Bool × Nat)) (effect : State →
    State × Nat) (hk : State.Keeps k s) (hk_effect : ∀ s, State.Keeps k s → State.KeepsFst k (effect s)) (hm :
    k.Allows [.SGC, .cores]) :
    State.Keeps k (State.dmaRun s c waits checks effect) := by
  unfold State.dmaRun
  with_reducible repeat' first
    | exact hk | assumption | exact hm.regs (by decide) | exact hm.sub (by decide) | apply State.dmaEnd_kept |
      apply hk_effect | (refine Keeps.fst (by assumption) ?_) | (refine Keeps.snd (by assumption) ?_) |
      (intro _) | extract_lets | (dsimp -zeta only) | apply Keeps.of_fst | apply Keeps.of_snd | split |
      apply Keeps.pair | apply Keeps.pair'

end Sys2Proof.Machine
end

