-- ==== Sys2Proof/Laws/KeepsNoc.lean ====
section
/-! SUPPORT. Laws/KeepsNoc.lean: the operations of Machine/Noc.lean keep what Laws/Keeps.lean says. -/
set_option Elab.async false  -- one proof at a time: the package as one text then needs less memory
namespace Sys2Proof.Machine

theorem State.traceProbe_kept {k : Kept} (s : State) (q op : Nat) (p : PktArg) (hk : State.Keeps k s) (hm :
    k.Allows [.CAP, .HIF, .NOC, .RAS, .SEC, .SWF, .cap, .coll, .free, .out, .ras, .swf, .tenants]) :
    State.Keeps k (State.traceProbe s q op p) := by
  unfold State.traceProbe
  with_reducible repeat' first
    | exact hk | assumption | exact hm.regs (by decide) | exact hm.sub (by decide) | exact hm.one (by decide) |
      apply State.deviceWrite_kept | apply State.ev_kept | apply State.cnt_kept | apply State.ok_kept |
      (refine Keeps.fst (by assumption) ?_) | (refine Keeps.snd (by assumption) ?_) | extract_lets |
      (dsimp -zeta only) | apply Keeps.of_fst | apply Keeps.of_snd | split | apply Keeps.pair |
      apply Keeps.pair'

theorem State.probe_kept {k : Kept} (s : State) (op : Nat) (p : PktArg) (hk : State.Keeps k s) (hm : k.Allows
    [.CAP, .HIF, .NOC, .RAS, .SEC, .SWF, .cap, .coll, .free, .out, .ras, .swf, .tenants]) :
    State.Keeps k (State.probe s op p) := by
  unfold State.probe
  with_reducible repeat' first
    | exact hk | assumption | exact hm.regs (by decide) | exact hm.sub (by decide) | exact hm.one (by decide) |
      apply State.traceProbe_kept | apply State.addPair_kept | apply State.each_kept |
      (refine Keeps.fst (by assumption) ?_) | (refine Keeps.snd (by assumption) ?_) | (intro _) | extract_lets |
      (dsimp -zeta only) | apply Keeps.of_fst | apply Keeps.of_snd | split | apply Keeps.pair |
      apply Keeps.pair'

theorem State.respond_kept {k : Kept} (s : State) (p : Packet) (status : Nat) (data : List Nat) (hk :
    State.Keeps k s) (hm : k.Allows [.out]) :
    State.Keeps k (State.respond s p status data) := by
  unfold State.respond
  with_reducible repeat' first
    | exact hk | assumption | exact hm.regs (by decide) | exact hm.sub (by decide) | apply State.send_kept |
      extract_lets | split

theorem State.rejectPkt_kept {k : Kept} (s : State) (p : Packet) (hk : State.Keeps k s) (hm : k.Allows [.NOC,
    .out]) :
    State.Keeps k (State.rejectPkt s p) := by
  unfold State.rejectPkt
  with_reducible repeat' first
    | exact hk | assumption | exact hm.regs (by decide) | exact hm.sub (by decide) | exact hm.one (by decide) |
      apply State.respond_kept | apply State.ev_kept | apply State.cnt_kept

theorem State.badPkt_kept {k : Kept} (s : State) (p : Packet) (hk : State.Keeps k s) (hm : k.Allows [.NOC,
    .out]) :
    State.Keeps k (State.badPkt s p) := by
  unfold State.badPkt
  with_reducible repeat' first
    | exact hk | assumption | exact hm.regs (by decide) | exact hm.sub (by decide) | exact hm.one (by decide) |
      apply State.respond_kept | apply State.ev_kept | apply State.cnt_kept

theorem State.atSection_kept {k : Kept} (s : State) (p : Packet) (hk : State.Keeps k s) (hm : k.Allows [.FAB,
    .NOC, .out]) :
    State.Keeps k (State.atSection s p) := by
  unfold State.atSection
  with_reducible repeat' first
    | exact hk | assumption | exact hm.regs (by decide) | exact hm.sub (by decide) | exact hm.one (by decide) |
      apply State.respond_kept | apply State.rejectPkt_kept | apply State.ev_kept | apply State.cnt_kept |
      apply State.send_kept | apply State.deliver_kept | extract_lets | split

theorem State.atTier_kept {k : Kept} (s : State) (p : Packet) (hk : State.Keeps k s) (hm : k.Allows [.NOC, .SEC,
    .out]) :
    State.Keeps k (State.atTier s p) := by
  unfold State.atTier
  with_reducible repeat' first
    | exact hk | assumption | exact hm.regs (by decide) | exact hm.sub (by decide) | apply State.respond_kept |
      apply State.rejectPkt_kept | apply State.blockRaw_kept | (refine Keeps.fst (by assumption) ?_) |
      (refine Keeps.snd (by assumption) ?_) | extract_lets | (dsimp -zeta only) | apply Keeps.of_fst |
      apply Keeps.of_snd | split | apply Keeps.pair | apply Keeps.pair'

theorem State.tokenAt_kept {k : Kept} (s : State) (p : Packet) (source : Nat) (hk : State.Keeps k s) (hm :
    k.Allows [.NOC, .SWF, .out, .swf]) :
    State.Keeps k (State.tokenAt s p source) := by
  unfold State.tokenAt
  with_reducible repeat' first
    | exact hk | assumption | exact hm.regs (by decide) | exact hm.sub (by decide) | apply State.dqPost_kept |
      apply State.rejectPkt_kept | extract_lets | (dsimp -zeta only) | apply Keeps.of_fst | apply Keeps.of_snd |
      split

theorem State.atEndpoint_kept {k : Kept} (s : State) (p : Packet) (source : Nat) (hk : State.Keeps k s) (hm :
    k.Allows [.FAB, .NOC, .SEC, .SWF, .out, .swf]) :
    State.Keeps k (State.atEndpoint s p source) := by
  unfold State.atEndpoint
  with_reducible repeat' first
    | exact hk | assumption | exact hm.regs (by decide) | exact hm.sub (by decide) | apply State.atSection_kept |
      apply State.atTier_kept | apply State.tokenAt_kept | apply State.send_kept | apply State.deliver_kept |
      split

theorem State.sendPacket_kept {k : Kept} (s : State) (port origin dev : Nat) (flits : List Nat) (hk :
    State.Keeps k s) (hm : k.Allows [.bry, .out]) :
    State.Keeps k (State.sendPacket s port origin dev flits) := by
  unfold State.sendPacket
  with_reducible repeat' first
    | exact hk | assumption | exact hm.regs (by decide) | exact hm.sub (by decide) | apply State.sendFlit_kept |
      apply State.each_kept | (refine Keeps.fst (by assumption) ?_) | (refine Keeps.snd (by assumption) ?_) |
      (intro _) | extract_lets | (dsimp -zeta only) | apply Keeps.of_fst | apply Keeps.of_snd | split |
      apply Keeps.pair | apply Keeps.pair'

theorem State.ringOut_kept {k : Kept} (s : State) (op : Nat) (p : PktArg) (hk : State.Keeps k s) (hm : k.Allows
    [.BRY, .NOC, .bry, .out]) :
    State.Keeps k (State.ringOut s op p) := by
  unfold State.ringOut
  with_reducible repeat' first
    | exact hk | assumption | exact hm.regs (by decide) | exact hm.sub (by decide) | exact hm.one (by decide) |
      apply State.respond_kept | apply State.sendPacket_kept | apply State.ev_kept | apply State.cnt_kept |
      (refine Keeps.fst (by assumption) ?_) | (refine Keeps.snd (by assumption) ?_) | extract_lets |
      (dsimp -zeta only) | apply Keeps.of_fst | apply Keeps.of_snd | split | apply Keeps.pair |
      apply Keeps.pair'

theorem State.nocArrive_kept {k : Kept} (s : State) (op : Nat) (p : PktArg) (source : Nat) (hk : State.Keeps k
    s) (hm : k.Allows [.BRY, .CAP, .FAB, .HIF, .NOC, .RAS, .SEC, .SWF, .bry, .cap, .coll, .free, .out, .ras, .swf,
    .tenants]) :
    State.Keeps k (State.nocArrive s op p source) := by
  unfold State.nocArrive
  with_reducible repeat' first
    | exact hk | assumption | exact hm.regs (by decide) | exact hm.sub (by decide) | exact hm.one (by decide) |
      apply State.probe_kept | apply State.badPkt_kept | apply State.atEndpoint_kept | apply State.ringOut_kept |
      apply State.cnt_kept | extract_lets | split

theorem State.writeProbe_kept {k : Kept} (s : State) (p : Path) (which q : Nat) (v : Word) (hk : State.Keeps k
    s) (hm : k.Allows [.BOOT, .CAP, .FAB, .FRM, .GIO, .GLB, .LANE, .NOC, .OBS, .PRS, .SECT, .SGC, .SWF]) :
    State.KeepsFst k (State.writeProbe s p which q v) := by
  unfold State.writeProbe
  with_reducible repeat' first
    | exact hk | assumption | exact hm.regs (by decide) | exact hm.sub (by decide) | exact hm.one (by decide) |
      apply State.ev_kept | apply State.setPair_kept | apply State.when_kept | apply State.applyWrite_kept |
      apply State.guardWrite_kept | (refine Keeps.fst (by assumption) ?_) |
      (refine Keeps.snd (by assumption) ?_) | (intro _) | extract_lets | (dsimp -zeta only) | apply Keeps.of_fst |
      apply Keeps.of_snd | split | apply Keeps.pair | apply Keeps.pair'

end Sys2Proof.Machine
end

