-- ==== Sys2Proof/Laws/KeepsTimebase.lean ====
section
/-! SUPPORT. Laws/KeepsTimebase.lean: the operations of Machine/Timebase.lean keep what Laws/Keeps.lean says. -/
set_option Elab.async false  -- one proof at a time: the package as one text then needs less memory
namespace Sys2Proof.Machine

theorem State.setTime_kept {k : Kept} (s : State) (t cause : Nat) (hk : State.Keeps k s) (hm : k.Allows [.CAP,
    .HIF, .RAS, .SEC, .SWF, .cap, .clk, .coll, .free, .out, .ras, .swf, .tenants]) :
    State.Keeps k (State.setTime s t cause) := by
  have h : State.Keeps k { s with clk := { s.clk with timebase := BitVec.ofNat 64 (t / 8 * 8) } } :=
    { hk with time := fun _ => by simp only [BitVec.toNat_ofNat]; omega
              clk := fun e => by simp [hm.one (p := .clk) (by decide)] at e }
  unfold State.setTime
  extract_lets
  split
  · exact h
  · apply State.each_kept _ _ _ h
    intro s n hs
    apply State.place_kept <;> first | assumption | exact hm.sub (by decide)

theorem State.timeResult_kept {k : Kept} (s : State) (code : Nat) (hk : State.Keeps k s) (hm : k.Allows [.CLK])
    :
    State.Keeps k (State.timeResult s code) := by
  unfold State.timeResult
  with_reducible repeat' first
    | exact hk | assumption | exact hm.regs (by decide) | exact hm.sub (by decide) | exact hm.one (by decide) |
      apply State.put_kept

theorem State.timeIdle_kept {k : Kept} (s : State) (hk : State.Keeps k s) (hm : k.Allows [.CLK, .clk]) :
    State.Keeps k (State.timeIdle s) := by
  unfold State.timeIdle
  with_reducible repeat' first
    | exact hk | assumption | exact hm.regs (by decide) | exact hm.sub (by decide) | exact hm.one (by decide) |
      apply State.put_kept | extract_lets | apply Keeps.upd_clk

theorem State.timeRequest_kept {k : Kept} (s : State) (step : Bool) (at' : Bool) (hk : State.Keeps k s) (hm :
    k.Allows [.CLK, .bry, .clk, .out]) :
    State.Keeps k (State.timeRequest s step at') := by
  unfold State.timeRequest
  with_reducible repeat' first
    | exact hk | assumption | exact hm.regs (by decide) | exact hm.sub (by decide) | exact hm.one (by decide) |
      apply State.sendRing_kept | apply State.put_kept | apply State.timeResult_kept |
      (refine Keeps.fst (by assumption) ?_) | (refine Keeps.snd (by assumption) ?_) | (intro _) | extract_lets |
      (dsimp -zeta only) | apply Keeps.of_fst | apply Keeps.of_snd | split | apply Keeps.pair |
      apply Keeps.pair' | apply Keeps.upd_clk

theorem State.writeTimeCmd_kept {k : Kept} (s : State) (p : Path) (v : Word) (hk : State.Keeps k s) (hm :
    k.Allows [.BOOT, .CAP, .CLK, .FAB, .FRM, .GIO, .GLB, .LANE, .OBS, .PRS, .SECT, .SGC, .SWF, .bry, .clk, .out]) :
    State.KeepsFst k (State.writeTimeCmd s p v) := by
  unfold State.writeTimeCmd
  with_reducible repeat' first
    | exact hk | assumption | exact hm.regs (by decide) | exact hm.sub (by decide) | exact hm.one (by decide) |
      apply State.put_kept | apply State.applyWrite_kept | apply State.guardWrite_kept |
      apply State.timeResult_kept | apply State.timeIdle_kept | apply State.timeRequest_kept | (intro _) |
      extract_lets | (dsimp -zeta only) | apply Keeps.of_fst | apply Keeps.of_snd | split | apply Keeps.pair |
      apply Keeps.pair'

end Sys2Proof.Machine
end

