-- ==== Sys2Proof/Laws/KeepsObs.lean ====
section
/-! SUPPORT. Laws/KeepsObs.lean: the operations of Machine/Obs.lean keep what Laws/Keeps.lean says. -/
set_option Elab.async false  -- one proof at a time: the package as one text then needs less memory
namespace Sys2Proof.Machine

theorem State.folResult_kept {k : Kept} (s : State) (code : Nat) (hk : State.Keeps k s) (hm : k.Allows [.OBS]) :
    State.Keeps k (State.folResult s code) := by
  unfold State.folResult
  with_reducible repeat' first
    | exact hk | assumption | exact hm.regs (by decide) | exact hm.sub (by decide) | exact hm.one (by decide) |
      apply State.put_kept

theorem State.folSchedule_kept {k : Kept} (s : State) (hk : State.Keeps k s) (hm : k.Allows [.OBS, .bry, .obs,
    .out]) :
    State.Keeps k (State.folSchedule s) := by
  unfold State.folSchedule
  with_reducible repeat' first
    | exact hk | assumption | exact hm.regs (by decide) | exact hm.sub (by decide) | exact hm.one (by decide) |
      apply State.sendRing_kept | apply State.folResult_kept | apply State.put_kept | extract_lets | split |
      apply Keeps.upd_obs

theorem State.folCancel_kept {k : Kept} (s : State) (hk : State.Keeps k s) (hm : k.Allows [.OBS, .obs]) :
    State.Keeps k (State.folCancel s) := by
  unfold State.folCancel
  with_reducible repeat' first
    | exact hk | assumption | exact hm.regs (by decide) | exact hm.sub (by decide) | exact hm.one (by decide) |
      apply State.folResult_kept | apply State.put_kept | extract_lets | split | apply Keeps.upd_obs

theorem State.writeFolCmd_kept {k : Kept} (s : State) (p : Path) (v : Word) (hk : State.Keeps k s) (hm :
    k.Allows [.BOOT, .CAP, .FAB, .FRM, .GIO, .GLB, .LANE, .OBS, .PRS, .SECT, .SGC, .SWF, .bry, .obs, .out]) :
    State.KeepsFst k (State.writeFolCmd s p v) := by
  unfold State.writeFolCmd
  with_reducible repeat' first
    | exact hk | assumption | exact hm.regs (by decide) | exact hm.sub (by decide) | exact hm.one (by decide) |
      apply State.folSchedule_kept | apply State.folCancel_kept | apply State.put_kept |
      apply State.applyWrite_kept | apply State.guardWrite_kept | (intro _) | extract_lets | (dsimp -zeta only) |
      apply Keeps.of_fst | apply Keeps.of_snd | split | apply Keeps.pair | apply Keeps.pair'

theorem State.writeFolCfg_kept {k : Kept} (s : State) (p : Path) (v : Word) (hk : State.Keeps k s) (hm :
    k.Allows [.BOOT, .CAP, .FAB, .FRM, .GIO, .GLB, .LANE, .OBS, .PRS, .SECT, .SGC, .SWF]) :
    State.KeepsFst k (State.writeFolCfg s p v) := by
  unfold State.writeFolCfg
  with_reducible repeat' first
    | exact hk | assumption | exact hm.regs (by decide) | exact hm.sub (by decide) | exact hm.one (by decide) |
      apply State.ev_kept | apply refuseWrite_kept | apply State.applyWrite_kept | apply State.guardWrite_kept |
      (intro _) | (dsimp -zeta only) | apply Keeps.of_fst | apply Keeps.of_snd | split | apply Keeps.pair |
      apply Keeps.pair'

theorem State.deviceRibbon_kept {k : Kept} (s : State) (n : Nat) (it : Item) (hk : State.Keeps k s) (hm :
    k.Allows [.CAP, .HIF, .OBS, .RAS, .SEC, .SWF, .cap, .coll, .free, .out, .ras, .swf, .tenants]) :
    State.Keeps k (State.deviceRibbon s n it) := by
  unfold State.deviceRibbon
  with_reducible repeat' first
    | exact hk | assumption | exact hm.regs (by decide) | exact hm.sub (by decide) | exact hm.one (by decide) |
      apply State.ev_kept | apply State.cnt_kept | apply State.ribbon_kept | split

theorem State.ribbonStream_kept {k : Kept} (s : State) (it : Item) (hk : State.Keeps k s) (hm : k.Allows [.CAP,
    .HIF, .OBS, .RAS, .SEC, .SWF, .cap, .coll, .free, .out, .ras, .swf, .tenants]) :
    State.Keeps k (State.ribbonStream s it) := by
  unfold State.ribbonStream
  with_reducible repeat' first
    | exact hk | assumption | exact hm.regs (by decide) | exact hm.sub (by decide) | exact hm.one (by decide) |
      apply State.deviceWrite_kept | apply State.deviceRibbon_kept | apply State.ev_kept | apply State.cnt_kept |
      apply State.ok_kept | (refine Keeps.fst (by assumption) ?_) | (refine Keeps.snd (by assumption) ?_) |
      extract_lets | (dsimp -zeta only) | apply Keeps.of_fst | apply Keeps.of_snd | split | apply Keeps.pair |
      apply Keeps.pair'

theorem State.logRibbon_kept {k : Kept} (s : State) (e : LogEntry) (seq : Nat) (hk : State.Keeps k s) (hm :
    k.Allows [.CAP, .HIF, .OBS, .RAS, .SEC, .SWF, .cap, .coll, .free, .out, .ras, .swf, .tenants]) :
    State.Keeps k (State.logRibbon s e seq) := by
  unfold State.logRibbon
  with_reducible repeat' first
    | exact hk | assumption | exact hm.regs (by decide) | exact hm.sub (by decide) |
      apply State.deviceRibbon_kept | apply State.ribbonStream_kept | apply State.each_kept |
      (refine Keeps.fst (by assumption) ?_) | (refine Keeps.snd (by assumption) ?_) | (intro _) | extract_lets |
      (dsimp -zeta only) | apply Keeps.of_fst | apply Keeps.of_snd | split | apply Keeps.pair |
      apply Keeps.pair'

theorem State.folTake_kept {k : Kept} (s : State) (f : Foliation) (hk : State.Keeps k s) (hm : k.Allows [.CAP,
    .HIF, .OBS, .RAS, .SEC, .SWF, .cap, .coll, .free, .obs, .out, .ras, .swf, .tenants]) :
    State.Keeps k (State.folTake s f) := by
  unfold State.folTake
  with_reducible repeat' first
    | exact hk | assumption | exact hm.regs (by decide) | exact hm.sub (by decide) | exact hm.one (by decide) |
      apply State.folResult_kept | apply State.deviceRibbon_kept | apply State.ribbonStream_kept |
      apply State.put_kept | apply State.ev_kept | apply State.cntWrap_kept | apply State.setPair_kept |
      apply State.each_kept | (intro _) | extract_lets | (dsimp -zeta only) | apply Keeps.of_fst |
      apply Keeps.of_snd | split | apply Keeps.pair | apply Keeps.pair' | apply Keeps.upd_obs

theorem State.countersStream_kept {k : Kept} (s : State) (n : Nat) (hk : State.Keeps k s) (hm : k.Allows [.cap])
    :
    State.Keeps k (State.countersStream s n) := by
  unfold State.countersStream
  with_reducible repeat' first
    | exact hk | assumption | exact hm.regs (by decide) | exact hm.sub (by decide) | apply State.setStrm_kept |
      apply State.setQuire_kept | apply State.each_kept | (intro _) | extract_lets | (dsimp -zeta only) |
      apply Keeps.of_fst | apply Keeps.of_snd | apply Keeps.pair | apply Keeps.pair'

theorem State.readShadow_kept {k : Kept} (s : State) (p : Path) (hk : State.Keeps k s) (hm : k.Allows [.latch])
    :
    State.KeepsFst k (State.readShadow s p) := by
  unfold State.readShadow
  with_reducible repeat' first
    | exact hk | assumption | exact hm.regs (by decide) | exact hm.sub (by decide) | exact hm.one (by decide) |
      (refine Keeps.fst (by assumption) ?_) | (refine Keeps.snd (by assumption) ?_) | extract_lets |
      (dsimp -zeta only) | apply Keeps.of_fst | apply Keeps.of_snd | split | apply Keeps.pair |
      apply Keeps.pair' | apply Keeps.upd_latch

theorem State.folReceive_kept {k : Kept} (s : State) (t n : Nat) (hk : State.Keeps k s) (hm : k.Allows [.CAP,
    .HIF, .OBS, .RAS, .SEC, .SWF, .cap, .coll, .free, .obs, .out, .ras, .swf, .tenants]) :
    State.Keeps k (State.folReceive s t n) := by
  unfold State.folReceive
  with_reducible repeat' first
    | exact hk | assumption | exact hm.regs (by decide) | exact hm.sub (by decide) | exact hm.one (by decide) |
      apply State.folTake_kept | apply State.put_kept | apply State.ev_kept | extract_lets | split |
      apply Keeps.upd_obs

end Sys2Proof.Machine
end

