-- ==== Sys2Proof/Laws/KeepsBrynust.lean ====
section
/-! SUPPORT. Laws/KeepsBrynust.lean: the operations of Machine/Brynust.lean keep what Laws/Keeps.lean says. -/
set_option Elab.async false  -- one proof at a time: the package as one text then needs less memory
namespace Sys2Proof.Machine

theorem State.setPort_kept {k : Kept} (s : State) (p st cause : Nat) (hk : State.Keeps k s) (hm : k.Allows
    [.BRY]) :
    State.Keeps k (State.setPort s p st cause) := by
  unfold State.setPort
  with_reducible repeat' first
    | exact hk | assumption | exact hm.regs (by decide) | exact hm.sub (by decide) | exact hm.one (by decide) |
      apply State.put_kept | apply State.ev_kept | apply State.when_kept | (intro _) | extract_lets |
      (dsimp -zeta only) | apply Keeps.of_fst | apply Keeps.of_snd | apply Keeps.pair | apply Keeps.pair'

theorem State.setSession_kept {k : Kept} (s : State) (p st cause : Nat) (hk : State.Keeps k s) (hm : k.Allows
    [.SEC]) :
    State.Keeps k (State.setSession s p st cause) := by
  unfold State.setSession
  with_reducible repeat' first
    | exact hk | assumption | exact hm.regs (by decide) | exact hm.sub (by decide) | exact hm.one (by decide) |
      apply State.put_kept

theorem State.ringForms_kept {k : Kept} (s : State) (hk : State.Keeps k s) (hm : k.Allows [.BRY, .CLK, .bry,
    .clk]) :
    State.Keeps k (State.ringForms s) := by
  unfold State.ringForms
  with_reducible repeat' first
    | exact hk | assumption | exact hm.regs (by decide) | exact hm.sub (by decide) | exact hm.one (by decide) |
      apply State.slewTo_kept | apply State.setSync_kept | apply State.put_kept | apply State.ev_kept |
      apply State.settle_kept | extract_lets | split | apply Keeps.upd_bry

theorem State.ringState_kept {k : Kept} (s : State) (far reach : Nat) (hk : State.Keeps k s) (hm : k.Allows
    [.BRY, .CLK, .bry, .clk]) :
    State.Keeps k (State.ringState s far reach) := by
  unfold State.ringState
  with_reducible repeat' first
    | exact hk | assumption | exact hm.regs (by decide) | exact hm.sub (by decide) | exact hm.one (by decide) |
      apply State.ringForms_kept | apply State.put_kept | apply State.ev_kept | apply State.when_kept |
      (intro _) | extract_lets | (dsimp -zeta only) | apply Keeps.of_fst | apply Keeps.of_snd | split |
      apply Keeps.pair | apply Keeps.pair' | apply Keeps.upd_bry

theorem State.answerThrough_kept {k : Kept} (s : State) (port dev : Nat) (f : State → State) (hk : State.Keeps k
    s) (hk_f : ∀ s, State.Keeps k s → State.Keeps k (f s)) (hm : k.Allows [.bry, .out]) :
    State.Keeps k (State.answerThrough s port dev f) := by
  unfold State.answerThrough
  with_reducible repeat' first
    | exact hk | assumption | exact hm.regs (by decide) | exact hm.sub (by decide) | exact hm.one (by decide) |
      apply State.sendPacket_kept | apply State.each_kept | apply hk_f | (refine Keeps.fst (by assumption) ?_) |
      (refine Keeps.snd (by assumption) ?_) | (intro _) | extract_lets | (dsimp -zeta only) | apply Keeps.of_fst |
      apply Keeps.of_snd | split | apply Keeps.pair | apply Keeps.pair' | apply Keeps.upd_out

theorem State.ringDeliver_kept {k : Kept} (s : State) (port origin source : Nat) (flits : List Nat) (hk :
    State.Keeps k s) (hm : k.Allows [.BRY, .FAB, .NOC, .SEC, .SWF, .bry, .out, .swf]) :
    State.Keeps k (State.ringDeliver s port origin source flits) := by
  unfold State.ringDeliver
  with_reducible repeat' first
    | exact hk | assumption | exact hm.regs (by decide) | exact hm.sub (by decide) | exact hm.one (by decide) |
      apply State.answerThrough_kept | apply State.respond_kept | apply State.badPkt_kept |
      apply State.atEndpoint_kept | apply State.ev_kept | (intro _) | extract_lets | (dsimp -zeta only) |
      apply Keeps.of_fst | apply Keeps.of_snd | split | apply Keeps.pair | apply Keeps.pair'

theorem State.bryDown_kept {k : Kept} (s : State) (p : Nat) (hk : State.Keeps k s) (hm : k.Allows [.bry, .out])
    :
    State.Keeps k (State.bryDown s p) := by
  unfold State.bryDown
  with_reducible repeat' first
    | exact hk | assumption | exact hm.regs (by decide) | exact hm.sub (by decide) | apply State.setBryPort_kept |
      apply State.answerThrough_kept | apply State.respond_kept | apply State.each_kept | (intro _) |
      extract_lets | (dsimp -zeta only) | apply Keeps.of_fst | apply Keeps.of_snd | split | apply Keeps.pair |
      apply Keeps.pair'

theorem State.portDown_kept {k : Kept} (s : State) (p cause : Nat) (hk : State.Keeps k s) (hm : k.Allows [.BRY,
    .CLK, .SEC, .bry, .clk, .out]) :
    State.Keeps k (State.portDown s p cause) := by
  unfold State.portDown
  repeat' first
    | with_reducible exact hk
    | with_reducible assumption
    | with_reducible exact hm.regs (by decide)
    | with_reducible exact hm.sub (by decide)
    | with_reducible apply State.setPort_kept
    | with_reducible apply State.setSession_kept
    | with_reducible apply State.bryDown_kept
    | with_reducible apply State.activeLost_kept
    | with_reducible apply State.sourceGone_kept
    | with_reducible apply State.when_kept
    | with_reducible refine Keeps.fst (by with_reducible assumption) ?_
    | with_reducible refine Keeps.snd (by with_reducible assumption) ?_
    | (intro _)
    | (extract_lets)
    | (dsimp -zeta only)
    | (simp -zeta only [id_eq])
    | with_reducible apply Keeps.of_fst
    | with_reducible apply Keeps.of_snd
    | with_reducible apply Keeps.foldl
    | with_reducible apply Keeps.foldl_fst
    | (split)
    | with_reducible apply Keeps.pair
    | with_reducible apply Keeps.pair'
    | with_reducible refine Keeps.upd_any hm ?_

theorem State.retrain_kept {k : Kept} (s : State) (p : Nat) (hk : State.Keeps k s) (hm : k.Allows [.BRY, .SEC,
    .bry]) :
    State.Keeps k (State.retrain s p) := by
  unfold State.retrain
  with_reducible repeat' first
    | exact hk | assumption | exact hm.regs (by decide) | exact hm.sub (by decide) | apply State.setBryPort_kept |
      apply State.setPort_kept | apply State.setSession_kept | apply State.when_kept | (intro _) | extract_lets |
      (dsimp -zeta only) | apply Keeps.of_fst | apply Keeps.of_snd | apply Keeps.pair | apply Keeps.pair'

theorem State.flitBad_kept {k : Kept} (s : State) (f : FlitArg) (hk : State.Keeps k s) (hm : k.Allows [.BRY,
    .SEC, .bry, .out]) :
    State.Keeps k (State.flitBad s f) := by
  unfold State.flitBad
  with_reducible repeat' first
    | exact hk | assumption | exact hm.regs (by decide) | exact hm.sub (by decide) | exact hm.one (by decide) |
      apply State.sendFlit_kept | apply State.cnt_kept | apply State.when_kept | (intro _) | extract_lets |
      (dsimp -zeta only) | apply Keeps.of_fst | apply Keeps.of_snd | apply Keeps.pair | apply Keeps.pair'

theorem State.rxFlit_kept {k : Kept} (s : State) (f : FlitArg) (sequenced : Bool) (effect : State → State) (hk :
    State.Keeps k s) (hk_effect : ∀ s, State.Keeps k s → State.Keeps k (effect s)) (hm : k.Allows [.BRY, .SEC, .bry,
    .out]) :
    State.Keeps k (State.rxFlit s f sequenced effect) := by
  unfold State.rxFlit
  with_reducible repeat' first
    | exact hk | assumption | exact hm.regs (by decide) | exact hm.sub (by decide) | apply State.setBryPort_kept |
      apply State.flitBad_kept | apply hk_effect | (intro _) | extract_lets | (dsimp -zeta only) |
      apply Keeps.of_fst | apply Keeps.of_snd | split | apply Keeps.pair | apply Keeps.pair'

theorem State.quot_kept {k : Kept} (s : State) (a b : Int) (hk : State.Keeps k s) (hm : k.Allows [.free]) :
    State.KeepsSnd k (State.quot s a b) := by
  unfold State.quot
  with_reducible repeat' first
    | exact hk | assumption | exact hm.regs (by decide) | exact hm.sub (by decide) | apply State.fresh_kept |
      (refine Keeps.fst (by assumption) ?_) | (refine Keeps.snd (by assumption) ?_) | extract_lets |
      (dsimp -zeta only) | apply Keeps.of_fst | apply Keeps.of_snd | split | apply Keeps.pair |
      apply Keeps.pair'

theorem State.steer_kept {k : Kept} (s : State) (o : Int) (hk : State.Keeps k s) (hm : k.Allows [.BRY]) :
    State.Keeps k (State.steer s o) := by
  unfold State.steer
  with_reducible repeat' first
    | exact hk | assumption | exact hm.regs (by decide) | exact hm.sub (by decide) | exact hm.one (by decide) |
      apply State.setSync_kept | apply State.put_kept | extract_lets | split

theorem State.offset_kept {k : Kept} (s : State) (o : Int) (hk : State.Keeps k s) (hm : k.Allows [.BRY, .CAP,
    .HIF, .RAS, .SEC, .SWF, .bry, .cap, .clk, .coll, .free, .out, .ras, .swf, .tenants]) :
    State.Keeps k (State.offset s o) := by
  unfold State.offset
  with_reducible repeat' first
    | exact hk | assumption | exact hm.regs (by decide) | exact hm.sub (by decide) | exact hm.one (by decide) |
      apply State.quot_kept | apply State.steer_kept | apply State.setSync_kept | apply State.put_kept |
      apply State.setTime_kept | apply State.settle_kept | (refine Keeps.fst (by assumption) ?_) |
      (refine Keeps.snd (by assumption) ?_) | extract_lets | (dsimp -zeta only) | apply Keeps.of_fst |
      apply Keeps.of_snd | apply Keeps.foldl | apply Keeps.foldl_fst | split | apply Keeps.pair |
      apply Keeps.pair' | apply Keeps.upd_bry

theorem State.ringFlit_kept {k : Kept} (s : State) (p kind origin number : Nat) (payload : List Nat) (act :
    State → State) (hk : State.Keeps k s) (hk_act : ∀ s, State.Keeps k s → State.Keeps k (act s)) (hm : k.Allows
    [.RAS, .bry, .out, .ras]) :
    State.Keeps k (State.ringFlit s p kind origin number payload act) := by
  unfold State.ringFlit
  with_reducible repeat' first
    | exact hk | assumption | exact hm.regs (by decide) | exact hm.sub (by decide) | exact hm.one (by decide) |
      apply State.sendFlit_kept | apply State.copyDiffer_kept | apply State.when_kept | apply hk_act |
      (refine Keeps.fst (by assumption) ?_) | (refine Keeps.snd (by assumption) ?_) | (intro _) | extract_lets |
      (dsimp -zeta only) | apply Keeps.of_fst | apply Keeps.of_snd | split | apply Keeps.pair |
      apply Keeps.pair' | apply Keeps.upd_bry

theorem State.timeReceive_kept {k : Kept} (s : State) (step : Bool) (value : BitVec 64) (t : Nat) (hk :
    State.Keeps k s) (hm : k.Allows [.BRY, .CAP, .HIF, .RAS, .SEC, .SWF, .cap, .clk, .coll, .free, .out, .ras, .swf,
    .tenants]) :
    State.Keeps k (State.timeReceive s step value t) := by
  unfold State.timeReceive
  with_reducible repeat' first
    | exact hk | assumption | exact hm.regs (by decide) | exact hm.sub (by decide) | exact hm.one (by decide) |
      apply State.setSync_kept | apply State.setTime_kept | (refine Keeps.fst (by assumption) ?_) |
      (refine Keeps.snd (by assumption) ?_) | extract_lets | (dsimp -zeta only) | apply Keeps.of_fst |
      apply Keeps.of_snd | split | apply Keeps.pair | apply Keeps.pair' | apply Keeps.upd_clk

theorem State.rmtEnd_kept {k : Kept} (s : State) (result : Nat) (hk : State.Keeps k s) (hm : k.Allows [.BRY,
    .bry]) :
    State.Keeps k (State.rmtEnd s result) := by
  unfold State.rmtEnd
  with_reducible repeat' first
    | exact hk | assumption | exact hm.regs (by decide) | exact hm.sub (by decide) | exact hm.one (by decide) |
      apply State.put_kept | apply State.ev_kept | extract_lets | apply Keeps.upd_bry

theorem State.writeRmtCtrl_kept {k : Kept} (s : State) (p : Path) (v : Word) (hk : State.Keeps k s) (hm :
    k.Allows [.BOOT, .BRY, .CAP, .FAB, .FRM, .GIO, .GLB, .LANE, .OBS, .PRS, .SECT, .SGC, .SWF, .bry]) :
    State.KeepsFst k (State.writeRmtCtrl s p v) := by
  unfold State.writeRmtCtrl
  with_reducible repeat' first
    | exact hk | assumption | exact hm.regs (by decide) | exact hm.sub (by decide) | exact hm.one (by decide) |
      apply State.rmtEnd_kept | apply State.when_kept | apply State.applyWrite_kept |
      apply State.guardWrite_kept | (intro _) | extract_lets | (dsimp -zeta only) | apply Keeps.of_fst |
      apply Keeps.of_snd | split | apply Keeps.pair | apply Keeps.pair' | apply Keeps.upd_bry

theorem State.writeRingCfg_kept {k : Kept} (s : State) (p : Path) (v : Word) (hk : State.Keeps k s) (hm :
    k.Allows [.BOOT, .BRY, .CAP, .FAB, .FRM, .GIO, .GLB, .LANE, .OBS, .PRS, .SECT, .SGC, .SWF, .colo]) :
    State.KeepsFst k (State.writeRingCfg s p v) := by
  unfold State.writeRingCfg
  repeat' first
    | with_reducible exact hk
    | with_reducible assumption
    | with_reducible exact hm.regs (by decide)
    | with_reducible exact hm.sub (by decide)
    | with_reducible exact hm.one (by decide)
    | with_reducible apply State.applyWrite_kept
    | with_reducible apply State.guardWrite_kept
    | with_reducible refine Keeps.fst (by with_reducible assumption) ?_
    | with_reducible refine Keeps.snd (by with_reducible assumption) ?_
    | (intro _)
    | (dsimp only)
    | (simp -zeta only [id_eq])
    | with_reducible apply Keeps.of_fst
    | with_reducible apply Keeps.of_snd
    | with_reducible apply Keeps.foldl
    | with_reducible apply Keeps.foldl_fst
    | (split)
    | with_reducible apply Keeps.pair
    | with_reducible apply Keeps.pair'
    | with_reducible apply Keeps.upd_colo
    | with_reducible refine Keeps.upd_any hm ?_

end Sys2Proof.Machine
end

