-- ==== Sys2Proof/Laws/KeepsFabric.lean ====
section
/-! SUPPORT. Laws/KeepsFabric.lean: the operations of Machine/Fabric.lean keep what Laws/Keeps.lean says. -/
set_option Elab.async false  -- one proof at a time: the package as one text then needs less memory
namespace Sys2Proof.Machine

theorem State.endpaper_kept {k : Kept} (s : State) (n : Nat) (hk : State.Keeps k s) (hm : k.Allows [.FAB]) :
    State.Keeps k (State.endpaper s n) := by
  unfold State.endpaper
  with_reducible repeat' first
    | exact hk | assumption | exact hm.regs (by decide) | exact hm.sub (by decide) | exact hm.one (by decide) |
      apply State.put_kept | apply State.each_kept | (intro _) | (dsimp -zeta only) | apply Keeps.of_fst |
      apply Keeps.of_snd | apply Keeps.pair | apply Keeps.pair'

theorem State.setSect_kept {k : Kept} (s : State) (n st : Nat) (hk : State.Keeps k s) (hm : k.Allows [.FAB]) :
    State.Keeps k (State.setSect s n st) := by
  unfold State.setSect
  with_reducible repeat' first
    | exact hk | assumption | exact hm.regs (by decide) | exact hm.sub (by decide) | exact hm.one (by decide) |
      apply State.endpaper_kept | apply State.put_kept

theorem State.sectWait_kept {k : Kept} (s : State) (n : Nat) (d : Option Desc) (hk : State.Keeps k s) (hm :
    k.Allows [.fab]) :
    State.Keeps k (State.sectWait s n d) := by
  unfold State.sectWait
  with_reducible repeat' first
    | exact hk | assumption | exact hm.regs (by decide) | exact hm.sub (by decide) | exact hm.one (by decide) |
      extract_lets | apply Keeps.upd_fab

theorem State.sectWake_kept {k : Kept} (s : State) (n status : Nat) (hk : State.Keeps k s) (hm : k.Allows [.HIF,
    .fab, .out, .tenants]) :
    State.Keeps k (State.sectWake s n status) := by
  unfold State.sectWake
  with_reducible repeat' first
    | exact hk | assumption | exact hm.regs (by decide) | exact hm.sub (by decide) | apply State.sectWait_kept |
      apply State.complete_kept | (refine Keeps.fst (by assumption) ?_) | (refine Keeps.snd (by assumption) ?_) |
      (dsimp -zeta only) | apply Keeps.of_fst | apply Keeps.of_snd | split | apply Keeps.pair |
      apply Keeps.pair'

theorem State.sectInit_kept {k : Kept} (s : State) (n : Nat) (hk : State.Keeps k s) (hm : k.Allows [.fab]) :
    State.Keeps k (State.sectInit s n) := by
  unfold State.sectInit
  with_reducible repeat' first
    | exact hk | assumption | exact hm.regs (by decide) | exact hm.sub (by decide) | exact hm.one (by decide) |
      (intro _) | extract_lets | (dsimp -zeta only) | apply Keeps.of_fst | apply Keeps.of_snd |
      apply Keeps.foldl | apply Keeps.foldl_fst | apply Keeps.pair | apply Keeps.pair' | apply Keeps.upd_fab

theorem State.sectReset_kept {k : Kept} (s : State) (n : Nat) (hk : State.Keeps k s) (hm : k.Allows [.fab]) :
    State.Keeps k (State.sectReset s n) := by
  unfold State.sectReset
  with_reducible repeat' first
    | exact hk | assumption | exact hm.regs (by decide) | exact hm.sub (by decide) | exact hm.one (by decide) |
      (intro _) | extract_lets | (dsimp -zeta only) | apply Keeps.of_fst | apply Keeps.of_snd |
      apply Keeps.foldl | apply Keeps.foldl_fst | apply Keeps.pair | apply Keeps.pair' | apply Keeps.upd_fab

theorem State.sectBlank_kept {k : Kept} (s : State) (n : Nat) (hk : State.Keeps k s) (hm : k.Allows [.fab]) :
    State.Keeps k (State.sectBlank s n) := by
  unfold State.sectBlank
  with_reducible repeat' first
    | exact hk | assumption | exact hm.regs (by decide) | exact hm.sub (by decide) | exact hm.one (by decide) |
      extract_lets | apply Keeps.upd_mem | apply Keeps.upd_fab

theorem State.sectWrite_kept {k : Kept} (s : State) (g : SectImage) (hk : State.Keeps k s) (hm : k.Allows [.FAB,
    .fab]) :
    State.Keeps k (State.sectWrite s g) := by
  unfold State.sectWrite
  with_reducible repeat' first
    | exact hk | assumption | exact hm.regs (by decide) | exact hm.sub (by decide) | exact hm.one (by decide) |
      apply State.sectInit_kept | apply State.setWord_kept | apply State.each_kept | (intro _) | extract_lets |
      (dsimp -zeta only) | apply Keeps.of_fst | apply Keeps.of_snd | apply Keeps.foldl | apply Keeps.foldl_fst |
      apply Keeps.pair | apply Keeps.pair' | apply Keeps.upd_mem | apply Keeps.upd_fab

theorem State.sectClear_kept {k : Kept} (s : State) (n : Nat) (hk : State.Keeps k s) (hm : k.Allows [.FAB,
    .swf]) :
    State.Keeps k (State.sectClear s n) := by
  unfold State.sectClear
  with_reducible repeat' first
    | exact hk | assumption | exact hm.regs (by decide) | exact hm.sub (by decide) | apply State.setSect_kept |
      apply State.each_kept | apply State.loseTasks_kept | (intro _) | extract_lets | (dsimp -zeta only) |
      apply Keeps.of_fst | apply Keeps.of_snd | apply Keeps.pair | apply Keeps.pair'

theorem State.sectMoved_kept {k : Kept} (s : State) (m : SectMove) (hk : State.Keeps k s) (hm : k.Allows [.FAB,
    .HIF, .out, .tenants]) :
    State.Keeps k (State.sectMoved s m) := by
  unfold State.sectMoved
  with_reducible repeat' first
    | exact hk | assumption | exact hm.regs (by decide) | exact hm.sub (by decide) | exact hm.one (by decide) |
      apply State.endpaper_kept | apply State.setWord_kept | apply State.put_kept | apply State.each_kept |
      apply State.ok_kept | (refine Keeps.fst (by assumption) ?_) | (refine Keeps.snd (by assumption) ?_) |
      (intro _) | extract_lets | (dsimp -zeta only) | apply Keeps.of_fst | apply Keeps.of_snd | split |
      apply Keeps.pair | apply Keeps.pair'

theorem State.sectMoves_kept {k : Kept} (s : State) (hk : State.Keeps k s) (hm : k.Allows [.FAB, .HIF, .fab,
    .out, .tenants]) :
    State.Keeps k (State.sectMoves s) := by
  unfold State.sectMoves
  with_reducible repeat' first
    | exact hk | assumption | exact hm.regs (by decide) | exact hm.sub (by decide) | exact hm.one (by decide) |
      apply State.sectMoved_kept | apply State.each_kept | (intro _) | extract_lets | (dsimp -zeta only) |
      apply Keeps.of_fst | apply Keeps.of_snd | apply Keeps.pair | apply Keeps.pair' | apply Keeps.upd_fab

theorem State.sectRelease_kept {k : Kept} (s : State) (n : Nat) (hk : State.Keeps k s) (hm : k.Allows [.FAB,
    .fab]) :
    State.Keeps k (State.sectRelease s n) := by
  unfold State.sectRelease
  with_reducible repeat' first
    | exact hk | assumption | exact hm.regs (by decide) | exact hm.sub (by decide) | apply State.setSect_kept |
      apply State.sectInit_kept

theorem State.sectStop_kept {k : Kept} (s : State) (n : Nat) (hk : State.Keeps k s) (hm : k.Allows [.FAB, .swf])
    :
    State.Keeps k (State.sectStop s n) := by
  unfold State.sectStop
  with_reducible repeat' first
    | exact hk | assumption | exact hm.regs (by decide) | exact hm.sub (by decide) | exact hm.one (by decide) |
      apply State.setSect_kept | (intro _) | extract_lets | (dsimp -zeta only) | apply Keeps.of_fst |
      apply Keeps.of_snd | apply Keeps.pair | apply Keeps.pair' | apply Keeps.upd_swf

theorem State.sectStopped_kept {k : Kept} (s : State) (n : Nat) (hk : State.Keeps k s) (hm : k.Allows [.FAB,
    .HIF, .fab, .out, .swf, .tenants]) :
    State.Keeps k (State.sectStopped s n) := by
  unfold State.sectStopped
  with_reducible repeat' first
    | exact hk | assumption | exact hm.regs (by decide) | exact hm.sub (by decide) | exact hm.one (by decide) |
      apply State.setSect_kept | apply State.sectWake_kept | apply State.sectReset_kept | apply State.ev_kept |
      apply State.each_kept | apply State.loseTasks_kept | (intro _) | extract_lets | (dsimp -zeta only) |
      apply Keeps.of_fst | apply Keeps.of_snd | apply Keeps.pair | apply Keeps.pair'

theorem State.setMem_kept {k : Kept} (s : State) (k_ data flips : Nat) (hk : State.Keeps k s) (hm : k.Allows
    [.fab]) :
    State.Keeps k (State.setMem s k_ data flips) := by
  unfold State.setMem
  with_reducible repeat' first
    | exact hk | assumption | exact hm.regs (by decide) | exact hm.sub (by decide) | exact hm.one (by decide) |
      extract_lets | apply Keeps.upd_mem | apply Keeps.upd_fab

theorem State.setRead_kept {k : Kept} (s : State) (n m port data flags : Nat) (hk : State.Keeps k s) (hm :
    k.Allows [.fab]) :
    State.Keeps k (State.setRead s n m port data flags) := by
  unfold State.setRead
  with_reducible repeat' first
    | exact hk | assumption | exact hm.regs (by decide) | exact hm.sub (by decide) | exact hm.one (by decide) |
      extract_lets | apply Keeps.upd_fab

theorem State.secded_kept {k : Kept} (s : State) (flips : Nat) (hk : State.Keeps k s) (hm : k.Allows [.free]) :
    State.KeepsSnd k (State.secded s flips) := by
  unfold State.secded
  with_reducible repeat' first
    | exact hk | assumption | exact hm.regs (by decide) | exact hm.sub (by decide) | apply State.fresh_kept |
      (refine Keeps.fst (by assumption) ?_) | (refine Keeps.snd (by assumption) ?_) | extract_lets |
      (dsimp -zeta only) | apply Keeps.of_fst | apply Keeps.of_snd | split | apply Keeps.pair |
      apply Keeps.pair'

theorem State.memCe_kept {k : Kept} (s : State) (n : Nat) (hk : State.Keeps k s) (hm : k.Allows [.FAB]) :
    State.Keeps k (State.memCe s n) := by
  unfold State.memCe
  with_reducible repeat' first
    | exact hk | assumption | exact hm.regs (by decide) | exact hm.sub (by decide) | exact hm.one (by decide) |
      apply State.ev_kept | apply State.cnt_kept

theorem State.memUe_kept {k : Kept} (s : State) (n m a : Nat) (byScrub : Bool) (hk : State.Keeps k s) (hm :
    k.Allows [.FAB, .RAS, .ras]) :
    State.Keeps k (State.memUe s n m a byScrub) := by
  unfold State.memUe
  with_reducible repeat' first
    | exact hk | assumption | exact hm.regs (by decide) | exact hm.sub (by decide) | exact hm.one (by decide) |
      apply State.put_kept | apply State.ev_kept | apply State.cnt_kept | apply State.log_kept | extract_lets

theorem State.writeMemInject_kept {k : Kept} (s : State) (p : Path) (n : Nat) (v : Word) (lost : Bool) (hk :
    State.Keeps k s) (hm : k.Allows [.BOOT, .CAP, .FAB, .FRM, .GIO, .GLB, .LANE, .OBS, .PRS, .SECT, .SGC, .SWF,
    .fab]) :
    State.KeepsFst k (State.writeMemInject s p n v lost) := by
  unfold State.writeMemInject
  with_reducible repeat' first
    | exact hk | assumption | exact hm.regs (by decide) | exact hm.sub (by decide) | exact hm.one (by decide) |
      apply State.setMem_kept | apply State.put_kept | apply State.ev_kept | apply State.applyWrite_kept |
      apply State.guardWrite_kept | (refine Keeps.fst (by assumption) ?_) |
      (refine Keeps.snd (by assumption) ?_) | (intro _) | extract_lets | (dsimp -zeta only) | apply Keeps.of_fst |
      apply Keeps.of_snd | split | apply Keeps.pair | apply Keeps.pair'

theorem State.rclkChange_kept {k : Kept} (s : State) (n k_ was div : Nat) (hk : State.Keeps k s) (hm : k.Allows
    [.FAB, .fab]) :
    State.Keeps k (State.rclkChange s n k_ was div) := by
  unfold State.rclkChange
  with_reducible repeat' first
    | exact hk | assumption | exact hm.regs (by decide) | exact hm.sub (by decide) | exact hm.one (by decide) |
      apply State.put_kept | extract_lets | split | apply Keeps.upd_fab

theorem State.writeRclk_kept {k : Kept} (s : State) (p : Path) (n k_ : Nat) (v : Word) (hk : State.Keeps k s)
    (hm : k.Allows [.BOOT, .CAP, .FAB, .FRM, .GIO, .GLB, .LANE, .OBS, .PRS, .SECT, .SGC, .SWF, .fab]) :
    State.KeepsFst k (State.writeRclk s p n k_ v) := by
  unfold State.writeRclk
  with_reducible repeat' first
    | exact hk | assumption | exact hm.regs (by decide) | exact hm.sub (by decide) | exact hm.one (by decide) |
      apply State.rclkChange_kept | apply State.applyWrite_kept | apply State.guardWrite_kept | (intro _) |
      extract_lets | (dsimp -zeta only) | apply Keeps.of_fst | apply Keeps.of_snd | apply Keeps.pair |
      apply Keeps.pair'

theorem State.writeSectCtrl_kept {k : Kept} (s : State) (p : Path) (n : Nat) (v : Word) (hk : State.Keeps k s)
    (hm : k.Allows [.BOOT, .CAP, .FAB, .FRM, .GIO, .GLB, .LANE, .OBS, .PRS, .SECT, .SGC, .SWF]) :
    State.KeepsFst k (State.writeSectCtrl s p n v) := by
  unfold State.writeSectCtrl
  with_reducible repeat' first
    | exact hk | assumption | exact hm.regs (by decide) | exact hm.sub (by decide) | exact hm.one (by decide) |
      apply State.plainWrite_kept | (dsimp -zeta only) | apply Keeps.of_fst | apply Keeps.of_snd |
      apply Keeps.pair | apply Keeps.pair'

end Sys2Proof.Machine
end

