-- ==== Sys2Proof/Laws/KeepsRas.lean ====
section
/-! SUPPORT. Laws/KeepsRas.lean: the operations of Machine/Ras.lean keep what Laws/Keeps.lean says. -/
set_option Elab.async false  -- one proof at a time: the package as one text then needs less memory
namespace Sys2Proof.Machine

theorem State.mgmtFails_kept {k : Kept} (s : State) (hk : State.Keeps k s) (hm : k.Allows [.RAS, .ras]) :
    State.Keeps k (State.mgmtFails s) := by
  unfold State.mgmtFails
  with_reducible repeat' first
    | exact hk | assumption | exact hm.regs (by decide) | exact hm.sub (by decide) | exact hm.one (by decide) |
      apply State.put_kept | apply State.ev_kept | apply State.log_kept | apply State.fault_kept | extract_lets

theorem State.storeEntry_kept {k : Kept} (s : State) (e : LogEntry) (hk : State.Keeps k s) (hm : k.Allows [.RAS,
    .ras]) :
    State.Keeps k (State.storeEntry s e) := by
  unfold State.storeEntry
  with_reducible repeat' first
    | exact hk | assumption | exact hm.regs (by decide) | exact hm.sub (by decide) | exact hm.one (by decide) |
      apply State.setPair_kept | extract_lets | apply Keeps.upd_ras

theorem State.writeLog_kept {k : Kept} (s : State) (hk : State.Keeps k s) (hm : k.Allows [.CAP, .HIF, .OBS,
    .RAS, .SEC, .SWF, .cap, .coll, .free, .out, .ras, .swf, .tenants]) :
    State.Keeps k (State.writeLog s) := by
  unfold State.writeLog
  with_reducible repeat' first
    | exact hk | assumption | exact hm.regs (by decide) | exact hm.sub (by decide) | exact hm.one (by decide) |
      apply State.logRibbon_kept | apply State.when_kept | apply State.log_kept | apply State.storeEntry_kept |
      (refine Keeps.fst (by assumption) ?_) | (refine Keeps.snd (by assumption) ?_) | (intro _) | extract_lets |
      (dsimp -zeta only) | apply Keeps.of_fst | apply Keeps.of_snd | split | apply Keeps.pair |
      apply Keeps.pair' | apply Keeps.upd_ras

theorem State.commitLog_kept {k : Kept} (s : State) (hk : State.Keeps k s) (hm : k.Allows [.RAS, .ras]) :
    State.Keeps k (State.commitLog s) := by
  unfold State.commitLog
  with_reducible repeat' first
    | exact hk | assumption | exact hm.regs (by decide) | exact hm.sub (by decide) | exact hm.one (by decide) |
      apply State.each_kept | apply State.storeEntry_kept | (intro _) | extract_lets | (dsimp -zeta only) |
      apply Keeps.of_fst | apply Keeps.of_snd | apply Keeps.pair | apply Keeps.pair' | apply Keeps.upd_ras

theorem State.commitSeals_kept {k : Kept} (s : State) (hk : State.Keeps k s) (hm : k.Allows [.cap]) :
    State.Keeps k (State.commitSeals s) := by
  unfold State.commitSeals
  with_reducible repeat' first
    | exact hk | assumption | exact hm.regs (by decide) | exact hm.sub (by decide) | exact hm.one (by decide) |
      apply State.each_kept | (intro _) | extract_lets | (dsimp -zeta only) | apply Keeps.of_fst |
      apply Keeps.of_snd | apply Keeps.pair | apply Keeps.pair' | apply Keeps.upd_cap

theorem State.commitEntry_kept {k : Kept} (s : State) (code severity unit : Nat) (detail : List Nat) (hk :
    State.Keeps k s) (hm : k.Allows [.RAS, .ras]) :
    State.Keeps k (State.commitEntry s code severity unit detail) := by
  unfold State.commitEntry
  with_reducible repeat' first
    | exact hk | assumption | exact hm.regs (by decide) | exact hm.sub (by decide) | exact hm.one (by decide) |
      apply State.storeEntry_kept | extract_lets | apply Keeps.upd_ras

theorem State.readLogData_kept {k : Kept} (s : State) (p : Path) (hk : State.Keeps k s) (hm : k.Allows [.latch])
    :
    State.KeepsFst k (State.readLogData s p) := by
  unfold State.readLogData
  with_reducible repeat' first
    | exact hk | assumption | exact hm.regs (by decide) | exact hm.sub (by decide) | exact hm.one (by decide) |
      (refine Keeps.fst (by assumption) ?_) | (refine Keeps.snd (by assumption) ?_) | (intro _) | extract_lets |
      (dsimp -zeta only) | apply Keeps.of_fst | apply Keeps.of_snd | split | apply Keeps.pair |
      apply Keeps.pair' | apply Keeps.upd_latch

end Sys2Proof.Machine
end

