-- ==== Sys2Proof/Laws/KeepsSecurity.lean ====
section
/-! SUPPORT. Laws/KeepsSecurity.lean: the operations of Machine/Security.lean keep what Laws/Keeps.lean says. -/
set_option Elab.async false  -- one proof at a time: the package as one text then needs less memory
namespace Sys2Proof.Machine

theorem State.setKey_kept {k : Kept} (s : State) (t : Nat) (k_ : Option Nat) (hk : State.Keeps k s) (hm :
    k.Allows [.SEC, .sec]) :
    State.Keeps k (State.setKey s t k_) := by
  unfold State.setKey
  with_reducible repeat' first
    | exact hk | assumption | exact hm.regs (by decide) | exact hm.sub (by decide) | exact hm.one (by decide) |
      apply State.put_kept | (refine Keeps.fst (by assumption) ?_) | (refine Keeps.snd (by assumption) ?_) |
      extract_lets | (dsimp -zeta only) | apply Keeps.of_fst | apply Keeps.of_snd | split | apply Keeps.pair |
      apply Keeps.pair' | apply Keeps.upd_sec

theorem State.setStaged_kept {k : Kept} (s : State) (t : Nat) (k_ : Option Nat) (hk : State.Keeps k s) (hm :
    k.Allows [.SEC, .sec]) :
    State.Keeps k (State.setStaged s t k_) := by
  unfold State.setStaged
  with_reducible repeat' first
    | exact hk | assumption | exact hm.regs (by decide) | exact hm.sub (by decide) | exact hm.one (by decide) |
      apply State.put_kept | extract_lets | apply Keeps.upd_sec

theorem State.rekeyQueue_kept {k : Kept} (s : State) (q : List Nat) (hk : State.Keeps k s) (hm : k.Allows [.SEC,
    .sec]) :
    State.Keeps k (State.rekeyQueue s q) := by
  unfold State.rekeyQueue
  with_reducible repeat' first
    | exact hk | assumption | exact hm.regs (by decide) | exact hm.sub (by decide) | exact hm.one (by decide) |
      apply State.put_kept | extract_lets | apply Keeps.upd_sec

theorem State.setBoundary_kept {k : Kept} (s : State) (t b : Nat) (hk : State.Keeps k s) (hm : k.Allows [.SEC,
    .sec]) :
    State.Keeps k (State.setBoundary s t b) := by
  unfold State.setBoundary
  with_reducible repeat' first
    | exact hk | assumption | exact hm.regs (by decide) | exact hm.sub (by decide) | exact hm.one (by decide) |
      apply State.setPair_kept | extract_lets | split | apply Keeps.upd_sec

theorem State.rekeyIdle_kept {k : Kept} (s : State) (t : Nat) (hk : State.Keeps k s) (hm : k.Allows [.PWR, .SEC,
    .sec]) :
    State.Keeps k (State.rekeyIdle s t) := by
  unfold State.rekeyIdle
  with_reducible repeat' first
    | exact hk | assumption | exact hm.regs (by decide) | exact hm.sub (by decide) | exact hm.one (by decide) |
      apply State.recast_kept | apply State.put_kept | apply State.setBoundary_kept | extract_lets | split

theorem State.drbg_kept {k : Kept} (s : State) (d : Desc) (f : State → State) (hk : State.Keeps k s) (hk_f : ∀
    s, State.Keeps k s → State.Keeps k (f s)) (hm : k.Allows [.HIF, .out, .tenants]) :
    State.Keeps k (State.drbg s d f) := by
  unfold State.drbg
  with_reducible repeat' first
    | exact hk | assumption | exact hm.regs (by decide) | exact hm.sub (by decide) | apply State.refuse_kept |
      apply hk_f | (intro _) | (dsimp -zeta only) | apply Keeps.of_fst | apply Keeps.of_snd | split |
      apply Keeps.pair | apply Keeps.pair'

theorem State.releaseTenant_kept {k : Kept} (s : State) (t : Nat) (hk : State.Keeps k s) (hm : k.Allows [.CAP,
    .cap]) :
    State.Keeps k (State.releaseTenant s t) := by
  unfold State.releaseTenant
  with_reducible repeat' first
    | exact hk | assumption | exact hm.regs (by decide) | exact hm.sub (by decide) |
      apply State.releaseQuire_kept | apply State.each_kept | apply State.releaseCapture_kept | (intro _) |
      extract_lets | (dsimp -zeta only) | apply Keeps.of_fst | apply Keeps.of_snd | apply Keeps.pair |
      apply Keeps.pair'

theorem State.zeroise_kept {k : Kept} (s : State) (t : Nat) (hk : State.Keeps k s) (hm : k.Allows [.CAP, .HIF,
    .PWR, .SEC, .cap, .coll, .colo, .out, .sec, .tenants]) :
    State.Keeps k (State.zeroise s t) := by
  unfold State.zeroise
  with_reducible repeat' first
    | exact hk | assumption | exact hm.regs (by decide) | exact hm.sub (by decide) | exact hm.one (by decide) |
      apply State.put_kept | apply State.ev_kept | apply State.when_kept | apply State.endTenantSess_kept |
      apply State.setKey_kept | apply State.setStaged_kept | apply State.rekeyQueue_kept |
      apply State.rekeyIdle_kept | apply State.releaseTenant_kept | (intro _) | extract_lets |
      (dsimp -zeta only) | apply Keeps.of_fst | apply Keeps.of_snd | apply Keeps.pair | apply Keeps.pair' |
      apply Keeps.upd_colo

theorem State.rekeyDone_kept {k : Kept} (s : State) (t : Nat) (hk : State.Keeps k s) (hm : k.Allows [.PWR, .SEC,
    .cap, .colo, .sec]) :
    State.Keeps k (State.rekeyDone s t) := by
  unfold State.rekeyDone
  with_reducible repeat' first
    | exact hk | assumption | exact hm.regs (by decide) | exact hm.sub (by decide) | exact hm.one (by decide) |
      apply State.put_kept | apply State.ev_kept | apply State.when_kept | apply State.setKey_kept |
      apply State.setStaged_kept | apply State.rekeyIdle_kept | (intro _) | extract_lets | (dsimp -zeta only) |
      apply Keeps.of_fst | apply Keeps.of_snd | split | apply Keeps.pair | apply Keeps.pair' |
      apply Keeps.upd_colo | apply Keeps.upd_cap

theorem State.rekeyLeaf_kept {k : Kept} (s : State) (n : Nat) (hk : State.Keeps k s) (hm : k.Allows [.cap]) :
    State.Keeps k (State.rekeyLeaf s n) := by
  unfold State.rekeyLeaf
  with_reducible repeat' first
    | exact hk | assumption | exact hm.regs (by decide) | exact hm.sub (by decide) |
      apply State.setQuireLive_kept | (intro _) | extract_lets | (dsimp -zeta only) | apply Keeps.of_fst |
      apply Keeps.of_snd | apply Keeps.pair | apply Keeps.pair'

theorem State.sealHeld_kept {k : Kept} (s : State) (n : Nat) (hk : State.Keeps k s) (hm : k.Allows [.CAP, .RAS,
    .SEC, .SWF, .cap, .coll, .free, .ras, .swf]) :
    State.Keeps k (State.sealHeld s n) := by
  unfold State.sealHeld
  with_reducible repeat' first
    | exact hk | assumption | exact hm.regs (by decide) | exact hm.sub (by decide) | apply State.closeLeaf_kept |
      split

theorem State.openPat_kept {k : Kept} (s : State) (n : Nat) (hk : State.Keeps k s) (hm : k.Allows [.CAP, .HIF,
    .RAS, .SEC, .cap, .free, .out, .ras, .tenants]) :
    State.KeepsFst k (State.openPat s n) := by
  unfold State.openPat
  repeat' first
    | with_reducible exact hk
    | with_reducible assumption
    | with_reducible exact hm.regs (by decide)
    | with_reducible exact hm.sub (by decide)
    | with_reducible apply State.ensureLeaf_kept
    | with_reducible refine Keeps.fst (by with_reducible assumption) ?_
    | with_reducible refine Keeps.snd (by with_reducible assumption) ?_
    | (intro _)
    | (dsimp only)
    | (simp -zeta only [id_eq])
    | with_reducible apply Keeps.of_fst
    | with_reducible apply Keeps.of_snd
    | with_reducible apply Keeps.foldl
    | with_reducible apply Keeps.foldl_fst
    | (split)
    | with_reducible apply Keeps.pair
    | with_reducible apply Keeps.pair'
    | with_reducible refine Keeps.upd_any hm ?_

theorem State.padPat_kept {k : Kept} (s : State) (n a : Nat) (hk : State.Keeps k s) (hm : k.Allows [.CAP, .HIF,
    .RAS, .SEC, .SWF, .cap, .coll, .free, .out, .ras, .swf, .tenants]) :
    State.KeepsFst k (State.padPat s n a) := by
  unfold State.padPat
  with_reducible repeat' first
    | exact hk | assumption | exact hm.regs (by decide) | exact hm.sub (by decide) | apply State.ok_kept |
      apply State.sealHeld_kept | apply State.openPat_kept | (refine Keeps.fst (by assumption) ?_) |
      (refine Keeps.snd (by assumption) ?_) | (intro _) | extract_lets | (dsimp -zeta only) | apply Keeps.of_fst |
      apply Keeps.of_snd | apply Keeps.foldl | apply Keeps.foldl_fst | split | apply Keeps.pair |
      apply Keeps.pair'

theorem State.patNew_kept {k : Kept} (s : State) (n p : Nat) (bs : List (BitVec 8)) (hk : State.Keeps k s) (hm :
    k.Allows [.CAP, .HIF, .RAS, .SEC, .SWF, .cap, .coll, .free, .out, .ras, .swf, .tenants]) :
    State.KeepsFst k (State.patNew s n p bs) := by
  unfold State.patNew
  with_reducible repeat' first
    | exact hk | assumption | exact hm.regs (by decide) | exact hm.sub (by decide) | apply State.setStrm_kept |
      apply State.closeLeaf_kept | apply State.ok_kept | apply State.openPat_kept |
      (refine Keeps.fst (by assumption) ?_) | (refine Keeps.snd (by assumption) ?_) | extract_lets |
      (dsimp -zeta only) | apply Keeps.of_fst | apply Keeps.of_snd | split | apply Keeps.pair |
      apply Keeps.pair'

theorem State.patOld_kept {k : Kept} (s : State) (q i p : Nat) (bs : List (BitVec 8)) (bad : Bool) (hk :
    State.Keeps k s) (hm : k.Allows [.CAP, .HIF, .RAS, .SEC, .cap, .out, .ras, .tenants]) :
    State.KeepsFst k (State.patOld s q i p bs bad) := by
  unfold State.patOld
  with_reducible repeat' first
    | exact hk | assumption | exact hm.regs (by decide) | exact hm.sub (by decide) | exact hm.one (by decide) |
      apply State.setQuireLive_kept | apply State.countUp_kept | apply State.keyExhaust_kept |
      apply State.cnt_kept | (intro _) | extract_lets | (dsimp -zeta only) | apply Keeps.of_fst |
      apply Keeps.of_snd | split | apply Keeps.pair | apply Keeps.pair'

theorem State.patPiece_kept {k : Kept} (s : State) (n : Nat) (bad : Bool) (c : Nat × Nat × List (BitVec 8)) (hk
    : State.Keeps k s) (hm : k.Allows [.CAP, .HIF, .RAS, .SEC, .SWF, .cap, .coll, .free, .out, .ras, .swf,
    .tenants]) :
    State.KeepsFst k (State.patPiece s n bad c) := by
  unfold State.patPiece
  repeat' first
    | with_reducible exact hk
    | with_reducible assumption
    | with_reducible exact hm.regs (by decide)
    | with_reducible exact hm.sub (by decide)
    | with_reducible apply State.ok_kept
    | with_reducible apply State.sealHeld_kept
    | with_reducible apply State.padPat_kept
    | with_reducible apply State.patNew_kept
    | with_reducible apply State.patOld_kept
    | with_reducible refine Keeps.fst (by with_reducible assumption) ?_
    | with_reducible refine Keeps.snd (by with_reducible assumption) ?_
    | (intro _)
    | (dsimp only)
    | (simp -zeta only [id_eq])
    | with_reducible apply Keeps.of_fst
    | with_reducible apply Keeps.of_snd
    | with_reducible apply Keeps.foldl
    | with_reducible apply Keeps.foldl_fst
    | (split)
    | with_reducible apply Keeps.pair
    | with_reducible apply Keeps.pair'
    | with_reducible refine Keeps.upd_any hm ?_

theorem State.writeSecCtrl_kept {k : Kept} (s : State) (p : Path) (v : Word) (hk : State.Keeps k s) (hm :
    k.Allows [.BOOT, .CAP, .FAB, .FRM, .GIO, .GLB, .LANE, .OBS, .PRS, .SEC, .SECT, .SGC, .SWF]) :
    State.KeepsFst k (State.writeSecCtrl s p v) := by
  unfold State.writeSecCtrl
  with_reducible repeat' first
    | exact hk | assumption | exact hm.regs (by decide) | exact hm.sub (by decide) | exact hm.one (by decide) |
      apply State.put_kept | apply State.applyWrite_kept | apply State.guardWrite_kept | (intro _) |
      extract_lets | (dsimp -zeta only) | apply Keeps.of_fst | apply Keeps.of_snd | apply Keeps.pair |
      apply Keeps.pair'

theorem State.writeRingKey_kept {k : Kept} (s : State) (p : Path) (i : Nat) (v : Word) (hk : State.Keeps k s)
    (hm : k.Allows [.BOOT, .CAP, .FAB, .FRM, .GIO, .GLB, .LANE, .OBS, .PRS, .SEC, .SECT, .SGC, .SWF, .sec]) :
    State.KeepsFst k (State.writeRingKey s p i v) := by
  unfold State.writeRingKey
  with_reducible repeat' first
    | exact hk | assumption | exact hm.regs (by decide) | exact hm.sub (by decide) | exact hm.one (by decide) |
      apply State.setWord_kept | apply State.put_kept | apply State.err_kept | apply State.guardWrite_kept |
      (intro _) | extract_lets | (dsimp -zeta only) | apply Keeps.of_fst | apply Keeps.of_snd | split |
      apply Keeps.pair | apply Keeps.pair' | apply Keeps.upd_sec

end Sys2Proof.Machine
end

