-- ==== Sys2Proof/Laws/KeepsPower.lean ====
section
/-! SUPPORT. Laws/KeepsPower.lean: the operations of Machine/Power.lean keep what Laws/Keeps.lean says. -/
set_option Elab.async false  -- one proof at a time: the package as one text then needs less memory
namespace Sys2Proof.Machine

theorem State.fenceBegin_kept {k : Kept} (s : State) (n to' : Nat) (hk : State.Keeps k s) (hm : k.Allows [.FAB,
    .swf]) :
    State.Keeps k (State.fenceBegin s n to') := by
  unfold State.fenceBegin
  with_reducible repeat' first
    | exact hk | assumption | exact hm.regs (by decide) | exact hm.sub (by decide) | apply State.sectStop_kept |
      (refine Keeps.fst (by assumption) ?_) | (refine Keeps.snd (by assumption) ?_) | extract_lets |
      (dsimp -zeta only) | apply Keeps.of_fst | apply Keeps.of_snd | split | apply Keeps.pair |
      apply Keeps.pair'

theorem State.abandonLoads_kept {k : Kept} (s : State) (i : Nat) (hk : State.Keeps k s) (hm : k.Allows [.FAB,
    .HIF, .fab, .out, .swf, .tenants]) :
    State.Keeps k (State.abandonLoads s i) := by
  unfold State.abandonLoads
  with_reducible repeat' first
    | exact hk | assumption | exact hm.regs (by decide) | exact hm.sub (by decide) | exact hm.one (by decide) |
      apply State.sectClear_kept | apply State.each_kept | apply State.complete_kept | (intro _) | extract_lets |
      (dsimp -zeta only) | apply Keeps.of_fst | apply Keeps.of_snd | apply Keeps.pair | apply Keeps.pair' |
      apply Keeps.upd_fab

theorem State.fenceEnd_kept {k : Kept} (s : State) (n : Nat) (hk : State.Keeps k s) (hm : k.Allows [.BRY, .CAP,
    .CLK, .FAB, .HIF, .LANE, .NOC, .PRS, .RAS, .SEC, .SECT, .SWF, .bry, .cap, .clk, .coll, .fab, .free, .lanes,
    .noc, .out, .press, .ras, .swf, .tenants, .trig]) :
    State.Keeps k (State.fenceEnd s n) := by
  unfold State.fenceEnd
  with_reducible repeat' first
    | exact hk | assumption | exact hm.regs (by decide) | exact hm.sub (by decide) | exact hm.one (by decide) |
      apply State.ringState_kept | apply State.portDown_kept | apply State.spill_kept | apply State.setSect_kept |
      apply State.sectWake_kept | apply State.sectStop_kept | apply State.sectStopped_kept |
      apply State.disableLane_kept | apply State.probeEnd_kept | apply State.put_kept | apply State.ev_kept |
      apply State.each_kept | apply State.abandonLoads_kept | (refine Keeps.fst (by assumption) ?_) |
      (refine Keeps.snd (by assumption) ?_) | (intro _) | extract_lets | (dsimp -zeta only) | apply Keeps.of_fst |
      apply Keeps.of_snd | split | apply Keeps.pair | apply Keeps.pair' | apply Keeps.upd_noc

theorem State.sectorLost_kept {k : Kept} (s : State) (i : Nat) (hk : State.Keeps k s) (hm : k.All) :
    State.Keeps k (State.sectorLost s i) := by
  unfold State.sectorLost
  extract_lets t held mine u
  have ht : State.Keeps k t := by
    apply State.each_kept _ _ _ hk
    intro s j hs
    apply State.laneReset_kept <;> first | assumption | exact hm.sub | exact hm
  clear_value held t
  have hu : State.Keeps k u := Keeps.upd_all hm (fun e => Tbl.wf_filter _ _ _ e) id rfl ht
  apply State.each_kept _ _ _ hu
  intro s h hs
  exact State.put_kept _ _ _ _ _ _ (State.setWord_kept _ _ _ _ _ _ hs (hm.regs)) (hm.regs)

theorem State.clusterUp_kept {k : Kept} (s : State) (i : Nat) (lost : Bool) (hk : State.Keeps k s) (hm :
    k.Allows [.SGC, .cores]) :
    State.Keeps k (State.clusterUp s i lost) := by
  unfold State.clusterUp
  with_reducible repeat' first
    | exact hk | assumption | exact hm.regs (by decide) | exact hm.sub (by decide) | apply State.setCore_kept |
      apply State.setCoreState_kept | apply State.each_kept | (intro _) | extract_lets | (dsimp -zeta only) |
      apply Keeps.of_fst | apply Keeps.of_snd | split | apply Keeps.pair | apply Keeps.pair'

theorem State.domEffect_kept {k : Kept} (s : State) (n from' to' : Nat) (hk : State.Keeps k s) (hm : k.All) :
    State.Keeps k (State.domEffect s n from' to') := by
  unfold State.domEffect
  with_reducible repeat' first
    | exact hk | assumption | exact hm.regs | exact hm.one _ | exact hm.sub | apply State.setPort_kept |
      apply State.setCoreState_kept | apply State.endpaper_kept | apply State.sectInit_kept |
      apply State.sectBlank_kept | apply State.sectClear_kept | apply State.put_kept | apply State.when_kept |
      apply State.each_kept | apply State.sectorLost_kept | apply State.clusterUp_kept |
      (refine Keeps.fst (by assumption) ?_) | (refine Keeps.snd (by assumption) ?_) | (intro _) | extract_lets |
      (dsimp -zeta only) | apply Keeps.of_fst | apply Keeps.of_snd | split | apply Keeps.pair |
      apply Keeps.pair' | apply Keeps.upd_noc | (refine Keeps.all_plain hm ?_)

theorem State.voteCmd_kept {k : Kept} (s : State) (result : Nat) (hk : State.Keeps k s) (hm : k.Allows [.PWR]) :
    State.Keeps k (State.voteCmd s result) := by
  unfold State.voteCmd
  with_reducible repeat' first
    | exact hk | assumption | exact hm.regs (by decide) | exact hm.sub (by decide) | exact hm.one (by decide) |
      apply State.put_kept

theorem State.voteDone_kept {k : Kept} (s : State) (d : Option Desc) (st : Nat) (hk : State.Keeps k s) (hm :
    k.Allows [.HIF, .PWR, .out, .tenants]) :
    State.Keeps k (State.voteDone s d st) := by
  unfold State.voteDone
  with_reducible repeat' first
    | exact hk | assumption | exact hm.regs (by decide) | exact hm.sub (by decide) | apply State.ok_kept |
      apply State.voteCmd_kept | (refine Keeps.fst (by assumption) ?_) | (refine Keeps.snd (by assumption) ?_) |
      (dsimp -zeta only) | apply Keeps.of_fst | apply Keeps.of_snd | split | apply Keeps.pair |
      apply Keeps.pair'

theorem State.votesDone_kept {k : Kept} (s : State) (n : Nat) (hk : State.Keeps k s) (hm : k.Allows [.HIF, .PWR,
    .out, .pwr, .tenants]) :
    State.Keeps k (State.votesDone s n) := by
  unfold State.votesDone
  with_reducible repeat' first
    | exact hk | assumption | exact hm.regs (by decide) | exact hm.sub (by decide) | exact hm.one (by decide) |
      apply State.each_kept | apply State.voteDone_kept | (intro _) | extract_lets | (dsimp -zeta only) |
      apply Keeps.of_fst | apply Keeps.of_snd | apply Keeps.pair | apply Keeps.pair' | apply Keeps.upd_pwr

theorem State.domChange_kept {k : Kept} (s : State) (n st to' : Nat) (hk : State.Keeps k s) (hm : k.Allows
    [.FAB, .PWR, .pwr, .swf]) :
    State.Keeps k (State.domChange s n st to') := by
  unfold State.domChange
  with_reducible repeat' first
    | exact hk | assumption | exact hm.regs (by decide) | exact hm.sub (by decide) | exact hm.one (by decide) |
      apply State.put_kept | apply State.clr_kept | apply State.when_kept | apply State.fenceBegin_kept |
      (intro _) | extract_lets | (dsimp -zeta only) | apply Keeps.of_fst | apply Keeps.of_snd | apply Keeps.pair |
      apply Keeps.pair' | apply Keeps.upd_pwr

theorem State.domMove_kept {k : Kept} (s : State) (n : Nat) (hk : State.Keeps k s) (hm : k.Allows [.FAB, .HIF,
    .PWR, .out, .pwr, .swf, .tenants]) :
    State.Keeps k (State.domMove s n) := by
  unfold State.domMove
  with_reducible repeat' first
    | exact hk | assumption | exact hm.regs (by decide) | exact hm.sub (by decide) | exact hm.one (by decide) |
      apply State.clr_kept | apply State.votesDone_kept | apply State.domChange_kept | extract_lets | split

theorem State.drive_kept {k : Kept} (s : State) (n : Nat) (hk : State.Keeps k s) (hm : k.Allows [.FAB, .HIF,
    .PWR, .out, .pwr, .swf, .tenants]) :
    State.Keeps k (State.drive s n) := by
  unfold State.drive
  with_reducible repeat' first
    | exact hk | assumption | exact hm.regs (by decide) | exact hm.sub (by decide) | exact hm.one (by decide) |
      apply State.put_kept | apply State.domMove_kept | extract_lets | split | apply Keeps.upd_pwr

theorem State.setVote_kept {k : Kept} (s : State) (n t v : Nat) (hk : State.Keeps k s) (hm : k.Allows [.PWR,
    .pwr]) :
    State.Keeps k (State.setVote s n t v) := by
  unfold State.setVote
  with_reducible repeat' first
    | exact hk | assumption | exact hm.regs (by decide) | exact hm.sub (by decide) | exact hm.one (by decide) |
      apply State.put_kept | apply State.resolve_kept | extract_lets | split | apply Keeps.upd_pwr

theorem State.voteRefused_kept {k : Kept} (s : State) (d : Option Desc) (st : Nat) (hk : State.Keeps k s) (hm :
    k.Allows [.HIF, .PWR, .out, .tenants]) :
    State.Keeps k (State.voteRefused s d st) := by
  unfold State.voteRefused
  with_reducible repeat' first
    | exact hk | assumption | exact hm.regs (by decide) | exact hm.sub (by decide) | exact hm.one (by decide) |
      apply State.ev_kept | apply State.refuse_kept | apply State.voteCmd_kept |
      (refine Keeps.fst (by assumption) ?_) | (refine Keeps.snd (by assumption) ?_) | extract_lets |
      (dsimp -zeta only) | apply Keeps.of_fst | apply Keeps.of_snd | split | apply Keeps.pair |
      apply Keeps.pair'

theorem State.castVote_kept {k : Kept} (s : State) (n t v : Nat) (overCap : Bool) (d : Option Desc) (hk :
    State.Keeps k s) (hm : k.Allows [.FAB, .HIF, .PWR, .out, .pwr, .swf, .tenants]) :
    State.Keeps k (State.castVote s n t v overCap d) := by
  unfold State.castVote
  with_reducible repeat' first
    | exact hk | assumption | exact hm.regs (by decide) | exact hm.sub (by decide) | exact hm.one (by decide) |
      apply State.drive_kept | apply State.setVote_kept | apply State.voteRefused_kept | extract_lets | split |
      apply Keeps.upd_pwr

theorem State.voteEnds_kept {k : Kept} (s : State) (n : Nat) (hk : State.Keeps k s) (hm : k.Allows [.FAB, .HIF,
    .PWR, .out, .pwr, .swf, .tenants]) :
    State.Keeps k (State.voteEnds s n) := by
  unfold State.voteEnds
  with_reducible repeat' first
    | exact hk | assumption | exact hm.regs (by decide) | exact hm.sub (by decide) | exact hm.one (by decide) |
      apply State.ev_kept | apply State.resolve_kept | apply State.drive_kept | extract_lets | split

theorem State.voteBorn_kept {k : Kept} (s : State) (t n : Nat) (hk : State.Keeps k s) (hm : k.Allows [.PWR,
    .pwr]) :
    State.Keeps k (State.voteBorn s t n) := by
  unfold State.voteBorn
  with_reducible repeat' first
    | exact hk | assumption | exact hm.regs (by decide) | exact hm.sub (by decide) | apply State.setVote_kept |
      split

theorem State.voteGone_kept {k : Kept} (s : State) (t n : Nat) (hk : State.Keeps k s) (hm : k.Allows [.FAB,
    .HIF, .PWR, .out, .pwr, .swf, .tenants]) :
    State.Keeps k (State.voteGone s t n) := by
  unfold State.voteGone
  with_reducible repeat' first
    | exact hk | assumption | exact hm.regs (by decide) | exact hm.sub (by decide) | exact hm.one (by decide) |
      apply State.voteEnds_kept | extract_lets | split | apply Keeps.upd_pwr

theorem State.banksFollow_kept {k : Kept} (s : State) (n : Nat) (hk : State.Keeps k s) (hm : k.Allows [.FAB,
    .HIF, .PWR, .out, .pwr, .swf, .tenants]) :
    State.Keeps k (State.banksFollow s n) := by
  unfold State.banksFollow
  with_reducible repeat' first
    | exact hk | assumption | exact hm.regs (by decide) | exact hm.sub (by decide) | apply State.each_kept |
      apply State.drive_kept | (intro _) | (dsimp -zeta only) | apply Keeps.of_fst | apply Keeps.of_snd | split |
      apply Keeps.pair | apply Keeps.pair'

theorem State.domSettle_kept {k : Kept} (s : State) (n to' : Nat) (hk : State.Keeps k s) (hm : k.All) :
    State.Keeps k (State.domSettle s n to') := by
  unfold State.domSettle
  with_reducible repeat' first
    | exact hk | assumption | exact hm.regs | exact hm.one _ | exact hm.sub | apply State.each_kept |
      apply State.domReach_kept | apply State.domEffect_kept | apply State.domMove_kept |
      apply State.castVote_kept | apply State.banksFollow_kept | (intro _) | extract_lets | (dsimp -zeta only) |
      apply Keeps.of_fst | apply Keeps.of_snd | apply Keeps.pair | apply Keeps.pair' | apply Keeps.upd_pwr |
      (refine Keeps.all_plain hm ?_)

theorem State.setDev_kept {k : Kept} (s : State) (st : Nat) (hk : State.Keeps k s) (hm : k.Allows [.PWR]) :
    State.Keeps k (State.setDev s st) := by
  unfold State.setDev
  with_reducible repeat' first
    | exact hk | assumption | exact hm.regs (by decide) | exact hm.sub (by decide) | exact hm.one (by decide) |
      apply State.put_kept

theorem State.devResult_kept {k : Kept} (s : State) (d : Option Desc) (status result : Nat) (value : Nat) (hk :
    State.Keeps k s) (hm : k.Allows [.HIF, .PWR, .out, .tenants]) :
    State.Keeps k (State.devResult s d status result value) := by
  unfold State.devResult
  with_reducible repeat' first
    | exact hk | assumption | exact hm.regs (by decide) | exact hm.sub (by decide) | exact hm.one (by decide) |
      apply State.put_kept | apply State.complete_kept | (refine Keeps.fst (by assumption) ?_) |
      (refine Keeps.snd (by assumption) ?_) | (dsimp -zeta only) | apply Keeps.of_fst | apply Keeps.of_snd |
      split | apply Keeps.pair | apply Keeps.pair'

theorem State.devRequest_kept {k : Kept} (s : State) (target : Nat) (d : Option Desc) (hk : State.Keeps k s) (hm
    : k.Allows [.DBG, .FAB, .HIF, .PWR, .out, .pwr, .swf, .tenants]) :
    State.Keeps k (State.devRequest s target d) := by
  unfold State.devRequest
  with_reducible repeat' first
    | exact hk | assumption | exact hm.regs (by decide) | exact hm.sub (by decide) | exact hm.one (by decide) |
      apply State.put_kept | apply State.ev_kept | apply State.when_kept | apply State.each_kept |
      apply State.domChange_kept | apply State.setDev_kept | apply State.devResult_kept | (intro _) |
      extract_lets | (dsimp -zeta only) | apply Keeps.of_fst | apply Keeps.of_snd | split | apply Keeps.pair |
      apply Keeps.pair' | apply Keeps.upd_pwr

theorem State.writeDevCtrl_kept {k : Kept} (s : State) (p : Path) (v : Word) (hk : State.Keeps k s) (hm :
    k.Allows [.BOOT, .CAP, .DBG, .FAB, .FRM, .GIO, .GLB, .HIF, .LANE, .OBS, .PRS, .PWR, .SECT, .SGC, .SWF, .out,
    .pwr, .swf, .tenants]) :
    State.KeepsFst k (State.writeDevCtrl s p v) := by
  unfold State.writeDevCtrl
  with_reducible repeat' first
    | exact hk | assumption | exact hm.regs (by decide) | exact hm.sub (by decide) | exact hm.one (by decide) |
      apply State.put_kept | apply State.ev_kept | apply State.devResult_kept | apply State.devRequest_kept |
      apply State.applyWrite_kept | apply State.guardWrite_kept | (intro _) | extract_lets | (dsimp -zeta only) |
      apply Keeps.of_fst | apply Keeps.of_snd | split | apply Keeps.pair | apply Keeps.pair'

theorem State.devDescriptor_kept {k : Kept} (s : State) (d : Desc) (target : Nat) (hk : State.Keeps k s) (hm :
    k.Allows [.DBG, .FAB, .HIF, .PWR, .out, .pwr, .swf, .tenants]) :
    State.Keeps k (State.devDescriptor s d target) := by
  unfold State.devDescriptor
  with_reducible repeat' first
    | exact hk | assumption | exact hm.regs (by decide) | exact hm.sub (by decide) | apply State.descriptor_kept |
      apply State.devRequest_kept | (intro _) | (dsimp -zeta only) | apply Keeps.of_fst | apply Keeps.of_snd |
      apply Keeps.pair | apply Keeps.pair'

theorem State.devAsk_kept {k : Kept} (s : State) (src : Source) (target : Nat) (hk : State.Keeps k s) (hm :
    k.Allows [.BOOT, .CAP, .DBG, .FAB, .FRM, .GIO, .GLB, .HIF, .LANE, .OBS, .PRS, .PWR, .SECT, .SGC, .SWF, .out,
    .pwr, .swf, .tenants]) :
    State.Keeps k (State.devAsk s src target) := by
  unfold State.devAsk
  with_reducible repeat' first
    | exact hk | assumption | exact hm.regs (by decide) | exact hm.sub (by decide) |
      apply State.writeDevCtrl_kept | apply State.devDescriptor_kept | (refine Keeps.fst (by assumption) ?_) |
      (refine Keeps.snd (by assumption) ?_) | (dsimp -zeta only) | apply Keeps.of_fst | apply Keeps.of_snd |
      split | apply Keeps.pair | apply Keeps.pair'

theorem State.writeVoteCmd_kept {k : Kept} (s : State) (p : Path) (v : Word) (overCap : Bool) (hk : State.Keeps
    k s) (hm : k.Allows [.BOOT, .CAP, .FAB, .FRM, .GIO, .GLB, .HIF, .LANE, .OBS, .PRS, .PWR, .SECT, .SGC, .SWF,
    .out, .pwr, .swf, .tenants]) :
    State.KeepsFst k (State.writeVoteCmd s p v overCap) := by
  unfold State.writeVoteCmd
  with_reducible repeat' first
    | exact hk | assumption | exact hm.regs (by decide) | exact hm.sub (by decide) | exact hm.one (by decide) |
      apply State.ev_kept | apply State.voteCmd_kept | apply State.castVote_kept | apply State.applyWrite_kept |
      apply State.guardWrite_kept | (intro _) | extract_lets | (dsimp -zeta only) | apply Keeps.of_fst |
      apply Keeps.of_snd | split | apply Keeps.pair | apply Keeps.pair'

theorem State.domsReturn_kept {k : Kept} (s : State) (hk : State.Keeps k s) (hm : k.All) :
    State.Keeps k (State.domsReturn s) := by
  unfold State.domsReturn
  with_reducible repeat' first
    | exact hk | assumption | exact hm.regs | exact hm.one _ | exact hm.sub | apply State.each_kept |
      apply State.domSettle_kept | (intro _) | extract_lets | (dsimp -zeta only) | apply Keeps.of_fst |
      apply Keeps.of_snd | split | apply Keeps.pair | apply Keeps.pair' | apply Keeps.upd_pwr |
      (refine Keeps.all_plain hm ?_)

theorem State.flush_kept {k : Kept} (s : State) (phases seals logs : Nat) (hk : State.Keeps k s) (hm : k.Allows
    [.RAS, .colo, .ras]) :
    State.Keeps k (State.flush s phases seals logs) := by
  unfold State.flush
  with_reducible repeat' first
    | exact hk | assumption | exact hm.regs (by decide) | exact hm.sub (by decide) | exact hm.one (by decide) |
      apply State.each_kept | apply State.ok_kept | apply State.commitEntry_kept | (intro _) | extract_lets |
      (dsimp -zeta only) | apply Keeps.of_fst | apply Keeps.of_snd | split | apply Keeps.pair |
      apply Keeps.pair' | apply Keeps.upd_colo

theorem State.offCommit_kept {k : Kept} (s : State) (phases : Nat) (hk : State.Keeps k s) (hm : k.Allows [.RAS,
    .cap, .colo, .ras, .sec]) :
    State.Keeps k (State.offCommit s phases) := by
  unfold State.offCommit
  with_reducible repeat' first
    | exact hk | assumption | exact hm.regs (by decide) | exact hm.sub (by decide) | exact hm.one (by decide) |
      apply State.flush_kept | apply State.commitLog_kept | apply State.commitSeals_kept | extract_lets |
      apply Keeps.upd_sec

theorem State.goOff_kept {k : Kept} (s : State) (hk : State.Keeps k s) (hm : k.Allows [.PWR, .pwr]) :
    State.Keeps k (State.goOff s) := by
  unfold State.goOff
  with_reducible repeat' first
    | exact hk | assumption | exact hm.regs (by decide) | exact hm.sub (by decide) | exact hm.one (by decide) |
      apply State.put_kept | apply State.each_kept | (intro _) | extract_lets | (dsimp -zeta only) |
      apply Keeps.of_fst | apply Keeps.of_snd | apply Keeps.pair | apply Keeps.pair' | apply Keeps.upd_pwr

theorem State.exitBegin_kept {k : Kept} (s : State) (hk : State.Keeps k s) (hm : k.Allows [.PWR]) :
    State.Keeps k (State.exitBegin s) := by
  unfold State.exitBegin
  with_reducible repeat' first
    | exact hk | assumption | exact hm.regs (by decide) | exact hm.sub (by decide) | apply State.setDev_kept

theorem State.wakeUp_kept {k : Kept} (s : State) (cause pin : Nat) (hk : State.Keeps k s) (hm : k.Allows [.DBG,
    .FAB, .HIF, .PWR, .out, .pwr, .swf, .tenants]) :
    State.Keeps k (State.wakeUp s cause pin) := by
  unfold State.wakeUp
  with_reducible repeat' first
    | exact hk | assumption | exact hm.regs (by decide) | exact hm.sub (by decide) | exact hm.one (by decide) |
      apply State.put_kept | apply State.ev_kept | apply State.clr_kept | apply State.when_kept |
      apply State.each_kept | apply State.drive_kept | apply State.setDev_kept | apply State.devResult_kept |
      apply State.exitBegin_kept | (refine Keeps.fst (by assumption) ?_) | (refine Keeps.snd (by assumption) ?_) |
      (intro _) | extract_lets | (dsimp -zeta only) | apply Keeps.of_fst | apply Keeps.of_snd | split |
      apply Keeps.pair | apply Keeps.pair' | apply Keeps.upd_pwr

end Sys2Proof.Machine
end

