-- ==== Sys2Proof/Laws/KeepsBoot.lean ====
section
/-! SUPPORT. Laws/KeepsBoot.lean: the operations of Machine/Boot.lean keep what Laws/Keeps.lean says. -/
set_option Elab.async false  -- one proof at a time: the package as one text then needs less memory
namespace Sys2Proof.Machine

theorem State.showStart_kept {k : Kept} (s : State) (hk : State.Keeps k s) (hm : k.Allows [.BOOT]) :
    State.Keeps k (State.showStart s) := by
  unfold State.showStart
  with_reducible repeat' first
    | exact hk | assumption | exact hm.regs (by decide) | exact hm.sub (by decide) | exact hm.one (by decide) |
      apply State.put_kept | (refine Keeps.fst (by assumption) ?_) | (refine Keeps.snd (by assumption) ?_) |
      (intro _) | extract_lets | (dsimp -zeta only) | apply Keeps.of_fst | apply Keeps.of_snd | split |
      apply Keeps.pair | apply Keeps.pair'

theorem State.start_kept {k : Kept} (s : State) (first cause : Nat) (hk : State.Keeps k s) (hm : k.All) :
    State.Keeps k (State.start s first cause) := by
  unfold State.start
  extract_lets fresh lost learn stretch b dev perst x1 x2 x3 t t1 t2 t3
  clear_value b stretch learn lost dev perst
  have ht : State.Keeps k t := Keeps.upd_zero (s := s) hm (fun e => Tbl.wf_filter _ _ _ e) rfl rfl hk
  clear_value t
  apply State.showStart_kept <;> first | exact hm.sub | exact hm | skip
  apply State.put_kept _ _ _ _ _ _ _ (hm.regs)
  apply State.setDev_kept <;> first | exact hm.sub | exact hm | skip
  apply State.setWord_kept _ _ _ _ _ _ _ (hm.regs)
  apply State.when_kept
  · exact State.put_kept _ _ _ _ _ _ (State.setWord_kept _ _ _ _ _ _ ht (hm.regs)) (hm.regs)
  · exact fun s hs => State.ev_kept _ _ _ _ _ hs (hm.regs)

theorem State.putRecord_kept {k : Kept} (s : State) (hk : State.Keeps k s) (hm : k.Allows [.colo]) :
    State.Keeps k (State.putRecord s) := by
  unfold State.putRecord
  with_reducible repeat' first
    | exact hk | assumption | exact hm.regs (by decide) | exact hm.sub (by decide) | exact hm.one (by decide) |
      extract_lets | split | apply Keeps.upd_colo

theorem State.record_kept {k : Kept} (s : State) (f : StartRecord → StartRecord) (hk : State.Keeps k s) (hm :
    k.Allows [.boot, .colo]) :
    State.Keeps k (State.record s f) := by
  unfold State.record
  with_reducible repeat' first
    | exact hk | assumption | exact hm.regs (by decide) | exact hm.sub (by decide) | exact hm.one (by decide) |
      apply State.putRecord_kept | (intro _) | extract_lets | (dsimp -zeta only) | apply Keeps.of_fst |
      apply Keeps.of_snd | apply Keeps.pair | apply Keeps.pair' | apply Keeps.upd_boot

theorem State.setStep_kept {k : Kept} (s : State) (n method outcome cause micros : Nat) (hk : State.Keeps k s)
    (hm : k.Allows [.BOOT, .boot, .colo]) :
    State.Keeps k (State.setStep s n method outcome cause micros) := by
  unfold State.setStep
  with_reducible repeat' first
    | exact hk | assumption | exact hm.regs (by decide) | exact hm.sub (by decide) | exact hm.one (by decide) |
      apply State.record_kept | apply State.put_kept | (intro _) | extract_lets | (dsimp -zeta only) |
      apply Keeps.of_fst | apply Keeps.of_snd | apply Keeps.pair | apply Keeps.pair'

theorem State.beginStep_kept {k : Kept} (s : State) (n : Nat) (hk : State.Keeps k s) (hm : k.Allows [.BOOT,
    .boot, .colo]) :
    State.Keeps k (State.beginStep s n) := by
  unfold State.beginStep
  with_reducible repeat' first
    | exact hk | assumption | exact hm.regs (by decide) | exact hm.sub (by decide) | exact hm.one (by decide) |
      apply State.showStart_kept | apply State.setStep_kept | extract_lets | apply Keeps.upd_boot

theorem State.stepOut_kept {k : Kept} (s : State) (n : Nat) (hk : State.Keeps k s) (hm : k.Allows [.boot]) :
    State.Keeps k (State.stepOut s n) := by
  unfold State.stepOut
  with_reducible repeat' first
    | exact hk | assumption | exact hm.regs (by decide) | exact hm.sub (by decide) | exact hm.one (by decide) |
      extract_lets | apply Keeps.upd_boot

theorem State.halt_kept {k : Kept} (s : State) (n : Nat) (hk : State.Keeps k s) (hm : k.Allows [.BOOT, .boot,
    .colo]) :
    State.Keeps k (State.halt s n) := by
  unfold State.halt
  with_reducible repeat' first
    | exact hk | assumption | exact hm.regs (by decide) | exact hm.sub (by decide) | exact hm.one (by decide) |
      apply State.record_kept | apply State.put_kept | (intro _) | extract_lets | (dsimp -zeta only) |
      apply Keeps.of_fst | apply Keeps.of_snd | apply Keeps.pair | apply Keeps.pair' | apply Keeps.upd_boot

theorem State.haltAt_kept {k : Kept} (s : State) (n cause micros : Nat) (hk : State.Keeps k s) (hm : k.Allows
    [.BOOT, .boot, .colo]) :
    State.Keeps k (State.haltAt s n cause micros) := by
  unfold State.haltAt
  with_reducible repeat' first
    | exact hk | assumption | exact hm.regs (by decide) | exact hm.sub (by decide) | apply State.setStep_kept |
      apply State.stepOut_kept | apply State.halt_kept

theorem State.autoRestart_kept {k : Kept} (s : State) (n : Nat) (hk : State.Keeps k s) (hm : k.All) :
    State.Keeps k (State.autoRestart s n) := by
  unfold State.autoRestart
  repeat' first
    | with_reducible exact hk
    | with_reducible assumption
    | with_reducible exact hm.regs
    | with_reducible exact hm.one _
    | with_reducible exact hm.sub
    | with_reducible apply State.start_kept
    | with_reducible apply State.halt_kept
    | with_reducible refine Keeps.fst (by with_reducible assumption) ?_
    | with_reducible refine Keeps.snd (by with_reducible assumption) ?_
    | (intro _)
    | (extract_lets)
    | (dsimp -zeta only)
    | (simp -zeta only [id_eq])
    | with_reducible apply Keeps.of_fst
    | with_reducible apply Keeps.of_snd
    | with_reducible apply Keeps.foldl
    | with_reducible apply Keeps.foldl_fst
    | (split)
    | with_reducible apply Keeps.pair
    | with_reducible apply Keeps.pair'
    | with_reducible refine Keeps.all_plain hm ?_

theorem State.step01_kept {k : Kept} (s : State) (r : StepResult) (hk : State.Keeps k s) (hm : k.Allows [.BOOT,
    .PWR, .RAS, .boot, .colo, .free, .ras, .sup]) :
    State.Keeps k (State.step01 s r) := by
  unfold State.step01
  repeat' first
    | with_reducible exact hk
    | with_reducible assumption
    | with_reducible exact hm.regs (by decide)
    | with_reducible exact hm.sub (by decide)
    | with_reducible exact hm.one (by decide)
    | with_reducible apply State.setStep_kept
    | with_reducible apply State.beginStep_kept
    | with_reducible apply State.stepOut_kept
    | with_reducible apply State.haltAt_kept
    | with_reducible apply State.put_kept
    | with_reducible apply State.ev_kept
    | with_reducible apply State.when_kept
    | with_reducible apply State.each_kept
    | with_reducible apply State.fresh_kept
    | with_reducible apply State.log_kept
    | with_reducible refine Keeps.fst (by with_reducible assumption) ?_
    | with_reducible refine Keeps.snd (by with_reducible assumption) ?_
    | (intro _)
    | (dsimp only)
    | (simp -zeta only [id_eq])
    | with_reducible apply Keeps.of_fst
    | with_reducible apply Keeps.of_snd
    | with_reducible apply Keeps.foldl
    | with_reducible apply Keeps.foldl_fst
    | (split)
    | with_reducible apply Keeps.pair
    | with_reducible apply Keeps.pair'
    | with_reducible apply Keeps.upd_sup
    | with_reducible apply Keeps.upd_boot
    | with_reducible refine Keeps.upd_any hm ?_

theorem State.step02_kept {k : Kept} (s : State) (r : StepResult) (hk : State.Keeps k s) (hm : k.Allows [.BOOT,
    .PWR, .RAS, .boot, .colo, .out, .pwr]) :
    State.Keeps k (State.step02 s r) := by
  unfold State.step02
  with_reducible repeat' first
    | exact hk | assumption | exact hm.regs (by decide) | exact hm.sub (by decide) | exact hm.one (by decide) |
      apply State.setStep_kept | apply State.beginStep_kept | apply State.stepOut_kept | apply State.haltAt_kept |
      apply State.put_kept | apply State.ev_kept | apply State.when_kept | apply State.send_kept |
      apply State.ok_kept | apply State.goOff_kept | (refine Keeps.fst (by assumption) ?_) |
      (refine Keeps.snd (by assumption) ?_) | (intro _) | extract_lets | (dsimp -zeta only) | apply Keeps.of_fst |
      apply Keeps.of_snd | split | apply Keeps.pair | apply Keeps.pair' | apply Keeps.upd_pwr

theorem State.linkUp_kept {k : Kept} (s : State) (rate width : Nat) (flit : Bool) (hk : State.Keeps k s) (hm :
    k.Allows [.HIF]) :
    State.Keeps k (State.linkUp s rate width flit) := by
  unfold State.linkUp
  with_reducible repeat' first
    | exact hk | assumption | exact hm.regs (by decide) | exact hm.sub (by decide) | exact hm.one (by decide) |
      apply State.put_kept | apply State.ev_kept | apply State.when_kept | (intro _) | extract_lets |
      (dsimp -zeta only) | apply Keeps.of_fst | apply Keeps.of_snd | split | apply Keeps.pair |
      apply Keeps.pair'

theorem State.step03_kept {k : Kept} (s : State) (r : StepResult) (hk : State.Keeps k s) (hm : k.Allows [.BOOT,
    .HIF, .boot, .colo]) :
    State.Keeps k (State.step03 s r) := by
  unfold State.step03
  with_reducible repeat' first
    | exact hk | assumption | exact hm.regs (by decide) | exact hm.sub (by decide) | exact hm.one (by decide) |
      apply State.setStep_kept | apply State.stepOut_kept | apply State.linkUp_kept | apply State.put_kept |
      extract_lets | split | apply Keeps.upd_boot

theorem State.step04_kept {k : Kept} (s : State) (r : StepResult) (hk : State.Keeps k s) (hm : k.Allows [.BOOT,
    .SEC, .boot, .colo]) :
    State.Keeps k (State.step04 s r) := by
  unfold State.step04
  with_reducible repeat' first
    | exact hk | assumption | exact hm.regs (by decide) | exact hm.sub (by decide) | exact hm.one (by decide) |
      apply State.setStep_kept | apply State.beginStep_kept | apply State.stepOut_kept | apply State.haltAt_kept |
      apply State.put_kept | extract_lets | split

theorem State.showSlots_kept {k : Kept} (s : State) (hk : State.Keeps k s) (hm : k.All) :
    State.Keeps k (State.showSlots s) := by
  unfold State.showSlots
  repeat' first
    | with_reducible exact hk
    | with_reducible assumption
    | with_reducible exact hm.regs
    | with_reducible exact hm.one _
    | with_reducible exact hm.sub
    | with_reducible apply State.put_kept
    | with_reducible apply State.each_kept
    | with_reducible refine Keeps.fst (by with_reducible assumption) ?_
    | with_reducible refine Keeps.snd (by with_reducible assumption) ?_
    | (intro _)
    | (extract_lets)
    | (dsimp -zeta only)
    | (simp -zeta only [id_eq])
    | with_reducible apply Keeps.of_fst
    | with_reducible apply Keeps.of_snd
    | with_reducible apply Keeps.foldl
    | with_reducible apply Keeps.foldl_fst
    | (split)
    | with_reducible apply Keeps.pair
    | with_reducible apply Keeps.pair'
    | with_reducible refine Keeps.all_plain hm ?_

theorem State.step05_kept {k : Kept} (s : State) (r : StepResult) (hk : State.Keeps k s) (hm : k.All) :
    State.Keeps k (State.step05 s r) := by
  unfold State.step05
  with_reducible repeat' first
    | exact hk | assumption | exact hm.regs | exact hm.one _ | exact hm.sub | apply State.setStep_kept |
      apply State.beginStep_kept | apply State.stepOut_kept | apply State.showSlots_kept | apply State.ev_kept |
      apply State.setPair_kept | apply State.when_kept | (intro _) | extract_lets | (dsimp -zeta only) |
      apply Keeps.of_fst | apply Keeps.of_snd | split | apply Keeps.pair | apply Keeps.pair' |
      apply Keeps.upd_ras | apply Keeps.upd_colo | (refine Keeps.all_plain hm ?_)

theorem State.makePlan_kept {k : Kept} (s : State) (prev prev2 : Option StartRecord) (learn : Bool) (hk :
    State.Keeps k s) (hm : k.Allows [.boot]) :
    State.Keeps k (State.makePlan s prev prev2 learn) := by
  unfold State.makePlan
  with_reducible repeat' first
    | exact hk | assumption | exact hm.regs (by decide) | exact hm.sub (by decide) | exact hm.one (by decide) |
      (intro _) | extract_lets | (dsimp -zeta only) | apply Keeps.of_fst | apply Keeps.of_snd |
      apply Keeps.foldl | apply Keeps.foldl_fst | split | apply Keeps.pair | apply Keeps.pair' |
      apply Keeps.upd_boot

theorem State.loadRing_kept {k : Kept} (s : State) (hk : State.Keeps k s) (hm : k.Allows [.BRY, .boot]) :
    State.Keeps k (State.loadRing s) := by
  unfold State.loadRing
  with_reducible repeat' first
    | exact hk | assumption | exact hm.regs (by decide) | exact hm.sub (by decide) | exact hm.one (by decide) |
      apply State.setSync_kept | apply State.setWord_kept | apply State.put_kept |
      (refine Keeps.fst (by assumption) ?_) | (refine Keeps.snd (by assumption) ?_) | extract_lets |
      (dsimp -zeta only) | apply Keeps.of_fst | apply Keeps.of_snd | split | apply Keeps.pair |
      apply Keeps.pair' | apply Keeps.upd_boot

theorem State.step06_kept {k : Kept} (s : State) (r : StepResult) (hk : State.Keeps k s) (hm : k.Allows [.BOOT,
    .BRY, .GIO, .MEM, .SEC, .boot, .colo, .free, .sec]) :
    State.Keeps k (State.step06 s r) := by
  unfold State.step06
  with_reducible repeat' first
    | exact hk | assumption | exact hm.regs (by decide) | exact hm.sub (by decide) | exact hm.one (by decide) |
      apply State.record_kept | apply State.setStep_kept | apply State.beginStep_kept | apply State.stepOut_kept |
      apply State.makePlan_kept | apply State.loadRing_kept | apply State.setWord_kept | apply State.put_kept |
      apply State.clr_kept | apply State.setPair_kept | apply State.when_kept | apply State.each_kept |
      apply State.fresh_kept | (refine Keeps.fst (by assumption) ?_) | (refine Keeps.snd (by assumption) ?_) |
      (intro _) | extract_lets | (dsimp -zeta only) | apply Keeps.of_fst | apply Keeps.of_snd |
      apply Keeps.foldl | apply Keeps.foldl_fst | split | apply Keeps.pair | apply Keeps.pair' |
      apply Keeps.upd_boot | apply Keeps.upd_sec

theorem State.step07_kept {k : Kept} (s : State) (r : StepResult) (hk : State.Keeps k s) (hm : k.All) :
    State.Keeps k (State.step07 s r) := by
  unfold State.step07
  extract_lets fell mems s1 s2 x1 x2 t t1 t2
  have h2 : State.Keeps k s2 := by
    repeat' first | exact hk | exact hm.regs | apply State.put_kept
  clear_value s1 s2 fell mems
  have ht : State.Keeps k t := Keeps.upd_zero (s := s2) hm id rfl rfl h2
  clear_value t
  apply State.beginStep_kept <;> first | exact hm.sub | exact hm | skip
  apply State.stepOut_kept <;> first | exact hm.sub | exact hm | skip
  apply State.setStep_kept <;> first | exact hm.sub | exact hm | skip
  apply State.record_kept <;> first | exact ht | exact hm.sub | exact hm

theorem State.step08_kept {k : Kept} (s : State) (r : StepResult) (hk : State.Keeps k s) (hm : k.All) :
    State.Keeps k (State.step08 s r) := by
  unfold State.step08
  with_reducible repeat' first
    | exact hk | assumption | exact hm.regs | exact hm.one _ | exact hm.sub | apply State.record_kept |
      apply State.setStep_kept | apply State.beginStep_kept | apply State.stepOut_kept | apply State.halt_kept |
      apply State.showSlots_kept | apply State.put_kept | (refine Keeps.fst (by assumption) ?_) |
      (refine Keeps.snd (by assumption) ?_) | (intro _) | extract_lets | (dsimp -zeta only) | apply Keeps.of_fst |
      apply Keeps.of_snd | split | apply Keeps.pair | apply Keeps.pair' | apply Keeps.upd_boot |
      (refine Keeps.all_plain hm ?_)

theorem State.startVote_kept {k : Kept} (s : State) (n : Nat) (hk : State.Keeps k s) (hm : k.Allows [.PWR,
    .boot]) :
    State.Keeps k (State.startVote s n) := by
  unfold State.startVote
  with_reducible repeat' first
    | exact hk | assumption | exact hm.regs (by decide) | exact hm.sub (by decide) | exact hm.one (by decide) |
      apply State.ev_kept | apply State.resolve_kept | apply State.domReach_kept | extract_lets |
      apply Keeps.upd_boot

theorem State.fabricFails_kept {k : Kept} (s : State) (n cause micros : Nat) (hk : State.Keeps k s) (hm : k.All)
    :
    State.Keeps k (State.fabricFails s n cause micros) := by
  unfold State.fabricFails
  with_reducible repeat' first
    | exact hk | assumption | exact hm.regs | exact hm.one _ | exact hm.sub | apply State.record_kept |
      apply State.setStep_kept | apply State.beginStep_kept | apply State.stepOut_kept |
      apply State.showSlots_kept | apply State.setSect_kept | apply State.sectBlank_kept | apply State.each_kept |
      (intro _) | extract_lets | (dsimp -zeta only) | apply Keeps.of_fst | apply Keeps.of_snd | split |
      apply Keeps.pair | apply Keeps.pair' | apply Keeps.upd_boot | (refine Keeps.all_plain hm ?_)

theorem State.fabricDone_kept {k : Kept} (s : State) (n micros : Nat) (hk : State.Keeps k s) (hm : k.Allows
    [.BOOT, .boot, .colo]) :
    State.Keeps k (State.fabricDone s n micros) := by
  unfold State.fabricDone
  with_reducible repeat' first
    | exact hk | assumption | exact hm.regs (by decide) | exact hm.sub (by decide) | apply State.setStep_kept |
      extract_lets | split

theorem State.step09_kept {k : Kept} (s : State) (r : StepResult) (hk : State.Keeps k s) (hm : k.All) :
    State.Keeps k (State.step09 s r) := by
  unfold State.step09
  with_reducible repeat' first
    | exact hk | assumption | exact hm.regs | exact hm.one _ | exact hm.sub | apply State.beginStep_kept |
      apply State.stepOut_kept | apply State.startVote_kept | apply State.fabricFails_kept |
      apply State.fabricDone_kept | apply State.setSect_kept | apply State.sectWrite_kept | apply State.put_kept |
      apply State.each_kept | (intro _) | extract_lets | (dsimp -zeta only) | apply Keeps.of_fst |
      apply Keeps.of_snd | split | apply Keeps.pair | apply Keeps.pair' | (refine Keeps.all_plain hm ?_)

theorem State.step10_kept {k : Kept} (s : State) (r : StepResult) (hk : State.Keeps k s) (hm : k.All) :
    State.Keeps k (State.step10 s r) := by
  unfold State.step10
  with_reducible repeat' first
    | exact hk | assumption | exact hm.regs | exact hm.one _ | exact hm.sub | apply State.beginStep_kept |
      apply State.stepOut_kept | apply State.fabricFails_kept | apply State.fabricDone_kept |
      apply State.each_kept | (intro _) | extract_lets | (dsimp -zeta only) | apply Keeps.of_fst |
      apply Keeps.of_snd | split | apply Keeps.pair | apply Keeps.pair' | (refine Keeps.all_plain hm ?_)

theorem State.train_kept {k : Kept} (s : State) (n count out here : Nat) (r : StepResult) (hk : State.Keeps k s)
    (hm : k.Allows [.BOOT, .boot, .colo]) :
    State.KeepsSnd k (State.train s n count out here r) := by
  unfold State.train
  repeat' first
    | with_reducible exact hk
    | with_reducible assumption
    | with_reducible exact hm.regs (by decide)
    | with_reducible exact hm.sub (by decide)
    | with_reducible exact hm.one (by decide)
    | with_reducible apply State.setStep_kept
    | with_reducible apply State.retrain_kept
    | with_reducible apply State.ev_kept
    | with_reducible apply State.when_kept
    | with_reducible refine Keeps.fst (by with_reducible assumption) ?_
    | with_reducible refine Keeps.snd (by with_reducible assumption) ?_
    | (intro _)
    | (dsimp only)
    | (simp -zeta only [id_eq])
    | with_reducible apply Keeps.of_fst
    | with_reducible apply Keeps.of_snd
    | with_reducible apply Keeps.foldl
    | with_reducible apply Keeps.foldl_fst
    | (split)
    | with_reducible apply Keeps.pair
    | with_reducible apply Keeps.pair'
    | with_reducible apply Keeps.upd_boot
    | with_reducible apply Keeps.upd_colo
    | with_reducible refine Keeps.upd_any hm ?_

theorem State.step11_kept {k : Kept} (s : State) (r : StepResult) (hk : State.Keeps k s) (hm : k.Allows [.BOOT,
    .CAP, .MEM, .PWR, .boot, .colo]) :
    State.Keeps k (State.step11 s r) := by
  unfold State.step11
  with_reducible repeat' first
    | exact hk | assumption | exact hm.regs (by decide) | exact hm.sub (by decide) | exact hm.one (by decide) |
      apply State.record_kept | apply State.startVote_kept | apply State.train_kept | apply State.put_kept |
      apply State.each_kept | (refine Keeps.fst (by assumption) ?_) | (refine Keeps.snd (by assumption) ?_) |
      (intro _) | extract_lets | (dsimp -zeta only) | apply Keeps.of_fst | apply Keeps.of_snd | split |
      apply Keeps.pair | apply Keeps.pair'

theorem State.step12_kept {k : Kept} (s : State) (r : StepResult) (hk : State.Keeps k s) (hm : k.Allows [.BOOT,
    .MEM, .PWR, .boot, .colo]) :
    State.Keeps k (State.step12 s r) := by
  unfold State.step12
  with_reducible repeat' first
    | exact hk | assumption | exact hm.regs (by decide) | exact hm.sub (by decide) | exact hm.one (by decide) |
      apply State.record_kept | apply State.startVote_kept | apply State.train_kept | apply State.retrain_kept |
      apply State.note_kept | apply State.put_kept | apply State.each_kept |
      (refine Keeps.fst (by assumption) ?_) | (refine Keeps.snd (by assumption) ?_) | (intro _) | extract_lets |
      (dsimp -zeta only) | apply Keeps.of_fst | apply Keeps.of_snd | apply Keeps.foldl | apply Keeps.foldl_fst |
      split | apply Keeps.pair | apply Keeps.pair' | apply Keeps.upd_boot | apply Keeps.upd_colo

theorem State.step13_kept {k : Kept} (s : State) (r : StepResult) (hk : State.Keeps k s) (hm : k.Allows [.BOOT,
    .MEM, .PWR, .boot, .colo]) :
    State.Keeps k (State.step13 s r) := by
  unfold State.step13
  with_reducible repeat' first
    | exact hk | assumption | exact hm.regs (by decide) | exact hm.sub (by decide) | exact hm.one (by decide) |
      apply State.record_kept | apply State.startVote_kept | apply State.train_kept | apply State.put_kept |
      apply State.ev_kept | apply State.each_kept | (refine Keeps.fst (by assumption) ?_) |
      (refine Keeps.snd (by assumption) ?_) | (intro _) | extract_lets | (dsimp -zeta only) | apply Keeps.of_fst |
      apply Keeps.of_snd | split | apply Keeps.pair | apply Keeps.pair' | apply Keeps.upd_boot |
      apply Keeps.upd_colo

theorem State.step14_kept {k : Kept} (s : State) (r : StepResult) (hk : State.Keeps k s) (hm : k.Allows [.BOOT,
    .CAP, .CLK, .HIF, .LANE, .PRS, .PWR, .RAS, .SEC, .SECT, .SWF, .boot, .cap, .clk, .coll, .colo, .free, .lanes,
    .out, .press, .ras, .swf, .tenants, .trig]) :
    State.Keeps k (State.step14 s r) := by
  unfold State.step14
  with_reducible repeat' first
    | exact hk | assumption | exact hm.regs (by decide) | exact hm.sub (by decide) | exact hm.one (by decide) |
      apply State.record_kept | apply State.startVote_kept | apply State.train_kept |
      apply State.laneUnavailable_kept | apply State.put_kept | apply State.each_kept |
      (refine Keeps.fst (by assumption) ?_) | (refine Keeps.snd (by assumption) ?_) | (intro _) | extract_lets |
      (dsimp -zeta only) | apply Keeps.of_fst | apply Keeps.of_snd | split | apply Keeps.pair |
      apply Keeps.pair'

theorem State.step15_kept {k : Kept} (s : State) (r : StepResult) (hk : State.Keeps k s) (hm : k.All) :
    State.Keeps k (State.step15 s r) := by
  unfold State.step15
  with_reducible repeat' first
    | exact hk | assumption | exact hm.regs | exact hm.one _ | exact hm.sub | apply State.setStep_kept |
      apply State.beginStep_kept | apply State.stepOut_kept | apply State.startVote_kept |
      apply State.setPort_kept | apply State.setSect_kept | apply State.sectInit_kept | apply State.when_kept |
      apply State.each_kept | apply State.clusterUp_kept | apply State.domEffect_kept | (intro _) | extract_lets |
      (dsimp -zeta only) | apply Keeps.of_fst | apply Keeps.of_snd | apply Keeps.pair | apply Keeps.pair' |
      (refine Keeps.all_plain hm ?_)

theorem State.targetCaps_kept {k : Kept} (s : State) (hk : State.Keeps k s) (hm : k.Allows [.CAP]) :
    State.Keeps k (State.targetCaps s) := by
  unfold State.targetCaps
  with_reducible repeat' first
    | exact hk | assumption | exact hm.regs (by decide) | exact hm.sub (by decide) | exact hm.one (by decide) |
      apply State.put_kept | apply State.each_kept | (refine Keeps.fst (by assumption) ?_) |
      (refine Keeps.snd (by assumption) ?_) | (intro _) | extract_lets | (dsimp -zeta only) | apply Keeps.of_fst |
      apply Keeps.of_snd | apply Keeps.foldl | apply Keeps.foldl_fst | split | apply Keeps.pair |
      apply Keeps.pair'

theorem State.quireFound_kept {k : Kept} (s : State) (cold : Bool) (used : List (BitVec 19 × BitVec 15)) (q :
    Nat) (x : Quire) (hk : State.Keeps k s) (hm : k.Allows [.CAP, .RAS, .cap, .ras]) :
    State.Keeps k (State.quireFound s cold used q x) := by
  unfold State.quireFound
  with_reducible repeat' first
    | exact hk | assumption | exact hm.regs (by decide) | exact hm.sub (by decide) | exact hm.one (by decide) |
      apply State.setQuire_kept | apply State.loseQuire_kept | apply State.put_kept | apply State.cnt_kept |
      (refine Keeps.fst (by assumption) ?_) | (refine Keeps.snd (by assumption) ?_) | (intro _) | extract_lets |
      (dsimp -zeta only) | apply Keeps.of_fst | apply Keeps.of_snd | split | apply Keeps.pair |
      apply Keeps.pair' | apply Keeps.upd_cap

theorem State.sealBad_kept {k : Kept} (s : State) (q : Nat) (rebuilt : Bool) (hk : State.Keeps k s) (hm :
    k.Allows [.RAS, .SEC, .cap, .ras]) :
    State.Keeps k (State.sealBad s q rebuilt) := by
  unfold State.sealBad
  with_reducible repeat' first
    | exact hk | assumption | exact hm.regs (by decide) | exact hm.sub (by decide) | exact hm.one (by decide) |
      apply State.ev_kept | apply State.cnt_kept | apply State.log_kept | extract_lets | split |
      apply Keeps.upd_cap

theorem State.closeStreams_kept {k : Kept} (s : State) (cause : Nat) (hk : State.Keeps k s) (hm : k.Allows
    [.CAP, .cap]) :
    State.Keeps k (State.closeStreams s cause) := by
  unfold State.closeStreams
  with_reducible repeat' first
    | exact hk | assumption | exact hm.regs (by decide) | exact hm.sub (by decide) | exact hm.one (by decide) |
      apply State.setStrm_kept | apply State.setStrmState_kept | apply State.put_kept | apply State.each_kept |
      (intro _) | extract_lets | (dsimp -zeta only) | apply Keeps.of_fst | apply Keeps.of_snd | split |
      apply Keeps.pair | apply Keeps.pair'

theorem State.drainAgain_kept {k : Kept} (s : State) (hk : State.Keeps k s) (hm : k.Allows [.CAP, .cap]) :
    State.Keeps k (State.drainAgain s) := by
  unfold State.drainAgain
  with_reducible repeat' first
    | exact hk | assumption | exact hm.regs (by decide) | exact hm.sub (by decide) | exact hm.one (by decide) |
      apply State.drainCount_kept | apply State.ok_kept | (intro _) | extract_lets | (dsimp -zeta only) |
      apply Keeps.of_fst | apply Keeps.of_snd | apply Keeps.foldl | apply Keeps.foldl_fst | apply Keeps.pair |
      apply Keeps.pair' | apply Keeps.upd_cap

theorem State.rebuild_kept {k : Kept} (s : State) (r : StepResult) (hk : State.Keeps k s) (hm : k.Allows [.CAP,
    .RAS, .SEC, .cap, .ras]) :
    State.Keeps k (State.rebuild s r) := by
  unfold State.rebuild
  with_reducible repeat' first
    | exact hk | assumption | exact hm.regs (by decide) | exact hm.sub (by decide) | exact hm.one (by decide) |
      apply State.quireFound_kept | apply State.sealBad_kept | apply State.closeStreams_kept |
      apply State.drainAgain_kept | apply State.copyDiffer_kept | apply State.each_kept | (intro _) |
      extract_lets | (dsimp -zeta only) | apply Keeps.of_fst | apply Keeps.of_snd | split | apply Keeps.pair |
      apply Keeps.pair' | apply Keeps.upd_cap

theorem State.votesPass_kept {k : Kept} (s : State) (hk : State.Keeps k s) (hm : k.Allows [.PWR, .boot]) :
    State.Keeps k (State.votesPass s) := by
  unfold State.votesPass
  with_reducible repeat' first
    | exact hk | assumption | exact hm.regs (by decide) | exact hm.sub (by decide) | exact hm.one (by decide) |
      apply State.put_kept | apply State.clr_kept | apply State.each_kept | apply State.resolve_kept | (intro _) |
      extract_lets | (dsimp -zeta only) | apply Keeps.of_fst | apply Keeps.of_snd | apply Keeps.pair |
      apply Keeps.pair' | apply Keeps.upd_boot

theorem State.step16_kept {k : Kept} (s : State) (r : StepResult) (hk : State.Keeps k s) (hm : k.Allows [.BOOT,
    .CAP, .OBS, .PWR, .RAS, .SEC, .boot, .cap, .colo, .ras]) :
    State.Keeps k (State.step16 s r) := by
  unfold State.step16
  with_reducible repeat' first
    | exact hk | assumption | exact hm.regs (by decide) | exact hm.sub (by decide) | exact hm.one (by decide) |
      apply State.record_kept | apply State.setStep_kept | apply State.stepOut_kept |
      apply State.targetCaps_kept | apply State.rebuild_kept | apply State.votesPass_kept |
      apply State.recast_kept | apply State.put_kept | (intro _) | extract_lets | (dsimp -zeta only) |
      apply Keeps.of_fst | apply Keeps.of_snd | split | apply Keeps.pair | apply Keeps.pair' |
      apply Keeps.upd_boot

theorem State.afterTraining_kept {k : Kept} (s : State) (n : Nat) (hk : State.Keeps k s) (hm : k.Allows [.BOOT,
    .boot, .colo]) :
    State.Keeps k (State.afterTraining s n) := by
  unfold State.afterTraining
  with_reducible repeat' first
    | exact hk | assumption | exact hm.regs (by decide) | exact hm.sub (by decide) | apply State.beginStep_kept |
      apply State.stepOut_kept | (intro _) | extract_lets | (dsimp -zeta only) | apply Keeps.of_fst |
      apply Keeps.of_snd | split | apply Keeps.pair | apply Keeps.pair'

theorem State.commitRollback_kept {k : Kept} (s : State) (hk : State.Keeps k s) (hm : k.Allows [.BOOT, .colo]) :
    State.Keeps k (State.commitRollback s) := by
  unfold State.commitRollback
  with_reducible repeat' first
    | exact hk | assumption | exact hm.regs (by decide) | exact hm.sub (by decide) | exact hm.one (by decide) |
      apply State.put_kept | apply State.ev_kept | extract_lets | split | apply Keeps.upd_colo

theorem State.writeBootCtrl_kept {k : Kept} (s : State) (p : Path) (v : Word) (hk : State.Keeps k s) (hm :
    k.All) :
    State.KeepsFst k (State.writeBootCtrl s p v) := by
  unfold State.writeBootCtrl
  repeat' first
    | with_reducible exact hk
    | with_reducible assumption
    | with_reducible exact hm.regs
    | with_reducible exact hm.one _
    | with_reducible exact hm.sub
    | with_reducible apply State.start_kept
    | with_reducible apply State.commitRollback_kept
    | with_reducible apply State.ev_kept
    | with_reducible apply State.when_kept
    | with_reducible apply State.guardWrite_kept
    | with_reducible refine Keeps.fst (by with_reducible assumption) ?_
    | with_reducible refine Keeps.snd (by with_reducible assumption) ?_
    | (intro _)
    | (extract_lets)
    | (dsimp -zeta only)
    | (simp -zeta only [id_eq])
    | with_reducible apply Keeps.of_fst
    | with_reducible apply Keeps.of_snd
    | with_reducible apply Keeps.foldl
    | with_reducible apply Keeps.foldl_fst
    | (split)
    | with_reducible apply Keeps.pair
    | with_reducible apply Keeps.pair'
    | with_reducible refine Keeps.all_plain hm ?_

theorem State.writeImageSel_kept {k : Kept} (s : State) (p : Path) (v : Word) (hk : State.Keeps k s) (hm :
    k.Allows [.BOOT, .CAP, .FAB, .FRM, .GIO, .GLB, .LANE, .OBS, .PRS, .SECT, .SGC, .SWF, .boot, .colo]) :
    State.KeepsFst k (State.writeImageSel s p v) := by
  unfold State.writeImageSel
  with_reducible repeat' first
    | exact hk | assumption | exact hm.regs (by decide) | exact hm.sub (by decide) | exact hm.one (by decide) |
      apply State.record_kept | apply State.applyWrite_kept | apply State.guardWrite_kept | (intro _) |
      extract_lets | (dsimp -zeta only) | apply Keeps.of_fst | apply Keeps.of_snd | apply Keeps.pair |
      apply Keeps.pair'

end Sys2Proof.Machine
end

