-- ==== Sys2Proof/Laws/KeepsDebugCtl.lean ====
section
/-! SUPPORT. Laws/KeepsDebugCtl.lean: the operations of Machine/DebugCtl.lean keep what Laws/Keeps.lean says. -/
set_option Elab.async false  -- one proof at a time: the package as one text then needs less memory
namespace Sys2Proof.Machine

theorem State.askHalt_kept {k : Kept} (s : State) (kind ix by' : Nat) (hk : State.Keeps k s) (hm : k.Allows
    [.SGC, .cores, .dbg]) :
    State.Keeps k (State.askHalt s kind ix by') := by
  unfold State.askHalt
  with_reducible repeat' first
    | exact hk | assumption | exact hm.regs (by decide) | exact hm.sub (by decide) | exact hm.one (by decide) |
      apply State.haltCore_kept | (intro _) | extract_lets | (dsimp -zeta only) | apply Keeps.of_fst |
      apply Keeps.of_snd | split | apply Keeps.pair | apply Keeps.pair' | apply Keeps.upd_dbg

theorem State.releaseUnit_kept {k : Kept} (s : State) (kind ix : Nat) (hk : State.Keeps k s) (hm : k.Allows
    [.PRS, .SGC, .dbg, .press]) :
    State.Keeps k (State.releaseUnit s kind ix) := by
  unfold State.releaseUnit
  with_reducible repeat' first
    | exact hk | assumption | exact hm.regs (by decide) | exact hm.sub (by decide) | exact hm.one (by decide) |
      apply State.setCoreState_kept | apply State.pressUnfreeze_kept | (refine Keeps.fst (by assumption) ?_) |
      (refine Keeps.snd (by assumption) ?_) | (intro _) | extract_lets | (dsimp -zeta only) | apply Keeps.of_fst |
      apply Keeps.of_snd | split | apply Keeps.pair | apply Keeps.pair' | apply Keeps.upd_dbg

theorem State.raiseHalt_kept {k : Kept} (s : State) (g t : Nat) (hk : State.Keeps k s) (hm : k.Allows [.dbg]) :
    State.Keeps k (State.raiseHalt s g t) := by
  unfold State.raiseHalt
  with_reducible repeat' first
    | exact hk | assumption | exact hm.regs (by decide) | exact hm.sub (by decide) | exact hm.one (by decide) |
      extract_lets | apply Keeps.upd_dbg

theorem State.haltResult_kept {k : Kept} (s : State) (r : Nat) (hk : State.Keeps k s) (hm : k.Allows [.DBG]) :
    State.Keeps k (State.haltResult s r) := by
  unfold State.haltResult
  with_reducible repeat' first
    | exact hk | assumption | exact hm.regs (by decide) | exact hm.sub (by decide) | exact hm.one (by decide) |
      apply State.put_kept

theorem State.haltUnit_kept {k : Kept} (s : State) (action kind ix join : Nat) (hk : State.Keeps k s) (hm :
    k.Allows [.DBG, .PRS, .SGC, .cores, .dbg, .press]) :
    State.Keeps k (State.haltUnit s action kind ix join) := by
  unfold State.haltUnit
  with_reducible repeat' first
    | exact hk | assumption | exact hm.regs (by decide) | exact hm.sub (by decide) | exact hm.one (by decide) |
      apply State.askHalt_kept | apply State.releaseUnit_kept | apply State.haltResult_kept |
      (refine Keeps.fst (by assumption) ?_) | (refine Keeps.snd (by assumption) ?_) | (intro _) | extract_lets |
      (dsimp -zeta only) | apply Keeps.of_fst | apply Keeps.of_snd | split | apply Keeps.pair |
      apply Keeps.pair' | apply Keeps.upd_dbg

theorem State.resumeGroup_kept {k : Kept} (s : State) (g : Nat) (hk : State.Keeps k s) (hm : k.Allows [.PRS,
    .SGC, .dbg, .press]) :
    State.Keeps k (State.resumeGroup s g) := by
  unfold State.resumeGroup
  with_reducible repeat' first
    | exact hk | assumption | exact hm.regs (by decide) | exact hm.sub (by decide) |
      apply State.releaseUnit_kept | apply State.each_kept | (intro _) | extract_lets | (dsimp -zeta only) |
      apply Keeps.of_fst | apply Keeps.of_snd | apply Keeps.pair | apply Keeps.pair'

theorem State.haltGroup_kept {k : Kept} (s : State) (action g : Nat) (hk : State.Keeps k s) (hm : k.Allows
    [.DBG, .PRS, .SGC, .dbg, .press]) :
    State.Keeps k (State.haltGroup s action g) := by
  unfold State.haltGroup
  with_reducible repeat' first
    | exact hk | assumption | exact hm.regs (by decide) | exact hm.sub (by decide) | exact hm.one (by decide) |
      apply State.raiseHalt_kept | apply State.haltResult_kept | apply State.resumeGroup_kept |
      (refine Keeps.fst (by assumption) ?_) | (refine Keeps.snd (by assumption) ?_) | (intro _) | extract_lets |
      (dsimp -zeta only) | apply Keeps.of_fst | apply Keeps.of_snd | split | apply Keeps.pair |
      apply Keeps.pair' | apply Keeps.upd_dbg

theorem State.writeHaltCmd_kept {k : Kept} (s : State) (v : Word) (hk : State.Keeps k s) (hm : k.Allows [.BOOT,
    .CAP, .DBG, .FAB, .FRM, .GIO, .GLB, .LANE, .OBS, .PRS, .SECT, .SGC, .SWF, .cores, .dbg, .press]) :
    State.KeepsFst k (State.writeHaltCmd s v) := by
  unfold State.writeHaltCmd
  with_reducible repeat' first
    | exact hk | assumption | exact hm.regs (by decide) | exact hm.sub (by decide) | exact hm.one (by decide) |
      apply State.haltUnit_kept | apply State.haltGroup_kept | apply State.put_kept |
      apply State.applyWrite_kept | apply State.guardWrite_kept | (intro _) | extract_lets | (dsimp -zeta only) |
      apply Keeps.of_fst | apply Keeps.of_snd | split | apply Keeps.pair | apply Keeps.pair'

theorem State.testEnds_kept {k : Kept} (s : State) (n : Nat) (hk : State.Keeps k s) (hm : k.Allows [.FAB, .HIF,
    .PWR, .out, .pwr, .swf, .tenants]) :
    State.Keeps k (State.testEnds s n) := by
  unfold State.testEnds
  with_reducible repeat' first
    | exact hk | assumption | exact hm.regs (by decide) | exact hm.sub (by decide) | exact hm.one (by decide) |
      apply State.clr_kept | apply State.voteEnds_kept | (intro _) | (dsimp -zeta only) | apply Keeps.of_fst |
      apply Keeps.of_snd | split | apply Keeps.pair | apply Keeps.pair'

theorem State.writePowerHold_kept {k : Kept} (s : State) (k_ : Nat) (v : Word) (hk : State.Keeps k s) (hm :
    k.Allows [.BOOT, .CAP, .DBG, .FAB, .FRM, .GIO, .GLB, .HIF, .LANE, .OBS, .PRS, .PWR, .SECT, .SGC, .SWF, .out,
    .pwr, .swf, .tenants]) :
    State.KeepsFst k (State.writePowerHold s k_ v) := by
  unfold State.writePowerHold
  with_reducible repeat' first
    | exact hk | assumption | exact hm.regs (by decide) | exact hm.sub (by decide) | exact hm.one (by decide) |
      apply State.haltResult_kept | apply State.testEnds_kept | apply State.ev_kept | apply State.when_kept |
      apply State.resolve_kept | apply State.drive_kept | apply State.applyWrite_kept |
      apply State.guardWrite_kept | (intro _) | extract_lets | (dsimp -zeta only) | apply Keeps.of_fst |
      apply Keeps.of_snd | split | apply Keeps.pair | apply Keeps.pair'

theorem State.endSession_kept {k : Kept} (s : State) (hk : State.Keeps k s) (hm : k.Allows [.DBG, .FAB, .HIF,
    .PRS, .PWR, .SGC, .dbg, .out, .press, .pwr, .swf, .tenants]) :
    State.Keeps k (State.endSession s) := by
  unfold State.endSession
  with_reducible repeat' first
    | exact hk | assumption | exact hm.regs (by decide) | exact hm.sub (by decide) | exact hm.one (by decide) |
      apply State.compCount_kept | apply State.releaseUnit_kept | apply State.testEnds_kept |
      apply State.setWord_kept | apply State.ev_kept | apply State.clr_kept | apply State.each_kept | (intro _) |
      extract_lets | (dsimp -zeta only) | apply Keeps.of_fst | apply Keeps.of_snd | split | apply Keeps.pair |
      apply Keeps.pair' | apply Keeps.upd_dbg

theorem State.authResult_kept {k : Kept} (s : State) (r : Nat) (hk : State.Keeps k s) (hm : k.Allows [.DBG]) :
    State.Keeps k (State.authResult s r) := by
  unfold State.authResult
  with_reducible repeat' first
    | exact hk | assumption | exact hm.regs (by decide) | exact hm.sub (by decide) | exact hm.one (by decide) |
      apply State.put_kept

theorem State.authOpen_kept {k : Kept} (s : State) (path method scope t : Nat) (hk : State.Keeps k s) (hm :
    k.Allows [.DBG, .dbg, .free]) :
    State.Keeps k (State.authOpen s path method scope t) := by
  unfold State.authOpen
  with_reducible repeat' first
    | exact hk | assumption | exact hm.regs (by decide) | exact hm.sub (by decide) | exact hm.one (by decide) |
      apply State.authResult_kept | apply State.setWord_kept | apply State.each_kept | apply State.fresh_kept |
      (refine Keeps.fst (by assumption) ?_) | (refine Keeps.snd (by assumption) ?_) | (intro _) | extract_lets |
      (dsimp -zeta only) | apply Keeps.of_fst | apply Keeps.of_snd | split | apply Keeps.pair |
      apply Keeps.pair' | apply Keeps.upd_dbg

theorem State.authFailed_kept {k : Kept} (s : State) (path : Nat) (hk : State.Keeps k s) (hm : k.Allows [.DBG,
    .dbg]) :
    State.Keeps k (State.authFailed s path) := by
  unfold State.authFailed
  with_reducible repeat' first
    | exact hk | assumption | exact hm.regs (by decide) | exact hm.sub (by decide) | exact hm.one (by decide) |
      apply State.authResult_kept | apply State.ev_kept | apply State.cnt_kept | extract_lets | split |
      apply Keeps.upd_dbg

theorem State.authRespond_kept {k : Kept} (s : State) (path : Nat) (hk : State.Keeps k s) (hm : k.Allows [.DBG,
    .dbg]) :
    State.Keeps k (State.authRespond s path) := by
  unfold State.authRespond
  with_reducible repeat' first
    | exact hk | assumption | exact hm.regs (by decide) | exact hm.sub (by decide) | exact hm.one (by decide) |
      apply State.authResult_kept | apply State.authFailed_kept | apply State.put_kept |
      (refine Keeps.fst (by assumption) ?_) | (refine Keeps.snd (by assumption) ?_) | extract_lets |
      (dsimp -zeta only) | apply Keeps.of_fst | apply Keeps.of_snd | split | apply Keeps.pair |
      apply Keeps.pair' | apply Keeps.upd_dbg

theorem State.writeAuthCmd_kept {k : Kept} (s : State) (path : Nat) (v : Word) (hk : State.Keeps k s) (hm :
    k.Allows [.BOOT, .CAP, .DBG, .FAB, .FRM, .GIO, .GLB, .HIF, .LANE, .OBS, .PRS, .PWR, .SECT, .SGC, .SWF, .dbg,
    .free, .out, .press, .pwr, .swf, .tenants]) :
    State.KeepsFst k (State.writeAuthCmd s path v) := by
  unfold State.writeAuthCmd
  with_reducible repeat' first
    | exact hk | assumption | exact hm.regs (by decide) | exact hm.sub (by decide) | exact hm.one (by decide) |
      apply State.endSession_kept | apply State.authResult_kept | apply State.authOpen_kept |
      apply State.authRespond_kept | apply State.applyWrite_kept | apply State.guardWrite_kept |
      (refine Keeps.fst (by assumption) ?_) | (refine Keeps.snd (by assumption) ?_) | (intro _) | extract_lets |
      (dsimp -zeta only) | apply Keeps.of_fst | apply Keeps.of_snd | split | apply Keeps.pair |
      apply Keeps.pair'

theorem State.writeDbgCtrl_kept {k : Kept} (s : State) (p : Path) (v : Word) (hk : State.Keeps k s) (hm :
    k.Allows [.BOOT, .CAP, .DBG, .FAB, .FRM, .GIO, .GLB, .LANE, .OBS, .PRS, .SECT, .SGC, .SWF]) :
    State.KeepsFst k (State.writeDbgCtrl s p v) := by
  unfold State.writeDbgCtrl
  with_reducible repeat' first
    | exact hk | assumption | exact hm.regs (by decide) | exact hm.sub (by decide) | exact hm.one (by decide) |
      apply State.setWord_kept | apply State.put_kept | apply State.err_kept | apply State.guardWrite_kept |
      (intro _) | extract_lets | (dsimp -zeta only) | apply Keeps.of_fst | apply Keeps.of_snd | split |
      apply Keeps.pair | apply Keeps.pair'

theorem State.writeCompCfg_kept {k : Kept} (s : State) (n : Nat) (v : Word) (hk : State.Keeps k s) (hm :
    k.Allows [.BOOT, .CAP, .DBG, .FAB, .FRM, .GIO, .GLB, .LANE, .OBS, .PRS, .SECT, .SGC, .SWF, .dbg]) :
    State.KeepsFst k (State.writeCompCfg s n v) := by
  unfold State.writeCompCfg
  repeat' first
    | with_reducible exact hk
    | with_reducible assumption
    | with_reducible exact hm.regs (by decide)
    | with_reducible exact hm.sub (by decide)
    | with_reducible exact hm.one (by decide)
    | with_reducible apply State.compCount_kept
    | with_reducible apply State.applyWrite_kept
    | with_reducible apply State.guardWrite_kept
    | with_reducible refine Keeps.fst (by with_reducible assumption) ?_
    | with_reducible refine Keeps.snd (by with_reducible assumption) ?_
    | (intro _)
    | (dsimp only)
    | (simp -zeta only [id_eq])
    | with_reducible apply Keeps.of_fst
    | with_reducible apply Keeps.of_snd
    | with_reducible apply Keeps.foldl
    | with_reducible apply Keeps.foldl_fst
    | (split)
    | with_reducible apply Keeps.pair
    | with_reducible apply Keeps.pair'
    | with_reducible apply Keeps.upd_dbg
    | with_reducible refine Keeps.upd_any hm ?_

theorem State.writeGroupCfg_kept {k : Kept} (s : State) (g : Nat) (v : Word) (hk : State.Keeps k s) (hm :
    k.Allows [.BOOT, .CAP, .DBG, .FAB, .FRM, .GIO, .GLB, .LANE, .OBS, .PRS, .SECT, .SGC, .SWF]) :
    State.KeepsFst k (State.writeGroupCfg s g v) := by
  unfold State.writeGroupCfg
  repeat' first
    | with_reducible exact hk
    | with_reducible assumption
    | with_reducible exact hm.regs (by decide)
    | with_reducible exact hm.sub (by decide)
    | with_reducible exact hm.one (by decide)
    | with_reducible apply State.applyWrite_kept
    | with_reducible apply State.guardWrite_kept
    | with_reducible refine Keeps.fst (by with_reducible assumption) ?_
    | with_reducible refine Keeps.snd (by with_reducible assumption) ?_
    | (intro _)
    | (dsimp only)
    | (simp -zeta only [id_eq])
    | with_reducible apply Keeps.of_fst
    | with_reducible apply Keeps.of_snd
    | with_reducible apply Keeps.foldl
    | with_reducible apply Keeps.foldl_fst
    | (split)
    | with_reducible apply Keeps.pair
    | with_reducible apply Keeps.pair'
    | with_reducible refine Keeps.upd_any hm ?_

theorem State.writeDbg_kept {k : Kept} (s : State) (p : Path) (path : Nat) (r : RegDef) (i j : Nat) (v : Word)
    (hk : State.Keeps k s) (hm : k.Allows [.BOOT, .CAP, .DBG, .FAB, .FRM, .GIO, .GLB, .HIF, .LANE, .OBS, .PRS, .PWR,
    .SECT, .SGC, .SWF, .cores, .dbg, .free, .out, .press, .pwr, .swf, .tenants]) (hr_r : k.Regs r) :
    State.KeepsFst k (State.writeDbg s p path r i j v) := by
  unfold State.writeDbg
  with_reducible repeat' first
    | exact hk | assumption | exact hm.regs (by decide) | exact hm.sub (by decide) |
      apply State.writeHaltCmd_kept | apply State.writePowerHold_kept | apply State.writeAuthCmd_kept |
      apply State.writeDbgCtrl_kept | apply State.writeCompCfg_kept | apply State.writeGroupCfg_kept |
      apply State.plainWrite_kept | extract_lets | (dsimp -zeta only) | apply Keeps.of_fst | apply Keeps.of_snd |
      split | apply Keeps.pair | apply Keeps.pair'

end Sys2Proof.Machine
end

