-- ==== Sys2Proof/Laws/KeepsSupplies.lean ====
section
/-! SUPPORT. Laws/KeepsSupplies.lean: the operations of Machine/Supplies.lean keep what Laws/Keeps.lean says. -/
set_option Elab.async false  -- one proof at a time: the package as one text then needs less memory
namespace Sys2Proof.Machine

theorem State.unitsDown_kept {k : Kept} (s : State) (hk : State.Keeps k s) (hm : k.All) :
    State.Keeps k (State.unitsDown s) := by
  unfold State.unitsDown
  extract_lets x1 t
  have ht : State.Keeps k t := Keeps.upd_all (s := s) hm (fun e => Tbl.wf_filter _ _ _ e) id rfl hk
  clear_value t
  exact State.put_kept _ _ _ _ _ _ ht (hm.regs)

theorem State.powerFail_kept {k : Kept} (s : State) (c : LossCause) (hk : State.Keeps k s) (hm : k.All) :
    State.Keeps k (State.powerFail s c) := by
  unfold State.powerFail
  split
  · exact hk
  · extract_lets s1 s2 s3 x1 x2
    have h1 : State.Keeps k s1 := by
      apply State.each_kept _ _ _ hk
      intro s p hs
      apply State.beginStop_kept <;> first | exact hs | exact hm.sub | exact hm
    clear_value s1
    have h2 : State.Keeps k s2 := by
      apply State.each_kept _ _ _ h1
      intro s p hs
      apply State.abandonCopy_kept <;> first | exact hs | exact hm.sub | exact hm
    clear_value s2
    have h3 : State.Keeps k s3 := State.unitsDown_kept _ h2 hm
    clear_value s3
    exact Keeps.upd_all (s := s3) hm id id rfl h3

theorem State.supplyOut_kept {k : Kept} (s : State) (hk : State.Keeps k s) (hm : k.Allows [.sup]) :
    State.Keeps k (State.supplyOut s) := by
  unfold State.supplyOut
  with_reducible repeat' first
    | exact hk | assumption | exact hm.regs (by decide) | exact hm.sub (by decide) | exact hm.one (by decide) |
      extract_lets | apply Keeps.upd_sup

theorem State.wakeBy_kept {k : Kept} (s : State) (cause pin : Nat) (fromOff : Bool) (hk : State.Keeps k s) (hm :
    k.All) :
    State.Keeps k (State.wakeBy s cause pin fromOff) := by
  unfold State.wakeBy
  with_reducible repeat' first
    | exact hk | assumption | exact hm.regs | exact hm.one _ | exact hm.sub | apply State.start_kept |
      apply State.put_kept | apply State.wakeUp_kept | (intro _) | (dsimp -zeta only) | apply Keeps.of_fst |
      apply Keeps.of_snd | split | apply Keeps.pair | apply Keeps.pair' | (refine Keeps.all_plain hm ?_)

end Sys2Proof.Machine
end

