-- ==== Sys2Proof/Laws/KeepsGio.lean ====
section
/-! SUPPORT. Laws/KeepsGio.lean: the operations of Machine/Gio.lean keep what Laws/Keeps.lean says. -/
set_option Elab.async false  -- one proof at a time: the package as one text then needs less memory
namespace Sys2Proof.Machine

theorem State.pinShow_kept {k : Kept} (was : State) (s : State) (n : Nat) (hk : State.Keeps k s) (hm : k.Allows
    [.gio, .out]) :
    State.Keeps k (State.pinShow was s n) := by
  unfold State.pinShow
  with_reducible repeat' first
    | exact hk | assumption | exact hm.regs (by decide) | exact hm.sub (by decide) | exact hm.one (by decide) |
      apply State.send_kept | (refine Keeps.fst (by assumption) ?_) | (refine Keeps.snd (by assumption) ?_) |
      extract_lets | (dsimp -zeta only) | apply Keeps.of_fst | apply Keeps.of_snd | split | apply Keeps.pair |
      apply Keeps.pair' | apply Keeps.upd_gio

theorem State.writeBankCfg_kept {k : Kept} (s : State) (p : Path) (k_ : Nat) (v : Word) (hk : State.Keeps k s)
    (hm : k.Allows [.BOOT, .CAP, .FAB, .FRM, .GIO, .GLB, .LANE, .OBS, .PRS, .SECT, .SGC, .SWF, .colo, .gio]) :
    State.KeepsFst k (State.writeBankCfg s p k_ v) := by
  unfold State.writeBankCfg
  with_reducible repeat' first
    | exact hk | assumption | exact hm.regs (by decide) | exact hm.sub (by decide) | exact hm.one (by decide) |
      apply State.ev_kept | apply refuseWrite_kept | apply State.applyWrite_kept | apply State.guardWrite_kept |
      (intro _) | extract_lets | (dsimp -zeta only) | apply Keeps.of_fst | apply Keeps.of_snd | split |
      apply Keeps.pair | apply Keeps.pair' | apply Keeps.upd_colo | apply Keeps.upd_gio |
      (refine Keeps.upd_any hm ?_)

theorem State.writePinCfg_kept {k : Kept} (s : State) (p : Path) (n : Nat) (v : Word) (hk : State.Keeps k s) (hm
    : k.Allows [.BOOT, .CAP, .FAB, .FRM, .GIO, .GLB, .LANE, .OBS, .PRS, .SECT, .SGC, .SWF, .gio, .out]) :
    State.KeepsFst k (State.writePinCfg s p n v) := by
  unfold State.writePinCfg
  with_reducible repeat' first
    | exact hk | assumption | exact hm.regs (by decide) | exact hm.sub (by decide) | exact hm.one (by decide) |
      apply State.pinShow_kept | apply State.ev_kept | apply refuseWrite_kept | apply State.applyWrite_kept |
      apply State.guardWrite_kept | (intro _) | extract_lets | (dsimp -zeta only) | apply Keeps.of_fst |
      apply Keeps.of_snd | split | apply Keeps.pair | apply Keeps.pair'

theorem State.writeGioOut_kept {k : Kept} (s : State) (p : Path) (k_ : Nat) (v : Word) (hk : State.Keeps k s)
    (hm : k.Allows [.BOOT, .CAP, .FAB, .FRM, .GIO, .GLB, .LANE, .OBS, .PRS, .SECT, .SGC, .SWF, .gio, .out]) :
    State.KeepsFst k (State.writeGioOut s p k_ v) := by
  unfold State.writeGioOut
  with_reducible repeat' first
    | exact hk | assumption | exact hm.regs (by decide) | exact hm.sub (by decide) | exact hm.one (by decide) |
      apply State.pinShow_kept | apply State.each_kept | apply State.applyWrite_kept |
      apply State.guardWrite_kept | (intro _) | extract_lets | (dsimp -zeta only) | apply Keeps.of_fst |
      apply Keeps.of_snd | apply Keeps.pair | apply Keeps.pair'

theorem State.pinRead_kept {k : Kept} (s : State) (n : Nat) (hk : State.Keeps k s) (hm : k.Allows [.free]) :
    State.KeepsSnd k (State.pinRead s n) := by
  unfold State.pinRead
  with_reducible repeat' first
    | exact hk | assumption | exact hm.regs (by decide) | exact hm.sub (by decide) | apply State.fresh_kept |
      (refine Keeps.fst (by assumption) ?_) | (refine Keeps.snd (by assumption) ?_) | extract_lets |
      (dsimp -zeta only) | apply Keeps.of_fst | apply Keeps.of_snd | split | apply Keeps.pair |
      apply Keeps.pair'

theorem State.readGioIn_kept {k : Kept} (s : State) (k_ : Nat) (hk : State.Keeps k s) (hm : k.Allows [.free]) :
    State.KeepsFst k (State.readGioIn s k_) := by
  unfold State.readGioIn
  with_reducible repeat' first
    | exact hk | assumption | exact hm.regs (by decide) | exact hm.sub (by decide) | apply State.pinRead_kept |
      (refine Keeps.fst (by assumption) ?_) | (refine Keeps.snd (by assumption) ?_) | (intro _) | extract_lets |
      (dsimp -zeta only) | apply Keeps.of_fst | apply Keeps.of_snd | apply Keeps.foldl | apply Keeps.foldl_fst |
      split | apply Keeps.pair | apply Keeps.pair'

theorem State.writeLoadCmd_kept {k : Kept} (s : State) (p : Path) (v : Word) (hk : State.Keeps k s) (hm :
    k.Allows [.BOOT, .CAP, .FAB, .FRM, .GIO, .GLB, .LANE, .OBS, .PRS, .SECT, .SGC, .SWF, .gio]) :
    State.KeepsFst k (State.writeLoadCmd s p v) := by
  unfold State.writeLoadCmd
  with_reducible repeat' first
    | exact hk | assumption | exact hm.regs (by decide) | exact hm.sub (by decide) | exact hm.one (by decide) |
      apply State.put_kept | apply State.clr_kept | apply State.when_kept | apply State.applyWrite_kept |
      apply State.guardWrite_kept | (intro _) | extract_lets | (dsimp -zeta only) | apply Keeps.of_fst |
      apply Keeps.of_snd | split | apply Keeps.pair | apply Keeps.pair' | apply Keeps.upd_gio

theorem State.smbAnswer_kept {k : Kept} (s : State) (cmd : Nat) (bytes : List Nat) (hk : State.Keeps k s) (hm :
    k.Allows [.out]) :
    State.Keeps k (State.smbAnswer s cmd bytes) := by
  unfold State.smbAnswer
  with_reducible repeat' first
    | exact hk | assumption | exact hm.regs (by decide) | exact hm.sub (by decide) | apply State.send_kept |
      extract_lets | split

theorem State.smbTake_kept {k : Kept} (s : State) (pecOk bad : Bool) (f : State → State) (hk : State.Keeps k s)
    (hk_f : ∀ s, State.Keeps k s → State.Keeps k (f s)) (hm : k.Allows [.out]) :
    State.Keeps k (State.smbTake s pecOk bad f) := by
  unfold State.smbTake
  with_reducible repeat' first
    | exact hk | assumption | exact hm.regs (by decide) | exact hm.sub (by decide) | apply State.send_kept |
      apply hk_f | (intro _) | (dsimp -zeta only) | apply Keeps.of_fst | apply Keeps.of_snd | split |
      apply Keeps.pair | apply Keeps.pair'

end Sys2Proof.Machine
end

