-- ==== Sys2Proof/Laws/KeepsHif.lean ====
section
/-! SUPPORT. Laws/KeepsHif.lean: the operations of Machine/Hif.lean keep what Laws/Keeps.lean says. -/
set_option Elab.async false  -- one proof at a time: the package as one text then needs less memory
namespace Sys2Proof.Machine

theorem State.badDoorbell_kept {k : Kept} (s : State) (t : Nat) (hk : State.Keeps k s) (hm : k.Allows
    [.tenants]) :
    State.Keeps k (State.badDoorbell s t) := by
  unfold State.badDoorbell
  with_reducible repeat' first
    | exact hk | assumption | exact hm.regs (by decide) | exact hm.sub (by decide) | apply State.setTen_kept |
      extract_lets

theorem State.sqTail_kept {k : Kept} (s : State) (t r v : Nat) (hk : State.Keeps k s) (hm : k.Allows [.tenants])
    :
    State.Keeps k (State.sqTail s t r v) := by
  unfold State.sqTail
  with_reducible repeat' first
    | exact hk | assumption | exact hm.regs (by decide) | exact hm.sub (by decide) |
      apply State.badDoorbell_kept | apply State.setTen_kept | extract_lets | split

theorem State.cqHead_kept {k : Kept} (s : State) (t r v : Nat) (hk : State.Keeps k s) (hm : k.Allows [.tenants])
    :
    State.Keeps k (State.cqHead s t r v) := by
  unfold State.cqHead
  with_reducible repeat' first
    | exact hk | assumption | exact hm.regs (by decide) | exact hm.sub (by decide) |
      apply State.badDoorbell_kept | apply State.setTen_kept | (intro _) | extract_lets | (dsimp -zeta only) |
      apply Keeps.of_fst | apply Keeps.of_snd | split | apply Keeps.pair | apply Keeps.pair'

theorem State.cq0Message_kept {k : Kept} (s : State) (t : Nat) (hk : State.Keeps k s) (hm : k.Allows [.out,
    .tenants]) :
    State.Keeps k (State.cq0Message s t) := by
  unfold State.cq0Message
  with_reducible repeat' first
    | exact hk | assumption | exact hm.regs (by decide) | exact hm.sub (by decide) | apply State.when_kept |
      apply State.msix_kept | (intro _) | extract_lets | (dsimp -zeta only) | apply Keeps.of_fst |
      apply Keeps.of_snd | apply Keeps.pair | apply Keeps.pair'

theorem State.showRing0_kept {k : Kept} (s : State) (t : Nat) (hk : State.Keeps k s) (hm : k.Allows [.HIF]) :
    State.Keeps k (State.showRing0 s t) := by
  unfold State.showRing0
  with_reducible repeat' first
    | exact hk | assumption | exact hm.regs (by decide) | exact hm.sub (by decide) | exact hm.one (by decide) |
      apply State.put_kept | extract_lets

theorem State.setupRing0_kept {k : Kept} (s : State) (t : Nat) (v : Word) (hk : State.Keeps k s) (hm : k.Allows
    [.HIF, .out, .tenants]) :
    State.Keeps k (State.setupRing0 s t v) := by
  unfold State.setupRing0
  with_reducible repeat' first
    | exact hk | assumption | exact hm.regs (by decide) | exact hm.sub (by decide) | exact hm.one (by decide) |
      apply State.cq0Message_kept | apply State.showRing0_kept | apply State.ev_kept | apply State.setTen_kept |
      apply State.ok_kept | (intro _) | extract_lets | (dsimp -zeta only) | apply Keeps.of_fst |
      apply Keeps.of_snd | split | apply Keeps.pair | apply Keeps.pair'

theorem State.msixWrite_kept {k : Kept} (s : State) (t w : Nat) (v : Word) (hk : State.Keeps k s) (hm : k.Allows
    [.out, .tenants]) :
    State.Keeps k (State.msixWrite s t w v) := by
  unfold State.msixWrite
  with_reducible repeat' first
    | exact hk | assumption | exact hm.regs (by decide) | exact hm.sub (by decide) | apply State.sendHost_kept |
      apply State.setTen_kept | apply State.msix_kept | extract_lets | split

theorem State.writePage_kept {k : Kept} (s : State) (t off : Nat) (v : Word) (hk : State.Keeps k s) (hm :
    k.Allows [.HIF, .out, .tenants]) :
    State.Keeps k (State.writePage s t off v) := by
  unfold State.writePage
  with_reducible repeat' first
    | exact hk | assumption | exact hm.regs (by decide) | exact hm.sub (by decide) | exact hm.one (by decide) |
      apply State.sqTail_kept | apply State.cqHead_kept | apply State.setupRing0_kept |
      apply State.msixWrite_kept | apply State.clr_kept | apply State.when_kept | apply State.setTen_kept |
      (intro _) | extract_lets | (dsimp -zeta only) | apply Keeps.of_fst | apply Keeps.of_snd | split |
      apply Keeps.pair | apply Keeps.pair'

theorem State.readPage_kept {k : Kept} (s : State) (t off : Nat) (hk : State.Keeps k s) (hm : k.Allows
    [.tenants]) :
    State.KeepsFst k (State.readPage s t off) := by
  unfold State.readPage
  with_reducible repeat' first
    | exact hk | assumption | exact hm.regs (by decide) | exact hm.sub (by decide) | exact hm.one (by decide) |
      apply State.put_kept | apply State.setTen_kept | (intro _) | extract_lets | (dsimp -zeta only) |
      apply Keeps.of_fst | apply Keeps.of_snd | split | apply Keeps.pair | apply Keeps.pair'

theorem State.sqError_kept {k : Kept} (s : State) (t r : Nat) (hk : State.Keeps k s) (hm : k.Allows [.HIF, .out,
    .tenants]) :
    State.Keeps k (State.sqError s t r) := by
  unfold State.sqError
  with_reducible repeat' first
    | exact hk | assumption | exact hm.regs (by decide) | exact hm.sub (by decide) | apply State.cq0Message_kept |
      apply State.setTen_kept | apply State.dmaError_kept | extract_lets | split

end Sys2Proof.Machine
end

