-- ==== Sys2Proof/Laws/KeepsGrants.lean ====
section
/-! SUPPORT. Laws/KeepsGrants.lean: the operations of Machine/Grants.lean keep what Laws/Keeps.lean says. -/
set_option Elab.async false  -- one proof at a time: the package as one text then needs less memory
namespace Sys2Proof.Machine

theorem State.unitsFollow_kept {k : Kept} (s : State) (l : Nat) (hk : State.Keeps k s) (hm : k.Allows [.SECT]) :
    State.Keeps k (State.unitsFollow s l) := by
  unfold State.unitsFollow
  repeat' first
    | with_reducible exact hk
    | with_reducible assumption
    | with_reducible exact hm.regs (by decide)
    | with_reducible exact hm.sub (by decide)
    | with_reducible exact hm.one (by decide)
    | with_reducible apply State.setWord_kept
    | with_reducible apply State.each_kept
    | with_reducible refine Keeps.fst (by with_reducible assumption) ?_
    | with_reducible refine Keeps.snd (by with_reducible assumption) ?_
    | (intro _)
    | (dsimp only)
    | (simp -zeta only [id_eq])
    | with_reducible apply Keeps.of_fst
    | with_reducible apply Keeps.of_snd
    | with_reducible apply Keeps.foldl
    | with_reducible apply Keeps.foldl_fst
    | (split)
    | with_reducible apply Keeps.pair
    | with_reducible apply Keeps.pair'
    | with_reducible refine Keeps.upd_any hm ?_

theorem State.unitReset_kept {k : Kept} (s : State) (ty i : Nat) (hk : State.Keeps k s) (hm : k.All) :
    State.Keeps k (State.unitReset s ty i) := by
  unfold State.unitReset
  with_reducible repeat' first
    | exact hk | assumption | exact hm.regs | exact hm.one _ | exact hm.sub | apply State.stopCore_kept |
      apply State.setDq_kept | apply State.setOp_kept | apply State.unitsFollow_kept |
      apply State.laneReset_kept | apply State.setWord_kept | apply State.put_kept | apply State.unlinkOp_kept |
      apply State.setFrm_kept | (refine Keeps.fst (by assumption) ?_) | (refine Keeps.snd (by assumption) ?_) |
      (intro _) | extract_lets | (dsimp -zeta only) | apply Keeps.of_fst | apply Keeps.of_snd | split |
      apply Keeps.pair | apply Keeps.pair' | apply Keeps.upd_swf | (refine Keeps.all_plain hm ?_) |
      (refine Keeps.all_filter _ hm ?_)

theorem State.unitGive_kept {k : Kept} (s : State) (ty i t : Nat) (hk : State.Keeps k s) (hm : k.Allows [.FRM,
    .GIO, .LANE, .PRS, .SGC, .swf, .trigPinHolder]) :
    State.Keeps k (State.unitGive s ty i t) := by
  unfold State.unitGive
  with_reducible repeat' first
    | exact hk | assumption | exact hm.regs (by decide) | exact hm.sub (by decide) | exact hm.one (by decide) |
      apply State.put_kept | (refine Keeps.fst (by assumption) ?_) | (refine Keeps.snd (by assumption) ?_) |
      extract_lets | (dsimp -zeta only) | apply Keeps.of_fst | apply Keeps.of_snd | split | apply Keeps.pair |
      apply Keeps.pair' | apply Keeps.upd_trigPinHolder | apply Keeps.upd_swf

theorem State.votesFollow_kept {k : Kept} (s : State) (n t : Nat) (hk : State.Keeps k s) (hm : k.Allows [.FAB,
    .HIF, .PWR, .out, .pwr, .swf, .tenants]) :
    State.Keeps k (State.votesFollow s n t) := by
  unfold State.votesFollow
  with_reducible repeat' first
    | exact hk | assumption | exact hm.regs (by decide) | exact hm.sub (by decide) | apply State.each_kept |
      apply State.voteBorn_kept | apply State.voteGone_kept | (intro _) | extract_lets | (dsimp -zeta only) |
      apply Keeps.of_fst | apply Keeps.of_snd | apply Keeps.pair | apply Keeps.pair'

theorem State.movesEnd_kept {k : Kept} (s : State) (hk : State.Keeps k s) (hm : k.Allows [.FAB, .HIF, .PWR,
    .fab, .out, .pwr, .swf, .tenants]) :
    State.Keeps k (State.movesEnd s) := by
  unfold State.movesEnd
  with_reducible repeat' first
    | exact hk | assumption | exact hm.regs (by decide) | exact hm.sub (by decide) | apply State.sectMoves_kept |
      apply State.votesFollow_kept | apply State.each_kept | (intro _) | extract_lets | (dsimp -zeta only) |
      apply Keeps.of_fst | apply Keeps.of_snd | apply Keeps.pair | apply Keeps.pair'

theorem State.sectGive_kept {k : Kept} (s : State) (d : Option Desc) (t first count : Nat) (hk : State.Keeps k
    s) (hm : k.Allows [.FAB, .HIF, .PWR, .fab, .out, .pwr, .swf, .tenants]) :
    State.Keeps k (State.sectGive s d t first count) := by
  unfold State.sectGive
  with_reducible repeat' first
    | exact hk | assumption | exact hm.regs (by decide) | exact hm.sub (by decide) | exact hm.one (by decide) |
      apply State.sectClear_kept | apply State.movesEnd_kept | apply State.each_kept | (intro _) | extract_lets |
      (dsimp -zeta only) | apply Keeps.of_fst | apply Keeps.of_snd | split | apply Keeps.pair |
      apply Keeps.pair' | apply Keeps.upd_fab

theorem State.moveUnits_kept {k : Kept} (s : State) (d : Desc) (ty first count t : Nat) (hk : State.Keeps k s)
    (hm : k.All) :
    State.Keeps k (State.moveUnits s d ty first count t) := by
  unfold State.moveUnits
  with_reducible repeat' first
    | exact hk | assumption | exact hm.regs | exact hm.one _ | exact hm.sub | apply State.unitReset_kept |
      apply State.unitGive_kept | apply State.votesFollow_kept | apply State.sectGive_kept |
      apply State.each_kept | apply State.ok_kept | (refine Keeps.fst (by assumption) ?_) |
      (refine Keeps.snd (by assumption) ?_) | (intro _) | extract_lets | (dsimp -zeta only) | apply Keeps.of_fst |
      apply Keeps.of_snd | split | apply Keeps.pair | apply Keeps.pair' | (refine Keeps.all_plain hm ?_)

theorem State.grantUnits_kept {k : Kept} (s : State) (d : Desc) (ty t first count src dst : Nat) (hk :
    State.Keeps k s) (hm : k.All) :
    State.Keeps k (State.grantUnits s d ty t first count src dst) := by
  unfold State.grantUnits
  with_reducible repeat' first
    | exact hk | assumption | exact hm.regs | exact hm.one _ | exact hm.sub | apply State.moveUnits_kept |
      apply State.descriptor_kept | (intro _) | extract_lets | (dsimp -zeta only) | apply Keeps.of_fst |
      apply Keeps.of_snd | apply Keeps.pair | apply Keeps.pair' | (refine Keeps.all_plain hm ?_)

theorem State.dropDescs_kept {k : Kept} (s : State) (t : Nat) (hk : State.Keeps k s) (hm : k.Allows [.cap, .fab,
    .pwr, .swf]) :
    State.Keeps k (State.dropDescs s t) := by
  unfold State.dropDescs
  repeat' first
    | with_reducible exact hk
    | with_reducible assumption
    | with_reducible exact hm.regs (by decide)
    | with_reducible exact hm.sub (by decide)
    | with_reducible exact hm.one (by decide)
    | with_reducible refine Keeps.fst (by with_reducible assumption) ?_
    | with_reducible refine Keeps.snd (by with_reducible assumption) ?_
    | (intro _)
    | (extract_lets)
    | (dsimp -zeta only)
    | (simp -zeta only [id_eq])
    | with_reducible apply Keeps.of_fst
    | with_reducible apply Keeps.of_snd
    | with_reducible apply Keeps.foldl
    | with_reducible apply Keeps.foldl_fst
    | (split)
    | with_reducible apply Keeps.pair
    | with_reducible apply Keeps.pair'
    | with_reducible apply Keeps.upd_pwr
    | with_reducible apply Keeps.upd_swf
    | with_reducible apply Keeps.upd_cap
    | with_reducible apply Keeps.upd_fab
    | with_reducible refine Keeps.upd_any hm ?_

theorem State.resetBegin_kept {k : Kept} (s : State) (t : Nat) (hk : State.Keeps k s) (hm : k.All) :
    State.Keeps k (State.resetBegin s t) := by
  unfold State.resetBegin
  with_reducible repeat' first
    | exact hk | assumption | exact hm.regs | exact hm.one _ | exact hm.sub | apply State.beginStop_kept |
      apply State.endSession_kept | apply State.sectStop_kept | apply State.unitReset_kept |
      apply State.dropDescs_kept | apply State.digAbort_kept | apply State.probeEnd_kept |
      apply State.setWord_kept | apply State.put_kept | apply State.clr_kept | apply State.when_kept |
      apply State.each_kept | apply State.setTen_kept | apply State.pressReset_kept |
      apply State.endTenantSess_kept | apply State.freeTask_kept | apply State.releasePlaces_kept |
      apply State.frmEnd_kept | (intro _) | extract_lets | (dsimp -zeta only) | apply Keeps.of_fst |
      apply Keeps.of_snd | split | apply Keeps.pair | apply Keeps.pair' | (refine Keeps.all_plain hm ?_)

theorem State.sectReturn_kept {k : Kept} (s : State) (n : Nat) (hk : State.Keeps k s) (hm : k.Allows [.FAB,
    .HIF, .fab, .out, .swf, .tenants]) :
    State.Keeps k (State.sectReturn s n) := by
  unfold State.sectReturn
  with_reducible repeat' first
    | exact hk | assumption | exact hm.regs (by decide) | exact hm.sub (by decide) | exact hm.one (by decide) |
      apply State.sectBlank_kept | apply State.sectClear_kept | apply State.sectMoved_kept |
      apply State.sectStopped_kept | extract_lets | split | apply Keeps.upd_fab

theorem State.resetEnd_kept {k : Kept} (s : State) (t : Nat) (hk : State.Keeps k s) (hm : k.Allows [.HIF,
    .tenants]) :
    State.Keeps k (State.resetEnd s t) := by
  unfold State.resetEnd
  with_reducible repeat' first
    | exact hk | assumption | exact hm.regs (by decide) | exact hm.sub (by decide) | exact hm.one (by decide) |
      apply State.put_kept | apply State.ev_kept | apply State.setTen_kept | extract_lets | split

theorem State.resetsEnd_kept {k : Kept} (s : State) (hk : State.Keeps k s) (hm : k.Allows [.HIF, .tenants]) :
    State.Keeps k (State.resetsEnd s) := by
  unfold State.resetsEnd
  with_reducible repeat' first
    | exact hk | assumption | exact hm.regs (by decide) | exact hm.sub (by decide) | apply State.resetEnd_kept |
      apply State.each_kept | (intro _) | (dsimp -zeta only) | apply Keeps.of_fst | apply Keeps.of_snd | split |
      apply Keeps.pair | apply Keeps.pair'

theorem State.resetRelease_kept {k : Kept} (s : State) (t : Nat) (hk : State.Keeps k s) (hm : k.All) :
    State.Keeps k (State.resetRelease s t) := by
  unfold State.resetRelease
  with_reducible repeat' first
    | exact hk | assumption | exact hm.regs | exact hm.one _ | exact hm.sub | apply State.unitReset_kept |
      apply State.unitGive_kept | apply State.movesEnd_kept | apply State.sectReturn_kept |
      apply State.resetsEnd_kept | apply State.setWord_kept | apply State.each_kept | apply State.setTen_kept |
      apply State.voteGone_kept | apply State.zeroise_kept | (intro _) | extract_lets | (dsimp -zeta only) |
      apply Keeps.of_fst | apply Keeps.of_snd | apply Keeps.pair | apply Keeps.pair' |
      (refine Keeps.all_plain hm ?_)

theorem State.vfsDown_kept {k : Kept} (s : State) (n : Nat) (hk : State.Keeps k s) (hm : k.All) :
    State.Keeps k (State.vfsDown s n) := by
  unfold State.vfsDown
  with_reducible repeat' first
    | exact hk | assumption | exact hm.regs | exact hm.one _ | exact hm.sub | apply State.resetBegin_kept |
      apply State.put_kept | apply State.each_kept | apply State.setTen_kept | (intro _) | extract_lets |
      (dsimp -zeta only) | apply Keeps.of_fst | apply Keeps.of_snd | split | apply Keeps.pair |
      apply Keeps.pair' | (refine Keeps.all_plain hm ?_)

theorem State.resetPf0_kept {k : Kept} (s : State) (hk : State.Keeps k s) (hm : k.All) :
    State.Keeps k (State.resetPf0 s) := by
  unfold State.resetPf0
  with_reducible repeat' first
    | exact hk | assumption | exact hm.regs | exact hm.one _ | exact hm.sub | apply State.resetBegin_kept |
      apply State.vfsDown_kept | extract_lets | split | (refine Keeps.all_plain hm ?_)

theorem State.linkDown_kept {k : Kept} (s : State) (hk : State.Keeps k s) (hm : k.Allows [.HIF]) :
    State.Keeps k (State.linkDown s) := by
  unfold State.linkDown
  with_reducible repeat' first
    | exact hk | assumption | exact hm.regs (by decide) | exact hm.sub (by decide) | exact hm.one (by decide) |
      apply State.put_kept | apply State.ev_kept | apply State.when_kept | (intro _) | extract_lets |
      (dsimp -zeta only) | apply Keeps.of_fst | apply Keeps.of_snd | apply Keeps.pair | apply Keeps.pair'

end Sys2Proof.Machine
end

