-- ==== Sys2Proof/Laws/KeepsRegBus.lean ====
section
/-! SUPPORT. Laws/KeepsRegBus.lean: the operations of Machine/RegBus.lean keep what Laws/Keeps.lean says. -/
set_option Elab.async false  -- one proof at a time: the package as one text then needs less memory
namespace Sys2Proof.Machine

theorem State.setLatch_kept {k : Kept} (s : State) (off : Nat) (p : Path) (ws : List Word) (hk : State.Keeps k
    s) (hm : k.Allows [.latch]) :
    State.Keeps k (State.setLatch s off p ws) := by
  unfold State.setLatch
  with_reducible repeat' first
    | exact hk | assumption | exact hm.regs (by decide) | exact hm.sub (by decide) | exact hm.one (by decide) |
      extract_lets | apply Keeps.upd_latch

theorem State.readAt_kept {k : Kept} (s : State) (p : Path) (r : RegDef) (i j k_ : Nat) (clears : Bool) (hk :
    State.Keeps k s) (hm : k.Allows [.free, .latch]) (hr_r : k.Regs r) :
    State.KeepsFst k (State.readAt s p r i j k_ clears) := by
  unfold State.readAt
  with_reducible repeat' first
    | exact hk | assumption | exact hm.regs (by decide) | exact hm.sub (by decide) | apply State.readGioIn_kept |
      apply State.readShadow_kept | apply State.setWord_kept | apply State.readLogData_kept |
      apply State.setLatch_kept | (refine Keeps.fst (by assumption) ?_) | (refine Keeps.snd (by assumption) ?_) |
      (intro _) | extract_lets | (dsimp -zeta only) | apply Keeps.of_fst | apply Keeps.of_snd | split |
      apply Keeps.pair | apply Keeps.pair'

theorem State.readReg_kept {k : Kept} (s : State) (p : Path) (off : Nat) (clears : Bool) (hk : State.Keeps k s)
    (hm : k.All) :
    State.KeepsFst k (State.readReg s p off clears) := by
  unfold State.readReg
  repeat' first
    | with_reducible exact hk
    | with_reducible assumption
    | with_reducible exact hm.regs
    | with_reducible exact hm.one _
    | with_reducible exact hm.sub
    | with_reducible apply State.readAt_kept
    | with_reducible refine Keeps.fst (by with_reducible assumption) ?_
    | with_reducible refine Keeps.snd (by with_reducible assumption) ?_
    | (intro _)
    | (dsimp only)
    | (simp -zeta only [id_eq])
    | with_reducible apply Keeps.of_fst
    | with_reducible apply Keeps.of_snd
    | with_reducible apply Keeps.foldl
    | with_reducible apply Keeps.foldl_fst
    | (split)
    | with_reducible apply Keeps.pair
    | with_reducible apply Keeps.pair'
    | with_reducible refine Keeps.all_plain hm ?_

set_option maxRecDepth 20000 in
theorem State.writeAt_kept {k : Kept} (s : State) (p : Path) (path : Nat) (r : RegDef) (i j k_ : Nat) (v : Word)
    (hk : State.Keeps k s) (hm : k.All) (hr_r : k.Regs r) :
    State.KeepsFst k (State.writeAt s p path r i j k_ v) := by
  unfold State.writeAt
  extract_lets
  refine Keeps.ite_pair (by apply State.writeDbg_kept <;> first | exact hk | assumption | exact hm.sub | exact hm | exact hm.regs) ?_
  refine Keeps.ite_pair (by apply State.writeRefCtrl_kept <;> first | exact hk | assumption | exact hm.sub | exact hm | exact hm.regs) ?_
  refine Keeps.ite_pair (by apply State.writeCand_kept <;> first | exact hk | assumption | exact hm.sub | exact hm | exact hm.regs) ?_
  refine Keeps.ite_pair (by apply State.writeOutCtrl_kept <;> first | exact hk | assumption | exact hm.sub | exact hm | exact hm.regs) ?_
  refine Keeps.ite_pair (by apply State.writeFreqAdj_kept <;> first | exact hk | assumption | exact hm.sub | exact hm | exact hm.regs) ?_
  refine Keeps.ite_pair (by apply State.writeTimeCmd_kept <;> first | exact hk | assumption | exact hm.sub | exact hm | exact hm.regs) ?_
  refine Keeps.ite_pair (by apply State.writeDevCtrl_kept <;> first | exact hk | assumption | exact hm.sub | exact hm | exact hm.regs) ?_
  refine Keeps.ite_pair (by apply State.writeVoteCmd_kept <;> first | exact hk | assumption | exact hm.sub | exact hm | exact hm.regs) ?_
  refine Keeps.ite_pair (by apply State.writeBootCtrl_kept <;> first | exact hk | assumption | exact hm.sub | exact hm | exact hm.regs) ?_
  refine Keeps.ite_pair (by apply State.writeImageSel_kept <;> first | exact hk | assumption | exact hm.sub | exact hm | exact hm.regs) ?_
  refine Keeps.ite_pair (by apply State.writeFolCmd_kept <;> first | exact hk | assumption | exact hm.sub | exact hm | exact hm.regs) ?_
  refine Keeps.ite_pair (by apply State.writeFolCfg_kept <;> first | exact hk | assumption | exact hm.sub | exact hm | exact hm.regs) ?_
  refine Keeps.ite_pair (by apply State.writeLoadCmd_kept <;> first | exact hk | assumption | exact hm.sub | exact hm | exact hm.regs) ?_
  refine Keeps.ite_pair (by apply State.writeBankCfg_kept <;> first | exact hk | assumption | exact hm.sub | exact hm | exact hm.regs) ?_
  refine Keeps.ite_pair (by apply State.writeGioOut_kept <;> first | exact hk | assumption | exact hm.sub | exact hm | exact hm.regs) ?_
  refine Keeps.ite_pair (by apply State.writePinCfg_kept <;> first | exact hk | assumption | exact hm.sub | exact hm | exact hm.regs) ?_
  refine Keeps.ite_pair (by apply State.writeTline_kept <;> first | exact hk | assumption | exact hm.sub | exact hm | exact hm.regs) ?_
  refine Keeps.ite_pair (by apply State.writeSecCtrl_kept <;> first | exact hk | assumption | exact hm.sub | exact hm | exact hm.regs) ?_
  refine Keeps.ite_pair (by apply State.writeRingKey_kept <;> first | exact hk | assumption | exact hm.sub | exact hm | exact hm.regs) ?_
  refine Keeps.ite_pair (by
    apply State.guardWrite_kept <;> with_reducible repeat' first
      | exact hk | assumption | exact hm.sub | exact hm | exact hm.regs | intro _ | exact Keeps.pair (by assumption)
      | apply refuseWrite_kept | apply State.ev_kept) ?_
  refine Keeps.ite_pair (by apply State.writePoolCfg_kept <;> first | exact hk | assumption | exact hm.sub | exact hm | exact hm.regs) ?_
  refine Keeps.ite_pair (by apply State.writeTenantSwf_kept <;> first | exact hk | assumption | exact hm.sub | exact hm | exact hm.regs) ?_
  refine Keeps.ite_pair (by apply State.writeTenantSwf_kept <;> first | exact hk | assumption | exact hm.sub | exact hm | exact hm.regs) ?_
  refine Keeps.ite_pair (by apply State.writeTraceCfg_kept <;> first | exact hk | assumption | exact hm.sub | exact hm | exact hm.regs) ?_
  refine Keeps.ite_pair (by apply State.writeProbe_kept <;> first | exact hk | assumption | exact hm.sub | exact hm | exact hm.regs) ?_
  refine Keeps.ite_pair (by apply State.writeProbe_kept <;> first | exact hk | assumption | exact hm.sub | exact hm | exact hm.regs) ?_
  refine Keeps.ite_pair (by apply State.writeProbe_kept <;> first | exact hk | assumption | exact hm.sub | exact hm | exact hm.regs) ?_
  refine Keeps.ite_pair (by apply State.writeProbe_kept <;> first | exact hk | assumption | exact hm.sub | exact hm | exact hm.regs) ?_
  refine Keeps.ite_pair (by apply State.writeRmtCtrl_kept <;> first | exact hk | assumption | exact hm.sub | exact hm | exact hm.regs) ?_
  refine Keeps.ite_pair (by apply State.writeRingCfg_kept <;> first | exact hk | assumption | exact hm.sub | exact hm | exact hm.regs) ?_
  refine Keeps.ite_pair (by apply State.writeCxlMode_kept <;> first | exact hk | assumption | exact hm.sub | exact hm | exact hm.regs) ?_
  refine Keeps.ite_pair (by apply State.writeDrainCfg_kept <;> first | exact hk | assumption | exact hm.sub | exact hm | exact hm.regs) ?_
  refine Keeps.ite_pair (by
    apply State.guardWrite_kept <;> with_reducible repeat' first
      | exact hk | assumption | exact hm.sub | exact hm | exact hm.regs | intro _ | exact Keeps.pair (by assumption)
      | apply refuseWrite_kept | apply State.ev_kept) ?_
  refine Keeps.ite_pair (by apply State.writeCacheLines_kept <;> first | exact hk | assumption | exact hm.sub | exact hm | exact hm.regs) ?_
  refine Keeps.ite_pair (by apply State.writePress_kept <;> first | exact hk | assumption | exact hm.sub | exact hm | exact hm.regs) ?_
  refine Keeps.ite_pair (by apply State.writeFrame_kept <;> first | exact hk | assumption | exact hm.sub | exact hm | exact hm.regs) ?_
  refine Keeps.ite_pair (by apply State.writeLaneCtrl_kept <;> first | exact hk | assumption | exact hm.sub | exact hm | exact hm.regs) ?_
  refine Keeps.ite_pair (by apply State.writeLaneRate_kept <;> first | exact hk | assumption | exact hm.sub | exact hm | exact hm.regs) ?_
  refine Keeps.ite_pair (by apply State.writeTxFir_kept <;> first | exact hk | assumption | exact hm.sub | exact hm | exact hm.regs) ?_
  refine Keeps.ite_pair (by apply State.writeRxEq_kept <;> first | exact hk | assumption | exact hm.sub | exact hm | exact hm.regs) ?_
  refine Keeps.ite_pair (by apply State.writeRxCoef_kept <;> first | exact hk | assumption | exact hm.sub | exact hm | exact hm.regs) ?_
  refine Keeps.ite_pair (by apply State.writeDigCfg_kept <;> first | exact hk | assumption | exact hm.sub | exact hm | exact hm.regs) ?_
  refine Keeps.ite_pair (by apply State.writeProbeCtrl_kept <;> first | exact hk | assumption | exact hm.sub | exact hm | exact hm.regs) ?_
  refine Keeps.ite_pair (by apply State.writeProbeData_kept <;> first | exact hk | assumption | exact hm.sub | exact hm | exact hm.regs) ?_
  refine Keeps.ite_pair (by apply State.writeIntake_kept <;> first | exact hk | assumption | exact hm.sub | exact hm | exact hm.regs) ?_
  refine Keeps.ite_pair (by apply State.writeIntake_kept <;> first | exact hk | assumption | exact hm.sub | exact hm | exact hm.regs) ?_
  refine Keeps.ite_pair (by apply State.writeIntake_kept <;> first | exact hk | assumption | exact hm.sub | exact hm | exact hm.regs) ?_
  refine Keeps.ite_pair (by apply State.writeMatch_kept <;> first | exact hk | assumption | exact hm.sub | exact hm | exact hm.regs) ?_
  refine Keeps.ite_pair (by apply State.writeMatch_kept <;> first | exact hk | assumption | exact hm.sub | exact hm | exact hm.regs) ?_
  refine Keeps.ite_pair (by apply State.writeMatch_kept <;> first | exact hk | assumption | exact hm.sub | exact hm | exact hm.regs) ?_
  refine Keeps.ite_pair (by apply State.writeCnt_kept <;> first | exact hk | assumption | exact hm.sub | exact hm | exact hm.regs) ?_
  refine Keeps.ite_pair (by apply State.writeCnt_kept <;> first | exact hk | assumption | exact hm.sub | exact hm | exact hm.regs) ?_
  refine Keeps.ite_pair (by apply State.writeSeqCtrl_kept <;> first | exact hk | assumption | exact hm.sub | exact hm | exact hm.regs) ?_
  refine Keeps.ite_pair (by apply State.writeArc_kept <;> first | exact hk | assumption | exact hm.sub | exact hm | exact hm.regs) ?_
  refine Keeps.ite_pair (by apply State.writeArc_kept <;> first | exact hk | assumption | exact hm.sub | exact hm | exact hm.regs) ?_
  refine Keeps.ite_pair (by apply State.writeArc_kept <;> first | exact hk | assumption | exact hm.sub | exact hm | exact hm.regs) ?_
  refine Keeps.ite_pair (by apply State.writeArc_kept <;> first | exact hk | assumption | exact hm.sub | exact hm | exact hm.regs) ?_
  refine Keeps.ite_pair (by apply State.writeArc_kept <;> first | exact hk | assumption | exact hm.sub | exact hm | exact hm.regs) ?_
  refine Keeps.ite_pair (by apply State.writeSgc_kept <;> first | exact hk | assumption | exact hm.sub | exact hm | exact hm.regs) ?_
  refine Keeps.ite_pair (by apply State.writeSgc_kept <;> first | exact hk | assumption | exact hm.sub | exact hm | exact hm.regs) ?_
  refine Keeps.ite_pair (by apply State.writeSgc_kept <;> first | exact hk | assumption | exact hm.sub | exact hm | exact hm.regs) ?_
  refine Keeps.ite_pair (by apply State.writeSectCtrl_kept <;> first | exact hk | assumption | exact hm.sub | exact hm | exact hm.regs) ?_
  refine Keeps.ite_pair (by apply State.writeRclk_kept <;> first | exact hk | assumption | exact hm.sub | exact hm | exact hm.regs) ?_
  refine Keeps.ite_pair (by apply State.writeMemInject_kept <;> first | exact hk | assumption | exact hm.sub | exact hm | exact hm.regs) ?_
  apply State.plainWrite_kept <;> first | exact hk | assumption | exact hm.sub | exact hm | exact hm.regs

theorem State.writeReg_kept {k : Kept} (s : State) (p : Path) (path : Nat) (off : Nat) (v : Word) (hk :
    State.Keeps k s) (hm : k.All) :
    State.KeepsFst k (State.writeReg s p path off v) := by
  unfold State.writeReg
  with_reducible repeat' first
    | exact hk | assumption | exact hm.regs | exact hm.one _ | exact hm.sub | apply State.setCore_kept |
      apply State.ev_kept | apply State.cnt_kept | apply State.err_kept | apply State.lostWrite_kept |
      apply State.windowWrite_kept | apply refuseWrite_kept | apply State.writeAt_kept |
      (refine Keeps.fst (by assumption) ?_) | (refine Keeps.snd (by assumption) ?_) | (intro _) | extract_lets |
      (dsimp -zeta only) | apply Keeps.of_fst | apply Keeps.of_snd | split | apply Keeps.pair |
      apply Keeps.pair' | (refine Keeps.all_plain hm ?_)

theorem State.applyEntries_kept {k : Kept} (p : Path) (l : List (Word × Word)) (n : Nat) (s : State) (hk : State.Keeps k s)
    (hm : k.All) :
    State.KeepsFst k (State.applyEntries s p n l) := by
  induction l generalizing s n with
  | nil => exact ⟨hk⟩
  | cons e r ih =>
    have h := State.writeReg_kept s p 0 e.1.toNat e.2 hk hm
    unfold State.applyEntries
    dsimp only
    split
    · exact ih _ _ h.fst
    · exact ⟨h.fst⟩

theorem State.readRegs_kept {k : Kept} (p : Path) (l : List Word) (s : State) (hk : State.Keeps k s)
    (hm : k.All) :
    State.KeepsFst k (State.readRegs s p l) := by
  induction l generalizing s with
  | nil => exact ⟨hk⟩
  | cons o r ih =>
    have h := State.readReg_kept s p o.toNat true hk hm
    unfold State.readRegs
    dsimp only
    exact ⟨(ih _ h.fst).fst⟩

theorem State.hostAccess_kept {k : Kept} (s : State) (p : Path) (hk : State.Keeps k s) (hm : k.All) :
    State.Keeps k (State.hostAccess s p) := by
  unfold State.hostAccess
  with_reducible repeat' first
    | exact hk | assumption | exact hm.regs | exact hm.one _ | exact hm.sub | apply State.when_kept |
      apply State.wakeBy_kept | (intro _) | (dsimp -zeta only) | apply Keeps.of_fst | apply Keeps.of_snd |
      apply Keeps.pair | apply Keeps.pair' | (refine Keeps.all_plain hm ?_)

theorem State.busRead_kept {k : Kept} (s : State) (p : Path) (page : Option (BitVec 8)) (off : Word) (be :
    BitVec 4) (hk : State.Keeps k s) (hm : k.All) :
    State.Keeps k (State.busRead s p page off be) := by
  unfold State.busRead
  with_reducible repeat' first
    | exact hk | assumption | exact hm.regs | exact hm.one _ | exact hm.sub | apply State.readPage_kept |
      apply State.when_kept | apply State.err_kept | apply State.send_kept | apply State.readReg_kept |
      apply State.hostAccess_kept | (refine Keeps.fst (by assumption) ?_) |
      (refine Keeps.snd (by assumption) ?_) | (intro _) | extract_lets | (dsimp -zeta only) | apply Keeps.of_fst |
      apply Keeps.of_snd | split | apply Keeps.pair | apply Keeps.pair' | (refine Keeps.all_plain hm ?_)

theorem State.busWrite_kept {k : Kept} (s : State) (p : Path) (page : Option (BitVec 8)) (off v : Word) (be :
    BitVec 4) (hk : State.Keeps k s) (hm : k.All) :
    State.Keeps k (State.busWrite s p page off v be) := by
  unfold State.busWrite
  with_reducible repeat' first
    | exact hk | assumption | exact hm.regs | exact hm.one _ | exact hm.sub | apply State.writePage_kept |
      apply State.err_kept | apply State.writeReg_kept | apply State.hostAccess_kept |
      (refine Keeps.fst (by assumption) ?_) | (refine Keeps.snd (by assumption) ?_) | extract_lets |
      (dsimp -zeta only) | apply Keeps.of_fst | apply Keeps.of_snd | split | apply Keeps.pair |
      apply Keeps.pair' | (refine Keeps.all_plain hm ?_)

end Sys2Proof.Machine
end

