-- ==== Sys2Proof/Laws/KeepsDebugPort.lean ====
section
/-! SUPPORT. Laws/KeepsDebugPort.lean: the operations of Machine/DebugPort.lean keep what Laws/Keeps.lean says. -/
set_option Elab.async false  -- one proof at a time: the package as one text then needs less memory
namespace Sys2Proof.Machine

theorem State.setPort0_kept {k : Kept} (s : State) (x : PortSt) (hk : State.Keeps k s) (hm : k.Allows [.dbg]) :
    State.Keeps k (State.setPort0 s x) := by
  unfold State.setPort0
  with_reducible repeat' first
    | exact hk | assumption | exact hm.regs (by decide) | exact hm.sub (by decide) | exact hm.one (by decide) |
      extract_lets | apply Keeps.upd_dbg

theorem State.portError_kept {k : Kept} (s : State) (cause : Nat) (hk : State.Keeps k s) (hm : k.Allows [.dbg])
    :
    State.Keeps k (State.portError s cause) := by
  unfold State.portError
  with_reducible repeat' first
    | exact hk | assumption | exact hm.regs (by decide) | exact hm.sub (by decide) | apply State.setPort0_kept |
      extract_lets

theorem State.accErr_kept {k : Kept} (s : State) (cause : Nat) (hk : State.Keeps k s) :
    State.KeepsFst k (State.accErr s cause) := by
  unfold State.accErr
  with_reducible repeat' first
    | exact hk | assumption | (dsimp -zeta only) | apply Keeps.of_fst | apply Keeps.of_snd | apply Keeps.pair |
      apply Keeps.pair'

theorem State.regSpace_kept {k : Kept} (s : State) (path : Nat) (write : Bool) (off : Nat) (v : Word) (hk :
    State.Keeps k s) (hm : k.All) :
    State.KeepsFst k (State.regSpace s path write off v) := by
  unfold State.regSpace
  with_reducible repeat' first
    | exact hk | assumption | exact hm.regs | exact hm.one _ | exact hm.sub | apply State.accErr_kept |
      apply State.ok_kept | apply State.readReg_kept | apply State.writeReg_kept |
      (refine Keeps.fst (by assumption) ?_) | (refine Keeps.snd (by assumption) ?_) | extract_lets |
      (dsimp -zeta only) | apply Keeps.of_fst | apply Keeps.of_snd | split | apply Keeps.pair |
      apply Keeps.pair' | (refine Keeps.all_plain hm ?_)

theorem State.tierSpace_kept {k : Kept} (s : State) (write : Bool) (addr : Nat) (hk : State.Keeps k s) (hm :
    k.Allows [.SEC, .free]) :
    State.KeepsFst k (State.tierSpace s write addr) := by
  unfold State.tierSpace
  with_reducible repeat' first
    | exact hk | assumption | exact hm.regs (by decide) | exact hm.sub (by decide) | apply State.accErr_kept |
      apply State.fresh_kept | apply State.ok_kept | apply State.blockRaw_kept |
      (refine Keeps.fst (by assumption) ?_) | (refine Keeps.snd (by assumption) ?_) | extract_lets |
      (dsimp -zeta only) | apply Keeps.of_fst | apply Keeps.of_snd | split | apply Keeps.pair |
      apply Keeps.pair'

theorem State.coreSpace_kept {k : Kept} (s : State) (write : Bool) (c off : Nat) (v : Word) (hk : State.Keeps k
    s) (hm : k.Allows [.SGC, .cores]) :
    State.KeepsFst k (State.coreSpace s write c off v) := by
  unfold State.coreSpace
  with_reducible repeat' first
    | exact hk | assumption | exact hm.regs (by decide) | exact hm.sub (by decide) | apply State.setCore_kept |
      apply State.accErr_kept | apply State.ok_kept | apply State.windowWrite_kept |
      (refine Keeps.fst (by assumption) ?_) | (refine Keeps.snd (by assumption) ?_) | extract_lets |
      (dsimp -zeta only) | apply Keeps.of_fst | apply Keeps.of_snd | split | apply Keeps.pair |
      apply Keeps.pair'

theorem State.dbgAccess_kept {k : Kept} (s : State) (path : Nat) (write : Bool) (v : Word) (hk : State.Keeps k
    s) (hm : k.All) :
    State.KeepsFst k (State.dbgAccess s path write v) := by
  unfold State.dbgAccess
  with_reducible repeat' first
    | exact hk | assumption | exact hm.regs | exact hm.one _ | exact hm.sub | apply State.accErr_kept |
      apply State.regSpace_kept | apply State.tierSpace_kept | apply State.coreSpace_kept | extract_lets |
      (dsimp -zeta only) | apply Keeps.of_fst | apply Keeps.of_snd | split | apply Keeps.pair |
      apply Keeps.pair' | (refine Keeps.all_plain hm ?_)

theorem State.runAccess_kept {k : Kept} (s : State) (path : Nat) (write inc : Bool) (v : Word) (hk : State.Keeps
    k s) (hm : k.All) :
    State.Keeps k (State.runAccess s path write inc v) := by
  unfold State.runAccess
  have h := State.dbgAccess_kept s path write v hk hm
  generalize s.dbgAccess path write v = r at h ⊢
  obtain ⟨t, e⟩ := r
  cases e <;> exact State.setPort0_kept _ _ h.fst hm.sub

theorem State.newAccess_kept {k : Kept} (s : State) (path a : Nat) (write tag pending : Bool) (v : Word) (hk :
    State.Keeps k s) (hm : k.All) :
    State.Keeps k (State.newAccess s path a write tag pending v) := by
  unfold State.newAccess
  with_reducible repeat' first
    | exact hk | assumption | exact hm.regs | exact hm.one _ | exact hm.sub | apply State.setPort0_kept |
      apply State.runAccess_kept | (refine Keeps.fst (by assumption) ?_) | (refine Keeps.snd (by assumption) ?_) |
      (intro _) | extract_lets | (dsimp -zeta only) | apply Keeps.of_fst | apply Keeps.of_snd | split |
      apply Keeps.pair | apply Keeps.pair' | (refine Keeps.all_plain hm ?_)

theorem State.portCommand_kept {k : Kept} (s : State) (path a : Nat) (write tag pending : Bool) (v : Word) (hk :
    State.Keeps k s) (hm : k.All) :
    State.KeepsFst k (State.portCommand s path a write tag pending v) := by
  unfold State.portCommand
  with_reducible repeat' first
    | exact hk | assumption | exact hm.regs | exact hm.one _ | exact hm.sub | apply State.portError_kept |
      apply State.newAccess_kept | apply State.when_kept | (refine Keeps.fst (by assumption) ?_) |
      (refine Keeps.snd (by assumption) ?_) | (intro _) | extract_lets | (dsimp -zeta only) | apply Keeps.of_fst |
      apply Keeps.of_snd | split | apply Keeps.pair | apply Keeps.pair' | apply Keeps.upd_dbg |
      (refine Keeps.all_plain hm ?_)

theorem State.portReply_kept {k : Kept} (s : State) (write : Bool) (r : Nat × Nat) (hk : State.Keeps k s) (hm :
    k.Allows [.out]) :
    State.Keeps k (State.portReply s write r) := by
  unfold State.portReply
  with_reducible repeat' first
    | exact hk | assumption | exact hm.regs (by decide) | exact hm.sub (by decide) | apply State.send_kept |
      (dsimp -zeta only) | apply Keeps.of_fst | apply Keeps.of_snd | split

theorem State.portWire_kept {k : Kept} (s : State) (a : Nat) (c : PortCmd) (hk : State.Keeps k s) (hm : k.All) :
    State.Keeps k (State.portWire s a c) := by
  unfold State.portWire
  with_reducible repeat' first
    | exact hk | assumption | exact hm.regs | exact hm.one _ | exact hm.sub | apply State.portError_kept |
      apply State.portCommand_kept | apply State.portReply_kept | (refine Keeps.fst (by assumption) ?_) |
      (refine Keeps.snd (by assumption) ?_) | extract_lets | (dsimp -zeta only) | apply Keeps.of_fst |
      apply Keeps.of_snd | split | apply Keeps.pair | apply Keeps.pair' | (refine Keeps.all_plain hm ?_)

end Sys2Proof.Machine
end

