-- ==== Sys2Proof/Laws/RunsClock.lean ====
section
/-! SUPPORT. Laws/RunsClock.lean: the meanings of Machine/Clock.lean keep what Laws/Keeps.lean says. -/
set_option Elab.async false  -- one proof at a time: the package as one text then needs less memory
namespace Sys2Proof.Machine

theorem execQualGateEnd_kept {k : Kept} (n : BitVec 2) (edges : Bool) (offset : BitVec 16) (s : State) (hk :
    State.Keeps k s) (hm : k.Allows [.CLK, .clk]) :
    State.KeepsOut k (execQualGateEnd n edges offset s) := by
  unfold execQualGateEnd
  with_reducible repeat' first
    | exact hk | assumption | exact hm.regs (by decide) | exact hm.sub (by decide) | exact hm.one (by decide) |
      extract_lets | apply Keeps.next | exact Keeps.fault | split | apply State.offset_kept |
      apply State.leaveNoReference_kept | apply State.dropReady_kept | apply State.goBack_kept |
      apply State.put_kept | apply State.ev_kept | apply State.cnt_kept | apply Keeps.upd_clk

theorem execCandidateEdgeTimeout_kept {k : Kept} (n : BitVec 2) (s : State) (hk : State.Keeps k s) (hm :
    k.Allows [.CLK, .clk]) :
    State.KeepsOut k (execCandidateEdgeTimeout n s) := by
  unfold execCandidateEdgeTimeout
  with_reducible repeat' first
    | exact hk | assumption | exact hm.regs (by decide) | exact hm.sub (by decide) | exact hm.one (by decide) |
      (dsimp only) | apply Keeps.next | exact Keeps.fault | split | apply State.dropReady_kept |
      apply State.clr_kept | apply Keeps.upd_clk

theorem execMemsFailed_kept {k : Kept} (s : State) (hk : State.Keeps k s) (hm : k.Allows [.CLK, .clk]) :
    State.KeepsOut k (execMemsFailed s) := by
  unfold execMemsFailed
  with_reducible repeat' first
    | exact hk | assumption | exact hm.regs (by decide) | exact hm.sub (by decide) | exact hm.one (by decide) |
      extract_lets | apply Keeps.next | exact Keeps.fault | split | apply State.put_kept | apply State.ev_kept |
      apply State.clr_kept | apply Keeps.upd_clk

theorem execMemsRecovered_kept {k : Kept} (s : State) (hk : State.Keeps k s) (hm : k.Allows [.CLK, .clk]) :
    State.KeepsOut k (execMemsRecovered s) := by
  unfold execMemsRecovered
  with_reducible repeat' first
    | exact hk | assumption | exact hm.regs (by decide) | exact hm.sub (by decide) | exact hm.one (by decide) |
      extract_lets | apply Keeps.next | exact Keeps.fault | apply State.leaveNoReference_kept |
      apply State.ev_kept | apply Keeps.upd_clk

theorem execActiveSourceLost_kept {k : Kept} (s : State) (hk : State.Keeps k s) (hm : k.Allows [.CLK, .clk]) :
    State.KeepsOut k (execActiveSourceLost s) := by
  unfold execActiveSourceLost
  with_reducible repeat' first
    | exact hk | assumption | exact hm.regs (by decide) | exact hm.sub (by decide) | apply Keeps.next |
      exact Keeps.fault | apply State.activeLost_kept

theorem execFallbackChosen_kept {k : Kept} (s : State) (hk : State.Keeps k s) (hm : k.Allows [.CLK, .RAS, .clk,
    .ras]) :
    State.KeepsOut k (execFallbackChosen s) := by
  unfold execFallbackChosen
  with_reducible repeat' first
    | exact hk | assumption | exact hm.regs (by decide) | exact hm.sub (by decide) | exact hm.one (by decide) |
      extract_lets | apply Keeps.next | exact Keeps.fault | split | apply State.slewTo_kept |
      apply State.put_kept | apply State.ev_kept | apply State.log_kept | apply State.fault_kept |
      (refine Keeps.fst (by assumption) ?_) | (refine Keeps.snd (by assumption) ?_) | (dsimp -zeta only) |
      apply Keeps.of_fst | apply Keeps.of_snd | apply Keeps.pair | apply Keeps.pair' | apply Keeps.upd_clk

theorem execRefSwitch_kept {k : Kept} (p : Path) (v : Word) (s : State) (hk : State.Keeps k s) (hm : k.Allows
    [.BOOT, .CAP, .CLK, .FAB, .FRM, .GIO, .GLB, .LANE, .OBS, .PRS, .SECT, .SGC, .SWF, .clk]) :
    State.KeepsOut k (execRefSwitch p v s) := by
  unfold execRefSwitch
  with_reducible repeat' first
    | exact hk | assumption | exact hm.regs (by decide) | exact hm.sub (by decide) | apply Keeps.next |
      exact Keeps.fault | apply State.writeRefCtrl_kept | (dsimp -zeta only) | apply Keeps.of_fst |
      apply Keeps.of_snd

theorem execRootLockReached_kept {k : Kept} (s : State) (hk : State.Keeps k s) (hm : k.Allows [.BRY, .CLK, .bry,
    .clk]) :
    State.KeepsOut k (execRootLockReached s) := by
  unfold execRootLockReached
  with_reducible repeat' first
    | exact hk | assumption | exact hm.regs (by decide) | exact hm.sub (by decide) | exact hm.one (by decide) |
      (intro _) | extract_lets | apply Keeps.next | exact Keeps.fault | split | apply State.followRing_kept |
      apply State.put_kept | apply State.ev_kept | apply State.when_kept | (dsimp -zeta only) |
      apply Keeps.of_fst | apply Keeps.of_snd | apply Keeps.pair | apply Keeps.pair' | apply Keeps.upd_clk

theorem execAutoRevert_kept {k : Kept} (s : State) (hk : State.Keeps k s) (hm : k.Allows [.CLK, .clk]) :
    State.KeepsOut k (execAutoRevert s) := by
  unfold execAutoRevert
  with_reducible repeat' first
    | exact hk | assumption | exact hm.regs (by decide) | exact hm.sub (by decide) | exact hm.one (by decide) |
      extract_lets | apply Keeps.next | exact Keeps.fault | split | apply State.slewTo_kept |
      apply State.ev_kept | apply Keeps.upd_clk

theorem execCandWrite_kept {k : Kept} (p : Path) (n : BitVec 2) (v : Word) (s : State) (hk : State.Keeps k s)
    (hm : k.Allows [.BOOT, .CAP, .CLK, .FAB, .FRM, .GIO, .GLB, .LANE, .OBS, .PRS, .SECT, .SGC, .SWF]) :
    State.KeepsOut k (execCandWrite p n v s) := by
  unfold execCandWrite
  with_reducible repeat' first
    | exact hk | assumption | exact hm.regs (by decide) | exact hm.sub (by decide) | apply Keeps.next |
      exact Keeps.fault | apply State.writeCand_kept | (dsimp -zeta only) | apply Keeps.of_fst |
      apply Keeps.of_snd

theorem execGlobalDivWrite_kept {k : Kept} (p : Path) (n : BitVec 5) (v : Word) (s : State) (hk : State.Keeps k
    s) (hm : k.Allows [.BOOT, .CAP, .CLK, .FAB, .FRM, .GIO, .GLB, .LANE, .OBS, .PRS, .SECT, .SGC, .SWF]) :
    State.KeepsOut k (execGlobalDivWrite p n v s) := by
  unfold execGlobalDivWrite
  with_reducible repeat' first
    | exact hk | assumption | exact hm.regs (by decide) | exact hm.sub (by decide) | exact hm.one (by decide) |
      apply Keeps.next | exact Keeps.fault | apply State.plainWrite_kept | (dsimp -zeta only) |
      apply Keeps.of_fst | apply Keeps.of_snd

theorem execOutCtrlWrite_kept {k : Kept} (p : Path) (n : Nat) (v : Word) (s : State) (hk : State.Keeps k s) (hm
    : k.Allows [.BOOT, .CAP, .CLK, .FAB, .FRM, .GIO, .GLB, .LANE, .OBS, .PRS, .SECT, .SGC, .SWF]) :
    State.KeepsOut k (execOutCtrlWrite p n v s) := by
  unfold execOutCtrlWrite
  with_reducible repeat' first
    | exact hk | assumption | exact hm.regs (by decide) | exact hm.sub (by decide) | apply Keeps.next |
      exact Keeps.fault | split | apply State.writeOutCtrl_kept | apply State.fault_kept | (dsimp -zeta only) |
      apply Keeps.of_fst | apply Keeps.of_snd

theorem execFreqAdjWrite_kept {k : Kept} (p : Path) (v : Word) (s : State) (hk : State.Keeps k s) (hm : k.Allows
    [.BOOT, .CAP, .CLK, .FAB, .FRM, .GIO, .GLB, .LANE, .OBS, .PRS, .SECT, .SGC, .SWF, .clk]) :
    State.KeepsOut k (execFreqAdjWrite p v s) := by
  unfold execFreqAdjWrite
  with_reducible repeat' first
    | exact hk | assumption | exact hm.regs (by decide) | exact hm.sub (by decide) | apply Keeps.next |
      exact Keeps.fault | apply State.writeFreqAdj_kept | (dsimp -zeta only) | apply Keeps.of_fst |
      apply Keeps.of_snd

theorem execPpsEdge_kept {k : Kept} (pin : Nat) (s : State) (hk : State.Keeps k s) (hm : k.Allows [.CLK]) :
    State.KeepsOut k (execPpsEdge pin s) := by
  unfold execPpsEdge
  with_reducible repeat' first
    | exact hk | assumption | exact hm.regs (by decide) | exact hm.sub (by decide) | exact hm.one (by decide) |
      apply Keeps.next | exact Keeps.fault | split | apply State.cntWrap_kept | apply State.setPair_kept |
      apply State.fault_kept

end Sys2Proof.Machine
end

