-- ==== Sys2Proof/Laws/RunsCapture.lean ====
section
/-! SUPPORT. Laws/RunsCapture.lean: the meanings of Machine/Capture.lean keep what Laws/Keeps.lean says. -/
set_option Elab.async false  -- one proof at a time: the package as one text then needs less memory
namespace Sys2Proof.Machine

theorem execQuireAllocated_kept {k : Kept} (s : State) (hk : State.Keeps k s) (hm : k.Allows [.CAP, .HIF, .RAS,
    .SEC, .SWF, .cap, .coll, .free, .out, .ras, .swf, .tenants]) :
    State.KeepsOut k (execQuireAllocated s) := by
  unfold execQuireAllocated
  with_reducible repeat' first
    | exact hk | assumption | exact hm.regs (by decide) | exact hm.sub (by decide) | exact hm.one (by decide) |
      (intro _) | extract_lets | apply Keeps.next | exact Keeps.fault | split | apply State.setStrm_kept |
      apply State.setStrmState_kept | apply State.allocQuire_kept | apply State.linkQuire_kept |
      apply State.root_kept | apply State.resumeStore_kept | (refine Keeps.fst (by assumption) ?_) |
      (refine Keeps.snd (by assumption) ?_) | (dsimp -zeta only) | apply Keeps.of_fst | apply Keeps.of_snd |
      apply Keeps.pair | apply Keeps.pair' | apply Keeps.upd_cap

theorem execLeafFlushTimeout_kept {k : Kept} (n : BitVec 10) (s : State) (hk : State.Keeps k s) (hm : k.Allows
    [.CAP, .RAS, .SEC, .SWF, .cap, .coll, .free, .ras, .swf]) :
    State.KeepsOut k (execLeafFlushTimeout n s) := by
  unfold execLeafFlushTimeout
  with_reducible repeat' first
    | exact hk | assumption | exact hm.regs (by decide) | exact hm.sub (by decide) | extract_lets |
      apply Keeps.next | exact Keeps.fault | split | apply State.closeLeaf_kept |
      (refine Keeps.fst (by assumption) ?_) | (refine Keeps.snd (by assumption) ?_) | (dsimp -zeta only) |
      apply Keeps.of_fst | apply Keeps.of_snd | apply Keeps.pair | apply Keeps.pair'

theorem execRowWaitTimeout_kept {k : Kept} (q : BitVec 19) (s : State) (hk : State.Keeps k s) (hm : k.Allows
    [.cap]) :
    State.KeepsOut k (execRowWaitTimeout q s) := by
  unfold execRowWaitTimeout
  with_reducible repeat' first
    | exact hk | assumption | exact hm.regs (by decide) | exact hm.sub (by decide) | extract_lets |
      apply Keeps.next | exact Keeps.fault | split | apply State.setQuireLive_kept

theorem execSealSlotWrite_kept {k : Kept} (q : BitVec 19) (s : State) (hk : State.Keeps k s) (hm : k.Allows
    [.cap]) :
    State.KeepsOut k (execSealSlotWrite q s) := by
  unfold execSealSlotWrite
  with_reducible repeat' first
    | exact hk | assumption | exact hm.regs (by decide) | exact hm.sub (by decide) | exact hm.one (by decide) |
      extract_lets | apply Keeps.next | exact Keeps.fault | split | apply Keeps.upd_cap

theorem execDrainTake_kept {k : Kept} (balanced : BitVec 3) (s : State) (hk : State.Keeps k s) (hm : k.Allows
    [.CAP, .cap, .free]) :
    State.KeepsOut k (execDrainTake balanced s) := by
  unfold execDrainTake
  with_reducible repeat' first
    | exact hk | assumption | exact hm.regs (by decide) | exact hm.sub (by decide) | (intro _) | extract_lets |
      apply Keeps.next | exact Keeps.fault | split | apply State.startCopy_kept | apply State.drainCount_kept |
      (refine Keeps.fst (by assumption) ?_) | (refine Keeps.snd (by assumption) ?_) | (dsimp -zeta only) |
      apply Keeps.of_fst | apply Keeps.of_snd | apply Keeps.pair | apply Keeps.pair'

theorem execDrainCopyDone_kept {k : Kept} (q : BitVec 19) (s : State) (hk : State.Keeps k s) (hm : k.Allows
    [.CAP, .cap]) :
    State.KeepsOut k (execDrainCopyDone q s) := by
  unfold execDrainCopyDone
  with_reducible repeat' first
    | exact hk | assumption | exact hm.regs (by decide) | exact hm.sub (by decide) | exact hm.one (by decide) |
      extract_lets | apply Keeps.next | exact Keeps.fault | split | apply State.setQuire_kept |
      apply State.freeFront_kept | apply State.put_kept | (refine Keeps.fst (by assumption) ?_) |
      (refine Keeps.snd (by assumption) ?_) | (dsimp -zeta only) | apply Keeps.of_fst | apply Keeps.of_snd |
      apply Keeps.pair | apply Keeps.pair'

theorem execDrainWriteFailure_kept {k : Kept} (q : BitVec 19) (s : State) (hk : State.Keeps k s) (hm : k.Allows
    [.CAP, .cap, .free]) :
    State.KeepsOut k (execDrainWriteFailure q s) := by
  unfold execDrainWriteFailure
  with_reducible repeat' first
    | exact hk | assumption | exact hm.regs (by decide) | exact hm.sub (by decide) | apply Keeps.next |
      exact Keeps.fault | apply State.retryCopy_kept

theorem execDrainCfgWrite_kept {k : Kept} (p : Path) (v : Word) (s : State) (hk : State.Keeps k s) (hm :
    k.Allows [.BOOT, .CAP, .FAB, .FRM, .GIO, .GLB, .LANE, .OBS, .PRS, .SECT, .SGC, .SWF]) :
    State.KeepsOut k (execDrainCfgWrite p v s) := by
  unfold execDrainCfgWrite
  with_reducible repeat' first
    | exact hk | assumption | exact hm.regs (by decide) | exact hm.sub (by decide) | apply Keeps.next |
      exact Keeps.fault | apply State.writeDrainCfg_kept | (dsimp -zeta only) | apply Keeps.of_fst |
      apply Keeps.of_snd

theorem execQuotaWrite_kept {k : Kept} (p : Path) (deep : Bool) (t : BitVec 8) (v : Word) (s : State) (hk :
    State.Keeps k s) (hm : k.Allows [.BOOT, .CAP, .FAB, .FRM, .GIO, .GLB, .LANE, .OBS, .PRS, .SECT, .SGC, .SWF]) :
    State.KeepsOut k (execQuotaWrite p deep t v s) := by
  unfold execQuotaWrite
  with_reducible repeat' first
    | exact hk | assumption | exact hm.regs (by decide) | exact hm.sub (by decide) | apply Keeps.next |
      exact Keeps.fault | split | apply State.plainWrite_kept | (dsimp -zeta only) | apply Keeps.of_fst |
      apply Keeps.of_snd

end Sys2Proof.Machine
end

