-- ==== Sys2Proof/Laws/RunsIntake.lean ====
section
/-! SUPPORT. Laws/RunsIntake.lean: the meanings of Machine/Intake.lean keep what Laws/Keeps.lean says. -/
set_option Elab.async false  -- one proof at a time: the package as one text then needs less memory
namespace Sys2Proof.Machine

theorem execIntakeUnit_kept {k : Kept} (lane : BitVec 9) (u : BitVec 257) (t : BitVec 64) (bad k_ : Bool)
    (staged : BitVec 23) (most : BitVec 10) (s : State) (hk : State.Keeps k s) (hm : k.Allows [.CAP, .HIF, .RAS,
    .SEC, .SECT, .SWF, .cap, .coll, .free, .lanes, .out, .ras, .swf, .tenants, .trig]) :
    State.KeepsOut k (execIntakeUnit lane u t bad k_ staged most s) := by
  unfold execIntakeUnit
  with_reducible repeat' first
    | exact hk | assumption | exact hm.regs (by decide) | exact hm.sub (by decide) | exact hm.one (by decide) |
      (intro _) | extract_lets | apply Keeps.next | exact Keeps.fault | split | apply State.setStrm_kept |
      apply State.laneMatch_kept | apply State.setLane_kept | apply State.watchUnit_kept |
      apply State.dataUnit_kept | apply State.closeGap_kept | apply State.streamUnit_kept |
      apply State.staging_kept | apply State.echoUnit_kept | apply State.cnt_kept | apply State.when_kept |
      apply State.each_kept | (refine Keeps.fst (by assumption) ?_) | (refine Keeps.snd (by assumption) ?_) |
      (dsimp -zeta only) | apply Keeps.of_fst | apply Keeps.of_snd | apply Keeps.pair | apply Keeps.pair'

theorem execRunPieceTimeout_kept {k : Kept} (n : BitVec 10) (m : BitVec 4) (s : State) (hk : State.Keeps k s)
    (hm : k.Allows [.CAP, .HIF, .RAS, .SEC, .SWF, .cap, .coll, .free, .out, .ras, .swf, .tenants]) :
    State.KeepsOut k (execRunPieceTimeout n m s) := by
  unfold execRunPieceTimeout
  with_reducible repeat' first
    | exact hk | assumption | exact hm.regs (by decide) | exact hm.sub (by decide) | extract_lets |
      apply Keeps.next | exact Keeps.fault | split | apply State.emitRun_kept |
      (refine Keeps.fst (by assumption) ?_) | (refine Keeps.snd (by assumption) ?_) | (dsimp -zeta only) |
      apply Keeps.of_fst | apply Keeps.of_snd | apply Keeps.pair | apply Keeps.pair'

theorem execGapPieceTimeout_kept {k : Kept} (n : BitVec 10) (m : BitVec 4) (t : BitVec 64) (s : State) (hk :
    State.Keeps k s) (hm : k.Allows [.CAP, .HIF, .RAS, .SEC, .SWF, .cap, .coll, .free, .out, .ras, .swf, .tenants])
    :
    State.KeepsOut k (execGapPieceTimeout n m t s) := by
  unfold execGapPieceTimeout
  with_reducible repeat' first
    | exact hk | assumption | exact hm.regs (by decide) | exact hm.sub (by decide) | extract_lets |
      apply Keeps.next | exact Keeps.fault | split | apply State.setStrm_kept | apply State.offer_kept |
      (refine Keeps.fst (by assumption) ?_) | (refine Keeps.snd (by assumption) ?_) | (dsimp -zeta only) |
      apply Keeps.of_fst | apply Keeps.of_snd | apply Keeps.pair | apply Keeps.pair'

theorem execFecCodewordDone_kept {k : Kept} (n : BitVec 10) (m : BitVec 4) (t : BitVec 64) (corr : BitVec 4)
    (uncorr b : Bool) (entries : BitVec 300) (ago : BitVec 16) (s : State) (hk : State.Keeps k s) (hm : k.Allows
    [.CAP, .HIF, .RAS, .SEC, .SECT, .SWF, .cap, .coll, .free, .out, .ras, .swf, .tenants, .trig]) :
    State.KeepsOut k (execFecCodewordDone n m t corr uncorr b entries ago s) := by
  unfold execFecCodewordDone
  repeat' first
    | with_reducible exact hk
    | with_reducible assumption
    | with_reducible exact hm.regs (by decide)
    | with_reducible exact hm.sub (by decide)
    | with_reducible exact hm.one (by decide)
    | (intro _)
    | (extract_lets)
    | with_reducible apply Keeps.next
    | with_reducible exact Keeps.fault
    | (split)
    | with_reducible apply State.start_kept
    | with_reducible apply State.setStrm_kept
    | with_reducible apply State.laneMatch_kept
    | with_reducible apply State.note_kept
    | with_reducible apply State.dataUnit_kept
    | with_reducible apply State.endRun_kept
    | with_reducible apply State.ev_kept
    | with_reducible apply State.cnt_kept
    | with_reducible apply State.each_kept
    | with_reducible refine Keeps.fst (by with_reducible assumption) ?_
    | with_reducible refine Keeps.snd (by with_reducible assumption) ?_
    | (dsimp -zeta only)
    | (simp -zeta only [id_eq])
    | with_reducible apply Keeps.of_fst
    | with_reducible apply Keeps.of_snd
    | with_reducible apply Keeps.foldl
    | with_reducible apply Keeps.foldl_fst
    | with_reducible apply Keeps.pair
    | with_reducible apply Keeps.pair'
    | with_reducible refine Keeps.upd_any hm ?_

theorem execDeskewRound_kept {k : Kept} (sect b : BitVec 4) (t : BitVec 64) (offs : List (Option Nat)) (s :
    State) (hk : State.Keeps k s) (hm : k.Allows [.CAP, .HIF, .RAS, .SEC, .SECT, .SWF, .cap, .coll, .free, .out,
    .ras, .sectors, .swf, .tenants]) :
    State.KeepsOut k (execDeskewRound sect b t offs s) := by
  unfold execDeskewRound
  with_reducible repeat' first
    | exact hk | assumption | exact hm.regs (by decide) | exact hm.sub (by decide) | exact hm.one (by decide) |
      (intro _) | extract_lets | apply Keeps.next | exact Keeps.fault | split | apply State.setStrm_kept |
      apply State.endStretch_kept | apply State.eventStrip_kept | apply State.loseDeskew_kept |
      apply State.put_kept | apply State.ev_kept | apply State.when_kept | apply State.each_kept |
      (dsimp -zeta only) | apply Keeps.of_fst | apply Keeps.of_snd | apply Keeps.foldl | apply Keeps.foldl_fst |
      apply Keeps.pair | apply Keeps.pair' | apply Keeps.upd_sectors

theorem execSliceCheckpoint_kept {k : Kept} (sect : BitVec 4) (s : State) (hk : State.Keeps k s) (hm : k.Allows
    [.sectors]) :
    State.KeepsOut k (execSliceCheckpoint sect s) := by
  unfold execSliceCheckpoint
  with_reducible repeat' first
    | exact hk | assumption | exact hm.regs (by decide) | exact hm.sub (by decide) | exact hm.one (by decide) |
      extract_lets | apply Keeps.next | exact Keeps.fault | apply Keeps.upd_sectors

theorem execSliceFailure_kept {k : Kept} (sect : BitVec 4) (k_ : Nat) (s : State) (hk : State.Keeps k s) (hm :
    k.Allows [.CAP, .HIF, .RAS, .SEC, .SECT, .SWF, .cap, .coll, .free, .out, .ras, .sectors, .swf, .tenants, .trig])
    :
    State.KeepsOut k (execSliceFailure sect k_ s) := by
  unfold execSliceFailure
  with_reducible repeat' first
    | exact hk | assumption | exact hm.regs (by decide) | exact hm.sub (by decide) | exact hm.one (by decide) |
      extract_lets | apply Keeps.next | exact Keeps.fault | split | apply State.sliceOut_kept |
      apply State.put_kept | apply State.ev_kept | apply State.log_kept | apply State.fault_kept |
      (refine Keeps.fst (by assumption) ?_) | (refine Keeps.snd (by assumption) ?_) | (dsimp -zeta only) |
      apply Keeps.of_fst | apply Keeps.of_snd | apply Keeps.pair | apply Keeps.pair'

theorem execSliceFailoverDone_kept {k : Kept} (sect : BitVec 4) (s : State) (hk : State.Keeps k s) (hm :
    k.Allows [.CAP, .HIF, .RAS, .SEC, .SECT, .SWF, .cap, .coll, .free, .out, .ras, .sectors, .swf, .tenants, .trig])
    :
    State.KeepsOut k (execSliceFailoverDone sect s) := by
  unfold execSliceFailoverDone
  with_reducible repeat' first
    | exact hk | assumption | exact hm.regs (by decide) | exact hm.sub (by decide) | exact hm.one (by decide) |
      (intro _) | extract_lets | apply Keeps.next | exact Keeps.fault | split | apply State.eachMember_kept |
      apply State.dropCause_kept | apply State.eventStrip_kept | apply State.serveOctet_kept |
      apply State.put_kept | apply State.ev_kept | apply State.cnt_kept | apply State.each_kept |
      (refine Keeps.fst (by assumption) ?_) | (refine Keeps.snd (by assumption) ?_) | (dsimp -zeta only) |
      apply Keeps.of_fst | apply Keeps.of_snd | apply Keeps.pair | apply Keeps.pair' | apply Keeps.upd_sectors

theorem execLaneCfgWrite_kept {k : Kept} (p : Path) (which : Nat) (sect : BitVec 4) (j : BitVec 5) (v : Word) (s
    : State) (hk : State.Keeps k s) (hm : k.Allows [.BOOT, .CAP, .FAB, .FRM, .GIO, .GLB, .LANE, .OBS, .PRS, .SECT,
    .SGC, .SWF, .lanes, .trig]) :
    State.KeepsOut k (execLaneCfgWrite p which sect j v s) := by
  unfold execLaneCfgWrite
  with_reducible repeat' first
    | exact hk | assumption | exact hm.regs (by decide) | exact hm.sub (by decide) | apply Keeps.next |
      exact Keeps.fault | split | apply State.writeIntake_kept | apply State.fault_kept | (dsimp -zeta only) |
      apply Keeps.of_fst | apply Keeps.of_snd

end Sys2Proof.Machine
end

