-- ==== Sys2Proof/Laws/RunsPress.lean ====
section
/-! SUPPORT. Laws/RunsPress.lean: the meanings of Machine/Press.lean keep what Laws/Keeps.lean says. -/
set_option Elab.async false  -- one proof at a time: the package as one text then needs less memory
namespace Sys2Proof.Machine

theorem execPressLoad_kept {k : Kept} (d : Desc) (lane : BitVec 16) (entry : BitVec 16) (program : List (BitVec
    64)) (stream : BitVec 16) (pressDq notifyDq : BitVec 32) (s : State) (hk : State.Keeps k s) (hm : k.Allows
    [.HIF, .PRS, .out, .press, .swf, .tenants]) :
    State.KeepsOut k (execPressLoad d lane entry program stream pressDq notifyDq s) := by
  unfold execPressLoad
  repeat' first
    | with_reducible exact hk
    | with_reducible assumption
    | with_reducible exact hm.regs (by decide)
    | with_reducible exact hm.sub (by decide)
    | with_reducible exact hm.one (by decide)
    | (intro _)
    | (extract_lets)
    | with_reducible apply Keeps.next
    | with_reducible exact Keeps.fault
    | (split)
    | with_reducible apply State.setDq_kept
    | with_reducible apply State.put_kept
    | with_reducible apply State.ok_kept
    | with_reducible apply State.refuse_kept
    | with_reducible apply State.readFailed_kept
    | with_reducible apply State.descriptor_kept
    | with_reducible apply State.setPrs_kept
    | with_reducible apply State.setPrsState_kept
    | with_reducible refine Keeps.fst (by with_reducible assumption) ?_
    | with_reducible refine Keeps.snd (by with_reducible assumption) ?_
    | (dsimp -zeta only)
    | (simp -zeta only [id_eq])
    | with_reducible apply Keeps.of_fst
    | with_reducible apply Keeps.of_snd
    | with_reducible apply Keeps.foldl
    | with_reducible apply Keeps.foldl_fst
    | with_reducible apply Keeps.pair
    | with_reducible apply Keeps.pair'
    | with_reducible refine Keeps.upd_any hm ?_

theorem execPressStart_kept {k : Kept} (d : Desc) (lane : BitVec 16) (atTime : BitVec 64) (s : State) (hk :
    State.Keeps k s) (hm : k.Allows [.HIF, .PRS, .out, .press, .tenants]) :
    State.KeepsOut k (execPressStart d lane atTime s) := by
  unfold execPressStart
  with_reducible repeat' first
    | exact hk | assumption | exact hm.regs (by decide) | exact hm.sub (by decide) | exact hm.one (by decide) |
      (intro _) | extract_lets | apply Keeps.next | exact Keeps.fault | split | apply State.put_kept |
      apply State.ok_kept | apply State.descriptor_kept | apply State.setPrs_kept | apply State.setPrsState_kept |
      (refine Keeps.fst (by assumption) ?_) | (refine Keeps.snd (by assumption) ?_) | (dsimp -zeta only) |
      apply Keeps.of_fst | apply Keeps.of_snd | apply Keeps.pair | apply Keeps.pair'

theorem execPressStartTime_kept {k : Kept} (lane : BitVec 9) (s : State) (hk : State.Keeps k s) (hm : k.Allows
    [.PRS, .clk, .press]) :
    State.KeepsOut k (execPressStartTime lane s) := by
  unfold execPressStartTime
  with_reducible repeat' first
    | exact hk | assumption | exact hm.regs (by decide) | exact hm.sub (by decide) | exact hm.one (by decide) |
      extract_lets | apply Keeps.next | exact Keeps.fault | split | apply State.put_kept |
      apply State.advanceTo_kept | apply State.setPrs_kept | apply State.setPrsState_kept

theorem execPressStop_kept {k : Kept} (d : Desc) (lane : BitVec 16) (s : State) (hk : State.Keeps k s) (hm :
    k.Allows [.HIF, .PRS, .out, .press, .tenants]) :
    State.KeepsOut k (execPressStop d lane s) := by
  unfold execPressStop
  repeat' first
    | with_reducible exact hk
    | with_reducible assumption
    | with_reducible exact hm.regs (by decide)
    | with_reducible exact hm.sub (by decide)
    | (intro _)
    | (extract_lets)
    | with_reducible apply Keeps.next
    | with_reducible exact Keeps.fault
    | (split)
    | with_reducible apply State.ok_kept
    | with_reducible apply State.descriptor_kept
    | with_reducible apply State.setPrs_kept
    | with_reducible apply State.setPrsState_kept
    | with_reducible refine Keeps.fst (by with_reducible assumption) ?_
    | with_reducible refine Keeps.snd (by with_reducible assumption) ?_
    | (dsimp -zeta only)
    | (simp -zeta only [id_eq])
    | with_reducible apply Keeps.of_fst
    | with_reducible apply Keeps.of_snd
    | with_reducible apply Keeps.foldl
    | with_reducible apply Keeps.foldl_fst
    | with_reducible apply Keeps.pair
    | with_reducible apply Keeps.pair'
    | with_reducible refine Keeps.upd_any hm ?_

theorem execPressFreeze_kept {k : Kept} (d : Desc) (lane : BitVec 16) (s : State) (hk : State.Keeps k s) (hm :
    k.Allows [.HIF, .PRS, .out, .press, .tenants]) :
    State.KeepsOut k (execPressFreeze d lane s) := by
  unfold execPressFreeze
  with_reducible repeat' first
    | exact hk | assumption | exact hm.regs (by decide) | exact hm.sub (by decide) | (intro _) | extract_lets |
      apply Keeps.next | exact Keeps.fault | apply State.ok_kept | apply State.descriptor_kept |
      apply State.pressFreeze_kept | (dsimp -zeta only) | apply Keeps.of_fst | apply Keeps.of_snd |
      apply Keeps.pair | apply Keeps.pair'

theorem execPressUnfreeze_kept {k : Kept} (d : Desc) (lane : BitVec 16) (s : State) (hk : State.Keeps k s) (hm :
    k.Allows [.HIF, .PRS, .out, .press, .tenants]) :
    State.KeepsOut k (execPressUnfreeze d lane s) := by
  unfold execPressUnfreeze
  with_reducible repeat' first
    | exact hk | assumption | exact hm.regs (by decide) | exact hm.sub (by decide) | (intro _) | extract_lets |
      apply Keeps.next | exact Keeps.fault | apply State.ok_kept | apply State.descriptor_kept |
      apply State.pressUnfreeze_kept | (dsimp -zeta only) | apply Keeps.of_fst | apply Keeps.of_snd |
      apply Keeps.pair | apply Keeps.pair'

theorem execPressEvent_kept {k : Kept} (d : Desc) (lane : BitVec 16) (value : BitVec 32) (s : State) (hk :
    State.Keeps k s) (hm : k.Allows [.HIF, .PRS, .out, .press, .tenants]) :
    State.KeepsOut k (execPressEvent d lane value s) := by
  unfold execPressEvent
  with_reducible repeat' first
    | exact hk | assumption | exact hm.regs (by decide) | exact hm.sub (by decide) | (intro _) | extract_lets |
      apply Keeps.next | exact Keeps.fault | apply State.ok_kept | apply State.descriptor_kept |
      apply State.pressQueue_kept | (dsimp -zeta only) | apply Keeps.of_fst | apply Keeps.of_snd |
      apply Keeps.pair | apply Keeps.pair'

theorem execPressEvqArrival_kept {k : Kept} (lane : BitVec 9) (graph : Bool) (s : State) (hk : State.Keeps k s)
    (hm : k.Allows [.PRS, .press, .swf]) :
    State.KeepsOut k (execPressEvqArrival lane graph s) := by
  unfold execPressEvqArrival
  with_reducible repeat' first
    | exact hk | assumption | exact hm.regs (by decide) | exact hm.sub (by decide) | exact hm.one (by decide) |
      extract_lets | apply Keeps.next | exact Keeps.fault | split | apply State.dqTake_kept |
      apply State.ev_kept | apply State.cnt_kept | apply State.setPrs_kept | apply State.pressQueue_kept |
      (refine Keeps.fst (by assumption) ?_) | (refine Keeps.snd (by assumption) ?_) | (dsimp -zeta only) |
      apply Keeps.of_fst | apply Keeps.of_snd | apply Keeps.pair | apply Keeps.pair'

theorem execPrefetchReadDone_kept {k : Kept} (lane : BitVec 9) (leaf : BitVec 33) (authentic : Bool) (frame :
    Option (BitVec 16)) (s : State) (hk : State.Keeps k s) (hm : k.Allows [.FRM, .PRS, .press]) :
    State.KeepsOut k (execPrefetchReadDone lane leaf authentic frame s) := by
  unfold execPrefetchReadDone
  with_reducible repeat' first
    | exact hk | assumption | exact hm.regs (by decide) | exact hm.sub (by decide) | exact hm.one (by decide) |
      (intro _) | extract_lets | apply Keeps.next | exact Keeps.fault | split | apply State.put_kept |
      apply State.setPrs_kept | apply State.pressFault_kept | (refine Keeps.fst (by assumption) ?_) |
      (refine Keeps.snd (by assumption) ?_) | (dsimp -zeta only) | apply Keeps.of_fst | apply Keeps.of_snd |
      apply Keeps.pair | apply Keeps.pair'

theorem execCacheLinesWrite_kept {k : Kept} (p : Path) (lane : BitVec 9) (v : Word) (s : State) (hk :
    State.Keeps k s) (hm : k.Allows [.BOOT, .CAP, .FAB, .FRM, .GIO, .GLB, .LANE, .OBS, .PRS, .SECT, .SGC, .SWF]) :
    State.KeepsOut k (execCacheLinesWrite p lane v s) := by
  unfold execCacheLinesWrite
  with_reducible repeat' first
    | exact hk | assumption | exact hm.regs (by decide) | exact hm.sub (by decide) | apply Keeps.next |
      exact Keeps.fault | apply State.writeCacheLines_kept | (dsimp -zeta only) | apply Keeps.of_fst |
      apply Keeps.of_snd

theorem execHalt_kept {k : Kept} (lane : BitVec 9) (s : State) (hk : State.Keeps k s) (hm : k.Allows [.PRS,
    .press]) :
    State.KeepsOut k (execHalt lane s) := by
  unfold execHalt
  with_reducible repeat' first
    | exact hk | assumption | exact hm.regs (by decide) | exact hm.sub (by decide) | exact hm.one (by decide) |
      (intro _) | extract_lets | apply Keeps.next | exact Keeps.fault | apply State.ev_kept |
      apply State.setPrs_kept | apply State.setPrsState_kept | apply State.prsStep_kept | (dsimp -zeta only) |
      apply Keeps.of_fst | apply Keeps.of_snd | apply Keeps.pair | apply Keeps.pair'

theorem execSend_kept {k : Kept} (lane : BitVec 9) (s : State) (hk : State.Keeps k s) (hm : k.Allows [.PRS,
    .press]) :
    State.KeepsOut k (execSend lane s) := by
  unfold execSend
  with_reducible repeat' first
    | exact hk | assumption | exact hm.regs (by decide) | exact hm.sub (by decide) | (intro _) | extract_lets |
      apply Keeps.next | exact Keeps.fault | apply State.setPrs_kept | apply State.prsStep_kept |
      (dsimp -zeta only) | apply Keeps.of_fst | apply Keeps.of_snd | apply Keeps.pair | apply Keeps.pair'

theorem execSendk_kept {k : Kept} (lane : BitVec 9) (s : State) (hk : State.Keeps k s) (hm : k.Allows [.PRS,
    .press]) :
    State.KeepsOut k (execSendk lane s) := by
  unfold execSendk
  with_reducible repeat' first
    | exact hk | assumption | exact hm.regs (by decide) | exact hm.sub (by decide) | (intro _) | extract_lets |
      apply Keeps.next | exact Keeps.fault | split | apply State.setPrs_kept | apply State.prsStep_kept |
      (dsimp -zeta only) | apply Keeps.of_fst | apply Keeps.of_snd | apply Keeps.pair | apply Keeps.pair'

theorem execIdle_kept {k : Kept} (lane : BitVec 9) (s : State) (hk : State.Keeps k s) (hm : k.Allows [.PRS,
    .press]) :
    State.KeepsOut k (execIdle lane s) := by
  unfold execIdle
  with_reducible repeat' first
    | exact hk | assumption | exact hm.regs (by decide) | exact hm.sub (by decide) | (intro _) | extract_lets |
      apply Keeps.next | exact Keeps.fault | apply State.setPrs_kept | apply State.prsStep_kept |
      (dsimp -zeta only) | apply Keeps.of_fst | apply Keeps.of_snd | apply Keeps.pair | apply Keeps.pair'

theorem execSetp_kept {k : Kept} (lane : BitVec 9) (s : State) (hk : State.Keeps k s) (hm : k.Allows [.PRS,
    .press]) :
    State.KeepsOut k (execSetp lane s) := by
  unfold execSetp
  with_reducible repeat' first
    | exact hk | assumption | exact hm.regs (by decide) | exact hm.sub (by decide) | (intro _) | extract_lets |
      apply Keeps.next | exact Keeps.fault | apply State.setPrs_kept | apply State.prsStep_kept |
      (dsimp -zeta only) | apply Keeps.of_fst | apply Keeps.of_snd | apply Keeps.pair | apply Keeps.pair'

theorem execAddp_kept {k : Kept} (lane : BitVec 9) (s : State) (hk : State.Keeps k s) (hm : k.Allows [.PRS,
    .press]) :
    State.KeepsOut k (execAddp lane s) := by
  unfold execAddp
  with_reducible repeat' first
    | exact hk | assumption | exact hm.regs (by decide) | exact hm.sub (by decide) | (intro _) | extract_lets |
      apply Keeps.next | exact Keeps.fault | apply State.setPrs_kept | apply State.prsStep_kept |
      (dsimp -zeta only) | apply Keeps.of_fst | apply Keeps.of_snd | apply Keeps.pair | apply Keeps.pair'

theorem execSetk_kept {k : Kept} (lane : BitVec 9) (s : State) (hk : State.Keeps k s) (hm : k.Allows [.PRS,
    .press]) :
    State.KeepsOut k (execSetk lane s) := by
  unfold execSetk
  with_reducible repeat' first
    | exact hk | assumption | exact hm.regs (by decide) | exact hm.sub (by decide) | (intro _) | extract_lets |
      apply Keeps.next | exact Keeps.fault | apply State.setPrs_kept | apply State.prsStep_kept |
      (dsimp -zeta only) | apply Keeps.of_fst | apply Keeps.of_snd | apply Keeps.pair | apply Keeps.pair'

theorem execLoop_kept {k : Kept} (lane : BitVec 9) (s : State) (hk : State.Keeps k s) (hm : k.Allows [.PRS,
    .press]) :
    State.KeepsOut k (execLoop lane s) := by
  unfold execLoop
  with_reducible repeat' first
    | exact hk | assumption | exact hm.regs (by decide) | exact hm.sub (by decide) | (intro _) | extract_lets |
      apply Keeps.next | exact Keeps.fault | split | apply State.setPrs_kept | apply State.prsStep_kept |
      (dsimp -zeta only) | apply Keeps.of_fst | apply Keeps.of_snd | apply Keeps.pair | apply Keeps.pair'

theorem execJump_kept {k : Kept} (lane : BitVec 9) (s : State) (hk : State.Keeps k s) (hm : k.Allows [.PRS,
    .press]) :
    State.KeepsOut k (execJump lane s) := by
  unfold execJump
  with_reducible repeat' first
    | exact hk | assumption | exact hm.regs (by decide) | exact hm.sub (by decide) | (intro _) | extract_lets |
      apply Keeps.next | exact Keeps.fault | apply State.setPrs_kept | apply State.prsStep_kept |
      (dsimp -zeta only) | apply Keeps.of_fst | apply Keeps.of_snd | apply Keeps.pair | apply Keeps.pair'

theorem execMarkt_kept {k : Kept} (lane : BitVec 9) (s : State) (hk : State.Keeps k s) (hm : k.Allows [.PRS,
    .press]) :
    State.KeepsOut k (execMarkt lane s) := by
  unfold execMarkt
  with_reducible repeat' first
    | exact hk | assumption | exact hm.regs (by decide) | exact hm.sub (by decide) | (intro _) | extract_lets |
      apply Keeps.next | exact Keeps.fault | apply State.setPrs_kept | apply State.prsStep_kept |
      (dsimp -zeta only) | apply Keeps.of_fst | apply Keeps.of_snd | apply Keeps.pair | apply Keeps.pair'

theorem execAddt_kept {k : Kept} (lane : BitVec 9) (s : State) (hk : State.Keeps k s) (hm : k.Allows [.PRS,
    .press]) :
    State.KeepsOut k (execAddt lane s) := by
  unfold execAddt
  with_reducible repeat' first
    | exact hk | assumption | exact hm.regs (by decide) | exact hm.sub (by decide) | (intro _) | extract_lets |
      apply Keeps.next | exact Keeps.fault | apply State.setPrs_kept | apply State.prsStep_kept |
      (dsimp -zeta only) | apply Keeps.of_fst | apply Keeps.of_snd | apply Keeps.pair | apply Keeps.pair'

theorem execWaitTime_kept {k : Kept} (lane : BitVec 9) (s : State) (hk : State.Keeps k s) (hm : k.Allows [.PRS,
    .press]) :
    State.KeepsOut k (execWaitTime lane s) := by
  unfold execWaitTime
  with_reducible repeat' first
    | exact hk | assumption | exact hm.regs (by decide) | exact hm.sub (by decide) | exact hm.one (by decide) |
      (intro _) | extract_lets | apply Keeps.next | exact Keeps.fault | split | apply State.ev_kept |
      apply State.setPrs_kept | apply State.setPrsState_kept | apply State.prsStep_kept | (dsimp -zeta only) |
      apply Keeps.of_fst | apply Keeps.of_snd | apply Keeps.pair | apply Keeps.pair'

theorem execWaitTimeRelease_kept {k : Kept} (lane : BitVec 9) (s : State) (hk : State.Keeps k s) (hm : k.Allows
    [.PRS, .press]) :
    State.KeepsOut k (execWaitTimeRelease lane s) := by
  unfold execWaitTimeRelease
  with_reducible repeat' first
    | exact hk | assumption | exact hm.regs (by decide) | exact hm.sub (by decide) | extract_lets |
      apply Keeps.next | exact Keeps.fault | split | apply State.setPrs_kept | apply State.setPrsState_kept

theorem execWaitEvent_kept {k : Kept} (lane : BitVec 9) (s : State) (hk : State.Keeps k s) (hm : k.Allows [.PRS,
    .press]) :
    State.KeepsOut k (execWaitEvent lane s) := by
  unfold execWaitEvent
  with_reducible repeat' first
    | exact hk | assumption | exact hm.regs (by decide) | exact hm.sub (by decide) | (intro _) | extract_lets |
      apply Keeps.next | exact Keeps.fault | apply State.setPrs_kept | apply State.setPrsState_kept |
      apply State.prsStep_kept | (dsimp -zeta only) | apply Keeps.of_fst | apply Keeps.of_snd | apply Keeps.pair |
      apply Keeps.pair'

theorem execWaitEventTaken_kept {k : Kept} (lane : BitVec 9) (s : State) (hk : State.Keeps k s) (hm : k.Allows
    [.PRS, .press]) :
    State.KeepsOut k (execWaitEventTaken lane s) := by
  unfold execWaitEventTaken
  with_reducible repeat' first
    | exact hk | assumption | exact hm.regs (by decide) | exact hm.sub (by decide) | extract_lets |
      apply Keeps.next | exact Keeps.fault | split | apply State.ev_kept | apply State.setPrs_kept |
      apply State.setPrsState_kept | (refine Keeps.fst (by assumption) ?_) |
      (refine Keeps.snd (by assumption) ?_) | (dsimp -zeta only) | apply Keeps.of_fst | apply Keeps.of_snd |
      apply Keeps.pair | apply Keeps.pair'

theorem execWaitEventTimeout_kept {k : Kept} (lane : BitVec 9) (s : State) (hk : State.Keeps k s) (hm : k.Allows
    [.PRS, .press]) :
    State.KeepsOut k (execWaitEventTimeout lane s) := by
  unfold execWaitEventTimeout
  with_reducible repeat' first
    | exact hk | assumption | exact hm.regs (by decide) | exact hm.sub (by decide) | extract_lets |
      apply Keeps.next | exact Keeps.fault | split | apply State.setPrs_kept | apply State.setPrsState_kept |
      (refine Keeps.fst (by assumption) ?_) | (refine Keeps.snd (by assumption) ?_) | (dsimp -zeta only) |
      apply Keeps.of_fst | apply Keeps.of_snd | apply Keeps.pair | apply Keeps.pair'

theorem execBranchEv_kept {k : Kept} (lane : BitVec 9) (s : State) (hk : State.Keeps k s) (hm : k.Allows [.PRS,
    .press]) :
    State.KeepsOut k (execBranchEv lane s) := by
  unfold execBranchEv
  with_reducible repeat' first
    | exact hk | assumption | exact hm.regs (by decide) | exact hm.sub (by decide) | (intro _) | extract_lets |
      apply Keeps.next | exact Keeps.fault | split | apply State.ev_kept | apply State.setPrs_kept |
      apply State.prsStep_kept | (dsimp -zeta only) | apply Keeps.of_fst | apply Keeps.of_snd | apply Keeps.pair |
      apply Keeps.pair'

theorem execSendEv_kept {k : Kept} (lane : BitVec 9) (s : State) (hk : State.Keeps k s) (hm : k.Allows [.PRS,
    .press]) :
    State.KeepsOut k (execSendEv lane s) := by
  unfold execSendEv
  with_reducible repeat' first
    | exact hk | assumption | exact hm.regs (by decide) | exact hm.sub (by decide) | (intro _) | extract_lets |
      apply Keeps.next | exact Keeps.fault | split | apply State.setPrs_kept | apply State.prsStep_kept |
      (dsimp -zeta only) | apply Keeps.of_fst | apply Keeps.of_snd | apply Keeps.pair | apply Keeps.pair'

theorem execPrime_kept {k : Kept} (lane : BitVec 9) (s : State) (hk : State.Keeps k s) (hm : k.Allows [.PRS,
    .press]) :
    State.KeepsOut k (execPrime lane s) := by
  unfold execPrime
  with_reducible repeat' first
    | exact hk | assumption | exact hm.regs (by decide) | exact hm.sub (by decide) | exact hm.one (by decide) |
      (intro _) | extract_lets | apply Keeps.next | exact Keeps.fault | split | apply State.ev_kept |
      apply State.when_kept | apply State.setPrs_kept | apply State.prsStep_kept | (dsimp -zeta only) |
      apply Keeps.of_fst | apply Keeps.of_snd | apply Keeps.pair | apply Keeps.pair'

theorem execInject_kept {k : Kept} (lane : BitVec 9) (s : State) (hk : State.Keeps k s) (hm : k.Allows [.PRS,
    .press]) :
    State.KeepsOut k (execInject lane s) := by
  unfold execInject
  with_reducible repeat' first
    | exact hk | assumption | exact hm.regs (by decide) | exact hm.sub (by decide) | (intro _) | extract_lets |
      apply Keeps.next | exact Keeps.fault | apply State.setPrs_kept | apply State.prsStep_kept |
      (dsimp -zeta only) | apply Keeps.of_fst | apply Keeps.of_snd | apply Keeps.pair | apply Keeps.pair'

theorem execSignal_kept {k : Kept} (lane : BitVec 9) (s : State) (hk : State.Keeps k s) (hm : k.Allows [.CAP,
    .HIF, .PRS, .RAS, .SEC, .SWF, .cap, .coll, .free, .out, .press, .ras, .swf, .tenants]) :
    State.KeepsOut k (execSignal lane s) := by
  unfold execSignal
  with_reducible repeat' first
    | exact hk | assumption | exact hm.regs (by decide) | exact hm.sub (by decide) | exact hm.one (by decide) |
      (intro _) | extract_lets | apply Keeps.next | exact Keeps.fault | split | apply State.flushTrace_kept |
      apply State.dqPost_kept | apply State.ev_kept | apply State.cnt_kept | apply State.ok_kept |
      apply State.prsStep_kept | (refine Keeps.fst (by assumption) ?_) | (refine Keeps.snd (by assumption) ?_) |
      (dsimp -zeta only) | apply Keeps.of_fst | apply Keeps.of_snd | apply Keeps.pair | apply Keeps.pair'

theorem execPass_kept {k : Kept} (lane : BitVec 9) (s : State) (hk : State.Keeps k s) (hm : k.Allows [.PRS,
    .press]) :
    State.KeepsOut k (execPass lane s) := by
  unfold execPass
  with_reducible repeat' first
    | exact hk | assumption | exact hm.regs (by decide) | exact hm.sub (by decide) | (intro _) | extract_lets |
      apply Keeps.next | exact Keeps.fault | apply State.setPrs_kept | apply State.prsStep_kept |
      (dsimp -zeta only) | apply Keeps.of_fst | apply Keeps.of_snd | apply Keeps.pair | apply Keeps.pair'

theorem execDrop_kept {k : Kept} (lane : BitVec 9) (s : State) (hk : State.Keeps k s) (hm : k.Allows [.PRS,
    .press]) :
    State.KeepsOut k (execDrop lane s) := by
  unfold execDrop
  with_reducible repeat' first
    | exact hk | assumption | exact hm.regs (by decide) | exact hm.sub (by decide) | (intro _) | extract_lets |
      apply Keeps.next | exact Keeps.fault | split | apply State.setPrs_kept | apply State.prsStep_kept |
      apply State.backlogBits_kept | (dsimp -zeta only) | apply Keeps.of_fst | apply Keeps.of_snd |
      apply Keeps.pair | apply Keeps.pair'

theorem execPassUntil_kept {k : Kept} (lane : BitVec 9) (s : State) (hk : State.Keeps k s) (hm : k.Allows [.PRS,
    .press]) :
    State.KeepsOut k (execPassUntil lane s) := by
  unfold execPassUntil
  with_reducible repeat' first
    | exact hk | assumption | exact hm.regs (by decide) | exact hm.sub (by decide) | (intro _) | extract_lets |
      apply Keeps.next | exact Keeps.fault | apply State.setPrs_kept | apply State.prsStep_kept |
      apply State.passCheck_kept | (dsimp -zeta only) | apply Keeps.of_fst | apply Keeps.of_snd |
      apply Keeps.pair | apply Keeps.pair'

theorem execRelayUnitIn_kept {k : Kept} (lane : BitVec 9) (u : BitVec 257) (s : State) (hk : State.Keeps k s)
    (hm : k.Allows [.PRS, .press]) :
    State.KeepsOut k (execRelayUnitIn lane u s) := by
  unfold execRelayUnitIn
  with_reducible repeat' first
    | exact hk | assumption | exact hm.regs (by decide) | exact hm.sub (by decide) | exact hm.one (by decide) |
      extract_lets | apply Keeps.next | exact Keeps.fault | split | apply State.ev_kept | apply State.cnt_kept |
      apply State.setPrs_kept | apply State.backlogBits_kept | apply State.passCheck_kept |
      (refine Keeps.fst (by assumption) ?_) | (refine Keeps.snd (by assumption) ?_) | (dsimp -zeta only) |
      apply Keeps.of_fst | apply Keeps.of_snd | apply Keeps.pair | apply Keeps.pair'

end Sys2Proof.Machine
end

