-- ==== Sys2Proof/Laws/RunsShaping.lean ====
section
/-! SUPPORT. Laws/RunsShaping.lean: the meanings of Machine/Shaping.lean keep what Laws/Keeps.lean says. -/
set_option Elab.async false  -- one proof at a time: the package as one text then needs less memory
namespace Sys2Proof.Machine

theorem execFrameDqToken_kept {k : Kept} (f : BitVec 16) (s : State) (hk : State.Keeps k s) (hm : k.Allows
    [.FRM, .frames, .swf]) :
    State.KeepsOut k (execFrameDqToken f s) := by
  unfold execFrameDqToken
  with_reducible repeat' first
    | exact hk | assumption | exact hm.regs (by decide) | exact hm.sub (by decide) | extract_lets |
      apply Keeps.next | exact Keeps.fault | split | apply State.dqTake_kept | apply State.setFrm_kept |
      apply State.countBad_kept | (refine Keeps.fst (by assumption) ?_) | (refine Keeps.snd (by assumption) ?_) |
      (dsimp -zeta only) | apply Keeps.of_fst | apply Keeps.of_snd | apply Keeps.pair | apply Keeps.pair'

theorem execFrameBoundary_kept {k : Kept} (lane : BitVec 9) (t : BitVec 64) (s : State) (hk : State.Keeps k s)
    (hm : k.Allows [.CAP, .FRM, .HIF, .PRS, .RAS, .SEC, .SWF, .cap, .coll, .frameLanes, .frames, .free, .out, .ras,
    .swf, .tenants]) :
    State.KeepsOut k (execFrameBoundary lane t s) := by
  unfold execFrameBoundary
  repeat' first
    | with_reducible exact hk
    | with_reducible assumption
    | with_reducible exact hm.regs (by decide)
    | with_reducible exact hm.sub (by decide)
    | with_reducible exact hm.one (by decide)
    | (intro _)
    | (extract_lets)
    | with_reducible apply Keeps.next
    | with_reducible exact Keeps.fault
    | (split)
    | with_reducible apply State.start_kept
    | with_reducible apply State.flushTrace_kept
    | with_reducible apply State.put_kept
    | with_reducible apply State.setFrmLane_kept
    | with_reducible apply State.startLane_kept
    | with_reducible apply State.takeHead_kept
    | with_reducible apply State.lag_kept
    | with_reducible apply State.setGrant_kept
    | with_reducible apply State.releaseLane_kept
    | with_reducible refine Keeps.fst (by with_reducible assumption) ?_
    | with_reducible refine Keeps.snd (by with_reducible assumption) ?_
    | (dsimp -zeta only)
    | (simp -zeta only [id_eq])
    | with_reducible apply Keeps.of_fst
    | with_reducible apply Keeps.of_snd
    | with_reducible apply Keeps.foldl
    | with_reducible apply Keeps.foldl_fst
    | with_reducible apply Keeps.pair
    | with_reducible apply Keeps.pair'
    | with_reducible refine Keeps.upd_any hm ?_

theorem execMulticastTimeout_kept {k : Kept} (f : BitVec 16) (s : State) (hk : State.Keeps k s) (hm : k.Allows
    [.CAP, .FRM, .HIF, .PRS, .RAS, .SEC, .SWF, .cap, .coll, .frames, .free, .out, .ras, .swf, .tenants]) :
    State.KeepsOut k (execMulticastTimeout f s) := by
  unfold execMulticastTimeout
  with_reducible repeat' first
    | exact hk | assumption | exact hm.regs (by decide) | exact hm.sub (by decide) | (intro _) | extract_lets |
      apply Keeps.next | exact Keeps.fault | split | apply State.start_kept | apply State.flushTrace_kept |
      apply State.each_kept | apply State.skipLane_kept | apply State.setGrant_kept |
      apply State.releaseLane_kept | (refine Keeps.fst (by assumption) ?_) |
      (refine Keeps.snd (by assumption) ?_) | (dsimp -zeta only) | apply Keeps.of_fst | apply Keeps.of_snd |
      apply Keeps.pair | apply Keeps.pair'

theorem execShaperSlot_kept {k : Kept} (sect : BitVec 4) (s : State) (hk : State.Keeps k s) (hm : k.Allows
    [.CAP, .FRM, .HIF, .PRS, .RAS, .SEC, .SWF, .cap, .coll, .frameLanes, .frames, .free, .out, .ras, .swf,
    .tenants]) :
    State.KeepsOut k (execShaperSlot sect s) := by
  unfold execShaperSlot
  with_reducible repeat' first
    | exact hk | assumption | exact hm.regs (by decide) | exact hm.sub (by decide) | exact hm.one (by decide) |
      (intro _) | extract_lets | apply Keeps.next | exact Keeps.fault | split | apply State.flushTrace_kept |
      apply State.put_kept | apply State.each_kept | apply State.setFrmLane_kept | apply State.skipLane_kept |
      apply State.takeHead_kept | apply State.setGrant_kept | apply State.releaseLane_kept |
      apply State.shaperSlot_kept | (refine Keeps.fst (by assumption) ?_) |
      (refine Keeps.snd (by assumption) ?_) | (dsimp -zeta only) | apply Keeps.of_fst | apply Keeps.of_snd |
      apply Keeps.foldl | apply Keeps.foldl_fst | apply Keeps.pair | apply Keeps.pair'

theorem execShaperSet_kept {k : Kept} (d : Desc) (f : BitVec 16) (setRate setBurst clear : Bool) (rate burst :
    BitVec 32) (s : State) (hk : State.Keeps k s) (hm : k.Allows [.FRM, .HIF, .frames, .out, .tenants]) :
    State.KeepsOut k (execShaperSet d f setRate setBurst clear rate burst s) := by
  unfold execShaperSet
  with_reducible repeat' first
    | exact hk | assumption | exact hm.regs (by decide) | exact hm.sub (by decide) | exact hm.one (by decide) |
      (intro _) | extract_lets | apply Keeps.next | exact Keeps.fault | apply State.put_kept |
      apply State.ev_kept | apply State.when_kept | apply State.ok_kept | apply State.descriptor_kept |
      apply State.frmTouch_kept | (dsimp -zeta only) | apply Keeps.of_fst | apply Keeps.of_snd |
      apply Keeps.pair | apply Keeps.pair'

theorem execClearDebt_kept {k : Kept} (p : Path) (v : Word) (s : State) (hk : State.Keeps k s) (hm : k.Allows
    [.BOOT, .CAP, .FAB, .FRM, .GIO, .GLB, .LANE, .OBS, .PRS, .SECT, .SGC, .SWF, .frames]) :
    State.KeepsOut k (execClearDebt p v s) := by
  unfold execClearDebt
  with_reducible repeat' first
    | exact hk | assumption | exact hm.regs (by decide) | exact hm.sub (by decide) | exact hm.one (by decide) |
      apply Keeps.next | exact Keeps.fault | apply State.writeFrame_kept | (dsimp -zeta only) |
      apply Keeps.of_fst | apply Keeps.of_snd

theorem execFrameConfig_kept {k : Kept} (d : Desc) (f : BitVec 16) (cfg target list : Word) (addr : BitVec 64)
    (frameDq notifyDq : BitVec 32) (pattern : BitVec 16) (s : State) (hk : State.Keeps k s) (hm : k.Allows [.FRM,
    .HIF, .frames, .out, .tenants]) :
    State.KeepsOut k (execFrameConfig d f cfg target list addr frameDq notifyDq pattern s) := by
  unfold execFrameConfig
  with_reducible repeat' first
    | exact hk | assumption | exact hm.regs (by decide) | exact hm.sub (by decide) | exact hm.one (by decide) |
      (intro _) | extract_lets | apply Keeps.next | exact Keeps.fault | apply State.setWord_kept |
      apply State.put_kept | apply State.ok_kept | apply State.descriptor_kept | apply State.setFrm_kept |
      apply State.frmTouch_kept | (dsimp -zeta only) | apply Keeps.of_fst | apply Keeps.of_snd |
      apply Keeps.pair | apply Keeps.pair' | apply Keeps.upd_frames

theorem execFrameStart_kept {k : Kept} (d : Desc) (f : BitVec 16) (atTime : BitVec 64) (s : State) (hk :
    State.Keeps k s) (hm : k.Allows [.FRM, .HIF, .frameLanes, .frames, .out, .tenants]) :
    State.KeepsOut k (execFrameStart d f atTime s) := by
  unfold execFrameStart
  with_reducible repeat' first
    | exact hk | assumption | exact hm.regs (by decide) | exact hm.sub (by decide) | exact hm.one (by decide) |
      (intro _) | extract_lets | apply Keeps.next | exact Keeps.fault | split | apply State.put_kept |
      apply State.setPair_kept | apply State.each_kept | apply State.ok_kept | apply State.descriptor_kept |
      apply State.setFrm_kept | apply State.setFrmLane_kept | (dsimp -zeta only) | apply Keeps.of_fst |
      apply Keeps.of_snd | apply Keeps.pair | apply Keeps.pair' | apply Keeps.upd_frames |
      (refine Keeps.upd_any hm ?_)

theorem execFrameStartTime_kept {k : Kept} (f : BitVec 16) (s : State) (hk : State.Keeps k s) (hm : k.Allows
    [.FRM, .clk, .frames]) :
    State.KeepsOut k (execFrameStartTime f s) := by
  unfold execFrameStartTime
  with_reducible repeat' first
    | exact hk | assumption | exact hm.regs (by decide) | exact hm.sub (by decide) | exact hm.one (by decide) |
      extract_lets | apply Keeps.next | exact Keeps.fault | split | apply State.put_kept |
      apply State.advanceTo_kept | apply State.listNext_kept

theorem execFrameStop_kept {k : Kept} (d : Desc) (f : BitVec 16) (s : State) (hk : State.Keeps k s) (hm :
    k.Allows [.FRM, .HIF, .PRS, .frames, .out, .tenants]) :
    State.KeepsOut k (execFrameStop d f s) := by
  unfold execFrameStop
  with_reducible repeat' first
    | exact hk | assumption | exact hm.regs (by decide) | exact hm.sub (by decide) | (intro _) | extract_lets |
      apply Keeps.next | exact Keeps.fault | split | apply State.ok_kept | apply State.descriptor_kept |
      apply State.frmEnd_kept | (dsimp -zeta only) | apply Keeps.of_fst | apply Keeps.of_snd | apply Keeps.pair |
      apply Keeps.pair'

end Sys2Proof.Machine
end

