-- ==== Sys2Proof/Laws/RunsPressWire.lean ====
section
/-! SUPPORT. Laws/RunsPressWire.lean: the meanings of Machine/PressWire.lean keep what Laws/Keeps.lean says. -/
set_option Elab.async false  -- one proof at a time: the package as one text then needs less memory
namespace Sys2Proof.Machine

theorem execPressUnitSend_kept {k : Kept} (lane : BitVec 9) (t : BitVec 64) (k_ : Bool) (s : State) (hk :
    State.Keeps k s) (hm : k.Allows [.CAP, .HIF, .PRS, .RAS, .SEC, .SECT, .SWF, .cap, .coll, .frameLanes, .free,
    .lanes, .out, .press, .ras, .swf, .tenants, .trig]) :
    State.KeepsOut k (execPressUnitSend lane t k_ s) := by
  unfold execPressUnitSend
  with_reducible repeat' first
    | exact hk | assumption | exact hm.regs (by decide) | exact hm.sub (by decide) | extract_lets |
      apply Keeps.next | exact Keeps.fault | split | apply State.wireIdle_kept | apply State.sendProgram_kept |
      apply State.sendRelay_kept | apply State.sendFrame_kept | apply State.sendDevice_kept |
      (refine Keeps.fst (by assumption) ?_) | (refine Keeps.snd (by assumption) ?_) | (dsimp -zeta only) |
      apply Keeps.of_fst | apply Keeps.of_snd | apply Keeps.pair | apply Keeps.pair'

end Sys2Proof.Machine
end

