-- ==== Sys2Proof/Laws/RunsLanes.lean ====
section
/-! SUPPORT. Laws/RunsLanes.lean: the meanings of Machine/Lanes.lean keep what Laws/Keeps.lean says. -/
set_option Elab.async false  -- one proof at a time: the package as one text then needs less memory
namespace Sys2Proof.Machine

theorem execLaneEnable_kept {k : Kept} (p : Path) (lane : BitVec 9) (v : Word) (s : State) (hk : State.Keeps k
    s) (hm : k.Allows [.BOOT, .CAP, .CLK, .FAB, .FRM, .GIO, .GLB, .HIF, .LANE, .OBS, .PRS, .RAS, .SEC, .SECT, .SGC,
    .SWF, .cap, .coll, .free, .lanes, .out, .press, .ras, .swf, .tenants, .trig]) :
    State.KeepsOut k (execLaneEnable p lane v s) := by
  unfold execLaneEnable
  with_reducible repeat' first
    | exact hk | assumption | exact hm.regs (by decide) | exact hm.sub (by decide) | apply Keeps.next |
      exact Keeps.fault | apply State.writeLaneCtrl_kept | (dsimp -zeta only) | apply Keeps.of_fst |
      apply Keeps.of_snd

theorem execLaneDisable_kept {k : Kept} (p : Path) (lane : BitVec 9) (v : Word) (s : State) (hk : State.Keeps k
    s) (hm : k.Allows [.BOOT, .CAP, .CLK, .FAB, .FRM, .GIO, .GLB, .HIF, .LANE, .OBS, .PRS, .RAS, .SEC, .SECT, .SGC,
    .SWF, .cap, .coll, .free, .lanes, .out, .press, .ras, .swf, .tenants, .trig]) :
    State.KeepsOut k (execLaneDisable p lane v s) := by
  unfold execLaneDisable
  with_reducible repeat' first
    | exact hk | assumption | exact hm.regs (by decide) | exact hm.sub (by decide) | apply Keeps.next |
      exact Keeps.fault | apply State.writeLaneCtrl_kept | (dsimp -zeta only) | apply Keeps.of_fst |
      apply Keeps.of_snd

theorem execOctetRetuneDone_kept {k : Kept} (o : BitVec 6) (s : State) (hk : State.Keeps k s) (hm : k.Allows
    [.CAP, .CLK, .HIF, .LANE, .PRS, .RAS, .SEC, .SECT, .SWF, .cap, .coll, .free, .lanes, .out, .press, .ras, .swf,
    .tenants, .trig]) :
    State.KeepsOut k (execOctetRetuneDone o s) := by
  unfold execOctetRetuneDone
  with_reducible repeat' first
    | exact hk | assumption | exact hm.regs (by decide) | exact hm.sub (by decide) | exact hm.one (by decide) |
      (intro _) | extract_lets | apply Keeps.next | exact Keeps.fault | split | apply State.laneTo_kept |
      apply State.put_kept | apply State.clr_kept | apply State.each_kept | (dsimp -zeta only) |
      apply Keeps.of_fst | apply Keeps.of_snd | apply Keeps.pair | apply Keeps.pair'

theorem execOctetPllFailure_kept {k : Kept} (o : BitVec 6) (s : State) (hk : State.Keeps k s) (hm : k.Allows
    [.CAP, .CLK, .HIF, .LANE, .PRS, .RAS, .SEC, .SECT, .SWF, .cap, .clk, .coll, .free, .lanes, .out, .press, .ras,
    .swf, .tenants, .trig]) :
    State.KeepsOut k (execOctetPllFailure o s) := by
  unfold execOctetPllFailure
  repeat' first
    | with_reducible exact hk
    | with_reducible assumption
    | with_reducible exact hm.regs (by decide)
    | with_reducible exact hm.sub (by decide)
    | with_reducible exact hm.one (by decide)
    | (intro _)
    | (dsimp only)
    | with_reducible apply Keeps.next
    | with_reducible exact Keeps.fault
    | (split)
    | with_reducible apply State.addCause_kept
    | with_reducible apply State.eventStrip_kept
    | with_reducible apply State.digLostLock_kept
    | with_reducible apply State.trimBack_kept
    | with_reducible apply State.laneUnavailable_kept
    | with_reducible apply State.put_kept
    | with_reducible apply State.ev_kept
    | with_reducible apply State.clr_kept
    | with_reducible apply State.cnt_kept
    | with_reducible apply State.each_kept
    | with_reducible apply State.log_kept
    | with_reducible apply State.fault_kept
    | with_reducible refine Keeps.fst (by with_reducible assumption) ?_
    | with_reducible refine Keeps.snd (by with_reducible assumption) ?_
    | (simp -zeta only [id_eq])
    | with_reducible apply Keeps.of_fst
    | with_reducible apply Keeps.of_snd
    | with_reducible apply Keeps.foldl
    | with_reducible apply Keeps.foldl_fst
    | with_reducible apply Keeps.pair
    | with_reducible apply Keeps.pair'
    | with_reducible refine Keeps.upd_any hm ?_

theorem execOctetSwitchComplete_kept {k : Kept} (o : BitVec 6) (s : State) (hk : State.Keeps k s) (hm : k.Allows
    [.CAP, .HIF, .LANE, .RAS, .SEC, .SECT, .SWF, .cap, .coll, .free, .out, .ras, .swf, .tenants, .trig]) :
    State.KeepsOut k (execOctetSwitchComplete o s) := by
  unfold execOctetSwitchComplete
  with_reducible repeat' first
    | exact hk | assumption | exact hm.regs (by decide) | exact hm.sub (by decide) | exact hm.one (by decide) |
      (intro _) | extract_lets | apply Keeps.next | exact Keeps.fault | split | apply State.dropCause_kept |
      apply State.clr_kept | apply State.each_kept | (dsimp -zeta only) | apply Keeps.of_fst |
      apply Keeps.of_snd | apply Keeps.pair | apply Keeps.pair'

theorem execSparePllFailure_kept {k : Kept} (o : BitVec 6) (s : State) (hk : State.Keeps k s) (hm : k.Allows
    [.LANE, .RAS, .ras]) :
    State.KeepsOut k (execSparePllFailure o s) := by
  unfold execSparePllFailure
  with_reducible repeat' first
    | exact hk | assumption | exact hm.regs (by decide) | exact hm.sub (by decide) | exact hm.one (by decide) |
      extract_lets | apply Keeps.next | exact Keeps.fault | split | apply State.ev_kept | apply State.clr_kept |
      apply State.log_kept

theorem execLaneAnalogueFault_kept {k : Kept} (lane : BitVec 9) (cause : Nat) (s : State) (hk : State.Keeps k s)
    (hm : k.Allows [.CAP, .CLK, .HIF, .LANE, .PRS, .RAS, .SEC, .SECT, .SWF, .cap, .clk, .coll, .free, .lanes, .out,
    .press, .ras, .swf, .tenants, .trig]) :
    State.KeepsOut k (execLaneAnalogueFault lane cause s) := by
  unfold execLaneAnalogueFault
  with_reducible repeat' first
    | exact hk | assumption | exact hm.regs (by decide) | exact hm.sub (by decide) | extract_lets |
      apply Keeps.next | exact Keeps.fault | split | apply State.laneUnavailable_kept | apply State.fault_kept

theorem execTxFirWrite_kept {k : Kept} (p : Path) (lane : BitVec 9) (v : Word) (s : State) (hk : State.Keeps k
    s) (hm : k.Allows [.BOOT, .CAP, .FAB, .FRM, .GIO, .GLB, .LANE, .OBS, .PRS, .SECT, .SGC, .SWF, .lanes]) :
    State.KeepsOut k (execTxFirWrite p lane v s) := by
  unfold execTxFirWrite
  with_reducible repeat' first
    | exact hk | assumption | exact hm.regs (by decide) | exact hm.sub (by decide) | apply Keeps.next |
      exact Keeps.fault | apply State.writeTxFir_kept | (dsimp -zeta only) | apply Keeps.of_fst |
      apply Keeps.of_snd

theorem execTxFirApply_kept {k : Kept} (lane : BitVec 9) (s : State) (hk : State.Keeps k s) (hm : k.Allows
    [.lanes]) :
    State.KeepsOut k (execTxFirApply lane s) := by
  unfold execTxFirApply
  with_reducible repeat' first
    | exact hk | assumption | exact hm.regs (by decide) | exact hm.sub (by decide) | extract_lets |
      apply Keeps.next | exact Keeps.fault | apply State.setLane_kept

theorem execRxCoefWrite_kept {k : Kept} (p : Path) (lane : BitVec 9) (v : Word) (s : State) (hk : State.Keeps k
    s) (hm : k.Allows [.BOOT, .CAP, .FAB, .FRM, .GIO, .GLB, .LANE, .OBS, .PRS, .SECT, .SGC, .SWF, .lanes]) :
    State.KeepsOut k (execRxCoefWrite p lane v s) := by
  unfold execRxCoefWrite
  with_reducible repeat' first
    | exact hk | assumption | exact hm.regs (by decide) | exact hm.sub (by decide) | apply Keeps.next |
      exact Keeps.fault | apply State.writeRxCoef_kept | (dsimp -zeta only) | apply Keeps.of_fst |
      apply Keeps.of_snd

theorem execRxEqModeWrite_kept {k : Kept} (p : Path) (lane : BitVec 9) (v : Word) (s : State) (hk : State.Keeps
    k s) (hm : k.Allows [.BOOT, .CAP, .FAB, .FRM, .GIO, .GLB, .LANE, .OBS, .PRS, .SECT, .SGC, .SWF, .free, .lanes])
    :
    State.KeepsOut k (execRxEqModeWrite p lane v s) := by
  unfold execRxEqModeWrite
  with_reducible repeat' first
    | exact hk | assumption | exact hm.regs (by decide) | exact hm.sub (by decide) | apply Keeps.next |
      exact Keeps.fault | apply State.writeRxEq_kept | (dsimp -zeta only) | apply Keeps.of_fst |
      apply Keeps.of_snd

theorem execSignalDetected_kept {k : Kept} (lane : BitVec 9) (s : State) (hk : State.Keeps k s) (hm : k.Allows
    [.CAP, .CLK, .HIF, .LANE, .PRS, .RAS, .SEC, .SECT, .SWF, .cap, .coll, .free, .lanes, .out, .press, .ras, .swf,
    .tenants, .trig]) :
    State.KeepsOut k (execSignalDetected lane s) := by
  unfold execSignalDetected
  with_reducible repeat' first
    | exact hk | assumption | exact hm.regs (by decide) | exact hm.sub (by decide) | exact hm.one (by decide) |
      extract_lets | apply Keeps.next | exact Keeps.fault | split | apply State.laneTo_kept |
      apply State.ev_kept

theorem execCdrLockAcquired_kept {k : Kept} (lane : BitVec 9) (s : State) (hk : State.Keeps k s) (hm : k.Allows
    [.CAP, .CLK, .HIF, .LANE, .PRS, .RAS, .SEC, .SECT, .SWF, .cap, .coll, .free, .lanes, .out, .press, .ras, .swf,
    .tenants, .trig]) :
    State.KeepsOut k (execCdrLockAcquired lane s) := by
  unfold execCdrLockAcquired
  with_reducible repeat' first
    | exact hk | assumption | exact hm.regs (by decide) | exact hm.sub (by decide) | exact hm.one (by decide) |
      extract_lets | apply Keeps.next | exact Keeps.fault | split | apply State.laneTo_kept |
      apply State.ev_kept

theorem execCodingLockGained_kept {k : Kept} (lane : BitVec 9) (history : BitVec 58) (s : State) (hk :
    State.Keeps k s) (hm : k.Allows [.CAP, .CLK, .HIF, .LANE, .PRS, .RAS, .SEC, .SECT, .SWF, .cap, .coll, .free,
    .lanes, .out, .press, .ras, .swf, .tenants, .trig]) :
    State.KeepsOut k (execCodingLockGained lane history s) := by
  unfold execCodingLockGained
  with_reducible repeat' first
    | exact hk | assumption | exact hm.regs (by decide) | exact hm.sub (by decide) | extract_lets |
      apply Keeps.next | exact Keeps.fault | split | apply State.laneMatch_kept | apply State.setLane_kept |
      apply State.laneTo_kept

theorem execCodingLockLost_kept {k : Kept} (lane : BitVec 9) (s : State) (hk : State.Keeps k s) (hm : k.Allows
    [.CAP, .CLK, .HIF, .LANE, .PRS, .RAS, .SEC, .SECT, .SWF, .cap, .coll, .free, .lanes, .out, .press, .ras, .swf,
    .tenants, .trig]) :
    State.KeepsOut k (execCodingLockLost lane s) := by
  unfold execCodingLockLost
  with_reducible repeat' first
    | exact hk | assumption | exact hm.regs (by decide) | exact hm.sub (by decide) | extract_lets |
      apply Keeps.next | exact Keeps.fault | split | apply State.laneTo_kept

theorem execCdrLockLost_kept {k : Kept} (lane : BitVec 9) (s : State) (hk : State.Keeps k s) (hm : k.Allows
    [.CAP, .CLK, .HIF, .LANE, .PRS, .RAS, .SEC, .SECT, .SWF, .cap, .coll, .free, .lanes, .out, .press, .ras, .swf,
    .tenants, .trig]) :
    State.KeepsOut k (execCdrLockLost lane s) := by
  unfold execCdrLockLost
  with_reducible repeat' first
    | exact hk | assumption | exact hm.regs (by decide) | exact hm.sub (by decide) | extract_lets |
      apply Keeps.next | exact Keeps.fault | split | apply State.laneTo_kept

theorem execSignalLoss_kept {k : Kept} (lane : BitVec 9) (s : State) (hk : State.Keeps k s) (hm : k.Allows
    [.CAP, .CLK, .HIF, .LANE, .PRS, .RAS, .SEC, .SECT, .SWF, .cap, .coll, .free, .lanes, .out, .press, .ras, .swf,
    .tenants, .trig]) :
    State.KeepsOut k (execSignalLoss lane s) := by
  unfold execSignalLoss
  with_reducible repeat' first
    | exact hk | assumption | exact hm.regs (by decide) | exact hm.sub (by decide) | exact hm.one (by decide) |
      extract_lets | apply Keeps.next | exact Keeps.fault | split | apply State.laneTo_kept |
      apply State.ev_kept | apply State.clr_kept

theorem execDigAcquire_kept {k : Kept} (src : Desc ⊕ Path) (lane : BitVec 16) (tap : BitVec 8) (cfg span count :
    Word) (s : State) (hk : State.Keeps k s) (hm : k.Allows [.BOOT, .CAP, .FAB, .FRM, .GIO, .GLB, .HIF, .LANE, .OBS,
    .PRS, .RAS, .SEC, .SECT, .SGC, .SWF, .cap, .coll, .free, .lanes, .out, .ras, .swf, .tenants]) :
    State.KeepsOut k (execDigAcquire src lane tap cfg span count s) := by
  unfold execDigAcquire
  with_reducible repeat' first
    | exact hk | assumption | exact hm.regs (by decide) | exact hm.sub (by decide) | exact hm.one (by decide) |
      (intro _) | extract_lets | apply Keeps.next | exact Keeps.fault | split | apply State.digStart_kept |
      apply State.writeDigCfg_kept | apply State.setWord_kept | apply State.put_kept | apply State.fault_kept |
      apply State.refuse_kept | apply State.descriptor_kept | (refine Keeps.fst (by assumption) ?_) |
      (refine Keeps.snd (by assumption) ?_) | (dsimp -zeta only) | apply Keeps.of_fst | apply Keeps.of_snd |
      apply Keeps.pair | apply Keeps.pair'

theorem execDigTrigger_kept {k : Kept} (lane : BitVec 9) (tap : Bool) (t ref : BitVec 64) (sample : BitVec 14)
    (s : State) (hk : State.Keeps k s) (hm : k.Allows [.CAP, .HIF, .LANE, .RAS, .SEC, .SWF, .cap, .coll, .free,
    .lanes, .out, .ras, .swf, .tenants]) :
    State.KeepsOut k (execDigTrigger lane tap t ref sample s) := by
  unfold execDigTrigger
  repeat' first
    | with_reducible exact hk
    | with_reducible assumption
    | with_reducible exact hm.regs (by decide)
    | with_reducible exact hm.sub (by decide)
    | (intro _)
    | (extract_lets)
    | with_reducible apply Keeps.next
    | with_reducible exact Keeps.fault
    | (split)
    | with_reducible apply State.setLane_kept
    | with_reducible apply State.digStore_kept
    | with_reducible apply State.digHeader_kept
    | with_reducible apply State.cnt_kept
    | with_reducible refine Keeps.fst (by with_reducible assumption) ?_
    | with_reducible refine Keeps.snd (by with_reducible assumption) ?_
    | (dsimp -zeta only)
    | (simp -zeta only [id_eq])
    | with_reducible apply Keeps.of_fst
    | with_reducible apply Keeps.of_snd
    | with_reducible apply Keeps.foldl
    | with_reducible apply Keeps.foldl_fst
    | with_reducible apply Keeps.pair
    | with_reducible apply Keeps.pair'
    | with_reducible refine Keeps.upd_any hm ?_

theorem execDigAbort_kept {k : Kept} (p : Path) (lane : BitVec 9) (tap : Bool) (v : Word) (s : State) (hk :
    State.Keeps k s) (hm : k.Allows [.BOOT, .CAP, .FAB, .FRM, .GIO, .GLB, .HIF, .LANE, .OBS, .PRS, .RAS, .SEC,
    .SECT, .SGC, .SWF, .cap, .coll, .free, .lanes, .out, .ras, .swf, .tenants]) :
    State.KeepsOut k (execDigAbort p lane tap v s) := by
  unfold execDigAbort
  with_reducible repeat' first
    | exact hk | assumption | exact hm.regs (by decide) | exact hm.sub (by decide) | apply Keeps.next |
      exact Keeps.fault | apply State.writeDigCfg_kept | (dsimp -zeta only) | apply Keeps.of_fst |
      apply Keeps.of_snd

theorem execDigAcquisitionEnd_kept {k : Kept} (lane : BitVec 9) (tap : Bool) (s : State) (hk : State.Keeps k s)
    (hm : k.Allows [.CAP, .HIF, .LANE, .RAS, .SEC, .SWF, .cap, .coll, .free, .lanes, .out, .ras, .swf, .tenants]) :
    State.KeepsOut k (execDigAcquisitionEnd lane tap s) := by
  unfold execDigAcquisitionEnd
  with_reducible repeat' first
    | exact hk | assumption | exact hm.regs (by decide) | exact hm.sub (by decide) | extract_lets |
      apply Keeps.next | exact Keeps.fault | split | apply State.digEnd_kept |
      (refine Keeps.fst (by assumption) ?_) | (refine Keeps.snd (by assumption) ?_) | (dsimp -zeta only) |
      apply Keeps.of_fst | apply Keeps.of_snd | apply Keeps.pair | apply Keeps.pair'

theorem execProbe_kept {k : Kept} (src : Desc ⊕ Path) (lane : BitVec 16) (ctrl : Word) (s : State) (hk :
    State.Keeps k s) (hm : k.Allows [.BOOT, .CAP, .CLK, .FAB, .FRM, .GIO, .GLB, .HIF, .LANE, .OBS, .PRS, .RAS, .SEC,
    .SECT, .SGC, .SWF, .cap, .coll, .free, .lanes, .out, .press, .ras, .swf, .tenants, .trig]) :
    State.KeepsOut k (execProbe src lane ctrl s) := by
  unfold execProbe
  with_reducible repeat' first
    | exact hk | assumption | exact hm.regs (by decide) | exact hm.sub (by decide) | exact hm.one (by decide) |
      (intro _) | extract_lets | apply Keeps.next | exact Keeps.fault | split | apply State.probeStart_kept |
      apply State.writeProbeCtrl_kept | apply State.probe_kept | apply State.setWord_kept |
      apply State.fault_kept | apply State.refuse_kept | apply State.descriptor_kept |
      (refine Keeps.fst (by assumption) ?_) | (refine Keeps.snd (by assumption) ?_) | (dsimp -zeta only) |
      apply Keeps.of_fst | apply Keeps.of_snd | apply Keeps.pair | apply Keeps.pair'

theorem execProbeAbort_kept {k : Kept} (p : Path) (lane : BitVec 9) (v : Word) (s : State) (hk : State.Keeps k
    s) (hm : k.Allows [.BOOT, .CAP, .CLK, .FAB, .FRM, .GIO, .GLB, .HIF, .LANE, .OBS, .PRS, .RAS, .SEC, .SECT, .SGC,
    .SWF, .cap, .coll, .free, .lanes, .out, .press, .ras, .swf, .tenants, .trig]) :
    State.KeepsOut k (execProbeAbort p lane v s) := by
  unfold execProbeAbort
  with_reducible repeat' first
    | exact hk | assumption | exact hm.regs (by decide) | exact hm.sub (by decide) | apply Keeps.next |
      exact Keeps.fault | apply State.writeProbeCtrl_kept | (dsimp -zeta only) | apply Keeps.of_fst |
      apply Keeps.of_snd

theorem execProbeEnd_kept {k : Kept} (lane : BitVec 9) (timedOut : Bool) (received : BitVec 8) (data : List
    Word) (legN legP : Fin 3) (s : State) (hk : State.Keeps k s) (hm : k.Allows [.CAP, .CLK, .HIF, .LANE, .PRS,
    .RAS, .SEC, .SECT, .SWF, .cap, .coll, .free, .lanes, .out, .press, .ras, .swf, .tenants, .trig]) :
    State.KeepsOut k (execProbeEnd lane timedOut received data legN legP s) := by
  unfold execProbeEnd
  repeat' first
    | with_reducible exact hk
    | with_reducible assumption
    | with_reducible exact hm.regs (by decide)
    | with_reducible exact hm.sub (by decide)
    | with_reducible exact hm.one (by decide)
    | (intro _)
    | (extract_lets)
    | with_reducible apply Keeps.next
    | with_reducible exact Keeps.fault
    | (split)
    | with_reducible apply State.probeEnd_kept
    | with_reducible apply State.probe_kept
    | with_reducible apply State.setWord_kept
    | with_reducible apply State.put_kept
    | with_reducible apply State.each_kept
    | with_reducible refine Keeps.fst (by with_reducible assumption) ?_
    | with_reducible refine Keeps.snd (by with_reducible assumption) ?_
    | (dsimp -zeta only)
    | (simp -zeta only [id_eq])
    | with_reducible apply Keeps.of_fst
    | with_reducible apply Keeps.of_snd
    | with_reducible apply Keeps.foldl
    | with_reducible apply Keeps.foldl_fst
    | with_reducible apply Keeps.pair
    | with_reducible apply Keeps.pair'
    | with_reducible refine Keeps.upd_any hm ?_

end Sys2Proof.Machine
end

