-- ==== Sys2Proof/Laws/RunsStreams.lean ====
section
/-! SUPPORT. Laws/RunsStreams.lean: the meanings of Machine/Streams.lean keep what Laws/Keeps.lean says. -/
set_option Elab.async false  -- one proof at a time: the package as one text then needs less memory
namespace Sys2Proof.Machine

theorem execStreamStart_kept {k : Kept} (d : Desc) (a : StartArgs) (s : State) (hk : State.Keeps k s) (hm :
    k.Allows [.CAP, .HIF, .RAS, .SEC, .SECT, .SWF, .cap, .coll, .free, .out, .ras, .sectors, .swf, .tenants, .trig])
    :
    State.KeepsOut k (execStreamStart d a s) := by
  unfold execStreamStart
  with_reducible repeat' first
    | exact hk | assumption | exact hm.regs (by decide) | exact hm.sub (by decide) | (intro _) |
      apply Keeps.next | exact Keeps.fault | apply State.descriptor_kept | apply State.startStream_kept |
      (dsimp -zeta only) | apply Keeps.of_fst | apply Keeps.of_snd | apply Keeps.pair | apply Keeps.pair'

theorem execStreamStop_kept {k : Kept} (d : Desc) (n : BitVec 16) (s : State) (hk : State.Keeps k s) (hm :
    k.Allows [.CAP, .HIF, .cap, .out, .tenants]) :
    State.KeepsOut k (execStreamStop d n s) := by
  unfold execStreamStop
  with_reducible repeat' first
    | exact hk | assumption | exact hm.regs (by decide) | exact hm.sub (by decide) | (intro _) | extract_lets |
      apply Keeps.next | exact Keeps.fault | apply State.beginStop_kept | apply State.descriptor_kept |
      (dsimp -zeta only) | apply Keeps.of_fst | apply Keeps.of_snd | apply Keeps.pair | apply Keeps.pair'

theorem execStreamClosed_kept {k : Kept} (n : BitVec 10) (s : State) (hk : State.Keeps k s) (hm : k.Allows
    [.CAP, .HIF, .RAS, .SEC, .SECT, .SWF, .cap, .coll, .free, .out, .ras, .swf, .tenants, .trig]) :
    State.KeepsOut k (execStreamClosed n s) := by
  unfold execStreamClosed
  with_reducible repeat' first
    | exact hk | assumption | exact hm.regs (by decide) | exact hm.sub (by decide) | apply Keeps.next |
      exact Keeps.fault | split | apply State.closeStream_kept

theorem execQuireFreed_kept {k : Kept} (q : BitVec 19) (s : State) (hk : State.Keeps k s) (hm : k.Allows [.CAP,
    .SEC, .cap]) :
    State.KeepsOut k (execQuireFreed q s) := by
  unfold execQuireFreed
  with_reducible repeat' first
    | exact hk | assumption | exact hm.regs (by decide) | exact hm.sub (by decide) | apply Keeps.next |
      exact Keeps.fault | apply State.quireFreed_kept

theorem execQuireVerify_kept {k : Kept} (d : Desc) (q : Word) (buffer : BitVec 64) (good : Bool) (s : State) (hk
    : State.Keeps k s) (hm : k.Allows [.HIF, .out, .tenants]) :
    State.KeepsOut k (execQuireVerify d q buffer good s) := by
  unfold execQuireVerify
  with_reducible repeat' first
    | exact hk | assumption | exact hm.regs (by decide) | exact hm.sub (by decide) | (intro _) | extract_lets |
      apply Keeps.next | exact Keeps.fault | split | apply State.hostWrite_kept | apply State.complete_kept |
      apply State.descriptor_kept | (dsimp -zeta only) | apply Keeps.of_fst | apply Keeps.of_snd |
      apply Keeps.pair | apply Keeps.pair'

end Sys2Proof.Machine
end

