-- ==== Sys2Proof/Laws/RunsTriggers.lean ====
section
/-! SUPPORT. Laws/RunsTriggers.lean: the meanings of Machine/Triggers.lean keep what Laws/Keeps.lean says. -/
set_option Elab.async false  -- one proof at a time: the package as one text then needs less memory
namespace Sys2Proof.Machine

theorem execSeqArm_kept {k : Kept} (p : Path) (sect : BitVec 4) (q : BitVec 2) (v : Word) (s : State) (hk :
    State.Keeps k s) (hm : k.Allows [.BOOT, .CAP, .FAB, .FRM, .GIO, .GLB, .LANE, .OBS, .PRS, .SECT, .SGC, .SWF,
    .trig]) :
    State.KeepsOut k (execSeqArm p sect q v s) := by
  unfold execSeqArm
  with_reducible repeat' first
    | exact hk | assumption | exact hm.regs (by decide) | exact hm.sub (by decide) | apply Keeps.next |
      exact Keeps.fault | apply State.writeSeqCtrl_kept | (dsimp -zeta only) | apply Keeps.of_fst |
      apply Keeps.of_snd

theorem execSeqDisarm_kept {k : Kept} (p : Path) (sect : BitVec 4) (q : BitVec 2) (v : Word) (s : State) (hk :
    State.Keeps k s) (hm : k.Allows [.BOOT, .CAP, .FAB, .FRM, .GIO, .GLB, .LANE, .OBS, .PRS, .SECT, .SGC, .SWF,
    .trig]) :
    State.KeepsOut k (execSeqDisarm p sect q v s) := by
  unfold execSeqDisarm
  with_reducible repeat' first
    | exact hk | assumption | exact hm.regs (by decide) | exact hm.sub (by decide) | apply Keeps.next |
      exact Keeps.fault | apply State.writeSeqCtrl_kept | (dsimp -zeta only) | apply Keeps.of_fst |
      apply Keeps.of_snd

theorem execSwCond_kept {k : Kept} (p : Path) (sect : BitVec 4) (q : BitVec 2) (v : Word) (s : State) (hk :
    State.Keeps k s) (hm : k.Allows [.BOOT, .CAP, .FAB, .FRM, .GIO, .GLB, .LANE, .OBS, .PRS, .SECT, .SGC, .SWF,
    .trig]) :
    State.KeepsOut k (execSwCond p sect q v s) := by
  unfold execSwCond
  with_reducible repeat' first
    | exact hk | assumption | exact hm.regs (by decide) | exact hm.sub (by decide) | apply Keeps.next |
      exact Keeps.fault | apply State.writeSeqCtrl_kept | (dsimp -zeta only) | apply Keeps.of_fst |
      apply Keeps.of_snd

theorem execRibbon_kept {k : Kept} (d : Desc) (n : BitVec 16) (code : Word) (at' : BitVec 64) (data : BitVec
    256) (s : State) (hk : State.Keeps k s) (hm : k.Allows [.CAP, .HIF, .RAS, .SEC, .SWF, .cap, .coll, .free, .out,
    .ras, .swf, .tenants]) :
    State.KeepsOut k (execRibbon d n code at' data s) := by
  unfold execRibbon
  with_reducible repeat' first
    | exact hk | assumption | exact hm.regs (by decide) | exact hm.sub (by decide) | exact hm.one (by decide) |
      (intro _) | extract_lets | apply Keeps.next | exact Keeps.fault | split | apply State.descriptor_kept |
      apply State.ribbon_kept | (dsimp -zeta only) | apply Keeps.of_fst | apply Keeps.of_snd | apply Keeps.pair |
      apply Keeps.pair' | apply Keeps.upd_cap

theorem execRibbonAtTime_kept {k : Kept} (s : State) (hk : State.Keeps k s) (hm : k.Allows [.CAP, .HIF, .RAS,
    .SEC, .SWF, .cap, .clk, .coll, .free, .out, .ras, .swf, .tenants]) :
    State.KeepsOut k (execRibbonAtTime s) := by
  unfold execRibbonAtTime
  with_reducible repeat' first
    | exact hk | assumption | exact hm.regs (by decide) | exact hm.sub (by decide) | exact hm.one (by decide) |
      extract_lets | apply Keeps.next | exact Keeps.fault | split | apply State.advanceTo_kept |
      apply State.ribbon_kept | (refine Keeps.fst (by assumption) ?_) | (refine Keeps.snd (by assumption) ?_) |
      (dsimp -zeta only) | apply Keeps.of_fst | apply Keeps.of_snd | apply Keeps.pair | apply Keeps.pair' |
      apply Keeps.upd_cap

theorem execGraphRibbonToken_kept {k : Kept} (n : BitVec 10) (s : State) (hk : State.Keeps k s) (hm : k.Allows
    [.CAP, .HIF, .RAS, .SEC, .SECT, .SWF, .cap, .coll, .free, .out, .ras, .swf, .tenants]) :
    State.KeepsOut k (execGraphRibbonToken n s) := by
  unfold execGraphRibbonToken
  with_reducible repeat' first
    | exact hk | assumption | exact hm.regs (by decide) | exact hm.sub (by decide) | exact hm.one (by decide) |
      extract_lets | apply Keeps.next | exact Keeps.fault | split | apply State.dqTake_kept |
      apply State.ev_kept | apply State.cnt_kept | apply State.ribbon_kept |
      (refine Keeps.fst (by assumption) ?_) | (refine Keeps.snd (by assumption) ?_) | (dsimp -zeta only) |
      apply Keeps.of_fst | apply Keeps.of_snd | apply Keeps.pair | apply Keeps.pair'

theorem execTlinePulse_kept {k : Kept} (p : Path) (n : BitVec 5) (s : State) (hk : State.Keeps k s) (hm :
    k.Allows [.BOOT, .CAP, .FAB, .FRM, .GIO, .GLB, .LANE, .OBS, .PRS, .SECT, .SGC, .SWF, .bry, .out, .trig]) :
    State.KeepsOut k (execTlinePulse p n s) := by
  unfold execTlinePulse
  with_reducible repeat' first
    | exact hk | assumption | exact hm.regs (by decide) | exact hm.sub (by decide) | apply Keeps.next |
      exact Keeps.fault | apply State.writeTline_kept | (dsimp -zeta only) | apply Keeps.of_fst |
      apply Keeps.of_snd

theorem execTrigPinEdge_kept {k : Kept} (pin : Nat) (rising : Bool) (t : BitVec 64) (s : State) (hk :
    State.Keeps k s) (hm : k.Allows [.GIO, .bry, .out, .trig]) :
    State.KeepsOut k (execTrigPinEdge pin rising t s) := by
  unfold execTrigPinEdge
  with_reducible repeat' first
    | exact hk | assumption | exact hm.regs (by decide) | exact hm.sub (by decide) | extract_lets |
      apply Keeps.next | exact Keeps.fault | split | apply State.fault_kept | apply State.lineDrive_kept

theorem execSlotEvaluation_kept {k : Kept} (sect : BitVec 4) (slot : BitVec 64) (s : State) (hk : State.Keeps k
    s) (hm : k.Allows [.CAP, .GIO, .HIF, .RAS, .SEC, .SECT, .SWF, .bry, .cap, .clk, .coll, .free, .out, .press,
    .ras, .swf, .tenants, .trig]) :
    State.KeepsOut k (execSlotEvaluation sect slot s) := by
  unfold execSlotEvaluation
  with_reducible repeat' first
    | exact hk | assumption | exact hm.regs (by decide) | exact hm.sub (by decide) | exact hm.one (by decide) |
      (intro _) | extract_lets | apply Keeps.next | exact Keeps.fault | split | apply State.ev_kept |
      apply State.cnt_kept | apply State.when_kept | apply State.each_kept | apply State.advanceTo_kept |
      apply State.gateOpen_kept | apply State.gateClose_kept | apply State.counterSlot_kept |
      apply State.takeArc_kept | (refine Keeps.fst (by assumption) ?_) | (refine Keeps.snd (by assumption) ?_) |
      (dsimp -zeta only) | apply Keeps.of_fst | apply Keeps.of_snd | apply Keeps.foldl | apply Keeps.foldl_fst |
      apply Keeps.pair | apply Keeps.pair' | apply Keeps.upd_trig

theorem execTriggerTokenPost_kept {k : Kept} (s : State) (hk : State.Keeps k s) (hm : k.Allows [.CAP, .SWF,
    .cap, .swf]) :
    State.KeepsOut k (execTriggerTokenPost s) := by
  unfold execTriggerTokenPost
  with_reducible repeat' first
    | exact hk | assumption | exact hm.regs (by decide) | exact hm.sub (by decide) | exact hm.one (by decide) |
      extract_lets | apply Keeps.next | exact Keeps.fault | split | apply State.event_kept |
      (refine Keeps.fst (by assumption) ?_) | (refine Keeps.snd (by assumption) ?_) | (dsimp -zeta only) |
      apply Keeps.of_fst | apply Keeps.of_snd | apply Keeps.pair | apply Keeps.pair' | apply Keeps.upd_cap

theorem execLineEvent_kept {k : Kept} (line : BitVec 5) (s : State) (hk : State.Keeps k s) (hm : k.Allows [.CAP,
    .GIO, .PRS, .RAS, .SEC, .cap, .clk, .dbg, .free, .out, .press, .ras, .trig]) :
    State.KeepsOut k (execLineEvent line s) := by
  unfold execLineEvent
  with_reducible repeat' first
    | exact hk | assumption | exact hm.regs (by decide) | exact hm.sub (by decide) | exact hm.one (by decide) |
      (intro _) | extract_lets | apply Keeps.next | exact Keeps.fault | split | apply State.trigEvent_kept |
      apply State.cntWrap_kept | apply State.each_kept | apply State.advanceTo_kept | apply State.send_kept |
      apply State.pressQueue_kept | apply State.windowTrigger_kept | (refine Keeps.fst (by assumption) ?_) |
      (refine Keeps.snd (by assumption) ?_) | (dsimp -zeta only) | apply Keeps.of_fst | apply Keeps.of_snd |
      apply Keeps.pair | apply Keeps.pair' | apply Keeps.upd_trig | apply Keeps.upd_dbg

theorem execTapBeat_kept {k : Kept} (sect : BitVec 4) (tap : BitVec 2) (data : BitVec 128) (nbits : BitVec 8) (t
    : BitVec 64) (gap : Bool) (s : State) (hk : State.Keeps k s) (hm : k.Allows [.SECT, .out]) :
    State.KeepsOut k (execTapBeat sect tap data nbits t gap s) := by
  unfold execTapBeat
  with_reducible repeat' first
    | exact hk | assumption | exact hm.regs (by decide) | exact hm.sub (by decide) | exact hm.one (by decide) |
      extract_lets | apply Keeps.next | exact Keeps.fault | split | apply State.ev_kept | apply State.cnt_kept |
      apply State.send_kept

theorem execInjEvent_kept {k : Kept} (sect : BitVec 4) (n : BitVec 3) (t : BitVec 64) (s : State) (hk :
    State.Keeps k s) (hm : k.Allows [.SECT, .trig]) :
    State.KeepsOut k (execInjEvent sect n t s) := by
  unfold execInjEvent
  with_reducible repeat' first
    | exact hk | assumption | exact hm.regs (by decide) | exact hm.sub (by decide) | exact hm.one (by decide) |
      extract_lets | apply Keeps.next | exact Keeps.fault | split | apply State.trigEvent_kept |
      apply State.ev_kept | apply State.cnt_kept

end Sys2Proof.Machine
end

