-- ==== Sys2Proof/Laws/RunsSewing.lean ====
section
/-! SUPPORT. Laws/RunsSewing.lean: the meanings of Machine/Sewing.lean keep what Laws/Keeps.lean says. -/
set_option Elab.async false  -- one proof at a time: the package as one text then needs less memory
namespace Sys2Proof.Machine

theorem swfNext_kept {k : Kept} (s : State) (hk : State.Keeps k s) (hm : k.Allows [.CAP, .HIF, .RAS, .SEC, .SWF,
    .cap, .coll, .free, .out, .ras, .swf, .tenants]) :
    State.KeepsOut k (swfNext s) := by
  unfold swfNext
  with_reducible repeat' first
    | exact hk | assumption | exact hm.regs (by decide) | exact hm.sub (by decide) | apply State.flushTrace_kept |
      apply Keeps.next | exact Keeps.fault

theorem execPoolCfgWrite_kept {k : Kept} (p : Path) (v : Word) (s : State) (hk : State.Keeps k s) (hm : k.Allows
    [.BOOT, .CAP, .FAB, .FRM, .GIO, .GLB, .LANE, .OBS, .PRS, .SECT, .SGC, .SWF, .cap, .free]) :
    State.KeepsOut k (execPoolCfgWrite p v s) := by
  unfold execPoolCfgWrite
  with_reducible repeat' first
    | exact hk | assumption | exact hm.regs (by decide) | exact hm.sub (by decide) | apply Keeps.next |
      exact Keeps.fault | apply State.writePoolCfg_kept | (dsimp -zeta only) | apply Keeps.of_fst |
      apply Keeps.of_snd

theorem execDqConfig_kept {k : Kept} (d : Desc) (q depth : Word) (consumer : BitVec 8) (s : State) (hk :
    State.Keeps k s) (hm : k.Allows [.CAP, .HIF, .RAS, .SEC, .SWF, .cap, .coll, .free, .out, .ras, .swf, .tenants])
    :
    State.KeepsOut k (execDqConfig d q depth consumer s) := by
  unfold execDqConfig
  with_reducible repeat' first
    | exact hk | assumption | exact hm.regs (by decide) | exact hm.sub (by decide) | (intro _) | extract_lets |
      apply Keeps.next | exact Keeps.fault | split | apply State.setDq_kept | apply State.cacheDq_kept |
      apply State.ok_kept | apply State.descriptor_kept | apply swfNext_kept | (dsimp -zeta only) |
      apply Keeps.of_fst | apply Keeps.of_snd | apply Keeps.pair | apply Keeps.pair'

theorem execDqRelease_kept {k : Kept} (d : Desc) (q : Word) (s : State) (hk : State.Keeps k s) (hm : k.Allows
    [.CAP, .HIF, .RAS, .SEC, .SWF, .cap, .coll, .free, .out, .ras, .swf, .tenants]) :
    State.KeepsOut k (execDqRelease d q s) := by
  unfold execDqRelease
  with_reducible repeat' first
    | exact hk | assumption | exact hm.regs (by decide) | exact hm.sub (by decide) | exact hm.one (by decide) |
      (intro _) | extract_lets | apply Keeps.next | exact Keeps.fault | apply State.setDq_kept |
      apply State.ok_kept | apply State.descriptor_kept | apply swfNext_kept | (dsimp -zeta only) |
      apply Keeps.of_fst | apply Keeps.of_snd | apply Keeps.pair | apply Keeps.pair' | apply Keeps.upd_swf

theorem execTokenPut_kept {k : Kept} (d : Desc) (q : Word) (tokens : List (BitVec 512)) (s : State) (hk :
    State.Keeps k s) (hm : k.Allows [.CAP, .HIF, .RAS, .SEC, .SWF, .cap, .coll, .free, .out, .ras, .swf, .tenants])
    :
    State.KeepsOut k (execTokenPut d q tokens s) := by
  unfold execTokenPut
  with_reducible repeat' first
    | exact hk | assumption | exact hm.regs (by decide) | exact hm.sub (by decide) | (intro _) | extract_lets |
      apply Keeps.next | exact Keeps.fault | split | apply State.dqAppend_kept | apply State.each_kept |
      apply State.complete_kept | apply State.ok_kept | apply State.readFailed_kept |
      apply State.descriptor_kept | apply swfNext_kept | (dsimp -zeta only) | apply Keeps.of_fst |
      apply Keeps.of_snd | apply Keeps.pair | apply Keeps.pair'

theorem execTokenGet_kept {k : Kept} (d : Desc) (q : Word) (buffer : BitVec 64) (max : BitVec 16) (s : State)
    (hk : State.Keeps k s) (hm : k.Allows [.CAP, .HIF, .RAS, .SEC, .SWF, .cap, .coll, .free, .out, .ras, .swf,
    .tenants]) :
    State.KeepsOut k (execTokenGet d q buffer max s) := by
  unfold execTokenGet
  with_reducible repeat' first
    | exact hk | assumption | exact hm.regs (by decide) | exact hm.sub (by decide) | (intro _) | extract_lets |
      apply Keeps.next | exact Keeps.fault | split | apply State.dqTake_kept | apply State.hostWrite_kept |
      apply State.ok_kept | apply State.descriptor_kept | apply swfNext_kept | (dsimp -zeta only) |
      apply Keeps.of_fst | apply Keeps.of_snd | apply Keeps.pair | apply Keeps.pair'

theorem execTokenArrival_kept {k : Kept} (q : BitVec 20) (token : BitVec 512) (source : BitVec 16) (s : State)
    (hk : State.Keeps k s) (hm : k.Allows [.CAP, .HIF, .RAS, .SEC, .SWF, .cap, .coll, .free, .out, .ras, .swf,
    .tenants]) :
    State.KeepsOut k (execTokenArrival q token source s) := by
  unfold execTokenArrival
  with_reducible repeat' first
    | exact hk | assumption | exact hm.regs (by decide) | exact hm.sub (by decide) | apply Keeps.next |
      exact Keeps.fault | apply State.dqPost_kept | apply swfNext_kept | (dsimp -zeta only) | apply Keeps.of_fst |
      apply Keeps.of_snd

theorem execQueueFetchDone_kept {k : Kept} (q : BitVec 20) (s : State) (hk : State.Keeps k s) (hm : k.Allows
    [.CAP, .HIF, .RAS, .SEC, .SWF, .cap, .coll, .free, .out, .ras, .swf, .tenants]) :
    State.KeepsOut k (execQueueFetchDone q s) := by
  unfold execQueueFetchDone
  with_reducible repeat' first
    | exact hk | assumption | exact hm.regs (by decide) | exact hm.sub (by decide) | exact hm.one (by decide) |
      (intro _) | extract_lets | apply Keeps.next | exact Keeps.fault | split | apply State.pend_kept |
      apply State.swfTrace_kept | apply State.cacheDq_kept | apply State.each_kept | apply swfNext_kept |
      (dsimp -zeta only) | apply Keeps.of_fst | apply Keeps.of_snd | apply Keeps.pair | apply Keeps.pair' |
      apply Keeps.upd_swf

theorem execOpDefine_kept {k : Kept} (d : Desc) (o : Word) (r : BitVec 368) (s : State) (hk : State.Keeps k s)
    (hm : k.Allows [.CAP, .HIF, .RAS, .SEC, .SWF, .cap, .coll, .free, .out, .ras, .swf, .tenants]) :
    State.KeepsOut k (execOpDefine d o r s) := by
  unfold execOpDefine
  with_reducible repeat' first
    | exact hk | assumption | exact hm.regs (by decide) | exact hm.sub (by decide) | (intro _) | extract_lets |
      apply Keeps.next | exact Keeps.fault | split | apply State.setDq_kept | apply State.setOp_kept |
      apply State.each_kept | apply State.err_kept | apply State.ok_kept | apply State.descriptor_kept |
      apply swfNext_kept | apply State.unlinkOp_kept | (dsimp -zeta only) | apply Keeps.of_fst |
      apply Keeps.of_snd | apply Keeps.pair | apply Keeps.pair'

theorem execOpEnable_kept {k : Kept} (d : Desc) (o : Word) (s : State) (hk : State.Keeps k s) (hm : k.Allows
    [.CAP, .HIF, .RAS, .SEC, .SWF, .cap, .coll, .free, .out, .ras, .swf, .tenants]) :
    State.KeepsOut k (execOpEnable d o s) := by
  unfold execOpEnable
  with_reducible repeat' first
    | exact hk | assumption | exact hm.regs (by decide) | exact hm.sub (by decide) | (intro _) | extract_lets |
      apply Keeps.next | exact Keeps.fault | apply State.setOp_kept | apply State.pend_kept |
      apply State.ok_kept | apply State.descriptor_kept | apply swfNext_kept | (dsimp -zeta only) |
      apply Keeps.of_fst | apply Keeps.of_snd | apply Keeps.pair | apply Keeps.pair'

theorem execOpStop_kept {k : Kept} (d : Desc) (o : Word) (s : State) (hk : State.Keeps k s) (hm : k.Allows
    [.CAP, .HIF, .RAS, .SEC, .SWF, .cap, .coll, .free, .out, .ras, .swf, .tenants]) :
    State.KeepsOut k (execOpStop d o s) := by
  unfold execOpStop
  with_reducible repeat' first
    | exact hk | assumption | exact hm.regs (by decide) | exact hm.sub (by decide) | (intro _) | extract_lets |
      apply Keeps.next | exact Keeps.fault | apply State.setOp_kept | apply State.ok_kept |
      apply State.descriptor_kept | apply swfNext_kept | apply State.opQuiesce_kept | (dsimp -zeta only) |
      apply Keeps.of_fst | apply Keeps.of_snd | apply Keeps.pair | apply Keeps.pair'

theorem execOpFree_kept {k : Kept} (d : Desc) (o : Word) (s : State) (hk : State.Keeps k s) (hm : k.Allows
    [.CAP, .HIF, .RAS, .SEC, .SWF, .cap, .coll, .free, .out, .ras, .swf, .tenants]) :
    State.KeepsOut k (execOpFree d o s) := by
  unfold execOpFree
  with_reducible repeat' first
    | exact hk | assumption | exact hm.regs (by decide) | exact hm.sub (by decide) | (intro _) | extract_lets |
      apply Keeps.next | exact Keeps.fault | apply State.setOp_kept | apply State.ok_kept |
      apply State.descriptor_kept | apply swfNext_kept | apply State.unlinkOp_kept | (dsimp -zeta only) |
      apply Keeps.of_fst | apply Keeps.of_snd | apply Keeps.pair | apply Keeps.pair'

theorem execOpMigrateLive_kept {k : Kept} (d : Desc) (o : Word) (cls prio : BitVec 8) (set : BitVec 2) (s :
    State) (hk : State.Keeps k s) (hm : k.Allows [.CAP, .HIF, .RAS, .SEC, .SWF, .cap, .coll, .free, .out, .ras,
    .swf, .tenants]) :
    State.KeepsOut k (execOpMigrateLive d o cls prio set s) := by
  unfold execOpMigrateLive
  with_reducible repeat' first
    | exact hk | assumption | exact hm.regs (by decide) | exact hm.sub (by decide) | exact hm.one (by decide) |
      (intro _) | extract_lets | apply Keeps.next | exact Keeps.fault | split | apply State.setOp_kept |
      apply State.swfTrace_kept | apply State.ok_kept | apply State.descriptor_kept | apply swfNext_kept |
      apply State.countReady_kept | (refine Keeps.fst (by assumption) ?_) |
      (refine Keeps.snd (by assumption) ?_) | (dsimp -zeta only) | apply Keeps.of_fst | apply Keeps.of_snd |
      apply Keeps.pair | apply Keeps.pair' | apply Keeps.upd_swf

theorem execOpMigrateDrain_kept {k : Kept} (d : Desc) (o : Word) (cls prio : BitVec 8) (set : BitVec 2) (s :
    State) (hk : State.Keeps k s) (hm : k.Allows [.CAP, .HIF, .RAS, .SEC, .SWF, .cap, .coll, .free, .out, .ras,
    .swf, .tenants]) :
    State.KeepsOut k (execOpMigrateDrain d o cls prio set s) := by
  unfold execOpMigrateDrain
  with_reducible repeat' first
    | exact hk | assumption | exact hm.regs (by decide) | exact hm.sub (by decide) | (intro _) | extract_lets |
      apply Keeps.next | exact Keeps.fault | split | apply State.setOp_kept | apply State.swfTrace_kept |
      apply State.ok_kept | apply State.descriptor_kept | apply swfNext_kept | apply State.opQuiesce_kept |
      (refine Keeps.fst (by assumption) ?_) | (refine Keeps.snd (by assumption) ?_) | (dsimp -zeta only) |
      apply Keeps.of_fst | apply Keeps.of_snd | apply Keeps.pair | apply Keeps.pair'

theorem execDecision_kept {k : Kept} (engine : BitVec 2) (t : BitVec 8) (s : State) (hk : State.Keeps k s) (hm :
    k.Allows [.CAP, .HIF, .RAS, .SEC, .SWF, .cap, .coll, .free, .out, .ras, .swf, .tenants]) :
    State.KeepsOut k (execDecision engine t s) := by
  unfold execDecision
  with_reducible repeat' first
    | exact hk | assumption | exact hm.regs (by decide) | exact hm.sub (by decide) | exact hm.one (by decide) |
      (intro _) | extract_lets | apply Keeps.next | exact Keeps.fault | split | apply State.pend_kept |
      apply State.useDq_kept | apply State.addPair_kept | apply State.each_kept | apply swfNext_kept |
      apply State.fire_kept | apply State.newRound_kept | (refine Keeps.fst (by assumption) ?_) |
      (refine Keeps.snd (by assumption) ?_) | (dsimp -zeta only) | apply Keeps.of_fst | apply Keeps.of_snd |
      apply Keeps.pair | apply Keeps.pair' | apply Keeps.upd_swf

theorem execTaskCommit_kept {k : Kept} (slot : BitVec 16) (s : State) (hk : State.Keeps k s) (hm : k.Allows
    [.CAP, .HIF, .RAS, .SEC, .SWF, .cap, .coll, .free, .out, .ras, .swf, .tenants]) :
    State.KeepsOut k (execTaskCommit slot s) := by
  unfold execTaskCommit
  repeat' first
    | with_reducible exact hk
    | with_reducible assumption
    | with_reducible exact hm.regs (by decide)
    | with_reducible exact hm.sub (by decide)
    | (intro _)
    | (extract_lets)
    | with_reducible apply Keeps.next
    | with_reducible exact Keeps.fault
    | (split)
    | with_reducible apply State.setOp_kept
    | with_reducible apply State.swfTrace_kept
    | with_reducible apply State.dqAppend_kept
    | with_reducible apply State.each_kept
    | with_reducible apply swfNext_kept
    | with_reducible apply State.freeTask_kept
    | with_reducible apply State.releasePlaces_kept
    | with_reducible refine Keeps.fst (by with_reducible assumption) ?_
    | with_reducible refine Keeps.snd (by with_reducible assumption) ?_
    | (dsimp -zeta only)
    | (simp -zeta only [id_eq])
    | with_reducible apply Keeps.of_fst
    | with_reducible apply Keeps.of_snd
    | with_reducible apply Keeps.foldl
    | with_reducible apply Keeps.foldl_fst
    | with_reducible apply Keeps.pair
    | with_reducible apply Keeps.pair'
    | with_reducible refine Keeps.upd_any hm ?_

theorem execTaskFetch_kept {k : Kept} (d : Desc) (cls : BitVec 8) (buffer : BitVec 64) (waitMs taskMs : Word) (s
    : State) (hk : State.Keeps k s) (hm : k.Allows [.CAP, .HIF, .RAS, .SEC, .SWF, .cap, .coll, .free, .out, .ras,
    .swf, .tenants]) :
    State.KeepsOut k (execTaskFetch d cls buffer waitMs taskMs s) := by
  unfold execTaskFetch
  with_reducible repeat' first
    | exact hk | assumption | exact hm.regs (by decide) | exact hm.sub (by decide) | exact hm.one (by decide) |
      (intro _) | extract_lets | apply Keeps.next | exact Keeps.fault | apply State.descriptor_kept |
      apply swfNext_kept | (dsimp -zeta only) | apply Keeps.of_fst | apply Keeps.of_snd | apply Keeps.pair |
      apply Keeps.pair' | apply Keeps.upd_swf

theorem execTaskFetchTimeout_kept {k : Kept} (tenant : BitVec 8) (ring : BitVec 6) (entry : BitVec 16) (s :
    State) (hk : State.Keeps k s) (hm : k.Allows [.HIF, .out, .swf, .tenants]) :
    State.KeepsOut k (execTaskFetchTimeout tenant ring entry s) := by
  unfold execTaskFetchTimeout
  with_reducible repeat' first
    | exact hk | assumption | exact hm.regs (by decide) | exact hm.sub (by decide) | exact hm.one (by decide) |
      (intro _) | extract_lets | apply Keeps.next | exact Keeps.fault | split | apply State.complete_kept |
      (refine Keeps.fst (by assumption) ?_) | (refine Keeps.snd (by assumption) ?_) | (dsimp -zeta only) |
      apply Keeps.of_fst | apply Keeps.of_snd | apply Keeps.pair | apply Keeps.pair' | apply Keeps.upd_swf

theorem execTaskDone_kept {k : Kept} (d : Desc) (handle : Word) (status : BitVec 8) (counts : Word) (tokens :
    List (BitVec 512)) (s : State) (hk : State.Keeps k s) (hm : k.Allows [.CAP, .HIF, .RAS, .SEC, .SWF, .cap, .coll,
    .free, .out, .ras, .swf, .tenants]) :
    State.KeepsOut k (execTaskDone d handle status counts tokens s) := by
  unfold execTaskDone
  with_reducible repeat' first
    | exact hk | assumption | exact hm.regs (by decide) | exact hm.sub (by decide) | exact hm.one (by decide) |
      (intro _) | extract_lets | apply Keeps.next | exact Keeps.fault | split | apply State.swfTrace_kept |
      apply State.ev_kept | apply State.cnt_kept | apply State.each_kept | apply State.ok_kept |
      apply State.refuse_kept | apply State.readFailed_kept | apply State.descriptor_kept | apply swfNext_kept |
      apply State.taskOutput_kept | apply State.taskDone_kept | (dsimp -zeta only) | apply Keeps.of_fst |
      apply Keeps.of_snd | apply Keeps.pair | apply Keeps.pair'

theorem execHostTaskTimeout_kept {k : Kept} (slot : BitVec 16) (s : State) (hk : State.Keeps k s) (hm : k.Allows
    [.CAP, .HIF, .RAS, .SEC, .SWF, .cap, .coll, .free, .out, .ras, .swf, .tenants]) :
    State.KeepsOut k (execHostTaskTimeout slot s) := by
  unfold execHostTaskTimeout
  with_reducible repeat' first
    | exact hk | assumption | exact hm.regs (by decide) | exact hm.sub (by decide) | extract_lets |
      apply Keeps.next | exact Keeps.fault | split | apply swfNext_kept | apply State.endTask_kept

theorem execTaskHandback_kept {k : Kept} (slot : BitVec 16) (s : State) (hk : State.Keeps k s) (hm : k.Allows
    [.CAP, .HIF, .RAS, .SEC, .SWF, .cap, .coll, .free, .out, .ras, .swf, .tenants]) :
    State.KeepsOut k (execTaskHandback slot s) := by
  unfold execTaskHandback
  with_reducible repeat' first
    | exact hk | assumption | exact hm.regs (by decide) | exact hm.sub (by decide) | apply Keeps.next |
      exact Keeps.fault | apply swfNext_kept | apply State.handBack_kept

theorem execDispatchRequest_kept {k : Kept} (sec : BitVec 8) (port : BitVec 2) (cls : BitVec 4) (s : State) (hk
    : State.Keeps k s) (hm : k.Allows [.swf]) :
    State.KeepsOut k (execDispatchRequest sec port cls s) := by
  unfold execDispatchRequest
  with_reducible repeat' first
    | exact hk | assumption | exact hm.regs (by decide) | exact hm.sub (by decide) | exact hm.one (by decide) |
      (intro _) | extract_lets | apply Keeps.next | exact Keeps.fault | split | (dsimp -zeta only) |
      apply Keeps.of_fst | apply Keeps.of_snd | apply Keeps.pair | apply Keeps.pair' | apply Keeps.upd_swf

theorem execDispatchOutput_kept {k : Kept} (sec : BitVec 8) (port index : BitVec 2) (token : BitVec 512) (s :
    State) (hk : State.Keeps k s) (hm : k.Allows [.CAP, .HIF, .RAS, .SEC, .SWF, .cap, .coll, .free, .out, .ras,
    .swf, .tenants]) :
    State.KeepsOut k (execDispatchOutput sec port index token s) := by
  unfold execDispatchOutput
  with_reducible repeat' first
    | exact hk | assumption | exact hm.regs (by decide) | exact hm.sub (by decide) | apply Keeps.next |
      exact Keeps.fault | split | apply swfNext_kept | apply State.taskOutput_kept |
      (refine Keeps.fst (by assumption) ?_) | (refine Keeps.snd (by assumption) ?_) | (dsimp -zeta only) |
      apply Keeps.of_fst | apply Keeps.of_snd | apply Keeps.pair | apply Keeps.pair'

theorem execDispatchDone_kept {k : Kept} (sec : BitVec 8) (port status : BitVec 2) (s : State) (hk : State.Keeps
    k s) (hm : k.Allows [.CAP, .HIF, .RAS, .SEC, .SWF, .cap, .coll, .free, .out, .ras, .swf, .tenants]) :
    State.KeepsOut k (execDispatchDone sec port status s) := by
  unfold execDispatchDone
  with_reducible repeat' first
    | exact hk | assumption | exact hm.regs (by decide) | exact hm.sub (by decide) | apply Keeps.next |
      exact Keeps.fault | split | apply swfNext_kept | apply State.taskDone_kept |
      (refine Keeps.fst (by assumption) ?_) | (refine Keeps.snd (by assumption) ?_) | (dsimp -zeta only) |
      apply Keeps.of_fst | apply Keeps.of_snd | apply Keeps.pair | apply Keeps.pair'

end Sys2Proof.Machine
end

