-- ==== Sys2Proof/Laws/RunsCoreIsa.lean ====
section
/-! SUPPORT. Laws/RunsCoreIsa.lean: the meanings of Machine/CoreIsa.lean keep what Laws/Keeps.lean says. -/
set_option Elab.async false  -- one proof at a time: the package as one text then needs less memory
namespace Sys2Proof.Machine

theorem execNop_kept {k : Kept} (c : BitVec 8) (fe : Bool) (s : State) (hk : State.Keeps k s) (hm : k.Allows
    [.DBG, .SGC, .SWF, .cores, .dbg, .free, .swf]) :
    State.KeepsOut k (execNop c fe s) :=
  Keeps.next (by apply State.issue_kept <;> first | assumption | exact fun _ h => h)

theorem execTrap_kept {k : Kept} (c : BitVec 8) (fe : Bool) (s : State) (hk : State.Keeps k s) (hm : k.Allows
    [.DBG, .SGC, .SWF, .cores, .dbg, .free, .swf]) :
    State.KeepsOut k (execTrap c fe s) :=
  Keeps.next (by apply State.issue_kept <;> first | assumption | exact fun _ h => h)

theorem execRete_kept {k : Kept} (c : BitVec 8) (fe : Bool) (s : State) (hk : State.Keeps k s) (hm : k.Allows
    [.DBG, .SGC, .SWF, .cores, .dbg, .free, .swf]) :
    State.KeepsOut k (execRete c fe s) :=
  Keeps.next (by apply State.issue_kept <;> first | assumption | exact fun _ h => h)

theorem execBr_kept {k : Kept} (c : BitVec 8) (fe : Bool) (s : State) (hk : State.Keeps k s) (hm : k.Allows
    [.DBG, .SGC, .SWF, .cores, .dbg, .free, .swf]) :
    State.KeepsOut k (execBr c fe s) :=
  Keeps.next (by apply State.issue_kept <;> first | assumption | exact fun _ h => h)

theorem execJmp_kept {k : Kept} (c : BitVec 8) (fe : Bool) (s : State) (hk : State.Keeps k s) (hm : k.Allows
    [.DBG, .SGC, .SWF, .cores, .dbg, .free, .swf]) :
    State.KeepsOut k (execJmp c fe s) :=
  Keeps.next (by apply State.issue_kept <;> first | assumption | exact fun _ h => h)

theorem execJmpr_kept {k : Kept} (c : BitVec 8) (fe : Bool) (s : State) (hk : State.Keeps k s) (hm : k.Allows
    [.DBG, .SGC, .SWF, .cores, .dbg, .free, .swf]) :
    State.KeepsOut k (execJmpr c fe s) :=
  Keeps.next (by apply State.issue_kept <;> first | assumption | exact fun _ h => h)

theorem execCall_kept {k : Kept} (c : BitVec 8) (fe : Bool) (s : State) (hk : State.Keeps k s) (hm : k.Allows
    [.DBG, .SGC, .SWF, .cores, .dbg, .free, .swf]) :
    State.KeepsOut k (execCall c fe s) :=
  Keeps.next (by apply State.issue_kept <;> first | assumption | exact fun _ h => h)

theorem execRet_kept {k : Kept} (c : BitVec 8) (fe : Bool) (s : State) (hk : State.Keeps k s) (hm : k.Allows
    [.DBG, .SGC, .SWF, .cores, .dbg, .free, .swf]) :
    State.KeepsOut k (execRet c fe s) :=
  Keeps.next (by apply State.issue_kept <;> first | assumption | exact fun _ h => h)

theorem execLoopi_kept {k : Kept} (c : BitVec 8) (fe : Bool) (s : State) (hk : State.Keeps k s) (hm : k.Allows
    [.DBG, .SGC, .SWF, .cores, .dbg, .free, .swf]) :
    State.KeepsOut k (execLoopi c fe s) :=
  Keeps.next (by apply State.issue_kept <;> first | assumption | exact fun _ h => h)

theorem execLoopr_kept {k : Kept} (c : BitVec 8) (fe : Bool) (s : State) (hk : State.Keeps k s) (hm : k.Allows
    [.DBG, .SGC, .SWF, .cores, .dbg, .free, .swf]) :
    State.KeepsOut k (execLoopr c fe s) :=
  Keeps.next (by apply State.issue_kept <;> first | assumption | exact fun _ h => h)

theorem execRepi_kept {k : Kept} (c : BitVec 8) (fe : Bool) (s : State) (hk : State.Keeps k s) (hm : k.Allows
    [.DBG, .SGC, .SWF, .cores, .dbg, .free, .swf]) :
    State.KeepsOut k (execRepi c fe s) :=
  Keeps.next (by apply State.issue_kept <;> first | assumption | exact fun _ h => h)

theorem execRepr_kept {k : Kept} (c : BitVec 8) (fe : Bool) (s : State) (hk : State.Keeps k s) (hm : k.Allows
    [.DBG, .SGC, .SWF, .cores, .dbg, .free, .swf]) :
    State.KeepsOut k (execRepr c fe s) :=
  Keeps.next (by apply State.issue_kept <;> first | assumption | exact fun _ h => h)

theorem execTwait_kept {k : Kept} (c : BitVec 8) (fe : Bool) (s : State) (hk : State.Keeps k s) (hm : k.Allows
    [.DBG, .SGC, .SWF, .cores, .dbg, .free, .swf]) :
    State.KeepsOut k (execTwait c fe s) := by
  unfold execTwait
  with_reducible repeat' first
    | exact hk | assumption | exact hm.regs (by decide) | exact hm.sub (by decide) | exact hm.one (by decide) |
      (intro _) | extract_lets | apply Keeps.next | exact Keeps.fault | apply State.setCore_kept |
      apply State.setCoreState_kept | apply State.issue_kept | (dsimp -zeta only) | apply Keeps.of_fst |
      apply Keeps.of_snd | apply Keeps.pair | apply Keeps.pair' | apply Keeps.upd_swf

theorem execTput_kept {k : Kept} (c : BitVec 8) (fe : Bool) (s : State) (hk : State.Keeps k s) (hm : k.Allows
    [.CAP, .DBG, .HIF, .RAS, .SEC, .SGC, .SWF, .cap, .coll, .cores, .dbg, .free, .out, .ras, .swf, .tenants]) :
    State.KeepsOut k (execTput c fe s) := by
  unfold execTput
  with_reducible repeat' first
    | exact hk | assumption | exact hm.regs (by decide) | exact hm.sub (by decide) | (intro _) | extract_lets |
      apply Keeps.next | exact Keeps.fault | split | apply State.flushTrace_kept | apply State.issue_kept |
      apply State.taskOutput_kept | (refine Keeps.fst (by assumption) ?_) |
      (refine Keeps.snd (by assumption) ?_) | (dsimp -zeta only) | apply Keeps.of_fst | apply Keeps.of_snd |
      apply Keeps.pair | apply Keeps.pair'

theorem execTdone_kept {k : Kept} (c : BitVec 8) (fe : Bool) (s : State) (hk : State.Keeps k s) (hm : k.Allows
    [.CAP, .DBG, .HIF, .RAS, .SEC, .SGC, .SWF, .cap, .coll, .cores, .dbg, .free, .out, .ras, .swf, .tenants]) :
    State.KeepsOut k (execTdone c fe s) := by
  unfold execTdone
  repeat' first
    | with_reducible exact hk
    | with_reducible assumption
    | with_reducible exact hm.regs (by decide)
    | with_reducible exact hm.sub (by decide)
    | with_reducible exact hm.one (by decide)
    | (intro _)
    | (extract_lets)
    | with_reducible apply Keeps.next
    | with_reducible exact Keeps.fault
    | (split)
    | with_reducible apply State.flushTrace_kept
    | with_reducible apply State.setCore_kept
    | with_reducible apply State.issue_kept
    | with_reducible apply State.cnt_kept
    | with_reducible apply State.taskDone_kept
    | with_reducible refine Keeps.fst (by with_reducible assumption) ?_
    | with_reducible refine Keeps.snd (by with_reducible assumption) ?_
    | (dsimp -zeta only)
    | (simp -zeta only [id_eq])
    | with_reducible apply Keeps.of_fst
    | with_reducible apply Keeps.of_snd
    | with_reducible apply Keeps.foldl
    | with_reducible apply Keeps.foldl_fst
    | with_reducible apply Keeps.pair
    | with_reducible apply Keeps.pair'
    | with_reducible refine Keeps.upd_any hm ?_

theorem execDmas_kept {k : Kept} (c : BitVec 8) (fe : Bool) (s : State) (hk : State.Keeps k s) (hm : k.Allows
    [.DBG, .SGC, .SWF, .cores, .dbg, .free, .swf]) :
    State.KeepsOut k (execDmas c fe s) := by
  unfold execDmas
  with_reducible repeat' first
    | exact hk | assumption | exact hm.regs (by decide) | exact hm.sub (by decide) | (intro _) | extract_lets |
      apply Keeps.next | exact Keeps.fault | split | apply State.setCore_kept | apply State.issue_kept |
      (dsimp -zeta only) | apply Keeps.of_fst | apply Keeps.of_snd | apply Keeps.pair | apply Keeps.pair'

theorem execMovs_kept {k : Kept} (c : BitVec 8) (fe : Bool) (s : State) (hk : State.Keeps k s) (hm : k.Allows
    [.DBG, .SGC, .SWF, .cores, .dbg, .free, .swf]) :
    State.KeepsOut k (execMovs c fe s) :=
  Keeps.next (by apply State.issue_kept <;> first | assumption | exact fun _ h => h)

theorem execMovts_kept {k : Kept} (c : BitVec 8) (fe : Bool) (s : State) (hk : State.Keeps k s) (hm : k.Allows
    [.DBG, .SGC, .SWF, .cores, .dbg, .free, .swf]) :
    State.KeepsOut k (execMovts c fe s) :=
  Keeps.next (by apply State.issue_kept <;> first | assumption | exact fun _ h => h)

theorem execRdtime_kept {k : Kept} (c : BitVec 8) (fe : Bool) (s : State) (hk : State.Keeps k s) (hm : k.Allows
    [.DBG, .SGC, .SWF, .cores, .dbg, .free, .swf]) :
    State.KeepsOut k (execRdtime c fe s) :=
  Keeps.next (by apply State.issue_kept <;> first | assumption | exact fun _ h => h)

theorem execAdd_kept {k : Kept} (c : BitVec 8) (fe : Bool) (s : State) (hk : State.Keeps k s) (hm : k.Allows
    [.DBG, .SGC, .SWF, .cores, .dbg, .free, .swf]) :
    State.KeepsOut k (execAdd c fe s) :=
  Keeps.next (by apply State.issue_kept <;> first | assumption | exact fun _ h => h)

theorem execAdds_kept {k : Kept} (c : BitVec 8) (fe : Bool) (s : State) (hk : State.Keeps k s) (hm : k.Allows
    [.DBG, .SGC, .SWF, .cores, .dbg, .free, .swf]) :
    State.KeepsOut k (execAdds c fe s) :=
  Keeps.next (by apply State.issue_kept <;> first | assumption | exact fun _ h => h)

theorem execSub_kept {k : Kept} (c : BitVec 8) (fe : Bool) (s : State) (hk : State.Keeps k s) (hm : k.Allows
    [.DBG, .SGC, .SWF, .cores, .dbg, .free, .swf]) :
    State.KeepsOut k (execSub c fe s) :=
  Keeps.next (by apply State.issue_kept <;> first | assumption | exact fun _ h => h)

theorem execSubs_kept {k : Kept} (c : BitVec 8) (fe : Bool) (s : State) (hk : State.Keeps k s) (hm : k.Allows
    [.DBG, .SGC, .SWF, .cores, .dbg, .free, .swf]) :
    State.KeepsOut k (execSubs c fe s) :=
  Keeps.next (by apply State.issue_kept <;> first | assumption | exact fun _ h => h)

theorem execAnd_kept {k : Kept} (c : BitVec 8) (fe : Bool) (s : State) (hk : State.Keeps k s) (hm : k.Allows
    [.DBG, .SGC, .SWF, .cores, .dbg, .free, .swf]) :
    State.KeepsOut k (execAnd c fe s) :=
  Keeps.next (by apply State.issue_kept <;> first | assumption | exact fun _ h => h)

theorem execOr_kept {k : Kept} (c : BitVec 8) (fe : Bool) (s : State) (hk : State.Keeps k s) (hm : k.Allows
    [.DBG, .SGC, .SWF, .cores, .dbg, .free, .swf]) :
    State.KeepsOut k (execOr c fe s) :=
  Keeps.next (by apply State.issue_kept <;> first | assumption | exact fun _ h => h)

theorem execXor_kept {k : Kept} (c : BitVec 8) (fe : Bool) (s : State) (hk : State.Keeps k s) (hm : k.Allows
    [.DBG, .SGC, .SWF, .cores, .dbg, .free, .swf]) :
    State.KeepsOut k (execXor c fe s) :=
  Keeps.next (by apply State.issue_kept <;> first | assumption | exact fun _ h => h)

theorem execMin_kept {k : Kept} (c : BitVec 8) (fe : Bool) (s : State) (hk : State.Keeps k s) (hm : k.Allows
    [.DBG, .SGC, .SWF, .cores, .dbg, .free, .swf]) :
    State.KeepsOut k (execMin c fe s) :=
  Keeps.next (by apply State.issue_kept <;> first | assumption | exact fun _ h => h)

theorem execMax_kept {k : Kept} (c : BitVec 8) (fe : Bool) (s : State) (hk : State.Keeps k s) (hm : k.Allows
    [.DBG, .SGC, .SWF, .cores, .dbg, .free, .swf]) :
    State.KeepsOut k (execMax c fe s) :=
  Keeps.next (by apply State.issue_kept <;> first | assumption | exact fun _ h => h)

theorem execAbs_kept {k : Kept} (c : BitVec 8) (fe : Bool) (s : State) (hk : State.Keeps k s) (hm : k.Allows
    [.DBG, .SGC, .SWF, .cores, .dbg, .free, .swf]) :
    State.KeepsOut k (execAbs c fe s) :=
  Keeps.next (by apply State.issue_kept <;> first | assumption | exact fun _ h => h)

theorem execNeg_kept {k : Kept} (c : BitVec 8) (fe : Bool) (s : State) (hk : State.Keeps k s) (hm : k.Allows
    [.DBG, .SGC, .SWF, .cores, .dbg, .free, .swf]) :
    State.KeepsOut k (execNeg c fe s) :=
  Keeps.next (by apply State.issue_kept <;> first | assumption | exact fun _ h => h)

theorem execCmp_kept {k : Kept} (c : BitVec 8) (fe : Bool) (s : State) (hk : State.Keeps k s) (hm : k.Allows
    [.DBG, .SGC, .SWF, .cores, .dbg, .free, .swf]) :
    State.KeepsOut k (execCmp c fe s) :=
  Keeps.next (by apply State.issue_kept <;> first | assumption | exact fun _ h => h)

theorem execShl_kept {k : Kept} (c : BitVec 8) (fe : Bool) (s : State) (hk : State.Keeps k s) (hm : k.Allows
    [.DBG, .SGC, .SWF, .cores, .dbg, .free, .swf]) :
    State.KeepsOut k (execShl c fe s) :=
  Keeps.next (by apply State.issue_kept <;> first | assumption | exact fun _ h => h)

theorem execShr_kept {k : Kept} (c : BitVec 8) (fe : Bool) (s : State) (hk : State.Keeps k s) (hm : k.Allows
    [.DBG, .SGC, .SWF, .cores, .dbg, .free, .swf]) :
    State.KeepsOut k (execShr c fe s) :=
  Keeps.next (by apply State.issue_kept <;> first | assumption | exact fun _ h => h)

theorem execSar_kept {k : Kept} (c : BitVec 8) (fe : Bool) (s : State) (hk : State.Keeps k s) (hm : k.Allows
    [.DBG, .SGC, .SWF, .cores, .dbg, .free, .swf]) :
    State.KeepsOut k (execSar c fe s) :=
  Keeps.next (by apply State.issue_kept <;> first | assumption | exact fun _ h => h)

theorem execShli_kept {k : Kept} (c : BitVec 8) (fe : Bool) (s : State) (hk : State.Keeps k s) (hm : k.Allows
    [.DBG, .SGC, .SWF, .cores, .dbg, .free, .swf]) :
    State.KeepsOut k (execShli c fe s) :=
  Keeps.next (by apply State.issue_kept <;> first | assumption | exact fun _ h => h)

theorem execShri_kept {k : Kept} (c : BitVec 8) (fe : Bool) (s : State) (hk : State.Keeps k s) (hm : k.Allows
    [.DBG, .SGC, .SWF, .cores, .dbg, .free, .swf]) :
    State.KeepsOut k (execShri c fe s) :=
  Keeps.next (by apply State.issue_kept <;> first | assumption | exact fun _ h => h)

theorem execSari_kept {k : Kept} (c : BitVec 8) (fe : Bool) (s : State) (hk : State.Keeps k s) (hm : k.Allows
    [.DBG, .SGC, .SWF, .cores, .dbg, .free, .swf]) :
    State.KeepsOut k (execSari c fe s) :=
  Keeps.next (by apply State.issue_kept <;> first | assumption | exact fun _ h => h)

theorem execBtst_kept {k : Kept} (c : BitVec 8) (fe : Bool) (s : State) (hk : State.Keeps k s) (hm : k.Allows
    [.DBG, .SGC, .SWF, .cores, .dbg, .free, .swf]) :
    State.KeepsOut k (execBtst c fe s) :=
  Keeps.next (by apply State.issue_kept <;> first | assumption | exact fun _ h => h)

theorem execClz_kept {k : Kept} (c : BitVec 8) (fe : Bool) (s : State) (hk : State.Keeps k s) (hm : k.Allows
    [.DBG, .SGC, .SWF, .cores, .dbg, .free, .swf]) :
    State.KeepsOut k (execClz c fe s) :=
  Keeps.next (by apply State.issue_kept <;> first | assumption | exact fun _ h => h)

theorem execMovi_kept {k : Kept} (c : BitVec 8) (fe : Bool) (s : State) (hk : State.Keeps k s) (hm : k.Allows
    [.DBG, .SGC, .SWF, .cores, .dbg, .free, .swf]) :
    State.KeepsOut k (execMovi c fe s) :=
  Keeps.next (by apply State.issue_kept <;> first | assumption | exact fun _ h => h)

theorem execAddi_kept {k : Kept} (c : BitVec 8) (fe : Bool) (s : State) (hk : State.Keeps k s) (hm : k.Allows
    [.DBG, .SGC, .SWF, .cores, .dbg, .free, .swf]) :
    State.KeepsOut k (execAddi c fe s) :=
  Keeps.next (by apply State.issue_kept <;> first | assumption | exact fun _ h => h)

theorem execAndi_kept {k : Kept} (c : BitVec 8) (fe : Bool) (s : State) (hk : State.Keeps k s) (hm : k.Allows
    [.DBG, .SGC, .SWF, .cores, .dbg, .free, .swf]) :
    State.KeepsOut k (execAndi c fe s) :=
  Keeps.next (by apply State.issue_kept <;> first | assumption | exact fun _ h => h)

theorem execCmpi_kept {k : Kept} (c : BitVec 8) (fe : Bool) (s : State) (hk : State.Keeps k s) (hm : k.Allows
    [.DBG, .SGC, .SWF, .cores, .dbg, .free, .swf]) :
    State.KeepsOut k (execCmpi c fe s) :=
  Keeps.next (by apply State.issue_kept <;> first | assumption | exact fun _ h => h)

theorem execMov_kept {k : Kept} (c : BitVec 8) (fe : Bool) (s : State) (hk : State.Keeps k s) (hm : k.Allows
    [.DBG, .SGC, .SWF, .cores, .dbg, .free, .swf]) :
    State.KeepsOut k (execMov c fe s) :=
  Keeps.next (by apply State.issue_kept <;> first | assumption | exact fun _ h => h)

theorem execMovda_kept {k : Kept} (c : BitVec 8) (fe : Bool) (s : State) (hk : State.Keeps k s) (hm : k.Allows
    [.DBG, .SGC, .SWF, .cores, .dbg, .free, .swf]) :
    State.KeepsOut k (execMovda c fe s) :=
  Keeps.next (by apply State.issue_kept <;> first | assumption | exact fun _ h => h)

theorem execMovad_kept {k : Kept} (c : BitVec 8) (fe : Bool) (s : State) (hk : State.Keeps k s) (hm : k.Allows
    [.DBG, .SGC, .SWF, .cores, .dbg, .free, .swf]) :
    State.KeepsOut k (execMovad c fe s) :=
  Keeps.next (by apply State.issue_kept <;> first | assumption | exact fun _ h => h)

theorem execMovmd_kept {k : Kept} (c : BitVec 8) (fe : Bool) (s : State) (hk : State.Keeps k s) (hm : k.Allows
    [.DBG, .SGC, .SWF, .cores, .dbg, .free, .swf]) :
    State.KeepsOut k (execMovmd c fe s) :=
  Keeps.next (by apply State.issue_kept <;> first | assumption | exact fun _ h => h)

theorem execAdda_kept {k : Kept} (c : BitVec 8) (fe : Bool) (s : State) (hk : State.Keeps k s) (hm : k.Allows
    [.DBG, .SGC, .SWF, .cores, .dbg, .free, .swf]) :
    State.KeepsOut k (execAdda c fe s) :=
  Keeps.next (by apply State.issue_kept <;> first | assumption | exact fun _ h => h)

theorem execSel_kept {k : Kept} (c : BitVec 8) (fe : Bool) (s : State) (hk : State.Keeps k s) (hm : k.Allows
    [.DBG, .SGC, .SWF, .cores, .dbg, .free, .swf]) :
    State.KeepsOut k (execSel c fe s) :=
  Keeps.next (by apply State.issue_kept <;> first | assumption | exact fun _ h => h)

theorem execLd_kept {k : Kept} (c : BitVec 8) (fe : Bool) (err : BitVec 2) (s : State) (hk : State.Keeps k s)
    (hm : k.Allows [.DBG, .SGC, .SWF, .cores, .dbg, .free, .swf]) :
    State.KeepsOut k (execLd c fe err s) :=
  Keeps.next (by apply State.issue_kept <;> first | assumption | exact fun _ h => h)

theorem execSt_kept {k : Kept} (c : BitVec 8) (fe : Bool) (s : State) (hk : State.Keeps k s) (hm : k.Allows
    [.DBG, .SGC, .SWF, .cores, .dbg, .free, .swf]) :
    State.KeepsOut k (execSt c fe s) :=
  Keeps.next (by apply State.issue_kept <;> first | assumption | exact fun _ h => h)

theorem execLdo_kept {k : Kept} (c : BitVec 8) (fe : Bool) (err : BitVec 2) (s : State) (hk : State.Keeps k s)
    (hm : k.Allows [.DBG, .SGC, .SWF, .cores, .dbg, .free, .swf]) :
    State.KeepsOut k (execLdo c fe err s) :=
  Keeps.next (by apply State.issue_kept <;> first | assumption | exact fun _ h => h)

theorem execSto_kept {k : Kept} (c : BitVec 8) (fe : Bool) (s : State) (hk : State.Keeps k s) (hm : k.Allows
    [.DBG, .SGC, .SWF, .cores, .dbg, .free, .swf]) :
    State.KeepsOut k (execSto c fe s) :=
  Keeps.next (by apply State.issue_kept <;> first | assumption | exact fun _ h => h)

theorem execLdxy_kept {k : Kept} (c : BitVec 8) (fe : Bool) (err : BitVec 2) (s : State) (hk : State.Keeps k s)
    (hm : k.Allows [.DBG, .SGC, .SWF, .cores, .dbg, .free, .swf]) :
    State.KeepsOut k (execLdxy c fe err s) :=
  Keeps.next (by apply State.issue_kept <;> first | assumption | exact fun _ h => h)

theorem execLdst_kept {k : Kept} (c : BitVec 8) (fe : Bool) (err : BitVec 2) (s : State) (hk : State.Keeps k s)
    (hm : k.Allows [.DBG, .SGC, .SWF, .cores, .dbg, .free, .swf]) :
    State.KeepsOut k (execLdst c fe err s) :=
  Keeps.next (by apply State.issue_kept <;> first | assumption | exact fun _ h => h)

theorem execMac_kept {k : Kept} (c : BitVec 8) (fe : Bool) (s : State) (hk : State.Keeps k s) (hm : k.Allows
    [.DBG, .SGC, .SWF, .cores, .dbg, .free, .swf]) :
    State.KeepsOut k (execMac c fe s) :=
  Keeps.next (by apply State.issue_kept <;> first | assumption | exact fun _ h => h)

theorem execMacsu_kept {k : Kept} (c : BitVec 8) (fe : Bool) (s : State) (hk : State.Keeps k s) (hm : k.Allows
    [.DBG, .SGC, .SWF, .cores, .dbg, .free, .swf]) :
    State.KeepsOut k (execMacsu c fe s) :=
  Keeps.next (by apply State.issue_kept <;> first | assumption | exact fun _ h => h)

theorem execMacuu_kept {k : Kept} (c : BitVec 8) (fe : Bool) (s : State) (hk : State.Keeps k s) (hm : k.Allows
    [.DBG, .SGC, .SWF, .cores, .dbg, .free, .swf]) :
    State.KeepsOut k (execMacuu c fe s) :=
  Keeps.next (by apply State.issue_kept <;> first | assumption | exact fun _ h => h)

theorem execMsu_kept {k : Kept} (c : BitVec 8) (fe : Bool) (s : State) (hk : State.Keeps k s) (hm : k.Allows
    [.DBG, .SGC, .SWF, .cores, .dbg, .free, .swf]) :
    State.KeepsOut k (execMsu c fe s) :=
  Keeps.next (by apply State.issue_kept <;> first | assumption | exact fun _ h => h)

theorem execMul_kept {k : Kept} (c : BitVec 8) (fe : Bool) (s : State) (hk : State.Keeps k s) (hm : k.Allows
    [.DBG, .SGC, .SWF, .cores, .dbg, .free, .swf]) :
    State.KeepsOut k (execMul c fe s) :=
  Keeps.next (by apply State.issue_kept <;> first | assumption | exact fun _ h => h)

theorem execMacl_kept {k : Kept} (c : BitVec 8) (fe : Bool) (err : BitVec 2) (s : State) (hk : State.Keeps k s)
    (hm : k.Allows [.DBG, .SGC, .SWF, .cores, .dbg, .free, .swf]) :
    State.KeepsOut k (execMacl c fe err s) :=
  Keeps.next (by apply State.issue_kept <;> first | assumption | exact fun _ h => h)

theorem execMsul_kept {k : Kept} (c : BitVec 8) (fe : Bool) (err : BitVec 2) (s : State) (hk : State.Keeps k s)
    (hm : k.Allows [.DBG, .SGC, .SWF, .cores, .dbg, .free, .swf]) :
    State.KeepsOut k (execMsul c fe err s) :=
  Keeps.next (by apply State.issue_kept <;> first | assumption | exact fun _ h => h)

theorem execMacs_kept {k : Kept} (c : BitVec 8) (fe : Bool) (s : State) (hk : State.Keeps k s) (hm : k.Allows
    [.DBG, .SGC, .SWF, .cores, .dbg, .free, .swf]) :
    State.KeepsOut k (execMacs c fe s) :=
  Keeps.next (by apply State.issue_kept <;> first | assumption | exact fun _ h => h)

theorem execAccr_kept {k : Kept} (c : BitVec 8) (fe : Bool) (s : State) (hk : State.Keeps k s) (hm : k.Allows
    [.DBG, .SGC, .SWF, .cores, .dbg, .free, .swf]) :
    State.KeepsOut k (execAccr c fe s) :=
  Keeps.next (by apply State.issue_kept <;> first | assumption | exact fun _ h => h)

theorem execAccx_kept {k : Kept} (c : BitVec 8) (fe : Bool) (s : State) (hk : State.Keeps k s) (hm : k.Allows
    [.DBG, .SGC, .SWF, .cores, .dbg, .free, .swf]) :
    State.KeepsOut k (execAccx c fe s) :=
  Keeps.next (by apply State.issue_kept <;> first | assumption | exact fun _ h => h)

theorem execAccld_kept {k : Kept} (c : BitVec 8) (fe : Bool) (s : State) (hk : State.Keeps k s) (hm : k.Allows
    [.DBG, .SGC, .SWF, .cores, .dbg, .free, .swf]) :
    State.KeepsOut k (execAccld c fe s) :=
  Keeps.next (by apply State.issue_kept <;> first | assumption | exact fun _ h => h)

theorem execAccclr_kept {k : Kept} (c : BitVec 8) (fe : Bool) (s : State) (hk : State.Keeps k s) (hm : k.Allows
    [.DBG, .SGC, .SWF, .cores, .dbg, .free, .swf]) :
    State.KeepsOut k (execAccclr c fe s) :=
  Keeps.next (by apply State.issue_kept <;> first | assumption | exact fun _ h => h)

theorem execAccadd_kept {k : Kept} (c : BitVec 8) (fe : Bool) (s : State) (hk : State.Keeps k s) (hm : k.Allows
    [.DBG, .SGC, .SWF, .cores, .dbg, .free, .swf]) :
    State.KeepsOut k (execAccadd c fe s) :=
  Keeps.next (by apply State.issue_kept <;> first | assumption | exact fun _ h => h)

theorem execAcs_kept {k : Kept} (c : BitVec 8) (fe : Bool) (s : State) (hk : State.Keeps k s) (hm : k.Allows
    [.DBG, .SGC, .SWF, .cores, .dbg, .free, .swf]) :
    State.KeepsOut k (execAcs c fe s) :=
  Keeps.next (by apply State.issue_kept <;> first | assumption | exact fun _ h => h)

theorem execDecbit_kept {k : Kept} (c : BitVec 8) (fe : Bool) (s : State) (hk : State.Keeps k s) (hm : k.Allows
    [.DBG, .SGC, .SWF, .cores, .dbg, .free, .swf]) :
    State.KeepsOut k (execDecbit c fe s) :=
  Keeps.next (by apply State.issue_kept <;> first | assumption | exact fun _ h => h)

end Sys2Proof.Machine
end

