-- ==== Sys2Proof/Laws/RunsCores.lean ====
section
/-! SUPPORT. Laws/RunsCores.lean: the meanings of Machine/Cores.lean keep what Laws/Keeps.lean says. -/
set_option Elab.async false  -- one proof at a time: the package as one text then needs less memory
namespace Sys2Proof.Machine

theorem execCoreLoad_kept {k : Kept} (d : Desc) (c : BitVec 8) (data : Bool) (first : BitVec 16) (items : List
    Word) (s : State) (hk : State.Keeps k s) (hm : k.Allows [.HIF, .SGC, .cores, .out, .tenants]) :
    State.KeepsOut k (execCoreLoad d c data first items s) := by
  unfold execCoreLoad
  with_reducible repeat' first
    | exact hk | assumption | exact hm.regs (by decide) | exact hm.sub (by decide) | (intro _) | extract_lets |
      apply Keeps.next | exact Keeps.fault | split | apply State.setCore_kept | apply State.ok_kept |
      apply State.readFailed_kept | apply State.descriptor_kept | (dsimp -zeta only) | apply Keeps.of_fst |
      apply Keeps.of_snd | apply Keeps.foldl | apply Keeps.foldl_fst | apply Keeps.pair | apply Keeps.pair'

theorem execCoreStart_kept {k : Kept} (d : Desc) (c : BitVec 8) (entry : BitVec 16) (s : State) (hk :
    State.Keeps k s) (hm : k.Allows [.HIF, .SGC, .cores, .out, .tenants]) :
    State.KeepsOut k (execCoreStart d c entry s) := by
  unfold execCoreStart
  with_reducible repeat' first
    | exact hk | assumption | exact hm.regs (by decide) | exact hm.sub (by decide) | exact hm.one (by decide) |
      (intro _) | extract_lets | apply Keeps.next | exact Keeps.fault | apply State.setCore_kept |
      apply State.setCoreState_kept | apply State.clr_kept | apply State.ok_kept | apply State.descriptor_kept |
      (dsimp -zeta only) | apply Keeps.of_fst | apply Keeps.of_snd | apply Keeps.pair | apply Keeps.pair'

theorem execCoreStop_kept {k : Kept} (d : Desc) (c : BitVec 8) (s : State) (hk : State.Keeps k s) (hm : k.Allows
    [.HIF, .SGC, .cores, .out, .swf, .tenants]) :
    State.KeepsOut k (execCoreStop d c s) := by
  unfold execCoreStop
  with_reducible repeat' first
    | exact hk | assumption | exact hm.regs (by decide) | exact hm.sub (by decide) | (intro _) | extract_lets |
      apply Keeps.next | exact Keeps.fault | apply State.stopCore_kept | apply State.when_kept |
      apply State.ok_kept | apply State.descriptor_kept | (dsimp -zeta only) | apply Keeps.of_fst |
      apply Keeps.of_snd | apply Keeps.pair | apply Keeps.pair'

theorem execCoreSignal_kept {k : Kept} (d : Desc) (c : BitVec 8) (s : State) (hk : State.Keeps k s) (hm :
    k.Allows [.HIF, .SGC, .cores, .out, .tenants]) :
    State.KeepsOut k (execCoreSignal d c s) := by
  unfold execCoreSignal
  with_reducible repeat' first
    | exact hk | assumption | exact hm.regs (by decide) | exact hm.sub (by decide) | (intro _) | extract_lets |
      apply Keeps.next | exact Keeps.fault | apply State.raiseCore_kept | apply State.ok_kept |
      apply State.descriptor_kept | (dsimp -zeta only) | apply Keeps.of_fst | apply Keeps.of_snd |
      apply Keeps.pair | apply Keeps.pair'

theorem execInterruptEntry_kept {k : Kept} (c : BitVec 8) (s : State) (hk : State.Keeps k s) (hm : k.Allows
    [.SGC, .cores, .swf]) :
    State.KeepsOut k (execInterruptEntry c s) := by
  unfold execInterruptEntry
  with_reducible repeat' first
    | exact hk | assumption | exact hm.regs (by decide) | exact hm.sub (by decide) | exact hm.one (by decide) |
      (intro _) | extract_lets | apply Keeps.next | exact Keeps.fault | split | apply State.setCore_kept |
      apply State.setCoreState_kept | apply State.excInfo_kept | apply State.when_kept |
      (refine Keeps.fst (by assumption) ?_) | (refine Keeps.snd (by assumption) ?_) | (dsimp -zeta only) |
      apply Keeps.of_fst | apply Keeps.of_snd | apply Keeps.pair | apply Keeps.pair' | apply Keeps.upd_swf

theorem execTimerMatch_kept {k : Kept} (c : BitVec 8) (s : State) (hk : State.Keeps k s) (hm : k.Allows [.clk])
    :
    State.KeepsOut k (execTimerMatch c s) := by
  unfold execTimerMatch
  with_reducible repeat' first
    | exact hk | assumption | exact hm.regs (by decide) | exact hm.sub (by decide) | extract_lets |
      apply Keeps.next | exact Keeps.fault | split | apply State.advanceTo_kept

theorem execTaskGrant_kept {k : Kept} (pool : BitVec 12) (s : State) (hk : State.Keeps k s) (hm : k.Allows
    [.CAP, .HIF, .RAS, .SEC, .SGC, .SWF, .cap, .coll, .cores, .free, .out, .ras, .swf, .tenants]) :
    State.KeepsOut k (execTaskGrant pool s) := by
  unfold execTaskGrant
  with_reducible repeat' first
    | exact hk | assumption | exact hm.regs (by decide) | exact hm.sub (by decide) | exact hm.one (by decide) |
      (intro _) | extract_lets | apply Keeps.next | exact Keeps.fault | split | apply State.deliverCore_kept |
      apply State.setTask_kept | apply State.swfTrace_kept | apply State.send_kept | apply State.hostWrite_kept |
      apply State.ok_kept | apply swfNext_kept | apply State.countReady_kept |
      (refine Keeps.fst (by assumption) ?_) | (refine Keeps.snd (by assumption) ?_) | (dsimp -zeta only) |
      apply Keeps.of_fst | apply Keeps.of_snd | apply Keeps.pair | apply Keeps.pair' | apply Keeps.upd_swf

theorem execCoreFailure_kept {k : Kept} (c : BitVec 8) (datapath : Bool) (s : State) (hk : State.Keeps k s) (hm
    : k.Allows [.RAS, .SGC, .cores, .ras, .swf]) :
    State.KeepsOut k (execCoreFailure c datapath s) := by
  unfold execCoreFailure
  with_reducible repeat' first
    | exact hk | assumption | exact hm.regs (by decide) | exact hm.sub (by decide) | apply Keeps.next |
      exact Keeps.fault | split | apply State.failCore_kept

theorem execCoreNoProgressTimeout_kept {k : Kept} (c : BitVec 8) (s : State) (hk : State.Keeps k s) (hm :
    k.Allows [.RAS, .SGC, .cores, .ras, .swf]) :
    State.KeepsOut k (execCoreNoProgressTimeout c s) := by
  unfold execCoreNoProgressTimeout
  with_reducible repeat' first
    | exact hk | assumption | exact hm.regs (by decide) | exact hm.sub (by decide) | extract_lets |
      apply Keeps.next | exact Keeps.fault | split | apply State.failCore_kept

end Sys2Proof.Machine
end

