-- ==== Sys2Proof/Laws/RunsReading.lean ====
section
/-! SUPPORT. Laws/RunsReading.lean: the meanings of Machine/Reading.lean keep what Laws/Keeps.lean says. -/
set_option Elab.async false  -- one proof at a time: the package as one text then needs less memory
namespace Sys2Proof.Machine

theorem execLeafRead_kept {k : Kept} (d : Desc) (n : BitVec 16) (q : Word) (i : BitVec 16) (buffer : BitVec 64)
    (tagBad : Bool) (s : State) (hk : State.Keeps k s) (hm : k.Allows [.HIF, .out, .tenants]) :
    State.KeepsOut k (execLeafRead d n q i buffer tagBad s) := by
  unfold execLeafRead
  with_reducible repeat' first
    | exact hk | assumption | exact hm.regs (by decide) | exact hm.sub (by decide) | (intro _) | extract_lets |
      apply Keeps.next | exact Keeps.fault | split | apply State.hostWrite_kept | apply State.complete_kept |
      apply State.ok_kept | apply State.descriptor_kept | (refine Keeps.fst (by assumption) ?_) |
      (refine Keeps.snd (by assumption) ?_) | (dsimp -zeta only) | apply Keeps.of_fst | apply Keeps.of_snd |
      apply Keeps.pair | apply Keeps.pair'

theorem execLeafReadRaw_kept {k : Kept} (d : Desc) (n : BitVec 16) (q : Word) (i : BitVec 16) (buffer : BitVec
    64) (s : State) (hk : State.Keeps k s) (hm : k.Allows [.HIF, .SEC, .out, .tenants]) :
    State.KeepsOut k (execLeafReadRaw d n q i buffer s) := by
  unfold execLeafReadRaw
  with_reducible repeat' first
    | exact hk | assumption | exact hm.regs (by decide) | exact hm.sub (by decide) | (intro _) | extract_lets |
      apply Keeps.next | exact Keeps.fault | split | apply State.when_kept | apply State.fresh_kept |
      apply State.hostWrite_kept | apply State.ok_kept | apply State.descriptor_kept | apply State.blockRaw_kept |
      (refine Keeps.fst (by assumption) ?_) | (refine Keeps.snd (by assumption) ?_) | (dsimp -zeta only) |
      apply Keeps.of_fst | apply Keeps.of_snd | apply Keeps.pair | apply Keeps.pair'

theorem execCollateOpen_kept {k : Kept} (d : Desc) (count flags : BitVec 8) (mask : BitVec 16) (start stop :
    BitVec 64) (ids : List (BitVec 16)) (ring : BitVec 64) (slots : Word) (unit : BitVec 16) (s : State) (hk :
    State.Keeps k s) (hm : k.Allows [.CAP, .HIF, .coll, .out, .tenants]) :
    State.KeepsOut k (execCollateOpen d count flags mask start stop ids ring slots unit s) := by
  unfold execCollateOpen
  with_reducible repeat' first
    | exact hk | assumption | exact hm.regs (by decide) | exact hm.sub (by decide) | exact hm.one (by decide) |
      (intro _) | (dsimp only) | apply Keeps.next | exact Keeps.fault | split | apply State.start_kept |
      apply State.setWord_kept | apply State.put_kept | apply State.setPair_kept | apply State.complete_kept |
      apply State.refuse_kept | apply State.readFailed_kept | apply State.descriptor_kept |
      apply State.showSess_kept | (refine Keeps.fst (by assumption) ?_) | (refine Keeps.snd (by assumption) ?_) |
      apply Keeps.of_fst | apply Keeps.of_snd | apply Keeps.pair | apply Keeps.pair' | apply Keeps.upd_coll

theorem execCollateClose_kept {k : Kept} (d : Desc) (n : BitVec 8) (s : State) (hk : State.Keeps k s) (hm :
    k.Allows [.CAP, .HIF, .coll, .out, .tenants]) :
    State.KeepsOut k (execCollateClose d n s) := by
  unfold execCollateClose
  with_reducible repeat' first
    | exact hk | assumption | exact hm.regs (by decide) | exact hm.sub (by decide) | (intro _) |
      apply Keeps.next | exact Keeps.fault | apply State.ok_kept | apply State.descriptor_kept |
      apply State.endSess_kept | (dsimp -zeta only) | apply Keeps.of_fst | apply Keeps.of_snd | apply Keeps.pair |
      apply Keeps.pair'

theorem execCollateRecord_kept {k : Kept} (n : BitVec 5) (badLeaves : List (BitVec 64)) (badQuires : List Word)
    (s : State) (hk : State.Keeps k s) (hm : k.Allows [.CAP, .HIF, .SGC, .coll, .cores, .out, .tenants]) :
    State.KeepsOut k (execCollateRecord n badLeaves badQuires s) := by
  unfold execCollateRecord
  with_reducible repeat' first
    | exact hk | assumption | exact hm.regs (by decide) | exact hm.sub (by decide) | exact hm.one (by decide) |
      (intro _) | extract_lets | apply Keeps.next | exact Keeps.fault | split | apply State.ev_kept |
      apply State.cnt_kept | apply State.addPair_kept | apply State.when_kept | apply State.showSess_kept |
      apply State.setSess_kept | apply State.endSess_kept | apply State.deliverRec_kept |
      (refine Keeps.fst (by assumption) ?_) | (refine Keeps.snd (by assumption) ?_) | (dsimp -zeta only) |
      apply Keeps.of_fst | apply Keeps.of_snd | apply Keeps.pair | apply Keeps.pair'

theorem execHostTailPoll_kept {k : Kept} (n : BitVec 5) (tail : BitVec 64) (fail : Bool) (s : State) (hk :
    State.Keeps k s) (hm : k.Allows [.CAP, .HIF, .coll, .out, .tenants]) :
    State.KeepsOut k (execHostTailPoll n tail fail s) := by
  unfold execHostTailPoll
  repeat' first
    | with_reducible exact hk
    | with_reducible assumption
    | with_reducible exact hm.regs (by decide)
    | with_reducible exact hm.sub (by decide)
    | (intro _)
    | (extract_lets)
    | with_reducible apply Keeps.next
    | with_reducible exact Keeps.fault
    | (split)
    | with_reducible apply State.dmaError_kept
    | with_reducible apply State.showSess_kept
    | with_reducible apply State.setSess_kept
    | with_reducible apply State.endSess_kept
    | with_reducible refine Keeps.fst (by with_reducible assumption) ?_
    | with_reducible refine Keeps.snd (by with_reducible assumption) ?_
    | (dsimp -zeta only)
    | (simp -zeta only [id_eq])
    | with_reducible apply Keeps.of_fst
    | with_reducible apply Keeps.of_snd
    | with_reducible apply Keeps.foldl
    | with_reducible apply Keeps.foldl_fst
    | with_reducible apply Keeps.pair
    | with_reducible apply Keeps.pair'
    | with_reducible refine Keeps.upd_any hm ?_

theorem execSeekTime_kept {k : Kept} (d : Desc) (n : BitVec 16) (t : BitVec 64) (s : State) (hk : State.Keeps k
    s) (hm : k.Allows [.HIF, .out, .tenants]) :
    State.KeepsOut k (execSeekTime d n t s) := by
  unfold execSeekTime
  with_reducible repeat' first
    | exact hk | assumption | exact hm.regs (by decide) | exact hm.sub (by decide) | (intro _) | extract_lets |
      apply Keeps.next | exact Keeps.fault | split | apply State.ok_kept | apply State.refuse_kept |
      apply State.descriptor_kept | (refine Keeps.fst (by assumption) ?_) |
      (refine Keeps.snd (by assumption) ?_) | (dsimp -zeta only) | apply Keeps.of_fst | apply Keeps.of_snd |
      apply Keeps.pair | apply Keeps.pair'

theorem execRibbonFind_kept {k : Kept} (d : Desc) (n : BitVec 16) (limit : BitVec 16) (code mask : Word) (start
    stop : BitVec 64) (buffer : BitVec 64) (badLeaves : List (BitVec 64)) (badQuires : List Word) (s : State) (hk :
    State.Keeps k s) (hm : k.Allows [.CAP, .HIF, .out, .tenants]) :
    State.KeepsOut k (execRibbonFind d n limit code mask start stop buffer badLeaves badQuires s) := by
  unfold execRibbonFind
  repeat' first
    | with_reducible exact hk
    | with_reducible assumption
    | with_reducible exact hm.regs (by decide)
    | with_reducible exact hm.sub (by decide)
    | with_reducible exact hm.one (by decide)
    | (intro _)
    | (extract_lets)
    | with_reducible apply Keeps.next
    | with_reducible exact Keeps.fault
    | (split)
    | with_reducible apply State.start_kept
    | with_reducible apply State.ev_kept
    | with_reducible apply State.when_kept
    | with_reducible apply State.hostWrite_kept
    | with_reducible apply State.complete_kept
    | with_reducible apply State.descriptor_kept
    | with_reducible refine Keeps.fst (by with_reducible assumption) ?_
    | with_reducible refine Keeps.snd (by with_reducible assumption) ?_
    | (dsimp -zeta only)
    | (simp -zeta only [id_eq])
    | with_reducible apply Keeps.of_fst
    | with_reducible apply Keeps.of_snd
    | with_reducible apply Keeps.foldl
    | with_reducible apply Keeps.foldl_fst
    | with_reducible apply Keeps.pair
    | with_reducible apply Keeps.pair'
    | with_reducible refine Keeps.upd_any hm ?_

theorem execCaptureRelease_kept {k : Kept} (d : Desc) (n : BitVec 16) (s : State) (hk : State.Keeps k s) (hm :
    k.Allows [.CAP, .HIF, .cap, .coll, .out, .tenants]) :
    State.KeepsOut k (execCaptureRelease d n s) := by
  unfold execCaptureRelease
  with_reducible repeat' first
    | exact hk | assumption | exact hm.regs (by decide) | exact hm.sub (by decide) | exact hm.one (by decide) |
      (intro _) | extract_lets | apply Keeps.next | exact Keeps.fault | split | apply State.ok_kept |
      apply State.descriptor_kept | apply State.releaseCapture_kept | (refine Keeps.fst (by assumption) ?_) |
      (refine Keeps.snd (by assumption) ?_) | (dsimp -zeta only) | apply Keeps.of_fst | apply Keeps.of_snd |
      apply Keeps.pair | apply Keeps.pair' | apply Keeps.upd_coll

end Sys2Proof.Machine
end

