-- ==== Sys2Proof/Laws/RunsMemory.lean ====
section
/-! SUPPORT. Laws/RunsMemory.lean: the meanings of Machine/Memory.lean keep what Laws/Keeps.lean says. -/
set_option Elab.async false  -- one proof at a time: the package as one text then needs less memory
namespace Sys2Proof.Machine

theorem execHbmReadError_kept {k : Kept} (q : BitVec 19) (leaf : BitVec 14) (still noSpare : Bool) (second :
    BitVec 4) (s : State) (hk : State.Keeps k s) (hm : k.Allows [.CAP, .MEM, .PWR, .RAS, .cap, .mem, .ras]) :
    State.KeepsOut k (execHbmReadError q leaf still noSpare second s) := by
  unfold execHbmReadError
  with_reducible repeat' first
    | exact hk | assumption | exact hm.regs (by decide) | exact hm.sub (by decide) | exact hm.one (by decide) |
      (intro _) | (dsimp only) | apply Keeps.next | exact Keeps.fault | split | apply State.failStack_kept |
      apply State.breakLeaf_kept | apply State.put_kept | apply State.ev_kept | apply State.cnt_kept |
      apply State.when_kept | apply State.log_kept | (refine Keeps.fst (by assumption) ?_) |
      (refine Keeps.snd (by assumption) ?_) | apply Keeps.of_fst | apply Keeps.of_snd | apply Keeps.pair |
      apply Keeps.pair' | apply Keeps.upd_mem

theorem execHbmStackFailure_kept {k : Kept} (stack : BitVec 4) (cause : BitVec 4) (s : State) (hk : State.Keeps
    k s) (hm : k.Allows [.CAP, .MEM, .PWR, .RAS, .cap, .ras]) :
    State.KeepsOut k (execHbmStackFailure stack cause s) := by
  unfold execHbmStackFailure
  with_reducible repeat' first
    | exact hk | assumption | exact hm.regs (by decide) | exact hm.sub (by decide) | apply Keeps.next |
      exact Keeps.fault | split | apply State.failStack_kept

theorem execHbmRefresh_kept {k : Kept} (stack : BitVec 4) (hot : Bool) (s : State) (hk : State.Keeps k s) (hm :
    k.Allows [.mem]) :
    State.KeepsOut k (execHbmRefresh stack hot s) := by
  unfold execHbmRefresh
  with_reducible repeat' first
    | exact hk | assumption | exact hm.regs (by decide) | exact hm.sub (by decide) | exact hm.one (by decide) |
      (intro _) | extract_lets | apply Keeps.next | exact Keeps.fault | split | (dsimp -zeta only) |
      apply Keeps.of_fst | apply Keeps.of_snd | apply Keeps.pair | apply Keeps.pair' | apply Keeps.upd_mem

theorem execParityScrubRow_kept {k : Kept} (q : BitVec 19) (leaf : BitVec 14) (differs : Bool) (settle : BitVec
    2) (late : Bool) (corrected : BitVec 12) (s : State) (hk : State.Keeps k s) (hm : k.Allows [.MEM, .RAS, .ras]) :
    State.KeepsOut k (execParityScrubRow q leaf differs settle late corrected s) := by
  unfold execParityScrubRow
  with_reducible repeat' first
    | exact hk | assumption | exact hm.regs (by decide) | exact hm.sub (by decide) | exact hm.one (by decide) |
      (intro _) | extract_lets | apply Keeps.next | exact Keeps.fault | split | apply State.copyDiffer_kept |
      apply State.ev_kept | apply State.cnt_kept | apply State.when_kept | apply State.each_kept |
      apply State.log_kept | apply State.settle_kept | (dsimp -zeta only) | apply Keeps.of_fst |
      apply Keeps.of_snd | apply Keeps.pair | apply Keeps.pair'

theorem execDdrRefresh_kept {k : Kept} (c : BitVec 4) (rank : BitVec 5) (s : State) (hk : State.Keeps k s) (hm :
    k.Allows [.mem]) :
    State.KeepsOut k (execDdrRefresh c rank s) := by
  unfold execDdrRefresh
  with_reducible repeat' first
    | exact hk | assumption | exact hm.regs (by decide) | exact hm.sub (by decide) | exact hm.one (by decide) |
      extract_lets | apply Keeps.next | exact Keeps.fault | apply Keeps.upd_mem

theorem execDdrRefreshRatePoll_kept {k : Kept} (c : BitVec 4) (rank : BitVec 5) (double : Bool) (s : State) (hk
    : State.Keeps k s) (hm : k.Allows [.mem]) :
    State.KeepsOut k (execDdrRefreshRatePoll c rank double s) := by
  unfold execDdrRefreshRatePoll
  with_reducible repeat' first
    | exact hk | assumption | exact hm.regs (by decide) | exact hm.sub (by decide) | exact hm.one (by decide) |
      (intro _) | extract_lets | apply Keeps.next | exact Keeps.fault | split | (dsimp -zeta only) |
      apply Keeps.of_fst | apply Keeps.of_snd | apply Keeps.pair | apply Keeps.pair' | apply Keeps.upd_mem

theorem execDdrUeBurst_kept {k : Kept} (q : BitVec 19) (leaf : BitVec 14) (second : Bool) (leaves : Word) (s :
    State) (hk : State.Keeps k s) (hm : k.Allows [.CAP, .MEM, .PWR, .RAS, .cap, .mem, .ras]) :
    State.KeepsOut k (execDdrUeBurst q leaf second leaves s) := by
  unfold execDdrUeBurst
  with_reducible repeat' first
    | exact hk | assumption | exact hm.regs (by decide) | exact hm.sub (by decide) | exact hm.one (by decide) |
      (intro _) | extract_lets | apply Keeps.next | exact Keeps.fault | split | apply State.loseAll_kept |
      apply State.retireRank_kept | apply State.ev_kept | apply State.cnt_kept | apply State.when_kept |
      (refine Keeps.fst (by assumption) ?_) | (refine Keeps.snd (by assumption) ?_) | (dsimp -zeta only) |
      apply Keeps.of_fst | apply Keeps.of_snd | apply Keeps.pair | apply Keeps.pair' | apply Keeps.upd_mem

theorem execDdrRankRetire_kept {k : Kept} (c : BitVec 4) (rank : BitVec 5) (reason : BitVec 2) (leaves : Word)
    (s : State) (hk : State.Keeps k s) (hm : k.Allows [.CAP, .MEM, .PWR, .RAS, .cap, .mem, .ras]) :
    State.KeepsOut k (execDdrRankRetire c rank reason leaves s) := by
  unfold execDdrRankRetire
  with_reducible repeat' first
    | exact hk | assumption | exact hm.regs (by decide) | exact hm.sub (by decide) | apply Keeps.next |
      exact Keeps.fault | apply State.retireRank_kept

theorem execDdrMigrateDone_kept {k : Kept} (c : BitVec 4) (s : State) (hk : State.Keeps k s) (hm : k.Allows
    [.MEM, .PWR, .RAS, .mem, .ras]) :
    State.KeepsOut k (execDdrMigrateDone c s) := by
  unfold execDdrMigrateDone
  with_reducible repeat' first
    | exact hk | assumption | exact hm.regs (by decide) | exact hm.sub (by decide) | exact hm.one (by decide) |
      (intro _) | extract_lets | apply Keeps.next | exact Keeps.fault | split | apply State.recast_kept |
      apply State.put_kept | apply State.ev_kept | apply State.clr_kept | apply State.log_kept |
      (dsimp -zeta only) | apply Keeps.of_fst | apply Keeps.of_snd | apply Keeps.pair | apply Keeps.pair' |
      apply Keeps.upd_mem

theorem execDdrRehomeDone_kept {k : Kept} (second : Bool) (s : State) (hk : State.Keeps k s) (hm : k.Allows
    [.CAP, .MEM, .PWR, .RAS, .cap, .free, .ras]) :
    State.KeepsOut k (execDdrRehomeDone second s) := by
  unfold execDdrRehomeDone
  with_reducible repeat' first
    | exact hk | assumption | exact hm.regs (by decide) | exact hm.sub (by decide) | exact hm.one (by decide) |
      (intro _) | extract_lets | apply Keeps.next | exact Keeps.fault | split | apply State.start_kept |
      apply State.recast_kept | apply State.rehome_kept | apply State.put_kept | apply State.ev_kept |
      apply State.clr_kept | apply State.each_kept | apply State.log_kept | apply State.ok_kept |
      (refine Keeps.fst (by assumption) ?_) | (refine Keeps.snd (by assumption) ?_) | (dsimp -zeta only) |
      apply Keeps.of_fst | apply Keeps.of_snd | apply Keeps.foldl | apply Keeps.foldl_fst | apply Keeps.pair |
      apply Keeps.pair'

theorem execCxlReadFailover_kept {k : Kept} (q : BitVec 19) (leaf : BitVec 14) (late : Bool) (s : State) (hk :
    State.Keeps k s) (hm : k.Allows [.CAP, .MEM, .PWR, .RAS, .cap, .free, .mem, .ras]) :
    State.KeepsOut k (execCxlReadFailover q leaf late s) := by
  unfold execCxlReadFailover
  with_reducible repeat' first
    | exact hk | assumption | exact hm.regs (by decide) | exact hm.sub (by decide) | exact hm.one (by decide) |
      extract_lets | apply Keeps.next | exact Keeps.fault | split | apply State.failExpander_kept |
      apply State.cnt_kept | (refine Keeps.fst (by assumption) ?_) | (refine Keeps.snd (by assumption) ?_) |
      (dsimp -zeta only) | apply Keeps.of_fst | apply Keeps.of_snd | apply Keeps.pair | apply Keeps.pair' |
      apply Keeps.upd_mem

theorem execCxlExpanderFailure_kept {k : Kept} (port : BitVec 2) (cause : BitVec 4) (s : State) (hk :
    State.Keeps k s) (hm : k.Allows [.CAP, .MEM, .PWR, .RAS, .cap, .free, .ras]) :
    State.KeepsOut k (execCxlExpanderFailure port cause s) := by
  unfold execCxlExpanderFailure
  with_reducible repeat' first
    | exact hk | assumption | exact hm.regs (by decide) | exact hm.sub (by decide) | apply Keeps.next |
      exact Keeps.fault | split | apply State.failExpander_kept

theorem execCxlResilverDone_kept {k : Kept} (port : BitVec 2) (s : State) (hk : State.Keeps k s) (hm : k.Allows
    [.MEM, .PWR, .RAS, .ras]) :
    State.KeepsOut k (execCxlResilverDone port s) := by
  unfold execCxlResilverDone
  with_reducible repeat' first
    | exact hk | assumption | exact hm.regs (by decide) | exact hm.sub (by decide) | exact hm.one (by decide) |
      extract_lets | apply Keeps.next | exact Keeps.fault | split | apply State.recast_kept |
      apply State.clr_kept | apply State.log_kept

end Sys2Proof.Machine
end

