-- ==== Sys2Proof/Laws/RunsDma.lean ====
section
/-! SUPPORT. Laws/RunsDma.lean: the meanings of Machine/Dma.lean keep what Laws/Keeps.lean says. -/
set_option Elab.async false  -- one proof at a time: the package as one text then needs less memory
namespace Sys2Proof.Machine

theorem execDmaLeaf_kept {k : Kept} (c : BitVec 8) (tagBad : Bool) (waits : Word) (s : State) (hk : State.Keeps
    k s) (hm : k.Allows [.SGC, .cores]) :
    State.KeepsOut k (execDmaLeaf c tagBad waits s) := by
  unfold execDmaLeaf
  with_reducible repeat' first
    | exact hk | assumption | exact hm.regs (by decide) | exact hm.sub (by decide) | (intro _) | extract_lets |
      apply Keeps.next | exact Keeps.fault | split | apply State.setCore_kept | apply State.dmaRun_kept |
      (refine Keeps.fst (by assumption) ?_) | (refine Keeps.snd (by assumption) ?_) | (dsimp -zeta only) |
      apply Keeps.of_fst | apply Keeps.of_snd | apply Keeps.pair | apply Keeps.pair'

theorem execDmaRawLeaf_kept {k : Kept} (c : BitVec 8) (waits : Word) (s : State) (hk : State.Keeps k s) (hm :
    k.Allows [.SEC, .SGC, .cores]) :
    State.KeepsOut k (execDmaRawLeaf c waits s) := by
  unfold execDmaRawLeaf
  with_reducible repeat' first
    | exact hk | assumption | exact hm.regs (by decide) | exact hm.sub (by decide) | (intro _) | extract_lets |
      apply Keeps.next | exact Keeps.fault | split | apply State.setCore_kept | apply State.dmaRun_kept |
      apply State.when_kept | apply State.blockRaw_kept | (refine Keeps.fst (by assumption) ?_) |
      (refine Keeps.snd (by assumption) ?_) | (dsimp -zeta only) | apply Keeps.of_fst | apply Keeps.of_snd |
      apply Keeps.pair | apply Keeps.pair'

theorem execDmaSectionRead_kept {k : Kept} (c : BitVec 8) (data : List Word) (rsp : BitVec 4) (waits : Word) (s
    : State) (hk : State.Keeps k s) (hm : k.Allows [.SGC, .cores, .out]) :
    State.KeepsOut k (execDmaSectionRead c data rsp waits s) := by
  unfold execDmaSectionRead
  with_reducible repeat' first
    | exact hk | assumption | exact hm.regs (by decide) | exact hm.sub (by decide) | (intro _) | extract_lets |
      apply Keeps.next | exact Keeps.fault | split | apply State.setCore_kept | apply State.dmaRun_kept |
      apply State.send_kept | (refine Keeps.fst (by assumption) ?_) | (refine Keeps.snd (by assumption) ?_) |
      (dsimp -zeta only) | apply Keeps.of_fst | apply Keeps.of_snd | apply Keeps.pair | apply Keeps.pair'

theorem execDmaSectionWrite_kept {k : Kept} (c : BitVec 8) (ue : Bool) (rsp : BitVec 4) (waits : Word) (s :
    State) (hk : State.Keeps k s) (hm : k.Allows [.SGC, .cores, .out]) :
    State.KeepsOut k (execDmaSectionWrite c ue rsp waits s) := by
  unfold execDmaSectionWrite
  with_reducible repeat' first
    | exact hk | assumption | exact hm.regs (by decide) | exact hm.sub (by decide) | exact hm.one (by decide) |
      (intro _) | extract_lets | apply Keeps.next | exact Keeps.fault | split | apply State.dmaRun_kept |
      apply State.ev_kept | apply State.windowWrite_kept | (refine Keeps.fst (by assumption) ?_) |
      (refine Keeps.snd (by assumption) ?_) | (dsimp -zeta only) | apply Keeps.of_fst | apply Keeps.of_snd |
      apply Keeps.pair | apply Keeps.pair'

theorem execDmaCoreCopy_kept {k : Kept} (c : BitVec 8) (ue : Bool) (waits : Word) (s : State) (hk : State.Keeps
    k s) (hm : k.Allows [.SGC, .cores]) :
    State.KeepsOut k (execDmaCoreCopy c ue waits s) := by
  unfold execDmaCoreCopy
  with_reducible repeat' first
    | exact hk | assumption | exact hm.regs (by decide) | exact hm.sub (by decide) | exact hm.one (by decide) |
      (intro _) | extract_lets | apply Keeps.next | exact Keeps.fault | split | apply State.setCore_kept |
      apply State.dmaRun_kept | apply State.ev_kept | (refine Keeps.fst (by assumption) ?_) |
      (refine Keeps.snd (by assumption) ?_) | (dsimp -zeta only) | apply Keeps.of_fst | apply Keeps.of_snd |
      apply Keeps.pair | apply Keeps.pair'

theorem execDmaTokenWrite_kept {k : Kept} (c : BitVec 8) (ue : Bool) (waits : Word) (s : State) (hk :
    State.Keeps k s) (hm : k.Allows [.CAP, .HIF, .RAS, .SEC, .SGC, .SWF, .cap, .coll, .cores, .free, .out, .ras,
    .swf, .tenants]) :
    State.KeepsOut k (execDmaTokenWrite c ue waits s) := by
  unfold execDmaTokenWrite
  with_reducible repeat' first
    | exact hk | assumption | exact hm.regs (by decide) | exact hm.sub (by decide) | exact hm.one (by decide) |
      (intro _) | extract_lets | apply Keeps.next | exact Keeps.fault | split | apply State.flushTrace_kept |
      apply State.dmaRun_kept | apply State.dqPost_kept | apply State.ev_kept |
      (refine Keeps.fst (by assumption) ?_) | (refine Keeps.snd (by assumption) ?_) | (dsimp -zeta only) |
      apply Keeps.of_fst | apply Keeps.of_snd | apply Keeps.pair | apply Keeps.pair'

theorem execDmaComplete_kept {k : Kept} (c : BitVec 8) (s : State) (hk : State.Keeps k s) (hm : k.Allows [.SGC,
    .cores]) :
    State.KeepsOut k (execDmaComplete c s) := by
  unfold execDmaComplete
  with_reducible repeat' first
    | exact hk | assumption | exact hm.regs (by decide) | exact hm.sub (by decide) | extract_lets |
      apply Keeps.next | exact Keeps.fault | split | apply State.setCore_kept | apply State.raiseCore_kept |
      apply State.dmaEnd_kept | apply State.setWord_kept | (refine Keeps.fst (by assumption) ?_) |
      (refine Keeps.snd (by assumption) ?_) | (dsimp -zeta only) | apply Keeps.of_fst | apply Keeps.of_snd |
      apply Keeps.pair | apply Keeps.pair'

end Sys2Proof.Machine
end

