-- ==== Sys2Proof/Laws/RunsNoc.lean ====
section
/-! SUPPORT. Laws/RunsNoc.lean: the meanings of Machine/Noc.lean keep what Laws/Keeps.lean says. -/
set_option Elab.async false  -- one proof at a time: the package as one text then needs less memory
namespace Sys2Proof.Machine

theorem execNocRead_kept {k : Kept} (p : PktArg) (s : State) (hk : State.Keeps k s) (hm : k.Allows [.BRY, .CAP,
    .FAB, .HIF, .NOC, .RAS, .SEC, .SWF, .bry, .cap, .coll, .free, .out, .ras, .swf, .tenants]) :
    State.KeepsOut k (execNocRead p s) := by
  unfold execNocRead
  with_reducible repeat' first
    | exact hk | assumption | exact hm.regs (by decide) | exact hm.sub (by decide) | apply Keeps.next |
      exact Keeps.fault | apply State.nocArrive_kept

theorem execNocWrite_kept {k : Kept} (p : PktArg) (s : State) (hk : State.Keeps k s) (hm : k.Allows [.BRY, .CAP,
    .FAB, .HIF, .NOC, .RAS, .SEC, .SWF, .bry, .cap, .coll, .free, .out, .ras, .swf, .tenants]) :
    State.KeepsOut k (execNocWrite p s) := by
  unfold execNocWrite
  with_reducible repeat' first
    | exact hk | assumption | exact hm.regs (by decide) | exact hm.sub (by decide) | apply Keeps.next |
      exact Keeps.fault | apply State.nocArrive_kept

theorem execNocToken_kept {k : Kept} (p : PktArg) (source : BitVec 16) (s : State) (hk : State.Keeps k s) (hm :
    k.Allows [.BRY, .CAP, .FAB, .HIF, .NOC, .RAS, .SEC, .SWF, .bry, .cap, .coll, .free, .out, .ras, .swf, .tenants])
    :
    State.KeepsOut k (execNocToken p source s) := by
  unfold execNocToken
  with_reducible repeat' first
    | exact hk | assumption | exact hm.regs (by decide) | exact hm.sub (by decide) | apply Keeps.next |
      exact Keeps.fault | apply State.flushTrace_kept | apply State.nocArrive_kept

theorem execNocReadRsp_kept {k : Kept} (p : PktArg) (s : State) (hk : State.Keeps k s) (hm : k.Allows [.BRY,
    .CAP, .FAB, .HIF, .NOC, .RAS, .SEC, .SWF, .bry, .cap, .coll, .free, .out, .ras, .swf, .tenants]) :
    State.KeepsOut k (execNocReadRsp p s) := by
  unfold execNocReadRsp
  with_reducible repeat' first
    | exact hk | assumption | exact hm.regs (by decide) | exact hm.sub (by decide) | apply Keeps.next |
      exact Keeps.fault | apply State.nocArrive_kept

theorem execNocWriteAck_kept {k : Kept} (p : PktArg) (s : State) (hk : State.Keeps k s) (hm : k.Allows [.BRY,
    .CAP, .FAB, .HIF, .NOC, .RAS, .SEC, .SWF, .bry, .cap, .coll, .free, .out, .ras, .swf, .tenants]) :
    State.KeepsOut k (execNocWriteAck p s) := by
  unfold execNocWriteAck
  with_reducible repeat' first
    | exact hk | assumption | exact hm.regs (by decide) | exact hm.sub (by decide) | apply Keeps.next |
      exact Keeps.fault | apply State.nocArrive_kept

theorem execNocMgtRead_kept {k : Kept} (p : PktArg) (s : State) (hk : State.Keeps k s) (hm : k.Allows [.BRY,
    .CAP, .FAB, .HIF, .NOC, .RAS, .SEC, .SWF, .bry, .cap, .coll, .free, .out, .ras, .swf, .tenants]) :
    State.KeepsOut k (execNocMgtRead p s) := by
  unfold execNocMgtRead
  with_reducible repeat' first
    | exact hk | assumption | exact hm.regs (by decide) | exact hm.sub (by decide) | apply Keeps.next |
      exact Keeps.fault | apply State.nocArrive_kept

theorem execNocMgtWrite_kept {k : Kept} (p : PktArg) (s : State) (hk : State.Keeps k s) (hm : k.Allows [.BRY,
    .CAP, .FAB, .HIF, .NOC, .RAS, .SEC, .SWF, .bry, .cap, .coll, .free, .out, .ras, .swf, .tenants]) :
    State.KeepsOut k (execNocMgtWrite p s) := by
  unfold execNocMgtWrite
  with_reducible repeat' first
    | exact hk | assumption | exact hm.regs (by decide) | exact hm.sub (by decide) | apply Keeps.next |
      exact Keeps.fault | apply State.nocArrive_kept

theorem execNocFlitReplay_kept {k : Kept} (s : State) (hk : State.Keeps k s) (hm : k.Allows [.NOC]) :
    State.KeepsOut k (execNocFlitReplay s) := by
  unfold execNocFlitReplay
  with_reducible repeat' first
    | exact hk | assumption | exact hm.regs (by decide) | exact hm.sub (by decide) | exact hm.one (by decide) |
      apply Keeps.next | exact Keeps.fault | apply State.cnt_kept

theorem execNocRingFailure_kept {k : Kept} (ring : BitVec 3) (cause : BitVec 2) (segment : BitVec 6) (s : State)
    (hk : State.Keeps k s) (hm : k.Allows [.NOC, .RAS, .noc, .ras]) :
    State.KeepsOut k (execNocRingFailure ring cause segment s) := by
  unfold execNocRingFailure
  with_reducible repeat' first
    | exact hk | assumption | exact hm.regs (by decide) | exact hm.sub (by decide) | exact hm.one (by decide) |
      extract_lets | apply Keeps.next | exact Keeps.fault | split | apply State.put_kept | apply State.ev_kept |
      apply State.log_kept | apply State.fault_kept | apply Keeps.upd_noc

theorem execNocRerouteDone_kept {k : Kept} (pair : BitVec 2) (s : State) (hk : State.Keeps k s) (hm : k.Allows
    [.noc]) :
    State.KeepsOut k (execNocRerouteDone pair s) := by
  unfold execNocRerouteDone
  with_reducible repeat' first
    | exact hk | assumption | exact hm.regs (by decide) | exact hm.sub (by decide) | exact hm.one (by decide) |
      extract_lets | apply Keeps.next | exact Keeps.fault | apply Keeps.upd_noc

theorem execProbeCfgWrite_kept {k : Kept} (p : Path) (which : BitVec 2) (q : BitVec 5) (v : Word) (s : State)
    (hk : State.Keeps k s) (hm : k.Allows [.BOOT, .CAP, .FAB, .FRM, .GIO, .GLB, .LANE, .NOC, .OBS, .PRS, .SECT,
    .SGC, .SWF]) :
    State.KeepsOut k (execProbeCfgWrite p which q v s) := by
  unfold execProbeCfgWrite
  with_reducible repeat' first
    | exact hk | assumption | exact hm.regs (by decide) | exact hm.sub (by decide) | apply Keeps.next |
      exact Keeps.fault | apply State.writeProbe_kept | (dsimp -zeta only) | apply Keeps.of_fst |
      apply Keeps.of_snd

end Sys2Proof.Machine
end

