-- ==== Sys2Proof/Laws/RunsTimebase.lean ====
section
/-! SUPPORT. Laws/RunsTimebase.lean: the meanings of Machine/Timebase.lean keep what Laws/Keeps.lean says. -/
set_option Elab.async false  -- one proof at a time: the package as one text then needs less memory
namespace Sys2Proof.Machine

theorem execTimeSet_kept {k : Kept} (p : Path) (at' : Bool) (s : State) (hk : State.Keeps k s) (hm : k.Allows
    [.BOOT, .CAP, .CLK, .FAB, .FRM, .GIO, .GLB, .LANE, .OBS, .PRS, .SECT, .SGC, .SWF, .bry, .clk, .out]) :
    State.KeepsOut k (execTimeSet p at' s) := by
  unfold execTimeSet
  with_reducible repeat' first
    | exact hk | assumption | exact hm.regs (by decide) | exact hm.sub (by decide) | apply Keeps.next |
      exact Keeps.fault | apply State.writeTimeCmd_kept | (dsimp -zeta only) | apply Keeps.of_fst |
      apply Keeps.of_snd

theorem execTimeStep_kept {k : Kept} (p : Path) (at' : Bool) (s : State) (hk : State.Keeps k s) (hm : k.Allows
    [.BOOT, .CAP, .CLK, .FAB, .FRM, .GIO, .GLB, .LANE, .OBS, .PRS, .SECT, .SGC, .SWF, .bry, .clk, .out]) :
    State.KeepsOut k (execTimeStep p at' s) := by
  unfold execTimeStep
  with_reducible repeat' first
    | exact hk | assumption | exact hm.regs (by decide) | exact hm.sub (by decide) | apply Keeps.next |
      exact Keeps.fault | apply State.writeTimeCmd_kept | (dsimp -zeta only) | apply Keeps.of_fst |
      apply Keeps.of_snd

theorem execTimeCancel_kept {k : Kept} (p : Path) (s : State) (hk : State.Keeps k s) (hm : k.Allows [.BOOT,
    .CAP, .CLK, .FAB, .FRM, .GIO, .GLB, .LANE, .OBS, .PRS, .SECT, .SGC, .SWF, .bry, .clk, .out]) :
    State.KeepsOut k (execTimeCancel p s) := by
  unfold execTimeCancel
  with_reducible repeat' first
    | exact hk | assumption | exact hm.regs (by decide) | exact hm.sub (by decide) | apply Keeps.next |
      exact Keeps.fault | apply State.writeTimeCmd_kept | (dsimp -zeta only) | apply Keeps.of_fst |
      apply Keeps.of_snd

theorem execTimeCmdApply_kept {k : Kept} (s : State) (hk : State.Keeps k s) (hm : k.Allows [.CAP, .CLK, .HIF,
    .RAS, .SEC, .SWF, .cap, .clk, .coll, .free, .out, .ras, .swf, .tenants]) :
    State.KeepsOut k (execTimeCmdApply s) := by
  unfold execTimeCmdApply
  repeat' first
    | with_reducible exact hk
    | with_reducible assumption
    | with_reducible exact hm.regs (by decide)
    | with_reducible exact hm.sub (by decide)
    | (intro _)
    | (extract_lets)
    | with_reducible apply Keeps.next
    | with_reducible exact Keeps.fault
    | (split)
    | with_reducible apply State.advanceTo_kept
    | with_reducible apply State.setTime_kept
    | with_reducible apply State.timeResult_kept
    | with_reducible apply State.timeIdle_kept
    | with_reducible refine Keeps.fst (by with_reducible assumption) ?_
    | with_reducible refine Keeps.snd (by with_reducible assumption) ?_
    | (dsimp -zeta only)
    | (simp -zeta only [id_eq])
    | with_reducible apply Keeps.of_fst
    | with_reducible apply Keeps.of_snd
    | with_reducible apply Keeps.foldl
    | with_reducible apply Keeps.foldl_fst
    | with_reducible apply Keeps.pair
    | with_reducible apply Keeps.pair'
    | with_reducible refine Keeps.upd_any hm ?_

end Sys2Proof.Machine
end

