-- ==== Sys2Proof/Laws/RunsObs.lean ====
section
/-! SUPPORT. Laws/RunsObs.lean: the meanings of Machine/Obs.lean keep what Laws/Keeps.lean says. -/
set_option Elab.async false  -- one proof at a time: the package as one text then needs less memory
namespace Sys2Proof.Machine

theorem execFoliationSchedule_kept {k : Kept} (p : Path) (ring : Bool) (s : State) (hk : State.Keeps k s) (hm :
    k.Allows [.BOOT, .CAP, .FAB, .FRM, .GIO, .GLB, .LANE, .OBS, .PRS, .SECT, .SGC, .SWF, .bry, .obs, .out]) :
    State.KeepsOut k (execFoliationSchedule p ring s) := by
  unfold execFoliationSchedule
  with_reducible repeat' first
    | exact hk | assumption | exact hm.regs (by decide) | exact hm.sub (by decide) | apply Keeps.next |
      exact Keeps.fault | apply State.writeFolCmd_kept | (dsimp -zeta only) | apply Keeps.of_fst |
      apply Keeps.of_snd

theorem execFoliationCancel_kept {k : Kept} (p : Path) (s : State) (hk : State.Keeps k s) (hm : k.Allows [.BOOT,
    .CAP, .FAB, .FRM, .GIO, .GLB, .LANE, .OBS, .PRS, .SECT, .SGC, .SWF, .bry, .obs, .out]) :
    State.KeepsOut k (execFoliationCancel p s) := by
  unfold execFoliationCancel
  with_reducible repeat' first
    | exact hk | assumption | exact hm.regs (by decide) | exact hm.sub (by decide) | apply Keeps.next |
      exact Keeps.fault | apply State.writeFolCmd_kept | (dsimp -zeta only) | apply Keeps.of_fst |
      apply Keeps.of_snd

theorem execFoliationCopy_kept {k : Kept} (s : State) (hk : State.Keeps k s) (hm : k.Allows [.CAP, .HIF, .OBS,
    .RAS, .SEC, .SWF, .cap, .clk, .coll, .free, .obs, .out, .ras, .swf, .tenants]) :
    State.KeepsOut k (execFoliationCopy s) := by
  unfold execFoliationCopy
  with_reducible repeat' first
    | exact hk | assumption | exact hm.regs (by decide) | exact hm.sub (by decide) | extract_lets |
      apply Keeps.next | exact Keeps.fault | split | apply State.folTake_kept | apply State.advanceTo_kept |
      (refine Keeps.fst (by assumption) ?_) | (refine Keeps.snd (by assumption) ?_) | (dsimp -zeta only) |
      apply Keeps.of_fst | apply Keeps.of_snd | apply Keeps.pair | apply Keeps.pair'

theorem execFoliationWritten_kept {k : Kept} (s : State) (hk : State.Keeps k s) (hm : k.Allows [.CAP, .HIF,
    .OBS, .RAS, .SEC, .SWF, .cap, .coll, .free, .obs, .out, .ras, .swf, .tenants]) :
    State.KeepsOut k (execFoliationWritten s) := by
  unfold execFoliationWritten
  with_reducible repeat' first
    | exact hk | assumption | exact hm.regs (by decide) | exact hm.sub (by decide) | exact hm.one (by decide) |
      (intro _) | (dsimp only) | apply Keeps.next | exact Keeps.fault | split | apply State.closeLeaf_kept |
      apply State.deviceWrite_kept | apply State.folResult_kept | apply State.countersStream_kept |
      apply State.put_kept | apply State.ev_kept | apply State.each_kept | (refine Keeps.fst (by assumption) ?_) |
      (refine Keeps.snd (by assumption) ?_) | apply Keeps.of_fst | apply Keeps.of_snd | apply Keeps.pair |
      apply Keeps.pair' | apply Keeps.upd_obs

theorem execShadowRead_kept {k : Kept} (p : Path) (s : State) (hk : State.Keeps k s) (hm : k.Allows [.latch,
    .out]) :
    State.KeepsOut k (execShadowRead p s) := by
  unfold execShadowRead
  with_reducible repeat' first
    | exact hk | assumption | exact hm.regs (by decide) | exact hm.sub (by decide) | extract_lets |
      apply Keeps.next | exact Keeps.fault | split | apply State.readShadow_kept | apply State.send_kept |
      (refine Keeps.fst (by assumption) ?_) | (refine Keeps.snd (by assumption) ?_) | (dsimp -zeta only) |
      apply Keeps.of_fst | apply Keeps.of_snd | apply Keeps.pair | apply Keeps.pair'

end Sys2Proof.Machine
end

