-- ==== Sys2Proof/Laws/RunsBrynust.lean ====
section
/-! SUPPORT. Laws/RunsBrynust.lean: the meanings of Machine/Brynust.lean keep what Laws/Keeps.lean says. -/
set_option Elab.async false  -- one proof at a time: the package as one text then needs less memory
namespace Sys2Proof.Machine

theorem execBryPortTrained_kept {k : Kept} (port : BitVec 2) (ringId : BitVec 16) (size : BitVec 4) (number :
    BitVec 3) (bad : BitVec 8) (encrypted : Bool) (far : BitVec 3) (reach : BitVec 8) (s : State) (hk : State.Keeps
    k s) (hm : k.Allows [.BRY, .CLK, .SEC, .bry, .clk]) :
    State.KeepsOut k (execBryPortTrained port ringId size number bad encrypted far reach s) := by
  unfold execBryPortTrained
  repeat' first
    | with_reducible exact hk
    | with_reducible assumption
    | with_reducible exact hm.regs (by decide)
    | with_reducible exact hm.sub (by decide)
    | with_reducible exact hm.one (by decide)
    | (intro _)
    | (extract_lets)
    | with_reducible apply Keeps.next
    | with_reducible exact Keeps.fault
    | (split)
    | with_reducible apply State.setBryPort_kept
    | with_reducible apply State.setPort_kept
    | with_reducible apply State.setSession_kept
    | with_reducible apply State.ringState_kept
    | with_reducible apply State.put_kept
    | with_reducible apply State.ev_kept
    | with_reducible apply State.cnt_kept
    | with_reducible refine Keeps.fst (by with_reducible assumption) ?_
    | with_reducible refine Keeps.snd (by with_reducible assumption) ?_
    | (dsimp -zeta only)
    | (simp -zeta only [id_eq])
    | with_reducible apply Keeps.of_fst
    | with_reducible apply Keeps.of_snd
    | with_reducible apply Keeps.foldl
    | with_reducible apply Keeps.foldl_fst
    | with_reducible apply Keeps.pair
    | with_reducible apply Keeps.pair'
    | with_reducible refine Keeps.upd_any hm ?_

theorem execBryNoPartnerRetry_kept {k : Kept} (port : BitVec 2) (s : State) (hk : State.Keeps k s) (hm :
    k.Allows [.BRY, .CLK, .bry, .clk]) :
    State.KeepsOut k (execBryNoPartnerRetry port s) := by
  unfold execBryNoPartnerRetry
  with_reducible repeat' first
    | exact hk | assumption | exact hm.regs (by decide) | exact hm.sub (by decide) | extract_lets |
      apply Keeps.next | exact Keeps.fault | split | apply State.setPort_kept | apply State.ringState_kept

theorem execBryPortDown_kept {k : Kept} (port : BitVec 2) (here : Bool) (far : BitVec 3) (reach : BitVec 8) (s :
    State) (hk : State.Keeps k s) (hm : k.Allows [.BRY, .CLK, .SEC, .bry, .clk, .out]) :
    State.KeepsOut k (execBryPortDown port here far reach s) := by
  unfold execBryPortDown
  repeat' first
    | with_reducible exact hk
    | with_reducible assumption
    | with_reducible exact hm.regs (by decide)
    | with_reducible exact hm.sub (by decide)
    | (intro _)
    | (extract_lets)
    | with_reducible apply Keeps.next
    | with_reducible exact Keeps.fault
    | (split)
    | with_reducible apply State.ringState_kept
    | with_reducible apply State.portDown_kept
    | with_reducible refine Keeps.fst (by with_reducible assumption) ?_
    | with_reducible refine Keeps.snd (by with_reducible assumption) ?_
    | (dsimp -zeta only)
    | (simp -zeta only [id_eq])
    | with_reducible apply Keeps.of_fst
    | with_reducible apply Keeps.of_snd
    | with_reducible apply Keeps.foldl
    | with_reducible apply Keeps.foldl_fst
    | with_reducible apply Keeps.pair
    | with_reducible apply Keeps.pair'
    | with_reducible refine Keeps.upd_any hm ?_

theorem execFlitIdle_kept {k : Kept} (f : FlitArg) (s : State) (hk : State.Keeps k s) (hm : k.Allows [.BRY,
    .SEC, .bry, .out]) :
    State.KeepsOut k (execFlitIdle f s) := by
  unfold execFlitIdle
  repeat' first
    | with_reducible exact hk
    | with_reducible assumption
    | with_reducible exact hm.regs (by decide)
    | with_reducible exact hm.sub (by decide)
    | (intro _)
    | (extract_lets)
    | with_reducible apply Keeps.next
    | with_reducible exact Keeps.fault
    | (split)
    | with_reducible apply State.rxFlit_kept
    | with_reducible refine Keeps.fst (by with_reducible assumption) ?_
    | with_reducible refine Keeps.snd (by with_reducible assumption) ?_
    | (dsimp -zeta only)
    | (simp -zeta only [id_eq])
    | with_reducible apply Keeps.of_fst
    | with_reducible apply Keeps.of_snd
    | with_reducible apply Keeps.foldl
    | with_reducible apply Keeps.foldl_fst
    | with_reducible apply Keeps.pair
    | with_reducible apply Keeps.pair'
    | with_reducible refine Keeps.upd_any hm ?_

theorem execFlitNoc_kept {k : Kept} (f : FlitArg) (origin dest : BitVec 3) (vc : BitVec 2) (data : BitVec 512)
    (source : BitVec 16) (s : State) (hk : State.Keeps k s) (hm : k.Allows [.BRY, .CAP, .FAB, .HIF, .NOC, .RAS,
    .SEC, .SWF, .bry, .cap, .coll, .free, .out, .ras, .swf, .tenants]) :
    State.KeepsOut k (execFlitNoc f origin dest vc data source s) := by
  unfold execFlitNoc
  with_reducible repeat' first
    | exact hk | assumption | exact hm.regs (by decide) | exact hm.sub (by decide) | (intro _) | extract_lets |
      apply Keeps.next | exact Keeps.fault | split | apply State.setBryPort_kept | apply State.sendFlit_kept |
      apply State.answerThrough_kept | apply State.ringDeliver_kept | apply State.rxFlit_kept |
      apply State.flushTrace_kept | apply State.respond_kept | (dsimp -zeta only) | apply Keeps.of_fst |
      apply Keeps.of_snd | apply Keeps.pair | apply Keeps.pair'

theorem execFlitNak_kept {k : Kept} (f : FlitArg) (from' : BitVec 12) (s : State) (hk : State.Keeps k s) (hm :
    k.Allows [.BRY, .CLK, .SEC, .bry, .clk, .out]) :
    State.KeepsOut k (execFlitNak f from' s) := by
  unfold execFlitNak
  with_reducible repeat' first
    | exact hk | assumption | exact hm.regs (by decide) | exact hm.sub (by decide) | exact hm.one (by decide) |
      (intro _) | extract_lets | apply Keeps.next | exact Keeps.fault | split | apply State.setBryPort_kept |
      apply State.setPort_kept | apply State.setSession_kept | apply State.ringState_kept |
      apply State.bryDown_kept | apply State.retrain_kept | apply State.rxFlit_kept | apply State.ev_kept |
      apply State.cnt_kept | apply State.when_kept | apply State.each_kept | apply State.send_kept |
      (dsimp -zeta only) | apply Keeps.of_fst | apply Keeps.of_snd | apply Keeps.pair | apply Keeps.pair'

theorem execFlitTrain_kept {k : Kept} (f : FlitArg) (s : State) (hk : State.Keeps k s) (hm : k.Allows [.BRY,
    .CLK, .SEC, .bry, .clk, .out]) :
    State.KeepsOut k (execFlitTrain f s) := by
  unfold execFlitTrain
  with_reducible repeat' first
    | exact hk | assumption | exact hm.regs (by decide) | exact hm.sub (by decide) | (intro _) | extract_lets |
      apply Keeps.next | exact Keeps.fault | split | apply State.setPort_kept | apply State.ringState_kept |
      apply State.retrain_kept | apply State.flitBad_kept | (dsimp -zeta only) | apply Keeps.of_fst |
      apply Keeps.of_snd | apply Keeps.pair | apply Keeps.pair'

theorem execBryRetrainDone_kept {k : Kept} (port : BitVec 2) (s : State) (hk : State.Keeps k s) (hm : k.Allows
    [.BRY, .CLK, .SEC, .bry, .clk, .out]) :
    State.KeepsOut k (execBryRetrainDone port s) := by
  unfold execBryRetrainDone
  repeat' first
    | with_reducible exact hk
    | with_reducible assumption
    | with_reducible exact hm.regs (by decide)
    | with_reducible exact hm.sub (by decide)
    | with_reducible exact hm.one (by decide)
    | (intro _)
    | (extract_lets)
    | with_reducible apply Keeps.next
    | with_reducible exact Keeps.fault
    | (split)
    | with_reducible apply State.setBryPort_kept
    | with_reducible apply State.setPort_kept
    | with_reducible apply State.setSession_kept
    | with_reducible apply State.ringState_kept
    | with_reducible apply State.bryDown_kept
    | with_reducible apply State.ev_kept
    | with_reducible apply State.cnt_kept
    | with_reducible apply State.when_kept
    | with_reducible apply State.each_kept
    | with_reducible apply State.send_kept
    | with_reducible refine Keeps.fst (by with_reducible assumption) ?_
    | with_reducible refine Keeps.snd (by with_reducible assumption) ?_
    | (dsimp -zeta only)
    | (simp -zeta only [id_eq])
    | with_reducible apply Keeps.of_fst
    | with_reducible apply Keeps.of_snd
    | with_reducible apply Keeps.foldl
    | with_reducible apply Keeps.foldl_fst
    | with_reducible apply Keeps.pair
    | with_reducible apply Keeps.pair'
    | with_reducible refine Keeps.upd_any hm ?_

theorem execLinkSessionRollover_kept {k : Kept} (port : BitVec 2) (s : State) (hk : State.Keeps k s) (hm :
    k.Allows [.BRY, .CLK, .SEC, .bry, .clk]) :
    State.KeepsOut k (execLinkSessionRollover port s) := by
  unfold execLinkSessionRollover
  with_reducible repeat' first
    | exact hk | assumption | exact hm.regs (by decide) | exact hm.sub (by decide) | extract_lets |
      apply Keeps.next | exact Keeps.fault | split | apply State.ringState_kept | apply State.retrain_kept

theorem execBryTimeExchange_kept {k : Kept} (s : State) (hk : State.Keeps k s) (hm : k.Allows [.bry, .out]) :
    State.KeepsOut k (execBryTimeExchange s) := by
  unfold execBryTimeExchange
  with_reducible repeat' first
    | exact hk | assumption | exact hm.regs (by decide) | exact hm.sub (by decide) | (intro _) | extract_lets |
      apply Keeps.next | exact Keeps.fault | split | apply State.setBryPort_kept | apply State.sendFlit_kept |
      apply State.each_kept | (dsimp -zeta only) | apply Keeps.of_fst | apply Keeps.of_snd | apply Keeps.pair |
      apply Keeps.pair'

theorem execFlitTime_kept {k : Kept} (f : FlitArg) (t1 t2 t3 t4 : BitVec 64) (d : BitVec 16) (s : State) (hk :
    State.Keeps k s) (hm : k.Allows [.BRY, .CAP, .HIF, .RAS, .SEC, .SWF, .bry, .cap, .clk, .coll, .free, .out, .ras,
    .swf, .tenants]) :
    State.KeepsOut k (execFlitTime f t1 t2 t3 t4 d s) := by
  unfold execFlitTime
  with_reducible repeat' first
    | exact hk | assumption | exact hm.regs (by decide) | exact hm.sub (by decide) | exact hm.one (by decide) |
      (intro _) | extract_lets | apply Keeps.next | exact Keeps.fault | split | apply State.sendFlit_kept |
      apply State.rxFlit_kept | apply State.quot_kept | apply State.offset_kept | apply State.put_kept |
      apply State.when_kept | (refine Keeps.fst (by assumption) ?_) | (refine Keeps.snd (by assumption) ?_) |
      (dsimp -zeta only) | apply Keeps.of_fst | apply Keeps.of_snd | apply Keeps.pair | apply Keeps.pair'

theorem execFlitLine_kept {k : Kept} (f : FlitArg) (origin : BitVec 3) (number : Word) (line : BitVec 5) (e :
    BitVec 64) (s : State) (hk : State.Keeps k s) (hm : k.Allows [.BRY, .GIO, .RAS, .SEC, .bry, .out, .ras, .trig])
    :
    State.KeepsOut k (execFlitLine f origin number line e s) := by
  unfold execFlitLine
  with_reducible repeat' first
    | exact hk | assumption | exact hm.regs (by decide) | exact hm.sub (by decide) | exact hm.one (by decide) |
      (intro _) | extract_lets | apply Keeps.next | exact Keeps.fault | split | apply State.rxFlit_kept |
      apply State.ringFlit_kept | apply State.ev_kept | apply State.cnt_kept | apply State.lineAt_kept |
      (dsimp -zeta only) | apply Keeps.of_fst | apply Keeps.of_snd | apply Keeps.pair | apply Keeps.pair'

theorem execFlitBcast_kept {k : Kept} (f : FlitArg) (origin : BitVec 3) (number : Word) (op : BitVec 2) (value t
    : BitVec 64) (s : State) (hk : State.Keeps k s) (hm : k.Allows [.BRY, .CAP, .HIF, .OBS, .RAS, .SEC, .SWF, .bry,
    .cap, .clk, .coll, .free, .obs, .out, .ras, .swf, .tenants]) :
    State.KeepsOut k (execFlitBcast f origin number op value t s) := by
  unfold execFlitBcast
  with_reducible repeat' first
    | exact hk | assumption | exact hm.regs (by decide) | exact hm.sub (by decide) | (intro _) | extract_lets |
      apply Keeps.next | exact Keeps.fault | split | apply State.rxFlit_kept | apply State.ringFlit_kept |
      apply State.timeReceive_kept | apply State.folReceive_kept | (dsimp -zeta only) | apply Keeps.of_fst |
      apply Keeps.of_snd | apply Keeps.pair | apply Keeps.pair'

theorem execFlitTunnel_kept {k : Kept} (f : FlitArg) (origin dest : BitVec 3) (write : Bool) (addr : BitVec 64)
    (length : BitVec 16) (bytes : List (BitVec 8)) (s : State) (hk : State.Keeps k s) (hm : k.Allows [.BRY, .SEC,
    .bry, .out, .tenants]) :
    State.KeepsOut k (execFlitTunnel f origin dest write addr length bytes s) := by
  unfold execFlitTunnel
  with_reducible repeat' first
    | exact hk | assumption | exact hm.regs (by decide) | exact hm.sub (by decide) | (intro _) | extract_lets |
      apply Keeps.next | exact Keeps.fault | split | apply State.sendFlit_kept | apply State.rxFlit_kept |
      apply State.when_kept | apply State.sendHost_kept | apply State.hostWrite_kept | (dsimp -zeta only) |
      apply Keeps.of_fst | apply Keeps.of_snd | apply Keeps.pair | apply Keeps.pair'

theorem execRmtAccess_kept {k : Kept} (p : Path) (v : Word) (s : State) (hk : State.Keeps k s) (hm : k.Allows
    [.BOOT, .BRY, .CAP, .FAB, .FRM, .GIO, .GLB, .LANE, .OBS, .PRS, .SECT, .SGC, .SWF, .bry]) :
    State.KeepsOut k (execRmtAccess p v s) := by
  unfold execRmtAccess
  with_reducible repeat' first
    | exact hk | assumption | exact hm.regs (by decide) | exact hm.sub (by decide) | apply Keeps.next |
      exact Keeps.fault | apply State.writeRmtCtrl_kept | (dsimp -zeta only) | apply Keeps.of_fst |
      apply Keeps.of_snd

theorem execRmtAccessEnd_kept {k : Kept} (result : BitVec 2) (data : Word) (s : State) (hk : State.Keeps k s)
    (hm : k.Allows [.BRY, .bry]) :
    State.KeepsOut k (execRmtAccessEnd result data s) := by
  unfold execRmtAccessEnd
  with_reducible repeat' first
    | exact hk | assumption | exact hm.regs (by decide) | exact hm.sub (by decide) | exact hm.one (by decide) |
      (intro _) | extract_lets | apply Keeps.next | exact Keeps.fault | split | apply State.rmtEnd_kept |
      apply State.setWord_kept | apply State.when_kept | (dsimp -zeta only) | apply Keeps.of_fst |
      apply Keeps.of_snd | apply Keeps.pair | apply Keeps.pair'

end Sys2Proof.Machine
end

