-- ==== Sys2Proof/Laws/RunsFabric.lean ====
section
/-! SUPPORT. Laws/RunsFabric.lean: the meanings of Machine/Fabric.lean keep what Laws/Keeps.lean says. -/
set_option Elab.async false  -- one proof at a time: the package as one text then needs less memory
namespace Sys2Proof.Machine

theorem execFabricLoad_kept {k : Kept} (d : Desc) (length : Word) (row col : BitVec 8) (auto : Bool) (map :
    BitVec 256) (s : State) (hk : State.Keeps k s) (hm : k.Allows [.FAB, .HIF, .fab, .out, .swf, .tenants]) :
    State.KeepsOut k (execFabricLoad d length row col auto map s) := by
  unfold execFabricLoad
  with_reducible repeat' first
    | exact hk | assumption | exact hm.regs (by decide) | exact hm.sub (by decide) | exact hm.one (by decide) |
      (intro _) | extract_lets | apply Keeps.next | exact Keeps.fault | split | apply State.sectClear_kept |
      apply State.each_kept | apply State.readFailed_kept | apply State.descriptor_kept | (dsimp -zeta only) |
      apply Keeps.of_fst | apply Keeps.of_snd | apply Keeps.pair | apply Keeps.pair' | apply Keeps.upd_fab

theorem execFabricLoadEngineStart_kept {k : Kept} (s : State) (hk : State.Keeps k s) (hm : k.Allows [.fab]) :
    State.KeepsOut k (execFabricLoadEngineStart s) := by
  unfold execFabricLoadEngineStart
  with_reducible repeat' first
    | exact hk | assumption | exact hm.regs (by decide) | exact hm.sub (by decide) | exact hm.one (by decide) |
      extract_lets | apply Keeps.next | exact Keeps.fault | split | (refine Keeps.fst (by assumption) ?_) |
      (refine Keeps.snd (by assumption) ?_) | (dsimp -zeta only) | apply Keeps.of_fst | apply Keeps.of_snd |
      apply Keeps.pair | apply Keeps.pair' | apply Keeps.upd_fab

theorem execFabricLoadDone_kept {k : Kept} (cause : BitVec 8) (image : List SectImage) (s : State) (hk :
    State.Keeps k s) (hm : k.Allows [.FAB, .HIF, .fab, .out, .swf, .tenants]) :
    State.KeepsOut k (execFabricLoadDone cause image s) := by
  unfold execFabricLoadDone
  with_reducible repeat' first
    | exact hk | assumption | exact hm.regs (by decide) | exact hm.sub (by decide) | exact hm.one (by decide) |
      (intro _) | extract_lets | apply Keeps.next | exact Keeps.fault | split | apply State.setSect_kept |
      apply State.sectWrite_kept | apply State.sectClear_kept | apply State.sectRelease_kept |
      apply State.ev_kept | apply State.each_kept | apply State.complete_kept | apply State.ok_kept |
      (refine Keeps.fst (by assumption) ?_) | (refine Keeps.snd (by assumption) ?_) | (dsimp -zeta only) |
      apply Keeps.of_fst | apply Keeps.of_snd | apply Keeps.pair | apply Keeps.pair' | apply Keeps.upd_fab

theorem execFabricRelease_kept {k : Kept} (d : Desc) (sec : BitVec 8) (s : State) (hk : State.Keeps k s) (hm :
    k.Allows [.FAB, .HIF, .fab, .out, .tenants]) :
    State.KeepsOut k (execFabricRelease d sec s) := by
  unfold execFabricRelease
  with_reducible repeat' first
    | exact hk | assumption | exact hm.regs (by decide) | exact hm.sub (by decide) | (intro _) | extract_lets |
      apply Keeps.next | exact Keeps.fault | apply State.sectWait_kept | apply State.sectRelease_kept |
      apply State.descriptor_kept | (dsimp -zeta only) | apply Keeps.of_fst | apply Keeps.of_snd |
      apply Keeps.pair | apply Keeps.pair'

theorem execFabricReleaseDone_kept {k : Kept} (sec : BitVec 8) (s : State) (hk : State.Keeps k s) (hm : k.Allows
    [.FAB, .HIF, .fab, .out, .tenants]) :
    State.KeepsOut k (execFabricReleaseDone sec s) := by
  unfold execFabricReleaseDone
  with_reducible repeat' first
    | exact hk | assumption | exact hm.regs (by decide) | exact hm.sub (by decide) | exact hm.one (by decide) |
      extract_lets | apply Keeps.next | exact Keeps.fault | split | apply State.setSect_kept |
      apply State.sectWake_kept | apply State.ev_kept

theorem execFabricStop_kept {k : Kept} (d : Desc) (sec : BitVec 8) (s : State) (hk : State.Keeps k s) (hm :
    k.Allows [.FAB, .HIF, .fab, .out, .swf, .tenants]) :
    State.KeepsOut k (execFabricStop d sec s) := by
  unfold execFabricStop
  with_reducible repeat' first
    | exact hk | assumption | exact hm.regs (by decide) | exact hm.sub (by decide) | (intro _) | extract_lets |
      apply Keeps.next | exact Keeps.fault | apply State.sectWait_kept | apply State.sectStop_kept |
      apply State.descriptor_kept | (dsimp -zeta only) | apply Keeps.of_fst | apply Keeps.of_snd |
      apply Keeps.pair | apply Keeps.pair'

theorem execFabricStopDone_kept {k : Kept} (sec : BitVec 8) (s : State) (hk : State.Keeps k s) (hm : k.Allows
    [.FAB, .HIF, .fab, .out, .swf, .tenants]) :
    State.KeepsOut k (execFabricStopDone sec s) := by
  unfold execFabricStopDone
  with_reducible repeat' first
    | exact hk | assumption | exact hm.regs (by decide) | exact hm.sub (by decide) | apply Keeps.next |
      exact Keeps.fault | split | apply State.sectStopped_kept

theorem execFabricClear_kept {k : Kept} (d : Desc) (sec : BitVec 8) (s : State) (hk : State.Keeps k s) (hm :
    k.Allows [.FAB, .HIF, .fab, .out, .swf, .tenants]) :
    State.KeepsOut k (execFabricClear d sec s) := by
  unfold execFabricClear
  with_reducible repeat' first
    | exact hk | assumption | exact hm.regs (by decide) | exact hm.sub (by decide) | (intro _) | extract_lets |
      apply Keeps.next | exact Keeps.fault | split | apply State.sectWait_kept | apply State.sectClear_kept |
      apply State.ok_kept | apply State.descriptor_kept | (dsimp -zeta only) | apply Keeps.of_fst |
      apply Keeps.of_snd | apply Keeps.pair | apply Keeps.pair'

theorem execFabricClockEdge_kept {k : Kept} (sec : BitVec 8) (clock : BitVec 4) (falling : Bool) (cells : List
    (BitVec 16 × CellIn)) (slices : List (BitVec 5 × SliceIn)) (s : State) (hk : State.Keeps k s) (hm : k.Allows
    [.fab]) :
    State.KeepsOut k (execFabricClockEdge sec clock falling cells slices s) := by
  unfold execFabricClockEdge
  with_reducible repeat' first
    | exact hk | assumption | exact hm.regs (by decide) | exact hm.sub (by decide) | exact hm.one (by decide) |
      (intro _) | extract_lets | apply Keeps.next | exact Keeps.fault | split | (dsimp -zeta only) |
      apply Keeps.of_fst | apply Keeps.of_snd | apply Keeps.foldl | apply Keeps.foldl_fst | apply Keeps.pair |
      apply Keeps.pair' | apply Keeps.upd_fab

theorem execFabricMemRead_kept {k : Kept} (sec : BitVec 8) (mem : BitVec 7) (portB : Bool) (addr : BitVec 15)
    (strike : BitVec 47) (s : State) (hk : State.Keeps k s) (hm : k.Allows [.FAB, .RAS, .fab, .free, .ras]) :
    State.KeepsOut k (execFabricMemRead sec mem portB addr strike s) := by
  unfold execFabricMemRead
  with_reducible repeat' first
    | exact hk | assumption | exact hm.regs (by decide) | exact hm.sub (by decide) | extract_lets |
      apply Keeps.next | exact Keeps.fault | split | apply State.setMem_kept | apply State.setRead_kept |
      apply State.secded_kept | apply State.memCe_kept | apply State.memUe_kept | apply State.fresh_kept |
      (refine Keeps.fst (by assumption) ?_) | (refine Keeps.snd (by assumption) ?_) | (dsimp -zeta only) |
      apply Keeps.of_fst | apply Keeps.of_snd | apply Keeps.pair | apply Keeps.pair'

theorem execBlockMemoryWrite_kept {k : Kept} (w : MemWrite) (s : State) (hk : State.Keeps k s) (hm : k.Allows
    [.FAB, .fab, .free]) :
    State.KeepsOut k (execBlockMemoryWrite w s) := by
  unfold execBlockMemoryWrite
  repeat' first
    | with_reducible exact hk
    | with_reducible assumption
    | with_reducible exact hm.regs (by decide)
    | with_reducible exact hm.sub (by decide)
    | with_reducible exact hm.one (by decide)
    | (intro _)
    | (extract_lets)
    | with_reducible apply Keeps.next
    | with_reducible exact Keeps.fault
    | (split)
    | with_reducible apply State.setMem_kept
    | with_reducible apply State.setRead_kept
    | with_reducible apply State.put_kept
    | with_reducible apply State.ev_kept
    | with_reducible apply State.when_kept
    | with_reducible apply State.fresh_kept
    | with_reducible refine Keeps.fst (by with_reducible assumption) ?_
    | with_reducible refine Keeps.snd (by with_reducible assumption) ?_
    | (dsimp -zeta only)
    | (simp -zeta only [id_eq])
    | with_reducible apply Keeps.of_fst
    | with_reducible apply Keeps.of_snd
    | with_reducible apply Keeps.foldl
    | with_reducible apply Keeps.foldl_fst
    | with_reducible apply Keeps.pair
    | with_reducible apply Keeps.pair'
    | with_reducible refine Keeps.upd_any hm ?_

theorem execMemScrubVisit_kept {k : Kept} (sec : BitVec 8) (strikes : List (BitVec 7 × BitVec 47)) (dropped :
    List (BitVec 7)) (s : State) (hk : State.Keeps k s) (hm : k.Allows [.FAB, .RAS, .fab, .free, .ras]) :
    State.KeepsOut k (execMemScrubVisit sec strikes dropped s) := by
  unfold execMemScrubVisit
  with_reducible repeat' first
    | exact hk | assumption | exact hm.regs (by decide) | exact hm.sub (by decide) | exact hm.one (by decide) |
      (intro _) | extract_lets | apply Keeps.next | exact Keeps.fault | split | apply State.setMem_kept |
      apply State.secded_kept | apply State.memCe_kept | apply State.memUe_kept | apply State.each_kept |
      apply State.fresh_kept | (refine Keeps.fst (by assumption) ?_) | (refine Keeps.snd (by assumption) ?_) |
      (dsimp -zeta only) | apply Keeps.of_fst | apply Keeps.of_snd | apply Keeps.pair | apply Keeps.pair' |
      apply Keeps.upd_fab

theorem execMemInject_kept {k : Kept} (p : Path) (sec : BitVec 8) (v : Word) (lost : Bool) (s : State) (hk :
    State.Keeps k s) (hm : k.Allows [.BOOT, .CAP, .FAB, .FRM, .GIO, .GLB, .LANE, .OBS, .PRS, .SECT, .SGC, .SWF,
    .fab]) :
    State.KeepsOut k (execMemInject p sec v lost s) := by
  unfold execMemInject
  with_reducible repeat' first
    | exact hk | assumption | exact hm.regs (by decide) | exact hm.sub (by decide) | apply Keeps.next |
      exact Keeps.fault | apply State.writeMemInject_kept | (dsimp -zeta only) | apply Keeps.of_fst |
      apply Keeps.of_snd

theorem execRclkCtrlWrite_kept {k : Kept} (p : Path) (sec : BitVec 8) (k_ : BitVec 4) (v : Word) (s : State) (hk
    : State.Keeps k s) (hm : k.Allows [.BOOT, .CAP, .FAB, .FRM, .GIO, .GLB, .LANE, .OBS, .PRS, .SECT, .SGC, .SWF,
    .fab]) :
    State.KeepsOut k (execRclkCtrlWrite p sec k_ v s) := by
  unfold execRclkCtrlWrite
  with_reducible repeat' first
    | exact hk | assumption | exact hm.regs (by decide) | exact hm.sub (by decide) | apply Keeps.next |
      exact Keeps.fault | apply State.writeRclk_kept | (dsimp -zeta only) | apply Keeps.of_fst |
      apply Keeps.of_snd

theorem execRclkSelChange_kept {k : Kept} (sec : BitVec 8) (k_ : BitVec 4) (level : Bool) (s : State) (hk :
    State.Keeps k s) (hm : k.Allows [.FAB, .fab]) :
    State.KeepsOut k (execRclkSelChange sec k_ level s) := by
  unfold execRclkSelChange
  with_reducible repeat' first
    | exact hk | assumption | exact hm.regs (by decide) | exact hm.sub (by decide) | exact hm.one (by decide) |
      extract_lets | apply Keeps.next | exact Keeps.fault | split | apply State.rclkChange_kept |
      apply Keeps.upd_fab

theorem execRclkChangeDone_kept {k : Kept} (sec : BitVec 8) (k_ : BitVec 4) (s : State) (hk : State.Keeps k s)
    (hm : k.Allows [.FAB, .fab]) :
    State.KeepsOut k (execRclkChangeDone sec k_ s) := by
  unfold execRclkChangeDone
  with_reducible repeat' first
    | exact hk | assumption | exact hm.regs (by decide) | exact hm.sub (by decide) | exact hm.one (by decide) |
      (intro _) | extract_lets | apply Keeps.next | exact Keeps.fault | split | apply State.put_kept |
      (dsimp -zeta only) | apply Keeps.of_fst | apply Keeps.of_snd | apply Keeps.pair | apply Keeps.pair' |
      apply Keeps.upd_fab

end Sys2Proof.Machine
end

