-- ==== Sys2Proof/Laws/RunsRas.lean ====
section
/-! SUPPORT. Laws/RunsRas.lean: the meanings of Machine/Ras.lean keep what Laws/Keeps.lean says. -/
set_option Elab.async false  -- one proof at a time: the package as one text then needs less memory
namespace Sys2Proof.Machine

theorem execMgmtMismatch_kept {k : Kept} (s : State) (hk : State.Keeps k s) (hm : k.Allows [.RAS]) :
    State.KeepsOut k (execMgmtMismatch s) := by
  unfold execMgmtMismatch
  with_reducible repeat' first
    | exact hk | assumption | exact hm.regs (by decide) | exact hm.sub (by decide) | exact hm.one (by decide) |
      apply Keeps.next | exact Keeps.fault | split | apply State.put_kept | apply State.ev_kept |
      apply State.fault_kept

theorem execMgmtSelftestDone_kept {k : Kept} (aPass bPass : Bool) (s : State) (hk : State.Keeps k s) (hm :
    k.Allows [.RAS, .ras]) :
    State.KeepsOut k (execMgmtSelftestDone aPass bPass s) := by
  unfold execMgmtSelftestDone
  with_reducible repeat' first
    | exact hk | assumption | exact hm.regs (by decide) | exact hm.sub (by decide) | exact hm.one (by decide) |
      extract_lets | apply Keeps.next | exact Keeps.fault | split | apply State.put_kept | apply State.log_kept |
      apply State.mgmtFails_kept | apply Keeps.upd_ras

theorem execMgmtSingleFailure_kept {k : Kept} (s : State) (hk : State.Keeps k s) (hm : k.Allows [.RAS, .ras]) :
    State.KeepsOut k (execMgmtSingleFailure s) := by
  unfold execMgmtSingleFailure
  with_reducible repeat' first
    | exact hk | assumption | exact hm.regs (by decide) | exact hm.sub (by decide) | apply Keeps.next |
      exact Keeps.fault | split | apply State.mgmtFails_kept

theorem execLogWrite_kept {k : Kept} (s : State) (hk : State.Keeps k s) (hm : k.Allows [.CAP, .HIF, .OBS, .RAS,
    .SEC, .SWF, .cap, .coll, .free, .out, .ras, .swf, .tenants]) :
    State.KeepsOut k (execLogWrite s) := by
  unfold execLogWrite
  with_reducible repeat' first
    | exact hk | assumption | exact hm.regs (by decide) | exact hm.sub (by decide) | apply Keeps.next |
      exact Keeps.fault | apply State.writeLog_kept

theorem execLogWindowClose_kept {k : Kept} (code unit : BitVec 16) (s : State) (hk : State.Keeps k s) (hm :
    k.Allows [.RAS, .ras]) :
    State.KeepsOut k (execLogWindowClose code unit s) := by
  unfold execLogWindowClose
  with_reducible repeat' first
    | exact hk | assumption | exact hm.regs (by decide) | exact hm.sub (by decide) | exact hm.one (by decide) |
      (intro _) | extract_lets | apply Keeps.next | exact Keeps.fault | split | apply State.ev_kept |
      apply State.when_kept | apply State.log_kept | (refine Keeps.fst (by assumption) ?_) |
      (refine Keeps.snd (by assumption) ?_) | (dsimp -zeta only) | apply Keeps.of_fst | apply Keeps.of_snd |
      apply Keeps.pair | apply Keeps.pair' | apply Keeps.upd_ras

end Sys2Proof.Machine
end

