-- ==== Sys2Proof/Laws/RunsSecurity.lean ====
section
/-! SUPPORT. Laws/RunsSecurity.lean: the meanings of Machine/Security.lean keep what Laws/Keeps.lean says. -/
set_option Elab.async false  -- one proof at a time: the package as one text then needs less memory
namespace Sys2Proof.Machine

theorem execKeyGenerate_kept {k : Kept} (d : Desc) (s : State) (hk : State.Keeps k s) (hm : k.Allows [.HIF,
    .SEC, .free, .out, .sec, .tenants]) :
    State.KeepsOut k (execKeyGenerate d s) := by
  unfold execKeyGenerate
  with_reducible repeat' first
    | exact hk | assumption | exact hm.regs (by decide) | exact hm.sub (by decide) | exact hm.one (by decide) |
      (intro _) | extract_lets | apply Keeps.next | exact Keeps.fault | split | apply State.put_kept |
      apply State.fresh_kept | apply State.ok_kept | apply State.descriptor_kept | apply State.setKey_kept |
      apply State.drbg_kept | (refine Keeps.fst (by assumption) ?_) | (refine Keeps.snd (by assumption) ?_) |
      (dsimp -zeta only) | apply Keeps.of_fst | apply Keeps.of_snd | apply Keeps.pair | apply Keeps.pair'

theorem execKeyImport_kept {k : Kept} (d : Desc) (blob : BitVec 320) (bad : Bool) (s : State) (hk : State.Keeps
    k s) (hm : k.Allows [.HIF, .SEC, .out, .sec, .tenants]) :
    State.KeepsOut k (execKeyImport d blob bad s) := by
  unfold execKeyImport
  with_reducible repeat' first
    | exact hk | assumption | exact hm.regs (by decide) | exact hm.sub (by decide) | exact hm.one (by decide) |
      (intro _) | extract_lets | apply Keeps.next | exact Keeps.fault | split | apply State.put_kept |
      apply State.ok_kept | apply State.descriptor_kept | apply State.setKey_kept |
      (refine Keeps.fst (by assumption) ?_) | (refine Keeps.snd (by assumption) ?_) | (dsimp -zeta only) |
      apply Keeps.of_fst | apply Keeps.of_snd | apply Keeps.pair | apply Keeps.pair'

theorem execKeyImportStaged_kept {k : Kept} (d : Desc) (blob : BitVec 320) (bad : Bool) (s : State) (hk :
    State.Keeps k s) (hm : k.Allows [.HIF, .SEC, .out, .sec, .tenants]) :
    State.KeepsOut k (execKeyImportStaged d blob bad s) := by
  unfold execKeyImportStaged
  repeat' first
    | with_reducible exact hk
    | with_reducible assumption
    | with_reducible exact hm.regs (by decide)
    | with_reducible exact hm.sub (by decide)
    | with_reducible exact hm.one (by decide)
    | (intro _)
    | (extract_lets)
    | with_reducible apply Keeps.next
    | with_reducible exact Keeps.fault
    | (split)
    | with_reducible apply State.put_kept
    | with_reducible apply State.ok_kept
    | with_reducible apply State.descriptor_kept
    | with_reducible apply State.setStaged_kept
    | with_reducible apply State.rekeyQueue_kept
    | with_reducible apply State.setBoundary_kept
    | with_reducible refine Keeps.fst (by with_reducible assumption) ?_
    | with_reducible refine Keeps.snd (by with_reducible assumption) ?_
    | (dsimp -zeta only)
    | (simp -zeta only [id_eq])
    | with_reducible apply Keeps.of_fst
    | with_reducible apply Keeps.of_snd
    | with_reducible apply Keeps.foldl
    | with_reducible apply Keeps.foldl_fst
    | with_reducible apply Keeps.pair
    | with_reducible apply Keeps.pair'
    | with_reducible refine Keeps.upd_any hm ?_

theorem execKeyExport_kept {k : Kept} (d : Desc) (buffer : BitVec 64) (s : State) (hk : State.Keeps k s) (hm :
    k.Allows [.HIF, .out, .tenants]) :
    State.KeepsOut k (execKeyExport d buffer s) := by
  unfold execKeyExport
  with_reducible repeat' first
    | exact hk | assumption | exact hm.regs (by decide) | exact hm.sub (by decide) | (intro _) | extract_lets |
      apply Keeps.next | exact Keeps.fault | apply State.hostWrite_kept | apply State.ok_kept |
      apply State.descriptor_kept | (dsimp -zeta only) | apply Keeps.of_fst | apply Keeps.of_snd |
      apply Keeps.pair | apply Keeps.pair'

theorem execKeyRekey_kept {k : Kept} (d : Desc) (buffer : BitVec 64) (s : State) (hk : State.Keeps k s) (hm :
    k.Allows [.HIF, .SEC, .free, .out, .sec, .tenants]) :
    State.KeepsOut k (execKeyRekey d buffer s) := by
  unfold execKeyRekey
  with_reducible repeat' first
    | exact hk | assumption | exact hm.regs (by decide) | exact hm.sub (by decide) | (intro _) | extract_lets |
      apply Keeps.next | exact Keeps.fault | split | apply State.fresh_kept | apply State.hostWrite_kept |
      apply State.ok_kept | apply State.descriptor_kept | apply State.setStaged_kept |
      apply State.rekeyQueue_kept | apply State.drbg_kept | (refine Keeps.fst (by assumption) ?_) |
      (refine Keeps.snd (by assumption) ?_) | (dsimp -zeta only) | apply Keeps.of_fst | apply Keeps.of_snd |
      apply Keeps.pair | apply Keeps.pair'

theorem execKeyZeroise_kept {k : Kept} (d : Desc) (s : State) (hk : State.Keeps k s) (hm : k.Allows [.CAP, .HIF,
    .PWR, .SEC, .cap, .coll, .colo, .out, .sec, .tenants]) :
    State.KeepsOut k (execKeyZeroise d s) := by
  unfold execKeyZeroise
  with_reducible repeat' first
    | exact hk | assumption | exact hm.regs (by decide) | exact hm.sub (by decide) | (intro _) | extract_lets |
      apply Keeps.next | exact Keeps.fault | apply State.ok_kept | apply State.descriptor_kept |
      apply State.zeroise_kept | (dsimp -zeta only) | apply Keeps.of_fst | apply Keeps.of_snd | apply Keeps.pair |
      apply Keeps.pair'

theorem execDrbgHealthFailure_kept {k : Kept} (s : State) (hk : State.Keeps k s) (hm : k.Allows [.RAS, .SEC,
    .ras]) :
    State.KeepsOut k (execDrbgHealthFailure s) := by
  unfold execDrbgHealthFailure
  with_reducible repeat' first
    | exact hk | assumption | exact hm.regs (by decide) | exact hm.sub (by decide) | exact hm.one (by decide) |
      apply Keeps.next | exact Keeps.fault | apply State.put_kept | apply State.ev_kept | apply State.log_kept

theorem execRekeyEngineTake_kept {k : Kept} (s : State) (hk : State.Keeps k s) (hm : k.Allows [.PWR, .SEC,
    .sec]) :
    State.KeepsOut k (execRekeyEngineTake s) := by
  unfold execRekeyEngineTake
  with_reducible repeat' first
    | exact hk | assumption | exact hm.regs (by decide) | exact hm.sub (by decide) | exact hm.one (by decide) |
      extract_lets | apply Keeps.next | exact Keeps.fault | split | apply State.recast_kept |
      apply State.put_kept | apply State.rekeyQueue_kept | apply State.setBoundary_kept |
      (refine Keeps.fst (by assumption) ?_) | (refine Keeps.snd (by assumption) ?_) | (dsimp -zeta only) |
      apply Keeps.of_fst | apply Keeps.of_snd | apply Keeps.pair | apply Keeps.pair'

theorem execRekeyAdvance_kept {k : Kept} (s : State) (hk : State.Keeps k s) (hm : k.Allows [.PWR, .RAS, .SEC,
    .cap, .colo, .ras, .sec]) :
    State.KeepsOut k (execRekeyAdvance s) := by
  unfold execRekeyAdvance
  with_reducible repeat' first
    | exact hk | assumption | exact hm.regs (by decide) | exact hm.sub (by decide) | exact hm.one (by decide) |
      (intro _) | extract_lets | apply Keeps.next | exact Keeps.fault | split | apply State.setQuire_kept |
      apply State.put_kept | apply State.when_kept | apply State.log_kept | apply State.setBoundary_kept |
      apply State.rekeyDone_kept | apply State.rekeyLeaf_kept | (refine Keeps.fst (by assumption) ?_) |
      (refine Keeps.snd (by assumption) ?_) | (dsimp -zeta only) | apply Keeps.of_fst | apply Keeps.of_snd |
      apply Keeps.pair | apply Keeps.pair' | apply Keeps.upd_colo

theorem execPatternWrite_kept {k : Kept} (d : Desc) (n : BitVec 16) (off : BitVec 64) (data : List (BitVec 8))
    (bad : Bool) (s : State) (hk : State.Keeps k s) (hm : k.Allows [.CAP, .HIF, .RAS, .SEC, .SWF, .cap, .coll,
    .free, .out, .ras, .swf, .tenants]) :
    State.KeepsOut k (execPatternWrite d n off data bad s) := by
  unfold execPatternWrite
  with_reducible repeat' first
    | exact hk | assumption | exact hm.regs (by decide) | exact hm.sub (by decide) | (intro _) | extract_lets |
      apply Keeps.next | exact Keeps.fault | split | apply State.start_kept | apply State.complete_kept |
      apply State.readFailed_kept | apply State.descriptor_kept | apply State.patPiece_kept |
      (refine Keeps.fst (by assumption) ?_) | (refine Keeps.snd (by assumption) ?_) | (dsimp -zeta only) |
      apply Keeps.of_fst | apply Keeps.of_snd | apply Keeps.foldl | apply Keeps.foldl_fst | apply Keeps.pair |
      apply Keeps.pair'

theorem execSecLock_kept {k : Kept} (p : Path) (v : Word) (s : State) (hk : State.Keeps k s) (hm : k.Allows
    [.BOOT, .CAP, .FAB, .FRM, .GIO, .GLB, .LANE, .OBS, .PRS, .SEC, .SECT, .SGC, .SWF]) :
    State.KeepsOut k (execSecLock p v s) := by
  unfold execSecLock
  with_reducible repeat' first
    | exact hk | assumption | exact hm.regs (by decide) | exact hm.sub (by decide) | apply Keeps.next |
      exact Keeps.fault | apply State.writeSecCtrl_kept | (dsimp -zeta only) | apply Keeps.of_fst |
      apply Keeps.of_snd

end Sys2Proof.Machine
end

