-- ==== Sys2Proof/Laws/RunsPower.lean ====
section
/-! SUPPORT. Laws/RunsPower.lean: the meanings of Machine/Power.lean keep what Laws/Keeps.lean says. -/
set_option Elab.async false  -- one proof at a time: the package as one text then needs less memory
namespace Sys2Proof.Machine

theorem execDomainFenceEnd_kept {k : Kept} (n : BitVec 9) (s : State) (hk : State.Keeps k s) (hm : k.Allows
    [.BRY, .CAP, .CLK, .FAB, .HIF, .LANE, .NOC, .PRS, .PWR, .RAS, .SEC, .SECT, .SWF, .bry, .cap, .clk, .coll, .fab,
    .free, .lanes, .noc, .out, .press, .ras, .swf, .tenants, .trig]) :
    State.KeepsOut k (execDomainFenceEnd n s) := by
  unfold execDomainFenceEnd
  with_reducible repeat' first
    | exact hk | assumption | exact hm.regs (by decide) | exact hm.sub (by decide) | exact hm.one (by decide) |
      extract_lets | apply Keeps.next | exact Keeps.fault | split | apply State.put_kept |
      apply State.fenceEnd_kept

theorem execDomainStateReached_kept {k : Kept} (n : BitVec 9) (s : State) (hk : State.Keeps k s) (hm : k.All) :
    State.KeepsOut k (execDomainStateReached n s) := by
  unfold execDomainStateReached
  with_reducible repeat' first
    | exact hk | assumption | exact hm.regs | exact hm.one _ | exact hm.sub | extract_lets | apply Keeps.next |
      exact Keeps.fault | split | apply State.domSettle_kept | (refine Keeps.all_plain hm ?_)

theorem execVoteWithdrawal_kept {k : Kept} (t : BitVec 8) (n : BitVec 9) (s : State) (hk : State.Keeps k s) (hm
    : k.Allows [.FAB, .HIF, .PWR, .out, .pwr, .swf, .tenants]) :
    State.KeepsOut k (execVoteWithdrawal t n s) := by
  unfold execVoteWithdrawal
  with_reducible repeat' first
    | exact hk | assumption | exact hm.regs (by decide) | exact hm.sub (by decide) | apply Keeps.next |
      exact Keeps.fault | split | apply State.voteGone_kept

theorem execDeferredLowering_kept {k : Kept} (n : BitVec 9) (s : State) (hk : State.Keeps k s) (hm : k.Allows
    [.FAB, .HIF, .PWR, .out, .pwr, .swf, .tenants]) :
    State.KeepsOut k (execDeferredLowering n s) := by
  unfold execDeferredLowering
  with_reducible repeat' first
    | exact hk | assumption | exact hm.regs (by decide) | exact hm.sub (by decide) | exact hm.one (by decide) |
      extract_lets | apply Keeps.next | exact Keeps.fault | split | apply State.clr_kept |
      apply State.drive_kept

theorem execClockGate_kept {k : Kept} (n : BitVec 9) (s : State) (hk : State.Keeps k s) (hm : k.Allows [.pwr]) :
    State.KeepsOut k (execClockGate n s) := by
  unfold execClockGate
  with_reducible repeat' first
    | exact hk | assumption | exact hm.regs (by decide) | exact hm.sub (by decide) | exact hm.one (by decide) |
      extract_lets | apply Keeps.next | exact Keeps.fault | split | apply Keeps.upd_pwr

theorem execIdleEntry_kept {k : Kept} (s : State) (hk : State.Keeps k s) (hm : k.Allows [.PWR]) :
    State.KeepsOut k (execIdleEntry s) := by
  unfold execIdleEntry
  with_reducible repeat' first
    | exact hk | assumption | exact hm.regs (by decide) | exact hm.sub (by decide) | apply Keeps.next |
      exact Keeps.fault | split | apply State.setDev_kept

theorem execIdleExit_kept {k : Kept} (s : State) (hk : State.Keeps k s) (hm : k.Allows [.PWR, .pwr]) :
    State.KeepsOut k (execIdleExit s) := by
  unfold execIdleExit
  with_reducible repeat' first
    | exact hk | assumption | exact hm.regs (by decide) | exact hm.sub (by decide) | exact hm.one (by decide) |
      extract_lets | apply Keeps.next | exact Keeps.fault | split | apply State.setDev_kept |
      apply Keeps.upd_pwr

theorem execSleepRequest_kept {k : Kept} (src : Desc ⊕ (Path × Word)) (s : State) (hk : State.Keeps k s) (hm :
    k.Allows [.BOOT, .CAP, .DBG, .FAB, .FRM, .GIO, .GLB, .HIF, .LANE, .OBS, .PRS, .PWR, .SECT, .SGC, .SWF, .out,
    .pwr, .swf, .tenants]) :
    State.KeepsOut k (execSleepRequest src s) := by
  unfold execSleepRequest
  with_reducible repeat' first
    | exact hk | assumption | exact hm.regs (by decide) | exact hm.sub (by decide) | apply Keeps.next |
      exact Keeps.fault | apply State.devAsk_kept

theorem execDeepSleepRequest_kept {k : Kept} (src : Desc ⊕ (Path × Word)) (s : State) (hk : State.Keeps k s) (hm
    : k.Allows [.BOOT, .CAP, .DBG, .FAB, .FRM, .GIO, .GLB, .HIF, .LANE, .OBS, .PRS, .PWR, .SECT, .SGC, .SWF, .out,
    .pwr, .swf, .tenants]) :
    State.KeepsOut k (execDeepSleepRequest src s) := by
  unfold execDeepSleepRequest
  with_reducible repeat' first
    | exact hk | assumption | exact hm.regs (by decide) | exact hm.sub (by decide) | apply Keeps.next |
      exact Keeps.fault | apply State.devAsk_kept

theorem execOffRequest_kept {k : Kept} (src : Desc ⊕ (Path × Word)) (s : State) (hk : State.Keeps k s) (hm :
    k.Allows [.BOOT, .CAP, .DBG, .FAB, .FRM, .GIO, .GLB, .HIF, .LANE, .OBS, .PRS, .PWR, .SECT, .SGC, .SWF, .out,
    .pwr, .swf, .tenants]) :
    State.KeepsOut k (execOffRequest src s) := by
  unfold execOffRequest
  with_reducible repeat' first
    | exact hk | assumption | exact hm.regs (by decide) | exact hm.sub (by decide) | apply Keeps.next |
      exact Keeps.fault | apply State.devAsk_kept

theorem execPowerVote_kept {k : Kept} (src : Desc ⊕ (Path × Word)) (kind : BitVec 8) (index : BitVec 16) (state
    : BitVec 8) (overCap : Bool) (s : State) (hk : State.Keeps k s) (hm : k.Allows [.BOOT, .CAP, .DBG, .FAB, .FRM,
    .GIO, .GLB, .HIF, .LANE, .OBS, .PRS, .PWR, .SECT, .SGC, .SWF, .out, .pwr, .swf, .tenants]) :
    State.KeepsOut k (execPowerVote src kind index state overCap s) := by
  unfold execPowerVote
  with_reducible repeat' first
    | exact hk | assumption | exact hm.regs (by decide) | exact hm.sub (by decide) | (intro _) | (dsimp only) |
      apply Keeps.next | exact Keeps.fault | split | apply State.descriptor_kept | apply State.castVote_kept |
      apply State.devRequest_kept | apply State.writeVoteCmd_kept | (refine Keeps.fst (by assumption) ?_) |
      (refine Keeps.snd (by assumption) ?_) | apply Keeps.of_fst | apply Keeps.of_snd | apply Keeps.pair |
      apply Keeps.pair'

theorem execEntryCommitPoint_kept {k : Kept} (phases : BitVec 6) (s : State) (hk : State.Keeps k s) (hm :
    k.Allows [.BRY, .CAP, .CLK, .FAB, .HIF, .LANE, .NOC, .PRS, .PWR, .RAS, .SEC, .SECT, .SWF, .bry, .cap, .clk,
    .coll, .colo, .fab, .free, .lanes, .noc, .out, .press, .pwr, .ras, .sec, .swf, .tenants, .trig]) :
    State.KeepsOut k (execEntryCommitPoint phases s) := by
  unfold execEntryCommitPoint
  with_reducible repeat' first
    | exact hk | assumption | exact hm.regs (by decide) | exact hm.sub (by decide) | exact hm.one (by decide) |
      (intro _) | extract_lets | apply Keeps.next | exact Keeps.fault | split | apply State.put_kept |
      apply State.each_kept | apply State.fenceEnd_kept | apply State.devResult_kept |
      apply State.offCommit_kept | (refine Keeps.fst (by assumption) ?_) | (refine Keeps.snd (by assumption) ?_) |
      (dsimp -zeta only) | apply Keeps.of_fst | apply Keeps.of_snd | apply Keeps.pair | apply Keeps.pair' |
      apply Keeps.upd_pwr

theorem execExitComplete_kept {k : Kept} (s : State) (hk : State.Keeps k s) (hm : k.All) :
    State.KeepsOut k (execExitComplete s) := by
  unfold execExitComplete
  with_reducible repeat' first
    | exact hk | assumption | exact hm.regs | exact hm.one _ | exact hm.sub | (intro _) | extract_lets |
      apply Keeps.next | exact Keeps.fault | split | apply State.goBack_kept | apply State.put_kept |
      apply State.ev_kept | apply State.clr_kept | apply State.when_kept | apply State.send_kept |
      apply State.setDev_kept | apply State.domsReturn_kept | (dsimp -zeta only) | apply Keeps.of_fst |
      apply Keeps.of_snd | apply Keeps.pair | apply Keeps.pair' | apply Keeps.upd_pwr | apply Keeps.upd_clk |
      (refine Keeps.all_plain hm ?_)

end Sys2Proof.Machine
end

