-- ==== Sys2Proof/Laws/RunsBoot.lean ====
section
/-! SUPPORT. Laws/RunsBoot.lean: the meanings of Machine/Boot.lean keep what Laws/Keeps.lean says. -/
set_option Elab.async false  -- one proof at a time: the package as one text then needs less memory
namespace Sys2Proof.Machine

theorem execStartStepDone_kept {k : Kept} (step : BitVec 5) (r : StepResult) (s : State) (hk : State.Keeps k s)
    (hm : k.All) :
    State.KeepsOut k (execStartStepDone step r s) := by
  unfold execStartStepDone
  with_reducible repeat' first
    | exact hk | assumption | exact hm.regs | exact hm.one _ | exact hm.sub | apply Keeps.next |
      exact Keeps.fault | split | apply State.step01_kept | apply State.step02_kept | apply State.step03_kept |
      apply State.step04_kept | apply State.step05_kept | apply State.step06_kept | apply State.step07_kept |
      apply State.step08_kept | apply State.step09_kept | apply State.step10_kept | apply State.step11_kept |
      apply State.step12_kept | apply State.step13_kept | apply State.step14_kept | apply State.step15_kept |
      apply State.step16_kept | apply State.afterTraining_kept | (refine Keeps.fst (by assumption) ?_) |
      (refine Keeps.snd (by assumption) ?_) | (dsimp -zeta only) | apply Keeps.of_fst | apply Keeps.of_snd |
      apply Keeps.pair | apply Keeps.pair' | (refine Keeps.all_plain hm ?_)

theorem execStepTimeout_kept {k : Kept} (step : BitVec 5) (s : State) (hk : State.Keeps k s) (hm : k.All) :
    State.KeepsOut k (execStepTimeout step s) := by
  unfold execStepTimeout
  with_reducible repeat' first
    | exact hk | assumption | exact hm.regs | exact hm.one _ | exact hm.sub | extract_lets | apply Keeps.next |
      exact Keeps.fault | split | apply State.setStep_kept | apply State.autoRestart_kept |
      (refine Keeps.all_plain hm ?_)

theorem execMgmtWatchdogExpiry_kept {k : Kept} (s : State) (hk : State.Keeps k s) (hm : k.All) :
    State.KeepsOut k (execMgmtWatchdogExpiry s) := by
  unfold execMgmtWatchdogExpiry
  with_reducible repeat' first
    | exact hk | assumption | exact hm.regs | exact hm.one _ | exact hm.sub | apply Keeps.next |
      exact Keeps.fault | split | apply State.autoRestart_kept | (refine Keeps.all_plain hm ?_)

theorem execResetPin_kept {k : Kept} (s : State) (hk : State.Keeps k s) (hm : k.All) :
    State.KeepsOut k (execResetPin s) := by
  unfold execResetPin
  with_reducible repeat' first
    | exact hk | assumption | exact hm.regs | exact hm.one _ | exact hm.sub | apply Keeps.next |
      exact Keeps.fault | split | apply State.start_kept | (refine Keeps.all_plain hm ?_)

theorem execLinkTimeout_kept {k : Kept} (s : State) (hk : State.Keeps k s) (hm : k.Allows [.BOOT, .boot, .colo])
    :
    State.KeepsOut k (execLinkTimeout s) := by
  unfold execLinkTimeout
  with_reducible repeat' first
    | exact hk | assumption | exact hm.regs (by decide) | exact hm.sub (by decide) | exact hm.one (by decide) |
      extract_lets | apply Keeps.next | exact Keeps.fault | split | apply State.setStep_kept |
      apply State.stepOut_kept | apply Keeps.upd_boot

theorem execLinkTrainRetry_kept {k : Kept} (up : Bool) (rate : BitVec 4) (width : BitVec 7) (flit : Bool) (s :
    State) (hk : State.Keeps k s) (hm : k.Allows [.HIF]) :
    State.KeepsOut k (execLinkTrainRetry up rate width flit s) := by
  unfold execLinkTrainRetry
  with_reducible repeat' first
    | exact hk | assumption | exact hm.regs (by decide) | exact hm.sub (by decide) | exact hm.one (by decide) |
      apply Keeps.next | exact Keeps.fault | split | apply State.linkUp_kept | apply State.put_kept

theorem execOwnerRestart_kept {k : Kept} (p : Path) (key : BitVec 16) (s : State) (hk : State.Keeps k s) (hm :
    k.All) :
    State.KeepsOut k (execOwnerRestart p key s) := by
  unfold execOwnerRestart
  with_reducible repeat' first
    | exact hk | assumption | exact hm.regs | exact hm.one _ | exact hm.sub | apply Keeps.next |
      exact Keeps.fault | apply State.writeBootCtrl_kept | (dsimp -zeta only) | apply Keeps.of_fst |
      apply Keeps.of_snd | (refine Keeps.all_plain hm ?_)

theorem execCommitRollback_kept {k : Kept} (p : Path) (s : State) (hk : State.Keeps k s) (hm : k.All) :
    State.KeepsOut k (execCommitRollback p s) := by
  unfold execCommitRollback
  with_reducible repeat' first
    | exact hk | assumption | exact hm.regs | exact hm.one _ | exact hm.sub | apply Keeps.next |
      exact Keeps.fault | apply State.writeBootCtrl_kept | (dsimp -zeta only) | apply Keeps.of_fst |
      apply Keeps.of_snd | (refine Keeps.all_plain hm ?_)

theorem execClearLearned_kept {k : Kept} (p : Path) (s : State) (hk : State.Keeps k s) (hm : k.All) :
    State.KeepsOut k (execClearLearned p s) := by
  unfold execClearLearned
  with_reducible repeat' first
    | exact hk | assumption | exact hm.regs | exact hm.one _ | exact hm.sub | apply Keeps.next |
      exact Keeps.fault | apply State.writeBootCtrl_kept | (dsimp -zeta only) | apply Keeps.of_fst |
      apply Keeps.of_snd | (refine Keeps.all_plain hm ?_)

theorem execImageSelWrite_kept {k : Kept} (p : Path) (v : Word) (s : State) (hk : State.Keeps k s) (hm :
    k.Allows [.BOOT, .CAP, .FAB, .FRM, .GIO, .GLB, .LANE, .OBS, .PRS, .SECT, .SGC, .SWF, .boot, .colo]) :
    State.KeepsOut k (execImageSelWrite p v s) := by
  unfold execImageSelWrite
  with_reducible repeat' first
    | exact hk | assumption | exact hm.regs (by decide) | exact hm.sub (by decide) | apply Keeps.next |
      exact Keeps.fault | apply State.writeImageSel_kept | (dsimp -zeta only) | apply Keeps.of_fst |
      apply Keeps.of_snd

end Sys2Proof.Machine
end

