-- ==== Sys2Proof/Laws/RunsDebugCtl.lean ====
section
/-! SUPPORT. Laws/RunsDebugCtl.lean: the meanings of Machine/DebugCtl.lean keep what Laws/Keeps.lean says. -/
set_option Elab.async false  -- one proof at a time: the package as one text then needs less memory
namespace Sys2Proof.Machine

theorem execHaltTakesEffect_kept {k : Kept} (kind : BitVec 2) (index : BitVec 10) (s : State) (hk : State.Keeps
    k s) (hm : k.Allows [.PRS, .SGC, .cores, .dbg, .press]) :
    State.KeepsOut k (execHaltTakesEffect kind index s) := by
  unfold execHaltTakesEffect
  with_reducible repeat' first
    | exact hk | assumption | exact hm.regs (by decide) | exact hm.sub (by decide) | exact hm.one (by decide) |
      (intro _) | extract_lets | apply Keeps.next | exact Keeps.fault | split | apply State.markHalt_kept |
      apply State.haltCore_kept | apply State.pressFreeze_kept | (refine Keeps.fst (by assumption) ?_) |
      (refine Keeps.snd (by assumption) ?_) | (dsimp -zeta only) | apply Keeps.of_fst | apply Keeps.of_snd |
      apply Keeps.pair | apply Keeps.pair' | apply Keeps.upd_dbg

theorem execHaltEvent_kept {k : Kept} (group : BitVec 3) (s : State) (hk : State.Keeps k s) (hm : k.Allows
    [.DBG, .GIO, .SGC, .bry, .clk, .cores, .dbg, .out, .trig]) :
    State.KeepsOut k (execHaltEvent group s) := by
  unfold execHaltEvent
  with_reducible repeat' first
    | exact hk | assumption | exact hm.regs (by decide) | exact hm.sub (by decide) | exact hm.one (by decide) |
      (intro _) | extract_lets | apply Keeps.next | exact Keeps.fault | split | apply State.askHalt_kept |
      apply State.ev_kept | apply State.when_kept | apply State.each_kept | apply State.advanceTo_kept |
      apply State.lineDrive_kept | (refine Keeps.fst (by assumption) ?_) | (refine Keeps.snd (by assumption) ?_) |
      (dsimp -zeta only) | apply Keeps.of_fst | apply Keeps.of_snd | apply Keeps.pair | apply Keeps.pair' |
      apply Keeps.upd_dbg

theorem execDbgBrk_kept {k : Kept} (n : BitVec 8) (s : State) (hk : State.Keeps k s) (hm : k.Allows [.dbg]) :
    State.KeepsOut k (execDbgBrk n s) := by
  unfold execDbgBrk
  with_reducible repeat' first
    | exact hk | assumption | exact hm.regs (by decide) | exact hm.sub (by decide) | extract_lets |
      apply Keeps.next | exact Keeps.fault | split | apply State.raiseHalt_kept |
      (refine Keeps.fst (by assumption) ?_) | (refine Keeps.snd (by assumption) ?_) | (dsimp -zeta only) |
      apply Keeps.of_fst | apply Keeps.of_snd | apply Keeps.pair | apply Keeps.pair'

theorem execHaltStop_kept {k : Kept} (v : Word) (s : State) (hk : State.Keeps k s) (hm : k.Allows [.BOOT, .CAP,
    .DBG, .FAB, .FRM, .GIO, .GLB, .LANE, .OBS, .PRS, .SECT, .SGC, .SWF, .cores, .dbg, .press]) :
    State.KeepsOut k (execHaltStop v s) := by
  unfold execHaltStop
  with_reducible repeat' first
    | exact hk | assumption | exact hm.regs (by decide) | exact hm.sub (by decide) | apply Keeps.next |
      exact Keeps.fault | apply State.writeHaltCmd_kept | (dsimp -zeta only) | apply Keeps.of_fst |
      apply Keeps.of_snd

theorem execHaltResume_kept {k : Kept} (v : Word) (s : State) (hk : State.Keeps k s) (hm : k.Allows [.BOOT,
    .CAP, .DBG, .FAB, .FRM, .GIO, .GLB, .LANE, .OBS, .PRS, .SECT, .SGC, .SWF, .cores, .dbg, .press]) :
    State.KeepsOut k (execHaltResume v s) := by
  unfold execHaltResume
  with_reducible repeat' first
    | exact hk | assumption | exact hm.regs (by decide) | exact hm.sub (by decide) | apply Keeps.next |
      exact Keeps.fault | apply State.writeHaltCmd_kept | (dsimp -zeta only) | apply Keeps.of_fst |
      apply Keeps.of_snd

theorem execHaltJoin_kept {k : Kept} (v : Word) (s : State) (hk : State.Keeps k s) (hm : k.Allows [.BOOT, .CAP,
    .DBG, .FAB, .FRM, .GIO, .GLB, .LANE, .OBS, .PRS, .SECT, .SGC, .SWF, .cores, .dbg, .press]) :
    State.KeepsOut k (execHaltJoin v s) := by
  unfold execHaltJoin
  with_reducible repeat' first
    | exact hk | assumption | exact hm.regs (by decide) | exact hm.sub (by decide) | apply Keeps.next |
      exact Keeps.fault | apply State.writeHaltCmd_kept | (dsimp -zeta only) | apply Keeps.of_fst |
      apply Keeps.of_snd

theorem execHaltLeave_kept {k : Kept} (v : Word) (s : State) (hk : State.Keeps k s) (hm : k.Allows [.BOOT, .CAP,
    .DBG, .FAB, .FRM, .GIO, .GLB, .LANE, .OBS, .PRS, .SECT, .SGC, .SWF, .cores, .dbg, .press]) :
    State.KeepsOut k (execHaltLeave v s) := by
  unfold execHaltLeave
  with_reducible repeat' first
    | exact hk | assumption | exact hm.regs (by decide) | exact hm.sub (by decide) | apply Keeps.next |
      exact Keeps.fault | apply State.writeHaltCmd_kept | (dsimp -zeta only) | apply Keeps.of_fst |
      apply Keeps.of_snd

theorem execPowerHoldWrite_kept {k : Kept} (n : BitVec 4) (v : Word) (s : State) (hk : State.Keeps k s) (hm :
    k.Allows [.BOOT, .CAP, .DBG, .FAB, .FRM, .GIO, .GLB, .HIF, .LANE, .OBS, .PRS, .PWR, .SECT, .SGC, .SWF, .out,
    .pwr, .swf, .tenants]) :
    State.KeepsOut k (execPowerHoldWrite n v s) := by
  unfold execPowerHoldWrite
  with_reducible repeat' first
    | exact hk | assumption | exact hm.regs (by decide) | exact hm.sub (by decide) | apply Keeps.next |
      exact Keeps.fault | apply State.writePowerHold_kept | (dsimp -zeta only) | apply Keeps.of_fst |
      apply Keeps.of_snd

theorem execSessionTimeout_kept {k : Kept} (s : State) (hk : State.Keeps k s) (hm : k.Allows [.DBG, .FAB, .HIF,
    .PRS, .PWR, .SGC, .clk, .dbg, .out, .press, .pwr, .swf, .tenants]) :
    State.KeepsOut k (execSessionTimeout s) := by
  unfold execSessionTimeout
  with_reducible repeat' first
    | exact hk | assumption | exact hm.regs (by decide) | exact hm.sub (by decide) | apply Keeps.next |
      exact Keeps.fault | split | apply State.endSession_kept | apply State.advanceTo_kept

theorem execAuthOpen_kept {k : Kept} (monitor : Bool) (v : Word) (s : State) (hk : State.Keeps k s) (hm :
    k.Allows [.BOOT, .CAP, .DBG, .FAB, .FRM, .GIO, .GLB, .HIF, .LANE, .OBS, .PRS, .PWR, .SECT, .SGC, .SWF, .dbg,
    .free, .out, .press, .pwr, .swf, .tenants]) :
    State.KeepsOut k (execAuthOpen monitor v s) := by
  unfold execAuthOpen
  with_reducible repeat' first
    | exact hk | assumption | exact hm.regs (by decide) | exact hm.sub (by decide) | apply Keeps.next |
      exact Keeps.fault | apply State.writeAuthCmd_kept | (dsimp -zeta only) | apply Keeps.of_fst |
      apply Keeps.of_snd

theorem execAuthRespond_kept {k : Kept} (monitor : Bool) (v : Word) (s : State) (hk : State.Keeps k s) (hm :
    k.Allows [.BOOT, .CAP, .DBG, .FAB, .FRM, .GIO, .GLB, .HIF, .LANE, .OBS, .PRS, .PWR, .SECT, .SGC, .SWF, .dbg,
    .free, .out, .press, .pwr, .swf, .tenants]) :
    State.KeepsOut k (execAuthRespond monitor v s) := by
  unfold execAuthRespond
  with_reducible repeat' first
    | exact hk | assumption | exact hm.regs (by decide) | exact hm.sub (by decide) | apply Keeps.next |
      exact Keeps.fault | apply State.writeAuthCmd_kept | (dsimp -zeta only) | apply Keeps.of_fst |
      apply Keeps.of_snd

theorem execAuthClose_kept {k : Kept} (monitor : Bool) (v : Word) (s : State) (hk : State.Keeps k s) (hm :
    k.Allows [.BOOT, .CAP, .DBG, .FAB, .FRM, .GIO, .GLB, .HIF, .LANE, .OBS, .PRS, .PWR, .SECT, .SGC, .SWF, .dbg,
    .free, .out, .press, .pwr, .swf, .tenants]) :
    State.KeepsOut k (execAuthClose monitor v s) := by
  unfold execAuthClose
  with_reducible repeat' first
    | exact hk | assumption | exact hm.regs (by decide) | exact hm.sub (by decide) | apply Keeps.next |
      exact Keeps.fault | apply State.writeAuthCmd_kept | (dsimp -zeta only) | apply Keeps.of_fst |
      apply Keeps.of_snd

theorem execAuthLockoutEnd_kept {k : Kept} (monitor : Bool) (s : State) (hk : State.Keeps k s) (hm : k.Allows
    [.clk, .dbg]) :
    State.KeepsOut k (execAuthLockoutEnd monitor s) := by
  unfold execAuthLockoutEnd
  with_reducible repeat' first
    | exact hk | assumption | exact hm.regs (by decide) | exact hm.sub (by decide) | exact hm.one (by decide) |
      extract_lets | apply Keeps.next | exact Keeps.fault | apply State.advanceTo_kept | apply Keeps.upd_dbg

end Sys2Proof.Machine
end

