-- ==== Sys2Proof/Laws/RunsSupplies.lean ====
section
/-! SUPPORT. Laws/RunsSupplies.lean: the meanings of Machine/Supplies.lean keep what Laws/Keeps.lean says. -/
set_option Elab.async false  -- one proof at a time: the package as one text then needs less memory
namespace Sys2Proof.Machine

theorem execVinUndervoltage_kept {k : Kept} (s : State) (hk : State.Keeps k s) (hm : k.All) :
    State.KeepsOut k (execVinUndervoltage s) := by
  unfold execVinUndervoltage
  with_reducible repeat' first
    | exact hk | assumption | exact hm.regs | exact hm.one _ | exact hm.sub | (intro _) | extract_lets |
      apply Keeps.next | exact Keeps.fault | apply State.put_kept | apply State.ev_kept | apply State.when_kept |
      apply State.powerFail_kept | apply State.supplyOut_kept | (dsimp -zeta only) | apply Keeps.of_fst |
      apply Keeps.of_snd | apply Keeps.pair | apply Keeps.pair' | (refine Keeps.all_plain hm ?_)

theorem execVinOvervoltage_kept {k : Kept} (s : State) (hk : State.Keeps k s) (hm : k.All) :
    State.KeepsOut k (execVinOvervoltage s) := by
  unfold execVinOvervoltage
  with_reducible repeat' first
    | exact hk | assumption | exact hm.regs | exact hm.one _ | exact hm.sub | (intro _) | extract_lets |
      apply Keeps.next | exact Keeps.fault | apply State.ev_kept | apply State.when_kept |
      apply State.powerFail_kept | (dsimp -zeta only) | apply Keeps.of_fst | apply Keeps.of_snd |
      apply Keeps.pair | apply Keeps.pair' | (refine Keeps.all_plain hm ?_)

theorem execPwrfailNLow_kept {k : Kept} (s : State) (hk : State.Keeps k s) (hm : k.All) :
    State.KeepsOut k (execPwrfailNLow s) := by
  unfold execPwrfailNLow
  with_reducible repeat' first
    | exact hk | assumption | exact hm.regs | exact hm.one _ | exact hm.sub | apply Keeps.next |
      exact Keeps.fault | apply State.put_kept | apply State.powerFail_kept | apply State.supplyOut_kept |
      (refine Keeps.all_plain hm ?_)

theorem execVinRising_kept {k : Kept} (s : State) (hk : State.Keeps k s) (hm : k.Allows [.PWR]) :
    State.KeepsOut k (execVinRising s) := by
  unfold execVinRising
  with_reducible repeat' first
    | exact hk | assumption | exact hm.regs (by decide) | exact hm.sub (by decide) | exact hm.one (by decide) |
      apply Keeps.next | exact Keeps.fault | apply State.put_kept

theorem execThermalTrip_kept {k : Kept} (s : State) (hk : State.Keeps k s) (hm : k.All) :
    State.KeepsOut k (execThermalTrip s) := by
  unfold execThermalTrip
  with_reducible repeat' first
    | exact hk | assumption | exact hm.regs | exact hm.one _ | exact hm.sub | apply Keeps.next |
      exact Keeps.fault | apply State.powerFail_kept | (refine Keeps.all_plain hm ?_)

theorem execColophonCommitDone_kept {k : Kept} (s : State) (hk : State.Keeps k s) (hm : k.Allows [.RAS, .cap,
    .ras, .sup]) :
    State.KeepsOut k (execColophonCommitDone s) := by
  unfold execColophonCommitDone
  with_reducible repeat' first
    | exact hk | assumption | exact hm.regs (by decide) | exact hm.sub (by decide) | exact hm.one (by decide) |
      extract_lets | apply Keeps.next | exact Keeps.fault | split | apply State.commitLog_kept |
      apply State.commitSeals_kept | apply State.commitEntry_kept | (refine Keeps.fst (by assumption) ?_) |
      (refine Keeps.snd (by assumption) ?_) | (dsimp -zeta only) | apply Keeps.of_fst | apply Keeps.of_snd |
      apply Keeps.pair | apply Keeps.pair' | apply Keeps.upd_sup

theorem execGpfDone_kept {k : Kept} (phases : BitVec 6) (s : State) (hk : State.Keeps k s) (hm : k.Allows [.RAS,
    .colo, .ras, .sup]) :
    State.KeepsOut k (execGpfDone phases s) := by
  unfold execGpfDone
  with_reducible repeat' first
    | exact hk | assumption | exact hm.regs (by decide) | exact hm.sub (by decide) | exact hm.one (by decide) |
      extract_lets | apply Keeps.next | exact Keeps.fault | split | apply State.flush_kept | apply Keeps.upd_sup

theorem execPowerLossSequenceEnd_kept {k : Kept} (s : State) (hk : State.Keeps k s) (hm : k.Allows [.PWR, .pwr,
    .sup]) :
    State.KeepsOut k (execPowerLossSequenceEnd s) := by
  unfold execPowerLossSequenceEnd
  repeat' first
    | with_reducible exact hk
    | with_reducible assumption
    | with_reducible exact hm.regs (by decide)
    | with_reducible exact hm.sub (by decide)
    | with_reducible exact hm.one (by decide)
    | (intro _)
    | (extract_lets)
    | with_reducible apply Keeps.next
    | with_reducible exact Keeps.fault
    | (split)
    | with_reducible apply State.put_kept
    | with_reducible apply State.when_kept
    | with_reducible apply State.goOff_kept
    | with_reducible apply State.supplyOut_kept
    | with_reducible refine Keeps.fst (by with_reducible assumption) ?_
    | with_reducible refine Keeps.snd (by with_reducible assumption) ?_
    | (dsimp -zeta only)
    | (simp -zeta only [id_eq])
    | with_reducible apply Keeps.of_fst
    | with_reducible apply Keeps.of_snd
    | with_reducible apply Keeps.foldl
    | with_reducible apply Keeps.foldl_fst
    | with_reducible apply Keeps.pair
    | with_reducible apply Keeps.pair'
    | with_reducible apply Keeps.upd_sup
    | with_reducible refine Keeps.upd_any hm ?_

theorem execStartConditionMet_kept {k : Kept} (s : State) (hk : State.Keeps k s) (hm : k.All) :
    State.KeepsOut k (execStartConditionMet s) := by
  unfold execStartConditionMet
  with_reducible repeat' first
    | exact hk | assumption | exact hm.regs | exact hm.one _ | exact hm.sub | extract_lets | apply Keeps.next |
      exact Keeps.fault | split | apply State.start_kept | apply State.put_kept | (refine Keeps.all_plain hm ?_)

theorem execVauxLoss_kept {k : Kept} (s : State) (hk : State.Keeps k s) (hm : k.All) :
    State.KeepsOut k (execVauxLoss s) := by
  unfold execVauxLoss
  with_reducible repeat' first
    | exact hk | assumption | exact hm.regs | exact hm.one _ | exact hm.sub | (intro _) | extract_lets |
      apply Keeps.next | exact Keeps.fault | split | apply State.put_kept | apply State.supplyOut_kept |
      (dsimp -zeta only) | apply Keeps.of_fst | apply Keeps.of_snd | apply Keeps.pair | apply Keeps.pair' |
      (refine Keeps.all_plain hm ?_) | (refine Keeps.all_filter _ hm ?_)

theorem execVauxRestored_kept {k : Kept} (s : State) (hk : State.Keeps k s) (hm : k.Allows [.PWR]) :
    State.KeepsOut k (execVauxRestored s) := by
  unfold execVauxRestored
  with_reducible repeat' first
    | exact hk | assumption | exact hm.regs (by decide) | exact hm.sub (by decide) | exact hm.one (by decide) |
      apply Keeps.next | exact Keeps.fault | apply State.put_kept

theorem execRailPhaseFailure_kept {k : Kept} (rail : BitVec 5) (load : BitVec 7) (s : State) (hk : State.Keeps k
    s) (hm : k.All) :
    State.KeepsOut k (execRailPhaseFailure rail load s) := by
  unfold execRailPhaseFailure
  with_reducible repeat' first
    | exact hk | assumption | exact hm.regs | exact hm.one _ | exact hm.sub | extract_lets | apply Keeps.next |
      exact Keeps.fault | split | apply State.put_kept | apply State.ev_kept | apply State.fresh_kept |
      apply State.log_kept | apply State.fault_kept | apply State.powerFail_kept |
      (refine Keeps.fst (by assumption) ?_) | (refine Keeps.snd (by assumption) ?_) | (dsimp -zeta only) |
      apply Keeps.of_fst | apply Keeps.of_snd | apply Keeps.pair | apply Keeps.pair' |
      (refine Keeps.all_plain hm ?_)

theorem execWakeNLow_kept {k : Kept} (s : State) (hk : State.Keeps k s) (hm : k.All) :
    State.KeepsOut k (execWakeNLow s) := by
  unfold execWakeNLow
  with_reducible repeat' first
    | exact hk | assumption | exact hm.regs | exact hm.one _ | exact hm.sub | apply Keeps.next |
      exact Keeps.fault | split | apply State.wakeBy_kept | (refine Keeps.all_plain hm ?_)

theorem execGioWakeEdge_kept {k : Kept} (pin : BitVec 3) (rising : Bool) (s : State) (hk : State.Keeps k s) (hm
    : k.All) :
    State.KeepsOut k (execGioWakeEdge pin rising s) := by
  unfold execGioWakeEdge
  with_reducible repeat' first
    | exact hk | assumption | exact hm.regs | exact hm.one _ | exact hm.sub | extract_lets | apply Keeps.next |
      exact Keeps.fault | split | apply State.wakeBy_kept | (refine Keeps.all_plain hm ?_)

theorem execSmbusAddressMatch_kept {k : Kept} (addr : BitVec 7) (s : State) (hk : State.Keeps k s) (hm : k.All)
    :
    State.KeepsOut k (execSmbusAddressMatch addr s) := by
  unfold execSmbusAddressMatch
  with_reducible repeat' first
    | exact hk | assumption | exact hm.regs | exact hm.one _ | exact hm.sub | (intro _) | extract_lets |
      apply Keeps.next | exact Keeps.fault | split | apply State.wakeBy_kept | (dsimp -zeta only) |
      apply Keeps.of_fst | apply Keeps.of_snd | apply Keeps.pair | apply Keeps.pair' | apply Keeps.upd_pwr |
      (refine Keeps.all_plain hm ?_)

theorem execHostWake_kept {k : Kept} (s : State) (hk : State.Keeps k s) (hm : k.All) :
    State.KeepsOut k (execHostWake s) := by
  unfold execHostWake
  with_reducible repeat' first
    | exact hk | assumption | exact hm.regs | exact hm.one _ | exact hm.sub | apply Keeps.next |
      exact Keeps.fault | split | apply State.wakeBy_kept | (refine Keeps.all_plain hm ?_)

theorem execTimerWake_kept {k : Kept} (s : State) (hk : State.Keeps k s) (hm : k.All) :
    State.KeepsOut k (execTimerWake s) := by
  unfold execTimerWake
  with_reducible repeat' first
    | exact hk | assumption | exact hm.regs | exact hm.one _ | exact hm.sub | extract_lets | apply Keeps.next |
      exact Keeps.fault | split | apply State.advanceTo_kept | apply State.wakeBy_kept |
      (refine Keeps.all_plain hm ?_)

theorem execDeviceStateReached_kept {k : Kept} (s : State) (hk : State.Keeps k s) (hm : k.All) :
    State.KeepsOut k (execDeviceStateReached s) := by
  unfold execDeviceStateReached
  with_reducible repeat' first
    | exact hk | assumption | exact hm.regs | exact hm.one _ | exact hm.sub | (intro _) | extract_lets |
      apply Keeps.next | exact Keeps.fault | split | apply State.start_kept | apply State.when_kept |
      apply State.each_kept | apply State.domReach_kept | apply State.domEffect_kept | apply State.setDev_kept |
      apply State.goOff_kept | apply State.exitBegin_kept | (refine Keeps.fst (by assumption) ?_) |
      (refine Keeps.snd (by assumption) ?_) | (dsimp -zeta only) | apply Keeps.of_fst | apply Keeps.of_snd |
      apply Keeps.pair | apply Keeps.pair' | apply Keeps.upd_pwr | (refine Keeps.all_plain hm ?_)

end Sys2Proof.Machine
end

