-- ==== Sys2Proof/Laws/RunsGio.lean ====
section
/-! SUPPORT. Laws/RunsGio.lean: the meanings of Machine/Gio.lean keep what Laws/Keeps.lean says. -/
set_option Elab.async false  -- one proof at a time: the package as one text then needs less memory
namespace Sys2Proof.Machine

theorem execBankCfgWrite_kept {k : Kept} (p : Path) (bank : BitVec 3) (v : Word) (s : State) (hk : State.Keeps k
    s) (hm : k.Allows [.BOOT, .CAP, .FAB, .FRM, .GIO, .GLB, .LANE, .OBS, .PRS, .SECT, .SGC, .SWF, .colo, .gio]) :
    State.KeepsOut k (execBankCfgWrite p bank v s) := by
  unfold execBankCfgWrite
  with_reducible repeat' first
    | exact hk | assumption | exact hm.regs (by decide) | exact hm.sub (by decide) | apply Keeps.next |
      exact Keeps.fault | split | apply State.writeBankCfg_kept | apply State.fault_kept | (dsimp -zeta only) |
      apply Keeps.of_fst | apply Keeps.of_snd

theorem execBankChangeDone_kept {k : Kept} (bank : BitVec 3) (s : State) (hk : State.Keeps k s) (hm : k.Allows
    [.gio]) :
    State.KeepsOut k (execBankChangeDone bank s) := by
  unfold execBankChangeDone
  with_reducible repeat' first
    | exact hk | assumption | exact hm.regs (by decide) | exact hm.sub (by decide) | exact hm.one (by decide) |
      (intro _) | extract_lets | apply Keeps.next | exact Keeps.fault | (dsimp -zeta only) | apply Keeps.of_fst |
      apply Keeps.of_snd | apply Keeps.pair | apply Keeps.pair' | apply Keeps.upd_gio

theorem execPinCfgWrite_kept {k : Kept} (p : Path) (pin : BitVec 8) (v : Word) (s : State) (hk : State.Keeps k
    s) (hm : k.Allows [.BOOT, .CAP, .FAB, .FRM, .GIO, .GLB, .LANE, .OBS, .PRS, .SECT, .SGC, .SWF, .gio, .out]) :
    State.KeepsOut k (execPinCfgWrite p pin v s) := by
  unfold execPinCfgWrite
  with_reducible repeat' first
    | exact hk | assumption | exact hm.regs (by decide) | exact hm.sub (by decide) | apply Keeps.next |
      exact Keeps.fault | split | apply State.writePinCfg_kept | apply State.fault_kept | (dsimp -zeta only) |
      apply Keeps.of_fst | apply Keeps.of_snd

theorem execContentionDetect_kept {k : Kept} (pin : BitVec 8) (s : State) (hk : State.Keeps k s) (hm : k.Allows
    [.GIO, .gio]) :
    State.KeepsOut k (execContentionDetect pin s) := by
  unfold execContentionDetect
  with_reducible repeat' first
    | exact hk | assumption | exact hm.regs (by decide) | exact hm.sub (by decide) | exact hm.one (by decide) |
      extract_lets | apply Keeps.next | exact Keeps.fault | split | apply State.put_kept | apply State.ev_kept |
      apply State.fault_kept | apply Keeps.upd_gio

theorem execLoadTestStart_kept {k : Kept} (p : Path) (v : Word) (s : State) (hk : State.Keeps k s) (hm :
    k.Allows [.BOOT, .CAP, .FAB, .FRM, .GIO, .GLB, .LANE, .OBS, .PRS, .SECT, .SGC, .SWF, .gio]) :
    State.KeepsOut k (execLoadTestStart p v s) := by
  unfold execLoadTestStart
  with_reducible repeat' first
    | exact hk | assumption | exact hm.regs (by decide) | exact hm.sub (by decide) | apply Keeps.next |
      exact Keeps.fault | apply State.writeLoadCmd_kept | (dsimp -zeta only) | apply Keeps.of_fst |
      apply Keeps.of_snd

theorem execLoadTestDone_kept {k : Kept} (src snk : List (BitVec 14)) (s : State) (hk : State.Keeps k s) (hm :
    k.Allows [.GIO, .gio]) :
    State.KeepsOut k (execLoadTestDone src snk s) := by
  unfold execLoadTestDone
  with_reducible repeat' first
    | exact hk | assumption | exact hm.regs (by decide) | exact hm.sub (by decide) | exact hm.one (by decide) |
      (intro _) | extract_lets | apply Keeps.next | exact Keeps.fault | split | apply State.put_kept |
      apply State.ev_kept | apply State.clr_kept | (refine Keeps.fst (by assumption) ?_) |
      (refine Keeps.snd (by assumption) ?_) | (dsimp -zeta only) | apply Keeps.of_fst | apply Keeps.of_snd |
      apply Keeps.pair | apply Keeps.pair' | apply Keeps.upd_gio

theorem execAdcConversion_kept {k : Kept} (codes : List (BitVec 14)) (s : State) (hk : State.Keeps k s) (hm :
    k.Allows [.GIO, .gio]) :
    State.KeepsOut k (execAdcConversion codes s) := by
  unfold execAdcConversion
  with_reducible repeat' first
    | exact hk | assumption | exact hm.regs (by decide) | exact hm.sub (by decide) | exact hm.one (by decide) |
      (intro _) | extract_lets | apply Keeps.next | exact Keeps.fault | split | apply State.put_kept |
      apply State.ev_kept | apply State.when_kept | apply State.ok_kept | (refine Keeps.fst (by assumption) ?_) |
      (refine Keeps.snd (by assumption) ?_) | (dsimp -zeta only) | apply Keeps.of_fst | apply Keeps.of_snd |
      apply Keeps.pair | apply Keeps.pair' | apply Keeps.upd_gio

theorem execTempSample_kept {k : Kept} (l : List (BitVec 16 × BitVec 16)) (s : State) (hk : State.Keeps k s) (hm
    : k.Allows [.GIO, .PWR, .RAS, .free, .ras]) :
    State.KeepsOut k (execTempSample l s) := by
  unfold execTempSample
  with_reducible repeat' first
    | exact hk | assumption | exact hm.regs (by decide) | exact hm.sub (by decide) | exact hm.one (by decide) |
      (intro _) | (dsimp only) | apply Keeps.next | exact Keeps.fault | split | apply State.put_kept |
      apply State.ev_kept | apply State.when_kept | apply State.each_kept | apply State.fresh_kept |
      apply State.log_kept | (refine Keeps.fst (by assumption) ?_) | (refine Keeps.snd (by assumption) ?_) |
      apply Keeps.of_fst | apply Keeps.of_snd | apply Keeps.foldl | apply Keeps.foldl_fst | apply Keeps.pair |
      apply Keeps.pair'

theorem execSensorElementFailure_kept {k : Kept} (sensor : BitVec 6) (element : Bool) (s : State) (hk :
    State.Keeps k s) (hm : k.Allows [.GIO, .gio]) :
    State.KeepsOut k (execSensorElementFailure sensor element s) := by
  unfold execSensorElementFailure
  with_reducible repeat' first
    | exact hk | assumption | exact hm.regs (by decide) | exact hm.sub (by decide) | exact hm.one (by decide) |
      extract_lets | apply Keeps.next | exact Keeps.fault | split | apply State.put_kept | apply State.ev_kept |
      apply Keeps.upd_gio

theorem execSmbReadIdentity_kept {k : Kept} (s : State) (hk : State.Keeps k s) (hm : k.Allows [.out]) :
    State.KeepsOut k (execSmbReadIdentity s) := by
  unfold execSmbReadIdentity
  with_reducible repeat' first
    | exact hk | assumption | exact hm.regs (by decide) | exact hm.sub (by decide) | apply Keeps.next |
      exact Keeps.fault | apply State.smbAnswer_kept

theorem execSmbReadState_kept {k : Kept} (s : State) (hk : State.Keeps k s) (hm : k.Allows [.out]) :
    State.KeepsOut k (execSmbReadState s) := by
  unfold execSmbReadState
  with_reducible repeat' first
    | exact hk | assumption | exact hm.regs (by decide) | exact hm.sub (by decide) | apply Keeps.next |
      exact Keeps.fault | apply State.smbAnswer_kept

theorem execSmbReadTempMax_kept {k : Kept} (s : State) (hk : State.Keeps k s) (hm : k.Allows [.out]) :
    State.KeepsOut k (execSmbReadTempMax s) := by
  unfold execSmbReadTempMax
  with_reducible repeat' first
    | exact hk | assumption | exact hm.regs (by decide) | exact hm.sub (by decide) | apply Keeps.next |
      exact Keeps.fault | apply State.smbAnswer_kept

theorem execSmbSelectSensor_kept {k : Kept} (n : BitVec 8) (pecOk : Bool) (s : State) (hk : State.Keeps k s) (hm
    : k.Allows [.gio, .out]) :
    State.KeepsOut k (execSmbSelectSensor n pecOk s) := by
  unfold execSmbSelectSensor
  with_reducible repeat' first
    | exact hk | assumption | exact hm.regs (by decide) | exact hm.sub (by decide) | exact hm.one (by decide) |
      (intro _) | extract_lets | apply Keeps.next | exact Keeps.fault | apply State.smbTake_kept |
      (dsimp -zeta only) | apply Keeps.of_fst | apply Keeps.of_snd | apply Keeps.pair | apply Keeps.pair' |
      apply Keeps.upd_gio

theorem execSmbReadSensor_kept {k : Kept} (s : State) (hk : State.Keeps k s) (hm : k.Allows [.out]) :
    State.KeepsOut k (execSmbReadSensor s) := by
  unfold execSmbReadSensor
  with_reducible repeat' first
    | exact hk | assumption | exact hm.regs (by decide) | exact hm.sub (by decide) | apply Keeps.next |
      exact Keeps.fault | apply State.smbAnswer_kept

theorem execSmbSetOffset_kept {k : Kept} (off : Word) (pecOk : Bool) (s : State) (hk : State.Keeps k s) (hm :
    k.Allows [.gio, .out]) :
    State.KeepsOut k (execSmbSetOffset off pecOk s) := by
  unfold execSmbSetOffset
  with_reducible repeat' first
    | exact hk | assumption | exact hm.regs (by decide) | exact hm.sub (by decide) | exact hm.one (by decide) |
      (intro _) | extract_lets | apply Keeps.next | exact Keeps.fault | apply State.smbTake_kept |
      (dsimp -zeta only) | apply Keeps.of_fst | apply Keeps.of_snd | apply Keeps.pair | apply Keeps.pair' |
      apply Keeps.upd_gio

theorem execSmbUnlistedCommand_kept {k : Kept} (cmd : BitVec 8) (s : State) (hk : State.Keeps k s) (hm :
    k.Allows [.GIO, .out]) :
    State.KeepsOut k (execSmbUnlistedCommand cmd s) := by
  unfold execSmbUnlistedCommand
  with_reducible repeat' first
    | exact hk | assumption | exact hm.regs (by decide) | exact hm.sub (by decide) | exact hm.one (by decide) |
      apply Keeps.next | exact Keeps.fault | split | apply State.ev_kept | apply State.send_kept

theorem execSmbBusTimeout_kept {k : Kept} (s : State) (hk : State.Keeps k s) (hm : k.Allows [.out, .pwr]) :
    State.KeepsOut k (execSmbBusTimeout s) := by
  unfold execSmbBusTimeout
  with_reducible repeat' first
    | exact hk | assumption | exact hm.regs (by decide) | exact hm.sub (by decide) | exact hm.one (by decide) |
      extract_lets | apply Keeps.next | exact Keeps.fault | split | apply State.send_kept | apply Keeps.upd_pwr

theorem execSmbClkStretchTimeout_kept {k : Kept} (s : State) (hk : State.Keeps k s) (hm : k.Allows [.gio, .out,
    .pwr]) :
    State.KeepsOut k (execSmbClkStretchTimeout s) := by
  unfold execSmbClkStretchTimeout
  with_reducible repeat' first
    | exact hk | assumption | exact hm.regs (by decide) | exact hm.sub (by decide) | exact hm.one (by decide) |
      extract_lets | apply Keeps.next | exact Keeps.fault | split | apply State.send_kept | apply Keeps.upd_pwr |
      apply Keeps.upd_gio | (refine Keeps.upd_any hm ?_)

end Sys2Proof.Machine
end

