-- ==== Sys2Proof/Laws/RunsHif.lean ====
section
/-! SUPPORT. Laws/RunsHif.lean: the meanings of Machine/Hif.lean keep what Laws/Keeps.lean says. -/
set_option Elab.async false  -- one proof at a time: the package as one text then needs less memory
namespace Sys2Proof.Machine

theorem execSqTailDoorbell_kept {k : Kept} (tenant : BitVec 8) (ring : BitVec 6) (v : Word) (s : State) (hk :
    State.Keeps k s) (hm : k.Allows [.tenants]) :
    State.KeepsOut k (execSqTailDoorbell tenant ring v s) := by
  unfold execSqTailDoorbell
  with_reducible repeat' first
    | exact hk | assumption | exact hm.regs (by decide) | exact hm.sub (by decide) | apply Keeps.next |
      exact Keeps.fault | split | apply State.sqTail_kept

theorem execCqHeadDoorbell_kept {k : Kept} (tenant : BitVec 8) (ring : BitVec 6) (v : Word) (s : State) (hk :
    State.Keeps k s) (hm : k.Allows [.tenants]) :
    State.KeepsOut k (execCqHeadDoorbell tenant ring v s) := by
  unfold execCqHeadDoorbell
  with_reducible repeat' first
    | exact hk | assumption | exact hm.regs (by decide) | exact hm.sub (by decide) | apply Keeps.next |
      exact Keeps.fault | split | apply State.cqHead_kept

theorem execSetupRing0_kept {k : Kept} (tenant : BitVec 8) (v : Word) (s : State) (hk : State.Keeps k s) (hm :
    k.Allows [.HIF, .out, .tenants]) :
    State.KeepsOut k (execSetupRing0 tenant v s) := by
  unfold execSetupRing0
  with_reducible repeat' first
    | exact hk | assumption | exact hm.regs (by decide) | exact hm.sub (by decide) | apply Keeps.next |
      exact Keeps.fault | split | apply State.setupRing0_kept

theorem execDescriptorAccept_kept {k : Kept} (tenant : BitVec 8) (ring : BitVec 6) (header : Word) (readFail :
    Bool) (s : State) (hk : State.Keeps k s) (hm : k.Allows [.HIF, .out, .tenants]) :
    State.KeepsOut k (execDescriptorAccept tenant ring header readFail s) := by
  unfold execDescriptorAccept
  with_reducible repeat' first
    | exact hk | assumption | exact hm.regs (by decide) | exact hm.sub (by decide) | (intro _) | extract_lets |
      apply Keeps.next | exact Keeps.fault | split | apply State.sqError_kept | apply State.setTen_kept |
      apply State.countOutstanding_kept | apply State.refuse_kept | (dsimp -zeta only) | apply Keeps.of_fst |
      apply Keeps.of_snd | apply Keeps.pair | apply Keeps.pair'

theorem execHostReadFailure_kept {k : Kept} (r : HostRead) (s : State) (hk : State.Keeps k s) (hm : k.Allows
    [.CAP, .HIF, .coll, .out, .tenants]) :
    State.KeepsOut k (execHostReadFailure r s) := by
  unfold execHostReadFailure
  with_reducible repeat' first
    | exact hk | assumption | exact hm.regs (by decide) | exact hm.sub (by decide) | apply Keeps.next |
      exact Keeps.fault | split | apply State.sqError_kept | apply State.dmaError_kept |
      apply State.readFailed_kept | apply State.endSess_kept | (refine Keeps.fst (by assumption) ?_) |
      (refine Keeps.snd (by assumption) ?_) | (dsimp -zeta only) | apply Keeps.of_fst | apply Keeps.of_snd |
      apply Keeps.pair | apply Keeps.pair'

theorem execMsixCoalesceTimeout_kept {k : Kept} (tenant : BitVec 8) (cq : BitVec 6) (s : State) (hk :
    State.Keeps k s) (hm : k.Allows [.out, .tenants]) :
    State.KeepsOut k (execMsixCoalesceTimeout tenant cq s) := by
  unfold execMsixCoalesceTimeout
  with_reducible repeat' first
    | exact hk | assumption | exact hm.regs (by decide) | exact hm.sub (by decide) | extract_lets |
      apply Keeps.next | exact Keeps.fault | split | apply State.setTen_kept | apply State.msix_kept

theorem execNopDescriptor_kept {k : Kept} (d : Desc) (s : State) (hk : State.Keeps k s) (hm : k.Allows [.HIF,
    .out, .tenants]) :
    State.KeepsOut k (execNopDescriptor d s) := by
  unfold execNopDescriptor
  with_reducible repeat' first
    | exact hk | assumption | exact hm.regs (by decide) | exact hm.sub (by decide) | (intro _) |
      apply Keeps.next | exact Keeps.fault | apply State.ok_kept | apply State.descriptor_kept |
      (dsimp -zeta only) | apply Keeps.of_fst | apply Keeps.of_snd | apply Keeps.pair | apply Keeps.pair'

theorem execRingCreate_kept {k : Kept} (d : Desc) (ring : BitVec 8) (isCq : Bool) (log2 bound : BitVec 8) (base
    : BitVec 64) (n tau : BitVec 8) (s : State) (hk : State.Keeps k s) (hm : k.Allows [.HIF, .out, .tenants]) :
    State.KeepsOut k (execRingCreate d ring isCq log2 bound base n tau s) := by
  unfold execRingCreate
  with_reducible repeat' first
    | exact hk | assumption | exact hm.regs (by decide) | exact hm.sub (by decide) | (intro _) | extract_lets |
      apply Keeps.next | exact Keeps.fault | split | apply State.setTen_kept | apply State.ok_kept |
      apply State.descriptor_kept | (dsimp -zeta only) | apply Keeps.of_fst | apply Keeps.of_snd |
      apply Keeps.pair | apply Keeps.pair'

theorem execRingDelete_kept {k : Kept} (d : Desc) (ring : BitVec 8) (isCq : Bool) (s : State) (hk : State.Keeps
    k s) (hm : k.Allows [.HIF, .out, .tenants]) :
    State.KeepsOut k (execRingDelete d ring isCq s) := by
  unfold execRingDelete
  with_reducible repeat' first
    | exact hk | assumption | exact hm.regs (by decide) | exact hm.sub (by decide) | (intro _) | extract_lets |
      apply Keeps.next | exact Keeps.fault | split | apply State.setTen_kept | apply State.ok_kept |
      apply State.descriptor_kept | (dsimp -zeta only) | apply Keeps.of_fst | apply Keeps.of_snd |
      apply Keeps.pair | apply Keeps.pair'

theorem execBusMasterEnableChange_kept {k : Kept} (tenant : BitVec 8) (on : Bool) (s : State) (hk : State.Keeps
    k s) (hm : k.Allows [.out, .tenants]) :
    State.KeepsOut k (execBusMasterEnableChange tenant on s) := by
  unfold execBusMasterEnableChange
  with_reducible repeat' first
    | exact hk | assumption | exact hm.regs (by decide) | exact hm.sub (by decide) | (intro _) | extract_lets |
      apply Keeps.next | exact Keeps.fault | split | apply State.each_kept | apply State.send_kept |
      apply State.setTen_kept | (dsimp -zeta only) | apply Keeps.of_fst | apply Keeps.of_snd | apply Keeps.pair |
      apply Keeps.pair'

theorem execVfEnable_kept {k : Kept} (n : BitVec 8) (s : State) (hk : State.Keeps k s) (hm : k.Allows [.HIF,
    .tenants]) :
    State.KeepsOut k (execVfEnable n s) := by
  unfold execVfEnable
  with_reducible repeat' first
    | exact hk | assumption | exact hm.regs (by decide) | exact hm.sub (by decide) | exact hm.one (by decide) |
      (intro _) | extract_lets | apply Keeps.next | exact Keeps.fault | split | apply State.put_kept |
      apply State.when_kept | apply State.each_kept | apply State.setTen_kept | (dsimp -zeta only) |
      apply Keeps.of_fst | apply Keeps.of_snd | apply Keeps.pair | apply Keeps.pair'

theorem execTenantSet_kept {k : Kept} (d : Desc) (tenant : BitVec 8) (mask : BitVec 5) (w0 w1 w2 w3 w4 : Word)
    (s : State) (hk : State.Keeps k s) (hm : k.Allows [.BOOT, .CAP, .FAB, .FRM, .GIO, .GLB, .HIF, .LANE, .OBS, .PRS,
    .SECT, .SGC, .SWF, .out, .tenants]) :
    State.KeepsOut k (execTenantSet d tenant mask w0 w1 w2 w3 w4 s) := by
  unfold execTenantSet
  with_reducible repeat' first
    | exact hk | assumption | exact hm.regs (by decide) | exact hm.sub (by decide) | exact hm.one (by decide) |
      (intro _) | extract_lets | apply Keeps.next | exact Keeps.fault | split | apply State.ok_kept |
      apply State.refuse_kept | apply State.descriptor_kept | apply State.plainWrite_kept |
      apply State.writeTenantSwf_kept | (refine Keeps.fst (by assumption) ?_) |
      (refine Keeps.snd (by assumption) ?_) | (dsimp -zeta only) | apply Keeps.of_fst | apply Keeps.of_snd |
      apply Keeps.foldl | apply Keeps.foldl_fst | apply Keeps.pair | apply Keeps.pair'

theorem execQuery_kept {k : Kept} (d : Desc) (kind : BitVec 8) (index : Word) (buffer : BitVec 64) (s : State)
    (hk : State.Keeps k s) (hm : k.Allows [.HIF, .out, .tenants]) :
    State.KeepsOut k (execQuery d kind index buffer s) := by
  unfold execQuery
  with_reducible repeat' first
    | exact hk | assumption | exact hm.regs (by decide) | exact hm.sub (by decide) | exact hm.one (by decide) |
      (intro _) | extract_lets | apply Keeps.next | exact Keeps.fault | split | apply State.hostWrite_kept |
      apply State.ok_kept | apply State.descriptor_kept | (dsimp -zeta only) | apply Keeps.of_fst |
      apply Keeps.of_snd | apply Keeps.pair | apply Keeps.pair'

end Sys2Proof.Machine
end

