-- ==== Sys2Proof/Laws/RunsGrants.lean ====
section
/-! SUPPORT. Laws/RunsGrants.lean: the meanings of Machine/Grants.lean keep what Laws/Keeps.lean says. -/
set_option Elab.async false  -- one proof at a time: the package as one text then needs less memory
namespace Sys2Proof.Machine

theorem execGrant_kept {k : Kept} (d : Desc) (ty tenant : BitVec 8) (first count : Word) (s : State) (hk :
    State.Keeps k s) (hm : k.All) :
    State.KeepsOut k (execGrant d ty tenant first count s) := by
  unfold execGrant
  with_reducible repeat' first
    | exact hk | assumption | exact hm.regs | exact hm.one _ | exact hm.sub | apply Keeps.next |
      exact Keeps.fault | apply State.grantUnits_kept | (refine Keeps.all_plain hm ?_)

theorem execRevoke_kept {k : Kept} (d : Desc) (ty tenant : BitVec 8) (first count : Word) (s : State) (hk :
    State.Keeps k s) (hm : k.All) :
    State.KeepsOut k (execRevoke d ty tenant first count s) := by
  unfold execRevoke
  with_reducible repeat' first
    | exact hk | assumption | exact hm.regs | exact hm.one _ | exact hm.sub | apply Keeps.next |
      exact Keeps.fault | apply State.grantUnits_kept | (refine Keeps.all_plain hm ?_)

theorem execSectionClearDone_kept {k : Kept} (sec : BitVec 8) (s : State) (hk : State.Keeps k s) (hm : k.Allows
    [.FAB, .HIF, .PWR, .fab, .out, .pwr, .swf, .tenants]) :
    State.KeepsOut k (execSectionClearDone sec s) := by
  unfold execSectionClearDone
  with_reducible repeat' first
    | exact hk | assumption | exact hm.regs (by decide) | exact hm.sub (by decide) | (intro _) | extract_lets |
      apply Keeps.next | exact Keeps.fault | split | apply State.setSect_kept | apply State.sectWake_kept |
      apply State.sectBlank_kept | apply State.movesEnd_kept | apply State.resetsEnd_kept | (dsimp -zeta only) |
      apply Keeps.of_fst | apply Keeps.of_snd | apply Keeps.pair | apply Keeps.pair'

theorem execFlrVf_kept {k : Kept} (tenant : BitVec 8) (s : State) (hk : State.Keeps k s) (hm : k.All) :
    State.KeepsOut k (execFlrVf tenant s) := by
  unfold execFlrVf
  with_reducible repeat' first
    | exact hk | assumption | exact hm.regs | exact hm.one _ | exact hm.sub | extract_lets | apply Keeps.next |
      exact Keeps.fault | split | apply State.resetBegin_kept | (refine Keeps.all_plain hm ?_)

theorem execFlrQuireRelease_kept {k : Kept} (tenant : BitVec 8) (s : State) (hk : State.Keeps k s) (hm : k.All)
    :
    State.KeepsOut k (execFlrQuireRelease tenant s) := by
  unfold execFlrQuireRelease
  with_reducible repeat' first
    | exact hk | assumption | exact hm.regs | exact hm.one _ | exact hm.sub | (intro _) | extract_lets |
      apply Keeps.next | exact Keeps.fault | split | apply State.resetRelease_kept | (dsimp -zeta only) |
      apply Keeps.of_fst | apply Keeps.of_snd | apply Keeps.pair | apply Keeps.pair' |
      (refine Keeps.all_plain hm ?_)

theorem execVfDisable_kept {k : Kept} (n : BitVec 8) (s : State) (hk : State.Keeps k s) (hm : k.All) :
    State.KeepsOut k (execVfDisable n s) := by
  unfold execVfDisable
  with_reducible repeat' first
    | exact hk | assumption | exact hm.regs | exact hm.one _ | exact hm.sub | apply Keeps.next |
      exact Keeps.fault | split | apply State.vfsDown_kept | (refine Keeps.all_plain hm ?_)

theorem execFlrPf0_kept {k : Kept} (s : State) (hk : State.Keeps k s) (hm : k.All) :
    State.KeepsOut k (execFlrPf0 s) := by
  unfold execFlrPf0
  with_reducible repeat' first
    | exact hk | assumption | exact hm.regs | exact hm.one _ | exact hm.sub | apply Keeps.next |
      exact Keeps.fault | split | apply State.resetPf0_kept | (refine Keeps.all_plain hm ?_)

theorem execPerstNAssert_kept {k : Kept} (s : State) (hk : State.Keeps k s) (hm : k.All) :
    State.KeepsOut k (execPerstNAssert s) := by
  unfold execPerstNAssert
  with_reducible repeat' first
    | exact hk | assumption | exact hm.regs | exact hm.one _ | exact hm.sub | extract_lets | apply Keeps.next |
      exact Keeps.fault | split | apply State.resetPf0_kept | apply State.linkDown_kept | apply State.put_kept |
      (refine Keeps.all_plain hm ?_)

theorem execPerstNRelease_kept {k : Kept} (s : State) (hk : State.Keeps k s) (hm : k.Allows [.HIF, .boot]) :
    State.KeepsOut k (execPerstNRelease s) := by
  unfold execPerstNRelease
  with_reducible repeat' first
    | exact hk | assumption | exact hm.regs (by decide) | exact hm.sub (by decide) | exact hm.one (by decide) |
      extract_lets | apply Keeps.next | exact Keeps.fault | split | apply State.put_kept | apply Keeps.upd_boot

theorem execHostLinkLoss_kept {k : Kept} (s : State) (hk : State.Keeps k s) (hm : k.Allows [.HIF]) :
    State.KeepsOut k (execHostLinkLoss s) := by
  unfold execHostLinkLoss
  with_reducible repeat' first
    | exact hk | assumption | exact hm.regs (by decide) | exact hm.sub (by decide) | exact hm.one (by decide) |
      apply Keeps.next | exact Keeps.fault | split | apply State.linkDown_kept | apply State.put_kept

theorem execLinkLossTimeout_kept {k : Kept} (s : State) (hk : State.Keeps k s) (hm : k.All) :
    State.KeepsOut k (execLinkLossTimeout s) := by
  unfold execLinkLossTimeout
  with_reducible repeat' first
    | exact hk | assumption | exact hm.regs | exact hm.one _ | exact hm.sub | apply Keeps.next |
      exact Keeps.fault | split | apply State.resetPf0_kept | (refine Keeps.all_plain hm ?_)

theorem execHostLinkUp_kept {k : Kept} (rate : BitVec 4) (width : BitVec 7) (flit : Bool) (s : State) (hk :
    State.Keeps k s) (hm : k.Allows [.HIF]) :
    State.KeepsOut k (execHostLinkUp rate width flit s) := by
  unfold execHostLinkUp
  with_reducible repeat' first
    | exact hk | assumption | exact hm.regs (by decide) | exact hm.sub (by decide) | apply Keeps.next |
      exact Keeps.fault | split | apply State.linkUp_kept

theorem execImageWrite_kept {k : Kept} (d : Desc) (slot : BitVec 8) (first last : Bool) (offset length : Word)
    (cause : BitVec 8) (rollback : BitVec 7) (map : BitVec 256) (s : State) (hk : State.Keeps k s) (hm : k.All) :
    State.KeepsOut k (execImageWrite d slot first last offset length cause rollback map s) := by
  unfold execImageWrite
  with_reducible repeat' first
    | exact hk | assumption | exact hm.regs | exact hm.one _ | exact hm.sub | (intro _) | extract_lets |
      apply Keeps.next | exact Keeps.fault | split | apply State.showSlots_kept | apply State.offset_kept |
      apply State.put_kept | apply State.ev_kept | apply State.ok_kept | apply State.readFailed_kept |
      apply State.descriptor_kept | (dsimp -zeta only) | apply Keeps.of_fst | apply Keeps.of_snd |
      apply Keeps.pair | apply Keeps.pair' | apply Keeps.upd_boot | apply Keeps.upd_colo |
      (refine Keeps.all_plain hm ?_)

end Sys2Proof.Machine
end

