-- ==== Sys2Proof/Laws/RunsRegBus.lean ====
section
/-! SUPPORT. Laws/RunsRegBus.lean: the meanings of Machine/RegBus.lean keep what Laws/Keeps.lean says. -/
set_option Elab.async false  -- one proof at a time: the package as one text then needs less memory
namespace Sys2Proof.Machine

theorem execRegWrite_kept {k : Kept} (d : Desc) (entries : List (Word × Word)) (s : State) (hk : State.Keeps k
    s) (hm : k.All) :
    State.KeepsOut k (execRegWrite d entries s) := by
  unfold execRegWrite
  with_reducible repeat' first
    | exact hk | assumption | exact hm.regs | exact hm.one _ | exact hm.sub | (intro _) | extract_lets |
      apply Keeps.next | exact Keeps.fault | split | apply State.complete_kept | apply State.descriptor_kept |
      apply State.applyEntries_kept | (refine Keeps.fst (by assumption) ?_) |
      (refine Keeps.snd (by assumption) ?_) | (dsimp -zeta only) | apply Keeps.of_fst | apply Keeps.of_snd |
      apply Keeps.pair | apply Keeps.pair' | (refine Keeps.all_plain hm ?_)

theorem execRegRead_kept {k : Kept} (d : Desc) (buffer : BitVec 64) (offsets : List Word) (s : State) (hk :
    State.Keeps k s) (hm : k.All) :
    State.KeepsOut k (execRegRead d buffer offsets s) := by
  unfold execRegRead
  with_reducible repeat' first
    | exact hk | assumption | exact hm.regs | exact hm.one _ | exact hm.sub | (intro _) | extract_lets |
      apply Keeps.next | exact Keeps.fault | split | apply State.hostWrite_kept | apply State.ok_kept |
      apply State.descriptor_kept | apply State.readRegs_kept | (refine Keeps.fst (by assumption) ?_) |
      (refine Keeps.snd (by assumption) ?_) | (dsimp -zeta only) | apply Keeps.of_fst | apply Keeps.of_snd |
      apply Keeps.pair | apply Keeps.pair' | (refine Keeps.all_plain hm ?_)

theorem execLatchingRead_kept {k : Kept} (p : Path) (page : Option (BitVec 8)) (off : Word) (be : BitVec 4) (s :
    State) (hk : State.Keeps k s) (hm : k.All) :
    State.KeepsOut k (execLatchingRead p page off be s) := by
  unfold execLatchingRead
  with_reducible repeat' first
    | exact hk | assumption | exact hm.regs | exact hm.one _ | exact hm.sub | apply Keeps.next |
      exact Keeps.fault | apply State.busRead_kept | (refine Keeps.all_plain hm ?_)

theorem execRcRead_kept {k : Kept} (p : Path) (page : Option (BitVec 8)) (off : Word) (be : BitVec 4) (s :
    State) (hk : State.Keeps k s) (hm : k.All) :
    State.KeepsOut k (execRcRead p page off be s) := by
  unfold execRcRead
  with_reducible repeat' first
    | exact hk | assumption | exact hm.regs | exact hm.one _ | exact hm.sub | apply Keeps.next |
      exact Keeps.fault | apply State.busRead_kept | (refine Keeps.all_plain hm ?_)

theorem execRegisterWrite_kept {k : Kept} (p : Path) (page : Option (BitVec 8)) (off v : Word) (be : BitVec 4)
    (s : State) (hk : State.Keeps k s) (hm : k.All) :
    State.KeepsOut k (execRegisterWrite p page off v be s) := by
  unfold execRegisterWrite
  with_reducible repeat' first
    | exact hk | assumption | exact hm.regs | exact hm.one _ | exact hm.sub | apply Keeps.next |
      exact Keeps.fault | apply State.busWrite_kept | (refine Keeps.all_plain hm ?_)

theorem execBar0BadRequest_kept {k : Kept} (off : Word) (s : State) (hk : State.Keeps k s) (hm : k.All) :
    State.KeepsOut k (execBar0BadRequest off s) := by
  unfold execBar0BadRequest
  with_reducible repeat' first
    | exact hk | assumption | exact hm.regs | exact hm.one _ | exact hm.sub | apply Keeps.next |
      exact Keeps.fault | split | apply State.err_kept | apply State.send_kept | apply State.hostAccess_kept |
      (refine Keeps.all_plain hm ?_)

theorem execSmbReadRegister_kept {k : Kept} (s : State) (hk : State.Keeps k s) (hm : k.All) :
    State.KeepsOut k (execSmbReadRegister s) := by
  unfold execSmbReadRegister
  with_reducible repeat' first
    | exact hk | assumption | exact hm.regs | exact hm.one _ | exact hm.sub | extract_lets | apply Keeps.next |
      exact Keeps.fault | split | apply State.smbAnswer_kept | apply State.ev_kept | apply State.ok_kept |
      apply State.readReg_kept | (dsimp -zeta only) | apply Keeps.of_fst | apply Keeps.of_snd |
      apply Keeps.upd_free | (refine Keeps.all_plain hm ?_)

end Sys2Proof.Machine
end

