-- ==== Sys2Proof/Laws/RunsDebugPort.lean ====
section
/-! SUPPORT. Laws/RunsDebugPort.lean: the meanings of Machine/DebugPort.lean keep what Laws/Keeps.lean says. -/
set_option Elab.async false  -- one proof at a time: the package as one text then needs less memory
namespace Sys2Proof.Machine

theorem execDbgPortId_kept {k : Kept} (c : PortCmd) (reserved : BitVec 4) (s : State) (hk : State.Keeps k s) (hm
    : k.All) :
    State.KeepsOut k (execDbgPortId c reserved s) := by
  unfold execDbgPortId
  with_reducible repeat' first
    | exact hk | assumption | exact hm.regs | exact hm.one _ | exact hm.sub | apply Keeps.next |
      exact Keeps.fault | split | apply State.portWire_kept | (refine Keeps.all_plain hm ?_)

theorem execDbgPortStat_kept {k : Kept} (c : PortCmd) (s : State) (hk : State.Keeps k s) (hm : k.All) :
    State.KeepsOut k (execDbgPortStat c s) := by
  unfold execDbgPortStat
  with_reducible repeat' first
    | exact hk | assumption | exact hm.regs | exact hm.one _ | exact hm.sub | apply Keeps.next |
      exact Keeps.fault | apply State.portWire_kept | (refine Keeps.all_plain hm ?_)

theorem execDbgSpaceWrite_kept {k : Kept} (c : PortCmd) (s : State) (hk : State.Keeps k s) (hm : k.All) :
    State.KeepsOut k (execDbgSpaceWrite c s) := by
  unfold execDbgSpaceWrite
  with_reducible repeat' first
    | exact hk | assumption | exact hm.regs | exact hm.one _ | exact hm.sub | apply Keeps.next |
      exact Keeps.fault | apply State.portWire_kept | (refine Keeps.all_plain hm ?_)

theorem execDbgAddrWrite_kept {k : Kept} (c : PortCmd) (s : State) (hk : State.Keeps k s) (hm : k.All) :
    State.KeepsOut k (execDbgAddrWrite c s) := by
  unfold execDbgAddrWrite
  with_reducible repeat' first
    | exact hk | assumption | exact hm.regs | exact hm.one _ | exact hm.sub | apply Keeps.next |
      exact Keeps.fault | apply State.portWire_kept | (refine Keeps.all_plain hm ?_)

theorem execDbgData_kept {k : Kept} (c : PortCmd) (s : State) (hk : State.Keeps k s) (hm : k.All) :
    State.KeepsOut k (execDbgData c s) := by
  unfold execDbgData
  with_reducible repeat' first
    | exact hk | assumption | exact hm.regs | exact hm.one _ | exact hm.sub | apply Keeps.next |
      exact Keeps.fault | apply State.portWire_kept | (refine Keeps.all_plain hm ?_)

theorem execDbgDataInc_kept {k : Kept} (c : PortCmd) (s : State) (hk : State.Keeps k s) (hm : k.All) :
    State.KeepsOut k (execDbgDataInc c s) := by
  unfold execDbgDataInc
  with_reducible repeat' first
    | exact hk | assumption | exact hm.regs | exact hm.one _ | exact hm.sub | apply Keeps.next |
      exact Keeps.fault | apply State.portWire_kept | (refine Keeps.all_plain hm ?_)

theorem execDbgAccessDone_kept {k : Kept} (monitor : Bool) (s : State) (hk : State.Keeps k s) (hm : k.All) :
    State.KeepsOut k (execDbgAccessDone monitor s) := by
  unfold execDbgAccessDone
  with_reducible repeat' first
    | exact hk | assumption | exact hm.regs | exact hm.one _ | exact hm.sub | extract_lets | apply Keeps.next |
      exact Keeps.fault | split | apply State.runAccess_kept | (refine Keeps.fst (by assumption) ?_) |
      (refine Keeps.snd (by assumption) ?_) | (dsimp -zeta only) | apply Keeps.of_fst | apply Keeps.of_snd |
      apply Keeps.pair | apply Keeps.pair' | (refine Keeps.all_plain hm ?_)

theorem execDbgResync_kept {k : Kept} (s : State) (hk : State.Keeps k s) :
    State.KeepsOut k (execDbgResync s) := by
  unfold execDbgResync
  with_reducible repeat' first
    | exact hk | assumption | apply Keeps.next | exact Keeps.fault

theorem execMonitorRequest_kept {k : Kept} (reg : BitVec 4) (write tag pending : Bool) (data : Word) (s : State)
    (hk : State.Keeps k s) (hm : k.All) :
    State.KeepsOut k (execMonitorRequest reg write tag pending data s) := by
  unfold execMonitorRequest
  with_reducible repeat' first
    | exact hk | assumption | exact hm.regs | exact hm.one _ | exact hm.sub | extract_lets | apply Keeps.next |
      exact Keeps.fault | split | apply State.portCommand_kept | apply State.send_kept |
      (refine Keeps.fst (by assumption) ?_) | (refine Keeps.snd (by assumption) ?_) | (dsimp -zeta only) |
      apply Keeps.of_fst | apply Keeps.of_snd | apply Keeps.pair | apply Keeps.pair' |
      (refine Keeps.all_plain hm ?_)

end Sys2Proof.Machine
end

