-- ==== Sys2Proof/Tests/Slice0.lean ====
section
/-! SUPPORT. Tests/Slice0.lean: a state and operands that meet the hypotheses of every statement, the checks of WellFormed
on ill-formed commands, and worked examples of the specification. -/
namespace Sys2Proof.Machine
set_option maxRecDepth 4000

theorem test_StepRunsTheFrontCommand_hypotheses :
    ({ State.reset with pending := [.vinUndervoltage, .vinRising] } : State).pending = .vinUndervoltage :: [.vinRising] := rfl

theorem test_IdleStepIsARootCycle_hypotheses :
    (let s : State := State.reset
     s.pending = [] ∧ s.get F.CLK_STATUS_root_state = Root.START) ∧
    (let s : State := State.reset.put F.CLK_STATUS_root_state 1
     s.pending = [] ∧ s.get F.CLK_STATUS_root_state ≠ Root.START) := by decide

theorem test_ResetLeavesTheSpecifiedValues_hypotheses : 511 < 512 ∧ 255 < 256 := by decide

theorem test_EveryStepKeepsTheState_hypotheses :
    (let s : State := State.reset
     let t : State := State.reset
     s.kept = true ∧ step s = .next t) := ⟨by decide, rfl⟩

theorem test_NoCommandTouchesTheQueue_hypotheses :
    (let s : State := { State.reset with pending := [.vinRising] }
     exec (.dbgResync) s = .next s) := rfl

theorem test_CommandsChangeOnlyTheirParts_hypotheses :
    (let s : State := State.reset.put F.CLK_STATUS_root_state 1
     exec (.clockGate 0) s = .next s) := rfl

theorem test_EveryWellFormedCommandCompletes_hypotheses : (Instr.outCtrlWrite .bar0 6 0).wf = true := by decide

/-- A small state or operand for the hypotheses of the Supplies commands. -/
def wSup : State := { State.reset with boot := { ready := true } }
/-- A small state or operand for the hypotheses of the Supplies commands. -/
def wSleep : State := { State.reset with boot := { ready := true } }.put F.PWR_DEV_STATUS_state V.PWR_DEV_STATUS_state_SLEEP

/-- The hypotheses of every clause of `Obligations.SupplyLossCommandsComplete` can be met. -/
theorem test_SupplyLossCommandsComplete_hypotheses :
    (let s : State := wSup
     s.dead = false) ∧
    (let s : State := wSup
     s.dead = false) ∧
    (let s : State := wSup
     s.dead = false) ∧
    (let s : State := wSup
     s.dead = false) ∧
    (let s : State := { wSup with sup := { loss := some .thermal } }
     let x : LossCause := .thermal
     s.sup.loss = some x ∧ s.sup.committed = false) ∧
    (let s : State := { wSup with sup := { loss := some .thermal, committed := true } }
     s.sup.loss.isSome = true ∧ s.sup.committed = true ∧ s.sup.gpfDone = false) ∧
    (let s : State := { wSup with sup := { loss := some .thermal, committed := true } }
     s.sup.loss.isSome = true) := by
  refine ⟨?_, ?_, ?_, ?_, ?_, ?_, ?_⟩
  all_goals decide

/-- The hypotheses of every clause of `Obligations.SupplyAndWakeCommandsComplete` can be met. -/
theorem test_SupplyAndWakeCommandsComplete_hypotheses :
    (True) ∧
    (let s : State := { wSleep with sup := { suppliesLost := true } }
     s.sup.loss = none ∧ s.sup.suppliesLost = true ∧ s.asleepNow = true) ∧
    (let s : State := wSup
     let u : State := s.put F.PWR_SUPPLY_STATUS_vaux_ok 0
     u = s.put F.PWR_SUPPLY_STATUS_vaux_ok 0 ∧
     u.asleepNow = false) ∧
    (True) ∧
    (let s : State := wSup
     let rail : BitVec 5 := 15
     rail.toNat ≤ 16 ∧ s.dead = false ∧
     s.get F.PWR_RAIL_STATUS_phases_failed rail.toNat = 0 ∧ 1 ≤ s.get F.PWR_RAIL_STATUS_phases_total rail.toNat) ∧
    (let s : State := wSleep.put F.PWR_WAKE_CFG_wake_n_en 1
     s.on F.PWR_WAKE_CFG_wake_n_en = true ∧
     s.canWake = true ∧ s.pwr.off = false) ∧
    (let s : State := (wSleep.put F.PWR_WAKE_CFG_gio_en 128).put F.GIO_PIN_CFG_function 6 7
     let pin : BitVec 3 := 7
     let rising : Bool := false
     bit (s.get F.PWR_WAKE_CFG_gio_en) pin.toNat = true ∧ bit (s.get F.PWR_WAKE_CFG_gio_edge) pin.toNat = rising ∧
     s.get F.GIO_PIN_CFG_function pin.toNat = 6 ∧
     s.canWake = true ∧ s.pwr.off = false) ∧
    (let s : State := (wSleep.put F.GIO_SMB_CFG_address 0x42).put F.PWR_WAKE_CFG_smbus_en 1
     let addr : BitVec 7 := 0x42
     s.get F.GIO_SMB_CFG_address = addr.toNat ∧ s.on F.PWR_WAKE_CFG_smbus_en = true ∧
     s.canWake = true ∧ s.pwr.off = false ∧ s.pwr.deep = false ∧
     s.devState = V.PWR_DEV_STATUS_state_SLEEP ∧ s.pwr.request = none) ∧
    (let s : State := wSleep.put F.PWR_WAKE_CFG_host_en 1
     s.on F.PWR_WAKE_CFG_host_en = true ∧
     s.canWake = true ∧ s.pwr.off = false ∧ s.pwr.request = none) ∧
    (let s : State := (wSleep.put F.PWR_WAKE_CFG_timer_en 1).setPair Reg.PWR_WAKE_AT_LO Reg.PWR_WAKE_AT_HI 80
     let u : State := s.advanceTo (s.pair Reg.PWR_WAKE_AT_LO Reg.PWR_WAKE_AT_HI / 8 * 8)
     s.on F.PWR_WAKE_CFG_timer_en = true ∧ s.dead = false ∧
     u = s.advanceTo (s.pair Reg.PWR_WAKE_AT_LO Reg.PWR_WAKE_AT_HI / 8 * 8) ∧
     u.canWake = true ∧ u.pwr.off = false ∧ u.pwr.request = none) ∧
    (let s : State := { wSup with pwr := { request := some { target := 2, desc := none, committed := true } } }
     let r : DevRequest := { target := 2, desc := none, committed := true }
     s.pwr.request = some r ∧ r.committed = true ∧ r.target = 2 ∧
     s.pwr.wake = none) ∧
    (let s : State :=
         { wSup.put F.PWR_DOMAIN_STATUS_state 0 323 with pwr := { request := some { target := 0, desc := none, committed := true } } }
     let r : DevRequest := { target := 0, desc := none, committed := true }
     s.pwr.request = some r ∧ r.committed = true ∧ r.target = 0 ∧
     s.pwr.wake = none ∧
     s.domOn (domPair 0) = true ∧
     ((upTo 471).all (fun n => s.dom n != V.PWR_DOMAIN_STATUS_state_ENTERING) = true)) := by
  refine ⟨?_, ?_, ?_, ?_, ?_, ?_, ?_, ?_, ?_, ?_, ?_, ?_⟩
  all_goals decide

/-- A small state or operand for the hypotheses of the Boot commands. -/
def wStart (ns : List Nat) : State := { State.reset with boot := { active := ns } }

/-- The hypotheses of every clause of `Obligations.StartCommandsComplete` can be met. -/
theorem test_StartCommandsComplete_hypotheses :
    (let s : State := wStart [3, 4]
     let r : StepResult := { micros := 9 }
     s.dead = false ∧ 4 ∈ s.boot.active ∧
     r.cause ≠ 6) ∧
    (let s : State := wStart [3, 15]
     s.dead = false ∧ 15 ∈ s.boot.active) ∧
    (let s : State := wStart [16]
     s.dead = false ∧ 16 ∈ s.boot.active) ∧
    (let s : State := wStart [16]
     let step : BitVec 5 := 16
     s.dead = false ∧ step.toNat ≠ 3 ∧ step.toNat ∈ s.boot.active) ∧
    (let s : State := wStart [16]
     s.dead = false ∧ s.boot.ready = false ∧ s.boot.halted = false) ∧
    (let s : State := wStart []
     s.dead = false) ∧
    (let s : State := (wStart [3, 4]).put F.HIF_LINK_STATUS_perst_n 1
     s.dead = false ∧ 3 ∈ s.boot.active ∧ s.on F.HIF_LINK_STATUS_perst_n = true) ∧
    (let s : State := { (wStart []).put F.HIF_LINK_STATUS_perst_n 1 with boot := { endedS03 := true } }
     s.dead = false ∧ s.hostless = false ∧ s.boot.endedS03 = true ∧
     s.on F.HIF_LINK_STATUS_perst_n = true ∧
     s.get F.HIF_LINK_STATUS_state ≠ V.HIF_LINK_STATUS_state_UP) ∧
    (let s : State := { State.reset with boot := { ready := true } }
     let p : Path := .bar0
     s.writable p Reg.BOOT_CTRL 0 0 0 0x51400008#32 = true ∧
     (s.someLane (fun _ => true) = false)) ∧
    (let s : State :=
         { State.reset with boot := { ready := true, fwRunning := 2 }, colo := { slots := [(1, { state := 2, rollback := 9 })] } }
     let p : Path := .bar0
     s.writable p Reg.BOOT_CTRL 0 0 0 0x80#32 = true ∧
     s.boot.ready = true ∧ 1 < s.boot.fwRunning ∧
     s.colo.fuseRollback < (Tbl.get {} s.colo.slots (s.boot.fwRunning - 1)).rollback) ∧
    (let s : State := { State.reset with boot := { ready := true } }
     let p : Path := .bar0
     s.writable p Reg.BOOT_CTRL 0 0 0 0x40#32 = true) ∧
    (let s : State := { State.reset with boot := { ready := true } }
     let p : Path := .bar0
     let v : Word := 1
     s.writable p Reg.BOOT_IMAGE_SEL 0 0 0 v = true) := by
  refine ⟨?_, ?_, ?_, ?_, ?_, ?_, ?_, ?_, ?_, ?_, ?_, ?_⟩
  all_goals decide


/-- The hypotheses of every clause of `Obligations.ClockCommandsComplete` can be met. -/
theorem test_ClockCommandsComplete_hypotheses :
    (let s : State := (((State.reset.put F.CLK_CAND_enable 1 1).put F.CLK_STATUS_mems_ok 1).put
         F.CLK_QUAL_CFG_window_ppm 100)
     let n : BitVec 2 := 1
     let offset : BitVec 16 := 0xFC17
     s.on F.CLK_CAND_enable n.toNat = true ∧
     s.on F.CLK_STATUS_mems_ok = true ∧
     10 * s.get F.CLK_QUAL_CFG_window_ppm < offset.toInt.natAbs) ∧
    (let s : State := ((State.reset.put F.CLK_CAND_enable 1 3).put F.CLK_STATUS_mems_ok 1)
     let n : BitVec 2 := 3
     s.on F.CLK_CAND_enable n.toNat = true ∧
     s.on F.CLK_STATUS_mems_ok = true) ∧
    (let s : State := (State.reset.put F.CLK_STATUS_root_state 1)
     s.get F.CLK_STATUS_active_source = srcMems ∧
     s.get F.CLK_STATUS_root_state ≠ Root.START) ∧
    (let s : State := (State.reset.put F.CLK_STATUS_root_state 1)
     s.get F.CLK_STATUS_root_state ≠ Root.NO_REFERENCE) ∧
    (let s : State := ((State.reset.put F.CLK_STATUS_root_state 1).put F.CLK_STATUS_active_source 1536)
     s.get F.CLK_STATUS_root_state = Root.LOCKED ∧
     s.get F.CLK_STATUS_active_source ≠ srcMems) ∧
    (let s : State := ((State.reset.put F.CLK_STATUS_root_state 2).put F.CLK_STATUS_mems_ok 1)
     let src : Nat := 0
     s.get F.CLK_STATUS_root_state = Root.HOLDOVER ∧
     s.fallback = some src) ∧
    (let s : State :=
         ({ (((State.reset.put F.CLK_STATUS_root_state 1).put F.CLK_STATUS_active_source 1536).put F.CLK_STATUS_mems_ok 1) with boot := { ready := true } })
     let p : Path := .bar0
     let v : Word := 0
     s.writable p Reg.CLK_REF_CTRL 0 0 0 (v ||| 0x1000#32) = true ∧
     bits v.toNat 10 0 = srcMems ∧
     s.on F.CLK_STATUS_mems_ok = true ∧
     s.on F.CLK_STATUS_ring_member = false ∧
     s.get F.CLK_STATUS_root_state = Root.LOCKED ∧
     s.get F.CLK_STATUS_active_source ≠ srcMems) ∧
    (let s : State := (State.reset.put F.CLK_STATUS_root_state 3)
     s.get F.CLK_STATUS_root_state = Root.SWITCHING ∧
     s.get F.BRY_RING_STATUS_role ≠ V.BRY_RING_CFG_role_MEMBER ∧
     s.clk.target < 2048) ∧
    (let s : State :=
         ({ (((State.reset.put F.CLK_STATUS_root_state 1).put F.CLK_REF_CTRL_revert V.CLK_REF_CTRL_revert_AUTO).put F.CLK_STATUS_mems_ok 1) with clk := { reverting := true, revertGates := 1000 } })
     s.get F.CLK_REF_CTRL_revert = V.CLK_REF_CTRL_revert_AUTO ∧
     s.clk.reverting = true ∧
     1000 ≤ s.clk.revertGates ∧
     s.srcReady (s.get F.CLK_REF_CTRL_req_source) = true ∧
     s.get F.CLK_STATUS_root_state = Root.LOCKED) ∧
    (let s : State := ({ State.reset.put F.CLK_CAND_source 1536 2 with boot := { ready := true } })
     let p : Path := .bar0
     let n : BitVec 2 := 2
     let v : Word := 1536
     s.writable p Reg.CLK_CAND n.toNat 0 0 v = true ∧
     srcLegal (bits v.toNat 10 0) = true ∧
     srcKind (bits v.toNat 10 0) ≠ 0 ∧
     bit v.toNat 31 = false ∧
     s.on F.CLK_CAND_enable n.toNat = false ∧
     s.get F.CLK_CAND_source n.toNat = bits v.toNat 10 0) ∧
    (let s : State := ({ State.reset with boot := { ready := true } })
     let p : Path := .management
     let n : BitVec 5 := 31
     let v : Word := 8
     s.writable p Reg.CLK_GLOBAL_DIV n.toNat 0 0 v = true) ∧
    (let s : State := ({ State.reset with boot := { ready := true } })
     let p : Path := .bar0
     let n : Nat := 6
     let v : Word := 250000
     3 ≤ n ∧ n < 7 ∧
     s.writable p Reg.CLK_OUT_CTRL n 0 0 v = true ∧
     1000 ≤ bits v.toNat 17 0 ∧ bits v.toNat 17 0 ≤ 250000 ∧
     bits v.toNat 30 29 = 0) ∧
    (let s : State := ({ State.reset with boot := { ready := true } })
     let p : Path := .bar0
     let v : Word := 0x800000
     s.writable p Reg.CLK_FREQ_ADJ 0 0 0 v = true ∧
     s.on F.CLK_STATUS_ring_member = false) ∧
    (let s : State := (State.reset.put F.GIO_PIN_CFG_function 4 191)
     let pin : Nat := 191
     pin < 192 ∧
     s.get F.GIO_PIN_CFG_function pin = 4) := by
  refine ⟨?_, ?_, ?_, ?_, ?_, ?_, ?_, ?_, ?_, ?_, ?_, ?_, ?_, ?_⟩
  all_goals decide


/-- The hypotheses of every clause of `Obligations.TimebaseCommandsComplete` can be met. -/
theorem test_TimebaseCommandsComplete_hypotheses :
    (let s : State := ({ State.reset with boot := { ready := true } })
     let p : Path := .bar0
     s.writable p Reg.CLK_TIME_CMD 0 0 0 1#32 = true ∧
     s.on F.CLK_STATUS_ring_member = false ∧ s.ringMaster = false) ∧
    (let s : State := ({ State.reset with boot := { ready := true } })
     let p : Path := .bar0
     s.writable p Reg.CLK_TIME_CMD 0 0 0 17#32 = true ∧
     s.on F.CLK_STATUS_ring_member = false ∧ s.ringMaster = false) ∧
    (let s : State :=
         { ({ State.reset with boot := { ready := true } }) with clk := { pending := some { step := true, value := 8, at? := none } } }
     let p : Path := .bar0
     s.writable p Reg.CLK_TIME_CMD 0 0 0 33#32 = true ∧
     s.clk.pending.isSome = true) ∧
    (let s : State :=
         { ({ State.reset with boot := { ready := true } }) with clk := { pending := some { step := true, value := 8, at? := none } } }
     let r : TimeReq := { step := true, value := 8, at? := none }
     let x : Nat := 8
     s.clk.pending = some r ∧
     r.at? = none ∧
     r.target s.now = some x ∧
     s.now ≤ x) := by
  refine ⟨?_, ?_, ?_, ?_⟩
  all_goals decide

/-- A small state or operand for the hypotheses of the Fabric commands. -/
def wFab (n st : Nat) : State := ({ State.reset with boot := { ready := true } }.put F.PWR_DOMAIN_STATUS_state 0 (16 + n)).put F.FAB_SECT_STATUS_state st n

/-- The hypotheses of every clause of `Obligations.FabricCommandsComplete` can be met. -/
theorem test_FabricCommandsComplete_hypotheses :
    (let s : State := wFab 254 0
     let d : Desc := ({ tenant := 0, tag := 7 })
     let length : Word := 64
     let row : BitVec 8 := 1
     let col : BitVec 8 := 0xFF
     let map : BitVec 256 := 0x800000000000000000000000000000000000000000000000000000000000
     let ns : List Nat := [254]
     s.admits d = true ∧ d.readFail = false ∧
     (bitsOf 256 map.toNat).map (relocate (sext 8 row.toNat) (sext 8 col.toNat)) = ns.map some ∧
     -15 ≤ sext 8 row.toNat ∧ sext 8 row.toNat ≤ 15 ∧ -15 ≤ sext 8 col.toNat ∧ sext 8 col.toNat ≤ 15 ∧ length ≠ 0 ∧
     (∀ n ∈ ns, s.sectHolder n = d.tenant.toNat ∧ s.domOn (domSection n) = true ∧ (s.sect n = Sec.EMPTY ∨ s.sect n =
         Sec.LOADED))) ∧
    (let s : State :=
         { wFab 0 0 with fab := { loads := [{ desc := ({ tenant := 0, tag := 7 }), sections := [0], auto := false }] } }
     let l : FabLoad := { desc := ({ tenant := 0, tag := 7 }), sections := [0], auto := false }
     let r : List FabLoad := []
     s.fab.loads = l :: r) ∧
    (let s : State :=
         { wFab 3 Sec.LOADING with fab := { loads := [{ desc := ({ tenant := 0, tag := 7 }), sections := [3], auto := false, engine := true }] } }
     let l : FabLoad := { desc := ({ tenant := 0, tag := 7 }), sections := [3], auto := false, engine := true }
     let r : List FabLoad := []
     s.fab.loads = l :: r ∧ l.engine = true ∧
     (∀ n ∈ l.sections, s.sect n = Sec.LOADING) ∧
     l.auto = false) ∧
    (let s : State := wFab 255 Sec.LOADED
     let d : Desc := ({ tenant := 0, tag := 7 })
     let sec : BitVec 8 := 255
     s.admits d = true ∧
     s.sectHolder sec.toNat = d.tenant.toNat ∧ s.domOn (domSection sec.toNat) = true ∧
     s.sect sec.toNat = Sec.LOADED) ∧
    (let s : State := wFab 255 Sec.RELEASING
     let sec : BitVec 8 := 255
     s.sect sec.toNat = Sec.RELEASING) ∧
    (let s : State := wFab 255 Sec.RUNNING
     let d : Desc := ({ tenant := 0, tag := 7 })
     let sec : BitVec 8 := 255
     s.admits d = true ∧
     s.sectHolder sec.toNat = d.tenant.toNat ∧ s.domOn (domSection sec.toNat) = true ∧
     s.sect sec.toNat = Sec.RUNNING) ∧
    (let s : State := wFab 255 Sec.STOPPING
     let sec : BitVec 8 := 255
     s.sect sec.toNat = Sec.STOPPING) ∧
    (let s : State := wFab 255 Sec.LOADED
     let d : Desc := ({ tenant := 0, tag := 7 })
     let sec : BitVec 8 := 255
     s.admits d = true ∧
     s.sectHolder sec.toNat = d.tenant.toNat ∧ s.domOn (domSection sec.toNat) = true ∧
     s.sect sec.toNat = Sec.LOADED) ∧
    (let s : State :=
         { (wFab 3 Sec.RUNNING).put F.FAB_RCLK_CTRL_enable 1 3 2 with fab := { cells := [(65536 * 3 + 65535, { lut := 8, clock := 2 })] } }
     let sec : BitVec 8 := 3
     let clock : BitVec 4 := 2
     let cell : BitVec 16 := 65535
     let g : CellCfg := { lut := 8, clock := 2 }
     s.sectRuns sec.toNat = true ∧ s.on F.FAB_RCLK_CTRL_enable sec.toNat clock.toNat = true ∧
     g = Tbl.get {} s.fab.cells (65536 * sec.toNat + cell.toNat) ∧
     g.clock = clock ∧ g.falling = false ∧ g.link = false ∧ g.mode ≠ 2) ∧
    (let s : State :=
         { (wFab 3 Sec.RUNNING).put F.FAB_RCLK_CTRL_enable 1 3 0 with fab := { slice := [(32 * 3 + 31, { a := 5, b := 7, op := 0, ce := true, x := 35, acc := 1 })] } }
     let sec : BitVec 8 := 3
     let clock : BitVec 4 := 0
     let sl : BitVec 5 := 31
     let g : SliceCfg := {}
     s.sectRuns sec.toNat = true ∧ s.on F.FAB_RCLK_CTRL_enable sec.toNat clock.toNat = true ∧
     g = Tbl.get {} s.fab.slices (32 * sec.toNat + sl.toNat) ∧
     g.clock = clock ∧ sl ≠ 0) ∧
    (let s : State := { wFab 3 Sec.RUNNING with fab := { mem := [(memKey 3 65 32767, 77)] } }
     let sec : BitVec 8 := 3
     let mem : BitVec 7 := 65
     let addr : BitVec 15 := 32767
     let strike : BitVec 47 := 0
     s.sectRuns sec.toNat = true ∧ memWord mem.toNat addr.toNat = true ∧
     popCount 47 ((s.memAt (memKey sec.toNat mem.toNat addr.toNat)).2 ^^^ strike.toNat) = 0) ∧
    (let s : State := wFab 3 Sec.RUNNING
     let w : MemWrite :=
         { sect := 3, mem := 63, portB := false, addr := 1023, data := 5, meet := 0, other := 0, scrub := false, inject := false }
     s.sectRuns w.sect.toNat = true ∧ w.mem.toNat < 64 ∧ w.addr.toNat < 1024 ∧
     w.meet = 0 ∧ w.inject = false ∧
     w.portB = false ∧ (Tbl.get (0, 0) s.fab.ports (66 * w.sect.toNat + w.mem.toNat)).1 = 0) ∧
    (let s : State := wFab 3 Sec.RUNNING
     let w : MemWrite :=
         { sect := 3, mem := 65, portB := true, addr := 32767, data := 5, meet := 0, other := 0, scrub := false, inject := false }
     s.sectRuns w.sect.toNat = true ∧ 64 ≤ w.mem.toNat ∧ w.mem.toNat < 66 ∧
     w.meet = 0 ∧ w.inject = false) ∧
    (let s : State :=
         { (wFab 3 Sec.LOADED).put F.FAB_MEM_CTRL_scrub_enable 1 3 with fab := { mem := [(memKey 3 65 32767, 77)], scrub := [(3, 32767)] } }
     let sec : BitVec 8 := 3
     s.on F.FAB_MEM_CTRL_scrub_enable sec.toNat = true ∧ s.domOn (domSection sec.toNat) = true ∧
     Sec.LOADED ≤ s.sect sec.toNat ∧ s.sect sec.toNat ≤ Sec.STOPPING ∧
     (∀ p ∈ s.fab.mem, p.2 < 2 ^ 40)) ∧
    (let s : State := wFab 3 Sec.LOADED
     let p : Path := .bar0
     let sec : BitVec 8 := 3
     let v : Word := 0xA05C7FFF
     s.writable p Reg.FAB_MEM_INJECT sec.toNat 0 0 v = true ∧
     memWord (bits v.toNat 29 23) (bits v.toNat 14 0) = true ∧ bits v.toNat 22 17 ≤ 46 ∧
     bit v.toNat 31 = true ∧ bit v.toNat 16 = false ∧ s.sectHolder sec.toNat = 0) ∧
    (let s : State := wFab 255 Sec.LOADED
     let p : Path := .bar0
     let sec : BitVec 8 := 255
     let k : BitVec 4 := 15
     let v : Word := 0x80000003
     s.writable p Reg.FAB_RCLK_CTRL sec.toNat k.toNat 0 v = true) ∧
    (let s : State := wFab 255 Sec.RUNNING
     let sec : BitVec 8 := 255
     s.sectRuns sec.toNat = true) ∧
    (let s : State := (wFab 255 Sec.RUNNING).put F.FAB_RCLK_STATUS_pending 0x8001 255 |>.put F.CLK_GLOBAL_DIV_enable
         1 0
     let sec : BitVec 8 := 255
     let k : BitVec 4 := 15
     let p : Nat := 0x8001
     p = s.get F.FAB_RCLK_STATUS_pending sec.toNat ∧
     bit p k.toNat = true ∧ s.on F.CLK_GLOBAL_DIV_enable (s.rclkInput sec.toNat k.toNat) = true) := by
  refine ⟨?_, ?_, ?_, ?_, ?_, ?_, ?_, ?_, ?_, ?_, ?_, ?_, ?_, ?_, ?_, ?_, ?_, ?_⟩
  all_goals decide

/-- A small state or operand for the hypotheses of the Lanes commands. -/
def wSect : State := ({ State.reset with boot := { ready := true } }).put F.PWR_DOMAIN_STATUS_state 0 15

/-- The hypotheses of every clause of `Obligations.LaneCommandsComplete` can be met. -/
theorem test_LaneCommandsComplete_hypotheses :
    (let s : State := wSect
     let p : Path := .bar0
     let lane : BitVec 9 := 511
     let v : Word := 0
     let l : Nat := 511
     l = lane.toNat ∧
     s.writable p Reg.LANE_CTRL l 0 0 (v ||| 0x80000000#32) = true ∧
     s.on F.LANE_CTRL_enable l = false ∧
     s.rateOk l = true ∧
     s.octetConflict l = false ∧
     s.laneState l = Ln.DISABLED ∧
     (s.lane l).probe = none) ∧
    (let s : State := wSect.put F.LANE_CTRL_enable 1 511
     let p : Path := .bar0
     let lane : BitVec 9 := 511
     let v : Word := 0
     let l : Nat := 511
     l = lane.toNat ∧
     s.writable p Reg.LANE_CTRL l 0 0 (v &&& 0x7FFFFFFF#32) = true ∧
     s.on F.LANE_CTRL_enable l = true ∧
     s.get F.CLK_STATUS_active_source ≠ 512 + l) ∧
    (let s : State := State.reset.put F.LANE_OCT_STATUS_retuning 1 63
     let o : BitVec 6 := 63
     s.on F.LANE_OCT_STATUS_retuning o.toNat = true ∧
     ((upTo 8).all (fun j => s.laneState (8 * o.toNat + j) != Ln.SIGNAL_WAIT) = true)) ∧
    (let s : State := State.reset.put F.LANE_OCT_STATUS_spare_ok 1 63
     let o : BitVec 6 := 63
     let run : Nat := 0
     run = s.get F.LANE_OCT_STATUS_running o.toNat ∧
     s.on F.LANE_OCT_STATUS_spare_ok o.toNat = true ∧
     s.on F.LANE_OCT_STATUS_a_failed o.toNat = false ∧ s.on F.LANE_OCT_STATUS_b_failed o.toNat = false ∧
     ((upTo 8).any (fun j => s.on F.LANE_CTRL_enable (8 * o.toNat + j)) = false)) ∧
    (let s : State := (State.reset.put F.LANE_OCT_STATUS_spare_ok 1 63).put F.LANE_OCT_STATUS_a_failed 1 63
     let o : BitVec 6 := 63
     s.octetSwitching (8 * o.toNat) = true ∧
     ((upTo 8).all (fun j => (s.laneMembers (8 * o.toNat + j) false).isEmpty) = true)) ∧
    (let s : State := State.reset.put F.LANE_OCT_STATUS_spare_ok 1 63
     let o : BitVec 6 := 63
     let spare : Nat := 1
     spare = 1 - s.get F.LANE_OCT_STATUS_running o.toNat ∧
     s.on F.LANE_OCT_STATUS_spare_ok o.toNat = true ∧
     s.octetSwitching (8 * o.toNat) = false) ∧
    (let s : State := State.reset
     let lane : BitVec 9 := 511
     let cause : Nat := 5
     2 ≤ cause ∧ cause ≤ 5 ∧
     s.laneState lane.toNat ≠ Ln.UNAVAILABLE) ∧
    (let s : State := wSect.put F.LANE_CTRL_enable 1 511
     let p : Path := .management
     let lane : BitVec 9 := 511
     let v : Word := 0x0030000F
     s.writable p Reg.LANE_TX_FIR lane.toNat 0 0 v = true ∧
     bits v.toNat 3 0 + bits v.toNat 13 8 + bits v.toNat 20 16 ≤ 63 ∧
     s.on F.LANE_CTRL_enable lane.toNat = true) ∧
    (True) ∧
    (let s : State := wSect.put F.LANE_RX_EQ_mode V.LANE_RX_EQ_mode_FIXED 511
     let p : Path := .bar0
     let lane : BitVec 9 := 511
     let v : Word := 0x9800007F#32
     let l : Nat := 511
     let sel : Nat := 19
     let lo : Int := -128
     let hi : Int := 127
     l = lane.toNat ∧
     s.writable p Reg.LANE_RX_COEF l 0 0 v = true ∧
     sel = bits v.toNat 31 27 ∧
     coefRange sel = some (lo, hi) ∧
     lo ≤ sext 16 v.toNat ∧ sext 16 v.toNat ≤ hi ∧
     s.get F.LANE_RX_EQ_mode l = V.LANE_RX_EQ_mode_FIXED) ∧
    (let s : State := wSect.put F.LANE_RX_EQ_mode V.LANE_RX_EQ_mode_FIXED 511
     let p : Path := .bar0
     let lane : BitVec 9 := 511
     let v : Word := 0
     s.writable p Reg.LANE_RX_EQ lane.toNat 0 0 v = true ∧
     s.get F.LANE_RX_EQ_mode lane.toNat ≠ V.LANE_RX_EQ_mode_ADAPT) ∧
    (let s : State := State.reset.put F.LANE_STATUS_state 1 511
     let lane : BitVec 9 := 511
     s.laneState lane.toNat = Ln.SIGNAL_WAIT ∧
     s.on F.LANE_OCT_STATUS_retuning (lane.toNat / 8) = false) ∧
    (let s : State := State.reset.put F.LANE_STATUS_state 2 511
     let lane : BitVec 9 := 511
     s.laneState lane.toNat = Ln.ACQUIRING) ∧
    (let s : State := (State.reset.put F.LANE_STATUS_state 3 511).put F.SECT_LANE_CFG_coding 1 15 31
     let lane : BitVec 9 := 511
     s.laneState lane.toNat = Ln.CDR_LOCKED ∧
     s.coding lane.toNat ≠ 0) ∧
    (let s : State := (State.reset.put F.LANE_STATUS_state 4 511)
     let lane : BitVec 9 := 511
     s.laneState lane.toNat = Ln.ALIGNED) ∧
    (let s : State := (State.reset.put F.LANE_STATUS_state 4 511)
     let lane : BitVec 9 := 511
     (s.laneState lane.toNat = Ln.CDR_LOCKED ∨ s.laneState lane.toNat = Ln.ALIGNED)) ∧
    (let s : State := (State.reset.put F.LANE_STATUS_state 4 511)
     let lane : BitVec 9 := 511
     2 ≤ s.laneState lane.toNat ∧ s.laneState lane.toNat ≤ 4 ∧
     s.get F.LANE_CTRL_loop lane.toNat ≠ 1 ∧ s.get F.LANE_CTRL_loop lane.toNat ≠ 2) := by
  refine ⟨?_, ?_, ?_, ?_, ?_, ?_, ?_, ?_, ?_, ?_, ?_, ?_, ?_, ?_, ?_, ?_, ?_⟩
  all_goals decide

/-- The hypotheses of every clause of `Obligations.MeasurementCommandsComplete` can be met. -/
theorem test_MeasurementCommandsComplete_hypotheses :
    (let s : State := (({ wSect with cap := { streams := [(0, { coding := 0 })] } }).put F.CAP_STREAM_STATUS_state 1
         0).put F.CAP_STREAM_STATUS_kind Kind.DIGITIZER 0 |>.put F.LANE_STATUS_state 4 511
     let d : Desc := ({ tenant := 0, tag := 7 })
     let lane : BitVec 16 := 511
     let tap : BitVec 8 := 0
     let cfg : Word := 0
     let span : Word := 0x10000
     let count : Word := 0x10000
     let u : State := ((s.setWord Reg.LANE_DIG_CFG 0 511 0).setWord Reg.LANE_DIG_SPAN 0x10000 511 0).setWord
         Reg.LANE_DIG_COUNT 0x10000 511 0
     let r : State := (u.digStart (.descriptor 0) 511 0 (some ({ tenant := 0, tag := 7 }))).1
     s.admits d = true ∧
     lane.toNat < 512 ∧ tap.toNat ≤ 1 ∧
     s.get F.LANE_STATUS_holder lane.toNat = d.tenant.toNat ∧
     Reg.LANE_DIG_CFG.badValue cfg.toNat = false ∧ Reg.LANE_DIG_SPAN.badValue span.toNat = false ∧
         Reg.LANE_DIG_COUNT.badValue count.toNat = false ∧
     (¬ (tap.toNat = 0 ∧ bits cfg.toNat 29 28 = V.LANE_DIG_CFG_mode_TDR)) ∧
     ((s.lane lane.toNat).dig tap.toNat).isSome = false ∧
     u = ((s.setWord Reg.LANE_DIG_CFG (cfg &&& BitVec.ofNat 32 Reg.LANE_DIG_CFG.rw) lane.toNat tap.toNat).setWord
         Reg.LANE_DIG_SPAN span lane.toNat tap.toNat).setWord Reg.LANE_DIG_COUNT count lane.toNat tap.toNat ∧
     u.digStart (.descriptor d.tenant) lane.toNat tap.toNat (some d) = (r, St.OK)) ∧
    (let s : State :=
         (({ wSect with lanes := [(511, { dig1 := some { unlocked := false, begun := true, number := 0 } })] }).put
         F.CAP_STREAM_STATUS_state 1 0).put F.LANE_DIG_CFG_avg 1 511 1
     let lane : BitVec 9 := 511
     let tap : Bool := true
     let l : Nat := 511
     let k : Nat := 1
     let r : DigRun := { unlocked := false, begun := true, number := 0 }
     l = lane.toNat ∧ k = b2n tap ∧
     (s.lane l).dig k = some r ∧
     r.begun = true ∧
     r.stored < s.digWanted l k ∧
     s.strmState (s.digStream l k) = Strm.ACTIVE ∧
     (r.count + 1 < 2 ^ (if s.get F.LANE_DIG_CFG_mode l k == V.LANE_DIG_CFG_mode_EYE then 0 else 2 * s.get
         F.LANE_DIG_CFG_avg l k))) ∧
    (let s : State :=
         (({ wSect with lanes := [(511, { dig1 := some { unlocked := false, begun := true, number := 0 } })] }).put
         F.CAP_STREAM_STATUS_state 1 0)
     let p : Path := .bar0
     let lane : BitVec 9 := 511
     let tap : Bool := true
     let v : Word := 0
     let l : Nat := 511
     let k : Nat := 1
     l = lane.toNat ∧ k = b2n tap ∧
     s.writable p Reg.LANE_DIG_CFG l k 0 (v ||| 0x40000000#32) = true ∧
     (¬ (k = 0 ∧ bits (v ||| 0x40000000#32).toNat 29 28 = V.LANE_DIG_CFG_mode_TDR)) ∧
     ((s.lane l).dig k).isSome = true) ∧
    (let s : State :=
         ({ wSect with lanes := [(511, { dig1 := some { unlocked := false, begun := true, number := 0, stored := 1 } })] })
     let lane : BitVec 9 := 511
     let tap : Bool := true
     let r : DigRun := { unlocked := false, begun := true, number := 0, stored := 1 }
     (s.lane lane.toNat).dig (b2n tap) = some r ∧
     s.digWanted lane.toNat (b2n tap) ≤ r.stored) ∧
    (let s : State := wSect
     let d : Desc := ({ tenant := 0, tag := 7 })
     let lane : BitVec 16 := 511
     let ctrl : Word := 0x000D0064
     let u : State := s.setWord Reg.LANE_PROBE_CTRL 0x000D0064 511
     let r : State := (u.probeStart 511 (some ({ tenant := 0, tag := 7 }))).1
     s.admits d = true ∧
     lane.toNat < 512 ∧
     s.get F.LANE_STATUS_holder lane.toNat = d.tenant.toNat ∧
     Reg.LANE_PROBE_CTRL.badValue ctrl.toNat = false ∧
     (s.lane lane.toNat).probe = none ∧
     u = s.setWord Reg.LANE_PROBE_CTRL (ctrl &&& BitVec.ofNat 32 Reg.LANE_PROBE_CTRL.rw) lane.toNat ∧
     u.probeStart lane.toNat (some d) = (r, St.OK)) ∧
    (let s : State := ({ wSect with lanes := [(511, { probe := some (1, none) })] })
     let p : Path := .bar0
     let lane : BitVec 9 := 511
     let v : Word := 0x000D0064
     s.writable p Reg.LANE_PROBE_CTRL lane.toNat 0 0 (v ||| 0x40000000#32) = true) ∧
    (let s : State := ({ wSect with lanes := [(511, { probe := some (1, none) })] })
     let lane : BitVec 9 := 511
     let k : Nat := 1
     let d : Option Desc := none
     (s.lane lane.toNat).probe = some (k, d) ∧
     k ≠ 0) ∧
    (let s : State := ({ wSect with lanes := [(511, { probe := some (0, none) })] })
     let lane : BitVec 9 := 511
     let d : Option Desc := none
     (s.lane lane.toNat).probe = some (0, d)) := by
  refine ⟨?_, ?_, ?_, ?_, ?_, ?_, ?_, ?_⟩
  all_goals decide


/-- The hypotheses of every clause of `Obligations.IntakeCommandsComplete` can be met. -/
theorem test_IntakeCommandsComplete_hypotheses :
    (let s : State := State.reset.put F.LANE_STATUS_state 4 511
     let lane : BitVec 9 := 511
     let w : Nat := 2
     s.get F.LANE_STATUS_state lane.toNat = 4 ∧
     s.coding lane.toNat = 0 ∧
     s.get F.LANE_CTRL_loop lane.toNat ≠ 3 ∧
     w = unitWidth 0 (s.pam4 lane.toNat)) ∧
    (let s : State :=
         (({ State.reset with cap := { streams := [(5, { members := [{ lane := 64, run := some { units := [1], start := 8, pos := 0, count := 2 }, gap := some { cause := 1, first := 8 } }], coding := 6 })] } }).put
         F.CAP_STREAM_STATUS_state 1 5)
     let n : BitVec 10 := 5
     let m : BitVec 4 := 0
     let r : Run := { units := [1], start := 8, pos := 0, count := 2 }
     ((s.strm n.toNat).member m.toNat).run = some r ∧
     0 < r.count ∧
     s.strmActive n.toNat = true) ∧
    (let s : State :=
         (({ State.reset with cap := { streams := [(5, { members := [{ lane := 64, run := some { units := [1], start := 8, pos := 0, count := 2 }, gap := some { cause := 1, first := 8 } }], coding := 6 })] } }).put
         F.CAP_STREAM_STATUS_state 1 5)
     let n : BitVec 10 := 5
     let m : BitVec 4 := 0
     let tm : BitVec 64 := 9
     let a : Gap := { cause := 1, first := 8 }
     ((s.strm n.toNat).member m.toNat).gap = some a ∧
     s.strmActive n.toNat = true ∧
     a.first < tm.toNat ∧
     m.toNat < (s.strm n.toNat).members.length) ∧
    (let s : State :=
         (({ State.reset with cap := { streams := [(5, { members := [{ lane := 64, run := some { units := [1], start := 8, pos := 0, count := 2 }, gap := some { cause := 1, first := 8 } }], coding := 6 })] } }).put
         F.CAP_STREAM_STATUS_state 1 5).put F.SECT_LANE_CFG_fec_annotate 1 2 0
     let n : BitVec 10 := 5
     let m : BitVec 4 := 0
     let x : Stream :=
         { members := [{ lane := 64, run := some { units := [1], start := 8, pos := 0, count := 2 }, gap := some { cause := 1, first := 8 } }], coding := 6 }
     x = s.strm n.toNat ∧
     s.strmActive n.toNat = true ∧
     m.toNat < x.members.length ∧
     x.members.length = 1 ∧
     x.coding = 6 ∧
     s.on F.SECT_LANE_CFG_fec_annotate ((x.member m.toNat).lane / 32) ((x.member m.toNat).lane % 32) = true) ∧
    (let s : State :=
         (({ State.reset with cap := { streams := [(5, { members := [{ lane := 64 }], coding := 6 })] } }).put
         F.CAP_STREAM_STATUS_state 1 5).put F.SECT_LANE_CFG_fec_annotate 1 2 0
     let n : BitVec 10 := 5
     let m : BitVec 4 := 0
     let x : Stream := { members := [{ lane := 64 }], coding := 6 }
     x = s.strm n.toNat ∧
     s.strmActive n.toNat = true ∧
     m.toNat < x.members.length ∧
     x.members.length = 1 ∧
     x.coding = 6 ∧
     (x.member m.toNat).run = none ∧
     s.on F.SECT_LANE_CFG_fec_annotate ((x.member m.toNat).lane / 32) ((x.member m.toNat).lane % 32) = true) ∧
    (let s : State :=
         (({ State.reset with cap := { streams := [(0, { members := [{ lane := 480 }, { lane := 481 }] })] }, sectors := [(15, { offsets := [(15, [0, 4096])] })] }).put
         F.SECT_BUNDLE_STATUS_active 1 15 15)
     let sect : BitVec 4 := 15
     let b : BitVec 4 := 15
     let xs : List Nat := [0, 4096]
     let n : Nat := 0
     n = s.get F.SECT_BUNDLE_STATUS_stream sect.toNat b.toNat ∧
     s.on F.SECT_BUNDLE_STATUS_active sect.toNat b.toNat = true ∧
     (s.strm n).deskewed = false ∧
     xs.length = (s.strm n).members.length ∧
     (∀ o ∈ xs, o ≤ 4096) ∧
     Tbl.get [] (Tbl.get {} s.sectors sect.toNat).offsets b.toNat = xs) ∧
    (True) ∧
    (let s : State := State.reset
     let sect : BitVec 4 := 15
     let k : Nat := 3
     let o : Nat := 3
     k < 5 ∧
     bit (s.get F.SECT_INTAKE_STATUS_failed sect.toNat) k = false ∧
     s.sliceOctet sect.toNat k = some o) ∧
    (let s : State := { State.reset with sectors := [(1, { failover := some (2, 3) })] }
     let sect : BitVec 4 := 1
     let k : Nat := 2
     let o : Nat := 3
     (Tbl.get {} s.sectors sect.toNat).failover = some (k, o) ∧
     ((upTo 8).all (fun j => (s.laneMembers (32 * sect.toNat + 8 * o + j) false).isEmpty && (s.laneMembers (32 *
         sect.toNat + 8 * o + j) true).isEmpty) = true)) ∧
    (let s : State := ({ State.reset with boot := { ready := true } }).put F.PWR_DOMAIN_STATUS_state 0 3
     let p : Path := .management
     let sect : BitVec 4 := 3
     let j : BitVec 5 := 31
     let v : Word := 0
     s.writable p Reg.SECT_DESKEW_CFG sect.toNat j.toNat 0 v = true ∧
     s.laneStreamed (32 * sect.toNat + j.toNat) = false) := by
  refine ⟨?_, ?_, ?_, ?_, ?_, ?_, ?_, ?_, ?_, ?_⟩
  all_goals decide

/-- A small state or operand for the hypotheses of the Triggers commands. -/
def wSec1 : State := ({ State.reset with boot := { ready := true } }).put F.PWR_DOMAIN_STATUS_state 0 1

/-- The hypotheses of every clause of `Obligations.TriggerCommandsComplete` can be met. -/
theorem test_TriggerCommandsComplete_hypotheses :
    (let s : State := wSec1
     let p : Path := .bar0
     let sect : BitVec 4 := 1
     let q : BitVec 2 := 3
     let v : Word := 0x800000
     s.writable p Reg.SECT_SEQ_CTRL sect.toNat q.toNat 0 (v ||| 0x80000000#32) = true ∧
     bit v.toNat 30 = false ∧ bit v.toNat 29 = false ∧
     s.armed sect.toNat q.toNat = false ∧
     s.armCause sect.toNat q.toNat = 0) ∧
    (let s : State := wSec1.put F.SECT_SEQ_STATUS_armed 1 1 3
     let p : Path := .bar0
     let sect : BitVec 4 := 1
     let q : BitVec 2 := 3
     let v : Word := 0x800000
     s.writable p Reg.SECT_SEQ_CTRL sect.toNat q.toNat 0 (v ||| 0x40000000#32) = true ∧
     bit v.toNat 31 = false ∧ bit v.toNat 29 = false) ∧
    (let s : State := wSec1
     let p : Path := .bar0
     let sect : BitVec 4 := 1
     let q : BitVec 2 := 3
     let v : Word := 0x800000
     s.writable p Reg.SECT_SEQ_CTRL sect.toNat q.toNat 0 (v ||| 0x20000000#32) = true ∧
     bit v.toNat 31 = false ∧ bit v.toNat 30 = false) ∧
    (let s : State := wSec1.put F.CAP_STREAM_STATUS_state 1 1023
     let d : Desc := ({ tenant := 0, tag := 7 })
     let n : BitVec 16 := 1023
     let code : Word := 0xFFFEFFFF
     s.admits d = true ∧
     n.toNat < 1024 ∧
     s.strmActive n.toNat = true ∧ s.strmHolder n.toNat = d.tenant.toNat ∧
     code.toNat < 0xFFFF0000) ∧
    (let s : State := ({ wSec1 with cap := { ribbons := [(1023, 800, 4, 5, ({ tenant := 0, tag := 7 }))] } }).put
         F.CAP_STREAM_STATUS_state 1 1023
     let n : Nat := 1023
     let tm : Nat := 800
     let code : Nat := 4
     let data : Nat := 5
     let d : Desc := ({ tenant := 0, tag := 7 })
     let r : List (Nat × Nat × Nat × Nat × Desc) := []
     s.cap.ribbons = (n, tm, code, data, d) :: r ∧
     s.strmActive n = true) ∧
    (let s : State :=
         ({ wSec1 with cap := { streams := [(5, { ribbonDq := some 9 })] }, swf := { dq := [(9, { alloc := true, tokens := [0x100000002], consumer := 4, unit := 5 })] } })
     let n : BitVec 10 := 5
     let q : Nat := 9
     let tok : Nat := 0x100000002
     let r : List Nat := []
     (s.strm n.toNat).ribbonDq = some q ∧
     (s.dq q).tokens = tok :: r ∧
     (s.dq q).consumer = 4 ∧ (s.dq q).unit = n.toNat ∧
     tok % 2 ^ 32 < 0xFFFF0000 ∧
     tok / 2 ^ 32 % 2 ^ 64 ≠ 0) ∧
    (let s : State := wSec1
     let p : Path := .bar0
     let n : BitVec 5 := 31
     s.writable p Reg.GIO_TLINE n.toNat 0 0 0x80000000#32 = true) ∧
    (let s : State := ((State.reset.put F.GIO_PIN_CFG_function 1 191).put F.GIO_TRIG_PIN_enable 1 191).put
         F.GIO_TRIG_PIN_edge 2 191
     let pin : Nat := 191
     pin < 192 ∧
     s.get F.GIO_PIN_CFG_function pin = 1 ∧
     s.on F.GIO_TRIG_PIN_enable pin = true ∧
     s.get F.GIO_TRIG_PIN_dir pin = V.GIO_TRIG_PIN_dir_IN ∧
     s.get F.GIO_TRIG_PIN_edge pin = 2 ∧
     Tbl.get 0 s.trigPinHolder pin = s.get F.GIO_TLINE_holder (s.get F.GIO_TRIG_PIN_line pin)) ∧
    (let s : State := State.reset
     let sect : BitVec 4 := 15
     let slot : BitVec 64 := 700
     let t0 : Nat := 640
     t0 = slot.toNat / 64 * 64 ∧
     Tbl.get 0 s.trig.slot sect.toNat ≤ t0 ∧
     s.trig.events = [] ∧
     ((upTo 16).all (fun c => !s.on F.SECT_CNT_CFG_enable sect.toNat c) = true) ∧
     ((upTo 4).all (fun q => !s.armed sect.toNat q) = true)) ∧
    (let s : State := { State.reset with cap := { tokens := [(3, 8, 1)] } }
     let n : Nat := 3
     let tm : Nat := 8
     let u : Nat := 1
     let r : List (Nat × Nat × Nat) := []
     s.cap.tokens = (n, tm, u) :: r) ∧
    (let s : State := { State.reset with trig := { lines := [(31, 64)] } }
     let line : BitVec 5 := 31
     let tm : Nat := 64
     s.trig.lines = [(line.toNat, tm)] ∧
     ((upTo 512).all (fun l => !(s.on F.PRS_LANE_CFG_line_en l && s.get F.PRS_LANE_CFG_line l == line.toNat)) =
         true) ∧
     s.cap.streams = [] ∧
     ((upTo 192).all (fun p => !(s.on F.GIO_TRIG_PIN_enable p)) = true)) ∧
    (let s : State := (State.reset.put F.SECT_TAP_CFG_enable 1 15 3).put F.FAB_SECT_STATUS_state 5 240
     let sect : BitVec 4 := 15
     let tap : BitVec 2 := 3
     s.on F.SECT_TAP_CFG_enable sect.toNat tap.toNat = true ∧
     s.get F.FAB_SECT_STATUS_state (16 * sect.toNat) = Sec.RUNNING ∧
     s.get F.FAB_SECT_STATUS_holder (16 * sect.toNat) = s.seqHolder sect.toNat tap.toNat) ∧
    (let s : State := (State.reset.put F.FAB_SECT_STATUS_state 5 240)
     let sect : BitVec 4 := 15
     let tm : BitVec 64 := 0
     s.get F.FAB_SECT_STATUS_state (16 * sect.toNat) = Sec.RUNNING ∧
     tm.toNat ≤ s.now) := by
  refine ⟨?_, ?_, ?_, ?_, ?_, ?_, ?_, ?_, ?_, ?_, ?_, ?_, ?_⟩
  all_goals decide


/-- The hypotheses of every clause of `Obligations.CaptureCommandsComplete` can be met. -/
theorem test_CaptureCommandsComplete_hypotheses :
    (let s : State := (({ State.reset with cap := { waitList := [3], streams := [(3, { cur := some 9 })] } }).put
         F.CAP_STREAM_STATUS_state 1 3).put F.CAP_STATUS_front_free 1 |>.put F.CAP_QUOTA_FRONT_quires 1 0
     let n : Nat := 3
     let f : Nat := 9
     s.cap.waitList = [n] ∧
     s.get F.CAP_USE_FRONT_value (s.strmHolder n) < s.get F.CAP_QUOTA_FRONT_quires (s.strmHolder n) ∧
     0 < s.frontFree ∧
     (s.strm n).cur = some f ∧
     s.strmState n = Strm.ACTIVE) ∧
    (let s : State :=
         (({ State.reset with cap := { streams := [(1023, { leaf := some { index := 0, strips := [{ type := 1 }] } })] } }).put
         F.CAP_STREAM_STATUS_state 1 1023)
     let n : BitVec 10 := 1023
     let l : OpenLeaf := { index := 0, strips := [{ type := 1 }] }
     (s.strm n.toNat).leaf = some l ∧
     l.strips.isEmpty = false ∧
     s.strmActive n.toNat = true) ∧
    (let s : State := { State.reset with cap := { quires := [(524287, { state := 1, used := 5 })] } }
     let q : BitVec 19 := 524287
     (s.quire q.toNat).state = Qr.OPEN) ∧
    (let s : State := { State.reset with cap := { quires := [(7, { state := 2 })], sealPending := [7] } }
     let q : BitVec 19 := 7
     s.cap.sealPending.contains q.toNat = true) ∧
    (let s : State := ((({ State.reset with cap := { drain := [7], quires := [(7, { state := 2 })] } }).put
         F.CAP_DRAIN_CFG_policy V.CAP_DRAIN_CFG_policy_BALANCED).put F.CAP_TARGET_CAP_value 1 6 |>.put
         F.CAP_QUOTA_DEEP_quires 1 0)
     let b : BitVec 3 := 6
     let q : Nat := 7
     let g : Nat := 6
     s.on F.CAP_DRAIN_CFG_enable = true ∧
     s.get F.CAP_DRAIN_CFG_policy = V.CAP_DRAIN_CFG_policy_BALANCED ∧
     s.drainPick = some q ∧
     b.toNat = g ∧
     1 ≤ g ∧ g ≤ 6 ∧
     s.targetOk g = true) ∧
    (let s : State := { State.reset with cap := { quires := [(7, { state := 3, copy := some (2, 9) })] } }
     let q : BitVec 19 := 7
     let g : Nat := 2
     let f : Nat := 9
     (s.quire q.toNat).copy = some (g, f) ∧
     (s.quire q.toNat).state = Qr.DRAINING) ∧
    (let s : State := { State.reset with cap := { quires := [(7, { state := 3, copy := some (2, 9) })] } }
     let q : BitVec 19 := 7
     (s.quire q.toNat).copy.isSome = true) ∧
    (let s : State := ({ State.reset with boot := { ready := true } })
     let p : Path := .bar0
     let v : Word := 0
     s.writable p Reg.CAP_DRAIN_CFG 0 0 0 v = true) ∧
    (let s : State := ({ State.reset with boot := { ready := true } })
     let p : Path := .bar0
     let deep : Bool := true
     let n : BitVec 8 := 255
     let v : Word := 0
     (s.writable p (if deep then Reg.CAP_QUOTA_DEEP else Reg.CAP_QUOTA_FRONT) n.toNat 0 0 v = true)) := by
  refine ⟨?_, ?_, ?_, ?_, ?_, ?_, ?_, ?_, ?_⟩
  all_goals decide


/-- The hypotheses of every clause of `Obligations.StreamCommandsComplete` can be met. -/
theorem test_StreamCommandsComplete_hypotheses :
    (let s : State := ((({ State.reset with boot := { ready := true } }).put F.CAP_QUOTA_FRONT_quires 5 0).put
         F.CAP_STATUS_front_free 9).put F.PWR_DEV_STATUS_state V.PWR_DEV_STATUS_state_RUN |>.put
         F.MEM_FRONT_STATUS_state 0
     let d : Desc := ({ tenant := 0, tag := 7 })
     let a : StartArgs :=
         ({ kind := 4, flags := 0, trigger := 0, sector := 0, mask := 0, flushUs := 1, ring := 0, post := 0, dqs := [], bounds := [] })
     let n : Nat := 0
     s.admits d = true ∧
     firstFailing (s.startChecks d a) = none ∧
     s.idleStream = some n) ∧
    (let s : State := ({ State.reset with boot := { ready := true } }).put F.CAP_STREAM_STATUS_state 1 1023
     let d : Desc := ({ tenant := 0, tag := 7 })
     let n : BitVec 16 := 1023
     s.admits d = true ∧
     n.toNat < 1024 ∧
     s.strmActive n.toNat = true ∧ s.strmHolder n.toNat = d.tenant.toNat) ∧
    (let s : State := ({ State.reset with boot := { ready := true } }).put F.CAP_STREAM_STATUS_state 3 1023
     let n : BitVec 10 := 1023
     s.dead = false ∧
     s.strmState n.toNat = Strm.STOPPING) ∧
    (let s : State := { State.reset with cap := { quires := [(524287, { state := Qr.RELEASING, used := 5 })] } }
     let q : BitVec 19 := 524287
     (s.quire q.toNat).state = Qr.RELEASING) ∧
    (let s : State :=
         { ({ State.reset with boot := { ready := true } }) with cap := { quires := [(524287, { state := Qr.SEALED, used := 5 })] } }
     let d : Desc := ({ tenant := 0, tag := 7 })
     let q : Word := 524287
     let x : Quire := s.quire 524287
     s.admits d = true ∧
     q.toNat < 524288 ∧
     x = s.quire q.toNat ∧
     x.state ≠ Qr.FREE ∧ x.tenant = d.tenant.toNat) := by
  refine ⟨?_, ?_, ?_, ?_, ?_⟩
  all_goals decide

/-- A small state or operand for the hypotheses of the Reading commands. -/
def wLeaf : State :=
  { State.reset with boot := { ready := true }, cap := { quires := [(7, { state := 2, stream := 5, used := 1, leaves := [(0, { stream := 5 })] })], streams := [(5, { quires := [7] })] } }
/-- A small state or operand for the hypotheses of the Reading commands. -/
def wRead : State := wLeaf.put F.CAP_STREAM_STATUS_state Strm.CLOSED 5

/-- The hypotheses of every clause of `Obligations.ReadingCommandsComplete` can be met. -/
theorem test_ReadingCommandsComplete_hypotheses :
    (let s : State := wRead
     let d : Desc := ({ tenant := 0, tag := 7 })
     let n : BitVec 16 := 5
     let q : Word := 7
     let i : BitVec 16 := 0
     let l : Leaf := { stream := 5 }
     s.admits d = true ∧
     s.leafStatus false d.tenant.toNat n.toNat q.toNat i.toNat = 0 ∧
     (s.quire q.toNat).leaf? i.toNat = some l ∧
     s.leafBroken q.toNat i.toNat = false) ∧
    (let s : State := wRead
     let d : Desc := ({ tenant := 0, tag := 7 })
     let n : BitVec 16 := 5
     let q : Word := 7
     let i : BitVec 16 := 0
     let l : Leaf := { stream := 5 }
     s.admits d = true ∧
     s.leafStatus true d.tenant.toNat n.toNat q.toNat i.toNat = 0 ∧
     (s.quire q.toNat).leaf? i.toNat = some l) ∧
    (let s : State := wRead.put F.CAP_STREAM_STATUS_kind Kind.DEVICE 5
     let d : Desc := ({ tenant := 0, tag := 7 })
     let n : BitVec 16 := 5
     let ring : BitVec 64 := 64
     let slots : Word := 9
     let k : Nat := 0
     s.admits d = true ∧
     d.readFail = false ∧
     n.toNat < 1024 ∧
     s.strmState n.toNat ≠ Strm.IDLE ∧ s.strmHolder n.toNat = d.tenant.toNat ∧ s.strmKind n.toNat = Kind.DEVICE ∧
     slots ≠ 0 ∧ ring.toNat % 64 = 0 ∧
     (findFrom (fun k => (s.sess k).isNone) 32 0 = some k)) ∧
    (let s : State := { wRead with coll := { sessions := [(31, { desc := ({ tenant := 0, tag := 7 }) })] } }
     let d : Desc := ({ tenant := 0, tag := 7 })
     let n : BitVec 8 := 31
     let z : Session := { desc := ({ tenant := 0, tag := 7 }) }
     s.admits d = true ∧
     s.sess n.toNat = some z ∧
     z.desc.tenant = d.tenant) ∧
    (let s : State := { wRead with coll := { sessions := [(31, { desc := ({ tenant := 0, tag := 7 }) })] } }
     let n : BitVec 5 := 31
     let z : Session := { desc := ({ tenant := 0, tag := 7 }) }
     s.sess n.toNat = some z ∧
     s.nextCand z s.brokenLeaves [] = none ∧
     z.follow = false) ∧
    (let s : State := { wRead with coll := { sessions := [(31, { desc := ({ tenant := 0, tag := 7 }) })] } }.put
         F.CAP_SESS_STATUS_state 2 31
     let n : BitVec 5 := 31
     let tail : BitVec 64 := 9
     let z : Session := { desc := ({ tenant := 0, tag := 7 }) }
     let u : State := s.setSess 31 { desc := ({ tenant := 0, tag := 7 }), tail := 9 }
     s.sess n.toNat = some z ∧
     z.dest ≠ 1 ∧
     s.get F.CAP_SESS_STATUS_state n.toNat = 2 ∧
     u = s.setSess n.toNat { z with tail := tail.toNat }) ∧
    (let s : State := wRead
     let d : Desc := ({ tenant := 0, tag := 7 })
     let n : BitVec 16 := 5
     let tm : BitVec 64 := 0
     let q : Nat := 7
     let i : Nat := 0
     let l : Leaf := { stream := 5 }
     let b : Bool := false
     s.admits d = true ∧
     n.toNat < 1024 ∧
     s.strmState n.toNat ≠ Strm.IDLE ∧ s.strmHolder n.toNat = d.tenant.toNat ∧
     s.retained n.toNat ≠ [] ∧
     s.seek n.toNat tm.toNat = some ((q, i, l), b)) ∧
    (let s : State := wRead.put F.CAP_STREAM_STATUS_kind Kind.DEVICE 5
     let d : Desc := ({ tenant := 0, tag := 7 })
     let n : BitVec 16 := 5
     let limit : BitVec 16 := 256
     s.admits d = true ∧
     n.toNat < 1024 ∧
     s.strmState n.toNat ≠ Strm.IDLE ∧ s.strmHolder n.toNat = d.tenant.toNat ∧ s.strmKind n.toNat = Kind.DEVICE ∧
     0 < limit.toNat ∧ limit.toNat ≤ 256 ∧
     ((s.retained n.toNat).all (fun r => (s.quire r.1).ribbons == 0) = true)) ∧
    (let s : State := wRead
     let d : Desc := ({ tenant := 0, tag := 7 })
     let n : BitVec 16 := 5
     s.admits d = true ∧
     n.toNat < 1024 ∧
     s.strmState n.toNat = Strm.CLOSED ∧ s.strmHolder n.toNat = d.tenant.toNat ∧ s.strmKind n.toNat ≠ Kind.PATTERN ∧
     s.coll.sessions = []) := by
  refine ⟨?_, ?_, ?_, ?_, ?_, ?_, ?_, ?_, ?_⟩
  all_goals decide

/-- A small state or operand for the hypotheses of the Press commands. -/
def wPress (w : Nat) (x : PressSt) : State :=
  ({ State.reset with press := [(5, { x with loaded := true, program := [w] })] }).put F.PRS_LANE_STATUS_state 3 5
/-- A small state or operand for the hypotheses of the Press commands. -/
def wLane : State := ({ State.reset with boot := { ready := true } }).put F.PWR_DOMAIN_STATUS_state 0 15
/-- A small state or operand for the hypotheses of the Press commands. -/
def wPressLane : State := { wLane with press := [(511, { loaded := true, program := [0] })] }

/-- The hypotheses of every clause of `Obligations.PressControlCommandsComplete` can be met. -/
theorem test_PressControlCommandsComplete_hypotheses :
    (let s : State :=
         (({ wLane with cap := { streams := [(3, { coding := 0 })] }, swf := { dq := [(9, { alloc := true }), (10, { alloc := true })] } }).put
         F.CAP_STREAM_STATUS_state Strm.CLOSED 3).put F.CAP_STREAM_STATUS_kind Kind.PATTERN 3
     let d : Desc := ({ tenant := 0, tag := 7 })
     let lane : BitVec 16 := 511
     let entry : BitVec 16 := 0
     let stream : BitVec 16 := 3
     let program : List (BitVec 64) := [0x0800000000000000]
     let pq : BitVec 32 := 9
     let nq : BitVec 32 := 10
     let l : Nat := 511
     s.admits d = true ∧
     d.readFail = false ∧
     l = lane.toNat ∧
     l < 512 ∧ stream.toNat < 1024 ∧ pq.toNat < 2 ^ 20 ∧ nq.toNat < 2 ^ 20 ∧
     s.get F.LANE_STATUS_holder l = d.tenant.toNat ∧
     s.strmState stream.toNat = Strm.CLOSED ∧ s.strmHolder stream.toNat = d.tenant.toNat ∧ s.strmKind stream.toNat =
         Kind.PATTERN ∧
     s.dqHolder pq.toNat = d.tenant.toNat ∧ s.dqHolder nq.toNat = d.tenant.toNat ∧
     (s.dq pq.toNat).alloc = true ∧ (s.dq nq.toNat).alloc = true ∧ (s.dq pq.toNat).consumer = 0 ∧
     isRelay (s.prsMode l) = false ∧
     (program.any (fun w => decide (0x20 ≤ (pressInstr w.toNat).op)) = false) ∧
     (program.all (fun w => pressInstrOk program.length (s.prsWidth l) w.toNat) = true) ∧
     entry.toNat < program.length ∧ program.length ≤ 512 ∧
     s.get F.LANE_CTRL_loop l ≠ 3 ∧
     s.domOn (domSector (l / 32)) = true ∧
     s.prsBusy l = false ∧ s.prsTaken l = false) ∧
    (let s : State :=
         (({ wPressLane with press := [(511, { loaded := true, program := [0], stream := 3, pressDq := 9, notifyDq := 10 })], cap := { streams := [(3, { coding := 0 })] }, swf := { dq := [(9, { alloc := true }), (10, { alloc := true })] } }).put
         F.CAP_STREAM_STATUS_state Strm.CLOSED 3).put F.LANE_STATUS_state 1 511
     let d : Desc := ({ tenant := 0, tag := 7 })
     let lane : BitVec 16 := 511
     let at' : BitVec 64 := 0
     let l : Nat := 511
     let x : PressSt := s.prs 511
     s.admits d = true ∧
     l = lane.toNat ∧ l < 512 ∧
     x = s.prs l ∧
     s.get F.LANE_STATUS_holder l = d.tenant.toNat ∧
     x.loaded = true ∧ s.strmHolder x.stream = d.tenant.toNat ∧ s.dqHolder x.pressDq = d.tenant.toNat ∧ s.dqHolder
         x.notifyDq = d.tenant.toNat ∧
     isRelay (s.prsMode l) = false ∧
     s.badStartTime at'.toNat = false ∧
     s.get F.LANE_CTRL_loop l ≠ 3 ∧
     (x.program.any (fun i => decide (0x20 ≤ (pressInstr i).op)) = false) ∧
     s.domOn (domSector (l / 32)) = true ∧
     s.get F.LANE_STATUS_state l ≠ 0 ∧ s.get F.LANE_STATUS_state l ≠ 5 ∧
     s.strmState x.stream = Strm.CLOSED ∧
     (s.dq x.pressDq).alloc = true ∧ (s.dq x.notifyDq).alloc = true ∧
     s.prsBusy l = false ∧ s.prsTaken l = false) ∧
    (let s : State :=
         ({ State.reset with press := [(511, { loaded := true, program := [0, 0], entry := 1, startAt := 100 })] }).put
         F.PRS_LANE_STATUS_state 2 511
     let lane : BitVec 9 := 511
     let x : PressSt := s.prs 511
     x = s.prs lane.toNat ∧
     s.prsState lane.toNat = Prs.ARMED) ∧
    (let s : State := wPressLane.put F.PRS_LANE_STATUS_state 4 511
     let d : Desc := ({ tenant := 0, tag := 7 })
     let lane : BitVec 16 := 511
     let l : Nat := 511
     let x : PressSt := s.prs 511
     s.admits d = true ∧
     l = lane.toNat ∧ l < 512 ∧
     x = s.prs l ∧
     s.get F.LANE_STATUS_holder l = d.tenant.toNat ∧
     s.domOn (domSector (l / 32)) = true ∧
     x.loaded = true ∧
     s.prsBusy l = true) ∧
    (let s : State := wPressLane.put F.PRS_LANE_STATUS_state 4 511
     let d : Desc := ({ tenant := 0, tag := 7 })
     let lane : BitVec 16 := 511
     let l : Nat := 511
     s.admits d = true ∧
     l = lane.toNat ∧ l < 512 ∧
     s.get F.LANE_STATUS_holder l = d.tenant.toNat ∧
     s.domOn (domSector (l / 32)) = true ∧
     (s.prs l).loaded = true ∧
     (s.prsState l = Prs.ARMED ∨ s.prsState l = Prs.RUNNING ∨ s.prsState l = Prs.WAITING)) ∧
    (let s : State := wPressLane.put F.PRS_LANE_STATUS_state 5 511
     let d : Desc := ({ tenant := 0, tag := 7 })
     let lane : BitVec 16 := 511
     let l : Nat := 511
     let x : PressSt := s.prs 511
     s.admits d = true ∧
     l = lane.toNat ∧ l < 512 ∧
     x = s.prs l ∧
     s.get F.LANE_STATUS_holder l = d.tenant.toNat ∧
     s.domOn (domSector (l / 32)) = true ∧
     x.loaded = true ∧
     s.prsState l = Prs.FROZEN ∧
     x.timeWait = false ∧
     isRelay (s.prsMode l) = false) ∧
    (let s : State := wPressLane
     let d : Desc := ({ tenant := 0, tag := 7 })
     let lane : BitVec 16 := 511
     let l : Nat := 511
     s.admits d = true ∧
     l = lane.toNat ∧ l < 512 ∧
     s.get F.LANE_STATUS_holder l = d.tenant.toNat ∧
     s.domOn (domSector (l / 32)) = true ∧
     (s.prs l).evq.length < 16) ∧
    (let s : State := { State.reset with press := [(7, { due := [{ source := 1, value := 2, time := 3 }] })] }
     let lane : BitVec 9 := 7
     let e : PressEvent := { source := 1, value := 2, time := 3 }
     let r : List PressEvent := []
     let x : PressSt := s.prs 7
     x = s.prs lane.toNat ∧
     x.due = e :: r ∧
     x.evq.length < 16) ∧
    (let s : State := { State.reset with press := [(7, {})] }.put F.PRS_CACHE_LINES_lines 8 7
     let lane : BitVec 9 := 7
     let leaf : BitVec 33 := 5
     let x : PressSt := s.prs 7
     x = s.prs lane.toNat ∧
     x.lines.contains leaf.toNat = false ∧
     x.lines.length < s.get F.PRS_CACHE_LINES_lines lane.toNat) ∧
    (let s : State := (wLane.each (upTo 4) (fun s b => s.put F.PWR_DOMAIN_STATUS_state 0 (domPress (60 + b))))
     let p : Path := .bar0
     let lane : BitVec 9 := 511
     let v : Word := 32
     let l : Nat := 511
     let n : Nat := 32
     s.writable p Reg.PRS_CACHE_LINES lane.toNat 0 0 v = true ∧
     l = lane.toNat ∧ n = v.toNat % 2048 ∧
     s.linesTotal l n ≤ s.linesCap (l / 32) ∧
     s.prsState l < 2) := by
  refine ⟨?_, ?_, ?_, ?_, ?_, ?_, ?_, ?_, ?_, ?_⟩
  all_goals decide

/-- The hypotheses of every clause of `Obligations.PressOutputInstructionsComplete` can be met. -/
theorem test_PressOutputInstructionsComplete_hypotheses :
    (let s : State := (wPress) 0 { pins := [(1, [2])] }
     let lane : BitVec 9 := 5
     let x : PressSt := s.prs 5
     x = s.prs lane.toNat ∧
     s.pressRuns lane.toNat 0x00 = true) ∧
    (let s : State := (wPress) 0x0130000000000009 {}
     let lane : BitVec 9 := 5
     let x : PressSt := s.prs 5
     let i : PressInstr := s.prsAt 5
     x = s.prs lane.toNat ∧
     i = s.prsAt lane.toNat ∧
     s.pressRuns lane.toNat 0x01 = true) ∧
    (let s : State := (wPress) 0x0232000000000000 { k := [0, 0, 6, 0] }
     let lane : BitVec 9 := 5
     let x : PressSt := s.prs 5
     let i : PressInstr := s.prsAt 5
     x = s.prs lane.toNat ∧
     i = s.prsAt lane.toNat ∧
     s.pressRuns lane.toNat 0x02 = true) ∧
    (let s : State := (wPress) 0x0300000000000009 {}
     let lane : BitVec 9 := 5
     let x : PressSt := s.prs 5
     let i : PressInstr := s.prsAt 5
     x = s.prs lane.toNat ∧
     i = s.prsAt lane.toNat ∧
     s.pressRuns lane.toNat 0x03 = true) ∧
    (let s : State := (wPress) 0x0430FFFFFFFFFFFF {}
     let lane : BitVec 9 := 5
     let x : PressSt := s.prs 5
     let i : PressInstr := s.prsAt 5
     x = s.prs lane.toNat ∧
     i = s.prsAt lane.toNat ∧
     s.pressRuns lane.toNat 0x04 = true) ∧
    (let s : State := (wPress) 0x0530FFFFFFFFFFFF { ptr := [0, 0, 0, 9] }
     let lane : BitVec 9 := 5
     let x : PressSt := s.prs 5
     let i : PressInstr := s.prsAt 5
     x = s.prs lane.toNat ∧
     i = s.prsAt lane.toNat ∧
     s.pressRuns lane.toNat 0x05 = true) ∧
    (let s : State := (wPress) 0x06300000FFFFFFFF {}
     let lane : BitVec 9 := 5
     let x : PressSt := s.prs 5
     let i : PressInstr := s.prsAt 5
     x = s.prs lane.toNat ∧
     i = s.prsAt lane.toNat ∧
     s.pressRuns lane.toNat 0x06 = true) ∧
    (let s : State := (wPress) 0x0730000000000000 { k := [0, 0, 0, 9] }
     let lane : BitVec 9 := 5
     let x : PressSt := s.prs 5
     let i : PressInstr := s.prsAt 5
     x = s.prs lane.toNat ∧
     i = s.prsAt lane.toNat ∧
     s.pressRuns lane.toNat 0x07 = true) ∧
    (let s : State := (wPress) 0x08000000000001FF {}
     let lane : BitVec 9 := 5
     let x : PressSt := s.prs 5
     let i : PressInstr := s.prsAt 5
     x = s.prs lane.toNat ∧
     i = s.prsAt lane.toNat ∧
     s.pressRuns lane.toNat 0x08 = true) ∧
    (let s : State := (wPress) 0x0900FFFFFFFFFFFF { wire := 9 }
     let lane : BitVec 9 := 5
     let x : PressSt := s.prs 5
     let i : PressInstr := s.prsAt 5
     x = s.prs lane.toNat ∧
     i = s.prsAt lane.toNat ∧
     s.pressRuns lane.toNat 0x09 = true) ∧
    (let s : State := (wPress) 0x0A00FFFFFFFFFFFF {}
     let lane : BitVec 9 := 5
     let x : PressSt := s.prs 5
     let i : PressInstr := s.prsAt 5
     x = s.prs lane.toNat ∧
     i = s.prsAt lane.toNat ∧
     s.pressRuns lane.toNat 0x0A = true) ∧
    (let s : State := (wPress) 0x0B00000000000000 { t := 1 }
     let lane : BitVec 9 := 5
     let x : PressSt := s.prs 5
     x = s.prs lane.toNat ∧
     s.pressRuns lane.toNat 0x0B = true ∧
     x.wire < x.t) ∧
    (let s : State := ((wPress) 0 { timeWait := true, t := 8, wire := 8 }).put F.PRS_LANE_STATUS_state 4 5
     let lane : BitVec 9 := 5
     let x : PressSt := s.prs 5
     x = s.prs lane.toNat ∧
     s.prsState lane.toNat = Prs.WAITING ∧
     x.timeWait = true ∧ x.t ≤ x.wire) := by
  refine ⟨?_, ?_, ?_, ?_, ?_, ?_, ?_, ?_, ?_, ?_, ?_, ?_, ?_⟩
  all_goals decide

/-- The hypotheses of every clause of `Obligations.PressEventInstructionsComplete` can be met. -/
theorem test_PressEventInstructionsComplete_hypotheses :
    (let s : State := (wPress) 0x0CF1000000000000 {}
     let lane : BitVec 9 := 5
     let x : PressSt := s.prs 5
     let i : PressInstr := s.prsAt 5
     x = s.prs lane.toNat ∧
     i = s.prsAt lane.toNat ∧
     s.pressRuns lane.toNat 0x0C = true) ∧
    (let s : State := ((wPress) 0
         { wait := some (8, true, 0), evq := [{ source := 3, value := 4, time := 8 }], t := 8, wire := 8 }).put
         F.PRS_LANE_STATUS_state 4 5
     let lane : BitVec 9 := 5
     let x : PressSt := s.prs 5
     let e : PressEvent := { source := 3, value := 4, time := 8 }
     let mask : Nat := 8
     let tgt : Nat := 0
     let limit : Bool := true
     x = s.prs lane.toNat ∧
     x.wait = some (mask, limit, tgt) ∧
     x.waited mask limit = some e ∧
     s.prsState lane.toNat = Prs.WAITING ∧ e.time ≤ x.wire) ∧
    (let s : State := ((wPress) 0 { wait := some (8, true, 0), t := 8, wire := 8 }).put F.PRS_LANE_STATUS_state 4 5
     let lane : BitVec 9 := 5
     let x : PressSt := s.prs 5
     let mask : Nat := 8
     let tgt : Nat := 0
     x = s.prs lane.toNat ∧
     x.wait = some (mask, true, tgt) ∧
     x.waited mask true = none ∧
     s.prsState lane.toNat = Prs.WAITING ∧ x.t ≤ x.wire) ∧
    (let s : State := (wPress) 0x0D00FFFF12340000 { ev := 0x1234 }
     let lane : BitVec 9 := 5
     let x : PressSt := s.prs 5
     let i : PressInstr := s.prsAt 5
     x = s.prs lane.toNat ∧
     i = s.prsAt lane.toNat ∧
     s.pressRuns lane.toNat 0x0D = true) ∧
    (let s : State := (wPress) 0x0E00000000000000 { payload := (3, 5) }
     let lane : BitVec 9 := 5
     let x : PressSt := s.prs 5
     x = s.prs lane.toNat ∧
     s.pressRuns lane.toNat 0x0E = true) ∧
    (let s : State := (wPress) 0x0F30000000000000 { pins := [(3, [4])] }
     let lane : BitVec 9 := 5
     let x : PressSt := s.prs 5
     let i : PressInstr := s.prsAt 5
     x = s.prs lane.toNat ∧
     i = s.prsAt lane.toNat ∧
     i.imm % 2 ^ 24 = 0 ∧
     s.pressRuns lane.toNat 0x0F = true) ∧
    (let s : State := (wPress) 0x1000400000000009 {}
     let lane : BitVec 9 := 5
     let x : PressSt := s.prs 5
     let i : PressInstr := s.prsAt 5
     x = s.prs lane.toNat ∧
     i = s.prsAt lane.toNat ∧
     s.pressRuns lane.toNat 0x10 = true) ∧
    (let s : State := (wPress) 0x1100000000000009 {}
     let lane : BitVec 9 := 5
     let x : PressSt := s.prs 5
     let i : PressInstr := s.prsAt 5
     x = s.prs lane.toNat ∧
     i = s.prsAt lane.toNat ∧
     s.pressRuns lane.toNat 0x11 = true ∧
     (s.dq x.notifyDq).alloc = false) ∧
    (let s : State := (wPress) 0x2000000000000009 {}
     let lane : BitVec 9 := 5
     let x : PressSt := s.prs 5
     let i : PressInstr := s.prsAt 5
     x = s.prs lane.toNat ∧
     i = s.prsAt lane.toNat ∧
     s.pressRuns lane.toNat 0x20 = true) ∧
    (let s : State := (wPress) 0x2100000000000009 { backlog := [1, 2] }
     let lane : BitVec 9 := 5
     let x : PressSt := s.prs 5
     let i : PressInstr := s.prsAt 5
     let n : Nat := 9
     x = s.prs lane.toNat ∧
     i = s.prsAt lane.toNat ∧
     n = i.imm % 2 ^ 24 ∧
     s.pressRuns lane.toNat 0x21 = true) ∧
    (let s : State := (wPress) 0x2230000000000000 {}
     let lane : BitVec 9 := 5
     let x : PressSt := s.prs 5
     let i : PressInstr := s.prsAt 5
     x = s.prs lane.toNat ∧
     i = s.prsAt lane.toNat ∧
     s.pressRuns lane.toNat 0x22 = true ∧
     s.relayMatch lane.toNat i.a x.backlog = false) ∧
    (let s : State := (((wPress) 0 {}).put F.PRS_LANE_CFG_mode 2 5).put F.LANE_STATUS_state 4 0
     let lane : BitVec 9 := 5
     let x : PressSt := s.prs 5
     let w : Nat := s.prsWidth 5
     x = s.prs lane.toNat ∧
     w = s.prsWidth lane.toNat ∧
     isRelay (s.prsMode lane.toNat) = true ∧
     s.relayReady lane.toNat = true ∧
     s.prsState lane.toNat ≠ Prs.FROZEN ∧
     x.cur = none ∧
     (x.backlog.length + 1) * w ≤ 65536) := by
  refine ⟨?_, ?_, ?_, ?_, ?_, ?_, ?_, ?_, ?_, ?_, ?_, ?_⟩
  all_goals decide


/-- The hypotheses of every clause of `Obligations.PressUnitsAreSent` can be met. -/
theorem test_PressUnitsAreSent_hypotheses :
    (let s : State := State.reset.put F.LANE_STATUS_state 4 511
     let lane : BitVec 9 := 511
     s.get F.LANE_STATUS_state lane.toNat ≠ 0 ∧ s.get F.LANE_STATUS_state lane.toNat ≠ 5 ∧
     s.get F.LANE_CTRL_loop lane.toNat ≠ 3 ∧
     s.prsWidth lane.toNat ≠ 0 ∧
     s.prsTaken lane.toNat = false ∧
     s.prsMode lane.toNat = Mode.PROGRAM ∧
     s.prsState lane.toNat ≠ Prs.FROZEN) ∧
    (let s : State := (State.reset.put F.LANE_STATUS_state 4 511).put F.PRS_LANE_CFG_mode Mode.FRAME 511
     let lane : BitVec 9 := 511
     s.get F.LANE_STATUS_state lane.toNat ≠ 0 ∧ s.get F.LANE_STATUS_state lane.toNat ≠ 5 ∧
     s.get F.LANE_CTRL_loop lane.toNat ≠ 3 ∧
     s.prsWidth lane.toNat ≠ 0 ∧
     s.prsTaken lane.toNat = false ∧
     s.prsMode lane.toNat = Mode.FRAME) ∧
    (let s : State := (State.reset.put F.LANE_STATUS_state 4 511).put F.PRS_LANE_CFG_mode Mode.RELAY_UNIT 511
     let lane : BitVec 9 := 511
     s.get F.LANE_STATUS_state lane.toNat ≠ 0 ∧ s.get F.LANE_STATUS_state lane.toNat ≠ 5 ∧
     s.get F.LANE_CTRL_loop lane.toNat ≠ 3 ∧
     s.prsWidth lane.toNat ≠ 0 ∧
     s.prsTaken lane.toNat = false ∧
     isRelay (s.prsMode lane.toNat) = true) := by
  refine ⟨?_, ?_, ?_⟩
  all_goals decide

/-- A small state or operand for the hypotheses of the Shaping commands. -/
def wFrame (x : FrameSt) : State :=
  (({ State.reset with boot := { ready := true }, frames := [(4096, x)] }).put F.PWR_DOMAIN_STATUS_state 0 1).put F.PRS_FRM_STATUS_state 3 4096

/-- The hypotheses of every clause of `Obligations.ShapingCommandsComplete` can be met. -/
theorem test_ShapingCommandsComplete_hypotheses :
    (let s : State :=
         ({ wFrame {} with swf := { dq := [(9, { alloc := true, tokens := [1 * 2 ^ 48] })] }, cap := { streams := [(0, { seq := 1 })] } }).put
         F.PRS_FRM_DQ_value 9 4096 |>.put F.PRS_FRM_CFG_source V.PRS_FRM_CFG_source_DQ 4096
     let f : BitVec 16 := 4096
     let q : Nat := 9
     let tok : Nat := 1 * 2 ^ 48
     let r : List Nat := []
     s.frmState f.toNat = 3 ∧
     s.get F.PRS_FRM_CFG_source f.toNat = V.PRS_FRM_CFG_source_DQ ∧
     (s.frm f.toNat).head = none ∧
     q = s.get F.PRS_FRM_DQ_value f.toNat ∧
     (s.dq q).tokens = tok :: r ∧
     s.badEntry f.toNat tok false = false ∧
     (frameEntry tok).inline = false ∧ (frameEntry tok).bits = 0) ∧
    (let s : State := (State.reset.put F.PRS_LANE_CFG_mode Mode.FRAME 511).put F.LANE_STATUS_state 4 511
     let lane : BitVec 9 := 511
     let l : Nat := 511
     let y : FrameLane := s.frmLane 511
     l = lane.toNat ∧ y = s.frmLane l ∧
     s.prsMode l = Mode.FRAME ∧
     y.entry = none ∧
     s.frmReady l = true ∧
     s.reservedBy l = none ∧
     ((s.frmRunning (l / 32)).any (fun f => bit (s.frmTarget f) (l % 32)) = false)) ∧
    (let s : State :=
         ({ wFrame { grant := some { time := 0, reserved := 3, atBoundary := 3 } } with clk := { timebase := 6400 } }).put
         F.PRS_FRM_CFG_mc_timeout_ns 100 4096
     let f : BitVec 16 := 4096
     let g : Grant := { time := 0, reserved := 3, atBoundary := 3 }
     (s.frm f.toNat).grant = some g ∧
     s.get F.PRS_FRM_CFG_mc_timeout_ns f.toNat ≠ 0 ∧
     g.time + 64 * s.get F.PRS_FRM_CFG_mc_timeout_ns f.toNat ≤ s.now ∧
     g.start = none ∧
     g.atBoundary = g.reserved) ∧
    (let s : State := ({ wFrame { level := some 0, rate := 100000 } with clk := { timebase := 6400 } }).put
         F.PRS_FRM_STATUS_state 2 4096
     let sect : BitVec 4 := 1
     let f : Nat := 4096
     let x : FrameSt := { level := some 0, rate := 100000 }
     f / 4096 = sect.toNat ∧
     s.frames = [(f, x)] ∧
     s.frmState f ≠ 3) ∧
    (let s : State := wFrame {}
     let d : Desc := ({ tenant := 0, tag := 7 })
     let f : BitVec 16 := 4096
     let rate : BitVec 32 := 112500000
     let burst : BitVec 32 := 1048575
     s.admits d = true ∧
     s.get F.PRS_FRM_STATUS_holder f.toNat = d.tenant.toNat ∧
     rate.toNat ≤ 112500000 ∧
     0 < burst.toNat ∧ burst.toNat ≤ 1048575 ∧
     s.domOn (domSector (f.toNat / 4096)) = true) ∧
    (let s : State := (wFrame {}).put F.PRS_FRM_INDEX_stream 4096
     let p : Path := .bar0
     let v : Word := 64
     let f : Nat := 4096
     f = s.get F.PRS_FRM_INDEX_stream ∧
     s.writable p Reg.PRS_SHP_BURST f 0 0 (v ||| 0x80000000#32) = true) ∧
    (let s : State :=
         ((((({ wFrame {} with cap := { streams := [(3, { coding := 0 })] }, swf := { dq := [(9, { alloc := true }), (10, { alloc := true })] } }).put
         F.CAP_STREAM_STATUS_state Strm.CLOSED 3).put F.CAP_STREAM_STATUS_kind Kind.PATTERN 3).put
         F.PRS_FRM_STATUS_state 1 4096).put F.PRS_LANE_CFG_mode Mode.FRAME 32)
     let d : Desc := ({ tenant := 0, tag := 7 })
     let f : BitVec 16 := 4096
     let target : Word := 1
     let addr : BitVec 64 := 128
     let fq : BitVec 32 := 9
     let nq : BitVec 32 := 10
     let pattern : BitVec 16 := 3
     s.admits d = true ∧
     s.get F.PRS_FRM_STATUS_holder f.toNat = d.tenant.toNat ∧
     ((frmLanes f.toNat target.toNat).all (fun l => s.get F.LANE_STATUS_holder l == d.tenant.toNat) = true) ∧
     pattern.toNat < 1024 ∧ fq.toNat < 2 ^ 20 ∧ nq.toNat < 2 ^ 20 ∧ target ≠ 0 ∧
     s.strmState pattern.toNat = Strm.CLOSED ∧ s.strmHolder pattern.toNat = d.tenant.toNat ∧ s.strmKind
         pattern.toNat = Kind.PATTERN ∧
     s.dqHolder fq.toNat = d.tenant.toNat ∧ s.dqHolder nq.toNat = d.tenant.toNat ∧
     (s.dq fq.toNat).alloc = true ∧ (s.dq nq.toNat).alloc = true ∧
     addr.toNat % 128 = 0 ∧ addr.toNat < 2 ^ 48 ∧
     s.frmLaneConflict (frmLanes f.toNat target.toNat) = false ∧
     s.domOn (domSector (f.toNat / 4096)) = true ∧
     s.frmState f.toNat ≠ 2 ∧ s.frmState f.toNat ≠ 3) ∧
    (let s : State := ((((wFrame {}).put F.PRS_FRM_STATUS_state 1 4096).setWord Reg.PRS_FRM_TARGET 0x80000001
         4096).put F.PRS_LANE_CFG_mode Mode.FRAME 32).put F.PRS_LANE_CFG_mode Mode.FRAME 63 |>.put
         F.PRS_FRM_CFG_source V.PRS_FRM_CFG_source_DQ 4096
     let d : Desc := ({ tenant := 0, tag := 7 })
     let f : BitVec 16 := 4096
     let at' : BitVec 64 := 640000
     s.admits d = true ∧
     s.get F.PRS_FRM_STATUS_holder f.toNat = d.tenant.toNat ∧
     ((frmLanes f.toNat (s.frmTarget f.toNat)).all (fun l => s.get F.LANE_STATUS_holder l == d.tenant.toNat) = true)
         ∧
     s.badStartTime at'.toNat = false ∧
     s.frmLaneConflict (frmLanes f.toNat (s.frmTarget f.toNat)) = false ∧
     s.domOn (domSector (f.toNat / 4096)) = true ∧
     s.frmState f.toNat = 1 ∧
     s.get F.PRS_FRM_CFG_source f.toNat = V.PRS_FRM_CFG_source_DQ) ∧
    (let s : State := (wFrame { startAt := 800 }).put F.PRS_FRM_STATUS_state 2 4096
     let f : BitVec 16 := 4096
     s.frmState f.toNat = 2) ∧
    (let s : State := (wFrame { startAt := 800 })
     let d : Desc := ({ tenant := 0, tag := 7 })
     let f : BitVec 16 := 4096
     s.admits d = true ∧
     s.get F.PRS_FRM_STATUS_holder f.toNat = d.tenant.toNat ∧
     s.domOn (domSector (f.toNat / 4096)) = true ∧
     (s.frmState f.toNat = 2 ∨ s.frmState f.toNat = 3) ∧
     (s.frm f.toNat).grant = none) := by
  refine ⟨?_, ?_, ?_, ?_, ?_, ?_, ?_, ?_, ?_, ?_⟩
  all_goals decide

/-- A small state or operand for the hypotheses of the Memory commands. -/
def wQuire (x : Quire) : State := { State.reset with cap := { quires := [(7, x)] } }

/-- The hypotheses of every clause of `Obligations.MemoryCommandsComplete` can be met. -/
theorem test_MemoryCommandsComplete_hypotheses :
    (let s : State := (wQuire { state := 2, target := 0 }).put F.MEM_FRONT_STATUS_state
         V.MEM_FRONT_STATUS_state_REDUNDANT |>.put F.MEM_HBM_STATUS_state V.MEM_HBM_STATUS_state_IN_USE 1
     let q : BitVec 19 := 7
     let leaf : BitVec 14 := 0
     let row : Nat := 0
     let k : Nat := 1
     let l : List (Nat × Nat) := [(0, 0)]
     let u : State := (((((s.cnt F.MEM_HBM_UE_COUNT_value 1 1).cnt F.MEM_FRONT_RECON_value).cnt
         F.MEM_HBM_REPAIRS_soft_repairs 1 1).ev F.MEM_EVENTS_hbm_repair).log 0x02 1 1 [0])
     (s.quire q.toNat).target = 0 ∧ s.stored q.toNat = true ∧
     frontPlace (s.quire q.toNat).slot leaf.toNat = (row, k) ∧
     s.get F.MEM_HBM_STATUS_state k = V.MEM_HBM_STATUS_state_IN_USE ∧
     s.get F.MEM_FRONT_STATUS_state = V.MEM_FRONT_STATUS_state_REDUNDANT ∧
     s.mem.degraded = [] ∧
     l = noteUe s.now 64000000 row (Tbl.get [] s.mem.hbmUe (64 * k + row % 64)) ∧
     l.length < 64 ∧
     u = ((((s.cnt F.MEM_HBM_UE_COUNT_value 1 k).cnt F.MEM_FRONT_RECON_value).cnt F.MEM_HBM_REPAIRS_soft_repairs 1
         k).ev F.MEM_EVENTS_hbm_repair).log 0x02 1 k [row]) ∧
    (let s : State := State.reset.put F.MEM_HBM_STATUS_state V.MEM_HBM_STATUS_state_IN_USE 11
     let stack : BitVec 4 := 11
     let cause : BitVec 4 := 5
     stack.toNat < 12 ∧ 1 ≤ cause.toNat ∧ cause.toNat ≤ 5 ∧
     s.get F.MEM_HBM_STATUS_state stack.toNat = V.MEM_HBM_STATUS_state_IN_USE) ∧
    (let stack : BitVec 4 := 11
     stack.toNat < 12) ∧
    (let s : State := (wQuire { state := 2, target := 2 }).put F.MEM_SCRUB_CFG_enable 1
     let q : BitVec 19 := 7
     s.on F.MEM_SCRUB_CFG_enable = true ∧
     s.stored q.toNat = true ∧
     (s.quire q.toNat).target ≤ 2) ∧
    (True) ∧
    (let c : BitVec 4 := 15
     let rank : BitVec 5 := 31
     let k : Nat := 511
     k = 32 * c.toNat + rank.toNat) ∧
    (let s : State := (wQuire { state := 2, target := 2 })
     let q : BitVec 19 := 7
     let leaf : BitVec 14 := 0
     let x : Quire := s.quire 7
     let row : Nat := 0
     let c : Nat := 9
     let rank : Nat := s.ddrRank 9 0
     let l : List (Nat × Nat) := [(0, 0)]
     let u : State := s.cnt F.MEM_DDR_UE_COUNT_value 1 9
     x = s.quire q.toNat ∧
     (x.target = 1 ∨ x.target = 2) ∧
     s.stored q.toNat = true ∧
     ddrPlace x.target x.slot leaf.toNat = (row, c) ∧ rank = s.ddrRank c row ∧
     s.ddrHoles x.target row = 0 ∧
     u = s.cnt F.MEM_DDR_UE_COUNT_value 1 c ∧
     l = noteUe u.now 64000000000 row (Tbl.get [] u.mem.ddrUe (32 * c + rank)) ∧
     l.length < 16) ∧
    (True) ∧
    (let s : State := ({ State.reset with mem := { retired := [482] } }).put F.MEM_DDR_STATUS_migrating 1 15 |>.put
         F.MEM_DDR_STATUS_retired 2 15
     let c : BitVec 4 := 15
     let u : State := { s with mem := { s.mem with retired := [] } }
     s.on F.MEM_DDR_STATUS_migrating c.toNat = true ∧
     (u =
         { s with mem := { s.mem with retired := s.mem.retired.filter (fun r => r != 32 * c.toNat + s.get F.MEM_DDR_STATUS_retired c.toNat) } }))
         ∧
    (let s : State := (State.reset.put F.MEM_DDR_STATUS_state V.MEM_DDR_STATUS_state_DEGRADED 15).put
         F.MEM_DDR_STATUS_rehoming 1 15
     let second : Bool := true
     let g : Nat := 2
     let chans : List Nat := [15]
     g = 1 + b2n second ∧
     (chans = (s.groupChannels g).filter (fun c => s.on F.MEM_DDR_STATUS_rehoming c)) ∧
     chans ≠ [] ∧
     s.quiresIn g = []) ∧
    (let s : State := ((wQuire { state := 2, target := 6 }).put F.MEM_CXL_MODE_pair_active 3).put
         F.MEM_CXL_STATUS_role V.MEM_CXL_STATUS_role_MIRROR_MEMBER 2
     let q : BitVec 19 := 7
     let leaf : BitVec 14 := 1
     let a : Nat := 1
     let b : Nat := 2
     let p : Nat := 2
     s.cxlPair = some (a, b) ∧
     (s.quire q.toNat).target = 6 ∧ s.stored q.toNat = true ∧
     (p = if leaf.toNat % 2 = 0 then a else b) ∧
     s.get F.MEM_CXL_STATUS_role p = V.MEM_CXL_STATUS_role_MIRROR_MEMBER) ∧
    (let s : State := State.reset.put F.MEM_CXL_STATUS_state V.MEM_CXL_STATUS_state_IN_USE 2
     let port : BitVec 2 := 2
     let cause : BitVec 4 := 4
     port.toNat < 3 ∧ 1 ≤ cause.toNat ∧ cause.toNat ≤ 4 ∧
     s.get F.MEM_CXL_STATUS_state port.toNat = V.MEM_CXL_STATUS_state_IN_USE) ∧
    (let s : State := State.reset.put F.MEM_CXL_STATUS_resilvering 1 2
     let port : BitVec 2 := 2
     port.toNat < 3 ∧
     s.on F.MEM_CXL_STATUS_resilvering port.toNat = true) := by
  refine ⟨?_, ?_, ?_, ?_, ?_, ?_, ?_, ?_, ?_, ?_, ?_, ?_, ?_⟩
  all_goals decide

/-- A small state or operand for the hypotheses of the Security commands. -/
def wKey (st : Nat) : State := ({ State.reset with boot := { ready := true } }.put F.SEC_KEY_STATUS_state st 255).put F.SEC_STATUS_drbg_ok 1

/-- The hypotheses of every clause of `Obligations.KeyCommandsComplete` can be met. -/
theorem test_KeyCommandsComplete_hypotheses :
    (let s : State := wKey 0
     let d : Desc := ({ tenant := 255, tag := 7 })
     s.admits d = true ∧
     s.slot d.tenant.toNat = V.SEC_KEY_STATUS_state_EMPTY ∧
     s.on F.SEC_STATUS_drbg_ok = true) ∧
    (let s : State := wKey 0
     let d : Desc := ({ tenant := 255, tag := 7 })
     s.admits d = true ∧
     s.slot d.tenant.toNat = V.SEC_KEY_STATUS_state_EMPTY) ∧
    (let s : State := { wKey V.SEC_KEY_STATUS_state_RESUME_WAIT with sec := { keys := [(255, some 9)] } }
     let d : Desc := ({ tenant := 255, tag := 7 })
     s.admits d = true ∧
     s.slot d.tenant.toNat = V.SEC_KEY_STATUS_state_RESUME_WAIT ∧ (s.key d.tenant.toNat).isSome = true ∧ s.stagedKey
         d.tenant.toNat = none ∧
     s.progress d.tenant.toNat = none) ∧
    (let s : State := { wKey V.SEC_KEY_STATUS_state_ACTIVE with sec := { keys := [(255, some 9)] } }
     let d : Desc := ({ tenant := 255, tag := 7 })
     s.admits d = true ∧
     s.slot d.tenant.toNat = V.SEC_KEY_STATUS_state_ACTIVE) ∧
    (let s : State := { wKey V.SEC_KEY_STATUS_state_ACTIVE with sec := { keys := [(255, some 9)] } }
     let d : Desc := ({ tenant := 255, tag := 7 })
     s.admits d = true ∧
     s.slot d.tenant.toNat = V.SEC_KEY_STATUS_state_ACTIVE ∧
     s.stagedKey d.tenant.toNat = none ∧
     s.on F.SEC_STATUS_drbg_ok = true) ∧
    (let s : State := wKey V.SEC_KEY_STATUS_state_ACTIVE
     let d : Desc := ({ tenant := 255, tag := 7 })
     s.admits d = true ∧
     s.slot d.tenant.toNat ≠ V.SEC_KEY_STATUS_state_EMPTY ∧
     s.keyInUse d.tenant.toNat = false) ∧
    (True) ∧
    (let s : State := { wKey V.SEC_KEY_STATUS_state_ACTIVE with sec := { queue := [255] } }
     let n : Nat := 255
     let r : List Nat := []
     let u : State := (((s.rekeyQueue []).put F.SEC_STATUS_rekey_busy 1).put F.SEC_STATUS_rekey_tenant 255).put
         F.SEC_KEY_STATUS_state V.SEC_KEY_STATUS_state_REKEYING 255
     s.sec.queue = n :: r ∧
     s.on F.SEC_STATUS_rekey_busy = false ∧
     u = (((s.rekeyQueue r).put F.SEC_STATUS_rekey_busy 1).put F.SEC_STATUS_rekey_tenant n).put
         F.SEC_KEY_STATUS_state V.SEC_KEY_STATUS_state_REKEYING n) ∧
    (let s : State :=
         { ((wKey V.SEC_KEY_STATUS_state_REKEYING).put F.SEC_STATUS_rekey_busy 1).put F.SEC_STATUS_rekey_tenant 255 with cap := { quires := [(0, { state := 2, tenant := 255, leaves := [(0, {}), (1, {})] })] } }
     let n : Nat := 0
     let m : Nat := 1
     let r : List Nat := []
     s.on F.SEC_STATUS_rekey_busy = true ∧
     s.rekeyLeaves (s.get F.SEC_STATUS_rekey_tenant) (Tbl.get 0 s.sec.bounds (s.get F.SEC_STATUS_rekey_tenant)) = n
         :: m :: r ∧
     (s.quire (n / 16384)).state ≠ Qr.DRAINING ∧
     m / 16384 = n / 16384) ∧
    (let s : State :=
         { (((wKey V.SEC_KEY_STATUS_state_ACTIVE).put F.CAP_STREAM_STATUS_state Strm.ACTIVE 3).put F.CAP_STREAM_STATUS_kind Kind.PATTERN 3).put F.CAP_STREAM_STATUS_holder 255 3 with cap := { streams := [(3, { leaf := some { index := 0 } })] } }
     let d : Desc := ({ tenant := 255, tag := 7 })
     let n : BitVec 16 := 3
     let off : BitVec 64 := 4030
     let data : List (BitVec 8) := [5, 6]
     let x : Stream := s.strm 3
     let l : OpenLeaf := { index := 0 }
     s.admits d = true ∧ d.readFail = false ∧
     n.toNat < 1024 ∧
     s.strmState n.toNat = Strm.ACTIVE ∧ s.strmHolder n.toNat = d.tenant.toNat ∧ s.strmKind n.toNat = Kind.PATTERN ∧
     s.sealCheck d.tenant.toNat = 0 ∧ s.on F.SEC_KEY_STATUS_exhausted d.tenant.toNat = false ∧
     x = s.strm n.toNat ∧ x.leaf = some l ∧
     x.seq = off.toNat / 4032 ∧
     data ≠ [] ∧ off.toNat % 4032 + data.length ≤ 4032) ∧
    (let s : State := wKey 0
     let p : Path := .bar0
     let v : Word := 1
     s.writable p Reg.SEC_CTRL 0 0 0 v = true) := by
  refine ⟨?_, ?_, ?_, ?_, ?_, ?_, ?_, ?_, ?_, ?_, ?_⟩
  all_goals decide

/-- A small state or operand for the hypotheses of the Sewing commands. -/
def wSwf (x : SwfSt) : State :=
  ({ State.reset with boot := { ready := true }, swf := x }).put F.SWF_POOL_CFG_pool_quires 2

/-- The hypotheses of every clause of `Obligations.QueueCommandsComplete` can be met. -/
theorem test_QueueCommandsComplete_hypotheses :
    (let s : State := ((wSwf {}).put F.SWF_POOL_CFG_pool_quires 0).put F.CAP_STATUS_front_free 2
     let p : Path := .bar0
     let v : Word := 0
     s.writable p Reg.SWF_POOL_CFG 0 0 0 v = true ∧
     bits v.toNat 9 0 ≤ 512 ∧
     s.swf.ops = [] ∧ s.swf.dq = [] ∧
     s.get F.SWF_POOL_CFG_pool_quires = 0 ∧
     bits v.toNat 9 0 ≤ s.frontFree) ∧
    (let s : State := (wSwf {}).put F.SWF_TENANT_TOKQ_token_quota 1 0
     let d : Desc := ({ tenant := 0, tag := 7 })
     let q : Word := 1048575
     let depth : Word := 65536
     let c : BitVec 8 := 2
     let x : Dq := {}
     s.admits d = true ∧
     x = s.dq q.toNat ∧
     q.toNat < 1048576 ∧ s.dqHolder q.toNat = d.tenant.toNat ∧
     0 < depth.toNat ∧ depth.toNat ≤ 65536 ∧
     (c = 0 ∨ c = 2) ∧
     x.alloc = false ∧ x.consumer = 0 ∧
     s.swfOn = true ∧
     s.reservedDepth d.tenant.toNat + depth.toNat ≤ s.get F.SWF_TENANT_TOKQ_token_quota d.tenant.toNat * 65536 ∧
     s.allDepth + depth.toNat ≤ s.poolPlaces) ∧
    (let s : State := wSwf { dq := [(9, { alloc := true, depth := 4 })], cache := [9] }
     let d : Desc := ({ tenant := 0, tag := 7 })
     let q : Word := 9
     s.admits d = true ∧
     q.toNat < 1048576 ∧ s.dqHolder q.toNat = d.tenant.toNat ∧
     s.swfOn = true ∧
     s.dqBusy q.toNat = false) ∧
    (let s : State := wSwf { dq := [(9, { alloc := true, depth := 4 })], cache := [9] }
     let d : Desc := ({ tenant := 0, tag := 7 })
     let q : Word := 9
     let tokens : List (BitVec 512) := [1, 2, 3, 4]
     s.admits d = true ∧
     d.readFail = false ∧
     q.toNat < 1048576 ∧ s.dqHolder q.toNat = d.tenant.toNat ∧
     0 < tokens.length ∧ tokens.length ≤ 64 ∧
     s.swfOn = true ∧ (s.dq q.toNat).alloc = true ∧
     tokens.length ≤ (s.dq q.toNat).free) ∧
    (let s : State := wSwf { dq := [(9, { alloc := true, depth := 4 })], cache := [9] }
     let d : Desc := ({ tenant := 0, tag := 7 })
     let q : Word := 9
     let tokens : List (BitVec 512) := [1, 2, 3, 4, 5]
     let n : Nat := 4
     s.admits d = true ∧
     d.readFail = false ∧
     q.toNat < 1048576 ∧ s.dqHolder q.toNat = d.tenant.toNat ∧
     n = (s.dq q.toNat).free ∧
     0 < n ∧ n < tokens.length ∧ tokens.length ≤ 64 ∧
     s.swfOn = true ∧ (s.dq q.toNat).alloc = true) ∧
    (let s : State := wSwf
         { dq := [(9, { alloc := true, depth := 4, tokens := [1, 2], consumer := 2 })], cache := [9] }
     let d : Desc := ({ tenant := 0, tag := 7 })
     let q : Word := 9
     let max : BitVec 16 := 1
     let got : List Nat := [1]
     s.admits d = true ∧
     q.toNat < 1048576 ∧ s.dqHolder q.toNat = d.tenant.toNat ∧
     0 < max.toNat ∧ max.toNat ≤ 64 ∧
     s.swfOn = true ∧ (s.dq q.toNat).alloc = true ∧ (s.dq q.toNat).consumer = 2 ∧
     got = (s.dq q.toNat).tokens.take max.toNat ∧
     got ≠ []) ∧
    (let s : State := wSwf
         { dq := [(9, { alloc := true, depth := 4, tokens := [1, 2], consumer := 2 })], cache := [9] }
     let q : BitVec 20 := 9
     (s.dq q.toNat).alloc = true ∧
     0 < (s.dq q.toNat).free) ∧
    (let s : State := wSwf
         { dq := [(9, { alloc := true, depth := 2, tokens := [1, 2], consumer := 2 })], cache := [9] }
     let q : BitVec 20 := 9
     (s.dq q.toNat).alloc = true ∧
     (s.dq q.toNat).free = 0) ∧
    (let s : State := wSwf { fetching := [(9, 4), (8, 3)], ops := [(4, { state := 2 })] }
     let q : BitVec 20 := 9
     let o : Nat := 4
     let r : List (Nat × Nat) := [(8, 3)]
     s.swf.fetching = (q.toNat, o) :: r ∧
     (r.all (fun f => f.1 != q.toNat) = true) ∧
     (s.dq q.toNat).alloc = false) := by
  refine ⟨?_, ?_, ?_, ?_, ?_, ?_, ?_, ?_, ?_⟩
  all_goals decide

/-- The hypotheses of every clause of `Obligations.GraphCommandsComplete` can be met. -/
theorem test_GraphCommandsComplete_hypotheses :
    (let s : State := wSwf { dq := [(9, { alloc := true, depth := 2 }), (10, { alloc := true, depth := 2 })] }
     let d : Desc := ({ tenant := 0, tag := 7 })
     let o : Word := 262143
     let r : BitVec 368 := BitVec.ofNat 368 (pack [(0, 1), (1, 0x57), (2, 64), (3, 1), (4, 1), (6, 9 + 2 * 2 ^ 20),
         (22, 10 + 16 * 2 ^ 20), (42, 77)])
     s.admits d = true ∧
     o.toNat < 262144 ∧ s.opHolder o.toNat = d.tenant.toNat ∧
     recReserved r = false ∧ recBad r = false ∧
     ((recDqs r).all (fun q => s.dqHolder q == d.tenant.toNat && (s.dq q).alloc) = true) ∧
     ((recEntries r 8 (recByte r 5)).all (fun e => (s.dq e.1).consumer == 0) = true) ∧
     s.swfOn = true ∧
     (s.op o.toNat).state = OpSt.FREE) ∧
    (let s : State := wSwf { ops := [(4, { state := 1, seq := 9 })] }
     let d : Desc := ({ tenant := 0, tag := 7 })
     let o : Word := 4
     s.admits d = true ∧
     o.toNat < 262144 ∧ s.opHolder o.toNat = d.tenant.toNat ∧
     s.swfOn = true ∧
     (s.op o.toNat).state = OpSt.STOPPED) ∧
    (let s : State := wSwf { ops := [(4, { state := 2, seq := 9 })], tasks := [(0, { phase := 1, op := 4 })] }
     let d : Desc := ({ tenant := 0, tag := 7 })
     let o : Word := 4
     s.admits d = true ∧
     o.toNat < 262144 ∧ s.opHolder o.toNat = d.tenant.toNat ∧
     s.swfOn = true ∧
     (s.op o.toNat).state = OpSt.RUNNING ∧
     s.opTasks o.toNat ≠ 0) ∧
    (let s : State := wSwf { ops := [(4, { state := 1, seq := 9 })] }
     let d : Desc := ({ tenant := 0, tag := 7 })
     let o : Word := 4
     s.admits d = true ∧
     o.toNat < 262144 ∧ s.opHolder o.toNat = d.tenant.toNat ∧
     s.swfOn = true ∧
     (s.op o.toNat).state = OpSt.STOPPED) ∧
    (let s : State := wSwf { ops := [(4, { state := 2, seq := 9 })], tasks := [(0, { phase := 1, op := 4 })] }
     let d : Desc := ({ tenant := 0, tag := 7 })
     let o : Word := 4
     let cls : BitVec 8 := 15
     let prio : BitVec 8 := 7
     s.admits d = true ∧
     o.toNat < 262144 ∧ s.opHolder o.toNat = d.tenant.toNat ∧
     s.swfOn = true ∧
     cls.toNat ≤ 15 ∧ prio.toNat ≤ 7 ∧
     (s.op o.toNat).state = OpSt.RUNNING) ∧
    (let s : State := wSwf { ops := [(4, { state := 2, seq := 9 })], tasks := [(0, { phase := 1, op := 4 })] }
     let d : Desc := ({ tenant := 0, tag := 7 })
     let o : Word := 4
     let cls : BitVec 8 := 15
     let prio : BitVec 8 := 7
     s.admits d = true ∧
     o.toNat < 262144 ∧ s.opHolder o.toNat = d.tenant.toNat ∧
     s.swfOn = true ∧
     cls.toNat ≤ 15 ∧ prio.toNat ≤ 7 ∧
     (s.op o.toNat).state = OpSt.RUNNING ∧
     s.opTasks o.toNat ≠ 0) ∧
    (let s : State := (wSwf { ops := [(3, { state := 3, seq := 9 })], pend := [3] }).put F.SWF_TENANT_CFG_weight 4 0
     let e : BitVec 2 := 3
     let tn : BitVec 8 := 0
     let u : State := s.newRound 3
     let o : Nat := 3
     u = s.newRound e.toNat ∧
     u.firstPending e.toNat tn.toNat = some o ∧
     u.roundUsed e.toNat tn.toNat < u.get F.SWF_TENANT_CFG_weight tn.toNat ∧
     (u.op o).state ≠ OpSt.RUNNING) ∧
    (let s : State := wSwf { ops := [(4, { state := 2, seq := 9 })], tasks := [(65535, { phase := 3, op := 4 })] }
     let slot : BitVec 16 := 65535
     let k : Task := { phase := 3, op := 4 }
     k = s.task slot.toNat ∧
     k.phase = Phase.DONE ∧
     (s.op k.op).ordered = false ∧
     k.held = []) ∧
    (let s : State := wSwf {}
     let d : Desc := ({ tenant := 0, tag := 7 })
     let cls : BitVec 8 := 15
     let taskMs : Word := 60000
     s.admits d = true ∧
     cls.toNat ≤ 15 ∧ 0 < taskMs.toNat ∧ taskMs.toNat ≤ 60000 ∧
     s.swfOn = true) ∧
    (let s : State := wSwf
         { asks := [{ source := 1, pool := 3, host := some ({ tenant := 2, ring := 3, entry := 4 }, 1, 2, 3) }] }
     let tn : BitVec 8 := 2
     let ring : BitVec 6 := 3
     let entry : BitVec 16 := 4
     let d : Desc := { tenant := 2, ring := 3, entry := 4 }
     let src : Nat := 1
     let pool : Nat := 3
     let buf : Nat := 1
     let wt : Nat := 2
     let lim : Nat := 3
     let r : List Ask := []
     s.swf.asks = { source := src, pool := pool, host := some (d, buf, wt, lim) } :: r ∧
     d.tenant = tn ∧ d.ring = ring ∧ d.entry = entry ∧ wt ≠ 0 ∧
     (r.all (fun a => a.host == none) = true)) ∧
    (let s : State := wSwf
         { ops := [(4, { state := 2, seq := 9 })], tasks := [(65535, { phase := 2, op := 4, exec := 0x1000, gen := 3 })] }
     let d : Desc := ({ tenant := 0, tag := 7 })
     let handle : Word := 0x3FFFF
     let i : Nat := 65535
     let k : Task := { phase := 2, op := 4, exec := 0x1000, gen := 3 }
     s.admits d = true ∧
     d.readFail = false ∧
     i = handle.toNat % 65536 ∧ k = s.task i ∧
     k.phase = Phase.GRANTED ∧ k.gen = handle.toNat / 65536 ∧ 0x1000 ≤ k.exec ∧
     s.opHolder k.op = d.tenant.toNat) ∧
    (let s : State := wSwf
         { ops := [(4, { state := 2, seq := 9 })], tasks := [(65535, { phase := 2, op := 4, exec := 0x1000, gen := 3 })] }
     let slot : BitVec 16 := 65535
     (s.task slot.toNat).phase = Phase.GRANTED ∧
     0x1000 ≤ (s.task slot.toNat).exec) ∧
    (let s : State := wSwf
         { ops := [(4, { state := 2, seq := 9 })], tasks := [(65535, { phase := 2, op := 4, lost := some 2, gen := 3 })] }
     let slot : BitVec 16 := 65535
     let cause : Nat := 2
     (s.task slot.toNat).lost = some cause) ∧
    (let s : State := (wSwf {}).put F.FAB_SECT_STATUS_state 5 255
     let sec : BitVec 8 := 255
     let port : BitVec 2 := 3
     let src : Nat := portSource 255 3
     src = portSource sec.toNat port.toNat ∧
     s.swfOn = true ∧
     s.get F.FAB_SECT_STATUS_state sec.toNat = Sec.RUNNING ∧
     s.heldTask src = none ∧
     (s.swf.asks.any (fun a => a.source == src) = false)) ∧
    (let s : State := wSwf
         { ops := [(4, { state := 2, seq := 9 })], tasks := [(65535, { phase := 2, op := 4, exec := 0x100 + 4 * 255 + 3 })] }
     let sec : BitVec 8 := 255
     let port : BitVec 2 := 3
     let i : Nat := 65535
     s.heldTask (portSource sec.toNat port.toNat) = some i) ∧
    (let s : State := wSwf
         { ops := [(4, { state := 2, seq := 9 })], tasks := [(65535, { phase := 2, op := 4, exec := 0x100 + 4 * 255 + 3 })] }
     let sec : BitVec 8 := 255
     let port : BitVec 2 := 3
     let i : Nat := 65535
     s.heldTask (portSource sec.toNat port.toNat) = some i) := by
  refine ⟨?_, ?_, ?_, ?_, ?_, ?_, ?_, ?_, ?_, ?_, ?_, ?_, ?_, ?_, ?_, ?_⟩
  all_goals decide

/-- A small state or operand for the hypotheses of the Cores commands. -/
def wCluster : State := ({ State.reset with boot := { ready := true } }).put F.PWR_DOMAIN_STATUS_state 0 (domCluster 15)

/-- The hypotheses of every clause of `Obligations.SignalCoreCommandsComplete` can be met. -/
theorem test_SignalCoreCommandsComplete_hypotheses :
    (let s : State := wCluster.put F.SGC_STATUS_state 1 255
     let d : Desc := ({ tenant := 0, tag := 7 })
     let c : BitVec 8 := 255
     let first : BitVec 16 := 32767
     let items : List Word := [5]
     s.admits d = true ∧
     d.readFail = false ∧
     s.coreHolder c.toNat = d.tenant.toNat ∧
     first.toNat + items.length ≤ 32768 ∧
     s.domOn (domCluster (c.toNat / 16)) = true ∧
     s.coreState c.toNat = Core.STOPPED) ∧
    (let s : State := wCluster.put F.SGC_STATUS_state 1 255
     let d : Desc := ({ tenant := 0, tag := 7 })
     let c : BitVec 8 := 255
     let first : BitVec 16 := 8191
     s.admits d = true ∧
     d.readFail = false ∧
     s.coreHolder c.toNat = d.tenant.toNat ∧
     first.toNat < 8192 ∧
     s.domOn (domCluster (c.toNat / 16)) = true ∧
     s.coreState c.toNat = Core.STOPPED) ∧
    (let s : State := wCluster.put F.SGC_STATUS_state 5 255
     let d : Desc := ({ tenant := 0, tag := 7 })
     let c : BitVec 8 := 255
     let entry : BitVec 16 := 8191
     s.admits d = true ∧
     s.coreHolder c.toNat = d.tenant.toNat ∧
     entry.toNat < 8192 ∧
     s.domOn (domCluster (c.toNat / 16)) = true ∧
     (s.coreState c.toNat = Core.STOPPED ∨ s.coreState c.toNat = Core.FAULTED)) ∧
    (let s : State := wCluster.put F.SGC_STATUS_state 3 255
     let d : Desc := ({ tenant := 0, tag := 7 })
     let c : BitVec 8 := 255
     s.admits d = true ∧
     s.coreHolder c.toNat = d.tenant.toNat ∧
     s.domOn (domCluster (c.toNat / 16)) = true ∧
     (s.coreState c.toNat = Core.RUNNING ∨ s.coreState c.toNat = Core.WAITING)) ∧
    (let s : State := wCluster.put F.SGC_STATUS_state 3 255
     let d : Desc := ({ tenant := 0, tag := 7 })
     let c : BitVec 8 := 255
     s.admits d = true ∧
     s.coreHolder c.toNat = d.tenant.toNat ∧
     s.domOn (domCluster (c.toNat / 16)) = true) ∧
    (let s : State := ({ wCluster with cores := [(255, { src := 4, sr := 0x9000, pc := 9, tcmp := 9 })] }).put
         F.SGC_STATUS_state 2 255
     let c : BitVec 8 := 255
     let b : Nat := 2
     let x : CoreSt := s.core 255
     let y : CoreSt := (s.core 255).enter 10 9 0
     s.coreIrq c.toNat = some b ∧
     x = s.core c.toNat ∧
     bit x.sr 15 = true ∧ x.hold = false ∧ x.slots = 0 ∧ x.rep = 0 ∧
     s.coreState c.toNat = Core.RUNNING ∧
     y = x.enter (8 + b) x.pc (s.get F.SGC_VECTOR_base c.toNat)) ∧
    (let s : State := { wCluster with cores := [(255, { tcmp := 9 })] }
     let c : BitVec 8 := 255
     let m : Nat := 9
     m = (s.core c.toNat).tcmp ∧
     m + 7 < 2 ^ 64) ∧
    (let s : State :=
         { wCluster with swf := { asks := [{ source := 255, pool := 5 }], ops := [(4, { state := 2 })], tasks := [(9, { phase := 1, op := 4, cls := 5, seq := 2 })] } }
     let pool : BitVec 12 := 5
     let a : Ask := { source := 255, pool := 5 }
     let slot : Nat := 9
     (s.swf.asks.find? (fun a => a.pool == pool.toNat) = some a) ∧
     s.nextReady pool.toNat = some slot ∧
     a.host = none ∧ a.source < 256) ∧
    (let s : State := wCluster.put F.SGC_STATUS_state 2 255
     let c : BitVec 8 := 255
     s.coreState c.toNat ≠ Core.OFF ∧ s.coreState c.toNat ≠ Core.FAILED) ∧
    (let s : State := wCluster.put F.SGC_STATUS_state 2 255
     let c : BitVec 8 := 255
     s.coreState c.toNat = Core.RUNNING ∧
     (s.core c.toNat).dma.length < 4) := by
  refine ⟨?_, ?_, ?_, ?_, ?_, ?_, ?_, ?_, ?_, ?_⟩
  all_goals decide

/-- A small state or operand for the hypotheses of the CoreIsa commands. -/
def wCore (w : Nat) (x : CoreSt) : State :=
  ({ State.reset with cores := [(255, { x with imem := [(0, w)] })] }).put F.SGC_STATUS_state Core.RUNNING 255

/-- The hypotheses of every clause of `Obligations.CoreControlInstructionsComplete` can be met. -/
theorem test_CoreControlInstructionsComplete_hypotheses :
    (let s : State := wCore 0x00000000 { d := [(0, 5), (1, 0x8000)], a := [(0, 3)] }
     let c : BitVec 8 := 255
     let x : CoreSt := (s.core 255).atIssue
     let w : Nat := 0x00000000
     x = (s.core c.toNat).atIssue ∧
     w = x.fetched ∧
     s.coreIssues c.toNat 0x00 = true) ∧
    (let s : State := wCore 0x02000000 { d := [(0, 5), (1, 0x8000)], a := [(0, 3)] }
     let c : BitVec 8 := 255
     let x : CoreSt := (s.core 255).atIssue
     let w : Nat := 0x02000000
     x = (s.core c.toNat).atIssue ∧
     w = x.fetched ∧
     s.coreIssues c.toNat 0x02 = true) ∧
    (let s : State := wCore 0x03E00123 { d := [(0, 5), (1, 0x8000)], a := [(0, 3)] }
     let c : BitVec 8 := 255
     let x : CoreSt := (s.core 255).atIssue
     let w : Nat := 0x03E00123
     x = (s.core c.toNat).atIssue ∧
     w = x.fetched ∧
     s.coreIssues c.toNat 0x03 = true) ∧
    (let s : State := wCore 0x04000000 { d := [(0, 5), (1, 0x8000)], a := [(0, 3)] }
     let c : BitVec 8 := 255
     let x : CoreSt := (s.core 255).atIssue
     let w : Nat := 0x04000000
     x = (s.core c.toNat).atIssue ∧
     w = x.fetched ∧
     s.coreIssues c.toNat 0x04 = true) ∧
    (let s : State := wCore 0x05000000 { d := [(0, 5), (1, 0x8000)], a := [(0, 3)] }
     let c : BitVec 8 := 255
     let x : CoreSt := (s.core 255).atIssue
     let w : Nat := 0x05000000
     x = (s.core c.toNat).atIssue ∧
     w = x.fetched ∧
     s.coreIssues c.toNat 0x05 = true) ∧
    (let s : State := wCore 0x06000000 { d := [(0, 5), (1, 0x8000)], a := [(0, 3)] }
     let c : BitVec 8 := 255
     let x : CoreSt := (s.core 255).atIssue
     let w : Nat := 0x06000000
     x = (s.core c.toNat).atIssue ∧
     w = x.fetched ∧
     s.coreIssues c.toNat 0x06 = true) ∧
    (let s : State := wCore 0x07000000 { d := [(0, 5), (1, 0x8000)], a := [(0, 3)] }
     let c : BitVec 8 := 255
     let x : CoreSt := (s.core 255).atIssue
     let w : Nat := 0x07000000
     x = (s.core c.toNat).atIssue ∧
     w = x.fetched ∧
     s.coreIssues c.toNat 0x07 = true) ∧
    (let s : State := wCore 0x08000403 { d := [(0, 5), (1, 0x8000)], a := [(0, 3)] }
     let c : BitVec 8 := 255
     let x : CoreSt := (s.core 255).atIssue
     let w : Nat := 0x08000403
     x = (s.core c.toNat).atIssue ∧
     w = x.fetched ∧
     s.coreIssues c.toNat 0x08 = true) ∧
    (let s : State := wCore 0x0900041F { d := [(0, 5), (1, 0x8000)], a := [(0, 3)] }
     let c : BitVec 8 := 255
     let x : CoreSt := (s.core 255).atIssue
     let w : Nat := 0x0900041F
     x = (s.core c.toNat).atIssue ∧
     w = x.fetched ∧
     s.coreIssues c.toNat 0x09 = true) ∧
    (let s : State := wCore 0x0A000005 { d := [(0, 5), (1, 0x8000)], a := [(0, 3)] }
     let c : BitVec 8 := 255
     let x : CoreSt := (s.core 255).atIssue
     let w : Nat := 0x0A000005
     x = (s.core c.toNat).atIssue ∧
     w = x.fetched ∧
     s.coreIssues c.toNat 0x0A = true) ∧
    (let s : State := wCore 0x0B000000 { d := [(0, 5), (1, 0x8000)], a := [(0, 3)] }
     let c : BitVec 8 := 255
     let x : CoreSt := (s.core 255).atIssue
     let w : Nat := 0x0B000000
     x = (s.core c.toNat).atIssue ∧
     w = x.fetched ∧
     s.coreIssues c.toNat 0x0B = true) := by
  refine ⟨?_, ?_, ?_, ?_, ?_, ?_, ?_, ?_, ?_, ?_, ?_⟩
  all_goals decide

/-- The hypotheses of every clause of `Obligations.CoreMoveInstructionsComplete` can be met. -/
theorem test_CoreMoveInstructionsComplete_hypotheses :
    (let s : State := wCore 0x14054000 { d := [(0, 5), (1, 0x8000)], a := [(0, 3)] }
     let c : BitVec 8 := 255
     let x : CoreSt := (s.core 255).atIssue
     let w : Nat := 0x14054000
     x = (s.core c.toNat).atIssue ∧
     w = x.fetched ∧
     s.coreIssues c.toNat 0x14 = true) ∧
    (let s : State := wCore 0x15000000 { d := [(0, 5), (1, 0x8000)], a := [(0, 3)] }
     let c : BitVec 8 := 255
     let x : CoreSt := (s.core 255).atIssue
     let w : Nat := 0x15000000
     x = (s.core c.toNat).atIssue ∧
     w = x.fetched ∧
     s.coreIssues c.toNat 0x15 = true) ∧
    (let s : State := wCore 0x40000000 { d := [(0, 5), (1, 0x8000)], a := [(0, 3)] }
     let c : BitVec 8 := 255
     let x : CoreSt := (s.core 255).atIssue
     let w : Nat := 0x40000000
     x = (s.core c.toNat).atIssue ∧
     w = x.fetched ∧
     s.coreIssues c.toNat 0x40 = true) ∧
    (let s : State := wCore 0x45000000 { d := [(0, 5), (1, 0x8000)], a := [(0, 3)] }
     let c : BitVec 8 := 255
     let x : CoreSt := (s.core 255).atIssue
     let w : Nat := 0x45000000
     x = (s.core c.toNat).atIssue ∧
     w = x.fetched ∧
     s.coreIssues c.toNat 0x45 = true) ∧
    (let s : State := wCore 0x46000000 { d := [(0, 5), (1, 0x8000)], a := [(0, 3)] }
     let c : BitVec 8 := 255
     let x : CoreSt := (s.core 255).atIssue
     let w : Nat := 0x46000000
     x = (s.core c.toNat).atIssue ∧
     w = x.fetched ∧
     s.coreIssues c.toNat 0x46 = true) ∧
    (let s : State := wCore 0x47000000 { d := [(0, 5), (1, 0x8000)], a := [(0, 3)] }
     let c : BitVec 8 := 255
     let x : CoreSt := (s.core 255).atIssue
     let w : Nat := 0x47000000
     x = (s.core c.toNat).atIssue ∧
     w = x.fetched ∧
     s.coreIssues c.toNat 0x47 = true) := by
  refine ⟨?_, ?_, ?_, ?_, ?_, ?_⟩
  all_goals decide

/-- The hypotheses of every clause of `Obligations.CoreArithmeticInstructionsComplete` can be met. -/
theorem test_CoreArithmeticInstructionsComplete_hypotheses :
    (let s : State := wCore 0x20000000 { d := [(0, 5), (1, 0x8000)], a := [(0, 3)] }
     let c : BitVec 8 := 255
     let x : CoreSt := (s.core 255).atIssue
     let w : Nat := 0x20000000
     x = (s.core c.toNat).atIssue ∧
     w = x.fetched ∧
     s.coreIssues c.toNat 0x20 = true) ∧
    (let s : State := wCore 0x21000000 { d := [(0, 5), (1, 0x8000)], a := [(0, 3)] }
     let c : BitVec 8 := 255
     let x : CoreSt := (s.core 255).atIssue
     let w : Nat := 0x21000000
     x = (s.core c.toNat).atIssue ∧
     w = x.fetched ∧
     s.coreIssues c.toNat 0x21 = true) ∧
    (let s : State := wCore 0x22000000 { d := [(0, 5), (1, 0x8000)], a := [(0, 3)] }
     let c : BitVec 8 := 255
     let x : CoreSt := (s.core 255).atIssue
     let w : Nat := 0x22000000
     x = (s.core c.toNat).atIssue ∧
     w = x.fetched ∧
     s.coreIssues c.toNat 0x22 = true) ∧
    (let s : State := wCore 0x23000000 { d := [(0, 5), (1, 0x8000)], a := [(0, 3)] }
     let c : BitVec 8 := 255
     let x : CoreSt := (s.core 255).atIssue
     let w : Nat := 0x23000000
     x = (s.core c.toNat).atIssue ∧
     w = x.fetched ∧
     s.coreIssues c.toNat 0x23 = true) ∧
    (let s : State := wCore 0x24000000 { d := [(0, 5), (1, 0x8000)], a := [(0, 3)] }
     let c : BitVec 8 := 255
     let x : CoreSt := (s.core 255).atIssue
     let w : Nat := 0x24000000
     x = (s.core c.toNat).atIssue ∧
     w = x.fetched ∧
     s.coreIssues c.toNat 0x24 = true) ∧
    (let s : State := wCore 0x25000000 { d := [(0, 5), (1, 0x8000)], a := [(0, 3)] }
     let c : BitVec 8 := 255
     let x : CoreSt := (s.core 255).atIssue
     let w : Nat := 0x25000000
     x = (s.core c.toNat).atIssue ∧
     w = x.fetched ∧
     s.coreIssues c.toNat 0x25 = true) ∧
    (let s : State := wCore 0x26000000 { d := [(0, 5), (1, 0x8000)], a := [(0, 3)] }
     let c : BitVec 8 := 255
     let x : CoreSt := (s.core 255).atIssue
     let w : Nat := 0x26000000
     x = (s.core c.toNat).atIssue ∧
     w = x.fetched ∧
     s.coreIssues c.toNat 0x26 = true) ∧
    (let s : State := wCore 0x27000000 { d := [(0, 5), (1, 0x8000)], a := [(0, 3)] }
     let c : BitVec 8 := 255
     let x : CoreSt := (s.core 255).atIssue
     let w : Nat := 0x27000000
     x = (s.core c.toNat).atIssue ∧
     w = x.fetched ∧
     s.coreIssues c.toNat 0x27 = true) ∧
    (let s : State := wCore 0x28000000 { d := [(0, 5), (1, 0x8000)], a := [(0, 3)] }
     let c : BitVec 8 := 255
     let x : CoreSt := (s.core 255).atIssue
     let w : Nat := 0x28000000
     x = (s.core c.toNat).atIssue ∧
     w = x.fetched ∧
     s.coreIssues c.toNat 0x28 = true) ∧
    (let s : State := wCore 0x29000000 { d := [(0, 5), (1, 0x8000)], a := [(0, 3)] }
     let c : BitVec 8 := 255
     let x : CoreSt := (s.core 255).atIssue
     let w : Nat := 0x29000000
     x = (s.core c.toNat).atIssue ∧
     w = x.fetched ∧
     s.coreIssues c.toNat 0x29 = true) ∧
    (let s : State := wCore 0x2A000000 { d := [(0, 5), (1, 0x8000)], a := [(0, 3)] }
     let c : BitVec 8 := 255
     let x : CoreSt := (s.core 255).atIssue
     let w : Nat := 0x2A000000
     x = (s.core c.toNat).atIssue ∧
     w = x.fetched ∧
     s.coreIssues c.toNat 0x2A = true) ∧
    (let s : State := wCore 0x2B000000 { d := [(0, 5), (1, 0x8000)], a := [(0, 3)] }
     let c : BitVec 8 := 255
     let x : CoreSt := (s.core 255).atIssue
     let w : Nat := 0x2B000000
     x = (s.core c.toNat).atIssue ∧
     w = x.fetched ∧
     s.coreIssues c.toNat 0x2B = true) ∧
    (let s : State := wCore 0x30000000 { d := [(0, 5), (1, 0x8000)], a := [(0, 3)] }
     let c : BitVec 8 := 255
     let x : CoreSt := (s.core 255).atIssue
     let w : Nat := 0x30000000
     x = (s.core c.toNat).atIssue ∧
     w = x.fetched ∧
     s.coreIssues c.toNat 0x30 = true) ∧
    (let s : State := wCore 0x31000000 { d := [(0, 5), (1, 0x8000)], a := [(0, 3)] }
     let c : BitVec 8 := 255
     let x : CoreSt := (s.core 255).atIssue
     let w : Nat := 0x31000000
     x = (s.core c.toNat).atIssue ∧
     w = x.fetched ∧
     s.coreIssues c.toNat 0x31 = true) ∧
    (let s : State := wCore 0x32000000 { d := [(0, 5), (1, 0x8000)], a := [(0, 3)] }
     let c : BitVec 8 := 255
     let x : CoreSt := (s.core 255).atIssue
     let w : Nat := 0x32000000
     x = (s.core c.toNat).atIssue ∧
     w = x.fetched ∧
     s.coreIssues c.toNat 0x32 = true) ∧
    (let s : State := wCore 0x33000000 { d := [(0, 5), (1, 0x8000)], a := [(0, 3)] }
     let c : BitVec 8 := 255
     let x : CoreSt := (s.core 255).atIssue
     let w : Nat := 0x33000000
     x = (s.core c.toNat).atIssue ∧
     w = x.fetched ∧
     s.coreIssues c.toNat 0x33 = true) ∧
    (let s : State := wCore 0x34000000 { d := [(0, 5), (1, 0x8000)], a := [(0, 3)] }
     let c : BitVec 8 := 255
     let x : CoreSt := (s.core 255).atIssue
     let w : Nat := 0x34000000
     x = (s.core c.toNat).atIssue ∧
     w = x.fetched ∧
     s.coreIssues c.toNat 0x34 = true) ∧
    (let s : State := wCore 0x35000000 { d := [(0, 5), (1, 0x8000)], a := [(0, 3)] }
     let c : BitVec 8 := 255
     let x : CoreSt := (s.core 255).atIssue
     let w : Nat := 0x35000000
     x = (s.core c.toNat).atIssue ∧
     w = x.fetched ∧
     s.coreIssues c.toNat 0x35 = true) ∧
    (let s : State := wCore 0x36000000 { d := [(0, 5), (1, 0x8000)], a := [(0, 3)] }
     let c : BitVec 8 := 255
     let x : CoreSt := (s.core 255).atIssue
     let w : Nat := 0x36000000
     x = (s.core c.toNat).atIssue ∧
     w = x.fetched ∧
     s.coreIssues c.toNat 0x36 = true) ∧
    (let s : State := wCore 0x37000000 { d := [(0, 5), (1, 0x8000)], a := [(0, 3)] }
     let c : BitVec 8 := 255
     let x : CoreSt := (s.core 255).atIssue
     let w : Nat := 0x37000000
     x = (s.core c.toNat).atIssue ∧
     w = x.fetched ∧
     s.coreIssues c.toNat 0x37 = true) ∧
    (let s : State := wCore 0x41000000 { d := [(0, 5), (1, 0x8000)], a := [(0, 3)] }
     let c : BitVec 8 := 255
     let x : CoreSt := (s.core 255).atIssue
     let w : Nat := 0x41000000
     x = (s.core c.toNat).atIssue ∧
     w = x.fetched ∧
     s.coreIssues c.toNat 0x41 = true) ∧
    (let s : State := wCore 0x42000000 { d := [(0, 5), (1, 0x8000)], a := [(0, 3)] }
     let c : BitVec 8 := 255
     let x : CoreSt := (s.core 255).atIssue
     let w : Nat := 0x42000000
     x = (s.core c.toNat).atIssue ∧
     w = x.fetched ∧
     s.coreIssues c.toNat 0x42 = true) ∧
    (let s : State := wCore 0x43000000 { d := [(0, 5), (1, 0x8000)], a := [(0, 3)] }
     let c : BitVec 8 := 255
     let x : CoreSt := (s.core 255).atIssue
     let w : Nat := 0x43000000
     x = (s.core c.toNat).atIssue ∧
     w = x.fetched ∧
     s.coreIssues c.toNat 0x43 = true) ∧
    (let s : State := wCore 0x44000000 { d := [(0, 5), (1, 0x8000)], a := [(0, 3)] }
     let c : BitVec 8 := 255
     let x : CoreSt := (s.core 255).atIssue
     let w : Nat := 0x44000000
     x = (s.core c.toNat).atIssue ∧
     w = x.fetched ∧
     s.coreIssues c.toNat 0x44 = true) ∧
    (let s : State := wCore 0x48000000 { d := [(0, 5), (1, 0x8000)], a := [(0, 3)] }
     let c : BitVec 8 := 255
     let x : CoreSt := (s.core 255).atIssue
     let w : Nat := 0x48000000
     x = (s.core c.toNat).atIssue ∧
     w = x.fetched ∧
     s.coreIssues c.toNat 0x48 = true) ∧
    (let s : State := wCore 0x49000000 { d := [(0, 5), (1, 0x8000)], a := [(0, 3)] }
     let c : BitVec 8 := 255
     let x : CoreSt := (s.core 255).atIssue
     let w : Nat := 0x49000000
     x = (s.core c.toNat).atIssue ∧
     w = x.fetched ∧
     s.coreIssues c.toNat 0x49 = true) := by
  refine ⟨?_, ?_, ?_, ?_, ?_, ?_, ?_, ?_, ?_, ?_, ?_, ?_, ?_, ?_, ?_, ?_, ?_, ?_, ?_, ?_, ?_, ?_, ?_, ?_, ?_, ?_⟩
  all_goals decide

/-- The hypotheses of every clause of `Obligations.CoreMemoryInstructionsComplete` can be met. -/
theorem test_CoreMemoryInstructionsComplete_hypotheses :
    (let s : State := wCore 0x50000000 { d := [(0, 5), (1, 0x8000)], a := [(0, 3)] }
     let c : BitVec 8 := 255
     let x : CoreSt := (s.core 255).atIssue
     let w : Nat := 0x50000000
     x = (s.core c.toNat).atIssue ∧
     w = x.fetched ∧
     s.coreIssues c.toNat 0x50 = true) ∧
    (let s : State := wCore 0x51000000 { d := [(0, 5), (1, 0x8000)], a := [(0, 3)] }
     let c : BitVec 8 := 255
     let x : CoreSt := (s.core 255).atIssue
     let w : Nat := 0x51000000
     x = (s.core c.toNat).atIssue ∧
     w = x.fetched ∧
     s.coreIssues c.toNat 0x51 = true) ∧
    (let s : State := wCore 0x52000000 { d := [(0, 5), (1, 0x8000)], a := [(0, 3)] }
     let c : BitVec 8 := 255
     let x : CoreSt := (s.core 255).atIssue
     let w : Nat := 0x52000000
     x = (s.core c.toNat).atIssue ∧
     w = x.fetched ∧
     s.coreIssues c.toNat 0x52 = true) ∧
    (let s : State := wCore 0x53000000 { d := [(0, 5), (1, 0x8000)], a := [(0, 3)] }
     let c : BitVec 8 := 255
     let x : CoreSt := (s.core 255).atIssue
     let w : Nat := 0x53000000
     x = (s.core c.toNat).atIssue ∧
     w = x.fetched ∧
     s.coreIssues c.toNat 0x53 = true) ∧
    (let s : State := wCore 0x54080810 { d := [(0, 5), (1, 0x8000)], a := [(0, 3)] }
     let c : BitVec 8 := 255
     let x : CoreSt := (s.core 255).atIssue
     let w : Nat := 0x54080810
     x = (s.core c.toNat).atIssue ∧
     w = x.fetched ∧
     s.coreIssues c.toNat 0x54 = true ∧
     fD w ≠ fS w) ∧
    (let s : State := wCore 0x55000810 { d := [(0, 5), (1, 0x8000)], a := [(0, 3)] }
     let c : BitVec 8 := 255
     let x : CoreSt := (s.core 255).atIssue
     let w : Nat := 0x55000810
     x = (s.core c.toNat).atIssue ∧
     w = x.fetched ∧
     s.coreIssues c.toNat 0x55 = true) := by
  refine ⟨?_, ?_, ?_, ?_, ?_, ?_⟩
  all_goals decide

/-- The hypotheses of every clause of `Obligations.CoreAccumulatorInstructionsComplete` can be met. -/
theorem test_CoreAccumulatorInstructionsComplete_hypotheses :
    (let s : State := wCore 0x60000000 { d := [(0, 5), (1, 0x8000)], a := [(0, 3)] }
     let c : BitVec 8 := 255
     let x : CoreSt := (s.core 255).atIssue
     let w : Nat := 0x60000000
     x = (s.core c.toNat).atIssue ∧
     w = x.fetched ∧
     s.coreIssues c.toNat 0x60 = true) ∧
    (let s : State := wCore 0x61000000 { d := [(0, 5), (1, 0x8000)], a := [(0, 3)] }
     let c : BitVec 8 := 255
     let x : CoreSt := (s.core 255).atIssue
     let w : Nat := 0x61000000
     x = (s.core c.toNat).atIssue ∧
     w = x.fetched ∧
     s.coreIssues c.toNat 0x61 = true) ∧
    (let s : State := wCore 0x62000000 { d := [(0, 5), (1, 0x8000)], a := [(0, 3)] }
     let c : BitVec 8 := 255
     let x : CoreSt := (s.core 255).atIssue
     let w : Nat := 0x62000000
     x = (s.core c.toNat).atIssue ∧
     w = x.fetched ∧
     s.coreIssues c.toNat 0x62 = true) ∧
    (let s : State := wCore 0x63000000 { d := [(0, 5), (1, 0x8000)], a := [(0, 3)] }
     let c : BitVec 8 := 255
     let x : CoreSt := (s.core 255).atIssue
     let w : Nat := 0x63000000
     x = (s.core c.toNat).atIssue ∧
     w = x.fetched ∧
     s.coreIssues c.toNat 0x63 = true) ∧
    (let s : State := wCore 0x64000000 { d := [(0, 5), (1, 0x8000)], a := [(0, 3)] }
     let c : BitVec 8 := 255
     let x : CoreSt := (s.core 255).atIssue
     let w : Nat := 0x64000000
     x = (s.core c.toNat).atIssue ∧
     w = x.fetched ∧
     s.coreIssues c.toNat 0x64 = true) ∧
    (let s : State := wCore 0x65000000 { d := [(0, 5), (1, 0x8000)], a := [(0, 3)] }
     let c : BitVec 8 := 255
     let x : CoreSt := (s.core 255).atIssue
     let w : Nat := 0x65000000
     x = (s.core c.toNat).atIssue ∧
     w = x.fetched ∧
     s.coreIssues c.toNat 0x65 = true) ∧
    (let s : State := wCore 0x66000000 { d := [(0, 5), (1, 0x8000)], a := [(0, 3)] }
     let c : BitVec 8 := 255
     let x : CoreSt := (s.core 255).atIssue
     let w : Nat := 0x66000000
     x = (s.core c.toNat).atIssue ∧
     w = x.fetched ∧
     s.coreIssues c.toNat 0x66 = true) ∧
    (let s : State := wCore 0x67000000 { d := [(0, 5), (1, 0x8000)], a := [(0, 3)] }
     let c : BitVec 8 := 255
     let x : CoreSt := (s.core 255).atIssue
     let w : Nat := 0x67000000
     x = (s.core c.toNat).atIssue ∧
     w = x.fetched ∧
     s.coreIssues c.toNat 0x67 = true) ∧
    (let s : State := wCore 0x70F98000 { d := [(0, 5), (1, 0x8000)], a := [(0, 3)] }
     let c : BitVec 8 := 255
     let x : CoreSt := (s.core 255).atIssue
     let w : Nat := 0x70F98000
     x = (s.core c.toNat).atIssue ∧
     w = x.fetched ∧
     s.coreIssues c.toNat 0x70 = true) ∧
    (let s : State := wCore 0x71000000 { d := [(0, 5), (1, 0x8000)], a := [(0, 3)] }
     let c : BitVec 8 := 255
     let x : CoreSt := (s.core 255).atIssue
     let w : Nat := 0x71000000
     x = (s.core c.toNat).atIssue ∧
     w = x.fetched ∧
     s.coreIssues c.toNat 0x71 = true) ∧
    (let s : State := wCore 0x72000000 { d := [(0, 5), (1, 0x8000)], a := [(0, 3)] }
     let c : BitVec 8 := 255
     let x : CoreSt := (s.core 255).atIssue
     let w : Nat := 0x72000000
     x = (s.core c.toNat).atIssue ∧
     w = x.fetched ∧
     s.coreIssues c.toNat 0x72 = true) ∧
    (let s : State := wCore 0x73000000 { d := [(0, 5), (1, 0x8000)], a := [(0, 3)] }
     let c : BitVec 8 := 255
     let x : CoreSt := (s.core 255).atIssue
     let w : Nat := 0x73000000
     x = (s.core c.toNat).atIssue ∧
     w = x.fetched ∧
     s.coreIssues c.toNat 0x73 = true) ∧
    (let s : State := wCore 0x74000000 { d := [(0, 5), (1, 0x8000)], a := [(0, 3)] }
     let c : BitVec 8 := 255
     let x : CoreSt := (s.core 255).atIssue
     let w : Nat := 0x74000000
     x = (s.core c.toNat).atIssue ∧
     w = x.fetched ∧
     s.coreIssues c.toNat 0x74 = true) ∧
    (let s : State := wCore 0x80000000 { d := [(0, 5), (1, 0x8000)], a := [(0, 3)] }
     let c : BitVec 8 := 255
     let x : CoreSt := (s.core 255).atIssue
     let w : Nat := 0x80000000
     x = (s.core c.toNat).atIssue ∧
     w = x.fetched ∧
     s.coreIssues c.toNat 0x80 = true) ∧
    (let s : State := wCore 0x81000000 { d := [(0, 5), (1, 0x8000)], a := [(0, 3)] }
     let c : BitVec 8 := 255
     let x : CoreSt := (s.core 255).atIssue
     let w : Nat := 0x81000000
     x = (s.core c.toNat).atIssue ∧
     w = x.fetched ∧
     s.coreIssues c.toNat 0x81 = true) := by
  refine ⟨?_, ?_, ?_, ?_, ?_, ?_, ?_, ?_, ?_, ?_, ?_, ?_, ?_, ?_, ?_⟩
  all_goals decide

/-- The hypotheses of every clause of `Obligations.CoreSystemInstructionsComplete` can be met. -/
theorem test_CoreSystemInstructionsComplete_hypotheses :
    (let s : State := { wCore 0x16E00000 {} with clk := { timebase := 0x123456789ABCDEF0 } }
     let c : BitVec 8 := 255
     let x : CoreSt := (s.core 255).atIssue
     let w : Nat := 0x16E00000
     x = (s.core c.toNat).atIssue ∧
     w = x.fetched ∧
     s.coreIssues c.toNat 0x16 = true) ∧
    (let s : State := (wCore 0x01000000 {}).put F.SGC_VECTOR_base 0x100 255
     let c : BitVec 8 := 255
     let x : CoreSt := (s.core 255).atIssue
     x = (s.core c.toNat).atIssue ∧
     s.coreAt c.toNat 0x01 = true ∧
     x.issueExc x.fetched x.pc = some 4 ∧
     bit x.sr 14 = false ∧
     x.restore = false) ∧
    (let s : State := wCore 0x1000000F {}
     let c : BitVec 8 := 255
     let x : CoreSt := (s.core 255).atIssue
     let u : State := s.coreRetires 255 x {}
     x = (s.core c.toNat).atIssue ∧
     s.coreIssues c.toNat 0x10 = true ∧
     u = s.coreRetires c.toNat x {}) ∧
    (let s : State :=
         { wCore 0x11000000 { th := 0x10005 } with swf := { tasks := [(5, { phase := 2, gen := 1, op := 4, exec := 255 })] } }
     let c : BitVec 8 := 255
     let x : CoreSt := (s.core 255).atIssue
     let u : State := s.coreRetires 255 x {}
     let k : Nat := 5
     let a : Nat := 0
     x = (s.core c.toNat).atIssue ∧
     s.coreIssues c.toNat 0x11 = true ∧
     u = s.coreRetires c.toNat x {} ∧
     s.heldTask c.toNat = some k ∧
     a = x.addr (bits x.fetched 21 19)) ∧
    (let s : State :=
         { wCore 0x12000000 { th := 0x10005 } with swf := { tasks := [(5, { phase := 2, gen := 1, op := 4, exec := 255 })] } }
     let c : BitVec 8 := 255
     let x : CoreSt := (s.core 255).atIssue
     let k : Nat := 5
     let u : State := ((s.coreRetires 255 x {}).taskDone 5 0).flushTrace
     x = (s.core c.toNat).atIssue ∧
     s.coreIssues c.toNat 0x12 = true ∧
     s.heldTask c.toNat = some k ∧
     u = ((s.coreRetires c.toNat x {}).taskDone k (b2n (bit x.fetched 23))).flushTrace) ∧
    (let s : State := wCore 0x13200000 { a := [(1, 64)] }
     let c : BitVec 8 := 255
     let x : CoreSt := (s.core 255).atIssue
     let u : State := s.coreRetires 255 x {}
     x = (s.core c.toNat).atIssue ∧
     s.coreIssues c.toNat 0x13 = true ∧
     x.dma.length < 4 ∧
     u = s.coreRetires c.toNat x {}) := by
  refine ⟨?_, ?_, ?_, ?_, ?_, ?_⟩
  all_goals decide

/-- A small state or operand for the hypotheses of the Noc commands. -/
def wNoc : State := ({ State.reset with swf := { dq := [(9, { alloc := true, depth := 4 })] }, cap := { quires := [(7, { state := 2, used := 1, leaves := [(0, {})] })] } }).put F.NOC_STATUS_rings_up 255
/-- A small state or operand for the hypotheses of the Noc commands. -/
def wPkt : PktArg := { dst := 0, src := 300, vc := 0, length := 0, tenant := 0, tag := 0, status := 0, zero := 0, addr := 0, data := [], waits := [] }

/-- The hypotheses of every clause of `Obligations.NocCommandsComplete` can be met. -/
theorem test_NocCommandsComplete_hypotheses :
    (let s : State := wNoc
     let p : PktArg := { wPkt with dst := 274, length := 1, addr := 0x1C000000 }
     let q : Nat := 7
     let i : Nat := 0
     let l : Leaf := {}
     p.dst.toNat = 274 ∧
     (s.path p.src.toNat 274).isSome = true ∧
     ((upTo 32).all (fun q => !s.on F.NOC_PROBE_CFG_enable q) = true) ∧
     p.length.toNat ≤ 4 ∧ p.status.toNat ≤ 3 ∧ p.zero = 0 ∧
     q = p.addr.toNat / 4096 / 16384 ∧ q < 524288 ∧ i = p.addr.toNat / 4096 % 16384 ∧
     (s.quire q).readable = true ∧
     ((s.quire q).tenant = p.tenant.toNat ∨ p.tenant = 0) ∧
     s.rawBlocked p.tenant.toNat q = false ∧
     (s.quire q).leaf? i = some l) ∧
    (let s : State := wNoc.put F.FAB_SECT_STATUS_state Sec.RUNNING 255
     let p : PktArg := { wPkt with dst := 255, length := 4 }
     p.dst.toNat < 256 ∧
     (s.path p.src.toNat p.dst.toNat).isSome = true ∧
     ((upTo 32).all (fun q => !s.on F.NOC_PROBE_CFG_enable q) = true) ∧
     p.length.toNat ≤ 4 ∧ p.status.toNat ≤ 3 ∧ p.zero = 0 ∧
     p.tenant.toNat = s.get F.FAB_SECT_STATUS_holder p.dst.toNat ∧
     s.get F.FAB_SECT_STATUS_state p.dst.toNat = Sec.RUNNING ∧ s.haltedBy 1 p.dst.toNat = false) ∧
    (let s : State := wNoc
     let p : PktArg := { wPkt with dst := 273, length := 1, addr := 9, data := [5] }
     let q : Nat := 9
     p.dst.toNat = 273 ∧
     (s.path p.src.toNat 273).isSome = true ∧
     ((upTo 32).all (fun q => !s.on F.NOC_PROBE_CFG_enable q) = true) ∧
     p.length.toNat ≤ 4 ∧ p.status.toNat ≤ 3 ∧ p.zero = 0 ∧
     q = p.addr.toNat % 2 ^ 20 ∧
     s.dqHolder q = p.tenant.toNat) ∧
    (let s : State := wNoc.put F.FAB_SECT_STATUS_state Sec.RUNNING 255
     let p : PktArg := { wPkt with dst := 255, length := 4 }
     p.dst.toNat < 256 ∧
     (s.path p.src.toNat p.dst.toNat).isSome = true ∧
     ((upTo 32).all (fun q => !s.on F.NOC_PROBE_CFG_enable q) = true) ∧
     p.length.toNat ≤ 4 ∧ p.status.toNat ≤ 3 ∧ p.zero = 0 ∧
     s.get F.FAB_SECT_STATUS_state p.dst.toNat = Sec.RUNNING) ∧
    (let s : State := wNoc.put F.FAB_SECT_STATUS_state Sec.RUNNING 255
     let p : PktArg := { wPkt with dst := 255 }
     p.dst.toNat < 256 ∧
     (s.path p.src.toNat p.dst.toNat).isSome = true ∧
     ((upTo 32).all (fun q => !s.on F.NOC_PROBE_CFG_enable q) = true) ∧
     p.length.toNat ≤ 4 ∧ p.status.toNat ≤ 3 ∧ p.zero = 0 ∧
     s.get F.FAB_SECT_STATUS_state p.dst.toNat = Sec.RUNNING) ∧
    (let s : State := wNoc
     let p : PktArg := { wPkt with dst := 272 }
     256 ≤ p.dst.toNat ∧ p.dst.toNat < 276 ∧
     (¬ (p.dst.toNat = 275 ∧ bit p.addr.toNat 63 = true)) ∧
     (s.path p.src.toNat p.dst.toNat).isSome = true ∧
     ((upTo 32).all (fun q => !s.on F.NOC_PROBE_CFG_enable q) = true) ∧
     p.length.toNat ≤ 4 ∧ p.status.toNat ≤ 3 ∧ p.zero = 0) ∧
    (let s : State := wNoc
     let p : PktArg := { wPkt with dst := 275, length := 1 }
     256 ≤ p.dst.toNat ∧ p.dst.toNat < 276 ∧
     (¬ (p.dst.toNat = 275 ∧ bit p.addr.toNat 63 = true)) ∧
     (s.path p.src.toNat p.dst.toNat).isSome = true ∧
     ((upTo 32).all (fun q => !s.on F.NOC_PROBE_CFG_enable q) = true) ∧
     p.length.toNat ≤ 4 ∧ p.status.toNat ≤ 3 ∧ p.zero = 0) ∧
    (True) ∧
    (let s : State := wNoc.put F.NOC_RING_STATUS_state V.NOC_RING_STATUS_state_UP 7
     let ring : BitVec 3 := 7
     let cause : BitVec 2 := 3
     let segment : BitVec 6 := 51
     s.get F.NOC_RING_STATUS_state ring.toNat = V.NOC_RING_STATUS_state_UP ∧
     cause ≠ 0 ∧ segment.toNat ≤ 51) ∧
    (True) ∧
    (let s : State := { wNoc with boot := { ready := true } }
     let p : Path := .bar0
     let q : BitVec 5 := 31
     let v : Word := 0x01130000
     s.writable p Reg.NOC_PROBE_SRC q.toNat 0 0 v = true ∧
     bits v.toNat 25 16 ≤ 275 ∧
     s.on F.NOC_PROBE_CFG_enable q.toNat = false) := by
  refine ⟨?_, ?_, ?_, ?_, ?_, ?_, ?_, ?_, ?_, ?_, ?_⟩
  all_goals decide

/-- A small state or operand for the hypotheses of the Dma commands. -/
def wDma (k : Nat) : State :=
  ({ State.reset with cores := [(255, { dma := [0], dmem := [(0, k), (3, 1)] })], cap := { quires := [(0, { state := 2, used := 1, leaves := [(0, {})] })], streams := [(0, { quires := [0] })] }, swf := { dq := [(0, { alloc := true, depth := 4 })] } }).put F.SGC_STATUS_state Core.RUNNING 255 |>.put F.CAP_STREAM_STATUS_state Strm.CLOSED 0

/-- The hypotheses of every clause of `Obligations.DmaCommandsComplete` can be met. -/
theorem test_DmaCommandsComplete_hypotheses :
    (let s : State := wDma 0
     let c : BitVec 8 := 255
     let b : DmaBlock := (s.core 255).block 0
     let l : Leaf := {}
     s.served c.toNat 0 = some b ∧
     firstFailing (s.dmaLeafChecks c.toNat b false) = none ∧
     (s.quire b.name2).leaf? b.leaf = some l ∧
     bit b.flags 1 = false) ∧
    (let s : State := wDma 1
     let c : BitVec 8 := 255
     let b : DmaBlock := (s.core 255).block 0
     let l : Leaf := {}
     s.served c.toNat 1 = some b ∧
     firstFailing (s.dmaLeafChecks c.toNat b true) = none ∧
     s.rawBlocked (s.coreHolder c.toNat) b.name2 = false ∧
     (s.quire b.name2).leaf? b.leaf = some l) ∧
    (let s : State := (((wDma 2).put F.FAB_SECT_STATUS_state Sec.RUNNING 0).put F.PWR_DOMAIN_STATUS_state 0 16).put
         F.NOC_STATUS_rings_up 255
     let c : BitVec 8 := 255
     let b : DmaBlock := (s.core 255).block 0
     let u : State := s.send (.noc { op := 0, src := 271, dst := 0, tenant := 0, addr := 0, count := 1 })
     s.served c.toNat 2 = some b ∧
     firstFailing (s.dmaSectionChecks c.toNat b) = none ∧
     s.nocDown = false ∧
     u = s.send (.noc
         { op := 0, src := 256 + c.toNat / 16, dst := b.name2, tenant := s.coreHolder c.toNat, addr := b.remote, count := b.length }))
         ∧
    (let s : State := (((wDma 3).put F.FAB_SECT_STATUS_state Sec.RUNNING 0).put F.PWR_DOMAIN_STATUS_state 0 16).put
         F.NOC_STATUS_rings_up 255
     let c : BitVec 8 := 255
     let b : DmaBlock := (s.core 255).block 0
     s.served c.toNat 3 = some b ∧
     firstFailing (s.dmaSectionChecks c.toNat b) = none ∧
     s.nocDown = false) ∧
    (let s : State := ({ State.reset with cores := [(3, { dma := [0], dmem := [(0, 4), (3, 1)] })] }).put
         F.SGC_STATUS_state Core.RUNNING 3 |>.put F.SGC_STATUS_state Core.STOPPED 0
     let c : BitVec 8 := 3
     let b : DmaBlock := (s.core 3).block 0
     let m : Nat := 0
     s.served c.toNat 4 = some b ∧
     m = b.name ∧ m ≤ 255 ∧ m / 16 = c.toNat / 16 ∧ s.coreHolder m = s.coreHolder c.toNat ∧
     b.zeros = false ∧ b.name2 = 0 ∧ b.lengthBad b.length = false ∧ b.remote + b.length ≤ 32768 ∧ bit b.flags 1 =
         false ∧
     (s.coreState m = Core.STOPPED ∨ s.coreState m = Core.RUNNING ∨ s.coreState m = Core.WAITING)) ∧
    (let s : State := wDma 5
     let c : BitVec 8 := 255
     let b : DmaBlock := (s.core 255).block 0
     s.served c.toNat 5 = some b ∧
     b.zeros = false ∧ b.name < 1048576 ∧ b.name2 = 0 ∧ b.lengthBad 32 = false ∧ bit b.flags 1 = false ∧
     s.dqHolder b.name = s.coreHolder c.toNat ∧
     (s.dq b.name).free ≠ 0) ∧
    (let s : State :=
         { State.reset with cores := [(3, { dma := [0], dmem := [(0, 4), (3, 1)], dmaStatus := some 0 })] }
     let c : BitVec 8 := 3
     let x : CoreSt := s.core 3
     let a : Nat := 0
     let v : Nat := 0
     let r : List Nat := []
     x = s.core c.toNat ∧
     x.dma = a :: r ∧
     x.dmaEnd (x.block a) = some v ∧
     bit (x.block a).flags 0 = false) := by
  refine ⟨?_, ?_, ?_, ?_, ?_, ?_, ?_⟩
  all_goals decide

/-- A small state or operand for the hypotheses of the Hif commands. -/
def wHif (x : Tenant) : State := { State.reset with boot := { ready := true }, tenants := [(255, x)] }

/-- The hypotheses of every clause of `Obligations.HostCommandsComplete` can be met. -/
theorem test_HostCommandsComplete_hypotheses :
    (let s : State := wHif { vfEnabled := true, sq := [(63, { present := true, log2 := 6 })] }
     let tenant : BitVec 8 := 255
     let ring : BitVec 6 := 63
     let v : Word := 63
     let x : Tenant := s.ten 255
     let q : Sq := { present := true, log2 := 6 }
     s.dead = false ∧ s.funcOn tenant.toNat = true ∧
     x = s.ten tenant.toNat ∧ q = Tbl.get {} x.sq ring.toNat ∧
     q.present = true ∧ v.toNat < 2 ^ q.log2) ∧
    (let s : State := wHif
         { vfEnabled := true, cq := [(63, { present := true, log2 := 6, head := 60, tail := 2 })] }
     let tenant : BitVec 8 := 255
     let ring : BitVec 6 := 63
     let v : Word := 2
     let x : Tenant := s.ten 255
     let c : Cq := { present := true, log2 := 6, head := 60, tail := 2 }
     s.dead = false ∧ s.funcOn tenant.toNat = true ∧
     x = s.ten tenant.toNat ∧ c = Tbl.get {} x.cq ring.toNat ∧
     c.present = true ∧ v.toNat < 2 ^ c.log2 ∧
     (v.toNat + 2 ^ c.log2 - c.head) % 2 ^ c.log2 ≤ (c.tail + 2 ^ c.log2 - c.head) % 2 ^ c.log2) ∧
    (let s : State := wHif { vfEnabled := true }
     let tenant : BitVec 8 := 255
     let v : Word := 0x80101006
     let x : Tenant := { s.ten 255 with setupCtrl := 0x00101006 }
     let k : Nat := 16
     s.dead = false ∧ s.funcOn tenant.toNat = true ∧
     bit v.toNat 31 = true ∧ k = bits v.toNat 20 16 ∧ 6 ≤ k ∧ k ≤ 16 ∧
     6 ≤ bits v.toNat 12 8 ∧ bits v.toNat 12 8 ≤ 16 ∧
     x = { s.ten tenant.toNat with setupCtrl := v &&& 0x001F1F3F#32 } ∧
     x.setupSq.toNat % 4096 = 0 ∧ x.setupCq.toNat % 4096 = 0 ∧
     (Tbl.get {} x.sq 0).outstanding = []) ∧
    (let s : State := wHif
         { vfEnabled := true, bme := true, sq := [(63, { present := true, log2 := 6, head := 63, cq := 5 })], cq := [(5, { present := true, log2 := 6 })] }
     let tenant : BitVec 8 := 255
     let ring : BitVec 6 := 63
     let header : Word := 0x00070020
     let x : Tenant := s.ten 255
     let q : Sq := { present := true, log2 := 6, head := 63, cq := 5 }
     let c : Cq := { present := true, log2 := 6 }
     s.dead = false ∧ x = s.ten tenant.toNat ∧ q = Tbl.get {} x.sq ring.toNat ∧ c = Tbl.get {} x.cq q.cq ∧
     q.present = true ∧ q.error = false ∧ q.head ≠ q.tail ∧ x.bme = true ∧
     ((x.sq.map (fun (p : Nat × Sq) => p.2.outstanding.length)).sum < 4096) ∧
     (c.tail + 2 ^ c.log2 - c.head) % 2 ^ c.log2 + c.reserved + 2 ≤ 2 ^ c.log2 ∧
     bit header.toNat 8 = false ∧
     bits header.toNat 7 0 ∈ opcodes ∧ bits header.toNat 7 0 ≠ 0x27) ∧
    (let s : State := wHif { vfEnabled := true, sq := [(63, { present := true, log2 := 6 })] }
     let tenant : BitVec 8 := 255
     let ring : BitVec 6 := 63
     (Tbl.get {} (s.ten tenant.toNat).sq ring.toNat).present = true) ∧
    (let s : State := wHif
         { vfEnabled := true, cq := [(63, { present := true, n := 4, tau := 3, since := 2, vector := 9 })] }
     let tenant : BitVec 8 := 255
     let cq : BitVec 6 := 63
     let x : Tenant := s.ten 255
     let c : Cq := { present := true, n := 4, tau := 3, since := 2, vector := 9 }
     x = s.ten tenant.toNat ∧ c = Tbl.get {} x.cq cq.toNat ∧
     c.present = true ∧ c.n ≠ 0 ∧ c.tau ≠ 0 ∧ c.since ≠ 0) ∧
    (let s : State := wHif {}
     let d : Desc := ({ tenant := 255, ring := 63, tag := 7 })
     s.admits d = true) ∧
    (let s : State := wHif {}
     let d : Desc := ({ tenant := 255, ring := 63, tag := 7 })
     let ring : BitVec 8 := 63
     let log2 : BitVec 8 := 16
     let bound : BitVec 8 := 63
     let base : BitVec 64 := 8192
     let x : Tenant := s.ten 255
     s.admits d = true ∧
     x = s.ten d.tenant.toNat ∧
     1 ≤ ring.toNat ∧ ring.toNat ≤ 63 ∧ 6 ≤ log2.toNat ∧ log2.toNat ≤ 16 ∧ base.toNat % 4096 = 0 ∧
     bound.toNat ≤ 63 ∧ (Tbl.get {} x.cq ring.toNat).present = false) ∧
    (let s : State := wHif { cq := [(5, { present := true })] }
     let d : Desc := ({ tenant := 255, ring := 63, tag := 7 })
     let ring : BitVec 8 := 63
     let log2 : BitVec 8 := 6
     let bound : BitVec 8 := 5
     let base : BitVec 64 := 8192
     let x : Tenant := s.ten 255
     s.admits d = true ∧
     x = s.ten d.tenant.toNat ∧
     1 ≤ ring.toNat ∧ ring.toNat ≤ 63 ∧ 6 ≤ log2.toNat ∧ log2.toNat ≤ 16 ∧ base.toNat % 4096 = 0 ∧
     (Tbl.get {} x.cq bound.toNat).present = true ∧ (Tbl.get {} x.sq ring.toNat).present = false) ∧
    (let s : State := wHif { cq := [(63, { present := true })] }
     let d : Desc := ({ tenant := 255, ring := 63, tag := 7 })
     let ring : BitVec 8 := 63
     let x : Tenant := s.ten 255
     s.admits d = true ∧
     x = s.ten d.tenant.toNat ∧
     1 ≤ ring.toNat ∧ ring.toNat ≤ 63 ∧ (Tbl.get {} x.cq ring.toNat).present = true ∧
     (x.sq.any (fun p => p.2.present && p.2.cq == ring.toNat) = false)) ∧
    (let s : State := wHif { vfEnabled := true, withheld := [.hostWrite 255 0 [7]] }
     let tenant : BitVec 8 := 255
     let x : Tenant := s.ten 255
     s.dead = false ∧ s.funcOn tenant.toNat = true ∧ x = s.ten tenant.toNat) ∧
    (let s : State := wHif {}
     s.dead = false ∧ (s.ten 1).vfEnabled = false ∧ (s.ten 1).resetStep = 0) ∧
    (let s : State := wHif {}
     let d : Desc := { tenant := 0 }
     let tenant : BitVec 8 := 255
     let w0 : Word := 9
     s.admits d = true ∧ s.mgmtUp = true ∧ d.tenant = 0 ∧
     s.writable (.descriptor 0) Reg.CAP_QUOTA_FRONT tenant.toNat 0 0 w0 = true) ∧
    (let s : State := { wHif {} with cap := { quires := [(524287, { state := 2, tenant := 255 })] } }
     let d : Desc := ({ tenant := 255, ring := 63, tag := 7 })
     let index : Word := 524287
     s.admits d = true ∧
     index.toNat < 524288 ∧ (s.quire index.toNat).state ≠ Qr.FREE ∧ (s.quire index.toNat).tenant = d.tenant.toNat)
         := by
  refine ⟨?_, ?_, ?_, ?_, ?_, ?_, ?_, ?_, ?_, ?_, ?_, ?_, ?_, ?_⟩
  all_goals decide

/-- A small state or operand for the hypotheses of the Grants commands. -/
def wGr : State := { State.reset with boot := { ready := true } }

/-- The hypotheses of every clause of `Obligations.GrantAndResetCommandsComplete` can be met. -/
theorem test_GrantAndResetCommandsComplete_hypotheses :
    (let s : State := wGr.put F.HIF_TENANT_STATUS_state 1 255
     let d : Desc := ({ tenant := 0, tag := 7 })
     let ty : BitVec 8 := 3
     let tenant : BitVec 8 := 255
     let first : Word := 254
     let count : Word := 2
     s.admits d = true ∧ s.mgmtUp = true ∧ d.tenant = 0 ∧
     0 < count.toNat ∧ first.toNat + count.toNat ≤ unitCount ty.toNat ∧ tenant ≠ 0 ∧
     s.get F.HIF_TENANT_STATUS_state tenant.toNat = 1 ∧
     (((upTo count.toNat).map (· + first.toNat)).all (fun i => s.unitOwner ty.toNat i == 0 && !s.unitUsed ty.toNat
         i) = true)) ∧
    (let s : State := wGr.put F.GIO_TLINE_holder 255 31
     let d : Desc := ({ tenant := 0, tag := 7 })
     let ty : BitVec 8 := 7
     let tenant : BitVec 8 := 255
     let first : Word := 31
     let count : Word := 1
     s.admits d = true ∧ s.mgmtUp = true ∧ d.tenant = 0 ∧
     0 < count.toNat ∧ first.toNat + count.toNat ≤ unitCount ty.toNat ∧ tenant ≠ 0 ∧
     (((upTo count.toNat).map (· + first.toNat)).all (fun i => s.unitOwner ty.toNat i == tenant.toNat && !s.unitUsed
         ty.toNat i) = true)) ∧
    (let s : State := (wGr.put F.PWR_DOMAIN_STATUS_state 0 271).put F.FAB_SECT_STATUS_state Sec.CLEARING 255
     let sec : BitVec 8 := 255
     s.sect sec.toNat = Sec.CLEARING ∧ s.domOn (domSection sec.toNat) = true ∧
     s.fab.loads = []) ∧
    (let s : State := { wGr with tenants := [(255, { vfEnabled := true })] }
     let tenant : BitVec 8 := 255
     s.dead = false ∧ tenant ≠ 0 ∧ (s.ten tenant.toNat).vfEnabled = true ∧ (s.ten tenant.toNat).resetStep = 0) ∧
    (let s : State := { wGr with tenants := [(255, { vfEnabled := true, resetStep := 1 })] }
     let tenant : BitVec 8 := 255
     s.dead = false ∧ tenant ≠ 0 ∧ (s.ten tenant.toNat).resetStep = 1 ∧
     (s.cap.streams.all (fun p => s.strmHolder p.1 != tenant.toNat || s.strmState p.1 == Strm.CLOSED) = true)) ∧
    (let s : State := { wGr with tenants := [(255, { vfEnabled := true })] }
     s.dead = false) ∧
    (let s : State := wGr
     s.dead = false) ∧
    (let s : State := wGr
     s.dead = false) ∧
    (let s : State := { wGr with boot := { endedS03 := true } }.put F.HIF_LINK_STATUS_perst_n 0
     s.dead = false ∧ s.on F.HIF_LINK_STATUS_perst_n = false ∧
     s.boot.endedS03 = true ∧ s.hostless = false) ∧
    (let s : State := wGr.put F.HIF_LINK_STATUS_state V.HIF_LINK_STATUS_state_UP
     s.dead = false ∧ s.get F.HIF_LINK_STATUS_state = V.HIF_LINK_STATUS_state_UP) ∧
    (let s : State := wGr.put F.HIF_LINK_STATUS_perst_n 1
     s.dead = false ∧ s.hostless = false ∧ s.get F.HIF_LINK_STATUS_state ≠ V.HIF_LINK_STATUS_state_UP ∧
     s.on F.HIF_LINK_STATUS_perst_n = true) ∧
    (let s : State := wGr.put F.HIF_LINK_STATUS_perst_n 1
     s.dead = false ∧ s.hostless = false ∧ s.get F.HIF_LINK_STATUS_state ≠ V.HIF_LINK_STATUS_state_UP ∧
     s.on F.HIF_LINK_STATUS_perst_n = true ∧ 3 ∉ s.boot.active) ∧
    (let s : State := wGr
     let d : Desc := ({ tenant := 0, tag := 7 })
     let slot : BitVec 8 := 3
     let offset : Word := 0x5F00000
     let length : Word := 1048576
     s.admits d = true ∧ s.mgmtUp = true ∧ d.tenant = 0 ∧ d.readFail = false ∧ s.noFirmware = false ∧
     slot.toNat ≤ 3 ∧ offset.toNat % 4 = 0 ∧ length.toNat % 4 = 0 ∧ 0 < length.toNat ∧ length.toNat ≤ 1048576 ∧
     (offset.toNat + length.toNat ≤ (if slot.toNat ≤ 1 then 0x800000 else 0x6000000)) ∧
     (s.boot.fwRunning ≠ slot.toNat + 2 ∧ (slot.toNat ≤ 1 ∨ s.boot.fabRunning + 1 ≠ slot.toNat))) := by
  refine ⟨?_, ?_, ?_, ?_, ?_, ?_, ?_, ?_, ?_, ?_, ?_, ?_, ?_⟩
  all_goals decide

/-- A small state or operand for the hypotheses of the Brynust commands. -/
def wBry : State := ({ State.reset with swf := { dq := [(9, { alloc := true, depth := 4 })] } }.put F.BRY_RING_STATUS_role 1).put F.BRY_RING_STATUS_size 4
/-- A small state or operand for the hypotheses of the Brynust commands. -/
def wUp (s : State) (p : Nat) : State := (s.put F.BRY_PORT_STATUS_state V.BRY_PORT_STATUS_state_UP p).put F.BRY_RING_STATUS_reachable 15
/-- A small state or operand for the hypotheses of the Brynust commands. -/
def wFlit : FlitArg := { port := 1, seq := 1, ack := 5, check := 0 }

/-- The hypotheses of every clause of `Obligations.BrynustCommandsComplete` can be met. -/
theorem test_BrynustCommandsComplete_hypotheses :
    (let s : State := (wBry.put F.PWR_DOMAIN_STATUS_state 0 320)
     let port : BitVec 2 := 1
     let ringId : BitVec 16 := 0
     let size : BitVec 4 := 4
     let number : BitVec 3 := 3
     let bad : BitVec 8 := 1
     let u : State := ((((s.put F.BRY_PORT_STATUS_partner 3 1).ev F.BRY_PORT_STATUS_partner_valid 1).setBryPort 1
         {}).put F.BRY_PORT_STATUS_x4 1 1)
     s.portUsed port.toNat = true ∧ s.domOn (domBry port.toNat) = true ∧
     (s.get F.BRY_PORT_STATUS_state port.toNat = Bry.DOWN ∨ s.get F.BRY_PORT_STATUS_state port.toNat = Bry.TRAINING)
         ∧
     s.encrypts port.toNat = false ∧
     ringId.toNat = bits (s.boot.ringAtStart.getD 0#32).toNat 15 0 ∧ size.toNat = s.ringSize ∧ number.toNat =
         s.neighbour port.toNat ∧
     (bad.toNat % 16 = 0 ∨ bad.toNat / 16 = 0) ∧
     (u = (((s.put F.BRY_PORT_STATUS_partner number.toNat port.toNat).ev F.BRY_PORT_STATUS_partner_valid
         port.toNat).setBryPort port.toNat {}).put F.BRY_PORT_STATUS_x4 (if bad = 0 then 0 else 1) port.toNat)) ∧
    (let s : State := (wBry.put F.PWR_DOMAIN_STATUS_state 0 320)
     let port : BitVec 2 := 1
     s.portUsed port.toNat = true ∧ s.domOn (domBry port.toNat) = true ∧
     (s.get F.BRY_PORT_STATUS_state port.toNat = Bry.DOWN ∨ s.get F.BRY_PORT_STATUS_state port.toNat =
         Bry.TRAINING)) ∧
    (let s : State := wUp wBry 3
     let port : BitVec 2 := 3
     (s.get F.BRY_PORT_STATUS_state port.toNat = Bry.UP ∨ s.get F.BRY_PORT_STATUS_state port.toNat =
         Bry.RETRAINING)) ∧
    (let s : State := wUp wBry 1
     let f : FlitArg := wFlit
     let x : BryPort := ((s.bryPort 1).acked 5)
     (s.dead = false ∧ s.portUp f.port.toNat = true ∧ f.check = 0) ∧
     (x = (s.bryPort f.port.toNat).acked f.ack.toNat)) ∧
    (let s : State := wUp (wUp wBry 1) 0
     let f : FlitArg := wFlit
     let origin : BitVec 3 := 3
     let dest : BitVec 3 := 2
     let vc : BitVec 2 := 0
     let data : BitVec 512 := 0x400000
     let x : BryPort := ((s.bryPort 1).acked 5)
     let u : State := (s.setBryPort 1 { x with ack := 1 })
     (s.dead = false ∧ s.portUp f.port.toNat = true ∧ f.check = 0) ∧
     (x = (s.bryPort f.port.toNat).acked f.ack.toNat) ∧
     (f.seq.toNat = (x.ack + 1) % 4096 ∧ u = s.setBryPort f.port.toNat { x with ack := f.seq.toNat }) ∧
     dest.toNat ≠ s.device ∧ s.portUp (across f.port.toNat) = true ∧
     u.bryPort f.port.toNat = { x with ack := f.seq.toNat } ∧ u.device = s.device ∧ u.portUp (across f.port.toNat) =
         true ∧
     Tbl.get [] x.asm (64 * origin.toNat + 8 * dest.toNat + vc.toNat) = [] ∧ 0 < bits data.toNat 24 22) ∧
    (let s : State := (wUp wBry 1).setBryPort 1 { replay := [(6, 3, 0, [8])] }
     let f : FlitArg := wFlit
     let from' : BitVec 12 := 6
     let x : BryPort := ((s.bryPort 1).acked 5)
     (s.dead = false ∧ s.portUp f.port.toNat = true ∧ f.check = 0) ∧
     (x = (s.bryPort f.port.toNat).acked f.ack.toNat) ∧
     s.get F.SEC_LINK_STATUS_state f.port.toNat ≠ V.SEC_LINK_STATUS_state_ENCRYPTED ∧
     x.lastNak ≠ some from'.toNat) ∧
    (let s : State := wUp wBry 1
     let f : FlitArg := wFlit
     let x : BryPort := ((s.bryPort 1).acked 5)
     let u : State := (s.setBryPort 1 { x with ack := 1 })
     (s.dead = false ∧ s.portUp f.port.toNat = true ∧ f.check = 0) ∧
     (x = (s.bryPort f.port.toNat).acked f.ack.toNat) ∧
     (f.seq.toNat = (x.ack + 1) % 4096 ∧ u = s.setBryPort f.port.toNat { x with ack := f.seq.toNat }) ∧
     f.port.toNat % 2 = 1 ∧
     u.role ≠ V.BRY_RING_CFG_role_MEMBER) ∧
    (let s : State := (wBry.put F.PWR_DOMAIN_STATUS_state 0 320)
     let f : FlitArg := wFlit
     s.dead = false ∧ s.portUsed f.port.toNat = true ∧ s.domOn (domBry f.port.toNat) = true ∧
     f.check = 0 ∧
     s.get F.BRY_PORT_STATUS_state f.port.toNat = Bry.DOWN) ∧
    (let s : State := (wUp wBry 1).put F.BRY_PORT_STATUS_state Bry.RETRAINING 1
     let port : BitVec 2 := 1
     let x : BryPort := s.bryPort 1
     let u : State := s.setBryPort 1 { x with retrains := [] }
     s.get F.BRY_PORT_STATUS_state port.toNat = Bry.RETRAINING ∧
     s.encrypts port.toNat = false ∧
     x = s.bryPort port.toNat ∧
     ((x.retrains.filter (fun t => decide (s.now < t + 64000000))).length < 3) ∧
     (u = s.setBryPort port.toNat { x with retrains := x.retrains.filter (fun t => decide (s.now < t + 64000000)) })
         ∧
     u.encrypts port.toNat = false) ∧
    (let s : State := (wUp wBry 1).put F.SEC_LINK_STATUS_state V.SEC_LINK_STATUS_state_ENCRYPTED 1
     let port : BitVec 2 := 1
     s.portUp port.toNat = true ∧ s.get F.SEC_LINK_STATUS_state port.toNat = V.SEC_LINK_STATUS_state_ENCRYPTED) ∧
    (let s : State := wUp wBry 0
     s.portUp 0 = true ∧ s.portUp 2 = false ∧
     ((s.setBryPort 0 { s.bryPort 0 with t1 := s.now }).sendFlit 0 Flit.TIME s.device [s.now]).portUp 2 = false) ∧
    (let s : State := (wUp wBry 1).setWord Reg.BRY_LINE_SPAN 8
     let f : FlitArg := wFlit
     let origin : BitVec 3 := 3
     let number : Word := 0
     let line : BitVec 5 := 3
     let e : BitVec 64 := 80
     let x : BryPort := ((s.bryPort 1).acked 5)
     let u : State := (s.setBryPort 1 { x with ack := 1 })
     (s.dead = false ∧ s.portUp f.port.toNat = true ∧ f.check = 0) ∧
     (x = (s.bryPort f.port.toNat).acked f.ack.toNat) ∧
     (f.seq.toNat = (x.ack + 1) % 4096 ∧ u = s.setBryPort f.port.toNat { x with ack := f.seq.toNat }) ∧
     origin.toNat ≠ u.device ∧ u.portUp (across f.port.toNat) = false ∧
     (u.bry.seen.find? (fun k => k.1 == origin.toNat && k.2.1 == number.toNat) = none) ∧
     u.ringLine line.toNat = true ∧ u.now ≤ e.toNat + 64 * u.get F.BRY_LINE_DELAY_value) ∧
    (let s : State := wUp wBry 1
     let f : FlitArg := wFlit
     let origin : BitVec 3 := 3
     let number : Word := 0
     let e : BitVec 64 := 80
     let x : BryPort := ((s.bryPort 1).acked 5)
     let u : State := (s.setBryPort 1 { x with ack := 1 })
     (s.dead = false ∧ s.portUp f.port.toNat = true ∧ f.check = 0) ∧
     (x = (s.bryPort f.port.toNat).acked f.ack.toNat) ∧
     (f.seq.toNat = (x.ack + 1) % 4096 ∧ u = s.setBryPort f.port.toNat { x with ack := f.seq.toNat }) ∧
     origin.toNat ≠ u.device ∧ u.portUp (across f.port.toNat) = false ∧
     (u.bry.seen.find? (fun k => k.1 == origin.toNat && k.2.1 == number.toNat) = none) ∧
     u.now ≤ e.toNat) ∧
    (let s : State := wUp wBry 1
     let f : FlitArg := wFlit
     let dest : BitVec 3 := 0
     let x : BryPort := ((s.bryPort 1).acked 5)
     let u : State := (s.setBryPort 1 { x with ack := 1 })
     (s.dead = false ∧ s.portUp f.port.toNat = true ∧ f.check = 0) ∧
     (x = (s.bryPort f.port.toNat).acked f.ack.toNat) ∧
     (f.seq.toNat = (x.ack + 1) % 4096 ∧ u = s.setBryPort f.port.toNat { x with ack := f.seq.toNat }) ∧
     dest.toNat = u.device ∧ u.role = V.BRY_RING_CFG_role_MASTER) ∧
    (let s : State := { wUp wBry 1 with boot := { ready := true } }
     let p : Path := .bar0
     let v : Word := (2 <<< F.BRY_RMT_CTRL_device.lo)
     let u : State := s.applyWrite .bar0 Reg.BRY_RMT_CTRL 0 0 0 (v ||| 0x80000000#32)
     s.writable p Reg.BRY_RMT_CTRL 0 0 0 (v ||| 0x80000000#32) = true ∧
     s.bry.rmt = false ∧
     u = s.applyWrite p Reg.BRY_RMT_CTRL 0 0 0 (v ||| 0x80000000#32) ∧
     u.on F.BRY_RMT_CTRL_go = true ∧ u.bry.rmt = false ∧
     u.rmtRefused (u.get F.BRY_RMT_CTRL_device) = false) ∧
    (let s : State := { wBry with bry := { rmt := true } }
     s.bry.rmt = true ∧ s.on F.BRY_RMT_CTRL_write = false) := by
  refine ⟨?_, ?_, ?_, ?_, ?_, ?_, ?_, ?_, ?_, ?_, ?_, ?_, ?_, ?_, ?_, ?_⟩
  all_goals decide

/-- A small state or operand for the hypotheses of the Ras commands. -/
def wRas (st : Nat) : State := State.reset.put F.RAS_STATUS_mgmt_state st

/-- The hypotheses of every clause of `Obligations.FaultCommandsComplete` can be met. -/
theorem test_FaultCommandsComplete_hypotheses :
    (let s : State := wRas V.RAS_STATUS_mgmt_state_PAIRED
     s.get F.RAS_STATUS_mgmt_state = V.RAS_STATUS_mgmt_state_PAIRED) ∧
    (let s : State := wRas V.RAS_STATUS_mgmt_state_FAILOVER
     s.get F.RAS_STATUS_mgmt_state = V.RAS_STATUS_mgmt_state_FAILOVER) ∧
    (let s : State := wRas V.RAS_STATUS_mgmt_state_SINGLE
     s.get F.RAS_STATUS_mgmt_state = V.RAS_STATUS_mgmt_state_SINGLE) ∧
    (let s : State := { wRas 0 with ras := { buffer := [{ seq := 7, code := 0x70 }] } }
     let e : LogEntry := { seq := 7, code := 0x70 }
     let r : List LogEntry := []
     s.ras.buffer = e :: r ∧
     s.ras.lost = 0) ∧
    (let s : State :=
         { wRas 0 with ras := { windows := [{ code := 3, unit := 5, written := 64, suppressed := 2 }] } }
     let code : BitVec 16 := 3
     let unit : BitVec 16 := 5
     let w : LogWindow := { code := 3, unit := 5, written := 64, suppressed := 2 }
     (s.ras.windows.find? (fun w => w.code == code.toNat && w.unit == unit.toNat) = some w) ∧
     0 < w.suppressed) := by
  refine ⟨?_, ?_, ?_, ?_, ?_⟩
  all_goals decide

/-- A small state or operand for the hypotheses of the Power commands. -/
def wDom (n st : Nat) : State := { State.reset with boot := { ready := true } }.put F.PWR_DOMAIN_STATUS_state st n
/-- A small state or operand for the hypotheses of the Power commands. -/
def wRun : State := { State.reset with boot := { ready := true, active := [] }, regs := [] }.put F.PWR_DEV_STATUS_state V.PWR_DEV_STATUS_state_RUN

/-- The hypotheses of every clause of `Obligations.PowerCommandsComplete` can be met. -/
theorem test_PowerCommandsComplete_hypotheses :
    (let s : State := wDom 470 V.PWR_DOMAIN_STATUS_state_FENCING
     let n : BitVec 9 := 470
     n.toNat < 471 ∧
     s.dom n.toNat = V.PWR_DOMAIN_STATUS_state_FENCING) ∧
    (let s : State := wDom 470 V.PWR_DOMAIN_STATUS_state_WAKING
     let n : BitVec 9 := 470
     n.toNat < 471 ∧
     (s.dom n.toNat = V.PWR_DOMAIN_STATUS_state_ENTERING ∨ s.dom n.toNat = V.PWR_DOMAIN_STATUS_state_WAKING)) ∧
    (let s : State := { wDom 0 0 with pwr := { votes := [(256 * 287 + 255, 1)] } }
     let k : BitVec 8 := 255
     let n : BitVec 9 := 287
     n.toNat < 471 ∧ k ≠ 0 ∧
     Tbl.get 0 s.pwr.votes (256 * n.toNat + k.toNat) ≠ 0 ∧ s.holdsIn k.toNat n.toNat = false) ∧
    (let s : State := (wDom 300 0).put F.PWR_DOMAIN_STATUS_deferred 1 300
     let n : BitVec 9 := 300
     n.toNat < 471 ∧ s.on F.PWR_DOMAIN_STATUS_deferred n.toNat = true ∧
     s.inUse n.toNat (s.wanted n.toNat) = false) ∧
    (let s : State := wDom 470 0
     let n : BitVec 9 := 470
     n.toNat < 471 ∧ s.domOn n.toNat = true ∧ n.toNat ∉ s.pwr.gated) ∧
    (let s : State := wRun.put F.PWR_IDLE_CFG_enable 1
     s.dead = false ∧ s.devState = V.PWR_DEV_STATUS_state_RUN ∧ s.on F.PWR_IDLE_CFG_enable = true ∧
     s.idleNow none = true ∧ s.recovering = false) ∧
    (let s : State := { wRun.setDev V.PWR_DEV_STATUS_state_IDLE with pwr := { gated := [3] } }
     s.devState = V.PWR_DEV_STATUS_state_IDLE) ∧
    (let s : State := wRun
     let d : Desc := ({ tenant := 0, tag := 7 })
     s.admits d = true ∧ s.mgmtUp = true ∧ d.tenant = 0 ∧
     s.devBusy 0 (some d) = false ∧ s.emulates 0 = false) ∧
    (let s : State := wRun
     let d : Desc := ({ tenant := 0, tag := 7 })
     s.admits d = true ∧ s.mgmtUp = true ∧ d.tenant = 0 ∧
     s.devBusy 1 (some d) = false ∧ s.emulates 1 = false) ∧
    (let s : State := wRun
     let d : Desc := ({ tenant := 0, tag := 7 })
     s.admits d = true ∧ s.mgmtUp = true ∧ d.tenant = 0 ∧
     s.devBusy 2 (some d) = false) ∧
    (let s : State := wRun
     let d : Desc := ({ tenant := 0, tag := 7 })
     let kind : BitVec 8 := 4
     let index : BitVec 16 := 15
     let v : BitVec 8 := 2
     let n : Nat := 315
     s.admits d = true ∧ s.mgmtUp = true ∧
     kind ≠ 0xF ∧ domainOf kind.toNat index.toNat = some n ∧
     s.holdsIn d.tenant.toNat n = true ∧
     v.toNat ≤ 2 ∧ ¬ (kind = 7 ∧ v = 1) ∧
     s.dom n ≠ V.PWR_DOMAIN_STATUS_state_WAKING ∧
     s.inUse n ((s.setVote n d.tenant.toNat v.toNat).wanted n) = false) ∧
    (let s : State := { wRun with pwr := { request := some { target := 0, desc := none } } }
     let r : DevRequest := { target := 0, desc := none }
     let u : State := { s with pwr := { s.pwr with request := some { r with committed := true } } }
     s.pwr.request = some r ∧ r.committed = false ∧ r.target ≠ 2 ∧
     u = { s with pwr := { s.pwr with request := some { r with committed := true } } }) ∧
    (let s : State := wRun.setDev V.PWR_DEV_STATUS_state_EXITING
     s.devState = V.PWR_DEV_STATUS_state_EXITING) := by
  refine ⟨?_, ?_, ?_, ?_, ?_, ?_, ?_, ?_, ?_, ?_, ?_, ?_, ?_⟩
  all_goals decide

/-- A small state or operand for the hypotheses of the DebugCtl commands. -/
def wDbg : State := ({ State.reset with boot := { ready := true } }.put F.DBG_STATUS_session 1).put F.DBG_STATUS_scope V.DBG_STATUS_scope_DEVICE

/-- The hypotheses of every clause of `Obligations.DebugCommandsComplete` can be met. -/
theorem test_DebugCommandsComplete_hypotheses :
    (let s : State := ({ wDbg with dbg := { asked := [(0, 255, 3)] } }).put F.SGC_STATUS_state Core.WAITING 255
     let index : BitVec 10 := 255
     let k : Nat := 3
     (s.dbg.asked.find? (fun a => a.1 == 0 && a.2.1 == index.toNat) = some (0, index.toNat, k)) ∧
     s.haltable 0 index.toNat = true ∧ s.coreState index.toNat = Core.WAITING) ∧
    (let s : State := ({ wDbg with dbg := { asked := [(1, 255, 8)] } }).put F.FAB_SECT_STATUS_state Sec.RUNNING 255
     let index : BitVec 10 := 255
     let k : Nat := 8
     (s.dbg.asked.find? (fun a => a.1 == 1 && a.2.1 == index.toNat) = some (1, index.toNat, k)) ∧
     s.haltable 1 index.toNat = true) ∧
    (let s : State := { wDbg with dbg := { halts := [(7, 64)], groups := [(1, 3, 7)] } }
     let group : BitVec 3 := 7
     let e : Nat := 64
     let u : State := ({ s with dbg := { s.dbg with halts := [] } }).advanceTo 64
     (((s.dbg.halts.filter (fun h => h.1 == group.toNat)).map (fun h => h.2)).min? = some e) ∧
     (u =
         ({ s with dbg := { s.dbg with halts := s.dbg.halts.filter (fun h => !(h.1 == group.toNat && h.2 / 32 == e / 32)) } }).advanceTo
         e) ∧
     u.session ≠ 0) ∧
    (let s : State := ({ wDbg with dbg := { groups := [(1, 255, 7)] } }).put F.FAB_SECT_STATUS_state Sec.RUNNING 255
     let n : BitVec 8 := 255
     let k : Nat := 7
     s.groupOf 1 n.toNat = some k ∧
     s.sect n.toNat = Sec.RUNNING) ∧
    (let s : State := wDbg.put F.FAB_SECT_STATUS_state Sec.RUNNING 255
     let v : Word := 0x040000FF
     let x : Word := haltWord 0x040000FF 0
     let u : State := (s.applyWrite .debugger Reg.DBG_HALT_CMD 0 0 0 x).put F.DBG_HALT_CMD_go 0
     x = haltWord v 0 ∧ bits x.toNat 31 28 = 8 ∧
     s.session ≠ 0 ∧ s.writable .debugger Reg.DBG_HALT_CMD 0 0 0 x = true ∧
     u = (s.applyWrite .debugger Reg.DBG_HALT_CMD 0 0 0 x).put F.DBG_HALT_CMD_go 0 ∧
     u.inScope (bits x.toNat 27 26) (bits x.toNat 9 0) = true ∧ u.haltable (bits x.toNat 27 26) (bits x.toNat 9 0) =
         true) ∧
    (let s : State := wDbg
     let v : Word := 0x040000FF
     let x : Word := haltWord 0x040000FF 1
     let u : State := (s.applyWrite .debugger Reg.DBG_HALT_CMD 0 0 0 x).put F.DBG_HALT_CMD_go 0
     x = haltWord v 1 ∧ bits x.toNat 31 28 = 10 ∧
     s.session ≠ 0 ∧ s.writable .debugger Reg.DBG_HALT_CMD 0 0 0 x = true ∧
     u = (s.applyWrite .debugger Reg.DBG_HALT_CMD 0 0 0 x).put F.DBG_HALT_CMD_go 0 ∧
     u.inScope (bits x.toNat 27 26) (bits x.toNat 9 0) = true) ∧
    (let s : State := wDbg
     let v : Word := 0x078000FF
     let x : Word := haltWord 0x078000FF 2
     let u : State := (s.applyWrite .debugger Reg.DBG_HALT_CMD 0 0 0 x).put F.DBG_HALT_CMD_go 0
     x = haltWord v 2 ∧ bits x.toNat 31 28 = 12 ∧
     s.session ≠ 0 ∧ s.writable .debugger Reg.DBG_HALT_CMD 0 0 0 x = true ∧
     u = (s.applyWrite .debugger Reg.DBG_HALT_CMD 0 0 0 x).put F.DBG_HALT_CMD_go 0 ∧
     u.inScope (bits x.toNat 27 26) (bits x.toNat 9 0) = true ∧ u.groupOf (bits x.toNat 27 26) (bits x.toNat 9 0) =
         none ∧
     bits x.toNat 9 0 < 256) ∧
    (let s : State := wDbg
     let v : Word := 0x040000FF
     let x : Word := haltWord 0x040000FF 3
     let u : State := (s.applyWrite .debugger Reg.DBG_HALT_CMD 0 0 0 x).put F.DBG_HALT_CMD_go 0
     x = haltWord v 3 ∧ bits x.toNat 31 28 = 14 ∧
     s.session ≠ 0 ∧ s.writable .debugger Reg.DBG_HALT_CMD 0 0 0 x = true ∧
     u = (s.applyWrite .debugger Reg.DBG_HALT_CMD 0 0 0 x).put F.DBG_HALT_CMD_go 0 ∧
     u.inScope (bits x.toNat 27 26) (bits x.toNat 9 0) = true) ∧
    (let s : State := wDbg
     let n : BitVec 4 := 15
     let v : Word := 0x800001D6
     s.session ≠ 0 ∧ s.writable .debugger Reg.DBG_POWER_HOLD n.toNat 0 0 v = true ∧
     bits v.toNat 8 0 ≤ 470 ∧ bit v.toNat 31 = true ∧ s.scopeAll = true) ∧
    (let s : State := wDbg
     s.session ≠ 0) ∧
    (let s : State := { State.reset with boot := { ready := true } }
     let monitor : Bool := true
     let v : Word := 0x1BFC0000
     let x : Word := authWord 0x1BFC0000 1
     let u : State := s.applyWrite .debugger Reg.DBG_AUTH_CMD 0 0 0 x
     x = authWord v 1 ∧ bits x.toNat 31 29 = 1 ∧ bits x.toNat 27 26 < 3 ∧
     s.writable .debugger Reg.DBG_AUTH_CMD 0 0 0 x = true ∧
     u = s.applyWrite .debugger Reg.DBG_AUTH_CMD 0 0 0 x ∧
     u.on F.DBG_CTRL_debug_disable = false ∧ u.session = 0 ∧
     Tbl.get 0 u.dbg.lock (dbgPath monitor) ≤ u.now) ∧
    (let s : State := { State.reset with boot := { ready := true }, dbg := { nonce := some (2, 1, 2, 255) } }
     let monitor : Bool := true
     let v : Word := 0
     let x : Word := authWord 0 2
     let method : Nat := 1
     let scope : Nat := 2
     let k : Nat := 255
     let u : State := s.applyWrite .debugger Reg.DBG_AUTH_CMD 0 0 0 x
     x = authWord v 2 ∧ bits x.toNat 31 29 = 2 ∧ bits x.toNat 27 26 < 3 ∧
     s.writable .debugger Reg.DBG_AUTH_CMD 0 0 0 x = true ∧
     u = s.applyWrite .debugger Reg.DBG_AUTH_CMD 0 0 0 x ∧
     u.dbg.nonce = some (dbgPath monitor, method, scope, k)) ∧
    (let s : State := wDbg
     let monitor : Bool := false
     let v : Word := 0
     let x : Word := authWord 0 3
     let u : State := s.applyWrite .debugger Reg.DBG_AUTH_CMD 0 0 0 x
     x = authWord v 3 ∧ bits x.toNat 31 29 = 3 ∧ bits x.toNat 27 26 < 3 ∧
     s.writable .debugger Reg.DBG_AUTH_CMD 0 0 0 x = true ∧
     u = s.applyWrite .debugger Reg.DBG_AUTH_CMD 0 0 0 x ∧
     u.session = dbgPath monitor) ∧
    (let s : State := { wDbg with dbg := { lock := [(2, 640)] } }
     let monitor : Bool := true
     let u : State := s.advanceTo (Tbl.get 0 s.dbg.lock 2)
     u = s.advanceTo (Tbl.get 0 s.dbg.lock (dbgPath monitor))) := by
  refine ⟨?_, ?_, ?_, ?_, ?_, ?_, ?_, ?_, ?_, ?_, ?_, ?_, ?_, ?_⟩
  all_goals decide

/-- A small state or operand for the hypotheses of the DebugPort commands. -/
def wPort : State := { State.reset with boot := { ready := true } }
/-- A small state or operand for the hypotheses of the DebugPort commands. -/
def wCmd (a : Nat) (w : Bool) (d : Word) : PortCmd := { write := w, tag := false, data := d, crc := BitVec.ofNat 4 (crc4 (1 + b2n (!w) * 4 + a * 8)), dataCrc := BitVec.ofNat 8 (crc8 d.toNat), pending := false }

/-- The hypotheses of every clause of `Obligations.DebugPortCommandsComplete` can be met. -/
theorem test_DebugPortCommandsComplete_hypotheses :
    (let s : State := wPort
     let c : PortCmd := wCmd 0 false 0
     s.dead = false ∧ s.session ≠ 1 ∧ s.dbg.port.last = none ∧
     c.write = false ∧ c.crc.toNat = crc4 (5 + b2n c.tag * 128)) ∧
    (let s : State := wPort
     let c : PortCmd := wCmd 1 true 0x80000000
     s.dead = false ∧ s.session ≠ 1 ∧ s.dbg.port.last = none ∧
     c.write = true ∧ c.crc.toNat = crc4 (9 + b2n c.tag * 128) ∧ c.dataCrc.toNat = crc8 c.data.toNat ∧ bit
         c.data.toNat 31 = true) ∧
    (let s : State := wPort
     let c : PortCmd := wCmd 2 true 0x800000FF
     s.dead = false ∧ s.session ≠ 1 ∧ s.dbg.port.last = none ∧
     c.write = true ∧ c.crc.toNat = crc4 (17 + b2n c.tag * 128) ∧ c.dataCrc.toNat = crc8 c.data.toNat) ∧
    (let s : State := wPort
     let c : PortCmd := wCmd 3 true 0xA017
     s.dead = false ∧ s.session ≠ 1 ∧ s.dbg.port.last = none ∧
     c.write = true ∧ c.crc.toNat = crc4 (25 + b2n c.tag * 128) ∧ c.dataCrc.toNat = crc8 c.data.toNat) ∧
    (let s : State := { wPort with dbg := { port := { addr := 0xA014 } } }
     let c : PortCmd := wCmd 4 false 0
     let u : State := s.setPort0 { s.dbg.port with last := some (4, false, false, 0), res := none }
     let y : State := (u.dbgAccess 1 false 0).1
     let n : Nat := 0
     s.dead = false ∧ s.session ≠ 1 ∧ s.dbg.port.last = none ∧
     c.write = false ∧ c.crc.toNat = crc4 (37 + b2n c.tag * 128) ∧ c.pending = false ∧
     u = s.setPort0 { s.dbg.port with last := some (4, false, c.tag, 0), res := none } ∧
     (u.dbgAccess 1 false c.data).1 = y ∧ (u.dbgAccess 1 false c.data).2.toOption = some n) ∧
    (let s : State := { wPort with dbg := { port := { addr := 0xA014 } } }
     let c : PortCmd := wCmd 5 false 0
     let u : State := s.setPort0 { s.dbg.port with last := some (5, false, false, 0), res := none }
     let y : State := (u.dbgAccess 1 false 0).1
     let n : Nat := 0
     s.dead = false ∧ s.session ≠ 1 ∧ s.dbg.port.last = none ∧
     c.write = false ∧ c.crc.toNat = crc4 (45 + b2n c.tag * 128) ∧ c.pending = false ∧
     u = s.setPort0 { s.dbg.port with last := some (5, false, c.tag, 0), res := none } ∧
     (u.dbgAccess 1 false c.data).1 = y ∧ (u.dbgAccess 1 false c.data).2.toOption = some n) ∧
    (let s : State := { wPort with dbg := { port := { addr := 0xA014, last := some (4, false, true, 0) } } }
     let monitor : Bool := true
     let tag : Bool := true
     let w : Bool := false
     let d : Nat := 0
     let n : Nat := 0
     let y : State := (s.dbgAccess 2 false 0).1
     s.dead = false ∧ s.dbg.port.last = some (4, w, tag, d) ∧ s.dbg.port.res = none ∧
     (s.dbgAccess (dbgPath monitor) w (BitVec.ofNat 32 d)).1 = y ∧ (s.dbgAccess (dbgPath monitor) w (BitVec.ofNat 32
         d)).2.toOption = some n) ∧
    (True) ∧
    (let s : State := wPort
     s.dead = false ∧ s.session ≠ 2 ∧ s.dbg.port.last = none ∧
     s.get F.RAS_STATUS_mgmt_state = V.RAS_STATUS_mgmt_state_PAIRED) := by
  refine ⟨?_, ?_, ?_, ?_, ?_, ?_, ?_, ?_, ?_⟩
  all_goals decide


/-- The hypotheses of every clause of `Obligations.ObservabilityCommandsComplete` can be met. -/
theorem test_ObservabilityCommandsComplete_hypotheses :
    (let s : State := ({ State.reset with boot := { ready := true } }).setPair Reg.OBS_FOL_AT_LO Reg.OBS_FOL_AT_HI
         128000
     let p : Path := .bar0
     let ft : Nat := 128000
     s.writable p Reg.OBS_FOL_CMD 0 0 0 0x80000000#32 = true ∧
     ft = s.pair Reg.OBS_FOL_AT_LO Reg.OBS_FOL_AT_HI / 8 * 8 ∧
     s.now + 128000 ≤ ft ∧
     s.obs.fol = none ∧ s.obs.writing = none) ∧
    (let s : State :=
         { ({ State.reset with boot := { ready := true } }) with obs := { fol := some { t := 128000 } } }
     let p : Path := .bar0
     s.writable p Reg.OBS_FOL_CMD 0 0 0 0xC0000000#32 = true ∧
     s.obs.fol.isSome = true) ∧
    (let s : State :=
         { ({ State.reset with boot := { ready := true } }) with obs := { fol := some { t := 128000 } } }
     let f : Foliation := { t := 128000 }
     s.obs.fol = some f ∧
     s.now ≤ f.t) ∧
    (let s : State :=
         ({ ({ State.reset with boot := { ready := true } }) with obs := { writing := some { t := 128000 } } }).put
         F.CAP_STREAM_STATUS_state 1 0
     let f : Foliation := { t := 128000 }
     s.obs.writing = some f ∧
     s.strmState (s.get F.OBS_FOL_CFG_stream) = Strm.ACTIVE) ∧
    (let s : State := ({ State.reset with boot := { ready := true } })
     let u : State := (({ State.reset with boot := { ready := true } }).readShadow .bar0).1
     let p : Path := .bar0
     let v : Word := (s.readShadow .bar0).2
     s.readShadow p = (u, v)) := by
  refine ⟨?_, ?_, ?_, ?_, ?_⟩
  all_goals decide

/-- A small state or operand for the hypotheses of the Gio commands. -/
def wGio : State := { State.reset with boot := { ready := true } }

/-- The hypotheses of every clause of `Obligations.GeneralIoCommandsComplete` can be met. -/
theorem test_GeneralIoCommandsComplete_hypotheses :
    (let s : State := wGio
     let p : Path := .bar0
     let bank : BitVec 3 := 5
     let v : Word := 1
     bank.toNat < 6 ∧
     s.writable p Reg.GIO_BANK_CFG bank.toNat 0 0 v = true ∧
     bits v.toNat 2 0 ≠ s.get F.GIO_BANK_CFG_voltage bank.toNat ∧ s.bankIdle bank.toNat = true) ∧
    (let s : State := { wGio with gio := { changing := [5] } }
     let bank : BitVec 3 := 5
     bank.toNat ∈ s.gio.changing) ∧
    (let s : State := wGio
     let p : Path := .bar0
     let pin : BitVec 8 := 191
     let v : Word := 0x02408000
     pin.toNat < 192 ∧
     s.writable p Reg.GIO_PIN_CFG pin.toNat 0 0 v = true ∧
     bits v.toNat 31 28 = Pin.GPIO ∧ pin.toNat ≠ 32 ∧
     Tbl.get 0 s.trigPinHolder pin.toNat = 0 ∧ s.gio.load ≠ some pin.toNat) ∧
    (let s : State := wGio.put F.GIO_PIN_CFG_oe 1 191
     let pin : BitVec 8 := 191
     pin.toNat < 192 ∧
     s.pinFn pin.toNat = Pin.GPIO ∧ s.on F.GIO_PIN_CFG_oe pin.toNat = true ∧ s.on F.GIO_PIN_CFG_open_drain pin.toNat
         = false) ∧
    (let s : State := wGio
     let p : Path := .bar0
     let v : Word := 0x232000BF
     let u : State := s.applyWrite .bar0 Reg.GIO_LOAD_CMD 0 0 0 0xA32000BF#32
     s.writable p Reg.GIO_LOAD_CMD 0 0 0 (v ||| 0x80000000#32) = true ∧
     s.gio.load = none ∧ Tbl.get 0 s.trigPinHolder (bits v.toNat 7 0) = 0 ∧
     s.pinFn (bits v.toNat 7 0) = Pin.GPIO ∧ s.on F.GIO_PIN_CFG_oe (bits v.toNat 7 0) = false ∧
     u = s.applyWrite p Reg.GIO_LOAD_CMD 0 0 0 (v ||| 0x80000000#32)) ∧
    (let s : State := { wGio with gio := { load := some 191 } }
     let src : List (BitVec 14) := List.replicate 16 16383
     let snk : List (BitVec 14) := List.replicate 16 3
     let n : Nat := 191
     s.gio.load = some n ∧ src.length = 16 ∧ snk.length = 16) ∧
    (let s : State := { wGio with gio := { pass := some ([63, 2], 1) } }
     let k : Nat := 63
     let r : List Nat := [2]
     let avg : Nat := 1
     s.adcPass = some (k :: r, avg) ∧ r ≠ [] ∧
     k < 64) ∧
    (let s : State := wGio
     let l : List (BitVec 16 × BitVec 16) := List.replicate 64 (16, 0xFFF0)
     s.dead = false ∧ s.tempReadings l ≠ [] ∧
     (∀ r ∈ s.tempReadings l, r.2 < 1600)) ∧
    (let s : State := { wGio with gio := { elems := [(63, 1)] } }
     let sensor : BitVec 6 := 63
     Tbl.get 0 s.gio.elems sensor.toNat = 1) ∧
    (let s : State := wGio.put F.GIO_SMB_CFG_pec_en 0
     s.smbUp = true ∧ s.on F.GIO_SMB_CFG_pec_en = false) ∧
    (let s : State := wGio.put F.GIO_SMB_CFG_pec_en 0
     s.smbUp = true ∧ s.on F.GIO_SMB_CFG_pec_en = false) ∧
    (let s : State := wGio.put F.GIO_SMB_CFG_pec_en 0
     s.smbUp = true ∧ s.on F.GIO_SMB_CFG_pec_en = false) ∧
    (let s : State := wGio
     let n : BitVec 8 := 63
     s.smbUp = true ∧ n.toNat ≤ 63) ∧
    (let s : State := wGio.put F.GIO_SMB_CFG_pec_en 1
     s.smbUp = true ∧ s.on F.GIO_SMB_CFG_pec_en = true) ∧
    (let s : State := wGio
     s.smbUp = true) ∧
    (let s : State := wGio
     let cmd : BitVec 8 := 8
     (s.smbUp = true ∧ (cmd = 0 ∨ 7 < cmd.toNat))) ∧
    (let s : State := { wGio with pwr := { stretch := true } }
     s.pwr.stretch = true) ∧
    (let s : State := { wGio with pwr := { stretch := true }, boot := { halted := true } }.put
         F.BOOT_START_STATUS_step 2
     s.pwr.stretch = true ∧ s.boot.halted = true ∧ s.get F.BOOT_START_STATUS_step ≤ 2) := by
  refine ⟨?_, ?_, ?_, ?_, ?_, ?_, ?_, ?_, ?_, ?_, ?_, ?_, ?_, ?_, ?_, ?_, ?_, ?_⟩
  all_goals decide

/-- A small state or operand for the hypotheses of the RegBus commands. -/
def wBus : State := { State.reset with boot := { ready := true } }.put F.PWR_DEV_STATUS_state V.PWR_DEV_STATUS_state_RUN |>.put F.HIF_LINK_STATUS_state V.HIF_LINK_STATUS_state_UP

/-- The hypotheses of every clause of `Obligations.RegisterAccessesComplete` can be met. -/
theorem test_RegisterAccessesComplete_hypotheses :
    (let s : State := wBus.put F.LANE_STATUS_holder 255 3 |>.put F.PWR_DOMAIN_STATUS_state 0 0
     let d : Desc := { tenant := 255 }
     let e : Word × Word := (BitVec.ofNat 32 (Reg.LANE_TX_FIR.addr 3 0 0), BitVec.ofNat 32 0)
     let u : State := (s.writeReg (.descriptor 255) 0 (Reg.LANE_TX_FIR.addr 3 0 0) 0).1
     s.admits d = true ∧
     s.tenantMay d.tenant.toNat e.1.toNat true = true ∧
     s.writeReg (.descriptor d.tenant) 0 e.1.toNat e.2 = (u, St.OK)) ∧
    (let s : State := wBus
     let d : Desc := { tenant := 255 }
     let o : Word := 0
     s.admits d = true ∧
     s.tenantMay d.tenant.toNat o.toNat false = true) ∧
    (let s : State := wBus
     let p : Path := .bar0
     let off : Word := BitVec.ofNat 32 Reg.CLK_TIME_LO.base
     let r : RegDef := Reg.CLK_TIME_LO
     let hi : RegDef := Reg.CLK_TIME_HI
     let i : Nat := 0
     let j : Nat := 0
     let k : Nat := 0
     s.reaches p off.toNat false = true ∧ s.devState ≠ V.PWR_DEV_STATUS_state_DEEP_SLEEP ∧
     s.openBlock (s.translate off.toNat) = true ∧
     findReg (s.translate off.toNat) = some (r, i, j, k) ∧
     (latchPairs.find? (fun q => q.1.is r || q.2.is r) = some (r, hi))) ∧
    (let s : State := wBus.setWord Reg.GLB_UNMAPPED_WRITES 5
     let p : Path := .bar0
     let off : Word := BitVec.ofNat 32 Reg.GLB_UNMAPPED_WRITES.base
     let r : RegDef := Reg.GLB_UNMAPPED_WRITES
     let i : Nat := 0
     let j : Nat := 0
     let k : Nat := 0
     s.reaches p off.toNat false = true ∧ s.devState ≠ V.PWR_DEV_STATUS_state_DEEP_SLEEP ∧
     s.openBlock (s.translate off.toNat) = true ∧
     findReg (s.translate off.toNat) = some (r, i, j, k) ∧
     (latchPairs.find? (fun q => q.1.is r || q.2.is r) = none) ∧
     ([Reg.CAP_QT_DATA, Reg.SWF_OP_DATA, Reg.SWF_DQ_DATA, Reg.RAS_LOG_DATA, Reg.OBS_SHD_OFFSET,
         Reg.OBS_SHD_VALUE_LO, Reg.OBS_SHD_VALUE_HI, Reg.GIO_IN].all (fun x => !r.is x) = true) ∧
     r.rc ≠ 0) ∧
    (let s : State := wBus
     let p : Path := .bar0
     let off : Word := BitVec.ofNat 32 Reg.PWR_IDLE_CFG.base
     let r : RegDef := Reg.PWR_IDLE_CFG
     let i : Nat := 0
     let j : Nat := 0
     let k : Nat := 0
     s.reaches p off.toNat true = true ∧ s.devState ≠ V.PWR_DEV_STATUS_state_DEEP_SLEEP ∧
     findReg (s.translate off.toNat) = some (r, i, j, k)) ∧
    (let s : State := wBus
     let off : Word := 60
     s.reaches .bar0 off.toNat false = true ∧ s.devState ≠ V.PWR_DEV_STATUS_state_DEEP_SLEEP) ∧
    (let s : State := wBus
     s.smbUp = true ∧ s.gio.smbOffset < 0x1000) := by
  refine ⟨?_, ?_, ?_, ?_, ?_, ?_, ?_⟩
  all_goals (repeat' apply And.intro) <;> first | decide | rfl

theorem test_TimeReadsLatchTheHighWord_hypotheses :
    (let s : State := { State.reset with boot := { ready := true } }
     s.dead = false ∧ s.openBlock Reg.CLK_TIME_LO.base = true ∧ s.asleepFor .bar0 = false ∧
     s.asleepFor .management = false ∧ pathLatch .management ≠ pathLatch .bar0) := by decide

theorem test_OwnerOnlyAndNotReadyRefusals_hypotheses :
    (let s : State := { State.reset with boot := { ready := true } }
     let d : Desc := { tenant := 255, tag := 7 }
     s.dead = false ∧ s.boot.ready = true ∧ s.noFirmware = false ∧ d.rsvSet = false ∧ d.tenant ≠ 0) ∧
    (let s : State := State.reset
     (Instr.nopDescriptor { tenant := 255, tag := 7 }).desc? = some { tenant := 255, tag := 7 } ∧
     s.dead = false ∧ s.boot.ready = false ∧ s.noFirmware = false) ∧
    (let s : State := State.reset
     s.boot.ready = false ∧ opcodes.contains (bits 0x00070009 7 0) = false ∧
     exec (.descriptorAccept 0 0 0x00070009 false) s = .next s) := ⟨by decide, by decide, by decide, by decide, rfl⟩

theorem test_PoolSizeIsAcceptedOnlyWhileIdle_hypotheses :
    (let s : State := ((wSwf {}).put F.SWF_POOL_CFG_pool_quires 1).put F.CAP_STATUS_front_free 3
     let s : State := { s with swf := {} }
     s.writable .bar0 Reg.SWF_POOL_CFG 0 0 0 4 = true ∧ s.get F.SWF_POOL_CFG_pool_quires = 1 ∧
     ((∀ o ∈ s.swf.ops, o.2.state = 0) ∧ (∀ q ∈ s.swf.dq, q.2.alloc = false) ∧ 4 ≤ s.frontFree + 1) ∧
     ¬ ((∀ o ∈ s.swf.ops, o.2.state = 0) ∧ (∀ q ∈ s.swf.dq, q.2.alloc = false) ∧ 5 ≤ s.frontFree + 1)) := by decide

theorem test_RestartNeedsItsKeyAndNoLane_hypotheses :
    (let s : State := { State.reset with boot := { ready := true } }
     s.writable .bar0 Reg.BOOT_CTRL 0 0 0 0x51400008 = true ∧ bit 0x51400008 3 = true ∧
     s.writable .bar0 Reg.BOOT_CTRL 0 0 0 0x51410008 = true ∧ s.someLane (fun _ => true) = false) ∧
    (let s : State := ({ State.reset with boot := { ready := true } } : State).put F.LANE_CTRL_enable 1 511
     s.writable .bar0 Reg.BOOT_CTRL 0 0 0 0x51400008 = true ∧ s.someLane (fun _ => true) = true) := by decide

theorem test_SliceAccumulatorWrapsOrHolds_hypotheses :
    (let z : SliceSt := { acc := 2 ^ 39 - 1, x := 1, ce := true }
     let x : SliceIn := { a := 0, b := 0, c := 0, op := 0, ce := true, rst := false }
     ({} : SliceCfg).mode.toNat ≠ 4 ∧ x.rst = false ∧ z.ce = true ∧ z.op = 0 ∧ z.acc + z.x = 2 ^ 39 ∧
     (2 : Int) ^ 39 - 1 < 2 ^ 39) := by decide

theorem test_MemoryReturnsTheWordWritten_hypotheses :
    (let s : State := wFab 255 Sec.RUNNING
     let w : MemWrite := { sect := 255, mem := 65, portB := true, addr := 32767, data := 0xFFFFFFFFFF, meet := 0,
                           other := 0, scrub := false, inject := false }
     s.sectRuns w.sect.toNat = true ∧ memWord w.mem.toNat w.addr.toNat = true ∧ w.meet = 0 ∧ w.inject = false ∧
     popCount 47 0 ≤ 2 ∧ popCount 47 0x400000000001 = 2) := by decide

theorem test_CoreSumsAndDifferencesSetTheirFlags_hypotheses : 0x8000 < 65536 ∧ 0xFFFF < 65536 := by decide

theorem test_NocChecksTheTenantOfASection_hypotheses :
    (let s : State := wNoc
     let p : PktArg := { wPkt with dst := 255, tenant := 9 }
     p.dst.toNat < 256 ∧ (s.path p.src.toNat p.dst.toNat).isSome = true ∧
     (upTo 32).all (fun q => !s.on F.NOC_PROBE_CFG_enable q) = true ∧
     p.length.toNat ≤ 4 ∧ p.status.toNat ≤ 3 ∧ p.zero = 0 ∧
     p.tenant.toNat ≠ s.get F.FAB_SECT_STATUS_holder p.dst.toNat) := by decide

theorem test_ALaneRateOutOfRangeIsRefused_hypotheses :
    (let s : State := wSect.put F.LANE_RATE_div 5 511
     s.writable .bar0 Reg.LANE_CTRL 511 0 0 0x80000000#32 = true ∧ s.on F.LANE_CTRL_enable 511 = false ∧
     s.pam4 511 = true ∧ 100 * (s.word Reg.LANE_MULT 511).toNat < 1250 * 2 ^ 25 * 2 ^ 5) := by decide

/-! ## The checks of WellFormed -/

/-- For each check of `Instr.wf`, a command that it refuses. -/
theorem test_wf_refuses :
    (([.railPhaseFailure 17 0, .tempSample [], .outCtrlWrite .bar0 7 0, .ppsEdge 192, .stepTimeout 17,
       .startStepDone 0 {}, .fabricMemRead 0 66 false 0 0, .memScrubVisit 0 [(66, 0)] [], .laneAnalogueFault 0 6,
       .digAcquire (.inr .bar0) 512 0 0 0 0, .probe (.inr .bar0) 512 0, .deskewRound 0 0 0 (List.replicate 33 none),
       .sliceFailure 0 5, .laneCfgWrite .bar0 3 0 0 0, .trigPinEdge 192 true 0] : List Instr).all (fun c => !c.wf) &&
     ([.hbmStackFailure 12 0, .hbmRefresh 12 false, .cxlExpanderFailure 3 0, .cxlResilverDone 3, .nocRingFailure 0 0 0,
       .regWrite { tenant := 0 } [], .regRead { tenant := 0 } 0 [], .loadTestDone [] [], .bankCfgWrite .bar0 6 0,
       .bankChangeDone 6, .pinCfgWrite .bar0 192 0, .contentionDetect 192, .voteWithdrawal 0 471, .domainFenceEnd 471,
       .domainStateReached 471, .deferredLowering 471, .clockGate 471, .haltTakesEffect 0 256] : List Instr).all
       (fun c => !c.wf)) = true := by decide

theorem test_wf_refuses_lists :
    (Instr.streamStart { tenant := 0 } ⟨0, 0, 0, 0, 1, 0, 0, 0, [], []⟩).wf = false ∧
    (Instr.pressLoad { tenant := 0 } 0 0 (List.replicate 513 0) 0 0 0).wf = false ∧
    (Instr.fabricLoadDone 0 [{ sect := 0, cells := [], slices := [], ports := [], rclk := [], words := [(66, 0, 0)] }]).wf =
      false ∧
    (Instr.blockMemoryWrite ⟨0, 0, false, 0, 0, 5, 0, false, false⟩).wf = false := by
  simp [Instr.wf]

/-! ## Worked examples of the specification -/

/-- spec/28, the worked example of R703: the offsets of two register instances. -/
theorem test_register_offsets :
    Reg.SECT_ARC_ACTION.addr 5 2 7 = 0x00A16574 ∧ Reg.PRS_CACHE_LINES.addr 200 = 0x00532014 := by decide

/-- spec/20, the worked examples: cluster 5 to section 100 takes ring 3 over 25 hops, ring 2 over 27 when ring 3 is gone. -/
theorem test_noc_paths :
    ((State.reset.put F.NOC_STATUS_rings_up 0xFF).path 261 100).map (fun p => (p.1, p.2.length)) = some (3, 25) ∧
    ((State.reset.put F.NOC_STATUS_rings_up 0xF7).path 261 100).map (fun p => (p.1, p.2.length)) = some (2, 27) := by decide

/-- spec/22, the worked example of R587: the link's delay is 128 LSB at its east end (port 0, where t1 was sent). -/
theorem test_link_delay :
    (match exec (.flitTime { port := 0, seq := 1, ack := 0, check := 0 } 0 64004488 64009528 64005296 0)
        ((wUp wBry 0).setBryPort 0 { t1 := 64000000 }) with
      | .next t => t.get F.BRY_DELAY_value 0 == 128
      | _ => false) = true := by decide

/-- spec/22, the same example at the west end: the offset is 4,360 LSB. -/
theorem test_west_offset : (64004488 : Int) - 64000000 - 128 = 4360 ∧
    (match exec (.flitTime { port := 1, seq := 1, ack := 0, check := 0 } 64000000 64004488 64009528 0 128)
        ((({ wUp wBry 1 with bry := { upstream := 1 } }.put F.BRY_RING_STATUS_role V.BRY_RING_CFG_role_MEMBER).put
          F.CLK_STATUS_ring_member 1)) with
      | .next t => t.bry.offsets == [4360] && t.get F.BRY_DELAY_value 1 == 128
      | _ => false) = true := by decide

/-- spec/28, the worked example of R711: a read of an RC field returns its value and clears it. -/
theorem test_rc_read :
    (let s := ({ State.reset with boot := { ready := true } } : State).put F.PWR_DOMAIN_STATUS_state 0 2
     let r := (s.put F.PRS_SUB_MISS_value 41 70).readReg .bar0 (Reg.PRS_SUB_MISS.addr 70)
     r.2 = 41 ∧ r.1.get F.PRS_SUB_MISS_value 70 = 0) := by decide


end Sys2Proof.Machine
end

section
/-! PROOFS. The latching reads of R71: what a read of a _LO register latches, what a read of its _HI register returns, and
the two pairs of the clock registers. -/
namespace Sys2Proof.Machine

/-! ## The latch of a path (R710) -/

@[simp] theorem State.latched_setLatch_same (s : State) (off : Nat) (p : Path) (ws : List Word) (n : Nat) :
    (s.setLatch off p ws).latched off p n = (ws[n]?).getD 0 := by
  simp only [State.latched, State.setLatch, Tbl.get_set_same]

theorem State.latched_setLatch_other_path {p q : Path} (h : pathLatch q ≠ pathLatch p) (s : State) (off : Nat)
    (ws : List Word) (n : Nat) : (s.setLatch off p ws).latched off q n = s.latched off q n := by
  have hkey : 512 * off + pathLatch p ≠ 512 * off + pathLatch q := by omega
  simp only [State.latched, State.setLatch, Tbl.get_set_ne hkey]

theorem State.latched_congr {s t : State} (h : s.latch = t.latch) (off : Nat) (p : Path) (n : Nat) :
    s.latched off p n = t.latched off p n := by
  simp only [State.latched, h]

/-! ## Reads of a latching pair (R71) -/

theorem State.readAt_lo {lo hi : RegDef}
    (h : latchPairs.find? (fun q => q.1.is lo || q.2.is lo) = some (lo, hi))
    (s : State) (p : Path) (i j k : Nat) (clears : Bool) :
    s.readAt p lo i j k clears =
      (s.setLatch (lo.addr i j k) p [BitVec.ofNat 32 (s.pairValue lo hi i j k / 2 ^ 32)],
        BitVec.ofNat 32 (s.pairValue lo hi i j k)) := by
  have hself : lo.is lo = true := beq_self_eq_true lo.id
  simp only [State.readAt, h, hself, if_true]

theorem State.readAt_hi {lo hi : RegDef}
    (h : latchPairs.find? (fun q => q.1.is hi || q.2.is hi) = some (lo, hi)) (hne : lo.is hi = false)
    (s : State) (p : Path) (i j k : Nat) (clears : Bool) :
    s.readAt p hi i j k clears = (s, s.latched (lo.addr i j k) p 0) := by
  simp only [State.readAt, h, hne, Bool.false_eq_true, if_false]

/-! ## Reads of the clock block -/

/-- The clock registers answer a path: the device runs, the block is open (R93) and the path is not held off by DEEP_SLEEP
(R705). -/
def State.ClockAnswers (s : State) (p : Path) : Prop :=
  s.dead = false ∧ s.openBlock Reg.CLK_TIME_LO.base = true ∧ s.asleepFor p = false

theorem State.ClockAnswers.setLatch {s : State} {q : Path} (h : s.ClockAnswers q) (off : Nat) (p : Path)
    (ws : List Word) : (s.setLatch off p ws).ClockAnswers q := h

theorem State.openBlock_clock (s : State) {off : Nat} (h : 0x1000 ≤ off ∧ off < 0x2000) :
    s.openBlock off = s.openBlock Reg.CLK_TIME_LO.base := by
  obtain ⟨hlow, hhigh⟩ := h
  have hglb : ¬ off < 0x1000 := by omega
  have hboot : ¬ 0x2000 ≤ off := by omega
  simp [State.openBlock, Reg.CLK_TIME_LO, hlow, hhigh, hglb, hboot]

/-- Where the clock block answers, a read of one of its offsets is the read of the register found there. -/
theorem State.ClockAnswers.readReg_eq_readAt {s : State} {p : Path} (h : s.ClockAnswers p) {off : Nat}
    (hblock : 0x1000 ≤ off ∧ off < 0x2000) {r : RegDef} {i j k : Nat} (hfind : findReg off = some (r, i, j, k))
    (clears : Bool) : s.readReg p off clears = s.readAt p r i j k clears := by
  obtain ⟨hdead, hopen, hawake⟩ := h
  have hplain : s.translate off = off := if_neg (by omega)
  simp [State.readReg, hplain, hdead, hawake, State.openBlock_clock s hblock, hopen, hfind]

/-- A latching pair of the clock block: single registers of it that `latchPairs` lists together. -/
structure ClockPair (lo hi : RegDef) : Prop where
  loBlock : 0x1000 ≤ lo.base ∧ lo.base < 0x2000
  hiBlock : 0x1000 ≤ hi.base ∧ hi.base < 0x2000
  findLo : findReg lo.base = some (lo, 0, 0, 0)
  findHi : findReg hi.base = some (hi, 0, 0, 0)
  pairOfLo : latchPairs.find? (fun q => q.1.is lo || q.2.is lo) = some (lo, hi)
  pairOfHi : latchPairs.find? (fun q => q.1.is hi || q.2.is hi) = some (lo, hi)
  distinct : lo.is hi = false

theorem clockPair_time : ClockPair Reg.CLK_TIME_LO Reg.CLK_TIME_HI where
  loBlock := by decide
  hiBlock := by decide
  findLo := rfl
  findHi := rfl
  pairOfLo := rfl
  pairOfHi := rfl
  distinct := rfl

theorem clockPair_ppsCap : ClockPair Reg.CLK_PPS_CAP_LO Reg.CLK_PPS_CAP_HI where
  loBlock := by decide
  hiBlock := by decide
  findLo := rfl
  findHi := rfl
  pairOfLo := rfl
  pairOfHi := rfl
  distinct := rfl

section
variable {lo hi : RegDef} {s : State} {p q : Path}

theorem ClockPair.readReg_lo (c : ClockPair lo hi) (h : s.ClockAnswers p) :
    s.readReg p lo.base =
      (s.setLatch (lo.addr 0 0 0) p [BitVec.ofNat 32 (s.pairValue lo hi 0 0 0 / 2 ^ 32)],
        BitVec.ofNat 32 (s.pairValue lo hi 0 0 0)) := by
  rw [h.readReg_eq_readAt c.loBlock c.findLo, State.readAt_lo c.pairOfLo]

theorem ClockPair.readReg_hi (c : ClockPair lo hi) (h : s.ClockAnswers p) :
    s.readReg p hi.base = (s, s.latched (lo.addr 0 0 0) p 0) := by
  rw [h.readReg_eq_readAt c.hiBlock c.findHi, State.readAt_hi c.pairOfHi c.distinct]

theorem ClockPair.value_of_readReg_lo (c : ClockPair lo hi) (h : s.ClockAnswers p) {t : State} {v : Word}
    (hread : s.readReg p lo.base = (t, v)) : v = BitVec.ofNat 32 (s.pairValue lo hi 0 0 0) := by
  rw [c.readReg_lo h] at hread
  exact (Prod.mk.inj hread).2.symm

/-- A later read of _HI returns the high word of the value at the read of _LO, whatever else has changed. -/
theorem ClockPair.readReg_hi_of_latch_eq (c : ClockPair lo hi) (h : s.ClockAnswers p) {u : State}
    (hu : u.ClockAnswers p) (hlatch : u.latch = (s.readReg p lo.base).1.latch) :
    (u.readReg p hi.base).2 = BitVec.ofNat 32 (s.pairValue lo hi 0 0 0 / 2 ^ 32) := by
  rw [c.readReg_lo h] at hlatch
  rw [c.readReg_hi hu, State.latched_congr hlatch, State.latched_setLatch_same]
  rfl

theorem ClockPair.readReg_hi_after_lo (c : ClockPair lo hi) (h : s.ClockAnswers p) :
    ((s.readReg p lo.base).1.readReg p hi.base).2 = BitVec.ofNat 32 (s.pairValue lo hi 0 0 0 / 2 ^ 32) := by
  refine c.readReg_hi_of_latch_eq h ?_ rfl
  rw [c.readReg_lo h]
  exact h.setLatch _ _ _

theorem ClockPair.readReg_hi_other_path (c : ClockPair lo hi) (hp : s.ClockAnswers p) (hq : s.ClockAnswers q)
    (hne : pathLatch q ≠ pathLatch p) :
    ((s.readReg p lo.base).1.readReg q hi.base).2 = (s.readReg q hi.base).2 := by
  rw [c.readReg_lo hp, c.readReg_hi (hq.setLatch _ _ _), c.readReg_hi hq,
    State.latched_setLatch_other_path hne]

end

/-! ## The values of the two pairs -/

theorem State.pairValue_time (s : State) : s.pairValue Reg.CLK_TIME_LO Reg.CLK_TIME_HI 0 0 0 = s.now := rfl

theorem State.pairValue_ppsCap (s : State) :
    s.pairValue Reg.CLK_PPS_CAP_LO Reg.CLK_PPS_CAP_HI 0 0 0 =
      (s.shown Reg.CLK_PPS_CAP_LO 0 0 0).toNat + (s.shown Reg.CLK_PPS_CAP_HI 0 0 0).toNat * 2 ^ 32 := rfl

theorem State.toNat_now_high (s : State) : (BitVec.ofNat 32 (s.now / 2 ^ 32)).toNat = s.now / 2 ^ 32 := by
  have hnow : s.now < 2 ^ 64 := s.clk.timebase.isLt
  rw [BitVec.toNat_ofNat, Nat.mod_eq_of_lt (by omega)]

theorem ofNat_pair_low (a b : Word) : BitVec.ofNat 32 (a.toNat + b.toNat * 2 ^ 32) = a := by
  apply BitVec.eq_of_toNat_eq
  rw [BitVec.toNat_ofNat, Nat.add_mul_mod_self_right, Nat.mod_eq_of_lt a.isLt]

theorem ofNat_pair_high (a b : Word) : BitVec.ofNat 32 ((a.toNat + b.toNat * 2 ^ 32) / 2 ^ 32) = b := by
  rw [Nat.add_mul_div_right _ _ (Nat.two_pow_pos 32), Nat.div_eq_of_lt a.isLt, Nat.zero_add]
  rw [BitVec.ofNat_toNat, BitVec.setWidth_eq]

/-- Settles O50: both pairs are clock pairs, so the latch lemmas hold of them, and their values are the timebase and the two
words of the capture. -/
theorem timeReadsLatchTheHighWord : Obligations.TimeReadsLatchTheHighWord := by
  intro s p q hdead hopen hp hq
  have hansP : s.ClockAnswers p := ⟨hdead, hopen, hp⟩
  have hansQ : s.ClockAnswers q := ⟨hdead, hopen, hq⟩
  constructor
  · intro t v hread
    have hv : v = BitVec.ofNat 32 s.now := clockPair_time.value_of_readReg_lo hansP hread
    obtain rfl : (s.readReg p Reg.CLK_TIME_LO.base).1 = t := by rw [hread]
    refine ⟨by rw [hv, BitVec.toNat_ofNat], ?_, fun u hlatch hud huo hup => ?_,
      clockPair_time.readReg_hi_other_path hansP hansQ⟩
    · rw [clockPair_time.readReg_hi_after_lo hansP, State.pairValue_time, State.toNat_now_high]
    · rw [clockPair_time.readReg_hi_of_latch_eq hansP ⟨hud, huo, hup⟩ hlatch, State.pairValue_time,
        State.toNat_now_high]
  · intro t v hread
    have hv := clockPair_ppsCap.value_of_readReg_lo hansP hread
    obtain rfl : (s.readReg p Reg.CLK_PPS_CAP_LO.base).1 = t := by rw [hread]
    refine ⟨by rw [hv, State.pairValue_ppsCap, ofNat_pair_low], ?_,
      clockPair_ppsCap.readReg_hi_other_path hansP hansQ⟩
    rw [clockPair_ppsCap.readReg_hi_after_lo hansP, State.pairValue_ppsCap, ofNat_pair_high]

end Sys2Proof.Machine
end

section
/-! PROOFS. Writes of BOOT.CTRL with restart set (R90): what a refused and what an accepted one do, and the word that
OWNER_RESTART writes. -/
namespace Sys2Proof.Machine

/-! ## Writes of BOOT.CTRL with restart set (R90) -/

/-- R90's condition on a written word: the key in restart_key, and no lane enabled. -/
def State.RestartAllowed (s : State) (v : Word) : Prop :=
  bits v.toNat 31 16 = 0x5140 ∧ s.someLane (fun _ => true) = false

/-- What a write of `v` to BOOT.CTRL does beside its restart: clear_learned (R100, R114) and, once the device is ready,
commit_rollback (R109). -/
def State.besideRestart (s : State) (v : Word) : State :=
  let s := s.when (bit v.toNat 6) (fun s => s.ev F.BOOT_CTRL_clear_learned)
  s.when (bit v.toNat 7 && s.boot.ready) State.commitRollback

@[simp] theorem State.commitRollback_boot (s : State) : s.commitRollback.boot = s.boot := by
  unfold State.commitRollback
  dsimp only
  split
  case isTrue golden => rfl
  case isFalse slotted =>
    split
    case isTrue notAbove => rfl
    case isFalse above => rfl

@[simp] theorem State.besideRestart_boot (s : State) (v : Word) : (s.besideRestart v).boot = s.boot := by
  unfold State.besideRestart
  rw [State.when_keeps State.boot _ _ _ State.commitRollback_boot]
  exact State.when_keeps State.boot _ _ _ fun t => State.put_boot t _ _ _ _ _

theorem State.besideRestart_of_bits_clear {v : Word} (hclear : bit v.toNat 6 = false)
    (hcommit : bit v.toNat 7 = false) (s : State) : s.besideRestart v = s := by
  simp only [State.besideRestart, hclear, hcommit, Bool.false_and, State.when_false]

section
variable {s : State} {p : Path} {v : Word}

theorem State.writeBootCtrl_restart_refused (hw : s.writable p Reg.BOOT_CTRL 0 0 0 v = true)
    (hrestart : bit v.toNat 3 = true) (hno : ¬ s.RestartAllowed v) :
    (s.writeBootCtrl p v).1 = s.ev F.BOOT_EVENTS_restart_refused := by
  have hcheck : (bits v.toNat 31 16 == 0x5140 && !s.someLane (fun _ => true)) = false := by
    simpa [State.RestartAllowed] using hno
  rw [State.writeBootCtrl, State.guardWrite_writable hw rfl, hrestart, hcheck]
  rfl

theorem State.writeBootCtrl_restart_accepted (hw : s.writable p Reg.BOOT_CTRL 0 0 0 v = true)
    (hrestart : bit v.toNat 3 = true) (hallowed : s.RestartAllowed v) :
    (s.writeBootCtrl p v).1 = (s.besideRestart v).start 2 Start.OWNER_RESTART := by
  obtain ⟨hkey, hlanes⟩ := hallowed
  rw [State.writeBootCtrl, State.guardWrite_writable hw rfl, hrestart, hkey, hlanes]
  rfl

end

/-! ## The word of OWNER_RESTART -/

/-- The word OWNER_RESTART writes: `key` in restart_key, restart set, nothing else. -/
def restartWord (key : BitVec 16) : Word := BitVec.ofNat 32 (key.toNat * 65536 + 8)

theorem restartWord_toNat (key : BitVec 16) : (restartWord key).toNat = 2 ^ 16 * key.toNat + 8 := by
  have hkey : key.toNat < 2 ^ 16 := key.isLt
  rw [restartWord, BitVec.toNat_ofNat]
  omega

/-- Below the key the word has the bits of 8. -/
theorem bit_restartWord (key : BitVec 16) {i : Nat} (hi : i < 16) : bit (restartWord key).toNat i = bit 8 i := by
  rw [bit, restartWord_toNat, Nat.testBit_two_pow_mul_add key.toNat (by decide : 8 < 2 ^ 16), if_pos hi, bit]

theorem bits_restartWord_key (key : BitVec 16) : bits (restartWord key).toNat 31 16 = key.toNat := by
  have hkey : key.toNat < 2 ^ 16 := key.isLt
  rw [bits, restartWord_toNat, Nat.shiftRight_eq_div_pow]
  omega

theorem State.restartAllowed_restartWord (s : State) (key : BitVec 16) :
    s.RestartAllowed (restartWord key) ↔ key = 0x5140 ∧ s.someLane (fun _ => true) = false := by
  rw [State.RestartAllowed, bits_restartWord_key]
  exact and_congr_left' (BitVec.toNat_inj (y := (0x5140 : BitVec 16)))

theorem State.writeBootCtrl_restartWord {s : State} {p : Path} {key : BitVec 16}
    (hw : s.writable p Reg.BOOT_CTRL 0 0 0 (restartWord key) = true) :
    (s.writeBootCtrl p (restartWord key)).1 =
      if key = 0x5140 ∧ s.someLane (fun _ => true) = false then s.start 2 Start.OWNER_RESTART
      else s.ev F.BOOT_EVENTS_restart_refused := by
  have hrestart : bit (restartWord key).toNat 3 = true := bit_restartWord key (by decide)
  have halone : s.besideRestart (restartWord key) = s :=
    State.besideRestart_of_bits_clear (bit_restartWord key (by decide)) (bit_restartWord key (by decide)) s
  split
  case isTrue hallowed =>
    rw [State.writeBootCtrl_restart_accepted hw hrestart ((s.restartAllowed_restartWord key).mpr hallowed), halone]
  case isFalse hno =>
    exact State.writeBootCtrl_restart_refused hw hrestart fun h => hno ((s.restartAllowed_restartWord key).mp h)

/-- Settles O53: a word that R90 allows starts the device from what it does beside its restart, any other sets only
restart_refused, and OWNER_RESTART's word does nothing beside its restart. -/
theorem restartNeedsItsKeyAndNoLane : Obligations.RestartNeedsItsKeyAndNoLane := by
  refine ⟨fun s p v hw hrestart => ⟨fun hfails => ?_, fun hallowed => ?_⟩, fun s p key hw => ?_⟩
  · refine State.writeBootCtrl_restart_refused hw hrestart fun ⟨hkey, hlanes⟩ => ?_
    rcases hfails with hwrong | hlane
    · exact hwrong hkey
    · exact Bool.false_ne_true (hlanes.symm.trans hlane)
  · exact ⟨s.besideRestart v, by rw [State.besideRestart_boot],
      State.writeBootCtrl_restart_accepted hw hrestart hallowed⟩
  · exact ⟨_, rfl, State.writeBootCtrl_restartWord hw⟩

end Sys2Proof.Machine
end

section
/-! PROOFS. The accumulator of an arithmetic slice (R131 to R134): the value it keeps of a signed result, the result that a
slice forms at an edge, and what an edge does to the accumulator and OVF. -/
namespace Sys2Proof.Machine

/-! ## Two's complement of `w` bits -/

theorem wrapInt_eq_toNat_ofInt (w : Nat) (v : Int) : wrapInt w v = (BitVec.ofInt w v).toNat :=
  (BitVec.toNat_ofInt v).symm

theorem sext_toNat {w : Nat} (hw : 0 < w) (b : BitVec w) : sext w b.toNat = b.toInt := by
  have hhalf : 2 * 2 ^ (w - 1) = 2 ^ w := by rw [← Nat.pow_succ', Nat.succ_eq_add_one, Nat.sub_add_cancel hw]
  rw [sext, Nat.mod_eq_of_lt b.isLt, BitVec.toInt_eq_toNat_cond]
  simp only [← hhalf, Nat.mul_lt_mul_left Nat.two_pos]

/-- Wrapping an integer to `w` bits and reading it back gives its balanced remainder modulo `2 ^ w`. -/
theorem sext_wrapInt {w : Nat} (hw : 0 < w) (v : Int) : sext w (wrapInt w v) = v.bmod (2 ^ w) := by
  rw [wrapInt_eq_toNat_ofInt, sext_toNat hw, BitVec.toInt_ofInt]

/-! ## What the accumulator keeps of a signed result (R134) -/

theorem accLimit_overrun_iff (saturate : Bool) (v : Int) :
    (accLimit saturate v).2 = true ↔ v < -2 ^ 39 ∨ 2 ^ 39 - 1 < v := by
  simp only [accLimit, Bool.or_eq_true, decide_eq_true_eq]

theorem accLimit_wrapping (v : Int) : (accLimit false v).1 = v.bmod (2 ^ 40) :=
  sext_wrapInt (by decide) v

theorem accLimit_saturating (v : Int) : (accLimit true v).1 = max (-2 ^ 39) (min (2 ^ 39 - 1) v) := by
  change satInt 40 v = _
  simp only [satInt]
  omega

theorem accLimit_mem_range (saturate : Bool) (v : Int) :
    -2 ^ 39 ≤ (accLimit saturate v).1 ∧ (accLimit saturate v).1 ≤ 2 ^ 39 - 1 := by
  cases saturate with
  | false =>
    have hlow := Int.le_bmod (x := v) (Nat.two_pow_pos 40)
    have hhigh := Int.bmod_lt (x := v) (Nat.two_pow_pos 40)
    rw [accLimit_wrapping]
    omega
  | true => rw [accLimit_saturating]; omega

theorem accLimit_of_mem_range (saturate : Bool) {v : Int} (hlow : -2 ^ 39 ≤ v) (hhigh : v ≤ 2 ^ 39 - 1) :
    (accLimit saturate v).1 = v := by
  cases saturate with
  | false => rw [accLimit_wrapping]; exact Int.bmod_eq_of_le (by omega) (by omega)
  | true => rw [accLimit_saturating]; omega

theorem accLimit_wrapping_congr (v : Int) : ∃ k : Int, (accLimit false v).1 = v + k * 2 ^ 40 := by
  obtain ⟨k, hk⟩ := Int.dvd_bmod_sub_self (x := v) (m := 2 ^ 40)
  exact ⟨k, by rw [accLimit_wrapping]; omega⟩

/-! ## The result a slice forms at an edge (R132, R133) -/

/-- The accumulator input X of R132, `ci` being the cascade input. -/
def sliceInput (g : SliceCfg) (z : SliceSt) (ci : Int) : Int :=
  match g.mode.toNat with
  | 1 => -z.x
  | 3 => z.x + ci
  | _ => z.x

/-- The signed result of R133 under the registered operation; HOLD has none. -/
def sliceResult (g : SliceCfg) (z : SliceSt) (ci : Int) : Option Int :=
  match z.op with
  | 0 => some (z.acc + sliceInput g z ci)
  | 1 => some (if g.mode.toNat = 2 then sliceInput g z ci else sext 40 z.cx + sliceInput g z ci)
  | 2 => none
  | _ => some (sliceInput g z ci)

theorem sliceInput_eq_ite (g : SliceCfg) (z : SliceSt) (ci : Int) :
    sliceInput g z ci = if g.mode.toNat = 1 then -z.x else if g.mode.toNat = 3 then z.x + ci else z.x := by
  unfold sliceInput
  split
  case h_1 hmacsub => rw [if_pos hmacsub]
  case h_2 hcascade => rw [hcascade, if_neg (by decide), if_pos rfl]
  case h_3 hmacsub hcascade => rw [if_neg hmacsub, if_neg hcascade]

theorem sliceResult_of_operation {g : SliceCfg} {z : SliceSt} {ci v : Int}
    (hv : (z.op = 0 ∧ v = z.acc + sliceInput g z ci) ∨
      (z.op = 1 ∧ v = if g.mode.toNat = 2 then sliceInput g z ci else sext 40 z.cx + sliceInput g z ci) ∨
      (z.op = 3 ∧ v = sliceInput g z ci)) :
    sliceResult g z ci = some v := by
  rcases hv with ⟨hop, rfl⟩ | ⟨hop, rfl⟩ | ⟨hop, rfl⟩ <;>
    simp only [sliceResult, hop]

/-! ## An edge of a slice in a mode other than ACS (R131, R133, R134) -/

/-- What every edge does: it registers the inputs and moves the operands registered before on to the product stage. -/
def sliceStage (g : SliceCfg) (z : SliceSt) (x : SliceIn) : SliceSt :=
  { z with a := x.a.toNat, b := x.b.toNat, c := x.c.toNat, op := x.op.toNat, ce := x.ce, cx := z.c,
           x := if g.mode.toNat = 2 then sext 40 z.c else sliceOperand g.aSigned z.a * sliceOperand g.bSigned z.b }

/-- The slice takes the signed result `v` into its accumulator, OVF and T. -/
def SliceSt.take (g : SliceCfg) (v : Int) (z : SliceSt) : SliceSt :=
  { z with acc := (accLimit g.saturate v).1, ovf := z.ovf || (accLimit g.saturate v).2,
           t := sliceTrunc g (accLimit g.saturate v).1 }

section
variable {g : SliceCfg} {z : SliceSt} {x : SliceIn}

@[simp] theorem sliceStage_ovf : (sliceStage g z x).ovf = z.ovf := rfl

@[simp] theorem SliceSt.take_acc (v : Int) : (z.take g v).acc = (accLimit g.saturate v).1 := rfl

@[simp] theorem SliceSt.take_ovf (v : Int) : (z.take g v).ovf = (z.ovf || (accLimit g.saturate v).2) := rfl

/-- R133: RST before CE, CE before OP. -/
theorem sliceNext_of_not_acs (hmode : g.mode.toNat ≠ 4) (ci : Int) :
    sliceNext g z ci x =
      if x.rst then { sliceStage g z x with acc := 0, ovf := false }
      else if !z.ce then sliceStage g z x
      else match sliceResult g z ci with
        | none => sliceStage g z x
        | some v => (sliceStage g z x).take g v := by
  rw [sliceNext, if_neg hmode]
  rfl

theorem sliceNext_ovf_of_rst (hmode : g.mode.toNat ≠ 4) (hrst : x.rst = true) (ci : Int) :
    (sliceNext g z ci x).ovf = false := by
  rw [sliceNext_of_not_acs hmode, if_pos hrst]

theorem sliceNext_of_ce_low (hmode : g.mode.toNat ≠ 4) (hrst : x.rst = false) (hce : z.ce = false) (ci : Int) :
    sliceNext g z ci x = sliceStage g z x := by
  rw [sliceNext_of_not_acs hmode, hrst, hce]
  rfl

theorem sliceNext_of_hold {ci : Int} (hmode : g.mode.toNat ≠ 4) (hrst : x.rst = false) (hce : z.ce = true)
    (hhold : sliceResult g z ci = none) : sliceNext g z ci x = sliceStage g z x := by
  rw [sliceNext_of_not_acs hmode, hrst, hce, hhold]
  rfl

theorem sliceNext_of_result {ci v : Int} (hmode : g.mode.toNat ≠ 4) (hrst : x.rst = false) (hce : z.ce = true)
    (hv : sliceResult g z ci = some v) : sliceNext g z ci x = (sliceStage g z x).take g v := by
  rw [sliceNext_of_not_acs hmode, hrst, hce, hv]
  rfl

/-- OVF is sticky: only RST clears it. -/
theorem sliceNext_ovf_stays (hmode : g.mode.toNat ≠ 4) (hrst : x.rst = false) (hovf : z.ovf = true) (ci : Int) :
    (sliceNext g z ci x).ovf = true := by
  cases hce : z.ce with
  | false => rw [sliceNext_of_ce_low hmode hrst hce, sliceStage_ovf, hovf]
  | true =>
    cases hres : sliceResult g z ci with
    | none => rw [sliceNext_of_hold hmode hrst hce hres, sliceStage_ovf, hovf]
    | some v => rw [sliceNext_of_result hmode hrst hce hres, SliceSt.take_ovf, sliceStage_ovf, hovf, Bool.true_or]

end

/-- Settles O54: an edge at which a slice forms the result `v` takes what `accLimit` keeps of `v`, which is the balanced
remainder of `v` modulo 2^40 or, with saturate, `v` clipped to the range. -/
theorem sliceAccumulatorWrapsOrHolds : Obligations.SliceAccumulatorWrapsOrHolds := by
  intro g z ci x hmode
  refine ⟨fun hrst => sliceNext_ovf_of_rst hmode hrst ci,
    fun hrst hovf => sliceNext_ovf_stays hmode hrst hovf ci, ?_⟩
  intro v xx hrst hce hxx hv
  obtain rfl : xx = sliceInput g z ci := hxx.trans (sliceInput_eq_ite g z ci).symm
  have hedge : sliceNext g z ci x = (sliceStage g z x).take g v :=
    sliceNext_of_result hmode hrst hce (sliceResult_of_operation hv)
  obtain ⟨hlow, hhigh⟩ := accLimit_mem_range g.saturate v
  simp only [hedge, SliceSt.take_acc, SliceSt.take_ovf, sliceStage_ovf, Bool.or_eq_true, accLimit_overrun_iff]
  refine ⟨trivial, hlow, hhigh, fun ⟨hge, hle⟩ => accLimit_of_mem_range g.saturate hge hle, ?_, ?_⟩
  · intro hsat
    rw [hsat, accLimit_saturating]
    omega
  · intro hwrap
    rw [hwrap]
    exact accLimit_wrapping_congr v

end Sys2Proof.Machine
end

section
/-! PROOFS. An enable of a lane whose symbol rate is out of range (R169, R170): the range check read in hundredths of a GBd,
and the refusal of R186 that such a write ends in. -/
namespace Sys2Proof.Machine

/-- A refused write reports in its register's events, a refused descriptor only in its completion. -/
theorem refuseWrite_fst (s : State) (p : Path) (st : Nat) (event : State → State) :
    (refuseWrite s p st event).1 = match p with
      | .descriptor _ => s
      | _ => event s := by
  cases p <;> rfl

/-- The symbol rate is LANE.MULT · 0.5 · 2^−24 ÷ 2^div GBd (R169); R170 bounds it by 1.25 (NRZ) or 12.5 (PAM4) and by 56.25. -/
theorem State.rateOk_eq_false_iff (s : State) (l : Nat) :
    s.rateOk l = false ↔
      100 * (s.word Reg.LANE_MULT l).toNat <
          (if s.pam4 l then 1250 else 125) * 2 ^ 25 * 2 ^ s.get F.LANE_RATE_div l ∨
        5625 * 2 ^ 25 * 2 ^ s.get F.LANE_RATE_div l < 100 * (s.word Reg.LANE_MULT l).toNat := by
  simp only [State.rateOk, Bool.and_eq_false_iff, decide_eq_false_iff_not, Nat.not_le]
  generalize 2 ^ s.get F.LANE_RATE_div l = d
  split
  case isTrue pam4 => omega
  case isFalse nrz => omega

theorem bit_or_enable (v : Word) : bit (v ||| 0x80000000#32).toNat 31 = true := by
  rw [bit, BitVec.toNat_or, Nat.testBit_or]
  exact Bool.or_true _

/-- An enable that passes R706, of a disabled lane out of the range of R170, is refused with cause RATE_RANGE and the
status BAD_ARGUMENT (R186). -/
theorem State.writeLaneCtrl_rate_refused {s : State} {p : Path} {l : Nat} {v : Word}
    (hw : s.writable p Reg.LANE_CTRL l 0 0 v = true) (henable : bit v.toNat 31 = true)
    (hdisabled : s.on F.LANE_CTRL_enable l = false) (hrate : s.rateOk l = false) :
    s.writeLaneCtrl p l v = s.laneRefuse p l 1 St.BAD_ARGUMENT := by
  rw [State.writeLaneCtrl, State.guardWrite_writable hw rfl]
  simp only [henable, hdisabled, hrate, Bool.false_and, Bool.not_true, Bool.not_false, Bool.false_eq_true,
    if_false, if_true]

/-- Settles O58: out of the range of R170 the write of the enable is refused with cause 1. -/
theorem aLaneRateOutOfRangeIsRefused : Obligations.ALaneRateOutOfRangeIsRefused := by
  rintro s p lane v mult div hw hdisabled rfl rfl hrange
  have hrefused := State.writeLaneCtrl_rate_refused hw (bit_or_enable v) hdisabled
    ((s.rateOk_eq_false_iff lane.toNat).mpr hrange)
  refine ⟨_, rfl, ?_⟩
  rw [hrefused]
  exact refuseWrite_fst s p _ _

end Sys2Proof.Machine
end

section
/-! PROOFS. Writes of SWF.POOL_CFG (R459, R460): R460's condition as the checks of the write decide it, and what a refused
and what an accepted write leaves. -/
namespace Sys2Proof.Machine

/-- R460's condition on a new pool size: every op is FREE, every DQ is unallocated, and the slots free and those of the pool
hold it. -/
def State.PoolResizable (s : State) (new : Nat) : Prop :=
  (∀ o ∈ s.swf.ops, o.2.state = 0) ∧ (∀ q ∈ s.swf.dq, q.2.alloc = false) ∧
    new ≤ s.frontFree + s.get F.SWF_POOL_CFG_pool_quires

/-- The pool takes the front slots it lacks, or returns those beyond its new size. -/
def State.movePoolSlots (s : State) (new : Nat) : State :=
  let old := s.get F.SWF_POOL_CFG_pool_quires
  if old < new then s.takePool (new - old) else s.returnPool (old - new)

/-- A new pool size and the enable of the sewing frame that goes with it (R459). -/
def State.setPoolSize (s : State) (new : Nat) : State :=
  (s.put F.SWF_POOL_CFG_pool_quires new).put F.SWF_STATUS_enabled (b2n (decide (0 < new)))

/-- The check of `State.writePoolCfg` fails exactly where R460's condition does. -/
theorem State.poolBusy_iff (s : State) (new : Nat) :
    (s.swf.ops.any (fun p => p.2.state != 0) || s.swf.dq.any (fun p => p.2.alloc) ||
        decide (s.frontFree + s.get F.SWF_POOL_CFG_pool_quires < new)) = true ↔ ¬ s.PoolResizable new := by
  rw [← Bool.not_eq_false]
  apply not_congr
  simp only [State.PoolResizable, Bool.or_eq_false_iff, List.any_eq_false, decide_eq_false_iff_not, Nat.not_lt,
    bne_iff_ne, ne_eq, Classical.not_not, Bool.not_eq_true, and_assoc]

section
variable {s : State} {p : Path} {v : Word}

theorem State.writePoolCfg_refused (hw : s.writable p Reg.SWF_POOL_CFG 0 0 0 v = true) (hsize : bits v.toNat 9 0 ≤ 512)
    (hno : ¬ s.PoolResizable (bits v.toNat 9 0)) :
    s.writePoolCfg p v = refuseWrite s p St.REFUSED_BUSY (fun s => s.ev F.SWF_EVENTS_wr_refused) := by
  rw [State.writePoolCfg, State.guardWrite_writable hw (decide_eq_false (Nat.not_lt.mpr hsize))]
  exact if_pos ((s.poolBusy_iff _).mpr hno)

theorem State.writePoolCfg_accepted (hw : s.writable p Reg.SWF_POOL_CFG 0 0 0 v = true) (hsize : bits v.toNat 9 0 ≤ 512)
    (hyes : s.PoolResizable (bits v.toNat 9 0)) :
    s.writePoolCfg p v = ((s.movePoolSlots (bits v.toNat 9 0)).setPoolSize (bits v.toNat 9 0), St.OK) := by
  rw [State.writePoolCfg, State.guardWrite_writable hw (decide_eq_false (Nat.not_lt.mpr hsize))]
  exact if_neg (mt (s.poolBusy_iff _).mp (not_not_intro hyes))

end

/-! ## What the new size leaves -/

@[simp] theorem State.setPoolSize_cap (s : State) (new : Nat) : (s.setPoolSize new).cap = s.cap := by
  rw [State.setPoolSize, State.put_cap, State.put_cap]

@[simp] theorem State.setPoolSize_frontFree (s : State) (new : Nat) : (s.setPoolSize new).frontFree = s.frontFree := by
  rw [State.setPoolSize, State.frontFree, State.get_put_apart (by decide), State.get_put_apart (by decide),
    State.frontFree]

theorem State.setPoolSize_pool_quires (s : State) {new : Nat} (hsize : new ≤ 512) :
    (s.setPoolSize new).get F.SWF_POOL_CFG_pool_quires = new := by
  rw [State.setPoolSize, State.get_put_apart (by decide), State.get_put_same _ _ _ _ _ _ (by decide) (by decide)]
  exact Nat.mod_eq_of_lt (Nat.lt_of_le_of_lt hsize (by decide))

theorem State.setPoolSize_enabled (s : State) (new : Nat) :
    (s.setPoolSize new).get F.SWF_STATUS_enabled = if new = 0 then 0 else 1 := by
  rw [State.setPoolSize, State.get_put_same _ _ _ _ _ _ (by decide) (by decide)]
  cases new with
  | zero => rfl
  | succ n => simp [b2n, Fld.width, F.SWF_STATUS_enabled]

/-- Settles O52: where R460's condition holds the write moves the slots and sets the new size, which leaves them as they
are, and elsewhere it is refused. -/
theorem poolSizeIsAcceptedOnlyWhileIdle : Obligations.PoolSizeIsAcceptedOnlyWhileIdle := by
  rintro s p v new old hw rfl hsize rfl
  refine ⟨fun hyes => ⟨_, rfl, ?_⟩, fun hno => ⟨_, rfl, ?_⟩⟩
  · rw [State.writePoolCfg_accepted hw hsize hyes]
    exact ⟨State.setPoolSize_pool_quires _ hsize, State.setPoolSize_enabled _ _, State.setPoolSize_cap _ _,
      State.setPoolSize_frontFree _ _⟩
  · rw [State.writePoolCfg_refused hw hsize hno]
    exact refuseWrite_fst s p _ _

end Sys2Proof.Machine
end

section
/-! PROOFS. GLB.ID (R714): what a read of it answers, and that no register write reaches its word, its fields being RO
(R707). -/
namespace Sys2Proof.Machine

/-! ## A register read only (R707) -/

/-- No field of the register takes a write: none is RW, WO, W1C, W1S or RWL (R707). -/
def RegDef.ReadOnly (r : RegDef) : Prop := r.rw = 0 ∧ r.wo = 0 ∧ r.w1c = 0 ∧ r.w1s = 0 ∧ r.rwl = 0

theorem readOnly_GLB_ID : Reg.GLB_ID.ReadOnly := by unfold RegDef.ReadOnly; decide

theorem Word.toNat_and_ones (w : Word) : w.toNat &&& 0xFFFFFFFF = w.toNat :=
  (Nat.and_two_pow_sub_one_eq_mod w.toNat 32).trans (Nat.mod_eq_of_lt w.isLt)

theorem State.applyWrite_readOnly {r : RegDef} (h : r.ReadOnly) (s : State) (p : Path) (i j k : Nat) (v : Word) :
    s.applyWrite p r i j k v = s.setWord r (s.word r i j k) i j k := by
  obtain ⟨hrw, hwo, hw1c, hw1s, hrwl⟩ := h
  simp only [State.applyWrite, hrw, hwo, hw1c, hw1s, hrwl, ite_self, Nat.or_zero, Nat.and_zero, Nat.xor_zero,
    Word.toNat_and_ones, BitVec.ofNat_toNat, BitVec.setWidth_eq, bne_self_eq_false, Bool.and_false, State.when_false]

/-! ## What leaves the word of GLB.ID -/

/-- A register outside the blocks that an operation may change keeps its word. -/
theorem State.Keeps.word_eq {l : List Part} {s t : State} (h : State.Keeps (Kept.of l s) t) {r : RegDef} {i j k : Nat}
    (hout : l.contains (blockOf (r.addr i j k)) = false) : t.word r i j k = s.word r i j k := by
  have hstored : Tbl.get 0#32 t.regs (r.addr i j k) = Tbl.get 0#32 s.regs (r.addr i j k) := h.regs _ hout
  rw [State.word, State.word, hstored]

section
variable (s : State) (p : Path)

@[simp] theorem State.err_word_GLB_ID (kind off : Nat) :
    (s.err kind off p).word Reg.GLB_ID = s.word Reg.GLB_ID := by
  simp only [State.err]
  rw [State.word_put_apart (by decide), State.word_put_apart (by decide), State.word_put_apart (by decide),
    State.word_setWord_apart (by decide)]

@[simp] theorem State.lostWrite_word_GLB_ID (off : Nat) :
    (s.lostWrite off p).word Reg.GLB_ID = s.word Reg.GLB_ID := by
  rw [State.lostWrite, State.cnt_eq, State.word_put_apart (by decide), State.err_word_GLB_ID]

@[simp] theorem State.wrRefused_word_GLB_ID (off : Nat) : (s.wrRefused off).word Reg.GLB_ID = s.word Reg.GLB_ID :=
  (State.wrRefused_kept s off Kept.of_keeps Kept.of_allows).word_eq (by decide)

theorem State.wakeUp_word_GLB_ID (cause pin : Nat) : (s.wakeUp cause pin).word Reg.GLB_ID = s.word Reg.GLB_ID :=
  (State.wakeUp_kept s cause pin Kept.of_keeps Kept.of_allows).word_eq (by decide)

/-- A wake that does not act from OFF starts nothing: it is ignored, or acts as R635 says. -/
theorem State.wakeBy_notFromOff (cause pin : Nat) :
    s.wakeBy cause pin false = s ∨ s.wakeBy cause pin false = s.wakeUp cause pin := by
  unfold State.wakeBy
  split
  case isTrue cannot => exact .inl rfl
  case isFalse can =>
    split
    case isTrue off => exact .inl rfl
    case isFalse on =>
      split
      case isTrue toOff => exact .inl rfl
      case isFalse acts => exact .inr rfl

theorem State.hostAccess_word_GLB_ID : (s.hostAccess p).word Reg.GLB_ID = s.word Reg.GLB_ID := by
  refine State.when_keeps (fun t => t.word Reg.GLB_ID) s _ _ fun t => ?_
  rcases t.wakeBy_notFromOff 4 0 with hignored | hacts
  · rw [hignored]
  · rw [hacts, State.wakeUp_word_GLB_ID]

/-- The checks of R706 leave GLB.ID to the chapter's own rule: what they report lies in other registers. -/
theorem State.guardWrite_word_GLB_ID {h : State → State × Nat}
    (hrule : (h s).1.word Reg.GLB_ID = s.word Reg.GLB_ID) (r : RegDef) (i j k : Nat) (v : Word) (bad : Bool) :
    (s.guardWrite p r i j k v bad h).1.word Reg.GLB_ID = s.word Reg.GLB_ID := by
  unfold State.guardWrite
  dsimp only
  split
  case isTrue dead => rfl
  case isFalse alive =>
    split
    case isTrue asleep => exact s.lostWrite_word_GLB_ID p _
    case isFalse awake =>
      split
      case isTrue early => exact State.word_put_apart (by decide)
      case isFalse opened =>
        split
        case isTrue foreign =>
          cases p with
          | descriptor t => rfl
          | bar0 | debugger | management => exact s.wrRefused_word_GLB_ID _
        case isFalse own =>
          refine (State.when_keeps (fun t => t.word Reg.GLB_ID) _ _ _ fun t => ?_).trans ?_
          · rw [State.cnt_eq, State.word_put_apart (by decide), State.err_word_GLB_ID]
          · split
            case isTrue reserved => exact s.err_word_GLB_ID p _ _
            case isFalse legal =>
              split
              case isTrue unpowered => exact s.lostWrite_word_GLB_ID p _
              case isFalse powered => exact hrule

end

/-! ## Accesses of GLB.ID -/

theorem findReg_GLB_ID : findReg Reg.GLB_ID.base = some (Reg.GLB_ID, 0, 0, 0) := rfl

section
variable (s : State) (p : Path)

theorem State.translate_GLB_ID : s.translate Reg.GLB_ID.base = Reg.GLB_ID.base := rfl

/-- GLB.ID lies in no power domain, no other state shows in it, and it has no WO bit to hide. -/
theorem State.shown_GLB_ID : s.shown Reg.GLB_ID 0 0 0 = s.word Reg.GLB_ID :=
  calc s.shown Reg.GLB_ID 0 0 0
    _ = s.word Reg.GLB_ID &&& BitVec.allOnes 32 := rfl
    _ = s.word Reg.GLB_ID := BitVec.and_allOnes

theorem State.readAt_GLB_ID (clears : Bool) :
    s.readAt p Reg.GLB_ID 0 0 0 clears = (s, s.word Reg.GLB_ID) := by
  cases clears
  all_goals exact congrArg (Prod.mk s) s.shown_GLB_ID

/-- GLB.ID answers every path of a device that runs, before S16 and in DEEP_SLEEP too (R93, R705). -/
theorem State.readReg_GLB_ID (halive : s.dead = false) (clears : Bool) :
    s.readReg p Reg.GLB_ID.base clears = (s, s.word Reg.GLB_ID) := by
  have hopen : s.openBlock Reg.GLB_ID.base = true := by simp [State.openBlock, Reg.GLB_ID]
  simp [State.readReg, s.translate_GLB_ID, halive, hopen, findReg_GLB_ID, State.readAt_GLB_ID]

/-- No chapter adds a rule to a write of GLB.ID. -/
theorem State.writeAt_GLB_ID (path : Nat) (v : Word) :
    s.writeAt p path Reg.GLB_ID 0 0 0 v = s.plainWrite p Reg.GLB_ID 0 0 0 v := rfl

theorem State.writeReg_GLB_ID (path : Nat) (v : Word) :
    s.writeReg p path Reg.GLB_ID.base v =
      if s.dead then (s, St.ABORTED_FAULT) else s.plainWrite p Reg.GLB_ID 0 0 0 v := by
  simp only [State.writeReg, s.translate_GLB_ID, findReg_GLB_ID, State.writeAt_GLB_ID]

theorem State.plainWrite_word_GLB_ID (v : Word) :
    (s.plainWrite p Reg.GLB_ID 0 0 0 v).1.word Reg.GLB_ID = s.word Reg.GLB_ID := by
  refine s.guardWrite_word_GLB_ID p ?_ _ _ _ _ _ _
  rw [State.applyWrite_readOnly readOnly_GLB_ID, State.word_setWord_same]

theorem State.writeReg_word_GLB_ID (path : Nat) (v : Word) :
    (s.writeReg p path Reg.GLB_ID.base v).1.word Reg.GLB_ID = s.word Reg.GLB_ID := by
  rw [State.writeReg_GLB_ID]
  split
  case isTrue dead => rfl
  case isFalse alive => exact s.plainWrite_word_GLB_ID p v

theorem State.busWrite_word_GLB_ID (v : Word) (be : BitVec 4) :
    (s.busWrite p none 0 v be).word Reg.GLB_ID = s.word Reg.GLB_ID := by
  unfold State.busWrite
  dsimp only
  split
  case isTrue noAccess => rfl
  case isFalse access =>
    refine Eq.trans ?_ (s.hostAccess_word_GLB_ID p)
    split
    case isTrue whole => exact (s.hostAccess p).writeReg_word_GLB_ID p _ v
    case isFalse partly => exact State.err_word_GLB_ID _ _ _ _

end

/-- Settles O49: a read answers the word of GLB.ID, whose reset word has the fields of R714, and every end of a register
write at its offset leaves that word. -/
theorem identityReadsAndIsNeverWritten : Obligations.IdentityReadsAndIsNeverWritten := by
  refine ⟨fun p => ?_, fun s p v be => ⟨_, rfl, s.busWrite_word_GLB_ID p v be⟩⟩
  have hread : (State.reset.readReg p Reg.GLB_ID.base).2 = 0x15140E0B#32 := by
    rw [State.readReg_GLB_ID State.reset p rfl]
    rfl
  rw [hread]
  decide

end Sys2Proof.Machine
end

section
/-! PROOFS. What every command keeps: the laws of the meanings brought together over `exec`, and from them the well-kept
state, the queue and the frame of every step; then what a step is, and the state after reset. -/
set_option Elab.async false  -- one proof at a time: the package as one text then needs less memory
namespace Sys2Proof.Machine

/-- A command keeps what `State.Keeps` says, with its own parts as those that may change. -/
theorem exec_keeps (c : Instr) (s : State) : State.KeepsOut (Kept.of c.parts s) (exec c s) := by
  cases c with
  | startConditionMet => exact execStartConditionMet_kept s Kept.of_keeps Kept.of_all
  | vinRising => exact execVinRising_kept s Kept.of_keeps Kept.of_allows
  | vinUndervoltage => exact execVinUndervoltage_kept s Kept.of_keeps Kept.of_all
  | vinOvervoltage => exact execVinOvervoltage_kept s Kept.of_keeps Kept.of_all
  | pwrfailNLow => exact execPwrfailNLow_kept s Kept.of_keeps Kept.of_all
  | colophonCommitDone => exact execColophonCommitDone_kept s Kept.of_keeps Kept.of_allows
  | gpfDone phases => exact execGpfDone_kept phases s Kept.of_keeps Kept.of_allows
  | powerLossSequenceEnd => exact execPowerLossSequenceEnd_kept s Kept.of_keeps Kept.of_allows
  | vauxLoss => exact execVauxLoss_kept s Kept.of_keeps Kept.of_all
  | vauxRestored => exact execVauxRestored_kept s Kept.of_keeps Kept.of_allows
  | railPhaseFailure rail load => exact execRailPhaseFailure_kept rail load s Kept.of_keeps Kept.of_all
  | thermalTrip => exact execThermalTrip_kept s Kept.of_keeps Kept.of_all
  | tempSample l => exact execTempSample_kept l s Kept.of_keeps Kept.of_allows
  | sensorElementFailure sensor element =>
      exact execSensorElementFailure_kept sensor element s Kept.of_keeps Kept.of_allows
  | qualGateEnd n edges offset => exact execQualGateEnd_kept n edges offset s Kept.of_keeps Kept.of_allows
  | candidateEdgeTimeout n => exact execCandidateEdgeTimeout_kept n s Kept.of_keeps Kept.of_allows
  | memsFailed => exact execMemsFailed_kept s Kept.of_keeps Kept.of_allows
  | memsRecovered => exact execMemsRecovered_kept s Kept.of_keeps Kept.of_allows
  | activeSourceLost => exact execActiveSourceLost_kept s Kept.of_keeps Kept.of_allows
  | fallbackChosen => exact execFallbackChosen_kept s Kept.of_keeps Kept.of_allows
  | refSwitch p v => exact execRefSwitch_kept p v s Kept.of_keeps Kept.of_allows
  | rootLockReached => exact execRootLockReached_kept s Kept.of_keeps Kept.of_allows
  | autoRevert => exact execAutoRevert_kept s Kept.of_keeps Kept.of_allows
  | candWrite p n v => exact execCandWrite_kept p n v s Kept.of_keeps Kept.of_allows
  | globalDivWrite p n v => exact execGlobalDivWrite_kept p n v s Kept.of_keeps Kept.of_allows
  | outCtrlWrite p n v => exact execOutCtrlWrite_kept p n v s Kept.of_keeps Kept.of_allows
  | freqAdjWrite p v => exact execFreqAdjWrite_kept p v s Kept.of_keeps Kept.of_allows
  | timeSet p at' => exact execTimeSet_kept p at' s Kept.of_keeps Kept.of_allows
  | timeStep p at' => exact execTimeStep_kept p at' s Kept.of_keeps Kept.of_allows
  | timeCancel p => exact execTimeCancel_kept p s Kept.of_keeps Kept.of_allows
  | timeCmdApply => exact execTimeCmdApply_kept s Kept.of_keeps Kept.of_allows
  | ppsEdge pin => exact execPpsEdge_kept pin s Kept.of_keeps Kept.of_allows
  | resetPin => exact execResetPin_kept s Kept.of_keeps Kept.of_all
  | ownerRestart p key => exact execOwnerRestart_kept p key s Kept.of_keeps Kept.of_all
  | stepTimeout step => exact execStepTimeout_kept step s Kept.of_keeps Kept.of_all
  | mgmtWatchdogExpiry => exact execMgmtWatchdogExpiry_kept s Kept.of_keeps Kept.of_all
  | startStepDone step r => exact execStartStepDone_kept step r s Kept.of_keeps Kept.of_all
  | perstNAssert => exact execPerstNAssert_kept s Kept.of_keeps Kept.of_all
  | perstNRelease => exact execPerstNRelease_kept s Kept.of_keeps Kept.of_allows
  | linkTimeout => exact execLinkTimeout_kept s Kept.of_keeps Kept.of_allows
  | linkTrainRetry up rate width flit => exact execLinkTrainRetry_kept up rate width flit s Kept.of_keeps Kept.of_allows
  | commitRollback p => exact execCommitRollback_kept p s Kept.of_keeps Kept.of_all
  | clearLearned p => exact execClearLearned_kept p s Kept.of_keeps Kept.of_all
  | imageSelWrite p v => exact execImageSelWrite_kept p v s Kept.of_keeps Kept.of_allows
  | fabricMemRead sec mem portB addr strike =>
      exact execFabricMemRead_kept sec mem portB addr strike s Kept.of_keeps Kept.of_allows
  | memScrubVisit sec strikes dropped => exact execMemScrubVisit_kept sec strikes dropped s Kept.of_keeps Kept.of_allows
  | memInject p sec v lost => exact execMemInject_kept p sec v lost s Kept.of_keeps Kept.of_allows
  | fabricLoad d length row col auto map =>
      exact execFabricLoad_kept d length row col auto map s Kept.of_keeps Kept.of_allows
  | sectionClearDone sec => exact execSectionClearDone_kept sec s Kept.of_keeps Kept.of_allows
  | fabricLoadEngineStart => exact execFabricLoadEngineStart_kept s Kept.of_keeps Kept.of_allows
  | fabricLoadDone cause image => exact execFabricLoadDone_kept cause image s Kept.of_keeps Kept.of_allows
  | fabricRelease d sec => exact execFabricRelease_kept d sec s Kept.of_keeps Kept.of_allows
  | fabricReleaseDone sec => exact execFabricReleaseDone_kept sec s Kept.of_keeps Kept.of_allows
  | fabricStop d sec => exact execFabricStop_kept d sec s Kept.of_keeps Kept.of_allows
  | fabricStopDone sec => exact execFabricStopDone_kept sec s Kept.of_keeps Kept.of_allows
  | fabricClear d sec => exact execFabricClear_kept d sec s Kept.of_keeps Kept.of_allows
  | rclkCtrlWrite p sec k v => exact execRclkCtrlWrite_kept p sec k v s Kept.of_keeps Kept.of_allows
  | rclkSelChange sec k level => exact execRclkSelChange_kept sec k level s Kept.of_keeps Kept.of_allows
  | rclkChangeDone sec k => exact execRclkChangeDone_kept sec k s Kept.of_keeps Kept.of_allows
  | laneEnable p lane v => exact execLaneEnable_kept p lane v s Kept.of_keeps Kept.of_allows
  | laneDisable p lane v => exact execLaneDisable_kept p lane v s Kept.of_keeps Kept.of_allows
  | octetRetuneDone o => exact execOctetRetuneDone_kept o s Kept.of_keeps Kept.of_allows
  | octetPllFailure o => exact execOctetPllFailure_kept o s Kept.of_keeps Kept.of_allows
  | octetSwitchComplete o => exact execOctetSwitchComplete_kept o s Kept.of_keeps Kept.of_allows
  | sparePllFailure o => exact execSparePllFailure_kept o s Kept.of_keeps Kept.of_allows
  | txFirWrite p lane v => exact execTxFirWrite_kept p lane v s Kept.of_keeps Kept.of_allows
  | txFirApply lane => exact execTxFirApply_kept lane s Kept.of_keeps Kept.of_allows
  | rxCoefWrite p lane v => exact execRxCoefWrite_kept p lane v s Kept.of_keeps Kept.of_allows
  | rxEqModeWrite p lane v => exact execRxEqModeWrite_kept p lane v s Kept.of_keeps Kept.of_allows
  | signalDetected lane => exact execSignalDetected_kept lane s Kept.of_keeps Kept.of_allows
  | cdrLockAcquired lane => exact execCdrLockAcquired_kept lane s Kept.of_keeps Kept.of_allows
  | codingLockGained lane history => exact execCodingLockGained_kept lane history s Kept.of_keeps Kept.of_allows
  | codingLockLost lane => exact execCodingLockLost_kept lane s Kept.of_keeps Kept.of_allows
  | cdrLockLost lane => exact execCdrLockLost_kept lane s Kept.of_keeps Kept.of_allows
  | signalLoss lane => exact execSignalLoss_kept lane s Kept.of_keeps Kept.of_allows
  | laneAnalogueFault lane cause => exact execLaneAnalogueFault_kept lane cause s Kept.of_keeps Kept.of_allows
  | digAcquire src lane tap cfg span count =>
      exact execDigAcquire_kept src lane tap cfg span count s Kept.of_keeps Kept.of_allows
  | digTrigger lane tap t ref sample => exact execDigTrigger_kept lane tap t ref sample s Kept.of_keeps Kept.of_allows
  | digAbort p lane tap v => exact execDigAbort_kept p lane tap v s Kept.of_keeps Kept.of_allows
  | digAcquisitionEnd lane tap => exact execDigAcquisitionEnd_kept lane tap s Kept.of_keeps Kept.of_allows
  | probe src lane ctrl => exact execProbe_kept src lane ctrl s Kept.of_keeps Kept.of_allows
  | probeAbort p lane v => exact execProbeAbort_kept p lane v s Kept.of_keeps Kept.of_allows
  | probeEnd lane timedOut received data legN legP =>
      exact execProbeEnd_kept lane timedOut received data legN legP s Kept.of_keeps Kept.of_allows
  | intakeUnit lane u t bad k staged most =>
      exact execIntakeUnit_kept lane u t bad k staged most s Kept.of_keeps Kept.of_allows
  | runPieceTimeout n m => exact execRunPieceTimeout_kept n m s Kept.of_keeps Kept.of_allows
  | gapPieceTimeout n m t => exact execGapPieceTimeout_kept n m t s Kept.of_keeps Kept.of_allows
  | fecCodewordDone n m t corr uncorr b entries ago =>
      exact execFecCodewordDone_kept n m t corr uncorr b entries ago s Kept.of_keeps Kept.of_allows
  | deskewRound sect b t offs => exact execDeskewRound_kept sect b t offs s Kept.of_keeps Kept.of_allows
  | sliceCheckpoint sect => exact execSliceCheckpoint_kept sect s Kept.of_keeps Kept.of_allows
  | sliceFailure sect k => exact execSliceFailure_kept sect k s Kept.of_keeps Kept.of_allows
  | sliceFailoverDone sect => exact execSliceFailoverDone_kept sect s Kept.of_keeps Kept.of_allows
  | laneCfgWrite p which sect j v => exact execLaneCfgWrite_kept p which sect j v s Kept.of_keeps Kept.of_allows
  | slotEvaluation sect slot => exact execSlotEvaluation_kept sect slot s Kept.of_keeps Kept.of_allows
  | triggerTokenPost => exact execTriggerTokenPost_kept s Kept.of_keeps Kept.of_allows
  | lineEvent line => exact execLineEvent_kept line s Kept.of_keeps Kept.of_allows
  | seqArm p sect q v => exact execSeqArm_kept p sect q v s Kept.of_keeps Kept.of_allows
  | seqDisarm p sect q v => exact execSeqDisarm_kept p sect q v s Kept.of_keeps Kept.of_allows
  | swCond p sect q v => exact execSwCond_kept p sect q v s Kept.of_keeps Kept.of_allows
  | tlinePulse p n => exact execTlinePulse_kept p n s Kept.of_keeps Kept.of_allows
  | trigPinEdge pin rising t => exact execTrigPinEdge_kept pin rising t s Kept.of_keeps Kept.of_allows
  | tapBeat sect tap data nbits t gap => exact execTapBeat_kept sect tap data nbits t gap s Kept.of_keeps Kept.of_allows
  | injEvent sect n t => exact execInjEvent_kept sect n t s Kept.of_keeps Kept.of_allows
  | ribbon d n code at' data => exact execRibbon_kept d n code at' data s Kept.of_keeps Kept.of_allows
  | ribbonAtTime => exact execRibbonAtTime_kept s Kept.of_keeps Kept.of_allows
  | graphRibbonToken n => exact execGraphRibbonToken_kept n s Kept.of_keeps Kept.of_allows
  | streamStart d a => exact execStreamStart_kept d a s Kept.of_keeps Kept.of_allows
  | streamStop d n => exact execStreamStop_kept d n s Kept.of_keeps Kept.of_allows
  | streamClosed n => exact execStreamClosed_kept n s Kept.of_keeps Kept.of_allows
  | captureRelease d n => exact execCaptureRelease_kept d n s Kept.of_keeps Kept.of_allows
  | quireFreed q => exact execQuireFreed_kept q s Kept.of_keeps Kept.of_allows
  | leafFlushTimeout n => exact execLeafFlushTimeout_kept n s Kept.of_keeps Kept.of_allows
  | quireAllocated => exact execQuireAllocated_kept s Kept.of_keeps Kept.of_allows
  | rowWaitTimeout q => exact execRowWaitTimeout_kept q s Kept.of_keeps Kept.of_allows
  | sealSlotWrite q => exact execSealSlotWrite_kept q s Kept.of_keeps Kept.of_allows
  | drainTake balanced => exact execDrainTake_kept balanced s Kept.of_keeps Kept.of_allows
  | drainCopyDone q => exact execDrainCopyDone_kept q s Kept.of_keeps Kept.of_allows
  | drainWriteFailure q => exact execDrainWriteFailure_kept q s Kept.of_keeps Kept.of_allows
  | drainCfgWrite p v => exact execDrainCfgWrite_kept p v s Kept.of_keeps Kept.of_allows
  | quotaWrite p deep t v => exact execQuotaWrite_kept p deep t v s Kept.of_keeps Kept.of_allows
  | quireVerify d q buffer good => exact execQuireVerify_kept d q buffer good s Kept.of_keeps Kept.of_allows
  | leafRead d n q leaf buffer tagBad => exact execLeafRead_kept d n q leaf buffer tagBad s Kept.of_keeps Kept.of_allows
  | leafReadRaw d n q leaf buffer => exact execLeafReadRaw_kept d n q leaf buffer s Kept.of_keeps Kept.of_allows
  | collateOpen d count flags mask start stop ids ring slots unit =>
      exact execCollateOpen_kept d count flags mask start stop ids ring slots unit s Kept.of_keeps Kept.of_allows
  | collateClose d n => exact execCollateClose_kept d n s Kept.of_keeps Kept.of_allows
  | collateRecord n badLeaves badQuires =>
      exact execCollateRecord_kept n badLeaves badQuires s Kept.of_keeps Kept.of_allows
  | hostTailPoll n tail fail => exact execHostTailPoll_kept n tail fail s Kept.of_keeps Kept.of_allows
  | seekTime d n t => exact execSeekTime_kept d n t s Kept.of_keeps Kept.of_allows
  | ribbonFind d n limit code mask start stop buffer badLeaves badQuires =>
      exact execRibbonFind_kept d n limit code mask start stop buffer badLeaves badQuires s Kept.of_keeps Kept.of_allows
  | pressLoad d lane entry program stream pressDq notifyDq =>
      exact execPressLoad_kept d lane entry program stream pressDq notifyDq s Kept.of_keeps Kept.of_allows
  | pressStart d lane atTime => exact execPressStart_kept d lane atTime s Kept.of_keeps Kept.of_allows
  | pressStartTime lane => exact execPressStartTime_kept lane s Kept.of_keeps Kept.of_allows
  | pressStop d lane => exact execPressStop_kept d lane s Kept.of_keeps Kept.of_allows
  | pressFreeze d lane => exact execPressFreeze_kept d lane s Kept.of_keeps Kept.of_allows
  | pressUnfreeze d lane => exact execPressUnfreeze_kept d lane s Kept.of_keeps Kept.of_allows
  | pressEvent d lane value => exact execPressEvent_kept d lane value s Kept.of_keeps Kept.of_allows
  | pressEvqArrival lane graph => exact execPressEvqArrival_kept lane graph s Kept.of_keeps Kept.of_allows
  | pressUnitSend lane t k => exact execPressUnitSend_kept lane t k s Kept.of_keeps Kept.of_allows
  | prefetchReadDone lane leaf authentic frame =>
      exact execPrefetchReadDone_kept lane leaf authentic frame s Kept.of_keeps Kept.of_allows
  | halt lane => exact execHalt_kept lane s Kept.of_keeps Kept.of_allows
  | send lane => exact execSend_kept lane s Kept.of_keeps Kept.of_allows
  | sendk lane => exact execSendk_kept lane s Kept.of_keeps Kept.of_allows
  | idle lane => exact execIdle_kept lane s Kept.of_keeps Kept.of_allows
  | setp lane => exact execSetp_kept lane s Kept.of_keeps Kept.of_allows
  | addp lane => exact execAddp_kept lane s Kept.of_keeps Kept.of_allows
  | setk lane => exact execSetk_kept lane s Kept.of_keeps Kept.of_allows
  | loop lane => exact execLoop_kept lane s Kept.of_keeps Kept.of_allows
  | jump lane => exact execJump_kept lane s Kept.of_keeps Kept.of_allows
  | markt lane => exact execMarkt_kept lane s Kept.of_keeps Kept.of_allows
  | addt lane => exact execAddt_kept lane s Kept.of_keeps Kept.of_allows
  | waitTime lane => exact execWaitTime_kept lane s Kept.of_keeps Kept.of_allows
  | waitTimeRelease lane => exact execWaitTimeRelease_kept lane s Kept.of_keeps Kept.of_allows
  | waitEvent lane => exact execWaitEvent_kept lane s Kept.of_keeps Kept.of_allows
  | waitEventTaken lane => exact execWaitEventTaken_kept lane s Kept.of_keeps Kept.of_allows
  | waitEventTimeout lane => exact execWaitEventTimeout_kept lane s Kept.of_keeps Kept.of_allows
  | branchEv lane => exact execBranchEv_kept lane s Kept.of_keeps Kept.of_allows
  | sendEv lane => exact execSendEv_kept lane s Kept.of_keeps Kept.of_allows
  | prime lane => exact execPrime_kept lane s Kept.of_keeps Kept.of_allows
  | inject lane => exact execInject_kept lane s Kept.of_keeps Kept.of_allows
  | signal lane => exact execSignal_kept lane s Kept.of_keeps Kept.of_allows
  | pass lane => exact execPass_kept lane s Kept.of_keeps Kept.of_allows
  | drop lane => exact execDrop_kept lane s Kept.of_keeps Kept.of_allows
  | passUntil lane => exact execPassUntil_kept lane s Kept.of_keeps Kept.of_allows
  | relayUnitIn lane u => exact execRelayUnitIn_kept lane u s Kept.of_keeps Kept.of_allows
  | cacheLinesWrite p lane v => exact execCacheLinesWrite_kept p lane v s Kept.of_keeps Kept.of_allows
  | frameConfig d f cfg target list addr frameDq notifyDq pattern =>
      exact execFrameConfig_kept d f cfg target list addr frameDq notifyDq pattern s Kept.of_keeps Kept.of_allows
  | frameStart d f atTime => exact execFrameStart_kept d f atTime s Kept.of_keeps Kept.of_allows
  | frameStartTime f => exact execFrameStartTime_kept f s Kept.of_keeps Kept.of_allows
  | frameStop d f => exact execFrameStop_kept d f s Kept.of_keeps Kept.of_allows
  | shaperSet d f setRate setBurst clear rate burst =>
      exact execShaperSet_kept d f setRate setBurst clear rate burst s Kept.of_keeps Kept.of_allows
  | clearDebt p v => exact execClearDebt_kept p v s Kept.of_keeps Kept.of_allows
  | shaperSlot sect => exact execShaperSlot_kept sect s Kept.of_keeps Kept.of_allows
  | multicastTimeout f => exact execMulticastTimeout_kept f s Kept.of_keeps Kept.of_allows
  | frameBoundary lane t => exact execFrameBoundary_kept lane t s Kept.of_keeps Kept.of_allows
  | frameDqToken f => exact execFrameDqToken_kept f s Kept.of_keeps Kept.of_allows
  | hbmReadError q leaf still noSpare second =>
      exact execHbmReadError_kept q leaf still noSpare second s Kept.of_keeps Kept.of_allows
  | hbmStackFailure stack cause => exact execHbmStackFailure_kept stack cause s Kept.of_keeps Kept.of_allows
  | hbmRefresh stack hot => exact execHbmRefresh_kept stack hot s Kept.of_keeps Kept.of_allows
  | ddrRefresh c rank => exact execDdrRefresh_kept c rank s Kept.of_keeps Kept.of_allows
  | ddrRefreshRatePoll c rank double => exact execDdrRefreshRatePoll_kept c rank double s Kept.of_keeps Kept.of_allows
  | parityScrubRow q leaf differs settle late corrected =>
      exact execParityScrubRow_kept q leaf differs settle late corrected s Kept.of_keeps Kept.of_allows
  | ddrUeBurst q leaf second leaves => exact execDdrUeBurst_kept q leaf second leaves s Kept.of_keeps Kept.of_allows
  | ddrRankRetire c rank reason leaves =>
      exact execDdrRankRetire_kept c rank reason leaves s Kept.of_keeps Kept.of_allows
  | ddrMigrateDone c => exact execDdrMigrateDone_kept c s Kept.of_keeps Kept.of_allows
  | ddrRehomeDone second => exact execDdrRehomeDone_kept second s Kept.of_keeps Kept.of_allows
  | cxlReadFailover q leaf late => exact execCxlReadFailover_kept q leaf late s Kept.of_keeps Kept.of_allows
  | cxlExpanderFailure port cause => exact execCxlExpanderFailure_kept port cause s Kept.of_keeps Kept.of_allows
  | cxlResilverDone port => exact execCxlResilverDone_kept port s Kept.of_keeps Kept.of_allows
  | keyGenerate d => exact execKeyGenerate_kept d s Kept.of_keeps Kept.of_allows
  | keyImport d blob bad => exact execKeyImport_kept d blob bad s Kept.of_keeps Kept.of_allows
  | keyImportStaged d blob bad => exact execKeyImportStaged_kept d blob bad s Kept.of_keeps Kept.of_allows
  | keyExport d buffer => exact execKeyExport_kept d buffer s Kept.of_keeps Kept.of_allows
  | keyRekey d buffer => exact execKeyRekey_kept d buffer s Kept.of_keeps Kept.of_allows
  | keyZeroise d => exact execKeyZeroise_kept d s Kept.of_keeps Kept.of_allows
  | drbgHealthFailure => exact execDrbgHealthFailure_kept s Kept.of_keeps Kept.of_allows
  | rekeyEngineTake => exact execRekeyEngineTake_kept s Kept.of_keeps Kept.of_allows
  | rekeyAdvance => exact execRekeyAdvance_kept s Kept.of_keeps Kept.of_allows
  | patternWrite d n off data bad => exact execPatternWrite_kept d n off data bad s Kept.of_keeps Kept.of_allows
  | secLock p v => exact execSecLock_kept p v s Kept.of_keeps Kept.of_allows
  | linkSessionRollover port => exact execLinkSessionRollover_kept port s Kept.of_keeps Kept.of_allows
  | poolCfgWrite p v => exact execPoolCfgWrite_kept p v s Kept.of_keeps Kept.of_allows
  | dqConfig d q depth consumer => exact execDqConfig_kept d q depth consumer s Kept.of_keeps Kept.of_allows
  | dqRelease d q => exact execDqRelease_kept d q s Kept.of_keeps Kept.of_allows
  | opDefine d o r => exact execOpDefine_kept d o r s Kept.of_keeps Kept.of_allows
  | opEnable d o => exact execOpEnable_kept d o s Kept.of_keeps Kept.of_allows
  | opStop d o => exact execOpStop_kept d o s Kept.of_keeps Kept.of_allows
  | opFree d o => exact execOpFree_kept d o s Kept.of_keeps Kept.of_allows
  | opMigrateLive d o cls prio set => exact execOpMigrateLive_kept d o cls prio set s Kept.of_keeps Kept.of_allows
  | opMigrateDrain d o cls prio set => exact execOpMigrateDrain_kept d o cls prio set s Kept.of_keeps Kept.of_allows
  | tokenPut d q tokens => exact execTokenPut_kept d q tokens s Kept.of_keeps Kept.of_allows
  | tokenGet d q buffer max => exact execTokenGet_kept d q buffer max s Kept.of_keeps Kept.of_allows
  | tokenArrival q token source => exact execTokenArrival_kept q token source s Kept.of_keeps Kept.of_allows
  | queueFetchDone q => exact execQueueFetchDone_kept q s Kept.of_keeps Kept.of_allows
  | decision engine t => exact execDecision_kept engine t s Kept.of_keeps Kept.of_allows
  | taskGrant pool => exact execTaskGrant_kept pool s Kept.of_keeps Kept.of_allows
  | taskCommit slot => exact execTaskCommit_kept slot s Kept.of_keeps Kept.of_allows
  | taskFetch d cls buffer waitMs taskMs =>
      exact execTaskFetch_kept d cls buffer waitMs taskMs s Kept.of_keeps Kept.of_allows
  | taskFetchTimeout tenant ring entry =>
      exact execTaskFetchTimeout_kept tenant ring entry s Kept.of_keeps Kept.of_allows
  | taskDone d handle status counts tokens =>
      exact execTaskDone_kept d handle status counts tokens s Kept.of_keeps Kept.of_allows
  | hostTaskTimeout slot => exact execHostTaskTimeout_kept slot s Kept.of_keeps Kept.of_allows
  | taskHandback slot => exact execTaskHandback_kept slot s Kept.of_keeps Kept.of_allows
  | dispatchRequest sec port cls => exact execDispatchRequest_kept sec port cls s Kept.of_keeps Kept.of_allows
  | dispatchOutput sec port index token =>
      exact execDispatchOutput_kept sec port index token s Kept.of_keeps Kept.of_allows
  | dispatchDone sec port status => exact execDispatchDone_kept sec port status s Kept.of_keeps Kept.of_allows
  | coreLoad d c data first items => exact execCoreLoad_kept d c data first items s Kept.of_keeps Kept.of_allows
  | coreStart d c entry => exact execCoreStart_kept d c entry s Kept.of_keeps Kept.of_allows
  | coreStop d c => exact execCoreStop_kept d c s Kept.of_keeps Kept.of_allows
  | coreSignal d c => exact execCoreSignal_kept d c s Kept.of_keeps Kept.of_allows
  | nop c fe => exact execNop_kept c fe s Kept.of_keeps Kept.of_allows
  | trap c fe => exact execTrap_kept c fe s Kept.of_keeps Kept.of_allows
  | rete c fe => exact execRete_kept c fe s Kept.of_keeps Kept.of_allows
  | br c fe => exact execBr_kept c fe s Kept.of_keeps Kept.of_allows
  | jmp c fe => exact execJmp_kept c fe s Kept.of_keeps Kept.of_allows
  | jmpr c fe => exact execJmpr_kept c fe s Kept.of_keeps Kept.of_allows
  | call c fe => exact execCall_kept c fe s Kept.of_keeps Kept.of_allows
  | ret c fe => exact execRet_kept c fe s Kept.of_keeps Kept.of_allows
  | loopi c fe => exact execLoopi_kept c fe s Kept.of_keeps Kept.of_allows
  | loopr c fe => exact execLoopr_kept c fe s Kept.of_keeps Kept.of_allows
  | repi c fe => exact execRepi_kept c fe s Kept.of_keeps Kept.of_allows
  | repr c fe => exact execRepr_kept c fe s Kept.of_keeps Kept.of_allows
  | twait c fe => exact execTwait_kept c fe s Kept.of_keeps Kept.of_allows
  | tput c fe => exact execTput_kept c fe s Kept.of_keeps Kept.of_allows
  | tdone c fe => exact execTdone_kept c fe s Kept.of_keeps Kept.of_allows
  | dmas c fe => exact execDmas_kept c fe s Kept.of_keeps Kept.of_allows
  | movs c fe => exact execMovs_kept c fe s Kept.of_keeps Kept.of_allows
  | movts c fe => exact execMovts_kept c fe s Kept.of_keeps Kept.of_allows
  | rdtime c fe => exact execRdtime_kept c fe s Kept.of_keeps Kept.of_allows
  | add c fe => exact execAdd_kept c fe s Kept.of_keeps Kept.of_allows
  | adds c fe => exact execAdds_kept c fe s Kept.of_keeps Kept.of_allows
  | sub c fe => exact execSub_kept c fe s Kept.of_keeps Kept.of_allows
  | subs c fe => exact execSubs_kept c fe s Kept.of_keeps Kept.of_allows
  | and c fe => exact execAnd_kept c fe s Kept.of_keeps Kept.of_allows
  | or c fe => exact execOr_kept c fe s Kept.of_keeps Kept.of_allows
  | xor c fe => exact execXor_kept c fe s Kept.of_keeps Kept.of_allows
  | min c fe => exact execMin_kept c fe s Kept.of_keeps Kept.of_allows
  | max c fe => exact execMax_kept c fe s Kept.of_keeps Kept.of_allows
  | abs c fe => exact execAbs_kept c fe s Kept.of_keeps Kept.of_allows
  | neg c fe => exact execNeg_kept c fe s Kept.of_keeps Kept.of_allows
  | cmp c fe => exact execCmp_kept c fe s Kept.of_keeps Kept.of_allows
  | shl c fe => exact execShl_kept c fe s Kept.of_keeps Kept.of_allows
  | shr c fe => exact execShr_kept c fe s Kept.of_keeps Kept.of_allows
  | sar c fe => exact execSar_kept c fe s Kept.of_keeps Kept.of_allows
  | shli c fe => exact execShli_kept c fe s Kept.of_keeps Kept.of_allows
  | shri c fe => exact execShri_kept c fe s Kept.of_keeps Kept.of_allows
  | sari c fe => exact execSari_kept c fe s Kept.of_keeps Kept.of_allows
  | btst c fe => exact execBtst_kept c fe s Kept.of_keeps Kept.of_allows
  | clz c fe => exact execClz_kept c fe s Kept.of_keeps Kept.of_allows
  | movi c fe => exact execMovi_kept c fe s Kept.of_keeps Kept.of_allows
  | addi c fe => exact execAddi_kept c fe s Kept.of_keeps Kept.of_allows
  | andi c fe => exact execAndi_kept c fe s Kept.of_keeps Kept.of_allows
  | cmpi c fe => exact execCmpi_kept c fe s Kept.of_keeps Kept.of_allows
  | mov c fe => exact execMov_kept c fe s Kept.of_keeps Kept.of_allows
  | movda c fe => exact execMovda_kept c fe s Kept.of_keeps Kept.of_allows
  | movad c fe => exact execMovad_kept c fe s Kept.of_keeps Kept.of_allows
  | movmd c fe => exact execMovmd_kept c fe s Kept.of_keeps Kept.of_allows
  | adda c fe => exact execAdda_kept c fe s Kept.of_keeps Kept.of_allows
  | sel c fe => exact execSel_kept c fe s Kept.of_keeps Kept.of_allows
  | ld c fe err => exact execLd_kept c fe err s Kept.of_keeps Kept.of_allows
  | st c fe => exact execSt_kept c fe s Kept.of_keeps Kept.of_allows
  | ldo c fe err => exact execLdo_kept c fe err s Kept.of_keeps Kept.of_allows
  | sto c fe => exact execSto_kept c fe s Kept.of_keeps Kept.of_allows
  | ldxy c fe err => exact execLdxy_kept c fe err s Kept.of_keeps Kept.of_allows
  | ldst c fe err => exact execLdst_kept c fe err s Kept.of_keeps Kept.of_allows
  | mac c fe => exact execMac_kept c fe s Kept.of_keeps Kept.of_allows
  | macsu c fe => exact execMacsu_kept c fe s Kept.of_keeps Kept.of_allows
  | macuu c fe => exact execMacuu_kept c fe s Kept.of_keeps Kept.of_allows
  | msu c fe => exact execMsu_kept c fe s Kept.of_keeps Kept.of_allows
  | mul c fe => exact execMul_kept c fe s Kept.of_keeps Kept.of_allows
  | macl c fe err => exact execMacl_kept c fe err s Kept.of_keeps Kept.of_allows
  | msul c fe err => exact execMsul_kept c fe err s Kept.of_keeps Kept.of_allows
  | macs c fe => exact execMacs_kept c fe s Kept.of_keeps Kept.of_allows
  | accr c fe => exact execAccr_kept c fe s Kept.of_keeps Kept.of_allows
  | accx c fe => exact execAccx_kept c fe s Kept.of_keeps Kept.of_allows
  | accld c fe => exact execAccld_kept c fe s Kept.of_keeps Kept.of_allows
  | accclr c fe => exact execAccclr_kept c fe s Kept.of_keeps Kept.of_allows
  | accadd c fe => exact execAccadd_kept c fe s Kept.of_keeps Kept.of_allows
  | acs c fe => exact execAcs_kept c fe s Kept.of_keeps Kept.of_allows
  | decbit c fe => exact execDecbit_kept c fe s Kept.of_keeps Kept.of_allows
  | interruptEntry c => exact execInterruptEntry_kept c s Kept.of_keeps Kept.of_allows
  | timerMatch c => exact execTimerMatch_kept c s Kept.of_keeps Kept.of_allows
  | dmaLeaf c tagBad waits => exact execDmaLeaf_kept c tagBad waits s Kept.of_keeps Kept.of_allows
  | dmaRawLeaf c waits => exact execDmaRawLeaf_kept c waits s Kept.of_keeps Kept.of_allows
  | dmaSectionRead c data rsp waits => exact execDmaSectionRead_kept c data rsp waits s Kept.of_keeps Kept.of_allows
  | dmaSectionWrite c ue rsp waits => exact execDmaSectionWrite_kept c ue rsp waits s Kept.of_keeps Kept.of_allows
  | dmaCoreCopy c ue waits => exact execDmaCoreCopy_kept c ue waits s Kept.of_keeps Kept.of_allows
  | dmaTokenWrite c ue waits => exact execDmaTokenWrite_kept c ue waits s Kept.of_keeps Kept.of_allows
  | dmaComplete c => exact execDmaComplete_kept c s Kept.of_keeps Kept.of_allows
  | coreFailure c datapath => exact execCoreFailure_kept c datapath s Kept.of_keeps Kept.of_allows
  | coreNoProgressTimeout c => exact execCoreNoProgressTimeout_kept c s Kept.of_keeps Kept.of_allows
  | nocRead p => exact execNocRead_kept p s Kept.of_keeps Kept.of_allows
  | nocWrite p => exact execNocWrite_kept p s Kept.of_keeps Kept.of_allows
  | nocToken p source => exact execNocToken_kept p source s Kept.of_keeps Kept.of_allows
  | nocReadRsp p => exact execNocReadRsp_kept p s Kept.of_keeps Kept.of_allows
  | nocWriteAck p => exact execNocWriteAck_kept p s Kept.of_keeps Kept.of_allows
  | nocMgtRead p => exact execNocMgtRead_kept p s Kept.of_keeps Kept.of_allows
  | nocMgtWrite p => exact execNocMgtWrite_kept p s Kept.of_keeps Kept.of_allows
  | nocFlitReplay => exact execNocFlitReplay_kept s Kept.of_keeps Kept.of_allows
  | nocRingFailure ring cause segment => exact execNocRingFailure_kept ring cause segment s Kept.of_keeps Kept.of_allows
  | nocRerouteDone pair => exact execNocRerouteDone_kept pair s Kept.of_keeps Kept.of_allows
  | probeCfgWrite p which q v => exact execProbeCfgWrite_kept p which q v s Kept.of_keeps Kept.of_allows
  | sqTailDoorbell tenant ring v => exact execSqTailDoorbell_kept tenant ring v s Kept.of_keeps Kept.of_allows
  | cqHeadDoorbell tenant ring v => exact execCqHeadDoorbell_kept tenant ring v s Kept.of_keeps Kept.of_allows
  | setupRing0 tenant v => exact execSetupRing0_kept tenant v s Kept.of_keeps Kept.of_allows
  | descriptorAccept tenant ring header readFail =>
      exact execDescriptorAccept_kept tenant ring header readFail s Kept.of_keeps Kept.of_allows
  | hostReadFailure r => exact execHostReadFailure_kept r s Kept.of_keeps Kept.of_allows
  | msixCoalesceTimeout tenant cq => exact execMsixCoalesceTimeout_kept tenant cq s Kept.of_keeps Kept.of_allows
  | nopDescriptor d => exact execNopDescriptor_kept d s Kept.of_keeps Kept.of_allows
  | ringCreate d ring isCq log2 bound base n tau =>
      exact execRingCreate_kept d ring isCq log2 bound base n tau s Kept.of_keeps Kept.of_allows
  | ringDelete d ring isCq => exact execRingDelete_kept d ring isCq s Kept.of_keeps Kept.of_allows
  | grant d ty tenant first count => exact execGrant_kept d ty tenant first count s Kept.of_keeps Kept.of_all
  | revoke d ty tenant first count => exact execRevoke_kept d ty tenant first count s Kept.of_keeps Kept.of_all
  | tenantSet d tenant mask w0 w1 w2 w3 w4 =>
      exact execTenantSet_kept d tenant mask w0 w1 w2 w3 w4 s Kept.of_keeps Kept.of_allows
  | query d kind index buffer => exact execQuery_kept d kind index buffer s Kept.of_keeps Kept.of_allows
  | imageWrite d slot first last offset length cause rollback map =>
      exact execImageWrite_kept d slot first last offset length cause rollback map s Kept.of_keeps Kept.of_all
  | regWrite d entries => exact execRegWrite_kept d entries s Kept.of_keeps Kept.of_all
  | regRead d buffer offsets => exact execRegRead_kept d buffer offsets s Kept.of_keeps Kept.of_all
  | flrVf tenant => exact execFlrVf_kept tenant s Kept.of_keeps Kept.of_all
  | flrQuireRelease tenant => exact execFlrQuireRelease_kept tenant s Kept.of_keeps Kept.of_all
  | vfEnable n => exact execVfEnable_kept n s Kept.of_keeps Kept.of_allows
  | vfDisable n => exact execVfDisable_kept n s Kept.of_keeps Kept.of_all
  | flrPf0 => exact execFlrPf0_kept s Kept.of_keeps Kept.of_all
  | linkLossTimeout => exact execLinkLossTimeout_kept s Kept.of_keeps Kept.of_all
  | bryPortTrained port ringId size number bad encrypted far reach =>
      exact execBryPortTrained_kept port ringId size number bad encrypted far reach s Kept.of_keeps Kept.of_allows
  | bryNoPartnerRetry port => exact execBryNoPartnerRetry_kept port s Kept.of_keeps Kept.of_allows
  | bryPortDown port here far reach => exact execBryPortDown_kept port here far reach s Kept.of_keeps Kept.of_allows
  | flitIdle f => exact execFlitIdle_kept f s Kept.of_keeps Kept.of_allows
  | flitNoc f origin dest vc data source =>
      exact execFlitNoc_kept f origin dest vc data source s Kept.of_keeps Kept.of_allows
  | flitNak f from' => exact execFlitNak_kept f from' s Kept.of_keeps Kept.of_allows
  | flitTime f t1 t2 t3 t4 d => exact execFlitTime_kept f t1 t2 t3 t4 d s Kept.of_keeps Kept.of_allows
  | flitLine f origin number line e => exact execFlitLine_kept f origin number line e s Kept.of_keeps Kept.of_allows
  | flitBcast f origin number op value t =>
      exact execFlitBcast_kept f origin number op value t s Kept.of_keeps Kept.of_allows
  | flitTunnel f origin dest write addr length bytes =>
      exact execFlitTunnel_kept f origin dest write addr length bytes s Kept.of_keeps Kept.of_allows
  | flitTrain f => exact execFlitTrain_kept f s Kept.of_keeps Kept.of_allows
  | bryRetrainDone port => exact execBryRetrainDone_kept port s Kept.of_keeps Kept.of_allows
  | bryTimeExchange => exact execBryTimeExchange_kept s Kept.of_keeps Kept.of_allows
  | rmtAccess p v => exact execRmtAccess_kept p v s Kept.of_keeps Kept.of_allows
  | rmtAccessEnd result data => exact execRmtAccessEnd_kept result data s Kept.of_keeps Kept.of_allows
  | mgmtMismatch => exact execMgmtMismatch_kept s Kept.of_keeps Kept.of_allows
  | mgmtSelftestDone aPass bPass => exact execMgmtSelftestDone_kept aPass bPass s Kept.of_keeps Kept.of_allows
  | mgmtSingleFailure => exact execMgmtSingleFailure_kept s Kept.of_keeps Kept.of_allows
  | logWrite => exact execLogWrite_kept s Kept.of_keeps Kept.of_allows
  | logWindowClose code unit => exact execLogWindowClose_kept code unit s Kept.of_keeps Kept.of_allows
  | powerVote src kind index state overCap =>
      exact execPowerVote_kept src kind index state overCap s Kept.of_keeps Kept.of_allows
  | voteWithdrawal t n => exact execVoteWithdrawal_kept t n s Kept.of_keeps Kept.of_allows
  | domainFenceEnd n => exact execDomainFenceEnd_kept n s Kept.of_keeps Kept.of_allows
  | domainStateReached n => exact execDomainStateReached_kept n s Kept.of_keeps Kept.of_all
  | deferredLowering n => exact execDeferredLowering_kept n s Kept.of_keeps Kept.of_allows
  | clockGate n => exact execClockGate_kept n s Kept.of_keeps Kept.of_allows
  | idleEntry => exact execIdleEntry_kept s Kept.of_keeps Kept.of_allows
  | idleExit => exact execIdleExit_kept s Kept.of_keeps Kept.of_allows
  | sleepRequest src => exact execSleepRequest_kept src s Kept.of_keeps Kept.of_allows
  | deepSleepRequest src => exact execDeepSleepRequest_kept src s Kept.of_keeps Kept.of_allows
  | offRequest src => exact execOffRequest_kept src s Kept.of_keeps Kept.of_allows
  | entryCommitPoint phases => exact execEntryCommitPoint_kept phases s Kept.of_keeps Kept.of_allows
  | deviceStateReached => exact execDeviceStateReached_kept s Kept.of_keeps Kept.of_all
  | wakeNLow => exact execWakeNLow_kept s Kept.of_keeps Kept.of_all
  | gioWakeEdge pin rising => exact execGioWakeEdge_kept pin rising s Kept.of_keeps Kept.of_all
  | smbusAddressMatch addr => exact execSmbusAddressMatch_kept addr s Kept.of_keeps Kept.of_all
  | hostWake => exact execHostWake_kept s Kept.of_keeps Kept.of_all
  | timerWake => exact execTimerWake_kept s Kept.of_keeps Kept.of_all
  | exitComplete => exact execExitComplete_kept s Kept.of_keeps Kept.of_all
  | dbgPortId c reserved => exact execDbgPortId_kept c reserved s Kept.of_keeps Kept.of_all
  | dbgPortStat c => exact execDbgPortStat_kept c s Kept.of_keeps Kept.of_all
  | dbgSpaceWrite c => exact execDbgSpaceWrite_kept c s Kept.of_keeps Kept.of_all
  | dbgAddrWrite c => exact execDbgAddrWrite_kept c s Kept.of_keeps Kept.of_all
  | dbgData c => exact execDbgData_kept c s Kept.of_keeps Kept.of_all
  | dbgDataInc c => exact execDbgDataInc_kept c s Kept.of_keeps Kept.of_all
  | dbgAccessDone monitor => exact execDbgAccessDone_kept monitor s Kept.of_keeps Kept.of_all
  | dbgResync => exact execDbgResync_kept s Kept.of_keeps
  | monitorRequest reg write tag pending data =>
      exact execMonitorRequest_kept reg write tag pending data s Kept.of_keeps Kept.of_all
  | authOpen monitor v => exact execAuthOpen_kept monitor v s Kept.of_keeps Kept.of_allows
  | authRespond monitor v => exact execAuthRespond_kept monitor v s Kept.of_keeps Kept.of_allows
  | authClose monitor v => exact execAuthClose_kept monitor v s Kept.of_keeps Kept.of_allows
  | sessionTimeout => exact execSessionTimeout_kept s Kept.of_keeps Kept.of_allows
  | authLockoutEnd monitor => exact execAuthLockoutEnd_kept monitor s Kept.of_keeps Kept.of_allows
  | haltStop v => exact execHaltStop_kept v s Kept.of_keeps Kept.of_allows
  | haltResume v => exact execHaltResume_kept v s Kept.of_keeps Kept.of_allows
  | haltJoin v => exact execHaltJoin_kept v s Kept.of_keeps Kept.of_allows
  | haltLeave v => exact execHaltLeave_kept v s Kept.of_keeps Kept.of_allows
  | haltEvent group => exact execHaltEvent_kept group s Kept.of_keeps Kept.of_allows
  | dbgBrk n => exact execDbgBrk_kept n s Kept.of_keeps Kept.of_allows
  | haltTakesEffect kind index => exact execHaltTakesEffect_kept kind index s Kept.of_keeps Kept.of_allows
  | powerHoldWrite n v => exact execPowerHoldWrite_kept n v s Kept.of_keeps Kept.of_allows
  | foliationSchedule p ring => exact execFoliationSchedule_kept p ring s Kept.of_keeps Kept.of_allows
  | foliationCancel p => exact execFoliationCancel_kept p s Kept.of_keeps Kept.of_allows
  | foliationCopy => exact execFoliationCopy_kept s Kept.of_keeps Kept.of_allows
  | foliationWritten => exact execFoliationWritten_kept s Kept.of_keeps Kept.of_allows
  | shadowRead p => exact execShadowRead_kept p s Kept.of_keeps Kept.of_allows
  | latchingRead p page off be => exact execLatchingRead_kept p page off be s Kept.of_keeps Kept.of_all
  | rcRead p page off be => exact execRcRead_kept p page off be s Kept.of_keeps Kept.of_all
  | bankCfgWrite p bank v => exact execBankCfgWrite_kept p bank v s Kept.of_keeps Kept.of_allows
  | bankChangeDone bank => exact execBankChangeDone_kept bank s Kept.of_keeps Kept.of_allows
  | pinCfgWrite p pin v => exact execPinCfgWrite_kept p pin v s Kept.of_keeps Kept.of_allows
  | contentionDetect pin => exact execContentionDetect_kept pin s Kept.of_keeps Kept.of_allows
  | loadTestStart p v => exact execLoadTestStart_kept p v s Kept.of_keeps Kept.of_allows
  | loadTestDone src snk => exact execLoadTestDone_kept src snk s Kept.of_keeps Kept.of_allows
  | adcConversion codes => exact execAdcConversion_kept codes s Kept.of_keeps Kept.of_allows
  | smbReadIdentity => exact execSmbReadIdentity_kept s Kept.of_keeps Kept.of_allows
  | smbReadState => exact execSmbReadState_kept s Kept.of_keeps Kept.of_allows
  | smbReadTempMax => exact execSmbReadTempMax_kept s Kept.of_keeps Kept.of_allows
  | smbSelectSensor n pecOk => exact execSmbSelectSensor_kept n pecOk s Kept.of_keeps Kept.of_allows
  | smbReadSensor => exact execSmbReadSensor_kept s Kept.of_keeps Kept.of_allows
  | smbSetOffset off pecOk => exact execSmbSetOffset_kept off pecOk s Kept.of_keeps Kept.of_allows
  | smbReadRegister => exact execSmbReadRegister_kept s Kept.of_keeps Kept.of_all
  | smbUnlistedCommand cmd => exact execSmbUnlistedCommand_kept cmd s Kept.of_keeps Kept.of_allows
  | smbBusTimeout => exact execSmbBusTimeout_kept s Kept.of_keeps Kept.of_allows
  | registerWrite p page off v be => exact execRegisterWrite_kept p page off v be s Kept.of_keeps Kept.of_all
  | bar0BadRequest off => exact execBar0BadRequest_kept off s Kept.of_keeps Kept.of_all
  | hostLinkLoss => exact execHostLinkLoss_kept s Kept.of_keeps Kept.of_allows
  | hostLinkUp rate width flit => exact execHostLinkUp_kept rate width flit s Kept.of_keeps Kept.of_allows
  | busMasterEnableChange tenant on => exact execBusMasterEnableChange_kept tenant on s Kept.of_keeps Kept.of_allows
  | smbClkStretchTimeout => exact execSmbClkStretchTimeout_kept s Kept.of_keeps Kept.of_allows
  | fabricClockEdge sec clock falling cells slices =>
      exact execFabricClockEdge_kept sec clock falling cells slices s Kept.of_keeps Kept.of_allows
  | blockMemoryWrite w => exact execBlockMemoryWrite_kept w s Kept.of_keeps Kept.of_allows

/-! ## Steps -/

theorem step_of_pending_cons {c : Instr} {rest : List Instr} {s : State} (h : s.pending = c :: rest) :
    step s = exec c { s with pending := rest } := by
  simp only [step, h]

theorem step_of_pending_nil {s : State} (h : s.pending = []) : step s = .next s.tick := by
  simp only [step, h]

theorem State.tick_of_start {s : State} (h : s.get F.CLK_STATUS_root_state = Root.START) : s.tick = s := if_pos h

theorem State.tick_of_ne_start {s : State} (h : s.get F.CLK_STATUS_root_state ≠ Root.START) :
    s.tick = { s with clk := { s.clk with timebase := s.clk.timebase + 8 } } := if_neg h

/-- A root cycle moves the timebase by a whole number of its steps of 8 (R69). -/
theorem State.kept_tick {s : State} (hs : s.kept = true) : s.tick.kept = true := by
  by_cases h : s.get F.CLK_STATUS_root_state = Root.START
  case pos => rwa [State.tick_of_start h]
  case neg =>
    rw [State.tick_of_ne_start h]
    simp only [State.kept, State.regsWf, State.timeAligned, Bool.and_eq_true, beq_iff_eq, BitVec.toNat_add] at hs ⊢
    obtain ⟨hregs, htime⟩ := hs
    have h8 : (8 : BitVec 64).toNat = 8 := rfl
    exact ⟨hregs, by omega⟩

/-- Settles O4: a command keeps the form of the store and of the timebase by the laws of its meaning, and a root cycle
by `State.kept_tick`. -/
theorem everyStepKeepsTheState : Obligations.EveryStepKeepsTheState := by
  intro s t hs hstep
  cases hq : s.pending with
  | nil =>
    rw [step_of_pending_nil hq] at hstep
    cases hstep
    exact State.kept_tick hs
  | cons c rest =>
    rw [step_of_pending_cons hq] at hstep
    exact Kept.of_kept ((exec_keeps c _).out t hstep) hs

/-- Settles O5: the laws of the meanings keep the queue. -/
theorem noCommandTouchesTheQueue : Obligations.NoCommandTouchesTheQueue :=
  fun c s t h => Kept.of_queue ((exec_keeps c s).out t h)

/-- Settles O6: what the laws keep outside the parts of a command is its frame. -/
theorem commandsChangeOnlyTheirParts : Obligations.CommandsChangeOnlyTheirParts :=
  fun c s t h => Kept.of_sameBut ((exec_keeps c s).out t h)

/-- Settles O1. -/
theorem stepRunsTheFrontCommand : Obligations.StepRunsTheFrontCommand :=
  fun _ _ _ h => step_of_pending_cons h

/-- Settles O2: a root cycle, by whether the root has locked. -/
theorem idleStepIsARootCycle : Obligations.IdleStepIsARootCycle := by
  intro s hq
  rw [step_of_pending_nil hq]
  exact ⟨fun h => by rw [State.tick_of_start h], fun h => by rw [State.tick_of_ne_start h]⟩

/-! ## The state after reset -/

/-- The store holds the difference from the reset word, and at reset it is empty. -/
theorem State.word_reset (r : RegDef) (i j k : Nat) : State.reset.word r i j k = r.reset i j k :=
  BitVec.zero_xor

/-- Settles O3: every register reads its reset word, and the named words are those of the field tables. -/
theorem resetLeavesTheSpecifiedValues : Obligations.ResetLeavesTheSpecifiedValues := by
  refine ⟨State.word_reset, State.word_reset _ _ _ _, fun l _ => ?_, fun n _ => ?_, fun n => ?_, rfl, rfl, rfl⟩
  · exact State.word_reset _ _ _ _
  · simp only [State.get, State.word_reset]
    rfl
  · simp only [State.get, State.word_reset, F.CLK_GLOBAL_DIV_divisor, Reg.CLK_GLOBAL_DIV]
    split <;> rfl

end Sys2Proof.Machine
end

section
/-! PROOFS. Every well-formed command answers a next state: the one fault, noSuchUnit, is behind the checks of an operand
that `Instr.wf` makes too (R703). One lemma for each meaning that branches. -/
set_option Elab.async false  -- one proof at a time: the package as one text then needs less memory
namespace Sys2Proof.Machine

theorem Completes.next (t : State) : Completes (.next t) := ⟨t, rfl⟩

theorem Completes.ite {p : Prop} [Decidable p] {a b : Host.Outcome State Fault Refusal} (ha : Completes a)
    (hb : Completes b) : Completes (if p then a else b) := by split <;> assumption

/-- The sewing frame's meanings end in the trace of what they did. -/
theorem swfNext_completes (s : State) : Completes (swfNext s) := Completes.next s.flushTrace

/-! ## Meanings that answer a next state on every branch -/

theorem execStartConditionMet_completes (s : State) : Completes (execStartConditionMet s) := by
  unfold execStartConditionMet
  with_reducible repeat' first | extract_lets | exact Completes.next _ | apply Completes.ite

theorem execColophonCommitDone_completes (s : State) : Completes (execColophonCommitDone s) := by
  unfold execColophonCommitDone
  with_reducible repeat' first | extract_lets | exact Completes.next _ | apply Completes.ite | split

theorem execGpfDone_completes (phases : BitVec 6) (s : State) : Completes (execGpfDone phases s) := by
  unfold execGpfDone
  with_reducible repeat' first | extract_lets | exact Completes.next _ | apply Completes.ite

theorem execPowerLossSequenceEnd_completes (s : State) : Completes (execPowerLossSequenceEnd s) := by
  unfold execPowerLossSequenceEnd
  with_reducible repeat' first | extract_lets | exact Completes.next _ | apply Completes.ite

theorem execVauxLoss_completes (s : State) : Completes (execVauxLoss s) := by
  unfold execVauxLoss
  with_reducible repeat' first | extract_lets | exact Completes.next _ | apply Completes.ite

theorem execRailPhaseFailure_completes (rail : BitVec 5) (load : BitVec 7) (s : State) :
    Completes (execRailPhaseFailure rail load s) := by
  unfold execRailPhaseFailure
  with_reducible repeat' first | extract_lets | exact Completes.next _ | apply Completes.ite

theorem execTempSample_completes (l : List (BitVec 16 × BitVec 16)) (s : State) : Completes (execTempSample l s) := by
  unfold execTempSample
  with_reducible repeat' first | extract_lets | exact Completes.next _ | apply Completes.ite

theorem execQualGateEnd_completes (n : BitVec 2) (edges : Bool) (offset : BitVec 16) (s : State) :
    Completes (execQualGateEnd n edges offset s) := by
  unfold execQualGateEnd
  with_reducible repeat' first | extract_lets | exact Completes.next _ | apply Completes.ite

theorem execCandidateEdgeTimeout_completes (n : BitVec 2) (s : State) : Completes (execCandidateEdgeTimeout n s) := by
  unfold execCandidateEdgeTimeout
  with_reducible repeat' first | extract_lets | exact Completes.next _ | apply Completes.ite

theorem execFallbackChosen_completes (s : State) : Completes (execFallbackChosen s) := by
  unfold execFallbackChosen
  with_reducible repeat' first | extract_lets | exact Completes.next _ | apply Completes.ite | split

theorem execRootLockReached_completes (s : State) : Completes (execRootLockReached s) := by
  unfold execRootLockReached
  with_reducible repeat' first | extract_lets | exact Completes.next _ | apply Completes.ite

theorem execAutoRevert_completes (s : State) : Completes (execAutoRevert s) := by
  unfold execAutoRevert
  with_reducible repeat' first | extract_lets | exact Completes.next _ | apply Completes.ite

theorem execTimeCmdApply_completes (s : State) : Completes (execTimeCmdApply s) := by
  unfold execTimeCmdApply
  with_reducible repeat' first | extract_lets | exact Completes.next _ | apply Completes.ite | split

theorem execStepTimeout_completes (step : BitVec 5) (s : State) : Completes (execStepTimeout step s) := by
  unfold execStepTimeout
  with_reducible repeat' first | extract_lets | exact Completes.next _ | apply Completes.ite

theorem execMgmtWatchdogExpiry_completes (s : State) : Completes (execMgmtWatchdogExpiry s) := by
  unfold execMgmtWatchdogExpiry
  with_reducible repeat' first | exact Completes.next _ | apply Completes.ite

theorem execStartStepDone_completes (step : BitVec 5) (r : StepResult) (s : State) :
    Completes (execStartStepDone step r s) := by
  unfold execStartStepDone
  with_reducible repeat' first | exact Completes.next _ | apply Completes.ite | split

theorem execPerstNAssert_completes (s : State) : Completes (execPerstNAssert s) := by
  unfold execPerstNAssert
  with_reducible repeat' first | extract_lets | exact Completes.next _ | apply Completes.ite

theorem execPerstNRelease_completes (s : State) : Completes (execPerstNRelease s) := by
  unfold execPerstNRelease
  with_reducible repeat' first | extract_lets | exact Completes.next _ | apply Completes.ite

theorem execLinkTimeout_completes (s : State) : Completes (execLinkTimeout s) := by
  unfold execLinkTimeout
  with_reducible repeat' first | extract_lets | exact Completes.next _ | apply Completes.ite

theorem execLinkTrainRetry_completes (up : Bool) (rate : BitVec 4) (width : BitVec 7) (flit : Bool) (s : State) :
    Completes (execLinkTrainRetry up rate width flit s) := by
  unfold execLinkTrainRetry
  with_reducible repeat' first | exact Completes.next _ | apply Completes.ite

theorem execFabricMemRead_completes (sec : BitVec 8) (mem : BitVec 7) (portB : Bool) (addr : BitVec 15) (strike :
    BitVec 47) (s : State) :
    Completes (execFabricMemRead sec mem portB addr strike s) := by
  unfold execFabricMemRead
  with_reducible repeat' first | extract_lets | exact Completes.next _ | apply Completes.ite | split

theorem execMemScrubVisit_completes (sec : BitVec 8) (strikes : List (BitVec 7 × BitVec 47)) (dropped : List (BitVec
    7)) (s : State) :
    Completes (execMemScrubVisit sec strikes dropped s) := by
  unfold execMemScrubVisit
  with_reducible repeat' first | extract_lets | exact Completes.next _ | apply Completes.ite

theorem execSectionClearDone_completes (sec : BitVec 8) (s : State) : Completes (execSectionClearDone sec s) := by
  unfold execSectionClearDone
  with_reducible repeat' first | extract_lets | exact Completes.next _ | apply Completes.ite

theorem execFabricLoadEngineStart_completes (s : State) : Completes (execFabricLoadEngineStart s) := by
  unfold execFabricLoadEngineStart
  with_reducible repeat' first | exact Completes.next _ | split

theorem execFabricLoadDone_completes (cause : BitVec 8) (image : List SectImage) (s : State) :
    Completes (execFabricLoadDone cause image s) := by
  unfold execFabricLoadDone
  with_reducible repeat' first | extract_lets | exact Completes.next _ | apply Completes.ite | split

theorem execFabricReleaseDone_completes (sec : BitVec 8) (s : State) : Completes (execFabricReleaseDone sec s) := by
  unfold execFabricReleaseDone
  with_reducible repeat' first | extract_lets | exact Completes.next _ | apply Completes.ite

theorem execRclkSelChange_completes (sec : BitVec 8) (k : BitVec 4) (level : Bool) (s : State) :
    Completes (execRclkSelChange sec k level s) := by
  unfold execRclkSelChange
  with_reducible repeat' first | extract_lets | exact Completes.next _ | apply Completes.ite

theorem execRclkChangeDone_completes (sec : BitVec 8) (k : BitVec 4) (s : State) :
    Completes (execRclkChangeDone sec k s) := by
  unfold execRclkChangeDone
  with_reducible repeat' first | extract_lets | exact Completes.next _ | apply Completes.ite

theorem execOctetRetuneDone_completes (o : BitVec 6) (s : State) : Completes (execOctetRetuneDone o s) := by
  unfold execOctetRetuneDone
  with_reducible repeat' first | extract_lets | exact Completes.next _ | apply Completes.ite

theorem execOctetPllFailure_completes (o : BitVec 6) (s : State) : Completes (execOctetPllFailure o s) := by
  unfold execOctetPllFailure
  with_reducible repeat' first | extract_lets | exact Completes.next _ | apply Completes.ite

theorem execOctetSwitchComplete_completes (o : BitVec 6) (s : State) : Completes (execOctetSwitchComplete o s) := by
  unfold execOctetSwitchComplete
  with_reducible repeat' first | extract_lets | exact Completes.next _ | apply Completes.ite

theorem execSparePllFailure_completes (o : BitVec 6) (s : State) : Completes (execSparePllFailure o s) := by
  unfold execSparePllFailure
  with_reducible repeat' first | extract_lets | exact Completes.next _ | apply Completes.ite

theorem execSignalDetected_completes (lane : BitVec 9) (s : State) : Completes (execSignalDetected lane s) := by
  unfold execSignalDetected
  with_reducible repeat' first | extract_lets | exact Completes.next _ | apply Completes.ite

theorem execCdrLockAcquired_completes (lane : BitVec 9) (s : State) : Completes (execCdrLockAcquired lane s) := by
  unfold execCdrLockAcquired
  with_reducible repeat' first | extract_lets | exact Completes.next _ | apply Completes.ite

theorem execCodingLockGained_completes (lane : BitVec 9) (history : BitVec 58) (s : State) :
    Completes (execCodingLockGained lane history s) := by
  unfold execCodingLockGained
  with_reducible repeat' first | extract_lets | exact Completes.next _ | apply Completes.ite

theorem execCodingLockLost_completes (lane : BitVec 9) (s : State) : Completes (execCodingLockLost lane s) := by
  unfold execCodingLockLost
  with_reducible repeat' first | extract_lets | exact Completes.next _ | apply Completes.ite

theorem execCdrLockLost_completes (lane : BitVec 9) (s : State) : Completes (execCdrLockLost lane s) := by
  unfold execCdrLockLost
  with_reducible repeat' first | extract_lets | exact Completes.next _ | apply Completes.ite

theorem execSignalLoss_completes (lane : BitVec 9) (s : State) : Completes (execSignalLoss lane s) := by
  unfold execSignalLoss
  with_reducible repeat' first | extract_lets | exact Completes.next _ | apply Completes.ite

theorem execDigTrigger_completes (lane : BitVec 9) (tap : Bool) (t ref : BitVec 64) (sample : BitVec 14) (s : State) :
    Completes (execDigTrigger lane tap t ref sample s) := by
  unfold execDigTrigger
  with_reducible repeat' first | extract_lets | exact Completes.next _ | apply Completes.ite | split

theorem execDigAcquisitionEnd_completes (lane : BitVec 9) (tap : Bool) (s : State) :
    Completes (execDigAcquisitionEnd lane tap s) := by
  unfold execDigAcquisitionEnd
  with_reducible repeat' first | extract_lets | exact Completes.next _ | apply Completes.ite | split

theorem execProbeEnd_completes (lane : BitVec 9) (timedOut : Bool) (received : BitVec 8) (data : List Word) (legN
    legP : Fin 3) (s : State) :
    Completes (execProbeEnd lane timedOut received data legN legP s) := by
  unfold execProbeEnd
  with_reducible repeat' first | extract_lets | exact Completes.next _ | apply Completes.ite | split

theorem execIntakeUnit_completes (lane : BitVec 9) (u : BitVec 257) (t : BitVec 64) (bad k : Bool) (staged : BitVec
    23) (most : BitVec 10) (s : State) :
    Completes (execIntakeUnit lane u t bad k staged most s) := by
  unfold execIntakeUnit
  with_reducible repeat' first | extract_lets | exact Completes.next _ | apply Completes.ite

theorem execRunPieceTimeout_completes (n : BitVec 10) (m : BitVec 4) (s : State) :
    Completes (execRunPieceTimeout n m s) := by
  unfold execRunPieceTimeout
  with_reducible repeat' first | extract_lets | exact Completes.next _ | apply Completes.ite | split

theorem execGapPieceTimeout_completes (n : BitVec 10) (m : BitVec 4) (t : BitVec 64) (s : State) :
    Completes (execGapPieceTimeout n m t s) := by
  unfold execGapPieceTimeout
  with_reducible repeat' first | extract_lets | exact Completes.next _ | apply Completes.ite | split

theorem execFecCodewordDone_completes (n : BitVec 10) (m : BitVec 4) (t : BitVec 64) (corr : BitVec 4) (uncorr b :
    Bool) (entries : BitVec 300) (ago : BitVec 16) (s : State) :
    Completes (execFecCodewordDone n m t corr uncorr b entries ago s) := by
  unfold execFecCodewordDone
  with_reducible repeat' first | extract_lets | exact Completes.next _ | apply Completes.ite

theorem execDeskewRound_completes (sect b : BitVec 4) (t : BitVec 64) (offs : List (Option Nat)) (s : State) :
    Completes (execDeskewRound sect b t offs s) := by
  unfold execDeskewRound
  with_reducible repeat' first | extract_lets | exact Completes.next _ | apply Completes.ite

theorem execSliceFailoverDone_completes (sect : BitVec 4) (s : State) : Completes (execSliceFailoverDone sect s) := by
  unfold execSliceFailoverDone
  with_reducible repeat' first | extract_lets | exact Completes.next _ | split

theorem execSlotEvaluation_completes (sect : BitVec 4) (slot : BitVec 64) (s : State) :
    Completes (execSlotEvaluation sect slot s) := by
  unfold execSlotEvaluation
  with_reducible repeat' first | extract_lets | exact Completes.next _ | apply Completes.ite

theorem execTriggerTokenPost_completes (s : State) : Completes (execTriggerTokenPost s) := by
  unfold execTriggerTokenPost
  with_reducible repeat' first | exact Completes.next _ | split

theorem execLineEvent_completes (line : BitVec 5) (s : State) : Completes (execLineEvent line s) := by
  unfold execLineEvent
  with_reducible repeat' first | extract_lets | exact Completes.next _ | split

theorem execTapBeat_completes (sect : BitVec 4) (tap : BitVec 2) (data : BitVec 128) (nbits : BitVec 8) (t : BitVec
    64) (gap : Bool) (s : State) :
    Completes (execTapBeat sect tap data nbits t gap s) := by
  unfold execTapBeat
  with_reducible repeat' first | extract_lets | exact Completes.next _ | apply Completes.ite

theorem execInjEvent_completes (sect : BitVec 4) (n : BitVec 3) (t : BitVec 64) (s : State) :
    Completes (execInjEvent sect n t s) := by
  unfold execInjEvent
  with_reducible repeat' first | extract_lets | exact Completes.next _ | apply Completes.ite

theorem execRibbonAtTime_completes (s : State) : Completes (execRibbonAtTime s) := by
  unfold execRibbonAtTime
  with_reducible repeat' first | extract_lets | exact Completes.next _ | split

theorem execGraphRibbonToken_completes (n : BitVec 10) (s : State) : Completes (execGraphRibbonToken n s) := by
  unfold execGraphRibbonToken
  with_reducible repeat' first | extract_lets | exact Completes.next _ | apply Completes.ite | split

theorem execLeafFlushTimeout_completes (n : BitVec 10) (s : State) : Completes (execLeafFlushTimeout n s) := by
  unfold execLeafFlushTimeout
  with_reducible repeat' first | extract_lets | exact Completes.next _ | apply Completes.ite | split

theorem execQuireAllocated_completes (s : State) : Completes (execQuireAllocated s) := by
  unfold execQuireAllocated
  with_reducible repeat' first | extract_lets | exact Completes.next _ | apply Completes.ite | split

theorem execSealSlotWrite_completes (q : BitVec 19) (s : State) : Completes (execSealSlotWrite q s) := by
  unfold execSealSlotWrite
  with_reducible repeat' first | extract_lets | exact Completes.next _ | apply Completes.ite

theorem execDrainTake_completes (balanced : BitVec 3) (s : State) : Completes (execDrainTake balanced s) := by
  unfold execDrainTake
  with_reducible repeat' first | extract_lets | exact Completes.next _ | apply Completes.ite | split

theorem execDrainCopyDone_completes (q : BitVec 19) (s : State) : Completes (execDrainCopyDone q s) := by
  unfold execDrainCopyDone
  with_reducible repeat' first | extract_lets | exact Completes.next _ | apply Completes.ite | split

theorem execCollateRecord_completes (n : BitVec 5) (badLeaves : List (BitVec 64)) (badQuires : List Word) (s :
    State) :
    Completes (execCollateRecord n badLeaves badQuires s) := by
  unfold execCollateRecord
  with_reducible repeat' first | extract_lets | exact Completes.next _ | apply Completes.ite | split

theorem execHostTailPoll_completes (n : BitVec 5) (tail : BitVec 64) (fail : Bool) (s : State) :
    Completes (execHostTailPoll n tail fail s) := by
  unfold execHostTailPoll
  with_reducible repeat' first | extract_lets | exact Completes.next _ | apply Completes.ite | split

theorem execPressLoad_completes (d : Desc) (lane : BitVec 16) (entry : BitVec 16) (program : List (BitVec 64))
    (stream : BitVec 16) (pressDq notifyDq : BitVec 32) (s : State) :
    Completes (execPressLoad d lane entry program stream pressDq notifyDq s) := by
  unfold execPressLoad
  with_reducible repeat' first | extract_lets | exact Completes.next _ | apply Completes.ite

theorem execPressStartTime_completes (lane : BitVec 9) (s : State) : Completes (execPressStartTime lane s) := by
  unfold execPressStartTime
  with_reducible repeat' first | extract_lets | exact Completes.next _ | apply Completes.ite

theorem execPressEvqArrival_completes (lane : BitVec 9) (graph : Bool) (s : State) :
    Completes (execPressEvqArrival lane graph s) := by
  unfold execPressEvqArrival
  with_reducible repeat' first | extract_lets | exact Completes.next _ | apply Completes.ite | split

theorem execPressUnitSend_completes (lane : BitVec 9) (t : BitVec 64) (k : Bool) (s : State) :
    Completes (execPressUnitSend lane t k s) := by
  unfold execPressUnitSend
  with_reducible repeat' first | extract_lets | exact Completes.next _ | apply Completes.ite | split

theorem execPrefetchReadDone_completes (lane : BitVec 9) (leaf : BitVec 33) (authentic : Bool) (frame : Option
    (BitVec 16)) (s : State) :
    Completes (execPrefetchReadDone lane leaf authentic frame s) := by
  unfold execPrefetchReadDone
  with_reducible repeat' first | extract_lets | exact Completes.next _ | apply Completes.ite | split

theorem execWaitEventTaken_completes (lane : BitVec 9) (s : State) : Completes (execWaitEventTaken lane s) := by
  unfold execWaitEventTaken
  with_reducible repeat' first | extract_lets | exact Completes.next _ | apply Completes.ite | split

theorem execWaitEventTimeout_completes (lane : BitVec 9) (s : State) : Completes (execWaitEventTimeout lane s) := by
  unfold execWaitEventTimeout
  with_reducible repeat' first | extract_lets | exact Completes.next _ | apply Completes.ite | split

theorem execRelayUnitIn_completes (lane : BitVec 9) (u : BitVec 257) (s : State) :
    Completes (execRelayUnitIn lane u s) := by
  unfold execRelayUnitIn
  with_reducible repeat' first | extract_lets | exact Completes.next _ | apply Completes.ite | split

theorem execFrameStartTime_completes (f : BitVec 16) (s : State) : Completes (execFrameStartTime f s) := by
  unfold execFrameStartTime
  with_reducible repeat' first | extract_lets | exact Completes.next _ | apply Completes.ite

theorem execShaperSlot_completes (sect : BitVec 4) (s : State) : Completes (execShaperSlot sect s) := by
  unfold execShaperSlot
  with_reducible repeat' first | extract_lets | exact Completes.next _ | split

theorem execMulticastTimeout_completes (f : BitVec 16) (s : State) : Completes (execMulticastTimeout f s) := by
  unfold execMulticastTimeout
  with_reducible repeat' first | extract_lets | exact Completes.next _ | apply Completes.ite | split

theorem execFrameBoundary_completes (lane : BitVec 9) (t : BitVec 64) (s : State) :
    Completes (execFrameBoundary lane t s) := by
  unfold execFrameBoundary
  with_reducible repeat' first | extract_lets | exact Completes.next _ | apply Completes.ite | split

theorem execFrameDqToken_completes (f : BitVec 16) (s : State) : Completes (execFrameDqToken f s) := by
  unfold execFrameDqToken
  with_reducible repeat' first | extract_lets | exact Completes.next _ | apply Completes.ite | split

theorem execHbmReadError_completes (q : BitVec 19) (leaf : BitVec 14) (still noSpare : Bool) (second : BitVec 4) (s
    : State) :
    Completes (execHbmReadError q leaf still noSpare second s) := by
  unfold execHbmReadError
  with_reducible repeat' first | extract_lets | exact Completes.next _ | apply Completes.ite

theorem execParityScrubRow_completes (q : BitVec 19) (leaf : BitVec 14) (differs : Bool) (settle : BitVec 2) (late :
    Bool) (corrected : BitVec 12) (s : State) :
    Completes (execParityScrubRow q leaf differs settle late corrected s) := by
  unfold execParityScrubRow
  with_reducible repeat' first | extract_lets | exact Completes.next _ | apply Completes.ite

theorem execDdrUeBurst_completes (q : BitVec 19) (leaf : BitVec 14) (second : Bool) (leaves : Word) (s : State) :
    Completes (execDdrUeBurst q leaf second leaves s) := by
  unfold execDdrUeBurst
  with_reducible repeat' first | extract_lets | exact Completes.next _ | apply Completes.ite

theorem execDdrMigrateDone_completes (c : BitVec 4) (s : State) : Completes (execDdrMigrateDone c s) := by
  unfold execDdrMigrateDone
  with_reducible repeat' first | extract_lets | exact Completes.next _ | apply Completes.ite

theorem execDdrRehomeDone_completes (second : Bool) (s : State) : Completes (execDdrRehomeDone second s) := by
  unfold execDdrRehomeDone
  with_reducible repeat' first | extract_lets | exact Completes.next _ | apply Completes.ite

theorem execCxlReadFailover_completes (q : BitVec 19) (leaf : BitVec 14) (late : Bool) (s : State) :
    Completes (execCxlReadFailover q leaf late s) := by
  unfold execCxlReadFailover
  with_reducible repeat' first | extract_lets | exact Completes.next _ | apply Completes.ite | split

theorem execCxlResilverDone_completes (port : BitVec 2) (s : State) : Completes (execCxlResilverDone port s) := by
  unfold execCxlResilverDone
  with_reducible repeat' first | extract_lets | exact Completes.next _ | apply Completes.ite

theorem execRekeyEngineTake_completes (s : State) : Completes (execRekeyEngineTake s) := by
  unfold execRekeyEngineTake
  with_reducible repeat' first | extract_lets | exact Completes.next _ | apply Completes.ite | split

theorem execRekeyAdvance_completes (s : State) : Completes (execRekeyAdvance s) := by
  unfold execRekeyAdvance
  with_reducible repeat' first | extract_lets | exact Completes.next _ | apply Completes.ite | split

theorem execLinkSessionRollover_completes (port : BitVec 2) (s : State) :
    Completes (execLinkSessionRollover port s) := by
  unfold execLinkSessionRollover
  with_reducible repeat' first | extract_lets | exact Completes.next _ | apply Completes.ite

theorem execQueueFetchDone_completes (q : BitVec 20) (s : State) : Completes (execQueueFetchDone q s) := by
  unfold execQueueFetchDone
  with_reducible repeat' first | extract_lets | exact Completes.next _ | exact swfNext_completes _ | apply Completes.ite

theorem execDecision_completes (engine : BitVec 2) (t : BitVec 8) (s : State) :
    Completes (execDecision engine t s) := by
  unfold execDecision
  with_reducible repeat' first | extract_lets | exact Completes.next _ | exact swfNext_completes _ | apply Completes.ite | split

theorem execTaskGrant_completes (pool : BitVec 12) (s : State) : Completes (execTaskGrant pool s) := by
  unfold execTaskGrant
  with_reducible repeat' first | extract_lets | exact Completes.next _ | exact swfNext_completes _ | apply Completes.ite | split

theorem execTaskCommit_completes (slot : BitVec 16) (s : State) : Completes (execTaskCommit slot s) := by
  unfold execTaskCommit
  with_reducible repeat' first | extract_lets | exact Completes.next _ | exact swfNext_completes _ | apply Completes.ite

theorem execTaskFetchTimeout_completes (tenant : BitVec 8) (ring : BitVec 6) (entry : BitVec 16) (s : State) :
    Completes (execTaskFetchTimeout tenant ring entry s) := by
  unfold execTaskFetchTimeout
  with_reducible repeat' first | extract_lets | exact Completes.next _ | split

theorem execTaskDone_completes (d : Desc) (handle : Word) (status : BitVec 8) (counts : Word) (tokens : List (BitVec
    512)) (s : State) :
    Completes (execTaskDone d handle status counts tokens s) := by
  unfold execTaskDone
  with_reducible repeat' first | extract_lets | exact Completes.next _ | exact swfNext_completes _ | apply Completes.ite

theorem execHostTaskTimeout_completes (slot : BitVec 16) (s : State) : Completes (execHostTaskTimeout slot s) := by
  unfold execHostTaskTimeout
  with_reducible repeat' first | extract_lets | exact Completes.next _ | exact swfNext_completes _ | apply Completes.ite

theorem execDispatchRequest_completes (sec : BitVec 8) (port : BitVec 2) (cls : BitVec 4) (s : State) :
    Completes (execDispatchRequest sec port cls s) := by
  unfold execDispatchRequest
  with_reducible repeat' first | extract_lets | exact Completes.next _ | apply Completes.ite

theorem execDispatchOutput_completes (sec : BitVec 8) (port index : BitVec 2) (token : BitVec 512) (s : State) :
    Completes (execDispatchOutput sec port index token s) := by
  unfold execDispatchOutput
  with_reducible repeat' first | exact Completes.next _ | exact swfNext_completes _ | split

theorem execDispatchDone_completes (sec : BitVec 8) (port status : BitVec 2) (s : State) :
    Completes (execDispatchDone sec port status s) := by
  unfold execDispatchDone
  with_reducible repeat' first | exact Completes.next _ | exact swfNext_completes _ | split

theorem execDmas_completes (c : BitVec 8) (fe : Bool) (s : State) : Completes (execDmas c fe s) := by
  unfold execDmas
  with_reducible repeat' first | extract_lets | exact Completes.next _ | apply Completes.ite

theorem execInterruptEntry_completes (c : BitVec 8) (s : State) : Completes (execInterruptEntry c s) := by
  unfold execInterruptEntry
  with_reducible repeat' first | extract_lets | exact Completes.next _ | apply Completes.ite | split

theorem execDmaLeaf_completes (c : BitVec 8) (tagBad : Bool) (waits : Word) (s : State) :
    Completes (execDmaLeaf c tagBad waits s) := by
  unfold execDmaLeaf
  with_reducible repeat' first | extract_lets | exact Completes.next _ | apply Completes.ite | split

theorem execDmaRawLeaf_completes (c : BitVec 8) (waits : Word) (s : State) :
    Completes (execDmaRawLeaf c waits s) := by
  unfold execDmaRawLeaf
  with_reducible repeat' first | extract_lets | exact Completes.next _ | split

theorem execDmaSectionRead_completes (c : BitVec 8) (data : List Word) (rsp : BitVec 4) (waits : Word) (s : State) :
    Completes (execDmaSectionRead c data rsp waits s) := by
  unfold execDmaSectionRead
  with_reducible repeat' first | extract_lets | exact Completes.next _ | apply Completes.ite | split

theorem execDmaSectionWrite_completes (c : BitVec 8) (ue : Bool) (rsp : BitVec 4) (waits : Word) (s : State) :
    Completes (execDmaSectionWrite c ue rsp waits s) := by
  unfold execDmaSectionWrite
  with_reducible repeat' first | extract_lets | exact Completes.next _ | apply Completes.ite | split

theorem execDmaCoreCopy_completes (c : BitVec 8) (ue : Bool) (waits : Word) (s : State) :
    Completes (execDmaCoreCopy c ue waits s) := by
  unfold execDmaCoreCopy
  with_reducible repeat' first | extract_lets | exact Completes.next _ | apply Completes.ite | split

theorem execDmaTokenWrite_completes (c : BitVec 8) (ue : Bool) (waits : Word) (s : State) :
    Completes (execDmaTokenWrite c ue waits s) := by
  unfold execDmaTokenWrite
  with_reducible repeat' first | extract_lets | exact Completes.next _ | apply Completes.ite | split

theorem execDmaComplete_completes (c : BitVec 8) (s : State) : Completes (execDmaComplete c s) := by
  unfold execDmaComplete
  with_reducible repeat' first | extract_lets | exact Completes.next _ | apply Completes.ite | split

theorem execCoreNoProgressTimeout_completes (c : BitVec 8) (s : State) :
    Completes (execCoreNoProgressTimeout c s) := by
  unfold execCoreNoProgressTimeout
  with_reducible repeat' first | extract_lets | exact Completes.next _ | apply Completes.ite

theorem execNocRingFailure_completes (ring : BitVec 3) (cause : BitVec 2) (segment : BitVec 6) (s : State) :
    Completes (execNocRingFailure ring cause segment s) := by
  unfold execNocRingFailure
  with_reducible repeat' first | extract_lets | exact Completes.next _ | apply Completes.ite

theorem execDescriptorAccept_completes (tenant : BitVec 8) (ring : BitVec 6) (header : Word) (readFail : Bool) (s :
    State) :
    Completes (execDescriptorAccept tenant ring header readFail s) := by
  unfold execDescriptorAccept
  with_reducible repeat' first | extract_lets | exact Completes.next _ | apply Completes.ite

theorem execHostReadFailure_completes (r : HostRead) (s : State) : Completes (execHostReadFailure r s) := by
  unfold execHostReadFailure
  with_reducible repeat' first | exact Completes.next _ | apply Completes.ite | split

theorem execMsixCoalesceTimeout_completes (tenant : BitVec 8) (cq : BitVec 6) (s : State) :
    Completes (execMsixCoalesceTimeout tenant cq s) := by
  unfold execMsixCoalesceTimeout
  with_reducible repeat' first | extract_lets | exact Completes.next _ | apply Completes.ite

theorem execFlrVf_completes (tenant : BitVec 8) (s : State) : Completes (execFlrVf tenant s) := by
  unfold execFlrVf
  with_reducible repeat' first | extract_lets | exact Completes.next _ | apply Completes.ite

theorem execFlrQuireRelease_completes (tenant : BitVec 8) (s : State) : Completes (execFlrQuireRelease tenant s) := by
  unfold execFlrQuireRelease
  with_reducible repeat' first | extract_lets | exact Completes.next _ | apply Completes.ite

theorem execVfEnable_completes (n : BitVec 8) (s : State) : Completes (execVfEnable n s) := by
  unfold execVfEnable
  with_reducible repeat' first | extract_lets | exact Completes.next _ | apply Completes.ite

theorem execLinkLossTimeout_completes (s : State) : Completes (execLinkLossTimeout s) := by
  unfold execLinkLossTimeout
  with_reducible repeat' first | exact Completes.next _ | apply Completes.ite

theorem execBryPortTrained_completes (port : BitVec 2) (ringId : BitVec 16) (size : BitVec 4) (number : BitVec 3)
    (bad : BitVec 8) (encrypted : Bool) (far : BitVec 3) (reach : BitVec 8) (s : State) :
    Completes (execBryPortTrained port ringId size number bad encrypted far reach s) := by
  unfold execBryPortTrained
  with_reducible repeat' first | extract_lets | exact Completes.next _ | apply Completes.ite

theorem execBryNoPartnerRetry_completes (port : BitVec 2) (s : State) : Completes (execBryNoPartnerRetry port s) := by
  unfold execBryNoPartnerRetry
  with_reducible repeat' first | extract_lets | exact Completes.next _ | apply Completes.ite

theorem execFlitTrain_completes (f : FlitArg) (s : State) : Completes (execFlitTrain f s) := by
  unfold execFlitTrain
  with_reducible repeat' first | extract_lets | exact Completes.next _ | apply Completes.ite

theorem execBryRetrainDone_completes (port : BitVec 2) (s : State) : Completes (execBryRetrainDone port s) := by
  unfold execBryRetrainDone
  with_reducible repeat' first | extract_lets | exact Completes.next _ | apply Completes.ite

theorem execRmtAccessEnd_completes (result : BitVec 2) (data : Word) (s : State) :
    Completes (execRmtAccessEnd result data s) := by
  unfold execRmtAccessEnd
  with_reducible repeat' first | extract_lets | exact Completes.next _ | apply Completes.ite

theorem execMgmtMismatch_completes (s : State) : Completes (execMgmtMismatch s) := by
  unfold execMgmtMismatch
  with_reducible repeat' first | exact Completes.next _ | apply Completes.ite

theorem execMgmtSelftestDone_completes (aPass bPass : Bool) (s : State) :
    Completes (execMgmtSelftestDone aPass bPass s) := by
  unfold execMgmtSelftestDone
  with_reducible repeat' first | extract_lets | exact Completes.next _ | apply Completes.ite

theorem execLogWindowClose_completes (code unit : BitVec 16) (s : State) :
    Completes (execLogWindowClose code unit s) := by
  unfold execLogWindowClose
  with_reducible repeat' first | extract_lets | exact Completes.next _ | split

theorem execPowerVote_completes (src : Desc ⊕ (Path × Word)) (kind : BitVec 8) (index : BitVec 16) (state : BitVec
    8) (overCap : Bool) (s : State) :
    Completes (execPowerVote src kind index state overCap s) := by
  unfold execPowerVote
  with_reducible repeat' first | extract_lets | exact Completes.next _ | apply Completes.ite | split

theorem execVoteWithdrawal_completes (t : BitVec 8) (n : BitVec 9) (s : State) :
    Completes (execVoteWithdrawal t n s) := by
  unfold execVoteWithdrawal
  with_reducible repeat' first | exact Completes.next _ | apply Completes.ite

theorem execDomainFenceEnd_completes (n : BitVec 9) (s : State) : Completes (execDomainFenceEnd n s) := by
  unfold execDomainFenceEnd
  with_reducible repeat' first | extract_lets | exact Completes.next _ | apply Completes.ite

theorem execDomainStateReached_completes (n : BitVec 9) (s : State) : Completes (execDomainStateReached n s) := by
  unfold execDomainStateReached
  with_reducible repeat' first | extract_lets | exact Completes.next _ | apply Completes.ite

theorem execDeferredLowering_completes (n : BitVec 9) (s : State) : Completes (execDeferredLowering n s) := by
  unfold execDeferredLowering
  with_reducible repeat' first | extract_lets | exact Completes.next _ | apply Completes.ite

theorem execClockGate_completes (n : BitVec 9) (s : State) : Completes (execClockGate n s) := by
  unfold execClockGate
  with_reducible repeat' first | extract_lets | exact Completes.next _ | apply Completes.ite

theorem execIdleEntry_completes (s : State) : Completes (execIdleEntry s) := by
  unfold execIdleEntry
  with_reducible repeat' first | exact Completes.next _ | apply Completes.ite

theorem execIdleExit_completes (s : State) : Completes (execIdleExit s) := by
  unfold execIdleExit
  with_reducible repeat' first | exact Completes.next _ | apply Completes.ite

theorem execEntryCommitPoint_completes (phases : BitVec 6) (s : State) :
    Completes (execEntryCommitPoint phases s) := by
  unfold execEntryCommitPoint
  with_reducible repeat' first | extract_lets | exact Completes.next _ | apply Completes.ite | split

theorem execDeviceStateReached_completes (s : State) : Completes (execDeviceStateReached s) := by
  unfold execDeviceStateReached
  with_reducible repeat' first | extract_lets | exact Completes.next _ | apply Completes.ite | split

theorem execGioWakeEdge_completes (pin : BitVec 3) (rising : Bool) (s : State) :
    Completes (execGioWakeEdge pin rising s) := by
  unfold execGioWakeEdge
  with_reducible repeat' first | extract_lets | exact Completes.next _ | apply Completes.ite

theorem execSmbusAddressMatch_completes (addr : BitVec 7) (s : State) : Completes (execSmbusAddressMatch addr s) := by
  unfold execSmbusAddressMatch
  with_reducible repeat' first | extract_lets | exact Completes.next _ | apply Completes.ite

theorem execTimerWake_completes (s : State) : Completes (execTimerWake s) := by
  unfold execTimerWake
  with_reducible repeat' first | extract_lets | exact Completes.next _ | apply Completes.ite

theorem execExitComplete_completes (s : State) : Completes (execExitComplete s) := by
  unfold execExitComplete
  with_reducible repeat' first | extract_lets | exact Completes.next _ | apply Completes.ite

theorem execDbgAccessDone_completes (monitor : Bool) (s : State) : Completes (execDbgAccessDone monitor s) := by
  unfold execDbgAccessDone
  with_reducible repeat' first | extract_lets | exact Completes.next _ | apply Completes.ite | split

theorem execMonitorRequest_completes (reg : BitVec 4) (write tag pending : Bool) (data : Word) (s : State) :
    Completes (execMonitorRequest reg write tag pending data s) := by
  unfold execMonitorRequest
  with_reducible repeat' first | extract_lets | exact Completes.next _ | apply Completes.ite

theorem execSessionTimeout_completes (s : State) : Completes (execSessionTimeout s) := by
  unfold execSessionTimeout
  with_reducible repeat' first | exact Completes.next _ | apply Completes.ite

theorem execHaltEvent_completes (group : BitVec 3) (s : State) : Completes (execHaltEvent group s) := by
  unfold execHaltEvent
  with_reducible repeat' first | extract_lets | exact Completes.next _ | apply Completes.ite | split

theorem execDbgBrk_completes (n : BitVec 8) (s : State) : Completes (execDbgBrk n s) := by
  unfold execDbgBrk
  with_reducible repeat' first | extract_lets | exact Completes.next _ | apply Completes.ite | split

theorem execHaltTakesEffect_completes (kind : BitVec 2) (index : BitVec 10) (s : State) :
    Completes (execHaltTakesEffect kind index s) := by
  unfold execHaltTakesEffect
  with_reducible repeat' first | extract_lets | exact Completes.next _ | apply Completes.ite | split

theorem execFoliationCopy_completes (s : State) : Completes (execFoliationCopy s) := by
  unfold execFoliationCopy
  with_reducible repeat' first | extract_lets | exact Completes.next _ | split

theorem execFoliationWritten_completes (s : State) : Completes (execFoliationWritten s) := by
  unfold execFoliationWritten
  with_reducible repeat' first | extract_lets | exact Completes.next _ | apply Completes.ite | split

theorem execLoadTestDone_completes (src snk : List (BitVec 14)) (s : State) :
    Completes (execLoadTestDone src snk s) := by
  unfold execLoadTestDone
  with_reducible repeat' first | extract_lets | exact Completes.next _ | split

theorem execAdcConversion_completes (codes : List (BitVec 14)) (s : State) :
    Completes (execAdcConversion codes s) := by
  unfold execAdcConversion
  with_reducible repeat' first | extract_lets | exact Completes.next _ | apply Completes.ite | split

theorem execSmbReadRegister_completes (s : State) : Completes (execSmbReadRegister s) := by
  unfold execSmbReadRegister
  with_reducible repeat' first | extract_lets | exact Completes.next _ | apply Completes.ite

theorem execSmbUnlistedCommand_completes (cmd : BitVec 8) (s : State) : Completes (execSmbUnlistedCommand cmd s) := by
  unfold execSmbUnlistedCommand
  with_reducible repeat' first | exact Completes.next _ | apply Completes.ite

theorem execBar0BadRequest_completes (off : Word) (s : State) : Completes (execBar0BadRequest off s) := by
  unfold execBar0BadRequest
  with_reducible repeat' first | exact Completes.next _ | apply Completes.ite

theorem execHostLinkLoss_completes (s : State) : Completes (execHostLinkLoss s) := by
  unfold execHostLinkLoss
  with_reducible repeat' first | exact Completes.next _ | apply Completes.ite

theorem execHostLinkUp_completes (rate : BitVec 4) (width : BitVec 7) (flit : Bool) (s : State) :
    Completes (execHostLinkUp rate width flit s) := by
  unfold execHostLinkUp
  with_reducible repeat' first | exact Completes.next _ | apply Completes.ite

theorem execBusMasterEnableChange_completes (tenant : BitVec 8) (on : Bool) (s : State) :
    Completes (execBusMasterEnableChange tenant on s) := by
  unfold execBusMasterEnableChange
  with_reducible repeat' first | extract_lets | exact Completes.next _ | apply Completes.ite

theorem execSmbClkStretchTimeout_completes (s : State) : Completes (execSmbClkStretchTimeout s) := by
  unfold execSmbClkStretchTimeout
  with_reducible repeat' first | exact Completes.next _ | apply Completes.ite

theorem execFabricClockEdge_completes (sec : BitVec 8) (clock : BitVec 4) (falling : Bool) (cells : List (BitVec 16
    × CellIn)) (slices : List (BitVec 5 × SliceIn)) (s : State) :
    Completes (execFabricClockEdge sec clock falling cells slices s) := by
  unfold execFabricClockEdge
  with_reducible repeat' first | extract_lets | exact Completes.next _ | apply Completes.ite

theorem execBlockMemoryWrite_completes (w : MemWrite) (s : State) : Completes (execBlockMemoryWrite w s) := by
  unfold execBlockMemoryWrite
  with_reducible repeat' first | extract_lets | exact Completes.next _ | apply Completes.ite

/-! ## Meanings that check an operand (R703) -/

theorem execOutCtrlWrite_completes {n : Nat} (hn : n < 7) (p : Path) (v : Word) (s : State) :
    Completes (execOutCtrlWrite p n v s) := by
  rw [execOutCtrlWrite, if_pos hn]
  exact Completes.next _

theorem execPpsEdge_completes {pin : Nat} (hpin : pin < 192) (s : State) : Completes (execPpsEdge pin s) := by
  rw [execPpsEdge, if_neg (Nat.not_le.mpr hpin)]
  exact Completes.ite (Completes.next _) (Completes.next _)

theorem execLaneAnalogueFault_completes {cause : Nat} (hcause : 2 ≤ cause ∧ cause ≤ 5) (lane : BitVec 9) (s : State) :
    Completes (execLaneAnalogueFault lane cause s) := by
  rw [execLaneAnalogueFault, if_pos hcause]
  exact Completes.next _

theorem execDigAcquire_completes {src : Desc ⊕ Path} {lane : BitVec 16} {tap : BitVec 8}
    (hunit : ∀ p, src = .inr p → lane.toNat < 512 ∧ tap.toNat < 2) (cfg span count : Word) (s : State) :
    Completes (execDigAcquire src lane tap cfg span count s) := by
  cases src with
  | inl d => exact Completes.next _
  | inr p =>
    simp only [execDigAcquire, if_pos (hunit p rfl)]
    exact Completes.next _

theorem execProbe_completes {src : Desc ⊕ Path} {lane : BitVec 16} (hlane : ∀ p, src = .inr p → lane.toNat < 512)
    (ctrl : Word) (s : State) : Completes (execProbe src lane ctrl s) := by
  cases src with
  | inl d => exact Completes.next _
  | inr p =>
    simp only [execProbe, if_pos (hlane p rfl)]
    exact Completes.next _

theorem execSliceFailure_completes {k : Nat} (hk : k < 5) (sect : BitVec 4) (s : State) :
    Completes (execSliceFailure sect k s) := by
  unfold execSliceFailure
  extract_lets
  rw [if_neg (Nat.not_le.mpr hk)]
  refine Completes.ite (Completes.next _) ?_
  extract_lets
  split
  case h_1 none => exact Completes.next _
  case h_2 octet => exact Completes.next _

theorem execLaneCfgWrite_completes {which : Nat} (hwhich : which < 3) (p : Path) (sect : BitVec 4) (j : BitVec 5)
    (v : Word) (s : State) : Completes (execLaneCfgWrite p which sect j v s) := by
  rw [execLaneCfgWrite, if_pos hwhich]
  exact Completes.next _

theorem execTrigPinEdge_completes {pin : Nat} (hpin : pin < 192) (rising : Bool) (t : BitVec 64) (s : State) :
    Completes (execTrigPinEdge pin rising t s) := by
  rw [execTrigPinEdge, if_neg (Nat.not_le.mpr hpin)]
  exact Completes.ite (Completes.next _) (Completes.next _)

theorem execBankCfgWrite_completes {bank : BitVec 3} (hbank : bank.toNat < 6) (p : Path) (v : Word) (s : State) :
    Completes (execBankCfgWrite p bank v s) := by
  rw [execBankCfgWrite, if_neg (Nat.not_le.mpr hbank)]
  exact Completes.next _

theorem execPinCfgWrite_completes {pin : BitVec 8} (hpin : pin.toNat < 192) (p : Path) (v : Word) (s : State) :
    Completes (execPinCfgWrite p pin v s) := by
  rw [execPinCfgWrite, if_neg (Nat.not_le.mpr hpin)]
  exact Completes.next _

theorem execContentionDetect_completes {pin : BitVec 8} (hpin : pin.toNat < 192) (s : State) :
    Completes (execContentionDetect pin s) := by
  unfold execContentionDetect
  extract_lets
  rw [if_neg (Nat.not_le.mpr hpin)]
  exact Completes.ite (Completes.next _) (Completes.next _)

/-! ## Every command -/

theorem exec_completes (c : Instr) (s : State) (hc : c.wf = true) : Completes (exec c s) := by
  cases c
  case outCtrlWrite p n v => exact execOutCtrlWrite_completes (of_decide_eq_true hc) p v s
  case ppsEdge pin => exact execPpsEdge_completes (of_decide_eq_true hc) s
  case laneAnalogueFault lane cause =>
    exact execLaneAnalogueFault_completes (by simpa [Instr.wf] using hc) lane s
  case digAcquire src lane tap cfg span count =>
    exact execDigAcquire_completes (by rintro p rfl; simpa [Instr.wf] using hc) cfg span count s
  case probe src lane ctrl => exact execProbe_completes (by rintro p rfl; exact of_decide_eq_true hc) ctrl s
  case sliceFailure sect k => exact execSliceFailure_completes (of_decide_eq_true hc) sect s
  case laneCfgWrite p which sect j v => exact execLaneCfgWrite_completes (of_decide_eq_true hc) p sect j v s
  case trigPinEdge pin rising t => exact execTrigPinEdge_completes (of_decide_eq_true hc) rising t s
  case bankCfgWrite p bank v => exact execBankCfgWrite_completes (of_decide_eq_true hc) p v s
  case pinCfgWrite p pin v => exact execPinCfgWrite_completes (of_decide_eq_true hc) p v s
  case contentionDetect pin => exact execContentionDetect_completes (of_decide_eq_true hc) s
  case startConditionMet => exact execStartConditionMet_completes s
  case colophonCommitDone => exact execColophonCommitDone_completes s
  case gpfDone phases => exact execGpfDone_completes phases s
  case powerLossSequenceEnd => exact execPowerLossSequenceEnd_completes s
  case vauxLoss => exact execVauxLoss_completes s
  case railPhaseFailure rail load => exact execRailPhaseFailure_completes rail load s
  case tempSample l => exact execTempSample_completes l s
  case qualGateEnd n edges offset => exact execQualGateEnd_completes n edges offset s
  case candidateEdgeTimeout n => exact execCandidateEdgeTimeout_completes n s
  case fallbackChosen => exact execFallbackChosen_completes s
  case rootLockReached => exact execRootLockReached_completes s
  case autoRevert => exact execAutoRevert_completes s
  case timeCmdApply => exact execTimeCmdApply_completes s
  case stepTimeout step => exact execStepTimeout_completes step s
  case mgmtWatchdogExpiry => exact execMgmtWatchdogExpiry_completes s
  case startStepDone step r => exact execStartStepDone_completes step r s
  case perstNAssert => exact execPerstNAssert_completes s
  case perstNRelease => exact execPerstNRelease_completes s
  case linkTimeout => exact execLinkTimeout_completes s
  case linkTrainRetry up rate width flit => exact execLinkTrainRetry_completes up rate width flit s
  case fabricMemRead sec mem portB addr strike => exact execFabricMemRead_completes sec mem portB addr strike s
  case memScrubVisit sec strikes dropped => exact execMemScrubVisit_completes sec strikes dropped s
  case sectionClearDone sec => exact execSectionClearDone_completes sec s
  case fabricLoadEngineStart => exact execFabricLoadEngineStart_completes s
  case fabricLoadDone cause image => exact execFabricLoadDone_completes cause image s
  case fabricReleaseDone sec => exact execFabricReleaseDone_completes sec s
  case rclkSelChange sec k level => exact execRclkSelChange_completes sec k level s
  case rclkChangeDone sec k => exact execRclkChangeDone_completes sec k s
  case octetRetuneDone o => exact execOctetRetuneDone_completes o s
  case octetPllFailure o => exact execOctetPllFailure_completes o s
  case octetSwitchComplete o => exact execOctetSwitchComplete_completes o s
  case sparePllFailure o => exact execSparePllFailure_completes o s
  case signalDetected lane => exact execSignalDetected_completes lane s
  case cdrLockAcquired lane => exact execCdrLockAcquired_completes lane s
  case codingLockGained lane history => exact execCodingLockGained_completes lane history s
  case codingLockLost lane => exact execCodingLockLost_completes lane s
  case cdrLockLost lane => exact execCdrLockLost_completes lane s
  case signalLoss lane => exact execSignalLoss_completes lane s
  case digTrigger lane tap t ref sample => exact execDigTrigger_completes lane tap t ref sample s
  case digAcquisitionEnd lane tap => exact execDigAcquisitionEnd_completes lane tap s
  case probeEnd lane timedOut received data legN legP =>
      exact execProbeEnd_completes lane timedOut received data legN legP s
  case intakeUnit lane u t bad k staged most => exact execIntakeUnit_completes lane u t bad k staged most s
  case runPieceTimeout n m => exact execRunPieceTimeout_completes n m s
  case gapPieceTimeout n m t => exact execGapPieceTimeout_completes n m t s
  case fecCodewordDone n m t corr uncorr b entries ago =>
      exact execFecCodewordDone_completes n m t corr uncorr b entries ago s
  case deskewRound sect b t offs => exact execDeskewRound_completes sect b t offs s
  case sliceFailoverDone sect => exact execSliceFailoverDone_completes sect s
  case slotEvaluation sect slot => exact execSlotEvaluation_completes sect slot s
  case triggerTokenPost => exact execTriggerTokenPost_completes s
  case lineEvent line => exact execLineEvent_completes line s
  case tapBeat sect tap data nbits t gap => exact execTapBeat_completes sect tap data nbits t gap s
  case injEvent sect n t => exact execInjEvent_completes sect n t s
  case ribbonAtTime => exact execRibbonAtTime_completes s
  case graphRibbonToken n => exact execGraphRibbonToken_completes n s
  case leafFlushTimeout n => exact execLeafFlushTimeout_completes n s
  case quireAllocated => exact execQuireAllocated_completes s
  case sealSlotWrite q => exact execSealSlotWrite_completes q s
  case drainTake balanced => exact execDrainTake_completes balanced s
  case drainCopyDone q => exact execDrainCopyDone_completes q s
  case collateRecord n badLeaves badQuires => exact execCollateRecord_completes n badLeaves badQuires s
  case hostTailPoll n tail fail => exact execHostTailPoll_completes n tail fail s
  case pressLoad d lane entry program stream pressDq notifyDq =>
      exact execPressLoad_completes d lane entry program stream pressDq notifyDq s
  case pressStartTime lane => exact execPressStartTime_completes lane s
  case pressEvqArrival lane graph => exact execPressEvqArrival_completes lane graph s
  case pressUnitSend lane t k => exact execPressUnitSend_completes lane t k s
  case prefetchReadDone lane leaf authentic frame => exact execPrefetchReadDone_completes lane leaf authentic frame s
  case waitEventTaken lane => exact execWaitEventTaken_completes lane s
  case waitEventTimeout lane => exact execWaitEventTimeout_completes lane s
  case relayUnitIn lane u => exact execRelayUnitIn_completes lane u s
  case frameStartTime f => exact execFrameStartTime_completes f s
  case shaperSlot sect => exact execShaperSlot_completes sect s
  case multicastTimeout f => exact execMulticastTimeout_completes f s
  case frameBoundary lane t => exact execFrameBoundary_completes lane t s
  case frameDqToken f => exact execFrameDqToken_completes f s
  case hbmReadError q leaf still noSpare second => exact execHbmReadError_completes q leaf still noSpare second s
  case parityScrubRow q leaf differs settle late corrected =>
      exact execParityScrubRow_completes q leaf differs settle late corrected s
  case ddrUeBurst q leaf second leaves => exact execDdrUeBurst_completes q leaf second leaves s
  case ddrMigrateDone c => exact execDdrMigrateDone_completes c s
  case ddrRehomeDone second => exact execDdrRehomeDone_completes second s
  case cxlReadFailover q leaf late => exact execCxlReadFailover_completes q leaf late s
  case cxlResilverDone port => exact execCxlResilverDone_completes port s
  case rekeyEngineTake => exact execRekeyEngineTake_completes s
  case rekeyAdvance => exact execRekeyAdvance_completes s
  case linkSessionRollover port => exact execLinkSessionRollover_completes port s
  case queueFetchDone q => exact execQueueFetchDone_completes q s
  case decision engine t => exact execDecision_completes engine t s
  case taskGrant pool => exact execTaskGrant_completes pool s
  case taskCommit slot => exact execTaskCommit_completes slot s
  case taskFetchTimeout tenant ring entry => exact execTaskFetchTimeout_completes tenant ring entry s
  case taskDone d handle status counts tokens => exact execTaskDone_completes d handle status counts tokens s
  case hostTaskTimeout slot => exact execHostTaskTimeout_completes slot s
  case dispatchRequest sec port cls => exact execDispatchRequest_completes sec port cls s
  case dispatchOutput sec port index token => exact execDispatchOutput_completes sec port index token s
  case dispatchDone sec port status => exact execDispatchDone_completes sec port status s
  case dmas c fe => exact execDmas_completes c fe s
  case interruptEntry c => exact execInterruptEntry_completes c s
  case dmaLeaf c tagBad waits => exact execDmaLeaf_completes c tagBad waits s
  case dmaRawLeaf c waits => exact execDmaRawLeaf_completes c waits s
  case dmaSectionRead c data rsp waits => exact execDmaSectionRead_completes c data rsp waits s
  case dmaSectionWrite c ue rsp waits => exact execDmaSectionWrite_completes c ue rsp waits s
  case dmaCoreCopy c ue waits => exact execDmaCoreCopy_completes c ue waits s
  case dmaTokenWrite c ue waits => exact execDmaTokenWrite_completes c ue waits s
  case dmaComplete c => exact execDmaComplete_completes c s
  case coreNoProgressTimeout c => exact execCoreNoProgressTimeout_completes c s
  case nocRingFailure ring cause segment => exact execNocRingFailure_completes ring cause segment s
  case descriptorAccept tenant ring header readFail =>
      exact execDescriptorAccept_completes tenant ring header readFail s
  case hostReadFailure r => exact execHostReadFailure_completes r s
  case msixCoalesceTimeout tenant cq => exact execMsixCoalesceTimeout_completes tenant cq s
  case flrVf tenant => exact execFlrVf_completes tenant s
  case flrQuireRelease tenant => exact execFlrQuireRelease_completes tenant s
  case vfEnable n => exact execVfEnable_completes n s
  case linkLossTimeout => exact execLinkLossTimeout_completes s
  case bryPortTrained port ringId size number bad encrypted far reach =>
      exact execBryPortTrained_completes port ringId size number bad encrypted far reach s
  case bryNoPartnerRetry port => exact execBryNoPartnerRetry_completes port s
  case flitTrain f => exact execFlitTrain_completes f s
  case bryRetrainDone port => exact execBryRetrainDone_completes port s
  case rmtAccessEnd result data => exact execRmtAccessEnd_completes result data s
  case mgmtMismatch => exact execMgmtMismatch_completes s
  case mgmtSelftestDone aPass bPass => exact execMgmtSelftestDone_completes aPass bPass s
  case logWindowClose code unit => exact execLogWindowClose_completes code unit s
  case powerVote src kind index state overCap => exact execPowerVote_completes src kind index state overCap s
  case voteWithdrawal t n => exact execVoteWithdrawal_completes t n s
  case domainFenceEnd n => exact execDomainFenceEnd_completes n s
  case domainStateReached n => exact execDomainStateReached_completes n s
  case deferredLowering n => exact execDeferredLowering_completes n s
  case clockGate n => exact execClockGate_completes n s
  case idleEntry => exact execIdleEntry_completes s
  case idleExit => exact execIdleExit_completes s
  case entryCommitPoint phases => exact execEntryCommitPoint_completes phases s
  case deviceStateReached => exact execDeviceStateReached_completes s
  case gioWakeEdge pin rising => exact execGioWakeEdge_completes pin rising s
  case smbusAddressMatch addr => exact execSmbusAddressMatch_completes addr s
  case timerWake => exact execTimerWake_completes s
  case exitComplete => exact execExitComplete_completes s
  case dbgAccessDone monitor => exact execDbgAccessDone_completes monitor s
  case monitorRequest reg write tag pending data => exact execMonitorRequest_completes reg write tag pending data s
  case sessionTimeout => exact execSessionTimeout_completes s
  case haltEvent group => exact execHaltEvent_completes group s
  case dbgBrk n => exact execDbgBrk_completes n s
  case haltTakesEffect kind index => exact execHaltTakesEffect_completes kind index s
  case foliationCopy => exact execFoliationCopy_completes s
  case foliationWritten => exact execFoliationWritten_completes s
  case loadTestDone src snk => exact execLoadTestDone_completes src snk s
  case adcConversion codes => exact execAdcConversion_completes codes s
  case smbReadRegister => exact execSmbReadRegister_completes s
  case smbUnlistedCommand cmd => exact execSmbUnlistedCommand_completes cmd s
  case bar0BadRequest off => exact execBar0BadRequest_completes off s
  case hostLinkLoss => exact execHostLinkLoss_completes s
  case hostLinkUp rate width flit => exact execHostLinkUp_completes rate width flit s
  case busMasterEnableChange tenant on => exact execBusMasterEnableChange_completes tenant on s
  case smbClkStretchTimeout => exact execSmbClkStretchTimeout_completes s
  case fabricClockEdge sec clock falling cells slices =>
      exact execFabricClockEdge_completes sec clock falling cells slices s
  case blockMemoryWrite w => exact execBlockMemoryWrite_completes w s
  all_goals exact Completes.next _

/-- Settles O7: every command's meaning answers a next state on each branch that its operands' checks leave. -/
theorem everyWellFormedCommandCompletes : Obligations.EveryWellFormedCommandCompletes :=
  exec_completes

end Sys2Proof.Machine
end

section
/-! PROOFS. A memory word written and read back (R138, R141, R149): what a store leaves of the memory, what a write with no
other access at its edge does, and what a read finds by the number of bits flipped. -/
namespace Sys2Proof.Machine

/-! ## The store of memory words -/

theorem State.memAt_congr {s t : State} (h : t.fab.mem = s.fab.mem) (k : Nat) : t.memAt k = s.memAt k := by
  simp only [State.memAt, h]

theorem State.memAt_setMem_ne {k l : Nat} (h : l ≠ k) (s : State) (data flips : Nat) :
    (s.setMem k data flips).memAt l = s.memAt l := by
  simp only [State.memAt, State.setMem, Tbl.get_set_ne h.symm]

theorem State.memAt_setMem_clean (s : State) (k data : Nat) : (s.setMem k data 0).memAt k = (data % 2 ^ 40, 0) := by
  simp only [State.memAt, State.setMem, Tbl.get_set_same, Prod.mk.injEq]
  omega

/-- The data and the flags that a port shows after a read. -/
theorem State.rdata_setRead (s : State) (n m port data flags : Nat) :
    Tbl.get 0 (s.setRead n m port data flags).fab.rdata (2 * (66 * n + m) + port) = data % 2 ^ 40 + flags * 2 ^ 40 :=
  Tbl.get_set_same ..

theorem State.sectRuns_congr {s t : State} (hregs : t.regs = s.regs) (hdbg : t.dbg = s.dbg) (n : Nat) :
    t.sectRuns n = s.sectRuns n := by
  simp only [State.sectRuns, State.sect, State.domOn, State.get, State.word, State.haltedBy, hregs, hdbg]

/-! ## Flipped bits -/

theorem testBit_eq_false_of_popCount_eq_zero {n m i : Nat} (h : popCount n m = 0) (hi : i < n) :
    m.testBit i = false := by
  rw [popCount, List.length_eq_zero_iff, List.filter_eq_nil_iff] at h
  exact Bool.eq_false_iff.mpr (h i (by simpa [upTo] using hi))

theorem eq_zero_of_popCount_eq_zero {w : Nat} {b : BitVec w} (h : popCount w b.toNat = 0) : b.toNat = 0 := by
  refine Nat.eq_of_testBit_eq fun i => ?_
  rw [Nat.zero_testBit]
  by_cases hi : i < w
  case pos => exact testBit_eq_false_of_popCount_eq_zero h hi
  case neg => exact BitVec.testBit_toNat b ▸ BitVec.getLsbD_of_ge b i (Nat.not_lt.mp hi)

/-! ## Writing and reading a word -/

/-- A write with no other access at its edge: the port shows what its mode says, the word is stored with fresh check
bits, and no register changes. -/
theorem execBlockMemoryWrite_alone {s : State} {w : MemWrite} (hruns : s.sectRuns w.sect.toNat = true)
    (hword : memWord w.mem.toNat w.addr.toNat = true) (hmeet : w.meet = 0) (hinject : w.inject = false) :
    ∃ t, execBlockMemoryWrite w s = .next t ∧
      t.fab.mem = (s.setMem (memKey w.sect.toNat w.mem.toNat w.addr.toNat) w.data.toNat 0).fab.mem ∧
      t.regs = s.regs ∧ t.dbg = s.dbg := by
  by_cases hdeep : 64 ≤ w.mem.toNat
  all_goals simp [execBlockMemoryWrite, hruns, hword, hmeet, hinject, hdeep, State.setRead, State.setMem]

/-- The flags a read shows (R141): SERR counts 1, DERR 2. -/
theorem execFabricMemRead_clean {s : State} {sec : BitVec 8} {mem : BitVec 7} {addr : BitVec 15} {data : BitVec 40}
    (hruns : s.sectRuns sec.toNat = true) (hword : memWord mem.toNat addr.toNat = true)
    (hstored : s.memAt (memKey sec.toNat mem.toNat addr.toNat) = (data.toNat, 0)) (portB : Bool) {strike : BitVec 47}
    (hflips : popCount 47 strike.toNat ≤ 2) :
    ∃ u, execFabricMemRead sec mem portB addr strike s = .next u ∧
      Tbl.get 0 u.fab.rdata (2 * (66 * sec.toNat + mem.toNat) + b2n portB) =
        (if popCount 47 strike.toNat = 0 then data.toNat
         else if popCount 47 strike.toNat = 1 then data.toNat + 2 ^ 40
         else (data.toNat ^^^ (strike.toNat % 2 ^ 40)) + 2 * 2 ^ 40) := by
  have hdata : data.toNat < 2 ^ 40 := data.isLt
  have hxor : data.toNat ^^^ (strike.toNat % 2 ^ 40) < 2 ^ 40 :=
    Nat.xor_lt_two_pow hdata (Nat.mod_lt _ (Nat.two_pow_pos 40))
  have hfew : ¬ 2 < popCount 47 strike.toNat := Nat.not_lt.mpr hflips
  simp only [execFabricMemRead, hruns, hword, hstored, State.secded, Nat.zero_xor, hflips, hfew, if_true,
    decide_false, Bool.not_true, Bool.or_self, Bool.false_eq_true, if_false]
  match hcount : popCount 47 strike.toNat with
  | 0 =>
    refine ⟨_, rfl, ?_⟩
    rw [State.rdata_setRead, eq_zero_of_popCount_eq_zero hcount, if_pos rfl]
    simpa using Nat.mod_eq_of_lt hdata
  | 1 =>
    refine ⟨_, rfl, ?_⟩
    rw [State.rdata_setRead, if_neg (by decide), if_pos rfl, Nat.mod_eq_of_lt hdata, Nat.one_mul]
  | 2 =>
    refine ⟨_, rfl, ?_⟩
    rw [State.rdata_setRead, if_neg (by decide), if_neg (by decide), Nat.mod_eq_of_lt hxor]
  | n + 3 => omega

/-- Settles O55: the write leaves the other words and stores this one with no flipped bit, and the read that follows
finds it with the bits struck. -/
theorem memoryReturnsTheWordWritten : Obligations.MemoryReturnsTheWordWritten := by
  rintro s w portB strike n m a rfl rfl rfl hruns hword hmeet hinject
  obtain ⟨t, hwrite, hmem, hregs, hdbg⟩ := execBlockMemoryWrite_alone hruns hword hmeet hinject
  refine ⟨t, hwrite, fun k hk => ?_, fun hflips => ?_⟩
  · rw [State.memAt_congr hmem, State.memAt_setMem_ne hk]
  · refine execFabricMemRead_clean ((State.sectRuns_congr hregs hdbg _).trans hruns) hword ?_ portB hflips
    rw [State.memAt_congr hmem, State.memAt_setMem_clean, Nat.mod_eq_of_lt w.data.isLt]

end Sys2Proof.Machine
end

section
/-! PROOFS. The sums and differences of a signal core (R519, R523): the signed reading of 16-bit words, and the value and
flags of ADD, SUB and their clamped forms. -/
namespace Sys2Proof.Machine

/-! ## Signed 16-bit words -/

theorem sext_of_lt {a : Nat} (h : a < 65536) : sext 16 a = if a < 32768 then (a : Int) else (a : Int) - 65536 := by
  simp only [sext, show 2 ^ 16 = 65536 from rfl, show 2 ^ (16 - 1) = 32768 from rfl, Nat.mod_eq_of_lt h]
  rfl

theorem wrapInt_lt (i : Int) : wrapInt 16 i < 65536 := by
  simp only [wrapInt]
  omega

theorem sext_wrapInt_of_mem {i : Int} (hlow : -32768 ≤ i) (hhigh : i ≤ 32767) : sext 16 (wrapInt 16 i) = i := by
  rw [sext_wrapInt (by decide)]
  exact Int.bmod_eq_of_le (by omega) (by omega)

theorem satInt_eq_clamp (i : Int) : satInt 16 i = max (-32768) (min 32767 i) := by
  simp only [satInt]
  omega

theorem satInt_ne_iff (i : Int) : (satInt 16 i != i) = true ↔ i < -32768 ∨ 32767 < i := by
  rw [bne_iff_ne, satInt_eq_clamp]
  omega

/-! ## The clamped form -/

/-- A result of the exact signed value `i`: V says that `i` is out of range, and where it is in range the word is `i`. -/
structure AluRes.Signed (r : AluRes) (i : Int) : Prop where
  overflow : r.v = true ↔ i < -32768 ∨ 32767 < i
  inRange : r.v = false → sext 16 r.value = i
  plain : r.sat = false

theorem AluRes.Signed.clamp_value {r : AluRes} {i : Int} (h : r.Signed i) :
    sext 16 (r.clamp i).value = max (-32768) (min 32767 i) := by
  cases hv : r.v with
  | false =>
    have hin : ¬ (i < -32768 ∨ 32767 < i) := fun ho => Bool.false_ne_true (hv.symm.trans (h.overflow.mpr ho))
    simp only [AluRes.clamp, hv, Bool.false_eq_true, if_false, h.inRange hv]
    omega
  | true =>
    simp only [AluRes.clamp, hv, if_true, satInt_eq_clamp]
    exact sext_wrapInt_of_mem (by omega) (by omega)

theorem AluRes.Signed.clamp_sat {r : AluRes} {i : Int} (h : r.Signed i) : (r.clamp i).sat = r.v := by
  cases hv : r.v with
  | false => simp only [AluRes.clamp, hv, Bool.false_eq_true, if_false, h.plain]
  | true => simp only [AluRes.clamp, hv, if_true]

/-! ## Sums and differences -/

theorem aluAdd_value_lt (a b : Nat) : (aluAdd a b).value < 65536 := Nat.mod_lt _ (by decide)

theorem aluSub_value_lt (a b : Nat) : (aluSub a b).value < 65536 := wrapInt_lt _

theorem aluAdd_signed {a b : Nat} (ha : a < 65536) (hb : b < 65536) :
    (aluAdd a b).Signed (sext 16 a + sext 16 b) where
  overflow := satInt_ne_iff _
  inRange hv := by
    have hin := mt (satInt_ne_iff (sext 16 a + sext 16 b)).mpr (Bool.eq_false_iff.mp hv)
    simp only [aluAdd, sext_of_lt ha, sext_of_lt hb, sext_of_lt (Nat.mod_lt (a + b) (by decide : 65536 > 0))] at hin ⊢
    omega
  plain := rfl

theorem aluSub_signed {a b : Nat} (ha : a < 65536) (hb : b < 65536) :
    (aluSub a b).Signed (sext 16 a - sext 16 b) where
  overflow := satInt_ne_iff _
  inRange hv := by
    have hin := mt (satInt_ne_iff (sext 16 a - sext 16 b)).mpr (Bool.eq_false_iff.mp hv)
    simp only [aluSub, sext_of_lt (wrapInt_lt _)]
    simp only [wrapInt, sext_of_lt ha, sext_of_lt hb] at hin ⊢
    omega
  plain := rfl

theorem aluAdd_carry {a b : Nat} (ha : a < 65536) (hb : b < 65536) :
    a + b = (aluAdd a b).value + (if (aluAdd a b).c then 65536 else 0) := by
  simp only [aluAdd, decide_eq_true_eq]
  split
  case isTrue carry => omega
  case isFalse none => omega

theorem aluSub_borrow {a b : Nat} (ha : a < 65536) (hb : b < 65536) :
    a + (if (aluSub a b).c then 0 else 65536) = b + (aluSub a b).value := by
  simp only [aluSub, wrapInt, decide_eq_true_eq]
  split
  case isTrue none => omega
  case isFalse borrow => omega

/-- Settles O56: the sum and the difference are results of their exact signed values, and carry and borrow are those of
the unsigned ones. -/
theorem coreSumsAndDifferencesSetTheirFlags : Obligations.CoreSumsAndDifferencesSetTheirFlags := by
  intro a b ha hb
  have hadd := aluAdd_signed ha hb
  have hsub := aluSub_signed ha hb
  exact ⟨aluAdd_value_lt a b, aluSub_value_lt a b, aluAdd_carry ha hb, aluSub_borrow ha hb, hadd.overflow,
    hsub.overflow, hadd.inRange, hsub.inRange, hadd.clamp_value, hsub.clamp_value, hadd.clamp_sat, hsub.clamp_sat⟩

end Sys2Proof.Machine
end

section
/-! PROOFS. What the completion statements share: what it takes for a command to give a state, what a loop that has
nothing to do leaves, and what the fields of a register hold after a write that passes R706. -/
namespace Sys2Proof.Machine

theorem Gives.of_exec {c : Instr} {s u : State} {P : State → Prop} (h : exec c s = .next u) (hu : P u) : Gives c s P :=
  ⟨u, h, hu⟩

/-- A command that answers `u` gives the state `u` and no other. -/
theorem Gives.eq {c : Instr} {s u : State} (h : exec c s = .next u) : Gives c s (fun t => t = u) := ⟨u, h, rfl⟩

/-- A descriptor that any tenant may submit and that needs no management processor. -/
theorem State.descriptor_plain {s : State} {d : Desc} {checks : List (Bool × Nat)} {effect : State → State}
    (ht : s.admits d = true) (hc : ∀ c ∈ checks, c.1 = false) : s.descriptor d false false checks effect = effect s :=
  State.descriptor_admits ht nofun nofun hc

/-- A loop whose every turn leaves the state leaves it. -/
theorem State.each_eq_self {α : Type} {s : State} {l : List α} {f : State → α → State} (h : ∀ x ∈ l, f s x = s) :
    s.each l f = s := by
  rw [State.each]
  induction l with
  | nil => rfl
  | cons x l ih =>
    rw [List.foldl_cons, h x (List.mem_cons_self ..)]
    exact ih fun y hy => h y (List.mem_cons_of_mem _ hy)

theorem State.each_mem_preserves {α : Type} (P : State → Prop) {l : List α} {f : State → α → State} {s : State}
    (h : ∀ t, ∀ x ∈ l, P t → P (f t x)) (hs : P s) : P (s.each l f) := by
  rw [State.each]
  induction l generalizing s with
  | nil => exact hs
  | cons x l ih =>
    exact ih (fun t y hy => h t y (List.mem_cons_of_mem _ hy)) (h s x (List.mem_cons_self ..) hs)

/-! ## Writes of a register with no RWL field (R707) -/

/-- The word that a write of `v` leaves in a register that held `old`. -/
def RegDef.written (r : RegDef) (old v : Nat) : Nat :=
  (((old &&& (0xFFFFFFFF ^^^ (r.rw ||| r.wo))) ||| (v &&& (r.rw ||| r.wo))) &&& (0xFFFFFFFF ^^^ (v &&& r.w1c))) |||
    (v &&& r.w1s)

theorem State.applyWrite_eq_setWord {r : RegDef} (hrwl : r.rwl = 0) (s : State) (p : Path) (i j k : Nat) (v : Word) :
    s.applyWrite p r i j k v =
      s.setWord r (BitVec.ofNat 32 (r.written (s.word r i j k).toNat v.toNat)) i j k := by
  simp only [State.applyWrite, hrwl, ite_self, Nat.or_zero, bne_self_eq_false, Bool.and_false, State.when_false,
    RegDef.written]

section
variable {r : RegDef} (hrwl : r.rwl = 0) (s : State) (p : Path) (i j k : Nat) (v : Word)
include hrwl

theorem State.applyWrite_clk : (s.applyWrite p r i j k v).clk = s.clk := by
  rw [State.applyWrite_eq_setWord hrwl, State.setWord_clk]

theorem State.get_applyWrite_apart {g : Fld} {a b c : Nat} (h : r.apart g.r = true) :
    (s.applyWrite p r i j k v).get g a b c = s.get g a b c := by
  rw [State.applyWrite_eq_setWord hrwl, State.get_setWord_apart h]

theorem State.word_applyWrite_apart {q : RegDef} {a b c : Nat} (h : r.apart q = true) :
    (s.applyWrite p r i j k v).word q a b c = s.word q a b c := by
  rw [State.applyWrite_eq_setWord hrwl, State.word_setWord_apart h]

end

/-- Every bit of the field is stored as written: RW or WO, and not cleared by a 1. -/
def Fld.stored (f : Fld) : Bool :=
  decide (f.r.rwl = 0) && (upTo (f.hi + 1)).all fun b => decide (b < f.lo) ||
    (decide (b < 32) && (f.r.rw ||| f.r.wo).testBit b && !f.r.w1c.testBit b)

/-- The field is one bit that a write of 1 sets. -/
def Fld.setByOne (f : Fld) : Bool :=
  decide (f.r.rwl = 0) && decide (f.lo = f.hi) && decide (f.hi < 32) && f.r.w1s.testBit f.hi

theorem mem_upTo {i n : Nat} : i ∈ upTo n ↔ i < n := by simp [upTo]

theorem testBit_written_of_stored {r : RegDef} {old v b : Nat} (hb : b < 32) (hrw : (r.rw ||| r.wo).testBit b = true)
    (hw1c : r.w1c.testBit b = false) : (r.written old v).testBit b = v.testBit b := by
  have hones : Nat.testBit 0xFFFFFFFF b = true := by
    rw [show 0xFFFFFFFF = 2 ^ 32 - 1 from rfl, Nat.testBit_two_pow_sub_one, decide_eq_true hb]
  simp only [RegDef.written, Nat.testBit_or, Nat.testBit_and, Nat.testBit_xor, hones] at hrw ⊢
  rw [hrw, hw1c]
  cases v.testBit b <;> simp

theorem State.get_applyWrite_stored {f : Fld} (hf : f.stored = true) (s : State) (p : Path) (i j k : Nat) (v : Word) :
    (s.applyWrite p f.r i j k v).get f i j k = bits v.toNat f.hi f.lo := by
  simp only [Fld.stored, Bool.and_eq_true, decide_eq_true_eq, List.all_eq_true, mem_upTo, Bool.or_eq_true,
    Bool.not_eq_true'] at hf
  obtain ⟨hrwl, hbits⟩ := hf
  rw [State.applyWrite_eq_setWord hrwl, State.get, State.word_setWord_same]
  refine Nat.eq_of_testBit_eq fun n => ?_
  rw [testBit_bits, testBit_bits]
  by_cases hn : n < f.hi + 1 - f.lo
  case neg => simp [hn]
  case pos =>
    rcases hbits (n + f.lo) (by omega) with hlow | ⟨⟨h32, hrw⟩, hw1c⟩
    · omega
    · rw [BitVec.toNat_ofNat, Nat.testBit_mod_two_pow, testBit_written_of_stored h32 hrw hw1c, decide_eq_true h32,
        Bool.true_and]

theorem bits_self (v i : Nat) : bits v i i = b2n (bit v i) := by
  rw [bits, bit, b2n, Nat.testBit_eq_decide_div_mod_eq, Nat.shiftRight_eq_div_pow, Nat.add_sub_cancel_left,
    Nat.pow_one]
  split
  case isTrue set => exact of_decide_eq_true set
  case isFalse clear =>
    rw [decide_eq_true_eq] at clear
    omega

theorem State.get_applyWrite_setByOne {f : Fld} (hf : f.setByOne = true) {v : Word} (hv : bit v.toNat f.hi = true)
    (s : State) (p : Path) (i j k : Nat) : (s.applyWrite p f.r i j k v).get f i j k = 1 := by
  simp only [Fld.setByOne, Bool.and_eq_true, decide_eq_true_eq] at hf
  obtain ⟨⟨⟨hrwl, hlo⟩, hhi⟩, hw1s⟩ := hf
  rw [State.applyWrite_eq_setWord hrwl, State.get, State.word_setWord_same, hlo, bits_self]
  have hset : bit (BitVec.ofNat 32 (f.r.written (s.word f.r i j k).toNat v.toNat)).toNat f.hi = true := by
    rw [bit] at hv
    rw [bit, BitVec.toNat_ofNat, Nat.testBit_mod_two_pow, decide_eq_true hhi, RegDef.written, Nat.testBit_or,
      Nat.testBit_and v.toNat, hv, hw1s, Bool.and_self, Bool.or_true, Bool.and_self]
  rw [hset]
  rfl

/-! ## What an operation leaves, from the parts that it may change -/

/-- Every copy of the register lies in one block, and that block is not in `l`. -/
def RegDef.outside (r : RegDef) (l : List Part) : Bool :=
  r.inBlock (blockOf r.base) && !l.contains (blockOf r.base)

section
variable {l : List Part} {s t : State} (h : State.Keeps (Kept.of l s) t)
include h

theorem State.Keeps.word_outside {r : RegDef} {i j k : Nat} (hout : r.outside l = true) :
    t.word r i j k = s.word r i j k := by
  simp only [RegDef.outside, Bool.and_eq_true, Bool.not_eq_true'] at hout
  obtain ⟨hin, hl⟩ := hout
  exact h.word_eq ((congrArg l.contains (RegDef.inBlock_addr hin i j k)).trans hl)

theorem State.Keeps.get_outside {f : Fld} {i j k : Nat} (hout : f.r.outside l = true) : t.get f i j k = s.get f i j k :=
  congrArg (fun w : Word => bits w.toNat f.hi f.lo) (h.word_outside hout)

end

/-- A field reads a value that it has room for after it is written. -/
theorem State.get_put_fits {s : State} {f : Fld} {v i j k : Nat} (h : f.lo ≤ f.hi) (h31 : f.hi < 32)
    (hv : v < 2 ^ f.width) : (s.put f v i j k).get f i j k = v :=
  (State.get_put_same _ _ _ _ _ _ h h31).trans (Nat.mod_eq_of_lt hv)

theorem satNat_lt (w v : Nat) : satNat w v < 2 ^ w := by
  have hpos : 0 < 2 ^ w := Nat.two_pow_pos w
  rw [satNat]
  split <;> omega

/-- A counter reads one more, held at its limit, after it counts. -/
theorem State.get_cnt_same {s : State} {f : Fld} {n i j k : Nat} (h : f.lo ≤ f.hi) (h31 : f.hi < 32) :
    (s.cnt f n i j k).get f i j k = satNat f.width (s.get f i j k + n) :=
  State.get_put_fits h h31 (satNat_lt ..)

theorem State.cnt_apart {s : State} {f g : Fld} {n i j k a b c : Nat} (h : f.r.apart g.r = true) :
    (s.cnt f n i j k).get g a b c = s.get g a b c := State.get_put_apart h

section
variable (s : State) (code severity unit class' : Nat) (detail : List Nat) (second : Bool)

@[simp] theorem State.log_clk : (s.log code severity unit detail).clk = s.clk :=
  (State.log_kept s code severity unit detail Kept.of_keeps Kept.of_allows).clk rfl

@[simp] theorem State.fault_clk : (s.fault class' second).clk = s.clk :=
  (State.fault_kept s class' second Kept.of_keeps Kept.of_allows).clk rfl

theorem State.get_log {f : Fld} {i j k : Nat} (hout : f.r.outside [.RAS, .ras] = true) :
    (s.log code severity unit detail).get f i j k = s.get f i j k :=
  (State.log_kept s code severity unit detail Kept.of_keeps Kept.of_allows).get_outside hout

/-- The log lies in the RAS block, in two of its registers. -/
theorem State.get_log_apart {f : Fld} {i j k : Nat} (hlost : Reg.RAS_LOG_LOST.apart f.r = true)
    (hevents : Reg.RAS_EVENTS.apart f.r = true) : (s.log code severity unit detail).get f i j k = s.get f i j k := by
  unfold State.log
  extract_lets
  split
  · rw [State.get_mk]
  · split
    · rw [State.ev_eq, State.get_put_apart hevents, State.cnt_eq, State.get_put_apart hlost, State.get_mk]
    · rw [State.get_mk]

theorem State.fault_classSeen (hclass : class' - 1 < 10) :
    (s.fault class' second).get F.RAS_STATUS_class_seen = s.get F.RAS_STATUS_class_seen ||| 2 ^ (class' - 1) := by
  have hfits : s.get F.RAS_STATUS_class_seen ||| 2 ^ (class' - 1) < 2 ^ F.RAS_STATUS_class_seen.width :=
    Nat.or_lt_two_pow (State.get_lt ..) (Nat.pow_lt_pow_right (by decide) hclass)
  simp -implicitDefEqProofs (disch := first | exact id rfl | decide | assumption) [State.fault, State.get_when,
    State.get_put_apart, State.get_put_fits]

theorem State.get_fault {f : Fld} {i j k : Nat} (hout : f.r.outside [.RAS] = true) :
    (s.fault class' second).get f i j k = s.get f i j k :=
  (State.fault_kept s class' second Kept.of_keeps Kept.of_allows).get_outside hout

end

/-! ## Fields of words -/

theorem bits_or (v w hi lo : Nat) : bits (v ||| w) hi lo = bits v hi lo ||| bits w hi lo := by
  refine Nat.eq_of_testBit_eq fun n => ?_
  simp only [testBit_bits, Nat.testBit_or, Bool.and_or_distrib_left]

end Sys2Proof.Machine
end

section
/-! PROOFS. The supplies and the wakes (spec/02 R38 to R52, spec/24 R633 to R635): the losses of a supply, the power-loss
sequence, the rails and the wake sources. -/
namespace Sys2Proof.Machine

/-! ## The losses and the power-loss sequence -/

section
variable {s : State}

/-- A device that runs has no power loss under way. -/
theorem State.loss_eq_none (h : s.dead = false) : s.sup.loss = none := by
  simpa using (Bool.or_eq_false_iff.mp h).1

theorem State.powerFail_loss (h : s.dead = false) (c : LossCause) : (s.powerFail c).sup.loss = some c := by
  simp [State.powerFail, h]

@[simp] theorem State.supplyOut_pwr (s : State) : s.supplyOut.pwr = s.pwr := rfl

@[simp] theorem State.supplyOut_get (s : State) (f : Fld) (i j k : Nat) : s.supplyOut.get f i j k = s.get f i j k := rfl

@[simp] theorem State.goOff_off (s : State) : s.goOff.pwr.off = true := rfl

theorem execVinUndervoltage_running (h : s.dead = false) :
    execVinUndervoltage s =
      .next ((((s.put F.PWR_SUPPLY_STATUS_vin_ok 0).ev F.PWR_SUPPLY_STATUS_vin_uv_seen).powerFail .vinUv).supplyOut) := by
  simp [execVinUndervoltage, State.loss_eq_none h]

theorem execVinOvervoltage_running (h : s.dead = false) :
    execVinOvervoltage s = .next ((s.ev F.PWR_SUPPLY_STATUS_vin_ov_seen).powerFail .vinOv) := by
  simp [execVinOvervoltage, State.loss_eq_none h]

/-- What the end of the sequence shows, whatever the sequence has done before it. -/
theorem sequenceEnd_of (u : State) (hoff : u.pwr.off = true)
    (hwake : u.get F.PWR_DEV_STATUS_last_wake = V.PWR_DEV_STATUS_last_wake_NONE) :
    ∃ t, Host.Outcome.next (φ := Fault) (ρ := Refusal) { u with sup := { u.sup with loss := none } } = .next t ∧
      t.sup.loss = none ∧ t.pwr.off = true ∧ t.get F.PWR_DEV_STATUS_last_wake = V.PWR_DEV_STATUS_last_wake_NONE :=
  ⟨_, rfl, rfl, hoff, hwake⟩

theorem execPowerLossSequenceEnd_loss (h : s.sup.loss.isSome = true) :
    ∃ t, execPowerLossSequenceEnd s = .next t ∧ t.sup.loss = none ∧ t.pwr.off = true ∧
      t.get F.PWR_DEV_STATUS_last_wake = V.PWR_DEV_STATUS_last_wake_NONE := by
  have hsome : s.sup.loss.isNone = false := by simpa [Option.isSome_iff_ne_none] using h
  simp only [execPowerLossSequenceEnd, hsome, Bool.false_eq_true, if_false]
  refine sequenceEnd_of _ ?_ ?_
  · rw [State.when_keeps State.pwr _ _ _ State.supplyOut_pwr, State.put_pwr, State.goOff_off]
  · rw [State.when_keeps (fun t => t.get F.PWR_DEV_STATUS_last_wake) _ _ _ fun t => t.supplyOut_get _ _ _ _,
      State.get_put_same _ _ _ _ _ _ (by decide) (by decide)]
    rfl

end

/-- Settles O8: each meaning, run under the conditions of its clause. -/
theorem supplyLossCommandsComplete : Obligations.SupplyLossCommandsComplete := by
  refine ⟨fun s h => ?_, fun s h => ?_, fun s _ => ?_, fun s h => ?_, fun s x h => ?_, fun s phases h => ?_,
    fun s h => ?_⟩
  · exact Gives.eq (execVinUndervoltage_running h)
  · exact Gives.eq (execVinOvervoltage_running h)
  · exact Gives.eq rfl
  · exact ⟨_, rfl, rfl, State.powerFail_loss h _⟩
  · obtain ⟨hloss, hcommitted⟩ := h
    exact ⟨_, show execColophonCommitDone s = _ by simp [execColophonCommitDone, hloss, hcommitted], _, rfl, rfl⟩
  · obtain ⟨hloss, hcommitted, hgpf⟩ := h
    refine ⟨_, show execGpfDone phases s = _ from if_neg ?_, _, rfl, rfl⟩
    simp [Option.isSome_iff_ne_none.mp hloss, hcommitted, hgpf]
  · exact execPowerLossSequenceEnd_loss h

/-! ## The rails and the wake sources -/

section
variable {s : State}

/-- A wake of a device that is not OFF, with no request to OFF that holds it up, acts as R635 says. -/
theorem State.wakeBy_awake {fromOff : Bool} (hcan : s.canWake = true) (hon : s.pwr.off = false)
    (hreq : fromOff = true ∨ s.pwr.request = none) (cause pin : Nat) : s.wakeBy cause pin fromOff = s.wakeUp cause pin := by
  rcases hreq with rfl | hnone
  · simp [State.wakeBy, hcan, hon]
  · simp [State.wakeBy, hcan, hon, hnone]

/-- The first failure of a phase of a rail (R43): its spare phase takes the load. -/
theorem execRailPhaseFailure_first {rail : BitVec 5} (load : BitVec 7) (hrail : rail.toNat ≤ 16) (hrun : s.dead = false)
    (hnone : s.get F.PWR_RAIL_STATUS_phases_failed rail.toNat = 0) :
    execRailPhaseFailure rail load s =
      .next ((((((s.put F.PWR_RAIL_STATUS_load_pct load.toNat rail.toNat).put F.PWR_RAIL_STATUS_phases_failed 1
        rail.toNat).ev F.PWR_RAIL_STATUS_fault_seen rail.toNat).fault 6 false).log 0x50 2 rail.toNat [1]).ev
          F.PWR_RAIL_STATUS_spare_in_use rail.toNat) := by
  have hfirst : Nat.min (s.get F.PWR_RAIL_STATUS_phases_total rail.toNat - 1 + 1) 1 = 1 := Nat.min_eq_right (by omega)
  have hfailed : (s.put F.PWR_RAIL_STATUS_load_pct load.toNat rail.toNat).get F.PWR_RAIL_STATUS_phases_failed
      rail.toNat = _ := State.get_put_disjoint rfl (by decide) (by decide) (by decide)
  have htotal : (s.put F.PWR_RAIL_STATUS_load_pct load.toNat rail.toNat).get F.PWR_RAIL_STATUS_phases_total
      rail.toNat = _ := State.get_put_disjoint rfl (by decide) (by decide) (by decide)
  simp only [execRailPhaseFailure, hfailed, htotal, hnone, hfirst]
  rw [if_neg (by simp [hrun, hrail]), if_pos trivial]
  rfl

/-- Once the request has gone and no domain is entering a state, the end of the way to SLEEP sets the device's state
alone (R632). -/
theorem execDeviceStateReached_sleep {r : DevRequest} (hreq : s.pwr.request = some r) (hcommitted : r.committed = true)
    (htarget : r.target = 0) (hwake : s.pwr.wake = none) (hpair : s.domOn (domPair 0) = true)
    (hsettled : ∀ n ∈ upTo 471, s.dom n ≠ V.PWR_DOMAIN_STATUS_state_ENTERING) :
    execDeviceStateReached s =
      .next (({ s with pwr := { s.pwr with request := none, deep := false } }).setDev V.PWR_DEV_STATUS_state_SLEEP) := by
  have hon : s.get F.PWR_DOMAIN_STATUS_state (domPair 0) = V.PWR_DOMAIN_STATUS_state_ON := by simpa [State.domOn] using hpair
  simp [execDeviceStateReached, hreq, hcommitted, htarget, State.domOn, hon]
  rw [State.each_eq_self fun n hn => if_neg (hsettled n hn)]
  simp [State.setDev, hwake]

end

/-- Settles O9: each meaning, run under the conditions of its clause. -/
theorem supplyAndWakeCommandsComplete : Obligations.SupplyAndWakeCommandsComplete := by
  refine ⟨fun s => ?_, fun s h => ?_, fun s u hu h => ?_, fun s => ?_, fun s rail load h hphases => ?_, fun s hen h => ?_,
    fun s pin rising hen hpin h => ?_, fun s addr haddr h hstate => ?_, fun s hen h => ?_, fun s u hen hu h => ?_,
    fun s r h hwake => ?_, fun s r h hwake hpair hsettled => ?_⟩
  · exact Gives.eq rfl
  · obtain ⟨hloss, hlost, hasleep⟩ := h
    exact Gives.eq (show execStartConditionMet s = _ from if_neg (by simp [hloss, hlost, hasleep]))
  · subst hu
    exact Gives.eq (show execVauxLoss s = _ from if_neg (by simp [h]))
  · exact Gives.eq rfl
  · exact Gives.eq (execRailPhaseFailure_first load h.1 h.2 hphases.1)
  · refine Gives.eq (show execWakeNLow s = _ from ?_)
    rw [execWakeNLow, if_pos hen, State.wakeBy_awake h.1 h.2 (.inl rfl)]
  · refine Gives.eq (show execGioWakeEdge pin rising s = _ from ?_)
    simp only [execGioWakeEdge]
    rw [if_pos (by simp [hen, hpin]), State.wakeBy_awake h.1 h.2 (.inl rfl)]
  · obtain ⟨hcan, hoff, hdeep⟩ := h
    obtain ⟨hsleep, hreq⟩ := hstate
    refine Gives.eq (show execSmbusAddressMatch addr s = _ from ?_)
    simp only [execSmbusAddressMatch]
    rw [if_neg (by simp [haddr, hcan]), if_neg (by rw [hsleep, hoff, hdeep, hreq]; decide),
      State.wakeBy_awake hcan hoff (.inl rfl)]
  · obtain ⟨hcan, hoff, hreq⟩ := h
    refine Gives.eq (show execHostWake s = _ from ?_)
    rw [execHostWake, if_pos hen, State.wakeBy_awake hcan hoff (.inr hreq)]
  · subst hu
    obtain ⟨hcan, hoff, hreq⟩ := h
    refine Gives.eq (show execTimerWake s = _ from ?_)
    simp only [execTimerWake]
    rw [if_neg (by simp [hen]), State.wakeBy_awake hcan hoff (.inr hreq)]
  · obtain ⟨hreq, hcommitted, htarget⟩ := h
    refine Gives.eq (show execDeviceStateReached s = _ from ?_)
    simp [execDeviceStateReached, hreq, hcommitted, htarget, hwake]
  · obtain ⟨hreq, hcommitted, htarget⟩ := h
    exact Gives.eq (execDeviceStateReached_sleep hreq hcommitted htarget hwake hpair (by simpa using hsettled))

end Sys2Proof.Machine
end

section
/-! PROOFS. The start sequence (spec/04 R88 to R119): its steps and timeouts, restarts, the rollback minimum and the image
selection. -/
namespace Sys2Proof.Machine

/-! ## What a start leaves in `State.boot` -/

@[simp] theorem State.showStart_boot (s : State) : s.showStart.boot = s.boot := by
  unfold State.showStart
  extract_lets step s'
  have hs' : s'.boot = s.boot := by
    unfold s'
    cases step with
    | none => rfl
    | some n => exact State.put_boot ..
  rw [State.put_boot, State.put_boot, hs']

@[simp] theorem State.setDev_boot (s : State) (st : Nat) : (s.setDev st).boot = s.boot :=
  State.put_boot ..

/-- A start runs from its first step, by its cause (R88). -/
theorem State.start_boot (s : State) (first cause : Nat) :
    (s.start first cause).boot.active = [first] ∧ (s.start first cause).boot.cause = cause := by
  unfold State.start
  extract_lets fresh lost learn stretch b dev perst ras sup colo t0 t1 t2 t3
  have hlearn : t2.boot = t1.boot := State.when_keeps State.boot _ _ _ fun u => State.put_boot ..
  have ht : t3.showStart.boot = b := by
    rw [State.showStart_boot, State.put_boot, State.setDev_boot, State.setWord_boot, hlearn, State.put_boot,
      State.setWord_boot]
  rw [ht]
  exact ⟨rfl, rfl⟩

/-! ## Steps and their ends -/

section
variable {s : State}

theorem execStepTimeout_running {step : BitVec 5} (hrun : s.dead = false) (hlink : step.toNat ≠ 3)
    (hactive : step.toNat ∈ s.boot.active) :
    execStepTimeout step s =
      .next ((s.setStep step.toNat (Tbl.get 0 s.boot.plan step.toNat) Done.FAILED 0x16 0).autoRestart step.toNat) := by
  simp [execStepTimeout, hrun, hlink, hactive]

theorem execLinkTimeout_running (hrun : s.dead = false) (hactive : 3 ∈ s.boot.active)
    (hperst : s.on F.HIF_LINK_STATUS_perst_n = true) :
    ∃ t, execLinkTimeout s = .next t ∧ ∃ u : State, u = (s.setStep 3 0 Done.FAILED 5 0).stepOut 3 ∧
      t = { u with boot := { u.boot with endedS03 := true } } := by
  refine ⟨_, if_neg ?_, _, rfl, rfl⟩
  simp [hrun, hactive, hperst]

/-! ## Writes of BOOT.CTRL without restart (R109, R114) -/

theorem State.writeBootCtrl_noRestart {p : Path} {v : Word} (hw : s.writable p Reg.BOOT_CTRL 0 0 0 v = true)
    (hrestart : bit v.toNat 3 = false) : (s.writeBootCtrl p v).1 = s.besideRestart v := by
  rw [State.writeBootCtrl, State.guardWrite_writable hw rfl]
  simp only [hrestart, Bool.false_and, Bool.false_eq_true, if_false, State.when_false]
  rfl

theorem State.besideRestart_clearLearned (s : State) : s.besideRestart 0x40#32 = s.ev F.BOOT_CTRL_clear_learned := rfl

theorem State.besideRestart_commit (hready : s.boot.ready = true) : s.besideRestart 0x80#32 = s.commitRollback := by
  have hbit : bit (0x80#32).toNat 7 = true := rfl
  have hclear : bit (0x80#32).toNat 6 = false := rfl
  simp only [State.besideRestart, hbit, hclear, State.when_false, hready, Bool.and_self, State.when_true]

/-- A running slot above the fused minimum raises it (R109). -/
theorem State.commitRollback_above (hslot : 1 < s.boot.fwRunning)
    (habove : s.colo.fuseRollback < (Tbl.get {} s.colo.slots (s.boot.fwRunning - 1)).rollback) :
    s.commitRollback.colo =
        { s.colo with fuseRollback := (Tbl.get {} s.colo.slots (s.boot.fwRunning - 1)).rollback } ∧
      s.commitRollback.get F.BOOT_EVENTS_rollback_committed = 1 := by
  have hne : s.boot.fwRunning - 1 ≠ 0 := by omega
  unfold State.commitRollback
  extract_lets slot v s'
  rw [if_neg hne, if_neg (Nat.not_le.mpr habove)]
  exact ⟨rfl, State.get_put_same _ _ _ _ _ _ (by decide) (by decide)⟩

end

/-- Settles O10: each meaning, run under the conditions of its clause. -/
theorem startCommandsComplete : Obligations.StartCommandsComplete := by
  refine ⟨fun s r h hcause => ?_, fun s r h => ?_, fun s r h => ?_, fun s step h => ?_, fun s h => ?_, fun s h => ?_,
    fun s h => ?_, fun s rate width flit h hperst hdown => ?_, fun s p hw hlanes => ?_,
    fun s p hw hready habove => ?_, fun s p hw => ?_, fun s p v hw => ?_⟩
  · exact Gives.eq (show execStartStepDone 4 r s = _ from (if_neg (by simpa using h)).trans (congrArg _ (if_neg hcause)))
  · exact ⟨_, show execStartStepDone 15 r s = _ from (if_neg (by simpa using h)).trans rfl, _, _, rfl, rfl, rfl⟩
  · exact Gives.eq (show execStartStepDone 16 r s = _ from (if_neg (by simpa using h)).trans rfl)
  · obtain ⟨hrun, hlink, hactive⟩ := h
    exact Gives.eq (execStepTimeout_running hrun hlink hactive)
  · obtain ⟨hrun, hready, hhalted⟩ := h
    exact Gives.eq (show execMgmtWatchdogExpiry s = _ from if_neg (by simp [hrun, hready, hhalted]))
  · exact ⟨_, show execResetPin s = _ by rw [execResetPin, h]; rfl, rfl, s.start_boot 2 Start.RESET_PIN⟩
  · obtain ⟨hrun, hactive, hperst⟩ := h
    exact execLinkTimeout_running hrun hactive hperst
  · obtain ⟨hrun, hhost, hended⟩ := h
    exact Gives.eq (show execLinkTrainRetry true rate width flit s = _ from
      (if_neg (by simp [hrun, hhost, hended, hperst, hdown])).trans (if_pos rfl))
  · exact Gives.eq (congrArg Host.Outcome.next ((State.writeBootCtrl_restartWord (key := 0x5140) hw).trans (if_pos ⟨rfl, hlanes⟩)))
  · refine Gives.of_exec (congrArg Host.Outcome.next (State.writeBootCtrl_noRestart hw rfl)) ?_
    rw [State.besideRestart_commit hready.1]
    exact State.commitRollback_above hready.2 habove
  · exact Gives.eq (congrArg Host.Outcome.next (State.writeBootCtrl_noRestart hw rfl))
  · refine ⟨_, congrArg Host.Outcome.next (congrArg Prod.fst (State.guardWrite_writable hw rfl)), _, rfl, rfl⟩

end Sys2Proof.Machine
end

section
/-! PROOFS. The reference sources, the root and the clock registers (spec/03 R53 to R87), and the timebase commands (R72 to
R74). -/
namespace Sys2Proof.Machine

/-! ## Candidates -/

section
variable {s : State}

/-- A dropped candidate is neither ready nor has passing gates (R55). -/
theorem State.dropReady_cleared (s : State) (n : Nat) :
    (s.dropReady n).get F.CLK_CAND_STATUS_ready n = 0 ∧ (s.dropReady n).get F.CLK_CAND_STATUS_pass_count n = 0 := by
  simp (disch := first | exact id rfl | decide) [State.dropReady, State.get_when, State.get_put_apart,
    State.get_put_disjoint, State.get_put_same]

theorem State.dropReady_shown (s : State) (n : Nat) :
    (s.dropReady n).get F.CLK_CAND_STATUS_present n = s.get F.CLK_CAND_STATUS_present n ∧
      (s.dropReady n).get F.CLK_CAND_STATUS_offset n = s.get F.CLK_CAND_STATUS_offset n := by
  simp (disch := first | exact id rfl | decide) [State.dropReady, State.get_when, State.get_put_apart,
    State.get_put_disjoint]

theorem State.dropReady_root (s : State) (n : Nat) :
    (s.dropReady n).get F.CLK_STATUS_root_state = s.get F.CLK_STATUS_root_state := by
  simp (disch := first | exact id rfl | decide) [State.dropReady, State.get_when, State.get_put_apart]

theorem State.dropReady_clk (s : State) (n : Nat) : (s.dropReady n).clk = s.clk := by
  simp -implicitDefEqProofs [State.dropReady, State.clk_when]

/-- A gate with edges but out of the window (R55): the candidate is present, with its offset, and has no passing gates. -/
theorem execQualGateEnd_outOfWindow {n : BitVec 2} {offset : BitVec 16} (hen : s.on F.CLK_CAND_enable n.toNat = true)
    (hmems : s.on F.CLK_STATUS_mems_ok = true)
    (hout : 10 * s.get F.CLK_QUAL_CFG_window_ppm < offset.toInt.natAbs) :
    ∃ t, execQualGateEnd n true offset s = .next t ∧ t.get F.CLK_CAND_STATUS_present n.toNat = 1 ∧
      t.get F.CLK_CAND_STATUS_offset n.toNat = offset.toNat ∧ t.get F.CLK_CAND_STATUS_ready n.toNat = 0 ∧
      t.get F.CLK_CAND_STATUS_pass_count n.toNat = 0 := by
  have hfail : (true && decide (offset.toInt.natAbs ≤ 10 * s.get F.CLK_QUAL_CFG_window_ppm)) = false := by
    simpa using hout
  have hoffset : offset.toNat % 2 ^ 16 = offset.toNat := Nat.mod_eq_of_lt offset.isLt
  simp only [execQualGateEnd, hen, hmems, hfail, Bool.not_true, Bool.or_self, Bool.false_eq_true, if_false]
  refine ⟨_, rfl, ?_⟩
  simp -implicitDefEqProofs (disch := first | exact id rfl | decide) [State.dropReady_cleared,
    State.dropReady_shown, State.get_put_disjoint, State.get_put_same, b2n]
  exact hoffset

theorem execCandidateEdgeTimeout_enabled {n : BitVec 2} (hen : s.on F.CLK_CAND_enable n.toNat = true)
    (hmems : s.on F.CLK_STATUS_mems_ok = true) :
    ∃ t, execCandidateEdgeTimeout n s = .next t ∧ t.get F.CLK_CAND_STATUS_present n.toNat = 0 ∧
      t.get F.CLK_CAND_STATUS_ready n.toNat = 0 ∧ t.get F.CLK_CAND_STATUS_pass_count n.toNat = 0 := by
  have hmems' : (s.clr F.CLK_CAND_STATUS_present n.toNat).on F.CLK_STATUS_mems_ok = true := by
    rw [State.on, State.clr_eq, State.get_put_apart (by decide)]
    exact hmems
  simp only [execCandidateEdgeTimeout, hen, hmems', Bool.not_true, Bool.false_eq_true, if_false]
  refine ⟨_, rfl, ?_⟩
  split
  all_goals simp -implicitDefEqProofs (disch := first | exact id rfl | decide) [State.dropReady_cleared,
    State.dropReady_shown, State.get_put_same]

/-! ## The root -/

theorem execMemsFailed_active (hactive : s.get F.CLK_STATUS_active_source = srcMems)
    (hroot : s.get F.CLK_STATUS_root_state ≠ Root.START) :
    ∃ t, execMemsFailed s = .next t ∧ t.get F.CLK_STATUS_mems_ok = 0 ∧
      t.get F.CLK_STATUS_root_state = Root.NO_REFERENCE ∧ t.get F.CLK_REF_EVENTS_no_reference = 1 := by
  simp -implicitDefEqProofs (disch := first | exact id rfl | decide) [execMemsFailed, hactive, hroot,
    State.get_put_disjoint, State.get_put_same, State.get_put_apart]
  decide

theorem execMemsRecovered_referenced (hroot : s.get F.CLK_STATUS_root_state ≠ Root.NO_REFERENCE) :
    execMemsRecovered s = .next { s.put F.CLK_STATUS_mems_ok 1 with clk := { s.clk with memsGood := 10 } } := by
  simp -implicitDefEqProofs (disch := first | exact id rfl | decide) [execMemsRecovered, State.leaveNoReference,
    State.get_put_disjoint, hroot]

theorem execActiveSourceLost_locked (hroot : s.get F.CLK_STATUS_root_state = Root.LOCKED)
    (hactive : s.get F.CLK_STATUS_active_source ≠ srcMems) :
    ∃ t, execActiveSourceLost s = .next t ∧ t.get F.CLK_STATUS_root_state = Root.HOLDOVER ∧
      t.get F.CLK_REF_EVENTS_active_lost = 1 ∧
      t.clk = { s.clk with lost := some (s.get F.CLK_STATUS_active_source) } := by
  have hheld : (s.put F.CLK_STATUS_root_state Root.HOLDOVER).get F.CLK_STATUS_root_state = Root.HOLDOVER :=
    State.get_put_fits (by decide) (by decide) (by decide)
  have hclk : (s.put F.CLK_STATUS_root_state Root.HOLDOVER).clk = s.clk := State.put_clk ..
  refine ⟨_, rfl, ?_⟩
  simp only [State.activeLost, hroot, hactive, ne_eq, not_false_eq_true, and_self, if_true]
  generalize State.put s F.CLK_STATUS_root_state Root.HOLDOVER = u at hheld hclk ⊢
  cases u.candOf (s.get F.CLK_STATUS_active_source) with
  | none =>
    simp -implicitDefEqProofs (disch := first | exact id rfl | decide) [State.get_put_fits, State.get_put_apart,
      hheld, hclk]
  | some n =>
    by_cases hmems : u.on F.CLK_STATUS_mems_ok
    all_goals
      simp -implicitDefEqProofs (disch := first | exact id rfl | decide) [hmems, State.dropReady_clk,
        State.dropReady_root, State.get_put_fits, State.get_put_apart, hheld, hclk]

theorem execFallbackChosen_found {src : Nat} (hroot : s.get F.CLK_STATUS_root_state = Root.HOLDOVER)
    (hsrc : s.fallback = some src) :
    ∃ t, execFallbackChosen s = .next t ∧ t.get F.CLK_STATUS_root_state = Root.SWITCHING ∧
      t.get F.CLK_REF_EVENTS_fallback_done = 1 ∧
      t.clk = { s.clk with target := src, userSwitch := false, reverting := true, revertGates := 0 } := by
  simp only [execFallbackChosen, hroot, if_true, hsrc]
  refine ⟨_, rfl, ?_⟩
  simp -implicitDefEqProofs (disch := first | exact id rfl | decide) [State.get_log, State.get_fault, State.slewTo, 
        State.get_put_fits, State.get_put_apart]

theorem execRefSwitch_mems {p : Path} {v : Word} (hw : s.writable p Reg.CLK_REF_CTRL 0 0 0 (v ||| 0x1000#32) = true)
    (hsrc : bits v.toNat 10 0 = srcMems) (hmems : s.on F.CLK_STATUS_mems_ok = true)
    (hring : s.on F.CLK_STATUS_ring_member = false) (hroot : s.get F.CLK_STATUS_root_state = Root.LOCKED)
    (hactive : s.get F.CLK_STATUS_active_source ≠ srcMems) :
    ∃ t, execRefSwitch p v s = .next t ∧ t.get F.CLK_STATUS_root_state = Root.SWITCHING ∧
      t.clk = { s.clk with target := srcMems, userSwitch := true, reverting := false } := by
  have hsrc' : bits (v ||| 0x1000#32).toNat 10 0 = srcMems := by
    rw [BitVec.toNat_or, bits_or, hsrc]
    rfl
  have hswitch : bit (v ||| 0x1000#32).toNat 12 = true := by
    rw [bit, BitVec.toNat_or, Nat.testBit_or, show Nat.testBit (0x1000#32).toNat 12 = true from rfl, Bool.or_true]
  rw [execRefSwitch, State.writeRefCtrl, hsrc',
    State.guardWrite_writable hw (show (!srcLegal srcMems) = false from rfl)]
  simp only [hswitch, hmems, hring, State.srcReady, if_true, Bool.not_true, Bool.false_eq_true, if_false, ne_eq,
    not_true_eq_false, false_and]
  have hroot' : ((s.applyWrite p Reg.CLK_REF_CTRL 0 0 0 (v ||| 0x1000#32)).clr F.CLK_REF_CTRL_switch).get
      F.CLK_STATUS_root_state = Root.LOCKED := by
    rw [State.clr_eq, State.get_put_apart (by decide),
      State.get_applyWrite_apart (by decide) _ _ _ _ _ _ (by decide), hroot]
  have hactive' : ((s.applyWrite p Reg.CLK_REF_CTRL 0 0 0 (v ||| 0x1000#32)).clr F.CLK_REF_CTRL_switch).get
      F.CLK_STATUS_active_source ≠ srcMems := by
    rw [State.clr_eq, State.get_put_apart (by decide), State.get_applyWrite_apart (by decide) _ _ _ _ _ _ (by decide)]
    exact hactive
  rw [if_neg fun h => hactive' h.2.symm, if_pos (.inl hroot')]
  refine ⟨_, rfl, ?_⟩
  simp -implicitDefEqProofs (disch := first | exact id rfl | decide) [State.slewTo, State.get_put_fits,
    State.applyWrite_clk]

theorem execRootLockReached_switching (hroot : s.get F.CLK_STATUS_root_state = Root.SWITCHING)
    (hrole : s.get F.BRY_RING_STATUS_role ≠ V.BRY_RING_CFG_role_MEMBER) (htarget : s.clk.target < 2048) :
    ∃ t, execRootLockReached s = .next t ∧ t.get F.CLK_STATUS_root_state = Root.LOCKED ∧
      t.get F.CLK_STATUS_active_source = s.clk.target ∧ t.clk = { s.clk with userSwitch := false } := by
  rw [execRootLockReached, if_pos hroot]
  refine ⟨_, rfl, ?_⟩
  have hfits : s.clk.target < 2 ^ F.CLK_STATUS_active_source.width := htarget
  simp -implicitDefEqProofs (disch := first | exact id rfl | decide | assumption) [State.followRing, State.get_when,
    State.clk_when, State.get_put_fits, State.get_put_apart, State.get_put_disjoint, hrole]

theorem execAutoRevert_due (hrevert : s.get F.CLK_REF_CTRL_revert = V.CLK_REF_CTRL_revert_AUTO)
    (hback : s.clk.reverting = true) (hgates : 1000 ≤ s.clk.revertGates)
    (hready : s.srcReady (s.get F.CLK_REF_CTRL_req_source) = true) (hroot : s.get F.CLK_STATUS_root_state = Root.LOCKED) :
    ∃ t, execAutoRevert s = .next t ∧ t.get F.CLK_STATUS_root_state = Root.SWITCHING ∧
      t.get F.CLK_REF_EVENTS_reverted = 1 ∧
      t.clk = { s.clk with target := s.get F.CLK_REF_CTRL_req_source, userSwitch := false, reverting := false } := by
  rw [execAutoRevert, if_pos ⟨hrevert, hback, hgates, hready, hroot⟩]
  refine ⟨_, rfl, ?_⟩
  simp -implicitDefEqProofs (disch := first | exact id rfl | decide) [State.slewTo, State.get_put_fits,
    State.get_put_apart]

/-! ## Register writes and the 1-PPS capture -/

section
variable {p : Path} {v : Word}

theorem execCandWrite_sameSource {n : BitVec 2} (hw : s.writable p Reg.CLK_CAND n.toNat 0 0 v = true)
    (hlegal : srcLegal (bits v.toNat 10 0) = true) (hkind : srcKind (bits v.toNat 10 0) ≠ 0)
    (hoff : bit v.toNat 31 = false) (hdis : s.on F.CLK_CAND_enable n.toNat = false)
    (hsame : s.get F.CLK_CAND_source n.toNat = bits v.toNat 10 0) :
    execCandWrite p n v s = .next (s.applyWrite p Reg.CLK_CAND n.toNat 0 0 v) := by
  rw [execCandWrite, State.writeCand, State.guardWrite_writable hw (by simp [hlegal, hkind])]
  simp -implicitDefEqProofs only [hoff, hdis, hsame, Bool.false_and, Bool.false_eq_true, if_false,
    bne_self_eq_false, Bool.or_self, State.when_false]

theorem execOutCtrlWrite_frequency {n : Nat} (hn : 3 ≤ n ∧ n < 7) (hw : s.writable p Reg.CLK_OUT_CTRL n 0 0 v = true)
    (hf : 1000 ≤ bits v.toNat 17 0 ∧ bits v.toNat 17 0 ≤ 250000) (hssc : bits v.toNat 30 29 = 0) :
    execOutCtrlWrite p n v s = .next (s.applyWrite p Reg.CLK_OUT_CTRL n 0 0 v) := by
  obtain ⟨hlow, hhigh⟩ := hn
  have hpin : ¬ n < 3 := by omega
  rw [execOutCtrlWrite, if_pos hhigh, State.writeOutCtrl, State.guardWrite_writable hw (by simp [hpin, hssc, hf]),
    if_neg hpin]

theorem execFreqAdjWrite_ownRoot (hw : s.writable p Reg.CLK_FREQ_ADJ 0 0 0 v = true)
    (hring : s.on F.CLK_STATUS_ring_member = false) :
    execFreqAdjWrite p v s = .next { s.applyWrite p Reg.CLK_FREQ_ADJ 0 0 0 v with
      clk := { (s.applyWrite p Reg.CLK_FREQ_ADJ 0 0 0 v).clk with adj := sext 24 v.toNat } } := by
  rw [execFreqAdjWrite, State.writeFreqAdj, State.guardWrite_writable hw rfl, hring]
  rfl

end

theorem execPpsEdge_capture {pin : Nat} (hpin : pin < 192) (hfun : s.get F.GIO_PIN_CFG_function pin = 4) :
    ∃ t, execPpsEdge pin s = .next t ∧ t.pair Reg.CLK_PPS_CAP_LO Reg.CLK_PPS_CAP_HI = s.now ∧
      t.get F.CLK_PPS_COUNT_value = (s.get F.CLK_PPS_COUNT_value + 1) % 2 ^ 32 := by
  rw [execPpsEdge, if_neg (by omega), if_pos hfun]
  refine ⟨_, rfl, ?_, ?_⟩
  · have hnow : s.now < 2 ^ 64 := s.clk.timebase.isLt
    simp (disch := first | exact id rfl | decide) [State.pair, State.setPair, State.word_put_apart,
      State.word_setWord_apart, State.word_setWord_same]
    omega
  · simp (disch := first | exact id rfl | decide) [State.setPair, State.get_put_same, State.get_setWord_apart]
    rfl

end

/-- Settles O11: each clause is the lemma above about its command; GLOBAL_DIV_WRITE adds no rule to R706. -/
theorem clockCommandsComplete : Obligations.ClockCommandsComplete := by
  refine ⟨fun s n offset => execQualGateEnd_outOfWindow, fun s n => execCandidateEdgeTimeout_enabled,
    fun s => execMemsFailed_active, fun s hroot => Gives.eq (execMemsRecovered_referenced hroot),
    fun s => execActiveSourceLost_locked, fun s src => execFallbackChosen_found, fun s p v => execRefSwitch_mems,
    fun s => execRootLockReached_switching, fun s => execAutoRevert_due,
    fun s p n v hw hlegal hkind hoff hdis hsame =>
      Gives.eq (execCandWrite_sameSource hw hlegal hkind hoff hdis hsame),
    fun s p n v hw => Gives.eq (congrArg (fun r : State × Nat => Host.Outcome.next r.1) (State.plainWrite_writable hw)),
    fun s p n v hn hw hf hssc => Gives.eq (execOutCtrlWrite_frequency hn hw hf hssc),
    fun s p v hw hring => Gives.eq (execFreqAdjWrite_ownRoot hw hring), fun s pin => execPpsEdge_capture⟩

/-! ## The timebase commands (R72 to R74) -/

section
variable {s : State} {p : Path}

/-- What a SET (or STEP) for now asks: the pair CLK.TIME_SET on a root cycle. -/
def State.timeWanted (s : State) (step : Bool) : TimeReq :=
  { step := step, value := BitVec.ofNat 64 (s.pair Reg.CLK_TIME_SET_LO Reg.CLK_TIME_SET_HI / 8 * 8), at? := none }

/-- A request for now, outside a ring and not as its master, waits with no time. -/
theorem State.timeRequest_now (hring : s.on F.CLK_STATUS_ring_member = false)
    (hmaster : s.ringMaster = false) (step : Bool) :
    s.timeRequest step false =
      ({ s with clk := { s.clk with pending := some (s.timeWanted step) } }).put F.CLK_TIME_CMD_pending 1 := by
  simp -implicitDefEqProofs [State.timeRequest, State.timeWanted, hring, hmaster]

/-- The state in which TIME_CMD acts on a word `v` that says go: the word stands and go is clear. -/
def State.timeGo (s : State) (p : Path) (v : Word) : State :=
  (s.applyWrite p Reg.CLK_TIME_CMD 0 0 0 v).put F.CLK_TIME_CMD_go 0

section
variable {v : Word}

theorem State.timeGo_clk : (s.timeGo p v).clk = s.clk := by
  rw [State.timeGo, State.put_clk, State.applyWrite_clk (by decide)]

theorem State.get_timeGo_apart {f : Fld} {i j k : Nat} (hf : Reg.CLK_TIME_CMD.apart f.r = true) :
    (s.timeGo p v).get f i j k = s.get f i j k := by
  rw [State.timeGo, State.get_put_apart hf, State.get_applyWrite_apart (by decide) _ _ _ _ _ _ hf]

theorem State.word_timeGo_apart {r : RegDef} {i j k : Nat} (hr : Reg.CLK_TIME_CMD.apart r = true) :
    (s.timeGo p v).word r i j k = s.word r i j k := by
  rw [State.timeGo, State.word_put_apart hr, State.word_applyWrite_apart (by decide) _ _ _ _ _ _ hr]

theorem State.timeGo_go : (s.timeGo p v).get F.CLK_TIME_CMD_go = 0 := State.get_put_fits (by decide) (by decide) (by decide)

theorem State.timeGo_op : (s.timeGo p v).get F.CLK_TIME_CMD_op = bits v.toNat 5 4 := by
  rw [State.timeGo]
  simp (disch := first | exact id rfl | decide) only [State.get_put_disjoint]
  exact State.get_applyWrite_stored (f := F.CLK_TIME_CMD_op) (by decide) s p 0 0 0 v

theorem State.timeGo_at : (s.timeGo p v).get F.CLK_TIME_CMD_at_enable = bits v.toNat 3 3 := by
  rw [State.timeGo]
  simp (disch := first | exact id rfl | decide) only [State.get_put_disjoint]
  exact State.get_applyWrite_stored (f := F.CLK_TIME_CMD_at_enable) (by decide) s p 0 0 0 v

theorem State.timeGo_ringMaster : (s.timeGo p v).ringMaster = s.ringMaster := by
  rw [State.ringMaster, State.get_timeGo_apart (by decide), State.get_timeGo_apart (by decide), State.ringMaster]

theorem State.timeGo_timeWanted (step : Bool) : (s.timeGo p v).timeWanted step = s.timeWanted step := by
  rw [State.timeWanted, State.pair, State.word_timeGo_apart (by decide), State.word_timeGo_apart (by decide),
    State.timeWanted, State.pair]

variable (hw : s.writable p Reg.CLK_TIME_CMD 0 0 0 v = true) (hgo : bit v.toNat 0 = true)
include hw hgo

theorem State.writeTimeCmd_request (hop : bits v.toNat 5 4 ≠ V.CLK_TIME_CMD_op_CANCEL) (hat : bits v.toNat 3 3 = 0) :
    (s.writeTimeCmd p v).1 = (s.timeGo p v).timeRequest (bits v.toNat 5 4 == V.CLK_TIME_CMD_op_STEP) false := by
  have hgo' : (s.applyWrite p Reg.CLK_TIME_CMD 0 0 0 v).get F.CLK_TIME_CMD_go = 1 :=
    State.get_applyWrite_setByOne (f := F.CLK_TIME_CMD_go) (by decide) hgo s p 0 0 0
  rw [State.writeTimeCmd, State.guardWrite_writable hw rfl]
  simp only [State.on, hgo', beq_self_eq_true, Bool.not_true, Bool.false_eq_true, if_false]
  rw [← State.timeGo, State.timeGo_op, State.timeGo_at, hat, if_neg hop]
  rfl

theorem State.writeTimeCmd_cancel (hop : bits v.toNat 5 4 = V.CLK_TIME_CMD_op_CANCEL)
    (hpending : s.clk.pending.isSome = true) :
    (s.writeTimeCmd p v).1 = (s.timeGo p v).timeIdle.timeResult V.CLK_TIME_CMD_result_CANCELLED := by
  have hgo' : (s.applyWrite p Reg.CLK_TIME_CMD 0 0 0 v).get F.CLK_TIME_CMD_go = 1 :=
    State.get_applyWrite_setByOne (f := F.CLK_TIME_CMD_go) (by decide) hgo s p 0 0 0
  rw [State.writeTimeCmd, State.guardWrite_writable hw rfl]
  simp only [State.on, hgo', beq_self_eq_true, Bool.not_true, Bool.false_eq_true, if_false]
  rw [← State.timeGo, State.timeGo_op, if_pos hop, State.timeGo_clk, if_pos hpending]

/-- A SET or STEP that takes effect at once waits to be applied (R72). -/
theorem State.writeTimeCmd_waits (hop : bits v.toNat 5 4 ≠ V.CLK_TIME_CMD_op_CANCEL) (hat : bits v.toNat 3 3 = 0)
    (hring : s.on F.CLK_STATUS_ring_member = false ∧ s.ringMaster = false) :
    (s.writeTimeCmd p v).1.clk =
        { s.clk with pending := some (s.timeWanted (bits v.toNat 5 4 == V.CLK_TIME_CMD_op_STEP)) } ∧
      (s.writeTimeCmd p v).1.get F.CLK_TIME_CMD_pending = 1 ∧ (s.writeTimeCmd p v).1.get F.CLK_TIME_CMD_go = 0 := by
  obtain ⟨hmember, hmaster⟩ := hring
  have hmember' : (s.timeGo p v).on F.CLK_STATUS_ring_member = false := by
    rw [State.on, State.get_timeGo_apart (by decide)]
    exact hmember
  rw [State.writeTimeCmd_request hw hgo hop hat,
    State.timeRequest_now hmember' (State.timeGo_ringMaster.trans hmaster), State.timeGo_timeWanted]
  simp -implicitDefEqProofs (disch := first | exact id rfl | decide) [State.timeGo_clk, State.get_put_fits,
    State.get_put_disjoint, State.timeGo_go]

end

theorem execTimeCmdApply_now {r : TimeReq} {x : Nat} (hr : s.clk.pending = some r) (hat : r.at? = none)
    (hx : r.target s.now = some x) (hfwd : s.now ≤ x) :
    execTimeCmdApply s = .next ((s.timeIdle.setTime x (if r.step then 2 else 1)).timeResult V.CLK_TIME_CMD_result_DONE) := by
  have hback : ¬ x < s.now := by omega
  simp only [execTimeCmdApply, hr, hat, hx, hback, false_and, if_false]

end

/-- Settles O12: SET and STEP wait to be applied, CANCEL drops the command that waits, and one without a time is applied. -/
theorem timebaseCommandsComplete : Obligations.TimebaseCommandsComplete := by
  refine ⟨fun s p hw hring => Gives.of_exec rfl (State.writeTimeCmd_waits hw rfl (by decide) rfl hring),
    fun s p hw hring => Gives.of_exec rfl (State.writeTimeCmd_waits hw rfl (by decide) rfl hring), fun s p hw hpending => ?_,
    fun s r x hr hat hx hfwd => Gives.eq (execTimeCmdApply_now hr hat hx hfwd)⟩
  refine ⟨_, congrArg Host.Outcome.next (State.writeTimeCmd_cancel hw rfl rfl hpending), ?_⟩
  simp -implicitDefEqProofs (disch := first | exact id rfl | decide) [State.timeResult, State.timeIdle,
    State.timeGo_clk, State.get_put_fits, State.get_put_disjoint]

end Sys2Proof.Machine
end

section
/-! PROOFS. The statement about the fabric commands (spec/05, spec/06) fails at an injection of two bits (R148). -/
namespace Sys2Proof.Machine

/-- An injection of a double error: `go` and `double` of FAB.MEM_INJECT, at bit 0 of word 0 of memory 0. -/
def injectDouble : Word := 0xC0000000#32

/-- Refutes O13: MEM_INJECT flips a second bit where `double`, bit 30, is set (R148), and the clause asks only that bit 16,
a reserved one, is clear. In a loaded section of the owner the word at address 0 of memory 0 then has bits 0 and 1
flipped, where the clause says bit 0. -/
theorem not_fabricCommandsComplete : ¬ Obligations.FabricCommandsComplete := by
  unfold Obligations.FabricCommandsComplete
  rintro ⟨-, -, -, -, -, -, -, -, -, -, -, -, -, -, hinject, -⟩
  obtain ⟨t, hexec, k, rfl, hfab⟩ := hinject (wFab 3 Sec.LOADED) .bar0 3 injectDouble (by decide) (by decide) (by decide)
  have hrun : execMemInject .bar0 3 injectDouble false (wFab 3 Sec.LOADED) = .next t := hexec
  have hflips : (t.memAt (memKey 3 0 0)).2 = 2 ^ 0 + 2 ^ 1 := by
    rw [← Host.Outcome.next.inj hrun]
    decide
  have hone : (t.memAt (memKey 3 0 0)).2 = 2 ^ 0 := by
    rw [State.memAt, hfab]
    decide
  exact absurd (hflips.symm.trans hone) (by decide)

end Sys2Proof.Machine
end

section
/-! PROOFS. The lane commands (spec/07 R169 to R186): enable and disable, the octet PLLs, the equaliser's registers and the
lane states. -/
namespace Sys2Proof.Machine

section
variable {s : State} {p : Path}

/-! ## Enable and disable -/

@[simp] theorem State.loadOctet_lanes (l : Nat) : (s.loadOctet l).lanes = s.lanes :=
  (State.loadOctet_kept s l Kept.of_keeps Kept.of_allows).lanes rfl

theorem bit_and_disable (v : Word) : bit (v &&& 0x7FFFFFFF#32).toNat 31 = false := by
  rw [bit, BitVec.toNat_and, Nat.testBit_and]
  exact Bool.and_false _

section
variable {lane : BitVec 9} {v : Word} {l : Nat} (hl : l = lane.toNat)
include hl

theorem execLaneEnable_accepted (hw : s.writable p Reg.LANE_CTRL l 0 0 (v ||| 0x80000000#32) = true)
    (hdisabled : s.on F.LANE_CTRL_enable l = false) (hrate : s.rateOk l = true) (hoctet : s.octetConflict l = false)
    (hstate : s.laneState l = Ln.DISABLED) (hprobe : (s.lane l).probe = none) :
    execLaneEnable p lane v s = .next ((((s.loadOctet l).applyWrite p Reg.LANE_CTRL l 0 0
      (v ||| 0x80000000#32)).octetInUse (l / 8)).enterLane l) := by
  have havailable : ¬ s.laneState l = Ln.UNAVAILABLE := by
    rw [hstate]
    decide
  have hlanes : (((s.loadOctet l).applyWrite p Reg.LANE_CTRL l 0 0 (v ||| 0x80000000#32)).octetInUse (l / 8)).lanes =
      s.lanes := by
    rw [State.octetInUse, State.put_lanes, State.applyWrite_eq_setWord (by decide), State.setWord_lanes,
      State.loadOctet_lanes]
  have hidle : ((((s.loadOctet l).applyWrite p Reg.LANE_CTRL l 0 0 (v ||| 0x80000000#32)).octetInUse (l / 8)).lane
      l).probe = none := by
    rw [State.lane, hlanes]
    exact hprobe
  rw [execLaneEnable, ← hl, State.writeLaneCtrl, State.guardWrite_writable hw rfl]
  simp only [bit_or_enable, hdisabled, hrate, hoctet, havailable, hidle, Bool.false_and, Bool.not_true,
    Bool.false_eq_true, if_false]

theorem execLaneDisable_accepted (hw : s.writable p Reg.LANE_CTRL l 0 0 (v &&& 0x7FFFFFFF#32) = true)
    (henabled : s.on F.LANE_CTRL_enable l = true) (hsource : s.get F.CLK_STATUS_active_source ≠ 512 + l) :
    execLaneDisable p lane v s =
      .next ((s.disableLane l).applyWrite p Reg.LANE_CTRL l 0 0 (v &&& 0x7FFFFFFF#32)) := by
  rw [execLaneDisable, ← hl, State.writeLaneCtrl, State.guardWrite_writable hw rfl]
  simp only [bit_and_disable, henabled, hsource, Bool.true_and, Bool.false_and, Bool.false_eq_true, if_false, if_true]

end

/-! ## The octet PLLs (R172, R173) -/

section
variable {o : BitVec 6}

theorem execOctetRetuneDone_quiet (hretuning : s.on F.LANE_OCT_STATUS_retuning o.toNat = true)
    (hquiet : ((upTo 8).all fun j => s.laneState (8 * o.toNat + j) != Ln.SIGNAL_WAIT) = true) :
    execOctetRetuneDone o s = .next (s.clr F.LANE_OCT_STATUS_retuning o.toNat) := by
  simp only [execOctetRetuneDone, hretuning, Bool.not_true, Bool.false_eq_true, if_false]
  refine congrArg Host.Outcome.next (State.each_eq_self fun j hj => if_pos ?_)
  rw [State.laneState, State.clr_eq, State.get_put_apart (by decide)]
  exact List.all_eq_true.mp hquiet j hj

theorem execOctetPllFailure_spare {run : Nat} (hrun : run = s.get F.LANE_OCT_STATUS_running o.toNat)
    (hspare : s.on F.LANE_OCT_STATUS_spare_ok o.toNat = true)
    (hgood : s.on F.LANE_OCT_STATUS_a_failed o.toNat = false ∧ s.on F.LANE_OCT_STATUS_b_failed o.toNat = false)
    (hoff : ((upTo 8).any fun j => s.on F.LANE_CTRL_enable (8 * o.toNat + j)) = false) :
    ∃ t, execOctetPllFailure o s = .next t ∧ t.get F.LANE_OCT_STATUS_running o.toNat = 1 - run ∧
      t.get F.LANE_OCT_SWITCH_COUNT_value o.toNat = satNat 32 (s.get F.LANE_OCT_SWITCH_COUNT_value o.toNat + 1) ∧
      t.get F.RAS_STATUS_class_seen = s.get F.RAS_STATUS_class_seen ||| 8 := by
  obtain ⟨hgoodA, hgoodB⟩ := hgood
  have hother : 1 - run < 2 ^ F.LANE_OCT_STATUS_running.width := Nat.lt_of_le_of_lt (Nat.sub_le ..) (by decide)
  simp only [execOctetPllFailure, hspare, hgoodA, hgoodB, Bool.or_self, Bool.not_false, Bool.and_self, if_true,
    ← hrun]
  refine ⟨_, rfl, ?_⟩
  generalize 1 - run = other at hother ⊢
  generalize hfailed : (if run = 0 then F.LANE_OCT_STATUS_a_failed else F.LANE_OCT_STATUS_b_failed) = failed
  have hfailed' : failed = F.LANE_OCT_STATUS_a_failed ∨ failed = F.LANE_OCT_STATUS_b_failed := by
    rw [← hfailed]
    split
    · exact .inl rfl
    · exact .inr rfl
  refine (State.each_mem_preserves (fun t => (∀ j ∈ upTo 8, t.get F.LANE_CTRL_enable (8 * o.toNat + j) ≠ 1) ∧
    t.get F.LANE_OCT_STATUS_running o.toNat = other ∧
    t.get F.LANE_OCT_SWITCH_COUNT_value o.toNat = satNat 32 (s.get F.LANE_OCT_SWITCH_COUNT_value o.toNat + 1) ∧
    t.get F.RAS_STATUS_class_seen = s.get F.RAS_STATUS_class_seen ||| 8) ?_ ?_).2
  · rintro t j hj ⟨hoff, hkept⟩
    have hoffj : (t.put F.LANE_STATUS_octet_pll other (8 * o.toNat + j)).on F.LANE_CTRL_enable (8 * o.toNat + j) = false := by
      simpa (disch := exact id rfl) [State.on, State.get_put_apart] using hoff j hj
    simp -implicitDefEqProofs (disch := exact id rfl) only [hoffj, State.get_put_apart, Bool.not_false, if_true]
    exact ⟨hoff, hkept⟩
  · have hoff' : ∀ j ∈ upTo 8, s.get F.LANE_CTRL_enable (8 * o.toNat + j) ≠ 1 := by simpa [State.on] using hoff
    have hclass : 2 ^ 3 = 8 := rfl
    rcases hfailed' with rfl | rfl
    all_goals
      refine ⟨fun j hj => ?_, ?_, ?_, ?_⟩
      all_goals
        simp -implicitDefEqProofs (disch := first | exact id rfl | decide | assumption) only [State.get_log,
          State.get_fault, State.get_log_apart, State.fault_classSeen, State.clr_eq, State.ev_eq, State.get_put_apart,
          State.get_put_disjoint, State.get_put_fits, State.get_cnt_same, State.cnt_apart, hclass]
      · exact hoff' j hj
      · rfl

theorem execOctetSwitchComplete_noMembers (hswitching : s.octetSwitching (8 * o.toNat) = true)
    (hnone : ((upTo 8).all fun j => (s.laneMembers (8 * o.toNat + j) false).isEmpty) = true) :
    execOctetSwitchComplete o s = .next (s.clr F.LANE_OCT_STATUS_spare_ok o.toNat) := by
  rw [execOctetSwitchComplete, if_pos hswitching]
  refine congrArg Host.Outcome.next (State.each_eq_self fun j hj => ?_)
  have hmembers : (s.clr F.LANE_OCT_STATUS_spare_ok o.toNat).laneMembers (8 * o.toNat + j) false =
      s.laneMembers (8 * o.toNat + j) false := by
    simp -implicitDefEqProofs (disch := first | exact id rfl | decide) only [State.laneMembers, State.strmActive,
      State.strmState, State.strmKind, State.clr_eq, State.put_cap, State.get_put_apart]
  rw [hmembers, List.isEmpty_iff.mp (List.all_eq_true.mp hnone j hj)]
  rfl

end

/-! ## The equaliser's registers (R175, R178) -/

section
variable {lane : BitVec 9} {v : Word}

theorem execTxFirWrite_enabled (hw : s.writable p Reg.LANE_TX_FIR lane.toNat 0 0 v = true)
    (hsum : bits v.toNat 3 0 + bits v.toNat 13 8 + bits v.toNat 20 16 ≤ 63)
    (henabled : s.on F.LANE_CTRL_enable lane.toNat = true) :
    execTxFirWrite p lane v s = .next (s.applyWrite p Reg.LANE_TX_FIR lane.toNat 0 0 v) := by
  have henabled' : (s.applyWrite p Reg.LANE_TX_FIR lane.toNat 0 0 v).on F.LANE_CTRL_enable lane.toNat = true := by
    rw [State.on, State.get_applyWrite_apart (by decide) _ _ _ _ _ _ (by decide)]
    exact henabled
  rw [execTxFirWrite, State.writeTxFir, State.guardWrite_writable hw (decide_eq_false (Nat.not_lt.mpr hsum))]
  simp only [henabled', if_true]

theorem execRxCoefWrite_fixed {l sel : Nat} {lo hi : Int} (hl : l = lane.toNat)
    (hw : s.writable p Reg.LANE_RX_COEF l 0 0 v = true) (hsel : sel = bits v.toNat 31 27)
    (hrange : coefRange sel = some (lo, hi)) (hval : lo ≤ sext 16 v.toNat ∧ sext 16 v.toNat ≤ hi)
    (hfixed : s.get F.LANE_RX_EQ_mode l = V.LANE_RX_EQ_mode_FIXED) :
    ∃ t, execRxCoefWrite p lane v s = .next t ∧ t.get F.LANE_RX_COEF_sel l = sel ∧
      t.get F.LANE_RX_COEF_value l = v.toNat % 2 ^ 16 ∧
      t.lanes = Tbl.set {} l { s.lane l with coef := Tbl.set 0 sel (sext 16 v.toNat) (s.lane l).coef } s.lanes := by
  have hfixed' : (s.put F.LANE_RX_COEF_sel sel l).get F.LANE_RX_EQ_mode l = V.LANE_RX_EQ_mode_FIXED := by
    rw [State.get_put_apart (by decide)]
    exact hfixed
  have hfits : sel < 2 ^ F.LANE_RX_COEF_sel.width := hsel ▸ bits_lt _ _ _
  rw [execRxCoefWrite, ← hl, State.writeRxCoef, ← hsel, hrange,
    State.guardWrite_writable hw (by simp [Int.not_lt.mpr hval.1, Int.not_lt.mpr hval.2])]
  simp only [hfixed', if_true]
  refine ⟨_, rfl, ?_⟩
  simp -implicitDefEqProofs (disch := first | exact id rfl | decide | assumption) [State.setLane, State.lane,
    State.get_put_disjoint, State.get_put_fits]
  rw [State.get_put_same _ _ _ _ _ _ (by decide) (by decide)]
  rfl

theorem execRxEqModeWrite_notAdapting (hw : s.writable p Reg.LANE_RX_EQ lane.toNat 0 0 v = true)
    (hmode : s.get F.LANE_RX_EQ_mode lane.toNat ≠ V.LANE_RX_EQ_mode_ADAPT) :
    execRxEqModeWrite p lane v s = .next (s.applyWrite p Reg.LANE_RX_EQ lane.toNat 0 0 v) := by
  rw [execRxEqModeWrite, State.writeRxEq, State.guardWrite_writable hw rfl]
  exact congrArg Host.Outcome.next (if_neg fun h => hmode h.1)

/-! ## The lane states (R181) -/

theorem execLaneAnalogueFault_available {cause : Nat} (hcause : 2 ≤ cause ∧ cause ≤ 5)
    (hstate : s.laneState lane.toNat ≠ Ln.UNAVAILABLE) :
    execLaneAnalogueFault lane cause s = .next (s.laneUnavailable lane.toNat cause) := by
  simp only [execLaneAnalogueFault, hcause, hstate, and_self, ne_eq, not_false_eq_true, or_true, if_true]

end

end

/-- Settles O14: the lemma above about each command; the other clauses are the branch of the command that their conditions
name. -/
theorem laneCommandsComplete : Obligations.LaneCommandsComplete := by
  refine ⟨fun s p lane v l hl hw hdis hrate hoctet hstate hprobe =>
      Gives.eq (execLaneEnable_accepted hl hw hdis hrate hoctet hstate hprobe),
    fun s p lane v l hl hw hen hsource => Gives.eq (execLaneDisable_accepted hl hw hen hsource),
    fun s o hretuning hquiet => Gives.eq (execOctetRetuneDone_quiet hretuning hquiet),
    fun s o run => execOctetPllFailure_spare,
    fun s o hswitching hnone => Gives.eq (execOctetSwitchComplete_noMembers hswitching hnone),
    fun s o spare hspare hok hsteady => Gives.eq (show execSparePllFailure o s = _ from ?_),
    fun s lane cause hcause hstate => Gives.eq (execLaneAnalogueFault_available hcause hstate),
    fun s p lane v hw hsum hen => Gives.eq (execTxFirWrite_enabled hw hsum hen), fun s lane => Gives.eq rfl,
    fun s p lane v l sel lo hi => execRxCoefWrite_fixed,
    fun s p lane v hw hmode => Gives.eq (execRxEqModeWrite_notAdapting hw hmode),
    fun s lane hstate hok => Gives.eq (if_pos ⟨hstate, by rw [hok]; rfl⟩), fun s lane hstate => Gives.eq (if_pos hstate),
    fun s lane history hstate hcoding => Gives.of_exec (if_pos ⟨hstate, hcoding⟩) ⟨_, rfl, rfl⟩,
    fun s lane hstate => Gives.eq (if_pos hstate), fun s lane hstate => Gives.eq (if_pos hstate),
    fun s lane hstate hloop => Gives.eq (if_pos ⟨hstate.1, hstate.2, hloop⟩)⟩
  rw [execSparePllFailure, if_pos ⟨hok, by rw [hsteady]; rfl⟩, hspare]

end Sys2Proof.Machine
end

section
/-! PROOFS. The digitiser and the probe of a lane (spec/08 R187 to R204). -/
namespace Sys2Proof.Machine

section
variable {s : State}

theorem bit_or_abort (v : Word) : bit (v ||| 0x40000000#32).toNat 30 = true := by
  rw [bit, BitVec.toNat_or, Nat.testBit_or]
  exact Bool.or_true _

/-! ## The digitiser -/

theorem execDigAcquire_started {d : Desc} {lane : BitVec 16} {tap : BitVec 8} {cfg span count : Word} {u r : State}
    (hadmit : s.admits d = true) (hunit : lane.toNat < 512 ∧ tap.toNat ≤ 1)
    (hheld : s.get F.LANE_STATUS_holder lane.toNat = d.tenant.toNat)
    (hvalues : Reg.LANE_DIG_CFG.badValue cfg.toNat = false ∧ Reg.LANE_DIG_SPAN.badValue span.toNat = false ∧
      Reg.LANE_DIG_COUNT.badValue count.toNat = false)
    (hmode : ¬ (tap.toNat = 0 ∧ bits cfg.toNat 29 28 = V.LANE_DIG_CFG_mode_TDR))
    (hidle : ((s.lane lane.toNat).dig tap.toNat).isSome = false)
    (hu : u = ((s.setWord Reg.LANE_DIG_CFG (cfg &&& BitVec.ofNat 32 Reg.LANE_DIG_CFG.rw) lane.toNat tap.toNat).setWord
      Reg.LANE_DIG_SPAN span lane.toNat tap.toNat).setWord Reg.LANE_DIG_COUNT count lane.toNat tap.toNat)
    (hstart : u.digStart (.descriptor d.tenant) lane.toNat tap.toNat (some d) = (r, St.OK)) :
    execDigAcquire (.inl d) lane tap cfg span count s = .next r := by
  obtain ⟨hlane, htap⟩ := hunit
  obtain ⟨hcfg, hspan, hcount⟩ := hvalues
  have hwave : (tap.toNat == 0 && bits cfg.toNat 29 28 == V.LANE_DIG_CFG_mode_TDR) = false := by simpa using hmode
  refine congrArg Host.Outcome.next ((State.descriptor_plain hadmit ?_).trans ?_)
  · simp [hlane, hheld, hcfg, hspan, hcount, hwave, htap]
  · simp only [hidle, Bool.false_eq_true, if_false, ← hu, hstart, if_true]

theorem execDigTrigger_sum {lane : BitVec 9} {tap : Bool} {tm ref : BitVec 64} {sample : BitVec 14} {l k : Nat}
    {r : DigRun} (hunit : l = lane.toNat ∧ k = b2n tap) (hrun : (s.lane l).dig k = some r) (hbegun : r.begun = true)
    (hwanted : r.stored < s.digWanted l k) (hactive : s.strmState (s.digStream l k) = Strm.ACTIVE)
    (hmore : r.count + 1 < 2 ^ (if s.get F.LANE_DIG_CFG_mode l k == V.LANE_DIG_CFG_mode_EYE then 0
      else 2 * s.get F.LANE_DIG_CFG_avg l k)) :
    execDigTrigger lane tap tm ref sample s = .next (s.setLane l ((s.lane l).setDig k (some
      { r with sum := r.sum + (if sample.toInt = -8192 then -8191 else sample.toInt), count := r.count + 1 }))) := by
  obtain ⟨rfl, rfl⟩ := hunit
  simp only [execDigTrigger, hrun, hbegun, Nat.not_le.mpr hwanted, hactive, ne_eq, not_true_eq_false, or_self,
    if_false, if_true, hmore]

theorem execDigAbort_running {p : Path} {lane : BitVec 9} {tap : Bool} {v : Word} {l k : Nat}
    (hunit : l = lane.toNat ∧ k = b2n tap) (hw : s.writable p Reg.LANE_DIG_CFG l k 0 (v ||| 0x40000000#32) = true)
    (hmode : ¬ (k = 0 ∧ bits (v ||| 0x40000000#32).toNat 29 28 = V.LANE_DIG_CFG_mode_TDR))
    (hrun : ((s.lane l).dig k).isSome = true) :
    execDigAbort p lane tap v s =
      .next ((s.digEnd l k V.LANE_DIG_STATUS_result_ABORTED St.PARTIAL).clr F.LANE_DIG_CFG_abort l k) := by
  obtain ⟨rfl, rfl⟩ := hunit
  rw [execDigAbort, State.writeDigCfg, State.guardWrite_writable hw (by simpa using hmode)]
  simp only [hrun, bit_or_abort, if_true]
  rfl

/-! ## The probe -/

theorem execProbe_started {d : Desc} {lane : BitVec 16} {ctrl : Word} {u r : State} (hadmit : s.admits d = true)
    (hlane : lane.toNat < 512) (hheld : s.get F.LANE_STATUS_holder lane.toNat = d.tenant.toNat)
    (hvalue : Reg.LANE_PROBE_CTRL.badValue ctrl.toNat = false) (hidle : (s.lane lane.toNat).probe = none)
    (hu : u = s.setWord Reg.LANE_PROBE_CTRL (ctrl &&& BitVec.ofNat 32 Reg.LANE_PROBE_CTRL.rw) lane.toNat)
    (hstart : u.probeStart lane.toNat (some d) = (r, St.OK)) :
    execProbe (.inl d) lane ctrl s = .next r := by
  refine congrArg Host.Outcome.next ((State.descriptor_plain hadmit ?_).trans ?_)
  · simp [hlane, hheld, hvalue]
  · simp only [hidle, Option.isSome_none, Bool.false_eq_true, if_false, ← hu, hstart, if_true]

theorem execProbeAbort_written {p : Path} {lane : BitVec 9} {v : Word}
    (hw : s.writable p Reg.LANE_PROBE_CTRL lane.toNat 0 0 (v ||| 0x40000000#32) = true) :
    execProbeAbort p lane v s = .next (s.probeEnd lane.toNat V.LANE_PROBE_STATUS_result_ABORTED St.PARTIAL) := by
  rw [execProbeAbort, State.writeProbeCtrl, State.guardWrite_writable hw rfl]
  simp only [bit_or_abort, if_true]

section
variable {lane : BitVec 9} {received : BitVec 8} {data : List Word} {legN legP : Fin 3} {d : Option Desc}

theorem execProbeEnd_timedOut {k : Nat} (hprobe : (s.lane lane.toNat).probe = some (k, d)) (hk : k ≠ 0) :
    execProbeEnd lane true received data legN legP s = .next ((s.put F.LANE_PROBE_STATUS_received 0 lane.toNat).probeEnd
      lane.toNat V.LANE_PROBE_STATUS_result_NO_RESPONSE St.TIMEOUT) := by
  simp only [execProbeEnd, hprobe, hk, ne_eq, not_false_eq_true, and_self, if_true, if_false]

theorem execProbeEnd_rxDetect (hprobe : (s.lane lane.toNat).probe = some (0, d)) :
    execProbeEnd lane false received data legN legP s = .next (((s.put F.LANE_PROBE_STATUS_detect_n legN.val
      lane.toNat).put F.LANE_PROBE_STATUS_detect_p legP.val lane.toNat).probeEnd lane.toNat
        V.LANE_PROBE_STATUS_result_RESPONSE St.OK) := by
  simp only [execProbeEnd, hprobe, ne_eq, not_true_eq_false, false_and, if_true, if_false]

end

end

/-- Settles O15: the lemma above about each command. -/
theorem measurementCommandsComplete : Obligations.MeasurementCommandsComplete := by
  refine ⟨fun s d lane tap cfg span count u r hadmit hunit hheld hvalues hmode hidle hu hstart =>
      Gives.eq (execDigAcquire_started hadmit hunit hheld hvalues hmode hidle hu hstart),
    fun s lane tap tm ref sample l k r hunit hrun hbegun hwanted hactive hmore =>
      Gives.eq (execDigTrigger_sum hunit hrun hbegun hwanted hactive hmore),
    fun s p lane tap v l k hunit hw hmode hrun => Gives.eq (execDigAbort_running hunit hw hmode hrun),
    fun s lane tap r hrun hstored => Gives.eq (show execDigAcquisitionEnd lane tap s = _ from ?_),
    fun s d lane ctrl u r hadmit hlane hheld hvalue hidle hu hstart =>
      Gives.eq (execProbe_started hadmit hlane hheld hvalue hidle hu hstart),
    fun s p lane v hw => Gives.eq (execProbeAbort_written hw),
    fun s lane received data legN legP k d hprobe hk => Gives.eq (execProbeEnd_timedOut hprobe hk),
    fun s lane received data legN legP d hprobe => Gives.eq (execProbeEnd_rxDetect hprobe)⟩
  simp only [execDigAcquisitionEnd, hrun, hstored, if_true]

end Sys2Proof.Machine
end

section
/-! PROOFS. The statement about the trigger commands (spec/10) fails at the 256th event of a line: GIO.TLINE.event_count is
16 bits wide (R702, spec/26). -/
namespace Sys2Proof.Machine
set_option maxRecDepth 4000

/-- Line 3 with 255 events counted, and one event waiting. -/
def lineCountedTo255 : State :=
  { State.reset.put F.GIO_TLINE_event_count 255 3 with trig := { lines := [(3, 0)] } }

/-- Refutes O17: LINE_EVENT counts in bits 15 to 0 of GIO.TLINE, and the clause takes the count modulo 2^8. After 255
events of line 3 the next one makes the count 256, where the clause says 0. -/
theorem not_triggerCommandsComplete : ¬ Obligations.TriggerCommandsComplete := by
  unfold Obligations.TriggerCommandsComplete
  rintro ⟨-, -, -, -, -, -, -, -, -, -, hline, -⟩
  obtain ⟨t, hexec, -, hcount, -⟩ := hline lineCountedTo255 3 0 (by decide) (by decide) (by decide) (by decide)
  have hrun : execLineEvent 3 lineCountedTo255 = .next t := hexec
  have hcounted : t.get F.GIO_TLINE_event_count 3 = 256 := by
    rw [← Host.Outcome.next.inj hrun]
    decide
  have hwrapped : t.get F.GIO_TLINE_event_count 3 = 0 := hcount.trans (by decide)
  exact absurd (hcounted.symm.trans hwrapped) (by decide)

end Sys2Proof.Machine
end

section
/-! PROOFS. The capture store (spec/11): quires allocated, sealed, drained and freed, and streams started and stopped. -/
namespace Sys2Proof.Machine

section
variable {s : State}

/-! ## Quires -/

theorem State.quire_setQuireLive_same (s : State) (q : Nat) (x : Quire) : (s.setQuireLive q x).quire q = x :=
  Tbl.get_set_same ..

@[simp] theorem State.setQuire_streams (s : State) (q : Nat) (x : Quire) : (s.setQuire q x).cap.streams = s.cap.streams := by
  rw [State.setQuire, apply_ite (fun t : State => t.cap.streams)]
  exact ite_self _

@[simp] theorem State.setQuire_waitList (s : State) (q : Nat) (x : Quire) : (s.setQuire q x).cap.waitList = s.cap.waitList := by
  rw [State.setQuire, apply_ite (fun t : State => t.cap.waitList)]
  exact ite_self _

theorem State.quire_setQuire_same (s : State) (q : Nat) (x : Quire) : (s.setQuire q x).quire q = x := by
  rw [State.setQuire, apply_ite (fun t : State => t.quire q)]
  exact (ite_self _).trans (State.quire_setQuireLive_same s q x)

theorem State.get_setQuire (s : State) (q : Nat) (x : Quire) (f : Fld) (i j k : Nat) :
    (s.setQuire q x).get f i j k = s.get f i j k := by
  rw [State.setQuire, apply_ite (fun t : State => t.get f i j k)]
  exact ite_self _

theorem execRowWaitTimeout_open {q : BitVec 19} (hopen : (s.quire q.toNat).state = Qr.OPEN) :
    ∃ t, execRowWaitTimeout q s = .next t ∧ (t.quire q.toNat).written = (s.quire q.toNat).used ∧
      (t.quire q.toNat).state = Qr.OPEN := by
  refine ⟨_, congrArg Host.Outcome.next (if_pos hopen), ?_⟩
  rw [State.quire_setQuireLive_same]
  exact ⟨rfl, hopen⟩

theorem State.quire_freeFront (s : State) (f q : Nat) : (s.freeFront f).quire q = s.quire q := by
  have hkept (t : State) : (t.put F.CAP_STATUS_front_free (t.frontFree + 1)).quire q = t.quire q := by
    rw [State.quire, State.put_cap, State.quire]
  simp only [State.freeFront, apply_ite (fun t : State => t.quire q), hkept, ite_self]
  rfl

theorem execDrainCopyDone_draining {q : BitVec 19} {g f : Nat} (hcopy : (s.quire q.toNat).copy = some (g, f))
    (hstate : (s.quire q.toNat).state = Qr.DRAINING) :
    ∃ t, execDrainCopyDone q s = .next t ∧
      t.quire q.toNat = { s.quire q.toNat with state := Qr.SEALED, target := g, slot := f, copy := none } := by
  simp only [execDrainCopyDone, hcopy, hstate, if_true]
  refine ⟨_, rfl, ?_⟩
  rw [State.quire_freeFront, State.quire, State.put_cap]
  exact State.quire_setQuire_same ..

/-- What an allocation leaves: the streams, the waiting list and the stream states. -/
structure State.SameStreams (s t : State) : Prop where
  streams : t.cap.streams = s.cap.streams
  waitList : t.cap.waitList = s.cap.waitList
  state : ∀ n, t.strmState n = s.strmState n

theorem State.SameStreams.strm {t : State} (h : s.SameStreams t) (n : Nat) : t.strm n = s.strm n := by
  rw [State.strm, h.streams, State.strm]

theorem State.SameStreams.trans {t u : State} (h : s.SameStreams t) (g : t.SameStreams u) : s.SameStreams u :=
  ⟨g.streams.trans h.streams, g.waitList.trans h.waitList, fun n => (g.state n).trans (h.state n)⟩

theorem State.sameStreams_setQuire (q : Nat) (x : Quire) : s.SameStreams (s.setQuire q x) :=
  ⟨s.setQuire_streams q x, s.setQuire_waitList q x, fun _ => State.get_setQuire ..⟩

theorem State.sameStreams_put {f : Fld} {v i j k : Nat} (hf : f.r.apart Reg.CAP_STREAM_STATUS = true) :
    s.SameStreams (s.put f v i j k) :=
  ⟨by rw [State.put_cap], by rw [State.put_cap], fun _ => State.get_put_apart hf⟩

theorem State.sameStreams_log (code severity unit : Nat) (detail : List Nat) :
    s.SameStreams (s.log code severity unit detail) :=
  have hcap : (s.log code severity unit detail).cap = s.cap :=
    (State.log_kept s code severity unit detail Kept.of_keeps Kept.of_allows).cap rfl
  ⟨by rw [hcap], by rw [hcap], fun _ => State.get_log _ _ _ _ _ (by decide)⟩

theorem State.sameStreams_when {c : Bool} {f : State → State} (h : ∀ t : State, t.SameStreams (f t)) :
    s.SameStreams (s.when c f) := by
  cases c
  case false => exact ⟨rfl, rfl, fun _ => rfl⟩
  case true => exact h s

theorem State.sameStreams_countUp (q t : Nat) : s.SameStreams (s.countUp q t) := by
  have hwarn (u : State) : u.SameStreams (((u.ev F.SEC_EVENTS_counter_warn).ev F.SEC_KEY_STATUS_counter_warn t).log
      0xE1 0 t [q]) := by
    rw [State.ev_eq, State.ev_eq]
    exact ((State.sameStreams_put (by decide)).trans (State.sameStreams_put (by decide))).trans (State.sameStreams_log ..)
  exact (s.sameStreams_setQuire q _).trans (State.sameStreams_when hwarn)

theorem State.sameStreams_allocQuire {n q : Nat} {r : State} (h : s.allocQuire n = (some q, r)) : s.SameStreams r := by
  have hslot : s.SameStreams s.freeSlot.2 := ⟨rfl, rfl, fun _ => rfl⟩
  simp only [State.allocQuire] at h
  split at h
  case isFalse => simp at h
  case isTrue =>
    split at h
    case h_2 => simp at h
    case h_1 q' f u hq hf =>
      have hu : s.SameStreams u := by simpa [hf] using hslot
      simp only [Prod.mk.injEq, Option.some.injEq] at h
      obtain ⟨rfl, rfl⟩ := h
      have hopen (x : Quire) : s.SameStreams ((u.setQuire q' x).countUp q' (s.strmHolder n)) :=
        (hu.trans (u.sameStreams_setQuire q' x)).trans (State.sameStreams_countUp ..)
      refine State.SameStreams.trans ?_ (State.sameStreams_put (f := F.CAP_STATUS_front_free) (by decide))
      refine State.SameStreams.trans ?_ (State.sameStreams_put (f := F.CAP_USE_FRONT_value) (by decide))
      exact ⟨(hopen _).streams, (hopen _).waitList, (hopen _).state⟩

theorem State.sameStreams_linkQuire (prev : Option Nat) (q : Nat) : s.SameStreams (s.linkQuire prev q) := by
  cases prev
  case none => exact s.sameStreams_setQuire ..
  case some p => exact (s.sameStreams_setQuire ..).trans (State.sameStreams_setQuire ..)

/-- A stream that waits with a current quire takes the quire allocated as its next one (R284). -/
theorem execQuireAllocated_next {n f : Nat} (hwait : s.cap.waitList = [n])
    (hquota : s.get F.CAP_USE_FRONT_value (s.strmHolder n) < s.get F.CAP_QUOTA_FRONT_quires (s.strmHolder n))
    (hfree : 0 < s.frontFree) (hcur : (s.strm n).cur = some f) (hactive : s.strmState n = Strm.ACTIVE) :
    ∃ t, execQuireAllocated s = .next t ∧ ∀ q r, s.allocQuire n = (some q, r) →
      t.cap.waitList = [] ∧ (t.strm n).next = some q ∧ (t.strm n).cur = some f := by
  simp only [execQuireAllocated, hwait, List.find?_cons, hquota, hfree, decide_true, Bool.and_self]
  split
  case h_1 r hnone =>
    refine ⟨_, rfl, fun q t hsome => ?_⟩
    rw [hnone] at hsome
    simp at hsome
  case h_2 q r halloc =>
    have hsame := State.sameStreams_allocQuire halloc
    have hstrm : ({ r with cap := { r.cap with waitList := r.cap.waitList.erase n } } : State).strm n = s.strm n :=
      hsame.strm n
    simp only [hstrm]
    generalize hv : ({ r with cap := { r.cap with waitList := r.cap.waitList.erase n } } : State).setStrm n
      { s.strm n with next := some q, post := (s.strm n).post - 1 } = v
    simp only [hcur]
    have hlink := v.sameStreams_linkQuire (some f) q
    have hstate : (v.linkQuire (some f) q).strmState n = s.strmState n :=
      (hlink.state n).trans (hv ▸ hsame.state n)
    have hempty : v.cap.waitList = [] := by
      rw [← hv]
      exact (congrArg (fun l : List Nat => l.erase n) (hsame.waitList.trans hwait)).trans (List.erase_cons_head ..)
    have hmine : v.strm n = { s.strm n with next := some q, post := (s.strm n).post - 1 } := hv ▸ Tbl.get_set_same ..
    rw [if_neg (by rw [hstate, hactive]; decide)]
    refine ⟨_, rfl, fun q' r' hsome => ?_⟩
    obtain ⟨rfl, -⟩ : q = q' ∧ r = r' := by simpa [halloc] using hsome
    rw [hlink.waitList, hlink.strm, hmine]
    exact ⟨hempty, rfl, hcur⟩

/-! ## Streams -/

theorem execStreamStop_active {d : Desc} {n : BitVec 16} (hadmit : s.admits d = true) (hn : n.toNat < 1024)
    (hactive : s.strmActive n.toNat = true ∧ s.strmHolder n.toNat = d.tenant.toNat) :
    execStreamStop d n s =
      .next (s.beginStop n.toNat V.CAP_STREAM_STATUS_end_cause_STOPPED s.now (some d)) := by
  obtain ⟨hact, hheld⟩ := hactive
  have hidle : ¬ s.strmState n.toNat = Strm.IDLE := by
    rintro hidle
    rw [State.strmActive, hidle] at hact
    exact absurd hact (by decide)
  refine congrArg Host.Outcome.next (State.descriptor_plain hadmit ?_)
  simp [State.strmChecks, hact, hheld, hidle, hn]

theorem execQuireVerify_noBuffer {d : Desc} {q : Word} {good : Bool} {x : Quire} (hadmit : s.admits d = true)
    (hq : q.toNat < 524288) (hx : x = s.quire q.toNat) (hheld : x.state ≠ Qr.FREE ∧ x.tenant = d.tenant.toNat) :
    execQuireVerify d q 0 good s = .next (s.complete d (if good then St.OK else St.INTEGRITY) x.state) := by
  refine congrArg Host.Outcome.next ((State.descriptor_plain hadmit ?_).trans ?_)
  · simp [← hx, hheld, hq]
  · simp only [if_true, hx]

theorem firstFailing_eq_none_iff {l : List (Bool × Nat)} : firstFailing l = none ↔ ∀ c ∈ l, c.1 = false := by
  refine ⟨fun h => ?_, firstFailing_none⟩
  induction l with
  | nil => exact fun c hc => absurd hc List.not_mem_nil
  | cons c r ih =>
    obtain ⟨failing, st⟩ := c
    cases failing
    case true => simp [firstFailing] at h
    case false => exact List.forall_mem_cons.mpr ⟨rfl, ih h⟩

theorem execStreamStart_accepted {d : Desc} {a : StartArgs} (hadmit : s.admits d = true)
    (hchecks : firstFailing (s.startChecks d a) = none) : execStreamStart d a s = .next (s.startStream d a) :=
  congrArg Host.Outcome.next (State.descriptor_plain hadmit (firstFailing_eq_none_iff.mp hchecks))

end

/-- Settles O18: the lemma above about each command; the rest are the branch of the command that their conditions name. -/
theorem captureCommandsComplete : Obligations.CaptureCommandsComplete := by
  refine ⟨fun s n f => execQuireAllocated_next,
    fun s n l hleaf hstrips hactive => Gives.eq (show execLeafFlushTimeout n s = _ from ?_),
    fun s q => execRowWaitTimeout_open, fun s q hpending => Gives.of_exec (if_pos hpending) ⟨Tbl.get_set_same .., rfl⟩,
    fun s b q g hon hpolicy hpick hb hg hok => Gives.eq (show execDrainTake b s = _ from ?_),
    fun s q g f => execDrainCopyDone_draining, fun s q _ => Gives.eq rfl,
    fun s p v hw => Gives.eq (congrArg (fun r : State × Nat => Host.Outcome.next r.1) (State.plainWrite_writable hw)),
    fun s p deep n v hw =>
      Gives.eq (congrArg (fun r : State × Nat => Host.Outcome.next r.1) (State.plainWrite_writable hw))⟩
  · simp only [execLeafFlushTimeout, hleaf, hstrips, hactive, Bool.not_false, Bool.and_self, if_true]
  · have htarget : (decide (1 ≤ g) && decide (g ≤ 6) && s.targetOk g) = true := by simp [hg, hok]
    simp only [execDrainTake, hon, hpolicy, hpick, hb, List.find?_cons, htarget, Bool.not_true, Bool.false_eq_true,
      if_false, if_true]

/-- Settles O19: -/
theorem streamCommandsComplete : Obligations.StreamCommandsComplete := by
  refine ⟨fun s d a n hadmit hchecks _ => Gives.eq (execStreamStart_accepted hadmit hchecks),
    fun s d n hadmit hn hactive => Gives.eq (execStreamStop_active hadmit hn hactive),
    fun s n hdead hstate => Gives.eq (congrArg Host.Outcome.next ?_),
    fun s q hstate => Gives.eq (congrArg Host.Outcome.next (if_pos hstate)),
    fun s d q good x hadmit hq hx hheld => Gives.eq (execQuireVerify_noBuffer hadmit hq hx hheld)⟩
  rw [hdead, if_neg (by decide), if_pos hstate]

end Sys2Proof.Machine
end

section
/-! PROOFS. Reading the capture store (spec/12): leaves, collation sessions, seeking and finding, and releasing a capture. -/
namespace Sys2Proof.Machine

section
variable {s : State}

theorem State.strmChecks_pass {d : Desc} {n : Nat} (hn : n < 1024) (hstate : s.strmState n ≠ Strm.IDLE)
    (hheld : s.strmHolder n = d.tenant.toNat) : ∀ c ∈ s.strmChecks d n, c.1 = false := by
  simp [State.strmChecks, hstate, hheld, hn]

theorem findFrom_spec {f : Nat → Bool} {n i k : Nat} (h : findFrom f n i = some k) : f k = true := by
  induction n generalizing i with
  | zero => simp [findFrom] at h
  | succ n ih =>
    rw [findFrom] at h
    split at h
    case isTrue found =>
      obtain rfl : i = k := by simpa using h
      exact found
    case isFalse => exact ih h

/-- A session appended at a free number is the one found there. -/
theorem State.sess_of_coll {t : State} {k e : Nat} {z : Session} (hfree : s.sess k = none)
    (hcoll : t.coll = { sessions := s.coll.sessions ++ [(k, z)], engine := e }) : t.sess k = some z := by
  have hnone : s.coll.sessions.find? (fun p => p.1 == k) = none := by simpa [State.sess] using hfree
  simp only [State.sess, hcoll, List.find?_append, hnone, Option.none_or, List.find?_cons, beq_self_eq_true,
    Option.map_some]

theorem State.showSess_coll (n : Nat) (waiting : Bool) : (s.showSess n waiting).coll = s.coll := by
  rw [State.showSess, State.put_coll]
  split
  · rw [State.put_coll, State.put_coll]
  · rw [State.setWord_coll, State.put_coll]

section
variable {d : Desc} (hadmit : s.admits d = true)
include hadmit

/-! ## Leaves -/

theorem execLeafRead_sound {n : BitVec 16} {q : Word} {i : BitVec 16} {buffer : BitVec 64} {l : Leaf}
    (hst : s.leafStatus false d.tenant.toNat n.toNat q.toNat i.toNat = 0)
    (hleaf : (s.quire q.toNat).leaf? i.toNat = some l) (hsound : s.leafBroken q.toNat i.toNat = false) :
    execLeafRead d n q i buffer false s =
      .next ((s.hostWrite d.tenant.toNat buffer.toNat (l.header q.toNat ++ l.body)).ok d) := by
  refine congrArg Host.Outcome.next ((State.descriptor_plain hadmit ?_).trans ?_)
  · simp [hst]
  · simp only [hleaf, hsound, Bool.or_self, Bool.false_eq_true, if_false]

theorem execLeafReadRaw_sound {n : BitVec 16} {q : Word} {i : BitVec 16} {buffer : BitVec 64} {l : Leaf}
    (hst : s.leafStatus true d.tenant.toNat n.toNat q.toNat i.toNat = 0)
    (hleaf : (s.quire q.toNat).leaf? i.toNat = some l) :
    execLeafReadRaw d n q i buffer s = .next ((s.hostWrite d.tenant.toNat buffer.toNat (l.header q.toNat ++
      l.cipher q.toNat)).ok d ((s.quire q.toNat).counter + 2 ^ 63 * b2n (!(s.quire q.toNat).fresh l))) := by
  have howner : ((0 : Nat) == St.REFUSED_NOT_OWNER) = false := by decide
  simp only [execLeafReadRaw, hst, howner, Bool.and_false, Bool.false_and, State.when_false]
  refine congrArg Host.Outcome.next ((State.descriptor_plain hadmit ?_).trans ?_)
  · simp
  · simp only [hleaf]

/-! ## Sessions -/

theorem execCollateOpen_one {n : BitVec 16} {ring : BitVec 64} {slots : Word} {k : Nat} (hread : d.readFail = false)
    (hn : n.toNat < 1024) (hstream : s.strmState n.toNat ≠ Strm.IDLE ∧ s.strmHolder n.toNat = d.tenant.toNat ∧
      s.strmKind n.toNat = Kind.DEVICE) (hring : slots ≠ 0 ∧ ring.toNat % 64 = 0)
    (hfree : findFrom (fun k => (s.sess k).isNone) 32 0 = some k) :
    ∃ t, execCollateOpen d 1 1 0xFFFF 0 0 [n] ring slots 0 s = .next t ∧
      ∃ (u : State) (z : Session), t = u.complete d St.OK k true ∧ u.sess k = some z ∧ z.desc = d ∧ z.follow = true ∧
        z.ring = ring.toNat ∧ z.slots = slots.toNat ∧ z.head = 0 ∧ z.streams.map (fun x => x.id) = [n.toNat] ∧
          u.coll.engine = (s.coll.engine + 1) % 8 := by
  obtain ⟨hstate, hheld, hkind⟩ := hstream
  obtain ⟨hslots, halign⟩ := hring
  have hnone : s.sess k = none := Option.isNone_iff_eq_none.mp (findFrom_spec hfree)
  simp only [execCollateOpen]
  rw [State.descriptor_plain hadmit]
  · simp only [hread, hfree, Bool.false_eq_true, if_false]
    refine ⟨_, rfl, ?u, ?z, ?t, State.sess_of_coll (e := (s.coll.engine + 1) % 8) hnone ?coll, ?_⟩
    case t => exact rfl
    case coll =>
      rw [State.showSess_coll]
      simp -implicitDefEqProofs only [State.setPair, State.setWord_coll, State.put_coll]
      rfl
    refine ⟨rfl, rfl, rfl, rfl, rfl, rfl, ?_⟩
    rw [State.showSess_coll]
    simp -implicitDefEqProofs only [State.setPair, State.setWord_coll, State.put_coll]
  · have hdest : bits 1 3 2 = 0 := rfl
    have hslots' : ¬ slots = 0#32 := hslots
    simp [hdest, hread, hfree, hstate, hheld, hkind, hslots', halign, hn]

/-! ## Seeking, finding and releasing -/

section
variable {n : BitVec 16} (hn : n.toNat < 1024)
include hn

theorem execSeekTime_found {tm : BitVec 64} {q i : Nat} {l : Leaf} {b : Bool}
    (hstream : s.strmState n.toNat ≠ Strm.IDLE ∧ s.strmHolder n.toNat = d.tenant.toNat)
    (hretained : s.retained n.toNat ≠ [])
    (hseek : s.seek n.toNat tm.toNat = some ((q, i, l), b)) :
    execSeekTime d n tm s = .next (s.ok d (q + i * 2 ^ 20 + 2 ^ 63 * b2n b)) := by
  refine congrArg Host.Outcome.next ((State.descriptor_plain hadmit ?_).trans ?_)
  · simpa [List.forall_mem_append, hretained] using State.strmChecks_pass hn hstream.1 hstream.2
  · simp only [hseek]

theorem execRibbonFind_none {limit : BitVec 16} {code mask : Word} {buffer : BitVec 64}
    (hstream : s.strmState n.toNat ≠ Strm.IDLE ∧ s.strmHolder n.toNat = d.tenant.toNat ∧
      s.strmKind n.toNat = Kind.DEVICE) (hlimit : 0 < limit.toNat ∧ limit.toNat ≤ 256)
    (hnone : ((s.retained n.toNat).all fun r => (s.quire r.1).ribbons == 0) = true) :
    execRibbonFind d n limit code mask 0 0 buffer [] [] s = .next (s.ok d 0) := by
  obtain ⟨hstate, hheld, hkind⟩ := hstream
  have hlimit' : ¬ limit = 0#16 := fun h => by simp [h] at hlimit
  have hwanted (f g : Nat × Nat × Leaf → Bool) :
      (s.retained n.toNat).filter (fun r => decide (0 < (s.quire r.1).ribbons) && f r && g r) = [] := by
    refine List.filter_eq_nil_iff.mpr fun r hr => ?_
    have hzero : (s.quire r.1).ribbons = 0 := by simpa using List.all_eq_true.mp hnone r hr
    simp [hzero]
  have hpass := State.strmChecks_pass hn hstate hheld
  refine congrArg Host.Outcome.next ((State.descriptor_plain hadmit ?_).trans ?_)
  · simpa [List.forall_mem_append, hkind, hlimit', Nat.not_lt.mpr hlimit.2] using hpass
  · simp only [hwanted]
    simp [sortHits, State.ok, show (St.OK == St.INTEGRITY) = false from rfl]

theorem execCaptureRelease_noSessions (hstream : s.strmState n.toNat = Strm.CLOSED ∧
      s.strmHolder n.toNat = d.tenant.toNat ∧ s.strmKind n.toNat ≠ Kind.PATTERN) (hsessions : s.coll.sessions = []) :
    execCaptureRelease d n s = .next ((s.releaseCapture n.toNat).1.ok d (s.releaseCapture n.toNat).2) := by
  obtain ⟨hstate, hheld, hkind⟩ := hstream
  have hsame : ({ s with coll := { s.coll with sessions := [] } } : State) = s := by
    rw [← hsessions]
  refine congrArg Host.Outcome.next ((State.descriptor_plain hadmit ?_).trans ?_)
  · have hpass := State.strmChecks_pass hn (by rw [hstate]; decide) hheld
    simpa [List.forall_mem_append, hstate, hkind] using hpass
  · simp only [hsessions, List.map_nil, hsame]

end

end

end

/-- Settles O20: the lemma above about each command; the rest are the branch of the command that their conditions name. -/
theorem readingCommandsComplete : Obligations.ReadingCommandsComplete := by
  refine ⟨fun s d n q i buffer l hadmit hst hleaf hsound => Gives.eq (execLeafRead_sound hadmit hst hleaf hsound),
    fun s d n q i buffer l hadmit hst hleaf => Gives.eq (execLeafReadRaw_sound hadmit hst hleaf),
    fun s d n ring slots k hadmit => execCollateOpen_one hadmit,
    fun s d n z hadmit hsess hheld => Gives.eq (congrArg Host.Outcome.next (State.descriptor_plain hadmit ?_)),
    fun s n z hsess hcand hfollow => Gives.eq (show execCollateRecord n [] [] s = _ from ?_),
    fun s n tail z u hsess hdest hstate hu => Gives.eq (show execHostTailPoll n tail false s = _ from ?_),
    fun s d n tm q i l b hadmit hn hstream hretained hseek =>
      Gives.eq (execSeekTime_found hadmit hn hstream hretained hseek),
    fun s d n limit code mask buffer hadmit hn hstream hlimit hnone =>
      Gives.eq (execRibbonFind_none hadmit hn hstream hlimit hnone),
    fun s d n hadmit hn hstream hsessions => Gives.eq (execCaptureRelease_noSessions hadmit hn hstream hsessions)⟩
  · simp [hsess, hheld]
  · simp only [execCollateRecord, hsess, List.map_nil, List.nil_append, hcand, hfollow, Bool.not_false,
      Bool.true_or, if_true]
  · simp only [execHostTailPoll, hsess, hdest, hstate, ne_eq, not_true_eq_false, or_self, Bool.false_eq_true,
      if_false, hu]

end Sys2Proof.Machine
end

section
/-! PROOFS. The statement about the control of the presses (spec/13) fails where the table of the presses is not in the
order of its keys. -/
namespace Sys2Proof.Machine

/-- The presses of lanes 5 and 3, in that order; an event is due at lane 5, whose press is otherwise as after reset. -/
def pressesOutOfOrder : State :=
  { State.reset with press := [(5, { due := [{ source := 0, value := 0, time := 0 }] }), (3, { loaded := true })] }

/-- Refutes O21: PRESS_EVQ_ARRIVAL takes the event from `due` and then queues it. Between the two the press of lane 5 is the
one after reset, which the table does not hold, so the press with the queued event enters behind lane 3. The clause writes
the press once, which leaves it in front. Both states read the same; a table in the order of its keys would be the same. -/
theorem not_pressControlCommandsComplete : ¬ Obligations.PressControlCommandsComplete := by
  unfold Obligations.PressControlCommandsComplete
  rintro ⟨-, -, -, -, -, -, -, harrival, -⟩
  obtain ⟨t, hexec, ht⟩ := harrival pressesOutOfOrder 5 { source := 0, value := 0, time := 0 } [] _ rfl (by decide)
    (by decide)
  have hrun : execPressEvqArrival 5 false pressesOutOfOrder = .next t := hexec
  have hbehind : t.press.map Prod.fst = [3, 5] := by
    rw [← Host.Outcome.next.inj hrun]
    decide
  have hfront : t.press.map Prod.fst = [5, 3] := by
    rw [ht]
    decide
  exact absurd (hbehind.symm.trans hfront) (by decide)

end Sys2Proof.Machine
end

section
/-! PROOFS. The instructions of a press and the unit it puts on the wire (spec/13 R347 to R366). -/
namespace Sys2Proof.Machine

section
variable {s : State}

/-! ## The press of a lane -/

theorem State.prs_setPrs_same (s : State) (l : Nat) (x : PressSt) : (s.setPrs l x).prs l = x := Tbl.get_set_same ..

theorem State.prs_put (s : State) (f : Fld) (v i j k l : Nat) : (s.put f v i j k).prs l = s.prs l := by
  rw [State.prs, State.put_press, State.prs]

theorem State.get_setPrs (s : State) (l : Nat) (x : PressSt) (f : Fld) (i j k : Nat) :
    (s.setPrs l x).get f i j k = s.get f i j k := rfl

/-- The state in which the instruction of lane `l` takes effect: its place is shown and the press has passed it. -/
def State.fetched (s : State) (l : Nat) : State :=
  (s.put F.PRS_LANE_STATUS_pc (s.prs l).pc l).setPrs l { s.prs l with pc := (s.prs l).pc + 1 }

theorem State.prs_fetched (s : State) (l : Nat) : (s.fetched l).prs l = { s.prs l with pc := (s.prs l).pc + 1 } :=
  State.prs_setPrs_same ..

section
variable {l op : Nat} (hruns : s.pressRuns l op = true)
include hruns

theorem State.cur_of_pressRuns : (s.prs l).cur = none := by
  simp only [State.pressRuns, Bool.and_eq_true, Option.isNone_iff_eq_none] at hruns
  exact hruns.1.1.2

theorem State.prsStep_of_pressRuns (f : State → PressInstr → PressSt → State) :
    s.prsStep l op f = f (s.fetched l) (s.prsAt l) { s.prs l with pc := (s.prs l).pc + 1 } := by
  simp only [State.pressRuns, Bool.and_eq_true, beq_iff_eq] at hruns
  obtain ⟨⟨⟨hstate, hcur⟩, hresync⟩, hop⟩ := hruns
  rw [State.prsStep, if_pos ⟨hstate, hcur, hresync, hop⟩]
  rfl

/-- An instruction that only writes the press. -/
theorem State.prs_prsStep {f : State → PressInstr → PressSt → State} {y : PressSt}
    (hf : (f (s.fetched l) (s.prsAt l) { s.prs l with pc := (s.prs l).pc + 1 }).prs l = y) :
    (s.prsStep l op f).prs l = y := by
  rw [State.prsStep_of_pressRuns hruns, hf]

end

/-! ## Units, pointers, counters and times (R349 to R352) -/

section
variable {lane : BitVec 9} {x : PressSt} {i : PressInstr} (hx : x = s.prs lane.toNat) (hi : i = s.prsAt lane.toNat)
include hx

theorem execHalt_runs (hruns : s.pressRuns lane.toNat 0x00 = true) :
    ∃ t, execHalt lane s = .next t ∧ t.prsState lane.toNat = Prs.DONE ∧ t.prs lane.toNat = { x with pins := [] } ∧
      t.get F.PRS_EVENTS_done lane.toNat = 1 := by
  subst hx
  refine ⟨_, congrArg Host.Outcome.next (State.prsStep_of_pressRuns hruns _), ?_⟩
  simp -implicitDefEqProofs (disch := first | exact id rfl | decide) [State.setPrsState, State.prsState,
    State.prs_put, State.prs_setPrs_same, State.get_put_apart, State.get_put_fits]

theorem execWaitTime_early (hruns : s.pressRuns lane.toNat 0x0B = true) (hearly : x.wire < x.t) :
    ∃ t, execWaitTime lane s = .next t ∧ t.prs lane.toNat = { x with pc := x.pc + 1, timeWait := true } ∧
      t.prsState lane.toNat = Prs.WAITING := by
  subst hx
  refine ⟨_, congrArg Host.Outcome.next ((State.prsStep_of_pressRuns hruns _).trans (if_neg (Nat.not_le.mpr hearly))), ?_⟩
  simp -implicitDefEqProofs (disch := first | exact id rfl | decide) [State.setPrsState, State.prsState,
    State.prs_put, State.prs_setPrs_same, State.get_put_fits]

include hi

theorem execSendk_runs (hruns : s.pressRuns lane.toNat 0x02 = true) :
    ∃ t, execSendk lane s = .next t ∧ t.prs lane.toNat = { x with
      pc := x.pc + 1
      cur := if nth4 x.k i.b = 0 then none else some (.pattern i.a (nth4 x.ptr i.a) (nth4 x.k i.b)) } := by
  subst hx hi
  refine ⟨_, rfl, State.prs_prsStep hruns ?_⟩
  by_cases hzero : nth4 (s.prs lane.toNat).k (s.prsAt lane.toNat).b = 0
  case pos => simp only [hzero, if_true, State.prs_fetched, State.cur_of_pressRuns hruns]
  case neg => simp only [hzero, if_false, State.prs_setPrs_same]

theorem execLoop_runs (hruns : s.pressRuns lane.toNat 0x07 = true) :
    ∃ t, execLoop lane s = .next t ∧ t.prs lane.toNat = if nth4 x.k i.a = 0 then { x with pc := x.pc + 1 }
      else { x with pc := i.imm % 512, k := listSet x.k i.a (nth4 x.k i.a - 1) } := by
  subst hx hi
  refine ⟨_, rfl, State.prs_prsStep hruns ?_⟩
  by_cases hzero : nth4 (s.prs lane.toNat).k (s.prsAt lane.toNat).a = 0
  case pos => simp only [hzero, if_true, State.prs_fetched]
  case neg => simp only [hzero, if_false, State.prs_setPrs_same]

end

/-- Settles O22: the lemmas above, and for the other instructions what they write to the press. -/
theorem pressOutputInstructionsComplete : Obligations.PressOutputInstructionsComplete := by
  refine ⟨fun s lane x => execHalt_runs, ?_, fun s lane x i => execSendk_runs, ?_, ?_, ?_, ?_, fun s lane x i => execLoop_runs,
    ?_, ?_, ?_, fun s lane x => execWaitTime_early, fun s lane x hx hstate htime => Gives.eq (congrArg Host.Outcome.next ?_)⟩
  case refine_9 =>
    subst hx
    exact if_pos ⟨hstate, htime⟩
  all_goals
    rintro s lane x i rfl rfl hruns
    exact ⟨_, rfl, State.prs_prsStep hruns (State.prs_setPrs_same ..)⟩

/-! ## Events and relays (R353 to R366) -/

theorem State.relayMatch_setPrs (s : State) (l : Nat) (x : PressSt) (k m : Nat) (us : List Nat) :
    (s.setPrs l x).relayMatch k m us = s.relayMatch k m us := rfl

/-- The two lie in a lane's 0x400 bytes, at 0 and from 0x180. -/
theorem addr_PRS_LANE_STATUS_ne (i j k a b c : Nat) : Reg.PRS_LANE_STATUS.addr i j k ≠ Reg.PRS_RELAY_MATCH.addr a b c := by
  simp only [RegDef.addr, Reg.PRS_LANE_STATUS, Reg.PRS_RELAY_MATCH]
  omega

theorem State.relayMatch_status (s : State) (v i l m : Nat) (us : List Nat) :
    (s.put F.PRS_LANE_STATUS_pc v i).relayMatch l m us = s.relayMatch l m us := by
  have hword (a b c : Nat) : (s.put F.PRS_LANE_STATUS_pc v i).word Reg.PRS_RELAY_MATCH a b c =
      s.word Reg.PRS_RELAY_MATCH a b c := State.word_put_ne (addr_PRS_LANE_STATUS_ne _ _ _ _ _ _)
  have hcoding : (s.put F.PRS_LANE_STATUS_pc v i).prsCoding l = s.prsCoding l := State.get_put_apart (by decide)
  have hwidth : (s.put F.PRS_LANE_STATUS_pc v i).prsWidth l = s.prsWidth l := by
    rw [State.prsWidth, hcoding, State.pam4, State.get_put_apart (by decide), State.prsWidth, State.pam4]
  simp only [State.relayMatch, hword, hcoding, hwidth]

theorem State.flushTrace_press (s : State) : s.flushTrace.press = s.press :=
  (State.flushTrace_kept s Kept.of_keeps Kept.of_allows).press rfl

section
variable {lane : BitVec 9} {x : PressSt} {i : PressInstr} (hx : x = s.prs lane.toNat)
include hx

theorem execWaitEventTaken_due {e : PressEvent} {mask tgt : Nat} {limit : Bool}
    (hwait : x.wait = some (mask, limit, tgt)) (he : x.waited mask limit = some e)
    (hdue : s.prsState lane.toNat = Prs.WAITING ∧ e.time ≤ x.wire) :
    execWaitEventTaken lane s = .next ((s.setPrs lane.toNat { x with
      evq := x.evq.erase e
      ev := e.value
      payload := (e.units, e.payload)
      wait := none }).setPrsState lane.toNat Prs.RUNNING) := by
  subst hx
  simp only [execWaitEventTaken, hwait, he, hdue, and_self, if_true]

theorem execWaitEventTimeout_due {mask tgt : Nat} (hwait : x.wait = some (mask, true, tgt))
    (hnone : x.waited mask true = none) (hdue : s.prsState lane.toNat = Prs.WAITING ∧ x.t ≤ x.wire) :
    execWaitEventTimeout lane s =
      .next ((s.setPrs lane.toNat { x with wait := none, pc := tgt }).setPrsState lane.toNat Prs.RUNNING) := by
  subst hx
  simp only [execWaitEventTimeout, hwait, hnone, hdue, Option.isNone_none, and_self, if_true]

theorem execSendEv_runs (hruns : s.pressRuns lane.toNat 0x0E = true) :
    ∃ t, execSendEv lane s = .next t ∧ t.prs lane.toNat = { x with
      pc := x.pc + 1
      cur := if x.payload.1 = 0 then none else some (.payload x.payload.2 x.payload.1) } := by
  subst hx
  refine ⟨_, rfl, State.prs_prsStep hruns ?_⟩
  by_cases hzero : (s.prs lane.toNat).payload.1 = 0
  case pos => simp only [hzero, if_true, State.prs_fetched, State.cur_of_pressRuns hruns]
  case neg => simp only [hzero, if_false, State.prs_setPrs_same]

theorem execRelayUnitIn_room {u : BitVec 257} {w : Nat} (hw : w = s.prsWidth lane.toNat)
    (hrelay : isRelay (s.prsMode lane.toNat) = true) (hready : s.relayReady lane.toNat = true)
    (hstate : s.prsState lane.toNat ≠ Prs.FROZEN) (hcur : x.cur = none) (hroom : (x.backlog.length + 1) * w ≤ 65536) :
    execRelayUnitIn lane u s = .next ((s.setPrs lane.toNat
      { x with backlog := x.backlog ++ [u.toNat % 2 ^ w] }).backlogBits lane.toNat) := by
  subst hx hw
  simp only [execRelayUnitIn, hrelay, hready, hstate, hcur, Bool.not_true, Bool.or_self, Bool.false_eq_true, if_false,
    Nat.not_lt.mpr hroom]
  rw [State.passCheck, State.prs_setPrs_same]

theorem execSignal_notAllocated (hruns : s.pressRuns lane.toNat 0x11 = true) (hdq : (s.dq x.notifyDq).alloc = false) :
    ∃ t, execSignal lane s = .next t ∧ t.prs lane.toNat = { x with pc := x.pc + 1 } := by
  subst hx
  refine ⟨_, rfl, ?_⟩
  have hdq' : ((s.fetched lane.toNat).dq (s.prs lane.toNat).notifyDq).alloc = false := by
    rw [State.dq, State.fetched, State.setPrs, State.put_swf]
    exact hdq
  rw [State.prs, State.flushTrace_press, ← State.prs]
  refine State.prs_prsStep hruns ?_
  simp only [State.dqPost, hdq', Bool.not_false, if_true, Bool.false_eq_true, if_false, State.ev_eq, State.cnt_eq,
    State.prs_put, State.prs_fetched]

variable (hi : i = s.prsAt lane.toNat)
include hi

theorem execWaitEvent_runs (hruns : s.pressRuns lane.toNat 0x0C = true) :
    ∃ t, execWaitEvent lane s = .next t ∧
      t.prs lane.toNat = { x with pc := x.pc + 1, wait := some (i.a, i.b == 1, i.imm % 512) } ∧
      t.prsState lane.toNat = Prs.WAITING := by
  subst hx hi
  refine ⟨_, congrArg Host.Outcome.next (State.prsStep_of_pressRuns hruns _), ?_⟩
  simp -implicitDefEqProofs (disch := first | exact id rfl | decide) [State.setPrsState, State.prsState,
    State.prs_put, State.prs_setPrs_same, State.get_put_fits]

theorem execBranchEv_runs (hruns : s.pressRuns lane.toNat 0x0D = true) :
    ∃ t, execBranchEv lane s = .next t ∧ t.prs lane.toNat = { x with
      pc := if (x.ev % 2 ^ 16) &&& bits i.imm 47 32 = bits i.imm 31 16 then i.imm % 512 else x.pc + 1 } := by
  subst hx hi
  refine ⟨_, rfl, State.prs_prsStep hruns ?_⟩
  by_cases htaken : ((s.prs lane.toNat).ev % 2 ^ 16) &&& bits (s.prsAt lane.toNat).imm 47 32 =
      bits (s.prsAt lane.toNat).imm 31 16
  case pos => simp only [htaken, if_true, State.prs_setPrs_same]
  case neg => simp only [htaken, if_false, State.prs_fetched]

/-- With no units to keep, PRIME unpins what its pointer pinned. -/
theorem execPrime_none (hnone : i.imm % 2 ^ 24 = 0) (hruns : s.pressRuns lane.toNat 0x0F = true) :
    ∃ t, execPrime lane s = .next t ∧ t.prs lane.toNat = { x with pc := x.pc + 1, pins := Tbl.set [] i.a [] x.pins } := by
  subst hx hi
  refine ⟨_, rfl, State.prs_prsStep hruns ?_⟩
  have hdel (t : Tbl (List Nat)) : Tbl.set [] (s.prsAt lane.toNat).a [] (Tbl.set [] (s.prsAt lane.toNat).a [] t) =
      Tbl.set [] (s.prsAt lane.toNat).a [] t := by
    rw [Tbl.set, if_pos rfl, Tbl.set, if_pos rfl, Tbl.del_eq_filter, Tbl.del_eq_filter, List.filter_filter]
    simp only [Bool.and_self]
  simp only [hnone, if_true, List.take_nil, List.length_nil, Nat.not_lt_zero, decide_false, State.when_false, hdel]
  exact State.prs_setPrs_same ..

theorem execDrop_runs {n : Nat} (hn : n = i.imm % 2 ^ 24) (hruns : s.pressRuns lane.toNat 0x21 = true) :
    ∃ t, execDrop lane s = .next t ∧ t.prs lane.toNat = { x with
      pc := x.pc + 1
      backlog := x.backlog.drop n
      cur := if n ≤ x.backlog.length then none else some (.drop (n - x.backlog.length)) } := by
  subst hx hi hn
  refine ⟨_, rfl, State.prs_prsStep hruns ?_⟩
  simp only [State.backlogBits, State.prs_put, State.prs_setPrs_same, Nat.sub_eq_zero_iff_le]

theorem execPassUntil_waits (hruns : s.pressRuns lane.toNat 0x22 = true)
    (hmatch : s.relayMatch lane.toNat i.a x.backlog = false) :
    ∃ t, execPassUntil lane s = .next t ∧ t.prs lane.toNat = { x with pc := x.pc + 1, cur := some (.passUntil i.a) } := by
  subst hx hi
  refine ⟨_, rfl, ?_⟩
  have hmatch' : ((s.fetched lane.toNat).setPrs lane.toNat { s.prs lane.toNat with
      pc := (s.prs lane.toNat).pc + 1
      cur := some (.passUntil (s.prsAt lane.toNat).a) }).relayMatch lane.toNat (s.prsAt lane.toNat).a
        (s.prs lane.toNat).backlog = false := by
    rw [State.fetched, State.relayMatch_setPrs, State.relayMatch_setPrs, State.relayMatch_status]
    exact hmatch
  simp only [State.prsStep_of_pressRuns hruns, State.passCheck, State.prs_setPrs_same, hmatch', Bool.false_eq_true,
    if_false]

end

/-- Settles O23: the lemmas above, and for the other instructions what they write to the press. -/
theorem pressEventInstructionsComplete : Obligations.PressEventInstructionsComplete := by
  refine ⟨fun s lane x i => execWaitEvent_runs,
    fun s lane x e mask tgt limit hx hwait he hdue => Gives.eq (execWaitEventTaken_due hx hwait he hdue),
    fun s lane x mask tgt hx hwait hnone hdue => Gives.eq (execWaitEventTimeout_due hx hwait hnone hdue),
    fun s lane x i => execBranchEv_runs, fun s lane x => execSendEv_runs, fun s lane x i => execPrime_none, ?_,
    fun s lane x i hx _ => execSignal_notAllocated hx, ?_, fun s lane x i n hx hi => execDrop_runs hx hi,
    fun s lane x i => execPassUntil_waits,
    fun s lane u x w hx hw hrelay hready hstate hcur hroom =>
      Gives.eq (execRelayUnitIn_room hx hw hrelay hready hstate hcur hroom)⟩
  all_goals
    rintro s lane x i rfl rfl hruns
    exact ⟨_, rfl, State.prs_prsStep hruns (State.prs_setPrs_same ..)⟩

/-! ## The unit on the wire -/

section
variable {lane : BitVec 9} {tm : BitVec 64} {k : Bool}
  (hlane : s.get F.LANE_STATUS_state lane.toNat ≠ 0 ∧ s.get F.LANE_STATUS_state lane.toNat ≠ 5)
  (hloop : s.get F.LANE_CTRL_loop lane.toNat ≠ 3) (hwidth : s.prsWidth lane.toNat ≠ 0)
  (htaken : s.prsTaken lane.toNat = false)
include hlane hloop hwidth htaken

/-- A lane that drives and is not taken by a measurement sends by the mode of its press. -/
theorem execPressUnitSend_mode :
    execPressUnitSend lane tm k s = (match s.prsMode lane.toNat with
      | 0 => .next (if s.prsState lane.toNat = Prs.FROZEN then s.wireIdle lane.toNat Tx.FREEZE tm.toNat k
        else s.sendProgram lane.toNat tm.toNat k)
      | 3 => .next (s.sendFrame lane.toNat tm.toNat k)
      | _ => .next (s.sendRelay lane.toNat tm.toNat k)) := by
  simp only [execPressUnitSend, hlane, hloop, hwidth, htaken, or_self, if_false, Bool.false_eq_true] <;> rfl

theorem execPressUnitSend_relay (hmode : isRelay (s.prsMode lane.toNat) = true) :
    execPressUnitSend lane tm k s = .next (s.sendRelay lane.toNat tm.toNat k) := by
  rw [execPressUnitSend_mode hlane hloop hwidth htaken]
  simp only [isRelay, Bool.or_eq_true, beq_iff_eq] at hmode
  rcases hmode with hmode | hmode
  all_goals
    rw [hmode]
    rfl

end

end

/-- Settles O24: the press sends by its mode. -/
theorem pressUnitsAreSent : Obligations.PressUnitsAreSent := by
  refine ⟨fun s lane tm k hlane hloop hwidth htaken hmode hstate => Gives.eq (show execPressUnitSend lane tm k s = _ from ?_),
    fun s lane tm k hlane hloop hwidth htaken hmode => Gives.eq (show execPressUnitSend lane tm k s = _ from ?_),
    fun s lane tm k hlane hloop hwidth htaken hmode => Gives.eq (execPressUnitSend_relay hlane hloop hwidth htaken hmode)⟩
  · rw [execPressUnitSend_mode hlane hloop hwidth htaken, hmode]
    exact congrArg Host.Outcome.next (if_neg hstate)
  · rw [execPressUnitSend_mode hlane hloop hwidth htaken, hmode]
    rfl

end Sys2Proof.Machine
end

section
/-! PROOFS. The statement about FRAME streams and shapers (spec/14) fails where a trace record waits. -/
namespace Sys2Proof.Machine

/-- A configured FRAME stream 0 that does not run, and a trace record that waits to be captured. -/
def traceRecordWaits : State :=
  { State.reset with
      frames := [(0, { seq := 1 })]
      swf := { State.reset.swf with trace := [[0, 0, 0, 0, 0, 0, 0]] } }

/-- Refutes O25: SHAPER_SLOT ends by capturing the trace records that wait (`State.flushTrace`), also those that waited
before it. The clause leaves the trace to `State.shaperSlot`, which does not touch it. -/
theorem not_shapingCommandsComplete : ¬ Obligations.ShapingCommandsComplete := by
  unfold Obligations.ShapingCommandsComplete
  rintro ⟨-, -, -, hslot, -⟩
  obtain ⟨t, hexec, ht⟩ := hslot traceRecordWaits 0 0 { seq := 1 } (by decide) rfl (by decide)
  have hrun : execShaperSlot 0 traceRecordWaits = .next t := hexec
  have hcaptured : t.swf.trace = [] := by
    rw [← Host.Outcome.next.inj hrun]
    decide
  have hwaits : t.swf.trace ≠ [] := by
    rw [ht]
    decide
  exact hwaits hcaptured

end Sys2Proof.Machine
end

section
/-! PROOFS. The memory controllers (spec/15): read errors, scrub, refresh, retired ranks and expanders. -/
namespace Sys2Proof.Machine

section
variable {s : State}

theorem State.log_mem (code severity unit : Nat) (detail : List Nat) : (s.log code severity unit detail).mem = s.mem :=
  (State.log_kept s code severity unit detail Kept.of_keeps Kept.of_allows).mem rfl

/-- A stuck row of a stack in use is repaired softly; the row joins the stack's uncorrectable rows. -/
theorem execHbmReadError_repaired {q : BitVec 19} {leaf : BitVec 14} {row k : Nat} {l : List (Nat × Nat)} {u : State}
    (hfront : (s.quire q.toNat).target = 0 ∧ s.stored q.toNat = true)
    (hplace : frontPlace (s.quire q.toNat).slot leaf.toNat = (row, k))
    (hstack : s.get F.MEM_HBM_STATUS_state k = V.MEM_HBM_STATUS_state_IN_USE)
    (hredundant : s.get F.MEM_FRONT_STATUS_state = V.MEM_FRONT_STATUS_state_REDUNDANT) (hdegraded : s.mem.degraded = [])
    (hl : l = noteUe s.now 64000000 row (Tbl.get [] s.mem.hbmUe (64 * k + row % 64))) (hfew : l.length < 64)
    (hu : u = ((((s.cnt F.MEM_HBM_UE_COUNT_value 1 k).cnt F.MEM_FRONT_RECON_value).cnt F.MEM_HBM_REPAIRS_soft_repairs 1
      k).ev F.MEM_EVENTS_hbm_repair).log 0x02 1 k [row]) :
    execHbmReadError q leaf true false 15 s =
      .next { u with mem := { u.mem with hbmUe := Tbl.set [] (64 * k + row % 64) l u.mem.hbmUe } } := by
  have hnow : u.now = s.now := by simp -implicitDefEqProofs [hu, State.now]
  have hmem : u.mem = s.mem := by simp -implicitDefEqProofs [hu, State.log_mem]
  have hhole : (upTo 12).find? (fun j => j != k && (decide (j = (15 : BitVec 4).toNat) || s.mem.degraded.contains (j, row) ||
      (s.get F.MEM_FRONT_STATUS_state == V.MEM_FRONT_STATUS_state_DEGRADED &&
        s.get F.MEM_FRONT_STATUS_failed_stack == j))) = none := by
    refine List.find?_eq_none.2 fun j hj => ?_
    have hj15 : j ≠ 15 := Nat.ne_of_lt (Nat.lt_trans (mem_upTo.1 hj) (by decide))
    simp [hredundant, hdegraded, hj15]
  have hnot : ¬((s.quire q.toNat).target ≠ 0 ∨ (!s.stored q.toNat) = true) := by simp [hfront]
  have hfailed : (s.get F.MEM_HBM_STATUS_state k == V.MEM_HBM_STATUS_state_FAILED ||
      s.get F.MEM_HBM_STATUS_state k == V.MEM_HBM_STATUS_state_OUT_OF_SERVICE) = false := by rw [hstack]; rfl
  have hdeg : s.mem.degraded.contains (k, row) = false := by rw [hdegraded]; rfl
  simp -implicitDefEqProofs only [execHbmReadError, if_neg hnot, hplace, hhole, hfailed, hdeg, Bool.not_false,
    Bool.and_self, Bool.not_true, Bool.or_self, Bool.false_eq_true, if_false, State.when, if_true, ← hu, hnow, hmem,
    ← hl]
  rw [if_neg (Nat.not_le.2 hfew)]

theorem execParityScrubRow_fixed {q : BitVec 19} {leaf : BitVec 14} (hon : s.on F.MEM_SCRUB_CFG_enable = true)
    (hstored : s.stored q.toNat = true) (htarget : (s.quire q.toNat).target ≤ 2) :
    execParityScrubRow q leaf true 0 false 0 s =
      .next (((s.cnt F.MEM_PARITY_FIXED_value).ev F.MEM_EVENTS_parity_fixed).copyDiffer 4 q.toNat leaf.toNat) := by
  have hnone : bitsOf 12 (0 : BitVec 12).toNat = [] := by decide
  simp only [execParityScrubRow, hon, hstored, hnone, Bool.not_true, Bool.or_self, Bool.false_eq_true, if_false,
    if_pos htarget]
  rfl

theorem execDdrUeBurst_noted {q : BitVec 19} {leaf : BitVec 14} {leaves : Word} {row c rank : Nat} {l : List (Nat × Nat)}
    {u : State} (hgroup : (s.quire q.toNat).target = 1 ∨ (s.quire q.toNat).target = 2) (hstored : s.stored q.toNat = true)
    (hplace : ddrPlace (s.quire q.toNat).target (s.quire q.toNat).slot leaf.toNat = (row, c) ∧ rank = s.ddrRank c row)
    (hholes : s.ddrHoles (s.quire q.toNat).target row = 0) (hu : u = s.cnt F.MEM_DDR_UE_COUNT_value 1 c)
    (hl : l = noteUe u.now 64000000000 row (Tbl.get [] u.mem.ddrUe (32 * c + rank))) (hfew : l.length < 16) :
    execDdrUeBurst q leaf false leaves s =
      .next { u with mem := { u.mem with ddrUe := Tbl.set [] (32 * c + rank) l u.mem.ddrUe } } := by
  obtain ⟨hat, hrank⟩ := hplace
  have hnot : ¬(((s.quire q.toNat).target ≠ 1 ∧ (s.quire q.toNat).target ≠ 2) ∨ (!s.stored q.toNat) = true) := by
    simpa [hstored] using hgroup.resolve_left
  simp only [execDdrUeBurst, if_neg hnot, hat, ← hrank, hholes, Nat.zero_sub, Nat.lt_irrefl, decide_false,
    Bool.or_self, State.when, Bool.false_eq_true, if_false, ← hu, ← hl]
  rw [if_neg (Nat.not_le.2 hfew)]

theorem execDdrRehomeDone_empty {second : Bool} {g : Nat} {chans : List Nat} (hg : g = 1 + b2n second)
    (hchans : chans = (s.groupChannels g).filter (fun c => s.on F.MEM_DDR_STATUS_rehoming c)) (hsome : chans ≠ [])
    (hempty : s.quiresIn g = []) :
    execDdrRehomeDone second s = .next (((((s.each chans (fun s c => s.clr F.MEM_DDR_STATUS_rehoming c)).log 0x12 0 (g - 1)
      [0, 0]).ev F.MEM_EVENTS_ddr_rehome_done).put F.CAP_TARGET_CAP_value 0 g).recast) := by
  have hnot : ¬ chans.isEmpty = true := by simpa using hsome
  simp -implicitDefEqProofs only [execDdrRehomeDone, ← hg, ← hchans, if_neg hnot, hempty]
  simp -implicitDefEqProofs [State.bySeal, hempty]

theorem execCxlResilverDone_logged {port : BitVec 2} (hport : port.toNat < 3)
    (hon : s.on F.MEM_CXL_STATUS_resilvering port.toNat = true) :
    execCxlResilverDone port s = .next (((s.clr F.MEM_CXL_STATUS_resilvering port.toNat).log 0x21 0 port.toNat
      [((s.clr F.MEM_CXL_STATUS_resilvering port.toNat).quiresIn 6).length]).recast) := by
  have hnot : ¬(decide (3 ≤ port.toNat) || !s.on F.MEM_CXL_STATUS_resilvering port.toNat) = true := by
    simp [hon, hport]
  have hquires : (s.clr F.MEM_CXL_STATUS_resilvering port.toNat).quiresIn 6 = s.quiresIn 6 := by
    simp -implicitDefEqProofs [State.quiresIn, State.stored, State.quire]
  rw [hquires, execCxlResilverDone, if_neg hnot]

end

/-- Settles O26: each command's own effect where its condition holds; only those that read several conditions need a lemma. -/
theorem memoryCommandsComplete : Obligations.MemoryCommandsComplete := by
  unfold Obligations.MemoryCommandsComplete
  refine ⟨?_, ?_, ?_, ?_, ?_, ?_, ?_, ?_, ?_, ?_, ?_, ?_, ?_⟩
  · exact fun s q leaf row k l u hfront hplace hstack hredundant hdegraded hl hfew hu =>
      Gives.eq (execHbmReadError_repaired hfront hplace hstack hredundant hdegraded hl hfew hu)
  · exact fun s stack cause hrange _ => Gives.eq (congrArg Host.Outcome.next (if_pos hrange))
  · exact fun s stack hot hstack => Gives.eq (congrArg Host.Outcome.next (if_pos hstack))
  · exact fun s q leaf hon hstored htarget => Gives.eq (execParityScrubRow_fixed hon hstored htarget)
  · exact fun s c rank => Gives.eq rfl
  · exact fun s c rank double k hk => Gives.eq (hk ▸ rfl)
  · exact fun s q leaf leaves x row c rank l u hx hgroup hstored hplace hholes hu hl hfew =>
      Gives.eq (execDdrUeBurst_noted (hx ▸ hgroup) hstored (hx ▸ hplace) (hx ▸ hholes) hu hl hfew)
  · exact fun s c rank reason leaves => Gives.eq rfl
  · intro s c u hon hu
    refine Gives.eq (show execDdrMigrateDone c s = _ from ?_)
    simp only [execDdrMigrateDone, hon, hu, Bool.not_true, Bool.false_eq_true, if_false]
  · exact fun s second g chans hg hchans hsome hempty =>
      Gives.of_exec (execDdrRehomeDone_empty hg hchans hsome hempty) ⟨_, rfl, rfl⟩
  · intro s q leaf a b p hpair hmirror hp hrole
    obtain ⟨htarget, hstored⟩ := hmirror
    refine Gives.eq (show execCxlReadFailover q leaf true s = _ from ?_)
    simp [execCxlReadFailover, hpair, htarget, hstored, ← hp, hrole]
  · exact fun s port cause hrange _ => Gives.eq (congrArg Host.Outcome.next (if_pos hrange))
  · exact fun s port hport hon => Gives.eq (execCxlResilverDone_logged hport hon)

end Sys2Proof.Machine
end

section
/-! PROOFS. Keys and their renewal (spec/16): the descriptors that pass their checks, pattern writes and the lock. -/
namespace Sys2Proof.Machine

section
variable {s : State} {d : Desc}

theorem State.drbg_of_ok {f : State → State} (hok : s.on F.SEC_STATUS_drbg_ok = true) : s.drbg d f = f s := if_pos hok

theorem State.keyChecks_pass {t : Nat} (hactive : s.slot t = V.SEC_KEY_STATUS_state_ACTIVE) :
    ∀ c ∈ s.keyChecks t, c.1 = false := by
  simp [State.keyChecks, hactive]

theorem execKeyGenerate_done (hadmit : s.admits d = true) (hempty : s.slot d.tenant.toNat = V.SEC_KEY_STATUS_state_EMPTY)
    (hok : s.on F.SEC_STATUS_drbg_ok = true) :
    execKeyGenerate d s = .next (((s.fresh.2.setKey d.tenant.toNat (some (s.fresh.1 % 2 ^ 256))).put
      F.SEC_KEY_STATUS_state V.SEC_KEY_STATUS_state_ACTIVE d.tenant.toNat).ok d (keyCheck (s.fresh.1 % 2 ^ 256))) :=
  congrArg Host.Outcome.next ((State.descriptor_plain hadmit (by simp [hempty])).trans (State.drbg_of_ok hok))

theorem execKeyImport_done {blob : BitVec 320} (hadmit : s.admits d = true)
    (hempty : s.slot d.tenant.toNat = V.SEC_KEY_STATUS_state_EMPTY) :
    execKeyImport d blob false s = .next (((s.setKey d.tenant.toNat (some (keyUnwrap d.tenant.toNat blob))).put
      F.SEC_KEY_STATUS_state V.SEC_KEY_STATUS_state_ACTIVE d.tenant.toNat).ok d (keyCheck (keyUnwrap d.tenant.toNat blob))) := by
  have hnew : (s.slot d.tenant.toNat == V.SEC_KEY_STATUS_state_RESUME_WAIT) = false := by rw [hempty]; rfl
  refine congrArg Host.Outcome.next ((State.descriptor_plain hadmit (by simp [hempty])).trans ?_)
  simp only [hnew, Bool.false_and, Bool.false_eq_true, if_false]

theorem execKeyImportStaged_done {blob : BitVec 320} {u : State} (hadmit : s.admits d = true)
    (hwaits : s.slot d.tenant.toNat = V.SEC_KEY_STATUS_state_RESUME_WAIT) (hkey : (s.key d.tenant.toNat).isSome = true)
    (hnone : s.stagedKey d.tenant.toNat = none) (hprogress : s.progress d.tenant.toNat = none)
    (hu : u = (s.setStaged d.tenant.toNat (some (keyUnwrap d.tenant.toNat blob))).put F.SEC_KEY_STATUS_state
      V.SEC_KEY_STATUS_state_REKEYING d.tenant.toNat) :
    execKeyImportStaged d blob false s =
      .next ((u.rekeyQueue (s.sec.queue ++ [d.tenant.toNat])).ok d (keyCheck (keyUnwrap d.tenant.toNat blob))) := by
  have hstill : u.progress d.tenant.toNat = none := by
    simpa -implicitDefEqProofs [hu, State.progress, State.setStaged] using hprogress
  have hqueue : u.sec.queue = s.sec.queue := by
    simp -implicitDefEqProofs [hu, State.setStaged]
  have hkeep : (s.key d.tenant.toNat).isNone = false := Option.isNone_eq_false_iff.2 hkey
  refine congrArg Host.Outcome.next ((State.descriptor_plain hadmit (by simp [hwaits, hkeep, hnone, hprogress])).trans ?_)
  simp -implicitDefEqProofs only [← hu, hstill, hqueue]

theorem execKeyExport_done {buffer : BitVec 64} (hadmit : s.admits d = true)
    (hactive : s.slot d.tenant.toNat = V.SEC_KEY_STATUS_state_ACTIVE) :
    execKeyExport d buffer s = .next ((s.hostWrite d.tenant.toNat buffer.toNat
      (keyBlob d.tenant.toNat ((s.key d.tenant.toNat).getD 0))).ok d (keyCheck ((s.key d.tenant.toNat).getD 0))) :=
  congrArg Host.Outcome.next (State.descriptor_plain hadmit (State.keyChecks_pass hactive))

theorem execKeyRekey_done {buffer : BitVec 64} {u : State} (hadmit : s.admits d = true)
    (hactive : s.slot d.tenant.toNat = V.SEC_KEY_STATUS_state_ACTIVE) (hnone : s.stagedKey d.tenant.toNat = none)
    (hok : s.on F.SEC_STATUS_drbg_ok = true)
    (hu : u = (s.fresh.2.setStaged d.tenant.toNat (some (s.fresh.1 % 2 ^ 256))).hostWrite d.tenant.toNat buffer.toNat
      (keyBlob d.tenant.toNat (s.fresh.1 % 2 ^ 256))) :
    execKeyRekey d buffer s = .next ((u.rekeyQueue (u.sec.queue ++ [d.tenant.toNat])).ok d
      (keyCheck (s.fresh.1 % 2 ^ 256))) := by
  have hpass : ∀ c ∈ s.keyChecks d.tenant.toNat ++ [((s.stagedKey d.tenant.toNat).isSome, St.REFUSED_BUSY)], c.1 = false := by
    simpa [List.forall_mem_append, hnone] using State.keyChecks_pass hactive
  refine congrArg Host.Outcome.next (((State.descriptor_plain hadmit hpass).trans (State.drbg_of_ok hok)).trans ?_)
  simp only [hu]

theorem execDrbgHealthFailure_reported : ∃ t, execDrbgHealthFailure s = .next t ∧ t.get F.SEC_STATUS_drbg_ok = 0 ∧
    t = ((s.put F.SEC_STATUS_drbg_ok 0).ev F.SEC_EVENTS_drbg_fail).log 0xE3 2 0 [] := by
  refine ⟨_, rfl, ?_, rfl⟩
  rw [State.get_log _ _ _ _ _ (by decide), State.ev_eq, State.get_put_apart (by decide),
    State.get_put_fits (by decide) (by decide) (by decide)]

/-! ## Pattern writes -/

theorem patChunks_single {off n : Nat} {data : List (BitVec 8)} (hdata : data ≠ [])
    (hfits : off % 4032 + data.length ≤ 4032) :
    patChunks (n + 2) off data = [(off / 4032, off % 4032, data)] := by
  have hall : data.length ≤ 4032 - off % 4032 := Nat.le_sub_of_add_le' hfits
  simp [patChunks, hdata, List.take_of_length_le hall, List.drop_of_length_le hall]

/-- A piece inside the leaf the stream holds is merged into it; the full leaf is sealed. -/
theorem State.patPiece_held {n p : Nat} {bad : Bool} {data : List (BitVec 8)} {x : Stream} {l : OpenLeaf} {u : State}
    (hstate : s.strmState n = Strm.ACTIVE) (hx : x = s.strm n) (hleaf : x.leaf = some l)
    (hu : u = s.setStrm n
      { x with leaf := some { l with
          pat := mergeBytes l.pat p data
          filled := l.filled ||| ((2 ^ data.length - 1) * 2 ^ p)
          lastTime := s.now } }) :
    s.patPiece n bad (x.seq, p, data) =
      (if l.filled ||| ((2 ^ data.length - 1) * 2 ^ p) = 2 ^ 4032 - 1 then u.closeLeaf n false false else u, none) := by
  have hsome : (s.strm n).leaf = some l := hx ▸ hleaf
  have hopen : s.openPat n = (s, true) := by simp [State.openPat, hstate, State.ensureLeaf, hsome]
  subst hx
  simp only [State.patPiece, Nat.lt_irrefl, if_false, State.padPat, Nat.sub_self, upTo, List.range_zero,
    List.foldl_nil, Bool.not_true, Bool.false_eq_true, State.patNew, hopen, hsome, hu, if_true]

theorem execPatternWrite_held {n : BitVec 16} {off : BitVec 64} {data : List (BitVec 8)} {x : Stream} {l : OpenLeaf}
    {u : State} (hadmit : s.admits d = true) (hread : d.readFail = false) (hn : n.toNat < 1024)
    (hstate : s.strmState n.toNat = Strm.ACTIVE) (hheld : s.strmHolder n.toNat = d.tenant.toNat)
    (hkind : s.strmKind n.toNat = Kind.PATTERN) (hseal : s.sealCheck d.tenant.toNat = 0)
    (hleft : s.on F.SEC_KEY_STATUS_exhausted d.tenant.toNat = false) (hx : x = s.strm n.toNat) (hleaf : x.leaf = some l)
    (hseq : x.seq = off.toNat / 4032) (hdata : data ≠ []) (hfits : off.toNat % 4032 + data.length ≤ 4032)
    (hu : u = s.setStrm n.toNat
      { x with leaf := some { l with
          pat := mergeBytes l.pat (off.toNat % 4032) data
          filled := l.filled ||| ((2 ^ data.length - 1) * 2 ^ (off.toNat % 4032))
          lastTime := s.now } }) :
    execPatternWrite d n off data false s = .next
      ((if l.filled ||| ((2 ^ data.length - 1) * 2 ^ (off.toNat % 4032)) = 2 ^ 4032 - 1 then
        u.closeLeaf n.toNat false false else u).ok d data.length) := by
  obtain ⟨b, bs, rfl⟩ := List.exists_cons_of_ne_nil hdata
  have hchunks : patChunks ((b :: bs).length + 1) off.toNat (b :: bs) = [(x.seq, off.toNat % 4032, b :: bs)] := by
    rw [hseq]; exact patChunks_single hdata hfits
  have hshort : ¬ 1048576 < (b :: bs).length := by omega
  have hidle : s.strmState n.toNat ≠ Strm.IDLE := by rw [hstate]; decide
  refine congrArg Host.Outcome.next ((State.descriptor_plain hadmit ?_).trans ?_)
  · rw [hchunks, hx]
    refine List.forall_mem_append.2 ⟨State.strmChecks_pass hn hidle hheld, ?_⟩
    simpa [hkind, hstate, hseal, hleft] using hshort
  · simp only [hread, Bool.false_eq_true, if_false, hchunks, List.foldl_cons, List.foldl_nil,
      State.patPiece_held hstate hx hleaf hu, Option.isNone_none, if_true, Nat.zero_add, Option.getD_none]
    rfl

theorem execSecLock_locked {p : Path} {v : Word} (hw : s.writable p Reg.SEC_CTRL 0 0 0 v = true) :
    execSecLock p v s = .next ((s.applyWrite p Reg.SEC_CTRL 0 0 0 v).put F.SEC_STATUS_locked
      ((s.applyWrite p Reg.SEC_CTRL 0 0 0 v).get F.SEC_CTRL_lock)) :=
  congrArg (fun r : State × Nat => Host.Outcome.next r.1) (State.guardWrite_writable hw rfl)

theorem execRekeyEngineTake_taken {n : Nat} {r : List Nat} {u : State} (hqueue : s.sec.queue = n :: r)
    (hfree : s.on F.SEC_STATUS_rekey_busy = false)
    (hu : u = (((s.rekeyQueue r).put F.SEC_STATUS_rekey_busy 1).put F.SEC_STATUS_rekey_tenant n).put
      F.SEC_KEY_STATUS_state V.SEC_KEY_STATUS_state_REKEYING n) :
    execRekeyEngineTake s = .next (((u.setBoundary n (Tbl.get 0 u.sec.bounds n)).put F.SEC_REKEY_LEFT_value
      (quiresOf ((u.setBoundary n (Tbl.get 0 u.sec.bounds n)).rekeyLeaves n (Tbl.get 0 u.sec.bounds n))).length).recast) := by
  simp only [execRekeyEngineTake, hqueue, hfree, Bool.false_eq_true, if_false, ← hu]

theorem execRekeyAdvance_within {n m : Nat} {r : List Nat} (hbusy : s.on F.SEC_STATUS_rekey_busy = true)
    (hleaves : s.rekeyLeaves (s.get F.SEC_STATUS_rekey_tenant) (Tbl.get 0 s.sec.bounds (s.get F.SEC_STATUS_rekey_tenant)) =
      n :: m :: r)
    (hstate : (s.quire (n / 16384)).state ≠ Qr.DRAINING) (hsame : m / 16384 = n / 16384) :
    execRekeyAdvance s = .next ((s.rekeyLeaf n).setBoundary (s.get F.SEC_STATUS_rekey_tenant) m) := by
  simp [execRekeyAdvance, hbusy, hleaves, hstate, hsame, State.when]

end

/-- Settles O27: each descriptor passes its checks and does its work; a pattern piece goes into the leaf held. -/
theorem keyCommandsComplete : Obligations.KeyCommandsComplete := by
  unfold Obligations.KeyCommandsComplete
  refine ⟨?_, ?_, ?_, ?_, ?_, ?_, ?_, ?_, ?_, ?_, ?_⟩
  · exact fun s d hadmit hempty hok => Gives.of_exec (execKeyGenerate_done hadmit hempty hok) ⟨_, rfl, rfl⟩
  · exact fun s d blob hadmit hempty => Gives.of_exec (execKeyImport_done hadmit hempty) ⟨_, rfl, rfl⟩
  · exact fun s d blob hadmit ⟨hwaits, hkey, hnone⟩ hprogress =>
      Gives.of_exec (execKeyImportStaged_done hadmit hwaits hkey hnone hprogress rfl) ⟨_, _, rfl, rfl, rfl⟩
  · exact fun s d buffer hadmit hactive => Gives.eq (execKeyExport_done hadmit hactive)
  · exact fun s d buffer hadmit hactive hnone hok =>
      Gives.of_exec (execKeyRekey_done hadmit hactive hnone hok rfl) ⟨_, _, rfl, rfl, rfl⟩
  · exact fun s d hadmit hslot huse =>
      Gives.eq (congrArg Host.Outcome.next (State.descriptor_plain hadmit (by simp [hslot, huse])))
  · exact fun s => execDrbgHealthFailure_reported
  · exact fun s n r u hqueue hfree hu => Gives.of_exec (execRekeyEngineTake_taken hqueue hfree hu) ⟨_, rfl, rfl⟩
  · exact fun s n m r hbusy hleaves hstate hsame => Gives.eq (execRekeyAdvance_within hbusy hleaves hstate hsame)
  · intro s d n off data x l ⟨hadmit, hread⟩ hn ⟨hstate, hheld, hkind⟩ ⟨hseal, hleft⟩ ⟨hx, hleaf⟩ hseq ⟨hdata, hfits⟩
    exact Gives.of_exec
      (execPatternWrite_held hadmit hread hn hstate hheld hkind hseal hleft hx hleaf hseq hdata hfits rfl)
      ⟨_, _, rfl, rfl, rfl⟩
  · exact fun s p v hw => Gives.eq (execSecLock_locked hw)

end Sys2Proof.Machine
end

section
/-! PROOFS. The statement about token queues (spec/17) fails where the register store is not in the order of its keys. -/
namespace Sys2Proof.Machine

/-- After the start, with one front quire free and the register that counts it stored behind a higher register. -/
def frontFreeStoredLate : State :=
  { State.reset with
      boot := { State.reset.boot with ready := true }
      regs := [(Reg.CAP_STATUS.addr 0 0 0 + 1, 1), (Reg.CAP_STATUS.addr 0 0 0, 65536)] }

/-- Refutes O28: POOL_CFG_WRITE of no quires over an empty pool returns no quire (`State.returnPool`), which leaves the count
of free front quires alone. The clause takes no quire from it (`State.takePool`), which writes the count again: where the
store holds it behind a higher register it then stands twice. Both states read the same. -/
theorem not_queueCommandsComplete : ¬ Obligations.QueueCommandsComplete := by
  unfold Obligations.QueueCommandsComplete
  rintro ⟨hpool, -⟩
  obtain ⟨t, hexec, ht⟩ := hpool frontFreeStoredLate .management 0 (by decide) (by decide) ⟨rfl, rfl⟩ (by decide) (by decide)
  have hrun : execPoolCfgWrite .management 0 frontFreeStoredLate = .next t := hexec
  have hleft : t.regs.length = 2 := by
    rw [← Host.Outcome.next.inj hrun]
    decide
  have htwice : t.regs.length = 3 := by
    rw [ht]
    decide
  exact absurd (hleft.symm.trans htwice) (by decide)

end Sys2Proof.Machine
end

section
/-! PROOFS. Graph operations, tasks and dispatches (spec/17). -/
namespace Sys2Proof.Machine

section
variable {s : State} {d : Desc} {o : Nat}

/-! ## The record of an operation -/

theorem State.op_setOp_same (s : State) (o : Nat) (x : Op) : (s.setOp o x).op o = x := Tbl.get_set_same ..

theorem State.op_put (f : Fld) (v i j k o : Nat) : (s.put f v i j k).op o = s.op o := by
  rw [State.op, State.put_swf, State.op]

theorem State.op_addPair_decisions (n o : Nat) :
    (s.addPair Reg.SWF_DECISIONS_LO Reg.SWF_DECISIONS_HI n).op o = s.op o := by
  have hallows : (Kept.of [.SWF] s).Allows [.SWF] := Kept.of_allows
  have hkeeps := State.addPair_kept s _ _ n 0 Kept.of_keeps (hallows.regs (r := Reg.SWF_DECISIONS_LO) rfl)
    (hallows.regs (r := Reg.SWF_DECISIONS_HI) rfl)
  have hswf : (s.addPair Reg.SWF_DECISIONS_LO Reg.SWF_DECISIONS_HI n).swf = s.swf := hkeeps.swf rfl
  rw [State.op, hswf, State.op]

theorem State.op_swfTrace (kind t p handle q detail o : Nat) : (s.swfTrace kind t p handle q detail).op o = s.op o := by
  rw [State.swfTrace]
  split <;> rfl

theorem State.opTasks_setOp (x : Op) : (s.setOp o x).opTasks o = s.opTasks o := rfl

theorem State.opTasks_swfTrace (kind t p handle q detail o : Nat) :
    (s.swfTrace kind t p handle q detail).opTasks o = s.opTasks o := by
  rw [State.swfTrace]
  split <;> rfl

theorem State.opQuiesce_of_tasks (h : s.opTasks o ≠ 0) : s.opQuiesce o = s := if_pos h

theorem State.opChecks_pass (ho : o < 262144) (hheld : s.opHolder o = d.tenant.toNat) (hon : s.swfOn = true) {more : Bool}
    (hmore : more = false) : ∀ c ∈ s.opChecks d o more, c.1 = false := by
  simp [State.opChecks, ho, hheld, hon, hmore]

theorem State.migrateChecks_pass {cls prio set : Nat} (ho : o < 262144) (hheld : s.opHolder o = d.tenant.toNat)
    (hon : s.swfOn = true) (hcls : cls ≤ 15) (hprio : prio ≤ 7) (hstate : (s.op o).state = OpSt.RUNNING) :
    ∀ c ∈ s.migrateChecks d o cls prio set, c.1 = false := by
  have hrange : (bit set 0 && decide (15 < cls) || bit set 1 && decide (7 < prio)) = false := by
    simp [Nat.not_lt.2 hcls, Nat.not_lt.2 hprio]
  refine List.forall_mem_append.2 ⟨State.opChecks_pass ho hheld hon hrange, ?_⟩
  simp [hstate]

theorem Op.newSettings_both (x : Op) (cls prio : Nat) : x.newSettings cls prio (3 : BitVec 2).toNat = (cls, prio) := rfl

/-! ## Operations -/

theorem recBad_inputs {r : BitVec 368} (h : recBad r = false) : recByte r 5 ≤ 4 := by
  simp only [recBad, Bool.or_eq_false_iff, decide_eq_false_iff_not] at h
  omega

theorem execOpDefine_defined {p : Word} {r : BitVec 368} (hadmit : s.admits d = true)
    (hp : p.toNat < 262144 ∧ s.opHolder p.toNat = d.tenant.toNat) (hr : recReserved r = false ∧ recBad r = false)
    (hdqs : (recDqs r).all (fun q => s.dqHolder q == d.tenant.toNat && (s.dq q).alloc) = true)
    (hins : (recEntries r 8 (recByte r 5)).all (fun e => (s.dq e.1).consumer == 0) = true) (hon : s.swfOn = true)
    (hfree : (s.op p.toNat).state = OpSt.FREE) :
    ∃ u : State, execOpDefine d p r s = .next (u.ok d).flushTrace ∧ u.op p.toNat =
      { state := OpSt.STOPPED
        ordered := bit (recByte r 2) 0
        fireAny := bit (recByte r 2) 1
        err := if bit (recByte r 2) 2 then some (bits (recWord r 40) 19 0) else none
        cls := recByte r 3 / 16
        prio := recByte r 3 % 8
        maxInflight := recByte r 4
        ins := recEntries r 8 (recByte r 5)
        outs := recEntries r 24 (recByte r 6)
        arg := recWord r 44 } := by
  obtain ⟨hlt, hheld⟩ := hp
  obtain ⟨hreserved, hbad⟩ := hr
  have hmin : Nat.min 4 (recByte r 5) = recByte r 5 := Nat.min_eq_right (recBad_inputs hbad)
  simp only [List.all_eq_true, Bool.and_eq_true, beq_iff_eq] at hdqs hins
  have hidle : (s.op p.toNat).inUse = false := by rw [Op.inUse, hfree]; rfl
  have hholders : (recDqs r).any (fun q => s.dqHolder q != d.tenant.toNat) = false := by
    simpa using fun q hq => (hdqs q hq).1
  have halloc : (recDqs r).any (fun q => !(s.dq q).alloc) = false := by simpa using fun q hq => (hdqs q hq).2
  refine ⟨_, congrArg swfNext (State.descriptor_plain hadmit ?_), ?_⟩
  · simpa [hmin, hreserved, hbad, hlt, hheld, hholders, halloc, hon, hidle] using
      fun q n hq hconsumed => absurd (hins (q, n) hq) hconsumed
  · refine State.each_mem_preserves (fun t : State => t.op p.toNat = _) (fun t e _ ht => ht) ?_
    rw [State.op_setOp_same, hmin]

theorem inUse_of_stopped {x : Op} (hstopped : x.state = OpSt.STOPPED) : x.inUse = false := by
  rw [Op.inUse, hstopped]
  rfl

theorem execOpEnable_running {p : Word} (hadmit : s.admits d = true)
    (hp : p.toNat < 262144 ∧ s.opHolder p.toNat = d.tenant.toNat) (hon : s.swfOn = true)
    (hstopped : (s.op p.toNat).state = OpSt.STOPPED) :
    execOpEnable d p s = .next (((s.setOp p.toNat
      { s.op p.toNat with state := OpSt.RUNNING, seq := 0, commit := 0, passed := [] }).pend p.toNat).ok d).flushTrace := by
  refine congrArg swfNext (State.descriptor_plain hadmit ?_)
  refine List.forall_mem_append.2 ⟨State.opChecks_pass hp.1 hp.2 hon rfl, ?_⟩
  have hused : (s.op p.toNat).state ≠ OpSt.FREE := hstopped ▸ (by decide : OpSt.STOPPED ≠ OpSt.FREE)
  simp [inUse_of_stopped hstopped, hused]

theorem execOpStop_quiescing {p : Word} (hadmit : s.admits d = true)
    (hp : p.toNat < 262144 ∧ s.opHolder p.toNat = d.tenant.toNat) (hon : s.swfOn = true)
    (hrunning : (s.op p.toNat).state = OpSt.RUNNING) (htasks : s.opTasks p.toNat ≠ 0) :
    execOpStop d p s = .next ((s.setOp p.toNat { s.op p.toNat with state := OpSt.QUIESCING }).ok d).flushTrace := by
  refine congrArg swfNext ((State.descriptor_plain hadmit ?_).trans ?_)
  · refine List.forall_mem_append.2 ⟨State.opChecks_pass hp.1 hp.2 hon rfl, ?_⟩
    simp [hrunning]
  · exact congrArg (State.ok · d) (State.opQuiesce_of_tasks htasks)

theorem execOpFree_freed {p : Word} (hadmit : s.admits d = true)
    (hp : p.toNat < 262144 ∧ s.opHolder p.toNat = d.tenant.toNat) (hon : s.swfOn = true)
    (hstopped : (s.op p.toNat).state = OpSt.STOPPED) :
    execOpFree d p s = .next (((s.unlinkOp p.toNat).setOp p.toNat {}).ok d).flushTrace := by
  refine congrArg swfNext (State.descriptor_plain hadmit ?_)
  refine List.forall_mem_append.2 ⟨State.opChecks_pass hp.1 hp.2 hon rfl, ?_⟩
  have hused : (s.op p.toNat).state ≠ OpSt.FREE := hstopped ▸ (by decide : OpSt.STOPPED ≠ OpSt.FREE)
  simp [inUse_of_stopped hstopped, hused]

theorem execOpMigrateLive_done {p : Word} {cls prio : BitVec 8} (hadmit : s.admits d = true)
    (hp : p.toNat < 262144 ∧ s.opHolder p.toNat = d.tenant.toNat) (hon : s.swfOn = true)
    (hrange : cls.toNat ≤ 15 ∧ prio.toNat ≤ 7) (hrunning : (s.op p.toNat).state = OpSt.RUNNING) :
    ∃ u : State, execOpMigrateLive d p cls prio 3 s = .next (u.ok d).flushTrace ∧
      u.op p.toNat = { s.op p.toNat with cls := cls.toNat, prio := prio.toNat } := by
  refine ⟨_, congrArg swfNext (State.descriptor_plain hadmit
    (State.migrateChecks_pass hp.1 hp.2 hon hrange.1 hrange.2 hrunning)), ?_⟩
  rw [State.op_swfTrace, State.countReady, State.op_put, State.countReady, State.op_put]
  exact State.op_setOp_same ..

theorem execOpMigrateDrain_waits {p : Word} {cls prio : BitVec 8} (hadmit : s.admits d = true)
    (hp : p.toNat < 262144 ∧ s.opHolder p.toNat = d.tenant.toNat) (hon : s.swfOn = true)
    (hrange : cls.toNat ≤ 15 ∧ prio.toNat ≤ 7) (hrunning : (s.op p.toNat).state = OpSt.RUNNING)
    (htasks : s.opTasks p.toNat ≠ 0) :
    ∃ u : State, execOpMigrateDrain d p cls prio 3 s = .next (u.ok d).flushTrace ∧
      u.op p.toNat = { s.op p.toNat with state := OpSt.MIGRATING, migrate := some (cls.toNat, prio.toNat) } := by
  refine ⟨_, congrArg swfNext (State.descriptor_plain hadmit
    (State.migrateChecks_pass hp.1 hp.2 hon hrange.1 hrange.2 hrunning)), ?_⟩
  rw [State.opQuiesce_of_tasks (by rwa [State.opTasks_swfTrace, State.opTasks_setOp]), State.op_swfTrace]
  exact State.op_setOp_same ..

/-- A decision for an operation that does not run only takes it from the list and counts. -/
theorem execDecision_idle {e : BitVec 2} {tn : BitVec 8} {u : State} (hu : u = s.newRound e.toNat)
    (hfirst : u.firstPending e.toNat tn.toNat = some o)
    (hweight : u.roundUsed e.toNat tn.toNat < u.get F.SWF_TENANT_CFG_weight tn.toNat)
    (hidle : (u.op o).state ≠ OpSt.RUNNING) :
    execDecision e tn s = .next
      (({ u with swf := { u.swf with
          pend := u.swf.pend.erase o
          used := Tbl.upd 0 (256 * e.toNat + tn.toNat) (· + 1) u.swf.used } }).addPair
        Reg.SWF_DECISIONS_LO Reg.SWF_DECISIONS_HI 1) := by
  simp -implicitDefEqProofs only [execDecision, ← hu, hfirst, if_neg (Nat.not_le.2 hweight),
    State.op_addPair_decisions]
  exact if_pos hidle

/-! ## Tasks -/

theorem execTaskCommit_empty {slot : BitVec 16} {k : Task} (hk : k = s.task slot.toNat) (hdone : k.phase = Phase.DONE)
    (hunordered : (s.op k.op).ordered = false) (hheld : k.held = []) :
    execTaskCommit slot s = .next (((s.releasePlaces k).swfTrace Trace.COMMIT ((s.releasePlaces k).opHolder k.op) k.op
      (k.handle slot.toNat) 0 0).freeTask slot.toNat).flushTrace := by
  have hready : ¬(k.phase ≠ Phase.DONE ∨ ((s.op k.op).ordered = true ∧ (s.op k.op).commit ≠ k.seq)) := by
    simp [hdone, hunordered]
  have hnone : (upTo (s.op k.op).outs.length).flatMap (fun _ => ([] : List (Nat × Nat))) = [] := by simp
  simp -implicitDefEqProofs only [execTaskCommit, ← hk, if_neg hready, hheld, List.filter_nil, hnone, List.length_nil]
  simp -implicitDefEqProofs only [hunordered, Bool.false_eq_true, if_false]
  rfl

theorem execTaskFetch_asks {cls : BitVec 8} {buffer : BitVec 64} {waitMs taskMs : Word} (hadmit : s.admits d = true)
    (hargs : cls.toNat ≤ 15 ∧ 0 < taskMs.toNat ∧ taskMs.toNat ≤ 60000) (hon : s.swfOn = true) :
    execTaskFetch d cls buffer waitMs taskMs s = .next
      ({ s with swf := { s.swf with asks := s.swf.asks ++
        [({ source := hostSource d
            pool := 16 * d.tenant.toNat + cls.toNat
            host := some (d, buffer.toNat, waitMs.toNat, taskMs.toNat) } : Ask)] } }).flushTrace := by
  obtain ⟨hcls, hpos, hlim⟩ := hargs
  have hms : taskMs ≠ 0#32 := fun h => by simp [h] at hpos
  refine congrArg swfNext (State.descriptor_plain hadmit ?_)
  simp [Nat.not_lt.2 hcls, Nat.not_lt.2 hlim, hms, hon]

theorem execTaskFetchTimeout_ends {tn : BitVec 8} {ring : BitVec 6} {entry : BitVec 16} {src pool buf wt lim : Nat}
    {r : List Ask} (hasks : s.swf.asks = { source := src, pool := pool, host := some (d, buf, wt, lim) } :: r)
    (hd : d.tenant = tn ∧ d.ring = ring ∧ d.entry = entry ∧ wt ≠ 0) (hr : r.all (fun a => a.host == none) = true) :
    execTaskFetchTimeout tn ring entry s =
      .next (({ s with swf := { s.swf with asks := r } }).complete d St.TIMEOUT 0) := by
  obtain ⟨rfl, rfl, rfl, hwt⟩ := hd
  have hmine : (d.tenant == d.tenant && d.ring == d.ring && d.entry == d.entry && wt != 0) = true := by simp [hwt]
  simp only [List.all_eq_true, beq_iff_eq] at hr
  simp only [execTaskFetchTimeout, hasks, List.find?_cons, List.filter_cons, hmine, Bool.not_true,
    Bool.false_eq_true, if_false]
  refine congrArg (fun l => Host.Outcome.next (({ s with swf := { s.swf with asks := l } }).complete d St.TIMEOUT 0)) ?_
  exact List.filter_eq_self.2 fun a ha => by rw [hr a ha]; rfl

theorem execTaskDone_empty {handle : Word} {i : Nat} {k : Task} (hadmit : s.admits d = true) (hread : d.readFail = false)
    (hk : i = handle.toNat % 65536 ∧ k = s.task i)
    (hgranted : k.phase = Phase.GRANTED ∧ k.gen = handle.toNat / 65536 ∧ 0x1000 ≤ k.exec)
    (hheld : s.opHolder k.op = d.tenant.toNat) :
    execTaskDone d handle 0 0 [] s = .next ((s.taskDone i 0).ok d k.held.length).flushTrace := by
  obtain ⟨hi, hk⟩ := hk
  obtain ⟨hphase, hgen, hexec⟩ := hgranted
  simp only [State.admits, Bool.and_eq_true, Bool.not_eq_true'] at hadmit
  obtain ⟨⟨⟨hdead, hready⟩, hrsv⟩, -⟩ := hadmit
  have hopen : ¬(s.dead = true ∨ (!s.boot.ready) = true ∨ d.rsvSet = true) := by simp [hdead, hready, hrsv]
  have hfresh : (k.phase != Phase.GRANTED || k.gen != handle.toNat / 65536 || decide (k.exec < 0x1000)) = false := by
    simp [hphase, hgen, hexec]
  simp only [execTaskDone, ← hi, ← hk, if_neg hopen, hfresh, hheld, hread, List.zip_nil_right]
  simp [swfNext, State.each, ← hk]

theorem execDispatchRequest_asks {sec : BitVec 8} {port : BitVec 2} {cls : BitVec 4} {src : Nat}
    (hsrc : src = portSource sec.toNat port.toNat) (hon : s.swfOn = true)
    (hrunning : s.get F.FAB_SECT_STATUS_state sec.toNat = Sec.RUNNING) (hfree : s.heldTask src = none)
    (hnew : s.swf.asks.any (fun a => a.source == src) = false) :
    execDispatchRequest sec port cls s = .next { s with swf := { s.swf with asks := s.swf.asks ++
      [({ source := src, pool := 16 * s.get F.FAB_SECT_STATUS_holder sec.toNat + cls.toNat } : Ask)] } } := by
  simp only [execDispatchRequest, ← hsrc, hon, hrunning, hfree, hnew]
  rfl

end

/-- Settles O29: each command's effect, where its checks pass and its condition holds. -/
theorem graphCommandsComplete : Obligations.GraphCommandsComplete := by
  unfold Obligations.GraphCommandsComplete
  refine ⟨?_, ?_, ?_, ?_, ?_, ?_, ?_, ?_, ?_, ?_, ?_, ?_, ?_, ?_, ?_, ?_⟩
  · intro s d o r hadmit ho hr hdqs hins hon hfree
    obtain ⟨u, hexec, hop⟩ := execOpDefine_defined hadmit ho hr hdqs hins hon hfree
    exact Gives.of_exec hexec ⟨u, rfl, by simp only [hop, and_self]⟩
  · exact fun s d o hadmit ho hon hstopped => Gives.eq (execOpEnable_running hadmit ho hon hstopped)
  · exact fun s d o hadmit ho hon hrunning htasks => Gives.eq (execOpStop_quiescing hadmit ho hon hrunning htasks)
  · exact fun s d o hadmit ho hon hstopped => Gives.eq (execOpFree_freed hadmit ho hon hstopped)
  · intro s d o cls prio hadmit ho hon hrange hrunning
    obtain ⟨u, hexec, hop⟩ := execOpMigrateLive_done hadmit ho hon hrange hrunning
    exact Gives.of_exec hexec ⟨u, rfl, hop⟩
  · intro s d o cls prio hadmit ho hon hrange hrunning htasks
    obtain ⟨u, hexec, hop⟩ := execOpMigrateDrain_waits hadmit ho hon hrange hrunning htasks
    exact Gives.of_exec hexec ⟨u, rfl, hop⟩
  · exact fun s e tn u o hu hfirst hweight hidle => Gives.eq (execDecision_idle hu hfirst hweight hidle)
  · exact fun s slot k hk hdone hunordered hheld => Gives.eq (execTaskCommit_empty hk hdone hunordered hheld)
  · exact fun s d cls buffer waitMs taskMs hadmit hargs hon => Gives.eq (execTaskFetch_asks hadmit hargs hon)
  · exact fun s tn ring entry d src pool buf wt lim r hasks hd hr => Gives.eq (execTaskFetchTimeout_ends hasks hd hr)
  · exact fun s d handle i k hadmit hread hk hgranted hheld =>
      Gives.eq (execTaskDone_empty hadmit hread hk hgranted hheld)
  · exact fun s slot hphase hexec => Gives.eq (if_pos ⟨hphase, hexec⟩)
  · exact fun s slot cause _ => Gives.eq rfl
  · exact fun s sec port cls src hsrc hon hrunning hfree hnew =>
      Gives.eq (execDispatchRequest_asks hsrc hon hrunning hfree hnew)
  · intro s sec port index token i hheld
    refine Gives.eq (show execDispatchOutput sec port index token s = _ from ?_)
    simp only [execDispatchOutput, hheld, swfNext]
  · intro s sec port status i hheld
    refine Gives.eq (show execDispatchDone sec port status s = _ from ?_)
    simp only [execDispatchDone, hheld, swfNext]

end Sys2Proof.Machine
end

section
/-! PROOFS. The instructions of a signal core (spec/19): an instruction that issues retires with its result. -/
namespace Sys2Proof.Machine

section
variable {s : State} {c op : Nat} {x : CoreSt} {w : Nat} {body : CoreSt → Nat → CoreRes}

/-! ## Issue -/

theorem CoreSt.atIssue_pc (x : CoreSt) : x.atIssue.pc = x.pc := by
  rw [CoreSt.atIssue]
  split <;> rfl

theorem CoreSt.atIssue_fetched (x : CoreSt) : x.atIssue.fetched = x.fetched := by
  rw [CoreSt.atIssue]
  split <;> rfl

theorem CoreSt.atIssue_dma (x : CoreSt) : x.atIssue.dma = x.dma := by
  rw [CoreSt.atIssue]
  split <;> rfl

theorem CoreSt.atIssue_addr (x : CoreSt) : x.atIssue.addr = x.addr := by
  rw [CoreSt.atIssue]
  split <;> rfl

theorem CoreSt.atIssue_word (x : CoreSt) : x.atIssue.word = x.word := by
  rw [CoreSt.atIssue]
  split <;> rfl

theorem State.core_setCore_same (s : State) (c : Nat) (x : CoreSt) : (s.setCore c x).core c = x := Tbl.get_set_same ..

theorem State.get_setCore_apart {f : Fld} (h : Reg.SGC_STATUS.apart f.r = true) (c : Nat) (x : CoreSt) (i j k : Nat) :
    (s.setCore c x).get f i j k = s.get f i j k := by
  have h1 : F.SGC_STATUS_ie.r.apart f.r = true := h
  have h2 : F.SGC_STATUS_exl.r.apart f.r = true := h
  have h3 : F.SGC_STATUS_task_held.r.apart f.r = true := h
  have h4 : F.SGC_STATUS_pc.r.apart f.r = true := h
  rw [State.setCore, State.get_put_apart h4, State.get_put_apart h3, State.get_put_apart h2, State.get_put_apart h1]
  rfl

/-- With no comparator enabled nothing is watched. -/
theorem State.watch_disabled (h : ∀ n < 32, s.on F.DBG_COMP_CFG_enable n = false) (pc : Nat)
    (acc : List (Nat × Bool × Nat)) : s.watch c pc acc = (s, none) := by
  have hnone : (upTo 32).filter (fun n => s.compMatch n c pc acc) = [] := by
    refine List.filter_eq_nil_iff.2 fun n hn => ?_
    simp [State.compMatch, State.compHit, h n (mem_upTo.1 hn)]
  rw [State.watch, hnone]
  rfl

theorem State.coreAt_running
    (h : s.coreAt c op = true) : s.coreState c = Core.RUNNING ∧ (s.core c).fetched / 2 ^ 24 = op := by
  simp only [State.coreAt, Bool.and_eq_true, beq_iff_eq] at h
  exact h.1

theorem State.coreAt_unwatched (h : s.coreAt c op = true) (y : CoreSt) :
    ∀ n < 32, (s.setCore c y).on F.DBG_COMP_CFG_enable n = false := by
  intro n hn
  simp only [State.coreAt, Bool.and_eq_true, List.all_eq_true, Bool.not_eq_true'] at h
  rw [State.on, State.get_setCore_apart (by decide)]
  exact h.2 n (mem_upTo.2 hn)

theorem State.coreAt_issues (h : s.coreAt c op = true) :
    ¬(s.coreState c ≠ Core.RUNNING ∨ ((s.core c).fetched / 2 ^ 24 ≠ op ∧ opDefined ((s.core c).fetched / 2 ^ 24) = true)) := by
  obtain ⟨hrunning, hop⟩ := State.coreAt_running h
  rintro (hstate | ⟨hne, -⟩)
  · exact hstate hrunning
  · exact hne hop

/-- An instruction that issues on an unwatched core retires with the result of its body. -/
theorem State.issue_retires {post : State → State} (hx : x = (s.core c).atIssue) (hw : w = x.fetched)
    (hissues : s.coreIssues c op = true) {r : CoreRes} (hr : body x w = r) (hstall : r.stall = false)
    (hopen : r.openD = false) : s.issue c op false 0 body post = post (s.coreRetires c x r) := by
  simp only [State.coreIssues, Bool.and_eq_true, Option.isNone_iff_eq_none] at hissues
  obtain ⟨hat, hexc⟩ := hissues
  rw [← CoreSt.atIssue_fetched, ← CoreSt.atIssue_pc, ← hx, ← hw] at hexc
  have hword : Tbl.get 0 (s.core c).imem (s.core c).pc = w := by
    rw [hw, hx, CoreSt.atIssue_fetched, CoreSt.fetched]
  have hgo := State.coreAt_issues hat
  rw [CoreSt.fetched, hword] at hgo
  rw [CoreSt.atIssue] at hx
  simp -implicitDefEqProofs only [State.issue, hword, hr, if_neg hgo, State.when, Bool.false_eq_true, if_false,
    ← hx, hexc, State.watch_disabled (State.coreAt_unwatched hat x), hstall, hopen, Bool.or_false, Bool.and_false,
    show ((0 : Nat) == 2) = false from rfl, show ((0 : Nat) == 1) = false from rfl,
    show ((0 : Nat) == 3) = false from rfl, State.coreRetires]

/-- An instruction with no further effect leaves the core with its result. -/
theorem Gives.issue {i : Instr} {c : BitVec 8} (hexec : exec i s = .next (s.issue c.toNat op false 0 body id))
    (hx : x = (s.core c.toNat).atIssue) (hw : w = x.fetched) (hissues : s.coreIssues c.toNat op = true) {r : CoreRes}
    (hr : body x w = r) (hstall : r.stall = false) (hopen : r.openD = false) :
    Gives i s (fun t => t = s.coreRetires c.toNat x r) :=
  Gives.eq (hexec.trans (congrArg Host.Outcome.next (State.issue_retires hx hw hissues hr hstall hopen)))

theorem CoreSt.loopRes_stall (count : Nat) : (x.loopRes w count).stall = false ∧ (x.loopRes w count).openD = false := by
  rw [CoreSt.loopRes]
  split <;> exact ⟨rfl, rfl⟩

theorem CoreSt.repRes_stall (count : Nat) : (x.repRes count).stall = false ∧ (x.repRes count).openD = false := by
  rw [CoreSt.repRes]
  split <;> exact ⟨rfl, rfl⟩

end

/-- Settles O31: each control-flow instruction retires with its jump, loop or repetition. -/
theorem coreControlInstructionsComplete : Obligations.CoreControlInstructionsComplete := by
  unfold Obligations.CoreControlInstructionsComplete
  refine ⟨?_, ?_, ?_, ?_, ?_, ?_, ?_, ?_, ?_, ?_, ?_⟩
  · exact fun s c x w hx hw hi => Gives.issue rfl hx hw hi rfl rfl rfl
  · exact fun s c x w hx hw hi => Gives.issue rfl hx hw hi rfl rfl rfl
  · exact fun s c x w hx hw hi => Gives.issue rfl hx hw hi rfl rfl rfl
  · exact fun s c x w hx hw hi => Gives.issue rfl hx hw hi rfl rfl rfl
  · exact fun s c x w hx hw hi => Gives.issue rfl hx hw hi rfl rfl rfl
  · exact fun s c x w hx hw hi => Gives.issue rfl hx hw hi rfl rfl rfl
  · exact fun s c x w hx hw hi => Gives.issue rfl hx hw hi rfl rfl rfl
  · exact fun s c x w hx hw hi => Gives.issue rfl hx hw hi rfl (CoreSt.loopRes_stall _).1 (CoreSt.loopRes_stall _).2
  · exact fun s c x w hx hw hi => Gives.issue rfl hx hw hi rfl (CoreSt.loopRes_stall _).1 (CoreSt.loopRes_stall _).2
  · exact fun s c x w hx hw hi => Gives.issue rfl hx hw hi rfl (CoreSt.repRes_stall _).1 (CoreSt.repRes_stall _).2
  · exact fun s c x w hx hw hi => Gives.issue rfl hx hw hi rfl (CoreSt.repRes_stall _).1 (CoreSt.repRes_stall _).2

/-- Settles O32: each move retires with the register it writes. -/
theorem coreMoveInstructionsComplete : Obligations.CoreMoveInstructionsComplete := by
  unfold Obligations.CoreMoveInstructionsComplete
  refine ⟨?_, ?_, ?_, ?_, ?_, ?_⟩ <;> exact fun s c x w hx hw hi => Gives.issue rfl hx hw hi rfl rfl rfl

/-- Settles O33: each arithmetic, logic or shift instruction retires with its value and its flags. -/
theorem coreArithmeticInstructionsComplete : Obligations.CoreArithmeticInstructionsComplete := by
  unfold Obligations.CoreArithmeticInstructionsComplete
  refine ⟨?_, ?_, ?_, ?_, ?_, ?_, ?_, ?_, ?_, ?_, ?_, ?_, ?_, ?_, ?_, ?_, ?_, ?_, ?_, ?_, ?_, ?_, ?_, ?_, ?_, ?_⟩ <;>
    exact fun s c x w hx hw hi => Gives.issue rfl hx hw hi rfl rfl rfl

/-- Settles O35: each accumulator instruction retires with the accumulator or the word it writes. -/
theorem coreAccumulatorInstructionsComplete : Obligations.CoreAccumulatorInstructionsComplete := by
  unfold Obligations.CoreAccumulatorInstructionsComplete
  refine ⟨?_, ?_, ?_, ?_, ?_, ?_, ?_, ?_, ?_, ?_, ?_, ?_, ?_, ?_, ?_⟩ <;>
    exact fun s c x w hx hw hi => Gives.issue rfl hx hw hi rfl rfl rfl

end Sys2Proof.Machine
end

section
/-! PROOFS. The time, trap, token and DMA instructions of a signal core, and its loads and stores (spec/18, spec/19). -/
namespace Sys2Proof.Machine

section
variable {s : State} {c : Nat} {x : CoreSt}

theorem State.get_excInfo_apart {f : Fld} (h : Reg.SGC_EXC_INFO.apart f.r = true) (n cause slot rep epc i j k : Nat) :
    (s.excInfo n cause slot rep epc).get f i j k = s.get f i j k := by
  have h1 : F.SGC_EXC_INFO_cause.r.apart f.r = true := h
  have h2 : F.SGC_EXC_INFO_slot.r.apart f.r = true := h
  have h3 : F.SGC_EXC_INFO_in_repeat.r.apart f.r = true := h
  have h4 : F.SGC_EXC_INFO_epc.r.apart f.r = true := h
  rw [State.excInfo, State.get_put_apart h4, State.get_put_apart h3, State.get_put_apart h2, State.get_put_apart h1]

theorem State.coreHolder_setCore_same (s : State) (c : Nat) (y : CoreSt) : (s.setCore c y).coreHolder c = s.coreHolder c := by
  simp -implicitDefEqProofs (disch := first | exact id rfl | decide) only [State.coreHolder, State.setCore,
    State.get_put_disjoint]
  rfl

theorem State.heldTask_setCore (s : State) (c : Nat) (y : CoreSt) (n : Nat) : (s.setCore c y).heldTask n = s.heldTask n := by
  simp -implicitDefEqProofs only [State.heldTask, State.setCore, State.put_swf]

/-- A trap outside an exception enters the handler. -/
theorem State.issue_trap (hx : x = (s.core c).atIssue) (hat : s.coreAt c 1 = true)
    (hexc : x.issueExc x.fetched x.pc = some 4) (hlevel : bit x.sr 14 = false) (hrestore : x.restore = false) :
    s.issue c 1 false 0 (fun _ _ => {}) id = ((s.setCore c x).excInfo c 4 x.slots x.rep x.pc).setCore c
      (x.enter 4 x.pc (s.get F.SGC_VECTOR_base c)) := by
  have hword : Tbl.get 0 (s.core c).imem (s.core c).pc = x.fetched := by
    rw [hx, CoreSt.atIssue_fetched, CoreSt.fetched]
  have hgo := State.coreAt_issues hat
  rw [CoreSt.fetched, hword] at hgo
  have hentered : (s.setCore c x).coreExc c 4 = ((s.setCore c x).excInfo c 4 x.slots x.rep x.pc).setCore c
      (x.enter 4 x.pc (s.get F.SGC_VECTOR_base c)) := by
    simp -implicitDefEqProofs only [State.coreExc, State.core_setCore_same, hrestore, hlevel, Bool.false_eq_true,
      if_false]
    rw [State.get_excInfo_apart (by decide), State.get_setCore_apart (by decide)]
  rw [CoreSt.atIssue] at hx
  simp -implicitDefEqProofs only [State.issue, hword, if_neg hgo, State.when, Bool.false_eq_true, if_false, ← hx,
    hexc, State.watch_disabled (State.coreAt_unwatched hat x), hentered]

end

section
variable {s u : State} {c : BitVec 8} {x : CoreSt} {k : Nat}

theorem execTwait_waits (hx : x = (s.core c.toNat).atIssue) (hissues : s.coreIssues c.toNat 0x10 = true)
    (hu : u = s.coreRetires c.toNat x {}) :
    execTwait c false s = .next (({ u.setCore c.toNat (u.core c.toNat).drain with
      swf := { u.swf with asks := u.swf.asks ++
        [({ source := c.toNat, pool := 16 * s.coreHolder c.toNat + bits x.fetched 3 0 } : Ask)] } }).setCoreState
          c.toNat Core.WAITING) := by
  have hfetched : (s.core c.toNat).fetched = x.fetched := by rw [hx, CoreSt.atIssue_fetched]
  have hholder : (u.setCore c.toNat (u.core c.toNat).drain).coreHolder c.toNat = s.coreHolder c.toNat := by
    rw [State.coreHolder_setCore_same, hu, State.coreRetires, State.coreHolder_setCore_same,
      State.coreHolder_setCore_same]
  have hswf : (u.setCore c.toNat (u.core c.toNat).drain).swf = u.swf := by
    simp -implicitDefEqProofs only [State.setCore, State.put_swf]
  rw [execTwait, State.issue_retires hx rfl hissues rfl rfl rfl, ← hu]
  simp -implicitDefEqProofs only [hholder, hswf, hfetched]

theorem execTput_puts {a : Nat} (hx : x = (s.core c.toNat).atIssue) (hissues : s.coreIssues c.toNat 0x11 = true)
    (hu : u = s.coreRetires c.toNat x {}) (hheld : s.heldTask c.toNat = some k) (ha : a = x.addr (bits x.fetched 21 19)) :
    execTput c false s = .next (u.taskOutput k (bits x.fetched 23 22)
      (pack ((upTo 32).map (fun i => (2 * i, x.word (a + i)))))).flushTrace := by
  have hstill : u.heldTask c.toNat = some k := by
    rw [hu, State.coreRetires, State.heldTask_setCore, State.heldTask_setCore, hheld]
  rw [execTput, State.issue_retires hx rfl hissues rfl rfl rfl, ← hu]
  simp -implicitDefEqProofs only [hstill, ha, hx, CoreSt.atIssue_fetched, CoreSt.atIssue_addr, CoreSt.atIssue_word]

theorem execTdone_done (hx : x = (s.core c.toNat).atIssue) (hissues : s.coreIssues c.toNat 0x12 = true)
    (hheld : s.heldTask c.toNat = some k)
    (hu : u = ((s.coreRetires c.toNat x {}).taskDone k (b2n (bit x.fetched 23))).flushTrace) :
    execTdone c false s =
      .next ((u.setCore c.toNat { u.core c.toNat with th := 0 }).cnt F.SGC_TASKS_DONE_value 1 c.toNat) := by
  have hfetched : (s.core c.toNat).fetched = x.fetched := by rw [hx, CoreSt.atIssue_fetched]
  have hstill : (s.coreRetires c.toNat x {}).heldTask c.toNat = some k := by
    rw [State.coreRetires, State.heldTask_setCore, State.heldTask_setCore, hheld]
  rw [execTdone, State.issue_retires hx rfl hissues rfl rfl rfl]
  simp -implicitDefEqProofs only [hstill, hfetched, ← hu]

theorem execDmas_queues (hx : x = (s.core c.toNat).atIssue) (hissues : s.coreIssues c.toNat 0x13 = true)
    (hroom : x.dma.length < 4) (hu : u = s.coreRetires c.toNat x {}) :
    execDmas c false s = .next (u.setCore c.toNat
      { u.core c.toNat with dma := (u.core c.toNat).dma ++ [x.addr (bits x.fetched 23 21)] }) := by
  have hnot : ¬(4 ≤ (s.core c.toNat).dma.length ∧ (s.core c.toNat).fetched / 2 ^ 24 = 0x13) := by
    rw [← CoreSt.atIssue_dma, ← hx]
    exact fun h => absurd h.1 (Nat.not_le.2 hroom)
  have haddr : (s.core c.toNat).addr (bits (s.core c.toNat).fetched 23 21) = x.addr (bits x.fetched 23 21) := by
    rw [hx, CoreSt.atIssue_addr, CoreSt.atIssue_fetched]
  rw [execDmas, if_neg hnot, haddr]
  dsimp only
  rw [State.issue_retires hx rfl hissues rfl rfl rfl, ← hu]

end

/-- Settles O36: the time is written as it stands, a trap enters its handler, and the task and DMA instructions act on the
core that has retired them. -/
theorem coreSystemInstructionsComplete : Obligations.CoreSystemInstructionsComplete := by
  unfold Obligations.CoreSystemInstructionsComplete
  refine ⟨?_, ?_, ?_, ?_, ?_, ?_⟩
  · exact fun s c x w hx hw hi => Gives.issue rfl hx hw hi rfl rfl rfl
  · exact fun s c x hx hat hexc hlevel hrestore =>
      Gives.eq (congrArg Host.Outcome.next (State.issue_trap hx hat hexc hlevel hrestore))
  · exact fun s c x u hx hi hu => Gives.eq (execTwait_waits hx hi hu)
  · exact fun s c x u k a hx hi hu hheld ha => Gives.eq (execTput_puts hx hi hu hheld ha)
  · exact fun s c x k u hx hi hheld hu => Gives.eq (execTdone_done hx hi hheld hu)
  · exact fun s c x u hx hi hroom hu => Gives.eq (execDmas_queues hx hi hroom hu)

/-! ## Loads and stores -/

/-- Core 0 runs; its next instruction loads two words, both addresses being 0. -/
def bothLoadsInOneBank : State :=
  { State.reset.put F.SGC_STATUS_state Core.RUNNING 0 with
      cores := [(0, { imem := [(0, 0x54080040)] })] }

/-- Refutes O34: LDXY of two addresses in one bank also counts the stall (SGC.BANK_STALLS, R492); the clause, which does not
ask for two banks, leaves the count out. -/
theorem not_coreMemoryInstructionsComplete : ¬ Obligations.CoreMemoryInstructionsComplete := by
  unfold Obligations.CoreMemoryInstructionsComplete
  rintro ⟨-, -, -, -, hldxy, -⟩
  obtain ⟨t, hexec, ht⟩ := hldxy bothLoadsInOneBank 0 _ _ rfl rfl (by decide) (by decide)
  have hrun : execLdxy 0 false 0 bothLoadsInOneBank = .next t := hexec
  have hcounted : t.get F.SGC_BANK_STALLS_value 0 = 1 := by
    rw [← Host.Outcome.next.inj hrun]
    decide
  have hleft : t.get F.SGC_BANK_STALLS_value 0 = 0 := by
    rw [ht]
    decide
  exact absurd (hcounted.symm.trans hleft) (by decide)

end Sys2Proof.Machine
end

section
/-! PROOFS. Signal cores are loaded, started, stopped and signalled, and they take interrupts and tasks (spec/18). -/
namespace Sys2Proof.Machine

section
variable {s : State} {d : Desc} {c : BitVec 8}

theorem State.coreChecks_pass {n : Nat}
    (hheld : s.coreHolder n = d.tenant.toNat) : ∀ k ∈ s.coreChecks d n, k.1 = false := by
  simp [State.coreChecks, hheld]

/-- A descriptor on the tenant's own core whose further checks pass does its work. -/
theorem State.descriptor_core {checks : List (Bool × Nat)} {effect : State → State} (hadmit : s.admits d = true)
    (hheld : s.coreHolder c.toNat = d.tenant.toNat) (hchecks : ∀ k ∈ checks, k.1 = false) :
    s.descriptor d false false (s.coreChecks d c.toNat ++ checks) effect = effect s :=
  State.descriptor_plain hadmit (List.forall_mem_append.2 ⟨State.coreChecks_pass hheld, hchecks⟩)

theorem execCoreLoad_data {first : BitVec 16} {items : List Word} (hadmit : s.admits d = true)
    (hread : d.readFail = false)
    (hheld : s.coreHolder c.toNat = d.tenant.toNat) (hfits : first.toNat + items.length ≤ 32768)
    (hdom : s.domOn (domCluster (c.toNat / 16)) = true) (hstopped : s.coreState c.toNat = Core.STOPPED) :
    execCoreLoad d c true first items s = .next ((s.setCore c.toNat
      ((s.core c.toNat).setWords first.toNat (items.map (fun (w : Word) => w.toNat)))).ok d) := by
  refine congrArg Host.Outcome.next ((State.descriptor_core hadmit hheld ?_).trans ?_)
  · simp [hfits, hdom, hstopped]
  · simp only [hread, Bool.false_eq_true, if_false, if_true]

theorem execCoreLoad_instruction {first : BitVec 16} {w : Word} (hadmit : s.admits d = true) (hread : d.readFail = false)
    (hheld : s.coreHolder c.toNat = d.tenant.toNat) (hfits : first.toNat < 8192)
    (hdom : s.domOn (domCluster (c.toNat / 16)) = true) (hstopped : s.coreState c.toNat = Core.STOPPED) :
    execCoreLoad d c false first [w] s = .next ((s.setCore c.toNat
      { s.core c.toNat with imem := Tbl.set 0 first.toNat w.toNat (s.core c.toNat).imem }).ok d) := by
  refine congrArg Host.Outcome.next ((State.descriptor_core hadmit hheld ?_).trans ?_)
  · simp [hdom, hstopped]
    omega
  · simp only [hread, Bool.false_eq_true, if_false]
    rfl

theorem execCoreStart_runs {entry : BitVec 16} (hadmit : s.admits d = true)
    (hheld : s.coreHolder c.toNat = d.tenant.toNat)
    (hentry : entry.toNat < 8192) (hdom : s.domOn (domCluster (c.toNat / 16)) = true)
    (hstate : s.coreState c.toNat = Core.STOPPED ∨ s.coreState c.toNat = Core.FAULTED) :
    execCoreStart d c entry s = .next ((((s.setCore c.toNat ((s.core c.toNat).started entry.toNat)).setCoreState c.toNat
      Core.RUNNING).clr F.SGC_STATUS_fault_cause c.toNat).ok d) := by
  refine congrArg Host.Outcome.next (State.descriptor_core hadmit hheld ?_)
  simpa [hentry, hdom] using hstate.resolve_left

theorem execCoreStop_stopped (hadmit : s.admits d = true) (hheld : s.coreHolder c.toNat = d.tenant.toNat)
    (hdom : s.domOn (domCluster (c.toNat / 16)) = true)
    (hstate : s.coreState c.toNat = Core.RUNNING ∨ s.coreState c.toNat = Core.WAITING) :
    execCoreStop d c s = .next ((s.stopCore c.toNat 2).ok d) := by
  have hbusy : (s.coreState c.toNat == Core.RUNNING || s.coreState c.toNat == Core.WAITING) = true := by simpa using hstate
  refine congrArg Host.Outcome.next ((State.descriptor_core hadmit hheld ?_).trans ?_)
  · simp [hdom]
  · simp only [hbusy, State.when, if_true]

theorem execCoreSignal_raised (hadmit : s.admits d = true) (hheld : s.coreHolder c.toNat = d.tenant.toNat)
    (hdom : s.domOn (domCluster (c.toNat / 16)) = true) :
    execCoreSignal d c s =
      .next ((s.setCore c.toNat { s.core c.toNat with src := (s.core c.toNat).src ||| 4 }).ok d) := by
  refine congrArg Host.Outcome.next ((State.descriptor_core hadmit hheld ?_).trans rfl)
  simp [hdom]

/-- A running core that may be interrupted enters the handler of its source and clears the source (R511). -/
theorem execInterruptEntry_running {b : Nat} {x y : CoreSt} (hirq : s.coreIrq c.toNat = some b) (hx : x = s.core c.toNat)
    (hfree : bit x.sr 15 = true ∧ x.hold = false ∧ x.slots = 0 ∧ x.rep = 0)
    (hrunning : s.coreState c.toNat = Core.RUNNING)
    (hy : y = x.enter (8 + b) x.pc (s.get F.SGC_VECTOR_base c.toNat)) :
    execInterruptEntry c s = .next (((s.excInfo c.toNat (8 + b) 0 0 x.pc).setCore c.toNat
      { y with src := x.src &&& (15 ^^^ 2 ^ b) }).setCoreState c.toNat Core.RUNNING) := by
  obtain ⟨hie, hhold, hslots, hrep⟩ := hfree
  have hvector : (s.excInfo c.toNat (8 + b) 0 0 x.pc).get F.SGC_VECTOR_base c.toNat = s.get F.SGC_VECTOR_base c.toNat :=
    State.get_excInfo_apart (by decide) ..
  have hwaits : (Core.RUNNING == Core.WAITING) = false := rfl
  simp -implicitDefEqProofs only [execInterruptEntry, hirq, ← hx, hie, hhold, hslots, hrep, hrunning, hwaits,
    State.when, Bool.not_true, Bool.not_false, Bool.or_true, Bool.or_self, Bool.and_true, beq_self_eq_true,
    Bool.false_eq_true, if_false, hvector, ← hy]

theorem State.task_setTask_same (s : State) (n : Nat) (k : Task) : (s.setTask n k).task n = k := Tbl.get_set_same ..

theorem State.task_put (f : Fld) (v i j k n : Nat) : (s.put f v i j k).task n = s.task n := by
  rw [State.task, State.put_swf, State.task]

theorem State.task_swfTrace (kind t p handle q detail n : Nat) : (s.swfTrace kind t p handle q detail).task n = s.task n := by
  rw [State.swfTrace]
  split <;> rfl

theorem State.asks_swfTrace (kind t p handle q detail : Nat) :
    (s.swfTrace kind t p handle q detail).swf.asks = s.swf.asks := by
  rw [State.swfTrace]
  split <;> rfl

/-- What a grant changes of the tasks and the requests. -/
theorem execTaskGrant_core {pool : BitVec 12} {a : Ask} {slot : Nat}
    (hask : s.swf.asks.find? (fun a => a.pool == pool.toNat) = some a) (hready : s.nextReady pool.toNat = some slot)
    (hcore : a.host = none ∧ a.source < 256) :
    ∃ u : State, execTaskGrant pool s = .next (u.deliverCore a.source slot).flushTrace ∧
      (u.task slot).phase = Phase.GRANTED ∧ (u.task slot).exec = a.source ∧ u.swf.asks = s.swf.asks.erase a := by
  obtain ⟨hhost, hsource⟩ := hcore
  simp -implicitDefEqProofs only [execTaskGrant, hask, hready, hhost, if_pos hsource]
  refine ⟨_, rfl, ?_⟩
  rw [State.task_swfTrace, State.asks_swfTrace, State.countReady, State.task_put, State.put_swf,
    State.task_setTask_same]
  exact ⟨rfl, rfl, rfl⟩

theorem State.coreState_failCore {n cause : Nat} (h : s.coreState n ≠ Core.OFF ∧ s.coreState n ≠ Core.FAILED) :
    (s.failCore n cause).coreState n = Core.FAILED := by
  rw [State.failCore, if_neg (not_or.2 h)]
  simp -implicitDefEqProofs (disch := first | exact id rfl | decide) only [State.coreState, State.get_log,
    State.get_fault, State.ev_eq, State.setCoreState, State.get_put_apart, State.get_put_disjoint,
    State.get_put_fits]

end

/-- Settles O30: each command's effect on its core, where its checks pass and its condition holds. -/
theorem signalCoreCommandsComplete : Obligations.SignalCoreCommandsComplete := by
  unfold Obligations.SignalCoreCommandsComplete
  refine ⟨?_, ?_, ?_, ?_, ?_, ?_, ?_, ?_, ?_, ?_⟩
  · exact fun s d c first items hadmit hread hheld hfits hdom hstopped =>
      Gives.eq (execCoreLoad_data hadmit hread hheld hfits hdom hstopped)
  · exact fun s d c first w hadmit hread hheld hfits hdom hstopped =>
      Gives.eq (execCoreLoad_instruction hadmit hread hheld hfits hdom hstopped)
  · exact fun s d c entry hadmit hheld hentry hdom hstate =>
      Gives.eq (execCoreStart_runs hadmit hheld hentry hdom hstate)
  · exact fun s d c hadmit hheld hdom hstate => Gives.eq (execCoreStop_stopped hadmit hheld hdom hstate)
  · exact fun s d c hadmit hheld hdom => Gives.eq (execCoreSignal_raised hadmit hheld hdom)
  · exact fun s c b x y hirq hx hfree hrunning hy => Gives.eq (execInterruptEntry_running hirq hx hfree hrunning hy)
  · exact fun s c m hm hlim => Gives.eq (hm ▸ congrArg Host.Outcome.next (if_pos (hm ▸ hlim)))
  · intro s pool a slot hask hready hcore
    obtain ⟨u, hexec, htask⟩ := execTaskGrant_core hask hready hcore
    exact Gives.of_exec hexec ⟨u, rfl, htask⟩
  · exact fun s c b hstate => Gives.of_exec rfl ⟨rfl, State.coreState_failCore hstate⟩
  · intro s c hrunning hdma
    refine Gives.eq (show execCoreNoProgressTimeout c s = _ from if_neg ?_)
    exact not_or.2 ⟨Decidable.not_not.2 hrunning, fun h => absurd h.1 (Nat.not_le.2 hdma)⟩

end Sys2Proof.Machine
end

section
/-! PROOFS. NoC packets at their endpoints, failed rings and probes (spec/20). -/
namespace Sys2Proof.Machine

section
variable {s : State} {p : PktArg} {op : Nat}

/-! ## A packet arrives -/

theorem State.probe_disabled (h : (upTo 32).all (fun q => !s.on F.NOC_PROBE_CFG_enable q) = true) : s.probe op p = s := by
  simp only [List.all_eq_true, Bool.not_eq_true'] at h
  rw [State.probe]
  split
  next => rfl
  next path _ =>
    have hnone : (upTo 32).filter (fun q => s.on F.NOC_PROBE_CFG_enable q && s.probeSees q p path && s.probePass q op p) =
        [] := List.filter_eq_nil_iff.2 fun q hq => by simp [h q hq]
    rw [hnone]
    rfl

section
variable {source : Nat} (hpath : (s.path p.src.toNat p.dst.toNat).isSome = true)
  (hprobes : (upTo 32).all (fun q => !s.on F.NOC_PROBE_CFG_enable q) = true)
  (hgood : p.length.toNat ≤ 4 ∧ p.status.toNat ≤ 3 ∧ p.zero = 0)
include hpath hprobes hgood

/-- A good packet to a unit of the device goes to its endpoint. -/
theorem State.nocArrive_delivered (hdst : p.dst.toNat < 276) (hring : ¬(p.dst.toNat = 275 ∧ bit p.addr.toNat 63 = true)) :
    s.nocArrive op p source = s.atEndpoint (Pkt.of op p) source := by
  have hin : ¬ 276 ≤ (Pkt.of op p).dst := Nat.not_le.2 hdst
  have hroute : ¬(s.path (Pkt.of op p).src (Pkt.of op p).dst).isNone = true := by
    have hsome : (s.path (Pkt.of op p).src (Pkt.of op p).dst).isSome = true := hpath
    simp [Option.isNone_eq_false_iff.2 hsome]
  have hbad : ¬(4 < p.length.toNat ∨ 3 < p.status.toNat ∨ p.zero ≠ 0) := by
    obtain ⟨hlength, hstatus, hzero⟩ := hgood
    simp [hlength, hstatus, hzero]
  have hhere : ¬((Pkt.of op p).dst = 275 ∧ bit (Pkt.of op p).addr 63 = true) := hring
  simp only [State.nocArrive, if_neg hin, if_neg hroute, State.probe_disabled hprobes, if_neg hbad, if_neg hhere]

theorem State.nocArrive_section (hdst : p.dst.toNat < 256) : s.nocArrive op p source = s.atSection (Pkt.of op p) := by
  rw [State.nocArrive_delivered hpath hprobes hgood (by omega) (by omega)]
  exact if_pos hdst

/-- A management packet is handed to the unit it addresses. -/
theorem State.nocArrive_management (hdst : 256 ≤ p.dst.toNat ∧ p.dst.toNat < 276)
    (hring : ¬(p.dst.toNat = 275 ∧ bit p.addr.toNat 63 = true)) (hop : 5 ≤ op) :
    s.nocArrive op p source = s.send (.deliver (Pkt.of op p)) := by
  have hsection : ¬(Pkt.of op p).dst < 256 := Nat.not_lt.2 hdst.1
  have htoken : ¬((Pkt.of op p).dst = 273 ∧ (Pkt.of op p).op = NocOp.TOKEN) := fun h => by
    have : op = 2 := h.2
    omega
  have htier : ¬((Pkt.of op p).dst = 274 ∧ (Pkt.of op p).op < 3) := fun h => by
    have : op < 3 := h.2
    omega
  rw [State.nocArrive_delivered hpath hprobes hgood hdst.2 hring, State.atEndpoint, if_neg hsection, if_neg htoken,
    if_neg htier]

end

/-! ## The endpoints -/

theorem State.atTier_read {q i : Nat} {l : Leaf}
    (hplace : q = p.addr.toNat / 4096 / 16384 ∧ q < 524288 ∧ i = p.addr.toNat / 4096 % 16384)
    (hreadable : (s.quire q).readable = true) (htenant : (s.quire q).tenant = p.tenant.toNat ∨ p.tenant = 0)
    (hblocked : s.rawBlocked p.tenant.toNat q = false) (hleaf : (s.quire q).leaf? i = some l) :
    s.atTier (Pkt.of NocOp.READ p) = s.respond (Pkt.of NocOp.READ p) 0
      ((pieces (((l.header q ++ l.cipher q).drop (p.addr.toNat % 4096)).take (64 * p.length.toNat)).length
        (((l.header q ++ l.cipher q).drop (p.addr.toNat % 4096)).take (64 * p.length.toNat))).map natOf) := by
  obtain ⟨hq, hlt, hi⟩ := hplace
  have hstate : (s.quire q).state ≠ Qr.FREE := fun h => by
    rw [Quire.readable, h] at hreadable
    exact absurd hreadable (by decide)
  have hready : ¬(524288 ≤ q ∨ (s.quire q).state = Qr.FREE ∨ (!(s.quire q).readable) = true) := by
    simp [hlt, hstate, hreadable]
  have howner : ¬((s.quire q).tenant ≠ p.tenant.toNat ∧ p.tenant.toNat ≠ 0) := by
    rcases htenant with h | h
    · exact fun g => g.1 h
    · exact fun g => g.2 (by rw [h]; rfl)
  simp only [State.atTier, Pkt.of, ← hq, ← hi, if_neg hready, if_neg howner, hblocked, hleaf, Bool.false_eq_true,
    if_false, ne_eq, not_true_eq_false]

theorem execNocRead_tier {q i : Nat} {l : Leaf} (hdst : p.dst.toNat = 274)
    (hpath : (s.path p.src.toNat 274).isSome = true)
    (hprobes : (upTo 32).all (fun q => !s.on F.NOC_PROBE_CFG_enable q) = true)
    (hgood : p.length.toNat ≤ 4 ∧ p.status.toNat ≤ 3 ∧ p.zero = 0)
    (hplace : q = p.addr.toNat / 4096 / 16384 ∧ q < 524288 ∧ i = p.addr.toNat / 4096 % 16384)
    (hreadable : (s.quire q).readable = true) (htenant : (s.quire q).tenant = p.tenant.toNat ∨ p.tenant = 0)
    (hblocked : s.rawBlocked p.tenant.toNat q = false) (hleaf : (s.quire q).leaf? i = some l) :
    execNocRead p s = .next (s.respond (Pkt.of NocOp.READ p) 0
      ((pieces (((l.header q ++ l.cipher q).drop (p.addr.toNat % 4096)).take (64 * p.length.toNat)).length
        (((l.header q ++ l.cipher q).drop (p.addr.toNat % 4096)).take (64 * p.length.toNat))).map natOf)) := by
  have hat : (Pkt.of NocOp.READ p).dst = 274 := hdst
  have hop : (Pkt.of NocOp.READ p).op = 0 := rfl
  rw [execNocRead, State.nocArrive_delivered (hdst ▸ hpath) hprobes hgood (by omega) (by omega), State.atEndpoint,
    hat, hop, if_neg (by decide), if_neg (by decide), if_pos (by decide),
    State.atTier_read hplace hreadable htenant hblocked hleaf]

theorem execNocToken_posted {source : BitVec 16} {q : Nat} (hdst : p.dst.toNat = 273)
    (hpath : (s.path p.src.toNat 273).isSome = true)
    (hprobes : (upTo 32).all (fun q => !s.on F.NOC_PROBE_CFG_enable q) = true)
    (hgood : p.length.toNat ≤ 4 ∧ p.status.toNat ≤ 3 ∧ p.zero = 0) (hq : q = p.addr.toNat % 2 ^ 20)
    (hheld : s.dqHolder q = p.tenant.toNat) :
    execNocToken p source s =
      .next (s.dqPost q ((p.data.map BitVec.toNat).head?.getD 0) source.toNat).1.flushTrace := by
  have hat : (Pkt.of NocOp.TOKEN p).dst = 273 := hdst
  have hop : (Pkt.of NocOp.TOKEN p).op = 2 := rfl
  have hmine : ¬ s.dqHolder q ≠ (Pkt.of NocOp.TOKEN p).tenant := Decidable.not_not.2 hheld
  have hname : (Pkt.of NocOp.TOKEN p).addr % 2 ^ 20 = q := hq.symm
  rw [execNocToken, State.nocArrive_delivered (hdst ▸ hpath) hprobes hgood (by omega) (by omega), State.atEndpoint,
    hat, hop, if_neg (by decide), if_pos (by decide), State.tokenAt, hname, if_neg hmine]
  rfl

theorem State.atSection_write (hheld : p.tenant.toNat = s.get F.FAB_SECT_STATUS_holder p.dst.toNat)
    (hrunning : s.get F.FAB_SECT_STATUS_state p.dst.toNat = Sec.RUNNING ∧ s.haltedBy 1 p.dst.toNat = false) :
    s.atSection (Pkt.of NocOp.WRITE p) = s.send (.deliver (Pkt.of NocOp.WRITE p)) := by
  obtain ⟨hstate, hgoing⟩ := hrunning
  simp [State.atSection, Pkt.of, hstate, hgoing, hheld]

theorem State.atSection_answer (hop : op = NocOp.READ_RSP ∨ op = NocOp.WRITE_ACK)
    (hstate : s.get F.FAB_SECT_STATUS_state p.dst.toNat = Sec.RUNNING) :
    s.atSection (Pkt.of op p) = s.send (.deliver (Pkt.of op p)) := by
  have hanswer : (Pkt.of op p).op = NocOp.READ_RSP ∨ (Pkt.of op p).op = NocOp.WRITE_ACK := hop
  have hup : s.get F.FAB_SECT_STATUS_state (Pkt.of op p).dst = Sec.RUNNING ∨
    s.get F.FAB_SECT_STATUS_state (Pkt.of op p).dst = 6 := .inl hstate
  simp only [State.atSection, if_pos hanswer, if_pos hup]

/-! ## Rings and probes -/

theorem execNocRingFailure_failed {ring : BitVec 3} {cause : BitVec 2} {segment : BitVec 6}
    (hup : s.get F.NOC_RING_STATUS_state ring.toNat = V.NOC_RING_STATUS_state_UP)
    (hargs : cause ≠ 0 ∧ segment.toNat ≤ 51) :
    ∃ t, execNocRingFailure ring cause segment s = .next t ∧
      t.get F.NOC_RING_STATUS_state ring.toNat = V.NOC_RING_STATUS_state_FAILED ∧
      t.get F.NOC_RING_STATUS_fail_cause ring.toNat = cause.toNat ∧
      t.get F.NOC_RING_STATUS_segment ring.toNat = segment.toNat ∧
      t.get F.NOC_STATUS_rings_up = s.get F.NOC_STATUS_rings_up &&& (0xFF ^^^ 2 ^ ring.toNat) ∧
      t.noc.held = s.noc.held.erase (ring.toNat / 2) ++ [ring.toNat / 2] := by
  have hgo : ¬(s.get F.NOC_RING_STATUS_state ring.toNat ≠ V.NOC_RING_STATUS_state_UP ∨ cause = 0 ∨ 51 < segment.toNat) :=
    not_or.2 ⟨Decidable.not_not.2 hup, not_or.2 ⟨hargs.1, Nat.not_lt.2 hargs.2⟩⟩
  have hcause : cause.toNat < 2 ^ 4 := Nat.lt_trans cause.isLt (by decide)
  have hsegment : segment.toNat < 2 ^ 6 := segment.isLt
  have hrings : s.get F.NOC_STATUS_rings_up &&& (0xFF ^^^ 2 ^ ring.toNat) < 2 ^ 8 :=
    Nat.and_lt_two_pow _ (Nat.xor_lt_two_pow (by decide) (Nat.pow_lt_pow_right (by decide) ring.isLt))
  have hkept (u : State) (x : NocSt) (b : Bool) (l : List Nat) (f : Fld) (k : Nat) (hf : f.r.outside [.RAS, .ras] = true)
      (hfault : f.r.outside [.RAS] = true) (hevent : Reg.NOC_EVENTS.apart f.r = true) :
      ((((({ u with noc := x }).ev F.NOC_EVENTS_ring_failed).fault 5 b).log 0x40 2 ring.toNat l).get f k) = u.get f k := by
    have hapart : F.NOC_EVENTS_ring_failed.r.apart f.r = true := hevent
    rw [State.get_log _ _ _ _ _ hf, State.get_fault _ _ _ hfault, State.ev_eq, State.get_put_apart hapart]
    rfl
  have hnoc (u : State) (b : Bool) (l : List Nat) :
      (((u.ev F.NOC_EVENTS_ring_failed).fault 5 b).log 0x40 2 ring.toNat l).noc = u.noc := by
    have hlog (v : State) : (v.log 0x40 2 ring.toNat l).noc = v.noc :=
      (State.log_kept v _ _ _ _ Kept.of_keeps Kept.of_allows).noc rfl
    have hfault (v : State) : (v.fault 5 b).noc = v.noc := (State.fault_kept v _ _ Kept.of_keeps Kept.of_allows).noc rfl
    rw [hlog, hfault, State.ev_eq, State.put_noc]
  refine ⟨_, if_neg hgo, ?_, ?_, ?_, ?_, ?_⟩
  · rw [hkept _ _ _ _ _ _ (by decide) (by decide) (by decide), State.get_put_apart (by decide)]
    simp -implicitDefEqProofs (disch := first | exact id rfl | decide) only [State.get_put_disjoint,
      State.get_put_fits]
  · rw [hkept _ _ _ _ _ _ (by decide) (by decide) (by decide), State.get_put_apart (by decide)]
    simp -implicitDefEqProofs (disch := first | exact id rfl | decide) only [State.get_put_disjoint]
    exact State.get_put_fits (by decide) (by decide) hcause
  · rw [hkept _ _ _ _ _ _ (by decide) (by decide) (by decide), State.get_put_apart (by decide)]
    exact State.get_put_fits (by decide) (by decide) hsegment
  · rw [hkept _ _ _ _ _ _ (by decide) (by decide) (by decide)]
    simp -implicitDefEqProofs (disch := decide) only [State.get_put_apart]
    exact State.get_put_fits (by decide) (by decide) hrings
  · rw [hnoc, State.put_noc, State.put_noc, State.put_noc, State.put_noc]

theorem execProbeCfgWrite_source {w : Path} {q : BitVec 5} {v : Word}
    (hw : s.writable w Reg.NOC_PROBE_SRC q.toNat 0 0 v = true) (hlow : bits v.toNat 25 16 ≤ 275)
    (hoff : s.on F.NOC_PROBE_CFG_enable q.toNat = false) :
    execProbeCfgWrite w 2 q v s = .next (s.applyWrite w Reg.NOC_PROBE_SRC q.toNat 0 0 v) := by
  have hwas : bit (s.word Reg.NOC_PROBE_CFG q.toNat).toNat 31 = false := by
    have hbit : s.get F.NOC_PROBE_CFG_enable q.toNat = b2n (bit (s.word Reg.NOC_PROBE_CFG q.toNat).toNat 31) := bits_self ..
    rw [State.on, hbit] at hoff
    simpa [b2n] using hoff
  have hwhich : ((2 : Nat) == 0) = false := rfl
  unfold execProbeCfgWrite State.writeProbe
  simp -implicitDefEqProofs only [show (2 : BitVec 2).toNat = 2 from rfl]
  rw [State.guardWrite_writable hw (decide_eq_false (Nat.not_lt.2 hlow))]
  simp -implicitDefEqProofs only [hwas, hwhich, Bool.false_and, State.when, Bool.false_eq_true, if_false]

end

/-- Settles O37: a good packet reaches its endpoint, which answers or delivers it; a failed ring is reported and held. -/
theorem nocCommandsComplete : Obligations.NocCommandsComplete := by
  unfold Obligations.NocCommandsComplete
  refine ⟨?_, ?_, ?_, ?_, ?_, ?_, ?_, ?_, ?_, ?_, ?_⟩
  · exact fun s p q i l hdst hpath hprobes hgood hplace hreadable htenant hblocked hleaf =>
      Gives.of_exec (execNocRead_tier hdst hpath hprobes hgood hplace hreadable htenant hblocked hleaf) ⟨_, rfl, rfl⟩
  · exact fun s p hdst hpath hprobes hgood hheld hrunning => Gives.eq (congrArg Host.Outcome.next
      ((State.nocArrive_section hpath hprobes hgood hdst).trans (State.atSection_write hheld hrunning)))
  · exact fun s p source q hdst hpath hprobes hgood hq hheld =>
      Gives.eq (execNocToken_posted hdst hpath hprobes hgood hq hheld)
  · exact fun s p hdst hpath hprobes hgood hstate => Gives.eq (congrArg Host.Outcome.next
      ((State.nocArrive_section hpath hprobes hgood hdst).trans (State.atSection_answer (.inl rfl) hstate)))
  · exact fun s p hdst hpath hprobes hgood hstate => Gives.eq (congrArg Host.Outcome.next
      ((State.nocArrive_section hpath hprobes hgood hdst).trans (State.atSection_answer (.inr rfl) hstate)))
  · exact fun s p hdst hring hpath hprobes hgood => Gives.eq (congrArg Host.Outcome.next
      (State.nocArrive_management hpath hprobes hgood hdst hring (by decide)))
  · exact fun s p hdst hring hpath hprobes hgood => Gives.eq (congrArg Host.Outcome.next
      (State.nocArrive_management hpath hprobes hgood hdst hring (by decide)))
  · exact fun s => Gives.eq rfl
  · exact fun s ring cause segment hup hargs => execNocRingFailure_failed hup hargs
  · exact fun s pair => Gives.eq rfl
  · exact fun s p q v hw hlow hoff => Gives.eq (execProbeCfgWrite_source hw hlow hoff)

end Sys2Proof.Machine
end

section
/-! PROOFS. The DMA operations of a signal core (spec/18): an operation whose checks pass does its work and ends. -/
namespace Sys2Proof.Machine

section
variable {s : State} {c : BitVec 8} {waits : Word} {b : DmaBlock} {l : Leaf}

theorem State.dmaRun_pass {n w : Nat} {checks : List (Bool × Nat)} {effect : State → State × Nat}
    (h : firstFailing checks = none) : s.dmaRun n w checks effect = (effect s).1.dmaEnd n (effect s).2 w := by
  rw [State.dmaRun, h]

theorem execDmaLeaf_read (hserved : s.served c.toNat 0 = some b)
    (hchecks : firstFailing (s.dmaLeafChecks c.toNat b false) = none) (hleaf : (s.quire b.name2).leaf? b.leaf = some l)
    (hplain : bit b.flags 1 = false) :
    execDmaLeaf c false waits s = .next ((s.setCore c.toNat ((s.core c.toNat).setWords b.localAt
      (toWords (l.header b.name2 ++ l.body)))).dmaEnd c.toNat St.OK waits.toNat) := by
  simp only [execDmaLeaf, hserved, State.dmaRun_pass hchecks, hleaf, hplain, Bool.false_eq_true, if_false]

theorem execDmaRawLeaf_read (hserved : s.served c.toNat 1 = some b)
    (hchecks : firstFailing (s.dmaLeafChecks c.toNat b true) = none)
    (hraw : s.rawBlocked (s.coreHolder c.toNat) b.name2 = false) (hleaf : (s.quire b.name2).leaf? b.leaf = some l) :
    execDmaRawLeaf c waits s = .next ((s.setCore c.toNat ((s.core c.toNat).setWords b.localAt
      (toWords (l.header b.name2 ++ l.cipher b.name2)))).dmaEnd c.toNat St.OK waits.toNat) := by
  simp only [execDmaRawLeaf, hserved, hraw, Bool.and_false, State.when, Bool.false_eq_true, if_false,
    State.dmaRun_pass hchecks, hleaf]

theorem execDmaSectionRead_done {data : List Word} {u : State} (hserved : s.served c.toNat 2 = some b)
    (hchecks : firstFailing (s.dmaSectionChecks c.toNat b) = none) (hup : s.nocDown = false)
    (hu : u = s.send (.noc
      { op := 0
        src := 256 + c.toNat / 16
        dst := b.name2
        tenant := s.coreHolder c.toNat
        addr := b.remote
        count := b.length })) :
    execDmaSectionRead c data 0 waits s = .next ((u.setCore c.toNat ((u.core c.toNat).setWords b.localAt
      ((data.map (fun (w : Word) => w.toNat % 65536)).take b.length))).dmaEnd c.toNat St.OK waits.toNat) := by
  simp only [execDmaSectionRead, hserved, State.dmaRun_pass hchecks, hup, Bool.false_eq_true, if_false, if_true, ← hu]

theorem execDmaSectionWrite_done (hserved : s.served c.toNat 3 = some b)
    (hchecks : firstFailing (s.dmaSectionChecks c.toNat b) = none) (hup : s.nocDown = false) :
    execDmaSectionWrite c false 0 waits s = .next ((s.windowWrite (256 + c.toNat / 16) b.name2 b.remote
      (wordBytes ((s.core c.toNat).wordsAt b.localAt b.length))).dmaEnd c.toNat (rspStatus 0) waits.toNat) := by
  simp only [execDmaSectionWrite, hserved, State.dmaRun_pass hchecks, hup, Bool.false_eq_true, if_false]
  rfl

theorem execDmaCoreCopy_done {m : Nat} (hserved : s.served c.toNat 4 = some b)
    (hto : m = b.name ∧ m ≤ 255 ∧ m / 16 = c.toNat / 16 ∧ s.coreHolder m = s.coreHolder c.toNat)
    (hblock : b.zeros = false ∧ b.name2 = 0 ∧ b.lengthBad b.length = false ∧ b.remote + b.length ≤ 32768 ∧
      bit b.flags 1 = false)
    (hstate : s.coreState m = Core.STOPPED ∨ s.coreState m = Core.RUNNING ∨ s.coreState m = Core.WAITING) :
    execDmaCoreCopy c false waits s = .next ((s.setCore m ((s.core m).setWords b.remote
      ((s.core c.toNat).wordsAt b.localAt b.length))).dmaEnd c.toNat St.OK waits.toNat) := by
  obtain ⟨rfl, hname, hcluster, hheld⟩ := hto
  obtain ⟨hzeros, hname2, hlength, hend, hplain⟩ := hblock
  have hready : (s.coreState b.name != Core.STOPPED && s.coreState b.name != Core.RUNNING &&
      s.coreState b.name != Core.WAITING) = false := by
    rcases hstate with h | h | h <;> simp [h]
  simp only [execDmaCoreCopy, hserved]
  rw [State.dmaRun_pass (firstFailing_none ?_)]
  · rfl
  · simp [hzeros, hname, hname2, hheld, hlength, hend, hcluster, hplain, hready]

theorem execDmaTokenWrite_done (hserved : s.served c.toNat 5 = some b)
    (hblock : b.zeros = false ∧ b.name < 1048576 ∧ b.name2 = 0 ∧ b.lengthBad 32 = false ∧ bit b.flags 1 = false)
    (hheld : s.dqHolder b.name = s.coreHolder c.toNat) (hfree : (s.dq b.name).free ≠ 0) :
    execDmaTokenWrite c false waits s = .next (((s.dqPost b.name (natOf (wordBytes ((s.core c.toNat).wordsAt b.localAt 32)))
      c.toNat).1.dmaEnd c.toNat St.OK waits.toNat).flushTrace) := by
  obtain ⟨hzeros, hname, hname2, hlength, hplain⟩ := hblock
  have hlow : ¬ 1048575 < b.name := by omega
  simp only [execDmaTokenWrite, hserved]
  rw [State.dmaRun_pass (firstFailing_none ?_)]
  · rfl
  · simp [hzeros, hlow, hname2, hheld, hlength, hplain, hfree]

end

/-- Settles O38: each operation served passes its checks, does its work and ends; a completed one leaves the queue. -/
theorem dmaCommandsComplete : Obligations.DmaCommandsComplete := by
  unfold Obligations.DmaCommandsComplete
  refine ⟨?_, ?_, ?_, ?_, ?_, ?_, ?_⟩
  · exact fun s c waits b l hserved hchecks hleaf hplain => Gives.eq (execDmaLeaf_read hserved hchecks hleaf hplain)
  · exact fun s c waits b l hserved hchecks hraw hleaf => Gives.eq (execDmaRawLeaf_read hserved hchecks hraw hleaf)
  · exact fun s c data waits b u hserved hchecks hup hu => Gives.eq (execDmaSectionRead_done hserved hchecks hup hu)
  · exact fun s c waits b hserved hchecks hup => Gives.eq (execDmaSectionWrite_done hserved hchecks hup)
  · exact fun s c waits b m hserved hto hblock hstate => Gives.eq (execDmaCoreCopy_done hserved hto hblock hstate)
  · exact fun s c waits b hserved hblock hheld hfree => Gives.eq (execDmaTokenWrite_done hserved hblock hheld hfree)
  · intro s c x a v r hx hdma hend hflag
    refine Gives.eq (show execDmaComplete c s = _ from ?_)
    simp only [execDmaComplete, ← hx, hdma, hend, hflag, Bool.false_eq_true, if_false]

end Sys2Proof.Machine
end

section
/-! PROOFS. Doorbells, rings, descriptors and tenants at the host interface (spec/21). -/
namespace Sys2Proof.Machine

section
variable {s : State} {tenant : BitVec 8} {ring : BitVec 6} {x : Tenant} {q : Sq} {c : Cq}

/-! ## Doorbells and setup -/

theorem State.doorbell_open {t : Nat} {u : State} (hopen : s.dead = false ∧ s.funcOn t = true) :
    (if (s.dead || !s.funcOn t) = true then s else u) = u := by
  simp [hopen.1, hopen.2]

theorem State.sqTail_moved {t r v : Nat} (hx : x = s.ten t) (hq : q = Tbl.get {} x.sq r)
    (hin : q.present = true ∧ v < 2 ^ q.log2) :
    s.sqTail t r v = s.setTen t { x with sq := Tbl.set {} r { q with tail := v } x.sq } := by
  obtain ⟨hpresent, hv⟩ := hin
  simp only [State.sqTail, ← hx, ← hq, hpresent, hv, decide_true, Bool.and_self, if_true]

theorem State.cqHead_moved {t r v : Nat} (hx : x = s.ten t) (hc : c = Tbl.get {} x.cq r)
    (hin : c.present = true ∧ v < 2 ^ c.log2)
    (hbehind : (v + 2 ^ c.log2 - c.head) % 2 ^ c.log2 ≤ (c.tail + 2 ^ c.log2 - c.head) % 2 ^ c.log2) :
    s.cqHead t r v = s.setTen t { x with cq := Tbl.set {} r { c with head := v } x.cq } := by
  obtain ⟨hpresent, hv⟩ := hin
  simp only [State.cqHead, ← hx, ← hc, hpresent, hv, hbehind, decide_true, Bool.and_self, if_true]

theorem or_bit31_of_set {v : Word} (h : bit v.toNat 31 = true) : v ||| 0x80000000#32 = v := by
  refine BitVec.eq_of_getLsbD_eq fun i hi => ?_
  have hset : v.getLsbD 31 = true := h
  by_cases hi31 : i = 31
  · simp [hi31, hset]
  · have hclear : (0x80000000#32).getLsbD i = false := by
      rw [show 0x80000000#32 = BitVec.twoPow 32 31 from rfl, BitVec.getLsbD_twoPow]
      simp [Ne.symm hi31]
    simp [hclear]

theorem State.get_showRing0 {t : Nat} (hsq : (Tbl.get {} (s.ten t).sq 0).present = true)
    (hcq : (Tbl.get {} (s.ten t).cq 0).present = true) : (s.showRing0 t).get F.HIF_TENANT_STATUS_ring0_up t = 1 := by
  rw [State.showRing0, hsq, hcq]
  exact State.get_put_fits (by decide) (by decide) (by decide)

theorem execSetupRing0_up {v : Word} {k : Nat} (hopen : s.dead = false ∧ s.funcOn tenant.toNat = true)
    (hv : bit v.toNat 31 = true ∧ k = bits v.toNat 20 16 ∧ 6 ≤ k ∧ k ≤ 16)
    (hsize : 6 ≤ bits v.toNat 12 8 ∧ bits v.toNat 12 8 ≤ 16)
    (hx : x = { s.ten tenant.toNat with setupCtrl := v &&& 0x001F1F3F#32 })
    (hbases : x.setupSq.toNat % 4096 = 0 ∧ x.setupCq.toNat % 4096 = 0) (hidle : (Tbl.get {} x.sq 0).outstanding = []) :
    ∃ t, execSetupRing0 tenant v s = .next t ∧ t.get F.HIF_TENANT_STATUS_ring0_up tenant.toNat = 1 ∧
      ∃ u : Tenant, u =
        { x with
          sq := Tbl.set {} 0 { present := true, base := x.setupSq, log2 := k, cq := 0 } x.sq
          cq := Tbl.set {} 0
            { present := true
              base := x.setupCq
              log2 := bits v.toNat 12 8
              vector := bits v.toNat 5 0
              reserved := (Tbl.get {} x.cq 0).reserved } x.cq
          ringErr := x.ringErr &&& 0xFFFFFFFFFFFFFFFE#64 } ∧
        t = ((s.setTen tenant.toNat x).setTen tenant.toNat u).showRing0 tenant.toNat := by
  obtain ⟨hset, hk, hk6, hk16⟩ := hv
  subst hx
  dsimp only at hbases hidle
  have hempty : (Tbl.get {} (s.ten tenant.toNat).sq 0).outstanding.isEmpty = true := by rw [hidle]; rfl
  have hgood : (!(decide (6 ≤ k) && decide (k ≤ 16)) || !(decide (6 ≤ bits v.toNat 12 8) && decide (bits v.toNat 12 8 ≤ 16)) ||
      (s.ten tenant.toNat).setupSq.toNat % 4096 != 0 || (s.ten tenant.toNat).setupCq.toNat % 4096 != 0 ||
      !(Tbl.get {} (s.ten tenant.toNat).sq 0).outstanding.isEmpty) = false := by
    rw [hempty]
    simp [hk6, hk16, hsize, hbases]
  rw [execSetupRing0, State.doorbell_open hopen, or_bit31_of_set hset]
  refine ⟨_, rfl, ?_⟩
  simp only [State.setupRing0, hset, ← hk, hgood, Bool.not_true, Bool.false_eq_true, if_false]
  refine ⟨State.get_showRing0 ?_ ?_, _, rfl, rfl⟩ <;> simp [State.ten, State.setTen]

/-! ## Descriptors -/

/-- A descriptor that its completion queue has room for is taken from its ring (R548, R565). -/
theorem execDescriptorAccept_taken {header : Word}
    (hof : s.dead = false ∧ x = s.ten tenant.toNat ∧ q = Tbl.get {} x.sq ring.toNat ∧ c = Tbl.get {} x.cq q.cq)
    (hring : q.present = true ∧ q.error = false ∧ q.head ≠ q.tail ∧ x.bme = true)
    (hall : (x.sq.map (fun (p : Nat × Sq) => p.2.outstanding.length)).sum < 4096)
    (hroom : (c.tail + 2 ^ c.log2 - c.head) % 2 ^ c.log2 + c.reserved + 2 ≤ 2 ^ c.log2)
    (hfence : bit header.toNat 8 = false)
    (hop : bits header.toNat 7 0 ∈ opcodes ∧ bits header.toNat 7 0 ≠ 0x27) :
    ∃ y : Tenant, y =
        { x with
          sq := Tbl.set {} ring.toNat
            { q with head := (q.head + 1) % 2 ^ q.log2, outstanding := q.outstanding ++ [q.head] } x.sq
          cq := Tbl.set {} q.cq { c with reserved := c.reserved + 1 } x.cq } ∧
      execDescriptorAccept tenant ring header false s =
        .next ((s.setTen tenant.toNat y).countOutstanding tenant.toNat) := by
  obtain ⟨hdead, hx, hq, hc⟩ := hof
  obtain ⟨hpresent, herror, hsome, hbme⟩ := hring
  obtain ⟨hknown, hone⟩ := hop
  have hserved : (s.dead || !q.present || q.error || q.head == q.tail || !x.bme ||
      decide (4096 ≤ (x.sq.map (fun (p : Nat × Sq) => p.2.outstanding.length)).sum)) = false := by
    simp [hdead, hpresent, herror, hsome, hbme, hall]
  have hfits : ¬ 2 ^ c.log2 < 1 + (c.tail + 2 ^ c.log2 - c.head) % 2 ^ c.log2 + c.reserved + 1 := by omega
  have hopcode : opcodes.contains (bits header.toNat 7 0) = true := List.contains_iff_mem.2 hknown
  refine ⟨_, rfl, ?_⟩
  simp only [execDescriptorAccept, ← hx, ← hq, ← hc, hserved, if_neg hone, decide_eq_false hfits, hfence, hopcode,
    Bool.false_and, Bool.or_self, Bool.false_eq_true, if_false, if_true]
  rfl

variable {d : Desc}

theorem execRingCreate_cq {r log2 bound : BitVec 8} {base : BitVec 64} {n tau : BitVec 8} (hadmit : s.admits d = true)
    (hx : x = s.ten d.tenant.toNat)
    (hargs : 1 ≤ r.toNat ∧ r.toNat ≤ 63 ∧ 6 ≤ log2.toNat ∧ log2.toNat ≤ 16 ∧ base.toNat % 4096 = 0)
    (hfree : bound.toNat ≤ 63 ∧ (Tbl.get {} x.cq r.toNat).present = false) :
    execRingCreate d r true log2 bound base n tau s = .next ((s.setTen d.tenant.toNat
      { x with
        cq := Tbl.set {} r.toNat
          { present := true
            base := base
            log2 := log2.toNat
            vector := bound.toNat
            n := n.toNat
            tau := tau.toNat } x.cq }).ok d) := by
  subst hx
  obtain ⟨hone, hlast, hmin, hmax, hbase⟩ := hargs
  obtain ⟨hbound, hfree⟩ := hfree
  have hzero : r.toNat ≠ 0 := Nat.one_le_iff_ne_zero.1 hone
  refine congrArg Host.Outcome.next (State.descriptor_plain hadmit ?_)
  generalize Tbl.get {} (s.ten d.tenant.toNat).cq r.toNat = c at hfree ⊢
  simp [hzero, hlast, hmin, hmax, hbase, hbound, hfree]

theorem execRingCreate_sq {r log2 bound : BitVec 8} {base : BitVec 64} {n tau : BitVec 8} (hadmit : s.admits d = true)
    (hx : x = s.ten d.tenant.toNat)
    (hargs : 1 ≤ r.toNat ∧ r.toNat ≤ 63 ∧ 6 ≤ log2.toNat ∧ log2.toNat ≤ 16 ∧ base.toNat % 4096 = 0)
    (hfree : (Tbl.get {} x.cq bound.toNat).present = true ∧ (Tbl.get {} x.sq r.toNat).present = false) :
    execRingCreate d r false log2 bound base n tau s = .next ((s.setTen d.tenant.toNat
      { x with
        sq := Tbl.set {} r.toNat
          { present := true
            base := base
            log2 := log2.toNat
            cq := bound.toNat } x.sq }).ok d) := by
  subst hx
  obtain ⟨hone, hlast, hmin, hmax, hbase⟩ := hargs
  obtain ⟨hbound, hfree⟩ := hfree
  have hzero : r.toNat ≠ 0 := Nat.one_le_iff_ne_zero.1 hone
  refine congrArg Host.Outcome.next (State.descriptor_plain hadmit ?_)
  generalize Tbl.get {} (s.ten d.tenant.toNat).cq bound.toNat = c at hbound ⊢
  generalize Tbl.get {} (s.ten d.tenant.toNat).sq r.toNat = q at hfree ⊢
  simp [hzero, hlast, hmin, hmax, hbase, hbound, hfree]

theorem execRingDelete_cq {r : BitVec 8} (hadmit : s.admits d = true) (hx : x = s.ten d.tenant.toNat)
    (hargs : 1 ≤ r.toNat ∧ r.toNat ≤ 63 ∧ (Tbl.get {} x.cq r.toNat).present = true)
    (hfree : x.sq.any (fun p => p.2.present && p.2.cq == r.toNat) = false) :
    execRingDelete d r true s =
      .next ((s.setTen d.tenant.toNat { x with cq := Tbl.set {} r.toNat {} x.cq }).ok d) := by
  subst hx
  obtain ⟨hone, hlast, hpresent⟩ := hargs
  have hzero : r.toNat ≠ 0 := Nat.one_le_iff_ne_zero.1 hone
  refine congrArg Host.Outcome.next (State.descriptor_plain hadmit ?_)
  generalize Tbl.get {} (s.ten d.tenant.toNat).cq r.toNat = c at hpresent ⊢
  simpa [hzero, hlast, hpresent] using hfree

/-! ## Tenants -/

theorem execVfEnable_first (hdown : s.dead = false ∧ (s.ten 1).vfEnabled = false ∧ (s.ten 1).resetStep = 0) :
    execVfEnable 1 s = .next ((((s.setTen 1 { s.ten 1 with vfEnabled := true }).put F.HIF_TENANT_STATUS_state 1 1).put
      F.HIF_LINK_STATUS_num_vfs (Nat.max 1 (((s.setTen 1 { s.ten 1 with vfEnabled := true }).put
        F.HIF_TENANT_STATUS_state 1 1).get F.HIF_LINK_STATUS_num_vfs)))) := by
  obtain ⟨hdead, hoff, hstep⟩ := hdown
  have hnew : ((upTo (1 : BitVec 8).toNat).map (· + 1)).filter (fun t => !(s.ten t).vfEnabled) = [1] := by
    have hone : (upTo (1 : BitVec 8).toNat).map (· + 1) = [1] := by decide
    rw [hone]
    simp [hoff]
  have hready : (((s.setTen 1 { s.ten 1 with vfEnabled := true }).ten 1).resetStep == 0) = true := by
    rw [State.ten, State.setTen, Tbl.get_set_same]
    exact beq_iff_eq.2 hstep
  simp -implicitDefEqProofs only [execVfEnable, hdead, Bool.false_eq_true, if_false, hnew, State.each,
    List.foldl_cons, List.foldl_nil, hready, State.when, if_true]
  rfl

theorem execTenantSet_quota {w0 w1 w2 w3 w4 : Word} (hadmit : s.admits d = true ∧ s.mgmtUp = true ∧ d.tenant = 0)
    (hw : s.writable (.descriptor 0) Reg.CAP_QUOTA_FRONT tenant.toNat 0 0 w0 = true) :
    execTenantSet d tenant 1 w0 w1 w2 w3 w4 s =
      .next ((s.applyWrite (.descriptor 0) Reg.CAP_QUOTA_FRONT tenant.toNat 0 0 w0).ok d) := by
  obtain ⟨hadmit, hup, howner⟩ := hadmit
  have hmask : bitsOf 5 (1 : BitVec 5).toNat = [0] := by decide
  refine congrArg Host.Outcome.next ((State.descriptor_admits hadmit (fun _ => howner) (fun _ => hup) (by simp)).trans ?_)
  simp only [hmask, List.foldl_cons, List.foldl_nil, if_true, State.plainWrite_writable hw]

theorem execQuery_quire {index : Word} {buffer : BitVec 64} (hadmit : s.admits d = true)
    (hmine : index.toNat < 524288 ∧ (s.quire index.toNat).state ≠ Qr.FREE ∧
      (s.quire index.toNat).tenant = d.tenant.toNat) :
    execQuery d 1 index buffer s = .next ((s.hostWrite d.tenant.toNat buffer.toNat (quireBytes (s.quire index.toNat))).ok d
      (quireBytes (s.quire index.toNat)).length) := by
  obtain ⟨hlt, hstate, htenant⟩ := hmine
  refine congrArg Host.Outcome.next ((State.descriptor_plain hadmit ?_).trans rfl)
  simp [hlt, hstate, htenant]

end

/-- Settles O39: each doorbell, ring, descriptor and tenant command takes its effect where its conditions hold. -/
theorem hostCommandsComplete : Obligations.HostCommandsComplete := by
  unfold Obligations.HostCommandsComplete
  refine ⟨?_, ?_, ?_, ?_, ?_, ?_, ?_, ?_, ?_, ?_, ?_, ?_, ?_, ?_⟩
  · exact fun s tenant ring v x q hopen ⟨hx, hq⟩ hin => Gives.eq (congrArg Host.Outcome.next
      ((State.doorbell_open hopen).trans (State.sqTail_moved hx hq hin)))
  · exact fun s tenant ring v x c hopen ⟨hx, hc⟩ hin hbehind => Gives.eq (congrArg Host.Outcome.next
      ((State.doorbell_open hopen).trans (State.cqHead_moved hx hc hin hbehind)))
  · exact fun s tenant v x k hopen hv hsize hx hbases hidle => execSetupRing0_up hopen hv hsize hx hbases hidle
  · intro s tenant ring header x q c hof hring hall hroom hfence hop
    obtain ⟨y, hy, hexec⟩ := execDescriptorAccept_taken hof hring hall hroom hfence hop
    exact Gives.of_exec hexec ⟨y, hy, rfl⟩
  · exact fun s tenant ring _ => Gives.eq rfl
  · intro s tenant cq x c ⟨hx, hc⟩ hwaits
    refine Gives.eq (show execMsixCoalesceTimeout tenant cq s = _ from ?_)
    have hready : (!c.present || c.n == 0 || c.tau == 0 || c.since == 0) = false := by simp [hwaits]
    simp only [execMsixCoalesceTimeout, ← hx, ← hc, hready, Bool.false_eq_true, if_false]
  · exact fun s d hadmit => Gives.eq (congrArg Host.Outcome.next (State.descriptor_plain hadmit (by simp)))
  · exact fun s d ring log2 bound base n tau x hadmit hx hargs hfree =>
      Gives.eq (execRingCreate_cq hadmit hx hargs hfree)
  · exact fun s d ring log2 bound base n tau x hadmit hx hargs hfree =>
      Gives.eq (execRingCreate_sq hadmit hx hargs hfree)
  · exact fun s d ring x hadmit hx hargs hfree => Gives.eq (execRingDelete_cq hadmit hx hargs hfree)
  · intro s tenant x ⟨hdead, hon, hx⟩
    refine Gives.eq (show execBusMasterEnableChange tenant true s = _ from ?_)
    simp [execBusMasterEnableChange, hdead, hon, ← hx]
  · exact fun s hdown => Gives.of_exec (execVfEnable_first hdown) ⟨_, rfl, rfl⟩
  · exact fun s d tenant w0 w1 w2 w3 w4 hadmit hw => Gives.eq (execTenantSet_quota hadmit hw)
  · exact fun s d index buffer hadmit hmine => Gives.eq (execQuery_quire hadmit hmine)

end Sys2Proof.Machine
end

section
/-! PROOFS. Grants, function resets, the host link and image writes (spec/21). -/
namespace Sys2Proof.Machine

section
variable {s : State} {d : Desc}

/-! ## Grants and resets -/

/-- Units in range that the giver owns and nobody uses change hands. -/
theorem State.grantUnits_pass {ty t first count src dst : Nat}
    (hadmit : s.admits d = true ∧ s.mgmtUp = true ∧ d.tenant = 0)
    (hrange : 0 < count ∧ first + count ≤ unitCount ty) (ht : t ≠ 0)
    (hready : dst = 0 ∨ s.get F.HIF_TENANT_STATUS_state t = 1)
    (hunits : ((upTo count).map (· + first)).all (fun i => s.unitOwner ty i == src && !s.unitUsed ty i) = true) :
    s.grantUnits d ty t first count src dst = s.moveUnits d ty first count dst := by
  obtain ⟨hadmit, hup, howner⟩ := hadmit
  simp only [List.all_eq_true, Bool.and_eq_true, beq_iff_eq, Bool.not_eq_true'] at hunits
  have hmine : ((upTo count).map (· + first)).any (fun i => s.unitOwner ty i != src) = false := by
    simpa only [List.any_eq_false, bne_iff_ne, ne_eq, Decidable.not_not] using fun i hi => (hunits i hi).1
  have hidle : ((upTo count).map (· + first)).any (fun i => s.unitUsed ty i) = false := by
    simpa only [List.any_eq_false, Bool.not_eq_true] using fun i hi => (hunits i hi).2
  have hto : (dst != 0 && s.get F.HIF_TENANT_STATUS_state t != 1) = false := by
    rcases hready with h | h <;> simp [h]
  rw [State.grantUnits]
  refine State.descriptor_admits hadmit (fun _ => howner) (fun _ => hup) ?_
  simp only [List.forall_mem_cons, hmine, hidle, hto, Bool.and_false, true_and]
  simp [hrange, ht]

theorem execSectionClearDone_empty {sec : BitVec 8}
    (hclearing : s.sect sec.toNat = Sec.CLEARING ∧ s.domOn (domSection sec.toNat) = true) (hloads : s.fab.loads = []) :
    execSectionClearDone sec s =
      .next (((s.sectBlank sec.toNat).setSect sec.toNat Sec.EMPTY).sectWake sec.toNat St.OK).movesEnd.resetsEnd := by
  have hgo : ¬(s.sect sec.toNat ≠ Sec.CLEARING ∨ (!s.domOn (domSection sec.toNat)) = true) := by simp [hclearing]
  have hnone : (s.sectBlank sec.toNat).fab.loads = [] := hloads
  simp only [execSectionClearDone, if_neg hgo, hnone, List.any_nil, Bool.false_eq_true, if_false]

theorem execFlrVf_begins {tenant : BitVec 8}
    (hvf : s.dead = false ∧ tenant ≠ 0 ∧ (s.ten tenant.toNat).vfEnabled = true ∧ (s.ten tenant.toNat).resetStep = 0) :
    execFlrVf tenant s = .next (s.resetBegin tenant.toNat) := by
  obtain ⟨hdead, ht, hon, hstep⟩ := hvf
  have hpf : tenant.toNat ≠ 0 := fun h => ht (BitVec.eq_of_toNat_eq h)
  simp [execFlrVf, State.funcOn, hdead, hpf, hon, hstep]

theorem execFlrQuireRelease_released {tenant : BitVec 8}
    (hvf : s.dead = false ∧ tenant ≠ 0 ∧ (s.ten tenant.toNat).resetStep = 1)
    (hclosed : s.cap.streams.all (fun p => s.strmHolder p.1 != tenant.toNat || s.strmState p.1 == Strm.CLOSED) = true) :
    execFlrQuireRelease tenant s = .next (s.resetRelease tenant.toNat) := by
  obtain ⟨hdead, ht, hstep⟩ := hvf
  have hpf : tenant.toNat ≠ 0 := fun h => ht (BitVec.eq_of_toNat_eq h)
  have hnone : s.cap.streams.any (fun p => s.strmHolder p.1 == tenant.toNat &&
      (s.strmActive p.1 || s.strmState p.1 == Strm.STOPPING)) = false := by
    refine List.any_eq_false.2 fun p hp => ?_
    have hp := List.all_eq_true.1 hclosed p hp
    simp only [Bool.or_eq_true, bne_iff_ne, beq_iff_eq] at hp
    rcases hp with h | h
    · simp [h]
    · have hactive : (s.strmActive p.1 || s.strmState p.1 == Strm.STOPPING) = false := by
        rw [State.strmActive, h]
        rfl
      simp [hactive]
  simp [execFlrQuireRelease, hdead, hpf, hstep, hnone]

/-! ## The host link -/

theorem execPerstNRelease_trains (hlow : s.dead = false ∧ s.on F.HIF_LINK_STATUS_perst_n = false)
    (hhost : s.boot.endedS03 = true ∧ s.hostless = false) :
    ∃ t, execPerstNRelease s = .next t ∧ ∃ u : State, u = (s.put F.HIF_LINK_STATUS_perst_n 1).put F.HIF_LINK_STATUS_state
      V.HIF_LINK_STATUS_state_TRAINING ∧ t = { u with boot := { u.boot with active := u.boot.active ++ [3] } } := by
  obtain ⟨hended, hhostless⟩ := hhost
  have hgo : (s.dead || s.on F.HIF_LINK_STATUS_perst_n) = false := by simp [hlow]
  have htrains : ((s.put F.HIF_LINK_STATUS_perst_n 1).boot.endedS03 && !(s.put F.HIF_LINK_STATUS_perst_n 1).hostless) =
      true := by
    rw [State.put_boot, hended, State.hostless, State.put_colo, ← State.hostless, hhostless]
    rfl
  refine ⟨_, ?_, _, rfl, rfl⟩
  simp -implicitDefEqProofs only [execPerstNRelease, hgo, htrains, Bool.false_eq_true, if_false, if_true]

/-! ## Image writes -/

theorem State.colo_showSlots (s : State) : s.showSlots.colo = s.colo := by
  rw [State.showSlots]
  exact State.each_mem_preserves (fun t : State => t.colo = s.colo) (fun t p _ ht => (State.put_colo ..).trans ht) rfl

theorem State.boot_showSlots (s : State) : s.showSlots.boot = s.boot := by
  rw [State.showSlots]
  exact State.each_mem_preserves (fun t : State => t.boot = s.boot) (fun t p _ ht => (State.put_boot ..).trans ht) rfl

theorem State.get_showSlots {f : Fld} (h : Reg.BOOT_SLOT_STATUS.apart f.r = true) (s : State) :
    s.showSlots.get f = s.get f := by
  rw [State.showSlots]
  refine State.each_mem_preserves (fun t : State => t.get f = s.get f) (fun t p hp ht => ?_) rfl
  have hreg : p.1.r = Reg.BOOT_SLOT_STATUS := by
    simp only [List.mem_cons, List.not_mem_nil, or_false] at hp
    rcases hp with rfl | rfl | rfl | rfl | rfl <;> rfl
  exact (State.get_put_apart (hreg ▸ h)).trans ht

/-- What the end of an image write leaves as it was, and the event it sets. -/
theorem State.slotWritten_shown (u : State) (n : Nat) :
    (((u.ev F.BOOT_EVENTS_slot_written).showSlots).ok d n).colo = u.colo ∧
    (((u.ev F.BOOT_EVENTS_slot_written).showSlots).ok d n).boot = u.boot ∧
    (((u.ev F.BOOT_EVENTS_slot_written).showSlots).ok d n).get F.BOOT_EVENTS_slot_written = 1 := by
  have hcolo (v : State) : (v.ok d n).colo = v.colo := (State.ok_kept v d n Kept.of_keeps Kept.of_allows).colo rfl
  have hboot (v : State) : (v.ok d n).boot = v.boot := (State.ok_kept v d n Kept.of_keeps Kept.of_allows).boot rfl
  have hget (v : State) : (v.ok d n).get F.BOOT_EVENTS_slot_written = v.get F.BOOT_EVENTS_slot_written :=
    (State.ok_kept v d n Kept.of_keeps Kept.of_allows).get_outside (by decide)
  refine ⟨?_, ?_, ?_⟩
  · rw [hcolo, State.colo_showSlots, State.ev_eq, State.put_colo]
  · rw [hboot, State.boot_showSlots, State.ev_eq, State.put_boot]
  · rw [hget, State.get_showSlots (by decide), State.ev_eq, State.get_put_fits (by decide) (by decide) (by decide)]

/-- A write of the last part, with no error, leaves the slot written and nothing being written (R106). -/
theorem execImageWrite_last {slot : BitVec 8} {offset length : Word} {rollback : BitVec 7} {map : BitVec 256}
    (hadmit : s.admits d = true ∧ s.mgmtUp = true ∧ d.tenant = 0 ∧ d.readFail = false ∧ s.noFirmware = false)
    (hargs : slot.toNat ≤ 3 ∧ offset.toNat % 4 = 0 ∧ length.toNat % 4 = 0 ∧ 0 < length.toNat ∧ length.toNat ≤ 1048576)
    (hroom : offset.toNat + length.toNat ≤ (if slot.toNat ≤ 1 then 0x800000 else 0x6000000))
    (hidle : s.boot.fwRunning ≠ slot.toNat + 2 ∧ (slot.toNat ≤ 1 ∨ s.boot.fabRunning + 1 ≠ slot.toNat)) :
    ∃ t, execImageWrite d slot true true offset length 0 rollback map s = .next t ∧
      Tbl.get {} t.colo.slots (slot.toNat + 1) = { state := 2, rollback := rollback.toNat, sectionMap := map.toNat } ∧
      t.boot.writing = none ∧ t.get F.BOOT_EVENTS_slot_written = 1 := by
  obtain ⟨hadmit, hup, howner, hread, hfirmware⟩ := hadmit
  obtain ⟨hslot, hoffset, hlength, hpos, hmax⟩ := hargs
  have hfits : ¬(if slot.toNat + 1 ≤ 2 then 0x800000 else 0x6000000) < offset.toNat + length.toNat := by
    split <;> rename_i h <;> split at hroom <;> omega
  have hstopped : (s.boot.fwRunning == slot.toNat + 1 + 1 ||
      (decide (3 ≤ slot.toNat + 1) && s.boot.fabRunning + 2 == slot.toNat + 1)) = false := by
    simp only [Bool.or_eq_false_iff, Bool.and_eq_false_iff, decide_eq_false_iff_not, beq_eq_false_iff_ne]
    omega
  have hnonempty : (length.toNat == 0) = false := beq_eq_false_iff_ne.2 (Nat.ne_of_gt hpos)
  simp -implicitDefEqProofs only [execImageWrite, hfirmware, Bool.false_eq_true, if_false]
  rw [State.descriptor_admits hadmit (fun _ => howner) (fun _ => hup) ?_]
  · simp -implicitDefEqProofs only [hread, Bool.false_eq_true, Bool.true_or, if_false, if_true]
    refine ⟨_, rfl, ?_⟩
    rw [(State.slotWritten_shown _ _).1, (State.slotWritten_shown _ _).2.1, (State.slotWritten_shown _ _).2.2]
    dsimp only
    exact ⟨Tbl.get_set_same .., rfl, rfl⟩
  · simp only [List.forall_mem_cons, hstopped, decide_eq_false hfits, hnonempty]
    simp [hoffset, hlength, hmax]
    omega

end

/-- Settles O40: each grant, reset, link and image command takes its effect where its conditions hold. -/
theorem grantAndResetCommandsComplete : Obligations.GrantAndResetCommandsComplete := by
  unfold Obligations.GrantAndResetCommandsComplete
  refine ⟨?_, ?_, ?_, ?_, ?_, ?_, ?_, ?_, ?_, ?_, ?_, ?_, ?_⟩
  · intro s d ty tenant first count hadmit ⟨hpos, hrange, ht⟩ hready hunits
    have hpf : tenant.toNat ≠ 0 := fun h => ht (BitVec.eq_of_toNat_eq h)
    exact Gives.eq (congrArg Host.Outcome.next (State.grantUnits_pass hadmit ⟨hpos, hrange⟩ hpf (.inr hready) hunits))
  · intro s d ty tenant first count hadmit ⟨hpos, hrange, ht⟩ hunits
    have hpf : tenant.toNat ≠ 0 := fun h => ht (BitVec.eq_of_toNat_eq h)
    exact Gives.eq (congrArg Host.Outcome.next (State.grantUnits_pass hadmit ⟨hpos, hrange⟩ hpf (.inl rfl) hunits))
  · exact fun s sec hclearing hloads => Gives.eq (execSectionClearDone_empty hclearing hloads)
  · exact fun s tenant hvf => Gives.eq (execFlrVf_begins hvf)
  · exact fun s tenant hvf hclosed => Gives.eq (execFlrQuireRelease_released hvf hclosed)
  · exact fun s n hdead => Gives.eq (congrArg Host.Outcome.next (if_neg (by simp [hdead])))
  · exact fun s hdead => Gives.eq (congrArg Host.Outcome.next (if_neg (by simp [hdead])))
  · exact fun s hdead => Gives.eq (if_neg (by simp [hdead]))
  · exact fun s hlow hhost => execPerstNRelease_trains hlow hhost
  · exact fun s hup => Gives.eq (if_neg (by simp [hup]))
  · exact fun s hdown hperst => Gives.eq (if_neg (by simp [hdown, hperst]))
  · exact fun s rate width flit hdown hperst => Gives.eq (if_neg (by simp [hdown, hperst]))
  · exact fun s d slot offset length rollback map hadmit hargs hroom hidle =>
      execImageWrite_last hadmit hargs hroom hidle

end Sys2Proof.Machine
end

section
/-! PROOFS. The ports of the Brynust ring, their flits and the remote accesses (spec/22). -/
namespace Sys2Proof.Machine

section
variable {s u : State} {f : FlitArg} {x : BryPort}

/-! ## The registers of a port -/

theorem State.get_setPort_apart {g : Fld} {p st cause i j k : Nat} (h : Reg.BRY_PORT_STATUS.apart g.r = true)
    (hev : Reg.BRY_PORT_EVENTS.apart g.r = true) : (s.setPort p st cause).get g i j k = s.get g i j k := by
  have h1 : F.BRY_PORT_STATUS_state.r.apart g.r = true := h
  have h2 : F.BRY_PORT_STATUS_cause.r.apart g.r = true := h
  have h3 : F.BRY_PORT_EVENTS_failed.r.apart g.r = true := hev
  rw [State.setPort, State.get_when, State.ev_eq, State.get_put_apart h3, State.get_put_apart h2,
    State.get_put_apart h1]
  exact ite_self _

theorem State.bry_setPort {p st cause : Nat} : (s.setPort p st cause).bry = s.bry := by
  rw [State.setPort, State.when]
  split
  · rw [State.ev_eq, State.put_bry, State.put_bry, State.put_bry]
  · rw [State.put_bry, State.put_bry]

theorem State.bryPort_setBryPort_same (s : State) (p : Nat) (y : BryPort) : (s.setBryPort p y).bryPort p = y :=
  Tbl.get_set_same ..

/-! ## A good flit -/

section
variable {effect : State → State} (hgood : s.dead = false ∧ s.portUp f.port.toNat = true ∧ f.check = 0)
  (hx : x = (s.bryPort f.port.toNat).acked f.ack.toNat)
include hgood hx

theorem State.rxFlit_free : s.rxFlit f false effect = effect (s.setBryPort f.port.toNat x) := by
  obtain ⟨hdead, hup, hcheck⟩ := hgood
  simp only [State.rxFlit, hdead, hup, hcheck, ← hx, Bool.not_true, Bool.or_self, Bool.false_eq_true, if_false, ne_eq,
    not_true_eq_false, Bool.not_false, if_true]

/-- A good flit in sequence is acknowledged and takes its effect. -/
theorem State.rxFlit_next
    (hseq : f.seq.toNat = (x.ack + 1) % 4096 ∧ u = s.setBryPort f.port.toNat { x with ack := f.seq.toNat }) :
    s.rxFlit f true effect = effect u := by
  obtain ⟨hdead, hup, hcheck⟩ := hgood
  obtain ⟨hnumber, hu⟩ := hseq
  simp only [State.rxFlit, hdead, hup, hcheck, ← hx, Bool.not_true, Bool.or_self, Bool.false_eq_true, if_false, ne_eq,
    not_true_eq_false, if_pos hnumber, hu]

end

/-- A ring flit seen for the first time, which goes no further, takes its effect here. -/
theorem State.ringFlit_first {p kind origin number : Nat} {payload : List Nat} {act : State → State}
    (hfar : origin ≠ s.device ∧ s.portUp (across p) = false)
    (hnew : s.bry.seen.find? (fun k => k.1 == origin && k.2.1 == number) = none) :
    s.ringFlit p kind origin number payload act =
      act { s with bry := { s.bry with seen := s.bry.seen ++ [(origin, number, payload)] } } := by
  simp only [State.ringFlit, if_neg hfar.1, hfar.2, Bool.false_and, State.when, Bool.false_eq_true, if_false, hnew]

/-! ## Training -/

theorem execBryPortTrained_up {port : BitVec 2} {ringId : BitVec 16} {size : BitVec 4} {number : BitVec 3} {bad : BitVec 8}
    {far : BitVec 3} {reach : BitVec 8} (hused : s.portUsed port.toNat = true ∧ s.domOn (domBry port.toNat) = true)
    (hstate : s.get F.BRY_PORT_STATUS_state port.toNat = Bry.DOWN ∨ s.get F.BRY_PORT_STATUS_state port.toNat = Bry.TRAINING)
    (hplain : s.encrypts port.toNat = false)
    (htopology : ringId.toNat = bits (s.boot.ringAtStart.getD 0#32).toNat 15 0 ∧ size.toNat = s.ringSize ∧
      number.toNat = s.neighbour port.toNat)
    (hlanes : bad.toNat % 16 = 0 ∨ bad.toNat / 16 = 0)
    (hu : u = (((s.put F.BRY_PORT_STATUS_partner number.toNat port.toNat).ev F.BRY_PORT_STATUS_partner_valid
      port.toNat).setBryPort port.toNat {}).put F.BRY_PORT_STATUS_x4 (if bad = 0 then 0 else 1) port.toNat) :
    execBryPortTrained port ringId size number bad false far reach s =
      .next ((((u.setPort port.toNat Bry.UP V.BRY_PORT_STATUS_cause_NONE).ev F.BRY_PORT_EVENTS_up port.toNat).setSession
        port.toNat V.SEC_LINK_STATUS_state_CLEAR 0).ringState far.toNat reach.toNat) := by
  obtain ⟨hring, hsize, hnumber⟩ := htopology
  have hgo : (!s.portUsed port.toNat || !s.domOn (domBry port.toNat) ||
      (s.get F.BRY_PORT_STATUS_state port.toNat != Bry.DOWN && s.get F.BRY_PORT_STATUS_state port.toNat != Bry.TRAINING)) =
      false := by
    rcases hstate with h | h <;> simp [hused, h]
  have hkept (g : Fld) (hg : Reg.BRY_PORT_STATUS.apart g.r = true) (a : Nat) :
      ((s.put F.BRY_PORT_STATUS_partner a port.toNat).ev F.BRY_PORT_STATUS_partner_valid port.toNat).get g = s.get g := by
    have h1 : F.BRY_PORT_STATUS_partner.r.apart g.r = true := hg
    have h2 : F.BRY_PORT_STATUS_partner_valid.r.apart g.r = true := hg
    rw [State.ev_eq, State.get_put_apart h2, State.get_put_apart h1]
  have hsizeKept (a : Nat) : ((s.put F.BRY_PORT_STATUS_partner a port.toNat).ev F.BRY_PORT_STATUS_partner_valid
      port.toNat).ringSize = s.ringSize := by
    rw [State.ringSize, hkept _ rfl, State.ringSize]
  have hnumberKept (a : Nat) : ((s.put F.BRY_PORT_STATUS_partner a port.toNat).ev F.BRY_PORT_STATUS_partner_valid
      port.toNat).neighbour port.toNat = s.neighbour port.toNat := by
    rw [State.neighbour, State.device, hkept _ rfl, hsizeKept, State.neighbour, State.device]
  have hsame : ¬ (ringId.toNat ≠ bits (s.boot.ringAtStart.getD 0#32).toNat 15 0 ∨ size.toNat ≠ s.ringSize ∨
      number.toNat ≠ s.neighbour port.toNat) := by simp [hring, hsize, hnumber]
  have hx4 : b2n (bad != 0) = if bad = 0 then 0 else 1 := by
    by_cases h : bad = 0 <;> simp [h, b2n]
  have hlaned : ¬ (bad.toNat % 16 ≠ 0 ∧ bad.toNat / 16 ≠ 0) := by omega
  simp -implicitDefEqProofs only [execBryPortTrained, hgo, hplain, hsizeKept, hnumberKept, if_neg hsame,
    if_neg hlaned, Bool.false_and, Bool.false_eq_true, if_false, bne_self_eq_false, hx4, hu]

/-! ## Retraining, and the ports that go down -/

theorem execBryNoPartnerRetry_down {port : BitVec 2}
    (hused : s.portUsed port.toNat = true ∧ s.domOn (domBry port.toNat) = true)
    (hstate : s.get F.BRY_PORT_STATUS_state port.toNat = Bry.DOWN ∨ s.get F.BRY_PORT_STATUS_state port.toNat = Bry.TRAINING) :
    execBryNoPartnerRetry port s =
      .next ((s.setPort port.toNat Bry.DOWN V.BRY_PORT_STATUS_cause_NO_PARTNER).ringState s.bry.farDown
        (s.get F.BRY_RING_STATUS_reachable)) := by
  refine if_neg ?_
  rcases hstate with h | h <;> simp [hused, h]

theorem execBryPortDown_here {port : BitVec 2} {far : BitVec 3} {reach : BitVec 8}
    (hstate : s.get F.BRY_PORT_STATUS_state port.toNat = Bry.UP ∨
      s.get F.BRY_PORT_STATUS_state port.toNat = Bry.RETRAINING) :
    execBryPortDown port true far reach s =
      .next ((s.portDown port.toNat V.BRY_PORT_STATUS_cause_NONE).ringState far.toNat reach.toNat) := by
  have hup : (true && (s.get F.BRY_PORT_STATUS_state port.toNat == Bry.UP ||
      s.get F.BRY_PORT_STATUS_state port.toNat == Bry.RETRAINING)) = true := by
    rcases hstate with h | h <;> simp [h]
  simp only [execBryPortDown, hup, if_true]

theorem execFlitTrain_training
    (hused : s.dead = false ∧ s.portUsed f.port.toNat = true ∧ s.domOn (domBry f.port.toNat) = true)
    (hcheck : f.check = 0) (hdown : s.get F.BRY_PORT_STATUS_state f.port.toNat = Bry.DOWN) :
    execFlitTrain f s =
      .next ((s.setPort f.port.toNat Bry.TRAINING V.BRY_PORT_STATUS_cause_NONE).ringState s.bry.farDown
        (s.get F.BRY_RING_STATUS_reachable)) := by
  obtain ⟨hdead, hport, hdomain⟩ := hused
  simp only [execFlitTrain, hdead, hport, hdomain, hcheck, hdown, Bool.not_true, Bool.or_self, Bool.false_eq_true,
    if_false, ne_eq, not_true_eq_false, if_true, State.bry_setPort,
    State.get_setPort_apart (g := F.BRY_RING_STATUS_reachable) rfl rfl]

theorem execBryRetrainDone_up {port : BitVec 2} (hstate : s.get F.BRY_PORT_STATUS_state port.toNat = Bry.RETRAINING)
    (hx : x = s.bryPort port.toNat)
    (hfew : (x.retrains.filter (fun t => decide (s.now < t + 64000000))).length < 3)
    (hu : u = s.setBryPort port.toNat { x with retrains := x.retrains.filter (fun t => decide (s.now < t + 64000000)) })
    (hplain : u.encrypts port.toNat = false) :
    ∃ t, execBryRetrainDone port s = .next t ∧
      ∃ y, y = (((u.setPort port.toNat Bry.UP 0).ev F.BRY_PORT_EVENTS_up port.toNat).ev F.BRY_PORT_EVENTS_retrained
        port.toNat).each x.replay (fun s e => s.send (.flit port.toNat e.2.1 e.2.2.1 e.1 e.2.2.2)) ∧
        t = y.ringState y.bry.farDown (y.get F.BRY_RING_STATUS_reachable) := by
  subst hx
  have hplain' : (((u.setPort port.toNat Bry.UP 0).ev F.BRY_PORT_EVENTS_up port.toNat).ev F.BRY_PORT_EVENTS_retrained
      port.toNat).encrypts port.toNat = false := by
    have h1 : F.BRY_PORT_EVENTS_up.r.apart F.SEC_LINK_CTRL_encrypt.r = true := rfl
    have h2 : F.BRY_PORT_EVENTS_retrained.r.apart F.SEC_LINK_CTRL_encrypt.r = true := rfl
    rw [State.encrypts, State.ev_eq, State.ev_eq, State.get_put_apart h2, State.get_put_apart h1,
      State.get_setPort_apart rfl rfl]
    exact hplain
  refine ⟨_, ?_, _, rfl, rfl⟩
  simp -implicitDefEqProofs only [execBryRetrainDone, hstate, ne_eq, not_true_eq_false, if_false,
    if_neg (Nat.not_le.2 hfew), ← hu, hplain', State.when_false]

/-! ## Flits -/

theorem execFlitNoc_forwarded {origin dest : BitVec 3} {vc : BitVec 2} {data : BitVec 512} {source : BitVec 16}
    (hgood : s.dead = false ∧ s.portUp f.port.toNat = true ∧ f.check = 0)
    (hx : x = (s.bryPort f.port.toNat).acked f.ack.toNat)
    (hseq : f.seq.toNat = (x.ack + 1) % 4096 ∧ u = s.setBryPort f.port.toNat { x with ack := f.seq.toNat })
    (hdest : dest.toNat ≠ s.device)
    (hu : u.bryPort f.port.toNat = { x with ack := f.seq.toNat } ∧ u.device = s.device ∧
      u.portUp (across f.port.toNat) = true)
    (hfirst : Tbl.get [] x.asm (64 * origin.toNat + 8 * dest.toNat + vc.toNat) = [] ∧ 0 < bits data.toNat 24 22) :
    execFlitNoc f origin dest vc data source s =
      .next ((u.setBryPort f.port.toNat
        { x with
          ack := f.seq.toNat
          asm := Tbl.set [] (64 * origin.toNat + 8 * dest.toNat + vc.toNat) [data.toNat] x.asm }).sendFlit
          (across f.port.toNat) Flit.NOC origin.toNat [dest.toNat, 1, data.toNat]).flushTrace := by
  obtain ⟨hport, hdevice, hup⟩ := hu
  obtain ⟨hfresh, hmore⟩ := hfirst
  have hpart : decide ((packetOf ([] ++ [data.toNat])).count + 1 ≤ ([] ++ [data.toNat]).length) = false := by
    have hcount : (packetOf [data.toNat]).count = bits data.toNat 24 22 := rfl
    simp only [List.nil_append, hcount, List.length_singleton, decide_eq_false_iff_not]
    omega
  refine congrArg (fun t : State => Host.Outcome.next t.flushTrace) ((State.rxFlit_next hgood hx hseq).trans ?_)
  have hfar : dest.toNat ≠ u.device := hdevice ▸ hdest
  have hup' (y : BryPort) : (u.setBryPort f.port.toNat y).portUp (across f.port.toNat) = true := hup
  have hfar' (y : BryPort) : dest.toNat ≠ (u.setBryPort f.port.toNat y).device := hfar
  simp -implicitDefEqProofs only [hport, hfresh, hpart, if_pos (hfar' _), hup', Bool.false_eq_true, if_false, if_true]
  rfl

theorem execFlitNak_replayed {from' : BitVec 12} (hgood : s.dead = false ∧ s.portUp f.port.toNat = true ∧ f.check = 0)
    (hx : x = (s.bryPort f.port.toNat).acked f.ack.toNat)
    (hplain : s.get F.SEC_LINK_STATUS_state f.port.toNat ≠ V.SEC_LINK_STATUS_state_ENCRYPTED)
    (hlast : x.lastNak ≠ some from'.toNat) :
    execFlitNak f from' s =
      .next ((((s.setBryPort f.port.toNat x).setBryPort f.port.toNat
        { x with
          lastNak := some from'.toNat
          naks := 1 }).cnt F.BRY_REPLAYS_value 1 f.port.toNat).each (x.replay.dropWhile (fun e => e.1 != from'.toNat))
          (fun s e => s.send (.flit f.port.toNat e.2.1 e.2.2.1 e.1 e.2.2.2))) := by
  have hclear : ((s.setBryPort f.port.toNat x).get F.SEC_LINK_STATUS_state f.port.toNat ==
      V.SEC_LINK_STATUS_state_ENCRYPTED) = false := beq_eq_false_iff_ne.2 hplain
  have hone : ¬ 4 ≤ 1 := by decide
  refine congrArg Host.Outcome.next ((State.rxFlit_free hgood hx).trans ?_)
  simp -implicitDefEqProofs only [hclear, State.bryPort_setBryPort_same, if_neg hlast, Bool.false_eq_true, if_false,
    if_neg hone]

theorem execFlitTime_odd {t1 t2 t3 t4 : BitVec 64} {d : BitVec 16}
    (hgood : s.dead = false ∧ s.portUp f.port.toNat = true ∧ f.check = 0)
    (hx : x = (s.bryPort f.port.toNat).acked f.ack.toNat)
    (hseq : f.seq.toNat = (x.ack + 1) % 4096 ∧ u = s.setBryPort f.port.toNat { x with ack := f.seq.toNat })
    (hodd : f.port.toNat % 2 = 1) (hrole : u.role ≠ V.BRY_RING_CFG_role_MEMBER) :
    execFlitTime f t1 t2 t3 t4 d s =
      .next ((u.sendFlit f.port.toNat Flit.TIME u.device [t2.toNat, t3.toNat]).put F.BRY_DELAY_value d.toNat
        f.port.toNat) := by
  have hup : ∀ b c, (u.role == V.BRY_RING_CFG_role_MEMBER && b && c) = false := fun b c => by
    rw [beq_eq_false_iff_ne.2 hrole, Bool.false_and, Bool.false_and]
  refine congrArg Host.Outcome.next ((State.rxFlit_next hgood hx hseq).trans ?_)
  simp -implicitDefEqProofs only [if_pos hodd, hup, State.when_false]

theorem execBryTimeExchange_first (hports : s.portUp 0 = true)
    (hafter : ((s.setBryPort 0 { s.bryPort 0 with t1 := s.now }).sendFlit 0 Flit.TIME s.device [s.now]).portUp 2 = false) :
    execBryTimeExchange s =
      .next ((s.setBryPort 0 { s.bryPort 0 with t1 := s.now }).sendFlit 0 Flit.TIME s.device [s.now]) := by
  simp -implicitDefEqProofs only [execBryTimeExchange, State.each, List.foldl_cons, List.foldl_nil, hports, hafter,
    if_true, Bool.false_eq_true, if_false]

theorem execFlitLine_taken {origin : BitVec 3} {number : Word} {line : BitVec 5} {e : BitVec 64}
    (hgood : s.dead = false ∧ s.portUp f.port.toNat = true ∧ f.check = 0)
    (hx : x = (s.bryPort f.port.toNat).acked f.ack.toNat)
    (hseq : f.seq.toNat = (x.ack + 1) % 4096 ∧ u = s.setBryPort f.port.toNat { x with ack := f.seq.toNat })
    (hfar : origin.toNat ≠ u.device ∧ u.portUp (across f.port.toNat) = false)
    (hnew : u.bry.seen.find? (fun k => k.1 == origin.toNat && k.2.1 == number.toNat) = none)
    (htime : u.ringLine line.toNat = true ∧ u.now ≤ e.toNat + 64 * u.get F.BRY_LINE_DELAY_value) :
    execFlitLine f origin number line e s =
      .next (({ u with bry := { u.bry with
        seen := u.bry.seen ++ [(origin.toNat, number.toNat, [line.toNat, e.toNat])] } }).lineAt
          line.toNat (e.toNat + 64 * u.get F.BRY_LINE_DELAY_value)) := by
  refine congrArg Host.Outcome.next (((State.rxFlit_next hgood hx hseq).trans (State.ringFlit_first hfar hnew)).trans ?_)
  have hspans : ¬ (!u.ringLine line.toNat) = true := by simp [htime.1]
  exact (if_neg hspans).trans (if_neg (Nat.not_lt.2 htime.2))

theorem execFlitBcast_step {origin : BitVec 3} {number : Word} {value e : BitVec 64}
    (hgood : s.dead = false ∧ s.portUp f.port.toNat = true ∧ f.check = 0)
    (hx : x = (s.bryPort f.port.toNat).acked f.ack.toNat)
    (hseq : f.seq.toNat = (x.ack + 1) % 4096 ∧ u = s.setBryPort f.port.toNat { x with ack := f.seq.toNat })
    (hfar : origin.toNat ≠ u.device ∧ u.portUp (across f.port.toNat) = false)
    (hnew : u.bry.seen.find? (fun k => k.1 == origin.toNat && k.2.1 == number.toNat) = none)
    (hlater : u.now ≤ e.toNat) :
    execFlitBcast f origin number 1 value e s =
      .next { u with
        bry := { u.bry with seen := u.bry.seen ++ [(origin.toNat, number.toNat, [1, value.toNat, e.toNat])] }
        clk := { u.clk with pending := some { step := true, value := value, at? := some e } } } := by
  have htime : BitVec.ofNat 64 e.toNat = e := (BitVec.ofNat_toNat 64 e).trans (BitVec.setWidth_eq e)
  refine congrArg Host.Outcome.next (((State.rxFlit_next hgood hx hseq).trans (State.ringFlit_first hfar hnew)).trans ?_)
  exact (if_pos hlater).trans (by rw [htime]; rfl)

theorem execFlitTunnel_written {origin dest : BitVec 3} {addr : BitVec 64} {length : BitVec 16} {bytes : List (BitVec 8)}
    (hgood : s.dead = false ∧ s.portUp f.port.toNat = true ∧ f.check = 0)
    (hx : x = (s.bryPort f.port.toNat).acked f.ack.toNat)
    (hseq : f.seq.toNat = (x.ack + 1) % 4096 ∧ u = s.setBryPort f.port.toNat { x with ack := f.seq.toNat })
    (hhere : dest.toNat = u.device ∧ u.role = V.BRY_RING_CFG_role_MASTER) :
    execFlitTunnel f origin dest true addr length bytes s = .next (u.hostWrite 0 addr.toNat (bytes.map BitVec.toNat)) := by
  refine congrArg Host.Outcome.next ((State.rxFlit_next hgood hx hseq).trans ?_)
  exact (if_neg (Decidable.not_not.2 hhere.1)).trans ((if_neg (Decidable.not_not.2 hhere.2)).trans (if_pos rfl))

/-! ## Remote accesses -/

theorem execRmtAccess_starts {p : Path} {v : Word}
    (hw : s.writable p Reg.BRY_RMT_CTRL 0 0 0 (v ||| 0x80000000#32) = true) (hidle : s.bry.rmt = false)
    (hu : u = s.applyWrite p Reg.BRY_RMT_CTRL 0 0 0 (v ||| 0x80000000#32))
    (hgo : u.on F.BRY_RMT_CTRL_go = true ∧ u.bry.rmt = false)
    (hallowed : u.rmtRefused (u.get F.BRY_RMT_CTRL_device) = false) :
    ∃ t, execRmtAccess p v s = .next t ∧ t.bry = { s.bry with rmt := true } ∧ t.regs = u.regs := by
  have hgo' : ¬ (!u.on F.BRY_RMT_CTRL_go || u.bry.rmt) = true := by simp [hgo]
  have hbry : u.bry = s.bry := by
    rw [hu, State.applyWrite_eq_setWord (r := Reg.BRY_RMT_CTRL) rfl, State.setWord_bry]
  have hquiet : ({ u with bry := { u.bry with rmt := true } } : State).rmtRefused
      (({ u with bry := { u.bry with rmt := true } } : State).get F.BRY_RMT_CTRL_device) = false := hallowed
  have hwritten : (s.writeRmtCtrl p (v ||| 0x80000000#32)).1 = { u with bry := { u.bry with rmt := true } } := by
    rw [State.writeRmtCtrl, State.guardWrite_writable hw rfl]
    simp -implicitDefEqProofs only [hidle, Bool.false_and, Bool.false_eq_true, if_false, ← hu, if_neg hgo', hquiet,
      State.when_false]
  refine ⟨_, congrArg Host.Outcome.next hwritten, ?_, rfl⟩
  rw [← hbry]

theorem execRmtAccessEnd_read {data : Word} (hread : s.bry.rmt = true ∧ s.on F.BRY_RMT_CTRL_write = false) :
    execRmtAccessEnd 0 data s = .next ((s.setWord Reg.BRY_RMT_DATA data).rmtEnd V.BRY_RMT_CTRL_result_OK) := by
  refine (if_neg (by simp [hread.1])).trans ?_
  simp [hread.2, State.when]

end

/-- Settles O41: each Brynust command takes its effect where its conditions hold. -/
theorem brynustCommandsComplete : Obligations.BrynustCommandsComplete := by
  unfold Obligations.BrynustCommandsComplete
  refine ⟨?_, ?_, ?_, ?_, ?_, ?_, ?_, ?_, ?_, ?_, ?_, ?_, ?_, ?_, ?_, ?_⟩
  · exact fun s port ringId size number bad far reach u hused hstate hplain htopology hlanes hu =>
      Gives.eq (execBryPortTrained_up hused hstate hplain htopology hlanes hu)
  · exact fun s port hused hstate => Gives.eq (execBryNoPartnerRetry_down hused hstate)
  · exact fun s port far reach hstate => Gives.eq (execBryPortDown_here hstate)
  · exact fun s f x hgood hx => Gives.eq (congrArg Host.Outcome.next (State.rxFlit_free hgood hx))
  · exact fun s f origin dest vc data source x u hgood hx hseq hdest hu hfirst =>
      Gives.eq (execFlitNoc_forwarded hgood hx hseq hdest.1 hu hfirst)
  · exact fun s f from' x hgood hx hplain hlast => Gives.eq (execFlitNak_replayed hgood hx hplain hlast)
  · exact fun s f t1 t2 t3 t4 d x u hgood hx hseq hodd hrole => Gives.eq (execFlitTime_odd hgood hx hseq hodd hrole)
  · exact fun s f hused hcheck hdown => Gives.eq (execFlitTrain_training hused hcheck hdown)
  · exact fun s port x u hstate _ hx hfew hu hplain => execBryRetrainDone_up hstate hx hfew hu hplain
  · exact fun s port hup => Gives.eq (if_pos hup)
  · exact fun s hports hafter => Gives.eq (execBryTimeExchange_first hports.1 hafter)
  · exact fun s f origin number line e x u hgood hx hseq hfar hnew htime =>
      Gives.eq (execFlitLine_taken hgood hx hseq hfar hnew htime)
  · exact fun s f origin number value e x u hgood hx hseq hfar hnew hlater =>
      Gives.eq (execFlitBcast_step hgood hx hseq hfar hnew hlater)
  · exact fun s f origin dest addr length bytes x u hgood hx hseq hhere =>
      Gives.eq (execFlitTunnel_written hgood hx hseq hhere)
  · exact fun s p v u hw hidle hu hgo hallowed => execRmtAccess_starts hw hidle hu hgo hallowed
  · exact fun s data hread => Gives.eq (execRmtAccessEnd_read hread)

end Sys2Proof.Machine
end

section
/-! PROOFS. The failures of the management processor, and the log (spec/23). -/
namespace Sys2Proof.Machine

section
variable {s : State}

theorem State.mgmtFails_state (s : State) :
    s.mgmtFails.get F.RAS_STATUS_mgmt_state = V.RAS_STATUS_mgmt_state_FAILED := by
  have hev (f : Fld) (h : f.r.apart Reg.RAS_STATUS = true) (t : State) :
      (t.ev f).get F.RAS_STATUS_mgmt_state = t.get F.RAS_STATUS_mgmt_state := by
    have h' : f.r.apart F.RAS_STATUS_mgmt_state.r = true := h
    rw [State.ev_eq, State.get_put_apart h']
  have hcount : F.RAS_FAULT_COUNT_value.r.apart F.RAS_STATUS_mgmt_state.r = true := rfl
  have hseen {t : State} {v : Nat} : (t.put F.RAS_STATUS_class_seen v).get F.RAS_STATUS_mgmt_state =
      t.get F.RAS_STATUS_mgmt_state := State.get_put_disjoint rfl (by decide) (by decide) (by decide)
  rw [State.mgmtFails, State.get_log_apart _ _ _ _ _ rfl rfl, State.fault]
  rw [State.when_true, hev F.RAS_EVENTS_second_fault rfl, hev F.RAS_EVENTS_fault rfl, State.cnt_apart hcount, hseen,
    hev F.RAS_EVENTS_mgmt_failed rfl]
  exact State.get_put_fits (by decide) (by decide) (by decide)

theorem execLogWrite_stored {e : LogEntry} {r : List LogEntry} (hbuffer : s.ras.buffer = e :: r)
    (hlost : s.ras.lost = 0) :
    execLogWrite s = .next ((({ s with ras := { s.ras with buffer := r } }).storeEntry e).logRibbon e e.seq) := by
  have hstill : (({ s with ras := { s.ras with buffer := r } } : State).storeEntry e).ras.lost = 0 := by
    simpa only [State.storeEntry, State.setPair, State.setWord_ras] using hlost
  simp -implicitDefEqProofs only [execLogWrite, State.writeLog, hbuffer, hstill, Nat.lt_irrefl, decide_false,
    State.when_false]

theorem execLogWindowClose_suppressed {code unit : BitVec 16} {w : LogWindow}
    (hwindow : s.ras.windows.find? (fun w => w.code == code.toNat && w.unit == unit.toNat) = some w)
    (hsome : 0 < w.suppressed) :
    execLogWindowClose code unit s =
      .next ((({ s with ras := { s.ras with
        windows := s.ras.windows.filter (fun w => !(w.code == code.toNat && w.unit == unit.toNat)) } }).log 0xF0 0 w.unit
          [w.code, w.suppressed]).ev F.RAS_EVENTS_log_suppressed) := by
  simp -implicitDefEqProofs only [execLogWindowClose, hwindow, decide_eq_true hsome, State.when_true]

end

/-- Settles O42: each management fault and log command takes its effect where its conditions hold. -/
theorem faultCommandsComplete : Obligations.FaultCommandsComplete := by
  unfold Obligations.FaultCommandsComplete
  refine ⟨?_, ?_, ?_, ?_, ?_⟩
  · exact fun s hpaired => Gives.eq (if_neg (Decidable.not_not.2 hpaired))
  · exact fun s hfailover => Gives.eq (if_neg (Decidable.not_not.2 hfailover))
  · exact fun s hsingle => Gives.of_exec (congrArg Host.Outcome.next (if_pos hsingle)) ⟨State.mgmtFails_state s, rfl⟩
  · exact fun s e r hbuffer hlost => Gives.eq (execLogWrite_stored hbuffer hlost)
  · exact fun s code unit w hwindow hsome => Gives.eq (execLogWindowClose_suppressed hwindow hsome)

end Sys2Proof.Machine
end

section
/-! PROOFS. Power domains, votes and the device states (spec/24). -/
namespace Sys2Proof.Machine

section
variable {s : State} {n : BitVec 9}

/-! ## Domains and votes -/

theorem execDomainFenceEnd_entering (hn : n.toNat < 471) (hfencing : s.dom n.toNat = V.PWR_DOMAIN_STATUS_state_FENCING) :
    execDomainFenceEnd n s =
      .next ((s.fenceEnd n.toNat).put F.PWR_DOMAIN_STATUS_state V.PWR_DOMAIN_STATUS_state_ENTERING n.toNat) :=
  if_neg (by simp [hfencing, Nat.not_le.2 hn])

theorem execDomainStateReached_settles (hn : n.toNat < 471) (hstate : s.dom n.toNat = V.PWR_DOMAIN_STATUS_state_ENTERING ∨
    s.dom n.toNat = V.PWR_DOMAIN_STATUS_state_WAKING) :
    execDomainStateReached n s = .next (s.domSettle n.toNat (s.domGoal n.toNat)) := by
  refine if_neg ?_
  exact not_or.2 ⟨Nat.not_le.2 hn, fun h => hstate.elim h.1 h.2⟩

theorem execVoteWithdrawal_withdrawn {k : BitVec 8} (hrange : n.toNat < 471 ∧ k ≠ 0)
    (hvote : Tbl.get 0 s.pwr.votes (256 * n.toNat + k.toNat) ≠ 0 ∧ s.holdsIn k.toNat n.toNat = false) :
    execVoteWithdrawal k n s =
      .next (({ s with pwr := { s.pwr with votes := Tbl.set 0 (256 * n.toNat + k.toNat) 0 s.pwr.votes } }).voteEnds n.toNat) := by
  obtain ⟨hn, hk⟩ := hrange
  have hk0 : k.toNat ≠ 0 := fun h => hk (BitVec.eq_of_toNat_eq h)
  exact (if_neg (Nat.not_le.2 hn)).trans (congrArg Host.Outcome.next (if_neg (by simp [hk0, hvote])))

theorem execDeferredLowering_driven (hdeferred : n.toNat < 471 ∧ s.on F.PWR_DOMAIN_STATUS_deferred n.toNat = true)
    (hfree : s.inUse n.toNat (s.wanted n.toNat) = false) :
    execDeferredLowering n s = .next ((s.clr F.PWR_DOMAIN_STATUS_deferred n.toNat).drive n.toNat) :=
  if_neg (by simp [hdeferred, hfree])

theorem execClockGate_gated (hon : n.toNat < 471 ∧ s.domOn n.toNat = true ∧ n.toNat ∉ s.pwr.gated) :
    execClockGate n s = .next { s with pwr := { s.pwr with gated := s.pwr.gated ++ [n.toNat] } } :=
  if_neg (by simp [hon])

/-- A vote is cast where no domain wakes, none in use is lowered and no cap is passed. -/
theorem State.castVote_driven {m t v : Nat} {d : Option Desc} (hwaking : s.dom m ≠ V.PWR_DOMAIN_STATUS_state_WAKING)
    (hfree : s.inUse m ((s.setVote m t v).wanted m) = false) :
    s.castVote m t v false d =
      ({ s.setVote m t v with
        pwr := { (s.setVote m t v).pwr with
          waits := (s.setVote m t v).pwr.waits ++ [{ domain := m, desc := d }] } } : State).drive m := by
  simp -implicitDefEqProofs only [State.castVote, hwaking, false_and, if_false, hfree, Bool.and_false,
    Bool.false_eq_true]

theorem execPowerVote_driven {d : Desc} {kind v : BitVec 8} {index : BitVec 16} {m : Nat}
    (hadmit : s.admits d = true ∧ s.mgmtUp = true) (hdomain : kind ≠ 0xF ∧ domainOf kind.toNat index.toNat = some m)
    (hholds : s.holdsIn d.tenant.toNat m = true) (hv : v.toNat ≤ 2 ∧ ¬ (kind = 7 ∧ v = 1))
    (hwaking : s.dom m ≠ V.PWR_DOMAIN_STATUS_state_WAKING)
    (hfree : s.inUse m ((s.setVote m d.tenant.toNat v.toNat).wanted m) = false) :
    ∃ t, execPowerVote (.inl d) kind index v false s = .next t ∧
      ∃ u : State, u = s.setVote m d.tenant.toNat v.toNat ∧ t =
        ({ u with pwr := { u.pwr with waits := u.pwr.waits ++ [({ domain := m, desc := some d } : VoteWait)] } }).drive m := by
  obtain ⟨hkind, hm⟩ := hdomain
  obtain ⟨hv2, hnoc⟩ := hv
  have hnocNot : (kind == 7 && v == 1) = false := by
    rw [Bool.eq_false_iff, ne_eq, Bool.and_eq_true, beq_iff_eq, beq_iff_eq]
    exact hnoc
  refine ⟨_, ?_, _, rfl, rfl⟩
  refine (if_neg hkind).trans (congrArg Host.Outcome.next ?_)
  have hchecks : ∀ c ∈ [((some m).any (fun n => !s.holdsIn d.tenant.toNat n), St.REFUSED_NOT_OWNER),
      ((some m).isNone || decide (2 < v.toNat) || (kind == 7 && v == 1), St.BAD_ARGUMENT)], c.1 = false := by
    simp only [hnocNot]
    simp [hholds, hv2]
  rw [hm]
  exact (State.descriptor_admits hadmit.1 Bool.noConfusion (fun _ => hadmit.2) hchecks).trans
    (State.castVote_driven hwaking hfree)

/-! ## Device states -/

theorem execIdleEntry_idle
    (hrun : s.dead = false ∧ s.devState = V.PWR_DEV_STATUS_state_RUN ∧ s.on F.PWR_IDLE_CFG_enable = true)
    (hidle : s.idleNow none = true ∧ s.recovering = false) :
    execIdleEntry s = .next (s.setDev V.PWR_DEV_STATUS_state_IDLE) :=
  if_neg (by simp [hrun, hidle])

section
variable {d : Desc} {target : Nat} {u : State}
  (hu : u = ((({ s with pwr := { s.pwr with
      request := some { target := target, desc := some d }
      wake := none } }).setDev V.PWR_DEV_STATUS_state_ENTERING).put F.PWR_DEV_STATUS_last_wake
        V.PWR_DEV_STATUS_last_wake_NONE).put F.PWR_DEV_STATUS_woke_after_commit 0)
include hu

/-- The state ENTERING alone makes no emulated request of one that is not. -/
theorem State.emulates_entering (hreal : s.emulates target = false) : u.emulates target = false := by
  have hget (g : Fld) (hg : Reg.PWR_DEV_STATUS.apart g.r = true) : u.get g = s.get g := by
    have h1 : F.PWR_DEV_STATUS_state.r.apart g.r = true := hg
    have h2 : F.PWR_DEV_STATUS_last_wake.r.apart g.r = true := hg
    have h3 : F.PWR_DEV_STATUS_woke_after_commit.r.apart g.r = true := hg
    rw [hu, State.get_put_apart h3, State.get_put_apart h2, State.setDev, State.get_put_apart h1]
    rfl
  rwa [State.emulates, State.on, hget F.DBG_CTRL_sleep_emulate rfl, hget F.DBG_STATUS_session rfl]

theorem State.devAsk_entering (howner : s.admits d = true ∧ s.mgmtUp = true ∧ d.tenant = 0) (htarget : target ≤ 2)
    (hidle : s.devBusy target (some d) = false) (hreal : s.emulates target = false) :
    s.devAsk (.inl d) target =
      u.each (s.lowered target) (fun s p => s.domChange p.1 V.PWR_DOMAIN_STATUS_state_FENCING p.2) := by
  obtain ⟨hadmit, hup, ht⟩ := howner
  have hreal' := State.emulates_entering hu hreal
  rw [hu] at hreal'
  have hchecks : ∀ c ∈ [(decide (2 < target), St.BAD_ARGUMENT)], c.1 = false := by simp [htarget]
  rw [State.devAsk, State.devDescriptor, State.descriptor_admits hadmit (fun _ => ht) (fun _ => hup) hchecks, hu]
  simp -implicitDefEqProofs only [State.devRequest, hidle, Bool.false_eq_true, if_false, hreal', State.when_false]

end

theorem execEntryCommitPoint_commits {phases : BitVec 6} {r : DevRequest} {u : State}
    (hrequest : s.pwr.request = some r ∧ r.committed = false ∧ r.target ≠ 2)
    (hu : u = { s with pwr := { s.pwr with request := some { r with committed := true } } }) :
    execEntryCommitPoint phases s =
      .next ((u.each (upTo 471) (fun s n => if s.dom n = V.PWR_DOMAIN_STATUS_state_FENCING then (s.fenceEnd n).put
        F.PWR_DOMAIN_STATUS_state V.PWR_DOMAIN_STATUS_state_ENTERING n else s)).devResult r.desc St.OK
          V.PWR_DEV_CTRL_result_DONE) := by
  obtain ⟨hr, hopen, htarget⟩ := hrequest
  simp -implicitDefEqProofs only [execEntryCommitPoint, hr, hopen, Bool.false_eq_true, if_false, if_neg htarget, hu]

theorem execExitComplete_runs (hexiting : s.devState = V.PWR_DEV_STATUS_state_EXITING) :
    ∃ t, execExitComplete s = .next t ∧ t.devState = V.PWR_DEV_STATUS_state_RUN ∧ t.pwr.wake = none ∧ t.pwr.deep = false ∧
      t.pwr.gated = [] ∧ (∃ u : State, u = s.domsReturn ∧ (u.pwr.deep = false → u.pwr.stretch = false → t =
        ((({ u with pwr := { u.pwr with
          wake := none
          stretch := false
          deep := false
          gated := [] } }).setDev V.PWR_DEV_STATUS_state_RUN).clr F.DBG_STATUS_emulating).ev F.PWR_EVENTS_woke)) := by
  have hdev (t : State) : ((t.setDev V.PWR_DEV_STATUS_state_RUN).clr F.DBG_STATUS_emulating |>.ev F.PWR_EVENTS_woke).devState =
      V.PWR_DEV_STATUS_state_RUN := by
    have h1 : F.DBG_STATUS_emulating.r.apart F.PWR_DEV_STATUS_state.r = true := rfl
    have h2 : F.PWR_EVENTS_woke.r.apart F.PWR_DEV_STATUS_state.r = true := rfl
    rw [State.devState, State.ev_eq, State.get_put_apart h2, State.clr_eq, State.get_put_apart h1, State.setDev]
    exact State.get_put_fits (by decide) (by decide) (by decide)
  refine ⟨_, if_neg (Decidable.not_not.2 hexiting), hdev _, rfl, rfl, rfl, _, rfl, fun hdeep hstretch => ?_⟩
  simp -implicitDefEqProofs only [hdeep, hstretch, Bool.false_and, Bool.false_eq_true, if_false, State.when_false]

end

/-- Settles O43: each power command takes its effect where its conditions hold. -/
theorem powerCommandsComplete : Obligations.PowerCommandsComplete := by
  unfold Obligations.PowerCommandsComplete
  refine ⟨?_, ?_, ?_, ?_, ?_, ?_, ?_, ?_, ?_, ?_, ?_, ?_, ?_⟩
  · exact fun s n hn hfencing => Gives.eq (execDomainFenceEnd_entering hn hfencing)
  · exact fun s n hn hstate => Gives.eq (execDomainStateReached_settles hn hstate)
  · exact fun s k n hrange hvote => Gives.eq (execVoteWithdrawal_withdrawn hrange hvote)
  · exact fun s n hdeferred hfree => Gives.eq (execDeferredLowering_driven hdeferred hfree)
  · exact fun s n hon => Gives.eq (execClockGate_gated hon)
  · exact fun s hrun hidle => Gives.eq (execIdleEntry_idle hrun hidle)
  · exact fun s hidle => Gives.eq (if_pos hidle)
  · exact fun s d howner ⟨hidle, hreal⟩ => Gives.of_exec
      (congrArg Host.Outcome.next (State.devAsk_entering rfl howner (by decide) hidle hreal)) ⟨_, rfl, rfl⟩
  · exact fun s d howner ⟨hidle, hreal⟩ => Gives.of_exec
      (congrArg Host.Outcome.next (State.devAsk_entering rfl howner (by decide) hidle hreal)) ⟨_, rfl, rfl⟩
  · exact fun s d howner hidle => Gives.eq
      (congrArg Host.Outcome.next (State.devAsk_entering rfl howner (by decide) hidle rfl))
  · exact fun s d kind index v m hadmit hdomain hholds hv hwaking hfree =>
      execPowerVote_driven hadmit hdomain hholds hv hwaking hfree
  · exact fun s phases r u hrequest hu => Gives.eq (execEntryCommitPoint_commits hrequest hu)
  · exact fun s hexiting => execExitComplete_runs hexiting

end Sys2Proof.Machine
end

section
/-! PROOFS. Halting, the sessions of the debugger and their authentication (spec/25). -/
namespace Sys2Proof.Machine

section
variable {s u : State} {v x : Word}

/-! ## Halts -/

theorem execHaltTakesEffect_waiting {index : BitVec 10} {k : Nat}
    (hasked : s.dbg.asked.find? (fun a => a.1 == 0 && a.2.1 == index.toNat) = some (0, index.toNat, k))
    (hwaiting : s.haltable 0 index.toNat = true ∧ s.coreState index.toNat = Core.WAITING) :
    execHaltTakesEffect 0 index s = .next (s.haltCore index.toNat k) := by
  have hzero : (0 : BitVec 2).toNat = 0 := rfl
  obtain ⟨hhaltable, hstate⟩ := hwaiting
  simp -implicitDefEqProofs only [execHaltTakesEffect, hzero, hasked, hhaltable, Bool.not_true, Bool.false_eq_true,
    if_false, hstate, true_or, if_true]

theorem execHaltTakesEffect_section {index : BitVec 10} {k : Nat}
    (hasked : s.dbg.asked.find? (fun a => a.1 == 1 && a.2.1 == index.toNat) = some (1, index.toNat, k))
    (hhaltable : s.haltable 1 index.toNat = true) :
    execHaltTakesEffect 1 index s = .next (s.markHalt 1 index.toNat k) := by
  have hone : (1 : BitVec 2).toNat = 1 := rfl
  simp -implicitDefEqProofs only [execHaltTakesEffect, hone, hasked, hhaltable, Bool.not_true, Bool.false_eq_true,
    if_false]

theorem execHaltEvent_asks {group : BitVec 3} {e : Nat}
    (hfirst : ((s.dbg.halts.filter (fun h => h.1 == group.toNat)).map (fun h => h.2)).min? = some e)
    (hu : u = ({ s with dbg := { s.dbg with
      halts := s.dbg.halts.filter (fun h => !(h.1 == group.toNat && h.2 / 32 == e / 32)) } }).advanceTo e)
    (hsession : u.session ≠ 0) :
    ∃ t, execHaltEvent group s = .next t ∧
      ∃ x, x = (u.ev F.DBG_EVENTS_halt_event).each (u.dbg.groups.filter (fun m => m.2.2 == group.toNat &&
        (u.ev F.DBG_EVENTS_halt_event).inScope m.1 m.2.1)) (fun s m => s.askHalt m.1 m.2.1 group.toNat) ∧
        t = if x.on F.DBG_GROUP_CFG_out_en group.toNat then
          x.lineDrive (x.get F.DBG_GROUP_CFG_out_line group.toNat) (e + triggerLatency) else x := by
  refine ⟨_, ?_, _, rfl, rfl⟩
  simp -implicitDefEqProofs only [execHaltEvent, hfirst, ← hu, if_neg hsession, State.when]
  rfl

theorem execDbgBrk_raised {n : BitVec 8} {k : Nat} (hgroup : s.groupOf 1 n.toNat = some k)
    (hrun : s.sect n.toNat = Sec.RUNNING) :
    execDbgBrk n s = .next (s.raiseHalt k s.now) := by
  simp only [execDbgBrk, hgroup, hrun, if_true]

/-! ## The halt commands -/

/-- A command for one unit: bit 31 set, bit 28 clear, the action between them. -/
theorem bits_haltCommand {y action : Nat} (h : bits y 31 28 = 8 + 2 * action) :
    bit y 31 = true ∧ bit y 28 = false ∧ bits y 30 29 = action := by
  rw [bits, Nat.shiftRight_eq_div_pow] at h
  simp only [bit, bits, Nat.testBit_eq_decide_div_mod_eq, Nat.shiftRight_eq_div_pow, decide_eq_true_eq,
    decide_eq_false_iff_not]
  omega

theorem State.writeHaltCmd_unit {action : Nat} (h : bits x.toNat 31 28 = 8 + 2 * action)
    (hdebugger : s.session ≠ 0 ∧ s.writable .debugger Reg.DBG_HALT_CMD 0 0 0 x = true)
    (hu : u = (s.applyWrite .debugger Reg.DBG_HALT_CMD 0 0 0 x).put F.DBG_HALT_CMD_go 0) :
    (s.writeHaltCmd x).1 = u.haltUnit action (bits x.toNat 27 26) (bits x.toNat 9 0) (bits x.toNat 25 23) := by
  obtain ⟨hsession, hwritable⟩ := hdebugger
  obtain ⟨hgo, hgroup, hact⟩ := bits_haltCommand h
  simp -implicitDefEqProofs only [State.writeHaltCmd, if_neg hsession, State.guardWrite_writable hwritable rfl, hgo,
    hgroup, hact, ← hu, Bool.not_true, Bool.false_eq_true, if_false]

section
variable {kind ix join : Nat} (hscope : u.inScope kind ix = true)
include hscope

theorem State.haltUnit_stop (hhaltable : u.haltable kind ix = true) :
    u.haltUnit 0 kind ix join = (u.askHalt kind ix 8).haltResult V.DBG_HALT_CMD_result_DONE := by
  simp only [State.haltUnit, hscope, hhaltable, Bool.not_true, Bool.false_eq_true, if_false]

theorem State.haltUnit_resume :
    u.haltUnit 1 kind ix join = (u.releaseUnit kind ix).haltResult V.DBG_HALT_CMD_result_DONE := by
  simp only [State.haltUnit, hscope, Bool.not_true, Bool.false_eq_true, if_false]

theorem State.haltUnit_join (hfree : u.groupOf kind ix = none) (hix : ix < 256) :
    u.haltUnit 2 kind ix join =
      ({ u with dbg := { u.dbg with groups := u.dbg.groups ++ [(kind, ix, join)] } } : State).haltResult
        V.DBG_HALT_CMD_result_DONE := by
  have hroom : ¬ (if kind = 2 then 512 else 256) ≤ ix := by split <;> omega
  simp only [State.haltUnit, hscope, hfree, if_neg hroom, Option.isSome_none, Bool.not_true, Bool.false_eq_true,
    if_false]

theorem State.haltUnit_leave :
    u.haltUnit 3 kind ix join =
      ({ u with dbg := { u.dbg with groups := u.dbg.groups.filter (fun m => !(m.1 == kind && m.2.1 == ix)) } } :
        State).haltResult V.DBG_HALT_CMD_result_DONE := by
  simp only [State.haltUnit, hscope, Bool.not_true, Bool.false_eq_true, if_false]

end

theorem execPowerHoldWrite_held {n : BitVec 4}
    (hdebugger : s.session ≠ 0 ∧ s.writable .debugger Reg.DBG_POWER_HOLD n.toNat 0 0 v = true)
    (hv : bits v.toNat 8 0 ≤ 470 ∧ bit v.toNat 31 = true ∧ s.scopeAll = true) :
    ∃ t, execPowerHoldWrite n v s = .next t ∧ ∃ u : State,
      u = (s.applyWrite .debugger Reg.DBG_POWER_HOLD n.toNat 0 0 v).testEnds (s.get F.DBG_POWER_HOLD_domain n.toNat) ∧
      t = ((u.ev F.PWR_DOMAIN_STATUS_test_vote (bits v.toNat 8 0)).resolve (bits v.toNat 8 0)).drive (bits v.toNat 8 0) := by
  obtain ⟨hsession, hwritable⟩ := hdebugger
  obtain ⟨hdomain, hon, hscope⟩ := hv
  refine ⟨_, ?_, _, rfl, rfl⟩
  have hlast : ¬ 470 < bits v.toNat 8 0 := Nat.not_lt.2 hdomain
  simp -implicitDefEqProofs only [execPowerHoldWrite, State.writePowerHold, if_neg hsession,
    State.guardWrite_writable hwritable (decide_eq_false hlast), hscope, hon, Bool.not_true, Bool.false_and,
    Bool.false_eq_true, if_false, State.when_true]

/-! ## Authentication -/

section
variable {op path : Nat} (hop : bits x.toNat 31 29 = op) (hscope : bits x.toNat 27 26 < 3)
  (hw : s.writable .debugger Reg.DBG_AUTH_CMD 0 0 0 x = true) (hu : u = s.applyWrite .debugger Reg.DBG_AUTH_CMD 0 0 0 x)
include hop hscope hw hu

theorem State.writeAuthCmd_open (h1 : op = 1) :
    (s.writeAuthCmd path x).1 = u.authOpen path (bits x.toNat 28 28) (bits x.toNat 27 26) (bits x.toNat 25 18) := by
  have hkind : (bits x.toNat 27 26 == 3) = false := beq_eq_false_iff_ne.2 (Nat.ne_of_lt hscope)
  simp only [State.writeAuthCmd, State.guardWrite_writable hw hkind, hop, h1, hu]

theorem State.writeAuthCmd_respond (h2 : op = 2) : (s.writeAuthCmd path x).1 = u.authRespond path := by
  have hkind : (bits x.toNat 27 26 == 3) = false := beq_eq_false_iff_ne.2 (Nat.ne_of_lt hscope)
  simp only [State.writeAuthCmd, State.guardWrite_writable hw hkind, hop, h2, hu]

theorem State.writeAuthCmd_close (h3 : op = 3) (hsession : u.session = path) :
    (s.writeAuthCmd path x).1 = u.endSession.authResult V.DBG_AUTH_CMD_result_CLOSED := by
  have hkind : (bits x.toNat 27 26 == 3) = false := beq_eq_false_iff_ne.2 (Nat.ne_of_lt hscope)
  simp only [State.writeAuthCmd, State.guardWrite_writable hw hkind, hop, h3, ← hu, hsession, if_true]

end

theorem State.authOpen_challenge {path method scope k : Nat}
    (hclosed : u.on F.DBG_CTRL_debug_disable = false ∧ u.session = 0) (hopen : Tbl.get 0 u.dbg.lock path ≤ u.now) :
    ∃ y, y = u.each (upTo 8) (fun s n => s.fresh.2.setWord Reg.DBG_AUTH_DATA (BitVec.ofNat 32 s.fresh.1) n) ∧
      u.authOpen path method scope k =
        ({ y with dbg := { y.dbg with nonce := some (path, method, scope, if scope = 2 then k else 0) } }).authResult
          V.DBG_AUTH_CMD_result_CHALLENGE := by
  obtain ⟨henabled, hsession⟩ := hclosed
  refine ⟨_, rfl, ?_⟩
  simp -implicitDefEqProofs only [State.authOpen, henabled, hsession, Bool.false_eq_true, if_false, ne_eq,
    not_true_eq_false, if_neg (Nat.not_lt.2 hopen)]

theorem State.authRespond_checked {path method scope k : Nat} (hnonce : u.dbg.nonce = some (path, method, scope, k)) :
    ∃ y, y = { u with dbg := { u.dbg with nonce := none } } ∧
      u.authRespond path = if y.authGood method scope k then
        (((({ y with dbg := { y.dbg with
          fails := Tbl.set 0 path 0 y.dbg.fails
          lockLen := Tbl.set 0 path 0 y.dbg.lockLen
          lastPort := y.now } }).put F.DBG_STATUS_session path).put F.DBG_STATUS_scope scope).put
          F.DBG_STATUS_tenant k).authResult V.DBG_AUTH_CMD_result_OPEN else y.authFailed path := by
  refine ⟨_, rfl, ?_⟩
  simp -implicitDefEqProofs only [State.authRespond, hnonce, ne_eq, not_true_eq_false, if_false]
  simp -implicitDefEqProofs only [Bool.not_eq_true', ← Bool.not_eq_true, ite_not]

end

/-- Settles O44: each debug command takes its effect where its conditions hold. -/
theorem debugCommandsComplete : Obligations.DebugCommandsComplete := by
  unfold Obligations.DebugCommandsComplete
  refine ⟨?_, ?_, ?_, ?_, ?_, ?_, ?_, ?_, ?_, ?_, ?_, ?_, ?_, ?_⟩
  · exact fun s index k hasked hwaiting => Gives.eq (execHaltTakesEffect_waiting hasked hwaiting)
  · exact fun s index k hasked hhaltable => Gives.eq (execHaltTakesEffect_section hasked hhaltable)
  · exact fun s group e u hfirst hu hsession => execHaltEvent_asks hfirst hu hsession
  · exact fun s n k hgroup hrun => Gives.eq (execDbgBrk_raised hgroup hrun)
  · rintro s v x u ⟨rfl, hcommand⟩ hdebugger hu ⟨hscope, hhaltable⟩
    exact Gives.eq (congrArg Host.Outcome.next ((State.writeHaltCmd_unit hcommand hdebugger hu).trans
      (State.haltUnit_stop hscope hhaltable)))
  · rintro s v x u ⟨rfl, hcommand⟩ hdebugger hu hscope
    exact Gives.eq (congrArg Host.Outcome.next ((State.writeHaltCmd_unit hcommand hdebugger hu).trans
      (State.haltUnit_resume hscope)))
  · rintro s v x u ⟨rfl, hcommand⟩ hdebugger hu ⟨hscope, hfree⟩ hix
    exact Gives.eq (congrArg Host.Outcome.next ((State.writeHaltCmd_unit hcommand hdebugger hu).trans
      (State.haltUnit_join hscope hfree hix)))
  · rintro s v x u ⟨rfl, hcommand⟩ hdebugger hu hscope
    exact Gives.eq (congrArg Host.Outcome.next ((State.writeHaltCmd_unit hcommand hdebugger hu).trans
      (State.haltUnit_leave hscope)))
  · exact fun s n v hdebugger hv => execPowerHoldWrite_held hdebugger hv
  · exact fun s hsession => Gives.eq (if_neg hsession)
  · rintro s monitor v x u ⟨rfl, hop, hkind⟩ hw hu hclosed hopen
    exact Gives.of_exec (congrArg Host.Outcome.next (State.writeAuthCmd_open hop hkind hw hu rfl))
      (State.authOpen_challenge hclosed hopen)
  · rintro s monitor v x method scope k u ⟨rfl, hop, hkind⟩ hw hu hnonce
    exact Gives.of_exec (congrArg Host.Outcome.next (State.writeAuthCmd_respond hop hkind hw hu rfl))
      (State.authRespond_checked hnonce)
  · rintro s monitor v x u ⟨rfl, hop, hkind⟩ hw hu hsession
    exact Gives.eq (congrArg Host.Outcome.next (State.writeAuthCmd_close hop hkind hw hu rfl hsession))
  · exact fun s monitor u hu => Gives.eq (hu ▸ rfl)

end Sys2Proof.Machine
end

section
/-! PROOFS. The debug port and the management processor's requests (spec/25). -/
namespace Sys2Proof.Machine

section
variable {s u y : State} {c : PortCmd} {n : Nat}

/-! ## One command -/

/-- A first access to a port register answers the result that it records. -/
theorem State.portCommand_first {path a : Nat} {write tag pending : Bool} {v : Word} {r : Nat × Nat}
    (hsession : s.session ≠ path) (hfirst : s.dbg.port.last = none) (ha : a < 6)
    (hnew : s.newAccess path a write tag pending v = y) (hres : y.dbg.port.res = some r) :
    s.portCommand path a write tag pending v = (y, r) := by
  have hother : (s.session == path) = false := beq_eq_false_iff_ne.2 hsession
  simp -implicitDefEqProofs only [State.portCommand, hother, State.when_false, if_neg (Nat.not_le.2 ha), hfirst,
    hnew, hres]

theorem State.portWire_first {a : Nat} {r : Nat × Nat} (hopen : s.dead = false ∧ s.session ≠ 1 ∧ s.dbg.port.last = none)
    (hcrc : c.crc.toNat = crc4 (1 + b2n (!c.write) * 4 + a * 8 + b2n c.tag * 128))
    (hdata : c.write = true → c.dataCrc.toNat = crc8 c.data.toNat) (ha : a < 6)
    (hnew : s.newAccess 1 a c.write c.tag c.pending c.data = y) (hres : y.dbg.port.res = some r) :
    s.portWire a c = y.portReply c.write r := by
  obtain ⟨hdead, hsession, hfirst⟩ := hopen
  have hgood : ¬ (c.write = true ∧ c.dataCrc.toNat ≠ crc8 c.data.toNat) := fun h => h.2 (hdata h.1)
  simp -implicitDefEqProofs only [State.portWire, hdead, hcrc, ne_eq, not_true_eq_false, Bool.false_eq_true,
    if_false, if_neg hgood, State.portCommand_first hsession hfirst ha hnew hres]

theorem State.runAccess_ok {path : Nat} {write inc : Bool} {v : Word}
    (hrun : (s.dbgAccess path write v).1 = y ∧ (s.dbgAccess path write v).2.toOption = some n) :
    s.runAccess path write inc v =
      y.setPort0 { y.dbg.port with
        addr := if inc then (y.dbg.port.addr + 4) % 2 ^ 32 else y.dbg.port.addr
        res := some (Dp.DONE, n) } := by
  obtain ⟨hy, hn⟩ := hrun
  rw [State.runAccess]
  generalize s.dbgAccess path write v = out at hy hn ⊢
  obtain ⟨t, result⟩ := out
  cases result with
  | error e => exact absurd hn nofun
  | ok w =>
    obtain rfl : w = n := Option.some.inj hn
    subst hy
    cases inc <;> rfl

/-! ## Accesses at ADDR -/

/-- A write of STAT with bit 31 clears the error seen. -/
theorem State.newAccess_clear {path : Nat} {tag pending : Bool} {v : Word} (hv : bit v.toNat 31 = true) :
    s.newAccess path 1 true tag pending v =
      s.setPort0 { s.dbg.port with
        last := some (1, true, tag, v.toNat)
        errSeen := false
        cause := 0
        res := some (Dp.DONE, 0) } := by
  simp -implicitDefEqProofs only [State.newAccess, hv, if_true]
  rfl

/-- A read at ADDR that has its result within the command. -/
theorem State.newAccess_read {a : Nat} {tag : Bool} {v : Word} (ha : a = 4 ∨ a = 5)
    (hu : u = s.setPort0 { s.dbg.port with
      last := some (a, false, tag, 0)
      res := none }) :
    s.newAccess 1 a false tag false v = u.runAccess 1 false (a == 5) v := by
  subst hu
  rcases ha with rfl | rfl <;> rfl

theorem execDbgAccessDone_ok {monitor tag w : Bool} {d : Nat}
    (hwaits : s.dead = false ∧ s.dbg.port.last = some (4, w, tag, d) ∧ s.dbg.port.res = none)
    (hrun : (s.dbgAccess (dbgPath monitor) w (BitVec.ofNat 32 d)).1 = y ∧
      (s.dbgAccess (dbgPath monitor) w (BitVec.ofNat 32 d)).2.toOption = some n) :
    execDbgAccessDone monitor s = .next (y.setPort0 { y.dbg.port with res := some (Dp.DONE, n) }) := by
  obtain ⟨hdead, hlast, hres⟩ := hwaits
  simp -implicitDefEqProofs only [execDbgAccessDone, hlast, hres, hdead, Bool.false_eq_true, if_false,
    State.runAccess_ok hrun]
  rfl

theorem execMonitorRequest_addr {tag : Bool} {data : Word}
    (hopen : s.dead = false ∧ s.session ≠ 2 ∧ s.dbg.port.last = none)
    (hpaired : s.get F.RAS_STATUS_mgmt_state = V.RAS_STATUS_mgmt_state_PAIRED) :
    execMonitorRequest 3 true tag false data s =
      .next ((s.setPort0 { s.dbg.port with
        last := some (3, true, tag, data.toNat)
        addr := data.toNat / 4 * 4
        res := some (Dp.DONE, 0) }).send (.monitor [Dp.DONE, 0])) := by
  obtain ⟨hdead, hsession, hfirst⟩ := hopen
  have hcommand : s.portCommand 2 (3 : BitVec 4).toNat true tag false data =
      (s.setPort0 { s.dbg.port with
        last := some (3, true, tag, data.toNat)
        addr := data.toNat / 4 * 4
        res := some (Dp.DONE, 0) }, (Dp.DONE, 0)) := State.portCommand_first hsession hfirst (by decide) rfl rfl
  simp -implicitDefEqProofs only [execMonitorRequest, hdead, hpaired, beq_self_eq_true, Bool.true_or, Bool.not_true,
    Bool.or_self, Bool.false_eq_true, if_false, hcommand, and_false]

end

/-- Settles O45: each debug port command takes its effect where its conditions hold. -/
theorem debugPortCommandsComplete : Obligations.DebugPortCommandsComplete := by
  unfold Obligations.DebugPortCommandsComplete
  refine ⟨?_, ?_, ?_, ?_, ?_, ?_, ?_, ?_, ?_⟩
  · rintro s ⟨_, tag, data, crc, dataCrc, pending⟩ hopen ⟨rfl, hcrc⟩
    exact Gives.eq (congrArg Host.Outcome.next (State.portWire_first hopen hcrc nofun (by decide) rfl rfl))
  · rintro s ⟨_, tag, data, crc, dataCrc, pending⟩ hopen ⟨rfl, hcrc, hdata, hclear⟩
    exact Gives.eq (congrArg Host.Outcome.next
      (State.portWire_first hopen hcrc (fun _ => hdata) (by decide) (State.newAccess_clear hclear) rfl))
  · rintro s ⟨_, tag, data, crc, dataCrc, pending⟩ hopen ⟨rfl, hcrc, hdata⟩
    exact Gives.eq (congrArg Host.Outcome.next (State.portWire_first hopen hcrc (fun _ => hdata) (by decide) rfl rfl))
  · rintro s ⟨_, tag, data, crc, dataCrc, pending⟩ hopen ⟨rfl, hcrc, hdata⟩
    exact Gives.eq (congrArg Host.Outcome.next (State.portWire_first hopen hcrc (fun _ => hdata) (by decide) rfl rfl))
  · rintro s ⟨_, tag, data, crc, dataCrc, _⟩ u y n hopen ⟨rfl, hcrc, rfl⟩ hu hrun
    exact Gives.eq (congrArg Host.Outcome.next (State.portWire_first hopen hcrc nofun (by decide)
      ((State.newAccess_read (by decide) hu).trans (State.runAccess_ok hrun)) rfl))
  · rintro s ⟨_, tag, data, crc, dataCrc, _⟩ u y n hopen ⟨rfl, hcrc, rfl⟩ hu hrun
    exact Gives.eq (congrArg Host.Outcome.next (State.portWire_first hopen hcrc nofun (by decide)
      ((State.newAccess_read (by decide) hu).trans (State.runAccess_ok hrun)) rfl))
  · exact fun s monitor tag w d n y hwaits hrun => Gives.eq (execDbgAccessDone_ok hwaits hrun)
  · exact fun s => Gives.eq rfl
  · exact fun s tag data hopen hpaired => Gives.eq (execMonitorRequest_addr hopen hpaired)

end Sys2Proof.Machine
end

section
/-! PROOFS. Foliations and their shadows (spec/26). -/
namespace Sys2Proof.Machine

section
variable {s u : State} {p : Path} {v : Word}

/-! ## The foliation command -/

theorem State.obs_writeFol (s : State) (p : Path) (v : Word) : (s.applyWrite p Reg.OBS_FOL_CMD 0 0 0 v).obs = s.obs := by
  rw [State.applyWrite_eq_setWord (r := Reg.OBS_FOL_CMD) rfl, State.setWord_obs]

theorem State.writeFolCmd_taken (hw : s.writable p Reg.OBS_FOL_CMD 0 0 0 v = true) (hgo : bit v.toNat 31 = true)
    (hu : u = (s.applyWrite p Reg.OBS_FOL_CMD 0 0 0 v).put F.OBS_FOL_CMD_go 0) :
    (s.writeFolCmd p v).1 = if bits v.toNat 30 30 = V.OBS_FOL_CMD_op_CANCEL then u.folCancel else u.folSchedule := by
  have hset : (s.applyWrite p Reg.OBS_FOL_CMD 0 0 0 v).on F.OBS_FOL_CMD_go = true :=
    beq_iff_eq.2 (State.get_applyWrite_setByOne (f := F.OBS_FOL_CMD_go) rfl hgo s p 0 0 0)
  have hop : u.get F.OBS_FOL_CMD_op = bits v.toNat 30 30 := by
    rw [hu, State.get_put_disjoint (f := F.OBS_FOL_CMD_go) (g := F.OBS_FOL_CMD_op) rfl (by decide) (by decide) (by decide)]
    exact State.get_applyWrite_stored (f := F.OBS_FOL_CMD_op) rfl s p 0 0 0 v
  rw [State.writeFolCmd, State.guardWrite_writable hw rfl]
  simp -implicitDefEqProofs only [hset, ← hu, hop, Bool.not_true, Bool.false_eq_true, if_false]

/-- A schedule for this device alone, early enough, with no foliation under way. -/
theorem State.folSchedule_alone (hring : u.on F.OBS_FOL_CMD_ring = false)
    (hidle : u.obs.fol = none ∧ u.obs.writing = none)
    (hlater : u.now + 128000 ≤ u.pair Reg.OBS_FOL_AT_LO Reg.OBS_FOL_AT_HI / 8 * 8) :
    u.folSchedule = (({ u with obs := { u.obs with
      fol := some
        { t := u.pair Reg.OBS_FOL_AT_LO Reg.OBS_FOL_AT_HI / 8 * 8
          ring := false
          number := 0xFFFFFFFF } } }).put F.OBS_STATUS_pending 1).folResult V.OBS_FOL_CMD_result_NONE := by
  simp -implicitDefEqProofs only [State.folSchedule, hring, hidle.1, hidle.2, Option.isSome_none,
    Bool.false_eq_true, or_self, if_false, if_neg (Nat.not_lt.2 hlater), false_and]

theorem execFoliationSchedule_pending {ft : Nat} (hw : s.writable p Reg.OBS_FOL_CMD 0 0 0 0x80000000#32 = true)
    (hft : ft = s.pair Reg.OBS_FOL_AT_LO Reg.OBS_FOL_AT_HI / 8 * 8) (hlater : s.now + 128000 ≤ ft)
    (hidle : s.obs.fol = none ∧ s.obs.writing = none) :
    ∃ t, execFoliationSchedule p false s = .next t ∧
      t.obs = { s.obs with
        fol := some
          { t := ft
            ring := false
            number := 0xFFFFFFFF } } ∧
      t.get F.OBS_STATUS_pending = 1 := by
  obtain ⟨u, hu⟩ : ∃ u, u = (s.applyWrite p Reg.OBS_FOL_CMD 0 0 0 0x80000000#32).put F.OBS_FOL_CMD_go 0 := ⟨_, rfl⟩
  have hobs : u.obs = s.obs := by rw [hu, State.put_obs, State.obs_writeFol]
  have hclk : u.now = s.now := by
    rw [State.now, State.now, hu, State.put_clk, State.applyWrite_clk (r := Reg.OBS_FOL_CMD) rfl]
  have hpair : u.pair Reg.OBS_FOL_AT_LO Reg.OBS_FOL_AT_HI = s.pair Reg.OBS_FOL_AT_LO Reg.OBS_FOL_AT_HI := by
    have hlo : Reg.OBS_FOL_CMD.apart Reg.OBS_FOL_AT_LO = true := rfl
    have hhi : Reg.OBS_FOL_CMD.apart Reg.OBS_FOL_AT_HI = true := rfl
    have hgo : F.OBS_FOL_CMD_go.r = Reg.OBS_FOL_CMD := rfl
    rw [State.pair, State.pair, hu, State.put, hgo, State.word_setWord_apart hlo, State.word_setWord_apart hhi,
      State.word_applyWrite_apart (r := Reg.OBS_FOL_CMD) rfl _ _ _ _ _ _ hlo,
      State.word_applyWrite_apart (r := Reg.OBS_FOL_CMD) rfl _ _ _ _ _ _ hhi]
  have hring : u.on F.OBS_FOL_CMD_ring = false := by
    have h0 : u.get F.OBS_FOL_CMD_ring = bits (0x80000000#32).toNat 29 29 := by
      rw [hu, State.get_put_disjoint (f := F.OBS_FOL_CMD_go) (g := F.OBS_FOL_CMD_ring) rfl (by decide) (by decide) (by decide)]
      exact State.get_applyWrite_stored (f := F.OBS_FOL_CMD_ring) rfl s p 0 0 0 _
    rw [State.on, h0]
    rfl
  have hword : BitVec.ofNat 32 (2 ^ 31 + b2n false * 2 ^ 29) = 0x80000000#32 := by decide
  have htaken : execFoliationSchedule p false s = .next u.folSchedule := by
    rw [execFoliationSchedule, hword, State.writeFolCmd_taken hw (by decide) hu, if_neg (by decide)]
  have hschedule := State.folSchedule_alone hring (hobs ▸ hidle) (by rw [hpair, ← hft, hclk]; exact hlater)
  refine ⟨_, htaken, ?_, ?_⟩
  · rw [hschedule, State.folResult, State.put_obs, State.put_obs, hpair, ← hft]
    exact congrArg (fun x : ObsSt => { x with fol := some { t := ft, ring := false, number := 0xFFFFFFFF } }) hobs
  · have hresult : F.OBS_FOL_CMD_result.r.apart F.OBS_STATUS_pending.r = true := rfl
    rw [hschedule, State.folResult, State.get_put_apart hresult]
    exact State.get_put_fits (by decide) (by decide) (by decide)

theorem execFoliationCancel_cancelled (hw : s.writable p Reg.OBS_FOL_CMD 0 0 0 0xC0000000#32 = true)
    (hpending : s.obs.fol.isSome = true) :
    ∃ t, execFoliationCancel p s = .next t ∧ t.obs = { s.obs with fol := none } ∧ t.get F.OBS_STATUS_pending = 0 ∧
      t.get F.OBS_FOL_CMD_result = V.OBS_FOL_CMD_result_CANCELLED := by
  obtain ⟨u, hu⟩ : ∃ u, u = (s.applyWrite p Reg.OBS_FOL_CMD 0 0 0 0xC0000000#32).put F.OBS_FOL_CMD_go 0 := ⟨_, rfl⟩
  have hobs : u.obs = s.obs := by rw [hu, State.put_obs, State.obs_writeFol]
  have hcancel : u.folCancel =
      (({ u with obs := { u.obs with fol := none } }).put F.OBS_STATUS_pending 0).folResult V.OBS_FOL_CMD_result_CANCELLED :=
    if_pos (hobs ▸ hpending)
  have htaken : execFoliationCancel p s = .next u.folCancel := by
    rw [execFoliationCancel, State.writeFolCmd_taken hw (by decide) hu, if_pos (by decide)]
  rw [hcancel] at htaken
  refine ⟨_, htaken, ?_, ?_, ?_⟩
  · rw [State.folResult, State.put_obs, State.put_obs, hobs]
  · have hresult : F.OBS_FOL_CMD_result.r.apart F.OBS_STATUS_pending.r = true := rfl
    rw [State.folResult, State.get_put_apart hresult]
    exact State.get_put_fits (by decide) (by decide) (by decide)
  · exact State.get_put_fits (by decide) (by decide) (by decide)

/-! ## What the streams leave of the foliations -/

theorem State.obs_deviceRibbon (s : State) (n : Nat) (it : Item) : (s.deviceRibbon n it).obs = s.obs :=
  (State.deviceRibbon_kept s n it Kept.of_keeps Kept.of_allows).obs rfl

theorem State.obs_ribbonStream (s : State) (it : Item) : (s.ribbonStream it).obs = s.obs :=
  (State.ribbonStream_kept s it Kept.of_keeps Kept.of_allows).obs rfl

theorem State.obs_closeLeaf (s : State) (n : Nat) (closing last : Bool) : (s.closeLeaf n closing last).obs = s.obs :=
  (State.closeLeaf_kept s n closing last Kept.of_keeps Kept.of_allows).obs rfl

theorem State.obs_countersStream (s : State) (n : Nat) : (s.countersStream n).obs = s.obs :=
  (State.countersStream_kept s n Kept.of_keeps Kept.of_allows).obs rfl

theorem State.obs_deviceWrite (s : State) (n writer : Nat) (it : Item) : (s.deviceWrite n writer it).1.obs = s.obs :=
  (State.deviceWrite_kept s n writer it Kept.of_keeps Kept.of_allows).fst.obs rfl

theorem State.obs_each {α : Type} (s : State) (l : List α) (f : State → α → State) (h : ∀ t x, (f t x).obs = t.obs) :
    (s.each l f).obs = s.obs :=
  State.each_mem_preserves (fun t => t.obs = s.obs) (fun t x _ ht => (h t x).trans ht) rfl

theorem State.folTake_shadow (s : State) (f : Foliation) : (s.folTake f).obs.shadow = s.regs := by
  unfold State.folTake
  extract_lets now g x0 s1 s2 s3 s4 s5 n it s6 s7 m x
  have h7 : s7.obs.shadow = s.regs := by
    have h67 : s7.obs = s6.obs := State.obs_each _ _ _ fun t k => State.obs_deviceRibbon t k it
    have h56 : s6.obs = s5.obs := State.obs_ribbonStream s5 it
    have h15 : s5.obs = s1.obs := by
      simp -implicitDefEqProofs only [s5, s4, s3, s2, State.ev_eq, State.setPair, State.setWord_obs,
        State.cntWrap_eq, State.put_obs]
    rw [h67, h56, h15]
  split
  · rw [State.put_obs]
    exact h7
  · rw [State.ev_eq, State.put_obs, State.folResult, State.put_obs]
    exact h7

theorem execFoliationCopy_taken {f : Foliation} (hfol : s.obs.fol = some f) (hlater : s.now ≤ f.t) :
    ∃ t, execFoliationCopy s = .next t ∧ t = (s.advanceTo f.t).folTake { f with stepped := false } ∧ t.obs.shadow = s.regs := by
  have hregs : (s.advanceTo f.t).regs = s.regs := by
    rw [State.advanceTo]
    split <;> rfl
  refine ⟨_, ?_, rfl, (State.folTake_shadow ..).trans hregs⟩
  simp -implicitDefEqProofs only [execFoliationCopy, hfol, decide_eq_false (Nat.not_lt.2 hlater)]

theorem State.obs_closeIf (s : State) (n : Nat) (b : Bool) :
    (if b = true then s.closeLeaf n false false else s).obs = s.obs := by
  split
  · exact State.obs_closeLeaf ..
  · rfl

/-- What is written of a foliation leaves no foliation to write. -/
theorem execFoliationWritten_strips {f : Foliation} (hwriting : s.obs.writing = some f)
    (hactive : s.strmState (s.get F.OBS_FOL_CFG_stream) = Strm.ACTIVE) :
    ∃ y : State, execFoliationWritten s = .next ((y.folResult V.OBS_FOL_CMD_result_DONE).ev F.OBS_EVENTS_written) ∧
      y.obs.writing = none := by
  have hstatus : F.OBS_STATUS_writing.r.apart F.CAP_STREAM_STATUS_state.r = true := rfl
  have hactive' : ¬ ((({ s with obs := { s.obs with writing := none } } : State).put F.OBS_STATUS_writing 0).strmState
      (s.get F.OBS_FOL_CFG_stream) ≠ Strm.ACTIVE) := by
    rw [State.strmState, State.get_put_apart hstatus, Decidable.not_not]
    exact hactive
  simp -implicitDefEqProofs only [execFoliationWritten, hwriting, if_neg hactive']
  refine ⟨_, rfl, ?_⟩
  rw [State.obs_closeIf, State.obs_each _ _ _ (fun t p => State.obs_deviceWrite ..), State.obs_deviceWrite,
    State.obs_closeIf, State.obs_countersStream, State.put_obs]

theorem execFoliationWritten_done {f : Foliation} (hwriting : s.obs.writing = some f)
    (hactive : s.strmState (s.get F.OBS_FOL_CFG_stream) = Strm.ACTIVE) :
    ∃ t, execFoliationWritten s = .next t ∧ t.get F.OBS_FOL_CMD_result = V.OBS_FOL_CMD_result_DONE ∧
      t.get F.OBS_EVENTS_written = 1 ∧ t.obs.writing = none := by
  obtain ⟨y, hexec, hnone⟩ := execFoliationWritten_strips hwriting hactive
  have hevents : F.OBS_EVENTS_written.r.apart F.OBS_FOL_CMD_result.r = true := rfl
  refine ⟨_, hexec, ?_, ?_, ?_⟩
  · rw [State.ev_eq, State.get_put_apart hevents, State.folResult]
    exact State.get_put_fits (by decide) (by decide) (by decide)
  · rw [State.ev_eq]
    exact State.get_put_fits (by decide) (by decide) (by decide)
  · rw [State.ev_eq, State.put_obs, State.folResult, State.put_obs, hnone]

end

/-- Settles O46: each foliation command takes its effect where its conditions hold. -/
theorem observabilityCommandsComplete : Obligations.ObservabilityCommandsComplete := by
  unfold Obligations.ObservabilityCommandsComplete
  refine ⟨?_, ?_, ?_, ?_, ?_⟩
  · exact fun s p ft hw hft hlater hidle => execFoliationSchedule_pending hw hft hlater hidle
  · exact fun s p hw hpending => execFoliationCancel_cancelled hw hpending
  · exact fun s f hfol hlater => execFoliationCopy_taken hfol hlater
  · exact fun s f hwriting hactive => execFoliationWritten_done hwriting hactive
  · intro s u p v hread
    refine Gives.eq ?_
    show execShadowRead p s = _
    rw [execShadowRead, hread]

end Sys2Proof.Machine
end

section
/-! PROOFS. Pins and banks, the load test, the converter, the temperature sensors and the SMBus (spec/27). -/
namespace Sys2Proof.Machine

section
variable {s u : State} {p : Path} {v : Word}

/-! ## Banks and pins -/

theorem execBankCfgWrite_changes {bank : BitVec 3} (hbank : bank.toNat < 6)
    (hw : s.writable p Reg.GIO_BANK_CFG bank.toNat 0 0 v = true)
    (hnew : bits v.toNat 2 0 ≠ s.get F.GIO_BANK_CFG_voltage bank.toNat ∧ s.bankIdle bank.toNat = true) :
    ∃ t, execBankCfgWrite p bank v s = .next t ∧ ∃ u : State, u = s.applyWrite p Reg.GIO_BANK_CFG bank.toNat 0 0 v ∧ t =
      { u with
        colo := { u.colo with bankCfg := Tbl.set 0 bank.toNat (bits v.toNat 2 0 + 1) u.colo.bankCfg }
        gio := { u.gio with changing := u.gio.changing ++ [bank.toNat] } } := by
  obtain ⟨hvoltage, hidle⟩ := hnew
  refine ⟨_, (if_neg (Nat.not_le.2 hbank)).trans (congrArg Host.Outcome.next ?_), _, rfl, rfl⟩
  simp -implicitDefEqProofs only [State.writeBankCfg, State.guardWrite_writable hw rfl, if_neg hvoltage, hidle,
    Bool.not_true, Bool.false_eq_true, if_false]

theorem execPinCfgWrite_gpio {pin : BitVec 8} (hpin : pin.toNat < 192)
    (hw : s.writable p Reg.GIO_PIN_CFG pin.toNat 0 0 v = true) (hgpio : bits v.toNat 31 28 = Pin.GPIO ∧ pin.toNat ≠ 32)
    (hfree : Tbl.get 0 s.trigPinHolder pin.toNat = 0 ∧ s.gio.load ≠ some pin.toNat) :
    execPinCfgWrite p pin v s = .next (State.pinShow s (s.applyWrite p Reg.GIO_PIN_CFG pin.toNat 0 0 v) pin.toNat) := by
  obtain ⟨hfunction, href⟩ := hgpio
  obtain ⟨hholder, hload⟩ := hfree
  have hclkout : (Pin.GPIO == Pin.CLKOUT) = false := rfl
  have hpps : (Pin.GPIO == Pin.PPS) = false := rfl
  have hnone : (Tbl.get 0 s.trigPinHolder pin.toNat != 0) = false := by simp [hholder]
  have hidle : (s.gio.load == some pin.toNat) = false := beq_eq_false_iff_ne.2 hload
  have hother : (pin.toNat == 32) = false := beq_eq_false_iff_ne.2 href
  refine (if_neg (Nat.not_le.2 hpin)).trans (congrArg Host.Outcome.next ?_)
  rw [State.writePinCfg, State.guardWrite_writable hw (by rw [hfunction]; rfl)]
  simp -implicitDefEqProofs only [hfunction, hclkout, hpps, hnone, hidle, hother, Bool.false_and, Bool.or_self,
    Bool.false_eq_true, if_false]

theorem execContentionDetect_found {pin : BitVec 8} (hpin : pin.toNat < 192)
    (hdriven : s.pinFn pin.toNat = Pin.GPIO ∧ s.on F.GIO_PIN_CFG_oe pin.toNat = true ∧
      s.on F.GIO_PIN_CFG_open_drain pin.toNat = false) :
    ∃ t, execContentionDetect pin s = .next t ∧ t.get F.GIO_EVENTS_contention = 1 ∧
      t.get F.GIO_STATUS_contention_pin = pin.toNat ∧
      t.gio = { s.gio with contend := pin.toNat :: s.gio.contend.erase pin.toNat } := by
  have hstatus : F.GIO_STATUS_contention_pin.r.apart F.GIO_EVENTS_contention.r = true := rfl
  have hgo : ¬ (s.pinFn pin.toNat ≠ Pin.GPIO ∨ !s.on F.GIO_PIN_CFG_oe pin.toNat ∨ s.on F.GIO_PIN_CFG_open_drain pin.toNat) := by
    simp [hdriven]
  refine ⟨_, (if_neg (Nat.not_le.2 hpin)).trans (if_neg hgo), ?_, ?_, rfl⟩
  · rw [State.get_mk, State.get_put_apart hstatus, State.ev_eq]
    exact State.get_put_fits (by decide) (by decide) (by decide)
  · exact State.get_put_fits (by decide) (by decide) pin.isLt

/-! ## The load test and the converter -/

theorem bits_or_go (v : Word) : bits (v ||| 0x80000000#32).toNat 7 0 = bits v.toNat 7 0 ∧
    bit (v ||| 0x80000000#32).toNat 31 = true := by
  rw [BitVec.toNat_or, bits_or, bit, Nat.testBit_or]
  have hlow : bits (0x80000000#32).toNat 7 0 = 0 := rfl
  have hhigh : (0x80000000#32).toNat.testBit 31 = true := by decide
  rw [hlow, hhigh, Nat.or_zero, Bool.or_true]
  exact ⟨rfl, rfl⟩

theorem execLoadTestStart_runs (hw : s.writable p Reg.GIO_LOAD_CMD 0 0 0 (v ||| 0x80000000#32) = true)
    (hidle : s.gio.load = none ∧ Tbl.get 0 s.trigPinHolder (bits v.toNat 7 0) = 0)
    (hinput : s.pinFn (bits v.toNat 7 0) = Pin.GPIO ∧ s.on F.GIO_PIN_CFG_oe (bits v.toNat 7 0) = false)
    (hu : u = s.applyWrite p Reg.GIO_LOAD_CMD 0 0 0 (v ||| 0x80000000#32)) :
    ∃ t, execLoadTestStart p v s = .next t ∧ t.gio = { u.gio with load := some (bits v.toNat 7 0) } ∧
      t.get F.GIO_LOAD_RESULT_running = 1 ∧ t.get F.GIO_LOAD_RESULT_result = 0 := by
  obtain ⟨hload, hholder⟩ := hidle
  obtain ⟨hgpio, hoe⟩ := hinput
  obtain ⟨hpin, hgo⟩ := bits_or_go v
  obtain ⟨y, hy⟩ : ∃ y, y = (u.put F.GIO_LOAD_RESULT_result 0).put F.GIO_LOAD_RESULT_running 1 := ⟨_, rfl⟩
  have hstart : (s.writeLoadCmd p (v ||| 0x80000000#32)).1 = { y with gio := { y.gio with load := some (bits v.toNat 7 0) } } := by
    rw [State.writeLoadCmd, State.guardWrite_writable hw rfl]
    simp -implicitDefEqProofs only [hload, hpin, hgo, hholder, hgpio, hoe, beq_self_eq_true, Option.isSome_none,
      Bool.not_false, Bool.and_self, Bool.true_or, Bool.not_true, Bool.false_eq_true, if_false, ← hu, ← hy]
  refine ⟨_, congrArg Host.Outcome.next hstart, ?_, ?_, ?_⟩
  · rw [hy, State.put_gio, State.put_gio]
  · rw [State.get_mk, hy]
    exact State.get_put_fits (by decide) (by decide) (by decide)
  · rw [State.get_mk, hy, State.get_put_disjoint (f := F.GIO_LOAD_RESULT_running) (g := F.GIO_LOAD_RESULT_result) rfl
      (by decide) (by decide) (by decide)]
    exact State.get_put_fits (by decide) (by decide) (by decide)

theorem execLoadTestDone_result {src snk : List (BitVec 14)} {n : Nat} (hload : s.gio.load = some n) :
    ∃ t, execLoadTestDone src snk s = .next t ∧
      t.get F.GIO_LOAD_RESULT_v_src = roundHalfEven (src.map BitVec.toNat).sum 4 % 2 ^ 14 ∧
      t.get F.GIO_LOAD_RESULT_v_snk = roundHalfEven (snk.map BitVec.toNat).sum 4 % 2 ^ 14 ∧
      t.get F.GIO_LOAD_RESULT_running = 0 ∧ t.gio = { s.gio with load := none } ∧ t.get F.GIO_EVENTS_load_done = 1 := by
  refine ⟨_, by simp -implicitDefEqProofs only [execLoadTestDone, hload]; rfl, ?_, ?_, ?_, ?_, ?_⟩
  · simp -implicitDefEqProofs (disch := first | exact id rfl | decide) only [State.ev_eq, State.clr_eq, State.get_mk,
      State.get_put_apart, State.get_put_disjoint]
    exact State.get_put_same _ _ _ _ _ _ (by decide) (by decide)
  · simp -implicitDefEqProofs (disch := first | exact id rfl | decide) only [State.ev_eq, State.clr_eq, State.get_mk,
      State.get_put_apart, State.get_put_disjoint]
    exact State.get_put_same _ _ _ _ _ _ (by decide) (by decide)
  · simp -implicitDefEqProofs (disch := first | exact id rfl | decide) only [State.ev_eq, State.clr_eq, State.get_mk,
      State.get_put_apart, State.get_put_disjoint]
    exact State.get_put_fits (by decide) (by decide) (by decide)
  · rw [State.ev_eq, State.put_gio]
    dsimp only
    rw [State.clr_eq, State.put_gio, State.put_gio, State.put_gio, State.put_gio, State.put_gio]
  · rw [State.ev_eq]
    exact State.get_put_fits (by decide) (by decide) (by decide)

theorem execAdcConversion_next {codes : List (BitVec 14)} {k : Nat} {r : List Nat} {avg : Nat}
    (hpass : s.adcPass = some (k :: r, avg) ∧ r ≠ []) (hk : k < 64) :
    ∃ t, execAdcConversion codes s = .next t ∧ t.gio = { s.gio with pass := some (r, avg) } ∧
      t.get F.GIO_ADC_RESULT_code k = roundHalfEven (codes.map BitVec.toNat).sum avg % 2 ^ 14 ∧
      t.get F.GIO_ADC_RESULT_valid k = 1 ∧ t.get F.GIO_STATUS_adc_running = 1 := by
  obtain ⟨hchannels, hr⟩ := hpass
  have hmore : r.isEmpty = false := by rwa [← Bool.not_eq_true, List.isEmpty_iff]
  refine ⟨_, by
    simp -implicitDefEqProofs only [execAdcConversion, hchannels, decide_eq_true hk, Bool.true_or, if_true, hmore,
      Bool.not_false, State.when_false, Bool.false_eq_true, if_false]
    rfl, ?_, ?_, ?_, ?_⟩
  · rw [State.put_gio, State.put_gio, State.put_gio, State.put_gio]
  · simp -implicitDefEqProofs (disch := first | exact id rfl | decide) only [State.get_mk, State.get_put_apart,
      State.get_put_disjoint]
    exact State.get_put_same _ _ _ _ _ _ (by decide) (by decide)
  · simp -implicitDefEqProofs (disch := first | exact id rfl | decide) only [State.get_mk, State.get_put_apart,
      State.get_put_disjoint]
    exact State.get_put_fits (by decide) (by decide) (by decide)
  · exact State.get_put_fits (by decide) (by decide) (by decide)

/-! ## The temperature sensors -/

theorem execSensorElementFailure_both {sensor : BitVec 6} (hone : Tbl.get 0 s.gio.elems sensor.toNat = 1) :
    ∃ t, execSensorElementFailure sensor true s = .next t ∧
      t.gio = { s.gio with elems := Tbl.set 0 sensor.toNat 3 s.gio.elems } ∧
      t.get F.GIO_TEMP_degraded sensor.toNat = 1 ∧ t.get F.GIO_TEMP_valid sensor.toNat = 0 ∧
      t.get F.GIO_EVENTS_sensor_failed = 1 := by
  have hthree : 1 ||| 2 = 3 := rfl
  refine ⟨_, by
    simp -implicitDefEqProofs only [execSensorElementFailure, hone, if_true, hthree]
    rfl, ?_, ?_, ?_, ?_⟩
  · rw [State.ev_eq, State.put_gio, State.put_gio, State.ev_eq, State.put_gio]
  · simp -implicitDefEqProofs (disch := first | exact id rfl | decide) only [State.ev_eq, State.get_put_apart,
      State.get_put_disjoint]
    exact State.get_put_fits (by decide) (by decide) (by decide)
  · simp -implicitDefEqProofs (disch := first | exact id rfl | decide) only [State.ev_eq, State.get_put_apart]
    exact State.get_put_fits (by decide) (by decide) (by decide)
  · rw [State.ev_eq]
    exact State.get_put_fits (by decide) (by decide) (by decide)

theorem map_fst_filterMap_sublist {α β γ : Type} {g : α × β → Option (α × γ)} (hg : ∀ p q, g p = some q → q.1 = p.1)
    (l : List (α × β)) : ((l.filterMap g).map Prod.fst).Sublist (l.map Prod.fst) := by
  induction l with
  | nil => exact .slnil
  | cons p l ih =>
    cases hp : g p with
    | none =>
      rw [List.filterMap_cons_none hp]
      exact ih.cons _
    | some q =>
      rw [List.filterMap_cons_some hp, List.map_cons, List.map_cons, hg p q hp]
      exact ih.cons_cons _

theorem map_fst_zip_sublist {α β : Type} (xs : List α) (ys : List β) : ((xs.zip ys).map Prod.fst).Sublist xs := by
  induction xs generalizing ys with
  | nil => exact .slnil
  | cons x xs ih =>
    cases ys with
    | nil => exact List.nil_sublist _
    | cons y ys => exact (ih ys).cons_cons x

/-- The sensors with a reading are some of the 64, each with one reading. -/
theorem State.tempReadings_sensors (s : State) (l : List (BitVec 16 × BitVec 16)) :
    ((s.tempReadings l).map Prod.fst).Sublist (upTo 64) := by
  refine (map_fst_filterMap_sublist (fun p q hq => ?_) _).trans (map_fst_zip_sublist (upTo 64) l)
  dsimp only at hq
  split at hq
  · exact absurd hq nofun
  · exact (Option.some.inj hq) ▸ rfl

theorem State.tempReadings_value {l : List (BitVec 16 × BitVec 16)} {k : Nat} {x : Int} (h : (k, x) ∈ s.tempReadings l) :
    sext 16 (wrapInt 16 x) = x := by
  obtain ⟨p, -, hp⟩ := List.mem_filterMap.1 h
  have hsign (b : BitVec 16) : -32768 ≤ sext 16 b.toNat ∧ sext 16 b.toNat ≤ 32767 := by
    have hb := b.isLt
    rw [sext_of_lt hb]
    split <;> omega
  have hx : -32768 ≤ x ∧ x ≤ 32767 := by
    dsimp only at hp
    split at hp
    · exact absurd hp nofun
    · obtain ⟨-, rfl⟩ := Prod.mk.inj (Option.some.inj hp)
      split
      · exact hsign p.2.2
      · split
        · exact hsign p.2.1
        · split
          · exact hsign p.2.2
          · exact hsign p.2.1
  exact sext_wrapInt_of_mem hx.1 hx.2

/-- The state in which the sensors show the readings. -/
def State.showReadings (s : State) (rs : List (Nat × Int)) : State :=
  s.each rs (fun s r => (s.put F.GIO_TEMP_value (wrapInt 16 r.2) r.1).put F.GIO_TEMP_valid 1 r.1)

theorem State.get_showReadings_other {rs : List (Nat × Int)} {f : Fld} (hf : f.r = Reg.GIO_TEMP) {k : Nat}
    (hk : k ∉ rs.map Prod.fst) (hlt : ∀ i ∈ k :: rs.map Prod.fst, i < 64) : (s.showReadings rs).get f k = s.get f k := by
  refine State.each_mem_preserves (fun t => t.get f k = s.get f k) (fun t r hr ht => ?_) rfl
  have hne : r.1 ≠ k := fun h => hk (h ▸ List.mem_map_of_mem hr)
  have hk64 : k < 64 := hlt k (List.mem_cons_self ..)
  have hr64 : r.1 < 64 := hlt r.1 (List.mem_cons_of_mem _ (List.mem_map_of_mem hr))
  have haddr : Reg.GIO_TEMP.addr r.1 0 0 ≠ f.r.addr k 0 0 := by
    rw [hf]
    simp only [RegDef.addr, Reg.GIO_TEMP]
    omega
  rw [State.get_put_ne (f := F.GIO_TEMP_valid) haddr, State.get_put_ne (f := F.GIO_TEMP_value) haddr, ht]

theorem State.get_showReadings {rs : List (Nat × Int)} (hdistinct : (rs.map Prod.fst).Nodup)
    (hlt : ∀ i ∈ rs.map Prod.fst, i < 64)
    {k : Nat} {x : Int} (h : (k, x) ∈ rs) :
    (s.showReadings rs).get F.GIO_TEMP_valid k = 1 ∧ (s.showReadings rs).get F.GIO_TEMP_value k = wrapInt 16 x := by
  induction rs generalizing s with
  | nil => exact absurd h List.not_mem_nil
  | cons r rs ih =>
    obtain ⟨hfirst, hrest⟩ := List.nodup_cons.1 hdistinct
    have hcons : s.showReadings (r :: rs) =
        ((s.put F.GIO_TEMP_value (wrapInt 16 r.2) r.1).put F.GIO_TEMP_valid 1 r.1).showReadings rs := rfl
    rw [hcons]
    rcases List.mem_cons.1 h with rfl | hmem
    · rw [State.get_showReadings_other rfl hfirst hlt, State.get_showReadings_other rfl hfirst hlt,
        State.get_put_disjoint (f := F.GIO_TEMP_valid) (g := F.GIO_TEMP_value) rfl (by decide) (by decide) (by decide)]
      exact ⟨State.get_put_fits (by decide) (by decide) (by decide),
        State.get_put_fits (by decide) (by decide) (wrapInt_lt _)⟩
    · exact ih hrest (fun i hi => hlt i (List.mem_cons_of_mem _ hi)) hmem

/-- With no reading hot, the sensors show the readings, and no alarm is written. -/
theorem execTempSample_cool {l : List (BitVec 16 × BitVec 16)} (hdead : s.dead = false)
    (hcool : ∀ r ∈ s.tempReadings l, r.2 < 1600) :
    ∃ y : State, execTempSample l s = .next (y.put F.PWR_SUPPLY_STATUS_thermal_warn 0) ∧
      ∀ f : Fld, f.r = Reg.GIO_TEMP → ∀ k, y.get f k = (s.showReadings (s.tempReadings l)).get f k := by
  have hhot : (s.tempReadings l).filter (fun r => decide (1600 ≤ r.2)) = [] := by
    rw [List.filter_eq_nil_iff]
    intro r hr
    rw [decide_eq_true_eq, Int.not_le]
    exact hcool r hr
  simp -implicitDefEqProofs only [execTempSample, hdead, Bool.false_eq_true, if_false, hhot, List.filter_nil,
    List.isEmpty_nil, Bool.not_true, Bool.false_and, State.when_false]
  refine ⟨_, rfl, fun f hf k => ?_⟩
  have hmax : F.GIO_TEMP_MAX_value.r.apart f.r = true := hf ▸ rfl
  have hsensor : F.GIO_TEMP_MAX_sensor.r.apart f.r = true := hf ▸ rfl
  have halert : F.GIO_EVENTS_temp_alert.r.apart f.r = true := hf ▸ rfl
  split
  case h_1 => rfl
  case h_2 m _ =>
    rw [State.get_when, State.ev_eq, State.get_put_apart halert, ite_self, State.get_put_apart hsensor,
      State.get_put_apart hmax]
    split
    · rfl
    · rfl

theorem execTempSample_shows {l : List (BitVec 16 × BitVec 16)} (hdead : s.dead = false)
    (hcool : ∀ r ∈ s.tempReadings l, r.2 < 1600) :
    ∃ t, execTempSample l s = .next t ∧ t.get F.PWR_SUPPLY_STATUS_thermal_warn = 0 ∧
      ∀ k x, (k, x) ∈ s.tempReadings l → t.get F.GIO_TEMP_valid k = 1 ∧ sext 16 (t.get F.GIO_TEMP_value k) = x := by
  obtain ⟨y, hexec, hy⟩ := execTempSample_cool hdead hcool
  have hvalid : F.PWR_SUPPLY_STATUS_thermal_warn.r.apart F.GIO_TEMP_valid.r = true := rfl
  have hvalue : F.PWR_SUPPLY_STATUS_thermal_warn.r.apart F.GIO_TEMP_value.r = true := rfl
  have hsensors := s.tempReadings_sensors l
  refine ⟨_, hexec, State.get_put_fits (by decide) (by decide) (by decide), fun k x hk => ?_⟩
  obtain ⟨hshown, hcode⟩ := State.get_showReadings (s := s) (List.nodup_range.sublist hsensors)
    (fun i hi => mem_upTo.1 (hsensors.subset hi)) hk
  rw [State.get_put_apart hvalid, State.get_put_apart hvalue, hy _ rfl, hy _ rfl, hcode]
  exact ⟨hshown, State.tempReadings_value hk⟩

/-! ## The SMBus -/

theorem State.smbAnswer_plain {cmd : Nat} {bytes : List Nat} (hup : s.smbUp = true ∧ s.on F.GIO_SMB_CFG_pec_en = false) :
    s.smbAnswer cmd bytes = s.send (.smb bytes) := by
  simp only [State.smbAnswer, hup, Bool.not_true, Bool.false_eq_true, if_false]

theorem State.smbAnswer_pec {cmd : Nat} {bytes : List Nat} (hup : s.smbUp = true ∧ s.on F.GIO_SMB_CFG_pec_en = true) :
    s.smbAnswer cmd bytes = s.send (.smb (bytes ++
      [pec ([s.get F.GIO_SMB_CFG_address * 2, cmd, s.get F.GIO_SMB_CFG_address * 2 + 1] ++ bytes)])) := by
  simp only [State.smbAnswer, hup, Bool.not_true, Bool.false_eq_true, if_false, if_true]

theorem State.smbTake_good {f : State → State} (hup : s.smbUp = true) : s.smbTake true false f = f s := by
  simp [State.smbTake, hup]

theorem execSmbUnlistedCommand_nack {cmd : BitVec 8} (hcmd : s.smbUp = true ∧ (cmd = 0 ∨ 7 < cmd.toNat)) :
    execSmbUnlistedCommand cmd s = .next ((s.ev F.GIO_EVENTS_smb_error).send .smbNack) := by
  obtain ⟨hup, hunlisted⟩ := hcmd
  refine if_neg ?_
  rcases hunlisted with rfl | h
  · simp [hup]
  · simp [hup, Nat.not_le.2 h]

end

/-- Settles O47: each general IO command takes its effect where its conditions hold. -/
theorem generalIoCommandsComplete : Obligations.GeneralIoCommandsComplete := by
  unfold Obligations.GeneralIoCommandsComplete
  refine ⟨?_, ?_, ?_, ?_, ?_, ?_, ?_, ?_, ?_, ?_, ?_, ?_, ?_, ?_, ?_, ?_, ?_, ?_⟩
  · exact fun s p bank v hbank hw hnew => execBankCfgWrite_changes hbank hw hnew
  · exact fun s bank _ => Gives.eq rfl
  · exact fun s p pin v hpin hw hgpio hfree => Gives.eq (execPinCfgWrite_gpio hpin hw hgpio hfree)
  · exact fun s pin hpin hdriven => execContentionDetect_found hpin hdriven
  · exact fun s p v u hw hidle hinput hu => execLoadTestStart_runs hw hidle hinput hu
  · exact fun s src snk n hload => execLoadTestDone_result hload.1
  · exact fun s codes k r avg hpass hk => execAdcConversion_next hpass hk
  · exact fun s l ⟨hdead, _⟩ hcool => execTempSample_shows hdead hcool
  · exact fun s sensor hone => execSensorElementFailure_both hone
  · exact fun s hup => Gives.eq (congrArg Host.Outcome.next (State.smbAnswer_plain hup))
  · exact fun s hup => Gives.eq (congrArg Host.Outcome.next (State.smbAnswer_plain hup))
  · exact fun s hup => Gives.eq (congrArg Host.Outcome.next (State.smbAnswer_plain hup))
  · intro s n ⟨hup, hn⟩
    have hlast : decide (63 < n.toNat) = false := decide_eq_false (Nat.not_lt.2 hn)
    exact Gives.eq (congrArg Host.Outcome.next ((congrArg (fun b => s.smbTake true b _) hlast).trans (State.smbTake_good hup)))
  · exact fun s hup => Gives.eq (congrArg Host.Outcome.next (State.smbAnswer_pec hup))
  · exact fun s off hup => Gives.eq (congrArg Host.Outcome.next (State.smbTake_good hup))
  · exact fun s cmd hcmd => Gives.eq (execSmbUnlistedCommand_nack hcmd)
  · exact fun s hstretch => Gives.eq (congrArg Host.Outcome.next (if_pos hstretch))
  · exact fun s hstretch => Gives.eq (if_pos (by simp [hstretch]))

end Sys2Proof.Machine
end

section
/-! PROOFS. Reads and writes of registers by descriptor, through BAR0 and over the SMBus (spec/28). -/
namespace Sys2Proof.Machine

section
variable {s : State} {p : Path} {off v : Word} {r hi : RegDef} {i j k : Nat}

/-! ## By descriptor -/

theorem execRegWrite_ok {d : Desc} {e : Word × Word} {u : State} (hadmit : s.admits d = true)
    (hmay : s.tenantMay d.tenant.toNat e.1.toNat true = true)
    (hwrite : s.writeReg (.descriptor d.tenant) 0 e.1.toNat e.2 = (u, St.OK)) : execRegWrite d [e] s = .next (u.ok d 1) := by
  refine congrArg Host.Outcome.next ((State.descriptor_plain hadmit ?_).trans ?_)
  · simp [hmay]
  · simp -implicitDefEqProofs only [State.applyEntries, hwrite, if_true, State.ok]

theorem execRegRead_ok {d : Desc} {buffer : BitVec 64} {o : Word} (hadmit : s.admits d = true)
    (hmay : s.tenantMay d.tenant.toNat o.toNat false = true) :
    ∃ t, execRegRead d buffer [o] s = .next t ∧ ∃ (u : State) (w : Word),
      (u, w) = s.readReg (.descriptor d.tenant) o.toNat ∧
        t = (u.hostWrite d.tenant.toNat buffer.toNat (natBytes 4 w.toNat)).ok d 1 := by
  refine ⟨_, congrArg Host.Outcome.next ((State.descriptor_plain hadmit ?_).trans ?_),
    (s.readReg (.descriptor d.tenant) o.toNat).1, (s.readReg (.descriptor d.tenant) o.toNat).2, rfl, rfl⟩
  · simp [hmay]
  · simp -implicitDefEqProofs only [State.readRegs, List.flatMap_cons, List.flatMap_nil, List.append_nil,
      List.length_singleton]

/-! ## On the bus -/

section
variable {write : Bool} (hreaches : s.reaches p off.toNat write = true ∧ s.devState ≠ V.PWR_DEV_STATUS_state_DEEP_SLEEP)
include hreaches

/-- An access that reaches the device finds it awake. -/
theorem State.reaches_awake : s.dead = false ∧ s.asleepFor p = false ∧ s.hostAccess p = s := by
  obtain ⟨hreach, hawake⟩ := hreaches
  have hdead : s.dead = false := Bool.not_eq_true' _ ▸ (Bool.and_eq_true_iff.1 hreach).1
  have hdeep : (s.devState == V.PWR_DEV_STATUS_state_DEEP_SLEEP) = false := beq_eq_false_iff_ne.2 hawake
  refine ⟨hdead, ?_, ?_⟩
  · rw [State.asleepFor, hdeep, Bool.and_false, Bool.false_and]
  · rw [State.hostAccess, hdeep, Bool.and_false, Bool.false_and, State.when_false]

theorem State.busWrite_whole (hfind : findReg (s.translate off.toNat) = some (r, i, j, k)) (hwrite : write = true) :
    s.busWrite p none off v 15 = (s.writeAt p s.session r i j k v).1 := by
  obtain ⟨hdead, -, haccess⟩ := State.reaches_awake hreaches
  have hgo : ¬ (!s.reaches p off.toNat true ∨ (15 : BitVec 4) = 0) := by simp [← hwrite, hreaches.1]
  simp -implicitDefEqProofs only [State.busWrite, if_neg hgo, haccess, if_true, State.writeReg, hdead,
    Bool.false_eq_true, if_false, hfind]

variable (hread : write = false) (hopen : s.openBlock (s.translate off.toNat) = true)
  (hfind : findReg (s.translate off.toNat) = some (r, i, j, k))
include hread hopen hfind

theorem State.busRead_whole {w : Word} {u : State} (hat : s.readAt p r i j k true = (u, w)) :
    s.busRead p none off 15 = u.send (.data p off.toNat w.toNat) := by
  obtain ⟨hdead, hawake, haccess⟩ := State.reaches_awake hreaches
  have hreach : s.reaches p off.toNat false = true := hread ▸ hreaches.1
  have hbytes : ¬ (15 : BitVec 4) = 0 := by decide
  simp -implicitDefEqProofs only [State.busRead, hreach, Bool.not_true, Bool.false_eq_true, if_false, if_neg hbytes,
    haccess, bne_self_eq_false, State.when_false, State.readReg, hdead, hawake, Bool.false_and, Bool.or_self, hopen,
    hfind, hat]

end

theorem State.readAt_latches {clears : Bool}
    (hpair : latchPairs.find? (fun q => q.1.is r || q.2.is r) = some (r, hi)) :
    s.readAt p r i j k clears = (s.setLatch (r.addr i j k) p [BitVec.ofNat 32 (s.pairValue r hi i j k / 2 ^ 32)],
      BitVec.ofNat 32 (s.pairValue r hi i j k)) := by
  have hself : r.is r = true := beq_self_eq_true _
  simp -implicitDefEqProofs only [State.readAt, hpair, hself, if_true]

theorem State.readAt_clears (hsingle : latchPairs.find? (fun q => q.1.is r || q.2.is r) = none)
    (hplain : [Reg.CAP_QT_DATA, Reg.SWF_OP_DATA, Reg.SWF_DQ_DATA, Reg.RAS_LOG_DATA, Reg.OBS_SHD_OFFSET, Reg.OBS_SHD_VALUE_LO,
      Reg.OBS_SHD_VALUE_HI, Reg.GIO_IN].all (fun x => !r.is x) = true) (hrc : r.rc ≠ 0) :
    s.readAt p r i j k true =
      (s.setWord r (s.word r i j k &&& BitVec.ofNat 32 (0xFFFFFFFF ^^^ r.rc)) i j k, s.shown r i j k) := by
  have hclears : (true && r.rc != 0) = true := by simp [hrc]
  simp only [List.all_cons, List.all_nil, Bool.and_eq_true, Bool.not_eq_true', and_true] at hplain
  obtain ⟨hquire, hop, hdq, hlog, hoffset, hlow, hhigh, hin⟩ := hplain
  simp -implicitDefEqProofs only [State.readAt, hsingle, hquire, hop, hdq, hlog, hoffset, hlow, hhigh, hin, hclears,
    Bool.or_self, Bool.false_eq_true, if_false, if_true]

theorem execBar0BadRequest_abort
    (hreaches : s.reaches .bar0 off.toNat false = true ∧ s.devState ≠ V.PWR_DEV_STATUS_state_DEEP_SLEEP) :
    execBar0BadRequest off s =
      .next ((s.err V.GLB_ERR_INFO_kind_BAD_ACCESS off.toNat .bar0).send .completerAbort) := by
  obtain ⟨-, -, haccess⟩ := State.reaches_awake hreaches
  refine (if_neg (by simp [hreaches.1])).trans ?_
  rw [haccess]

theorem execSmbReadRegister_low (hup : s.smbUp = true ∧ s.gio.smbOffset < 0x1000) :
    ∃ t, execSmbReadRegister s = .next t ∧ ∃ r, r = s.readReg .management s.gio.smbOffset false ∧
      t = ({ s with free := r.1.free }).smbAnswer 7 (4 :: natBytes 4 r.2.toNat) := by
  refine ⟨_, ?_, _, rfl, rfl⟩
  simp -implicitDefEqProofs only [execSmbReadRegister, hup, Bool.not_true, Bool.false_eq_true, if_false,
    decide_true, Bool.true_or, if_true]

end

/-- Settles O48: each register access takes its effect where its conditions hold. -/
theorem registerAccessesComplete : Obligations.RegisterAccessesComplete := by
  unfold Obligations.RegisterAccessesComplete
  refine ⟨?_, ?_, ?_, ?_, ?_, ?_, ?_⟩
  · exact fun s d e u hadmit hmay hwrite => Gives.eq (execRegWrite_ok hadmit hmay hwrite)
  · exact fun s d buffer o hadmit hmay => execRegRead_ok hadmit hmay
  · exact fun s p off r hi i j k hreaches hopen hfind hpair => Gives.eq (congrArg Host.Outcome.next
      (State.busRead_whole hreaches rfl hopen hfind (State.readAt_latches hpair)))
  · exact fun s p off r i j k hreaches hopen hfind hsingle hplain hrc => Gives.eq (congrArg Host.Outcome.next
      (State.busRead_whole hreaches rfl hopen hfind (State.readAt_clears hsingle hplain hrc)))
  · exact fun s p off v r i j k hreaches hfind => Gives.eq (congrArg Host.Outcome.next
      (State.busWrite_whole hreaches hfind rfl))
  · exact fun s off hreaches => Gives.eq (execBar0BadRequest_abort hreaches)
  · exact fun s hup => execSmbReadRegister_low hup

end Sys2Proof.Machine
end
